-- ==== Sys2Proof/Word.lean ====
section
/-! DEFINITION. The word types of the GX1920: registers and dwords are 32 bits (R7), bytes 8 bits. -/

namespace Sys2Proof

/-- One byte. -/
abbrev Byte := BitVec 8

/-- One dword: a register, or one of the 16 words of a submission entry (R7, R345). -/
abbrev Word := BitVec 32

/-- A 16-bit field: device addresses, ring indices, wire microframe numbers. -/
abbrev Half := BitVec 16

/-- An endpoint handle: address [19:4], direction [3], endpoint [2:0] (R37). -/
abbrev Handle := BitVec 20

/-- A microframe number (R3). -/
abbrev MfNum := BitVec 48

end Sys2Proof
end

