-- ==== Sys2Proof/Data.lean ====
section
/-! DEFINITION. The data that the commands of the GX1920 bring: unit numbers, ring entries, packets, graph images, frames of the Miodel
link. Unit numbers are `Fin` types, so a command never names a lane, trunk, engine or function that the device does not have (R71,
R344, R372, R415). -/

namespace Sys2Proof

/-! ## Units -/

/-- A lane LN000 to LN191 (R71). -/
abbrev LaneId := Fin 192
/-- A trunk, and its root port: the number of its lowest lane (R71, R98). -/
abbrev Trunk := Fin 192
/-- A quad of lanes (R71). -/
abbrev QuadId := Fin 48
/-- A function: 0 is the PF, v + 1 is VF v (R415). -/
abbrev FnId := Fin 1025
/-- A virtual function (R415). -/
abbrev VfId := Fin 1024
/-- A block-mover engine (R372). -/
abbrev EngineId := Fin 16
/-- A graph processing element (R184). -/
abbrev GpeId := Fin 64
/-- A priority, 0 to 7 (R190). -/
abbrev Prio := Fin 8

/-! ## Entries of rings -/

/-- A submission entry: 16 dwords (R345). -/
structure Sqe where
  dw : Vector Word 16
  deriving DecidableEq, Repr

/-- Which entry of which submission ring: function, local ring index, ring entry index (R344). -/
structure EntryRef where
  fn : FnId
  sq : BitVec 11
  idx : Half
  deriving DecidableEq, Repr

/-! ## Lybor packets and lane blocks -/

/-- A DATA packet as received (table Data header layout, R40). The payload's length is LENGTH. -/
structure DataPkt where
  flags : Byte
  tag : BitVec 12
  handle : Handle
  hops : BitVec 4
  seq : Half
  payload : List Byte
  deriving DecidableEq, Repr

/-- A handshake as received (table Handshake layout, R40); its KIND is the command that carries it. -/
structure Handshake where
  flags : Byte
  tag : BitVec 12
  hops : BitVec 3
  deriving DecidableEq, Repr

/-- A token as a device-role port receives it (table Token layout, R40), with the DATA payload that follows it. `tag` is bytes 2 and 3:
TAG, or EFFECT_MF of a BCAST (R66), whose COMMAND is the low byte of `length`. -/
structure TokenPkt where
  kind : Byte
  flags : Byte
  tag : Half
  handle : Handle
  length : BitVec 11
  seq : Half
  payload : List Byte
  /-- SEQ and FLAGS of the DATA that followed the token. -/
  dataSeq : Half
  dataFlags : Byte
  deriving DecidableEq, Repr

/-- A received alignment marker (R78): its 8 bytes, byte 0 in the low bits, and the BIP that the receiver has computed. -/
structure Marker where
  raw : BitVec 64
  bip : Byte
  deriving DecidableEq, Repr

/-- What a receiver meets as it looks for packets (R73, R74, R76): a byte after so many gap bytes, a KIND, the LENGTH of a DATA, a block with its
sync header and payload. -/
inductive DelinCause
  | gap (b : Byte) (n : Nat)
  | kind (b : Byte)
  | length (n : Half)
  | block (header : BitVec 2) (payload : BitVec 64)
  deriving DecidableEq, Repr

/-- Where delineation is at stake, by what, and whether a packet was being received. -/
structure DelinAt where
  trunk : Trunk
  cause : DelinCause
  packet : Bool
  deriving DecidableEq, Repr

/-- A control block that a trunk receives while delineation is lost: its type. -/
structure DelinBack where
  trunk : Trunk
  typ : Byte
  deriving DecidableEq, Repr

/-- A lane whose pattern checker loses its lock, and the mismatched bits since the lock that are not counted yet (R94). -/
structure LockLoss where
  lane : LaneId
  errors : Half
  deriving DecidableEq, Repr

/-- The four results of a margin check, in steps (R87). -/
structure Margins where
  hLeft : BitVec 7
  hRight : BitVec 7
  vUp : BitVec 5
  vDown : BitVec 5
  deriving DecidableEq, Repr

/-- What the audit eye scan counted on one lane (R265): the mismatches at the 17 × 11 points of the grid, HOFF from −64 in steps of 8 within VOFF
from −30 in steps of 6. A point that is not listed has counted none. -/
structure EyeGrid where
  lane : LaneId
  counts : List Nat
  deriving DecidableEq, Repr

/-- Sense levels (table Sense levels, R99). -/
inductive Sense | none | classic | lyborL | lyborH | invalid
  deriving DecidableEq, Repr

/-! ## Graph images (R190, R214). The record layouts are Nysozil's, so an image comes as its decoded tables. -/

/-- Where a SOURCE reads and a SINK writes: an endpoint handle, a multicast group, or a cascade endpoint (R191, R207,
R308). -/
inductive EpRef
  | handle (h : Handle)
  | group (g : BitVec 14)
  | cascade (port : Trunk) (ep : BitVec 3)
  deriving DecidableEq, Repr

/-- Activity modes of MIX and ROUTE inputs (R197). -/
inductive ActMode | always | flag | level
  deriving DecidableEq, Repr

/-- One input of a MIX or ROUTE node (R197, R198, R200). Gains are Q5.27, thresholds Q2.30. -/
structure MixIn where
  gain : Int
  prio : Nat
  mode : ActMode
  thresh : Int
  hold : Nat
  ovrLevel : Nat
  duckEn : Bool
  deriving DecidableEq, Repr

/-- One biquad section; coefficients in Q2.30 (R202). -/
structure Biquad where
  b0 : Int
  b1 : Int
  b2 : Int
  a1 : Int
  a2 : Int
  deriving DecidableEq, Repr

/-- One channel of a SINK (R207): OFFSET, ZONE and LINE (`none` for 0xFFFF). -/
structure SinkCh where
  offset : Nat
  zone : Option Nat
  line : Option Nat
  deriving DecidableEq, Repr

/-- The parameters of a CORRELATE node (R210, R248). -/
structure CorrParams where
  line : Nat
  sinkNode : Nat
  channel : Nat
  lag : Nat
  ref : Nat
  lowThr : Nat
  openThr : Nat
  highThr : Nat
  shortThr : Nat
  confirm : Nat
  fltByte : Nat
  fltBit : Nat
  muslinByte : Nat
  muslinBit : Nat
  pilotMode : Nat
  deriving DecidableEq, Repr

/-- Node kinds with their parameters (tables Node kinds and R191 to R210). -/
inductive NodeKind
  | source (ep : EpRef) (offset : Nat) (rate8k : Bool) (flagByte flagBit : Nat) (hold : Bool) (holdMax : Nat)
  | gen (g : Nat)
  | mix (ins : List MixIn) (duckGain : Int) (attack release : Nat)
  | route (ins : List MixIn) (xfade : Nat)
  | gain (g : Int) (mute : Bool) (ramp : Nat)
  | eq (sections : List Biquad)
  | delay (base line d : Nat)
  | limit (c k : Int)
  | meter (w : Nat)
  | sink (ep : EpRef) (chans : List SinkCh) (statusOff : Nat) (status : List Byte)
  | tap (tap : Nat)
  | correlate (c : CorrParams)
  deriving DecidableEq, Repr

/-- A node record (R190, R219, R229, R452). `patchable` lists the patchable parameter words. -/
structure Node where
  kind : NodeKind
  prio : Nat
  owner : Nat
  key : Word
  cyc : Nat
  inputs : List Nat
  home : Nat
  flow : Nat
  order : Nat
  stateOff : Nat
  stateSize : Nat
  wake : Bool
  patchable : List Nat
  deriving DecidableEq, Repr

/-- Waveforms of a tone generator (R193). -/
inductive Wave | sine | dual | sweep | noise
  deriving DecidableEq, Repr

/-- A tone generator's parameters (R193). LEVEL is Q2.30. -/
structure ToneParams where
  wave : Wave
  f1 : Word
  f2 : Word
  level : Int
  sweepMf : Nat
  seed : Word
  onMf : Nat
  offMf : Nat
  run : Bool
  trigger : Option Nat
  deriving DecidableEq, Repr

/-- A generator record of the image: CLIP or TONE mode (R193, R194). -/
inductive GenMode
  | clip
  | tone (p : ToneParams)
  deriving DecidableEq, Repr

/-- A zone record (R211). `repeat_` is POLICY REPEAT. -/
structure ZoneRec where
  zone : Nat
  repeat_ : Bool
  prio : Nat
  deriving DecidableEq, Repr

/-- One patch record (R214): NODE, FIRST_WORD, COUNT and DATA_OFF, and the node's record with those words replaced. -/
structure PatchRec where
  node : Nat
  firstWord : Nat
  count : Nat
  dataOff : Nat
  kind : NodeKind
  deriving DecidableEq, Repr

/-- The header of an image (table Graph image header, R214). -/
structure ImageHeader where
  magic : Word
  format : Half
  typ : Byte
  graphId : Word
  baseId : Word
  imageBytes : Nat
  nodes : Nat
  zones : Nat
  sources : Nat
  taps : Nat
  generators : Nat
  delaySamples : Nat
  cycP0 : Nat
  cycGeneral : Nat
  stateBytes : Nat
  ucodeMin : Nat
  nodeOff : Nat
  paramOff : Nat
  paramBytes : Nat
  zoneOff : Nat
  sourceOff : Nat
  genOff : Nat
  tapOff : Nat
  crc : Nat
  deriving DecidableEq, Repr

/-- A graph image or patch as GRAPH_LOAD reads it (R214): its bytes, from which the header and the patch records are read, and its records in
the layout that FORMAT names, which is Nysozil's: the nodes, zones, generators and taps of a FULL image, the patched nodes of a PATCH in the
order of its records. -/
structure ImageFile where
  bytes : List Byte
  nodes : List Node
  zones : List ZoneRec
  gens : List (Nat × GenMode)
  taps : List Nat
  kinds : List NodeKind
  /-- Every record in Nysozil's layout lies inside IMAGE_BYTES. -/
  recordsInside : Bool
  deriving DecidableEq, Repr

/-! ## Host memory as the device reads it -/

/-- What the device reads from host memory while it carries out an entry. -/
inductive HostData
  | none
  | bytes (b : List Byte)
  | image (img : ImageFile)
  /-- CREATE_CQ: every entry of the ring has OWN = 0 (R361). -/
  | ringClean (b : Bool)
  deriving DecidableEq, Repr

/-- How a host request of the device ends (R387, R363). A completion that fails its ECRC, or meets a parity error on the HIF datapath, is not
one of these: the request stays outstanding (R331, R436). `buffer` is good data that meets a parity error in the block mover's own data
buffer (R436). -/
inductive CplStatus | ok | ur | ca | poisoned | ecrc | parity | buffer
  deriving DecidableEq, Repr

/-- What a ring scan reads (R351): for an SQ, ENABLE of the ring state block and the entries from the position; for a
CQ, the OWN bits from the end of the credit; or the failing completion of R363. -/
inductive ScanData
  | sq (enable : Bool) (entries : List Sqe)
  | cq (own : List Bool)
  | failed (st : CplStatus)
  deriving DecidableEq, Repr

/-- The requester whose request timed out (R329). -/
inductive Requester
  | engine (e : EngineId)
  | ring (fn : FnId) (local_ : BitVec 11)
  deriving DecidableEq, Repr

/-- What ENTRY_START reads: the host's data, and an ECC error of the entry cache in the SQE, a double-bit one or not (R353). -/
structure EntryRead where
  data : HostData
  ecc : Option Bool
  deriving DecidableEq, Repr

/-- An engine that starts a burst; a parity error in its data buffer (R436). -/
structure BurstAt where
  engine : EngineId
  parity : Bool
  deriving DecidableEq, Repr

/-- Why a received write is not carried out: its ECRC fails, it is poisoned, or it meets a parity error on the HIF
datapath (R330, R331, R436). -/
inductive TlpError | ecrc | poisoned | parity
  deriving DecidableEq, Repr

/-- The byte enables of a write, the upper half of one of 64 bits with its own byte enables (R7), and what is wrong with its TLP: the function
that it addresses, and the error. -/
structure WriteTlp where
  be : BitVec 4
  hi : Option (Word × BitVec 4)
  bad : Option (FnId × TlpError)
  deriving DecidableEq, Repr

/-- What is wrong with the TLP of a read: it carries no data that could be poisoned. -/
inductive ReadError | ecrc | parity
  deriving DecidableEq, Repr

/-- The function that a read addresses, whether it reads 64 bits (R7, R28), the mismatched bits that the pattern checker of the lane it reads has
met and not counted yet (R94), and what is wrong with its TLP. -/
structure ReadTlp where
  fn : FnId
  wide : Bool
  prbs : Half
  bad : Option ReadError
  deriving DecidableEq, Repr

/-! ## Bridge -/

/-- A view: a PF window, or a delegated window of a VF (R394). -/
inductive View
  | pf (w : Fin 256)
  | vf (v : VfId) (d : Fin 4)
  deriving DecidableEq, Repr

/-- A view whose next access starts; a parity error in the class buffer that holds the access (R436). -/
structure ViewAt where
  view : View
  parity : Bool
  deriving DecidableEq, Repr

/-- The AtomicOps the device completes (R404). -/
inductive AtomicOp
  | fetchAdd (operand : BitVec 64)
  | swap (operand : BitVec 64)
  | cas (compare swapTo : BitVec 64)
  deriving DecidableEq, Repr

/-! ## Miodel link (R279) -/

/-- What a TIME frame says (R279). -/
structure TimeFrame where
  mf : MfNum
  role : BitVec 2
  pstate : BitVec 3
  rank : BitVec 3
  term : Word
  timeSrc : BitVec 2
  margins : List (Nat × Byte)
  abdicate : Bool
  rsqFailed : Bool
  /-- HIF_STATUS.HOST_LOST of the sender (R335; DESIGN CHOICE, log entry 53). -/
  hostLost : Bool
  deriving DecidableEq, Repr

/-- One trunk of a PRESENCE record: COMPLETE, or the tags lacked (R281). -/
structure PresenceRec where
  trunk : Trunk
  lacks : List (BitVec 12)
  deriving DecidableEq, Repr

/-- One reconciled block of a BLOCKS frame (R279, R281). -/
structure BlockRec where
  trunk : Trunk
  tag : BitVec 12
  payload : List Byte
  deriving DecidableEq, Repr

/-- One generator's part of a CLIP frame (R297). -/
structure ClipRec where
  gen : Fin 256
  present : Bool
  samples : List Int
  deriving DecidableEq, Repr

/-- A RELAY frame: a packet to send on the receiver's trunk, or one received there (R298). -/
inductive RelayFrame
  | send (trunk : Trunk) (bytes : List Byte)
  | gotData (trunk : Trunk) (d : DataPkt)
  | gotHandshake (trunk : Trunk) (kind : Byte) (h : Handshake)
  deriving DecidableEq, Repr

/-- What a HELLO frame says (R279, R287). -/
structure HelloFrame where
  serial : BitVec 64
  side : Bool
  rank : BitVec 3
  ucode : Word
  /-- Values of the pair-checked registers, by PF BAR0 offset. -/
  regs : List (Nat × Word)
  /-- Width of each trunk, by number, for R274: no rule says how a device learns its peer's (DESIGN CHOICE, log entry 47). -/
  widths : List Nat
  role : BitVec 2
  term : Word
  /-- The peer's FRAME_SYNC pulses fall at our marks to within 1 µs. -/
  aligned : Bool
  deriving DecidableEq, Repr

/-- Loss causes of the peer (table Peer loss, R299). -/
inductive LossCause | silent | abdicate | rsqFailed
  deriving DecidableEq, Repr

/-! ## Power, clocks, memories -/

/-- Wake sources (table Wake sources, R460). -/
inductive WakeSource | mgt | lybor | pcie | alarm | emerg | request
  deriving DecidableEq, Repr

/-- Clock domains that step (R445). -/
inductive DvfsDomain | core | dsp
  deriving DecidableEq, Repr

/-- Reference sources, in the order of R465. -/
inductive RefSource | cascade | miodel | refclk
  deriving DecidableEq, Repr

/-- An ECC hit of a read: address, and whether the error is a double-bit one (R176, R186). -/
structure EccHit where
  addr : Nat
  double : Bool
  deriving DecidableEq, Repr

/-- What a walker meets as it visits its next entry: a double-bit error of schedule memory at an offset, in the entry's word or in the tree
node that holds its list (R435); an error of endpoint buffer memory (R176); a parity failure of the word at an address of that memory, as
it is handed to the link layer or in the link layer's transmit buffer (R178, R436). -/
inductive WalkHit
  | list (addr : Nat)
  | ebm (h : EccHit)
  | parity (addr : Nat)
  deriving DecidableEq, Repr

/-- The trunk of a walker, and what it meets. -/
structure WalkAt where
  trunk : Trunk
  hit : Option WalkHit
  deriving DecidableEq, Repr

/-- The trunk whose fill starts an attempt, and the address of a word that fails its parity on the way to the link layer (R178). -/
structure SendAt where
  trunk : Trunk
  parity : Option Nat
  deriving DecidableEq, Repr

/-- Why a received packet is discarded (R38, R112, R436): its CRC fails, a parity error in the receive buffer makes it fail, or its KIND is
unknown. -/
inductive Discard | crc | parity | kind
  deriving DecidableEq, Repr

/-- The trunk of a packet that is discarded, and why. -/
structure CrcFail where
  trunk : Trunk
  cause : Discard
  deriving DecidableEq, Repr

/-- What an operation meets: an error of graph memory (R186) or of endpoint buffer memory (R176), or a parity error of a dispatcher queue or the
release buffer, which counts as an error of the node's record at an offset of graph memory (R436). -/
inductive OpHit
  | graph (h : EccHit)
  | ebm (h : EccHit)
  | queue (addr : Nat)
  deriving DecidableEq, Repr

/-- What the application of a staging command meets at an offset of schedule memory (R435): a double-bit error in a list of the shadow bank,
at a place of it, or in the command's record in the change log. -/
inductive StageHit
  | list (addr : Nat) (trunk : Trunk) (k p : Nat) (out : Bool) (place : Nat)
  | log (addr : Nat)
  deriving DecidableEq, Repr

/-- A staging command, and what its application meets. -/
structure StageSqe where
  sqe : Sqe
  hit : Option StageHit
  deriving DecidableEq, Repr

/-- An access through PF BAR2 (R181). -/
inductive DiagAccess
  | read (addr : BitVec 27) (len : Nat)
  | write (addr : BitVec 27) (bytes : List Byte)
  deriving DecidableEq, Repr

/-- What a mark on a cascade port says (R42): MFN, and LOWPOWER. -/
structure CascMark where
  mfn : Half
  lowPower : Bool
  deriving DecidableEq, Repr

/-- How a control transfer or PING of the topology manager ended (R116). -/
structure TmReply where
  /-- A status code of table Status codes (R370). -/
  status : Byte
  data : List Byte
  /-- An address whose word of the serial table has a double-bit error, and the word's offset in schedule memory (R435): read when step 5 looks
  for the serial number. -/
  lost : Option (Half × Nat)
  deriving DecidableEq, Repr

end Sys2Proof
end

