-- ==== Sys2Proof/Machine/Tbl.lean ====
section
/-! DEFINITION. Sparse tables: lists of (key, value) pairs in one canonical form, keys strictly rising and no value equal
to what an unlisted key holds, so that equal tables are equal data. The register file, the endpoint buffer memory, the
flash and the records of the device's units are all held so. -/

namespace Sys2Proof.Machine

/-- A sparse table. What an unlisted key holds is given to each operation as a function. -/
abbrev Tbl (α : Type) := List (Nat × α)

/-- The value at key `k`; `d` gives what unlisted keys hold. -/
def Tbl.get {α : Type} (d : Nat → α) : Tbl α → Nat → α
  | [], k => d k
  | (a, v) :: r, k => if a = k then v else Tbl.get d r k

/-- Put `v` at `k`, keeping the keys rising. -/
def Tbl.put {α : Type} : Tbl α → Nat → α → Tbl α
  | [], k, v => [(k, v)]
  | (a, w) :: r, k, v =>
    if k < a then (k, v) :: (a, w) :: r
    else if a = k then (k, v) :: r
    else (a, w) :: Tbl.put r k v

/-- Remove key `k`. -/
def Tbl.del {α : Type} : Tbl α → Nat → Tbl α
  | [], _ => []
  | (a, w) :: r, k => if a = k then Tbl.del r k else (a, w) :: Tbl.del r k

/-- Write `v` at `k`; writing what an unlisted key holds removes the entry. -/
def Tbl.set {α : Type} [DecidableEq α] (d : Nat → α) (m : Tbl α) (k : Nat) (v : α) : Tbl α :=
  if v = d k then Tbl.del m k else Tbl.put m k v

/-- Change the value at `k` by `f`. -/
def Tbl.upd {α : Type} [DecidableEq α] (d : Nat → α) (m : Tbl α) (k : Nat) (f : α → α) : Tbl α :=
  Tbl.set d m k (f (Tbl.get d m k))

/-- Every key is above `b`, and the keys rise. -/
def Tbl.rising {α : Type} : Nat → Tbl α → Bool
  | _, [] => true
  | b, (a, _) :: r => decide (b ≤ a) && Tbl.rising (a + 1) r

/-- The canonical form: keys strictly rising, no entry equal to what an unlisted key holds. -/
def Tbl.wf {α : Type} [DecidableEq α] (d : Nat → α) (m : Tbl α) : Bool :=
  Tbl.rising 0 m && m.all (fun e => decide (e.2 ≠ d e.1))

/-- Keep the entries whose key satisfies `p`. -/
def Tbl.keep {α : Type} (p : Nat → Bool) (m : Tbl α) : Tbl α := m.filter (fun e => p e.1)

/-- Memory of bytes: what an unlisted address reads as is `d`. -/
def Tbl.readBytes (d : Byte) (m : Tbl Byte) (a : Nat) : Nat → List Byte
  | 0 => []
  | n + 1 => Tbl.get (fun _ => d) m a :: Tbl.readBytes d m (a + 1) n

/-- Write bytes from address `a` on, one after the other. -/
def Tbl.writeBytes (d : Byte) (m : Tbl Byte) (a : Nat) : List Byte → Tbl Byte
  | [] => m
  | b :: bs => Tbl.writeBytes d (Tbl.set (fun _ => d) m a b) (a + 1) bs

end Sys2Proof.Machine
end

