-- ==== Sys2Proof/Machine/Types.lean ====
section
/-! DEFINITION. The records that State holds: transfers and transactions of the bus, rings and their entries, block-mover
channels, views of the bridge, grants, and what the device puts out. -/

namespace Sys2Proof.Machine

/-! ## What the device puts out -/

/-- A packet as the device sends it (R40, R42, R66). Fields that a kind does not have are 0. `seq` holds SEQ, the mark's MFN, or ARG
of a broadcast; `tag` holds TAG, EFFECT_MF of a broadcast, or ROOT_ID of a mark; `handle` holds HANDLE, the group ID, or TRUNK of a
mark; `len` holds LENGTH, or COMMAND of a broadcast. -/
structure Pkt where
  kind : Nat
  flags : Nat
  tag : Nat
  handle : Nat
  inner : Nat
  len : Nat
  seq : Nat
  payload : List Byte
  deriving DecidableEq, Repr

/-- How a host read of the device ends (R182, R323, R396, R404). -/
inductive HostAns
  | data (b : List Byte)
  | unsupported
  | completerAbort
  deriving DecidableEq, Repr

/-! ## Bus (R44, R54 to R65) -/

/-- An open periodic transaction of a trunk, or a periodic split waiting for its CSPLIT (R44, R45, R62). -/
structure PerTx where
  kind : Nat
  inner : Nat
  handle : Nat
  seq : Nat
  len : Nat
  start : Nat
  /-- Its block has been accepted: the tag stands for it until it is used again (R281). -/
  got : Bool
  deriving DecidableEq, Repr

/-- Who a transfer serves. -/
inductive XOwner
  | entry (r : EntryRef)
  | view (v : Nat)
  | tm (port : Nat)
  deriving DecidableEq, Repr

/-- Kinds of non-periodic transfers (R54, R57, R59). -/
inductive XKind | bulkOut | bulkIn | control | tunnelTx | tunnelRx
  deriving DecidableEq, Repr

/-- A packet buffer that is FULL (R173): its sequence number, its bytes and its LAST bit. -/
structure PktBuf where
  seq : Nat
  data : List Byte
  last : Bool
  deriving DecidableEq, Repr

/-- The attempts of one packet of a transfer: how many have failed, and the earliest microframe of the next try
(R58). -/
structure Att where
  seq : Nat
  fails : Nat
  notBefore : Nat
  /-- The SSPLIT has been acknowledged: microframe of the CSPLIT, and the SEQ that it repeats (R62). -/
  split : Option (Nat × Nat)
  deriving DecidableEq, Repr

/-- A non-periodic transfer (R54 to R60). -/
structure Xfer where
  owner : XOwner
  fn : Nat
  kind : XKind
  /-- The endpoint: OUT or IN handle; OUT endpoint 0 for a control transfer. -/
  handle : Nat
  trunk : Nat
  /-- Bytes of the buffer or of the data stage. -/
  len : Nat
  chan : Option Nat
  addr : Nat
  crc : Bool
  setup : List Byte
  /-- 0 setup, 1 data, 2 status (R59); 1 for every other kind. -/
  stage : Nat
  /-- Sequence number of the first packet, and of the next new packet. -/
  first : Nat
  next : Nat
  /-- Oldest unacknowledged packet. -/
  ack : Nat
  /-- Bytes that have been acknowledged or received (R109). -/
  moved : Nat
  /-- Bytes taken from the host, or given to it. -/
  hostDone : Nat
  /-- FULL packet buffers. -/
  bufs : List PktBuf
  /-- Bytes received and not given to the host: control data, tunnel frame, bulk CRC tail. -/
  data : List Byte
  att : List Att
  nakCount : Nat
  nakMf : Option Nat
  nakLimit : Nat
  /-- A packet with LAST has been sent, or received with every packet before it. -/
  lastSeen : Bool
  /-- Tick at which a packet with LAST arrived (R56). -/
  lastAt : Option Nat
  /-- Tick at which the transfer became ready (R110). -/
  readyAt : Nat
  /-- Waits for a slot (R165). -/
  waitSlot : Bool
  /-- Format and frame check flags of a tunnel transfer (R409, R410). -/
  format : Nat
  addFcs : Bool
  /-- CLEAR_STALL goes first (R425). -/
  clearStall : Bool
  /-- The function has been reset: it ends when its open attempts have ended (R423). -/
  squash : Bool
  deriving DecidableEq, Repr

/-- An open non-periodic transaction (R44, R58): the transfer it belongs to (0 for a PING, 2^41 + view for a packet of a
locked sequence), the packet `seq` it serves, and the SEQ `exp` of its token. KIND 0 stands for an attempt that ERR has
ended and whose response window is still open. -/
structure NpTx where
  xfer : Nat
  kind : Nat
  /-- Inner token of a CSPLIT or SSPLIT, else 0. -/
  inner : Nat
  handle : Nat
  seq : Nat
  exp : Nat
  len : Nat
  start : Nat
  close : Nat
  mf : Nat
  deriving DecidableEq, Repr

/-- The class 0x03 node that a device-role port presents (R41, R61, R64, R307, R507): its address, the group bound to each OUT endpoint,
the tick of the LOCK that holds it, what SNAPSHOT latched (as the model's counter of free values), the control transfer on endpoint 0
(payload, stage: 0 none, 1 running, 2 in its status stage, 3 stalled; SEQ of the next packet), and the SEQ of the last DATA accepted, by
OUT endpoint and by 8 + endpoint for its binding (R53). Of the marks (R43, R67): the tick of the last one, whether it announced low power,
and its MFN. Of the broadcasts: the EFFECT_MF of each SNAPSHOT and of each CLEAR_COUNTERS that waits for its mark, and the late ones counted,
the node's error counter. -/
structure DevNode where
  addr : Nat
  bindings : Tbl (Option Nat)
  lockedAt : Option Nat
  snapshot : Nat
  setup : List Byte
  stage : Nat
  next : Nat
  lastSeq : Tbl (Option Nat)
  lastMark : Option Nat
  low : Bool
  mfn : Nat
  snapAt : List Nat
  clearAt : List Nat
  late : Nat
  deriving DecidableEq, Repr

/-! ## Rings (R344 to R365) -/

/-- A completion on its way to a CQ (R346): SQ_HEAD is filled in when it is written, unless `head` gives the upper half
of dword 1 (the EVENT code of an event, the position of an INVALIDATED entry). `wb` is the SQE whose OWN is then
cleared: its ring index and dword 0. -/
structure Cqe where
  status : Nat
  cid : Nat
  sq : Nat
  residue : Nat
  d4 : Word
  d5 : Word
  d6 : Word
  d7 : Word
  wb : Option (EntryRef × Word)
  /-- Signal at once (R385). -/
  urgent : Bool
  head : Option Nat
  deriving DecidableEq, Repr

/-- A submission ring (R344, R351, R360 to R363). `first` is FIRST of an invalidation in progress (R354); `deleting` is
the DELETE_SQ that waits for IDLE (R362); `skip` the entries behind the position that the ring has already taken (R354,
R355). -/
structure SqRec where
  glob : Nat
  base : Nat
  log2 : Nat
  rsb : Nat
  cq : Nat
  pos : Nat
  enable : Bool
  idle : Bool
  fetchStopped : Bool
  faulted : Bool
  scanning : Bool
  again : Bool
  first : Option Nat
  invalAgain : Bool
  deleting : Option EntryRef
  skip : List Nat
  deriving DecidableEq, Repr

/-- A completion ring (R349, R357, R359). -/
structure CqRec where
  glob : Nat
  base : Nat
  log2 : Nat
  rsb : Nat
  modCount : Nat
  modTime : Nat
  vector : Nat
  ien : Bool
  pos : Nat
  credit : Nat
  hold : List Cqe
  waiting : List Cqe
  overflow : Bool
  sinceSig : Nat
  winStart : Option Nat
  faulted : Bool
  scanning : Bool
  again : Bool
  deriving DecidableEq, Repr

/-- A fetched entry that has not started (R353). -/
structure CacheEnt where
  ref : EntryRef
  sqe : Sqe
  deriving DecidableEq, Repr

/-- A started entry that has not completed. `where_` and `unit` are those of a squash record (R424). -/
structure StartEnt where
  ref : EntryRef
  sqe : Sqe
  where_ : Nat
  unit : Nat
  deriving DecidableEq, Repr

/-- A squash record (R424). -/
structure SquashRec where
  mfn : Nat
  fn : Nat
  sq : Nat
  cid : Nat
  opcode : Nat
  where_ : Nat
  unit : Nat
  residue : Nat
  deriving DecidableEq, Repr

/-! ## Grants (R415 to R420) -/

/-- A delegated window of a grant (R394). -/
structure Delegate where
  w : Nat
  sub : Nat
  en : Bool
  deriving DecidableEq, Repr

/-- What a VF holds (R417). -/
structure Grant where
  graph : Bool
  sqs : Nat
  cqs : Nat
  handles : List (Nat × Nat)
  groups : List (Nat × Nat)
  chans : List (Nat × Nat)
  late : Nat
  lateIen : Bool
  vectors : BitVec 64
  delegates : List Delegate
  deriving DecidableEq, Repr

/-- A VF that has never received a grant holds nothing (R416). -/
def Grant.empty : Grant := ⟨false, 0, 0, [], [], [], 0, false, 0, []⟩

/-- WEIGHT and periodic cap of a function (R145, R155, R421). `none` is no cap. -/
structure Share where
  weight : Nat
  cap : Option Nat
  deriving DecidableEq, Repr

/-- What a function's PCIe configuration adds to the block (R326, R337 to R339, R330). -/
structure FnRec where
  d3hot : Bool
  pmeEn : Bool
  pmeStatus : Bool
  /-- Tick of the last PM_PME, while PME_Status is 1 (R339). -/
  pmeTick : Option Nat
  /-- Reason of that PME (R342). -/
  pmeReason : Nat
  aer : List Nat
  funcMask : Bool
  /-- Vectors whose mask is clear, and pending vectors. -/
  unmasked : List Nat
  pending : List Nat
  /-- Latches of this function's reads (R28, R343). -/
  tickHi : Word
  ufHi : Half
  phase : Option (BitVec 12)
  /-- Other 64-bit latches of this function, by address of the high half. -/
  latches : Tbl Word
  /-- PCI Revision ID, the stepping (R1, R316). -/
  revision : Byte
  /-- Tick of the last configuration write that took the function to D0 (R340). -/
  d0At : Option Nat
  /-- Vectors whose pending message was sent as their mask was cleared, with the tick (R326). -/
  unmaskSent : List (Nat × Nat)
  /-- Completion rings that have held an entry in this D3hot (R339). -/
  heldOn : List Nat
  deriving DecidableEq, Repr

/-- A function at reset. -/
def FnRec.reset : FnRec := ⟨false, false, false, none, 0, [], false, [], [], 0, 0, none, [], 1, none, [], []⟩

/-- A DMA window (R379). -/
structure DmaWin where
  base : Nat
  len : Nat
  read : Bool
  write : Bool
  deriving DecidableEq, Repr

/-! ## Block movers (R372 to R389) -/

/-- What a channel's entry is doing. -/
inductive JobKind
  | move (chain : Bool)
  | indexed (scatter : Bool)
  | fence
  | xfer (x : Nat)
  | clip (g : Nat)
  | tap (t : Nat)
  deriving DecidableEq, Repr

/-- How an entry ends (R346, R385). -/
structure Ending where
  status : Nat
  residue : Nat
  d4 : Word
  d5 : Word
  d6 : Word
  d7 : Word
  urgent : Bool
  deriving DecidableEq, Repr

/-- The entry in progress on a channel (R373). For MOVE: the descriptor in progress (`src`, `dst`, `len`, `last`,
`next`), its address (`at_`), bytes done of it and descriptors done. For MOVE_INDEXED: BASE in `src`, LINEAR in `dst`, COUNT in `len`, ELEMENT in
`next`, elements done, the offsets fetched and not yet used, and the next table block. For FENCE: ADDR in `src`. `windows` are
the DMA windows in force when the entry started (R380). -/
structure Job where
  ref : EntryRef
  kind : JobKind
  src : Nat
  dst : Nat
  len : Nat
  next : Nat
  last : Bool
  at_ : Nat
  haveDesc : Bool
  done : Nat
  items : Nat
  residue : Nat
  offsets : List Nat
  tablePos : Nat
  windows : List DmaWin
  /-- How the entry ends once its burst has ended (R382, R385). -/
  ending : Option Ending
  deriving DecidableEq, Repr

/-- A channel: its entry in progress. -/
structure ChanRec where
  job : Option Job
  deriving DecidableEq, Repr

/-- An idle channel. -/
def ChanRec.idle : ChanRec := ⟨none⟩

/-- What an outstanding read of an engine fetches. -/
inductive ReqKind | data | desc | table | fence
  deriving DecidableEq, Repr

/-- An outstanding host read of an engine. -/
structure HostReq where
  chan : Nat
  fn : Nat
  kind : ReqKind
  addr : Nat
  len : Nat
  prefetch : Bool
  deriving DecidableEq, Repr

/-- An engine: the channel last served, the channel that holds it, its outstanding reads, ENGINE_RESTART entries that wait
(R389), and a prefetch that has ended with its data (R373). Its visible state lies in the BM registers. -/
structure EngRec where
  lastChan : Nat
  holder : Option Nat
  reqs : List HostReq
  restarts : List EntryRef
  fetched : Option (HostReq × List Byte)
  deriving DecidableEq, Repr

/-- An idle engine: channel 63 counts as the last served, so channel 0 is the first (DESIGN CHOICE, log entry 12). -/
def EngRec.idle : EngRec := ⟨63, none, [], [], none⟩

/-! ## Bridge (R393 to R408) -/

/-- Kinds of accesses through a view. -/
inductive AccKind
  | read
  | write (v : Nat)
  | atomic (op : AtomicOp)
  deriving DecidableEq, Repr

/-- One register access through a view (R396): offset within the view, width, receipt tick, whether a later part of the
same host read follows, and the length of the host request. -/
structure Acc where
  kind : AccKind
  off : Nat
  width : Nat
  tick : Nat
  more : Bool
  /-- Place in the order of arrival at the bridge (R397). -/
  ord : Nat
  deriving DecidableEq, Repr

/-- A locked sequence of an AtomicOp (R405 to R408). -/
structure LockSeq where
  dev : Nat
  trunk : Nat
  /-- Which answers of the first part have come: LOCK_ACK, the setup ACK, the value; answers of the second part that have
  come, and those it needs; the second part has been sent; the attempt has failed, by LOCK_BUSY; attempts so far; the
  attempt is on the bus; the tick before which none may start. -/
  lockAck : Bool
  setupAck : Bool
  old : Option Nat
  acks : Nat
  need : Nat
  sentWrite : Bool
  failed : Bool
  busy : Bool
  tries : Nat
  open_ : Bool
  notBefore : Nat
  /-- Microframe since which the attempt waits for a tick to start at (R406). -/
  since : Nat
  deriving DecidableEq, Repr

/-- A view: its queue (oldest first), the access that is open, the data of the parts of a split read, whether a
non-posted failure waits to be reported (R402), and its locked sequence. -/
structure ViewRec where
  queue : List Acc
  open_ : Option Acc
  parts : List Byte
  badPart : Bool
  reportPending : Bool
  lock : Option LockSeq
  deriving DecidableEq, Repr

/-- A view with nothing queued. -/
def ViewRec.idle : ViewRec := ⟨[], none, [], false, false, none⟩

/-- A late-fault record (R403). -/
structure LateRec where
  mfn : Nat
  window : Nat
  kind : Nat
  deleg : Option Nat
  off : Nat
  dev : Nat
  status : Nat
  width : Nat
  data : Nat
  fn : Nat
  deriving DecidableEq, Repr

/-- The state of a VF's freeze, save, restore and reset (R423 to R431). -/
structure VfRec where
  frozen : Bool
  saved : Bool
  restored : Bool
  resetBusy : Bool
  squashed : Nat
  /-- VF_FREEZE entries that wait for the VF to come to rest. -/
  freezing : List EntryRef
  /-- CQEs held while frozen: local CQ index and CQE. -/
  held : List (Nat × Cqe)
  /-- Late-fault records of a restored blob, and how many of them were lost (R429, R431). -/
  late : List LateRec
  lateLost : Nat
  deriving DecidableEq, Repr

/-- A VF at reset. -/
def VfRec.reset : VfRec := ⟨false, false, false, false, 0, [], [], [], 0⟩

/-! ## Lanes (R78 to R95) -/

/-- What a lane holds beside its registers: failed tries (R84), ticks of its entry to TRAINING, FAILED and UP, RX_READY
sent and received, the results our transmitter reports (0 not updated, 1 updated, 2 minimum, 3 maximum, R82), the
request we hold towards the far transmitter and the status last received for it, its place as its marker gave it,
margin-check and slot bookkeeping (R87 to R90), and the tick of the last injection (R95). -/
structure LaneRec where
  tries : Nat
  trainAt : Option Nat
  failedAt : Option Nat
  upAt : Option Nat
  rxReadySent : Bool
  rxReadyGot : Bool
  stPre : Nat
  stMain : Nat
  stPost : Nat
  request : Nat
  farStatus : Nat
  markLane : Option Nat
  markWidth : Nat
  checks : Nat
  poorSlots : Nat
  poorNow : Bool
  retrainReq : Bool
  bipSince : Nat
  yielded : Bool
  injectAt : Option Nat
  /-- Tick of the last change between the lane states in which a trunk holds and the others (R102). -/
  changedAt : Nat
  /-- Tick of the last change between ALIGNING or UP and the other lane states (R102). -/
  heldAt : Nat
  /-- Tick at which RX_READY stood both ways (R84), of the last marker (R78), and of the last tap step taken in a slot (R90). -/
  readyAt : Option Nat
  markerAt : Nat
  stepAt : Option Nat
  /-- The far transmitter has reported a tap at its maximum: MAIN goes down next (R92). -/
  farFull : Bool
  /-- Software has started a scan behind the point that a yielding check finishes (R88). -/
  scanWaits : Bool
  deriving DecidableEq, Repr

/-- A lane at reset. -/
def LaneRec.reset : LaneRec :=
  ⟨0, none, none, none, false, false, 0, 0, 0, 0, 0, none, 0, 0, 0, false, false, 0, false, none, 0, 0, none, 0, none, false, false⟩

/-- What a trunk's lanes share: delineation lost (R76), the retraining slot that is fixed and whether it is on (R90), a
Twill retraining in progress with its start tick, waiting for the other path (R91), and a slot asked for by the hub
(R92). -/
structure TrunkRec where
  delinLost : Bool
  slot : Option Nat
  slotOn : Bool
  twillAt : Option Nat
  twillWait : Bool
  slotReq : Bool
  pathMargin : Nat
  /-- Preferred path of the Twill subtree and consecutive better checks of the other (R275). -/
  prefPath : Nat
  better : Nat
  peerMargin : Nat
  /-- Measured skew of the trunk's lanes, in ns (R79). -/
  skew : Nat
  /-- Lanes that were POOR when the slot was fixed (R90). -/
  slotLanes : List Nat
  /-- A Twill retraining begins at the next mark, and the walker is silent up to the first mark after one (R91). -/
  twillDue : Bool
  silent : Bool
  /-- Tick at which its port last entered or left ENABLED (R275). -/
  movedAt : Option Nat
  deriving DecidableEq, Repr

/-- A trunk at reset. -/
def TrunkRec.reset : TrunkRec := ⟨false, none, false, none, false, false, 0, 0, 0, 0, 0, [], false, false, none⟩

/-- A record of the lane-health log (R89, R369). -/
structure LaneLog where
  mfn : Nat
  lane : Nat
  old : Nat
  new : Nat
  m : Margins
  seq : Nat
  deriving DecidableEq, Repr

/-! ## Frame scheduler (R128 to R156) -/

/-- A polling entry (R129), without its NEXT: the lists are lists. -/
structure PEnt where
  handle : Nat
  length : Nat
  kind : Nat
  twill : Bool
  emerg : Bool
  k : Nat
  phase : Nat
  deriving DecidableEq, Repr

/-- A trunk walker in one microframe (R132 to R138): deferred entries still to issue, due entries still to visit, next
tag, transactions sent, entries deferred to the next microframe, and whether the band was hit. -/
structure WalkRec where
  deferred : List PEnt
  rest : List PEnt
  tag : Nat
  sent : Nat
  carry : List PEnt
  overrun : Bool
  npCarry : List Nat
  deriving DecidableEq, Repr

/-- A walker at reset. -/
def WalkRec.reset : WalkRec := ⟨[], [], 0, 0, [], false, []⟩

/-- How an endpoint or group is scheduled in the staged schedule: interval, phase, LENGTH, EMERG, and the function whose
command placed it. The key is the handle, or group ID + 0x10_0000. -/
structure SchedRec where
  k : Nat
  phase : Nat
  length : Nat
  emerg : Bool
  fn : Nat
  deriving DecidableEq, Repr

/-- The slot record of a multicast group (R163, R170, R172). -/
structure GroupSlot where
  slot : Nat
  granules : Nat
  length : Nat
  mf0 : Nat
  mf1 : Nat
  len0 : Nat
  len1 : Nat
  v0 : Bool
  v1 : Bool
  missing : Nat
  deriving DecidableEq, Repr

/-- A group without a slot. -/
def GroupSlot.empty : GroupSlot := ⟨0, 0, 0, 0, 0, 0, 0, false, false, 0⟩

/-- The staging commands (R146). -/
inductive StageCmd
  | add (key k phase length : Nat) (emerg : Bool)
  | remove (key : Nat)
  | group (g dev ep : Nat) (join : Bool)
  deriving DecidableEq, Repr

/-- A staging command with the entry that brought it. -/
structure StageRec where
  ref : EntryRef
  cmd : StageCmd
  deriving DecidableEq, Repr

/-- A pending commit (R149 to R151): M, the entries that wait for it, and whether the bank has switched. -/
structure Commit where
  m : Nat
  waiting : List EntryRef
  switched : Bool
  deriving DecidableEq, Repr

/-! ## Root ports and the topology manager (R98 to R126) -/

/-- What a root port holds beside its registers: the SENSE level, the level under debounce, the 16 change bits and the
discards of its port status (R112), and the ticks of its reset, suspend and resume signalling. -/
structure PortRec where
  sense : Sense
  change : Nat
  discards : Nat
  resetAt : Option Nat
  signalled : Bool
  suspendAt : Option Nat
  resumeAt : Option Nat
  /-- A device is attached (R104). -/
  attached : Bool
  /-- The reset in progress was raised by enumeration step 1. -/
  ownReset : Bool
  /-- Tick of the last change of the SENSE level, and that since which it is off LYBOR-H (R100). -/
  senseAt : Nat
  leftAt : Option Nat
  /-- Tick of the last exit from RESETTING, SUSPENDED or RESUMING (R102). -/
  freeAt : Nat
  /-- Microframe in which the attach took effect (R125). -/
  attachMf : Nat
  /-- A take-up waits for TM_CTRL.EN (R509): 1 an attach, 3 a reset completion. -/
  takeUp : Nat
  dev : DevNode
  deriving DecidableEq, Repr

/-- The class 0x03 node of a port that holds no address. -/
def DevNode.reset : DevNode := ⟨0, [], none, 0, [], 0, 0, [], none, false, 0, [], [], 0⟩

/-- A root port at reset. -/
def PortRec.reset : PortRec := ⟨.none, 0, 0, none, false, none, none, false, false, 0, some 0, 0, 0, 0, DevNode.reset⟩

/-- An endpoint as its descriptor gives it (R115). -/
structure EpDesc where
  ep : Nat
  kind : Nat
  maxPacket : Nat
  window : Nat
  minInterval : Nat
  flags : Nat
  deriving DecidableEq, Repr

/-- A path to a device: root port, then the hub ports below it (hub address, port). -/
structure TreePath where
  root : Nat
  hops : List (Nat × Nat)
  deriving DecidableEq, Repr

/-- A device that the TM knows (R116 to R121). -/
structure DevRec where
  addr : Nat
  serial : Nat
  cls : Nat
  caps : Nat
  inEps : Nat
  outEps : Nat
  eps : List EpDesc
  rtt : Nat
  path0 : TreePath
  path1 : Option TreePath
  detachedAt : Option Nat
  ports : Nat
  splitDepth : Nat
  routes : Nat
  /-- Group bound to each OUT endpoint. -/
  bindings : Tbl (Option Nat)
  /-- SET_PATH_ROLE has bound a second upstream port of this hub (R117). -/
  second : Bool
  /-- A port reset was the cause of the last detach (R108). -/
  byReset : Bool
  deriving DecidableEq, Repr

/-- A hub port as the TM has it (R108, R112). -/
structure HubPort where
  state : Nat
  speed : Nat
  reason : Nat
  /-- The reason for which the TM disables the port, 0 when it does not (R116). -/
  own : Nat
  /-- Microframe in which the TM learned of the attach (R125). -/
  attachMf : Nat
  /-- Change bits whose transition the TM has reported when its own request, or software's, brought it about: the hub still shows them in its
  next status, which brings no second event (R126). -/
  told : Nat
  /-- Sense level of the links of this port: that of the last device it took, kept when the device goes (R101, R141, R142). -/
  link : Nat
  deriving DecidableEq, Repr

/-- A route entry of a hub (R122). -/
structure Route where
  first : Nat
  last : Nat
  port : Nat
  deriving DecidableEq, Repr

/-- A request of the topology manager (R61, R113, R116). -/
inductive TmReq
  | getStatus (hub port : Nat)
  | setFeature (hub port feat : Nat)
  | clearFeature (hub port feat : Nat)
  | setRoute (hub port first last : Nat)
  | clearRoute (hub first last : Nat)
  | getDev
  | setAddr (a : Nat)
  | getEp (dev ep : Nat)
  | ping (dev n : Nat)
  | getHub (dev : Nat)
  | setPath (dev path : Nat)
  | groupPorts (hub g bitmap : Nat)
  | bind (dev ep group : Nat)
  | clearStall (dev handle : Nat)
  deriving DecidableEq, Repr

/-- A request of the topology manager in the order of a root port's subtree: the request, and whether it is a step of
the enumeration in progress. -/
structure TmItem where
  req : TmReq
  own : Bool
  /-- It has been sent and is not yet answered. -/
  sent : Bool
  /-- Of a PING that has been answered: the round trip measured, in ticks (R69). -/
  rtt : Option Nat
  /-- Of a PING: its attempts that have failed (R58). -/
  tries : Nat
  deriving DecidableEq, Repr

/-- The position of an attach: a root port (no hub) or a hub port. -/
structure AttachPos where
  root : Nat
  hub : Nat
  port : Nat
  /-- Starts at step 3: the reset was not the TM's own (R116). -/
  atStep3 : Bool
  /-- Its step 1 has been taken while another device of the subtree is enumerated (R116). -/
  reset : Bool
  /-- Microframe of the attach or reset completion (R116, R125). -/
  mf : Nat
  deriving DecidableEq, Repr

/-- An enumeration in progress in a root port's subtree (R116). -/
structure EnumRec where
  pos : AttachPos
  step : Nat
  dev : DevRec
  rebound : Bool
  routed : List Nat
  pings : Nat
  epsLeft : List Nat
  secondPath : Bool
  /-- Hub ports of the path on which step 3 has set a route for 0x0000. -/
  zero : List (Nat × Nat)
  hubPorts : Nat
  /-- Round trips measured over a second path to the devices below the hub, with the largest of each (R274). -/
  subRtts : List (Nat × Nat)
  deriving DecidableEq, Repr

/-- A topology event that is held or kept (R126, R358). -/
structure TopoEvent where
  event : Nat
  mfn : Nat
  hub : Nat
  port : Nat
  root : Bool
  state : Nat
  wakeSeen : Bool
  dev : Nat
  reason : Nat
  serial : Nat
  deriving DecidableEq, Repr

/-- An event of the supervision unit or the pair unit, as its eight dwords (R260, R314), with its EVENT code and its
line. -/
structure UnitEvent where
  event : Nat
  line : Nat
  dws : List Word
  deriving DecidableEq, Repr

end Sys2Proof.Machine
end

