-- ==== Sys2Proof/Machine/GraphTypes.lean ====
section
/-! DEFINITION. The records of the graph: node state, generators, clips, taps, swaps (R190 to R219); operations, flows and timers of
the dispatcher (R226 to R246); lines and the night audit (R248 to R269). -/

namespace Sys2Proof.Machine

/-! ## Nodes (R190 to R210) -/

/-- A linear ramp (R198, R200, R201): from `w0` to `target` over `len` samples, of which `r` have passed. -/
structure Ramp where
  w0 : Int
  target : Int
  r : Nat
  len : Nat
  deriving DecidableEq, Repr

/-- The stream of a node in one pass: 6 samples and FLAG (R190). -/
structure Stream where
  pass : Nat
  x : List Int
  flag : Bool
  deriving DecidableEq, Repr

/-- A METER's last complete window (R206). -/
structure MeterWin where
  start : Nat
  passes : Nat
  peak : Int
  mean : Int
  deriving DecidableEq, Repr

/-- What a node keeps from pass to pass: whether it has run, the last output and the run of HOLD passes of a SOURCE, the
weights and holds of a MIX or ROUTE, the selection, the histories of an EQ (x1, x2, y1, y2 of each section), the
position, fill and delay of a DELAY, the envelope of a LIMIT, the window of a METER. -/
structure NodeSt where
  ran : Bool
  out : List Int
  flag : Bool
  holdRun : Nat
  ramps : List Ramp
  holds : List Nat
  sel : Option Nat
  hist : List (List Int)
  pos : Nat
  fill : Nat
  delay : Option Nat
  env : Int
  peak : Int
  sum : Int
  passes : Nat
  win : Option MeterWin
  /-- SOURCE: the block of the last due pass, `none` when it was missing. -/
  blk : Option (List Byte)
  /-- Last pass that a METER has collected (R206). -/
  seen : Nat
  /-- Bad words of the delay pool that a DELAY has counted (R204). -/
  bad : List Nat
  deriving DecidableEq, Repr

/-- A node before its first pass (R219). -/
def NodeSt.zero : NodeSt := ⟨false, [], false, 0, [], [], none, [], 0, 0, none, 0, 0, 0, 0, none, none, 0, []⟩

/-- A clip in a generator's queue (R194, R242). Stream bytes are those of the padded buffer repeated; `h0` is the slot half
in which its stream begins, `fetched` and `ready` the stream bytes written and counted as filled; `playable` playings
may begin, and `played` samples have been played; `lastE` is the expiry of the timer that last made a playing playable (R243). -/
structure ClipRun where
  ref : EntryRef
  addr : Nat
  samples : Nat
  loops : Nat
  repeats : Nat
  repeatMf : Nat
  startMf : Nat
  playable : Nat
  first : Option Nat
  under : Nat
  played : Nat
  h0 : Nat
  fetched : Nat
  ready : Nat
  lastE : Nat
  deriving DecidableEq, Repr

/-- A generator (R193 to R196): a tone's run, phases, sweep word and sample count, LFSR and cadence; a player's clips, the
pass in which a stop ramps it to 0 and the expiry of the CLIP_STOP timer that set it, and the CLIP_STOP entries that wait for that pass.
`out` holds its streams by pass, newest first, and `satPass` the passes in which it has saturated. -/
structure GenSt where
  running : Bool
  ph1 : Nat
  ph2 : Nat
  word : Int
  swept : Nat
  lfsr : Nat
  cad : Nat
  out : List Stream
  satPass : List Nat
  clips : List ClipRun
  stopAt : Option Nat
  stopE : Nat
  stops : List EntryRef
  slot : Option (Nat × Nat)
  noticed : Bool
  deriving DecidableEq, Repr

/-- A generator at rest. -/
def GenSt.zero : GenSt := ⟨false, 0, 0, 0, 0, 1, 0, [], [], [], none, 0, [], none, false⟩

/-- A tap's buffer (R209). -/
structure TapBuf where
  ref : EntryRef
  addr : Nat
  len : Nat
  written : Nat
  first : Option Nat
  deriving DecidableEq, Repr

/-- A tap: its buffers, the pass records of the chunk being gathered (pass, bytes), and the chunks lost since the last completion. -/
structure TapSt where
  bufs : List TapBuf
  recs : List (Nat × List Byte)
  lost : Nat
  deriving DecidableEq, Repr

/-- A tap with nothing queued. -/
def TapSt.zero : TapSt := ⟨[], [], 0⟩

/-- A pending swap (R217): M, the GRAPH_SWAP entries, the sealed image and patches, and whether it has taken over. -/
structure Swap where
  m : Nat
  refs : List EntryRef
  full : Option ImageFile
  patches : List ImageFile
  taken : Bool
  deriving DecidableEq, Repr

/-- A CLIP frame's part for one generator and pass (R297). -/
structure ClipFeed where
  pass : Nat
  present : Bool
  samples : List Int
  deriving DecidableEq, Repr

/-! ## Dispatcher (R226 to R246) -/

/-- An operation in a ready queue: node, pass, priority, and whether its affinity wait has ended. -/
structure OpRec where
  node : Nat
  pass : Nat
  prio : Nat
  waited : Bool
  deriving DecidableEq, Repr

/-- What an operation of an image that has been swapped out still needs (R239): its node record, its inputs, the node
of the new image that continues it, and whether it holds a release entry. -/
structure OldRun where
  rec_ : Node
  ins : List Stream
  cont : Option Nat
  entry : Bool
  deriving DecidableEq, Repr

/-- An operation on a GPE. -/
structure RunRec where
  node : Nat
  pass : Nat
  old : Option OldRun
  deriving DecidableEq, Repr

/-- An operation of a flow that has not been released (R236, R237), with the inputs it ran on and the window that a METER completed. -/
structure RelRec where
  pass : Nat
  order : Nat
  node : Nat
  done : Bool
  entry : Bool
  ins : List Stream
  win : Option MeterWin
  deriving DecidableEq, Repr

/-- A held external notice (R232): a written IN block of a handle, or of a cascade endpoint as 2^21 + port × 8 + endpoint, or a filled clip half. -/
inductive Notice
  | block (h : Nat)
  | clip (g : Nat)
  deriving DecidableEq, Repr

/-- Timer kinds (R241). -/
inductive TimerKind | clipStart | clipRepeat | clipStop | sweepSlot | pilot
  deriving DecidableEq, Repr

/-- A timer (R240, R241). `owner` is a generator or a line; `ref` the entry it serves, `r` the playing of a repeat; `held` that its
expiry has passed in SATIN or DORMANT (R244). -/
structure TimerRec where
  seq : Nat
  prio : Nat
  e : Nat
  kind : TimerKind
  owner : Nat
  ref : Option EntryRef
  r : Nat
  held : Bool
  deriving DecidableEq, Repr

/-- A priority's part of an observing window (R246). -/
structure ObsPrio where
  dispatched : Nat
  depthMax : Nat
  holds : Nat
  spills : Nat
  hits : Nat
  misses : Nat
  deriving DecidableEq, Repr

/-- An empty priority record. -/
def ObsPrio.zero : ObsPrio := ⟨0, 0, 0, 0, 0, 0⟩

/-- An observing window (R245, R246): counts of events. Counts of DSP cycles are not kept: they are timing; `base` is the place from which
their free values are drawn, one for the window. -/
structure ObsWin where
  start : Nat
  w : Nat
  satin : Bool
  opChanged : Bool
  relMax : Nat
  relFull : Nat
  fired : Nat
  late : Nat
  timersMax : Nat
  overrun : Nat
  p0General : Nat
  prios : List ObsPrio
  gpeOps : Tbl Nat
  gpeStall : Tbl Nat
  base : Nat
  deriving DecidableEq, Repr

/-- A window that has just begun. -/
def ObsWin.new (start w : Nat) : ObsWin :=
  ⟨start, w, false, false, 0, 0, 0, 0, 0, 0, 0, List.replicate 8 ObsPrio.zero, [], [], 0⟩

/-! ## Supervision (R248 to R271) -/

/-- An estimator (R251): taps h_0 to h_63 and references x[n], x[n−1], …, newest first. -/
structure Estim where
  h : List Int
  x : List Int
  deriving DecidableEq, Repr

/-- Zero taps. -/
def Estim.zero : Estim := ⟨[], []⟩

/-- A pilot's window on a line (R258, R259): its first pass, whether it is continuous, and the pass after its last one when its end is
set. -/
structure PilotRec where
  start : Nat
  cont : Bool
  ends : Option Nat
  deriving DecidableEq, Repr

/-- What the sense blocks of a refresh or of a pilot measurement have shown (R254): present blocks, earth and node-fault bits, samples at full
scale. -/
structure SenseCount where
  present : Nat
  earth : Nat
  nodeFlt : Nat
  full : Nat
  deriving DecidableEq, Repr

/-- No block yet. -/
def SenseCount.zero : SenseCount := ⟨0, 0, 0, 0⟩

/-- A line record (R248 to R258): the live estimate and the refresh in progress (passes, missing blocks, applied updates); the runs towards a
change of state, of lost refreshes, of refreshes back from SENSE_LOST and of those that learn; a burst or continuous pilot with its
estimator, counts, reference and run of bursts; the window of a Muslin slot with its own. The live estimator is frozen up to
`freeze` (R259). -/
structure LineRec where
  node : Option Nat
  state : Nat
  reported : Nat
  est : Estim
  /-- Published samples of the bound channel by pass, newest first. -/
  pub : List (Nat × List Int)
  ref : Nat
  g : Nat
  dev : Int
  age : Nat
  run : Nat
  lostRun : Nat
  backRun : Nat
  learnRun : Nat
  passes : Nat
  missing : Nat
  applied : Nat
  cnt : SenseCount
  pilot : Option PilotRec
  pilotDue : Bool
  pest : Estim
  pcnt : SenseCount
  pref : Nat
  pg : Nat
  prun : Nat
  slot : Option PilotRec
  mest : Estim
  mcnt : SenseCount
  freeze : Nat
  clipped : Bool
  deriving DecidableEq, Repr

/-- A line that is not bound (R254). -/
def LineRec.zero : LineRec where
  node := none
  state := 0
  reported := 0
  est := Estim.zero
  pub := []
  ref := 0
  g := 0
  dev := 0
  age := 0
  run := 0
  lostRun := 0
  backRun := 0
  learnRun := 0
  passes := 0
  missing := 0
  applied := 0
  cnt := SenseCount.zero
  pilot := none
  pilotDue := false
  pest := Estim.zero
  pcnt := SenseCount.zero
  pref := 0
  pg := 0
  prun := 0
  slot := none
  mest := Estim.zero
  mcnt := SenseCount.zero
  freeze := 0
  clipped := false

/-- A lane's part of the audit record (R268), and whether its checker has locked in the PRBS part (R266). -/
structure AuditLane where
  kind : Nat
  pathMargin : Nat
  m : Margins
  openPoints : Nat
  errors : Nat
  locked : Bool
  deriving DecidableEq, Repr

/-- A hub's part of the audit record (R268). -/
structure AuditHub where
  hub : Nat
  res0 : Nat
  res1 : Nat
  miss0 : Nat
  miss1 : Nat
  mar0 : Nat
  mar1 : Nat
  deriving DecidableEq, Repr

/-- A night audit (R262 to R269): the plan; the parts still to run in order (0 MUSLIN, 1 EYE, 2 PRBS, 3 TWILL), whether the
first of them runs, and whether any has begun; the lines that Muslin has still to sweep, its slot with its lines and their baselines, and those
that were unbound or in SENSE_LOST during it; the results; the hub
under test with its window: F, the phase, the path that runs alone, the worst count before it, and the microframe from
which both paths carry the subtree again; the microframes in which the part started and the last one ended. -/
structure Audit where
  ref : Option EntryRef
  fn : Nat
  parts : Nat
  first : Nat
  last : Nat
  batch : Nat
  startMf : Nat
  baseAddr : Nat
  resAddr : Nat
  recAddr : Nat
  recLen : Nat
  left : List Nat
  running : Bool
  begun : Bool
  todo : List Nat
  slotMf : Nat
  inSlot : List (Nat × Nat)
  broken : List Nat
  doneParts : Nat
  swept : Nat
  failed : Nat
  learned : Nat
  skipped : Nat
  lanes : Tbl AuditLane
  scanned : Nat
  below : Nat
  spares : Nat
  spareErr : Nat
  hubs : List AuditHub
  hubsLeft : List Nat
  hub : Option AuditHub
  f : Nat
  phase : Nat
  alone : Option Nat
  worst : Nat
  rejoin : Option Nat
  partMf : Nat
  endMf : Nat
  deriving DecidableEq, Repr

/-- A lane of which the audit knows nothing. -/
def AuditLane.zero : AuditLane := ⟨0, 0, ⟨0, 0, 0, 0⟩, 0, 0, false⟩

/-! ## The Miodel link and what the device puts out -/

/-- A mirror record (R288, R291, R292, R294, R298). -/
inductive MirrorRec
  /-- An admin command placed in the HOLDER's order, and the microframe in which its sender placed or sent it. -/
  | command (fn : FnId) (e : Sqe) (h : HostData) (at_ : MfNum)
  /-- A pair-checked register write, with the frame mark at which it takes effect (R288). -/
  | regWrite (addr : BitVec 25) (v : Word) (at_ : MfNum)
  /-- A switch to SATIN or ACTIVE at a frame mark (R294). -/
  | powerSwitch (satin : Bool) (at_ : MfNum)
  /-- The roles swap at frame mark H (R303). -/
  | handover (h : MfNum)
  /-- The first dwords of an endpoint's context (R291). -/
  | context (h : Handle) (dws : List Word)
  /-- A device of the serial table, with its paths and DETACHED; `none` when it is forgotten (R291). -/
  | device (addr : Half) (d : Option DevRec)
  /-- The route table of a hub (R122). -/
  | routes (hub : Half) (l : List Route)
  /-- A port bitmap of the group table of the root hub or of a hub, and its bank (R123). -/
  | group (hub : Option Half) (g : BitVec 14) (bank : Bool) (ports : BitVec 192)
  /-- A hub port as the TM has it. -/
  | hubPort (hub : Half) (port : Byte) (r : Option HubPort)
  /-- PATH that the PARTNER sends on a pair trunk (R273). -/
  | path (t : Trunk) (one : Bool)
  /-- A port feature for the PARTNER's root port (R113, R298): set, or cleared with a disable reason. -/
  | portCommand (t : Trunk) (set : Bool) (feat reason : Nat)
  /-- An event of a root port of the sender (R298); EVENT 0 tells only its state. -/
  | portEvent (t : Trunk) (e : TopoEvent)
  deriving DecidableEq, Repr

/-- A COPY frame (R279, R304): a part of a region. The regions' layouts within the SM are the device's own, so a part comes as the record
it holds. -/
inductive CopyFrame
  /-- EBM: contexts, slots, the delay pool. -/
  | ebm (addr : Nat) (bytes : List Byte)
  /-- A committed endpoint or group of the schedule, with its slot. -/
  | sched (key : Nat) (r : SchedRec) (slot granules : Nat)
  /-- A record of the staged change log, with its function, and a pending commit. -/
  | log (f : FnId) (c : StageCmd)
  | commit (m : Nat)
  | device (addr : Half) (d : DevRec)
  | routes (hub : Half) (l : List Route)
  | hubPort (hub : Half) (port : Byte) (r : HubPort)
  | group (hub : Option Half) (g : BitVec 14) (bank : Bool) (ports : BitVec 192)
  /-- The bank that the root hub's or a hub's group table switches by. -/
  | bank (hub : Option Half) (b : Bool)
  | grant (f : FnId) (g : Grant) (s : Share)
  | timer (r : TimerRec)
  | audit (a : Audit)
  | image (img : ImageFile)
  /-- The staged image and patches, and a pending swap. -/
  | patches (staged : Option ImageFile) (l : List ImageFile)
  | swap (w : Swap)
  | gen (g : Fin 256) (r : GenSt)
  /-- Every region has been copied. -/
  | regionDone
  /-- A node's state as at the end of a pass. -/
  | node (pass : Nat) (n : Nat) (r : NodeSt)
  | line (l : Half) (r : LineRec)
  /-- Every node and line has been sent. -/
  | stateDone
  /-- The active copy of a damaged polling list (R435). -/
  | list (trunk : Trunk) (k p : Nat)
  deriving DecidableEq, Repr

/-- A Miodel frame as the device sends it (R279). -/
inductive MioOut
  | time (f : TimeFrame)
  | presence (recs : List PresenceRec)
  | blocks (b : List BlockRec)
  | digest (pass : Nat) (d : List Word)
  | clip (pass : Nat) (c : List ClipRec)
  | relay (f : RelayFrame)
  | mirror (seq : Nat) (m : MirrorRec)
  | copy (seq : Nat) (c : CopyFrame)
  | ack (seq : Nat)
  | hello (h : HelloFrame)
  deriving DecidableEq, Repr

/-- What the device has put on its links, its pins that pulse, and the host interface: the model's own trace, newest
first. No rule reads it. -/
inductive Emit
  /-- A packet on a trunk. -/
  | pkt (t : Nat) (p : Pkt)
  /-- A frame on the Miodel link. -/
  | mio (f : MioOut)
  /-- The LYBOR-H pull-up on the SENSE pin of a port in device role, driven or not (R103). -/
  | pullUp (port : Nat) (on : Bool)
  /-- A CQE: function, local index of the CQ, entry index, eight dwords (R346). -/
  | cqe (fn cq idx : Nat) (dws : List Word)
  /-- Dword 0 of an SQE written back with OWN = 0 (R348). -/
  | sqe (fn sq idx : Nat) (dw0 : Word)
  /-- Dword 1 of a ring state block (R360). -/
  | rsb (fn i : Nat) (dw1 : Word)
  /-- A posted write of data to host memory. -/
  | write (fn addr : Nat) (b : List Byte)
  /-- A read request to host memory. -/
  | read (fn addr len : Nat)
  /-- An MSI-X message (R326). -/
  | msix (fn vector : Nat)
  /-- A PM_PME message (R339). -/
  | pme (fn : Nat)
  /-- PME_TO_Ack (R320). -/
  | pmeToAck
  /-- The completion of a host request. -/
  | ans (a : HostAns)
  /-- Control blocks on a trunk: their type and number (R74). -/
  | ctl (t typ n : Nat)
  /-- Training frames with this header on a lane, back to back from here on (R81). -/
  | train (n : Nat) (raw : BitVec 64)
  /-- An alignment marker on a lane: its LANE and WIDTH byte and its PORT; BIP is that of what the lane has sent (R78). -/
  | marker (n laneByte port : Nat)
  /-- Control blocks on one lane alone: their type and number. -/
  | laneCtl (n typ k : Nat)
  /-- A retraining block on a lane (R92). -/
  | retrain (n : Nat) (raw : BitVec 64)
  /-- Bits in a row that are sent inverted on a lane (R95). -/
  | inject (n bits : Nat)
  /-- A pulse of FRAME_SYNC_OUT, in ticks (R277). -/
  | frameSync (ticks : Nat)
  /-- The answer of the management port to a register read (R461). -/
  | mgt (v : Word)
  /-- A packet relayed for the peer, on a trunk (R298). -/
  | raw (t : Nat) (b : List Byte)
  /-- A command on the flash interface: code and address (R472, R474). -/
  | flash (op addr : Nat)
  /-- The port status that the root hub answers with (R112, R113). -/
  | portStatus (p : Nat) (b : List Byte)
  deriving DecidableEq, Repr

/-! ## Pair, power, clocks (R276 to R315, R442 to R478) -/

/-- The pair unit (R279 to R314). `peerTime` and `hello` are the peer's last TIME and HELLO; ticks of PU_CTRL.EN, of the last
Miodel frame, of the last FRAME_SYNC pulse and of the last frame mark of the time source; the offset of R286 in 80 ps, and
the frames for which it has stayed at 1 µs or more; presence and digests of recent passes; the ordered channel (next SEQ,
unacknowledged frames, next SEQ expected, whether an ACK is owed, tick of the last progress); entries whose mirror record
is not acknowledged, completions that wait for that, and entries sent to the HOLDER (R292); pair-checked writes, device
state switch and handover with their frame marks (R288, R294, R303); the loss of the peer and the takeover's mark (R299);
abdication and LEAVE (R300); a rank with its frame mark (R313); barriers (R311); the join's matches, passes and retry
(R304, R305); relayed packets that wait for the fill (R298); held events, and the latest of each EVENT code beyond them
with its count (R358); trunks whose path side is fixed (R273). -/
structure PairSt where
  peerTime : Option TimeFrame
  hello : Option HelloFrame
  enAt : Option Nat
  lastFrame : Option Nat
  lastPulse : Option Nat
  srcTick : Option Nat
  offset : Int
  offFrames : Nat
  presPass : Nat
  lacks : List PresenceRec
  peerLacks : List PresenceRec
  digests : List (Nat × List Word)
  peerDigests : List (Nat × List Word)
  diverge : Nat
  seq : Nat
  unacked : List (Nat × MioOut)
  /-- Ordered frames that wait for room among the unacknowledged ones (R280). -/
  unsent : List (Nat × MioOut)
  recvSeq : Nat
  owed : Bool
  progress : Nat
  mirrored : List (Nat × EntryRef)
  deferred : List (EntryRef × Cqe)
  sent : List (EntryRef × Sqe)
  writes : List (Nat × Word × Nat)
  switchAt : Option (Bool × Nat)
  handover : Option (Nat × Option EntryRef)
  loss : Option LossCause
  takeoverAt : Option Nat
  abdicate : Bool
  leave : Option EntryRef
  rank : Option (Nat × Nat × EntryRef)
  barriers : List (Nat × Nat × EntryRef)
  barrierLast : Nat
  barrierFree : Nat
  matched : Nat
  joinPasses : Nat
  retried : Bool
  joinAt : Option Nat
  relay : List (Nat × List Byte)
  held : List UnitEvent
  latest : List (UnitEvent × Nat)
  sides : List Nat
  silent : Bool
  /-- State of each root port of the peer, as it has told (R298). -/
  peerPorts : Tbl Nat
  /-- Width of each trunk of the peer, as its HELLO has told (R274). -/
  peerWidths : List Nat
  /-- Nodes and lines that a joiner has still to install (R304): the pass, and the record. -/
  install : List CopyFrame
  /-- The time source last heard carried another microframe number (R285). -/
  conflict : Bool
  /-- The holder role has changed hands: a running audit ends at the next mark (R269). -/
  auditEnd : Bool
  /-- Microframe in which a PARTNER entered RESYNC: it sends no packet from the next mark (R289). -/
  resyncMf : Option Nat
  /-- Tick at which the unacknowledged frames were last sent again (R280). -/
  resentAt : Nat
  deriving DecidableEq, Repr

/-- The pair unit of a device that takes part in no pair. -/
def PairSt.zero : PairSt :=
  ⟨none, none, none, none, none, none, 0, 0, 0, [], [], [], [], 0, 0, [], [], 0, false, 0, [], [], [], [], none, none, none, none,
   false, none, none, [], 0, 0, 0, 0, false, none, [], [], [], [], false, [], [], [], false, false, none, 0⟩

/-- The PMU (R443 to R461): the microframe E of a sleep request in progress; the operating points saved at its acceptance, frequency and voltage; the
tick of the entry; the mark of the return's step 1; whether step 1 has taken place; the voltage or frequency step in
progress (domain, kind, point); a return from DORMANT in progress with its wake source; the ports that were ENABLED at E;
the gated access that AON keeps (offset, function, path, write); whether the port has a DONE or a log entry to read
(MGT_ALERT_N); whether a supply has failed (OFF); the gated accesses that AON has counted; the wake that came at E or later and waits for
the entry (R444). -/
structure PowerSt where
  entryAt : Option Nat
  savedCore : Nat
  savedDsp : Nat
  savedCoreV : Nat
  savedDspV : Nat
  sleptAt : Option Nat
  step1At : Option Nat
  steps : Bool
  dvfs : Option (Nat × Nat × Nat)
  returning : Option Nat
  ports : List Nat
  aonGate : Option (Nat × Nat × Nat × Bool)
  alertDone : Bool
  alertWake : Bool
  off : Bool
  aonCount : Nat
  lateWake : Option WakeSource
  deriving DecidableEq, Repr

/-- The PMU at reset. -/
def PowerSt.zero : PowerSt := ⟨none, 0, 0, 0, 0, none, none, false, none, none, [], none, false, false, false, 0, none⟩

/-- Clocks, resets and boot (R465 to R478): the reference sources present; PORST_N and PERST_N held low; a fundamental reset
that waits for its mark; a warm reset in progress, and whether it waits for its mark; the flash and its command in progress
(operation, address); an RSQ restart in progress; whether the boot has ended, with an image or with NO_IMAGE; the Subsystem ID of the
boot configuration and I2C_ADDR in force; the tick from which the watchdog counts, and the ticks of the expiries that count. -/
structure ClockSt where
  cascade : Bool
  miodel : Bool
  refclk : Bool
  porst : Bool
  perst : Bool
  fundamental : Bool
  warm : Bool
  warmMark : Bool
  flash : Tbl Byte
  flashOp : Option (Nat × Nat)
  rsqRestart : Bool
  booted : Bool
  subsystem : Nat
  i2c : Nat
  wdtAt : Nat
  expiries : List Nat
  deriving DecidableEq, Repr

/-- Clocks, resets and boot while PORST_N and PERST_N are low. -/
def ClockSt.zero : ClockSt := ⟨false, false, false, true, true, false, false, false, [], none, false, false, 0, 0, 0, []⟩

end Sys2Proof.Machine
end

