-- ==== Sys2Proof/Syntax.lean ====
section
/-! DEFINITION. The commands of the GX1920: one constructor of `Instr` for each row of the spec's table of operations and events, with
the data each of them brings. -/

namespace Sys2Proof
open Machine

/-! ## The commands -/

/-- The rows of the table of operations and events. -/
inductive Instr
  -- microframe and schedule
  | microframeMark
  | fillDeadline
  | scheduleBankSwitch
  | graphSwapTakeover
  | graphSwapComplete
  | graphLoadResume (img : ImageFile)
  | rebaseEnd
  | inputCutoff
  | decisionTime
  | walkerIssue (t : WalkAt)
  | npTransactionStart (t : SendAt)
  | tagReuseExpiry (t : Trunk) (tag : BitVec 12)
  -- received packets
  | periodicInData (t : Trunk) (d : DataPkt)
  | npDataReceived (t : Trunk) (d : DataPkt)
  | ackReceived (t : Trunk) (h : Handshake)
  | nakReceived (t : Trunk) (h : Handshake)
  | stallReceived (t : Trunk) (h : Handshake)
  | nyetReceived (t : Trunk) (h : Handshake)
  | errReceived (t : Trunk) (h : Handshake)
  | lockAckReceived (t : Trunk) (h : Handshake)
  | lockBusyReceived (t : Trunk) (h : Handshake)
  | corruptPacketReceived (t : CrcFail)
  | responseWindowClose (t : Trunk) (np mfp : Bool) (tag : BitVec 12)
  | markOnRootPort (p : Trunk) (rootId : Half)
  -- lanes
  | delineationLoss (t : DelinAt)
  | markerSend (n : LaneId)
  | markerReceived (n : LaneId) (m : Marker)
  | alignmentComplete (t : Trunk) (skewNs : BitVec 7)
  | laneEnableWrite (n : LaneId) (v : Word)
  | laneTrainStart (n : LaneId)
  | laneRetrainReq (n : LaneId)
  | quadCfgWrite (q : QuadId) (v : Word)
  | trainHeaderReceived (n : LaneId) (raw : BitVec 64) (inverted : Bool)
  | adaptationConverged (n : LaneId) (m : Margins)
  | trainingComplete (n : LaneId)
  | trainingTimeout (n : LaneId)
  | failedRetryTimer (n : LaneId)
  | blockLockLost (n : LaneId)
  | adaptationFreeze (n : LaneId)
  | adaptationResume (n : LaneId)
  | marginCheckStart (n : LaneId)
  | marginCheckComplete (n : LaneId) (m : Margins)
  | twillRetrainTimeout (t : Trunk)
  | retrainSlotStart (t : Trunk)
  | retrainSlotEnd (t : Trunk)
  | retrainBlockReceived (n : LaneId) (raw : BitVec 64)
  | eyeSwOwn (n : LaneId)
  | eyeScanStart (n : LaneId) (v : Word)
  | eyePointDone (n : LaneId) (count : Word)
  | lpiKeepaliveWake (t : Trunk)
  | prbsInjectSingle (n : LaneId)
  | prbsInjectBurst (n : LaneId) (v : Word)
  | prbsLock (n : LaneId)
  | prbsLockLost (n : LockLoss)
  -- ports
  | attachDebounceExpiry (p : Trunk)
  | presenceLost (p : Trunk)
  | linkPresenceAttach (p : Trunk)
  | linkPresenceLost (p : Trunk)
  | portCtrlWrite (p : Trunk) (v : Word)
  | portSetPower (p : Trunk)
  | portClearPower (p : Trunk)
  | portSetReset (p : Trunk)
  | portSetSuspend (p : Trunk)
  | portSetResume (p : Trunk)
  | portSetEnable (p : Trunk)
  | portClearEnable (p : Trunk)
  | rootGetPortStatus (p : Trunk)
  | resetSignallingEnd (p : Trunk)
  | portResetComplete (p : Trunk)
  | linkLost (p : Trunk)
  | remoteWakeSignal (p : Trunk)
  | resumeComplete (p : Trunk)
  -- topology manager
  | hubStatusReport (hub : Half) (bits : BitVec 64)
  | enumerationStart (p : Trunk)
  | tmTransferComplete (p : Trunk) (r : TmReply)
  | addressBindingExpiry (addr : Half)
  | pairPortTimeout (p : Trunk) (serial : BitVec 64)
  | tmEnableWrite (v : Word)
  | tmBacklogDrain
  | trunkCfgWrite (t : Trunk) (v : Word)
  | tsEnableWrite (v : Word)
  -- endpoint buffer memory
  | slotAllocated
  | ebmInitDone
  | scrubPass (hits : List EccHit)
  | diagWindowAccess (a : DiagAccess)
  -- graph dispatcher
  | operationDispatch
  | affinityWaitExpiry (node : Nat)
  | operationComplete (g : GpeId) (hits : List OpHit) (remoteStall : Nat)
  | spillMove (q : Prio)
  | heldNoticeEnter (q : Prio)
  | clipRefillNotice (g : Fin 256)
  | tapChunkComplete (tap : Fin 64)
  | clipStartTimer (seq : Nat)
  | clipRepeatTimer (seq : Nat)
  | clipStopTimer (seq : Nat)
  /-- `base` holds the baseline entries of the slot's lines, 8 bytes a line (R264). -/
  | sweepSlotTimer (seq : Nat) (base : List Byte)
  | pilotTimer (seq : Nat)
  | admitCfgWrite (v : Word)
  | obsCtrlWrite (v : Word)
  | obsWindowClose
  -- supervision and audit
  | refreshEnd
  | pilotWindowEnd (line : Half)
  | svBacklogDrain
  | auditPartStart
  | auditEyeComplete (grids : List EyeGrid)
  | auditPrbsEnd
  | twillSwapPhase
  -- pair and cascade
  | miodelTimeFrame (f : TimeFrame)
  | miodelPresenceFrame (recs : List PresenceRec)
  | miodelBlocksFrame (blocks : List BlockRec)
  | miodelDigestFrame (pass : Word) (digests : List Word)
  | miodelClipFrame (pass : MfNum) (clips : List ClipRec)
  | miodelRelayFrame (f : RelayFrame)
  | miodelMirrorFrame (seq : Word) (m : MirrorRec)
  | miodelCopyFrame (seq : Word) (c : CopyFrame)
  | miodelAckFrame (seq : Word)
  | miodelHelloFrame (h : HelloFrame)
  | miodelAckTimer
  | miodelResendTimeout
  | orderedChannelDown
  | frameSyncPulse (ns : Nat) (offset : BitVec 16)
  | peerLossDetect (c : LossCause)
  | takeover
  | helloTimeout
  | timeSourceLost
  | alignLost
  | cascadeMarkReceived (p : Trunk) (m : CascMark) (offset : BitVec 16)
  | pairEnableWrite (v : Word)
  | mirrorWriteApply
  | handoverSwitch
  | barrierComplete (id : Word)
  | joinPhaseEnd
  | joinDone
  | joinTimeout
  | puBacklogDrain
  -- rings
  | doorbellWrite (fn : FnId) (i : BitVec 11)
  | invalidateDoorbell (fn : FnId) (i : BitVec 11)
  | ringScanData (fn : FnId) (i : BitVec 11) (d : ScanData)
  | entryStart (fn : FnId) (sq : BitVec 11) (h : EntryRead)
  | moderationTimerExpiry (fn : FnId) (cq : BitVec 11)
  | msixUnmask (fn : FnId) (vector : BitVec 11)
  -- I/O entries
  | nop (r : EntryRef) (e : Sqe)
  | fence (r : EntryRef) (e : Sqe)
  | bulkOut (r : EntryRef) (e : Sqe)
  | bulkIn (r : EntryRef) (e : Sqe)
  | control (r : EntryRef) (e : Sqe)
  | tunnelTx (r : EntryRef) (e : Sqe)
  | tunnelRx (r : EntryRef) (e : Sqe)
  | move (r : EntryRef) (e : Sqe)
  | moveIndexed (r : EntryRef) (e : Sqe)
  | clipPlay (r : EntryRef) (e : Sqe)
  | clipStop (r : EntryRef) (e : Sqe)
  | tapRecord (r : EntryRef) (e : Sqe)
  -- admin entries
  | createSq (r : EntryRef) (e : Sqe)
  | deleteSq (r : EntryRef) (e : Sqe)
  | createCq (r : EntryRef) (e : Sqe) (clean : Bool)
  | deleteCq (r : EntryRef) (e : Sqe)
  | identify (r : EntryRef) (e : Sqe)
  | setShare (r : EntryRef) (e : Sqe)
  | getLog (r : EntryRef) (e : Sqe)
  | endpointAdd (r : EntryRef) (e : StageSqe)
  | endpointRemove (r : EntryRef) (e : StageSqe)
  | scheduleCommit (r : EntryRef) (e : Sqe)
  | graphLoad (r : EntryRef) (e : Sqe) (img : ImageFile)
  | graphSwap (r : EntryRef) (e : Sqe)
  | groupSet (r : EntryRef) (e : StageSqe)
  | vfGrant (r : EntryRef) (e : Sqe) (record : List Byte)
  | vfFreeze (r : EntryRef) (e : Sqe)
  | vfSave (r : EntryRef) (e : Sqe)
  | vfRestore (r : EntryRef) (e : Sqe) (blob : List Byte)
  | vfThaw (r : EntryRef) (e : Sqe)
  | engineRestart (r : EntryRef) (e : Sqe)
  | auditStart (r : EntryRef) (e : Sqe)
  | pairQuery (r : EntryRef) (e : Sqe)
  | pairHandover (r : EntryRef) (e : Sqe)
  | pairLeave (r : EntryRef) (e : Sqe)
  | pairJoin (r : EntryRef) (e : Sqe)
  | pairSetRank (r : EntryRef) (e : Sqe)
  | pairBarrier (r : EntryRef) (e : Sqe)
  | dmaWindowSet (r : EntryRef) (e : Sqe)
  | adminCfgWrite (fn : FnId) (reg : Fin 5) (v : Word)
  -- block movers
  | bmBurstStart (e : BurstAt)
  | bmHostCompletion (e : EngineId) (st : CplStatus) (data : List Byte)
  | hostCompletionTimeout (who : Requester)
  | bmAbort (ch : BitVec 10)
  | engineRestartDone (e : EngineId)
  -- bridge
  | remoteWindowRead (view : View) (off : Nat) (len : Nat)
  | remoteWindowWrite (view : View) (off : Nat) (data : List Byte)
  | atomicopRequest (view : View) (off : Nat) (wide : Bool) (op : AtomicOp)
  | viewAccessStart (view : ViewAt)
  | readLimitExpiry (view : View)
  | lockSequenceStart (view : View)
  | lockWaitExpiry (view : View)
  | lockRetry (view : View)
  | viewFaultClear (view : View)
  | windowCfgWrite (w : Fin 256) (base : Bool) (v : Word)
  -- host interface
  | d3hotEntry (fn : FnId)
  | d0Return (fn : FnId)
  | pmeResend (fn : FnId)
  | pmeTurnOff
  | aspmL1Request
  | hostLinkDown
  | hotReset
  | hostLossHandoverTimer
  | pfFlr
  | vfFlr (v : VfId)
  | vfFlrComplete (v : VfId)
  | registerWrite (addr : BitVec 25) (v : Word) (be : WriteTlp)
  -- power
  | requestSatin
  | requestDormant
  | requestActive
  | satinEntry
  | satinReturnStep1
  | satinReturnStep2
  | dormantEntry
  | wakeEvent (src : WakeSource)
  | alarmExpiry
  | pwrRdy
  | oscRdy
  | memRdy
  | logicRdy (asleepMf : MfNum) (asleepMs : Word)
  | dvfsVoltageStep (d : DvfsDomain) (op : BitVec 2)
  | dvfsFrequencyStep (d : DvfsDomain) (op : BitVec 2)
  | dvfsVoltageDone
  | mgtRegisterWrite (off : Byte) (v : Word)
  | mgtRegisterRead (off : Byte)
  | mgtAddressMatch (addr7 : BitVec 7)
  | tempSample (celsius : BitVec 9)
  | supplyLoss
  -- clocks, reset and boot
  | referenceAcquired (src : RefSource)
  | referenceLost (src : RefSource)
  | coldReset
  | coldResetRelease (straps : BitVec 7)
  | fundamentalReset
  | perstRelease
  | bootLoadComplete
  | warmReset (v : Word)
  | warmResetEnd
  | watchdogExpiry
  | watchdogCountExpiry
  | rsqRestart
  | rsqRestartDone
  | flashRead
  | flashProgram
  | flashErase
  | flashCommandDone
  -- further events
  | delineationRecovered (t : DelinBack)
  | senseLevelChange (p : Trunk) (level : Sense)
  | hostLinkUp (speed : BitVec 3) (width : BitVec 5) (reversed : Bool)
  | configReady
  | registerReadRc (fn : ReadTlp) (addr : BitVec 25)
  | pmeStatusClear (fn : FnId)
  | miodelFrameCrcFail (timed : Bool)
  | watchdogCountRestart
  | deviceRoleTokenReceived (p : Trunk) (tok : TokenPkt)
  | vfEnableWrite (enable : Bool) (numVfs : BitVec 16)
  deriving DecidableEq, Repr

end Sys2Proof
end

