-- ==== Sys2Proof/Config.lean ====
section
/-! DEFINITION. What the spec fixes for every part, and the free values: values the spec leaves open, as constants without
a body, so that nothing can be proved about what they are. -/

namespace Sys2Proof.Config

/-! ## Free values -/

/-- Which of the free values that a rule allows is taken: the free non-periodic tag (R44), the free global ring number
(R344), the entries lost with a damaged list (R435). The argument is the model's counter of free values. -/
opaque freeChoice : Nat → Nat

/-- A byte left undefined: a page or sector whose flash command a reset interrupts (R474). -/
opaque freeByte : Nat → Byte

/-- Fields of the class 0x03 node's descriptors that no rule gives (R115, R307): 0 CAPS but DUAL_HOMED; 16 + e and 32 + e WINDOW and FLAGS of
endpoint descriptor e. -/
opaque nodeField : Nat → Nat

/-- FORMAT of the frames that a node's tunnel IN endpoint sends, by its serial number and endpoint: no rule says how a receiver knows it (R57,
R411). -/
opaque tunnelFormat : Nat → Nat → Bool

/-- The payload of a Miodel frame, by its KIND and by the number in its header (R279): the spec names what each kind carries, and no layout. -/
opaque mioPayload : Nat → Nat → List Byte

/-- Phase at which the pilot's chirp starts (R259), in turns of 2^−32. -/
opaque chirpPhase : Nat

/-- Whether a sample of the pilot is rounded up (R259), by SV_PILOT.LEVEL, its place in the chirp and its place in the ramp: the spec gives no
rounding. -/
opaque pilotRounding : Nat → Nat → Nat → Bool

/-- Coefficients of one half of the 48-tap decimation filter (R250), in Q1.31; it is linear-phase, so the other half mirrors them. -/
opaque firTap : Nat → Int

/-- The quiet power that SV_QUIET.LEVEL stands for, with 62 fractional bits, as the P it is compared with (R251). -/
opaque quietPower : Nat → Int

/-- Fractional bits to which the step q of the NLMS update is truncated (R251): the spec gives the quotient and its truncation, and no format. -/
opaque quotientBits : Nat

/-! ## Constants of the part (R1, R27, R44, R129, R163, R353, R403, R424) -/

/-- Ticks of a microframe, and the tick of the fill deadline (R3, R5). -/
def mfTicks : Nat := 3125
def fillTick : Nat := 3075
/-- Input cut-off and decision times (R14, R227). -/
def cutTick : Nat := 1250
def decisionTick : Nat := 1875
/-- Round trip assumed until one is measured (R58), in ticks. -/
def rttDefault : Nat := 2500
/-- Entries of the pool (R129), granules of the slot pool (R163), records of the staged change log (R128). -/
def poolEntries : Nat := 1048575
def slotGranules : Nat := 1310720
def logRecords : Nat := 131072
/-- Places of the entry cache, those kept for admin rings, and the share of a ring (R353). -/
def cachePlaces : Nat := 8192
def cacheAdmin : Nat := 64
def cacheShare : Nat := 32
/-- Rings of each kind (R344), the internal hold of a CQ (R357). -/
def ringCount : Nat := 16384
def holdSize : Nat := 64
/-- Records of the late-fault log (R403) and the squash log (R424). -/
def lateRecords : Nat := 4096
def squashRecords : Nat := 4096

end Sys2Proof.Config
end

