-- ==== Sys2Proof/Machine/Regs.lean ====
section
/-! DEFINITION. The register map (R499, R500): for every register its address, its fields, its reset value and which
of its bits software may write (RW, RWS), clear by writing 1 (RW1C) or clear by reading (RC). Registers that come once
for each lane, quad, port, trunk, engine, window, view, function page or VF are functions of the unit's number. The text
of this file follows the register tables of the chapters that own the registers. -/

namespace Sys2Proof.Machine

/-- A field of a register: the register's byte address in PF BAR0, the lowest bit, the number of bits. -/
structure Fld where
  addr : Nat
  lo : Nat
  w : Nat
  deriving DecidableEq, Repr

/-- What a register's bits do: reset value, and the masks of its writable, write-1-to-clear and clear-on-read bits
(R9). -/
structure RegSpec where
  off : Nat
  reset : Nat
  rw : Nat
  w1c : Nat
  rc : Nat
  deriving DecidableEq, Repr

/-- Base address of the registers of lane `n`: 192 of them, 0x1000 bytes apart. -/
def Reg.laneBase (n : Nat) : Nat := 0xa00000 + n * 0x1000
/-- Base address of the registers of quad `n`: 48 of them, 0x100 bytes apart. -/
def Reg.quadBase (n : Nat) : Nat := 0xac0000 + n * 0x100
/-- Base address of the registers of port `n`: 192 of them, 0x10 bytes apart. -/
def Reg.portBase (n : Nat) : Nat := 0x801000 + n * 0x10
/-- Base address of the registers of trunk `n`: 192 of them, 0x40 bytes apart. -/
def Reg.trunkBase (n : Nat) : Nat := 0x701000 + n * 0x40
/-- Base address of the registers of engine `n`: 16 of them, 0x40 bytes apart. -/
def Reg.engineBase (n : Nat) : Nat := 0x501000 + n * 0x40
/-- Base address of the registers of window `n`: 256 of them, 0x10 bytes apart. -/
def Reg.windowBase (n : Nat) : Nat := 0x601000 + n * 0x10
/-- Base address of the registers of view `n`: 4096 of them, 0x8 bytes apart. -/
def Reg.viewBase (n : Nat) : Nat := 0x602000 + n * 0x8
/-- Base address of the registers of page `n`: 1025 of them, 0x20 bytes apart. -/
def Reg.pageBase (n : Nat) : Nat := 0x410000 + n * 0x20
/-- Base address of the registers of lnk `n`: 192 of them, 0x1000 bytes apart. -/
def Reg.lnkBase (n : Nat) : Nat := 0x900000 + n * 0x1000
/-- Base address of the registers of vfst `n`: 1024 of them, 0x4 bytes apart. -/
def Reg.vfstBase (n : Nat) : Nat := 0x301000 + n * 0x4
/-- Base address of the registers of fbuf `n`: 64 of them, 0x4 bytes apart. -/
def Reg.fbufBase (n : Nat) : Nat := 0xe01000 + n * 0x4

/-- R501. -/
def Reg.GLB_ID : Nat := 0x0
def Reg.GLB_ID_VENDOR : Fld := ⟨Reg.GLB_ID, 0, 16⟩
def Reg.GLB_ID_DEVICE : Fld := ⟨Reg.GLB_ID, 16, 16⟩
/-- R501. -/
def Reg.GLB_REV : Nat := 0x4
def Reg.GLB_REV_STEPPING : Fld := ⟨Reg.GLB_REV, 0, 8⟩
def Reg.GLB_REV_GRADE : Fld := ⟨Reg.GLB_REV, 8, 1⟩
/-- R501. -/
def Reg.GLB_SERIAL_LO : Nat := 0x8
def Reg.GLB_SERIAL_LO_SERIAL : Fld := ⟨Reg.GLB_SERIAL_LO, 0, 32⟩
/-- R501. -/
def Reg.GLB_SERIAL_HI : Nat := 0xc
def Reg.GLB_SERIAL_HI_SERIAL : Fld := ⟨Reg.GLB_SERIAL_HI, 0, 32⟩
/-- R502. -/
def Reg.GLB_ERR : Nat := 0x40
def Reg.GLB_ERR_GATED_ACCESS : Fld := ⟨Reg.GLB_ERR, 0, 1⟩
def Reg.GLB_ERR_UNCORRECTABLE : Fld := ⟨Reg.GLB_ERR, 1, 1⟩
def Reg.GLB_ERR_LOST : Fld := ⟨Reg.GLB_ERR, 2, 1⟩
def Reg.GLB_ERR_FAULT : Fld := ⟨Reg.GLB_ERR, 3, 1⟩
def Reg.GLB_ERR_SCOPE_SEEN : Fld := ⟨Reg.GLB_ERR, 8, 8⟩
/-- R502. -/
def Reg.GLB_ERR_INFO : Nat := 0x44
def Reg.GLB_ERR_INFO_BLOCK : Fld := ⟨Reg.GLB_ERR_INFO, 0, 4⟩
def Reg.GLB_ERR_INFO_SCOPE : Fld := ⟨Reg.GLB_ERR_INFO, 4, 3⟩
def Reg.GLB_ERR_INFO_CAUSE : Fld := ⟨Reg.GLB_ERR_INFO, 8, 8⟩
def Reg.GLB_ERR_INFO_FUNCTION : Fld := ⟨Reg.GLB_ERR_INFO, 16, 11⟩
/-- R502. -/
def Reg.GLB_ERR_UNIT : Nat := 0x48
def Reg.GLB_ERR_UNIT_UNIT : Fld := ⟨Reg.GLB_ERR_UNIT, 0, 32⟩
/-- R502. -/
def Reg.GLB_ERR_ADDR_LO : Nat := 0x4c
def Reg.GLB_ERR_ADDR_LO_ADDR : Fld := ⟨Reg.GLB_ERR_ADDR_LO, 0, 32⟩
/-- R502. -/
def Reg.GLB_ERR_ADDR_HI : Nat := 0x50
def Reg.GLB_ERR_ADDR_HI_ADDR : Fld := ⟨Reg.GLB_ERR_ADDR_HI, 0, 32⟩
/-- R502. -/
def Reg.GLB_ERR_MF_LO : Nat := 0x54
def Reg.GLB_ERR_MF_LO_MF : Fld := ⟨Reg.GLB_ERR_MF_LO, 0, 32⟩
/-- R502. -/
def Reg.GLB_ERR_MF_HI : Nat := 0x58
def Reg.GLB_ERR_MF_HI_MF : Fld := ⟨Reg.GLB_ERR_MF_HI, 0, 16⟩
/-- R502. -/
def Reg.GLB_ERR_COUNT : Nat := 0x5c
def Reg.GLB_ERR_COUNT_UNCORRECTABLE : Fld := ⟨Reg.GLB_ERR_COUNT, 0, 16⟩
def Reg.GLB_ERR_COUNT_GATED : Fld := ⟨Reg.GLB_ERR_COUNT, 16, 16⟩
/-- R502. -/
def Reg.GLB_GATED_ADDR : Nat := 0x60
def Reg.GLB_GATED_ADDR_OFFSET : Fld := ⟨Reg.GLB_GATED_ADDR, 0, 32⟩
/-- R502. -/
def Reg.GLB_GATED_INFO : Nat := 0x64
def Reg.GLB_GATED_INFO_FUNCTION : Fld := ⟨Reg.GLB_GATED_INFO, 0, 11⟩
def Reg.GLB_GATED_INFO_PATH : Fld := ⟨Reg.GLB_GATED_INFO, 11, 3⟩
def Reg.GLB_GATED_INFO_WRITE : Fld := ⟨Reg.GLB_GATED_INFO, 14, 1⟩
/-- R502. -/
def Reg.GLB_ERR_IRQ : Nat := 0x68
def Reg.GLB_ERR_IRQ_VECTOR : Fld := ⟨Reg.GLB_ERR_IRQ, 0, 11⟩
def Reg.GLB_ERR_IRQ_GATED_IEN : Fld := ⟨Reg.GLB_ERR_IRQ, 30, 1⟩
def Reg.GLB_ERR_IRQ_IEN : Fld := ⟨Reg.GLB_ERR_IRQ, 31, 1⟩
/-- R496. -/
def Reg.GLB_GPIO_DIR : Nat := 0x1e0
def Reg.GLB_GPIO_DIR_DIR : Fld := ⟨Reg.GLB_GPIO_DIR, 0, 16⟩
/-- R496. -/
def Reg.GLB_GPIO_OUT : Nat := 0x1e4
def Reg.GLB_GPIO_OUT_OUT : Fld := ⟨Reg.GLB_GPIO_OUT, 0, 16⟩
/-- R496. -/
def Reg.GLB_GPIO_IN : Nat := 0x1e8
def Reg.GLB_GPIO_IN_IN : Fld := ⟨Reg.GLB_GPIO_IN, 0, 16⟩
/-- R496. -/
def Reg.GLB_THERM : Nat := 0x1ec
def Reg.GLB_THERM_TEMP : Fld := ⟨Reg.GLB_THERM, 0, 9⟩
def Reg.GLB_THERM_THRESH : Fld := ⟨Reg.GLB_THERM, 16, 8⟩
def Reg.GLB_THERM_ABOVE : Fld := ⟨Reg.GLB_THERM, 24, 1⟩
def Reg.GLB_THERM_CROSSED : Fld := ⟨Reg.GLB_THERM, 25, 1⟩
/-- R463. -/
def Reg.PMU_POLICY : Nat := 0x100000
def Reg.PMU_POLICY_TURN_OFF : Fld := ⟨Reg.PMU_POLICY, 0, 1⟩
def Reg.PMU_POLICY_LYBOR_SQUELCH : Fld := ⟨Reg.PMU_POLICY, 1, 1⟩
/-- R463. -/
def Reg.PMU_REQ : Nat := 0x100004
def Reg.PMU_REQ_TARGET : Fld := ⟨Reg.PMU_REQ, 0, 3⟩
/-- R463. -/
def Reg.PMU_REQ_STATUS : Nat := 0x100008
def Reg.PMU_REQ_STATUS_BUSY : Fld := ⟨Reg.PMU_REQ_STATUS, 0, 1⟩
def Reg.PMU_REQ_STATUS_DONE : Fld := ⟨Reg.PMU_REQ_STATUS, 1, 1⟩
def Reg.PMU_REQ_STATUS_REFUSED : Fld := ⟨Reg.PMU_REQ_STATUS, 2, 1⟩
def Reg.PMU_REQ_STATUS_TARGET : Fld := ⟨Reg.PMU_REQ_STATUS, 3, 3⟩
def Reg.PMU_REQ_STATUS_STATUS : Fld := ⟨Reg.PMU_REQ_STATUS, 8, 8⟩
/-- R463. -/
def Reg.PMU_STATUS : Nat := 0x10000c
def Reg.PMU_STATUS_STATE : Fld := ⟨Reg.PMU_STATUS, 0, 3⟩
def Reg.PMU_STATUS_RESTORED : Fld := ⟨Reg.PMU_STATUS, 3, 1⟩
def Reg.PMU_STATUS_PWR_RDY : Fld := ⟨Reg.PMU_STATUS, 4, 1⟩
def Reg.PMU_STATUS_OSC_RDY : Fld := ⟨Reg.PMU_STATUS, 5, 1⟩
def Reg.PMU_STATUS_MEM_RDY : Fld := ⟨Reg.PMU_STATUS, 6, 1⟩
def Reg.PMU_STATUS_LOGIC_RDY : Fld := ⟨Reg.PMU_STATUS, 7, 1⟩
def Reg.PMU_STATUS_CORE_FOP : Fld := ⟨Reg.PMU_STATUS, 8, 2⟩
def Reg.PMU_STATUS_CORE_VOP : Fld := ⟨Reg.PMU_STATUS, 10, 2⟩
def Reg.PMU_STATUS_DSP_FOP : Fld := ⟨Reg.PMU_STATUS, 12, 2⟩
def Reg.PMU_STATUS_DSP_VOP : Fld := ⟨Reg.PMU_STATUS, 14, 2⟩
/-- R463. -/
def Reg.PMU_DVFS : Nat := 0x100010
def Reg.PMU_DVFS_DOMAIN : Fld := ⟨Reg.PMU_DVFS, 0, 1⟩
def Reg.PMU_DVFS_KIND : Fld := ⟨Reg.PMU_DVFS, 1, 1⟩
def Reg.PMU_DVFS_OP : Fld := ⟨Reg.PMU_DVFS, 2, 2⟩
/-- R463. -/
def Reg.PMU_DVFS_STATUS : Nat := 0x100014
def Reg.PMU_DVFS_STATUS_BUSY : Fld := ⟨Reg.PMU_DVFS_STATUS, 0, 1⟩
def Reg.PMU_DVFS_STATUS_REFUSED : Fld := ⟨Reg.PMU_DVFS_STATUS, 1, 1⟩
def Reg.PMU_DVFS_STATUS_REASON : Fld := ⟨Reg.PMU_DVFS_STATUS, 2, 3⟩
def Reg.PMU_DVFS_STATUS_DOMAIN : Fld := ⟨Reg.PMU_DVFS_STATUS, 5, 1⟩
def Reg.PMU_DVFS_STATUS_KIND : Fld := ⟨Reg.PMU_DVFS_STATUS, 6, 1⟩
def Reg.PMU_DVFS_STATUS_OP : Fld := ⟨Reg.PMU_DVFS_STATUS, 7, 2⟩
def Reg.PMU_DVFS_STATUS_REFUSALS : Fld := ⟨Reg.PMU_DVFS_STATUS, 16, 16⟩
/-- R463. -/
def Reg.PMU_WAKE_EN : Nat := 0x100018
def Reg.PMU_WAKE_EN_MGT : Fld := ⟨Reg.PMU_WAKE_EN, 0, 1⟩
def Reg.PMU_WAKE_EN_LYBOR : Fld := ⟨Reg.PMU_WAKE_EN, 1, 1⟩
def Reg.PMU_WAKE_EN_PCIE : Fld := ⟨Reg.PMU_WAKE_EN, 2, 1⟩
def Reg.PMU_WAKE_EN_ALARM : Fld := ⟨Reg.PMU_WAKE_EN, 3, 1⟩
def Reg.PMU_WAKE_EN_EMERG : Fld := ⟨Reg.PMU_WAKE_EN, 4, 1⟩
/-- R463. -/
def Reg.PMU_WAKE_LOG : Nat := 0x10001c
def Reg.PMU_WAKE_LOG_SOURCE : Fld := ⟨Reg.PMU_WAKE_LOG, 0, 3⟩
def Reg.PMU_WAKE_LOG_FROM : Fld := ⟨Reg.PMU_WAKE_LOG, 3, 3⟩
def Reg.PMU_WAKE_LOG_SLEEP_ABORTED : Fld := ⟨Reg.PMU_WAKE_LOG, 6, 1⟩
def Reg.PMU_WAKE_LOG_WAKES : Fld := ⟨Reg.PMU_WAKE_LOG, 16, 16⟩
/-- R463. -/
def Reg.PMU_WAKE_MF_LO : Nat := 0x100020
def Reg.PMU_WAKE_MF_LO_MF : Fld := ⟨Reg.PMU_WAKE_MF_LO, 0, 32⟩
/-- R463. -/
def Reg.PMU_WAKE_MF_HI : Nat := 0x100024
def Reg.PMU_WAKE_MF_HI_MF : Fld := ⟨Reg.PMU_WAKE_MF_HI, 0, 16⟩
/-- R463. -/
def Reg.PMU_ALARM : Nat := 0x100028
def Reg.PMU_ALARM_MS : Fld := ⟨Reg.PMU_ALARM, 0, 32⟩
/-- R463. -/
def Reg.PMU_SLEEP_TIME : Nat := 0x10002c
def Reg.PMU_SLEEP_TIME_MS : Fld := ⟨Reg.PMU_SLEEP_TIME, 0, 32⟩
/-- R463. -/
def Reg.PMU_DISCARDED : Nat := 0x100030
def Reg.PMU_DISCARDED_COUNT : Fld := ⟨Reg.PMU_DISCARDED, 0, 32⟩
/-- R478. -/
def Reg.CKG_STATUS : Nat := 0x200000
def Reg.CKG_STATUS_ROOT_LOCK : Fld := ⟨Reg.CKG_STATUS, 0, 1⟩
def Reg.CKG_STATUS_SRC : Fld := ⟨Reg.CKG_STATUS, 1, 2⟩
def Reg.CKG_STATUS_HOLDOVER : Fld := ⟨Reg.CKG_STATUS, 3, 1⟩
def Reg.CKG_STATUS_REFCLK_PRESENT : Fld := ⟨Reg.CKG_STATUS, 4, 1⟩
/-- R478. -/
def Reg.CKG_REF_CFG : Nat := 0x200004
def Reg.CKG_REF_CFG_CASCADE_EN : Fld := ⟨Reg.CKG_REF_CFG, 0, 1⟩
def Reg.CKG_REF_CFG_CASCADE_PORT : Fld := ⟨Reg.CKG_REF_CFG, 8, 8⟩
/-- R478. -/
def Reg.CKG_REF_EVENTS : Nat := 0x200008
def Reg.CKG_REF_EVENTS_SWITCHES : Fld := ⟨Reg.CKG_REF_EVENTS, 0, 16⟩
def Reg.CKG_REF_EVENTS_LOSSES : Fld := ⟨Reg.CKG_REF_EVENTS, 16, 16⟩
/-- R478. -/
def Reg.CKG_RESET : Nat := 0x20000c
def Reg.CKG_RESET_KEY : Fld := ⟨Reg.CKG_RESET, 0, 16⟩
def Reg.CKG_RESET_WARM : Fld := ⟨Reg.CKG_RESET, 16, 1⟩
/-- R478. -/
def Reg.CKG_RESET_CAUSE : Nat := 0x200010
def Reg.CKG_RESET_CAUSE_CAUSE : Fld := ⟨Reg.CKG_RESET_CAUSE, 0, 3⟩
def Reg.CKG_RESET_CAUSE_WARMS : Fld := ⟨Reg.CKG_RESET_CAUSE, 16, 16⟩
/-- R27. -/
def Reg.TB_TICK_LO : Nat := 0x208000
def Reg.TB_TICK_LO_TICK : Fld := ⟨Reg.TB_TICK_LO, 0, 32⟩
/-- R27. -/
def Reg.TB_TICK_HI : Nat := 0x208004
def Reg.TB_TICK_HI_TICK : Fld := ⟨Reg.TB_TICK_HI, 0, 32⟩
/-- R27. -/
def Reg.TB_UFRAME_LO : Nat := 0x208008
def Reg.TB_UFRAME_LO_UFRAME : Fld := ⟨Reg.TB_UFRAME_LO, 0, 32⟩
/-- R27. -/
def Reg.TB_UFRAME_HI : Nat := 0x20800c
def Reg.TB_UFRAME_HI_UFRAME : Fld := ⟨Reg.TB_UFRAME_HI, 0, 16⟩
/-- R27. -/
def Reg.TB_PHASE : Nat := 0x208010
def Reg.TB_PHASE_PHASE : Fld := ⟨Reg.TB_PHASE, 0, 12⟩
def Reg.TB_PHASE_TULLE : Fld := ⟨Reg.TB_PHASE, 12, 1⟩
/-- R342. -/
def Reg.HIF_CTRL : Nat := 0x300000
def Reg.HIF_CTRL_HOST_LOSS_HANDOVER : Fld := ⟨Reg.HIF_CTRL, 0, 1⟩
/-- R342. -/
def Reg.HIF_STATUS : Nat := 0x300004
def Reg.HIF_STATUS_CONFIG_READY : Fld := ⟨Reg.HIF_STATUS, 0, 1⟩
def Reg.HIF_STATUS_OPERATIONAL : Fld := ⟨Reg.HIF_STATUS, 1, 1⟩
def Reg.HIF_STATUS_LINK_UP : Fld := ⟨Reg.HIF_STATUS, 2, 1⟩
def Reg.HIF_STATUS_HOST_LOST : Fld := ⟨Reg.HIF_STATUS, 3, 1⟩
def Reg.HIF_STATUS_WIDTH_FAIL : Fld := ⟨Reg.HIF_STATUS, 4, 1⟩
/-- R342. -/
def Reg.HIF_LINK_STATUS : Nat := 0x300008
def Reg.HIF_LINK_STATUS_SPEED : Fld := ⟨Reg.HIF_LINK_STATUS, 0, 3⟩
def Reg.HIF_LINK_STATUS_REVERSED : Fld := ⟨Reg.HIF_LINK_STATUS, 3, 1⟩
def Reg.HIF_LINK_STATUS_WIDTH : Fld := ⟨Reg.HIF_LINK_STATUS, 4, 5⟩
def Reg.HIF_LINK_STATUS_RETRAINS : Fld := ⟨Reg.HIF_LINK_STATUS, 16, 16⟩
/-- R342. -/
def Reg.HIF_LINK_CFG : Nat := 0x30000c
def Reg.HIF_LINK_CFG_SRIS : Fld := ⟨Reg.HIF_LINK_CFG, 0, 1⟩
def Reg.HIF_LINK_CFG_MAX_SPEED : Fld := ⟨Reg.HIF_LINK_CFG, 1, 3⟩
/-- R342. -/
def Reg.HIF_ASPM : Nat := 0x300010
def Reg.HIF_ASPM_L1_IDLE : Fld := ⟨Reg.HIF_ASPM, 0, 16⟩
def Reg.HIF_ASPM_L1_ENTRIES : Fld := ⟨Reg.HIF_ASPM, 16, 16⟩
/-- R342. -/
def Reg.HIF_WAKE_LOG : Nat := 0x300014
def Reg.HIF_WAKE_LOG_REASON : Fld := ⟨Reg.HIF_WAKE_LOG, 0, 4⟩
def Reg.HIF_WAKE_LOG_FUNCTION : Fld := ⟨Reg.HIF_WAKE_LOG, 4, 11⟩
def Reg.HIF_WAKE_LOG_SUPPRESSED : Fld := ⟨Reg.HIF_WAKE_LOG, 15, 1⟩
/-- R342. -/
def Reg.HIF_WAKE_MF_LO : Nat := 0x300018
def Reg.HIF_WAKE_MF_LO_MF : Fld := ⟨Reg.HIF_WAKE_MF_LO, 0, 32⟩
/-- R342. -/
def Reg.HIF_WAKE_MF_HI : Nat := 0x30001c
def Reg.HIF_WAKE_MF_HI_MF : Fld := ⟨Reg.HIF_WAKE_MF_HI, 0, 16⟩
/-- R342. -/
def Reg.HIF_ERR_COUNT : Nat := 0x300020
def Reg.HIF_ERR_COUNT_ECRC : Fld := ⟨Reg.HIF_ERR_COUNT, 0, 16⟩
def Reg.HIF_ERR_COUNT_POISONED : Fld := ⟨Reg.HIF_ERR_COUNT, 16, 16⟩
/-- R433. -/
def Reg.HIF_SQUASH_LOST : Nat := 0x300024
def Reg.HIF_SQUASH_LOST_COUNT : Fld := ⟨Reg.HIF_SQUASH_LOST, 0, 32⟩
/-- R371. -/
def Reg.QE_CTRL : Nat := 0x400000
def Reg.QE_CTRL_EN : Fld := ⟨Reg.QE_CTRL, 0, 1⟩
/-- R371. -/
def Reg.QE_STATUS : Nat := 0x400004
def Reg.QE_STATUS_CACHE_FULL : Fld := ⟨Reg.QE_STATUS, 0, 1⟩
def Reg.QE_STATUS_EXEC_BUSY : Fld := ⟨Reg.QE_STATUS, 1, 1⟩
/-- R371. -/
def Reg.QE_RINGS_FREE : Nat := 0x400008
def Reg.QE_RINGS_FREE_SQ : Fld := ⟨Reg.QE_RINGS_FREE, 0, 15⟩
def Reg.QE_RINGS_FREE_CQ : Fld := ⟨Reg.QE_RINGS_FREE, 16, 15⟩
/-- R371. -/
def Reg.QE_CACHE_USED : Nat := 0x40000c
def Reg.QE_CACHE_USED_USED : Fld := ⟨Reg.QE_CACHE_USED, 0, 14⟩
def Reg.QE_CACHE_USED_HIGH : Fld := ⟨Reg.QE_CACHE_USED, 16, 14⟩
/-- R371. -/
def Reg.QE_ERR : Nat := 0x400010
def Reg.QE_ERR_MALFORMED : Fld := ⟨Reg.QE_ERR, 0, 16⟩
def Reg.QE_ERR_STRAY_DOORBELLS : Fld := ⟨Reg.QE_ERR, 16, 8⟩
def Reg.QE_ERR_RING_FAULTS : Fld := ⟨Reg.QE_ERR, 24, 8⟩
/-- R371. -/
def Reg.QE_OVERFLOWS : Nat := 0x400014
def Reg.QE_OVERFLOWS_COUNT : Fld := ⟨Reg.QE_OVERFLOWS, 0, 32⟩
/-- R371. -/
def Reg.QE_ECC : Nat := 0x400018
def Reg.QE_ECC_CORRECTED : Fld := ⟨Reg.QE_ECC, 0, 16⟩
def Reg.QE_ECC_UNCORRECTED : Fld := ⟨Reg.QE_ECC, 16, 16⟩
/-- R392. -/
def Reg.BM_CTRL : Nat := 0x500000
def Reg.BM_CTRL_EN : Fld := ⟨Reg.BM_CTRL, 0, 1⟩
/-- R392. -/
def Reg.BM_STATUS : Nat := 0x500004
def Reg.BM_STATUS_STOPPED : Fld := ⟨Reg.BM_STATUS, 0, 16⟩
def Reg.BM_STATUS_BUSY : Fld := ⟨Reg.BM_STATUS, 16, 16⟩
/-- R392. -/
def Reg.BM_ABORT : Nat := 0x500008
def Reg.BM_ABORT_CHANNEL : Fld := ⟨Reg.BM_ABORT, 0, 10⟩
/-- R414. -/
def Reg.XB_CTRL : Nat := 0x600000
def Reg.XB_CTRL_EN : Fld := ⟨Reg.XB_CTRL, 0, 1⟩
def Reg.XB_CTRL_ATOMIC_EN : Fld := ⟨Reg.XB_CTRL, 1, 1⟩
def Reg.XB_CTRL_LATE_VECTOR : Fld := ⟨Reg.XB_CTRL, 16, 11⟩
def Reg.XB_CTRL_LATE_IEN : Fld := ⟨Reg.XB_CTRL, 31, 1⟩
/-- R414. -/
def Reg.XB_STATUS : Nat := 0x600004
def Reg.XB_STATUS_LOG_USED : Fld := ⟨Reg.XB_STATUS, 0, 13⟩
def Reg.XB_STATUS_LOG_FULL : Fld := ⟨Reg.XB_STATUS, 13, 1⟩
/-- R414. -/
def Reg.XB_READ_LIMIT : Nat := 0x600008
def Reg.XB_READ_LIMIT_LIMIT : Fld := ⟨Reg.XB_READ_LIMIT, 0, 6⟩
/-- R414. -/
def Reg.XB_LOCK_CFG : Nat := 0x60000c
def Reg.XB_LOCK_CFG_RETRIES : Fld := ⟨Reg.XB_LOCK_CFG, 0, 3⟩
def Reg.XB_LOCK_CFG_WAIT : Fld := ⟨Reg.XB_LOCK_CFG, 8, 8⟩
/-- R414. -/
def Reg.XB_LATE_LOST : Nat := 0x600010
def Reg.XB_LATE_LOST_COUNT : Fld := ⟨Reg.XB_LATE_LOST, 0, 32⟩
/-- R414. -/
def Reg.XB_LOCK_COUNT : Nat := 0x600014
def Reg.XB_LOCK_COUNT_DONE : Fld := ⟨Reg.XB_LOCK_COUNT, 0, 16⟩
def Reg.XB_LOCK_COUNT_CONTENDED : Fld := ⟨Reg.XB_LOCK_COUNT, 16, 16⟩
/-- R414. -/
def Reg.XB_TUNNEL_ERRORS : Nat := 0x600018
def Reg.XB_TUNNEL_ERRORS_OVERSIZE : Fld := ⟨Reg.XB_TUNNEL_ERRORS, 0, 16⟩
def Reg.XB_TUNNEL_ERRORS_FCS_BAD : Fld := ⟨Reg.XB_TUNNEL_ERRORS, 16, 16⟩
/-- R157. -/
def Reg.TS_CTRL : Nat := 0x700000
def Reg.TS_CTRL_EN : Fld := ⟨Reg.TS_CTRL, 0, 1⟩
def Reg.TS_CTRL_BULK_EN : Fld := ⟨Reg.TS_CTRL, 1, 1⟩
/-- R157. -/
def Reg.TS_STATUS : Nat := 0x700004
def Reg.TS_STATUS_BANK : Fld := ⟨Reg.TS_STATUS, 0, 1⟩
def Reg.TS_STATUS_COMMIT_PENDING : Fld := ⟨Reg.TS_STATUS, 1, 1⟩
def Reg.TS_STATUS_REBASING : Fld := ⟨Reg.TS_STATUS, 2, 1⟩
def Reg.TS_STATUS_SATIN_WALK : Fld := ⟨Reg.TS_STATUS, 3, 1⟩
/-- R157. -/
def Reg.TS_COMMIT_MF_LO : Nat := 0x700008
def Reg.TS_COMMIT_MF_LO_MF : Fld := ⟨Reg.TS_COMMIT_MF_LO, 0, 32⟩
/-- R157. -/
def Reg.TS_COMMIT_MF_HI : Nat := 0x70000c
def Reg.TS_COMMIT_MF_HI_MF : Fld := ⟨Reg.TS_COMMIT_MF_HI, 0, 16⟩
/-- R157. -/
def Reg.TS_POOL_FREE : Nat := 0x700010
def Reg.TS_POOL_FREE_FREE : Fld := ⟨Reg.TS_POOL_FREE, 0, 21⟩
/-- R157. -/
def Reg.TS_LOG_USED : Nat := 0x700014
def Reg.TS_LOG_USED_USED : Fld := ⟨Reg.TS_LOG_USED, 0, 18⟩
/-- R157. -/
def Reg.TS_DEFER_TOTAL : Nat := 0x700018
def Reg.TS_DEFER_TOTAL_COUNT : Fld := ⟨Reg.TS_DEFER_TOTAL, 0, 32⟩
/-- R183. -/
def Reg.EBM_CTRL : Nat := 0x708000
def Reg.EBM_CTRL_DIAG_WRITE_EN : Fld := ⟨Reg.EBM_CTRL, 0, 1⟩
def Reg.EBM_CTRL_SCRUB_EN : Fld := ⟨Reg.EBM_CTRL, 1, 1⟩
/-- R183. -/
def Reg.EBM_STATUS : Nat := 0x708004
def Reg.EBM_STATUS_INIT_DONE : Fld := ⟨Reg.EBM_STATUS, 0, 1⟩
def Reg.EBM_STATUS_SCRUBBING : Fld := ⟨Reg.EBM_STATUS, 1, 1⟩
/-- R183. -/
def Reg.EBM_RETAIN : Nat := 0x708008
def Reg.EBM_RETAIN_BANKS : Fld := ⟨Reg.EBM_RETAIN, 0, 32⟩
/-- R183. -/
def Reg.EBM_SLOT_FREE : Nat := 0x70800c
def Reg.EBM_SLOT_FREE_FREE : Fld := ⟨Reg.EBM_SLOT_FREE, 0, 21⟩
/-- R183. -/
def Reg.EBM_SLOT_LARGEST : Nat := 0x708010
def Reg.EBM_SLOT_LARGEST_RUN : Fld := ⟨Reg.EBM_SLOT_LARGEST, 0, 21⟩
/-- R183. -/
def Reg.EBM_NP_RESERVE : Nat := 0x708014
def Reg.EBM_NP_RESERVE_GRANULES : Fld := ⟨Reg.EBM_NP_RESERVE, 0, 21⟩
/-- R183. -/
def Reg.EBM_NAK_DEFAULT : Nat := 0x708018
def Reg.EBM_NAK_DEFAULT_LIMIT : Fld := ⟨Reg.EBM_NAK_DEFAULT, 0, 16⟩
/-- R183. -/
def Reg.EBM_SLOT_WAITS : Nat := 0x70801c
def Reg.EBM_SLOT_WAITS_COUNT : Fld := ⟨Reg.EBM_SLOT_WAITS, 0, 32⟩
/-- R183. -/
def Reg.EBM_IN_DUPLICATES : Nat := 0x708020
def Reg.EBM_IN_DUPLICATES_COUNT : Fld := ⟨Reg.EBM_IN_DUPLICATES, 0, 32⟩
/-- R183. -/
def Reg.EBM_ECC_COUNT : Nat := 0x708024
def Reg.EBM_ECC_COUNT_CORRECTED : Fld := ⟨Reg.EBM_ECC_COUNT, 0, 16⟩
def Reg.EBM_ECC_COUNT_UNCORRECTED : Fld := ⟨Reg.EBM_ECC_COUNT, 16, 16⟩
/-- R183. -/
def Reg.EBM_ECC_ADDR : Nat := 0x708028
def Reg.EBM_ECC_ADDR_ADDR : Fld := ⟨Reg.EBM_ECC_ADDR, 0, 27⟩
def Reg.EBM_ECC_ADDR_VALID : Fld := ⟨Reg.EBM_ECC_ADDR, 31, 1⟩
/-- R127. -/
def Reg.TM_CTRL : Nat := 0x800000
def Reg.TM_CTRL_EN : Fld := ⟨Reg.TM_CTRL, 0, 1⟩
def Reg.TM_CTRL_AUTO_ENUM : Fld := ⟨Reg.TM_CTRL, 1, 1⟩
def Reg.TM_CTRL_REBIND_EN : Fld := ⟨Reg.TM_CTRL, 2, 1⟩
def Reg.TM_CTRL_HUB_POLL : Fld := ⟨Reg.TM_CTRL, 4, 3⟩
def Reg.TM_CTRL_ROOT_ID : Fld := ⟨Reg.TM_CTRL, 16, 16⟩
/-- R127. -/
def Reg.TM_EVENT_CTRL : Nat := 0x800004
def Reg.TM_EVENT_CTRL_CQ : Fld := ⟨Reg.TM_EVENT_CTRL, 0, 14⟩
def Reg.TM_EVENT_CTRL_EN : Fld := ⟨Reg.TM_EVENT_CTRL, 31, 1⟩
/-- R127. -/
def Reg.TM_ADDR_POOL : Nat := 0x800008
def Reg.TM_ADDR_POOL_FIRST : Fld := ⟨Reg.TM_ADDR_POOL, 0, 16⟩
def Reg.TM_ADDR_POOL_LAST : Fld := ⟨Reg.TM_ADDR_POOL, 16, 16⟩
/-- R127. -/
def Reg.TM_ENUM_STATUS : Nat := 0x80000c
def Reg.TM_ENUM_STATUS_WAITING : Fld := ⟨Reg.TM_ENUM_STATUS, 0, 16⟩
def Reg.TM_ENUM_STATUS_ACTIVE : Fld := ⟨Reg.TM_ENUM_STATUS, 16, 8⟩
/-- R127. -/
def Reg.TM_EVENTS_MERGED : Nat := 0x800010
def Reg.TM_EVENTS_MERGED_COUNT : Fld := ⟨Reg.TM_EVENTS_MERGED, 0, 32⟩
/-- R225. -/
def Reg.MRE_CTRL : Nat := 0xb00000
def Reg.MRE_CTRL_EN : Fld := ⟨Reg.MRE_CTRL, 0, 1⟩
/-- R225. -/
def Reg.MRE_STATUS : Nat := 0xb00004
def Reg.MRE_STATUS_BANK : Fld := ⟨Reg.MRE_STATUS, 0, 1⟩
def Reg.MRE_STATUS_GRAPH_VALID : Fld := ⟨Reg.MRE_STATUS, 1, 1⟩
def Reg.MRE_STATUS_SWAP_PENDING : Fld := ⟨Reg.MRE_STATUS, 2, 1⟩
def Reg.MRE_STATUS_OP_REFUSED : Fld := ⟨Reg.MRE_STATUS, 3, 1⟩
def Reg.MRE_STATUS_P0_ONLY : Fld := ⟨Reg.MRE_STATUS, 4, 1⟩
/-- R225. -/
def Reg.MRE_GRAPH_ID : Nat := 0xb00008
def Reg.MRE_GRAPH_ID_ID : Fld := ⟨Reg.MRE_GRAPH_ID, 0, 32⟩
/-- R225. -/
def Reg.MRE_STAGED_ID : Nat := 0xb0000c
def Reg.MRE_STAGED_ID_ID : Fld := ⟨Reg.MRE_STAGED_ID, 0, 32⟩
/-- R225. -/
def Reg.MRE_SWAP_MF_LO : Nat := 0xb00010
def Reg.MRE_SWAP_MF_LO_MF : Fld := ⟨Reg.MRE_SWAP_MF_LO, 0, 32⟩
/-- R225. -/
def Reg.MRE_SWAP_MF_HI : Nat := 0xb00014
def Reg.MRE_SWAP_MF_HI_MF : Fld := ⟨Reg.MRE_SWAP_MF_HI, 0, 16⟩
/-- R225. -/
def Reg.MRE_ADMIT_CFG : Nat := 0xb00018
def Reg.MRE_ADMIT_CFG_OP : Fld := ⟨Reg.MRE_ADMIT_CFG, 0, 2⟩
/-- R225. -/
def Reg.MRE_CYC_P0 : Nat := 0xb0001c
def Reg.MRE_CYC_P0_CYC : Fld := ⟨Reg.MRE_CYC_P0, 0, 24⟩
/-- R225. -/
def Reg.MRE_CYC_GENERAL : Nat := 0xb00020
def Reg.MRE_CYC_GENERAL_CYC : Fld := ⟨Reg.MRE_CYC_GENERAL, 0, 24⟩
/-- R225. -/
def Reg.MRE_UCODE_VER : Nat := 0xb00024
def Reg.MRE_UCODE_VER_VER : Fld := ⟨Reg.MRE_UCODE_VER, 0, 32⟩
/-- R225. -/
def Reg.MRE_OVERRUNS : Nat := 0xb00028
def Reg.MRE_OVERRUNS_COUNT : Fld := ⟨Reg.MRE_OVERRUNS, 0, 32⟩
/-- R225. -/
def Reg.MRE_MISSING : Nat := 0xb0002c
def Reg.MRE_MISSING_COUNT : Fld := ⟨Reg.MRE_MISSING, 0, 32⟩
/-- R225. -/
def Reg.MRE_SATURATIONS : Nat := 0xb00030
def Reg.MRE_SATURATIONS_COUNT : Fld := ⟨Reg.MRE_SATURATIONS, 0, 32⟩
/-- R225. -/
def Reg.MRE_GEN_ERRORS : Nat := 0xb00034
def Reg.MRE_GEN_ERRORS_CLIP_UNDERRUNS : Fld := ⟨Reg.MRE_GEN_ERRORS, 0, 16⟩
def Reg.MRE_GEN_ERRORS_TAP_LOST : Fld := ⟨Reg.MRE_GEN_ERRORS, 16, 16⟩
/-- R225. -/
def Reg.MRE_MEM_ERRORS : Nat := 0xb00038
def Reg.MRE_MEM_ERRORS_CORRECTED : Fld := ⟨Reg.MRE_MEM_ERRORS, 0, 16⟩
def Reg.MRE_MEM_ERRORS_UNCORRECTED : Fld := ⟨Reg.MRE_MEM_ERRORS, 16, 16⟩
/-- R225. -/
def Reg.MRE_FAULTED_NODES : Nat := 0xb0003c
def Reg.MRE_FAULTED_NODES_COUNT : Fld := ⟨Reg.MRE_FAULTED_NODES, 0, 18⟩
/-- R225. -/
def Reg.MRE_DELAY_ZEROED : Nat := 0xb00040
def Reg.MRE_DELAY_ZEROED_COUNT : Fld := ⟨Reg.MRE_DELAY_ZEROED, 0, 32⟩
/-- R247. -/
def Reg.GD_CTRL : Nat := 0xb08000
def Reg.GD_CTRL_AFFINITY_EN : Fld := ⟨Reg.GD_CTRL, 0, 1⟩
/-- R247. -/
def Reg.GD_STATUS : Nat := 0xb08004
def Reg.GD_STATUS_SPILL : Fld := ⟨Reg.GD_STATUS, 0, 8⟩
def Reg.GD_STATUS_HOLDING : Fld := ⟨Reg.GD_STATUS, 8, 8⟩
def Reg.GD_STATUS_RELEASE_FULL : Fld := ⟨Reg.GD_STATUS, 16, 1⟩
/-- R247. -/
def Reg.GD_QDEPTH_01 : Nat := 0xb08008
def Reg.GD_QDEPTH_01_P0 : Fld := ⟨Reg.GD_QDEPTH_01, 0, 13⟩
def Reg.GD_QDEPTH_01_P1 : Fld := ⟨Reg.GD_QDEPTH_01, 16, 13⟩
/-- R247. -/
def Reg.GD_QDEPTH_23 : Nat := 0xb0800c
def Reg.GD_QDEPTH_23_P2 : Fld := ⟨Reg.GD_QDEPTH_23, 0, 13⟩
def Reg.GD_QDEPTH_23_P3 : Fld := ⟨Reg.GD_QDEPTH_23, 16, 13⟩
/-- R247. -/
def Reg.GD_QDEPTH_45 : Nat := 0xb08010
def Reg.GD_QDEPTH_45_P4 : Fld := ⟨Reg.GD_QDEPTH_45, 0, 13⟩
def Reg.GD_QDEPTH_45_P5 : Fld := ⟨Reg.GD_QDEPTH_45, 16, 13⟩
/-- R247. -/
def Reg.GD_QDEPTH_67 : Nat := 0xb08014
def Reg.GD_QDEPTH_67_P6 : Fld := ⟨Reg.GD_QDEPTH_67, 0, 13⟩
def Reg.GD_QDEPTH_67_P7 : Fld := ⟨Reg.GD_QDEPTH_67, 16, 13⟩
/-- R247. -/
def Reg.GD_RELEASE_USED : Nat := 0xb08018
def Reg.GD_RELEASE_USED_USED : Fld := ⟨Reg.GD_RELEASE_USED, 0, 14⟩
def Reg.GD_RELEASE_USED_HIGH : Fld := ⟨Reg.GD_RELEASE_USED, 16, 14⟩
/-- R247. -/
def Reg.GD_TIMER_STATUS : Nat := 0xb0801c
def Reg.GD_TIMER_STATUS_USED : Fld := ⟨Reg.GD_TIMER_STATUS, 0, 17⟩
def Reg.GD_TIMER_STATUS_EXHAUSTED : Fld := ⟨Reg.GD_TIMER_STATUS, 17, 1⟩
/-- R247. -/
def Reg.GD_TIMER_LATE : Nat := 0xb08020
def Reg.GD_TIMER_LATE_COUNT : Fld := ⟨Reg.GD_TIMER_LATE, 0, 32⟩
/-- R247. -/
def Reg.GD_HOLDS : Nat := 0xb08024
def Reg.GD_HOLDS_NOTICE_HOLDS : Fld := ⟨Reg.GD_HOLDS, 0, 16⟩
def Reg.GD_HOLDS_SPILLS : Fld := ⟨Reg.GD_HOLDS, 16, 16⟩
/-- R247. -/
def Reg.GD_AFFINITY : Nat := 0xb08028
def Reg.GD_AFFINITY_HITS : Fld := ⟨Reg.GD_AFFINITY, 0, 16⟩
def Reg.GD_AFFINITY_MISSES : Fld := ⟨Reg.GD_AFFINITY, 16, 16⟩
/-- R247. -/
def Reg.GD_OBS_CTRL : Nat := 0xb0802c
def Reg.GD_OBS_CTRL_EN : Fld := ⟨Reg.GD_OBS_CTRL, 0, 1⟩
def Reg.GD_OBS_CTRL_W : Fld := ⟨Reg.GD_OBS_CTRL, 1, 4⟩
/-- R247. -/
def Reg.GD_OBS_STATUS : Nat := 0xb08030
def Reg.GD_OBS_STATUS_VALID : Fld := ⟨Reg.GD_OBS_STATUS, 0, 1⟩
/-- R247. -/
def Reg.GD_OBS_START_LO : Nat := 0xb08034
def Reg.GD_OBS_START_LO_MF : Fld := ⟨Reg.GD_OBS_START_LO, 0, 32⟩
/-- R247. -/
def Reg.GD_OBS_START_HI : Nat := 0xb08038
def Reg.GD_OBS_START_HI_MF : Fld := ⟨Reg.GD_OBS_START_HI, 0, 16⟩
/-- R271. -/
def Reg.SV_CTRL : Nat := 0xc00000
def Reg.SV_CTRL_EN : Fld := ⟨Reg.SV_CTRL, 0, 1⟩
def Reg.SV_CTRL_LEARN_EN : Fld := ⟨Reg.SV_CTRL, 1, 1⟩
/-- R271. -/
def Reg.SV_STATUS : Nat := 0xc00004
def Reg.SV_STATUS_AUDIT_ACTIVE : Fld := ⟨Reg.SV_STATUS, 0, 1⟩
def Reg.SV_STATUS_AUDIT_PART : Fld := ⟨Reg.SV_STATUS, 1, 2⟩
def Reg.SV_STATUS_SATIN_MODE : Fld := ⟨Reg.SV_STATUS, 3, 1⟩
def Reg.SV_STATUS_EVENT_BACKLOG : Fld := ⟨Reg.SV_STATUS, 4, 1⟩
/-- R271. -/
def Reg.SV_EVENT_CTRL : Nat := 0xc00008
def Reg.SV_EVENT_CTRL_CQ : Fld := ⟨Reg.SV_EVENT_CTRL, 0, 14⟩
def Reg.SV_EVENT_CTRL_EN : Fld := ⟨Reg.SV_EVENT_CTRL, 31, 1⟩
/-- R271. -/
def Reg.SV_QUIET : Nat := 0xc0000c
def Reg.SV_QUIET_LEVEL : Fld := ⟨Reg.SV_QUIET, 0, 8⟩
def Reg.SV_QUIET_HOLD : Fld := ⟨Reg.SV_QUIET, 8, 16⟩
/-- R271. -/
def Reg.SV_PILOT : Nat := 0xc00010
def Reg.SV_PILOT_LEVEL : Fld := ⟨Reg.SV_PILOT, 0, 7⟩
def Reg.SV_PILOT_PERIOD : Fld := ⟨Reg.SV_PILOT, 8, 8⟩
/-- R271. -/
def Reg.SV_NLMS : Nat := 0xc00014
def Reg.SV_NLMS_MU_SHIFT : Fld := ⟨Reg.SV_NLMS, 0, 4⟩
def Reg.SV_NLMS_CONVERGE : Fld := ⟨Reg.SV_NLMS, 8, 8⟩
/-- R271. -/
def Reg.SV_LINES : Nat := 0xc00018
def Reg.SV_LINES_BOUND : Fld := ⟨Reg.SV_LINES, 0, 17⟩
/-- R271. -/
def Reg.SV_FAULTED : Nat := 0xc0001c
def Reg.SV_FAULTED_COUNT : Fld := ⟨Reg.SV_FAULTED, 0, 17⟩
/-- R271. -/
def Reg.SV_SENSE_MISSING : Nat := 0xc00020
def Reg.SV_SENSE_MISSING_COUNT : Fld := ⟨Reg.SV_SENSE_MISSING, 0, 32⟩
/-- R271. -/
def Reg.SV_PILOT_CLIPS : Nat := 0xc00024
def Reg.SV_PILOT_CLIPS_COUNT : Fld := ⟨Reg.SV_PILOT_CLIPS, 0, 32⟩
/-- R271. -/
def Reg.SV_EVENTS_MERGED : Nat := 0xc00028
def Reg.SV_EVENTS_MERGED_COUNT : Fld := ⟨Reg.SV_EVENTS_MERGED, 0, 32⟩
/-- R271. -/
def Reg.SV_AUDIT_MF_LO : Nat := 0xc0002c
def Reg.SV_AUDIT_MF_LO_MF : Fld := ⟨Reg.SV_AUDIT_MF_LO, 0, 32⟩
/-- R271. -/
def Reg.SV_AUDIT_MF_HI : Nat := 0xc00030
def Reg.SV_AUDIT_MF_HI_MF : Fld := ⟨Reg.SV_AUDIT_MF_HI, 0, 16⟩
/-- R315. -/
def Reg.PU_CTRL : Nat := 0xd00000
def Reg.PU_CTRL_EN : Fld := ⟨Reg.PU_CTRL, 0, 1⟩
def Reg.PU_CTRL_AUTO_RESYNC : Fld := ⟨Reg.PU_CTRL, 1, 1⟩
def Reg.PU_CTRL_WIDTH : Fld := ⟨Reg.PU_CTRL, 2, 2⟩
/-- R315. -/
def Reg.PU_CFG : Nat := 0xd00004
def Reg.PU_CFG_QUAD : Fld := ⟨Reg.PU_CFG, 0, 6⟩
def Reg.PU_CFG_CLK_SRC : Fld := ⟨Reg.PU_CFG, 7, 1⟩
def Reg.PU_CFG_RANK : Fld := ⟨Reg.PU_CFG, 8, 3⟩
def Reg.PU_CFG_SIDE : Fld := ⟨Reg.PU_CFG, 11, 1⟩
def Reg.PU_CFG_DIVERGE_LIMIT : Fld := ⟨Reg.PU_CFG, 16, 8⟩
/-- R315. -/
def Reg.PU_STATUS : Nat := 0xd00008
def Reg.PU_STATUS_ROLE : Fld := ⟨Reg.PU_STATUS, 0, 2⟩
def Reg.PU_STATUS_PSTATE : Fld := ⟨Reg.PU_STATUS, 2, 3⟩
def Reg.PU_STATUS_MIODEL_UP : Fld := ⟨Reg.PU_STATUS, 5, 1⟩
def Reg.PU_STATUS_ORDERED_UP : Fld := ⟨Reg.PU_STATUS, 6, 1⟩
def Reg.PU_STATUS_MASTER : Fld := ⟨Reg.PU_STATUS, 7, 1⟩
def Reg.PU_STATUS_TIME_SRC : Fld := ⟨Reg.PU_STATUS, 8, 2⟩
def Reg.PU_STATUS_SPLIT : Fld := ⟨Reg.PU_STATUS, 10, 1⟩
def Reg.PU_STATUS_PEER_RSQ_FAILED : Fld := ⟨Reg.PU_STATUS, 11, 1⟩
def Reg.PU_STATUS_ALIGN_LOST : Fld := ⟨Reg.PU_STATUS, 12, 1⟩
def Reg.PU_STATUS_MIRROR_WRITE : Fld := ⟨Reg.PU_STATUS, 13, 1⟩
/-- R315. -/
def Reg.PU_EVENT_CTRL : Nat := 0xd0000c
def Reg.PU_EVENT_CTRL_CQ : Fld := ⟨Reg.PU_EVENT_CTRL, 0, 14⟩
def Reg.PU_EVENT_CTRL_EN : Fld := ⟨Reg.PU_EVENT_CTRL, 31, 1⟩
/-- R315. -/
def Reg.PU_TERM : Nat := 0xd00010
def Reg.PU_TERM_TERM : Fld := ⟨Reg.PU_TERM, 0, 32⟩
/-- R315. -/
def Reg.PU_PEER_OFFSET : Nat := 0xd00014
def Reg.PU_PEER_OFFSET_OFFSET : Fld := ⟨Reg.PU_PEER_OFFSET, 0, 16⟩
def Reg.PU_PEER_OFFSET_MAX : Fld := ⟨Reg.PU_PEER_OFFSET, 16, 16⟩
/-- R315. -/
def Reg.PU_MIODEL_DELAY : Nat := 0xd00018
def Reg.PU_MIODEL_DELAY_DELAY : Fld := ⟨Reg.PU_MIODEL_DELAY, 0, 12⟩
/-- R315. -/
def Reg.PU_RECON_FETCHED : Nat := 0xd0001c
def Reg.PU_RECON_FETCHED_COUNT : Fld := ⟨Reg.PU_RECON_FETCHED, 0, 32⟩
/-- R315. -/
def Reg.PU_RECON_SHORT : Nat := 0xd00020
def Reg.PU_RECON_SHORT_SHORT : Fld := ⟨Reg.PU_RECON_SHORT, 0, 16⟩
def Reg.PU_RECON_SHORT_BOTH : Fld := ⟨Reg.PU_RECON_SHORT, 16, 16⟩
/-- R315. -/
def Reg.PU_DIVERGE_COUNT : Nat := 0xd00024
def Reg.PU_DIVERGE_COUNT_COUNT : Fld := ⟨Reg.PU_DIVERGE_COUNT, 0, 32⟩
/-- R315. -/
def Reg.PU_DIVERGE_MF_LO : Nat := 0xd00028
def Reg.PU_DIVERGE_MF_LO_MF : Fld := ⟨Reg.PU_DIVERGE_MF_LO, 0, 32⟩
/-- R315. -/
def Reg.PU_DIVERGE_MF_HI : Nat := 0xd0002c
def Reg.PU_DIVERGE_MF_HI_MF : Fld := ⟨Reg.PU_DIVERGE_MF_HI, 0, 16⟩
def Reg.PU_DIVERGE_MF_HI_DIGEST : Fld := ⟨Reg.PU_DIVERGE_MF_HI, 16, 8⟩
/-- R315. -/
def Reg.PU_JOIN_STATUS : Nat := 0xd00030
def Reg.PU_JOIN_STATUS_PHASE : Fld := ⟨Reg.PU_JOIN_STATUS, 0, 3⟩
def Reg.PU_JOIN_STATUS_PROGRESS : Fld := ⟨Reg.PU_JOIN_STATUS, 8, 7⟩
def Reg.PU_JOIN_STATUS_FAIL : Fld := ⟨Reg.PU_JOIN_STATUS, 16, 8⟩
/-- R315. -/
def Reg.PU_TAKEOVERS : Nat := 0xd00034
def Reg.PU_TAKEOVERS_TAKEOVERS : Fld := ⟨Reg.PU_TAKEOVERS, 0, 16⟩
def Reg.PU_TAKEOVERS_HANDOVERS : Fld := ⟨Reg.PU_TAKEOVERS, 16, 16⟩
/-- R315. -/
def Reg.PU_MIODEL_ERRORS : Nat := 0xd00038
def Reg.PU_MIODEL_ERRORS_RETRANSMITS : Fld := ⟨Reg.PU_MIODEL_ERRORS, 0, 16⟩
def Reg.PU_MIODEL_ERRORS_TIMED_LOST : Fld := ⟨Reg.PU_MIODEL_ERRORS, 16, 16⟩
/-- R315. -/
def Reg.PU_CASCADE_STATUS : Nat := 0xd0003c
def Reg.PU_CASCADE_STATUS_MASTER_RANK : Fld := ⟨Reg.PU_CASCADE_STATUS, 0, 3⟩
def Reg.PU_CASCADE_STATUS_CASCADE_TIME : Fld := ⟨Reg.PU_CASCADE_STATUS, 3, 1⟩
/-- R478. -/
def Reg.RSQ_CTRL : Nat := 0xe00000
def Reg.RSQ_CTRL_RESTART : Fld := ⟨Reg.RSQ_CTRL, 0, 1⟩
/-- R478. -/
def Reg.RSQ_STATUS : Nat := 0xe00004
def Reg.RSQ_STATUS_RUNNING : Fld := ⟨Reg.RSQ_STATUS, 0, 1⟩
def Reg.RSQ_STATUS_BOOT_SLOT : Fld := ⟨Reg.RSQ_STATUS, 1, 1⟩
def Reg.RSQ_STATUS_FALLBACK : Fld := ⟨Reg.RSQ_STATUS, 2, 1⟩
def Reg.RSQ_STATUS_NO_IMAGE : Fld := ⟨Reg.RSQ_STATUS, 3, 1⟩
def Reg.RSQ_STATUS_RSQ_FAILED : Fld := ⟨Reg.RSQ_STATUS, 4, 1⟩
def Reg.RSQ_STATUS_COUNTED : Fld := ⟨Reg.RSQ_STATUS, 5, 2⟩
/-- R478. -/
def Reg.RSQ_FW_VER : Nat := 0xe00008
def Reg.RSQ_FW_VER_VER : Fld := ⟨Reg.RSQ_FW_VER, 0, 32⟩
/-- R478. -/
def Reg.RSQ_WDT : Nat := 0xe0000c
def Reg.RSQ_WDT_PERIOD : Fld := ⟨Reg.RSQ_WDT, 0, 14⟩
def Reg.RSQ_WDT_EXPIRIES : Fld := ⟨Reg.RSQ_WDT, 16, 16⟩
/-- R478. -/
def Reg.RSQ_STRAPS : Nat := 0xe00010
def Reg.RSQ_STRAPS_PAIR_ROLE : Fld := ⟨Reg.RSQ_STRAPS, 0, 1⟩
def Reg.RSQ_STRAPS_RANK : Fld := ⟨Reg.RSQ_STRAPS, 1, 3⟩
def Reg.RSQ_STRAPS_I2C_ADDR : Fld := ⟨Reg.RSQ_STRAPS, 4, 3⟩
def Reg.RSQ_STRAPS_RANK_OVR : Fld := ⟨Reg.RSQ_STRAPS, 7, 1⟩
def Reg.RSQ_STRAPS_I2C_OVR : Fld := ⟨Reg.RSQ_STRAPS, 8, 1⟩
/-- R478. -/
def Reg.RSQ_FLASH_ADDR : Nat := 0xe00014
def Reg.RSQ_FLASH_ADDR_ADDR : Fld := ⟨Reg.RSQ_FLASH_ADDR, 0, 24⟩
/-- R478. -/
def Reg.RSQ_FLASH_CMD : Nat := 0xe00018
def Reg.RSQ_FLASH_CMD_OP : Fld := ⟨Reg.RSQ_FLASH_CMD, 0, 2⟩
/-- R478. -/
def Reg.RSQ_FLASH_STATUS : Nat := 0xe0001c
def Reg.RSQ_FLASH_STATUS_BUSY : Fld := ⟨Reg.RSQ_FLASH_STATUS, 0, 1⟩
def Reg.RSQ_FLASH_STATUS_DONE : Fld := ⟨Reg.RSQ_FLASH_STATUS, 1, 1⟩
def Reg.RSQ_FLASH_STATUS_STATUS : Fld := ⟨Reg.RSQ_FLASH_STATUS, 8, 8⟩
/-- R97. -/
def Reg.LX_LANE_CTRL (n : Nat) : Nat := Reg.laneBase n + 0x0
def Reg.LX_LANE_CTRL_EN (n : Nat) : Fld := ⟨Reg.LX_LANE_CTRL n, 0, 1⟩
def Reg.LX_LANE_CTRL_TX_INVERT (n : Nat) : Fld := ⟨Reg.LX_LANE_CTRL n, 1, 1⟩
def Reg.LX_LANE_CTRL_TRAIN_START (n : Nat) : Fld := ⟨Reg.LX_LANE_CTRL n, 2, 1⟩
def Reg.LX_LANE_CTRL_RETRAIN_REQ (n : Nat) : Fld := ⟨Reg.LX_LANE_CTRL n, 3, 1⟩
def Reg.LX_LANE_CTRL_MODE (n : Nat) : Fld := ⟨Reg.LX_LANE_CTRL n, 4, 2⟩
/-- R97. -/
def Reg.LX_LANE_STATUS (n : Nat) : Nat := Reg.laneBase n + 0x4
def Reg.LX_LANE_STATUS_STATE (n : Nat) : Fld := ⟨Reg.LX_LANE_STATUS n, 0, 3⟩
def Reg.LX_LANE_STATUS_RX_INVERTED (n : Nat) : Fld := ⟨Reg.LX_LANE_STATUS n, 3, 1⟩
def Reg.LX_LANE_STATUS_ADAPT_FROZEN (n : Nat) : Fld := ⟨Reg.LX_LANE_STATUS n, 4, 1⟩
def Reg.LX_LANE_STATUS_GRADE (n : Nat) : Fld := ⟨Reg.LX_LANE_STATUS n, 5, 3⟩
def Reg.LX_LANE_STATUS_GRADE_CHANGED (n : Nat) : Fld := ⟨Reg.LX_LANE_STATUS n, 8, 1⟩
def Reg.LX_LANE_STATUS_PEER_LANE (n : Nat) : Fld := ⟨Reg.LX_LANE_STATUS n, 9, 2⟩
def Reg.LX_LANE_STATUS_PEER_PORT (n : Nat) : Fld := ⟨Reg.LX_LANE_STATUS n, 16, 8⟩
/-- R97. -/
def Reg.LX_TX_TAPS (n : Nat) : Nat := Reg.laneBase n + 0x8
def Reg.LX_TX_TAPS_PRE (n : Nat) : Fld := ⟨Reg.LX_TX_TAPS n, 0, 4⟩
def Reg.LX_TX_TAPS_MAIN (n : Nat) : Fld := ⟨Reg.LX_TX_TAPS n, 8, 7⟩
def Reg.LX_TX_TAPS_POST (n : Nat) : Fld := ⟨Reg.LX_TX_TAPS n, 16, 5⟩
def Reg.LX_TX_TAPS_OVR (n : Nat) : Fld := ⟨Reg.LX_TX_TAPS n, 31, 1⟩
/-- R97. -/
def Reg.LX_TRAIN_CFG (n : Nat) : Nat := Reg.laneBase n + 0xc
def Reg.LX_TRAIN_CFG_MAX_TRIES (n : Nat) : Fld := ⟨Reg.LX_TRAIN_CFG n, 0, 2⟩
def Reg.LX_TRAIN_CFG_START_PRESET (n : Nat) : Fld := ⟨Reg.LX_TRAIN_CFG n, 2, 1⟩
/-- R97. -/
def Reg.LX_MARGIN_THR (n : Nat) : Nat := Reg.laneBase n + 0x10
def Reg.LX_MARGIN_THR_H (n : Nat) : Fld := ⟨Reg.LX_MARGIN_THR n, 0, 7⟩
def Reg.LX_MARGIN_THR_V (n : Nat) : Fld := ⟨Reg.LX_MARGIN_THR n, 8, 5⟩
/-- R97. -/
def Reg.LX_MARGIN (n : Nat) : Nat := Reg.laneBase n + 0x14
def Reg.LX_MARGIN_H_LEFT (n : Nat) : Fld := ⟨Reg.LX_MARGIN n, 0, 7⟩
def Reg.LX_MARGIN_H_RIGHT (n : Nat) : Fld := ⟨Reg.LX_MARGIN n, 8, 7⟩
def Reg.LX_MARGIN_V_UP (n : Nat) : Fld := ⟨Reg.LX_MARGIN n, 16, 5⟩
def Reg.LX_MARGIN_V_DOWN (n : Nat) : Fld := ⟨Reg.LX_MARGIN n, 24, 5⟩
/-- R97. -/
def Reg.LX_EYE_CTRL (n : Nat) : Nat := Reg.laneBase n + 0x18
def Reg.LX_EYE_CTRL_SW_OWN (n : Nat) : Fld := ⟨Reg.LX_EYE_CTRL n, 0, 1⟩
def Reg.LX_EYE_CTRL_START (n : Nat) : Fld := ⟨Reg.LX_EYE_CTRL n, 1, 1⟩
def Reg.LX_EYE_CTRL_DWELL (n : Nat) : Fld := ⟨Reg.LX_EYE_CTRL n, 2, 2⟩
def Reg.LX_EYE_CTRL_HOFF (n : Nat) : Fld := ⟨Reg.LX_EYE_CTRL n, 4, 8⟩
def Reg.LX_EYE_CTRL_VOFF (n : Nat) : Fld := ⟨Reg.LX_EYE_CTRL n, 12, 6⟩
/-- R97. -/
def Reg.LX_EYE_STATUS (n : Nat) : Nat := Reg.laneBase n + 0x1c
def Reg.LX_EYE_STATUS_BUSY (n : Nat) : Fld := ⟨Reg.LX_EYE_STATUS n, 0, 1⟩
def Reg.LX_EYE_STATUS_DONE (n : Nat) : Fld := ⟨Reg.LX_EYE_STATUS n, 1, 1⟩
def Reg.LX_EYE_STATUS_HW_ACTIVE (n : Nat) : Fld := ⟨Reg.LX_EYE_STATUS n, 2, 1⟩
def Reg.LX_EYE_STATUS_SKIPPED (n : Nat) : Fld := ⟨Reg.LX_EYE_STATUS n, 16, 16⟩
/-- R97. -/
def Reg.LX_EYE_COUNT (n : Nat) : Nat := Reg.laneBase n + 0x20
def Reg.LX_EYE_COUNT_COUNT (n : Nat) : Fld := ⟨Reg.LX_EYE_COUNT n, 0, 32⟩
/-- R97. -/
def Reg.LX_PRBS_CTRL (n : Nat) : Nat := Reg.laneBase n + 0x24
def Reg.LX_PRBS_CTRL_GEN_EN (n : Nat) : Fld := ⟨Reg.LX_PRBS_CTRL n, 0, 1⟩
def Reg.LX_PRBS_CTRL_CHK_EN (n : Nat) : Fld := ⟨Reg.LX_PRBS_CTRL n, 1, 1⟩
def Reg.LX_PRBS_CTRL_POLY (n : Nat) : Fld := ⟨Reg.LX_PRBS_CTRL n, 2, 1⟩
def Reg.LX_PRBS_CTRL_INJ_SINGLE (n : Nat) : Fld := ⟨Reg.LX_PRBS_CTRL n, 3, 1⟩
def Reg.LX_PRBS_CTRL_INJ_BURST (n : Nat) : Fld := ⟨Reg.LX_PRBS_CTRL n, 4, 1⟩
def Reg.LX_PRBS_CTRL_BURST_LEN (n : Nat) : Fld := ⟨Reg.LX_PRBS_CTRL n, 5, 6⟩
/-- R97. -/
def Reg.LX_PRBS_STATUS (n : Nat) : Nat := Reg.laneBase n + 0x28
def Reg.LX_PRBS_STATUS_LOCKED (n : Nat) : Fld := ⟨Reg.LX_PRBS_STATUS n, 0, 1⟩
def Reg.LX_PRBS_STATUS_LOST (n : Nat) : Fld := ⟨Reg.LX_PRBS_STATUS n, 1, 1⟩
/-- R97. -/
def Reg.LX_PRBS_ERRORS (n : Nat) : Nat := Reg.laneBase n + 0x2c
def Reg.LX_PRBS_ERRORS_COUNT (n : Nat) : Fld := ⟨Reg.LX_PRBS_ERRORS n, 0, 32⟩
/-- R97. -/
def Reg.LX_BIP_ERRORS (n : Nat) : Nat := Reg.laneBase n + 0x30
def Reg.LX_BIP_ERRORS_COUNT (n : Nat) : Fld := ⟨Reg.LX_BIP_ERRORS n, 0, 32⟩
/-- R97. -/
def Reg.LX_RETRAIN_COUNT (n : Nat) : Nat := Reg.laneBase n + 0x34
def Reg.LX_RETRAIN_COUNT_RETRAINS (n : Nat) : Fld := ⟨Reg.LX_RETRAIN_COUNT n, 0, 16⟩
def Reg.LX_RETRAIN_COUNT_FAILS (n : Nat) : Fld := ⟨Reg.LX_RETRAIN_COUNT n, 16, 16⟩
/-- R97. -/
def Reg.LX_IDLE_FREEZES (n : Nat) : Nat := Reg.laneBase n + 0x38
def Reg.LX_IDLE_FREEZES_COUNT (n : Nat) : Fld := ⟨Reg.LX_IDLE_FREEZES n, 0, 32⟩
/-- R97. -/
def Reg.LX_DELIN_ERRORS (n : Nat) : Nat := Reg.laneBase n + 0x3c
def Reg.LX_DELIN_ERRORS_COUNT (n : Nat) : Fld := ⟨Reg.LX_DELIN_ERRORS n, 0, 32⟩
/-- R97. -/
def Reg.LX_QUAD_CFG (n : Nat) : Nat := Reg.quadBase n + 0x0
def Reg.LX_QUAD_CFG_WIDTH (n : Nat) : Fld := ⟨Reg.LX_QUAD_CFG n, 0, 2⟩
/-- R97. -/
def Reg.LX_QUAD_STATUS (n : Nat) : Nat := Reg.quadBase n + 0x4
def Reg.LX_QUAD_STATUS_SKEW (n : Nat) : Fld := ⟨Reg.LX_QUAD_STATUS n, 0, 7⟩
def Reg.LX_QUAD_STATUS_ALIGN_FAIL (n : Nat) : Fld := ⟨Reg.LX_QUAD_STATUS n, 7, 1⟩
def Reg.LX_QUAD_STATUS_CFG_REFUSED (n : Nat) : Fld := ⟨Reg.LX_QUAD_STATUS n, 8, 1⟩
/-- R127. -/
def Reg.TM_PORT_CTRL (n : Nat) : Nat := Reg.portBase n + 0x0
def Reg.TM_PORT_CTRL_POWER (n : Nat) : Fld := ⟨Reg.TM_PORT_CTRL n, 0, 1⟩
def Reg.TM_PORT_CTRL_PRESENCE (n : Nat) : Fld := ⟨Reg.TM_PORT_CTRL n, 1, 1⟩
def Reg.TM_PORT_CTRL_ROLE (n : Nat) : Fld := ⟨Reg.TM_PORT_CTRL n, 2, 1⟩
def Reg.TM_PORT_CTRL_CONNECT (n : Nat) : Fld := ⟨Reg.TM_PORT_CTRL n, 3, 1⟩
def Reg.TM_PORT_CTRL_AUTO_RECOVER (n : Nat) : Fld := ⟨Reg.TM_PORT_CTRL n, 4, 1⟩
/-- R127. -/
def Reg.TM_PORT_STATUS (n : Nat) : Nat := Reg.portBase n + 0x4
def Reg.TM_PORT_STATUS_STATE (n : Nat) : Fld := ⟨Reg.TM_PORT_STATUS n, 0, 3⟩
def Reg.TM_PORT_STATUS_SPEED (n : Nat) : Fld := ⟨Reg.TM_PORT_STATUS n, 3, 3⟩
def Reg.TM_PORT_STATUS_CHANGE (n : Nat) : Fld := ⟨Reg.TM_PORT_STATUS n, 6, 1⟩
def Reg.TM_PORT_STATUS_REMOTE_WAKE_SEEN (n : Nat) : Fld := ⟨Reg.TM_PORT_STATUS n, 7, 1⟩
def Reg.TM_PORT_STATUS_REASON (n : Nat) : Fld := ⟨Reg.TM_PORT_STATUS n, 8, 4⟩
/-- R127. -/
def Reg.TM_PORT_RTT (n : Nat) : Nat := Reg.portBase n + 0x8
def Reg.TM_PORT_RTT_RTT (n : Nat) : Fld := ⟨Reg.TM_PORT_RTT n, 0, 12⟩
def Reg.TM_PORT_RTT_TIERS (n : Nat) : Fld := ⟨Reg.TM_PORT_RTT n, 12, 3⟩
/-- R127. -/
def Reg.TM_PORT_ERRORS (n : Nat) : Nat := Reg.portBase n + 0xc
def Reg.TM_PORT_ERRORS_EARLY_WAKES (n : Nat) : Fld := ⟨Reg.TM_PORT_ERRORS n, 0, 16⟩
def Reg.TM_PORT_ERRORS_LINK_LOSTS (n : Nat) : Fld := ⟨Reg.TM_PORT_ERRORS n, 16, 16⟩
/-- R157. -/
def Reg.TS_TRUNK_CFG (n : Nat) : Nat := Reg.trunkBase n + 0x0
def Reg.TS_TRUNK_CFG_MIRROR (n : Nat) : Fld := ⟨Reg.TS_TRUNK_CFG n, 0, 8⟩
def Reg.TS_TRUNK_CFG_MIRROR_EN (n : Nat) : Fld := ⟨Reg.TS_TRUNK_CFG n, 8, 1⟩
def Reg.TS_TRUNK_CFG_PATH (n : Nat) : Fld := ⟨Reg.TS_TRUNK_CFG n, 9, 1⟩
/-- R157. -/
def Reg.TS_TRUNK_STATUS (n : Nat) : Nat := Reg.trunkBase n + 0x4
def Reg.TS_TRUNK_STATUS_LAST_COUNT (n : Nat) : Fld := ⟨Reg.TS_TRUNK_STATUS n, 0, 13⟩
def Reg.TS_TRUNK_STATUS_MIRROR_REFUSED (n : Nat) : Fld := ⟨Reg.TS_TRUNK_STATUS n, 13, 1⟩
/-- R157. -/
def Reg.TS_LOAD_DOWN (n : Nat) : Nat := Reg.trunkBase n + 0x8
def Reg.TS_LOAD_DOWN_PEAK (n : Nat) : Fld := ⟨Reg.TS_LOAD_DOWN n, 0, 20⟩
def Reg.TS_LOAD_DOWN_AT (n : Nat) : Fld := ⟨Reg.TS_LOAD_DOWN n, 20, 8⟩
/-- R157. -/
def Reg.TS_LOAD_UP (n : Nat) : Nat := Reg.trunkBase n + 0xc
def Reg.TS_LOAD_UP_PEAK (n : Nat) : Fld := ⟨Reg.TS_LOAD_UP n, 0, 20⟩
def Reg.TS_LOAD_UP_AT (n : Nat) : Fld := ⟨Reg.TS_LOAD_UP n, 20, 8⟩
/-- R157. -/
def Reg.TS_LOAD_RESP (n : Nat) : Nat := Reg.trunkBase n + 0x10
def Reg.TS_LOAD_RESP_PEAK (n : Nat) : Fld := ⟨Reg.TS_LOAD_RESP n, 0, 12⟩
def Reg.TS_LOAD_RESP_AT (n : Nat) : Fld := ⟨Reg.TS_LOAD_RESP n, 20, 8⟩
/-- R157. -/
def Reg.TS_LOAD_COUNT (n : Nat) : Nat := Reg.trunkBase n + 0x14
def Reg.TS_LOAD_COUNT_PEAK (n : Nat) : Fld := ⟨Reg.TS_LOAD_COUNT n, 0, 13⟩
def Reg.TS_LOAD_COUNT_AT (n : Nat) : Fld := ⟨Reg.TS_LOAD_COUNT n, 20, 8⟩
/-- R157. -/
def Reg.TS_DEFERRED (n : Nat) : Nat := Reg.trunkBase n + 0x18
def Reg.TS_DEFERRED_PERIODIC (n : Nat) : Fld := ⟨Reg.TS_DEFERRED n, 0, 16⟩
def Reg.TS_DEFERRED_NONPERIODIC (n : Nat) : Fld := ⟨Reg.TS_DEFERRED n, 16, 16⟩
/-- R157. -/
def Reg.TS_DROPPED (n : Nat) : Nat := Reg.trunkBase n + 0x1c
def Reg.TS_DROPPED_COUNT (n : Nat) : Fld := ⟨Reg.TS_DROPPED n, 0, 32⟩
/-- R157. -/
def Reg.TS_LATE_INPUT (n : Nat) : Nat := Reg.trunkBase n + 0x20
def Reg.TS_LATE_INPUT_COUNT (n : Nat) : Fld := ⟨Reg.TS_LATE_INPUT n, 0, 32⟩
/-- R157. -/
def Reg.TS_RESP_ERRORS (n : Nat) : Nat := Reg.trunkBase n + 0x24
def Reg.TS_RESP_ERRORS_UNMATCHED (n : Nat) : Fld := ⟨Reg.TS_RESP_ERRORS n, 0, 16⟩
def Reg.TS_RESP_ERRORS_OVERSIZE (n : Nat) : Fld := ⟨Reg.TS_RESP_ERRORS n, 16, 16⟩
/-- R157. -/
def Reg.TS_MC_SENT (n : Nat) : Nat := Reg.trunkBase n + 0x28
def Reg.TS_MC_SENT_COUNT (n : Nat) : Fld := ⟨Reg.TS_MC_SENT n, 0, 32⟩
/-- R157. -/
def Reg.TS_PERIODIC_SENT (n : Nat) : Nat := Reg.trunkBase n + 0x2c
def Reg.TS_PERIODIC_SENT_COUNT (n : Nat) : Fld := ⟨Reg.TS_PERIODIC_SENT n, 0, 32⟩
/-- R157. -/
def Reg.TS_NP_BYTES (n : Nat) : Nat := Reg.trunkBase n + 0x30
def Reg.TS_NP_BYTES_COUNT (n : Nat) : Fld := ⟨Reg.TS_NP_BYTES n, 0, 32⟩
/-- R157. -/
def Reg.TS_WALK_OVERRUN (n : Nat) : Nat := Reg.trunkBase n + 0x34
def Reg.TS_WALK_OVERRUN_COUNT (n : Nat) : Fld := ⟨Reg.TS_WALK_OVERRUN n, 0, 32⟩
/-- R157. -/
def Reg.TS_RETRAIN_HOLDS (n : Nat) : Nat := Reg.trunkBase n + 0x38
def Reg.TS_RETRAIN_HOLDS_COUNT (n : Nat) : Fld := ⟨Reg.TS_RETRAIN_HOLDS n, 0, 32⟩
/-- R157. -/
def Reg.TS_SPLIT_NAKS (n : Nat) : Nat := Reg.trunkBase n + 0x3c
def Reg.TS_SPLIT_NAKS_NAKS (n : Nat) : Fld := ⟨Reg.TS_SPLIT_NAKS n, 0, 16⟩
def Reg.TS_SPLIT_NAKS_NO_ANSWER (n : Nat) : Fld := ⟨Reg.TS_SPLIT_NAKS n, 16, 16⟩
/-- R392. -/
def Reg.BM_ENG_STATUS (n : Nat) : Nat := Reg.engineBase n + 0x0
def Reg.BM_ENG_STATUS_CURRENT (n : Nat) : Fld := ⟨Reg.BM_ENG_STATUS n, 0, 6⟩
def Reg.BM_ENG_STATUS_ACTIVE (n : Nat) : Fld := ⟨Reg.BM_ENG_STATUS n, 6, 1⟩
def Reg.BM_ENG_STATUS_RESTARTING (n : Nat) : Fld := ⟨Reg.BM_ENG_STATUS n, 7, 1⟩
def Reg.BM_ENG_STATUS_OUTSTANDING (n : Nat) : Fld := ⟨Reg.BM_ENG_STATUS n, 16, 10⟩
/-- R392. -/
def Reg.BM_FAULT_INFO (n : Nat) : Nat := Reg.engineBase n + 0x4
def Reg.BM_FAULT_INFO_CHANNEL (n : Nat) : Fld := ⟨Reg.BM_FAULT_INFO n, 0, 6⟩
def Reg.BM_FAULT_INFO_KIND (n : Nat) : Fld := ⟨Reg.BM_FAULT_INFO n, 6, 2⟩
def Reg.BM_FAULT_INFO_FUNCTION (n : Nat) : Fld := ⟨Reg.BM_FAULT_INFO n, 8, 11⟩
def Reg.BM_FAULT_INFO_PREFETCH (n : Nat) : Fld := ⟨Reg.BM_FAULT_INFO n, 19, 1⟩
def Reg.BM_FAULT_INFO_VALID (n : Nat) : Fld := ⟨Reg.BM_FAULT_INFO n, 31, 1⟩
/-- R392. -/
def Reg.BM_FAULT_ADDR_LO (n : Nat) : Nat := Reg.engineBase n + 0x8
def Reg.BM_FAULT_ADDR_LO_ADDR (n : Nat) : Fld := ⟨Reg.BM_FAULT_ADDR_LO n, 0, 32⟩
/-- R392. -/
def Reg.BM_FAULT_ADDR_HI (n : Nat) : Nat := Reg.engineBase n + 0xc
def Reg.BM_FAULT_ADDR_HI_ADDR (n : Nat) : Fld := ⟨Reg.BM_FAULT_ADDR_HI n, 0, 32⟩
/-- R392. -/
def Reg.BM_FAULT_MF_LO (n : Nat) : Nat := Reg.engineBase n + 0x10
def Reg.BM_FAULT_MF_LO_MF (n : Nat) : Fld := ⟨Reg.BM_FAULT_MF_LO n, 0, 32⟩
/-- R392. -/
def Reg.BM_FAULT_MF_HI (n : Nat) : Nat := Reg.engineBase n + 0x14
def Reg.BM_FAULT_MF_HI_MF (n : Nat) : Fld := ⟨Reg.BM_FAULT_MF_HI n, 0, 16⟩
/-- R392. -/
def Reg.BM_READ_UNITS (n : Nat) : Nat := Reg.engineBase n + 0x18
def Reg.BM_READ_UNITS_COUNT (n : Nat) : Fld := ⟨Reg.BM_READ_UNITS n, 0, 32⟩
/-- R392. -/
def Reg.BM_WRITE_UNITS (n : Nat) : Nat := Reg.engineBase n + 0x1c
def Reg.BM_WRITE_UNITS_COUNT (n : Nat) : Fld := ⟨Reg.BM_WRITE_UNITS n, 0, 32⟩
/-- R392. -/
def Reg.BM_ERR (n : Nat) : Nat := Reg.engineBase n + 0x20
def Reg.BM_ERR_WINDOW (n : Nat) : Fld := ⟨Reg.BM_ERR n, 0, 16⟩
def Reg.BM_ERR_LOOP (n : Nat) : Fld := ⟨Reg.BM_ERR n, 16, 16⟩
/-- R392. -/
def Reg.BM_EVENTS (n : Nat) : Nat := Reg.engineBase n + 0x24
def Reg.BM_EVENTS_FAULTS (n : Nat) : Fld := ⟨Reg.BM_EVENTS n, 0, 16⟩
def Reg.BM_EVENTS_ABORTS (n : Nat) : Fld := ⟨Reg.BM_EVENTS n, 16, 16⟩
/-- R414. -/
def Reg.XB_WIN_CFG (n : Nat) : Nat := Reg.windowBase n + 0x0
def Reg.XB_WIN_CFG_DEVICE (n : Nat) : Fld := ⟨Reg.XB_WIN_CFG n, 0, 16⟩
def Reg.XB_WIN_CFG_EN (n : Nat) : Fld := ⟨Reg.XB_WIN_CFG n, 16, 1⟩
def Reg.XB_WIN_CFG_POSTED (n : Nat) : Fld := ⟨Reg.XB_WIN_CFG n, 17, 1⟩
def Reg.XB_WIN_CFG_ATOMIC (n : Nat) : Fld := ⟨Reg.XB_WIN_CFG n, 18, 1⟩
/-- R414. -/
def Reg.XB_WIN_BASE (n : Nat) : Nat := Reg.windowBase n + 0x4
def Reg.XB_WIN_BASE_BASE (n : Nat) : Fld := ⟨Reg.XB_WIN_BASE n, 0, 8⟩
/-- R414. -/
def Reg.XB_WIN_STATUS (n : Nat) : Nat := Reg.windowBase n + 0x8
def Reg.XB_WIN_STATUS_FAULTED (n : Nat) : Fld := ⟨Reg.XB_WIN_STATUS n, 0, 1⟩
def Reg.XB_WIN_STATUS_CFG_REFUSED (n : Nat) : Fld := ⟨Reg.XB_WIN_STATUS n, 1, 1⟩
def Reg.XB_WIN_STATUS_QUEUED (n : Nat) : Fld := ⟨Reg.XB_WIN_STATUS n, 2, 7⟩
/-- R414. -/
def Reg.XB_WIN_DROPS (n : Nat) : Nat := Reg.windowBase n + 0xc
def Reg.XB_WIN_DROPS_COUNT (n : Nat) : Fld := ⟨Reg.XB_WIN_DROPS n, 0, 32⟩
/-- R414. -/
def Reg.XB_VIEW_STATUS (n : Nat) : Nat := Reg.viewBase n + 0x0
def Reg.XB_VIEW_STATUS_FAULTED (n : Nat) : Fld := ⟨Reg.XB_VIEW_STATUS n, 0, 1⟩
def Reg.XB_VIEW_STATUS_QUEUED (n : Nat) : Fld := ⟨Reg.XB_VIEW_STATUS n, 2, 7⟩
/-- R414. -/
def Reg.XB_VIEW_DROPS (n : Nat) : Nat := Reg.viewBase n + 0x4
def Reg.XB_VIEW_DROPS_COUNT (n : Nat) : Fld := ⟨Reg.XB_VIEW_DROPS n, 0, 32⟩
/-- R371. -/
def Reg.QE_ADMIN_SQ_BASE_LO (n : Nat) : Nat := Reg.pageBase n + 0x0
def Reg.QE_ADMIN_SQ_BASE_LO_ADDR (n : Nat) : Fld := ⟨Reg.QE_ADMIN_SQ_BASE_LO n, 0, 32⟩
/-- R371. -/
def Reg.QE_ADMIN_SQ_BASE_HI (n : Nat) : Nat := Reg.pageBase n + 0x4
def Reg.QE_ADMIN_SQ_BASE_HI_ADDR (n : Nat) : Fld := ⟨Reg.QE_ADMIN_SQ_BASE_HI n, 0, 32⟩
/-- R371. -/
def Reg.QE_ADMIN_CQ_BASE_LO (n : Nat) : Nat := Reg.pageBase n + 0x8
def Reg.QE_ADMIN_CQ_BASE_LO_ADDR (n : Nat) : Fld := ⟨Reg.QE_ADMIN_CQ_BASE_LO n, 0, 32⟩
/-- R371. -/
def Reg.QE_ADMIN_CQ_BASE_HI (n : Nat) : Nat := Reg.pageBase n + 0xc
def Reg.QE_ADMIN_CQ_BASE_HI_ADDR (n : Nat) : Fld := ⟨Reg.QE_ADMIN_CQ_BASE_HI n, 0, 32⟩
/-- R371. -/
def Reg.QE_ADMIN_CFG (n : Nat) : Nat := Reg.pageBase n + 0x10
def Reg.QE_ADMIN_CFG_SQ_LOG2 (n : Nat) : Fld := ⟨Reg.QE_ADMIN_CFG n, 0, 5⟩
def Reg.QE_ADMIN_CFG_CQ_LOG2 (n : Nat) : Fld := ⟨Reg.QE_ADMIN_CFG n, 8, 5⟩
def Reg.QE_ADMIN_CFG_VECTOR (n : Nat) : Fld := ⟨Reg.QE_ADMIN_CFG n, 16, 11⟩
def Reg.QE_ADMIN_CFG_IEN (n : Nat) : Fld := ⟨Reg.QE_ADMIN_CFG n, 30, 1⟩
def Reg.QE_ADMIN_CFG_EN (n : Nat) : Fld := ⟨Reg.QE_ADMIN_CFG n, 31, 1⟩
/-- R371. -/
def Reg.QE_ADMIN_STATUS (n : Nat) : Nat := Reg.pageBase n + 0x14
def Reg.QE_ADMIN_STATUS_IDLE (n : Nat) : Fld := ⟨Reg.QE_ADMIN_STATUS n, 0, 1⟩
def Reg.QE_ADMIN_STATUS_OVERFLOW (n : Nat) : Fld := ⟨Reg.QE_ADMIN_STATUS n, 1, 1⟩
def Reg.QE_ADMIN_STATUS_CFG_REFUSED (n : Nat) : Fld := ⟨Reg.QE_ADMIN_STATUS n, 2, 1⟩
/-- R371. -/
def Reg.QE_ADMIN_POS (n : Nat) : Nat := Reg.pageBase n + 0x18
def Reg.QE_ADMIN_POS_SQ (n : Nat) : Fld := ⟨Reg.QE_ADMIN_POS n, 0, 16⟩
def Reg.QE_ADMIN_POS_CQ (n : Nat) : Fld := ⟨Reg.QE_ADMIN_POS n, 16, 16⟩
/-- R506. -/
def Reg.LNK_RX_CRC (n : Nat) : Nat := Reg.lnkBase n + 0x0
def Reg.LNK_RX_CRC_COUNT (n : Nat) : Fld := ⟨Reg.LNK_RX_CRC n, 0, 32⟩
/-- R506. -/
def Reg.LNK_PARITY (n : Nat) : Nat := Reg.lnkBase n + 0x4
def Reg.LNK_PARITY_TX (n : Nat) : Fld := ⟨Reg.LNK_PARITY n, 0, 16⟩
def Reg.LNK_PARITY_RX (n : Nat) : Fld := ⟨Reg.LNK_PARITY n, 16, 16⟩
/-- R433. -/
def Reg.HIF_VF_STATE (n : Nat) : Nat := Reg.vfstBase n + 0x0
def Reg.HIF_VF_STATE_FROZEN (n : Nat) : Fld := ⟨Reg.HIF_VF_STATE n, 0, 1⟩
def Reg.HIF_VF_STATE_SAVED (n : Nat) : Fld := ⟨Reg.HIF_VF_STATE n, 1, 1⟩
def Reg.HIF_VF_STATE_RESTORED (n : Nat) : Fld := ⟨Reg.HIF_VF_STATE n, 2, 1⟩
def Reg.HIF_VF_STATE_RESET_BUSY (n : Nat) : Fld := ⟨Reg.HIF_VF_STATE n, 3, 1⟩
def Reg.HIF_VF_STATE_GRANTED (n : Nat) : Fld := ⟨Reg.HIF_VF_STATE n, 4, 1⟩
def Reg.HIF_VF_STATE_SQUASHED (n : Nat) : Fld := ⟨Reg.HIF_VF_STATE n, 16, 16⟩
/-- R478. -/
def Reg.RSQ_FLASH_BUF (n : Nat) : Nat := Reg.fbufBase n + 0x0
def Reg.RSQ_FLASH_BUF_DATA (n : Nat) : Fld := ⟨Reg.RSQ_FLASH_BUF n, 0, 32⟩

/-- The GLB registers that come once. -/
def regSpecs_glb : List RegSpec := [
  ⟨0x0, 0x19207a1e, 0x0, 0x0, 0x0⟩,
  ⟨0x4, 0x101, 0x0, 0x0, 0x0⟩,
  ⟨0x8, 0x1, 0x0, 0x0, 0x0⟩,
  ⟨0xc, 0x0, 0x0, 0x0, 0x0⟩,
  ⟨0x40, 0x0, 0x0, 0xff07, 0x0⟩,
  ⟨0x44, 0x0, 0x0, 0x0, 0x0⟩,
  ⟨0x48, 0x0, 0x0, 0x0, 0x0⟩,
  ⟨0x4c, 0x0, 0x0, 0x0, 0x0⟩,
  ⟨0x50, 0x0, 0x0, 0x0, 0x0⟩,
  ⟨0x54, 0x0, 0x0, 0x0, 0x0⟩,
  ⟨0x58, 0x0, 0x0, 0x0, 0x0⟩,
  ⟨0x5c, 0x0, 0x0, 0x0, 0xffffffff⟩,
  ⟨0x60, 0x0, 0x0, 0x0, 0x0⟩,
  ⟨0x64, 0x0, 0x0, 0x0, 0x0⟩,
  ⟨0x68, 0x80000000, 0xc00007ff, 0x0, 0x0⟩,
  ⟨0x1e0, 0x0, 0xffff, 0x0, 0x0⟩,
  ⟨0x1e4, 0x0, 0xffff, 0x0, 0x0⟩,
  ⟨0x1e8, 0x0, 0x0, 0x0, 0x0⟩,
  ⟨0x1ec, 0x640000, 0xff0000, 0x2000000, 0x0⟩]
/-- The PMU registers that come once. -/
def regSpecs_pmu : List RegSpec := [
  ⟨0x100000, 0x0, 0x3, 0x0, 0x0⟩,
  ⟨0x100004, 0x0, 0x0, 0x0, 0x0⟩,
  ⟨0x100008, 0x0, 0x0, 0x6, 0x0⟩,
  ⟨0x10000c, 0xf8, 0x0, 0x0, 0x0⟩,
  ⟨0x100010, 0x0, 0x0, 0x0, 0x0⟩,
  ⟨0x100014, 0x0, 0x0, 0x2, 0xffff0000⟩,
  ⟨0x100018, 0x1f, 0x1f, 0x0, 0x0⟩,
  ⟨0x10001c, 0x0, 0x0, 0x0, 0xffff0000⟩,
  ⟨0x100020, 0x0, 0x0, 0x0, 0x0⟩,
  ⟨0x100024, 0x0, 0x0, 0x0, 0x0⟩,
  ⟨0x100028, 0x0, 0xffffffff, 0x0, 0x0⟩,
  ⟨0x10002c, 0x0, 0x0, 0x0, 0x0⟩,
  ⟨0x100030, 0x0, 0x0, 0x0, 0xffffffff⟩]
/-- The CKG registers that come once. -/
def regSpecs_ckg : List RegSpec := [
  ⟨0x200000, 0x0, 0x0, 0x0, 0x0⟩,
  ⟨0x200004, 0x0, 0xff01, 0x0, 0x0⟩,
  ⟨0x200008, 0x0, 0x0, 0x0, 0xffffffff⟩,
  ⟨0x20000c, 0x0, 0x0, 0x0, 0x0⟩,
  ⟨0x200010, 0x1, 0xffff0007, 0x0, 0x0⟩,
  ⟨0x208000, 0x0, 0x0, 0x0, 0x0⟩,
  ⟨0x208004, 0x0, 0x0, 0x0, 0x0⟩,
  ⟨0x208008, 0x0, 0x0, 0x0, 0x0⟩,
  ⟨0x20800c, 0x0, 0x0, 0x0, 0x0⟩,
  ⟨0x208010, 0x0, 0x0, 0x0, 0x0⟩]
/-- The HIF registers that come once. -/
def regSpecs_hif : List RegSpec := [
  ⟨0x300000, 0x1, 0x1, 0x0, 0x0⟩,
  ⟨0x300004, 0x0, 0x0, 0x18, 0x0⟩,
  ⟨0x300008, 0x0, 0x0, 0x0, 0xffff0000⟩,
  ⟨0x30000c, 0xa, 0xf, 0x0, 0x0⟩,
  ⟨0x300010, 0x20, 0xffff, 0x0, 0xffff0000⟩,
  ⟨0x300014, 0x0, 0x0, 0x0, 0x0⟩,
  ⟨0x300018, 0x0, 0x0, 0x0, 0x0⟩,
  ⟨0x30001c, 0x0, 0x0, 0x0, 0x0⟩,
  ⟨0x300020, 0x0, 0x0, 0x0, 0xffffffff⟩,
  ⟨0x300024, 0x0, 0x0, 0x0, 0xffffffff⟩]
/-- The QE registers that come once. -/
def regSpecs_qe : List RegSpec := [
  ⟨0x400000, 0x0, 0x1, 0x0, 0x0⟩,
  ⟨0x400004, 0x0, 0x0, 0x0, 0x0⟩,
  ⟨0x400008, 0x40004000, 0x0, 0x0, 0x0⟩,
  ⟨0x40000c, 0x0, 0x0, 0x0, 0x3fff0000⟩,
  ⟨0x400010, 0x0, 0x0, 0x0, 0xffffffff⟩,
  ⟨0x400014, 0x0, 0x0, 0x0, 0xffffffff⟩,
  ⟨0x400018, 0x0, 0x0, 0x0, 0xffffffff⟩]
/-- The BM registers that come once. -/
def regSpecs_bm : List RegSpec := [
  ⟨0x500000, 0x0, 0x1, 0x0, 0x0⟩,
  ⟨0x500004, 0x0, 0x0, 0x0, 0x0⟩,
  ⟨0x500008, 0x0, 0x0, 0x0, 0x0⟩]
/-- The XB registers that come once. -/
def regSpecs_xb : List RegSpec := [
  ⟨0x600000, 0x80000002, 0x87ff0003, 0x0, 0x0⟩,
  ⟨0x600004, 0x0, 0x0, 0x0, 0x0⟩,
  ⟨0x600008, 0x28, 0x3f, 0x0, 0x0⟩,
  ⟨0x60000c, 0x4003, 0xff07, 0x0, 0x0⟩,
  ⟨0x600010, 0x0, 0x0, 0x0, 0xffffffff⟩,
  ⟨0x600014, 0x0, 0x0, 0x0, 0xffffffff⟩,
  ⟨0x600018, 0x0, 0x0, 0x0, 0xffffffff⟩]
/-- The TS registers that come once. -/
def regSpecs_ts : List RegSpec := [
  ⟨0x700000, 0x2, 0x3, 0x0, 0x0⟩,
  ⟨0x700004, 0x0, 0x0, 0x0, 0x0⟩,
  ⟨0x700008, 0x0, 0x0, 0x0, 0x0⟩,
  ⟨0x70000c, 0x0, 0x0, 0x0, 0x0⟩,
  ⟨0x700010, 0xfffff, 0x0, 0x0, 0x0⟩,
  ⟨0x700014, 0x0, 0x0, 0x0, 0x0⟩,
  ⟨0x700018, 0x0, 0x0, 0x0, 0xffffffff⟩,
  ⟨0x708000, 0x2, 0x3, 0x0, 0x0⟩,
  ⟨0x708004, 0x0, 0x0, 0x0, 0x0⟩,
  ⟨0x708008, 0xf00000ff, 0xffffffff, 0x0, 0x0⟩,
  ⟨0x70800c, 0x140000, 0x0, 0x0, 0x0⟩,
  ⟨0x708010, 0x140000, 0x0, 0x0, 0x0⟩,
  ⟨0x708014, 0x1000, 0x1fffff, 0x0, 0x0⟩,
  ⟨0x708018, 0x1f40, 0xffff, 0x0, 0x0⟩,
  ⟨0x70801c, 0x0, 0x0, 0x0, 0xffffffff⟩,
  ⟨0x708020, 0x0, 0x0, 0x0, 0xffffffff⟩,
  ⟨0x708024, 0x0, 0x0, 0x0, 0xffffffff⟩,
  ⟨0x708028, 0x0, 0x0, 0x80000000, 0x0⟩]
/-- The TM registers that come once. -/
def regSpecs_tm : List RegSpec := [
  ⟨0x800000, 0x32, 0xffff0077, 0x0, 0x0⟩,
  ⟨0x800004, 0x0, 0x80003fff, 0x0, 0x0⟩,
  ⟨0x800008, 0xfffe0001, 0xffffffff, 0x0, 0x0⟩,
  ⟨0x80000c, 0x0, 0x0, 0x0, 0x0⟩,
  ⟨0x800010, 0x0, 0x0, 0x0, 0xffffffff⟩]
/-- The MRE registers that come once. Part 0. -/
def regSpecs_mreP0 : List RegSpec := [
  ⟨0xb00000, 0x0, 0x1, 0x0, 0x0⟩,
  ⟨0xb00004, 0x0, 0x0, 0x8, 0x0⟩,
  ⟨0xb00008, 0x0, 0x0, 0x0, 0x0⟩,
  ⟨0xb0000c, 0x0, 0x0, 0x0, 0x0⟩,
  ⟨0xb00010, 0x0, 0x0, 0x0, 0x0⟩,
  ⟨0xb00014, 0x0, 0x0, 0x0, 0x0⟩,
  ⟨0xb00018, 0x0, 0x3, 0x0, 0x0⟩,
  ⟨0xb0001c, 0x0, 0x0, 0x0, 0x0⟩,
  ⟨0xb00020, 0x0, 0x0, 0x0, 0x0⟩,
  ⟨0xb00024, 0x0, 0x0, 0x0, 0x0⟩,
  ⟨0xb00028, 0x0, 0x0, 0x0, 0xffffffff⟩,
  ⟨0xb0002c, 0x0, 0x0, 0x0, 0xffffffff⟩,
  ⟨0xb00030, 0x0, 0x0, 0x0, 0xffffffff⟩,
  ⟨0xb00034, 0x0, 0x0, 0x0, 0xffffffff⟩,
  ⟨0xb00038, 0x0, 0x0, 0x0, 0xffffffff⟩,
  ⟨0xb0003c, 0x0, 0x0, 0x0, 0x0⟩,
  ⟨0xb00040, 0x0, 0x0, 0x0, 0xffffffff⟩,
  ⟨0xb08000, 0x1, 0x1, 0x0, 0x0⟩,
  ⟨0xb08004, 0x0, 0x0, 0x0, 0x0⟩,
  ⟨0xb08008, 0x0, 0x0, 0x0, 0x0⟩]
/-- The MRE registers that come once. Part 1. -/
def regSpecs_mreP1 : List RegSpec := [
  ⟨0xb0800c, 0x0, 0x0, 0x0, 0x0⟩,
  ⟨0xb08010, 0x0, 0x0, 0x0, 0x0⟩,
  ⟨0xb08014, 0x0, 0x0, 0x0, 0x0⟩,
  ⟨0xb08018, 0x0, 0x0, 0x0, 0x3fff0000⟩,
  ⟨0xb0801c, 0x0, 0x0, 0x20000, 0x0⟩,
  ⟨0xb08020, 0x0, 0x0, 0x0, 0xffffffff⟩,
  ⟨0xb08024, 0x0, 0x0, 0x0, 0xffffffff⟩,
  ⟨0xb08028, 0x0, 0x0, 0x0, 0xffffffff⟩,
  ⟨0xb0802c, 0x0, 0x1f, 0x0, 0x0⟩,
  ⟨0xb08030, 0x0, 0x0, 0x0, 0x0⟩,
  ⟨0xb08034, 0x0, 0x0, 0x0, 0x0⟩,
  ⟨0xb08038, 0x0, 0x0, 0x0, 0x0⟩]
/-- The MRE registers that come once. -/
def regSpecs_mre : List RegSpec :=
  regSpecs_mreP0 ++ regSpecs_mreP1
/-- The SV registers that come once. -/
def regSpecs_sv : List RegSpec := [
  ⟨0xc00000, 0x2, 0x3, 0x0, 0x0⟩,
  ⟨0xc00004, 0x0, 0x0, 0x0, 0x0⟩,
  ⟨0xc00008, 0x0, 0x80003fff, 0x0, 0x0⟩,
  ⟨0xc0000c, 0x25864, 0xffffff, 0x0, 0x0⟩,
  ⟨0xc00010, 0x3c3c, 0xff7f, 0x0, 0x0⟩,
  ⟨0xc00014, 0x6406, 0xff0f, 0x0, 0x0⟩,
  ⟨0xc00018, 0x0, 0x0, 0x0, 0x0⟩,
  ⟨0xc0001c, 0x0, 0x0, 0x0, 0x0⟩,
  ⟨0xc00020, 0x0, 0x0, 0x0, 0xffffffff⟩,
  ⟨0xc00024, 0x0, 0x0, 0x0, 0xffffffff⟩,
  ⟨0xc00028, 0x0, 0x0, 0x0, 0xffffffff⟩,
  ⟨0xc0002c, 0x0, 0x0, 0x0, 0x0⟩,
  ⟨0xc00030, 0x0, 0x0, 0x0, 0x0⟩]
/-- The PU registers that come once. -/
def regSpecs_pu : List RegSpec := [
  ⟨0xd00000, 0x6, 0xf, 0x0, 0x0⟩,
  ⟨0xd00004, 0x8002e, 0xff00bf, 0x0, 0x0⟩,
  ⟨0xd00008, 0x0, 0x0, 0x3400, 0x0⟩,
  ⟨0xd0000c, 0x0, 0x80003fff, 0x0, 0x0⟩,
  ⟨0xd00010, 0x0, 0x0, 0x0, 0x0⟩,
  ⟨0xd00014, 0x0, 0x0, 0x0, 0xffff0000⟩,
  ⟨0xd00018, 0x0, 0x0, 0x0, 0x0⟩,
  ⟨0xd0001c, 0x0, 0x0, 0x0, 0xffffffff⟩,
  ⟨0xd00020, 0x0, 0x0, 0x0, 0xffffffff⟩,
  ⟨0xd00024, 0x0, 0x0, 0x0, 0xffffffff⟩,
  ⟨0xd00028, 0x0, 0x0, 0x0, 0x0⟩,
  ⟨0xd0002c, 0x0, 0x0, 0x0, 0x0⟩,
  ⟨0xd00030, 0x0, 0x0, 0x0, 0x0⟩,
  ⟨0xd00034, 0x0, 0x0, 0x0, 0xffffffff⟩,
  ⟨0xd00038, 0x0, 0x0, 0x0, 0xffffffff⟩,
  ⟨0xd0003c, 0x0, 0x0, 0x0, 0x0⟩]
/-- The RSQ registers that come once. -/
def regSpecs_rsq : List RegSpec := [
  ⟨0xe00000, 0x0, 0x0, 0x0, 0x0⟩,
  ⟨0xe00004, 0x0, 0x0, 0x0, 0x0⟩,
  ⟨0xe00008, 0x0, 0x0, 0x0, 0x0⟩,
  ⟨0xe0000c, 0x3e8, 0x0, 0x0, 0xffff0000⟩,
  ⟨0xe00010, 0x0, 0x0, 0x0, 0x0⟩,
  ⟨0xe00014, 0x0, 0xffffff, 0x0, 0x0⟩,
  ⟨0xe00018, 0x0, 0x0, 0x0, 0x0⟩,
  ⟨0xe0001c, 0x0, 0x0, 0x2, 0x0⟩]
/-- The registers of one lane, by offset from its base. -/
def regSpecs_lane : List RegSpec := [
  ⟨0x0, 0x0, 0x33, 0x0, 0x0⟩,
  ⟨0x4, 0x80, 0x0, 0x100, 0x0⟩,
  ⟨0x8, 0xc3004, 0x801f7f0f, 0x0, 0x0⟩,
  ⟨0xc, 0x3, 0x7, 0x0, 0x0⟩,
  ⟨0x10, 0x60c, 0x1f7f, 0x0, 0x0⟩,
  ⟨0x14, 0x0, 0x0, 0x0, 0x0⟩,
  ⟨0x18, 0x4, 0x3fffd, 0x0, 0x0⟩,
  ⟨0x1c, 0x0, 0x0, 0x2, 0xffff0000⟩,
  ⟨0x20, 0x0, 0x0, 0x0, 0x0⟩,
  ⟨0x24, 0x0, 0x7e7, 0x0, 0x0⟩,
  ⟨0x28, 0x0, 0x0, 0x2, 0x0⟩,
  ⟨0x2c, 0x0, 0x0, 0x0, 0xffffffff⟩,
  ⟨0x30, 0x0, 0x0, 0x0, 0xffffffff⟩,
  ⟨0x34, 0x0, 0x0, 0x0, 0xffffffff⟩,
  ⟨0x38, 0x0, 0x0, 0x0, 0xffffffff⟩,
  ⟨0x3c, 0x0, 0x0, 0x0, 0xffffffff⟩]
/-- The registers of one quad, by offset from its base. -/
def regSpecs_quad : List RegSpec := [
  ⟨0x0, 0x0, 0x3, 0x0, 0x0⟩,
  ⟨0x4, 0x0, 0x0, 0x180, 0x0⟩]
/-- The registers of one port, by offset from its base. -/
def regSpecs_port : List RegSpec := [
  ⟨0x0, 0x10, 0x1f, 0x0, 0x0⟩,
  ⟨0x4, 0x0, 0x0, 0xc0, 0x0⟩,
  ⟨0x8, 0x0, 0x0, 0x0, 0x0⟩,
  ⟨0xc, 0x0, 0x0, 0x0, 0xffffffff⟩]
/-- The registers of one trunk, by offset from its base. -/
def regSpecs_trunk : List RegSpec := [
  ⟨0x0, 0x0, 0x3ff, 0x0, 0x0⟩,
  ⟨0x4, 0x0, 0x0, 0x2000, 0x0⟩,
  ⟨0x8, 0x0, 0x0, 0x0, 0x0⟩,
  ⟨0xc, 0x0, 0x0, 0x0, 0x0⟩,
  ⟨0x10, 0x0, 0x0, 0x0, 0x0⟩,
  ⟨0x14, 0x0, 0x0, 0x0, 0x0⟩,
  ⟨0x18, 0x0, 0x0, 0x0, 0xffffffff⟩,
  ⟨0x1c, 0x0, 0x0, 0x0, 0xffffffff⟩,
  ⟨0x20, 0x0, 0x0, 0x0, 0xffffffff⟩,
  ⟨0x24, 0x0, 0x0, 0x0, 0xffffffff⟩,
  ⟨0x28, 0x0, 0x0, 0x0, 0xffffffff⟩,
  ⟨0x2c, 0x0, 0x0, 0x0, 0xffffffff⟩,
  ⟨0x30, 0x0, 0x0, 0x0, 0xffffffff⟩,
  ⟨0x34, 0x0, 0x0, 0x0, 0xffffffff⟩,
  ⟨0x38, 0x0, 0x0, 0x0, 0xffffffff⟩,
  ⟨0x3c, 0x0, 0x0, 0x0, 0xffffffff⟩]
/-- The registers of one engine, by offset from its base. -/
def regSpecs_engine : List RegSpec := [
  ⟨0x0, 0x0, 0x0, 0x0, 0x0⟩,
  ⟨0x4, 0x0, 0x0, 0x80000000, 0x0⟩,
  ⟨0x8, 0x0, 0x0, 0x0, 0x0⟩,
  ⟨0xc, 0x0, 0x0, 0x0, 0x0⟩,
  ⟨0x10, 0x0, 0x0, 0x0, 0x0⟩,
  ⟨0x14, 0x0, 0x0, 0x0, 0x0⟩,
  ⟨0x18, 0x0, 0x0, 0x0, 0xffffffff⟩,
  ⟨0x1c, 0x0, 0x0, 0x0, 0xffffffff⟩,
  ⟨0x20, 0x0, 0x0, 0x0, 0xffffffff⟩,
  ⟨0x24, 0x0, 0x0, 0x0, 0xffffffff⟩]
/-- The registers of one window, by offset from its base. -/
def regSpecs_window : List RegSpec := [
  ⟨0x0, 0x20000, 0x7ffff, 0x0, 0x0⟩,
  ⟨0x4, 0x0, 0xff, 0x0, 0x0⟩,
  ⟨0x8, 0x0, 0x0, 0x3, 0x0⟩,
  ⟨0xc, 0x0, 0x0, 0x0, 0xffffffff⟩]
/-- The registers of one view, by offset from its base. -/
def regSpecs_view : List RegSpec := [
  ⟨0x0, 0x0, 0x0, 0x1, 0x0⟩,
  ⟨0x4, 0x0, 0x0, 0x0, 0xffffffff⟩]
/-- The registers of one page, by offset from its base. -/
def regSpecs_page : List RegSpec := [
  ⟨0x0, 0x0, 0xffffffff, 0x0, 0x0⟩,
  ⟨0x4, 0x0, 0xffffffff, 0x0, 0x0⟩,
  ⟨0x8, 0x0, 0xffffffff, 0x0, 0x0⟩,
  ⟨0xc, 0x0, 0xffffffff, 0x0, 0x0⟩,
  ⟨0x10, 0x40000606, 0xc7ff1f1f, 0x0, 0x0⟩,
  ⟨0x14, 0x1, 0x0, 0x4, 0x0⟩,
  ⟨0x18, 0x0, 0x0, 0x0, 0x0⟩]
/-- The registers of one lnk, by offset from its base. -/
def regSpecs_lnk : List RegSpec := [
  ⟨0x0, 0x0, 0x0, 0x0, 0xffffffff⟩,
  ⟨0x4, 0x0, 0x0, 0x0, 0xffffffff⟩]
/-- The registers of one vfst, by offset from its base. -/
def regSpecs_vfst : List RegSpec := [
  ⟨0x0, 0x0, 0x0, 0x0, 0x0⟩]
/-- The registers of one fbuf, by offset from its base. -/
def regSpecs_fbuf : List RegSpec := [
  ⟨0x0, 0x0, 0xffffffff, 0x0, 0x0⟩]

/-- The register at an offset of a list. -/
def findSpec : List RegSpec → Nat → Option RegSpec
  | [], _ => none
  | r :: rs, o => if r.off = o then some r else findSpec rs o

/-- The register at `a` of a bank of `cnt` units, `stride` bytes apart from `base`. -/
def bankSpec (l : List RegSpec) (base stride cnt a : Nat) : Option RegSpec :=
  if base ≤ a ∧ a < base + stride * cnt then findSpec l ((a - base) % stride) else none

/-- The register that lies at byte address `a` of PF BAR0, `none` where the map has none (R499, R500). -/
def regSpec (a : Nat) : Option RegSpec :=
  match a / 0x100000 with
  | 0 => (findSpec regSpecs_glb a)
  | 1 => (findSpec regSpecs_pmu a)
  | 2 => (findSpec regSpecs_ckg a)
  | 3 => ((bankSpec regSpecs_vfst 0x301000 0x4 1024 a).or (findSpec regSpecs_hif a))
  | 4 => ((bankSpec regSpecs_page 0x410000 0x20 1025 a).or (findSpec regSpecs_qe a))
  | 5 => ((bankSpec regSpecs_engine 0x501000 0x40 16 a).or (findSpec regSpecs_bm a))
  | 6 => ((bankSpec regSpecs_window 0x601000 0x10 256 a).or ((bankSpec regSpecs_view 0x602000 0x8 4096 a).or (findSpec regSpecs_xb a)))
  | 7 => ((bankSpec regSpecs_trunk 0x701000 0x40 192 a).or (findSpec regSpecs_ts a))
  | 8 => ((bankSpec regSpecs_port 0x801000 0x10 192 a).or (findSpec regSpecs_tm a))
  | 9 => (bankSpec regSpecs_lnk 0x900000 0x1000 192 a)
  | 10 => ((bankSpec regSpecs_lane 0xa00000 0x1000 192 a).or (bankSpec regSpecs_quad 0xac0000 0x100 48 a))
  | 11 => (findSpec regSpecs_mre a)
  | 12 => (findSpec regSpecs_sv a)
  | 13 => (findSpec regSpecs_pu a)
  | 14 => ((bankSpec regSpecs_fbuf 0xe01000 0x4 64 a).or (findSpec regSpecs_rsq a))
  | _ => none

/-- The reset value of the register at `a` (R500); 0 where the map has none. -/
def regReset (a : Nat) : BitVec 32 :=
  match regSpec a with
  | some r => BitVec.ofNat 32 r.reset
  | none => 0

end Sys2Proof.Machine
end

