-- ==== Sys2Proof/Machine/State.lean ====
section
/-! DEFINITION. The state of the GX1920 as plain data, the reasons a command can stop, and the state right after a cold
reset (R26, R467, R500). The parts follow the spec's chapters; every visible register lies in `regs`, and the records
hold what the registers do not show. -/

namespace Sys2Proof.Machine

/-- Faults: no command of this block ends in one. What the spec leaves undefined is a free value. -/
inductive Fault
  deriving DecidableEq, Repr

/-- Refusals. -/
inductive Refusal
  /-- Raised by `exec` for a command that has no meaning yet (safe: the machine stops). -/
  | notModelled (mnemonic : String)
  deriving DecidableEq, Repr

/-- The timebase (R26, R27): tick counter, microframe number, ticks since the mark, whether it runs; whether the input
cut-off of the pass has closed (R14). -/
structure TimeSt where
  tick : BitVec 64
  mf : MfNum
  phase : Nat
  run : Bool
  cutOff : Bool
  /-- The device has sent a mark since its timebase last started (R26, R286, R458). -/
  marked : Bool
  deriving DecidableEq, Repr

/-- Lanes and trunks (R71 to R97). -/
structure LaneSt where
  lanes : Tbl LaneRec
  trunks : Tbl TrunkRec
  log : List LaneLog
  logSeq : Nat
  deriving DecidableEq, Repr

/-- Root ports, the topology manager and its tables (R98 to R127). Hub ports are keyed hub × 128 + port, group bitmaps
group × 2 + bank, hub group bitmaps (hub × 16384 + group) × 2 + bank. -/
structure TreeSt where
  ports : Tbl PortRec
  devs : Tbl (Option DevRec)
  hubPorts : Tbl (Option HubPort)
  routes : Tbl (List Route)
  rootGroups : Tbl Nat
  hubGroups : Tbl Nat
  groupBank : Nat
  hubBank : Tbl Nat
  enums : Tbl (Option EnumRec)
  todo : Tbl (List TmItem)
  waiting : List AttachPos
  held : List TopoEvent
  kept : List TopoEvent
  /-- Hub reports that wait for TM_CTRL.EN (R509), by hub address: the change bits. -/
  reports : Tbl Nat
  /-- Devices whose DETACHED is cleared, and whose event is written, at the next mark (R120): address and whether the
  event is REBOUND. -/
  restore : List (Nat × Bool)
  /-- First returns of hubs seen through the path-1 side (R273): serial number, position and tick. -/
  returned : List (Nat × AttachPos × Nat)
  /-- A SET_GROUP_PORTS of the staged changes has failed (R123). -/
  groupFail : Bool
  /-- Bindings of the last commit not yet applied, and their M (R123). -/
  binding : List (Nat × Nat)
  bindM : Nat
  /-- M of the commit for which SWITCH_GROUP_BANK has been sent (R123). -/
  groupSent : Nat
  /-- Addresses whose word of the serial table was lost: bound to no device, and never given out (R435). -/
  lostAddrs : List Nat
  deriving DecidableEq, Repr

/-- The frame scheduler (R128 to R157). Lists are keyed (((t × 511) + 2^k − 1 + p) × 2 + bank) × 2 + (1 for the out
list); `copied` names the nodes whose shadow list is a copy of its own. Credits are keyed t × 2048 + function. -/
structure SchedSt where
  lists : Tbl (List PEnt)
  copied : List Nat
  staged : Tbl (Option SchedRec)
  active : Tbl (Option SchedRec)
  /-- The schedule before the last commit that has taken effect. -/
  prior : Tbl (Option SchedRec)
  walks : Tbl WalkRec
  log : List StageRec
  sealed_ : List StageRec
  held : List (EntryRef × Sqe)
  commit : Option Commit
  shares : Tbl Share
  newShares : List (Nat × Share × Nat)
  credits : Tbl Int
  lastFn : Tbl Nat
  /-- Starts counted in TS_RETRAIN_HOLDS in the slot that runs: trunk × 2^40 + transfer. -/
  retrainHeld : List Nat
  /-- Pool entries that damaged lists held when they were discarded (R435). -/
  lostEntries : Nat
  /-- Damaged lists (R435): trunk, k, p, bank × 2 + (1 for the out list), and the place of the first bad word. A list that both banks
  share stands under the active bank. -/
  damaged : List (Nat × Nat × Nat × Nat × Nat)
  /-- M of the last commit that has taken effect (R469). -/
  lastM : Nat
  deriving DecidableEq, Repr

/-- The endpoint buffer memory (R158 to R183): its bytes, the allocated runs (first granule, size), the slots that the rebase frees (endpoint
or group, first granule, size), the slots that the schedule uses until its successor takes effect, where staging has allocated another one
(R164), group slots by group, and the transfers that wait for a slot. -/
structure EbmSt where
  mem : Tbl Byte
  runs : List (Nat × Nat)
  superseded : List (Nat × Nat × Nat)
  oldSlots : Tbl (Option (Nat × Nat))
  groupSlots : Tbl GroupSlot
  waits : List Nat
  poison : List Nat
  powered : Bool
  deriving DecidableEq, Repr

/-- Transactions and transfers of the bus (R44 to R65). Open transactions are keyed t × 8192 + MFP × 4096 + TAG; tags
in quarantine are keyed t × 4096 + TAG and hold the tick from which they are free. -/
structure BusSt where
  per : Tbl (Option PerTx)
  np : Tbl (Option NpTx)
  quarantine : Tbl (Option Nat)
  splits : Tbl (List PerTx)
  xfers : Tbl (Option Xfer)
  nextXfer : Nat
  /-- Endpoints that need CLEAR_STALL first (R301, R425). -/
  resync : List Nat
  deriving DecidableEq, Repr

/-- The queue engine (R344 to R371). Rings are keyed function × 2048 + local index; the admin SQ is index 0, the admin
CQ index 1. -/
structure QueueSt where
  sqs : Tbl (Option SqRec)
  cqs : Tbl (Option CqRec)
  cache : List CacheEnt
  started : List StartEnt
  lastAdmin : Nat
  lastGlob : Nat
  doorbells : List (Nat × Nat)
  /-- Ring state blocks to be written once their function may send a request (R320, R337). -/
  rsbs : List (Nat × Nat)
  deriving DecidableEq, Repr

/-- The block movers (R372 to R392): channels by number, engines by number, windows by function × 64 + INDEX. -/
structure MoverSt where
  chans : Tbl ChanRec
  engines : Tbl EngRec
  windows : Tbl (Option DmaWin)
  deriving DecidableEq, Repr

/-- The bridge (R393 to R414): views (PF window w at w, delegated window d of VF v at 256 + 4v + d), the late-fault log,
oldest first, and the host requests that have arrived. -/
structure BridgeSt where
  views : Tbl ViewRec
  log : List LateRec
  arrived : Nat
  deriving DecidableEq, Repr

/-- Functions (R316 to R343, R415 to R433). -/
structure FnSt where
  fns : Tbl FnRec
  vfs : Tbl VfRec
  grants : Tbl Grant
  vfEnable : Bool
  numVfs : Nat
  squash : List SquashRec
  /-- The PF is in reset (R336). -/
  pfReset : Bool
  /-- Tick at which the link left DL_Active (R335). -/
  lostAt : Option Nat
  /-- The link is in L2/L3 Ready (R320). -/
  l23 : Bool
  wakeN : Bool
  /-- Last tick with host activity (R319). -/
  hostAt : Nat
  /-- Tick of the error that GLB holds, and of GLB's last message (R439, R505). -/
  errAt : Option Nat
  errMsgAt : Option Nat
  deriving DecidableEq, Repr

/-- The mixing and routing engine (R184 to R225): active and staged image, patch list, pending swap, GRAPH_LOAD entries that
wait for it, node state by node, streams by node (newest first), generators, taps, FAULTED nodes, overruns by zone (count and last
microframe), clip feeds of a pair by generator, whether passes run, blocks of cascade endpoints by ((port × 2 + direction) × 8 + endpoint)
× 2 + half (R308), and the endpoints whose block is missing in a pass (R168). -/
structure MreSt where
  image : Option ImageFile
  staged : Option ImageFile
  patches : List ImageFile
  swap : Option Swap
  loads : List (EntryRef × Sqe)
  nodes : Tbl NodeSt
  streams : Tbl (List Stream)
  gens : Tbl GenSt
  taps : Tbl TapSt
  faulted : List Nat
  zoneOver : Tbl (Nat × Nat)
  feeds : Tbl (List ClipFeed)
  on : Bool
  casc : Tbl (Option (Nat × List Byte))
  missed : List (Nat × Nat)
  /-- M of the last swap that has taken effect (R469). -/
  lastM : Nat
  /-- By the M of each patch swap since the image took over, oldest first: the nodes as they were before it, for operations of earlier passes
  (R22). -/
  patched : List (Nat × List (Nat × Node))
  /-- Operations released at the fill deadline or later, before the overruns of their pass are settled (R18): pass and node. -/
  late : List (Nat × Nat)
  deriving DecidableEq, Repr

/-- The graph dispatcher (R226 to R247): ready queues (in order of entry), spilled operations, held notices, operations on the
GPEs, the next pass that each node has not run, nodes whose operation for it exists, last GPEs, unreleased operations by
flow, timers, the last pass whose decision time has come, the observing window in progress and the last complete one. -/
structure DispSt where
  queue : List OpRec
  spills : List (Nat × Nat)
  held : List (Nat × Notice)
  gpes : Tbl (Option RunRec)
  next : Tbl Nat
  busy : List Nat
  last : Tbl (Option Nat)
  flows : Tbl (List RelRec)
  timers : List TimerRec
  timerSeq : Nat
  decided : Nat
  obs : Option ObsWin
  obsLast : Option ObsWin
  /-- A window whose microframes have passed and that has not become the log page yet (R245). -/
  obsEnd : Option ObsWin
  /-- Microframe of the last tick of the lists at which a timer has fired, and how many have (R240). -/
  tick : Nat × Nat
  deriving DecidableEq, Repr

/-- The supervision unit (R248 to R271): lines by number, held events, the audit, and the IN endpoints that were missing at
the last eight decision times, newest first (R267). -/
structure SupSt where
  lines : Tbl LineRec
  held : List UnitEvent
  audit : Option Audit
  hist : List (List Nat)
  /-- Microframe of the refresh boundary at which the lines were last classified (R252). -/
  refreshed : Option Nat
  /-- An audit has stopped while a path ran alone: the hub, that path, and the mark from which both carry the subtree (R269). -/
  resting : Option (Nat × Nat × Nat)
  deriving DecidableEq, Repr

/-- The machine's state. `free` counts the free values used so far (a field of the model, not of the spec). `out` is
the model's own trace of what the device put out, newest first. -/
structure State where
  pending : List Instr
  time : TimeSt
  regs : Tbl Word
  lx : LaneSt
  tree : TreeSt
  ts : SchedSt
  ebm : EbmSt
  bus : BusSt
  qe : QueueSt
  bm : MoverSt
  xb : BridgeSt
  fn : FnSt
  mre : MreSt
  gd : DispSt
  sv : SupSt
  pu : PairSt
  pm : PowerSt
  ck : ClockSt
  free : Nat
  out : List Emit
  deriving DecidableEq, Repr

/-- The share of a function that has received none: WEIGHT 1, and a periodic cap of 0 for a VF (R416); the PF has no cap
(R145). -/
def Share.reset (f : Nat) : Share := if f = 0 then ⟨1, none⟩ else ⟨1, some 0⟩

/-- The machine right after a cold reset: every register at its reset value, nothing queued, attached, scheduled or
granted (R26, R179, R416, R500). -/
def State.reset : State where
  pending := []
  time := ⟨0, 0, 0, false, false, false⟩
  regs := []
  lx := ⟨[], [], [], 0⟩
  tree := ⟨[], [], [], [], [], [], 0, [], [], [], [], [], [], [], [], [], false, [], 0, 0, []⟩
  ts := ⟨[], [], [], [], [], [], [], [], [], none, [], [], [], [], [], 0, [], 0⟩
  ebm := ⟨[], [], [], [], [], [], [], true⟩
  bus := ⟨[], [], [], [], [], 1, []⟩
  qe := ⟨[], [], [], [], 0, 0, [], []⟩
  bm := ⟨[], [], []⟩
  xb := ⟨[], [], 0⟩
  fn := ⟨[], [], [], false, 0, [], false, none, false, false, 0, none, none⟩
  mre := ⟨none, none, [], none, [], [], [], [], [], [], [], [], false, [], [], 0, [], []⟩
  gd := ⟨[], [], [], [], [], [], [], [], [], 0, 0, none, none, none, (0, 0)⟩
  sv := ⟨[], [], none, [], none, none⟩
  pu := PairSt.zero
  pm := PowerSt.zero
  ck := ClockSt.zero
  free := 0
  out := []

end Sys2Proof.Machine
end

