-- ==== Sys2Proof/Machine/Ops.lean ====
section
/-! DEFINITION. The named operations that the commands share: reading and writing registers and their fields, counting,
the clock of the timebase, messages and error capture. -/

namespace Sys2Proof.Machine

/-- What a command's meaning answers: every command of the block goes on to a next state. -/
abbrev Out := Host.Outcome State Fault Refusal

/-! ## Bits -/

/-- Bits [lo, lo + n) of `w`. -/
def bits (w : Word) (lo n : Nat) : Nat := w.toNat / 2 ^ lo % 2 ^ n

/-- `w` with bits [lo, lo + n) replaced by `v` (modulo 2^n). -/
def putBits (w : Word) (lo n v : Nat) : Word :=
  BitVec.ofNat 32 (w.toNat % 2 ^ lo + (v % 2 ^ n) * 2 ^ lo + w.toNat / 2 ^ (lo + n) * 2 ^ (lo + n))

/-- 1 for true. -/
def b2n (b : Bool) : Nat := if b then 1 else 0

/-- Bit `i` of a number. -/
def nbit (v i : Nat) : Bool := v / 2 ^ i % 2 == 1

/-- A number with bit `i` set or cleared. -/
def setBit (v i : Nat) (b : Bool) : Nat :=
  if nbit v i = b then v else if b then v + 2 ^ i else v - 2 ^ i

/-- ⌈a / b⌉. -/
def ceilDiv (a b : Nat) : Nat := (a + b - 1) / b

/-! ## Registers -/

/-- The register at `a` (R500). -/
def State.reg (s : State) (a : Nat) : Word := Tbl.get regReset s.regs a

/-- Write the register at `a` whole. -/
def State.setReg (s : State) (a : Nat) (v : Word) : State :=
  { s with regs := Tbl.set regReset s.regs a v }

/-- A field's value. -/
def State.f (s : State) (x : Fld) : Nat := bits (s.reg x.addr) x.lo x.w

/-- A one-bit field. -/
def State.flag (s : State) (x : Fld) : Bool := s.f x == 1

/-- Set a field. -/
def State.setF (s : State) (x : Fld) (v : Nat) : State :=
  s.setReg x.addr (putBits (s.reg x.addr) x.lo x.w v)

/-- Set a one-bit field. -/
def State.setB (s : State) (x : Fld) (b : Bool) : State := s.setF x (b2n b)

/-- Add to a saturating counter. -/
def State.bump (s : State) (x : Fld) (n : Nat := 1) : State :=
  s.setF x (min (s.f x + n) (2 ^ x.w - 1))

/-- A high-water field takes the larger of its value and `v`. -/
def State.high (s : State) (x : Fld) (v : Nat) : State :=
  if s.f x < v then s.setF x v else s

/-- Do `f` when `c` holds; otherwise nothing changes. -/
def State.when (s : State) (c : Bool) (f : State → State) : State := if c then f s else s

/-- Put something out. -/
def State.emit (s : State) (e : Emit) : State := { s with out := e :: s.out }

/-! ## Time (R3, R26) -/

/-- The microframe number. -/
def State.mfN (s : State) : Nat := s.time.mf.toNat

/-- The tick counter. -/
def State.now (s : State) : Nat := s.time.tick.toNat

/-- Move the clock to phase `p` of the microframe, when it has not passed it. -/
def State.advanceTo (s : State) (p : Nat) : State :=
  if s.time.phase ≤ p then
    { s with time := { s.time with tick := s.time.tick + BitVec.ofNat 64 (p - s.time.phase), phase := p } }
  else s

/-- One tick of the TICK domain (R26). The last tick before a mark is kept until MICROFRAME_MARK passes it. -/
def State.tickOnce (s : State) : State :=
  if s.time.run ∧ s.time.phase + 1 < Config.mfTicks then
    { s with time := { s.time with tick := s.time.tick + 1, phase := s.time.phase + 1 } }
  else s

/-- The next free value's counter. -/
def State.fresh (s : State) : State := { s with free := s.free + 1 }

/-- One element of a list, chosen freely; `d` when the list is empty. -/
def State.choose (s : State) (l : List Nat) (d : Nat) : Nat :=
  l.getD (Config.freeChoice s.free % l.length) d

/-! ## Configurations (R29, R289, R442) -/

/-- Device states of PMU_STATUS.STATE (R442): 0 ACTIVE, 1 STEADY, 2 SATIN, 3 DORMANT. -/
def State.inSatin (s : State) : Bool := s.f Reg.PMU_STATUS_STATE == 2
def State.inDormant (s : State) : Bool := s.f Reg.PMU_STATUS_STATE == 3

/-- Role (R289): 0 SOLO, 1 HOLDER, 2 PARTNER. -/
def State.role (s : State) : Nat := s.f Reg.PU_STATUS_ROLE
def State.isPartner (s : State) : Bool := s.role == 2
def State.isHolder (s : State) : Bool := s.role == 1

/-- Pair state (R289): 0 UNPAIRED, 1 HELLO, 2 JOINING, 3 LOCKSTEP, 4 PEER_LOST, 5 RESYNC. -/
def State.pstate (s : State) : Nat := s.f Reg.PU_STATUS_PSTATE
def State.lockstep (s : State) : Bool := s.pstate == 3

/-- A warm reset has begun: no walker sends, and the logic of the blocks is in reset (R469). -/
def State.halted (s : State) : Bool := s.ck.warm && !s.ck.warmMark

/-- The device sends no packet on any trunk (R289, R304, R313): it has left its pair, or HELLO, JOINING or RESYNC is its state, the last from
the mark after a PARTNER's entry on. -/
def State.mute (s : State) : Bool :=
  s.pu.silent || s.pstate == 1 || s.pstate == 2 || (s.pstate == 5 && s.pu.resyncMf != some s.mfN)

/-! ## The ordered channel of a pair (R280) -/

/-- Change the pair unit. -/
def State.updPu (s : State) (g : PairSt → PairSt) : State := { s with pu := g s.pu }

def State.orderedUp (s : State) : Bool := s.flag Reg.PU_STATUS_ORDERED_UP

/-- Bytes of an ordered frame (R279): header, payload and CRC-32. -/
def orderedBytes (x : Nat × MioOut) : Nat :=
  12 + min 4096 (Config.mioPayload (match x.2 with | .copy .. => 0x91 | _ => 0x90) x.1).length

/-- A frame goes out behind the unacknowledged ones without more than 1 MiB of them (R280). -/
def mayGo (unacked : List (Nat × MioOut)) (x : Nat × MioOut) : Bool :=
  unacked.isEmpty || decide ((unacked.map orderedBytes).sum + orderedBytes x ≤ 2 ^ 20)

/-- Send an ordered frame: it is kept until it is acknowledged; behind 1 MiB that is not, it waits (R280). -/
def State.sendOrdered (s : State) (f : Nat → MioOut) : State :=
  if s.orderedUp then
    let n := s.pu.seq
    if s.pu.unsent.isEmpty && mayGo s.pu.unacked (n, f n) then
      let first := s.pu.unacked.isEmpty
      let s := s.updPu (fun p => { p with seq := (n + 1) % 2 ^ 32, unacked := p.unacked ++ [(n, f n)] })
      let s := if first then s.updPu (fun p => { p with progress := s.now }) else s
      s.emit (.mio (f n))
    else s.updPu (fun p => { p with seq := (n + 1) % 2 ^ 32, unsent := p.unsent ++ [(n, f n)] })
  else s

/-- The waiting ordered frames go out while the unacknowledged ones leave room (R280). -/
def State.sendUnsent (s : State) : Nat → State
  | 0 => s
  | k + 1 =>
    match s.pu.unsent with
    | x :: r =>
      if mayGo s.pu.unacked x then
        ((s.updPu (fun p => { p with unsent := r, unacked := p.unacked ++ [x] })).emit (.mio x.2)).sendUnsent k
      else s
    | [] => s

/-- What the HOLDER's topology manager changes in mirrored state goes to the PARTNER (R291). -/
def State.tell (s : State) (m : MirrorRec) : State := if s.isHolder then s.sendOrdered (fun n => .mirror n m) else s

/-- The first microframe whose mark comes at least `n` microframes after the present tick. -/
def State.markAfter (s : State) (n : Nat) : Nat := s.mfN + n + (if s.time.phase = 0 then 0 else 1)

/-- The first frame mark at or after microframe `m`. -/
def frameFrom (m : Nat) : Nat := (m + 7) / 8 * 8

/-- Rings and doorbells are served from OPERATIONAL on (R332, R333). -/
def State.operational (s : State) : Bool := s.flag Reg.HIF_STATUS_OPERATIONAL

/-- A DORMANT request waits for its entry point: nothing is fetched and nothing starts (R454). -/
def State.dormantPending (s : State) : Bool :=
  s.flag Reg.PMU_REQ_STATUS_BUSY && s.f Reg.PMU_REQ_STATUS_TARGET == 3 && s.pm.entryAt.isSome

/-- The host can be reached: the link has not left DL_Active, nor rests in L2/L3 Ready (R320, R334). -/
def State.hostHere (s : State) : Bool := s.fn.lostAt.isNone && !s.fn.l23

/-! ## Lists -/

/-- Replace the first element that satisfies `p`. -/
def replaceFirst {α : Type} (p : α → Bool) (f : α → α) : List α → List α
  | [] => []
  | a :: r => if p a then f a :: r else a :: replaceFirst p f r

/-- Remove the first element that satisfies `p`. -/
def removeFirst {α : Type} (p : α → Bool) : List α → List α
  | [] => []
  | a :: r => if p a then r else a :: removeFirst p r

/-- Insert in order: before the first element that `lt` puts after it. -/
def insertBy {α : Type} (lt : α → α → Bool) (x : α) : List α → List α
  | [] => [x]
  | a :: r => if lt x a then x :: a :: r else a :: insertBy lt x r

/-- The numbers from `a`, `n` of them. -/
def numbers (a : Nat) : Nat → List Nat
  | 0 => []
  | n + 1 => a :: numbers (a + 1) n

/-- Run `f` over a list of numbers. -/
def State.forAll (s : State) (l : List Nat) (f : State → Nat → State) : State := l.foldl f s

/-! ## Functions (R326, R337) -/

/-- The record of a function. -/
def State.fnRec (s : State) (f : Nat) : FnRec := Tbl.get (fun _ => FnRec.reset) s.fn.fns f

/-- Change the record of a function. -/
def State.updFn (s : State) (f : Nat) (g : FnRec → FnRec) : State :=
  { s with fn := { s.fn with fns := Tbl.upd (fun _ => FnRec.reset) s.fn.fns f g } }

/-- The record of a VF. -/
def State.vfRec (s : State) (v : Nat) : VfRec := Tbl.get (fun _ => VfRec.reset) s.fn.vfs v

/-- Change the record of a VF. -/
def State.updVf (s : State) (v : Nat) (g : VfRec → VfRec) : State :=
  { s with fn := { s.fn with vfs := Tbl.upd (fun _ => VfRec.reset) s.fn.vfs v g } }

/-- The grant of function `f`, a VF. -/
def State.grant (s : State) (f : Nat) : Grant := Tbl.get (fun _ => Grant.empty) s.fn.grants (f - 1)

/-- The function is a frozen VF (R427). -/
def State.frozen (s : State) (f : Nat) : Bool := decide (0 < f) && (s.vfRec (f - 1)).frozen

/-- The function is in reset (R423). -/
def State.inReset (s : State) (f : Nat) : Bool := if f = 0 then s.fn.pfReset else (s.vfRec (f - 1)).resetBusy

/-- The function is in D3hot (R337). -/
def State.d3hot (s : State) (f : Nat) : Bool := (s.fnRec f).d3hot

/-- A TLP goes to the host: the link is not idle (R319). -/
def State.sendHost (s : State) (e : Emit) : State := State.emit { s with fn := { s.fn with hostAt := s.now } } e

/-- The function may send requests: the link is there, and the function is neither in D3hot nor a frozen VF at rest (R320, R334, R337,
R427). -/
def State.mayRequest (s : State) (f : Nat) : Bool :=
  s.hostHere && !s.d3hot f && !(s.frozen f && (s.vfRec (f - 1)).freezing.isEmpty)

/-- Signal a vector of a function (R326): a masked vector, or one of a function that may send no request (R337), sets
its pending bit. One whose pending message was sent as its mask was cleared in this tick has been signalled. -/
def State.signal (s : State) (f v : Nat) : State :=
  let r := s.fnRec f
  if !s.mayRequest f || r.funcMask || !r.unmasked.contains v then
    if r.pending.contains v then s else s.updFn f (fun r => { r with pending := insertBy (· < ·) v r.pending })
  else if r.unmaskSent.contains (v, s.now) then s
  else s.sendHost (.msix f v)

/-- A PME, sent or suppressed, goes into HIF_WAKE_LOG: its reason, its function and the microframe (R339, R340). -/
def State.logPme (s : State) (f reason : Nat) (suppressed : Bool) : State :=
  let s := (s.setF Reg.HIF_WAKE_LOG_REASON reason).setF Reg.HIF_WAKE_LOG_FUNCTION f
  let s := s.setB Reg.HIF_WAKE_LOG_SUPPRESSED suppressed
  (s.setReg Reg.HIF_WAKE_MF_LO (BitVec.ofNat 32 s.mfN)).setReg Reg.HIF_WAKE_MF_HI (BitVec.ofNat 32 (s.mfN / 2 ^ 32))

/-- Send a PME for function `f` (R339): PME_Status is set, and PM_PME goes out. While the link rests in L2/L3 Ready or is down no message goes
out (R320), and the resend of R339 sends it. -/
def State.sendPme (s : State) (f reason : Nat) : State :=
  if (s.fnRec f).pmeEn then
    ((s.updFn f (fun r => { r with pmeStatus := true, pmeTick := some s.now, pmeReason := reason })).logPme f reason false).when s.hostHere
      (fun s => s.sendHost (.pme f))
  else s

/-- A PME condition that arises in the tick of the write that takes the function to D0 is recorded, and not signalled (R340): that tick stands
for the time from the write's receipt to its completion (DESIGN CHOICE, log entry 56). -/
def State.suppressPme (s : State) (f reason : Nat) : State :=
  if (s.fnRec f).pmeEn && (s.fnRec f).d0At == some s.now then s.logPme f reason true else s

/-! ## Views (R393, R400) -/

/-- Function that view `k` belongs to: PF window w is view w, delegated window d of VF v view 256 + 4v + d. -/
def viewFn (k : Nat) : Nat := if k < 256 then 0 else (k - 256) / 4 + 1

/-- FAULTED, QUEUED and the drop count of a view (R400, R414). -/
def faultedF (k : Nat) : Fld := if k < 256 then Reg.XB_WIN_STATUS_FAULTED k else Reg.XB_VIEW_STATUS_FAULTED (k - 256)
def queuedF (k : Nat) : Fld := if k < 256 then Reg.XB_WIN_STATUS_QUEUED k else Reg.XB_VIEW_STATUS_QUEUED (k - 256)
def dropsF (k : Nat) : Fld := if k < 256 then Reg.XB_WIN_DROPS_COUNT k else Reg.XB_VIEW_DROPS_COUNT (k - 256)

/-! ## Error capture (R502 to R505) -/

/-- Function field of a capture when no function applies. -/
def noFunction : Nat := 0x7FF

/-- GLB signals its vector (R505): two sets in the same cycle send one message. -/
def State.signalGlb (s : State) : State :=
  if s.fn.errMsgAt = some s.now then s
  else State.signal { s with fn := { s.fn with errMsgAt := some s.now } } 0 (s.f Reg.GLB_ERR_IRQ_VECTOR)

/-- GLB holds this error (R503). -/
def State.holdError (s : State) (block scope cause fn unit addr : Nat) : State :=
  let s := ((s.setF Reg.GLB_ERR_INFO_BLOCK block).setF Reg.GLB_ERR_INFO_SCOPE scope).setF Reg.GLB_ERR_INFO_CAUSE cause
  let s := (s.setF Reg.GLB_ERR_INFO_FUNCTION fn).setReg Reg.GLB_ERR_UNIT (BitVec.ofNat 32 unit)
  let s := (s.setReg Reg.GLB_ERR_ADDR_LO (BitVec.ofNat 32 addr)).setReg Reg.GLB_ERR_ADDR_HI (BitVec.ofNat 32 (addr / 2 ^ 32))
  (s.setReg Reg.GLB_ERR_MF_LO (BitVec.ofNat 32 s.mfN)).setReg Reg.GLB_ERR_MF_HI (BitVec.ofNat 32 (s.mfN / 2 ^ 32))

/-- An uncorrectable error is sent to GLB capture (R503, R505). Of two errors of the same tick GLB holds the one with the wider scope, then that
of the block with the lower base address (R439). -/
def State.captureError (s : State) (block scope cause fn unit addr : Nat) : State :=
  let s := s.bump Reg.GLB_ERR_COUNT_UNCORRECTABLE
  let s := s.setF Reg.GLB_ERR_SCOPE_SEEN (setBit (s.f Reg.GLB_ERR_SCOPE_SEEN) scope true)
  if s.flag Reg.GLB_ERR_UNCORRECTABLE then
    if s.fn.errAt = some s.now then
      s.when (decide (scope * 16 + block < s.f Reg.GLB_ERR_INFO_SCOPE * 16 + s.f Reg.GLB_ERR_INFO_BLOCK))
        (fun s => s.holdError block scope cause fn unit addr)
    else s.setB Reg.GLB_ERR_LOST true
  else
    let s := State.setB { s with fn := { s.fn with errAt := some s.now } } Reg.GLB_ERR_UNCORRECTABLE true
    (s.holdError block scope cause fn unit addr).when (s.flag Reg.GLB_ERR_IRQ_IEN) (fun s => s.signalGlb)

/-- A gated access (R504, R505). `path` is the code of GLB_GATED_INFO.PATH. -/
def State.gatedAccess (s : State) (off fn path : Nat) (write : Bool) : State :=
  let s := s.bump Reg.GLB_ERR_COUNT_GATED
  if s.flag Reg.GLB_ERR_GATED_ACCESS then s
  else
    let s := (s.setB Reg.GLB_ERR_GATED_ACCESS true).setReg Reg.GLB_GATED_ADDR (BitVec.ofNat 32 off)
    let s := ((s.setF Reg.GLB_GATED_INFO_FUNCTION fn).setF Reg.GLB_GATED_INFO_PATH path).setB Reg.GLB_GATED_INFO_WRITE write
    s.when (s.flag Reg.GLB_ERR_IRQ_GATED_IEN) (fun s => s.signalGlb)

/-- Errors of an AER capability (R330). -/
def Aer.poisoned : Nat := 3
def Aer.unsupported : Nat := 4
def Aer.completerAbort : Nat := 5
def Aer.timeout : Nat := 6
def Aer.internal : Nat := 7
def Aer.corrected : Nat := 8
def Aer.ecrc : Nat := 9

/-- An error in a function's AER capability (R330): its name is recorded once. -/
def State.aer (s : State) (f code : Nat) : State :=
  s.updFn f (fun r => if r.aer.contains code then r else { r with aer := insertBy (· < ·) code r.aer })

/-- A TLP of function `f` fails its ECRC: it is discarded and counted (R330, R331). -/
def State.ecrcFail (s : State) (f : Nat) : State := (s.bump Reg.HIF_ERR_COUNT_ECRC).aer f Aer.ecrc

/-- A TLP of function `f` arrives poisoned: it is discarded (R330). -/
def State.poisonedTlp (s : State) (f : Nat) : State := (s.aer f Aer.poisoned).bump Reg.HIF_ERR_COUNT_POISONED

/-! ## Gated accesses (R333, R337, R462, R504) -/

/-- Change the PMU. -/
def State.updPm (s : State) (g : PowerSt → PowerSt) : State := { s with pm := g s.pm }

/-- PMU registers that AON holds in DORMANT (R462). -/
def aonRegs : List Nat :=
  [Reg.PMU_POLICY, Reg.PMU_REQ, Reg.PMU_REQ_STATUS, Reg.PMU_STATUS, Reg.PMU_WAKE_EN, Reg.PMU_WAKE_LOG, Reg.PMU_ALARM]

/-- The register at `a` of PF BAR0 is served: from OPERATIONAL on every one, before it GLB and HIF, with NO_IMAGE also
those of RSQ (R473), in DORMANT what AON holds. -/
def State.regServed (s : State) (a : Nat) : Bool :=
  if s.inDormant then aonRegs.contains a
  else s.operational || a / 0x100000 == 0 || a / 0x100000 == 3 || (s.flag Reg.RSQ_STATUS_NO_IMAGE && a / 0x100000 == 14)

/-- A gated access is captured; while GLB itself is gated, AON keeps the first and counts them. -/
def State.gate (s : State) (a fn path : Nat) (write : Bool) : State :=
  if s.inDormant then
    s.updPm (fun p => { p with aonCount := p.aonCount + 1, aonGate := p.aonGate.or (some (a, fn, path, write)) })
  else s.gatedAccess a fn path write

/-- A write to a register of PF BAR0: before CONFIG_READY none comes (R332), with the PF in D3hot it is an Unsupported Request, a gated
one is ignored, and otherwise it is carried out. -/
def State.pfWrite (s : State) (a : Nat) (op : State → State) : State :=
  if !s.flag Reg.HIF_STATUS_CONFIG_READY then s
  else if s.d3hot 0 then s.aer 0 Aer.unsupported
  else if s.regServed a then op s
  else s.gate a 0 0 true

end Sys2Proof.Machine
end

