-- ==== Sys2Proof/Machine/Operands.lean ====
section
/-! DEFINITION. The operand forms: fields of submission entries (R345, R366, R367), little-endian values in byte strings,
CRC-32 and CRC-8 (R38, R81), and the fields of endpoint contexts in the endpoint buffer memory (R160). -/

namespace Sys2Proof.Machine

/-! ## Bytes -/

/-- A little-endian value. -/
def leNat : List Byte → Nat
  | [] => 0
  | b :: r => b.toNat + 256 * leNat r

/-- `n` bytes of a value, little-endian. -/
def leBytes : Nat → Nat → List Byte
  | 0, _ => []
  | n + 1, v => BitVec.ofNat 8 v :: leBytes n (v / 256)

/-- The value of `n` bytes from byte `i` on. -/
def field (b : List Byte) (i n : Nat) : Nat := leNat ((b.drop i).take n)

/-- Bytes as dwords. -/
def wordBytes (ws : List Word) : List Byte := ws.flatMap (fun w => leBytes 4 w.toNat)

/-- Zeros up to `n` bytes. -/
def padTo (n : Nat) (b : List Byte) : List Byte := b ++ List.replicate (n - b.length) 0

/-! ## CRC (R38, R81) -/

/-- One bit of the reflected CRC-32. -/
def crcBit (c : Nat) : Nat := if c % 2 = 1 then Nat.xor (c / 2) 0xEDB88320 else c / 2

/-- One byte of the reflected CRC-32. -/
def crcByte (c : Nat) (b : Byte) : Nat :=
  crcBit (crcBit (crcBit (crcBit (crcBit (crcBit (crcBit (crcBit (Nat.xor c b.toNat))))))))

/-- CRC-32 with the IEEE 802.3 parameters (R38). -/
def crc32 (b : List Byte) : Nat := Nat.xor (b.foldl crcByte 0xFFFFFFFF) 0xFFFFFFFF

/-- One bit of the CRC-8 with polynomial 0x07. -/
def crc8Bit (c : Nat) : Nat := if 128 ≤ c then Nat.xor (c * 2 % 256) 7 else c * 2

/-- CRC-8 of a training header (R81): initial value 0, not reflected. -/
def crc8 (b : List Byte) : Nat :=
  b.foldl (fun c x => crc8Bit (crc8Bit (crc8Bit (crc8Bit (crc8Bit (crc8Bit (crc8Bit (crc8Bit (Nat.xor c x.toNat))))))))) 0

/-! ## Submission entries (R345) -/

/-- Dword `n` of an entry. -/
def sqeDw (e : Sqe) (n : Nat) : Word := e.dw.toList.getD n 0

/-- Bits of dword `n`. -/
def sqeF (e : Sqe) (n lo w : Nat) : Nat := bits (sqeDw e n) lo w

/-- Dwords `n` and `n + 1` as a 64-bit value. -/
def sqe64 (e : Sqe) (n : Nat) : Nat := (sqeDw e n).toNat + 2 ^ 32 * (sqeDw e (n + 1)).toNat

/-- A microframe number in dwords `n` and `n + 1`. -/
def sqeMf (e : Sqe) (n : Nat) : Nat := sqe64 e n % 2 ^ 48

def sqeOpcode (e : Sqe) : Nat := sqeF e 0 8 8
def sqeCid (e : Sqe) : Nat := sqeF e 0 16 16

/-- The entry with its OPCODE replaced: the opcode that the command's row stands for. -/
def withOp (e : Sqe) (op : Nat) : Sqe :=
  ⟨e.dw.setIfInBounds 0 (putBits (sqeDw e 0) 8 8 op)⟩

/-- The target of an endpoint entry (R345): DEVICE × 16 + DIR × 8 + EP (R37). -/
def sqeHandle (e : Sqe) : Nat := sqeF e 1 0 16 * 16 + sqeF e 1 19 1 * 8 + sqeF e 1 16 3

/-- Dwords `i` and later, and the bits outside `masks`, are 0: the reserved fields of an entry (R345, R356). -/
def sqeReservedOk (e : Sqe) (masks : List Nat) : Bool :=
  (sqeF e 0 1 7 == 0) &&
  (List.range 15).all (fun i => (sqeDw e (i + 1)).toNat &&& (0xFFFFFFFF - masks.getD i 0) == 0)

/-! ## The endpoint buffer memory (R158 to R160) -/

/-- The byte at an EBM address; a byte nothing has written reads 0 (R179). -/
def State.ebmByte (s : State) (a : Nat) : Byte := Tbl.get (fun _ => 0) s.ebm.mem a

/-- Bytes of EBM. -/
def State.ebmRead (s : State) (a n : Nat) : List Byte := Tbl.readBytes 0 s.ebm.mem a n

/-- Write bytes of EBM. -/
def State.ebmWrite (s : State) (a : Nat) (b : List Byte) : State :=
  { s with ebm := { s.ebm with mem := Tbl.writeBytes 0 s.ebm.mem a b } }

/-- Dword `d` of the context of handle `h` (R159). -/
def State.ctx (s : State) (h d : Nat) : Word := BitVec.ofNat 32 (leNat (s.ebmRead (h * 32 + d * 4) 4))

/-- Write dword `d` of a context. -/
def State.setCtx (s : State) (h d : Nat) (v : Word) : State := s.ebmWrite (h * 32 + d * 4) (leBytes 4 v.toNat)

/-- A context field (R160): dword, lowest bit, bits. -/
structure CtxF where
  d : Nat
  lo : Nat
  w : Nat
  deriving DecidableEq, Repr

def State.cf (s : State) (h : Nat) (x : CtxF) : Nat := bits (s.ctx h x.d) x.lo x.w
def State.setCf (s : State) (h : Nat) (x : CtxF) (v : Nat) : State :=
  s.setCtx h x.d (putBits (s.ctx h x.d) x.lo x.w v)

def Cx.valid : CtxF := ⟨0, 0, 1⟩
def Cx.detached : CtxF := ⟨0, 1, 1⟩
def Cx.halted : CtxF := ⟨0, 2, 1⟩
def Cx.kind : CtxF := ⟨0, 3, 2⟩
def Cx.sense : CtxF := ⟨0, 5, 1⟩
def Cx.emerg : CtxF := ⟨0, 6, 1⟩
def Cx.twill : CtxF := ⟨0, 7, 1⟩
def Cx.classic : CtxF := ⟨0, 8, 1⟩
def Cx.payloadCrc : CtxF := ⟨0, 9, 1⟩
def Cx.scheduled : CtxF := ⟨0, 10, 1⟩
def Cx.maxPacket : CtxF := ⟨0, 12, 11⟩
def Cx.window : CtxF := ⟨0, 23, 4⟩
def Cx.function : CtxF := ⟨1, 0, 11⟩
def Cx.trunk0 : CtxF := ⟨1, 11, 8⟩
def Cx.trunk1 : CtxF := ⟨1, 19, 8⟩
def Cx.t1v : CtxF := ⟨1, 27, 1⟩
def Cx.rtt : CtxF := ⟨2, 0, 12⟩
def Cx.nakLimit : CtxF := ⟨2, 16, 16⟩
def Cx.group : CtxF := ⟨3, 0, 14⟩
def Cx.groupEn : CtxF := ⟨3, 14, 1⟩
def Cx.seq : CtxF := ⟨3, 0, 16⟩
def Cx.ackSeq : CtxF := ⟨3, 16, 16⟩
def Cx.slot : CtxF := ⟨4, 0, 21⟩
def Cx.granules : CtxF := ⟨4, 24, 8⟩
/-- MF, LEN, V and RD of half `i` of a periodic slot. -/
def Cx.mf (i : Nat) : CtxF := ⟨5, 16 * i, 16⟩
def Cx.len (i : Nat) : CtxF := ⟨6, 8 * i, 8⟩
def Cx.v (i : Nat) : CtxF := ⟨6, 16 + i, 1⟩
def Cx.rd (i : Nat) : CtxF := ⟨6, 18 + i, 1⟩
def Cx.full : CtxF := ⟨5, 0, 8⟩
def Cx.overwrites : CtxF := ⟨7, 0, 16⟩
def Cx.missing : CtxF := ⟨7, 16, 16⟩

/-- Add to a saturating counter of a context. -/
def State.bumpCf (s : State) (h : Nat) (x : CtxF) : State := s.setCf h x (min (s.cf h x + 1) (2 ^ x.w - 1))

/-- Dwords 0 to 3 of an endpoint's context go to the PARTNER (R291). -/
def State.tellCtx (s : State) (h : Nat) : State := s.tell (.context (BitVec.ofNat 20 h) [s.ctx h 0, s.ctx h 1, s.ctx h 2, s.ctx h 3])

/-- EBM address of granule `g` (R159). -/
def granuleAddr (g : Nat) : Nat := 0x02000000 + g * 64

/-- EBM address of half `i` of a slot of `n` granules from granule `g` on (R162). -/
def halfAddr (g n i : Nat) : Nat := granuleAddr (g + i * (n / 2))

end Sys2Proof.Machine
end

