-- ==== Sys2Proof/Machine/Queue.lean ====
section
/-! DEFINITION. Rings (R344 to R365): completions, credit, the hold and overflow, moderation, scans, ring state blocks,
and the end of an entry. -/

namespace Sys2Proof.Machine

/-- Status codes (R370). -/
def St.ok : Nat := 0x00
def St.malformed : Nat := 0x01
def St.invalidOpcode : Nat := 0x02
def St.outOfGrant : Nat := 0x03
def St.dmaWindow : Nat := 0x04
def St.align : Nat := 0x05
def St.loop : Nat := 0x06
def St.engineFault : Nat := 0x07
def St.aborted : Nat := 0x08
def St.squashed : Nat := 0x09
def St.portReset : Nat := 0x0A
def St.deviceGone : Nat := 0x0B
def St.stall : Nat := 0x0C
def St.timeout : Nat := 0x0D
def St.retryExhausted : Nat := 0x0E
def St.frozen : Nat := 0x0F
def St.shareExceeded : Nat := 0x10
def St.invalidated : Nat := 0x11
def St.takenOver : Nat := 0x12
def St.lockContended : Nat := 0x13
def St.admissionRefused : Nat := 0x14
def St.abortedByWake : Nat := 0x15

/-! ## Rings -/

/-- Key of local ring `i` of function `f`. -/
def rk (f i : Nat) : Nat := f * 2048 + i

def State.sq (s : State) (f i : Nat) : Option SqRec := Tbl.get (fun _ => none) s.qe.sqs (rk f i)
def State.cq (s : State) (f i : Nat) : Option CqRec := Tbl.get (fun _ => none) s.qe.cqs (rk f i)

def State.setSq (s : State) (f i : Nat) (r : Option SqRec) : State :=
  { s with qe := { s.qe with sqs := Tbl.set (fun _ => none) s.qe.sqs (rk f i) r } }
def State.setCq (s : State) (f i : Nat) (r : Option CqRec) : State :=
  { s with qe := { s.qe with cqs := Tbl.set (fun _ => none) s.qe.cqs (rk f i) r } }

def State.updSq (s : State) (f i : Nat) (g : SqRec → SqRec) : State :=
  match s.sq f i with
  | some r => s.setSq f i (some (g r))
  | none => s
def State.updCq (s : State) (f i : Nat) (g : CqRec → CqRec) : State :=
  match s.cq f i with
  | some r => s.setCq f i (some (g r))
  | none => s

/-- The I/O CQ with a global number (R344). -/
def State.cqOfGlob (s : State) (g : Nat) : Option (Nat × Nat) :=
  (s.qe.cqs.find? (fun e => e.1 % 2048 ≠ 1 && (match e.2 with | some c => c.glob == g | none => false))).map
    (fun e => (e.1 / 2048, e.1 % 2048))

/-- The I/O and admin SQs bound to CQ `i` of function `f`. -/
def State.boundSqs (s : State) (f i : Nat) : List Nat :=
  (s.qe.sqs.filter (fun e => e.1 / 2048 == f && (match e.2 with | some r => r.cq == i | none => false))).map
    (fun e => e.1 % 2048)

/-- Dword 1 of an SQ's ring state block (R360). -/
def rsbSq (r : SqRec) : Word := BitVec.ofNat 32 (b2n r.idle + 2 * b2n r.fetchStopped + 2 ^ 16 * r.pos)
/-- Dword 1 of a CQ's ring state block (R360). -/
def rsbCq (c : CqRec) : Word := BitVec.ofNat 32 (b2n c.overflow + 4 * min c.hold.length 64 + 2 ^ 16 * c.pos)

/-- A ring state block goes to host memory, or waits until its function may send a request (R320, R337, R427). -/
def State.putRsb (s : State) (f i : Nat) (w : Word) : State :=
  if s.mayRequest f then s.sendHost (.rsb f i w)
  else if s.qe.rsbs.contains (f, i) then s
  else { s with qe := { s.qe with rsbs := s.qe.rsbs ++ [(f, i)] } }

/-- Write an SQ's ring state block; the admin rings have none, and show IDLE in QE_ADMIN_STATUS (R360, R371). -/
def State.writeRsbSq (s : State) (f i : Nat) : State :=
  match s.sq f i with
  | some r => if i = 0 then s.setB (Reg.QE_ADMIN_STATUS_IDLE f) r.idle else s.putRsb f i (rsbSq r)
  | none => s

/-- Write a CQ's ring state block; the admin CQ shows OVERFLOW in QE_ADMIN_STATUS. -/
def State.writeRsbCq (s : State) (f i : Nat) : State :=
  match s.cq f i with
  | some c => if i = 1 then s.setB (Reg.QE_ADMIN_STATUS_OVERFLOW f) c.overflow else s.putRsb f i (rsbCq c)
  | none => s

/-- The ring state blocks of function `f` that wait are written. -/
def State.sendRsbs (s : State) (f : Nat) : State :=
  let l := (s.qe.rsbs.filter (fun x => x.1 == f)).map (·.2)
  let s : State := { s with qe := { s.qe with rsbs := s.qe.rsbs.filter (fun x => x.1 != f) } }
  s.forAll l (fun s i => if (s.sq f i).isSome then s.writeRsbSq f i else s.writeRsbCq f i)

/-- Vectors whose pending bit is set and whose masks are clear send their message (R326). -/
def State.sendPending (s : State) (f : Nat) : State := s.forAll (s.fnRec f).pending (fun s v =>
  if (s.fnRec f).unmasked.contains v && !(s.fnRec f).funcMask && s.mayRequest f then
    (s.updFn f (fun r => { r with pending := r.pending.filter (· != v) })).sendHost (.msix f v)
  else s)

/-- The admin positions show in QE_ADMIN_POS (R371). -/
def State.showPos (s : State) (f i : Nat) : State :=
  if i = 0 then match s.sq f 0 with
    | some r => s.setF (Reg.QE_ADMIN_POS_SQ f) r.pos
    | none => s
  else if i = 1 then match s.cq f 1 with
    | some c => s.setF (Reg.QE_ADMIN_POS_CQ f) c.pos
    | none => s
  else s

/-! ## The entry cache (R353) -/

/-- QE_CACHE_USED and CACHE_FULL follow the cache. -/
def State.showCache (s : State) : State :=
  let n := s.qe.cache.length
  ((s.setF Reg.QE_CACHE_USED_USED n).high Reg.QE_CACHE_USED_HIGH n).setB Reg.QE_STATUS_CACHE_FULL
    (decide (Config.cachePlaces ≤ n))

def State.setCache (s : State) (c : List CacheEnt) : State :=
  State.showCache { s with qe := { s.qe with cache := c } }

/-- The cached entries of one ring, oldest first. -/
def State.cachedOf (s : State) (f i : Nat) : List CacheEnt :=
  s.qe.cache.filter (fun e => e.ref.fn.val == f && e.ref.sq.toNat == i)

/-- The started entries of one ring. -/
def State.startedOf (s : State) (f i : Nat) : List StartEnt :=
  s.qe.started.filter (fun e => e.ref.fn.val == f && e.ref.sq.toNat == i)

/-! ## Scans (R351, R352) -/

/-- A scan of an SQ may start: the engine is enabled, the ring may fetch, and its CQ is not in overflow (R337, R350,
R352, R357, R363, R423, R428). -/
def State.mayFetch (s : State) (f i : Nat) : Bool :=
  match s.sq f i with
  | none => false
  | some r => s.operational && s.hostHere && !s.dormantPending && !s.halted && s.flag Reg.QE_CTRL_EN && !s.d3hot f && !s.frozen f && !s.inReset f && !r.faulted
      && !r.fetchStopped && r.deleting.isNone

/-- Remember a doorbell until its ring may be scanned (R352). -/
def State.keepDoorbell (s : State) (f i : Nat) : State :=
  if s.qe.doorbells.contains (f, i) then s
  else { s with qe := { s.qe with doorbells := s.qe.doorbells ++ [(f, i)] } }

/-- Start a scan of an SQ, or mark the ring for a further one (R351, R352). -/
def State.scanSq (s : State) (f i : Nat) : State :=
  match s.sq f i with
  | none => s
  | some r =>
    if s.mayFetch f i then
      if r.scanning then s.updSq f i (fun r => { r with again := true })
      else
        let s := s.updSq f i (fun r => { r with scanning := true })
        if i = 0 then s.sendHost (.read f (r.base + r.pos * 64) 64) else s.sendHost (.read f r.rsb 64)
    else s.keepDoorbell f i

/-- Start a scan of a CQ, or mark the ring for a further one (R351, R352). -/
def State.scanCq (s : State) (f i : Nat) : State :=
  match s.cq f i with
  | none => s
  | some c =>
    if c.faulted then s
    else if s.operational && s.hostHere && !s.d3hot f && !s.inReset f && !s.frozen f then
      if c.scanning then s.updCq f i (fun c => { c with again := true })
      else
        let s := s.updCq f i (fun c => { c with scanning := true })
        s.sendHost (.read f (c.base + (c.pos + c.credit) % 2 ^ c.log2 * 32) 32)
    else s.keepDoorbell f i

/-- Serve every remembered doorbell whose ring may now be scanned. One kept before OPERATIONAL that names no ring is stray (R333, R350). -/
def State.rescan (s : State) : State :=
  let l := s.qe.doorbells
  let s := { s with qe := { s.qe with doorbells := [] } }
  l.foldl (fun s p => if (s.cq p.1 p.2).isSome then s.scanCq p.1 p.2
    else if (s.sq p.1 p.2).isSome then s.scanSq p.1 p.2
    else if s.operational then s.bump Reg.QE_ERR_STRAY_DOORBELLS
    else s.keepDoorbell p.1 p.2) s

/-! ## Completions (R346 to R349, R357, R359) -/

/-- The dwords of a CQE (R346). -/
def cqeDws (q : Cqe) (head : Nat) : List Word :=
  [BitVec.ofNat 32 (1 + 2 ^ 8 * q.status + 2 ^ 16 * q.cid), BitVec.ofNat 32 (q.sq + 2 ^ 16 * head),
   BitVec.ofNat 32 q.residue, BitVec.ofNat 32 (q.residue / 2 ^ 32), q.d4, q.d5, q.d6, q.d7]

/-- SQ_HEAD of a CQE: the position of its SQ; an event carries its EVENT code in that place (R126, R346). -/
def State.sqHead (s : State) (f : Nat) (q : Cqe) : Nat :=
  match q.head with
  | some h => h
  | none => match s.sq f q.sq with
    | some r => r.pos
    | none => 0

/-- Signal a CQ's vector and restart its moderation (R359). -/
def State.signalCq (s : State) (f i : Nat) : State :=
  match s.cq f i with
  | none => s
  | some c =>
    let s := s.setCq f i (some { c with sinceSig := 0, winStart := none })
    s.signal f c.vector

/-- A CQ's moderation count has been reached, or it signals every CQE (R359, R364, R385). -/
def cqDue (i : Nat) (c : CqRec) (q : Cqe) : Bool :=
  c.ien && (i == 1 || q.urgent || decide (c.modCount ≤ c.sinceSig))

/-- The moderation window of a CQ has ended (R4, R359). -/
def State.moderated (s : State) (c : CqRec) : Bool :=
  match c.winStart with
  | some t0 => decide (t0 + 25 * c.modTime ≤ s.now)
  | none => false

/-- MODERATION_TIMER_EXPIRY (R359): the window of MOD_TIME µs has ended. -/
def State.moderationOver (s : State) (f i : Nat) : State :=
  match s.cq f i with
  | none => s
  | some c =>
    if s.moderated c then
      if c.ien then s.signalCq f i else s.setCq f i (some { c with winStart := none, sinceSig := 0 })
    else s

/-- A CQE of this tick starts the next window when the one in progress has ended (R4, R359). Where the CQE reaches the count in the tick of that
end, one message stands for both. -/
def State.nextWindow (s : State) (f i : Nat) (q : Cqe) : State :=
  match s.cq f i with
  | none => s
  | some c =>
    if c.winStart.map (· + 25 * c.modTime) = some s.now ∧ cqDue i { c with sinceSig := 1 } q then
      s.setCq f i (some { c with winStart := none, sinceSig := 0 })
    else s.moderationOver f i

/-- Write a CQE against credit (R346, R348, R349, R359): the entry at the write position, then OWN = 0 in the SQE, then
the message when moderation lets it go. -/
def State.writeCqe (s : State) (f i : Nat) (q : Cqe) : State :=
  let s := s.nextWindow f i q
  match s.cq f i with
  | none => s
  | some c =>
    let s := s.sendHost (.cqe f i c.pos (cqeDws q (s.sqHead f q)))
    let c' := { c with pos := (c.pos + 1) % 2 ^ c.log2, credit := c.credit - 1, sinceSig := c.sinceSig + 1,
                       winStart := c.winStart.or (some s.now) }
    let s := (s.setCq f i (some c')).showPos f i
    let s := match q.wb with
      | some (r, dw0) => s.sendHost (.sqe r.fn.val r.sq.toNat r.idx.toNat (putBits dw0 0 1 0))
      | none => s
    if cqDue i c' q then s.signalCq f i else s

/-- A CQ enters overflow (R357). -/
def State.enterOverflow (s : State) (f i : Nat) : State :=
  match s.cq f i with
  | none => s
  | some c =>
    if c.overflow then s
    else
      let s := (s.setCq f i (some { c with overflow := true })).writeRsbCq f i
      let s := s.bump Reg.QE_OVERFLOWS_COUNT
      let s := if c.ien then s.signalCq f i else s
      (s.boundSqs f i).foldl (fun s j => (s.updSq f j (fun r => { r with fetchStopped := true })).writeRsbSq f j) s

/-- A completion goes into the hold, or waits behind it (R339, R357). -/
def State.holdCqe (s : State) (f i : Nat) (q : Cqe) : State :=
  match s.cq f i with
  | none => s
  | some c =>
    let s := if c.hold.length < Config.holdSize then s.setCq f i (some { c with hold := c.hold ++ [q] })
      else s.setCq f i (some { c with waiting := c.waiting ++ [q] })
    if Config.holdSize ≤ c.hold.length + 1 then s.enterOverflow f i else s

/-- A completion becomes ready for CQ `i` of function `f` (R355, R357, R320, R339, R340, R363, R423, R427). `reason` is the code
that a PME for it carries (R342). A ring that is gone, or whose function is in reset, discards it. -/
def State.postCqe (s : State) (f i : Nat) (q : Cqe) (reason : Nat) : State :=
  match s.cq f i with
  | none => s
  | some c =>
    if s.inReset f then s
    else if c.faulted then s.bump Reg.QE_ERR_RING_FAULTS
    else if s.frozen f && (s.vfRec (f - 1)).freezing.isEmpty then
      s.updVf (f - 1) (fun v => { v with held := v.held ++ [(i, q)] })
    else if s.d3hot f then
      let first := !(s.fnRec f).heldOn.contains i
      let s := (s.holdCqe f i q).updFn f (fun r => if r.heldOn.contains i then r else { r with heldOn := r.heldOn ++ [i] })
      if first then s.sendPme f reason else s
    else if !s.hostHere then s.holdCqe f i q
    else
      let s := s.suppressPme f reason
      if 0 < c.credit ∧ c.hold = [] ∧ c.waiting = [] then s.writeCqe f i q else s.holdCqe f i q

/-- Write held and waiting completions while there is credit and the function may send requests (R337, R357). -/
def State.drainCq (s : State) (f i : Nat) : Nat → State
  | 0 => s
  | n + 1 =>
    match s.cq f i with
    | none => s
    | some c =>
      if c.credit = 0 || !s.mayRequest f then s
      else match c.hold ++ c.waiting with
        | [] => s
        | q :: rest =>
          let s := s.setCq f i (some { c with hold := rest.take Config.holdSize, waiting := rest.drop Config.holdSize })
          (s.writeCqe f i q).drainCq f i n

/-- Overflow ends when the hold is empty, and fetching resumes (R357). -/
def State.endOverflow (s : State) (f i : Nat) : State :=
  match s.cq f i with
  | none => s
  | some c =>
    if c.overflow && c.hold.isEmpty then
      let s := (s.setCq f i (some { c with overflow := false })).writeRsbCq f i
      let s := (s.boundSqs f i).foldl
        (fun s j => (s.updSq f j (fun r => { r with fetchStopped := false })).writeRsbSq f j) s
      s.rescan
    else s

/-! ## Freeing a ring, and functions at rest or in reset (R362, R365, R423 to R427, R433) -/

/-- What waits for a ring goes with it: its kept doorbell, and its ring state block (R352, R362). -/
def State.forgetRing (s : State) (f i : Nat) : State :=
  { s with qe := { s.qe with doorbells := s.qe.doorbells.filter (· != (f, i)), rsbs := s.qe.rsbs.filter (· != (f, i)) } }

/-- A submission ring is freed. -/
def State.dropSq (s : State) (f i : Nat) : State :=
  ((s.forgetRing f i).setSq f i none).setF Reg.QE_RINGS_FREE_SQ (s.f Reg.QE_RINGS_FREE_SQ + 1)

/-- An event register that names the CQ with global number `g` loses its EN (R423). -/
def State.eventOff (s : State) (cq en : Fld) (g : Nat) : State := if s.f cq = g then s.setB en false else s

/-- A completion ring is freed. -/
def State.dropCq (s : State) (f i : Nat) : State :=
  ((s.forgetRing f i).setCq f i none).setF Reg.QE_RINGS_FREE_CQ (s.f Reg.QE_RINGS_FREE_CQ + 1)

/-- HIF_VF_STATE follows what the VF's record and grant say (R433). -/
def State.showVf (s : State) (v : Nat) : State :=
  let r := s.vfRec v
  s.setReg (Reg.HIF_VF_STATE v) (BitVec.ofNat 32 (b2n (r.frozen && r.freezing.isEmpty) + 2 * b2n r.saved + 4 * b2n r.restored
    + 8 * b2n r.resetBusy + 16 * b2n (decide (s.grant (v + 1) ≠ Grant.empty)) + 2 ^ 16 * r.squashed))

/-- Change a VF's record. -/
def State.setVf (s : State) (v : Nat) (g : VfRec → VfRec) : State := (s.updVf v g).showVf v

/-- A squash record (R424): a full log counts it as lost. -/
def State.squash (s : State) (r : EntryRef) (e : Sqe) (where_ unit residue : Nat) : State :=
  let f := r.fn.val
  let s := if s.fn.squash.length < Config.squashRecords then
      { s with fn := { s.fn with squash := s.fn.squash ++ [⟨s.mfN, f, r.sq.toNat, sqeCid e, sqeOpcode e, where_, unit, residue⟩] } }
    else s.bump Reg.HIF_SQUASH_LOST_COUNT
  if f = 0 then s else s.setVf (f - 1) (fun v => { v with squashed := min 65535 (v.squashed + 1) })

/-- Opcodes of transfers and FENCE, which run to completion before a VF is frozen (R427). -/
def runsOut : List Nat := [0x02, 0x10, 0x11, 0x12, 0x18, 0x19]

/-- The views of a function have nothing queued or open. -/
def State.viewsIdle (s : State) (f : Nat) : Bool :=
  s.xb.views.all (fun v => viewFn v.1 != f || (v.2.queue.isEmpty && v.2.open_.isNone))

/-- No burst of function `f` is in progress but those of clip feeds. -/
def State.burstsIdle (s : State) (f : Nat) : Bool :=
  s.bm.engines.all (fun e => nbit (s.f Reg.BM_STATUS_STOPPED) e.1 || e.2.reqs.all (fun q => q.prefetch || q.fn != f ||
    (match (Tbl.get (fun _ => ChanRec.idle) s.bm.chans q.chan).job with
     | some j => (match j.kind with | .clip _ => true | _ => false)
     | none => true)))

/-- Steps 2 to 4 of VF_FREEZE have finished for function `f` (R427). -/
def State.atRest (s : State) (f : Nat) : Bool :=
  !s.qe.started.any (fun x => x.ref.fn.val == f && (x.ref.sq.toNat == 0 || runsOut.contains (sqeOpcode x.sqe))) &&
    s.viewsIdle f && s.burstsIdle f

/-- No work of function `f` is left (R423). -/
def State.resetReady (s : State) (f : Nat) : Bool :=
  !s.qe.started.any (fun x => x.ref.fn.val == f) && !s.qe.cache.any (fun x => x.ref.fn.val == f) && s.viewsIdle f && s.burstsIdle f

/-- The reset of function `f` is complete (R365, R423): its I/O rings are deleted, event registers that name a deleted CQ are
disabled, the admin positions are 0, its DMA windows are removed, and its views are cleared. -/
def State.resetDone (s : State) (f : Nat) : State :=
  let own (k : Nat) : Bool := k / 2048 == f && decide (2 ≤ k % 2048)
  let s := (s.qe.cqs.filter (fun e => own e.1)).foldl (fun (s : State) (e : Nat × Option CqRec) =>
    let g := match e.2 with | some c => c.glob | none => Config.ringCount
    let s := s.eventOff Reg.TM_EVENT_CTRL_CQ Reg.TM_EVENT_CTRL_EN g
    let s := s.eventOff Reg.SV_EVENT_CTRL_CQ Reg.SV_EVENT_CTRL_EN g
    (s.eventOff Reg.PU_EVENT_CTRL_CQ Reg.PU_EVENT_CTRL_EN g).dropCq f (e.1 % 2048)) s
  let s := (s.qe.sqs.filter (fun e => own e.1)).foldl (fun (s : State) (e : Nat × Option SqRec) => s.dropSq f (e.1 % 2048)) s
  let s : State := { s with
    qe := { s.qe with doorbells := s.qe.doorbells.filter (fun d => d.1 != f), rsbs := s.qe.rsbs.filter (fun d => d.1 != f) }
    bm := { s.bm with windows := Tbl.keep (fun k => k / 64 != f) s.bm.windows } }
  let s := s.updSq f 0 (fun r => { r with pos := 0, skip := [], first := none, again := false, invalAgain := false, scanning := false })
  let s := s.updCq f 1 (fun c => { c with pos := 0, credit := 0, overflow := false, hold := [], waiting := [], sinceSig := 0,
                                          winStart := none, scanning := false, again := false })
  let s := ((s.showPos f 0).showPos f 1).writeRsbCq f 1
  let s := (s.xb.views.filter (fun v => viewFn v.1 == f)).foldl (fun (s : State) (v : Nat × ViewRec) =>
    State.setF (State.setB { s with xb := { s.xb with views := Tbl.del s.xb.views v.1 } } (faultedF v.1) false) (dropsF v.1) 0) s
  let s := if f = 0 then { s with fn := { s.fn with pfReset := false } } else s.setVf (f - 1) (fun v => { v with resetBusy := false })
  s.scanCq f 1

/-! ## The end of an entry -/

/-- The executor shows EXEC_BUSY while a started admin entry exists (R365, R371). -/
def State.showExec (s : State) : State :=
  s.setB Reg.QE_STATUS_EXEC_BUSY (s.qe.started.any (fun e => e.ref.sq.toNat == 0))

/-- The CQE of an entry (R346). -/
def entryCqe (r : EntryRef) (e : Sqe) (status residue : Nat) (d4 d5 d6 d7 : Word) (urgent : Bool) : Cqe :=
  ⟨status, sqeCid e, r.sq.toNat, residue, d4, d5, d6, d7, some (r, sqeDw e 0), urgent, none⟩

/-- A CQE of an entry of SQ `i` is still held: it has not been written (R361). -/
def State.cqeOwed (s : State) (f i : Nat) : Bool :=
  let mine (q : Cqe) : Bool := q.sq == i && q.head.isNone
  (match s.sq f i with
    | some r => (match s.cq f r.cq with | some c => (c.hold ++ c.waiting).any mine | none => false)
    | none => false) || (decide (0 < f) && (s.vfRec (f - 1)).held.any (fun x => mine x.2))

/-- A disabled SQ, or an admin SQ, with nothing cached or started and every CQE written becomes IDLE (R361, R371), and a DELETE_SQ that waits
for it ends: the ring is freed and the command completes with OK (R361, R362). -/
def State.finishIdle (s : State) (f i : Nat) : State :=
  match s.sq f i with
  | none => s
  | some r =>
    if (i == 0 || !r.enable || r.deleting.isSome) && (s.startedOf f i).isEmpty && (s.cachedOf f i).isEmpty && !s.cqeOwed f i && !r.idle then
      let s := (s.setSq f i (some { r with idle := true })).writeRsbSq f i
      match r.deleting with
      | none => s
      | some d =>
        let s := s.dropSq f i
        match s.qe.started.find? (fun e => e.ref == d) with
        | none => s
        | some st =>
          let s := State.showExec { s with qe := { s.qe with started := removeFirst (fun e => e.ref == d) s.qe.started } }
          match s.sq d.fn.val d.sq.toNat with
          | none => s
          | some ar => s.postCqe d.fn.val ar.cq (entryCqe d st.sqe St.ok 0 0 0 0 0 false) 1
    else s

/-- Write what can be written on a CQ, and end its overflow; an SQ whose last CQE is written may become IDLE (R357, R361). -/
def State.flushCq (s : State) (f i : Nat) : State :=
  match s.cq f i with
  | none => s
  | some c =>
    let l := c.hold ++ c.waiting
    ((s.drainCq f i l.length).endOverflow f i).forAll (l.map (·.sq)).eraseDups (fun s j => s.finishIdle f j)

/-- A started entry ends with a CQE (R346, R348, R383): it leaves the started entries, and its CQE becomes ready. An entry of a
function in reset leaves a squash record instead (R424). -/
def State.endStarted (s : State) (r : EntryRef) (q : Cqe) : State :=
  match s.qe.started.find? (fun x => x.ref == r) with
  | none => s
  | some st =>
    let s := State.showExec { s with qe := { s.qe with started := removeFirst (fun x => x.ref == r) s.qe.started } }
    if s.inReset r.fn.val then (s.squash r st.sqe st.where_ st.unit q.residue).finishIdle r.fn.val r.sq.toNat
    else match s.sq r.fn.val r.sq.toNat with
      | none => s
      | some sq => (s.postCqe r.fn.val sq.cq q 1).finishIdle r.fn.val r.sq.toNat

/-- A VF_FREEZE ends once its VF is at rest (R427), and the PF's reset once nothing of the PF is left (R336, R423). -/
def State.settleFn (s : State) (f : Nat) : State :=
  if f = 0 then (if s.fn.pfReset && s.resetReady 0 then s.resetDone 0 else s)
  else
    let w := (s.vfRec (f - 1)).freezing
    if w.isEmpty || !s.atRest f then s
    else w.foldl (fun (s : State) (r : EntryRef) => match s.qe.started.find? (fun x => x.ref == r) with
      | some st => s.endStarted r (entryCqe r st.sqe St.ok 0 0 0 0 0 false)
      | none => s) (s.setVf (f - 1) (fun v => { v with freezing := [] }))

/-- A started entry ends, and what waits for its function goes on. -/
def State.finishEntry (s : State) (r : EntryRef) (q : Cqe) : State := (s.endStarted r q).settleFn r.fn.val

/-- Complete a started entry. -/
def State.complete (s : State) (r : EntryRef) (e : Sqe) (status : Nat) (residue : Nat := 0) (d4 : Word := 0)
    (d5 : Word := 0) (d6 : Word := 0) (d7 : Word := 0) (urgent : Bool := false) : State :=
  s.finishEntry r (entryCqe r e status residue d4 d5 d6 d7 urgent)

/-- Complete a started entry by its reference, if it is still started. -/
def State.completeRef (s : State) (r : EntryRef) (status : Nat) (residue : Nat := 0) (d4 : Word := 0)
    (d5 : Word := 0) (d6 : Word := 0) (d7 : Word := 0) (urgent : Bool := false) : State :=
  match s.qe.started.find? (fun x => x.ref == r) with
  | some st => s.complete r st.sqe status residue d4 d5 d6 d7 urgent
  | none => s

/-- An entry starts: it leaves the cache and joins the started entries (R353). -/
def State.startRec (s : State) (r : EntryRef) (e : Sqe) (where_ unit : Nat) : State :=
  let s := s.setCache (removeFirst (fun x => x.ref == r) s.qe.cache)
  State.showExec { s with qe := { s.qe with started := s.qe.started ++ [⟨r, e, where_, unit⟩] } }

/-- A started entry's place for squash records changes. -/
def State.markStarted (s : State) (r : EntryRef) (where_ unit : Nat) : State :=
  { s with qe := { s.qe with
      started := replaceFirst (fun x => x.ref == r) (fun x => { x with where_ := where_, unit := unit }) s.qe.started } }

/-- Place of an entry among those whose completions become ready in the same cycle (R355): by the global number of its SQ, then in ring order,
in which the entries of a ring start. -/
def State.cqeRank (s : State) (r : EntryRef) : Nat :=
  let g := match s.sq r.fn.val r.sq.toNat with | some q => q.glob | none => Config.ringCount
  g * 2 ^ 32 + (s.qe.started.takeWhile (fun x => x.ref != r)).length

/-- A list of pieces of work in the order in which their completions are written when all become ready in one cycle. -/
def State.inCqeOrder {α : Type} (s : State) (key : α → EntryRef) (l : List α) : List α :=
  l.foldl (fun a x => insertBy (fun y z => decide (s.cqeRank (key y) < s.cqeRank (key z))) x a) []

/-- The entry that a transfer serves; those of the device itself come first. -/
def xferRef (x : Nat × Xfer) : EntryRef :=
  match x.2.owner with
  | .entry e => e
  | _ => ⟨0, 0, 0⟩

/-- The transfers that satisfy `p`, in the order in which their completions are written when all end in one cycle (R355). -/
def State.xfersBy (s : State) (p : Xfer → Bool) : List (Nat × Xfer) :=
  s.inCqeOrder xferRef (s.bus.xfers.filterMap (fun x => match x.2 with
    | some r => if p r then some (x.1, r) else none
    | none => none))

/-- The SQE of a started entry. -/
def State.startedSqe (s : State) (r : EntryRef) : Option Sqe :=
  (s.qe.started.find? (fun x => x.ref == r)).map (·.sqe)

/-! ## Unsolicited entries (R347, R358) -/

/-- An event CQ has room: credit, or room in its hold (R358). A CQ that does not exist takes nothing. -/
def State.cqRoom (s : State) (f i : Nat) : Bool :=
  match s.cq f i with
  | none => false
  | some c => !c.faulted && (decide (0 < c.credit ∧ c.hold = []) || decide (c.hold.length < Config.holdSize))

/-- Post an event of eight dwords to the CQ with a global number, when it has room. The second dword's upper half is the
EVENT code, kept in `head`. -/
def State.postEvent (s : State) (glob : Nat) (dws : List Word) (reason : Nat) : Option State :=
  match s.cqOfGlob glob with
  | none => none
  | some (f, i) =>
    if s.cqRoom f i then
      let d1 := dws.getD 1 0
      let q : Cqe := ⟨bits (dws.getD 0 0) 8 8, 0xFFFF, bits d1 0 16,
        (dws.getD 2 0).toNat + 2 ^ 32 * (dws.getD 3 0).toNat, dws.getD 4 0, dws.getD 5 0, dws.getD 6 0, dws.getD 7 0,
        none, false, some (bits d1 16 16)⟩
      some (s.postCqe f i q reason)
    else none

end Sys2Proof.Machine
end

