-- ==== Sys2Proof/Machine/EbmOps.lean ====
section
/-! DEFINITION. The slot pool of the endpoint buffer memory (R162 to R165), the halves of periodic slots (R166 to R172),
and the consequences of ECC errors that need no other unit (R176). -/

namespace Sys2Proof.Machine

/-! ## Slot pool (R163) -/

/-- Allocated granules. -/
def runsUsed (l : List (Nat × Nat)) : Nat := (l.map (·.2)).foldl (· + ·) 0

/-- Free granules (R163). -/
def State.slotFree (s : State) : Nat := Config.slotGranules - runsUsed s.ebm.runs

/-- Longest free run, given the allocated runs in ascending order and the first granule not yet looked at. -/
def longestRun : Nat → List (Nat × Nat) → Nat
  | at_, [] => Config.slotGranules - at_
  | at_, (a, n) :: r => max (a - at_) (longestRun (a + n) r)

/-- First fit (R163): the lowest granule at which `n` granules are free. -/
def firstFit (n : Nat) : Nat → List (Nat × Nat) → Option Nat
  | at_, [] => if at_ + n ≤ Config.slotGranules then some at_ else none
  | at_, (a, m) :: r => if at_ + n ≤ a then some at_ else firstFit n (a + m) r

/-- EBM_SLOT_FREE and EBM_SLOT_LARGEST follow the pool. -/
def State.showSlots (s : State) : State :=
  (s.setF Reg.EBM_SLOT_FREE_FREE s.slotFree).setF Reg.EBM_SLOT_LARGEST_RUN (longestRun 0 s.ebm.runs)

def State.setRuns (s : State) (l : List (Nat × Nat)) : State :=
  State.showSlots { s with ebm := { s.ebm with runs := l } }

/-- Allocate `n` granules; `none` when no free run is large enough. -/
def State.allocSlot (s : State) (n : Nat) : Option (State × Nat) :=
  match firstFit n 0 s.ebm.runs with
  | none => none
  | some g => some (s.setRuns (insertBy (fun a b => decide (a.1 < b.1)) (g, n) s.ebm.runs), g)

/-- Free the run that starts at granule `g`. -/
def State.freeSlot (s : State) (g : Nat) : State := s.setRuns (removeFirst (fun r => r.1 == g) s.ebm.runs)

/-- Granules of a periodic slot of LENGTH `l` (R162). -/
def periodicGranules (l : Nat) : Nat := 2 * max 1 (ceilDiv l 64)

/-- Granules of the slot of a non-periodic endpoint (R162). -/
def State.npGranules (s : State) (h : Nat) : Nat :=
  if s.cf h Cx.kind = 2 ∨ h % 8 = 0 then 16 else s.cf h Cx.window * s.cf h Cx.maxPacket / 64

/-! ## The slots of the schedule (R164) -/

/-- The slot record of a group. -/
def State.groupSlot (s : State) (g : Nat) : GroupSlot := Tbl.get (fun _ => GroupSlot.empty) s.ebm.groupSlots g
def State.setGroupSlot (s : State) (g : Nat) (r : GroupSlot) : State :=
  { s with ebm := { s.ebm with groupSlots := Tbl.set (fun _ => GroupSlot.empty) s.ebm.groupSlots g r } }

/-- The slot that an endpoint or group holds, as its context or record gives it: first granule and size, 0 for none. -/
def State.slotNow (s : State) (key : Nat) : Nat × Nat :=
  if key < 0x100000 then (s.cf key Cx.slot, s.cf key Cx.granules)
  else ((s.groupSlot (key - 0x100000)).slot, (s.groupSlot (key - 0x100000)).granules)
def State.setSlotNow (s : State) (key g n : Nat) : State :=
  if key < 0x100000 then (s.setCf key Cx.slot g).setCf key Cx.granules n
  else s.setGroupSlot (key - 0x100000) { s.groupSlot (key - 0x100000) with slot := g, granules := n }

/-- The slot that an endpoint or group has until the commit that replaces it takes effect. -/
def State.oldSlot (s : State) (key : Nat) : Option (Nat × Nat) := Tbl.get (fun _ => none) s.ebm.oldSlots key

/-- The microframe, not after the next one, whose number ends in the 16 bits of `u`. -/
def State.fullMf (s : State) (u : Nat) : Nat := s.mfN + 1 - (s.mfN + 65537 - u % 65536) % 65536

/-- Microframe `u` runs the schedule of the pending commit. -/
def State.fromCommit (s : State) (u : Nat) : Bool :=
  match s.ts.commit with
  | some c => decide (c.m ≤ s.fullMf u)
  | none => false

/-- The slot that a transaction of microframe `u` uses (R164): the old slot stays in use up to the commit. -/
def State.slotAt (s : State) (key u : Nat) : Nat × Nat :=
  match s.oldSlot key with
  | some a => if s.fromCommit u then s.slotNow key else a
  | none => s.slotNow key

/-- The microframe of the transaction that block `m` belongs to: an IN block comes from it, an OUT block goes out one microframe later
(R12). -/
def blockMf (key m : Nat) : Nat := if key < 0x100000 ∧ 8 ≤ key % 16 then m else m + 1

/-- The slot of block `m`, and the EBM address of its half. -/
def State.blockSlot (s : State) (key m : Nat) : Nat × Nat := s.slotAt key (blockMf key m)
def State.blockAddr (s : State) (key m : Nat) : Nat := halfAddr (s.blockSlot key m).1 (s.blockSlot key m).2 (m % 2)

/-- Bytes of a half of the slot of block `m`. -/
def State.halfBytes (s : State) (key m : Nat) : Nat := (s.blockSlot key m).2 / 2 * 64

/-! ## Periodic halves (R166 to R172) -/

/-- A slot half of handle `h` holds a block for microframe number `m` (16 bits). -/
def State.halfHolds (s : State) (h m : Nat) : Bool :=
  s.cf h (Cx.v (m % 2)) == 1 && s.cf h (Cx.mf (m % 2)) == m % 65536

/-- Write a block into half m mod 2 of a periodic slot: the payload, MF, LEN, V := 1 and RD := 0 (R166). -/
def State.writeHalf (s : State) (h m : Nat) (b : List Byte) : State :=
  let i := m % 2
  let s := s.ebmWrite (s.blockAddr h m) b
  ((((s.setCf h (Cx.mf i) (m % 65536)).setCf h (Cx.len i) b.length).setCf h (Cx.v i) 1).setCf h (Cx.rd i) 0)

/-- Accept a periodic IN block for microframe `m` (R166): the first good copy is written, a second copy is discarded and
counted. The answer says whether it was written. -/
def State.acceptIn (s : State) (h m : Nat) (b : List Byte) : State × Bool :=
  if s.halfHolds h m then (s.bump Reg.EBM_IN_DUPLICATES_COUNT, false)
  else
    let i := m % 2
    let s := if s.cf h (Cx.v i) = 1 ∧ s.cf h (Cx.rd i) = 0 then s.bumpCf h Cx.overwrites else s
    (s.writeHalf h m b, true)

/-- The bytes of half m mod 2 of a handle's slot. -/
def State.readHalf (s : State) (h m : Nat) : List Byte :=
  s.ebmRead (s.blockAddr h m) (s.cf h (Cx.len (m % 2)))

/-- Write an output block into half p mod 2 of a group's slot (R170, R172). -/
def State.writeGroupHalf (s : State) (g p : Nat) (b : List Byte) : State :=
  let r := s.groupSlot g
  let s := s.ebmWrite (s.blockAddr (0x100000 + g) p) b
  s.setGroupSlot g (if p % 2 = 0 then { r with mf0 := p % 65536, len0 := b.length, v0 := true }
    else { r with mf1 := p % 65536, len1 := b.length, v1 := true })

/-- The block that a MOUT of microframe `m` sends: half (m − 1) mod 2, when it holds the block of m − 1 (R171, R172). -/
def State.groupBlock (s : State) (g m : Nat) : Option (List Byte) :=
  let r := s.groupSlot g
  let p := (m + 65535) % 65536
  let (v, mf, len) := if p % 2 = 0 then (r.v0, r.mf0, r.len0) else (r.v1, r.mf1, r.len1)
  if v && mf == p then some (s.ebmRead (s.blockAddr (0x100000 + g) p) len) else none

/-- The block that an OUT of microframe `m` sends (R170, R171). -/
def State.outBlock (s : State) (h m : Nat) : Option (List Byte) :=
  let p := (m + 65535) % 65536
  if s.halfHolds h p then some (s.readHalf h p) else none

/-! ## ECC (R176) -/

/-- A double-bit error is counted, and its address is captured when no capture is held (R176). -/
def State.ebmUncorrected (s : State) (a : Nat) : State :=
  let s := s.bump Reg.EBM_ECC_COUNT_UNCORRECTED
  if s.flag Reg.EBM_ECC_ADDR_VALID then s
  else (s.setF Reg.EBM_ECC_ADDR_ADDR a).setB Reg.EBM_ECC_ADDR_VALID true

end Sys2Proof.Machine
end

