-- ==== Sys2Proof/Machine/ViewOps.lean ====
section
/-! DEFINITION. Views of the bridge (R393 to R403): their registers, their queues, failures, the late-fault log, and the
answers to the host. -/

namespace Sys2Proof.Machine

/-- Key of a view: PF window w, or 256 + 4v + d for delegated window d of VF v. -/
def viewKey : View → Nat
  | .pf w => w.val
  | .vf v d => 256 + v.val * 4 + d.val

/-- Delegated window of a view. -/
def viewDeleg (k : Nat) : Option Nat := if k < 256 then none else some ((k - 256) % 4)

/-- The delegation that a VF's view stands for (R394). -/
def State.viewGrant (s : State) (k : Nat) : Delegate :=
  (s.grant (viewFn k)).delegates.getD ((k - 256) % 4) ⟨0, 0, false⟩

/-- The PF window of a view (R394). -/
def State.viewWin (s : State) (k : Nat) : Nat := if k < 256 then k else (s.viewGrant k).w

/-- A view is configured: its window has EN = 1, and a delegated window is granted (R323, R393, R394). -/
def State.viewConfigured (s : State) (k : Nat) : Bool :=
  s.flag (Reg.XB_WIN_CFG_EN (s.viewWin k)) && (decide (k < 256) || (s.viewGrant k).en)

/-- Size of a view in bytes (R321). -/
def viewSize (k : Nat) : Nat := if k < 256 then 0x1000000 else 0x100000

/-- Device and register offset that byte `x` of a view names (R393, R394). -/
def State.viewDev (s : State) (k : Nat) : Nat := s.f (Reg.XB_WIN_CFG_DEVICE (s.viewWin k))
def State.viewIndex (s : State) (k x : Nat) : Nat :=
  s.f (Reg.XB_WIN_BASE_BASE (s.viewWin k)) * 0x1000000 + (if k < 256 then 0 else (s.viewGrant k).sub * 0x100000) + x

def State.view (s : State) (k : Nat) : ViewRec := Tbl.get (fun _ => ViewRec.idle) s.xb.views k

/-- Accesses queued or open (R395). -/
def ViewRec.count (v : ViewRec) : Nat := v.queue.length + (if v.open_.isSome then 1 else 0)

/-- Change a view; QUEUED follows. -/
def State.setView (s : State) (k : Nat) (v : ViewRec) : State :=
  State.setF { s with xb := { s.xb with views := Tbl.set (fun _ => ViewRec.idle) s.xb.views k v } } (queuedF k) v.count

def State.updView (s : State) (k : Nat) (g : ViewRec → ViewRec) : State := s.setView k (g (s.view k))

/-- XB_STATUS follows the late-fault log (R403). -/
def State.showLate (s : State) : State :=
  let n := s.xb.log.length
  (s.setF Reg.XB_STATUS_LOG_USED n).setB Reg.XB_STATUS_LOG_FULL (decide (Config.lateRecords ≤ n))

/-- Write a late-fault record; a full log counts it as lost (R403). -/
def State.logLate (s : State) (r : LateRec) : State :=
  if Config.lateRecords ≤ s.xb.log.length then s.bump Reg.XB_LATE_LOST_COUNT
  else State.showLate { s with xb := { s.xb with log := s.xb.log ++ [r] } }

/-- KIND of a late-fault record. -/
def accKindCode : AccKind → Nat
  | .read => 2
  | .write _ => 0
  | .atomic _ => 3

/-- The record of a failed access. -/
def State.lateRec (s : State) (k : Nat) (a : Acc) (kind status : Nat) : LateRec where
  mfn := s.mfN
  window := s.viewWin k
  kind := kind
  deleg := viewDeleg k
  off := a.off
  dev := s.viewDev k
  status := status
  width := a.width
  data := match a.kind with
    | .write v => v
    | _ => 0
  fn := viewFn k

/-- The late-fault vector of a view fires when its window is posted (R401). -/
def State.fireLate (s : State) (k : Nat) : State :=
  if s.flag (Reg.XB_WIN_CFG_POSTED (s.viewWin k)) then
    if k < 256 then s.when (s.flag Reg.XB_CTRL_LATE_IEN) (fun s => s.signal 0 (s.f Reg.XB_CTRL_LATE_VECTOR))
    else s.when (s.grant (viewFn k)).lateIen (fun s => s.signal (viewFn k) (s.grant (viewFn k)).late)
  else s

/-- What is queued behind a failed write (R400, R402): each write is dropped, and each read or AtomicOp completes with Completer Abort. In a
window with POSTED = 0 the first of these has reported the failure, and what is behind it is carried. -/
def State.dropQueued (s : State) (k : Nat) (posted : Bool) : List Acc → State
  | [] => s.updView k (fun v => { v with queue := [], reportPending := !posted })
  | a :: l =>
    match a.kind with
    | .write _ => (s.bump (dropsF k)).dropQueued k posted l
    | _ =>
      if a.more then s.dropQueued k posted l
      else
        let s := (s.sendHost (.ans .completerAbort)).aer (viewFn k) Aer.completerAbort
        if posted then s.dropQueued k posted l
        else (s.setB (faultedF k) false).updView k (fun v => { v with queue := l, reportPending := false })

/-- The view enters FAULTED, and what is queued behind the failed write is dropped or turned away (R400), unless the failed write was the last
of a full queue; with POSTED = 0 the failure waits to be reported (R402). -/
def State.faultView (s : State) (k : Nat) (dropQueue : Bool) : State :=
  let s := s.setB (faultedF k) true
  let posted := s.flag (Reg.XB_WIN_CFG_POSTED (s.viewWin k))
  if dropQueue then s.dropQueued k posted (s.view k).queue else s.updView k (fun v => { v with reportPending := !posted })

/-- A write through a view fails (R400, R401): a record, FAULTED, and the vector. -/
def State.writeFailed (s : State) (k : Nat) (a : Acc) (kind status : Nat) : State :=
  ((s.logLate (s.lateRec k a kind status)).faultView k (kind != 1)).fireLate k

/-- A read or AtomicOp fails (R398, R403, R404): a record and Completer Abort. -/
def State.readFailed (s : State) (k : Nat) (a : Acc) (status : Nat) : State :=
  let s := s.logLate (s.lateRec k a (accKindCode a.kind) status)
  (s.sendHost (.ans .completerAbort)).aer (viewFn k) Aer.completerAbort

/-- The open access of a view ends with a status and, for a read, its bytes (R396, R397, R400, R423). The parts of a split
read are gathered, and one completion is returned once all have ended. -/
def State.endAccess (s : State) (k : Nat) (status : Nat) (data : List Byte) : State :=
  let v := s.view k
  match v.open_ with
  | none => s
  | some a =>
    let s := s.setView k { v with open_ := none }
    if s.inReset (viewFn k) then (s.setView k { v with open_ := none, parts := [], badPart := false }).settleFn (viewFn k) else
    State.settleFn (match a.kind with
    | .write _ => if status = 0 then s else s.writeFailed k a 0 status
    | .atomic _ =>
      if status = 0 then s.sendHost (.ans (.data data)) else s.readFailed k a status
    | .read =>
      let bad := v.badPart || status != 0
      let s := if status = 0 then s else s.logLate (s.lateRec k a 2 status)
      if a.more then s.updView k (fun v => { v with parts := v.parts ++ data, badPart := bad })
      else
        let all := v.parts ++ data
        let s := s.updView k (fun v => { v with parts := [], badPart := false })
        if bad then (s.sendHost (.ans .completerAbort)).aer (viewFn k) Aer.completerAbort else s.sendHost (.ans (.data all))) (viewFn k)

/-- Clear FAULTED of a view (R401). -/
def State.clearView (s : State) (k : Nat) : State :=
  (s.setB (faultedF k) false).updView k (fun v => { v with reportPending := false })

end Sys2Proof.Machine
end

