-- ==== Sys2Proof/Machine/BusOps.lean ====
section
/-! DEFINITION. Non-periodic transfers of the Lybor bus (R44, R54 to R65, R165, R173 to R175): how they begin and end, their
tags, their attempts; and the block-mover channels that carry them (R373, R382). -/

namespace Sys2Proof.Machine

/-- Packet kinds (R39). -/
def Pk.mark : Nat := 0x01
def Pk.bcast : Nat := 0x02
def Pk.ping : Nat := 0x04
def Pk.in_ : Nat := 0x10
def Pk.out : Nat := 0x11
def Pk.mout : Nat := 0x12
def Pk.bulkIn : Nat := 0x14
def Pk.bulkOut : Nat := 0x15
def Pk.setup : Nat := 0x16
def Pk.ssplit : Nat := 0x18
def Pk.csplit : Nat := 0x19
def Pk.lock : Nat := 0x1C
def Pk.unlock : Nat := 0x1D
def Pk.data : Nat := 0x40
def Pk.ack : Nat := 0x60
def Pk.nak : Nat := 0x61
def Pk.stall : Nat := 0x62
def Pk.nyet : Nat := 0x63
def Pk.err : Nat := 0x64
def Pk.lockAck : Nat := 0x65
def Pk.lockBusy : Nat := 0x66

/-! ## Channels and engines (R372, R373) -/

def State.chan (s : State) (c : Nat) : ChanRec := Tbl.get (fun _ => ChanRec.idle) s.bm.chans c
def State.setChan (s : State) (c : Nat) (r : ChanRec) : State :=
  { s with bm := { s.bm with chans := Tbl.set (fun _ => ChanRec.idle) s.bm.chans c r } }
def State.engine (s : State) (e : Nat) : EngRec := Tbl.get (fun _ => EngRec.idle) s.bm.engines e

/-- Change an engine; BM_STATUS.BUSY and BM_ENG_STATUS follow (R392). -/
def State.setEngine (s : State) (e : Nat) (r : EngRec) : State :=
  let s := { s with bm := { s.bm with engines := Tbl.set (fun _ => EngRec.idle) s.bm.engines e r } }
  let s := s.setF Reg.BM_STATUS_BUSY (setBit (s.f Reg.BM_STATUS_BUSY) e r.holder.isSome)
  let s := s.setB (Reg.BM_ENG_STATUS_ACTIVE e) r.holder.isSome
  let s := match r.holder with
    | some c => s.setF (Reg.BM_ENG_STATUS_CURRENT e) (c % 64)
    | none => s
  s.setF (Reg.BM_ENG_STATUS_OUTSTANDING e) r.reqs.length

/-- Engine `e` is stopped (R387). -/
def State.stopped (s : State) (e : Nat) : Bool := nbit (s.f Reg.BM_STATUS_STOPPED) e

/-- Put a job on a channel. -/
def State.setJob (s : State) (c : Nat) (j : Option Job) : State := s.setChan c { s.chan c with job := j }

/-- The channel is free again; its engine is too when the channel held it, and what was prefetched for it is of no use. -/
def State.freeChan (s : State) (c : Nat) : State :=
  let s := s.setJob c none
  let r := s.engine (c / 64)
  let r := { r with
    reqs := r.reqs.map (fun q => if q.chan = c ∧ q.prefetch then { q with len := 0 } else q)
    fetched := match r.fetched with | some (q, d) => if q.chan = c then none else some (q, d) | none => none }
  s.setEngine (c / 64) (if r.holder = some c then { r with holder := none } else r)

/-- A burst of channel `c` is in progress. -/
def State.burstOpen (s : State) (c : Nat) : Bool :=
  !s.stopped (c / 64) && (s.engine (c / 64)).reqs.any (fun q => q.chan == c && !q.prefetch)

/-- An entry ends (R382, R385): at once, or when the burst of its channel has ended. `urgent` marks the endings of R385. -/
def State.endEntry (s : State) (c : Option Nat) (r : EntryRef) (en : Ending) : State :=
  match c with
  | none => s.completeRef r en.status en.residue en.d4 en.d5 en.d6 en.d7 en.urgent
  | some c =>
    match (s.chan c).job with
    | some j =>
      if j.ref = r then
        let s := s.when en.urgent (fun s => s.bump (Reg.BM_EVENTS_ABORTS (c / 64)))
        if s.burstOpen c then s.setJob c (some { j with ending := some en })
        else (s.freeChan c).completeRef r en.status en.residue en.d4 en.d5 en.d6 en.d7 en.urgent
      else s.completeRef r en.status en.residue en.d4 en.d5 en.d6 en.d7 en.urgent
    | none => s.completeRef r en.status en.residue en.d4 en.d5 en.d6 en.d7 en.urgent

/-! ## Transfers -/

def State.xfer (s : State) (x : Nat) : Option Xfer := Tbl.get (fun _ => none) s.bus.xfers x
def State.setXfer (s : State) (x : Nat) (r : Option Xfer) : State :=
  { s with bus := { s.bus with xfers := Tbl.set (fun _ => none) s.bus.xfers x r } }
def State.updXfer (s : State) (x : Nat) (g : Xfer → Xfer) : State :=
  match s.xfer x with
  | some r => s.setXfer x (some (g r))
  | none => s

/-- Round trip of a device's endpoint, 2,500 ticks until it is measured (R58). -/
def State.rttOf (s : State) (h : Nat) : Nat := if s.cf h Cx.rtt = 0 then Config.rttDefault else s.cf h Cx.rtt

/-- Packet size of a transfer's endpoint: 1,024 on endpoint 0 (R54, R59). -/
def State.packetSize (s : State) (x : Xfer) : Nat :=
  if x.kind = .control then 1024 else max 1 (s.cf x.handle Cx.maxPacket)

/-- Window of a transfer's endpoint (R55, R59). -/
def State.windowOf (s : State) (x : Xfer) : Nat := if x.kind = .control then 1 else max 1 (s.cf x.handle Cx.window)

/-- FULL bits of an endpoint's context follow the buffers of its transfer (R173). -/
def State.showFull (s : State) (h w : Nat) (b : List PktBuf) : State :=
  s.setCf h Cx.full (b.foldl (fun a p => setBit a (p.seq % w) true) 0)

/-- EBM address of the packet buffer of sequence number `q` (R162, R173). -/
def State.bufAddr (s : State) (r : Xfer) (q : Nat) : Nat :=
  granuleAddr (s.cf r.handle Cx.slot) + q % s.windowOf r * s.packetSize r

/-- A packet lies in its buffer. -/
def State.fillBuf (s : State) (r : Xfer) (b : PktBuf) : State :=
  if s.cf r.handle Cx.granules = 0 then s else s.ebmWrite (s.bufAddr r b.seq) b.data

/-- The bytes of a packet, from its buffer. -/
def State.bufBytes (s : State) (r : Xfer) (b : PktBuf) : List Byte := s.ebmRead (s.bufAddr r b.seq) b.data.length

/-- FULL of a transfer's endpoint (R173). -/
def State.showBufs (s : State) (r : Xfer) : State := s.showFull r.handle (s.windowOf r) r.bufs

/-- Another transfer of the same endpoint exists. -/
def State.otherXfer (s : State) (x h : Nat) : Bool :=
  s.bus.xfers.any (fun e => e.1 != x && (match e.2 with | some r => r.handle == h | none => false))

def State.gen (s : State) (g : Nat) : GenSt := Tbl.get (fun _ => GenSt.zero) s.mre.gens g
def State.setGen (s : State) (g : Nat) (r : GenSt) : State :=
  { s with mre := { s.mre with gens := Tbl.set (fun _ => GenSt.zero) s.mre.gens g r } }

/-- In the list of waiting transfers, generator `g` stands as 2^40 + g (R194). -/
def genWait : Nat := 2 ^ 40

/-- The transfer belongs to the topology manager. -/
def State.isTm (s : State) (x : Nat) : Bool :=
  match s.xfer x with
  | some q => (match q.owner with | .tm _ => true | _ => false)
  | none => false

/-- What waits for a slot ahead of `x` (R165): all that began to wait before it; ahead of one that does not wait yet, all that waits, and
ahead of a transfer of the topology manager only its others. -/
def State.waitsAhead (s : State) (x : Nat) : List Nat :=
  if s.ebm.waits.contains x then s.ebm.waits.takeWhile (· != x)
  else if s.isTm x then s.ebm.waits.filter s.isTm else s.ebm.waits

/-- `n` granules for `x`, when nothing waits ahead of it and they are free (R165). -/
def State.slotFor (s : State) (x n : Nat) : Option (State × Nat) := if (s.waitsAhead x).isEmpty then s.allocSlot n else none

/-- `x` waits for a slot no more. -/
def State.stopWait (s : State) (x : Nat) : State := { s with ebm := { s.ebm with waits := s.ebm.waits.filter (· != x) } }

/-- `x` begins to wait for a slot, and the wait is counted (R165). -/
def State.startWait (s : State) (x : Nat) : State :=
  if s.ebm.waits.contains x then s
  else
    let l := s.waitsAhead x
    let s := s.bump Reg.EBM_SLOT_WAITS_COUNT
    { s with ebm := { s.ebm with waits := l ++ [x] ++ s.ebm.waits.filter (fun y => !l.contains y) } }

/-- Give a generator the 36 granules of its clips, or let it wait (R165, R194). -/
def State.takeGenSlot (s : State) (g : Nat) : State :=
  let r := s.gen g
  if r.slot.isSome || r.clips.isEmpty then s.stopWait (genWait + g)
  else
    match s.slotFor (genWait + g) 36 with
    | some (s, a) => (s.stopWait (genWait + g)).setGen g { r with slot := some (a, 36) }
    | none => s.startWait (genWait + g)

/-- Give a transfer its slot, or let it wait (R165). -/
def State.takeSlot (s : State) (x : Nat) : State :=
  if genWait ≤ x then s.takeGenSlot (x - genWait) else
  match s.xfer x with
  | none => s
  | some r =>
    if s.cf r.handle Cx.granules ≠ 0 then (s.stopWait x).setXfer x (some { r with waitSlot := false })
    else
      match s.slotFor x (s.npGranules r.handle) with
      | some (s, g) =>
        let s := (s.setCf r.handle Cx.slot g).setCf r.handle Cx.granules (s.npGranules r.handle)
        (s.stopWait x).setXfer x (some { r with waitSlot := false })
      | none => (s.setXfer x (some { r with waitSlot := true })).startWait x

/-- A transfer becomes ready (R54, R165): it takes a number and its slot. -/
def State.beginXfer (s : State) (r : Xfer) : State × Nat :=
  let x := s.bus.nextXfer
  let s := { s with bus := { s.bus with nextXfer := x + 1 } }
  ((s.setXfer x (some { r with readyAt := s.now })).takeSlot x, x)

/-- A transfer with nothing done yet. -/
def newXfer (o : XOwner) (fn : Nat) (k : XKind) (h trunk len : Nat) (chan : Option Nat) (addr : Nat)
    (setup : List Byte) (seq nakLimit : Nat) : Xfer where
  owner := o
  fn := fn
  kind := k
  handle := h
  trunk := trunk
  len := len
  chan := chan
  addr := addr
  crc := false
  setup := setup
  stage := if k = .control then 0 else 1
  first := seq
  next := seq
  ack := seq
  moved := 0
  hostDone := 0
  bufs := []
  data := []
  att := []
  nakCount := 0
  nakMf := none
  nakLimit := max 1 nakLimit
  lastSeen := false
  lastAt := none
  readyAt := 0
  waitSlot := false
  format := 0
  addFcs := false
  clearStall := false
  squash := false

/-! ## Transactions and tags (R44) -/

def npKey (t mf tag : Nat) : Nat := t * 8192 + mf % 2 * 4096 + tag

def State.npTx (s : State) (k : Nat) : Option NpTx := Tbl.get (fun _ => none) s.bus.np k
def State.setNpTx (s : State) (k : Nat) (r : Option NpTx) : State :=
  { s with bus := { s.bus with np := Tbl.set (fun _ => none) s.bus.np k r } }

/-- A non-periodic tag of trunk `t` may be used: it is not open and its quarantine is over (R44). -/
def State.tagFree (s : State) (t tag : Nat) : Bool :=
  (s.npTx (npKey t 0 tag)).isNone && (s.npTx (npKey t 1 tag)).isNone &&
  (match Tbl.get (fun _ => none) s.bus.quarantine (t * 4096 + tag) with
   | none => true
   | some n => decide (n ≤ s.now))

/-- A transaction ends: its tag goes into quarantine for 6,250 ticks (R44). -/
def State.closeTx (s : State) (k : Nat) : State :=
  let s := s.setNpTx k none
  let q := Tbl.set (fun _ => none) s.bus.quarantine (k / 8192 * 4096 + k % 4096) (some (s.now + 6250))
  { s with bus := { s.bus with quarantine := q } }

/-- Close every open transaction of a transfer. -/
def State.closeAll (s : State) (x : Nat) : State :=
  ((s.bus.np.filter (fun e => match e.2 with | some t => t.xfer == x | none => false)).map (·.1)).foldl
    (fun s k => s.closeTx k) s

/-- Transfers that wait for a slot try again, in order: one that finds none keeps back those behind it (R165). -/
def State.serveWaits (s : State) : State := s.ebm.waits.foldl (fun s x => s.takeSlot x) s

/-- Credit of function `f` on trunk `t` is 0 when it has no work left there (R155). -/
def State.noWork (s : State) (t f : Nat) : State :=
  if s.bus.xfers.any (fun e => match e.2 with | some r => r.trunk == t && r.fn == f | none => false) then s
  else { s with ts := { s.ts with credits := Tbl.set (fun _ => 0) s.ts.credits (t * 2048 + f) 0 } }

/-- The oldest transfer of an endpoint goes on from the sequence number of the context (R54, R56). -/
def State.nextOn (s : State) (h : Nat) : State :=
  match s.bus.xfers.find? (fun e => match e.2 with | some r => r.handle == h | none => false) with
  | some (y, some r) =>
    if r.kind = .control then s
    else
      let n := s.cf h Cx.seq
      s.setXfer y (some { r with first := n, next := n, ack := n })
  | _ => s

/-- CLEAR_STALL of an endpoint has completed (R54, R160, R425): HALTED is 0, sequence numbers restart at 0, and a transfer that
waited for it goes on. -/
def State.stallCleared (s : State) (h : Nat) : State :=
  let s := ((s.setCf h Cx.halted 0).setCtx h 3 0).tellCtx h
  let s := { s with bus := { s.bus with resync := s.bus.resync.filter (· != h) } }
  match s.bus.xfers.find? (fun e => match e.2 with | some r => r.handle == h | none => false) with
  | some (y, some r) =>
    if r.kind = .control then s
    else s.setXfer y (some { r with clearStall := false, first := 0, next := 0, ack := 0 })
  | _ => s

/-- The transfer is one of the topology manager. -/
def Xfer.ofTm (r : Xfer) : Bool := match r.owner with | .tm _ => true | _ => false

/-- Transfer `y` goes before transfer `x` of its endpoint (R60, R110, R355): one that has begun on the bus before all others, then the one
that became ready first, and of two that became ready in one tick that of the topology manager. -/
def goesFirst (y : Nat) (q : Xfer) (x : Nat) (r : Xfer) : Bool :=
  let begun (z : Xfer) : Bool := z.stage != 0 || !z.att.isEmpty
  if q.ofTm == r.ofTm || q.readyAt != r.readyAt then decide (y < x) else if begun q == begun r then q.ofTm else begun q

/-- Another transfer of the same endpoint goes first. Address 0 is one device for each subtree. -/
def State.behind (s : State) (x : Nat) (r : Xfer) : Bool :=
  s.bus.xfers.any (fun e => e.1 != x && (match e.2 with
    | some q => q.handle == r.handle && (r.handle != 0 || q.trunk == r.trunk) && goesFirst e.1 q x r
    | none => false))

/-- A transfer leaves the bus: open transactions closed, the FULL bits of its packets cleared, slot freed when it was the last of its
endpoint (R165, R175). -/
def State.dropXfer (s : State) (x : Nat) : State :=
  match s.xfer x with
  | none => s
  | some r =>
    let waits := s.behind x r
    let s := (((s.closeAll x).setXfer x none).stopWait x).noWork r.trunk r.fn
    let s := s.when (!waits) (fun s => s.setCf r.handle Cx.full 0)
    let s := if s.otherXfer x r.handle then s.nextOn r.handle
      else if s.cf r.handle Cx.granules = 0 then s
      else (s.freeSlot (s.cf r.handle Cx.slot)).setCf r.handle Cx.granules 0
    s.serveWaits

/-- CQE dwords 4 and 5 of a transfer that ends (R366, R390, R391, R409). -/
def xferDws (r : Xfer) (status : Nat) : Word × Word :=
  match r.kind with
  | .bulkOut => (BitVec.ofNat 32 (r.next % 65536), if r.crc ∧ status = 0 then BitVec.ofNat 32 (crc32 r.data) else 0)
  | .bulkIn =>
    (BitVec.ofNat 32 (b2n (r.lastSeen && decide (r.moved < r.len)) + 2 * b2n (r.crc && r.lastSeen && r.bufs.isEmpty && status == St.aborted)), 0)
  | .control => (BitVec.ofNat 32 (min r.stage 2), 0)
  | .tunnelTx => (BitVec.ofNat 32 (r.next % 65536), 0)
  | .tunnelRx =>
    let n := r.data.length
    let bad := r.format = 0 ∧ field r.data (n - 4) 4 ≠ crc32 (r.data.take (n - 4))
    (BitVec.ofNat 32 (b2n (decide (bad ∧ status = 0)) + 2 * b2n (decide (r.len < n)) + 4 * r.format), BitVec.ofNat 32 n)

/-- The packets of a transfer have gone through when it is a bulk or tunnel transfer. -/
def isBulk : XKind → Bool
  | .control => false
  | _ => true

/-- A transfer ends with a status (R58, R109, R175): what it served is told. An endpoint whose transfer is squashed with a packet
unacknowledged is resynchronised (R425). -/
def State.endXfer (s : State) (x status : Nat) (urgent : Bool := false) : State :=
  match s.xfer x with
  | none => s
  | some r =>
    let (d4, d5) := xferDws r status
    let s := if s.inReset r.fn && isBulk r.kind && !r.att.isEmpty && !s.bus.resync.contains r.handle then
        { s with bus := { s.bus with resync := r.handle :: s.bus.resync } }
      else s
    let s := s.dropXfer x
    match r.owner with
    | .entry ref => s.endEntry r.chan ref ⟨status, r.moved, d4, d5, 0, 0, urgent⟩
    | .view v => s.endAccess v status r.data
    | .tm _ => s

/-! ## Clips (R194) -/

/-- The channel that carries an entry (R373). -/
def State.chanOf (s : State) (r : EntryRef) : Option Nat :=
  (s.bm.chans.find? (fun c => match c.2.job with | some j => j.ref == r | none => false)).map (·.1)

/-- A clip's entry ends with the fields of R194. -/
def State.endClip (s : State) (c : ClipRun) (status : Nat) (urgent : Bool := false) : State :=
  let f := c.first.getD 0
  s.endEntry (s.chanOf c.ref) c.ref
    ⟨status, 0, BitVec.ofNat 32 f, BitVec.ofNat 32 (f / 2 ^ 32), BitVec.ofNat 32 c.under, BitVec.ofNat 32 c.played, urgent⟩

/-- A generator with no clip left frees its slot, or waits for none any more (R165). -/
def State.restGen (s : State) (g : Nat) : State :=
  let r := s.gen g
  if r.clips.isEmpty then
    let s := { s with ebm := { s.ebm with waits := s.ebm.waits.filter (· != genWait + g) } }
    match r.slot with
    | some a => ((s.setGen g { r with slot := none }).freeSlot a.1).serveWaits
    | none => s.serveWaits
  else s

/-! ## Attempts (R58) -/

def attOf (l : List Att) (seq : Nat) : Att := (l.find? (fun a => a.seq == seq)).getD ⟨seq, 0, 0, none⟩
def setAtt (l : List Att) (a : Att) : List Att := a :: removeFirst (fun b => b.seq == a.seq) l

/-- An attempt fails (R58): retried from the next opportunity, or the transfer ends with RETRY_EXHAUSTED at the fourth
failure. A squashed transfer ends when its last open attempt ends (R423). -/
def State.failAttempt (s : State) (x seq : Nat) : State :=
  match s.xfer x with
  | none => s
  | some r =>
    let a := attOf r.att seq
    if 4 ≤ a.fails + 1 then s.endXfer x St.retryExhausted
    else s.setXfer x (some { r with att := setAtt r.att { a with fails := a.fails + 1, split := none } })

/-- A NAK (R58): the same packet goes again no earlier than the next microframe; the transfer's count of microframes
with a NAK grows, and above the limit it ends with TIMEOUT. TUNNEL_RX has no limit (R411). A NAK that answers a token
sent at tick `start`, before the LAST packet arrived, belongs to no transfer (R56). -/
def State.nakAttempt (s : State) (x seq start : Nat) : State :=
  match s.xfer x with
  | none => s
  | some r =>
    let a := attOf r.att seq
    let r := { r with att := setAtt r.att { a with notBefore := s.mfN + 1, split := none } }
    if (r.kind == .bulkIn || r.kind == .tunnelRx) && (match r.lastAt with | some n => decide (start ≤ n) | none => false) then
      s.setXfer x (some r)
    else
      let n := if r.nakMf = some s.mfN then r.nakCount else r.nakCount + 1
      let s := s.setXfer x (some { r with nakCount := n, nakMf := some s.mfN })
      if r.kind ≠ .tunnelRx ∧ r.nakLimit < n then s.endXfer x St.timeout else s

/-- An ACK or accepted DATA sets the NAK count to 0 and settles the packet's attempts (R58). -/
def settle (r : Xfer) (seq : Nat) : Xfer :=
  { r with nakCount := 0, nakMf := none, att := removeFirst (fun a => a.seq == seq) r.att }

/-- Save the endpoint's sequence numbers in its context (R54, R160). -/
def State.saveSeq (s : State) (r : Xfer) : State :=
  match r.kind with
  | .control | .bulkOut | .tunnelTx => ((s.setCf r.handle Cx.seq r.next).setCf r.handle Cx.ackSeq r.ack).tellCtx r.handle
  | .bulkIn | .tunnelRx => (s.setCf r.handle Cx.seq r.next).tellCtx r.handle

/-! ## Locked sequences (R404 to R408) -/

/-- In a transaction's transfer number, the locked sequence of view `k` stands as 2^41 + k. -/
def lockWait : Nat := 2 ^ 41

/-- The access that a view has open. -/
def State.openAcc (s : State) (k : Nat) : Option Acc := (s.view k).open_

/-- The AtomicOp of a view ends with a status; `old` answers it when the status is OK. -/
def State.lockEnd (s : State) (k status : Nat) : State :=
  match (s.view k).lock, s.openAcc k with
  | some l, some a =>
    let s := s.closeAll (lockWait + k)
    let s := s.updView k (fun v => { v with lock := none })
    let s := s.when (status == 0) (fun s => s.bump Reg.XB_LOCK_COUNT_DONE)
    let s := s.when (status == St.lockContended) (fun s => s.bump Reg.XB_LOCK_COUNT_CONTENDED)
    s.endAccess k status (leBytes a.width (l.old.getD 0))
  | _, _ => s

end Sys2Proof.Machine
end

