-- ==== Sys2Proof/Machine/Coding.lean ====
section
/-! DEFINITION. The block coding of a lane (R73 to R78, R81, R94): blocks and their scrambler, the byte stream of a trunk and its gaps, how a
receiver loses and finds delineation, the striping over the lanes, markers, training frames, and the pseudo-random sequences. What the device
puts out is traced as packets and control blocks; here is what they are on the lanes. -/

namespace Sys2Proof.Machine

/-! ## Blocks (R73, R74) -/

/-- A block: whether its sync header marks a control block, and its 8 payload bytes. -/
structure Block where
  control : Bool
  payload : List Byte
  deriving DecidableEq, Repr

/-- Types of control blocks. -/
def Ct.idle : Nat := 0x1E
def Ct.sync : Nat := 0x2D
def Ct.lpi : Nat := 0x4B
def Ct.retrain : Nat := 0x5A
def Ct.marker : Nat := 0xA5
def Ct.train : Nat := 0xC3
def controlTypes : List Nat := [Ct.idle, Ct.sync, Ct.lpi, Ct.retrain, Ct.marker, Ct.train]

/-- A control block whose bytes 1 to 7 are 0. -/
def ctlBlock (typ : Nat) : Block := ⟨true, padTo 8 [BitVec.ofNat 8 typ]⟩

/-- The type of a control block. -/
def Block.typ (b : Block) : Nat := field b.payload 0 1

/-- The bits of bytes as they are sent: byte 0 first, each byte least significant bit first. -/
def lineBits (b : List Byte) : List Bool := b.flatMap (fun x => (List.range 8).map (fun i => nbit x.toNat i))

/-- The sync header as it is sent, its left digit first: 01 for data, 10 for control. -/
def Block.header (b : Block) : List Bool := [b.control, !b.control]

/-- The scrambler covers every payload but those of markers and training headers. -/
def Block.scrambles (b : Block) : Bool := !(b.control && (b.typ == Ct.marker || b.typ == Ct.train))

/-- One step of the self-synchronising scrambler x^58 + x^39 + 1: `st` holds the last 58 scrambled bits, the newest in bit 0. The answer is the
scrambled bit and the new state. -/
def scrambleBit (st : Nat) (b : Bool) : Bool × Nat :=
  let o := b ^^ (nbit st 38 ^^ nbit st 57)
  (o, (2 * st + b2n o) % 2 ^ 58)

/-- One step of the descrambler, whose state holds the last 58 received bits. -/
def descrambleBit (st : Nat) (b : Bool) : Bool × Nat := (b ^^ (nbit st 38 ^^ nbit st 57), (2 * st + b2n b) % 2 ^ 58)

/-- Bits through a scrambler or descrambler. -/
def throughBits (f : Nat → Bool → Bool × Nat) : Nat → List Bool → List Bool × Nat
  | st, [] => ([], st)
  | st, b :: r =>
    let (o, st) := f st b
    let (l, st) := throughBits f st r
    (o :: l, st)

/-- The 66 bits of a block on a lane, and the state of the lane's scrambler after it. -/
def Block.line (b : Block) (st : Nat) : List Bool × Nat :=
  if b.scrambles then
    let (l, st) := throughBits scrambleBit st (lineBits b.payload)
    (b.header ++ l, st)
  else (b.header ++ lineBits b.payload, st)

/-- The blocks of a lane, one after the other. -/
def laneLine : Nat → List Block → List Bool
  | _, [] => []
  | st, b :: r =>
    let (l, st) := b.line st
    l ++ laneLine st r

/-- What a receiver holds of a block: sync header, in the order of its two digits, and payload after descrambling. The headers 00 and 11, and a
control block of an unknown type, are block errors. -/
def blockError (header : BitVec 2) (payload : BitVec 64) : Bool :=
  header == 0 || header == 3 || (header == 2 && !controlTypes.contains (payload.toNat % 256))

/-! ## The byte stream of a trunk (R75) -/

/-- KINDs of the table Packet kinds (R39). -/
def packetKinds : List Nat :=
  [0x01, 0x02, 0x03, 0x04, 0x10, 0x11, 0x12, 0x14, 0x15, 0x16, 0x18, 0x19, 0x1C, 0x1D, 0x40, 0x60, 0x61, 0x62, 0x63, 0x64, 0x65, 0x66]

/-- What a trunk has to send: a packet, a control block without fields, or one with its payload (RETRAIN). -/
inductive LineItem
  | pkt (b : List Byte)
  | ctl (typ : Nat)
  | raw (payload : BitVec 64)
  deriving DecidableEq, Repr

/-- The stream in the making: the blocks that are whole, newest first, the bytes of the data block that is not, and the gap bytes since the last
packet. -/
structure LineAcc where
  done : List Block
  cur : List Byte
  gap : Nat
  deriving DecidableEq, Repr

/-- Bytes into the stream: every eighth one completes a data block. -/
def LineAcc.put (a : LineAcc) : List Byte → LineAcc
  | [] => a
  | b :: r =>
    let c := a.cur ++ [b]
    if c.length = 8 then LineAcc.put { a with done := ⟨false, c⟩ :: a.done, cur := [] } r else LineAcc.put { a with cur := c } r

/-- Filler completes the data block. -/
def LineAcc.fill (a : LineAcc) : LineAcc :=
  if a.cur.isEmpty then a
  else { done := ⟨false, padTo 8 a.cur⟩ :: a.done, cur := [], gap := a.gap + (8 - a.cur.length) }

/-- One item goes into the stream: a packet after at least 8 gap bytes, a control block between whole data blocks. -/
def LineAcc.item (a : LineAcc) : LineItem → LineAcc
  | .pkt b => { (a.put (List.replicate (8 - a.gap) 0 ++ b)) with gap := 0 }
  | .ctl t =>
    let a := a.fill
    { a with done := ctlBlock t :: a.done, gap := a.gap + 8 }
  | .raw p =>
    let a := a.fill
    { a with done := ⟨true, leBytes 8 p.toNat⟩ :: a.done, gap := a.gap + 8 }

/-- The blocks of a trunk that sends the items, the first one after a control block. -/
def trunkBlocks (l : List LineItem) : List Block := ((l.foldl LineAcc.item ⟨[], [], 8⟩).fill).done.reverse

/-- Block `i` of a trunk of `w` lanes goes out on lane `i mod w` (R77): the blocks of lane `n`. -/
def stripe (w n : Nat) (l : List Block) : List Block := ((l.zipIdx).filter (fun x => x.2 % w == n)).map (·.1)

/-! ## Delineation (R76) -/

/-- What a receiver meets that makes it lose delineation, or does not. -/
def loses : DelinCause → Bool
  | .gap b n => b != 0 && decide (n < 8)
  | .kind b => !packetKinds.contains b.toNat
  | .length n => decide (1024 < n.toNat)
  | .block h p => blockError h p

/-- Length of a packet by its KIND, and LENGTH of a DATA. -/
def packetLen (kind len : Nat) : Nat := if kind = 0x40 then 16 + len else if 0x60 ≤ kind then 8 else 16

/-- The packets that a receiver finds in a stream of bytes: `gap` counts the gap bytes since the last packet. `none` stands for a loss of
delineation. -/
def delineate : Nat → Nat → List Byte → List (Option (List Byte))
  | 0, _, _ => []
  | _, _, [] => []
  | n + 1, gap, b :: r =>
    if b = 0 then delineate n (gap + 1) r
    else if gap < 8 || !packetKinds.contains b.toNat then [none]
    else if b.toNat = 0x40 && decide (1024 < field (b :: r) 8 2) then [none]
    else
      let k := packetLen b.toNat (field (b :: r) 8 2)
      some ((b :: r).take k) :: delineate n 0 ((b :: r).drop k)

/-! ## Markers (R78) and training frames (R81) -/

/-- An alignment marker: LANE and WIDTH, PORT and BIP, and their complement. -/
def markerRaw (laneByte port bip : Nat) : BitVec 64 :=
  let b := leBytes 1 Ct.marker ++ leBytes 1 laneByte ++ leBytes 1 port ++ leBytes 1 bip
  BitVec.ofNat 64 (leNat (b ++ b.map (~~~ ·)))

/-- A received marker is one: its type, and CHECK. -/
def markerGood (raw : BitVec 64) : Bool :=
  let b := leBytes 8 raw.toNat
  field b 0 1 == Ct.marker && b.drop 4 == (b.take 4).map (~~~ ·)

/-- BIP of the blocks of a lane since its previous marker, from their payloads as they are sent. -/
def bipOf (l : List (List Byte)) : Byte := l.foldl (fun a p => p.foldl (· ^^^ ·) a) 0

/-- A pseudo-random sequence x^a + x^b + 1: `st` holds the last bits, the newest in bit 0 (R81, R94). -/
def prbsBit (a b st : Nat) : Bool × Nat :=
  let o := nbit st (a - 1) ^^ nbit st (b - 1)
  (o, (2 * st + b2n o) % 2 ^ a)
def prbs7 (st : Nat) : Bool × Nat := prbsBit 7 6 st
def prbs31 (st : Nat) : Bool × Nat := prbsBit 31 28 st

/-- Bits with those from place `at_` on, `len` of them, inverted (R95). -/
def flipRun (at_ len : Nat) (l : List Bool) : List Bool := l.zipIdx.map (fun x => x.1 ^^ (decide (at_ ≤ x.2) && decide (x.2 < at_ + len)))

/-- `n` bits of a sequence, and its state after them. -/
def prbsBits (f : Nat → Bool × Nat) : Nat → Nat → List Bool × Nat
  | 0, st => ([], st)
  | n + 1, st =>
    let (o, st) := f st
    let (l, st) := prbsBits f n st
    (o :: l, st)

/-- `k` data blocks whose payloads go on with PRBS31, as 66 bits each. -/
def prbsBlocks : Nat → Nat → List Bool × Nat
  | 0, st => ([], st)
  | k + 1, st =>
    let (p, st) := prbsBits prbs31 64 st
    let (r, st) := prbsBlocks k st
    (Block.header ⟨false, []⟩ ++ p ++ r, st)

/-- A training frame on a lane: the header block, and 127 blocks of PRBS31, which runs on from frame to frame. -/
def trainFrame (raw : BitVec 64) (st : Nat) : List Bool × Nat :=
  let (l, st) := prbsBlocks 127 st
  (Block.header ⟨true, []⟩ ++ lineBits (leBytes 8 raw.toNat) ++ l, st)

/-- `k` training frames, back to back. -/
def trainFrames (raw : BitVec 64) : Nat → Nat → List Bool × Nat
  | 0, st => ([], st)
  | k + 1, st =>
    let (l, st) := trainFrame raw st
    let (r, st) := trainFrames raw k st
    (l ++ r, st)

/-! ## A lane (R77, R78, R81) -/

/-- What goes out on a lane: a block, a marker with its LANE and WIDTH byte and its PORT, or training frames with one header. -/
inductive LaneItem
  | block (b : Block)
  | marker (laneByte port : Nat)
  | train (raw : BitVec 64) (frames : Nat)
  deriving DecidableEq, Repr

/-- A lane's sequence in the making: the stream of its trunk, and what has gone out on the lane, newest first. -/
structure LaneAcc where
  trunk : LineAcc
  seq : List LaneItem
  deriving DecidableEq, Repr

/-- Items of the trunk go into its stream: of the blocks that become whole, those of lane `i` of `w` go out on the lane. -/
def LaneAcc.feed (w i : Nat) (a : LaneAcc) (l : List LineItem) : LaneAcc :=
  let c := l.foldl LineAcc.item a.trunk
  let k := a.trunk.done.length
  let new := ((c.done.take (c.done.length - k)).reverse.zipIdx k).filter (fun x => x.2 % w == i)
  ⟨c, new.reverse.map (fun x => .block x.1) ++ a.seq⟩

/-- States of a lane's transmitter: the scrambler, the PRBS31 of the training frames, and the BIP since the last marker. -/
structure LaneTx where
  scr : Nat
  prbs : Nat
  bip : Byte
  deriving DecidableEq, Repr

/-- The bytes of bits as a lane sends them. -/
def bitBytes : Nat → List Bool → List Byte
  | 0, _ => []
  | n + 1, l => BitVec.ofNat 8 (((l.take 8).zipIdx.filter (·.1)).foldl (fun a x => setBit a x.2 true) 0) :: bitBytes n (l.drop 8)

/-- The bits of one item, and the transmitter after it. A marker carries the BIP of the payloads, in scrambled form, since the one before. -/
def LaneItem.bits (x : LaneTx) : LaneItem → List Bool × LaneTx
  | .block b =>
    let (l, st) := b.line x.scr
    (l, { x with scr := st, bip := x.bip ^^^ bipOf [bitBytes 8 (l.drop 2)] })
  | .marker lb p => (Block.header ⟨true, []⟩ ++ lineBits (leBytes 8 (markerRaw lb p x.bip.toNat).toNat), { x with bip := 0 })
  | .train raw k =>
    let (l, st) := trainFrames raw k x.prbs
    (l, { x with prbs := st })

/-- The bits of a lane's sequence. -/
def laneItemBits : LaneTx → List LaneItem → List Bool
  | _, [] => []
  | x, i :: r =>
    let (l, x) := i.bits x
    l ++ laneItemBits x r

end Sys2Proof.Machine
end

