-- ==== Sys2Proof/Machine/PortOps.lean ====
section
/-! DEFINITION. Trunks and their lanes (R71, R80), topology events (R126, R358), the root port state machine (R104 to R109)
and what leaving ENABLED does to traffic (R108). -/

namespace Sys2Proof.Machine

/-! ## Trunks (R71) -/

/-- Lanes of trunk `t` under LX_QUAD_CFG.WIDTH `w`: their number, 0 when no trunk has that number (R71). -/
def widthOf (w i : Nat) : Nat :=
  match w, i with
  | 0, _ => 1
  | 1, 0 => 2
  | 1, 2 => 2
  | 2, 0 => 4
  | 3, 0 => 2
  | 3, 2 => 1
  | 3, 3 => 1
  | _, _ => 0

/-- Lane `n` is a Miodel lane (R276): lanes 0 and 1 of quad PU_CFG.QUAD at width 2, the quad at width 4, that quad and
the next at width 8, while the pair unit is enabled. WIDTH 3 acts as 1 (R315). -/
def State.miodelLane (s : State) (n : Nat) : Bool :=
  s.flag Reg.PU_CTRL_EN &&
  (let q := s.f Reg.PU_CFG_QUAD
   match s.f Reg.PU_CTRL_WIDTH with
   | 0 => n / 4 == q && decide (n % 4 < 2)
   | 2 => n / 4 == q || n / 4 == q + 1
   | _ => n / 4 == q)

/-- The Miodel lanes. -/
def State.miodelLanes (s : State) : List Nat := (List.range 192).filter s.miodelLane

/-- Lanes of trunk `i` of a quad whose lanes 0 and 1 are Miodel lanes (R276). -/
def widthHalf (w i : Nat) : Nat :=
  match w, i with
  | 0, 2 => 1
  | 0, 3 => 1
  | 3, 2 => 1
  | 3, 3 => 1
  | 1, 2 => 2
  | _, _ => 0

/-- Width of trunk `t`, 0 when it does not exist (R71, R276). Numbers from 192 on stand for the root ports of the PARTNER, which its
HOLDER reaches by relay (R298): 192 + t for root port t. -/
def State.width (s : State) (t : Nat) : Nat :=
  let w := s.f (Reg.LX_QUAD_CFG_WIDTH (t / 4))
  if s.miodelLane t || decide (192 ≤ t) then 0
  else if s.miodelLane (t / 4 * 4) then widthHalf w (t % 4)
  else widthOf w (t % 4)

/-- Lanes of trunk `t`. -/
def State.lanesOf (s : State) (t : Nat) : List Nat := numbers t (s.width t)

/-- The trunk that lane `n` belongs to (R71): the highest trunk number up to `n` whose lanes reach it. -/
def State.trunkOf (s : State) (n : Nat) : Nat :=
  if n < n / 2 * 2 + s.width (n / 2 * 2) then n / 2 * 2
  else if n < n / 4 * 4 + s.width (n / 4 * 4) then n / 4 * 4
  else n

/-- Every trunk, in ascending number. -/
def State.trunks (s : State) : List Nat := (List.range 192).filter (fun t => decide (0 < s.width t))

/-! ## Lanes (R80) -/

/-- Lane states (R80). -/
def Ls.disabled : Nat := 0
def Ls.training : Nat := 1
def Ls.aligning : Nat := 2
def Ls.up : Nat := 3
def Ls.retraining : Nat := 4
def Ls.lpi : Nat := 5
def Ls.test : Nat := 6
def Ls.failed : Nat := 7

def State.lane (s : State) (n : Nat) : LaneRec := Tbl.get (fun _ => LaneRec.reset) s.lx.lanes n
def State.updLane (s : State) (n : Nat) (g : LaneRec → LaneRec) : State :=
  { s with lx := { s.lx with lanes := Tbl.upd (fun _ => LaneRec.reset) s.lx.lanes n g } }
def State.trunk (s : State) (t : Nat) : TrunkRec := Tbl.get (fun _ => TrunkRec.reset) s.lx.trunks t
def State.updTrunk (s : State) (t : Nat) (g : TrunkRec → TrunkRec) : State :=
  { s with lx := { s.lx with trunks := Tbl.upd (fun _ => TrunkRec.reset) s.lx.trunks t g } }

def State.laneState (s : State) (n : Nat) : Nat := s.f (Reg.LX_LANE_STATUS_STATE n)

/-- A lane carries its trunk's traffic: UP, RETRAINING or LPI (R80). -/
def laneLive (st : Nat) : Bool := st == 3 || st == 4 || st == 5

/-- A lane state in which its trunk holds: ALIGNING, UP, RETRAINING or LPI (R104). -/
def laneHolds (st : Nat) : Bool := st == 2 || laneLive st

/-- Every lane of the trunk is UP. -/
def State.trunkUp (s : State) (t : Nat) : Bool :=
  !(s.lanesOf t).isEmpty && (s.lanesOf t).all (fun n => s.laneState n == 3)

/-- The Miodel lanes are UP (R276, R280). -/
def State.miodelUp (s : State) : Bool := !s.miodelLanes.isEmpty && s.miodelLanes.all (fun n => s.laneState n == 3)

/-- The port faces downstream (R103). -/
def State.rootRole (s : State) (p : Nat) : Bool := !s.flag (Reg.TM_PORT_CTRL_ROLE p)

/-- Change clocks, resets and boot. -/
def State.updCk (s : State) (g : ClockSt → ClockSt) : State := { s with ck := g s.ck }

/-- The cascade port gives a reference: it is in device role, and its trunk is UP. -/
def State.cascadeSource (s : State) : Bool :=
  let p := s.f Reg.CKG_REF_CFG_CASCADE_PORT
  s.ck.cascade && s.flag Reg.CKG_REF_CFG_CASCADE_EN && decide (p < 192) && !s.rootRole p && s.trunkUp p

/-- The source to use, as CKG_STATUS.SRC codes it: the first that is present. -/
def State.bestSource (s : State) : Option Nat :=
  if s.cascadeSource then some 2
  else if s.ck.miodel && s.flag Reg.PU_CFG_CLK_SRC && s.miodelUp then some 1
  else if s.ck.refclk then some 0
  else none

/-- The attenuator takes the source to use, or holds over without one. -/
def State.reselect (s : State) : State :=
  if s.flag Reg.CKG_STATUS_ROOT_LOCK then
    match s.bestSource with
    | some x =>
      let s := s.setB Reg.CKG_STATUS_HOLDOVER false
      if s.f Reg.CKG_STATUS_SRC = x then s else (s.setF Reg.CKG_STATUS_SRC x).bump Reg.CKG_REF_EVENTS_SWITCHES
    | none => s.setB Reg.CKG_STATUS_HOLDOVER true
  else s

/-- A reference recovered from a trunk is lost when its lanes leave UP (R465): lane `n` leaves `was` for `st`. -/
def State.refFollows (s : State) (n was st : Nat) : State :=
  let a := s.ck.cascade && (s.lanesOf (s.f Reg.CKG_REF_CFG_CASCADE_PORT)).contains n
  let b := s.ck.miodel && s.miodelLane n
  if was = 3 ∧ st ≠ 3 ∧ (a || b) then
    ((s.updCk (fun c => { c with cascade := c.cascade && !a, miodel := c.miodel && !b })).bump Reg.CKG_REF_EVENTS_LOSSES).reselect
  else s

/-- A lane enters a state; the ticks at which its trunk stops or begins to hold, and at which it enters or leaves ALIGNING and UP, are kept (R102). The checker works in TEST alone, so a lane that
leaves it is not locked (R94). -/
def State.setLane (s : State) (n st : Nat) : State :=
  let s := if laneHolds st = laneHolds (s.laneState n) then s else s.updLane n (fun l => { l with changedAt := s.now })
  let held (x : Nat) : Bool := x == 2 || x == 3
  let s := if held st = held (s.laneState n) then s else s.updLane n (fun l => { l with heldAt := s.now })
  let s := if st = Ls.test then s else s.setB (Reg.LX_PRBS_STATUS_LOCKED n) false
  let was := s.laneState n
  (s.setF (Reg.LX_LANE_STATUS_STATE n) st).refFollows n was st

/-- PU_STATUS as it reads: MIODEL_UP follows the lanes (R314). -/
def State.puStatus (s : State) : Word := putBits (s.reg Reg.PU_STATUS) 5 1 (b2n s.miodelUp)

/-- Send a timed frame. -/
def State.sendTimed (s : State) (f : MioOut) : State := if s.miodelUp then s.emit (.mio f) else s

/-- PATH_MARGIN of a trunk (R270): what its last check gave, and 0 while a lane of it is not UP. -/
def State.marginNow (s : State) (t : Nat) : Nat := if s.trunkUp t then (s.trunk t).pathMargin else 0

/-- The trunk is in one of the lane states ALIGNING, UP, RETRAINING and LPI (R104): every lane is. -/
def State.trunkHolds (s : State) (t : Nat) : Bool :=
  !(s.lanesOf t).isEmpty && (s.lanesOf t).all (fun n => laneHolds (s.laneState n))

/-- The trunk is in service (R80): every lane is UP, RETRAINING or LPI; a PARTNER's trunk is its own concern. -/
def State.inService (s : State) (t : Nat) : Bool := decide (192 ≤ t) || (s.lanesOf t).all (fun n => laneLive (s.laneState n))

/-- Ticks of 100 ms. -/
def ms100 : Nat := 2500000

/-- Every lane of the trunk has been in ALIGNING or UP for 100 ms (R102). -/
def State.heldLong (s : State) (t : Nat) : Bool :=
  !(s.lanesOf t).isEmpty && (s.lanesOf t).all (fun n =>
    (s.laneState n == 2 || s.laneState n == 3) && decide ((s.lane n).heldAt + ms100 ≤ s.now))

/-- The trunk has not held for 100 ms, reckoned from the last exit of its port from RESETTING, SUSPENDED or RESUMING at the earliest (R102). -/
def State.downLong (s : State) (t freeAt : Nat) : Bool :=
  decide (freeAt + ms100 ≤ s.now) &&
    (s.lanesOf t).any (fun n => !laneHolds (s.laneState n) && decide ((s.lane n).changedAt + ms100 ≤ s.now))

/-- A lane's grade changes: GRADE_CHANGED is set and the lane-health log takes a record (R89). -/
def State.setGrade (s : State) (n g : Nat) (m : Margins) : State :=
  let old := s.f (Reg.LX_LANE_STATUS_GRADE n)
  if old = g then s
  else
    let s := (s.setF (Reg.LX_LANE_STATUS_GRADE n) g).setB (Reg.LX_LANE_STATUS_GRADE_CHANGED n) true
    let l := s.lx.log ++ [⟨s.mfN, n, old, g, m, s.lx.logSeq⟩]
    { s with lx := { s.lx with log := l.drop (l.length - 1024), logSeq := s.lx.logSeq + 1 } }

/-- LANE and WIDTH byte of a lane's headers and markers (R78), of a Miodel lane by its place in its quad (R276); the byte has no code for eight
lanes, whose two quads both count as four (DESIGN CHOICE, log entry 70). -/
def State.laneByte (s : State) (n : Nat) : Nat :=
  if s.miodelLane n then n % 4 + 4 * (if s.miodelLanes.length = 2 then 1 else 2)
  else
    let t := s.trunkOf n
    (n - t) + 4 * (match s.width t with | 4 => 2 | 2 => 1 | _ => 0)

/-- STATUS byte that a lane sends. -/
def statusByte (l : LaneRec) : Nat := l.stPre + 4 * l.stMain + 16 * l.stPost + 64 * b2n l.rxReadySent

/-- The training header that lane `n` sends (R81). -/
def State.trainHeader (s : State) (n : Nat) : BitVec 64 :=
  let l := s.lane n
  let b := [BitVec.ofNat 8 0xC3, BitVec.ofNat 8 l.request, BitVec.ofNat 8 (statusByte l),
    BitVec.ofNat 8 (s.laneByte n), BitVec.ofNat 8 (s.trunkOf n), 0, 0]
  BitVec.ofNat 64 (leNat (b ++ [BitVec.ofNat 8 (crc8 b)]))

/-- A lane enters TRAINING (R81, R83, R84): its training frames begin; taps at INIT or PRESET unless they are fixed, handshake and RX_READY cleared. -/
def State.startTraining (s : State) (n : Nat) : State :=
  let s := s.setLane n Ls.training
  let s := if s.flag (Reg.LX_TX_TAPS_OVR n) then s
    else if s.flag (Reg.LX_TRAIN_CFG_START_PRESET n) then
      ((s.setF (Reg.LX_TX_TAPS_PRE n) 0).setF (Reg.LX_TX_TAPS_MAIN n) 64).setF (Reg.LX_TX_TAPS_POST n) 0
    else ((s.setF (Reg.LX_TX_TAPS_PRE n) 4).setF (Reg.LX_TX_TAPS_MAIN n) 48).setF (Reg.LX_TX_TAPS_POST n) 12
  let s := s.updLane n (fun l => { l with
    trainAt := some s.now, failedAt := none, upAt := none, readyAt := none, farFull := false, rxReadySent := false, rxReadyGot := false,
    stPre := 0, stMain := 0, stPost := 0, request := 0, farStatus := 0, markLane := none })
  s.emit (.train n (s.trainHeader n))

/-- A lane leaves service: its transmitter is quiet. -/
def State.quietLane (s : State) (n : Nat) : State :=
  (s.setLane n Ls.disabled).updLane n (fun l => { l with trainAt := none, failedAt := none, upAt := none, tries := 0 })

/-- Blocks of 2 µs of IDLE on a lane (R73, R78, R93), rounded up. -/
def wakeIdle : Nat := 379

/-- A lane sends an alignment marker (R78). -/
def State.sendMarker (s : State) (n : Nat) : State :=
  (s.emit (.marker n (s.laneByte n) (s.trunkOf n))).updLane n (fun l => { l with markerAt := s.now })

/-- Lanes of a trunk turn on: 2 µs of IDLE, then a marker on each (R78, R93). -/
def State.lanesOn (s : State) (t : Nat) (l : List Nat) : State :=
  if l.isEmpty then s else l.foldl (fun s n => s.sendMarker n) (s.emit (.ctl t 0x1E (wakeIdle * s.width t)))

/-- The lanes of a port that held its link in low power carry traffic again, each behind a marker (R78, R106). -/
def State.lanesResume (s : State) (p : Nat) : State :=
  let l := (s.lanesOf p).filter (fun n => s.laneState n == 5)
  l.foldl (fun s n => s.setLane n Ls.up) (s.lanesOn p l)

/-- The lanes of a trunk that are enabled and in DISABLED or FAILED train (R80, R102): those that train, hold or test go on. -/
def State.trainIdle (s : State) (t : Nat) : State :=
  (s.lanesOf t).foldl (fun s n =>
    if s.flag (Reg.LX_LANE_CTRL_EN n) && s.f (Reg.LX_LANE_CTRL_MODE n) == 0 && (s.laneState n == 0 || s.laneState n == 7) then
      (s.updLane n (fun l => { l with tries := 0 })).startTraining n
    else s) s

/-- Lanes of a trunk start training where they are enabled for it (R80, R105). -/
def State.trainTrunk (s : State) (t : Nat) : State :=
  (s.lanesOf t).foldl (fun s n =>
    if s.flag (Reg.LX_LANE_CTRL_EN n) && s.f (Reg.LX_LANE_CTRL_MODE n) == 0 then
      (s.updLane n (fun l => { l with tries := 0 })).startTraining n
    else s) s

/-! ## Root ports -/

/-- Port states (R98). -/
def Ps.off : Nat := 0
def Ps.powered : Nat := 1
def Ps.disabled : Nat := 2
def Ps.resetting : Nat := 3
def Ps.enabled : Nat := 4
def Ps.suspended : Nat := 5
def Ps.resuming : Nat := 6

/-- Topology events and disable reasons (R126). -/
def Ev.attach : Nat := 1
def Ev.detach : Nat := 2
def Ev.enabled : Nat := 3
def Ev.disabled : Nat := 4
def Ev.suspended : Nat := 5
def Ev.resumed : Nat := 6
def Ev.remoteWake : Nat := 7
def Ev.enumerated : Nat := 8
def Ev.rebound : Nat := 9
def Ev.groupApplied : Nat := 10
def Ev.hubFault : Nat := 11
def Rs.software : Nat := 1
def Rs.loop : Nat := 2
def Rs.foreign : Nat := 3
def Rs.depth : Nat := 4
def Rs.rtt : Nat := 5
def Rs.enumFailed : Nat := 6
def Rs.budget : Nat := 7
def Rs.routeFull : Nat := 8
def Rs.speedMismatch : Nat := 9
def Rs.trainFailed : Nat := 10
def Rs.linkLost : Nat := 11
def Rs.addrExhausted : Nat := 12
def Rs.pairPort : Nat := 14

def State.port (s : State) (p : Nat) : PortRec := Tbl.get (fun _ => PortRec.reset) s.tree.ports p
def State.updPort (s : State) (p : Nat) (g : PortRec → PortRec) : State :=
  { s with tree := { s.tree with ports := Tbl.upd (fun _ => PortRec.reset) s.tree.ports p g } }
/-- State of a root port (R98); of the peer's, what it has told (R298). -/
def State.portState (s : State) (p : Nat) : Nat :=
  if p < 192 then s.f (Reg.TM_PORT_STATUS_STATE p) else Tbl.get (fun _ => 0) s.pu.peerPorts (p - 192)
/-- The port exists in the present configuration of its quad (R71). -/
def State.portExists (s : State) (p : Nat) : Bool := decide (0 < s.width p)
/-- The port is ENABLED and faces downstream. -/
def State.portEnabled (s : State) (p : Nat) : Bool := s.portState p == 4 && (decide (192 ≤ p) || s.portExists p)

/-! ## Twill paths (R275) -/

/-- Every device the TM knows. -/
def State.devices (s : State) : List DevRec := s.tree.devs.filterMap (·.2)

/-- The other trunk of the Twill subtree whose path 0 or path 1 is trunk `t`, and the trunk of path 0. A SOLO device has
both paths on trunks of its own; in a pair the other path is the peer's. -/
def State.twillPair (s : State) (t : Nat) : Option (Nat × Nat) :=
  (s.devices.findSome? (fun d => match d.path1 with
    | none => none
    | some p => if d.path0.root = t then some (p.root, t) else if p.root = t then some (d.path0.root, d.path0.root)
      else none))

/-- The other path of a trunk that is a Twill path. -/
def State.otherPath (s : State) (t : Nat) : Option Nat := (s.twillPair t).map (·.1)

/-- The preferred path's trunk moves to the other path of the subtree of `t`, when its port is ENABLED (R275). -/
def State.preferOther (s : State) (t : Nat) : State :=
  match s.twillPair t with
  | none => s
  | some (o, z) =>
    let here := if t = z then 0 else 1
    if (s.trunk z).prefPath = here ∧ s.portEnabled o then
      s.updTrunk z (fun r => { r with prefPath := 1 - here, better := 0 })
    else s

/-- Path trunk `t` has changed state, from `was` to `st` (R275): the preferred path moves off a trunk that leaves ENABLED; where both paths change
in one cycle, path 0 is preferred if its port is ENABLED. -/
def State.pathMoves (s : State) (t was st : Nat) : State :=
  if (was = 4) = (st = 4) then s
  else
    let s := s.updTrunk t (fun r => { r with movedAt := some s.now })
    match s.twillPair t with
    | none => s
    | some (o, z) =>
      if (s.trunk o).movedAt = some s.now ∧ s.portEnabled z then s.updTrunk z (fun r => { r with prefPath := 0, better := 0 })
      else if st = 4 then s
      else s.preferOther t

/-- The peer's root port `t` enters a state (R298). -/
def State.setPeerPort (s : State) (t st : Nat) : State :=
  (s.updPu (fun u => { u with peerPorts := Tbl.set (fun _ => 0) u.peerPorts t st })).pathMoves (t + 192) (s.portState (t + 192)) st

/-! ## Devices -/

def State.dev (s : State) (a : Nat) : Option DevRec := Tbl.get (fun _ => none) s.tree.devs a
def State.setDev (s : State) (a : Nat) (d : Option DevRec) : State :=
  if s.dev a = d then s
  else
    let s : State := { s with tree := { s.tree with devs := Tbl.set (fun _ => none) s.tree.devs a d } }
    s.tell (.device (BitVec.ofNat 16 a) d)
def State.hubPort (s : State) (h p : Nat) : Option HubPort := Tbl.get (fun _ => none) s.tree.hubPorts (h * 128 + p)
def State.setHubPort (s : State) (h p : Nat) (r : Option HubPort) : State :=
  if s.hubPort h p = r then s
  else
    let s : State := { s with tree := { s.tree with hubPorts := Tbl.set (fun _ => none) s.tree.hubPorts (h * 128 + p) r } }
    s.tell (.hubPort (BitVec.ofNat 16 h) (BitVec.ofNat 8 p) r)



/-- The device sits directly at a position, by one of its paths: at a root port, or at a port of a hub. -/
def sitsAt (root hub port : Nat) (d : DevRec) : Bool :=
  let at_ (p : TreePath) : Bool := if hub = 0 then p.root == root && p.hops.isEmpty else p.hops.getLast? == some (hub, port)
  at_ d.path0 || (match d.path1 with | some q => at_ q | none => false)

/-- The device that sits directly at a position. -/
def State.devAt (s : State) (root hub port : Nat) : Option DevRec :=
  s.devices.find? (fun d => d.detachedAt.isNone && sitsAt root hub port d)

/-- The device that an event of a position names (R126): the one that sits there; of an event that takes it away, also the one that has
just been detached. -/
def State.eventDev (s : State) (ev root hub port : Nat) : Option DevRec :=
  (s.devAt root hub port).or
    (if ev = 2 ∨ ev = 4 then s.devices.find? (fun d => d.detachedAt == some s.now && sitsAt root hub port d) else none)

/-- A port state through which a path still leads (R108): ENABLED, SUSPENDED or RESUMING. -/
def pathState (st : Nat) : Bool := st == 4 || st == 5 || st == 6

/-- A path leads to its device: every port on it is ENABLED, or held in low power. -/
def State.pathOpen (s : State) (p : TreePath) : Bool :=
  pathState (s.portState p.root) &&
  p.hops.all (fun x => match s.hubPort x.1 x.2 with | some r => pathState r.state | none => false)

/-- A path is usable now: every port on it is ENABLED. -/
def State.pathLive (s : State) (p : TreePath) : Bool :=
  s.portState p.root == 4 &&
  p.hops.all (fun x => match s.hubPort x.1 x.2 with | some r => r.state == 4 | none => false)

/-- The device is reachable (R108). -/
def State.reachable (s : State) (d : DevRec) : Bool :=
  s.pathOpen d.path0 || (match d.path1 with | some p => s.pathOpen p | none => false)

/-- Handles of a device's endpoints: endpoint 0 in both directions and those its descriptors declare (R36). -/
def devHandles (d : DevRec) : List Nat :=
  [d.addr * 16, d.addr * 16 + 8] ++ (d.eps.filter (fun e => e.ep % 8 ≠ 0)).map (fun e => d.addr * 16 + e.ep)

/-! ## Topology events (R126, R358) -/

def topoDws (e : TopoEvent) : List Word :=
  [BitVec.ofNat 32 (0xFFFF * 2 ^ 16), BitVec.ofNat 32 (0xFFFF + e.event * 2 ^ 16), BitVec.ofNat 32 e.mfn,
   BitVec.ofNat 32 (e.mfn / 2 ^ 32),
   BitVec.ofNat 32 (e.hub + e.port * 2 ^ 16 + e.state * 2 ^ 24 + b2n e.root * 2 ^ 27 + b2n e.wakeSeen * 2 ^ 28),
   BitVec.ofNat 32 (e.dev + e.reason * 2 ^ 16), BitVec.ofNat 32 e.serial, BitVec.ofNat 32 (e.serial / 2 ^ 32)]

/-- Two kept events stand for the same port, or are both GROUP_APPLIED (R358). -/
def sameKept (a b : TopoEvent) : Bool :=
  if a.event == Ev.groupApplied || b.event == Ev.groupApplied then a.event == b.event
  else a.root == b.root && a.hub == b.hub && a.port == b.port

/-- Order of the kept events: root ports first in ascending number, then hub ports (R358). -/
def keptBefore (a b : TopoEvent) : Bool :=
  let k (e : TopoEvent) : Nat := (if e.root then 0 else 2 ^ 40) + e.hub * 256 + e.port
  decide (k a < k b)

/-- Write a topology event, or hold it, or merge it (R126, R358). With EN = 0 nothing is written, and a PARTNER writes none
(R293). -/
def State.topoEvent (s : State) (e : TopoEvent) : State :=
  if s.flag Reg.TM_EVENT_CTRL_EN && !s.isPartner then
    let now := if s.tree.held.isEmpty && s.tree.kept.isEmpty then
        s.postEvent (s.f Reg.TM_EVENT_CTRL_CQ) (topoDws e) 2
      else none
    match now with
    | some s => s
    | none =>
      if s.tree.held.length < 1024 then { s with tree := { s.tree with held := s.tree.held ++ [e] } }
      else if s.tree.kept.any (sameKept e) then
        State.bump { s with tree := { s.tree with kept := replaceFirst (sameKept e) (fun _ => e) s.tree.kept } }
          Reg.TM_EVENTS_MERGED_COUNT
      else
        State.bump { s with tree := { s.tree with kept := insertBy keptBefore e s.tree.kept } } Reg.TM_EVENTS_MERGED_COUNT
  else s

/-- A kept event with the port's STATE and REASON as they stand when it is written (R358). -/
def State.kept (s : State) (e : TopoEvent) : TopoEvent :=
  if e.event == Ev.groupApplied then e
  else if e.root then
    { e with state := s.portState e.port
             reason := if e.event == Ev.disabled then s.f (Reg.TM_PORT_STATUS_REASON e.port) else e.reason }
  else match s.hubPort e.hub e.port with
    | some h => { e with state := h.state, reason := if e.event == Ev.disabled then h.reason else e.reason }
    | none => e

/-- Write held, then kept topology events while their ring has room (R358). -/
def State.drainTopo (s : State) : Nat → State
  | 0 => s
  | n + 1 =>
    match s.tree.held, s.tree.kept with
    | e :: r, _ =>
      match s.postEvent (s.f Reg.TM_EVENT_CTRL_CQ) (topoDws e) 2 with
      | some s => State.drainTopo { s with tree := { s.tree with held := r } } n
      | none => s
    | [], e :: r =>
      match s.postEvent (s.f Reg.TM_EVENT_CTRL_CQ) (topoDws (s.kept e)) 2 with
      | some s => State.drainTopo { s with tree := { s.tree with kept := r } } n
      | none => s
    | [], [] => s

/-- The event of a root port (R126): CHANGE is set on every event of the port. -/
def State.rootEvent (s : State) (p ev reason : Nat) : State :=
  let d := s.eventDev ev p 0 0
  let own := decide (p < 192)
  let s := if own then s.setB (Reg.TM_PORT_STATUS_CHANGE p) true else s
  let e : TopoEvent := ⟨ev, s.mfN, 0, p % 192, true, s.portState p, own && s.flag (Reg.TM_PORT_STATUS_REMOTE_WAKE_SEEN p),
    (d.map (·.addr)).getD 0, reason, (d.map (·.serial)).getD 0⟩
  if s.isPartner then s.sendOrdered (fun n => .mirror n (.portEvent (Fin.ofNat 192 p) e)) else s.topoEvent e

/-- The event of a hub port. -/
def State.hubEvent (s : State) (hub p ev reason : Nat) : State :=
  let d := s.eventDev ev 0 hub p
  s.topoEvent ⟨ev, s.mfN, hub, p, false, ((s.hubPort hub p).map (·.state)).getD 0, false, (d.map (·.addr)).getD 0,
    reason, (d.map (·.serial)).getD 0⟩

/-! ## Detach (R108) -/

/-- Set a bit of the port status CHANGE field of a root port (R112). -/
def State.portChange (s : State) (p b : Nat) : State := s.updPort p (fun r => { r with change := setBit r.change b true })

/-- Transfers and locked sequences to a device end with a status (R108, R408). -/
def State.endDevXfers (s : State) (a status : Nat) : State :=
  let s := s.xb.views.foldl (fun s v => match v.2.lock with
    | some l => if l.dev = a then s.lockEnd v.1 status else s
    | none => s) s
  (s.xfersBy (fun r => r.handle / 16 == a)).foldl (fun (s : State) (x : Nat × Xfer) => s.endXfer x.1 status true) s

/-- TM_PORT_RTT of a trunk: the largest RTT and the deepest hub tier among the attached devices (R121, R274). -/
def State.showRtt (s : State) (p : Nat) : State :=
  let t := p % 192
  let on := s.devices.filter (fun d => d.detachedAt.isNone &&
    (d.path0.root % 192 == t || (match d.path1 with | some q => q.root % 192 == t | none => false)))
  let s := s.setF (Reg.TM_PORT_RTT_RTT t) ((on.map (·.rtt)).foldl max 0)
  s.setF (Reg.TM_PORT_RTT_TIERS t) (((on.filter (fun d => d.cls == 1 || d.cls == 2)).map (fun d => d.path0.hops.length + 1)).foldl max 0)

/-- A device becomes DETACHED: its endpoints are marked, its transfers end (R108). -/
def State.detachDev (s : State) (d : DevRec) (status : Nat) : State :=
  let s := (devHandles d).foldl (fun s h => if s.cf h Cx.valid = 1 then (s.setCf h Cx.detached 1).tellCtx h else s) s
  let s := s.setDev d.addr (some { d with detachedAt := some s.now, byReset := status == St.portReset })
  let s := (s.endDevXfers d.addr status).showRtt d.path0.root
  match d.path1 with | some q => s.showRtt q.root | none => s

/-- Every device that no path reaches any more becomes DETACHED (R108): with PORT_RESET when a reset was the cause,
with DEVICE_GONE otherwise. On a PARTNER that is for its HOLDER to say (R291). -/
def State.detachLost (s : State) (status : Nat) : State :=
  if s.isPartner then s
  else s.devices.foldl (fun s d => if d.detachedAt.isNone && !s.reachable d then s.detachDev d status else s) s

/-- The transfers that the TM has open on trunk `p` leave the bus. -/
def State.dropTmXfers (s : State) (p : Nat) : State :=
  ((s.bus.xfers.filter (fun e => match e.2 with | some r => r.owner == .tm p | none => false)).map (·.1)).foldl
    (fun s x => s.dropXfer x) s

/-- The enumeration of a subtree stops, and nothing of it waits any more. -/
def State.dropEnum (s : State) (p : Nat) : State :=
  let s := s.dropTmXfers p
  { s with tree := { s.tree with
      enums := Tbl.set (fun _ => none) s.tree.enums p none, todo := Tbl.set (fun _ => []) s.tree.todo p []
      waiting := s.tree.waiting.filter (fun a => a.root != p) } }

/-- TM_ENUM_STATUS follows the waiting attaches and the subtrees that enumerate (R127). -/
def State.showEnum (s : State) : State :=
  (s.setF Reg.TM_ENUM_STATUS_WAITING (min s.tree.waiting.length 65535)).setF Reg.TM_ENUM_STATUS_ACTIVE
    (min s.tree.enums.length 255)

/-! ## Transitions (R104) -/

/-- Change a root port's state; ENABLE_CHG sets at every entry to ENABLED and every exit from it (R112). A port that leaves ENABLED,
SUSPENDED and RESUMING is silent, and the class 0x03 node on it resets itself (R105). The preferred path follows (R275). -/
def State.toState (s : State) (p st : Nat) : State :=
  let old := s.portState p
  let s := if st < 4 then s.updPort p (fun r => { r with dev := DevNode.reset }) else s
  let s := if (old = 3 ∨ old = 5 ∨ old = 6) ∧ old ≠ st then s.updPort p (fun r => { r with freeAt := s.now }) else s
  let s := s.setF (Reg.TM_PORT_STATUS_STATE p) st
  let s := if s.role = 0 then s
    else s.sendOrdered (fun n => .mirror n (.portEvent (Fin.ofNat 192 p) ⟨0, s.mfN, 0, p, true, st, false, 0, 0, 0⟩))
  let s := if (old = 4) ≠ (st = 4) then s.portChange p 3 else s
  s.pathMoves p old st

/-- A port leaves ENABLED or a state in which a device is attached: endpoints that nothing reaches are detached, and
enumeration below it stops (R108, R109). -/
def State.portLeaves (s : State) (p status : Nat) : State := ((s.detachLost status).dropEnum p).showEnum

/-- Attach (R104): POWERED to DISABLED, ATTACH event with the speed. TM_PORT_STATUS.REASON, the last reason, goes to 0 with the new device
(DESIGN CHOICE, log entry 40). -/
def State.portAttach (s : State) (p speed : Nat) : State :=
  let s := (s.toState p Ps.disabled).setF (Reg.TM_PORT_STATUS_SPEED p) speed
  let s := (s.setF (Reg.TM_PORT_STATUS_REASON p) 0).updPort p (fun r => { r with attached := true, attachMf := s.mfN })
  (s.portChange p 0).rootEvent p Ev.attach speed

/-- A port with a device attached. -/
def portHasDevice (st : Nat) : Bool := decide (2 ≤ st)

/-- Presence lost (R104): to POWERED, DETACH event; the lanes of a port with PRESENCE = 1 train again (R102), the transmitter of another one is
quiet (R98). SPEED reads 0 from then on (DESIGN CHOICE, log entry 40). -/
def State.portPresenceLost (s : State) (p : Nat) : State :=
  if portHasDevice (s.portState p) then
    let s := (s.toState p Ps.powered).portLeaves p St.deviceGone
    let s := (s.setF (Reg.TM_PORT_STATUS_SPEED p) 0).updPort p
      (fun r => { r with attached := false, resetAt := none, suspendAt := none, resumeAt := none, ownReset := false, takeUp := 0 })
    let s := if s.flag (Reg.TM_PORT_CTRL_PRESENCE p) then s.trainIdle p else (s.lanesOf p).foldl (fun s n => s.quietLane n) s
    (s.portChange p 1).rootEvent p Ev.detach 0
  else s

/-- A command of the HOLDER's TM for a root port of its PARTNER (R298): the feature, or ENABLE cleared with a disable reason. -/
def State.peerCommand (s : State) (p feat reason st status : Nat) : State :=
  let s := s.tell (.portCommand (Fin.ofNat 192 p) (reason == 0) feat reason)
  (s.setPeerPort (p - 192) st).detachLost status

/-- A port is disabled with a reason (R104, R126). -/
def State.portDisable (s : State) (p reason status : Nat) : State :=
  if 192 ≤ p then ((s.peerCommand p 5 reason Ps.disabled status).dropEnum p).showEnum
  else
  let s := (s.toState p Ps.disabled).setF (Reg.TM_PORT_STATUS_REASON p) reason
  let s := s.updPort p (fun r => { r with resetAt := none, suspendAt := none, resumeAt := none, ownReset := false, takeUp := 0 })
  (s.portLeaves p status).rootEvent p Ev.disabled reason

/-- Set RESET (R104, R105, R109): reset signalling begins, the transmitter is silent, transfers end with PORT_RESET. The machine of a port in
device role is that of the hub above it (R103). -/
def State.portReset (s : State) (p : Nat) (own : Bool) : State :=
  let st := s.portState p
  if 192 ≤ p then
    let s := s.peerCommand p 2 0 Ps.resetting St.portReset
    if own then s else (s.dropEnum p).showEnum
  else if 2 ≤ st ∧ st ≠ 3 ∧ s.rootRole p then
    let s := s.toState p Ps.resetting
    let s := (s.detachLost St.portReset).updPort p (fun r => { r with
      resetAt := some s.now, signalled := false, suspendAt := none, resumeAt := none, ownReset := own })
    let s := if own then s else (s.dropEnum p).showEnum
    (s.lanesOf p).foldl (fun s n => s.quietLane n) s
  else s

/-- Link lost (R104): DISABLED with LINK_LOST; with AUTO_RECOVER a reset follows. -/
def State.portLinkLost (s : State) (p : Nat) : State :=
  let s := (s.bump (Reg.TM_PORT_ERRORS_LINK_LOSTS p)).portChange p 6
  let s := s.portDisable p Rs.linkLost St.deviceGone
  if s.flag (Reg.TM_PORT_CTRL_AUTO_RECOVER p) && (s.port p).attached then s.portReset p false else s

/-- Set POWER (R104): OFF to POWERED, from where the level of SENSE is watched and timed (R98, R100); with PRESENCE = 1 the lanes train
continually (R102). -/
def State.portPower (s : State) (p : Nat) : State :=
  if s.portState p = 0 ∧ s.portExists p then
    let s := (s.toState p Ps.powered).setB (Reg.TM_PORT_CTRL_POWER p) true
    let s := s.updPort p (fun r => { r with senseAt := s.now, leftAt := if r.sense = .lyborH then none else some s.now })
    if s.flag (Reg.TM_PORT_CTRL_PRESENCE p) then s.trainIdle p else s
  else s

/-- Clear POWER (R104): to OFF from any state; a device that was attached is reported with one DETACH event. REASON and SPEED go to 0
(DESIGN CHOICE, log entry 40). -/
def State.portOff (s : State) (p : Nat) : State :=
  let st := s.portState p
  if st = 0 then s
  else
    let s := (s.toState p Ps.off).setB (Reg.TM_PORT_CTRL_POWER p) false
    let s := (s.lanesOf p).foldl (fun s n => s.quietLane n) s
    let s := (s.setF (Reg.TM_PORT_STATUS_REASON p) 0).setF (Reg.TM_PORT_STATUS_SPEED p) 0
    let s := s.updPort p (fun r => { r with
      attached := false, resetAt := none, suspendAt := none, resumeAt := none, ownReset := false, takeUp := 0 })
    if portHasDevice st && s.rootRole p then
      ((s.portLeaves p St.deviceGone).portChange p 1).rootEvent p Ev.detach 0
    else s

/-- The port becomes ENABLED (R104). REASON goes to 0 (DESIGN CHOICE, log entry 40). -/
def State.portEnable (s : State) (p : Nat) : State :=
  let s := (s.toState p Ps.enabled).setF (Reg.TM_PORT_STATUS_REASON p) 0
  s.updPort p (fun r => { r with resetAt := none, suspendAt := none, resumeAt := none })

/-- Set SUSPEND (R104, R106): 16 LPI blocks on each lane, then the transmitter is quiet. A trunk that no longer holds has lost its link, which wins (R107). -/
def State.portSuspend (s : State) (p : Nat) : State :=
  if s.portState p = 4 ∧ s.trunkHolds p ∧ s.rootRole p then
    let s := (s.toState p Ps.suspended).updPort p (fun r => { r with suspendAt := some s.now })
    let s := (s.lanesOf p).foldl (fun s n => s.setLane n Ls.lpi) (s.emit (.ctl p Ct.lpi (16 * s.width p)))
    (s.portChange p 4).rootEvent p Ev.suspended 0
  else s

/-- Set RESUME, or wake signalling that is honoured (R104, R106, R107): the transmitter sends IDLE and markers again. -/
def State.portResume (s : State) (p : Nat) (wake : Bool) : State :=
  if !s.rootRole p then s
  else if s.portState p = 5 then
    let s := (s.toState p Ps.resuming).updPort p (fun r => { r with resumeAt := some s.now, suspendAt := none })
    let s := s.lanesResume p
    if wake then (s.portChange p 5).rootEvent p Ev.remoteWake 0 else s
  else if s.portState p = 6 then s.setB (Reg.TM_PORT_STATUS_REMOTE_WAKE_SEEN p) true
  else s

/-! ## Coincidences (R107) -/

/-- The SENSE line of a port that takes its presence from it has been off LYBOR-H, the level of every attach, for 1 ms (R100). -/
def State.senseGone (s : State) (p : Nat) : Bool :=
  s.rootRole p && s.f (Reg.TM_PORT_CTRL_PRESENCE p) == 0 &&
    (match (s.port p).leftAt with | some t => decide (t + 25000 ≤ s.now) | none => false)

/-- With PRESENCE = 1, presence is lost: the trunk has been outside the live lane states for 100 ms while the port was neither RESETTING,
SUSPENDED nor RESUMING (R102); a Twill retraining does not lose presence (R91). -/
def State.linkGone (s : State) (p : Nat) : Bool :=
  s.flag (Reg.TM_PORT_CTRL_PRESENCE p) && s.rootRole p && (s.trunk p).twillAt.isNone && (s.portState p == 2 || s.portState p == 4)
    && s.downLong p (s.port p).freeAt

/-- Presence is lost in the cycle of a command that is under way (R107): the loss stands next in the queue, and both fall in one cycle (DESIGN
CHOICE, log entry 42). -/
def State.lossAhead (s : State) (p : Nat) : Bool :=
  portHasDevice (s.portState p) && (match s.pending.head? with
    | some (.presenceLost q) => q.val == p && s.senseGone p
    | some (.linkPresenceLost q) => q.val == p && s.linkGone p
    | _ => false)

end Sys2Proof.Machine
end

