-- ==== Sys2Proof/Machine/SchedOps.lean ====
section
/-! DEFINITION. Schedule memory and admission (R128 to R153, R282, R508): the lists of the trunk trees, the costs and the scan of
the staged schedule, the staging commands, and what a commit switches. -/

namespace Sys2Proof.Machine

/-! ## Lists (R129 to R131) -/

/-- Node (k, p) of trunk `t`. -/
def nodeIx (t k p : Nat) : Nat := t * 511 + (2 ^ k - 1 + p)
/-- A list: node, 1 for the out list. -/
def listIx (node out : Nat) : Nat := node * 2 + out
/-- Key of a list in a bank. -/
def listKey (l bank : Nat) : Nat := l * 2 + bank

def State.bank (s : State) : Nat := s.f Reg.TS_STATUS_BANK
def State.shadow (s : State) : Nat := 1 - s.bank

def State.entries (s : State) (l bank : Nat) : List PEnt := Tbl.get (fun _ => []) s.ts.lists (listKey l bank)
def State.setEntries (s : State) (l bank : Nat) (e : List PEnt) : State :=
  { s with ts := { s.ts with lists := Tbl.set (fun _ => []) s.ts.lists (listKey l bank) e } }

/-- Endpoint or group of an entry: the handle, or the group ID + 0x10_0000. -/
def entKey (e : PEnt) : Nat := if e.kind = 2 then 0x100000 + e.handle else e.handle
/-- The list that a kind belongs to (R130). -/
def outKind (k : Nat) : Nat := if k = 1 ∨ k = 2 then 1 else 0
/-- Order of a list: HANDLE, then KIND (R130). -/
def entBefore (a b : PEnt) : Bool := decide (a.handle < b.handle ∨ (a.handle = b.handle ∧ a.kind < b.kind))

/-- The trunk whose tree trunk `t` walks (R135). -/
def State.treeOf (s : State) (t : Nat) : Nat :=
  if s.flag (Reg.TS_TRUNK_CFG_MIRROR_EN t) then s.f (Reg.TS_TRUNK_CFG_MIRROR t) else t

/-- The levels of a tree. -/
def levels : List Nat := [0, 1, 2, 3, 4, 5, 6, 7, 8]

/-- Entries of tree `t` due in microframe `m` (R131): the response lists, then the out lists, level by level (R132). -/
def State.due (s : State) (t bank m : Nat) : List PEnt :=
  (levels.flatMap (fun k => s.entries (listIx (nodeIx t k (m % 2 ^ k)) 0) bank)) ++
  (levels.flatMap (fun k => s.entries (listIx (nodeIx t k (m % 2 ^ k)) 1) bank))

/-- Every entry of a bank, with its list. -/
def State.allEntries (s : State) (bank : Nat) : List (Nat × PEnt) :=
  s.ts.lists.flatMap (fun x => if x.1 % 2 = bank then x.2.map (fun e => (x.1 / 2, e)) else [])

/-- Free entries of the pool (R129): the active bank's lists, and the copies that the shadow bank has of its own. -/
def State.poolFree (s : State) : Nat :=
  let n := s.ts.lists.foldl (fun a x =>
    if x.1 % 2 = s.bank ∨ s.ts.copied.contains (x.1 / 2) then a + x.2.length else a) 0
  Config.poolEntries - n - s.ts.lostEntries

/-- TS_POOL_FREE and TS_LOG_USED follow. -/
def State.showPool (s : State) : State :=
  (s.setF Reg.TS_POOL_FREE_FREE s.poolFree).setF Reg.TS_LOG_USED_USED
    (s.ts.log.length + s.ts.sealed_.length + s.ts.held.length)

/-! ## Costs (R139, R145) -/

/-- Bytes downstream and upstream of an entry (R139). -/
def costs (e : PEnt) : Nat × Nat :=
  match e.kind with
  | 0 => (24, 24 + e.length)
  | 1 => (48 + e.length, 0)
  | 2 => (48 + e.length, 0)
  | 3 => (24, 16)
  | 4 => (48 + e.length, 16)
  | 5 => (24, 24 + e.length)
  | _ => (24, 16)

def sumD (l : List PEnt) : Nat := l.foldl (fun a e => a + (costs e).1) 0
def sumU (l : List PEnt) : Nat := l.foldl (fun a e => a + (costs e).2) 0
/-- D_t(m) with H = 40 (R139, R140). -/
def downBytes (l : List PEnt) : Nat := 40 + sumD l
/-- A_t(m) (R140). -/
def respBytes (l : List PEnt) : Nat :=
  40 + (l.filter (fun e => outKind e.kind == 0)).foldl (fun a e => a + max (costs e).1 (costs e).2) 0
/-- τ_t(m) (R140). -/
def respTicks (a w : Nat) : Nat := ceilDiv (3125 * a) (189393 * max 1 w)

/-- Cost of an entry in units of 16 bytes (R145). -/
def shareCost (e : PEnt) : Nat := ceilDiv (((costs e).1 + (costs e).2) * 2 ^ (8 - e.k)) 16

/-- The function that owns an endpoint or group (R145, R161). -/
def State.ownerOf (s : State) (key : Nat) : Nat :=
  if key < 0x100000 then s.cf key Cx.function
  else match s.fn.grants.find? (fun g => g.2.groups.any (fun r => decide (r.1 ≤ key - 0x100000 ∧ key - 0x100000 < r.1 + r.2))) with
    | some g => g.1 + 1
    | none => 0

/-- Occupancy of a function in the staged schedule (R145). -/
def State.occupancy (s : State) (f : Nat) : Nat :=
  ((s.allEntries s.shadow).filter (fun x => s.ownerOf (entKey x.2) == f)).foldl (fun a x => a + shareCost x.2) 0

/-- A function's share (R145, R155). -/
def State.share (s : State) (f : Nat) : Share := Tbl.get Share.reset s.ts.shares f

/-! ## Paths to devices -/

/-- The hops of a device on the path through root port `t`. -/
def hopsVia (d : DevRec) (t : Nat) : Option (List (Nat × Nat)) :=
  if d.path0.root = t then some d.path0.hops
  else match d.path1 with
    | some p => if p.root = t then some p.hops else none
    | none => none

/-- Root ports through which a device is reached. -/
def devRoots (d : DevRec) : List Nat :=
  d.path0.root :: (match d.path1 with | some p => [p.root] | none => [])

/-- Trunks whose trees hold the entries of a device (R135, R147): a mirroring trunk has no entries of its own. -/
def State.entTrunks (s : State) (d : DevRec) : List Nat := ((devRoots d).map (fun t => s.treeOf t % 192)).eraseDups

/-- Speed class of the links of a hub port (R99), which stays while its device is detached. -/
def State.hubSpeed (s : State) (h p : Nat) : Nat := ((s.hubPort h p).map (·.link)).getD 0

/-- The device is a Lybor Classic device: its last hop is a Classic port of a translating hub (R62, R101). -/
def State.classicDev (s : State) (d : DevRec) : Bool :=
  match d.path0.hops.getLast? with
  | some (h, p) => s.hubSpeed h p == 1
  | none => false

/-! ## Groups (R123) -/

/-- The staged group changes in order. -/
def State.stagedGroups (s : State) : List StageRec :=
  (s.ts.sealed_ ++ s.ts.log).filter (fun r => match r.cmd with | .group .. => true | _ => false)

/-- Group bound to an OUT endpoint when every staged change has taken effect. -/
def State.stagedBinding (s : State) (d : DevRec) (ep : Nat) : Option Nat :=
  s.stagedGroups.foldl (fun b r => match r.cmd with
    | .group g dv e join => if dv = d.addr ∧ e = ep then
        (if join then some g else if b = some g then none else b) else b
    | _ => b) (Tbl.get (fun _ => none) d.bindings ep)

/-- Devices that have an OUT endpoint bound to group `g` in the staged table. -/
def State.members (s : State) (g : Nat) : List DevRec :=
  s.devices.filter (fun d => (List.range 8).any (fun ep => s.stagedBinding d ep == some g))

/-- Devices that have an OUT endpoint bound to group `g` by the group table in force (R123). -/
def State.listeners (s : State) (g : Nat) : List DevRec := s.devices.filter (fun d => d.bindings.any (fun b => b.2 == some g))

/-- Root ports that are members of group `g` in the staged table (R123, R143). -/
def State.memberRoots (s : State) (g : Nat) : List Nat := ((s.members g).flatMap devRoots).eraseDups

/-- Bitmap of a list of ports. -/
def bitmapOf (l : List Nat) : Nat := l.foldl (fun a p => setBit a p true) 0

/-- Member ports of a hub for group `g` in the staged table (R123). -/
def State.memberPorts (s : State) (h g : Nat) : Nat :=
  bitmapOf ((s.members g).flatMap (fun d => (d.path0.hops ++ (match d.path1 with | some p => p.hops | none => [])).filterMap
    (fun x => if x.1 = h then some x.2 else none)))

/-- The root hub's bitmap of a group in a bank (R123). -/
def State.rootGroup (s : State) (g bank : Nat) : Nat := Tbl.get (fun _ => 0) s.tree.rootGroups (g * 2 + bank)
def State.setRootGroup (s : State) (g bank v : Nat) : State :=
  { s with tree := { s.tree with rootGroups := Tbl.set (fun _ => 0) s.tree.rootGroups (g * 2 + bank) (v % 2 ^ 192) } }

/-! ## Admission (R140 to R144, R282, R508) -/

/-- What refuses a staging command (R144). -/
structure Refuse where
  reason : Nat
  m : Nat
  trunk : Nat
  hub : Nat
  port : Nat
  limit : Nat
  value : Nat
  deriving DecidableEq, Repr

/-- Trunks that walk the tree of trunk `t` (R135). -/
def State.walkersOf (s : State) (t : Nat) : List Nat := (List.range 192).filter (fun x => s.treeOf x == t)

/-- Trunk RTT for admission on tree `t`: the larger of its own and those of the trunks that mirror it (R121, R135). -/
def State.admRtt (s : State) (t : Nat) : Nat :=
  (s.walkersOf t).foldl (fun a x => max a (s.f (Reg.TM_PORT_RTT_RTT x))) (s.f (Reg.TM_PORT_RTT_RTT t))

/-- W_t (R140): the width of the trunk, and in a pair the smaller of the two devices' widths (R274), where the peer has the trunk too. -/
def State.admWidth (s : State) (t : Nat) : Nat :=
  if s.role = 0 ∨ s.pu.peerWidths.getD t 0 = 0 then s.width t else min (s.width t) (s.pu.peerWidths.getD t 0)

/-- The first check that a list of (holds, refusal) finds broken. -/
def firstBroken : List (Bool × Refuse) → Option Refuse
  | [] => none
  | (ok, r) :: l => if ok then firstBroken l else some r

/-- The four conditions of R140 on tree `t` in microframe `m`. -/
def State.checkTrunk (s : State) (t m rtt : Nat) (l : List PEnt) : Option Refuse :=
  let w := s.admWidth t
  let tl := min 3075 (4375 - rtt)
  let tau := respTicks (respBytes l) w
  firstBroken [(decide (l.length ≤ 4096), ⟨1, m, t, 0, 0, 4096, l.length⟩),
    (decide (downBytes l ≤ 151000 * w), ⟨2, m, t, 0, 0, 151000 * w, downBytes l⟩),
    (decide (sumU l ≤ 151000 * w), ⟨3, m, t, 0, 0, 151000 * w, sumU l⟩),
    (decide (tau ≤ tl), ⟨4, m, t, 0, 0, tl, tau⟩)]

/-- The paths of a device on trunk number `t`: on this device's trunk and, in a pair, on the peer's (R274). -/
def pathsOn (d : DevRec) (t : Nat) : List (List (Nat × Nat)) := (hopsVia d t).toList ++ (hopsVia d (t + 192)).toList

/-- The hops that an entry's packets pass on trunk `t`, for a MOUT those of every member (R141). -/
def State.entHops (s : State) (t : Nat) (e : PEnt) : List (Nat × Nat) :=
  if e.kind = 2 then ((s.members e.handle).flatMap (fun d => (pathsOn d t).flatten)).eraseDups
  else match s.dev (e.handle / 16) with
    | some d => (pathsOn d t).flatten.eraseDups
    | none => []

/-- Tier of a hub on trunk `t`. -/
def State.tierOf (s : State) (t h : Nat) : Nat := ((s.dev h).bind (fun d => (pathsOn d t).head?)).elim 0 (fun l => l.length + 1)

/-- Order of links (R508): tier, hub address, port. -/
def State.linkBefore (s : State) (t : Nat) (a b : Nat × Nat) : Bool :=
  let k (x : Nat × Nat) : Nat := s.tierOf t x.1 * 2 ^ 24 + x.1 * 256 + x.2
  decide (k a < k b)

/-- The links below trunk `t` that the entries pass, in order. -/
def State.linksOf (s : State) (t : Nat) (l : List PEnt) : List (Nat × Nat) :=
  ((l.flatMap (s.entHops t)).eraseDups).foldl (fun a x => insertBy (s.linkBefore t) x a) []

/-- One link in microframe `m` (R141). -/
def State.checkLink (s : State) (t m : Nat) (l : List PEnt) (x : Nat × Nat) : Option Refuse :=
  let lim := match s.hubSpeed x.1 x.2 with | 3 => 151000 | 2 => 12500 | _ => 0
  if lim = 0 then none
  else
    let on := l.filter (fun e => (s.entHops t e).contains x)
    firstBroken [(decide (downBytes on ≤ lim), ⟨2, m, t, x.1, x.2, lim, downBytes on⟩),
      (decide (sumU on ≤ lim), ⟨3, m, t, x.1, x.2, lim, sumU on⟩)]

/-- SSPLIT entries whose device sits on a Classic port. -/
def State.splitsOn (s : State) (t : Nat) (l : List PEnt) (x : Nat × Nat) : List PEnt :=
  l.filter (fun e => (e.kind == 3 || e.kind == 4) &&
    (match s.dev (e.handle / 16) with | some d => (pathsOn d t).any (fun p => p.getLast? == some x) | none => false))

/-- One Classic port in microframe `m` (R142). -/
def State.checkClassic (s : State) (t bank m : Nat) (l : List PEnt) (x : Nat × Nat) : Option Refuse :=
  if s.hubSpeed x.1 x.2 = 1 then
    let bytes := (s.splitsOn t l x).foldl (fun a e => a + e.length + 32) 0
    let n (i : Nat) : Nat := (s.splitsOn t (s.due (s.treeOf t) bank ((m + i) % 256)) x).length
    let depth := ((s.dev x.1).map (·.splitDepth)).getD 0
    firstBroken [(decide (bytes ≤ 1250), ⟨11, m, t, x.1, x.2, 1250, bytes⟩),
      (decide (n 0 + n 1 + n 2 ≤ depth), ⟨11, m, t, x.1, x.2, depth, n 0 + n 1 + n 2⟩)]
  else none

/-- Miodel lanes (R276). -/
def State.miodelWidth (s : State) : Nat :=
  match s.f Reg.PU_CTRL_WIDTH with
  | 0 => 2
  | 2 => 8
  | _ => 4

/-- R282, in a pair. -/
def State.checkRecon (s : State) (t m : Nat) (l : List PEnt) : Option Refuse :=
  if s.f Reg.PU_STATUS_ROLE = 0 then none
  else
    let r := (l.filter (fun e => e.kind == 0 || e.kind == 5)).foldl (fun a e => a + e.length + 8) 0
    firstBroken [(decide (r ≤ 24000 * s.miodelWidth), ⟨24, m, t, 0, 0, 24000 * s.miodelWidth, r⟩)]

/-- Every check of trunk `t` in microframe `m` (R508). A Classic port is checked where a split is due on it in any of the three microframes
that its count covers. -/
def State.checkAt (s : State) (bank m t : Nat) : Option Refuse :=
  let l := s.due (s.treeOf t) bank m
  let soon := l ++ s.due (s.treeOf t) bank ((m + 1) % 256) ++ s.due (s.treeOf t) bank ((m + 2) % 256)
  (s.checkTrunk t m (s.admRtt (s.treeOf t)) l).or
    (((s.linksOf t l).findSome? (s.checkLink t m l)).or
      (((s.linksOf t soon).findSome? (s.checkClassic t bank m l)).or (s.checkRecon t m l)))

/-- Trunks that carry entries of a bank. -/
def State.loaded (s : State) (bank : Nat) : List Nat :=
  let ts := (s.ts.lists.filter (fun x => x.1 % 2 == bank)).map (fun x => x.1 / 4 / 511)
  (List.range 192).filter (fun t => ts.contains (s.treeOf t))

/-- The scan of the staged schedule (R508): microframe by microframe, trunk by trunk. -/
def State.scan (s : State) (bank : Nat) : Option Refuse :=
  let ts := s.loaded bank
  (List.range 256).findSome? (fun m => ts.findSome? (fun t => s.checkAt bank m t))

/-- The peak of a function over the hyperperiod, and the lowest microframe that has it (R157). -/
def peak (f : Nat → Nat) : Nat × Nat :=
  (List.range 256).foldl (fun a m => if a.1 < f m then (f m, m) else a) (0, 0)

/-- TS_LOAD registers of a trunk (R157). -/
def State.showLoad (s : State) (t : Nat) : State :=
  let l (m : Nat) : List PEnt := s.due (s.treeOf t) s.shadow m
  let d := peak (fun m => downBytes (l m))
  let u := peak (fun m => sumU (l m))
  let r := peak (fun m => respTicks (respBytes (l m)) (s.admWidth t))
  let n := peak (fun m => (l m).length)
  let s := (s.setF (Reg.TS_LOAD_DOWN_PEAK t) d.1).setF (Reg.TS_LOAD_DOWN_AT t) d.2
  let s := (s.setF (Reg.TS_LOAD_UP_PEAK t) u.1).setF (Reg.TS_LOAD_UP_AT t) u.2
  let s := (s.setF (Reg.TS_LOAD_RESP_PEAK t) r.1).setF (Reg.TS_LOAD_RESP_AT t) r.2
  (s.setF (Reg.TS_LOAD_COUNT_PEAK t) n.1).setF (Reg.TS_LOAD_COUNT_AT t) n.2

/-! ## Staging (R146 to R148) -/

/-- A staged endpoint or group. -/
def State.stagedRec (s : State) (key : Nat) : Option SchedRec := Tbl.get (fun _ => none) s.ts.staged key

/-- The entries that a scheduled endpoint or group needs, with their lists (R129, R131). -/
def State.wanted (s : State) (key : Nat) (r : SchedRec) : List (Nat × PEnt) :=
  let mk (t kind p : Nat) (tw : Bool) (h : Nat) : Nat × PEnt :=
    (listIx (nodeIx t r.k p) (outKind kind), ⟨h, r.length, kind, tw, r.emerg, r.k, p⟩)
  if 0x100000 ≤ key then
    let g := key - 0x100000
    (((s.memberRoots g).map (fun t => s.treeOf t % 192)).eraseDups).map (fun t =>
      mk t 2 r.phase ((s.members g).any (fun d => d.path1.isSome && (s.entTrunks d).contains t)) g)
  else match s.dev (key / 16) with
    | none => []
    | some d =>
      let inn := decide (8 ≤ key % 16)
      let tw := d.path1.isSome
      (s.entTrunks d).flatMap (fun t =>
        if s.classicDev d then
          [mk t (if inn then 3 else 4) r.phase tw key, mk t (if inn then 5 else 6) ((r.phase + 2) % 2 ^ r.k) tw key]
        else [mk t (if inn then 0 else 1) r.phase tw key])

/-- Replace the entries of `key` in the shadow bank by `w`. Every list changed is a new copy (R146). -/
def State.restage (s : State) (key : Nat) (w : List (Nat × PEnt)) : State :=
  let old := ((s.allEntries s.shadow).filter (fun x => entKey x.2 == key)).map (·.1)
  (old ++ w.map (·.1)).eraseDups.foldl (fun s l =>
    let kept := (s.entries l s.shadow).filter (fun e => entKey e != key)
    let new := (w.filter (fun x => x.1 == l)).foldl (fun a x => insertBy entBefore x.2 a) kept
    let s := s.setEntries l s.shadow new
    if s.ts.copied.contains l then s else { s with ts := { s.ts with copied := l :: s.ts.copied } }) s

/-- Entries that the staged copy of a change needs: the new lists whole (R146, R508). -/
def State.copyNeed (s : State) (key : Nat) (w : List (Nat × PEnt)) : Nat :=
  let old := ((s.allEntries s.shadow).filter (fun x => entKey x.2 == key)).map (·.1)
  (old ++ w.map (·.1)).eraseDups.foldl (fun a l =>
    a + ((s.entries l s.shadow).filter (fun e => entKey e != key)).length + (w.filter (fun x => x.1 == l)).length) 0

/-- What a staging command answers. -/
inductive StageAns
  | ok (s : State)
  | refused (r : Refuse)
  | shareExceeded

/-- Lowest interval and largest payload of an endpoint's descriptor (R115). -/
def State.minInterval (s : State) (h : Nat) : Nat :=
  (((s.dev (h / 16)).bind (fun d => d.eps.find? (fun e => e.ep == h % 16))).map (·.minInterval)).getD 0

/-- The per-entry checks of R508 for an ENDPOINT_ADD. -/
def State.checkEntry (s : State) (key k phase length : Nat) : Option Refuse :=
  let grp := decide (0x100000 ≤ key)
  let bound := match s.dev (key / 16) with
    | some d => decide (key % 16 < 8) && (s.stagedBinding d (key % 8)).isSome
    | none => false
  -- a device whose limits have not been checked is not enumerated yet (R121)
  let early := s.tree.enums.any (fun x => match x.2 with
    | some e => e.dev.addr == key / 16 && !e.rebound && !e.secondPath && decide (e.step ≤ 10)
    | none => false)
  let kindOk := grp || (s.cf key Cx.valid == 1 && s.cf key Cx.kind == 0 && !bound && !early)
  let mi := if grp then 0 else s.minInterval key
  let mp := if grp then 192 else min (s.cf key Cx.maxPacket) 192
  let r (reason limit value : Nat) : Refuse := ⟨reason, 0, 0, 0, 0, limit, value⟩
  firstBroken [(kindOk, r 8 0 0), (decide (mi ≤ k), r 5 mi k), (decide (k ≤ 8), r 5 8 k),
    (decide (length ≤ mp), r 6 mp length), (phase == 0xFFFF || decide (phase < 2 ^ k), r 7 (2 ^ k) phase)]

/-- The slot of an endpoint or group in the staged schedule (R164). -/
def State.slotOf (s : State) (key : Nat) : Option (Nat × Nat) := if (s.slotNow key).2 = 0 then none else some (s.slotNow key)

/-- The slot that a new one replaces (R164): the one that the active schedule may use stays in use beside it, any other waits for the rebase
as superseded. -/
def State.replaceSlot (s : State) (key : Nat) : State :=
  let a := s.slotNow key
  if a.2 = 0 then s
  else if (Tbl.get (fun _ => none) s.ts.active key).isSome && (s.oldSlot key).isNone then
    { s with ebm := { s.ebm with oldSlots := Tbl.set (fun _ => none) s.ebm.oldSlots key (some a) } }
  else { s with ebm := { s.ebm with superseded := (key, a.1, a.2) :: s.ebm.superseded } }

/-- LENGTH of a group's record follows the staging command. -/
def State.groupLength (s : State) (key length : Nat) : State :=
  if key < 0x100000 then s else s.setGroupSlot (key - 0x100000) { s.groupSlot (key - 0x100000) with length := length }

/-- Give an endpoint or group the slot of its length (R164). Without a contiguous run that is long enough it is refused with the same reason (DESIGN
CHOICE, log entry 72). -/
def State.stageSlot (s : State) (key length : Nat) : StageAns :=
  let n := periodicGranules length
  if (s.slotNow key).2 = n then .ok (s.groupLength key length)
  else
    let res := s.f Reg.EBM_NP_RESERVE_GRANULES
    let refuse := StageAns.refused ⟨12, 0, 0, 0, 0, s.slotFree - res, n⟩
    if s.slotFree < n + res then refuse
    else match s.allocSlot n with
      | none => refuse
      | some (s1, g) => .ok (((s1.replaceSlot key).setSlotNow key g n).groupLength key length)

/-- Records of the log after one more (R508). -/
def State.logAfter (s : State) : Nat := s.ts.log.length + s.ts.sealed_.length + s.ts.held.length + 1

/-- A staged change is applied and checked (R144, R508): the resources, then the scan, then the cap. `s'` is the state
with the change in its tables, `w` the entries wanted. The cap is that of the function that issues the command (DESIGN CHOICE, log entry 71). -/
def State.tryStage (s s' : State) (key f : Nat) (w : List (Nat × PEnt)) (adds : Bool) : StageAns :=
  let need := s'.copyNeed key w
  if s.poolFree < need then .refused ⟨9, 0, 0, 0, 0, s.poolFree, need⟩
  else if Config.logRecords < s.logAfter then .refused ⟨10, 0, 0, 0, 0, Config.logRecords, s.logAfter⟩
  else
    let c := s'.restage key w
    if adds then
      match c.scan c.shadow with
      | some r => .refused r
      | none =>
        match (c.share f).cap with
        | some n => if n < c.occupancy f then .shareExceeded else .ok c
        | none => .ok c
    else .ok c

/-- Trees touched by a change show their load on every trunk that walks them (R135, R157). -/
def State.showLoads (s : State) (l : List Nat) : State :=
  ((l.map (fun x => x / 2 / 511)).eraseDups.flatMap s.walkersOf).foldl (fun s t => s.showLoad t) s

/-- The phase that R147 chooses: smallest downstream peak, then transaction peak, then the lowest. -/
def State.autoPhase (s : State) (key : Nat) (r : SchedRec) : Nat :=
  let score (p : Nat) : Nat :=
    let w := s.wanted key { r with phase := p }
    let c := s.restage key w
    let at_ (m : Nat) : Bool := w.any (fun x => m % 2 ^ r.k == x.2.phase)
    let ms := (List.range 256).filter at_
    let ts := (w.map (fun x => x.1 / 2 / 511)).eraseDups
    let pk (g : List PEnt → Nat) : Nat :=
      ms.foldl (fun a m => max a (ts.foldl (fun a t => max a (g (c.due t c.shadow m))) 0)) 0
    pk downBytes * 8192 + pk List.length
  ((List.range (2 ^ r.k)).foldl (fun (a : Nat × Nat) p => let v := score p; if v < a.2 then (p, v) else a) (0, 2 ^ 64)).1

/-- ENDPOINT_ADD applied to the shadow bank (R147). -/
def State.applyAdd (s : State) (key k phase length : Nat) (emerg : Bool) (f : Nat) : StageAns :=
  match s.checkEntry key k phase length with
  | some r => .refused r
  | none =>
    let r : SchedRec := ⟨k, if phase = 0xFFFF then 0 else phase, length, emerg, f⟩
    let r := if phase = 0xFFFF then { r with phase := s.autoPhase key r } else r
    let w := s.wanted key r
    let old := ((s.allEntries s.shadow).filter (fun x => entKey x.2 == key)).map (·.1)
    match s.tryStage s key f w false with
    | .ok _ =>
      match s.stageSlot key length with
      | .ok s1 =>
        match s1.tryStage s1 key f w true with
        | .ok c =>
          let c := { c with ts := { c.ts with staged := Tbl.set (fun _ => none) c.ts.staged key (some r) } }
          .ok (c.showLoads (old ++ w.map (·.1)))
        | a => a
      | a => a
    | a => a

/-- ENDPOINT_REMOVE applied to the shadow bank (R148); the slot stays until the rebase. -/
def State.applyRemove (s : State) (key f : Nat) : StageAns :=
  match s.stagedRec key with
  | none => .ok s
  | some _ =>
    let old := ((s.allEntries s.shadow).filter (fun x => entKey x.2 == key)).map (·.1)
    match s.tryStage s key f [] false with
    | .ok c =>
      .ok (State.showLoads { c with ts := { c.ts with staged := Tbl.set (fun _ => none) c.ts.staged key none } } old)
    | a => a

/-- The record joins the staged change log (R146). -/
def State.logStage (s : State) (r : StageRec) : State := { s with ts := { s.ts with log := s.ts.log ++ [r] } }

/-- An endpoint that leaves its group and is scheduled on its own has a slot of its own again (R164, R172). -/
def State.slotBack (s : State) (c : StageCmd) : StageAns :=
  match c with
  | .group _ d ep false =>
    match s.stagedRec (d * 16 + ep) with
    | some r => if (s.slotOf (d * 16 + ep)).isSome then .ok s else s.stageSlot (d * 16 + ep) r.length
    | none => .ok s
  | _ => .ok s

/-- GROUP_SET applied (R123, R143, R508): the staged table changes, and with it the MOUT entries of a scheduled group. `s1` holds the
change in its log. -/
def State.applyGroup (s s1 : State) (g f : Nat) (c : StageCmd) : StageAns :=
  let s1 := s1.setRootGroup g (1 - s.tree.groupBank) (bitmapOf (s1.memberRoots g))
  let key := 0x100000 + g
  match s1.stagedRec key with
  | none => if Config.logRecords < s.logAfter then .refused ⟨10, 0, 0, 0, 0, Config.logRecords, s.logAfter⟩ else s1.slotBack c
  | some r =>
    let w := s1.wanted key r
    let old := ((s1.allEntries s1.shadow).filter (fun x => entKey x.2 == key)).map (·.1)
    match s.tryStage s1 key f w false with
    | .ok _ =>
      match s1.slotBack c with
      | .ok s2 =>
        match s.tryStage s2 key f w true with
        | .ok c => .ok (c.showLoads (old ++ w.map (·.1)))
        | a => a
      | a => a
    | a => a

/-- Apply a staging command to the shadow bank; its record joins the log (R146 to R148). -/
def State.applyStage (s : State) (r : EntryRef) (c : StageCmd) : StageAns :=
  let log (a : StageAns) : StageAns := match a with
    | .ok s' => .ok (s'.logStage ⟨r, c⟩)
    | x => x
  match c with
  | .add key k phase length emerg => log (s.applyAdd key k phase length emerg r.fn.val)
  | .remove key => if (s.stagedRec key).isNone then .ok s else log (s.applyRemove key r.fn.val)
  | .group g .. => s.applyGroup (s.logStage ⟨r, c⟩) g r.fn.val c

/-! ## Damaged lists (R435) -/

/-- The place of the first bad word of a list of a bank. -/
def State.damageOf (s : State) (t k p out bank : Nat) : Option Nat :=
  (s.ts.damaged.find? (fun x => x.1 == t && x.2.1 == k && x.2.2.1 == p && x.2.2.2.1 == bank * 2 + out)).map (·.2.2.2.2)

/-- The list that a mark names. -/
def markList (x : Nat × Nat × Nat × Nat × Nat) : Nat := listIx (nodeIx x.1 x.2.1 x.2.2.1) (x.2.2.2.1 % 2)

/-- At the switch the marks of lists that both banks share go on under the new active bank (R146, R435). -/
def State.marksFollow (s : State) : State :=
  { s with ts := { s.ts with damaged := s.ts.damaged.map (fun x =>
      if s.ts.copied.contains (markList x) then x else (x.1, x.2.1, x.2.2.1, s.shadow * 2 + x.2.2.2.1 % 2, x.2.2.2.2)) } }

/-- At the rebase a superseded list that is damaged is discarded: its entries do not return to the pool (R435). -/
def State.discardDamaged (s : State) : State :=
  let (gone, stay) := s.ts.damaged.partition (fun x => x.2.2.2.1 / 2 == s.shadow)
  let n := gone.foldl (fun a x => a + (s.entries (markList x) s.shadow).length) 0
  { s with ts := { s.ts with damaged := stay, lostEntries := s.ts.lostEntries + n } }

/-! ## Commit (R149 to R151) -/

/-- COMMIT_PENDING. -/
def State.commitPending (s : State) : Bool := s.ts.commit.isSome

/-- Endpoints and groups of the active schedule, and those that a sealed command removes. -/
def State.leaving (s : State) : List Nat :=
  (s.ts.active.map (·.1) ++ s.ts.sealed_.filterMap (fun r => match r.cmd with | .remove k => some k | _ => none)).eraseDups

/-- What the switch to the committed schedule does besides inverting BANK (R146, R149, R160, R164): the sealed records leave
the log, SCHEDULED follows the new schedule, and the slots of what it has no more wait for the rebase. -/
def State.switchBank (s : State) : State :=
  let s := s.marksFollow
  let s := s.setF Reg.TS_STATUS_BANK (1 - s.bank)
  let now := s.ts.staged
  let gone := s.leaving.filter (fun k => (Tbl.get (fun _ => none) now k).isNone)
  let s := { s with ts := { s.ts with prior := s.ts.active, active := now, sealed_ := [] } }
  let s := gone.foldl (fun (s : State) k =>
    let a := s.slotNow k
    let s := if a.2 = 0 then s else { s with ebm := { s.ebm with superseded := (k, a.1, a.2) :: s.ebm.superseded } }
    if 0x100000 ≤ k then s else s.setCf k Cx.scheduled 0) s
  now.foldl (fun s x => match x.2 with
    | none => s
    | some r => if 0x100000 ≤ x.1 then s else (s.setCf x.1 Cx.scheduled 1).setCf x.1 Cx.emerg (b2n r.emerg)) s

/-- An endpoint or group keeps the blocks for which `keep` holds; the other halves hold none (R166). -/
def State.keepBlocks (s : State) (key : Nat) (keep : Nat → Bool) : State :=
  if key < 0x100000 then
    [0, 1].foldl (fun s i => if keep (s.cf key (Cx.mf i)) then s else s.setCf key (Cx.v i) 0) s
  else
    let r := s.groupSlot (key - 0x100000)
    s.setGroupSlot (key - 0x100000) { r with v0 := r.v0 && keep r.mf0, v1 := r.v1 && keep r.mf1 }

/-- The slots that the commit supersedes are freed (R164): the old slot of what has a new one, with the blocks that lie in it, and the slot of
what is not scheduled any more. -/
def State.freeSlots (s : State) : State :=
  let s := s.ebm.oldSlots.foldl (fun (s : State) x => match x.2 with
    | some a => (s.keepBlocks x.1 (fun m => s.fromCommit (blockMf x.1 m))).freeSlot a.1
    | none => s) s
  let s := s.ebm.superseded.foldl (fun (s : State) x =>
    let s := s.freeSlot x.2.1
    if s.slotNow x.1 = x.2 then (s.keepBlocks x.1 (fun _ => false)).setSlotNow x.1 0 0 else s) s
  { s with ebm := { s.ebm with oldSlots := [], superseded := [] } }

/-- The rebase (R149, R435): superseded lists and slots are freed, and the shadow bank holds the active lists again. -/
def State.rebase (s : State) : State :=
  let s := s.discardDamaged
  let s := s.ts.copied.foldl (fun s l => s.setEntries l s.shadow (s.entries l s.bank)) s
  let s := { s with ts := { s.ts with copied := [], staged := s.ts.active } }
  s.freeSlots.showPool

/-- The schedule of microframe `u`: the one that the pending commit brings from its M on, the one before the last commit up to its M, and else
the active one (R22, R149). -/
def State.schedTbl (s : State) (u : Nat) : Tbl (Option SchedRec) :=
  if (match s.ts.commit with | some c => !c.switched && decide (c.m ≤ u) | none => false) then s.ts.staged
  else if u < s.ts.lastM then s.ts.prior else s.ts.active

/-- What an endpoint or group has in the schedule of microframe `u`. -/
def State.schedAt (s : State) (key u : Nat) : Option SchedRec := Tbl.get (fun _ => none) (s.schedTbl u) key

/-- An endpoint gives up every slot that it has: while GROUP_EN is 1 it has none of its own (R172). -/
def State.dropSlot (s : State) (key : Nat) : State :=
  let mine := (s.ebm.superseded.filter (fun x => x.1 == key)).map (·.2) ++ (s.oldSlot key).toList ++ (s.slotOf key).toList
  let s := mine.eraseDups.foldl (fun (s : State) a => s.freeSlot a.1) s
  let s := { s with ebm := { s.ebm with
    oldSlots := Tbl.set (fun _ => none) s.ebm.oldSlots key none, superseded := s.ebm.superseded.filter (fun x => x.1 != key) } }
  if mine.isEmpty then s else ((s.keepBlocks key (fun _ => false)).setSlotNow key 0 0).serveWaits

/-- The log's records are sealed for the pending commit (R149). -/
def State.seal (s : State) : State :=
  { s with ts := { s.ts with sealed_ := s.ts.sealed_ ++ s.ts.log, log := [] } }

/-- The commit shows in TS_STATUS and TS_COMMIT_MF; without one no rebase is in progress. -/
def State.showCommit (s : State) : State :=
  match s.ts.commit with
  | some c =>
    ((s.setF Reg.TS_COMMIT_MF_LO_MF c.m).setF Reg.TS_COMMIT_MF_HI_MF (c.m / 2 ^ 32)).setB Reg.TS_STATUS_COMMIT_PENDING true
  | none => (s.setB Reg.TS_STATUS_COMMIT_PENDING false).setB Reg.TS_STATUS_REBASING false

/-- The device is part of a cascade (R307): a port faces upstream, or a class 0x03 device is attached. -/
def State.inCascade (s : State) : Bool :=
  (List.range 192).any (fun p => s.flag (Reg.TM_PORT_CTRL_ROLE p) && s.portState p == 4) ||
    s.devices.any (fun d => d.cls == 3 && d.detachedAt.isNone)

/-- How far ahead a commit microframe must be (R23). -/
def State.commitLead (s : State) : Nat := if s.role = 0 ∧ s.inCascade = false then 4 else 8

/-- A commit that names M begins: what is staged is sealed (R149). -/
def State.beginCommit (s : State) (m : Nat) (waiting : List EntryRef) : State :=
  State.showCommit { s.seal with ts := { s.seal.ts with commit := some ⟨m, waiting, false⟩ } }

/-- The reference of the command of mirror record `n` from the peer: local index 1 is a CQ, so no entry of this device has
it. -/
def foreignRef (fn : FnId) (n : Nat) : EntryRef := ⟨fn, 1, BitVec.ofNat 16 n⟩

/-- An admin entry of the topology manager's own, for the PARTNER: OPCODE, and dwords 1 to 3. -/
def tmSqe (op d1 d2 d3 : Nat) : Sqe :=
  withOp ⟨Vector.ofFn (fun (i : Fin 16) => match i.val with
    | 1 => BitVec.ofNat 32 d1
    | 2 => BitVec.ofNat 32 d2
    | 3 => BitVec.ofNat 32 d3
    | _ => 0)⟩ op

/-- The TM puts a hub's status endpoint into the schedule (R111) as a staging command of its own, and commits what is staged (R146, R149), 4
microframes later than R23 asks (DESIGN CHOICE, log entry 46). Both commands go to the PARTNER (R134). -/
def State.scheduleStatus (s : State) (h : Nat) : Option State :=
  let k := s.f Reg.TM_CTRL_HUB_POLL
  match s.applyStage (foreignRef 0 0) (.add (h * 16 + 9) k 0xFFFF 8 true) with
  | .ok s =>
    let m := s.mfN + s.commitLead + 4
    let s := s.tell (.command 0 (tmSqe 0x88 (h + 0x90000) (k + 0x800 + 0xFFFF0000) 1) .none (BitVec.ofNat 48 s.mfN))
    let s := s.tell (.command 0 (tmSqe 0x8A 0 (m % 2 ^ 32) (m / 2 ^ 32)) .none (BitVec.ofNat 48 s.mfN))
    some (s.beginCommit m []).showPool
  | _ => none

end Sys2Proof.Machine
end

