-- ==== Sys2Proof/Machine/EccOps.lean ====
section
/-! DEFINITION. Errors of the memories: what an ECC or parity error does in the endpoint buffer memory (R176, R178, R503) and in the schedule
memory (R435). -/

namespace Sys2Proof.Machine

/-! ## Endpoint buffer memory (R176, R178) -/

/-- The granule at an EBM address lies in the run of `n` granules from `g` on. -/
def inRun (a g n : Nat) : Bool := decide (granuleAddr g ≤ a ∧ a < granuleAddr (g + n))

/-- Half of a run of `n` granules from `g` on in which an address lies. -/
def halfOf (a g n : Nat) : Nat := if a < halfAddr g n 1 then 0 else 1

/-- A double-bit error in a context (R176): the endpoint is treated as DETACHED, and its transfers end with ABORTED. -/
def State.contextLost (s : State) (h : Nat) : State :=
  let s := if s.cf h Cx.valid = 1 then s.setCf h Cx.detached 1 else s
  (s.xfersBy (fun r => r.handle == h || (r.kind == .control && r.handle + 8 == h))).foldl
    (fun (s : State) (x : Nat × Xfer) => s.endXfer x.1 St.aborted) s

/-- An EBM address lies in a slot that an endpoint or group holds, the present one or the one it has until the commit (R164). -/
def State.holdsAddr (s : State) (key a : Nat) : Bool :=
  inRun a (s.slotNow key).1 (s.slotNow key).2 || (match s.oldSlot key with | some o => inRun a o.1 o.2 | none => false)

/-- Block `m`, in its half, lies where the address is. -/
def State.blockHit (s : State) (key m a : Nat) : Bool :=
  inRun a (s.blockSlot key m).1 (s.blockSlot key m).2 && halfOf a (s.blockSlot key m).1 (s.blockSlot key m).2 == m % 2

/-- Bytes of a clip's buffer (R194). -/
def clipBytes (samples : Nat) : Nat := ceilDiv (samples * 3) 64 * 64

/-- Stream byte of the next sample. -/
def ClipRun.at_ (c : ClipRun) : Nat := c.played / max 1 c.samples * clipBytes c.samples + c.played % max 1 c.samples * 3

/-- A clip has samples in half `h` of its generator's slot, fetched and not drained yet (R194). -/
def ClipRun.inHalf (h : Nat) (c : ClipRun) : Bool :=
  (List.range 2).any (fun i => let k := c.at_ / 1152 + i; decide (k * 1152 < c.fetched) && (c.h0 + k) % 2 == h)

/-- The clip that fills the half of a generator's slot in which an error was read loses its entry (R176, R194): a generator's slot is one of
the non-periodic slots. -/
def State.clipLost (s : State) (a : Nat) : State :=
  (s.mre.gens.filter (fun x => match x.2.slot with | some o => inRun a o.1 o.2 | none => false)).foldl (fun s x =>
    let h := match x.2.slot with | some o => halfOf a o.1 o.2 | none => 0
    match x.2.clips.find? (·.inHalf h) with
    | some c => ((s.setGen x.1 { x.2 with clips := x.2.clips.filter (fun d => d.ref != c.ref) }).endClip c St.aborted).restGen x.1
    | none => s) s

/-- A double-bit error in a slot (R176): a periodic half holds no block any more, the non-periodic transfer whose packets the slot holds ends with ABORTED, and so does the
clip of a generator's slot. -/
def State.slotLost (s : State) (a : Nat) : State :=
  let hs := (s.devices.flatMap devHandles).filter (fun h => s.holdsAddr h a)
  let s := hs.foldl (fun s h =>
    if s.cf h Cx.kind = 0 then
      [0, 1].foldl (fun s i => if s.blockHit h (s.cf h (Cx.mf i)) a && s.cf h (Cx.mf i) % 2 == i then s.setCf h (Cx.v i) 0 else s) s
    else ((s.bus.xfers.filter (fun e => match e.2 with | some r => r.handle == h && !s.behind e.1 r | none => false)).map (·.1)).foldl
      (fun s x => s.endXfer x St.aborted) s) s
  let s := (s.ebm.groupSlots.filter (fun x => s.holdsAddr (0x100000 + x.1) a)).foldl (fun s x =>
    s.setGroupSlot x.1 { x.2 with
      v0 := x.2.v0 && !s.blockHit (0x100000 + x.1) x.2.mf0 a, v1 := x.2.v1 && !s.blockHit (0x100000 + x.1) x.2.mf1 a }) s
  s.clipLost a

/-- The endpoint or group whose words an EBM address belongs to, as UNIT of a capture (R503). -/
def State.ebmUnit (s : State) (a : Nat) : Nat :=
  if a < 0x2000000 then a / 32
  else match (s.devices.flatMap devHandles).find? (fun h => s.holdsAddr h a) with
    | some h => h
    | none => match s.ebm.groupSlots.find? (fun x => s.holdsAddr (0x100000 + x.1) a) with
      | some x => x.1 + 0x100000
      | none => 0

/-- A read of EBM meets an error (R176, R503); `cause` is 1 for ECC and 2 for parity. -/
def State.ebmHit (s : State) (x : EccHit) (cause : Nat) : State :=
  if x.double then
    let s := s.ebmUncorrected x.addr
    let u := s.ebmUnit x.addr
    let fn := if u < 0x100000 ∧ x.addr < 0x7000000 then s.cf u Cx.function else noFunction
    let s := s.captureError 7 6 cause fn u x.addr
    if x.addr < 0x2000000 then s.contextLost (x.addr / 32)
    else if x.addr < 0x7000000 then s.slotLost x.addr
    else
      let w := x.addr / 8
      let s := s.ebmWrite (w * 8) (List.replicate 8 0)
      if s.ebm.poison.contains w then s else { s with ebm := { s.ebm with poison := w :: s.ebm.poison } }
  else s.bump Reg.EBM_ECC_COUNT_CORRECTED

/-- A word fails its parity on the way to the link layer, or in a transmit buffer, of trunk `t` (R178, R436, R506): handled as a double-bit
error in the word that was read. -/
def State.linkParity (s : State) (t a : Nat) : State := (s.bump (Reg.LNK_PARITY_TX t)).ebmHit ⟨a, true⟩ 2

/-! ## Schedule memory (R435) -/

/-- A double-bit error of schedule memory is captured (R435, R503): scope list, in no function. -/
def State.smError (s : State) (unit addr : Nat) : State := s.captureError 7 4 1 noFunction unit addr

/-- UNIT of a list (R503): trunk, node index, out list, shadow bank. -/
def listUnit (t k p out : Nat) (shadow : Bool) : Nat := t % 256 + 2 ^ 8 * (2 ^ k - 1 + p) + 2 ^ 17 * out + 2 ^ 18 * b2n shadow

/-- UNIT of the change log and the serial table (R503). -/
def tableUnit : Nat := 0xFFFFFFFF

/-- A list of a bank is marked damaged from place `i` on. -/
def State.damage (s : State) (t k p out bank i : Nat) : State :=
  let i := match s.damageOf t k p out bank with
    | some j => min i j
    | none => i
  let rest := s.ts.damaged.filter (fun x => !(x.1 == t && x.2.1 == k && x.2.2.1 == p && x.2.2.2.1 == bank * 2 + out))
  { s with ts := { s.ts with damaged := rest ++ [(t, k, p, bank * 2 + out, i)] } }

/-- The bank whose copy of a list the shadow bank reads: its own, or the active bank's that it shares (R146). -/
def State.bankOf (s : State) (t k p out : Nat) : Nat := if s.ts.copied.contains (listIx (nodeIx t k p) out) then s.shadow else s.bank

/-- An entry that a walk of tree `t` may send: it stands before the first bad word of its list (R435). -/
def State.sound (s : State) (t : Nat) (e : PEnt) : Bool :=
  match s.damageOf t e.k e.phase (outKind e.kind) s.bank with
  | some i => decide ((s.entries (listIx (nodeIx t e.k e.phase) (outKind e.kind)) s.bank).findIdx (· == e) < i)
  | none => true

end Sys2Proof.Machine
end

