-- ==== Sys2Proof/Machine/TmOps.lean ====
section
/-! DEFINITION. The topology manager (R110 to R126, R273, R274, R509): its requests, the steps of enumeration, what a hub's
port status leads to, and the group tables. -/

namespace Sys2Proof.Machine

def State.tmOn (s : State) : Bool := s.flag Reg.TM_CTRL_EN

/-! ## Waiting attaches (R116, R509) -/

/-- Order of the waiting attaches: attach time, root ports first and by their number, hub address, port (R116, R125). -/
def attachBefore (a b : AttachPos) : Bool :=
  let k (x : AttachPos) : Nat := x.mf * 2 ^ 24 + x.hub * 256 + (if x.hub = 0 then x.root % 192 else x.port)
  decide (k a < k b)

/-- An attach or a reset completion joins the waiting ones. -/
def State.await (s : State) (a : AttachPos) : State :=
  State.showEnum { s with tree := { s.tree with waiting := insertBy attachBefore a s.tree.waiting } }

/-- An attach at root port `p` (R116): with EN = 0 it is taken up later (R509); a PARTNER has told it to
its HOLDER. -/
def State.attachSeen (s : State) (p : Nat) : State :=
  if s.isPartner then s
  else if !s.tmOn then s.updPort p (fun r => { r with takeUp := 1 })
  else if s.flag Reg.TM_CTRL_AUTO_ENUM then s.await ⟨p, 0, 0, false, false, s.mfN⟩
  else s

/-- A root port takes an attach with its speed. -/
def State.attached (s : State) (p speed : Nat) : State := (s.portAttach p speed).attachSeen p

/-! ## Requests (R60, R61, R113, R115) -/

/-- A setup payload (R60). -/
def setup (reqtype request value index length : Nat) : List Byte :=
  leBytes 1 reqtype ++ leBytes 1 request ++ leBytes 2 value ++ leBytes 4 index ++ leBytes 2 length ++ leBytes 6 0

/-- Device address, setup payload and OUT data of a request of the TM. PING is no control transfer. -/
def reqForm : TmReq → Nat × List Byte × List Byte
  | .getStatus hub port => (hub, setup 0xA0 0x20 0 port 8, [])
  | .setFeature hub port f => (hub, setup 0x20 0x21 f port 0, [])
  | .clearFeature hub port f => (hub, setup 0x20 0x22 f port 0, [])
  | .setRoute hub port a b => (hub, setup 0x20 0x23 port 0 4, leBytes 2 a ++ leBytes 2 b)
  | .clearRoute hub a b => (hub, setup 0x20 0x24 0 0 4, leBytes 2 a ++ leBytes 2 b)
  | .getDev => (0, setup 0x80 0x01 0x0100 0 32, [])
  | .setAddr a => (0, setup 0x00 0x02 a 0 0, [])
  | .getEp dev ep => (dev, setup 0x80 0x01 (0x0200 + ep) 0 16, [])
  | .ping dev _ => (dev, [], [])
  | .getHub dev => (dev, setup 0x80 0x01 0x0300 0 16, [])
  | .setPath dev path => (dev, setup 0x20 0x26 path 0 0, [])
  | .groupPorts hub g b => (hub, setup 0x20 0x25 g 0 8, leBytes 8 b)
  | .bind dev ep g => (dev, setup 0x00 0x04 g ep 0, [])
  | .clearStall dev h => (dev, setup 0x00 0x05 0 h 0, [])

/-- Bytes of a token or DATA packet (R38, R40). -/
def pktBytes (p : Pkt) : List Byte :=
  let h := leBytes 1 p.kind ++ leBytes 1 p.flags ++ leBytes 2 p.tag ++ leBytes 3 p.handle ++ leBytes 1 (p.inner * 16)
    ++ leBytes 2 p.len ++ leBytes 2 p.seq ++ p.payload
  h ++ leBytes 4 (crc32 h)

/-- PATH of trunk `t` (R135, R273): in a pair whose side is fixed the PARTNER sends the other one. -/
def State.pathOf (s : State) (t : Nat) : Nat :=
  if t < 192 then s.f (Reg.TS_TRUNK_CFG_PATH t)
  else if s.pu.sides.contains (t - 192) then 1 - s.f (Reg.TS_TRUNK_CFG_PATH (t - 192)) else 0

/-- The trunk is a PARTNER's, and its HOLDER reaches it by relay (R298). -/
def State.relays (_ : State) (t : Nat) : Bool := decide (192 ≤ t)

/-- Put a non-periodic packet on trunk `t`, or into a RELAY frame. -/
def State.putNp (s : State) (t : Nat) (p : Pkt) : State :=
  if s.relays t then s.sendTimed (.relay (.send (Fin.ofNat 192 t) (pktBytes p))) else s.emit (.pkt t p)

/-- A request of the TM is sent on trunk `p` (R69, R110): a control transfer becomes ready. A PING waits for the fill of its trunk (R5,
R154). -/
def State.sendReq (s : State) (p : Nat) (q : TmReq) : State :=
  match q with
  | .ping .. => s
  | _ =>
    let (dev, su, data) := reqForm q
    let x := newXfer (.tm p) 0 .control (dev * 16) p (field su 8 2) none 0 su 0 (s.f Reg.EBM_NAK_DEFAULT_LIMIT)
    (s.beginXfer { x with bufs := if data = [] then [] else [⟨1, data, true⟩] }).1

def State.todoOf (s : State) (p : Nat) : List TmItem := Tbl.get (fun _ => []) s.tree.todo p
def State.setTodo (s : State) (p : Nat) (l : List TmItem) : State :=
  { s with tree := { s.tree with todo := Tbl.set (fun _ => []) s.tree.todo p l } }

/-- The next request of a subtree is sent when none is outstanding and the TM is enabled (R116, R509). While the TM's backlog
of events is full, no enumeration step starts (R358). -/
def State.kickTm (s : State) (p : Nat) : State :=
  match s.todoOf p with
  | [] => s
  | it :: r =>
    if it.sent || !s.tmOn || s.isPartner || s.mute || (it.own && decide (1024 ≤ s.tree.held.length)) then s
    else (s.setTodo p ({ it with sent := true } :: r)).sendReq p it.req

/-- Requests join the order of a subtree; those of a pair are the HOLDER's. -/
def State.pushTm (s : State) (p : Nat) (own : Bool) (l : List TmReq) : State :=
  if s.isPartner then s else (s.setTodo p (s.todoOf p ++ l.map (fun q => ⟨q, own, false, none, 0⟩))).kickTm p

/-- The PING that the TM has to send on trunk `t`: the item at the head of the subtree, while none has gone out for it. -/
def State.pingDue (s : State) (t : Nat) : Option Nat :=
  match s.todoOf t with
  | it :: _ => (match it.req with
    | .ping dev _ =>
      if it.sent && it.rtt.isNone && decide (it.tries < 4) && !s.bus.np.any (fun e => match e.2 with
          | some x => x.kind == Pk.ping && e.1 / 8192 == t
          | none => false) then some dev
      else none
    | _ => none)
  | [] => none

/-- A PING has not been answered in its window (R58). -/
def State.pingLate (s : State) (t : Nat) : State :=
  match s.todoOf t with
  | it :: r => (match it.req with
    | .ping .. => s.setTodo t ({ it with tries := it.tries + 1 } :: r)
    | _ => s)
  | [] => s

/-- A PING has been answered (R69): its round trip, from the start of the token, is measured; that of a relayed PING counts all that lies between
(DESIGN CHOICE, log entry 61). -/
def State.pingDone (s : State) (t start : Nat) : State :=
  match s.todoOf t with
  | it :: r => (match it.req with
    | .ping .. => s.setTodo t ({ it with rtt := some (s.now - start) } :: r)
    | _ => s)
  | [] => s

/-- Root port through which requests to a device go: that of path 0, else that of path 1 when only it is open. -/
def State.rootOf (s : State) (dev : Nat) : Nat :=
  match s.dev dev with
  | some d =>
    match d.path1 with
    | some q => if s.pathOpen d.path0 then d.path0.root else if s.pathOpen q then q.root else d.path0.root
    | none => d.path0.root
  | none => 0

/-! ## Routes (R122) -/

def State.routesOf (s : State) (h : Nat) : List Route := Tbl.get (fun _ => []) s.tree.routes h
def State.setRoutes (s : State) (h : Nat) (l : List Route) : State :=
  if s.routesOf h = l then s
  else
    let s : State := { s with tree := { s.tree with routes := Tbl.set (fun _ => []) s.tree.routes h l } }
    s.tell (.routes (BitVec.ofNat 16 h) l)

/-- Remove [a, b] from every entry; an entry that the range cuts in the middle is split. -/
def cutRoutes (a b : Nat) (l : List Route) : List Route :=
  l.flatMap (fun r =>
    if r.last < a ∨ b < r.first then [r]
    else (if r.first < a then [⟨r.first, a - 1, r.port⟩] else []) ++ (if b < r.last then [⟨b + 1, r.last, r.port⟩] else []))

/-- Merge adjacent entries of one port. -/
def mergeRoutes : List Route → List Route
  | [] => []
  | r :: l => match mergeRoutes l with
    | [] => [r]
    | q :: m => if r.last + 1 = q.first ∧ r.port = q.port then ⟨r.first, q.last, r.port⟩ :: m else r :: q :: m

/-- Add an entry and keep the table merged. -/
def addRoute (a b p : Nat) (l : List Route) : List Route :=
  mergeRoutes (insertBy (fun x y => decide (x.first < y.first)) ⟨a, b, p⟩ l)

/-- The port to which a hub routes an address. -/
def State.leads (s : State) (h a : Nat) : Option Nat :=
  ((s.routesOf h).find? (fun r => decide (r.first ≤ a ∧ a ≤ r.last))).map (·.port)

/-- Requests of step 8 for an address (R116, R122): entries that lead elsewhere are cleared first, then each hub of the path
that lacks an entry gets one. -/
def State.routeReqs (s : State) (a : Nat) (hops : List (Nat × Nat)) : List TmReq :=
  let wrong := (s.tree.routes.map (·.1)).filter (fun h => match s.leads h a with
    | some p => h != 0 && !hops.contains (h, p)
    | none => false)
  wrong.map (fun h => .clearRoute h a a) ++
    (hops.filter (fun x => s.leads x.1 a != some x.2)).map (fun x => .setRoute x.1 x.2 a a)

/-! ## Positions -/

/-- The hops from root port `root` to a position: those of the hub, and its port. -/
def State.posHops (s : State) (a : AttachPos) : List (Nat × Nat) :=
  if a.hub = 0 then []
  else match s.dev a.hub with
    | some d => (hopsVia d a.root).getD d.path0.hops ++ [(a.hub, a.port)]
    | none => [(a.hub, a.port)]

/-- The second path of a device below a position: through path 1 of the dual-homed hub above it. -/
def State.posSecond (s : State) (a : AttachPos) : Option TreePath :=
  if a.hub = 0 then none
  else match s.dev a.hub with
    | some d =>
      let here := hopsVia d a.root
      if d.path0.root = a.root ∧ here.isSome then d.path1.map (fun p => ⟨p.root, p.hops ++ [(a.hub, a.port)]⟩)
      else some ⟨d.path0.root, d.path0.hops ++ [(a.hub, a.port)]⟩
    | none => none

/-! ## The record of an enumeration -/

def State.enumOf (s : State) (p : Nat) : Option EnumRec := Tbl.get (fun _ => none) s.tree.enums p
def State.setEnum (s : State) (p : Nat) (e : Option EnumRec) : State :=
  State.showEnum { s with tree := { s.tree with enums := Tbl.set (fun _ => none) s.tree.enums p e } }

/-- A device of which nothing is known. -/
def DevRec.unknown (path : TreePath) : DevRec := ⟨0, 0, 0, 0, 0, 0, [], 0, path, none, none, 0, 0, 0, [], false, false⟩

/-- The trunk of a request of the TM in the subtree of root port `p`: `p` where the device lies on it or is enumerated through it; a hub that
only another root port leads to is reached through that one (R120, R122). -/
def State.tmTrunk (s : State) (p dev : Nat) : Nat :=
  let mine : Bool := match s.enumOf p with | some e => e.dev.addr == dev | none => false
  match s.dev dev with
  | some d => if mine || d.path0.root == p || (match d.path1 with | some q => q.root == p | none => false) then p else s.rootOf dev
  | none => p

/-- The enumeration of a subtree ends; its remaining requests go away. -/
def State.endEnum (s : State) (p : Nat) : State :=
  (s.setTodo p ((s.todoOf p).filter (fun i => !i.own))).setEnum p none

/-- An event of a position: root port or hub port. -/
def State.posEvent (s : State) (a : AttachPos) (ev reason : Nat) : State :=
  if a.hub = 0 then s.rootEvent a.root ev reason else s.hubEvent a.hub a.port ev reason

/-- The requests that clear the routes of 0x0000 which step 3 has set and step 8 has not cleared (R116). -/
def EnumRec.clears (e : EnumRec) : List TmReq := e.zero.map (fun x => TmReq.clearRoute x.1 0 0)

/-- An enumeration stops while TM_CTRL.EN is 0, and is taken up again from step 1 when EN is set (R509); the routes of 0x0000 go first. -/
def State.stopEnum (s : State) (p : Nat) (e : EnumRec) : State :=
  ((s.endEnum p).pushTm p false e.clears).await { e.pos with atStep3 := false, reset := false }

/-- A step fails (R116): the route of 0x0000 is cleared where step 3 set it, the port is disabled with the reason, and
the subtree is released. A new device that has not passed step 11 has no endpoint that can be scheduled (R121). -/
def State.enumFail (s : State) (p : Nat) (e : EnumRec) (reason : Nat) : State :=
  let s := s.endEnum p
  let s := if e.step = 10 ∧ !e.rebound ∧ !e.secondPath then (devHandles e.dev).foldl (fun s h => (s.setCf h Cx.valid 0).tellCtx h) s else s
  let clears := e.clears
  if e.pos.hub = 0 then s.portDisable p reason St.deviceGone
  else
    match s.hubPort e.pos.hub e.pos.port with
    | some hp =>
      if hp.state = 4 then
        let s := s.setHubPort e.pos.hub e.pos.port (some { hp with own := reason })
        s.pushTm p false (clears ++ [.clearFeature e.pos.hub e.pos.port 5])
      else (s.pushTm p false clears).hubEvent e.pos.hub e.pos.port Ev.disabled hp.reason
    | none => s.pushTm p false clears

/-! ## Addresses (R118, R119) -/

/-- The addresses that enumerations in progress have chosen (R118, R119), with the devices they are for. -/
def State.chosen (s : State) : List DevRec :=
  s.tree.enums.filterMap (fun x => x.2.bind (fun e => if 7 ≤ e.step ∧ e.dev.addr ≠ 0 then some e.dev else none))

/-- The address is bound or chosen (R118), or its word of the serial table is lost, and it is never given out (R435). -/
def State.bound (s : State) (a : Nat) : Bool :=
  (s.dev a).isSome || s.tree.lostAddrs.contains a || s.chosen.any (fun d => d.addr == a)

/-- A device lies below the port at the end of `root`, `hops` (R119). -/
def below (d : DevRec) (root : Nat) (hops : List (Nat × Nat)) : Bool :=
  (d.path0.root == root && hops.isPrefixOf d.path0.hops) ||
  (match d.path1 with | some q => q.root == root && hops.isPrefixOf q.hops | none => false)

/-- Address `a` keeps the ranges contiguous along a path (R119): at the root port and at each hub port of the path. -/
def State.contiguous (s : State) (a root : Nat) (hops : List (Nat × Nat)) : Bool :=
  (List.range (hops.length + 1)).all (fun n =>
    let inside := fun d => below d root (hops.take n)
    let all := s.devices ++ s.chosen
    let ins := (all.filter inside).map (·.addr)
    let lo := ins.foldl min a
    let hi := ins.foldl max a
    all.all (fun d => inside d || !(decide (lo ≤ d.addr ∧ d.addr ≤ hi))))

/-- The lowest address from `a` on that satisfies `ok`. -/
def lowest (ok : Nat → Bool) : Nat → Nat → Option Nat
  | 0, _ => none
  | n + 1, a => if ok a then some a else lowest ok n (a + 1)

/-- An address that a device may hold (R35): neither 0x0000 nor 0xFFFF, which stands in broadcasts alone. -/
def addrLegal (a : Nat) : Bool := a != 0 && a != 0xFFFF

/-- The address that the TM gives (R119); `none` when the pool is exhausted. -/
def State.pickAddr (s : State) (root : Nat) (hops : List (Nat × Nat)) : Option Nat :=
  let a := s.f Reg.TM_ADDR_POOL_FIRST
  let n := s.f Reg.TM_ADDR_POOL_LAST + 1 - a
  match lowest (fun x => !s.bound x && addrLegal x && s.contiguous x root hops) n a with
  | some x => some x
  | none => lowest (fun x => !s.bound x && addrLegal x) n a

/-! ## Contexts (R160, R161) -/

/-- The function whose grant holds a handle, or the PF (R161). -/
def State.grantFn (s : State) (h : Nat) : Nat :=
  match s.fn.grants.find? (fun g => g.2.handles.any (fun r => decide (r.1 ≤ h ∧ h < r.1 + r.2))) with
  | some g => g.1 + 1
  | none => 0

/-- Write dwords 0 to 2 of the context of an endpoint of device `d` (R160, R161). DETACHED is kept set for an address
that is rebound, until R120 clears it. -/
def State.writeCtx (s : State) (d : DevRec) (e : EpDesc) (rebound : Bool) : State :=
  let h := d.addr * 16 + e.ep
  let d0 := 1 + 2 * b2n rebound + 8 * (e.kind % 4) + 32 * b2n (nbit e.flags 0) + 128 * b2n d.path1.isSome
    + 256 * b2n (s.classicDev d) + 512 * b2n (nbit e.flags 2) + 2 ^ 12 * (e.maxPacket % 2048) + 2 ^ 23 * (e.window % 16)
  let keep := (s.ctx h 0).toNat
  let d0 := d0 + (if rebound then 64 * (keep / 64 % 2) + 1024 * (keep / 1024 % 2) else 0)
  let d1 := s.grantFn h + 2 ^ 11 * (d.path0.root % 192) +
    (match d.path1 with | some q => 2 ^ 19 * (q.root % 192) + 2 ^ 27 | none => 0)
  let s := (s.setCtx h 0 (BitVec.ofNat 32 d0)).setCtx h 1 (BitVec.ofNat 32 d1)
  let s := s.setCtx h 2 (BitVec.ofNat 32 (2 ^ 16 * s.f Reg.EBM_NAK_DEFAULT_LIMIT))
  (if e.kind = 0 then s else s.setCtx h 3 0).tellCtx h

/-- The path fields of a device's contexts follow its paths (R160). -/
def State.ctxPaths (s : State) (d : DevRec) : State :=
  (devHandles d).foldl (fun s h =>
    let s := (s.setCf h Cx.trunk0 (d.path0.root % 192)).setCf h Cx.twill (b2n d.path1.isSome)
    let s := match d.path1 with
      | some q => (s.setCf h Cx.trunk1 (q.root % 192)).setCf h Cx.t1v 1
      | none => s.setCf h Cx.t1v 0
    s.tellCtx h) s

/-- RTT in every context of a device. -/
def State.ctxRtt (s : State) (d : DevRec) : State := (devHandles d).foldl (fun s h => (s.setCf h Cx.rtt d.rtt).tellCtx h) s

/-- An endpoint descriptor (R115). -/
def parseEp (b : List Byte) : EpDesc :=
  ⟨field b 2 1 % 16, field b 3 1, field b 4 2, field b 6 1, field b 7 1, field b 8 1⟩

/-! ## Steps of enumeration (R116) -/

/-- Step 13 (R116, R120): the event, and the subtree is free. A device that is rebound gets its bindings back first, and
DETACHED is cleared at the next mark. -/
def State.step13 (s : State) (p : Nat) (e : EnumRec) : State :=
  let s := s.endEnum p
  let s := (s.showRtt p).showRtt e.dev.path0.root
  if e.rebound then
    { s with tree := { s.tree with restore := s.tree.restore ++ [(e.dev.addr, true)] } }
  else s.posEvent e.pos Ev.enumerated 0

/-- The bindings of a device that is rebound (R120). -/
def bindReqs (d : DevRec) : List TmReq :=
  d.bindings.filterMap (fun b => b.2.map (fun g => TmReq.bind d.addr b.1 g))

/-- After the limits check: bindings of a rebound device, then step 13. -/
def State.stepBind (s : State) (p : Nat) (e : EnumRec) : State :=
  let l := if e.rebound then bindReqs e.dev else []
  if l.isEmpty then s.step13 p e else (s.setEnum p (some { e with step := 13 })).pushTm p true l

/-- Step 12 (R116): a hub's descriptor is read. -/
def State.step12 (s : State) (p : Nat) (e : EnumRec) : State :=
  if e.dev.cls = 1 ∨ e.dev.cls = 2 then
    (s.setEnum p (some { e with step := 12 })).pushTm p true [.getHub e.dev.addr]
  else s.stepBind p e

/-- The committed load of a trunk fits with the RTT raised (R121). -/
def State.loadFits (s : State) (p rtt : Nat) : Bool :=
  let t := p % 192
  let tr := s.treeOf t
  (List.range 256).all (fun m =>
    decide (respTicks (respBytes (s.due tr s.bank m)) (s.admWidth t) ≤ min 3075 (4375 - max rtt (s.admRtt tr))))

/-- Devices below a hub, itself included, on its first path. -/
def State.subtree (s : State) (h : DevRec) : List DevRec :=
  s.devices.filter (fun d => d.addr == h.addr || d.path0.hops.any (fun x => x.1 == h.addr))

/-- A hub would stand at tier 8 or deeper on a second path (R70): the device itself by the path above it, or, when a second path of a
dual-homed hub is taken up, a hub below it. -/
def State.deepSecond (s : State) (e : EnumRec) : Bool :=
  if e.secondPath then
    (s.subtree e.dev).any (fun x => (x.cls == 1 || x.cls == 2) && (match x.path1 with | some q => decide (7 < q.hops.length + 1) | none => false))
  else match ((s.dev e.dev.addr).getD e.dev).path1 with | some q => decide (7 < q.hops.length + 1) | none => false

/-- A device below a dual-homed hub has been measured over its second path: the larger RTT counts (R274). -/
def State.raiseRtt (s : State) (a rtt : Nat) : State :=
  match s.dev a with
  | some d => if d.rtt < rtt then (s.setDev a (some { d with rtt := rtt })).ctxRtt { d with rtt := rtt } else s
  | none => s

/-- Step 11, the limits (R70, R121, R274). -/
def State.step11 (s : State) (p : Nat) (e : EnumRec) : State :=
  let old := (s.dev e.dev.addr).map (·.rtt)
  if (e.dev.cls = 1 ∨ e.dev.cls = 2) ∧ (7 < (s.posHops e.pos).length + 1 ∨ s.deepSecond e) then s.enumFail p e Rs.depth
  else if 2500 < e.dev.rtt then s.enumFail p e Rs.rtt
  else if e.secondPath && (match old with | some o => decide (o + 900 ≤ e.dev.rtt ∨ e.dev.rtt + 900 ≤ o) | none => false) then
    s.enumFail p e Rs.rtt
  else if e.subRtts.any (fun x => decide (2500 < x.2)) then s.enumFail p e Rs.rtt
  else if !s.loadFits p (e.subRtts.foldl (fun a x => max a x.2) e.dev.rtt) then s.enumFail p e Rs.budget
  else
    let s := e.subRtts.foldl (fun s x => s.raiseRtt x.1 x.2) s
    let d := { (s.dev e.dev.addr).getD e.dev with rtt := if e.secondPath then max e.dev.rtt (old.getD 0) else e.dev.rtt }
    let s := ((s.setDev d.addr (some d)).ctxRtt d).showRtt p
    let e := { e with dev := d, step := 11 }
    s.step12 p e

/-- Step 10: three PINGs; over a second path also to each attached device below the hub, whose RTT is the larger of its two (R274; DESIGN CHOICE,
log entry 61). -/
def State.step10 (s : State) (p : Nat) (e : EnumRec) : State :=
  let below := if e.secondPath then (s.subtree e.dev).filter (fun x => x.addr != e.dev.addr && x.detachedAt.isNone) else []
  (s.setEnum p (some { e with step := 10, pings := 0, subRtts := [] })).pushTm p true
    ((e.dev.addr :: below.map (·.addr)).flatMap (fun a => [.ping a 0, .ping a 1, .ping a 2]))

/-- The endpoints that a device descriptor declares: OUT, then IN. -/
def epList (d : DevRec) : List Nat :=
  ((List.range 8).filter (fun i => nbit d.outEps i)) ++
  ((List.range 8).filter (fun i => nbit d.inEps i)).map (· + 8)

/-- Step 9 starts: an endpoint descriptor for each endpoint. -/
def State.step9 (s : State) (p : Nat) (e : EnumRec) : State :=
  let l := epList e.dev
  let e := { e with step := 9, epsLeft := l, dev := { e.dev with eps := [] } }
  if l.isEmpty then s.step10 p e
  else (s.setEnum p (some e)).pushTm p true (l.map (fun i => .getEp e.dev.addr i))

/-- Step 9 ends: the contexts are written, and the device is known. -/
def State.step9End (s : State) (p : Nat) (e : EnumRec) : State :=
  let e := if e.secondPath then e else { e with dev := { e.dev with path1 := s.posSecond e.pos } }
  let s := s.setDev e.dev.addr (some { e.dev with rtt := ((s.dev e.dev.addr).map (·.rtt)).getD 0, detachedAt := none })
  let s := if e.secondPath then s.ctxPaths e.dev
    else e.dev.eps.foldl (fun s x => s.writeCtx e.dev x e.rebound) s
  s.step10 p e

/-- Step 8: routes of the address on the hubs of every path to the device, then the route of 0x0000 goes (R122). -/
def State.step8 (s : State) (p : Nat) (e : EnumRec) : State :=
  let hops := s.posHops e.pos
  let l := s.routeReqs e.dev.addr (hops ++ (match e.dev.path1 with | some q => q.hops | none => [])).eraseDups ++ e.clears
  if l.isEmpty then s.step9 p e else (s.setEnum p (some { e with step := 8 })).pushTm p true l

/-- Step 7: SET_ADDRESS. -/
def State.step7 (s : State) (p : Nat) (e : EnumRec) : State :=
  (s.setEnum p (some { e with step := 7 })).pushTm p true [.setAddr e.dev.addr]


/-- A hub's bitmap of a group in a bank, as the TM has written it. -/
def State.hubGroup (s : State) (h g bank : Nat) : Nat :=
  Tbl.get (fun _ => 0) s.tree.hubGroups ((h * 16384 + g) * 2 + bank)
def State.setHubGroup (s : State) (h g bank v : Nat) : State :=
  let s : State := { s with tree := { s.tree with hubGroups := Tbl.set (fun _ => 0) s.tree.hubGroups ((h * 16384 + g) * 2 + bank) v } }
  s.tell (.group (some (BitVec.ofNat 16 h)) (BitVec.ofNat 14 g) (bank == 1) (BitVec.ofNat 192 v))
def State.hubBankOf (s : State) (h : Nat) : Nat := Tbl.get (fun _ => 0) s.tree.hubBank h

/-- A hub that is enumerated again has reset itself (R105), and one whose binding ends is no longer known: its route table and both banks of its
group table are empty, and its ports are OFF; the speed class of a port's links stays on record. -/
def State.hubForgets (s : State) (h : Nat) : State :=
  let s := s.setRoutes h []
  let s := (s.tree.hubGroups.filter (fun x => x.1 / 2 / 16384 == h)).foldl (fun s x => s.setHubGroup h (x.1 / 2 % 16384) (x.1 % 2) 0) s
  let s := (s.tree.hubPorts.filter (fun x => x.1 / 128 == h)).foldl (fun s x =>
    s.setHubPort h (x.1 % 128) (x.2.map (fun r => ⟨0, 0, 0, 0, 0, 0, r.link⟩))) s
  { s with tree := { s.tree with hubBank := Tbl.set (fun _ => 0) s.tree.hubBank h 0 } }

/-- Step 6: the address (R119). A hub that gets an address, its own or another's of earlier, starts with empty tables (R105). -/
def State.step6 (s : State) (p : Nat) (e : EnumRec) : State :=
  let old := s.devices.find? (fun d => d.serial == e.dev.serial && !s.tree.lostAddrs.contains d.addr)
  match (if s.flag Reg.TM_CTRL_REBIND_EN then old else none) with
  | some d =>
    let s := s.hubForgets d.addr
    let e := { e with rebound := true, dev := { e.dev with addr := d.addr, bindings := d.bindings } }
    s.step7 p e
  | none =>
    match s.pickAddr e.pos.root (s.posHops e.pos) with
    | some a => (s.hubForgets a).step7 p { e with dev := { e.dev with addr := a } }
    | none => s.enumFail p e Rs.addrExhausted

/-- The second path of a dual-homed hub is found (R117): SET_PATH_ROLE goes first. -/
def State.bindSecond (s : State) (p : Nat) (e : EnumRec) (d : DevRec) : State :=
  (s.setEnum p (some { e with step := 8, secondPath := true, dev := { d with eps := [] } })).pushTm p true [.setPath 0 1]

/-- SET_PATH_ROLE has bound the second path (R117): the devices of the hub's subtree have it as their path 1, and the routes along it are
written. The subtree is then pinged over that path as the hub is (DESIGN CHOICE, log entry 61). Path 0 is preferred when the subtree forms (R275); the Twill subtrees of one trunk share the preferred path (DEDUCED, log entry 67). -/
def State.secondBound (s : State) (p : Nat) (e : EnumRec) : State :=
  match s.dev e.dev.addr with
  | none => s.enumFail p e Rs.enumFailed
  | some d =>
    let hops := s.posHops e.pos
    let sub := s.subtree d
    let first := (s.twillPair d.path0.root).isNone
    let s := sub.foldl (fun s x =>
      let y := { x with path1 := some ⟨e.pos.root, hops ++ x.path0.hops.drop d.path0.hops.length⟩, second := x.second || x.addr == d.addr }
      (s.setDev x.addr (some y)).ctxPaths y) s
    let d1 := (s.dev d.addr).getD d
    let s := if first then s.updTrunk d.path0.root (fun r => { r with prefPath := 0, better := 0 }) else s
    let e := { e with dev := { d1 with eps := [] } }
    let l := hops.flatMap (fun x => sub.map (fun y => TmReq.setRoute x.1 x.2 y.addr y.addr)) ++ e.clears
    if l.isEmpty then s.step9 p e else (s.setEnum p (some e)).pushTm p true l

/-- Root port 192 + t is the PARTNER's root port t, and the other way round. -/
def peerRoot (p : Nat) : Nat := if p < 192 then p + 192 else p - 192

/-- A dual-homed Lybor hub. -/
def dualHub (d : DevRec) : Bool := nbit d.caps 0 && (d.cls == 1 || d.cls == 2)

/-- A dual-homed hub is bound below pair trunk `t`: its path side is fixed (R273). -/
def State.sideFixed (s : State) (t : Nat) : Bool :=
  s.devices.any (fun d => dualHub d && d.path0.root % 192 == t)

/-- In a pair the device of root port `p` sends PATH 1 on its trunk, and the side is fixed (R273). -/
def State.pathOneSide (s : State) (p : Nat) : Bool := s.role == 1 && s.sideFixed (p % 192) && s.pathOf p == 1

/-- The first dual-homed hub below a pair trunk fixes its side (R273): the device of root port `p` sends PATH 0, the other PATH 1. -/
def State.fixSide (s : State) (p : Nat) : State :=
  let t := p % 192
  if s.role ≠ 1 ∨ s.sideFixed t then s
  else
    let one := decide (192 ≤ p)
    let s := s.updPu (fun u => { u with sides := if u.sides.contains t then u.sides else u.sides ++ [t] })
    (s.setB (Reg.TS_TRUNK_CFG_PATH t) one).tell (.path (Fin.ofNat 192 t) (!one))

/-- Step 5, the serial number (R117, R118, R124, R125, R273). A serial number at the position where its device stands already is no loop. -/
def State.step5 (s : State) (p : Nat) (e : EnumRec) : State :=
  let hops := s.posHops e.pos
  let known := s.devices.find? (fun d => d.serial == e.dev.serial && d.detachedAt.isNone && d.path0 != ⟨e.pos.root, hops⟩)
  let rival := s.tree.enums.find? (fun x => x.1 != p && (match x.2 with
    | some o => decide (5 ≤ o.step) && o.dev.serial == e.dev.serial && !o.rebound && !o.secondPath
    | none => false))
  -- a serial number whose first enumeration still goes on is compared by the times of attach (R125), but for a second path (R117)
  let known := if rival.isSome ∧ !dualHub e.dev then none else known
  match known with
  | some d =>
    let shares := d.path0.root == e.pos.root || d.path0.hops.any (fun x => hops.any (fun y => y.1 == x.1))
    if dualHub d ∧ s.role ≠ 0 ∧ d.path0.root ≠ peerRoot e.pos.root then s.enumFail p e Rs.pairPort
    else if dualHub d ∧ d.second = false ∧ !shares then s.bindSecond p e d
    else s.enumFail p e Rs.loop
  | none =>
    match rival with
    | some (q, some o) =>
      if attachBefore e.pos o.pos then (s.enumFail q o Rs.loop).step6 p { e with step := 5 }
      else s.enumFail p e Rs.loop
    | _ =>
      if dualHub e.dev ∧ s.pathOneSide e.pos.root
          ∧ !s.devices.any (fun d => d.serial == e.dev.serial) then
        let s := s.endEnum p
        let s := if s.tree.returned.any (fun x => x.1 == e.dev.serial) then s
          else { s with tree := { s.tree with returned := s.tree.returned ++ [(e.dev.serial, e.pos, s.now)] } }
        let s := s.pushTm p false (e.clears)
        State.showEnum { s with tree := { s.tree with waiting := s.tree.waiting ++ [{ e.pos with atStep3 := true }] } }
      else
        let s := if dualHub e.dev then s.fixSide e.pos.root else s
        s.step6 p { e with step := 5 }

/-- Step 4: the device descriptor at address 0x0000. -/
def State.step4 (s : State) (p : Nat) (e : EnumRec) : State :=
  (s.setEnum p (some { e with step := 4 })).pushTm p true [.getDev]

/-- Step 3: the route of 0x0000 towards the port on every hub of the path. -/
def State.step3 (s : State) (p : Nat) (e : EnumRec) : State :=
  let hops := s.posHops e.pos
  let e := { e with step := 3 }
  if hops.isEmpty then s.step4 p e
  else (s.setEnum p (some e)).pushTm p true (hops.map (fun x => .setRoute x.1 x.2 0 0))

/-- An enumeration begins at a position (R116): step 1, or step 3 for a reset that is over. -/
def State.beginEnum (s : State) (a : AttachPos) : State :=
  let p := a.root
  let path : TreePath := ⟨p, s.posHops a⟩
  let dev := { DevRec.unknown path with path1 := s.posSecond a }
  let e : EnumRec := ⟨a, 1, dev, false, [], 0, [], false, [], 0, []⟩
  if a.atStep3 then s.step3 p e
  else
    let s := s.setEnum p (some { e with step := 2 })
    if a.hub = 0 then s.portReset p true else s.pushTm p true [.setFeature a.hub a.port 2]

/-! ## Hub ports (R108, R112, R124) -/

/-- The TM learns that a hub port has left ENABLED, or that a device below it has gone (R108): what waits or is enumerated there stops, but
for a device whose reset goes on, and the routes of 0x0000 that step 3 has set are cleared (R116). -/
def State.hubPortLeaves (s : State) (h p status : Nat) : State :=
  let s := s.detachLost status
  let resets : Bool := status == St.portReset
  let s := { s with tree := { s.tree with
    waiting := s.tree.waiting.filter (fun a => !(a.hub == h && a.port == p) || (a.reset && resets)) } }
  s.tree.enums.foldl (fun s x => match x.2 with
    | some e =>
      if e.pos.hub = h ∧ e.pos.port = p ∧ !(e.step = 2 ∧ resets) then
        (s.endEnum x.1).pushTm x.1 false (e.clears)
      else s
    | none => s) s.showEnum

/-- A SET_PORT_FEATURE to a hub has completed (R104, R108). -/
def State.hubFeature (s : State) (h p f : Nat) : State :=
  match s.hubPort h p with
  | none => if f = 1 then s.setHubPort h p (some ⟨1, 0, 0, 0, 0, 0, 0⟩) else s
  | some r =>
    match f with
    | 1 => if r.state = 0 then s.setHubPort h p (some { r with state := 1 }) else s
    | 2 => if 2 ≤ r.state then (s.setHubPort h p (some { r with state := 3 })).hubPortLeaves h p St.portReset else s
    | 3 => if r.state = 4 then (s.setHubPort h p (some { r with state := 5, told := setBit r.told 4 true })).hubEvent h p Ev.suspended 0 else s
    | 4 => if r.state = 5 then s.setHubPort h p (some { r with state := 6 }) else s
    | 5 => if r.state = 5 ∨ r.state = 6 then (s.setHubPort h p (some { r with state := 4, told := setBit r.told 4 true })).hubEvent h p Ev.enabled 0 else s
    | _ => s

/-- A CLEAR_PORT_FEATURE to a hub has completed. -/
def State.hubClear (s : State) (h p f : Nat) : State :=
  match s.hubPort h p with
  | none => s
  | some r =>
    if f = 1 then
      let s := (s.setHubPort h p (some ⟨0, 0, 0, 0, 0, if 2 ≤ r.state then 2 else r.told, r.link⟩)).hubPortLeaves h p St.deviceGone
      if 2 ≤ r.state then s.hubEvent h p Ev.detach 0 else s
    else if f = 5 ∧ r.state = 4 then
      let why := if r.own = 0 then Rs.software else r.own
      ((s.setHubPort h p (some { r with state := 2, reason := why, own := 0, told := setBit r.told 3 true })).hubPortLeaves h p St.deviceGone).hubEvent h p
        Ev.disabled why
    else s

/-- The reason that the record of a hub's port holds after a status: the TM's own while the port stays DISABLED by software. -/
def hubReason (old : Option HubPort) (b : List Byte) : Nat :=
  match old with
  | some r => if field b 0 1 % 8 = 2 ∧ field b 6 1 = Rs.software ∧ r.state = 2 then r.reason else field b 6 1
  | none => field b 6 1

/-- What a hub's port status says of the port: the record the TM keeps, and what ends when the port has left the path (R108, R109, R116). A port
that the hub has taken through a reset or a loss led nowhere in between, and the reason for which the TM disables the port, or has disabled it,
stays in its own record. -/
def State.hubLearn (s : State) (h p : Nat) (b : List Byte) : State :=
  let st := field b 0 1 % 8
  let ch := field b 2 2
  let old := s.hubPort h p
  let was := (old.map (·.state)).getD 0
  let gone : Bool := p != 0 && (pathState was && !pathState st || nbit ch 1 || nbit ch 2)
  let r : HubPort := ⟨st, field b 1 1, hubReason old b,
    if nbit ch 7 ∧ st = 4 then Rs.loop else if st = 4 then (old.map (·.own)).getD 0 else 0,
    if nbit ch 0 then s.mfN else (old.map (·.attachMf)).getD 0, 0,
    if 2 ≤ st then field b 1 1 else (old.map (·.link)).getD 0⟩
  let left := if nbit ch 2 ∧ !nbit ch 1 then St.portReset else St.deviceGone
  if gone then
    match old with
    | some o => ((s.setHubPort h p (some { o with state := if st = 4 then 3 else st })).hubPortLeaves h p left).setHubPort h p (some r)
    | none => (s.hubPortLeaves h p left).setHubPort h p (some r)
  else s.setHubPort h p (some r)

/-- The change bits of a hub's port status that bring an event (R126): those of a transition that has been reported when its request completed
bring no other. -/
def freshChanges (old : Option HubPort) (st ch : Nat) : Nat :=
  match old with
  | none => ch
  | some r =>
    let ch := if nbit r.told 1 then setBit ch 1 false else ch
    let ch := if nbit r.told 3 then setBit ch 3 false else ch
    if nbit r.told 4 && r.state == st then setBit ch 4 false else ch

/-- The events that a hub's port status brings, the hub's own first (R126); `ch` are its change bits that have not been reported. -/
def State.hubEvents (s : State) (h p : Nat) (b : List Byte) (ch why : Nat) : State :=
  let st := field b 0 1 % 8
  let s := if nbit ch 8 then s.hubEvent h p Ev.hubFault 8 else s
  let s := if nbit ch 9 then s.hubEvent h p Ev.hubFault 9 else s
  if p = 0 then s
  else
    let s := if nbit ch 1 then s.hubEvent h p Ev.detach 0 else s
    let s := if nbit ch 0 then
        if st = 1 ∧ why = Rs.speedMismatch then s.hubEvent h p Ev.disabled why else s.hubEvent h p Ev.attach (field b 1 1)
      else s
    let s := if nbit ch 4 then s.hubEvent h p (if st = 5 then Ev.suspended else Ev.resumed) 0 else s
    if nbit ch 5 then s.hubEvent h p Ev.remoteWake 0 else s

/-- The reset of a hub's port has ended: its enumeration goes on at step 3, now or when its turn comes (R116). -/
def State.hubResetDone (s : State) (h p : Nat) : State :=
  let root := s.rootOf h
  let since := ((s.hubPort h p).map (·.attachMf)).getD s.mfN
  let again : State :=
    if s.tree.waiting.any (fun a => a.hub == h && a.port == p) then
      { s with tree := { s.tree with waiting := s.tree.waiting.map (fun a =>
          if a.hub = h ∧ a.port = p then { a with atStep3 := true, reset := false } else a) } }
    else s.await ⟨root, h, p, true, false, since⟩
  match s.enumOf root with
  | some e => if e.pos.hub = h ∧ e.pos.port = p ∧ e.step = 2 then s.step3 root e else again
  | none => again

/-- A hub's port is DISABLED: by a failed reset, a lost link or a clearing that the TM did not know of (R116). Where the TM has not seen the port
RESETTING, a status that shows it DISABLED says nothing of the reset that step 1 asks for. -/
def State.hubDisabled (s : State) (h p was : Nat) : State :=
  let root := s.rootOf h
  let s := if was = 3 then State.showEnum { s with tree := { s.tree with
      waiting := s.tree.waiting.filter (fun a => !(a.hub == h && a.port == p && a.reset)) } } else s
  match s.enumOf root with
  | some e => if e.pos.hub = h ∧ e.pos.port = p ∧ (e.step ≠ 2 ∨ was = 3) then s.endEnum root else s
  | none => s

/-- GET_PORT_STATUS of a hub's port has been answered (R108, R112, R116, R124, R126). -/
def State.hubStatus (s : State) (h p : Nat) (b : List Byte) : State :=
  let st := field b 0 1 % 8
  let ch := field b 2 2
  let old := s.hubPort h p
  let was := (old.map (·.state)).getD 0
  let why := hubReason old b
  let new := freshChanges old st ch
  let s := (s.hubLearn h p b).hubEvents h p b new why
  let root := s.rootOf h
  if p = 0 then s
  else if nbit ch 7 ∧ st = 4 then s.pushTm root false [.clearFeature h p 5]
  else if nbit ch 2 ∧ st = 4 then (s.hubEvent h p Ev.enabled 0).hubResetDone h p
  else if st = 2 ∧ nbit ch 0 = false then
    (s.when (was != 2 || nbit new 3) (fun s => s.hubEvent h p Ev.disabled why)).hubDisabled h p was
  else if nbit ch 0 ∧ st = 2 ∧ s.flag Reg.TM_CTRL_AUTO_ENUM then s.await ⟨root, h, p, false, false, s.mfN⟩
  else s

/-! ## Groups (R120, R123) -/

/-- Every hub that the TM knows and that is attached. -/
def State.hubs (s : State) : List DevRec := s.devices.filter (fun d => d.detachedAt.isNone && (d.cls == 1 || d.cls == 2))

/-- Groups of which the TM has written an entry into a hub. -/
def State.hubGroupIds (s : State) (h : Nat) : List Nat :=
  ((s.tree.hubGroups.filter (fun x => x.1 / 2 / 16384 == h)).map (fun x => x.1 / 2 % 16384)).eraseDups

/-- While a group change is staged, the TM writes into each hub's inactive bank the entries that differ from what the bank must hold
after the switch (R123): that of the group, and those an earlier switch has left behind. -/
def State.writeGroup (s : State) (g : Nat) : State :=
  s.hubs.foldl (fun s d =>
    let h := d.addr
    let gs := (g :: s.hubGroupIds h).eraseDups.filter (fun x => s.memberPorts h x != s.hubGroup h x (1 - s.hubBankOf h))
    if gs.isEmpty then s else s.pushTm (s.rootOf h) false (gs.map (fun x => .groupPorts h x (s.memberPorts h x)))) s

/-- SET_GROUP_BINDING has been applied (R123): the context follows, an endpoint that joins a group gives up its own slot (R172), and the last
one reports GROUP_APPLIED. -/
def State.bindDone (s : State) (dev ep g : Nat) : State :=
  let h := dev * 16 + ep
  let s := ((s.setCf h Cx.group (if g = 0xFFFF then 0 else g)).setCf h Cx.groupEn (if g = 0xFFFF then 0 else 1)).tellCtx h
  let s := if g = 0xFFFF then s else s.dropSlot h
  let had := !s.tree.binding.isEmpty
  let s := { s with tree := { s.tree with binding := s.tree.binding.filter (fun x => x.1 != dev * 8 + ep) } }
  if had && s.tree.binding.isEmpty then
    s.topoEvent ⟨Ev.groupApplied, s.mfN, 0, 0, false, 0, false, 0, 0, s.tree.bindM⟩
  else s

/-- SET_GROUP_BINDING has failed: the binding stays in the TM's record, to be sent when the device is rebound (R120), and no longer keeps
GROUP_APPLIED back (DESIGN CHOICE, log entry 41). -/
def State.bindFailed (s : State) (dev ep : Nat) : State :=
  let had := !s.tree.binding.isEmpty
  let s := { s with tree := { s.tree with binding := s.tree.binding.filter (fun x => x.1 != dev * 8 + ep) } }
  if had && s.tree.binding.isEmpty then
    s.topoEvent ⟨Ev.groupApplied, s.mfN, 0, 0, false, 0, false, 0, 0, s.tree.bindM⟩
  else s

/-! ## The end of a request -/

/-- What a completed request has done, apart from the enumeration it may belong to. -/
def State.reqDone (s : State) (q : TmReq) (data : List Byte) : State :=
  match q with
  | .getStatus h p => s.hubStatus h p data
  | .setFeature h p f => s.hubFeature h p f
  | .clearFeature h p f => s.hubClear h p f
  | .setRoute h p a b => s.setRoutes h (addRoute a b p (cutRoutes a b (s.routesOf h)))
  | .clearRoute h a b => s.setRoutes h (cutRoutes a b (s.routesOf h))
  | .groupPorts h g b => s.setHubGroup h g (1 - s.hubBankOf h) b
  | .bind d ep g => s.bindDone d ep g
  | .clearStall _ h => s.stallCleared h
  | _ => s

/-- Reason of a failure at a step (R116). -/
def stepReason (n : Nat) : Nat :=
  match n with
  | 1 | 2 => Rs.trainFailed
  | 3 | 8 => Rs.routeFull
  | 10 => Rs.rtt
  | _ => Rs.enumFailed

/-- Step 12 once the hub's status endpoint may be staged: its groups, and the ports that it powers. -/
def State.step12Staged (s : State) (p : Nat) (e : EnumRec) : State :=
  let h := e.dev.addr
  match if (s.stagedRec (h * 16 + 9)).isSome then some s else s.scheduleStatus h with
  | none => s.enumFail p e Rs.enumFailed
  | some s =>
    let groups := ((s.devices.flatMap (fun x => x.bindings.filterMap (·.2))).eraseDups).filter (fun g => s.memberPorts h g != 0)
    let l := [TmReq.setPath h (if e.secondPath then 1 else 0)] ++ groups.map (fun g => TmReq.groupPorts h g (s.memberPorts h g)) ++
      (if e.secondPath then [] else (numbers 1 e.hubPorts).map (fun i => TmReq.setFeature h i 1))
    (s.setEnum p (some e)).pushTm p true l

/-- The end of GET_HUB_DESCRIPTOR. While a commit is pending, a staging command is held (R150), and step 12 waits with it. -/
def State.step12End (s : State) (p : Nat) (e : EnumRec) (b : List Byte) : State :=
  let n := field b 2 1
  let d := { e.dev with ports := n, splitDepth := field b 8 1, routes := field b 4 2 }
  let s := s.setDev d.addr (some d)
  let e := { e with dev := d, hubPorts := n, step := 12 }
  if s.commitPending then s.setEnum p (some e) else s.step12Staged p e

/-- Enumerations whose step 12 has waited for the end of a commit go on, one for each commit that they bring. -/
def State.step12Resume (s : State) : State :=
  s.tree.enums.foldl (fun (s : State) x => match x.2 with
    | some e => if e.step = 12 && !(s.todoOf x.1).any (·.own) && !s.commitPending then s.step12Staged x.1 e else s
    | none => s) s

/-- The address has been given out (R118): its serial number is recorded, and the device counts as detached until step 9 has ended. -/
def State.addrGiven (s : State) (d : DevRec) : State :=
  if (s.dev d.addr).isSome then s else s.setDev d.addr (some { d with eps := [], detachedAt := some s.now })

/-- A request of the enumeration has completed: the next step, when it was the last of its step. `rtt` is the round trip of a PING. -/
def State.advanceEnum (s : State) (p : Nat) (e : EnumRec) (q : TmReq) (r : TmReply) (rtt : Nat) : State :=
  let more := (s.todoOf p).any (·.own)
  match q with
  | .setRoute h pt 0 0 =>
    if e.step = 3 then
      let e := { e with zero := e.zero ++ [(h, pt)] }
      if more then s.setEnum p (some e) else s.step4 p e
    else s
  | .getDev =>
    let b := r.data
    let d := { e.dev with cls := field b 2 1, serial := field b 4 8, inEps := field b 16 1, outEps := field b 17 1,
                          caps := field b 18 2 }
    s.step5 p { e with step := 5, dev := d }
  | .setAddr _ => (s.addrGiven e.dev).step8 p e
  | .setPath .. => if e.step = 8 then s.secondBound p e else if more then s else s.stepBind p e
  | .getEp _ _ =>
    let e := { e with dev := { e.dev with eps := e.dev.eps ++ [parseEp r.data] } }
    if more then s.setEnum p (some e) else s.step9End p e
  | .ping a _ =>
    let e := if a = e.dev.addr then
        { e with pings := e.pings + 1, dev := { e.dev with rtt := max (if e.pings = 0 then 0 else e.dev.rtt) rtt } }
      else { e with subRtts := Tbl.upd (fun _ => 0) e.subRtts a (max rtt) }
    if more then s.setEnum p (some e) else s.step11 p e
  | .getHub _ => s.step12End p e r.data
  | _ =>
    if more then s
    else match e.step with
      | 8 => s.step9 p e
      | 12 => s.stepBind p e
      | 13 => s.step13 p e
      | _ => s

/-- A word of the serial table is lost (R435): its address stays bound to no device. -/
def State.serialLost (s : State) (a addr : Nat) : State :=
  let s := s.smError tableUnit addr
  if s.tree.lostAddrs.contains a then s else { s with tree := { s.tree with lostAddrs := s.tree.lostAddrs ++ [a] } }

/-- TM_TRANSFER_COMPLETE: the outstanding request of a subtree has ended (R116). With EN = 0 an enumeration stops after its
current step and is taken up again from step 1 (R509). -/
def State.tmDone (s : State) (p : Nat) (r : TmReply) : State :=
  match s.todoOf p with
  | [] => s
  | it :: rest =>
    if !it.sent then s
    else
      let s := (s.dropTmXfers p).setTodo p rest
      -- a PING that nothing has answered has failed, whatever its end is called
      let ok : Bool := r.status == 0 && (match it.req with | .ping .. => it.rtt.isSome | _ => true)
      let s := if ok then s.reqDone it.req r.data else
        match it.req with
        | .groupPorts .. => { s with tree := { s.tree with groupFail := true } }
        | .bind d ep _ => s.bindFailed d ep
        | _ => s
      let s := match it.own, s.enumOf p with
        | true, some e =>
          if !ok then s.enumFail p e (stepReason e.step)
          else if !s.tmOn then s.stopEnum p e
          else match it.req, r.lost with
            | .getDev, some x => (s.serialLost x.1.toNat x.2).advanceEnum p e it.req r 0
            | _, _ => s.advanceEnum p e it.req r (it.rtt.getD 0)
        | _, _ => s
      s.kickTm p

end Sys2Proof.Machine
end

