-- ==== Sys2Proof/Machine/PairOps.lean ====
section
/-! DEFINITION. The pair unit's operations (R279 to R314): events, timed and ordered frames, mirror records, roles and the
completion of mirrored commands. -/

namespace Sys2Proof.Machine

/-! ## Pair events (R314, R358) -/

/-- EVENT codes. -/
def Pe.role : Nat := 1
def Pe.joined : Nat := 2
def Pe.lost : Nat := 3
def Pe.diverge : Nat := 4
def Pe.resync : Nat := 5
def Pe.master : Nat := 6
def Pe.reconShort : Nat := 7
def Pe.align : Nat := 8
def Pe.joinFailed : Nat := 9
def Pe.down : Nat := 10
def Pe.up : Nat := 11
def Pe.split : Nat := 12
def Pe.timeConflict : Nat := 13

/-- The dwords of a pair event. -/
def State.puDws (s : State) (code cause d6 d7 : Nat) : List Word :=
  [BitVec.ofNat 32 (0xFFFF * 2 ^ 16), BitVec.ofNat 32 (0xFFFD + code * 2 ^ 16), BitVec.ofNat 32 s.mfN,
   BitVec.ofNat 32 (s.mfN / 2 ^ 32),
   BitVec.ofNat 32 (s.role + s.pstate * 4 + s.f Reg.PU_CFG_RANK * 32 + s.f Reg.PU_CFG_SIDE * 256 + cause * 2 ^ 16),
   s.reg Reg.PU_TERM, BitVec.ofNat 32 d6, BitVec.ofNat 32 d7]

/-- Write a pair event, or hold it: up to 1,024 in order, and beyond that the latest of each code with a count. -/
def State.puEvent (s : State) (code : Nat) (cause : Nat := 0) (d6 : Nat := 0) (d7 : Nat := 0) : State :=
  if s.flag Reg.PU_EVENT_CTRL_EN then
    let dws := s.puDws code cause d6 d7
    let now := if s.pu.held.isEmpty && s.pu.latest.isEmpty then s.postEvent (s.f Reg.PU_EVENT_CTRL_CQ) dws 4 else none
    match now with
    | some s => s
    | none =>
      let e : UnitEvent := ⟨code, 0, dws⟩
      if s.pu.held.length < 1024 && s.pu.latest.isEmpty then s.updPu (fun p => { p with held := p.held ++ [e] })
      else if s.pu.latest.any (fun x => x.1.event == code) then
        s.updPu (fun p => { p with latest := replaceFirst (fun x => x.1.event == code) (fun x => (e, x.2 + 1)) p.latest })
      else s.updPu (fun p => { p with latest := insertBy (fun a b => decide (a.1.event < b.1.event)) (e, 1) p.latest })
  else s

/-- Write held pair events while there is room. -/
def State.drainPu (s : State) : Nat → State
  | 0 => s
  | n + 1 =>
    match s.pu.held, s.pu.latest with
    | e :: r, _ =>
      match s.postEvent (s.f Reg.PU_EVENT_CTRL_CQ) e.dws 4 with
      | some s => (s.updPu (fun p => { p with held := r })).drainPu n
      | none => s
    | [], e :: r =>
      match s.postEvent (s.f Reg.PU_EVENT_CTRL_CQ) e.1.dws 4 with
      | some s => (s.updPu (fun p => { p with latest := r })).drainPu n
      | none => s
    | [], [] => s

/-! ## Roles and states (R289, R290) -/

def State.setRole (s : State) (r : Nat) : State := s.setF Reg.PU_STATUS_ROLE r
def State.setPstate (s : State) (p : Nat) : State := s.setF Reg.PU_STATUS_PSTATE p

/-- The device becomes HOLDER: TERM is 1 at first, and grows by 1 at every takeover and handover. -/
def State.becomeHolder (s : State) : State :=
  let t := s.f Reg.PU_TERM_TERM
  ((s.setRole 1).setF Reg.PU_TERM_TERM (t + 1)).puEvent Pe.role

/-- A PARTNER leaves lockstep (R289): it enters RESYNC and sends no packet from the next mark. -/
def State.enterResync (s : State) (cause : Nat) : State :=
  if s.pstate = 5 then s else ((s.setPstate 5).updPu (fun p => { p with diverge := 0, resyncMf := some s.mfN })).puEvent Pe.resync cause

/-! ## The Miodel link (R279, R280) -/

/-- The TIME frame of a mark (R279). -/
def State.timeFrame (s : State) : TimeFrame where
  mf := s.time.mf
  role := BitVec.ofNat 2 s.role
  pstate := BitVec.ofNat 3 s.pstate
  rank := BitVec.ofNat 3 (s.f Reg.PU_CFG_RANK)
  term := s.reg Reg.PU_TERM
  timeSrc := BitVec.ofNat 2 (s.f Reg.PU_STATUS_TIME_SRC)
  margins := s.trunks.map (fun t => (t, BitVec.ofNat 8 (s.marginNow t)))
  abdicate := s.pu.abdicate
  rsqFailed := s.flag Reg.RSQ_STATUS_RSQ_FAILED
  hostLost := s.flag Reg.HIF_STATUS_HOST_LOST

/-- Registers and fields that both devices of a pair must hold equal (R287). -/
def pairRegs : List (Nat × Nat) :=
  [(Reg.TM_CTRL, 0xFFFFFFFE), (Reg.TM_ADDR_POOL, 0xFFFFFFFF), (Reg.EBM_NAK_DEFAULT, 0xFFFFFFFF),
   (Reg.EBM_NP_RESERVE, 0xFFFFFFFF), (Reg.MRE_ADMIT_CFG, 0x3), (Reg.SV_CTRL, 0x2), (Reg.SV_QUIET, 0xFFFFFFFF),
   (Reg.SV_PILOT, 0xFFFFFFFF), (Reg.SV_NLMS, 0xFFFFFFFF)]

/-- The HELLO of this device (R279, R287). -/
def State.helloFrame (s : State) (aligned : Bool) : HelloFrame where
  serial := BitVec.ofNat 64 (s.f Reg.GLB_SERIAL_LO_SERIAL + 2 ^ 32 * s.f Reg.GLB_SERIAL_HI_SERIAL)
  side := s.flag Reg.PU_CFG_SIDE
  rank := BitVec.ofNat 3 (s.f Reg.PU_CFG_RANK)
  ucode := s.reg Reg.MRE_UCODE_VER
  regs := pairRegs.map (fun x => (x.1, s.reg x.1 &&& BitVec.ofNat 32 x.2))
  widths := (List.range 192).map s.width
  role := BitVec.ofNat 2 s.role
  term := s.reg Reg.PU_TERM
  aligned := aligned

/-! ## Pair-checked writes (R287, R288) -/

/-- The pair-checked bits of the register at `a`. -/
def pairMask (a : Nat) : Nat := ((pairRegs.find? (fun x => x.1 == a)).map (·.2)).getD 0

/-- The pair has formed and its peer is not lost (R288, R289), or a device joins it (R304). -/
def State.pairFormed (s : State) : Bool := s.role != 0 && (s.pstate == 2 || s.pstate == 3 || s.pstate == 5 || (s.pstate == 4 && s.orderedUp))

/-- A write of `v` to the register at `a` (R288): what it does to the pair, and the value that is written now, in which the
pair-checked bits keep their value. On the HOLDER they follow at the first frame mark at least 8 microframes later; on the
PARTNER they are ignored. -/
def State.pairHold (s : State) (a : Nat) (v : Word) : State × Word :=
  let m := BitVec.ofNat 32 (pairMask a)
  if m = 0 ∨ !s.pairFormed then (s, v)
  else
    let now := (s.reg a &&& m) ||| (v &&& ~~~m)
    if s.isPartner then (s.setB Reg.PU_STATUS_MIRROR_WRITE true, now)
    else
      let at_ := frameFrom (s.markAfter 8)
      let s := s.sendOrdered (fun n => .mirror n (.regWrite (BitVec.ofNat 25 a) v (BitVec.ofNat 48 at_)))
      (s.updPu (fun p => { p with writes := p.writes ++ [(a, v, at_)] }), now)

/-! ## Mirror records (R291, R292) -/

/-- A command is placed in the HOLDER's order (R292): the mirror record goes to the PARTNER, and the entry waits for both
devices. -/
def State.mirror (s : State) (r : EntryRef) (e : Sqe) (h : HostData) : State :=
  if s.isHolder && s.orderedUp then
    let n := s.pu.seq
    (s.sendOrdered (fun n => .mirror n (.command r.fn e h (BitVec.ofNat 48 s.mfN)))).updPu (fun p => { p with mirrored := p.mirrored ++ [(n, r)] })
  else s

/-- Complete a mirrored command: at once, or when the PARTNER has applied it. -/
def State.completeM (s : State) (r : EntryRef) (e : Sqe) (status : Nat) (residue : Nat := 0) (d4 : Word := 0)
    (d5 : Word := 0) (d6 : Word := 0) (d7 : Word := 0) : State :=
  let q := entryCqe r e status residue d4 d5 d6 d7 false
  if s.pu.mirrored.any (fun x => x.2 == r) then s.updPu (fun p => { p with deferred := p.deferred ++ [(r, q)] })
  else s.finishEntry r q

/-- A started mirrored command ends by its reference. -/
def State.completeRefM (s : State) (r : EntryRef) (status : Nat) (residue : Nat := 0) (d4 : Word := 0)
    (d5 : Word := 0) (d6 : Word := 0) (d7 : Word := 0) : State :=
  match s.qe.started.find? (fun x => x.ref == r) with
  | some st => s.completeM r st.sqe status residue d4 d5 d6 d7
  | none => s

/-- Sequence number `x` of an ordered frame is `n` or an earlier one, in the order of 32-bit numbers that wrap. -/
def seqUpTo (x n : Nat) : Bool := decide ((n + 2 ^ 32 - x) % 2 ^ 32 < 2 ^ 31)

/-- Frames up to `n` are acknowledged (R280): they are released, and the entries whose records they carried go on. -/
def State.ackTo (s : State) (n : Nat) : State :=
  let old := s.pu.unacked
  let left := old.filter (fun x => !(seqUpTo x.1 n))
  let s := s.updPu (fun p => { p with
    unacked := left, progress := if left.length < old.length then s.now else p.progress
    mirrored := p.mirrored.filter (fun x => !(seqUpTo x.1 n)) })
  let s := s.sendUnsent s.pu.unsent.length
  let (go, stay) := s.pu.deferred.partition (fun x => !s.pu.mirrored.any (fun y => y.2 == x.1))
  (s.inCqeOrder (·.1) go).foldl (fun (s : State) (x : EntryRef × Cqe) => s.finishEntry x.1 x.2)
    (s.updPu (fun p => { p with deferred := stay }))

/-- The ordered channel goes down (R280, R302): entries that wait for it complete with ABORTED, unless the peer is lost. -/
def State.orderedDown (s : State) : State :=
  if s.orderedUp then
    let s := s.setB Reg.PU_STATUS_ORDERED_UP false
    let wait := s.pu.mirrored.map (·.2)
    let lost := s.pstate != 4
    let s := s.updPu (fun p => { p with unacked := [], unsent := [], mirrored := [], hello := none, owed := false })
    let dead := s.pu.deferred
    let s := s.updPu (fun p => { p with deferred := [] })
    let s := (s.inCqeOrder (·.1) dead).foldl (fun (s : State) (x : EntryRef × Cqe) => s.finishEntry x.1 { x.2 with status := if wait.contains x.1 && lost then St.aborted else x.2.status }) s
    let out := s.pu.sent
    let s := s.updPu (fun p => { p with sent := [] })
    ((s.inCqeOrder (·.1) out).foldl (fun (s : State) (x : EntryRef × Sqe) => s.complete x.1 x.2 St.aborted) s).puEvent Pe.down
  else s

/-- One-way delay of the Miodel link as a widening of response windows (R298). -/
def State.relayTicks (s : State) : Nat := ceilDiv (2 * s.f Reg.PU_MIODEL_DELAY_DELAY) 40 + 25

end Sys2Proof.Machine
end

