-- ==== Sys2Proof/Machine/PowerOps.lean ====
section
/-! DEFINITION. The PMU's operations (R442 to R463): sleep requests, wakes, operating points and gated accesses. -/

namespace Sys2Proof.Machine

/-- STATE is STEADY whenever CORE or DSP is not at OP0 outside SATIN (R442). -/
def State.showSteady (s : State) : State :=
  let st := s.f Reg.PMU_STATUS_STATE
  if st ≤ 1 then
    let low := s.f Reg.PMU_STATUS_CORE_FOP + s.f Reg.PMU_STATUS_CORE_VOP + s.f Reg.PMU_STATUS_DSP_FOP
      + s.f Reg.PMU_STATUS_DSP_VOP
    s.setF Reg.PMU_STATUS_STATE (if low = 0 then 0 else 1)
  else s

/-- A sleep request ends (R443). -/
def State.endRequest (s : State) (status : Nat) : State :=
  let s := ((s.setB Reg.PMU_REQ_STATUS_BUSY false).setB Reg.PMU_REQ_STATUS_DONE true).setF Reg.PMU_REQ_STATUS_STATUS status
  s.updPm (fun p => { p with entryAt := none, alertDone := true })

/-- A wake is written to PMU_WAKE_LOG (R460). -/
def State.logWake (s : State) (src : Nat) (aborted : Bool) : State :=
  let s := (s.setF Reg.PMU_WAKE_LOG_SOURCE src).setF Reg.PMU_WAKE_LOG_FROM (s.f Reg.PMU_STATUS_STATE)
  let s := (s.setB Reg.PMU_WAKE_LOG_SLEEP_ABORTED aborted).bump Reg.PMU_WAKE_LOG_WAKES
  let s := (s.setReg Reg.PMU_WAKE_MF_LO (BitVec.ofNat 32 s.mfN)).setReg Reg.PMU_WAKE_MF_HI (BitVec.ofNat 32 (s.mfN / 2 ^ 32))
  s.updPm (fun p => { p with alertWake := true })

/-- Code of a wake source (R460). -/
def wakeCode : WakeSource → Nat
  | .mgt => 1
  | .lybor => 2
  | .pcie => 3
  | .alarm => 4
  | .emerg => 5
  | .request => 6

/-- The source is enabled: REQUEST always is (R460). -/
def State.wakeEnabled (s : State) (w : WakeSource) : Bool :=
  match w with
  | .mgt => s.flag Reg.PMU_WAKE_EN_MGT
  | .lybor => s.flag Reg.PMU_WAKE_EN_LYBOR
  | .pcie => s.flag Reg.PMU_WAKE_EN_PCIE
  | .alarm => s.flag Reg.PMU_WAKE_EN_ALARM
  | .emerg => s.flag Reg.PMU_WAKE_EN_EMERG
  | .request => true

/-- Both devices switch at the first frame mark at least 8 microframes after the HOLDER places the request (R294). On the
PARTNER the request goes to the HOLDER first. -/
def State.pairSwitch (s : State) (satin : Bool) : State :=
  if s.isPartner then s.sendOrdered (fun n => .mirror n (.powerSwitch satin 0))
  else
    let at_ := frameFrom (s.markAfter 8)
    let s := s.sendOrdered (fun n => .mirror n (.powerSwitch satin (BitVec.ofNat 48 at_)))
    s.updPu (fun p => { p with switchAt := some (satin, at_) })

/-- The return from SATIN starts (R451): step 1 at the second mark after the wake, or in a pair at the frame mark of R294. -/
def State.startReturn (s : State) : State :=
  if s.lockstep then s.pairSwitch false
  else s.updPm (fun p => { p with step1At := some (s.mfN + 2) })

/-- The device is returning from SATIN and its step 1 is still to come. -/
def State.returnPending (s : State) : Bool :=
  s.pm.step1At.isSome || (match s.pu.switchAt with | some (b, _) => !b | none => false)

/-- The mark of E of a request for SATIN has come (R294, R449). -/
def State.satinDue_ (s : State) : Bool :=
  !s.inSatin && !s.inDormant &&
    ((s.flag Reg.PMU_REQ_STATUS_BUSY && s.f Reg.PMU_REQ_STATUS_TARGET == 2 &&
      (match s.pm.entryAt with | some e => decide (e ≤ s.mfN) | none => false)) ||
     (match s.pu.switchAt with | some (true, e) => decide (e ≤ s.mfN) | _ => false))

/-- The mark of E has come, and the entry has still to take place (R444). -/
def State.entryDue (s : State) : Bool :=
  s.satinDue_ || (s.dormantPending && !s.inDormant && (match s.pm.entryAt with | some e => decide (e ≤ s.mfN) | none => false))

/-- The operating points that both domains hold are saved (R449). -/
def State.savePoints (s : State) : State :=
  s.updPm (fun p => { p with savedCore := s.f Reg.PMU_STATUS_CORE_FOP, savedDsp := s.f Reg.PMU_STATUS_DSP_FOP,
                             savedCoreV := s.f Reg.PMU_STATUS_CORE_VOP, savedDspV := s.f Reg.PMU_STATUS_DSP_VOP })

/-- A wake source fires (R444, R451, R460): it ends a sleep request whose entry point has not come, or starts the return from
SATIN or DORMANT; one at E or later waits until the entry has taken place. In a pair the request in the HOLDER's order is taken back by one for ACTIVE. WAKE_N follows a return from DORMANT that PCIe did not wake (R341, R457). -/
def State.wake (s : State) (w : WakeSource) : State :=
  if s.wakeEnabled w then
    if s.entryDue then s.updPm (fun p => { p with lateWake := p.lateWake.or (some w) })
    else if s.inSatin && !s.dormantPending then
      if s.returnPending then s else (s.logWake (wakeCode w) false).startReturn
    else if s.inDormant then
      if s.pm.returning.isSome then s
      else
        let s := s.updPm (fun p => { p with returning := some (wakeCode w) })
        s.logWake (wakeCode w) false
    else
      let own := s.flag Reg.PMU_REQ_STATUS_BUSY && s.pm.entryAt.isSome
      let pair := (match s.pu.switchAt with | some (b, _) => b | none => false) ||
        (own && s.lockstep && s.f Reg.PMU_REQ_STATUS_TARGET == 2)
      if !own && !pair then s
      else
        let s := s.logWake (wakeCode w) true
        let s := if pair then (s.updPu (fun p => { p with switchAt := none })).pairSwitch false else s
        if own then (s.endRequest St.abortedByWake).rescan else s
  else s

/-- The wake that waited for the entry begins the return (R444). -/
def State.wakeLate (s : State) : State :=
  match s.pm.lateWake with
  | some w => (s.updPm (fun p => { p with lateWake := none })).wake w
  | none => s

/-- The operating points of both domains. -/
def State.setPoints (s : State) (core dsp : Nat) : State :=
  ((((s.setF Reg.PMU_STATUS_CORE_FOP core).setF Reg.PMU_STATUS_CORE_VOP core).setF Reg.PMU_STATUS_DSP_FOP dsp).setF
    Reg.PMU_STATUS_DSP_VOP dsp)

/-- The DSP operating point changes during an observing window (R246). -/
def State.markOp (s : State) : State :=
  { s with gd := { s.gd with obs := s.gd.obs.map (fun o => { o with opChanged := true }) } }

/-- The device abdicates (R300): TIME frames carry ABDICATE, and FRAME_SYNC_OUT stays low. -/
def State.abdicate (s : State) : State :=
  if s.role = 0 then s else s.updPu (fun p => { p with abdicate := true })

end Sys2Proof.Machine
end

