-- ==== Sys2Proof/Machine/Link.lean ====
section
/-! DEFINITION. Sending on the trunks: the bytes of packets (R38 to R40), the start of non-periodic attempts (R44, R54 to R63,
R154), what their answers do to a transfer (R55 to R59), and locked sequences (R405 to R408). -/

namespace Sys2Proof.Machine

/-! ## Packets -/

/-- FLAGS (R40). -/
def pktFlags (last twill tun lkd mc np : Bool) (mf path : Nat) : Nat :=
  b2n last + 2 * b2n twill + 4 * b2n tun + 8 * b2n lkd + 16 * b2n mc + 32 * (mf % 2) + 64 * b2n np + 128 * path

/-- Sequence numbers count modulo 2^16: steps from `a` to `b`. -/
def seqDist (a b : Nat) : Nat := (b + 65536 - a % 65536) % 65536

/-! ## Paths (R275) -/

/-- The trunk that carries the non-periodic traffic of a device: that of the preferred path, while that path is open. -/
def State.prefRoot (s : State) (dev : Nat) : Nat :=
  match s.dev dev with
  | some d =>
    match d.path1 with
    | some q =>
      let one := (s.trunk d.path0.root).prefPath == 1
      let (a, b) := if one then (q, d.path0) else (d.path0, q)
      if s.pathOpen a || !s.pathOpen b then a.root else b.root
    | none => d.path0.root
  | none => 0

/-- The trunk on which a transfer's next attempt goes. -/
def State.xferTrunk (s : State) (r : Xfer) : Nat :=
  match r.owner with
  | .tm p => s.tmTrunk p (r.handle / 16)
  | _ => s.prefRoot (r.handle / 16)

/-- Hops to a device on a trunk. -/
def State.hopsOf (s : State) (dev t : Nat) : List (Nat × Nat) := ((s.dev dev).bind (fun d => hopsVia d t)).getD []

/-! ## Attempts (R44, R58) -/

/-- A non-periodic attempt: transfer, KIND and INNER, handle, packet, SEQ and LENGTH of the token, TUN, LKD, and the DATA that
follows, with its LAST. -/
structure NpOut where
  x : Nat
  kind : Nat
  inner : Nat
  h : Nat
  seq : Nat
  exp : Nat
  len : Nat
  tun : Bool
  lkd : Bool
  last : Bool
  payload : Option (List Byte)

/-- Bytes that an attempt puts on the lane downstream: its token, and the DATA behind it. -/
def NpOut.bytes (o : NpOut) : Nat := 16 + (match o.payload with | some b => 16 + b.length | none => 0)

/-- Tags of trunk `t` that R44 leaves free. -/
def State.freeTags (s : State) (t : Nat) : List Nat := (List.range 4096).filter (s.tagFree t)

/-- Start an attempt on trunk `t` (R44, R54, R58): a free tag, the token, the DATA, and the response window. -/
def State.sendNp (s : State) (t : Nat) (o : NpOut) : State :=
  let tag := s.choose (s.freeTags t) 0
  let s := s.fresh
  let win := (if o.kind = Pk.ping then Config.rttDefault else s.rttOf o.h) + 50 + (if s.relays t then s.relayTicks else 0)
  let s := s.setNpTx (npKey t s.mfN tag) (some ⟨o.x, o.kind, o.inner, o.h, o.seq, o.exp, o.len, s.now, s.now + win, s.mfN⟩)
  let fl := pktFlags false false o.tun o.lkd false true s.mfN (s.pathOf t)
  let s := s.putNp t ⟨o.kind, fl, tag, o.h, o.inner, o.len, o.exp, []⟩
  let s := match o.payload with
    | some b => s.putNp t ⟨Pk.data, fl + b2n o.last, tag, o.h, 0, b.length, o.exp, b⟩
    | none => s
  if s.relays t then s else s.bump (Reg.TS_NP_BYTES_COUNT t) o.bytes

/-- A transaction of transfer `x` for packet `q` is open. -/
def State.openFor (s : State) (x q : Nat) : Bool :=
  s.bus.np.any (fun e => match e.2 with | some t => t.xfer == x && t.seq == q | none => false)

/-- Direction of a control transfer's data stage: IN (R59). -/
def ctlIn (r : Xfer) : Bool := decide (128 ≤ field r.setup 0 1)
/-- LENGTH of a setup payload. -/
def ctlLen (r : Xfer) : Nat := field r.setup 8 2

/-- Packets that an IN transfer takes (R56): as many as its buffer needs. A tunnel frame is received to its end, also one over the limit of its
format, which is then discarded (R57). -/
def State.inPackets (s : State) (r : Xfer) : Nat :=
  if r.kind = .tunnelRx then 65536 else max 1 (ceilDiv (r.len + (if r.crc then 4 else 0)) (s.packetSize r))

/-- Everything that an IN transfer waits for has been received. -/
def State.allIn (s : State) (r : Xfer) : Bool := r.lastSeen || (r.kind == .bulkIn && decide (s.inPackets r ≤ seqDist r.first r.next))

/-- The attempts of transfer `x` that may start now, oldest packet first (R55, R56, R59, R62). -/
def State.attempts (s : State) (x : Nat) (r : Xfer) : List NpOut :=
  let mf := s.mfN
  let free (q : Nat) : Bool := !s.openFor x q && decide ((attOf r.att q).notBefore ≤ mf)
  let classic := s.cf r.handle Cx.classic == 1
  let mps := s.packetSize r
  let tun := r.kind == .tunnelTx || r.kind == .tunnelRx
  -- one packet, natively or by a split
  let mk (kind h q exp len : Nat) (last : Bool) (pl : Option (List Byte)) : List NpOut :=
    if !free q then []
    else if classic then
      match (attOf r.att q).split with
      | none => [⟨x, Pk.ssplit, kind % 16, h, q, exp, len, tun, false, last, pl⟩]
      | some (m, first) => if m ≤ mf then [⟨x, Pk.csplit, kind % 16, h, q, first, len, tun, false, false, none⟩] else []
    else [⟨x, kind, 0, h, q, exp, len, tun, false, last, pl⟩]
  let out (h : Nat) (b : PktBuf) : List NpOut := mk Pk.bulkOut h b.seq b.seq b.data.length b.last (some (s.bufBytes r b))
  match r.kind with
  | .control =>
    match r.stage with
    | 0 => mk Pk.setup r.handle 0 0 16 true (some r.setup)
    | 1 =>
      if ctlIn r then (if r.bufs.isEmpty then mk Pk.bulkIn (r.handle + 8) r.next r.next 1024 false none else [])
      else r.bufs.flatMap (out r.handle)
    | 2 =>
      if ctlIn r && ctlLen r != 0 then out r.handle ⟨r.next, [], true⟩
      else mk Pk.bulkIn (r.handle + 8) r.ack r.ack 1024 false none
    | _ => []
  | .bulkOut | .tunnelTx => r.bufs.flatMap (out r.handle)
  | .bulkIn | .tunnelRx =>
    if s.allIn r then []
    else
      let w := s.windowOf r
      let stop := (r.bufs.find? (·.last)).map (fun b => seqDist r.next b.seq)
      (List.range w).flatMap (fun i =>
        let q := (r.next + i) % 65536
        let room := !(r.bufs.any (fun b => b.seq % w == q % w)) && decide (seqDist r.first r.next + i < s.inPackets r)
        if room && (match stop with | some n => decide (i < n) | none => true) then mk Pk.bulkIn r.handle q r.next mps false none
        else [])

/-! ## What starts (R64, R110, R154, R407) -/

/-- A locked sequence holds the transfer back (R64, R154): one to its device, or one whose path through the hubs of its trunk it shares. A
transfer to address 0 goes where the enumeration of its subtree stands. -/
def State.lockHolds (s : State) (r : Xfer) : Bool :=
  let t := s.xferTrunk r
  let dev := r.handle / 16
  let hops := match r.owner, s.enumOf t with
    | .tm _, some e => if dev = 0 then s.posHops e.pos else s.hopsOf dev t
    | _, _ => s.hopsOf dev t
  s.xb.views.any (fun v => match v.2.lock with
    | some l => l.open_ && (l.dev == dev || (l.trunk == t && hops.any (fun x => (s.hopsOf l.dev t).contains x)))
    | none => false)

/-- A transfer is ready to send (R64, R110, R165, R425). A CLEAR_STALL that must go first is asked of the TM when the transfer
comes to the head of its endpoint. The TM addresses a device whose contexts are not written yet (R116, step 9). -/
def State.ready_ (s : State) (x : Nat) (r : Xfer) : Bool :=
  !r.waitSlot && !r.clearStall && !r.squash && !s.behind x r && !s.lockHolds r &&
  (r.handle == 0 || r.ofTm || s.cf r.handle Cx.valid == 1)

/-- The walk of trunk `t` has ended in this microframe. -/
def State.walkOver (s : State) (t : Nat) : Bool :=
  let w := Tbl.get (fun _ => WalkRec.reset) s.ts.walks t
  w.deferred.isEmpty && w.rest.isEmpty

/-- The walker of a trunk runs: its port is ENABLED and faces downstream, its lanes are in service and not in a Twill retraining, and the walkers
are enabled and not held by a warm reset (R80, R91, R132, R157, R469). -/
def State.trunkRuns (s : State) (t : Nat) : Bool :=
  s.time.run && s.portEnabled t && s.inService t && !(s.trunk t).silent && s.rootRole t && s.flag Reg.TS_CTRL_EN && !s.halted

/-- Locked sequences whose attempt is on the bus of trunk `t`. -/
def State.openLocks (s : State) (t : Nat) : Nat :=
  (s.xb.views.filter (fun v => match v.2.lock with | some l => l.open_ && l.trunk == t | none => false)).length

/-- Free tags of trunk `t` beyond those that the open locked sequences may still need, 6 each (R44; DESIGN CHOICE, log entry 59). -/
def State.spareTags (s : State) (t : Nat) : Nat := (s.freeTags t).length - 6 * s.openLocks t

/-- Non-periodic transactions may start on trunk `t` (R5, R154, R293, R450), or by relay (R298). -/
def State.npOpen (s : State) (t : Nat) : Bool :=
  (if s.relays t then s.isHolder && s.lockstep && s.miodelUp && s.portEnabled t && s.time.run && s.flag Reg.TS_CTRL_EN && !s.mute
    else s.trunkRuns t && !s.mute && s.walkOver t)
    && decide (s.time.phase < Config.fillTick) && !s.inSatin && !s.inDormant && !s.isPartner && decide (1 ≤ s.spareTags t)

/-! ## The end of a transfer's stages -/

/-- What the end of a software request changes in what the TM knows (R54, R108): CLEAR_STALL, SET_PORT_FEATURE,
CLEAR_PORT_FEATURE and GET_PORT_STATUS. -/
def State.softDone (s : State) (r : Xfer) : State :=
  let dev := r.handle / 16
  let hub := match s.dev dev with | some d => d.cls == 1 || d.cls == 2 | none => false
  match field r.setup 0 1, field r.setup 1 1 with
  | 0x00, 0x05 => s.stallCleared (field r.setup 4 4)
  | 0x20, 0x21 => if hub then s.hubFeature dev (field r.setup 4 4) (field r.setup 2 2) else s
  | 0x20, 0x22 => if hub then s.hubClear dev (field r.setup 4 4) (field r.setup 2 2) else s
  | 0xA0, 0x20 => if hub then s.hubStatus dev (field r.setup 4 4) r.data else s
  | _, _ => s

/-- A received tunnel frame is over the limit of its format (R57). -/
def frameOver (r : Xfer) : Bool :=
  decide ((if r.format = 0 then 9216 else 1536) < r.data.length)

/-- A transfer ends with OK when nothing of it is left to do (R55, R56, R59, R390, R391, R411). -/
def State.settleXfer (s : State) (x : Nat) : State :=
  match s.xfer x with
  | none => s
  | some r =>
    match r.kind with
    | .control =>
      if r.stage = 3 ∧ r.bufs = [] then
        let s := match r.owner with | .tm _ => s | _ => s.softDone r
        s.endXfer x St.ok
      else s
    | .bulkOut | .tunnelTx => if r.lastSeen && r.bufs.isEmpty then s.endXfer x St.ok else s
    | .bulkIn =>
      if s.allIn r && r.bufs.isEmpty then
        if r.crc then
          let n := r.data.length
          let bad := decide (n < 4 ∨ field r.data (n - 4) 4 ≠ crc32 (r.data.take (n - 4)))
          (s.setXfer x (some { r with moved := n - 4, lastSeen := true })).endXfer x (if bad then St.aborted else St.ok)
        else s.endXfer x St.ok
      else s
    | .tunnelRx =>
      if r.lastSeen && r.bufs.isEmpty then
        if frameOver r then
          (s.bump Reg.XB_TUNNEL_ERRORS_OVERSIZE).setXfer x
            (some { r with first := r.next, data := [], moved := 0, hostDone := 0, lastSeen := false, lastAt := none })
        else
          let n := r.data.length
          let bad := decide (r.format = 0 ∧ field r.data (n - 4) 4 ≠ crc32 (r.data.take (n - 4)))
          ((s.when bad (fun s => s.bump Reg.XB_TUNNEL_ERRORS_FCS_BAD)).setXfer x (some { r with moved := n })).endXfer x St.ok
      else s

/-- A squashed transfer ends when its open attempts have ended (R423). -/
def State.afterTx (s : State) (x : Nat) : State :=
  match s.xfer x with
  | none => s
  | some r =>
    if r.squash && !(s.bus.np.any (fun e => match e.2 with | some t => t.xfer == x | none => false)) then
      s.endXfer x St.squashed
    else s

/-- An ACK ends the attempt of packet `q` (R55, R59): a buffer is released, or a stage ends. -/
def State.ackXfer (s : State) (x q : Nat) : State :=
  match s.xfer x with
  | none => s
  | some r =>
    let n := match r.bufs.find? (fun b => b.seq == q) with | some b => b.data.length | none => 0
    let lastB := r.bufs.any (fun b => b.seq == q && b.last)
    let r := settle r q
    let left := r.bufs.filter (fun b => b.seq != q)
    let r := match r.kind with
      | .control =>
        match r.stage with
        | 0 => { r with stage := if ctlLen r = 0 then 2 else 1, next := 1, ack := 1 }
        | 1 => { r with bufs := left, moved := r.moved + n, ack := q + 1, stage := if lastB then 2 else 1 }
        | 2 => { r with stage := 3 }
        | _ => r
      | _ => { r with bufs := left, moved := r.moved + n,
                      ack := match left with | b :: _ => b.seq | [] => r.next }
    -- the data of a request of the TM or the bridge is in its buffer from the data stage on
    let fresh := r.kind == .control && r.stage == 1 && q == 0
    let s := (s.setXfer x (some r)).when fresh (fun s => r.bufs.foldl (fun (s : State) b => s.fillBuf r b) s)
    ((s.showBufs r).saveSeq r).settleXfer x

/-- A good DATA for packet `q` of an IN transfer (R56, R59, R173): its buffer is FULL, EXPSEQ advances over every packet received
in order. A transfer without a channel keeps the bytes for the TM or the bridge. -/
def State.dataXfer (s : State) (x q : Nat) (b : List Byte) (last : Bool) : State :=
  match s.xfer x with
  | none => s
  | some r =>
    let r := settle r q
    match r.kind with
    | .control =>
      let r := if r.stage = 2 then { r with stage := 3 }
        else
          let r := { r with next := q + 1, moved := r.moved + b.length, data := r.data ++ b, lastSeen := last
                            stage := if last then 2 else 1 }
          if r.chan.isSome then { r with bufs := [⟨q, b, last⟩] } else r
      (((s.setXfer x (some r)).fillBuf r ⟨q, b, last⟩).showBufs r |>.saveSeq r).settleXfer x
    | _ =>
      let bufs := insertBy (fun a c => decide (seqDist r.next a.seq < seqDist r.next c.seq)) ⟨q, b, last⟩ r.bufs
      let adv := (List.range 8).foldl (fun n _ => if bufs.any (fun c => c.seq == n) then (n + 1) % 65536 else n) r.next
      let seen := bufs.any (fun c => c.last && decide (seqDist r.next c.seq < seqDist r.next adv))
      let r := { r with
        bufs := bufs, next := adv, moved := r.moved + b.length, lastSeen := r.lastSeen || seen
        lastAt := if last && r.lastAt.isNone then some s.now else r.lastAt }
      ((s.setXfer x (some r)).fillBuf r ⟨q, b, last⟩).showBufs r |>.saveSeq r

/-! ## Locked sequences (R405 to R408) -/

/-- The setup payload of a register access (R61, R393). -/
def regSetup (write : Bool) (width index : Nat) : List Byte :=
  setup (if write then 0x00 else 0x80) (if write then 0x11 else 0x10) width index width

/-- A packet of a locked sequence: its part `n`. -/
def lockOut (k dev n kind exp len : Nat) (last : Bool) (pl : Option (List Byte)) : NpOut :=
  ⟨lockWait + k, kind, 0, dev * 16 + (if kind = Pk.bulkIn then 8 else 0), n, exp, len, false, true, last, pl⟩

/-- Two paths share a Lybor hub. -/
def State.sharesHub (s : State) (a b : LockSeq) : Bool :=
  a.trunk == b.trunk && (s.hopsOf a.dev a.trunk).any (fun x => (s.hopsOf b.dev b.trunk).any (fun y => y.1 == x.1))

/-- A locked sequence could start its LOCK at this tick (R406, R408). -/
def State.lockReady (s : State) (l : LockSeq) : Bool :=
  !l.open_ && s.npOpen l.trunk && decide (9 ≤ s.spareTags l.trunk) && !(s.trunk l.trunk).slotOn && decide (l.notBefore ≤ s.now)
    && decide (s.time.phase + s.rttOf (l.dev * 16) + 250 ≤ Config.fillTick)
    && !(s.bus.xfers.any (fun e => match e.2 with | some r => r.handle == l.dev * 16 && r.stage != 0 | none => false))

/-- Another sequence whose path shares a hub goes first (R407). -/
def State.lockYields (s : State) (k : Nat) (l : LockSeq) : Bool :=
  s.xb.views.any (fun v => v.1 != k && (match v.2.lock with
    | some m => s.sharesHub l m && (m.open_ || (s.lockReady m && decide (l.dev < m.dev)))
    | none => false))

def State.setLock (s : State) (k : Nat) (l : LockSeq) : State := s.updView k (fun v => { v with lock := some l })

/-- The first part of an attempt: LOCK, the read's SETUP, and the token for its value. -/
def State.lockSend (s : State) (k : Nat) : State :=
  match (s.view k).lock, s.openAcc k with
  | some l, some a =>
    let s := s.setLock k { l with lockAck := false, setupAck := false, old := none, acks := 0, need := 0, sentWrite := false,
                                  failed := false, busy := false, open_ := true, tries := l.tries + 1 }
    let t := l.trunk
    let s := s.sendNp t (lockOut k l.dev 1 Pk.lock 0 0 false none)
    let s := s.sendNp t (lockOut k l.dev 2 Pk.setup 0 16 true (some (regSetup false a.width (s.viewIndex k a.off))))
    s.sendNp t (lockOut k l.dev 3 Pk.bulkIn 1 1024 false none)
  | _, _ => s

/-- The value that an AtomicOp writes, if it writes one (R404). -/
def atomicNew (op : AtomicOp) (width old : Nat) : Option Nat :=
  let m := 2 ^ (8 * width)
  match op with
  | .fetchAdd v => some ((old + v.toNat) % m)
  | .swap v => some (v.toNat % m)
  | .cas c v => if c.toNat % m = old then some (v.toNat % m) else none

/-- The second part: the read's status, the write where there is one, and UNLOCK. -/
def State.lockSecond (s : State) (k : Nat) : State :=
  match (s.view k).lock, s.openAcc k with
  | some l, some a =>
    match l.old, a.kind with
    | some old, .atomic op =>
      let t := l.trunk
      let new := atomicNew op a.width old
      let s := s.setLock k { l with sentWrite := true, need := if new.isSome then 5 else 2 }
      let s := s.sendNp t (lockOut k l.dev 4 Pk.bulkOut 2 0 true (some []))
      let s := match new with
        | some v =>
          let s := s.sendNp t (lockOut k l.dev 5 Pk.setup 0 16 true (some (regSetup true a.width (s.viewIndex k a.off))))
          let s := s.sendNp t (lockOut k l.dev 6 Pk.bulkOut 1 a.width true (some (leBytes a.width v)))
          s.sendNp t (lockOut k l.dev 7 Pk.bulkIn 2 1024 false none)
        | none => s
      s.sendNp t (lockOut k l.dev 8 Pk.unlock 0 0 false none)
    | _, _ => s
  | _, _ => s

/-- An attempt has failed (R407, R408): UNLOCK goes out if it has not, and the attempt ends; the limit ends the AtomicOp. -/
def State.lockFail (s : State) (k : Nat) (busy : Bool) : State :=
  match (s.view k).lock with
  | none => s
  | some l =>
    if !l.open_ then s
    else
      let sent := l.sentWrite
      let s := (s.closeAll (lockWait + k)).setLock k { l with open_ := false, failed := true, busy := busy, since := s.mfN,
                                                              notBefore := s.now + (if busy then 1600 + s.rttOf (l.dev * 16) else 0) }
      let s := if sent then s else s.sendNp l.trunk { lockOut k l.dev 8 Pk.unlock 0 0 false none with x := lockWait + 4096 * 4 }
      if s.f Reg.XB_LOCK_CFG_RETRIES < l.tries then s.lockEnd k (if busy then St.lockContended else St.retryExhausted) else s

/-- An answer of part `n` of a locked sequence has come: LOCK_ACK, ACK or DATA. -/
def State.lockAnswer (s : State) (k n : Nat) (data : List Byte) : State :=
  match (s.view k).lock, s.openAcc k with
  | some l, some a =>
    if !l.open_ then s
    else
      let l := match n with
        | 1 => { l with lockAck := true }
        | 2 => { l with setupAck := true }
        | 3 => { l with old := some (leNat (data.take a.width)) }
        | _ => { l with acks := l.acks + 1 }
      let s := s.setLock k l
      if !l.sentWrite then (if l.lockAck && l.setupAck && l.old.isSome then s.lockSecond k else s)
      else if l.need ≤ l.acks then s.lockEnd k St.ok else s
  | _, _ => s

/-- STALL ends the AtomicOp at once (R408); UNLOCK goes out if it has not. -/
def State.lockStall (s : State) (k : Nat) : State :=
  match (s.view k).lock with
  | none => s
  | some l =>
    if !l.open_ then s
    else
      let s := s.lockEnd k St.stall
      if l.sentWrite then s else s.sendNp l.trunk { lockOut k l.dev 8 Pk.unlock 0 0 false none with x := lockWait + 4096 * 4 }

/-- The view of a transaction of a locked sequence. -/
def lockView (x : Nat) : Option Nat := if lockWait ≤ x then some (x - lockWait) else none

end Sys2Proof.Machine
end

