-- ==== Sys2Proof/Machine/Sine.lean ====
section
/-! DEFINITION. The sine table of the tone generators (R193): entries 0 to 256 of T, the rest by symmetry. -/

namespace Sys2Proof.Machine

/-- Entries 0 to 31 of T. -/
def sineQ0 : List Nat := [
  0, 13176712, 26352928, 39528151, 52701887, 65873638, 79042909, 92209205,
  105372028, 118530885, 131685278, 144834714, 157978697, 171116732, 184248325, 197372981,
  210490206, 223599506, 236700388, 249792358, 262874923, 275947592, 289009871, 302061269,
  315101294, 328129457, 341145265, 354148229, 367137860, 380113669, 393075166, 406021864]

/-- Entries 32 to 63 of T. -/
def sineQ1 : List Nat := [
  418953276, 431868915, 444768293, 457650927, 470516330, 483364019, 496193509, 509004318,
  521795963, 534567963, 547319836, 560051103, 572761285, 585449903, 598116478, 610760535,
  623381597, 635979190, 648552837, 661102068, 673626408, 686125386, 698598533, 711045377,
  723465451, 735858287, 748223418, 760560379, 772868706, 785147934, 797397602, 809617248]

/-- Entries 64 to 95 of T. -/
def sineQ2 : List Nat := [
  821806413, 833964637, 846091463, 858186434, 870249095, 882278991, 894275670, 906238681,
  918167571, 930061894, 941921200, 953745043, 965532978, 977284561, 988999351, 1000676905,
  1012316784, 1023918549, 1035481765, 1047005996, 1058490807, 1069935767, 1081340445, 1092704410,
  1104027236, 1115308496, 1126547765, 1137744620, 1148898640, 1160009404, 1171076495, 1182099495]

/-- Entries 96 to 127 of T. -/
def sineQ3 : List Nat := [
  1193077990, 1204011566, 1214899812, 1225742318, 1236538675, 1247288477, 1257991319, 1268646799,
  1279254515, 1289814068, 1300325059, 1310787095, 1321199780, 1331562722, 1341875532, 1352137822,
  1362349204, 1372509294, 1382617710, 1392674071, 1402677999, 1412629117, 1422527050, 1432371426,
  1442161874, 1451898025, 1461579513, 1471205973, 1480777044, 1490292364, 1499751575, 1509154322]

/-- Entries 128 to 159 of T. -/
def sineQ4 : List Nat := [
  1518500249, 1527789006, 1537020243, 1546193612, 1555308767, 1564365366, 1573363067, 1582301533,
  1591180425, 1599999410, 1608758157, 1617456334, 1626093615, 1634669675, 1643184190, 1651636840,
  1660027308, 1668355276, 1676620431, 1684822463, 1692961061, 1701035921, 1709046738, 1716993211,
  1724875039, 1732691927, 1740443580, 1748129706, 1755750016, 1763304223, 1770792043, 1778213194]

/-- Entries 160 to 191 of T. -/
def sineQ5 : List Nat := [
  1785567395, 1792854372, 1800073848, 1807225552, 1814309215, 1821324571, 1828271355, 1835149305,
  1841958164, 1848697673, 1855367580, 1861967633, 1868497585, 1874957188, 1881346201, 1887664382,
  1893911493, 1900087300, 1906191569, 1912224072, 1918184580, 1924072870, 1929888719, 1935631909,
  1941302224, 1946899450, 1952423376, 1957873795, 1963250500, 1968553291, 1973781966, 1978936330]

/-- Entries 192 to 223 of T. -/
def sineQ6 : List Nat := [
  1984016188, 1989021349, 1993951624, 1998806828, 2003586778, 2008291295, 2012920200, 2017473320,
  2021950483, 2026351521, 2030676268, 2034924561, 2039096240, 2043191149, 2047209132, 2051150040,
  2055013722, 2058800035, 2062508835, 2066139982, 2069693341, 2073168776, 2076566159, 2079885359,
  2083126253, 2086288719, 2089372637, 2092377891, 2095304369, 2098151959, 2100920555, 2103610053]

/-- Entries 224 to 255 of T. -/
def sineQ7 : List Nat := [
  2106220351, 2108751351, 2111202958, 2113575079, 2115867625, 2118080510, 2120213650, 2122266966,
  2124240379, 2126133816, 2127947205, 2129680479, 2131333571, 2132906419, 2134398965, 2135811152,
  2137142926, 2138394239, 2139565042, 2140655292, 2141664947, 2142593970, 2143442325, 2144209981,
  2144896909, 2145503082, 2146028479, 2146473079, 2146836865, 2147119824, 2147321945, 2147443221]

/-- Entries 256 to 256 of T. -/
def sineQ8 : List Nat := [
  2147483647]

/-- Entries 0 to 256 of T: round(sin(2πi / 1,024) × (2^31 − 1)). -/
def sineQuarter : List Nat := sineQ0 ++ sineQ1 ++ sineQ2 ++ sineQ3 ++ sineQ4 ++ sineQ5 ++ sineQ6 ++ sineQ7 ++ sineQ8

/-- Entry `i` of T (R193). -/
def sineT (i : Nat) : Int :=
  let k := i % 1024
  if k ≤ 256 then sineQuarter.getD k 0
  else if k ≤ 512 then sineQuarter.getD (512 - k) 0
  else if k ≤ 768 then -(sineQuarter.getD (k - 512) 0 : Int)
  else -(sineQuarter.getD (1024 - k) 0 : Int)

/-- The sine of a 32-bit phase, interpolated towards −∞ (R193). -/
def sinePhase (ph : Nat) : Int :=
  let i := ph / 2 ^ 22 % 1024
  let t := sineT i
  t + (sineT (i + 1) - t) * (ph % 2 ^ 22 : Nat) / 2 ^ 22

end Sys2Proof.Machine
end

