-- ==== Sys2Proof/Machine/Mix.lean ====
section
/-! DEFINITION. The arithmetic of the mixing and routing engine (R187 to R210): number formats, rounding and saturation, ramps,
and what each node kind computes in one pass. Every function here is pure: state and inputs in, state and outputs out. -/

namespace Sys2Proof.Machine

/-! ## Rounding and saturation (R188) -/

/-- A value with a mark that it was saturated. -/
structure Sat where
  v : Int
  hit : Bool
  deriving DecidableEq, Repr

/-- Saturate to [lo, hi]. -/
def satTo (lo hi x : Int) : Sat := if x < lo then ⟨lo, true⟩ else if hi < x then ⟨hi, true⟩ else ⟨x, false⟩

/-- Saturate to a signed 32-bit value. -/
def sat32 (x : Int) : Sat := satTo (-2147483648) 2147483647 x

/-- An accumulator (62 fractional bits) becomes a Q1.31 sample (R188, 5). -/
def rndAcc (a : Int) : Sat := sat32 ((a + 2 ^ 30) / 2 ^ 31)

/-- A 24-bit sample becomes Q1.31 (R188, 1). -/
def from24 (x : Int) : Int := x * 256

/-- A Q1.31 sample becomes 24-bit (R188, 2). -/
def to24 (x : Int) : Sat := satTo (-8388608) 8388607 ((x + 128) / 256)

/-- A gain (Q5.27) modified by a weight (Q2.30) (R188, 4). -/
def gEff (g w : Int) : Sat := sat32 ((g * w + 2 ^ 29) / 2 ^ 30)

/-- Sample × Q5.27, and sample × Q2.30, aligned to the accumulator (R188, 3). -/
def mulGain (x g : Int) : Int := x * g * 16
def mulWt (x w : Int) : Int := x * w * 2

/-- Magnitude of a sample. -/
def mag (x : Int) : Int := if x < 0 then -x else x

/-- A signed little-endian 24-bit value of three bytes. -/
def s24 (b : List Byte) : Int :=
  let v := (b.getD 0 0).toNat + 256 * (b.getD 1 0).toNat + 65536 * (b.getD 2 0).toNat
  if v < 8388608 then v else (v : Int) - 16777216

/-- Three bytes of a signed 24-bit value. -/
def bytes24 (x : Int) : List Byte :=
  let v := (x % 16777216).toNat
  [BitVec.ofNat 8 v, BitVec.ofNat 8 (v / 256), BitVec.ofNat 8 (v / 65536)]

/-- Silence. -/
def zeros6 : List Int := [0, 0, 0, 0, 0, 0]

/-- Sample `n` of a stream. -/
def smp (x : List Int) (n : Nat) : Int := x.getD n 0

/-- The indices of a pass's samples. -/
def six : List Nat := [0, 1, 2, 3, 4, 5]

/-- 1.0 in Q2.30. -/
def one30 : Int := 1073741824

/-! ## Ramps (R198) -/

/-- The value after `r` samples of a ramp, truncated towards 0. -/
def Ramp.val (p : Ramp) : Int :=
  if p.len ≤ p.r then p.target else (p.w0 * p.len + (p.target - p.w0) * p.r).tdiv p.len

/-- The value `n` samples further. -/
def Ramp.at_ (p : Ramp) (n : Nat) : Int := Ramp.val { p with r := p.r + n }

/-- A steady value. -/
def Ramp.const (w : Int) : Ramp := ⟨w, w, 0, 0⟩

/-- A target: a change starts a new ramp from the current value, over `len` samples. -/
def Ramp.aim (p : Ramp) (t : Int) (len : Nat) : Ramp := if p.target = t then p else ⟨p.val, t, 0, len⟩

/-- The ramp after a pass. -/
def Ramp.pass (p : Ramp) : Ramp := if p.len ≤ p.r + 6 then Ramp.const p.target else { p with r := p.r + 6 }

/-! ## The result of a node -/

/-- What a node's pass gives: its new state, its output, FLAG, and whether it saturated. -/
structure NodeRes where
  st : NodeSt
  x : List Int
  flag : Bool
  sat : Bool

/-! ## MIX (R197 to R199) -/

/-- Whether input `i` is active, and its hold afterwards (R197). -/
def active (m : MixIn) (s : Stream) (hold : Nat) : Bool × Nat :=
  match m.mode with
  | .always => (true, 0)
  | .flag => (s.flag, 0)
  | .level =>
    if s.x.any (fun x => decide (2 * m.thresh ≤ mag x)) then (true, m.hold)
    else if 0 < hold then (true, hold - 1) else (false, 0)

/-- Activity of every input. -/
def activities (ins : List MixIn) (xs : List Stream) (holds : List Nat) : List (Bool × Nat) :=
  (List.range ins.length).map (fun i =>
    match ins[i]?, xs[i]? with
    | some m, some x => active m x (holds.getD i 0)
    | _, _ => (false, 0))

/-- The smallest priority among the active inputs (R198). -/
def smallestPrio (ins : List MixIn) (act : List (Bool × Nat)) : Option Nat :=
  (List.range ins.length).foldl (fun q i =>
    match ins[i]? with
    | some m => if (act.getD i (false, 0)).1 then
        (match q with | some v => some (min v m.prio) | none => some m.prio) else q
    | none => q) none

/-- Target weight of an input (R198). -/
def mixTarget (m : MixIn) (q : Option Nat) (duck : Int) : Int :=
  match q with
  | some q =>
    if q < m.prio ∧ q ≤ m.ovrLevel then 0
    else if q < m.prio ∧ m.duckEn then duck
    else one30
  | none => one30

/-- A MIX node's pass (R197 to R199). -/
def runMix (ins : List MixIn) (duck : Int) (attack release : Nat) (st : NodeSt) (xs : List Stream) : NodeRes :=
  let act := activities ins xs st.holds
  let q := smallestPrio ins act
  let targets := ins.map (fun m => mixTarget m q duck)
  let ramps := (List.range ins.length).map (fun i =>
    let p := st.ramps.getD i (Ramp.const one30)
    let t := targets.getD i one30
    p.aim t (6 * (if t < p.target then attack else release)))
  let outs := six.map (fun n =>
    (List.range ins.length).foldl (fun (a : Int × Bool) i =>
      match ins[i]?, xs[i]?, ramps[i]? with
      | some m, some x, some p =>
        let g := gEff m.gain (p.at_ (n + 1))
        (a.1 + mulGain (smp x.x n) g.v, a.2 || g.hit)
      | _, _, _ => a) (0, false))
  let rs := outs.map (fun a => (rndAcc a.1, a.2))
  let flag := (List.range ins.length).any (fun i => targets.getD i 0 != 0 && (act.getD i (false, 0)).1)
  ⟨{ st with ran := true, ramps := ramps.map Ramp.pass, holds := act.map (·.2) }, rs.map (fun r => r.1.v), flag,
    rs.any (fun r => r.1.hit || r.2)⟩

/-! ## ROUTE (R200) -/

/-- The selected input: smallest priority, then lowest index. -/
def selected (ins : List MixIn) (act : List (Bool × Nat)) : Option Nat :=
  match smallestPrio ins act with
  | none => none
  | some q => (List.range ins.length).find? (fun i =>
      (act.getD i (false, 0)).1 && ((ins[i]?).map (·.prio)) == some q)

/-- A ROUTE node's pass. -/
def runRoute (ins : List MixIn) (xfade : Nat) (st : NodeSt) (xs : List Stream) : NodeRes :=
  let act := activities ins xs st.holds
  let sel := selected ins act
  let ramps := (List.range ins.length).map (fun i =>
    let p := st.ramps.getD i (Ramp.const 0)
    let t := if sel = some i then one30 else 0
    if sel = st.sel then p else if p.val = t then Ramp.const t else ⟨p.val, t, 0, 6 * xfade⟩)
  let rs := six.map (fun n => rndAcc ((List.range ins.length).foldl (fun a i =>
      match xs[i]?, ramps[i]? with
      | some x, some p => a + mulWt (smp x.x n) (p.at_ (n + 1))
      | _, _ => a) 0))
  let flag := match sel with
    | some i => ((xs[i]?).map (·.flag)).getD false
    | none => false
  ⟨{ st with ran := true, sel := sel, ramps := ramps.map Ramp.pass, holds := act.map (·.2) }, rs.map (·.v), flag,
    rs.any (·.hit)⟩

/-! ## GAIN, EQ (R201, R202) -/

/-- A GAIN node's pass. A node's first pass starts at its gain. -/
def runGain (g : Int) (mute : Bool) (ramp : Nat) (st : NodeSt) (x : Stream) : NodeRes :=
  let t := if mute then 0 else g
  let p := if st.ran then (st.ramps.getD 0 (Ramp.const t)).aim t (6 * ramp) else Ramp.const t
  let rs := six.map (fun n => rndAcc (mulGain (smp x.x n) (p.at_ (n + 1))))
  ⟨{ st with ran := true, ramps := [p.pass] }, rs.map (·.v), x.flag, rs.any (·.hit)⟩

/-- One sample through one section; the history is x1, x2, y1, y2 (R202). -/
def biquad (q : Biquad) (h : List Int) (x : Int) : Sat × List Int :=
  let y := rndAcc (mulWt x q.b0 + mulWt (h.getD 0 0) q.b1 + mulWt (h.getD 1 0) q.b2 - mulWt (h.getD 2 0) q.a1
    - mulWt (h.getD 3 0) q.a2)
  (y, [x, h.getD 0 0, y.v, h.getD 2 0])

/-- One sample through the chain: sample, histories, and whether it saturated. -/
def eqChain : List Biquad → List (List Int) → Int → Int × List (List Int) × Bool
  | [], _, x => (x, [], false)
  | q :: qs, hs, x =>
    let (y, h) := biquad q (hs.headD []) x
    let (z, hs', f) := eqChain qs hs.tail y.v
    (z, h :: hs', y.hit || f)

/-- An EQ node's pass. -/
def runEq (qs : List Biquad) (st : NodeSt) (x : Stream) : NodeRes :=
  let (out, hs, f) := six.foldl (fun (a : List Int × List (List Int) × Bool) n =>
    let (y, hs, f) := eqChain qs a.2.1 (smp x.x n)
    (a.1 ++ [y], hs, a.2.2 || f)) ([], st.hist, false)
  ⟨{ st with ran := true, hist := hs }, out, x.flag, f⟩

/-! ## LIMIT, METER (R205, R206) -/

/-- One sample of a LIMIT: envelope, output, saturation. -/
def limitStep (c k e x : Int) : Int × Int × Bool :=
  let a := mag x
  let r := rndAcc ((a - e) * k)
  let rises := decide (e < a)
  let e := if rises then a else e + r.v
  let g := if 2 * c < e then (2 * c * one30).tdiv e else one30
  let y := rndAcc (mulWt x g)
  (e, (satTo (-(2 * c)) (2 * c) y.v).v, y.hit || (r.hit && !rises))

/-- A LIMIT node's pass. -/
def runLimit (c k : Int) (st : NodeSt) (x : Stream) : NodeRes :=
  let (e, out, f) := six.foldl (fun (a : Int × List Int × Bool) n =>
    let (e, y, h) := limitStep c k a.1 (smp x.x n)
    (e, a.2.1 ++ [y], a.2.2 || h)) (st.env, [], false)
  ⟨{ st with ran := true, env := e }, out, x.flag, f⟩

/-- A METER node's pass `p` over windows of 2^w passes: the window begins at a multiple of 2^w, and a window of which a pass is skipped is given
up. -/
def runMeter (w p : Nat) (st : NodeSt) (x : Stream) : NodeSt :=
  let fresh := p % 2 ^ w == 0
  let goes := decide (0 < st.passes) && st.seen + 1 == p
  let st := if fresh || !goes then { st with peak := 0, sum := 0, passes := 0, seen := p } else { st with seen := p }
  if fresh || goes then
    let pk := x.x.foldl (fun a v => max a (min (mag v) 2147483647)) st.peak
    let sq := x.x.foldl (fun a v => a + min (v * v / 2 ^ 31) 2147483647) st.sum
    { st with ran := true, peak := pk, sum := sq, passes := st.passes + 1 }
  else { st with ran := true }

/-- The window that pass `p` of a METER completes. -/
def meterWin (w p : Nat) (st : NodeSt) : Option MeterWin :=
  if st.passes = 2 ^ w then some ⟨p + 1 - 2 ^ w, 2 ^ w, st.peak, st.sum / (6 * 2 ^ w : Nat)⟩ else none

/-! ## Tone generators (R193) -/

/-- Weight of sample `n` (in sixths) of the pass at cadence position `c`: the gate's ramps; `none` in the off part. -/
def gateSixths (on off c n : Nat) (firstRun : Bool) : Option Nat :=
  if off = 0 then some 6
  else
    let k := c % (on + off)
    if on ≤ k then none
    else
      let up := if k = 0 ∧ !(firstRun && decide (c = 0)) then n + 1 else 6
      let down := if k + 1 = on then 5 - n else 6
      some (min up down)

/-- LEVEL during a ramp, truncated towards 0 (R193). -/
def toneLevel (l : Int) (sixths : Nat) : Int := if sixths = 6 then l else (l * sixths).tdiv 6

/-- One step of the LFSR (R193). -/
def lfsrStep (v : Nat) : Nat := if v % 2 = 1 then Nat.xor (v / 2) 0x80200003 else v / 2

/-- A 32-bit pattern read as Q1.31. -/
def asS32 (v : Nat) : Int := if v < 2147483648 then v else (v : Int) - 4294967296

/-- The unrounded sample of a waveform at level `l`, as an accumulator value. -/
def toneAcc (w : Wave) (l : Int) (g : GenSt) : Int :=
  match w with
  | .sine | .sweep => mulWt (sinePhase g.ph1) l
  | .dual => (mulWt (sinePhase g.ph1) l + mulWt (sinePhase g.ph2) l) / 2
  | .noise => mulWt (asS32 g.lfsr) l

/-- The advance of a generator by one sample. -/
def toneStep (p : ToneParams) (g : GenSt) : GenSt :=
  match p.wave with
  | .sine => { g with ph1 := (g.ph1 + p.f1.toNat) % 2 ^ 32 }
  | .dual => { g with ph1 := (g.ph1 + p.f1.toNat) % 2 ^ 32, ph2 := (g.ph2 + p.f2.toNat) % 2 ^ 32 }
  | .noise => { g with lfsr := lfsrStep g.lfsr }
  | .sweep =>
    let adv := (g.word / 65536 % 2 ^ 32).toNat
    let step := ((p.f2.toNat : Int) - p.f1.toNat) * 65536 / (6 * max 1 p.sweepMf : Nat)
    let n := g.swept + 1
    if 6 * p.sweepMf ≤ n then { g with ph1 := (g.ph1 + adv) % 2 ^ 32, word := p.f1.toNat * 65536, swept := 0 }
    else { g with ph1 := (g.ph1 + adv) % 2 ^ 32, word := (g.word + step) % 2 ^ 48, swept := n }

/-- A generator at the start of a run. -/
def toneStart (p : ToneParams) (g : GenSt) : GenSt :=
  { g with running := true, ph1 := 0, ph2 := 0, word := p.f1.toNat * 65536, swept := 0,
           lfsr := if p.seed = 0 then 1 else p.seed.toNat, cad := 0 }

/-- A tone generator's pass (R193): samples, FLAG, whether it saturated. -/
def runTone (p : ToneParams) (trig : Bool) (pass : Nat) (g : GenSt) : GenSt :=
  if p.run || trig then
    let first := !g.running
    let g := if first then toneStart p g else g
    let (g, out, f) := six.foldl (fun (a : GenSt × List Int × Bool) n =>
      let y : Sat := match gateSixths p.onMf p.offMf a.1.cad n true with
        | none => ⟨0, false⟩
        | some k => rndAcc (toneAcc p.wave (toneLevel p.level k) a.1)
      (toneStep p a.1, a.2.1 ++ [y.v], a.2.2 || y.hit)) (g, [], false)
    { g with cad := g.cad + 1, out := ⟨pass, out, true⟩ :: g.out, satPass := if f then pass :: g.satPass else g.satPass }
  else { g with running := false, out := ⟨pass, zeros6, false⟩ :: g.out }

/-! ## Integer square root (R252) -/

/-- Largest r with r² ≤ n, bit by bit from bit `k − 1` down. -/
def isqrtFrom (n : Nat) : Nat → Nat → Nat
  | 0, r => r
  | k + 1, r => if (r + 2 ^ k) * (r + 2 ^ k) ≤ n then isqrtFrom n k (r + 2 ^ k) else isqrtFrom n k r

/-- floor(sqrt(n)) of a value below 2^80. -/
def isqrt (n : Nat) : Nat := isqrtFrom n 40 0

/-! ## The pilot (R259) -/

/-- Largest r with r^40 × 10^l ≤ 2^1200, bit by bit from bit `k − 1` down. -/
def peakFrom (l : Nat) : Nat → Nat → Nat
  | 0, r => r
  | k + 1, r => if (r + 2 ^ k) ^ 40 * 10 ^ l ≤ 2 ^ 1200 then peakFrom l k (r + 2 ^ k) else peakFrom l k r

/-- The peak level −0.5 × `l` dBFS, with 30 fractional bits (R259). -/
def pilotPeak (l : Nat) : Nat := peakFrom l 31 0

/-- Phase of sample `n` of the chirp, in turns of 2^−32: 20.5 kHz at its start, 21.5 kHz 4,800 samples later (R259). -/
def chirpTurns (n : Nat) : Nat := Config.chirpPhase + 2 ^ 32 * (20500 * 9600 * n + 1000 * n * n) / (9600 * 48000)

/-- Sample `n` of the pilot's chirp at LEVEL `l`, at place `r` of 48 in its linear ramps (R259). DEDUCED (log entry 65): the sine is that of R193's
table; the starting phase and the rounding are free. -/
def chirp (l n r : Nat) : Int :=
  pilotPeak l * sinePhase (chirpTurns n % 2 ^ 32) * r / (48 * 2 ^ 30) + (if Config.pilotRounding l n r then 1 else 0)

/-! ## The supervision estimator (R250, R251) -/

/-- A sum of products with weights in Q2.30 or fractional taps in Q1.31, aligned to 62 fractional bits. -/
def dot30 (h x : List Int) : Int := (List.zipWith mulWt x h).foldl (· + ·) 0

/-- Tap `k` of the decimation filter (R250): linear phase, tap k equals tap 47 − k. -/
def firTap (k : Nat) : Int := Config.firTap (min k (47 - k))

/-- The decimated reference (R250): the 48-tap filter over published samples, newest first; its coefficients are free. -/
def decimate (pub : List Int) : Int :=
  (rndAcc ((List.range 48).foldl (fun a k => a + firTap k * pub.getD k 0) 0)).v

/-- q of R251, with Config.quotientBits fractional bits: 2^−MU / (P + 2^−20), truncated; P has 62. -/
def nlmsStep (mu : Nat) (p : Int) : Int := ((2 : Int) ^ (Config.quotientBits + 62)).tdiv (2 ^ mu * (p + 2 ^ 42))

/-- A reference moves on without an update. -/
def Estim.shift (e : Estim) (x : Int) : Estim := { e with x := (x :: e.x).take 64 }

/-- One NLMS step (R251): the new estimator, and whether the update was applied. -/
def nlms (mu : Nat) (quiet : Int) (e : Estim) (x s : Int) : Estim × Bool :=
  let xs := (x :: e.x).take 64
  let hs := e.h ++ List.replicate (64 - e.h.length) 0
  let err := s - (rndAcc (dot30 hs xs)).v
  let p := xs.foldl (fun a v => a + v * v) 0
  if 64 * quiet ≤ p then
    let q := nlmsStep mu p
    let n := Config.quotientBits + 32
    let xs64 := xs ++ List.replicate (64 - xs.length) 0
    (⟨List.zipWith (fun h v => (sat32 (h + (err * v * q + 2 ^ (n - 1)) / 2 ^ n)).v) hs xs64, xs⟩, true)
  else (⟨hs, xs⟩, false)

/-- The load figure G of an estimate (R252). -/
def loadFigure (e : Estim) : Nat := isqrt ((e.h.foldl (fun a h => a + h * h) 0).toNat)

/-- DEV against a reference that is not 0 (R252): rounded half towards +∞, saturated. -/
def deviation (g ref : Nat) : Int :=
  let v := (20000 * ((g : Int) - ref) + ref) / (2 * ref)
  max (-32767) (min 32767 v)

end Sys2Proof.Machine
end

