-- ==== Sys2Proof/Machine/SupOps.lean ====
section
/-! DEFINITION. Supervised lines (R248 to R261): the binding of a line, its pilot, and what the SV does with the samples of one
pass. -/

namespace Sys2Proof.Machine

/-! ## Nodes of the active image -/

/-- A node of the active image. -/
def State.node (s : State) (n : Nat) : Option Node := s.mre.image.bind (fun i => i.nodes[n]?)

/-- The nodes of the active image with their indices, in ascending order. -/
def State.nodes (s : State) : List (Nat × Node) :=
  match s.mre.image with
  | some i => (List.range i.nodes.length).zip i.nodes
  | none => []

/-- What a node keeps. -/
def State.nodeSt (s : State) (n : Nat) : NodeSt := Tbl.get (fun _ => NodeSt.zero) s.mre.nodes n
def State.setNodeSt (s : State) (n : Nat) (r : NodeSt) : State :=
  { s with mre := { s.mre with nodes := Tbl.set (fun _ => NodeSt.zero) s.mre.nodes n r } }

/-- The parameters of a CORRELATE node. -/
def corrOf (nd : Node) : Option CorrParams :=
  match nd.kind with
  | .correlate c => some c
  | _ => none

/-! ## Lines -/

def State.line (s : State) (l : Nat) : LineRec := Tbl.get (fun _ => LineRec.zero) s.sv.lines l
def State.setLine (s : State) (l : Nat) (r : LineRec) : State :=
  { s with sv := { s.sv with lines := Tbl.set (fun _ => LineRec.zero) s.sv.lines l r } }

/-- The CORRELATE node that binds a line, its record and its parameters (R210). -/
def State.corr (s : State) (l : Nat) : Option (Nat × Node × CorrParams) :=
  s.nodes.findSome? (fun p => match corrOf p.2 with
    | some c => if c.line = l then some (p.1, p.2, c) else none
    | none => none)

/-- The lines that the active image binds, in ascending order. -/
def State.boundLines (s : State) : List Nat :=
  (s.nodes.filterMap (fun p => (corrOf p.2).map (·.line))).foldl (fun l x => insertBy (· < ·) x l) []

/-- A threshold, or its default where it is 0 (R248). -/
def orDefault (v d : Nat) : Nat := if v = 0 then d else v

/-! ## Pilots (R258, R259) -/

/-- The pilot covers pass `p`. -/
def PilotRec.covers (r : PilotRec) (p : Nat) : Bool :=
  decide (r.start ≤ p) && (match r.ends with | some e => decide (p < e) | none => true)

/-- Place of sample `i` of pass `p` in the ramps, 0 to 48 (R259). -/
def PilotRec.ramp (r : PilotRec) (p i : Nat) : Nat :=
  let up := min 48 ((p - r.start) * 6 + i)
  match r.ends with
  | some e => min up (min 48 ((e - p) * 6 - 1 - i))
  | none => up

/-- The pilot of windows `ws` at sample `i` of pass `p` (R259): the chirp depends on the microframe number alone; where two windows meet the
pilot is one, with the larger amplitude (DESIGN CHOICE, log entry 66). -/
def State.pilotSample (s : State) (ws : List PilotRec) (p i : Nat) : Int :=
  let on := ws.filter (·.covers p)
  if on.isEmpty then 0
  else chirp (s.f Reg.SV_PILOT_LEVEL) (p % 800 * 6 + i) ((on.map (fun r => r.ramp p i)).foldl max 0)

/-- The pilot windows of a line: a burst or continuous pilot, and a Muslin slot. -/
def LineRec.windows (r : LineRec) : List PilotRec := r.pilot.toList ++ r.slot.toList

/-- A pilot window of the line covers pass `p`. -/
def LineRec.piloted (r : LineRec) (p : Nat) : Bool := r.windows.any (·.covers p)

/-- The pilots of a line: paused in SATIN (R261). -/
def State.pilotsOf (s : State) (l : Nat) : List PilotRec := if s.inSatin then [] else (s.line l).windows

/-- A line's pilot is in the block of pass `p` (R208, R259). -/
def State.pilotOn (s : State) (l p : Nat) : Bool := (s.pilotsOf l).any (·.covers p)

/-- The samples with the pilot added (R208), each saturated. -/
def State.pilotSum (s : State) (l p : Nat) (x : List Int) : List Sat :=
  six.map (fun i => sat32 (smp x i + s.pilotSample (s.pilotsOf l) p i))

/-- The sum, or its conversion to 24 bits, saturates (R188). -/
def State.pilotHit (s : State) (l p : Nat) (x : List Int) : Bool :=
  s.pilotOn l p && (s.pilotSum l p x).any (fun y => y.hit || (to24 y.v).hit)

/-- A channel's samples with the pilot added (R208); each sample that saturates counts in SV_PILOT_CLIPS. -/
def State.addPilot (s : State) (l p : Nat) (x : List Int) : State × List Int :=
  if s.pilotOn l p then
    let ys := s.pilotSum l p x
    let n := (ys.filter (·.hit)).length
    let s := if n = 0 then s else (s.bump Reg.SV_PILOT_CLIPS_COUNT n).setLine l { s.line l with clipped := true }
    (s, ys.map (·.v))
  else (s, x)

/-! ## One pass of a line (R250, R251, R254, R256, R259) -/

/-- A published sample at time `t`, six to a pass (R250); 0 where nothing was published. -/
def pubAt (pub : List (Nat × List Int)) (t : Int) : Int :=
  if t < 0 then 0
  else match pub.find? (fun e => e.1 == t.toNat / 6) with
    | some e => smp e.2 (t.toNat % 6)
    | none => 0

/-- The 48 samples that end at time `t`, newest first. -/
def window48 (f : Int → Int) (t : Int) : List Int := (List.range 48).map (fun k => f (t - Int.ofNat k))

/-- The pilot sample at time `t`, multiplied by (−1)^n with n counted from the mark (R259). -/
def State.pilotAt (s : State) (ws : List PilotRec) (t : Int) : Int :=
  if t < 0 then 0
  else
    let v := s.pilotSample ws (t.toNat / 6) (t.toNat % 6)
    if t % 2 = 0 then v else -v

/-- MU of R251: values below 3 act as 3 (R271). -/
def State.muShift (s : State) : Nat := max 3 (s.f Reg.SV_NLMS_MU_SHIFT)

/-- The pilot estimator runs on pass `p` (R259): passes 800 to 3,999 of a burst or slot, every pass of a continuous pilot. -/
def PilotRec.measures (r : PilotRec) (p : Nat) : Bool :=
  r.covers p && (r.cont || decide (r.start + 800 ≤ p))

/-- A bit of a block. -/
def blockBit (b : List Byte) (byte bit : Nat) : Bool := nbit ((b.getD byte 0).toNat) bit

/-- A present sense block is counted (R254). -/
def SenseCount.add (k : SenseCount) (c : CorrParams) (b : List Byte) (sense : Int) : SenseCount :=
  let flt := c.fltByte != 0xFF
  let v := (to24 sense).v
  { present := k.present + 1, earth := k.earth + b2n (flt && blockBit b c.fltByte c.fltBit)
    nodeFlt := k.nodeFlt + b2n (flt && blockBit b c.fltByte (c.fltBit + 1)), full := k.full + b2n (decide (v = -8388608 ∨ v = 8388607)) }

/-- Q of R251. -/
def State.quiet (s : State) : Int := Config.quietPower (s.f Reg.SV_QUIET_LEVEL)

/-- The second estimator of one pilot window in pass `p` (R259): its reference is `x`; it takes the sense sample, when there is one, in the passes
that it measures. -/
def State.pilotStep (s : State) (w : Option PilotRec) (p : Nat) (x : Int) (sense : Option Int) (e : Estim) : Estim :=
  match w with
  | none => e
  | some w =>
    if !w.covers p then e
    else match sense with
      | some y => if w.measures p then (nlms s.muShift s.quiet e x y).1 else e.shift x
      | none => e.shift x

/-- The estimators of a line in pass `p` (R250, R251, R259): the live one, frozen in a pilot window and up to 8 passes after it, and those of
its pilots. Without a sense sample the references move on, and nothing is updated. -/
def State.estimate (s : State) (c : CorrParams) (p : Nat) (sense : Option Int) (r : LineRec) : LineRec :=
  let t : Int := (6 * p : Nat) - 18 - (c.lag : Int)
  let x := decimate (window48 (pubAt r.pub) t)
  let xp := decimate (window48 (s.pilotAt r.windows) t)
  let live : Estim × Bool := match sense with
    | some y => if decide (p < r.freeze) || r.piloted p then (r.est.shift x, false) else nlms s.muShift s.quiet r.est x y
    | none => (r.est.shift x, false)
  { r with est := live.1, applied := r.applied + b2n live.2
           pest := s.pilotStep r.pilot p xp sense r.pest, mest := s.pilotStep r.slot p xp sense r.mest }

/-- A pass counts for the measurement of a pilot window. -/
def SenseCount.addIf (k : SenseCount) (w : Option PilotRec) (p : Nat) (c : CorrParams) (b : List Byte) (sense : Int) : SenseCount :=
  if w.any (·.measures p) then k.add c b sense else k

/-- The sense block of pass `p` of a line and its sense sample (R251, R254, R256): the counts of the refresh and of its pilots, and the
estimators, which are paused in SATIN (R261). -/
def State.svPass (s : State) (c : CorrParams) (p : Nat) (sense : Int) (blk : Option (List Byte)) : State :=
  if !s.flag Reg.SV_CTRL_EN then s
  else
    let r := { s.line c.line with passes := (s.line c.line).passes + 1 }
    match blk with
    | none =>
      let r := { r with missing := r.missing + 1 }
      (s.bump Reg.SV_SENSE_MISSING_COUNT).setLine c.line (if s.inSatin then r else s.estimate c p none r)
    | some b =>
      let r := { r with cnt := r.cnt.add c b sense }
      if s.inSatin then s.setLine c.line r
      else s.setLine c.line (s.estimate c p (some sense) { r with
        pcnt := r.pcnt.addIf r.pilot p c b sense, mcnt := r.mcnt.addIf r.slot p c b sense })

/-- A pass of which the SV receives no samples counts as quiet programme (R238): the references of the estimators move on, and nothing is
updated. -/
def State.svQuiet (s : State) (c : CorrParams) (p : Nat) : State :=
  if !s.flag Reg.SV_CTRL_EN then s
  else
    let r := { s.line c.line with passes := (s.line c.line).passes + 1 }
    s.setLine c.line (if s.inSatin then r else s.estimate c p none r)

/-- The samples published on a line's channel in pass `p` (R250): kept for the largest LAG and the filter, 700 passes. -/
def State.svPublish (s : State) (l p : Nat) (x : List Int) : State :=
  s.setLine l { s.line l with pub := ((p, x) :: (s.line l).pub).take 700 }

end Sys2Proof.Machine
end

