-- ==== Sys2Proof/Machine/GraphOps.lean ====
section
/-! DEFINITION. The graph at work (R190 to R213, R226 to R246): generators and clips, what a node does in its pass, the ready
queues, placement on the GPEs, the release of flows, and the timers. -/

namespace Sys2Proof.Machine

/-! ## Observing windows (R245, R246) -/

def State.obsUpd (s : State) (g : ObsWin → ObsWin) : State := { s with gd := { s.gd with obs := s.gd.obs.map g } }

/-- Change the record of priority `q` of the window in progress. -/
def State.obsPrio (s : State) (q : Nat) (g : ObsPrio → ObsPrio) : State :=
  s.obsUpd (fun o => { o with prios := o.prios.modify q g })

/-! ## Timers on their lists (R240, R241, R243) -/

/-- GD_TIMER_STATUS.USED follows. -/
def State.showTimers (s : State) : State :=
  let n := s.gd.timers.length
  (s.setF Reg.GD_TIMER_STATUS_USED n).obsUpd (fun o => { o with timersMax := max o.timersMax n })

/-- Timers of the SV (R241). -/
def TimerRec.ofSv (t : TimerRec) : Bool := t.kind == .sweepSlot || t.kind == .pilot

/-- The SV finds a timer free (R241). -/
def State.svTimerFree (s : State) : Bool := decide (s.gd.timers.length < 65536)

/-- A command finds `n` timers free: 1,024 of the 65,536 are kept for the SV (R241). -/
def State.timersFree (s : State) (n : Nat) : Bool :=
  decide (s.gd.timers.length + n ≤ 65536) && decide ((s.gd.timers.filter (fun t => !t.ofSv)).length + n ≤ 64512)

/-- A timer fires at this tick of the lists, or at a later one for want of room (R240, R244): its expiry has been reached, and in SATIN only
the priority-0 list fires. -/
def State.timerDue (s : State) (t : TimerRec) : Bool := decide (t.e ≤ s.mfN + 1) && (!s.inSatin || t.prio == 0)

/-- Timers end with what they serve (R243). One that is due in the Tulle band that has begun still fires; what it would do is undone: it
serves no entry any more. -/
def State.dropTimers (s : State) (gone : TimerRec → Bool) : State :=
  let late (t : TimerRec) : Bool := decide (Config.fillTick ≤ s.time.phase) && s.timerDue t && !t.ofSv
  State.showTimers { s with gd := { s.gd with timers := s.gd.timers.filterMap (fun (t : TimerRec) =>
    if !gone t then some t else if late t then some { t with ref := none } else none) } }

/-! ## Streams -/

/-- Only priority 0 runs (R224). -/
def State.p0Only (s : State) : Bool := s.flag Reg.MRE_STATUS_P0_ONLY

def State.streams (s : State) (n : Nat) : List Stream := Tbl.get (fun _ => []) s.mre.streams n
def State.setStreams (s : State) (n : Nat) (l : List Stream) : State :=
  { s with mre := { s.mre with streams := Tbl.set (fun _ => []) s.mre.streams n l } }

/-- Silence in a pass. -/
def silent (p : Nat) : Stream := ⟨p, zeros6, false⟩

/-- The stream of node `n` in pass `p`: silence where the node does not run (R224). -/
def State.streamAt (s : State) (n p : Nat) : Stream := ((s.streams n).find? (fun x => x.pass == p)).getD (silent p)

/-! ## Generators (R193 to R197) -/

/-- Mode of a generator in the active image. -/
def State.genMode (s : State) (g : Nat) : Option GenMode :=
  s.mre.image.bind (fun i => (i.gens.find? (fun x => x.1 == g)).map (·.2))

/-- The generators of the active image. -/
def State.genList (s : State) : List (Nat × GenMode) :=
  match s.mre.image with
  | some i => i.gens
  | none => []

/-- The smallest PRIO among the GEN nodes that name generator `g`, 7 when none does (R241). -/
def State.genPrio (s : State) (g : Nat) : Nat :=
  s.nodes.foldl (fun q x => match x.2.kind with
    | .gen h => if h = g then min q x.2.prio else q
    | _ => q) 7

/-- A generator runs: in SATIN only one of a priority-0 GEN node does (R224). -/
def State.genRuns (s : State) (g : Nat) : Bool := !s.p0Only || s.genPrio g == 0

/-- Samples of one playing and of the whole entry; 0 means without end. -/
def ClipRun.each (c : ClipRun) : Nat := c.samples * c.loops
def ClipRun.total (c : ClipRun) : Nat := c.each * (c.repeats + 1)

/-- Bytes of the clip's stream: its buffer once for every loop of every playing; 0 means without end. -/
def ClipRun.stream (c : ClipRun) : Nat := c.loops * (c.repeats + 1) * clipBytes c.samples

/-- Bytes fetched that fill whole halves of the slot, or end the stream (R194, R232). -/
def ClipRun.filled (c : ClipRun) : Nat := if c.fetched = c.stream then c.fetched else c.fetched / 1152 * 1152

/-- The next sample may be played: its playing has become playable (R194, R242). -/
def ClipRun.canPlay (c : ClipRun) : Bool :=
  decide ((if c.each = 0 then 0 else c.played / c.each) < c.playable)

/-- The last sample of the last playing has been played. -/
def ClipRun.done (c : ClipRun) : Bool := c.total != 0 && decide (c.total ≤ c.played)

/-- Stream byte `o` of a clip in its generator's slot. -/
def State.clipByte (s : State) (slot : Nat × Nat) (c : ClipRun) (o : Nat) : Byte :=
  s.ebmByte (halfAddr slot.1 slot.2 ((c.h0 + o / 1152) % 2) + o % 1152)

/-- The next sample of a clip, when it is in the slot (R195). -/
def State.clipSample (s : State) (slot : Option (Nat × Nat)) (c : ClipRun) : Option Int :=
  match slot with
  | none => none
  | some a =>
    let o := c.at_
    if o + 3 ≤ c.ready then
      some (from24 (s24 [s.clipByte a c o, s.clipByte a c (o + 1), s.clipByte a c (o + 2)]))
    else none

/-- Take the samples of a pass from a queue of clips: samples, queue, clips that ended; `none` when a sample is absent. -/
def clipWalk (rd : ClipRun → Option Int) (p : Nat) :
    Nat → List ClipRun → List ClipRun → List Int → Option (List Int × List ClipRun × List ClipRun)
  | 0, cs, fin, acc => some (acc, cs, fin)
  | n + 1, [], fin, acc => clipWalk rd p n [] fin (acc ++ [0])
  | n + 1, c :: cs, fin, acc =>
    if c.canPlay then
      match rd c with
      | none => none
      | some x =>
        let c := { c with played := c.played + 1, first := c.first.or (some p) }
        if c.done then clipWalk rd p n cs (fin ++ [c]) (acc ++ [x]) else clipWalk rd p n (c :: cs) fin (acc ++ [x])
    else clipWalk rd p n (c :: cs) fin (acc ++ [0])

/-- The stop's ramp (R196): weight (5 − n)/6 at sample n, in Q2.30. -/
def stopRamp (x : List Int) : List Int :=
  six.map (fun n => (rndAcc (mulWt (smp x n) ((one30 * (5 - n : Nat)).tdiv 6))).v)

/-- Generator `g` is stopped (R196): its clips complete with ABORTED, then the CLIP_STOP entries with OK. A later stop waits on. -/
def State.stopGen (s : State) (g : Nat) (status : Nat := St.aborted) : State :=
  let r := s.gen g
  let s := s.setGen g { r with clips := [], stopAt := none, stops := [] }
  let s := r.clips.foldl (fun s c => s.endClip c status true) s
  let s := s.dropTimers (fun t => t.owner == g && (t.kind == .clipStart || t.kind == .clipRepeat))
  (r.stops.foldl (fun s x => s.completeRefM x St.ok) s).restGen g

/-- The decision for pass `p` of a clip player, when one is kept: the HOLDER's own of the mark before, or on a PARTNER the CLIP frame's
(R297). -/
def State.clipFeed (s : State) (g p : Nat) : Option ClipFeed := (Tbl.get (fun _ => []) s.mre.feeds g).find? (fun f => f.pass == p)

/-- How a clip player finds the samples of pass `p`: as decided for the pair, else in its slot (R195, R297). -/
def State.clipPass (s : State) (g p : Nat) (cs : List ClipRun) : Option (List Int × List ClipRun × List ClipRun) :=
  match s.clipFeed g p with
  | some f => if f.present then (clipWalk (fun _ => some 0) p 6 cs [] []).map (fun r => (f.samples, r.2)) else none
  | none => if s.isPartner then none else clipWalk (s.clipSample (s.gen g).slot) p 6 cs [] []

/-- A PARTNER has no CLIP frame for pass `p`: the generator is silent and does not advance (R297). -/
def State.clipFrameMissing (s : State) (g p : Nat) : Bool := s.isPartner && (s.clipFeed g p).isNone

/-- A playing whose timer has the stop's own expiry is not played (R243). -/
def ClipRun.stopped (c : ClipRun) (e : Nat) : ClipRun := if c.lastE = e then { c with playable := c.playable - 1 } else c

/-- The clip at the head of a queue plays. -/
def headPlays (cs : List ClipRun) : Bool := match cs with | c :: _ => c.canPlay | [] => false

/-- A clip player's pass (R194 to R196). -/
def State.clipStep (s : State) (g p : Nat) : State :=
  let r := s.gen g
  let push (s : State) (x : List Int) (f : Bool) : State := s.setGen g { s.gen g with out := ⟨p, x, f⟩ :: (s.gen g).out }
  let stop := r.stopAt == some p
  let cs := if stop then r.clips.map (fun c => c.stopped r.stopE) else r.clips
  let ends (s : State) : State := if stop then s.stopGen g else s
  if !headPlays cs then ends (push s zeros6 false)
  else
    match s.clipPass g p cs with
    | none =>
      let gone := s.clipFrameMissing g p
      let s := if gone then s
        else State.bump (s.setGen g { r with clips := r.clips.modify 0 (fun c => { c with under := c.under + 1 }) })
          Reg.MRE_GEN_ERRORS_CLIP_UNDERRUNS
      ends (push s zeros6 (!gone))
    | some (x, cs', fin) =>
      if stop then (push (s.setGen g { r with clips := fin ++ cs' }) (stopRamp x) true).stopGen g
      else (fin.foldl (fun s c => s.endClip c St.ok) (push (s.setGen g { r with clips := cs' }) x true)).restGen g

/-- What the HOLDER decides at the mark before pass `p` for a clip player that plays in it (R297): the timers due by then have fired, and a
playing whose expiry a stop shares is not played (R243). -/
def State.clipAhead (s : State) (g p : Nat) : Option ClipFeed :=
  let r := s.gen g
  let stops := s.gd.timers.any (fun t => t.owner == g && t.kind == .clipStop && t.e == p)
  let due (c : ClipRun) : Nat := (s.gd.timers.filter (fun t => t.owner == g && (t.kind == .clipStart || t.kind == .clipRepeat) &&
    t.ref == some c.ref && (if stops then decide (t.e < p) else decide (t.e ≤ p)))).length
  let cs := r.clips.map (fun c => { c with playable := c.playable + due c })
  if !headPlays cs then none
  else match clipWalk (s.clipSample r.slot) p 6 cs [] [] with
    | some (x, _) => some ⟨p, true, x⟩
    | none => some ⟨p, false, []⟩

/-- The parameters of a tone generator. -/
def State.toneOf (s : State) (g : Nat) : Option ToneParams :=
  match s.genMode g with
  | some (.tone p) => some p
  | _ => none

/-- A tone generator's pass (R193). -/
def State.tonePass (s : State) (g p : Nat) (t : ToneParams) (trig : Bool) : State := s.setGen g (runTone t trig p (s.gen g))

/-- A SOURCE that takes part in the pass triggers the tone; one that does not, in SATIN, leaves FLAG 0 (R193, R224). -/
def State.triggered (s : State) (t : ToneParams) : Bool :=
  match t.trigger with
  | some n => (match s.node n with | some nd => !s.p0Only || nd.prio == 0 | none => false)
  | none => false

/-- The HOLDER's decision of a clip player for pass `p` is kept and told (R297). -/
def State.decideClip (s : State) (g p : Nat) : State × List ClipRec :=
  match s.clipAhead g p with
  | none => (s, [])
  | some d => ({ s with mre := { s.mre with feeds := Tbl.upd (fun _ => []) s.mre.feeds g (fun q => d :: q) } },
      [⟨Fin.ofNat 256 g, d.present, d.samples⟩])

/-- The generators at the mark of pass `p`: clip players, and tones that no SOURCE triggers (R193, R194, R297). The answer
holds the decisions that a HOLDER sends for pass p + 1. -/
def State.genMark (s : State) (p : Nat) : State × List ClipRec :=
  let ahead := s.isHolder && s.lockstep
  (List.range 256).foldl (fun (a : State × List ClipRec) g =>
    let s := a.1
    match s.genMode g with
    | some (.tone t) =>
      let s := if (s.gen g).clips.isEmpty then s else s.stopGen g
      if !s.triggered t && s.genRuns g then (s.tonePass g p t false, a.2) else (s, a.2)
    | some .clip =>
      let s := if s.genRuns g then s.clipStep g p else s
      -- a player that comes back from SATIN with the coming pass has its decision too
      if ahead && (s.genRuns g || !s.inSatin) then
        let (s, d) := s.decideClip g (p + 1)
        (s, a.2 ++ d)
      else (s, a.2)
    | none => (if (s.gen g).clips.isEmpty then s else s.stopGen g, a.2)) (s, [])

/-! ## SOURCE (R191, R192) -/

/-- Key of half `i` of a cascade endpoint's block: direction 1 is IN (R308). -/
def cascKey (port dir ep i : Nat) : Nat := ((port * 2 + dir) * 8 + ep) * 2 + i % 2

/-- The block of microframe `m` at a SOURCE's endpoint, when it is there (R168). -/
def State.srcBlock (s : State) (ep : EpRef) (m : Nat) : Option (List Byte) :=
  match ep with
  | .handle h => if s.halfHolds h.toNat m then some (s.readHalf h.toNat m) else none
  | .cascade port e =>
    match Tbl.get (fun _ => none) s.mre.casc (cascKey port.val 0 e.toNat m) with
    | some (mf, b) => if mf = m % 65536 then some b else none
    | none => none
  | .group _ => none

/-- Interval of an IN endpoint in the schedule of microframe `u`, and the phase of the microframe that brings its block: that of its CSPLIT for a
Lybor Classic device (R62, R168). -/
def State.inSched (s : State) (h u : Nat) : Option (Nat × Nat) :=
  (s.schedAt h u).map (fun r => (r.k,
    if (match s.dev (h / 16) with | some d => s.classicDev d | none => false) then (r.phase + 2) % 2 ^ r.k else r.phase))

/-- Interval and phase of a SOURCE's endpoint in the committed schedule, for pass `p` (R25, R168, R191, R308). In SATIN too a block is due by its
phase alone (DESIGN CHOICE, log entry 73). -/
def State.srcSched (s : State) (ep : EpRef) (p : Nat) : Option (Nat × Nat) :=
  match ep with
  | .handle h => s.inSched h.toNat (p - 1)
  | .cascade .. => some (0, 0)
  | .group _ => none

/-- The pass follows a due microframe of the endpoint (R168, R191). -/
def passDue (p k phase : Nat) : Bool := (p + 2 ^ 48 - 1) % 2 ^ k == phase

/-- The samples of a SOURCE in a block (R191). -/
def srcSamples (b : List Byte) (offset : Nat) (rate8k : Bool) : List Int :=
  let at_ (o : Nat) : Int := from24 (s24 [b.getD o 0, b.getD (o + 1) 0, b.getD (o + 2) 0])
  six.map (fun i => at_ (offset + if rate8k then 0 else 3 * i))

/-- FLAG of a SOURCE with a block present (R191). -/
def srcFlag (b : List Byte) (byte bit : Nat) : Bool :=
  if b.isEmpty then false else if byte = 0xFF then true else blockBit b byte bit

/-- A missing block is counted once for its endpoint in a pass (R168). -/
def State.countMissing (s : State) (ep : EpRef) (p : Nat) : State :=
  match ep with
  | .handle h =>
    if s.mre.missed.contains (h.toNat, p) then s
    else State.bumpCf { s with mre := { s.mre with missed := (h.toNat, p) :: s.mre.missed } } h.toNat Cx.missing
  | _ => s

/-- A SOURCE node's pass (R191, R192, R25). -/
def State.runSource (s : State) (p : Nat) (ep : EpRef) (offset : Nat) (rate8k : Bool) (fb fbit : Nat) (hold : Bool)
    (holdMax : Nat) (st : NodeSt) : State × NodeRes :=
  let give (s : State) (st : NodeSt) (x : List Int) (f : Bool) : State × NodeRes :=
    (s, ⟨{ st with ran := true, out := x, flag := f }, x, f, false⟩)
  match s.srcSched ep p with
  | none => give s { st with blk := none } zeros6 false
  | some (k, ph) =>
    if !passDue p k ph then give s st (if st.out.isEmpty then zeros6 else st.out) st.flag
    else
      match s.srcBlock ep (p + 65535) with
      | some b =>
        let s := match ep with
          | .handle h => s.setCf h.toNat (Cx.rd ((p + 65535) % 2)) 1
          | _ => s
        give s { st with holdRun := 0, blk := some b } (srcSamples b offset rate8k) (srcFlag b fb fbit)
      | none =>
        let s := (s.bump Reg.MRE_MISSING_COUNT).countMissing ep p
        let st := { st with blk := none }
        if hold ∧ st.holdRun < holdMax ∧ st.out ≠ [] then give s { st with holdRun := st.holdRun + 1 } st.out st.flag
        else give s st zeros6 false

/-! ## DELAY (R203, R204) -/

/-- EBM address of byte `b` of the delay pool (R158). -/
def poolAddr (b : Nat) : Nat := 0x07000000 + b

/-- The words of a 3-byte sample at EBM address `a`. -/
def sampleWords (a : Nat) : List Nat := if (a + 2) / 8 = a / 8 then [a / 8] else [a / 8, a / 8 + 1]

/-- A line's sample: 0 where a word with an uncorrectable error holds a byte of it (R204). -/
def State.lineSample (s : State) (base i : Nat) : Int :=
  let a := poolAddr (base + 3 * i)
  if (sampleWords a).any (s.ebm.poison.contains ·) then 0 else from24 (s24 (s.ebmRead a 3))

/-- Write a sample to a line; a word is good again once its last byte has been written. -/
def State.lineWrite (s : State) (base i : Nat) (x : Int) : State :=
  let a := poolAddr (base + 3 * i)
  let s := s.ebmWrite a (bytes24 x)
  if s.ebm.poison.isEmpty then s
  else { s with ebm := { s.ebm with
    poison := s.ebm.poison.filter (fun w => !(decide (a ≤ w * 8 + 7 ∧ w * 8 + 7 < a + 3))) } }

/-- Bad words that hold bytes of the samples read (R204). -/
def State.badWords (s : State) (base : Nat) (is : List Nat) : List Nat :=
  (is.flatMap (fun i => (sampleWords (poolAddr (base + 3 * i))).filter (s.ebm.poison.contains ·))).eraseDups

/-- A DELAY node's pass. A bad word counts once, however many samples have bytes in it, until it has been
written again. -/
def State.runDelay (s : State) (base line d : Nat) (st : NodeSt) (x : Stream) : State × NodeRes :=
  let old := st.delay.getD d
  let n0 := max 1 line
  let (s, out, sat, end_) := six.foldl (fun (a : State × List Int × Bool × NodeSt) n =>
    let (s, out, sat, st) := a
    let y := to24 (smp x.x n)
    let s := s.lineWrite base (st.pos % n0) y.v
    let fill := st.fill + 1
    let rd (d : Nat) : Int := if d < fill then s.lineSample base ((st.pos + n0 - d % n0) % n0) else 0
    let bad := s.badWords base ([d, old].eraseDups.filterMap (fun d => if d < fill then some ((st.pos + n0 - d % n0) % n0) else none))
    let fresh := bad.filter (fun w => !st.bad.contains w)
    let s := if fresh.isEmpty then s else s.bump Reg.MRE_DELAY_ZEROED_COUNT fresh.length
    let v := if old = d then ⟨rd d, false⟩
      else
        let w := (one30 * (n + 1 : Nat)).tdiv 6
        let w0 := (one30 * 6 - one30 * (n + 1 : Nat)).tdiv 6
        rndAcc (mulWt (rd old) w0 + mulWt (rd d) w)
    (s, out ++ [v.v], sat || y.hit || v.hit,
      { st with pos := (st.pos + 1) % n0, fill := min fill n0, bad := st.bad ++ fresh })) (s, [], false, st)
  let bad := end_.bad.filter (s.ebm.poison.contains ·)
  (s, ⟨{ st with ran := true, delay := some d, pos := (st.pos + 6) % n0, fill := min (st.fill + 6) n0, bad := bad }, out, x.flag, sat⟩)

/-! ## A node's pass -/

/-- A channel of a SINK saturates in pass `p` (R188, R208): with its pilot where one is on. -/
def State.channelHit (s : State) (c : SinkCh) (p : Nat) (x : List Int) : Bool :=
  match c.line with
  | some l => if s.pilotOn l p then s.pilotHit l p x else x.any (fun v => (to24 v).hit)
  | none => x.any (fun v => (to24 v).hit)

/-- What a node does in pass `p`, with its inputs (R190 to R210). -/
def State.runNode (s : State) (p : Nat) (nd : Node) (xs : List Stream) (st : NodeSt) : State × NodeRes :=
  let x := xs.headD (silent p)
  let quiet : NodeRes := ⟨{ st with ran := true }, [], false, false⟩
  match nd.kind with
  | .source ep o r8 fb fbit h hm => s.runSource p ep o r8 fb fbit h hm st
  | .gen g =>
    let y := ((s.gen g).out.find? (fun y => y.pass == p)).getD (silent p)
    (s, ⟨{ st with ran := true }, y.x, y.flag, (s.gen g).satPass.contains p⟩)
  | .mix ins d a r => (s, runMix ins d a r st xs)
  | .route ins xf => (s, runRoute ins xf st xs)
  | .gain g m r => (s, runGain g m r st x)
  | .eq qs => (s, runEq qs st x)
  | .delay b l d => s.runDelay b l d st x
  | .limit c k => (s, runLimit c k st x)
  | .meter w => (s, { quiet with st := runMeter w p st x })
  | .sink _ chans .. => (s, { quiet with sat := (chans.zip xs).any (fun cx => s.channelHit cx.1 p cx.2.x) })
  | .tap _ => (s, { quiet with sat := xs.any (fun y => y.x.any (fun v => (to24 v).hit)) })
  | .correlate _ => (s, quiet)

/-- The kind has an output. -/
def hasOutput : NodeKind → Bool
  | .meter _ | .sink .. | .tap _ | .correlate _ => false
  | _ => true

/-! ## Effects (R207 to R210, R236, R238) -/

/-- Overlay bytes on a block; bytes beyond its end are dropped. -/
def overlay (b : List Byte) (off : Nat) (v : List Byte) : List Byte :=
  (List.range b.length).map (fun i => if off ≤ i ∧ i < off + v.length then v.getD (i - off) 0 else b.getD i 0)

/-- LENGTH of what a SINK writes in pass `p`: of the scheduled entry of its endpoint or group in the next microframe, which sends the block (R12,
R25); a cascade block has 192 bytes (R207, R308). `none` when it is not in the committed schedule. -/
def State.sinkLen (s : State) (ep : EpRef) (p : Nat) : Option Nat :=
  match ep with
  | .handle h => (s.schedAt h.toNat (p + 1)).map (·.length)
  | .group g => (s.schedAt (0x100000 + g.toNat) (p + 1)).map (·.length)
  | .cascade .. => some 192

/-- The bytes that a SINK's endpoint holds for pass `p`. -/
def State.sinkHeld (s : State) (ep : EpRef) (p : Nat) : List Byte :=
  match ep with
  | .handle h => if s.halfHolds h.toNat p then s.readHalf h.toNat p else []
  | .group g => (s.groupBlock g.toNat (p + 1)).getD []
  | .cascade port e => ((Tbl.get (fun _ => none) s.mre.casc (cascKey port.val 1 e.toNat p)).map (·.2)).getD []

/-- Write an output block of pass `p` (R170, R172, R308). -/
def State.sinkWrite (s : State) (ep : EpRef) (p : Nat) (b : List Byte) : State :=
  match ep with
  | .handle h =>
    if (s.blockSlot h.toNat p).2 = 0 then s
    else
      let rd := s.cf h.toNat (Cx.rd (p % 2))
      (s.writeHalf h.toNat p b).setCf h.toNat (Cx.rd (p % 2)) rd
  | .group g => if (s.blockSlot (0x100000 + g.toNat) p).2 = 0 then s else s.writeGroupHalf g.toNat p b
  | .cascade port e =>
    { s with mre := { s.mre with casc := Tbl.set (fun _ => none) s.mre.casc (cascKey port.val 1 e.toNat p) (some (p % 65536, b)) } }

/-- The 18 bytes of a channel. -/
def channelBytes (x : List Int) : List Byte := six.flatMap (fun i => bytes24 (to24 (smp x i)).v)

/-- The block of a SINK from the bytes of its channels (R207, R248): status bytes as constants, the MUSLIN bit of every line
whose pilot is on. -/
def State.sinkBlock (s : State) (len p : Nat) (chans : List SinkCh) (statusOff : Nat) (status : List Byte)
    (data : List (List Byte)) : List Byte :=
  let b := (chans.zip data).foldl (fun b x => overlay b x.1.offset x.2) (List.replicate len (0 : Byte))
  let b := overlay b statusOff status
  chans.foldl (fun b c => match c.line with
    | some l => if s.pilotOn l p then
        (match s.corr l with
         | some (_, _, q) => overlay b q.muslinByte [BitVec.ofNat 8 (setBit (b.getD q.muslinByte 0).toNat q.muslinBit true)]
         | none => b) else b
    | none => b) b

/-- A SINK is released in time (R207, R208). -/
def State.sinkRelease (s : State) (p : Nat) (ep : EpRef) (chans : List SinkCh) (so : Nat) (sb : List Byte)
    (xs : List Stream) : State :=
  match s.sinkLen ep p with
  | none => s
  | some len =>
    let (s, data) := (chans.zip xs).foldl (fun (a : State × List (List Byte)) cx =>
      let (s, x) := match cx.1.line with
        | some l => a.1.addPilot l p cx.2.x
        | none => (a.1, cx.2.x)
      (s, a.2 ++ [channelBytes x])) (s, [])
    s.sinkWrite ep p (s.sinkBlock len p chans so sb data)

/-- A SINK that has not finished at the fill deadline of pass `p` (R212): each channel repeats or is silent, as its zone's
policy says. -/
def State.sinkOverrun (s : State) (p : Nat) (ep : EpRef) (chans : List SinkCh) (so : Nat) (sb : List Byte) : State :=
  match s.sinkLen ep p with
  | none => s
  | some len =>
    let last := s.sinkHeld ep (p + 65535)
    let rep (c : SinkCh) : Bool := match c.zone, s.mre.image with
      | some z, some i => i.zones.any (fun r => r.zone == z && r.repeat_)
      | _, _ => false
    let data := chans.map (fun c => if rep c then padTo 18 ((last.drop c.offset).take 18) else List.replicate 18 0)
    s.sinkWrite ep p (s.sinkBlock len p chans so sb data)

/-- A tap's record of pass `p` (R209). -/
def State.tapRecord (s : State) (t p : Nat) (b : List Byte) : State :=
  let r := Tbl.get (fun _ => TapSt.zero) s.mre.taps t
  { s with mre := { s.mre with taps := Tbl.set (fun _ => TapSt.zero) s.mre.taps t { r with recs := r.recs ++ [(p, b)] } } }

/-- The fill deadline of pass `p` has come (R238). -/
def State.pastDeadline (s : State) (p : Nat) : Bool := decide (p < s.mfN) || decide (Config.fillTick ≤ s.time.phase)

/-- The node as pass `p` runs it: as it was before the patches of the first swap whose M is later (R22). -/
def State.nodeAt (s : State) (n p : Nat) : Option Node :=
  match s.mre.patched.find? (fun x => decide (p < x.1)) with
  | some l => ((l.2.find? (fun x => x.1 == n)).map (·.2)).or (s.node n)
  | none => s.node n

/-- The external effect of an operation, when it is released (R236, R238). A SINK released too late is kept for the overruns of its pass (R18,
R212). -/
def State.effect (s : State) (r : RelRec) : State :=
  match s.nodeAt r.node r.pass with
  | none => s
  | some nd =>
    let late := s.pastDeadline r.pass
    let s := if late then s.obsUpd (fun o => { o with overrun := o.overrun + 1 }) else s
    match nd.kind with
    | .sink ep chans so sb =>
      if late then { s with mre := { s.mre with late := s.mre.late ++ [(r.pass, r.node)] } } else s.sinkRelease r.pass ep chans so sb r.ins
    | .tap t =>
      let b := if late then List.replicate (18 * nd.inputs.length) 0 else r.ins.flatMap (fun x => channelBytes x.x)
      s.tapRecord t r.pass b
    | .correlate c =>
      if late then s.svQuiet c r.pass
      else s.svPass c r.pass (smp (r.ins.headD (silent r.pass)).x 0) ((nd.inputs.head?).bind (fun n => (s.nodeSt n).blk))
    | .meter _ => if r.win.isSome then s.setNodeSt r.node { s.nodeSt r.node with win := r.win } else s
    | _ => s

/-! ## Flows (R236, R237) -/

def State.flow (s : State) (f : Nat) : List RelRec := Tbl.get (fun _ => []) s.gd.flows f
def State.setFlow (s : State) (f : Nat) (l : List RelRec) : State :=
  { s with gd := { s.gd with flows := Tbl.set (fun _ => []) s.gd.flows f l } }

/-- Release entries in use: of the flows, and of operations of a swapped-out image that still run (R239). -/
def State.releaseUsed (s : State) : Nat :=
  s.gd.flows.foldl (fun a x => a + (x.2.filter (·.entry)).length) 0 +
    (s.gd.gpes.filter (fun x => (x.2.bind (·.old)).any (·.entry))).length

/-- GD_RELEASE_USED and GD_STATUS.RELEASE_FULL follow. -/
def State.showRelease (s : State) : State :=
  let n := s.releaseUsed
  let s := (s.setF Reg.GD_RELEASE_USED_USED n).high Reg.GD_RELEASE_USED_HIGH n
  (s.setB Reg.GD_STATUS_RELEASE_FULL (decide (8192 ≤ n))).obsUpd (fun o => { o with relMax := max o.relMax n })

/-- Release the head of a flow, and each operation behind it that has completed. -/
def State.releaseFrom (s : State) (f : Nat) : Nat → State
  | 0 => s
  | n + 1 =>
    match s.flow f with
    | r :: l => if r.done then ((s.setFlow f l).effect r).releaseFrom f n else s
    | [] => s

def State.release (s : State) (f : Nat) : State := (s.releaseFrom f (s.flow f).length).showRelease

/-- The head of a flow is the operation of `node` for pass `p`. -/
def State.isHead (s : State) (f node p : Nat) : Bool :=
  match s.flow f with
  | r :: _ => r.node == node && r.pass == p
  | [] => true

/-! ## Readiness (R226, R227) -/

/-- The next pass that a node has not run. -/
def State.next (s : State) (n : Nat) : Nat := Tbl.get (fun _ => 0) s.gd.next n
def State.setNext (s : State) (n p : Nat) : State :=
  { s with gd := { s.gd with next := Tbl.set (fun _ => 0) s.gd.next n p } }

/-- What a node waits for in a pass: its inputs, and for a triggered tone the SOURCE that triggers it (R193, R226). -/
def State.waitsFor (s : State) (nd : Node) : List Nat :=
  match nd.kind with
  | .gen g => match s.toneOf g with
    | some t => match t.trigger with
      | some n => [n]
      | none => []
    | none => []
  | _ => nd.inputs

/-- A node takes part in the passes: in SATIN only one of priority 0 does (R224). -/
def State.runs (s : State) (nd : Node) : Bool := !s.p0Only || nd.prio == 0

/-- Node `m` has completed pass `p`, or does not run. -/
def State.passed (s : State) (m p : Nat) : Bool :=
  match s.node m with
  | some nd => !s.runs nd || decide (p < s.next m)
  | none => true

/-- The endpoint of a SOURCE as a notice names it: its handle, or 2^21 + port × 8 + endpoint of a cascade link. -/
def epKey : EpRef → Nat
  | .handle h => h.toNat
  | .cascade port e => 0x200000 + port.val * 8 + e.toNat
  | .group g => 0x100000 + g.toNat

/-- A SOURCE's block of pass `p` has been decided (R227). -/
def State.decided (s : State) (ep : EpRef) (p : Nat) : Bool :=
  match s.srcSched ep p with
  | none => true
  | some (k, ph) => !passDue p k ph || (s.srcBlock ep (p + 65535)).isSome || decide (p ≤ s.gd.decided)

/-- The operation of node `n` can be created (R226). -/
def State.ready (s : State) (n : Nat) (nd : Node) : Bool :=
  let p := s.next n
  s.mre.on && s.runs nd && !s.gd.busy.contains n && decide (p ≤ s.mfN)
    && (s.waitsFor nd).all (fun m => s.passed m p)
    && (match nd.kind with
        | .source ep .. => s.decided ep p && !s.gd.held.contains (nd.prio, .block (epKey ep))
        | _ => true)

/-! ## Queues (R230 to R232) -/

/-- Depth of queue `q`. -/
def State.depth (s : State) (q : Nat) : Nat := (s.gd.queue.filter (fun o => o.prio == q)).length

/-- Priority of a node. -/
def State.prioOf (s : State) (n : Nat) : Nat := ((s.node n).map (·.prio)).getD 0

/-- Field of GD_QDEPTH for priority `q`. -/
def qdepthF (q : Nat) : Fld :=
  match q with
  | 0 => Reg.GD_QDEPTH_01_P0
  | 1 => Reg.GD_QDEPTH_01_P1
  | 2 => Reg.GD_QDEPTH_23_P2
  | 3 => Reg.GD_QDEPTH_23_P3
  | 4 => Reg.GD_QDEPTH_45_P4
  | 5 => Reg.GD_QDEPTH_45_P5
  | 6 => Reg.GD_QDEPTH_67_P6
  | _ => Reg.GD_QDEPTH_67_P7

/-- GD_QDEPTH, SPILL and HOLDING of a priority follow. -/
def State.showQ (s : State) (q : Nat) : State :=
  let d := s.depth q
  let s := s.setF (qdepthF q) d
  let s := s.setF Reg.GD_STATUS_SPILL
    (setBit (s.f Reg.GD_STATUS_SPILL) q (s.gd.spills.any (fun x => s.prioOf x.1 == q)))
  let s := s.setF Reg.GD_STATUS_HOLDING (setBit (s.f Reg.GD_STATUS_HOLDING) q (s.gd.held.any (fun x => x.1 == q)))
  s.obsPrio q (fun o => { o with depthMax := max o.depthMax d })

/-- The spill map of priority `q` holds an operation. -/
def State.spilled (s : State) (q : Nat) : Bool := s.gd.spills.any (fun x => s.prioOf x.1 == q)

/-- A queue accepts an external notice (R232). -/
def State.accepts (s : State) (q : Nat) : Bool := decide (s.depth q < 4096) && !s.spilled q

/-! ## Affinity (R184, R233, R234) -/

/-- GPE `g` belongs to the priority-0 partition (R184). -/
def p0Gpe (g : Nat) : Bool := decide (56 ≤ g)

/-- GPE `g` is powered and clocked: in SATIN the general partition is not, up to step 2 of the return (R224, R449, R451). -/
def State.gpePowered (s : State) (g : Nat) : Bool := p0Gpe g || !s.p0Only || (s.flag Reg.PMU_STATUS_RESTORED && !s.inSatin)

/-- The last GPE of a node: HOME before its first operation (R234). -/
def State.lastGpe (s : State) (n : Nat) : Nat :=
  match Tbl.get (fun _ => none) s.gd.last n with
  | some g => g
  | none => ((s.node n).map (·.home)).getD 0

/-- A GPE may take an operation of priority `q` (R233). -/
def mayTake (g q : Nat) : Bool := !p0Gpe g || q == 0

/-- The affinity wait of an operation has ended (R234). -/
def State.waitOver (s : State) (o : OpRec) : Bool :=
  let l := s.lastGpe o.node
  o.waited || !s.gpePowered l || !mayTake l o.prio || !s.flag Reg.GD_CTRL_AFFINITY_EN

/-- The waits that end now are over for good (R234): when AFFINITY_EN becomes 0, or GPEs lose their power. -/
def State.endWaits (s : State) : State :=
  { s with gd := { s.gd with queue := s.gd.queue.map (fun (o : OpRec) => { o with waited := s.waitOver o }) } }

/-- Put an operation into its queue: its affinity wait begins, or is over at once (R234). -/
def State.enqueue (s : State) (n p q : Nat) : State :=
  State.showQ { s with gd := { s.gd with queue := s.gd.queue ++ [⟨n, p, q, s.waitOver ⟨n, p, q, false⟩⟩] } } q

/-- Create the operation of node `n` and give it to its queue as an internal notice, which never waits (R226, R231). -/
def State.createOp (s : State) (n : Nat) (nd : Node) : State :=
  let p := s.next n
  let s := { s with gd := { s.gd with busy := n :: s.gd.busy } }
  if s.depth nd.prio < 4096 then s.enqueue n p nd.prio
  else
    let s := { s with gd := { s.gd with spills := insertBy (fun a b => decide (a.1 < b.1)) (n, p) s.gd.spills } }
    ((s.bump Reg.GD_HOLDS_SPILLS).obsPrio nd.prio (fun o => { o with spills := o.spills + 1 })).showQ nd.prio

/-- Create every operation that has become ready, in ascending node index (R230). -/
def State.offer (s : State) (l : List (Nat × Node)) : State :=
  l.foldl (fun s x => if s.ready x.1 x.2 then s.createOp x.1 x.2 else s) s

/-- SOURCE nodes that read endpoint `h`. -/
def State.readers (s : State) (h : Nat) : List (Nat × Node) :=
  s.nodes.filter (fun x => match x.2.kind with
    | .source ep .. => epKey ep == h
    | _ => false)

/-- An external notice is held at its source (R232). -/
def State.holdNotice (s : State) (q : Nat) (v : Notice) : State :=
  if s.gd.held.contains (q, v) then s
  else
    let s := { s with gd := { s.gd with held := s.gd.held ++ [(q, v)] } }
    ((s.bump Reg.GD_HOLDS_NOTICE_HOLDS).obsPrio q (fun o => { o with holds := o.holds + 1 })).showQ q

/-- The link layer reports a written IN block of endpoint `h` (R227, R232): each reader that is ready enters its queue or waits. -/
def State.blockNotice (s : State) (h : Nat) : State :=
  (s.readers h).foldl (fun s x =>
    if s.ready x.1 x.2 then
      if s.accepts x.2.prio then s.createOp x.1 x.2 else s.holdNotice x.2.prio (.block h)
    else s) s

/-- A clip half counts as filled (R232). -/
def State.countFilled (s : State) (g : Nat) : State :=
  let r := s.gen g
  s.setGen g { r with clips := r.clips.map (fun c => { c with ready := c.filled }), noticed := false }

/-- A block mover reports that a clip refill has filled a half (R232). -/
def State.clipNotice (s : State) (g : Nat) : State :=
  let q := s.genPrio g
  if s.accepts q then s.countFilled g else s.holdNotice q (.clip g)

/-! ## Placement (R233 to R235, R237) -/

def State.run (s : State) (g : Nat) : Option RunRec := Tbl.get (fun _ => none) s.gd.gpes g
def State.setRun (s : State) (g : Nat) (r : Option RunRec) : State :=
  { s with gd := { s.gd with gpes := Tbl.set (fun _ => none) s.gd.gpes g r } }

/-- The flow of a node, when it has one. -/
def State.flowOf (s : State) (n : Nat) : Option Nat :=
  match s.node n with
  | some nd => if nd.flow = 0xFFFF then none else some nd.flow
  | none => none

/-- The operation needs a release entry (R237). -/
def State.needsEntry (s : State) (o : OpRec) : Bool :=
  match s.flowOf o.node with
  | some f => !s.isHead f o.node o.pass
  | none => false

/-- An operation is eligible for GPE `g` (R233, R235). -/
def State.eligible (s : State) (g : Nat) (o : OpRec) : Bool :=
  mayTake g o.prio && (s.lastGpe o.node == g || s.waitOver o)

/-- Order of R235 for GPE `g`: queue, last GPE first; the list is in order of entry. -/
def State.better (s : State) (g : Nat) (a b : OpRec) : Bool :=
  if a.prio ≠ b.prio then decide (a.prio < b.prio)
  else (s.lastGpe a.node == g) && !(s.lastGpe b.node == g)

/-- What idle GPE `g` claims. -/
def State.claim (s : State) (g : Nat) : Option OpRec :=
  let full := decide (8192 ≤ s.releaseUsed)
  (s.gd.queue.filter (fun o => s.eligible g o && !(full && s.needsEntry o))).foldl (fun b o => match b with
    | none => some o
    | some c => if s.better g o c then some o else b) none

/-- Dispatch an operation to GPE `g` (R228, R234, R235, R237). -/
def State.dispatch (s : State) (g : Nat) (o : OpRec) : State :=
  let hit := s.lastGpe o.node == g && !s.waitOver o
  let need := s.needsEntry o
  let s := { s with gd := { s.gd with queue := removeFirst (fun x => x == o) s.gd.queue } }
  let s := s.setRun g (some ⟨o.node, o.pass, none⟩)
  let s := { s with gd := { s.gd with last := Tbl.set (fun _ => none) s.gd.last o.node (some g) } }
  let s := if hit then s.bump Reg.GD_AFFINITY_HITS else s.bump Reg.GD_AFFINITY_MISSES
  let s := s.obsPrio o.prio (fun r => { r with
    dispatched := r.dispatched + 1, hits := r.hits + b2n hit, misses := r.misses + b2n (!hit) })
  let s := if o.prio = 0 ∧ p0Gpe g = false then s.obsUpd (fun w => { w with p0General := w.p0General + 1 }) else s
  let s := match s.flowOf o.node with
    | some f => if need then (s.setFlow f ((s.flow f).map (fun (r : RelRec) =>
        if r.node = o.node ∧ r.pass = o.pass then { r with entry := true } else r))).showRelease else s
    | none => s
  s.showQ o.prio

/-- One round of claims (R235): the operation goes to its last GPE if that claims it, else to the lowest claimant. -/
def State.claimRound (s : State) (idle : List Nat) : State × List Nat :=
  let claims := idle.filterMap (fun g => (s.claim g).map (fun o => (g, o)))
  let wins := claims.filter (fun x =>
    let l := s.lastGpe x.2.node
    if claims.any (fun y => y.2 == x.2 && y.1 == l) then x.1 == l
    else !claims.any (fun y => y.2 == x.2 && decide (y.1 < x.1)))
  let s := wins.foldl (fun s x =>
    if decide (8192 ≤ s.releaseUsed) && s.needsEntry x.2 then s else s.dispatch x.1 x.2) s
  (s, idle.filter (fun g => (s.run g).isNone && claims.any (fun y => y.1 == g)))

/-- Rounds until no idle GPE has an eligible operation left. -/
def State.claimRounds (s : State) (idle : List Nat) : Nat → State
  | 0 => s
  | n + 1 =>
    if idle.isEmpty then s
    else
      let (s, rest) := s.claimRound idle
      s.claimRounds rest n

/-- Idle GPEs that are powered and clocked. -/
def State.idleGpes (s : State) : List Nat := (List.range 64).filter (fun g => s.gpePowered g && (s.run g).isNone)

/-- Operation `a` stands before `b` in the order of GPE `g` (R235); both are in the queue. -/
def State.ahead (s : State) (g : Nat) (a b : OpRec) : Bool :=
  s.better g a b || (!s.better g b a && decide (s.gd.queue.findIdx (· == a) < s.gd.queue.findIdx (· == b)))

/-- Operation `o`, which is still queued in `t` after the cycle that began in `s`, was passed over for want of a release entry (R237): a GPE
that was idle could have taken it, and took a later one or none. -/
def State.skipped (s t : State) (idle : List Nat) (o : OpRec) : Bool :=
  t.needsEntry o && idle.any (fun g => s.eligible g o && (match t.run g with
    | none => true
    | some r => (s.gd.queue.find? (fun c => c.node == r.node && c.pass == r.pass)).any (fun c => s.ahead g o c)))

/-- One cycle of the dispatcher (R235); operations passed over for want of a release entry are counted (R237). -/
def State.dispatchAll (s : State) : State :=
  let idle := s.idleGpes
  let t := s.claimRounds idle 64
  if 8192 ≤ t.releaseUsed then
    let n := (t.gd.queue.filter (fun o => s.skipped t idle o)).length
    t.obsUpd (fun o => { o with relFull := o.relFull + n })
  else t

/-! ## Completion (R186, R228, R236) -/

/-- Zero a pair of samples, numbered across all of them (R186): which samples a word holds is not stated. -/
def zeroPair (xs : List (List Int)) (j : Nat) : List (List Int) :=
  (xs.zipIdx).map (fun x => (x.1.zipIdx).map (fun y => if (x.2 * 6 + y.2) / 2 = j then 0 else y.1))

/-- Node `n` becomes FAULTED (R186). -/
def State.faultNode (s : State) (n : Nat) : State :=
  if s.mre.faulted.contains n then s
  else
    let s := { s with mre := { s.mre with faulted := n :: s.mre.faulted } }
    s.setF Reg.MRE_FAULTED_NODES_COUNT s.mre.faulted.length

/-- A parity error of a dispatcher queue or the release buffer counts as an uncorrectable error in the record of the operation's node
(R186, R436); `live` when that node is one of the active image. -/
def State.queueHit (s : State) (n : Nat) (live : Bool) (addr : Nat) : State :=
  ((s.bump Reg.MRE_MEM_ERRORS_UNCORRECTED).captureError 0x0B 5 2 noFunction n addr).when live (fun s => s.faultNode n)

/-- Errors of endpoint buffer memory and of the dispatcher's buffers that an operation of node `n` meets, before it runs (R176, R436). -/
def State.opHits (s : State) (n : Nat) (live : Bool) (hits : List OpHit) : State :=
  hits.foldl (fun s h => match h with
    | .graph _ => s
    | .ebm x => s.ebmHit x 1
    | .queue a => s.queueHit n live a) s

/-- The errors of graph memory among them. -/
def graphErrors (hits : List OpHit) : List EccHit := hits.filterMap (fun h => match h with | .graph x => some x | _ => none)

/-- Errors of graph memory that an operation's reads have found (R186): state and inputs with the samples zeroed. -/
def State.graphHits (s : State) (n : Nat) (live : Bool) (st : NodeSt) (xs : List Stream) (hits : List EccHit) :
    State × NodeSt × List Stream :=
  hits.foldl (fun (a : State × NodeSt × List Stream) h =>
    let (s, st, xs) := a
    if !h.double then (s.bump Reg.MRE_MEM_ERRORS_CORRECTED, st, xs)
    else
      let s := (s.bump Reg.MRE_MEM_ERRORS_UNCORRECTED).captureError 0x0B 5 1 noFunction n h.addr
      if h.addr < 0xC00000 then
        if h.addr / 0x600000 = s.f Reg.MRE_STATUS_BANK ∧ live then (s.faultNode n, st, xs) else (s, st, xs)
      else
        let j := s.choose (List.range (3 * max 1 (max xs.length st.hist.length))) 0
        let s := s.fresh
        if h.addr < 0xE00000 then
          (s, { st with hist := zeroPair st.hist j, out := ((zeroPair [st.out] j).headD []), env := 0 }, xs)
        else (s, st, (xs.zip (zeroPair (xs.map (·.x)) j)).map (fun x => { x.1 with x := x.2 }))) (s, st, xs)

/-- The operation of a node completes (R188, R190, R228, R236): its result, its successors, its release. The answer says
whether it is an emergency wake: a marked node of priority 0 whose FLAG is 1 (R452). -/
def State.completeOp (s : State) (n p : Nat) (nd : Node) (hits : List EccHit) : State × Bool :=
  let xs := nd.inputs.map (fun m => s.streamAt m p)
  let (s, st, xs) := s.graphHits n true (s.nodeSt n) xs hits
  let faulted := s.mre.faulted.contains n
  let (s, r) : State × NodeRes :=
    if faulted && hasOutput nd.kind then (s, ⟨st, zeros6, false, false⟩)
    else s.runNode p nd (if faulted then xs.map (fun x => { x with x := zeros6, flag := false }) else xs) st
  let xs := if faulted then xs.map (fun x => { x with x := zeros6, flag := false }) else xs
  let s := s.setNodeSt n r.st
  let win : Option MeterWin := match nd.kind with | .meter w => meterWin w p r.st | _ => none
  let s := if hasOutput nd.kind then s.setStreams n (⟨p, r.x, r.flag⟩ :: s.streams n) else s
  let s := s.when r.sat (fun s => s.bump Reg.MRE_SATURATIONS_COUNT)
  let s : State := { s with gd := { s.gd with busy := s.gd.busy.filter (· != n) } }
  let s := s.setNext n (if s.runs nd then p + 1 else max (p + 1) (s.mfN + 1))
  -- a SOURCE that triggers a tone generator advances it
  let s := match nd.kind with
    | .source .. => s.genList.foldl (fun (s : State) (x : Nat × GenMode) => match x.2 with
        | .tone t => if t.trigger = some n ∧ s.genRuns x.1 then s.tonePass x.1 p t r.flag else s
        | .clip => s) s
    | _ => s
  let s := match s.flowOf n with
    | some f => (s.setFlow f ((s.flow f).map (fun (q : RelRec) =>
        if q.node = n ∧ q.pass = p then { q with done := true, ins := xs, win := win } else q))).release f
    | none => s
  let s := s.offer (s.nodes.filter (fun x => x.1 == n || (s.waitsFor x.2).contains n))
  (s, decide (nd.prio = 0) && nd.wake && r.flag && s.inSatin)

/-- What the release of an operation of a swapped-out image does before the mark of M, after its fill deadline (R238, R239): a SINK
writes nothing, a TAP zeros, and the SV has no samples. -/
def State.oldEffect (s : State) (p : Nat) (nd : Node) : State :=
  if hasOutput nd.kind || decide (s.mre.lastM ≤ s.mfN) then s
  else
    let s := s.obsUpd (fun o => { o with overrun := o.overrun + 1 })
    match nd.kind with
    | .tap t => s.tapRecord t p (List.replicate (18 * nd.inputs.length) 0)
    | .correlate c => if (s.corr c.line).isSome then s.svQuiet c p else s
    | _ => s

/-- The operation of node `n` of an image that has been swapped out completes (R239): after the mark of M nothing of it is released; a node that continues
keeps the state it leaves, and may go on. -/
def State.completeOld (s : State) (n p : Nat) (o : OldRun) (hits : List EccHit) : State :=
  let st := match o.cont with | some m => s.nodeSt m | none => NodeSt.zero
  let (s, st, xs) := s.graphHits n false st o.ins hits
  let s := s.oldEffect p o.rec_
  match o.cont with
  | none => s
  | some m =>
    let (s, r) := s.runNode p o.rec_ xs st
    let st := match o.rec_.kind with
      | .meter w => { r.st with win := (meterWin w p r.st).or r.st.win }
      | _ => r.st
    let s := (s.setNodeSt m st).when r.sat (fun s => s.bump Reg.MRE_SATURATIONS_COUNT)
    let s := { s with gd := { s.gd with busy := s.gd.busy.filter (· != m) } }
    match s.node m with
    | some nd => s.offer [(m, nd)]
    | none => s

/-! ## Timers (R240, R241) -/

/-- Insert a timer. -/
def State.addTimer (s : State) (prio e : Nat) (kind : TimerKind) (owner : Nat) (ref : Option EntryRef) (r : Nat) : State :=
  State.showTimers { s with gd := { s.gd with
    timers := s.gd.timers ++ [⟨s.gd.timerSeq, prio, e, kind, owner, ref, r, false⟩], timerSeq := s.gd.timerSeq + 1 } }

/-- Timer `u` fires before `t` (R240, R244): the earlier expiry; of one expiry the lower list, and within a list the order of
insertion; of those that SATIN or DORMANT has held the order of insertion alone. -/
def timerBefore (u t : TimerRec) : Bool :=
  decide (u.e < t.e) || (u.e == t.e &&
    (if u.held && t.held then decide (u.seq < t.seq)
     else if u.held || t.held then t.held
     else decide (u.prio < t.prio ∨ (u.prio = t.prio ∧ u.seq < t.seq))))

/-- Timers whose expiry has passed while their list did not tick are held (R244): lists 1 to 7 in SATIN, all of them in DORMANT. -/
def State.holdTimers (s : State) (all : Bool) : State :=
  { s with gd := { s.gd with timers := s.gd.timers.map (fun (t : TimerRec) =>
    if decide (t.e ≤ s.mfN) && (all || t.prio != 0) then { t with held := true } else t) } }

/-- No other timer that is due goes before this one. -/
def State.timerTurn (s : State) (t : TimerRec) : Bool := s.gd.timers.all (fun u => !(s.timerDue u && timerBefore u t))

/-- Timers that have fired at the tick of this microframe. -/
def State.tickFired (s : State) : Nat := if s.gd.tick.1 = s.mfN then s.gd.tick.2 else 0

/-- The SWEEP_SLOT timer of a part that starts in the microframe of its own first slot fires at once (R263). -/
def State.slotNowDue (s : State) (t : TimerRec) : Bool := t.kind == .sweepSlot && t.e == s.mfN && s.sv.audit.any (fun a => a.partMf == s.mfN)

/-- Take timer `seq` of a kind off its list when it may fire, in the Tulle band of the microframe (R240, R244): at most 1,024 fire in one
tick, in their order. Late timers are counted. -/
def State.fireTimer (s : State) (seq : Nat) (kind : TimerKind) : Option (State × TimerRec) :=
  match s.gd.timers.find? (fun t => t.seq == seq && t.kind == kind) with
  | none => none
  | some t =>
    let atOnce := s.slotNowDue t
    if s.timerDue t = false ∨ (atOnce = false ∧ (s.timerTurn t = false ∨ 1024 ≤ s.tickFired)) then none
    else
      let n := s.tickFired + 1
      let s := if atOnce then s
        else
          let m := s.mfN
          let s := s.advanceTo Config.fillTick
          { s with gd := { s.gd with tick := (m, n) } }
      let s := State.showTimers { s with gd := { s.gd with timers := s.gd.timers.filter (fun x => x.seq != seq) } }
      let late := !atOnce && decide (t.e < s.mfN + 1)
      let s := s.when late (fun s => s.bump Reg.GD_TIMER_LATE_COUNT)
      some (s.obsUpd (fun o => { o with fired := o.fired + 1, late := o.late + b2n late }), t)

/-- A clip becomes playable once more as its timer fires (R241, R242). -/
def State.playable (s : State) (t : TimerRec) : State :=
  let r := s.gen t.owner
  s.setGen t.owner { r with clips := r.clips.map (fun c =>
    if some c.ref = t.ref then { c with playable := c.playable + 1, lastE := t.e } else c) }

end Sys2Proof.Machine
end

