-- ==== Sys2Proof/Machine/Flags.lean ====
section
/-! DEFINITION. What writing and reading a register does to its fields, by their access codes (R7 to R9). -/

namespace Sys2Proof.Machine

/-- The value of a register after a write of `v` (R9): RW and RWS bits take the value written, RW1C bits are cleared
where 1 is written, every other bit keeps its value. -/
def writeMasked (r : RegSpec) (old v : Word) : Word :=
  let rw := BitVec.ofNat 32 r.rw
  let w1c := BitVec.ofNat 32 r.w1c
  (old &&& ~~~rw &&& ~~~(w1c &&& v)) ||| (v &&& rw)

/-- The value of a register after a read (R9): RC bits are cleared. -/
def afterRead (r : RegSpec) (old : Word) : Word := old &&& ~~~(BitVec.ofNat 32 r.rc)

/-- Write the register at `a` by the access codes of its fields; an address without a register is left (R321). -/
def State.writeReg (s : State) (a : Nat) (v : Word) : State :=
  match regSpec a with
  | some r => s.setReg a (writeMasked r (s.reg a) v)
  | none => s

/-- Clear the RC fields of the register at `a`, as a read does. The largest USED since a read of GD_RELEASE_USED starts from the
entries in use (R247). -/
def State.clearRc (s : State) (a : Nat) : State :=
  match regSpec a with
  | some r =>
    if r.rc = 0 then s
    else (s.setReg a (afterRead r (s.reg a))).when (a == Reg.GD_RELEASE_USED)
      (fun s => s.setF Reg.GD_RELEASE_USED_HIGH (s.f Reg.GD_RELEASE_USED_USED))
  | none => s

end Sys2Proof.Machine
end

