-- ==== Sys2Proof/Machine/Lanes.lean ====
section
/-! DEFINITION. The commands of the lanes (R71 to R95, R270, R275). -/

namespace Sys2Proof.Machine

/-! ## Twill paths (R91, R270, R275) -/

/-- Smallest floor(16 × margin / threshold) of a lane, at most 255 (R270). -/
def State.laneMargin (s : State) (n : Nat) : Nat :=
  let h := max 1 (s.f (Reg.LX_MARGIN_THR_H n))
  let v := max 1 (s.f (Reg.LX_MARGIN_THR_V n))
  [16 * s.f (Reg.LX_MARGIN_H_LEFT n) / h, 16 * s.f (Reg.LX_MARGIN_H_RIGHT n) / h, 16 * s.f (Reg.LX_MARGIN_V_UP n) / v,
    16 * s.f (Reg.LX_MARGIN_V_DOWN n) / v].foldl min 255

/-- PATH_MARGIN of a path by its root port; of a path through the peer, as its TIME frames give it (R275). -/
def State.marginOf (s : State) (o : Nat) : Nat := if o < 192 then s.marginNow o else (s.trunk (o - 192)).peerMargin

/-- A check has given path `t` the PATH_MARGIN `m` (R275): `o` is the other path of the subtree, and `z` its path 0. The preferred path may
change. -/
def State.pathChecked (s : State) (t o z m : Nat) : State :=
  let om := s.marginOf o
  let here := if t = z then 0 else 1
  if (s.trunk z).prefPath = here then
    if m < 16 ∧ 16 ≤ om then s.preferOther t else s
  else
    let b := if om + 8 ≤ m then (s.trunk z).better + 1 else 0
    let s := s.updTrunk z (fun r => { r with better := b })
    if 2 ≤ b ∧ s.portEnabled t then s.updTrunk z (fun r => { r with prefPath := here, better := 0 }) else s

/-- After a margin check of a Twill path's lanes (R270, R275): PATH_MARGIN is computed, and the preferred path may
change. -/
def State.pathMarginUpdate (s : State) (t : Nat) : State :=
  match s.twillPair t with
  | none => s
  | some (o, z) =>
    let m := if s.trunkUp t then (s.lanesOf t).foldl (fun a n => min a (s.laneMargin n)) 255 else 0
    (s.updTrunk t (fun r => { r with pathMargin := m })).pathChecked t o z m

/-- The peer tells the PATH_MARGIN of its trunk `t` (R275). One that differs from the last stands for a check of that path (DESIGN CHOICE, log
entry 54). -/
def State.peerChecked (s : State) (t m : Nat) : State :=
  if 192 ≤ t ∨ (s.trunk t).peerMargin = m then s
  else
    let s := s.updTrunk t (fun r => { r with peerMargin := m })
    match s.twillPair (t + 192) with
    | some (o, z) => s.pathChecked (t + 192) o z m
    | none => s

/-! ## Retraining (R90, R91) -/

/-- First frame microframe at least 8 after the current one (R90). -/
def slotMf (mf : Nat) : Nat := ceilDiv (mf + 8) 8 * 8

/-- A retraining slot of trunk `t` is fixed with the lanes that are POOR then, one for both sides that ask (R90, R92). One whose F has passed
without it no longer stands. -/
def State.fixSlot (s : State) (t : Nat) : State :=
  let fixed : Bool := match (s.trunk t).slot with
    | some f => (s.trunk t).slotOn || decide (s.mfN ≤ f)
    | none => false
  if fixed then s
  else
    let poor := (s.lanesOf t).filter (fun n => s.f (Reg.LX_LANE_STATUS_GRADE n) == 2 || s.f (Reg.LX_LANE_STATUS_GRADE n) == 3)
    s.updTrunk t (fun r => { r with slot := some (slotMf s.mfN), slotReq := false, slotLanes := poor })

/-- A Twill retraining of trunk `t` begins (R91): the other path is preferred and every lane goes through TRAINING. -/
def State.startTwill (s : State) (t : Nat) : State :=
  let s := (s.preferOther t).updTrunk t (fun r => { r with
    twillAt := some s.now, twillWait := false, twillDue := false, silent := true })
  (s.lanesOf t).foldl (fun s n => (((s.updLane n (fun l => { l with tries := 0 })).startTraining n).bump
    (Reg.LX_RETRAIN_COUNT_RETRAINS n))) s

/-- The Twill retrainings that are due begin at a mark, path 0 before path 1 of a subtree, and trunks whose retraining has ended are walked
again (R91). -/
def State.twillMark (s : State) : State :=
  let due := s.trunks.filter (fun t => (s.trunk t).twillDue)
  let s := (s.trunks.filter (fun t => (s.trunk t).silent && (s.trunk t).twillAt.isNone)).foldl (fun s t =>
    s.updTrunk t (fun r => { r with silent := false })) s
  let first (t : Nat) : Bool := match s.twillPair t with | some (_, z) => z == t | none => true
  (due.filter first ++ due.filter (fun t => !first t)).foldl (fun s t =>
    match s.otherPath t with
    | some o => if (s.trunk o).twillAt.isSome then s.updTrunk t (fun r => { r with twillDue := false, twillWait := true }) else s.startTwill t
    | none => s.updTrunk t (fun r => { r with twillDue := false })) s

/-- A lane of trunk `t` has graded POOR (R90, R91). -/
def State.poorLane (s : State) (t : Nat) : State :=
  match s.otherPath t with
  | none => s.fixSlot t
  | some o =>
    if (s.trunk t).twillAt.isSome then s
    else if (s.trunk o).twillAt.isSome then s.updTrunk t (fun r => { r with twillWait := true })
    else if (s.trunkUp o || decide (192 ≤ o)) && s.portEnabled o then s.updTrunk t (fun r => { r with twillDue := true })
    else s.fixSlot t

/-- A Twill retraining has ended with every lane UP; the path that waited begins its own at the next mark (R91). -/
def State.endTwill (s : State) (t : Nat) : State :=
  let s := s.updTrunk t (fun r => { r with twillAt := none })
  match s.otherPath t with
  | some o => if (s.trunk o).twillWait then s.updTrunk o (fun r => { r with twillWait := false, twillDue := true }) else s
  | none => s

/-- The exemption of a Twill retraining ends (R91): the port leaves ENABLED as for a link lost. -/
def State.failTwill (s : State) (t : Nat) : State :=
  let s := s.updTrunk t (fun r => { r with twillAt := none })
  if s.portState t = 4 then s.portLinkLost t else s

/-! ## Taps (R82, R83) -/

/-- Largest and smallest value of a tap: 0 PRE, 1 MAIN, 2 POST. -/
def tapMax : Nat → Nat
  | 0 => 12
  | 1 => 64
  | _ => 24
def tapMin : Nat → Nat
  | 1 => 32
  | _ => 0

def tapF (n : Nat) : Nat → Fld
  | 0 => Reg.LX_TX_TAPS_PRE n
  | 1 => Reg.LX_TX_TAPS_MAIN n
  | _ => Reg.LX_TX_TAPS_POST n

/-- One step of a tap: the new value and the result, 1 updated, 2 at minimum, 3 at maximum (R82, R83). `sum` is
PRE + MAIN + POST. -/
def tapStep (tap v sum req : Nat) : Nat × Nat :=
  if req = 1 then if v < tapMax tap ∧ sum < 64 then (v + 1, 1) else (v, 3)
  else if tapMin tap < v then (v - 1, 1) else (v, 2)

/-- Results of the three taps in a lane's record. -/
def laneSt (l : LaneRec) : Nat → Nat
  | 0 => l.stPre
  | 1 => l.stMain
  | _ => l.stPost
def setLaneSt (l : LaneRec) (tap v : Nat) : LaneRec :=
  match tap with
  | 0 => { l with stPre := v }
  | 1 => { l with stMain := v }
  | _ => { l with stPost := v }

/-- The part of a REQUEST byte that concerns one tap. -/
def reqOf (b tap : Nat) : Nat := b / 4 ^ tap % 4

/-- A REQUEST byte asks for one thing at a time: one step of one tap, PRESET or INIT (R82). -/
def oneRequest (b : Nat) : Bool :=
  (if reqOf b 0 = 0 then 0 else 1) + (if reqOf b 1 = 0 then 0 else 1) + (if reqOf b 2 = 0 then 0 else 1)
    + b / 64 % 2 + b / 128 % 2 == 1

/-- Apply the request of one tap (R82): a held request is applied once, hold clears the result. With OVR the request is
answered at maximum or minimum. -/
def State.applyTap (s : State) (n b tap : Nat) : State :=
  let r := reqOf b tap
  if r = 0 then s.updLane n (fun l => setLaneSt l tap 0)
  else if r = 3 ∨ laneSt (s.lane n) tap ≠ 0 then s
  else if s.flag (Reg.LX_TX_TAPS_OVR n) then s.updLane n (fun l => setLaneSt l tap (if r = 1 then 3 else 2))
  else
    let sum := s.f (tapF n 0) + s.f (tapF n 1) + s.f (tapF n 2)
    let (v, st) := tapStep tap (s.f (tapF n tap)) sum r
    (s.setF (tapF n tap) v).updLane n (fun l => setLaneSt l tap st)

/-- Set all three taps, once per request (R82, R83). That PRESET and INIT report `updated` on all three taps, and with OVR `at maximum`, is the
model's choice (DESIGN CHOICE, log entry 45). -/
def State.applyPreset (s : State) (n pre main post : Nat) : State :=
  if (s.lane n).stPre ≠ 0 ∧ (s.lane n).stMain ≠ 0 ∧ (s.lane n).stPost ≠ 0 then s
  else
    let ovr := s.flag (Reg.LX_TX_TAPS_OVR n)
    let s := if ovr then s else ((s.setF (tapF n 0) pre).setF (tapF n 1) main).setF (tapF n 2) post
    let v := if ovr then 3 else 1
    s.updLane n (fun l => { l with stPre := v, stMain := v, stPost := v })

/-- A request for what is not yet applied (R82): applied once, held afterwards. A REQUEST that asks for two things, or for code 3, is ignored
(DESIGN CHOICE, log entry 45). -/
def State.applyRequest (s : State) (n req : Nat) : State :=
  if req % 256 = 0 then ((s.applyTap n 0 0).applyTap n 0 1).applyTap n 0 2
  else if !oneRequest req then s
  else if nbit req 6 then s.applyPreset n 0 64 0
  else if nbit req 7 then s.applyPreset n 4 48 12
  else ((s.applyTap n req 0).applyTap n req 1).applyTap n req 2

/-- What the receiver may ask of the far transmitter (R82): nothing, one step of one tap, PRESET or INIT. What it asks follows from its
adaptation, which the spec leaves to the part: a free choice. -/
def requestChoices : List Nat := [0, 1, 2, 4, 8, 16, 32, 64, 128]

/-- The own receiver's side of the handshake (R82, R92): a status ends the request, and once the status is gone a new one may follow, until
the receiver is ready. Behind a tap that has reported its maximum MAIN goes down first. -/
def State.placeRequest (s : State) (n status : Nat) : State :=
  let l := s.lane n
  let asked : Bool := l.request != 0
  let s := s.updLane n (fun l => { l with
    farStatus := status
    rxReadyGot := l.rxReadyGot || nbit status 6
    farFull := if status % 64 = 0 then l.farFull
      else (l.request == 1 && status % 4 == 3) || (l.request == 16 && status / 16 % 4 == 3)
    request := if status % 64 ≠ 0 then 0 else l.request })
  if status % 64 ≠ 0 ∨ asked ∨ l.rxReadySent then s
  else
    let q := if l.farFull then 8 else s.choose requestChoices 0
    s.fresh.updLane n (fun l => { l with request := q })

/-- RX_READY has been sent and received: the tick is kept (R84). -/
def State.noteReady (s : State) (n : Nat) : State :=
  s.updLane n (fun l => if l.rxReadySent && l.rxReadyGot && l.readyAt.isNone then { l with readyAt := some s.now } else l)

/-- The request and status of a received training header or RETRAIN block (R82, R92). -/
def State.tapHandshake (s : State) (n req status : Nat) : State := ((s.applyRequest n req).placeRequest n status).noteReady n

/-- The RETRAIN block that lane `n` sends (R92). -/
def State.retrainBlock (s : State) (n : Nat) : BitVec 64 :=
  let l := s.lane n
  let b := [BitVec.ofNat 8 0x5A, BitVec.ofNat 8 l.request, BitVec.ofNat 8 (statusByte l),
    BitVec.ofNat 8 (s.laneByte n), BitVec.ofNat 8 (2 * b2n (s.trunk (s.trunkOf n)).slotOn), 0, 0]
  BitVec.ofNat 64 (leNat (b ++ [BitVec.ofNat 8 (crc8 b)]))

/-- A training header or RETRAIN block has its type in byte 0 and a good CRC8 in byte 7 (R81, R92). -/
def rawGood (typ : Nat) (raw : BitVec 64) : Bool :=
  let b := leBytes 8 raw.toNat
  field b 0 1 == typ && field b 7 1 == crc8 (b.take 7)

/-! ## Commands -/

/-- A packet that fails its CRC, or counts as one that does, is discarded (R38, R76, R112). -/
def State.discardCrc (s : State) (t : Nat) : State :=
  (s.bump (Reg.LNK_RX_CRC_COUNT t)).updPort t (fun r => { r with discards := min (r.discards + 1) 65535 })

/-- DELINEATION_LOSS (R73, R74, R76): what the receiver has met makes it lose delineation or does not; when it does, it discards up to the next
IDLE, SYNC or LPI block, one error is counted, and the packet in hand is discarded as for a CRC failure. -/
def State.delineationLoss (s : State) (x : DelinAt) : State :=
  let t := x.trunk.val
  if s.portExists t && !(s.trunk t).delinLost && loses x.cause then
    ((s.updTrunk t (fun r => { r with delinLost := true })).bump (Reg.LX_DELIN_ERRORS_COUNT t)).when x.packet (fun s => s.discardCrc t)
  else s
def execDelineationLoss (t : DelinAt) (s : State) : Out := .next (s.delineationLoss t)

/-- DELINEATION_RECOVERED (R76): framing resumes at an IDLE, SYNC or LPI block. -/
def execDelineationRecovered (t : DelinBack) (s : State) : Out :=
  .next (if [Ct.idle, Ct.sync, Ct.lpi].contains t.typ.toNat then s.updTrunk t.trunk.val (fun r => { r with delinLost := false }) else s)

/-- Ticks in which a lane sends 16,384 blocks (R73, R78): 16,384 × 5.28 ns, rounded up. -/
def markerTicks : Nat := 2163

/-- MARKER_SEND (R78): once 16,384 blocks have gone on a lane since its last marker, every lane of its trunk that holds inserts one, at the same
block index. -/
def State.markerDue (s : State) (n : Nat) : State :=
  if laneHolds (s.laneState n) && decide ((s.lane n).markerAt + markerTicks ≤ s.now) then
    (((n :: s.lanesOf (s.trunkOf n)).eraseDups).filter (fun i => laneHolds (s.laneState i))).foldl (fun s i => s.sendMarker i) s
  else s
def execMarkerSend (n : LaneId) (s : State) : Out := .next (s.markerDue n.val)

/-- A BIP error of a lane while an audit runs (R268). -/
def State.auditBip (s : State) (n : Nat) : State :=
  { s with sv := { s.sv with audit := s.sv.audit.map (fun a => { a with
      lanes := Tbl.upd (fun _ => AuditLane.zero) a.lanes n (fun l => { l with errors := l.errors + 1 }) }) } }

/-- The EYE part of an audit holds the offset samplers (R265). -/
def State.auditEye (s : State) : Bool :=
  match s.sv.audit with
  | some a => a.running && a.left.head? == some 1
  | none => false

/-- MARKER_RECEIVED (R78, R79): the lane's place in the trunk, and its BIP. A block whose CHECK is wrong is no marker, and is passed over
(DESIGN CHOICE, log entry 45). -/
def State.markerReceived (s : State) (n : Nat) (m : Marker) : State :=
  if laneHolds (s.laneState n) && markerGood m.raw then
    let b := leBytes 8 m.raw.toNat
    let lane := field b 1 1 % 4
    let ok : Bool := field b 3 1 == m.bip.toNat
    let s := (s.setF (Reg.LX_LANE_STATUS_PEER_LANE n) lane).setF (Reg.LX_LANE_STATUS_PEER_PORT n) (field b 2 1)
    let s := s.updLane n (fun l => { l with
      markLane := some lane, markWidth := field b 1 1 / 4 % 4,
      bipSince := if ok then l.bipSince else l.bipSince + 1 })
    if ok then s else (s.bump (Reg.LX_BIP_ERRORS_COUNT n)).auditBip n
  else s
def execMarkerReceived (n : LaneId) (m : Marker) (s : State) : Out := .next (s.markerReceived n.val m)

/-- The markers of a trunk's lanes name each lane once, with the width of LX_QUAD_CFG (R79). -/
def State.markersAgree (s : State) (t : Nat) : Bool :=
  let w := s.width t
  let code := match w with | 4 => 2 | 2 => 1 | _ => 0
  let ms := (s.lanesOf t).map (fun n => s.lane n)
  ms.all (fun l => l.markWidth == code && l.markLane.isSome) &&
  (List.range w).all (fun i => ms.any (fun l => l.markLane == some i))

/-- The markers of the Miodel lanes name each place of a quad once for each quad (R79, R276). -/
def State.mioMarksAgree (s : State) : Bool :=
  let l := s.miodelLanes
  let ms := l.map (fun n => s.lane n)
  let k := min 4 l.length
  ms.all (fun r => r.markWidth == k / 2 && r.markLane.isSome) &&
    (List.range k).all (fun i => (ms.filter (fun r => r.markLane == some i)).length == l.length / k)

/-- ALIGNMENT_COMPLETE (R79, R80): once every lane of the trunk is aligned those in ALIGNING are UP, or ALIGN_FAIL is set and its port, when it was being
reset, becomes DISABLED (R104). -/
def State.alignmentComplete (s : State) (t skew : Nat) : State :=
  let q := t / 4
  if s.miodelLane t then
    -- the Miodel lanes, wired in any order (R276)
    if !(s.miodelLanes.all (fun n => s.laneState n == 2)) then s
    else if skew ≤ 64 ∧ s.mioMarksAgree then s.miodelLanes.foldl (fun s n => (s.setLane n Ls.up).updLane n (fun l => { l with
      upAt := some s.now, bipSince := 0, checks := 0, tries := 0 })) s
    else s.setB (Reg.LX_QUAD_STATUS_ALIGN_FAIL q) true
  else if (s.lanesOf t).any (fun n => s.laneState n == 2) && (s.lanesOf t).all (fun n => laneHolds (s.laneState n)) then
    if skew ≤ 64 ∧ s.markersAgree t then
      let twill := (s.trunk t).twillAt.isSome
      let s := ((s.lanesOf t).filter (fun n => s.laneState n == 2)).foldl (fun s n => (s.setLane n Ls.up).updLane n (fun l => { l with
        upAt := some s.now, bipSince := 0, checks := 0, tries := 0 })) s
      let s := s.updTrunk t (fun r => { r with skew := skew })
      let s := s.setF (Reg.LX_QUAD_STATUS_SKEW q) (max (s.trunk (q * 4)).skew (s.trunk (q * 4 + 2)).skew)
      if twill then s.endTwill t else s
    else
      let s := s.setB (Reg.LX_QUAD_STATUS_ALIGN_FAIL q) true
      if s.portState t = 3 ∧ s.rootRole t then (s.portDisable t Rs.trainFailed St.deviceGone) else s
  else s
def execAlignmentComplete (t : Trunk) (skew : BitVec 7) (s : State) : Out :=
  .next (s.alignmentComplete t.val skew.toNat)

/-- Writing TRAIN_START (R80, R84): a mission lane in DISABLED or FAILED starts training with its tries cleared. -/
def State.trainStart (s : State) (n : Nat) : State :=
  if s.flag (Reg.LX_LANE_CTRL_EN n) && s.f (Reg.LX_LANE_CTRL_MODE n) == 0
      && (s.laneState n == 0 || s.laneState n == 7) then
    (s.updLane n (fun l => { l with tries := 0 })).startTraining n
  else s
def execLaneTrainStart (n : LaneId) (s : State) : Out := .next (s.trainStart n.val)

/-- Writing RETRAIN_REQ (R90): the lane grades POOR at its next check. -/
def State.retrainReq (s : State) (n : Nat) : State := s.updLane n (fun l => { l with retrainReq := true })
def execLaneRetrainReq (n : LaneId) (s : State) : Out := .next (s.retrainReq n.val)

/-- The lane's trunk is out of service, or no lane of it has EN = 1 (R94). -/
def State.testAllowed (s : State) (n : Nat) : Bool :=
  let l := s.lanesOf (s.trunkOf n)
  !(l.all (fun i => laneLive (s.laneState i))) || !(l.any (fun i => s.flag (Reg.LX_LANE_CTRL_EN i)))

/-- LANE_ENABLE_WRITE (R80, R94, R97): LX_LANE_CTRL takes its fields; EN = 0 disables the lane, EN = 1 with MODE 1 takes
a DISABLED lane into TEST; TRAIN_START and RETRAIN_REQ act. -/
def State.laneEnable (s : State) (n : Nat) (v : Word) : State :=
  let s := s.writeReg (Reg.LX_LANE_CTRL n) v
  let s := if !s.flag (Reg.LX_LANE_CTRL_EN n) then s.quietLane n
    else if s.f (Reg.LX_LANE_CTRL_MODE n) = 1 ∧ s.laneState n = 0 ∧ s.testAllowed n then s.setLane n Ls.test
    else s
  let s := s.when (bits v 2 1 == 1) (fun s => s.trainStart n)
  s.when (bits v 3 1 == 1) (fun s => s.retrainReq n)
def execLaneEnableWrite (n : LaneId) (v : Word) (s : State) : Out :=
  .next (s.pfWrite (Reg.LX_LANE_CTRL n.val) (fun s => s.laneEnable n.val v))

/-- QUAD_CFG_WRITE (R72, R276): WIDTH is taken only while every lane of the quad that is not a Miodel lane is disabled;
no trunk of it is aligned any more, a root port that ceases to exist is OFF (R71), and LX_DELIN_ERRORS of its lane, which then numbers no trunk, is 0 (R97). -/
def State.quadCfg (s : State) (q : Nat) (v : Word) : State :=
  if (numbers (4 * q) 4).any (fun n => s.flag (Reg.LX_LANE_CTRL_EN n) && !s.miodelLane n) then
    s.setB (Reg.LX_QUAD_STATUS_CFG_REFUSED q) true
  else
    let s := s.writeReg (Reg.LX_QUAD_CFG q) v
    let s := ((numbers (4 * q) 4).foldl (fun s p => s.updTrunk p (fun r => { r with skew := 0 })) s).setF (Reg.LX_QUAD_STATUS_SKEW q) 0
    (numbers (4 * q) 4).foldl (fun s p => if s.portExists p then s else (s.portOff p).setF (Reg.LX_DELIN_ERRORS_COUNT p) 0) s
def execQuadCfgWrite (q : QuadId) (v : Word) (s : State) : Out :=
  .next (s.pfWrite (Reg.LX_QUAD_CFG q.val) (fun s => s.quadCfg q.val v))

/-- TRAIN_HEADER_RECEIVED (R81, R82, R85): a good header's request and status, and the polarity found. -/
def State.trainHeaderReceived (s : State) (n : Nat) (raw : BitVec 64) (inv : Bool) : State :=
  if s.laneState n = 1 ∧ rawGood 0xC3 raw then
    let b := leBytes 8 raw.toNat
    let s := s.setB (Reg.LX_LANE_STATUS_RX_INVERTED n) inv
    let s := s.tapHandshake n (field b 1 1) (field b 2 1)
    s.emit (.train n (s.trainHeader n))
  else s
def execTrainHeaderReceived (n : LaneId) (raw : BitVec 64) (inverted : Bool) (s : State) : Out :=
  .next (s.trainHeaderReceived n.val raw inverted)

/-- Every margin is at least `k` times the lane's threshold (R89). -/
def State.marginsMeet (s : State) (n k : Nat) (m : Margins) : Bool :=
  let h := s.f (Reg.LX_MARGIN_THR_H n)
  let v := s.f (Reg.LX_MARGIN_THR_V n)
  decide (k * h ≤ m.hLeft.toNat) && decide (k * h ≤ m.hRight.toNat) && decide (k * v ≤ m.vUp.toNat) &&
    decide (k * v ≤ m.vDown.toNat)

/-- ADAPTATION_CONVERGED (R84): a margin check that meets the thresholds sets RX_READY, in STATUS of the frames from here on. -/
def State.converged (s : State) (n : Nat) (m : Margins) : State :=
  if s.laneState n = 1 ∧ s.marginsMeet n 1 m then
    let s := (s.updLane n (fun l => { l with rxReadySent := true, request := 0 })).noteReady n
    s.emit (.train n (s.trainHeader n))
  else s
def execAdaptationConverged (n : LaneId) (m : Margins) (s : State) : Out := .next (s.converged n.val m)

/-- A training attempt fails (R84): FAILED, one try used; when none is left, a port being reset becomes DISABLED with
TRAIN_FAILED (R104), a Twill retraining ends in LINK_LOST (R91), and a POWERED port with PRESENCE = 1 begins anew (R102). -/
def State.trainFail (s : State) (n : Nat) : State :=
  let t := s.trunkOf n
  let s := (s.setLane n Ls.failed).bump (Reg.LX_RETRAIN_COUNT_FAILS n)
  let s := s.updLane n (fun l => { l with tries := l.tries + 1, failedAt := some s.now, trainAt := none })
  if (s.lane n).tries < max 1 (s.f (Reg.LX_TRAIN_CFG_MAX_TRIES n)) then s
  else if (s.trunk t).twillAt.isSome then s.failTwill t
  else if s.portState t = 3 ∧ s.rootRole t then s.portDisable t Rs.trainFailed St.deviceGone
  else if s.portState t = 1 ∧ s.flag (Reg.TM_PORT_CTRL_PRESENCE t) then s.updLane n (fun l => { l with tries := 0 })
  else s

/-- Ticks of 64 training frames, rounded up (R81, R84), and of an attempt. -/
def framesTicks : Nat := 1082
def attemptTicks : Nat := 1250000

/-- A lane leaves TRAINING for ALIGNING: 2 µs of IDLE, and a marker (R78). -/
def State.enterAligning (s : State) (n : Nat) : State :=
  ((s.setLane n Ls.aligning).emit (.laneCtl n Ct.idle wakeIdle)).sendMarker n

/-- TRAINING_COMPLETE (R84): 64 more frames have gone since RX_READY stood both ways; a lane that gets here at 50 ms or later fails instead. -/
def State.trainingComplete (s : State) (n : Nat) : State :=
  let l := s.lane n
  match (if s.laneState n = 1 then l.readyAt else none) with
  | none => s
  | some r =>
    if s.now < r + framesTicks then s
    else if decide ((l.trainAt.getD s.now) + attemptTicks ≤ s.now) then s.trainFail n
    else s.enterAligning n
def execTrainingComplete (n : LaneId) (s : State) : Out := .next (s.trainingComplete n.val)

/-- `n` ticks have passed since the tick kept in `t`. -/
def State.since (s : State) (t : Option Nat) (n : Nat) : Bool := match t with | some x => decide (x + n ≤ s.now) | none => false

/-- TRAINING_TIMEOUT (R84): once 50 ms have passed without ALIGNING, and not earlier. -/
def execTrainingTimeout (n : LaneId) (s : State) : Out :=
  .next (if s.laneState n.val = 1 ∧ s.since (s.lane n.val).trainAt attemptTicks then s.trainFail n.val else s)

/-- FAILED_RETRY_TIMER (R84): once 100 ms in FAILED have passed, with tries left. -/
def execFailedRetryTimer (n : LaneId) (s : State) : Out :=
  .next (if s.laneState n.val = 7 ∧ s.since (s.lane n.val).failedAt ms100 ∧ (s.lane n.val).tries < max 1 (s.f (Reg.LX_TRAIN_CFG_MAX_TRIES n.val)) then
    s.startTraining n.val else s)

/-- BLOCK_LOCK_LOST (R80): from UP to TRAINING. -/
def execBlockLockLost (n : LaneId) (s : State) : Out :=
  .next (if s.laneState n.val = 3 then
    (s.updLane n.val (fun l => { l with tries := 0 })).startTraining n.val else s)

/-- ADAPTATION_FREEZE (R86): in UP, after 4,096 idle blocks; never during RETRAINING. -/
def execAdaptationFreeze (n : LaneId) (s : State) : Out :=
  .next (if s.laneState n.val = 3 ∧ s.f (Reg.LX_LANE_STATUS_ADAPT_FROZEN n.val) = 0 then
    (s.setB (Reg.LX_LANE_STATUS_ADAPT_FROZEN n.val) true).bump (Reg.LX_IDLE_FREEZES_COUNT n.val) else s)

/-- ADAPTATION_RESUME (R86): the first block of any other type; in LPI adaptation stays frozen (R93). -/
def execAdaptationResume (n : LaneId) (s : State) : Out :=
  .next (if s.laneState n.val = 5 then s else s.setB (Reg.LX_LANE_STATUS_ADAPT_FROZEN n.val) false)

/-- The window of 100 ms in which the lane is, counted from its entry to UP (R87). -/
def State.checkWindow (s : State) (n : Nat) : Nat := (s.now - ((s.lane n).upAt.getD 0)) / ms100

/-- MARGIN_CHECK_START (R87, R88): one check in each window on a lane that is UP, unless software owns the sampler. -/
def State.marginStart (s : State) (n : Nat) : State :=
  if s.laneState n = 3 ∧ s.auditEye = false ∧ (s.lane n).checks ≤ s.checkWindow n ∧ s.f (Reg.LX_EYE_STATUS_HW_ACTIVE n) = 0 then
    let s := s.updLane n (fun l => { l with checks := s.checkWindow n + 1 })
    if s.flag (Reg.LX_EYE_CTRL_SW_OWN n) then s.bump (Reg.LX_EYE_STATUS_SKIPPED n)
    else (s.setB (Reg.LX_EYE_STATUS_HW_ACTIVE n) true).setB (Reg.LX_EYE_STATUS_BUSY n) true
  else s
def execMarginCheckStart (n : LaneId) (s : State) : Out := .next (s.marginStart n.val)

/-- The grade after a check (R89). -/
def State.gradeOf (s : State) (n : Nat) (m : Margins) : Nat :=
  let l := s.lane n
  if !laneLive (s.laneState n) then 4
  else if l.retrainReq || !s.marginsMeet n 1 m then (if 3 ≤ l.poorSlots + b2n l.poorNow then 3 else 2)
  else if s.marginsMeet n 2 m ∧ l.bipSince = 0 then 0
  else 1

/-- MARGIN_CHECK_COMPLETE (R87, R89 to R91, R270): LX_MARGIN is written and the lane graded; POOR schedules a
retraining. `poorNow` says that a retraining slot has ended since the last check. -/
def State.marginComplete (s : State) (n : Nat) (m : Margins) : State :=
  if s.flag (Reg.LX_EYE_STATUS_HW_ACTIVE n) && !(s.lane n).yielded then
    let s := (s.setB (Reg.LX_EYE_STATUS_HW_ACTIVE n) false).setB (Reg.LX_EYE_STATUS_BUSY n) false
    let s := ((s.setF (Reg.LX_MARGIN_H_LEFT n) m.hLeft.toNat).setF (Reg.LX_MARGIN_H_RIGHT n) m.hRight.toNat)
    let s := ((s.setF (Reg.LX_MARGIN_V_UP n) m.vUp.toNat).setF (Reg.LX_MARGIN_V_DOWN n) m.vDown.toNat)
    let g := s.gradeOf n m
    let poor := g == 2 || g == 3
    let s := (s.setGrade n g m).updLane n (fun l => { l with
      retrainReq := false, bipSince := 0,
      poorSlots := if poor then l.poorSlots + b2n l.poorNow else 0, poorNow := false })
    let t := s.trunkOf n
    let s := s.pathMarginUpdate t
    if poor then s.poorLane t else s
  else s
def execMarginCheckComplete (n : LaneId) (m : Margins) (s : State) : Out := .next (s.marginComplete n.val m)

/-- TWILL_RETRAIN_TIMEOUT (R91): once 360 ms have passed without every lane UP. -/
def execTwillRetrainTimeout (t : Trunk) (s : State) : Out :=
  .next (if s.since (s.trunk t.val).twillAt 9000000 ∧ s.trunkUp t.val = false then s.failTwill t.val else s)

/-- A lane enters RETRAINING: it adapts (R86), and its RETRAIN blocks carry its first request. -/
def State.enterRetraining (s : State) (n : Nat) : State :=
  let s := ((s.setLane n Ls.retraining).setB (Reg.LX_LANE_STATUS_ADAPT_FROZEN n) false).bump (Reg.LX_RETRAIN_COUNT_RETRAINS n)
  let s := (s.updLane n (fun l => { l with stepAt := none, rxReadySent := false, farFull := false })).placeRequest n 0
  s.emit (.retrain n (s.retrainBlock n))

/-- RETRAIN_SLOT_START (R90): at the mark of F the lanes that were POOR when the slot was fixed enter RETRAINING; in a slot that a hub has asked
for every lane does, since no rule names the lanes (DESIGN CHOICE, log entry 45). A slot whose F finds the trunk not UP is dropped. -/
def State.slotStart (s : State) (t : Nat) : State :=
  match (s.trunk t).slot with
  | some f =>
    if (s.trunk t).slotOn ∨ s.mfN < f then s
    else if s.mfN = f ∧ s.trunkUp t then
      let s := s.updTrunk t (fun r => { r with slotOn := true })
      let s := { s with ts := { s.ts with retrainHeld := s.ts.retrainHeld.filter (· / 2 ^ 40 != t) } }
      ((s.lanesOf t).filter (fun n => (s.trunk t).slotLanes.contains n || (s.trunk t).slotReq)).foldl (fun s n => s.enterRetraining n) s
    else s.updTrunk t (fun r => { r with slot := none, slotReq := false, slotLanes := [] })
  | none => s
def execRetrainSlotStart (t : Trunk) (s : State) : Out := .next (s.slotStart t.val)

/-- RETRAIN_SLOT_END (R90): at the mark of F + 2 the lanes return to UP with their taps. -/
def State.slotEnd (s : State) (t : Nat) : State :=
  match (s.trunk t).slot with
  | some f =>
    if (s.trunk t).slotOn ∧ f + 2 ≤ s.mfN then
      let s := s.updTrunk t (fun r => { r with slot := none, slotOn := false, slotReq := false, slotLanes := [] })
      (s.lanesOf t).foldl (fun s n =>
        if s.laneState n = 4 then (s.setLane n Ls.up).updLane n (fun l => { l with poorNow := true, request := 0 })
        else s) s
    else s
  | none => s
def execRetrainSlotEnd (t : Trunk) (s : State) : Out := .next (s.slotEnd t.val)

/-- RETRAIN_BLOCK_RECEIVED (R92): tap requests and status while a slot is on; SLOT_REQ of the hub fixes a slot. -/
def State.retrainReceived (s : State) (n : Nat) (raw : BitVec 64) : State :=
  if rawGood 0x5A raw ∧ laneLive (s.laneState n) then
    let b := leBytes 8 raw.toNat
    let t := s.trunkOf n
    let s := if nbit (field b 4 1) 0 ∧ (s.trunk t).slotOn = false then
        (s.fixSlot t).updTrunk t (fun r => { r with slotReq := true })
      else s
    if (s.trunk t).slotOn then
      let req := field b 1 1
      -- at most one step every 4 µs: a request that comes too soon is held (R90)
      let soon : Bool := match (s.lane n).stepAt with | some x => decide (s.now < x + 100) | none => false
      let fresh : Bool := req != 0 && statusByte (s.lane n) % 64 == 0
      let s := if fresh && soon then s
        else (s.applyRequest n req).when fresh (fun s => s.updLane n (fun l => { l with stepAt := some s.now }))
      let s := s.placeRequest n (field b 2 1)
      s.emit (.retrain n (s.retrainBlock n))
    else s
  else s
def execRetrainBlockReceived (n : LaneId) (raw : BitVec 64) (s : State) : Out := .next (s.retrainReceived n.val raw)

/-- EYE_SW_OWN (R88): software takes the sampler; a running check finishes its point and yields. It was no skipped check. -/
def State.eyeOwn (s : State) (n : Nat) : State :=
  let s := s.setB (Reg.LX_EYE_CTRL_SW_OWN n) true
  if s.flag (Reg.LX_EYE_STATUS_HW_ACTIVE n) then s.updLane n (fun l => { l with yielded := true }) else s
def execEyeSwOwn (n : LaneId) (s : State) : Out := .next (s.pfWrite (Reg.LX_EYE_CTRL n.val) (fun s => s.eyeOwn n.val))

/-- EYE_SCAN_START (R88): LX_EYE_CTRL takes its fields, and START scans one point while software owns the sampler, behind the point that a
yielding check finishes. -/
def State.eyeStart (s : State) (n : Nat) (v : Word) : State :=
  let s := s.writeReg (Reg.LX_EYE_CTRL n) v
  let s := if bits v 0 1 = 1 then s.eyeOwn n else s
  if bits v 1 1 = 1 ∧ s.flag (Reg.LX_EYE_CTRL_SW_OWN n) then
    if s.flag (Reg.LX_EYE_STATUS_HW_ACTIVE n) then s.updLane n (fun l => { l with scanWaits := true })
    else if s.f (Reg.LX_EYE_STATUS_BUSY n) = 0 then s.setB (Reg.LX_EYE_STATUS_BUSY n) true
    else s
  else s
def execEyeScanStart (n : LaneId) (v : Word) (s : State) : Out :=
  .next (s.pfWrite (Reg.LX_EYE_CTRL n.val) (fun s => s.eyeStart n.val (putBits v 1 1 1)))

/-- EYE_POINT_DONE (R88): a check that yields gives the sampler up; a point of software writes LX_EYE_COUNT and sets DONE. -/
def State.eyePoint (s : State) (n : Nat) (count : Word) : State :=
  if !s.flag (Reg.LX_EYE_STATUS_BUSY n) then s
  else if s.flag (Reg.LX_EYE_STATUS_HW_ACTIVE n) then
    if (s.lane n).yielded then
      ((s.setB (Reg.LX_EYE_STATUS_HW_ACTIVE n) false).setB (Reg.LX_EYE_STATUS_BUSY n) (s.lane n).scanWaits).updLane n
        (fun l => { l with yielded := false, scanWaits := false })
    else s
  else ((s.setReg (Reg.LX_EYE_COUNT n) count).setB (Reg.LX_EYE_STATUS_BUSY n) false).setB (Reg.LX_EYE_STATUS_DONE n) true
def execEyePointDone (n : LaneId) (count : Word) (s : State) : Out := .next (s.eyePoint n.val count)

/-- LPI_KEEPALIVE_WAKE (R78, R93): the lanes in LPI turn on 10 µs before the mark of every eighth microframe, and send IDLE for 2 µs and a
MARKER. -/
def State.keepalive (s : State) (t : Nat) : State :=
  let l := (s.lanesOf t).filter (fun n => s.laneState n == 5)
  if l.isEmpty ∨ s.mfN % 8 ≠ 7 then s else (s.advanceTo (Config.mfTicks - 250)).lanesOn t l
def execLpiKeepaliveWake (t : Trunk) (s : State) : Out := .next (s.keepalive t.val)

/-- An injection of `bits` inverted bits on a lane in TEST whose generator runs (R94, R95). The longest takes 5.12 ns, less than a tick, so one
that comes in the tick of another is taken to meet it in progress, and is ignored. -/
def State.inject (s : State) (n bits : Nat) : State :=
  if s.laneState n = 6 ∧ s.flag (Reg.LX_PRBS_CTRL_GEN_EN n) ∧ (s.lane n).injectAt ≠ some s.now then
    (s.emit (.inject n bits)).updLane n (fun l => { l with injectAt := some s.now })
  else s
/-- BURST_LEN + 1 bits. -/
def State.burstBits (s : State) (n : Nat) : Nat := s.f (Reg.LX_PRBS_CTRL_BURST_LEN n) + 1
def execPrbsInjectSingle (n : LaneId) (s : State) : Out :=
  .next (s.pfWrite (Reg.LX_PRBS_CTRL n.val) (fun s => s.inject n.val 1))
/-- LX_PRBS_CTRL takes its fields (R94): a checker that is off is not locked. -/
def State.prbsCtrl (s : State) (n : Nat) (v : Word) : State :=
  let s := s.writeReg (Reg.LX_PRBS_CTRL n) v
  if s.flag (Reg.LX_PRBS_CTRL_CHK_EN n) then s else s.setB (Reg.LX_PRBS_STATUS_LOCKED n) false
def State.injectBurst (s : State) (n : Nat) (v : Word) : State :=
  let s := s.prbsCtrl n v
  s.inject n (s.burstBits n)
def execPrbsInjectBurst (n : LaneId) (v : Word) (s : State) : Out :=
  .next (s.pfWrite (Reg.LX_PRBS_CTRL n.val) (fun s => s.injectBurst n.val v))

/-- The checker of a spare lane has locked in the audit's PRBS part (R266). -/
def State.auditLock (s : State) (n : Nat) : State :=
  { s with sv := { s.sv with audit := s.sv.audit.map (fun a =>
    if a.running && a.left.head? == some 2 then { a with lanes := Tbl.upd (fun _ => AuditLane.zero) a.lanes n (fun l => { l with locked := true }) }
    else a) } }

/-- PRBS_LOCK (R94): the checker locks after 64 error-free bits. -/
def execPrbsLock (n : LaneId) (s : State) : Out :=
  .next (if s.laneState n.val = 6 ∧ s.flag (Reg.LX_PRBS_CTRL_CHK_EN n.val) then
    (s.setB (Reg.LX_PRBS_STATUS_LOCKED n.val) true).auditLock n.val else s)

/-- Mismatched bits that the checker of a locked lane has met are counted (R94). -/
def State.prbsErrors (s : State) (n errors : Nat) : State :=
  if s.laneState n = 6 ∧ s.flag (Reg.LX_PRBS_STATUS_LOCKED n) then s.bump (Reg.LX_PRBS_ERRORS_COUNT n) errors else s

/-- PRBS_LOCK_LOST (R94): every mismatched bit that is not counted yet is, 64 of them at the least; LOST is set and the checker relocks. -/
def State.lockLost (s : State) (n errors : Nat) : State :=
  if s.laneState n = 6 ∧ s.flag (Reg.LX_PRBS_STATUS_LOCKED n) then
    ((s.bump (Reg.LX_PRBS_ERRORS_COUNT n) (max 64 errors)).setB (Reg.LX_PRBS_STATUS_LOST n) true).setB (Reg.LX_PRBS_STATUS_LOCKED n) false
  else s
def execPrbsLockLost (n : LockLoss) (s : State) : Out := .next (s.lockLost n.lane.val n.errors.toNat)

/-- CORRUPT_PACKET_RECEIVED (R38, R112, R436, R506): discarded and counted at the port; a CRC failure counts in LNK_RX_CRC, and a parity error of
the receive buffer besides. With delineation lost no packet is found (R76). -/
def State.corruptPacket (s : State) (t : Nat) (c : Discard) : State :=
  if !s.portExists t || (s.trunk t).delinLost then s
  else match c with
    | .kind => s.updPort t (fun r => { r with discards := min (r.discards + 1) 65535 })
    | .crc => s.discardCrc t
    | .parity => (s.discardCrc t).bump (Reg.LNK_PARITY_RX t)
def execCorruptPacketReceived (t : CrcFail) (s : State) : Out := .next (s.corruptPacket t.trunk.val t.cause)

end Sys2Proof.Machine
end

