-- ==== Sys2Proof/Machine/AuditOps.lean ====
section
/-! DEFINITION. Supervision events and classification (R252 to R261), and the night audit's record, its path swaps and its end
(R262 to R269). -/

namespace Sys2Proof.Machine

/-! ## Supervision events (R260) -/

/-- EVENT codes of the SV. -/
def Sve.state : Nat := 1
def Sve.learned : Nat := 2
def Sve.pilotStart : Nat := 3
def Sve.pilotStop : Nat := 4

/-- Two's complement in `n` bits. -/
def twos (n : Nat) (x : Int) : Nat := (x % (2 ^ n : Nat)).toNat

/-- The dwords of a supervision event: code, line, states, and the figures compared. -/
def State.svDws (s : State) (code l new old : Nat) (dev : Int) (age g ref : Nat) : List Word :=
  [BitVec.ofNat 32 (0xFFFF * 2 ^ 16), BitVec.ofNat 32 (0xFFFE + code * 2 ^ 16), BitVec.ofNat 32 s.mfN,
   BitVec.ofNat 32 (s.mfN / 2 ^ 32), BitVec.ofNat 32 (l + new * 2 ^ 16 + old * 2 ^ 20),
   BitVec.ofNat 32 (twos 16 dev + min age 65535 * 2 ^ 16), BitVec.ofNat 32 g, BitVec.ofNat 32 ref]

/-- EVENT_BACKLOG: events are held, or a line's state has not been reported. -/
def State.showSv (s : State) : State :=
  s.setB Reg.SV_STATUS_EVENT_BACKLOG (!s.sv.held.isEmpty || s.sv.lines.any (fun x => x.2.state != x.2.reported))

/-- The state of a line has been reported. -/
def State.reportedLine (s : State) (l code new : Nat) : State :=
  if code = Sve.state ∨ code = Sve.learned then s.setLine l { s.line l with reported := new } else s

/-- Write a supervision event, hold it, or merge it (R260); only the HOLDER or a SOLO device writes (R293). -/
def State.svEvent (s : State) (code l new old : Nat) (dev : Int) (age g ref : Nat) : State :=
  if s.flag Reg.SV_EVENT_CTRL_EN && !s.isPartner then
    let dws := s.svDws code l new old dev age g ref
    let now := if s.sv.held.isEmpty then s.postEvent (s.f Reg.SV_EVENT_CTRL_CQ) dws 3 else none
    match now with
    | some s => s.reportedLine l code new
    | none =>
      if s.sv.held.length < 1024 then
        (State.showSv { s with sv := { s.sv with held := s.sv.held ++ [⟨code, l, dws⟩] } }).reportedLine l code new
      else (s.bump Reg.SV_EVENTS_MERGED_COUNT).showSv
  else s.reportedLine l code new

/-- Reference in use of a line: REF of its node, or the learned one (R253). -/
def State.refOf (s : State) (l : Nat) : Nat :=
  match s.corr l with
  | some (_, _, c) => if c.ref = 0 then (s.line l).ref else c.ref
  | none => (s.line l).ref

/-- Write held events, then a STATE event for each line whose state differs from the one last reported (R260): only with SV_EVENT_CTRL.EN,
and not on a PARTNER (R261). -/
def State.drainSv (s : State) : Nat → State
  | 0 => s
  | n + 1 =>
    if !s.flag Reg.SV_EVENT_CTRL_EN || s.isPartner then s
    else match s.sv.held with
    | e :: r =>
      match s.postEvent (s.f Reg.SV_EVENT_CTRL_CQ) e.dws 3 with
      | some s => (State.showSv { s with sv := { s.sv with held := r } }).drainSv n
      | none => s
    | [] =>
      match s.sv.lines.find? (fun x => x.2.state != x.2.reported) with
      | none => s
      | some (l, r) =>
        match s.postEvent (s.f Reg.SV_EVENT_CTRL_CQ)
            (s.svDws Sve.state l r.state r.reported r.dev r.age r.g (s.refOf l)) 3 with
        | some s => (s.setLine l { r with reported := r.state }).drainSv n
        | none => s

/-! ## Classification (R254) -/

/-- The class by deviation; `none` has no reference to compare with. -/
def devClass (c : CorrParams) (dev : Option Int) : Nat :=
  match dev with
  | none => 2
  | some d =>
    if (orDefault c.shortThr 20000 : Int) ≤ d then 6
    else if (orDefault c.openThr 7500 : Int) ≤ -d then 5
    else if (orDefault c.lowThr 350 : Int) ≤ -d then 3
    else if (orDefault c.highThr 1000 : Int) ≤ d then 4
    else 2

/-- EARTH or NODE_FAULT by the bits of the present blocks. -/
def SenseCount.bitClass (k : SenseCount) : Option Nat :=
  if k.present ≠ 0 ∧ k.present ≤ 2 * k.earth then some 7
  else if k.present ≠ 0 ∧ k.present ≤ 2 * k.nodeFlt then some 8
  else none

/-- The class of a line from what a refresh or a pilot measurement has shown. -/
def lineClass (c : CorrParams) (k : SenseCount) (dev : Option Int) : Nat :=
  match k.bitClass with
  | some x => x
  | none => if dev.isSome ∧ 8 ≤ k.full then 6 else devClass c dev

/-- SV_FAULTED and SV_LINES follow the lines (R271). -/
def State.showLines (s : State) : State :=
  (s.setF Reg.SV_FAULTED_COUNT ((s.sv.lines.filter (fun x => decide (3 ≤ x.2.state ∧ x.2.state ≤ 9))).length)).setF
    Reg.SV_LINES_BOUND s.boundLines.length

/-- The Muslin slot that runs on a line is incomplete (R263). -/
def State.breakSlot (s : State) (l : Nat) : State :=
  { s with sv := { s.sv with audit := s.sv.audit.map (fun a =>
    if a.inSlot.any (fun x => x.1 == l) then { a with broken := l :: a.broken } else a) } }

/-- A line changes state, with its STATE event (R255). -/
def State.lineTo (s : State) (l new : Nat) (dev : Int) (g ref : Nat) : State :=
  let r := s.line l
  let s := s.when (new == 9) (fun s => s.breakSlot l)
  let s := s.setLine l { r with state := new, run := 0, prun := 0, backRun := 0, lostRun := 0 }
  s.svEvent Sve.state l new r.state dev r.age g ref

/-- A classified refresh counts towards a change of state (R255). -/
def State.confirmLine (s : State) (l cls need : Nat) (dev : Int) (g ref : Nat) : State :=
  let r := s.line l
  if cls = r.state then s.setLine l { r with run := 0 }
  else if need ≤ r.run + 1 then s.lineTo l cls dev g ref
  else s.setLine l { r with run := r.run + 1 }

/-! ## Pilots (R258, R259) -/

/-- PILOT timers of a line are removed (R243). -/
def State.dropPilotTimers (s : State) (l : Nat) : State := s.dropTimers (fun t => t.kind == .pilot && t.owner == l)

/-- Pass up to which the live estimator stays frozen for a window that ends (R259). -/
def LineRec.frozenTo (r : LineRec) (ends : Option Nat) : Nat := match ends with | some e => max r.freeze (e + 8) | none => r.freeze

/-- A burst or a continuous pilot begins on a line. -/
def State.startPilot (s : State) (l start : Nat) (ends : Option Nat) : State :=
  let r := s.line l
  s.setLine l { r with pilot := some ⟨start, ends.isNone, ends⟩, pest := Estim.zero, pcnt := SenseCount.zero, freeze := r.frozenTo ends }

/-- The window of a Muslin slot begins on a line. -/
def State.startSweep (s : State) (l start : Nat) : State :=
  let r := s.line l
  s.setLine l { r with slot := some ⟨start, false, some (start + 4000)⟩, mest := Estim.zero, mcnt := SenseCount.zero, clipped := false
                       freeze := r.frozenTo (some (start + 4000)) }

/-- The result of a pilot measurement (R254, R259): class, DEV, figure and pilot reference. A LEARNING line has no reference, so its bits alone
classify it (R253). -/
structure PilotFigure where
  cls : Nat
  dev : Int
  g : Nat
  ref : Nat

/-- A pilot measurement of a line outside Muslin (R259): the first one is its pilot reference, each later one is classified against it. -/
def State.pilotFigure (s : State) (l : Nat) (c : CorrParams) : State × Option PilotFigure :=
  let r := s.line l
  let g := loadFigure r.pest
  if r.pref = 0 then (s.setLine l { r with pg := g, pref := g }, none)
  else
    let dev := deviation g r.pref
    let cls := if s.refOf l = 0 then r.pcnt.bitClass.getD 1 else lineClass c r.pcnt (some dev)
    (s.setLine l { r with pg := g }, some ⟨cls, dev, g, r.pref⟩)

/-- A burst has been measured (R258): two in a row that agree in differing from the line's state change it. A line in SENSE_LOST leaves it by its
refreshes alone (R256). -/
def State.pilotBurst (s : State) (l : Nat) (c : CorrParams) : State :=
  match s.pilotFigure l c with
  | (s, none) => s
  | (s, some m) =>
    let r := s.line l
    if r.state = 9 then s
    else if m.cls = r.state then s.setLine l { r with prun := 0 }
    else if 2 ≤ r.prun + 1 then s.lineTo l m.cls m.dev m.g m.ref
    else s.setLine l { r with prun := r.prun + 1 }

/-! ## Refreshes (R252 to R256, R258, R261) -/

/-- The refresh counts of a line start again, and those of a continuous pilot, which is measured refresh by refresh (R259). -/
def LineRec.clearRefresh (r : LineRec) : LineRec :=
  { r with passes := 0, missing := 0, applied := 0, cnt := SenseCount.zero
           pcnt := if r.pilot.any (·.cont) then SenseCount.zero else r.pcnt }

/-- A refresh that is not lost, on a line in SENSE_LOST (R256). -/
def State.leaveLost (s : State) (l cls need : Nat) (dev : Int) (g ref : Nat) : State :=
  let r := s.line l
  if need ≤ r.backRun + 1 then s.lineTo l cls dev g ref else s.setLine l { r with backRun := r.backRun + 1 }

/-- A classified refresh counts towards leaving SENSE_LOST, or towards another change of state (R255, R256). -/
def State.settleLine (s : State) (l cls need : Nat) (dev : Int) (g ref : Nat) : State :=
  if (s.line l).state = 9 then s.leaveLost l cls need dev g ref else s.confirmLine l cls need dev g ref

/-- The end of a refresh in SATIN for a line of priority 0 (R256, R261): the node's bits and sense presence decide. -/
def State.refreshSatin (s : State) (l : Nat) (c : CorrParams) : State :=
  let r := s.line l
  let cls := match r.cnt.bitClass with
    | some k => k
    | none => if r.state = 7 ∨ r.state = 8 ∨ r.state = 9 then (if s.refOf l = 0 then 1 else 2) else r.state
  s.settleLine l cls (orDefault c.confirm 5) r.dev r.g (s.refOf l)

/-- The figures of a refresh (R252): a quiet one leaves G and DEV and raises AGE. -/
def State.figures (s : State) (l : Nat) (quiet : Bool) : State :=
  let r := s.line l
  let ref := s.refOf l
  let g := loadFigure r.est
  s.setLine l (if quiet then { r with age := min 65535 (r.age + 1), learnRun := 0 }
    else { r with g := g, dev := if ref = 0 then 0 else deviation g ref, age := 0, learnRun := r.learnRun + b2n (ref == 0) })

/-- A LEARNING line takes its reference after CONVERGE refreshes in a row that are not quiet (R253), a lost one among them (DEDUCED, log entry 75). -/
def State.learnLine (s : State) (l : Nat) : State :=
  let r := s.line l
  if s.refOf l = 0 ∧ s.flag Reg.SV_CTRL_LEARN_EN = true ∧ r.state = 1 ∧ max 1 (s.f Reg.SV_NLMS_CONVERGE) ≤ r.learnRun then
    (s.setLine l { r with ref := r.g, state := 2, learnRun := 0, run := 0 }).svEvent Sve.learned l 2 1 r.dev r.age r.g r.g
  else s

/-- A continuous pilot measures this refresh of a line (R258). -/
def State.pilotRefresh (s : State) (l : Nat) : Bool := (s.line l).pilot.any (fun p => p.cont && decide (p.start < s.mfN))

/-- A refresh that is not lost is classified (R253 to R256): by its live figures; a quiet one by the bits of the sense blocks alone. -/
def State.refreshClass (s : State) (l : Nat) (c : CorrParams) (quiet : Bool) : State :=
  let r := s.line l
  let ref := s.refOf l
  let cls := if ref = 0 then r.cnt.bitClass.getD 1 else lineClass c r.cnt (some r.dev)
  if quiet ∧ r.cnt.bitClass.isNone ∧ r.state ≠ 9 then s else s.settleLine l cls (orDefault c.confirm 5) r.dev r.g ref

/-- A refresh under a continuous pilot is classified from the pilot measurement, in the same run (R255, R258); the first one gives the pilot
reference. -/
def State.refreshBy (s : State) (l : Nat) (c : CorrParams) (quiet : Bool) : State :=
  if s.pilotRefresh l then
    match s.pilotFigure l c with
    | (s, none) => s.refreshClass l c quiet
    | (s, some m) => s.settleLine l m.cls (orDefault c.confirm 5) m.dev m.g m.ref
  else s.refreshClass l c quiet

/-- A PILOT timer waits for the line. -/
def State.pilotTimed (s : State) (l : Nat) : Bool := s.gd.timers.any (fun t => t.kind == .pilot && t.owner == l)

/-- PILOT_START when AGE reaches HOLD, and PILOT_STOP when the programme is back (R258). `e` is the next refresh boundary, for which the PILOT
timer is placed; where no timer was free, a later refresh places it. -/
def State.refreshPilot (s : State) (l e prio : Nat) (quiet : Bool) : State :=
  let r := s.line l
  let ev (s : State) (code : Nat) : State := s.svEvent code l r.state r.state r.dev r.age r.g (s.refOf l)
  if quiet then
    let due := decide (max 1 (s.f Reg.SV_QUIET_HOLD) ≤ r.age)
    let s := if due && !r.pilotDue then ev (s.setLine l { r with pilotDue := true }) Sve.pilotStart else s
    if due && r.pilot.isNone && !s.pilotTimed l && s.svTimerFree then s.addTimer prio e .pilot l none 0 else s
  else if r.pilotDue ∧ (r.windows.all (fun p => p.cont || !p.covers s.mfN)) then
    let s := s.setLine l { r with
      pilotDue := false
      pilot := r.pilot.map (fun p => if p.cont then { p with ends := some e } else p)
      freeze := if r.pilot.any (·.cont) then r.frozenTo (some e) else r.freeze }
    ev (s.dropPilotTimers l) Sve.pilotStop
  else s

/-- Whether the refresh of a line was lost, and its run of those (R256). -/
def State.lostLine (s : State) (l : Nat) (lost : Bool) : State :=
  let r := s.line l
  if !lost then s.setLine l { r with lostRun := 0 }
  else
    let s := s.setLine l { r with lostRun := r.lostRun + 1, backRun := 0 }
    if 12 ≤ r.lostRun + 1 ∧ r.state ≠ 9 then s.lineTo l 9 r.dev r.g (s.refOf l) else s

/-- The end of a refresh on one line (R252 to R258, R261): a lost one is measured and not classified; a line held in SATIN starts its counts again. -/
def State.refreshLine (s : State) (l : Nat) : State :=
  match s.corr l with
  | none => s
  | some (_, nd, c) =>
    let r := s.line l
    let lost := decide (400 ≤ r.missing)
    let quiet := decide (r.applied < 80)
    let s :=
      if s.inSatin then
        if nd.prio ≠ 0 then s
        else
          let s := s.lostLine l lost
          if lost then s else s.refreshSatin l c
      else
        let s := ((s.figures l quiet).learnLine l).lostLine l lost
        let s := if lost then s else s.refreshBy l c quiet
        s.refreshPilot l (s.mfN + 800) nd.prio quiet
    s.setLine l (s.line l).clearRefresh

/-! ## Swaps (R261) -/

/-- A line at a swap of the image at M: unbound, bound anew, or continuing. -/
def State.svRebind (s : State) (l : Nat) (cont : Bool) : State :=
  match s.corr l with
  | none =>
    let r := s.line l
    if r.node.isNone then s
    else
      let s := ((s.setLine l { LineRec.zero with reported := r.reported }).dropPilotTimers l).breakSlot l
      s.svEvent Sve.state l 0 r.state r.dev r.age r.g 0
  | some (n, _, c) =>
    if cont ∧ (s.line l).node.isSome then s.setLine l { s.line l with node := some n }
    else
      let st := if c.ref = 0 then 1 else 2
      ((s.dropPilotTimers l).breakSlot l).setLine l { LineRec.zero with node := some n, state := st, reported := st }

/-! ## The audit record (R268) -/

def u16 (n : Nat) : List Byte := leBytes 2 (min n 65535)
def u32 (n : Nat) : List Byte := leBytes 4 (min n (2 ^ 32 - 1))
def u48 (n : Nat) : List Byte := leBytes 6 n

/-- A lane record. -/
def State.laneRecord (s : State) (a : Audit) (n : Nat) : List Byte :=
  let l := Tbl.get (fun _ => AuditLane.zero) a.lanes n
  leBytes 1 n ++ leBytes 1 l.kind ++ leBytes 1 (s.f (Reg.LX_LANE_STATUS_GRADE n)) ++
    leBytes 1 (if s.trunkOf n = n ∧ (s.twillPair n).isSome then s.marginNow n else 0) ++
    [BitVec.ofNat 8 l.m.hLeft.toNat, BitVec.ofNat 8 l.m.hRight.toNat, BitVec.ofNat 8 l.m.vUp.toNat,
     BitVec.ofNat 8 l.m.vDown.toNat] ++ u16 l.openPoints ++ u16 0 ++ u32 l.errors

/-- A Twill record. -/
def hubRecord (h : AuditHub) : List Byte :=
  u16 h.hub ++ leBytes 1 (h.res0 + 4 * h.res1) ++ leBytes 1 0 ++ u32 h.miss0 ++ u32 h.miss1 ++ leBytes 1 h.mar0 ++
    leBytes 1 h.mar1

/-- Hubs with a FAIL on either path. -/
def hubFails (l : List AuditHub) : Nat := (l.filter (fun h => h.res0 == 1 || h.res1 == 1)).length

/-- END_MF (R268): the part that still runs ends now; of an audit that has run no part the spec gives none, and it is a free value (log
entry 3). -/
def State.auditEnd (s : State) (a : Audit) : Nat :=
  if a.running then s.mfN else if a.begun then a.endMf else Config.freeChoice s.free % 2 ^ 48

/-- The record as written: header, lanes, and the hubs that fit. -/
def State.auditRecord (s : State) (a : Audit) (aborted : Bool) : List Byte :=
  let fit := a.hubs.take ((a.recLen - 3136) / 16)
  let cut := decide (fit.length < a.hubs.length)
  let n := 3136 + 16 * fit.length
  let head := u32 0x41554452 ++ u16 1 ++ leBytes 1 a.parts ++
    leBytes 1 (a.doneParts + 16 * b2n cut + 32 * b2n aborted) ++ u48 a.startMf ++ u16 0 ++ u48 (s.auditEnd a) ++ u16 0 ++
    u32 a.swept ++ u32 a.failed ++ u32 a.learned ++ u32 a.skipped ++ u16 a.scanned ++ u16 a.below ++ u16 a.spares ++
    u16 a.spareErr ++ u16 a.hubs.length ++ u16 (hubFails a.hubs) ++ u32 n ++ u32 0
  let body := (List.range 192).flatMap (s.laneRecord a) ++ fit.flatMap hubRecord
  head ++ leBytes 4 (crc32 (head ++ [0, 0, 0, 0] ++ body)) ++ body

/-! ## Parts and the end of an audit (R262, R269) -/

/-- Change the audit; SV_STATUS follows. -/
def State.setAudit (s : State) (a : Option Audit) : State :=
  let s := { s with sv := { s.sv with audit := a } }
  let s := s.setB Reg.SV_STATUS_AUDIT_ACTIVE a.isSome
  match a with
  | some a => s.setF Reg.SV_STATUS_AUDIT_PART (a.left.headD 0)
  | none => s

/-- The HOLDER or a SOLO device writes to a buffer of the audit. -/
def State.auditWrite (s : State) (a : Audit) (addr : Nat) (b : List Byte) : State :=
  if s.isPartner then s else s.sendHost (.write a.fn addr b)

/-- The audit's entry ends with its record. -/
def State.closeAudit (s : State) (a : Audit) (status : Nat) : State :=
  let m := s.auditEnd a
  let s := s.auditWrite a a.recAddr (s.auditRecord a (status != 0))
  let s := (s.setAudit none).fresh
  match a.ref with
  | some r => s.completeRefM r status 0 (BitVec.ofNat 32 m) (BitVec.ofNat 32 (m / 2 ^ 32)) (BitVec.ofNat 32 a.failed)
      (BitVec.ofNat 32 (hubFails a.hubs))
  | none => s

/-- The part in progress ends; after the last requested part the audit does. -/
def State.endPart (s : State) (a : Audit) : State :=
  let a := { a with left := a.left.tail, running := false, endMf := s.mfN, doneParts := setBit a.doneParts (a.left.headD 0) true }
  if a.left.isEmpty then s.closeAudit a St.ok else s.setAudit (some a)

/-- Spare lanes under test (R266). -/
def State.sparesOn (s : State) (a : Audit) : List Nat :=
  (List.range 192).filter (fun n => (Tbl.get (fun _ => AuditLane.zero) a.lanes n).kind / 2 % 2 == 1 && s.laneState n == 6
    && s.f (Reg.LX_LANE_CTRL_EN n) == 0)

/-- A spare lane's test ends: its record, and the lane is DISABLED. -/
def State.endSpare (s : State) (n : Nat) : State :=
  ((s.setB (Reg.LX_PRBS_CTRL_GEN_EN n) false).setB (Reg.LX_PRBS_CTRL_CHK_EN n) false).quietLane n

/-- The audit stops (R269): Muslin's pilots ramp out over the next 8 passes, no path runs alone from the next mark, spare lanes are
DISABLED. -/
def State.stopAudit (s : State) (a : Audit) : State :=
  let s := (s.sparesOn a).foldl (fun s n => s.endSpare n) s
  let s := a.inSlot.foldl (fun s x => match (s.line x.1).slot with
    | some p => if s.mfN + 8 < p.ends.getD 0 then
        let burst := match (s.line x.1).pilot.bind (·.ends) with | some e => e + 8 | none => 0
        s.setLine x.1 { s.line x.1 with slot := some { p with ends := some (s.mfN + 8) }, freeze := max (s.mfN + 16) burst } else s
    | none => s) s
  let s : State := match a.hub, a.alone with
    | some h, some side => { s with sv := { s.sv with resting := some (h.hub, side, a.rejoin.getD (s.mfN + 1)) } }
    | _, _ => s
  s.dropTimers (fun t => t.kind == .sweepSlot)

/-- An audit ends early by AUDIT_START with PARTS 0 or by the entry to SATIN (R269). -/
def State.abortAudit (s : State) : State :=
  match s.sv.audit with
  | none => s
  | some a => (s.stopAudit a).closeAudit a St.aborted

/-- The holder role changes hands (R269): at this mark the plan ends without a record, and both paths carry every subtree. -/
def State.dropAudit (s : State) : State :=
  match s.sv.audit with
  | none => s
  | some a =>
    let s := (s.stopAudit a).setAudit none
    let s : State := { s with sv := { s.sv with resting := none } }
    match a.ref with
    | some r => s.completeRefM r St.takenOver
    | none => s

/-! ## Path swaps (R267) -/

/-- The path on side `i` of a hub. -/
def hubPath (d : DevRec) (i : Nat) : Option TreePath := if i = 0 then some d.path0 else d.path1

/-- Side `i` may run alone: its trunk's lanes grade GOOD or FAIR, and every port on it is ENABLED. -/
def State.pathHealthy (s : State) (d : DevRec) (i : Nat) : Bool :=
  match hubPath d i with
  | none => false
  | some p => s.pathLive p && (s.lanesOf p.root).all (fun n => decide (s.f (Reg.LX_LANE_STATUS_GRADE n) ≤ 1))

/-- Device `a` is the hub under test or lies below it. -/
def State.inSubtree (s : State) (h a : Nat) : Bool :=
  a == h || (match s.dev a with
    | some d => d.path0.hops.any (fun x => x.1 == h)
    | none => false)

/-- While path `side` of hub `h` runs alone, trunk `t` is the resting path of device `a`. -/
def State.restsFor (s : State) (h side t a : Nat) : Bool :=
  s.inSubtree h a && (match (s.dev h).bind (fun d => hubPath d (1 - side)) with
    | some p => p.root == t
    | none => false)

/-- Trunk `t` is the resting path of device `a`'s subtree in this microframe: it carries no periodic token or OUT DATA for
it. After the early end of an audit it is so up to the next mark (R269). -/
def State.rests (s : State) (t a : Nat) : Bool :=
  (match s.sv.audit with
   | none => false
   | some x =>
     match x.hub, x.alone with
     | some h, some side => (match x.rejoin with | some m => decide (s.mfN < m) | none => true) && s.restsFor h.hub side t a
     | _, _ => false) ||
  (match s.sv.resting with
   | some (h, side, m) => decide (s.mfN < m) && s.restsFor h side t a
   | none => false)

/-- Periodic IN endpoints of the subtree of hub `h` in the committed schedule. -/
def State.subInputs (s : State) (h : Nat) : List Nat :=
  (s.ts.active.filter (fun x => decide (x.1 < 0x100000 ∧ 8 ≤ x.1 % 16) && s.inSubtree h (x.1 / 16))).map (·.1)

/-- IN endpoints whose block of the pass is missing at the decision time. -/
def State.missingNow (s : State) : List Nat :=
  ((s.schedTbl (s.mfN - 1)).filter (fun x => decide (x.1 < 0x100000 ∧ 8 ≤ x.1 % 16) && (match s.inSched x.1 (s.mfN - 1) with
    | some (k, ph) => passDue s.mfN k ph && !s.halfHolds x.1 (s.mfN + 65535)
    | none => false))).map (·.1)

/-- The hub under test has its result (R267): the next one follows, or the part ends. -/
def State.closeHub (s : State) (a : Audit) (h : AuditHub) : State :=
  let a := { a with hub := none, phase := 0, alone := none, rejoin := none, hubs := a.hubs ++ [h] }
  if a.hubsLeft.isEmpty then s.endPart a else s.setAudit (some a)

/-- The inputs missing in microframe `u` of side `i`'s window count, while its path ran alone; more of them than the worst before the window is
a failure, and both paths carry the subtree from the second mark after that microframe (R267). -/
def judge (a : Audit) (h : AuditHub) (i u n : Nat) : Audit :=
  if a.rejoin.any (fun m => decide (m ≤ u)) then a
  else
    let h := if i = 0 then { h with miss0 := h.miss0 + n } else { h with miss1 := h.miss1 + n }
    if a.rejoin.isNone ∧ a.worst < n then
      { a with hub := some (if i = 0 then { h with res0 := 1 } else { h with res1 := 1 }), rejoin := some (u + 2) }
    else { a with hub := some h }

/-- The decision time of a pass for the audit (R267): it tells of the microframe before. The inputs missing are noted; the last of the 8
microframes before a window gives the worst count; a path that ran alone in the microframe is judged; after the second window the hub is done. -/
def State.auditDecision (s : State) : State :=
  let miss := s.missingNow
  let s := { s with sv := { s.sv with hist := (miss :: s.sv.hist).take 8 } }
  match s.sv.audit with
  | none => s
  | some a =>
    match a.hub with
    | none => s
    | some h =>
      let u := s.mfN - 1
      let count (l : List Nat) : Nat := (l.filter (fun x => s.inSubtree h.hub (x / 16))).length
      let within (f : Nat) : Bool := decide (f ≤ u ∧ u < f + 64)
      let a :=
        if u + 1 = a.f ∨ u + 1 = a.f + 72 then { a with worst := (s.sv.hist.map count).foldl max 0 }
        else if within a.f && h.res0 != 2 then judge a h 0 u (count miss)
        else if within (a.f + 72) && h.res1 != 2 then judge a h 1 u (count miss)
        else a
      if a.phase = 4 ∧ a.f + 135 ≤ u then s.closeHub a (a.hub.getD h) else s.setAudit (some a)

/-- A window of side `i` of the hub under test begins, or is skipped. -/
def State.beginAlone (s : State) (a : Audit) (h : AuditHub) (i : Nat) : Audit :=
  let ok := match s.dev h.hub with
    | some d => s.pathHealthy d i
    | none => false
  if ok then { a with hub := some h, alone := some i, rejoin := none }
  else { a with hub := some (if i = 0 then { h with res0 := 2 } else { h with res1 := 2 }), alone := none, rejoin := none }

end Sys2Proof.Machine
end

