-- ==== Sys2Proof/Machine/GrantOps.lean ====
section
/-! DEFINITION. What a function holds (R366, R379, R415 to R420): handles, groups, channels, vectors, DMA windows, and the
generators, taps and lines of its nodes. -/

namespace Sys2Proof.Machine

/-- `x` lies in one of the ranges (first, count). -/
def inRanges (l : List (Nat × Nat)) (x : Nat) : Bool := l.any (fun r => decide (r.1 ≤ x ∧ x < r.1 + r.2))

/-- Function `f` holds what `sel` selects: a VF by its grant, the PF everything that no VF holds (R415, R420). -/
def State.holds (s : State) (f : Nat) (sel : Grant → List (Nat × Nat)) (x : Nat) : Bool :=
  if f = 0 then !s.fn.grants.any (fun g => inRanges (sel g.2) x) else inRanges (sel (s.grant f)) x

def State.holdsHandle (s : State) (f h : Nat) : Bool := s.holds f (·.handles) h
def State.holdsGroup (s : State) (f g : Nat) : Bool := s.holds f (·.groups) g
def State.holdsChan (s : State) (f c : Nat) : Bool := s.holds f (·.chans) c

/-- Function `f` holds an endpoint of device `a` (R366). -/
def State.holdsDevice (s : State) (f a : Nat) : Bool :=
  if f = 0 then (List.range 16).any (fun i => s.holdsHandle 0 (a * 16 + i))
  else (s.grant f).handles.any (fun r => decide (r.1 / 16 ≤ a ∧ a * 16 < r.1 + r.2))

/-- A vector that a function may name: 2,048 of the PF, those of the mask for a VF (R326, R417). -/
def State.holdsVector (s : State) (f v : Nat) : Bool :=
  if f = 0 then decide (v < 2048) else decide (v < 64) && (s.grant f).vectors.getLsbD v

/-- Owner of a node as a function number matches: the PF may name everything (R366). -/
def ownedBy (f : Nat) (nd : Node) : Bool := f == 0 || nd.owner == f

/-- A node of the function names generator `g` (R366). -/
def State.ownsGen (s : State) (f g : Nat) : Bool :=
  f == 0 || s.nodes.any (fun x => ownedBy f x.2 && (match x.2.kind with | .gen h => h == g | _ => false))

/-- A node of the function names tap `t` (R366). -/
def State.ownsTap (s : State) (f t : Nat) : Bool :=
  f == 0 || s.nodes.any (fun x => ownedBy f x.2 && (match x.2.kind with | .tap u => u == t | _ => false))

/-- The windows of a function (R379). -/
def State.windowsOf (s : State) (f : Nat) : List DmaWin :=
  (s.bm.windows.filter (fun x => x.1 / 64 == f)).filterMap (·.2)

/-- [a, a + n) lies wholly within one window that has the permission (R379). -/
def insideWindows (l : List DmaWin) (a n : Nat) (write : Bool) : Bool :=
  l.any (fun w => decide (w.base ≤ a ∧ a + n ≤ w.base + w.len) && (if write then w.write else w.read))

/-- A host range of a function passes the windows check (R356, R379). -/
def State.dmaOk (s : State) (f a n : Nat) (write : Bool) : Bool := insideWindows (s.windowsOf f) a n write

end Sys2Proof.Machine
end

