-- ==== Sys2Proof/Machine/Image.lean ====
section
/-! DEFINITION. Graph images (R214 to R222, R229): their header and patch records, what GRAPH_LOAD checks, and what a patch changes. -/

namespace Sys2Proof

/-! ## The layout of an image (R214) -/

/-- The 128-byte header (table Graph image header). -/
def ImageFile.header (img : ImageFile) : ImageHeader :=
  let w (i : Nat) : Nat := Machine.field img.bytes i 4
  let h (i : Nat) : Nat := Machine.field img.bytes i 2
  let b (i : Nat) : Nat := Machine.field img.bytes i 1
  { magic := BitVec.ofNat 32 (w 0), format := BitVec.ofNat 16 (h 4), typ := BitVec.ofNat 8 (b 6), graphId := BitVec.ofNat 32 (w 8)
    baseId := BitVec.ofNat 32 (w 12), imageBytes := w 16, nodes := w 20, zones := h 24, sources := h 26, taps := b 28, generators := h 30
    delaySamples := w 32, cycP0 := w 36, cycGeneral := w 40, stateBytes := w 44, ucodeMin := w 48, nodeOff := w 52, paramOff := w 56
    paramBytes := w 60, zoneOff := w 64, sourceOff := w 68, genOff := w 72, tapOff := w 76, crc := w 124 }

/-- The patch records of a PATCH, 16 bytes each from NODE_OFF (R214). -/
def ImageFile.patches (img : ImageFile) : List PatchRec :=
  img.kinds.zipIdx.map (fun x =>
    let o := img.header.nodeOff + 16 * x.2
    { node := Machine.field img.bytes o 4, firstWord := Machine.field img.bytes (o + 4) 2, count := Machine.field img.bytes (o + 6) 2
      dataOff := Machine.field img.bytes (o + 8) 4, kind := x.1 })

/-- The CRC-32 over the whole image, with the four bytes of CRC taken as 0, is the header's (R214). -/
def ImageFile.crcGood (img : ImageFile) : Bool :=
  Machine.crc32 (img.bytes.take 124 ++ [0, 0, 0, 0] ++ img.bytes.drop 128) == img.header.crc

/-- A table from `off` with `n` records of `size` bytes or more lies inside IMAGE_BYTES. -/
def ImageHeader.holds (h : ImageHeader) (off n size : Nat) : Bool := n == 0 || decide (off + n * size ≤ h.imageBytes)

/-- The header's own fields (R214, R215): GRAPH_ID is not 0, the image is as long as it says and as the entry says, `len`, and its length is a
multiple of 64 up to 6 MiB; no table lies outside it. The records of a FULL image have Nysozil's sizes, so of a table no more than its first
byte is placed here and `recordsInside` says the rest. The spec lists a wrong MAGIC, FORMAT or TYPE and a wrong length as MALFORMED and is
silent on a GRAPH_ID, NODES, BASE_ID or IMAGE_BYTES that the table rules out. DESIGN CHOICE (log entry 48): they are MALFORMED too. -/
def ImageFile.layoutOk (img : ImageFile) (len : Nat) : Bool :=
  let h := img.header
  h.graphId != 0 && h.imageBytes == len && img.bytes.length == len && decide (128 ≤ len ∧ len ≤ 6291456 ∧ len % 64 = 0) &&
  img.recordsInside && decide (h.paramOff + h.paramBytes ≤ len) && h.holds h.nodeOff h.nodes (if h.typ = 1 then 16 else 1) &&
  h.holds h.zoneOff h.zones 1 && h.holds h.sourceOff h.sources 1 && h.holds h.genOff h.generators 1 && h.holds h.tapOff h.taps 1 &&
  img.patches.all (fun p => h.holds p.dataOff p.count 4) && (h.typ == 1 || (decide (1 ≤ h.nodes) && h.baseId == 0))

end Sys2Proof

namespace Sys2Proof.Machine

/-! ## Ranges of parameters (R191 to R210, R248) -/

def inQ (lo hi x : Int) : Bool := decide (lo ≤ x ∧ x ≤ hi)
/-- A signed 32-bit value. -/
def s32 (x : Int) : Bool := inQ (-2147483648) 2147483647 x
/-- An unsigned use of Q2.30. -/
def u30 (x : Int) : Bool := inQ 0 2147483647 x
def byteRange (x : Nat) : Bool := decide (1 ≤ x ∧ x ≤ 255)

def mixInOk (m : MixIn) : Bool :=
  s32 m.gain && decide (m.prio ≤ 7) && u30 m.thresh && decide (m.hold ≤ 255) && decide (m.ovrLevel ≤ 7)

def thrOk (v : Nat) : Bool := decide (v ≤ 32767)

def corrOk (c : CorrParams) : Bool :=
  decide (c.line ≤ 65535) && decide (c.lag ≤ 4095) && decide (c.ref < 4294967296) && thrOk c.lowThr && thrOk c.openThr &&
  thrOk c.highThr && thrOk c.shortThr && decide (c.confirm ≤ 7) &&
  (c.fltByte == 0xFF || (decide (c.fltByte ≤ 191) && decide (c.fltBit ≤ 6))) && decide (c.muslinByte ≤ 191) &&
  decide (c.muslinBit ≤ 7) && decide (c.pilotMode ≤ 1)

/-- Every parameter of a node lies in its range, and the node has the inputs of its kind. `n` is the number of inputs. -/
def kindOk (k : NodeKind) (n : Nat) : Bool :=
  match k with
  | .source _ o _ fb fbit hold hm => n == 0 && decide (o ≤ 189) && decide (fb ≤ 255) && decide (fbit ≤ 7)
      && decide (hm ≤ 255) && (!hold || decide (1 ≤ hm))
  | .gen g => n == 0 && decide (g ≤ 255)
  | .mix ins d a r => decide (1 ≤ n ∧ n ≤ 16) && ins.length == n && ins.all mixInOk && u30 d && byteRange a && byteRange r
  | .route ins x => decide (1 ≤ n ∧ n ≤ 16) && ins.length == n && ins.all mixInOk && byteRange x
  | .gain g _ r => n == 1 && s32 g && byteRange r
  | .eq q => n == 1 && decide (1 ≤ q.length ∧ q.length ≤ 12)
      && q.all (fun b => s32 b.b0 && s32 b.b1 && s32 b.b2 && s32 b.a1 && s32 b.a2)
  | .delay b l d => n == 1 && b % 64 == 0 && l % 64 == 0 && decide (0 < l) && decide (d + 6 ≤ l)
      && decide (b + 3 * l ≤ 16777216)
  | .limit c k => n == 1 && inQ 0 1073741824 c && s32 k
  | .meter w => n == 1 && decide (w ≤ 12)
  | .sink _ cs _ sb => decide (1 ≤ n ∧ n ≤ 10) && cs.length == n && decide (sb.length ≤ 12)
      && cs.all (fun c => c.zone.all (fun z => decide (z ≤ 16383))
        && c.line.all (fun l => decide (l ≤ 65534)))
  | .tap t => decide (1 ≤ n ∧ n ≤ 8) && decide (t ≤ 63)
  | .correlate c => n == 1 && corrOk c

/-- KIND of a node (table Node kinds). -/
def kindCode : NodeKind → Nat
  | .source .. => 1
  | .gen _ => 2
  | .mix .. => 3
  | .route .. => 4
  | .gain .. => 5
  | .eq _ => 6
  | .delay .. => 7
  | .limit .. => 8
  | .meter _ => 9
  | .sink .. => 10
  | .tap _ => 11
  | .correlate _ => 12

/-- Parameters of a generator. -/
def genOk (g : Nat × GenMode) : Bool :=
  decide (g.1 ≤ 255) && (match g.2 with
    | .clip => true
    | .tone t => u30 t.level && !(t.wave == .sweep && t.sweepMf == 0))

/-! ## Shape of a graph (R190, R215) -/

/-- One round of settling nodes whose inputs are all settled. -/
def settleNodes (nodes : List Node) (done : List Nat) : List Nat :=
  (nodes.zipIdx.filter (fun x => done.contains x.2 || x.1.inputs.all (done.contains ·))).map (·.2)

/-- Settle until nothing changes, in at most as many rounds as there are nodes. -/
def settleRounds (nodes : List Node) (done : List Nat) : Nat → List Nat
  | 0 => done
  | n + 1 =>
    let d := settleNodes nodes done
    if d.length = done.length then done else settleRounds nodes d n

/-- The graph has no cycle. -/
def acyclic (nodes : List Node) : Bool := (settleRounds nodes [] nodes.length).length == nodes.length

/-- Two ranges (first, length) overlap. -/
def overlap (a b : Nat × Nat) : Bool := decide (a.1 < b.1 + b.2 ∧ b.1 < a.1 + a.2)

/-- No two of the ranges overlap. -/
def disjoint : List (Nat × Nat) → Bool
  | [] => true
  | a :: l => l.all (fun b => !overlap a b) && disjoint l

/-- No element stands twice. -/
def noRepeat : List Nat → Bool
  | [] => true
  | a :: l => !l.contains a && noRepeat l

/-- Every node, generator, tap and line that a node names is there (R215). -/
def refsOk (img : ImageFile) (nd : Node) : Bool :=
  nd.inputs.all (fun m => match img.nodes[m]? with | some x => hasOutput x.kind | none => false) &&
  (match nd.kind with
   | .gen g => (match img.gens.find? (fun x => x.1 == g) with
     | some (_, .tone t) => (match t.trigger with
       | some n => (match img.nodes[n]? with | some x => kindCode x.kind == 1 | none => false)
       | none => true)
     | some (_, .clip) => true
     | none => false)
   | .correlate c => (match img.nodes[c.sinkNode]? with
     | some x => (match x.kind with | .sink _ cs _ _ => decide (c.channel < cs.length) | _ => false)
     | none => false)
   | .sink _ cs _ _ => cs.all (fun c => match c.line with
     | some l => img.nodes.any (fun x => (corrOf x).any (fun q => q.line == l))
     | none => true)
   | .tap t => img.taps.contains t
   | _ => true)

/-- Directions of the handles of a SOURCE or SINK, and the numbers of cascade endpoints (R215, R307). -/
def epOk (nd : Node) : Bool :=
  let cas (e : BitVec 3) : Bool := e != 0
  match nd.kind with
  | .source ep .. => (match ep with
    | .handle h => nbit h.toNat 3
    | .cascade _ e => cas e
    | .group _ => false)
  | .sink ep .. => (match ep with
    | .handle h => !nbit h.toNat 3
    | .cascade _ e => cas e
    | .group _ => true)
  | _ => true

/-- LENGTH in the committed schedule bounds the bits a CORRELATE names (R248). -/
def State.corrBytesOk (s : State) (img : ImageFile) (nd : Node) : Bool :=
  match nd.kind with
  | .correlate c =>
    (match img.nodes[c.sinkNode]? with
     | some x => (match x.kind with
       | .sink ep .. => (match s.sinkLen ep s.mfN with | some n => decide (c.muslinByte < n) | none => true)
       | _ => true)
     | none => true) &&
    (c.fltByte == 0xFF ||
      (match (nd.inputs.head?).bind (fun n => img.nodes[n]?) with
       | some x => (match x.kind with
         | .source ep .. => (match s.sinkLen ep s.mfN with | some n => decide (c.fltByte < n) | none => true)
         | _ => true)
       | none => true))
  | _ => true

/-- FLOW, ORDER and HOME of the nodes (R229). -/
def placeOk (nodes : List Node) : Bool :=
  nodes.all (fun n => hasOutput n.kind || n.flow != 0xFFFF) &&
  noRepeat ((nodes.filter (fun n => n.flow != 0xFFFF)).map (fun n => n.flow * 16777216 + n.order)) &&
  nodes.all (fun n => n.prio == 0 || decide (n.home < 56))

/-- Sum of CYC. -/
def cycSum (p0 : Bool) (nodes : List Node) : Nat :=
  (nodes.filter (fun n => (n.prio == 0) == p0)).foldl (fun a n => a + n.cyc) 0

/-- What R215 asks of the nodes of an image, a FULL one or one as a patch leaves it: references, lines bound once, delay lines and state regions apart,
endpoint directions, and parameters in range. -/
def nodesOk (img : ImageFile) : Bool :=
  img.nodes.all (refsOk img) && noRepeat ((img.nodes.filterMap corrOf).map (·.line)) &&
  disjoint (img.nodes.filterMap (fun n => match n.kind with | .delay b l _ => some (b, 3 * l) | _ => none)) &&
  disjoint ((img.nodes.filter (fun n => n.stateSize != 0)).map (fun n => (n.stateOff, n.stateSize))) &&
  img.nodes.all epOk && img.nodes.all (fun n => decide (n.prio ≤ 7) && kindOk n.kind n.inputs.length)

/-- What R215, R229 and R248 ask of a FULL image of `len` bytes. -/
def State.fullOk (s : State) (img : ImageFile) (len : Nat) : Bool :=
  let h := img.header
  img.layoutOk len && h.nodes == img.nodes.length &&
  h.cycP0 == cycSum true img.nodes && h.cycGeneral == cycSum false img.nodes &&
  acyclic img.nodes && nodesOk img && img.gens.all genOk && img.nodes.all (s.corrBytesOk img) && placeOk img.nodes

/-! ## Patches -/

/-- A patch applied to an image. -/
def applyPatch (base : ImageFile) (img : ImageFile) : ImageFile :=
  img.patches.foldl (fun b p => { b with nodes := b.nodes.modify p.node (fun nd => { nd with kind := p.kind }) }) base

/-- A patch record names patchable words of a node of its KIND, and leaves a CORRELATE its line (R215, R248). -/
def patchRecOk (base : ImageFile) (p : PatchRec) : Bool :=
  match base.nodes[p.node]? with
  | none => false
  | some nd => (List.range p.count).all (fun i => nd.patchable.contains (p.firstWord + i)) && kindCode p.kind == kindCode nd.kind &&
      (match p.kind, nd.kind with | .correlate c, .correlate d => c.line == d.line | _, _ => true)

/-- What R215 and R248 ask of a PATCH of `len` bytes for the image `base`: its records, and the nodes as it leaves them. -/
def State.patchOk (s : State) (base : ImageFile) (img : ImageFile) (len : Nat) : Bool :=
  let h := img.header
  let after := applyPatch base img
  img.layoutOk len && h.nodes == img.patches.length && h.baseId == base.header.graphId && img.patches.all (patchRecOk base) &&
  nodesOk after && img.patches.all (fun p => (after.nodes[p.node]?).all (s.corrBytesOk after))

/-! ## Grants and admission (R218, R221, R222) -/

/-- Every handle and group that a node of a VF names lies in the VF's grant. -/
def State.nodeGranted (s : State) (nd : Node) (k : NodeKind) : Bool :=
  nd.owner == 0 || (match k with
    | .source (.handle h) .. => s.holdsHandle nd.owner h.toNat
    | .sink (.handle h) .. => s.holdsHandle nd.owner h.toNat
    | .sink (.group g) .. => s.holdsGroup nd.owner g.toNat
    | _ => true)

/-- Cycles per pass of one GPE at an operating point; 3 acts as 2. -/
def gpeCycles : Nat → Nat
  | 0 => 195312
  | 1 => 156250
  | _ => 97656

/-- An image is admitted at operating point `a` (R221). -/
def fitsAt (a : Nat) (h : ImageHeader) : Bool :=
  decide (h.cycP0 ≤ 664060) && decide (h.cycGeneral ≤ 85 * 56 * gpeCycles a / 100) &&
    decide (h.cycP0 + h.cycGeneral ≤ 85 * 64 * gpeCycles a / 100)

/-- The first admission check that fails: REASON, limit and value (R222). Cycles are those of a FULL image (R221). -/
def State.imageRefused (s : State) (h : ImageHeader) : Option Refuse :=
  let c := gpeCycles (s.f Reg.MRE_ADMIT_CFG_OP)
  let chk (reason limit value : Nat) : Bool × Refuse := (decide (value ≤ limit), ⟨reason, 0, 0, 0, 0, limit, value⟩)
  let cycles := [chk 13 664060 h.cycP0, chk 14 (85 * 56 * c / 100) h.cycGeneral, chk 15 (85 * 64 * c / 100) (h.cycP0 + h.cycGeneral)]
  firstBroken ((if h.typ = 0 then cycles else []) ++ [chk 16 131072 h.nodes, chk 17 16384 h.zones, chk 18 8192 h.sources,
    chk 19 256 h.generators, chk 20 64 h.taps, chk 21 5592384 h.delaySamples, chk 22 2097152 h.stateBytes,
    chk 23 (s.reg Reg.MRE_UCODE_VER).toNat h.ucodeMin])

/-- The image that will be in force when a patch loaded now applies: the staged or the active one, with the patches before it (R215, R217). -/
def State.forceImage (s : State) : Option ImageFile :=
  (s.mre.staged.or s.mre.image).map (fun b =>
    s.mre.patches.foldl (fun i p => if i.header.graphId = p.header.baseId then applyPatch i p else i) b)

/-- A function may load or swap a FULL image (R218). -/
def State.graphRight (s : State) (f : Nat) : Bool := f == 0 || (s.grant f).graph

/-- CQE dwords 4 to 7 of an admission refusal (R144). -/
def refuseDws (r : Refuse) : Word × Word × Word × Word :=
  (BitVec.ofNat 32 (r.reason + r.m * 2 ^ 8 + r.trunk * 2 ^ 16), BitVec.ofNat 32 (r.hub + r.port * 2 ^ 16),
   BitVec.ofNat 32 r.limit, BitVec.ofNat 32 r.value)

end Sys2Proof.Machine
end

