-- ==== Sys2Proof/Machine/Sup.lean ====
section
/-! DEFINITION. The commands of the supervision unit and the night audit (R248 to R271), and the audit's entry (R262). -/

namespace Sys2Proof.Machine

/-- Muslin has lines left and no SWEEP_SLOT timer, for want of a free one: it is placed for the next refresh boundary (R241, R263). -/
def State.sweepAgain (s : State) : State :=
  match s.sv.audit with
  | none => s
  | some a =>
    if a.running && a.left.head? == some 0 && a.inSlot.isEmpty && !a.todo.isEmpty && s.svTimerFree &&
        !s.gd.timers.any (fun t => t.kind == .sweepSlot) then
      s.addTimer 7 (s.mfN + 800) .sweepSlot 0 none 0
    else s

/-- REFRESH_END (R252 to R258): at a refresh boundary every bound line, in ascending number, is classified, once. -/
def State.refreshEnd (s : State) : State :=
  if s.flag Reg.SV_CTRL_EN ∧ s.mfN % 800 = 0 ∧ s.sv.refreshed ≠ some s.mfN then
    let u : State := { s with sv := { s.sv with refreshed := some s.mfN } }
    (s.boundLines.foldl (fun (s : State) l => s.refreshLine l) u).sweepAgain.showLines
  else s
def execRefreshEnd (s : State) : Out := .next s.refreshEnd

/-- A result record of Muslin (R264). -/
def State.lineResult (s : State) (a : Audit) (l cls flags g : Nat) (dev : Int) (mf : Nat) : State :=
  s.auditWrite a (a.resAddr + (l - a.first) * 16)
    (u16 l ++ leBytes 1 cls ++ leBytes 1 flags ++ u32 g ++ leBytes 2 (twos 16 dev) ++ u48 mf)

/-- The lines that Muslin sweeps: bound, in range, and owned by the audit's VF where it has one (R262, R263). -/
def State.sweepable (s : State) (a : Audit) : List Nat :=
  s.boundLines.filter (fun l => decide (a.first ≤ l ∧ l ≤ a.last) &&
    (match s.corr l with
     | some (_, nd, _) => a.fn == 0 || nd.owner == a.fn
     | none => false))

/-- The Muslin slot is over when none of its lines is still measured; with no line left, so is the part. -/
def State.slotDone (s : State) : State :=
  match s.sv.audit with
  | none => s
  | some a =>
    if a.running ∧ a.left.head? = some 0 ∧ a.inSlot = [] ∧ a.todo = [] then s.endPart a else s

/-- The figure of a line's Muslin slot (R263, R264): its record, and the counts of the audit. -/
def State.slotResult (s : State) (a : Audit) (l base : Nat) : State :=
  let broken := a.broken.contains l
  let a := { a with inSlot := removeFirst (fun x => x.1 == l) a.inSlot, broken := a.broken.filter (· != l) }
  let r := s.line l
  match s.corr l with
  | none => (s.lineResult a l 0 0x11 0 0 a.slotMf).setAudit (some { a with swept := a.swept + 1, failed := a.failed + 1 })
  | some (_, _, c) =>
    let g := loadFigure r.mest
    let learn := decide (base = 0)
    let dev := if learn then 0 else deviation g base
    let cls := lineClass c r.mcnt (if learn then none else some dev)
    let flags := 1 + 2 * b2n learn + 16 * b2n broken + 32 * b2n r.clipped
    let s := (s.lineResult a l cls flags g dev a.slotMf).setLine l { r with slot := none }
    s.setAudit (some { a with
      swept := a.swept + 1, failed := a.failed + b2n (cls != 2), learned := a.learned + b2n learn })

/-- The window of a burst, or of a continuous pilot that has been stopped, has ended: a burst is measured (R258). -/
def State.burstEnd (s : State) (l : Nat) : State :=
  match (s.line l).pilot with
  | none => s
  | some p =>
    if p.ends.any (fun e => decide (e ≤ s.mfN)) then
      let s := match s.corr l with
        | some (_, _, c) => if p.cont then s else s.pilotBurst l c
        | none => s
      s.setLine l { s.line l with pilot := none }
    else s

/-- The window of a Muslin slot has ended on a line (R263); a slot that outlives its audit leaves nothing. -/
def State.sweepEnd (s : State) (l : Nat) : State :=
  let due : Option (Audit × Nat) := match s.sv.audit with
    | some a => (a.inSlot.find? (fun x => x.1 == l)).map (fun (x : Nat × Nat) => (a, x.2))
    | none => none
  match due with
  | some (a, base) => if a.slotMf + 4000 ≤ s.mfN then (s.slotResult a l base).slotDone else s
  | none =>
    if (s.line l).slot.any (fun p => p.ends.any (fun e => decide (e ≤ s.mfN))) then s.setLine l { s.line l with slot := none } else s

/-- PILOT_WINDOW_END (R258, R259, R263): the window of a line's pilot has ended and its measurement counts; a PILOT_MODE 0
burst needs two to confirm. -/
def State.pilotWindowEnd (s : State) (l : Nat) : State := (s.burstEnd l).sweepEnd l
def execPilotWindowEnd (line : Half) (s : State) : Out := .next (s.pilotWindowEnd line.toNat).showLines

/-- SV_BACKLOG_DRAIN (R260). -/
def execSvBacklogDrain (s : State) : Out := .next (s.drainSv (s.sv.held.length + s.sv.lines.length)).showSv

/-! ## Timers of the SV (R258, R263) -/

/-- PILOT_TIMER (R258, R259): a burst or a continuous pilot starts at E; a further burst follows after PERIOD seconds while the
line is quiet. A line in its Muslin slot skips the burst, which the slot serves as (R263). -/
def State.pilotTimer (s : State) (seq : Nat) : State :=
  match s.fireTimer seq .pilot with
  | none => s
  | some (s, t) =>
    let l := t.owner
    match s.corr l with
    | none => s
    | some (_, nd, c) =>
      let r := s.line l
      if r.pilotDue then
        let cont := decide (c.pilotMode = 1)
        let muslin := !cont && r.slot.any (·.covers t.e)
        let s := if muslin then s else s.startPilot l t.e (if cont then none else some (t.e + 4000))
        if cont ∨ s.svTimerFree = false then s
        else s.addTimer nd.prio (t.e + 8000 * max 1 (s.f Reg.SV_PILOT_PERIOD)) .pilot l none 0
      else s
def execPilotTimer (seq : Nat) (s : State) : Out := .next (s.pilotTimer seq)

/-- The baseline entries of the slot with lines `ls` are read from host memory (R264): those of its first line to its last. -/
def State.readBase (s : State) (a : Audit) (ls : List Nat) : State :=
  if s.isPartner then s
  else match ls.head?, ls.getLast? with
    | some l, some m => s.sendHost (.read a.fn (a.baseAddr + (l - a.first) * 8) ((m + 1 - l) * 8))
    | _, _ => s

/-- A Muslin slot starts at microframe `e` (R263, R264): the next BATCH lines receive the pilot; one that is unbound or in SENSE_LOST by now is
recorded as skipped; the next slot is placed when lines remain. `base` is what the read of the baseline brings, from the slot's first line on. -/
def State.startSlot (s : State) (a : Audit) (e : Nat) (base : List Byte) : State :=
  let ls := a.todo.take a.batch
  let l0 := ls.headD 0
  let ok := s.sweepable a
  let a := { a with slotMf := e, todo := a.todo.drop a.batch }
  let (s, a) := ls.foldl (fun (x : State × Audit) l =>
    let (s, a) := x
    if !ok.contains l then (s.lineResult a l 0 4 0 0 e, { a with skipped := a.skipped + 1 })
    else if (s.line l).state = 9 then (s.lineResult a l 0 8 0 0 e, { a with skipped := a.skipped + 1 })
    else (s.startSweep l e, { a with inSlot := a.inSlot ++ [(l, field base (8 * (l - l0)) 4)] })) (s.readBase a ls, a)
  let s := s.setAudit (some a)
  let s := if a.todo = [] ∨ s.svTimerFree = false then s else s.addTimer 7 (e + 4000) .sweepSlot 0 none 0
  s.slotDone

/-- SWEEP_SLOT_TIMER (R241, R263). -/
def State.sweepTimer (s : State) (seq : Nat) (base : List Byte) : State :=
  match s.fireTimer seq .sweepSlot with
  | none => s
  | some (s, t) =>
    match s.sv.audit with
    | some a => if a.running ∧ a.left.head? = some 0 then s.startSlot a t.e base else s
    | none => s
def execSweepSlotTimer (seq : Nat) (base : List Byte) (s : State) : Out := .next (s.sweepTimer seq base)

/-! ## The audit's parts (R262 to R267) -/

/-- First refresh boundary at or after a microframe. -/
def refreshFrom (m : Nat) : Nat := (m + 799) / 800 * 800

/-- A part starts. -/
def State.startPart (s : State) (a : Audit) : State :=
  let a := { a with running := true, begun := true, partMf := s.mfN }
  match a.left.headD 0 with
  | 0 =>
    -- lines that cannot be swept are recorded as skipped
    let mine := s.sweepable a
    let other := (numbers a.first (a.last + 1 - a.first)).filter (fun l => !mine.contains l)
    let s := other.foldl (fun s l => s.lineResult a l 0 4 0 0 0) s
    let a := { a with skipped := a.skipped + other.length, todo := mine }
    let s := s.setAudit (some a)
    if mine.isEmpty then s.endPart a
    else if s.svTimerFree then s.addTimer 7 (refreshFrom s.mfN) .sweepSlot 0 none 0
    else s
  | 1 =>
    let s := s.setAudit (some a)
    (List.range 192).foldl (fun s n => if s.flag (Reg.LX_EYE_STATUS_HW_ACTIVE n) then
      (s.setB (Reg.LX_EYE_STATUS_HW_ACTIVE n) false).setB (Reg.LX_EYE_STATUS_BUSY n) false else s) s
  | 2 =>
    let spare := (List.range 192).filter (fun n => s.f (Reg.LX_LANE_CTRL_EN n) == 0 && s.laneState n == 0 && s.testAllowed n
      && !s.miodelLane n)
    let s := spare.foldl (fun s n =>
      let s := ((s.setLane n Ls.test).setB (Reg.LX_PRBS_CTRL_GEN_EN n) true).setB (Reg.LX_PRBS_CTRL_CHK_EN n) true
      ((s.setB (Reg.LX_PRBS_CTRL_POLY n) true).setB (Reg.LX_PRBS_STATUS_LOCKED n) false).setF (Reg.LX_PRBS_ERRORS_COUNT n) 0) s
    let lanes := spare.foldl (fun t n => Tbl.upd (fun _ => AuditLane.zero) t n (fun l => { l with kind := 2 })) a.lanes
    s.setAudit (some { a with lanes := lanes, spares := spare.length })
  | _ =>
    let hubs := ((s.hubs.filter (fun d => d.path1.isSome)).map (·.addr)).foldl (fun l h => insertBy (fun a b => decide (a < b)) h l) []
    let a := { a with hubsLeft := hubs, phase := 0, f := 0 }
    let s := s.setAudit (some a)
    if hubs.isEmpty then s.endPart a else s

/-- AUDIT_PART_START (R262): the first part at START_MF, each later one at a frame mark. -/
def State.auditPartStart (s : State) : State :=
  match s.sv.audit with
  | none => s
  | some a =>
    if a.running = false ∧ a.left ≠ [] ∧ (if a.begun then s.mfN % 8 = 0 else a.startMf ≤ s.mfN) then s.startPart a else s
def execAuditPartStart (s : State) : Out := .next s.auditPartStart

/-- No mismatch at column `h` and row `v` of the grid (R265). -/
def gridOpen (g : EyeGrid) (h v : Nat) : Bool := g.counts.getD (v * 17 + h) 0 == 0

/-- The outermost open step, in `n` steps from the centre along an axis (R265); 0 when none is open. Closed steps within it do not count (DEDUCED,
log entry 74). -/
def outermost (n : Nat) (open_ : Nat → Bool) : Nat := (List.range n).foldl (fun m k => if open_ (k + 1) then k + 1 else m) 0

/-- The audit margins of a grid (R265): HOFF steps of 8, VOFF steps of 6. -/
def gridMargins (g : EyeGrid) : Margins :=
  { hLeft := BitVec.ofNat 7 (8 * outermost 8 (fun k => gridOpen g (8 - k) 5)), hRight := BitVec.ofNat 7 (8 * outermost 8 (fun k => gridOpen g (8 + k) 5))
    vUp := BitVec.ofNat 5 (6 * outermost 5 (fun k => gridOpen g 8 (5 + k))), vDown := BitVec.ofNat 5 (6 * outermost 5 (fun k => gridOpen g 8 (5 - k))) }

/-- Open points of a grid. -/
def gridPoints (g : EyeGrid) : Nat :=
  ((List.range 11).map (fun v => ((List.range 17).filter (fun h => gridOpen g h v)).length)).foldl (· + ·) 0

/-- A lane's result in the EYE part (R265): its grade from the audit margins. -/
def State.auditEyeLane (s : State) (a : Audit) (g : EyeGrid) : State × Audit :=
  let n := g.lane.val
  let upd (f : AuditLane → AuditLane) : Tbl AuditLane := Tbl.upd (fun _ => AuditLane.zero) a.lanes n f
  if s.laneState n ≠ 3 then (s, a)
  else if s.flag (Reg.LX_EYE_CTRL_SW_OWN n) then (s, { a with lanes := upd (fun l => { l with kind := 8 }) })
  else
    let s := s.setGrade n (s.gradeOf n (gridMargins g)) (gridMargins g)
    (s, { a with
      lanes := upd (fun l => { l with kind := 1, m := (gridMargins g), openPoints := gridPoints g })
      scanned := a.scanned + 1, below := a.below + b2n (!s.marginsMeet n 1 (gridMargins g)) })

/-- The grid of a lane; one that is not listed has counted no mismatch. -/
def gridOf (grids : List EyeGrid) (n : Fin 192) : EyeGrid := (grids.find? (fun g => g.lane == n)).getD ⟨n, []⟩

/-- AUDIT_EYE_COMPLETE (R265): every lane that is UP has been scanned. -/
def State.auditEyeComplete (s : State) (grids : List EyeGrid) : State :=
  match s.sv.audit with
  | none => s
  | some a =>
    if a.running ∧ a.left.head? = some 1 then
      let (s, a) := (List.range 192).foldl (fun (x : State × Audit) n => x.1.auditEyeLane x.2 (gridOf grids (Fin.ofNat 192 n))) (s, a)
      s.endPart a
    else s
def execAuditEyeComplete (grids : List EyeGrid) (s : State) : Out := .next (s.auditEyeComplete grids)

/-- AUDIT_PRBS_END (R266): after 10 s the spare lanes return to DISABLED, with NO_PEER for one whose checker never locked. The mismatched
bits that a locked checker has met and that are not counted yet are a free number (log entry 45). -/
def State.auditPrbsEnd (s : State) : State :=
  match s.sv.audit with
  | none => s
  | some a =>
    if a.running ∧ a.left.head? = some 2 ∧ a.partMf + 80000 ≤ s.mfN then
      let (s, a) := (s.sparesOn a).foldl (fun (x : State × Audit) n =>
        let (s, a) := x
        let locked := (Tbl.get (fun _ => AuditLane.zero) a.lanes n).locked
        let s := (s.prbsErrors n (Config.freeChoice s.free)).fresh
        let e := s.f (Reg.LX_PRBS_ERRORS_COUNT n)
        (s.endSpare n, { a with
          lanes := Tbl.upd (fun _ => AuditLane.zero) a.lanes n (fun l =>
            { l with kind := if locked then 2 else 6, errors := e })
          spareErr := a.spareErr + b2n (locked && e != 0) })) (s, a)
      s.endPart a
    else s
def execAuditPrbsEnd (s : State) : Out := .next s.auditPrbsEnd

/-- TWILL_SWAP_PHASE (R267): path 0 alone from F, both from F + 64, path 1 alone from F + 72, both from F + 136; the decision that follows
judges the last microframe and closes the hub; the next one is at F + 144. -/
def State.twillSwapPhase (s : State) : State :=
  match s.sv.audit with
  | none => s
  | some a =>
    if a.running ∧ a.left.head? = some 3 then
      match a.hub with
      | none =>
        match a.hubsLeft with
        | [] => s
        | h :: rest =>
          if s.mfN % 8 = 0 ∧ (a.f = 0 ∨ a.f + 144 ≤ s.mfN) then
            let mar (i : Nat) : Nat := match (s.dev h).bind (fun d => hubPath d i) with
              | some p => s.marginOf p.root
              | none => 0
            let r : AuditHub := ⟨h, 0, 0, 0, 0, mar 0, mar 1⟩
            let a := { a with hubsLeft := rest, f := s.mfN }
            if (s.subInputs h).isEmpty then
              let a := { a with hubs := a.hubs ++ [{ r with res0 := 3, res1 := 3 }], f := 0 }
              if rest.isEmpty then s.endPart a else s.setAudit (some a)
            else s.setAudit (some (s.beginAlone { a with phase := 1 } r 0))
          else s
      | some r =>
        if a.phase = 1 ∧ a.f + 64 ≤ s.mfN then s.setAudit (some { a with alone := none, phase := 2 })
        else if a.phase = 2 ∧ a.f + 72 ≤ s.mfN then s.setAudit (some (s.beginAlone { a with phase := 3 } r 1))
        else if a.phase = 3 ∧ a.f + 136 ≤ s.mfN then s.setAudit (some { a with alone := none, phase := 4 })
        else if a.phase = 4 ∧ a.f + 137 ≤ s.mfN then s.closeHub a r
        else s
    else s
def execTwillSwapPhase (s : State) : Out := .next s.twillSwapPhase

/-! ## AUDIT_START (R262, R269) -/

/-- Parts of a mask, in their order. -/
def auditParts (m : Nat) : List Nat := [0, 1, 2, 3].filter (fun i => nbit m i)

/-- The earliest START_MF a command may name (R194, R262): 8 microframes ahead for a SOLO device, 16 in a pair. -/
def State.startLead (s : State) : Nat := if s.role = 0 then 8 else 16

/-- START_MF or STOP_MF as it acts: 0 is the current microframe + 16; `none` when it is too near (R194). `now` is the
microframe in which the command took its place in the order of both devices (R292). -/
def State.startMf (s : State) (now m : Nat) : Option Nat :=
  if m = 0 then some (now + 16) else if m < now + s.startLead then none else some m

/-- AUDIT_START with PARTS other than 0 plans an audit; with PARTS 0 it stops the one that runs (R262, R269). The entry has
passed its checks. -/
def State.auditStart (s : State) (r : EntryRef) (e : Sqe) (now : Nat) : State :=
  let parts := sqeF e 1 0 4
  if parts = 0 then (s.abortAudit).completeM r e St.ok
  else if s.sv.audit.isSome then s.completeM r e St.aborted
  else match s.startMf now (sqeMf e 4) with
    | none => s.completeM r e St.aborted
    | some m =>
      let batch := sqeF e 3 0 13
      let s := (s.setF Reg.SV_AUDIT_MF_LO_MF m).setF Reg.SV_AUDIT_MF_HI_MF (m / 2 ^ 32)
      s.setAudit (some ⟨some r, r.fn.val, parts, sqeF e 2 0 16, sqeF e 2 16 16, if batch = 0 then 4096 else min batch 4096, m,
        sqe64 e 6, sqe64 e 8, sqe64 e 10, (sqeDw e 12).toNat, auditParts parts, false, false, [], 0, [], [], 0, 0, 0, 0, 0, [], 0, 0,
        0, 0, [], [], none, 0, 0, none, 0, none, 0, 0⟩)

end Sys2Proof.Machine
end

