-- ==== Sys2Proof/Machine/Graph.lean ====
section
/-! DEFINITION. The commands of the mixing engine and the graph dispatcher (R190 to R247): loads and swaps, operations, timers, taps,
clips, and observing windows. -/

namespace Sys2Proof.Machine

/-! ## GRAPH_LOAD (R216 to R222) -/

/-- A load ends in an admission refusal. -/
def State.refuseLoad (s : State) (r : EntryRef) (e : Sqe) (x : Refuse) : State :=
  let (d4, d5, d6, d7) := refuseDws x
  s.completeM r e St.admissionRefused 0 d4 d5 d6 d7

/-- GRAPH_LOAD reads its image and checks it in the order of R222. -/
def State.loadImage (s : State) (r : EntryRef) (e : Sqe) (img : ImageFile) : State :=
  let f := r.fn.val
  let len := (sqeDw e 4).toNat
  let h := img.header
  let headOk := h.magic == 0x49475847 && h.format == 1 && decide (h.typ.toNat ≤ 1) && img.crcGood
  let ok := BitVec.ofNat 32 h.graphId.toNat
  if !headOk then s.completeM r e St.malformed
  else if h.typ = 0 then
    if s.fullOk img len = false then s.completeM r e St.malformed
    else if !s.graphRight f || !img.nodes.all (fun n => s.nodeGranted n n.kind) then s.completeM r e St.outOfGrant
    else match s.imageRefused h with
      | some x => s.refuseLoad r e x
      | none =>
        let s := { s with mre := { s.mre with staged := some img } }
        (s.setReg Reg.MRE_STAGED_ID h.graphId).completeM r e St.ok 0 ok
  else
    match s.forceImage with
    | none => s.completeM r e St.malformed
    | some base =>
      if s.patchOk base img len = false then s.completeM r e St.malformed
      else if !img.patches.all (fun p => match base.nodes[p.node]? with
          | some nd => ownedBy f nd && s.nodeGranted nd p.kind
          | none => false) then s.completeM r e St.outOfGrant
      else match s.imageRefused h with
        | some x => s.refuseLoad r e x
        | none =>
          if 16 ≤ s.mre.patches.length then s.completeM r e St.aborted
          else State.completeM { s with mre := { s.mre with patches := s.mre.patches ++ [img] } } r e St.ok 0 ok

/-- GRAPH_LOAD: while a swap is pending it waits (R217). -/
def State.graphLoad (s : State) (r : EntryRef) (e : Sqe) (img : ImageFile) : State :=
  if s.mre.swap.isSome then { s with mre := { s.mre with loads := s.mre.loads ++ [(r, e)] } } else s.loadImage r e img

/-- GRAPH_LOAD_RESUME (R217): the oldest load that waited reads its image. -/
def State.loadResume (s : State) (img : ImageFile) : State :=
  match s.mre.swap, s.mre.loads with
  | none, (r, e) :: l => State.loadImage { s with mre := { s.mre with loads := l } } r e img
  | _, _ => s
def execGraphLoadResume (img : ImageFile) (s : State) : Out := .next (s.loadResume img)

/-! ## GRAPH_SWAP (R217, R219, R239) -/

/-- MRE_SWAP_MF and SWAP_PENDING follow. -/
def State.showSwap (s : State) : State :=
  match s.mre.swap with
  | some w => ((s.setF Reg.MRE_SWAP_MF_LO_MF w.m).setF Reg.MRE_SWAP_MF_HI_MF (w.m / 2 ^ 32)).setB Reg.MRE_STATUS_SWAP_PENDING true
  | none => s.setB Reg.MRE_STATUS_SWAP_PENDING false

/-- GRAPH_SWAP (R217). `now` is the microframe in which the command took its place in the order (R292). -/
def State.graphSwap (s : State) (r : EntryRef) (e : Sqe) (now : Nat) : State :=
  let m := sqeMf e 2
  match s.mre.swap with
  | some w =>
    if w.m = m then State.showSwap { s with mre := { s.mre with swap := some { w with refs := w.refs ++ [r] } } }
    else s.completeM r e St.aborted
  | none =>
    if m < now + s.commitLead then s.completeM r e St.aborted
    else if s.mre.staged.isNone ∧ s.mre.patches = [] then
      s.completeM r e St.ok 0 (BitVec.ofNat 32 m) (BitVec.ofNat 32 (m / 2 ^ 32))
    else
      State.showSwap { s with mre := { s.mre with
        swap := some ⟨m, [r], s.mre.staged, s.mre.patches, false⟩, staged := none, patches := [] } }

/-- Node of the old image that node `nd` continues (R219). -/
def continues (old : List Node) (nd : Node) : Option Nat :=
  (old.zipIdx.find? (fun x => x.1.key == nd.key && kindCode x.1.kind == kindCode nd.kind && x.1.stateOff == nd.stateOff
    && x.1.stateSize == nd.stateSize && (match x.1.kind, nd.kind with
      | .delay b l _, .delay b' l' _ => b == b' && l == l'
      | _, _ => true))).map (·.2)

/-- Mode of generator `g` in a generator table: 1 CLIP, 2 TONE, 0 absent. -/
def modeCode (l : List (Nat × GenMode)) (g : Nat) : Nat :=
  match l.find? (fun x => x.1 == g) with
  | some (_, .clip) => 1
  | some (_, .tone _) => 2
  | none => 0

/-- A generator keeps its state when it stays in its mode; a player that leaves CLIP mode is stopped at the mark of M (R196,
R219). -/
def State.keepGen (s : State) (old new : List (Nat × GenMode)) (g : Nat) : State :=
  if modeCode old g = modeCode new g ∨ modeCode old g = 1 then s else s.setGen g GenSt.zero

/-- Operations that have completed and wait behind an open head are released, in order, before their image goes; they are past their fill
deadline (R238, R239). DEDUCED (log entry 63): they complete before the mark of M. -/
def State.releaseDone (s : State) : State :=
  s.gd.flows.foldl (fun (s : State) (x : Nat × List RelRec) => (x.2.filter (·.done)).foldl (fun s r => s.effect r) s) s

/-- A FULL image takes over (R217, R219, R239): continuing nodes keep their state and last GPE, operations not dispatched are
discarded, those on GPEs run on for their old nodes and keep their release entries. -/
def State.takeImage (s : State) (m : Nat) (img : ImageFile) : State :=
  let s := s.releaseDone
  let old := match s.mre.image with | some i => i.nodes | none => []
  let oldGens := s.genList
  let cont : List (Nat × Nat) := img.nodes.zipIdx.filterMap (fun (x : Node × Nat) => (continues old x.1).map (fun o => (x.2, o)))
  let contOf (o : Nat) : Option Nat := (cont.find? (fun (x : Nat × Nat) => x.2 == o)).map (·.1)
  -- operations on the GPEs
  let gpes := s.gd.gpes.map (fun (x : Nat × Option RunRec) => (x.1, x.2.map (fun q =>
    if q.old.isSome then { q with old := q.old.map (fun o => { o with cont := o.cont.bind contOf }) }
    else match old[q.node]? with
      | some nd => { q with old := some ⟨nd, nd.inputs.map (fun i => s.streamAt i q.pass), contOf q.node,
          (s.flow nd.flow).any (fun r => r.node == q.node && r.pass == q.pass && r.entry)⟩ }
      | none => q)))
  let busy := gpes.filterMap (fun (x : Nat × Option RunRec) => x.2.bind (fun q => q.old.bind (·.cont)))
  let nodeTbl := cont.foldl (fun t x => Tbl.set (fun _ => NodeSt.zero) t x.1 (s.nodeSt x.2)) []
  let lastTbl := cont.foldl (fun t x => Tbl.set (fun _ => none) t x.1 (Tbl.get (fun _ => none) s.gd.last x.2)) []
  let contLines := cont.filterMap (fun x => (img.nodes[x.1]?).bind corrOf |>.map (·.line))
  let oldLines := s.boundLines
  let s := { s with
    mre := { s.mre with image := some img, nodes := nodeTbl, streams := [], faulted := [] }
    gd := { s.gd with queue := [], spills := [], flows := [], gpes := gpes, busy := busy, last := lastTbl
                      held := s.gd.held.filter (fun (x : Nat × Notice) => match x.2 with | .clip _ => true | .block _ => false)
                      next := img.nodes.zipIdx.foldl (fun (t : Tbl Nat) (x : Node × Nat) => Tbl.set (fun _ => 0) t x.2 m) [] } }
  let s := (List.range 256).foldl (fun s g => s.keepGen oldGens img.gens g) s
  let s := s.setF Reg.MRE_STATUS_BANK (1 - s.f Reg.MRE_STATUS_BANK)
  let s := ((s.setB Reg.MRE_STATUS_GRAPH_VALID true).setReg Reg.MRE_GRAPH_ID img.header.graphId).setReg Reg.MRE_STAGED_ID 0
  let s := (s.setF Reg.MRE_CYC_P0_CYC img.header.cycP0).setF Reg.MRE_CYC_GENERAL_CYC img.header.cycGeneral
  let s := (s.setF Reg.MRE_FAULTED_NODES_COUNT 0).showRelease
  let s := ((oldLines ++ s.boundLines).eraseDups).foldl (fun s l => s.svRebind l (contLines.contains l)) s
  let s := s.showLines
  (List.range 8).foldl (fun s q => s.showQ q) s

/-- GRAPH_SWAP_TAKEOVER (R217): in the Tulle band of M − 1 the sealed image becomes active, then the sealed patches apply. Operations of earlier
passes that have not completed keep the nodes without the patches (R22). A sealed patch whose BASE_ID is not the GRAPH_ID of the image that is
in force then changes nothing (DESIGN CHOICE, log entry 64). -/
def State.swapTakeover (s : State) : State :=
  match s.mre.swap with
  | none => s
  | some w =>
    if w.taken ∨ s.mfN + 1 ≠ w.m then s
    else
      let s := s.advanceTo Config.fillTick
      let s := match w.full with
        | some img => s.takeImage w.m img
        | none => s
      let was := s.nodes
      let s := w.patches.foldl (fun (s : State) p => { s with mre := { s.mre with
        image := s.mre.image.map (fun i => if i.header.graphId = p.header.baseId then applyPatch i p else i) } }) s
      { s with mre := { s.mre with swap := some { w with taken := true }, lastM := w.m, patched := if w.full.isSome then [] else s.mre.patched ++ [(w.m, was)] } }
def execGraphSwapTakeover (s : State) : Out := .next s.swapTakeover

/-- A swap during a join restarts its STATE phase (R305): the HOLDER sends the state anew. -/
def State.restartState (s : State) : State :=
  let p := s.f Reg.PU_JOIN_STATUS_PHASE
  if p = 3 ∨ p = 4 then (s.setF Reg.PU_JOIN_STATUS_PHASE (if s.isHolder then 2 else 3)).setF Reg.PU_JOIN_STATUS_PROGRESS 0 else s

/-- GRAPH_SWAP_COMPLETE (R217): at the mark of M + 1. -/
def State.swapComplete (s : State) : State :=
  match s.mre.swap with
  | none => s
  | some w =>
    if w.taken ∧ w.m + 1 ≤ s.mfN then
      let s := (State.showSwap { s with mre := { s.mre with swap := none } }).restartState
      (s.inCqeOrder id w.refs).foldl (fun (s : State) (r : EntryRef) => s.completeRefM r St.ok 0 (BitVec.ofNat 32 w.m) (BitVec.ofNat 32 (w.m / 2 ^ 32))) s
    else s
def execGraphSwapComplete (s : State) : Out := .next s.swapComplete

/-- ADMIT_CFG_WRITE (R223): ignored, with OP_REFUSED, when the active or the staged image would not fit. -/
def State.admitCfg (s : State) (v : Word) : State :=
  let imgs := s.mre.image.toList ++ s.mre.staged.toList ++ (match s.mre.swap with | some w => w.full.toList | none => [])
  if imgs.all (fun i => fitsAt (bits v 0 2) i.header) then
    let (s, v) := s.pairHold Reg.MRE_ADMIT_CFG v
    s.writeReg Reg.MRE_ADMIT_CFG v
  else s.setB Reg.MRE_STATUS_OP_REFUSED true
def execAdmitCfgWrite (v : Word) (s : State) : Out := .next (s.pfWrite Reg.MRE_ADMIT_CFG (fun s => s.admitCfg v))

/-! ## Operations (R226 to R239) -/

/-- OPERATION_DISPATCH (R235). -/
def execOperationDispatch (s : State) : Out := .next s.dispatchAll

/-- AFFINITY_WAIT_EXPIRY (R234): the waits of a node's queued operations end. -/
def State.affinityOver (s : State) (n : Nat) : State :=
  { s with gd := { s.gd with queue := s.gd.queue.map (fun (o : OpRec) => if o.node = n then { o with waited := true } else o) } }
def execAffinityWaitExpiry (node : Nat) (s : State) : Out := .next (s.affinityOver node)

/-- OPERATION_COMPLETE (R176, R186, R228, R236, R436, R452). -/
def State.operationDone (s : State) (g : Nat) (hits : List OpHit) (stall : Nat) : State :=
  match s.run g with
  | none => s
  | some q =>
    let s := (s.setRun g none).obsUpd (fun o => { o with
      gpeStall := Tbl.upd (fun _ => 0) o.gpeStall g (· + stall), gpeOps := Tbl.upd (fun _ => 0) o.gpeOps g (· + 1) })
    let s := s.opHits q.node q.old.isNone hits
    match q.old with
    | some o => (s.completeOld q.node q.pass o (graphErrors hits)).showRelease
    | none =>
      match s.nodeAt q.node q.pass with
      | none => s
      | some nd =>
        let (s, wake) := s.completeOp q.node q.pass nd (graphErrors hits)
        s.when wake (fun s => s.wake .emerg)
def execOperationComplete (g : GpeId) (hits : List OpHit) (remoteStall : Nat) (s : State) : Out :=
  .next (s.operationDone g.val hits remoteStall)

/-- Move spilled operations of priority `q` into its queue, one per free place (R231). -/
def State.unspill (s : State) (q : Nat) : Nat → State
  | 0 => s
  | n + 1 =>
    if s.depth q < 4096 then
      match s.gd.spills.find? (fun x => s.prioOf x.1 == q) with
      | some x =>
        (State.enqueue { s with gd := { s.gd with spills := removeFirst (fun y => y == x) s.gd.spills } } x.1 x.2 q).unspill q n
      | none => s
    else s

/-- SPILL_MOVE (R231). -/
def execSpillMove (q : Prio) (s : State) : Out := .next (s.unspill q.val s.gd.spills.length)

/-- A held notice enters its queue (R232): a block makes its readers ready, a clip half counts as filled. -/
def State.enterNotice (s : State) (q : Nat) (v : Notice) : State :=
  let s := State.showQ { s with gd := { s.gd with held := removeFirst (fun y => y == (q, v)) s.gd.held } } q
  match v with
  | .block h =>
    let l := (s.readers h).filter (fun x => x.2.prio == q)
    let s := l.foldl (fun s x => if s.accepts q && s.ready x.1 x.2 then s.createOp x.1 x.2 else s) s
    -- a reader that finds no place keeps the notice where it was
    if l.any (fun x => s.ready x.1 x.2) then State.showQ { s with gd := { s.gd with held := (q, v) :: s.gd.held } } q else s
  | .clip g => s.countFilled g

/-- HELD_NOTICE_ENTER (R232): the oldest notice held for priority `q`. -/
def State.heldEnter (s : State) (q : Nat) : State :=
  if s.accepts q then
    match s.gd.held.find? (fun x => x.1 == q) with
    | some x => s.enterNotice q x.2
    | none => s
  else s
def execHeldNoticeEnter (q : Prio) (s : State) : Out := .next (s.heldEnter q.val)

/-- CLIP_REFILL_NOTICE (R232): a half of a generator's slot has been written. -/
def State.refillNotice (s : State) (g : Nat) : State :=
  if (s.gen g).noticed ∨ (s.gen g).clips.all (fun c => c.ready == c.filled) then s
  else (s.setGen g { s.gen g with noticed := true }).clipNotice g
def execClipRefillNotice (g : Fin 256) (s : State) : Out := .next (s.refillNotice g.val)

/-! ## Taps (R209) -/

def State.tap (s : State) (t : Nat) : TapSt := Tbl.get (fun _ => TapSt.zero) s.mre.taps t
def State.setTap (s : State) (t : Nat) (r : TapSt) : State :=
  { s with mre := { s.mre with taps := Tbl.set (fun _ => TapSt.zero) s.mre.taps t r } }

/-- Channels of a tap: inputs of the node that names it. -/
def State.tapChans (s : State) (t : Nat) : Nat :=
  match s.nodes.find? (fun x => match x.2.kind with | .tap u => u == t | _ => false) with
  | some x => x.2.inputs.length
  | none => 0

/-- The chunk of a tap: the records of passes [64k, 64k + 64), zeros for a pass without one. -/
def chunkBytes (recs : List (Nat × List Byte)) (k c : Nat) : List Byte :=
  (numbers (64 * k) 64).flatMap (fun p => match recs.find? (fun x => x.1 == p) with
    | some x => x.2
    | none => List.replicate (18 * c) 0)

/-- The 64 passes of chunk `k` of a tap are over (R209): the last one, or a later one, has its record, or no operation of the chunk is under
way after it. -/
def State.chunkOver (s : State) (t k : Nat) : Bool :=
  (s.tap t).recs.any (fun x => decide (64 * k + 63 ≤ x.1)) ||
    (decide (64 * k + 64 ≤ s.mfN) && !(s.gd.flows.any (fun f => f.2.any (fun r => r.pass / 64 == k &&
      (match s.nodeAt r.node r.pass with
        | some nd => (match nd.kind with | .tap u => u == t | _ => false)
        | none => false)))))

/-- The engines issue requests: enabled, not stopped, and the host is there (R320, R333, R334, R387). -/
def State.engineRuns (s : State) (e : Nat) : Bool :=
  s.flag Reg.BM_CTRL_EN && !s.stopped e && s.operational && s.hostHere && !s.inDormant && !s.halted

/-- TAP_CHUNK_COMPLETE (R209): once its passes are over the chunk goes to the head buffer, or is lost where that has no room for it; a full
buffer completes. A PARTNER writes none
(R293), nor is anything written for a function that is frozen (R427). While the function is in D3hot, or the buffer's engine runs no
burst, the chunk waits (R337, R372). -/
def State.tapChunk (s : State) (t : Nat) : State :=
  let r := s.tap t
  match r.recs.head? with
  | none => s
  | some (p, _) =>
    let k := p / 64
    let c := s.tapChans t
    if !s.chunkOver t k then s else
    let r := { r with recs := r.recs.filter (fun (x : Nat × List Byte) => x.1 / 64 != k) }
    let bufs := if r.bufs.any (fun b => s.frozen b.ref.fn.val) then [] else r.bufs
    let data := chunkBytes (s.tap t).recs k c
    if s.isPartner then s.setTap t r
    else match bufs with
      | [] => (s.setTap t { r with lost := r.lost + 1 }).bump Reg.MRE_GEN_ERRORS_TAP_LOST
      | b :: rest =>
        if b.len < b.written + data.length then (s.setTap t { r with lost := r.lost + 1 }).bump Reg.MRE_GEN_ERRORS_TAP_LOST
        else if s.d3hot b.ref.fn.val || (match s.chanOf b.ref with | some ch => !s.engineRuns (ch / 64) | none => false) then s
        else
        let s := s.sendHost (.write b.ref.fn.val (b.addr + b.written) data)
        let s := match s.chanOf b.ref with
          | some ch => s.bump (Reg.BM_WRITE_UNITS_COUNT (ch / 64)) (ceilDiv data.length 64)
          | none => s
        let b := { b with written := b.written + data.length, first := b.first.or (some (64 * k)) }
        if b.len ≤ b.written then
          let f := b.first.getD 0
          (s.setTap t { r with bufs := rest, lost := 0 }).endEntry (s.chanOf b.ref) b.ref
            ⟨St.ok, b.written, BitVec.ofNat 32 f, BitVec.ofNat 32 (f / 2 ^ 32), BitVec.ofNat 32 r.lost, 0, false⟩
        else s.setTap t { r with bufs := b :: rest }
def execTapChunkComplete (tap : Fin 64) (s : State) : Out := .next (s.tapChunk tap.val)

/-- Taps that the image of the mark no longer has: their buffers complete with ABORTED (R209). -/
def State.sweepTaps (s : State) : State :=
  s.mre.taps.foldl (fun s x =>
    if s.tapChans x.1 = 0 then
      let s := s.setTap x.1 TapSt.zero
      x.2.bufs.foldl (fun s b => s.endEntry (s.chanOf b.ref) b.ref ⟨St.aborted, b.written, BitVec.ofNat 32 (b.first.getD 0),
        BitVec.ofNat 32 (b.first.getD 0 / 2 ^ 32), BitVec.ofNat 32 x.2.lost, 0, false⟩) s
    else s) s

/-- TAP_RECORD (R209): up to 16 buffers a tap, each a multiple of the chunk of its tap. The entry has passed its checks. -/
def State.tapBuffer (s : State) (r : EntryRef) (e : Sqe) : State :=
  let t := sqeF e 1 0 6
  let q := s.tap t
  if 16 ≤ q.bufs.length then s.completeRef r St.aborted
  else s.setTap t { q with bufs := q.bufs ++ [⟨r, sqe64 e 2, (sqeDw e 4).toNat, 0, none⟩] }

/-! ## Clips and their timers (R194, R196, R241 to R244) -/

/-- A command found no free timer (R241). -/
def State.noTimer (s : State) (r : EntryRef) (e : Sqe) : State :=
  (s.setB Reg.GD_TIMER_STATUS_EXHAUSTED true).completeM r e St.aborted

/-- CLIP_PLAY (R194, R242): the clip joins its generator's queue, its timers are placed, and the generator takes its slot. -/
def State.clipPlay (s : State) (r : EntryRef) (e : Sqe) (now : Nat) : State :=
  let g := sqeF e 1 0 8
  let reps := sqeF e 8 0 16
  match s.genMode g, s.startMf now (sqeMf e 2) with
  | some .clip, some m =>
    if 4 ≤ (s.gen g).clips.length then s.completeM r e St.aborted
    else if !s.timersFree (if reps = 0 then 1 else 2) then s.noTimer r e
    else
      let q := s.genPrio g
      let c : ClipRun := ⟨r, sqe64 e 4, (sqeDw e 6).toNat, sqeF e 7 0 16, reps, (sqeDw e 9).toNat, m, 0, none, 0, 0, 0, 0, 0, 0⟩
      let s := s.setGen g { s.gen g with clips := (s.gen g).clips ++ [c] }
      let s := s.addTimer q m .clipStart g (some r) 0
      let s := if reps = 0 then s else s.addTimer q (m + c.repeatMf) .clipRepeat g (some r) 1
      s.takeGenSlot g
  | some .clip, none => s.completeM r e St.aborted
  | _, _ => s.completeM r e St.malformed

/-- CLIP_STOP (R196). -/
def State.clipStop (s : State) (r : EntryRef) (e : Sqe) (now : Nat) : State :=
  let g := sqeF e 1 0 8
  match s.startMf now (sqeMf e 2) with
  | none => s.completeM r e St.aborted
  | some m => if s.timersFree 1 then s.addTimer (s.genPrio g) m .clipStop g (some r) 0 else s.noTimer r e

/-- CLIP_START_TIMER (R241). -/
def State.clipStartFire (s : State) (seq : Nat) : State :=
  match s.fireTimer seq .clipStart with
  | none => s
  | some (s, t) => s.playable t
def execClipStartTimer (seq : Nat) (s : State) : Out := .next (s.clipStartFire seq)

/-- CLIP_REPEAT_TIMER (R241, R242): the timer is inserted again for the next playing. -/
def State.clipRepeatFire (s : State) (seq : Nat) : State :=
  match s.fireTimer seq .clipRepeat with
  | none => s
  | some (s, t) =>
    let s := s.playable t
    match (s.gen t.owner).clips.find? (fun c => some c.ref == t.ref) with
    | some c => if t.r + 1 ≤ c.repeats then s.addTimer (s.genPrio t.owner) (t.e + c.repeatMf) .clipRepeat t.owner t.ref (t.r + 1) else s
    | none => s
def execClipRepeatTimer (seq : Nat) (s : State) : Out := .next (s.clipRepeatFire seq)

/-- CLIP_STOP_TIMER (R196, R243): the stop takes effect in the pass of E. A generator with nothing queued is stopped already; a timer that was
removed too late stops nothing. -/
def State.clipStopFire (s : State) (seq : Nat) : State :=
  match s.fireTimer seq .clipStop with
  | none => s
  | some (s, t) =>
    let g := t.owner
    if t.ref.isNone then s
    else
      let s := s.setGen g { s.gen g with stopAt := some (max t.e (s.mfN + 1)), stopE := t.e, stops := (s.gen g).stops ++ t.ref.toList }
      if (s.gen g).clips.isEmpty then s.stopGen g else s
def execClipStopTimer (seq : Nat) (s : State) : Out := .next (s.clipStopFire seq)

/-! ## Observing windows (R245, R246) -/

/-- OBS_CTRL_WRITE (R245): the window in progress is discarded. -/
def State.obsCtrl (s : State) (v : Word) : State :=
  let s := s.writeReg Reg.GD_OBS_CTRL v
  { s with gd := { s.gd with obs := none } }
def execObsCtrlWrite (v : Word) (s : State) : Out := .next (s.pfWrite Reg.GD_OBS_CTRL (fun s => s.obsCtrl v))

/-- W of the windows; 15 acts as 14. -/
def State.obsW (s : State) : Nat := min 14 (s.f Reg.GD_OBS_CTRL_W)

/-- A window that begins now: its largest values start from what stands (R246). -/
def State.obsNew (s : State) : ObsWin :=
  { ObsWin.new s.mfN s.obsW with
    satin := s.inSatin, relMax := s.releaseUsed, timersMax := s.gd.timers.length
    prios := (List.range 8).map (fun q => { ObsPrio.zero with depthMax := s.depth q }) }

/-- A window begins at a multiple of its length (R245). -/
def State.obsBegin (s : State) : State :=
  if s.flag Reg.GD_OBS_CTRL_EN && s.gd.obs.isNone && s.mfN % 2 ^ s.obsW == 0 then
    { s with gd := { s.gd with obs := some s.obsNew } }
  else s

/-- At the mark that a window ends at, it takes no more events, and the next one begins (R245). Its counts of DSP cycles are drawn once (R246). -/
def State.obsMark (s : State) : State :=
  match s.gd.obs with
  | none => s.obsBegin
  | some o =>
    if o.start + 2 ^ o.w ≤ s.mfN then
      State.obsBegin { s with gd := { s.gd with obs := none, obsEnd := some { o with base := s.free } }, free := s.free + 256 }
    else s

/-- OBS_WINDOW_CLOSE (R245): a window whose microframes have passed becomes the dispatcher log page. -/
def State.obsClose (s : State) : State :=
  match s.gd.obsEnd with
  | none => s
  | some o =>
    let s := { s with gd := { s.gd with obsEnd := none, obsLast := some o } }
    let s := (s.setB Reg.GD_OBS_STATUS_VALID true).setF Reg.GD_OBS_START_LO_MF o.start
    s.setF Reg.GD_OBS_START_HI_MF (o.start / 2 ^ 32)
def execObsWindowClose (s : State) : Out := .next s.obsClose

end Sys2Proof.Machine
end

