-- ==== Sys2Proof/Machine/Stage.lean ====
section
/-! DEFINITION. Staging and committing the schedule (R123, R144 to R156, R421): the commands and what the switch and the rebase
do. -/

namespace Sys2Proof.Machine

/-- Endpoint or group that D1 names (R367): the handle, or group ID + 0x10_0000. -/
def stageKey (e : Sqe) : Nat := if sqeF e 1 31 1 = 1 then 0x100000 + sqeF e 1 0 14 else sqeHandle e

/-- The staging command of an entry. -/
def stageCmd (e : Sqe) : StageCmd :=
  match sqeOpcode e with
  | 0x88 => .add (stageKey e) (sqeF e 2 0 4) (sqeF e 2 16 16) (sqeF e 2 8 8) (sqeF e 3 0 1 == 1)
  | 0x89 => .remove (stageKey e)
  | _ => .group (sqeF e 1 0 14) (sqeF e 2 0 16) (sqeF e 2 16 3) (sqeF e 3 0 1 == 1)

/-- A staging command is applied, and its entry completes (R144 to R148, R123). -/
def State.stageNow (s : State) (r : EntryRef) (e : Sqe) : State :=
  let c := stageCmd e
  match s.applyStage r c with
  | .refused x =>
    let (d4, d5, d6, d7) := refuseDws x
    (s.completeM r e St.admissionRefused 0 d4 d5 d6 d7).showPool
  | .shareExceeded => (s.completeM r e St.shareExceeded).showPool
  | .ok s =>
    let s := s.showPool
    match c with
    | .add key .. => s.completeM r e St.ok 0 (BitVec.ofNat 32 (((s.stagedRec key).map (·.phase)).getD 0))
    | .remove _ => s.completeM r e St.ok
    | .group g .. => ((s.when (!s.isPartner) (fun s => s.writeGroup g))).completeM r e St.ok

/-- The device applies the command now, and so can meet the error: a PARTNER sends it to its HOLDER (R292), and while a commit is pending the
command is held and only its record is written (R150). -/
def State.meets (s : State) (h : StageHit) : Bool :=
  !s.isPartner && (match h with
    | .log _ => true
    | .list .. => !s.commitPending)

/-- What the application of a staging command meets in schedule memory (R435): the error is captured, a list of the shadow bank is marked
damaged, and the command ends with ABORTED; changes applied before it stay. -/
def State.stageHit (s : State) (r : EntryRef) (e : Sqe) (h : StageHit) : State :=
  match h with
  | .list a t k p out i =>
    let o := b2n out
    ((s.smError (listUnit t.val k p o true) a).damage t.val k p o (s.bankOf t.val k p o) i).completeM r e St.aborted
  | .log a => (s.smError tableUnit a).completeM r e St.aborted

/-- ENDPOINT_ADD, ENDPOINT_REMOVE and GROUP_SET: applied at once, or held while a commit is pending (R146, R150). -/
def State.stage (s : State) (r : EntryRef) (e : Sqe) : State :=
  if s.commitPending then
    if Config.logRecords < s.logAfter then
      let (d4, d5, d6, d7) := refuseDws ⟨10, 0, 0, 0, 0, Config.logRecords, s.logAfter⟩
      s.completeM r e St.admissionRefused 0 d4 d5 d6 d7
    else State.showPool { s with ts := { s.ts with held := s.ts.held ++ [(r, e)] } }
  else s.stageNow r e

/-- Apply the held commands in execution order (R150, R151). -/
def State.applyHeld (s : State) : State :=
  let l := s.ts.held
  (l.foldl (fun (s : State) x => s.stageNow x.1 x.2) { s with ts := { s.ts with held := [] } }).showPool

/-- SCHEDULE_COMMIT (R23, R149, R151, R152). `now` is the microframe in which the command took its place in the order (R292). -/
def State.scheduleCommit (s : State) (r : EntryRef) (e : Sqe) (now : Nat) : State :=
  let m := sqeMf e 2
  if m < now + s.commitLead then s.completeM r e St.aborted
  else match s.ts.commit with
    | none => s.beginCommit m [r]
    | some c =>
      if c.m ≠ m ∨ 62 * (m - 1 - now) < s.ts.held.length then s.completeM r e St.aborted
      else
        let s := s.applyHeld.seal
        { s with ts := { s.ts with commit := some { c with waiting := c.waiting ++ [r] } } }

/-- A pending commit that cannot reach its M (R123): its entries complete with ABORTED; nothing is committed, and the staged
changes stay staged (R23). -/
def State.abortCommit (s : State) : State :=
  match s.ts.commit with
  | none => s
  | some c =>
    let s := { s with
      ts := { s.ts with commit := none, log := s.ts.sealed_ ++ s.ts.log, sealed_ := [] }
      tree := { s.tree with groupFail := false } }
    let s := (s.inCqeOrder id c.waiting).foldl (fun (s : State) (r : EntryRef) => s.completeRefM r St.aborted) s.showCommit
    s.applyHeld.step12Resume

/-- Bindings that the sealed group changes bring (R123): (device × 8 + endpoint, group), 0xFFFF to unbind. -/
def State.newBindings (s : State) : List (Nat × Nat) :=
  s.ts.sealed_.foldl (fun l r => match r.cmd with
    | .group g d ep join =>
      let k := d * 8 + ep
      let now := match s.dev d with | some x => Tbl.get (fun _ => none) x.bindings ep | none => none
      let was := match l.find? (fun x => x.1 == k) with | some x => some x.2 | none => now
      let l := l.filter (fun x => x.1 != k)
      if join then l ++ [(k, g)] else if was = some g then l ++ [(k, 0xFFFF)] else (match was with | some w => l ++ [(k, w)] | none => l)
    | _ => l) []

/-- The sealed changes hold a group change. -/
def State.groupsSealed (s : State) : Bool :=
  s.ts.sealed_.any (fun r => match r.cmd with | .group .. => true | _ => false)

/-- The committed bindings are those in force (R123): what the TM's record of each device holds. The nodes learn them from the mark on. -/
def State.bindNow (s : State) : State :=
  s.tree.binding.foldl (fun s x => match s.dev (x.1 / 8) with
    | some d => s.setDev (x.1 / 8) (some { d with
        bindings := Tbl.set (fun _ => none) d.bindings (x.1 % 8) (if x.2 = 0xFFFF then none else some x.2) })
    | none => s) s

/-- SCHEDULE_BANK_SWITCH (R149): in the Tulle band of M − 1. -/
def State.bankSwitch (s : State) : State :=
  match s.ts.commit with
  | none => s
  | some c =>
    if c.switched ∨ s.mfN + 1 ≠ c.m then s
    else
      let s := s.advanceTo Config.fillTick
      let s := if s.groupsSealed then State.bindNow { s with tree := { s.tree with binding := s.newBindings, bindM := c.m } } else s
      let s := s.switchBank
      State.showPool { s with ts := { s.ts with commit := some { c with switched := true }, lastM := c.m } }
def execScheduleBankSwitch (s : State) : Out := .next s.bankSwitch

/-- From the mark of M the rebase of a commit that has switched is in progress (R149). -/
def State.showRebase (s : State) : State :=
  match s.ts.commit with
  | some c => if c.switched ∧ c.m ≤ s.mfN then s.setB Reg.TS_STATUS_REBASING true else s
  | none => s

/-- REBASE_END (R149, R150): the commit's entries complete with OK, and the held commands are applied. -/
def State.rebaseEnd (s : State) : State :=
  match s.ts.commit with
  | none => s
  | some c =>
    if c.switched ∧ c.m ≤ s.mfN then
      let s := s.rebase
      let s := State.showCommit { s with ts := { s.ts with commit := none } }
      let s := (s.inCqeOrder id c.waiting).foldl (fun (s : State) (r : EntryRef) =>
        s.completeRefM r St.ok 0 (BitVec.ofNat 32 c.m) (BitVec.ofNat 32 (c.m / 2 ^ 32))) s
      s.serveWaits.applyHeld.step12Resume
    else s
def execRebaseEnd (s : State) : Out := .next s.rebaseEnd

/-- SET_SHARE (R421, R156): from the first frame mark strictly after it executes. -/
def State.setShare (s : State) (r : EntryRef) (e : Sqe) : State :=
  let f := sqeF e 1 0 11
  let cap := (sqeDw e 3).toNat
  let sh : Share := ⟨sqeF e 2 0 16, if f = 0 ∨ cap = 0xFFFFFFFF then none else some cap⟩
  let occ := s.occupancy f
  let s := { s with ts := { s.ts with newShares := s.ts.newShares ++ [(f, sh, (s.mfN / 8 + 1) * 8)] } }
  s.completeM r e St.ok 0 (BitVec.ofNat 32 occ)

/-- Shares that take effect at this frame mark (R156). -/
def State.takeShares (s : State) : State :=
  let (now, later) := s.ts.newShares.partition (fun x => decide (x.2.2 ≤ s.mfN))
  let t := now.foldl (fun t x => Tbl.set Share.reset t x.1 x.2.1) s.ts.shares
  { s with ts := { s.ts with shares := t, newShares := later } }

end Sys2Proof.Machine
end

