-- ==== Sys2Proof/Machine/Recv.lean ====
section
/-! DEFINITION. The commands of received packets and of their windows (R44, R45, R55, R58, R62 to R64, R166, R407). -/

namespace Sys2Proof.Machine

/-- A response matches no open transaction (R45). -/
def State.unmatched (s : State) (t : Nat) : State := s.bump (Reg.TS_RESP_ERRORS_UNMATCHED (t % 192))

/-- Key of the transaction that FLAGS and TAG of a response name (R44). -/
def respKey (t : Nat) (flags : Byte) (tag : Nat) : Nat := npKey t (b2n (nbit flags.toNat 5)) tag
/-- NP of a response. -/
def respNp (flags : Byte) : Bool := nbit flags.toNat 6

/-- A packet reaches the receiver of trunk `t` with its HOPS (R31, R76, R112): with delineation lost none does, and one with HOPS of 7 or more is
discarded and counted at the port. -/
def State.receives (s : State) (t hops : Nat) (op : State → State) : State :=
  if (s.trunk t).delinLost then s
  else if 7 ≤ hops then s.updPort t (fun r => { r with discards := min (r.discards + 1) 65535 })
  else op s

/-! ## Periodic responses -/

def State.per (s : State) (k : Nat) : Option PerTx := Tbl.get (fun _ => none) s.bus.per k
def State.setPer (s : State) (k : Nat) (r : Option PerTx) : State :=
  { s with bus := { s.bus with per := Tbl.set (fun _ => none) s.bus.per k r } }

/-- The open transaction is an IN, or a CSPLIT with an inner IN (R45). -/
def perIn (x : PerTx) : Bool := x.kind == Pk.in_ || (x.kind == Pk.csplit && x.inner == 0)

/-- The open transaction for which a periodic IN DATA is accepted (R45): that of its key, or another of the trunk with its HANDLE
and SEQ. -/
def State.matchIn (s : State) (t : Nat) (d : DataPkt) : Option Nat :=
  let fits (x : PerTx) : Bool := perIn x && !x.got && x.handle == d.handle.toNat && x.seq == d.seq.toNat
  let k := respKey t d.flags d.tag.toNat
  match s.per k with
  | some x => if fits x then some k else
      (s.bus.per.find? (fun e => e.1 / 8192 == t && (match e.2 with | some y => fits y | none => false))).map (·.1)
  | none => (s.bus.per.find? (fun e => e.1 / 8192 == t && (match e.2 with | some y => fits y | none => false))).map (·.1)

/-- The input cut-off of the pass that microframe `m` (16 bits) feeds has closed (R14). -/
def State.cutOffOver (s : State) (m : Nat) : Bool :=
  let n := s.mfN % 65536
  !(n == m) && (!(n == (m + 1) % 65536) || s.time.cutOff || decide (Config.cutTick ≤ s.time.phase))

/-- PERIODIC_IN_DATA: a payload longer than its token's LENGTH, or than the half of the slot it would be written to, is oversize (R45, R169). -/
def State.periodicIn (s : State) (t : Nat) (d : DataPkt) : State :=
  if respNp d.flags then s.unmatched t
  else match s.matchIn t d with
    | none => s.unmatched t
    | some k =>
      let len := ((s.per k).map (·.len)).getD 0
      let s := s.setPer k ((s.per k).map (fun x => { x with got := true }))
      if len < d.payload.length ∨ s.halfBytes d.handle.toNat d.seq.toNat < d.payload.length then s.bump (Reg.TS_RESP_ERRORS_OVERSIZE (t % 192))
      else if s.cutOffOver d.seq.toNat then s.bump (Reg.TS_LATE_INPUT_COUNT t)
      else
        let (s, new) := s.acceptIn d.handle.toNat d.seq.toNat d.payload
        if new then s.blockNotice d.handle.toNat else s
def execPeriodicInData (t : Trunk) (d : DataPkt) (s : State) : Out := .next (s.receives t.val d.hops.toNat (fun s => s.periodicIn t.val d))

/-- A handshake that answers a periodic split (R62, R63): the ACK of an SSPLIT is remembered for its CSPLIT, a NAK is counted,
and the answer of a CSPLIT ends it. An answer of an SSPLIT that comes at the end of its window or later is late (R4, R58). -/
def State.periodicAnswer (s : State) (t : Nat) (kind : Nat) (h : Handshake) : State :=
  let k := respKey t h.flags h.tag.toNat
  match s.per k with
  | none => s.unmatched t
  | some x =>
    if x.got then s.unmatched t
    else if x.kind = Pk.ssplit then
      if x.start + s.rttOf x.handle + 50 ≤ s.now then s.unmatched t
      else if kind = Pk.ack then
        let s := s.setPer k none
        let l := x :: Tbl.get (fun _ => []) s.bus.splits t
        { s with bus := { s.bus with splits := Tbl.set (fun _ => []) s.bus.splits t l } }
      else if kind = Pk.nak then (s.setPer k none).bump (Reg.TS_SPLIT_NAKS_NAKS t)
      else s.unmatched t
    else if x.kind = Pk.csplit then
      if (kind = Pk.ack ∧ x.inner = 1) ∨ kind = Pk.nyet ∨ kind = Pk.err ∨ kind = Pk.stall then s.setPer k none
      else s.unmatched t
    else s.unmatched t

/-! ## Non-periodic responses -/

/-- The open transaction that a non-periodic response names, while its window is open (R44, R58). -/
def State.npFind (s : State) (t : Nat) (flags : Byte) (tag : Nat) : Option (Nat × NpTx) :=
  let k := respKey t flags tag
  match s.npTx k with
  | some x => if x.kind ≠ 0 ∧ s.now < x.close then some (k, x) else none
  | none => none

/-- A PARTNER returns a non-periodic response to the HOLDER (R298). -/
def State.relayBack (s : State) (f : RelayFrame) : State := s.sendTimed (.relay f)

/-- ACK_RECEIVED (R55, R59, R62). -/
def State.gotAck (s : State) (t : Nat) (h : Handshake) : State :=
  if !respNp h.flags then s.periodicAnswer t Pk.ack h
  else match s.npFind t h.flags h.tag.toNat with
    | none => s.unmatched t
    | some (k, x) =>
      match lockView x.xfer with
      | some v => if x.seq = 1 ∨ x.seq = 3 ∨ x.seq = 7 then s.unmatched t else (s.closeTx k).lockAnswer v x.seq []
      | none =>
        if x.kind = Pk.ssplit then
          let s := s.closeTx k
          (s.updXfer x.xfer (fun r => { r with
            nakCount := 0, nakMf := none
            att := setAtt r.att { attOf r.att x.seq with split := some (x.mf + 2, x.exp) } })).afterTx x.xfer
        else if x.kind = Pk.bulkOut ∨ x.kind = Pk.setup ∨ (x.kind = Pk.csplit ∧ x.inner ≠ 4) then
          ((s.closeTx k).ackXfer x.xfer x.seq).afterTx x.xfer
        else s.unmatched t

/-- NAK_RECEIVED (R58, R63, R408). -/
def State.gotNak (s : State) (t : Nat) (h : Handshake) : State :=
  if !respNp h.flags then s.periodicAnswer t Pk.nak h
  else match s.npFind t h.flags h.tag.toNat with
    | none => s.unmatched t
    | some (k, x) =>
      match lockView x.xfer with
      | some v => (s.closeTx k).lockFail v false
      | none =>
        if x.kind = Pk.csplit ∨ x.kind = Pk.ping then s.unmatched t
        else ((s.closeTx k).nakAttempt x.xfer x.seq x.start).afterTx x.xfer

/-- STALL_RECEIVED (R58): the transfer ends, and the endpoint is halted; endpoint 0 takes the next SETUP. -/
def State.gotStall (s : State) (t : Nat) (h : Handshake) : State :=
  if !respNp h.flags then s.periodicAnswer t Pk.stall h
  else match s.npFind t h.flags h.tag.toNat with
    | none => s.unmatched t
    | some (k, x) =>
      match lockView x.xfer with
      | some v => (s.closeTx k).lockStall v
      | none =>
        if x.kind = Pk.ssplit ∨ x.kind = Pk.ping then s.unmatched t
        else
          let s := s.closeTx k
          let s := if x.handle % 8 = 0 then s else (s.setCf x.handle Cx.halted 1).tellCtx x.handle
          s.endXfer x.xfer St.stall

/-- NYET_RECEIVED (R63): of a non-periodic CSPLIT it acts as a NAK, and the CSPLIT goes again. -/
def State.gotNyet (s : State) (t : Nat) (h : Handshake) : State :=
  if !respNp h.flags then s.periodicAnswer t Pk.nyet h
  else match s.npFind t h.flags h.tag.toNat with
    | none => s.unmatched t
    | some (k, x) =>
      if x.kind = Pk.csplit then
        let s := (s.closeTx k).nakAttempt x.xfer x.seq x.start
        (s.updXfer x.xfer (fun r => { r with
          att := setAtt r.att { attOf r.att x.seq with split := some (s.mfN + 1, x.exp) } })).afterTx x.xfer
      else s.unmatched t

/-- ERR_RECEIVED (R63, R65): of a non-periodic CSPLIT it is a failed attempt, whose retry waits for the end of its window; it fails
a locked sequence. -/
def State.gotErr (s : State) (t : Nat) (h : Handshake) : State :=
  if !respNp h.flags then s.periodicAnswer t Pk.err h
  else match s.npFind t h.flags h.tag.toNat with
    | none => s.unmatched t
    | some (k, x) =>
      match lockView x.xfer with
      | some v => (s.closeTx k).lockFail v false
      | none =>
        if x.kind = Pk.csplit then (s.setNpTx k (some { x with kind := 0 })).failAttempt x.xfer x.seq else s.unmatched t

/-- LOCK_ACK_RECEIVED (R64, R405). -/
def State.gotLockAck (s : State) (t : Nat) (h : Handshake) : State :=
  match (if respNp h.flags then s.npFind t h.flags h.tag.toNat else none) with
  | none => s.unmatched t
  | some (k, x) =>
    match lockView x.xfer with
    | some v => if x.seq = 1 then (s.closeTx k).lockAnswer v 1 [] else s.unmatched t
    | none => s.unmatched t

/-- LOCK_BUSY_RECEIVED (R407). -/
def State.gotLockBusy (s : State) (t : Nat) (h : Handshake) : State :=
  match (if respNp h.flags then s.npFind t h.flags h.tag.toNat else none) with
  | none => s.unmatched t
  | some (k, x) =>
    match lockView x.xfer with
    | some v => if x.seq = 1 then (s.closeTx k).lockFail v true else s.unmatched t
    | none => s.unmatched t

/-- A handshake by its KIND; a PARTNER returns those of relayed attempts. -/
def State.gotHandshake (s : State) (t kind : Nat) (h : Handshake) : State :=
  if s.isPartner && respNp h.flags then s.relayBack (.gotHandshake (Fin.ofNat 192 t) (BitVec.ofNat 8 kind) h)
  else if kind = Pk.ack then s.gotAck t h
  else if kind = Pk.nak then s.gotNak t h
  else if kind = Pk.stall then s.gotStall t h
  else if kind = Pk.nyet then s.gotNyet t h
  else if kind = Pk.err then s.gotErr t h
  else if kind = Pk.lockAck then s.gotLockAck t h
  else if kind = Pk.lockBusy then s.gotLockBusy t h
  else s.unmatched t
def execAckReceived (t : Trunk) (h : Handshake) (s : State) : Out := .next (s.receives t.val h.hops.toNat (fun s => s.gotHandshake t.val Pk.ack h))
def execNakReceived (t : Trunk) (h : Handshake) (s : State) : Out := .next (s.receives t.val h.hops.toNat (fun s => s.gotHandshake t.val Pk.nak h))
def execStallReceived (t : Trunk) (h : Handshake) (s : State) : Out := .next (s.receives t.val h.hops.toNat (fun s => s.gotHandshake t.val Pk.stall h))
def execNyetReceived (t : Trunk) (h : Handshake) (s : State) : Out := .next (s.receives t.val h.hops.toNat (fun s => s.gotHandshake t.val Pk.nyet h))
def execErrReceived (t : Trunk) (h : Handshake) (s : State) : Out := .next (s.receives t.val h.hops.toNat (fun s => s.gotHandshake t.val Pk.err h))
def execLockAckReceived (t : Trunk) (h : Handshake) (s : State) : Out := .next (s.receives t.val h.hops.toNat (fun s => s.gotHandshake t.val Pk.lockAck h))
def execLockBusyReceived (t : Trunk) (h : Handshake) (s : State) : Out := .next (s.receives t.val h.hops.toNat (fun s => s.gotHandshake t.val Pk.lockBusy h))

/-- SEQ of a DATA is one that its transaction can accept (R45, R56, R173). -/
def State.seqFits (s : State) (x : NpTx) (q : Nat) : Bool :=
  match s.xfer x.xfer with
  | none => false
  | some r =>
    match r.kind with
    | .bulkIn | .tunnelRx =>
      let w := s.windowOf r
      decide (seqDist x.exp q < w) && decide (seqDist r.next q < w) && !(r.bufs.any (fun b => b.seq % w == q % w))
    | _ => q == x.exp

/-- NP_DATA_RECEIVED (R45, R56, R59, R62). -/
def State.gotData (s : State) (t : Nat) (d : DataPkt) : State :=
  if s.isPartner && respNp d.flags then s.relayBack (.gotData (Fin.ofNat 192 t) d)
  else match (if respNp d.flags then s.npFind t d.flags d.tag.toNat else none) with
    | none => s.unmatched t
    | some (k, x) =>
      if !(x.kind == Pk.bulkIn || x.kind == Pk.ping || (x.kind == Pk.csplit && x.inner == 4)) || x.handle != d.handle.toNat then
        s.unmatched t
      else
        match lockView x.xfer with
        | some v =>
          if d.seq.toNat ≠ x.exp then s.unmatched t
          else if x.len < d.payload.length then s.bump (Reg.TS_RESP_ERRORS_OVERSIZE (t % 192))
          else (s.closeTx k).lockAnswer v x.seq d.payload
        | none =>
          if x.kind = Pk.ping then
            if x.len < d.payload.length then s.bump (Reg.TS_RESP_ERRORS_OVERSIZE (t % 192))
            else (s.closeTx k).pingDone t x.start
          else if !s.seqFits x d.seq.toNat then s.unmatched t
          else if x.len < d.payload.length then s.bump (Reg.TS_RESP_ERRORS_OVERSIZE (t % 192))
          else ((s.closeTx k).dataXfer x.xfer d.seq.toNat d.payload (nbit d.flags.toNat 0)).afterTx x.xfer
def execNpDataReceived (t : Trunk) (d : DataPkt) (s : State) : Out := .next (s.receives t.val d.hops.toNat (fun s => s.gotData t.val d))

/-! ## Windows and tags (R44, R58, R63) -/

/-- The non-periodic attempt of a key whose response window is over (R4, R58): of trunk `t` itself, or the relayed one. -/
def State.npOver (s : State) (t mfp tag : Nat) : Option (Nat × NpTx) :=
  let closed (k : Nat) : Option (Nat × NpTx) := match s.npTx k with
    | some x => if x.close ≤ s.now then some (k, x) else none
    | none => none
  (closed (npKey t mfp tag)).or (closed (npKey (t + 192) mfp tag))

/-- RESPONSE_WINDOW_CLOSE: an attempt without an accepted response fails; a periodic SSPLIT without an answer has no CSPLIT. A window that
is not over stays open. -/
def State.windowClose (s : State) (t : Nat) (np mfp : Bool) (tag : Nat) : State :=
  if !np then
    let k := npKey t (b2n mfp) tag
    match s.per k with
    | some x =>
      if x.kind = Pk.ssplit ∧ x.start + s.rttOf x.handle + 50 ≤ s.now then (s.setPer k none).bump (Reg.TS_SPLIT_NAKS_NO_ANSWER t)
      else s
    | none => s
  else
    match s.npOver t (b2n mfp) tag with
    | none => s
    | some (k, x) =>
      let s := s.closeTx k
      match lockView x.xfer with
      | some v => s.lockFail v false
      | none =>
        if x.kind = Pk.ping then s.pingLate (k / 8192)
        else if x.kind = 0 then s.afterTx x.xfer
        else (s.failAttempt x.xfer x.seq).afterTx x.xfer
def execResponseWindowClose (t : Trunk) (np mfp : Bool) (tag : BitVec 12) (s : State) : Out :=
  .next (s.windowClose t.val np mfp tag.toNat)

/-- TAG_REUSE_EXPIRY: the quarantine of a tag is over once its 6,250 ticks have passed (R44). -/
def execTagReuseExpiry (t : Trunk) (tag : BitVec 12) (s : State) : Out :=
  .next { s with bus := { s.bus with
    quarantine := [t.val, t.val + 192].foldl (fun (q : Tbl (Option Nat)) (u : Nat) =>
      match Tbl.get (fun _ => none) q (u * 4096 + tag.toNat) with
      | some x => if s.now < x then q else Tbl.set (fun _ => none) q (u * 4096 + tag.toNat) none
      | none => q) s.bus.quarantine } }

end Sys2Proof.Machine
end

