-- ==== Sys2Proof/Machine/Walk.lean ====
section
/-! DEFINITION. The trunk walkers (R132 to R138, R50, R51): the walk of a microframe, deferral, the periodic transactions; and the
non-periodic fill with its shares (R154, R155, R298). -/

namespace Sys2Proof.Machine

def State.walk (s : State) (t : Nat) : WalkRec := Tbl.get (fun _ => WalkRec.reset) s.ts.walks t
def State.setWalk (s : State) (t : Nat) (w : WalkRec) : State :=
  { s with ts := { s.ts with walks := Tbl.set (fun _ => WalkRec.reset) s.ts.walks t w } }

/-! ## What an entry sends (R133, R171) -/

/-- A port on the path holds the device in low power (R108, R133). A port that is RESUMING does so too (DEDUCED, log entry 52). -/
def State.pathAsleep (s : State) (t : Nat) (d : DevRec) : Bool :=
  ((hopsVia d t).getD []).any (fun x => match s.hubPort x.1 x.2 with | some r => r.state == 5 || r.state == 6 | none => false)

/-- The walker of trunk `t` sends something for the entry (R133, R136, R267), whatever its slot holds. In a pair a device is sent to by its own
root port alone (R272). -/
def State.permitted (s : State) (t : Nat) (e : PEnt) : Bool :=
  (!s.inSatin || e.emerg) &&
  (if e.kind = 2 then
    nbit (s.rootGroup e.handle s.tree.groupBank) t &&
      !(let on := (s.listeners e.handle).filter (fun d => (devRoots d).contains t)
        !on.isEmpty && on.all (fun d => s.rests t d.addr))
  else
    s.cf e.handle Cx.valid == 1 && s.cf e.handle Cx.detached == 0 && !s.rests t (e.handle / 16) &&
      (match s.dev (e.handle / 16) with
       | some d => (s.role == 0 || (devRoots d).contains t) && !s.pathAsleep t d
       | none => true))

/-- Inner token of a split entry (R40): 0 for IN, 1 for OUT. -/
def entInner (k : Nat) : Nat := if k = 4 ∨ k = 6 then 1 else 0

/-- The SSPLIT of microframe m − 2 that the entry's CSPLIT, due in m, collects has been acknowledged (R62, R63). -/
def State.splitDone (s : State) (t m : Nat) (e : PEnt) : Bool :=
  (Tbl.get (fun _ => []) s.bus.splits t).any (fun x =>
    x.handle == e.handle && x.inner == entInner e.kind && x.seq == (m + 65534) % 65536)

/-- The block that the entry carries in microframe `m`, for the kinds that carry one (R170 to R172). -/
def State.entBlock (s : State) (m : Nat) (e : PEnt) : Option (List Byte) :=
  if e.kind = 2 then s.groupBlock e.handle m else s.outBlock e.handle m

/-- The kind carries a block. -/
def carries (k : Nat) : Bool := k == 1 || k == 2 || k == 4

/-- A transaction goes out for the entry in microframe `m`, when it was due in microframe `d`: the same, or the one before (R138). -/
def State.sends (s : State) (t m d : Nat) (e : PEnt) : Bool :=
  s.permitted t e && (!carries e.kind || (s.entBlock m e).isSome) && (!(e.kind == 5 || e.kind == 6) || s.splitDone t d e)

/-- A transaction goes out for the entry in microframe `m`, in which it is due. -/
def State.transmits (s : State) (t m : Nat) (e : PEnt) : Bool := s.sends t m m e

/-- KIND of an entry's token. -/
def entToken (k : Nat) : Nat :=
  match k with
  | 0 => Pk.in_
  | 1 => Pk.out
  | 2 => Pk.mout
  | 3 => Pk.ssplit
  | 4 => Pk.ssplit
  | _ => Pk.csplit

/-- A block is missing for an OUT transaction (R171, R172). -/
def State.outMissing (s : State) (e : PEnt) : State :=
  if e.kind = 2 then
    let r := s.groupSlot e.handle
    s.setGroupSlot e.handle { r with missing := min (r.missing + 1) 65535 }
  else s.bumpCf e.handle Cx.missing

/-- TWILL of the entry's packets (R50, R129): its target lies in a dual-homed subtree; for a group, a member that this trunk serves did when the entry was staged, or does now. -/
def State.entTwill (s : State) (t : Nat) (e : PEnt) : Bool :=
  if e.kind = 2 then e.twill || (s.listeners e.handle).any (fun d => (devRoots d).contains t && d.path1.isSome) else s.cf e.handle Cx.twill == 1

/-- Send the transaction of an entry that was due in microframe `d`, with the next tag (R47, R48, R50, R62, R133, R134). A walk of a device that is mute takes the tag and opens
the transaction, and sends nothing (R304); nor does anything go out once PERST_N is asserted (R468). SEQ of a CSPLIT is the microframe of its own
sending (R50, R134) and not that of its SSPLIT (R62; DEDUCED, log entry 50). A walk in SATIN of more than 4,096 entries goes on with the
tags from 0 (DESIGN CHOICE, log entry 51). -/
def State.sendPer (s : State) (t d : Nat) (e : PEnt) (b : Option (List Byte)) : State :=
  let w := s.walk t
  let m := s.mfN % 65536
  let fl := pktFlags false (s.entTwill t e) false false (e.kind == 2) false m (s.pathOf t)
  let len := match b with | some b => b.length | none => e.length
  let quiet := s.mute || s.ck.fundamental
  let s := if quiet then s else s.emit (.pkt t ⟨entToken e.kind, fl, w.tag % 4096, e.handle, entInner e.kind, len, m, []⟩)
  let s := match b with
    | some b => if quiet then s else s.emit (.pkt t ⟨Pk.data, fl, w.tag % 4096, e.handle, 0, b.length, m, b⟩)
    | none => s
  let s := if e.kind = 1 ∨ e.kind = 2 then s
    else s.setPer (npKey t m (w.tag % 4096)) (some ⟨entToken e.kind, entInner e.kind, e.handle, m, e.length, s.now, false⟩)
  let s := if e.kind = 5 ∨ e.kind = 6 then
      let l := (Tbl.get (fun _ => []) s.bus.splits t).filter (fun x =>
        !(x.handle == e.handle && x.inner == entInner e.kind && x.seq == (d + 65534) % 65536))
      { s with bus := { s.bus with splits := Tbl.set (fun _ => []) s.bus.splits t l } }
    else s
  let s := if quiet then s
    else (s.bump (Reg.TS_PERIODIC_SENT_COUNT t)).when (e.kind == 2) (fun s => s.bump (Reg.TS_MC_SENT_COUNT t))
  s.setWalk t { w with tag := w.tag + 1, sent := w.sent + b2n !quiet }

/-- Visit an entry that was due in microframe `d`, before the Tulle band. -/
def State.visit (s : State) (t d : Nat) (e : PEnt) : State :=
  if !s.permitted t e then s
  else if carries e.kind then
    match s.entBlock s.mfN e with
    | some b => s.sendPer t d e (some b)
    | none => s.outMissing e
  else if s.sends t s.mfN d e then s.sendPer t d e none
  else s

/-- The start of the entry's transaction is too late in this microframe: it falls in the Tulle band (R5), or, for a poll of an IN endpoint,
at the poll issue limit of the trunk or later (R15). What becomes of a poll at its limit no rule says: it is deferred as in the band (DESIGN
CHOICE, log entry 39). -/
def State.tooLate (s : State) (t : Nat) (e : PEnt) : Bool :=
  decide (Config.fillTick ≤ s.time.phase) ||
    ((e.kind == 0 || e.kind == 5) && decide (4375 ≤ s.time.phase + s.f (Reg.TM_PORT_RTT_RTT t)))

/-- An entry is deferred (R5, R137). -/
def State.deferEnt (s : State) (t : Nat) (e : PEnt) : State :=
  let w := s.walk t
  let s := (s.bump (Reg.TS_DEFERRED_PERIODIC t)).bump Reg.TS_DEFER_TOTAL_COUNT
  let s := if w.overrun then s else s.bump (Reg.TS_WALK_OVERRUN_COUNT t)
  s.setWalk t { w with carry := w.carry ++ [e], overrun := true }

/-- OUT entries that a damaged list keeps from being sent are missing (R435). -/
def State.unsent (s : State) (t : Nat) (l : List PEnt) : State :=
  l.foldl (fun s e => if outKind e.kind = 1 ∧ s.permitted t e then s.outMissing e else s) s

/-- An entry whose turn falls too late: what it would send is deferred, and an OUT without a block is missing as at any other time (R137,
R171). That the missing block is counted at this turn is the model's reading (DESIGN CHOICE, log entry 39). -/
def State.lateVisit (s : State) (t m : Nat) (e : PEnt) : State :=
  if s.transmits t m e then s.deferEnt t e
  else s.when (s.permitted t e && carries e.kind) (fun s => s.outMissing e)

/-- The walker visits its next entry (R132, R133, R137, R138). Too late in the microframe it defers it, or drops one that was deferred
already. -/
def State.walkNext (s : State) (t : Nat) : State :=
  if !s.trunkRuns t then s
  else
    let w := s.walk t
    match w.deferred, w.rest with
    | e :: r, _ =>
      let s := s.setWalk t { w with deferred := r }
      if s.tooLate t e then s.bump (Reg.TS_DROPPED_COUNT t) else s.visit t (s.mfN - 1) e
    | [], e :: r =>
      let s := s.setWalk t { w with rest := r }
      if s.tooLate t e then s.lateVisit t s.mfN e else s.visit t s.mfN e
    | [], [] => s

/-- The next entry cannot be read (R435): the walker abandons the rest of its list in this walk, and the list is marked damaged from there
on. An entry deferred before is not read again. -/
def State.listHit (s : State) (t addr : Nat) : State :=
  let w := s.walk t
  match w.deferred, w.rest with
  | [], e :: l =>
    let tree := s.treeOf t
    let out := outKind e.kind
    let i := (s.entries (listIx (nodeIx tree e.k e.phase) out) s.bank).findIdx (· == e)
    let s := (s.smError (listUnit tree e.k e.phase out false) addr).damage tree e.k e.phase out s.bank i
    let (gone, stay) := (e :: l).partition (fun x => x.k == e.k && x.phase == e.phase && outKind x.kind == out)
    (s.setWalk t { w with rest := stay }).unsent t gone
  | _, _ => s

/-- WALKER_ISSUE (R132, R133, R137, R138): the visit, after what its reads find (R176, R178, R435). -/
def State.walkerIssue (s : State) (t : Nat) (hit : Option WalkHit) : State :=
  if !s.trunkRuns t then s
  else match hit with
    | none => s.walkNext t
    | some (.list a) => s.listHit t a
    | some (.ebm x) => (s.ebmHit x 1).walkNext t
    | some (.parity a) => (s.linkParity t a).walkNext t
def execWalkerIssue (t : WalkAt) (s : State) : Out := .next (s.walkerIssue t.trunk.val t.hit)

/-! ## The walk of a microframe (R132, R136, R138) -/

/-- The EMERG entries that a SATIN walk takes (R136): those due, and at k below 3 all. -/
def State.satinDue (s : State) (t m : Nat) : List PEnt :=
  let lists (out : Nat) : List PEnt := levels.flatMap (fun k =>
    (if k < 3 then List.range (2 ^ k) else [m % 2 ^ k]).flatMap (fun p => s.entries (listIx (nodeIx t k p) out) s.bank))
  (lists 0 ++ lists 1).filter (·.emerg)

/-- What is due on trunk `t` in microframe `m`. -/
def State.walkDue (s : State) (t m : Nat) : List PEnt :=
  if s.inSatin then s.satinDue (s.treeOf t) m else s.due (s.treeOf t) s.bank m

/-- The walker of trunk `t` walks in microframe `m`: in SATIN only from frame marks. -/
def State.walks (s : State) (t m : Nat) : Bool := s.trunkRuns t && (!s.inSatin || m % 8 == 0)

/-- In lockstep the device keeps, for a trunk that its own walker does not walk while the peer's does, the tags of the inputs that the peer asks
for (R19, R134, R281). A CSPLIT counts as sent: whether the peer's SSPLIT was acknowledged is not known here (DESIGN CHOICE, log entry 47). -/
def State.ghostWalks (s : State) (t : Nat) : Bool :=
  s.role != 0 && s.lockstep && decide (t < 192) && !s.trunkRuns t && (s.portEnabled t || s.portEnabled (192 + t))

/-- The tag of an entry that only the peer sends, with its transaction when it asks for an input. -/
def State.ghostEnt (s : State) (t m : Nat) (e : PEnt) : State :=
  if s.permitted t e && (!carries e.kind || (s.entBlock m e).isSome) then
    let w := s.walk t
    let s := if e.kind = 0 ∨ e.kind = 5 then
        s.setPer (npKey t m (w.tag % 4096)) (some ⟨entToken e.kind, entInner e.kind, e.handle, m % 65536, e.length, s.now, false⟩)
      else s
    s.setWalk t { w with tag := w.tag + 1 }
  else s

/-- Entries that the ended microframe `m` leaves unsent: deferred ones are dropped, the others are deferred (R137, R138). -/
def State.endWalk (s : State) (t m : Nat) : State :=
  let w := s.walk t
  let s := if w.deferred.isEmpty then s else s.bump (Reg.TS_DROPPED_COUNT t) w.deferred.length
  let s := s.setWalk t { w with deferred := [], rest := [] }
  if s.trunkRuns t then w.rest.foldl (fun s e => s.lateVisit t m e) s
  else if s.ghostWalks t then w.rest.foldl (fun s e => s.ghostEnt t m e) s
  else s

/-- The schedule in force still holds the entry (R22): a transaction of a schedule that has been replaced does not start under the new
one. -/
def State.inForce (s : State) (t : Nat) (e : PEnt) : Bool :=
  (s.entries (listIx (nodeIx (s.treeOf t) e.k e.phase) (outKind e.kind)) s.bank).contains e

/-- The walk of microframe `m` begins (R132, R138): the deferred transactions that the schedule still holds, that are not due again and that
find a tag go first. Of a damaged list nothing is sent from its bad word on (R435). -/
def State.beginWalk (s : State) (t m : Nat) : State :=
  let w := s.walk t
  let s := s.setF (Reg.TS_TRUNK_STATUS_LAST_COUNT t) w.sent
  let all := if s.walks t m then s.walkDue t m else []
  let due := all.filter (s.sound (s.treeOf t))
  let s := s.unsent t (all.filter (fun e => !s.sound (s.treeOf t) e))
  let l := w.carry.filter (fun e => !due.any (fun x => x.handle == e.handle && x.kind == e.kind))
  let n := (due.filter (s.transmits t m)).length
  let keep := if s.walks t m then (l.filter (s.inForce t)).take (4096 - n) else []
  let lost := l.length - keep.length
  let s := if lost = 0 then s else s.bump (Reg.TS_DROPPED_COUNT t) lost
  let s := s.setWalk t { WalkRec.reset with deferred := keep, rest := due }
  if s.ghostWalks t && (!s.inSatin || m % 8 == 0) then
    ((s.walkDue t m).filter (s.sound (s.treeOf t))).foldl (fun s e => s.ghostEnt t m e) s
  else s

/-! ## Non-periodic fill (R154, R155) -/

/-- Transfers that could start an attempt on trunk `t`, oldest first, with their attempts. -/
def State.waiting (s : State) (t : Nat) : List (Nat × Xfer × List NpOut) :=
  s.bus.xfers.filterMap (fun e => match e.2 with
    | some r =>
      if s.xferTrunk r = t && s.ready_ e.1 r then
        let l := s.attempts e.1 r
        if l.isEmpty then none else some (e.1, r, l)
      else none
    | none => none)

/-- Class of a transfer (R154): the TM's, control, bulk and tunnel. -/
def xferClass (r : Xfer) : Nat :=
  match r.owner with
  | .tm _ => 0
  | _ => if isBulk r.kind then 2 else 1

/-- The classes that are served. -/
def State.served (s : State) (r : Xfer) : Bool := xferClass r != 2 || s.flag Reg.TS_CTRL_BULK_EN

def State.credit (s : State) (t f : Nat) : Int := Tbl.get (fun _ => 0) s.ts.credits (t * 2048 + f)
def State.setCredit (s : State) (t f : Nat) (c : Int) : State :=
  { s with ts := { s.ts with credits := Tbl.set (fun _ => 0) s.ts.credits (t * 2048 + f) c } }

/-- The function that is served next (R155): ascending, after the last one served; with credit, or with WEIGHT 0 when no other
has both credit and work. -/
def State.nextFn (s : State) (t : Nat) (fs : List Nat) : Option Nat :=
  let rich := fs.filter (fun f => (s.share f).weight != 0 && decide (0 < s.credit t f))
  let l := if rich.isEmpty then fs.filter (fun f => (s.share f).weight == 0) else rich
  let last := Tbl.get (fun _ => 2048) s.ts.lastFn t
  let lo (l : List Nat) : Option Nat := l.foldl (fun a f => match a with | some x => some (min x f) | none => some f) none
  (lo (l.filter (fun f => decide (last < f)))).or (lo l)

/-- The attempt that starts next on trunk `t`. -/
def State.pickNp (s : State) (t : Nat) (l : List (Nat × Xfer × List NpOut)) : Option (Nat × Xfer × List NpOut) :=
  match l.find? (fun e => xferClass e.2.1 == 0) with
  | some e => some e
  | none =>
    let cls (c : Nat) : Option (Nat × Xfer × List NpOut) :=
      let m := l.filter (fun e => xferClass e.2.1 == c)
      match s.nextFn t ((m.map (fun e => e.2.1.fn)).eraseDups) with
      | some f => m.find? (fun e => e.2.1.fn == f)
      | none => none
    (cls 1).or (cls 2)

/-- A bulk or tunnel endpoint that must be resynchronised has its CLEAR_STALL sent before its next transfer (R301, R425). -/
def State.askClear (s : State) (t : Nat) : State :=
  s.bus.xfers.foldl (fun s e => match e.2 with
    | some r =>
      if isBulk r.kind && s.bus.resync.contains r.handle && !r.clearStall && !s.behind e.1 r && s.xferTrunk r == t then
        (s.setXfer e.1 (some { r with clearStall := true })).pushTm (s.rootOf (r.handle / 16)) false
          [.clearStall (r.handle / 16) r.handle]
      else s
    | none => s) s

/-- A starting attempt takes its bytes from its function's credit. -/
def State.startNp (s : State) (t : Nat) (e : Nat × Xfer × List NpOut) : State :=
  match e.2.2 with
  | [] => s
  | o :: _ =>
    let f := e.2.1.fn
    let s := s.updXfer e.1 (fun r => { r with trunk := t })
    let s := s.sendNp t o
    if xferClass e.2.1 = 0 then s
    else
      let s := s.setCredit t f (s.credit t f - (o.bytes : Nat))
      { s with ts := { s.ts with lastFn := Tbl.set (fun _ => 2048) s.ts.lastFn t f } }

/-- Starts that a retraining slot holds are counted once each (R90, R154). -/
def State.holdStarts (s : State) (t : Nat) (l : List (Nat × Xfer × List NpOut)) : State :=
  l.foldl (fun s e =>
    let k := t * 2 ^ 40 + e.1
    if s.ts.retrainHeld.contains k then s
    else State.bump { s with ts := { s.ts with retrainHeld := k :: s.ts.retrainHeld } } (Reg.TS_RETRAIN_HOLDS_COUNT t)) s

/-- Relayed packets of trunk `t` that start a transaction: all but DATA (R39, R298). -/
def State.relayWaits (s : State) (t : Nat) : Nat :=
  (s.pu.relay.filter (fun x => x.1 == t && field x.2 0 1 != Pk.data)).length

/-- Starts of a PARTNER that a retraining slot holds are counted once each (R90, R154): the relayed packets of trunk t stand as t × 2^40 + 2^39
+ their place. -/
def State.holdRelay (s : State) (t : Nat) : State :=
  (List.range (s.relayWaits t)).foldl (fun s i =>
    let k := t * 2 ^ 40 + 2 ^ 39 + i
    if s.ts.retrainHeld.contains k then s
    else State.bump { s with ts := { s.ts with retrainHeld := k :: s.ts.retrainHeld } } (Reg.TS_RETRAIN_HOLDS_COUNT t)) s

/-- A PARTNER sends the oldest packet relayed for trunk `t` in its fill (R298); in a retraining slot no transaction starts (R154). -/
def State.relayOut (s : State) (t : Nat) : State :=
  if (s.trunk t).slotOn && (match s.pu.relay.find? (fun x => x.1 == t) with | some (_, b) => field b 0 1 != Pk.data | none => false) then
    s.holdRelay t
  else if s.trunkRuns t && !s.mute && s.walkOver t && decide (s.time.phase < Config.fillTick) && !s.inSatin then
    match s.pu.relay.find? (fun x => x.1 == t) with
    | some (_, b) =>
      let s := s.updPu (fun p => { p with relay := removeFirst (fun x => x.1 == t) p.relay })
      (s.emit (.raw t b)).bump (Reg.TS_NP_BYTES_COUNT t) b.length
    | none => s
  else s

/-- The PING that the TM has waiting goes out (R69, R154), with LENGTH 192. -/
def State.sendPing (s : State) (t dev : Nat) : State := s.sendNp t ⟨0, Pk.ping, 0, dev * 16 + 8, 0, 0, 192, false, false, false, none⟩

/-- What the fill of trunk `t` starts next: a PING is the TM's, of the first class. -/
def State.npStartOn (s : State) (t : Nat) : State :=
  if !s.npOpen t then s
  else
    let s := s.askClear t
    let l := (s.waiting t).filter (fun e => s.served e.2.1)
    if (s.trunk t).slotOn then s.holdStarts t l
    else match s.pingDue t with
      | some dev => s.sendPing t dev
      | none => match s.pickNp t l with
        | some e => s.startNp t e
        | none => s

/-- NP_TRANSACTION_START (R154, R155, R298): on the trunk itself, or, when nothing waits there, by relay on the PARTNER's. -/
def State.npStart (s : State) (t : Nat) : State :=
  if s.isPartner then s.relayOut t
  else if s.npOpen t && (!(s.waiting t).isEmpty || (s.pingDue t).isSome) then s.npStartOn t
  else if s.isHolder then (s.npStartOn t).npStartOn (t + 192)
  else s.npStartOn t

/-- A word of what would be sent fails its parity (R178): nothing starts. -/
def State.npParity (s : State) (t a : Nat) : State := if s.npOpen t && !(s.waiting t).isEmpty then s.linkParity t a else s
def execNpTransactionStart (t : SendAt) (s : State) : Out :=
  .next (match t.parity with
    | none => s.npStart t.trunk.val
    | some a => s.npParity t.trunk.val a)

/-- Non-periodic transactions that wait for a start on trunk `t`: attempts of transfers, a PING, and the LOCK of a sequence (R137, R406). -/
def State.npWaits (s : State) (t : Nat) : Nat :=
  ((s.waiting t).filter (fun e => s.served e.2.1)).foldl (fun a e => a + e.2.2.length) (b2n (s.pingDue t).isSome) +
    (s.xb.views.filter (fun v => match v.2.lock with
      | some l => l.trunk == t && !l.open_ && decide (l.notBefore ≤ s.now)
      | none => false)).length

/-- Non-periodic transactions that the microframe leaves waiting (R5, R137). Those that a HOLDER relays to its PARTNER's trunk count on the
HOLDER's trunk of the same number; what a retraining slot or BULK_EN = 0 holds is not held by the band and does not count (DESIGN CHOICE, log
entry 57). -/
def State.countNpDeferred (s : State) (t : Nat) : State :=
  if s.mute || s.inSatin then s
  else
    let own := if s.trunkRuns t && !(s.trunk t).slotOn then (if s.isPartner then s.relayWaits t else s.npWaits t) else 0
    let far := if s.isHolder && s.lockstep && s.portEnabled (t + 192) then s.npWaits (t + 192) else 0
    if own + far = 0 then s else s.bump (Reg.TS_DEFERRED_NONPERIODIC t) (own + far)

/-- At a frame mark every function with waiting work on a trunk gains WEIGHT × 1,024 bytes (R155). -/
def State.frameCredit (s : State) : State :=
  let s := s.bus.xfers.foldl (fun s e => match e.2 with
    | some r => s.setXfer e.1 (some { r with trunk := s.xferTrunk r })
    | none => s) s
  let work := (s.bus.xfers.filterMap (fun e => match e.2 with
    | some r => if xferClass r = 0 then none else some (r.trunk, r.fn)
    | none => none)).eraseDups
  work.foldl (fun s x => s.setCredit x.1 x.2 (s.credit x.1 x.2 + ((s.share x.2).weight * 1024 : Nat))) s

end Sys2Proof.Machine
end

