-- ==== Sys2Proof/Machine/Micro.lean ====
section
/-! DEFINITION. The microframe (R10 to R18): the mark, the input cut-off, the decision time, the fill deadline. -/

namespace Sys2Proof.Machine

/-! ## Marks and broadcasts (R42, R50, R66, R123, R312) -/

/-- Trunks that carry marks: ENABLED, in service, facing downstream, not silent in a Twill retraining, from a device that is not mute (R10,
R80, R91, R289). -/
def State.markTrunks (s : State) : List Nat :=
  s.trunks.filter (fun t => s.portEnabled t && s.rootRole t && !s.mute && s.inService t && !(s.trunk t).silent)

/-- The device enters SATIN at microframe `m` (R449). -/
def State.entersSatin (s : State) (m : Nat) : Bool :=
  (s.pm.entryAt == some m && s.f Reg.PMU_REQ_STATUS_TARGET == 2) || s.pu.switchAt == some (true, m)

/-- The next mark on the trunks follows 8 microframes after that of `m` (R42, R93). -/
def State.lowPower (s : State) (m : Nat) : Bool :=
  (s.inSatin || s.entersSatin m) && (match s.pm.step1At with | some x => decide (m + 8 ≤ x) | none => true)
    && (match s.pu.switchAt with | some (false, x) => decide (m + 8 ≤ x) | _ => true)

/-- Send the mark of microframe `m` (R10, R42), each right behind a SYNC block (R74, R75). -/
def State.sendMarks (s : State) (m : Nat) : State :=
  if s.inSatin && m % 8 != 0 then s
  else
    let low := s.lowPower m
    let s : State := { s with time := { s.time with marked := s.time.marked || !s.markTrunks.isEmpty } }
    s.markTrunks.foldl (fun s t =>
      let fl := b2n low + 2 * b2n (s.twillPair t).isSome + 4 * b2n (m % 8 == 0) + 128 * s.pathOf t
      let s := (s.emit (.ctl t Ct.sync 1)).emit (.pkt t ⟨Pk.mark, fl, s.f Reg.TM_CTRL_ROOT_ID, t, 0, 0, m % 65536, []⟩)
      -- behind a mark with LOWPOWER set the lanes enter LPI again (R93)
      s.when (low && (s.lanesOf t).all (fun n => s.laneState n == Ls.lpi)) (fun s => s.emit (.ctl t Ct.lpi (16 * s.width t)))) s

/-- Send a BCAST on every ENABLED trunk (R66). -/
def State.broadcast (s : State) (effect command arg : Nat) : State :=
  s.markTrunks.foldl (fun s t =>
    let fl := pktFlags false (s.twillPair t).isSome false false false false s.mfN (s.pathOf t)
    s.emit (.pkt t ⟨Pk.bcast, fl, effect % 65536, 0xFFFF0, 0, command, arg, []⟩)) s

/-- L_B (R312): ⌈RTT_max / 3,125⌉ + 1. -/
def State.leadB (s : State) : Nat := ceilDiv (s.trunks.foldl (fun a t => max a (s.f (Reg.TM_PORT_RTT_RTT t))) 0) 3125 + 1

/-- At the mark of M − L_B the TM sends SWITCH_GROUP_BANK for the sealed group changes, when every inactive bank has been written; otherwise the
commit is aborted, as it is when L_B has grown past the microframes that are left (R123). -/
def State.groupBroadcast (s : State) (m : Nat) : State :=
  match s.ts.commit with
  | none => s
  | some c =>
    if !s.groupsSealed ∨ c.switched ∨ s.tree.groupSent = c.m ∨ m + s.leadB < c.m then s
    else
      let open_ := s.tree.todo.any (fun x => x.2.any (fun i => match i.req with | .groupPorts .. => true | _ => false))
      if s.tree.groupFail || open_ || decide (c.m < m + s.leadB) then s.abortCommit
      else State.broadcast { s with tree := { s.tree with groupSent := c.m } } c.m 0x04 (1 - s.tree.groupBank)

/-- At the mark of M the root hub and every hub switch their group tables, and the bindings that change are sent (R123). -/
def State.groupSwitch (s : State) (m : Nat) : State :=
  if s.tree.bindM ≠ m ∨ m = 0 then s
  else
    let b := 1 - s.tree.groupBank
    let hb := s.hubs.foldl (fun (t : Tbl Nat) (d : DevRec) => Tbl.set (fun _ => 0) t d.addr b) s.tree.hubBank
    let s : State := { s with tree := { s.tree with groupBank := b, hubBank := hb } }
    let gs := (s.tree.rootGroups.map (fun (x : Nat × _) => x.1 / 2)).eraseDups
    let s : State := gs.foldl (fun (s : State) (g : Nat) => s.setRootGroup g (1 - b) (s.rootGroup g b)) s
    if s.tree.binding.isEmpty then s.topoEvent ⟨Ev.groupApplied, m, 0, 0, false, 0, false, 0, 0, m⟩
    else s.tree.binding.foldl (fun (s : State) (x : Nat × Nat) => s.pushTm (s.rootOf (x.1 / 8)) false [.bind (x.1 / 8) (x.1 % 8) x.2]) s

/-- Devices that have been rebound return to traffic at a mark (R120): DETACHED is cleared, sequence numbers restart, the event is
written. With TM_CTRL.EN = 0 they wait (R509). -/
def State.restoreDevs (s : State) : State :=
  if !s.tmOn then s
  else
  let l := s.tree.restore
  let s := { s with tree := { s.tree with restore := [] } }
  l.foldl (fun s x => match s.dev x.1 with
    | none => s
    | some d =>
      let s := (devHandles d).foldl (fun s h =>
        if s.cf h Cx.valid = 1 then
          let s := s.setCf h Cx.detached 0
          (if s.cf h Cx.kind = 0 then s else s.setCtx h 3 0).tellCtx h
        else s) s
      let s := s.setDev d.addr (some { d with detachedAt := none })
      if x.2 then
        match d.path0.hops.getLast? with
        | some (hub, p) => s.hubEvent hub p Ev.rebound 0
        | none => s.rootEvent d.path0.root Ev.rebound 0
      else s) s

/-! ## The pass (R13, R226, R236) -/

/-- Node `n` keeps running its old pass. -/
def State.nodeBusy (s : State) (n : Nat) : Bool := s.gd.busy.contains n

/-- Nodes that start, or go on, with pass `p`: all of them when passes begin, those of priority 1 to 7 when they come back, and in
SATIN none of these (R224). -/
def State.alignNodes (s : State) (p : Nat) (all back : Bool) : State :=
  s.nodes.foldl (fun s x =>
    if s.nodeBusy x.1 then s
    else if all || (back && x.2.prio != 0) then s.setNext x.1 p
    else if s.p0Only && x.2.prio != 0 then s.setNext x.1 (p + 1)
    else s) s

/-- Every operation of a flow that pass `p` will create, in ORDER (R236). -/
def State.addFlows (s : State) (p : Nat) : State :=
  s.nodes.foldl (fun s x =>
    let nd := x.2
    if hasOutput nd.kind || nd.flow == 0xFFFF || !s.runs nd then s
    else
      let r : RelRec := ⟨p, nd.order, x.1, false, false, [], none⟩
      s.setFlow nd.flow (insertBy (fun a b => decide (a.pass < b.pass ∨ (a.pass = b.pass ∧ a.order < b.order))) r
        (s.flow nd.flow))) s

/-- Streams and feeds that no node needs any more go. -/
def State.pruneStreams (s : State) : State :=
  let lo := s.nodes.foldl (fun a x => min a (s.next x.1)) s.mfN - 1
  let keep (l : List Stream) : List Stream := l.filter (fun y => decide (lo ≤ y.pass))
  { s with mre := { s.mre with
      streams := s.mre.streams.filterMap (fun (x : Nat × List Stream) =>
        let l := keep x.2
        if l.isEmpty then none else some (x.1, l))
      gens := s.mre.gens.foldl (fun (t : Tbl GenSt) (x : Nat × GenSt) =>
        Tbl.set (fun _ => GenSt.zero) t x.1 { x.2 with out := keep x.2.out, satPass := x.2.satPass.filter (fun p => decide (lo ≤ p)) }) s.mre.gens
      feeds := s.mre.feeds.filterMap (fun (x : Nat × List ClipFeed) =>
        let l := x.2.filter (fun f => decide (s.mfN ≤ f.pass))
        if l.isEmpty then none else some (x.1, l))
      missed := s.mre.missed.filter (fun (x : Nat × Nat) => decide (lo ≤ x.2)) } }

/-- The pass of microframe `p` begins (R13, R224, R226, R449): at the mark of E only priority 0 takes part in it; generators advance, flows take their operations, nodes without inputs become
ready. The answer is the clip decisions that a HOLDER sends for pass p + 1 (R297). -/
def State.beginPass (s : State) (p : Nat) : State × List ClipRec :=
  let run := s.flag Reg.MRE_CTRL_EN && s.mre.image.isSome && !s.inDormant && !s.halted
  let first := run && !s.mre.on
  let s := { s with mre := { s.mre with on := run } }
  let back := s.p0Only && s.flag Reg.PMU_STATUS_RESTORED && !s.inSatin && !s.satinDue_
  let s := if back then s.setB Reg.MRE_STATUS_P0_ONLY false else if s.satinDue_ then (s.setB Reg.MRE_STATUS_P0_ONLY true).endWaits else s
  if !run then (s, [])
  else
    let s := (s.alignNodes p first back).sweepTaps.pruneStreams
    let (s, clips) := s.genMark p
    let s := s.addFlows p
    (s.offer s.nodes, clips)

/-! ## The mark -/

/-- The timebase passes the mark (R3, R26). -/
def State.tickMark (s : State) : State :=
  { s with time := { s.time with
      tick := s.time.tick + BitVec.ofNat 64 (Config.mfTicks - s.time.phase), mf := s.time.mf + 1, phase := 0, cutOff := false } }

/-- Transactions whose keys the new microframe uses again, and splits that no CSPLIT can collect any more, are forgotten (R44, R63). -/
def State.dropOldTx (s : State) : State :=
  let m := s.mfN
  { s with bus := { s.bus with
      per := s.bus.per.filter (fun x => x.1 / 4096 % 2 != m % 2)
      splits := s.bus.splits.filterMap (fun (x : Nat × List PerTx) =>
        let l := x.2.filter (fun y => decide ((m + 65536 - y.seq) % 65536 ≤ 3))
        if l.isEmpty then none else some (x.1, l)) } }

/-- A following device corrects its offset by one root cycle a microframe (R286). -/
def State.phaseStep (s : State) : State :=
  if s.f Reg.PU_STATUS_TIME_SRC = 0 then s
  else s.updPu (fun p => { p with offset := if 0 < p.offset then p.offset - 1 else if p.offset < 0 then p.offset + 1 else 0 })

/-- What the pair unit sends at a mark (R277, R279, R295, R297). -/
def State.pairMark (s : State) (clips : List ClipRec) : State :=
  if !s.flag Reg.PU_CTRL_EN then s
  else
    let m := s.mfN
    let s := (s.sendTimed (.time s.timeFrame)).phaseStep
    let s := if (s.pstate == 3 || s.pstate == 4) && !s.pu.abdicate then s.emit (.frameSync (if m % 8 = 0 then 2 else 1)) else s
    let s := match s.pu.digests.find? (fun d => d.1 + 1 == m) with
      | some (p, d) => s.sendTimed (.digest p d)
      | none => s
    if clips.isEmpty then s else s.sendTimed (.clip (m + 1) clips)

/-- A port in device role that has seen no mark for 16 mark periods (R43): its upstream link is lost, it has been silent for 2 ms, and the node
resets itself (R105), in a pair only when the other device's port is silent too. TM_PORT_STATUS.STATE then shows the port above as RESETTING
(R127; DEDUCED, log entry 43). -/
def State.upstreamWatch (s : State) : State :=
  (s.trunks.filter (fun p => !s.rootRole p && s.portState p == 4)).foldl (fun s p =>
    let d := (s.port p).dev
    match d.lastMark with
    | some t =>
      if t + 16 * (if d.low then 25000 else 3125) ≤ s.now then
        let s := s.toState p Ps.resetting
        if s.role ≠ 0 ∧ s.portState (192 + p) = 4 then s.updPort p (fun r => { r with dev := { d with lastMark := none } }) else s
      else s
    | none => s) s

/-- At tick 3,125 the microframe number advances, the marks go out, and walks and the pass begin (R10, R13, R132). -/
def State.mark (s : State) : State :=
  if !s.time.run then s
  else
    let old := s.mfN
    let ts := List.range 192
    let s := ts.foldl (fun s t => (s.countNpDeferred t).endWalk t old) s
    let s := s.tickMark.obsMark
    let m := s.mfN
    let s := (s.dropOldTx.showRebase.groupSwitch m).restoreDevs
    let s := ((s.twillMark.sendMarks m).groupBroadcast m).upstreamWatch
    let s := if m % 8 = 0 then s.takeShares.frameCredit else s
    let s := ts.foldl (fun s t => s.beginWalk t m) s
    let (s, clips) := s.beginPass m
    s.pairMark clips

/-! ## The input cut-off (R14, R281) -/

/-- Trunks of the pair that are ENABLED on either device (R281). -/
def State.pairEnabled (s : State) : List Nat := (List.range 192).filter (fun t => s.portEnabled t || s.portEnabled (192 + t))

/-- The tags of an ENABLED trunk whose block of the pass is not held (R281). -/
def State.lacked (s : State) (t : Nat) : List (BitVec 12) :=
  let n := (s.mfN + 65535) % 65536
  (s.bus.per.filter (fun x => x.1 / 8192 == t && (match x.2 with
    | some y => perIn y && y.seq == n && !s.halfHolds y.handle n
    | none => false))).map (fun x => BitVec.ofNat 12 (x.1 % 4096))

/-- INPUT_CUTOFF: later responses are late; in a pair the presence record goes to the peer. -/
def State.inputCutoff (s : State) : State :=
  if !s.time.run then s
  else
    let s := s.advanceTo Config.cutTick
    let s := { s with time := { s.time with cutOff := true } }
    if s.role ≠ 0 && s.lockstep then
      let recs := s.pairEnabled.map (fun t => ⟨Fin.ofNat 192 t, s.lacked t⟩)
      let s := s.updPu (fun p => { p with presPass := s.mfN, lacks := recs, peerLacks := if p.presPass = s.mfN then p.peerLacks else [] })
      s.sendTimed (.presence recs)
    else s
def execInputCutoff (s : State) : Out := .next s.inputCutoff

/-! ## The decision time (R227, R267, R281) -/

/-- What reconciliation has not brought (R281): blocks that the peer lacks as well, and blocks that did not come in time,
with an event for each trunk (R314). -/
def State.reconShort (s : State) : State :=
  if s.pu.presPass ≠ s.mfN ∨ s.pu.lacks = [] then s
  else
    let n := (s.mfN + 65535) % 65536
    let gone : List (Nat × Nat) := s.pu.lacks.flatMap (fun r => r.lacks.filterMap (fun tag =>
      let k := npKey r.trunk.val n tag.toNat
      match s.per k with
      | some y => if s.halfHolds y.handle n then none else some (r.trunk.val, tag.toNat)
      | none => none))
    let both (x : Nat × Nat) : Bool := s.pu.peerLacks.any (fun r => r.trunk.val == x.1 && r.lacks.any (fun t => t.toNat == x.2))
    let b := (gone.filter both).length
    let late := gone.filter (fun x => !both x)
    let s := if b = 0 then s else s.bump Reg.PU_RECON_SHORT_BOTH b
    let s := s.forAll (late.map (·.1)).eraseDups (fun s t =>
      let c := (late.filter (fun x => x.1 == t)).length
      (s.bump Reg.PU_RECON_SHORT_SHORT c).puEvent Pe.reconShort 0 (t + c % 65536 * 65536) (c / 65536))
    s.updPu (fun p => { p with lacks := [], peerLacks := [] })

/-- DECISION_TIME: every SOURCE block not yet written is decided missing, and a notice that is still held is satisfied (R227, R232). -/
def State.decisionTime (s : State) : State :=
  if !s.time.run then s
  else
    let s := s.advanceTo (if s.role = 0 then Config.cutTick else Config.decisionTick)
    let s := (if s.role = 0 then s else s.reconShort).auditDecision
    let s := { s with gd := { s.gd with decided := s.mfN
                                        held := s.gd.held.filter (fun v => match v.2 with | .block _ => false | .clip _ => true) } }
    ((List.range 8).foldl (fun s q => s.showQ q) s).offer s.nodes
def execDecisionTime (s : State) : Out := .next s.decisionTime

/-! ## The fill deadline (R17, R18, R212, R250, R295, R308) -/

/-- The SINK nodes of pass `p` that have not been released before the fill deadline (R18, R238). -/
def State.lateSinks (s : State) (p : Nat) : List (Nat × Node) :=
  s.nodes.filter (fun x => (match x.2.kind with | .sink .. => true | _ => false) &&
    ((s.flow x.2.flow).any (fun r => r.pass == p && r.node == x.1) || s.mre.late.contains (p, x.1)))

/-- Zones of a SINK. -/
def sinkZones (nd : Node) : List Nat :=
  match nd.kind with
  | .sink _ chans _ _ => chans.filterMap (·.zone)
  | _ => []

/-- Overruns (R18, R212): the policy's blocks are published, and each zone affected is counted. -/
def State.overruns (s : State) (p : Nat) : State :=
  let l := s.lateSinks p
  let s : State := { s with mre := { s.mre with late := [] } }
  let s := l.foldl (fun s x => match x.2.kind with
    | .sink ep chans so sb => s.sinkOverrun p ep chans so sb
    | _ => s) s
  ((l.flatMap (fun x => sinkZones x.2)).eraseDups).foldl (fun s z =>
    let old : Nat × Nat := Tbl.get (fun _ => (0, 0)) s.mre.zoneOver z
    let s := { s with mre := { s.mre with zoneOver := Tbl.set (fun _ => (0, 0)) s.mre.zoneOver z (old.1 + 1, p) } }
    s.bump Reg.MRE_OVERRUNS_COUNT) s

/-- The status bytes of cascade links (R308), written at publication. -/
def State.cascadeStatus (s : State) (p : Nat) : State :=
  let down (d : DevRec) : List Byte := leBytes 6 p ++ leBytes 2 (d.rtt / 2) ++ leBytes 4 s.pu.barrierFree
  let s := (s.devices.filter (fun d => d.cls == 3 && d.detachedAt.isNone)).foldl (fun s d =>
    let ep : EpRef := .handle (BitVec.ofNat 20 (d.addr * 16 + 1))
    let b := s.sinkHeld ep p
    if b.isEmpty then s else s.sinkWrite ep p (overlay b 180 (down d))) s
  let up : List Byte := leBytes 4 s.pu.barrierLast ++
    leBytes 1 (s.f Reg.PU_CFG_RANK + 8 * b2n (s.flag Reg.RSQ_STATUS_RSQ_FAILED)) ++ leBytes 7 0
  (s.trunks.filter (fun t => !s.rootRole t && s.portEnabled t)).foldl (fun s t =>
    match Tbl.get (fun _ => none) s.mre.casc (cascKey t 1 1 p) with
    | some (mf, b) =>
      if mf = p % 65536 then
        { s with mre := { s.mre with casc := Tbl.set (fun _ => none) s.mre.casc (cascKey t 1 1 p) (some (mf, overlay b 180 up)) } }
      else s
    | none => s) s

/-- The samples that each bound line's channel has published in pass `p` (R250). -/
def State.publishLines (s : State) (p : Nat) : State :=
  s.nodes.foldl (fun s x => match corrOf x.2 with
    | none => s
    | some c =>
      match (s.node c.sinkNode).map (fun (nd : Node) => nd.kind) with
      | some (NodeKind.sink ep chans _ _) =>
        let b := s.sinkHeld ep p
        let off := ((chans[c.channel]?).map (·.offset)).getD 0
        let xs := if b.isEmpty then zeros6 else six.map (fun i => from24 (s24 ((padTo (off + 18) b).drop (off + 3 * i) |>.take 3)))
        s.svPublish c.line p xs
      | _ => s) s

/-- The blocks that pass `p` has published, by holder identifier in ascending order (R295): of the schedule that sends them. -/
def State.published (s : State) (p : Nat) : List (Nat × List Byte) :=
  let eps := (s.schedTbl (p + 1)).filterMap (fun x =>
    if 0x100000 ≤ x.1 then (s.groupBlock (x.1 - 0x100000) (p + 1)).map (fun b => (x.1, b))
    else if x.1 % 16 < 8 ∧ s.halfHolds x.1 p then some (x.1, s.readHalf x.1 p) else none)
  let casc := s.mre.casc.filterMap (fun x =>
    let port := x.1 / 2 / 8 / 2
    let dir := x.1 / 2 / 8 % 2
    match x.2 with
    | some (mf, b) => if dir = 1 ∧ mf = p % 65536 then some (0x200000 + port * 8 + x.1 / 2 % 8, b) else none
    | none => none)
  eps ++ casc

/-- The 256 digests of pass `p` (R295). -/
def State.digestsOf (s : State) (p : Nat) : List Word :=
  let l := s.published p
  (List.range 256).map (fun i => BitVec.ofNat 32 (crc32
    ((l.filter (fun x => x.1 % 256 == i)).flatMap (fun x => leBytes 4 x.1 ++ leBytes 1 x.2.length ++ x.2))))

/-- FILL_DEADLINE: the output blocks of the pass are published. -/
def State.fillDeadline (s : State) : State :=
  if !s.time.run then s
  else
    let s := s.advanceTo Config.fillTick
    let p := s.mfN
    let s := if s.mre.on then ((s.overruns p).cascadeStatus p).publishLines p else s
    if s.role = 0 then s
    else
      let d := s.digestsOf p
      s.updPu (fun u => { u with digests := ((p, d) :: u.digests).take 4 })
def execFillDeadline (s : State) : Out := .next s.fillDeadline

end Sys2Proof.Machine
end

