-- ==== Sys2Proof/Machine/Ports.lean ====
section
/-! DEFINITION. The commands of the root ports (R98 to R109, R112, R124). -/

namespace Sys2Proof.Machine

/-- Code of a sense level (R99). -/
def senseCode : Sense → Nat
  | .none => 0
  | .classic => 1
  | .lyborL => 2
  | .lyborH => 3
  | .invalid => 4

/-! ## Presence (R99 to R102) -/

/-- ATTACH_DEBOUNCE_EXPIRY (R100, R101, R103): a level that has stood for 100 ms on a port that faces downstream. LYBOR-H attaches; another
level that a device holds leaves the port in POWERED with SPEED_MISMATCH, reported once. -/
def State.debounceExpiry (s : State) (p : Nat) : State :=
  let l := (s.port p).sense
  if s.portState p = 1 ∧ s.portExists p ∧ s.rootRole p ∧ s.f (Reg.TM_PORT_CTRL_PRESENCE p) = 0 ∧ (s.port p).senseAt + ms100 ≤ s.now then
    match l with
    | .none | .invalid => s
    | .lyborH => s.attached p 3
    | .classic | .lyborL =>
      if s.f (Reg.TM_PORT_STATUS_REASON p) = Rs.speedMismatch then s
      else
        let s := (s.setF (Reg.TM_PORT_STATUS_SPEED p) (senseCode l)).setF (Reg.TM_PORT_STATUS_REASON p) Rs.speedMismatch
        (s.portChange p 0).rootEvent p Ev.disabled Rs.speedMismatch
  else s
def execAttachDebounceExpiry (p : Trunk) (s : State) : Out := .next (s.debounceExpiry p.val)

/-- PRESENCE_LOST (R100, R104). -/
def execPresenceLost (p : Trunk) (s : State) : Out := .next (if s.senseGone p.val then s.portPresenceLost p.val else s)

/-- LINK_PRESENCE_ATTACH (R102): with PRESENCE = 1, a trunk that has held for 100 ms. -/
def execLinkPresenceAttach (p : Trunk) (s : State) : Out :=
  .next (if s.portState p.val = 1 ∧ s.portExists p.val ∧ s.rootRole p.val ∧ s.flag (Reg.TM_PORT_CTRL_PRESENCE p.val)
      ∧ s.heldLong p.val then s.attached p.val 3 else s)

/-- LINK_PRESENCE_LOST (R102): outside the live lane states for 100 ms, while the port is neither RESETTING, SUSPENDED
nor RESUMING; a Twill retraining does not lose presence (R91). -/
def execLinkPresenceLost (p : Trunk) (s : State) : Out :=
  .next (if s.linkGone p.val then s.portPresenceLost p.val else s)

/-- SENSE_LEVEL_CHANGE (R98, R100, R101): the level is noted, and its tick in every state but OFF, where presence is not watched; leaving a mismatched level clears the reason, and SPEED reads 0 from then
on (DESIGN CHOICE, log entry 40). -/
def State.senseChange (s : State) (p : Nat) (l : Sense) : State :=
  let s := s.updPort p (fun r =>
    if r.sense = l then r
    else if s.portState p = 0 then { r with sense := l }
    else { r with sense := l, senseAt := s.now, leftAt := if l = .lyborH then none else some (r.leftAt.getD s.now) })
  if s.portState p = 1 ∧ s.f (Reg.TM_PORT_STATUS_REASON p) = Rs.speedMismatch
      ∧ s.f (Reg.TM_PORT_STATUS_SPEED p) ≠ senseCode l then
    (s.setF (Reg.TM_PORT_STATUS_REASON p) 0).setF (Reg.TM_PORT_STATUS_SPEED p) 0
  else s
def execSenseLevelChange (p : Trunk) (level : Sense) (s : State) : Out := .next (s.senseChange p.val level)

/-! ## Port features (R104, R113) -/

/-- The port drives the LYBOR-H pull-up on its SENSE pin (R103): in device role, while CONNECT is set. -/
def State.connected (s : State) (p : Nat) : Bool := !s.rootRole p && s.flag (Reg.TM_PORT_CTRL_CONNECT p)

/-- PORT_CTRL_WRITE (R102 to R104): TM_PORT_CTRL takes its fields; the pull-up of a port in device role follows, and a node whose pull-up goes
is absent from the tree; POWER acts as the port feature, and PRESENCE = 1 makes the lanes of a POWERED port train. -/
def State.portCtrl (s : State) (p : Nat) (v : Word) : State :=
  let was := s.connected p
  let s := s.writeReg (Reg.TM_PORT_CTRL p) v
  let s := if was = s.connected p then s else s.emit (.pullUp p (s.connected p))
  let s := if was && !s.connected p then s.updPort p (fun r => { r with dev := DevNode.reset }) else s
  if bits v 0 1 = 0 then s.portOff p
  else if s.portState p = 0 then s.portPower p
  else if s.portState p = 1 ∧ s.flag (Reg.TM_PORT_CTRL_PRESENCE p) then s.trainIdle p
  else s
def execPortCtrlWrite (p : Trunk) (v : Word) (s : State) : Out :=
  .next (s.pfWrite (Reg.TM_PORT_CTRL p.val) (fun s => s.portCtrl p.val v))

/-- A command of a port (R104, R107): presence that is lost in the same cycle wins, and the command is discarded. -/
def State.portCmd (s : State) (p : Trunk) (op : State → State) : State := if s.lossAhead p.val then s else op s

/-- PORT_SET_POWER (R104). -/
def execPortSetPower (p : Trunk) (s : State) : Out := .next (s.portPower p.val)

/-- PORT_CLEAR_POWER (R104). -/
def execPortClearPower (p : Trunk) (s : State) : Out := .next (s.portOff p.val)

/-- PORT_SET_RESET by software (R104, R105, R109). -/
def execPortSetReset (p : Trunk) (s : State) : Out := .next (s.portCmd p (fun s => s.portReset p.val false))

/-- PORT_SET_SUSPEND (R104, R106); a link lost in the same cycle wins (R107). -/
def execPortSetSuspend (p : Trunk) (s : State) : Out := .next (s.portCmd p (fun s => s.portSuspend p.val))

/-- PORT_SET_RESUME (R104, R107). -/
def execPortSetResume (p : Trunk) (s : State) : Out := .next (s.portCmd p (fun s => s.portResume p.val false))

/-- Set ENABLE (R104, R113): SUSPENDED or RESUMING to ENABLED at once. -/
def State.portSetEnable (s : State) (p : Nat) : State :=
  if (s.portState p = 5 ∨ s.portState p = 6) ∧ s.rootRole p then
    (((s.lanesResume p).portEnable p).portChange p 4).rootEvent p Ev.enabled 0
  else s
def execPortSetEnable (p : Trunk) (s : State) : Out := .next (s.portCmd p (fun s => s.portSetEnable p.val))

/-- Clear ENABLE (R104): ENABLED to DISABLED with SOFTWARE. -/
def State.portClearEnable (s : State) (p : Nat) : State :=
  if s.portState p = 4 ∧ s.rootRole p then s.portDisable p Rs.software St.deviceGone else s
def execPortClearEnable (p : Trunk) (s : State) : Out := .next (s.portCmd p (fun s => s.portClearEnable p.val))

/-- The 8 bytes of a root port's status (R112). -/
def State.portStatusBytes (s : State) (p : Nat) : List Byte :=
  let r := s.port p
  [BitVec.ofNat 8 (s.portState p), BitVec.ofNat 8 (s.f (Reg.TM_PORT_STATUS_SPEED p))] ++ leBytes 2 r.change ++
    leBytes 2 r.discards ++ [BitVec.ofNat 8 (s.f (Reg.TM_PORT_STATUS_REASON p)), 0]

/-- ROOT_GET_PORT_STATUS (R112): the status is returned, its change bits and its discard count are cleared. -/
def State.rootStatus (s : State) (p : Nat) : State :=
  (s.emit (.portStatus p (s.portStatusBytes p))).updPort p (fun r => { r with change := 0, discards := 0 })
def execRootGetPortStatus (p : Trunk) (s : State) : Out := .next (s.rootStatus p.val)

/-! ## Reset, link loss and resume -/

/-- RESET_SIGNALLING_END (R105): once 10 ms of silence have passed, link training follows. -/
def State.resetEnd (s : State) (p : Nat) : State :=
  if s.portState p = 3 ∧ s.rootRole p ∧ (s.port p).signalled = false ∧ s.since (s.port p).resetAt 250000 then
    (s.updPort p (fun r => { r with signalled := true })).trainTrunk p
  else s
def execResetSignallingEnd (p : Trunk) (s : State) : Out := .next (s.resetEnd p.val)

/-- PORT_RESET_COMPLETE (R104, R116): the trunk is UP after reset signalling: ENABLED with RESET_DONE; the enumeration
that raised the reset goes on at step 3, and any other reset is taken up at step 3. -/
def State.resetComplete (s : State) (p : Nat) : State :=
  if s.portState p = 3 ∧ s.rootRole p ∧ (s.port p).signalled ∧ s.trunkUp p then
    let own := (s.port p).ownReset
    let s := ((s.portEnable p).portChange p 2).updPort p (fun r => { r with ownReset := false })
    let s := s.rootEvent p Ev.enabled 0
    if s.isPartner then s
    else if s.f Reg.TM_CTRL_EN = 0 then
      if own then (s.dropEnum p).await ⟨p, 0, 0, false, false, (s.port p).attachMf⟩ else s.updPort p (fun r => { r with takeUp := 3 })
    else if own then (match s.enumOf p with
      | some e => if e.pos.hub = 0 then s.step3 p e else s
      | none => s)
    else s.await ⟨p, 0, 0, true, false, (s.port p).attachMf⟩
  else s

/-- LINK_LOST (R104, R107, R275): the trunk of an ENABLED port is in no live lane state and no Twill retraining runs. -/
def State.linkLost (s : State) (p : Nat) : State :=
  if s.portState p = 4 ∧ s.rootRole p ∧ s.trunkHolds p = false ∧ (s.trunk p).twillAt = none then s.portLinkLost p else s
def execLinkLost (p : Trunk) (s : State) : Out := .next (s.linkLost p.val)

/-- The device at a root port may wake it: its descriptor sets REMOTE_WAKE (R106, R115). -/
def State.mayWake (s : State) (p : Nat) : Bool :=
  match s.devAt p 0 0 with
  | some d => nbit d.caps 1
  | none => false

/-- REMOTE_WAKE_SIGNAL (R104, R106, R107): honoured from 5 ms after the entry to SUSPENDED, counted before. -/
def State.remoteWake (s : State) (p : Nat) : State :=
  if !s.rootRole p then s
  else if s.portState p = 5 then
    let early := match (s.port p).suspendAt with
      | some t0 => decide (s.now < t0 + 125000)
      | none => false
    if early then s.bump (Reg.TM_PORT_ERRORS_EARLY_WAKES p)
    else if s.mayWake p then
      -- Set RESUME of the same cycle makes it a host resume (R107)
      if s.pending.head? = some (.portSetResume (Fin.ofNat 192 p)) then (s.portResume p false).portResume p true else s.portResume p true
    else s
  else if s.portState p = 6 then s.portResume p true
  else s

/-- RESUME_COMPLETE (R104): 20 ms of resume signalling, once over, end in ENABLED. -/
def State.resumeComplete (s : State) (p : Nat) : State :=
  if s.portState p = 6 ∧ s.rootRole p ∧ s.since (s.port p).resumeAt 500000 then (((s.lanesResume p).portEnable p).portChange p 4).rootEvent p Ev.resumed 0 else s
def execResumeComplete (p : Trunk) (s : State) : Out := .next (s.resumeComplete p.val)

/-- MARK_ON_ROOT_PORT (R124): a mark arrives on an ENABLED port in root role; LOOP when its ROOT_ID is the own one,
FOREIGN otherwise. -/
def State.markOnRoot (s : State) (p : Nat) (rootId : Nat) : State :=
  if s.rootRole p ∧ s.portState p = 4 then
    let why := if rootId = s.f Reg.TM_CTRL_ROOT_ID then Rs.loop else Rs.foreign
    ((s.portChange p 7).portDisable p why St.deviceGone)
  else s
def execMarkOnRootPort (p : Trunk) (rootId : Half) (s : State) : Out := .next (s.markOnRoot p.val rootId.toNat)

end Sys2Proof.Machine
end

