-- ==== Sys2Proof/Machine/Tree.lean ====
section
/-! DEFINITION. The commands of the topology manager (R111 to R126, R273, R358, R509), the settings of the frame scheduler
(R135, R157), and the commands of the endpoint buffer memory (R165, R176 to R182). -/

namespace Sys2Proof.Machine

/-! ## Root ports (R104, R106, R460) -/

/-- PORT_RESET_COMPLETE (R104): the trunk of a RESETTING port is UP. -/
def execPortResetComplete (p : Trunk) (s : State) : Out := .next (s.resetComplete p.val)

/-- REMOTE_WAKE_SIGNAL (R104, R106, R460): in DORMANT the signalling wakes the device where PMU_POLICY.LYBOR_SQUELCH is set, and
changes nothing else; otherwise the port resumes, and its REMOTE_WAKE event is a wake source in SATIN. -/
def State.wakeSignal (s : State) (p : Nat) : State :=
  if s.inDormant then s.when (s.flag Reg.PMU_POLICY_LYBOR_SQUELCH && s.portState p == 5) (fun s => s.wake .lybor)
  else
    let s' := s.remoteWake p
    s'.when (s.portState p == 5 && s'.portState p == 6) (fun s => s.wake .lybor)
def execRemoteWakeSignal (p : Trunk) (s : State) : Out := .next (s.wakeSignal p.val)

/-! ## Hub status and enumeration -/

/-- GET_PORT_STATUS for every changed port, port 0 standing for the hub itself (R111). -/
def State.readHub (s : State) (h bits_ : Nat) : State :=
  s.pushTm (s.rootOf h) false (((List.range 64).filter (nbit bits_)).map (fun p => .getStatus h p))

/-- HUB_STATUS_REPORT (R111, R509): with TM_CTRL.EN = 0 the changes wait. -/
def State.hubReport (s : State) (h bits_ : Nat) : State :=
  if s.isPartner ∨ !s.hubs.any (fun d => d.addr == h) then s
  else if s.tmOn then s.readHub h bits_
  else { s with tree := { s.tree with reports := Tbl.upd (fun _ => 0) s.tree.reports h (fun b => b ||| bits_) } }
def execHubStatusReport (hub : Half) (bits : BitVec 64) (s : State) : Out := .next (s.hubReport hub.toNat bits.toNat)

/-- The TM may start a step of an enumeration (R116, R179, R358, R450, R509). -/
def State.enumMay (s : State) : Bool :=
  s.tmOn && !s.isPartner && s.flag Reg.EBM_STATUS_INIT_DONE && !s.inSatin && !s.inDormant && decide (s.tree.held.length < 1024)

/-- The next attach of a subtree that can be taken up: none whose reset is still in progress. -/
def State.nextAttach (s : State) (p : Nat) : Option AttachPos :=
  s.tree.waiting.find? (fun a => a.root == p && !(a.reset && !a.atStep3))

/-- Step 1 of a waiting attach at a hub port while another device of its subtree is enumerated (R116: resets run in parallel). -/
def State.resetAhead (s : State) (p : Nat) : State :=
  match s.tree.waiting.find? (fun a => a.root == p && a.hub != 0 && !a.reset && !a.atStep3) with
  | some a =>
    State.pushTm { s with tree := { s.tree with
      waiting := replaceFirst (fun b => b == a) (fun b => { b with reset := true }) s.tree.waiting } } p false [.setFeature a.hub a.port 2]
  | none => s

/-- ENUMERATION_START (R116, R179, R509): the next waiting attach of a subtree in which none is being enumerated; in another one, the reset of
an attach that waits there. While the TM's backlog of events is full no step starts (R358), and in SATIN no enumeration starts (R450). -/
def State.enumStart (s : State) (p : Nat) : State :=
  if !s.enumMay then s
  else match s.enumOf p, s.nextAttach p with
  | some _, _ => s.resetAhead p
  | none, some a =>
    State.beginEnum (State.showEnum { s with tree := { s.tree with waiting := removeFirst (fun b => b == a) s.tree.waiting } }) a
  | none, none => s
/-- The subtree of root port `p` of this device, or of its PARTNER's when there is nothing to do on the own one. -/
def State.here (s : State) (p : Nat) (own : Bool) : Nat := if own || !s.isHolder then p else p + 192

def execEnumerationStart (p : Trunk) (s : State) : Out :=
  .next (s.enumStart (s.here p.val (s.tree.waiting.any (fun a => a.root == p.val) && (s.enumOf p.val).isNone)))

/-- The outstanding request of a subtree reports REMOTE_WAKE of a hub port (R112, R460). -/
def State.tellsWake (s : State) (p : Nat) (r : TmReply) : Bool :=
  match s.todoOf p with
  | it :: _ => (match it.req with | .getStatus .. => it.sent && r.status == 0 && nbit (field r.data 2 2) 5 | _ => false)
  | [] => false

/-- TM_TRANSFER_COMPLETE (R116, R460). -/
def State.tmComplete (s : State) (p : Nat) (r : TmReply) : State :=
  (s.tmDone p r).when (s.tellsWake p r && s.inSatin) (fun s => s.wake .lybor)
def execTmTransferComplete (p : Trunk) (r : TmReply) (s : State) : Out :=
  .next (s.tmComplete (s.here p.val (match s.todoOf p.val with | it :: _ => it.sent | [] => false)) r)

/-- No endpoint of the address is in the committed or staged schedule (R118). -/
def State.unscheduled (s : State) (a : Nat) : Bool :=
  let at_ (x : Nat × Option SchedRec) : Bool := decide (x.1 < 0x100000) && x.1 / 16 == a
  !s.ts.active.any at_ && !s.ts.staged.any at_

/-- ADDRESS_BINDING_EXPIRY (R118, R122): 60 s after the detach, with nothing scheduled, the address is free again, and its routes
are cleared on every hub. Its contexts are no longer in use. -/
def State.bindingExpiry (s : State) (a : Nat) : State :=
  match s.dev a with
  | none => s
  | some d =>
    match d.detachedAt with
    | none => s
    | some t0 =>
      if t0 + 1500000000 ≤ s.now ∧ s.unscheduled a then
        let s := (devHandles d).foldl (fun s h => (s.setCf h Cx.valid 0).tellCtx h) s
        let hubs := (s.tree.routes.map (·.1)).filter (fun h => h != a && (s.leads h a).isSome)
        let s := s.hubForgets a
        let s := (s.tree.hubPorts.filter (fun x => x.1 / 128 == a)).foldl (fun s x => s.setHubPort a (x.1 % 128) none) s
        let s := s.setDev a none
        hubs.foldl (fun s h => s.pushTm (s.rootOf h) false [.clearRoute h a a]) s
      else s
def execAddressBindingExpiry (addr : Half) (s : State) : Out := .next (s.bindingExpiry addr.toNat)

/-- PAIR_PORT_TIMEOUT (R273): the hub has not been bound through the path-0 side 10 s after its first return, and its port is
disabled with PAIR_PORT. -/
def State.pairPortOver (s : State) (p serial : Nat) : State :=
  match s.tree.returned.find? (fun x => x.1 == serial && x.2.1.root == p) with
  | none => s
  | some x =>
    let a := x.2.1
    if s.now < x.2.2 + 250000000 then s else
    let s : State := { s with tree := { s.tree with returned := s.tree.returned.filter (fun y => y.1 != serial) } }
    if s.devices.any (fun d => d.serial == serial) then s
    else
      let s : State := State.showEnum { s with tree := { s.tree with
        waiting := s.tree.waiting.filter (fun b => !(b.root == a.root && b.hub == a.hub && b.port == a.port)) } }
      s.enumFail p ⟨a, 5, DevRec.unknown ⟨p, []⟩, false, [], 0, [], false, [], 0, []⟩ Rs.pairPort
def execPairPortTimeout (p : Trunk) (serial : BitVec 64) (s : State) : Out :=
  .next (s.pairPortOver (s.here p.val (s.tree.returned.any (fun x => x.1 == serial.toNat && x.2.1.root == p.val))) serial.toNat)

/-- What the TM did not act on while EN was 0 is taken up (R509); an enumeration whose next step has not begun goes on from step 1. -/
def State.takeUpAll (s : State) : State :=
  let s := (List.range 192).foldl (fun s p =>
    let u := (s.port p).takeUp
    if u = 0 then s
    else
      let s := s.updPort p (fun r => { r with takeUp := 0 })
      if u = 3 then s.await ⟨p, 0, 0, true, false, (s.port p).attachMf⟩
      else if s.flag Reg.TM_CTRL_AUTO_ENUM then s.await ⟨p, 0, 0, false, false, (s.port p).attachMf⟩ else s) s
  let l := s.tree.reports
  let s : State := { s with tree := { s.tree with reports := [] } }
  let s := l.foldl (fun s x => s.readHub x.1 x.2) s
  let s := s.tree.enums.foldl (fun (s : State) x => match x.2 with
    | some e =>
      let l := (s.todoOf x.1).filter (·.own)
      if !l.isEmpty && !l.any (·.sent) then s.stopEnum x.1 e else s
    | none => s) s
  (s.tree.todo.map (·.1)).foldl (fun s p => s.kickTm p) s

/-- TM_ENABLE_WRITE (R509, R288): TM_CTRL is written; setting EN takes up what waited. -/
def State.tmEnable (s : State) (v : Word) : State :=
  let was := s.tmOn
  let (s, v) := s.pairHold Reg.TM_CTRL v
  let s := s.writeReg Reg.TM_CTRL v
  if !was && s.tmOn && !s.isPartner then s.takeUpAll else s
def execTmEnableWrite (v : Word) (s : State) : Out := .next (s.pfWrite Reg.TM_CTRL (fun s => s.tmEnable v))

/-- TM_BACKLOG_DRAIN (R358): the TM writes held events in order, then the kept ones, and goes on with its steps. -/
def State.tmDrain (s : State) : State :=
  let s := s.drainTopo (s.tree.held.length + s.tree.kept.length)
  (s.tree.todo.map (·.1)).foldl (fun s p => s.kickTm p) s
def execTmBacklogDrain (s : State) : Out := .next s.tmDrain

/-! ## Settings of the frame scheduler -/

/-- A setting of MIRROR_EN = 1 that the TS refuses (R135, R272). -/
def State.mirrorRefused (s : State) (t : Nat) (v : Word) : Bool :=
  let m := bits v 0 8
  s.role != 0 || s.width t != s.width m || s.flag (Reg.TS_TRUNK_CFG_MIRROR_EN m) || !s.rootRole t || !s.rootRole m ||
    [0, 1].any (fun b => (s.allEntries b).any (fun x => x.1 / 2 / 511 == t))

/-- TRUNK_CFG_WRITE (R135, R272): refused as a whole, or written. -/
def State.trunkCfg (s : State) (t : Nat) (v : Word) : State :=
  if nbit v.toNat 8 ∧ s.mirrorRefused t v then s.setB (Reg.TS_TRUNK_STATUS_MIRROR_REFUSED t) true
  else (s.writeReg (Reg.TS_TRUNK_CFG t) v).showLoad t
def execTrunkCfgWrite (t : Trunk) (v : Word) (s : State) : Out :=
  .next (s.pfWrite (Reg.TS_TRUNK_CFG t.val) (fun s => s.trunkCfg t.val v))

/-- TS_ENABLE_WRITE (R157, R154): TS_CTRL is written. Walks in progress and the fill look at it. -/
def execTsEnableWrite (v : Word) (s : State) : Out :=
  .next (s.pfWrite Reg.TS_CTRL (fun s => s.writeReg Reg.TS_CTRL v))

/-! ## The endpoint buffer memory -/

/-- SLOT_ALLOCATED (R165): the transfers and clips that wait take the slots that now fit, in order. -/
def execSlotAllocated (s : State) : Out := .next s.serveWaits

/-- EBM_INIT_DONE (R179): after a cold reset all of EBM has been zeroed. -/
def State.ebmInit (s : State) : State :=
  if s.flag Reg.EBM_STATUS_INIT_DONE ∨ s.ck.porst then s
  else State.setB { s with ebm := { s.ebm with mem := [] } } Reg.EBM_STATUS_INIT_DONE true
def execEbmInitDone (s : State) : Out := .next s.ebmInit

/-- SCRUB_PASS (R177): every word of EBM has been read, and the next pass begins (log entry 37). -/
def execScrubPass (hits : List EccHit) (s : State) : Out :=
  .next (if s.flag Reg.EBM_CTRL_SCRUB_EN ∧ s.ebm.powered then hits.foldl (fun s x => s.ebmHit x 1) s else s)

/-- A write through the diagnostic window (R181): the words that it changes have valid check bits again. -/
def State.diagWrite (s : State) (a : Nat) (b : List Byte) : State :=
  let s := s.ebmWrite a b
  { s with ebm := { s.ebm with poison := s.ebm.poison.filter (fun w => !(decide (a < w * 8 + 8 ∧ w * 8 < a + b.length))) } }

/-- DIAG_WINDOW_ACCESS (R181, R182, R333): PF BAR2 reads or writes EBM byte for byte; a gated read returns all ones. -/
def State.diagAccess (s : State) (a : DiagAccess) : State :=
  let off := match a with
    | .read x _ => x.toNat
    | .write x _ => x.toNat
  let wr := match a with
    | .read .. => false
    | .write .. => true
  if s.d3hot 0 then
    let s := s.aer 0 Aer.unsupported
    if wr then s else s.sendHost (.ans .unsupported)
  else if !s.ebm.powered ∨ !s.flag Reg.EBM_STATUS_INIT_DONE ∨ s.inDormant ∨ !s.operational then
    let s := s.gate off 0 1 wr
    match a with
    | .read _ n => s.sendHost (.ans (.data (List.replicate n 0xFF)))
    | .write .. => s
  else match a with
    | .read x n => s.sendHost (.ans (.data (s.ebmRead x.toNat n)))
    | .write x b => if s.flag Reg.EBM_CTRL_DIAG_WRITE_EN then s.diagWrite x.toNat b else s
def execDiagWindowAccess (a : DiagAccess) (s : State) : Out := .next (s.diagAccess a)

end Sys2Proof.Machine
end

