-- ==== Sys2Proof/Machine/Rings.lean ====
section
/-! DEFINITION. The commands of the rings (R326, R349 to R364, R371): doorbells, scans, invalidation, moderation, and the admin
rings. -/

namespace Sys2Proof.Machine

/-! ## Taking entries out of the cache (R354, R361, R427) -/

/-- The cached entries of a ring that have not started are discarded, and the position moves back to the first of them. Entries
behind it that the ring took before are passed over by the next scan. -/
def State.discardCached (s : State) (f i : Nat) : State :=
  match s.sq f i, s.cachedOf f i with
  | some r, c :: l =>
    let first := c.ref.idx.toNat
    let n := (r.pos + 2 ^ r.log2 - first) % 2 ^ r.log2
    let gone := (c :: l).map (fun x => x.ref.idx.toNat)
    let skip := ((List.range n).map (fun k => (first + k) % 2 ^ r.log2)).filter (fun k => !gone.contains k)
    let s := s.setCache (s.qe.cache.filter (fun x => !(x.ref.fn.val == f && x.ref.sq.toNat == i)))
    (s.setSq f i (some { r with pos := first, skip := skip })).showPos f i
  | _, _ => s

/-- Room in the cache for one more entry of a ring (R353). -/
def State.cacheRoom (s : State) (f i : Nat) : Bool :=
  decide ((s.cachedOf f i).length < Config.cacheShare) &&
    decide (s.qe.cache.length < (if i = 0 then Config.cachePlaces else Config.cachePlaces - Config.cacheAdmin))

/-- Order of service of the rings that wait for space (R353): admin rings first, then round robin of the global number. -/
def State.spaceRank (s : State) (x : Nat × Nat) : Nat :=
  match s.sq x.1 x.2 with
  | some r => if x.2 = 0 then 0 else 1 + (r.glob + 2 * Config.ringCount - s.qe.lastGlob - 1) % Config.ringCount
  | none => 2 * Config.ringCount

/-- A place of the cache is free: the next ring that waits for space goes on with its scan (R353). -/
def State.serveSpace (s : State) : State :=
  let l := s.qe.doorbells.filter (fun x => s.mayFetch x.1 x.2 && s.cacheRoom x.1 x.2)
  match l.foldl (fun (a : Option (Nat × Nat)) x => match a with
      | none => some x
      | some y => if s.spaceRank x < s.spaceRank y then some x else some y) none with
  | none => s
  | some x =>
    let g := match s.sq x.1 x.2 with | some r => if x.2 = 0 then s.qe.lastGlob else r.glob | none => s.qe.lastGlob
    State.scanSq { s with qe := { s.qe with doorbells := s.qe.doorbells.filter (· != x), lastGlob := g } } x.1 x.2

/-! ## Scans of a submission ring (R351 to R354, R361) -/

/-- The INVALIDATED entry (R347, R354). -/
def invalidatedCqe (i pos first n : Nat) : Cqe :=
  ⟨St.invalidated, 0xFFFF, i, 0, BitVec.ofNat 32 first, BitVec.ofNat 32 n, 0, 0, none, false, some pos⟩

/-- Steps 3 and 4 of an invalidation (R354): the unstarted entries go, and a scan starts from FIRST. On a ring that fetches nothing
the INVALIDATED entry is written at once. -/
def State.invalidate (s : State) (f i : Nat) : State :=
  let s := (s.discardCached f i).updSq f i (fun r => { r with invalAgain := false })
  match s.sq f i with
  | none => s
  | some r =>
    if !r.enable || r.faulted then s.postCqe f r.cq (invalidatedCqe i r.pos r.pos 0) 1
    else (s.setSq f i (some { r with first := some r.pos })).scanSq f i

/-- The scan of an SQ stops (R352, R354): an invalidation is reported, and a further invalidation or scan follows. -/
def State.scanStops (s : State) (f i : Nat) : State :=
  match s.sq f i with
  | none => s
  | some r =>
    let s := s.setSq f i (some { r with scanning := false, again := false, first := none })
    let s := match r.first with
      | some a => s.postCqe f r.cq (invalidatedCqe i r.pos a ((r.pos + 2 ^ r.log2 - a) % 2 ^ r.log2)) 1
      | none => s
    if r.invalAgain then s.invalidate f i else if r.again then s.scanSq f i else s

/-- A scan takes entries forward from the position (R351, R353); the answer says whether it has found its stopping entry. -/
def State.takeEntries (s : State) (f : FnId) (i : BitVec 11) : List Sqe → State × Bool
  | [] => (s, false)
  | e :: l =>
    match s.sq f.val i.toNat with
    | none => (s, true)
    | some r =>
      let ref : EntryRef := ⟨f, i, BitVec.ofNat 16 r.pos⟩
      let next := (r.pos + 1) % 2 ^ r.log2
      let held := (s.startedOf f.val i.toNat).any (fun x => x.ref == ref) || (s.cachedOf f.val i.toNat).any (fun x => x.ref == ref)
      let pass := r.skip.contains r.pos && (held || sqeF e 0 0 1 == 0)
      let r := { r with skip := r.skip.filter (fun (k : Nat) => k != r.pos) }
      if pass then ((s.setSq f.val i.toNat (some { r with pos := next })).showPos f.val i.toNat).takeEntries f i l
      else if held || sqeF e 0 0 1 == 0 then (s, true)
      else if !s.cacheRoom f.val i.toNat then (s.keepDoorbell f.val i.toNat, true)
      else
        let s := (s.setSq f.val i.toNat (some { r with pos := next })).showPos f.val i.toNat
        let s := s.setCache (s.qe.cache ++ [⟨ref, e⟩])
        let s := if i.toNat = 0 then (s.updSq f.val 0 (fun r => { r with idle := false })).writeRsbSq f.val 0 else s
        s.takeEntries f i l

/-- The scan reads ENABLE (R361): 0 disables the ring, 1 enables a disabled one. -/
def State.readEnable (s : State) (f i : Nat) (en : Bool) : State :=
  match s.sq f i with
  | none => s
  | some r =>
    if en = r.enable then s
    else if en then (s.setSq f i (some { r with enable := true, idle := false })).when r.idle (fun s => s.writeRsbSq f i)
    else ((s.setSq f i (some { r with enable := false })).discardCached f i).finishIdle f i

/-- A scan of an SQ has read (R351). A ring whose read position lies within the list goes on; the list is what one request read. One that may not fetch now stops, and is
scanned again when it may (R352). -/
def State.sqData (s : State) (f : FnId) (i : BitVec 11) (en : Bool) (l : List Sqe) : State :=
  let en := if i.toNat = 0 then match s.sq f.val 0 with | some r => r.enable | none => false else en
  let s := s.readEnable f.val i.toNat en
  if en && s.mayFetch f.val i.toNat then
    match s.takeEntries f i l with
    | (s, true) => s.scanStops f.val i.toNat
    | (s, false) => match s.sq f.val i.toNat with
      | some r => s.sendHost (.read f.val (r.base + r.pos * 64) 64)
      | none => s
  else (s.when en (fun s => s.keepDoorbell f.val i.toNat)).scanStops f.val i.toNat

/-! ## Scans of a completion ring -/

/-- A scan of a CQ has read OWN bits from the end of the credit (R351, R357): the leading entries with OWN = 0 are credit. -/
def State.cqData (s : State) (f i : Nat) (own : List Bool) : State :=
  match s.cq f i with
  | none => s
  | some c =>
    let n := (own.takeWhile (fun b => !b)).length
    let k := min n (2 ^ c.log2 - c.credit)
    let more := n = own.length && decide (c.credit + k < 2 ^ c.log2) && s.mayRequest f
    let c' := { c with credit := c.credit + k, scanning := more, again := c.again && more }
    let s := (s.setCq f i (some c')).flushCq f i
    let s := s.when (n = own.length && decide (c.credit + k < 2 ^ c.log2) && !s.mayRequest f) (fun s => s.keepDoorbell f i)
    if more then s.sendHost (.read f (c.base + (c.pos + c.credit + k) % 2 ^ c.log2 * 32) 32)
    else if c.again then s.scanCq f i else s

/-! ## Ring faults (R363) -/

/-- CAUSE of a failing completion (R503). -/
def cplCause : CplStatus → Nat
  | .ok => 0
  | .ur => 3
  | .ca => 4
  | .poisoned => 6
  | .ecrc => 0
  | .parity => 2
  | .buffer => 2

/-- A host access of a ring has failed. -/
def State.ringFault (s : State) (f i cause : Nat) : State :=
  match s.sq f i, s.cq f i with
  | some r, _ =>
    if r.faulted then s
    else
      let s := s.setSq f i (some { r with faulted := true, scanning := false, again := false })
      s.captureError 4 2 cause f r.glob (r.base + r.pos * 64)
  | none, some c =>
    if c.faulted then s
    else
      let s := s.setCq f i (some { c with faulted := true, scanning := false, again := false, hold := [], waiting := [] })
      let s := s.bump Reg.QE_ERR_RING_FAULTS (c.hold.length + c.waiting.length)
      let s := (s.boundSqs f i).foldl (fun s j =>
        ((s.updSq f j (fun r => { r with fetchStopped := true })).writeRsbSq f j).finishIdle f j) s
      s.captureError 4 2 cause f (c.glob + 2 ^ 16) (c.base + (c.pos + c.credit) % 2 ^ c.log2 * 32)
  | none, none => s

/-- The host has been active in this tick (R319). -/
def State.hostActive (s : State) : State := { s with fn := { s.fn with hostAt := s.now } }

/-- RING_SCAN_DATA (R351, R352, R363). -/
def State.scanData (s : State) (f : FnId) (i : BitVec 11) (d : ScanData) : State :=
  let s := s.hostActive
  match d with
  | .sq en l => if (s.sq f.val i.toNat).any (·.scanning) then s.sqData f i en l else s
  | .cq own => if (s.cq f.val i.toNat).any (·.scanning) then s.cqData f.val i.toNat own else s
  -- the completion is discarded, and the request ends in a timeout (R331, R436)
  | .failed .ecrc => s.ecrcFail f.val
  | .failed .parity => s.aer f.val Aer.internal
  | .failed .buffer => s
  | .failed .ok => s
  | .failed st =>
    let s := s.when (st == .poisoned) (fun s => (s.aer f.val Aer.poisoned).bump Reg.HIF_ERR_COUNT_POISONED)
    s.ringFault f.val i.toNat (cplCause st)
def execRingScanData (fn : FnId) (i : BitVec 11) (d : ScanData) (s : State) : Out := .next (s.scanData fn i d)

/-! ## Doorbells (R350, R352, R354) -/

/-- The function is there: the PF, or a VF that is enabled (R416). -/
def State.fnThere (s : State) (f : Nat) : Bool :=
  f == 0 || (s.fn.vfEnable && decide (f ≤ s.fn.numVfs))

/-- DOORBELL_WRITE (R319, R333, R350 to R352, R416, R423): the doorbell of a ring that may not fetch now is kept, and so is one written before
OPERATIONAL. In D3hot the write ends as Unsupported Request (R337), and the doorbell of a ring is kept (R352). -/
def State.doorbell (s : State) (f i : Nat) : State :=
  let s := s.hostActive
  if !s.fnThere f then s
  else if s.inReset f then s.aer f Aer.unsupported
  else if s.d3hot f then
    (s.aer f Aer.unsupported).when ((s.sq f i).isSome || (s.cq f i).isSome) (fun s => s.keepDoorbell f i)
  else if s.inDormant then s.gate (8 * i + (if f = 0 then 0x1F00000 else 0)) f (if f = 0 then 0 else 3) true
  else if !s.operational then s.keepDoorbell f i
  else if (s.sq f i).isSome then s.scanSq f i
  else if (s.cq f i).isSome then s.scanCq f i
  else s.bump Reg.QE_ERR_STRAY_DOORBELLS
def execDoorbellWrite (fn : FnId) (i : BitVec 11) (s : State) : Out := .next (s.doorbell fn.val i.toNat)

/-- INVALIDATE_DOORBELL (R337, R350, R354). While a scan is in progress the invalidation begins when it stops. -/
def State.invalidateBell (s : State) (f i : Nat) : State :=
  let s := s.hostActive
  if !s.fnThere f then s
  else if s.inReset f || s.d3hot f then s.aer f Aer.unsupported
  else if s.inDormant then s.gate (0x4000 + 8 * i + (if f = 0 then 0x1F00000 else 0)) f (if f = 0 then 0 else 3) true
  else match s.sq f i with
    | none => s.bump Reg.QE_ERR_STRAY_DOORBELLS
    | some r => if r.scanning then s.setSq f i (some { r with invalAgain := true }) else s.invalidate f i
def execInvalidateDoorbell (fn : FnId) (i : BitVec 11) (s : State) : Out := .next (s.invalidateBell fn.val i.toNat)

/-! ## Interrupts (R326, R359) -/

def execModerationTimerExpiry (fn : FnId) (cq : BitVec 11) (s : State) : Out := .next (s.moderationOver fn.val cq.toNat)

/-- MSIX_UNMASK (R326): a mask is cleared, and a pending message is sent once. -/
def State.unmask (s : State) (f v : Nat) : State :=
  let s := s.updFn f (fun r => if r.unmasked.contains v then r else { r with unmasked := insertBy (· < ·) v r.unmasked })
  let r := s.fnRec f
  if r.pending.contains v && s.mayRequest f && !r.funcMask then
    (s.updFn f (fun r => { r with
      pending := r.pending.filter (· != v)
      unmaskSent := r.unmaskSent.filter (fun x => x.2 == s.now) ++ [(v, s.now)] })).sendHost (.msix f v)
  else s
def execMsixUnmask (fn : FnId) (vector : BitVec 11) (s : State) : Out := .next (s.unmask fn.val vector.toNat)

/-! ## Admin rings (R364, R371) -/

/-- The bases and sizes of the admin rings may change. -/
def State.adminFree (s : State) (f : Nat) : Bool := !s.flag (Reg.QE_ADMIN_CFG_EN f) && s.flag (Reg.QE_ADMIN_STATUS_IDLE f)

/-- EN becomes 1: both admin rings start at position 0, and the CQ is credit as a whole. -/
def State.adminStart (s : State) (f : Nat) : State :=
  let b (lo hi : Nat) : Nat := (s.reg lo).toNat + 2 ^ 32 * (s.reg hi).toNat
  let q : SqRec := ⟨0, b (Reg.QE_ADMIN_SQ_BASE_LO f) (Reg.QE_ADMIN_SQ_BASE_HI f), s.f (Reg.QE_ADMIN_CFG_SQ_LOG2 f), 0, 1, 0, true,
    s.flag (Reg.QE_ADMIN_STATUS_IDLE f), false, false, false, false, none, false, none, []⟩
  let n := s.f (Reg.QE_ADMIN_CFG_CQ_LOG2 f)
  let old := match s.cq f 1 with | some c => (c.hold, c.waiting) | none => ([], [])
  let c : CqRec := ⟨0, b (Reg.QE_ADMIN_CQ_BASE_LO f) (Reg.QE_ADMIN_CQ_BASE_HI f), n, 0, 1, 1, s.f (Reg.QE_ADMIN_CFG_VECTOR f),
    s.flag (Reg.QE_ADMIN_CFG_IEN f), 0, 2 ^ n, old.1, old.2, false, 0, none, false, false, false⟩
  ((((s.setSq f 0 (some q)).setCq f 1 (some c)).showPos f 0).showPos f 1).flushCq f 1

/-- EN becomes 0: fetching stops, and IDLE follows. -/
def State.adminStop (s : State) (f : Nat) : State :=
  ((s.updSq f 0 (fun r => { r with enable := false })).discardCached f 0).finishIdle f 0

/-- A write to QE_ADMIN_CFG: sizes that may not change, or out of range, are left and set CFG_REFUSED; VECTOR is at most 63 for a
VF. -/
def State.adminCfg (s : State) (f : Nat) (v : Word) : State :=
  let a := Reg.QE_ADMIN_CFG f
  let was := s.flag (Reg.QE_ADMIN_CFG_EN f)
  let ok (x : Fld) : Bool := let n := bits v x.lo x.w; n == s.f x || (s.adminFree f && decide (6 ≤ n ∧ n ≤ 16))
  let okV := f == 0 || decide (bits v 16 11 < 64)
  let keep (b : Bool) (x : Fld) (w : Word) : Word := if b then w else putBits w x.lo x.w (s.f x)
  let w := keep (ok (Reg.QE_ADMIN_CFG_SQ_LOG2 f)) (Reg.QE_ADMIN_CFG_SQ_LOG2 f) v
  let w := keep (ok (Reg.QE_ADMIN_CFG_CQ_LOG2 f)) (Reg.QE_ADMIN_CFG_CQ_LOG2 f) w
  let w := keep okV (Reg.QE_ADMIN_CFG_VECTOR f) w
  let bad := !(ok (Reg.QE_ADMIN_CFG_SQ_LOG2 f) && ok (Reg.QE_ADMIN_CFG_CQ_LOG2 f) && okV)
  let s := (s.writeReg a w).when bad (fun s => s.setB (Reg.QE_ADMIN_STATUS_CFG_REFUSED f) true)
  let s := s.updCq f 1 (fun c => { c with ien := s.flag (Reg.QE_ADMIN_CFG_IEN f), vector := s.f (Reg.QE_ADMIN_CFG_VECTOR f) })
  let en := s.flag (Reg.QE_ADMIN_CFG_EN f)
  if en && !was then s.adminStart f else if was && !en then s.adminStop f else s

/-- A write to a base of the admin rings. -/
def State.adminBase (s : State) (f a : Nat) (low : Bool) (v : Word) : State :=
  if !s.adminFree f || (low && v.toNat % 64 != 0) then s.setB (Reg.QE_ADMIN_STATUS_CFG_REFUSED f) true else s.writeReg a v

/-- ADMIN_CFG_WRITE (R364, R371): the bases at 0 to 3, QE_ADMIN_CFG at 4. -/
def State.adminWrite (s : State) (f : Nat) (reg : Nat) (v : Word) : State :=
  match reg with
  | 0 => s.adminBase f (Reg.QE_ADMIN_SQ_BASE_LO f) true v
  | 1 => s.adminBase f (Reg.QE_ADMIN_SQ_BASE_HI f) false v
  | 2 => s.adminBase f (Reg.QE_ADMIN_CQ_BASE_LO f) true v
  | 3 => s.adminBase f (Reg.QE_ADMIN_CQ_BASE_HI f) false v
  | _ => s.adminCfg f v
def execAdminCfgWrite (fn : FnId) (reg : Fin 5) (v : Word) (s : State) : Out :=
  .next (s.pfWrite (Reg.pageBase fn.val + 4 * reg.val) (fun s => s.adminWrite fn.val reg.val v))

end Sys2Proof.Machine
end

