-- ==== Sys2Proof/Machine/Movers.lean ====
section
/-! DEFINITION. The block movers (R372 to R391): the bursts of each kind of work, completions of the host, engine faults, aborts and
restarts. -/

namespace Sys2Proof.Machine

/-! ## What a transfer still takes from the host, or gives to it (R173, R174, R381) -/

/-- Bytes that the device appends to a transfer's data: the payload CRC or the frame check sequence (R390, R410). -/
def trailerLen (r : Xfer) : Nat := if (r.kind == .bulkOut && r.crc) || (r.kind == .tunnelTx && r.addFcs && r.format == 0) then 4 else 0

/-- Ordinal of the next packet that a transfer's buffers take. -/
def packetIx (r : Xfer) : Nat := seqDist (if r.kind = .control then 1 else r.first) r.next

/-- A transfer moves data from the host. -/
def takesHost (r : Xfer) : Bool :=
  match r.kind with
  | .bulkOut | .tunnelTx => true
  | .control => !ctlIn r && ctlLen r != 0
  | _ => false

/-- The packet buffer of an OUT transfer's next packet is free (R173, R174, R381). -/
def State.canFill (s : State) (x : Nat) (r : Xfer) : Bool :=
  takesHost r && !r.waitSlot && !r.squash && !r.clearStall && !s.behind x r && !r.lastSeen &&
    (if r.kind = .control then r.stage == 1 && r.bufs.isEmpty
     else decide (r.bufs.length < s.windowOf r) && !r.bufs.any (fun b => b.seq % s.windowOf r == r.next % s.windowOf r))

/-- Host bytes of the next packet: offset and number. -/
def State.fillNeed (s : State) (r : Xfer) : Nat × Nat :=
  let a := packetIx r * s.packetSize r
  (a, min r.len (a + s.packetSize r) - a)

/-- The next packet is in its buffer (R173, R390, R410): host bytes, then what of the trailer falls into it. -/
def State.fillOut (s : State) (x : Nat) (host : List Byte) : State :=
  match s.xfer x with
  | none => s
  | some r =>
    let p := s.packetSize r
    let a := packetIx r * p
    let tl := trailerLen r
    let host := host.take (s.fillNeed r).2
    let all := if tl = 0 then [] else r.data ++ host
    let tail := if tl = 0 ∨ a + p ≤ r.len then [] else ((leBytes 4 (crc32 all)).drop (a - r.len)).take (a + p - max a r.len)
    let last := decide (r.len + tl ≤ a + p)
    let b : PktBuf := ⟨r.next, host ++ tail, last⟩
    let r := { r with bufs := r.bufs ++ [b], next := (r.next + 1) % 65536
                      hostDone := r.hostDone + host.length, data := all
                      lastSeen := last && r.kind != .control }
    ((s.setXfer x (some r)).fillBuf r b).showBufs r |>.saveSeq r

/-- The buffer of an IN transfer that the mover drains next: the oldest packet received in order (R174). -/
def drainBuf (r : Xfer) : Option PktBuf :=
  match r.kind with
  | .bulkOut | .tunnelTx => none
  | _ => r.bufs.foldl (fun (a : Option PktBuf) b =>
      if seqDist r.first b.seq < seqDist r.first r.next then match a with
        | none => some b
        | some c => if seqDist r.first b.seq < seqDist r.first c.seq then some b else some c
      else a) none

/-- Bytes padded with zeros to whole 64-byte units. -/
def pad64 (b : List Byte) : List Byte := padTo (ceilDiv b.length 64 * 64) b

/-- One packet goes to the host (R366, R381, R391, R411): the bytes beyond the data read as 0, a payload CRC and what lies beyond the
buffer are not written. -/
def State.drainIn (s : State) (c x : Nat) : State :=
  match s.xfer x with
  | none => s
  | some r =>
    match drainBuf r with
    | none => s
    | some b =>
      let bufs := r.bufs.filter (fun y => y.seq != b.seq)
      let final := s.allIn r && bufs.isEmpty
      let keep := r.kind == .tunnelRx || (r.kind == .bulkIn && r.crc)
      let got := s.bufBytes r b
      let data := if keep then r.data ++ got else r.data
      let total := if keep then data.length else r.hostDone + got.length
      let stop :=
        if r.kind = .bulkIn ∧ r.crc then (if final then total - 4 else (total - 4) / 64 * 64)
        else if r.kind = .control then total else min r.len total
      let out := if keep then (data.take stop).drop r.hostDone else got.take (stop - r.hostDone)
      let out := if final ∧ r.kind = .bulkIn then padTo (ceilDiv r.len 64 * 64 - r.hostDone) out else pad64 out
      let s := if out = [] then s
        else (s.sendHost (.write r.fn (r.addr + r.hostDone) out)).bump (Reg.BM_WRITE_UNITS_COUNT (c / 64)) (out.length / 64)
      let r := { r with bufs := bufs, data := data, hostDone := max r.hostDone stop }
      ((s.setXfer x (some r)).showBufs r).settleXfer x

/-! ## Clip feeds (R194, R381) -/

/-- Halves of a clip's stream that are fetched or begun and not yet played. -/
def ClipRun.halves (c : ClipRun) : Nat := ceilDiv c.fetched 1152 - c.at_ / 1152

/-- The next burst of a clip's feed: host address, bytes, EBM address, and the half in which the clip's stream begins. It is the
clip's turn when every clip before it has been fetched whole, and the half it fills has been drained. -/
def State.clipBurst (s : State) (g : Nat) (ref : EntryRef) : Option (Nat × Nat × Nat × Nat) :=
  let q := s.gen g
  match q.slot, q.clips.find? (fun c => c.ref == ref) with
  | some a, some c =>
    let before := q.clips.takeWhile (fun c => c.ref != ref)
    let h0 := if c.fetched = 0 then match before.getLast? with
        | some p => (p.h0 + ceilDiv p.stream 1152) % 2
        | none => c.h0
      else c.h0
    let k := c.fetched / 1152
    let room := (before.map (·.halves)).foldl (· + ·) 0 + (k - c.at_ / 1152)
    -- a held notice keeps the next refill back (R232)
    if s.gd.held.any (fun v => v.2 == .clip g) then none
    else if before.all (fun p => p.stream != 0 && p.fetched == p.stream) && (c.stream == 0 || c.fetched != c.stream) && decide (room < 2) then
      let n := min (1152 - c.fetched % 1152) (clipBytes c.samples - c.fetched % max 1 (clipBytes c.samples))
      some (c.addr + c.fetched % max 1 (clipBytes c.samples), n, halfAddr a.1 a.2 ((h0 + k) % 2) + c.fetched % 1152, h0)
    else none
  | _, _ => none

/-- A burst of a clip's feed has come (R194). -/
def State.clipData (s : State) (g : Nat) (ref : EntryRef) (b : List Byte) : State :=
  match s.clipBurst g ref with
  | none => s
  | some (_, n, at_, h0) =>
    let s := s.ebmWrite at_ (b.take n)
    let q := s.gen g
    s.setGen g { q with clips := q.clips.map (fun c => if c.ref = ref then { c with fetched := c.fetched + n, h0 := h0 } else c) }

/-! ## Moves (R374 to R380) -/

/-- How a MOVE, MOVE_INDEXED or FENCE ends (R374, R377, R384). -/
def moveEnding (j : Job) (status : Nat) (urgent : Bool) : Ending :=
  match j.kind with
  | .move _ => ⟨status, j.residue, BitVec.ofNat 32 j.items,
      if status = St.ok then 0xFFFFFFFF else BitVec.ofNat 32 j.items, 0, 0, urgent⟩
  | .indexed _ => ⟨status, j.residue, BitVec.ofNat 32 j.items, 0, 0, 0, urgent⟩
  | _ => ⟨status, 0, 0, 0, 0, 0, urgent⟩

/-- Host addresses of the element that comes next: source and destination (R377). -/
def element (j : Job) : Nat × Nat :=
  let e := j.src + j.offsets.headD 0 * 64
  let l := j.dst + j.items * j.next
  match j.kind with
  | .indexed true => (l, e)
  | _ => (e, l)

/-- The next read of a job: kind, address and bytes (R381). -/
def State.nextRead (s : State) (j : Job) : Option (ReqKind × Nat × Nat) :=
  match j.kind with
  | .fence => some (.fence, j.src, 64)
  | .move _ => if j.haveDesc then some (.data, j.src + j.done, min 4096 (j.len - j.done)) else some (.desc, j.next, 64)
  | .indexed _ => if j.offsets.isEmpty then some (.table, j.tablePos, 64) else some (.data, (element j).1, j.next)
  | .xfer x =>
    match s.xfer x with
    | some r =>
      let (a, n) := s.fillNeed r
      if s.canFill x r && decide (0 < n) then some (.data, r.addr + a, ceilDiv n 64 * 64) else none
    | none => none
  | .clip g => (s.clipBurst g j.ref).map (fun b => (.data, b.1, b.2.1))
  | .tap _ => none

/-- A read, or the write of an element, is inside the windows of its entry (R380). -/
def readAllowed (j : Job) (k : ReqKind) (a n : Nat) : Bool :=
  match j.kind, k with
  | .move true, .desc => insideWindows j.windows a n false && decide (a + n ≤ 2 ^ 64)
  | .indexed _, .table => insideWindows j.windows a n false
  | .indexed _, .data => insideWindows j.windows a n false && insideWindows j.windows (element j).2 n true
  | _, _ => true

/-- A fetched descriptor is checked (R375, R378, R380): the status that ends its entry, or the job with it. -/
def takeDesc (j : Job) (b : List Byte) : Nat × Job :=
  let src := field b 0 8
  let dst := field b 8 8
  let len := field b 16 4
  let last := field b 20 1 % 2 == 1
  let next := field b 24 8
  if field b 20 4 / 2 ≠ 0 ∨ (b.drop 32).any (· != 0) ∨ (len < 64 ∧ len % 64 = 0) then (St.malformed, j)
  else if src % 64 ≠ 0 ∨ dst % 64 ≠ 0 ∨ len % 64 ≠ 0 ∨ (!last ∧ next % 64 ≠ 0) then (St.align, j)
  else if !(insideWindows j.windows src len false && insideWindows j.windows dst len true) then (St.dmaWindow, j)
  else (St.ok, { j with src := src, dst := dst, len := len, last := last, next := next, at_ := j.next, haveDesc := true })

/-! ## Engines (R372, R373, R381) -/

/-- Moves pause while their function is frozen, and every channel of a function in D3hot waits (R337, R372, R427). -/
def State.held_ (s : State) (j : Job) : Bool :=
  s.d3hot j.ref.fn.val || (match j.kind with
    | .move _ | .indexed _ => s.frozen j.ref.fn.val
    | _ => false)

/-- A channel has a unit of work ready (R372, R381). -/
def State.unitReady (s : State) (c : Nat) : Bool :=
  match (s.chan c).job with
  | none => false
  | some j =>
    j.ending.isNone && !s.held_ j && ((s.nextRead j).isSome || (match j.kind with
      | .xfer x => (match s.xfer x with
        | some r => s.canFill x r || (drainBuf r).isSome
        | none => false)
      | _ => false))

/-- The next channel with a unit ready, in ascending number after the last one served (R372). -/
def State.nextChan (s : State) (e : Nat) (skip : Option Nat) : Option Nat :=
  ((List.range 64).map (fun i => e * 64 + ((s.engine e).lastChan + 1 + i) % 64)).find? (fun c => skip != some c && s.unitReady c)

/-- An entry that an engine carries ends. -/
def State.endMove (s : State) (c : Nat) (j : Job) (status : Nat) (urgent : Bool) : State :=
  s.endEntry (some c) j.ref (moveEnding j status urgent)

/-- The engine lets go of its channel. -/
def State.letGo (s : State) (e : Nat) : State := s.setEngine e { s.engine e with holder := none }

/-- The data of a burst has come to channel `c` (R374 to R377, R381, R384). -/
def State.burstData (s : State) (c : Nat) (j : Job) (k : ReqKind) (b : List Byte) : State :=
  let e := c / 64
  let units (s : State) (n : Nat) : State := s.bump (Reg.BM_WRITE_UNITS_COUNT e) (n / 64)
  match j.kind, k with
  | .fence, _ => s.endMove c j St.ok false
  | .move _, .desc =>
    match takeDesc j b with
    | (0, j) => s.setJob c (some j)
    | (st, j) => (s.when (st == St.dmaWindow) (fun s => s.bump (Reg.BM_ERR_WINDOW e))).endMove c j st false
  | .move _, _ =>
    let s := units (s.sendHost (.write j.ref.fn.val (j.dst + j.done) b)) b.length
    let j := { j with done := j.done + b.length, residue := j.residue + b.length }
    if j.done < j.len then s.setJob c (some j)
    else
      let j := { j with items := j.items + 1, haveDesc := false, done := 0 }
      let s := s.setJob c (some j)
      if j.last then s.endMove c j St.ok false
      else if 4096 ≤ j.items then (s.bump (Reg.BM_ERR_LOOP e)).endMove c j St.loop false
      else s
  | .indexed _, .table =>
    s.setJob c (some { j with tablePos := j.tablePos + 64, offsets := ((List.range 16).map (fun i => field b (4 * i) 4)).drop (j.items % 16) })
  | .indexed _, _ =>
    let s := units (s.sendHost (.write j.ref.fn.val (element j).2 b)) b.length
    let j := { j with items := j.items + 1, residue := j.residue + b.length, offsets := j.offsets.tail }
    let s := s.setJob c (some j)
    if j.len ≤ j.items then s.endMove c j St.ok false else s
  | .xfer x, _ => (s.letGo e).fillOut x b
  | .clip g, _ => (s.letGo e).clipData g j.ref b
  | .tap _, _ => s.letGo e

/-- A burst ends: its data takes effect, and an entry whose end has come meanwhile completes (R382). -/
def State.burstEnds (s : State) (c : Nat) (k : ReqKind) (b : List Byte) : State :=
  match (s.chan c).job with
  | none => s.letGo (c / 64)
  | some j =>
    match j.ending with
    | none => (s.burstData c j k b).settleFn j.ref.fn.val
    | some en =>
      let s := match j.kind with
        | .fence => s
        | _ => s.burstData c j k b
      match (s.chan c).job with
      | some j' =>
        let res := match j'.kind with | .move _ | .indexed _ => j'.residue | _ => en.residue
        (s.freeChan c).completeRef j'.ref en.status res en.d4 en.d5 en.d6 en.d7 en.urgent
      | none => s

/-- Channel `c` takes its engine for a burst (R372, R380, R381): a read goes out, or what was prefetched is used; a packet without
host bytes, and a packet on its way to the host, need no read. -/
def State.startUnit (s : State) (e c : Nat) : State :=
  match (s.chan c).job with
  | none => s.letGo e
  | some j =>
    let g := s.engine e
    match s.nextRead j with
    | some (k, a, n) =>
      if !readAllowed j k a n then (s.bump (Reg.BM_ERR_WINDOW e)).endMove c j St.dmaWindow false
      else
        let fits (q : HostReq) : Bool := q.prefetch && q.chan == c && q.kind == k && q.addr == a && q.len == n
        let s := s.setEngine e { g with holder := some c, lastChan := c % 64 }
        let g := s.engine e
        match g.fetched with
        | some (q, d) =>
          let s := s.setEngine e { g with fetched := none }
          if fits q then s.burstEnds c k d
          else (s.setEngine e { s.engine e with reqs := g.reqs ++ [⟨c, j.ref.fn.val, k, a, n, false⟩] }).sendHost (.read j.ref.fn.val a n)
        | none =>
          if g.reqs.any fits then s.setEngine e { g with reqs := replaceFirst fits (fun q => { q with prefetch := false }) g.reqs }
          else (s.setEngine e { g with reqs := g.reqs ++ [⟨c, j.ref.fn.val, k, a, n, false⟩] }).sendHost (.read j.ref.fn.val a n)
    | none =>
      match j.kind with
      | .xfer x =>
        match s.xfer x with
        | some r =>
          let s := s.setEngine e { g with holder := none, lastChan := c % 64 }
          if s.canFill x r then s.fillOut x [] else s.drainIn c x
        | none => s.letGo e
      | _ => s.letGo e

/-- While a channel runs, the engine prefetches the first read of the next ready channel (R373). -/
def State.prefetch (s : State) (e c : Nat) : State :=
  let g := s.engine e
  if g.fetched.isSome || g.reqs.any (·.prefetch) then s
  else match s.nextChan e (some c) with
    | none => s
    | some d =>
      match (s.chan d).job with
      | none => s
      | some j =>
        match s.nextRead j with
        | some (k, a, n) =>
          if readAllowed j k a n then
            (s.setEngine e { g with reqs := g.reqs ++ [⟨d, j.ref.fn.val, k, a, n, true⟩] }).sendHost (.read j.ref.fn.val a n)
          else s
        | none => s

/-- BM_BURST_START (R372, R373, R381). -/
def State.burstStart (s : State) (e : Nat) : State :=
  if !s.engineRuns e then s
  else
    let next (s : State) : State := match s.nextChan e none with
      | some c => s.startUnit e c
      | none => s
    match (s.engine e).holder with
    | none => next s
    | some c =>
      if s.burstOpen c then s.prefetch e c
      else match (s.chan c).job with
        | none => s.letGo e
        | some j => if s.held_ j then next (s.letGo e) else s.startUnit e c

/-- The channel that the next step of an engine serves, when none waits for the host's data. -/
def State.servedChan (s : State) (e : Nat) : Option Nat :=
  match (s.engine e).holder with
  | none => s.nextChan e none
  | some c => if s.burstOpen c then none else some c

/-! ## The end of what a channel carries (R385, R387, R388) -/

/-- The clips from a clip's place in its generator's queue on end with a status; a playing one lets the generator ramp out at the next
pass (R388). -/
def State.failClips (s : State) (g : Nat) (ref : EntryRef) (status : Nat) : State :=
  let q := s.gen g
  let before := q.clips.takeWhile (fun c => c.ref != ref)
  let rest := q.clips.drop before.length
  match rest with
  | [] => s.completeRef ref status
  | c :: _ =>
    let s := rest.foldl (fun s c => s.endClip c status) s
    if before.isEmpty && c.first.isSome then s.setGen g { s.gen g with stopAt := some (s.mfN + 1) }
    else (s.setGen g { s.gen g with clips := before }).restGen g

/-- One clip leaves its generator's queue with a status (R385). -/
def State.dropClip (s : State) (g : Nat) (ref : EntryRef) (status : Nat) : State :=
  match (s.gen g).clips.find? (fun c => c.ref == ref) with
  | none => s.completeRef ref status
  | some c => ((s.endClip c status true).setGen g { s.gen g with clips := (s.gen g).clips.filter (fun d => d.ref != ref) }).restGen g

/-- A tap's buffer ends: its CQE fields are those of R209. -/
def State.endTapBuf (s : State) (t : Nat) (b : TapBuf) (status : Nat) (urgent : Bool) : State :=
  let f := b.first.getD 0
  s.endEntry (s.chanOf b.ref) b.ref ⟨status, b.written, BitVec.ofNat 32 f, BitVec.ofNat 32 (f / 2 ^ 32),
    BitVec.ofNat 32 (s.tap t).lost, 0, urgent⟩

/-- The entry on a channel ends with a status (R385, R387, R388). After an engine fault the work that the channel feeds goes too. -/
def State.endJob (s : State) (c status : Nat) (fault : Bool) : State :=
  match (s.chan c).job with
  | none => s
  | some j =>
    match j.kind with
    | .xfer x => if (s.xfer x).isSome then s.endXfer x status (!fault) else s.endMove c j status (!fault)
    | .clip g => if fault then s.failClips g j.ref status else s.dropClip g j.ref status
    | .tap t =>
      let l := (s.tap t).bufs
      let (go, stay) := if fault then (l, []) else l.partition (fun b => b.ref == j.ref)
      go.foldl (fun s b => s.endTapBuf t b status (!fault)) (s.setTap t { s.tap t with bufs := stay })
    | _ => s.endMove c j status (!fault)

/-- A bus error on a request stops engine `e` (R387). -/
def State.engineFault (s : State) (e : Nat) (q : HostReq) (kind cause : Nat) : State :=
  let s := s.setF Reg.BM_STATUS_STOPPED (setBit (s.f Reg.BM_STATUS_STOPPED) e true)
  let s := if s.flag (Reg.BM_FAULT_INFO_VALID e) then s
    else
      let s := (s.setF (Reg.BM_FAULT_INFO_CHANNEL e) (q.chan % 64)).setF (Reg.BM_FAULT_INFO_KIND e) kind
      let s := (s.setF (Reg.BM_FAULT_INFO_FUNCTION e) q.fn).setB (Reg.BM_FAULT_INFO_PREFETCH e) q.prefetch
      let s := (s.setReg (Reg.BM_FAULT_ADDR_LO e) (BitVec.ofNat 32 q.addr)).setReg (Reg.BM_FAULT_ADDR_HI e)
        (BitVec.ofNat 32 (q.addr / 2 ^ 32))
      let s := (s.setReg (Reg.BM_FAULT_MF_LO e) (BitVec.ofNat 32 s.mfN)).setReg (Reg.BM_FAULT_MF_HI e)
        (BitVec.ofNat 32 (s.mfN / 2 ^ 32))
      s.setB (Reg.BM_FAULT_INFO_VALID e) true
  let s := (s.bump (Reg.BM_EVENTS_FAULTS e)).captureError 5 1 cause q.fn e q.addr
  let s := s.when (kind == 2) (fun s => s.aer q.fn Aer.timeout)
  let s := s.when (kind == 3) (fun s => (s.aer q.fn Aer.poisoned).bump Reg.HIF_ERR_COUNT_POISONED)
  let s := s.setEngine e { s.engine e with holder := none, fetched := none }
  let l := (numbers (e * 64) 64).filterMap (fun c => (s.chan c).job.map (fun j => (c, j.ref)))
  (s.inCqeOrder (·.2) l).foldl (fun (s : State) (x : Nat × EntryRef) => s.endJob x.1 St.engineFault true) s

/-- KIND of a fault (table Block mover registers). -/
def faultKind : CplStatus → Nat
  | .ok => 0
  | .ur => 0
  | .ca => 1
  | .poisoned => 3
  | .ecrc => 0
  | .parity => 0
  | .buffer => 0

/-- A parity error in the data buffer of engine `e` (R436, R503): the entry on channel `c` ends with ABORTED, and the engine runs on. -/
def State.bufferLost (s : State) (e c : Nat) : State :=
  match (s.chan c).job with
  | none => s
  | some j =>
    let g := ((s.sq j.ref.fn.val j.ref.sq.toNat).map (·.glob)).getD 0
    (s.captureError 5 7 2 j.ref.fn.val g 0).endJob c St.aborted false

/-- BM_HOST_COMPLETION (R387): the completion of the engine's oldest request. On a stopped engine the data is discarded. A completion that
fails its ECRC, or its parity on the HIF datapath, is discarded, and its request stays outstanding (R331, R436). -/
def State.hostCompletion (s : State) (e : Nat) (st : CplStatus) (data : List Byte) : State :=
  match (s.engine e).reqs with
  | [] => s
  | q :: rest =>
    let s := s.hostActive
    match st with
    | .ecrc => s.ecrcFail q.fn
    | .parity => s.aer q.fn Aer.internal
    | _ =>
    let s := s.setEngine e { s.engine e with reqs := rest }
    if s.stopped e then s
    else if st = .buffer then s.bufferLost e q.chan
    else if st ≠ .ok then s.engineFault e q (faultKind st) (cplCause st)
    else
      let s := s.bump (Reg.BM_READ_UNITS_COUNT e) (q.len / 64)
      let b := (padTo q.len data).take q.len
      if q.prefetch then s.setEngine e { s.engine e with fetched := some (q, b) } else s.burstEnds q.chan q.kind b
def execBmHostCompletion (e : EngineId) (st : CplStatus) (data : List Byte) (s : State) : Out :=
  .next (s.hostCompletion e.val st data)

/-- HOST_COMPLETION_TIMEOUT (R329, R363, R387): a bus error of the requester. -/
def State.hostTimeout (s : State) (who : Requester) : State :=
  let s := s.hostActive
  match who with
  | .engine e =>
    match (s.engine e.val).reqs with
    | [] => s
    | q :: rest =>
      let s := s.setEngine e.val { s.engine e.val with reqs := rest }
      if s.stopped e.val then s else s.engineFault e.val q 2 5
  | .ring f i => (s.ringFault f.val i.toNat 5).aer f.val Aer.timeout
def execHostCompletionTimeout (who : Requester) (s : State) : Out := .next (s.hostTimeout who)

/-- BM_ABORT (R385): the entry in progress on a channel ends with ABORTED. -/
def execBmAbort (ch : BitVec 10) (s : State) : Out :=
  .next (s.pfWrite Reg.BM_ABORT (fun s => s.endJob ch.toNat St.aborted false))

/-! ## Restart (R389) -/

/-- BM_BURST_START with a parity error in the data buffer that the burst would use (R372, R436). -/
def State.burstRead (s : State) (e : Nat) (parity : Bool) : State :=
  if parity then
    match (if s.engineRuns e then s.servedChan e else none) with
    | some c => s.bufferLost e c
    | none => s
  else s.burstStart e
def execBmBurstStart (e : BurstAt) (s : State) : Out := .next (s.burstRead e.engine.val e.parity)

/-- ENGINE_RESTART of engine `e`: at once when the engine is not stopped, else it waits for the outstanding requests. -/
def State.engineRestart (s : State) (r : EntryRef) (e : Nat) : State :=
  if s.stopped e then
    (s.setEngine e { s.engine e with restarts := (s.engine e).restarts ++ [r] }).setB (Reg.BM_ENG_STATUS_RESTARTING e) true
  else s.completeRef r St.ok

/-- ENGINE_RESTART_DONE (R389). -/
def State.restartDone (s : State) (e : Nat) : State :=
  let g := s.engine e
  if g.restarts.isEmpty || !g.reqs.isEmpty then s
  else
    let s := (s.setEngine e { g with restarts := [], holder := none, fetched := none }).setB (Reg.BM_ENG_STATUS_RESTARTING e) false
    let s := s.setF Reg.BM_STATUS_STOPPED (setBit (s.f Reg.BM_STATUS_STOPPED) e false)
    (s.inCqeOrder id g.restarts).foldl (fun (s : State) (r : EntryRef) => s.completeRef r St.ok) s
def execEngineRestartDone (e : EngineId) (s : State) : Out := .next (s.restartDone e.val)

/-! ## How an entry comes to its channel (R374, R377, R384) -/

/-- A job of kind `k` that has done nothing yet. -/
def newJob (r : EntryRef) (k : JobKind) : Job where
  ref := r
  kind := k
  src := 0
  dst := 0
  len := 0
  next := 0
  last := true
  at_ := 0
  haveDesc := true
  done := 0
  items := 0
  residue := 0
  offsets := []
  tablePos := 0
  windows := []
  ending := none

/-- The job of a MOVE, MOVE_INDEXED or FENCE entry. -/
def entryJob (r : EntryRef) (e : Sqe) : Job :=
  match sqeOpcode e with
  | 0x20 =>
    if sqeF e 1 16 1 = 1 then { newJob r (.move true) with next := sqe64 e 2, haveDesc := false, last := false }
    else { newJob r (.move false) with src := sqe64 e 2, dst := sqe64 e 4, len := sqeF e 6 0 32 }
  | 0x21 => { newJob r (.indexed (sqeF e 1 16 1 == 1)) with
      src := sqe64 e 2, tablePos := sqe64 e 4, len := sqeF e 6 0 32, next := sqeF e 7 0 32, dst := sqe64 e 8 }
  | _ => { newJob r .fence with src := sqe64 e 2 }

/-- Channel that an I/O entry names (R366). -/
def sqeChan (e : Sqe) : Option Nat :=
  match sqeOpcode e with
  | 0x02 | 0x20 | 0x21 => some (sqeF e 1 0 10)
  | 0x10 | 0x11 | 0x18 | 0x19 => some (sqeF e 3 0 10)
  | 0x12 => some (sqeF e 8 0 10)
  | 0x30 => some (sqeF e 10 0 10)
  | 0x32 => some (sqeF e 5 0 10)
  | _ => none

end Sys2Proof.Machine
end

