-- ==== Sys2Proof/Machine/Bridge.lean ====
section
/-! DEFINITION. The commands of the crossing bridge (R323, R328, R393 to R408): accesses through remote windows, and their end. -/

namespace Sys2Proof.Machine

/-! ## Arrival (R323, R396, R399, R400, R404) -/

/-- The parts into which an access of `n` bytes at `off` is split (R396): 8 bytes wide where an aligned 8 bytes remain, 4 otherwise. -/
def splitParts : Nat → Nat → Nat → List (Nat × Nat)
  | 0, _, _ => []
  | fuel + 1, off, n =>
    if n = 0 then []
    else if off % 8 = 0 ∧ 8 ≤ n then (off, 8) :: splitParts fuel (off + 8) (n - 8)
    else (off, 4) :: splitParts fuel (off + 4) (n - 4)

/-- A host request has arrived at the bridge: the next one comes after it (R397). -/
def State.arrive (s : State) : State := { s with xb := { s.xb with arrived := s.xb.arrived + 1 } }

/-- The form of an access is one that is carried (R396): within the view, a multiple of 4, at most `most` bytes. -/
def accessForm (k off n most : Nat) : Bool :=
  decide (off % 4 = 0 ∧ n % 4 = 0 ∧ 0 < n ∧ n ≤ most ∧ off + n ≤ viewSize k)

/-- What stands before the bridge: 0 the bridge is reached, 1 the function's BAR does not answer (R337, R416, R423), 2 the access is gated
(R333, R462), 3 the view is not configured (R323, R394). -/
def State.viewGate (s : State) (k : Nat) : Nat :=
  if !s.fnThere (viewFn k) || s.d3hot (viewFn k) || s.inReset (viewFn k) then 1
  else if s.inDormant || !s.operational then 2
  else if !s.viewConfigured k || !s.flag Reg.XB_CTRL_EN then 3
  else 0

/-- A request that is not supported (R330). -/
def State.unsupported (s : State) (f : Nat) (read : Bool) : State :=
  (s.when read (fun s => s.sendHost (.ans .unsupported))).aer f Aer.unsupported

/-- A read or AtomicOp completes with Completer Abort without being carried; the first after a failure in a window with POSTED = 0
clears the view (R399, R400, R402, R404). -/
def State.refuseRead (s : State) (k : Nat) : State :=
  let s := (s.sendHost (.ans .completerAbort)).aer (viewFn k) Aer.completerAbort
  if s.flag (faultedF k) && (s.view k).reportPending then s.clearView k else s

/-- REMOTE_WINDOW_READ (R396, R397, R399, R400, R428). -/
def State.viewRead (s : State) (k off n : Nat) : State :=
  match s.viewGate k with
  | 1 => s.unsupported (viewFn k) true
  | 2 => (s.gate off (viewFn k) (if k < 256 then 2 else 4) false).sendHost (.ans (.data (List.replicate n 0xFF)))
  | 3 => s.unsupported (viewFn k) true
  | _ =>
    let parts := splitParts n off n
    if !accessForm k off n 64 then s.unsupported (viewFn k) true
    else if s.isPartner || s.frozen (viewFn k) || s.flag (faultedF k) then s.refuseRead k
    else if 64 < (s.view k).count + parts.length then s.readFailed k ⟨.read, off, min n 8, s.now, false, s.xb.arrived⟩ St.aborted
    else
      let accs := parts.zipIdx.map (fun x => (⟨.read, x.1.1, x.1.2, s.now, decide (x.2 + 1 < parts.length), s.xb.arrived⟩ : Acc))
      s.arrive.updView k (fun v => { v with queue := v.queue ++ accs })
def execRemoteWindowRead (view : View) (off : Nat) (len : Nat) (s : State) : Out := .next (s.viewRead (viewKey view) off len)

/-- One register write arrives at a view (R399, R400, R428). -/
def State.viewWritePart (s : State) (k : Nat) (a : Acc) : State :=
  if s.flag (faultedF k) || s.frozen (viewFn k) then s.bump (dropsF k)
  else if s.isPartner then s.writeFailed k a 0 St.takenOver
  else if 64 ≤ (s.view k).count then s.writeFailed k a 1 St.aborted
  else s.updView k (fun v => { v with queue := v.queue ++ [a] })

/-- REMOTE_WINDOW_WRITE (R396, R397, R399, R400). -/
def State.viewWrite (s : State) (k off : Nat) (b : List Byte) : State :=
  match s.viewGate k with
  | 1 => s.unsupported (viewFn k) false
  | 2 => s.gate off (viewFn k) (if k < 256 then 2 else 4) true
  | 3 => s.unsupported (viewFn k) false
  | _ =>
    if !accessForm k off b.length 512 then s.unsupported (viewFn k) false
    else
      let n := s.xb.arrived
      (splitParts b.length off b.length).foldl
        (fun s x => s.viewWritePart k ⟨.write (field b (x.1 - off) x.2), x.1, x.2, s.now, false, n⟩) s.arrive
def execRemoteWindowWrite (view : View) (off : Nat) (data : List Byte) (s : State) : Out :=
  .next (s.viewWrite (viewKey view) off data)

/-- The target of a view can be locked (R404): LOCK_TARGET, and an RTT of at most 1,250 ticks. -/
def State.lockable (s : State) (k : Nat) : Bool :=
  match s.dev (s.viewDev k) with
  | some d => nbit d.caps 2 && decide (d.rtt ≤ 1250)
  | none => false

/-- ATOMICOP_REQUEST (R328, R399, R404). -/
def State.viewAtomic (s : State) (k off : Nat) (wide : Bool) (op : AtomicOp) : State :=
  let w := if wide then 8 else 4
  match s.viewGate k with
  | 1 => s.unsupported (viewFn k) true
  | 2 => (s.gate off (viewFn k) (if k < 256 then 2 else 4) true).sendHost (.ans (.data (List.replicate w 0xFF)))
  | 3 => s.unsupported (viewFn k) true
  | _ =>
    if off % w ≠ 0 ∨ viewSize k < off + w then s.unsupported (viewFn k) true
    else if s.isPartner || s.frozen (viewFn k) || s.flag (faultedF k) || !s.flag (Reg.XB_WIN_CFG_ATOMIC (s.viewWin k)) || !s.flag Reg.XB_CTRL_ATOMIC_EN
        || !s.lockable k then s.refuseRead k
    else if 64 ≤ (s.view k).count then s.readFailed k ⟨.atomic op, off, w, s.now, false, s.xb.arrived⟩ St.aborted
    else s.arrive.updView k (fun v => { v with queue := v.queue ++ [⟨.atomic op, off, w, s.now, false, s.xb.arrived⟩] })
def execAtomicopRequest (view : View) (off : Nat) (wide : Bool) (op : AtomicOp) (s : State) : Out :=
  .next (s.viewAtomic (viewKey view) off wide op)

/-! ## Carrying (R397, R405 to R408) -/

/-- Another view has an access to the same device that came first, or one that is open (R397). -/
def State.viewWaits (s : State) (k : Nat) (a : Acc) : Bool :=
  s.xb.views.any (fun v => v.1 != k && s.viewDev v.1 == s.viewDev k &&
    (v.2.open_.isSome || (match v.2.queue with
      | b :: _ => decide (b.ord < a.ord)
      | [] => false)))

/-- VIEW_ACCESS_START (R397): the next queued access starts as a control transfer, or as a locked sequence; one to a device that is not
attached ends with DEVICE_GONE (R108). -/
def State.viewStart (s : State) (k : Nat) : State :=
  let v := s.view k
  match v.open_, v.queue with
  | none, a :: rest =>
    if s.isPartner || s.inSatin || s.inDormant || s.viewWaits k a then s
    else
      let dev := s.viewDev k
      let s := s.setView k { v with open_ := some a, queue := rest }
      let gone := match s.dev dev with | some d => d.detachedAt.isSome | none => true
      if gone then s.endAccess k St.deviceGone []
      else match a.kind with
        | .atomic _ => s.updView k (fun v => { v with
            lock := some ⟨dev, s.prefRoot dev, false, false, none, 0, 0, false, false, false, 0, false, 0, s.mfN⟩ })
        | .read =>
          let x := newXfer (.view k) (viewFn k) .control (dev * 16) (s.prefRoot dev) a.width none 0
            (regSetup false a.width (s.viewIndex k a.off)) 0 16
          (s.beginXfer x).1
        | .write w =>
          let x := newXfer (.view k) (viewFn k) .control (dev * 16) (s.prefRoot dev) a.width none 0
            (regSetup true a.width (s.viewIndex k a.off)) 0 16
          (s.beginXfer { x with bufs := [⟨1, leBytes a.width w, true⟩] }).1
  | _, _ => s

/-- UNIT of a view (R503). -/
def viewUnit (k : Nat) : Nat := if k < 256 then k else k - 256 + 2 ^ 16

/-- The class buffer that holds a view's next access fails its parity as the access starts (R400, R436, R503): it ends with ABORTED. -/
def State.viewParity (s : State) (k : Nat) : State :=
  let v := s.view k
  match v.open_, v.queue with
  | none, a :: rest =>
    if s.isPartner || s.inSatin || s.inDormant || s.viewWaits k a then s
    else ((s.captureError 6 3 2 (viewFn k) (viewUnit k) (s.viewIndex k a.off)).setView k { v with open_ := some a, queue := rest }).endAccess k
      St.aborted []
  | _, _ => s
def execViewAccessStart (view : ViewAt) (s : State) : Out :=
  .next (if view.parity then s.viewParity (viewKey view.view) else s.viewStart (viewKey view.view))

/-- Limit of R398 in ticks: 0 acts as 1 ms, more than 45 as 45 ms. -/
def State.readLimit (s : State) : Nat := 25000 * min 45 (max 1 (s.f Reg.XB_READ_LIMIT_LIMIT))

/-- The parts of the read at the head of a list, up to its last. -/
def readParts (l : List Acc) : List Acc := l.takeWhile (·.more) ++ (l.dropWhile (·.more)).take 1

/-- READ_LIMIT_EXPIRY (R398): the oldest read or AtomicOp that has not started, and whose limit has passed, completes with Completer
Abort. A split read of which a part has started runs to its end. -/
def State.readLimitOver (s : State) (k : Nat) : State :=
  let v := s.view k
  let begun := !v.parts.isEmpty || v.badPart || (match v.open_ with | some a => a.more | none => false)
  let own := if begun then readParts v.queue else []
  let l := v.queue.drop own.length
  let due (a : Acc) : Bool := (match a.kind with | .write _ => false | _ => true) && decide (a.tick + s.readLimit ≤ s.now)
  let before := l.takeWhile (fun a => !due a)
  match l.drop before.length with
  | [] => s
  | a :: r =>
    let gone := readParts (a :: r)
    (s.setView k { v with queue := own ++ before ++ (a :: r).drop gone.length }).readFailed k { a with more := false } St.timeout
def execReadLimitExpiry (view : View) (s : State) : Out := .next (s.readLimitOver (viewKey view))

/-- A locked sequence sends its LOCK when it may, on the path that the target prefers now (R405 to R407). -/
def State.lockTry (s : State) (k : Nat) (retry : Bool) : State :=
  match (s.view k).lock with
  | some l =>
    let m := if l.open_ then l else { l with trunk := s.prefRoot l.dev }
    if (m.tries != 0) == retry && s.lockReady m && !s.lockYields k m then (s.setLock k m).lockSend k else s
  | none => s

/-- LOCK_SEQUENCE_START (R406): the first attempt. -/
def execLockSequenceStart (view : View) (s : State) : Out := .next (s.lockTry (viewKey view) false)

/-- LOCK_RETRY (R407, R408): a further attempt, no sooner than the failure allows. -/
def execLockRetry (view : View) (s : State) : Out := .next (s.lockTry (viewKey view) true)

/-- LOCK_WAIT_EXPIRY (R406): no start tick in WAIT consecutive microframes, of which 0 acts as 1. -/
def State.lockWaitOver (s : State) (k : Nat) : State :=
  match (s.view k).lock with
  | some l => if l.open_ ∨ s.mfN < l.since + max 1 (s.f Reg.XB_LOCK_CFG_WAIT) then s else s.lockEnd k St.timeout
  | none => s
def execLockWaitExpiry (view : View) (s : State) : Out := .next (s.lockWaitOver (viewKey view))

/-! ## Clearing and configuring (R395, R401) -/

/-- VIEW_FAULT_CLEAR (R401): the PF writes 1 to FAULTED. -/
def execViewFaultClear (view : View) (s : State) : Out :=
  .next (s.pfWrite (faultedF (viewKey view)).addr (fun s => s.clearView (viewKey view)))

/-- WINDOW_CFG_WRITE (R395): refused while the window or a view delegated from it has an access queued or open. -/
def State.winCfg (s : State) (w : Nat) (base : Bool) (v : Word) : State :=
  if s.xb.views.any (fun x => s.viewWin x.1 == w && decide (0 < x.2.count)) then s.setB (Reg.XB_WIN_STATUS_CFG_REFUSED w) true
  else s.writeReg (if base then Reg.XB_WIN_BASE w else Reg.XB_WIN_CFG w) v
def execWindowCfgWrite (w : Fin 256) (base : Bool) (v : Word) (s : State) : Out :=
  .next (s.pfWrite (if base then Reg.XB_WIN_BASE w.val else Reg.XB_WIN_CFG w.val) (fun s => s.winCfg w.val base v))

/-- The device stops being HOLDER (R399): accesses that have started end with TAKEN_OVER, queued writes are logged and fault their view,
queued reads complete with Completer Abort. -/
def State.viewsTaken (s : State) : State :=
  s.xb.views.foldl (fun (s : State) (x : Nat × ViewRec) =>
    let k := x.1
    let s : State := match (s.view k).lock with
      | some _ => s.lockEnd k St.takenOver
      | none => (s.bus.xfers.filter (fun (e : Nat × Option Xfer) => match e.2 with
          | some r => (match r.owner with | .view v => v == k | _ => false)
          | none => false)).foldl (fun (s : State) (e : Nat × Option Xfer) => s.endXfer e.1 St.takenOver) s
    let q := (s.view k).queue
    let s := s.updView k (fun v => { v with queue := [], parts := [], badPart := false })
    q.foldl (fun (s : State) (a : Acc) => match a.kind with
      | .write _ => s.viewWritePart k a
      | _ => if a.more then s else (s.sendHost (.ans .completerAbort)).aer (viewFn k) Aer.completerAbort) s) s

end Sys2Proof.Machine
end

