-- ==== Sys2Proof/Machine/Functions.lean ====
section
/-! DEFINITION. Functions (R415 to R433): the grant record, freezing, saving, restoring and thawing a VF, and function-level resets. -/

namespace Sys2Proof.Machine

/-! ## The grant record (R417 to R420) -/

/-- Ranges (first, last) of `n` records of `w`-byte halves from byte `at_` on. -/
def rangeRecs (b : List Byte) (at_ n w : Nat) : List (Nat × Nat) :=
  (List.range n).map (fun i => (field b (at_ + 2 * w * i) w, field b (at_ + 2 * w * i + w) w))

/-- A range (first, last) as (first, count). -/
def rangeOf (r : Nat × Nat) : Nat × Nat := (r.1, r.2 + 1 - r.1)

/-- Channels that ranges cover (R418). -/
def chansCovered (l : List (Nat × Nat)) : Nat := ((List.range 1024).filter (inRanges l)).length

/-- Read a grant record; `none` when it is malformed by itself (R418). PF_RECORD is set in no record of a VF. -/
def grantOf (b : List Byte) : Option Grant :=
  let byte (i : Nat) : Nat := field b i 1
  let hs := rangeRecs b 40 (byte 8) 4
  let gs := rangeRecs b 168 (byte 9) 2
  let cs := rangeRecs b 200 (byte 10) 2
  let ds := (List.range 4).map (fun i => field b (20 + 4 * i) 4)
  let late := byte 11
  let vectors := BitVec.ofNat 64 (field b 12 8)
  let delegates := ds.map (fun d => (⟨d % 256, d / 256 % 16, nbit d 15⟩ : Delegate))
  let zero (i n : Nat) : Bool := field b i n == 0
  let fits (l : List (Nat × Nat)) (m : Nat) : Bool := l.all (fun r => decide (r.1 ≤ r.2 ∧ r.2 < m))
  let needsLate := decide (128 ≤ late) || delegates.any (·.en)
  if b.length = 256 && byte 0 == 1 && decide (byte 1 < 2) && zero 2 2 && zero 36 4 && zero 216 40 && late / 64 % 2 == 0
      && ds.all (fun d => d / 4096 % 8 == 0 && d / 65536 == 0)
      && decide (byte 8 ≤ 16 ∧ byte 9 ≤ 8 ∧ byte 10 ≤ 4) && fits hs 0x100000 && fits gs 0x4000 && fits cs 0x400
      && hs.all (fun r => decide (16 ≤ r.1 ∧ r.2 < 0xFFFF0)) && decide (chansCovered (cs.map rangeOf) ≤ 64)
      && (!needsLate || vectors.getLsbD (late % 64)) && decide (field b 4 2 + field b 6 2 ≤ 2046) then
    some ⟨nbit (byte 1) 0, field b 4 2, field b 6 2, hs.map rangeOf, gs.map rangeOf, cs.map rangeOf, late % 64,
      decide (128 ≤ late), vectors, delegates⟩
  else none

/-- Bytes of range records, `n` in all. -/
def rangeBytes (l : List (Nat × Nat)) (n w : Nat) : List Byte :=
  padTo (2 * w * n) (l.flatMap (fun r => leBytes w r.1 ++ leBytes w (r.1 + r.2 - 1)))

/-- A grant record as IDENTIFY writes it (R368, R420). -/
def grantBytes (g : Grant) (pf : Bool) : List Byte :=
  [1, BitVec.ofNat 8 (b2n g.graph + 2 * b2n pf), 0, 0] ++ leBytes 2 g.sqs ++ leBytes 2 g.cqs
    ++ [BitVec.ofNat 8 g.handles.length, BitVec.ofNat 8 g.groups.length, BitVec.ofNat 8 g.chans.length,
        BitVec.ofNat 8 (g.late + 128 * b2n g.lateIen)]
    ++ leBytes 8 g.vectors.toNat
    ++ padTo 16 (g.delegates.flatMap (fun d => leBytes 4 (d.w + 256 * d.sub + 32768 * b2n d.en))) ++ leBytes 4 0
    ++ rangeBytes g.handles 16 4 ++ rangeBytes g.groups 8 2 ++ rangeBytes g.chans 4 2 ++ leBytes 40 0

/-- Two lists of ranges have something in common. -/
def rangesMeet (a b : List (Nat × Nat)) : Bool :=
  a.any (fun x => b.any (fun y => decide (x.1 < y.1 + y.2 ∧ y.1 < x.1 + x.2)))

/-- A range overlaps one of another VF's grant (R418): `sel` gives the kind. -/
def State.othersHold (s : State) (f : Nat) (g : Grant) (sel : Grant → List (Nat × Nat)) : Bool :=
  s.fn.grants.any (fun x => x.1 + 1 != f && rangesMeet (sel g) (sel x.2))

/-- I/O rings of a function, by local index. -/
def ioRings {α : Type} (f : Nat) (l : Tbl (Option α)) : List (Nat × α) :=
  l.filterMap (fun e => if e.1 / 2048 = f ∧ 2 ≤ e.1 % 2048 then e.2.map (fun r => (e.1 % 2048, r)) else none)

/-- A channel of function `f` has an entry queued or in progress (R419). -/
def State.chanInUse (s : State) (f c : Nat) : Bool :=
  (match (s.chan c).job with | some j => j.ref.fn.val == f | none => false) ||
    s.qe.cache.any (fun x => x.ref.fn.val == f && x.ref.sq.toNat != 0 && sqeChan x.sqe == some c)

/-- What the record would take of what is in use and is not mirrored (R419): rings, channels, vectors and delegated windows. -/
def State.takesLocal (s : State) (f : Nat) (g : Grant) : Bool :=
  let old := s.grant f
  decide (g.sqs < (ioRings f s.qe.sqs).length ∨ g.cqs < (ioRings f s.qe.cqs).length) ||
    (List.range 1024).any (fun c => s.chanInUse f c && !inRanges g.chans c) ||
    (ioRings f s.qe.cqs).any (fun c => !g.vectors.getLsbD c.2.vector) ||
    ((old.lateIen || old.delegates.any (·.en)) && !g.vectors.getLsbD old.late) ||
    (List.range 4).any (fun d => decide (0 < (s.view (256 + 4 * (f - 1) + d)).count) &&
      g.delegates.getD d ⟨0, 0, false⟩ != old.delegates.getD d ⟨0, 0, false⟩)

/-- The endpoint or group that a node names is in the grant. -/
def epGranted (g : Grant) (k : NodeKind) : Bool :=
  let ok (e : EpRef) : Bool := match e with
    | .handle h => inRanges g.handles h.toNat
    | .group n => inRanges g.groups n.toNat
    | .cascade _ _ => true
  match k with
  | .source ep .. => ok ep
  | .sink ep .. => ok ep
  | _ => true

/-- What the record would take of what is in use and is mirrored (R419): schedule entries and nodes. -/
def State.takesMirrored (s : State) (f : Nat) (g : Grant) : Bool :=
  (s.ts.staged ++ s.ts.active).any (fun x => match x.2 with
    | some q => q.fn == f && !(if x.1 < 0x100000 then inRanges g.handles x.1 else inRanges g.groups (x.1 - 0x100000))
    | none => false) ||
  let swap := match s.mre.swap with | some w => w.full.toList ++ w.patches | none => []
  ((s.mre.image.toList ++ s.mre.staged.toList ++ s.mre.patches ++ swap).flatMap (·.nodes)).any (fun n => n.owner == f && !epGranted g n.kind)

/-- What keeps a grant record from taking force on this device before it is placed in the HOLDER's order: 0 for nothing. -/
def State.grantCheck (s : State) (f : Nat) (g : Grant) : Nat :=
  if s.othersHold f g (·.chans) then St.malformed
  else if s.takesLocal f g then St.aborted
  else St.ok

/-- VF_GRANT takes effect (R417 to R419). Of a record from the peer the mirrored part applies (R291, R415). -/
def State.vfGrant (s : State) (r : EntryRef) (e : Sqe) (b : List Byte) : State :=
  let v := sqeF e 1 0 10
  let f := v + 1
  match grantOf b with
  | none => s.completeM r e St.malformed
  | some g =>
    let old := s.grant f
    let g := if r.sq = 1 then { old with graph := g.graph, handles := g.handles, groups := g.groups } else g
    if s.othersHold f g (·.handles) || s.othersHold f g (·.groups) then s.completeM r e St.malformed
    else if s.takesMirrored f g then s.completeM r e St.aborted
    else
      let s : State := { s with fn := { s.fn with grants := Tbl.set (fun _ => Grant.empty) s.fn.grants v g } }
      let s := s.showVf v
      let s := (s.devices.flatMap devHandles).foldl (fun (s : State) (h : Nat) =>
        if inRanges old.handles h || inRanges g.handles h then s.setCf h Cx.function (s.grantFn h) else s) s
      s.completeM r e St.ok

/-- The PF's grant record (R420). -/
def State.pfGrant (s : State) : Grant :=
  ⟨true, s.f Reg.QE_RINGS_FREE_SQ, s.f Reg.QE_RINGS_FREE_CQ, [], [], [], 0, false, BitVec.allOnes 64, []⟩

/-! ## What a function has in flight -/

/-- Every clip of a function ends with a status (R423, R429): a playing one ramps out at the next pass, and its timers go. -/
def State.endClipsOf (s : State) (f status : Nat) : State :=
  let s := s.mre.gens.foldl (fun (s : State) (x : Nat × GenSt) =>
    let mine := x.2.clips.filter (fun c => c.ref.fn.val == f)
    if mine.isEmpty then s
    else
      let playing := match x.2.clips.head? with | some c => c.ref.fn.val == f && c.first.isSome | none => false
      let s := mine.foldl (fun (s : State) (c : ClipRun) => s.endClip c status) s
      if playing then s.setGen x.1 { s.gen x.1 with stopAt := some (s.mfN + 1), stopE := 0 }
      else (s.setGen x.1 { s.gen x.1 with clips := (s.gen x.1).clips.filter (fun c => c.ref.fn.val != f) }).restGen x.1) s
  s.dropTimers (fun t => (t.kind == .clipStart || t.kind == .clipRepeat) && t.ref.any (fun r => r.fn.val == f))

/-- The CLIP_STOP timers of a function go with its clip entries (R243, R244). -/
def State.dropStops (s : State) (f : Nat) : State :=
  s.dropTimers (fun t => t.kind == .clipStop && t.ref.any (fun r => r.fn.val == f))

/-- Every tap buffer of a function ends with a status. -/
def State.endTapsOf (s : State) (f status : Nat) : State :=
  s.mre.taps.foldl (fun (s : State) (x : Nat × TapSt) =>
    let (go, stay) := x.2.bufs.partition (fun b => b.ref.fn.val == f)
    if go.isEmpty then s
    else go.foldl (fun (s : State) (b : TapBuf) => s.endTapBuf x.1 b status false) (s.setTap x.1 { s.tap x.1 with bufs := stay })) s

/-- Channels on which an entry of function `f` is in progress. -/
def State.chansOf (s : State) (f : Nat) : List (Nat × Job) :=
  s.bm.chans.filterMap (fun x => match x.2.job with
    | some j => if j.ref.fn.val = f then some (x.1, j) else none
    | none => none)

/-- Transfers that serve entries of function `f`. -/
def State.xfersOf (s : State) (f : Nat) : List (Nat × Xfer) :=
  s.bus.xfers.filterMap (fun x => match x.2 with
    | some r => (match r.owner with | .entry e => if e.fn.val = f then some (x.1, r) else none | _ => none)
    | none => none)

/-- Local indices of the submission rings of function `f`, the admin SQ included. -/
def State.sqsOf (s : State) (f : Nat) : List Nat :=
  (s.qe.sqs.filter (fun e => e.1 / 2048 == f && e.2.isSome)).map (fun e => e.1 % 2048)

/-- Local indices of the completion rings of function `f`, the admin CQ included. -/
def State.cqsOf (s : State) (f : Nat) : List Nat :=
  (s.qe.cqs.filter (fun e => e.1 / 2048 == f && e.2.isSome)).map (fun e => e.1 % 2048)

/-! ## VF_FREEZE (R427, R428) -/

/-- A BULK_IN or TUNNEL_RX that has moved no byte. -/
def movedNothing (r : Xfer) : Bool := (r.kind == .bulkIn || r.kind == .tunnelRx) && r.moved == 0 && r.bufs.isEmpty && r.data.isEmpty

/-- VF_FREEZE: the VF's rings stop, its idle receives complete with FROZEN, its moves pause; the entry completes when the rest has
ended. A VF in reset is not frozen. -/
def State.vfFreeze (s : State) (r : EntryRef) (e : Sqe) : State :=
  let v := sqeF e 1 0 10
  let f := v + 1
  let q := s.vfRec v
  if q.resetBusy then s.complete r e St.aborted
  else if q.frozen && q.freezing.isEmpty then s.complete r e St.ok
  else if q.frozen then s.setVf v (fun q => { q with freezing := q.freezing ++ [r] })
  else
    let s := s.setVf v (fun q => { q with frozen := true, saved := false, restored := false, freezing := [r] })
    let s := s.forAll (s.sqsOf f) (fun s i => s.discardCached f i)
    let s := (s.inCqeOrder xferRef (s.xfersOf f)).foldl (fun (s : State) (x : Nat × Xfer) => if movedNothing x.2 then s.endXfer x.1 St.frozen else s) s
    s.settleFn f

/-! ## The blob (R429) -/

/-- The VF is frozen and at rest. -/
def State.vfAtRest (s : State) (v : Nat) : Bool := (s.vfRec v).frozen && (s.vfRec v).freezing.isEmpty

/-- A late-fault record (R403). -/
def lateBytes (r : LateRec) : List Byte :=
  leBytes 6 r.mfn ++ [BitVec.ofNat 8 r.window,
    BitVec.ofNat 8 (r.kind + (match r.deleg with | some d => 8 * d + 32 | none => 0))]
    ++ leBytes 4 r.off ++ leBytes 2 r.dev ++ [BitVec.ofNat 8 r.status, BitVec.ofNat 8 r.width]
    ++ leBytes 8 r.data ++ leBytes 2 r.fn ++ leBytes 6 0

/-- The paused moves of function `f`: channel, job and SQE. -/
def State.movesOf (s : State) (f : Nat) : List (Job × Sqe) :=
  (s.chansOf f).filterMap (fun x => match x.2.kind with
    | .move _ | .indexed _ => (s.startedSqe x.2.ref).map (fun e => (x.2, e))
    | _ => none)

/-- Address of the current descriptor of a move; 0 without a chain. -/
def descAddr (j : Job) : Nat :=
  match j.kind with
  | .move true => if j.haveDesc then j.at_ else j.next
  | _ => 0

/-- Paused-move record, 96 bytes. -/
def moveBytes (x : Job × Sqe) : List Byte :=
  wordBytes x.2.dw.toList ++ leBytes 8 x.1.done ++ leBytes 8 x.1.items ++ leBytes 8 (descAddr x.1) ++ leBytes 8 x.1.residue

/-- Ring record of an SQ, 32 bytes. -/
def sqRecBytes (i : Nat) (r : SqRec) : List Byte :=
  leBytes 2 i ++ [BitVec.ofNat 8 (2 * b2n r.enable), BitVec.ofNat 8 r.log2] ++ leBytes 8 r.base ++ leBytes 8 r.rsb
    ++ leBytes 2 r.cq ++ leBytes 4 0 ++ leBytes 2 r.pos ++ leBytes 4 0

/-- Ring record of a CQ, 32 bytes. -/
def cqRecBytes (i : Nat) (c : CqRec) : List Byte :=
  leBytes 2 i ++ [BitVec.ofNat 8 (1 + 4 * b2n c.ien), BitVec.ofNat 8 c.log2] ++ leBytes 8 c.base ++ leBytes 8 c.rsb
    ++ leBytes 2 c.vector ++ [BitVec.ofNat 8 c.modCount, 0] ++ leBytes 2 c.modTime ++ leBytes 2 c.pos ++ leBytes 2 c.sinceSig
    ++ leBytes 2 0

/-- Held CQEs of function `f`, with their CQ: those that lack credit, then those held by the freeze. -/
def State.heldOf (s : State) (f : Nat) : List (Nat × Cqe) :=
  (s.cqsOf f).flatMap (fun i => match s.cq f i with
    | some c => (c.hold ++ c.waiting).map (fun q => (i, q))
    | none => []) ++ (s.vfRec (f - 1)).held

/-- The VF's admin page with its two positions, 32 bytes (R371). -/
def State.adminBytes (s : State) (f : Nat) : List Byte :=
  wordBytes ([Reg.QE_ADMIN_SQ_BASE_LO f, Reg.QE_ADMIN_SQ_BASE_HI f, Reg.QE_ADMIN_CQ_BASE_LO f, Reg.QE_ADMIN_CQ_BASE_HI f,
    Reg.QE_ADMIN_CFG f, Reg.QE_ADMIN_STATUS f, Reg.QE_ADMIN_POS f].map s.reg) ++ leBytes 4 0

/-- The window at INDEX `i` of function `f` as a record of 24 bytes. -/
def State.windowBytes (s : State) (f i : Nat) : List Byte :=
  match Tbl.get (fun _ => none) s.bm.windows (f * 64 + i) with
  | some w => leBytes 8 w.base ++ leBytes 8 w.len ++ leBytes 8 (b2n w.read + 2 * b2n w.write + 4)
  | none => leBytes 24 0

/-- The blob of VF `v`. -/
def State.blob (s : State) (v : Nat) : List Byte :=
  let f := v + 1
  let rings := ((ioRings f s.qe.sqs).map (fun x => (x.1, sqRecBytes x.1 x.2)) ++
    (ioRings f s.qe.cqs).map (fun x => (x.1, cqRecBytes x.1 x.2))).foldl
      (fun l x => insertBy (fun a b => decide (a.1 < b.1)) x l) []
  let moves := s.movesOf f
  let late := s.xb.log.filter (fun r => r.fn == f)
  let held := s.heldOf f
  let body := s.adminBytes f
    ++ (List.range 4).flatMap (fun d => leBytes 4 (s.f (dropsF (256 + 4 * v + d))) ++ leBytes 4 0)
    ++ (List.range 64).flatMap (fun i => s.windowBytes f i)
    ++ rings.flatMap (·.2) ++ moves.flatMap moveBytes ++ (late.take 1024).flatMap lateBytes
    ++ held.flatMap (fun x => wordBytes (cqeDws x.2 (s.sqHead f x.2)))
  let head := leBytes 4 0x424C4F42 ++ leBytes 2 1 ++ leBytes 2 v ++ leBytes 4 (s.f Reg.GLB_SERIAL_LO_SERIAL)
    ++ leBytes 4 (s.f Reg.GLB_SERIAL_HI_SERIAL) ++ leBytes 4 (s.f Reg.RSQ_FW_VER_VER) ++ leBytes 6 s.mfN ++ leBytes 2 0
    ++ leBytes 4 (64 + body.length) ++ leBytes 2 rings.length ++ leBytes 2 moves.length
    ++ leBytes 2 (min 1024 late.length) ++ leBytes 2 0 ++ leBytes 4 held.length ++ leBytes 4 (late.length - 1024)
    ++ leBytes 12 0
  head ++ leBytes 4 (crc32 (head ++ leBytes 4 0 ++ body)) ++ body

/-- VF_SAVE (R429): clips and tap buffers of the frozen VF end first, then the blob goes to the buffer. -/
def State.vfSave (s : State) (r : EntryRef) (e : Sqe) : State :=
  let v := sqeF e 1 0 10
  let f := v + 1
  if !s.vfAtRest v then s.complete r e St.aborted
  else
    let s := (s.chansOf f).foldl (fun (s : State) (x : Nat × Job) => match x.2.kind with
      | .clip _ | .tap _ => s.freeChan x.1
      | _ => s) s
    let s := ((s.endClipsOf f St.aborted).endTapsOf f St.aborted).dropStops f
    let b := s.blob v
    if (sqeDw e 4).toNat < b.length ∨ 16384 < (s.heldOf f).length then s.complete r e St.aborted
    else ((s.sendHost (.write r.fn.val (sqe64 e 2) b)).setVf v (fun q => { q with saved := true })).complete r e St.ok 0
      (BitVec.ofNat 32 b.length)

/-! ## VF_RESTORE and VF_THAW (R430, R431) -/

/-- Free global numbers of one kind (R344). -/
def freeGlobs (used : List Nat) : List Nat := (List.range Config.ringCount).filter (fun g => !used.contains g)

/-- Global numbers in use. -/
def State.sqGlobs (s : State) : List Nat :=
  s.qe.sqs.filterMap (fun e => if e.1 % 2048 < 2 then none else e.2.map (·.glob))
def State.cqGlobs (s : State) : List Nat :=
  s.qe.cqs.filterMap (fun e => if e.1 % 2048 < 2 then none else e.2.map (·.glob))

/-- An I/O submission ring comes into being under a free global number. -/
def State.newSq (s : State) (f i : Nat) (q : SqRec) : State :=
  let g := s.choose (freeGlobs s.sqGlobs) 0
  let s := s.fresh.setSq f i (some { q with glob := g })
  s.setF Reg.QE_RINGS_FREE_SQ (s.f Reg.QE_RINGS_FREE_SQ - 1)

/-- An I/O completion ring comes into being under a free global number. -/
def State.newCq (s : State) (f i : Nat) (c : CqRec) : State :=
  let g := s.choose (freeGlobs s.cqGlobs) 0
  let s := s.fresh.setCq f i (some { c with glob := g })
  s.setF Reg.QE_RINGS_FREE_CQ (s.f Reg.QE_RINGS_FREE_CQ - 1)

/-- Records of `w` bytes in a byte string. -/
def records (w : Nat) : Nat → List Byte → List (List Byte)
  | 0, _ => []
  | n + 1, b => b.take w :: records w n (b.drop w)

/-- The parts of a blob. -/
structure Blob where
  admin : List Byte
  drops : List (List Byte)
  windows : List (List Byte)
  rings : List (List Byte)
  moves : List (List Byte)
  late : List (List Byte)
  cqes : List (List Byte)
  lateLost : Nat
  deriving DecidableEq, Repr

/-- Read a blob; `none` when MAGIC, FORMAT, CRC or BYTES is wrong (R430). -/
def readBlob (b : List Byte) : Option Blob :=
  let n := field b 28 4
  let rings := field b 32 2
  let moves := field b 34 2
  let late := field b 36 2
  let cqes := field b 40 4
  if field b 0 4 = 0x424C4F42 ∧ field b 4 2 = 1 ∧ n ≤ b.length ∧ n = 1664 + 32 * rings + 96 * moves + 32 * late + 32 * cqes ∧
      field b 60 4 = crc32 (b.take 60 ++ leBytes 4 0 ++ (b.take n).drop 64) then
    let p := b.drop 1664
    some ⟨(b.drop 64).take 32, records 8 4 (b.drop 96), records 24 64 (b.drop 128), records 32 rings p,
      records 96 moves (p.drop (32 * rings)), records 32 late (p.drop (32 * rings + 96 * moves)),
      records 32 cqes (p.drop (32 * rings + 96 * moves + 32 * late)), field b 44 4⟩
  else none

/-- A ring record is of a CQ. -/
def recIsCq (b : List Byte) : Bool := nbit (field b 2 1) 0

/-- The SQE of a paused-move record. -/
def moveSqe (b : List Byte) : Sqe := ⟨Vector.ofFn (fun (i : Fin 16) => BitVec.ofNat 32 (field b (4 * i.val) 4))⟩

/-- A late-fault record of VF `u`, read back. -/
def lateOf (u : Nat) (b : List Byte) : LateRec where
  mfn := field b 0 6
  window := field b 6 1
  kind := field b 7 1 % 8
  deleg := some (field b 7 1 / 8 % 4)
  off := field b 8 4
  dev := field b 12 2
  status := field b 14 1
  width := field b 15 1
  data := field b 16 8
  fn := u + 1

/-- A held CQE, read back; SQ_HEAD of an entry's is filled in when it is written. -/
def cqeOf (b : List Byte) : Cqe :=
  let w (i : Nat) : Word := BitVec.ofNat 32 (field b (4 * i) 4)
  ⟨field b 1 1, field b 2 2, field b 4 2, field b 8 8, w 4, w 5, w 6, w 7, none, false,
    if field b 2 2 = 0xFFFF then some (field b 6 2) else none⟩

/-- VF `u`'s grant holds what the blob needs, and there are numbers for its rings (R430). -/
def State.blobGranted (s : State) (f : Nat) (b : Blob) : Bool :=
  let g := s.grant f
  let (cqs, sqs) := b.rings.partition recIsCq
  b.moves.all (fun m => inRanges g.chans (sqeF (moveSqe m) 1 0 10)) && cqs.all (fun c => g.vectors.getLsbD (field c 20 2)) &&
    decide (sqs.length ≤ g.sqs ∧ cqs.length ≤ g.cqs ∧ sqs.length ≤ s.f Reg.QE_RINGS_FREE_SQ ∧ cqs.length ≤ s.f Reg.QE_RINGS_FREE_CQ)

/-- A ring of the blob (R430). -/
def State.restoreRing (s : State) (f : Nat) (b : List Byte) : State :=
  let i := field b 0 2
  if recIsCq b then
    s.newCq f i ⟨0, field b 4 8, field b 3 1, field b 12 8, field b 22 1, field b 24 2, field b 20 2, nbit (field b 2 1) 2,
      field b 26 2, 0, [], [], false, field b 28 2, none, false, false, false⟩
  else
    let en := nbit (field b 2 1) 1
    s.newSq f i ⟨0, field b 4 8, field b 3 1, field b 12 8, field b 20 2, field b 26 2, en, !en, false, false, false, false, none,
      false, none, []⟩

/-- The CQ of a held CQE: that of its SQ. -/
def State.cqOfHeld (s : State) (f : Nat) (q : Cqe) : Nat :=
  match s.sq f q.sq with
  | some r => r.cq
  | none => 1

/-- A paused move of the blob. The blob does not name the ring entry that it came from: that is a free value. -/
def State.restoreMove (s : State) (u : VfId) (b : List Byte) : State :=
  let f : FnId := ⟨u.val + 1, by omega⟩
  let e := moveSqe b
  let i := s.choose ((s.sqsOf f.val).filter (· != 0)) 2
  let s := s.fresh
  let r : EntryRef := ⟨f, BitVec.ofNat 11 i, BitVec.ofNat 16 (Config.freeChoice s.free)⟩
  let j := { entryJob r e with done := field b 64 8, items := field b 72 8, residue := field b 88 8, windows := s.windowsOf f.val }
  let j := match j.kind with
    | .move true => { j with next := field b 80 8 }
    | .indexed _ => { j with tablePos := j.tablePos + j.items / 16 * 64 }
    | _ => j
  let s := s.fresh.startRec r e 1 (sqeF e 1 0 10)
  s.setJob (sqeF e 1 0 10) (some j)

/-- The VF's admin page, read back. -/
def State.restoreAdmin (s : State) (f : Nat) (b : List Byte) : State :=
  let w (i : Nat) : Word := BitVec.ofNat 32 (field b (4 * i) 4)
  let regs := [Reg.QE_ADMIN_SQ_BASE_LO f, Reg.QE_ADMIN_SQ_BASE_HI f, Reg.QE_ADMIN_CQ_BASE_LO f, Reg.QE_ADMIN_CQ_BASE_HI f,
    Reg.QE_ADMIN_CFG f, Reg.QE_ADMIN_STATUS f]
  let s := regs.zipIdx.foldl (fun (s : State) (x : Nat × Nat) => s.setReg x.1 (w x.2)) s
  if s.flag (Reg.QE_ADMIN_CFG_EN f) then
    let s := s.adminStart f
    let s := (s.updSq f 0 (fun r => { r with pos := field b 24 2 })).updCq f 1 (fun c => { c with pos := field b 26 2, credit := 0 })
    (s.showPos f 0).showPos f 1
  else s

/-- The state of a blob goes into VF `u`, which is frozen from then on (R430). -/
def State.putBlob (s : State) (u : VfId) (b : Blob) : State :=
  let v := u.val
  let f := v + 1
  let s := s.restoreAdmin f b.admin
  let s := b.drops.zipIdx.foldl (fun (s : State) (x : List Byte × Nat) => s.setF (dropsF (256 + 4 * v + x.2)) (field x.1 0 4)) s
  let s := b.windows.zipIdx.foldl (fun (s : State) (x : List Byte × Nat) =>
    let fl := field x.1 16 1
    let w : Option DmaWin := if nbit fl 2 then some ⟨field x.1 0 8, field x.1 8 8, nbit fl 0, nbit fl 1⟩ else none
    { s with bm := { s.bm with windows := Tbl.set (fun _ => none) s.bm.windows (f * 64 + x.2) w } }) s
  let s := b.rings.foldl (fun (s : State) (x : List Byte) => s.restoreRing f x) s
  let s := b.moves.foldl (fun (s : State) (x : List Byte) => s.restoreMove u x) s
  let held := b.cqes.map (fun x => (s.cqOfHeld f (cqeOf x), cqeOf x))
  s.setVf v (fun q => { q with frozen := true, restored := true, saved := false, freezing := [], held := held,
                               late := b.late.map (lateOf v), lateLost := b.lateLost })

/-- VF_RESTORE (R430). -/
def State.vfRestore (s : State) (r : EntryRef) (e : Sqe) (b : List Byte) : State :=
  let u : VfId := ⟨sqeF e 1 0 10 % 1024, by omega⟩
  let f := u.val + 1
  match readBlob b with
  | none => s.complete r e St.malformed
  | some x =>
    if (s.sqsOf f).any (· != 0) || (s.cqsOf f).any (· != 1) || s.flag (Reg.QE_ADMIN_CFG_EN f) || s.inReset f then s.complete r e St.aborted
    else if !s.blobGranted f x then s.complete r e St.outOfGrant
    else (s.putBlob u x).complete r e St.ok

/-- VF_THAW (R431). -/
def State.vfThaw (s : State) (r : EntryRef) (e : Sqe) : State :=
  let v := sqeF e 1 0 10
  let f := v + 1
  if !s.vfAtRest v then s.complete r e St.ok
  else
    let q := s.vfRec v
    let s := s.setVf v (fun q => { q with frozen := false, saved := false, restored := false, held := [], late := [], lateLost := 0 })
    let s := s.forAll (s.sqsOf f) (fun s i => s.writeRsbSq f i)
    let s := (s.forAll (s.cqsOf f) (fun s i => s.writeRsbCq f i)).sendRsbs f
    let s := s.sendPending f
    let s := s.forAll (s.cqsOf f) (fun s i => (s.updCq f i (fun c => { c with credit := 0 })).scanCq f i)
    let s := q.held.foldl (fun (s : State) (x : Nat × Cqe) => s.holdCqe f x.1 x.2) s
    let s := s.forAll (s.cqsOf f) (fun s i => match s.cq f i with
      | some c => if c.ien && decide (0 < c.sinceSig) then s.signalCq f i else s
      | none => s)
    let s := s.forAll (s.sqsOf f) (fun s i => s.scanSq f i)
    let s := q.late.foldl (fun (s : State) (x : LateRec) =>
      let s := s.logLate x
      if x.kind < 2 then s.setB (faultedF (256 + 4 * v + x.deleg.getD 0)) true else s) s
    (s.bump Reg.XB_LATE_LOST_COUNT q.lateLost).complete r e St.ok

/-! ## Function-level resets (R336, R423 to R426) -/

/-- Configuration space of a function takes its reset values. What PCIe keeps through a function-level reset (PME_En,
PME_Status and the AER status) stays (PRESUMED). -/
def State.configReset (s : State) (f : Nat) : State :=
  s.updFn f (fun r => { r with d3hot := false, funcMask := false, unmasked := [], pending := [] })

/-- The audit of a function ends without a record (R423). -/
def State.dropAuditOf (s : State) (f : Nat) : State :=
  match s.sv.audit with
  | some a => (match a.ref with
    | some r => if r.fn.val = f then
        let s := (s.stopAudit a).setAudit none
        s.completeRefM r St.squashed
      else s
    | none => s)
  | none => s

/-- The queued view accesses of a function are squashed and logged (R423). -/
def State.squashViews (s : State) (f : Nat) : State :=
  (s.xb.views.filter (fun v => viewFn v.1 == f)).foldl (fun (s : State) (v : Nat × ViewRec) =>
    let s := v.2.queue.foldl (fun (s : State) (a : Acc) => s.logLate (s.lateRec v.1 a (accKindCode a.kind) St.squashed)) s
    s.updView v.1 (fun q => { q with queue := [], parts := [], badPart := false })) s

/-- The reset of function `f` begins: what it holds of its own is gone, its configuration space is reset, and its cached entries are
squashed (R423). -/
def State.flrLoses (s : State) (f : Nat) : State :=
  let wait := if f = 0 then [] else (s.vfRec (f - 1)).freezing
  let s := if f = 0 then { s with fn := { s.fn with pfReset := true } }
    else s.setVf (f - 1) (fun q => { q with resetBusy := true, frozen := false, saved := false, restored := false, squashed := 0,
                                            freezing := [], held := [], late := [], lateLost := 0 })
  let s := wait.foldl (fun (s : State) (r : EntryRef) => s.completeRef r St.aborted) s
  let s := s.configReset f
  let gone := s.qe.cache.filter (fun x => x.ref.fn.val == f)
  let s := s.setCache (s.qe.cache.filter (fun x => x.ref.fn.val != f))
  gone.foldl (fun (s : State) (x : CacheEnt) => s.squash x.ref x.sqe 0 0 0) s

/-- Every piece of the work of function `f` that has started is squashed, or runs to a safe end first (R423, R426). -/
def State.flrEnds (s : State) (f : Nat) : State :=
  let s := s.dropAuditOf f
  let s := ((s.qe.started.filter (fun x => x.ref.fn.val == f && x.ref.sq.toNat == 0)).map (·.ref)).foldl
    (fun (s : State) (r : EntryRef) => s.completeRef r St.squashed) s
  let s := (s.xfersOf f).foldl (fun (s : State) (x : Nat × Xfer) =>
    (s.updXfer x.1 (fun r => { r with squash := true })).afterTx x.1) s
  let s := (s.chansOf f).foldl (fun (s : State) (x : Nat × Job) => match x.2.kind with
    | .move _ | .indexed _ | .fence => s.endMove x.1 x.2 St.squashed false
    | _ => s) s
  let s := (s.endClipsOf f St.squashed).endTapsOf f St.squashed
  let s := s.dropStops f
  let s := ((s.qe.started.filter (fun x => x.ref.fn.val == f && sqeOpcode x.sqe == 0x31)).map (·.ref)).foldl
    (fun (s : State) (r : EntryRef) => s.completeRef r St.squashed) s
  let s := s.squashViews f
  let s := s.forAll (s.cqsOf f) (fun s i => s.updCq f i (fun c => { c with hold := [], waiting := [] }))
  s.settleFn f

/-- The reset of function `f` begins, unless it is in reset (R423). -/
def State.flrStart (s : State) (f : Nat) : State := if s.inReset f then s else (s.flrLoses f).flrEnds f

/-- VFs that are there. -/
def State.liveVfs (s : State) : List Nat := if s.fn.vfEnable then List.range s.fn.numVfs else []

/-- VF_FLR (R423). -/
def execVfFlr (v : VfId) (s : State) : Out := .next (if s.fnThere (v.val + 1) then s.flrStart (v.val + 1) else s)

/-- VF_FLR_COMPLETE (R423): RESET_BUSY reads 0 once nothing of the VF is left. -/
def execVfFlrComplete (v : VfId) (s : State) : Out :=
  .next (if s.inReset (v.val + 1) && s.resetReady (v.val + 1) then s.resetDone (v.val + 1) else s)

/-- The reset of the PF and every VF (R336): VF Enable is cleared. -/
def State.resetAll (s : State) : State :=
  let s := s.forAll s.liveVfs (fun s v => s.flrStart (v + 1))
  State.flrStart { s with fn := { s.fn with vfEnable := false } } 0

/-- PF_FLR (R336). -/
def execPfFlr (s : State) : Out := .next s.resetAll

/-- VF_ENABLE_WRITE (R324, R416): NumVFs is writable only while VF Enable is 0, and at most 1,024. Clearing VF Enable resets the VFs,
as PCIe has it (PRESUMED). -/
def State.vfEnableWrite (s : State) (en : Bool) (n : Nat) : State :=
  if s.fn.vfEnable then
    if en then s
    else
      let s := s.forAll s.liveVfs (fun s v => s.flrStart (v + 1))
      { s with fn := { s.fn with vfEnable := false } }
  else { s with fn := { s.fn with vfEnable := en, numVfs := if n ≤ 1024 then n else s.fn.numVfs } }
def execVfEnableWrite (enable : Bool) (numVfs : BitVec 16) (s : State) : Out := .next (s.vfEnableWrite enable numVfs.toNat)

end Sys2Proof.Machine
end

