-- ==== Sys2Proof/Machine/HostIf.lean ====
section
/-! DEFINITION. The commands of the host interface (R316 to R342, R467): D-states, power management events, the link, hot reset, and
configuration. -/

namespace Sys2Proof.Machine

/-! ## D-states (R337 to R340) -/

/-- D3HOT_ENTRY (R338): CQEs that are ready and have credit are written, moderated messages are sent, and the function is in D3hot. -/
def State.d3hotEntry (s : State) (f : Nat) : State :=
  if !s.fnThere f || s.inReset f || s.d3hot f then s
  else
    let s := s.forAll (s.cqsOf f) (fun s i => s.flushCq f i)
    let s := s.forAll (s.cqsOf f) (fun s i => match s.cq f i with
      | some c => if c.winStart.isSome && c.ien then s.signalCq f i else s
      | none => s)
    s.updFn f (fun r => { r with d3hot := true, heldOn := [] })
def execD3hotEntry (fn : FnId) (s : State) : Out := .next (s.d3hotEntry fn.val)

/-- D0_RETURN (R337, R339, R340, R460): the function resumes, and held entries are written in order. -/
def State.d0Return (s : State) (f : Nat) : State :=
  if !s.d3hot f then s
  else
    let s := s.updFn f (fun r => { r with d3hot := false, d0At := some s.now })
    let s := (s.sendPending f).sendRsbs f
    let s := s.forAll (s.cqsOf f) (fun s i => s.flushCq f i)
    s.rescan.when (f == 0 && !s.inDormant) (fun s => s.wake .pcie)
def execD0Return (fn : FnId) (s : State) : Out := .next (s.d0Return fn.val)

/-- PME_RESEND (R339): 100 ms after a PM_PME that the host has not answered, it is sent again. -/
def State.pmeResend (s : State) (f : Nat) : State :=
  let r := s.fnRec f
  match r.pmeTick with
  | some t => if r.pmeStatus && decide (t + 2500000 ≤ s.now) then s.sendPme f r.pmeReason else s
  | none => s
def execPmeResend (fn : FnId) (s : State) : Out := .next (s.pmeResend fn.val)

/-- PME_STATUS_CLEAR (R339, R341): no further PM_PME; the PF's releases WAKE_N. -/
def State.pmeStatusClear (s : State) (f : Nat) : State :=
  let s := s.updFn f (fun r => { r with pmeStatus := false, pmeTick := none })
  if f = 0 then { s with fn := { s.fn with wakeN := false } } else s
def execPmeStatusClear (fn : FnId) (s : State) : Out := .next (s.pmeStatusClear fn.val)

/-- PME_TURN_OFF (R320): messages that moderation holds are sent, then PME_TO_Ack; no further request follows. -/
def State.pmeTurnOff (s : State) : State :=
  if s.fn.l23 then s
  else
    let held := s.qe.cqs.filter (fun e => match e.2 with
      | some c => c.winStart.isSome && c.ien && !s.d3hot (e.1 / 2048)
      | none => false)
    let s := held.foldl (fun (s : State) (e : Nat × Option CqRec) => s.signalCq (e.1 / 2048) (e.1 % 2048)) s
    State.sendHost { s with fn := { s.fn with l23 := true } } .pmeToAck

/-! ## The link (R318, R319, R332, R334, R467) -/

/-- No function has a request outstanding. -/
def State.quietHost (s : State) : Bool :=
  s.bm.engines.all (fun e => e.2.reqs.isEmpty) &&
    s.qe.sqs.all (fun e => match e.2 with | some r => !r.scanning | none => true) &&
    s.qe.cqs.all (fun e => match e.2 with | some c => !c.scanning | none => true)

/-- The idle time of R319 has passed since the last host activity; 0 acts as 1. A TLP that becomes ready at the instant at which it ends comes
first. -/
def State.idleHost (s : State) : Bool :=
  s.quietHost && decide (s.fn.hostAt + 25 * max 1 (s.f Reg.HIF_ASPM_L1_IDLE) ≤ s.now)

/-- ASPM_L1_REQUEST (R319): the idle time has passed with no request outstanding; the entry is counted. -/
def execAspmL1Request (s : State) : Out :=
  .next (if s.flag Reg.HIF_STATUS_LINK_UP && s.hostHere && s.idleHost then s.bump Reg.HIF_ASPM_L1_ENTRIES else s)

/-- Requests that were outstanding are abandoned, and nothing faults on their account (R334). A ring that is still there is scanned anew. -/
def State.abandon (s : State) : State :=
  let s := s.qe.sqs.foldl (fun (s : State) (e : Nat × Option SqRec) =>
    if e.2.any (·.scanning) then s.keepDoorbell (e.1 / 2048) (e.1 % 2048) else s) s
  let s := s.qe.cqs.foldl (fun (s : State) (e : Nat × Option CqRec) =>
    if e.2.any (·.scanning) then s.keepDoorbell (e.1 / 2048) (e.1 % 2048) else s) s
  let s := s.bm.engines.foldl (fun (s : State) (e : Nat × EngRec) =>
    s.setEngine e.1 { e.2 with reqs := [], holder := none, fetched := none }) s
  { s with qe := { s.qe with
      sqs := s.qe.sqs.map (fun e => (e.1, e.2.map (fun r => { r with scanning := false, again := false })))
      cqs := s.qe.cqs.map (fun e => (e.1, e.2.map (fun c => { c with scanning := false, again := false }))) } }

/-- A PCIe hot reset (R467): configuration space of every function is reset, as by a PF FLR. -/
def State.hotReset (s : State) : State :=
  let s := { s with fn := { s.fn with l23 := false } }
  (s.setF Reg.CKG_RESET_CAUSE_CAUSE 3).resetAll
def execHotReset (s : State) : Out := .next s.hotReset

/-- HOST_LINK_DOWN (R334). -/
def State.hostLinkDown (s : State) : State :=
  let s := ((s.setB Reg.HIF_STATUS_LINK_UP false).setB Reg.HIF_STATUS_HOST_LOST true).setF Reg.HIF_LINK_STATUS_SPEED 0
  let s := s.setF Reg.HIF_LINK_STATUS_WIDTH 0
  let s := { s with fn := { s.fn with lostAt := some s.now } }
  s.abandon.hotReset
def execHostLinkDown (s : State) : Out := .next (if s.flag Reg.HIF_STATUS_LINK_UP then s.hostLinkDown else s)

/-- What waited for the link is sent: messages, ring state blocks and completions of every function (R320). -/
def State.requestsGoOn (s : State) : State :=
  s.forAll ((s.fn.fns.map (fun (x : Nat × FnRec) => x.1) ++ s.qe.cqs.map (fun (x : Nat × Option CqRec) => x.1 / 2048)).eraseDups) (fun s f =>
    let s := (s.sendPending f).sendRsbs f
    s.forAll (s.cqsOf f) (fun s i => s.flushCq f i))

/-- HOST_LINK_UP (R318, R342, R460): the link reaches DL_Active, or recovers; narrower than x4 it does not come up. -/
def State.hostLinkUp (s : State) (speed width : Nat) (rev : Bool) : State :=
  if width < 4 then s.setB Reg.HIF_STATUS_WIDTH_FAIL true
  else
    let s := s.when (s.flag Reg.HIF_STATUS_LINK_UP) (fun s => s.bump Reg.HIF_LINK_STATUS_RETRAINS)
    let s := (s.setB Reg.HIF_STATUS_LINK_UP true).setF Reg.HIF_LINK_STATUS_SPEED speed
    let s := (s.setF Reg.HIF_LINK_STATUS_WIDTH width).setB Reg.HIF_LINK_STATUS_REVERSED rev
    let s := { s with fn := { s.fn with lostAt := none, l23 := false } }
    ((s.when (!s.inDormant) (fun s => s.wake .pcie)).requestsGoOn).rescan
def execHostLinkUp (speed : BitVec 3) (width : BitVec 5) (reversed : Bool) (s : State) : Out :=
  .next (s.hostLinkUp speed.toNat width.toNat reversed)

/-- CONFIG_READY (R332, R333). -/
def execConfigReady (s : State) : Out :=
  .next (if s.ck.porst || s.ck.perst then s else s.setB Reg.HIF_STATUS_CONFIG_READY true)

end Sys2Proof.Machine
end

