-- ==== Sys2Proof/Machine/Logs.lean ====
section
/-! DEFINITION. What IDENTIFY and GET_LOG write (R246, R368, R369, R403, R424). -/

namespace Sys2Proof.Machine

/-! ## IDENTIFY (R368, R420) -/

/-- QUAD_WIDTH of quad `q`. -/
def State.quadWidth (s : State) (q : Nat) : Nat :=
  if s.miodelLane (4 * q + 2) then 0xFF
  else s.f (Reg.LX_QUAD_CFG_WIDTH q) + (if s.miodelLane (4 * q) then 0x80 else 0)

/-- The structure of CNS 0, 4 KiB. -/
def State.identity (s : State) : List Byte :=
  padTo 4096 (leBytes 2 0x7A1E ++ leBytes 2 0x1920 ++ [1, 1]
    ++ [BitVec.ofNat 8 (s.f Reg.PU_CFG_SIDE + 2 * s.role), BitVec.ofNat 8 (s.f Reg.PU_CFG_RANK)]
    ++ leBytes 4 (s.f Reg.GLB_SERIAL_LO_SERIAL) ++ leBytes 4 (s.f Reg.GLB_SERIAL_HI_SERIAL) ++ leBytes 4 (s.f Reg.RSQ_FW_VER_VER)
    ++ leBytes 4 (s.f Reg.MRE_UCODE_VER_VER) ++ leBytes 2 16384 ++ leBytes 2 16384 ++ leBytes 2 8192 ++ leBytes 2 s.fn.numVfs
    ++ [16, 64] ++ leBytes 2 16384 ++ leBytes 4 1048544 ++ leBytes 4 65536 ++ leBytes 2 16384 ++ leBytes 2 8192
    ++ (List.range 48).map (fun q => BitVec.ofNat 8 (s.quadWidth q)))

/-- What IDENTIFY writes for function `f`. -/
def State.identifyBytes (s : State) (f cns : Nat) : List Byte :=
  if cns = 0 then s.identity
  else padTo 4096 (if f = 0 then grantBytes s.pfGrant true else grantBytes (s.grant f) false)

/-! ## Log pages (R369) -/

/-- A page: its records in order, each with its INDEX; its record length; and dword 7. -/
structure LogPage where
  recs : List (Nat × List Byte)
  size : Nat
  d7 : Word
  deriving DecidableEq, Repr

/-- Records numbered by their ordinal. -/
def byOrdinal (l : List (List Byte)) : List (Nat × List Byte) := (List.range l.length).zip l

/-- A signed value in `n` bytes. -/
def intBytes (n : Nat) (x : Int) : List Byte := leBytes n (x % 2 ^ (8 * n)).toNat

/-- LANE_HEALTH (R89). -/
def State.lanePage (s : State) : LogPage where
  recs := s.lx.log.map (fun r => (r.seq, leBytes 6 r.mfn ++ [BitVec.ofNat 8 r.lane, BitVec.ofNat 8 (r.old + 8 * r.new),
    r.m.hLeft.setWidth 8, r.m.hRight.setWidth 8, r.m.vUp.setWidth 8, r.m.vDown.setWidth 8] ++ leBytes 4 r.seq))
  size := 16
  d7 := BitVec.ofNat 32 ((s.lx.log.head?.map (·.seq)).getD 0)

/-- The `n`-th number, from 0 on, that is not in an ascending list. -/
def nthFree (used : List Nat) (n : Nat) : Nat := used.foldl (fun n u => if u ≤ n then n + 1 else n) n

/-- The pool index of every polling entry, by list, bank and place in the list (R129): no two entries have the same, and none has 0xF_FFFF.
Which free entries the TS takes is open: a free value, the same as long as the lists are. -/
def State.poolIndex (s : State) : List ((Nat × Nat × Nat) × Nat) :=
  let own (b l : Nat) : Bool := b == s.bank || s.ts.copied.contains l
  let all := [s.bank, s.shadow].flatMap (fun b => s.ts.lists.flatMap (fun x =>
    if x.1 % 2 = b ∧ own b (x.1 / 2) then (List.range x.2.length).map (fun i => (x.1 / 2, b, i)) else []))
  ((all.foldl (fun (a : List ((Nat × Nat × Nat) × Nat) × List Nat) k =>
    let i := nthFree a.2 (Config.freeChoice (2 ^ 60 + (k.1 * 2 + k.2.1) * 2 ^ 20 + k.2.2) % (Config.poolEntries - a.2.length))
    ((k, i) :: a.1, insertBy (fun x y => decide (x < y)) i a.2)) ([], [])).1).reverse

/-- The index of the entry at a place of a list of a bank, the active bank's where both share the list (R146). -/
def State.indexAt (s : State) (t : List ((Nat × Nat × Nat) × Nat)) (l bank i : Nat) : Nat :=
  let b := if bank = s.bank ∨ s.ts.copied.contains l then bank else s.bank
  ((t.find? (fun x => x.1 == (l, b, i))).map (·.2)).getD 0

/-- SCHEDULE: every polling entry of a bank in trunk, k, phase, list and list order. -/
def State.schedPage (s : State) (f : Nat) (staged : Bool) : LogPage where
  recs :=
    let bank := if staged then s.shadow else s.bank
    let ix := s.poolIndex
    let all : List (Nat × Nat × Nat × PEnt × Nat) := (List.range 192).flatMap (fun t => levels.flatMap (fun k => (List.range (2 ^ k)).flatMap (fun p =>
      [0, 1].flatMap (fun o =>
        let l := listIx (nodeIx t k p) o
        ((s.entries l bank).zipIdx).map (fun e => (t, k, p, e.1, s.indexAt ix l bank e.2))))))
    let mine := all.filter (fun x => f == 0 || (if x.2.2.2.1.kind = 2 then s.holdsGroup f x.2.2.2.1.handle else s.holdsHandle f x.2.2.2.1.handle))
    byOrdinal (mine.map (fun x =>
      let e := x.2.2.2.1
      leBytes 4 x.2.2.2.2 ++ leBytes 3 e.handle
        ++ [BitVec.ofNat 8 (e.kind + 16 * b2n e.twill + 32 * b2n e.emerg), BitVec.ofNat 8 x.1, BitVec.ofNat 8 x.2.1]
        ++ leBytes 2 x.2.2.1 ++ [BitVec.ofNat 8 e.length, 0, 0, 0]))
  size := 16
  d7 := s.reg Reg.TS_COMMIT_MF_LO

/-- `n` bytes that the spec's events do not determine: counts of DSP cycles (R246). -/
def ObsWin.openBytes (o : ObsWin) (at_ n : Nat) : List Byte := leBytes n (Config.freeChoice (o.base + at_))

/-- The dispatcher log page of a window (R246). Counts of DSP cycles are free values. -/
def ObsWin.bytes (o : ObsWin) : List Byte :=
  leBytes 6 o.start ++ [BitVec.ofNat 8 o.w, BitVec.ofNat 8 (b2n o.satin + 2 * b2n o.opChanged)] ++ o.openBytes 0 8
    ++ leBytes 2 o.relMax ++ leBytes 2 0 ++ leBytes 4 o.relFull ++ leBytes 4 o.fired ++ leBytes 4 o.late ++ leBytes 4 o.timersMax
    ++ leBytes 4 o.overrun ++ leBytes 4 o.p0General ++ leBytes 20 0
    ++ o.prios.zipIdx.flatMap (fun (x : ObsPrio × Nat) =>
      let q := x.1
      leBytes 4 q.dispatched ++ leBytes 2 q.depthMax ++ leBytes 2 0 ++ o.openBytes (8 + 4 * x.2) 8 ++ o.openBytes (9 + 4 * x.2) 8
        ++ o.openBytes (10 + 4 * x.2) 4 ++ leBytes 4 q.holds ++ leBytes 4 q.spills ++ leBytes 4 q.hits ++ leBytes 4 q.misses ++ leBytes 4 0)
    ++ (List.range 64).flatMap (fun g => o.openBytes (64 + 2 * g) 4 ++ o.openBytes (65 + 2 * g) 4
      ++ leBytes 4 (Tbl.get (fun _ => 0) o.gpeOps g) ++ leBytes 4 (Tbl.get (fun _ => 0) o.gpeStall g))

/-- DISPATCHER: the last complete window. -/
def State.obsPage (s : State) : LogPage where
  recs := byOrdinal ((s.gd.obsLast.map ObsWin.bytes).toList)
  size := 1472
  d7 := s.reg Reg.GD_OBS_STATUS

/-- METER: the last complete window of each METER node that the function owns (R206). -/
def State.meterPage (s : State) (f : Nat) : LogPage where
  recs := byOrdinal ((s.nodes.filter (fun n => ownedBy f n.2)).filterMap (fun n => match n.2.kind with
    | .meter w =>
      let m := (s.nodeSt n.1).win.getD ⟨0, 0, 0, 0⟩
      some (leBytes 4 n.1 ++ leBytes 4 n.2.key.toNat ++ intBytes 4 m.peak ++ intBytes 4 m.mean ++ leBytes 6 m.start ++ [BitVec.ofNat 8 w, 0])
    | _ => none))
  size := 24
  d7 := s.reg Reg.MRE_GRAPH_ID

/-- LINE: the bound lines whose CORRELATE the function owns (R253, R254). -/
def State.linePage (s : State) (f : Nat) : LogPage where
  recs := s.boundLines.filterMap (fun l => match s.corr l with
    | some (_, nd, c) =>
      if ownedBy f nd then
        let r := s.line l
        let on := s.pilotOn l s.mfN
        some (l, leBytes 2 l ++ [BitVec.ofNat 8 r.state, BitVec.ofNat 8 (b2n on + 2 * b2n (c.ref == 0 && r.ref != 0))]
          ++ intBytes 2 r.dev ++ leBytes 2 r.age ++ leBytes 4 r.g ++ leBytes 4 (s.refOf l))
      else none
    | none => none)
  size := 16
  d7 := s.reg Reg.MRE_GRAPH_ID

/-- A SINK of the function carries a channel of zone `z`. -/
def State.carriesZone (s : State) (f z : Nat) : Bool :=
  s.nodes.any (fun n => ownedBy f n.2 && (match n.2.kind with
    | .sink _ chans _ _ => chans.any (fun c => c.zone == some z)
    | _ => false))

/-- ZONE: the zones of the active image (R211). -/
def State.zonePage (s : State) (f : Nat) : LogPage where
  recs :=
    let zs := match s.mre.image with | some i => i.zones | none => []
    let zs := zs.foldl (fun l z => insertBy (fun (a b : ZoneRec) => decide (a.zone < b.zone)) z l) []
    (zs.filter (fun z => f == 0 || s.carriesZone f z.zone)).map (fun z =>
      let o : Nat × Nat := Tbl.get (fun _ => (0, 0)) s.mre.zoneOver z.zone
      (z.zone, leBytes 2 z.zone ++ [BitVec.ofNat 8 (b2n (!z.repeat_)), BitVec.ofNat 8 z.prio] ++ leBytes 4 (min o.1 0xFFFFFFFF)
        ++ leBytes 6 o.2 ++ leBytes 2 0))
  size := 16
  d7 := s.reg Reg.MRE_GRAPH_ID

/-- RING: the function's rings by local index (R360, R363). -/
def State.ringPage (s : State) (f : Nat) : LogPage where
  recs :=
    let sqs := (s.sqsOf f).filterMap (fun i => (s.sq f i).map (fun r =>
      (i, leBytes 2 i ++ [BitVec.ofNat 8 (2 * b2n r.idle + 4 * b2n r.fetchStopped + 16 * b2n r.faulted),
        BitVec.ofNat 8 (s.cachedOf f i).length] ++ leBytes 2 r.glob ++ leBytes 2 r.pos ++ [0, BitVec.ofNat 8 r.log2] ++ leBytes 2 r.cq
        ++ leBytes 4 0)))
    let cqs := (s.cqsOf f).filterMap (fun i => (s.cq f i).map (fun c =>
      (i, leBytes 2 i ++ [BitVec.ofNat 8 (1 + 8 * b2n c.overflow + 16 * b2n c.faulted), 0] ++ leBytes 2 c.glob ++ leBytes 2 c.pos
        ++ [BitVec.ofNat 8 c.hold.length, BitVec.ofNat 8 c.log2] ++ leBytes 2 c.vector ++ leBytes 4 0)))
    (sqs ++ cqs).foldl (fun l x => insertBy (fun (a b : Nat × List Byte) => decide (a.1 < b.1)) x l) []
  size := 16
  d7 := 0

/-- LATE_FAULT (R403): a VF reads only records of its own views. -/
def State.latePage (s : State) (f : Nat) : LogPage where
  recs := byOrdinal ((s.xb.log.filter (fun r => f == 0 || r.fn == f)).map lateBytes)
  size := 32
  d7 := s.reg Reg.XB_LATE_LOST

/-- A squash record (R424). -/
def squashBytes (r : SquashRec) : List Byte :=
  leBytes 6 r.mfn ++ leBytes 2 r.fn ++ leBytes 2 r.sq ++ leBytes 2 r.cid ++ [BitVec.ofNat 8 r.opcode, BitVec.ofNat 8 r.where_]
    ++ leBytes 2 r.unit ++ leBytes 8 r.residue ++ leBytes 8 0

/-- SQUASH (R424). -/
def State.squashPage (s : State) : LogPage where
  recs := byOrdinal (s.fn.squash.map squashBytes)
  size := 32
  d7 := s.reg Reg.HIF_SQUASH_LOST

/-- The page that GET_LOG names; `none` when there is none. -/
def State.logPage (s : State) (f page : Nat) (staged : Bool) : Option LogPage :=
  match page with
  | 1 => some s.lanePage
  | 2 => some (s.schedPage f staged)
  | 3 => some s.obsPage
  | 4 => some (s.meterPage f)
  | 5 => some (s.linePage f)
  | 6 => some (s.zonePage f)
  | 7 => some (s.ringPage f)
  | 8 => some (s.latePage f)
  | 9 => some s.squashPage
  | _ => none

/-- Pages of which a VF reads nothing (R369, R424). -/
def pfPage (page : Nat) : Bool := page == 1 || page == 3 || page == 9

/-- Remove from a list the elements at which a running count of those satisfying `p` lies in [a, a + n). -/
def dropRange {α : Type} (p : α → Bool) (a n : Nat) (l : List α) : List α :=
  ((l.foldl (fun (x : List α × Nat) y => if p y then (if a ≤ x.2 ∧ x.2 < a + n then (x.1, x.2 + 1) else (y :: x.1, x.2 + 1))
    else (y :: x.1, x.2)) ([], 0)).1).reverse

/-- Key of the view that a late-fault record belongs to. -/
def lateKey (r : LateRec) : Nat :=
  match r.deleg with
  | some d => 256 + 4 * (r.fn - 1) + d
  | none => r.window

/-- ACK = 1 removes the records that were written; a view of the function leaves FAULTED once no record of a write failure on it remains (R403,
R424). -/
def State.ackLog (s : State) (f page first n : Nat) : State :=
  if page = 9 then { s with fn := { s.fn with squash := dropRange (fun _ => true) first n s.fn.squash } }
  else if page = 8 then
    let mine (r : LateRec) : Bool := f == 0 || r.fn == f
    let s := State.showLate { s with xb := { s.xb with log := dropRange mine first n s.xb.log } }
    let views := if f = 0 then List.range 256 else (List.range 4).map (· + (256 + 4 * (f - 1)))
    s.forAll views (fun s k =>
      if !s.flag (faultedF k) || s.xb.log.any (fun q => decide (q.kind < 2) && lateKey q == k) then s else s.clearView k)
  else s

/-- GET_LOG (R369): whole records from INDEX on, as many as COUNT and LENGTH allow. The entry has passed its checks. -/
def State.getLog (s : State) (r : EntryRef) (e : Sqe) : State :=
  let f := r.fn.val
  let page := sqeF e 1 0 8
  match s.logPage f page (sqeF e 1 31 1 == 1) with
  | none => s.complete r e St.malformed
  | some p =>
    let index := (sqeDw e 2).toNat
    let count := (sqeDw e 3).toNat
    let l := p.recs.filter (fun x => decide (index ≤ x.1))
    let n := min (if count = 0 then l.length else min count l.length) ((sqeDw e 6).toNat / p.size)
    let next := match l.drop n with
      | x :: _ => x.1
      | [] => match (l.take n).getLast? with
        | some x => x.1 + 1
        | none => index
    let out := (l.take n).flatMap (·.2)
    let s := s.when (n != 0) (fun s => s.sendHost (.write f (sqe64 e 4) out))
    let s := { s with free := s.free + 1048576 }
    let s := s.when (sqeF e 1 30 1 == 1) (fun s => s.ackLog f page ((p.recs.filter (fun x => decide (x.1 < index))).length) n)
    s.complete r e St.ok 0 (BitVec.ofNat 32 n) (BitVec.ofNat 32 next) (BitVec.ofNat 32 p.recs.length) p.d7

/-- IDENTIFY (R368). -/
def State.identify (s : State) (r : EntryRef) (e : Sqe) : State :=
  (s.sendHost (.write r.fn.val (sqe64 e 2) (s.identifyBytes r.fn.val (sqeF e 1 0 8)))).complete r e St.ok

end Sys2Proof.Machine
end

