-- ==== Sys2Proof/Machine/Entries.lean ====
section
/-! DEFINITION. Submission entries (R355, R356, R365 to R369, R373, R379, R409): their checks, their start, and what each of them does. -/

namespace Sys2Proof.Machine

/-! ## Check 1: the opcode (R356) -/

def ioOps : List Nat := [0x01, 0x02, 0x10, 0x11, 0x12, 0x18, 0x19, 0x20, 0x21, 0x30, 0x31, 0x32]
def adminOps : List Nat := [0x01, 0x80, 0x81, 0x82, 0x83, 0x84, 0x85, 0x86, 0x88, 0x89, 0x8A, 0x8C, 0x8D, 0x8E, 0x90, 0x91, 0x92, 0x93,
  0x94, 0x95, 0x96, 0x97, 0x98]

/-- Opcodes that a VF may not issue (R367). -/
def pfOps : List Nat := [0x85, 0x90, 0x91, 0x92, 0x93, 0x94, 0x95]

/-! ## Check 2: reserved fields and ranges -/

/-- Bits that each opcode defines in dwords 1 and later (R366, R367). -/
def sqeMasks (e : Sqe) : List Nat :=
  let w : Nat := 0xFFFFFFFF
  match sqeOpcode e with
  | 0x02 => [0x3FF, w, w]
  | 0x10 | 0x11 => [0xFFFFF, 0x3FFFF, 0x3FF, w, w]
  | 0x12 => [0xFFFF, w, w, w, w, w, w, 0x3FF]
  | 0x18 => [0xFFFFF, 0x33FFF, 0x3FF, w, w]
  | 0x19 => [0xFFFFF, 0x3FFF, 0x3FF, w, w]
  | 0x20 => if sqeF e 1 16 1 = 1 then [0x103FF, w, w] else [0x103FF, w, w, w, w, w]
  | 0x21 => [0x103FF, w, w, w, w, w, w, w, w]
  | 0x30 => [0xFF, w, 0xFFFF, w, w, w, 0xFFFF, 0xFFFF, w, 0x3FF]
  | 0x31 => [0xFF, w, 0xFFFF]
  | 0x32 => [0x3F, w, w, w, 0x3FF]
  | 0x80 => [0x7FF, 0x07FF001F, 0, w, w, w, w]
  | 0x81 | 0x83 => [0x7FF]
  | 0x82 => [0x7FF, 0xFFFFFF1F, 0x800007FF, w, w, w, w]
  | 0x84 => [0xFF, w, w]
  | 0x85 => [0x7FF, 0xFFFF, w]
  | 0x86 => [if 8 ≤ sqeF e 1 0 8 then 0xC00000FF else 0x800000FF, w, w, w, w, w]
  | 0x88 => [if sqeF e 1 31 1 = 1 then 0x80003FFF else 0xFFFFF, 0xFFFFFF0F, 1]
  | 0x89 => [if sqeF e 1 31 1 = 1 then 0x80003FFF else 0xFFFFF]
  | 0x8A | 0x8D => [0, w, 0xFFFF]
  | 0x8C => [0, w, w, w]
  | 0x8E => [0x3FFF, 0x7FFFF, 1]
  | 0x90 | 0x92 | 0x93 => [0x3FF, w, w, w]
  | 0x91 | 0x94 => [0x3FF]
  | 0x95 => [0xF]
  | 0x96 => [0xF, w, 0x1FFF, w, 0xFFFF, w, w, w, w, w, w, w]
  | 0x97 => [7, 7, w]
  | 0x98 => [0x3F, w, w, w, w, 3]
  | _ => []

/-- KIND of the endpoint that an entry names is `k`; one that does not exist is found out later. -/
def State.kindIs (s : State) (h k : Nat) : Bool := s.cf h Cx.valid == 0 || s.cf h Cx.kind == k

/-- Direction bit of an endpoint entry. -/
def dirOf (e : Sqe) : Nat := sqeF e 1 19 1

/-- Bytes of a transfer's or frame's LENGTH field, and of a control transfer's data stage. -/
def xferLen (e : Sqe) : Nat :=
  match sqeOpcode e with
  | 0x10 | 0x11 => sqeF e 2 0 17
  | 0x12 => sqeF e 4 0 16
  | 0x18 | 0x19 => sqeF e 2 0 14
  | _ => 0

/-- The setup payload of a CONTROL entry (R60). -/
def setupOf (e : Sqe) : List Byte := wordBytes ([2, 3, 4, 5].map (sqeDw e))

/-- The OUT endpoint that a GROUP_SET names has group capability (R115, R367). -/
def State.groupCapable (s : State) (e : Sqe) : Bool :=
  match s.dev (sqeF e 2 0 16) with
  | some d => d.eps.any (fun x => x.ep == sqeF e 2 16 3 && nbit x.flags 1)
  | none => false

/-- Every field is within its range, and the entry is consistent with its chapter's rules (R57, R60, R194, R209, R242, R366, R367,
R374, R377, R379, R390, R409, R410, R418). -/
def State.formOk (s : State) (f : Nat) (e : Sqe) : Bool :=
  let h := sqeHandle e
  let crc := sqeF e 2 17 1
  match sqeOpcode e with
  | 0x10 => dirOf e == 0 && s.kindIs h 1 && decide (xferLen e ≤ (if crc = 1 then 65532 else 65536)) && (crc == 0 || s.cf h Cx.payloadCrc == 1)
  | 0x11 => dirOf e == 1 && s.kindIs h 1 && decide (xferLen e ≤ 65536) && (crc == 0 || s.cf h Cx.payloadCrc == 1)
  | 0x12 => decide (xferLen e ≤ 4096) && sqeF e 2 0 5 == 0 && sqeF e 4 16 16 == 0 && sqeDw e 5 == 0
  | 0x18 =>
    let n := xferLen e
    dirOf e == 0 && s.kindIs h 3 && (if sqeF e 2 16 1 = 1 then decide (1 ≤ n ∧ n ≤ 1536)
      else decide (64 ≤ n + 4 * crc ∧ n + 4 * crc ≤ 9216))
  | 0x19 => dirOf e == 1 && s.kindIs h 3
  | 0x20 => sqeF e 1 16 1 == 1 || decide (64 ≤ (sqeDw e 6).toNat ∧ (sqeDw e 6).toNat ≤ 0xFFFFFFC0)
  | 0x21 => decide (16 ≤ (sqeDw e 6).toNat ∧ (sqeDw e 6).toNat ≤ 65536 ∧ 64 ≤ (sqeDw e 7).toNat ∧ (sqeDw e 7).toNat ≤ 4096)
  | 0x30 => sqeDw e 6 != 0 && (sqeF e 8 0 16 == 0 || (sqeDw e 9 != 0 && sqeF e 7 0 16 != 0))
  | 0x32 =>
    let c := s.tapChans (sqeF e 1 0 6)
    c != 0 && sqeDw e 4 != 0 && (sqeDw e 4).toNat % (max 1 c * 1152) == 0
  | 0x80 => decide (2 ≤ sqeF e 1 0 11 ∧ 6 ≤ sqeF e 2 0 5 ∧ sqeF e 2 0 5 ≤ 16 ∧ 2 ≤ sqeF e 2 16 11) && (s.cq f (sqeF e 2 16 11)).isSome &&
      (s.sq f (sqeF e 1 0 11)).isNone && (s.cq f (sqeF e 1 0 11)).isNone
  | 0x81 => decide (2 ≤ sqeF e 1 0 11) && (match s.sq f (sqeF e 1 0 11) with | some q => q.deleting.isNone | none => false)
  | 0x82 => decide (2 ≤ sqeF e 1 0 11 ∧ 6 ≤ sqeF e 2 0 5 ∧ sqeF e 2 0 5 ≤ 16 ∧ 1 ≤ sqeF e 2 8 8 ∧ 1 ≤ sqeF e 2 16 16) &&
      (s.sq f (sqeF e 1 0 11)).isNone && (s.cq f (sqeF e 1 0 11)).isNone
  | 0x83 => decide (2 ≤ sqeF e 1 0 11) && (s.cq f (sqeF e 1 0 11)).isSome
  | 0x84 => decide (sqeF e 1 0 8 ≤ 1)
  | 0x85 => decide (sqeF e 1 0 11 ≤ 1024)
  | 0x86 => decide (1 ≤ sqeF e 1 0 8 ∧ sqeF e 1 0 8 ≤ 9)
  | 0x88 => sqeF e 1 31 1 == 1 || sqeF e 1 20 11 == 0
  | 0x8E => s.groupCapable e
  | 0x90 => sqeDw e 4 == 256
  | 0x92 => decide ((sqeDw e 4).toNat ≤ 0x100000)
  | 0x96 => sqeF e 1 0 4 == 0 || decide (sqeF e 2 0 16 ≤ sqeF e 2 16 16 ∧ sqeF e 3 0 13 ≤ 4096)
  | 0x97 => decide (sqeF e 1 0 3 ≤ 5)
  | 0x98 => sqe64 e 4 == 0 || decide (sqe64 e 2 + sqe64 e 4 ≤ 2 ^ 64)
  | _ => true

/-! ## Check 3: alignment -/

/-- Host addresses and lengths that must be multiples of 64 bytes (R262, R356, R378, R379). -/
def alignNums (e : Sqe) : List Nat :=
  match sqeOpcode e with
  | 0x02 => [sqe64 e 2]
  | 0x10 | 0x11 | 0x18 | 0x19 => [sqe64 e 4]
  | 0x12 => if xferLen e = 0 then [] else [sqe64 e 6]
  | 0x20 => if sqeF e 1 16 1 = 1 then [sqe64 e 2] else [sqe64 e 2, sqe64 e 4, (sqeDw e 6).toNat]
  | 0x21 => [sqe64 e 2, sqe64 e 4, (sqeDw e 6).toNat * 4, (sqeDw e 7).toNat, sqe64 e 8]
  | 0x30 => [sqe64 e 4]
  | 0x32 => [sqe64 e 2, (sqeDw e 4).toNat]
  | 0x80 | 0x82 => [sqe64 e 4, sqe64 e 6]
  | 0x84 => [sqe64 e 2]
  | 0x86 => [sqe64 e 4, (sqeDw e 6).toNat]
  | 0x8C | 0x90 | 0x92 | 0x93 => [sqe64 e 2, (sqeDw e 4).toNat]
  | 0x96 => if sqeF e 1 0 4 = 0 then [] else [sqe64 e 6, sqe64 e 8, sqe64 e 10, (sqeDw e 12).toNat]
  | 0x98 => if sqe64 e 4 = 0 then [] else [sqe64 e 2, sqe64 e 4]
  | _ => []

/-! ## Check 4: the grant -/

/-- I/O rings that function `f` may still make (R367, R417, R418). -/
def State.sqLeft (s : State) (f : Nat) : Bool :=
  decide (0 < s.f Reg.QE_RINGS_FREE_SQ) && (f == 0 || decide ((ioRings f s.qe.sqs).length < (s.grant f).sqs))
def State.cqLeft (s : State) (f : Nat) : Bool :=
  decide (0 < s.f Reg.QE_RINGS_FREE_CQ) && (f == 0 || decide ((ioRings f s.qe.cqs).length < (s.grant f).cqs))

/-- The endpoint or group of a staging command is the function's. -/
def State.holdsKey (s : State) (f k : Nat) : Bool := if k < 0x100000 then s.holdsHandle f k else s.holdsGroup f (k - 0x100000)

/-- The function may issue the entry, and holds what it names (R147, R218, R262, R313, R356, R366, R367). -/
def State.granted (s : State) (f : Nat) (e : Sqe) : Bool :=
  let op := sqeOpcode e
  let chan := match sqeChan e with | some c => s.holdsChan f c | none => true
  chan && (f == 0 || !pfOps.contains op) &&
  (match op with
  | 0x10 | 0x11 | 0x18 | 0x19 => s.holdsHandle f (sqeHandle e)
  | 0x12 => if sqeF e 1 0 16 = 0xFFFF then f == 0 else s.holdsDevice f (sqeF e 1 0 16)
  | 0x30 | 0x31 => s.ownsGen f (sqeF e 1 0 8)
  | 0x32 => s.ownsTap f (sqeF e 1 0 6)
  | 0x80 => s.sqLeft f
  | 0x82 => s.cqLeft f && s.holdsVector f (sqeF e 3 0 11)
  | 0x86 => f == 0 || !pfPage (sqeF e 1 0 8)
  | 0x88 | 0x89 => s.holdsKey f (stageKey e)
  | 0x8D => s.mre.staged.isNone || s.graphRight f
  | 0x8E => s.holdsGroup f (sqeF e 1 0 14) && s.holdsHandle f (sqeF e 2 0 16 * 16 + sqeF e 2 16 3)
  | 0x96 => f == 0 || sqeF e 1 1 3 == 0
  | 0x97 => f == 0 || sqeF e 1 0 3 == 0 || sqeF e 1 0 3 == 5
  | _ => true)

/-! ## Check 5: DMA windows (R379) -/

/-- Whole 64-byte units of `n` bytes. -/
def units64 (n : Nat) : Nat := ceilDiv n 64 * 64

/-- Host buffers of an entry: address, bytes, read by the device, written by it. -/
def buffersOf (e : Sqe) : List (Nat × Nat × Bool × Bool) :=
  match sqeOpcode e with
  | 0x02 => [(sqe64 e 2, 64, true, false)]
  | 0x10 | 0x18 => [(sqe64 e 4, units64 (xferLen e), true, false)]
  | 0x11 | 0x19 => [(sqe64 e 4, units64 (xferLen e), false, true)]
  | 0x12 => if sqeF e 2 7 1 = 1 then [(sqe64 e 6, units64 (xferLen e), false, true)] else [(sqe64 e 6, units64 (xferLen e), true, false)]
  | 0x20 => if sqeF e 1 16 1 = 1 then [] else
      [(sqe64 e 2, (sqeDw e 6).toNat, true, false), (sqe64 e 4, (sqeDw e 6).toNat, false, true)]
  | 0x21 => let n := (sqeDw e 6).toNat * (sqeDw e 7).toNat
    [if sqeF e 1 16 1 = 1 then (sqe64 e 8, n, true, false) else (sqe64 e 8, n, false, true)]
  | 0x30 => [(sqe64 e 4, clipBytes (sqeDw e 6).toNat, true, false)]
  | 0x32 => [(sqe64 e 2, (sqeDw e 4).toNat, false, true)]
  | 0x80 => [(sqe64 e 4, 2 ^ sqeF e 2 0 5 * 64, true, true), (sqe64 e 6, 64, true, true)]
  | 0x82 => [(sqe64 e 4, 2 ^ sqeF e 2 0 5 * 32, true, true), (sqe64 e 6, 64, true, true)]
  | 0x84 => [(sqe64 e 2, 4096, false, true)]
  | 0x86 => [(sqe64 e 4, (sqeDw e 6).toNat, false, true)]
  | 0x8C | 0x90 | 0x93 => [(sqe64 e 2, (sqeDw e 4).toNat, true, false)]
  | 0x92 => [(sqe64 e 2, (sqeDw e 4).toNat, false, true)]
  | 0x96 =>
    let n := sqeF e 2 16 16 + 1 - sqeF e 2 0 16
    let muslin := [(sqe64 e 6, units64 (8 * n), true, false), (sqe64 e 8, units64 (16 * n), false, true)]
    if sqeF e 1 0 4 = 0 then [] else (if sqeF e 1 0 1 = 1 then muslin else []) ++ [(sqe64 e 10, (sqeDw e 12).toNat, false, true)]
  | _ => []

/-- Every host buffer of the entry lies in a window of the function for each access that it needs (R379). -/
def State.windowsOk (s : State) (f : Nat) (e : Sqe) : Bool :=
  (buffersOf e).all (fun b => b.2.1 == 0 || ((!b.2.2.1 || insideWindows (s.windowsOf f) b.1 b.2.1 false) &&
    (!b.2.2.2 || insideWindows (s.windowsOf f) b.1 b.2.1 true)))

/-! ## The checks together (R356) -/

/-- Work of the HOLDER (R293). -/
def holderWork (e : Sqe) : Bool :=
  [0x10, 0x11, 0x12, 0x18, 0x19, 0x30, 0x32].contains (sqeOpcode e) || (sqeOpcode e == 0x96 && sqeF e 1 0 4 != 0)

/-- The status of the first check that fails, or OK. -/
def State.check (s : State) (r : EntryRef) (e : Sqe) : Nat :=
  let f := r.fn.val
  if !(if r.sq = 0 then adminOps else ioOps).contains (sqeOpcode e) then St.invalidOpcode
  else if !sqeReservedOk e (sqeMasks e) || !s.formOk f e then St.malformed
  else if !(alignNums e).all (fun n => n % 64 == 0) then St.align
  else if !s.granted f e then St.outOfGrant
  else if !s.windowsOk f e then St.dmaWindow
  else if s.frozen f then St.frozen
  else if s.isPartner && holderWork e then St.takenOver
  else St.ok

/-- Where the work of an entry lies, for a squash record (R424): WHERE and UNIT. -/
def placeOf (r : EntryRef) (e : Sqe) : Nat × Nat :=
  if r.sq = 0 then (5, 0)
  else match sqeOpcode e with
    | 0x02 | 0x20 | 0x21 => (1, (sqeChan e).getD 0)
    | 0x10 | 0x11 | 0x12 | 0x18 | 0x19 => (2, 0)
    | 0x30 | 0x31 => (4, sqeF e 1 0 8)
    | 0x32 => (4, sqeF e 1 0 6)
    | _ => (0, 0)

/-- The entry starts (R353, R356, R387): it leaves the cache; a failing check, or a stopped engine, ends it; else `run` carries it
out. -/
def State.startEntry (s : State) (r : EntryRef) (e : Sqe) (run : State → State) : State :=
  let st := s.check r e
  let p := placeOf r e
  let s := s.startRec r e p.1 p.2
  let s := if st ≠ St.ok then (s.bump Reg.QE_ERR_MALFORMED).complete r e st
    else if (match sqeChan e with | some c => s.stopped (c / 64) | none => false) then s.complete r e St.engineFault
    else run s
  s.serveSpace

/-! ## What may start (R355, R373, R384) -/

/-- Endpoint, generator and channel on which an entry acts: entries behind one that cannot start wait on these. -/
def actsOn (e : Sqe) : List (Nat × Nat) :=
  (match sqeChan e with | some c => [(0, c)] | none => []) ++
  (match sqeOpcode e with
   | 0x10 | 0x11 | 0x18 | 0x19 => [(1, sqeHandle e)]
   | 0x12 => [(1, sqeF e 1 0 16 * 16)]
   | 0x30 | 0x31 => [(2, sqeF e 1 0 8)]
   | _ => [])

/-- An invalidation of a ring is in progress (R354): its scan has not stopped, or its INVALIDATED entry is still to be written. -/
def State.invalidating (s : State) (f i : Nat) : Bool :=
  match s.sq f i with
  | none => false
  | some q => q.first.isSome || (match s.cq f q.cq with
    | some c => (c.hold ++ c.waiting).any (fun x => x.status == St.invalidated && x.sq == i)
    | none => false)

/-- An I/O entry may start: no invalidation of its ring is in progress, no FENCE ahead of it runs, its channel is free, no earlier bulk or
tunnel transfer of its endpoint is open, and a FENCE has nothing started before it. -/
def State.mayStart (s : State) (r : EntryRef) (e : Sqe) : Bool :=
  let f := r.fn.val
  let i := r.sq.toNat
  !s.invalidating f i &&
  !(s.startedOf f i).any (fun x => x.ref == r || sqeOpcode x.sqe == 0x02) &&
  (sqeOpcode e != 0x02 || (s.startedOf f i).isEmpty) &&
  (match sqeChan e with | some c => (s.chan c).job.isNone | none => true) &&
  (match sqeOpcode e with
   | 0x10 | 0x11 | 0x18 | 0x19 => !s.bus.xfers.any (fun x => match x.2 with | some q => q.handle == sqeHandle e | none => false)
   | _ => true)

/-- The first cached entry of a ring that may start: entries behind one that waits wait too when they act on the same, and FENCE
waits for all of them. -/
def State.nextStart (s : State) : List CacheEnt → List (Nat × Nat) → Option CacheEnt
  | [], _ => none
  | x :: l, held =>
    let mine := actsOn x.sqe
    let fence := sqeOpcode x.sqe == 0x02
    if s.mayStart x.ref x.sqe && !mine.any held.contains && !(fence && !held.isEmpty) then some x
    else if fence then none
    else s.nextStart l ((3, 0) :: mine ++ held)

/-- An admin entry may be taken: it has not been taken (R365), and no invalidation of its ring is in progress (R354). -/
def State.mayTake (s : State) (r : EntryRef) : Bool := !s.qe.started.any (fun x => x.ref == r) && !s.invalidating r.fn.val r.sq.toNat

/-! ## I/O entries (R366) -/

/-- MOVE, MOVE_INDEXED and FENCE go to their channel (R373, R380). -/
def State.beginMove (s : State) (r : EntryRef) (e : Sqe) : State :=
  s.setJob ((sqeChan e).getD 0) (some { entryJob r e with windows := s.windowsOf r.fn.val })

/-- A transfer begins, on its channel; an endpoint that is not there, or DETACHED, ends it at once (R58, R108, R160). FORMAT
of the frames that a tunnel IN endpoint sends is free (log entry 60). -/
def State.beginXferOf (s : State) (r : EntryRef) (e : Sqe) (k : XKind) (h : Nat) (setup : List Byte) (addr : Nat) : State :=
  if s.cf h Cx.valid = 0 then s.complete r e St.deviceGone
  else if s.cf h Cx.detached = 1 then
    s.complete r e (match s.dev (h / 16) with | some d => if d.byReset then St.portReset else St.deviceGone | none => St.deviceGone)
  else
    let c := (sqeChan e).getD 0
    let x := newXfer (.entry r) r.fn.val k h (s.prefRoot (h / 16)) (xferLen e) (some c) addr setup
      (if k = .control then 0 else s.cf h Cx.seq) (s.cf h Cx.nakLimit)
    let bulk := sqeOpcode e == 0x10 || sqeOpcode e == 0x11
    let x := { x with crc := bulk && sqeF e 2 17 1 == 1, format := if sqeOpcode e = 0x18 then sqeF e 2 16 1
                                               else if k = .tunnelRx then b2n (Config.tunnelFormat ((s.dev (h / 16)).map (·.serial) |>.getD 0) (h % 8))
                                               else 0
                      addFcs := sqeOpcode e == 0x18 && sqeF e 2 17 1 == 1 }
    let (s, n) := s.beginXfer x
    s.setJob c (some (newJob r (.xfer n)))

/-- A feature of a root port (R104, R107, R113): it applies in the states that the table Port transitions lists for it, and the request is
stalled in any other. When presence is lost in the same cycle the port is POWERED, where none of these features applies but Clear POWER, which
wins (R107); the others are stalled (DESIGN CHOICE, log entry 42). -/
def State.rootFeature (s : State) (r : EntryRef) (e : Sqe) (p : Nat) (states : List Nat) (op : State → State) : State :=
  if p < 192 ∧ s.portExists p ∧ states.contains (s.portState p) ∧ (states.contains 1 || !s.lossAhead p) then (op s).complete r e St.ok 0 2 else s.complete r e St.stall 0 2

/-- A CONTROL entry to the root hub is carried out by the TM without bus traffic (R113). -/
def State.rootHub (s : State) (r : EntryRef) (e : Sqe) : State :=
  let b := setupOf e
  let p := field b 4 4
  let v := field b 2 2
  match field b 0 1, field b 1 1 with
  | 0xA0, 0x20 =>
    if p < 192 ∧ s.portExists p then
      let d := (s.portStatusBytes p).take (xferLen e)
      let s := s.updPort p (fun q => { q with change := 0, discards := 0 })
      let s := s.when (!d.isEmpty) (fun s => s.sendHost (.write r.fn.val (sqe64 e 6) (pad64 d)))
      s.complete r e St.ok d.length 2
    else s.complete r e St.stall 0 1
  | 0x20, 0x21 => match v with
    | 1 => s.rootFeature r e p [0] (fun s => s.portPower p)
    | 2 => s.rootFeature r e p [2, 4, 5, 6] (fun s => s.portReset p false)
    | 3 => s.rootFeature r e p [4] (fun s => s.portSuspend p)
    | 4 => s.rootFeature r e p [5, 6] (fun s => s.portResume p false)
    | 5 => s.rootFeature r e p [5, 6] (fun s => s.portSetEnable p)
    | _ => s.complete r e St.stall 0 2
  | 0x20, 0x22 => match v with
    | 1 => s.rootFeature r e p [1, 2, 3, 4, 5, 6] (fun s => s.portOff p)
    | 5 => s.rootFeature r e p [4] (fun s => s.portClearEnable p)
    | _ => s.complete r e St.stall 0 2
  | _, _ => s.complete r e St.stall 0 0

/-- CONTROL (R59, R113, R366). -/
def State.beginControl (s : State) (r : EntryRef) (e : Sqe) : State :=
  if sqeF e 1 0 16 = 0xFFFF then s.rootHub r e
  else s.beginXferOf r e .control (sqeF e 1 0 16 * 16) (setupOf e) (sqe64 e 6)

/-- TAP_RECORD (R209): a buffer that has joined its tap's queue occupies its channel. -/
def State.beginTap (s : State) (r : EntryRef) (e : Sqe) : State :=
  let t := sqeF e 1 0 6
  let s := s.tapBuffer r e
  if (s.tap t).bufs.any (fun b => b.ref == r) then s.setJob ((sqeChan e).getD 0) (some (newJob r (.tap t))) else s

/-! ## Mirrored commands (R292) -/

/-- A command that changes mirrored state takes its place in the HOLDER's order: on the PARTNER it is sent there, on the HOLDER its
record goes to the PARTNER; while the ordered channel is down and the peer is not lost it completes with ABORTED. -/
def State.ordered (s : State) (r : EntryRef) (e : Sqe) (h : HostData) (op : State → State) : State :=
  if s.role = 0 ∨ (s.isHolder ∧ s.pstate = 4 ∧ !s.orderedUp) then op s
  else if !s.orderedUp then s.complete r e St.aborted
  else if s.isPartner then
    (s.sendOrdered (fun n => .mirror n (.command r.fn e h (BitVec.ofNat 48 s.mfN)))).updPu (fun p => { p with sent := p.sent ++ [(r, e)] })
  else op (s.mirror r e h)

/-- CLIP_PLAY: a clip that has joined its generator's queue occupies its channel on the device whose entry it is. -/
def State.playClip (s : State) (r : EntryRef) (e : Sqe) (now : Nat) : State :=
  let g := sqeF e 1 0 8
  let s := s.clipPlay r e now
  if r.sq != 1 && (s.gen g).clips.any (fun c => c.ref == r) then s.setJob ((sqeChan e).getD 0) (some (newJob r (.clip g))) else s

/-- A mirrored command is applied (R292). `h` is what it has read from host memory; `now` is the microframe in which the HOLDER has given it its
place, by which both devices judge how far ahead its own microframe lies. -/
def State.applyCmd (s : State) (r : EntryRef) (e : Sqe) (h : HostData) (now : Nat) : State :=
  match sqeOpcode e, h with
  | 0x30, _ => s.playClip r e now
  | 0x31, _ => s.clipStop r e now
  | 0x85, _ => s.setShare r e
  | 0x88, _ => s.stage r e
  | 0x89, _ => s.stage r e
  | 0x8E, _ => s.stage r e
  | 0x8A, _ => s.scheduleCommit r e now
  | 0x8C, .image img => s.graphLoad r e img
  | 0x8D, _ => s.graphSwap r e now
  | 0x90, .bytes b => s.vfGrant r e b
  | 0x96, _ => s.auditStart r e now
  | _, _ => s

/-- A mirrored command starts. -/
def State.runOrdered (s : State) (r : EntryRef) (e : Sqe) (h : HostData) : State := s.ordered r e h (fun s => s.applyCmd r e h s.mfN)

/-- VF_GRANT: what is not mirrored is checked before the record takes its place in the order (R417 to R419). -/
def State.orderedGrant (s : State) (r : EntryRef) (e : Sqe) (b : List Byte) : State :=
  match grantOf b with
  | none => s.complete r e St.malformed
  | some g =>
    let st := s.grantCheck (sqeF e 1 0 10 + 1) g
    if st = St.ok then s.runOrdered r e (.bytes b) else s.complete r e st

/-! ## Admin entries (R361, R362, R367, R379, R389) -/

/-- CREATE_SQ (R361). -/
def State.createSq (s : State) (r : EntryRef) (e : Sqe) : State :=
  let f := r.fn.val
  let i := sqeF e 1 0 11
  let s := s.newSq f i ⟨0, sqe64 e 4, sqeF e 2 0 5, sqe64 e 6, sqeF e 2 16 11, 0, false, false, false, false, false, false, none, false,
    none, []⟩
  s.complete r e St.ok 0 (BitVec.ofNat 32 (((s.sq f i).map (·.glob)).getD 0))

/-- DELETE_SQ (R361, R362): the ring is disabled; the entry completes when it is IDLE. -/
def State.deleteSq (s : State) (r : EntryRef) (e : Sqe) : State :=
  let f := r.fn.val
  let i := sqeF e 1 0 11
  let s := (s.updSq f i (fun q => { q with deleting := some r, idle := false })).discardCached f i
  s.finishIdle f i

/-- CREATE_CQ (R349, R361): `clean` says that every entry of the ring has OWN = 0. -/
def State.createCq (s : State) (r : EntryRef) (e : Sqe) (clean : Bool) : State :=
  if !clean then s.complete r e St.malformed
  else
    let f := r.fn.val
    let i := sqeF e 1 0 11
    let n := sqeF e 2 0 5
    let s := s.newCq f i ⟨0, sqe64 e 4, n, sqe64 e 6, sqeF e 2 8 8, sqeF e 2 16 16, sqeF e 3 0 11, sqeF e 3 31 1 == 1, 0, 2 ^ n, [], [],
      false, 0, none, false, false, false⟩
    s.complete r e St.ok 0 (BitVec.ofNat 32 (((s.cq f i).map (·.glob)).getD 0))

/-- An event register names the CQ and is enabled. -/
def State.eventNames (s : State) (g : Nat) : Bool :=
  (s.flag Reg.TM_EVENT_CTRL_EN && s.f Reg.TM_EVENT_CTRL_CQ == g) || (s.flag Reg.SV_EVENT_CTRL_EN && s.f Reg.SV_EVENT_CTRL_CQ == g) ||
    (s.flag Reg.PU_EVENT_CTRL_EN && s.f Reg.PU_EVENT_CTRL_CQ == g)

/-- DELETE_CQ (R362, R363). -/
def State.deleteCq (s : State) (r : EntryRef) (e : Sqe) : State :=
  let f := r.fn.val
  let i := sqeF e 1 0 11
  match s.cq f i with
  | none => s.complete r e St.malformed
  | some c =>
    if !(s.boundSqs f i).isEmpty || s.eventNames c.glob || (!c.hold.isEmpty && !c.faulted) then s.complete r e St.aborted
    else (s.dropCq f i).complete r e St.ok

/-- DMA_WINDOW_SET (R379). -/
def State.setWindow (s : State) (r : EntryRef) (e : Sqe) : State :=
  let w : Option DmaWin := if sqe64 e 4 = 0 then none else some ⟨sqe64 e 2, sqe64 e 4, sqeF e 6 0 1 == 1, sqeF e 6 1 1 == 1⟩
  State.complete { s with bm := { s.bm with windows := Tbl.set (fun _ => none) s.bm.windows (r.fn.val * 64 + sqeF e 1 0 6) w } } r e St.ok

/-! ## PAIR_ROLE (R303, R311, R313) -/

/-- Rank of the frame master: the lowest rank that this device knows to be there, its own when it free-runs (R283). -/
def State.masterRank (s : State) : Nat := if s.f Reg.PU_STATUS_TIME_SRC = 0 then s.f Reg.PU_CFG_RANK else s.f Reg.PU_CASCADE_STATUS_MASTER_RANK

/-- QUERY. -/
def State.pairQuery (s : State) (r : EntryRef) (e : Sqe) : State :=
  s.complete r e St.ok 0 s.puStatus (s.reg Reg.PU_TERM) (BitVec.ofNat 32 s.masterRank) (BitVec.ofNat 32 (s.f Reg.PU_CFG_RANK))

end Sys2Proof.Machine
end

