-- ==== Sys2Proof/Machine/Join.lean ====
section
/-! DEFINITION. Joining a running pair (R304 to R306): what the HOLDER copies and sends, and what the joiner installs. -/

namespace Sys2Proof.Machine

/-! ## Paths seen from the other device (R272, R291) -/

def swapPath (p : TreePath) : TreePath := { p with root := peerRoot p.root }

/-- A device record as the peer sees it: its paths enter through the other root ports. -/
def swapDev (d : DevRec) : DevRec := { d with path0 := swapPath d.path0, path1 := d.path1.map swapPath }

/-- A reference to an entry of the peer: local index 1 is a CQ, so no entry of this device has it. -/
def peerRef (r : EntryRef) : EntryRef := { r with sq := 1 }

/-! ## What is copied (R291, R304) -/

/-- 64-byte parts of the EBM that hold anything. -/
def State.ebmParts (s : State) : List CopyFrame :=
  ((s.ebm.mem.map (fun x => x.1 / 64)).eraseDups).map (fun g => .ebm (g * 64) (s.ebmRead (g * 64) 64))

/-- The PARTNER's ports in group `g`: those of the bindings in force, or of the staged ones. -/
def State.peerMembers (s : State) (g : Nat) (staged : Bool) : BitVec 192 :=
  let l := if staged then s.members g
    else s.listeners g
  BitVec.ofNat 192 (bitmapOf ((((l.flatMap devRoots).filter (fun p => decide (192 ≤ p))).map (· - 192)).eraseDups))

/-- The slot of a committed endpoint or group (R164). -/
def State.heldSlot (s : State) (key : Nat) : Nat × Nat := (s.oldSlot key).getD (s.slotNow key)

/-- Everything of the COPY phase, region by region. -/
def State.copies (s : State) : List CopyFrame :=
  let w (a : Nat) : Half := BitVec.ofNat 16 a
  s.ebmParts ++
  s.tree.devs.filterMap (fun x => x.2.map (fun d => .device (w x.1) d)) ++
  s.tree.hubPorts.filterMap (fun x => x.2.map (fun r => .hubPort (w (x.1 / 128)) (BitVec.ofNat 8 (x.1 % 128)) r)) ++
  s.tree.routes.map (fun x => .routes (w x.1) x.2) ++
  s.tree.hubGroups.map (fun x => .group (some (w (x.1 / 2 / 16384))) (BitVec.ofNat 14 (x.1 / 2)) (x.1 % 2 == 1) (BitVec.ofNat 192 x.2)) ++
  ((s.tree.rootGroups.map (fun (x : Nat × Nat) => x.1 / 2)).eraseDups).flatMap (fun (g : Nat) =>
    let one := s.tree.groupBank == 1
    [.group none (BitVec.ofNat 14 g) one (s.peerMembers g false), .group none (BitVec.ofNat 14 g) (!one) (s.peerMembers g true)]) ++
  [.bank none (s.tree.groupBank == 1)] ++
  s.tree.hubBank.map (fun x => .bank (some (w x.1)) (x.2 == 1)) ++
  (((s.fn.grants.map (fun (x : Nat × Grant) => x.1 + 1)) ++ (s.ts.shares.map (fun (x : Nat × Share) => x.1))).eraseDups).map (fun (f : Nat) => .grant (Fin.ofNat 1025 f) (s.grant f) (s.share f)) ++
  s.ts.active.filterMap (fun x => x.2.map (fun r => .sched x.1 r (s.heldSlot x.1).1 (s.heldSlot x.1).2)) ++
  (s.ts.sealed_.map (fun r => .log r.ref.fn r.cmd)) ++
  (match s.ts.commit with | some c => if c.switched then [] else [.commit c.m] | none => []) ++
  (s.ts.log.map (fun r => .log r.ref.fn r.cmd)) ++
  s.gd.timers.map (fun t => .timer { t with ref := t.ref.map peerRef }) ++
  (match s.sv.audit with | some a => [.audit { a with ref := none }] | none => []) ++
  (match s.mre.image with | some i => [.image i] | none => []) ++
  [.patches s.mre.staged s.mre.patches] ++
  (match s.mre.swap with | some w => [.swap { w with refs := [] }] | none => []) ++
  s.mre.gens.map (fun x => .gen (Fin.ofNat 256 x.1) { x.2 with
    clips := x.2.clips.map (fun c => { c with ref := peerRef c.ref })
    stops := [], slot := none }) ++
  [.regionDone]

/-- The state of every node as at the end of its last pass, and the line records (R304). -/
def State.copyState (s : State) : List CopyFrame :=
  s.nodes.map (fun x => .node (s.next x.1 - 1) x.1 (s.nodeSt x.1)) ++
  s.sv.lines.map (fun x => .line (BitVec.ofNat 16 x.1) x.2) ++ [.stateDone]

def State.sendCopies (s : State) (l : List CopyFrame) : State := l.foldl (fun s c => s.sendOrdered (fun n => .copy n c)) s

/-- PHASE of the join, and its progress. -/
def State.joinPhase (s : State) (p : Nat) : State := (s.setF Reg.PU_JOIN_STATUS_PHASE p).setF Reg.PU_JOIN_STATUS_PROGRESS 0

/-- A HOLDER begins the COPY phase of a device that joins it: the states of its root ports and the sides of its trunks (R273), then the
regions. -/
def State.startCopy (s : State) : State :=
  let s := (List.range 192).foldl (fun s p => if s.portState p = 0 then s
    else s.sendOrdered (fun n => .mirror n (.portEvent (Fin.ofNat 192 p) ⟨0, s.mfN, 0, p, true, s.portState p, false, 0, 0, 0⟩))) s
  let s := s.pu.sides.foldl (fun s t =>
    s.sendOrdered (fun n => .mirror n (.path (Fin.ofNat 192 t) (!s.flag (Reg.TS_TRUNK_CFG_PATH t))))) s
  ((s.joinPhase 2).updPu (fun u => { u with matched := 0, joinPasses := 0 })).sendCopies s.copies

/-! ## What the joiner installs -/

/-- Put a committed endpoint or group into both banks, with its slot; the registers of the pool and the loads follow (R157). -/
def State.installSched (s : State) (key : Nat) (r : SchedRec) (slot granules : Nat) : State :=
  let s := { s with ts := { s.ts with
    active := Tbl.set (fun _ => none) s.ts.active key (some r), staged := Tbl.set (fun _ => none) s.ts.staged key (some r) } }
  let s := if granules = 0 ∨ s.ebm.runs.any (fun x => x.1 == slot) then s
    else s.setRuns (insertBy (fun a b => decide (a.1 < b.1)) (slot, granules) s.ebm.runs)
  let s := if key < 0x100000 then (s.setCf key Cx.slot slot).setCf key Cx.granules granules
    else s.setGroupSlot (key - 0x100000) { GroupSlot.empty with slot := slot, granules := granules, length := r.length }
  let w := s.wanted key r
  let s := w.foldl (fun s x => [0, 1].foldl (fun s b =>
    if (s.entries x.1 b).contains x.2 then s else s.setEntries x.1 b (insertBy entBefore x.2 (s.entries x.1 b))) s) s
  (s.showLoads (w.map (·.1))).showPool

/-- Node states whose pass the joiner has run are installed (R304). -/
def State.installDue (s : State) : State :=
  let due (c : CopyFrame) : Bool := match c with | .node p n _ => decide (p + 1 ≤ s.next n) | _ => true
  let l := s.pu.install.filter due
  let s := s.updPu (fun u => { u with install := u.install.filter (fun c => !due c) })
  l.foldl (fun s c => match c with
    | .node p n r => if s.next n = p + 1 then s.setNodeSt n r else s
    | _ => s) s

/-- A staged endpoint that is not in the committed schedule gets its slot anew: the copied context names the HOLDER's (R163, R291). -/
def State.forgetSlot (s : State) (c : StageCmd) : State :=
  match c with
  | .add key .. => if (Tbl.get (fun _ => none) s.ts.active key).isSome || (s.stagedRec key).isSome then s else s.setSlotNow key 0 0
  | _ => s

/-- A COPY frame of a join is installed. -/
def State.install (s : State) (c : CopyFrame) : State :=
  match c with
  | .ebm a b => s.ebmWrite a b
  | .sched k r slot n => s.installSched k r slot n
  | .log f x =>
    match (s.forgetSlot x).applyStage ⟨f, 1, 0⟩ x with
    | .ok s => s.showPool
    | _ => s
  | .commit m => s.beginCommit m []
  | .device a d => s.setDev a.toNat (some (swapDev d))
  | .hubPort h p r => s.setHubPort h.toNat p.toNat (some r)
  | .routes h l => s.setRoutes h.toNat l
  | .group none g b v => s.setRootGroup g.toNat (b2n b) v.toNat
  | .group (some h) g b v => s.setHubGroup h.toNat g.toNat (b2n b) v.toNat
  | .bank none b => { s with tree := { s.tree with groupBank := b2n b } }
  | .bank (some h) b => { s with tree := { s.tree with hubBank := Tbl.set (fun _ => 0) s.tree.hubBank h.toNat (b2n b) } }
  | .grant f g x =>
    let s : State := { s with ts := { s.ts with shares := Tbl.set Share.reset s.ts.shares f.val x } }
    if f.val = 0 then s
    else
      -- rings, vectors, windows and late faults stay those of this device (R291)
      let o := s.grant f.val
      let g := { o with graph := g.graph, handles := g.handles, groups := g.groups }
      { s with fn := { s.fn with grants := Tbl.set (fun _ => Grant.empty) s.fn.grants (f.val - 1) g } }
  | .timer t => State.showTimers { s with gd := { s.gd with timers := s.gd.timers ++ [t], timerSeq := max s.gd.timerSeq (t.seq + 1) } }
  | .audit a => s.setAudit (some a)
  | .image i =>
    let s : State := { s with mre := { s.mre with image := some i } }
    let s := (s.setB Reg.MRE_STATUS_GRAPH_VALID true).setReg Reg.MRE_GRAPH_ID i.header.graphId
    (s.setF Reg.MRE_CYC_P0_CYC i.header.cycP0).setF Reg.MRE_CYC_GENERAL_CYC i.header.cycGeneral
  | .patches st l =>
    State.setReg { s with mre := { s.mre with staged := st, patches := l } } Reg.MRE_STAGED_ID ((st.map (·.header.graphId)).getD 0)
  | .swap w =>
    let s := match w.full with
      | some i => if w.taken then s else s.setReg Reg.MRE_STAGED_ID i.header.graphId
      | none => s
    State.showSwap { s with mre := { s.mre with swap := some w } }
  | .gen g r => s.setGen g.val r
  | .node .. => (s.updPu (fun u => { u with install := u.install ++ [c] })).installDue
  | .line l r => (s.setLine l.toNat r).showLines
  | .regionDone => s.setF Reg.PU_JOIN_STATUS_PROGRESS 100
  | .stateDone => s.setF Reg.PU_JOIN_STATUS_PROGRESS 100
  | .list t k p =>
    -- the damaged list is repaired from the peer's copy (R435)
    { s with ts := { s.ts with damaged := s.ts.damaged.filter (fun x => !(x.1 == t.val && x.2.1 == k && x.2.2.1 == p)) } }

end Sys2Proof.Machine
end

