-- ==== Sys2Proof/Machine/Pair.lean ====
section
/-! DEFINITION. The commands of the pair (R272 to R306, R311 to R315): time, roles, the Miodel link's frames, loss and takeover, handover,
joining, barriers. -/

namespace Sys2Proof.Machine

/-! ## Time sources (R283 to R286, R309) -/

/-- 1 µs in units of 80 ps, and the largest age of a time source in ticks: 8 frame periods (R284, R286). -/
def offsetLimit : Nat := 12500
def sourceAge : Nat := 200000

/-- The device free-runs and is frame master (R283, R285). -/
def State.freeRun (s : State) : State :=
  ((s.setF Reg.PU_STATUS_TIME_SRC 0).setB Reg.PU_STATUS_MASTER true).setF Reg.PU_CASCADE_STATUS_MASTER_RANK (s.f Reg.PU_CFG_RANK)
    |>.setB Reg.PU_CASCADE_STATUS_CASCADE_TIME false

/-- The device follows a source, of which the frame master has rank `r`. -/
def State.follow (s : State) (src r : Nat) : State :=
  let s := (s.setF Reg.PU_STATUS_TIME_SRC src).setB Reg.PU_STATUS_MASTER false
  ((s.setF Reg.PU_CASCADE_STATUS_MASTER_RANK r).setB Reg.PU_CASCADE_STATUS_CASCADE_TIME (src == 2)).updPu (fun u => { u with conflict := false })

/-- The device may follow its partner (R284): the lower rank of the master pair never does, nor does a device whose partner follows it, but
for the higher rank of two that already follow each other. -/
def State.mayFollow (s : State) : Bool :=
  match s.pu.peerTime with
  | none => false
  | some f =>
    let own := s.f Reg.PU_CFG_RANK
    if f.timeSrc = 1 then s.f Reg.PU_STATUS_TIME_SRC == 1 && decide (f.rank.toNat < own)
    else decide (2 ≤ own) || decide (f.rank.toNat < own)

/-- A frame mark of the source followed: the offset is recorded, with its magnitude and the frames for which it stays at 1 µs or more
(R286). -/
def State.measure (s : State) (o : Int) (frame : Bool) : State :=
  let s := s.setF Reg.PU_PEER_OFFSET_OFFSET ((o % 65536).toNat)
  let s := s.high Reg.PU_PEER_OFFSET_MAX o.natAbs
  s.updPu (fun u => { u with
    offset := o
    srcTick := if frame then some s.now else u.srcTick
    offFrames := if !frame then u.offFrames else if offsetLimit ≤ o.natAbs then u.offFrames + 1 else 0 })

/-- A source carries another microframe number (R285): one TIME_CONFLICT event until it agrees again. -/
def State.timeConflict (s : State) : State :=
  if s.pu.conflict then s else (s.updPu (fun u => { u with conflict := true })).puEvent Pe.timeConflict

/-- The number and phase of a source are taken (R26, R286). -/
def State.takeTime (s : State) (mf phase : Nat) : State :=
  { s with time := { s.time with mf := BitVec.ofNat 48 mf, phase := phase, cutOff := false } }

/-- Number of the own mark that is nearest. -/
def State.nearMark (s : State) : Nat := if s.time.phase < 1563 then s.mfN else s.mfN + 1

/-- A mark of a source arrives, with its number, the phase that the own clock has at an aligned mark, and the offset measured. -/
def State.sourceMark (s : State) (src rank mf phase : Nat) (o : Int) (fresh : Bool) : State :=
  let same := s.nearMark = mf
  if same ∧ o.natAbs < offsetLimit then (s.follow src rank).measure o (mf % 8 == 0)
  else if fresh then ((s.takeTime mf phase).follow src rank).measure 0 (mf % 8 == 0)
  else if !same then s.timeConflict
  else if s.f Reg.PU_STATUS_TIME_SRC = src then s.measure o (mf % 8 == 0)
  else s

/-- FRAME_SYNC_PULSE (R277, R284 to R286): the peer's mark. A device that has sent no mark yet takes number and phase from it.
The pulse of a mark comes before the TIME frame of that mark, so its number is the last frame's plus 1 (DESIGN CHOICE, log entry 49). -/
def State.framePulse (s : State) (o : Int) : State :=
  if !s.flag Reg.PU_CTRL_EN then s
  else
    let s := s.updPu (fun u => { u with lastPulse := some s.now })
    match s.pu.peerTime with
    | none => s
    | some f =>
      if s.mayFollow && s.f Reg.PU_STATUS_TIME_SRC != 2 then s.sourceMark 1 f.rank.toNat (f.mf.toNat + 1) 0 o (!s.time.marked) else s
def execFrameSyncPulse (_ns : Nat) (offset : BitVec 16) (s : State) : Out := .next (s.framePulse offset.toInt)

/-- A mark at a port in device role (R43, R66, R67, R103, R127): the hub port above it is ENABLED, and what a BCAST has put down for this
mark takes effect. What SNAPSHOT latches stands for free values. The error counter that CLEAR_COUNTERS clears is the node's count of late
broadcasts (DESIGN CHOICE, log entry 58). -/
def State.upstreamMark (s : State) (p : Nat) (m : CascMark) : State :=
  let s := if s.portState p = 4 then s else s.toState p Ps.enabled
  let n := m.mfn.toNat
  let d := (s.port p).dev
  let snap : Bool := d.snapAt.contains n
  let s := s.updPort p (fun r => { r with dev := { r.dev with
    lastMark := some s.now, low := m.lowPower, mfn := n
    snapshot := if snap then s.free else d.snapshot
    snapAt := d.snapAt.filter (· != n)
    late := if d.clearAt.contains n then 0 else d.late
    clearAt := d.clearAt.filter (· != n) } })
  if snap then { s with free := s.free + 4097 } else s

/-- CASCADE_MARK_RECEIVED (R309): the own mark lies one link delay before the arrival. The full number comes from the cascade status bytes
(R308); the rank of the master is not carried, and is a free value. -/
def State.cascadeMark (s : State) (p : Nat) (m : CascMark) (o : Int) : State :=
  if !s.connected p ∨ s.portState p = 0 then s
  else
    let s := s.upstreamMark p m
    let mfn := m.mfn.toNat
    let blk (i : Nat) : Option (Nat × List Byte) := Tbl.get (fun _ => none) s.mre.casc (cascKey p 0 1 i)
    let age (x : Nat × List Byte) : Nat := (mfn + 65536 - x.1 % 65536) % 65536
    let b := match blk 0, blk 1 with
      | some x, some y => some (if age x ≤ age y then x.2 else y.2)
      | some x, none => some x.2
      | none, y => y.map (·.2)
    let mf := match b with
      | some l => let n := field l 180 6; n + (mfn + 65536 - n % 65536) % 65536
      | none => s.nearMark - s.nearMark % 65536 + mfn
    let delay := match b with | some l => field l 186 2 | none => 0
    let rank := if s.f Reg.PU_STATUS_TIME_SRC = 2 then s.f Reg.PU_CASCADE_STATUS_MASTER_RANK else s.choose (List.range 8) 0
    s.fresh.sourceMark 2 rank mf delay o (!s.time.marked && b.isSome)
def execCascadeMarkReceived (p : Trunk) (m : CascMark) (offset : BitVec 16) (s : State) : Out :=
  .next (s.cascadeMark p.val m offset.toInt)

/-- TIME_SOURCE_LOST (R284, R285): no frame mark for 8 frame periods. -/
def State.sourceLost (s : State) : State :=
  let src := s.f Reg.PU_STATUS_TIME_SRC
  let old := match s.pu.srcTick with | some t => decide (t + sourceAge ≤ s.now) | none => true
  if src = 0 ∨ !old then s
  else
    let pulses : Bool := match s.pu.lastPulse with | some t => decide (s.now < t + sourceAge) | none => false
    match s.pu.peerTime with
    | some f => if src = 2 ∧ pulses ∧ s.mayFollow then
        (s.follow 1 f.rank.toNat).updPu (fun u => { u with srcTick := u.lastPulse })
      else s.freeRun.puEvent Pe.master (s.f Reg.PU_CFG_RANK)
    | none => s.freeRun.puEvent Pe.master (s.f Reg.PU_CFG_RANK)
def execTimeSourceLost (s : State) : Out := .next s.sourceLost

/-! ## Holder work (R293, R301, R303) -/

/-- Every tap buffer ends. -/
def State.endTaps (s : State) (status : Nat) : State :=
  s.mre.taps.foldl (fun (s : State) (x : Nat × TapSt) =>
    x.2.bufs.foldl (fun (s : State) (b : TapBuf) => s.endTapBuf x.1 b status true) (s.setTap x.1 { s.tap x.1 with bufs := [] })) s

/-- Every generator in CLIP mode stops (R301). -/
def State.stopClips (s : State) (status : Nat) : State :=
  s.mre.gens.foldl (fun (s : State) (x : Nat × GenSt) => if x.2.clips.isEmpty && x.2.stops.isEmpty then s else s.stopGen x.1 status) s

/-- The holder work in flight completes with TAKEN_OVER, and the TM's work ends (R302, R303, R399). -/
def State.holderEnds (s : State) : State :=
  let s := s.viewsTaken
  let s := s.bus.xfers.foldl (fun (s : State) (e : Nat × Option Xfer) => match e.2 with
    | some r => (match r.owner with
      | .tm _ => s.dropXfer e.1
      | _ => s.endXfer e.1 St.takenOver true)
    | none => s) s
  let s := (s.endTaps St.takenOver).stopClips St.takenOver
  let s := s.updPu (fun u => { u with auditEnd := true })
  State.showEnum { s with tree := { s.tree with enums := [], todo := [], waiting := [] } }

/-- The TM begins on a device that becomes HOLDER (R301): devices attached that it does not know wait for enumeration. -/
def State.tmBegins (s : State) : State :=
  let one (s : State) (p : Nat) : State :=
    let st := s.portState p
    if (s.devAt p 0 0).isSome ∨ st < 2 then s
    else if st = 4 then s.await ⟨p, 0, 0, true, false, (s.port p).attachMf⟩
    else if st = 2 ∧ s.flag Reg.TM_CTRL_AUTO_ENUM ∧ (192 ≤ p ∨ s.f (Reg.TM_PORT_STATUS_REASON p) = 0) then s.await ⟨p, 0, 0, false, false, (s.port p).attachMf⟩
    else s
  if s.tmOn then (List.range 384).foldl one s else s

/-- Bulk and tunnel endpoints need CLEAR_STALL before their first transfer (R301). -/
def State.resyncAll (s : State) : State :=
  let hs := (s.devices.flatMap devHandles).filter (fun h => s.cf h Cx.valid == 1 && (s.cf h Cx.kind == 1 || s.cf h Cx.kind == 3))
  { s with bus := { s.bus with resync := (hs ++ s.bus.resync).eraseDups } }

/-- The peer is gone: its ports lead nowhere. -/
def State.peerGone (s : State) : State := (s.updPu (fun u => { u with peerPorts := [] })).detachLost St.deviceGone

/-! ## Forming a pair (R287, R289, R290) -/

/-- The device becomes HOLDER alone (R287, R290): TERM is 1. -/
def State.holderAlone (s : State) : State :=
  let s := (s.setRole 1).setPstate 4
  let s := ((s.setF Reg.PU_TERM_TERM 1).joinPhase 0).updPu (fun u => { u with enAt := none })
  (s.puEvent Pe.role).tmBegins

/-- The joiner's join fails (R287, R305): it stays UNPAIRED, and sends nothing. -/
def State.joinFailed (s : State) (cause : Nat) : State :=
  let s := ((s.joinPhase 6).setF Reg.PU_JOIN_STATUS_FAIL cause)
  let s := (s.setRole 0).setPstate 0
  let s := s.updPu (fun u => { u with enAt := none, silent := true })
  (if s.orderedUp then s.orderedDown else s).puEvent Pe.joinFailed cause

/-- The ordered channel comes up (R280). -/
def State.orderedComes (s : State) : State :=
  let s := s.setB Reg.PU_STATUS_ORDERED_UP true
  (s.updPu (fun u => { u with seq := 0, recvSeq := 0, unacked := [], unsent := [], owed := false, progress := s.now })).puEvent Pe.up

/-- FRAME_SYNC pulses of the peer are due: its pair state is LOCKSTEP or PEER_LOST, and it does not abdicate (R277). -/
def State.pulsesDue (s : State) : Bool :=
  match s.pu.peerTime with | some f => (f.pstate == 3 || f.pstate == 4) && !f.abdicate | none => false

/-- The last pulse of the peer fell on an own mark to within 1 µs. -/
def State.pulseSeen (s : State) : Bool :=
  match s.pu.lastPulse with
  | some t =>
    let d := s.now - t
    let at_ := (s.time.phase + 3125 - d % 3125) % 3125
    decide (d ≤ 3175) && (decide (at_ < 25) || decide (3100 ≤ at_))
  | none => false

/-- Alignment as this device sees it (R287): a device that must not pulse yet is not looked for. -/
def State.alignedHere (s : State) : Bool := !s.pulsesDue || s.pulseSeen

/-- Send HELLO. -/
def State.sendHello (s : State) : State := s.sendTimed (.hello (s.helloFrame s.alignedHere))

/-- The first check of R287 that fails, as the CAUSE of JOIN_FAILED. -/
def State.helloCheck (s : State) (h : HelloFrame) : Option Nat :=
  let own := s.helloFrame true
  if own.serial = h.serial ∨ own.side = h.side then some 1
  else if own.ucode ≠ h.ucode then some 2
  else if own.regs ≠ h.regs then some 3
  else if !s.alignedHere || !h.aligned then some 4
  else none

/-- Of two HOLDERs this one keeps the role (R302): the lower TERM, or side A. -/
def State.keepsRole (s : State) (h : HelloFrame) : Bool :=
  let t := s.f Reg.PU_TERM_TERM
  decide (t < h.term.toNat) || (t == h.term.toNat && !s.flag Reg.PU_CFG_SIDE)

/-- A PARTNER begins to join (R304). -/
def State.beginJoin (s : State) (term : Nat) : State :=
  let was := s.role
  let s := ((s.setRole 2).setPstate 2).setF Reg.PU_TERM_TERM term
  let s := ((s.joinPhase 2).setF Reg.PU_JOIN_STATUS_FAIL 0).updPu (fun u => { u with
    enAt := none, matched := 0, joinPasses := 0, retried := false, joinAt := none, install := [] })
  if was = 2 then s else s.puEvent Pe.role

/-- The checks have passed (R287, R302): the roles are settled, and a join begins. -/
def State.formPair (s : State) (h : HelloFrame) : State :=
  let theirs := h.role.toNat
  if s.isHolder then
    if theirs = 1 then
      let s := (s.setB Reg.PU_STATUS_SPLIT true).puEvent Pe.split
      if s.keepsRole h then s.startCopy
      else
        let s := (s.holderEnds.setRole 2).puEvent Pe.role
        (s.enterResync 3).beginJoin h.term.toNat
    else if s.lockstep then s
    else s.startCopy
  else if s.isPartner && s.lockstep then s
  else if theirs = 1 then s.beginJoin h.term.toNat
  else if s.flag Reg.PU_CFG_SIDE then s.beginJoin 1
  else s.holderAlone.startCopy

/-- MIODEL_HELLO_FRAME (R280, R287, R302): the checks, and the ordered channel comes up. Until alignment has had 8 frame periods, a
device waits for it. -/
def State.gotHello (s : State) (h : HelloFrame) : State :=
  if !s.flag Reg.PU_CTRL_EN ∨ s.pu.silent then s
  else
    let s := s.updPu (fun u => { u with hello := some h, peerWidths := h.widths, lastFrame := some s.now })
    if s.orderedUp && decide (s.now < s.pu.progress + 25000) then s
    else
      let s := if s.orderedUp then s.orderedDown else s
      match s.helloCheck h with
      | none => ((s.sendHello).orderedComes).formPair h
      | some c =>
        let early : Bool := match s.pu.enAt with | some t => decide (s.now < t + sourceAge) | none => s.isHolder
        if c = 4 ∧ early then s
        else if s.isHolder then s.puEvent Pe.joinFailed c
        else if s.pstate = 0 then s
        else s.joinFailed c
def execMiodelHelloFrame (h : HelloFrame) (s : State) : Out := .next (s.gotHello h)

/-- The pair unit starts (R287): HELLO begins. Miodel lanes out of service train. -/
def State.pairStart (s : State) : State :=
  let s := (s.setPstate 1).joinPhase 1
  let s := s.updPu (fun u => { u with enAt := some s.now, silent := false, abdicate := false, hello := none, leave := none })
  let s := s.miodelLanes.foldl (fun s n => s.trainStart n) s
  s.sendHello

/-- The pair unit stops: the device is SOLO and UNPAIRED (R289). -/
def State.pairStop (s : State) : State :=
  let was := s.role
  let s := s.orderedDown
  let s := ((s.setRole 0).setPstate 0).joinPhase 0
  let s := s.updPu (fun u => { PairSt.zero with
    seq := u.seq, held := u.held, latest := u.latest, sides := u.sides, barriers := u.barriers, barrierLast := u.barrierLast
    barrierFree := u.barrierFree, srcTick := u.srcTick, peerPorts := u.peerPorts })
  let s := if s.f Reg.PU_STATUS_TIME_SRC = 1 then s.freeRun else s
  let s := s.peerGone
  if was = 0 then s else (s.puEvent Pe.role).when (was == 2) (fun s => s.tmBegins)

/-- Root ports on the lanes that PU_CTRL = `v` takes for the Miodel link are OFF (R276). -/
def State.miodelTakes (s : State) (v : Word) : State :=
  let after := s.writeReg Reg.PU_CTRL v
  (s.trunks.filter (fun p => !after.portExists p)).foldl (fun s p => s.portOff p) s

/-- PAIR_ENABLE_WRITE (R276, R287): PU_CTRL is written; EN starts or stops the pair. -/
def State.pairEnable (s : State) (v : Word) : State :=
  let was := s.flag Reg.PU_CTRL_EN
  let on := nbit v.toNat 0
  if was && !on then (s.pairStop).writeReg Reg.PU_CTRL v
  else
    let s := (s.miodelTakes v).writeReg Reg.PU_CTRL v
    if !was && on then s.pairStart else s
def execPairEnableWrite (v : Word) (s : State) : Out := .next (s.pfWrite Reg.PU_CTRL (fun s => s.pairEnable v))

/-- HELLO_TIMEOUT (R287): no HELLO completed 2 s after EN was set. -/
def State.helloLate (s : State) : State :=
  match s.pu.enAt with
  | some t => if s.pstate = 1 ∧ t + 50000000 ≤ s.now then s.holderAlone else s
  | none => s
def execHelloTimeout (s : State) : Out := .next s.helloLate

/-- ALIGN_LOST (R286, R289): the offset has stayed at 1 µs or more for 8 frames. In a pair the device leaves lockstep: a PARTNER for RESYNC, a
HOLDER for PEER_LOST (DESIGN CHOICE, log entry 69). -/
def State.alignLost (s : State) : State :=
  if s.pu.offFrames < 8 ∨ s.f Reg.PU_STATUS_TIME_SRC = 0 then s
  else
    let s := ((s.setB Reg.PU_STATUS_ALIGN_LOST true).updPu (fun u => { u with offFrames := 0 })).puEvent Pe.align
    if s.isPartner && s.lockstep then s.orderedDown.enterResync 2
    else if s.isHolder && s.lockstep then (s.setPstate 4).orderedDown
    else s
def execAlignLost (s : State) : Out := .next s.alignLost

/-! ## Loss and takeover (R299 to R301) -/

/-- Miodel frames have stopped for 625 ticks. -/
def State.framesGone (s : State) : Bool := match s.pu.lastFrame with | some t => decide (t + 625 ≤ s.now) | none => true

/-- The peer's pulse is absent around the last own mark whose window has closed. -/
def State.pulseGone (s : State) : Bool :=
  let mark := if 25 ≤ s.time.phase then s.now - s.time.phase else s.now - s.time.phase - 3125
  match s.pu.lastPulse with | some t => decide (t + 25 < mark) | none => true

/-- The cause holds (table Peer loss). -/
def State.lossSeen (s : State) (c : LossCause) : Bool :=
  match c with
  | .silent => s.framesGone && s.pulseGone
  | .abdicate => (match s.pu.peerTime with | some f => f.abdicate | none => false) || (!s.framesGone && s.pulseGone)
  | .rsqFailed => s.isPartner && (match s.pu.peerTime with | some f => f.rsqFailed && f.role == 1 | none => false)

/-- CAUSE of PEER_LOST (R314). -/
def lossCode : LossCause → Nat
  | .silent => 1
  | .abdicate => 2
  | .rsqFailed => 3

/-- PEER_LOSS_DETECT (R299): a HOLDER goes on alone; a PARTNER in lockstep takes over at the second mark; one that is not in lockstep has
no pair any more. -/
def State.peerLost (s : State) (c : LossCause) : State :=
  if !s.lossSeen c then s
  else if s.isHolder && s.lockstep then
    let s := (s.setPstate 4).orderedDown
    s.peerGone.puEvent Pe.lost (lossCode c)
  else if s.isPartner && s.lockstep then
    if s.pu.takeoverAt.isSome then s else s.updPu (fun u => { u with loss := some c, takeoverAt := some (s.mfN + 2) })
  else if s.isPartner then
    let s := (s.orderedDown.setRole 0).setPstate 1
    (s.joinPhase 1).updPu (fun u => { u with enAt := some s.now })
  else s
def execPeerLossDetect (c : LossCause) (s : State) : Out := .next (s.peerLost c)

/-- TAKEOVER (R301). -/
def State.takeover (s : State) : State :=
  match s.pu.takeoverAt, s.pu.loss with
  | some m, some c =>
    if s.mfN < m then s
    else
      let s := s.orderedDown
      let s := s.updPu (fun u => { u with takeoverAt := none, loss := none, handover := none, relay := [], auditEnd := true })
      let s := (s.becomeHolder.setPstate 4).bump Reg.PU_TAKEOVERS_TAKEOVERS
      let s := (s.puEvent Pe.lost (lossCode c)).peerGone
      ((s.stopClips St.aborted).resyncAll).tmBegins
  | _, _ => s
def execTakeover (s : State) : Out := .next s.takeover

/-! ## Handover (R303, R335) -/

/-- A handover is placed in the order: the roles swap at the first frame mark at least 8 microframes later. -/
def State.placeHandover (s : State) (r : Option EntryRef) : State :=
  let h := frameFrom (s.markAfter 8)
  (s.sendOrdered (fun n => .mirror n (.handover (BitVec.ofNat 48 h)))).updPu (fun u => { u with handover := some (h, r) })

/-- PAIR_ROLE HANDOVER: for a HOLDER with its PARTNER in lockstep and the ordered channel up. -/
def State.pairHandover (s : State) (r : EntryRef) (e : Sqe) : State :=
  if s.isHolder && s.lockstep && s.orderedUp && s.pu.handover.isNone then s.placeHandover (some r) else s.complete r e St.aborted

/-- HOST_LOSS_HANDOVER_TIMER (R335): the link of a HOLDER has been down for 10 ms, and its PARTNER has not lost its host. -/
def State.hostLossHandover (s : State) : State :=
  match s.fn.lostAt with
  | some t =>
    if t + 250000 ≤ s.now ∧ s.flag Reg.HIF_CTRL_HOST_LOSS_HANDOVER ∧ s.isHolder ∧ s.lockstep ∧ s.orderedUp ∧
        s.pu.handover.isNone ∧ s.pu.peerTime.all (fun f => !f.hostLost) then
      s.placeHandover none
    else s
  | none => s
def execHostLossHandoverTimer (s : State) : Out := .next s.hostLossHandover

/-- HANDOVER_SWITCH (R303): at frame mark H. -/
def State.handoverSwitch (s : State) : State :=
  match s.pu.handover with
  | none => s
  | some (h, r) =>
    if s.mfN < h then s
    else
      let s := s.updPu (fun u => { u with handover := none })
      if s.isHolder then
        let s := s.holderEnds.setRole 2
        let s := ((s.setF Reg.PU_TERM_TERM (s.f Reg.PU_TERM_TERM + 1)).bump Reg.PU_TAKEOVERS_HANDOVERS).puEvent Pe.role
        match r with
        | some r => s.completeRef r St.ok
        | none => s
      else if s.isPartner then
        let s := (s.becomeHolder.bump Reg.PU_TAKEOVERS_HANDOVERS).updPu (fun u => { u with auditEnd := true, relay := [] })
        (s.stopClips St.aborted).tmBegins
      else s
def execHandoverSwitch (s : State) : Out := .next s.handoverSwitch

/-! ## LEAVE, JOIN, SET_RANK, BARRIER (R311, R313) -/

/-- PAIR_ROLE LEAVE: the device abdicates at the next mark. -/
def State.pairLeave (s : State) (r : EntryRef) (e : Sqe) : State :=
  if s.pstate = 0 ∨ s.pu.leave.isSome then s.complete r e St.aborted
  else s.updPu (fun u => { u with abdicate := true, leave := some r })

/-- The mark of the LEAVE has passed: the device is UNPAIRED and silent. -/
def State.leaves (s : State) (r : EntryRef) : State :=
  let s := if s.isHolder then s.holderEnds else s
  let s := s.pairStop
  (s.updPu (fun u => { u with silent := true })).completeRef r St.ok

/-- PAIR_ROLE JOIN: as setting PU_CTRL.EN from 0 to 1. -/
def State.pairJoin (s : State) (r : EntryRef) (e : Sqe) : State :=
  let s := if s.pstate = 0 then ((s.miodelTakes (s.reg Reg.PU_CTRL ||| 1)).setB Reg.PU_CTRL_EN true).pairStart else s
  s.complete r e St.ok

/-- Ranks of the other devices of the cascade, as far as they are told: the peer's, and those in the status bytes of cascade links
(R308). -/
def State.otherRanks (s : State) : List Nat :=
  (match s.pu.peerTime with | some f => [f.rank.toNat] | none => []) ++
  (s.devices.filter (fun d => d.cls == 3 && d.detachedAt.isNone)).filterMap (fun d =>
    let h := d.addr * 16 + 9
    if s.halfHolds h s.mfN then some (field (s.readHalf h s.mfN) 184 1 % 8)
    else if s.halfHolds h (s.mfN + 1) then some (field (s.readHalf h (s.mfN + 1)) 184 1 % 8) else none)

/-- PAIR_ROLE SET_RANK: the rank changes at the next frame mark, unless another device of the cascade holds it. -/
def State.pairSetRank (s : State) (r : EntryRef) (e : Sqe) : State :=
  let n := sqeF e 2 0 3
  if s.otherRanks.contains n ∨ s.pu.rank.isSome then s.complete r e St.aborted
  else s.updPu (fun u => { u with rank := some (n, frameFrom (s.mfN + 1), r) })

/-- PAIR_ROLE BARRIER: the device has executed the barrier. -/
def State.pairBarrier (s : State) (r : EntryRef) (e : Sqe) : State :=
  let n := (sqeDw e 3).toNat
  s.updPu (fun u => { u with barriers := u.barriers ++ [(n, s.mfN, r)], barrierLast := n })

/-- Barriers that this device knows every device of its cascade has executed, as the status bytes tell (R308): the master looks at every
secondary, a secondary at what the master has released. -/
def State.barrierKnown (s : State) (n : Nat) : Bool :=
  let last (h off : Nat) : Bool :=
    (s.halfHolds h s.mfN && field (s.readHalf h s.mfN) off 4 == n) || (s.halfHolds h (s.mfN + 1) && field (s.readHalf h (s.mfN + 1)) off 4 == n)
  let below := (s.devices.filter (fun d => d.cls == 3 && d.detachedAt.isNone)).all (fun d => last (d.addr * 16 + 9) 180)
  let above := (s.trunks.filter (fun t => !s.rootRole t && s.portEnabled t)).all (fun t =>
    [0, 1].any (fun i => match Tbl.get (fun _ => none) s.mre.casc (cascKey t 0 1 i) with
      | some (_, b) => field b 188 4 == n
      | none => false))
  below && above

/-- BARRIER_COMPLETE (R311): at the second mark after the last device's execution; the frame master releases the barrier. -/
def State.barrierDone (s : State) (n : Nat) : State :=
  let mine := s.pu.barriers.filter (fun b => b.1 == n)
  if mine.isEmpty ∨ !s.barrierKnown n ∨ mine.any (fun b => decide (s.mfN < b.2.1 + 2)) then s
  else
    let s := s.updPu (fun u => { u with barriers := u.barriers.filter (fun b => b.1 != n), barrierFree := n })
    (s.inCqeOrder (·.2.2) mine).foldl (fun (s : State) (b : Nat × Nat × EntryRef) => s.completeRef b.2.2 St.ok 0 (BitVec.ofNat 32 s.mfN) (BitVec.ofNat 32 (s.mfN / 2 ^ 32))) s
def execBarrierComplete (id : Word) (s : State) : Out := .next (s.barrierDone id.toNat)

/-! ## The mark (R13, R269, R300, R313) -/

/-- What the pair unit does after a mark: a LEAVE takes effect, a rank changes at a frame mark, an audit ends with the role, node states
are installed, HELLO goes out while the ordered channel is down. -/
def State.afterMark (s : State) : State :=
  let s := match s.pu.leave with
    | some r => s.leaves r
    | none => s
  let s := match s.pu.rank with
    | some (n, m, r) =>
      if m ≤ s.mfN then (((s.setF Reg.PU_CFG_RANK n).updPu (fun u => { u with rank := none })).completeRef r St.ok) else s
    | none => s
  let s := if s.pu.auditEnd then (s.updPu (fun u => { u with auditEnd := false })).dropAudit else s
  let s := s.installDue
  if s.flag Reg.PU_CTRL_EN && s.pstate != 0 && !s.orderedUp && !s.pu.abdicate then s.sendHello else s

/-- The mark, and what the pair unit does after it (R10, R13, R132). -/
def State.markAll (s : State) : State := if s.time.run then s.mark.afterMark else s

/-! ## Timed frames (R279, R281, R296 to R298) -/

/-- A Miodel frame has arrived. -/
def State.frameSeen (s : State) : State := s.updPu (fun u => { u with lastFrame := some s.now })

/-- MIODEL_TIME_FRAME (R275, R279, R284, R300, R304): what the peer tells is kept; of two devices that follow each other the lower rank
free-runs; a joiner's LOCKSTEP and a PARTNER's RESYNC change the HOLDER's pair state, and a HOLDER that leaves lockstep ends the PARTNER's
(DESIGN CHOICE, log entry 69); a HOLDER that has abdicated gives way to the new one. -/
def State.gotTime (s : State) (f : TimeFrame) : State :=
  if !s.flag Reg.PU_CTRL_EN then s
  else
    let left : Bool := match s.pu.peerTime with
      | some g => g.role == 1 && g.pstate == 3 && f.role == 1 && f.pstate == 4
      | none => false
    let s := s.frameSeen.updPu (fun u => { u with peerTime := some f })
    let s := f.margins.foldl (fun s x => s.peerChecked x.1 x.2.toNat) s
    let s := if s.f Reg.PU_STATUS_TIME_SRC = 1 ∧ f.timeSrc = 1 ∧ s.f Reg.PU_CFG_RANK < f.rank.toNat then
        s.freeRun.puEvent Pe.master (s.f Reg.PU_CFG_RANK)
      else s
    let s := if s.f Reg.PU_STATUS_TIME_SRC = 1 ∧ f.timeSrc = 0 then s.setF Reg.PU_CASCADE_STATUS_MASTER_RANK f.rank.toNat else s
    if !s.isHolder then (if s.isPartner && s.lockstep && left then s.orderedDown.enterResync 2 else s)
    else
      let s := s.setB Reg.PU_STATUS_PEER_RSQ_FAILED (f.rsqFailed && f.role == 2)
      if s.pu.abdicate && f.role == 1 && s.pu.leave.isNone then
        let s := (s.holderEnds.setRole 2).puEvent Pe.role
        (s.orderedDown.setPstate 5).updPu (fun u => { u with abdicate := false })
      else if s.pstate = 4 ∧ s.orderedUp ∧ f.pstate = 3 ∧ f.role = 2 then ((s.setPstate 3).joinPhase 5).puEvent Pe.joined
      else if s.lockstep ∧ f.pstate = 5 ∧ f.role = 2 then (s.setPstate 4).orderedDown
      else s
def execMiodelTimeFrame (f : TimeFrame) (s : State) : Out := .next (s.gotTime f)

/-- Block of microframe `n` that this device holds for a tag of a trunk. -/
def State.heldFor (s : State) (t n tag : Nat) : Option (List Byte) :=
  match s.per (npKey t n tag) with
  | some x => if perIn x && x.seq == n && s.halfHolds x.handle n then some (s.readHalf x.handle n) else none
  | none => none

/-- MIODEL_PRESENCE_FRAME (R281): every block that this device holds and the peer lacks goes to it, in ascending trunk and tag order. -/
def State.gotPresence (s : State) (recs : List PresenceRec) : State :=
  let s := s.frameSeen
  if !s.lockstep then s
  else
    let s := s.updPu (fun u => if u.presPass = s.mfN then { u with peerLacks := recs }
      else { u with presPass := s.mfN, lacks := [], peerLacks := recs })
    let n := (s.mfN + 65535) % 65536
    let l := (List.range 192).flatMap (fun t => (recs.filter (fun r => r.trunk.val == t)).flatMap (fun r =>
      (List.range 4096).filterMap (fun tag =>
        if r.lacks.contains (BitVec.ofNat 12 tag) then
          (s.heldFor t n tag).map (fun b => (⟨Fin.ofNat 192 t, BitVec.ofNat 12 tag, b⟩ : BlockRec))
        else none)))
    if l.isEmpty then s else s.sendTimed (.blocks l)
def execMiodelPresenceFrame (recs : List PresenceRec) (s : State) : Out := .next (s.gotPresence recs)

/-- MIODEL_BLOCKS_FRAME (R167, R281): blocks that arrive before tick 1,875 are written and counted. -/
def State.gotBlocks (s : State) (l : List BlockRec) : State :=
  let s := s.frameSeen
  if !s.lockstep ∨ Config.decisionTick ≤ s.time.phase then s
  else
    let n := (s.mfN + 65535) % 65536
    l.foldl (fun s b =>
      let k := npKey b.trunk.val n b.tag.toNat
      match s.per k with
      | some x =>
        if perIn x && x.seq == n && !s.halfHolds x.handle n then
          let (s, new) := (s.setPer k (some { x with got := true })).acceptIn x.handle n b.payload
          if new then (s.bump Reg.PU_RECON_FETCHED_COUNT).blockNotice x.handle else s
        else s
      | none => s) s
def execMiodelBlocksFrame (blocks : List BlockRec) (s : State) : Out := .next (s.gotBlocks blocks)

/-- Digests of one pass that differ. -/
def digestDiff (a b : List Word) : List Nat := (List.range 256).filter (fun i => a[i]? != b[i]?)

/-- The digests of pass `p` differ (R296). -/
def State.diverged (s : State) (p : Nat) (l : List Nat) : State :=
  let i := l.headD 0
  let s := s.bump Reg.PU_DIVERGE_COUNT_COUNT
  let s := (s.setF Reg.PU_DIVERGE_MF_LO_MF p).setF Reg.PU_DIVERGE_MF_HI_MF (p / 2 ^ 32)
  let s := (s.setF Reg.PU_DIVERGE_MF_HI_DIGEST i).puEvent Pe.diverge 0 (i + 256 * min l.length 255)
  let s := s.updPu (fun u => { u with diverge := u.diverge + 1 })
  if max 1 (s.f Reg.PU_CFG_DIVERGE_LIMIT) ≤ s.pu.diverge ∧ s.flag Reg.PU_CTRL_AUTO_RESYNC ∧ s.isPartner then
    s.orderedDown.enterResync 1
  else s

/-- MIODEL_DIGEST_FRAME (R296, R304): the peer's digests of a pass are compared with the own ones. -/
def State.gotDigest (s : State) (pass : Nat) (d : List Word) : State :=
  let s := s.frameSeen
  match s.pu.digests.find? (fun x => x.1 % 2 ^ 32 == pass) with
  | none => s
  | some (p, own) =>
    let l := digestDiff own d
    if s.lockstep then
      if l.isEmpty then s.updPu (fun u => { u with diverge := 0 }) else s.diverged p l
    else if s.f Reg.PU_JOIN_STATUS_PHASE = 4 then
      let s := s.updPu (fun u => { u with joinPasses := u.joinPasses + 1, matched := if l.isEmpty then u.matched + 1 else 0 })
      s.setF Reg.PU_JOIN_STATUS_PROGRESS (min 100 (s.pu.matched * 100 / 64))
    else s
def execMiodelDigestFrame (pass : Word) (digests : List Word) (s : State) : Out := .next (s.gotDigest pass.toNat digests)

/-- MIODEL_CLIP_FRAME (R297): the PARTNER keeps the samples and decisions of a pass that has not begun. -/
def State.gotClips (s : State) (p : Nat) (l : List ClipRec) : State :=
  let s := s.frameSeen
  if !s.isPartner ∨ p ≤ s.mfN then s
  else l.foldl (fun s c => { s with mre := { s.mre with
    feeds := Tbl.upd (fun _ => []) s.mre.feeds c.gen.val (fun q => ⟨p, c.present, c.samples⟩ :: q) } }) s
def execMiodelClipFrame (pass : MfNum) (clips : List ClipRec) (s : State) : Out := .next (s.gotClips pass.toNat clips)

/-- MIODEL_RELAY_FRAME (R298): on the PARTNER a packet for its trunk, on the HOLDER a response received there. -/
def State.gotRelay (s : State) (f : RelayFrame) : State :=
  let s := s.frameSeen
  match f with
  | .send t b => if s.isPartner then s.updPu (fun u => { u with relay := u.relay ++ [(t.val, b)] }) else s
  | .gotData t d => if s.isHolder then s.gotData (t.val + 192) d else s
  | .gotHandshake t k h => if s.isHolder then s.gotHandshake (t.val + 192) k.toNat h else s
def execMiodelRelayFrame (f : RelayFrame) (s : State) : Out := .next (s.gotRelay f)

/-- MIODEL_FRAME_CRC_FAIL (R280): the frame is discarded; a timed one is counted, an ordered one comes again. -/
def execMiodelFrameCrcFail (timed : Bool) (s : State) : Out :=
  .next (if timed then s.bump Reg.PU_MIODEL_ERRORS_TIMED_LOST else s)

/-! ## Ordered frames (R280, R288, R291, R292, R294, R298) -/

/-- An ordered frame arrives: it counts when it is the next in order; an ACK is owed in any case. -/
def State.inOrder (s : State) (n : Nat) : Option State :=
  let s := s.frameSeen
  if !s.orderedUp then none
  else
    let s := s.updPu (fun u => { u with owed := true })
    if n = s.pu.recvSeq then some (s.updPu (fun u => { u with recvSeq := (n + 1) % 2 ^ 32 })) else none

/-- A command's record (R292): from the PARTNER it takes its place in the HOLDER's order; from the HOLDER it is applied, to the entry that
brought it when that is this device's. -/
def State.gotCommand (s : State) (n : Nat) (fn : FnId) (e : Sqe) (h : HostData) (at_ : Nat) : State :=
  if s.isHolder then
    let r := foreignRef fn n
    (s.mirror r e h).applyCmd r e h s.mfN
  else
    match s.pu.sent.find? (fun x => x.1.fn == fn && x.2 == e) with
    | some (r, _) => (s.updPu (fun u => { u with sent := removeFirst (fun x => x.1 == r) u.sent })).applyCmd r e h at_
    | none => s.applyCmd (foreignRef fn n) e h at_

/-- A port feature that the HOLDER's TM asks of a root port of the PARTNER (R298). -/
def State.peerFeature (s : State) (t : Nat) (set : Bool) (feat reason : Nat) : State :=
  match set, feat with
  | true, 1 => s.portPower t
  | true, 2 => s.portReset t false
  | true, 3 => s.portSuspend t
  | true, 4 => s.portResume t false
  | false, 1 => s.portOff t
  | false, _ => s.portDisable t (if reason = 0 then Rs.software else reason) St.deviceGone
  | _, _ => s

/-- A root port of the peer has changed (R298): the HOLDER's TM learns it as it learns its own ports. -/
def State.peerPortEvent (s : State) (t : Nat) (e : TopoEvent) : State :=
  let v := t + 192
  let was := s.portState v
  let s := s.setPeerPort t e.state
  if !s.isHolder then s
  else
    let s := if pathState was && !pathState e.state then s.detachLost (if e.state = 3 then St.portReset else St.deviceGone) else s
    let mine : Bool := match s.enumOf v with | some x => x.step == 2 && x.pos.hub == 0 | none => false
    let s := if e.state = 4 ∨ (e.state = 3 ∧ mine) then s else if was = e.state then s else (s.dropEnum v).showEnum
    if e.event = 0 then s
    else
      let s := if e.event = Ev.attach then (if s.tmOn && s.flag Reg.TM_CTRL_AUTO_ENUM then s.await ⟨v, 0, 0, false, false, s.mfN⟩ else s)
        else if e.event = Ev.enabled ∧ was = 3 then
          (match s.enumOf v with
           | some x => if mine then s.step3 v x else s
           | none => s.await ⟨v, 0, 0, true, false, s.mfN⟩)
        else s
      s.topoEvent { e with mfn := s.mfN }

/-- A switch to SATIN or ACTIVE that the peer asks for, or that the HOLDER has placed (R294, R443, R444, R449): with one to SATIN an audit
ends and the operating points are saved; one to ACTIVE before the entry ends this device's request for SATIN. -/
def State.peerSwitch (s : State) (satin : Bool) (m : Nat) : State :=
  let own := s.flag Reg.PMU_REQ_STATUS_BUSY && s.pm.entryAt.isSome && s.f Reg.PMU_REQ_STATUS_TARGET == 2
  let s := if satin then
      if own then s
      else s.abortAudit.savePoints
    else if own && !s.inSatin then s.endRequest St.abortedByWake
    else s
  if s.isHolder then s.pairSwitch satin else s.updPu (fun u => { u with switchAt := some (satin, m) })

/-- A mirrored context that binds an endpoint to a group takes its own slot away (R172, R291). -/
def State.groupedSlot (s : State) (h : Nat) : State := if s.cf h Cx.kind = 0 ∧ s.cf h Cx.groupEn = 1 then s.dropSlot h else s

/-- Trunk RTTs follow a mirrored device record (R121, R274): on the trunks that it names, and on those that it named before. -/
def State.rootsRtt (s : State) (l : List DevRec) : State :=
  (l.flatMap devRoots).foldl (fun (s : State) p => s.showRtt p) s

/-- A mirror record is applied. -/
def State.applyMirror (s : State) (n : Nat) (m : MirrorRec) : State :=
  match m with
  | .command fn e h at_ => s.gotCommand n fn e h at_.toNat
  | .regWrite a v m => if s.isPartner then s.updPu (fun u => { u with writes := u.writes ++ [(a.toNat, v, m.toNat)] }) else s
  | .powerSwitch satin m =>
    s.peerSwitch satin m.toNat
  | .handover h => if s.isPartner then s.updPu (fun u => { u with handover := some (h.toNat, none) }) else s
  | .context h dws =>
    if s.isPartner then (dws.zipIdx.foldl (fun s x => s.setCtx h.toNat x.2 x.1) s).groupedSlot h.toNat else s
  | .device a d => if s.isPartner then (s.setDev a.toNat (d.map swapDev)).rootsRtt ((s.dev a.toNat).toList ++ d.toList) else s
  | .routes h l => if s.isPartner then s.setRoutes h.toNat l else s
  | .group none g b v => if s.isPartner then s.setRootGroup g.toNat (b2n b) v.toNat else s
  | .group (some h) g b v => if s.isPartner then s.setHubGroup h.toNat g.toNat (b2n b) v.toNat else s
  | .hubPort h p r => if s.isPartner then s.setHubPort h.toNat p.toNat r else s
  | .path t one =>
    if s.isPartner then (s.setB (Reg.TS_TRUNK_CFG_PATH t.val) one).updPu (fun u => { u with
      sides := if u.sides.contains t.val then u.sides else u.sides ++ [t.val] }) else s
  | .portCommand t set feat reason => if s.isPartner then s.peerFeature t.val set feat reason else s
  | .portEvent t e => s.peerPortEvent t.val e

/-- MIODEL_MIRROR_FRAME. -/
def State.gotMirror (s : State) (n : Nat) (m : MirrorRec) : State :=
  match s.inOrder n with
  | some s => s.applyMirror n m
  | none => if s.orderedUp then s.frameSeen.updPu (fun u => { u with owed := true }) else s.frameSeen
def execMiodelMirrorFrame (seq : Word) (m : MirrorRec) (s : State) : Out := .next (s.gotMirror seq.toNat m)

/-- MIODEL_COPY_FRAME (R304, R435): a joiner installs the join's data; a damaged list is repaired in either role. -/
def State.gotCopy (s : State) (n : Nat) (c : CopyFrame) : State :=
  match s.inOrder n with
  | some s =>
    let list := match c with | .list .. => true | _ => false
    if list || (s.isPartner && s.pstate == 2) then s.install c else s
  | none => if s.orderedUp then s.frameSeen.updPu (fun u => { u with owed := true }) else s.frameSeen
def execMiodelCopyFrame (seq : Word) (c : CopyFrame) (s : State) : Out := .next (s.gotCopy seq.toNat c)

/-- MIODEL_ACK_FRAME. -/
def execMiodelAckFrame (seq : Word) (s : State) : Out :=
  .next (if s.orderedUp then s.frameSeen.ackTo seq.toNat else s.frameSeen)

/-- MIODEL_ACK_TIMER (R280): an ACK that is owed goes out. -/
def State.ackTimer (s : State) : State :=
  if s.orderedUp && s.pu.owed then
    (s.sendTimed (.ack ((s.pu.recvSeq + 2 ^ 32 - 1) % 2 ^ 32))).updPu (fun u => { u with owed := false })
  else s
def execMiodelAckTimer (s : State) : Out := .next s.ackTimer

/-- MIODEL_RESEND_TIMEOUT (R280): 20 µs without progress, and since the last time; everything from the oldest unacknowledged frame goes
again. -/
def State.resend (s : State) : State :=
  if s.orderedUp && !s.pu.unacked.isEmpty && decide (max s.pu.progress s.pu.resentAt + 500 ≤ s.now) then
    ((s.pu.unacked.foldl (fun s x => s.sendTimed x.2) s).bump Reg.PU_MIODEL_ERRORS_RETRANSMITS s.pu.unacked.length).updPu
      (fun u => { u with resentAt := s.now })
  else s
def execMiodelResendTimeout (s : State) : Out := .next s.resend

/-- ORDERED_CHANNEL_DOWN (R280, R302): 1 ms without progress, or the lanes have left UP. A joiner waits for HELLO anew. -/
def State.channelDown (s : State) : State :=
  if s.orderedUp && (!s.miodelUp || (!s.pu.unacked.isEmpty && decide (s.pu.progress + 25000 ≤ s.now))) then
    let s := s.orderedDown
    if s.pstate = 2 then ((s.setRole 0).setPstate 1).joinPhase 1 else s
  else s
def execOrderedChannelDown (s : State) : Out := .next s.channelDown

/-- MIRROR_WRITE_APPLY (R288): pair-checked fields whose frame mark has come take their value. -/
def State.applyWrites (s : State) : State :=
  let (go, stay) := s.pu.writes.partition (fun x => decide (x.2.2 ≤ s.mfN))
  go.foldl (fun s x =>
    let m := BitVec.ofNat 32 (pairMask x.1)
    s.setReg x.1 ((s.reg x.1 &&& ~~~m) ||| (x.2.1 &&& m))) (s.updPu (fun u => { u with writes := stay }))
def execMirrorWriteApply (s : State) : Out := .next s.applyWrites

/-! ## The phases of a join (R304, R305) -/

/-- JOIN_PHASE_END. On the joiner COPY ends with every region, STATE with every node and line, VERIFY with 64 matching passes. On the
HOLDER the end of COPY sends the state. -/
def State.phaseEnd (s : State) : State :=
  let p := s.f Reg.PU_JOIN_STATUS_PHASE
  let full := s.f Reg.PU_JOIN_STATUS_PROGRESS = 100
  if s.isHolder then
    if p = 2 ∧ s.pstate = 4 ∧ s.orderedUp then (s.joinPhase 4).sendCopies s.copyState else s
  else if !s.isPartner ∨ s.pstate ≠ 2 then s
  else if p = 2 ∧ full then { s.joinPhase 3 with mre := { (s.joinPhase 3).mre with on := false } }
  else if p = 3 ∧ full ∧ s.pu.install.isEmpty then (s.joinPhase 4).updPu (fun u => { u with matched := 0, joinPasses := 0 })
  else if p = 4 ∧ 64 ≤ s.pu.matched then (s.joinPhase 5).updPu (fun u => { u with joinAt := some (frameFrom (s.mfN + 1)) })
  else s
def execJoinPhaseEnd (s : State) : Out := .next s.phaseEnd

/-- JOIN_DONE (R304): at frame mark E the joiner is in lockstep. -/
def State.joinDone (s : State) : State :=
  match s.pu.joinAt with
  | some m =>
    if s.f Reg.PU_JOIN_STATUS_PHASE = 5 ∧ s.pstate = 2 ∧ m ≤ s.mfN then
      ((s.setPstate 3).updPu (fun u => { u with joinAt := none, diverge := 0 })).puEvent Pe.joined
    else s
  | none => s
def execJoinDone (s : State) : Out := .next s.joinDone

/-- JOIN_TIMEOUT (R305): 256 passes after STATE without a match. COPY once more, then the join fails. The HOLDER copies anew. -/
def State.joinTimeout (s : State) : State :=
  if s.f Reg.PU_JOIN_STATUS_PHASE ≠ 4 ∨ s.pu.joinPasses < 256 then s
  else if s.isHolder then s.startCopy
  else if s.pu.retried then s.joinFailed 5
  else (s.joinPhase 2).updPu (fun u => { u with retried := true, matched := 0, joinPasses := 0, install := [] })
def execJoinTimeout (s : State) : Out := .next s.joinTimeout

/-- PU_BACKLOG_DRAIN (R358): held pair events are written while there is room. -/
def execPuBacklogDrain (s : State) : Out := .next (s.drainPu (s.pu.held.length + s.pu.latest.length))

end Sys2Proof.Machine
end

