-- ==== Sys2Proof/Machine/DevRole.lean ====
section
/-! DEFINITION. A root port in device role as the class 0x03 node of a cascade link (R41, R53, R59 to R61, R64 to R69, R115, R307,
R308, R507). -/

namespace Sys2Proof.Machine

/-- The node of port `p`. -/
def State.devNode (s : State) (p : Nat) : DevNode := (s.port p).dev
def State.updNode (s : State) (p : Nat) (g : DevNode → DevNode) : State := s.updPort p (fun r => { r with dev := g r.dev })

/-- The node is locked: a lock releases itself 64 µs after LOCK (R65). -/
def State.nodeLocked (s : State) (p : Nat) : Bool :=
  match (s.devNode p).lockedAt with
  | some t => decide (s.now < t + 1600)
  | none => false

/-! ## Descriptors and status (R115, R507) -/

/-- The serial number of the node: of the HOLDER in a pair, whose two devices answer alike (R307). -/
def State.nodeSerial (s : State) : Nat :=
  match s.isPartner, s.pu.hello with
  | true, some h => h.serial.toNat
  | _, _ => (s.reg Reg.GLB_SERIAL_LO).toNat + 2 ^ 32 * (s.reg Reg.GLB_SERIAL_HI).toNat

/-- The device descriptor: class 0x03, endpoints 0 to 7 in both directions. -/
def State.devDescriptor (s : State) : List Byte :=
  [32, 1, 3, 0x10] ++ leBytes 8 s.nodeSerial ++ leBytes 4 (s.reg Reg.GLB_ID).toNat ++ [0xFF, 0xFF] ++
    leBytes 2 (b2n (s.role != 0) + 2 * (Config.nodeField 0 % 8)) ++ List.replicate 12 0

/-- The endpoint descriptor of index `e`: endpoint 0 is control, the others are periodic with MAX_PACKET 192 and MIN_INTERVAL 0 (R307). -/
def epDescriptor (e : Nat) : List Byte :=
  let ctl := e % 8 == 0
  [16, 2, BitVec.ofNat 8 e, if ctl then 2 else 0] ++ leBytes 2 (if ctl then 1024 else 192) ++
    leBytes 1 (if ctl then 1 else 1 + Config.nodeField (16 + e) % 8) ++ [0] ++ leBytes 1 (Config.nodeField (32 + e) % 8) ++
    List.replicate 7 0

/-- The group bound to OUT endpoint `e`. -/
def DevNode.binding (d : DevNode) (e : Nat) : Option Nat := Tbl.get (fun _ => none) d.bindings e

/-- The SEQ of the last DATA accepted, by endpoint or binding. -/
def DevNode.last (d : DevNode) (k : Nat) : Option Nat := Tbl.get (fun _ => none) d.lastSeq k

/-- PATH0_UP and PATH1_UP: the node of a pair has path 0 at the device of side A; another has path 0 only. -/
def State.pathsUp (s : State) (p : Nat) : Nat :=
  let own := b2n (s.portEnabled p)
  let far := b2n (s.portState (192 + p) == 4)
  if s.role = 0 then own else if s.flag Reg.PU_CFG_SIDE then far + 2 * own else own + 2 * far

/-- What GET_STATUS of the device returns (R507). -/
def State.devStatus (s : State) (p : Nat) : List Byte :=
  leBytes 2 (b2n (s.nodeLocked p) + 2 * s.pathsUp p) ++ leBytes 2 (s.devNode p).addr ++ leBytes 4 0

/-- What GET_STATUS of endpoint `e` returns (R507). SEQ of an endpoint that is bound to a group is that of its OUT DATA (DESIGN CHOICE, log entry
58). -/
def State.epStatus (s : State) (p e : Nat) : List Byte :=
  let d := s.devNode p
  let g := if 1 ≤ e ∧ e ≤ 7 then d.binding e else none
  let seq := if e = 0 then 2 else if e = 8 then 1 else if e < 8 then (d.last e).getD 0 else 0
  leBytes 2 (2 * b2n g.isSome) ++ leBytes 2 (g.getD 0) ++ leBytes 2 seq ++ leBytes 2 0

/-! ## Control requests on endpoint 0 (R59 to R61) -/

/-- The data stage of a request that the node can carry out, `none` for one that it cannot: its LENGTH is that of the setup payload. The
node has no registers to read or write. -/
def State.nodeServe (s : State) (p : Nat) (b : List Byte) : Option (List Byte) :=
  let d := s.devNode p
  let toHost := decide (128 ≤ field b 0 1)
  let value := field b 2 2
  let index := field b 4 4
  let len := field b 8 2
  if len > 4096 then none
  else match field b 1 1 with
  | 1 =>
    if !toHost || index != 0 then none
    else if value = 0x100 then some (s.devDescriptor.take len)
    else if value / 256 = 2 ∧ value % 256 < 16 then some ((epDescriptor (value % 256)).take len)
    else none
  | 2 => if len = 0 ∧ index = 0 then some [] else none
  | 3 =>
    if !toHost || value != 0 then none
    else if index = 0 then some ((s.devStatus p).take len)
    else if index / 16 = d.addr then some ((s.epStatus p (index % 16)).take len)
    else none
  | 4 => if len = 0 ∧ 1 ≤ index ∧ index ≤ 7 ∧ (value < 0x4000 ∨ value = 0xFFFF) then some [] else none
  | 5 => if len = 0 ∧ value = 0 ∧ index / 16 = d.addr then some [] else none
  | 6 =>
    if !toHost || value != 0 || index != 0 then none
    else some (((List.range (Config.freeChoice d.snapshot % 4097)).map (fun i => Config.freeByte (d.snapshot + 1 + i))).take len)
  | _ => none

/-- What the request does, once its status stage has come (R49, R61). CLEAR_STALL finds no endpoint halted, and a SEQ that R53 keeps stays. -/
def State.nodeDo (s : State) (p : Nat) (b : List Byte) : State :=
  let value := field b 2 2
  let index := field b 4 4
  match field b 1 1 with
  | 2 => s.updNode p (fun d => { d with addr := value })
  | 4 => s.updNode p (fun d => { d with
      bindings := Tbl.set (fun _ => none) d.bindings index (if value = 0xFFFF then none else some value)
      lastSeq := Tbl.set (fun _ => none) d.lastSeq (8 + index) none })
  | _ => s

/-- A request that the node supports (R59, R61): a standard one. -/
def nodeSupports (b : List Byte) : Bool :=
  field b 0 1 / 32 % 4 == 0 && [1, 2, 3, 4, 5, 6, 0x10, 0x11].contains (field b 1 1)

/-! ## Answers (R41) -/

/-- FLAGS of an answer: TWILL, LKD, MFP, NP and PATH of the token, as R41 says; for a handshake the table of R40 leaves TWILL and LKD 0, and the
model follows R41 (DESIGN CHOICE, log entry 44). -/
def answerFlags (k : TokenPkt) : Nat := k.flags.toNat &&& 0xEA

/-- Send a handshake, or DATA, up the port; a device that is mute sends nothing (R304). -/
def State.nodeShake (s : State) (p : Nat) (k : TokenPkt) (kind : Nat) : State :=
  if s.mute then s else s.emit (.pkt p ⟨kind, answerFlags k, k.tag.toNat % 4096, 0, 0, 0, 0, []⟩)
def State.nodeData (s : State) (p : Nat) (k : TokenPkt) (last : Bool) (seq : Nat) (b : List Byte) : State :=
  if s.mute then s
  else s.emit (.pkt p ⟨Pk.data, answerFlags k + b2n last, k.tag.toNat % 4096, k.handle.toNat, 0, b.length, seq, b⟩)

/-- SETUP (R59, R60): a new transfer, whatever went before. -/
def State.nodeSetup (s : State) (p : Nat) (k : TokenPkt) : State :=
  if k.payload.length ≠ 16 ∨ k.dataSeq ≠ 0 then s
  else if nodeSupports k.payload then
    (s.updNode p (fun d => { d with setup := k.payload, stage := 1, next := 1 })).nodeShake p k Pk.ack
  else (s.updNode p (fun d => { d with setup := [], stage := 0, next := 0 })).nodeShake p k Pk.stall

/-- A transfer that the node cannot carry out is stalled at the first packet of its data or status stage. -/
def State.nodeStall (s : State) (p : Nat) (k : TokenPkt) : State :=
  (s.updNode p (fun d => { d with stage := 3 })).nodeShake p k Pk.stall

/-- Packets of the data stage: at least one when the setup payload asks for data. -/
def nodePackets (b : List Byte) : Nat := max 1 (ceilDiv b.length 1024)

/-- BULK_IN on endpoint 0 (R56, R59): a packet of the data stage, or the status. A new address applies with the first status DATA that goes out,
so a repeat of that token to the old address is not answered (R61; DESIGN CHOICE, log entry 44). -/
def State.nodeBulkIn (s : State) (p : Nat) (k : TokenPkt) : State :=
  let d := s.devNode p
  let q := k.seq.toNat
  let len := field d.setup 8 2
  if d.stage = 0 then s.nodeShake p k Pk.nak
  else if d.stage = 3 then s.nodeShake p k Pk.stall
  else match s.nodeServe p d.setup with
  | none => if q = 1 then s.nodeStall p k else s.nodeShake p k Pk.nak
  | some b =>
    if len = 0 then
      if q = 1 then
        let s := if d.stage = 1 then (s.nodeDo p d.setup).updNode p (fun d => { d with stage := 2, next := 2 }) else s
        s.nodeData p k true 1 []
      else s.nodeShake p k Pk.nak
    else
      let n := nodePackets b
      if 1 ≤ q ∧ q ≤ min d.next n ∧ d.stage = 1 then
        (s.updNode p (fun d => { d with next := max d.next (q + 1) })).nodeData p k (q == n) q ((b.drop ((q - 1) * 1024)).take 1024)
      else s.nodeShake p k Pk.nak

/-- BULK_OUT on endpoint 0 (R55, R59): the status of a transfer to the GX1920, or data that no request of the node takes. -/
def State.nodeBulkOut (s : State) (p : Nat) (k : TokenPkt) : State :=
  let d := s.devNode p
  let q := k.dataSeq.toNat
  let toHost := decide (128 ≤ field d.setup 0 1)
  let len := field d.setup 8 2
  if d.stage = 0 then s
  else if d.stage = 3 then s.nodeShake p k Pk.stall
  else match s.nodeServe p d.setup with
  | none => if len ≠ 0 then s.nodeStall p k else s
  | some b =>
    let n := nodePackets b
    if len ≠ 0 ∧ toHost ∧ q = n + 1 ∧ n < d.next then
      (s.updNode p (fun d => { d with stage := 2, next := n + 2 })).nodeShake p k Pk.ack
    else s

/-! ## Periodic endpoints 1 to 7 (R47, R53, R307, R308) -/

/-- Accept the DATA of an OUT or MOUT for endpoint `e`, unless its SEQ is that of the last one accepted under `key`; its block is the input of a
SOURCE (R14, R227, R308). -/
def State.nodeTake (s : State) (p e key : Nat) (k : TokenPkt) : State :=
  let q := k.dataSeq.toNat
  if (s.devNode p).last key = some q ∨ 192 < k.payload.length then s
  else
    let s := s.updNode p (fun d => { d with lastSeq := Tbl.set (fun _ => none) d.lastSeq key (some q) })
    -- a block that comes at the input cut-off of its pass or later is not written; before the first mark there is no pass, and the status bytes
    -- of endpoint 1 bring the number (R26, R309)
    if s.cutOffOver q ∧ !(e == 1 && s.markTrunks.isEmpty) then s
    else State.blockNotice
      { s with mre := { s.mre with casc := Tbl.set (fun _ => none) s.mre.casc (cascKey p 0 e q) (some (q, k.payload)) } } (0x200000 + p * 8 + e)

/-- IN: the block of the pass before, or no bytes. -/
def State.nodeIn (s : State) (p e : Nat) (k : TokenPkt) : State :=
  let pass := k.seq.toNat + 65535
  let b := match Tbl.get (fun _ => none) s.mre.casc (cascKey p 1 e pass) with
    | some (mf, b) => if mf = pass % 65536 then b else []
    | none => []
  s.nodeData p k false k.seq.toNat (b.take k.length.toNat)

/-! ## Tokens -/

/-- Endpoint 0 (R59, R64, R65, R69): an LKD transaction needs the lock, and while the lock is held the others wait. SEQ of the DATA that answers
a PING is 0 (DESIGN CHOICE, log entry 58). -/
def State.nodeControl (s : State) (p : Nat) (k : TokenPkt) : State :=
  let kind := k.kind.toNat
  let ep := k.handle.toNat % 16
  let lkd := nbit k.flags.toNat 3
  let held := s.nodeLocked p
  if kind = Pk.lock then
    if ep = 0 then (s.updNode p (fun d => { d with lockedAt := some s.now })).nodeShake p k Pk.lockAck else s
  else if kind = Pk.unlock then
    if ep ≠ 0 then s
    else if held then (s.updNode p (fun d => { d with lockedAt := none })).nodeShake p k Pk.ack
    else s.nodeShake p k Pk.err
  else if (kind = Pk.setup ∨ kind = Pk.bulkOut) ∧ ep ≠ 0 ∨ (kind = Pk.bulkIn ∨ kind = Pk.ping) ∧ ep ≠ 8 then s
  else if lkd && !held then s.nodeShake p k Pk.err
  else if held && !lkd then s.nodeShake p k Pk.nak
  else if kind = Pk.setup then s.nodeSetup p k
  else if kind = Pk.bulkOut then s.nodeBulkOut p k
  else if kind = Pk.bulkIn then s.nodeBulkIn p k
  else if kind = Pk.ping then s.nodeData p k false 0 (List.replicate k.length.toNat 0)
  else s

/-- A BCAST at the node (R66, R67): SNAPSHOT and CLEAR_COUNTERS wait for the mark of EFFECT_MF; a late one is discarded and counted. The other
commands do not concern a node of this class. -/
def State.nodeBcast (s : State) (p effect command : Nat) : State :=
  let ahead := (effect + 65536 - (s.devNode p).mfn) % 65536
  if command ≠ 1 ∧ command ≠ 3 then s
  else if ahead = 0 ∨ 32768 ≤ ahead then s.updNode p (fun d => { d with late := min (d.late + 1) 65535 })
  else if command = 1 then s.updNode p (fun d => { d with snapAt := effect :: d.snapAt })
  else s.updNode p (fun d => { d with clearAt := effect :: d.clearAt })

/-- DEVICE_ROLE_TOKEN_RECEIVED (R40, R47, R49, R66, R67, R103, R307): a port without its pull-up is absent from the tree; TREE_RESET releases
the lock. With delineation lost no packet is found (R76). What is addressed elsewhere, and what a node of this class does not take, is ignored. -/
def State.deviceToken (s : State) (p : Nat) (k : TokenPkt) : State :=
  let kind := k.kind.toNat
  let ep := k.handle.toNat % 16
  if !s.connected p || !s.portEnabled p || (s.trunk p).delinLost then s
  else if kind = Pk.bcast then s.nodeBcast p k.tag.toNat (k.length.toNat % 256)
  else if kind = 3 then s.updNode p (fun d => { d with lockedAt := none })
  else if kind = Pk.mout then
    [1, 2, 3, 4, 5, 6, 7].foldl (fun (s : State) (e : Nat) =>
      if (s.devNode p).binding e = some (k.handle.toNat % 0x4000) then s.nodeTake p e (8 + e) k else s) s
  else if k.handle.toNat / 16 ≠ (s.devNode p).addr then s
  else if kind = Pk.in_ then if 9 ≤ ep then s.nodeIn p (ep - 8) k else s
  else if kind = Pk.out then if 1 ≤ ep ∧ ep ≤ 7 then s.nodeTake p ep ep k else s
  else s.nodeControl p k

def execDeviceRoleTokenReceived (p : Trunk) (tok : TokenPkt) (s : State) : Out := .next (s.deviceToken p.val tok)

end Sys2Proof.Machine
end

