-- ==== Sys2Proof/Machine/Start.lean ====
section
/-! DEFINITION. The commands that start a submission entry (R353, R355, R356, R365 to R367): ENTRY_START takes the entry from the cache;
the row of each opcode names the entry itself. -/

namespace Sys2Proof.Machine

/-- Entries start: the queue engine is enabled, the device OPERATIONAL and not in DORMANT, the function not in reset, and the entry is due
(R332, R353, R355, R365, R423, R457). -/
def State.entryMay (s : State) (r : EntryRef) (e : Sqe) : Bool :=
  s.flag Reg.QE_CTRL_EN && s.operational && !s.inDormant && !s.dormantPending && !s.halted && !s.inReset r.fn.val &&
    (if r.sq = 0 then s.mayTake r else s.mayStart r e)

/-- The entry is checked and started, and `run` carries it out; one that may not start yet waits. -/
def State.startWith (s : State) (r : EntryRef) (e : Sqe) (run : State → State) : State :=
  if s.entryMay r e then s.startEntry r e run else s

/-- The opcode with ACTION `a` of PAIR_ROLE. -/
def withAction (e : Sqe) (a : Nat) : Sqe := ⟨(withOp e 0x97).dw.setIfInBounds 1 (putBits (sqeDw e 1) 0 3 a)⟩

/-! ## What each opcode does -/

/-- NOP (R366). -/
def State.runNop (s : State) (r : EntryRef) (e : Sqe) : State := s.complete r e St.ok

/-- FENCE (R380). -/
def State.runFence (s : State) (r : EntryRef) (e : Sqe) : State := s.beginMove r e

/-- BULK_OUT (R54, R366). -/
def State.runBulkOut (s : State) (r : EntryRef) (e : Sqe) : State := s.beginXferOf r e .bulkOut (sqeHandle e) [] (sqe64 e 4)

/-- BULK_IN (R56, R366). -/
def State.runBulkIn (s : State) (r : EntryRef) (e : Sqe) : State := s.beginXferOf r e .bulkIn (sqeHandle e) [] (sqe64 e 4)

/-- CONTROL (R59, R366). -/
def State.runControl (s : State) (r : EntryRef) (e : Sqe) : State := s.beginControl r e

/-- TUNNEL_TX (R57, R409, R410). -/
def State.runTunnelTx (s : State) (r : EntryRef) (e : Sqe) : State := s.beginXferOf r e .tunnelTx (sqeHandle e) [] (sqe64 e 4)

/-- TUNNEL_RX (R57, R409, R411). -/
def State.runTunnelRx (s : State) (r : EntryRef) (e : Sqe) : State := s.beginXferOf r e .tunnelRx (sqeHandle e) [] (sqe64 e 4)

/-- MOVE (R374). -/
def State.runMove (s : State) (r : EntryRef) (e : Sqe) : State := s.beginMove r e

/-- MOVE_INDEXED (R377). -/
def State.runMoveIndexed (s : State) (r : EntryRef) (e : Sqe) : State := s.beginMove r e

/-- CLIP_PLAY (R194, R292). -/
def State.runClipPlay (s : State) (r : EntryRef) (e : Sqe) : State := s.runOrdered r e .none

/-- CLIP_STOP (R242, R292). -/
def State.runClipStop (s : State) (r : EntryRef) (e : Sqe) : State := s.runOrdered r e .none

/-- TAP_RECORD (R209). -/
def State.runTapRecord (s : State) (r : EntryRef) (e : Sqe) : State := s.beginTap r e

/-- CREATE_SQ (R361). -/
def State.runCreateSq (s : State) (r : EntryRef) (e : Sqe) : State := s.createSq r e

/-- DELETE_SQ (R362). -/
def State.runDeleteSq (s : State) (r : EntryRef) (e : Sqe) : State := s.deleteSq r e

/-- CREATE_CQ (R361). -/
def State.runCreateCq (s : State) (r : EntryRef) (e : Sqe) (clean : Bool) : State := s.createCq r e clean

/-- DELETE_CQ (R362). -/
def State.runDeleteCq (s : State) (r : EntryRef) (e : Sqe) : State := s.deleteCq r e

/-- IDENTIFY (R368). -/
def State.runIdentify (s : State) (r : EntryRef) (e : Sqe) : State := s.identify r e

/-- SET_SHARE (R145, R155, R292). -/
def State.runSetShare (s : State) (r : EntryRef) (e : Sqe) : State := s.runOrdered r e .none

/-- GET_LOG (R369). -/
def State.runGetLog (s : State) (r : EntryRef) (e : Sqe) : State := s.getLog r e

/-- ENDPOINT_ADD (R147, R292). -/
def State.runEndpointAdd (s : State) (r : EntryRef) (e : Sqe) : State := s.runOrdered r e .none

/-- ENDPOINT_REMOVE (R148, R292). -/
def State.runEndpointRemove (s : State) (r : EntryRef) (e : Sqe) : State := s.runOrdered r e .none

/-- SCHEDULE_COMMIT (R150, R292). -/
def State.runScheduleCommit (s : State) (r : EntryRef) (e : Sqe) : State := s.runOrdered r e .none

/-- GRAPH_LOAD (R215, R292). -/
def State.runGraphLoad (s : State) (r : EntryRef) (e : Sqe) (img : ImageFile) : State := s.runOrdered r e (.image img)

/-- GRAPH_SWAP (R217, R292). -/
def State.runGraphSwap (s : State) (r : EntryRef) (e : Sqe) : State := s.runOrdered r e .none

/-- GROUP_SET (R147, R292). -/
def State.runGroupSet (s : State) (r : EntryRef) (e : Sqe) : State := s.runOrdered r e .none

/-- VF_GRANT (R417, R292). -/
def State.runVfGrant (s : State) (r : EntryRef) (e : Sqe) (record : List Byte) : State := s.orderedGrant r e record

/-- VF_FREEZE (R427). -/
def State.runVfFreeze (s : State) (r : EntryRef) (e : Sqe) : State := s.vfFreeze r e

/-- VF_SAVE (R429). -/
def State.runVfSave (s : State) (r : EntryRef) (e : Sqe) : State := s.vfSave r e

/-- VF_RESTORE (R431). -/
def State.runVfRestore (s : State) (r : EntryRef) (e : Sqe) (blob : List Byte) : State := s.vfRestore r e blob

/-- VF_THAW (R432). -/
def State.runVfThaw (s : State) (r : EntryRef) (e : Sqe) : State := s.vfThaw r e

/-- ENGINE_RESTART (R389). -/
def State.runEngineRestart (s : State) (r : EntryRef) (e : Sqe) : State := s.engineRestart r (sqeF e 1 0 4)

/-- AUDIT_START (R262, R292). -/
def State.runAuditStart (s : State) (r : EntryRef) (e : Sqe) : State := s.runOrdered r e .none

/-- PAIR_ROLE QUERY (R313). -/
def State.runPairQuery (s : State) (r : EntryRef) (e : Sqe) : State := s.pairQuery r e

/-- PAIR_ROLE HANDOVER (R303). -/
def State.runPairHandover (s : State) (r : EntryRef) (e : Sqe) : State := s.pairHandover r e

/-- PAIR_ROLE LEAVE (R313). -/
def State.runPairLeave (s : State) (r : EntryRef) (e : Sqe) : State := s.pairLeave r e

/-- PAIR_ROLE JOIN (R313). -/
def State.runPairJoin (s : State) (r : EntryRef) (e : Sqe) : State := s.pairJoin r e

/-- PAIR_ROLE SET_RANK (R313). -/
def State.runPairSetRank (s : State) (r : EntryRef) (e : Sqe) : State := s.pairSetRank r e

/-- PAIR_ROLE BARRIER (R311). -/
def State.runPairBarrier (s : State) (r : EntryRef) (e : Sqe) : State := s.pairBarrier r e

/-- DMA_WINDOW_SET (R379). -/
def State.runDmaWindowSet (s : State) (r : EntryRef) (e : Sqe) : State := s.setWindow r e

/-- Carry out an entry by its opcode. `h` is what it reads from host memory; data of another shape than the opcode takes never comes here. -/
def State.runEntry (s : State) (r : EntryRef) (e : Sqe) (h : HostData) : State :=
  match sqeOpcode e, h with
  | 0x01, _ => s.runNop r e
  | 0x02, _ => s.runFence r e
  | 0x10, _ => s.runBulkOut r e
  | 0x11, _ => s.runBulkIn r e
  | 0x12, _ => s.runControl r e
  | 0x18, _ => s.runTunnelTx r e
  | 0x19, _ => s.runTunnelRx r e
  | 0x20, _ => s.runMove r e
  | 0x21, _ => s.runMoveIndexed r e
  | 0x30, _ => s.runClipPlay r e
  | 0x31, _ => s.runClipStop r e
  | 0x32, _ => s.runTapRecord r e
  | 0x80, _ => s.runCreateSq r e
  | 0x81, _ => s.runDeleteSq r e
  | 0x82, .ringClean clean => s.runCreateCq r e clean
  | 0x83, _ => s.runDeleteCq r e
  | 0x84, _ => s.runIdentify r e
  | 0x85, _ => s.runSetShare r e
  | 0x86, _ => s.runGetLog r e
  | 0x88, _ => s.runEndpointAdd r e
  | 0x89, _ => s.runEndpointRemove r e
  | 0x8A, _ => s.runScheduleCommit r e
  | 0x8C, .image img => s.runGraphLoad r e img
  | 0x8D, _ => s.runGraphSwap r e
  | 0x8E, _ => s.runGroupSet r e
  | 0x90, .bytes record => s.runVfGrant r e record
  | 0x91, _ => s.runVfFreeze r e
  | 0x92, _ => s.runVfSave r e
  | 0x93, .bytes blob => s.runVfRestore r e blob
  | 0x94, _ => s.runVfThaw r e
  | 0x95, _ => s.runEngineRestart r e
  | 0x96, _ => s.runAuditStart r e
  | 0x98, _ => s.runDmaWindowSet r e
  | 0x97, _ => match sqeF e 1 0 3 with
    | 0 => s.runPairQuery r e
    | 1 => s.runPairHandover r e
    | 2 => s.runPairLeave r e
    | 3 => s.runPairJoin r e
    | 4 => s.runPairSetRank r e
    | _ => s.runPairBarrier r e
  | _, _ => s

/-- The host's data has the shape that the opcode reads. -/
def hostFits (e : Sqe) (h : HostData) : Bool :=
  match sqeOpcode e, h with
  | 0x82, .ringClean _ => true
  | 0x8C, .image _ => true
  | 0x90, .bytes _ => true
  | 0x93, .bytes _ => true
  | 0x82, _ => false
  | 0x8C, _ => false
  | 0x90, _ => false
  | 0x93, _ => false
  | _, _ => true

/-! ## ENTRY_START (R353, R355, R356, R365) -/

/-- The function whose admin entry is next: round robin of function number over those that have one cached. -/
def State.adminDue (s : State) : Option Nat :=
  let l := (s.qe.cache.filter (fun x => x.ref.sq == 0)).map (fun x => x.ref.fn.val)
  l.foldl (fun (a : Option Nat) (f : Nat) =>
    let rank (f : Nat) : Nat := (f + 1025 - (s.qe.lastAdmin + 1) % 1025) % 1025
    match a with
    | none => some f
    | some g => if rank f < rank g then some f else some g) none

/-- The cached entry that a ring starts next. -/
def State.dueEntry (s : State) (fn sq : Nat) : Option CacheEnt :=
  if sq = 0 then (if s.adminDue = some fn then (s.cachedOf fn 0).head? else none) else s.nextStart (s.cachedOf fn sq) []

/-- ENTRY_START. -/
def State.entryStart (s : State) (fn sq : Nat) (h : HostData) : State :=
  match s.dueEntry fn sq with
  | none => s
  | some x =>
    if s.entryMay x.ref x.sqe && (s.check x.ref x.sqe != St.ok || hostFits x.sqe h) then
      let s : State := if sq = 0 then { s with qe := { s.qe with lastAdmin := fn } } else s
      s.startEntry x.ref x.sqe (fun s => s.runEntry x.ref x.sqe h)
    else s

/-- Global number of a ring, as UNIT of a capture (R503). -/
def State.sqGlobal (s : State) (f i : Nat) : Nat := ((s.sq f i).map (·.glob)).getD 0

/-- A double-bit error in the entry cache ends the entry that is due with ABORTED (R330, R353, R503). -/
def State.entryLost (s : State) (fn sq : Nat) : State :=
  match s.dueEntry fn sq with
  | none => s
  | some x =>
    if s.entryMay x.ref x.sqe then
      let s : State := if sq = 0 then { s with qe := { s.qe with lastAdmin := fn } } else s
      let s := ((s.bump Reg.QE_ECC_UNCORRECTED).aer fn Aer.internal).captureError 4 7 1 fn (s.sqGlobal fn sq) 0
      let p := placeOf x.ref x.sqe
      ((s.startRec x.ref x.sqe p.1 p.2).complete x.ref x.sqe St.aborted).serveSpace
    else s

/-- ENTRY_START with what the entry cache gives (R353): a single-bit error is corrected and counted. -/
def State.entryRead (s : State) (fn sq : Nat) (h : EntryRead) : State :=
  match h.ecc with
  | none => s.entryStart fn sq h.data
  | some true => s.entryLost fn sq
  | some false =>
    match s.dueEntry fn sq with
    | some x =>
      if s.entryMay x.ref x.sqe then ((s.bump Reg.QE_ECC_CORRECTED).aer fn Aer.corrected).entryStart fn sq h.data else s
    | none => s
def execEntryStart (fn : FnId) (sq : BitVec 11) (h : EntryRead) (s : State) : Out := .next (s.entryRead fn.val sq.toNat h)

/-! ## The rows of the opcodes -/

def execNop (r : EntryRef) (e : Sqe) (s : State) : Out :=
  let e := withOp e 0x01
  .next (s.startWith r e (fun s => s.runNop r e))

def execFence (r : EntryRef) (e : Sqe) (s : State) : Out :=
  let e := withOp e 0x02
  .next (s.startWith r e (fun s => s.runFence r e))

def execBulkOut (r : EntryRef) (e : Sqe) (s : State) : Out :=
  let e := withOp e 0x10
  .next (s.startWith r e (fun s => s.runBulkOut r e))

def execBulkIn (r : EntryRef) (e : Sqe) (s : State) : Out :=
  let e := withOp e 0x11
  .next (s.startWith r e (fun s => s.runBulkIn r e))

def execControl (r : EntryRef) (e : Sqe) (s : State) : Out :=
  let e := withOp e 0x12
  .next (s.startWith r e (fun s => s.runControl r e))

def execTunnelTx (r : EntryRef) (e : Sqe) (s : State) : Out :=
  let e := withOp e 0x18
  .next (s.startWith r e (fun s => s.runTunnelTx r e))

def execTunnelRx (r : EntryRef) (e : Sqe) (s : State) : Out :=
  let e := withOp e 0x19
  .next (s.startWith r e (fun s => s.runTunnelRx r e))

def execMove (r : EntryRef) (e : Sqe) (s : State) : Out :=
  let e := withOp e 0x20
  .next (s.startWith r e (fun s => s.runMove r e))

def execMoveIndexed (r : EntryRef) (e : Sqe) (s : State) : Out :=
  let e := withOp e 0x21
  .next (s.startWith r e (fun s => s.runMoveIndexed r e))

def execClipPlay (r : EntryRef) (e : Sqe) (s : State) : Out :=
  let e := withOp e 0x30
  .next (s.startWith r e (fun s => s.runClipPlay r e))

def execClipStop (r : EntryRef) (e : Sqe) (s : State) : Out :=
  let e := withOp e 0x31
  .next (s.startWith r e (fun s => s.runClipStop r e))

def execTapRecord (r : EntryRef) (e : Sqe) (s : State) : Out :=
  let e := withOp e 0x32
  .next (s.startWith r e (fun s => s.runTapRecord r e))

def execCreateSq (r : EntryRef) (e : Sqe) (s : State) : Out :=
  let e := withOp e 0x80
  .next (s.startWith r e (fun s => s.runCreateSq r e))

def execDeleteSq (r : EntryRef) (e : Sqe) (s : State) : Out :=
  let e := withOp e 0x81
  .next (s.startWith r e (fun s => s.runDeleteSq r e))

def execCreateCq (r : EntryRef) (e : Sqe) (clean : Bool) (s : State) : Out :=
  let e := withOp e 0x82
  .next (s.startWith r e (fun s => s.runCreateCq r e clean))

def execDeleteCq (r : EntryRef) (e : Sqe) (s : State) : Out :=
  let e := withOp e 0x83
  .next (s.startWith r e (fun s => s.runDeleteCq r e))

def execIdentify (r : EntryRef) (e : Sqe) (s : State) : Out :=
  let e := withOp e 0x84
  .next (s.startWith r e (fun s => s.runIdentify r e))

def execSetShare (r : EntryRef) (e : Sqe) (s : State) : Out :=
  let e := withOp e 0x85
  .next (s.startWith r e (fun s => s.runSetShare r e))

def execGetLog (r : EntryRef) (e : Sqe) (s : State) : Out :=
  let e := withOp e 0x86
  .next (s.startWith r e (fun s => s.runGetLog r e))

def execEndpointAdd (r : EntryRef) (e : StageSqe) (s : State) : Out :=
  let x := withOp e.sqe 0x88
  .next (s.startWith r x (fun s => match e.hit with
    | none => s.runEndpointAdd r x
    | some h => if s.meets h then s.stageHit r x h else s.runEndpointAdd r x))

def execEndpointRemove (r : EntryRef) (e : StageSqe) (s : State) : Out :=
  let x := withOp e.sqe 0x89
  .next (s.startWith r x (fun s => match e.hit with
    | none => s.runEndpointRemove r x
    | some h => if s.meets h then s.stageHit r x h else s.runEndpointRemove r x))

def execScheduleCommit (r : EntryRef) (e : Sqe) (s : State) : Out :=
  let e := withOp e 0x8A
  .next (s.startWith r e (fun s => s.runScheduleCommit r e))

def execGraphLoad (r : EntryRef) (e : Sqe) (img : ImageFile) (s : State) : Out :=
  let e := withOp e 0x8C
  .next (s.startWith r e (fun s => s.runGraphLoad r e img))

def execGraphSwap (r : EntryRef) (e : Sqe) (s : State) : Out :=
  let e := withOp e 0x8D
  .next (s.startWith r e (fun s => s.runGraphSwap r e))

def execGroupSet (r : EntryRef) (e : StageSqe) (s : State) : Out :=
  let x := withOp e.sqe 0x8E
  .next (s.startWith r x (fun s => match e.hit with
    | none => s.runGroupSet r x
    | some h => if s.meets h then s.stageHit r x h else s.runGroupSet r x))

def execVfGrant (r : EntryRef) (e : Sqe) (record : List Byte) (s : State) : Out :=
  let e := withOp e 0x90
  .next (s.startWith r e (fun s => s.runVfGrant r e record))

def execVfFreeze (r : EntryRef) (e : Sqe) (s : State) : Out :=
  let e := withOp e 0x91
  .next (s.startWith r e (fun s => s.runVfFreeze r e))

def execVfSave (r : EntryRef) (e : Sqe) (s : State) : Out :=
  let e := withOp e 0x92
  .next (s.startWith r e (fun s => s.runVfSave r e))

def execVfRestore (r : EntryRef) (e : Sqe) (blob : List Byte) (s : State) : Out :=
  let e := withOp e 0x93
  .next (s.startWith r e (fun s => s.runVfRestore r e blob))

def execVfThaw (r : EntryRef) (e : Sqe) (s : State) : Out :=
  let e := withOp e 0x94
  .next (s.startWith r e (fun s => s.runVfThaw r e))

def execEngineRestart (r : EntryRef) (e : Sqe) (s : State) : Out :=
  let e := withOp e 0x95
  .next (s.startWith r e (fun s => s.runEngineRestart r e))

def execAuditStart (r : EntryRef) (e : Sqe) (s : State) : Out :=
  let e := withOp e 0x96
  .next (s.startWith r e (fun s => s.runAuditStart r e))

def execPairQuery (r : EntryRef) (e : Sqe) (s : State) : Out :=
  let e := withAction e 0
  .next (s.startWith r e (fun s => s.runPairQuery r e))

def execPairHandover (r : EntryRef) (e : Sqe) (s : State) : Out :=
  let e := withAction e 1
  .next (s.startWith r e (fun s => s.runPairHandover r e))

def execPairLeave (r : EntryRef) (e : Sqe) (s : State) : Out :=
  let e := withAction e 2
  .next (s.startWith r e (fun s => s.runPairLeave r e))

def execPairJoin (r : EntryRef) (e : Sqe) (s : State) : Out :=
  let e := withAction e 3
  .next (s.startWith r e (fun s => s.runPairJoin r e))

def execPairSetRank (r : EntryRef) (e : Sqe) (s : State) : Out :=
  let e := withAction e 4
  .next (s.startWith r e (fun s => s.runPairSetRank r e))

def execPairBarrier (r : EntryRef) (e : Sqe) (s : State) : Out :=
  let e := withAction e 5
  .next (s.startWith r e (fun s => s.runPairBarrier r e))

def execDmaWindowSet (r : EntryRef) (e : Sqe) (s : State) : Out :=
  let e := withOp e 0x98
  .next (s.startWith r e (fun s => s.runDmaWindowSet r e))

end Sys2Proof.Machine
end

