-- ==== Sys2Proof/Machine/Power.lean ====
section
/-! DEFINITION. The commands of the power management unit (R442 to R460): sleep requests, SATIN, DORMANT, operating points. -/

namespace Sys2Proof.Machine

/-! ## Sleep requests (R443, R449, R454) -/

/-- The device is returning from SATIN and is not yet RESTORED. -/
def State.returningSatin (s : State) : Bool := if s.inSatin then s.returnPending else !s.flag Reg.PMU_STATUS_RESTORED && !s.inDormant

/-- The preconditions of DORMANT (R454). -/
def State.dormantReady (s : State) : Bool :=
  s.qe.started.isEmpty && s.f Reg.BM_STATUS_BUSY == 0 &&
    s.xb.views.all (fun v => v.2.queue.isEmpty && v.2.open_.isNone && v.2.lock.isNone) &&
    !s.flag Reg.TS_STATUS_COMMIT_PENDING && !s.flag Reg.MRE_STATUS_SWAP_PENDING

/-- A request for SATIN is accepted (R449): a running audit ends, the operating points are saved, and E is fixed. On a PARTNER the
HOLDER fixes it. -/
def State.acceptSatin (s : State) : State :=
  let s := s.abortAudit
  let s := s.savePoints
  let e := frameFrom (s.markAfter 8)
  if s.lockstep then (s.pairSwitch true).updPm (fun p => { p with entryAt := some (if s.isPartner then 2 ^ 48 else e) })
  else s.updPm (fun p => { p with entryAt := some e })

/-- A request for DORMANT is accepted (R454, R455): cached entries go back to their rings, and a device in a pair abdicates. -/
def State.acceptDormant (s : State) : State :=
  let s := s.qe.sqs.foldl (fun (s : State) (x : Nat × Option SqRec) =>
    let s := s.when (!(s.cachedOf (x.1 / 2048) (x.1 % 2048)).isEmpty) (fun s => s.keepDoorbell (x.1 / 2048) (x.1 % 2048))
    s.discardCached (x.1 / 2048) (x.1 % 2048)) s
  s.abdicate.updPm (fun p => { p with entryAt := some (s.markAfter 2) })

/-- A write of TARGET to PMU_REQ (R443): `src` is the wake source that a request for ACTIVE is; it starts the return (R451) where that
source is disabled too, without a wake. -/
def State.requestSleep (s : State) (target : Nat) (src : WakeSource) : State :=
  if s.flag Reg.PMU_REQ_STATUS_BUSY then s.setB Reg.PMU_REQ_STATUS_REFUSED true
  else
    let s := (s.setF Reg.PMU_REQ_STATUS_TARGET target).setB Reg.PMU_REQ_STATUS_BUSY true
    if target = 0 ∨ 3 < target then s.endRequest St.malformed
    else if target = 1 then
      if !s.inSatin then s.endRequest St.malformed
      else if s.returnPending then s.endRequest St.aborted
      else if s.wakeEnabled src then s.wake src
      else s.startReturn
    else if s.returningSatin then s.endRequest St.aborted
    else if target = 2 then
      if s.inSatin then s.endRequest St.ok else if s.inDormant then s.endRequest St.aborted else s.acceptSatin
    else if s.inDormant then s.endRequest St.ok
    else if s.dormantReady then s.acceptDormant
    else s.endRequest St.aborted

/-- REQUEST_SATIN, REQUEST_DORMANT and REQUEST_ACTIVE: the PF writes PMU_REQ. -/
def execRequestSatin (s : State) : Out := .next (s.pfWrite Reg.PMU_REQ (fun s => s.requestSleep 2 .request))
def execRequestDormant (s : State) : Out := .next (s.pfWrite Reg.PMU_REQ (fun s => s.requestSleep 3 .request))
def execRequestActive (s : State) : Out := .next (s.pfWrite Reg.PMU_REQ (fun s => s.requestSleep 1 .request))

/-- PME_TURN_OFF (R320, R443, R459): with PMU_POLICY.TURN_OFF it requests DORMANT as PME_TO_Ack is sent. -/
def execPmeTurnOff (s : State) : Out :=
  .next (s.pmeTurnOff.when (!s.fn.l23 && s.flag Reg.PMU_POLICY_TURN_OFF) (fun s => s.requestSleep 3 .request))

/-! ## SATIN (R449 to R451) -/

/-- The pass of the entry runs priority 0 only (R224, R449): the operations of general nodes that wait go with their places in their flows,
and what stood behind them there is released. -/
def State.cutGeneral (s : State) (m : Nat) : State :=
  let gen (n : Nat) : Bool := match s.node n with | some nd => nd.prio != 0 | none => false
  let runs (n : Nat) : Bool := s.gd.gpes.any (fun x => match x.2 with | some q => q.node == n | none => false)
  let going (r : RelRec) : Bool := s.gd.gpes.any (fun x => x.2.any (fun q => q.node == r.node && q.pass == r.pass))
  let s : State := { s with gd := { s.gd with
    queue := s.gd.queue.filter (fun q => !gen q.node)
    spills := s.gd.spills.filter (fun x => !gen x.1)
    busy := s.gd.busy.filter (fun n => !gen n || runs n)
    flows := s.gd.flows.foldl (fun (t : Tbl (List RelRec)) (x : Nat × List RelRec) =>
      Tbl.set (fun _ => []) t x.1 (x.2.filter (fun r => !(gen r.node && (decide (m ≤ r.pass) || !(r.done || going r)))))) s.gd.flows } }
  let s := s.gd.flows.foldl (fun (s : State) (x : Nat × List RelRec) => s.release x.1) s
  (s.forAll [1, 2, 3, 4, 5, 6, 7] (fun s q => s.showQ q)).alignNodes m false false

/-- The walkers take up the walk of microframe `m` in the device's new state (R136, R449, R451). -/
def State.replan (s : State) (m : Nat) : State :=
  s.forAll (List.range 192) (fun s t =>
    let w := s.walk t
    s.setWalk t { w with deferred := if s.inSatin then w.deferred.filter (·.emerg) else w.deferred
                         rest := if s.walks t m then s.walkDue t m else [] })

/-- The lanes of a trunk enter LPI (R86, R93): 16 LPI blocks, then quiet; adaptation is frozen. A slot that runs on the trunk is over. -/
def State.enterLpi (s : State) (t : Nat) : State :=
  let l := (s.lanesOf t).filter (fun n => s.laneState n == 3 || s.laneState n == 4)
  if l.isEmpty then s
  else
    let s := s.updTrunk t (fun r => if r.slotOn then { r with slot := none, slotOn := false, slotReq := false, slotLanes := [] } else r)
    l.foldl (fun s n => (s.setLane n Ls.lpi).setB (Reg.LX_LANE_STATUS_ADAPT_FROZEN n) true) (s.emit (.ctl t Ct.lpi (16 * s.width t)))

/-- SATIN_ENTRY (R93, R136, R224, R226, R261, R269, R449): at the mark of E. An audit that still runs ends. Nodes that wait only for those
that run no more become ready. A wake that came at E or later begins the return (R444). -/
def State.enterSatin (s : State) : State :=
  let s := s.abortAudit
  let own := s.flag Reg.PMU_REQ_STATUS_BUSY && s.pm.entryAt.isSome && s.f Reg.PMU_REQ_STATUS_TARGET == 2
  let dsp := s.f Reg.PMU_STATUS_DSP_FOP
  let s := (s.updPm (fun p => { p with entryAt := none, sleptAt := some s.now, steps := false, step1At := none, dvfs := none })).updPu
    (fun u => { u with switchAt := none })
  let s := ((s.setF Reg.PMU_STATUS_STATE 2).setB Reg.PMU_STATUS_RESTORED false).setB Reg.PMU_DVFS_STATUS_BUSY false
  let s := ((s.setB Reg.MRE_STATUS_P0_ONLY true).setB Reg.TS_STATUS_SATIN_WALK true).setB Reg.SV_STATUS_SATIN_MODE true
  let s := ((s.setPoints 2 2).when (dsp != 2) (fun s => s.markOp)).obsUpd (fun o => { o with satin := true })
  let s := (s.trunks.filter s.portEnabled).foldl (fun s t =>
    s.enterLpi t) s
  let s := ((s.cutGeneral s.mfN).replan s.mfN).endWaits
  let s := s.offer s.nodes
  (if own then s.endRequest St.ok else s).wakeLate
def execSatinEntry (s : State) : Out := .next (if s.satinDue_ then s.enterSatin else s)

/-- The time asleep in ms, as PMU_SLEEP_TIME shows it. -/
def State.showSleep (s : State) : State :=
  match s.pm.sleptAt with
  | some t => s.setReg Reg.PMU_SLEEP_TIME (BitVec.ofNat 32 ((s.now - t) / 25000))
  | none => s

/-- The lanes of a trunk leave LPI at a mark (R78, R93), each behind a MARKER: one that turned on for this mark has sent it. -/
def State.leaveLpi (s : State) (t : Nat) : State :=
  let l := (s.lanesOf t).filter (fun n => s.laneState n == Ls.lpi)
  l.foldl (fun s n => s.setLane n Ls.up) (s.lanesOn t (l.filter (fun n => decide ((s.lane n).markerAt + 250 < s.now))))

/-- SATIN_RETURN_STEP1 (R93, R244, R451): at the second mark after the wake, or the frame mark of R294. -/
def State.satinStep1 (s : State) : State :=
  let c := s.pm.savedCore
  let s := (s.showSleep.updPm (fun p => { p with step1At := none, sleptAt := none, steps := true })).updPu (fun u => { u with switchAt := none })
  let s := ((s.setF Reg.PMU_STATUS_STATE 0).setF Reg.PMU_STATUS_CORE_FOP c).setF Reg.PMU_STATUS_CORE_VOP s.pm.savedCoreV
  let s := ((s.setB Reg.TS_STATUS_SATIN_WALK false).setB Reg.SV_STATUS_SATIN_MODE false).showSteady
  let s := (s.trunks.filter s.portEnabled).foldl (fun s t => s.leaveLpi t) s
  (s.replan s.mfN).holdTimers false
def execSatinReturnStep1 (s : State) : Out :=
  let due := (match s.pm.step1At with | some x => decide (x ≤ s.mfN) | none => false) ||
    (match s.pu.switchAt with | some (false, x) => decide (x ≤ s.mfN) | _ => false)
  .next (if s.inSatin && due then s.satinStep1 else s)

/-- SATIN_RETURN_STEP2 (R451): the general partition is powered, and the DSP point restored; a request for ACTIVE completes. -/
def State.satinStep2 (s : State) : State :=
  let d := s.pm.savedDsp
  let was := s.f Reg.PMU_STATUS_DSP_FOP
  let s := s.updPm (fun p => { p with steps := false })
  let s := ((s.setF Reg.PMU_STATUS_DSP_FOP d).setF Reg.PMU_STATUS_DSP_VOP s.pm.savedDspV).when (was != d) (fun s => s.markOp)
  let s := (s.setB Reg.PMU_STATUS_RESTORED true).showSteady
  if s.flag Reg.PMU_REQ_STATUS_BUSY ∧ s.f Reg.PMU_REQ_STATUS_TARGET = 1 then s.endRequest St.ok else s
def execSatinReturnStep2 (s : State) : Out := .next (if s.pm.steps && !s.inSatin && !s.inDormant then s.satinStep2 else s)

/-! ## DORMANT (R453 to R458) -/

/-- Held completions, held events and event backlogs are discarded and counted (R455). -/
def State.discardHeld (s : State) : State :=
  let cq : Nat := s.qe.cqs.foldl (fun (n : Nat) (x : Nat × Option CqRec) => match x.2 with
    | some c => n + c.hold.length + c.waiting.length
    | none => n) 0
  let vf : Nat := s.fn.vfs.foldl (fun (n : Nat) (x : Nat × VfRec) => n + x.2.held.length) 0
  let n := cq + vf + s.tree.held.length + s.tree.kept.length + s.sv.held.length + s.pu.held.length + s.pu.latest.length
  let s := s.bump Reg.PMU_DISCARDED_COUNT n
  let s := s.qe.cqs.foldl (fun (s : State) (x : Nat × Option CqRec) =>
    s.updCq (x.1 / 2048) (x.1 % 2048) (fun c => { c with hold := [], waiting := [] })) s
  let s := s.forAll (s.fn.vfs.map (·.1)) (fun s v => s.updVf v (fun r => { r with held := [] }))
  let s := s.qe.sqs.foldl (fun (s : State) (x : Nat × Option SqRec) => s.finishIdle (x.1 / 2048) (x.1 % 2048)) s
  let s : State := { s with tree := { s.tree with held := [], kept := [] }, sv := { s.sv with held := [] } }
  (s.setB Reg.SV_STATUS_EVENT_BACKLOG false).updPu (fun u => { u with held := [], latest := [] })

/-- The graph, node state and stream buffers, dispatcher queues and line estimates are lost; timers are kept (R185, R244, R261, R453). -/
def State.loseGraph (s : State) : State :=
  let gens := s.mre.gens.foldl (fun (t : Tbl GenSt) (x : Nat × GenSt) => Tbl.set (fun _ => GenSt.zero) t x.1 { x.2 with out := [] }) s.mre.gens
  let mre : MreSt := { s.mre with image := none, staged := none, patches := [], swap := none, nodes := [], streams := [], gens := gens
                                  taps := [], faulted := [], feeds := [], on := false, casc := [], missed := [] }
  let gd : DispSt := { s.gd with queue := [], spills := [], held := [], gpes := [], next := [], busy := [], last := [], flows := [], obs := none, obsEnd := none }
  let s : State := { s with mre := mre, gd := gd, sv := { s.sv with lines := [], audit := none, hist := [] } }
  let s := ((s.setB Reg.MRE_STATUS_GRAPH_VALID false).setReg Reg.MRE_STAGED_ID 0).setF Reg.MRE_FAULTED_NODES_COUNT 0
  (s.forAll (List.range 8) (fun s q => s.showQ q)).showRelease.showLines

/-- What the TM and the bus had in progress is lost (R453). -/
def State.dropBus (s : State) : State :=
  let s := s.bus.xfers.foldl (fun (s : State) (x : Nat × Option Xfer) => s.dropXfer x.1) s
  let s : State := { s with
    bus := { s.bus with per := [], np := [], quarantine := [], splits := [], xfers := [] }
    tree := { s.tree with enums := [], todo := [], waiting := [] }
    ebm := { s.ebm with waits := [] } }
  s.showEnum

/-- DORMANT_ENTRY (R106, R269, R341, R453, R455): at the mark of E. -/
def State.enterDormant (s : State) : State :=
  let s := if s.role ≠ 0 ∨ s.pstate ≠ 0 then s.pairStop else s
  let s := s.abortAudit
  let ports := s.trunks.filter s.portEnabled
  let s := ports.foldl (fun s p => s.portSuspend p) (s.updPm (fun p => { p with ports := ports }))
  let s := s.dropBus.loseGraph.discardHeld
  let s := s.updPm (fun p => { p with entryAt := none, sleptAt := some s.now, step1At := none, steps := false, dvfs := none, returning := none })
  let s := s.updPu (fun u => { u with switchAt := none })
  let s : State := { s with time := { s.time with run := false }, ebm := { s.ebm with powered := false }
                            fn := { s.fn with lostAt := some s.now } }
  let s := ((s.setB Reg.PMU_STATUS_LOGIC_RDY false).setB Reg.PMU_STATUS_MEM_RDY false).setB Reg.PMU_STATUS_OSC_RDY false
  let s := ((s.setB Reg.PMU_STATUS_PWR_RDY false).setB Reg.PMU_DVFS_STATUS_BUSY false).setF Reg.PMU_STATUS_STATE 3
  let s := ((s.setB Reg.TS_STATUS_SATIN_WALK false).setB Reg.SV_STATUS_SATIN_MODE false).setB Reg.MRE_STATUS_P0_ONLY false
  let s := ((s.setB Reg.HIF_STATUS_LINK_UP false).setF Reg.HIF_LINK_STATUS_SPEED 0).setF Reg.HIF_LINK_STATUS_WIDTH 0
  ((s.abandon.updCk (fun c => { c with cascade := false, miodel := false })).endRequest St.ok).wakeLate
def execDormantEntry (s : State) : Out :=
  let due := match s.pm.entryAt with | some e => decide (e ≤ s.mfN) | none => false
  .next (if s.dormantPending && due && !s.inDormant then s.enterDormant else s)

/-! ## Wakes (R444, R460) -/

/-- WAKE_EVENT: a write of TARGET 1 that finds a request in progress is refused (R443), and wakes nothing. In DORMANT the management port, wake signalling with its squelch detectors, the release of PERST_N and the alarm are
seen. -/
def State.wakeEvent (s : State) (w : WakeSource) : State :=
  if s.inDormant then
    match w with
    | .mgt | .pcie | .alarm => s.wake w
    | .lybor => if s.flag Reg.PMU_POLICY_LYBOR_SQUELCH then s.wake w else s
    | .emerg | .request => s
  else
    match w with
    | .mgt | .request => if s.flag Reg.PMU_REQ_STATUS_BUSY then s.setB Reg.PMU_REQ_STATUS_REFUSED true else s.wake w
    | _ => s.wake w
def execWakeEvent (src : WakeSource) (s : State) : Out := .next (s.wakeEvent src)

/-- ALARM_EXPIRY: PMU_ALARM ms after the entry point of SATIN or DORMANT; in DORMANT only AON counts. -/
def State.alarm (s : State) : State :=
  let ms := (s.reg Reg.PMU_ALARM).toNat
  let late : Bool := match s.pm.sleptAt with | some t => s.inDormant || decide (t + ms * 25000 ≤ s.now) | none => false
  if ms ≠ 0 ∧ (s.inSatin ∨ s.inDormant) ∧ late then s.wake .alarm else s
def execAlarmExpiry (s : State) : Out := .next s.alarm

/-! ## The return from DORMANT (R180, R185, R456 to R458) -/

/-- PWR_RDY, OSC_RDY (R456): each step starts when the one before it has asserted its signal. -/
def execPwrRdy (s : State) : Out := .next (if s.inDormant && s.pm.returning.isSome then s.setB Reg.PMU_STATUS_PWR_RDY true else s)
def execOscRdy (s : State) : Out := .next (if s.inDormant && s.flag Reg.PMU_STATUS_PWR_RDY then s.setB Reg.PMU_STATUS_OSC_RDY true else s)

/-- The contexts that hold anything, by handle. -/
def State.liveContexts (s : State) : List Nat :=
  ((s.ebm.mem.filter (fun x => decide (x.1 < 0x02000000))).map (fun x => x.1 / 32)).eraseDups

/-- MEM_RDY (R180): banks that were not retained are zero with valid check bits, and the slots of every context and group are empty. A bad word of the
delay pool is named by its number, eight bytes each. -/
def State.ebmReturns (s : State) : State :=
  let keep (a : Nat) : Bool := nbit (s.reg Reg.EBM_RETAIN).toNat (a / 0x400000)
  let s : State := { s with ebm := { s.ebm with mem := Tbl.keep keep s.ebm.mem, poison := s.ebm.poison.filter (fun w => keep (w * 8)), powered := true } }
  let s : State := { s with ebm := { s.ebm with groupSlots := s.ebm.groupSlots.map (fun (x : Nat × GroupSlot) =>
    (x.1, { x.2 with v0 := false, v1 := false })) } }
  s.forAll s.liveContexts (fun s h =>
    if s.cf h Cx.valid = 0 then s
    else if s.cf h Cx.kind = 0 then (((s.setCf h (Cx.v 0) 0).setCf h (Cx.v 1) 0).setCf h (Cx.rd 0) 0).setCf h (Cx.rd 1) 0
    else (s.setCf h Cx.full 0).setCf h Cx.granules 0)
def execMemRdy (s : State) : Out :=
  .next (if s.inDormant && s.flag Reg.PMU_STATUS_OSC_RDY && !s.flag Reg.PMU_STATUS_MEM_RDY then
    s.ebmReturns.setB Reg.PMU_STATUS_MEM_RDY true else s)

/-- The gated accesses that AON has kept and counted are applied (R462, R504). -/
def State.applyAon (s : State) : State :=
  let n := s.pm.aonCount
  let s' := match s.pm.aonGate with
    | some (a, fn, path, w) => (s.gatedAccess a fn path w).bump Reg.GLB_ERR_COUNT_GATED (n - 1)
    | none => s
  s'.updPm (fun p => { p with aonGate := none, aonCount := 0 })

/-- LOGIC_RDY (R304, R341, R456 to R458): ACTIVE at OP0. `mf` microframes have been slept through; a device of a pair or cascade takes
its number from its source before its first mark. -/
def State.logicReady (s : State) (mf : Nat) (ms : Word) : State :=
  let src := s.pm.returning.getD 0
  let ports := s.pm.ports
  let s := ((s.setPoints 0 0).setF Reg.PMU_STATUS_STATE 0).setB Reg.PMU_STATUS_RESTORED true
  let s := (s.setB Reg.PMU_STATUS_LOGIC_RDY true).setReg Reg.PMU_SLEEP_TIME ms
  let s : State := { s with time := { tick := s.time.tick + BitVec.ofNat 64 (Config.mfTicks * mf), mf := s.time.mf + BitVec.ofNat 48 mf
                                      phase := 0, run := true, cutOff := false, marked := false } }
  let s := (s.setReg Reg.PMU_WAKE_MF_LO (BitVec.ofNat 32 s.mfN)).setReg Reg.PMU_WAKE_MF_HI (BitVec.ofNat 32 (s.mfN / 2 ^ 32))
  let s := ((s.updPm (fun p => { p with returning := none, ports := [], sleptAt := none })).holdTimers true).applyAon.reselect
  let s := if src ≠ 3 ∧ (s.fnRec 0).pmeEn ∧ !s.flag Reg.HIF_STATUS_LINK_UP then { s with fn := { s.fn with wakeN := true } } else s
  let s := ports.foldl (fun s p => s.portResume p false) s
  let s := if s.flag Reg.PU_CTRL_EN then s.pairStart else s
  (if s.f Reg.PU_STATUS_TIME_SRC = 0 then s.freeRun else s).tmBegins
def execLogicRdy (asleepMf : MfNum) (asleepMs : Word) (s : State) : Out :=
  .next (if s.inDormant && s.flag Reg.PMU_STATUS_MEM_RDY then s.logicReady asleepMf.toNat asleepMs else s)

/-! ## Operating points (R445 to R448) -/

/-- The fields of a domain: frequency point and voltage point. -/
def fopOf (d : Nat) : Fld := if d = 0 then Reg.PMU_STATUS_CORE_FOP else Reg.PMU_STATUS_DSP_FOP
def vopOf (d : Nat) : Fld := if d = 0 then Reg.PMU_STATUS_CORE_VOP else Reg.PMU_STATUS_DSP_VOP

/-- A node of priority 1 to 7 runs. -/
def State.generalRuns (s : State) : Bool := s.mre.on && s.nodes.any (fun x => x.2.prio != 0 && s.runs x.2)

/-- REASON for which a step is refused, 0 for none (R446, R447). -/
def State.dvfsReason (s : State) (d kind op : Nat) : Nat :=
  if s.flag Reg.PMU_DVFS_STATUS_BUSY then 2
  else if s.inSatin || !s.flag Reg.PMU_STATUS_RESTORED then 4
  else if op = 3 then 5
  else if kind = 0 ∧ s.f (fopOf d) < op ∨ kind = 1 ∧ op < s.f (vopOf d) then 1
  else if kind = 1 ∧ d = 1 ∧ op ≠ s.f (fopOf d) ∧ s.f Reg.MRE_ADMIT_CFG_OP < op ∧ s.generalRuns then 3
  else 0

/-- A write to PMU_DVFS: a frequency step is complete within 100 ns, a voltage step when the regulator reports it. -/
def State.dvfsStep (s : State) (d kind op : Nat) : State :=
  let why := s.dvfsReason d kind op
  if why ≠ 0 then
    let s := ((s.setB Reg.PMU_DVFS_STATUS_REFUSED true).setF Reg.PMU_DVFS_STATUS_REASON why).setF Reg.PMU_DVFS_STATUS_DOMAIN d
    ((s.setF Reg.PMU_DVFS_STATUS_KIND kind).setF Reg.PMU_DVFS_STATUS_OP op).bump Reg.PMU_DVFS_STATUS_REFUSALS
  else if kind = 1 then
    if s.f (fopOf d) = op then s else ((s.setF (fopOf d) op).when (d == 1) (fun s => s.markOp)).showSteady
  else if s.f (vopOf d) = op then s
  else (s.updPm (fun p => { p with dvfs := some (d, kind, op) })).setB Reg.PMU_DVFS_STATUS_BUSY true

/-- Number of a domain. -/
def domainNo : DvfsDomain → Nat
  | .core => 0
  | .dsp => 1

def execDvfsVoltageStep (d : DvfsDomain) (op : BitVec 2) (s : State) : Out :=
  .next (s.pfWrite Reg.PMU_DVFS (fun s => s.dvfsStep (domainNo d) 0 op.toNat))
def execDvfsFrequencyStep (d : DvfsDomain) (op : BitVec 2) (s : State) : Out :=
  .next (s.pfWrite Reg.PMU_DVFS (fun s => s.dvfsStep (domainNo d) 1 op.toNat))

/-- DVFS_VOLTAGE_DONE (R448). -/
def State.dvfsDone (s : State) : State :=
  match s.pm.dvfs with
  | some (d, _, op) =>
    ((((s.updPm (fun p => { p with dvfs := none })).setF (vopOf d) op).setB Reg.PMU_DVFS_STATUS_BUSY false).when (d == 1)
      (fun s => s.markOp)).showSteady
  | none => s
def execDvfsVoltageDone (s : State) : Out := .next s.dvfsDone

/-! ## Temperature (R494) -/

/-- TEMP_SAMPLE: TEMP is signed; ABOVE holds from THRESH °C on until TEMP is below THRESH − 2 °C, and its rise sets CROSSED. -/
def State.tempSample (s : State) (c : Int) : State :=
  let thresh : Int := s.f Reg.GLB_THERM_THRESH
  let was := s.flag Reg.GLB_THERM_ABOVE
  let above := decide (thresh ≤ c) || (was && decide (thresh - 2 ≤ c))
  let s := (s.setF Reg.GLB_THERM_TEMP (BitVec.ofInt 9 c).toNat).setB Reg.GLB_THERM_ABOVE above
  if above && !was then s.setB Reg.GLB_THERM_CROSSED true else s
def execTempSample (celsius : BitVec 9) (s : State) : Out := .next (s.tempSample celsius.toInt)

end Sys2Proof.Machine
end

