-- ==== Sys2Proof/Machine/Boot.lean ====
section
/-! DEFINITION. References, resets, boot, the RSQ watchdog and the flash (R459, R465 to R478). -/

namespace Sys2Proof.Machine

/-! ## Reference sources (R465, R466) -/

/-- The root PLL has locked to REFCLK: the timebase starts (R26), and the device free-runs until it follows a source. -/
def State.lockRoot (s : State) : State :=
  let s := (s.setB Reg.CKG_STATUS_ROOT_LOCK true).setF Reg.CKG_STATUS_SRC 0
  State.freeRun { s with time := { s.time with run := true } }

/-- REFERENCE_ACQUIRED: a source becomes present, and may be selected; the first lock is to REFCLK. -/
def State.refAcquired (s : State) (r : RefSource) : State :=
  match r with
  | .cascade => (s.updCk (fun c => { c with cascade := true })).reselect
  | .miodel => (s.updCk (fun c => { c with miodel := true })).reselect
  | .refclk =>
    let s := (s.updCk (fun c => { c with refclk := true })).setB Reg.CKG_STATUS_REFCLK_PRESENT true
    if s.flag Reg.CKG_STATUS_ROOT_LOCK then s.reselect else if s.ck.porst then s else s.lockRoot
def execReferenceAcquired (src : RefSource) (s : State) : Out := .next (s.refAcquired src)

/-- The source is present. -/
def State.refPresent (s : State) (r : RefSource) : Bool :=
  match r with
  | .cascade => s.ck.cascade
  | .miodel => s.ck.miodel
  | .refclk => s.ck.refclk

/-- REFERENCE_LOST: a present source is lost; the attenuator switches or holds over when it was in use. -/
def State.refLost (s : State) (r : RefSource) : State :=
  if s.refPresent r then
    let s := match r with
      | .cascade => s.updCk (fun c => { c with cascade := false })
      | .miodel => s.updCk (fun c => { c with miodel := false })
      | .refclk => (s.updCk (fun c => { c with refclk := false })).setB Reg.CKG_STATUS_REFCLK_PRESENT false
    (s.bump Reg.CKG_REF_EVENTS_LOSSES).reselect
  else s
def execReferenceLost (src : RefSource) (s : State) : Out := .next (s.refLost src)

/-! ## Flash (R472, R474) -/

/-- First byte and size of a slot, and the size of the header. -/
def slotBase (i : Nat) : Nat := if i = 0 then 0x010000 else 0x800000
def slotSize (i : Nat) : Nat := if i = 0 then 0x7F0000 else 0x800000

/-- Bytes of the flash: erased ones read 0xFF. -/
def State.flashBytes (s : State) (a n : Nat) : List Byte := Tbl.readBytes 0xFF s.ck.flash a n
def State.flashWrite (s : State) (a : Nat) (b : List Byte) : State :=
  s.updCk (fun c => { c with flash := Tbl.writeBytes 0xFF c.flash a b })

/-- Bytes of a PROGRAM's page, and of an ERASE's sector. -/
def flashUnit (op : Nat) : Nat := if op = 2 then 0x10000 else 256

/-- A reset interrupts a flash command: the page or sector that it was changing is undefined. -/
def State.flashCut (s : State) : State :=
  match s.ck.flashOp with
  | some (op, a) =>
    let s := s.updCk (fun c => { c with flashOp := none })
    if op = 0 then s
    else
      let n := flashUnit op
      let b := (List.range n).map (fun i => Config.freeByte (s.free + i))
      State.flashWrite { s with free := s.free + n } (a / n * n) b
  | none => s

/-- A write to RSQ_FLASH_CMD starts a command, unless one is in progress. -/
def State.flashStart (s : State) (op : Nat) : State :=
  if s.flag Reg.RSQ_FLASH_STATUS_BUSY ∨ op = 3 then s
  else (s.updCk (fun c => { c with flashOp := some (op, s.f Reg.RSQ_FLASH_ADDR_ADDR) })).setB Reg.RSQ_FLASH_STATUS_BUSY true
def execFlashRead (s : State) : Out := .next (s.pfWrite Reg.RSQ_FLASH_CMD (fun s => s.flashStart 0))
def execFlashProgram (s : State) : Out := .next (s.pfWrite Reg.RSQ_FLASH_CMD (fun s => s.flashStart 1))
def execFlashErase (s : State) : Out := .next (s.pfWrite Reg.RSQ_FLASH_CMD (fun s => s.flashStart 2))

/-- The address lies in the flash header, or in the slot that booted. -/
def State.flashKept (s : State) (a : Nat) : Bool :=
  let i := s.f Reg.RSQ_STATUS_BOOT_SLOT
  decide (a < 0x10000) || (!s.flag Reg.RSQ_STATUS_NO_IMAGE && decide (slotBase i ≤ a ∧ a < slotBase i + slotSize i))

/-- STATUS of a flash command. -/
def State.flashStatus (s : State) (op a : Nat) : Nat :=
  if a % flashUnit op ≠ 0 then St.align
  else if op ≠ 0 ∧ s.flashKept a then St.outOfGrant
  else St.ok

/-- The buffer RSQ_FLASH_BUF as 256 bytes, and written from them. -/
def State.flashBuf (s : State) : List Byte := (List.range 64).flatMap (fun i => leBytes 4 (s.reg (Reg.RSQ_FLASH_BUF i)).toNat)
def State.setFlashBuf (s : State) (b : List Byte) : State :=
  s.forAll (List.range 64) (fun s i => s.setReg (Reg.RSQ_FLASH_BUF i) (BitVec.ofNat 32 (field b (4 * i) 4)))

/-- FLASH_COMMAND_DONE: the command in progress ends; it waits while RSQ restarts, or is halted. -/
def State.flashDone (s : State) : State :=
  match s.ck.flashOp with
  | some (op, a) =>
    if s.ck.rsqRestart ∨ s.flag Reg.RSQ_STATUS_RSQ_FAILED then s
    else
      let st := s.flashStatus op a
      let s := s.updCk (fun c => { c with flashOp := none })
      let s := ((s.setB Reg.RSQ_FLASH_STATUS_BUSY false).setB Reg.RSQ_FLASH_STATUS_DONE true).setF Reg.RSQ_FLASH_STATUS_STATUS st
      if st ≠ St.ok then s
      else
        let s := s.emit (.flash op a)
        match op with
        | 0 => s.setFlashBuf (s.flashBytes a 256)
        | 1 => s.flashWrite a s.flashBuf
        | _ => s.flashWrite a (List.replicate 0x10000 0xFF)
  | none => s
def execFlashCommandDone (s : State) : Out := .next s.flashDone

/-! ## Cold reset and OFF (R459, R467, R468, R471, R475) -/

/-- What every reset of the whole device leaves as it is: the commands that wait and what has been put out, the levels at the pins, the
flash, and the reference that runs. -/
def State.wiped (s : State) : State :=
  let s := s.flashCut
  let ports := s.tree.ports.foldl (fun (t : Tbl PortRec) (x : Nat × PortRec) =>
    Tbl.set (fun _ => PortRec.reset) t x.1 { PortRec.reset with sense := x.2.sense }) []
  let r := { State.reset with
    pending := s.pending, free := s.free, out := s.out, tree := { State.reset.tree with ports := ports }
    ck := { ClockSt.zero with refclk := s.ck.refclk, porst := s.ck.porst, perst := s.ck.perst, flash := s.ck.flash } }
  (r.setReg Reg.GLB_GPIO_IN (s.reg Reg.GLB_GPIO_IN)).setB Reg.CKG_STATUS_REFCLK_PRESENT s.ck.refclk

/-- COLD_RESET: at once, and everything. -/
def State.coldReset (s : State) : State := s.wiped.updCk (fun c => { c with porst := true })
def execColdReset (s : State) : Out := .next s.coldReset

/-- SUPPLY_LOSS: the device is OFF until a cold reset. -/
def State.supplyLoss (s : State) : State := (s.coldReset.updPm (fun p => { p with off := true })).setF Reg.PMU_STATUS_STATE 4
def execSupplyLoss (s : State) : Out := .next s.supplyLoss

/-- COLD_RESET_RELEASE: the straps are sampled, and the root PLL locks to REFCLK. -/
def State.coldRelease (s : State) (straps : Nat) : State :=
  if !s.ck.porst || s.pm.off then s
  else
    let s := s.updCk (fun c => { c with porst := false, i2c := straps / 16 % 8 })
    let s := (s.setReg Reg.RSQ_STRAPS (BitVec.ofNat 32 (straps % 128))).setF Reg.PU_CFG_SIDE (straps % 2)
    let s := s.setF Reg.PU_CFG_RANK (straps / 2 % 8)
    if s.ck.refclk then s.lockRoot else s
def execColdResetRelease (straps : BitVec 7) (s : State) : Out := .next (s.coldRelease straps.toNat)

/-! ## Fundamental reset (R467, R468, R470) -/

/-- Registers that a fundamental reset keeps: RWS fields, HIF_LINK_CFG, what AON holds, the clocks' state, and the pins of R495. -/
def fundamentalKeeps : List Nat :=
  [Reg.GLB_GPIO_DIR, Reg.GLB_GPIO_OUT, Reg.CKG_RESET_CAUSE, Reg.HIF_LINK_CFG, Reg.CKG_STATUS, Reg.PMU_POLICY, Reg.PMU_REQ_STATUS,
   Reg.PMU_WAKE_EN, Reg.PMU_WAKE_LOG, Reg.PMU_WAKE_MF_LO, Reg.PMU_WAKE_MF_HI, Reg.PMU_ALARM]

/-- The fundamental reset takes effect: it absorbs every other reset but a cold one. -/
def State.fundamentalNow (s : State) : State :=
  let straps := (s.reg Reg.RSQ_STRAPS).toNat % 128
  let r := s.wiped
  let r := { r with time := s.time }
  let r := fundamentalKeeps.foldl (fun (r : State) (a : Nat) => r.setReg a (s.reg a)) r
  let r := (r.setB Reg.PMU_REQ_STATUS_BUSY false).setF Reg.CKG_RESET_CAUSE_CAUSE 2
  let r := (r.setReg Reg.RSQ_STRAPS (BitVec.ofNat 32 straps)).setF Reg.PU_CFG_SIDE (straps % 2)
  let r := (r.setF Reg.PU_CFG_RANK (straps / 2 % 8)).updCk (fun c => { c with i2c := straps / 16 % 8 })
  r.freeRun.reselect

/-- FUNDAMENTAL_RESET: PERST_N is asserted; the device abdicates, and the reset takes effect at the next mark, or at once while no timebase
runs outside DORMANT. -/
def State.fundamentalReset (s : State) : State :=
  let s := s.updCk (fun c => { c with perst := true })
  if s.ck.porst then s
  else
    let s := (s.updCk (fun c => { c with fundamental := true })).abdicate
    if s.time.run || s.inDormant then s else s.fundamentalNow
def execFundamentalReset (s : State) : Out := .next s.fundamentalReset

/-- PERST_RELEASE: a device in DORMANT is always woken by it (R460). -/
def State.perstRelease (s : State) : State :=
  if s.ck.perst then
    let s := s.updCk (fun c => { c with perst := false })
    if s.inDormant then
      if s.pm.returning.isSome then s
      else (s.updPm (fun p => { p with returning := some (wakeCode .pcie) })).logWake (wakeCode .pcie) false
    else s.wake .pcie
  else s
def execPerstRelease (s : State) : Out := .next s.perstRelease

/-! ## Boot (R471 to R473, R475) -/

/-- The CRC of `n` bytes at flash address `a` is `c` (R38). -/
def State.flashCrc (s : State) (a n c : Nat) : Bool := crc32 (s.flashBytes a n) == c

/-- The header of slot `i`. -/
def State.slotHeader (s : State) (i : Nat) : List Byte := s.flashBytes (slotBase i) 64

/-- A slot is valid: its MAGIC and HDR_CRC are correct. -/
def State.slotValid (s : State) (i : Nat) : Bool :=
  let h := s.slotHeader i
  field h 0 4 == 0x544F4C53 && crc32 (h.take 60) == field h 60 4

/-- A part of slot `i` at offset `off` of `n` bytes with CRC `c` can be loaded: its place is within the slot and the limits of R472. -/
def State.partOk (s : State) (i off n c limit : Nat) : Bool :=
  decide (off % 4096 = 0 ∧ n ≤ limit ∧ off + n ≤ slotSize i) && s.flashCrc (slotBase i + off) n c

/-- The boot configuration record of slot `i`. -/
def State.bootConfig (s : State) (i : Nat) : List Byte := s.flashBytes (slotBase i + field (s.slotHeader i) 40 4) 64

/-- Slot `i` boots: firmware, microcode and configuration record pass their CRCs. -/
def State.slotBoots (s : State) (i : Nat) : Bool :=
  let h := s.slotHeader i
  let c := s.bootConfig i
  s.slotValid i && s.partOk i (field h 8 4) (field h 12 4) (field h 16 4) 0x100000
    && s.partOk i (field h 20 4) (field h 24 4) (field h 28 4) 0x400000
    && decide (field h 40 4 % 4096 = 0 ∧ field h 40 4 + 64 ≤ slotSize i)
    && field c 0 2 == 1 && crc32 (c.take 60) == field c 60 4

/-- The slots in the order in which they are tried: valid ones, the larger SEQUENCE first, slot 0 at a tie. -/
def State.slotOrder (s : State) : List Nat :=
  let q (i : Nat) : Nat := field (s.slotHeader i) 4 4
  (if q 0 < q 1 then [1, 0] else [0, 1]).filter s.slotValid

/-- The flash header is that of R472. -/
def State.flashHeaderOk (s : State) : Bool := field (s.flashBytes 0 6) 0 4 == 0x48534C46 && field (s.flashBytes 0 6) 4 2 == 1

/-- What the boot configuration sets. -/
def State.applyConfig (s : State) (c : List Byte) : State :=
  let link := field c 4 1
  let pair := field c 5 1
  let ovr := field c 7 1
  let wdt := field c 8 2
  let s := s.updCk (fun k => { k with subsystem := field c 2 2, i2c := if nbit ovr 4 then ovr / 32 else k.i2c })
  let s := if s.f Reg.CKG_RESET_CAUSE_CAUSE = 1 then
      (s.setB Reg.HIF_LINK_CFG_SRIS (nbit link 0)).setF Reg.HIF_LINK_CFG_MAX_SPEED (link / 2)
    else s
  let s := ((s.setB Reg.PU_CFG_CLK_SRC (nbit pair 1)).setF Reg.PU_CTRL_WIDTH (pair / 4)).setF Reg.PU_CFG_QUAD (field c 6 1)
  let s := if nbit ovr 0 then s.setF Reg.PU_CFG_RANK (ovr / 2) else s
  let s := (s.setB Reg.RSQ_STRAPS_RANK_OVR (nbit ovr 0)).setB Reg.RSQ_STRAPS_I2C_OVR (nbit ovr 4)
  (s.setF Reg.RSQ_WDT_PERIOD (if wdt = 0 then 1000 else wdt)).reselect

/-- RSQ has booted slot `i`. -/
def State.booted (s : State) (i : Nat) (fallback : Bool) : State :=
  let h := s.slotHeader i
  let c := s.bootConfig i
  let s := ((s.setB Reg.RSQ_STATUS_RUNNING true).setF Reg.RSQ_STATUS_BOOT_SLOT i).setB Reg.RSQ_STATUS_FALLBACK fallback
  let s := (s.setF Reg.RSQ_FW_VER_VER (field h 36 4)).setF Reg.MRE_UCODE_VER_VER (field h 32 4)
  let s := (s.applyConfig c).updCk (fun k => { k with wdtAt := s.now })
  let s := s.setB Reg.HIF_STATUS_OPERATIONAL true
  let s := if nbit (field c 5 1) 0 then (s.setB Reg.PU_CTRL_EN true).pairStart else s
  s.rescan

/-- FAULT_N is asserted, and captured with its cause (R435, R473, R477, R502). -/
def State.faultN (s : State) (cause : Nat) : State :=
  (s.setB Reg.GLB_ERR_FAULT true).captureError 0xE 0 cause noFunction 0 0

/-- BOOT_LOAD_COMPLETE. -/
def State.bootLoad (s : State) : State :=
  if s.ck.porst || s.ck.perst || s.ck.fundamental || s.ck.booted || s.ck.rsqRestart || s.inDormant then s
  else
    let s := s.updCk (fun c => { c with booted := true })
    let l := if s.flashHeaderOk then s.slotOrder else []
    match l.find? s.slotBoots with
    | some i => s.booted i (l.head? != some i)
    | none => (s.setB Reg.RSQ_STATUS_NO_IMAGE true).faultN 8
def execBootLoadComplete (s : State) : Out := .next s.bootLoad

/-! ## The RSQ watchdog (R476, R477) -/

/-- RSQ restarts from ROM; the data path runs on. -/
def State.restartRsq (s : State) : State :=
  (s.updCk (fun c => { c with rsqRestart := true })).setB Reg.RSQ_STATUS_RUNNING false

/-- RSQ_RESTART: RSQ_CTRL.RESTART is written. An RSQ that is halted, in ROM or restarting does not restart. -/
def State.rsqWrite (s : State) : State := if s.flag Reg.RSQ_STATUS_RUNNING then s.restartRsq else s
def execRsqRestart (s : State) : Out := .next (s.pfWrite Reg.RSQ_CTRL (fun s => s.rsqWrite))

/-- RSQ_RESTART_DONE: the firmware runs again. -/
def State.rsqDone (s : State) : State :=
  if s.ck.rsqRestart then
    (s.updCk (fun c => { c with rsqRestart := false, wdtAt := s.now })).setB Reg.RSQ_STATUS_RUNNING true
  else s
def execRsqRestartDone (s : State) : Out := .next s.rsqDone

/-- WATCHDOG_COUNT_RESTART. -/
def execWatchdogCountRestart (s : State) : Out :=
  .next (if s.flag Reg.RSQ_STATUS_RUNNING then s.updCk (fun c => { c with wdtAt := s.now }) else s)

/-- 600 s in ticks. -/
def countedTicks : Nat := 15000000000

/-- Expiries stop being counted 600 s after their time. -/
def State.forgetExpiries (s : State) : State :=
  let l := s.ck.expiries.filter (fun e => decide (s.now < e + countedTicks))
  (s.updCk (fun c => { c with expiries := l })).setF Reg.RSQ_STATUS_COUNTED (min 3 l.length)
def execWatchdogCountExpiry (s : State) : Out := .next s.forgetExpiries

/-- The watchdog's period has ended. AON counts it, with its tolerance of 5 % (R464). -/
def State.periodOver (s : State) : Bool := decide (s.ck.wdtAt + s.f Reg.RSQ_WDT_PERIOD * 23750 ≤ s.now)

/-- WATCHDOG_EXPIRY: the third counted expiry halts RSQ, and a HOLDER abdicates. -/
def State.watchdog (s : State) : State :=
  if s.flag Reg.RSQ_STATUS_RUNNING && s.periodOver then
    let s := (s.bump Reg.RSQ_WDT_EXPIRIES).forgetExpiries
    let n := s.ck.expiries.length
    let s := (s.updCk (fun c => { c with expiries := s.now :: c.expiries })).setF Reg.RSQ_STATUS_COUNTED (min 3 (n + 1))
    if n < 2 then s.restartRsq
    else
      let s := ((s.setB Reg.RSQ_STATUS_RUNNING false).setB Reg.RSQ_STATUS_RSQ_FAILED true).faultN 7
      if s.isHolder then s.abdicate else s
  else s
def execWatchdogExpiry (s : State) : Out := .next s.watchdog

end Sys2Proof.Machine
end

