-- ==== Sys2Proof/Machine/Warm.lean ====
section
/-! DEFINITION. The warm reset (R469, R470), and the mark at which resets take effect (R468, R469). -/

namespace Sys2Proof.Machine

/-! ## What registers keep (R469) -/

/-- All bits of a register. -/
def allBits : Nat := 0xFFFFFFFF

/-- Bits that a warm reset keeps, by block; `o` is the offset within the block's registers. -/
def keepGlb (a : Nat) : Nat :=
  if a < Reg.GLB_ERR ∨ a ≤ Reg.GLB_ERR_IRQ ∨ a = Reg.GLB_GPIO_DIR ∨ a = Reg.GLB_GPIO_OUT ∨ a = Reg.GLB_GPIO_IN then allBits
  else if a = Reg.GLB_THERM then 0xFF0000
  else 0

/-- HIF configuration and HIF_STATUS, and what the link reports. -/
def keepHif (a : Nat) : Nat :=
  if a = Reg.HIF_CTRL ∨ a = Reg.HIF_STATUS ∨ a = Reg.HIF_LINK_CFG ∨ a = Reg.HIF_ASPM then allBits
  else if a = Reg.HIF_LINK_STATUS then 0x1FF
  else 0

/-- QE_CTRL and the admin pages. -/
def keepQe (a : Nat) : Nat := if a = Reg.QE_CTRL ∨ Reg.pageBase 0 ≤ a then allBits else 0

/-- BM_CTRL and the fault registers of the engines. -/
def keepBm (a : Nat) : Nat :=
  if a = Reg.BM_CTRL ∨ (Reg.engineBase 0 ≤ a ∧ 4 ≤ a % 64 ∧ a % 64 ≤ 0x14) then allBits else 0

/-- XB_CTRL, XB_READ_LIMIT, XB_LOCK_CFG, XB_WIN_CFG and XB_WIN_BASE. -/
def keepXb (a : Nat) : Nat :=
  if a = Reg.XB_CTRL ∨ a = Reg.XB_READ_LIMIT ∨ a = Reg.XB_LOCK_CFG ∨ (Reg.windowBase 0 ≤ a ∧ a < Reg.viewBase 0 ∧ a % 16 < 8) then allBits
  else 0

/-- TS and EBM: what R157 and R183 keep, and the status of the kept schedule and slots. -/
def keepTs (a : Nat) : Nat :=
  if a = Reg.TS_STATUS ∨ a = Reg.EBM_STATUS then 1
  else if a = Reg.TS_CTRL ∨ a = Reg.TS_POOL_FREE ∨ a = Reg.TS_LOG_USED ∨ a = Reg.EBM_CTRL ∨ a = Reg.EBM_RETAIN ∨ a = Reg.EBM_SLOT_FREE ∨
      a = Reg.EBM_SLOT_LARGEST ∨ a = Reg.EBM_NP_RESERVE ∨ a = Reg.EBM_NAK_DEFAULT then allBits
  else if Reg.trunkBase 0 ≤ a ∧ a < Reg.trunkBase 192 ∧ (a % 64 = 0 ∨ (8 ≤ a % 64 ∧ a % 64 < 0x18)) then allBits
  else 0

/-- MRE and GD: what R225 and R247 keep, and the status of the kept image banks. -/
def keepMre (a : Nat) : Nat :=
  if a = Reg.MRE_STATUS then 3
  else if [Reg.MRE_CTRL, Reg.MRE_GRAPH_ID, Reg.MRE_STAGED_ID, Reg.MRE_SWAP_MF_LO, Reg.MRE_SWAP_MF_HI, Reg.MRE_ADMIT_CFG,
      Reg.MRE_CYC_P0, Reg.MRE_CYC_GENERAL, Reg.MRE_UCODE_VER, Reg.MRE_FAULTED_NODES, Reg.GD_CTRL, Reg.GD_OBS_CTRL].contains a then allBits
  else 0

/-- SV: what R271 keeps. SV_LINES follows the image. -/
def keepSv (a : Nat) : Nat :=
  if [Reg.SV_CTRL, Reg.SV_EVENT_CTRL, Reg.SV_QUIET, Reg.SV_PILOT, Reg.SV_NLMS].contains a then allBits else 0

/-- PU: what R315 keeps. -/
def keepPu (a : Nat) : Nat := if a = Reg.PU_CTRL ∨ a = Reg.PU_CFG ∨ a = Reg.PU_EVENT_CTRL then allBits else 0

/-- Bits of the register at `a` that a warm reset keeps: PMU, CKG, TM, LX and RSQ keep all. -/
def warmKeeps (a : Nat) : Nat :=
  match a / 0x100000 with
  | 0 => keepGlb a
  | 1 | 2 | 8 | 10 | 14 => allBits
  | 3 => keepHif a
  | 4 => keepQe a
  | 5 => keepBm a
  | 6 => keepXb a
  | 7 => keepTs a
  | 11 => keepMre a
  | 12 => keepSv a
  | 13 => keepPu a
  | _ => 0

/-- A value with the bits of mask `m` of `v` over those of `r`. -/
def underMask (m : Nat) (v r : Word) : Word := (v &&& BitVec.ofNat 32 m) ||| (r &&& ~~~(BitVec.ofNat 32 m))

/-- Every register takes its reset value in the bits that are not kept. -/
def State.revertRegs (s : State) : State :=
  s.regs.foldl (fun (s : State) (x : Nat × Word) => s.setReg x.1 (underMask (warmKeeps x.1) x.2 (regReset x.1))) s

/-! ## The work that ends (R469) -/

/-- A commit that waits for its M is cancelled, and its changes stay staged; one whose bank has switched completes its rebase. -/
def State.settleCommit (s : State) : State :=
  match s.ts.commit with
  | none => s
  | some c =>
    if c.switched then
      State.showCommit { s.rebase with ts := { s.rebase.ts with commit := none } }
    else State.showCommit { s with
      ts := { s.ts with commit := none, log := s.ts.sealed_ ++ s.ts.log, sealed_ := [] }
      tree := { s.tree with groupFail := false } }

/-- A swap that waits for its M is cancelled, and what it would load stays staged; one that has taken over is complete. -/
def State.settleSwap (s : State) : State :=
  match s.mre.swap with
  | none => s
  | some w =>
    if w.taken then State.showSwap { s with mre := { s.mre with swap := none } }
    else State.showSwap { s with mre := { s.mre with
      swap := none, staged := s.mre.staged.or w.full, patches := w.patches ++ s.mre.patches } }

/-- Configuration space is kept, but for VF Enable. -/
def State.keepConfig (s : State) (r : FnRec) : State :=
  s.updFn 0 (fun x => { x with d3hot := r.d3hot, funcMask := r.funcMask, unmasked := r.unmasked, pending := r.pending })

/-- What a reset of every function leaves unfinished ends squashed: transfers, clips, channels, and every started entry. -/
def State.squashRest (s : State) : State :=
  let s := s.bus.xfers.foldl (fun (s : State) (x : Nat × Option Xfer) => s.endXfer x.1 St.squashed) s
  let s := s.mre.gens.foldl (fun (s : State) (x : Nat × GenSt) =>
    let s := x.2.clips.foldl (fun (s : State) (c : ClipRun) => s.endClip c St.squashed) s
    match x.2.slot with
    | some a => s.freeSlot a.1
    | none => s) s
  (s.qe.started.map (·.ref)).foldl (fun (s : State) (r : EntryRef) => s.completeRef r St.squashed) s

/-- The resets of the functions end. -/
def State.endResets (s : State) : State :=
  s.forAll (List.range 1025) (fun s f => if s.inReset f then s.resetDone f else s)

/-! ## The logic that is reset (R469) -/

/-- QE, BM, XB, TS, TM and PU: what is in progress is gone; what the kept memories need is not. A request that the TM has still to make
for its tables stays to be sent, and an attach that was being enumerated waits anew. -/
def State.resetBus (s : State) : State :=
  let again (l : List TmItem) : List TmItem := (l.filter (fun i => !i.own)).map (fun i => { i with sent := false })
  let todo := s.tree.todo.foldl (fun (t : Tbl (List TmItem)) (x : Nat × List TmItem) => Tbl.set (fun _ => []) t x.1 (again x.2)) []
  let back := s.tree.enums.filterMap (fun x => x.2.map (fun e => { e.pos with atStep3 := true }))
  State.showEnum { s with
    bus := { s.bus with per := [], np := [], quarantine := [], splits := [], xfers := [] }
    tree := { s.tree with enums := [], todo := todo, waiting := back ++ s.tree.waiting, held := [], kept := [] }
    ts := { s.ts with walks := [], credits := [], lastFn := [], retrainHeld := [], held := [] }
    ebm := { s.ebm with waits := [] }
    qe := { s.qe with cache := [], started := [], lastAdmin := 0, lastGlob := 0, doorbells := [] }
    bm := ⟨[], [], []⟩
    xb := ⟨[], [], 0⟩
    pu := PairSt.zero }

/-- MRE, GD and SV: node state, stream buffers, timers, queues, estimates and line states are cleared. The image banks stay. -/
def State.resetGraph (s : State) : State :=
  { s with
    mre := { s.mre with loads := [], nodes := [], streams := [], gens := [], taps := [], zoneOver := [], feeds := [], on := false
                        casc := [], missed := [] }
    gd := ⟨[], [], [], [], [], [], [], [], [], 0, 0, none, none, none, (0, 0)⟩
    sv := ⟨[], [], none, [], none, none⟩ }

/-- What the registers show of what is kept. -/
def State.showKept (s : State) : State :=
  let s := (s.setF Reg.TS_COMMIT_MF_LO_MF s.ts.lastM).setF Reg.TS_COMMIT_MF_HI_MF (s.ts.lastM / 2 ^ 32)
  let s := (s.setF Reg.MRE_SWAP_MF_LO_MF s.mre.lastM).setF Reg.MRE_SWAP_MF_HI_MF (s.mre.lastM / 2 ^ 32)
  let s := s.forAll (List.range 1024) (fun s v => s.showVf v)
  let s := (s.forAll s.boundLines (fun s l => s.svRebind l false)).showLines
  if s.inSatin then
    ((s.setB Reg.MRE_STATUS_P0_ONLY true).setB Reg.TS_STATUS_SATIN_WALK true).setB Reg.SV_STATUS_SATIN_MODE true
  else s

/-- Steps 3 to 7 of the warm reset. A restart of RSQ ends with it (R470). -/
def State.warmNow (s : State) : State :=
  let cfg := s.fnRec 0
  let s := s.settleCommit.settleSwap.resetAll
  let s := s.applyHeld.squashRest.endResets
  let s := s.keepConfig cfg
  let s := if s.ck.rsqRestart then
      (s.updCk (fun c => { c with rsqRestart := false, wdtAt := s.now })).setB Reg.RSQ_STATUS_RUNNING true
    else s
  let s := s.resetBus.resetGraph.revertRegs
  s.showPool.showKept

/-! ## Commands -/

/-- WARM_RESET: CKG_RESET is written with its KEY and WARM 1; any other write is ignored. -/
def State.warmReset (s : State) (v : Word) : State :=
  if bits v 0 16 ≠ 0x5752 ∨ bits v 16 1 = 0 ∨ s.ck.warm then s
  else
    let s := (s.setF Reg.CKG_RESET_CAUSE_CAUSE 4).bump Reg.CKG_RESET_CAUSE_WARMS
    (s.updCk (fun c => { c with warm := true, warmMark := true })).abdicate
def execWarmReset (v : Word) (s : State) : Out := .next (s.pfWrite Reg.CKG_RESET (fun s => s.warmReset v))

/-- WARM_RESET_END: the walkers resume at the next mark, and a device of a pair joins again. -/
def State.warmEnd (s : State) : State :=
  if s.halted then
    let s := (s.updCk (fun c => { c with warm := false })).freeRun
    let s := if s.flag Reg.PU_CTRL_EN then s.pairStart else s
    s.tmBegins.rescan
  else s
def execWarmResetEnd (s : State) : Out := .next s.warmEnd

/-- MICROFRAME_MARK (R10, R13, R132): a fundamental reset takes effect at it, and a warm reset begins with it. -/
def State.markRow (s : State) : State :=
  if !s.time.run then s
  else if s.ck.fundamental then s.tickMark.fundamentalNow
  else if s.ck.warm && s.ck.warmMark then (s.updCk (fun c => { c with warmMark := false })).mark.warmNow.afterMark
  else s.markAll
def execMicroframeMark (s : State) : Out := .next s.markRow

end Sys2Proof.Machine
end

