-- ==== Sys2Proof/Machine/Access.lean ====
section
/-! DEFINITION. Reads and writes of registers (R7 to R9, R27, R28, R321, R322, R325, R333, R343, R461, R462, R499): through PF BAR0, VF BAR0 and
the management port. A write to a register that has a command of its own does what that command does. -/

namespace Sys2Proof.Machine

/-! ## Writes -/

/-- PMU: TARGET of PMU_REQ, and PMU_DVFS. -/
def State.writePmu (s : State) (a : Nat) (v : Word) (src : WakeSource) : State :=
  if a = Reg.PMU_REQ then s.requestSleep (bits v 0 3) src
  else if a = Reg.PMU_DVFS then s.dvfsStep (bits v 0 1) (bits v 1 1) (bits v 2 2)
  else s.writeReg a v

/-- CKG: the warm reset, and the reference's choice. -/
def State.writeCkg (s : State) (a : Nat) (v : Word) : State :=
  if a = Reg.CKG_RESET then s.warmReset v
  else if a = Reg.CKG_REF_CFG then (s.writeReg a v).reselect
  else s.writeReg a v

/-- PF MSI-X table and pending bit array. -/
def msixTable : Nat := 0x308000
def msixPba : Nat := 0x310000

/-- HIF: the MSI-X table holds an address, data and a mask bit for each vector. -/
def State.writeHif (s : State) (a : Nat) (v : Word) : State :=
  if msixTable ≤ a ∧ a < msixTable + 2048 * 16 then
    let n := (a - msixTable) / 16
    if a % 16 < 12 then s.setReg a v
    else if nbit v.toNat 0 then s.updFn 0 (fun r => { r with unmasked := r.unmasked.filter (· != n) })
    else s.unmask 0 n
  else s.writeReg a v

/-- QE: the admin pages; rings go on when QE_CTRL.EN is set. -/
def State.writeQe (s : State) (a : Nat) (v : Word) : State :=
  if Reg.pageBase 0 ≤ a ∧ a < Reg.pageBase 1025 ∧ a % 32 ≤ 16 then s.adminWrite ((a - Reg.pageBase 0) / 32) (a % 32 / 4) v
  else if a = Reg.QE_CTRL then (s.writeReg a v).rescan
  else s.writeReg a v

/-- BM: BM_ABORT names a channel. -/
def State.writeBm (s : State) (a : Nat) (v : Word) : State :=
  if a = Reg.BM_ABORT then s.endJob (bits v 0 10) St.aborted false else s.writeReg a v

/-- XB: windows, and FAULTED of windows and delegated views. -/
def State.writeXb (s : State) (a : Nat) (v : Word) : State :=
  if Reg.windowBase 0 ≤ a ∧ a < Reg.windowBase 256 then
    let w := (a - Reg.windowBase 0) / 16
    if a % 16 < 8 then s.winCfg w (a % 16 == 4) v
    else ((s.when (a % 16 == 8 && nbit v.toNat 0) (fun s => s.clearView w)).writeReg a v)
  else if Reg.viewBase 0 ≤ a ∧ a < Reg.viewBase 4096 then
    (s.when (a % 8 == 0 && nbit v.toNat 0) (fun s => s.clearView (256 + (a - Reg.viewBase 0) / 8))).writeReg a v
  else s.writeReg a v

/-- TS and EBM: TS_TRUNK_CFG. -/
def State.writeTs (s : State) (a : Nat) (v : Word) : State :=
  if Reg.trunkBase 0 ≤ a ∧ a < Reg.trunkBase 192 ∧ a % 64 = 0 then s.trunkCfg ((a - Reg.trunkBase 0) / 64) v else s.writeReg a v

/-- TM: TM_CTRL and TM_PORT_CTRL. -/
def State.writeTm (s : State) (a : Nat) (v : Word) : State :=
  if a = Reg.TM_CTRL then s.tmEnable v
  else if Reg.portBase 0 ≤ a ∧ a < Reg.portBase 192 ∧ a % 16 = 0 then s.portCtrl ((a - Reg.portBase 0) / 16) v
  else s.writeReg a v

/-- LX: lanes and quads. The taps are written only with OVR = 1 (R97), the OVR of the write itself (DESIGN CHOICE, log entry 62). -/
def State.writeLx (s : State) (a : Nat) (v : Word) : State :=
  if a < Reg.quadBase 0 then
    let n := (a - Reg.laneBase 0) / 0x1000
    if a = Reg.LX_LANE_CTRL n then s.laneEnable n v
    else if a = Reg.LX_EYE_CTRL n then s.eyeStart n v
    else if a = Reg.LX_PRBS_CTRL n then
      let s := s.prbsCtrl n v
      let s := s.when (nbit v.toNat 3) (fun s => s.inject n 1)
      s.when (nbit v.toNat 4) (fun s => s.inject n (s.burstBits n))
    else if a = Reg.LX_TX_TAPS n then (if nbit v.toNat 31 then s.writeReg a v else s.setB (Reg.LX_TX_TAPS_OVR n) false)
    else s.writeReg a v
  else
    let q := (a - Reg.quadBase 0) / 0x100
    if q < 48 ∧ a = Reg.LX_QUAD_CFG q then s.quadCfg q v else s.writeReg a v

/-- MRE and GD: MRE_ADMIT_CFG, GD_OBS_CTRL, and GD_CTRL, which may end the affinity waits (R234). -/
def State.writeMre (s : State) (a : Nat) (v : Word) : State :=
  if a = Reg.MRE_ADMIT_CFG then s.admitCfg v
  else if a = Reg.GD_OBS_CTRL then s.obsCtrl v
  else if a = Reg.GD_CTRL then (s.writeReg a v).endWaits
  else s.writeReg a v

/-- PU: PU_CTRL, and PU_CFG while PU_CTRL.EN is 0 (R276). -/
def State.writePu (s : State) (a : Nat) (v : Word) : State :=
  if a = Reg.PU_CTRL then s.pairEnable v
  else if a = Reg.PU_CFG then (if s.flag Reg.PU_CTRL_EN then s else (s.writeReg a v).reselect)
  else s.writeReg a v

/-- RSQ: the restart and the flash commands. -/
def State.writeRsq (s : State) (a : Nat) (v : Word) : State :=
  if a = Reg.RSQ_CTRL then (if nbit v.toNat 0 then s.rsqWrite else s)
  else if a = Reg.RSQ_FLASH_CMD then s.flashStart (bits v 0 2)
  else s.writeReg a v

/-- A write of `v` to the register at `a`. -/
def State.putBlock (s : State) (a : Nat) (v : Word) (src : WakeSource) : State :=
  match a / 0x100000 with
  | 1 => s.writePmu a v src
  | 2 => s.writeCkg a v
  | 3 => s.writeHif a v
  | 4 => s.writeQe a v
  | 5 => s.writeBm a v
  | 6 => s.writeXb a v
  | 7 => s.writeTs a v
  | 8 => s.writeTm a v
  | 10 => s.writeLx a v
  | 11 => s.writeMre a v
  | 13 => s.writePu a v
  | 14 => s.writeRsq a v
  | _ => s.writeReg a v

/-- Registers whose commands hold the pair-checked bits themselves. -/
def holdsOwn (a : Nat) : Bool := a == Reg.TM_CTRL || a == Reg.MRE_ADMIT_CFG

/-- A write of `v` to the register at `a`; pair-checked fields wait for their frame mark (R288). -/
def State.putReg (s : State) (a : Nat) (v : Word) (src : WakeSource) : State :=
  if holdsOwn a then s.putBlock a v src
  else
    let (s, v) := s.pairHold a v
    s.putBlock a v src

/-- First byte of the PF doorbell area. -/
def doorbellBase : Nat := 0x1F00000

/-- A write into the PF doorbell page: the data is ignored (R322). -/
def State.bellWrite (s : State) (o : Nat) : State :=
  if o % 8 ≠ 0 ∨ 0x8000 ≤ o then s
  else if o < 0x4000 then s.doorbell 0 (o / 8)
  else s.invalidateBell 0 ((o - 0x4000) / 8)

/-- REGISTER_WRITE: a write whose byte enables do not cover the register is ignored (R7). -/
def State.registerWrite (s : State) (a : Nat) (v : Word) (be : Nat) : State :=
  if a % 4 ≠ 0 ∨ be ≠ 15 ∨ !s.flag Reg.HIF_STATUS_CONFIG_READY then s
  else if doorbellBase ≤ a then s.bellWrite (a - doorbellBase)
  else s.pfWrite a (fun s => s.putReg a v .request)

/-- A write of 64 bits is one of each half (R7); it is one gated access when both halves are gated. -/
def State.wideWrite (s : State) (a : Nat) (v : Word) (be : Nat) (v2 : Word) (be2 : Nat) : State :=
  if a % 8 ≠ 0 then s
  else if a < doorbellBase ∧ be = 15 ∧ s.regServed a = false ∧ s.regServed (a + 4) = false then s.registerWrite a v be
  else (s.registerWrite a v be).registerWrite (a + 4) v2 be2

/-- A write whose TLP fails is dropped (R330, R331, R436). One row stands for every posted TLP, whatever it addresses. -/
def State.badWrite (s : State) (f : Nat) (x : TlpError) : State :=
  if !s.flag Reg.HIF_STATUS_CONFIG_READY then s
  else match x with
    | .ecrc => s.ecrcFail f
    | .poisoned => s.poisonedTlp f
    | .parity => s.aer f Aer.internal
def execRegisterWrite (addr : BitVec 25) (v : Word) (be : WriteTlp) (s : State) : Out :=
  .next (match be.bad with
    | none => (match be.hi with
      | none => s.registerWrite addr.toNat v be.be.toNat
      | some h => s.wideWrite addr.toNat v be.be.toNat h.1 h.2.toNat)
    | some x => s.badWrite x.1.val x.2)

/-! ## Reads -/

/-- Registers of a low half whose read latches the register above it. -/
def latching (a : Nat) : Bool :=
  [Reg.GLB_ERR_ADDR_LO, Reg.GLB_ERR_MF_LO, Reg.PMU_WAKE_MF_LO, Reg.HIF_WAKE_MF_LO, Reg.TS_COMMIT_MF_LO, Reg.MRE_SWAP_MF_LO,
   Reg.GD_OBS_START_LO, Reg.SV_AUDIT_MF_LO, Reg.PU_DIVERGE_MF_LO].contains a ||
  (decide (Reg.engineBase 0 ≤ a ∧ a < Reg.engineBase 16) && (a % 64 == 8 || a % 64 == 0x10))

/-- The high halves that read as latched. -/
def latchedHi (a : Nat) : Bool := decide (4 ≤ a) && latching (a - 4)

/-- TB_PHASE of a tick (R27). -/
def phaseWord (p : Nat) : Word := BitVec.ofNat 32 (p % 4096 + (if 3075 ≤ p then 4096 else 0))

/-- A read of the MSI-X table or pending bit array of function `f` at dword `i`. -/
def State.msixEntry (s : State) (f a : Nat) (i : Nat) : Word :=
  if i % 4 < 3 then (if f = 0 then s.reg a else 0) else if (s.fnRec f).unmasked.contains (i / 4) then 0 else 1
def State.pbaWord (s : State) (f i : Nat) : Word :=
  BitVec.ofNat 32 ((s.fnRec f).pending.foldl (fun n v => if v / 32 = i then n + 2 ^ (v % 32) else n) 0)

/-- EBM_STATUS (R177, R183): while the scrubber is enabled a pass is in progress, one after the other (DEDUCED, log entry 37). -/
def State.ebmStatus (s : State) : Word :=
  putBits (s.reg Reg.EBM_STATUS) 1 1 (b2n (s.flag Reg.EBM_CTRL_SCRUB_EN && s.ebm.powered && s.flag Reg.EBM_STATUS_INIT_DONE))

/-- GLB_GPIO_IN: the level at each pin, which is GLB_GPIO_OUT's at an output (R495, R496). -/
def State.gpioIn (s : State) : Word :=
  let dir := s.reg Reg.GLB_GPIO_DIR
  (s.reg Reg.GLB_GPIO_IN &&& ~~~dir) ||| (s.reg Reg.GLB_GPIO_OUT &&& dir)

/-- The current value of a register that no latch holds. WO and reserved fields read 0: they hold nothing. -/
def State.regValue (s : State) (a : Nat) : Word :=
  if a = Reg.PU_STATUS then s.puStatus
  else if a = Reg.EBM_STATUS then s.ebmStatus
  else if a = Reg.GLB_GPIO_IN then s.gpioIn
  else if msixTable ≤ a ∧ a < msixTable + 2048 * 16 then s.msixEntry 0 a ((a - msixTable) / 4)
  else if msixPba ≤ a ∧ a < msixPba + 256 then s.pbaWord 0 ((a - msixPba) / 4)
  else s.reg a

/-- `a` lies in the register page of a number that is no trunk's lowest lane: it reads 0 (R71, R506). -/
def State.hiddenPage (s : State) (a : Nat) : Bool :=
  decide (Reg.lnkBase 0 ≤ a ∧ a < Reg.lnkBase 192) && decide (s.width ((a - Reg.lnkBase 0) / 0x1000) = 0)

/-- The value that a read of PF BAR0 at `a` returns, and what it latches and clears; `k` marks the latches of a reader of its own, the
management port. -/
def State.readReg (s : State) (a k : Nat) : Word × State :=
  let r := s.fnRec 0
  if s.hiddenPage a then (0, s)
  else if a = Reg.TB_TICK_LO then (BitVec.ofNat 32 s.now, s.updFn 0 (fun r => { r with tickHi := BitVec.ofNat 32 (s.now / 2 ^ 32) }))
  else if a = Reg.TB_TICK_HI then (r.tickHi, s)
  else if a = Reg.TB_UFRAME_LO then
    (BitVec.ofNat 32 s.mfN, s.updFn 0 (fun r => { r with ufHi := BitVec.ofNat 16 (s.mfN / 2 ^ 32), phase := some (BitVec.ofNat 12 s.time.phase) }))
  else if a = Reg.TB_UFRAME_HI then (BitVec.ofNat 32 r.ufHi.toNat, s)
  else if a = Reg.TB_PHASE then
    match r.phase with
    | some p => (phaseWord p.toNat, s.updFn 0 (fun r => { r with phase := none }))
    | none => (phaseWord s.time.phase, s)
  else if latchedHi a then (Tbl.get (fun _ => 0) r.latches (a + k), s)
  else
    let s' := if latching a then s.updFn 0 (fun r => { r with latches := Tbl.set (fun _ => 0) r.latches (a + 4 + k) (s.reg (a + 4)) }) else s
    (s.regValue a, s'.clearRc a)

/-- Answer a read with a dword. -/
def State.answer (s : State) (w : Word) : State := s.sendHost (.ans (.data (leBytes 4 w.toNat)))

/-- Answer a read of 64 bits. -/
def State.answerWide (s : State) (lo hi : Word) : State := s.sendHost (.ans (.data (leBytes 4 lo.toNat ++ leBytes 4 hi.toNat)))

/-- A read of PF BAR0 at `a` is gated. -/
def State.pfGated (s : State) (a : Nat) : Bool :=
  if doorbellBase ≤ a then s.inDormant || !s.operational else !s.regServed a

/-- One register read through PF BAR0: all ones from a gated one, 0 from a doorbell. -/
def State.pfWord (s : State) (a : Nat) : Word × State :=
  if s.pfGated a then (0xFFFFFFFF, s.gate a 0 0 false)
  else if doorbellBase ≤ a then (0, s)
  else s.readReg a 0

/-- A read through PF BAR0. One of 64 bits reads the low half first, so that what this latches is its high half (R28). -/
def State.pfRead (s : State) (a : Nat) (wide : Bool) : State :=
  if s.d3hot 0 then (s.aer 0 Aer.unsupported).sendHost (.ans .unsupported)
  else
    let (w, t) := s.pfWord a
    if !wide then t.answer w
    else if s.pfGated a && s.pfGated (a + 4) then t.answerWide w 0xFFFFFFFF
    else
      let (h, t) := t.pfWord (a + 4)
      t.answerWide w h

/-- HIF_VF_STATUS of VF `v` (R343). -/
def State.vfStatus (s : State) (v : Nat) : Word :=
  let r := s.vfRec v
  BitVec.ofNat 32 (b2n (s.fn.vfEnable && s.operational) + 2 * b2n (r.frozen && r.freezing.isEmpty) + 4 * b2n r.resetBusy + 8 * s.role
    + 32 * b2n s.inSatin)

/-- One register read through the BAR0 of VF `f` − 1. -/
def State.vfWord (s : State) (f o : Nat) : Word × State :=
  if 0x8000 ≤ o ∧ o < 0x8400 then (s.msixEntry f o ((o - 0x8000) / 4), s)
  else if 0x9000 ≤ o ∧ o < 0x9008 then (s.pbaWord f ((o - 0x9000) / 4), s)
  else if s.inDormant || !s.operational then (0xFFFFFFFF, s.gate o f 3 false)
  else if o = 0xA000 then (s.vfStatus (f - 1), s)
  else if o = 0xA008 then (BitVec.ofNat 32 s.mfN, s.updFn f (fun r => { r with ufHi := BitVec.ofNat 16 (s.mfN / 2 ^ 32) }))
  else if o = 0xA00C then (BitVec.ofNat 32 (s.fnRec f).ufHi.toNat, s)
  else (0, s)

/-- A read through the BAR0 of VF `f` − 1, low half first. -/
def State.vfRead (s : State) (f o : Nat) (wide : Bool) : State :=
  if !s.fnThere f then s
  else if s.inReset f || s.d3hot f then (s.aer f Aer.unsupported).sendHost (.ans .unsupported)
  else
    let (w, t) := s.vfWord f o
    if !wide then t.answer w
    else if (s.inDormant || !s.operational) && !(decide (0x8000 ≤ o ∧ o < 0x8400) || decide (0x9000 ≤ o ∧ o < 0x9008)) then t.answerWide w 0xFFFFFFFF
    else
      let (h, t) := t.vfWord f (o + 4)
      t.answerWide w h

/-- REGISTER_READ_RC: before CONFIG_READY the device answers nothing (R332). -/
def State.registerRead (s : State) (f a : Nat) (wide : Bool) : State :=
  if a % (if wide then 8 else 4) ≠ 0 ∨ !s.flag Reg.HIF_STATUS_CONFIG_READY then s
  else if f = 0 then s.pfRead a wide
  else s.vfRead f (a % 0x10000) wide

/-- A read whose TLP fails its ECRC completes with Unsupported Request (R331); one that fails its parity is discarded (R436). -/
def State.badRead (s : State) (f : Nat) (x : ReadError) : State :=
  if !s.flag Reg.HIF_STATUS_CONFIG_READY then s
  else match x with
    | .ecrc => (s.ecrcFail f).sendHost (.ans .unsupported)
    | .parity => s.aer f Aer.internal
/-- A read of LX_PRBS_ERRORS finds every mismatched bit counted (R94). -/
def State.prbsSeen (s : State) (a errors : Nat) (wide : Bool) : State :=
  let n := (a - Reg.laneBase 0) / 0x1000
  if Reg.laneBase 0 ≤ a ∧ a < Reg.quadBase 0 ∧ (a = Reg.LX_PRBS_ERRORS n ∨ (wide = true ∧ a + 4 = Reg.LX_PRBS_ERRORS n)) then
    s.prbsErrors n errors
  else s
def execRegisterReadRc (fn : ReadTlp) (addr : BitVec 25) (s : State) : Out :=
  .next (match fn.bad with
    | none => (s.prbsSeen addr.toNat (if fn.fn.val = 0 then fn.prbs.toNat else 0) fn.wide).registerRead fn.fn.val addr.toNat fn.wide
    | some x => s.badRead fn.fn.val x)

/-! ## The management port (R461, R462) -/

/-- Address in PF BAR0 that OFFSET names: bit 7 selects GLB, else PMU; bits 6:0 are a dword index. -/
def mgtAddr (off : Nat) : Nat := (if nbit off 7 then 0 else 0x100000) + 4 * (off % 128)

/-- The port serves its transactions: not while PORST_N holds the device in reset or it is OFF. -/
def State.mgtLive (s : State) : Bool := !s.ck.porst && !s.pm.off

/-- MGT_REGISTER_WRITE. In DORMANT the address wakes, and the data is not acknowledged. -/
def State.mgtWrite (s : State) (off : Nat) (v : Word) : State :=
  if !s.mgtLive then s
  else if s.inDormant then s.wake .mgt
  else s.putReg (mgtAddr off) v .mgt
def execMgtRegisterWrite (off : Byte) (v : Word) (s : State) : Out := .next (s.mgtWrite off.toNat v)

/-- MGT_REGISTER_READ. In DORMANT a read is not acknowledged. A read of PMU_WAKE_LOG releases MGT_ALERT_N. -/
def State.mgtRead (s : State) (off : Nat) : State :=
  if !s.mgtLive || s.inDormant then s
  else
    let a := mgtAddr off
    let (w, s) := s.readReg a (2 ^ 25)
    let s := s.when (a == Reg.PMU_WAKE_LOG) (fun s => s.updPm (fun p => { p with alertDone := false, alertWake := false }))
    s.emit (.mgt w)
def execMgtRegisterRead (off : Byte) (s : State) : Out := .next (s.mgtRead off.toNat)

/-- MGT_ADDRESS_MATCH: in DORMANT a write addressed to the device wakes it. -/
def execMgtAddressMatch (addr7 : BitVec 7) (s : State) : Out :=
  .next (if s.mgtLive && s.inDormant && addr7.toNat == 0x58 + s.ck.i2c then s.wake .mgt else s)

end Sys2Proof.Machine
end

