-- ==== Sys2Proof/Machine/Dispatch.lean ====
section
/-! DEFINITION. What each command does: one arm for each constructor of Instr. -/

namespace Sys2Proof.Machine

def exec (i : Instr) (s : State) : Host.Outcome State Fault Refusal :=
  match i with
  | .microframeMark => Sys2Proof.Machine.execMicroframeMark s
  | .fillDeadline => Sys2Proof.Machine.execFillDeadline s
  | .scheduleBankSwitch => Sys2Proof.Machine.execScheduleBankSwitch s
  | .graphSwapTakeover => Sys2Proof.Machine.execGraphSwapTakeover s
  | .graphSwapComplete => Sys2Proof.Machine.execGraphSwapComplete s
  | .graphLoadResume img => Sys2Proof.Machine.execGraphLoadResume img s
  | .rebaseEnd => Sys2Proof.Machine.execRebaseEnd s
  | .inputCutoff => Sys2Proof.Machine.execInputCutoff s
  | .decisionTime => Sys2Proof.Machine.execDecisionTime s
  | .walkerIssue t => Sys2Proof.Machine.execWalkerIssue t s
  | .npTransactionStart t => Sys2Proof.Machine.execNpTransactionStart t s
  | .tagReuseExpiry t tag => Sys2Proof.Machine.execTagReuseExpiry t tag s
  | .periodicInData t d => Sys2Proof.Machine.execPeriodicInData t d s
  | .npDataReceived t d => Sys2Proof.Machine.execNpDataReceived t d s
  | .ackReceived t h => Sys2Proof.Machine.execAckReceived t h s
  | .nakReceived t h => Sys2Proof.Machine.execNakReceived t h s
  | .stallReceived t h => Sys2Proof.Machine.execStallReceived t h s
  | .nyetReceived t h => Sys2Proof.Machine.execNyetReceived t h s
  | .errReceived t h => Sys2Proof.Machine.execErrReceived t h s
  | .lockAckReceived t h => Sys2Proof.Machine.execLockAckReceived t h s
  | .lockBusyReceived t h => Sys2Proof.Machine.execLockBusyReceived t h s
  | .corruptPacketReceived t => Sys2Proof.Machine.execCorruptPacketReceived t s
  | .responseWindowClose t np mfp tag => Sys2Proof.Machine.execResponseWindowClose t np mfp tag s
  | .markOnRootPort p rootId => Sys2Proof.Machine.execMarkOnRootPort p rootId s
  | .delineationLoss t => Sys2Proof.Machine.execDelineationLoss t s
  | .markerSend n => Sys2Proof.Machine.execMarkerSend n s
  | .markerReceived n m => Sys2Proof.Machine.execMarkerReceived n m s
  | .alignmentComplete t skewNs => Sys2Proof.Machine.execAlignmentComplete t skewNs s
  | .laneEnableWrite n v => Sys2Proof.Machine.execLaneEnableWrite n v s
  | .laneTrainStart n => Sys2Proof.Machine.execLaneTrainStart n s
  | .laneRetrainReq n => Sys2Proof.Machine.execLaneRetrainReq n s
  | .quadCfgWrite q v => Sys2Proof.Machine.execQuadCfgWrite q v s
  | .trainHeaderReceived n raw inverted => Sys2Proof.Machine.execTrainHeaderReceived n raw inverted s
  | .adaptationConverged n m => Sys2Proof.Machine.execAdaptationConverged n m s
  | .trainingComplete n => Sys2Proof.Machine.execTrainingComplete n s
  | .trainingTimeout n => Sys2Proof.Machine.execTrainingTimeout n s
  | .failedRetryTimer n => Sys2Proof.Machine.execFailedRetryTimer n s
  | .blockLockLost n => Sys2Proof.Machine.execBlockLockLost n s
  | .adaptationFreeze n => Sys2Proof.Machine.execAdaptationFreeze n s
  | .adaptationResume n => Sys2Proof.Machine.execAdaptationResume n s
  | .marginCheckStart n => Sys2Proof.Machine.execMarginCheckStart n s
  | .marginCheckComplete n m => Sys2Proof.Machine.execMarginCheckComplete n m s
  | .twillRetrainTimeout t => Sys2Proof.Machine.execTwillRetrainTimeout t s
  | .retrainSlotStart t => Sys2Proof.Machine.execRetrainSlotStart t s
  | .retrainSlotEnd t => Sys2Proof.Machine.execRetrainSlotEnd t s
  | .retrainBlockReceived n raw => Sys2Proof.Machine.execRetrainBlockReceived n raw s
  | .eyeSwOwn n => Sys2Proof.Machine.execEyeSwOwn n s
  | .eyeScanStart n v => Sys2Proof.Machine.execEyeScanStart n v s
  | .eyePointDone n count => Sys2Proof.Machine.execEyePointDone n count s
  | .lpiKeepaliveWake t => Sys2Proof.Machine.execLpiKeepaliveWake t s
  | .prbsInjectSingle n => Sys2Proof.Machine.execPrbsInjectSingle n s
  | .prbsInjectBurst n v => Sys2Proof.Machine.execPrbsInjectBurst n v s
  | .prbsLock n => Sys2Proof.Machine.execPrbsLock n s
  | .prbsLockLost n => Sys2Proof.Machine.execPrbsLockLost n s
  | .attachDebounceExpiry p => Sys2Proof.Machine.execAttachDebounceExpiry p s
  | .presenceLost p => Sys2Proof.Machine.execPresenceLost p s
  | .linkPresenceAttach p => Sys2Proof.Machine.execLinkPresenceAttach p s
  | .linkPresenceLost p => Sys2Proof.Machine.execLinkPresenceLost p s
  | .portCtrlWrite p v => Sys2Proof.Machine.execPortCtrlWrite p v s
  | .portSetPower p => Sys2Proof.Machine.execPortSetPower p s
  | .portClearPower p => Sys2Proof.Machine.execPortClearPower p s
  | .portSetReset p => Sys2Proof.Machine.execPortSetReset p s
  | .portSetSuspend p => Sys2Proof.Machine.execPortSetSuspend p s
  | .portSetResume p => Sys2Proof.Machine.execPortSetResume p s
  | .portSetEnable p => Sys2Proof.Machine.execPortSetEnable p s
  | .portClearEnable p => Sys2Proof.Machine.execPortClearEnable p s
  | .rootGetPortStatus p => Sys2Proof.Machine.execRootGetPortStatus p s
  | .resetSignallingEnd p => Sys2Proof.Machine.execResetSignallingEnd p s
  | .portResetComplete p => Sys2Proof.Machine.execPortResetComplete p s
  | .linkLost p => Sys2Proof.Machine.execLinkLost p s
  | .remoteWakeSignal p => Sys2Proof.Machine.execRemoteWakeSignal p s
  | .resumeComplete p => Sys2Proof.Machine.execResumeComplete p s
  | .hubStatusReport hub bits => Sys2Proof.Machine.execHubStatusReport hub bits s
  | .enumerationStart p => Sys2Proof.Machine.execEnumerationStart p s
  | .tmTransferComplete p r => Sys2Proof.Machine.execTmTransferComplete p r s
  | .addressBindingExpiry addr => Sys2Proof.Machine.execAddressBindingExpiry addr s
  | .pairPortTimeout p serial => Sys2Proof.Machine.execPairPortTimeout p serial s
  | .tmEnableWrite v => Sys2Proof.Machine.execTmEnableWrite v s
  | .tmBacklogDrain => Sys2Proof.Machine.execTmBacklogDrain s
  | .trunkCfgWrite t v => Sys2Proof.Machine.execTrunkCfgWrite t v s
  | .tsEnableWrite v => Sys2Proof.Machine.execTsEnableWrite v s
  | .slotAllocated => Sys2Proof.Machine.execSlotAllocated s
  | .ebmInitDone => Sys2Proof.Machine.execEbmInitDone s
  | .scrubPass hits => Sys2Proof.Machine.execScrubPass hits s
  | .diagWindowAccess a => Sys2Proof.Machine.execDiagWindowAccess a s
  | .operationDispatch => Sys2Proof.Machine.execOperationDispatch s
  | .affinityWaitExpiry node => Sys2Proof.Machine.execAffinityWaitExpiry node s
  | .operationComplete g hits remoteStall => Sys2Proof.Machine.execOperationComplete g hits remoteStall s
  | .spillMove q => Sys2Proof.Machine.execSpillMove q s
  | .heldNoticeEnter q => Sys2Proof.Machine.execHeldNoticeEnter q s
  | .clipRefillNotice g => Sys2Proof.Machine.execClipRefillNotice g s
  | .tapChunkComplete tap => Sys2Proof.Machine.execTapChunkComplete tap s
  | .clipStartTimer seq => Sys2Proof.Machine.execClipStartTimer seq s
  | .clipRepeatTimer seq => Sys2Proof.Machine.execClipRepeatTimer seq s
  | .clipStopTimer seq => Sys2Proof.Machine.execClipStopTimer seq s
  | .sweepSlotTimer seq base => Sys2Proof.Machine.execSweepSlotTimer seq base s
  | .pilotTimer seq => Sys2Proof.Machine.execPilotTimer seq s
  | .admitCfgWrite v => Sys2Proof.Machine.execAdmitCfgWrite v s
  | .obsCtrlWrite v => Sys2Proof.Machine.execObsCtrlWrite v s
  | .obsWindowClose => Sys2Proof.Machine.execObsWindowClose s
  | .refreshEnd => Sys2Proof.Machine.execRefreshEnd s
  | .pilotWindowEnd line => Sys2Proof.Machine.execPilotWindowEnd line s
  | .svBacklogDrain => Sys2Proof.Machine.execSvBacklogDrain s
  | .auditPartStart => Sys2Proof.Machine.execAuditPartStart s
  | .auditEyeComplete grids => Sys2Proof.Machine.execAuditEyeComplete grids s
  | .auditPrbsEnd => Sys2Proof.Machine.execAuditPrbsEnd s
  | .twillSwapPhase => Sys2Proof.Machine.execTwillSwapPhase s
  | .miodelTimeFrame f => Sys2Proof.Machine.execMiodelTimeFrame f s
  | .miodelPresenceFrame recs => Sys2Proof.Machine.execMiodelPresenceFrame recs s
  | .miodelBlocksFrame blocks => Sys2Proof.Machine.execMiodelBlocksFrame blocks s
  | .miodelDigestFrame pass digests => Sys2Proof.Machine.execMiodelDigestFrame pass digests s
  | .miodelClipFrame pass clips => Sys2Proof.Machine.execMiodelClipFrame pass clips s
  | .miodelRelayFrame f => Sys2Proof.Machine.execMiodelRelayFrame f s
  | .miodelMirrorFrame seq m => Sys2Proof.Machine.execMiodelMirrorFrame seq m s
  | .miodelCopyFrame seq c => Sys2Proof.Machine.execMiodelCopyFrame seq c s
  | .miodelAckFrame seq => Sys2Proof.Machine.execMiodelAckFrame seq s
  | .miodelHelloFrame h => Sys2Proof.Machine.execMiodelHelloFrame h s
  | .miodelAckTimer => Sys2Proof.Machine.execMiodelAckTimer s
  | .miodelResendTimeout => Sys2Proof.Machine.execMiodelResendTimeout s
  | .orderedChannelDown => Sys2Proof.Machine.execOrderedChannelDown s
  | .frameSyncPulse ns offset => Sys2Proof.Machine.execFrameSyncPulse ns offset s
  | .peerLossDetect c => Sys2Proof.Machine.execPeerLossDetect c s
  | .takeover => Sys2Proof.Machine.execTakeover s
  | .helloTimeout => Sys2Proof.Machine.execHelloTimeout s
  | .timeSourceLost => Sys2Proof.Machine.execTimeSourceLost s
  | .alignLost => Sys2Proof.Machine.execAlignLost s
  | .cascadeMarkReceived p mfn offset => Sys2Proof.Machine.execCascadeMarkReceived p mfn offset s
  | .pairEnableWrite v => Sys2Proof.Machine.execPairEnableWrite v s
  | .mirrorWriteApply => Sys2Proof.Machine.execMirrorWriteApply s
  | .handoverSwitch => Sys2Proof.Machine.execHandoverSwitch s
  | .barrierComplete id => Sys2Proof.Machine.execBarrierComplete id s
  | .joinPhaseEnd => Sys2Proof.Machine.execJoinPhaseEnd s
  | .joinDone => Sys2Proof.Machine.execJoinDone s
  | .joinTimeout => Sys2Proof.Machine.execJoinTimeout s
  | .puBacklogDrain => Sys2Proof.Machine.execPuBacklogDrain s
  | .doorbellWrite fn idx => Sys2Proof.Machine.execDoorbellWrite fn idx s
  | .invalidateDoorbell fn idx => Sys2Proof.Machine.execInvalidateDoorbell fn idx s
  | .ringScanData fn idx d => Sys2Proof.Machine.execRingScanData fn idx d s
  | .entryStart fn sq h => Sys2Proof.Machine.execEntryStart fn sq h s
  | .moderationTimerExpiry fn cq => Sys2Proof.Machine.execModerationTimerExpiry fn cq s
  | .msixUnmask fn vector => Sys2Proof.Machine.execMsixUnmask fn vector s
  | .nop r e => Sys2Proof.Machine.execNop r e s
  | .fence r e => Sys2Proof.Machine.execFence r e s
  | .bulkOut r e => Sys2Proof.Machine.execBulkOut r e s
  | .bulkIn r e => Sys2Proof.Machine.execBulkIn r e s
  | .control r e => Sys2Proof.Machine.execControl r e s
  | .tunnelTx r e => Sys2Proof.Machine.execTunnelTx r e s
  | .tunnelRx r e => Sys2Proof.Machine.execTunnelRx r e s
  | .move r e => Sys2Proof.Machine.execMove r e s
  | .moveIndexed r e => Sys2Proof.Machine.execMoveIndexed r e s
  | .clipPlay r e => Sys2Proof.Machine.execClipPlay r e s
  | .clipStop r e => Sys2Proof.Machine.execClipStop r e s
  | .tapRecord r e => Sys2Proof.Machine.execTapRecord r e s
  | .createSq r e => Sys2Proof.Machine.execCreateSq r e s
  | .deleteSq r e => Sys2Proof.Machine.execDeleteSq r e s
  | .createCq r e clean => Sys2Proof.Machine.execCreateCq r e clean s
  | .deleteCq r e => Sys2Proof.Machine.execDeleteCq r e s
  | .identify r e => Sys2Proof.Machine.execIdentify r e s
  | .setShare r e => Sys2Proof.Machine.execSetShare r e s
  | .getLog r e => Sys2Proof.Machine.execGetLog r e s
  | .endpointAdd r e => Sys2Proof.Machine.execEndpointAdd r e s
  | .endpointRemove r e => Sys2Proof.Machine.execEndpointRemove r e s
  | .scheduleCommit r e => Sys2Proof.Machine.execScheduleCommit r e s
  | .graphLoad r e img => Sys2Proof.Machine.execGraphLoad r e img s
  | .graphSwap r e => Sys2Proof.Machine.execGraphSwap r e s
  | .groupSet r e => Sys2Proof.Machine.execGroupSet r e s
  | .vfGrant r e record => Sys2Proof.Machine.execVfGrant r e record s
  | .vfFreeze r e => Sys2Proof.Machine.execVfFreeze r e s
  | .vfSave r e => Sys2Proof.Machine.execVfSave r e s
  | .vfRestore r e blob => Sys2Proof.Machine.execVfRestore r e blob s
  | .vfThaw r e => Sys2Proof.Machine.execVfThaw r e s
  | .engineRestart r e => Sys2Proof.Machine.execEngineRestart r e s
  | .auditStart r e => Sys2Proof.Machine.execAuditStart r e s
  | .pairQuery r e => Sys2Proof.Machine.execPairQuery r e s
  | .pairHandover r e => Sys2Proof.Machine.execPairHandover r e s
  | .pairLeave r e => Sys2Proof.Machine.execPairLeave r e s
  | .pairJoin r e => Sys2Proof.Machine.execPairJoin r e s
  | .pairSetRank r e => Sys2Proof.Machine.execPairSetRank r e s
  | .pairBarrier r e => Sys2Proof.Machine.execPairBarrier r e s
  | .dmaWindowSet r e => Sys2Proof.Machine.execDmaWindowSet r e s
  | .adminCfgWrite fn reg v => Sys2Proof.Machine.execAdminCfgWrite fn reg v s
  | .bmBurstStart e => Sys2Proof.Machine.execBmBurstStart e s
  | .bmHostCompletion e st data => Sys2Proof.Machine.execBmHostCompletion e st data s
  | .hostCompletionTimeout who => Sys2Proof.Machine.execHostCompletionTimeout who s
  | .bmAbort ch => Sys2Proof.Machine.execBmAbort ch s
  | .engineRestartDone e => Sys2Proof.Machine.execEngineRestartDone e s
  | .remoteWindowRead view off len => Sys2Proof.Machine.execRemoteWindowRead view off len s
  | .remoteWindowWrite view off data => Sys2Proof.Machine.execRemoteWindowWrite view off data s
  | .atomicopRequest view off wide op => Sys2Proof.Machine.execAtomicopRequest view off wide op s
  | .viewAccessStart view => Sys2Proof.Machine.execViewAccessStart view s
  | .readLimitExpiry view => Sys2Proof.Machine.execReadLimitExpiry view s
  | .lockSequenceStart view => Sys2Proof.Machine.execLockSequenceStart view s
  | .lockWaitExpiry view => Sys2Proof.Machine.execLockWaitExpiry view s
  | .lockRetry view => Sys2Proof.Machine.execLockRetry view s
  | .viewFaultClear view => Sys2Proof.Machine.execViewFaultClear view s
  | .windowCfgWrite w base v => Sys2Proof.Machine.execWindowCfgWrite w base v s
  | .d3hotEntry fn => Sys2Proof.Machine.execD3hotEntry fn s
  | .d0Return fn => Sys2Proof.Machine.execD0Return fn s
  | .pmeResend fn => Sys2Proof.Machine.execPmeResend fn s
  | .pmeTurnOff => Sys2Proof.Machine.execPmeTurnOff s
  | .aspmL1Request => Sys2Proof.Machine.execAspmL1Request s
  | .hostLinkDown => Sys2Proof.Machine.execHostLinkDown s
  | .hotReset => Sys2Proof.Machine.execHotReset s
  | .hostLossHandoverTimer => Sys2Proof.Machine.execHostLossHandoverTimer s
  | .pfFlr => Sys2Proof.Machine.execPfFlr s
  | .vfFlr v => Sys2Proof.Machine.execVfFlr v s
  | .vfFlrComplete v => Sys2Proof.Machine.execVfFlrComplete v s
  | .registerWrite addr v be => Sys2Proof.Machine.execRegisterWrite addr v be s
  | .requestSatin => Sys2Proof.Machine.execRequestSatin s
  | .requestDormant => Sys2Proof.Machine.execRequestDormant s
  | .requestActive => Sys2Proof.Machine.execRequestActive s
  | .satinEntry => Sys2Proof.Machine.execSatinEntry s
  | .satinReturnStep1 => Sys2Proof.Machine.execSatinReturnStep1 s
  | .satinReturnStep2 => Sys2Proof.Machine.execSatinReturnStep2 s
  | .dormantEntry => Sys2Proof.Machine.execDormantEntry s
  | .wakeEvent src => Sys2Proof.Machine.execWakeEvent src s
  | .alarmExpiry => Sys2Proof.Machine.execAlarmExpiry s
  | .pwrRdy => Sys2Proof.Machine.execPwrRdy s
  | .oscRdy => Sys2Proof.Machine.execOscRdy s
  | .memRdy => Sys2Proof.Machine.execMemRdy s
  | .logicRdy asleepMf asleepMs => Sys2Proof.Machine.execLogicRdy asleepMf asleepMs s
  | .dvfsVoltageStep d op => Sys2Proof.Machine.execDvfsVoltageStep d op s
  | .dvfsFrequencyStep d op => Sys2Proof.Machine.execDvfsFrequencyStep d op s
  | .dvfsVoltageDone => Sys2Proof.Machine.execDvfsVoltageDone s
  | .mgtRegisterWrite off v => Sys2Proof.Machine.execMgtRegisterWrite off v s
  | .mgtRegisterRead off => Sys2Proof.Machine.execMgtRegisterRead off s
  | .mgtAddressMatch addr7 => Sys2Proof.Machine.execMgtAddressMatch addr7 s
  | .tempSample celsius => Sys2Proof.Machine.execTempSample celsius s
  | .supplyLoss => Sys2Proof.Machine.execSupplyLoss s
  | .referenceAcquired src => Sys2Proof.Machine.execReferenceAcquired src s
  | .referenceLost src => Sys2Proof.Machine.execReferenceLost src s
  | .coldReset => Sys2Proof.Machine.execColdReset s
  | .coldResetRelease straps => Sys2Proof.Machine.execColdResetRelease straps s
  | .fundamentalReset => Sys2Proof.Machine.execFundamentalReset s
  | .perstRelease => Sys2Proof.Machine.execPerstRelease s
  | .bootLoadComplete => Sys2Proof.Machine.execBootLoadComplete s
  | .warmReset v => Sys2Proof.Machine.execWarmReset v s
  | .warmResetEnd => Sys2Proof.Machine.execWarmResetEnd s
  | .watchdogExpiry => Sys2Proof.Machine.execWatchdogExpiry s
  | .watchdogCountExpiry => Sys2Proof.Machine.execWatchdogCountExpiry s
  | .rsqRestart => Sys2Proof.Machine.execRsqRestart s
  | .rsqRestartDone => Sys2Proof.Machine.execRsqRestartDone s
  | .flashRead => Sys2Proof.Machine.execFlashRead s
  | .flashProgram => Sys2Proof.Machine.execFlashProgram s
  | .flashErase => Sys2Proof.Machine.execFlashErase s
  | .flashCommandDone => Sys2Proof.Machine.execFlashCommandDone s
  | .delineationRecovered t => Sys2Proof.Machine.execDelineationRecovered t s
  | .senseLevelChange p level => Sys2Proof.Machine.execSenseLevelChange p level s
  | .hostLinkUp speed width reversed => Sys2Proof.Machine.execHostLinkUp speed width reversed s
  | .configReady => Sys2Proof.Machine.execConfigReady s
  | .registerReadRc fn addr => Sys2Proof.Machine.execRegisterReadRc fn addr s
  | .pmeStatusClear fn => Sys2Proof.Machine.execPmeStatusClear fn s
  | .miodelFrameCrcFail timed => Sys2Proof.Machine.execMiodelFrameCrcFail timed s
  | .watchdogCountRestart => Sys2Proof.Machine.execWatchdogCountRestart s
  | .deviceRoleTokenReceived p tok => Sys2Proof.Machine.execDeviceRoleTokenReceived p tok s
  | .vfEnableWrite enable numVfs => Sys2Proof.Machine.execVfEnableWrite enable numVfs s

end Sys2Proof.Machine
end

