-- ==== Sys2Proof/Machine/Line.lean ====
section
/-! DEFINITION. What the trace is on the lines (R38 to R42, R66, R73, R75, R77): the bytes of every packet that the device puts out, the byte
stream and the blocks of a trunk, and the bits of each lane; and the same of the Miodel link (R279). -/

namespace Sys2Proof.Machine

/-- A mark (R42). -/
def markBytes (p : Pkt) : List Byte :=
  let h := leBytes 1 Pk.mark ++ leBytes 1 p.flags ++ leBytes 2 p.seq ++ leBytes 2 p.tag ++ leBytes 1 p.handle ++ leBytes 5 0
  h ++ leBytes 4 (crc32 h)

/-- A handshake (R40). -/
def shakeBytes (p : Pkt) : List Byte :=
  let h := leBytes 1 p.kind ++ leBytes 1 p.flags ++ leBytes 2 p.tag
  h ++ leBytes 4 (crc32 h)

/-- The bytes of a packet: 16 of a mark or token, 16 and the payload of a DATA, 8 of a handshake (R39). -/
def wireBytes (p : Pkt) : List Byte :=
  if p.kind = Pk.mark then markBytes p else if 0x60 ≤ p.kind then shakeBytes p else pktBytes p

/-- What one record of the trace adds to the stream of trunk `t`; `lanes` are its lanes. -/
def Emit.items (t : Nat) (lanes : List Nat) : Emit → List LineItem
  | .pkt u p => if u = t then [.pkt (wireBytes p)] else []
  | .raw u b => if u = t then [.pkt b] else []
  | .ctl u typ n => if u = t then List.replicate n (.ctl typ) else []
  | .retrain n w => if lanes.contains n then [.raw w] else []
  | _ => []

/-- What trunk `t` has sent, in order. -/
def State.trunkItems (s : State) (t : Nat) : List LineItem := s.out.reverse.flatMap (Emit.items t (s.lanesOf t))

/-- The block sequence of trunk `t`: packets in data blocks, control blocks between them (R75). -/
def State.trunkSends (s : State) (t : Nat) : List Block := trunkBlocks (s.trunkItems t)

/-- The blocks of the `i`-th lane of trunk `t`, counted from its lowest lane (R77). -/
def State.laneBlocks (s : State) (t i : Nat) : List Block := stripe (s.width t) i (s.trunkSends t)

/-- One record of the trace on lane `n`, the `i`-th of trunk `t` (R75, R77, R78, R81). Before what the trunk sends stand `idle` IDLE blocks:
how many the transmitter fits in follows from the time of each record, which the trace does not hold, and so does the number of training frames. -/
def State.laneFeed (s : State) (t i n idle : Nat) (a : LaneAcc) (e : Emit) : LaneAcc :=
  match e with
  | .marker m lb p => if m = n then { a with seq := .marker lb p :: a.seq } else a
  | .train m raw => if m = n then { a with seq := .train raw idle :: a.seq } else a
  | .laneCtl m typ k => if m = n then { a with seq := List.replicate k (.block (ctlBlock typ)) ++ a.seq } else a
  | e =>
    let l := e.items t (s.lanesOf t)
    if l.isEmpty then a else a.feed (s.width t) i (List.replicate idle (.ctl Ct.idle) ++ l)

/-- What lane `n` has sent, in order. `idle` gives the IDLE blocks, or the training frames, at each record of the trace. -/
def State.laneSeq (s : State) (n : Nat) (idle : Nat → Nat) : List LaneItem :=
  let t := s.trunkOf n
  ((s.out.reverse.zipIdx).foldl (fun a x => s.laneFeed t (n - t) n (idle x.2) a x.1) ⟨⟨[], [], 8⟩, []⟩).seq.reverse

/-- The bits of lane `n`, from the states of its transmitter; TX_INVERT inverts them (R73, R77, R78, R81, R85). -/
def State.laneBits (s : State) (n : Nat) (idle : Nat → Nat) (x : LaneTx) : List Bool :=
  (laneItemBits x (s.laneSeq n idle)).map (· ^^ s.flag (Reg.LX_LANE_CTRL_TX_INVERT n))

/-- `k` bits of the generator of lane `n` in TEST, from the state `st` of its sequence, `len` of them from place `at_` on injected as errors (R85,
R94, R95); a generator that is off sends nothing. -/
def State.testBits (s : State) (n k st at_ len : Nat) : List Bool :=
  if s.laneState n = Ls.test ∧ s.flag (Reg.LX_PRBS_CTRL_GEN_EN n) then
    let l := (prbsBits (if s.flag (Reg.LX_PRBS_CTRL_POLY n) then prbs31 else prbs7) k st).1
    (flipRun at_ len l).map (· ^^ s.flag (Reg.LX_LANE_CTRL_TX_INVERT n))
  else []

/-! ## The Miodel link (R279) -/

/-- KIND of a frame. -/
def MioOut.kind : MioOut → Nat
  | .time _ => 0x81
  | .presence _ => 0x82
  | .blocks _ => 0x83
  | .digest _ _ => 0x84
  | .clip _ _ => 0x85
  | .relay _ => 0x86
  | .mirror _ _ => 0x90
  | .copy _ _ => 0x91
  | .ack _ => 0x92
  | .hello _ => 0x93

/-- FLAGS of a frame: those of TIME, and 0. -/
def MioOut.flags : MioOut → Nat
  | .time f => b2n f.abdicate + 2 * b2n f.rsqFailed
  | _ => 0

/-- Bytes 4 to 7 of the header of a frame sent in microframe `m`: bits [31:0] of the number for a timed frame, SEQ for an ordered one. A HELLO
has none yet, and carries 0 (DESIGN CHOICE, log entry 55). -/
def MioOut.number (m : Nat) : MioOut → Nat
  | .time f => f.mf.toNat
  | .mirror n _ => n
  | .copy n _ => n
  | .ack n => n
  | .hello _ => 0
  | _ => m

/-- A frame: its 8-byte header, the payload, and the CRC-32 over both. -/
def mioFrame (kind flags number : Nat) (payload : List Byte) : List Byte :=
  let h := leBytes 1 kind ++ leBytes 1 flags ++ leBytes 2 payload.length ++ leBytes 4 number ++ payload
  h ++ leBytes 4 (crc32 h)

/-- The bytes of a frame sent in microframe `m`; a payload is at most 4,096 bytes long. -/
def MioOut.bytes (m : Nat) (f : MioOut) : List Byte :=
  mioFrame f.kind f.flags (f.number m) ((Config.mioPayload f.kind (f.number m)).take 4096)

/-- What the Miodel link has to send of a trace in order, `m` being the microframe of its last TIME frame: each of these follows a SYNC
block. -/
def mioItems : Nat → List Emit → List LineItem
  | _, [] => []
  | m, .mio f :: l =>
    match f with
    | .time g => .ctl Ct.sync :: .pkt (f.bytes m) :: mioItems g.mf.toNat l
    | _ => .pkt (f.bytes m) :: mioItems m l
  | m, _ :: l => mioItems m l

/-- The block sequence of the Miodel link (R75, R279). -/
def State.mioSends (s : State) : List Block := trunkBlocks (mioItems 0 s.out.reverse)

end Sys2Proof.Machine
end

