-- ==== Sys2Proof/Safety.lean ====
section
/-! DEFINITION. What claims say of runs: the canonical form of every table, the commands' queue, and what a safe run is. -/

namespace Sys2Proof.Machine

/-- The command goes on to a next state that satisfies `p`. -/
def answers (i : Instr) (s : State) (p : State → Prop) : Prop := ∃ t, exec i s = .next t ∧ p t

/-- The register file is in canonical form. -/
def State.regsOk (s : State) : Prop := Tbl.wf regReset s.regs = true

/-- Endpoint buffer memory is in canonical form: an address that nothing lists reads 0 (R179). -/
def State.memOk (s : State) : Prop := Tbl.wf (fun _ => (0 : Byte)) s.ebm.mem = true

/-- Flash is in canonical form: erased bytes read 0xFF. -/
def State.flashOk (s : State) : Prop := Tbl.wf (fun _ => (0xFF : Byte)) s.ck.flash = true

/-- All three byte and word stores are in canonical form. -/
def State.ok (s : State) : Prop := s.regsOk ∧ s.memOk ∧ s.flashOk

/-- The parts of a state beside the queue of commands. -/
inductive Part
  | time | regs | lx | tree | ts | ebm | bus | qe | bm | xb | fn | mre | gd | sv | pu | pm | ck | free | out
  deriving DecidableEq, Repr

/-- Part `p` is the same in both states. -/
def Part.same : Part → State → State → Prop
  | .time, s, t => t.time = s.time
  | .regs, s, t => t.regs = s.regs
  | .lx, s, t => t.lx = s.lx
  | .tree, s, t => t.tree = s.tree
  | .ts, s, t => t.ts = s.ts
  | .ebm, s, t => t.ebm = s.ebm
  | .bus, s, t => t.bus = s.bus
  | .qe, s, t => t.qe = s.qe
  | .bm, s, t => t.bm = s.bm
  | .xb, s, t => t.xb = s.xb
  | .fn, s, t => t.fn = s.fn
  | .mre, s, t => t.mre = s.mre
  | .gd, s, t => t.gd = s.gd
  | .sv, s, t => t.sv = s.sv
  | .pu, s, t => t.pu = s.pu
  | .pm, s, t => t.pm = s.pm
  | .ck, s, t => t.ck = s.ck
  | .free, s, t => t.free = s.free
  | .out, s, t => t.out = s.out

/-- The parts that a command may change, beside what it says of its own effect: the frame of every command. -/
def parts : Instr → List Part
  | .adaptationFreeze _ | .adaptationResume _ | .prbsLockLost _ | .aspmL1Request | .pwrRdy | .oscRdy | .tempSample _ | .configReady
  | .miodelFrameCrcFail _ => [.regs]
  | .laneRetrainReq _ | .delineationRecovered _ => [.lx]
  | .tagReuseExpiry .. => [.bus]
  | .pmeStatusClear _ => [.fn]
  | .affinityWaitExpiry _ => [.gd]
  | .watchdogCountRestart => [.ck]
  | .marginCheckStart _ | .eyePointDone .. | .marginCheckComplete .. => [.regs, .lx]
  | .corruptPacketReceived _ | .senseLevelChange .. => [.regs, .tree]
  | .ebmInitDone | .memRdy => [.regs, .ebm]
  | .operationDispatch | .spillMove _ | .obsWindowClose => [.regs, .gd]
  | .mirrorWriteApply => [.regs, .pu]
  | .referenceLost _ | .watchdogCountExpiry | .rsqRestartDone => [.regs, .ck]
  | .adaptationConverged .. => [.lx, .out]
  | .rootGetPortStatus _ => [.tree, .out]
  | .msixUnmask .. => [.fn, .out]
  | .miodelClipFrame .. => [.mre, .pu]
  | .miodelPresenceFrame _ | .miodelAckTimer | .hostLossHandoverTimer => [.pu, .out]
  | .referenceAcquired _ | .coldResetRelease _ => [.time, .regs, .ck]
  | .inputCutoff => [.time, .pu, .out]
  | .delineationLoss _ => [.regs, .lx, .tree]
  | .prbsLock _ | .markerReceived .. => [.regs, .lx, .sv]
  | .retrainSlotEnd _ => [.regs, .lx, .ck]
  | .pmeResend _ => [.regs, .fn, .out]
  | .heldNoticeEnter _ | .clipRefillNotice _ => [.regs, .mre, .gd]
  | .dvfsVoltageDone | .satinReturnStep2 => [.regs, .gd, .pm]
  | .miodelResendTimeout => [.regs, .pu, .out]
  | .flashCommandDone => [.regs, .ck, .out]
  | .markerSend _ => [.lx, .free, .out]
  | .moderationTimerExpiry .. => [.qe, .fn, .out]
  | .clipStartTimer _ | .clipRepeatTimer _ => [.time, .regs, .mre, .gd]
  | .pilotTimer _ => [.time, .regs, .gd, .sv]
  | .lpiKeepaliveWake _ => [.time, .lx, .free, .out]
  | .laneTrainStart _ | .failedRetryTimer _ | .blockLockLost _ => [.regs, .lx, .ck, .out]
  | .trainHeaderReceived .. | .retrainBlockReceived .. => [.regs, .lx, .free, .out]
  | .slotAllocated => [.regs, .ebm, .bus, .mre]
  | .ringScanData .. | .d3hotEntry _ => [.regs, .qe, .fn, .out]
  | .readLimitExpiry _ => [.regs, .xb, .fn, .out]
  | .trunkCfgWrite .. | .tsEnableWrite _ | .windowCfgWrite .. | .mgtRegisterRead _ | .registerReadRc .. => [.regs, .fn, .pm, .out]
  | .joinPhaseEnd => [.regs, .mre, .pu, .out]
  | .resetSignallingEnd _ => [.regs, .lx, .tree, .ck, .out]
  | .eyeSwOwn _ | .eyeScanStart .. | .prbsInjectSingle _ | .prbsInjectBurst .. => [.regs, .lx, .fn, .pm, .out]
  | .periodicInData .. => [.regs, .tree, .ebm, .bus, .gd]
  | .miodelBlocksFrame _ => [.regs, .ebm, .bus, .gd, .pu]
  | .diagWindowAccess _ => [.regs, .ebm, .fn, .pm, .out]
  | .lockSequenceStart _ | .lockRetry _ => [.regs, .bus, .xb, .free, .out]
  | .svBacklogDrain => [.regs, .qe, .fn, .sv, .out]
  | .timeSourceLost | .joinDone | .puBacklogDrain => [.regs, .qe, .fn, .pu, .out]
  | .doorbellWrite .. | .invalidateDoorbell .. | .adminCfgWrite .. => [.regs, .qe, .fn, .pm, .out]
  | .remoteWindowRead .. | .remoteWindowWrite .. | .atomicopRequest .. | .viewFaultClear _ => [.regs, .xb, .fn, .pm, .out]
  | .obsCtrlWrite _ | .dvfsVoltageStep .. | .dvfsFrequencyStep .. => [.regs, .fn, .gd, .pm, .out]
  | .admitCfgWrite _ => [.regs, .fn, .pu, .pm, .out]
  | .watchdogExpiry => [.regs, .fn, .pu, .ck, .out]
  | .rsqRestart | .flashRead | .flashProgram | .flashErase => [.regs, .fn, .pm, .ck, .out]
  | .fillDeadline => [.time, .regs, .ebm, .mre, .sv, .pu]
  | .frameSyncPulse .. => [.time, .regs, .qe, .fn, .pu, .out]
  | .portSetPower _ => [.regs, .lx, .tree, .pu, .ck, .out]
  | .retrainSlotStart _ => [.regs, .lx, .ts, .ck, .free, .out]
  | .laneEnableWrite .. => [.regs, .lx, .fn, .pm, .ck, .out]
  | .helloTimeout => [.regs, .tree, .qe, .fn, .pu, .out]
  | .deviceRoleTokenReceived .. => [.regs, .tree, .mre, .gd, .free, .out]
  | .nop .. | .fence .. | .move .. | .moveIndexed .. | .deleteSq .. | .deleteCq .. | .identify .. | .vfThaw .. | .engineRestart ..
  | .pairQuery .. | .dmaWindowSet .. | .engineRestartDone _ | .vfFlrComplete _ => [.regs, .qe, .bm, .xb, .fn, .out]
  | .refreshEnd => [.regs, .qe, .fn, .gd, .sv, .out]
  | .wakeEvent _ | .alarmExpiry | .mgtAddressMatch _ | .d0Return _ | .hostLinkUp .. => [.regs, .qe, .fn, .pu, .pm, .out]
  | .warmReset _ => [.regs, .fn, .pu, .pm, .ck, .out]
  | .scheduleBankSwitch => [.time, .regs, .tree, .ts, .ebm, .pu, .out]
  | .attachDebounceExpiry _ | .linkPresenceAttach _ => [.regs, .lx, .tree, .qe, .fn, .pu, .out]
  | .bootLoadComplete => [.regs, .lx, .qe, .fn, .pu, .ck, .out]
  | .hubStatusReport .. => [.regs, .tree, .ebm, .bus, .mre, .free, .out]
  | .lockWaitExpiry _ => [.regs, .bus, .qe, .bm, .xb, .fn, .out]
  | .tapChunkComplete _ | .tapRecord .. => [.regs, .qe, .bm, .xb, .fn, .mre, .out]
  | .miodelDigestFrame .. | .miodelAckFrame _ | .orderedChannelDown | .alignLost | .barrierComplete _ | .joinTimeout | .pairHandover ..
  | .pairLeave .. | .pairSetRank .. | .pairBarrier .. => [.regs, .qe, .bm, .xb, .fn, .pu, .out]
  | .createSq .. | .createCq .. | .getLog .. | .vfRestore .. => [.regs, .qe, .bm, .xb, .fn, .free, .out]
  | .perstRelease => [.regs, .qe, .fn, .pu, .pm, .ck, .out]
  | .portSetSuspend _ | .warmResetEnd => [.regs, .lx, .tree, .qe, .fn, .pu, .ck, .out]
  | .addressBindingExpiry _ => [.regs, .tree, .ebm, .bus, .mre, .pu, .free, .out]
  | .graphSwapComplete | .graphLoadResume _ => [.regs, .qe, .bm, .xb, .fn, .mre, .pu, .out]
  | .cascadeMarkReceived .. => [.time, .regs, .lx, .tree, .qe, .fn, .pu, .free, .out]
  | .graphSwapTakeover => [.time, .regs, .ebm, .qe, .fn, .mre, .gd, .sv, .out]
  | .portSetResume _ | .portSetEnable _ | .resumeComplete _ => [.regs, .lx, .tree, .qe, .fn, .pu, .ck, .free, .out]
  | .satinReturnStep1 => [.regs, .lx, .ts, .gd, .pu, .pm, .ck, .free, .out]
  | .tmBacklogDrain => [.regs, .tree, .ebm, .bus, .qe, .fn, .mre, .free, .out]
  | .viewAccessStart _ => [.regs, .ebm, .bus, .qe, .bm, .xb, .fn, .mre, .out]
  | .pilotWindowEnd _ | .twillSwapPhase => [.regs, .qe, .bm, .xb, .fn, .sv, .pu, .free, .out]
  | .remoteWakeSignal _ => [.regs, .lx, .tree, .qe, .fn, .pu, .pm, .ck, .free, .out]
  | .auditEyeComplete _ => [.regs, .lx, .qe, .bm, .xb, .fn, .sv, .pu, .free, .out]
  | .miodelCopyFrame .. => [.regs, .tree, .ts, .ebm, .fn, .mre, .gd, .sv, .pu, .out]
  | .tmEnableWrite _ => [.regs, .tree, .ebm, .bus, .fn, .mre, .pu, .pm, .free, .out]
  | .walkerIssue _ | .scrubPass _ | .vfFreeze .. | .hostCompletionTimeout _ => [.regs, .ts, .ebm, .bus, .qe, .bm, .xb, .fn, .mre, .out]
  | .decisionTime | .sweepSlotTimer .. => [.time, .regs, .qe, .bm, .xb, .fn, .gd, .sv, .pu, .free, .out]
  | .auditPrbsEnd => [.regs, .lx, .qe, .bm, .xb, .fn, .sv, .pu, .ck, .free, .out]
  | .bmHostCompletion .. => [.regs, .ts, .ebm, .bus, .qe, .bm, .xb, .fn, .mre, .pu, .out]
  | .bmAbort _ => [.regs, .ts, .ebm, .bus, .qe, .bm, .xb, .fn, .mre, .pm, .out]
  | .vfSave .. => [.regs, .ebm, .bus, .qe, .bm, .xb, .fn, .mre, .gd, .pu, .out]
  | .logicRdy .. => [.time, .regs, .lx, .tree, .qe, .fn, .gd, .pu, .pm, .ck, .free, .out]
  | .clipStopTimer _ => [.time, .regs, .ebm, .bus, .qe, .bm, .xb, .fn, .mre, .gd, .pu, .out]
  | .portResetComplete _ => [.regs, .lx, .tree, .ts, .ebm, .bus, .qe, .fn, .mre, .pu, .free, .out]
  | .auditPartStart => [.regs, .lx, .qe, .bm, .xb, .fn, .gd, .sv, .pu, .ck, .free, .out]
  | .peerLossDetect _ => [.regs, .tree, .ts, .ebm, .bus, .qe, .bm, .xb, .fn, .mre, .pu, .out]
  | .responseWindowClose .. => [.regs, .tree, .ts, .ebm, .bus, .qe, .bm, .xb, .fn, .mre, .free, .out]
  | .markOnRootPort .. | .portClearEnable _ => [.regs, .lx, .tree, .ts, .ebm, .bus, .qe, .bm, .xb, .fn, .mre, .pu, .out]
  | .pmeTurnOff | .requestSatin | .requestDormant | .requestActive => [.regs, .lx, .qe, .bm, .xb, .fn, .gd, .sv, .pu, .pm, .ck, .free, .out]
  | .miodelHelloFrame _ | .takeover | .handoverSwitch => [.regs, .tree, .ts, .ebm, .bus, .qe, .bm, .xb, .fn, .mre, .gd, .pu, .out]
  | .npTransactionStart _ => [.regs, .tree, .ts, .ebm, .bus, .qe, .bm, .xb, .fn, .mre, .pu, .free, .out]
  | .miodelTimeFrame _ => [.regs, .lx, .tree, .ts, .ebm, .bus, .qe, .bm, .xb, .fn, .mre, .gd, .pu, .out]
  | .pairJoin .. | .bulkOut .. | .bulkIn .. | .tunnelTx .. | .tunnelRx .. | .presenceLost _ | .linkPresenceLost _ | .alignmentComplete ..
  | .trainingTimeout _ | .twillRetrainTimeout _ | .portClearPower _ | .portSetReset _ | .linkLost _
    => [.regs, .lx, .tree, .ts, .ebm, .bus, .qe, .bm, .xb, .fn, .mre, .pu, .ck, .out]
  | .rebaseEnd | .pairPortTimeout .. => [.regs, .lx, .tree, .ts, .ebm, .bus, .qe, .bm, .xb, .fn, .mre, .pu, .free, .out]
  | .quadCfgWrite .. | .portCtrlWrite .. | .pairEnableWrite _ => [.regs, .lx, .tree, .ts, .ebm, .bus, .qe, .bm, .xb, .fn, .mre, .pu, .pm, .ck, .out]
  | .trainingComplete _ | .control .. | .npDataReceived .. | .ackReceived .. | .nakReceived .. | .stallReceived .. | .nyetReceived ..
  | .errReceived .. | .lockAckReceived .. | .lockBusyReceived .. | .miodelRelayFrame _ | .bmBurstStart _ | .enumerationStart _
    => [.regs, .lx, .tree, .ts, .ebm, .bus, .qe, .bm, .xb, .fn, .mre, .pu, .ck, .free, .out]
  | .hostLinkDown | .hotReset | .pfFlr | .vfFlr _ | .vfEnableWrite ..
    => [.regs, .lx, .ts, .ebm, .bus, .qe, .bm, .xb, .fn, .mre, .gd, .sv, .pu, .ck, .out]
  | .operationComplete .. => [.regs, .ts, .ebm, .bus, .qe, .bm, .xb, .fn, .mre, .gd, .sv, .pu, .pm, .free, .out]
  | .tmTransferComplete .. => [.regs, .lx, .tree, .ts, .ebm, .bus, .qe, .bm, .xb, .fn, .mre, .pu, .pm, .ck, .free, .out]
  | .satinEntry => [.regs, .lx, .ts, .ebm, .qe, .bm, .xb, .fn, .mre, .gd, .sv, .pu, .pm, .ck, .free, .out]
  | .entryStart .. | .clipPlay .. | .clipStop .. | .setShare .. | .endpointAdd .. | .endpointRemove .. | .scheduleCommit .. | .graphLoad ..
  | .graphSwap .. | .groupSet .. | .vfGrant .. | .auditStart ..
    => [.regs, .lx, .tree, .ts, .ebm, .bus, .qe, .bm, .xb, .fn, .mre, .gd, .sv, .pu, .ck, .free, .out]
  | .supplyLoss | .coldReset | .fundamentalReset
    => [.time, .regs, .lx, .tree, .ts, .ebm, .bus, .qe, .bm, .xb, .fn, .mre, .gd, .sv, .pu, .pm, .ck, .free]
  | .miodelMirrorFrame .. | .registerWrite .. | .mgtRegisterWrite ..
    => [.regs, .lx, .tree, .ts, .ebm, .bus, .qe, .bm, .xb, .fn, .mre, .gd, .sv, .pu, .pm, .ck, .free, .out]
  | .dormantEntry | .microframeMark => [.time, .regs, .lx, .tree, .ts, .ebm, .bus, .qe, .bm, .xb, .fn, .mre, .gd, .sv, .pu, .pm, .ck, .free, .out]

/-- From `s` to `t` the queue stays, and of the other parts at most those of `l` change. -/
def State.only (l : List Part) (s t : State) : Prop :=
  t.pending = s.pending ∧ ∀ p, l.contains p = false → p.same s t

/-- From `s` to `t` at most the registers at the addresses of `l` change. -/
def State.regsBut (l : List Nat) (s t : State) : Prop := ∀ a, a ∉ l → t.reg a = s.reg a

/-- A write of the PF to the register at `a` is carried out: configuration access is ready, the PF is not in D3hot, and the register is
not gated (R332, R337, R504). -/
def State.pfServes (s : State) (a : Nat) : Prop :=
  s.flag Reg.HIF_STATUS_CONFIG_READY = true ∧ s.d3hot 0 = false ∧ s.regServed a = true

/-- The state in which an entry has left the cache and joined the started ones (R353). -/
def State.begun (s : State) (r : EntryRef) (e : Sqe) : State := s.startRec r e (placeOf r e).1 (placeOf r e).2

/-- An entry starts: it may (R353), no check of it fails (R356), and the engine of its channel has not stopped (R387). -/
def State.starts (s : State) (r : EntryRef) (e : Sqe) : Prop :=
  s.entryMay r e = true ∧ s.check r e = St.ok ∧ ∀ c, sqeChan e = some c → (s.begun r e).stopped (c / 64) = false

/-- Entry `x` of a row, whose words are `w`, starts, and `u` is the state in which it has. -/
def State.starting (s : State) (r : EntryRef) (w x : Sqe) (u : State) : Prop :=
  x = w ∧ s.starts r x ∧ u = s.begun r x

/-- SQ `q` of entry `r` reports to CQ `c`, which takes a CQE at once: it is not faulted, has credit and holds nothing, the function is
not in D3hot, and the host can be reached (R320, R339, R357, R363). -/
def State.reports (s : State) (r : EntryRef) (q : SqRec) (c : CqRec) : Prop :=
  s.sq r.fn.val r.sq.toNat = some q ∧ s.cq r.fn.val q.cq = some c ∧ c.faulted = false ∧ 0 < c.credit ∧ c.hold = [] ∧ c.waiting = [] ∧
    s.d3hot r.fn.val = false ∧ s.hostHere = true

/-- A run of `n` steps from `s` stops nowhere. -/
def State.goesOn (s : State) : Nat → Prop
  | 0 => True
  | n + 1 => ∃ t, step s = .next t ∧ t.goesOn n

end Sys2Proof.Machine
end

