-- ==== Sys2Proof/WellFormed.lean ====
section
/-! DEFINITION. Well-formed commands: what the spec says of the data that a command brings, beyond what its type says. `exec` is total and
asks for none of it; an ill-formed command stands for no event of the device. -/

namespace Sys2Proof
open Machine

/-- A payload of a DATA packet holds at most 1,024 bytes (R40). -/
def payloadOk (b : List Byte) : Bool := decide (b.length ≤ 1024)

def DataPkt.wf (d : DataPkt) : Bool := payloadOk d.payload
def TokenPkt.wf (k : TokenPkt) : Bool := payloadOk k.payload && decide (k.length.toNat ≤ 1024)

/-- An entry comes from a submission ring: local index 1 is the admin CQ (R344). -/
def EntryRef.wf (r : EntryRef) : Bool := r.sq.toNat != 1

/-- What a RELAY frame carries fits a Miodel frame (R279). -/
def RelayFrame.wf : RelayFrame → Bool
  | .send _ b => decide (b.length ≤ 4096)
  | .gotData _ d => d.wf
  | .gotHandshake .. => true

/-- No number stands twice. -/
def distinct : List Nat → Bool
  | [] => true
  | a :: r => !r.contains a && distinct r

/-- Bytes of a view: 16 MiB of a PF window, 1 MiB of a delegated one (R321). -/
def View.size : View → Nat
  | .pf _ => 0x1000000
  | .vf .. => 0x100000

/-- An access of `n` bytes at `off` lies in its view. -/
def View.holds (v : View) (off n : Nat) : Bool := decide (0 < n ∧ off + n ≤ v.size)

/-- An access through PF BAR2 lies in its 128 MiB (R321). -/
def DiagAccess.wf : DiagAccess → Bool
  | .read a n => decide (0 < n ∧ a.toNat + n ≤ 0x8000000)
  | .write a b => decide (0 < b.length ∧ a.toNat + b.length ≤ 0x8000000)

/-- Speeds 1 to 5 of 2.5 to 32 GT/s, and the link's widths (R318, R342). -/
def linkOk (speed width : Nat) : Bool := decide (1 ≤ speed ∧ speed ≤ 5) && [1, 2, 4, 8, 16].contains width

/-- The command is well-formed. -/
def Instr.wf : Instr → Bool
  | .periodicInData _ d | .npDataReceived _ d => d.wf
  | .deviceRoleTokenReceived _ k => k.wf
  | .scrubPass hits => hits.all (fun h => decide (h.addr < 0x8000000))
  | .diagWindowAccess a => a.wf
  | .auditEyeComplete g => distinct (g.map (fun x => x.lane.val)) && g.all (fun x => decide (x.counts.length ≤ 187))
  | .miodelPresenceFrame l => distinct (l.map (fun x => x.trunk.val))
  | .miodelBlocksFrame l => l.all (fun x => payloadOk x.payload)
  | .miodelDigestFrame _ d => d.length == 256
  | .miodelClipFrame _ l => l.all (fun x => x.samples.length == 6) && distinct (l.map (fun x => x.gen.val))
  | .miodelRelayFrame f => f.wf
  | .msixUnmask f v => f.val == 0 || decide (v.toNat < 64)
  | .nop r _ | .fence r _ | .bulkOut r _ | .bulkIn r _ | .control r _ | .tunnelTx r _ | .tunnelRx r _ | .move r _ | .moveIndexed r _
  | .clipPlay r _ | .clipStop r _ | .tapRecord r _ => r.wf && r.sq.toNat != 0
  | .createSq r _ | .deleteSq r _ | .createCq r _ _ | .deleteCq r _ | .identify r _ | .setShare r _ | .getLog r _ | .endpointAdd r _
  | .endpointRemove r _ | .scheduleCommit r _ | .graphLoad r _ _ | .graphSwap r _ | .groupSet r _ | .vfGrant r _ _ | .vfFreeze r _
  | .vfSave r _ | .vfThaw r _ | .engineRestart r _ | .auditStart r _ | .pairQuery r _ | .pairHandover r _ | .pairLeave r _
  | .pairJoin r _ | .pairSetRank r _ | .pairBarrier r _ | .dmaWindowSet r _ => r.sq.toNat == 0
  | .vfRestore r _ blob => r.sq.toNat == 0 && decide (blob.length ≤ 0x100000)
  | .bmHostCompletion _ _ b => decide (b.length ≤ 4096)
  | .remoteWindowRead v off n => v.holds off n
  | .remoteWindowWrite v off b => v.holds off b.length
  | .atomicopRequest v off wide _ => v.holds off (if wide then 8 else 4)
  | .registerWrite a _ e => a.toNat % (if e.hi.isSome then 8 else 4) == 0
  | .registerReadRc f a => a.toNat % (if f.wide then 8 else 4) == 0 && (f.fn.val == 0 || decide (a.toNat < 0x10000))
  | .hostLinkUp s w _ => linkOk s.toNat w.toNat
  | .vfEnableWrite _ n => decide (n.toNat ≤ 1024)
  | .tmTransferComplete _ r => payloadOk r.data
  | .microframeMark | .fillDeadline | .scheduleBankSwitch | .graphSwapTakeover | .graphSwapComplete | .graphLoadResume _ | .rebaseEnd
  | .inputCutoff | .decisionTime | .walkerIssue _ | .npTransactionStart _ | .tagReuseExpiry .. | .ackReceived .. | .nakReceived ..
  | .stallReceived .. | .nyetReceived .. | .errReceived .. | .lockAckReceived .. | .lockBusyReceived .. | .corruptPacketReceived _
  | .responseWindowClose .. | .markOnRootPort .. | .delineationLoss _ | .markerSend _ | .markerReceived .. | .alignmentComplete ..
  | .laneEnableWrite .. | .laneTrainStart _ | .laneRetrainReq _ | .quadCfgWrite .. | .trainHeaderReceived .. | .adaptationConverged ..
  | .trainingComplete _ | .trainingTimeout _ | .failedRetryTimer _ | .blockLockLost _ | .adaptationFreeze _ | .adaptationResume _
  | .marginCheckStart _ | .marginCheckComplete .. | .twillRetrainTimeout _ | .retrainSlotStart _ | .retrainSlotEnd _
  | .retrainBlockReceived .. | .eyeSwOwn _ | .eyeScanStart .. | .eyePointDone .. | .lpiKeepaliveWake _ | .prbsInjectSingle _
  | .prbsInjectBurst .. | .prbsLock _ | .prbsLockLost _ | .attachDebounceExpiry _ | .presenceLost _ | .linkPresenceAttach _
  | .linkPresenceLost _ | .portCtrlWrite .. | .portSetPower _ | .portClearPower _ | .portSetReset _ | .portSetSuspend _ | .portSetResume _
  | .portSetEnable _ | .portClearEnable _ | .rootGetPortStatus _ | .resetSignallingEnd _ | .portResetComplete _ | .linkLost _
  | .remoteWakeSignal _ | .resumeComplete _ | .hubStatusReport .. | .enumerationStart _ | .addressBindingExpiry _ | .pairPortTimeout ..
  | .tmEnableWrite _ | .tmBacklogDrain | .trunkCfgWrite .. | .tsEnableWrite _ | .slotAllocated | .ebmInitDone | .operationDispatch
  | .affinityWaitExpiry _ | .operationComplete .. | .spillMove _ | .heldNoticeEnter _ | .clipRefillNotice _ | .tapChunkComplete _
  | .clipStartTimer _ | .clipRepeatTimer _ | .clipStopTimer _ | .sweepSlotTimer .. | .pilotTimer _ | .admitCfgWrite _ | .obsCtrlWrite _
  | .obsWindowClose | .refreshEnd | .pilotWindowEnd _ | .svBacklogDrain | .auditPartStart | .auditPrbsEnd | .twillSwapPhase
  | .miodelTimeFrame _ | .miodelMirrorFrame .. | .miodelCopyFrame .. | .miodelAckFrame _ | .miodelHelloFrame _ | .miodelAckTimer
  | .miodelResendTimeout | .orderedChannelDown | .frameSyncPulse .. | .peerLossDetect _ | .takeover | .helloTimeout | .timeSourceLost
  | .alignLost | .cascadeMarkReceived .. | .pairEnableWrite _ | .mirrorWriteApply | .handoverSwitch | .barrierComplete _ | .joinPhaseEnd
  | .joinDone | .joinTimeout | .puBacklogDrain | .doorbellWrite .. | .invalidateDoorbell .. | .ringScanData .. | .entryStart ..
  | .moderationTimerExpiry .. | .adminCfgWrite .. | .bmBurstStart _ | .hostCompletionTimeout _ | .bmAbort _ | .engineRestartDone _
  | .viewAccessStart _ | .readLimitExpiry _ | .lockSequenceStart _ | .lockWaitExpiry _ | .lockRetry _ | .viewFaultClear _
  | .windowCfgWrite .. | .d3hotEntry _ | .d0Return _ | .pmeResend _ | .pmeTurnOff | .aspmL1Request | .hostLinkDown | .hotReset
  | .hostLossHandoverTimer | .pfFlr | .vfFlr _ | .vfFlrComplete _ | .requestSatin | .requestDormant | .requestActive | .satinEntry
  | .satinReturnStep1 | .satinReturnStep2 | .dormantEntry | .wakeEvent _ | .alarmExpiry | .pwrRdy | .oscRdy | .memRdy | .logicRdy ..
  | .dvfsVoltageStep .. | .dvfsFrequencyStep .. | .dvfsVoltageDone | .mgtRegisterWrite .. | .mgtRegisterRead _ | .mgtAddressMatch _
  | .tempSample _ | .supplyLoss | .referenceAcquired _ | .referenceLost _ | .coldReset | .coldResetRelease _ | .fundamentalReset
  | .perstRelease | .bootLoadComplete | .warmReset _ | .warmResetEnd | .watchdogExpiry | .watchdogCountExpiry | .rsqRestart
  | .rsqRestartDone | .flashRead | .flashProgram | .flashErase | .flashCommandDone | .delineationRecovered _ | .senseLevelChange ..
  | .configReady | .pmeStatusClear _ | .miodelFrameCrcFail _ | .watchdogCountRestart => true

end Sys2Proof
end

