-- ==== Sys2Proof/Certificates/Slice0/Obligations.lean ====
section
/-! DEFINITION. The statements for the provers. A completion statement names the conditions on the state and the operands under which a
command has its own effect, and what the next state then holds. Where the effect ends in an operation that other commands share, the
statement names the state `u` in which the command's own effect stands and says that the next state is that operation on `u`. The rules
named in a docstring are those that its clauses rest on; of each, a statement says what its clauses say. -/

section
open Sys2Proof Sys2Proof.Machine

/-! ## Lanes (R71 to R95, R270) -/

/-- How a lane goes through training: what starts it, how it ends and how it fails, and that neither its attempt nor its wait in FAILED ends
early (R80, R83, R84, R91, R102). A good training header takes the far receiver's status and finds the polarity, PRESET is applied once, a
status ends the own receiver's request, and the lane answers with its own header (R81, R82, R85). -/
def Obligations.LanesTrain : Prop :=
  (∀ (s : State) (n : LaneId),
    (s.flag (Reg.LX_LANE_CTRL_EN n) = true → s.f (Reg.LX_LANE_CTRL_MODE n) = 0 → (s.laneState n = Ls.disabled ∨ s.laneState n = Ls.failed) →
      answers (.laneTrainStart n) s (fun t => t.laneState n = Ls.training ∧ (t.lane n).trainAt = some s.now ∧ (t.lane n).tries = 0 ∧
        (t.lane n).rxReadySent = false ∧ (t.lane n).rxReadyGot = false ∧
        (s.flag (Reg.LX_TX_TAPS_OVR n) = false → t.f (Reg.LX_TX_TAPS_PRE n) = (if s.flag (Reg.LX_TRAIN_CFG_START_PRESET n) then 0 else 4) ∧
          t.f (Reg.LX_TX_TAPS_MAIN n) = (if s.flag (Reg.LX_TRAIN_CFG_START_PRESET n) then 64 else 48) ∧
          t.f (Reg.LX_TX_TAPS_POST n) = (if s.flag (Reg.LX_TRAIN_CFG_START_PRESET n) then 0 else 12)) ∧
        t.out = .train n (t.trainHeader n) :: s.out)) ∧
    (∀ t0, s.laneState n = Ls.failed → (s.lane n).failedAt = some t0 → (s.lane n).tries < max 1 (s.f (Reg.LX_TRAIN_CFG_MAX_TRIES n)) →
      answers (.failedRetryTimer n) s (fun t => if t0 + 2500000 ≤ s.now then t.laneState n = Ls.training ∧ (t.lane n).trainAt = some s.now ∧
        (t.lane n).tries = (s.lane n).tries else t = s)) ∧
    (s.laneState n = Ls.up → answers (.blockLockLost n) s (fun t => t.laneState n = Ls.training ∧ (t.lane n).trainAt = some s.now ∧
        (t.lane n).tries = 0)) ∧
    (∀ m, s.laneState n = Ls.training → s.marginsMeet n 1 m = true →
      answers (.adaptationConverged n m) s (fun t => (t.lane n).rxReadySent = true ∧ t.laneState n = Ls.training ∧
        ((s.lane n).rxReadyGot = true → (s.lane n).readyAt = none → (t.lane n).readyAt = some s.now))) ∧
    (∀ r0 t0, s.laneState n = Ls.training → (s.lane n).readyAt = some r0 → r0 + 1082 ≤ s.now → (s.lane n).trainAt = some t0 →
      s.now < t0 + 1250000 → answers (.trainingComplete n) s (fun t => t.laneState n = Ls.aligning ∧ (t.lane n).markerAt = s.now ∧
        t.out = .marker n (s.laneByte n) (s.trunkOf n) :: .laneCtl n Ct.idle wakeIdle :: s.out)) ∧
    (∀ t0, s.laneState n = Ls.training → (s.lane n).trainAt = some t0 → s.now < t0 + 1250000 →
      answers (.trainingTimeout n) s (fun t => t = s)) ∧
    (∀ t0, s.laneState n = Ls.training → (s.lane n).trainAt = some t0 → t0 + 1250000 ≤ s.now →
      answers (.trainingTimeout n) s (fun t => ∃ u : State, u.laneState n = Ls.failed ∧
        (u.lane n).failedAt = some s.now ∧ (u.lane n).tries = (s.lane n).tries + 1 ∧
        u.f (Reg.LX_RETRAIN_COUNT_FAILS n) = min (s.f (Reg.LX_RETRAIN_COUNT_FAILS n) + 1) 65535 ∧
        t = if (s.lane n).tries + 1 < max 1 (s.f (Reg.LX_TRAIN_CFG_MAX_TRIES n)) then u
          else if (s.trunk (s.trunkOf n)).twillAt.isSome then u.failTwill (s.trunkOf n)
          else if s.portState (s.trunkOf n) = Ps.resetting ∧ s.rootRole (s.trunkOf n) then u.portDisable (s.trunkOf n) Rs.trainFailed St.deviceGone
          else if s.portState (s.trunkOf n) = Ps.powered ∧ s.flag (Reg.TM_PORT_CTRL_PRESENCE (s.trunkOf n)) = true then
            u.updLane n (fun l => { l with tries := 0 })
          else u))) ∧
  (∀ (s : State) (n : LaneId) (raw : BitVec 64) (inv : Bool), s.laneState n = Ls.training → rawGood 0xC3 raw = true →
    answers (.trainHeaderReceived n raw inv) s (fun t => t.flag (Reg.LX_LANE_STATUS_RX_INVERTED n) = inv ∧
      (t.lane n).farStatus = field (leBytes 8 raw.toNat) 2 1 ∧ t.out = .train n (t.trainHeader n) :: s.out ∧
      (field (leBytes 8 raw.toNat) 2 1 % 64 ≠ 0 → (t.lane n).request = 0) ∧
      (nbit (field (leBytes 8 raw.toNat) 2 1) 6 = true → (t.lane n).rxReadyGot = true) ∧
      (field (leBytes 8 raw.toNat) 1 1 = 64 → s.flag (Reg.LX_TX_TAPS_OVR n) = false → (s.lane n).stPre = 0 →
        t.f (Reg.LX_TX_TAPS_PRE n) = 0 ∧ t.f (Reg.LX_TX_TAPS_MAIN n) = 64 ∧ t.f (Reg.LX_TX_TAPS_POST n) = 0 ∧
        (t.lane n).stPre = 1 ∧ (t.lane n).stMain = 1 ∧ (t.lane n).stPost = 1)))

/-- A trunk leaves ALIGNING for UP when its markers agree and its skew is at most 64 ns; otherwise ALIGN_FAIL is set, the lanes stay in
ALIGNING, and a port that is being reset becomes DISABLED (R79, R80). Writes to LX_LANE_CTRL and LX_QUAD_CFG: a port that a width takes away is
OFF (R71, R72, R80, R94, R97). -/
def Obligations.TrunksAlignAndLanesAreControlled : Prop :=
  (∀ (s : State) (t : Trunk) (skew : BitVec 7), s.miodelLane t = false → s.lanesOf t ≠ [] →
    (∀ n ∈ s.lanesOf t, s.laneState n = Ls.aligning) →
    (skew.toNat ≤ 64 → s.markersAgree t = true → answers (.alignmentComplete t skew) s (fun r => ∃ u : State,
      (∀ n ∈ s.lanesOf t, u.laneState n = Ls.up ∧ (u.lane n).upAt = some s.now ∧ (u.lane n).checks = 0) ∧
      (u.trunk t).skew = skew.toNat ∧ r = if (s.trunk t).twillAt.isSome then u.endTwill t else u)) ∧
    ((64 < skew.toNat ∨ s.markersAgree t = false) → answers (.alignmentComplete t skew) s (fun r => ∃ u : State,
      u.flag (Reg.LX_QUAD_STATUS_ALIGN_FAIL (t / 4)) = true ∧ (∀ n ∈ s.lanesOf t, u.laneState n = Ls.aligning) ∧
      r = if s.portState t = Ps.resetting ∧ s.rootRole t then u.portDisable t Rs.trainFailed St.deviceGone else u))) ∧
  (∀ (s : State) (n : LaneId) (q : QuadId) (v : Word),
    (s.pfServes (Reg.LX_LANE_CTRL n) → bits v 0 1 = 0 → answers (.laneEnableWrite n v) s (fun t =>
      t.laneState n = Ls.disabled ∧ t.flag (Reg.LX_LANE_CTRL_EN n) = false)) ∧
    (s.pfServes (Reg.LX_LANE_CTRL n) → bits v 0 1 = 1 → bits v 4 2 = 1 → s.laneState n = Ls.disabled →
      answers (.laneEnableWrite n v) s (fun t => t.laneState n = Ls.test)) ∧
    (s.pfServes (Reg.LX_LANE_CTRL n) → bits v 0 1 = 1 → bits v 4 2 = 0 → bits v 2 1 = 1 →
      (s.laneState n = Ls.disabled ∨ s.laneState n = Ls.failed) → answers (.laneEnableWrite n v) s (fun t => t.laneState n = Ls.training)) ∧
    (s.pfServes (Reg.LX_QUAD_CFG q) → answers (.quadCfgWrite q v) s (fun t =>
      if (numbers (4 * q) 4).any (fun i => s.flag (Reg.LX_LANE_CTRL_EN i) && !s.miodelLane i) then
        t.flag (Reg.LX_QUAD_STATUS_CFG_REFUSED q) = true ∧ t.f (Reg.LX_QUAD_CFG_WIDTH q) = s.f (Reg.LX_QUAD_CFG_WIDTH q)
      else ∃ u : State, u.f (Reg.LX_QUAD_CFG_WIDTH q) = bits v 0 2 ∧ State.only [.regs, .lx] s u ∧ t = (numbers (4 * q) 4).foldl (fun x p =>
        if x.portExists p then x else (x.portOff p).setF (Reg.LX_DELIN_ERRORS_COUNT p) 0) u)))

/-- Adaptation, the margin checks that the device makes, one in each window of 100 ms, and the eye scans that software makes with the same
sampler, behind the point that a check finishes (R86 to R90, R270). -/
def Obligations.SamplerServesChecksAndScans : Prop :=
  ∀ (s : State) (n : LaneId),
    (s.laneState n = Ls.up → s.flag (Reg.LX_LANE_STATUS_ADAPT_FROZEN n) = false →
      answers (.adaptationFreeze n) s (fun t => t.flag (Reg.LX_LANE_STATUS_ADAPT_FROZEN n) = true ∧
        t.f (Reg.LX_IDLE_FREEZES_COUNT n) = min (s.f (Reg.LX_IDLE_FREEZES_COUNT n) + 1) 0xFFFFFFFF)) ∧
    (s.laneState n ≠ Ls.lpi → answers (.adaptationResume n) s (fun t => t.flag (Reg.LX_LANE_STATUS_ADAPT_FROZEN n) = false)) ∧
    (s.laneState n = Ls.up → s.auditEye = false → (s.lane n).checks ≤ s.checkWindow n → s.f (Reg.LX_EYE_STATUS_HW_ACTIVE n) = 0 →
      answers (.marginCheckStart n) s (fun t => (t.lane n).checks = s.checkWindow n + 1 ∧
      if s.flag (Reg.LX_EYE_CTRL_SW_OWN n) then t.f (Reg.LX_EYE_STATUS_SKIPPED n) = min (s.f (Reg.LX_EYE_STATUS_SKIPPED n) + 1) 65535 ∧
        t.flag (Reg.LX_EYE_STATUS_HW_ACTIVE n) = false
      else t.flag (Reg.LX_EYE_STATUS_HW_ACTIVE n) = true ∧ t.flag (Reg.LX_EYE_STATUS_BUSY n) = true)) ∧
    (s.laneState n = Ls.up → s.checkWindow n < (s.lane n).checks → answers (.marginCheckStart n) s (fun t => t = s)) ∧
    (∀ m, s.flag (Reg.LX_EYE_STATUS_HW_ACTIVE n) = true → (s.lane n).yielded = false → answers (.marginCheckComplete n m) s (fun t => ∃ u : State,
      u.f (Reg.LX_MARGIN_H_LEFT n) = m.hLeft.toNat ∧ u.f (Reg.LX_MARGIN_H_RIGHT n) = m.hRight.toNat ∧
      u.f (Reg.LX_MARGIN_V_UP n) = m.vUp.toNat ∧ u.f (Reg.LX_MARGIN_V_DOWN n) = m.vDown.toNat ∧
      u.flag (Reg.LX_EYE_STATUS_HW_ACTIVE n) = false ∧ u.flag (Reg.LX_EYE_STATUS_BUSY n) = false ∧
      u.f (Reg.LX_LANE_STATUS_GRADE n) = s.gradeOf n m ∧
      (s.f (Reg.LX_LANE_STATUS_GRADE n) ≠ s.gradeOf n m → u.flag (Reg.LX_LANE_STATUS_GRADE_CHANGED n) = true ∧
        u.lx.log.getLast? = some ⟨s.mfN, n, s.f (Reg.LX_LANE_STATUS_GRADE n), s.gradeOf n m, m, s.lx.logSeq⟩) ∧
      (u.lane n).retrainReq = false ∧ (u.lane n).bipSince = 0 ∧
      t = if s.gradeOf n m = 2 ∨ s.gradeOf n m = 3 then (u.pathMarginUpdate (s.trunkOf n)).poorLane (s.trunkOf n)
        else u.pathMarginUpdate (s.trunkOf n))) ∧
    (s.pfServes (Reg.LX_EYE_CTRL n) → answers (.eyeSwOwn n) s (fun t => t.flag (Reg.LX_EYE_CTRL_SW_OWN n) = true ∧
      t.flag (Reg.LX_EYE_STATUS_HW_ACTIVE n) = s.flag (Reg.LX_EYE_STATUS_HW_ACTIVE n) ∧
      t.f (Reg.LX_EYE_STATUS_SKIPPED n) = s.f (Reg.LX_EYE_STATUS_SKIPPED n) ∧
      (s.flag (Reg.LX_EYE_STATUS_HW_ACTIVE n) = true → (t.lane n).yielded = true))) ∧
    (∀ v : Word, s.pfServes (Reg.LX_EYE_CTRL n) → bits v 0 1 = 1 → answers (.eyeScanStart n v) s (fun t =>
      t.flag (Reg.LX_EYE_CTRL_SW_OWN n) = true ∧ t.f (Reg.LX_EYE_CTRL_HOFF n) = bits v 4 8 ∧ t.f (Reg.LX_EYE_CTRL_VOFF n) = bits v 12 6 ∧
      t.f (Reg.LX_EYE_CTRL_DWELL n) = bits v 2 2 ∧
      if s.flag (Reg.LX_EYE_STATUS_HW_ACTIVE n) then (t.lane n).scanWaits = true ∧ (t.lane n).yielded = true
      else t.f (Reg.LX_EYE_STATUS_BUSY n) = 1)) ∧
    (∀ c : Word, s.flag (Reg.LX_EYE_STATUS_BUSY n) = true → s.flag (Reg.LX_EYE_STATUS_HW_ACTIVE n) = false →
      answers (.eyePointDone n c) s (fun t => t.reg (Reg.LX_EYE_COUNT n) = c ∧ t.flag (Reg.LX_EYE_STATUS_BUSY n) = false ∧
        t.flag (Reg.LX_EYE_STATUS_DONE n) = true)) ∧
    (∀ c : Word, s.flag (Reg.LX_EYE_STATUS_BUSY n) = true → s.flag (Reg.LX_EYE_STATUS_HW_ACTIVE n) = true → (s.lane n).yielded = true →
      answers (.eyePointDone n c) s (fun t => t.flag (Reg.LX_EYE_STATUS_HW_ACTIVE n) = false ∧ (t.lane n).yielded = false ∧
        t.flag (Reg.LX_EYE_STATUS_BUSY n) = (s.lane n).scanWaits ∧ t.reg (Reg.LX_EYE_COUNT n) = s.reg (Reg.LX_EYE_COUNT n)))

/-- A retraining slot is asked for, begins with the lanes that were POOR when it was fixed, carries requests and ends, and one whose
microframe finds the trunk not UP is dropped; a Twill retraining that lasts 360 ms fails (R90 to R92). The pattern tester of a lane in TEST
(R94, R95). -/
def Obligations.SlotsAndPatternTesterRun : Prop :=
  (∀ (s : State) (n : LaneId) (t : Trunk),
    answers (.laneRetrainReq n) s (fun r => (r.lane n).retrainReq = true) ∧
    ((s.trunk t).slot = some s.mfN → (s.trunk t).slotOn = false → s.trunkUp t = true →
      answers (.retrainSlotStart t) s (fun r => (r.trunk t).slotOn = true ∧
      ∀ i ∈ s.lanesOf t, if (s.trunk t).slotLanes.contains i = true ∨ (s.trunk t).slotReq = true then
          r.laneState i = Ls.retraining ∧ r.flag (Reg.LX_LANE_STATUS_ADAPT_FROZEN i) = false ∧ r.f (Reg.LX_RETRAIN_COUNT_RETRAINS i) = min (s.f (Reg.LX_RETRAIN_COUNT_RETRAINS i) + 1) 65535
        else r.laneState i = Ls.up)) ∧
    (∀ f, (s.trunk t).slot = some f → (s.trunk t).slotOn = false → f ≤ s.mfN → s.trunkUp t = false →
      answers (.retrainSlotStart t) s (fun r => (r.trunk t).slot = none ∧ (r.trunk t).slotOn = false)) ∧
    (∀ f, (s.trunk t).slot = some f → (s.trunk t).slotOn = true → f + 2 ≤ s.mfN → answers (.retrainSlotEnd t) s (fun r =>
      (r.trunk t).slot = none ∧ (r.trunk t).slotOn = false ∧
      ∀ i ∈ s.lanesOf t, r.laneState i = if s.laneState i = Ls.retraining then Ls.up else s.laneState i)) ∧
    (∀ raw : BitVec 64, rawGood 0x5A raw = true → laneLive (s.laneState n) = true → nbit (field (leBytes 8 raw.toNat) 4 1) 0 = true →
      (s.trunk (s.trunkOf n)).slot = none → (s.trunk (s.trunkOf n)).slotOn = false → answers (.retrainBlockReceived n raw) s (fun r =>
        (r.trunk (s.trunkOf n)).slot = some (slotMf s.mfN) ∧ (r.trunk (s.trunkOf n)).slotReq = true ∧
        ∀ i, i ∈ (r.trunk (s.trunkOf n)).slotLanes ↔ i ∈ s.lanesOf (s.trunkOf n) ∧
          (s.f (Reg.LX_LANE_STATUS_GRADE i) = 2 ∨ s.f (Reg.LX_LANE_STATUS_GRADE i) = 3))) ∧
    (∀ raw : BitVec 64, rawGood 0x5A raw = true → laneLive (s.laneState n) = true → (s.trunk (s.trunkOf n)).slotOn = true →
      answers (.retrainBlockReceived n raw) s (fun r => (r.lane n).farStatus = field (leBytes 8 raw.toNat) 2 1 ∧
        r.out = .retrain n (r.retrainBlock n) :: s.out)) ∧
    (∀ t0, (s.trunk t).twillAt = some t0 → s.trunkUp t = false → answers (.twillRetrainTimeout t) s (fun r =>
      if s.now < t0 + 9000000 then r = s else ∃ u : State, (u.trunk t).twillAt = none ∧ r = if s.portState t = Ps.enabled then u.portLinkLost t else u))) ∧
  (∀ (s : State) (n : LaneId), s.laneState n = Ls.test →
    (s.pfServes (Reg.LX_PRBS_CTRL n) → s.flag (Reg.LX_PRBS_CTRL_GEN_EN n) = true → answers (.prbsInjectSingle n) s (fun t =>
      if (s.lane n).injectAt = some s.now then t = s else t.out = .inject n 1 :: s.out ∧ (t.lane n).injectAt = some s.now)) ∧
    (∀ v : Word, s.pfServes (Reg.LX_PRBS_CTRL n) → bits v 0 1 = 1 → answers (.prbsInjectBurst n v) s (fun t =>
      t.f (Reg.LX_PRBS_CTRL_BURST_LEN n) = bits v 5 6 ∧ (t.lane n).injectAt = some s.now ∧
      t.out = if (s.lane n).injectAt = some s.now then s.out else .inject n (bits v 5 6 + 1) :: s.out)) ∧
    (s.flag (Reg.LX_PRBS_CTRL_CHK_EN n) = true → answers (.prbsLock n) s (fun t => t.flag (Reg.LX_PRBS_STATUS_LOCKED n) = true)) ∧
    (∀ e, s.flag (Reg.LX_PRBS_STATUS_LOCKED n) = true → answers (.prbsLockLost ⟨n, e⟩) s (fun t =>
      t.flag (Reg.LX_PRBS_STATUS_LOST n) = true ∧ t.flag (Reg.LX_PRBS_STATUS_LOCKED n) = false ∧
      t.f (Reg.LX_PRBS_ERRORS_COUNT n) = min (s.f (Reg.LX_PRBS_ERRORS_COUNT n) + max 64 e.toNat) 0xFFFFFFFF)))

/-- What the receiver of a lane or trunk counts and keeps: what loses delineation and what brings it back, markers, and packets that are
discarded; and the markers that it sends (R38, R74, R76, R78, R79, R93, R112, R436, R506). -/
def Obligations.ReceiversCountAndMark : Prop :=
  ∀ (s : State) (n : LaneId) (t : Trunk),
    (∀ c b, s.portExists t = true → (s.trunk t).delinLost = false → loses c = true → answers (.delineationLoss ⟨t, c, b⟩) s (fun r =>
      (r.trunk t).delinLost = true ∧ r.f (Reg.LX_DELIN_ERRORS_COUNT t) = min (s.f (Reg.LX_DELIN_ERRORS_COUNT t) + 1) 0xFFFFFFFF ∧
      r.f (Reg.LNK_RX_CRC_COUNT t) = (if b then min (s.f (Reg.LNK_RX_CRC_COUNT t) + 1) 0xFFFFFFFF else s.f (Reg.LNK_RX_CRC_COUNT t)) ∧
      (r.port t).discards = if b then min ((s.port t).discards + 1) 65535 else (s.port t).discards)) ∧
    (∀ c b, (s.trunk t).delinLost = true ∨ loses c = false → answers (.delineationLoss ⟨t, c, b⟩) s (fun r => r = s)) ∧
    (∀ k : Byte, k = 0x1E ∨ k = 0x2D ∨ k = 0x4B → answers (.delineationRecovered ⟨t, k⟩) s (fun r => (r.trunk t).delinLost = false)) ∧
    ((s.laneState n = Ls.aligning ∨ laneLive (s.laneState n) = true) → answers (.markerSend n) s (fun r =>
      if (s.lane n).markerAt + 2163 ≤ s.now then
        let l := (((n : Nat) :: s.lanesOf (s.trunkOf n)).eraseDups).filter (fun i => laneHolds (s.laneState i))
        (∀ i ∈ l, (r.lane i).markerAt = s.now) ∧ r.out = (l.map (fun i => Emit.marker i (s.laneByte i) (s.trunkOf i))).reverse ++ s.out
      else r = s)) ∧
    (∀ m, (s.laneState n = Ls.aligning ∨ laneLive (s.laneState n) = true) → markerGood m.raw = true →
      answers (.markerReceived n m) s (fun r => let b := leBytes 8 m.raw.toNat
      r.f (Reg.LX_LANE_STATUS_PEER_LANE n) = field b 1 1 % 4 ∧ r.f (Reg.LX_LANE_STATUS_PEER_PORT n) = field b 2 1 ∧
      (r.lane n).markLane = some (field b 1 1 % 4) ∧ (r.lane n).markWidth = field b 1 1 / 4 % 4 ∧
      r.f (Reg.LX_BIP_ERRORS_COUNT n) = if field b 3 1 = m.bip.toNat then s.f (Reg.LX_BIP_ERRORS_COUNT n)
        else min (s.f (Reg.LX_BIP_ERRORS_COUNT n) + 1) 0xFFFFFFFF)) ∧
    (∀ c, (s.trunk t).delinLost = true → answers (.corruptPacketReceived ⟨t, c⟩) s (fun r => r = s)) ∧
    (∀ c, s.portExists t = true → (s.trunk t).delinLost = false → answers (.corruptPacketReceived ⟨t, c⟩) s (fun r =>
      r.f (Reg.LNK_RX_CRC_COUNT t) =
        (if c = .kind then s.f (Reg.LNK_RX_CRC_COUNT t) else min (s.f (Reg.LNK_RX_CRC_COUNT t) + 1) 0xFFFFFFFF) ∧
      r.f (Reg.LNK_PARITY_RX t) = (if c = .parity then min (s.f (Reg.LNK_PARITY_RX t) + 1) 65535 else s.f (Reg.LNK_PARITY_RX t)) ∧
      (r.port t).discards = min ((s.port t).discards + 1) 65535)) ∧
    answers (.lpiKeepaliveWake t) s (fun r => if s.mfN % 8 = 7 then ∀ i ∈ s.lanesOf t, s.laneState i = Ls.lpi →
      2875 ≤ r.time.phase ∧ (r.lane i).markerAt = r.now ∧ Emit.marker i (s.laneByte i) (s.trunkOf i) ∈ r.out else r = s)

/-! ## Root ports (R98 to R112, R124) -/

/-- Presence at a root port that faces downstream: attach after a level, or a trunk, has stood for 100 ms and not before, a level that does
not fit, and loss, after 1 ms off the level or 100 ms without the trunk (R100 to R102, R104). -/
def Obligations.PresenceAttachesAndDetaches : Prop :=
  ∀ (s : State) (p : Trunk),
    let attach (t : State) : Prop := ∃ u : State, u.portState p = Ps.disabled ∧ u.f (Reg.TM_PORT_STATUS_SPEED p) = 3 ∧
      u.f (Reg.TM_PORT_STATUS_REASON p) = 0 ∧ (u.port p).attached = true ∧ nbit (u.port p).change 0 = true ∧
      t = (u.rootEvent p Ev.attach 3).attachSeen p
    let gone (t : State) : Prop := ∃ u w : State, u.portState p = Ps.powered ∧ State.only [.regs, .tree] (u.portLeaves p St.deviceGone) w ∧
      w.f (Reg.TM_PORT_STATUS_SPEED p) = 0 ∧ (w.port p).attached = false ∧
      t = ((if w.flag (Reg.TM_PORT_CTRL_PRESENCE p) then w.trainIdle p
        else (w.lanesOf p).foldl (fun x n => x.quietLane n) w).portChange p 1).rootEvent p Ev.detach 0
    (s.portState p = Ps.powered → s.portExists p = true → s.rootRole p = true → s.flag (Reg.TM_PORT_CTRL_PRESENCE p) = false →
      (s.port p).senseAt + 2500000 ≤ s.now →
      ((s.port p).sense = .lyborH → answers (.attachDebounceExpiry p) s attach) ∧
      (((s.port p).sense = .classic ∨ (s.port p).sense = .lyborL) → s.f (Reg.TM_PORT_STATUS_REASON p) ≠ Rs.speedMismatch →
        answers (.attachDebounceExpiry p) s (fun t => ∃ u : State, u.portState p = Ps.powered ∧
          u.f (Reg.TM_PORT_STATUS_SPEED p) = senseCode (s.port p).sense ∧ u.f (Reg.TM_PORT_STATUS_REASON p) = Rs.speedMismatch ∧
          t = u.rootEvent p Ev.disabled Rs.speedMismatch))) ∧
    ((s.rootRole p = false ∨ s.now < (s.port p).senseAt + 2500000) → answers (.attachDebounceExpiry p) s (fun t => t = s)) ∧
    (s.portState p = Ps.powered → s.portExists p = true → s.rootRole p = true → s.flag (Reg.TM_PORT_CTRL_PRESENCE p) = true →
      (s.lanesOf p ≠ [] → (∀ n ∈ s.lanesOf p, (s.laneState n = Ls.aligning ∨ s.laneState n = Ls.up) ∧ (s.lane n).heldAt + 2500000 ≤ s.now) →
        answers (.linkPresenceAttach p) s attach) ∧
      (∀ n ∈ s.lanesOf p, s.now < (s.lane n).heldAt + 2500000 → answers (.linkPresenceAttach p) s (fun t => t = s))) ∧
    (∀ t0, s.rootRole p = true → s.flag (Reg.TM_PORT_CTRL_PRESENCE p) = false → (s.port p).leftAt = some t0 →
      (t0 + 25000 ≤ s.now → 2 ≤ s.portState p → answers (.presenceLost p) s gone) ∧
      (s.now < t0 + 25000 → answers (.presenceLost p) s (fun t => t = s))) ∧
    ((s.portState p = Ps.disabled ∨ s.portState p = Ps.enabled) → s.flag (Reg.TM_PORT_CTRL_PRESENCE p) = true →
      (s.rootRole p = true → (s.trunk p).twillAt = none → (s.port p).freeAt + 2500000 ≤ s.now → (∃ n ∈ s.lanesOf p, laneHolds (s.laneState n) = false ∧ (s.lane n).changedAt + 2500000 ≤ s.now) →
        answers (.linkPresenceLost p) s gone) ∧
      (s.rootRole p = false ∨ (s.trunk p).twillAt.isSome = true ∨ s.now < (s.port p).freeAt + 2500000 →
        answers (.linkPresenceLost p) s (fun t => t = s))) ∧
    (∀ l, answers (.senseLevelChange p l) s (fun t => (t.port p).sense = l ∧
      (t.port p).senseAt = (if (s.port p).sense = l ∨ s.portState p = Ps.off then (s.port p).senseAt else s.now) ∧
      (t.port p).leftAt = (if (s.port p).sense = l ∨ s.portState p = Ps.off then (s.port p).leftAt
        else if l = .lyborH then none else some ((s.port p).leftAt.getD s.now)) ∧
      (s.portState p = Ps.powered → s.f (Reg.TM_PORT_STATUS_REASON p) = Rs.speedMismatch → s.f (Reg.TM_PORT_STATUS_SPEED p) ≠ senseCode l →
        t.f (Reg.TM_PORT_STATUS_REASON p) = 0 ∧ t.f (Reg.TM_PORT_STATUS_SPEED p) = 0)))

/-- The port features POWER, RESET, SUSPEND, RESUME and ENABLE of a root port, TM_PORT_CTRL with the pull-up of a port in device role, and
GET_PORT_STATUS (R103, R104, R106, R109, R112). A feature that meets the loss of presence in its cycle is discarded, and a lost link wins over
SUSPEND (R107; what one cycle is: log entry 42). -/
def Obligations.PortFeaturesMoveTheStateMachine : Prop :=
  ∀ (s : State) (p : Trunk),
    (s.portState p = Ps.off → s.portExists p = true → answers (.portSetPower p) s (fun t => ∃ u : State, u.portState p = Ps.powered ∧
      u.flag (Reg.TM_PORT_CTRL_POWER p) = true ∧ (u.port p).senseAt = s.now ∧
      t = if s.flag (Reg.TM_PORT_CTRL_PRESENCE p) then u.trainIdle p else u)) ∧
    (s.portState p ≠ Ps.off → answers (.portClearPower p) s (fun t => ∃ u : State, u.portState p = Ps.off ∧
      u.flag (Reg.TM_PORT_CTRL_POWER p) = false ∧ u.f (Reg.TM_PORT_STATUS_REASON p) = 0 ∧ u.f (Reg.TM_PORT_STATUS_SPEED p) = 0 ∧
      (u.port p).attached = false ∧ (∀ n ∈ s.lanesOf p, u.laneState n = Ls.disabled) ∧
      t = if 2 ≤ s.portState p ∧ s.rootRole p then ((u.portLeaves p St.deviceGone).portChange p 1).rootEvent p Ev.detach 0 else u)) ∧
    ((s.pending.head? = some (.presenceLost p) ∧ s.senseGone p = true) ∨ (s.pending.head? = some (.linkPresenceLost p) ∧ s.linkGone p = true) →
      2 ≤ s.portState p →
      ∀ i ∈ [Instr.portSetReset p, .portSetSuspend p, .portSetResume p, .portSetEnable p, .portClearEnable p], answers i s (fun t => t = s)) ∧
    (s.portState p = Ps.enabled → s.trunkHolds p = false → answers (.portSetSuspend p) s (fun t => t = s)) ∧
    (s.lossAhead p = false → s.rootRole p = true →
    (2 ≤ s.portState p → s.portState p ≠ Ps.resetting → answers (.portSetReset p) s (fun t => ∃ u w v : State,
      u.portState p = Ps.resetting ∧ State.only [.tree] (u.detachLost St.portReset) w ∧ (w.port p).resetAt = some s.now ∧
      (w.port p).signalled = false ∧ v = (w.dropEnum p).showEnum ∧ State.only [.regs, .lx, .ck] v t ∧
      ∀ n ∈ v.lanesOf p, t.laneState n = Ls.disabled)) ∧
    (s.portState p = Ps.enabled → s.trunkHolds p = true → answers (.portSetSuspend p) s (fun t => ∃ u : State, u.portState p = Ps.suspended ∧
      (u.port p).suspendAt = some s.now ∧ (∀ n ∈ s.lanesOf p, u.laneState n = Ls.lpi) ∧ nbit (u.port p).change 4 = true ∧
      t = u.rootEvent p Ev.suspended 0)) ∧
    (s.portState p = Ps.suspended → answers (.portSetResume p) s (fun t => t.portState p = Ps.resuming ∧ (t.port p).resumeAt = some s.now)) ∧
    ((s.portState p = Ps.suspended ∨ s.portState p = Ps.resuming) → answers (.portSetEnable p) s (fun t => ∃ u : State,
      u.portState p = Ps.enabled ∧ u.f (Reg.TM_PORT_STATUS_REASON p) = 0 ∧ nbit (u.port p).change 4 = true ∧
      (∀ n ∈ s.lanesOf p, s.laneState n = Ls.lpi → u.laneState n = Ls.up) ∧ t = u.rootEvent p Ev.enabled 0)) ∧
    (s.portState p = Ps.enabled → answers (.portClearEnable p) s (fun t => ∃ u : State, u.portState p = Ps.disabled ∧
      u.f (Reg.TM_PORT_STATUS_REASON p) = Rs.software ∧ nbit (u.port p).change 3 = true ∧
      t = (u.portLeaves p St.deviceGone).rootEvent p Ev.disabled Rs.software))) ∧
    (∀ v : Word, s.pfServes (Reg.TM_PORT_CTRL p) → answers (.portCtrlWrite p v) s (fun t => ∃ u : State,
      u.f (Reg.TM_PORT_CTRL_PRESENCE p) = bits v 1 1 ∧ u.f (Reg.TM_PORT_CTRL_ROLE p) = bits v 2 1 ∧
      u.f (Reg.TM_PORT_CTRL_CONNECT p) = bits v 3 1 ∧ u.f (Reg.TM_PORT_CTRL_AUTO_RECOVER p) = bits v 4 1 ∧
      u.out = (if s.connected p = (bits v 2 1 == 1 && bits v 3 1 == 1) then s.out
        else .pullUp p (bits v 2 1 == 1 && bits v 3 1 == 1) :: s.out) ∧
      (s.connected p = true → bits v 2 1 = 0 ∨ bits v 3 1 = 0 → u.devNode p = DevNode.reset) ∧
      t = if bits v 0 1 = 0 then u.portOff p else if s.portState p = Ps.off then u.portPower p
        else if s.portState p = Ps.powered ∧ bits v 1 1 = 1 then u.trainIdle p else u)) ∧
    answers (.rootGetPortStatus p) s (fun t => t.out = .portStatus p (s.portStatusBytes p) :: s.out ∧
      (t.port p).change = 0 ∧ (t.port p).discards = 0)

/-- What happens to a root port by itself: 10 ms of reset signalling and the end of the reset, a lost link, wake signalling, the end of 20 ms
of resume signalling, and a mark from upstream (R104 to R107, R124). -/
def Obligations.PortTransitionsHappenByThemselves : Prop :=
  ∀ (s : State) (p : Trunk),
    (∀ t0, s.rootRole p = true → s.portState p = Ps.resetting → (s.port p).signalled = false → (s.port p).resetAt = some t0 →
      answers (.resetSignallingEnd p) s (fun t => if s.now < t0 + 250000 then t = s else (t.port p).signalled = true ∧
        ∀ n ∈ s.lanesOf p, s.flag (Reg.LX_LANE_CTRL_EN n) = true → s.f (Reg.LX_LANE_CTRL_MODE n) = 0 → t.laneState n = Ls.training)) ∧
    (s.rootRole p = true → s.portState p = Ps.resetting → (s.port p).signalled = true → s.trunkUp p = true → (s.port p).ownReset = false →
      answers (.portResetComplete p) s (fun t => ∃ u v : State, u.portState p = Ps.enabled ∧ u.f (Reg.TM_PORT_STATUS_REASON p) = 0 ∧
        nbit (u.port p).change 2 = true ∧ nbit (u.port p).change 3 = true ∧ v = u.rootEvent p Ev.enabled 0 ∧
        t = if v.isPartner then v else if v.f Reg.TM_CTRL_EN = 0 then v.updPort p (fun r => { r with takeUp := 3 })
          else v.await ⟨p, 0, 0, true, false, (v.port p).attachMf⟩)) ∧
    (s.rootRole p = true → s.portState p = Ps.enabled → s.trunkHolds p = false → (s.trunk p).twillAt = none →
      answers (.linkLost p) s (fun t => ∃ u v : State,
      u.f (Reg.TM_PORT_ERRORS_LINK_LOSTS p) = min (s.f (Reg.TM_PORT_ERRORS_LINK_LOSTS p) + 1) 65535 ∧ nbit (u.port p).change 6 = true ∧
      v = u.portDisable p Rs.linkLost St.deviceGone ∧
      t = if v.flag (Reg.TM_PORT_CTRL_AUTO_RECOVER p) && (v.port p).attached then v.portReset p false else v)) ∧
    (s.rootRole p = true → s.inDormant = false → s.portState p = Ps.suspended →
      (∀ t0, (s.port p).suspendAt = some t0 → s.now < t0 + 125000 → answers (.remoteWakeSignal p) s (fun t =>
        t.portState p = Ps.suspended ∧ t.f (Reg.TM_PORT_ERRORS_EARLY_WAKES p) = min (s.f (Reg.TM_PORT_ERRORS_EARLY_WAKES p) + 1) 65535)) ∧
      (∀ t0, (s.port p).suspendAt = some t0 → t0 + 125000 ≤ s.now → s.mayWake p = true → s.pending.head? ≠ some (.portSetResume p) →
        answers (.remoteWakeSignal p) s (fun t =>
        ∃ u v : State, u.portState p = Ps.resuming ∧ (u.port p).resumeAt = some s.now ∧ nbit (u.port p).change 5 = true ∧
          v = u.rootEvent p Ev.remoteWake 0 ∧ t = v.when (v.portState p == Ps.resuming) (fun x => x.wake .lybor)))) ∧
    (s.rootRole p = true → s.inDormant = false → s.portState p = Ps.resuming → answers (.remoteWakeSignal p) s (fun t => t.portState p = Ps.resuming ∧
      t.flag (Reg.TM_PORT_STATUS_REMOTE_WAKE_SEEN p) = true)) ∧
    (∀ t0, s.portState p = Ps.resuming → (s.port p).resumeAt = some t0 → s.now < t0 + 500000 → answers (.resumeComplete p) s (fun t => t = s)) ∧
    (∀ t0, s.rootRole p = true → s.portState p = Ps.resuming → (s.port p).resumeAt = some t0 → t0 + 500000 ≤ s.now →
      answers (.resumeComplete p) s (fun t => ∃ u : State, u.portState p = Ps.enabled ∧
      u.f (Reg.TM_PORT_STATUS_REASON p) = 0 ∧ (∀ n ∈ s.lanesOf p, s.laneState n = Ls.lpi → u.laneState n = Ls.up) ∧
      nbit (u.port p).change 4 = true ∧ t = u.rootEvent p Ev.resumed 0)) ∧
    (∀ rootId, s.rootRole p = true → s.portState p = Ps.enabled → answers (.markOnRootPort p rootId) s (fun t => ∃ u : State,
      let why := if rootId.toNat = s.f Reg.TM_CTRL_ROOT_ID then Rs.loop else Rs.foreign
      u.portState p = Ps.disabled ∧ u.f (Reg.TM_PORT_STATUS_REASON p) = why ∧ nbit (u.port p).change 7 = true ∧
      t = (u.portLeaves p St.deviceGone).rootEvent p Ev.disabled why))

/-! ## The topology manager (R111 to R123, R273, R358, R509) -/

/-- What the topology manager takes up: reports of hubs, waiting attaches, the first of a subtree and the resets of others beside it, the end
of a request, with the round trip that a PING measured, and what waited for TM_CTRL.EN (R69, R111, R116, R358, R509). An address 60 s after its device has gone is free again and its routes go; a pair port that its HOLDER's side never
returned is disabled (R118, R122, R273). A word of the serial table that is lost keeps its address bound to no device (R435). -/
def Obligations.TopologyManagerWorks : Prop :=
  (∀ s : State,
    (∀ hub b, s.isPartner = false → s.hubs.any (fun d => d.addr == hub.toNat) = true → s.tmOn = true →
      answers (.hubStatusReport hub b) s (fun t => ∃ u : State, u.todoOf (s.rootOf hub.toNat) = s.todoOf (s.rootOf hub.toNat) ++
        ((List.range 64).filter (nbit b.toNat)).map (fun i => ⟨.getStatus hub.toNat i, false, false, none, 0⟩) ∧ t = u.kickTm (s.rootOf hub.toNat))) ∧
    (∀ hub b, s.isPartner = false → s.hubs.any (fun d => d.addr == hub.toNat) = true → s.tmOn = false →
      answers (.hubStatusReport hub b) s (fun t =>
        Tbl.get (fun _ => 0) t.tree.reports hub.toNat = Tbl.get (fun _ => 0) s.tree.reports hub.toNat ||| b.toNat)) ∧
    (∀ (p : Trunk) e a, s.enumMay = true → s.isHolder = false → s.enumOf p = some e →
      s.tree.waiting.find? (fun a => a.root == p.val && a.hub != 0 && !a.reset && !a.atStep3) = some a →
      answers (.enumerationStart p) s (fun t => ∃ u : State,
        u.tree.waiting = replaceFirst (fun b => b == a) (fun b => { b with reset := true }) s.tree.waiting ∧ u.enumOf p = some e ∧
        t = u.pushTm p false [.setFeature a.hub a.port 2])) ∧
    (∀ (p : Trunk) a, s.tree.waiting.find? (fun a => a.root == p.val && !(a.reset && !a.atStep3)) = some a → s.enumOf p = none →
      s.tmOn = true → s.isPartner = false →
      s.flag Reg.EBM_STATUS_INIT_DONE = true → s.inSatin = false → s.inDormant = false → s.tree.held.length < 1024 →
      answers (.enumerationStart p) s (fun t => ∃ u : State, u.tree.waiting = removeFirst (fun b => b == a) s.tree.waiting ∧
        u.f Reg.TM_ENUM_STATUS_WAITING = min u.tree.waiting.length 65535 ∧ t = u.beginEnum a)) ∧
    (∀ (p : Trunk) it rest r, s.todoOf p = it :: rest → it.sent = true → it.own = false → s.inSatin = false →
      answers (.tmTransferComplete p r) s (fun t => ∃ u v : State, u.todoOf p = rest ∧ State.only [.regs, .tree, .ts, .ebm, .bus, .mre] s u ∧
        (r.status = 0 → (∀ d n, it.req ≠ .ping d n) → v = u.reqDone it.req r.data) ∧
        (r.status ≠ 0 → (∀ d x g, it.req = .bind d x g → v = u.bindFailed d x) ∧
          ((∀ d x g, it.req ≠ .bind d x g) → State.only [.tree] u v)) ∧ t = v.kickTm p)) ∧
    (∀ (p : Trunk) it rest r e d n n0, s.todoOf p = it :: rest → it.sent = true → it.own = true → it.req = .ping d n → s.enumOf p = some e →
      r.status = 0 → it.rtt = some n0 → s.tmOn = true → s.inSatin = false → answers (.tmTransferComplete p r) s (fun t => ∃ u : State,
        u.todoOf p = rest ∧ u.enumOf p = some e ∧ t = (u.advanceEnum p e (.ping d n) r n0).kickTm p)) ∧
    (∀ (p : Trunk) it rest r e a x, s.todoOf p = it :: rest → it.sent = true → it.own = true → it.req = .getDev → s.enumOf p = some e →
      r.status = 0 → s.tmOn = true → s.inSatin = false → r.lost = some (a, x) → s.tree.lostAddrs.contains a.toNat = false →
      answers (.tmTransferComplete p r) s (fun t => ∃ u v : State, u.tree.lostAddrs = s.tree.lostAddrs ++ [a.toNat] ∧
        u.bound a.toNat = true ∧ u.flag Reg.GLB_ERR_UNCORRECTABLE = true ∧ v = u.advanceEnum p e .getDev r 0 ∧ t = v.kickTm p)) ∧
    (∀ (p : Trunk) it rest r e, s.todoOf p = it :: rest → it.sent = true → it.own = true → it.req = .getDev → s.enumOf p = some e →
      r.status = 0 → s.tmOn = false → s.inSatin = false → answers (.tmTransferComplete p r) s (fun t => ∃ u : State, u.todoOf p = rest ∧
        t = (u.stopEnum p e).kickTm p)) ∧
    (∀ v : Word, s.pfServes Reg.TM_CTRL → s.pairFormed = false → answers (.tmEnableWrite v) s (fun t => ∃ u : State,
      u.f Reg.TM_CTRL_EN = bits v 0 1 ∧ u.f Reg.TM_CTRL_AUTO_ENUM = bits v 1 1 ∧ u.f Reg.TM_CTRL_REBIND_EN = bits v 2 1 ∧
      u.f Reg.TM_CTRL_HUB_POLL = bits v 4 3 ∧ u.f Reg.TM_CTRL_ROOT_ID = bits v 16 16 ∧
      t = if s.tmOn = false ∧ bits v 0 1 = 1 ∧ s.isPartner = false then u.takeUpAll else u)) ∧
    (∀ e rest s1, s.tree.held = e :: rest → s.postEvent (s.f Reg.TM_EVENT_CTRL_CQ) (topoDws e) 2 = some s1 →
      answers .tmBacklogDrain s (fun t => ∃ u : State,
        u = State.drainTopo { s1 with tree := { s1.tree with held := rest } } (rest.length + s.tree.kept.length) ∧
        t = (u.tree.todo.map (·.1)).foldl (fun x p => x.kickTm p) u))) ∧
  (∀ s : State,
    (∀ (addr : Half) d t0, s.dev addr.toNat = some d → d.detachedAt = some t0 → t0 + 1500000000 ≤ s.now → s.unscheduled addr.toNat = true →
      answers (.addressBindingExpiry addr) s (fun t => ∃ u : State, u.routesOf addr.toNat = [] ∧ u.dev addr.toNat = none ∧
        t = ((s.tree.routes.map (·.1)).filter (fun h => h != addr.toNat && (s.leads h addr.toNat).isSome)).foldl
          (fun x h => x.pushTm (x.rootOf h) false [.clearRoute h addr.toNat addr.toNat]) u)) ∧
    (∀ (p : Trunk) (serial : BitVec 64) x, s.tree.returned.find? (fun x => x.1 == serial.toNat && x.2.1.root == p.val) = some x →
      x.2.2 + 250000000 ≤ s.now →
      s.devices.any (fun d => d.serial == serial.toNat) = false →
      answers (.pairPortTimeout p serial) s (fun t => ∃ u : State, u.tree.returned = s.tree.returned.filter (fun y => y.1 != serial.toNat) ∧
        t = u.enumFail p ⟨x.2.1, 5, DevRec.unknown ⟨p, []⟩, false, [], 0, [], false, [], 0, []⟩ Rs.pairPort)))

/-! ## Settings of the scheduler, and the endpoint buffer memory (R135, R157, R165, R176 to R182) -/

/-- TS_CTRL and TS_TRUNK_CFG take their fields, or MIRROR_EN is refused as a whole (R135, R157). The endpoint buffer memory is zeroed
once, read and written through its window, scrubbed, and its slots go to those that wait in order (R165, R176, R177, R179, R181,
R182). -/
def Obligations.SchedulerSettingsAndBufferMemory : Prop :=
  (∀ (s : State) (t : Trunk) (v : Word),
    (s.pfServes Reg.TS_CTRL → answers (.tsEnableWrite v) s (fun r => r.f Reg.TS_CTRL_EN = bits v 0 1 ∧ r.f Reg.TS_CTRL_BULK_EN = bits v 1 1)) ∧
    (s.pfServes (Reg.TS_TRUNK_CFG t) → answers (.trunkCfgWrite t v) s (fun r =>
      if bits v 8 1 = 1 ∧ s.mirrorRefused t v = true then
        r.flag (Reg.TS_TRUNK_STATUS_MIRROR_REFUSED t) = true ∧ r.reg (Reg.TS_TRUNK_CFG t) = s.reg (Reg.TS_TRUNK_CFG t)
      else r.f (Reg.TS_TRUNK_CFG_MIRROR t) = bits v 0 8 ∧ r.f (Reg.TS_TRUNK_CFG_MIRROR_EN t) = bits v 8 1 ∧
        r.f (Reg.TS_TRUNK_CFG_PATH t) = bits v 9 1))) ∧
  (∀ s : State,
    (s.flag Reg.EBM_STATUS_INIT_DONE = false → s.ck.porst = false → answers .ebmInitDone s (fun t =>
      t.flag Reg.EBM_STATUS_INIT_DONE = true ∧ ∀ a n, t.ebmRead a n = List.replicate n 0)) ∧
    (∀ x n, s.d3hot 0 = false → s.ebm.powered = true → s.flag Reg.EBM_STATUS_INIT_DONE = true → s.inDormant = false →
      s.operational = true → answers (.diagWindowAccess (.read x n)) s (fun t => t.out = .ans (.data (s.ebmRead x.toNat n)) :: s.out ∧
        t.ebm = s.ebm)) ∧
    (∀ x b, s.d3hot 0 = false → s.ebm.powered = true → s.flag Reg.EBM_STATUS_INIT_DONE = true → s.inDormant = false →
      s.operational = true → answers (.diagWindowAccess (.write x b)) s (fun t =>
        if s.flag Reg.EBM_CTRL_DIAG_WRITE_EN then t.ebmRead x.toNat b.length = b ∧
          (∀ a, (a < x.toNat ∨ x.toNat + b.length ≤ a) → t.ebmRead a 1 = s.ebmRead a 1) ∧
          ∀ w, x.toNat ≤ w * 8 → w * 8 < x.toNat + b.length → w ∉ t.ebm.poison
        else t.ebm = s.ebm)) ∧
    (∀ x n, s.d3hot 0 = false → (s.ebm.powered = false ∨ s.flag Reg.EBM_STATUS_INIT_DONE = false) →
      answers (.diagWindowAccess (.read x n)) s (fun t => t.out.head? = some (.ans (.data (List.replicate n 0xFF))) ∧ t.ebm = s.ebm)) ∧
    (∀ a, s.flag Reg.EBM_CTRL_SCRUB_EN = true → s.ebm.powered = true → answers (.scrubPass [⟨a, false⟩]) s (fun t =>
      t.f Reg.EBM_ECC_COUNT_CORRECTED = min (s.f Reg.EBM_ECC_COUNT_CORRECTED + 1) 65535 ∧ t.ebm = s.ebm)) ∧
    (∀ a, s.flag Reg.EBM_CTRL_SCRUB_EN = true → s.ebm.powered = true → 0x7000000 ≤ a → answers (.scrubPass [⟨a, true⟩]) s (fun t =>
      t.f Reg.EBM_ECC_COUNT_UNCORRECTED = min (s.f Reg.EBM_ECC_COUNT_UNCORRECTED + 1) 65535 ∧
      t.ebmRead (a / 8 * 8) 8 = List.replicate 8 0 ∧ a / 8 ∈ t.ebm.poison)) ∧
    (∀ x r u g, s.ebm.waits = [x] → x < genWait → s.xfer x = some r → s.cf r.handle Cx.granules = 0 →
      s.allocSlot (s.npGranules r.handle) = some (u, g) → answers .slotAllocated s (fun t => t.ebm.waits = [] ∧
        t.xfer x = some { r with waitSlot := false } ∧ t.cf r.handle Cx.slot = g % 2 ^ Cx.slot.w)) ∧
    (∀ x y r q, s.ebm.waits = [x, y] → x ≠ y → x < genWait → y < genWait → s.xfer x = some r → s.xfer y = some q →
      s.cf r.handle Cx.granules = 0 → s.cf q.handle Cx.granules = 0 → s.allocSlot (s.npGranules r.handle) = none →
      answers .slotAllocated s (fun t => t.ebm = s.ebm)))

/-! ## The bus (R44 to R65, R132 to R138, R154, R155, R166, R405 to R408) -/

/-- A periodic IN block that is in time is written into its half of the slot; a late, an unmatched or an oversize one is only counted, and
none is taken while delineation is lost or with HOPS of 7 or more (R14, R31, R45, R76, R112, R166, R169).
The points of a microframe: the mark with what is sent at it, the input cut-off, the decision time and the fill deadline (R3, R10,
R14, R17, R18, R26, R42, R212, R227, R281, R295). -/
def Obligations.MicroframesTakeTheirInput : Prop :=
  (∀ (s : State) (t : Trunk) (d : DataPkt),
    ((s.trunk t).delinLost = true → answers (.periodicInData t d) s (fun r => r = s) ∧ answers (.npDataReceived t d) s (fun r => r = s)) ∧
    ((s.trunk t).delinLost = false → 7 ≤ d.hops.toNat →
      answers (.periodicInData t d) s (fun r => (r.port t).discards = min ((s.port t).discards + 1) 65535 ∧ State.only [.tree] s r) ∧
      answers (.npDataReceived t d) s (fun r => (r.port t).discards = min ((s.port t).discards + 1) 65535 ∧ State.only [.tree] s r)) ∧
    ((s.trunk t).delinLost = false → d.hops.toNat < 7 →
    (respNp d.flags = false → s.matchIn t d = none → answers (.periodicInData t d) s (fun r =>
      r.f (Reg.TS_RESP_ERRORS_UNMATCHED t) = min (s.f (Reg.TS_RESP_ERRORS_UNMATCHED t) + 1) 65535 ∧ r.ebm = s.ebm ∧ r.bus = s.bus)) ∧
    (∀ k x, respNp d.flags = false → s.matchIn t d = some k → s.per k = some x → d.payload.length ≤ x.len →
      d.payload.length ≤ s.halfBytes d.handle.toNat d.seq.toNat → s.cutOffOver d.seq.toNat = true →
      answers (.periodicInData t d) s (fun r => r.f (Reg.TS_LATE_INPUT_COUNT t) = min (s.f (Reg.TS_LATE_INPUT_COUNT t) + 1) 0xFFFFFFFF ∧
        r.ebm = s.ebm ∧ r.per k = some { x with got := true })) ∧
    (∀ k x, respNp d.flags = false → s.matchIn t d = some k → s.per k = some x →
      (x.len < d.payload.length ∨ s.halfBytes d.handle.toNat d.seq.toNat < d.payload.length) → answers (.periodicInData t d) s (fun r =>
        r.f (Reg.TS_RESP_ERRORS_OVERSIZE t) = min (s.f (Reg.TS_RESP_ERRORS_OVERSIZE t) + 1) 65535 ∧ r.ebm = s.ebm)) ∧
    (∀ k x, d.payload.length < 256 → respNp d.flags = false → s.matchIn t d = some k → s.per k = some x → d.payload.length ≤ x.len →
      d.payload.length ≤ s.halfBytes d.handle.toNat d.seq.toNat → s.cutOffOver d.seq.toNat = false → s.halfHolds d.handle.toNat d.seq.toNat = false →
      answers (.periodicInData t d) s (fun r => r.halfHolds d.handle.toNat d.seq.toNat = true ∧
        r.readHalf d.handle.toNat d.seq.toNat = d.payload ∧ r.per k = some { x with got := true } ∧
        (∀ h, h ≠ d.handle.toNat → h < 0x100000 → ∀ w, w < 8 → r.ctx h w = s.ctx h w))))) ∧
  (∀ s : State, s.time.run = true →
    (s.ck.fundamental = false → (s.ck.warm && s.ck.warmMark) = false → answers .microframeMark s (fun t =>
      let w := (List.range 192).foldl (fun (x : State) p => (x.countNpDeferred p).endWalk p s.mfN) s
      let u := ((w.tickMark.obsMark.dropOldTx.showRebase.groupSwitch w.tickMark.mfN).restoreDevs).twillMark
      { t.time with marked := false } = ⟨s.time.tick + BitVec.ofNat 64 (3125 - s.time.phase), s.time.mf + 1, 0, true, false, false⟩ ∧
      ∀ p ∈ u.markTrunks, (u.inSatin = false ∨ u.mfN % 8 = 0) → ∃ l, (Emit.pkt p ⟨Pk.mark, b2n (u.lowPower u.mfN) +
        2 * b2n (u.twillPair p).isSome + 4 * b2n (u.mfN % 8 == 0) + 128 * u.pathOf p, u.f Reg.TM_CTRL_ROOT_ID, p, 0, 0,
        u.mfN % 65536, []⟩ :: .ctl p Ct.sync 1 :: l) <:+ t.out)) ∧
    answers .inputCutoff s (fun t => t.time.cutOff = true ∧ t.time.phase = max s.time.phase 1250 ∧ t.time.mf = s.time.mf ∧
      t.regs = s.regs ∧ (s.role ≠ 0 → s.lockstep = true → t.pu.presPass = s.mfN ∧
        t.pu.lacks = ((List.range 192).filter (fun p => s.portEnabled p || s.portEnabled (192 + p))).map (fun p => ⟨Fin.ofNat 192 p, s.lacked p⟩) ∧
        (s.miodelUp = true → t.out = .mio (.presence t.pu.lacks) :: s.out))) ∧
    answers .decisionTime s (fun t => t.gd.decided = s.mfN ∧ t.time.phase = max s.time.phase (if s.role = 0 then 1250 else 1875) ∧
      (s.role ≠ 0 → s.pu.presPass = s.mfN → t.pu.lacks = [])) ∧
    answers .fillDeadline s (fun t => t.time.phase = max s.time.phase 3075 ∧
      (s.mre.on = true → t.f Reg.MRE_OVERRUNS_COUNT = min (s.f Reg.MRE_OVERRUNS_COUNT +
        (((s.lateSinks s.mfN).flatMap (fun x => sinkZones x.2)).eraseDups).length) 0xFFFFFFFF) ∧
      (s.role = 0 → t.pu = s.pu) ∧
      (s.role ≠ 0 → t.pu.digests = ((s.mfN, t.digestsOf s.mfN) :: s.pu.digests).take 4)))

/-- Handshakes end the attempt that they name, with the tag in quarantine for 6,250 ticks, and do to its transfer what their kind says
(R44, R55, R58, R59, R62 to R65, R405, R407); a PARTNER returns them to its HOLDER (R298). None is taken while delineation is lost or with
HOPS of 7 or more (R31, R76, R112). -/
def Obligations.HandshakesEndTheirAttempts : Prop :=
  ∀ (s : State) (t : Trunk) (h : Handshake),
    let ended (k : Nat) (u : State) : Prop := u.npTx k = none ∧
      Tbl.get (fun _ => none) u.bus.quarantine (k / 8192 * 4096 + k % 4096) = some (s.now + 6250)
    let shakes := [(Instr.ackReceived t h, Pk.ack), (.nakReceived t h, Pk.nak), (.stallReceived t h, Pk.stall), (.nyetReceived t h, Pk.nyet),
      (.errReceived t h, Pk.err), (.lockAckReceived t h, Pk.lockAck), (.lockBusyReceived t h, Pk.lockBusy)]
    ((s.trunk t).delinLost = true → ∀ c ∈ shakes, answers c.1 s (fun r => r = s)) ∧
    ((s.trunk t).delinLost = false → 7 ≤ h.hops.toNat → ∀ c ∈ shakes, answers c.1 s (fun r =>
      (r.port t).discards = min ((s.port t).discards + 1) 65535 ∧ State.only [.tree] s r)) ∧
    ((s.trunk t).delinLost = false → h.hops.toNat < 7 →
    (∀ c ∈ shakes,
      (s.isPartner = true → respNp h.flags = true → s.miodelUp = true → answers c.1 s (fun r =>
        r.out = .mio (.relay (.gotHandshake t (BitVec.ofNat 8 c.2) h)) :: s.out)) ∧
      (s.isPartner = false → respNp h.flags = true → s.npFind t h.flags h.tag.toNat = none → answers c.1 s (fun r =>
        r.f (Reg.TS_RESP_ERRORS_UNMATCHED t) = min (s.f (Reg.TS_RESP_ERRORS_UNMATCHED t) + 1) 65535 ∧ r.bus = s.bus))) ∧
    (∀ k x, s.isPartner = false → respNp h.flags = true → s.npFind t h.flags h.tag.toNat = some (k, x) → lockView x.xfer = none →
      (x.kind = Pk.bulkOut ∨ x.kind = Pk.setup → answers (.ackReceived t h) s (fun r => ∃ u : State, ended k u ∧
        r = (u.ackXfer x.xfer x.seq).afterTx x.xfer)) ∧
      (x.kind = Pk.bulkOut ∨ x.kind = Pk.bulkIn ∨ x.kind = Pk.setup → answers (.nakReceived t h) s (fun r => ∃ u : State, ended k u ∧
        r = (u.nakAttempt x.xfer x.seq x.start).afterTx x.xfer)) ∧
      (x.kind = Pk.ssplit → answers (.ackReceived t h) s (fun r => ∃ u : State, ended k u ∧
        r = (u.updXfer x.xfer (fun y => { y with
          nakCount := 0
          nakMf := none
          att := setAtt y.att { attOf y.att x.seq with split := some (x.mf + 2, x.exp) } })).afterTx x.xfer)) ∧
      (x.kind = Pk.bulkOut ∨ x.kind = Pk.bulkIn ∨ x.kind = Pk.setup → answers (.stallReceived t h) s (fun r => ∃ u : State, ended k u ∧
        (x.handle % 8 ≠ 0 → u.cf x.handle Cx.halted = 1) ∧ r = u.endXfer x.xfer St.stall)) ∧
      (x.kind = Pk.csplit → answers (.nyetReceived t h) s (fun r => ∃ u v : State, ended k u ∧ v = u.nakAttempt x.xfer x.seq x.start ∧
        r = (v.updXfer x.xfer (fun y => { y with att := setAtt y.att { attOf y.att x.seq with split := some (v.mfN + 1, x.exp) } })).afterTx x.xfer)) ∧
      (x.kind = Pk.csplit → answers (.errReceived t h) s (fun r => ∃ u : State, u.npTx k = some { x with kind := 0 } ∧
        r = u.failAttempt x.xfer x.seq))) ∧
    (∀ k x v, s.isPartner = false → respNp h.flags = true → s.npFind t h.flags h.tag.toNat = some (k, x) → lockView x.xfer = some v →
      (x.seq = 1 → answers (.lockAckReceived t h) s (fun r => ∃ u : State, ended k u ∧ r = u.lockAnswer v 1 [])) ∧
      (x.seq = 1 → answers (.lockBusyReceived t h) s (fun r => ∃ u : State, ended k u ∧ r = u.lockFail v true)) ∧
      answers (.nakReceived t h) s (fun r => ∃ u : State, ended k u ∧ r = u.lockFail v false)) ∧
    (∀ x, respNp h.flags = false → s.per (respKey t h.flags h.tag.toNat) = some x → x.got = false → x.kind = Pk.ssplit →
      answers (.ackReceived t h) s (fun r => if s.now < x.start + s.rttOf x.handle + 50 then
          r.per (respKey t h.flags h.tag.toNat) = none ∧ x ∈ Tbl.get (fun _ => []) r.bus.splits t.val
        else r.bus = s.bus ∧ r.f (Reg.TS_RESP_ERRORS_UNMATCHED t) = min (s.f (Reg.TS_RESP_ERRORS_UNMATCHED t) + 1) 65535)))

/-- Non-periodic data goes to its transfer, and the answer of a PING ends it with its round trip; a window that is over fails its attempt, and
one that is not stays open; a tag comes back after its quarantine and not before (R4, R44, R45, R56, R58, R63, R69, R407). -/
def Obligations.DataAndWindowsEndAttempts : Prop :=
  ∀ (s : State) (t : Trunk),
    let ended (k : Nat) (u : State) : Prop := u.npTx k = none ∧
      Tbl.get (fun _ => none) u.bus.quarantine (k / 8192 * 4096 + k % 4096) = some (s.now + 6250)
    (∀ d k x, (s.trunk t).delinLost = false → d.hops.toNat < 7 → s.isPartner = false → respNp d.flags = true →
      s.npFind t d.flags d.tag.toNat = some (k, x) → lockView x.xfer = none →
      (x.kind = Pk.bulkIn ∨ x.kind = Pk.csplit ∧ x.inner = 4) → x.handle = d.handle.toNat → s.seqFits x d.seq.toNat = true →
      d.payload.length ≤ x.len → answers (.npDataReceived t d) s (fun r => ∃ u : State, ended k u ∧
        r = (u.dataXfer x.xfer d.seq.toNat d.payload (nbit d.flags.toNat 0)).afterTx x.xfer)) ∧
    (∀ d k x, (s.trunk t).delinLost = false → d.hops.toNat < 7 → s.isPartner = false → respNp d.flags = true →
      s.npFind t d.flags d.tag.toNat = some (k, x) → lockView x.xfer = none → x.kind = Pk.ping → x.handle = d.handle.toNat →
      d.payload.length ≤ x.len → answers (.npDataReceived t d) s (fun r => ∃ u : State, ended k u ∧ r = u.pingDone t x.start)) ∧
    (∀ mfp tag, (∀ k ∈ [npKey t (b2n mfp) tag.toNat, npKey (t + 192) (b2n mfp) tag.toNat], ∀ x, s.npTx k = some x → s.now < x.close) →
      answers (.responseWindowClose t true mfp tag) s (fun r => r = s)) ∧
    (∀ mfp tag x, s.npTx (npKey t (b2n mfp) tag.toNat) = some x → x.close ≤ s.now →
      (lockView x.xfer = none → x.kind = Pk.ping → answers (.responseWindowClose t true mfp tag) s (fun r => ∃ u : State,
        ended (npKey t (b2n mfp) tag.toNat) u ∧ r = u.pingLate (npKey t (b2n mfp) tag.toNat / 8192))) ∧
      (lockView x.xfer = none → x.kind ≠ Pk.ping → x.kind ≠ 0 → answers (.responseWindowClose t true mfp tag) s (fun r => ∃ u : State,
        ended (npKey t (b2n mfp) tag.toNat) u ∧ r = (u.failAttempt x.xfer x.seq).afterTx x.xfer)) ∧
      (∀ v, lockView x.xfer = some v → answers (.responseWindowClose t true mfp tag) s (fun r => ∃ u : State,
        ended (npKey t (b2n mfp) tag.toNat) u ∧ r = u.lockFail v false))) ∧
    (∀ mfp tag x, s.per (npKey t (b2n mfp) tag.toNat) = some x → x.kind = Pk.ssplit → answers (.responseWindowClose t false mfp tag) s (fun r =>
      if x.start + s.rttOf x.handle + 50 ≤ s.now then r.per (npKey t (b2n mfp) tag.toNat) = none ∧
        r.f (Reg.TS_SPLIT_NAKS_NO_ANSWER t) = min (s.f (Reg.TS_SPLIT_NAKS_NO_ANSWER t) + 1) 65535
      else r = s)) ∧
    (∀ (tag : BitVec 12) x, Tbl.get (fun _ => none) s.bus.quarantine (t * 4096 + tag.toNat) = some x →
      answers (.tagReuseExpiry t tag) s (fun r => Tbl.get (fun _ => none) r.bus.quarantine (t * 4096 + tag.toNat) =
        if s.now < x then some x else none))

/-- A walker sends the transaction of its next entry, defers it in the Tulle band, a poll from its issue limit on, and drops one that was
deferred before (a poll at its limit, and an OUT whose turn finds no block in the band: log entry 39); the fill starts the attempt that is next in
turn, a PING first, and holds it in a retraining slot (R5, R15, R44, R50, R58, R69, R90, R133, R134, R137, R138, R154, R155, R171, R298). A walker leaves a list from its first bad word
on, in this walk and in later ones (R435), and a word that fails its ECC or its parity on the way is handled where it is read (R176, R178,
R436). -/
def Obligations.WalkersAndFillSendInTurn : Prop :=
  ∀ (s : State) (t : Trunk),
    (∀ e l, s.trunkRuns t = true → (s.walk t).deferred = [] → (s.walk t).rest = e :: l → s.time.phase < Config.fillTick →
      s.permitted t e = true → s.mute = false → s.ck.fundamental = false →
      (e.kind = 0 → s.time.phase + s.f (Reg.TM_PORT_RTT_RTT t) < 4375 → answers (.walkerIssue ⟨t, none⟩) s (fun r =>
        r.out = .pkt t ⟨Pk.in_, pktFlags false (s.cf e.handle Cx.twill == 1) false false false false (s.mfN % 65536)
          (s.pathOf t), (s.walk t).tag % 4096, e.handle, 0, e.length, s.mfN % 65536, []⟩ :: s.out ∧
        (r.walk t).rest = l ∧ (r.walk t).tag = (s.walk t).tag + 1 ∧
        r.per (npKey t (s.mfN % 65536) ((s.walk t).tag % 4096)) = some ⟨Pk.in_, 0, e.handle, s.mfN % 65536, e.length, s.now, false⟩ ∧
        r.f (Reg.TS_PERIODIC_SENT_COUNT t) = min (s.f (Reg.TS_PERIODIC_SENT_COUNT t) + 1) 0xFFFFFFFF)) ∧
      (∀ b, e.kind = 1 → s.outBlock e.handle s.mfN = some b → answers (.walkerIssue ⟨t, none⟩) s (fun r =>
        r.out = .pkt t ⟨Pk.data, pktFlags false (s.cf e.handle Cx.twill == 1) false false false false (s.mfN % 65536) (s.pathOf t), (s.walk t).tag % 4096, e.handle, 0,
            b.length, s.mfN % 65536, b⟩ ::
          .pkt t ⟨Pk.out, pktFlags false (s.cf e.handle Cx.twill == 1) false false false false (s.mfN % 65536) (s.pathOf t), (s.walk t).tag % 4096, e.handle, 0,
            b.length, s.mfN % 65536, []⟩ :: s.out))) ∧
    (∀ e l, s.trunkRuns t = true → (s.walk t).deferred = [] → (s.walk t).rest = e :: l →
      (Config.fillTick ≤ s.time.phase ∨ e.kind = 0 ∧ 4375 ≤ s.time.phase + s.f (Reg.TM_PORT_RTT_RTT t)) →
      s.transmits t s.mfN e = true → answers (.walkerIssue ⟨t, none⟩) s (fun r => (r.walk t).carry = (s.walk t).carry ++ [e] ∧ (r.walk t).rest = l ∧
        r.out = s.out ∧ r.f (Reg.TS_DEFERRED_PERIODIC t) = min (s.f (Reg.TS_DEFERRED_PERIODIC t) + 1) 65535)) ∧
    (∀ e l, s.trunkRuns t = true → (s.walk t).deferred = e :: l →
      (Config.fillTick ≤ s.time.phase ∨ e.kind = 0 ∧ 4375 ≤ s.time.phase + s.f (Reg.TM_PORT_RTT_RTT t)) → answers (.walkerIssue ⟨t, none⟩) s (fun r =>
      (r.walk t).deferred = l ∧ r.out = s.out ∧ r.f (Reg.TS_DROPPED_COUNT t) = min (s.f (Reg.TS_DROPPED_COUNT t) + 1) 0xFFFFFFFF)) ∧
    (∀ e l, s.trunkRuns t = true → (s.walk t).deferred = [] → (s.walk t).rest = e :: l → s.permitted t e = true → e.kind = 1 →
      s.outBlock e.handle s.mfN = none → answers (.walkerIssue ⟨t, none⟩) s (fun r => (r.walk t).rest = l ∧ (r.walk t).carry = (s.walk t).carry ∧
        r.out = s.out ∧ r.cf e.handle Cx.missing = min (s.cf e.handle Cx.missing + 1) (2 ^ Cx.missing.w - 1))) ∧
    (s.isPartner = false → s.npOpen t = true → s.waiting t ≠ [] → s.bus.resync = [] → (s.trunk t).slotOn = true →
      answers (.npTransactionStart ⟨t, none⟩) s (fun r => r.out = s.out ∧ r.bus = s.bus)) ∧
    (∀ dev, s.isPartner = false → s.npOpen t = true → s.bus.resync = [] → (s.trunk t).slotOn = false → s.pingDue t = some dev →
      answers (.npTransactionStart ⟨t, none⟩) s (fun r => r.npTx (npKey t s.mfN (s.choose (s.freeTags t) 0)) =
        some ⟨0, Pk.ping, 0, dev * 16 + 8, 0, 0, 192, s.now, s.now + 2550, s.mfN⟩)) ∧
    (∀ e o l, s.isPartner = false → s.npOpen t = true → s.waiting t ≠ [] → s.bus.resync = [] → (s.trunk t).slotOn = false → s.pingDue t = none →
      s.pickNp t ((s.waiting t).filter (fun x => s.served x.2.1)) = some e → e.2.2 = o :: l → answers (.npTransactionStart ⟨t, none⟩) s (fun r =>
        s.choose (s.freeTags t) 0 ∈ s.freeTags t ∧
        r.npTx (npKey t s.mfN (s.choose (s.freeTags t) 0)) =
          some ⟨o.x, o.kind, o.inner, o.h, o.seq, o.exp, o.len, s.now, s.now + ((if o.kind = Pk.ping then 2500 else s.rttOf o.h) + 50), s.mfN⟩ ∧
        (xferClass e.2.1 ≠ 0 → r.credit t e.2.1.fn = s.credit t e.2.1.fn - (o.bytes : Nat)))) ∧
    (∀ x b, s.isPartner = true → s.trunkRuns t = true → s.mute = false → s.walkOver t = true → s.time.phase < Config.fillTick →
      s.inSatin = false → s.pu.relay.find? (fun x => x.1 == t.val) = some (x, b) → answers (.npTransactionStart ⟨t, none⟩) s (fun r =>
        if (s.trunk t).slotOn = true ∧ field b 0 1 ≠ Pk.data then r.out = s.out ∧ r.pu = s.pu else r.out = .raw t b :: s.out)) ∧
    (∀ e l a, s.trunkRuns t = true → (s.walk t).deferred = [] → (s.walk t).rest = e :: l →
      let out := outKind e.kind
      answers (.walkerIssue ⟨t, some (.list a)⟩) s (fun r => (r.walk t).deferred = [] ∧
        (r.walk t).rest = l.filter (fun x => !(x.k == e.k && x.phase == e.phase && outKind x.kind == out)) ∧
        r.flag Reg.GLB_ERR_UNCORRECTABLE = true ∧ ∃ i, r.damageOf (s.treeOf t) e.k e.phase out s.bank = some i ∧
          i ≤ (s.entries (listIx (nodeIx (s.treeOf t) e.k e.phase) out) s.bank).findIdx (· == e))) ∧
    (∀ m, ∀ e ∈ ((s.beginWalk t m).walk t).rest, s.sound (s.treeOf t) e = true) ∧
    (∀ x, s.trunkRuns t = true → answers (.walkerIssue ⟨t, some (.ebm x)⟩) s (fun r => r = (s.ebmHit x 1).walkNext t)) ∧
    (∀ a,
      let met (u : State) : Prop := s.regsBut [Reg.LNK_PARITY t] u ∧ State.only [.regs] s u ∧
        u.f (Reg.LNK_PARITY_TX t) = min (s.f (Reg.LNK_PARITY_TX t) + 1) 65535
      (s.trunkRuns t = true → answers (.walkerIssue ⟨t, some (.parity a)⟩) s (fun r => ∃ u : State, met u ∧
        r = (u.ebmHit ⟨a, true⟩ 2).walkNext t)) ∧
      (s.npOpen t = true → s.waiting t ≠ [] → answers (.npTransactionStart ⟨t, some a⟩) s (fun r => ∃ u : State, met u ∧
        r = u.ebmHit ⟨a, true⟩ 2)))

/-! ## The microframe, the schedule's switch and the image's swap (R3, R10 to R18, R26, R149, R150, R217 to R222, R227, R281, R295) -/

/-- The schedule's bank switches in the microframe before M and the rebase ends the commit; a sealed image takes over in the microframe
before M, where a PATCH keeps the nodes without it for the operations of earlier passes (R22), and the swap completes at the mark of M + 1; a load that waited for a swap is then read (R149, R150, R217, R222). No mark of a
damaged list outlives the bank that it stands in (R435). -/
def Obligations.ScheduleAndImageSwitchAtTheirMarks : Prop :=
  ∀ s : State,
    (∀ c, s.ts.commit = some c → c.switched = false → s.mfN + 1 = c.m → answers .scheduleBankSwitch s (fun t =>
      t.ts.commit = some { c with switched := true } ∧ t.ts.lastM = c.m ∧ t.ts.active = s.ts.staged ∧ t.ts.sealed_ = [] ∧
      t.f Reg.TS_STATUS_BANK = 1 - s.f Reg.TS_STATUS_BANK)) ∧
    (∀ c, s.ts.commit = some c → c.switched = true → c.m ≤ s.mfN → answers .rebaseEnd s (fun t => ∃ u : State,
      u.ts.commit = none ∧ u.flag Reg.TS_STATUS_COMMIT_PENDING = false ∧ u.flag Reg.TS_STATUS_REBASING = false ∧
      (∀ x ∈ u.ts.damaged, x.2.2.2.1 / 2 ≠ s.shadow) ∧ u.ts.staged = s.ts.active ∧ u.ts.copied = [] ∧
      t = ((u.inCqeOrder id c.waiting).foldl (fun (x : State) (r : EntryRef) => x.completeRefM r St.ok 0 (BitVec.ofNat 32 c.m) (BitVec.ofNat 32 (c.m / 2 ^ 32)))
        u).serveWaits.applyHeld.step12Resume)) ∧
    (∀ w, s.mre.swap = some w → w.taken = false → s.mfN + 1 = w.m → answers .graphSwapTakeover s (fun t =>
      t.mre.swap = some { w with taken := true } ∧ t.mre.lastM = w.m ∧
      (∀ img, w.full = some img → w.patches = [] → t.mre.image = some img ∧ t.mre.faulted = [] ∧ t.gd.queue = [] ∧ t.gd.spills = []) ∧
      (∀ i p, w.full = none → w.patches = [p] → s.mre.image = some i → i.header.graphId = p.header.baseId →
        t.mre.image = some (applyPatch i p) ∧ t.mre.patched = s.mre.patched ++ [(w.m, s.nodes)] ∧ t.gd = s.gd))) ∧
    (∀ w, s.mre.swap = some w → w.taken = true → w.m + 1 ≤ s.mfN → answers .graphSwapComplete s (fun t => ∃ u : State,
      u.mre.swap = none ∧ u.flag Reg.MRE_STATUS_SWAP_PENDING = false ∧
      t = (u.inCqeOrder id w.refs).foldl (fun (x : State) (r : EntryRef) => x.completeRefM r St.ok 0 (BitVec.ofNat 32 w.m) (BitVec.ofNat 32 (w.m / 2 ^ 32))) u)) ∧
    (∀ img r e l, s.mre.swap = none → s.mre.loads = (r, e) :: l → img.header.magic = 0x49475847 → img.header.format = 1 →
      img.header.typ = 0 → img.crcGood = true → s.fullOk img (sqeDw e 4).toNat = true → s.graphRight r.fn.val = true →
      img.nodes.all (fun n => s.nodeGranted n n.kind) = true → s.imageRefused img.header = none →
      answers (.graphLoadResume img) s (fun t => ∃ u : State, u.mre.staged = some img ∧ u.mre.loads = l ∧
        u.reg Reg.MRE_STAGED_ID = img.header.graphId ∧ t = u.completeM r e St.ok 0 (BitVec.ofNat 32 img.header.graphId.toNat)))

/-! ## The graph dispatcher (R226 to R247) -/

/-- An operation goes to its last GPE, or else to the lowest idle one; it completes with its result, the node being as its pass runs it (R22),
and its node goes on with the next pass; spilled operations and held notices enter their queues (R190, R226, R228, R231, R232, R234, R235). An error of a dispatcher queue faults
the node first, and one of endpoint buffer memory is handled where the word lies (R176, R186, R436). -/
def Obligations.OperationsRunThroughTheirQueues : Prop :=
  ∀ s : State,
    (∀ o g, s.gd.queue = [o] → s.releaseUsed < 8192 → s.idleGpes.contains g = true → mayTake g o.prio = true →
      (s.lastGpe o.node = g ∨ s.waitOver o = true ∧ s.idleGpes.contains (s.lastGpe o.node) = false ∧
        s.idleGpes.find? (fun i => mayTake i o.prio) = some g) →
      answers .operationDispatch s (fun t => t.gd.queue = [] ∧ t.run g = some ⟨o.node, o.pass, none⟩ ∧ t.lastGpe o.node = g)) ∧
    (∀ n, answers (.affinityWaitExpiry n) s (fun t => t.regs = s.regs ∧
      t.gd = { s.gd with queue := s.gd.queue.map (fun o => if o.node = n then { o with waited := true } else o) })) ∧
    (∀ (g : GpeId) n p nd stall, s.run g.val = some ⟨n, p, none⟩ → s.nodeAt n p = some nd → s.mre.faulted.contains n = false →
      answers (.operationComplete g [] stall) s (fun t => t.run g.val = none ∧
        t.next n = (if s.runs nd then p + 1 else max (p + 1) (s.mfN + 1)) ∧
        ∃ u : State, { u with gd := s.gd } = s ∧ (hasOutput nd.kind = true → (∀ f, ∀ r ∈ s.flow f, r.node = n → r.win = none) →
          let r := (u.runNode p nd (nd.inputs.map (fun m => s.streamAt m p)) (s.nodeSt n)).2
          t.nodeSt n = r.st ∧ (t.streams n).head? = some ⟨p, r.x, r.flag⟩))) ∧
    (∀ (g : GpeId) n p nd a stall, s.run g.val = some ⟨n, p, none⟩ → s.nodeAt n p = some nd → s.mre.faulted.contains n = false →
      answers (.operationComplete g [.queue a] stall) s (fun t => ∃ u : State, u.mre = { s.mre with faulted := n :: s.mre.faulted } ∧
        u.f Reg.MRE_MEM_ERRORS_UNCORRECTED = min (s.f Reg.MRE_MEM_ERRORS_UNCORRECTED + 1) 65535 ∧
        u.flag Reg.GLB_ERR_UNCORRECTABLE = true ∧
        t = (u.completeOp n p nd []).1.when (u.completeOp n p nd []).2 (fun y => y.wake .emerg))) ∧
    (∀ (g : GpeId) n p nd x stall, s.run g.val = some ⟨n, p, none⟩ → s.nodeAt n p = some nd →
      answers (.operationComplete g [.ebm x] stall) s (fun t => ∃ u v : State, State.only [.gd] s u ∧ v = u.ebmHit x 1 ∧
        t = (v.completeOp n p nd []).1.when (v.completeOp n p nd []).2 (fun y => y.wake .emerg))) ∧
    (∀ (q : Prio) x, s.gd.spills = [x] → s.prioOf x.1 = q.val → s.depth q.val < 4096 → answers (.spillMove q) s (fun t =>
      t.gd.spills = [] ∧ t.gd.queue = s.gd.queue ++ [⟨x.1, x.2, q.val, s.waitOver ⟨x.1, x.2, q.val, false⟩⟩])) ∧
    (∀ (q : Prio) v, s.accepts q.val = true → s.gd.held.find? (fun x => x.1 == q.val) = some (q.val, v) →
      let u : State := { s with gd := { s.gd with held := removeFirst (fun y => y == (q.val, v)) s.gd.held } }
      answers (.heldNoticeEnter q) s (fun t =>
        (∀ g, v = .clip g → t.gd.held = u.gd.held ∧ t.gen g =
          { s.gen g with clips := (s.gen g).clips.map (fun c => { c with ready := c.filled }), noticed := false }) ∧
        (∀ h, v = .block h → (t.gd.held = u.gd.held ∨ t.gd.held = (q.val, v) :: u.gd.held) ∧
          ∀ x ∈ s.readers h, x.2.prio = q.val → u.ready x.1 x.2 = true →
            t.gd.busy.contains x.1 = true ∨ t.gd.held = (q.val, v) :: u.gd.held))) ∧
    (∀ g : Fin 256, (s.gen g.val).noticed = false → (s.gen g.val).clips.all (fun c => c.ready == c.filled) = false →
      answers (.clipRefillNotice g) s (fun t => if s.accepts (s.genPrio g.val) then
          t.gen g.val = { s.gen g.val with clips := (s.gen g.val).clips.map (fun c => { c with ready := c.filled }), noticed := false }
        else t.gd.held.contains (s.genPrio g.val, .clip g.val) = true ∧ t.gen g.val = { s.gen g.val with noticed := true }))

/-- Timers fire at their expiry, in SATIN those of priority 0 alone: a clip becomes playable, repeats, or is stopped, a pilot burst or a Muslin
slot starts (R194, R196, R224, R240 to R244, R258, R263). A timer whose entry was taken back too late does nothing (R243). They fire in the Tulle band, in their order, at most 1,024 in one tick; one that is not due
yet, or whose turn it is not, changes nothing. The slot of a part that starts in its own microframe fires at once. -/
def Obligations.TimersDoTheirWork : Prop :=
  ∀ (s : State) (seq : Nat) (tm : TimerRec),
    let due (k : TimerKind) : Prop := s.gd.timers.find? (fun t => t.seq == seq && t.kind == k) = some tm ∧ tm.e ≤ s.mfN + 1 ∧
      (s.inSatin = false ∨ tm.prio = 0) ∧ s.slotNowDue tm = false ∧ s.timerTurn tm = true ∧ s.tickFired < 1024
    let left := s.gd.timers.filter (fun x => x.seq != seq)
    let played (t : State) : Prop := (t.gen tm.owner).clips =
      (s.gen tm.owner).clips.map (fun c => if some c.ref = tm.ref then { c with playable := c.playable + 1, lastE := tm.e } else c)
    (due .clipStart → answers (.clipStartTimer seq) s (fun t => t.gd.timers = left ∧ played t ∧
      t.f Reg.GD_TIMER_LATE_COUNT = if tm.e < s.mfN + 1 then min (s.f Reg.GD_TIMER_LATE_COUNT + 1) 0xFFFFFFFF
        else s.f Reg.GD_TIMER_LATE_COUNT)) ∧
    (∀ c, due .clipRepeat → (s.gen tm.owner).clips.find? (fun c => some c.ref == tm.ref) = some c →
      answers (.clipRepeatTimer seq) s (fun t => played t ∧ t.gd.timers = if tm.r + 1 ≤ c.repeats then
        left ++ [⟨s.gd.timerSeq, s.genPrio tm.owner, tm.e + c.repeatMf, .clipRepeat, tm.owner, tm.ref, tm.r + 1, false⟩] else left)) ∧
    (due .clipStop → tm.ref = none → answers (.clipStopTimer seq) s (fun t => t.gd.timers = left ∧ t.mre = s.mre)) ∧
    (due .clipStop → tm.ref.isSome = true → answers (.clipStopTimer seq) s (fun t => ∃ u : State, u.gd.timers = left ∧
      u.gen tm.owner = { s.gen tm.owner with
        stopAt := some (max tm.e (s.mfN + 1)), stopE := tm.e, stops := (s.gen tm.owner).stops ++ tm.ref.toList } ∧
      t = if (s.gen tm.owner).clips.isEmpty then u.stopGen tm.owner else u)) ∧
    (∀ n nd c, due .pilot → s.corr tm.owner = some (n, nd, c) → (s.line tm.owner).pilotDue = true →
      (c.pilotMode = 1 ∨ (s.line tm.owner).slot = none → answers (.pilotTimer seq) s (fun t => (t.line tm.owner).pilot =
        some ⟨tm.e, decide (c.pilotMode = 1), if c.pilotMode = 1 then none else some (tm.e + 4000)⟩)) ∧
      (c.pilotMode ≠ 1 → (s.line tm.owner).slot.any (·.covers tm.e) = true → answers (.pilotTimer seq) s (fun t => t.sv = s.sv))) ∧
    (due .clipStart → answers (.clipStartTimer seq) s (fun t => t.gd.tick = (s.mfN, s.tickFired + 1) ∧
      t.time = (s.advanceTo Config.fillTick).time)) ∧
    (s.gd.timers.find? (fun t => t.seq == seq && t.kind == .clipStart) = some tm →
      (s.mfN + 1 < tm.e ∨ (s.inSatin = true ∧ tm.prio ≠ 0) ∨ s.timerTurn tm = false ∨ 1024 ≤ s.tickFired) →
      answers (.clipStartTimer seq) s (fun t => t = s)) ∧
    (∀ a base, s.gd.timers.find? (fun t => t.seq == seq && t.kind == .sweepSlot) = some tm → (s.inSatin = false ∨ tm.prio = 0) →
      tm.e = s.mfN → s.sv.audit = some a → a.partMf = s.mfN → a.running = true → a.left.head? = some 0 →
      answers (.sweepSlotTimer seq base) s (fun t => ∃ u : State, u.gd.timers = left ∧ u.gd.tick = s.gd.tick ∧ u.time = s.time ∧
        u.sv = s.sv ∧ t = u.startSlot a tm.e base)) ∧
    (∀ a base, due .sweepSlot → s.sv.audit = some a → a.running = true → a.left.head? = some 0 →
      answers (.sweepSlotTimer seq base) s (fun t => ∃ u : State, u.gd.timers = left ∧ u.sv = s.sv ∧ t = u.startSlot a tm.e base))

/-- Taps write a chunk once its 64 passes are over and not before, lose it without a buffer, and keep it while its function is in D3hot or its
engine runs no burst; the observing window and the operating point for admission are set and close
(R209, R223, R245, R337, R372). A refresh ends on every bound line, a pilot window ends, and held supervision events are written (R252 to R256,
R258 to R260). -/
def Obligations.TapsWindowsAndRefreshes : Prop :=
  (∀ (s : State),
    (∀ (tap : Fin 64) p b l, s.isPartner = false → (s.tap tap.val).recs = (p, b) :: l →
      let data := chunkBytes (s.tap tap.val).recs (p / 64) (s.tapChans tap.val)
      (s.mfN < 64 * (p / 64) + 64 → (∀ x ∈ (s.tap tap.val).recs, x.1 < 64 * (p / 64) + 63) →
        answers (.tapChunkComplete tap) s (fun t => t = s)) ∧
      (s.chunkOver tap (p / 64) = true →
      ((s.tap tap.val).bufs = [] → answers (.tapChunkComplete tap) s (fun t => (t.tap tap.val).lost = (s.tap tap.val).lost + 1 ∧
        t.f Reg.MRE_GEN_ERRORS_TAP_LOST = min (s.f Reg.MRE_GEN_ERRORS_TAP_LOST + 1) 65535 ∧ t.out = s.out)) ∧
      (∀ x rest, (s.tap tap.val).bufs = x :: rest → x.len < x.written + data.length → answers (.tapChunkComplete tap) s (fun t =>
        (t.tap tap.val).lost = (s.tap tap.val).lost + 1 ∧ t.out = s.out)) ∧
      (∀ x rest, (s.tap tap.val).bufs = x :: rest → x.written + data.length ≤ x.len →
        (s.tap tap.val).bufs.any (fun b => s.frozen b.ref.fn.val) = false →
        ((s.d3hot x.ref.fn.val = true ∨ ∃ ch, s.chanOf x.ref = some ch ∧ s.engineRuns (ch / 64) = false) →
          answers (.tapChunkComplete tap) s (fun t => t = s)) ∧
        (s.d3hot x.ref.fn.val = false → (∀ ch, s.chanOf x.ref = some ch → s.engineRuns (ch / 64) = true) →
        answers (.tapChunkComplete tap) s (fun t => Emit.write x.ref.fn.val (x.addr + x.written) data ∈ t.out ∧
          (t.tap tap.val).recs = (s.tap tap.val).recs.filter (fun y => y.1 / 64 != p / 64) ∧
          (x.written + data.length < x.len → (t.tap tap.val).bufs =
            { x with written := x.written + data.length, first := x.first.or (some (64 * (p / 64))) } :: rest)))))) ∧
    (∀ v, s.pfServes Reg.MRE_ADMIT_CFG → answers (.admitCfgWrite v) s (fun t =>
      if (s.mre.image.toList ++ s.mre.staged.toList ++ (match s.mre.swap with | some w => w.full.toList | none => [])).all
          (fun i => fitsAt (bits v 0 2) i.header) then s.pairFormed = false → t.f Reg.MRE_ADMIT_CFG_OP = bits v 0 2
      else t.flag Reg.MRE_STATUS_OP_REFUSED = true ∧ t.reg Reg.MRE_ADMIT_CFG = s.reg Reg.MRE_ADMIT_CFG)) ∧
    (∀ v, s.pfServes Reg.GD_OBS_CTRL → answers (.obsCtrlWrite v) s (fun t => t.gd = { s.gd with obs := none } ∧
      t.f Reg.GD_OBS_CTRL_EN = bits v 0 1 ∧ t.f Reg.GD_OBS_CTRL_W = bits v 1 4)) ∧
    (s.gd.obsEnd = none → answers .obsWindowClose s (fun t => t = s)) ∧
    (∀ o, s.gd.obsEnd = some o → answers .obsWindowClose s (fun t => t.gd.obsLast = some o ∧ t.gd.obsEnd = none ∧ t.gd.obs = s.gd.obs ∧
      t.flag Reg.GD_OBS_STATUS_VALID = true ∧ t.f Reg.GD_OBS_START_LO_MF = o.start % 2 ^ 32 ∧
      t.f Reg.GD_OBS_START_HI_MF = o.start / 2 ^ 32 % 65536))) ∧
  (∀ s : State,
    (s.sv.refreshed = some s.mfN → answers .refreshEnd s (fun t => t = s)) ∧
    (s.flag Reg.SV_CTRL_EN = true → s.mfN % 800 = 0 → s.sv.refreshed ≠ some s.mfN → s.inSatin = false →
      answers .refreshEnd s (fun t => (∀ l ∈ s.boundLines, (t.line l).passes = 0 ∧ (t.line l).missing = 0 ∧ (t.line l).applied = 0) ∧
        ∀ l, s.boundLines = [l] →
          (400 ≤ (s.line l).missing → 12 ≤ (s.line l).lostRun + 1 → (t.line l).state = 9) ∧
          (400 ≤ (s.line l).missing → (s.line l).lostRun + 1 < 12 → (s.line l).state ≠ 1 → (t.line l).lostRun = (s.line l).lostRun + 1 ∧
            (t.line l).state = (s.line l).state) ∧
          ((s.line l).applied < 80 → (t.line l).age = min 65535 ((s.line l).age + 1) ∧
            (t.line l).g = (s.line l).g) ∧
          (80 ≤ (s.line l).applied → (t.line l).age = 0 ∧ (t.line l).g = loadFigure (s.line l).est))) ∧
    (∀ (line : Half) p e, s.sv.audit = none → (s.line line.toNat).pilot = some p → p.ends = some e → e ≤ s.mfN →
      answers (.pilotWindowEnd line) s (fun t => (t.line line.toNat).pilot = none)) ∧
    (s.isPartner = true ∨ s.flag Reg.SV_EVENT_CTRL_EN = false → answers .svBacklogDrain s (fun t => t.sv = s.sv ∧ t.out = s.out)) ∧
    (∀ e r s1, s.isPartner = false → s.flag Reg.SV_EVENT_CTRL_EN = true → s.sv.held = e :: r →
      s.postEvent (s.f Reg.SV_EVENT_CTRL_CQ) e.dws 3 = some s1 →
      answers .svBacklogDrain s (fun t => ∃ u : State, u.sv = { s.sv with held := r } ∧ u.qe = s1.qe ∧ u.out = s1.out ∧
        t = (u.drainSv (r.length + s.sv.lines.length)).showSv)))

/-! ## Supervision (R248 to R271) -/

/-- The night audit's parts start and end: the eyes, the spare lanes, and each hub's paths alone in turn (R262, R265 to R267). -/
def Obligations.NightAuditRunsItsParts : Prop :=
  ∀ (s : State) (a : Audit), s.sv.audit = some a →
    (a.running = false → (if a.begun then s.mfN % 8 = 0 else a.startMf ≤ s.mfN) →
      (a.left.head? = some 1 → answers .auditPartStart s (fun t => t.sv.audit = some { a with running := true, begun := true, partMf := s.mfN } ∧
        ∀ n, n < 192 → t.flag (Reg.LX_EYE_STATUS_HW_ACTIVE n) = false)) ∧
      (a.left.head? = some 2 → answers .auditPartStart s (fun t => ∀ n, n < 192 → s.f (Reg.LX_LANE_CTRL_EN n) = 0 →
        s.laneState n = 0 → s.testAllowed n = true → s.miodelLane n = false → t.laneState n = Ls.test ∧
          t.flag (Reg.LX_PRBS_CTRL_GEN_EN n) = true ∧ t.flag (Reg.LX_PRBS_CTRL_CHK_EN n) = true))) ∧
    (a.running = true → a.left.head? = some 1 →
      ∀ grids, answers (.auditEyeComplete grids) s (fun t => ∃ (u : State) (b : Audit), t = u.endPart b ∧ b.left = a.left ∧
        b.scanned = a.scanned + ((List.range 192).filter (fun n => s.laneState n == Ls.up && !s.flag (Reg.LX_EYE_CTRL_SW_OWN n))).length ∧
        ∀ n : LaneId, s.laneState n = Ls.up →
          (s.flag (Reg.LX_EYE_CTRL_SW_OWN n) = true → (Tbl.get (fun _ => AuditLane.zero) b.lanes n).kind = 8) ∧
          (s.flag (Reg.LX_EYE_CTRL_SW_OWN n) = false → u.f (Reg.LX_LANE_STATUS_GRADE n) = s.gradeOf n (gridMargins (gridOf grids n)) ∧
            Tbl.get (fun _ => AuditLane.zero) b.lanes n = { Tbl.get (fun _ => AuditLane.zero) a.lanes n with
              kind := 1, m := gridMargins (gridOf grids n), openPoints := gridPoints (gridOf grids n) }))) ∧
    (a.running = true → a.left.head? = some 2 → s.mfN < a.partMf + 80000 → answers .auditPrbsEnd s (fun t => t = s)) ∧
    (a.running = true → a.left.head? = some 2 → a.partMf + 80000 ≤ s.mfN → answers .auditPrbsEnd s (fun t =>
      ∃ (u : State) (b : Audit), b.left = a.left ∧ t = u.endPart b ∧ ∀ n ∈ s.sparesOn a, u.laneState n = Ls.disabled ∧
        (Tbl.get (fun _ => AuditLane.zero) b.lanes n).kind = if (Tbl.get (fun _ => AuditLane.zero) a.lanes n).locked then 2 else 6)) ∧
    (a.running = true → a.left.head? = some 3 →
      (∀ h rest, a.hub = none → a.hubsLeft = h :: rest → s.mfN % 8 = 0 → (a.f = 0 ∨ a.f + 144 ≤ s.mfN) → s.subInputs h ≠ [] →
        answers .twillSwapPhase s (fun t => ∃ r : AuditHub, r.hub = h ∧
          t.sv.audit = some (s.beginAlone { a with hubsLeft := rest, f := s.mfN, phase := 1 } r 0))) ∧
      (∀ r, a.hub = some r → a.phase = 1 → a.f + 64 ≤ s.mfN → answers .twillSwapPhase s (fun t =>
        t.sv.audit = some { a with alone := none, phase := 2 })) ∧
      (∀ r, a.hub = some r → a.phase = 2 → a.f + 72 ≤ s.mfN → answers .twillSwapPhase s (fun t =>
        t.sv.audit = some (s.beginAlone { a with phase := 3 } r 1))) ∧
      (∀ r, a.hub = some r → a.phase = 3 → a.f + 136 ≤ s.mfN → answers .twillSwapPhase s (fun t =>
        t.sv.audit = some { a with alone := none, phase := 4 })) ∧
      (∀ r h rest, a.hub = some r → a.phase = 4 → a.f + 137 ≤ s.mfN → a.hubsLeft = h :: rest → answers .twillSwapPhase s (fun t =>
        t.sv.audit = some { a with alone := none, rejoin := none, phase := 0, hub := none, hubs := a.hubs ++ [r] })))

/-! ## Entries of the rings (R345 to R369) -/

/-- An entry that may start is checked; a failing check or a stopped engine ends it with that status, NOP completes with OK and its CQE
and the cleared OWN go to the host, and ENTRY_START carries out the entry that is due by its opcode, or ends it when the entry cache has
lost it (R330, R346, R348, R353, R356, R387).
Clips and taps: CLIP_PLAY joins its generator's queue with its timers, CLIP_STOP places its timer, TAP_RECORD adds a buffer, each on a
SOLO device (R194, R196, R209, R241, R242). -/
def Obligations.EntriesAreCheckedAndQueued : Prop :=
  (∀ s : State,
    (∀ r e x u q c, s.starting r (withOp e 0x01) x u → s.reports r q c → answers (.nop r e) s (fun t =>
      Emit.cqe r.fn.val q.cq c.pos (cqeDws (entryCqe r x St.ok 0 0 0 0 0 false) q.pos) ∈ t.out ∧
      Emit.sqe r.fn.val r.sq.toNat r.idx.toNat (putBits (sqeDw x 0) 0 1 0) ∈ t.out)) ∧
    (∀ r e x, x = withOp e 0x01 → s.entryMay r x = true → s.check r x ≠ St.ok → answers (.nop r e) s (fun t =>
      t = (((s.begun r x).bump Reg.QE_ERR_MALFORMED).complete r x (s.check r x)).serveSpace)) ∧
    (∀ (fn : FnId) (sq : BitVec 11) h y v, s.dueEntry fn.val sq.toNat = some y → s.entryMay y.ref y.sqe = true →
      v = (if sq.toNat = 0 then { s with qe := { s.qe with lastAdmin := fn.val } } else s : State).begun y.ref y.sqe →
      (s.starts y.ref y.sqe → hostFits y.sqe h = true → answers (.entryStart fn sq ⟨h, none⟩) s (fun t =>
        t = (v.runEntry y.ref y.sqe h).serveSpace)) ∧
      (s.check y.ref y.sqe ≠ St.ok → answers (.entryStart fn sq ⟨h, none⟩) s (fun t =>
        t = ((v.bump Reg.QE_ERR_MALFORMED).complete y.ref y.sqe (s.check y.ref y.sqe)).serveSpace)) ∧
      (∀ c, s.check y.ref y.sqe = St.ok → hostFits y.sqe h = true → sqeChan y.sqe = some c → v.stopped (c / 64) = true →
        answers (.entryStart fn sq ⟨h, none⟩) s (fun t => t = (v.complete y.ref y.sqe St.engineFault).serveSpace)) ∧
      answers (.entryStart fn sq ⟨h, some true⟩) s (fun t => ∃ u : State, u.qe.cache = s.qe.cache ∧
        u.f Reg.QE_ECC_UNCORRECTED = min (s.f Reg.QE_ECC_UNCORRECTED + 1) 65535 ∧ u.flag Reg.GLB_ERR_UNCORRECTABLE = true ∧
        (u.fnRec fn.val).aer.contains Aer.internal = true ∧
        t = ((u.begun y.ref y.sqe).complete y.ref y.sqe St.aborted).serveSpace) ∧
      answers (.entryStart fn sq ⟨h, some false⟩) s (fun t => ∃ u : State, State.only [.regs, .fn] s u ∧ s.regsBut [Reg.QE_ECC] u ∧
        u.f Reg.QE_ECC_CORRECTED = min (s.f Reg.QE_ECC_CORRECTED + 1) 65535 ∧ (u.fnRec fn.val).aer.contains Aer.corrected = true ∧
        t = u.entryStart fn.val sq.toNat h))) ∧
  (∀ (s : State) (r : EntryRef) (e x : Sqe) (u : State) (m : Nat), s.role = 0 →
    (s.starting r (withOp e 0x30) x u →
      let g := sqeF x 1 0 8
      let reps := sqeF x 8 0 16
      s.genMode g = some .clip → s.startMf s.mfN (sqeMf x 2) = some m → (s.gen g).clips.length < 4 →
      s.timersFree (if reps = 0 then 1 else 2) = true → answers (.clipPlay r e) s (fun t =>
        (t.gen g).clips = (s.gen g).clips ++
          [⟨r, sqe64 x 4, (sqeDw x 6).toNat, sqeF x 7 0 16, reps, (sqeDw x 9).toNat, m, 0, none, 0, 0, 0, 0, 0, 0⟩] ∧
        t.gd.timers = s.gd.timers ++ ⟨s.gd.timerSeq, s.genPrio g, m, .clipStart, g, some r, 0, false⟩ :: (if reps = 0 then [] else
          [⟨s.gd.timerSeq + 1, s.genPrio g, m + (sqeDw x 9).toNat, .clipRepeat, g, some r, 1, false⟩]) ∧
        (r.sq ≠ 1 → (t.chan ((sqeChan x).getD 0)).job = some (newJob r (.clip g))))) ∧
    (s.starting r (withOp e 0x30) x u → s.genMode (sqeF x 1 0 8) = some .clip → s.startMf s.mfN (sqeMf x 2) = none →
      answers (.clipPlay r e) s (fun t => t = (u.completeM r x St.aborted).serveSpace)) ∧
    (s.starting r (withOp e 0x31) x u → s.startMf s.mfN (sqeMf x 2) = some m → s.timersFree 1 = true → answers (.clipStop r e) s (fun t =>
      t.gd.timers = s.gd.timers ++ [⟨s.gd.timerSeq, s.genPrio (sqeF x 1 0 8), m, .clipStop, sqeF x 1 0 8, some r, 0, false⟩])) ∧
    (s.starting r (withOp e 0x32) x u → (s.tap (sqeF x 1 0 6)).bufs.length < 16 → answers (.tapRecord r e) s (fun t =>
      (t.tap (sqeF x 1 0 6)).bufs = (s.tap (sqeF x 1 0 6)).bufs ++ [⟨r, sqe64 x 2, (sqeDw x 4).toNat, 0, none⟩] ∧
      (t.chan ((sqeChan x).getD 0)).job = some (newJob r (.tap (sqeF x 1 0 6))))))

/-- Moves, fences and transfers take their channels; a transfer to an endpoint that is gone ends at once, and a CONTROL to the root hub
reads its port (R54, R56, R57, R59, R108, R112, R113, R366, R373, R374, R377, R380). -/
def Obligations.ChannelEntriesTakeTheirChannels : Prop :=
  ∀ (s : State) (r : EntryRef) (e x : Sqe) (u : State),
    (∀ c ∈ [(Instr.fence r e, 0x02), (.move r e, 0x20), (.moveIndexed r e, 0x21)], s.starting r (withOp e c.2) x u → answers c.1 s (fun t =>
      (t.chan ((sqeChan x).getD 0)).job = some { entryJob r x with windows := s.windowsOf r.fn.val } ∧ t.bus = s.bus)) ∧
    (∀ c ∈ [(Instr.bulkOut r e, 0x10, XKind.bulkOut), (.bulkIn r e, 0x11, .bulkIn), (.tunnelTx r e, 0x18, .tunnelTx),
        (.tunnelRx r e, 0x19, .tunnelRx)], s.starting r (withOp e c.2.1) x u →
      (s.cf (sqeHandle x) Cx.valid = 1 → s.cf (sqeHandle x) Cx.detached = 0 → answers c.1 s (fun t => ∃ q : Xfer,
        t.xfer s.bus.nextXfer = some q ∧ q.owner = .entry r ∧ q.kind = c.2.2 ∧ q.handle = sqeHandle x ∧ q.len = xferLen x ∧
        q.addr = sqe64 x 4 ∧ q.first = s.cf (sqeHandle x) Cx.seq ∧ t.bus.nextXfer = s.bus.nextXfer + 1 ∧
        (t.chan ((sqeChan x).getD 0)).job = some (newJob r (.xfer s.bus.nextXfer)))) ∧
      (s.cf (sqeHandle x) Cx.valid = 0 → answers c.1 s (fun t => t = (u.complete r x St.deviceGone).serveSpace)) ∧
      (∀ d, s.cf (sqeHandle x) Cx.valid = 1 → s.cf (sqeHandle x) Cx.detached = 1 → s.dev (sqeHandle x / 16) = some d → answers c.1 s (fun t =>
        t = (u.complete r x (if d.byReset then St.portReset else St.deviceGone)).serveSpace))) ∧
    (s.starting r (withOp e 0x12) x u →
      (sqeF x 1 0 16 ≠ 0xFFFF → s.cf (sqeF x 1 0 16 * 16) Cx.valid = 1 → s.cf (sqeF x 1 0 16 * 16) Cx.detached = 0 →
        answers (.control r e) s (fun t => ∃ q : Xfer, t.xfer s.bus.nextXfer = some q ∧ q.owner = .entry r ∧ q.kind = .control ∧
          q.handle = sqeF x 1 0 16 * 16 ∧ q.setup = setupOf x ∧ q.stage = 0 ∧ q.len = xferLen x ∧ q.addr = sqe64 x 6 ∧
          (t.chan ((sqeChan x).getD 0)).job = some (newJob r (.xfer s.bus.nextXfer)))) ∧
      (∀ p, sqeF x 1 0 16 = 0xFFFF → field (setupOf x) 0 1 = 0xA0 → field (setupOf x) 1 1 = 0x20 → field (setupOf x) 4 4 = p → p < 192 →
        u.portExists p = true → (u.portStatusBytes p).take (xferLen x) ≠ [] → answers (.control r e) s (fun t =>
          Emit.write r.fn.val (sqe64 x 6) (pad64 ((u.portStatusBytes p).take (xferLen x))) ∈ t.out ∧ (t.port p).change = 0 ∧
          (t.port p).discards = 0)))

/-- Rings come into being under a free number and go, and the other admin entries of one function do what they name (R344, R361, R362,
R368, R369, R379, R389, R421). Which free number a ring takes is open (R344): the statement holds for every one. -/
def Obligations.AdminEntriesOfAFunction : Prop :=
  ∀ (s : State) (r : EntryRef) (e x : Sqe) (u : State), r.sq = 0 →
    let f := r.fn.val
    let i := sqeF x 1 0 11
    (s.starting r (withOp e 0x80) x u → freeGlobs s.sqGlobs ≠ [] → answers (.createSq r e) s (fun t => ∃ (v : State) (g : Nat),
      g ∈ freeGlobs s.sqGlobs ∧ v.sq f i = some ⟨g, sqe64 x 4, sqeF x 2 0 5, sqe64 x 6, sqeF x 2 16 11, 0, false, false, false, false, false,
        false, none, false, none, []⟩ ∧ t = (v.complete r x St.ok 0 (BitVec.ofNat 32 g)).serveSpace)) ∧
    (∀ q, s.starting r (withOp e 0x81) x u → s.sq f i = some q → s.cachedOf f i = [] → answers (.deleteSq r e) s (fun t => ∃ v : State,
      v.sq f i = some { q with deleting := some r, idle := false } ∧ t = (v.finishIdle f i).serveSpace ∧
      (s.startedOf f i = [] → s.cqeOwed f i = false → t.sq f i = none))) ∧
    (s.starting r (withOp e 0x82) x u → freeGlobs s.cqGlobs ≠ [] → answers (.createCq r e true) s (fun t => ∃ (v : State) (g : Nat),
      g ∈ freeGlobs s.cqGlobs ∧ v.cq f i = some ⟨g, sqe64 x 4, sqeF x 2 0 5, sqe64 x 6, sqeF x 2 8 8, sqeF x 2 16 16, sqeF x 3 0 11,
        sqeF x 3 31 1 == 1, 0, 2 ^ sqeF x 2 0 5, [], [], false, 0, none, false, false, false⟩ ∧
      t = (v.complete r x St.ok 0 (BitVec.ofNat 32 g)).serveSpace)) ∧
    (s.starting r (withOp e 0x82) x u → answers (.createCq r e false) s (fun t => t = (u.complete r x St.malformed).serveSpace)) ∧
    (∀ c, s.starting r (withOp e 0x83) x u → s.cq f i = some c → s.boundSqs f i = [] → s.eventNames c.glob = false →
      (c.hold = [] ∨ c.faulted = true) → answers (.deleteCq r e) s (fun t => ∃ v : State, v.cq f i = none ∧
        t = (v.complete r x St.ok).serveSpace)) ∧
    (s.starting r (withOp e 0x84) x u → answers (.identify r e) s (fun t =>
      Emit.write f (sqe64 x 2) (u.identifyBytes f (sqeF x 1 0 8)) ∈ t.out)) ∧
    (∀ p, s.starting r (withOp e 0x86) x u → u.logPage f (sqeF x 1 0 8) (sqeF x 1 31 1 == 1) = some p → sqeDw x 2 = 0 → sqeDw x 3 = 0 →
      0 < min p.recs.length ((sqeDw x 6).toNat / p.size) → answers (.getLog r e) s (fun t =>
        Emit.write f (sqe64 x 4) ((p.recs.take (min p.recs.length ((sqeDw x 6).toNat / p.size))).flatMap (·.2)) ∈ t.out)) ∧
    (s.starting r (withOp e 0x98) x u → answers (.dmaWindowSet r e) s (fun t => ∃ v : State,
      Tbl.get (fun _ => none) v.bm.windows (f * 64 + sqeF x 1 0 6) =
        (if sqe64 x 4 = 0 then none else some ⟨sqe64 x 2, sqe64 x 4, sqeF x 6 0 1 == 1, sqeF x 6 1 1 == 1⟩) ∧
      (∀ k, k ≠ f * 64 + sqeF x 1 0 6 → Tbl.get (fun _ => none) v.bm.windows k = Tbl.get (fun _ => none) s.bm.windows k) ∧
      t = (v.complete r x St.ok).serveSpace)) ∧
    (s.starting r (withOp e 0x95) x u → s.stopped (sqeF x 1 0 4) = true → answers (.engineRestart r e) s (fun t =>
      (t.engine (sqeF x 1 0 4)).restarts = (s.engine (sqeF x 1 0 4)).restarts ++ [r] ∧
      t.flag (Reg.BM_ENG_STATUS_RESTARTING (sqeF x 1 0 4)) = true)) ∧
    (s.starting r (withOp e 0x95) x u → s.stopped (sqeF x 1 0 4) = false → answers (.engineRestart r e) s (fun t =>
      t = (u.complete r x St.ok).serveSpace)) ∧
    (s.starting r (withOp e 0x85) x u → s.role = 0 → answers (.setShare r e) s (fun t => ∃ v : State,
      v.ts.newShares = s.ts.newShares ++ [(i, ⟨sqeF x 2 0 16, if i = 0 ∨ (sqeDw x 3).toNat = 0xFFFFFFFF then none else
        some (sqeDw x 3).toNat⟩, (s.mfN / 8 + 1) * 8)] ∧
      t = (v.completeM r x St.ok 0 (BitVec.ofNat 32 (u.occupancy i))).serveSpace))

/-- The schedule's staging commands and its commit on a SOLO device: applied, or held behind a pending commit, or refused, or ended by an error
of schedule memory (R144 to R151, R23, R123, R435). -/
def Obligations.StagingAndCommitEntries : Prop :=
  ∀ (s : State) (r : EntryRef) (e x : Sqe) (u : State), s.role = 0 →
    (∀ c ∈ [(Instr.endpointAdd r ⟨e, none⟩, 0x88), (.endpointRemove r ⟨e, none⟩, 0x89), (.groupSet r ⟨e, none⟩, 0x8E)], s.starting r (withOp e c.2) x u →
      (s.ts.commit.isSome = true → s.logAfter ≤ Config.logRecords → answers c.1 s (fun t =>
        t.ts.held = s.ts.held ++ [(r, x)] ∧ t.ts.log = s.ts.log ∧ t.ts.staged = s.ts.staged)) ∧
      (∀ y, s.ts.commit = none → u.applyStage r (stageCmd x) = .refused y → answers c.1 s (fun t =>
        t = ((u.completeM r x St.admissionRefused 0 (refuseDws y).1 (refuseDws y).2.1 (refuseDws y).2.2.1 (refuseDws y).2.2.2).showPool).serveSpace)) ∧
      (s.ts.commit = none → u.applyStage r (stageCmd x) = .shareExceeded → answers c.1 s (fun t =>
        t = ((u.completeM r x St.shareExceeded).showPool).serveSpace))) ∧
    (∀ h, ∀ c ∈ [(Instr.endpointAdd r ⟨e, some h⟩, 0x88), (.endpointRemove r ⟨e, some h⟩, 0x89), (.groupSet r ⟨e, some h⟩, 0x8E)],
      s.starting r (withOp e c.2) x u → u.meets h = true → answers c.1 s (fun t => ∃ v : State, v.flag Reg.GLB_ERR_UNCORRECTABLE = true ∧
        v.ts.log = s.ts.log ∧ v.ts.staged = s.ts.staged ∧ t = (v.completeM r x St.aborted).serveSpace ∧
        ∀ a (tr : Trunk) k p o i, h = .list a tr k p o i →
          ∃ j, j ≤ i ∧ v.damageOf tr.val k p (b2n o) (u.bankOf tr.val k p (b2n o)) = some j)) ∧
    (∀ v, s.ts.commit = none →
      (s.starting r (withOp e 0x88) x u → u.applyStage r (stageCmd x) = .ok v → answers (.endpointAdd r ⟨e, none⟩) s (fun t => ∃ (w : State) (ph : Nat),
        w.stagedRec (stageKey x) = some ⟨sqeF x 2 0 4, ph, sqeF x 2 8 8, sqeF x 3 0 1 == 1, r.fn.val⟩ ∧
        (sqeF x 2 16 16 ≠ 0xFFFF → ph = sqeF x 2 16 16) ∧ w.ts.log = s.ts.log ++ [⟨r, stageCmd x⟩] ∧ w.ts.active = s.ts.active ∧
        t = (w.completeM r x St.ok 0 (BitVec.ofNat 32 ph)).serveSpace)) ∧
      (s.starting r (withOp e 0x89) x u → s.stagedRec (stageKey x) ≠ none → u.applyStage r (stageCmd x) = .ok v →
        answers (.endpointRemove r ⟨e, none⟩) s (fun t => ∃ w : State, w.stagedRec (stageKey x) = none ∧
          w.ts.log = s.ts.log ++ [⟨r, stageCmd x⟩] ∧ w.ts.active = s.ts.active ∧ t = (w.completeM r x St.ok).serveSpace)) ∧
      (s.starting r (withOp e 0x8E) x u → u.applyStage r (stageCmd x) = .ok v → answers (.groupSet r ⟨e, none⟩) s (fun t => ∃ w : State,
        w.ts.log = s.ts.log ++ [⟨r, stageCmd x⟩] ∧ w.ts.active = s.ts.active ∧
        t = ((w.writeGroup (sqeF x 1 0 14)).completeM r x St.ok).serveSpace))) ∧
    (s.starting r (withOp e 0x8A) x u →
      (s.ts.commit = none → s.mfN + s.commitLead ≤ sqeMf x 2 → answers (.scheduleCommit r e) s (fun t =>
        t.ts.commit = some ⟨sqeMf x 2, [r], false⟩ ∧ t.ts.sealed_ = s.ts.sealed_ ++ s.ts.log ∧ t.ts.log = [] ∧
        t.flag Reg.TS_STATUS_COMMIT_PENDING = true ∧ t.f Reg.TS_COMMIT_MF_LO_MF = sqeMf x 2 % 2 ^ 32)) ∧
      (sqeMf x 2 < s.mfN + s.commitLead → answers (.scheduleCommit r e) s (fun t => t = (u.completeM r x St.aborted).serveSpace)))

/-- Loads and swaps of the graph, and the plan of an audit, on a SOLO device (R217, R222, R262, R269). -/
def Obligations.GraphAndAuditEntries : Prop :=
  ∀ (s : State) (r : EntryRef) (e x : Sqe) (u : State), s.role = 0 →
    (∀ img, s.starting r (withOp e 0x8C) x u →
      (s.mre.swap.isSome = true → answers (.graphLoad r e img) s (fun t => t.mre = { s.mre with loads := s.mre.loads ++ [(r, x)] })) ∧
      (s.mre.swap = none → img.header.magic = 0x49475847 → img.header.format = 1 → img.header.typ = 0 → img.crcGood = true →
        u.fullOk img (sqeDw x 4).toNat = true → u.graphRight r.fn.val = true → img.nodes.all (fun n => u.nodeGranted n n.kind) = true →
        u.imageRefused img.header = none → answers (.graphLoad r e img) s (fun t => ∃ v : State, v.mre = { s.mre with staged := some img } ∧
          v.reg Reg.MRE_STAGED_ID = img.header.graphId ∧
          t = (v.completeM r x St.ok 0 (BitVec.ofNat 32 img.header.graphId.toNat)).serveSpace))) ∧
    (s.starting r (withOp e 0x8D) x u →
      (s.mre.swap = none → s.mfN + s.commitLead ≤ sqeMf x 2 → (s.mre.staged.isSome = true ∨ s.mre.patches ≠ []) →
        answers (.graphSwap r e) s (fun t => t.mre.swap = some ⟨sqeMf x 2, [r], s.mre.staged, s.mre.patches, false⟩ ∧
          t.mre.staged = none ∧ t.mre.patches = [] ∧ t.mre.image = s.mre.image ∧ t.flag Reg.MRE_STATUS_SWAP_PENDING = true)) ∧
      (∀ w, s.mre.swap = some w → w.m = sqeMf x 2 → answers (.graphSwap r e) s (fun t =>
        t.mre.swap = some { w with refs := w.refs ++ [r] })) ∧
      (s.mre.swap = none → sqeMf x 2 < s.mfN + s.commitLead → answers (.graphSwap r e) s (fun t =>
        t = (u.completeM r x St.aborted).serveSpace))) ∧
    (s.starting r (withOp e 0x96) x u →
      (∀ m, sqeF x 1 0 4 ≠ 0 → s.sv.audit = none → s.startMf s.mfN (sqeMf x 4) = some m → answers (.auditStart r e) s (fun t => ∃ a,
        t.sv = { s.sv with audit := some a } ∧ a.ref = some r ∧ a.startMf = m ∧ a.left = auditParts (sqeF x 1 0 4) ∧ a.running = false ∧
        a.begun = false ∧ t.flag Reg.SV_STATUS_AUDIT_ACTIVE = true)) ∧
      (sqeF x 1 0 4 ≠ 0 → s.sv.audit.isSome = true → answers (.auditStart r e) s (fun t =>
        t = (u.completeM r x St.aborted).serveSpace)) ∧
      (sqeF x 1 0 4 = 0 → answers (.auditStart r e) s (fun t => t = (u.abortAudit.completeM r x St.ok).serveSpace)))

/-- Grants, freezing, saving, restoring and thawing a virtual function; the receives that freezing ends complete in the order of R355 (R417 to
R419, R427 to R431). -/
def Obligations.VirtualFunctionEntries : Prop :=
  ∀ (s : State) (r : EntryRef) (e x : Sqe) (u : State) (n : VfId), r.sq = 0 → sqeF x 1 0 10 = n.val →
    (∀ b g, s.starting r (withOp e 0x90) x u → s.role = 0 → grantOf b = some g → u.grantCheck (n.val + 1) g = St.ok →
      u.othersHold (n.val + 1) g (·.handles) = false → u.othersHold (n.val + 1) g (·.groups) = false →
      u.takesMirrored (n.val + 1) g = false → answers (.vfGrant r e b) s (fun t => ∃ v : State, v.grant (n.val + 1) = g ∧
        t = (v.completeM r x St.ok).serveSpace)) ∧
    (∀ b, s.starting r (withOp e 0x90) x u → grantOf b = none → answers (.vfGrant r e b) s (fun t =>
      t = (u.complete r x St.malformed).serveSpace)) ∧
    (s.starting r (withOp e 0x91) x u →
      ((s.vfRec n.val).resetBusy = false → (s.vfRec n.val).frozen = false → answers (.vfFreeze r e) s (fun t => ∃ w : State,
        (w.vfRec n.val).frozen = true ∧ (w.vfRec n.val).saved = false ∧ (w.vfRec n.val).freezing = [r] ∧
        (∀ i, i < 2048 → (s.sq (n.val + 1) i).isSome = true → w.cachedOf (n.val + 1) i = []) ∧
        t = (((w.inCqeOrder xferRef (w.xfersOf (n.val + 1))).foldl (fun (z : State) y =>
          if movedNothing y.2 then z.endXfer y.1 St.frozen else z) w).settleFn (n.val + 1)).serveSpace)) ∧
      ((s.vfRec n.val).resetBusy = false → s.vfAtRest n.val = true → answers (.vfFreeze r e) s (fun t =>
        t = (u.complete r x St.ok).serveSpace)) ∧
      ((s.vfRec n.val).resetBusy = true → answers (.vfFreeze r e) s (fun t => t = (u.complete r x St.aborted).serveSpace))) ∧
    (s.starting r (withOp e 0x92) x u →
      (s.vfAtRest n.val = false → answers (.vfSave r e) s (fun t => t = (u.complete r x St.aborted).serveSpace)) ∧
      (∀ w : State, s.vfAtRest n.val = true →
        (s.chansOf (n.val + 1)).all (fun y => match y.2.kind with | .clip _ | .tap _ => false | _ => true) = true →
        w = ((u.endClipsOf (n.val + 1) St.aborted).endTapsOf (n.val + 1) St.aborted).dropStops (n.val + 1) → (w.blob n.val).length ≤ (sqeDw x 4).toNat →
        (w.heldOf (n.val + 1)).length ≤ 16384 → answers (.vfSave r e) s (fun t =>
          Emit.write r.fn.val (sqe64 x 2) (w.blob n.val) ∈ t.out ∧ ∃ v : State, (v.vfRec n.val).saved = true ∧
            t = (v.complete r x St.ok 0 (BitVec.ofNat 32 (w.blob n.val).length)).serveSpace))) ∧
    (∀ b y, s.starting r (withOp e 0x93) x u → readBlob b = some y → (s.sqsOf (n.val + 1)).any (· != 0) = false →
      (s.cqsOf (n.val + 1)).any (· != 1) = false → s.flag (Reg.QE_ADMIN_CFG_EN (n.val + 1)) = false → s.inReset (n.val + 1) = false →
      u.blobGranted (n.val + 1) y = true → answers (.vfRestore r e b) s (fun t => ∃ v : State, (v.vfRec n.val).frozen = true ∧
        (v.vfRec n.val).restored = true ∧ (v.vfRec n.val).held.length = y.cqes.length ∧ (v.vfRec n.val).late = y.late.map (lateOf n.val) ∧
        t = (v.complete r x St.ok).serveSpace)) ∧
    (s.starting r (withOp e 0x94) x u →
      (s.vfAtRest n.val = false → answers (.vfThaw r e) s (fun t => t = (u.complete r x St.ok).serveSpace)) ∧
      (s.vfAtRest n.val = true → answers (.vfThaw r e) s (fun t => ∃ v : State, (v.vfRec n.val).frozen = false ∧
        (v.vfRec n.val).held = [] ∧ (v.vfRec n.val).late = [] ∧ t = (v.complete r x St.ok).serveSpace)))

/-- PAIR_ROLE: what each of its actions starts or answers (R303, R311, R313). -/
def Obligations.PairRoleEntries : Prop :=
  ∀ (s : State) (r : EntryRef) (e x : Sqe) (u : State),
    (∀ q c, s.starting r (withAction e 0) x u → s.reports r q c → answers (.pairQuery r e) s (fun t =>
      Emit.cqe r.fn.val q.cq c.pos (cqeDws (entryCqe r x St.ok 0 s.puStatus (s.reg Reg.PU_TERM) (BitVec.ofNat 32 s.masterRank)
        (BitVec.ofNat 32 (s.f Reg.PU_CFG_RANK)) false) q.pos) ∈ t.out)) ∧
    (s.starting r (withAction e 1) x u → s.isHolder = true → s.lockstep = true → s.orderedUp = true → s.pu.handover = none →
      answers (.pairHandover r e) s (fun t => t.pu.handover = some (frameFrom (s.markAfter 8), some r) ∧
        (let f := MioOut.mirror s.pu.seq (.handover (BitVec.ofNat 48 (frameFrom (s.markAfter 8))))
        if s.pu.unsent = [] ∧ mayGo s.pu.unacked (s.pu.seq, f) = true then Emit.mio f ∈ t.out else (s.pu.seq, f) ∈ t.pu.unsent))) ∧
    (s.starting r (withAction e 1) x u → (s.isHolder = false ∨ s.lockstep = false ∨ s.orderedUp = false) →
      answers (.pairHandover r e) s (fun t => t = (u.complete r x St.aborted).serveSpace)) ∧
    (s.starting r (withAction e 2) x u → s.pstate ≠ 0 → s.pu.leave = none → answers (.pairLeave r e) s (fun t =>
      t.pu = { s.pu with abdicate := true, leave := some r })) ∧
    (s.starting r (withAction e 3) x u → s.pstate = 0 → answers (.pairJoin r e) s (fun t =>
      t = (((((u.miodelTakes (u.reg Reg.PU_CTRL ||| 1)).setB Reg.PU_CTRL_EN true).pairStart).complete r x St.ok)).serveSpace)) ∧
    (s.starting r (withAction e 4) x u → s.otherRanks.contains (sqeF x 2 0 3) = false → s.pu.rank = none →
      answers (.pairSetRank r e) s (fun t => t.pu = { s.pu with rank := some (sqeF x 2 0 3, frameFrom (s.mfN + 1), r) })) ∧
    (s.starting r (withAction e 5) x u → answers (.pairBarrier r e) s (fun t =>
      t.pu = { s.pu with barriers := s.pu.barriers ++ [((sqeDw x 3).toNat, s.mfN, r)], barrierLast := (sqeDw x 3).toNat }))

/-! ## Rings (R326, R350 to R364, R371) -/

/-- A doorbell starts a scan, marks the ring for a further one, or is kept until the ring may be scanned; one before OPERATIONAL is kept, one
of a function in D3hot is an Unsupported Request and is kept for its ring (log entry 76), and a stray one is only counted. An invalidation drops
what has not started and scans from there (R333, R337, R350 to R352, R354). -/
def Obligations.DoorbellsStartScans : Prop :=
  ∀ (s : State) (fn : FnId) (i : BitVec 11), s.fnThere fn.val = true → s.inReset fn.val = false → s.inDormant = false →
    let f := fn.val
    let n := i.toNat
    (∀ q, s.sq f n = some q → s.mayFetch f n = true → q.scanning = false → answers (.doorbellWrite fn i) s (fun t =>
      t.sq f n = some { q with scanning := true } ∧ t.regs = s.regs ∧
      t.out = .read f (if n = 0 then q.base + q.pos * 64 else q.rsb) 64 :: s.out)) ∧
    (∀ q, s.sq f n = some q → s.mayFetch f n = true → q.scanning = true → answers (.doorbellWrite fn i) s (fun t =>
      t.sq f n = some { q with again := true } ∧ t.out = s.out)) ∧
    (∀ q, s.sq f n = some q → s.mayFetch f n = false → answers (.doorbellWrite fn i) s (fun t =>
      t.qe.doorbells.contains (f, n) = true ∧ t.out = s.out ∧ t.sq f n = some q)) ∧
    (∀ c, s.sq f n = none → s.cq f n = some c → c.faulted = false → s.operational = true → s.hostHere = true → s.d3hot f = false →
      s.frozen f = false → c.scanning = false → answers (.doorbellWrite fn i) s (fun t =>
        t.cq f n = some { c with scanning := true } ∧ t.out = .read f (c.base + (c.pos + c.credit) % 2 ^ c.log2 * 32) 32 :: s.out)) ∧
    (s.d3hot f = true → answers (.doorbellWrite fn i) s (fun t => (t.fnRec f).aer.contains Aer.unsupported = true ∧ t.out = s.out ∧
        (if s.sq f n = none ∧ s.cq f n = none then t.qe = s.qe else t.qe.doorbells.contains (f, n) = true)) ∧
      answers (.invalidateDoorbell fn i) s (fun t => (t.fnRec f).aer.contains Aer.unsupported = true ∧ t.out = s.out ∧ t.qe = s.qe)) ∧
    (s.d3hot f = false → s.operational = false → answers (.doorbellWrite fn i) s (fun t => t.qe.doorbells.contains (f, n) = true ∧
      t.out = s.out ∧ t.regs = s.regs)) ∧
    (s.d3hot f = false → s.operational = true → s.sq f n = none → s.cq f n = none → answers (.doorbellWrite fn i) s (fun t =>
      t.qe = s.qe ∧ t.out = s.out ∧
      t.f Reg.QE_ERR_STRAY_DOORBELLS = min (s.f Reg.QE_ERR_STRAY_DOORBELLS + 1) (2 ^ Reg.QE_ERR_STRAY_DOORBELLS.w - 1))) ∧
    (∀ q, s.d3hot f = false → s.sq f n = some q → q.scanning = true → answers (.invalidateDoorbell fn i) s (fun t =>
      t.sq f n = some { q with invalAgain := true } ∧ t.out = s.out ∧ t.qe.cache = s.qe.cache)) ∧
    (∀ q, s.sq f n = some q → q.scanning = false → q.enable = true → q.faulted = false → s.mayFetch f n = true →
      answers (.invalidateDoorbell fn i) s (fun t => t.cachedOf f n = [] ∧ ∃ q' : SqRec, t.sq f n = some q' ∧
        q'.pos = (match s.cachedOf f n with | c :: _ => c.ref.idx.toNat | [] => q.pos) ∧ q'.first = some q'.pos ∧ q'.scanning = true)) ∧
    (s.d3hot f = false → s.sq f n = none → answers (.invalidateDoorbell fn i) s (fun t => t.qe = s.qe ∧
      t.f Reg.QE_ERR_STRAY_DOORBELLS = min (s.f Reg.QE_ERR_STRAY_DOORBELLS + 1) (2 ^ Reg.QE_ERR_STRAY_DOORBELLS.w - 1)))

/-- A scan takes the entry that it reads into the cache and goes on, stops at OWN = 0, stops with its doorbell kept where the ring may fetch no
more, finds credit, or faults its ring; moderation and
unmasking send the messages that wait; the admin rings are set up and start (R326, R351 to R353, R357, R359, R363, R364, R371). A completion
that fails its ECRC or its parity is discarded, and its scan waits on (R331, R436). -/
def Obligations.ScansCreditAndAdminRings : Prop :=
  ∀ (s : State) (fn : FnId) (i : BitVec 11),
    let f := fn.val
    let n := i.toNat
    (∀ q, s.sq f n = some q → q.scanning = true → q.enable = true → q.skip = [] → s.mayFetch f n = true →
      (∀ e, 2 ≤ n → sqeF e 0 0 1 = 1 → s.cacheRoom f n = true →
        (s.startedOf f n).any (fun x => x.ref == ⟨fn, i, BitVec.ofNat 16 q.pos⟩) = false →
        (s.cachedOf f n).any (fun x => x.ref == ⟨fn, i, BitVec.ofNat 16 q.pos⟩) = false →
        answers (.ringScanData fn i (.sq true [e])) s (fun t => t.qe.cache = s.qe.cache ++ [⟨⟨fn, i, BitVec.ofNat 16 q.pos⟩, e⟩] ∧
          t.sq f n = some { q with pos := (q.pos + 1) % 2 ^ q.log2 } ∧
          t.out = .read f (q.base + (q.pos + 1) % 2 ^ q.log2 * 64) 64 :: s.out)) ∧
      (∀ e, sqeF e 0 0 1 = 0 → q.first = none → q.invalAgain = false → q.again = false →
        answers (.ringScanData fn i (.sq true [e])) s (fun t => t.qe.cache = s.qe.cache ∧
          t.sq f n = some { q with scanning := false } ∧ t.out = s.out)) ∧
      (∀ st ∈ [CplStatus.ur, .ca, .poisoned], q.faulted = false → answers (.ringScanData fn i (.failed st)) s (fun t =>
        t.sq f n = some { q with faulted := true, scanning := false, again := false } ∧
        t.flag Reg.GLB_ERR_UNCORRECTABLE = true))) ∧
    (∀ q l, s.sq f n = some q → q.scanning = true → q.enable = true → q.first = none → q.invalAgain = false → s.mayFetch f n = false →
      answers (.ringScanData fn i (.sq true l)) s (fun t => t.qe.doorbells.contains (f, n) = true ∧ t.qe.cache = s.qe.cache ∧
        t.out = s.out ∧ t.sq f n = some { q with scanning := false, again := false })) ∧
    (answers (.ringScanData fn i (.failed .ecrc)) s (fun t => t.qe = s.qe ∧ (t.fnRec f).aer.contains Aer.ecrc = true ∧
      t.f Reg.HIF_ERR_COUNT_ECRC = min (s.f Reg.HIF_ERR_COUNT_ECRC + 1) 65535)) ∧
    (answers (.ringScanData fn i (.failed .parity)) s (fun t => t.qe = s.qe ∧ (t.fnRec f).aer.contains Aer.internal = true ∧ t.regs = s.regs)) ∧
    (∀ c, s.cq f n = some c → c.scanning = true → c.again = false → c.hold = [] → c.waiting = [] → c.overflow = false →
      c.credit < 2 ^ c.log2 → answers (.ringScanData fn i (.cq [false, true])) s (fun t =>
        t.cq f n = some { c with credit := c.credit + 1, scanning := false } ∧ t.out = s.out)) ∧
    (∀ c t0, s.cq f n = some c → c.winStart = some t0 → t0 + 25 * c.modTime ≤ s.now → c.ien = true → s.mayRequest f = true →
      (s.fnRec f).funcMask = false → (s.fnRec f).unmasked.contains c.vector = true → answers (.moderationTimerExpiry fn i) s (fun t =>
        t.cq f n = some { c with sinceSig := 0, winStart := none } ∧
        t.out = if (s.fnRec f).unmaskSent.contains (c.vector, s.now) then s.out else .msix f c.vector :: s.out)) ∧
    (answers (.msixUnmask fn i) s (fun t => (t.fnRec f).unmasked.contains n = true ∧
      ((s.fnRec f).pending.contains n = true → s.mayRequest f = true → (s.fnRec f).funcMask = false →
        t.out = .msix f n :: s.out ∧ (t.fnRec f).pending.contains n = false ∧ (t.fnRec f).unmaskSent.contains (n, s.now) = true))) ∧
    (∀ v, s.pfServes (Reg.QE_ADMIN_SQ_BASE_LO f) → answers (.adminCfgWrite fn 0 v) s (fun t =>
      if s.adminFree f = true ∧ v.toNat % 64 = 0 then t.reg (Reg.QE_ADMIN_SQ_BASE_LO f) = v
      else t.flag (Reg.QE_ADMIN_STATUS_CFG_REFUSED f) = true ∧ t.reg (Reg.QE_ADMIN_SQ_BASE_LO f) = s.reg (Reg.QE_ADMIN_SQ_BASE_LO f))) ∧
    (∀ v : Word, s.pfServes (Reg.QE_ADMIN_CFG f) → s.adminFree f = true → s.cq f 1 = none → bits v 31 1 = 1 →
      6 ≤ bits v 0 5 → bits v 0 5 ≤ 16 → 6 ≤ bits v 8 5 → bits v 8 5 ≤ 16 → (f = 0 ∨ bits v 16 11 < 64) →
      answers (.adminCfgWrite fn 4 v) s (fun t => ∃ (q : SqRec) (c : CqRec), t.sq f 0 = some q ∧ t.cq f 1 = some c ∧ q.pos = 0 ∧
        q.enable = true ∧ q.log2 = bits v 0 5 ∧ q.cq = 1 ∧
        q.base = (s.reg (Reg.QE_ADMIN_SQ_BASE_LO f)).toNat + 2 ^ 32 * (s.reg (Reg.QE_ADMIN_SQ_BASE_HI f)).toNat ∧ c.pos = 0 ∧
        c.credit = 2 ^ bits v 8 5 ∧ c.vector = bits v 16 11 ∧ c.ien = decide (bits v 30 1 = 1) ∧
        c.base = (s.reg (Reg.QE_ADMIN_CQ_BASE_LO f)).toNat + 2 ^ 32 * (s.reg (Reg.QE_ADMIN_CQ_BASE_HI f)).toNat)) ∧
    (∀ (v : Word) q, s.pfServes (Reg.QE_ADMIN_CFG f) → s.flag (Reg.QE_ADMIN_CFG_EN f) = true → bits v 31 1 = 0 → s.sq f 0 = some q →
      q.deleting = none → answers (.adminCfgWrite fn 4 v) s (fun t => t.cachedOf f 0 = [] ∧ ∃ q' : SqRec, t.sq f 0 = some q' ∧
        q'.enable = false))

/-! ## Block movers (R372 to R389) -/

/-- An engine serves its next ready channel with a read; the data moves a MOVE forward, a failing or missing completion stops the engine;
aborts and restarts; entries that end in one cycle complete in the order of R355 (R372 to R375, R381, R382, R385, R387, R389). A completion that fails its ECRC or its parity leaves its request
outstanding, and a parity error in the engine's data buffer ends the entry alone (R331, R436). -/
def Obligations.EnginesServeTheirChannels : Prop :=
  ∀ (s : State) (e : EngineId),
    (∀ c j k a n, s.engineRuns e.val = true → (s.engine e.val).holder = none → s.nextChan e.val none = some c → (s.chan c).job = some j →
      s.nextRead j = some (k, a, n) → readAllowed j k a n = true → (s.engine e.val).fetched = none →
      (s.engine e.val).reqs.any (·.prefetch) = false → answers (.bmBurstStart ⟨e, false⟩) s (fun t =>
        (t.engine e.val).holder = some c ∧ (t.engine e.val).lastChan = c % 64 ∧ (t.engine e.val).fetched = none ∧
        (t.engine e.val).reqs = (s.engine e.val).reqs ++ [⟨c, j.ref.fn.val, k, a, n, false⟩] ∧
        t.out = .read j.ref.fn.val a n :: s.out ∧ t.bm.chans = s.bm.chans)) ∧
    (∀ c j k a n, s.engineRuns e.val = true → (s.engine e.val).holder = none → s.nextChan e.val none = some c → (s.chan c).job = some j →
      s.nextRead j = some (k, a, n) → readAllowed j k a n = false → answers (.bmBurstStart ⟨e, false⟩) s (fun t =>
        t = (s.bump (Reg.BM_ERR_WINDOW e.val)).endMove c j St.dmaWindow false)) ∧
    (∀ c j, s.engineRuns e.val = true → (s.engine e.val).holder = none → s.nextChan e.val none = some c → (s.chan c).job = some j →
      answers (.bmBurstStart ⟨e, true⟩) s (fun t => ∃ u : State, u.flag Reg.GLB_ERR_UNCORRECTABLE = true ∧ u.bm = s.bm ∧
        t = u.endJob c St.aborted false)) ∧
    (∀ q rest data, (s.engine e.val).reqs = q :: rest →
      answers (.bmHostCompletion e .ecrc data) s (fun t => t.bm = s.bm ∧ (t.fnRec q.fn).aer.contains Aer.ecrc = true ∧
        t.f Reg.HIF_ERR_COUNT_ECRC = min (s.f Reg.HIF_ERR_COUNT_ECRC + 1) 65535) ∧
      answers (.bmHostCompletion e .parity data) s (fun t => t.bm = s.bm ∧ t.regs = s.regs ∧
        (t.fnRec q.fn).aer.contains Aer.internal = true) ∧
      (∀ j, s.stopped e.val = false → (s.chan q.chan).job = some j → answers (.bmHostCompletion e .buffer data) s (fun t => ∃ u : State,
        u.flag Reg.GLB_ERR_UNCORRECTABLE = true ∧ (u.engine e.val).reqs = rest ∧ t = u.endJob q.chan St.aborted false))) ∧
    (∀ q rest data, (s.engine e.val).reqs = q :: rest → s.stopped e.val = false →
      let b := (padTo q.len data).take q.len
      (q.prefetch = true → answers (.bmHostCompletion e .ok data) s (fun t =>
        t.engine e.val = { s.engine e.val with reqs := rest, fetched := some (q, b) } ∧ t.bm.chans = s.bm.chans)) ∧
      (∀ j ch, q.prefetch = false → q.kind = .data → (s.chan q.chan).job = some j → j.kind = .move ch → j.ending = none →
        j.done + b.length < j.len → answers (.bmHostCompletion e .ok data) s (fun t =>
          (t.chan q.chan).job = some { j with done := j.done + b.length, residue := j.residue + b.length } ∧
          Emit.write j.ref.fn.val (j.dst + j.done) b ∈ t.out)) ∧
      (∀ c ∈ [(Instr.bmHostCompletion e .ca data, 1), (.bmHostCompletion e .poisoned data, 3),
          (.hostCompletionTimeout (.engine e), 2)], s.flag (Reg.BM_FAULT_INFO_VALID e.val) = false → answers c.1 s (fun t => ∃ u : State,
        u.stopped e.val = true ∧ u.flag (Reg.BM_FAULT_INFO_VALID e.val) = true ∧ u.f (Reg.BM_FAULT_INFO_KIND e.val) = c.2 ∧
        u.f (Reg.BM_FAULT_INFO_CHANNEL e.val) = q.chan % 64 ∧ (u.engine e.val).holder = none ∧
        t = (u.inCqeOrder Prod.snd ((numbers (e.val * 64) 64).filterMap (fun k => (u.chan k).job.map (fun j => (k, j.ref))))).foldl
          (fun (x : State) y => x.endJob y.1 St.engineFault true) u))) ∧
    (∀ (f : FnId) (i : BitVec 11) q, s.sq f.val i.toNat = some q → q.faulted = false → answers (.hostCompletionTimeout (.ring f i)) s (fun t =>
      t.sq f.val i.toNat = some { q with faulted := true, scanning := false, again := false } ∧
      (t.fnRec f.val).aer.contains Aer.timeout = true)) ∧
    (∀ (ch : BitVec 10) j b, s.pfServes Reg.BM_ABORT → (s.chan ch.toNat).job = some j → j.kind = .move b →
      answers (.bmAbort ch) s (fun t => if s.burstOpen ch.toNat then
          (t.chan ch.toNat).job = some { j with ending := some (moveEnding j St.aborted true) }
        else ∃ u : State, (u.chan ch.toNat).job = none ∧
          u.f (Reg.BM_EVENTS_ABORTS (ch.toNat / 64)) = min (s.f (Reg.BM_EVENTS_ABORTS (ch.toNat / 64)) + 1)
            (2 ^ (Reg.BM_EVENTS_ABORTS (ch.toNat / 64)).w - 1) ∧
          t = u.completeRef j.ref St.aborted j.residue (BitVec.ofNat 32 j.items) (BitVec.ofNat 32 j.items) 0 0 true)) ∧
    ((s.engine e.val).restarts ≠ [] → (s.engine e.val).reqs = [] → answers (.engineRestartDone e) s (fun t => ∃ u : State,
      u.stopped e.val = false ∧ u.engine e.val = { s.engine e.val with restarts := [], holder := none, fetched := none } ∧
      u.flag (Reg.BM_ENG_STATUS_RESTARTING e.val) = false ∧
      t = (u.inCqeOrder id (s.engine e.val).restarts).foldl (fun (x : State) r => x.completeRef r St.ok) u))

/-! ## The bridge (R393 to R408) -/

/-- Accesses arrive at a view and are queued, refused or turned away; faults clear and windows are set (R323, R328, R394 to R396, R399 to
R402, R404). -/
def Obligations.AccessesArriveAtViews : Prop :=
  ∀ (s : State) (w : View) (off : Nat),
    let k := viewKey w
    (s.viewGate k = 0 → s.isPartner = false → s.frozen (viewFn k) = false → s.flag (faultedF k) = false →
      (∀ n, accessForm k off n 64 = true → (s.view k).count + (splitParts n off n).length ≤ 64 → answers (.remoteWindowRead w off n) s (fun t =>
        (t.view k).queue = (s.view k).queue ++ (splitParts n off n).zipIdx.map (fun x =>
          ⟨.read, x.1.1, x.1.2, s.now, decide (x.2 + 1 < (splitParts n off n).length), s.xb.arrived⟩) ∧ t.out = s.out)) ∧
      (∀ b, accessForm k off b.length 512 = true → (s.view k).count + (splitParts b.length off b.length).length ≤ 64 →
        answers (.remoteWindowWrite w off b) s (fun t => (t.view k).queue = (s.view k).queue ++ (splitParts b.length off b.length).map (fun x =>
          ⟨.write (field b (x.1 - off) x.2), x.1, x.2, s.now, false, s.xb.arrived⟩) ∧ t.out = s.out)) ∧
      (∀ wide op, off % (if wide then 8 else 4) = 0 → off + (if wide then 8 else 4) ≤ viewSize k →
        s.flag (Reg.XB_WIN_CFG_ATOMIC (s.viewWin k)) = true → s.flag Reg.XB_CTRL_ATOMIC_EN = true → s.lockable k = true →
        (s.view k).count < 64 → answers (.atomicopRequest w off wide op) s (fun t =>
          (t.view k).queue = (s.view k).queue ++ [⟨.atomic op, off, if wide then 8 else 4, s.now, false, s.xb.arrived⟩] ∧ t.out = s.out))) ∧
    (∀ n, s.viewGate k = 0 → accessForm k off n 64 = true → s.flag (faultedF k) = true → answers (.remoteWindowRead w off n) s (fun t =>
      t.out = .ans .completerAbort :: s.out ∧ (t.view k).queue = (s.view k).queue ∧
      ((s.view k).reportPending = true → t.flag (faultedF k) = false))) ∧
    (∀ n, (s.viewGate k = 1 ∨ s.viewGate k = 3) → answers (.remoteWindowRead w off n) s (fun t => t.out = .ans .unsupported :: s.out ∧
      (t.fnRec (viewFn k)).aer.contains Aer.unsupported = true)) ∧
    (∀ b, s.viewGate k = 0 → accessForm k off b.length 512 = true → b.length = 4 → s.flag (faultedF k) = true →
      answers (.remoteWindowWrite w off b) s (fun t => t.f (dropsF k) = min (s.f (dropsF k) + 1) 0xFFFFFFFF ∧
        t.xb = { s.xb with arrived := s.xb.arrived + 1 })) ∧
    (s.pfServes (faultedF k).addr → answers (.viewFaultClear w) s (fun t => t.flag (faultedF k) = false ∧
      (t.view k).reportPending = false ∧ (t.view k).queue = (s.view k).queue)) ∧
    (∀ (win : Fin 256) (v : Word),
      let held := s.xb.views.any (fun x => s.viewWin x.1 == win.val && decide (0 < x.2.count))
      (s.pfServes (Reg.XB_WIN_CFG win.val) → answers (.windowCfgWrite win false v) s (fun t =>
        if held then t.flag (Reg.XB_WIN_STATUS_CFG_REFUSED win.val) = true ∧ t.reg (Reg.XB_WIN_CFG win.val) = s.reg (Reg.XB_WIN_CFG win.val)
        else t.f (Reg.XB_WIN_CFG_DEVICE win.val) = bits v 0 16 ∧ t.f (Reg.XB_WIN_CFG_EN win.val) = bits v 16 1 ∧
          t.f (Reg.XB_WIN_CFG_POSTED win.val) = bits v 17 1 ∧ t.f (Reg.XB_WIN_CFG_ATOMIC win.val) = bits v 18 1)) ∧
      (s.pfServes (Reg.XB_WIN_BASE win.val) → answers (.windowCfgWrite win true v) s (fun t =>
        if held then t.flag (Reg.XB_WIN_STATUS_CFG_REFUSED win.val) = true ∧ t.reg (Reg.XB_WIN_BASE win.val) = s.reg (Reg.XB_WIN_BASE win.val)
        else t.f (Reg.XB_WIN_BASE_BASE win.val) = bits v 0 8)))

/-- A queued access starts as a control transfer or a locked sequence, is timed out, and a locked sequence sends its LOCK or gives up
(R108, R397, R398, R403, R405 to R408). An access that its class buffer has lost ends with ABORTED (R436). -/
def Obligations.ViewsCarryTheirAccesses : Prop :=
  ∀ (s : State) (w : View),
    let k := viewKey w
    (∀ a rest, (s.view k).open_ = none → (s.view k).queue = a :: rest → s.isPartner = false → s.inSatin = false → s.inDormant = false →
      s.viewWaits k a = false →
      (∀ d, s.dev (s.viewDev k) = some d → d.detachedAt = none →
        (a.kind = .read → answers (.viewAccessStart ⟨w, false⟩) s (fun t => (t.view k).open_ = some a ∧ (t.view k).queue = rest ∧ ∃ q : Xfer,
          t.xfer s.bus.nextXfer = some q ∧ q.owner = .view k ∧ q.kind = .control ∧ q.handle = s.viewDev k * 16 ∧
          q.setup = regSetup false a.width (s.viewIndex k a.off))) ∧
        (∀ v, a.kind = .write v → answers (.viewAccessStart ⟨w, false⟩) s (fun t => (t.view k).open_ = some a ∧ (t.view k).queue = rest ∧ ∃ q : Xfer,
          t.xfer s.bus.nextXfer = some q ∧ q.owner = .view k ∧ q.kind = .control ∧ q.handle = s.viewDev k * 16 ∧
          q.setup = regSetup true a.width (s.viewIndex k a.off) ∧ q.bufs = [⟨1, leBytes a.width v, true⟩])) ∧
        (∀ op, a.kind = .atomic op → answers (.viewAccessStart ⟨w, false⟩) s (fun t => (t.view k).open_ = some a ∧ (t.view k).queue = rest ∧
          ∃ l : LockSeq, (t.view k).lock = some l ∧ l.dev = s.viewDev k ∧ l.tries = 0 ∧ l.open_ = false))) ∧
      (s.dev (s.viewDev k) = none → answers (.viewAccessStart ⟨w, false⟩) s (fun t => ∃ u : State,
        u.view k = { s.view k with open_ := some a, queue := rest } ∧ t = u.endAccess k St.deviceGone [])) ∧
      answers (.viewAccessStart ⟨w, true⟩) s (fun t => ∃ u : State, u.view k = { s.view k with open_ := some a, queue := rest } ∧
        u.flag Reg.GLB_ERR_UNCORRECTABLE = true ∧ t = u.endAccess k St.aborted [])) ∧
    (∀ before a r, (s.view k).queue = before ++ a :: r → (s.view k).parts = [] → (s.view k).badPart = false →
      (s.view k).open_ = none → a.more = false → (∀ v, a.kind ≠ .write v) → a.tick + s.readLimit ≤ s.now →
      (∀ b ∈ before, s.now < b.tick + s.readLimit) → s.xb.log.length < Config.lateRecords → answers (.readLimitExpiry w) s (fun t =>
        (t.view k).queue = before ++ r ∧ t.out = .ans .completerAbort :: s.out ∧
        t.xb.log = s.xb.log ++ [s.lateRec k a (accKindCode a.kind) St.timeout])) ∧
    (∀ l a, (s.view k).lock = some l → s.openAcc k = some a →
      (let q := if l.open_ then l else { l with trunk := s.prefRoot l.dev }; s.lockReady q = true ∧ s.lockYields k q = false) →
      (l.tries = 0 → answers (.lockSequenceStart w) s (fun t => ∃ m : LockSeq, (t.view k).lock = some m ∧ m.open_ = true ∧
        m.tries = 1 ∧ m.dev = l.dev ∧ m.sentWrite = false ∧ m.old = none)) ∧
      (l.tries ≠ 0 → answers (.lockRetry w) s (fun t => ∃ m : LockSeq, (t.view k).lock = some m ∧ m.open_ = true ∧
        m.tries = l.tries + 1 ∧ m.sentWrite = false ∧ m.old = none))) ∧
    (∀ l a, (s.view k).lock = some l → s.openAcc k = some a → l.open_ = false →
      l.since + max 1 (s.f Reg.XB_LOCK_CFG_WAIT) ≤ s.mfN → answers (.lockWaitExpiry w) s (fun t => ∃ u : State,
      (u.view k).lock = none ∧ (u.view k).open_ = (s.view k).open_ ∧ t = u.endAccess k St.timeout (leBytes a.width (l.old.getD 0)))) ∧
    (∀ l, (s.view k).lock = some l → s.mfN < l.since + max 1 (s.f Reg.XB_LOCK_CFG_WAIT) →
      answers (.lockWaitExpiry w) s (fun t => t = s))


/-! ## The host's interface and functions (R316 to R343, R423, R467) -/

/-- A function enters D3hot and leaves it, asks the host for power and is answered, and PME_Turn_Off is acknowledged (R320, R326, R337 to
R341, R459). The link goes down and comes up, idles in L1, and configuration becomes ready; a HOLDER whose host has been lost for 10
ms hands over (R318, R319, R332 to R335, R342, R467). -/
def Obligations.HostPowerAndLink : Prop :=
  (∀ (s : State) (fn : FnId),
    let f := fn.val
    (s.fnThere f = true → s.inReset f = false → s.d3hot f = false → answers (.d3hotEntry fn) s (fun t => t.d3hot f = true)) ∧
    (s.d3hot f = true → answers (.d0Return fn) s (fun t => ∃ u x : State, u.d3hot f = false ∧
      (s.hostHere = true → (s.frozen f && (s.vfRec (f - 1)).freezing.isEmpty) = false → ∀ v ∈ (s.fnRec f).pending, (s.fnRec f).unmasked.contains v = true → (s.fnRec f).funcMask = false → Emit.msix f v ∈ u.out) ∧
      x = u.forAll (u.cqsOf f) (fun y i => y.flushCq f i) ∧ t = x.rescan.when (f == 0 && !x.inDormant) (fun y => y.wake .pcie))) ∧
    (∀ t0, (s.fnRec f).pmeTick = some t0 → (s.fnRec f).pmeStatus = true → (s.fnRec f).pmeEn = true → t0 + 2500000 ≤ s.now →
      answers (.pmeResend fn) s (fun t => t.out = (if s.hostHere then .pme f :: s.out else s.out) ∧ (t.fnRec f).pmeTick = some s.now ∧
        t.f Reg.HIF_WAKE_LOG_FUNCTION = f ∧ (t.reg Reg.HIF_WAKE_MF_LO).toNat + 2 ^ 32 * (t.reg Reg.HIF_WAKE_MF_HI).toNat = s.mfN)) ∧
    answers (.pmeStatusClear fn) s (fun t => (t.fnRec f).pmeStatus = false ∧ (t.fnRec f).pmeTick = none ∧ t.out = s.out ∧
      (f = 0 → t.fn.wakeN = false)) ∧
    (s.fn.l23 = false → answers .pmeTurnOff s (fun t => ∃ u : State, u.fn.l23 = true ∧ u.out.head? = some .pmeToAck ∧
      t = if s.flag Reg.PMU_POLICY_TURN_OFF then u.requestSleep 3 .request else u))) ∧
  (∀ s : State,
    (s.flag Reg.HIF_STATUS_LINK_UP = true → s.hostHere = true → s.idleHost = true → answers .aspmL1Request s (fun t =>
      t.f Reg.HIF_ASPM_L1_ENTRIES = min (s.f Reg.HIF_ASPM_L1_ENTRIES + 1) 65535)) ∧
    ((s.quietHost = false ∨ s.now < s.fn.hostAt + 25 * max 1 (s.f Reg.HIF_ASPM_L1_IDLE)) → answers .aspmL1Request s (fun t => t = s)) ∧
    (s.ck.porst = false → s.ck.perst = false → answers .configReady s (fun t => t.flag Reg.HIF_STATUS_CONFIG_READY = true)) ∧
    (s.flag Reg.HIF_STATUS_LINK_UP = true → answers .hostLinkDown s (fun t => ∃ u : State, u.flag Reg.HIF_STATUS_LINK_UP = false ∧
      u.flag Reg.HIF_STATUS_HOST_LOST = true ∧ u.f Reg.HIF_LINK_STATUS_SPEED = 0 ∧ u.f Reg.HIF_LINK_STATUS_WIDTH = 0 ∧
      u.fn.lostAt = some s.now ∧ (∀ e, (u.engine e).reqs = []) ∧ t = u.hotReset)) ∧
    answers .hotReset s (fun t => ∃ u : State, u.f Reg.CKG_RESET_CAUSE_CAUSE = 3 ∧ u.fn.l23 = false ∧ u.fn.vfEnable = s.fn.vfEnable ∧
      t = u.resetAll) ∧
    (∀ (speed : BitVec 3) (width : BitVec 5) (rev : Bool),
      (width.toNat < 4 → answers (.hostLinkUp speed width rev) s (fun t => t.flag Reg.HIF_STATUS_WIDTH_FAIL = true ∧
        t.flag Reg.HIF_STATUS_LINK_UP = s.flag Reg.HIF_STATUS_LINK_UP)) ∧
      (4 ≤ width.toNat → answers (.hostLinkUp speed width rev) s (fun t => ∃ u : State, u.flag Reg.HIF_STATUS_LINK_UP = true ∧
        u.f Reg.HIF_LINK_STATUS_SPEED = speed.toNat ∧ u.f Reg.HIF_LINK_STATUS_WIDTH = width.toNat ∧
        u.flag Reg.HIF_LINK_STATUS_REVERSED = rev ∧ u.fn.lostAt = none ∧ u.fn.l23 = false ∧
        u.f Reg.HIF_LINK_STATUS_RETRAINS = (if s.flag Reg.HIF_STATUS_LINK_UP then min (s.f Reg.HIF_LINK_STATUS_RETRAINS + 1) 65535
          else s.f Reg.HIF_LINK_STATUS_RETRAINS) ∧
        t = ((u.when (!u.inDormant) (fun y => y.wake .pcie)).requestsGoOn).rescan))) ∧
    (∀ t0, s.fn.lostAt = some t0 → t0 + 250000 ≤ s.now → s.flag Reg.HIF_CTRL_HOST_LOSS_HANDOVER = true → s.isHolder = true →
      s.lockstep = true → s.orderedUp = true → s.pu.handover = none → (∀ f, s.pu.peerTime = some f → f.hostLost = false) →
      answers .hostLossHandoverTimer s (fun t => t.pu.handover = some (frameFrom (s.markAfter 8), none) ∧
        (let f := MioOut.mirror s.pu.seq (.handover (BitVec.ofNat 48 (frameFrom (s.markAfter 8))))
        if s.pu.unsent = [] ∧ mayGo s.pu.unacked (s.pu.seq, f) = true then t.out.head? = some (.mio f)
        else t.out = s.out ∧ (s.pu.seq, f) ∈ t.pu.unsent))))

/-- The function-level resets of the PF and of VFs, their end, and VF Enable (R324, R336, R365, R416, R423; what clearing VF Enable does:
log entry 15). -/
def Obligations.FunctionsAreReset : Prop :=
  ∀ (s : State) (v : VfId),
    (s.inReset 0 = false → s.fn.vfEnable = false → answers .pfFlr s (fun t => ∃ u : State, u.fn.pfReset = true ∧
      u.fn.vfEnable = false ∧ u.d3hot 0 = false ∧ (u.fnRec 0).pending = [] ∧ (∀ x ∈ u.qe.cache, x.ref.fn.val ≠ 0) ∧ t = u.flrEnds 0)) ∧
    (s.fn.vfEnable = true → answers .pfFlr s (fun t => ∃ u x : State, u = s.forAll (List.range s.fn.numVfs) (fun y k => y.flrStart (k + 1)) ∧
      x.fn = { u.fn with vfEnable := false } ∧ x = { u with fn := x.fn } ∧ t = x.flrStart 0)) ∧
    (s.fnThere (v.val + 1) = true → s.inReset (v.val + 1) = false → answers (.vfFlr v) s (fun t => ∃ u : State,
      ((s.vfRec v.val).freezing = [] → (u.vfRec v.val).resetBusy = true ∧ (u.vfRec v.val).frozen = false) ∧ u.d3hot (v.val + 1) = false ∧
      (u.fnRec (v.val + 1)).pending = [] ∧ (u.fnRec (v.val + 1)).unmasked = [] ∧ (∀ x ∈ u.qe.cache, x.ref.fn.val ≠ v.val + 1) ∧
      t = u.flrEnds (v.val + 1))) ∧
    (s.inReset (v.val + 1) = true → s.resetReady (v.val + 1) = true → answers (.vfFlrComplete v) s (fun t =>
      (t.vfRec v.val).resetBusy = false ∧ (∀ i, 2 ≤ i → i < 2048 → t.sq (v.val + 1) i = none ∧ t.cq (v.val + 1) i = none) ∧
      (∀ j, j < 64 → Tbl.get (fun _ => none) t.bm.windows ((v.val + 1) * 64 + j) = none))) ∧
    (∀ (en : Bool) (n : Half),
      (s.fn.vfEnable = false → answers (.vfEnableWrite en n) s (fun t => t.fn.vfEnable = en ∧
        t.fn.numVfs = (if n.toNat ≤ 1024 then n.toNat else s.fn.numVfs))) ∧
      (s.fn.vfEnable = true → en = true → answers (.vfEnableWrite en n) s (fun t => t = s)) ∧
      (s.fn.vfEnable = true → en = false → answers (.vfEnableWrite en n) s (fun t => t.fn.vfEnable = false)))

/-! ## Registers (R7 to R9, R27, R28, R288, R322, R343) -/

/-- A write through PF BAR0 that is served gives a register of GLB, LNK or SV the value that the access codes of its fields say, and
changes no other register (R7, R9). -/
def Obligations.RegisterWritesFollowAccessCodes : Prop :=
  ∀ (s : State) (a : BitVec 25) (v : Word), a.toNat % 4 = 0 → s.pfServes a.toNat →
    (a.toNat / 0x100000 = 0 ∨ a.toNat / 0x100000 = 9 ∨ a.toNat / 0x100000 = 12) → s.pairFormed = false →
    answers (.registerWrite a v ⟨15, none, none⟩) s (fun t => s.regsBut [a.toNat] t ∧ t.out = s.out ∧
      t.reg a.toNat = (match regSpec a.toNat with
        | some r => writeMasked r (s.reg a.toNat) v
        | none => s.reg a.toNat))

/-- A write whose byte enables do not cover the register, or that comes before CONFIG_READY, changes nothing, and one of 64 bits writes its low
half, then its high half; a doorbell write rings the
doorbell; a write to a register that has a command of its own does what that command does (R7, R322, R332, R443). Reads through the
BARs answer with what the registers hold, with 0 in a link-layer page of no trunk (R506), clear the RC fields and latch the upper halves, which a read of 64 bits returns with the lower
ones (R7, R9, R28, R343). A TLP that fails its ECRC or its
parity, or is poisoned, is not carried out (R330, R331, R436). -/
def Obligations.RegisterAccessesAreServed : Prop :=
  (∀ (s : State) (v : Word),
    (∀ (a : BitVec 25) (be : BitVec 4), (be ≠ 15 ∨ s.flag Reg.HIF_STATUS_CONFIG_READY = false) → answers (.registerWrite a v ⟨be, none, none⟩) s (· = s)) ∧
    (s.flag Reg.HIF_STATUS_CONFIG_READY = true →
      (∀ i : BitVec 11, exec (.registerWrite (BitVec.ofNat 25 (0x1F00000 + 8 * i.toNat)) v ⟨15, none, none⟩) s = exec (.doorbellWrite 0 i) s ∧
        exec (.registerWrite (BitVec.ofNat 25 (0x1F04000 + 8 * i.toNat)) v ⟨15, none, none⟩) s = exec (.invalidateDoorbell 0 i) s) ∧
      (bits v 0 3 = 1 → exec (.registerWrite (BitVec.ofNat 25 Reg.PMU_REQ) v ⟨15, none, none⟩) s = exec .requestActive s) ∧
      (bits v 0 3 = 2 → exec (.registerWrite (BitVec.ofNat 25 Reg.PMU_REQ) v ⟨15, none, none⟩) s = exec .requestSatin s) ∧
      (bits v 0 3 = 3 → exec (.registerWrite (BitVec.ofNat 25 Reg.PMU_REQ) v ⟨15, none, none⟩) s = exec .requestDormant s) ∧
      exec (.registerWrite (BitVec.ofNat 25 Reg.CKG_RESET) v ⟨15, none, none⟩) s = exec (.warmReset v) s ∧
      (bits v 0 1 = 1 → exec (.registerWrite (BitVec.ofNat 25 Reg.RSQ_CTRL) v ⟨15, none, none⟩) s = exec .rsqRestart s) ∧
      (bits v 0 2 = 0 → exec (.registerWrite (BitVec.ofNat 25 Reg.RSQ_FLASH_CMD) v ⟨15, none, none⟩) s = exec .flashRead s) ∧
      (bits v 0 2 = 1 → exec (.registerWrite (BitVec.ofNat 25 Reg.RSQ_FLASH_CMD) v ⟨15, none, none⟩) s = exec .flashProgram s) ∧
      (bits v 0 2 = 2 → exec (.registerWrite (BitVec.ofNat 25 Reg.RSQ_FLASH_CMD) v ⟨15, none, none⟩) s = exec .flashErase s) ∧
      exec (.registerWrite (BitVec.ofNat 25 Reg.PU_CTRL) v ⟨15, none, none⟩) s = exec (.pairEnableWrite v) s)) ∧
  (∀ (s : State) (a : BitVec 25) (e : Half),
    (a.toNat % 4 = 0 → s.pfServes a.toNat → (a.toNat / 0x100000 = 9 ∨ a.toNat / 0x100000 = 8) →
      answers (.registerReadRc ⟨0, false, e, none⟩ a) s (fun t => if s.hiddenPage a.toNat then
          t.out = .ans (.data [0, 0, 0, 0]) :: s.out ∧ t.regs = s.regs
        else t.out = .ans (.data (leBytes 4 (s.reg a.toNat).toNat)) :: s.out ∧
        s.regsBut [a.toNat] t ∧ t.reg a.toNat = (match regSpec a.toNat with
          | some r => afterRead r (s.reg a.toNat)
          | none => s.reg a.toNat))) ∧
    (s.pfServes Reg.TB_TICK_LO → answers (.registerReadRc ⟨0, false, e, none⟩ (BitVec.ofNat 25 Reg.TB_TICK_LO)) s (fun t =>
      t.out = .ans (.data (leBytes 4 (s.now % 2 ^ 32))) :: s.out ∧
      answers (.registerReadRc ⟨0, false, e, none⟩ (BitVec.ofNat 25 Reg.TB_TICK_HI)) t (fun u =>
        u.out = .ans (.data (leBytes 4 (s.now / 2 ^ 32))) :: t.out))) ∧
    (s.pfServes Reg.TB_TICK_LO → s.pfServes Reg.TB_TICK_HI → answers (.registerReadRc ⟨0, true, e, none⟩ (BitVec.ofNat 25 Reg.TB_TICK_LO)) s (fun t =>
      t.out = .ans (.data (leBytes 4 (s.now % 2 ^ 32) ++ leBytes 4 (s.now / 2 ^ 32))) :: s.out)) ∧
    (∀ (v v2 : Word) (be : BitVec 4) t, a.toNat % 8 = 0 → s.regServed a.toNat = true → exec (.registerWrite a v ⟨15, none, none⟩) s = .next t →
      exec (.registerWrite a v ⟨15, some (v2, be), none⟩) s = exec (.registerWrite (a + 4) v2 ⟨be, none, none⟩) t) ∧
    (∀ v : VfId, s.flag Reg.HIF_STATUS_CONFIG_READY = true → s.fnThere (v.val + 1) = true → s.inReset (v.val + 1) = false →
      s.d3hot (v.val + 1) = false → s.inDormant = false → s.operational = true →
      answers (.registerReadRc ⟨Fin.ofNat 1025 (v.val + 1), false, e, none⟩ 0xA000) s (fun t =>
        t.out = .ans (.data (leBytes 4 (s.vfStatus v.val).toNat)) :: s.out ∧ t.regs = s.regs))) ∧
  (∀ (s : State) (a : BitVec 25) (v : Word) (be : BitVec 4) (hi : Option (Word × BitVec 4)) (f : FnId) (wide : Bool) (e : Half),
    let left (t : State) : Prop := s.regsBut [Reg.HIF_ERR_COUNT] t ∧ State.only [.regs, .fn] s t
    let errors (t : State) (n p : Nat) : Prop := t.f Reg.HIF_ERR_COUNT_ECRC = min (s.f Reg.HIF_ERR_COUNT_ECRC + n) 65535 ∧
      t.f Reg.HIF_ERR_COUNT_POISONED = min (s.f Reg.HIF_ERR_COUNT_POISONED + p) 65535
    (s.flag Reg.HIF_STATUS_CONFIG_READY = true →
      answers (.registerWrite a v ⟨be, hi, some (f, .ecrc)⟩) s (fun t => left t ∧ errors t 1 0 ∧ (t.fnRec f).aer.contains Aer.ecrc = true) ∧
      answers (.registerWrite a v ⟨be, hi, some (f, .poisoned)⟩) s (fun t => left t ∧ errors t 0 1 ∧
        (t.fnRec f).aer.contains Aer.poisoned = true) ∧
      answers (.registerWrite a v ⟨be, hi, some (f, .parity)⟩) s (fun t => left t ∧ errors t 0 0 ∧
        (t.fnRec f).aer.contains Aer.internal = true) ∧
      answers (.registerReadRc ⟨f, wide, e, some .ecrc⟩ a) s (fun t => s.regsBut [Reg.HIF_ERR_COUNT] t ∧ errors t 1 0 ∧
        t.out = .ans .unsupported :: s.out ∧ (t.fnRec f).aer.contains Aer.ecrc = true) ∧
      answers (.registerReadRc ⟨f, wide, e, some .parity⟩ a) s (fun t => left t ∧ errors t 0 0 ∧ (t.fnRec f).aer.contains Aer.internal = true)) ∧
    (s.flag Reg.HIF_STATUS_CONFIG_READY = false → (∀ x, answers (.registerWrite a v ⟨be, hi, some x⟩) s (· = s)) ∧
      (∀ x, answers (.registerReadRc ⟨f, wide, e, some x⟩ a) s (· = s)) ∧
      answers (.registerReadRc ⟨f, wide, e, none⟩ a) s (· = s.prbsSeen a.toNat (if f.val = 0 then e.toNat else 0) wide)))

/-! ## Pairs and cascades (R272 to R315) -/

/-- A mark at a port in device role makes it ENABLED and brings what a broadcast has put down for it (R43, R66, R67, R127; ENABLED at a mark:
log entry 43). Time follows the peer's pulses or the cascade's marks while they agree to within 1 µs, a device that has sent no mark takes its number
from them, a source that falls silent is left, and an offset that stays too large ends alignment (R283 to R286, R309; the rank of a
cascade's master: log entry 8). -/
def Obligations.PairTimeFollowsItsSource : Prop :=
  ∀ s : State,
    (∀ (ns : Nat) (o : Half) (f : TimeFrame), s.flag Reg.PU_CTRL_EN = true → s.pu.peerTime = some f → s.mayFollow = true →
      s.f Reg.PU_STATUS_TIME_SRC ≠ 2 →
      (s.nearMark = f.mf.toNat + 1 → o.toInt.natAbs < offsetLimit → answers (.frameSyncPulse ns o) s (fun t =>
        t.f Reg.PU_STATUS_TIME_SRC = 1 ∧ t.flag Reg.PU_STATUS_MASTER = false ∧ t.f Reg.PU_CASCADE_STATUS_MASTER_RANK = f.rank.toNat ∧
        t.pu.offset = o.toInt ∧ t.f Reg.PU_PEER_OFFSET_OFFSET = o.toNat ∧ t.pu.lastPulse = some s.now ∧ t.time = s.time ∧
        ((f.mf.toNat + 1) % 8 = 0 → t.pu.srcTick = some s.now))) ∧
      (s.time.marked = true → s.nearMark ≠ f.mf.toNat + 1 → answers (.frameSyncPulse ns o) s (fun t => t.time = s.time ∧ t.pu.conflict = true)) ∧
      (s.time.marked = false → (s.nearMark ≠ f.mf.toNat + 1 ∨ offsetLimit ≤ o.toInt.natAbs) → answers (.frameSyncPulse ns o) s (fun t =>
        t.time.mf = BitVec.ofNat 48 (f.mf.toNat + 1) ∧ t.time.phase = 0 ∧ t.time.tick = s.time.tick ∧
        t.f Reg.PU_STATUS_TIME_SRC = 1 ∧ t.pu.offset = 0))) ∧
    (∀ (p : Trunk) (m : CascMark) (o : Half), s.connected p = true → s.portState p ≠ 0 → answers (.cascadeMarkReceived p m o) s (fun t =>
      t.portState p = 4 ∧ (t.devNode p).lastMark = some s.now ∧ (t.devNode p).low = m.lowPower ∧ (t.devNode p).mfn = m.mfn.toNat ∧
      (m.mfn.toNat ∈ (s.devNode p).snapAt → s.portState p = 4 → (t.devNode p).snapshot = s.free ∧
        (t.devNode p).snapAt = (s.devNode p).snapAt.filter (· != m.mfn.toNat)) ∧
      (m.mfn.toNat ∈ (s.devNode p).clearAt → s.portState p = 4 → (t.devNode p).late = 0 ∧
        (t.devNode p).clearAt = (s.devNode p).clearAt.filter (· != m.mfn.toNat)))) ∧
    (∀ (p : Trunk) (m : CascMark) (o : Half), (s.connected p = false ∨ s.portState p = 0) → answers (.cascadeMarkReceived p m o) s (fun t => t = s)) ∧
    (∀ (p : Trunk) (mfn o : Half) (low : Bool), s.connected p = true → s.portState p = 4 →
      ((∀ i, Tbl.get (fun _ => none) s.mre.casc (cascKey p 0 1 i) = none) → s.nearMark % 65536 = mfn.toNat →
        o.toInt.natAbs < offsetLimit → answers (.cascadeMarkReceived p ⟨mfn, low⟩ o) s (fun t => t.f Reg.PU_STATUS_TIME_SRC = 2 ∧
          t.flag Reg.PU_CASCADE_STATUS_CASCADE_TIME = true ∧ t.flag Reg.PU_STATUS_MASTER = false ∧ t.pu.offset = o.toInt ∧
          (s.f Reg.PU_STATUS_TIME_SRC = 2 → t.f Reg.PU_CASCADE_STATUS_MASTER_RANK = s.f Reg.PU_CASCADE_STATUS_MASTER_RANK))) ∧
      (∀ x b m, Tbl.get (fun _ => none) s.mre.casc (cascKey p 0 1 s.mfN) = some (x, b) →
        Tbl.get (fun _ => none) s.mre.casc (cascKey p 0 1 (s.mfN + 1)) = none → s.time.marked = false →
        m = field b 180 6 + (mfn.toNat + 65536 - field b 180 6 % 65536) % 65536 → (s.nearMark ≠ m ∨ offsetLimit ≤ o.toInt.natAbs) →
        answers (.cascadeMarkReceived p ⟨mfn, low⟩ o) s (fun t => t.time.mf = BitVec.ofNat 48 m ∧ t.time.phase = field b 186 2 ∧
          t.f Reg.PU_STATUS_TIME_SRC = 2 ∧ t.pu.offset = 0))) ∧
    (∀ t0, s.pu.srcTick = some t0 → t0 + sourceAge ≤ s.now → s.f Reg.PU_STATUS_TIME_SRC ≠ 0 →
      (s.pu.peerTime = none → answers .timeSourceLost s (fun t => ∃ u : State, u.f Reg.PU_STATUS_TIME_SRC = 0 ∧
        u.flag Reg.PU_STATUS_MASTER = true ∧ u.f Reg.PU_CASCADE_STATUS_MASTER_RANK = s.f Reg.PU_CFG_RANK ∧
        u.flag Reg.PU_CASCADE_STATUS_CASCADE_TIME = false ∧ t = u.puEvent Pe.master (s.f Reg.PU_CFG_RANK))) ∧
      (∀ f t1, s.pu.peerTime = some f → s.pu.lastPulse = some t1 → s.now < t1 + sourceAge → s.mayFollow = true →
        s.f Reg.PU_STATUS_TIME_SRC = 2 → answers .timeSourceLost s (fun t => t.f Reg.PU_STATUS_TIME_SRC = 1 ∧
          t.f Reg.PU_CASCADE_STATUS_MASTER_RANK = f.rank.toNat ∧ t.pu.srcTick = some t1))) ∧
    (8 ≤ s.pu.offFrames → s.f Reg.PU_STATUS_TIME_SRC ≠ 0 → answers .alignLost s (fun t => ∃ u x : State,
      u.flag Reg.PU_STATUS_ALIGN_LOST = true ∧ u.pu.offFrames = 0 ∧ x = u.puEvent Pe.align ∧
      t = if x.isPartner && x.lockstep then x.orderedDown.enterResync 2
        else if x.isHolder && x.lockstep then (x.setPstate 4).orderedDown else x))

/-- The ordered channel of a pair: acknowledgements, repetition, order, and its end; frames with a bad CRC (R280, R288, R291, R292,
R302 to R304). -/
def Obligations.OrderedChannelKeepsOrder : Prop :=
  ∀ s : State,
    (s.orderedUp = true → s.pu.owed = true → s.miodelUp = true → answers .miodelAckTimer s (fun t =>
      t.out = .mio (.ack ((s.pu.recvSeq + 2 ^ 32 - 1) % 2 ^ 32)) :: s.out ∧ t.pu.owed = false)) ∧
    (s.orderedUp = true → s.pu.unacked ≠ [] → s.pu.progress + 500 ≤ s.now → s.pu.resentAt + 500 ≤ s.now → s.miodelUp = true →
      answers .miodelResendTimeout s (fun t =>
      t.out = (s.pu.unacked.map (fun x => Emit.mio x.2)).reverse ++ s.out ∧ t.pu = { s.pu with resentAt := s.now } ∧
      t.f Reg.PU_MIODEL_ERRORS_RETRANSMITS = min (s.f Reg.PU_MIODEL_ERRORS_RETRANSMITS + s.pu.unacked.length) 65535)) ∧
    (s.orderedUp = true → (s.miodelUp = false ∨ s.pu.unacked ≠ [] ∧ s.pu.progress + 25000 ≤ s.now) →
      answers .orderedChannelDown s (fun t => t =
        if s.orderedDown.pstate = 2 then ((s.orderedDown.setRole 0).setPstate 1).joinPhase 1 else s.orderedDown) ∧
      (s.pu.mirrored = [] → s.pu.deferred = [] → s.pu.sent = [] → answers .orderedChannelDown s (fun t => ∃ u x : State,
        u.flag Reg.PU_STATUS_ORDERED_UP = false ∧ u.pu.unacked = [] ∧ u.pu.unsent = [] ∧ u.pu.hello = none ∧ u.pu.owed = false ∧ x = u.puEvent Pe.down ∧
        t = if x.pstate = 2 then ((x.setRole 0).setPstate 1).joinPhase 1 else x))) ∧
    (∀ seq : Word, s.orderedUp = true → answers (.miodelAckFrame seq) s (fun t => ∃ u v : State,
      u.pu.unacked = s.pu.unacked.filter (fun x => !(seqUpTo x.1 seq.toNat)) ∧
      u.pu.mirrored = s.pu.mirrored.filter (fun x => !(seqUpTo x.1 seq.toNat)) ∧ u.pu.lastFrame = some s.now ∧
      u.pu.progress = (if u.pu.unacked.length < s.pu.unacked.length then s.now else s.pu.progress) ∧
      u.pu.unsent = s.pu.unsent ∧ v = u.sendUnsent s.pu.unsent.length ∧
      t = (v.inCqeOrder (·.1) (s.pu.deferred.filter (fun x => !u.pu.mirrored.any (fun y => y.2 == x.1)))).foldl
        (fun (y : State) (x : EntryRef × Cqe) => y.finishEntry x.1 x.2)
        (v.updPu (fun q => { q with deferred := s.pu.deferred.filter (fun x => u.pu.mirrored.any (fun y => y.2 == x.1)) })))) ∧
    (∀ timed, answers (.miodelFrameCrcFail timed) s (fun t => s.regsBut [Reg.PU_MIODEL_ERRORS] t ∧
      t.f Reg.PU_MIODEL_ERRORS_TIMED_LOST = if timed then min (s.f Reg.PU_MIODEL_ERRORS_TIMED_LOST + 1) 65535
        else s.f Reg.PU_MIODEL_ERRORS_TIMED_LOST)) ∧
    (∀ (seq : Word) (m : MirrorRec), s.orderedUp = true →
      (seq.toNat = s.pu.recvSeq → answers (.miodelMirrorFrame seq m) s (fun t => ∃ u : State,
        u.pu.recvSeq = (seq.toNat + 1) % 2 ^ 32 ∧ u.pu.owed = true ∧ u.pu.lastFrame = some s.now ∧ u.regs = s.regs ∧
        t = u.applyMirror seq.toNat m)) ∧
      (seq.toNat ≠ s.pu.recvSeq → answers (.miodelMirrorFrame seq m) s (fun t => t.pu.recvSeq = s.pu.recvSeq ∧ t.pu.owed = true ∧
        t.regs = s.regs ∧ t.out = s.out)) ∧
      (∀ a v n, seq.toNat = s.pu.recvSeq → s.isPartner = true → m = .regWrite a v n → answers (.miodelMirrorFrame seq m) s (fun t =>
        t.pu.writes = s.pu.writes ++ [(a.toNat, v, n.toNat)] ∧ t.regs = s.regs)) ∧
      (∀ h, seq.toNat = s.pu.recvSeq → s.isPartner = true → m = .handover h → answers (.miodelMirrorFrame seq m) s (fun t =>
        t.pu.handover = some (h.toNat, none) ∧ t.regs = s.regs))) ∧
    (∀ (seq : Word) (c : CopyFrame), s.orderedUp = true → seq.toNat = s.pu.recvSeq →
      (s.isPartner = true → s.pstate = 2 → answers (.miodelCopyFrame seq c) s (fun t => ∃ u : State,
        u.pu.recvSeq = (seq.toNat + 1) % 2 ^ 32 ∧ u.pu.owed = true ∧ u.regs = s.regs ∧ t = u.install c)) ∧
      (∀ a b, c = .ebm a b → (s.isPartner = false ∨ s.pstate ≠ 2) → answers (.miodelCopyFrame seq c) s (fun t => t.ebm = s.ebm ∧
        t.pu.owed = true)))

/-- Two devices in lockstep exchange what their trunks brought, compare their digests, and share clips and relayed packets (R279, R281,
R296 to R298, R300, R304). -/
def Obligations.LockstepDevicesCompare : Prop :=
  ∀ s : State,
    (∀ (recs : List PresenceRec), s.lockstep = true → answers (.miodelPresenceFrame recs) s (fun t => t.pu.peerLacks = recs ∧
      t.pu.presPass = s.mfN ∧ t.pu.lastFrame = some s.now ∧ (∀ r ∈ recs, ∀ tag ∈ r.lacks, ∀ b, s.miodelUp = true →
        s.heldFor r.trunk ((s.mfN + 65535) % 65536) tag.toNat = some b →
        ∃ l, BlockRec.mk r.trunk tag b ∈ l ∧ t.out = .mio (.blocks l) :: s.out))) ∧
    (∀ (b : BlockRec) x u new, s.lockstep = true → s.time.phase < Config.decisionTick →
      s.per (npKey b.trunk ((s.mfN + 65535) % 65536) b.tag.toNat) = some x → perIn x = true → x.seq = (s.mfN + 65535) % 65536 →
      s.halfHolds x.handle ((s.mfN + 65535) % 65536) = false →
      (s.frameSeen.setPer (npKey b.trunk ((s.mfN + 65535) % 65536) b.tag.toNat) (some { x with got := true })).acceptIn x.handle
        ((s.mfN + 65535) % 65536) b.payload = (u, new) →
      answers (.miodelBlocksFrame [b]) s (fun t => t = if new then (u.bump Reg.PU_RECON_FETCHED_COUNT).blockNotice x.handle else u)) ∧
    (∀ (l : List BlockRec), Config.decisionTick ≤ s.time.phase → answers (.miodelBlocksFrame l) s (fun t => t.ebm = s.ebm ∧
      t.bus = s.bus ∧ t.regs = s.regs ∧ t.pu.lastFrame = some s.now)) ∧
    (∀ (pass : Word) (d : List Word) p own, s.pu.digests.find? (fun x => x.1 % 2 ^ 32 == pass.toNat) = some (p, own) →
      (s.lockstep = true → digestDiff own d = [] → answers (.miodelDigestFrame pass d) s (fun t => t.pu.diverge = 0 ∧ t.regs = s.regs)) ∧
      (s.lockstep = true → digestDiff own d ≠ [] → answers (.miodelDigestFrame pass d) s (fun t => ∃ u x : State,
        u.f Reg.PU_DIVERGE_COUNT_COUNT = min (s.f Reg.PU_DIVERGE_COUNT_COUNT + 1) 0xFFFFFFFF ∧
        u.f Reg.PU_DIVERGE_MF_LO_MF = p % 2 ^ 32 ∧ u.f Reg.PU_DIVERGE_MF_HI_DIGEST = (digestDiff own d).headD 0 ∧
        x = (u.puEvent Pe.diverge 0 ((digestDiff own d).headD 0 + 256 * min (digestDiff own d).length 255)).updPu
          (fun q => { q with diverge := q.diverge + 1 }) ∧
        t = if max 1 (x.f Reg.PU_CFG_DIVERGE_LIMIT) ≤ x.pu.diverge ∧ x.flag Reg.PU_CTRL_AUTO_RESYNC = true ∧ x.isPartner = true then
          x.orderedDown.enterResync 1 else x)) ∧
      (s.lockstep = false → s.f Reg.PU_JOIN_STATUS_PHASE = 4 → answers (.miodelDigestFrame pass d) s (fun t =>
        t.pu.joinPasses = s.pu.joinPasses + 1 ∧ t.pu.matched = (if digestDiff own d = [] then s.pu.matched + 1 else 0) ∧
        t.f Reg.PU_JOIN_STATUS_PROGRESS = min 100 (t.pu.matched * 100 / 64)))) ∧
    (∀ (pass : MfNum) (c : ClipRec), s.isPartner = true → s.mfN < pass.toNat → answers (.miodelClipFrame pass [c]) s (fun t =>
      Tbl.get (fun _ => []) t.mre.feeds c.gen.val =
        ⟨pass.toNat, c.present, c.samples⟩ :: Tbl.get (fun _ => []) s.mre.feeds c.gen.val ∧ t.regs = s.regs)) ∧
    (∀ (k : Trunk) (b : List Byte), s.isPartner = true → answers (.miodelRelayFrame (.send k b)) s (fun t =>
      t.pu.relay = s.pu.relay ++ [(k.val, b)] ∧ t.regs = s.regs)) ∧
    (∀ (k : Trunk) (d : DataPkt), s.isHolder = true → answers (.miodelRelayFrame (.gotData k d)) s (fun t => ∃ u : State,
      u.pu.lastFrame = some s.now ∧ u.bus = s.bus ∧ u.regs = s.regs ∧ t = u.gotData (k.val + 192) d)) ∧
    (∀ (k : Trunk) (kind : Byte) (h : Handshake), s.isHolder = true → answers (.miodelRelayFrame (.gotHandshake k kind h)) s (fun t =>
      ∃ u : State, u.pu.lastFrame = some s.now ∧ u.bus = s.bus ∧ u.regs = s.regs ∧ t = u.gotHandshake (k.val + 192) kind.toNat h)) ∧
    (∀ f : TimeFrame, s.flag Reg.PU_CTRL_EN = true →
      (s.isHolder = false → answers (.miodelTimeFrame f) s (fun t => t.pu.peerTime = some f ∧ t.pu.lastFrame = some s.now)) ∧
      (s.role = 0 → s.f Reg.PU_STATUS_TIME_SRC = 1 → f.timeSrc = 1 → s.f Reg.PU_CFG_RANK < f.rank.toNat → answers (.miodelTimeFrame f) s
        (fun t => ∃ u : State, u.f Reg.PU_STATUS_TIME_SRC = 0 ∧ u.flag Reg.PU_STATUS_MASTER = true ∧ u.pu.peerTime = some f ∧
          t = u.puEvent Pe.master (s.f Reg.PU_CFG_RANK))) ∧
      (∀ g, s.isPartner = true → s.lockstep = true → s.pu.peerTime = some g → g.role = 1 → g.pstate = 3 → f.role = 1 → f.pstate = 4 →
        answers (.miodelTimeFrame f) s (fun t => ∃ u : State, u.pu.peerTime = some f ∧ t = u.orderedDown.enterResync 2)) ∧
      (s.isHolder = true → s.pu.abdicate = false → s.pstate = 4 → s.orderedUp = true → f.pstate = 3 → f.role = 2 →
        answers (.miodelTimeFrame f) s (fun t => ∃ u : State, u.pstate = 3 ∧ u.f Reg.PU_JOIN_STATUS_PHASE = 5 ∧
          u.pu.peerTime = some f ∧ u.flag Reg.PU_STATUS_PEER_RSQ_FAILED = f.rsqFailed ∧ t = u.puEvent Pe.joined)) ∧
      (s.isHolder = true → s.pu.abdicate = false → s.lockstep = true → f.pstate = 5 → f.role = 2 → answers (.miodelTimeFrame f) s (fun t =>
        ∃ u : State, u.pstate = 4 ∧ u.pu.peerTime = some f ∧ t = u.orderedDown)) ∧
      (s.isHolder = true → s.pu.abdicate = true → s.pu.leave = none → f.role = 1 → answers (.miodelTimeFrame f) s (fun t =>
        t.pu.abdicate = false ∧ t.pstate = 5)))

/-- A pair forms: EN starts HELLO, the checks decide, and a device that hears no HELLO becomes HOLDER alone (R276, R287, R289, R290,
R305). -/
def Obligations.PairsForm : Prop :=
  ∀ s : State,
    (∀ v : Word, s.pfServes Reg.PU_CTRL → s.flag Reg.PU_CTRL_EN = false → bits v 0 1 = 1 → answers (.pairEnableWrite v) s (fun t =>
      ∃ u : State, u.flag Reg.PU_CTRL_EN = true ∧ u.pstate = 1 ∧ u.f Reg.PU_JOIN_STATUS_PHASE = 1 ∧ u.pu.enAt = some s.now ∧
        u.pu.silent = false ∧ u.pu.hello = none ∧ t = (u.miodelLanes.foldl (fun y n => y.trainStart n) u).sendHello)) ∧
    (∀ v : Word, s.pfServes Reg.PU_CTRL → s.flag Reg.PU_CTRL_EN = true → bits v 0 1 = 0 → answers (.pairEnableWrite v) s (fun t =>
      t.flag Reg.PU_CTRL_EN = false ∧ ∃ u x y : State, u.role = 0 ∧ u.pstate = 0 ∧ u.f Reg.PU_JOIN_STATUS_PHASE = 0 ∧
        u.pu.unacked = [] ∧ u.pu.peerTime = none ∧ x = (if u.f Reg.PU_STATUS_TIME_SRC = 1 then u.freeRun else u).peerGone ∧
        y = (if s.role = 0 then x else (x.puEvent Pe.role).when (s.role == 2) (fun z => z.tmBegins)) ∧
        t = y.writeReg Reg.PU_CTRL v)) ∧
    (∀ v : Word, s.pfServes Reg.PU_CTRL → s.flag Reg.PU_CTRL_EN = (bits v 0 1 == 1) →
      (∀ p ∈ s.trunks, (s.writeReg Reg.PU_CTRL v).portExists p = true) → answers (.pairEnableWrite v) s (fun t =>
      s.regsBut [Reg.PU_CTRL] t ∧ t.f Reg.PU_CTRL_WIDTH = bits v 2 2 ∧ t.f Reg.PU_CTRL_AUTO_RESYNC = bits v 1 1 ∧ t.pu = s.pu)) ∧
    (∀ t0, s.pstate = 1 → s.pu.enAt = some t0 → t0 + 50000000 ≤ s.now → answers .helloTimeout s (fun t => ∃ u : State, u.role = 1 ∧
      u.pstate = 4 ∧ u.f Reg.PU_TERM_TERM = 1 ∧ u.f Reg.PU_JOIN_STATUS_PHASE = 0 ∧ u.pu.enAt = none ∧
      t = (u.puEvent Pe.role).tmBegins)) ∧
    (∀ h : HelloFrame, s.flag Reg.PU_CTRL_EN = true → s.pu.silent = false → s.orderedUp = false →
      (s.helloCheck h = none → answers (.miodelHelloFrame h) s (fun t => ∃ u : State, u.orderedUp = true ∧ u.pu.seq = 0 ∧
        u.pu.recvSeq = 0 ∧ u.pu.unacked = [] ∧ u.pu.hello = some h ∧ u.pu.progress = s.now ∧
        (s.miodelUp = true → u.out = .mio (.hello (s.helloFrame s.alignedHere)) :: s.out) ∧ t = (u.puEvent Pe.up).formPair h)) ∧
      (∀ c, s.helloCheck h = some c → c ≠ 4 → s.isHolder = false → s.pstate ≠ 0 → answers (.miodelHelloFrame h) s (fun t => ∃ u : State,
        u.f Reg.PU_JOIN_STATUS_PHASE = 6 ∧ u.f Reg.PU_JOIN_STATUS_FAIL = c ∧ u.role = 0 ∧ u.pstate = 0 ∧ u.pu.silent = true ∧
        u.pu.enAt = none ∧ t = u.puEvent Pe.joinFailed c)) ∧
      (∀ c, s.helloCheck h = some c → c ≠ 4 → s.isHolder = true → answers (.miodelHelloFrame h) s (fun t => ∃ u : State,
        u.regs = s.regs ∧ u.pu.hello = some h ∧ t = u.puEvent Pe.joinFailed c)))

/-- The peer is lost, a PARTNER takes over at the second mark, and a handover swaps the roles at its frame mark (R289, R290, R299 to
R303). -/
def Obligations.RolesChangeHands : Prop :=
  ∀ s : State,
    (∀ c, s.lossSeen c = true →
      (s.isHolder = true → s.lockstep = true → answers (.peerLossDetect c) s (fun t => ∃ u : State, u.pstate = 4 ∧ u.role = 1 ∧
        t = u.orderedDown.peerGone.puEvent Pe.lost (lossCode c))) ∧
      (s.isPartner = true → s.lockstep = true → s.pu.takeoverAt = none → answers (.peerLossDetect c) s (fun t =>
        t.pu.loss = some c ∧ t.pu.takeoverAt = some (s.mfN + 2) ∧ t.regs = s.regs)) ∧
      (s.isPartner = true → s.lockstep = false → answers (.peerLossDetect c) s (fun t => t.role = 0 ∧ t.pstate = 1 ∧
        t.f Reg.PU_JOIN_STATUS_PHASE = 1))) ∧
    (∀ m c, s.pu.takeoverAt = some m → s.pu.loss = some c → m ≤ s.mfN → answers .takeover s (fun t => ∃ u x : State, u.role = 1 ∧
      u.f Reg.PU_TERM_TERM = (s.orderedDown.f Reg.PU_TERM_TERM + 1) % 2 ^ 32 ∧ u.pu.takeoverAt = none ∧ u.pu.handover = none ∧
      u.pu.auditEnd = true ∧ x = ((u.puEvent Pe.role).setPstate 4).bump Reg.PU_TAKEOVERS_TAKEOVERS ∧
      t = ((((x.puEvent Pe.lost (lossCode c)).peerGone).stopClips St.aborted).resyncAll).tmBegins)) ∧
    (∀ h r, s.pu.handover = some (h, r) → h ≤ s.mfN →
      (s.isHolder = true → answers .handoverSwitch s (fun t => ∃ x u : State, x = s.updPu (fun q => { q with handover := none }) ∧ u.role = 2 ∧
        u.f Reg.PU_TERM_TERM = (x.holderEnds.f Reg.PU_TERM_TERM + 1) % 2 ^ 32 ∧
        u.f Reg.PU_TAKEOVERS_HANDOVERS = min (x.holderEnds.f Reg.PU_TAKEOVERS_HANDOVERS + 1) 65535 ∧
        t = match r with
          | some r => (u.puEvent Pe.role).completeRef r St.ok
          | none => u.puEvent Pe.role)) ∧
      (s.isPartner = true → answers .handoverSwitch s (fun t => ∃ u x : State, u.role = 1 ∧ u.pu.handover = none ∧
        u.f Reg.PU_TERM_TERM = (s.f Reg.PU_TERM_TERM + 1) % 2 ^ 32 ∧ x = (u.puEvent Pe.role).bump Reg.PU_TAKEOVERS_HANDOVERS ∧
        t = ((x.updPu (fun q => { q with auditEnd := true, relay := [] })).stopClips St.aborted).tmBegins)))

/-- The phases of a join end, or time out; held register writes, barriers and held pair events go on (R288, R304, R305, R311, R358). -/
def Obligations.JoinsRunTheirPhases : Prop :=
  ∀ s : State,
    (s.isHolder = true → s.f Reg.PU_JOIN_STATUS_PHASE = 2 → s.pstate = 4 → s.orderedUp = true → answers .joinPhaseEnd s (fun t =>
      ∃ u : State, u.f Reg.PU_JOIN_STATUS_PHASE = 4 ∧ u.f Reg.PU_JOIN_STATUS_PROGRESS = 0 ∧ t = u.sendCopies s.copyState)) ∧
    (s.isPartner = true → s.pstate = 2 → s.f Reg.PU_JOIN_STATUS_PHASE = 2 → s.f Reg.PU_JOIN_STATUS_PROGRESS = 100 →
      answers .joinPhaseEnd s (fun t => t.f Reg.PU_JOIN_STATUS_PHASE = 3 ∧ t.f Reg.PU_JOIN_STATUS_PROGRESS = 0 ∧ t.mre.on = false)) ∧
    (s.isPartner = true → s.pstate = 2 → s.f Reg.PU_JOIN_STATUS_PHASE = 3 → s.f Reg.PU_JOIN_STATUS_PROGRESS = 100 → s.pu.install = [] →
      answers .joinPhaseEnd s (fun t => t.f Reg.PU_JOIN_STATUS_PHASE = 4 ∧ t.pu.matched = 0 ∧ t.pu.joinPasses = 0)) ∧
    (s.isPartner = true → s.pstate = 2 → s.f Reg.PU_JOIN_STATUS_PHASE = 4 → 64 ≤ s.pu.matched → answers .joinPhaseEnd s (fun t =>
      t.f Reg.PU_JOIN_STATUS_PHASE = 5 ∧ t.pu.joinAt = some (frameFrom (s.mfN + 1)))) ∧
    (∀ m, s.pu.joinAt = some m → s.f Reg.PU_JOIN_STATUS_PHASE = 5 → s.pstate = 2 → m ≤ s.mfN → answers .joinDone s (fun t =>
      ∃ u : State, u.pstate = 3 ∧ u.role = s.role ∧ u.pu.joinAt = none ∧ u.pu.diverge = 0 ∧ t = u.puEvent Pe.joined)) ∧
    (s.f Reg.PU_JOIN_STATUS_PHASE = 4 → 256 ≤ s.pu.joinPasses →
      (s.isHolder = true → answers .joinTimeout s (fun t => t = s.startCopy)) ∧
      (s.isHolder = false → s.pu.retried = false → answers .joinTimeout s (fun t => t.f Reg.PU_JOIN_STATUS_PHASE = 2 ∧
        t.pu.retried = true ∧ t.pu.matched = 0 ∧ t.pu.joinPasses = 0 ∧ t.pu.install = [])) ∧
      (s.isHolder = false → s.pu.retried = true → s.orderedUp = false → answers .joinTimeout s (fun t => ∃ u : State,
        u.f Reg.PU_JOIN_STATUS_PHASE = 6 ∧ u.f Reg.PU_JOIN_STATUS_FAIL = 5 ∧ u.role = 0 ∧ u.pstate = 0 ∧ u.pu.silent = true ∧
        t = u.puEvent Pe.joinFailed 5))) ∧
    (∀ a v m, s.pu.writes = [(a, v, m)] →
      (m ≤ s.mfN → answers .mirrorWriteApply s (fun t => s.regsBut [a] t ∧ t.pu.writes = [] ∧
        t.reg a = ((s.reg a &&& ~~~(BitVec.ofNat 32 (pairMask a))) ||| (v &&& BitVec.ofNat 32 (pairMask a))))) ∧
      (s.mfN < m → answers .mirrorWriteApply s (fun t => t = s))) ∧
    (∀ (id : Word) m0 r, s.pu.barriers = [(id.toNat, m0, r)] → s.barrierKnown id.toNat = true → m0 + 2 ≤ s.mfN →
      answers (.barrierComplete id) s (fun t => ∃ u : State, u.pu.barriers = [] ∧ u.pu.barrierFree = id.toNat ∧
        t = u.completeRef r St.ok 0 (BitVec.ofNat 32 s.mfN) (BitVec.ofNat 32 (s.mfN / 2 ^ 32)))) ∧
    (∀ e r, s.pu.held = e :: r →
      (∀ u, s.postEvent (s.f Reg.PU_EVENT_CTRL_CQ) e.dws 4 = some u → answers .puBacklogDrain s (fun t =>
        t = (u.updPu (fun q => { q with held := r })).drainPu (r.length + s.pu.latest.length))) ∧
      (s.postEvent (s.f Reg.PU_EVENT_CTRL_CQ) e.dws 4 = none → answers .puBacklogDrain s (fun t => t = s)))

/-- A root port in device role whose pull-up is driven answers as the class 0x03 node of a cascade link: locks, control transfers, periodic
blocks, none after its input cut-off, and broadcasts, which wait for their mark, a late one being counted (R47, R53, R59, R60, R65 to R67,
R103, R227, R307). -/
def Obligations.CascadeNodeAnswersTokens : Prop :=
  ∀ (s : State) (p : Trunk) (k : TokenPkt), (s.connected p = false → answers (.deviceRoleTokenReceived p k) s (fun t => t = s)) ∧
  ((s.trunk p).delinLost = true → answers (.deviceRoleTokenReceived p k) s (fun t => t = s)) ∧
  (s.connected p = true → s.portEnabled p = true → (s.trunk p).delinLost = false →
    (k.handle.toNat / 16 = (s.devNode p).addr → s.mute = false →
      (k.kind.toNat = Pk.lock → k.handle.toNat % 16 = 0 → answers (.deviceRoleTokenReceived p k) s (fun t =>
        (t.devNode p).lockedAt = some s.now ∧
        t.out = .pkt p ⟨Pk.lockAck, answerFlags k, k.tag.toNat % 4096, 0, 0, 0, 0, []⟩ :: s.out)) ∧
      (k.kind.toNat = Pk.unlock → k.handle.toNat % 16 = 0 → answers (.deviceRoleTokenReceived p k) s (fun t => if s.nodeLocked p then
          (t.devNode p).lockedAt = none ∧ t.out = .pkt p ⟨Pk.ack, answerFlags k, k.tag.toNat % 4096, 0, 0, 0, 0, []⟩ :: s.out
        else t.tree = s.tree ∧ t.out = .pkt p ⟨Pk.err, answerFlags k, k.tag.toNat % 4096, 0, 0, 0, 0, []⟩ :: s.out)) ∧
      (k.kind.toNat = Pk.setup → k.handle.toNat % 16 = 0 → nbit k.flags.toNat 3 = s.nodeLocked p → k.payload.length = 16 → k.dataSeq = 0 →
        nodeSupports k.payload = true → answers (.deviceRoleTokenReceived p k) s (fun t => (t.devNode p).setup = k.payload ∧
          (t.devNode p).stage = 1 ∧ (t.devNode p).next = 1 ∧
          t.out = .pkt p ⟨Pk.ack, answerFlags k, k.tag.toNat % 4096, 0, 0, 0, 0, []⟩ :: s.out)) ∧
      (k.kind.toNat = Pk.out → 1 ≤ k.handle.toNat % 16 → k.handle.toNat % 16 ≤ 7 → k.payload.length ≤ 192 →
        (s.devNode p).last (k.handle.toNat % 16) ≠ some k.dataSeq.toNat → answers (.deviceRoleTokenReceived p k) s (fun t =>
          (t.devNode p).last (k.handle.toNat % 16) = some k.dataSeq.toNat ∧ t.out = s.out ∧
          if s.cutOffOver k.dataSeq.toNat = true ∧ ¬(k.handle.toNat % 16 = 1 ∧ s.markTrunks = []) then t.mre = s.mre
          else Tbl.get (fun _ => none) t.mre.casc (cascKey p 0 (k.handle.toNat % 16) k.dataSeq.toNat) = some (k.dataSeq.toNat, k.payload))) ∧
      (∀ b, k.kind.toNat = Pk.in_ → 9 ≤ k.handle.toNat % 16 →
        Tbl.get (fun _ => none) s.mre.casc (cascKey p 1 (k.handle.toNat % 16 - 8) (k.seq.toNat + 65535)) =
          some ((k.seq.toNat + 65535) % 65536, b) → answers (.deviceRoleTokenReceived p k) s (fun t =>
          t.out = .pkt p ⟨Pk.data, answerFlags k, k.tag.toNat % 4096, k.handle.toNat, 0, (b.take k.length.toNat).length, k.seq.toNat,
            b.take k.length.toNat⟩ :: s.out))) ∧
    (k.kind.toNat = Pk.bcast → (k.length.toNat % 256 = 1 ∨ k.length.toNat % 256 = 3) → answers (.deviceRoleTokenReceived p k) s (fun t =>
      let ahead := (k.tag.toNat + 65536 - (s.devNode p).mfn) % 65536
      t.out = s.out ∧ if ahead = 0 ∨ 32768 ≤ ahead then (t.devNode p).late = min ((s.devNode p).late + 1) 65535
        else if k.length.toNat % 256 = 1 then (t.devNode p).snapAt = k.tag.toNat :: (s.devNode p).snapAt
        else (t.devNode p).clearAt = k.tag.toNat :: (s.devNode p).clearAt)) ∧
    (k.kind.toNat = 3 → answers (.deviceRoleTokenReceived p k) s (fun t => (t.devNode p).lockedAt = none ∧ t.out = s.out)) ∧
    (k.handle.toNat / 16 ≠ (s.devNode p).addr → k.kind.toNat ≠ Pk.bcast → k.kind.toNat ≠ 3 → k.kind.toNat ≠ Pk.mout →
      answers (.deviceRoleTokenReceived p k) s (fun t => t = s)))


/-! ## Power (R442 to R460, R494) -/

/-- Requests for SATIN, DORMANT and ACTIVE are accepted with their entry points, and a request while one is busy is refused (R443, R444,
R449, R451, R454, R455). -/
def Obligations.SleepRequestsAreAccepted : Prop :=
  ∀ s : State, s.pfServes Reg.PMU_REQ →
    (s.flag Reg.PMU_REQ_STATUS_BUSY = true → ∀ i ∈ [Instr.requestSatin, .requestDormant, .requestActive], answers i s (fun t =>
      t.flag Reg.PMU_REQ_STATUS_REFUSED = true ∧ t.pm = s.pm ∧ s.regsBut [Reg.PMU_REQ_STATUS] t)) ∧
    (s.flag Reg.PMU_REQ_STATUS_BUSY = false → s.returningSatin = false → s.inSatin = false → s.inDormant = false →
      answers .requestSatin s (fun t => ∃ u : State, u.flag Reg.PMU_REQ_STATUS_BUSY = true ∧ u.f Reg.PMU_REQ_STATUS_TARGET = 2 ∧
        u.pm = s.pm ∧ u.sv = s.sv ∧ t = u.acceptSatin) ∧
      (s.sv.audit = none → answers .requestSatin s (fun t => t.flag Reg.PMU_REQ_STATUS_BUSY = true ∧
        t.f Reg.PMU_REQ_STATUS_TARGET = 2 ∧ t.pm.savedCore = s.f Reg.PMU_STATUS_CORE_FOP ∧ t.pm.savedDsp = s.f Reg.PMU_STATUS_DSP_FOP ∧
        t.pm.savedCoreV = s.f Reg.PMU_STATUS_CORE_VOP ∧ t.pm.savedDspV = s.f Reg.PMU_STATUS_DSP_VOP ∧
        t.pm.entryAt = some (if s.lockstep = true ∧ s.isPartner = true then 2 ^ 48 else frameFrom (s.markAfter 8)) ∧
        (s.lockstep = true → s.isPartner = false → t.pu.switchAt = some (true, frameFrom (s.markAfter 8)))))) ∧
    (s.flag Reg.PMU_REQ_STATUS_BUSY = false → s.returningSatin = false → s.inDormant = false → s.dormantReady = true →
      answers .requestDormant s (fun t => t.pm.entryAt = some (s.markAfter 2) ∧ (t.role ≠ 0 → t.pu.abdicate = true) ∧
        ∃ u : State, u.flag Reg.PMU_REQ_STATUS_BUSY = true ∧ u.f Reg.PMU_REQ_STATUS_TARGET = 3 ∧ u.qe = s.qe ∧ t = u.acceptDormant)) ∧
    (s.flag Reg.PMU_REQ_STATUS_BUSY = false → s.inSatin = true → s.returnPending = false → answers .requestActive s (fun t =>
      t.flag Reg.PMU_REQ_STATUS_BUSY = true ∧ t.f Reg.PMU_REQ_STATUS_TARGET = 1 ∧ t.f Reg.PMU_WAKE_LOG_SOURCE = 6 ∧
      t.f Reg.PMU_WAKE_LOG_FROM = 2 ∧ (s.lockstep = false → t.pm.step1At = some (s.mfN + 2))))

/-- SATIN is entered at its mark, with every trunk in LPI, its adaptation frozen, and left in two steps, where a trunk leaves LPI behind its
markers (R78, R86, R93, R136, R224, R226, R261, R449 to R451). DORMANT is entered at its mark: the timebase
and the link stop, and what is not retained is lost (R453, R455). -/
def Obligations.SleepStatesAreEntered : Prop :=
  (∀ s : State,
    (s.satinDue_ = true → answers .satinEntry s (fun t => ∃ v u x : State, v = s.abortAudit ∧ u.inSatin = true ∧ u.flag Reg.PMU_STATUS_RESTORED = false ∧
      u.flag Reg.MRE_STATUS_P0_ONLY = true ∧ u.flag Reg.TS_STATUS_SATIN_WALK = true ∧ u.flag Reg.SV_STATUS_SATIN_MODE = true ∧
      u.f Reg.PMU_STATUS_CORE_FOP = 2 ∧ u.f Reg.PMU_STATUS_CORE_VOP = 2 ∧ u.f Reg.PMU_STATUS_DSP_FOP = 2 ∧
      u.f Reg.PMU_STATUS_DSP_VOP = 2 ∧ u.pm.sleptAt = some v.now ∧ u.pm.entryAt = none ∧ u.pu.switchAt = none ∧
      (∀ p ∈ v.trunks, v.portEnabled p = true → ∀ n ∈ v.lanesOf p, (v.laneState n = Ls.up ∨ v.laneState n = Ls.retraining) →
        u.laneState n = Ls.lpi ∧ u.flag (Reg.LX_LANE_STATUS_ADAPT_FROZEN n) = true) ∧
      (let y := ((u.cutGeneral u.mfN).replan u.mfN).endWaits; x = y.offer y.nodes) ∧
      t = (if v.flag Reg.PMU_REQ_STATUS_BUSY = true ∧ v.pm.entryAt.isSome = true ∧ v.f Reg.PMU_REQ_STATUS_TARGET = 2 then
        x.endRequest St.ok else x).wakeLate)) ∧
    (∀ m, s.inSatin = true → s.pm.step1At = some m → m ≤ s.mfN → answers .satinReturnStep1 s (fun t => ∃ u : State,
      u.inSatin = false ∧ u.f Reg.PMU_STATUS_CORE_FOP = s.pm.savedCore % 4 ∧ u.f Reg.PMU_STATUS_CORE_VOP = s.pm.savedCoreV % 4 ∧
      u.flag Reg.TS_STATUS_SATIN_WALK = false ∧ u.flag Reg.SV_STATUS_SATIN_MODE = false ∧ u.pm.steps = true ∧ u.pm.step1At = none ∧
      u.pu.switchAt = none ∧ (∀ t0, s.pm.sleptAt = some t0 → u.reg Reg.PMU_SLEEP_TIME = BitVec.ofNat 32 ((s.now - t0) / 25000)) ∧
      (∀ p ∈ s.trunks, s.portEnabled p = true → ∀ n ∈ s.lanesOf p, s.laneState n = Ls.lpi → u.laneState n = Ls.up ∧
        ((s.lane n).markerAt + 250 < s.now → Emit.marker n (s.laneByte n) (s.trunkOf n) ∈ u.out)) ∧
      t = (u.replan u.mfN).holdTimers false)) ∧
    (s.pm.steps = true → s.inSatin = false → s.inDormant = false → answers .satinReturnStep2 s (fun t => t.pm.steps = false ∧
      t.f Reg.PMU_STATUS_DSP_FOP = s.pm.savedDsp % 4 ∧ t.f Reg.PMU_STATUS_DSP_VOP = s.pm.savedDspV % 4 ∧
      t.flag Reg.PMU_STATUS_RESTORED = true ∧ (s.flag Reg.PMU_REQ_STATUS_BUSY = true → s.f Reg.PMU_REQ_STATUS_TARGET = 1 →
        t.flag Reg.PMU_REQ_STATUS_BUSY = false ∧ t.flag Reg.PMU_REQ_STATUS_DONE = true ∧ t.f Reg.PMU_REQ_STATUS_STATUS = St.ok)))) ∧
  (∀ (s : State) (m : Nat), s.dormantPending = true → s.pm.entryAt = some m → m ≤ s.mfN → s.inDormant = false →
    answers .dormantEntry s (fun t => t.inDormant = true ∧ t.time.run = false ∧ t.time.mf = s.time.mf ∧ t.ebm.powered = false ∧
      t.bus.xfers = [] ∧ t.bus.per = [] ∧ t.bus.np = [] ∧ t.mre.image = none ∧ t.mre.nodes = [] ∧ t.gd.queue = [] ∧ t.sv.lines = [] ∧
      t.pm.sleptAt = some s.now ∧ t.fn.lostAt = some s.now ∧ t.flag Reg.HIF_STATUS_LINK_UP = false ∧
      t.flag Reg.PMU_STATUS_PWR_RDY = false ∧ t.flag Reg.PMU_STATUS_OSC_RDY = false ∧ t.flag Reg.PMU_STATUS_MEM_RDY = false ∧
      t.flag Reg.PMU_STATUS_LOGIC_RDY = false ∧ t.flag Reg.PMU_REQ_STATUS_BUSY = false ∧ t.flag Reg.PMU_REQ_STATUS_DONE = true ∧
      t.f Reg.PMU_REQ_STATUS_STATUS = St.ok ∧
      (∀ w, s.pm.lateWake = some w → s.wakeEnabled w = true → t.pm.returning = some (wakeCode w) ∧ t.pm.lateWake = none)))

/-- A wake source that is enabled starts the return from SATIN or DORMANT, or ends a request that waits; at E or later it waits for the entry.
The alarm and the management port's address are such sources. A write of TARGET 1 while a request is in progress is refused (R443, R444, R451,
R460, R461). -/
def Obligations.WakesStartTheReturn : Prop :=
  ∀ s : State,
    (∀ w, s.wakeEnabled w = true → s.inSatin = true → s.returnPending = false → s.dormantPending = false →
      (w ≠ .mgt ∧ w ≠ .request ∨ s.flag Reg.PMU_REQ_STATUS_BUSY = false) → answers (.wakeEvent w) s (fun t =>
      t.f Reg.PMU_WAKE_LOG_SOURCE = wakeCode w ∧ t.f Reg.PMU_WAKE_LOG_FROM = 2 ∧ t.flag Reg.PMU_WAKE_LOG_SLEEP_ABORTED = false ∧
      t.f Reg.PMU_WAKE_LOG_WAKES = min (s.f Reg.PMU_WAKE_LOG_WAKES + 1) 65535 ∧
      (s.lockstep = false → t.pm.step1At = some (s.mfN + 2)))) ∧
    (∀ w, s.wakeEnabled w = true → s.inDormant = true → s.pm.returning = none →
      (w = .mgt ∨ w = .pcie ∨ w = .alarm ∨ w = .lybor ∧ s.flag Reg.PMU_POLICY_LYBOR_SQUELCH = true) → answers (.wakeEvent w) s (fun t =>
        t.pm.returning = some (wakeCode w) ∧ t.f Reg.PMU_WAKE_LOG_SOURCE = wakeCode w ∧ t.f Reg.PMU_WAKE_LOG_FROM = 3)) ∧
    (∀ w, (w = .mgt ∨ w = .request) → s.inDormant = false → s.flag Reg.PMU_REQ_STATUS_BUSY = true → answers (.wakeEvent w) s (fun t =>
      t.flag Reg.PMU_REQ_STATUS_REFUSED = true ∧ t.pm = s.pm ∧ s.regsBut [Reg.PMU_REQ_STATUS] t)) ∧
    (∀ w, w ≠ .mgt → w ≠ .request → s.wakeEnabled w = true → s.inDormant = false → s.entryDue = true → answers (.wakeEvent w) s (fun t =>
      t.regs = s.regs ∧ t.pm = { s.pm with lateWake := s.pm.lateWake.or (some w) })) ∧
    (∀ w, w ≠ .mgt → w ≠ .request → s.wakeEnabled w = true → (s.inSatin = false ∨ s.dormantPending = true) → s.inDormant = false →
      s.entryDue = false → s.flag Reg.PMU_REQ_STATUS_BUSY = true → s.pm.entryAt.isSome = true → s.pu.switchAt = none → s.lockstep = false → answers (.wakeEvent w) s (fun t => ∃ u : State,
        u.flag Reg.PMU_WAKE_LOG_SLEEP_ABORTED = true ∧ u.f Reg.PMU_WAKE_LOG_SOURCE = wakeCode w ∧
        t = (u.endRequest St.abortedByWake).rescan)) ∧
    (∀ t0, s.reg Reg.PMU_ALARM ≠ 0 → s.pm.sleptAt = some t0 → s.flag Reg.PMU_WAKE_EN_ALARM = true →
      (s.inSatin = true → t0 + (s.reg Reg.PMU_ALARM).toNat * 25000 ≤ s.now → s.returnPending = false → s.dormantPending = false → answers .alarmExpiry s (fun t =>
        t.f Reg.PMU_WAKE_LOG_SOURCE = 4 ∧ (s.lockstep = false → t.pm.step1At = some (s.mfN + 2)))) ∧
      (s.inDormant = true → s.pm.returning = none → answers .alarmExpiry s (fun t => t.pm.returning = some 4 ∧
        t.f Reg.PMU_WAKE_LOG_SOURCE = 4))) ∧
    (s.mgtLive = true → s.inDormant = true → s.flag Reg.PMU_WAKE_EN_MGT = true → s.pm.returning = none →
      (∀ a : BitVec 7, a.toNat = 0x58 + s.ck.i2c → answers (.mgtAddressMatch a) s (fun t => t.pm.returning = some 1)) ∧
      (∀ off v, answers (.mgtRegisterWrite off v) s (fun t => t.pm.returning = some 1 ∧ t.ck = s.ck)))

/-- The return from DORMANT goes signal by signal; with LOGIC_RDY the device is ACTIVE and its clock runs on (R180, R456 to R458). -/
def Obligations.DormantIsLeftSignalBySignal : Prop :=
  ∀ s : State, s.inDormant = true →
    (s.pm.returning.isSome = true → answers .pwrRdy s (fun t => t.flag Reg.PMU_STATUS_PWR_RDY = true ∧ s.regsBut [Reg.PMU_STATUS] t)) ∧
    (s.flag Reg.PMU_STATUS_PWR_RDY = true → answers .oscRdy s (fun t => t.flag Reg.PMU_STATUS_OSC_RDY = true ∧
      s.regsBut [Reg.PMU_STATUS] t)) ∧
    (s.flag Reg.PMU_STATUS_OSC_RDY = true → s.flag Reg.PMU_STATUS_MEM_RDY = false → answers .memRdy s (fun t =>
      t.flag Reg.PMU_STATUS_MEM_RDY = true ∧ t.ebm.powered = true ∧ ∀ a, 0x02000000 ≤ a →
        t.ebmByte a = if nbit (s.reg Reg.EBM_RETAIN).toNat (a / 0x400000) then s.ebmByte a else 0)) ∧
    (∀ (mf : MfNum) (ms : Word), s.flag Reg.PMU_STATUS_MEM_RDY = true → answers (.logicRdy mf ms) s (fun t =>
      t.time.mf = s.time.mf + mf ∧ t.time.run = true ∧ t.time.phase = 0 ∧ t.pm.returning = none ∧ t.pm.sleptAt = none ∧
      ∃ u x y : State, u.f Reg.PMU_STATUS_STATE = 0 ∧ u.flag Reg.PMU_STATUS_LOGIC_RDY = true ∧ u.flag Reg.PMU_STATUS_RESTORED = true ∧
        u.reg Reg.PMU_SLEEP_TIME = ms ∧ u.f Reg.PMU_STATUS_CORE_FOP = 0 ∧ u.f Reg.PMU_STATUS_DSP_FOP = 0 ∧
        x = s.pm.ports.foldl (fun z p => z.portResume p false) u ∧ y = (if x.flag Reg.PU_CTRL_EN then x.pairStart else x) ∧
        t = (if y.f Reg.PU_STATUS_TIME_SRC = 0 then y.freeRun else y).tmBegins))

/-- Voltage and frequency steps (R445 to R448), and the temperature (R494). -/
def Obligations.OperatingPointsStep : Prop :=
  ∀ s : State,
    (∀ (d : DvfsDomain) (op : BitVec 2), s.pfServes Reg.PMU_DVFS →
      (s.dvfsReason (domainNo d) 0 op.toNat = 0 → s.f (vopOf (domainNo d)) ≠ op.toNat → answers (.dvfsVoltageStep d op) s (fun t =>
        t.pm.dvfs = some (domainNo d, 0, op.toNat) ∧ t.flag Reg.PMU_DVFS_STATUS_BUSY = true ∧ s.regsBut [Reg.PMU_DVFS_STATUS] t)) ∧
      (s.dvfsReason (domainNo d) 1 op.toNat = 0 → s.f (fopOf (domainNo d)) ≠ op.toNat → answers (.dvfsFrequencyStep d op) s (fun t =>
        t.f (fopOf (domainNo d)) = op.toNat ∧ s.regsBut [Reg.PMU_STATUS] t ∧ t.pm = s.pm)) ∧
      (s.dvfsReason (domainNo d) 0 op.toNat ≠ 0 → answers (.dvfsVoltageStep d op) s (fun t =>
        t.flag Reg.PMU_DVFS_STATUS_REFUSED = true ∧ t.f Reg.PMU_DVFS_STATUS_REASON = s.dvfsReason (domainNo d) 0 op.toNat ∧
        t.f Reg.PMU_DVFS_STATUS_DOMAIN = domainNo d ∧ t.f Reg.PMU_DVFS_STATUS_KIND = 0 ∧ t.f Reg.PMU_DVFS_STATUS_OP = op.toNat ∧
        t.f Reg.PMU_DVFS_STATUS_REFUSALS = min (s.f Reg.PMU_DVFS_STATUS_REFUSALS + 1) 65535 ∧ t.pm = s.pm))) ∧
    (∀ d k op, s.pm.dvfs = some (d, k, op) → answers .dvfsVoltageDone s (fun t => t.f (vopOf d) = op % 4 ∧
      t.flag Reg.PMU_DVFS_STATUS_BUSY = false ∧ t.pm.dvfs = none)) ∧
    (∀ c : BitVec 9, answers (.tempSample c) s (fun t => t.f Reg.GLB_THERM_TEMP = c.toNat ∧ s.regsBut [Reg.GLB_THERM] t ∧
      t.flag Reg.GLB_THERM_ABOVE = (decide ((s.f Reg.GLB_THERM_THRESH : Int) ≤ c.toInt) ||
        (s.flag Reg.GLB_THERM_ABOVE && decide ((s.f Reg.GLB_THERM_THRESH : Int) - 2 ≤ c.toInt))) ∧
      (t.flag Reg.GLB_THERM_ABOVE = true → s.flag Reg.GLB_THERM_ABOVE = false → t.flag Reg.GLB_THERM_CROSSED = true)))

/-! ## Clocks, resets, boot, flash (R26, R435, R459, R461, R462, R465 to R478) -/

/-- References are acquired and lost, and a cold reset, a supply loss, PERST_N and the warm reset take their effect (R26, R459, R465 to
R470, R475). -/
def Obligations.ResetsTakeEffect : Prop :=
  ∀ s : State,
    (s.flag Reg.CKG_STATUS_ROOT_LOCK = false → s.ck.porst = false → answers (.referenceAcquired .refclk) s (fun t =>
      t.ck.refclk = true ∧ t.flag Reg.CKG_STATUS_REFCLK_PRESENT = true ∧ t.flag Reg.CKG_STATUS_ROOT_LOCK = true ∧
      t.f Reg.CKG_STATUS_SRC = 0 ∧ t.time.run = true ∧ t.flag Reg.PU_STATUS_MASTER = true ∧ t.f Reg.PU_STATUS_TIME_SRC = 0)) ∧
    (answers (.referenceAcquired .cascade) s (fun t => ∃ u : State, u.ck.cascade = true ∧ u.regs = s.regs ∧ t = u.reselect) ∧
      answers (.referenceAcquired .miodel) s (fun t => ∃ u : State, u.ck.miodel = true ∧ u.regs = s.regs ∧ t = u.reselect)) ∧
    (∀ r, s.refPresent r = true → answers (.referenceLost r) s (fun t => ∃ u : State, u.refPresent r = false ∧
      u.f Reg.CKG_REF_EVENTS_LOSSES = min (s.f Reg.CKG_REF_EVENTS_LOSSES + 1) 65535 ∧ t = u.reselect)) ∧
    (∀ i ∈ [Instr.coldReset, .supplyLoss], answers i s (fun t => t.ck.porst = true ∧ t.time = State.reset.time ∧ t.qe = State.reset.qe ∧
      t.ts = State.reset.ts ∧ t.fn = State.reset.fn ∧ t.mre = State.reset.mre ∧ t.ebm = State.reset.ebm ∧ t.pu = PairSt.zero ∧
      t.pending = s.pending ∧ t.out = s.out ∧ t.reg Reg.GLB_GPIO_IN = s.reg Reg.GLB_GPIO_IN ∧
      t.flag Reg.CKG_STATUS_REFCLK_PRESENT = s.ck.refclk ∧ t.regs.all (fun x => x.1 == Reg.GLB_GPIO_IN || x.1 == Reg.CKG_STATUS ||
        x.1 == Reg.PMU_STATUS) = true ∧ (s.ck.flashOp = none → t.ck.flash = s.ck.flash) ∧
      (t.pm.off = true ↔ i = .supplyLoss) ∧ (i = .supplyLoss → t.f Reg.PMU_STATUS_STATE = 4))) ∧
    (∀ straps : BitVec 7, s.ck.porst = true → s.pm.off = false → answers (.coldResetRelease straps) s (fun t => t.ck.porst = false ∧
      t.ck.i2c = straps.toNat / 16 ∧ t.reg Reg.RSQ_STRAPS = straps.setWidth 32 ∧ t.f Reg.PU_CFG_SIDE = straps.toNat % 2 ∧
      t.f Reg.PU_CFG_RANK = straps.toNat / 2 % 8 ∧ (s.ck.refclk = true → t.time.run = true ∧ t.flag Reg.CKG_STATUS_ROOT_LOCK = true))) ∧
    (answers .fundamentalReset s (fun t => t.ck.perst = true ∧ (s.ck.porst = false → s.time.run = true → t.ck.fundamental = true ∧
        (s.role ≠ 0 → t.pu.abdicate = true) ∧ t.regs = s.regs)) ∧
      (s.ck.porst = false → s.time.run = false → s.inDormant = false → answers .fundamentalReset s (fun t => ∃ u : State,
        u.ck.perst = true ∧ u.ck.fundamental = true ∧ u.regs = s.regs ∧ t = u.fundamentalNow))) ∧
    (s.time.run = true → s.ck.fundamental = true → answers .microframeMark s (fun t => t = s.tickMark.fundamentalNow)) ∧
    (s.time.run = true → s.ck.fundamental = false → s.ck.warm = true → s.ck.warmMark = true → answers .microframeMark s (fun t =>
      ∃ u : State, u.ck.warmMark = false ∧ u.ck.warm = true ∧ u.regs = s.regs ∧ t = u.mark.warmNow.afterMark)) ∧
    (s.ck.perst = true → answers .perstRelease s (fun t => t.ck.perst = false ∧ (s.inDormant = true → s.pm.returning = none →
      t.pm.returning = some 3 ∧ t.f Reg.PMU_WAKE_LOG_SOURCE = 3) ∧
      (s.inDormant = false → ∃ u : State, u.ck.perst = false ∧ u.regs = s.regs ∧ u.pm = s.pm ∧ t = u.wake .pcie))) ∧
    (∀ v : Word, s.pfServes Reg.CKG_RESET → bits v 0 16 = 0x5752 → bits v 16 1 = 1 → s.ck.warm = false → answers (.warmReset v) s (fun t =>
      t.ck.warm = true ∧ t.ck.warmMark = true ∧ t.f Reg.CKG_RESET_CAUSE_CAUSE = 4 ∧
      t.f Reg.CKG_RESET_CAUSE_WARMS = min (s.f Reg.CKG_RESET_CAUSE_WARMS + 1) 65535 ∧ (s.role ≠ 0 → t.pu.abdicate = true))) ∧
    (∀ v : Word, s.pfServes Reg.CKG_RESET → (bits v 0 16 ≠ 0x5752 ∨ bits v 16 1 = 0) → answers (.warmReset v) s (fun t => t = s)) ∧
    (s.halted = true → answers .warmResetEnd s (fun t => ∃ u x : State, u.ck.warm = false ∧ u.f Reg.PU_STATUS_TIME_SRC = 0 ∧
      x = (if u.flag Reg.PU_CTRL_EN then u.pairStart else u) ∧ t = x.tmBegins.rescan))

/-- RSQ boots from the first slot that it can, its watchdog restarts it twice and halts it the third time, and it restarts on request
(R471 to R473, R476 to R478). -/
def Obligations.RsqBootsAndIsWatched : Prop :=
  ∀ s : State,
    (s.ck.porst = false → s.ck.perst = false → s.ck.fundamental = false → s.ck.booted = false → s.ck.rsqRestart = false →
      s.inDormant = false →
      ((s.flashHeaderOk = false ∨ s.slotOrder.find? s.slotBoots = none) → answers .bootLoadComplete s (fun t => ∃ u : State,
        u.ck.booted = true ∧ u.flag Reg.RSQ_STATUS_NO_IMAGE = true ∧ u.flag Reg.GLB_ERR_FAULT = true ∧
        t = u.captureError 0xE 0 8 noFunction 0 0)) ∧
      (∀ i, s.flashHeaderOk = true → s.slotOrder.find? s.slotBoots = some i → answers .bootLoadComplete s (fun t => ∃ u x : State,
        u.ck.booted = true ∧ u.flag Reg.RSQ_STATUS_RUNNING = true ∧ u.f Reg.RSQ_STATUS_BOOT_SLOT = i % 2 ∧
        u.flag Reg.RSQ_STATUS_FALLBACK = decide (s.slotOrder.head? ≠ some i) ∧ u.f Reg.RSQ_FW_VER_VER = field (s.slotHeader i) 36 4 ∧
        u.f Reg.MRE_UCODE_VER_VER = field (s.slotHeader i) 32 4 ∧ u.ck.flash = s.ck.flash ∧
        x = ((u.applyConfig (s.bootConfig i)).updCk (fun k => { k with wdtAt := s.now })).setB Reg.HIF_STATUS_OPERATIONAL true ∧
        t = (if nbit (field (s.bootConfig i) 5 1) 0 then (x.setB Reg.PU_CTRL_EN true).pairStart else x).rescan))) ∧
    (s.flag Reg.RSQ_STATUS_RUNNING = true → s.periodOver = true →
      let l := s.ck.expiries.filter (fun e => decide (s.now < e + countedTicks))
      (l.length < 2 → answers .watchdogExpiry s (fun t => t.ck.expiries = s.now :: l ∧ t.ck.rsqRestart = true ∧
        t.flag Reg.RSQ_STATUS_RUNNING = false ∧ t.f Reg.RSQ_STATUS_COUNTED = l.length + 1 ∧
        t.f Reg.RSQ_WDT_EXPIRIES = min (s.f Reg.RSQ_WDT_EXPIRIES + 1) 65535)) ∧
      (2 ≤ l.length → answers .watchdogExpiry s (fun t => ∃ u x : State, u.ck.expiries = s.now :: l ∧
        u.flag Reg.RSQ_STATUS_RUNNING = false ∧ u.flag Reg.RSQ_STATUS_RSQ_FAILED = true ∧ u.f Reg.RSQ_STATUS_COUNTED = 3 ∧
        u.flag Reg.GLB_ERR_FAULT = true ∧ x = u.captureError 0xE 0 7 noFunction 0 0 ∧ t = if x.isHolder then x.abdicate else x))) ∧
    answers .watchdogCountExpiry s (fun t => t.ck.expiries = s.ck.expiries.filter (fun e => decide (s.now < e + countedTicks)) ∧
      t.f Reg.RSQ_STATUS_COUNTED = min 3 t.ck.expiries.length ∧ s.regsBut [Reg.RSQ_STATUS] t) ∧
    (s.flag Reg.RSQ_STATUS_RUNNING = true → answers .watchdogCountRestart s (fun t => t.ck.wdtAt = s.now ∧ t.regs = s.regs)) ∧
    (s.pfServes Reg.RSQ_CTRL → s.flag Reg.RSQ_STATUS_RUNNING = true → answers .rsqRestart s (fun t => t.ck.rsqRestart = true ∧
      t.flag Reg.RSQ_STATUS_RUNNING = false ∧ s.regsBut [Reg.RSQ_STATUS] t)) ∧
    (s.ck.rsqRestart = true → answers .rsqRestartDone s (fun t => t.ck.rsqRestart = false ∧ t.ck.wdtAt = s.now ∧
      t.flag Reg.RSQ_STATUS_RUNNING = true ∧ s.regsBut [Reg.RSQ_STATUS] t))

/-- Flash commands and the management port (R461, R462, R474). -/
def Obligations.FlashAndManagementPortServe : Prop :=
  ∀ s : State,
    (s.pfServes Reg.RSQ_FLASH_CMD → s.flag Reg.RSQ_FLASH_STATUS_BUSY = false → ∀ p ∈ [(Instr.flashRead, 0), (.flashProgram, 1), (.flashErase, 2)],
      answers p.1 s (fun t => t.ck.flashOp = some (p.2, s.f Reg.RSQ_FLASH_ADDR_ADDR) ∧ t.flag Reg.RSQ_FLASH_STATUS_BUSY = true ∧
        t.ck.flash = s.ck.flash ∧ s.regsBut [Reg.RSQ_FLASH_STATUS] t)) ∧
    (∀ op a, s.ck.flashOp = some (op, a) → s.ck.rsqRestart = false → s.flag Reg.RSQ_STATUS_RSQ_FAILED = false →
      (s.flashStatus op a ≠ St.ok → answers .flashCommandDone s (fun t => t.ck.flashOp = none ∧ t.ck.flash = s.ck.flash ∧
        t.flag Reg.RSQ_FLASH_STATUS_BUSY = false ∧ t.flag Reg.RSQ_FLASH_STATUS_DONE = true ∧
        t.f Reg.RSQ_FLASH_STATUS_STATUS = s.flashStatus op a)) ∧
      (s.flashStatus op a = St.ok → answers .flashCommandDone s (fun t => t.ck.flashOp = none ∧ t.out = .flash op a :: s.out ∧
        t.flag Reg.RSQ_FLASH_STATUS_BUSY = false ∧ t.flag Reg.RSQ_FLASH_STATUS_DONE = true ∧ t.f Reg.RSQ_FLASH_STATUS_STATUS = St.ok ∧
        (op = 0 → t.ck.flash = s.ck.flash ∧ t.flashBuf = s.flashBytes a 256) ∧
        (op = 1 → t.flashBytes a 256 = s.flashBuf ∧ ∀ b, (b < a ∨ a + 256 ≤ b) → t.flashBytes b 1 = s.flashBytes b 1) ∧
        (op = 2 → t.flashBytes a 0x10000 = List.replicate 0x10000 0xFF ∧
          ∀ b, (b < a ∨ a + 0x10000 ≤ b) → t.flashBytes b 1 = s.flashBytes b 1)))) ∧
    (∀ (off : Byte) (v : Word), s.mgtLive = true → s.inDormant = false →
      (128 ≤ off.toNat → answers (.mgtRegisterWrite off v) s (fun t => s.regsBut [4 * (off.toNat % 128)] t ∧
        t.reg (4 * (off.toNat % 128)) = (match regSpec (4 * (off.toNat % 128)) with
          | some r => writeMasked r (s.reg (4 * (off.toNat % 128))) v
          | none => s.reg (4 * (off.toNat % 128))))) ∧
      (mgtAddr off.toNat = Reg.PMU_WAKE_LOG → answers (.mgtRegisterRead off) s (fun t =>
        t.out = .mgt (s.reg Reg.PMU_WAKE_LOG) :: s.out ∧ t.pm.alertWake = false ∧ t.pm.alertDone = false)))


/-! ## The whole machine -/

/-- The command at the front of the queue is carried out on the state that holds the queue's rest. With an empty queue a tick passes (the
model's choice, DESIGN CHOICE of log entry 1): the tick and the phase advance by 1 while the timebase runs and the microframe has a tick left
(R26), and nothing else changes; otherwise the block idles. -/
def Obligations.StepRunsTheFrontCommand : Prop :=
  (∀ (c : Instr) (r : List Instr) (s : State), s.pending = c :: r → step s = exec c { s with pending := r }) ∧
  (∀ s : State, s.pending = [] →
    (s.time.run = true → s.time.phase < 3124 →
      ∃ t, step s = .next t ∧ t.time.tick = s.time.tick + 1 ∧ t.time.phase = s.time.phase + 1 ∧ t.time.mf = s.time.mf ∧
        t.time.run = true ∧ t.time.cutOff = s.time.cutOff ∧ State.only [.time] s t) ∧
    ((s.time.run = false ∨ 3124 ≤ s.time.phase) → step s = .next s))

/-- What the trace of a trunk is on its lanes (R39, R40, R42, R73, R75 to R78). A block is 66 bits: its sync header, then its payload, scrambled
unless it is a marker or a training header; a descrambler gives the sent bits back, after 58 bits from whatever state it started in. Block i of
a trunk of w lanes goes out on lane i mod w. Every data block is whole, a control block (an 8-byte one such as RETRAIN too) stands between whole ones, and a
packet after it begins a block. From the byte stream of packets that run back to back a receiver finds those packets and loses no delineation; every packet of the trace
is one. A marker that is sent is taken for one, with its place, its port and its BIP. -/
def Obligations.LinesCarryBlocksAndPackets : Prop :=
  let whole (b : List Byte) : Prop := ∃ k r, b = k :: r ∧ packetKinds.contains k.toNat = true ∧
    b.length = packetLen k.toNat (field b 8 2) ∧ (k = 0x40 → field b 8 2 ≤ 1024)
  (∀ (st u : Nat) (l : List Bool),
    let sent := (throughBits scrambleBit st l).1
    sent.length = l.length ∧ (throughBits descrambleBit st sent).1 = l ∧ (throughBits descrambleBit u sent).1.drop 58 = l.drop 58) ∧
  (∀ (b : Block) (st : Nat), b.payload.length = 8 → (b.line st).1.length = 66 ∧ (b.line st).1.take 2 = [b.control, !b.control] ∧
    (b.line st).1.drop 2 = if b.control = true ∧ (b.typ = 0xA5 ∨ b.typ = 0xC3) then lineBits b.payload
      else (throughBits scrambleBit st (lineBits b.payload)).1) ∧
  (∀ (w n i : Nat) (l : List Block), n < w → (stripe w n l)[i]? = l[i * w + n]?) ∧
  (∀ (l m : List LineItem) (t : Nat), (∀ b ∈ trunkBlocks l, b.payload.length = 8) ∧
    trunkBlocks (l ++ .ctl t :: m) = trunkBlocks l ++ ctlBlock t :: trunkBlocks m ∧
    ∀ p : BitVec 64, trunkBlocks (l ++ .raw p :: m) = trunkBlocks l ++ ⟨true, leBytes 8 p.toNat⟩ :: trunkBlocks m) ∧
  (∀ (l : List (List Byte)) (n : Nat), (∀ b ∈ l, whole b) →
    let bytes := (trunkBlocks (l.map LineItem.pkt)).flatMap (·.payload)
    bytes.length ≤ n → delineate n 8 bytes = l.map some) ∧
  (∀ p : Pkt, packetKinds.contains p.kind = true → (if p.kind = 0x40 then p.len = p.payload.length ∧ p.len ≤ 1024 else p.payload = []) →
    whole (wireBytes p)) ∧
  (∀ laneByte port bip : Byte, let b := leBytes 8 (markerRaw laneByte.toNat port.toNat bip.toNat).toNat
    markerGood (markerRaw laneByte.toNat port.toNat bip.toNat) = true ∧ field b 1 1 = laneByte.toNat ∧ field b 2 1 = port.toNat ∧
    field b 3 1 = bip.toNat)

/-- Right after a cold reset every register holds its reset value (R500), the tick counter and the microframe number are 0 and the timebase
stands (R26), every byte of endpoint buffer memory is 0 (R179), every lane is DISABLED and every root port is OFF (R97, R98, R127), every
slot granule is free (R163), nothing is queued, started, staged or granted, and all stores are in canonical form. The model's choices in it:
empty unit records (log entry 23), fuses (19), straps (20), the pins' levels (21). -/
def Obligations.ResetLeavesTheStatedValues : Prop :=
  State.reset.ok ∧ State.reset.pending = [] ∧ State.reset.out = [] ∧ (∀ a, State.reset.reg a = regReset a) ∧
  State.reset.time = ⟨0, 0, 0, false, false, false⟩ ∧ (∀ a n, State.reset.ebmRead a n = List.replicate n 0) ∧
  (∀ n : LaneId, State.reset.reg (Reg.LX_LANE_STATUS n) = 0x80 ∧ State.reset.reg (Reg.LX_TX_TAPS n) = 0xC3004 ∧
    State.reset.laneState n = Ls.disabled) ∧
  (∀ p : Trunk, State.reset.portState p = Ps.off) ∧
  State.reset.slotFree = 1310720 ∧ State.reset.qe.cache = [] ∧ State.reset.qe.started = [] ∧ State.reset.ts.commit = none ∧
  State.reset.ts.sealed_ = [] ∧ State.reset.fn.grants = [] ∧ State.reset.fn.vfEnable = false ∧
  State.reset.flag Reg.EBM_STATUS_INIT_DONE = false ∧ State.reset.flag Reg.HIF_STATUS_CONFIG_READY = false

/-- Every step keeps the canonical form of the register file, of endpoint buffer memory and of flash: keys rise and no entry equals what an
unlisted key holds. -/
def Obligations.StepKeepsCanonicalForm : Prop :=
  ∀ s t : State, s.ok → step s = .next t → t.ok

/-- No command stops the block: every command answers a next state in every state, and a run of any length goes on. -/
def Obligations.EveryCommandGoesOn : Prop :=
  (∀ (i : Instr) (s : State), ∃ t, exec i s = .next t) ∧ ∀ (n : Nat) (s : State), s.goesOn n

/-- The frame of every command: from a state to the next one the queue stays, and at most the parts that `parts` names for the command
change. -/
def Obligations.CommandsChangeOnlyTheirParts : Prop :=
  ∀ (i : Instr) (s t : State), exec i s = .next t → State.only (parts i) s t

/-- No step takes back what the device has put out (the trace `out`, newest first, grows at its front), and the counter of free values never
falls (both are fields of the model: log entries 2 and 3). -/
def Obligations.OutputAndFreeValuesOnlyGrow : Prop :=
  ∀ s t : State, step s = .next t → s.out <:+ t.out ∧ s.free ≤ t.free

/-- The frame of the commands of one lane and of the small status events: the registers they leave alone, and the other lanes' records. -/
def Obligations.SmallCommandsLeaveOtherRegisters : Prop :=
  (∀ (s t : State) (n : LaneId),
    ((∃ raw inv, exec (.trainHeaderReceived n raw inv) s = .next t) ∨ exec (.laneTrainStart n) s = .next t ∨
        exec (.failedRetryTimer n) s = .next t ∨ exec (.blockLockLost n) s = .next t →
      s.regsBut [Reg.LX_LANE_STATUS n, Reg.LX_TX_TAPS n, Reg.LX_PRBS_STATUS n, Reg.CKG_STATUS, Reg.CKG_REF_EVENTS] t ∧
      ∀ m, m ≠ n.val → t.lane m = s.lane m) ∧
    ((∃ m, exec (.adaptationConverged n m) s = .next t) → s.regsBut [] t ∧ ∀ m, m ≠ n.val → t.lane m = s.lane m) ∧
    ((∃ m, exec (.markerReceived n m) s = .next t) →
      s.regsBut [Reg.LX_LANE_STATUS n, Reg.LX_BIP_ERRORS n] t ∧ ∀ m, m ≠ n.val → t.lane m = s.lane m) ∧
    (exec (.adaptationFreeze n) s = .next t → s.regsBut [Reg.LX_LANE_STATUS n, Reg.LX_IDLE_FREEZES n] t) ∧
    (exec (.adaptationResume n) s = .next t → s.regsBut [Reg.LX_LANE_STATUS n] t) ∧
    (exec (.marginCheckStart n) s = .next t → s.regsBut [Reg.LX_EYE_STATUS n] t) ∧
    ((∃ c, exec (.eyePointDone n c) s = .next t) → s.regsBut [Reg.LX_EYE_STATUS n, Reg.LX_EYE_COUNT n] t) ∧
    (exec (.prbsLock n) s = .next t → s.regsBut [Reg.LX_PRBS_STATUS n] t ∧ ∀ m, m ≠ n.val → t.lane m = s.lane m) ∧
    ((∃ e, exec (.prbsLockLost ⟨n, e⟩) s = .next t) → s.regsBut [Reg.LX_PRBS_STATUS n, Reg.LX_PRBS_ERRORS n] t)) ∧
  (∀ s t : State,
    ((∃ c, exec (.tempSample c) s = .next t) → s.regsBut [Reg.GLB_THERM] t) ∧
    (exec .pwrRdy s = .next t ∨ exec .oscRdy s = .next t → s.regsBut [Reg.PMU_STATUS] t) ∧
    (exec .dvfsVoltageDone s = .next t → s.regsBut [Reg.PMU_STATUS, Reg.PMU_DVFS_STATUS] t) ∧
    (exec .aspmL1Request s = .next t → s.regsBut [Reg.HIF_ASPM] t) ∧
    (exec .configReady s = .next t → s.regsBut [Reg.HIF_STATUS] t) ∧
    (exec .rsqRestartDone s = .next t ∨ exec .watchdogCountExpiry s = .next t → s.regsBut [Reg.RSQ_STATUS] t) ∧
    ((∃ x, exec (.miodelFrameCrcFail x) s = .next t) ∨ exec .miodelResendTimeout s = .next t → s.regsBut [Reg.PU_MIODEL_ERRORS] t) ∧
    ((∃ r, exec (.referenceLost r) s = .next t) → s.regsBut [Reg.CKG_STATUS, Reg.CKG_REF_EVENTS] t) ∧
    (∀ k : CrcFail, exec (.corruptPacketReceived k) s = .next t → s.regsBut [Reg.LNK_RX_CRC k.trunk, Reg.LNK_PARITY k.trunk] t))

/-- The context of handle h lies at EBM address h × 32, its eight dwords little-endian from there on, and granule g of the slot pool at
0x0200_0000 + g × 64 (R159): what a dword is set to is read there, and a write of it leaves every byte outside those four as it was. -/
def Obligations.ContextsAndGranulesLieWhereTheSpecPutsThem : Prop :=
  (∀ (s : State) (h d : Nat) (v : Word), h < 1048576 → d < 8 →
    (s.setCtx h d v).ctx h d = v ∧
    (s.setCtx h d v).ebmRead (h * 32 + 4 * d) 4 =
      [BitVec.ofNat 8 v.toNat, BitVec.ofNat 8 (v.toNat / 256), BitVec.ofNat 8 (v.toNat / 65536), BitVec.ofNat 8 (v.toNat / 16777216)] ∧
    (∀ a, a < h * 32 + 4 * d ∨ h * 32 + 4 * d + 4 ≤ a → (s.setCtx h d v).ebmRead a 1 = s.ebmRead a 1) ∧
    (∀ h' d', d' < 8 → ¬(h' = h ∧ d' = d) → (s.setCtx h d v).ctx h' d' = s.ctx h' d')) ∧
  (∀ (s : State) (h d : Nat), h < 1048576 → d < 8 → ∀ b0 b1 b2 b3, s.ebmRead (h * 32 + 4 * d) 4 = [b0, b1, b2, b3] →
    (s.ctx h d).toNat = b0.toNat + 256 * b1.toNat + 65536 * b2.toNat + 16777216 * b3.toNat) ∧
  (∀ g, g < 1310720 → granuleAddr g = 0x02000000 + g * 64)

/-- The sizes of slots, of periodic endpoints and multicast groups as they are staged, and of bulk, tunnel and control endpoints (R162); and
what the remote windows of the PF map: window w is device XB_WIN_CFG.DEVICE while EN is 1, and byte x is the INDEX
XB_WIN_BASE.BASE × 0x0100_0000 + x of the REGISTER_READ and REGISTER_WRITE that carry an access (R393). -/
def Obligations.SlotSizesAndWindowsOfThePf : Prop :=
  (∀ l, periodicGranules l = 2 * max 1 ((l + 63) / 64) ∧
    (l ≤ 192 → periodicGranules l = 2 ∨ periodicGranules l = 4 ∨ periodicGranules l = 6)) ∧
  (∀ (s t : State) (key l : Nat), l ≤ 192 → s.slotOf key = none → s.stageSlot key l = .ok t →
    ∃ g, t.slotOf key = some (g, periodicGranules l)) ∧
  (∀ (s : State) (h : Nat), (s.cf h Cx.kind = 2 → h % 8 = 0 → s.npGranules h = 16) ∧
    (s.cf h Cx.kind = 1 ∨ s.cf h Cx.kind = 3 → h % 8 ≠ 0 → s.npGranules h = s.cf h Cx.window * s.cf h Cx.maxPacket / 64)) ∧
  (∀ (s : State) (w : Fin 256), viewSize (viewKey (.pf w)) = 0x1000000 ∧
    s.viewDev (viewKey (.pf w)) = s.f (Reg.XB_WIN_CFG_DEVICE w) ∧
    s.viewConfigured (viewKey (.pf w)) = s.flag (Reg.XB_WIN_CFG_EN w) ∧
    ∀ x, x < 0x1000000 →
      s.viewIndex (viewKey (.pf w)) x = s.f (Reg.XB_WIN_BASE_BASE w) * 0x1000000 + x ∧
      ∀ n, regSetup false n (s.viewIndex (viewKey (.pf w)) x) = setup 0x80 0x10 n (s.f (Reg.XB_WIN_BASE_BASE w) * 0x1000000 + x) n ∧
        regSetup true n (s.viewIndex (viewKey (.pf w)) x) = setup 0 0x11 n (s.f (Reg.XB_WIN_BASE_BASE w) * 0x1000000 + x) n)

end
end

