-- ==== Sys2Proof/Laws/Tbl.lean ====
section
/-! SUPPORT. What the operations on sparse tables do: a read after a write, and that every operation keeps the canonical form. -/

set_option Elab.async false

namespace Sys2Proof.Machine

section
variable {α : Type}

/-! ## Rising keys -/

theorem Tbl.rising_mono {m : Tbl α} {a b : Nat} (h : b ≤ a) : Tbl.rising a m = true → Tbl.rising b m = true := by
  cases m with
  | nil => intro; rfl
  | cons e r => simp only [Tbl.rising, Bool.and_eq_true, decide_eq_true_eq]; rintro ⟨h1, h2⟩; exact ⟨by omega, h2⟩

/-- Below the first key of a rising table every key holds the default. -/
theorem Tbl.get_of_lt {d : Nat → α} {m : Tbl α} {b k : Nat} (h : Tbl.rising b m = true) (hk : k < b) : Tbl.get d m k = d k := by
  induction m generalizing b with
  | nil => rfl
  | cons e r ih =>
    obtain ⟨a, w⟩ := e
    simp only [Tbl.rising, Bool.and_eq_true, decide_eq_true_eq] at h
    have : a ≠ k := by omega
    simp only [Tbl.get, this, if_false]
    exact ih h.2 (by omega)

/-! ## Reads after writes -/

theorem Tbl.get_put_same {d : Nat → α} (m : Tbl α) (k : Nat) (v : α) : Tbl.get d (Tbl.put m k v) k = v := by
  induction m with
  | nil => simp [Tbl.put, Tbl.get]
  | cons e r ih => obtain ⟨a, w⟩ := e; simp only [Tbl.put]; split <;> [skip; split] <;> simp_all [Tbl.get]

theorem Tbl.get_put_other {d : Nat → α} (m : Tbl α) {k k' : Nat} (v : α) (h : k' ≠ k) :
    Tbl.get d (Tbl.put m k v) k' = Tbl.get d m k' := by
  induction m with
  | nil => simp [Tbl.put, Tbl.get, Ne.symm h]
  | cons e r ih =>
    obtain ⟨a, w⟩ := e
    simp only [Tbl.put]
    split
    · simp [Tbl.get, Ne.symm h]
    · split
      · next h2 => subst h2; simp [Tbl.get, Ne.symm h]
      · simp only [Tbl.get]; split <;> [rfl; exact ih]

theorem Tbl.get_del_other {d : Nat → α} (m : Tbl α) {k k' : Nat} (h : k' ≠ k) :
    Tbl.get d (Tbl.del m k) k' = Tbl.get d m k' := by
  induction m with
  | nil => rfl
  | cons e r ih =>
    obtain ⟨a, w⟩ := e
    simp only [Tbl.del]
    split
    · next h2 => subst h2; simp [Tbl.get, Ne.symm h, ih]
    · simp only [Tbl.get]; split <;> [rfl; exact ih]

theorem Tbl.get_del_same {d : Nat → α} (m : Tbl α) (k : Nat) : Tbl.get d (Tbl.del m k) k = d k := by
  induction m with
  | nil => rfl
  | cons e r ih =>
    obtain ⟨a, w⟩ := e
    simp only [Tbl.del]
    split
    · exact ih
    · next h2 => simp only [Tbl.get, h2, if_false]; exact ih

variable [DecidableEq α]

/-- A key that is not written keeps its value. -/
theorem Tbl.get_set_other {d : Nat → α} (m : Tbl α) {k k' : Nat} (v : α) (h : k' ≠ k) :
    Tbl.get d (Tbl.set d m k v) k' = Tbl.get d m k' := by
  unfold Tbl.set; split <;> simp [Tbl.get_del_other, Tbl.get_put_other, h]

/-- A key that is written holds what was written. -/
theorem Tbl.get_set_same {d : Nat → α} (m : Tbl α) (k : Nat) (v : α) : Tbl.get d (Tbl.set d m k v) k = v := by
  unfold Tbl.set
  split
  · next e => rw [e]; exact Tbl.get_del_same m k
  · exact Tbl.get_put_same m k v

/-! ## The canonical form -/

omit [DecidableEq α] in
theorem Tbl.rising_put {m : Tbl α} {b k : Nat} (v : α) (hb : b ≤ k) (h : Tbl.rising b m = true) :
    Tbl.rising b (Tbl.put m k v) = true := by
  induction m generalizing b with
  | nil => simp [Tbl.put, Tbl.rising, hb]
  | cons e r ih =>
    obtain ⟨a, w⟩ := e
    simp only [Tbl.rising, Bool.and_eq_true, decide_eq_true_eq] at h
    simp only [Tbl.put]
    split
    · next h2 => simp [Tbl.rising, hb, h.2]; omega
    · split
      · next h2 => subst h2; simp [Tbl.rising, hb, h.2]
      · simp only [Tbl.rising, Bool.and_eq_true, decide_eq_true_eq]; exact ⟨h.1, ih (by omega) h.2⟩

omit [DecidableEq α] in
theorem Tbl.rising_del {m : Tbl α} {b : Nat} (k : Nat) (h : Tbl.rising b m = true) : Tbl.rising b (Tbl.del m k) = true := by
  induction m generalizing b with
  | nil => rfl
  | cons e r ih =>
    obtain ⟨a, w⟩ := e
    simp only [Tbl.rising, Bool.and_eq_true, decide_eq_true_eq] at h
    simp only [Tbl.del]
    split
    · exact Tbl.rising_mono (by omega) (ih h.2)
    · simp only [Tbl.rising, Bool.and_eq_true, decide_eq_true_eq]; exact ⟨h.1, ih h.2⟩

omit [DecidableEq α] in
theorem Tbl.mem_put {m : Tbl α} {k : Nat} {v : α} {e : Nat × α} (h : e ∈ Tbl.put m k v) : e = (k, v) ∨ e ∈ m := by
  induction m with
  | nil => simpa [Tbl.put] using h
  | cons x r ih =>
    obtain ⟨a, w⟩ := x
    simp only [Tbl.put] at h
    split at h
    · simpa using h
    · split at h
      · simp only [List.mem_cons] at h ⊢; tauto
      · simp only [List.mem_cons] at h ⊢; rcases h with h | h <;> [tauto; (have := ih h; tauto)]

omit [DecidableEq α] in
theorem Tbl.mem_del {m : Tbl α} {k : Nat} {e : Nat × α} (h : e ∈ Tbl.del m k) : e ∈ m := by
  induction m with
  | nil => simp [Tbl.del] at h
  | cons x r ih =>
    obtain ⟨a, w⟩ := x
    simp only [Tbl.del] at h
    split at h
    · simp [ih h]
    · simp only [List.mem_cons] at h ⊢; rcases h with h | h <;> [tauto; (have := ih h; tauto)]

theorem Tbl.wf_iff {d : Nat → α} {m : Tbl α} :
    Tbl.wf d m = true ↔ Tbl.rising 0 m = true ∧ ∀ e ∈ m, e.2 ≠ d e.1 := by simp [Tbl.wf]

/-- Writing keeps the canonical form. -/
theorem Tbl.wf_set {d : Nat → α} {m : Tbl α} (k : Nat) (v : α) (h : Tbl.wf d m = true) : Tbl.wf d (Tbl.set d m k v) = true := by
  rw [Tbl.wf_iff] at h ⊢
  unfold Tbl.set
  split
  · exact ⟨Tbl.rising_del k h.1, fun e he => h.2 e (Tbl.mem_del he)⟩
  · refine ⟨Tbl.rising_put v (by omega) h.1, fun e he => ?_⟩
    rcases Tbl.mem_put he with rfl | he
    · assumption
    · exact h.2 e he

theorem Tbl.wf_upd {d : Nat → α} {m : Tbl α} (k : Nat) (f : α → α) (h : Tbl.wf d m = true) :
    Tbl.wf d (Tbl.upd d m k f) = true := Tbl.wf_set _ _ h

omit [DecidableEq α] in
theorem Tbl.rising_filter {m : Tbl α} {b : Nat} (p : Nat × α → Bool) (h : Tbl.rising b m = true) :
    Tbl.rising b (m.filter p) = true := by
  induction m generalizing b with
  | nil => rfl
  | cons e r ih =>
    obtain ⟨a, w⟩ := e
    simp only [Tbl.rising, Bool.and_eq_true, decide_eq_true_eq] at h
    rw [List.filter_cons]
    split
    · simp only [Tbl.rising, Bool.and_eq_true, decide_eq_true_eq]; exact ⟨h.1, ih h.2⟩
    · exact Tbl.rising_mono (by omega) (ih h.2)

/-- Keeping some entries keeps the canonical form. -/
theorem Tbl.wf_filter {d : Nat → α} {m : Tbl α} (p : Nat × α → Bool) (h : Tbl.wf d m = true) : Tbl.wf d (m.filter p) = true := by
  rw [Tbl.wf_iff] at h ⊢
  exact ⟨Tbl.rising_filter p h.1, fun e he => h.2 e (List.mem_of_mem_filter he)⟩

theorem Tbl.wf_keep {d : Nat → α} {m : Tbl α} (p : Nat → Bool) (h : Tbl.wf d m = true) : Tbl.wf d (Tbl.keep p m) = true :=
  Tbl.wf_filter _ h

theorem Tbl.wf_nil (d : Nat → α) : Tbl.wf d ([] : Tbl α) = true := rfl

end

/-! ## Bytes -/

/-- Writing bytes keeps the canonical form of a memory. -/
theorem Tbl.wf_writeBytes {d : Byte} {m : Tbl Byte} (a : Nat) (b : List Byte) (h : Tbl.wf (fun _ => d) m = true) :
    Tbl.wf (fun _ => d) (Tbl.writeBytes d m a b) = true := by
  induction b generalizing m a with
  | nil => exact h
  | cons x r ih => exact ih (a + 1) (Tbl.wf_set a x h)

/-- Bytes outside those that are written stay. -/
theorem Tbl.get_writeBytes_other {d : Byte} (m : Tbl Byte) {a k : Nat} (b : List Byte) (h : k < a ∨ a + b.length ≤ k) :
    Tbl.get (fun _ => d) (Tbl.writeBytes d m a b) k = Tbl.get (fun _ => d) m k := by
  induction b generalizing m a with
  | nil => rfl
  | cons x r ih =>
    simp only [List.length_cons] at h
    rw [Tbl.writeBytes, ih _ (by omega), Tbl.get_set_other _ _ (by omega)]

/-- A table written with bytes keeps rising keys. -/
theorem Tbl.rising_set {α : Type} [DecidableEq α] {d : Nat → α} {m : Tbl α} (k : Nat) (v : α) (h : Tbl.rising 0 m = true) :
    Tbl.rising 0 (Tbl.set d m k v) = true := by
  unfold Tbl.set; split <;> [exact Tbl.rising_del k h; exact Tbl.rising_put v (by omega) h]

/-- What is written is read back. -/
theorem Tbl.readBytes_writeBytes {d : Byte} (m : Tbl Byte) (a : Nat) (b : List Byte) :
    Tbl.readBytes d (Tbl.writeBytes d m a b) a b.length = b := by
  induction b generalizing m a with
  | nil => rfl
  | cons x r ih =>
    simp only [Tbl.writeBytes, List.length_cons, Tbl.readBytes, ih _ (a + 1),
      Tbl.get_writeBytes_other _ r (Or.inl (Nat.lt_succ_self a)), Tbl.get_set_same m a x]

end Sys2Proof.Machine
end

