-- ==== Sys2Proof/Laws/Moves.lean ====
section
/-! SUPPORT. What a change of the state may touch: `Moves l s t` says that from `s` to `t` the queue of commands stays, that at most the
parts in `l` change, that the byte and word stores keep their canonical form, that nothing put out is taken back and that no free value
is used twice. One lemma for each operation says its parts; the lemmas here put them together. -/

set_option Elab.async false
set_option linter.unusedTactic false
set_option linter.unreachableTactic false

namespace Sys2Proof.Machine

/-- Every part of `a` is in `b`. -/
def Part.sub (a b : List Part) : Bool := a.all (fun p => b.contains p)

theorem Part.sub_not {a b : List Part} (h : Part.sub a b = true) {p : Part} (hp : b.contains p = false) : a.contains p = false := by
  simp only [Part.sub, List.all_eq_true] at h
  by_contra hc
  simp only [Bool.not_eq_false, List.contains_iff_mem] at hc
  exact absurd (h p hc) (by rw [hp]; decide)

theorem Part.sub_trans {a b c : List Part} (h : Part.sub a b = true) (h' : Part.sub b c = true) : Part.sub a c = true := by
  simp only [Part.sub, List.all_eq_true, List.contains_iff_mem] at h h' ⊢
  exact fun p hp => h' p (h p hp)

theorem Part.same_refl (p : Part) (s : State) : p.same s s := by cases p <;> rfl

theorem Part.same_trans {p : Part} {s t u : State} (h : p.same s t) (h' : p.same t u) : p.same s u := by
  cases p <;> exact Eq.trans h' h

/-- What a change of the state may touch. -/
structure Moves (l : List Part) (s t : State) : Prop where
  only : State.only l s t
  ok : s.ok → t.ok
  out : s.out <:+ t.out
  free : s.free ≤ t.free

theorem Moves.refl (l : List Part) (s : State) : Moves l s s :=
  ⟨⟨rfl, fun p _ => p.same_refl s⟩, id, List.suffix_refl _, Nat.le_refl _⟩

theorem Moves.trans {l : List Part} {s t u : State} (h : Moves l s t) (h' : Moves l t u) : Moves l s u :=
  ⟨⟨h'.only.1.trans h.only.1, fun p hp => Part.same_trans (h.only.2 p hp) (h'.only.2 p hp)⟩, fun o => h'.ok (h.ok o), h.out.trans h'.out,
    h.free.trans h'.free⟩

theorem Moves.mono {a b : List Part} {s t : State} (h : Moves a s t) (hs : Part.sub a b = true) : Moves b s t :=
  ⟨⟨h.only.1, fun p hp => h.only.2 p (Part.sub_not hs hp)⟩, h.ok, h.out, h.free⟩

/-- A change goes on with another one. -/
theorem Moves.step {a l : List Part} {z s t : State} (h : Moves l z s) (h' : Moves a s t) (hs : Part.sub a l = true) : Moves l z t :=
  h.trans (h'.mono hs)

/-! ## Changes of one part -/

theorem Moves.time {l : List Part} {z s : State} (h : Moves l z s) (hl : Part.sub [.time] l = true) (v : _) :
    Moves l z { s with time := v } :=
  h.step ⟨⟨rfl, fun p hp => by cases p <;> first | rfl | exact absurd hp (by decide)⟩, id, List.suffix_refl _, Nat.le_refl _⟩ hl

theorem Moves.lx {l : List Part} {z s : State} (h : Moves l z s) (hl : Part.sub [.lx] l = true) (v : _) :
    Moves l z { s with lx := v } :=
  h.step ⟨⟨rfl, fun p hp => by cases p <;> first | rfl | exact absurd hp (by decide)⟩, id, List.suffix_refl _, Nat.le_refl _⟩ hl

theorem Moves.tree {l : List Part} {z s : State} (h : Moves l z s) (hl : Part.sub [.tree] l = true) (v : _) :
    Moves l z { s with tree := v } :=
  h.step ⟨⟨rfl, fun p hp => by cases p <;> first | rfl | exact absurd hp (by decide)⟩, id, List.suffix_refl _, Nat.le_refl _⟩ hl

theorem Moves.ts {l : List Part} {z s : State} (h : Moves l z s) (hl : Part.sub [.ts] l = true) (v : _) :
    Moves l z { s with ts := v } :=
  h.step ⟨⟨rfl, fun p hp => by cases p <;> first | rfl | exact absurd hp (by decide)⟩, id, List.suffix_refl _, Nat.le_refl _⟩ hl

theorem Moves.bus {l : List Part} {z s : State} (h : Moves l z s) (hl : Part.sub [.bus] l = true) (v : _) :
    Moves l z { s with bus := v } :=
  h.step ⟨⟨rfl, fun p hp => by cases p <;> first | rfl | exact absurd hp (by decide)⟩, id, List.suffix_refl _, Nat.le_refl _⟩ hl

theorem Moves.qe {l : List Part} {z s : State} (h : Moves l z s) (hl : Part.sub [.qe] l = true) (v : _) :
    Moves l z { s with qe := v } :=
  h.step ⟨⟨rfl, fun p hp => by cases p <;> first | rfl | exact absurd hp (by decide)⟩, id, List.suffix_refl _, Nat.le_refl _⟩ hl

theorem Moves.bm {l : List Part} {z s : State} (h : Moves l z s) (hl : Part.sub [.bm] l = true) (v : _) :
    Moves l z { s with bm := v } :=
  h.step ⟨⟨rfl, fun p hp => by cases p <;> first | rfl | exact absurd hp (by decide)⟩, id, List.suffix_refl _, Nat.le_refl _⟩ hl

theorem Moves.xb {l : List Part} {z s : State} (h : Moves l z s) (hl : Part.sub [.xb] l = true) (v : _) :
    Moves l z { s with xb := v } :=
  h.step ⟨⟨rfl, fun p hp => by cases p <;> first | rfl | exact absurd hp (by decide)⟩, id, List.suffix_refl _, Nat.le_refl _⟩ hl

theorem Moves.fn {l : List Part} {z s : State} (h : Moves l z s) (hl : Part.sub [.fn] l = true) (v : _) :
    Moves l z { s with fn := v } :=
  h.step ⟨⟨rfl, fun p hp => by cases p <;> first | rfl | exact absurd hp (by decide)⟩, id, List.suffix_refl _, Nat.le_refl _⟩ hl

theorem Moves.mre {l : List Part} {z s : State} (h : Moves l z s) (hl : Part.sub [.mre] l = true) (v : _) :
    Moves l z { s with mre := v } :=
  h.step ⟨⟨rfl, fun p hp => by cases p <;> first | rfl | exact absurd hp (by decide)⟩, id, List.suffix_refl _, Nat.le_refl _⟩ hl

theorem Moves.gd {l : List Part} {z s : State} (h : Moves l z s) (hl : Part.sub [.gd] l = true) (v : _) :
    Moves l z { s with gd := v } :=
  h.step ⟨⟨rfl, fun p hp => by cases p <;> first | rfl | exact absurd hp (by decide)⟩, id, List.suffix_refl _, Nat.le_refl _⟩ hl

theorem Moves.sv {l : List Part} {z s : State} (h : Moves l z s) (hl : Part.sub [.sv] l = true) (v : _) :
    Moves l z { s with sv := v } :=
  h.step ⟨⟨rfl, fun p hp => by cases p <;> first | rfl | exact absurd hp (by decide)⟩, id, List.suffix_refl _, Nat.le_refl _⟩ hl

theorem Moves.pu {l : List Part} {z s : State} (h : Moves l z s) (hl : Part.sub [.pu] l = true) (v : _) :
    Moves l z { s with pu := v } :=
  h.step ⟨⟨rfl, fun p hp => by cases p <;> first | rfl | exact absurd hp (by decide)⟩, id, List.suffix_refl _, Nat.le_refl _⟩ hl

theorem Moves.pm {l : List Part} {z s : State} (h : Moves l z s) (hl : Part.sub [.pm] l = true) (v : _) :
    Moves l z { s with pm := v } :=
  h.step ⟨⟨rfl, fun p hp => by cases p <;> first | rfl | exact absurd hp (by decide)⟩, id, List.suffix_refl _, Nat.le_refl _⟩ hl

theorem Moves.ebm {l : List Part} {z s : State} (h : Moves l z s) (hl : Part.sub [.ebm] l = true) (v : EbmSt)
    (hm : Tbl.wf (fun _ => (0 : Byte)) s.ebm.mem = true → Tbl.wf (fun _ => (0 : Byte)) v.mem = true) :
    Moves l z { s with ebm := v } :=
  h.step ⟨⟨rfl, fun p hp => by cases p <;> first | rfl | exact absurd hp (by decide)⟩, fun o => ⟨o.1, hm o.2.1, o.2.2⟩,
    List.suffix_refl _, Nat.le_refl _⟩ hl

theorem Moves.ck {l : List Part} {z s : State} (h : Moves l z s) (hl : Part.sub [.ck] l = true) (v : ClockSt)
    (hm : Tbl.wf (fun _ => (0xFF : Byte)) s.ck.flash = true → Tbl.wf (fun _ => (0xFF : Byte)) v.flash = true) :
    Moves l z { s with ck := v } :=
  h.step ⟨⟨rfl, fun p hp => by cases p <;> first | rfl | exact absurd hp (by decide)⟩, fun o => ⟨o.1, o.2.1, hm o.2.2⟩,
    List.suffix_refl _, Nat.le_refl _⟩ hl

theorem Moves.freeUp {l : List Part} {z s : State} (h : Moves l z s) (hl : Part.sub [.free] l = true) (n : Nat) (hn : s.free ≤ n) :
    Moves l z { s with free := n } :=
  h.step ⟨⟨rfl, fun p hp => by cases p <;> first | rfl | exact absurd hp (by decide)⟩, id, List.suffix_refl _, hn⟩ hl

/-- Parts without a store change together. -/
theorem Moves.many {l : List Part} {z s : State} {time : TimeSt} {lx : LaneSt} {tree : TreeSt} {ts : SchedSt} {bus : BusSt} {qe : QueueSt}
    {bm : MoverSt} {xb : BridgeSt} {fn : FnSt} {mre : MreSt} {gd : DispSt} {sv : SupSt} {pu : PairSt} {pm : PowerSt} (h : Moves l z s)
    (hp : ∀ p, l.contains p = false → Part.same p s { s with
      time := time, lx := lx, tree := tree, ts := ts, bus := bus, qe := qe, bm := bm, xb := xb, fn := fn, mre := mre, gd := gd, sv := sv,
      pu := pu, pm := pm }) :
    Moves l z { s with
      time := time, lx := lx, tree := tree, ts := ts, bus := bus, qe := qe, bm := bm, xb := xb, fn := fn, mre := mre, gd := gd, sv := sv,
      pu := pu, pm := pm } :=
  h.trans ⟨⟨rfl, hp⟩, id, List.suffix_refl _, Nat.le_refl _⟩

/-- Parts change together. -/
theorem Moves.all {l : List Part} {z s : State} {time : TimeSt} {lx : LaneSt} {tree : TreeSt} {ts : SchedSt} {ebm : EbmSt} {bus : BusSt}
    {qe : QueueSt} {bm : MoverSt} {xb : BridgeSt} {fn : FnSt} {mre : MreSt} {gd : DispSt} {sv : SupSt} {pu : PairSt} {pm : PowerSt}
    {ck : ClockSt} (h : Moves l z s)
    (hm : Tbl.wf (fun _ => (0 : Byte)) s.ebm.mem = true → Tbl.wf (fun _ => (0 : Byte)) ebm.mem = true)
    (hf : Tbl.wf (fun _ => (0xFF : Byte)) s.ck.flash = true → Tbl.wf (fun _ => (0xFF : Byte)) ck.flash = true)
    (hp : ∀ p, l.contains p = false → Part.same p s { s with
      time := time, lx := lx, tree := tree, ts := ts, ebm := ebm, bus := bus, qe := qe, bm := bm, xb := xb, fn := fn, mre := mre, gd := gd,
      sv := sv, pu := pu, pm := pm, ck := ck }) :
    Moves l z { s with
      time := time, lx := lx, tree := tree, ts := ts, ebm := ebm, bus := bus, qe := qe, bm := bm, xb := xb, fn := fn, mre := mre, gd := gd,
      sv := sv, pu := pu, pm := pm, ck := ck } :=
  h.trans ⟨⟨rfl, hp⟩, fun o => ⟨o.1, hm o.2.1, hf o.2.2⟩, List.suffix_refl _, Nat.le_refl _⟩

/-! ## Control -/

theorem Moves.ite {l : List Part} {z a b : State} {c : Prop} [Decidable c] (ha : c → Moves l z a) (hb : ¬c → Moves l z b) :
    Moves l z (if c then a else b) := by
  split <;> [exact ha ‹_›; exact hb ‹_›]

theorem Moves.foldl {α : Type} {l : List Part} {z : State} {f : State → α → State} {xs : List α} {s : State} (h : Moves l z s)
    (hf : ∀ t x, Moves l z t → Moves l z (f t x)) : Moves l z (xs.foldl f s) := by
  induction xs generalizing s with
  | nil => exact h
  | cons x r ih => exact ih (hf s x h)

theorem Moves.of_fst {α : Type} {l : List Part} {z s : State} {x : α} {p : State × α} (h : Moves l z p.1) (e : p = (s, x)) : Moves l z s := by
  rw [e] at h; exact h

theorem Moves.of_snd {α : Type} {l : List Part} {z s : State} {x : α} {p : α × State} (h : Moves l z p.2) (e : p = (x, s)) : Moves l z s := by
  rw [e] at h; exact h

/-- A fold over a pair whose first part is the state. -/
theorem Moves.foldl_fst {α β : Type} {l : List Part} {z : State} {f : State × β → α → State × β} {xs : List α} {s : State × β}
    (h : Moves l z s.1) (hf : ∀ t x, Moves l z t.1 → Moves l z (f t x).1) : Moves l z (xs.foldl f s).1 := by
  induction xs generalizing s with
  | nil => exact h
  | cons x r ih => exact ih (hf s x h)

end Sys2Proof.Machine
end

