-- ==== Sys2Proof/Laws/OpsMoves.lean ====
section
/-! SUPPORT. What the operations of Machine/Ops.lean may touch. -/

set_option Elab.async false
set_option linter.unusedTactic false
set_option linter.unreachableTactic false

namespace Sys2Proof.Machine

theorem State.setReg_moves {l_ : List Part} {z_ : State} {s : State} {a : ℕ} {v : Word} (h_ : Moves l_ z_ s) (hl_ : Part.sub [.regs] l_ = true) :
    Moves l_ z_ (State.setReg s a v) :=
  h_.step ⟨⟨rfl, fun p hp => by cases p <;> first | rfl | exact absurd hp (by decide)⟩, fun o => ⟨Tbl.wf_set a v o.1, o.2.1, o.2.2⟩, List.suffix_refl _, Nat.le_refl _⟩ hl_

theorem State.setF_moves {l_ : List Part} {z_ : State} {s : State} {x : Fld} {v : ℕ} (h_ : Moves l_ z_ s) (hl_ : Part.sub [.regs] l_ = true) :
    Moves l_ z_ (State.setF s x v) := by
  refine h_.step ?_ hl_
  clear h_ hl_
  have h_ := Moves.refl [.regs] s
  unfold State.setF
  repeat' (first
    | with_reducible assumption
    | exact (rfl : _ = true)
    | with_reducible apply State.setReg_moves)

theorem State.setB_moves {l_ : List Part} {z_ : State} {s : State} {x : Fld} {b : Bool} (h_ : Moves l_ z_ s) (hl_ : Part.sub [.regs] l_ = true) :
    Moves l_ z_ (State.setB s x b) := by
  refine h_.step ?_ hl_
  clear h_ hl_
  have h_ := Moves.refl [.regs] s
  unfold State.setB
  repeat' (first
    | with_reducible assumption
    | exact (rfl : _ = true)
    | with_reducible apply State.setF_moves)

theorem State.updPu_moves {l_ : List Part} {z_ : State} {s : State} {g : PairSt → PairSt} (h_ : Moves l_ z_ s) (hl_ : Part.sub [.pu] l_ = true) :
    Moves l_ z_ (State.updPu s g) := by
  refine h_.step ?_ hl_
  clear h_ hl_
  have h_ := Moves.refl [.pu] s
  unfold State.updPu
  repeat' (first
    | with_reducible assumption
    | exact (rfl : _ = true)
    | with_reducible apply Moves.pu)

theorem State.emit_moves {l_ : List Part} {z_ : State} {s : State} {e : Emit} (h_ : Moves l_ z_ s) (hl_ : Part.sub [.out] l_ = true) :
    Moves l_ z_ (State.emit s e) :=
  h_.step ⟨⟨rfl, fun p hp => by cases p <;> first | rfl | exact absurd hp (by decide)⟩, id, List.suffix_cons _ _, Nat.le_refl _⟩ hl_

theorem State.sendUnsent_moves {l_ : List Part} {z_ : State} {s : State} {a1_ : ℕ} (h_ : Moves l_ z_ s) (hl_ : Part.sub [.pu, .out] l_ = true) :
    Moves l_ z_ (State.sendUnsent s a1_) := by
  refine h_.step ?_ hl_
  clear h_ hl_
  induction a1_ generalizing s with
  | zero => exact Moves.refl _ _
  | succ n_ ih_ =>
    have h_ := Moves.refl [.pu, .out] s
    unfold State.sendUnsent
    repeat' (first
      | with_reducible refine Moves.trans ?_ ih_
      | with_reducible assumption
      | exact (rfl : _ = true)
      | with_reducible apply State.emit_moves
      | with_reducible apply State.updPu_moves
      | split)

theorem State.updVf_moves {l_ : List Part} {z_ : State} {s : State} {v : ℕ} {g : VfRec → VfRec} (h_ : Moves l_ z_ s) (hl_ : Part.sub [.fn] l_ = true) :
    Moves l_ z_ (State.updVf s v g) := by
  refine h_.step ?_ hl_
  clear h_ hl_
  have h_ := Moves.refl [.fn] s
  unfold State.updVf
  repeat' (first
    | with_reducible assumption
    | exact (rfl : _ = true)
    | with_reducible apply Moves.fn)

theorem State.bump_moves {l_ : List Part} {z_ : State} {s : State} {x : Fld} {n : optParam ℕ 1} (h_ : Moves l_ z_ s) (hl_ : Part.sub [.regs] l_ = true) :
    Moves l_ z_ (State.bump s x n) := by
  refine h_.step ?_ hl_
  clear h_ hl_
  have h_ := Moves.refl [.regs] s
  unfold State.bump
  repeat' (first
    | with_reducible assumption
    | exact (rfl : _ = true)
    | with_reducible apply State.setF_moves)

theorem State.updFn_moves {l_ : List Part} {z_ : State} {s : State} {f : ℕ} {g : FnRec → FnRec} (h_ : Moves l_ z_ s) (hl_ : Part.sub [.fn] l_ = true) :
    Moves l_ z_ (State.updFn s f g) := by
  refine h_.step ?_ hl_
  clear h_ hl_
  have h_ := Moves.refl [.fn] s
  unfold State.updFn
  repeat' (first
    | with_reducible assumption
    | exact (rfl : _ = true)
    | with_reducible apply Moves.fn)

theorem State.sendHost_moves {l_ : List Part} {z_ : State} {s : State} {e : Emit} (h_ : Moves l_ z_ s) (hl_ : Part.sub [.fn, .out] l_ = true) :
    Moves l_ z_ (State.sendHost s e) := by
  refine h_.step ?_ hl_
  clear h_ hl_
  have h_ := Moves.refl [.fn, .out] s
  unfold State.sendHost
  repeat' (first
    | with_reducible assumption
    | intro _
    | with_reducible apply Moves.ite
    | exact (rfl : _ = true)
    | with_reducible apply State.emit_moves
    | split
    | with_reducible apply Moves.fn)

theorem State.signal_moves {l_ : List Part} {z_ : State} {s : State} {f : ℕ} {v : ℕ} (h_ : Moves l_ z_ s) (hl_ : Part.sub [.fn, .out] l_ = true) :
    Moves l_ z_ (State.signal s f v) := by
  refine h_.step ?_ hl_
  clear h_ hl_
  have h_ := Moves.refl [.fn, .out] s
  unfold State.signal
  repeat' (first
    | with_reducible assumption
    | intro _
    | with_reducible apply Moves.ite
    | exact (rfl : _ = true)
    | with_reducible apply State.updFn_moves
    | with_reducible apply State.sendHost_moves)

theorem State.logPme_moves {l_ : List Part} {z_ : State} {s : State} {f : Nat} {reason : Nat} {suppressed : Bool} (h_ : Moves l_ z_ s) (hl_ : Part.sub [.regs] l_ = true) :
    Moves l_ z_ (State.logPme s f reason suppressed) := by
  refine h_.step ?_ hl_
  clear h_ hl_
  have h_ := Moves.refl [.regs] s
  unfold State.logPme
  repeat' (first
    | with_reducible assumption
    | (extract_lets -underBinder +onlyGivenNames x_; first | (refine (fun hx_ : Moves [.regs] s x_ => ?_) ?_; (on_goal 1 => (clear_value x_; revert hx_; revert x_; intro _ _)); (on_goal 2 => subst x_)) | (clear_value x_; revert x_; intro _))
    | intro _
    | with_reducible apply Moves.ite
    | exact (rfl : _ = true)
    | with_reducible apply State.setB_moves
    | with_reducible apply State.setF_moves
    | with_reducible apply State.setReg_moves
    | split)

theorem State.when_moves {l_ : List Part} {z_ : State} {s : State} {c : Bool} {f : State → State} (h_ : Moves l_ z_ s)
    (hf : ∀ t, Moves l_ z_ t → Moves l_ z_ (f t)) : Moves l_ z_ (State.when s c f) := Moves.ite (fun _ => hf s h_) (fun _ => h_)

theorem State.sendPme_moves {l_ : List Part} {z_ : State} {s : State} {f : ℕ} {reason : ℕ} (h_ : Moves l_ z_ s) (hl_ : Part.sub [.regs, .fn, .out] l_ = true) :
    Moves l_ z_ (State.sendPme s f reason) := by
  refine h_.step ?_ hl_
  clear h_ hl_
  have h_ := Moves.refl [.regs, .fn, .out] s
  unfold State.sendPme
  repeat' (first
    | with_reducible assumption
    | intro _
    | with_reducible apply Moves.ite
    | exact (rfl : _ = true)
    | with_reducible apply State.updFn_moves
    | with_reducible apply State.logPme_moves
    | with_reducible apply State.sendHost_moves
    | with_reducible apply State.when_moves)

theorem State.fresh_moves {l_ : List Part} {z_ : State} {s : State} (h_ : Moves l_ z_ s) (hl_ : Part.sub [.free] l_ = true) :
    Moves l_ z_ (State.fresh s) :=
  h_.step ⟨⟨rfl, fun p hp => by cases p <;> first | rfl | exact absurd hp (by decide)⟩, id, List.suffix_refl _, Nat.le_succ _⟩ hl_

theorem State.high_moves {l_ : List Part} {z_ : State} {s : State} {x : Fld} {v : ℕ} (h_ : Moves l_ z_ s) (hl_ : Part.sub [.regs] l_ = true) :
    Moves l_ z_ (State.high s x v) := by
  refine h_.step ?_ hl_
  clear h_ hl_
  have h_ := Moves.refl [.regs] s
  unfold State.high
  repeat' (first
    | with_reducible assumption
    | intro _
    | with_reducible apply Moves.ite
    | exact (rfl : _ = true)
    | with_reducible apply State.setF_moves)

theorem State.suppressPme_moves {l_ : List Part} {z_ : State} {s : State} {f : Nat} {reason : Nat} (h_ : Moves l_ z_ s) (hl_ : Part.sub [.regs] l_ = true) :
    Moves l_ z_ (State.suppressPme s f reason) := by
  refine h_.step ?_ hl_
  clear h_ hl_
  have h_ := Moves.refl [.regs] s
  unfold State.suppressPme
  repeat' (first
    | with_reducible assumption
    | intro _
    | with_reducible apply Moves.ite
    | exact (rfl : _ = true)
    | with_reducible apply State.logPme_moves
    | split)

theorem State.signalGlb_moves {l_ : List Part} {z_ : State} {s : State}  (h_ : Moves l_ z_ s) (hl_ : Part.sub [.fn, .out] l_ = true) :
    Moves l_ z_ (State.signalGlb s ) := by
  refine h_.step ?_ hl_
  clear h_ hl_
  have h_ := Moves.refl [.fn, .out] s
  unfold State.signalGlb
  repeat' (first
    | with_reducible assumption
    | intro _
    | with_reducible apply Moves.ite
    | exact (rfl : _ = true)
    | with_reducible apply State.signal_moves
    | split
    | with_reducible apply Moves.fn)

theorem State.holdError_moves {l_ : List Part} {z_ : State} {s : State} {block : Nat} {scope : Nat} {cause : Nat} {fn : Nat} {unit : Nat} {addr : Nat} (h_ : Moves l_ z_ s) (hl_ : Part.sub [.regs] l_ = true) :
    Moves l_ z_ (State.holdError s block scope cause fn unit addr) := by
  refine h_.step ?_ hl_
  clear h_ hl_
  have h_ := Moves.refl [.regs] s
  unfold State.holdError
  repeat' (first
    | with_reducible assumption
    | (extract_lets -underBinder +onlyGivenNames x_; first | (refine (fun hx_ : Moves [.regs] s x_ => ?_) ?_; (on_goal 1 => (clear_value x_; revert hx_; revert x_; intro _ _)); (on_goal 2 => subst x_)) | (clear_value x_; revert x_; intro _))
    | intro _
    | with_reducible apply Moves.ite
    | exact (rfl : _ = true)
    | with_reducible apply State.setF_moves
    | with_reducible apply State.setReg_moves
    | split)

theorem State.updPm_moves {l_ : List Part} {z_ : State} {s : State} {g : PowerSt → PowerSt} (h_ : Moves l_ z_ s) (hl_ : Part.sub [.pm] l_ = true) :
    Moves l_ z_ (State.updPm s g) := by
  refine h_.step ?_ hl_
  clear h_ hl_
  have h_ := Moves.refl [.pm] s
  unfold State.updPm
  repeat' (first
    | with_reducible assumption
    | exact (rfl : _ = true)
    | with_reducible apply Moves.pm)

theorem State.sendOrdered_moves {l_ : List Part} {z_ : State} {s : State} {f : ℕ → MioOut} (h_ : Moves l_ z_ s) (hl_ : Part.sub [.pu, .out] l_ = true) :
    Moves l_ z_ (State.sendOrdered s f) := by
  refine h_.step ?_ hl_
  clear h_ hl_
  have h_ := Moves.refl [.pu, .out] s
  unfold State.sendOrdered
  repeat' (first
    | with_reducible assumption
    | intro _
    | with_reducible apply Moves.ite
    | exact (rfl : _ = true)
    | with_reducible apply State.emit_moves
    | with_reducible apply State.updPu_moves)

theorem State.tell_moves {l_ : List Part} {z_ : State} {s : State} {m : MirrorRec} (h_ : Moves l_ z_ s) (hl_ : Part.sub [.pu, .out] l_ = true) :
    Moves l_ z_ (State.tell s m) := by
  refine h_.step ?_ hl_
  clear h_ hl_
  have h_ := Moves.refl [.pu, .out] s
  unfold State.tell
  repeat' (first
    | with_reducible assumption
    | intro _
    | with_reducible apply Moves.ite
    | exact (rfl : _ = true)
    | with_reducible apply State.sendOrdered_moves)

theorem State.aer_moves {l_ : List Part} {z_ : State} {s : State} {f : ℕ} {code : ℕ} (h_ : Moves l_ z_ s) (hl_ : Part.sub [.fn] l_ = true) :
    Moves l_ z_ (State.aer s f code) := by
  refine h_.step ?_ hl_
  clear h_ hl_
  have h_ := Moves.refl [.fn] s
  unfold State.aer
  repeat' (first
    | with_reducible assumption
    | exact (rfl : _ = true)
    | with_reducible apply State.updFn_moves)

theorem State.ecrcFail_moves {l_ : List Part} {z_ : State} {s : State} {f : ℕ} (h_ : Moves l_ z_ s) (hl_ : Part.sub [.regs, .fn] l_ = true) :
    Moves l_ z_ (State.ecrcFail s f) := by
  refine h_.step ?_ hl_
  clear h_ hl_
  have h_ := Moves.refl [.regs, .fn] s
  unfold State.ecrcFail
  repeat' (first
    | with_reducible assumption
    | intro _
    | exact (rfl : _ = true)
    | with_reducible apply State.aer_moves
    | with_reducible apply State.bump_moves)

theorem State.poisonedTlp_moves {l_ : List Part} {z_ : State} {s : State} {f : ℕ} (h_ : Moves l_ z_ s) (hl_ : Part.sub [.regs, .fn] l_ = true) :
    Moves l_ z_ (State.poisonedTlp s f) := by
  refine h_.step ?_ hl_
  clear h_ hl_
  have h_ := Moves.refl [.regs, .fn] s
  unfold State.poisonedTlp
  repeat' (first
    | with_reducible assumption
    | intro _
    | exact (rfl : _ = true)
    | with_reducible apply State.aer_moves
    | with_reducible apply State.bump_moves)

theorem State.advanceTo_moves {l_ : List Part} {z_ : State} {s : State} {p : ℕ} (h_ : Moves l_ z_ s) (hl_ : Part.sub [.time] l_ = true) :
    Moves l_ z_ (State.advanceTo s p) := by
  refine h_.step ?_ hl_
  clear h_ hl_
  have h_ := Moves.refl [.time] s
  unfold State.advanceTo
  repeat' (first
    | with_reducible assumption
    | intro _
    | with_reducible apply Moves.ite
    | exact (rfl : _ = true)
    | with_reducible apply Moves.time)

theorem State.gatedAccess_moves {l_ : List Part} {z_ : State} {s : State} {off : ℕ} {fn : ℕ} {path : ℕ} {write : Bool} (h_ : Moves l_ z_ s) (hl_ : Part.sub [.regs, .fn, .out] l_ = true) :
    Moves l_ z_ (State.gatedAccess s off fn path write) := by
  refine h_.step ?_ hl_
  clear h_ hl_
  have h_ := Moves.refl [.regs, .fn, .out] s
  unfold State.gatedAccess
  repeat' (first
    | with_reducible assumption
    | intro _
    | with_reducible apply Moves.ite
    | exact (rfl : _ = true)
    | with_reducible apply State.bump_moves
    | with_reducible apply State.setB_moves
    | with_reducible apply State.setF_moves
    | with_reducible apply State.setReg_moves
    | with_reducible apply State.when_moves
    | with_reducible apply State.signalGlb_moves)

theorem State.gate_moves {l_ : List Part} {z_ : State} {s : State} {a : ℕ} {fn : ℕ} {path : ℕ} {write : Bool} (h_ : Moves l_ z_ s) (hl_ : Part.sub [.regs, .fn, .pm, .out] l_ = true) :
    Moves l_ z_ (State.gate s a fn path write) := by
  refine h_.step ?_ hl_
  clear h_ hl_
  have h_ := Moves.refl [.regs, .fn, .pm, .out] s
  unfold State.gate
  repeat' (first
    | with_reducible assumption
    | intro _
    | with_reducible apply Moves.ite
    | exact (rfl : _ = true)
    | with_reducible apply State.gatedAccess_moves
    | with_reducible apply State.updPm_moves)

theorem State.captureError_moves {l_ : List Part} {z_ : State} {s : State} {block : ℕ} {scope : ℕ} {cause : ℕ} {fn : ℕ} {unit : ℕ} {addr : ℕ} (h_ : Moves l_ z_ s) (hl_ : Part.sub [.regs, .fn, .out] l_ = true) :
    Moves l_ z_ (State.captureError s block scope cause fn unit addr) := by
  refine h_.step ?_ hl_
  clear h_ hl_
  have h_ := Moves.refl [.regs, .fn, .out] s
  unfold State.captureError
  repeat' (first
    | with_reducible assumption
    | intro _
    | with_reducible apply Moves.ite
    | exact (rfl : _ = true)
    | with_reducible apply State.bump_moves
    | with_reducible apply State.setB_moves
    | with_reducible apply State.setF_moves
    | with_reducible apply State.when_moves
    | with_reducible apply State.holdError_moves
    | with_reducible apply State.signalGlb_moves
    | with_reducible apply Moves.fn)

theorem State.forAll_moves {l_ : List Part} {z_ : State} {s : State} {l : List ℕ} {f : State → ℕ → State} (h_ : Moves l_ z_ s)
    (hf : ∀ t n, Moves l_ z_ t → Moves l_ z_ (f t n)) : Moves l_ z_ (State.forAll s l f) := Moves.foldl h_ hf

theorem State.pfWrite_moves {l_ : List Part} {z_ : State} {s : State} {a : ℕ} {op : State → State} (h_ : Moves l_ z_ s)
    (hl_ : Part.sub [.regs, .fn, .pm, .out] l_ = true) (hf : ∀ t, Moves l_ z_ t → Moves l_ z_ (op t)) :
    Moves l_ z_ (State.pfWrite s a op) := by
  have ha : Moves l_ z_ (s.aer 0 Aer.unsupported) := State.aer_moves h_ (Part.sub_trans rfl hl_)
  have hg : Moves l_ z_ (s.gate a 0 0 true) := State.gate_moves h_ (Part.sub_trans rfl hl_)
  unfold State.pfWrite
  split <;> [assumption; split <;> [assumption; split <;> [exact hf s h_; assumption]]]

theorem State.tickOnce_moves {l_ : List Part} {z_ : State} {s : State} (h_ : Moves l_ z_ s) (hl_ : Part.sub [.time] l_ = true) :
    Moves l_ z_ (State.tickOnce s) := by
  refine h_.step ?_ hl_
  clear h_ hl_
  have h_ := Moves.refl [.time] s
  unfold State.tickOnce
  repeat' (first
    | with_reducible assumption
    | intro _
    | with_reducible apply Moves.ite
    | exact (rfl : _ = true)
    | with_reducible apply Moves.time)

end Sys2Proof.Machine
end

