-- ==== Sys2Proof/Laws/OperandsMoves.lean ====
section
/-! SUPPORT. What the operations of Machine/Operands.lean may touch. -/

set_option Elab.async false
set_option linter.unusedTactic false
set_option linter.unreachableTactic false

namespace Sys2Proof.Machine

theorem State.ebmWrite_moves {l_ : List Part} {z_ : State} {s : State} {a : ℕ} {b : List Byte} (h_ : Moves l_ z_ s)
    (hl_ : Part.sub [.ebm] l_ = true) : Moves l_ z_ (State.ebmWrite s a b) :=
  h_.ebm hl_ _ (fun o => Tbl.wf_writeBytes a b o)

theorem State.setCtx_moves {l_ : List Part} {z_ : State} {s : State} {h : ℕ} {d : ℕ} {v : Word} (h_ : Moves l_ z_ s) (hl_ : Part.sub [.ebm] l_ = true) :
    Moves l_ z_ (State.setCtx s h d v) := by
  refine h_.step ?_ hl_
  clear h_ hl_
  have h_ := Moves.refl [.ebm] s
  unfold State.setCtx
  repeat' (first
    | with_reducible assumption
    | exact (rfl : _ = true)
    | with_reducible apply State.ebmWrite_moves)

theorem State.setCf_moves {l_ : List Part} {z_ : State} {s : State} {h : ℕ} {x : CtxF} {v : ℕ} (h_ : Moves l_ z_ s) (hl_ : Part.sub [.ebm] l_ = true) :
    Moves l_ z_ (State.setCf s h x v) := by
  refine h_.step ?_ hl_
  clear h_ hl_
  have h_ := Moves.refl [.ebm] s
  unfold State.setCf
  repeat' (first
    | with_reducible assumption
    | exact (rfl : _ = true)
    | with_reducible apply State.setCtx_moves)

theorem State.bumpCf_moves {l_ : List Part} {z_ : State} {s : State} {h : ℕ} {x : CtxF} (h_ : Moves l_ z_ s) (hl_ : Part.sub [.ebm] l_ = true) :
    Moves l_ z_ (State.bumpCf s h x) := by
  refine h_.step ?_ hl_
  clear h_ hl_
  have h_ := Moves.refl [.ebm] s
  unfold State.bumpCf
  repeat' (first
    | with_reducible assumption
    | exact (rfl : _ = true)
    | with_reducible apply State.setCf_moves)

theorem State.tellCtx_moves {l_ : List Part} {z_ : State} {s : State} {h : ℕ} (h_ : Moves l_ z_ s) (hl_ : Part.sub [.pu, .out] l_ = true) :
    Moves l_ z_ (State.tellCtx s h) := by
  refine h_.step ?_ hl_
  clear h_ hl_
  have h_ := Moves.refl [.pu, .out] s
  unfold State.tellCtx
  repeat' (first
    | with_reducible assumption
    | exact (rfl : _ = true)
    | with_reducible apply State.tell_moves)

end Sys2Proof.Machine
end

