-- ==== Sys2Proof/Laws/QueueMoves.lean ====
section
/-! SUPPORT. What the operations of Machine/Queue.lean may touch. -/

set_option Elab.async false
set_option linter.unusedTactic false
set_option linter.unreachableTactic false

namespace Sys2Proof.Machine

theorem State.putRsb_moves {l_ : List Part} {z_ : State} {s : State} {f : Nat} {i : Nat} {w : Word} (h_ : Moves l_ z_ s) (hl_ : Part.sub [.qe, .fn, .out] l_ = true) :
    Moves l_ z_ (State.putRsb s f i w) := by
  refine h_.step ?_ hl_
  clear h_ hl_
  have h_ := Moves.refl [.qe, .fn, .out] s
  unfold State.putRsb
  repeat' (first
    | with_reducible assumption
    | intro _
    | with_reducible apply Moves.ite
    | exact (rfl : _ = true)
    | with_reducible apply State.sendHost_moves
    | split
    | with_reducible apply Moves.qe)

theorem State.sendPending_moves {l_ : List Part} {z_ : State} {s : State} {f : ℕ} (h_ : Moves l_ z_ s) (hl_ : Part.sub [.fn, .out] l_ = true) :
    Moves l_ z_ (State.sendPending s f) := by
  refine h_.step ?_ hl_
  clear h_ hl_
  have h_ := Moves.refl [.fn, .out] s
  unfold State.sendPending
  repeat' (first
    | with_reducible assumption
    | intro _
    | with_reducible apply Moves.ite
    | exact (rfl : _ = true)
    | with_reducible apply State.forAll_moves
    | with_reducible apply State.updFn_moves
    | with_reducible apply State.sendHost_moves)

theorem State.forgetRing_moves {l_ : List Part} {z_ : State} {s : State} {f : Nat} {i : Nat} (h_ : Moves l_ z_ s) (hl_ : Part.sub [.qe] l_ = true) :
    Moves l_ z_ (State.forgetRing s f i) := by
  refine h_.step ?_ hl_
  clear h_ hl_
  have h_ := Moves.refl [.qe] s
  unfold State.forgetRing
  repeat' (first
    | with_reducible assumption
    | intro _
    | with_reducible apply Moves.ite
    | exact (rfl : _ = true)
    | split
    | with_reducible apply Moves.qe)

theorem State.eventOff_moves {l_ : List Part} {z_ : State} {s : State} {cq : Fld} {en : Fld} {g : ℕ} (h_ : Moves l_ z_ s) (hl_ : Part.sub [.regs] l_ = true) :
    Moves l_ z_ (State.eventOff s cq en g) := by
  refine h_.step ?_ hl_
  clear h_ hl_
  have h_ := Moves.refl [.regs] s
  unfold State.eventOff
  repeat' (first
    | with_reducible assumption
    | intro _
    | with_reducible apply Moves.ite
    | exact (rfl : _ = true)
    | with_reducible apply State.setB_moves)

theorem State.setCq_moves {l_ : List Part} {z_ : State} {s : State} {f : ℕ} {i : ℕ} {r : Option CqRec} (h_ : Moves l_ z_ s) (hl_ : Part.sub [.qe] l_ = true) :
    Moves l_ z_ (State.setCq s f i r) := by
  refine h_.step ?_ hl_
  clear h_ hl_
  have h_ := Moves.refl [.qe] s
  unfold State.setCq
  repeat' (first
    | with_reducible assumption
    | exact (rfl : _ = true)
    | with_reducible apply Moves.qe)

theorem State.dropCq_moves {l_ : List Part} {z_ : State} {s : State} {f : ℕ} {i : ℕ} (h_ : Moves l_ z_ s) (hl_ : Part.sub [.regs, .qe] l_ = true) :
    Moves l_ z_ (State.dropCq s f i) := by
  refine h_.step ?_ hl_
  clear h_ hl_
  have h_ := Moves.refl [.regs, .qe] s
  unfold State.dropCq
  repeat' (first
    | with_reducible assumption
    | intro _
    | exact (rfl : _ = true)
    | with_reducible apply State.setCq_moves
    | with_reducible apply State.setF_moves
    | with_reducible apply State.forgetRing_moves)

theorem State.setSq_moves {l_ : List Part} {z_ : State} {s : State} {f : ℕ} {i : ℕ} {r : Option SqRec} (h_ : Moves l_ z_ s) (hl_ : Part.sub [.qe] l_ = true) :
    Moves l_ z_ (State.setSq s f i r) := by
  refine h_.step ?_ hl_
  clear h_ hl_
  have h_ := Moves.refl [.qe] s
  unfold State.setSq
  repeat' (first
    | with_reducible assumption
    | exact (rfl : _ = true)
    | with_reducible apply Moves.qe)

theorem State.dropSq_moves {l_ : List Part} {z_ : State} {s : State} {f : ℕ} {i : ℕ} (h_ : Moves l_ z_ s) (hl_ : Part.sub [.regs, .qe] l_ = true) :
    Moves l_ z_ (State.dropSq s f i) := by
  refine h_.step ?_ hl_
  clear h_ hl_
  have h_ := Moves.refl [.regs, .qe] s
  unfold State.dropSq
  repeat' (first
    | with_reducible assumption
    | intro _
    | exact (rfl : _ = true)
    | with_reducible apply State.setF_moves
    | with_reducible apply State.setSq_moves
    | with_reducible apply State.forgetRing_moves)

theorem State.updSq_moves {l_ : List Part} {z_ : State} {s : State} {f : ℕ} {i : ℕ} {g : SqRec → SqRec} (h_ : Moves l_ z_ s) (hl_ : Part.sub [.qe] l_ = true) :
    Moves l_ z_ (State.updSq s f i g) := by
  refine h_.step ?_ hl_
  clear h_ hl_
  have h_ := Moves.refl [.qe] s
  unfold State.updSq
  repeat' (first
    | with_reducible assumption
    | exact (rfl : _ = true)
    | with_reducible apply State.setSq_moves
    | split)

theorem State.updCq_moves {l_ : List Part} {z_ : State} {s : State} {f : ℕ} {i : ℕ} {g : CqRec → CqRec} (h_ : Moves l_ z_ s) (hl_ : Part.sub [.qe] l_ = true) :
    Moves l_ z_ (State.updCq s f i g) := by
  refine h_.step ?_ hl_
  clear h_ hl_
  have h_ := Moves.refl [.qe] s
  unfold State.updCq
  repeat' (first
    | with_reducible assumption
    | exact (rfl : _ = true)
    | with_reducible apply State.setCq_moves
    | split)

theorem State.writeRsbCq_moves {l_ : List Part} {z_ : State} {s : State} {f : ℕ} {i : ℕ} (h_ : Moves l_ z_ s) (hl_ : Part.sub [.regs, .qe, .fn, .out] l_ = true) :
    Moves l_ z_ (State.writeRsbCq s f i) := by
  refine h_.step ?_ hl_
  clear h_ hl_
  have h_ := Moves.refl [.regs, .qe, .fn, .out] s
  unfold State.writeRsbCq
  repeat' (first
    | with_reducible assumption
    | intro _
    | exact (rfl : _ = true)
    | with_reducible apply State.setB_moves
    | with_reducible apply State.putRsb_moves
    | split)

theorem State.showPos_moves {l_ : List Part} {z_ : State} {s : State} {f : ℕ} {i : ℕ} (h_ : Moves l_ z_ s) (hl_ : Part.sub [.regs] l_ = true) :
    Moves l_ z_ (State.showPos s f i) := by
  refine h_.step ?_ hl_
  clear h_ hl_
  have h_ := Moves.refl [.regs] s
  unfold State.showPos
  repeat' (first
    | with_reducible assumption
    | exact (rfl : _ = true)
    | with_reducible apply State.setF_moves
    | split)

theorem State.showVf_moves {l_ : List Part} {z_ : State} {s : State} {v : ℕ} (h_ : Moves l_ z_ s) (hl_ : Part.sub [.regs] l_ = true) :
    Moves l_ z_ (State.showVf s v) := by
  refine h_.step ?_ hl_
  clear h_ hl_
  have h_ := Moves.refl [.regs] s
  unfold State.showVf
  repeat' (first
    | with_reducible assumption
    | exact (rfl : _ = true)
    | with_reducible apply State.setReg_moves)

theorem State.setVf_moves {l_ : List Part} {z_ : State} {s : State} {v : ℕ} {g : VfRec → VfRec} (h_ : Moves l_ z_ s) (hl_ : Part.sub [.regs, .fn] l_ = true) :
    Moves l_ z_ (State.setVf s v g) := by
  refine h_.step ?_ hl_
  clear h_ hl_
  have h_ := Moves.refl [.regs, .fn] s
  unfold State.setVf
  repeat' (first
    | with_reducible assumption
    | exact (rfl : _ = true)
    | with_reducible apply State.showVf_moves
    | with_reducible apply State.updVf_moves)

theorem State.keepDoorbell_moves {l_ : List Part} {z_ : State} {s : State} {f : ℕ} {i : ℕ} (h_ : Moves l_ z_ s) (hl_ : Part.sub [.qe] l_ = true) :
    Moves l_ z_ (State.keepDoorbell s f i) := by
  refine h_.step ?_ hl_
  clear h_ hl_
  have h_ := Moves.refl [.qe] s
  unfold State.keepDoorbell
  repeat' (first
    | with_reducible assumption
    | intro _
    | with_reducible apply Moves.ite
    | exact (rfl : _ = true)
    | with_reducible apply Moves.qe)

theorem State.scanCq_moves {l_ : List Part} {z_ : State} {s : State} {f : ℕ} {i : ℕ} (h_ : Moves l_ z_ s) (hl_ : Part.sub [.qe, .fn, .out] l_ = true) :
    Moves l_ z_ (State.scanCq s f i) := by
  refine h_.step ?_ hl_
  clear h_ hl_
  have h_ := Moves.refl [.qe, .fn, .out] s
  unfold State.scanCq
  repeat' (first
    | with_reducible assumption
    | intro _
    | exact (rfl : _ = true)
    | with_reducible apply State.keepDoorbell_moves
    | with_reducible apply State.updCq_moves
    | with_reducible apply State.sendHost_moves
    | split)

theorem State.resetDone_moves {l_ : List Part} {z_ : State} {s : State} {f : ℕ} (h_ : Moves l_ z_ s) (hl_ : Part.sub [.regs, .qe, .bm, .xb, .fn, .out] l_ = true) :
    Moves l_ z_ (State.resetDone s f) := by
  refine h_.step ?_ hl_
  clear h_ hl_
  have h_ := Moves.refl [.regs, .qe, .bm, .xb, .fn, .out] s
  unfold State.resetDone
  repeat' (first
    | with_reducible assumption
    | intro _
    | with_reducible apply Moves.ite
    | with_reducible apply Moves.foldl
    | exact (rfl : _ = true)
    | with_reducible apply State.dropCq_moves
    | with_reducible apply State.dropSq_moves
    | with_reducible apply State.eventOff_moves
    | with_reducible apply State.scanCq_moves
    | with_reducible apply State.setB_moves
    | with_reducible apply State.setF_moves
    | with_reducible apply State.setVf_moves
    | with_reducible apply State.showPos_moves
    | with_reducible apply State.updCq_moves
    | with_reducible apply State.updSq_moves
    | with_reducible apply State.writeRsbCq_moves
    | split
    | with_reducible apply Moves.qe
    | with_reducible apply Moves.bm
    | with_reducible apply Moves.xb
    | with_reducible apply Moves.fn
    | ((with_reducible apply Moves.many); (on_goal 2 => (intro p hp; cases p <;> first | rfl | exact absurd hp (by decide)))))

theorem State.showExec_moves {l_ : List Part} {z_ : State} {s : State} (h_ : Moves l_ z_ s) (hl_ : Part.sub [.regs] l_ = true) :
    Moves l_ z_ (State.showExec s) := by
  refine h_.step ?_ hl_
  clear h_ hl_
  have h_ := Moves.refl [.regs] s
  unfold State.showExec
  repeat' (first
    | with_reducible assumption
    | exact (rfl : _ = true)
    | with_reducible apply State.setB_moves)

theorem State.writeRsbSq_moves {l_ : List Part} {z_ : State} {s : State} {f : ℕ} {i : ℕ} (h_ : Moves l_ z_ s) (hl_ : Part.sub [.regs, .qe, .fn, .out] l_ = true) :
    Moves l_ z_ (State.writeRsbSq s f i) := by
  refine h_.step ?_ hl_
  clear h_ hl_
  have h_ := Moves.refl [.regs, .qe, .fn, .out] s
  unfold State.writeRsbSq
  repeat' (first
    | with_reducible assumption
    | intro _
    | exact (rfl : _ = true)
    | with_reducible apply State.setB_moves
    | with_reducible apply State.putRsb_moves
    | split)

theorem State.sendRsbs_moves {l_ : List Part} {z_ : State} {s : State} {f : Nat} (h_ : Moves l_ z_ s) (hl_ : Part.sub [.regs, .qe, .fn, .out] l_ = true) :
    Moves l_ z_ (State.sendRsbs s f) := by
  refine h_.step ?_ hl_
  clear h_ hl_
  have h_ := Moves.refl [.regs, .qe, .fn, .out] s
  unfold State.sendRsbs
  repeat' (first
    | with_reducible assumption
    | intro _
    | with_reducible apply Moves.ite
    | exact (rfl : _ = true)
    | with_reducible apply State.forAll_moves
    | with_reducible apply State.writeRsbCq_moves
    | with_reducible apply State.writeRsbSq_moves
    | split
    | with_reducible apply Moves.qe)

theorem State.signalCq_moves {l_ : List Part} {z_ : State} {s : State} {f : ℕ} {i : ℕ} (h_ : Moves l_ z_ s) (hl_ : Part.sub [.qe, .fn, .out] l_ = true) :
    Moves l_ z_ (State.signalCq s f i) := by
  refine h_.step ?_ hl_
  clear h_ hl_
  have h_ := Moves.refl [.qe, .fn, .out] s
  unfold State.signalCq
  repeat' (first
    | with_reducible assumption
    | exact (rfl : _ = true)
    | with_reducible apply State.setCq_moves
    | with_reducible apply State.signal_moves
    | split)

theorem State.moderationOver_moves {l_ : List Part} {z_ : State} {s : State} {f : ℕ} {i : ℕ} (h_ : Moves l_ z_ s) (hl_ : Part.sub [.qe, .fn, .out] l_ = true) :
    Moves l_ z_ (State.moderationOver s f i) := by
  refine h_.step ?_ hl_
  clear h_ hl_
  have h_ := Moves.refl [.qe, .fn, .out] s
  unfold State.moderationOver
  repeat' (first
    | with_reducible assumption
    | intro _
    | exact (rfl : _ = true)
    | with_reducible apply State.setCq_moves
    | with_reducible apply State.signalCq_moves
    | split)

theorem State.nextWindow_moves {l_ : List Part} {z_ : State} {s : State} {f : Nat} {i : Nat} {q : Cqe} (h_ : Moves l_ z_ s) (hl_ : Part.sub [.qe, .fn, .out] l_ = true) :
    Moves l_ z_ (State.nextWindow s f i q) := by
  refine h_.step ?_ hl_
  clear h_ hl_
  have h_ := Moves.refl [.qe, .fn, .out] s
  unfold State.nextWindow
  repeat' (first
    | with_reducible assumption
    | intro _
    | with_reducible apply Moves.ite
    | exact (rfl : _ = true)
    | with_reducible apply State.moderationOver_moves
    | with_reducible apply State.setCq_moves
    | split)

theorem State.enterOverflow_moves {l_ : List Part} {z_ : State} {s : State} {f : ℕ} {i : ℕ} (h_ : Moves l_ z_ s) (hl_ : Part.sub [.regs, .qe, .fn, .out] l_ = true) :
    Moves l_ z_ (State.enterOverflow s f i) := by
  refine h_.step ?_ hl_
  clear h_ hl_
  have h_ := Moves.refl [.regs, .qe, .fn, .out] s
  unfold State.enterOverflow
  repeat' (first
    | with_reducible assumption
    | intro _
    | with_reducible apply Moves.foldl
    | exact (rfl : _ = true)
    | with_reducible apply State.bump_moves
    | with_reducible apply State.setCq_moves
    | with_reducible apply State.signalCq_moves
    | with_reducible apply State.updSq_moves
    | with_reducible apply State.writeRsbCq_moves
    | with_reducible apply State.writeRsbSq_moves
    | split)

theorem State.holdCqe_moves {l_ : List Part} {z_ : State} {s : State} {f : ℕ} {i : ℕ} {q : Cqe} (h_ : Moves l_ z_ s) (hl_ : Part.sub [.regs, .qe, .fn, .out] l_ = true) :
    Moves l_ z_ (State.holdCqe s f i q) := by
  refine h_.step ?_ hl_
  clear h_ hl_
  have h_ := Moves.refl [.regs, .qe, .fn, .out] s
  unfold State.holdCqe
  repeat' (first
    | with_reducible assumption
    | exact (rfl : _ = true)
    | with_reducible apply State.enterOverflow_moves
    | with_reducible apply State.setCq_moves
    | split)

theorem State.writeCqe_moves {l_ : List Part} {z_ : State} {s : State} {f : ℕ} {i : ℕ} {q : Cqe} (h_ : Moves l_ z_ s) (hl_ : Part.sub [.regs, .qe, .fn, .out] l_ = true) :
    Moves l_ z_ (State.writeCqe s f i q) := by
  refine h_.step ?_ hl_
  clear h_ hl_
  have h_ := Moves.refl [.regs, .qe, .fn, .out] s
  unfold State.writeCqe
  repeat' (first
    | with_reducible assumption
    | (extract_lets -underBinder +onlyGivenNames x_; first | (refine (fun hx_ : Moves [.regs, .qe, .fn, .out] s x_ => ?_) ?_; (on_goal 1 => (clear_value x_; revert hx_; revert x_; intro _ _)); (on_goal 2 => subst x_)) | (clear_value x_; revert x_; intro _))
    | intro _
    | exact (rfl : _ = true)
    | with_reducible apply State.setCq_moves
    | with_reducible apply State.showPos_moves
    | with_reducible apply State.signalCq_moves
    | with_reducible apply State.nextWindow_moves
    | with_reducible apply State.sendHost_moves
    | split)

theorem State.postCqe_moves {l_ : List Part} {z_ : State} {s : State} {f : ℕ} {i : ℕ} {q : Cqe} {reason : ℕ} (h_ : Moves l_ z_ s) (hl_ : Part.sub [.regs, .qe, .fn, .out] l_ = true) :
    Moves l_ z_ (State.postCqe s f i q reason) := by
  refine h_.step ?_ hl_
  clear h_ hl_
  have h_ := Moves.refl [.regs, .qe, .fn, .out] s
  unfold State.postCqe
  repeat' (first
    | with_reducible assumption
    | (extract_lets -underBinder +onlyGivenNames x_; first | (refine (fun hx_ : Moves [.regs, .qe, .fn, .out] s x_ => ?_) ?_; (on_goal 1 => (clear_value x_; revert hx_; revert x_; intro _ _)); (on_goal 2 => subst x_)) | (clear_value x_; revert x_; intro _))
    | intro _
    | exact (rfl : _ = true)
    | with_reducible apply State.bump_moves
    | with_reducible apply State.holdCqe_moves
    | with_reducible apply State.sendPme_moves
    | with_reducible apply State.updVf_moves
    | with_reducible apply State.writeCqe_moves
    | with_reducible apply State.suppressPme_moves
    | with_reducible apply State.updFn_moves
    | split)

theorem State.finishIdle_moves {l_ : List Part} {z_ : State} {s : State} {f : ℕ} {i : ℕ} (h_ : Moves l_ z_ s) (hl_ : Part.sub [.regs, .qe, .fn, .out] l_ = true) :
    Moves l_ z_ (State.finishIdle s f i) := by
  refine h_.step ?_ hl_
  clear h_ hl_
  have h_ := Moves.refl [.regs, .qe, .fn, .out] s
  unfold State.finishIdle
  repeat' (first
    | with_reducible assumption
    | intro _
    | exact (rfl : _ = true)
    | with_reducible apply State.dropSq_moves
    | with_reducible apply State.postCqe_moves
    | with_reducible apply State.setSq_moves
    | with_reducible apply State.showExec_moves
    | with_reducible apply State.writeRsbSq_moves
    | split
    | with_reducible apply Moves.qe)

theorem State.squash_moves {l_ : List Part} {z_ : State} {s : State} {r : EntryRef} {e : Sqe} {where_ : ℕ} {unit : ℕ} {residue : ℕ} (h_ : Moves l_ z_ s) (hl_ : Part.sub [.regs, .fn] l_ = true) :
    Moves l_ z_ (State.squash s r e where_ unit residue) := by
  refine h_.step ?_ hl_
  clear h_ hl_
  have h_ := Moves.refl [.regs, .fn] s
  unfold State.squash
  repeat' (first
    | with_reducible assumption
    | intro _
    | with_reducible apply Moves.ite
    | exact (rfl : _ = true)
    | with_reducible apply State.bump_moves
    | with_reducible apply State.setVf_moves
    | with_reducible apply Moves.fn)

theorem State.endStarted_moves {l_ : List Part} {z_ : State} {s : State} {r : EntryRef} {q : Cqe} (h_ : Moves l_ z_ s) (hl_ : Part.sub [.regs, .qe, .fn, .out] l_ = true) :
    Moves l_ z_ (State.endStarted s r q) := by
  refine h_.step ?_ hl_
  clear h_ hl_
  have h_ := Moves.refl [.regs, .qe, .fn, .out] s
  unfold State.endStarted
  repeat' (first
    | with_reducible assumption
    | exact (rfl : _ = true)
    | with_reducible apply State.finishIdle_moves
    | with_reducible apply State.postCqe_moves
    | with_reducible apply State.showExec_moves
    | with_reducible apply State.squash_moves
    | split
    | with_reducible apply Moves.qe)

theorem State.settleFn_moves {l_ : List Part} {z_ : State} {s : State} {f : ℕ} (h_ : Moves l_ z_ s) (hl_ : Part.sub [.regs, .qe, .bm, .xb, .fn, .out] l_ = true) :
    Moves l_ z_ (State.settleFn s f) := by
  refine h_.step ?_ hl_
  clear h_ hl_
  have h_ := Moves.refl [.regs, .qe, .bm, .xb, .fn, .out] s
  unfold State.settleFn
  repeat' (first
    | with_reducible assumption
    | (extract_lets -underBinder +onlyGivenNames x_; (clear_value x_; revert x_; intro _))
    | intro _
    | with_reducible apply Moves.foldl
    | exact (rfl : _ = true)
    | with_reducible apply State.endStarted_moves
    | with_reducible apply State.resetDone_moves
    | with_reducible apply State.setVf_moves
    | split)

theorem State.finishEntry_moves {l_ : List Part} {z_ : State} {s : State} {r : EntryRef} {q : Cqe} (h_ : Moves l_ z_ s) (hl_ : Part.sub [.regs, .qe, .bm, .xb, .fn, .out] l_ = true) :
    Moves l_ z_ (State.finishEntry s r q) := by
  refine h_.step ?_ hl_
  clear h_ hl_
  have h_ := Moves.refl [.regs, .qe, .bm, .xb, .fn, .out] s
  unfold State.finishEntry
  repeat' (first
    | with_reducible assumption
    | exact (rfl : _ = true)
    | with_reducible apply State.endStarted_moves
    | with_reducible apply State.settleFn_moves)

theorem State.showCache_moves {l_ : List Part} {z_ : State} {s : State} (h_ : Moves l_ z_ s) (hl_ : Part.sub [.regs] l_ = true) :
    Moves l_ z_ (State.showCache s) := by
  refine h_.step ?_ hl_
  clear h_ hl_
  have h_ := Moves.refl [.regs] s
  unfold State.showCache
  repeat' (first
    | with_reducible assumption
    | exact (rfl : _ = true)
    | with_reducible apply State.high_moves
    | with_reducible apply State.setB_moves
    | with_reducible apply State.setF_moves)

theorem State.setCache_moves {l_ : List Part} {z_ : State} {s : State} {c : List CacheEnt} (h_ : Moves l_ z_ s) (hl_ : Part.sub [.regs, .qe] l_ = true) :
    Moves l_ z_ (State.setCache s c) := by
  refine h_.step ?_ hl_
  clear h_ hl_
  have h_ := Moves.refl [.regs, .qe] s
  unfold State.setCache
  repeat' (first
    | with_reducible assumption
    | exact (rfl : _ = true)
    | with_reducible apply State.showCache_moves
    | with_reducible apply Moves.qe)

theorem State.complete_moves {l_ : List Part} {z_ : State} {s : State} {r : EntryRef} {e : Sqe} {status : ℕ} {residue : optParam ℕ 0} {d4 : optParam Word 0} {d5 : optParam Word 0} {d6 : optParam Word 0} {d7 : optParam Word 0} {urgent : optParam Bool Bool.false} (h_ : Moves l_ z_ s) (hl_ : Part.sub [.regs, .qe, .bm, .xb, .fn, .out] l_ = true) :
    Moves l_ z_ (State.complete s r e status residue d4 d5 d6 d7 urgent) := by
  refine h_.step ?_ hl_
  clear h_ hl_
  have h_ := Moves.refl [.regs, .qe, .bm, .xb, .fn, .out] s
  unfold State.complete
  repeat' (first
    | with_reducible assumption
    | exact (rfl : _ = true)
    | with_reducible apply State.finishEntry_moves)

theorem State.completeRef_moves {l_ : List Part} {z_ : State} {s : State} {r : EntryRef} {status : ℕ} {residue : optParam ℕ 0} {d4 : optParam Word 0} {d5 : optParam Word 0} {d6 : optParam Word 0} {d7 : optParam Word 0} {urgent : optParam Bool Bool.false} (h_ : Moves l_ z_ s) (hl_ : Part.sub [.regs, .qe, .bm, .xb, .fn, .out] l_ = true) :
    Moves l_ z_ (State.completeRef s r status residue d4 d5 d6 d7 urgent) := by
  refine h_.step ?_ hl_
  clear h_ hl_
  have h_ := Moves.refl [.regs, .qe, .bm, .xb, .fn, .out] s
  unfold State.completeRef
  repeat' (first
    | with_reducible assumption
    | exact (rfl : _ = true)
    | with_reducible apply State.complete_moves
    | split)

theorem State.postEvent_moves {l_ : List Part} {z_ : State} {s : State} {glob : ℕ} {dws : List Word} {reason : ℕ} {r_ : State} (h_ : Moves l_ z_ s) (hl_ : Part.sub [.regs, .qe, .fn, .out] l_ = true) (e_ : State.postEvent s glob dws reason = some r_) :
    Moves l_ z_ r_ := by
  refine h_.step ?_ hl_
  clear h_ hl_
  have h_ := Moves.refl [.regs, .qe, .fn, .out] s
  unfold State.postEvent at e_
  try dsimp only at e_
  repeat' (first
    | (injection e_ with e_; subst e_)
    | (cases e_; done)
    | split at e_)
  all_goals try dsimp only
  repeat' (first
    | (injection e_ with e_; subst e_)
    | split at e_
    | with_reducible assumption
    | exact (rfl : _ = true)
    | with_reducible apply State.postCqe_moves)

theorem State.scanSq_moves {l_ : List Part} {z_ : State} {s : State} {f : ℕ} {i : ℕ} (h_ : Moves l_ z_ s) (hl_ : Part.sub [.qe, .fn, .out] l_ = true) :
    Moves l_ z_ (State.scanSq s f i) := by
  refine h_.step ?_ hl_
  clear h_ hl_
  have h_ := Moves.refl [.qe, .fn, .out] s
  unfold State.scanSq
  repeat' (first
    | with_reducible assumption
    | intro _
    | exact (rfl : _ = true)
    | with_reducible apply State.keepDoorbell_moves
    | with_reducible apply State.updSq_moves
    | with_reducible apply State.sendHost_moves
    | split)

theorem State.rescan_moves {l_ : List Part} {z_ : State} {s : State} (h_ : Moves l_ z_ s) (hl_ : Part.sub [.regs, .qe, .fn, .out] l_ = true) :
    Moves l_ z_ (State.rescan s) := by
  refine h_.step ?_ hl_
  clear h_ hl_
  have h_ := Moves.refl [.regs, .qe, .fn, .out] s
  unfold State.rescan
  repeat' (first
    | with_reducible assumption
    | intro _
    | with_reducible apply Moves.ite
    | with_reducible apply Moves.foldl
    | exact (rfl : _ = true)
    | with_reducible apply State.scanCq_moves
    | with_reducible apply State.scanSq_moves
    | with_reducible apply State.bump_moves
    | with_reducible apply State.keepDoorbell_moves
    | with_reducible apply Moves.qe)

theorem State.endOverflow_moves {l_ : List Part} {z_ : State} {s : State} {f : ℕ} {i : ℕ} (h_ : Moves l_ z_ s) (hl_ : Part.sub [.regs, .qe, .fn, .out] l_ = true) :
    Moves l_ z_ (State.endOverflow s f i) := by
  refine h_.step ?_ hl_
  clear h_ hl_
  have h_ := Moves.refl [.regs, .qe, .fn, .out] s
  unfold State.endOverflow
  repeat' (first
    | with_reducible assumption
    | intro _
    | with_reducible apply Moves.foldl
    | exact (rfl : _ = true)
    | with_reducible apply State.rescan_moves
    | with_reducible apply State.setCq_moves
    | with_reducible apply State.updSq_moves
    | with_reducible apply State.writeRsbCq_moves
    | with_reducible apply State.writeRsbSq_moves
    | split)

theorem State.drainCq_moves {l_ : List Part} {z_ : State} {s : State} {f : ℕ} {i : ℕ} {a3_ : ℕ} (h_ : Moves l_ z_ s) (hl_ : Part.sub [.regs, .qe, .fn, .out] l_ = true) :
    Moves l_ z_ (State.drainCq s f i a3_) := by
  refine h_.step ?_ hl_
  clear h_ hl_
  induction a3_ generalizing s with
  | zero => exact Moves.refl _ _
  | succ n_ ih_ =>
    have h_ := Moves.refl [.regs, .qe, .fn, .out] s
    unfold State.drainCq
    repeat' (first
      | with_reducible refine Moves.trans ?_ ih_
      | with_reducible assumption
      | exact (rfl : _ = true)
      | with_reducible apply State.setCq_moves
      | with_reducible apply State.writeCqe_moves
      | split)

theorem State.flushCq_moves {l_ : List Part} {z_ : State} {s : State} {f : ℕ} {i : ℕ} (h_ : Moves l_ z_ s) (hl_ : Part.sub [.regs, .qe, .fn, .out] l_ = true) :
    Moves l_ z_ (State.flushCq s f i) := by
  refine h_.step ?_ hl_
  clear h_ hl_
  have h_ := Moves.refl [.regs, .qe, .fn, .out] s
  unfold State.flushCq
  repeat' (first
    | with_reducible assumption
    | intro _
    | exact (rfl : _ = true)
    | with_reducible apply State.drainCq_moves
    | with_reducible apply State.endOverflow_moves
    | with_reducible apply State.finishIdle_moves
    | with_reducible apply State.forAll_moves
    | split)

theorem State.startRec_moves {l_ : List Part} {z_ : State} {s : State} {r : EntryRef} {e : Sqe} {where_ : ℕ} {unit : ℕ} (h_ : Moves l_ z_ s) (hl_ : Part.sub [.regs, .qe] l_ = true) :
    Moves l_ z_ (State.startRec s r e where_ unit) := by
  refine h_.step ?_ hl_
  clear h_ hl_
  have h_ := Moves.refl [.regs, .qe] s
  unfold State.startRec
  repeat' (first
    | with_reducible assumption
    | exact (rfl : _ = true)
    | with_reducible apply State.setCache_moves
    | with_reducible apply State.showExec_moves
    | with_reducible apply Moves.qe)

theorem State.markStarted_moves {l_ : List Part} {z_ : State} {s : State} {r : EntryRef} {where_ : ℕ} {unit : ℕ} (h_ : Moves l_ z_ s) (hl_ : Part.sub [.qe] l_ = true) :
    Moves l_ z_ (State.markStarted s r where_ unit) := by
  refine h_.step ?_ hl_
  clear h_ hl_
  have h_ := Moves.refl [.qe] s
  unfold State.markStarted
  repeat' (first
    | with_reducible assumption
    | exact (rfl : _ = true)
    | with_reducible apply Moves.qe)

end Sys2Proof.Machine
end

