-- ==== Sys2Proof/Laws/EbmOpsMoves.lean ====
section
/-! SUPPORT. What the operations of Machine/EbmOps.lean may touch. -/

set_option Elab.async false
set_option linter.unusedTactic false
set_option linter.unreachableTactic false

namespace Sys2Proof.Machine

theorem State.showSlots_moves {l_ : List Part} {z_ : State} {s : State} (h_ : Moves l_ z_ s) (hl_ : Part.sub [.regs] l_ = true) :
    Moves l_ z_ (State.showSlots s) := by
  refine h_.step ?_ hl_
  clear h_ hl_
  have h_ := Moves.refl [.regs] s
  unfold State.showSlots
  repeat' (first
    | with_reducible assumption
    | exact (rfl : _ = true)
    | with_reducible apply State.setF_moves)

theorem State.setRuns_moves {l_ : List Part} {z_ : State} {s : State} {l : List (ℕ × ℕ)} (h_ : Moves l_ z_ s) (hl_ : Part.sub [.regs, .ebm] l_ = true) :
    Moves l_ z_ (State.setRuns s l) := by
  refine h_.step ?_ hl_
  clear h_ hl_
  have h_ := Moves.refl [.regs, .ebm] s
  unfold State.setRuns
  repeat' (first
    | with_reducible assumption
    | intro _
    | exact (rfl : _ = true)
    | with_reducible apply State.showSlots_moves
    | with_reducible apply Moves.ebm)

theorem State.allocSlot_moves {l_ : List Part} {z_ : State} {s : State} {n : ℕ} {r_ : State × ℕ} (h_ : Moves l_ z_ s) (hl_ : Part.sub [.regs, .ebm] l_ = true) (e_ : State.allocSlot s n = some r_) :
    Moves l_ z_ r_.1 := by
  refine h_.step ?_ hl_
  clear h_ hl_
  have h_ := Moves.refl [.regs, .ebm] s
  unfold State.allocSlot at e_
  try dsimp only at e_
  repeat' (first
    | (injection e_ with e_; subst e_)
    | (cases e_; done)
    | split at e_)
  all_goals try dsimp only
  repeat' (first
    | (injection e_ with e_; subst e_)
    | split at e_
    | with_reducible assumption
    | exact (rfl : _ = true)
    | with_reducible apply State.setRuns_moves)

theorem State.setGroupSlot_moves {l_ : List Part} {z_ : State} {s : State} {g : ℕ} {r : GroupSlot} (h_ : Moves l_ z_ s) (hl_ : Part.sub [.ebm] l_ = true) :
    Moves l_ z_ (State.setGroupSlot s g r) := by
  refine h_.step ?_ hl_
  clear h_ hl_
  have h_ := Moves.refl [.ebm] s
  unfold State.setGroupSlot
  repeat' (first
    | with_reducible assumption
    | intro _
    | exact (rfl : _ = true)
    | with_reducible apply Moves.ebm)

theorem State.freeSlot_moves {l_ : List Part} {z_ : State} {s : State} {g : ℕ} (h_ : Moves l_ z_ s) (hl_ : Part.sub [.regs, .ebm] l_ = true) :
    Moves l_ z_ (State.freeSlot s g) := by
  refine h_.step ?_ hl_
  clear h_ hl_
  have h_ := Moves.refl [.regs, .ebm] s
  unfold State.freeSlot
  repeat' (first
    | with_reducible assumption
    | exact (rfl : _ = true)
    | with_reducible apply State.setRuns_moves)

theorem State.setSlotNow_moves {l_ : List Part} {z_ : State} {s : State} {key : Nat} {g : Nat} {n : Nat} (h_ : Moves l_ z_ s) (hl_ : Part.sub [.ebm] l_ = true) :
    Moves l_ z_ (State.setSlotNow s key g n) := by
  refine h_.step ?_ hl_
  clear h_ hl_
  have h_ := Moves.refl [.ebm] s
  unfold State.setSlotNow
  repeat' (first
    | with_reducible assumption
    | intro _
    | with_reducible apply Moves.ite
    | exact (rfl : _ = true)
    | with_reducible apply State.setCf_moves
    | with_reducible apply State.setGroupSlot_moves
    | split)

theorem State.writeHalf_moves {l_ : List Part} {z_ : State} {s : State} {h : ℕ} {m : ℕ} {b : List Byte} (h_ : Moves l_ z_ s) (hl_ : Part.sub [.ebm] l_ = true) :
    Moves l_ z_ (State.writeHalf s h m b) := by
  refine h_.step ?_ hl_
  clear h_ hl_
  have h_ := Moves.refl [.ebm] s
  unfold State.writeHalf
  repeat' (first
    | with_reducible assumption
    | intro _
    | exact (rfl : _ = true)
    | with_reducible apply State.ebmWrite_moves
    | with_reducible apply State.setCf_moves)

theorem State.acceptIn_moves {l_ : List Part} {z_ : State} {s : State} {h : ℕ} {m : ℕ} {b : List Byte} (h_ : Moves l_ z_ s) (hl_ : Part.sub [.regs, .ebm] l_ = true) :
    Moves l_ z_ (State.acceptIn s h m b).1 := by
  refine h_.step ?_ hl_
  clear h_ hl_
  have h_ := Moves.refl [.regs, .ebm] s
  unfold State.acceptIn
  repeat' (first
    | with_reducible assumption
    | exact (rfl : _ = true)
    | with_reducible apply State.bumpCf_moves
    | with_reducible apply State.bump_moves
    | with_reducible apply State.writeHalf_moves
    | split)

theorem State.writeGroupHalf_moves {l_ : List Part} {z_ : State} {s : State} {g : ℕ} {p : ℕ} {b : List Byte} (h_ : Moves l_ z_ s) (hl_ : Part.sub [.ebm] l_ = true) :
    Moves l_ z_ (State.writeGroupHalf s g p b) := by
  refine h_.step ?_ hl_
  clear h_ hl_
  have h_ := Moves.refl [.ebm] s
  unfold State.writeGroupHalf
  repeat' (first
    | with_reducible assumption
    | intro _
    | exact (rfl : _ = true)
    | with_reducible apply State.ebmWrite_moves
    | with_reducible apply State.setGroupSlot_moves
    | split)

theorem State.ebmUncorrected_moves {l_ : List Part} {z_ : State} {s : State} {a : ℕ} (h_ : Moves l_ z_ s) (hl_ : Part.sub [.regs] l_ = true) :
    Moves l_ z_ (State.ebmUncorrected s a) := by
  refine h_.step ?_ hl_
  clear h_ hl_
  have h_ := Moves.refl [.regs] s
  unfold State.ebmUncorrected
  repeat' (first
    | with_reducible assumption
    | intro _
    | with_reducible apply Moves.ite
    | exact (rfl : _ = true)
    | with_reducible apply State.bump_moves
    | with_reducible apply State.setB_moves
    | with_reducible apply State.setF_moves)

end Sys2Proof.Machine
end

