-- ==== Sys2Proof/Laws/ViewOpsMoves.lean ====
section
/-! SUPPORT. What the operations of Machine/ViewOps.lean may touch. -/

set_option Elab.async false
set_option linter.unusedTactic false
set_option linter.unreachableTactic false

namespace Sys2Proof.Machine

theorem State.showLate_moves {l_ : List Part} {z_ : State} {s : State} (h_ : Moves l_ z_ s) (hl_ : Part.sub [.regs] l_ = true) :
    Moves l_ z_ (State.showLate s) := by
  refine h_.step ?_ hl_
  clear h_ hl_
  have h_ := Moves.refl [.regs] s
  unfold State.showLate
  repeat' (first
    | with_reducible assumption
    | exact (rfl : _ = true)
    | with_reducible apply State.setB_moves
    | with_reducible apply State.setF_moves)

theorem State.setView_moves {l_ : List Part} {z_ : State} {s : State} {k : ℕ} {v : ViewRec} (h_ : Moves l_ z_ s) (hl_ : Part.sub [.regs, .xb] l_ = true) :
    Moves l_ z_ (State.setView s k v) := by
  refine h_.step ?_ hl_
  clear h_ hl_
  have h_ := Moves.refl [.regs, .xb] s
  unfold State.setView
  repeat' (first
    | with_reducible assumption
    | exact (rfl : _ = true)
    | with_reducible apply State.setF_moves
    | with_reducible apply Moves.xb)

theorem State.updView_moves {l_ : List Part} {z_ : State} {s : State} {k : ℕ} {g : ViewRec → ViewRec} (h_ : Moves l_ z_ s) (hl_ : Part.sub [.regs, .xb] l_ = true) :
    Moves l_ z_ (State.updView s k g) := by
  refine h_.step ?_ hl_
  clear h_ hl_
  have h_ := Moves.refl [.regs, .xb] s
  unfold State.updView
  repeat' (first
    | with_reducible assumption
    | exact (rfl : _ = true)
    | with_reducible apply State.setView_moves)

theorem State.dropQueued_moves {l_ : List Part} {z_ : State} {k : ℕ} {posted : Bool} {q : List Acc} {s : State} (h_ : Moves l_ z_ s) (hl_ : Part.sub [.regs, .xb, .fn, .out] l_ = true) :
    Moves l_ z_ (State.dropQueued s k posted q) := by
  induction q generalizing s with
  | nil => exact State.updView_moves h_ (Part.sub_trans rfl hl_)
  | cons a q ih =>
    have sub {m : List Part} (h : Part.sub m [.regs, .xb, .fn, .out] = true) : Part.sub m l_ = true := Part.sub_trans h hl_
    have refused : Moves l_ z_ (((s.sendHost (.ans .completerAbort)).aer (viewFn k) Aer.completerAbort)) :=
      State.aer_moves (State.sendHost_moves h_ (sub rfl)) (sub rfl)
    unfold State.dropQueued
    split
    · exact ih (State.bump_moves h_ (sub rfl))
    · refine Moves.ite (fun _ => ih h_) (fun _ => Moves.ite (fun _ => ih refused) (fun _ => ?_))
      exact State.updView_moves (State.setB_moves refused (sub rfl)) (sub rfl)

theorem State.clearView_moves {l_ : List Part} {z_ : State} {s : State} {k : ℕ} (h_ : Moves l_ z_ s) (hl_ : Part.sub [.regs, .xb] l_ = true) :
    Moves l_ z_ (State.clearView s k) := by
  refine h_.step ?_ hl_
  clear h_ hl_
  have h_ := Moves.refl [.regs, .xb] s
  unfold State.clearView
  repeat' (first
    | with_reducible assumption
    | exact (rfl : _ = true)
    | with_reducible apply State.setB_moves
    | with_reducible apply State.updView_moves)

theorem State.fireLate_moves {l_ : List Part} {z_ : State} {s : State} {k : ℕ} (h_ : Moves l_ z_ s) (hl_ : Part.sub [.fn, .out] l_ = true) :
    Moves l_ z_ (State.fireLate s k) := by
  refine h_.step ?_ hl_
  clear h_ hl_
  have h_ := Moves.refl [.fn, .out] s
  unfold State.fireLate
  repeat' (first
    | with_reducible assumption
    | intro _
    | with_reducible apply Moves.ite
    | exact (rfl : _ = true)
    | with_reducible apply State.signal_moves
    | with_reducible apply State.when_moves)

theorem State.faultView_moves {l_ : List Part} {z_ : State} {s : State} {k : ℕ} {dropQueue : Bool} (h_ : Moves l_ z_ s) (hl_ : Part.sub [.regs, .xb, .fn, .out] l_ = true) :
    Moves l_ z_ (State.faultView s k dropQueue) := by
  refine h_.step ?_ hl_
  clear h_ hl_
  have h_ := Moves.refl [.regs, .xb, .fn, .out] s
  unfold State.faultView
  dsimp only
  repeat' (first
    | with_reducible assumption
    | intro _
    | exact (rfl : _ = true)
    | with_reducible apply State.dropQueued_moves
    | with_reducible apply State.setB_moves
    | with_reducible apply State.updView_moves
    | split)

theorem State.logLate_moves {l_ : List Part} {z_ : State} {s : State} {r : LateRec} (h_ : Moves l_ z_ s) (hl_ : Part.sub [.regs, .xb] l_ = true) :
    Moves l_ z_ (State.logLate s r) := by
  refine h_.step ?_ hl_
  clear h_ hl_
  have h_ := Moves.refl [.regs, .xb] s
  unfold State.logLate
  repeat' (first
    | with_reducible assumption
    | intro _
    | with_reducible apply Moves.ite
    | exact (rfl : _ = true)
    | with_reducible apply State.bump_moves
    | with_reducible apply State.showLate_moves
    | with_reducible apply Moves.xb)

theorem State.writeFailed_moves {l_ : List Part} {z_ : State} {s : State} {k : ℕ} {a : Acc} {kind : ℕ} {status : ℕ} (h_ : Moves l_ z_ s) (hl_ : Part.sub [.regs, .xb, .fn, .out] l_ = true) :
    Moves l_ z_ (State.writeFailed s k a kind status) := by
  refine h_.step ?_ hl_
  clear h_ hl_
  have h_ := Moves.refl [.regs, .xb, .fn, .out] s
  unfold State.writeFailed
  repeat' (first
    | with_reducible assumption
    | exact (rfl : _ = true)
    | with_reducible apply State.faultView_moves
    | with_reducible apply State.fireLate_moves
    | with_reducible apply State.logLate_moves)

theorem State.readFailed_moves {l_ : List Part} {z_ : State} {s : State} {k : ℕ} {a : Acc} {status : ℕ} (h_ : Moves l_ z_ s) (hl_ : Part.sub [.regs, .xb, .fn, .out] l_ = true) :
    Moves l_ z_ (State.readFailed s k a status) := by
  refine h_.step ?_ hl_
  clear h_ hl_
  have h_ := Moves.refl [.regs, .xb, .fn, .out] s
  unfold State.readFailed
  repeat' (first
    | with_reducible assumption
    | intro _
    | exact (rfl : _ = true)
    | with_reducible apply State.aer_moves
    | with_reducible apply State.logLate_moves
    | with_reducible apply State.sendHost_moves)

theorem State.endAccess_moves {l_ : List Part} {z_ : State} {s : State} {k : ℕ} {status : ℕ} {data : List Byte} (h_ : Moves l_ z_ s) (hl_ : Part.sub [.regs, .qe, .bm, .xb, .fn, .out] l_ = true) :
    Moves l_ z_ (State.endAccess s k status data) := by
  refine h_.step ?_ hl_
  clear h_ hl_
  have h_ := Moves.refl [.regs, .qe, .bm, .xb, .fn, .out] s
  unfold State.endAccess
  repeat' (first
    | with_reducible assumption
    | (extract_lets -underBinder +onlyGivenNames x_; first | (refine (fun hx_ : Moves [.regs, .qe, .bm, .xb, .fn, .out] s x_ => ?_) ?_; (on_goal 1 => (clear_value x_; revert hx_; revert x_; intro _ _)); (on_goal 2 => subst x_)) | (clear_value x_; revert x_; intro _))
    | intro _
    | exact (rfl : _ = true)
    | with_reducible apply State.aer_moves
    | with_reducible apply State.logLate_moves
    | with_reducible apply State.readFailed_moves
    | with_reducible apply State.setView_moves
    | with_reducible apply State.settleFn_moves
    | with_reducible apply State.updView_moves
    | with_reducible apply State.writeFailed_moves
    | with_reducible apply State.sendHost_moves
    | split)

end Sys2Proof.Machine
end

