-- ==== Sys2Proof/Laws/BusOpsMoves.lean ====
section
/-! SUPPORT. What the operations of Machine/BusOps.lean may touch. -/

set_option Elab.async false
set_option linter.unusedTactic false
set_option linter.unreachableTactic false

namespace Sys2Proof.Machine

theorem State.setEngine_moves {l_ : List Part} {z_ : State} {s : State} {e : ℕ} {r : EngRec} (h_ : Moves l_ z_ s) (hl_ : Part.sub [.regs, .bm] l_ = true) :
    Moves l_ z_ (State.setEngine s e r) := by
  refine h_.step ?_ hl_
  clear h_ hl_
  have h_ := Moves.refl [.regs, .bm] s
  unfold State.setEngine
  repeat' (first
    | with_reducible assumption
    | exact (rfl : _ = true)
    | with_reducible apply State.setB_moves
    | with_reducible apply State.setF_moves
    | split
    | with_reducible apply Moves.bm)

theorem State.fillBuf_moves {l_ : List Part} {z_ : State} {s : State} {r : Xfer} {b : PktBuf} (h_ : Moves l_ z_ s) (hl_ : Part.sub [.ebm] l_ = true) :
    Moves l_ z_ (State.fillBuf s r b) := by
  refine h_.step ?_ hl_
  clear h_ hl_
  have h_ := Moves.refl [.ebm] s
  unfold State.fillBuf
  repeat' (first
    | with_reducible assumption
    | intro _
    | with_reducible apply Moves.ite
    | exact (rfl : _ = true)
    | with_reducible apply State.ebmWrite_moves
    | split)

theorem State.slotFor_moves {l_ : List Part} {z_ : State} {s : State} {x : ℕ} {n : ℕ} {r_ : State × ℕ} (h_ : Moves l_ z_ s) (hl_ : Part.sub [.regs, .ebm] l_ = true) (e_ : State.slotFor s x n = some r_) :
    Moves l_ z_ r_.1 := by
  unfold State.slotFor at e_
  split at e_
  · exact State.allocSlot_moves h_ hl_ e_
  · cases e_

theorem State.stopWait_moves {l_ : List Part} {z_ : State} {s : State} {x : Nat} (h_ : Moves l_ z_ s) (hl_ : Part.sub [.ebm] l_ = true) :
    Moves l_ z_ (State.stopWait s x) := by
  refine h_.step ?_ hl_
  clear h_ hl_
  have h_ := Moves.refl [.ebm] s
  unfold State.stopWait
  repeat' (first
    | with_reducible assumption
    | intro _
    | with_reducible apply Moves.ite
    | exact (rfl : _ = true)
    | split
    | with_reducible apply Moves.ebm)

theorem State.startWait_moves {l_ : List Part} {z_ : State} {s : State} {x : Nat} (h_ : Moves l_ z_ s) (hl_ : Part.sub [.regs, .ebm] l_ = true) :
    Moves l_ z_ (State.startWait s x) := by
  refine h_.step ?_ hl_
  clear h_ hl_
  have h_ := Moves.refl [.regs, .ebm] s
  unfold State.startWait
  repeat' (first
    | with_reducible assumption
    | intro _
    | with_reducible apply Moves.ite
    | exact (rfl : _ = true)
    | with_reducible apply State.bump_moves
    | split
    | with_reducible apply Moves.ebm)

theorem State.setNpTx_moves {l_ : List Part} {z_ : State} {s : State} {k : ℕ} {r : Option NpTx} (h_ : Moves l_ z_ s) (hl_ : Part.sub [.bus] l_ = true) :
    Moves l_ z_ (State.setNpTx s k r) := by
  refine h_.step ?_ hl_
  clear h_ hl_
  have h_ := Moves.refl [.bus] s
  unfold State.setNpTx
  repeat' (first
    | with_reducible assumption
    | exact (rfl : _ = true)
    | with_reducible apply Moves.bus)

theorem State.setGen_moves {l_ : List Part} {z_ : State} {s : State} {g : ℕ} {r : GenSt} (h_ : Moves l_ z_ s) (hl_ : Part.sub [.mre] l_ = true) :
    Moves l_ z_ (State.setGen s g r) := by
  refine h_.step ?_ hl_
  clear h_ hl_
  have h_ := Moves.refl [.mre] s
  unfold State.setGen
  repeat' (first
    | with_reducible assumption
    | exact (rfl : _ = true)
    | with_reducible apply Moves.mre)

theorem State.takeGenSlot_moves {l_ : List Part} {z_ : State} {s : State} {g : ℕ} (h_ : Moves l_ z_ s)
    (hl_ : Part.sub [.regs, .ebm, .mre] l_ = true) : Moves l_ z_ (State.takeGenSlot s g) := by
  unfold State.takeGenSlot
  extract_lets r
  refine Moves.ite (fun _ => State.stopWait_moves h_ (Part.sub_trans rfl hl_)) (fun _ => ?_)
  split
  · next e => exact State.setGen_moves (State.stopWait_moves (State.slotFor_moves h_ (Part.sub_trans rfl hl_) e) (Part.sub_trans rfl hl_)) (Part.sub_trans rfl hl_)
  · exact State.startWait_moves h_ (Part.sub_trans rfl hl_)

theorem State.setXfer_moves {l_ : List Part} {z_ : State} {s : State} {x : ℕ} {r : Option Xfer} (h_ : Moves l_ z_ s) (hl_ : Part.sub [.bus] l_ = true) :
    Moves l_ z_ (State.setXfer s x r) := by
  refine h_.step ?_ hl_
  clear h_ hl_
  have h_ := Moves.refl [.bus] s
  unfold State.setXfer
  repeat' (first
    | with_reducible assumption
    | exact (rfl : _ = true)
    | with_reducible apply Moves.bus)

theorem State.takeSlot_moves {l_ : List Part} {z_ : State} {s : State} {x : ℕ} (h_ : Moves l_ z_ s) (hl_ : Part.sub [.regs, .ebm, .bus, .mre] l_ = true) :
    Moves l_ z_ (State.takeSlot s x) := by
  refine h_.step ?_ hl_
  clear h_ hl_
  have h_ := Moves.refl [.regs, .ebm, .bus, .mre] s
  unfold State.takeSlot
  repeat' (first
    | with_reducible assumption
    | intro _
    | refine State.slotFor_moves ?_ ?_ (by assumption)
    | exact (rfl : _ = true)
    | with_reducible apply State.setCf_moves
    | with_reducible apply State.setXfer_moves
    | with_reducible apply State.takeGenSlot_moves
    | with_reducible apply State.startWait_moves
    | with_reducible apply State.stopWait_moves
    | split
    | with_reducible apply Moves.ebm)

theorem State.beginXfer_moves {l_ : List Part} {z_ : State} {s : State} {r : Xfer} (h_ : Moves l_ z_ s) (hl_ : Part.sub [.regs, .ebm, .bus, .mre] l_ = true) :
    Moves l_ z_ (State.beginXfer s r).1 := by
  refine h_.step ?_ hl_
  clear h_ hl_
  have h_ := Moves.refl [.regs, .ebm, .bus, .mre] s
  unfold State.beginXfer
  repeat' (first
    | with_reducible assumption
    | with_reducible apply Moves.foldl_fst
    | intro _
    | exact (rfl : _ = true)
    | with_reducible apply State.setXfer_moves
    | with_reducible apply State.takeSlot_moves
    | split
    | with_reducible apply Moves.bus)

theorem State.saveSeq_moves {l_ : List Part} {z_ : State} {s : State} {r : Xfer} (h_ : Moves l_ z_ s) (hl_ : Part.sub [.ebm, .pu, .out] l_ = true) :
    Moves l_ z_ (State.saveSeq s r) := by
  refine h_.step ?_ hl_
  clear h_ hl_
  have h_ := Moves.refl [.ebm, .pu, .out] s
  unfold State.saveSeq
  repeat' (first
    | with_reducible assumption
    | intro _
    | exact (rfl : _ = true)
    | with_reducible apply State.setCf_moves
    | with_reducible apply State.tellCtx_moves
    | split)

theorem State.showFull_moves {l_ : List Part} {z_ : State} {s : State} {h : ℕ} {w : ℕ} {b : List PktBuf} (h_ : Moves l_ z_ s) (hl_ : Part.sub [.ebm] l_ = true) :
    Moves l_ z_ (State.showFull s h w b) := by
  refine h_.step ?_ hl_
  clear h_ hl_
  have h_ := Moves.refl [.ebm] s
  unfold State.showFull
  repeat' (first
    | with_reducible assumption
    | exact (rfl : _ = true)
    | with_reducible apply State.setCf_moves)

theorem State.showBufs_moves {l_ : List Part} {z_ : State} {s : State} {r : Xfer} (h_ : Moves l_ z_ s) (hl_ : Part.sub [.ebm] l_ = true) :
    Moves l_ z_ (State.showBufs s r) := by
  refine h_.step ?_ hl_
  clear h_ hl_
  have h_ := Moves.refl [.ebm] s
  unfold State.showBufs
  repeat' (first
    | with_reducible assumption
    | intro _
    | with_reducible apply Moves.ite
    | exact (rfl : _ = true)
    | with_reducible apply State.showFull_moves
    | split)

theorem State.stallCleared_moves {l_ : List Part} {z_ : State} {s : State} {h : ℕ} (h_ : Moves l_ z_ s) (hl_ : Part.sub [.ebm, .bus, .pu, .out] l_ = true) :
    Moves l_ z_ (State.stallCleared s h) := by
  refine h_.step ?_ hl_
  clear h_ hl_
  have h_ := Moves.refl [.ebm, .bus, .pu, .out] s
  unfold State.stallCleared
  repeat' (first
    | with_reducible assumption
    | exact (rfl : _ = true)
    | with_reducible apply State.setCf_moves
    | with_reducible apply State.setCtx_moves
    | with_reducible apply State.setXfer_moves
    | with_reducible apply State.tellCtx_moves
    | split
    | with_reducible apply Moves.bus)

theorem State.closeTx_moves {l_ : List Part} {z_ : State} {s : State} {k : ℕ} (h_ : Moves l_ z_ s) (hl_ : Part.sub [.bus] l_ = true) :
    Moves l_ z_ (State.closeTx s k) := by
  refine h_.step ?_ hl_
  clear h_ hl_
  have h_ := Moves.refl [.bus] s
  unfold State.closeTx
  repeat' (first
    | with_reducible assumption
    | exact (rfl : _ = true)
    | with_reducible apply State.setNpTx_moves
    | with_reducible apply Moves.bus)

theorem State.closeAll_moves {l_ : List Part} {z_ : State} {s : State} {x : ℕ} (h_ : Moves l_ z_ s) (hl_ : Part.sub [.bus] l_ = true) :
    Moves l_ z_ (State.closeAll s x) := by
  refine h_.step ?_ hl_
  clear h_ hl_
  have h_ := Moves.refl [.bus] s
  unfold State.closeAll
  repeat' (first
    | with_reducible assumption
    | intro _
    | with_reducible apply Moves.foldl
    | exact (rfl : _ = true)
    | with_reducible apply State.closeTx_moves)

theorem State.lockEnd_moves {l_ : List Part} {z_ : State} {s : State} {k : ℕ} {status : ℕ} (h_ : Moves l_ z_ s) (hl_ : Part.sub [.regs, .bus, .qe, .bm, .xb, .fn, .out] l_ = true) :
    Moves l_ z_ (State.lockEnd s k status) := by
  refine h_.step ?_ hl_
  clear h_ hl_
  have h_ := Moves.refl [.regs, .bus, .qe, .bm, .xb, .fn, .out] s
  unfold State.lockEnd
  repeat' (first
    | with_reducible assumption
    | intro _
    | exact (rfl : _ = true)
    | with_reducible apply State.bump_moves
    | with_reducible apply State.closeAll_moves
    | with_reducible apply State.endAccess_moves
    | with_reducible apply State.updView_moves
    | with_reducible apply State.when_moves
    | split)

theorem State.noWork_moves {l_ : List Part} {z_ : State} {s : State} {t : ℕ} {f : ℕ} (h_ : Moves l_ z_ s) (hl_ : Part.sub [.ts] l_ = true) :
    Moves l_ z_ (State.noWork s t f) := by
  refine h_.step ?_ hl_
  clear h_ hl_
  have h_ := Moves.refl [.ts] s
  unfold State.noWork
  repeat' (first
    | with_reducible assumption
    | intro _
    | with_reducible apply Moves.ite
    | exact (rfl : _ = true)
    | with_reducible apply Moves.ts)

theorem State.nextOn_moves {l_ : List Part} {z_ : State} {s : State} {h : ℕ} (h_ : Moves l_ z_ s) (hl_ : Part.sub [.bus] l_ = true) :
    Moves l_ z_ (State.nextOn s h) := by
  refine h_.step ?_ hl_
  clear h_ hl_
  have h_ := Moves.refl [.bus] s
  unfold State.nextOn
  repeat' (first
    | with_reducible assumption
    | exact (rfl : _ = true)
    | with_reducible apply State.setXfer_moves
    | split)

theorem State.serveWaits_moves {l_ : List Part} {z_ : State} {s : State} (h_ : Moves l_ z_ s) (hl_ : Part.sub [.regs, .ebm, .bus, .mre] l_ = true) :
    Moves l_ z_ (State.serveWaits s) := by
  refine h_.step ?_ hl_
  clear h_ hl_
  have h_ := Moves.refl [.regs, .ebm, .bus, .mre] s
  unfold State.serveWaits
  repeat' (first
    | with_reducible assumption
    | intro _
    | with_reducible apply Moves.foldl
    | exact (rfl : _ = true)
    | with_reducible apply State.takeSlot_moves)

theorem State.restGen_moves {l_ : List Part} {z_ : State} {s : State} {g : ℕ} (h_ : Moves l_ z_ s) (hl_ : Part.sub [.regs, .ebm, .bus, .mre] l_ = true) :
    Moves l_ z_ (State.restGen s g) := by
  refine h_.step ?_ hl_
  clear h_ hl_
  have h_ := Moves.refl [.regs, .ebm, .bus, .mre] s
  unfold State.restGen
  repeat' (first
    | with_reducible assumption
    | intro _
    | exact (rfl : _ = true)
    | with_reducible apply State.freeSlot_moves
    | with_reducible apply State.serveWaits_moves
    | with_reducible apply State.setGen_moves
    | split
    | with_reducible apply Moves.ebm)

theorem State.dropXfer_moves {l_ : List Part} {z_ : State} {s : State} {x : ℕ} (h_ : Moves l_ z_ s) (hl_ : Part.sub [.regs, .ts, .ebm, .bus, .mre] l_ = true) :
    Moves l_ z_ (State.dropXfer s x) := by
  refine h_.step ?_ hl_
  clear h_ hl_
  have h_ := Moves.refl [.regs, .ts, .ebm, .bus, .mre] s
  unfold State.dropXfer
  repeat' (first
    | with_reducible assumption
    | intro _
    | exact (rfl : _ = true)
    | with_reducible apply State.closeAll_moves
    | with_reducible apply State.freeSlot_moves
    | with_reducible apply State.nextOn_moves
    | with_reducible apply State.noWork_moves
    | with_reducible apply State.serveWaits_moves
    | with_reducible apply State.setCf_moves
    | with_reducible apply State.setXfer_moves
    | with_reducible apply State.stopWait_moves
    | with_reducible apply State.when_moves
    | split
    | with_reducible apply Moves.ebm)

theorem State.setChan_moves {l_ : List Part} {z_ : State} {s : State} {c : ℕ} {r : ChanRec} (h_ : Moves l_ z_ s) (hl_ : Part.sub [.bm] l_ = true) :
    Moves l_ z_ (State.setChan s c r) := by
  refine h_.step ?_ hl_
  clear h_ hl_
  have h_ := Moves.refl [.bm] s
  unfold State.setChan
  repeat' (first
    | with_reducible assumption
    | exact (rfl : _ = true)
    | with_reducible apply Moves.bm)

theorem State.setJob_moves {l_ : List Part} {z_ : State} {s : State} {c : ℕ} {j : Option Job} (h_ : Moves l_ z_ s) (hl_ : Part.sub [.bm] l_ = true) :
    Moves l_ z_ (State.setJob s c j) := by
  refine h_.step ?_ hl_
  clear h_ hl_
  have h_ := Moves.refl [.bm] s
  unfold State.setJob
  repeat' (first
    | with_reducible assumption
    | exact (rfl : _ = true)
    | with_reducible apply State.setChan_moves)

theorem State.freeChan_moves {l_ : List Part} {z_ : State} {s : State} {c : ℕ} (h_ : Moves l_ z_ s) (hl_ : Part.sub [.regs, .bm] l_ = true) :
    Moves l_ z_ (State.freeChan s c) := by
  refine h_.step ?_ hl_
  clear h_ hl_
  have h_ := Moves.refl [.regs, .bm] s
  unfold State.freeChan
  repeat' (first
    | with_reducible assumption
    | exact (rfl : _ = true)
    | with_reducible apply State.setEngine_moves
    | with_reducible apply State.setJob_moves)

theorem State.endEntry_moves {l_ : List Part} {z_ : State} {s : State} {c : Option ℕ} {r : EntryRef} {en : Ending} (h_ : Moves l_ z_ s) (hl_ : Part.sub [.regs, .qe, .bm, .xb, .fn, .out] l_ = true) :
    Moves l_ z_ (State.endEntry s c r en) := by
  refine h_.step ?_ hl_
  clear h_ hl_
  have h_ := Moves.refl [.regs, .qe, .bm, .xb, .fn, .out] s
  unfold State.endEntry
  repeat' (first
    | with_reducible assumption
    | (extract_lets -underBinder +onlyGivenNames x_; (refine (fun hx_ : Moves [.regs, .qe, .bm, .xb, .fn, .out] s x_ => ?_) ?_; (on_goal 1 => (clear_value x_; revert hx_; revert x_; intro _ _)); (on_goal 2 => subst x_)))
    | intro _
    | exact (rfl : _ = true)
    | with_reducible apply State.bump_moves
    | with_reducible apply State.completeRef_moves
    | with_reducible apply State.freeChan_moves
    | with_reducible apply State.setJob_moves
    | with_reducible apply State.when_moves
    | split)

theorem State.endClip_moves {l_ : List Part} {z_ : State} {s : State} {c : ClipRun} {status : ℕ} {urgent : optParam Bool Bool.false} (h_ : Moves l_ z_ s) (hl_ : Part.sub [.regs, .qe, .bm, .xb, .fn, .out] l_ = true) :
    Moves l_ z_ (State.endClip s c status urgent) := by
  refine h_.step ?_ hl_
  clear h_ hl_
  have h_ := Moves.refl [.regs, .qe, .bm, .xb, .fn, .out] s
  unfold State.endClip
  repeat' (first
    | with_reducible assumption
    | exact (rfl : _ = true)
    | with_reducible apply State.endEntry_moves)

theorem State.endXfer_moves {l_ : List Part} {z_ : State} {s : State} {x : ℕ} {status : ℕ} {urgent : optParam Bool Bool.false} (h_ : Moves l_ z_ s) (hl_ : Part.sub [.regs, .ts, .ebm, .bus, .qe, .bm, .xb, .fn, .mre, .out] l_ = true) :
    Moves l_ z_ (State.endXfer s x status urgent) := by
  refine h_.step ?_ hl_
  clear h_ hl_
  have h_ := Moves.refl [.regs, .ts, .ebm, .bus, .qe, .bm, .xb, .fn, .mre, .out] s
  unfold State.endXfer
  repeat' (first
    | with_reducible assumption
    | exact (rfl : _ = true)
    | with_reducible apply State.dropXfer_moves
    | with_reducible apply State.endAccess_moves
    | with_reducible apply State.endEntry_moves
    | split
    | with_reducible apply Moves.bus)

theorem State.failAttempt_moves {l_ : List Part} {z_ : State} {s : State} {x : ℕ} {seq : ℕ} (h_ : Moves l_ z_ s) (hl_ : Part.sub [.regs, .ts, .ebm, .bus, .qe, .bm, .xb, .fn, .mre, .out] l_ = true) :
    Moves l_ z_ (State.failAttempt s x seq) := by
  refine h_.step ?_ hl_
  clear h_ hl_
  have h_ := Moves.refl [.regs, .ts, .ebm, .bus, .qe, .bm, .xb, .fn, .mre, .out] s
  unfold State.failAttempt
  repeat' (first
    | with_reducible assumption
    | (extract_lets -underBinder +onlyGivenNames x_; (clear_value x_; revert x_; intro _))
    | exact (rfl : _ = true)
    | with_reducible apply State.endXfer_moves
    | with_reducible apply State.setXfer_moves
    | split)

theorem State.updXfer_moves {l_ : List Part} {z_ : State} {s : State} {x : ℕ} {g : Xfer → Xfer} (h_ : Moves l_ z_ s) (hl_ : Part.sub [.bus] l_ = true) :
    Moves l_ z_ (State.updXfer s x g) := by
  refine h_.step ?_ hl_
  clear h_ hl_
  have h_ := Moves.refl [.bus] s
  unfold State.updXfer
  repeat' (first
    | with_reducible assumption
    | exact (rfl : _ = true)
    | with_reducible apply State.setXfer_moves
    | split)

theorem State.nakAttempt_moves {l_ : List Part} {z_ : State} {s : State} {x : Nat} {seq : Nat} {start : Nat} (h_ : Moves l_ z_ s) (hl_ : Part.sub [.regs, .ts, .ebm, .bus, .qe, .bm, .xb, .fn, .mre, .out] l_ = true) :
    Moves l_ z_ (State.nakAttempt s x seq start) := by
  refine h_.step ?_ hl_
  clear h_ hl_
  have h_ := Moves.refl [.regs, .ts, .ebm, .bus, .qe, .bm, .xb, .fn, .mre, .out] s
  unfold State.nakAttempt
  repeat' (first
    | with_reducible assumption
    | intro _
    | with_reducible apply Moves.ite
    | exact (rfl : _ = true)
    | with_reducible apply State.endXfer_moves
    | with_reducible apply State.setXfer_moves
    | split)

end Sys2Proof.Machine
end

