-- ==== Sys2Proof/Laws/PortOpsMoves.lean ====
section
/-! SUPPORT. What the operations of Machine/PortOps.lean may touch. -/

set_option Elab.async false
set_option linter.unusedTactic false
set_option linter.unreachableTactic false

namespace Sys2Proof.Machine

theorem State.updLane_moves {l_ : List Part} {z_ : State} {s : State} {n : ℕ} {g : LaneRec → LaneRec} (h_ : Moves l_ z_ s) (hl_ : Part.sub [.lx] l_ = true) :
    Moves l_ z_ (State.updLane s n g) := by
  refine h_.step ?_ hl_
  clear h_ hl_
  have h_ := Moves.refl [.lx] s
  unfold State.updLane
  repeat' (first
    | with_reducible assumption
    | exact (rfl : _ = true)
    | with_reducible apply Moves.lx)

theorem State.updCk_moves {l_ : List Part} {z_ : State} {s : State} {g : ClockSt → ClockSt} (h_ : Moves l_ z_ s)
    (hl_ : Part.sub [.ck] l_ = true)
    (hg : Tbl.wf (fun _ => (0xFF : Byte)) s.ck.flash = true → Tbl.wf (fun _ => (0xFF : Byte)) (g s.ck).flash = true) :
    Moves l_ z_ (State.updCk s g) := h_.ck hl_ _ hg

theorem State.reselect_moves {l_ : List Part} {z_ : State} {s : State} (h_ : Moves l_ z_ s) (hl_ : Part.sub [.regs] l_ = true) :
    Moves l_ z_ (State.reselect s) := by
  refine h_.step ?_ hl_
  clear h_ hl_
  have h_ := Moves.refl [.regs] s
  unfold State.reselect
  repeat' (first
    | with_reducible assumption
    | (extract_lets -underBinder +onlyGivenNames x_; (refine (fun hx_ : Moves [.regs] s x_ => ?_) ?_; (on_goal 1 => (clear_value x_; revert hx_; revert x_; intro _ _)); (on_goal 2 => subst x_)))
    | exact (rfl : _ = true)
    | with_reducible apply State.bump_moves
    | with_reducible apply State.setB_moves
    | with_reducible apply State.setF_moves
    | split)

theorem State.refFollows_moves {l_ : List Part} {z_ : State} {s : State} {n : Nat} {was : Nat} {st : Nat} (h_ : Moves l_ z_ s) (hl_ : Part.sub [.regs, .ck] l_ = true) :
    Moves l_ z_ (State.refFollows s n was st) := by
  refine h_.step ?_ hl_
  clear h_ hl_
  have h_ := Moves.refl [.regs, .ck] s
  unfold State.refFollows
  repeat' (first
    | with_reducible assumption
    | intro _
    | with_reducible apply Moves.ite
    | exact (rfl : _ = true)
    | with_reducible apply State.bump_moves
    | with_reducible apply State.reselect_moves
    | with_reducible apply State.updCk_moves
    | split)

theorem State.setLane_moves {l_ : List Part} {z_ : State} {s : State} {n : ℕ} {st : ℕ} (h_ : Moves l_ z_ s) (hl_ : Part.sub [.regs, .lx, .ck] l_ = true) :
    Moves l_ z_ (State.setLane s n st) := by
  refine h_.step ?_ hl_
  clear h_ hl_
  have h_ := Moves.refl [.regs, .lx, .ck] s
  unfold State.setLane
  repeat' (first
    | with_reducible assumption
    | intro _
    | exact (rfl : _ = true)
    | with_reducible apply State.setF_moves
    | with_reducible apply State.updLane_moves
    | with_reducible apply State.setB_moves
    | with_reducible apply State.refFollows_moves
    | split)

theorem State.quietLane_moves {l_ : List Part} {z_ : State} {s : State} {n : ℕ} (h_ : Moves l_ z_ s) (hl_ : Part.sub [.regs, .lx, .ck] l_ = true) :
    Moves l_ z_ (State.quietLane s n) := by
  refine h_.step ?_ hl_
  clear h_ hl_
  have h_ := Moves.refl [.regs, .lx, .ck] s
  unfold State.quietLane
  repeat' (first
    | with_reducible assumption
    | exact (rfl : _ = true)
    | with_reducible apply State.setLane_moves
    | with_reducible apply State.updLane_moves)

theorem State.sendTimed_moves {l_ : List Part} {z_ : State} {s : State} {f : MioOut} (h_ : Moves l_ z_ s) (hl_ : Part.sub [.out] l_ = true) :
    Moves l_ z_ (State.sendTimed s f) := by
  refine h_.step ?_ hl_
  clear h_ hl_
  have h_ := Moves.refl [.out] s
  unfold State.sendTimed
  repeat' (first
    | with_reducible assumption
    | intro _
    | with_reducible apply Moves.ite
    | exact (rfl : _ = true)
    | with_reducible apply State.emit_moves)

theorem State.sendMarker_moves {l_ : List Part} {z_ : State} {s : State} {n : Nat} (h_ : Moves l_ z_ s) (hl_ : Part.sub [.lx, .free, .out] l_ = true) :
    Moves l_ z_ (State.sendMarker s n) := by
  refine h_.step ?_ hl_
  clear h_ hl_
  have h_ := Moves.refl [.lx, .free, .out] s
  unfold State.sendMarker
  repeat' (first
    | with_reducible assumption
    | intro _
    | with_reducible apply Moves.ite
    | exact (rfl : _ = true)
    | with_reducible apply State.emit_moves
    | with_reducible apply State.updLane_moves
    | split)

theorem State.lanesOn_moves {l_ : List Part} {z_ : State} {s : State} {t : Nat} {l : List Nat} (h_ : Moves l_ z_ s) (hl_ : Part.sub [.lx, .free, .out] l_ = true) :
    Moves l_ z_ (State.lanesOn s t l) := by
  refine h_.step ?_ hl_
  clear h_ hl_
  have h_ := Moves.refl [.lx, .free, .out] s
  unfold State.lanesOn
  repeat' (first
    | with_reducible assumption
    | intro _
    | with_reducible apply Moves.ite
    | with_reducible apply Moves.foldl
    | exact (rfl : _ = true)
    | with_reducible apply State.emit_moves
    | with_reducible apply State.sendMarker_moves
    | split)

theorem State.lanesResume_moves {l_ : List Part} {z_ : State} {s : State} {p : ℕ} (h_ : Moves l_ z_ s) (hl_ : Part.sub [.regs, .lx, .ck, .free, .out] l_ = true) :
    Moves l_ z_ (State.lanesResume s p) := by
  refine h_.step ?_ hl_
  clear h_ hl_
  have h_ := Moves.refl [.regs, .lx, .ck, .free, .out] s
  unfold State.lanesResume
  repeat' (first
    | with_reducible assumption
    | intro _
    | with_reducible apply Moves.ite
    | with_reducible apply Moves.foldl
    | exact (rfl : _ = true)
    | with_reducible apply State.setLane_moves
    | with_reducible apply State.lanesOn_moves)

theorem State.setHubPort_moves {l_ : List Part} {z_ : State} {s : State} {h : ℕ} {p : ℕ} {r : Option HubPort} (h_ : Moves l_ z_ s) (hl_ : Part.sub [.tree, .pu, .out] l_ = true) :
    Moves l_ z_ (State.setHubPort s h p r) := by
  refine h_.step ?_ hl_
  clear h_ hl_
  have h_ := Moves.refl [.tree, .pu, .out] s
  unfold State.setHubPort
  repeat' (first
    | with_reducible assumption
    | intro _
    | with_reducible apply Moves.ite
    | exact (rfl : _ = true)
    | with_reducible apply State.tell_moves
    | with_reducible apply Moves.tree)

theorem State.setDev_moves {l_ : List Part} {z_ : State} {s : State} {a : ℕ} {d : Option DevRec} (h_ : Moves l_ z_ s) (hl_ : Part.sub [.tree, .pu, .out] l_ = true) :
    Moves l_ z_ (State.setDev s a d) := by
  refine h_.step ?_ hl_
  clear h_ hl_
  have h_ := Moves.refl [.tree, .pu, .out] s
  unfold State.setDev
  repeat' (first
    | with_reducible assumption
    | intro _
    | with_reducible apply Moves.ite
    | exact (rfl : _ = true)
    | with_reducible apply State.tell_moves
    | with_reducible apply Moves.tree)

theorem State.showRtt_moves {l_ : List Part} {z_ : State} {s : State} {p : ℕ} (h_ : Moves l_ z_ s) (hl_ : Part.sub [.regs] l_ = true) :
    Moves l_ z_ (State.showRtt s p) := by
  refine h_.step ?_ hl_
  clear h_ hl_
  have h_ := Moves.refl [.regs] s
  unfold State.showRtt
  repeat' (first
    | with_reducible assumption
    | exact (rfl : _ = true)
    | with_reducible apply State.setF_moves)

theorem State.endDevXfers_moves {l_ : List Part} {z_ : State} {s : State} {a : ℕ} {status : ℕ} (h_ : Moves l_ z_ s) (hl_ : Part.sub [.regs, .ts, .ebm, .bus, .qe, .bm, .xb, .fn, .mre, .out] l_ = true) :
    Moves l_ z_ (State.endDevXfers s a status) := by
  refine h_.step ?_ hl_
  clear h_ hl_
  have h_ := Moves.refl [.regs, .ts, .ebm, .bus, .qe, .bm, .xb, .fn, .mre, .out] s
  unfold State.endDevXfers
  repeat' (first
    | with_reducible assumption
    | intro _
    | with_reducible apply Moves.foldl
    | exact (rfl : _ = true)
    | with_reducible apply State.endXfer_moves
    | with_reducible apply State.lockEnd_moves
    | split)

theorem State.detachDev_moves {l_ : List Part} {z_ : State} {s : State} {d : DevRec} {status : ℕ} (h_ : Moves l_ z_ s) (hl_ : Part.sub [.regs, .tree, .ts, .ebm, .bus, .qe, .bm, .xb, .fn, .mre, .pu, .out] l_ = true) :
    Moves l_ z_ (State.detachDev s d status) := by
  refine h_.step ?_ hl_
  clear h_ hl_
  have h_ := Moves.refl [.regs, .tree, .ts, .ebm, .bus, .qe, .bm, .xb, .fn, .mre, .pu, .out] s
  unfold State.detachDev
  repeat' (first
    | with_reducible assumption
    | intro _
    | with_reducible apply Moves.ite
    | with_reducible apply Moves.foldl
    | exact (rfl : _ = true)
    | with_reducible apply State.endDevXfers_moves
    | with_reducible apply State.setCf_moves
    | with_reducible apply State.setDev_moves
    | with_reducible apply State.showRtt_moves
    | with_reducible apply State.tellCtx_moves
    | split)

theorem State.detachLost_moves {l_ : List Part} {z_ : State} {s : State} {status : ℕ} (h_ : Moves l_ z_ s) (hl_ : Part.sub [.regs, .tree, .ts, .ebm, .bus, .qe, .bm, .xb, .fn, .mre, .pu, .out] l_ = true) :
    Moves l_ z_ (State.detachLost s status) := by
  refine h_.step ?_ hl_
  clear h_ hl_
  have h_ := Moves.refl [.regs, .tree, .ts, .ebm, .bus, .qe, .bm, .xb, .fn, .mre, .pu, .out] s
  unfold State.detachLost
  repeat' (first
    | with_reducible assumption
    | intro _
    | with_reducible apply Moves.ite
    | with_reducible apply Moves.foldl
    | exact (rfl : _ = true)
    | with_reducible apply State.detachDev_moves)

theorem State.showEnum_moves {l_ : List Part} {z_ : State} {s : State} (h_ : Moves l_ z_ s) (hl_ : Part.sub [.regs] l_ = true) :
    Moves l_ z_ (State.showEnum s) := by
  refine h_.step ?_ hl_
  clear h_ hl_
  have h_ := Moves.refl [.regs] s
  unfold State.showEnum
  repeat' (first
    | with_reducible assumption
    | exact (rfl : _ = true)
    | with_reducible apply State.setF_moves)

theorem State.topoEvent_moves {l_ : List Part} {z_ : State} {s : State} {e : TopoEvent} (h_ : Moves l_ z_ s)
    (hl_ : Part.sub [.regs, .tree, .qe, .fn, .out] l_ = true) : Moves l_ z_ (State.topoEvent s e) := by
  unfold State.topoEvent
  refine Moves.ite (fun _ => ?_) (fun _ => h_)
  extract_lets now
  have hn : ∀ t, now = some t → Moves l_ z_ t := fun t e => by
    simp only [now] at e
    split at e <;> [exact State.postEvent_moves h_ (Part.sub_trans rfl hl_) e; cases e]
  clear_value now
  cases now with
  | some t => exact hn t rfl
  | none =>
    have hb : ∀ v, Moves l_ z_ (State.bump { s with tree := v } Reg.TM_EVENTS_MERGED_COUNT) := fun v =>
      State.bump_moves (h_.tree (Part.sub_trans rfl hl_) v) (Part.sub_trans rfl hl_)
    exact Moves.ite (fun _ => h_.tree (Part.sub_trans rfl hl_) _) (fun _ => Moves.ite (fun _ => hb _) (fun _ => hb _))

theorem State.hubEvent_moves {l_ : List Part} {z_ : State} {s : State} {hub : ℕ} {p : ℕ} {ev : ℕ} {reason : ℕ} (h_ : Moves l_ z_ s) (hl_ : Part.sub [.regs, .tree, .qe, .fn, .out] l_ = true) :
    Moves l_ z_ (State.hubEvent s hub p ev reason) := by
  refine h_.step ?_ hl_
  clear h_ hl_
  have h_ := Moves.refl [.regs, .tree, .qe, .fn, .out] s
  unfold State.hubEvent
  repeat' (first
    | with_reducible assumption
    | intro _
    | exact (rfl : _ = true)
    | with_reducible apply State.topoEvent_moves)

theorem State.dropTmXfers_moves {l_ : List Part} {z_ : State} {s : State} {p : ℕ} (h_ : Moves l_ z_ s) (hl_ : Part.sub [.regs, .ts, .ebm, .bus, .mre] l_ = true) :
    Moves l_ z_ (State.dropTmXfers s p) := by
  refine h_.step ?_ hl_
  clear h_ hl_
  have h_ := Moves.refl [.regs, .ts, .ebm, .bus, .mre] s
  unfold State.dropTmXfers
  repeat' (first
    | with_reducible assumption
    | intro _
    | with_reducible apply Moves.foldl
    | exact (rfl : _ = true)
    | with_reducible apply State.dropXfer_moves)

theorem State.dropEnum_moves {l_ : List Part} {z_ : State} {s : State} {p : ℕ} (h_ : Moves l_ z_ s) (hl_ : Part.sub [.regs, .tree, .ts, .ebm, .bus, .mre] l_ = true) :
    Moves l_ z_ (State.dropEnum s p) := by
  refine h_.step ?_ hl_
  clear h_ hl_
  have h_ := Moves.refl [.regs, .tree, .ts, .ebm, .bus, .mre] s
  unfold State.dropEnum
  repeat' (first
    | with_reducible assumption
    | exact (rfl : _ = true)
    | with_reducible apply State.dropTmXfers_moves
    | with_reducible apply Moves.tree)

theorem State.updTrunk_moves {l_ : List Part} {z_ : State} {s : State} {t : ℕ} {g : TrunkRec → TrunkRec} (h_ : Moves l_ z_ s) (hl_ : Part.sub [.lx] l_ = true) :
    Moves l_ z_ (State.updTrunk s t g) := by
  refine h_.step ?_ hl_
  clear h_ hl_
  have h_ := Moves.refl [.lx] s
  unfold State.updTrunk
  repeat' (first
    | with_reducible assumption
    | exact (rfl : _ = true)
    | with_reducible apply Moves.lx)

theorem State.preferOther_moves {l_ : List Part} {z_ : State} {s : State} {t : ℕ} (h_ : Moves l_ z_ s) (hl_ : Part.sub [.lx] l_ = true) :
    Moves l_ z_ (State.preferOther s t) := by
  refine h_.step ?_ hl_
  clear h_ hl_
  have h_ := Moves.refl [.lx] s
  unfold State.preferOther
  repeat' (first
    | with_reducible assumption
    | (extract_lets -underBinder +onlyGivenNames x_; (clear_value x_; revert x_; intro _))
    | exact (rfl : _ = true)
    | with_reducible apply State.updTrunk_moves
    | split)

theorem State.pathMoves_moves {l_ : List Part} {z_ : State} {s : State} {t : Nat} {was : Nat} {st : Nat} (h_ : Moves l_ z_ s) (hl_ : Part.sub [.lx] l_ = true) :
    Moves l_ z_ (State.pathMoves s t was st) := by
  refine h_.step ?_ hl_
  clear h_ hl_
  have h_ := Moves.refl [.lx] s
  unfold State.pathMoves
  dsimp only
  repeat' (first
    | with_reducible assumption
    | intro _
    | with_reducible apply Moves.ite
    | exact (rfl : _ = true)
    | with_reducible apply State.preferOther_moves
    | with_reducible apply State.updTrunk_moves
    | split)

theorem State.setPeerPort_moves {l_ : List Part} {z_ : State} {s : State} {t : ℕ} {st : ℕ} (h_ : Moves l_ z_ s) (hl_ : Part.sub [.lx, .pu] l_ = true) :
    Moves l_ z_ (State.setPeerPort s t st) := by
  refine h_.step ?_ hl_
  clear h_ hl_
  have h_ := Moves.refl [.lx, .pu] s
  unfold State.setPeerPort
  repeat' (first
    | with_reducible assumption
    | intro _
    | exact (rfl : _ = true)
    | with_reducible apply State.updPu_moves
    | with_reducible apply State.pathMoves_moves)

theorem State.peerCommand_moves {l_ : List Part} {z_ : State} {s : State} {p : ℕ} {feat : ℕ} {reason : ℕ} {st : ℕ} {status : ℕ} (h_ : Moves l_ z_ s) (hl_ : Part.sub [.regs, .lx, .tree, .ts, .ebm, .bus, .qe, .bm, .xb, .fn, .mre, .pu, .out] l_ = true) :
    Moves l_ z_ (State.peerCommand s p feat reason st status) := by
  refine h_.step ?_ hl_
  clear h_ hl_
  have h_ := Moves.refl [.regs, .lx, .tree, .ts, .ebm, .bus, .qe, .bm, .xb, .fn, .mre, .pu, .out] s
  unfold State.peerCommand
  repeat' (first
    | with_reducible assumption
    | exact (rfl : _ = true)
    | with_reducible apply State.detachLost_moves
    | with_reducible apply State.setPeerPort_moves
    | with_reducible apply State.tell_moves)

theorem State.updPort_moves {l_ : List Part} {z_ : State} {s : State} {p : ℕ} {g : PortRec → PortRec} (h_ : Moves l_ z_ s) (hl_ : Part.sub [.tree] l_ = true) :
    Moves l_ z_ (State.updPort s p g) := by
  refine h_.step ?_ hl_
  clear h_ hl_
  have h_ := Moves.refl [.tree] s
  unfold State.updPort
  repeat' (first
    | with_reducible assumption
    | exact (rfl : _ = true)
    | with_reducible apply Moves.tree)

theorem State.portChange_moves {l_ : List Part} {z_ : State} {s : State} {p : ℕ} {b : ℕ} (h_ : Moves l_ z_ s) (hl_ : Part.sub [.tree] l_ = true) :
    Moves l_ z_ (State.portChange s p b) := by
  refine h_.step ?_ hl_
  clear h_ hl_
  have h_ := Moves.refl [.tree] s
  unfold State.portChange
  repeat' (first
    | with_reducible assumption
    | exact (rfl : _ = true)
    | with_reducible apply State.updPort_moves)

theorem State.toState_moves {l_ : List Part} {z_ : State} {s : State} {p : ℕ} {st : ℕ} (h_ : Moves l_ z_ s) (hl_ : Part.sub [.regs, .lx, .tree, .pu, .out] l_ = true) :
    Moves l_ z_ (State.toState s p st) := by
  refine h_.step ?_ hl_
  clear h_ hl_
  have h_ := Moves.refl [.regs, .lx, .tree, .pu, .out] s
  unfold State.toState
  repeat' (first
    | with_reducible assumption
    | intro _
    | with_reducible apply Moves.ite
    | exact (rfl : _ = true)
    | with_reducible apply State.portChange_moves
    | with_reducible apply State.sendOrdered_moves
    | with_reducible apply State.setF_moves
    | with_reducible apply State.updPort_moves
    | with_reducible apply State.pathMoves_moves)

theorem State.rootEvent_moves {l_ : List Part} {z_ : State} {s : State} {p : ℕ} {ev : ℕ} {reason : ℕ} (h_ : Moves l_ z_ s) (hl_ : Part.sub [.regs, .tree, .qe, .fn, .pu, .out] l_ = true) :
    Moves l_ z_ (State.rootEvent s p ev reason) := by
  refine h_.step ?_ hl_
  clear h_ hl_
  have h_ := Moves.refl [.regs, .tree, .qe, .fn, .pu, .out] s
  unfold State.rootEvent
  repeat' (first
    | with_reducible assumption
    | intro _
    | with_reducible apply Moves.ite
    | exact (rfl : _ = true)
    | with_reducible apply State.sendOrdered_moves
    | with_reducible apply State.setB_moves
    | with_reducible apply State.topoEvent_moves)

theorem State.portLeaves_moves {l_ : List Part} {z_ : State} {s : State} {p : ℕ} {status : ℕ} (h_ : Moves l_ z_ s) (hl_ : Part.sub [.regs, .tree, .ts, .ebm, .bus, .qe, .bm, .xb, .fn, .mre, .pu, .out] l_ = true) :
    Moves l_ z_ (State.portLeaves s p status) := by
  refine h_.step ?_ hl_
  clear h_ hl_
  have h_ := Moves.refl [.regs, .tree, .ts, .ebm, .bus, .qe, .bm, .xb, .fn, .mre, .pu, .out] s
  unfold State.portLeaves
  repeat' (first
    | with_reducible assumption
    | exact (rfl : _ = true)
    | with_reducible apply State.detachLost_moves
    | with_reducible apply State.dropEnum_moves
    | with_reducible apply State.showEnum_moves)

theorem State.portDisable_moves {l_ : List Part} {z_ : State} {s : State} {p : ℕ} {reason : ℕ} {status : ℕ} (h_ : Moves l_ z_ s) (hl_ : Part.sub [.regs, .lx, .tree, .ts, .ebm, .bus, .qe, .bm, .xb, .fn, .mre, .pu, .out] l_ = true) :
    Moves l_ z_ (State.portDisable s p reason status) := by
  refine h_.step ?_ hl_
  clear h_ hl_
  have h_ := Moves.refl [.regs, .lx, .tree, .ts, .ebm, .bus, .qe, .bm, .xb, .fn, .mre, .pu, .out] s
  unfold State.portDisable
  repeat' (first
    | with_reducible assumption
    | intro _
    | with_reducible apply Moves.ite
    | exact (rfl : _ = true)
    | with_reducible apply State.dropEnum_moves
    | with_reducible apply State.peerCommand_moves
    | with_reducible apply State.portLeaves_moves
    | with_reducible apply State.rootEvent_moves
    | with_reducible apply State.setF_moves
    | with_reducible apply State.showEnum_moves
    | with_reducible apply State.toState_moves
    | with_reducible apply State.updPort_moves)

theorem State.startTraining_moves {l_ : List Part} {z_ : State} {s : State} {n : ℕ} (h_ : Moves l_ z_ s) (hl_ : Part.sub [.regs, .lx, .ck, .out] l_ = true) :
    Moves l_ z_ (State.startTraining s n) := by
  refine h_.step ?_ hl_
  clear h_ hl_
  have h_ := Moves.refl [.regs, .lx, .ck, .out] s
  unfold State.startTraining
  repeat' (first
    | with_reducible assumption
    | intro _
    | with_reducible apply Moves.ite
    | exact (rfl : _ = true)
    | with_reducible apply State.setF_moves
    | with_reducible apply State.setLane_moves
    | with_reducible apply State.updLane_moves
    | with_reducible apply State.emit_moves)

theorem State.trainIdle_moves {l_ : List Part} {z_ : State} {s : State} {t : Nat} (h_ : Moves l_ z_ s) (hl_ : Part.sub [.regs, .lx, .ck, .out] l_ = true) :
    Moves l_ z_ (State.trainIdle s t) := by
  refine h_.step ?_ hl_
  clear h_ hl_
  have h_ := Moves.refl [.regs, .lx, .ck, .out] s
  unfold State.trainIdle
  repeat' (first
    | with_reducible assumption
    | intro _
    | with_reducible apply Moves.ite
    | with_reducible apply Moves.foldl
    | exact (rfl : _ = true)
    | with_reducible apply State.startTraining_moves
    | with_reducible apply State.updLane_moves
    | split)

theorem State.trainTrunk_moves {l_ : List Part} {z_ : State} {s : State} {t : ℕ} (h_ : Moves l_ z_ s) (hl_ : Part.sub [.regs, .lx, .ck, .out] l_ = true) :
    Moves l_ z_ (State.trainTrunk s t) := by
  refine h_.step ?_ hl_
  clear h_ hl_
  have h_ := Moves.refl [.regs, .lx, .ck, .out] s
  unfold State.trainTrunk
  repeat' (first
    | with_reducible assumption
    | intro _
    | with_reducible apply Moves.ite
    | with_reducible apply Moves.foldl
    | exact (rfl : _ = true)
    | with_reducible apply State.startTraining_moves
    | with_reducible apply State.updLane_moves)

theorem State.portPower_moves {l_ : List Part} {z_ : State} {s : State} {p : ℕ} (h_ : Moves l_ z_ s) (hl_ : Part.sub [.regs, .lx, .tree, .pu, .ck, .out] l_ = true) :
    Moves l_ z_ (State.portPower s p) := by
  refine h_.step ?_ hl_
  clear h_ hl_
  have h_ := Moves.refl [.regs, .lx, .tree, .pu, .ck, .out] s
  unfold State.portPower
  repeat' (first
    | with_reducible assumption
    | intro _
    | with_reducible apply Moves.ite
    | exact (rfl : _ = true)
    | with_reducible apply State.setB_moves
    | with_reducible apply State.toState_moves
    | with_reducible apply State.trainIdle_moves
    | with_reducible apply State.updPort_moves)

theorem State.portReset_moves {l_ : List Part} {z_ : State} {s : State} {p : ℕ} {own : Bool} (h_ : Moves l_ z_ s) (hl_ : Part.sub [.regs, .lx, .tree, .ts, .ebm, .bus, .qe, .bm, .xb, .fn, .mre, .pu, .ck, .out] l_ = true) :
    Moves l_ z_ (State.portReset s p own) := by
  refine h_.step ?_ hl_
  clear h_ hl_
  have h_ := Moves.refl [.regs, .lx, .tree, .ts, .ebm, .bus, .qe, .bm, .xb, .fn, .mre, .pu, .ck, .out] s
  unfold State.portReset
  repeat' (first
    | with_reducible assumption
    | intro _
    | with_reducible apply Moves.ite
    | with_reducible apply Moves.foldl
    | exact (rfl : _ = true)
    | with_reducible apply State.detachLost_moves
    | with_reducible apply State.dropEnum_moves
    | with_reducible apply State.peerCommand_moves
    | with_reducible apply State.quietLane_moves
    | with_reducible apply State.showEnum_moves
    | with_reducible apply State.toState_moves
    | with_reducible apply State.updPort_moves)

theorem State.portSuspend_moves {l_ : List Part} {z_ : State} {s : State} {p : ℕ} (h_ : Moves l_ z_ s) (hl_ : Part.sub [.regs, .lx, .tree, .qe, .fn, .pu, .ck, .out] l_ = true) :
    Moves l_ z_ (State.portSuspend s p) := by
  refine h_.step ?_ hl_
  clear h_ hl_
  have h_ := Moves.refl [.regs, .lx, .tree, .qe, .fn, .pu, .ck, .out] s
  unfold State.portSuspend
  repeat' (first
    | with_reducible assumption
    | intro _
    | with_reducible apply Moves.ite
    | with_reducible apply Moves.foldl
    | exact (rfl : _ = true)
    | with_reducible apply State.portChange_moves
    | with_reducible apply State.rootEvent_moves
    | with_reducible apply State.setLane_moves
    | with_reducible apply State.toState_moves
    | with_reducible apply State.updPort_moves
    | with_reducible apply State.emit_moves)

theorem State.portResume_moves {l_ : List Part} {z_ : State} {s : State} {p : ℕ} {wake : Bool} (h_ : Moves l_ z_ s) (hl_ : Part.sub [.regs, .lx, .tree, .qe, .fn, .pu, .ck, .free, .out] l_ = true) :
    Moves l_ z_ (State.portResume s p wake) := by
  refine h_.step ?_ hl_
  clear h_ hl_
  have h_ := Moves.refl [.regs, .lx, .tree, .qe, .fn, .pu, .ck, .free, .out] s
  unfold State.portResume
  repeat' (first
    | with_reducible assumption
    | intro _
    | with_reducible apply Moves.ite
    | exact (rfl : _ = true)
    | with_reducible apply State.portChange_moves
    | with_reducible apply State.rootEvent_moves
    | with_reducible apply State.setB_moves
    | with_reducible apply State.toState_moves
    | with_reducible apply State.updPort_moves
    | with_reducible apply State.lanesResume_moves)

theorem State.portOff_moves {l_ : List Part} {z_ : State} {s : State} {p : ℕ} (h_ : Moves l_ z_ s) (hl_ : Part.sub [.regs, .lx, .tree, .ts, .ebm, .bus, .qe, .bm, .xb, .fn, .mre, .pu, .ck, .out] l_ = true) :
    Moves l_ z_ (State.portOff s p) := by
  refine h_.step ?_ hl_
  clear h_ hl_
  have h_ := Moves.refl [.regs, .lx, .tree, .ts, .ebm, .bus, .qe, .bm, .xb, .fn, .mre, .pu, .ck, .out] s
  unfold State.portOff
  repeat' (first
    | with_reducible assumption
    | intro _
    | with_reducible apply Moves.ite
    | with_reducible apply Moves.foldl
    | exact (rfl : _ = true)
    | with_reducible apply State.portChange_moves
    | with_reducible apply State.portLeaves_moves
    | with_reducible apply State.quietLane_moves
    | with_reducible apply State.rootEvent_moves
    | with_reducible apply State.setB_moves
    | with_reducible apply State.setF_moves
    | with_reducible apply State.toState_moves
    | with_reducible apply State.updPort_moves)

theorem State.portAttach_moves {l_ : List Part} {z_ : State} {s : State} {p : ℕ} {speed : ℕ} (h_ : Moves l_ z_ s) (hl_ : Part.sub [.regs, .lx, .tree, .qe, .fn, .pu, .out] l_ = true) :
    Moves l_ z_ (State.portAttach s p speed) := by
  refine h_.step ?_ hl_
  clear h_ hl_
  have h_ := Moves.refl [.regs, .lx, .tree, .qe, .fn, .pu, .out] s
  unfold State.portAttach
  repeat' (first
    | with_reducible assumption
    | intro _
    | exact (rfl : _ = true)
    | with_reducible apply State.portChange_moves
    | with_reducible apply State.rootEvent_moves
    | with_reducible apply State.setF_moves
    | with_reducible apply State.toState_moves
    | with_reducible apply State.updPort_moves)

theorem State.setGrade_moves {l_ : List Part} {z_ : State} {s : State} {n : ℕ} {g : ℕ} {m : Margins} (h_ : Moves l_ z_ s) (hl_ : Part.sub [.regs, .lx] l_ = true) :
    Moves l_ z_ (State.setGrade s n g m) := by
  refine h_.step ?_ hl_
  clear h_ hl_
  have h_ := Moves.refl [.regs, .lx] s
  unfold State.setGrade
  repeat' (first
    | with_reducible assumption
    | intro _
    | with_reducible apply Moves.ite
    | exact (rfl : _ = true)
    | with_reducible apply State.setB_moves
    | with_reducible apply State.setF_moves
    | with_reducible apply Moves.lx)

theorem State.portEnable_moves {l_ : List Part} {z_ : State} {s : State} {p : ℕ} (h_ : Moves l_ z_ s) (hl_ : Part.sub [.regs, .lx, .tree, .pu, .out] l_ = true) :
    Moves l_ z_ (State.portEnable s p) := by
  refine h_.step ?_ hl_
  clear h_ hl_
  have h_ := Moves.refl [.regs, .lx, .tree, .pu, .out] s
  unfold State.portEnable
  repeat' (first
    | with_reducible assumption
    | exact (rfl : _ = true)
    | with_reducible apply State.setF_moves
    | with_reducible apply State.toState_moves
    | with_reducible apply State.updPort_moves)

theorem State.drainTopo_moves {l_ : List Part} {z_ : State} {s : State} {a1_ : ℕ} (h_ : Moves l_ z_ s) (hl_ : Part.sub [.regs, .tree, .qe, .fn, .out] l_ = true) :
    Moves l_ z_ (State.drainTopo s a1_) := by
  refine h_.step ?_ hl_
  clear h_ hl_
  induction a1_ generalizing s with
  | zero => exact Moves.refl _ _
  | succ n_ ih_ =>
    have h_ := Moves.refl [.regs, .tree, .qe, .fn, .out] s
    unfold State.drainTopo
    repeat' (first
      | with_reducible refine Moves.trans ?_ ih_
      | with_reducible assumption
      | refine State.postEvent_moves ?_ ?_ (by assumption)
      | exact (rfl : _ = true)
      | split
      | with_reducible apply Moves.tree)

theorem State.portLinkLost_moves {l_ : List Part} {z_ : State} {s : State} {p : ℕ} (h_ : Moves l_ z_ s) (hl_ : Part.sub [.regs, .lx, .tree, .ts, .ebm, .bus, .qe, .bm, .xb, .fn, .mre, .pu, .ck, .out] l_ = true) :
    Moves l_ z_ (State.portLinkLost s p) := by
  refine h_.step ?_ hl_
  clear h_ hl_
  have h_ := Moves.refl [.regs, .lx, .tree, .ts, .ebm, .bus, .qe, .bm, .xb, .fn, .mre, .pu, .ck, .out] s
  unfold State.portLinkLost
  repeat' (first
    | with_reducible assumption
    | intro _
    | with_reducible apply Moves.ite
    | exact (rfl : _ = true)
    | with_reducible apply State.bump_moves
    | with_reducible apply State.portChange_moves
    | with_reducible apply State.portDisable_moves
    | with_reducible apply State.portReset_moves)

theorem State.portPresenceLost_moves {l_ : List Part} {z_ : State} {s : State} {p : ℕ} (h_ : Moves l_ z_ s) (hl_ : Part.sub [.regs, .lx, .tree, .ts, .ebm, .bus, .qe, .bm, .xb, .fn, .mre, .pu, .ck, .out] l_ = true) :
    Moves l_ z_ (State.portPresenceLost s p) := by
  refine h_.step ?_ hl_
  clear h_ hl_
  have h_ := Moves.refl [.regs, .lx, .tree, .ts, .ebm, .bus, .qe, .bm, .xb, .fn, .mre, .pu, .ck, .out] s
  unfold State.portPresenceLost
  repeat' (first
    | with_reducible assumption
    | intro _
    | with_reducible apply Moves.ite
    | with_reducible apply Moves.foldl
    | exact (rfl : _ = true)
    | with_reducible apply State.portChange_moves
    | with_reducible apply State.portLeaves_moves
    | with_reducible apply State.rootEvent_moves
    | with_reducible apply State.setF_moves
    | with_reducible apply State.toState_moves
    | with_reducible apply State.updPort_moves
    | with_reducible apply State.quietLane_moves
    | with_reducible apply State.trainIdle_moves)

end Sys2Proof.Machine
end

