-- ==== Sys2Proof/Laws/SchedOpsMoves.lean ====
section
/-! SUPPORT. What the operations of Machine/SchedOps.lean may touch. -/

set_option Elab.async false
set_option linter.unusedTactic false
set_option linter.unreachableTactic false

namespace Sys2Proof.Machine

theorem State.showPool_moves {l_ : List Part} {z_ : State} {s : State} (h_ : Moves l_ z_ s) (hl_ : Part.sub [.regs] l_ = true) :
    Moves l_ z_ (State.showPool s) := by
  refine h_.step ?_ hl_
  clear h_ hl_
  have h_ := Moves.refl [.regs] s
  unfold State.showPool
  repeat' (first
    | with_reducible assumption
    | exact (rfl : _ = true)
    | with_reducible apply State.setF_moves)

theorem State.setEntries_moves {l_ : List Part} {z_ : State} {s : State} {l : ℕ} {bank : ℕ} {e : List PEnt} (h_ : Moves l_ z_ s) (hl_ : Part.sub [.ts] l_ = true) :
    Moves l_ z_ (State.setEntries s l bank e) := by
  refine h_.step ?_ hl_
  clear h_ hl_
  have h_ := Moves.refl [.ts] s
  unfold State.setEntries
  repeat' (first
    | with_reducible assumption
    | exact (rfl : _ = true)
    | with_reducible apply Moves.ts)

theorem State.restage_moves {l_ : List Part} {z_ : State} {s : State} {key : ℕ} {w : List (ℕ × PEnt)} (h_ : Moves l_ z_ s) (hl_ : Part.sub [.ts] l_ = true) :
    Moves l_ z_ (State.restage s key w) := by
  refine h_.step ?_ hl_
  clear h_ hl_
  have h_ := Moves.refl [.ts] s
  unfold State.restage
  repeat' (first
    | with_reducible assumption
    | intro _
    | with_reducible apply Moves.ite
    | with_reducible apply Moves.foldl
    | exact (rfl : _ = true)
    | with_reducible apply State.setEntries_moves
    | with_reducible apply Moves.ts)

theorem State.replaceSlot_moves {l_ : List Part} {z_ : State} {s : State} {key : Nat} (h_ : Moves l_ z_ s) (hl_ : Part.sub [.ebm] l_ = true) :
    Moves l_ z_ (State.replaceSlot s key) := by
  refine h_.step ?_ hl_
  clear h_ hl_
  have h_ := Moves.refl [.ebm] s
  unfold State.replaceSlot
  repeat' (first
    | with_reducible assumption
    | intro _
    | with_reducible apply Moves.ite
    | exact (rfl : _ = true)
    | split
    | with_reducible apply Moves.ebm)

theorem State.groupLength_moves {l_ : List Part} {z_ : State} {s : State} {key : Nat} {length : Nat} (h_ : Moves l_ z_ s) (hl_ : Part.sub [.ebm] l_ = true) :
    Moves l_ z_ (State.groupLength s key length) := by
  refine h_.step ?_ hl_
  clear h_ hl_
  have h_ := Moves.refl [.ebm] s
  unfold State.groupLength
  repeat' (first
    | with_reducible assumption
    | intro _
    | with_reducible apply Moves.ite
    | exact (rfl : _ = true)
    | with_reducible apply State.setGroupSlot_moves
    | split)

theorem State.tryStage_moves {l_ : List Part} {z_ : State} {s s' : State} {key f : ℕ} {w : List (ℕ × PEnt)} {adds : Bool} {r_ : State}
    (h_ : Moves l_ z_ s') (hl_ : Part.sub [.ts] l_ = true) (e_ : State.tryStage s s' key f w adds = .ok r_) : Moves l_ z_ r_ := by
  have hc : Moves l_ z_ (s'.restage key w) := State.restage_moves h_ hl_
  have : r_ = s'.restage key w := by
    unfold State.tryStage at e_
    dsimp only at e_
    repeat' (first | (injection e_ with e_; exact e_.symm) | (cases e_; done) | split at e_)
  rw [this]; exact hc

theorem State.stageSlot_moves {l_ : List Part} {z_ : State} {s : State} {key : ℕ} {length : ℕ} {r_ : State} (h_ : Moves l_ z_ s) (hl_ : Part.sub [.regs, .ebm] l_ = true) (e_ : State.stageSlot s key length = .ok r_) :
    Moves l_ z_ r_ := by
  unfold State.stageSlot at e_
  dsimp only at e_
  split at e_
  · injection e_ with e_
    exact e_ ▸ State.groupLength_moves h_ (Part.sub_trans rfl hl_)
  · split at e_
    · cases e_
    · split at e_
      · cases e_
      · next e =>
        injection e_ with e_
        exact e_ ▸ State.groupLength_moves (State.setSlotNow_moves (State.replaceSlot_moves (State.allocSlot_moves h_ (Part.sub_trans rfl hl_) e) (Part.sub_trans rfl hl_)) (Part.sub_trans rfl hl_)) (Part.sub_trans rfl hl_)

theorem State.showLoad_moves {l_ : List Part} {z_ : State} {s : State} {t : ℕ} (h_ : Moves l_ z_ s) (hl_ : Part.sub [.regs] l_ = true) :
    Moves l_ z_ (State.showLoad s t) := by
  refine h_.step ?_ hl_
  clear h_ hl_
  have h_ := Moves.refl [.regs] s
  unfold State.showLoad
  repeat' (first
    | with_reducible assumption
    | intro _
    | exact (rfl : _ = true)
    | with_reducible apply State.setF_moves)

theorem State.showLoads_moves {l_ : List Part} {z_ : State} {s : State} {l : List ℕ} (h_ : Moves l_ z_ s) (hl_ : Part.sub [.regs] l_ = true) :
    Moves l_ z_ (State.showLoads s l) := by
  refine h_.step ?_ hl_
  clear h_ hl_
  have h_ := Moves.refl [.regs] s
  unfold State.showLoads
  repeat' (first
    | with_reducible assumption
    | intro _
    | with_reducible apply Moves.foldl
    | exact (rfl : _ = true)
    | with_reducible apply State.showLoad_moves)

theorem State.applyAdd_moves {l_ : List Part} {z_ : State} {s : State} {key : ℕ} {k : ℕ} {phase : ℕ} {length : ℕ} {emerg : Bool} {f : ℕ} {r_ : State} (h_ : Moves l_ z_ s) (hl_ : Part.sub [.regs, .ts, .ebm] l_ = true) (e_ : State.applyAdd s key k phase length emerg f = .ok r_) :
    Moves l_ z_ r_ := by
  refine h_.step ?_ hl_
  clear h_ hl_
  have h_ := Moves.refl [.regs, .ts, .ebm] s
  unfold State.applyAdd at e_
  try dsimp only at e_
  repeat' (first
    | (injection e_ with e_; subst e_)
    | (cases e_; done)
    | split at e_)
  all_goals try dsimp only
  repeat' (first
    | (injection e_ with e_; subst e_)
    | split at e_
    | with_reducible assumption
    | refine State.stageSlot_moves ?_ ?_ (by assumption)
    | refine State.tryStage_moves ?_ ?_ (by assumption)
    | exact (rfl : _ = true)
    | with_reducible apply State.showLoads_moves
    | split
    | with_reducible apply Moves.ts)

theorem State.applyRemove_moves {l_ : List Part} {z_ : State} {s : State} {key : ℕ} {f : ℕ} {r_ : State} (h_ : Moves l_ z_ s) (hl_ : Part.sub [.regs, .ts] l_ = true) (e_ : State.applyRemove s key f = .ok r_) :
    Moves l_ z_ r_ := by
  refine h_.step ?_ hl_
  clear h_ hl_
  have h_ := Moves.refl [.regs, .ts] s
  unfold State.applyRemove at e_
  try dsimp only at e_
  repeat' (first
    | (injection e_ with e_; subst e_)
    | (cases e_; done)
    | split at e_)
  all_goals try dsimp only
  repeat' (first
    | (injection e_ with e_; subst e_)
    | split at e_
    | with_reducible assumption
    | refine State.tryStage_moves ?_ ?_ (by assumption)
    | exact (rfl : _ = true)
    | with_reducible apply State.showLoads_moves
    | with_reducible apply Moves.ts)

theorem State.setRootGroup_moves {l_ : List Part} {z_ : State} {s : State} {g : ℕ} {bank : ℕ} {v : ℕ} (h_ : Moves l_ z_ s) (hl_ : Part.sub [.tree] l_ = true) :
    Moves l_ z_ (State.setRootGroup s g bank v) := by
  refine h_.step ?_ hl_
  clear h_ hl_
  have h_ := Moves.refl [.tree] s
  unfold State.setRootGroup
  repeat' (first
    | with_reducible assumption
    | exact (rfl : _ = true)
    | with_reducible apply Moves.tree)

theorem State.logStage_moves {l_ : List Part} {z_ : State} {s : State} {r : StageRec} (h_ : Moves l_ z_ s) (hl_ : Part.sub [.ts] l_ = true) :
    Moves l_ z_ (State.logStage s r) := by
  refine h_.step ?_ hl_
  clear h_ hl_
  have h_ := Moves.refl [.ts] s
  unfold State.logStage
  repeat' (first
    | with_reducible assumption
    | exact (rfl : _ = true)
    | with_reducible apply Moves.ts)

theorem State.slotBack_moves {l_ : List Part} {z_ : State} {s : State} {c : StageCmd} {r_ : State} (h_ : Moves l_ z_ s) (hl_ : Part.sub [.regs, .ebm] l_ = true) (e_ : State.slotBack s c = .ok r_) :
    Moves l_ z_ r_ := by
  unfold State.slotBack at e_
  repeat' (first
    | (injection e_ with e_; exact e_ ▸ h_)
    | exact State.stageSlot_moves h_ hl_ e_
    | split at e_)

theorem State.applyGroup_moves {l_ : List Part} {z_ : State} {s : State} {s1 : State} {g : ℕ} {f : ℕ} {c : StageCmd} {r_ : State} (h_ : Moves l_ z_ s1) (hl_ : Part.sub [.regs, .tree, .ts, .ebm] l_ = true) (e_ : State.applyGroup s s1 g f c = .ok r_) :
    Moves l_ z_ r_ := by
  unfold State.applyGroup at e_
  extract_lets t key at e_
  have ht : Moves l_ z_ t := State.setRootGroup_moves h_ (Part.sub_trans rfl hl_)
  split at e_
  · split at e_
    · cases e_
    · exact State.slotBack_moves ht (Part.sub_trans rfl hl_) e_
  · extract_lets w old at e_
    split at e_
    · split at e_
      · next e2 =>
        have h2 := State.slotBack_moves ht (Part.sub_trans rfl hl_) e2
        split at e_
        · next e3 =>
          injection e_ with e_
          exact e_ ▸ State.showLoads_moves (State.tryStage_moves h2 (Part.sub_trans rfl hl_) e3) (Part.sub_trans rfl hl_)
        · next hn => exact absurd e_ (hn _)
      · next hn => exact absurd e_ (hn _)
    · next hn => exact absurd e_ (hn _)

theorem State.applyStage_moves {l_ : List Part} {z_ : State} {s : State} {r : EntryRef} {c : StageCmd} {r_ : State} (h_ : Moves l_ z_ s) (hl_ : Part.sub [.regs, .tree, .ts, .ebm] l_ = true) (e_ : State.applyStage s r c = .ok r_) :
    Moves l_ z_ r_ := by
  have hg : ∀ (a : StageAns) (x : StageRec), (∀ t, a = .ok t → Moves l_ z_ t) →
      (match a with | .ok s' => StageAns.ok (s'.logStage x) | y => y) = .ok r_ → Moves l_ z_ r_ := fun a x ha e => by
    split at e
    · injection e with e
      exact e ▸ State.logStage_moves (ha _ rfl) (Part.sub_trans rfl hl_)
    · next hn => exact absurd e (hn _)
  unfold State.applyStage at e_
  extract_lets log at e_
  split at e_
  · exact hg _ _ (fun t e => State.applyAdd_moves h_ (Part.sub_trans rfl hl_) e) e_
  · split at e_
    · injection e_ with e_
      exact e_ ▸ h_
    · exact hg _ _ (fun t e => State.applyRemove_moves h_ (Part.sub_trans rfl hl_) e) e_
  · exact State.applyGroup_moves (State.logStage_moves h_ (Part.sub_trans rfl hl_)) (Part.sub_trans rfl hl_) e_

theorem State.keepBlocks_moves {l_ : List Part} {z_ : State} {s : State} {key : Nat} {keep : Nat → Bool} (h_ : Moves l_ z_ s) (hl_ : Part.sub [.ebm] l_ = true) :
    Moves l_ z_ (State.keepBlocks s key keep) := by
  refine h_.step ?_ hl_
  clear h_ hl_
  have h_ := Moves.refl [.ebm] s
  unfold State.keepBlocks
  repeat' (first
    | with_reducible assumption
    | intro _
    | with_reducible apply Moves.ite
    | with_reducible apply Moves.foldl
    | exact (rfl : _ = true)
    | with_reducible apply State.setCf_moves
    | with_reducible apply State.setGroupSlot_moves
    | split)

theorem State.freeSlots_moves {l_ : List Part} {z_ : State} {s : State}  (h_ : Moves l_ z_ s) (hl_ : Part.sub [.regs, .ebm] l_ = true) :
    Moves l_ z_ (State.freeSlots s) := by
  unfold State.freeSlots
  extract_lets s1 s2
  have h1 : Moves l_ z_ s1 := Moves.foldl h_ (fun t x h => by
    split
    · exact State.freeSlot_moves (State.keepBlocks_moves h (Part.sub_trans rfl hl_)) (Part.sub_trans rfl hl_)
    · exact h)
  clear_value s1
  have h2 : Moves l_ z_ s2 := Moves.foldl h1 (fun t x h => Moves.ite
    (fun _ => State.setSlotNow_moves (State.keepBlocks_moves (State.freeSlot_moves h (Part.sub_trans rfl hl_)) (Part.sub_trans rfl hl_)) (Part.sub_trans rfl hl_)) (fun _ => State.freeSlot_moves h (Part.sub_trans rfl hl_)))
  exact h2.ebm (Part.sub_trans rfl hl_) _ id

theorem State.dropSlot_moves {l_ : List Part} {z_ : State} {s : State} {key : Nat} (h_ : Moves l_ z_ s) (hl_ : Part.sub [.regs, .ebm, .bus, .mre] l_ = true) :
    Moves l_ z_ (State.dropSlot s key) := by
  unfold State.dropSlot
  extract_lets mine s1 src s2
  have h1 : Moves l_ z_ s1 := Moves.foldl h_ (fun t x h => State.freeSlot_moves h (Part.sub_trans rfl hl_))
  have h2 : Moves l_ z_ s2 := h1.ebm (Part.sub_trans rfl hl_) _ id
  exact Moves.ite (fun _ => h2) (fun _ => State.serveWaits_moves (State.setSlotNow_moves (State.keepBlocks_moves h2 (Part.sub_trans rfl hl_)) (Part.sub_trans rfl hl_)) (Part.sub_trans rfl hl_))

theorem State.seal_moves {l_ : List Part} {z_ : State} {s : State} (h_ : Moves l_ z_ s) (hl_ : Part.sub [.ts] l_ = true) :
    Moves l_ z_ (State.seal s) := by
  refine h_.step ?_ hl_
  clear h_ hl_
  have h_ := Moves.refl [.ts] s
  unfold State.seal
  repeat' (first
    | with_reducible assumption
    | exact (rfl : _ = true)
    | with_reducible apply Moves.ts)

theorem State.showCommit_moves {l_ : List Part} {z_ : State} {s : State} (h_ : Moves l_ z_ s) (hl_ : Part.sub [.regs] l_ = true) :
    Moves l_ z_ (State.showCommit s) := by
  refine h_.step ?_ hl_
  clear h_ hl_
  have h_ := Moves.refl [.regs] s
  unfold State.showCommit
  repeat' (first
    | with_reducible assumption
    | exact (rfl : _ = true)
    | with_reducible apply State.setB_moves
    | with_reducible apply State.setF_moves
    | split)

theorem State.beginCommit_moves {l_ : List Part} {z_ : State} {s : State} {m : Nat} {waiting : List EntryRef} (h_ : Moves l_ z_ s) (hl_ : Part.sub [.regs, .ts] l_ = true) :
    Moves l_ z_ (State.beginCommit s m waiting) := by
  refine h_.step ?_ hl_
  clear h_ hl_
  have h_ := Moves.refl [.regs, .ts] s
  unfold State.beginCommit
  repeat' (first
    | with_reducible assumption
    | intro _
    | with_reducible apply Moves.ite
    | exact (rfl : _ = true)
    | with_reducible apply State.seal_moves
    | with_reducible apply State.showCommit_moves
    | split
    | with_reducible apply Moves.ts)

theorem State.scheduleStatus_moves {l_ : List Part} {z_ : State} {s : State} {h : ℕ} {r_ : State} (h_ : Moves l_ z_ s) (hl_ : Part.sub [.regs, .tree, .ts, .ebm, .pu, .out] l_ = true) (e_ : State.scheduleStatus s h = some r_) :
    Moves l_ z_ r_ := by
  unfold State.scheduleStatus at e_
  extract_lets k at e_
  split at e_
  · next e =>
    injection e_ with e_
    exact e_ ▸ State.showPool_moves (State.beginCommit_moves (State.tell_moves (State.tell_moves (State.applyStage_moves h_ (Part.sub_trans rfl hl_) e) (Part.sub_trans rfl hl_)) (Part.sub_trans rfl hl_)) (Part.sub_trans rfl hl_)) (Part.sub_trans rfl hl_)
  · cases e_

theorem State.marksFollow_moves {l_ : List Part} {z_ : State} {s : State} (h_ : Moves l_ z_ s) (hl_ : Part.sub [.ts] l_ = true) :
    Moves l_ z_ (State.marksFollow s) := by
  refine h_.step ?_ hl_
  clear h_ hl_
  have h_ := Moves.refl [.ts] s
  unfold State.marksFollow
  repeat' (first
    | with_reducible assumption
    | intro _
    | exact (rfl : _ = true)
    | with_reducible apply Moves.ts)

theorem State.discardDamaged_moves {l_ : List Part} {z_ : State} {s : State} (h_ : Moves l_ z_ s) (hl_ : Part.sub [.ts] l_ = true) :
    Moves l_ z_ (State.discardDamaged s) := by
  refine h_.step ?_ hl_
  clear h_ hl_
  have h_ := Moves.refl [.ts] s
  unfold State.discardDamaged
  repeat' (first
    | with_reducible assumption
    | intro _
    | exact (rfl : _ = true)
    | split
    | with_reducible apply Moves.ts)

theorem State.switchBank_moves {l_ : List Part} {z_ : State} {s : State} (h_ : Moves l_ z_ s) (hl_ : Part.sub [.regs, .ts, .ebm] l_ = true) :
    Moves l_ z_ (State.switchBank s) := by
  refine h_.step ?_ hl_
  clear h_ hl_
  have h_ := Moves.refl [.regs, .ts, .ebm] s
  unfold State.switchBank
  repeat' (first
    | with_reducible assumption
    | intro _
    | with_reducible apply Moves.foldl
    | exact (rfl : _ = true)
    | with_reducible apply State.marksFollow_moves
    | with_reducible apply State.setCf_moves
    | with_reducible apply State.setF_moves
    | split
    | with_reducible apply Moves.ts
    | with_reducible apply Moves.ebm)

theorem State.rebase_moves {l_ : List Part} {z_ : State} {s : State} (h_ : Moves l_ z_ s) (hl_ : Part.sub [.regs, .ts, .ebm] l_ = true) :
    Moves l_ z_ (State.rebase s) := by
  refine h_.step ?_ hl_
  clear h_ hl_
  have h_ := Moves.refl [.regs, .ts, .ebm] s
  unfold State.rebase
  repeat' (first
    | with_reducible assumption
    | intro _
    | with_reducible apply Moves.ite
    | with_reducible apply Moves.foldl
    | exact (rfl : _ = true)
    | with_reducible apply State.discardDamaged_moves
    | with_reducible apply State.setEntries_moves
    | with_reducible apply State.showPool_moves
    | with_reducible apply State.freeSlots_moves
    | with_reducible apply Moves.ts
    | with_reducible apply Moves.ebm)

end Sys2Proof.Machine
end

