-- ==== Sys2Proof/Laws/EccOpsMoves.lean ====
section
/-! SUPPORT. What the operations of Machine/EccOps.lean may touch. -/

set_option Elab.async false
set_option linter.unusedTactic false
set_option linter.unreachableTactic false

namespace Sys2Proof.Machine

theorem State.contextLost_moves {l_ : List Part} {z_ : State} {s : State} {h : ℕ} (h_ : Moves l_ z_ s) (hl_ : Part.sub [.regs, .ts, .ebm, .bus, .qe, .bm, .xb, .fn, .mre, .out] l_ = true) :
    Moves l_ z_ (State.contextLost s h) := by
  refine h_.step ?_ hl_
  clear h_ hl_
  have h_ := Moves.refl [.regs, .ts, .ebm, .bus, .qe, .bm, .xb, .fn, .mre, .out] s
  unfold State.contextLost
  repeat' (first
    | with_reducible assumption
    | intro _
    | with_reducible apply Moves.ite
    | with_reducible apply Moves.foldl
    | exact (rfl : _ = true)
    | with_reducible apply State.endXfer_moves
    | with_reducible apply State.setCf_moves)

theorem State.clipLost_moves {l_ : List Part} {z_ : State} {s : State} {a : Nat} (h_ : Moves l_ z_ s) (hl_ : Part.sub [.regs, .ebm, .bus, .qe, .bm, .xb, .fn, .mre, .out] l_ = true) :
    Moves l_ z_ (State.clipLost s a) := by
  refine h_.step ?_ hl_
  clear h_ hl_
  have h_ := Moves.refl [.regs, .ebm, .bus, .qe, .bm, .xb, .fn, .mre, .out] s
  unfold State.clipLost
  dsimp only
  repeat' (first
    | with_reducible assumption
    | intro _
    | with_reducible apply Moves.ite
    | with_reducible apply Moves.foldl
    | exact (rfl : _ = true)
    | with_reducible apply State.endClip_moves
    | with_reducible apply State.restGen_moves
    | with_reducible apply State.setGen_moves
    | split)

theorem State.slotLost_moves {l_ : List Part} {z_ : State} {s : State} {a : ℕ} (h_ : Moves l_ z_ s) (hl_ : Part.sub [.regs, .ts, .ebm, .bus, .qe, .bm, .xb, .fn, .mre, .out] l_ = true) :
    Moves l_ z_ (State.slotLost s a) := by
  refine h_.step ?_ hl_
  clear h_ hl_
  have h_ := Moves.refl [.regs, .ts, .ebm, .bus, .qe, .bm, .xb, .fn, .mre, .out] s
  unfold State.slotLost
  repeat' (first
    | with_reducible assumption
    | intro _
    | with_reducible apply Moves.ite
    | with_reducible apply Moves.foldl
    | exact (rfl : _ = true)
    | with_reducible apply State.endXfer_moves
    | with_reducible apply State.setCf_moves
    | with_reducible apply State.setGroupSlot_moves
    | with_reducible apply State.clipLost_moves
    | split)

theorem State.ebmHit_moves {l_ : List Part} {z_ : State} {s : State} {x : EccHit} {cause : ℕ} (h_ : Moves l_ z_ s) (hl_ : Part.sub [.regs, .ts, .ebm, .bus, .qe, .bm, .xb, .fn, .mre, .out] l_ = true) :
    Moves l_ z_ (State.ebmHit s x cause) := by
  refine h_.step ?_ hl_
  clear h_ hl_
  have h_ := Moves.refl [.regs, .ts, .ebm, .bus, .qe, .bm, .xb, .fn, .mre, .out] s
  unfold State.ebmHit
  repeat' (first
    | with_reducible assumption
    | intro _
    | with_reducible apply Moves.ite
    | exact (rfl : _ = true)
    | with_reducible apply State.bump_moves
    | with_reducible apply State.captureError_moves
    | with_reducible apply State.contextLost_moves
    | with_reducible apply State.ebmUncorrected_moves
    | with_reducible apply State.ebmWrite_moves
    | with_reducible apply State.slotLost_moves
    | with_reducible apply Moves.ebm)

theorem State.linkParity_moves {l_ : List Part} {z_ : State} {s : State} {t : ℕ} {a : ℕ} (h_ : Moves l_ z_ s) (hl_ : Part.sub [.regs, .ts, .ebm, .bus, .qe, .bm, .xb, .fn, .mre, .out] l_ = true) :
    Moves l_ z_ (State.linkParity s t a) := by
  refine h_.step ?_ hl_
  clear h_ hl_
  have h_ := Moves.refl [.regs, .ts, .ebm, .bus, .qe, .bm, .xb, .fn, .mre, .out] s
  unfold State.linkParity
  repeat' (first
    | with_reducible assumption
    | intro _
    | exact (rfl : _ = true)
    | with_reducible apply State.bump_moves
    | with_reducible apply State.ebmHit_moves)

theorem State.smError_moves {l_ : List Part} {z_ : State} {s : State} {unit : ℕ} {addr : ℕ} (h_ : Moves l_ z_ s) (hl_ : Part.sub [.regs, .fn, .out] l_ = true) :
    Moves l_ z_ (State.smError s unit addr) := by
  refine h_.step ?_ hl_
  clear h_ hl_
  have h_ := Moves.refl [.regs, .fn, .out] s
  unfold State.smError
  repeat' (first
    | with_reducible assumption
    | intro _
    | exact (rfl : _ = true)
    | with_reducible apply State.captureError_moves)

theorem State.damage_moves {l_ : List Part} {z_ : State} {s : State} {t : ℕ} {k : ℕ} {p : ℕ} {out : ℕ} {bank : ℕ} {i : ℕ} (h_ : Moves l_ z_ s) (hl_ : Part.sub [.ts] l_ = true) :
    Moves l_ z_ (State.damage s t k p out bank i) := by
  refine h_.step ?_ hl_
  clear h_ hl_
  have h_ := Moves.refl [.ts] s
  unfold State.damage
  repeat' (first
    | with_reducible assumption
    | intro _
    | exact (rfl : _ = true)
    | split
    | with_reducible apply Moves.ts)

end Sys2Proof.Machine
end

