-- ==== Sys2Proof/Laws/TmOpsMoves.lean ====
section
/-! SUPPORT. What the operations of Machine/TmOps.lean may touch. -/

set_option Elab.async false
set_option linter.unusedTactic false
set_option linter.unreachableTactic false

namespace Sys2Proof.Machine

theorem State.putNp_moves {l_ : List Part} {z_ : State} {s : State} {t : ℕ} {p : Pkt} (h_ : Moves l_ z_ s) (hl_ : Part.sub [.out] l_ = true) :
    Moves l_ z_ (State.putNp s t p) := by
  refine h_.step ?_ hl_
  clear h_ hl_
  have h_ := Moves.refl [.out] s
  unfold State.putNp
  repeat' (first
    | with_reducible assumption
    | intro _
    | with_reducible apply Moves.ite
    | exact (rfl : _ = true)
    | with_reducible apply State.emit_moves
    | with_reducible apply State.sendTimed_moves)

theorem State.sendReq_moves {l_ : List Part} {z_ : State} {s : State} {p : ℕ} {q : TmReq} (h_ : Moves l_ z_ s) (hl_ : Part.sub [.regs, .ebm, .bus, .mre, .free, .out] l_ = true) :
    Moves l_ z_ (State.sendReq s p q) := by
  refine h_.step ?_ hl_
  clear h_ hl_
  have h_ := Moves.refl [.regs, .ebm, .bus, .mre, .free, .out] s
  unfold State.sendReq
  repeat' (first
    | with_reducible assumption
    | intro _
    | exact (rfl : _ = true)
    | with_reducible apply State.beginXfer_moves
    | split)

theorem State.setTodo_moves {l_ : List Part} {z_ : State} {s : State} {p : ℕ} {l : List TmItem} (h_ : Moves l_ z_ s) (hl_ : Part.sub [.tree] l_ = true) :
    Moves l_ z_ (State.setTodo s p l) := by
  refine h_.step ?_ hl_
  clear h_ hl_
  have h_ := Moves.refl [.tree] s
  unfold State.setTodo
  repeat' (first
    | with_reducible assumption
    | exact (rfl : _ = true)
    | with_reducible apply Moves.tree)

theorem State.kickTm_moves {l_ : List Part} {z_ : State} {s : State} {p : ℕ} (h_ : Moves l_ z_ s) (hl_ : Part.sub [.regs, .tree, .ebm, .bus, .mre, .free, .out] l_ = true) :
    Moves l_ z_ (State.kickTm s p) := by
  refine h_.step ?_ hl_
  clear h_ hl_
  have h_ := Moves.refl [.regs, .tree, .ebm, .bus, .mre, .free, .out] s
  unfold State.kickTm
  repeat' (first
    | with_reducible assumption
    | exact (rfl : _ = true)
    | with_reducible apply State.sendReq_moves
    | with_reducible apply State.setTodo_moves
    | split)

theorem State.pushTm_moves {l_ : List Part} {z_ : State} {s : State} {p : ℕ} {own : Bool} {l : List TmReq} (h_ : Moves l_ z_ s) (hl_ : Part.sub [.regs, .tree, .ebm, .bus, .mre, .free, .out] l_ = true) :
    Moves l_ z_ (State.pushTm s p own l) := by
  refine h_.step ?_ hl_
  clear h_ hl_
  have h_ := Moves.refl [.regs, .tree, .ebm, .bus, .mre, .free, .out] s
  unfold State.pushTm
  repeat' (first
    | with_reducible assumption
    | intro _
    | with_reducible apply Moves.ite
    | exact (rfl : _ = true)
    | with_reducible apply State.kickTm_moves
    | with_reducible apply State.setTodo_moves)

theorem State.pingLate_moves {l_ : List Part} {z_ : State} {s : State} {t : Nat} (h_ : Moves l_ z_ s) (hl_ : Part.sub [.tree] l_ = true) :
    Moves l_ z_ (State.pingLate s t) := by
  refine h_.step ?_ hl_
  clear h_ hl_
  have h_ := Moves.refl [.tree] s
  unfold State.pingLate
  repeat' (first
    | with_reducible assumption
    | intro _
    | with_reducible apply Moves.ite
    | exact (rfl : _ = true)
    | with_reducible apply State.setTodo_moves
    | split)

theorem State.pingDone_moves {l_ : List Part} {z_ : State} {s : State} {t : Nat} {start : Nat} (h_ : Moves l_ z_ s) (hl_ : Part.sub [.tree] l_ = true) :
    Moves l_ z_ (State.pingDone s t start) := by
  refine h_.step ?_ hl_
  clear h_ hl_
  have h_ := Moves.refl [.tree] s
  unfold State.pingDone
  repeat' (first
    | with_reducible assumption
    | intro _
    | with_reducible apply Moves.ite
    | exact (rfl : _ = true)
    | with_reducible apply State.setTodo_moves
    | split)

theorem State.writeGroup_moves {l_ : List Part} {z_ : State} {s : State} {g : ℕ} (h_ : Moves l_ z_ s) (hl_ : Part.sub [.regs, .tree, .ebm, .bus, .mre, .free, .out] l_ = true) :
    Moves l_ z_ (State.writeGroup s g) := by
  refine h_.step ?_ hl_
  clear h_ hl_
  have h_ := Moves.refl [.regs, .tree, .ebm, .bus, .mre, .free, .out] s
  unfold State.writeGroup
  repeat' (first
    | with_reducible assumption
    | intro _
    | with_reducible apply Moves.ite
    | with_reducible apply Moves.foldl
    | exact (rfl : _ = true)
    | with_reducible apply State.pushTm_moves)

theorem State.setEnum_moves {l_ : List Part} {z_ : State} {s : State} {p : ℕ} {e : Option EnumRec} (h_ : Moves l_ z_ s) (hl_ : Part.sub [.regs, .tree] l_ = true) :
    Moves l_ z_ (State.setEnum s p e) := by
  refine h_.step ?_ hl_
  clear h_ hl_
  have h_ := Moves.refl [.regs, .tree] s
  unfold State.setEnum
  repeat' (first
    | with_reducible assumption
    | exact (rfl : _ = true)
    | with_reducible apply State.showEnum_moves
    | with_reducible apply Moves.tree)

theorem State.endEnum_moves {l_ : List Part} {z_ : State} {s : State} {p : ℕ} (h_ : Moves l_ z_ s) (hl_ : Part.sub [.regs, .tree] l_ = true) :
    Moves l_ z_ (State.endEnum s p) := by
  refine h_.step ?_ hl_
  clear h_ hl_
  have h_ := Moves.refl [.regs, .tree] s
  unfold State.endEnum
  repeat' (first
    | with_reducible assumption
    | exact (rfl : _ = true)
    | with_reducible apply State.setEnum_moves
    | with_reducible apply State.setTodo_moves)

theorem State.hubPortLeaves_moves {l_ : List Part} {z_ : State} {s : State} {h : ℕ} {p : ℕ} {status : ℕ} (h_ : Moves l_ z_ s) (hl_ : Part.sub [.regs, .lx, .tree, .ts, .ebm, .bus, .qe, .bm, .xb, .fn, .mre, .pu, .ck, .free, .out] l_ = true) :
    Moves l_ z_ (State.hubPortLeaves s h p status) := by
  refine h_.step ?_ hl_
  clear h_ hl_
  have h_ := Moves.refl [.regs, .lx, .tree, .ts, .ebm, .bus, .qe, .bm, .xb, .fn, .mre, .pu, .ck, .free, .out] s
  unfold State.hubPortLeaves
  repeat' (first
    | with_reducible assumption
    | intro _
    | with_reducible apply Moves.foldl
    | exact (rfl : _ = true)
    | with_reducible apply State.detachLost_moves
    | with_reducible apply State.endEnum_moves
    | with_reducible apply State.showEnum_moves
    | with_reducible apply State.portReset_moves
    | with_reducible apply State.pushTm_moves
    | split
    | with_reducible apply Moves.tree)

theorem State.hubFeature_moves {l_ : List Part} {z_ : State} {s : State} {h : ℕ} {p : ℕ} {f : ℕ} (h_ : Moves l_ z_ s) (hl_ : Part.sub [.regs, .lx, .tree, .ts, .ebm, .bus, .qe, .bm, .xb, .fn, .mre, .pu, .ck, .free, .out] l_ = true) :
    Moves l_ z_ (State.hubFeature s h p f) := by
  refine h_.step ?_ hl_
  clear h_ hl_
  have h_ := Moves.refl [.regs, .lx, .tree, .ts, .ebm, .bus, .qe, .bm, .xb, .fn, .mre, .pu, .ck, .free, .out] s
  unfold State.hubFeature
  repeat' (first
    | with_reducible assumption
    | intro _
    | exact (rfl : _ = true)
    | with_reducible apply State.hubEvent_moves
    | with_reducible apply State.hubPortLeaves_moves
    | with_reducible apply State.setHubPort_moves
    | with_reducible apply State.portReset_moves
    | split)

theorem State.hubClear_moves {l_ : List Part} {z_ : State} {s : State} {h : ℕ} {p : ℕ} {f : ℕ} (h_ : Moves l_ z_ s) (hl_ : Part.sub [.regs, .lx, .tree, .ts, .ebm, .bus, .qe, .bm, .xb, .fn, .mre, .pu, .ck, .free, .out] l_ = true) :
    Moves l_ z_ (State.hubClear s h p f) := by
  refine h_.step ?_ hl_
  clear h_ hl_
  have h_ := Moves.refl [.regs, .lx, .tree, .ts, .ebm, .bus, .qe, .bm, .xb, .fn, .mre, .pu, .ck, .free, .out] s
  unfold State.hubClear
  repeat' (first
    | with_reducible assumption
    | intro _
    | exact (rfl : _ = true)
    | with_reducible apply State.hubEvent_moves
    | with_reducible apply State.hubPortLeaves_moves
    | with_reducible apply State.setHubPort_moves
    | split)

theorem State.step4_moves {l_ : List Part} {z_ : State} {s : State} {p : ℕ} {e : EnumRec} (h_ : Moves l_ z_ s) (hl_ : Part.sub [.regs, .tree, .ebm, .bus, .mre, .free, .out] l_ = true) :
    Moves l_ z_ (State.step4 s p e) := by
  refine h_.step ?_ hl_
  clear h_ hl_
  have h_ := Moves.refl [.regs, .tree, .ebm, .bus, .mre, .free, .out] s
  unfold State.step4
  repeat' (first
    | with_reducible assumption
    | exact (rfl : _ = true)
    | with_reducible apply State.pushTm_moves
    | with_reducible apply State.setEnum_moves)

theorem State.step3_moves {l_ : List Part} {z_ : State} {s : State} {p : ℕ} {e : EnumRec} (h_ : Moves l_ z_ s) (hl_ : Part.sub [.regs, .tree, .ebm, .bus, .mre, .free, .out] l_ = true) :
    Moves l_ z_ (State.step3 s p e) := by
  refine h_.step ?_ hl_
  clear h_ hl_
  have h_ := Moves.refl [.regs, .tree, .ebm, .bus, .mre, .free, .out] s
  unfold State.step3
  repeat' (first
    | with_reducible assumption
    | intro _
    | with_reducible apply Moves.ite
    | exact (rfl : _ = true)
    | with_reducible apply State.pushTm_moves
    | with_reducible apply State.setEnum_moves
    | with_reducible apply State.step4_moves)

theorem State.await_moves {l_ : List Part} {z_ : State} {s : State} {a : AttachPos} (h_ : Moves l_ z_ s) (hl_ : Part.sub [.regs, .tree] l_ = true) :
    Moves l_ z_ (State.await s a) := by
  refine h_.step ?_ hl_
  clear h_ hl_
  have h_ := Moves.refl [.regs, .tree] s
  unfold State.await
  repeat' (first
    | with_reducible assumption
    | exact (rfl : _ = true)
    | with_reducible apply State.showEnum_moves
    | with_reducible apply Moves.tree)

theorem State.stopEnum_moves {l_ : List Part} {z_ : State} {s : State} {p : Nat} {e : EnumRec} (h_ : Moves l_ z_ s) (hl_ : Part.sub [.regs, .tree, .ebm, .bus, .mre, .free, .out] l_ = true) :
    Moves l_ z_ (State.stopEnum s p e) := by
  refine h_.step ?_ hl_
  clear h_ hl_
  have h_ := Moves.refl [.regs, .tree, .ebm, .bus, .mre, .free, .out] s
  unfold State.stopEnum
  repeat' (first
    | with_reducible assumption
    | intro _
    | with_reducible apply Moves.ite
    | exact (rfl : _ = true)
    | with_reducible apply State.await_moves
    | with_reducible apply State.endEnum_moves
    | with_reducible apply State.pushTm_moves
    | split)

theorem State.hubLearn_moves {l_ : List Part} {z_ : State} {s : State} {h : Nat} {p : Nat} {b : List Byte} (h_ : Moves l_ z_ s) (hl_ : Part.sub [.regs, .lx, .tree, .ts, .ebm, .bus, .qe, .bm, .xb, .fn, .mre, .pu, .ck, .free, .out] l_ = true) :
    Moves l_ z_ (State.hubLearn s h p b) := by
  refine h_.step ?_ hl_
  clear h_ hl_
  have h_ := Moves.refl [.regs, .lx, .tree, .ts, .ebm, .bus, .qe, .bm, .xb, .fn, .mre, .pu, .ck, .free, .out] s
  unfold State.hubLearn
  repeat' (first
    | with_reducible assumption
    | intro _
    | with_reducible apply Moves.ite
    | exact (rfl : _ = true)
    | with_reducible apply State.hubPortLeaves_moves
    | with_reducible apply State.portReset_moves
    | with_reducible apply State.setHubPort_moves
    | split)

theorem State.hubEvents_moves {l_ : List Part} {z_ : State} {s : State} {h : Nat} {p : Nat} {b : List Byte} {ch : Nat} {why : Nat} (h_ : Moves l_ z_ s) (hl_ : Part.sub [.regs, .tree, .qe, .fn, .out] l_ = true) :
    Moves l_ z_ (State.hubEvents s h p b ch why) := by
  refine h_.step ?_ hl_
  clear h_ hl_
  have h_ := Moves.refl [.regs, .tree, .qe, .fn, .out] s
  unfold State.hubEvents
  repeat' (first
    | with_reducible assumption
    | (extract_lets -underBinder +onlyGivenNames x_; first | (refine (fun hx_ : Moves [.regs, .tree, .qe, .fn, .out] s x_ => ?_) ?_; (on_goal 1 => (clear_value x_; revert hx_; revert x_; intro _ _)); (on_goal 2 => subst x_)) | (clear_value x_; revert x_; intro _))
    | intro _
    | with_reducible apply Moves.ite
    | exact (rfl : _ = true)
    | with_reducible apply State.hubEvent_moves
    | split)

theorem State.hubResetDone_moves {l_ : List Part} {z_ : State} {s : State} {h : Nat} {p : Nat} (h_ : Moves l_ z_ s) (hl_ : Part.sub [.regs, .tree, .ebm, .bus, .mre, .free, .out] l_ = true) :
    Moves l_ z_ (State.hubResetDone s h p) := by
  refine h_.step ?_ hl_
  clear h_ hl_
  have h_ := Moves.refl [.regs, .tree, .ebm, .bus, .mre, .free, .out] s
  unfold State.hubResetDone
  repeat' (first
    | with_reducible assumption
    | intro _
    | with_reducible apply Moves.ite
    | exact (rfl : _ = true)
    | with_reducible apply State.await_moves
    | with_reducible apply State.step3_moves
    | split
    | with_reducible apply Moves.tree)

theorem State.hubDisabled_moves {l_ : List Part} {z_ : State} {s : State} {h : Nat} {p : Nat} {was : Nat} (h_ : Moves l_ z_ s) (hl_ : Part.sub [.regs, .tree] l_ = true) :
    Moves l_ z_ (State.hubDisabled s h p was) := by
  refine h_.step ?_ hl_
  clear h_ hl_
  have h_ := Moves.refl [.regs, .tree] s
  unfold State.hubDisabled
  repeat' (first
    | with_reducible assumption
    | intro _
    | with_reducible apply Moves.ite
    | exact (rfl : _ = true)
    | with_reducible apply State.endEnum_moves
    | with_reducible apply State.showEnum_moves
    | split
    | with_reducible apply Moves.tree)

theorem State.hubStatus_moves {l_ : List Part} {z_ : State} {s : State} {h : Nat} {p : Nat} {b : List Byte} (h_ : Moves l_ z_ s) (hl_ : Part.sub [.regs, .lx, .tree, .ts, .ebm, .bus, .qe, .bm, .xb, .fn, .mre, .pu, .ck, .free, .out] l_ = true) :
    Moves l_ z_ (State.hubStatus s h p b) := by
  refine h_.step ?_ hl_
  clear h_ hl_
  have h_ := Moves.refl [.regs, .lx, .tree, .ts, .ebm, .bus, .qe, .bm, .xb, .fn, .mre, .pu, .ck, .free, .out] s
  unfold State.hubStatus
  repeat' (first
    | with_reducible assumption
    | intro _
    | with_reducible apply Moves.ite
    | exact (rfl : _ = true)
    | with_reducible apply State.await_moves
    | with_reducible apply State.hubDisabled_moves
    | with_reducible apply State.hubEvent_moves
    | with_reducible apply State.hubEvents_moves
    | with_reducible apply State.hubLearn_moves
    | with_reducible apply State.hubResetDone_moves
    | with_reducible apply State.pushTm_moves
    | with_reducible apply State.when_moves
    | split)

theorem State.enumFail_moves {l_ : List Part} {z_ : State} {s : State} {p : ℕ} {e : EnumRec} {reason : ℕ} (h_ : Moves l_ z_ s) (hl_ : Part.sub [.regs, .lx, .tree, .ts, .ebm, .bus, .qe, .bm, .xb, .fn, .mre, .pu, .free, .out] l_ = true) :
    Moves l_ z_ (State.enumFail s p e reason) := by
  refine h_.step ?_ hl_
  clear h_ hl_
  have h_ := Moves.refl [.regs, .lx, .tree, .ts, .ebm, .bus, .qe, .bm, .xb, .fn, .mre, .pu, .free, .out] s
  unfold State.enumFail
  repeat' (first
    | with_reducible assumption
    | (extract_lets -underBinder +onlyGivenNames x_; first | (refine (fun hx_ : Moves [.regs, .lx, .tree, .ts, .ebm, .bus, .qe, .bm, .xb, .fn, .mre, .pu, .free, .out] s x_ => ?_) ?_; (on_goal 1 => (clear_value x_; revert hx_; revert x_; intro _ _)); (on_goal 2 => subst x_)) | (clear_value x_; revert x_; intro _))
    | intro _
    | with_reducible apply Moves.foldl
    | exact (rfl : _ = true)
    | with_reducible apply State.endEnum_moves
    | with_reducible apply State.hubEvent_moves
    | with_reducible apply State.portDisable_moves
    | with_reducible apply State.pushTm_moves
    | with_reducible apply State.setHubPort_moves
    | with_reducible apply State.setCf_moves
    | with_reducible apply State.tellCtx_moves
    | split)

theorem State.ctxPaths_moves {l_ : List Part} {z_ : State} {s : State} {d : DevRec} (h_ : Moves l_ z_ s) (hl_ : Part.sub [.ebm, .pu, .out] l_ = true) :
    Moves l_ z_ (State.ctxPaths s d) := by
  refine h_.step ?_ hl_
  clear h_ hl_
  have h_ := Moves.refl [.ebm, .pu, .out] s
  unfold State.ctxPaths
  repeat' (first
    | with_reducible assumption
    | intro _
    | with_reducible apply Moves.foldl
    | exact (rfl : _ = true)
    | with_reducible apply State.setCf_moves
    | with_reducible apply State.tellCtx_moves
    | split)

theorem State.bindSecond_moves {l_ : List Part} {z_ : State} {s : State} {p : ℕ} {e : EnumRec} {d : DevRec} (h_ : Moves l_ z_ s) (hl_ : Part.sub [.regs, .tree, .ebm, .bus, .mre, .pu, .free, .out] l_ = true) :
    Moves l_ z_ (State.bindSecond s p e d) := by
  refine h_.step ?_ hl_
  clear h_ hl_
  have h_ := Moves.refl [.regs, .tree, .ebm, .bus, .mre, .pu, .free, .out] s
  unfold State.bindSecond
  repeat' (first
    | with_reducible assumption
    | intro _
    | with_reducible apply Moves.foldl
    | exact (rfl : _ = true)
    | with_reducible apply State.pushTm_moves
    | with_reducible apply State.setEnum_moves)

theorem State.step7_moves {l_ : List Part} {z_ : State} {s : State} {p : ℕ} {e : EnumRec} (h_ : Moves l_ z_ s) (hl_ : Part.sub [.regs, .tree, .ebm, .bus, .mre, .free, .out] l_ = true) :
    Moves l_ z_ (State.step7 s p e) := by
  refine h_.step ?_ hl_
  clear h_ hl_
  have h_ := Moves.refl [.regs, .tree, .ebm, .bus, .mre, .free, .out] s
  unfold State.step7
  repeat' (first
    | with_reducible assumption
    | exact (rfl : _ = true)
    | with_reducible apply State.pushTm_moves
    | with_reducible apply State.setEnum_moves)

theorem State.setRoutes_moves {l_ : List Part} {z_ : State} {s : State} {h : ℕ} {l : List Route} (h_ : Moves l_ z_ s) (hl_ : Part.sub [.tree, .pu, .out] l_ = true) :
    Moves l_ z_ (State.setRoutes s h l) := by
  refine h_.step ?_ hl_
  clear h_ hl_
  have h_ := Moves.refl [.tree, .pu, .out] s
  unfold State.setRoutes
  repeat' (first
    | with_reducible assumption
    | intro _
    | with_reducible apply Moves.ite
    | exact (rfl : _ = true)
    | with_reducible apply State.tell_moves
    | with_reducible apply Moves.tree)

theorem State.setHubGroup_moves {l_ : List Part} {z_ : State} {s : State} {h : ℕ} {g : ℕ} {bank : ℕ} {v : ℕ} (h_ : Moves l_ z_ s) (hl_ : Part.sub [.tree, .pu, .out] l_ = true) :
    Moves l_ z_ (State.setHubGroup s h g bank v) := by
  refine h_.step ?_ hl_
  clear h_ hl_
  have h_ := Moves.refl [.tree, .pu, .out] s
  unfold State.setHubGroup
  repeat' (first
    | with_reducible assumption
    | exact (rfl : _ = true)
    | with_reducible apply State.tell_moves
    | with_reducible apply Moves.tree)

theorem State.hubForgets_moves {l_ : List Part} {z_ : State} {s : State} {h : Nat} (h_ : Moves l_ z_ s) (hl_ : Part.sub [.tree, .pu, .out] l_ = true) :
    Moves l_ z_ (State.hubForgets s h) := by
  refine h_.step ?_ hl_
  clear h_ hl_
  have h_ := Moves.refl [.tree, .pu, .out] s
  unfold State.hubForgets
  repeat' (first
    | with_reducible assumption
    | intro _
    | with_reducible apply Moves.ite
    | with_reducible apply Moves.foldl
    | exact (rfl : _ = true)
    | with_reducible apply State.setRoutes_moves
    | with_reducible apply State.setHubGroup_moves
    | with_reducible apply State.setHubPort_moves
    | split
    | with_reducible apply Moves.tree)

theorem State.step6_moves {l_ : List Part} {z_ : State} {s : State} {p : ℕ} {e : EnumRec} (h_ : Moves l_ z_ s) (hl_ : Part.sub [.regs, .lx, .tree, .ts, .ebm, .bus, .qe, .bm, .xb, .fn, .mre, .pu, .free, .out] l_ = true) :
    Moves l_ z_ (State.step6 s p e) := by
  unfold State.step6
  extract_lets old
  split
  · exact State.step7_moves (State.hubForgets_moves h_ (Part.sub_trans rfl hl_)) (Part.sub_trans rfl hl_)
  · split
    · exact State.step7_moves (State.hubForgets_moves h_ (Part.sub_trans rfl hl_)) (Part.sub_trans rfl hl_)
    · exact State.enumFail_moves h_ (Part.sub_trans rfl hl_)

theorem State.fixSide_moves {l_ : List Part} {z_ : State} {s : State} {p : ℕ} (h_ : Moves l_ z_ s) (hl_ : Part.sub [.regs, .pu, .out] l_ = true) :
    Moves l_ z_ (State.fixSide s p) := by
  refine h_.step ?_ hl_
  clear h_ hl_
  have h_ := Moves.refl [.regs, .pu, .out] s
  unfold State.fixSide
  repeat' (first
    | with_reducible assumption
    | intro _
    | with_reducible apply Moves.ite
    | exact (rfl : _ = true)
    | with_reducible apply State.setB_moves
    | with_reducible apply State.tell_moves
    | with_reducible apply State.updPu_moves)

theorem State.step5_moves {l_ : List Part} {z_ : State} {s : State} {p : ℕ} {e : EnumRec} (h_ : Moves l_ z_ s) (hl_ : Part.sub [.regs, .lx, .tree, .ts, .ebm, .bus, .qe, .bm, .xb, .fn, .mre, .pu, .free, .out] l_ = true) :
    Moves l_ z_ (State.step5 s p e) := by
  refine h_.step ?_ hl_
  clear h_ hl_
  have h_ := Moves.refl [.regs, .lx, .tree, .ts, .ebm, .bus, .qe, .bm, .xb, .fn, .mre, .pu, .free, .out] s
  unfold State.step5
  repeat' (first
    | with_reducible assumption
    | intro _
    | exact (rfl : _ = true)
    | with_reducible apply State.bindSecond_moves
    | with_reducible apply State.endEnum_moves
    | with_reducible apply State.enumFail_moves
    | with_reducible apply State.fixSide_moves
    | with_reducible apply State.pushTm_moves
    | with_reducible apply State.showEnum_moves
    | with_reducible apply State.step6_moves
    | split
    | with_reducible apply Moves.tree)

theorem State.step10_moves {l_ : List Part} {z_ : State} {s : State} {p : ℕ} {e : EnumRec} (h_ : Moves l_ z_ s) (hl_ : Part.sub [.regs, .tree, .ebm, .bus, .mre, .free, .out] l_ = true) :
    Moves l_ z_ (State.step10 s p e) := by
  refine h_.step ?_ hl_
  clear h_ hl_
  have h_ := Moves.refl [.regs, .tree, .ebm, .bus, .mre, .free, .out] s
  unfold State.step10
  repeat' (first
    | with_reducible assumption
    | intro _
    | exact (rfl : _ = true)
    | with_reducible apply State.pushTm_moves
    | with_reducible apply State.setEnum_moves
    | split)

theorem State.step9_moves {l_ : List Part} {z_ : State} {s : State} {p : ℕ} {e : EnumRec} (h_ : Moves l_ z_ s) (hl_ : Part.sub [.regs, .tree, .ebm, .bus, .mre, .free, .out] l_ = true) :
    Moves l_ z_ (State.step9 s p e) := by
  refine h_.step ?_ hl_
  clear h_ hl_
  have h_ := Moves.refl [.regs, .tree, .ebm, .bus, .mre, .free, .out] s
  unfold State.step9
  repeat' (first
    | with_reducible assumption
    | intro _
    | with_reducible apply Moves.ite
    | exact (rfl : _ = true)
    | with_reducible apply State.pushTm_moves
    | with_reducible apply State.setEnum_moves
    | with_reducible apply State.step10_moves)

theorem State.secondBound_moves {l_ : List Part} {z_ : State} {s : State} {p : Nat} {e : EnumRec} (h_ : Moves l_ z_ s) (hl_ : Part.sub [.regs, .lx, .tree, .ts, .ebm, .bus, .qe, .bm, .xb, .fn, .mre, .pu, .free, .out] l_ = true) :
    Moves l_ z_ (State.secondBound s p e) := by
  refine h_.step ?_ hl_
  clear h_ hl_
  have h_ := Moves.refl [.regs, .lx, .tree, .ts, .ebm, .bus, .qe, .bm, .xb, .fn, .mre, .pu, .free, .out] s
  unfold State.secondBound
  repeat' (first
    | with_reducible assumption
    | intro _
    | with_reducible apply Moves.ite
    | with_reducible apply Moves.foldl
    | exact (rfl : _ = true)
    | with_reducible apply State.ctxPaths_moves
    | with_reducible apply State.enumFail_moves
    | with_reducible apply State.pushTm_moves
    | with_reducible apply State.setDev_moves
    | with_reducible apply State.setEnum_moves
    | with_reducible apply State.step9_moves
    | with_reducible apply State.updTrunk_moves
    | split)

theorem State.step8_moves {l_ : List Part} {z_ : State} {s : State} {p : ℕ} {e : EnumRec} (h_ : Moves l_ z_ s) (hl_ : Part.sub [.regs, .tree, .ebm, .bus, .mre, .free, .out] l_ = true) :
    Moves l_ z_ (State.step8 s p e) := by
  refine h_.step ?_ hl_
  clear h_ hl_
  have h_ := Moves.refl [.regs, .tree, .ebm, .bus, .mre, .free, .out] s
  unfold State.step8
  repeat' (first
    | with_reducible assumption
    | intro _
    | with_reducible apply Moves.ite
    | exact (rfl : _ = true)
    | with_reducible apply State.pushTm_moves
    | with_reducible apply State.setEnum_moves
    | with_reducible apply State.step9_moves
    | split)

theorem State.writeCtx_moves {l_ : List Part} {z_ : State} {s : State} {d : DevRec} {e : EpDesc} {rebound : Bool} (h_ : Moves l_ z_ s) (hl_ : Part.sub [.ebm, .pu, .out] l_ = true) :
    Moves l_ z_ (State.writeCtx s d e rebound) := by
  refine h_.step ?_ hl_
  clear h_ hl_
  have h_ := Moves.refl [.ebm, .pu, .out] s
  unfold State.writeCtx
  repeat' (first
    | with_reducible assumption
    | intro _
    | with_reducible apply Moves.ite
    | exact (rfl : _ = true)
    | with_reducible apply State.setCtx_moves
    | with_reducible apply State.tellCtx_moves)

theorem State.step9End_moves {l_ : List Part} {z_ : State} {s : State} {p : ℕ} {e : EnumRec} (h_ : Moves l_ z_ s) (hl_ : Part.sub [.regs, .tree, .ebm, .bus, .mre, .pu, .free, .out] l_ = true) :
    Moves l_ z_ (State.step9End s p e) := by
  refine h_.step ?_ hl_
  clear h_ hl_
  have h_ := Moves.refl [.regs, .tree, .ebm, .bus, .mre, .pu, .free, .out] s
  unfold State.step9End
  repeat' (first
    | with_reducible assumption
    | intro _
    | with_reducible apply Moves.ite
    | with_reducible apply Moves.foldl
    | exact (rfl : _ = true)
    | with_reducible apply State.ctxPaths_moves
    | with_reducible apply State.setDev_moves
    | with_reducible apply State.step10_moves
    | with_reducible apply State.writeCtx_moves)

theorem State.ctxRtt_moves {l_ : List Part} {z_ : State} {s : State} {d : DevRec} (h_ : Moves l_ z_ s) (hl_ : Part.sub [.ebm, .pu, .out] l_ = true) :
    Moves l_ z_ (State.ctxRtt s d) := by
  refine h_.step ?_ hl_
  clear h_ hl_
  have h_ := Moves.refl [.ebm, .pu, .out] s
  unfold State.ctxRtt
  repeat' (first
    | with_reducible assumption
    | intro _
    | with_reducible apply Moves.foldl
    | exact (rfl : _ = true)
    | with_reducible apply State.setCf_moves
    | with_reducible apply State.tellCtx_moves)

theorem State.raiseRtt_moves {l_ : List Part} {z_ : State} {s : State} {a : Nat} {rtt : Nat} (h_ : Moves l_ z_ s) (hl_ : Part.sub [.tree, .ebm, .pu, .out] l_ = true) :
    Moves l_ z_ (State.raiseRtt s a rtt) := by
  refine h_.step ?_ hl_
  clear h_ hl_
  have h_ := Moves.refl [.tree, .ebm, .pu, .out] s
  unfold State.raiseRtt
  repeat' (first
    | with_reducible assumption
    | intro _
    | with_reducible apply Moves.ite
    | exact (rfl : _ = true)
    | with_reducible apply State.ctxRtt_moves
    | with_reducible apply State.setDev_moves
    | split)

theorem State.posEvent_moves {l_ : List Part} {z_ : State} {s : State} {a : AttachPos} {ev : ℕ} {reason : ℕ} (h_ : Moves l_ z_ s) (hl_ : Part.sub [.regs, .tree, .qe, .fn, .pu, .out] l_ = true) :
    Moves l_ z_ (State.posEvent s a ev reason) := by
  refine h_.step ?_ hl_
  clear h_ hl_
  have h_ := Moves.refl [.regs, .tree, .qe, .fn, .pu, .out] s
  unfold State.posEvent
  repeat' (first
    | with_reducible assumption
    | intro _
    | with_reducible apply Moves.ite
    | exact (rfl : _ = true)
    | with_reducible apply State.hubEvent_moves
    | with_reducible apply State.rootEvent_moves)

theorem State.step13_moves {l_ : List Part} {z_ : State} {s : State} {p : ℕ} {e : EnumRec} (h_ : Moves l_ z_ s) (hl_ : Part.sub [.regs, .tree, .qe, .fn, .pu, .out] l_ = true) :
    Moves l_ z_ (State.step13 s p e) := by
  refine h_.step ?_ hl_
  clear h_ hl_
  have h_ := Moves.refl [.regs, .tree, .qe, .fn, .pu, .out] s
  unfold State.step13
  repeat' (first
    | with_reducible assumption
    | intro _
    | with_reducible apply Moves.ite
    | exact (rfl : _ = true)
    | with_reducible apply State.endEnum_moves
    | with_reducible apply State.posEvent_moves
    | with_reducible apply State.showRtt_moves
    | with_reducible apply Moves.tree)

theorem State.stepBind_moves {l_ : List Part} {z_ : State} {s : State} {p : ℕ} {e : EnumRec} (h_ : Moves l_ z_ s) (hl_ : Part.sub [.regs, .tree, .ebm, .bus, .qe, .fn, .mre, .pu, .free, .out] l_ = true) :
    Moves l_ z_ (State.stepBind s p e) := by
  refine h_.step ?_ hl_
  clear h_ hl_
  have h_ := Moves.refl [.regs, .tree, .ebm, .bus, .qe, .fn, .mre, .pu, .free, .out] s
  unfold State.stepBind
  repeat' (first
    | with_reducible assumption
    | intro _
    | with_reducible apply Moves.ite
    | exact (rfl : _ = true)
    | with_reducible apply State.pushTm_moves
    | with_reducible apply State.setEnum_moves
    | with_reducible apply State.step13_moves)

theorem State.step12_moves {l_ : List Part} {z_ : State} {s : State} {p : ℕ} {e : EnumRec} (h_ : Moves l_ z_ s) (hl_ : Part.sub [.regs, .tree, .ebm, .bus, .qe, .fn, .mre, .pu, .free, .out] l_ = true) :
    Moves l_ z_ (State.step12 s p e) := by
  refine h_.step ?_ hl_
  clear h_ hl_
  have h_ := Moves.refl [.regs, .tree, .ebm, .bus, .qe, .fn, .mre, .pu, .free, .out] s
  unfold State.step12
  repeat' (first
    | with_reducible assumption
    | intro _
    | with_reducible apply Moves.ite
    | exact (rfl : _ = true)
    | with_reducible apply State.pushTm_moves
    | with_reducible apply State.setEnum_moves
    | with_reducible apply State.stepBind_moves)

theorem State.step11_moves {l_ : List Part} {z_ : State} {s : State} {p : ℕ} {e : EnumRec} (h_ : Moves l_ z_ s) (hl_ : Part.sub [.regs, .lx, .tree, .ts, .ebm, .bus, .qe, .bm, .xb, .fn, .mre, .pu, .free, .out] l_ = true) :
    Moves l_ z_ (State.step11 s p e) := by
  refine h_.step ?_ hl_
  clear h_ hl_
  have h_ := Moves.refl [.regs, .lx, .tree, .ts, .ebm, .bus, .qe, .bm, .xb, .fn, .mre, .pu, .free, .out] s
  unfold State.step11
  repeat' (first
    | with_reducible assumption
    | intro _
    | with_reducible apply Moves.ite
    | with_reducible apply Moves.foldl
    | exact (rfl : _ = true)
    | with_reducible apply State.ctxRtt_moves
    | with_reducible apply State.enumFail_moves
    | with_reducible apply State.setDev_moves
    | with_reducible apply State.showRtt_moves
    | with_reducible apply State.step12_moves
    | with_reducible apply State.raiseRtt_moves
    | split)

theorem State.bindFailed_moves {l_ : List Part} {z_ : State} {s : State} {dev : Nat} {ep : Nat} (h_ : Moves l_ z_ s) (hl_ : Part.sub [.regs, .tree, .qe, .fn, .pu, .out] l_ = true) :
    Moves l_ z_ (State.bindFailed s dev ep) := by
  refine h_.step ?_ hl_
  clear h_ hl_
  have h_ := Moves.refl [.regs, .tree, .qe, .fn, .pu, .out] s
  unfold State.bindFailed
  repeat' (first
    | with_reducible assumption
    | intro _
    | with_reducible apply Moves.ite
    | exact (rfl : _ = true)
    | with_reducible apply State.topoEvent_moves
    | split
    | with_reducible apply Moves.tree)

theorem State.step12Staged_moves {l_ : List Part} {z_ : State} {s : State} {p : Nat} {e : EnumRec} (h_ : Moves l_ z_ s) (hl_ : Part.sub [.regs, .lx, .tree, .ts, .ebm, .bus, .qe, .bm, .xb, .fn, .mre, .pu, .free, .out] l_ = true) :
    Moves l_ z_ (State.step12Staged s p e) := by
  unfold State.step12Staged
  extract_lets h
  have hn : ∀ t, (if (s.stagedRec (h * 16 + 9)).isSome then some s else s.scheduleStatus h) = some t → Moves l_ z_ t := fun t e => by
    split at e
    · injection e with e
      exact e ▸ h_
    · exact State.scheduleStatus_moves h_ (Part.sub_trans rfl hl_) e
  split
  · exact State.enumFail_moves h_ (Part.sub_trans rfl hl_)
  · next e => exact State.pushTm_moves (State.setEnum_moves (hn _ e) (Part.sub_trans rfl hl_)) (Part.sub_trans rfl hl_)

theorem State.step12End_moves {l_ : List Part} {z_ : State} {s : State} {p : ℕ} {e : EnumRec} {b : List Byte} (h_ : Moves l_ z_ s)
    (hl_ : Part.sub [.regs, .lx, .tree, .ts, .ebm, .bus, .qe, .bm, .xb, .fn, .mre, .pu, .free, .out] l_ = true) : Moves l_ z_ (State.step12End s p e b) := by
  have h1 : ∀ a d, Moves l_ z_ (s.setDev a d) := fun a d => State.setDev_moves h_ (Part.sub_trans rfl hl_)
  unfold State.step12End
  exact Moves.ite (fun _ => State.setEnum_moves (h1 _ _) (Part.sub_trans rfl hl_)) (fun _ => State.step12Staged_moves (h1 _ _) (Part.sub_trans rfl hl_))

theorem State.step12Resume_moves {l_ : List Part} {z_ : State} {s : State}  (h_ : Moves l_ z_ s) (hl_ : Part.sub [.regs, .lx, .tree, .ts, .ebm, .bus, .qe, .bm, .xb, .fn, .mre, .pu, .free, .out] l_ = true) :
    Moves l_ z_ (State.step12Resume s ) := by
  refine h_.step ?_ hl_
  clear h_ hl_
  have h_ := Moves.refl [.regs, .lx, .tree, .ts, .ebm, .bus, .qe, .bm, .xb, .fn, .mre, .pu, .free, .out] s
  unfold State.step12Resume
  repeat' (first
    | with_reducible assumption
    | intro _
    | with_reducible apply Moves.ite
    | with_reducible apply Moves.foldl
    | exact (rfl : _ = true)
    | with_reducible apply State.step12Staged_moves
    | split)

theorem State.addrGiven_moves {l_ : List Part} {z_ : State} {s : State} {d : DevRec} (h_ : Moves l_ z_ s) (hl_ : Part.sub [.tree, .pu, .out] l_ = true) :
    Moves l_ z_ (State.addrGiven s d) := by
  refine h_.step ?_ hl_
  clear h_ hl_
  have h_ := Moves.refl [.tree, .pu, .out] s
  unfold State.addrGiven
  repeat' (first
    | with_reducible assumption
    | intro _
    | with_reducible apply Moves.ite
    | exact (rfl : _ = true)
    | with_reducible apply State.setDev_moves
    | split)

theorem State.advanceEnum_moves {l_ : List Part} {z_ : State} {s : State} {p : Nat} {e : EnumRec} {q : TmReq} {r : TmReply} {rtt : Nat} (h_ : Moves l_ z_ s) (hl_ : Part.sub [.regs, .lx, .tree, .ts, .ebm, .bus, .qe, .bm, .xb, .fn, .mre, .pu, .free, .out] l_ = true) :
    Moves l_ z_ (State.advanceEnum s p e q r rtt) := by
  refine h_.step ?_ hl_
  clear h_ hl_
  have h_ := Moves.refl [.regs, .lx, .tree, .ts, .ebm, .bus, .qe, .bm, .xb, .fn, .mre, .pu, .free, .out] s
  unfold State.advanceEnum
  repeat' (first
    | with_reducible assumption
    | intro _
    | with_reducible apply Moves.ite
    | exact (rfl : _ = true)
    | with_reducible apply State.addrGiven_moves
    | with_reducible apply State.secondBound_moves
    | with_reducible apply State.setEnum_moves
    | with_reducible apply State.step11_moves
    | with_reducible apply State.step12End_moves
    | with_reducible apply State.step13_moves
    | with_reducible apply State.step4_moves
    | with_reducible apply State.step5_moves
    | with_reducible apply State.step8_moves
    | with_reducible apply State.step9_moves
    | with_reducible apply State.step9End_moves
    | with_reducible apply State.stepBind_moves
    | split)

theorem State.attachSeen_moves {l_ : List Part} {z_ : State} {s : State} {p : ℕ} (h_ : Moves l_ z_ s) (hl_ : Part.sub [.regs, .tree] l_ = true) :
    Moves l_ z_ (State.attachSeen s p) := by
  refine h_.step ?_ hl_
  clear h_ hl_
  have h_ := Moves.refl [.regs, .tree] s
  unfold State.attachSeen
  repeat' (first
    | with_reducible assumption
    | intro _
    | with_reducible apply Moves.ite
    | exact (rfl : _ = true)
    | with_reducible apply State.await_moves
    | with_reducible apply State.updPort_moves)

theorem State.attached_moves {l_ : List Part} {z_ : State} {s : State} {p : ℕ} {speed : ℕ} (h_ : Moves l_ z_ s) (hl_ : Part.sub [.regs, .lx, .tree, .qe, .fn, .pu, .out] l_ = true) :
    Moves l_ z_ (State.attached s p speed) := by
  refine h_.step ?_ hl_
  clear h_ hl_
  have h_ := Moves.refl [.regs, .lx, .tree, .qe, .fn, .pu, .out] s
  unfold State.attached
  repeat' (first
    | with_reducible assumption
    | exact (rfl : _ = true)
    | with_reducible apply State.attachSeen_moves
    | with_reducible apply State.portAttach_moves)

theorem State.beginEnum_moves {l_ : List Part} {z_ : State} {s : State} {a : AttachPos} (h_ : Moves l_ z_ s) (hl_ : Part.sub [.regs, .lx, .tree, .ts, .ebm, .bus, .qe, .bm, .xb, .fn, .mre, .pu, .ck, .free, .out] l_ = true) :
    Moves l_ z_ (State.beginEnum s a) := by
  refine h_.step ?_ hl_
  clear h_ hl_
  have h_ := Moves.refl [.regs, .lx, .tree, .ts, .ebm, .bus, .qe, .bm, .xb, .fn, .mre, .pu, .ck, .free, .out] s
  unfold State.beginEnum
  repeat' (first
    | with_reducible assumption
    | intro _
    | with_reducible apply Moves.ite
    | exact (rfl : _ = true)
    | with_reducible apply State.portReset_moves
    | with_reducible apply State.pushTm_moves
    | with_reducible apply State.setEnum_moves
    | with_reducible apply State.step3_moves)

theorem State.bindDone_moves {l_ : List Part} {z_ : State} {s : State} {dev : ℕ} {ep : ℕ} {g : ℕ} (h_ : Moves l_ z_ s) (hl_ : Part.sub [.regs, .tree, .ebm, .bus, .qe, .fn, .mre, .pu, .out] l_ = true) :
    Moves l_ z_ (State.bindDone s dev ep g) := by
  refine h_.step ?_ hl_
  clear h_ hl_
  have h_ := Moves.refl [.regs, .tree, .ebm, .bus, .qe, .fn, .mre, .pu, .out] s
  unfold State.bindDone
  repeat' (first
    | with_reducible assumption
    | intro _
    | exact (rfl : _ = true)
    | with_reducible apply State.setCf_moves
    | with_reducible apply State.tellCtx_moves
    | with_reducible apply State.topoEvent_moves
    | with_reducible apply State.dropSlot_moves
    | split
    | with_reducible apply Moves.tree)

theorem State.reqDone_moves {l_ : List Part} {z_ : State} {s : State} {q : TmReq} {data : List Byte} (h_ : Moves l_ z_ s) (hl_ : Part.sub [.regs, .lx, .tree, .ts, .ebm, .bus, .qe, .bm, .xb, .fn, .mre, .pu, .ck, .free, .out] l_ = true) :
    Moves l_ z_ (State.reqDone s q data) := by
  refine h_.step ?_ hl_
  clear h_ hl_
  have h_ := Moves.refl [.regs, .lx, .tree, .ts, .ebm, .bus, .qe, .bm, .xb, .fn, .mre, .pu, .ck, .free, .out] s
  unfold State.reqDone
  repeat' (first
    | with_reducible assumption
    | exact (rfl : _ = true)
    | with_reducible apply State.bindDone_moves
    | with_reducible apply State.hubClear_moves
    | with_reducible apply State.hubFeature_moves
    | with_reducible apply State.hubStatus_moves
    | with_reducible apply State.setHubGroup_moves
    | with_reducible apply State.setRoutes_moves
    | with_reducible apply State.stallCleared_moves
    | split)

theorem State.serialLost_moves {l_ : List Part} {z_ : State} {s : State} {a : ℕ} {addr : ℕ} (h_ : Moves l_ z_ s) (hl_ : Part.sub [.regs, .tree, .fn, .out] l_ = true) :
    Moves l_ z_ (State.serialLost s a addr) := by
  refine h_.step ?_ hl_
  clear h_ hl_
  have h_ := Moves.refl [.regs, .tree, .fn, .out] s
  unfold State.serialLost
  repeat' (first
    | with_reducible assumption
    | intro _
    | with_reducible apply Moves.ite
    | exact (rfl : _ = true)
    | with_reducible apply State.smError_moves
    | split
    | with_reducible apply Moves.tree)

theorem State.tmDone_moves {l_ : List Part} {z_ : State} {s : State} {p : ℕ} {r : TmReply} (h_ : Moves l_ z_ s) (hl_ : Part.sub [.regs, .lx, .tree, .ts, .ebm, .bus, .qe, .bm, .xb, .fn, .mre, .pu, .ck, .free, .out] l_ = true) :
    Moves l_ z_ (State.tmDone s p r) := by
  refine h_.step ?_ hl_
  clear h_ hl_
  have h_ := Moves.refl [.regs, .lx, .tree, .ts, .ebm, .bus, .qe, .bm, .xb, .fn, .mre, .pu, .ck, .free, .out] s
  unfold State.tmDone
  repeat' (first
    | with_reducible assumption
    | intro _
    | exact (rfl : _ = true)
    | with_reducible apply State.advanceEnum_moves
    | with_reducible apply State.dropTmXfers_moves
    | with_reducible apply State.enumFail_moves
    | with_reducible apply State.kickTm_moves
    | with_reducible apply State.reqDone_moves
    | with_reducible apply State.serialLost_moves
    | with_reducible apply State.setTodo_moves
    | with_reducible apply State.bindFailed_moves
    | with_reducible apply State.stopEnum_moves
    | split
    | with_reducible apply Moves.tree)

end Sys2Proof.Machine
end

