-- ==== Sys2Proof/Laws/PairOpsMoves.lean ====
section
/-! SUPPORT. What the operations of Machine/PairOps.lean may touch. -/

set_option Elab.async false
set_option linter.unusedTactic false
set_option linter.unreachableTactic false

namespace Sys2Proof.Machine

theorem State.completeM_moves {l_ : List Part} {z_ : State} {s : State} {r : EntryRef} {e : Sqe} {status : ℕ} {residue : optParam ℕ 0} {d4 : optParam Word 0} {d5 : optParam Word 0} {d6 : optParam Word 0} {d7 : optParam Word 0} (h_ : Moves l_ z_ s) (hl_ : Part.sub [.regs, .qe, .bm, .xb, .fn, .pu, .out] l_ = true) :
    Moves l_ z_ (State.completeM s r e status residue d4 d5 d6 d7) := by
  refine h_.step ?_ hl_
  clear h_ hl_
  have h_ := Moves.refl [.regs, .qe, .bm, .xb, .fn, .pu, .out] s
  unfold State.completeM
  repeat' (first
    | with_reducible assumption
    | intro _
    | with_reducible apply Moves.ite
    | exact (rfl : _ = true)
    | with_reducible apply State.finishEntry_moves
    | with_reducible apply State.updPu_moves)

theorem State.completeRefM_moves {l_ : List Part} {z_ : State} {s : State} {r : EntryRef} {status : ℕ} {residue : optParam ℕ 0} {d4 : optParam Word 0} {d5 : optParam Word 0} {d6 : optParam Word 0} {d7 : optParam Word 0} (h_ : Moves l_ z_ s) (hl_ : Part.sub [.regs, .qe, .bm, .xb, .fn, .pu, .out] l_ = true) :
    Moves l_ z_ (State.completeRefM s r status residue d4 d5 d6 d7) := by
  refine h_.step ?_ hl_
  clear h_ hl_
  have h_ := Moves.refl [.regs, .qe, .bm, .xb, .fn, .pu, .out] s
  unfold State.completeRefM
  repeat' (first
    | with_reducible assumption
    | exact (rfl : _ = true)
    | with_reducible apply State.completeM_moves
    | split)

theorem State.ackTo_moves {l_ : List Part} {z_ : State} {s : State} {n : ℕ} (h_ : Moves l_ z_ s) (hl_ : Part.sub [.regs, .qe, .bm, .xb, .fn, .pu, .out] l_ = true) :
    Moves l_ z_ (State.ackTo s n) := by
  refine h_.step ?_ hl_
  clear h_ hl_
  have h_ := Moves.refl [.regs, .qe, .bm, .xb, .fn, .pu, .out] s
  unfold State.ackTo
  dsimp only
  repeat' (first
    | with_reducible assumption
    | intro _
    | with_reducible apply Moves.foldl
    | exact (rfl : _ = true)
    | with_reducible apply State.finishEntry_moves
    | with_reducible apply State.updPu_moves
    | with_reducible apply State.sendUnsent_moves
    | split)

theorem State.pairHold_moves {l_ : List Part} {z_ : State} {s : State} {a : ℕ} {v : Word} (h_ : Moves l_ z_ s) (hl_ : Part.sub [.regs, .pu, .out] l_ = true) :
    Moves l_ z_ (State.pairHold s a v).1 := by
  refine h_.step ?_ hl_
  clear h_ hl_
  have h_ := Moves.refl [.regs, .pu, .out] s
  unfold State.pairHold
  repeat' (first
    | with_reducible assumption
    | (extract_lets -underBinder +onlyGivenNames x_; first | (refine (fun hx_ : Moves [.regs, .pu, .out] s x_ => ?_) ?_; (on_goal 1 => (clear_value x_; revert hx_; revert x_; intro _ _)); (on_goal 2 => subst x_)) | (clear_value x_; revert x_; intro _))
    | exact (rfl : _ = true)
    | with_reducible apply State.sendOrdered_moves
    | with_reducible apply State.setB_moves
    | with_reducible apply State.updPu_moves
    | split)

theorem State.puEvent_moves {l_ : List Part} {z_ : State} {s : State} {code cause d6 d7 : ℕ} (h_ : Moves l_ z_ s)
    (hl_ : Part.sub [.regs, .qe, .fn, .pu, .out] l_ = true) : Moves l_ z_ (State.puEvent s code cause d6 d7) := by
  unfold State.puEvent
  refine Moves.ite (fun _ => ?_) (fun _ => h_)
  extract_lets dws now
  have hn : ∀ t, now = some t → Moves l_ z_ t := fun t e => by
    simp only [now] at e
    split at e <;> [exact State.postEvent_moves h_ (Part.sub_trans rfl hl_) e; cases e]
  clear_value now
  cases now with
  | some t => exact hn t rfl
  | none =>
    have hb : ∀ g, Moves l_ z_ (s.updPu g) := fun g => State.updPu_moves h_ (Part.sub_trans rfl hl_)
    exact Moves.ite (fun _ => hb _) (fun _ => Moves.ite (fun _ => hb _) (fun _ => hb _))

theorem State.orderedDown_moves {l_ : List Part} {z_ : State} {s : State} (h_ : Moves l_ z_ s) (hl_ : Part.sub [.regs, .qe, .bm, .xb, .fn, .pu, .out] l_ = true) :
    Moves l_ z_ (State.orderedDown s) := by
  refine h_.step ?_ hl_
  clear h_ hl_
  have h_ := Moves.refl [.regs, .qe, .bm, .xb, .fn, .pu, .out] s
  unfold State.orderedDown
  repeat' (first
    | with_reducible assumption
    | intro _
    | with_reducible apply Moves.ite
    | with_reducible apply Moves.foldl
    | exact (rfl : _ = true)
    | with_reducible apply State.complete_moves
    | with_reducible apply State.finishEntry_moves
    | with_reducible apply State.puEvent_moves
    | with_reducible apply State.setB_moves
    | with_reducible apply State.updPu_moves)

theorem State.setPstate_moves {l_ : List Part} {z_ : State} {s : State} {p : ℕ} (h_ : Moves l_ z_ s) (hl_ : Part.sub [.regs] l_ = true) :
    Moves l_ z_ (State.setPstate s p) := by
  refine h_.step ?_ hl_
  clear h_ hl_
  have h_ := Moves.refl [.regs] s
  unfold State.setPstate
  repeat' (first
    | with_reducible assumption
    | exact (rfl : _ = true)
    | with_reducible apply State.setF_moves)

theorem State.setRole_moves {l_ : List Part} {z_ : State} {s : State} {r : ℕ} (h_ : Moves l_ z_ s) (hl_ : Part.sub [.regs] l_ = true) :
    Moves l_ z_ (State.setRole s r) := by
  refine h_.step ?_ hl_
  clear h_ hl_
  have h_ := Moves.refl [.regs] s
  unfold State.setRole
  repeat' (first
    | with_reducible assumption
    | exact (rfl : _ = true)
    | with_reducible apply State.setF_moves)

theorem State.enterResync_moves {l_ : List Part} {z_ : State} {s : State} {cause : ℕ} (h_ : Moves l_ z_ s) (hl_ : Part.sub [.regs, .qe, .fn, .pu, .out] l_ = true) :
    Moves l_ z_ (State.enterResync s cause) := by
  refine h_.step ?_ hl_
  clear h_ hl_
  have h_ := Moves.refl [.regs, .qe, .fn, .pu, .out] s
  unfold State.enterResync
  repeat' (first
    | with_reducible assumption
    | intro _
    | with_reducible apply Moves.ite
    | exact (rfl : _ = true)
    | with_reducible apply State.puEvent_moves
    | with_reducible apply State.setPstate_moves
    | with_reducible apply State.updPu_moves)

theorem State.mirror_moves {l_ : List Part} {z_ : State} {s : State} {r : EntryRef} {e : Sqe} {h : HostData} (h_ : Moves l_ z_ s) (hl_ : Part.sub [.pu, .out] l_ = true) :
    Moves l_ z_ (State.mirror s r e h) := by
  refine h_.step ?_ hl_
  clear h_ hl_
  have h_ := Moves.refl [.pu, .out] s
  unfold State.mirror
  repeat' (first
    | with_reducible assumption
    | intro _
    | with_reducible apply Moves.ite
    | exact (rfl : _ = true)
    | with_reducible apply State.sendOrdered_moves
    | with_reducible apply State.updPu_moves)

theorem State.becomeHolder_moves {l_ : List Part} {z_ : State} {s : State} (h_ : Moves l_ z_ s) (hl_ : Part.sub [.regs, .qe, .fn, .pu, .out] l_ = true) :
    Moves l_ z_ (State.becomeHolder s) := by
  refine h_.step ?_ hl_
  clear h_ hl_
  have h_ := Moves.refl [.regs, .qe, .fn, .pu, .out] s
  unfold State.becomeHolder
  repeat' (first
    | with_reducible assumption
    | exact (rfl : _ = true)
    | with_reducible apply State.puEvent_moves
    | with_reducible apply State.setF_moves
    | with_reducible apply State.setRole_moves)

theorem State.drainPu_moves {l_ : List Part} {z_ : State} {s : State} {a1_ : ℕ} (h_ : Moves l_ z_ s) (hl_ : Part.sub [.regs, .qe, .fn, .pu, .out] l_ = true) :
    Moves l_ z_ (State.drainPu s a1_) := by
  refine h_.step ?_ hl_
  clear h_ hl_
  induction a1_ generalizing s with
  | zero => exact Moves.refl _ _
  | succ n_ ih_ =>
    have h_ := Moves.refl [.regs, .qe, .fn, .pu, .out] s
    unfold State.drainPu
    repeat' (first
      | with_reducible refine Moves.trans ?_ ih_
      | with_reducible assumption
      | refine State.postEvent_moves ?_ ?_ (by assumption)
      | exact (rfl : _ = true)
      | with_reducible apply State.updPu_moves
      | split)

end Sys2Proof.Machine
end

