-- ==== Sys2Proof/Laws/PowerOpsMoves.lean ====
section
/-! SUPPORT. What the operations of Machine/PowerOps.lean may touch. -/

set_option Elab.async false
set_option linter.unusedTactic false
set_option linter.unreachableTactic false

namespace Sys2Proof.Machine

theorem State.savePoints_moves {l_ : List Part} {z_ : State} {s : State}  (h_ : Moves l_ z_ s) (hl_ : Part.sub [.pm] l_ = true) :
    Moves l_ z_ (State.savePoints s ) := by
  refine h_.step ?_ hl_
  clear h_ hl_
  have h_ := Moves.refl [.pm] s
  unfold State.savePoints
  repeat' (first
    | with_reducible assumption
    | intro _
    | with_reducible apply Moves.ite
    | exact (rfl : _ = true)
    | with_reducible apply State.updPm_moves
    | split)

theorem State.abdicate_moves {l_ : List Part} {z_ : State} {s : State} (h_ : Moves l_ z_ s) (hl_ : Part.sub [.pu] l_ = true) :
    Moves l_ z_ (State.abdicate s) := by
  refine h_.step ?_ hl_
  clear h_ hl_
  have h_ := Moves.refl [.pu] s
  unfold State.abdicate
  repeat' (first
    | with_reducible assumption
    | intro _
    | with_reducible apply Moves.ite
    | exact (rfl : _ = true)
    | with_reducible apply State.updPu_moves)

theorem State.pairSwitch_moves {l_ : List Part} {z_ : State} {s : State} {satin : Bool} (h_ : Moves l_ z_ s) (hl_ : Part.sub [.pu, .out] l_ = true) :
    Moves l_ z_ (State.pairSwitch s satin) := by
  refine h_.step ?_ hl_
  clear h_ hl_
  have h_ := Moves.refl [.pu, .out] s
  unfold State.pairSwitch
  repeat' (first
    | with_reducible assumption
    | intro _
    | with_reducible apply Moves.ite
    | exact (rfl : _ = true)
    | with_reducible apply State.sendOrdered_moves
    | with_reducible apply State.updPu_moves)

theorem State.startReturn_moves {l_ : List Part} {z_ : State} {s : State} (h_ : Moves l_ z_ s) (hl_ : Part.sub [.pu, .pm, .out] l_ = true) :
    Moves l_ z_ (State.startReturn s) := by
  refine h_.step ?_ hl_
  clear h_ hl_
  have h_ := Moves.refl [.pu, .pm, .out] s
  unfold State.startReturn
  repeat' (first
    | with_reducible assumption
    | intro _
    | with_reducible apply Moves.ite
    | exact (rfl : _ = true)
    | with_reducible apply State.pairSwitch_moves
    | with_reducible apply State.updPm_moves)

theorem State.logWake_moves {l_ : List Part} {z_ : State} {s : State} {src : ℕ} {aborted : Bool} (h_ : Moves l_ z_ s) (hl_ : Part.sub [.regs, .pm] l_ = true) :
    Moves l_ z_ (State.logWake s src aborted) := by
  refine h_.step ?_ hl_
  clear h_ hl_
  have h_ := Moves.refl [.regs, .pm] s
  unfold State.logWake
  repeat' (first
    | with_reducible assumption
    | exact (rfl : _ = true)
    | with_reducible apply State.bump_moves
    | with_reducible apply State.setB_moves
    | with_reducible apply State.setF_moves
    | with_reducible apply State.setReg_moves
    | with_reducible apply State.updPm_moves)

theorem State.endRequest_moves {l_ : List Part} {z_ : State} {s : State} {status : ℕ} (h_ : Moves l_ z_ s) (hl_ : Part.sub [.regs, .pm] l_ = true) :
    Moves l_ z_ (State.endRequest s status) := by
  refine h_.step ?_ hl_
  clear h_ hl_
  have h_ := Moves.refl [.regs, .pm] s
  unfold State.endRequest
  repeat' (first
    | with_reducible assumption
    | exact (rfl : _ = true)
    | with_reducible apply State.setB_moves
    | with_reducible apply State.setF_moves
    | with_reducible apply State.updPm_moves)

theorem State.wake_moves {l_ : List Part} {z_ : State} {s : State} {w : WakeSource} (h_ : Moves l_ z_ s) (hl_ : Part.sub [.regs, .qe, .fn, .pu, .pm, .out] l_ = true) :
    Moves l_ z_ (State.wake s w) := by
  refine h_.step ?_ hl_
  clear h_ hl_
  have h_ := Moves.refl [.regs, .qe, .fn, .pu, .pm, .out] s
  unfold State.wake
  repeat' (first
    | with_reducible assumption
    | intro _
    | with_reducible apply Moves.ite
    | exact (rfl : _ = true)
    | with_reducible apply State.endRequest_moves
    | with_reducible apply State.logWake_moves
    | with_reducible apply State.pairSwitch_moves
    | with_reducible apply State.rescan_moves
    | with_reducible apply State.startReturn_moves
    | with_reducible apply State.updPm_moves
    | with_reducible apply State.updPu_moves
    | split)

theorem State.wakeLate_moves {l_ : List Part} {z_ : State} {s : State}  (h_ : Moves l_ z_ s) (hl_ : Part.sub [.regs, .qe, .fn, .pu, .pm, .out] l_ = true) :
    Moves l_ z_ (State.wakeLate s ) := by
  refine h_.step ?_ hl_
  clear h_ hl_
  have h_ := Moves.refl [.regs, .qe, .fn, .pu, .pm, .out] s
  unfold State.wakeLate
  repeat' (first
    | with_reducible assumption
    | intro _
    | with_reducible apply Moves.ite
    | exact (rfl : _ = true)
    | with_reducible apply State.updPm_moves
    | with_reducible apply State.wake_moves
    | split)

theorem State.showSteady_moves {l_ : List Part} {z_ : State} {s : State} (h_ : Moves l_ z_ s) (hl_ : Part.sub [.regs] l_ = true) :
    Moves l_ z_ (State.showSteady s) := by
  refine h_.step ?_ hl_
  clear h_ hl_
  have h_ := Moves.refl [.regs] s
  unfold State.showSteady
  repeat' (first
    | with_reducible assumption
    | intro _
    | with_reducible apply Moves.ite
    | exact (rfl : _ = true)
    | with_reducible apply State.setF_moves)

theorem State.markOp_moves {l_ : List Part} {z_ : State} {s : State} (h_ : Moves l_ z_ s) (hl_ : Part.sub [.gd] l_ = true) :
    Moves l_ z_ (State.markOp s) := by
  refine h_.step ?_ hl_
  clear h_ hl_
  have h_ := Moves.refl [.gd] s
  unfold State.markOp
  repeat' (first
    | with_reducible assumption
    | exact (rfl : _ = true)
    | with_reducible apply Moves.gd)

theorem State.setPoints_moves {l_ : List Part} {z_ : State} {s : State} {core : ℕ} {dsp : ℕ} (h_ : Moves l_ z_ s) (hl_ : Part.sub [.regs] l_ = true) :
    Moves l_ z_ (State.setPoints s core dsp) := by
  refine h_.step ?_ hl_
  clear h_ hl_
  have h_ := Moves.refl [.regs] s
  unfold State.setPoints
  repeat' (first
    | with_reducible assumption
    | exact (rfl : _ = true)
    | with_reducible apply State.setF_moves)

end Sys2Proof.Machine
end

