-- ==== Sys2Proof/Laws/LinkMoves.lean ====
section
/-! SUPPORT. What the operations of Machine/Link.lean may touch. -/

set_option Elab.async false
set_option linter.unusedTactic false
set_option linter.unreachableTactic false

namespace Sys2Proof.Machine

theorem State.softDone_moves {l_ : List Part} {z_ : State} {s : State} {r : Xfer} (h_ : Moves l_ z_ s) (hl_ : Part.sub [.regs, .lx, .tree, .ts, .ebm, .bus, .qe, .bm, .xb, .fn, .mre, .pu, .ck, .free, .out] l_ = true) :
    Moves l_ z_ (State.softDone s r) := by
  refine h_.step ?_ hl_
  clear h_ hl_
  have h_ := Moves.refl [.regs, .lx, .tree, .ts, .ebm, .bus, .qe, .bm, .xb, .fn, .mre, .pu, .ck, .free, .out] s
  unfold State.softDone
  repeat' (first
    | with_reducible assumption
    | (extract_lets -underBinder +onlyGivenNames x_; (clear_value x_; revert x_; intro _))
    | exact (rfl : _ = true)
    | with_reducible apply State.hubClear_moves
    | with_reducible apply State.hubFeature_moves
    | with_reducible apply State.hubStatus_moves
    | with_reducible apply State.stallCleared_moves
    | split)

theorem State.settleXfer_moves {l_ : List Part} {z_ : State} {s : State} {x : ℕ} (h_ : Moves l_ z_ s) (hl_ : Part.sub [.regs, .lx, .tree, .ts, .ebm, .bus, .qe, .bm, .xb, .fn, .mre, .pu, .ck, .free, .out] l_ = true) :
    Moves l_ z_ (State.settleXfer s x) := by
  refine h_.step ?_ hl_
  clear h_ hl_
  have h_ := Moves.refl [.regs, .lx, .tree, .ts, .ebm, .bus, .qe, .bm, .xb, .fn, .mre, .pu, .ck, .free, .out] s
  unfold State.settleXfer
  repeat' (first
    | with_reducible assumption
    | intro _
    | exact (rfl : _ = true)
    | with_reducible apply State.bump_moves
    | with_reducible apply State.endXfer_moves
    | with_reducible apply State.setXfer_moves
    | with_reducible apply State.softDone_moves
    | with_reducible apply State.when_moves
    | split)

theorem State.ackXfer_moves {l_ : List Part} {z_ : State} {s : State} {x : ℕ} {q : ℕ} (h_ : Moves l_ z_ s) (hl_ : Part.sub [.regs, .lx, .tree, .ts, .ebm, .bus, .qe, .bm, .xb, .fn, .mre, .pu, .ck, .free, .out] l_ = true) :
    Moves l_ z_ (State.ackXfer s x q) := by
  refine h_.step ?_ hl_
  clear h_ hl_
  have h_ := Moves.refl [.regs, .lx, .tree, .ts, .ebm, .bus, .qe, .bm, .xb, .fn, .mre, .pu, .ck, .free, .out] s
  unfold State.ackXfer
  repeat' (first
    | with_reducible assumption
    | with_reducible apply Moves.foldl
    | intro _
    | exact (rfl : _ = true)
    | with_reducible apply State.saveSeq_moves
    | with_reducible apply State.setXfer_moves
    | with_reducible apply State.settleXfer_moves
    | with_reducible apply State.fillBuf_moves
    | with_reducible apply State.showBufs_moves
    | with_reducible apply State.when_moves
    | split)

theorem State.afterTx_moves {l_ : List Part} {z_ : State} {s : State} {x : ℕ} (h_ : Moves l_ z_ s) (hl_ : Part.sub [.regs, .ts, .ebm, .bus, .qe, .bm, .xb, .fn, .mre, .out] l_ = true) :
    Moves l_ z_ (State.afterTx s x) := by
  refine h_.step ?_ hl_
  clear h_ hl_
  have h_ := Moves.refl [.regs, .ts, .ebm, .bus, .qe, .bm, .xb, .fn, .mre, .out] s
  unfold State.afterTx
  repeat' (first
    | with_reducible assumption
    | exact (rfl : _ = true)
    | with_reducible apply State.endXfer_moves
    | split)

theorem State.dataXfer_moves {l_ : List Part} {z_ : State} {s : State} {x : ℕ} {q : ℕ} {b : List Byte} {last : Bool} (h_ : Moves l_ z_ s) (hl_ : Part.sub [.regs, .lx, .tree, .ts, .ebm, .bus, .qe, .bm, .xb, .fn, .mre, .pu, .ck, .free, .out] l_ = true) :
    Moves l_ z_ (State.dataXfer s x q b last) := by
  refine h_.step ?_ hl_
  clear h_ hl_
  have h_ := Moves.refl [.regs, .lx, .tree, .ts, .ebm, .bus, .qe, .bm, .xb, .fn, .mre, .pu, .ck, .free, .out] s
  unfold State.dataXfer
  repeat' (first
    | with_reducible assumption
    | (extract_lets -underBinder +onlyGivenNames x_; (clear_value x_; revert x_; intro _))
    | with_reducible apply Moves.foldl
    | intro _
    | exact (rfl : _ = true)
    | with_reducible apply State.saveSeq_moves
    | with_reducible apply State.setXfer_moves
    | with_reducible apply State.settleXfer_moves
    | with_reducible apply State.fillBuf_moves
    | with_reducible apply State.showBufs_moves
    | split)

theorem State.setLock_moves {l_ : List Part} {z_ : State} {s : State} {k : ℕ} {l : LockSeq} (h_ : Moves l_ z_ s) (hl_ : Part.sub [.regs, .xb] l_ = true) :
    Moves l_ z_ (State.setLock s k l) := by
  refine h_.step ?_ hl_
  clear h_ hl_
  have h_ := Moves.refl [.regs, .xb] s
  unfold State.setLock
  repeat' (first
    | with_reducible assumption
    | exact (rfl : _ = true)
    | with_reducible apply State.updView_moves)

theorem State.sendNp_moves {l_ : List Part} {z_ : State} {s : State} {t : ℕ} {o : NpOut} (h_ : Moves l_ z_ s) (hl_ : Part.sub [.regs, .bus, .free, .out] l_ = true) :
    Moves l_ z_ (State.sendNp s t o) := by
  refine h_.step ?_ hl_
  clear h_ hl_
  have h_ := Moves.refl [.regs, .bus, .free, .out] s
  unfold State.sendNp
  repeat' (first
    | with_reducible assumption
    | (extract_lets -underBinder +onlyGivenNames x_; first | (refine (fun hx_ : Moves [.regs, .bus, .free, .out] s x_ => ?_) ?_; (on_goal 1 => (clear_value x_; revert hx_; revert x_; intro _ _)); (on_goal 2 => subst x_)) | (clear_value x_; revert x_; intro _))
    | intro _
    | exact (rfl : _ = true)
    | with_reducible apply State.bump_moves
    | with_reducible apply State.fresh_moves
    | with_reducible apply State.putNp_moves
    | with_reducible apply State.setNpTx_moves
    | split)

theorem State.lockSecond_moves {l_ : List Part} {z_ : State} {s : State} {k : ℕ} (h_ : Moves l_ z_ s) (hl_ : Part.sub [.regs, .bus, .xb, .free, .out] l_ = true) :
    Moves l_ z_ (State.lockSecond s k) := by
  refine h_.step ?_ hl_
  clear h_ hl_
  have h_ := Moves.refl [.regs, .bus, .xb, .free, .out] s
  unfold State.lockSecond
  repeat' (first
    | with_reducible assumption
    | exact (rfl : _ = true)
    | with_reducible apply State.sendNp_moves
    | with_reducible apply State.setLock_moves
    | split)

theorem State.lockAnswer_moves {l_ : List Part} {z_ : State} {s : State} {k : ℕ} {n : ℕ} {data : List Byte} (h_ : Moves l_ z_ s) (hl_ : Part.sub [.regs, .bus, .qe, .bm, .xb, .fn, .free, .out] l_ = true) :
    Moves l_ z_ (State.lockAnswer s k n data) := by
  refine h_.step ?_ hl_
  clear h_ hl_
  have h_ := Moves.refl [.regs, .bus, .qe, .bm, .xb, .fn, .free, .out] s
  unfold State.lockAnswer
  repeat' (first
    | with_reducible assumption
    | (extract_lets -underBinder +onlyGivenNames x_; first | (refine (fun hx_ : Moves [.regs, .bus, .qe, .bm, .xb, .fn, .free, .out] s x_ => ?_) ?_; (on_goal 1 => (clear_value x_; revert hx_; revert x_; intro _ _)); (on_goal 2 => subst x_)) | (clear_value x_; revert x_; intro _))
    | exact (rfl : _ = true)
    | with_reducible apply State.lockEnd_moves
    | with_reducible apply State.lockSecond_moves
    | with_reducible apply State.setLock_moves
    | split)

theorem State.lockFail_moves {l_ : List Part} {z_ : State} {s : State} {k : ℕ} {busy : Bool} (h_ : Moves l_ z_ s) (hl_ : Part.sub [.regs, .bus, .qe, .bm, .xb, .fn, .free, .out] l_ = true) :
    Moves l_ z_ (State.lockFail s k busy) := by
  refine h_.step ?_ hl_
  clear h_ hl_
  have h_ := Moves.refl [.regs, .bus, .qe, .bm, .xb, .fn, .free, .out] s
  unfold State.lockFail
  repeat' (first
    | with_reducible assumption
    | (extract_lets -underBinder +onlyGivenNames x_; first | (refine (fun hx_ : Moves [.regs, .bus, .qe, .bm, .xb, .fn, .free, .out] s x_ => ?_) ?_; (on_goal 1 => (clear_value x_; revert hx_; revert x_; intro _ _)); (on_goal 2 => subst x_)) | (clear_value x_; revert x_; intro _))
    | intro _
    | exact (rfl : _ = true)
    | with_reducible apply State.closeAll_moves
    | with_reducible apply State.lockEnd_moves
    | with_reducible apply State.sendNp_moves
    | with_reducible apply State.setLock_moves
    | split)

theorem State.lockStall_moves {l_ : List Part} {z_ : State} {s : State} {k : ℕ} (h_ : Moves l_ z_ s) (hl_ : Part.sub [.regs, .bus, .qe, .bm, .xb, .fn, .free, .out] l_ = true) :
    Moves l_ z_ (State.lockStall s k) := by
  refine h_.step ?_ hl_
  clear h_ hl_
  have h_ := Moves.refl [.regs, .bus, .qe, .bm, .xb, .fn, .free, .out] s
  unfold State.lockStall
  repeat' (first
    | with_reducible assumption
    | exact (rfl : _ = true)
    | with_reducible apply State.lockEnd_moves
    | with_reducible apply State.sendNp_moves
    | split)

theorem State.lockSend_moves {l_ : List Part} {z_ : State} {s : State} {k : ℕ} (h_ : Moves l_ z_ s) (hl_ : Part.sub [.regs, .bus, .xb, .free, .out] l_ = true) :
    Moves l_ z_ (State.lockSend s k) := by
  refine h_.step ?_ hl_
  clear h_ hl_
  have h_ := Moves.refl [.regs, .bus, .xb, .free, .out] s
  unfold State.lockSend
  repeat' (first
    | with_reducible assumption
    | exact (rfl : _ = true)
    | with_reducible apply State.sendNp_moves
    | with_reducible apply State.setLock_moves
    | split)

end Sys2Proof.Machine
end

