-- ==== Sys2Proof/Laws/SupOpsMoves.lean ====
section
/-! SUPPORT. What the operations of Machine/SupOps.lean may touch. -/

set_option Elab.async false
set_option linter.unusedTactic false
set_option linter.unreachableTactic false

namespace Sys2Proof.Machine

theorem State.setLine_moves {l_ : List Part} {z_ : State} {s : State} {l : ℕ} {r : LineRec} (h_ : Moves l_ z_ s) (hl_ : Part.sub [.sv] l_ = true) :
    Moves l_ z_ (State.setLine s l r) := by
  refine h_.step ?_ hl_
  clear h_ hl_
  have h_ := Moves.refl [.sv] s
  unfold State.setLine
  repeat' (first
    | with_reducible assumption
    | exact (rfl : _ = true)
    | with_reducible apply Moves.sv)

theorem State.addPilot_moves {l_ : List Part} {z_ : State} {s : State} {l : ℕ} {p : ℕ} {x : List ℤ} (h_ : Moves l_ z_ s) (hl_ : Part.sub [.regs, .sv] l_ = true) :
    Moves l_ z_ (State.addPilot s l p x).1 := by
  refine h_.step ?_ hl_
  clear h_ hl_
  have h_ := Moves.refl [.regs, .sv] s
  unfold State.addPilot
  repeat' (first
    | with_reducible assumption
    | (extract_lets -underBinder +onlyGivenNames x_; first | (refine (fun hx_ : Moves [.regs, .sv] s x_ => ?_) ?_; (on_goal 1 => (clear_value x_; revert hx_; revert x_; intro _ _)); (on_goal 2 => subst x_)) | (clear_value x_; revert x_; intro _))
    | intro _
    | exact (rfl : _ = true)
    | with_reducible apply State.bump_moves
    | with_reducible apply State.setLine_moves
    | split)

theorem State.setNodeSt_moves {l_ : List Part} {z_ : State} {s : State} {n : ℕ} {r : NodeSt} (h_ : Moves l_ z_ s) (hl_ : Part.sub [.mre] l_ = true) :
    Moves l_ z_ (State.setNodeSt s n r) := by
  refine h_.step ?_ hl_
  clear h_ hl_
  have h_ := Moves.refl [.mre] s
  unfold State.setNodeSt
  repeat' (first
    | with_reducible assumption
    | exact (rfl : _ = true)
    | with_reducible apply Moves.mre)

theorem State.svPass_moves {l_ : List Part} {z_ : State} {s : State} {c : CorrParams} {p : ℕ} {sense : ℤ} {blk : Option (List Byte)} (h_ : Moves l_ z_ s) (hl_ : Part.sub [.regs, .sv] l_ = true) :
    Moves l_ z_ (State.svPass s c p sense blk) := by
  refine h_.step ?_ hl_
  clear h_ hl_
  have h_ := Moves.refl [.regs, .sv] s
  unfold State.svPass
  repeat' (first
    | with_reducible assumption
    | intro _
    | exact (rfl : _ = true)
    | with_reducible apply State.bump_moves
    | with_reducible apply State.setLine_moves
    | split)

theorem State.svQuiet_moves {l_ : List Part} {z_ : State} {s : State} {c : CorrParams} {p : Nat} (h_ : Moves l_ z_ s) (hl_ : Part.sub [.sv] l_ = true) :
    Moves l_ z_ (State.svQuiet s c p) := by
  refine h_.step ?_ hl_
  clear h_ hl_
  have h_ := Moves.refl [.sv] s
  unfold State.svQuiet
  repeat' (first
    | with_reducible assumption
    | intro _
    | with_reducible apply Moves.ite
    | exact (rfl : _ = true)
    | with_reducible apply State.setLine_moves
    | split)

theorem State.svPublish_moves {l_ : List Part} {z_ : State} {s : State} {l : ℕ} {p : ℕ} {x : List ℤ} (h_ : Moves l_ z_ s) (hl_ : Part.sub [.sv] l_ = true) :
    Moves l_ z_ (State.svPublish s l p x) := by
  refine h_.step ?_ hl_
  clear h_ hl_
  have h_ := Moves.refl [.sv] s
  unfold State.svPublish
  repeat' (first
    | with_reducible assumption
    | exact (rfl : _ = true)
    | with_reducible apply State.setLine_moves)

end Sys2Proof.Machine
end

