-- ==== Sys2Proof/Laws/GraphOpsMoves.lean ====
section
/-! SUPPORT. What the operations of Machine/GraphOps.lean may touch. -/

set_option Elab.async false
set_option linter.unusedTactic false
set_option linter.unreachableTactic false

namespace Sys2Proof.Machine

theorem State.obsUpd_moves {l_ : List Part} {z_ : State} {s : State} {g : ObsWin → ObsWin} (h_ : Moves l_ z_ s) (hl_ : Part.sub [.gd] l_ = true) :
    Moves l_ z_ (State.obsUpd s g) := by
  refine h_.step ?_ hl_
  clear h_ hl_
  have h_ := Moves.refl [.gd] s
  unfold State.obsUpd
  repeat' (first
    | with_reducible assumption
    | exact (rfl : _ = true)
    | with_reducible apply Moves.gd)

theorem State.showTimers_moves {l_ : List Part} {z_ : State} {s : State} (h_ : Moves l_ z_ s) (hl_ : Part.sub [.regs, .gd] l_ = true) :
    Moves l_ z_ (State.showTimers s) := by
  refine h_.step ?_ hl_
  clear h_ hl_
  have h_ := Moves.refl [.regs, .gd] s
  unfold State.showTimers
  repeat' (first
    | with_reducible assumption
    | exact (rfl : _ = true)
    | with_reducible apply State.obsUpd_moves
    | with_reducible apply State.setF_moves)

theorem State.dropTimers_moves {l_ : List Part} {z_ : State} {s : State} {gone : TimerRec → Bool} (h_ : Moves l_ z_ s) (hl_ : Part.sub [.regs, .gd] l_ = true) :
    Moves l_ z_ (State.dropTimers s gone) := by
  refine h_.step ?_ hl_
  clear h_ hl_
  have h_ := Moves.refl [.regs, .gd] s
  unfold State.dropTimers
  repeat' (first
    | with_reducible assumption
    | intro _
    | with_reducible apply Moves.ite
    | exact (rfl : _ = true)
    | with_reducible apply State.showTimers_moves
    | split
    | with_reducible apply Moves.gd)

theorem State.setFlow_moves {l_ : List Part} {z_ : State} {s : State} {f : ℕ} {l : List RelRec} (h_ : Moves l_ z_ s) (hl_ : Part.sub [.gd] l_ = true) :
    Moves l_ z_ (State.setFlow s f l) := by
  refine h_.step ?_ hl_
  clear h_ hl_
  have h_ := Moves.refl [.gd] s
  unfold State.setFlow
  repeat' (first
    | with_reducible assumption
    | exact (rfl : _ = true)
    | with_reducible apply Moves.gd)

theorem State.endWaits_moves {l_ : List Part} {z_ : State} {s : State}  (h_ : Moves l_ z_ s) (hl_ : Part.sub [.gd] l_ = true) :
    Moves l_ z_ (State.endWaits s ) := by
  refine h_.step ?_ hl_
  clear h_ hl_
  have h_ := Moves.refl [.gd] s
  unfold State.endWaits
  repeat' (first
    | with_reducible assumption
    | intro _
    | with_reducible apply Moves.ite
    | exact (rfl : _ = true)
    | split
    | with_reducible apply Moves.gd)

theorem State.addTimer_moves {l_ : List Part} {z_ : State} {s : State} {prio : ℕ} {e : ℕ} {kind : TimerKind} {owner : ℕ} {ref : Option EntryRef} {r : ℕ} (h_ : Moves l_ z_ s) (hl_ : Part.sub [.regs, .gd] l_ = true) :
    Moves l_ z_ (State.addTimer s prio e kind owner ref r) := by
  refine h_.step ?_ hl_
  clear h_ hl_
  have h_ := Moves.refl [.regs, .gd] s
  unfold State.addTimer
  repeat' (first
    | with_reducible assumption
    | intro _
    | exact (rfl : _ = true)
    | with_reducible apply State.showTimers_moves
    | with_reducible apply Moves.gd)

theorem State.stopGen_moves {l_ : List Part} {z_ : State} {s : State} {g : ℕ} {status : optParam ℕ St.aborted} (h_ : Moves l_ z_ s) (hl_ : Part.sub [.regs, .ebm, .bus, .qe, .bm, .xb, .fn, .mre, .gd, .pu, .out] l_ = true) :
    Moves l_ z_ (State.stopGen s g status) := by
  refine h_.step ?_ hl_
  clear h_ hl_
  have h_ := Moves.refl [.regs, .ebm, .bus, .qe, .bm, .xb, .fn, .mre, .gd, .pu, .out] s
  unfold State.stopGen
  repeat' (first
    | with_reducible assumption
    | intro _
    | with_reducible apply Moves.foldl
    | exact (rfl : _ = true)
    | with_reducible apply State.completeRefM_moves
    | with_reducible apply State.endClip_moves
    | with_reducible apply State.restGen_moves
    | with_reducible apply State.setGen_moves
    | with_reducible apply State.dropTimers_moves
    | split
    | with_reducible apply Moves.gd)

theorem State.setNext_moves {l_ : List Part} {z_ : State} {s : State} {n : ℕ} {p : ℕ} (h_ : Moves l_ z_ s) (hl_ : Part.sub [.gd] l_ = true) :
    Moves l_ z_ (State.setNext s n p) := by
  refine h_.step ?_ hl_
  clear h_ hl_
  have h_ := Moves.refl [.gd] s
  unfold State.setNext
  repeat' (first
    | with_reducible assumption
    | exact (rfl : _ = true)
    | with_reducible apply Moves.gd)

theorem State.tonePass_moves {l_ : List Part} {z_ : State} {s : State} {g : ℕ} {p : ℕ} {t : ToneParams} {trig : Bool} (h_ : Moves l_ z_ s) (hl_ : Part.sub [.regs, .mre] l_ = true) :
    Moves l_ z_ (State.tonePass s g p t trig) := by
  refine h_.step ?_ hl_
  clear h_ hl_
  have h_ := Moves.refl [.regs, .mre] s
  unfold State.tonePass
  repeat' (first
    | with_reducible assumption
    | intro _
    | exact (rfl : _ = true)
    | with_reducible apply State.setGen_moves)

theorem State.clipStep_moves {l_ : List Part} {z_ : State} {s : State} {g : Nat} {p : Nat} (h_ : Moves l_ z_ s) (hl_ : Part.sub [.regs, .ebm, .bus, .qe, .bm, .xb, .fn, .mre, .gd, .pu, .out] l_ = true) :
    Moves l_ z_ (State.clipStep s g p) := by
  refine h_.step ?_ hl_
  clear h_ hl_
  have h_ := Moves.refl [.regs, .ebm, .bus, .qe, .bm, .xb, .fn, .mre, .gd, .pu, .out] s
  unfold State.clipStep
  repeat' (first
    | with_reducible assumption
    | intro _
    | with_reducible apply Moves.ite
    | with_reducible apply Moves.foldl
    | exact (rfl : _ = true)
    | with_reducible apply State.bump_moves
    | with_reducible apply State.endClip_moves
    | with_reducible apply State.restGen_moves
    | with_reducible apply State.setGen_moves
    | with_reducible apply State.stopGen_moves
    | split
    | with_reducible apply Moves.out)

theorem State.decideClip_moves {l_ : List Part} {z_ : State} {s : State} {g : Nat} {p : Nat} (h_ : Moves l_ z_ s) (hl_ : Part.sub [.mre] l_ = true) :
    Moves l_ z_ (State.decideClip s g p).1 := by
  refine h_.step ?_ hl_
  clear h_ hl_
  have h_ := Moves.refl [.mre] s
  unfold State.decideClip
  repeat' (first
    | with_reducible assumption
    | exact (rfl : _ = true)
    | split
    | with_reducible apply Moves.mre)

theorem State.genMark_moves {l_ : List Part} {z_ : State} {s : State} {p : ℕ} (h_ : Moves l_ z_ s) (hl_ : Part.sub [.regs, .ebm, .bus, .qe, .bm, .xb, .fn, .mre, .gd, .pu, .out] l_ = true) :
    Moves l_ z_ (State.genMark s p).1 := by
  refine h_.step ?_ hl_
  clear h_ hl_
  have h_ := Moves.refl [.regs, .ebm, .bus, .qe, .bm, .xb, .fn, .mre, .gd, .pu, .out] s
  unfold State.genMark
  dsimp only
  repeat' (first
    | with_reducible assumption
    | (extract_lets -underBinder +onlyGivenNames x_; first | (refine (fun hx_ : Moves [.regs, .ebm, .bus, .qe, .bm, .xb, .fn, .mre, .gd, .pu, .out] s x_ => ?_) ?_; (on_goal 1 => (clear_value x_; revert hx_; revert x_; intro _ _)); (on_goal 2 => subst x_)) | subst x_)
    | intro _
    | refine Moves.of_fst ?_ (by assumption)
    | with_reducible apply Moves.foldl
    | with_reducible apply Moves.foldl_fst
    | exact (rfl : _ = true)
    | with_reducible apply State.clipStep_moves
    | with_reducible apply State.decideClip_moves
    | with_reducible apply State.stopGen_moves
    | with_reducible apply State.tonePass_moves
    | split)

theorem State.obsPrio_moves {l_ : List Part} {z_ : State} {s : State} {q : ℕ} {g : ObsPrio → ObsPrio} (h_ : Moves l_ z_ s) (hl_ : Part.sub [.gd] l_ = true) :
    Moves l_ z_ (State.obsPrio s q g) := by
  refine h_.step ?_ hl_
  clear h_ hl_
  have h_ := Moves.refl [.gd] s
  unfold State.obsPrio
  repeat' (first
    | with_reducible assumption
    | exact (rfl : _ = true)
    | with_reducible apply State.obsUpd_moves)

theorem State.showQ_moves {l_ : List Part} {z_ : State} {s : State} {q : ℕ} (h_ : Moves l_ z_ s) (hl_ : Part.sub [.regs, .gd] l_ = true) :
    Moves l_ z_ (State.showQ s q) := by
  refine h_.step ?_ hl_
  clear h_ hl_
  have h_ := Moves.refl [.regs, .gd] s
  unfold State.showQ
  repeat' (first
    | with_reducible assumption
    | exact (rfl : _ = true)
    | with_reducible apply State.obsPrio_moves
    | with_reducible apply State.setF_moves)

theorem State.enqueue_moves {l_ : List Part} {z_ : State} {s : State} {n : ℕ} {p : ℕ} {q : ℕ} (h_ : Moves l_ z_ s) (hl_ : Part.sub [.regs, .gd] l_ = true) :
    Moves l_ z_ (State.enqueue s n p q) := by
  refine h_.step ?_ hl_
  clear h_ hl_
  have h_ := Moves.refl [.regs, .gd] s
  unfold State.enqueue
  repeat' (first
    | with_reducible assumption
    | intro _
    | exact (rfl : _ = true)
    | with_reducible apply State.showQ_moves
    | with_reducible apply Moves.gd)

theorem State.createOp_moves {l_ : List Part} {z_ : State} {s : State} {n : ℕ} {nd : Node} (h_ : Moves l_ z_ s) (hl_ : Part.sub [.regs, .gd] l_ = true) :
    Moves l_ z_ (State.createOp s n nd) := by
  refine h_.step ?_ hl_
  clear h_ hl_
  have h_ := Moves.refl [.regs, .gd] s
  unfold State.createOp
  repeat' (first
    | with_reducible assumption
    | intro _
    | with_reducible apply Moves.ite
    | exact (rfl : _ = true)
    | with_reducible apply State.bump_moves
    | with_reducible apply State.enqueue_moves
    | with_reducible apply State.obsPrio_moves
    | with_reducible apply State.showQ_moves
    | with_reducible apply Moves.gd)

theorem State.offer_moves {l_ : List Part} {z_ : State} {s : State} {l : List (ℕ × Node)} (h_ : Moves l_ z_ s) (hl_ : Part.sub [.regs, .gd] l_ = true) :
    Moves l_ z_ (State.offer s l) := by
  refine h_.step ?_ hl_
  clear h_ hl_
  have h_ := Moves.refl [.regs, .gd] s
  unfold State.offer
  repeat' (first
    | with_reducible assumption
    | intro _
    | with_reducible apply Moves.ite
    | with_reducible apply Moves.foldl
    | exact (rfl : _ = true)
    | with_reducible apply State.createOp_moves)

theorem State.holdNotice_moves {l_ : List Part} {z_ : State} {s : State} {q : ℕ} {v : Notice} (h_ : Moves l_ z_ s) (hl_ : Part.sub [.regs, .gd] l_ = true) :
    Moves l_ z_ (State.holdNotice s q v) := by
  refine h_.step ?_ hl_
  clear h_ hl_
  have h_ := Moves.refl [.regs, .gd] s
  unfold State.holdNotice
  repeat' (first
    | with_reducible assumption
    | intro _
    | with_reducible apply Moves.ite
    | exact (rfl : _ = true)
    | with_reducible apply State.bump_moves
    | with_reducible apply State.obsPrio_moves
    | with_reducible apply State.showQ_moves
    | with_reducible apply Moves.gd)

theorem State.blockNotice_moves {l_ : List Part} {z_ : State} {s : State} {h : ℕ} (h_ : Moves l_ z_ s) (hl_ : Part.sub [.regs, .gd] l_ = true) :
    Moves l_ z_ (State.blockNotice s h) := by
  refine h_.step ?_ hl_
  clear h_ hl_
  have h_ := Moves.refl [.regs, .gd] s
  unfold State.blockNotice
  repeat' (first
    | with_reducible assumption
    | intro _
    | with_reducible apply Moves.ite
    | with_reducible apply Moves.foldl
    | exact (rfl : _ = true)
    | with_reducible apply State.createOp_moves
    | with_reducible apply State.holdNotice_moves)

theorem State.sinkWrite_moves {l_ : List Part} {z_ : State} {s : State} {ep : EpRef} {p : ℕ} {b : List Byte} (h_ : Moves l_ z_ s) (hl_ : Part.sub [.ebm, .mre] l_ = true) :
    Moves l_ z_ (State.sinkWrite s ep p b) := by
  refine h_.step ?_ hl_
  clear h_ hl_
  have h_ := Moves.refl [.ebm, .mre] s
  unfold State.sinkWrite
  repeat' (first
    | with_reducible assumption
    | intro _
    | exact (rfl : _ = true)
    | with_reducible apply State.setCf_moves
    | with_reducible apply State.writeGroupHalf_moves
    | with_reducible apply State.writeHalf_moves
    | split
    | with_reducible apply Moves.mre)

theorem State.setRun_moves {l_ : List Part} {z_ : State} {s : State} {g : ℕ} {r : Option RunRec} (h_ : Moves l_ z_ s) (hl_ : Part.sub [.gd] l_ = true) :
    Moves l_ z_ (State.setRun s g r) := by
  refine h_.step ?_ hl_
  clear h_ hl_
  have h_ := Moves.refl [.gd] s
  unfold State.setRun
  repeat' (first
    | with_reducible assumption
    | exact (rfl : _ = true)
    | with_reducible apply Moves.gd)

theorem State.showRelease_moves {l_ : List Part} {z_ : State} {s : State} (h_ : Moves l_ z_ s) (hl_ : Part.sub [.regs, .gd] l_ = true) :
    Moves l_ z_ (State.showRelease s) := by
  refine h_.step ?_ hl_
  clear h_ hl_
  have h_ := Moves.refl [.regs, .gd] s
  unfold State.showRelease
  repeat' (first
    | with_reducible assumption
    | exact (rfl : _ = true)
    | with_reducible apply State.high_moves
    | with_reducible apply State.obsUpd_moves
    | with_reducible apply State.setB_moves
    | with_reducible apply State.setF_moves)

theorem State.dispatch_moves {l_ : List Part} {z_ : State} {s : State} {g : ℕ} {o : OpRec} (h_ : Moves l_ z_ s) (hl_ : Part.sub [.regs, .gd] l_ = true) :
    Moves l_ z_ (State.dispatch s g o) := by
  refine h_.step ?_ hl_
  clear h_ hl_
  have h_ := Moves.refl [.regs, .gd] s
  unfold State.dispatch
  repeat' (first
    | with_reducible assumption
    | exact (rfl : _ = true)
    | with_reducible apply State.bump_moves
    | with_reducible apply State.obsPrio_moves
    | with_reducible apply State.obsUpd_moves
    | with_reducible apply State.setFlow_moves
    | with_reducible apply State.setRun_moves
    | with_reducible apply State.showQ_moves
    | with_reducible apply State.showRelease_moves
    | split
    | with_reducible apply Moves.gd)

theorem State.claimRound_moves {l_ : List Part} {z_ : State} {s : State} {idle : List ℕ} (h_ : Moves l_ z_ s) (hl_ : Part.sub [.regs, .gd] l_ = true) :
    Moves l_ z_ (State.claimRound s idle).1 := by
  refine h_.step ?_ hl_
  clear h_ hl_
  have h_ := Moves.refl [.regs, .gd] s
  unfold State.claimRound
  repeat' (first
    | with_reducible assumption
    | intro _
    | with_reducible apply Moves.ite
    | with_reducible apply Moves.foldl
    | exact (rfl : _ = true)
    | with_reducible apply State.dispatch_moves)

theorem State.claimRounds_moves {l_ : List Part} {z_ : State} {s : State} {idle : List ℕ} {n : ℕ} (h_ : Moves l_ z_ s)
    (hl_ : Part.sub [.regs, .gd] l_ = true) : Moves l_ z_ (State.claimRounds s idle n) := by
  induction n generalizing s idle with
  | zero => exact h_
  | succ n ih =>
    unfold State.claimRounds
    exact Moves.ite (fun _ => h_) (fun _ => ih (State.claimRound_moves h_ hl_))

theorem State.countFilled_moves {l_ : List Part} {z_ : State} {s : State} {g : ℕ} (h_ : Moves l_ z_ s) (hl_ : Part.sub [.mre] l_ = true) :
    Moves l_ z_ (State.countFilled s g) := by
  refine h_.step ?_ hl_
  clear h_ hl_
  have h_ := Moves.refl [.mre] s
  unfold State.countFilled
  repeat' (first
    | with_reducible assumption
    | exact (rfl : _ = true)
    | with_reducible apply State.setGen_moves)

theorem State.clipNotice_moves {l_ : List Part} {z_ : State} {s : State} {g : ℕ} (h_ : Moves l_ z_ s) (hl_ : Part.sub [.regs, .mre, .gd] l_ = true) :
    Moves l_ z_ (State.clipNotice s g) := by
  refine h_.step ?_ hl_
  clear h_ hl_
  have h_ := Moves.refl [.regs, .mre, .gd] s
  unfold State.clipNotice
  repeat' (first
    | with_reducible assumption
    | intro _
    | with_reducible apply Moves.ite
    | exact (rfl : _ = true)
    | with_reducible apply State.countFilled_moves
    | with_reducible apply State.holdNotice_moves)

theorem State.holdTimers_moves {l_ : List Part} {z_ : State} {s : State} {all : Bool} (h_ : Moves l_ z_ s) (hl_ : Part.sub [.gd] l_ = true) :
    Moves l_ z_ (State.holdTimers s all) := by
  refine h_.step ?_ hl_
  clear h_ hl_
  have h_ := Moves.refl [.gd] s
  unfold State.holdTimers
  repeat' (first
    | with_reducible assumption
    | intro _
    | with_reducible apply Moves.ite
    | exact (rfl : _ = true)
    | split
    | with_reducible apply Moves.gd)

theorem State.fireTimer_moves {l_ : List Part} {z_ : State} {s : State} {seq : ℕ} {kind : TimerKind} {r_ : State × TimerRec} (h_ : Moves l_ z_ s) (hl_ : Part.sub [.time, .regs, .gd] l_ = true) (e_ : State.fireTimer s seq kind = some r_) :
    Moves l_ z_ r_.1 := by
  refine h_.step ?_ hl_
  clear h_ hl_
  have h_ := Moves.refl [.time, .regs, .gd] s
  unfold State.fireTimer at e_
  try dsimp only at e_
  repeat' (first
    | (injection e_ with e_; subst e_)
    | (cases e_; done)
    | split at e_)
  all_goals try dsimp only
  repeat' (first
    | (injection e_ with e_; subst e_)
    | split at e_
    | with_reducible assumption
    | intro _
    | exact (rfl : _ = true)
    | with_reducible apply Moves.ite
    | with_reducible apply State.advanceTo_moves
    | with_reducible apply State.bump_moves
    | with_reducible apply State.obsUpd_moves
    | with_reducible apply State.showTimers_moves
    | with_reducible apply State.when_moves
    | with_reducible apply Moves.gd)

theorem State.playable_moves {l_ : List Part} {z_ : State} {s : State} {t : TimerRec} (h_ : Moves l_ z_ s) (hl_ : Part.sub [.mre] l_ = true) :
    Moves l_ z_ (State.playable s t) := by
  refine h_.step ?_ hl_
  clear h_ hl_
  have h_ := Moves.refl [.mre] s
  unfold State.playable
  repeat' (first
    | with_reducible assumption
    | intro _
    | with_reducible apply Moves.ite
    | exact (rfl : _ = true)
    | with_reducible apply State.setGen_moves
    | split)

theorem State.countMissing_moves {l_ : List Part} {z_ : State} {s : State} {ep : EpRef} {p : ℕ} (h_ : Moves l_ z_ s) (hl_ : Part.sub [.ebm, .mre] l_ = true) :
    Moves l_ z_ (State.countMissing s ep p) := by
  refine h_.step ?_ hl_
  clear h_ hl_
  have h_ := Moves.refl [.ebm, .mre] s
  unfold State.countMissing
  repeat' (first
    | with_reducible assumption
    | exact (rfl : _ = true)
    | with_reducible apply State.bumpCf_moves
    | split
    | with_reducible apply Moves.mre)

theorem State.runSource_moves {l_ : List Part} {z_ : State} {s : State} {p : ℕ} {ep : EpRef} {offset : ℕ} {rate8k : Bool} {fb : ℕ} {fbit : ℕ} {hold : Bool} {holdMax : ℕ} {st : NodeSt} (h_ : Moves l_ z_ s) (hl_ : Part.sub [.regs, .ebm, .mre] l_ = true) :
    Moves l_ z_ (State.runSource s p ep offset rate8k fb fbit hold holdMax st).1 := by
  refine h_.step ?_ hl_
  clear h_ hl_
  have h_ := Moves.refl [.regs, .ebm, .mre] s
  unfold State.runSource
  repeat' (first
    | with_reducible assumption
    | (extract_lets -underBinder +onlyGivenNames x_; first | (refine (fun hx_ : Moves [.regs, .ebm, .mre] s x_ => ?_) ?_; (on_goal 1 => (clear_value x_; revert hx_; revert x_; intro _ _)); (on_goal 2 => subst x_)) | subst x_)
    | intro _
    | exact (rfl : _ = true)
    | with_reducible apply State.bump_moves
    | with_reducible apply State.countMissing_moves
    | with_reducible apply State.setCf_moves
    | split)

theorem State.lineWrite_moves {l_ : List Part} {z_ : State} {s : State} {base : ℕ} {i : ℕ} {x : ℤ} (h_ : Moves l_ z_ s) (hl_ : Part.sub [.ebm] l_ = true) :
    Moves l_ z_ (State.lineWrite s base i x) := by
  refine h_.step ?_ hl_
  clear h_ hl_
  have h_ := Moves.refl [.ebm] s
  unfold State.lineWrite
  repeat' (first
    | with_reducible assumption
    | intro _
    | with_reducible apply Moves.ite
    | exact (rfl : _ = true)
    | with_reducible apply State.ebmWrite_moves
    | with_reducible apply Moves.ebm)

theorem State.runDelay_moves {l_ : List Part} {z_ : State} {s : State} {base : ℕ} {line : ℕ} {d : ℕ} {st : NodeSt} {x : Stream} (h_ : Moves l_ z_ s) (hl_ : Part.sub [.regs, .ebm] l_ = true) :
    Moves l_ z_ (State.runDelay s base line d st x).1 := by
  refine h_.step ?_ hl_
  clear h_ hl_
  have h_ := Moves.refl [.regs, .ebm] s
  unfold State.runDelay
  repeat' (first
    | with_reducible assumption
    | intro _
    | with_reducible apply Moves.ite
    | with_reducible apply Moves.foldl_fst
    | exact (rfl : _ = true)
    | with_reducible apply State.bump_moves
    | with_reducible apply State.lineWrite_moves)

theorem State.runNode_moves {l_ : List Part} {z_ : State} {s : State} {p : ℕ} {nd : Node} {xs : List Stream} {st : NodeSt} (h_ : Moves l_ z_ s) (hl_ : Part.sub [.regs, .ebm, .mre] l_ = true) :
    Moves l_ z_ (State.runNode s p nd xs st).1 := by
  refine h_.step ?_ hl_
  clear h_ hl_
  have h_ := Moves.refl [.regs, .ebm, .mre] s
  unfold State.runNode
  repeat' (first
    | with_reducible assumption
    | intro _
    | exact (rfl : _ = true)
    | with_reducible apply State.runDelay_moves
    | with_reducible apply State.runSource_moves
    | split)

theorem State.tapRecord_moves {l_ : List Part} {z_ : State} {s : State} {t : ℕ} {p : ℕ} {b : List Byte} (h_ : Moves l_ z_ s) (hl_ : Part.sub [.mre] l_ = true) :
    Moves l_ z_ (State.tapRecord s t p b) := by
  refine h_.step ?_ hl_
  clear h_ hl_
  have h_ := Moves.refl [.mre] s
  unfold State.tapRecord
  repeat' (first
    | with_reducible assumption
    | exact (rfl : _ = true)
    | with_reducible apply Moves.mre)

theorem State.oldEffect_moves {l_ : List Part} {z_ : State} {s : State} {p : Nat} {nd : Node} (h_ : Moves l_ z_ s) (hl_ : Part.sub [.mre, .gd, .sv] l_ = true) :
    Moves l_ z_ (State.oldEffect s p nd) := by
  refine h_.step ?_ hl_
  clear h_ hl_
  have h_ := Moves.refl [.mre, .gd, .sv] s
  unfold State.oldEffect
  repeat' (first
    | with_reducible assumption
    | intro _
    | with_reducible apply Moves.ite
    | exact (rfl : _ = true)
    | with_reducible apply State.obsUpd_moves
    | with_reducible apply State.svQuiet_moves
    | with_reducible apply State.tapRecord_moves
    | split)

theorem State.faultNode_moves {l_ : List Part} {z_ : State} {s : State} {n : ℕ} (h_ : Moves l_ z_ s) (hl_ : Part.sub [.regs, .mre] l_ = true) :
    Moves l_ z_ (State.faultNode s n) := by
  refine h_.step ?_ hl_
  clear h_ hl_
  have h_ := Moves.refl [.regs, .mre] s
  unfold State.faultNode
  repeat' (first
    | with_reducible assumption
    | intro _
    | with_reducible apply Moves.ite
    | exact (rfl : _ = true)
    | with_reducible apply State.setF_moves
    | split
    | with_reducible apply Moves.mre)

theorem State.graphHits_moves {l_ : List Part} {z_ : State} {s : State} {n : ℕ} {live : Bool} {st : NodeSt} {xs : List Stream} {hits : List EccHit} (h_ : Moves l_ z_ s) (hl_ : Part.sub [.regs, .fn, .mre, .free, .out] l_ = true) :
    Moves l_ z_ (State.graphHits s n live st xs hits).1 := by
  refine h_.step ?_ hl_
  clear h_ hl_
  have h_ := Moves.refl [.regs, .fn, .mre, .free, .out] s
  unfold State.graphHits
  repeat' (first
    | with_reducible assumption
    | (extract_lets -underBinder +onlyGivenNames x_; first | (refine (fun hx_ : Moves [.regs, .fn, .mre, .free, .out] s x_ => ?_) ?_; (on_goal 1 => (clear_value x_; revert hx_; revert x_; intro _ _)); (on_goal 2 => subst x_)) | subst x_)
    | intro _
    | with_reducible apply Moves.foldl_fst
    | exact (rfl : _ = true)
    | with_reducible apply State.bump_moves
    | with_reducible apply State.captureError_moves
    | with_reducible apply State.faultNode_moves
    | with_reducible apply State.fresh_moves
    | with_reducible apply State.setF_moves
    | split
    | with_reducible apply Moves.mre)

theorem State.completeOld_moves {l_ : List Part} {z_ : State} {s : State} {n : Nat} {p : Nat} {o : OldRun} {hits : List EccHit} (h_ : Moves l_ z_ s) (hl_ : Part.sub [.regs, .ebm, .fn, .mre, .gd, .sv, .free, .out] l_ = true) :
    Moves l_ z_ (State.completeOld s n p o hits) := by
  refine h_.step ?_ hl_
  clear h_ hl_
  have h_ := Moves.refl [.regs, .ebm, .fn, .mre, .gd, .sv, .free, .out] s
  unfold State.completeOld
  extract_lets st
  clear_value st
  have h1 := State.graphHits_moves (n := n) (live := false) (st := st) (xs := o.ins) (hits := hits) h_ rfl
  generalize s.graphHits n false st o.ins hits = r at h1 ⊢
  obtain ⟨s1, st1, xs⟩ := r
  have h2 := State.oldEffect_moves (p := p) (nd := o.rec_) h1 rfl
  dsimp only at h2 ⊢
  generalize s1.oldEffect p o.rec_ = s2 at h2 ⊢
  split
  · exact h2
  · rename_i m _
    have h3 := State.runNode_moves (p := p) (nd := o.rec_) (xs := xs) (st := st1) h2 rfl
    generalize s2.runNode p o.rec_ xs st1 = q at h3 ⊢
    obtain ⟨s3, w⟩ := q
    dsimp only at h3 ⊢
    have h4 (y : NodeSt) : Moves [.regs, .ebm, .fn, .mre, .gd, .sv, .free, .out] s (((s3.setNodeSt m y).when w.sat (fun s => s.bump Reg.MRE_SATURATIONS_COUNT))) :=
      State.when_moves (State.setNodeSt_moves h3 rfl) (fun t ht => State.bump_moves ht rfl)
    split
    · exact State.offer_moves (Moves.gd (h4 _) rfl _) rfl
    · exact Moves.gd (h4 _) rfl _

theorem State.queueHit_moves {l_ : List Part} {z_ : State} {s : State} {n : Nat} {live : Bool} {addr : Nat} (h_ : Moves l_ z_ s) (hl_ : Part.sub [.regs, .fn, .mre, .out] l_ = true) :
    Moves l_ z_ (State.queueHit s n live addr) := by
  refine h_.step ?_ hl_
  clear h_ hl_
  have h_ := Moves.refl [.regs, .fn, .mre, .out] s
  unfold State.queueHit
  repeat' (first
    | with_reducible assumption
    | intro _
    | with_reducible apply Moves.ite
    | exact (rfl : _ = true)
    | with_reducible apply State.bump_moves
    | with_reducible apply State.captureError_moves
    | with_reducible apply State.faultNode_moves
    | with_reducible apply State.when_moves
    | split)

theorem State.opHits_moves {l_ : List Part} {z_ : State} {s : State} {n : Nat} {live : Bool} {hits : List OpHit} (h_ : Moves l_ z_ s) (hl_ : Part.sub [.regs, .ts, .ebm, .bus, .qe, .bm, .xb, .fn, .mre, .out] l_ = true) :
    Moves l_ z_ (State.opHits s n live hits) := by
  refine h_.step ?_ hl_
  clear h_ hl_
  have h_ := Moves.refl [.regs, .ts, .ebm, .bus, .qe, .bm, .xb, .fn, .mre, .out] s
  unfold State.opHits
  repeat' (first
    | with_reducible assumption
    | intro _
    | with_reducible apply Moves.ite
    | with_reducible apply Moves.foldl
    | exact (rfl : _ = true)
    | with_reducible apply State.ebmHit_moves
    | with_reducible apply State.queueHit_moves
    | split)

theorem State.setStreams_moves {l_ : List Part} {z_ : State} {s : State} {n : ℕ} {l : List Stream} (h_ : Moves l_ z_ s) (hl_ : Part.sub [.mre] l_ = true) :
    Moves l_ z_ (State.setStreams s n l) := by
  refine h_.step ?_ hl_
  clear h_ hl_
  have h_ := Moves.refl [.mre] s
  unfold State.setStreams
  repeat' (first
    | with_reducible assumption
    | exact (rfl : _ = true)
    | with_reducible apply Moves.mre)

theorem State.sinkRelease_moves {l_ : List Part} {z_ : State} {s : State} {p : ℕ} {ep : EpRef} {chans : List SinkCh} {so : ℕ} {sb : List Byte} {xs : List Stream} (h_ : Moves l_ z_ s) (hl_ : Part.sub [.regs, .ebm, .mre, .sv] l_ = true) :
    Moves l_ z_ (State.sinkRelease s p ep chans so sb xs) := by
  refine h_.step ?_ hl_
  clear h_ hl_
  have h_ := Moves.refl [.regs, .ebm, .mre, .sv] s
  unfold State.sinkRelease
  repeat' (first
    | with_reducible assumption
    | intro _
    | refine Moves.of_fst ?_ (by assumption)
    | with_reducible apply Moves.foldl_fst
    | exact (rfl : _ = true)
    | with_reducible apply State.addPilot_moves
    | with_reducible apply State.sinkWrite_moves
    | split)

theorem State.effect_moves {l_ : List Part} {z_ : State} {s : State} {r : RelRec} (h_ : Moves l_ z_ s) (hl_ : Part.sub [.regs, .ebm, .mre, .gd, .sv] l_ = true) :
    Moves l_ z_ (State.effect s r) := by
  refine h_.step ?_ hl_
  clear h_ hl_
  have h_ := Moves.refl [.regs, .ebm, .mre, .gd, .sv] s
  unfold State.effect
  repeat' (first
    | with_reducible assumption
    | (extract_lets -underBinder +onlyGivenNames x_; first | (refine (fun hx_ : Moves [.regs, .ebm, .mre, .gd, .sv] s x_ => ?_) ?_; (on_goal 1 => (clear_value x_; revert hx_; revert x_; intro _ _)); (on_goal 2 => subst x_)) | (clear_value x_; revert x_; intro _))
    | intro _
    | exact (rfl : _ = true)
    | with_reducible apply State.obsUpd_moves
    | with_reducible apply State.setNodeSt_moves
    | with_reducible apply State.sinkRelease_moves
    | with_reducible apply State.svPass_moves
    | with_reducible apply State.tapRecord_moves
    | with_reducible apply State.svQuiet_moves
    | split
    | with_reducible apply Moves.mre)

theorem State.releaseFrom_moves {l_ : List Part} {z_ : State} {s : State} {f : ℕ} {a2_ : ℕ} (h_ : Moves l_ z_ s) (hl_ : Part.sub [.regs, .ebm, .mre, .gd, .sv] l_ = true) :
    Moves l_ z_ (State.releaseFrom s f a2_) := by
  refine h_.step ?_ hl_
  clear h_ hl_
  induction a2_ generalizing s with
  | zero => exact Moves.refl _ _
  | succ n_ ih_ =>
    have h_ := Moves.refl [.regs, .ebm, .mre, .gd, .sv] s
    unfold State.releaseFrom
    repeat' (first
      | with_reducible refine Moves.trans ?_ ih_
      | with_reducible assumption
      | exact (rfl : _ = true)
      | with_reducible apply State.effect_moves
      | with_reducible apply State.setFlow_moves
      | split)

theorem State.release_moves {l_ : List Part} {z_ : State} {s : State} {f : ℕ} (h_ : Moves l_ z_ s) (hl_ : Part.sub [.regs, .ebm, .mre, .gd, .sv] l_ = true) :
    Moves l_ z_ (State.release s f) := by
  refine h_.step ?_ hl_
  clear h_ hl_
  have h_ := Moves.refl [.regs, .ebm, .mre, .gd, .sv] s
  unfold State.release
  repeat' (first
    | with_reducible assumption
    | exact (rfl : _ = true)
    | with_reducible apply State.releaseFrom_moves
    | with_reducible apply State.showRelease_moves)

theorem State.completeOp_moves {l_ : List Part} {z_ : State} {s : State} {n : ℕ} {p : ℕ} {nd : Node} {hits : List EccHit} (h_ : Moves l_ z_ s) (hl_ : Part.sub [.regs, .ebm, .fn, .mre, .gd, .sv, .free, .out] l_ = true) :
    Moves l_ z_ (State.completeOp s n p nd hits).1 := by
  refine h_.step ?_ hl_
  clear h_ hl_
  have h_ := Moves.refl [.regs, .ebm, .fn, .mre, .gd, .sv, .free, .out] s
  unfold State.completeOp
  repeat' (first
    | with_reducible assumption
    | (extract_lets -underBinder +onlyGivenNames x_; (clear_value x_; revert x_; intro _))
    | intro _
    | refine Moves.of_fst ?_ (by assumption)
    | with_reducible apply Moves.foldl
    | with_reducible apply Moves.foldl_fst
    | exact (rfl : _ = true)
    | with_reducible apply State.bump_moves
    | with_reducible apply State.graphHits_moves
    | with_reducible apply State.obsUpd_moves
    | with_reducible apply State.offer_moves
    | with_reducible apply State.release_moves
    | with_reducible apply State.runNode_moves
    | with_reducible apply State.setFlow_moves
    | with_reducible apply State.setNext_moves
    | with_reducible apply State.setNodeSt_moves
    | with_reducible apply State.setStreams_moves
    | with_reducible apply State.tonePass_moves
    | with_reducible apply State.when_moves
    | with_reducible apply State.wake_moves
    | split
    | with_reducible apply Moves.gd)

theorem State.dispatchAll_moves {l_ : List Part} {z_ : State} {s : State} (h_ : Moves l_ z_ s) (hl_ : Part.sub [.regs, .gd] l_ = true) :
    Moves l_ z_ (State.dispatchAll s) := by
  refine h_.step ?_ hl_
  clear h_ hl_
  have h_ := Moves.refl [.regs, .gd] s
  unfold State.dispatchAll
  repeat' (first
    | with_reducible assumption
    | intro _
    | with_reducible apply Moves.ite
    | exact (rfl : _ = true)
    | with_reducible apply State.claimRounds_moves
    | with_reducible apply State.obsUpd_moves)

theorem State.sinkOverrun_moves {l_ : List Part} {z_ : State} {s : State} {p : ℕ} {ep : EpRef} {chans : List SinkCh} {so : ℕ} {sb : List Byte} (h_ : Moves l_ z_ s) (hl_ : Part.sub [.ebm, .mre] l_ = true) :
    Moves l_ z_ (State.sinkOverrun s p ep chans so sb) := by
  refine h_.step ?_ hl_
  clear h_ hl_
  have h_ := Moves.refl [.ebm, .mre] s
  unfold State.sinkOverrun
  repeat' (first
    | with_reducible assumption
    | intro _
    | exact (rfl : _ = true)
    | with_reducible apply State.sinkWrite_moves
    | split)

end Sys2Proof.Machine
end

