-- ==== Sys2Proof/Laws/FlagsMoves.lean ====
section
/-! SUPPORT. What the operations of Machine/Flags.lean may touch. -/

set_option Elab.async false
set_option linter.unusedTactic false
set_option linter.unreachableTactic false

namespace Sys2Proof.Machine

theorem State.writeReg_moves {l_ : List Part} {z_ : State} {s : State} {a : ℕ} {v : Word} (h_ : Moves l_ z_ s) (hl_ : Part.sub [.regs] l_ = true) :
    Moves l_ z_ (State.writeReg s a v) := by
  refine h_.step ?_ hl_
  clear h_ hl_
  have h_ := Moves.refl [.regs] s
  unfold State.writeReg
  repeat' (first
    | with_reducible assumption
    | exact (rfl : _ = true)
    | with_reducible apply State.setReg_moves
    | split)

theorem State.clearRc_moves {l_ : List Part} {z_ : State} {s : State} {a : ℕ} (h_ : Moves l_ z_ s) (hl_ : Part.sub [.regs] l_ = true) :
    Moves l_ z_ (State.clearRc s a) := by
  refine h_.step ?_ hl_
  clear h_ hl_
  have h_ := Moves.refl [.regs] s
  unfold State.clearRc
  repeat' (first
    | with_reducible assumption
    | intro _
    | exact (rfl : _ = true)
    | with_reducible apply State.setReg_moves
    | with_reducible apply State.setF_moves
    | with_reducible apply State.when_moves
    | split)

end Sys2Proof.Machine
end

