-- ==== Sys2Proof/Laws/LanesMoves.lean ====
section
/-! SUPPORT. What the operations of Machine/Lanes.lean may touch. -/

set_option Elab.async false
set_option linter.unusedTactic false
set_option linter.unreachableTactic false

namespace Sys2Proof.Machine

theorem State.pathChecked_moves {l_ : List Part} {z_ : State} {s : State} {t : Nat} {o : Nat} {z : Nat} {m : Nat} (h_ : Moves l_ z_ s) (hl_ : Part.sub [.lx] l_ = true) :
    Moves l_ z_ (State.pathChecked s t o z m) := by
  refine h_.step ?_ hl_
  clear h_ hl_
  have h_ := Moves.refl [.lx] s
  unfold State.pathChecked
  dsimp only
  repeat' (first
    | with_reducible assumption
    | intro _
    | with_reducible apply Moves.ite
    | exact (rfl : _ = true)
    | with_reducible apply State.preferOther_moves
    | with_reducible apply State.updTrunk_moves
    | split)

theorem State.peerChecked_moves {l_ : List Part} {z_ : State} {s : State} {t : Nat} {m : Nat} (h_ : Moves l_ z_ s) (hl_ : Part.sub [.lx] l_ = true) :
    Moves l_ z_ (State.peerChecked s t m) := by
  refine h_.step ?_ hl_
  clear h_ hl_
  have h_ := Moves.refl [.lx] s
  unfold State.peerChecked
  dsimp only
  repeat' (first
    | with_reducible assumption
    | intro _
    | with_reducible apply Moves.ite
    | exact (rfl : _ = true)
    | with_reducible apply State.pathChecked_moves
    | with_reducible apply State.updTrunk_moves
    | split)

theorem State.startTwill_moves {l_ : List Part} {z_ : State} {s : State} {t : ℕ} (h_ : Moves l_ z_ s) (hl_ : Part.sub [.regs, .lx, .ck, .out] l_ = true) :
    Moves l_ z_ (State.startTwill s t) := by
  refine h_.step ?_ hl_
  clear h_ hl_
  have h_ := Moves.refl [.regs, .lx, .ck, .out] s
  unfold State.startTwill
  repeat' (first
    | with_reducible assumption
    | intro _
    | with_reducible apply Moves.foldl
    | exact (rfl : _ = true)
    | with_reducible apply State.bump_moves
    | with_reducible apply State.preferOther_moves
    | with_reducible apply State.startTraining_moves
    | with_reducible apply State.updLane_moves
    | with_reducible apply State.updTrunk_moves)

theorem State.twillMark_moves {l_ : List Part} {z_ : State} {s : State}  (h_ : Moves l_ z_ s) (hl_ : Part.sub [.regs, .lx, .ck, .out] l_ = true) :
    Moves l_ z_ (State.twillMark s ) := by
  refine h_.step ?_ hl_
  clear h_ hl_
  have h_ := Moves.refl [.regs, .lx, .ck, .out] s
  unfold State.twillMark
  repeat' (first
    | with_reducible assumption
    | intro _
    | with_reducible apply Moves.ite
    | with_reducible apply Moves.foldl
    | exact (rfl : _ = true)
    | with_reducible apply State.startTwill_moves
    | with_reducible apply State.updTrunk_moves
    | split)

theorem State.endTwill_moves {l_ : List Part} {z_ : State} {s : State} {t : ℕ} (h_ : Moves l_ z_ s) (hl_ : Part.sub [.regs, .lx] l_ = true) :
    Moves l_ z_ (State.endTwill s t) := by
  refine h_.step ?_ hl_
  clear h_ hl_
  have h_ := Moves.refl [.regs, .lx] s
  unfold State.endTwill
  repeat' (first
    | with_reducible assumption
    | (extract_lets -underBinder +onlyGivenNames x_; (refine (fun hx_ : Moves [.regs, .lx] s x_ => ?_) ?_; (on_goal 1 => (clear_value x_; revert hx_; revert x_; intro _ _)); (on_goal 2 => subst x_)))
    | intro _
    | exact (rfl : _ = true)
    | with_reducible apply State.updTrunk_moves
    | split)

theorem State.placeRequest_moves {l_ : List Part} {z_ : State} {s : State} {n : Nat} {status : Nat} (h_ : Moves l_ z_ s) (hl_ : Part.sub [.lx, .free] l_ = true) :
    Moves l_ z_ (State.placeRequest s n status) := by
  refine h_.step ?_ hl_
  clear h_ hl_
  have h_ := Moves.refl [.lx, .free] s
  unfold State.placeRequest
  repeat' (first
    | with_reducible assumption
    | intro _
    | with_reducible apply Moves.ite
    | exact (rfl : _ = true)
    | with_reducible apply State.fresh_moves
    | with_reducible apply State.updLane_moves
    | split)

theorem State.noteReady_moves {l_ : List Part} {z_ : State} {s : State} {n : Nat} (h_ : Moves l_ z_ s) (hl_ : Part.sub [.lx] l_ = true) :
    Moves l_ z_ (State.noteReady s n) := by
  refine h_.step ?_ hl_
  clear h_ hl_
  have h_ := Moves.refl [.lx] s
  unfold State.noteReady
  repeat' (first
    | with_reducible assumption
    | intro _
    | with_reducible apply Moves.ite
    | exact (rfl : _ = true)
    | with_reducible apply State.updLane_moves
    | split)

theorem State.discardCrc_moves {l_ : List Part} {z_ : State} {s : State} {t : Nat} (h_ : Moves l_ z_ s) (hl_ : Part.sub [.regs, .tree] l_ = true) :
    Moves l_ z_ (State.discardCrc s t) := by
  refine h_.step ?_ hl_
  clear h_ hl_
  have h_ := Moves.refl [.regs, .tree] s
  unfold State.discardCrc
  repeat' (first
    | with_reducible assumption
    | intro _
    | with_reducible apply Moves.ite
    | exact (rfl : _ = true)
    | with_reducible apply State.bump_moves
    | with_reducible apply State.updPort_moves
    | split)

theorem State.markerDue_moves {l_ : List Part} {z_ : State} {s : State} {n : Nat} (h_ : Moves l_ z_ s) (hl_ : Part.sub [.lx, .free, .out] l_ = true) :
    Moves l_ z_ (State.markerDue s n) := by
  refine h_.step ?_ hl_
  clear h_ hl_
  have h_ := Moves.refl [.lx, .free, .out] s
  unfold State.markerDue
  repeat' (first
    | with_reducible assumption
    | intro _
    | with_reducible apply Moves.ite
    | with_reducible apply Moves.foldl
    | exact (rfl : _ = true)
    | with_reducible apply State.sendMarker_moves
    | split)

theorem State.alignmentComplete_moves {l_ : List Part} {z_ : State} {s : State} {t : ℕ} {skew : ℕ} (h_ : Moves l_ z_ s) (hl_ : Part.sub [.regs, .lx, .tree, .ts, .ebm, .bus, .qe, .bm, .xb, .fn, .mre, .pu, .ck, .out] l_ = true) :
    Moves l_ z_ (State.alignmentComplete s t skew) := by
  refine h_.step ?_ hl_
  clear h_ hl_
  have h_ := Moves.refl [.regs, .lx, .tree, .ts, .ebm, .bus, .qe, .bm, .xb, .fn, .mre, .pu, .ck, .out] s
  unfold State.alignmentComplete
  repeat' (first
    | with_reducible assumption
    | intro _
    | with_reducible apply Moves.ite
    | with_reducible apply Moves.foldl
    | exact (rfl : _ = true)
    | with_reducible apply State.endTwill_moves
    | with_reducible apply State.portDisable_moves
    | with_reducible apply State.setB_moves
    | with_reducible apply State.setF_moves
    | with_reducible apply State.setLane_moves
    | with_reducible apply State.updLane_moves
    | with_reducible apply State.updTrunk_moves)

theorem State.applyPreset_moves {l_ : List Part} {z_ : State} {s : State} {n : ℕ} {pre : ℕ} {main : ℕ} {post : ℕ} (h_ : Moves l_ z_ s) (hl_ : Part.sub [.regs, .lx] l_ = true) :
    Moves l_ z_ (State.applyPreset s n pre main post) := by
  refine h_.step ?_ hl_
  clear h_ hl_
  have h_ := Moves.refl [.regs, .lx] s
  unfold State.applyPreset
  repeat' (first
    | with_reducible assumption
    | intro _
    | with_reducible apply Moves.ite
    | exact (rfl : _ = true)
    | with_reducible apply State.setF_moves
    | with_reducible apply State.updLane_moves)

theorem State.applyTap_moves {l_ : List Part} {z_ : State} {s : State} {n : ℕ} {b : ℕ} {tap : ℕ} (h_ : Moves l_ z_ s) (hl_ : Part.sub [.regs, .lx] l_ = true) :
    Moves l_ z_ (State.applyTap s n b tap) := by
  refine h_.step ?_ hl_
  clear h_ hl_
  have h_ := Moves.refl [.regs, .lx] s
  unfold State.applyTap
  repeat' (first
    | with_reducible assumption
    | intro _
    | with_reducible apply Moves.ite
    | exact (rfl : _ = true)
    | with_reducible apply State.setF_moves
    | with_reducible apply State.updLane_moves)

theorem State.applyRequest_moves {l_ : List Part} {z_ : State} {s : State} {n : Nat} {req : Nat} (h_ : Moves l_ z_ s) (hl_ : Part.sub [.regs, .lx] l_ = true) :
    Moves l_ z_ (State.applyRequest s n req) := by
  refine h_.step ?_ hl_
  clear h_ hl_
  have h_ := Moves.refl [.regs, .lx] s
  unfold State.applyRequest
  repeat' (first
    | with_reducible assumption
    | intro _
    | with_reducible apply Moves.ite
    | exact (rfl : _ = true)
    | with_reducible apply State.applyPreset_moves
    | with_reducible apply State.applyTap_moves
    | split)

theorem State.auditBip_moves {l_ : List Part} {z_ : State} {s : State} {n : ℕ} (h_ : Moves l_ z_ s) (hl_ : Part.sub [.sv] l_ = true) :
    Moves l_ z_ (State.auditBip s n) := by
  refine h_.step ?_ hl_
  clear h_ hl_
  have h_ := Moves.refl [.sv] s
  unfold State.auditBip
  repeat' (first
    | with_reducible assumption
    | exact (rfl : _ = true)
    | with_reducible apply Moves.sv)

theorem State.trainStart_moves {l_ : List Part} {z_ : State} {s : State} {n : ℕ} (h_ : Moves l_ z_ s) (hl_ : Part.sub [.regs, .lx, .ck, .out] l_ = true) :
    Moves l_ z_ (State.trainStart s n) := by
  refine h_.step ?_ hl_
  clear h_ hl_
  have h_ := Moves.refl [.regs, .lx, .ck, .out] s
  unfold State.trainStart
  repeat' (first
    | with_reducible assumption
    | intro _
    | with_reducible apply Moves.ite
    | exact (rfl : _ = true)
    | with_reducible apply State.startTraining_moves
    | with_reducible apply State.updLane_moves)

theorem State.delineationLoss_moves {l_ : List Part} {z_ : State} {s : State} {x : DelinAt} (h_ : Moves l_ z_ s) (hl_ : Part.sub [.regs, .lx, .tree] l_ = true) :
    Moves l_ z_ (State.delineationLoss s x) := by
  refine h_.step ?_ hl_
  clear h_ hl_
  have h_ := Moves.refl [.regs, .lx, .tree] s
  unfold State.delineationLoss
  repeat' (first
    | with_reducible assumption
    | intro _
    | with_reducible apply Moves.ite
    | exact (rfl : _ = true)
    | with_reducible apply State.bump_moves
    | with_reducible apply State.discardCrc_moves
    | with_reducible apply State.updTrunk_moves
    | with_reducible apply State.when_moves
    | split)

theorem State.converged_moves {l_ : List Part} {z_ : State} {s : State} {n : Nat} {m : Margins} (h_ : Moves l_ z_ s) (hl_ : Part.sub [.lx, .out] l_ = true) :
    Moves l_ z_ (State.converged s n m) := by
  refine h_.step ?_ hl_
  clear h_ hl_
  have h_ := Moves.refl [.lx, .out] s
  unfold State.converged
  repeat' (first
    | with_reducible assumption
    | intro _
    | with_reducible apply Moves.ite
    | exact (rfl : _ = true)
    | with_reducible apply State.emit_moves
    | with_reducible apply State.noteReady_moves
    | with_reducible apply State.updLane_moves
    | split)

theorem State.enterAligning_moves {l_ : List Part} {z_ : State} {s : State} {n : Nat} (h_ : Moves l_ z_ s) (hl_ : Part.sub [.regs, .lx, .ck, .free, .out] l_ = true) :
    Moves l_ z_ (State.enterAligning s n) := by
  refine h_.step ?_ hl_
  clear h_ hl_
  have h_ := Moves.refl [.regs, .lx, .ck, .free, .out] s
  unfold State.enterAligning
  repeat' (first
    | with_reducible assumption
    | intro _
    | with_reducible apply Moves.ite
    | exact (rfl : _ = true)
    | with_reducible apply State.sendMarker_moves
    | with_reducible apply State.setLane_moves
    | with_reducible apply State.emit_moves
    | split)

theorem State.enterRetraining_moves {l_ : List Part} {z_ : State} {s : State} {n : Nat} (h_ : Moves l_ z_ s) (hl_ : Part.sub [.regs, .lx, .ck, .free, .out] l_ = true) :
    Moves l_ z_ (State.enterRetraining s n) := by
  refine h_.step ?_ hl_
  clear h_ hl_
  have h_ := Moves.refl [.regs, .lx, .ck, .free, .out] s
  unfold State.enterRetraining
  repeat' (first
    | with_reducible assumption
    | (extract_lets -underBinder +onlyGivenNames x_; first | (refine (fun hx_ : Moves [.regs, .lx, .ck, .free, .out] s x_ => ?_) ?_; (on_goal 1 => (clear_value x_; revert hx_; revert x_; intro _ _)); (on_goal 2 => subst x_)) | (clear_value x_; revert x_; intro _))
    | intro _
    | with_reducible apply Moves.ite
    | exact (rfl : _ = true)
    | with_reducible apply State.bump_moves
    | with_reducible apply State.emit_moves
    | with_reducible apply State.placeRequest_moves
    | with_reducible apply State.setB_moves
    | with_reducible apply State.setLane_moves
    | with_reducible apply State.updLane_moves
    | split)

theorem State.eyeOwn_moves {l_ : List Part} {z_ : State} {s : State} {n : ℕ} (h_ : Moves l_ z_ s) (hl_ : Part.sub [.regs, .lx] l_ = true) :
    Moves l_ z_ (State.eyeOwn s n) := by
  refine h_.step ?_ hl_
  clear h_ hl_
  have h_ := Moves.refl [.regs, .lx] s
  unfold State.eyeOwn
  repeat' (first
    | with_reducible assumption
    | intro _
    | with_reducible apply Moves.ite
    | exact (rfl : _ = true)
    | with_reducible apply State.setB_moves
    | with_reducible apply State.updLane_moves)

theorem State.eyeStart_moves {l_ : List Part} {z_ : State} {s : State} {n : ℕ} {v : Word} (h_ : Moves l_ z_ s) (hl_ : Part.sub [.regs, .lx] l_ = true) :
    Moves l_ z_ (State.eyeStart s n v) := by
  refine h_.step ?_ hl_
  clear h_ hl_
  have h_ := Moves.refl [.regs, .lx] s
  unfold State.eyeStart
  repeat' (first
    | with_reducible assumption
    | intro _
    | with_reducible apply Moves.ite
    | exact (rfl : _ = true)
    | with_reducible apply State.eyeOwn_moves
    | with_reducible apply State.setB_moves
    | with_reducible apply State.writeReg_moves
    | with_reducible apply State.updLane_moves)

theorem State.failTwill_moves {l_ : List Part} {z_ : State} {s : State} {t : ℕ} (h_ : Moves l_ z_ s) (hl_ : Part.sub [.regs, .lx, .tree, .ts, .ebm, .bus, .qe, .bm, .xb, .fn, .mre, .pu, .ck, .out] l_ = true) :
    Moves l_ z_ (State.failTwill s t) := by
  refine h_.step ?_ hl_
  clear h_ hl_
  have h_ := Moves.refl [.regs, .lx, .tree, .ts, .ebm, .bus, .qe, .bm, .xb, .fn, .mre, .pu, .ck, .out] s
  unfold State.failTwill
  repeat' (first
    | with_reducible assumption
    | intro _
    | with_reducible apply Moves.ite
    | exact (rfl : _ = true)
    | with_reducible apply State.portLinkLost_moves
    | with_reducible apply State.updTrunk_moves)

theorem State.fixSlot_moves {l_ : List Part} {z_ : State} {s : State} {t : ℕ} (h_ : Moves l_ z_ s) (hl_ : Part.sub [.lx] l_ = true) :
    Moves l_ z_ (State.fixSlot s t) := by
  refine h_.step ?_ hl_
  clear h_ hl_
  have h_ := Moves.refl [.lx] s
  unfold State.fixSlot
  repeat' (first
    | with_reducible assumption
    | intro _
    | with_reducible apply Moves.ite
    | exact (rfl : _ = true)
    | with_reducible apply State.updTrunk_moves
    | split)

theorem State.eyePoint_moves {l_ : List Part} {z_ : State} {s : State} {n : Nat} {count : Word} (h_ : Moves l_ z_ s) (hl_ : Part.sub [.regs, .lx] l_ = true) :
    Moves l_ z_ (State.eyePoint s n count) := by
  refine h_.step ?_ hl_
  clear h_ hl_
  have h_ := Moves.refl [.regs, .lx] s
  unfold State.eyePoint
  repeat' (first
    | with_reducible assumption
    | intro _
    | with_reducible apply Moves.ite
    | exact (rfl : _ = true)
    | with_reducible apply State.setB_moves
    | with_reducible apply State.setReg_moves
    | with_reducible apply State.updLane_moves
    | split)

theorem State.keepalive_moves {l_ : List Part} {z_ : State} {s : State} {t : Nat} (h_ : Moves l_ z_ s) (hl_ : Part.sub [.time, .lx, .free, .out] l_ = true) :
    Moves l_ z_ (State.keepalive s t) := by
  refine h_.step ?_ hl_
  clear h_ hl_
  have h_ := Moves.refl [.time, .lx, .free, .out] s
  unfold State.keepalive
  repeat' (first
    | with_reducible assumption
    | intro _
    | with_reducible apply Moves.ite
    | with_reducible apply Moves.foldl
    | exact (rfl : _ = true)
    | with_reducible apply State.advanceTo_moves
    | with_reducible apply State.lanesOn_moves
    | split)

theorem State.inject_moves {l_ : List Part} {z_ : State} {s : State} {n : Nat} {bits : Nat} (h_ : Moves l_ z_ s) (hl_ : Part.sub [.lx, .out] l_ = true) :
    Moves l_ z_ (State.inject s n bits) := by
  refine h_.step ?_ hl_
  clear h_ hl_
  have h_ := Moves.refl [.lx, .out] s
  unfold State.inject
  repeat' (first
    | with_reducible assumption
    | intro _
    | with_reducible apply Moves.ite
    | exact (rfl : _ = true)
    | with_reducible apply State.emit_moves
    | with_reducible apply State.updLane_moves
    | split)

theorem State.retrainReq_moves {l_ : List Part} {z_ : State} {s : State} {n : ℕ} (h_ : Moves l_ z_ s) (hl_ : Part.sub [.lx] l_ = true) :
    Moves l_ z_ (State.retrainReq s n) := by
  refine h_.step ?_ hl_
  clear h_ hl_
  have h_ := Moves.refl [.lx] s
  unfold State.retrainReq
  repeat' (first
    | with_reducible assumption
    | exact (rfl : _ = true)
    | with_reducible apply State.updLane_moves)

theorem State.laneEnable_moves {l_ : List Part} {z_ : State} {s : State} {n : ℕ} {v : Word} (h_ : Moves l_ z_ s) (hl_ : Part.sub [.regs, .lx, .ck, .out] l_ = true) :
    Moves l_ z_ (State.laneEnable s n v) := by
  refine h_.step ?_ hl_
  clear h_ hl_
  have h_ := Moves.refl [.regs, .lx, .ck, .out] s
  unfold State.laneEnable
  repeat' (first
    | with_reducible assumption
    | intro _
    | with_reducible apply Moves.ite
    | exact (rfl : _ = true)
    | with_reducible apply State.quietLane_moves
    | with_reducible apply State.retrainReq_moves
    | with_reducible apply State.setLane_moves
    | with_reducible apply State.trainStart_moves
    | with_reducible apply State.when_moves
    | with_reducible apply State.writeReg_moves)

theorem State.pathMarginUpdate_moves {l_ : List Part} {z_ : State} {s : State} {t : ℕ} (h_ : Moves l_ z_ s) (hl_ : Part.sub [.lx] l_ = true) :
    Moves l_ z_ (State.pathMarginUpdate s t) := by
  refine h_.step ?_ hl_
  clear h_ hl_
  have h_ := Moves.refl [.lx] s
  unfold State.pathMarginUpdate
  repeat' (first
    | with_reducible assumption
    | (extract_lets -underBinder +onlyGivenNames x_; first | (refine (fun hx_ : Moves [.lx] s x_ => ?_) ?_; (on_goal 1 => (clear_value x_; revert hx_; revert x_; intro _ _)); (on_goal 2 => subst x_)) | (clear_value x_; revert x_; intro _))
    | with_reducible apply Moves.foldl
    | intro _
    | exact (rfl : _ = true)
    | with_reducible apply State.updTrunk_moves
    | with_reducible apply State.pathChecked_moves
    | split)

theorem State.poorLane_moves {l_ : List Part} {z_ : State} {s : State} {t : ℕ} (h_ : Moves l_ z_ s) (hl_ : Part.sub [.regs, .lx] l_ = true) :
    Moves l_ z_ (State.poorLane s t) := by
  refine h_.step ?_ hl_
  clear h_ hl_
  have h_ := Moves.refl [.regs, .lx] s
  unfold State.poorLane
  repeat' (first
    | with_reducible assumption
    | intro _
    | exact (rfl : _ = true)
    | with_reducible apply State.fixSlot_moves
    | with_reducible apply State.updTrunk_moves
    | split)

theorem State.marginComplete_moves {l_ : List Part} {z_ : State} {s : State} {n : ℕ} {m : Margins} (h_ : Moves l_ z_ s) (hl_ : Part.sub [.regs, .lx] l_ = true) :
    Moves l_ z_ (State.marginComplete s n m) := by
  refine h_.step ?_ hl_
  clear h_ hl_
  have h_ := Moves.refl [.regs, .lx] s
  unfold State.marginComplete
  repeat' (first
    | with_reducible assumption
    | intro _
    | with_reducible apply Moves.ite
    | exact (rfl : _ = true)
    | with_reducible apply State.pathMarginUpdate_moves
    | with_reducible apply State.poorLane_moves
    | with_reducible apply State.setB_moves
    | with_reducible apply State.setF_moves
    | with_reducible apply State.setGrade_moves
    | with_reducible apply State.updLane_moves)

theorem State.marginStart_moves {l_ : List Part} {z_ : State} {s : State} {n : ℕ} (h_ : Moves l_ z_ s) (hl_ : Part.sub [.regs, .lx] l_ = true) :
    Moves l_ z_ (State.marginStart s n) := by
  refine h_.step ?_ hl_
  clear h_ hl_
  have h_ := Moves.refl [.regs, .lx] s
  unfold State.marginStart
  repeat' (first
    | with_reducible assumption
    | intro _
    | with_reducible apply Moves.ite
    | exact (rfl : _ = true)
    | with_reducible apply State.bump_moves
    | with_reducible apply State.setB_moves
    | with_reducible apply State.updLane_moves)

theorem State.markerReceived_moves {l_ : List Part} {z_ : State} {s : State} {n : ℕ} {m : Marker} (h_ : Moves l_ z_ s) (hl_ : Part.sub [.regs, .lx, .sv] l_ = true) :
    Moves l_ z_ (State.markerReceived s n m) := by
  refine h_.step ?_ hl_
  clear h_ hl_
  have h_ := Moves.refl [.regs, .lx, .sv] s
  unfold State.markerReceived
  repeat' (first
    | with_reducible assumption
    | intro _
    | with_reducible apply Moves.ite
    | exact (rfl : _ = true)
    | with_reducible apply State.auditBip_moves
    | with_reducible apply State.bump_moves
    | with_reducible apply State.setF_moves
    | with_reducible apply State.updLane_moves)

theorem State.quadCfg_moves {l_ : List Part} {z_ : State} {s : State} {q : ℕ} {v : Word} (h_ : Moves l_ z_ s) (hl_ : Part.sub [.regs, .lx, .tree, .ts, .ebm, .bus, .qe, .bm, .xb, .fn, .mre, .pu, .ck, .out] l_ = true) :
    Moves l_ z_ (State.quadCfg s q v) := by
  refine h_.step ?_ hl_
  clear h_ hl_
  have h_ := Moves.refl [.regs, .lx, .tree, .ts, .ebm, .bus, .qe, .bm, .xb, .fn, .mre, .pu, .ck, .out] s
  unfold State.quadCfg
  repeat' (first
    | with_reducible assumption
    | intro _
    | with_reducible apply Moves.ite
    | with_reducible apply Moves.foldl
    | exact (rfl : _ = true)
    | with_reducible apply State.setB_moves
    | with_reducible apply State.writeReg_moves
    | with_reducible apply State.portOff_moves
    | with_reducible apply State.setF_moves
    | with_reducible apply State.updTrunk_moves)

theorem State.tapHandshake_moves {l_ : List Part} {z_ : State} {s : State} {n : ℕ} {req : ℕ} {status : ℕ} (h_ : Moves l_ z_ s) (hl_ : Part.sub [.regs, .lx, .free] l_ = true) :
    Moves l_ z_ (State.tapHandshake s n req status) := by
  refine h_.step ?_ hl_
  clear h_ hl_
  have h_ := Moves.refl [.regs, .lx, .free] s
  unfold State.tapHandshake
  repeat' (first
    | with_reducible assumption
    | intro _
    | with_reducible apply Moves.ite
    | exact (rfl : _ = true)
    | with_reducible apply State.applyRequest_moves
    | with_reducible apply State.noteReady_moves
    | with_reducible apply State.placeRequest_moves)

theorem State.retrainReceived_moves {l_ : List Part} {z_ : State} {s : State} {n : ℕ} {raw : BitVec 64} (h_ : Moves l_ z_ s) (hl_ : Part.sub [.regs, .lx, .free, .out] l_ = true) :
    Moves l_ z_ (State.retrainReceived s n raw) := by
  refine h_.step ?_ hl_
  clear h_ hl_
  have h_ := Moves.refl [.regs, .lx, .free, .out] s
  unfold State.retrainReceived
  repeat' (first
    | with_reducible assumption
    | intro _
    | with_reducible apply Moves.ite
    | exact (rfl : _ = true)
    | with_reducible apply State.emit_moves
    | with_reducible apply State.fixSlot_moves
    | with_reducible apply State.updTrunk_moves
    | with_reducible apply State.applyRequest_moves
    | with_reducible apply State.placeRequest_moves
    | with_reducible apply State.updLane_moves
    | with_reducible apply State.when_moves
    | split)

theorem State.slotEnd_moves {l_ : List Part} {z_ : State} {s : State} {t : ℕ} (h_ : Moves l_ z_ s) (hl_ : Part.sub [.regs, .lx, .ck] l_ = true) :
    Moves l_ z_ (State.slotEnd s t) := by
  refine h_.step ?_ hl_
  clear h_ hl_
  have h_ := Moves.refl [.regs, .lx, .ck] s
  unfold State.slotEnd
  repeat' (first
    | with_reducible assumption
    | intro _
    | with_reducible apply Moves.foldl
    | exact (rfl : _ = true)
    | with_reducible apply State.setLane_moves
    | with_reducible apply State.updLane_moves
    | with_reducible apply State.updTrunk_moves
    | split)

theorem State.slotStart_moves {l_ : List Part} {z_ : State} {s : State} {t : ℕ} (h_ : Moves l_ z_ s) (hl_ : Part.sub [.regs, .lx, .ts, .ck, .free, .out] l_ = true) :
    Moves l_ z_ (State.slotStart s t) := by
  refine h_.step ?_ hl_
  clear h_ hl_
  have h_ := Moves.refl [.regs, .lx, .ts, .ck, .free, .out] s
  unfold State.slotStart
  repeat' (first
    | with_reducible assumption
    | intro _
    | with_reducible apply Moves.foldl
    | exact (rfl : _ = true)
    | with_reducible apply State.updTrunk_moves
    | with_reducible apply State.enterRetraining_moves
    | split
    | with_reducible apply Moves.ts)

theorem State.trainFail_moves {l_ : List Part} {z_ : State} {s : State} {n : ℕ} (h_ : Moves l_ z_ s) (hl_ : Part.sub [.regs, .lx, .tree, .ts, .ebm, .bus, .qe, .bm, .xb, .fn, .mre, .pu, .ck, .out] l_ = true) :
    Moves l_ z_ (State.trainFail s n) := by
  refine h_.step ?_ hl_
  clear h_ hl_
  have h_ := Moves.refl [.regs, .lx, .tree, .ts, .ebm, .bus, .qe, .bm, .xb, .fn, .mre, .pu, .ck, .out] s
  unfold State.trainFail
  repeat' (first
    | with_reducible assumption
    | intro _
    | with_reducible apply Moves.ite
    | exact (rfl : _ = true)
    | with_reducible apply State.bump_moves
    | with_reducible apply State.failTwill_moves
    | with_reducible apply State.portDisable_moves
    | with_reducible apply State.setLane_moves
    | with_reducible apply State.updLane_moves)

theorem State.trainHeaderReceived_moves {l_ : List Part} {z_ : State} {s : State} {n : ℕ} {raw : BitVec 64} {inv : Bool} (h_ : Moves l_ z_ s) (hl_ : Part.sub [.regs, .lx, .free, .out] l_ = true) :
    Moves l_ z_ (State.trainHeaderReceived s n raw inv) := by
  refine h_.step ?_ hl_
  clear h_ hl_
  have h_ := Moves.refl [.regs, .lx, .free, .out] s
  unfold State.trainHeaderReceived
  repeat' (first
    | with_reducible assumption
    | intro _
    | with_reducible apply Moves.ite
    | exact (rfl : _ = true)
    | with_reducible apply State.emit_moves
    | with_reducible apply State.setB_moves
    | with_reducible apply State.tapHandshake_moves)

theorem State.trainingComplete_moves {l_ : List Part} {z_ : State} {s : State} {n : ℕ} (h_ : Moves l_ z_ s) (hl_ : Part.sub [.regs, .lx, .tree, .ts, .ebm, .bus, .qe, .bm, .xb, .fn, .mre, .pu, .ck, .free, .out] l_ = true) :
    Moves l_ z_ (State.trainingComplete s n) := by
  refine h_.step ?_ hl_
  clear h_ hl_
  have h_ := Moves.refl [.regs, .lx, .tree, .ts, .ebm, .bus, .qe, .bm, .xb, .fn, .mre, .pu, .ck, .free, .out] s
  unfold State.trainingComplete
  repeat' (first
    | with_reducible assumption
    | (extract_lets -underBinder +onlyGivenNames x_; (clear_value x_; revert x_; intro _))
    | intro _
    | exact (rfl : _ = true)
    | with_reducible apply State.trainFail_moves
    | with_reducible apply State.enterAligning_moves
    | split)

theorem execAdaptationConverged_moves {t_ : State} {n : LaneId} {m : Margins} {s : State} (e_ : execAdaptationConverged n m s = .next t_) : Moves [.lx, .out] s t_ := by
  have h_ := Moves.refl [.lx, .out] s
  unfold execAdaptationConverged at e_
  injection e_ with e_
  subst e_
  repeat' (first
    | with_reducible assumption
    | intro _
    | with_reducible apply Moves.ite
    | exact (rfl : _ = true)
    | with_reducible apply State.converged_moves)

theorem execAdaptationFreeze_moves {t_ : State} {n : LaneId} {s : State} (e_ : execAdaptationFreeze n s = .next t_) : Moves [.regs] s t_ := by
  have h_ := Moves.refl [.regs] s
  unfold execAdaptationFreeze at e_
  injection e_ with e_
  subst e_
  repeat' (first
    | with_reducible assumption
    | intro _
    | with_reducible apply Moves.ite
    | exact (rfl : _ = true)
    | with_reducible apply State.bump_moves
    | with_reducible apply State.setB_moves)

theorem execAdaptationResume_moves {t_ : State} {n : LaneId} {s : State} (e_ : execAdaptationResume n s = .next t_) : Moves [.regs] s t_ := by
  have h_ := Moves.refl [.regs] s
  unfold execAdaptationResume at e_
  injection e_ with e_
  subst e_
  repeat' (first
    | with_reducible assumption
    | intro _
    | with_reducible apply Moves.ite
    | exact (rfl : _ = true)
    | with_reducible apply State.setB_moves)

theorem execAlignmentComplete_moves {t_ : State} {t : Trunk} {skew : BitVec 7} {s : State} (e_ : execAlignmentComplete t skew s = .next t_) : Moves [.regs, .lx, .tree, .ts, .ebm, .bus, .qe, .bm, .xb, .fn, .mre, .pu, .ck, .out] s t_ := by
  have h_ := Moves.refl [.regs, .lx, .tree, .ts, .ebm, .bus, .qe, .bm, .xb, .fn, .mre, .pu, .ck, .out] s
  unfold execAlignmentComplete at e_
  injection e_ with e_
  subst e_
  repeat' (first
    | with_reducible assumption
    | exact (rfl : _ = true)
    | with_reducible apply State.alignmentComplete_moves)

theorem execBlockLockLost_moves {t_ : State} {n : LaneId} {s : State} (e_ : execBlockLockLost n s = .next t_) : Moves [.regs, .lx, .ck, .out] s t_ := by
  have h_ := Moves.refl [.regs, .lx, .ck, .out] s
  unfold execBlockLockLost at e_
  injection e_ with e_
  subst e_
  repeat' (first
    | with_reducible assumption
    | intro _
    | with_reducible apply Moves.ite
    | exact (rfl : _ = true)
    | with_reducible apply State.startTraining_moves
    | with_reducible apply State.updLane_moves)

theorem State.prbsCtrl_moves {l_ : List Part} {z_ : State} {s : State} {n : Nat} {v : Word} (h_ : Moves l_ z_ s) (hl_ : Part.sub [.regs] l_ = true) :
    Moves l_ z_ (State.prbsCtrl s n v) := by
  refine h_.step ?_ hl_
  clear h_ hl_
  have h_ := Moves.refl [.regs] s
  unfold State.prbsCtrl
  repeat' (first
    | with_reducible assumption
    | intro _
    | with_reducible apply Moves.ite
    | exact (rfl : _ = true)
    | with_reducible apply State.setB_moves
    | with_reducible apply State.writeReg_moves
    | split)

theorem State.injectBurst_moves {l_ : List Part} {z_ : State} {s : State} {n : Nat} {v : Word} (h_ : Moves l_ z_ s) (hl_ : Part.sub [.regs, .lx, .out] l_ = true) :
    Moves l_ z_ (State.injectBurst s n v) := by
  refine h_.step ?_ hl_
  clear h_ hl_
  have h_ := Moves.refl [.regs, .lx, .out] s
  unfold State.injectBurst
  repeat' (first
    | with_reducible assumption
    | intro _
    | with_reducible apply Moves.ite
    | exact (rfl : _ = true)
    | with_reducible apply State.inject_moves
    | with_reducible apply State.prbsCtrl_moves
    | split)

theorem State.auditLock_moves {l_ : List Part} {z_ : State} {s : State} {n : Nat} (h_ : Moves l_ z_ s) (hl_ : Part.sub [.sv] l_ = true) :
    Moves l_ z_ (State.auditLock s n) := by
  refine h_.step ?_ hl_
  clear h_ hl_
  have h_ := Moves.refl [.sv] s
  unfold State.auditLock
  repeat' (first
    | with_reducible assumption
    | intro _
    | with_reducible apply Moves.ite
    | exact (rfl : _ = true)
    | split
    | with_reducible apply Moves.sv)

theorem State.prbsErrors_moves {l_ : List Part} {z_ : State} {s : State} {n : Nat} {errors : Nat} (h_ : Moves l_ z_ s) (hl_ : Part.sub [.regs] l_ = true) :
    Moves l_ z_ (State.prbsErrors s n errors) := by
  refine h_.step ?_ hl_
  clear h_ hl_
  have h_ := Moves.refl [.regs] s
  unfold State.prbsErrors
  repeat' (first
    | with_reducible assumption
    | intro _
    | with_reducible apply Moves.ite
    | exact (rfl : _ = true)
    | with_reducible apply State.bump_moves
    | split)

theorem State.lockLost_moves {l_ : List Part} {z_ : State} {s : State} {n : Nat} {errors : Nat} (h_ : Moves l_ z_ s) (hl_ : Part.sub [.regs] l_ = true) :
    Moves l_ z_ (State.lockLost s n errors) := by
  refine h_.step ?_ hl_
  clear h_ hl_
  have h_ := Moves.refl [.regs] s
  unfold State.lockLost
  repeat' (first
    | with_reducible assumption
    | intro _
    | with_reducible apply Moves.ite
    | exact (rfl : _ = true)
    | with_reducible apply State.bump_moves
    | with_reducible apply State.setB_moves
    | split)

theorem State.corruptPacket_moves {l_ : List Part} {z_ : State} {s : State} {t : Nat} {c : Discard} (h_ : Moves l_ z_ s) (hl_ : Part.sub [.regs, .tree] l_ = true) :
    Moves l_ z_ (State.corruptPacket s t c) := by
  refine h_.step ?_ hl_
  clear h_ hl_
  have h_ := Moves.refl [.regs, .tree] s
  unfold State.corruptPacket
  repeat' (first
    | with_reducible assumption
    | intro _
    | with_reducible apply Moves.ite
    | exact (rfl : _ = true)
    | with_reducible apply State.bump_moves
    | with_reducible apply State.discardCrc_moves
    | with_reducible apply State.updPort_moves
    | split)

theorem execCorruptPacketReceived_moves {t_ : State} {t : CrcFail} {s : State} (e_ : execCorruptPacketReceived t s = .next t_) : Moves [.regs, .tree] s t_ := by
  have h_ := Moves.refl [.regs, .tree] s
  unfold execCorruptPacketReceived at e_
  injection e_ with e_
  subst e_
  repeat' (first
    | with_reducible assumption
    | intro _
    | exact (rfl : _ = true)
    | with_reducible apply State.corruptPacket_moves
    | split)

theorem execDelineationLoss_moves {t_ : State} {t : DelinAt} {s : State} (e_ : execDelineationLoss t s = .next t_) : Moves [.regs, .lx, .tree] s t_ := by
  have h_ := Moves.refl [.regs, .lx, .tree] s
  unfold execDelineationLoss at e_
  injection e_ with e_
  subst e_
  repeat' (first
    | with_reducible assumption
    | intro _
    | with_reducible apply Moves.ite
    | exact (rfl : _ = true)
    | with_reducible apply State.delineationLoss_moves
    | split)

theorem execDelineationRecovered_moves {t_ : State} {t : DelinBack} {s : State} (e_ : execDelineationRecovered t s = .next t_) : Moves [.lx] s t_ := by
  have h_ := Moves.refl [.lx] s
  unfold execDelineationRecovered at e_
  injection e_ with e_
  subst e_
  repeat' (first
    | with_reducible assumption
    | intro _
    | with_reducible apply Moves.ite
    | exact (rfl : _ = true)
    | with_reducible apply State.updTrunk_moves
    | split)

theorem execEyePointDone_moves {t_ : State} {n : LaneId} {count : Word} {s : State} (e_ : execEyePointDone n count s = .next t_) : Moves [.regs, .lx] s t_ := by
  have h_ := Moves.refl [.regs, .lx] s
  unfold execEyePointDone at e_
  injection e_ with e_
  subst e_
  repeat' (first
    | with_reducible assumption
    | intro _
    | with_reducible apply Moves.ite
    | exact (rfl : _ = true)
    | with_reducible apply State.eyePoint_moves)

theorem execEyeScanStart_moves {t_ : State} {n : LaneId} {v : Word} {s : State} (e_ : execEyeScanStart n v s = .next t_) : Moves [.regs, .lx, .fn, .pm, .out] s t_ := by
  have h_ := Moves.refl [.regs, .lx, .fn, .pm, .out] s
  unfold execEyeScanStart at e_
  injection e_ with e_
  subst e_
  repeat' (first
    | with_reducible assumption
    | intro _
    | exact (rfl : _ = true)
    | with_reducible apply State.eyeStart_moves
    | with_reducible apply State.pfWrite_moves)

theorem execEyeSwOwn_moves {t_ : State} {n : LaneId} {s : State} (e_ : execEyeSwOwn n s = .next t_) : Moves [.regs, .lx, .fn, .pm, .out] s t_ := by
  have h_ := Moves.refl [.regs, .lx, .fn, .pm, .out] s
  unfold execEyeSwOwn at e_
  injection e_ with e_
  subst e_
  repeat' (first
    | with_reducible assumption
    | intro _
    | exact (rfl : _ = true)
    | with_reducible apply State.eyeOwn_moves
    | with_reducible apply State.pfWrite_moves)

theorem execFailedRetryTimer_moves {t_ : State} {n : LaneId} {s : State} (e_ : execFailedRetryTimer n s = .next t_) : Moves [.regs, .lx, .ck, .out] s t_ := by
  have h_ := Moves.refl [.regs, .lx, .ck, .out] s
  unfold execFailedRetryTimer at e_
  injection e_ with e_
  subst e_
  repeat' (first
    | with_reducible assumption
    | intro _
    | with_reducible apply Moves.ite
    | exact (rfl : _ = true)
    | with_reducible apply State.startTraining_moves)

theorem execLaneEnableWrite_moves {t_ : State} {n : LaneId} {v : Word} {s : State} (e_ : execLaneEnableWrite n v s = .next t_) : Moves [.regs, .lx, .fn, .pm, .ck, .out] s t_ := by
  have h_ := Moves.refl [.regs, .lx, .fn, .pm, .ck, .out] s
  unfold execLaneEnableWrite at e_
  injection e_ with e_
  subst e_
  repeat' (first
    | with_reducible assumption
    | intro _
    | exact (rfl : _ = true)
    | with_reducible apply State.laneEnable_moves
    | with_reducible apply State.pfWrite_moves)

theorem execLaneRetrainReq_moves {t_ : State} {n : LaneId} {s : State} (e_ : execLaneRetrainReq n s = .next t_) : Moves [.lx] s t_ := by
  have h_ := Moves.refl [.lx] s
  unfold execLaneRetrainReq at e_
  injection e_ with e_
  subst e_
  repeat' (first
    | with_reducible assumption
    | exact (rfl : _ = true)
    | with_reducible apply State.retrainReq_moves)

theorem execLaneTrainStart_moves {t_ : State} {n : LaneId} {s : State} (e_ : execLaneTrainStart n s = .next t_) : Moves [.regs, .lx, .ck, .out] s t_ := by
  have h_ := Moves.refl [.regs, .lx, .ck, .out] s
  unfold execLaneTrainStart at e_
  injection e_ with e_
  subst e_
  repeat' (first
    | with_reducible assumption
    | exact (rfl : _ = true)
    | with_reducible apply State.trainStart_moves)

theorem execLpiKeepaliveWake_moves {t_ : State} {t : Trunk} {s : State} (e_ : execLpiKeepaliveWake t s = .next t_) : Moves [.time, .lx, .free, .out] s t_ := by
  have h_ := Moves.refl [.time, .lx, .free, .out] s
  unfold execLpiKeepaliveWake at e_
  injection e_ with e_
  subst e_
  repeat' (first
    | with_reducible assumption
    | intro _
    | with_reducible apply Moves.ite
    | with_reducible apply Moves.foldl
    | exact (rfl : _ = true)
    | with_reducible apply State.keepalive_moves)

theorem execMarginCheckComplete_moves {t_ : State} {n : LaneId} {m : Margins} {s : State} (e_ : execMarginCheckComplete n m s = .next t_) : Moves [.regs, .lx] s t_ := by
  have h_ := Moves.refl [.regs, .lx] s
  unfold execMarginCheckComplete at e_
  injection e_ with e_
  subst e_
  repeat' (first
    | with_reducible assumption
    | exact (rfl : _ = true)
    | with_reducible apply State.marginComplete_moves)

theorem execMarginCheckStart_moves {t_ : State} {n : LaneId} {s : State} (e_ : execMarginCheckStart n s = .next t_) : Moves [.regs, .lx] s t_ := by
  have h_ := Moves.refl [.regs, .lx] s
  unfold execMarginCheckStart at e_
  injection e_ with e_
  subst e_
  repeat' (first
    | with_reducible assumption
    | exact (rfl : _ = true)
    | with_reducible apply State.marginStart_moves)

theorem execMarkerReceived_moves {t_ : State} {n : LaneId} {m : Marker} {s : State} (e_ : execMarkerReceived n m s = .next t_) : Moves [.regs, .lx, .sv] s t_ := by
  have h_ := Moves.refl [.regs, .lx, .sv] s
  unfold execMarkerReceived at e_
  injection e_ with e_
  subst e_
  repeat' (first
    | with_reducible assumption
    | exact (rfl : _ = true)
    | with_reducible apply State.markerReceived_moves)

theorem execMarkerSend_moves {t_ : State} {n : LaneId} {s : State} (e_ : execMarkerSend n s = .next t_) : Moves [.lx, .free, .out] s t_ := by
  have h_ := Moves.refl [.lx, .free, .out] s
  unfold execMarkerSend at e_
  injection e_ with e_
  subst e_
  repeat' (first
    | with_reducible assumption
    | intro _
    | with_reducible apply Moves.ite
    | exact (rfl : _ = true)
    | with_reducible apply State.markerDue_moves)

theorem execPrbsInjectBurst_moves {t_ : State} {n : LaneId} {v : Word} {s : State} (e_ : execPrbsInjectBurst n v s = .next t_) : Moves [.regs, .lx, .fn, .pm, .out] s t_ := by
  have h_ := Moves.refl [.regs, .lx, .fn, .pm, .out] s
  unfold execPrbsInjectBurst at e_
  injection e_ with e_
  subst e_
  repeat' (first
    | with_reducible assumption
    | intro _
    | exact (rfl : _ = true)
    | with_reducible apply State.pfWrite_moves
    | with_reducible apply State.injectBurst_moves)

theorem execPrbsInjectSingle_moves {t_ : State} {n : LaneId} {s : State} (e_ : execPrbsInjectSingle n s = .next t_) : Moves [.regs, .lx, .fn, .pm, .out] s t_ := by
  have h_ := Moves.refl [.regs, .lx, .fn, .pm, .out] s
  unfold execPrbsInjectSingle at e_
  injection e_ with e_
  subst e_
  repeat' (first
    | with_reducible assumption
    | intro _
    | exact (rfl : _ = true)
    | with_reducible apply State.inject_moves
    | with_reducible apply State.pfWrite_moves)

theorem execPrbsLock_moves {t_ : State} {n : LaneId} {s : State} (e_ : execPrbsLock n s = .next t_) : Moves [.regs, .lx, .sv] s t_ := by
  have h_ := Moves.refl [.regs, .lx, .sv] s
  unfold execPrbsLock at e_
  injection e_ with e_
  subst e_
  repeat' (first
    | with_reducible assumption
    | intro _
    | with_reducible apply Moves.ite
    | exact (rfl : _ = true)
    | with_reducible apply State.setB_moves
    | with_reducible apply State.auditLock_moves)

theorem execPrbsLockLost_moves {t_ : State} {n : LockLoss} {s : State} (e_ : execPrbsLockLost n s = .next t_) : Moves [.regs] s t_ := by
  have h_ := Moves.refl [.regs] s
  unfold execPrbsLockLost at e_
  injection e_ with e_
  subst e_
  repeat' (first
    | with_reducible assumption
    | intro _
    | with_reducible apply Moves.ite
    | exact (rfl : _ = true)
    | with_reducible apply State.lockLost_moves
    | split)

theorem execQuadCfgWrite_moves {t_ : State} {q : QuadId} {v : Word} {s : State} (e_ : execQuadCfgWrite q v s = .next t_) : Moves [.regs, .lx, .tree, .ts, .ebm, .bus, .qe, .bm, .xb, .fn, .mre, .pu, .pm, .ck, .out] s t_ := by
  have h_ := Moves.refl [.regs, .lx, .tree, .ts, .ebm, .bus, .qe, .bm, .xb, .fn, .mre, .pu, .pm, .ck, .out] s
  unfold execQuadCfgWrite at e_
  injection e_ with e_
  subst e_
  repeat' (first
    | with_reducible assumption
    | intro _
    | exact (rfl : _ = true)
    | with_reducible apply State.pfWrite_moves
    | with_reducible apply State.quadCfg_moves)

theorem execRetrainBlockReceived_moves {t_ : State} {n : LaneId} {raw : BitVec 64} {s : State} (e_ : execRetrainBlockReceived n raw s = .next t_) : Moves [.regs, .lx, .free, .out] s t_ := by
  have h_ := Moves.refl [.regs, .lx, .free, .out] s
  unfold execRetrainBlockReceived at e_
  injection e_ with e_
  subst e_
  repeat' (first
    | with_reducible assumption
    | exact (rfl : _ = true)
    | with_reducible apply State.retrainReceived_moves)

theorem execRetrainSlotEnd_moves {t_ : State} {t : Trunk} {s : State} (e_ : execRetrainSlotEnd t s = .next t_) : Moves [.regs, .lx, .ck] s t_ := by
  have h_ := Moves.refl [.regs, .lx, .ck] s
  unfold execRetrainSlotEnd at e_
  injection e_ with e_
  subst e_
  repeat' (first
    | with_reducible assumption
    | exact (rfl : _ = true)
    | with_reducible apply State.slotEnd_moves)

theorem execRetrainSlotStart_moves {t_ : State} {t : Trunk} {s : State} (e_ : execRetrainSlotStart t s = .next t_) : Moves [.regs, .lx, .ts, .ck, .free, .out] s t_ := by
  have h_ := Moves.refl [.regs, .lx, .ts, .ck, .free, .out] s
  unfold execRetrainSlotStart at e_
  injection e_ with e_
  subst e_
  repeat' (first
    | with_reducible assumption
    | with_reducible apply Moves.foldl
    | exact (rfl : _ = true)
    | with_reducible apply State.slotStart_moves)

theorem execTrainHeaderReceived_moves {t_ : State} {n : LaneId} {raw : BitVec 64} {inverted : Bool} {s : State} (e_ : execTrainHeaderReceived n raw inverted s = .next t_) : Moves [.regs, .lx, .free, .out] s t_ := by
  have h_ := Moves.refl [.regs, .lx, .free, .out] s
  unfold execTrainHeaderReceived at e_
  injection e_ with e_
  subst e_
  repeat' (first
    | with_reducible assumption
    | exact (rfl : _ = true)
    | with_reducible apply State.trainHeaderReceived_moves)

theorem execTrainingComplete_moves {t_ : State} {n : LaneId} {s : State} (e_ : execTrainingComplete n s = .next t_) : Moves [.regs, .lx, .tree, .ts, .ebm, .bus, .qe, .bm, .xb, .fn, .mre, .pu, .ck, .free, .out] s t_ := by
  have h_ := Moves.refl [.regs, .lx, .tree, .ts, .ebm, .bus, .qe, .bm, .xb, .fn, .mre, .pu, .ck, .free, .out] s
  unfold execTrainingComplete at e_
  injection e_ with e_
  subst e_
  repeat' (first
    | with_reducible assumption
    | exact (rfl : _ = true)
    | with_reducible apply State.trainingComplete_moves)

theorem execTrainingTimeout_moves {t_ : State} {n : LaneId} {s : State} (e_ : execTrainingTimeout n s = .next t_) : Moves [.regs, .lx, .tree, .ts, .ebm, .bus, .qe, .bm, .xb, .fn, .mre, .pu, .ck, .out] s t_ := by
  have h_ := Moves.refl [.regs, .lx, .tree, .ts, .ebm, .bus, .qe, .bm, .xb, .fn, .mre, .pu, .ck, .out] s
  unfold execTrainingTimeout at e_
  injection e_ with e_
  subst e_
  repeat' (first
    | with_reducible assumption
    | intro _
    | with_reducible apply Moves.ite
    | exact (rfl : _ = true)
    | with_reducible apply State.trainFail_moves)

theorem execTwillRetrainTimeout_moves {t_ : State} {t : Trunk} {s : State} (e_ : execTwillRetrainTimeout t s = .next t_) : Moves [.regs, .lx, .tree, .ts, .ebm, .bus, .qe, .bm, .xb, .fn, .mre, .pu, .ck, .out] s t_ := by
  have h_ := Moves.refl [.regs, .lx, .tree, .ts, .ebm, .bus, .qe, .bm, .xb, .fn, .mre, .pu, .ck, .out] s
  unfold execTwillRetrainTimeout at e_
  injection e_ with e_
  subst e_
  repeat' (first
    | with_reducible assumption
    | intro _
    | with_reducible apply Moves.ite
    | exact (rfl : _ = true)
    | with_reducible apply State.failTwill_moves)

end Sys2Proof.Machine
end

