-- ==== Sys2Proof/Laws/AuditOpsMoves.lean ====
section
/-! SUPPORT. What the operations of Machine/AuditOps.lean may touch. -/

set_option Elab.async false
set_option linter.unusedTactic false
set_option linter.unreachableTactic false

namespace Sys2Proof.Machine

theorem State.breakSlot_moves {l_ : List Part} {z_ : State} {s : State} {l : Nat} (h_ : Moves l_ z_ s) (hl_ : Part.sub [.sv] l_ = true) :
    Moves l_ z_ (State.breakSlot s l) := by
  refine h_.step ?_ hl_
  clear h_ hl_
  have h_ := Moves.refl [.sv] s
  unfold State.breakSlot
  repeat' (first
    | with_reducible assumption
    | intro _
    | with_reducible apply Moves.ite
    | exact (rfl : _ = true)
    | split
    | with_reducible apply Moves.sv)

theorem State.startSweep_moves {l_ : List Part} {z_ : State} {s : State} {l : Nat} {start : Nat} (h_ : Moves l_ z_ s) (hl_ : Part.sub [.sv] l_ = true) :
    Moves l_ z_ (State.startSweep s l start) := by
  refine h_.step ?_ hl_
  clear h_ hl_
  have h_ := Moves.refl [.sv] s
  unfold State.startSweep
  repeat' (first
    | with_reducible assumption
    | intro _
    | with_reducible apply Moves.ite
    | exact (rfl : _ = true)
    | with_reducible apply State.setLine_moves
    | split)

theorem State.pilotFigure_moves {l_ : List Part} {z_ : State} {s : State} {l : Nat} {c : CorrParams} (h_ : Moves l_ z_ s) (hl_ : Part.sub [.sv] l_ = true) :
    Moves l_ z_ (State.pilotFigure s l c).1 := by
  refine h_.step ?_ hl_
  clear h_ hl_
  have h_ := Moves.refl [.sv] s
  unfold State.pilotFigure
  dsimp only
  repeat' (first
    | with_reducible assumption
    | exact (rfl : _ = true)
    | with_reducible apply State.setLine_moves
    | split)

theorem State.figures_moves {l_ : List Part} {z_ : State} {s : State} {l : Nat} {quiet : Bool} (h_ : Moves l_ z_ s) (hl_ : Part.sub [.sv] l_ = true) :
    Moves l_ z_ (State.figures s l quiet) := by
  refine h_.step ?_ hl_
  clear h_ hl_
  have h_ := Moves.refl [.sv] s
  unfold State.figures
  repeat' (first
    | with_reducible assumption
    | intro _
    | with_reducible apply Moves.ite
    | exact (rfl : _ = true)
    | with_reducible apply State.setLine_moves
    | split)

theorem State.auditWrite_moves {l_ : List Part} {z_ : State} {s : State} {a : Audit} {addr : ℕ} {b : List Byte} (h_ : Moves l_ z_ s) (hl_ : Part.sub [.fn, .out] l_ = true) :
    Moves l_ z_ (State.auditWrite s a addr b) := by
  refine h_.step ?_ hl_
  clear h_ hl_
  have h_ := Moves.refl [.fn, .out] s
  unfold State.auditWrite
  repeat' (first
    | with_reducible assumption
    | intro _
    | with_reducible apply Moves.ite
    | exact (rfl : _ = true)
    | with_reducible apply State.sendHost_moves)

theorem State.setAudit_moves {l_ : List Part} {z_ : State} {s : State} {a : Option Audit} (h_ : Moves l_ z_ s) (hl_ : Part.sub [.regs, .sv] l_ = true) :
    Moves l_ z_ (State.setAudit s a) := by
  refine h_.step ?_ hl_
  clear h_ hl_
  have h_ := Moves.refl [.regs, .sv] s
  unfold State.setAudit
  repeat' (first
    | with_reducible assumption
    | exact (rfl : _ = true)
    | with_reducible apply State.setB_moves
    | with_reducible apply State.setF_moves
    | split
    | with_reducible apply Moves.sv)

theorem State.closeAudit_moves {l_ : List Part} {z_ : State} {s : State} {a : Audit} {status : ℕ} (h_ : Moves l_ z_ s) (hl_ : Part.sub [.regs, .qe, .bm, .xb, .fn, .sv, .pu, .free, .out] l_ = true) :
    Moves l_ z_ (State.closeAudit s a status) := by
  refine h_.step ?_ hl_
  clear h_ hl_
  have h_ := Moves.refl [.regs, .qe, .bm, .xb, .fn, .sv, .pu, .free, .out] s
  unfold State.closeAudit
  repeat' (first
    | with_reducible assumption
    | intro _
    | exact (rfl : _ = true)
    | with_reducible apply State.auditWrite_moves
    | with_reducible apply State.completeRefM_moves
    | with_reducible apply State.setAudit_moves
    | with_reducible apply State.fresh_moves
    | split)

theorem State.endSpare_moves {l_ : List Part} {z_ : State} {s : State} {n : ℕ} (h_ : Moves l_ z_ s) (hl_ : Part.sub [.regs, .lx, .ck] l_ = true) :
    Moves l_ z_ (State.endSpare s n) := by
  refine h_.step ?_ hl_
  clear h_ hl_
  have h_ := Moves.refl [.regs, .lx, .ck] s
  unfold State.endSpare
  repeat' (first
    | with_reducible assumption
    | exact (rfl : _ = true)
    | with_reducible apply State.quietLane_moves
    | with_reducible apply State.setB_moves)

theorem State.stopAudit_moves {l_ : List Part} {z_ : State} {s : State} {a : Audit} (h_ : Moves l_ z_ s) (hl_ : Part.sub [.regs, .lx, .gd, .sv, .ck] l_ = true) :
    Moves l_ z_ (State.stopAudit s a) := by
  refine h_.step ?_ hl_
  clear h_ hl_
  have h_ := Moves.refl [.regs, .lx, .gd, .sv, .ck] s
  unfold State.stopAudit
  repeat' (first
    | with_reducible assumption
    | intro _
    | with_reducible apply Moves.foldl
    | exact (rfl : _ = true)
    | with_reducible apply State.endSpare_moves
    | with_reducible apply State.setLine_moves
    | with_reducible apply State.dropTimers_moves
    | split
    | with_reducible apply Moves.gd
    | with_reducible apply Moves.sv)

theorem State.abortAudit_moves {l_ : List Part} {z_ : State} {s : State} (h_ : Moves l_ z_ s) (hl_ : Part.sub [.regs, .lx, .qe, .bm, .xb, .fn, .gd, .sv, .pu, .ck, .free, .out] l_ = true) :
    Moves l_ z_ (State.abortAudit s) := by
  refine h_.step ?_ hl_
  clear h_ hl_
  have h_ := Moves.refl [.regs, .lx, .qe, .bm, .xb, .fn, .gd, .sv, .pu, .ck, .free, .out] s
  unfold State.abortAudit
  repeat' (first
    | with_reducible assumption
    | exact (rfl : _ = true)
    | with_reducible apply State.closeAudit_moves
    | with_reducible apply State.stopAudit_moves
    | split)

theorem State.dropAudit_moves {l_ : List Part} {z_ : State} {s : State} (h_ : Moves l_ z_ s) (hl_ : Part.sub [.regs, .lx, .qe, .bm, .xb, .fn, .gd, .sv, .pu, .ck, .out] l_ = true) :
    Moves l_ z_ (State.dropAudit s) := by
  refine h_.step ?_ hl_
  clear h_ hl_
  have h_ := Moves.refl [.regs, .lx, .qe, .bm, .xb, .fn, .gd, .sv, .pu, .ck, .out] s
  unfold State.dropAudit
  repeat' (first
    | with_reducible assumption
    | intro _
    | exact (rfl : _ = true)
    | with_reducible apply State.completeRefM_moves
    | with_reducible apply State.setAudit_moves
    | with_reducible apply State.stopAudit_moves
    | split
    | with_reducible apply Moves.sv)

theorem State.endPart_moves {l_ : List Part} {z_ : State} {s : State} {a : Audit} (h_ : Moves l_ z_ s) (hl_ : Part.sub [.regs, .qe, .bm, .xb, .fn, .sv, .pu, .free, .out] l_ = true) :
    Moves l_ z_ (State.endPart s a) := by
  refine h_.step ?_ hl_
  clear h_ hl_
  have h_ := Moves.refl [.regs, .qe, .bm, .xb, .fn, .sv, .pu, .free, .out] s
  unfold State.endPart
  repeat' (first
    | with_reducible assumption
    | intro _
    | with_reducible apply Moves.ite
    | exact (rfl : _ = true)
    | with_reducible apply State.closeAudit_moves
    | with_reducible apply State.setAudit_moves)

theorem State.closeHub_moves {l_ : List Part} {z_ : State} {s : State} {a : Audit} {h : AuditHub} (h_ : Moves l_ z_ s) (hl_ : Part.sub [.regs, .qe, .bm, .xb, .fn, .sv, .pu, .free, .out] l_ = true) :
    Moves l_ z_ (State.closeHub s a h) := by
  refine h_.step ?_ hl_
  clear h_ hl_
  have h_ := Moves.refl [.regs, .qe, .bm, .xb, .fn, .sv, .pu, .free, .out] s
  unfold State.closeHub
  repeat' (first
    | with_reducible assumption
    | intro _
    | with_reducible apply Moves.ite
    | exact (rfl : _ = true)
    | with_reducible apply State.endPart_moves
    | with_reducible apply State.setAudit_moves
    | split)

theorem State.auditDecision_moves {l_ : List Part} {z_ : State} {s : State} (h_ : Moves l_ z_ s) (hl_ : Part.sub [.regs, .qe, .bm, .xb, .fn, .sv, .pu, .free, .out] l_ = true) :
    Moves l_ z_ (State.auditDecision s) := by
  refine h_.step ?_ hl_
  clear h_ hl_
  have h_ := Moves.refl [.regs, .qe, .bm, .xb, .fn, .sv, .pu, .free, .out] s
  unfold State.auditDecision
  repeat' (first
    | with_reducible assumption
    | intro _
    | with_reducible apply Moves.foldl
    | exact (rfl : _ = true)
    | with_reducible apply State.setAudit_moves
    | with_reducible apply State.closeHub_moves
    | split
    | with_reducible apply Moves.sv)

theorem State.reportedLine_moves {l_ : List Part} {z_ : State} {s : State} {l : ℕ} {code : ℕ} {new : ℕ} (h_ : Moves l_ z_ s) (hl_ : Part.sub [.sv] l_ = true) :
    Moves l_ z_ (State.reportedLine s l code new) := by
  refine h_.step ?_ hl_
  clear h_ hl_
  have h_ := Moves.refl [.sv] s
  unfold State.reportedLine
  repeat' (first
    | with_reducible assumption
    | intro _
    | with_reducible apply Moves.ite
    | exact (rfl : _ = true)
    | with_reducible apply State.setLine_moves)

theorem State.showSv_moves {l_ : List Part} {z_ : State} {s : State} (h_ : Moves l_ z_ s) (hl_ : Part.sub [.regs] l_ = true) :
    Moves l_ z_ (State.showSv s) := by
  refine h_.step ?_ hl_
  clear h_ hl_
  have h_ := Moves.refl [.regs] s
  unfold State.showSv
  repeat' (first
    | with_reducible assumption
    | intro _
    | exact (rfl : _ = true)
    | with_reducible apply State.setB_moves)

theorem State.svEvent_moves {l_ : List Part} {z_ : State} {s : State} {code l new old : ℕ} {dev : ℤ} {age g ref : ℕ} (h_ : Moves l_ z_ s)
    (hl_ : Part.sub [.regs, .qe, .fn, .sv, .out] l_ = true) : Moves l_ z_ (State.svEvent s code l new old dev age g ref) := by
  have hr : ∀ t, Moves l_ z_ t → Moves l_ z_ (t.reportedLine l code new) := fun t h => State.reportedLine_moves h (Part.sub_trans rfl hl_)
  unfold State.svEvent
  refine Moves.ite (fun _ => ?_) (fun _ => hr _ h_)
  extract_lets dws now
  have hn : ∀ t, now = some t → Moves l_ z_ t := fun t e => by
    simp only [now] at e
    split at e <;> [exact State.postEvent_moves h_ (Part.sub_trans rfl hl_) e; cases e]
  clear_value now
  cases now with
  | some t => exact hr t (hn t rfl)
  | none =>
    exact Moves.ite (fun _ => hr _ (State.showSv_moves (h_.sv (Part.sub_trans rfl hl_) _) (Part.sub_trans rfl hl_)))
      (fun _ => State.showSv_moves (State.bump_moves h_ (Part.sub_trans rfl hl_)) (Part.sub_trans rfl hl_))

theorem State.learnLine_moves {l_ : List Part} {z_ : State} {s : State} {l : Nat} (h_ : Moves l_ z_ s) (hl_ : Part.sub [.regs, .qe, .fn, .sv, .out] l_ = true) :
    Moves l_ z_ (State.learnLine s l) := by
  refine h_.step ?_ hl_
  clear h_ hl_
  have h_ := Moves.refl [.regs, .qe, .fn, .sv, .out] s
  unfold State.learnLine
  repeat' (first
    | with_reducible assumption
    | intro _
    | with_reducible apply Moves.ite
    | exact (rfl : _ = true)
    | with_reducible apply State.setLine_moves
    | with_reducible apply State.svEvent_moves
    | split)

theorem State.lineTo_moves {l_ : List Part} {z_ : State} {s : State} {l : ℕ} {new : ℕ} {dev : ℤ} {g : ℕ} {ref : ℕ} (h_ : Moves l_ z_ s) (hl_ : Part.sub [.regs, .qe, .fn, .sv, .out] l_ = true) :
    Moves l_ z_ (State.lineTo s l new dev g ref) := by
  refine h_.step ?_ hl_
  clear h_ hl_
  have h_ := Moves.refl [.regs, .qe, .fn, .sv, .out] s
  unfold State.lineTo
  repeat' (first
    | with_reducible assumption
    | intro _
    | exact (rfl : _ = true)
    | with_reducible apply State.setLine_moves
    | with_reducible apply State.svEvent_moves
    | with_reducible apply State.breakSlot_moves
    | with_reducible apply State.when_moves)

theorem State.lostLine_moves {l_ : List Part} {z_ : State} {s : State} {l : Nat} {lost : Bool} (h_ : Moves l_ z_ s) (hl_ : Part.sub [.regs, .qe, .fn, .sv, .out] l_ = true) :
    Moves l_ z_ (State.lostLine s l lost) := by
  refine h_.step ?_ hl_
  clear h_ hl_
  have h_ := Moves.refl [.regs, .qe, .fn, .sv, .out] s
  unfold State.lostLine
  repeat' (first
    | with_reducible assumption
    | intro _
    | with_reducible apply Moves.ite
    | exact (rfl : _ = true)
    | with_reducible apply State.lineTo_moves
    | with_reducible apply State.setLine_moves
    | split)

theorem State.pilotBurst_moves {l_ : List Part} {z_ : State} {s : State} {l : Nat} {c : CorrParams} (h_ : Moves l_ z_ s) (hl_ : Part.sub [.regs, .qe, .fn, .sv, .out] l_ = true) :
    Moves l_ z_ (State.pilotBurst s l c) := by
  refine h_.step ?_ hl_
  clear h_ hl_
  have h_ := Moves.refl [.regs, .qe, .fn, .sv, .out] s
  unfold State.pilotBurst
  repeat' (first
    | with_reducible assumption
    | intro _
    | refine Moves.of_fst ?_ (by assumption)
    | with_reducible apply Moves.ite
    | with_reducible apply State.pilotFigure_moves
    | exact (rfl : _ = true)
    | with_reducible apply State.lineTo_moves
    | with_reducible apply State.setLine_moves
    | split)

theorem State.leaveLost_moves {l_ : List Part} {z_ : State} {s : State} {l : Nat} {cls : Nat} {need : Nat} {dev : Int} {g : Nat} {ref : Nat} (h_ : Moves l_ z_ s) (hl_ : Part.sub [.regs, .qe, .fn, .sv, .out] l_ = true) :
    Moves l_ z_ (State.leaveLost s l cls need dev g ref) := by
  refine h_.step ?_ hl_
  clear h_ hl_
  have h_ := Moves.refl [.regs, .qe, .fn, .sv, .out] s
  unfold State.leaveLost
  repeat' (first
    | with_reducible assumption
    | intro _
    | with_reducible apply Moves.ite
    | exact (rfl : _ = true)
    | with_reducible apply State.lineTo_moves
    | with_reducible apply State.setLine_moves
    | split)

theorem State.confirmLine_moves {l_ : List Part} {z_ : State} {s : State} {l : ℕ} {cls : ℕ} {need : ℕ} {dev : ℤ} {g : ℕ} {ref : ℕ} (h_ : Moves l_ z_ s) (hl_ : Part.sub [.regs, .qe, .fn, .sv, .out] l_ = true) :
    Moves l_ z_ (State.confirmLine s l cls need dev g ref) := by
  refine h_.step ?_ hl_
  clear h_ hl_
  have h_ := Moves.refl [.regs, .qe, .fn, .sv, .out] s
  unfold State.confirmLine
  repeat' (first
    | with_reducible assumption
    | intro _
    | with_reducible apply Moves.ite
    | exact (rfl : _ = true)
    | with_reducible apply State.lineTo_moves
    | with_reducible apply State.setLine_moves)

theorem State.settleLine_moves {l_ : List Part} {z_ : State} {s : State} {l : Nat} {cls : Nat} {need : Nat} {dev : Int} {g : Nat} {ref : Nat} (h_ : Moves l_ z_ s) (hl_ : Part.sub [.regs, .qe, .fn, .sv, .out] l_ = true) :
    Moves l_ z_ (State.settleLine s l cls need dev g ref) := by
  refine h_.step ?_ hl_
  clear h_ hl_
  have h_ := Moves.refl [.regs, .qe, .fn, .sv, .out] s
  unfold State.settleLine
  repeat' (first
    | with_reducible assumption
    | intro _
    | with_reducible apply Moves.ite
    | exact (rfl : _ = true)
    | with_reducible apply State.confirmLine_moves
    | with_reducible apply State.leaveLost_moves
    | split)

theorem State.drainSv_moves {l_ : List Part} {z_ : State} {s : State} {a1_ : ℕ} (h_ : Moves l_ z_ s) (hl_ : Part.sub [.regs, .qe, .fn, .sv, .out] l_ = true) :
    Moves l_ z_ (State.drainSv s a1_) := by
  refine h_.step ?_ hl_
  clear h_ hl_
  induction a1_ generalizing s with
  | zero => exact Moves.refl _ _
  | succ n_ ih_ =>
    have h_ := Moves.refl [.regs, .qe, .fn, .sv, .out] s
    unfold State.drainSv
    repeat' (first
      | with_reducible refine Moves.trans ?_ ih_
      | with_reducible assumption
      | refine State.postEvent_moves ?_ ?_ (by assumption)
      | exact (rfl : _ = true)
      | with_reducible apply State.setLine_moves
      | with_reducible apply State.showSv_moves
      | split
      | with_reducible apply Moves.sv)

theorem State.dropPilotTimers_moves {l_ : List Part} {z_ : State} {s : State} {l : ℕ} (h_ : Moves l_ z_ s) (hl_ : Part.sub [.regs, .gd] l_ = true) :
    Moves l_ z_ (State.dropPilotTimers s l) := by
  refine h_.step ?_ hl_
  clear h_ hl_
  have h_ := Moves.refl [.regs, .gd] s
  unfold State.dropPilotTimers
  repeat' (first
    | with_reducible assumption
    | intro _
    | exact (rfl : _ = true)
    | with_reducible apply State.dropTimers_moves
    | with_reducible apply Moves.gd)

theorem State.showLines_moves {l_ : List Part} {z_ : State} {s : State} (h_ : Moves l_ z_ s) (hl_ : Part.sub [.regs] l_ = true) :
    Moves l_ z_ (State.showLines s) := by
  refine h_.step ?_ hl_
  clear h_ hl_
  have h_ := Moves.refl [.regs] s
  unfold State.showLines
  repeat' (first
    | with_reducible assumption
    | exact (rfl : _ = true)
    | with_reducible apply State.setF_moves)

theorem State.svRebind_moves {l_ : List Part} {z_ : State} {s : State} {l : ℕ} {cont : Bool} (h_ : Moves l_ z_ s) (hl_ : Part.sub [.regs, .qe, .fn, .gd, .sv, .out] l_ = true) :
    Moves l_ z_ (State.svRebind s l cont) := by
  refine h_.step ?_ hl_
  clear h_ hl_
  have h_ := Moves.refl [.regs, .qe, .fn, .gd, .sv, .out] s
  unfold State.svRebind
  repeat' (first
    | with_reducible assumption
    | (extract_lets -underBinder +onlyGivenNames x_; first | (refine (fun hx_ : Moves [.regs, .qe, .fn, .gd, .sv, .out] s x_ => ?_) ?_; (on_goal 1 => (clear_value x_; revert hx_; revert x_; intro _ _)); (on_goal 2 => subst x_)) | subst x_)
    | intro _
    | exact (rfl : _ = true)
    | with_reducible apply State.dropPilotTimers_moves
    | with_reducible apply State.setLine_moves
    | with_reducible apply State.svEvent_moves
    | with_reducible apply State.breakSlot_moves
    | split)

theorem State.startPilot_moves {l_ : List Part} {z_ : State} {s : State} {l : Nat} {start : Nat} {ends : Option Nat} (h_ : Moves l_ z_ s) (hl_ : Part.sub [.sv] l_ = true) :
    Moves l_ z_ (State.startPilot s l start ends) := by
  refine h_.step ?_ hl_
  clear h_ hl_
  have h_ := Moves.refl [.sv] s
  unfold State.startPilot
  repeat' (first
    | with_reducible assumption
    | intro _
    | with_reducible apply Moves.ite
    | exact (rfl : _ = true)
    | with_reducible apply State.setLine_moves
    | split)

theorem State.refreshClass_moves {l_ : List Part} {z_ : State} {s : State} {l : ℕ} {c : CorrParams} {quiet : Bool} (h_ : Moves l_ z_ s) (hl_ : Part.sub [.regs, .qe, .fn, .sv, .out] l_ = true) :
    Moves l_ z_ (State.refreshClass s l c quiet) := by
  refine h_.step ?_ hl_
  clear h_ hl_
  have h_ := Moves.refl [.regs, .qe, .fn, .sv, .out] s
  unfold State.refreshClass
  repeat' (first
    | with_reducible assumption
    | intro _
    | with_reducible apply Moves.ite
    | exact (rfl : _ = true)
    | with_reducible apply State.settleLine_moves)

theorem State.refreshBy_moves {l_ : List Part} {z_ : State} {s : State} {l : Nat} {c : CorrParams} {quiet : Bool} (h_ : Moves l_ z_ s) (hl_ : Part.sub [.regs, .qe, .fn, .sv, .out] l_ = true) :
    Moves l_ z_ (State.refreshBy s l c quiet) := by
  refine h_.step ?_ hl_
  clear h_ hl_
  have h_ := Moves.refl [.regs, .qe, .fn, .sv, .out] s
  unfold State.refreshBy
  repeat' (first
    | with_reducible assumption
    | intro _
    | refine Moves.of_fst ?_ (by assumption)
    | with_reducible apply Moves.ite
    | with_reducible apply State.pilotFigure_moves
    | exact (rfl : _ = true)
    | with_reducible apply State.refreshClass_moves
    | with_reducible apply State.settleLine_moves
    | split)

theorem State.refreshSatin_moves {l_ : List Part} {z_ : State} {s : State} {l : ℕ} {c : CorrParams} (h_ : Moves l_ z_ s) (hl_ : Part.sub [.regs, .qe, .fn, .sv, .out] l_ = true) :
    Moves l_ z_ (State.refreshSatin s l c) := by
  refine h_.step ?_ hl_
  clear h_ hl_
  have h_ := Moves.refl [.regs, .qe, .fn, .sv, .out] s
  unfold State.refreshSatin
  dsimp only
  repeat' (first
    | with_reducible assumption
    | intro _
    | exact (rfl : _ = true)
    | with_reducible apply State.settleLine_moves
    | split)

theorem State.refreshPilot_moves {l_ : List Part} {z_ : State} {s : State} {l : ℕ} {e : ℕ} {prio : ℕ} {quiet : Bool} (h_ : Moves l_ z_ s) (hl_ : Part.sub [.regs, .qe, .fn, .gd, .sv, .out] l_ = true) :
    Moves l_ z_ (State.refreshPilot s l e prio quiet) := by
  refine h_.step ?_ hl_
  clear h_ hl_
  have h_ := Moves.refl [.regs, .qe, .fn, .gd, .sv, .out] s
  unfold State.refreshPilot
  repeat' (first
    | with_reducible assumption
    | intro _
    | with_reducible apply Moves.ite
    | exact (rfl : _ = true)
    | with_reducible apply State.addTimer_moves
    | with_reducible apply State.dropPilotTimers_moves
    | with_reducible apply State.setLine_moves
    | with_reducible apply State.svEvent_moves)

theorem State.refreshLine_moves {l_ : List Part} {z_ : State} {s : State} {l : ℕ} (h_ : Moves l_ z_ s) (hl_ : Part.sub [.regs, .qe, .fn, .gd, .sv, .out] l_ = true) :
    Moves l_ z_ (State.refreshLine s l) := by
  refine h_.step ?_ hl_
  clear h_ hl_
  have h_ := Moves.refl [.regs, .qe, .fn, .gd, .sv, .out] s
  unfold State.refreshLine
  repeat' (first
    | with_reducible assumption
    | intro _
    | exact (rfl : _ = true)
    | with_reducible apply State.pilotMeasured_moves
    | with_reducible apply State.refreshPilot_moves
    | with_reducible apply State.refreshSatin_moves
    | with_reducible apply State.setLine_moves
    | with_reducible apply State.figures_moves
    | with_reducible apply State.learnLine_moves
    | with_reducible apply State.lostLine_moves
    | with_reducible apply State.refreshBy_moves
    | split)

end Sys2Proof.Machine
end

