-- ==== Sys2Proof/Laws/SupMoves.lean ====
section
/-! SUPPORT. What the operations of Machine/Sup.lean may touch. -/

set_option Elab.async false
set_option linter.unusedTactic false
set_option linter.unreachableTactic false

namespace Sys2Proof.Machine

theorem State.sweepAgain_moves {l_ : List Part} {z_ : State} {s : State}  (h_ : Moves l_ z_ s) (hl_ : Part.sub [.regs, .gd] l_ = true) :
    Moves l_ z_ (State.sweepAgain s ) := by
  refine h_.step ?_ hl_
  clear h_ hl_
  have h_ := Moves.refl [.regs, .gd] s
  unfold State.sweepAgain
  repeat' (first
    | with_reducible assumption
    | intro _
    | with_reducible apply Moves.ite
    | exact (rfl : _ = true)
    | with_reducible apply State.addTimer_moves
    | split)

theorem State.burstEnd_moves {l_ : List Part} {z_ : State} {s : State} {l : Nat} (h_ : Moves l_ z_ s) (hl_ : Part.sub [.regs, .qe, .fn, .sv, .out] l_ = true) :
    Moves l_ z_ (State.burstEnd s l) := by
  refine h_.step ?_ hl_
  clear h_ hl_
  have h_ := Moves.refl [.regs, .qe, .fn, .sv, .out] s
  unfold State.burstEnd
  repeat' (first
    | with_reducible assumption
    | intro _
    | with_reducible apply Moves.ite
    | exact (rfl : _ = true)
    | with_reducible apply State.pilotBurst_moves
    | with_reducible apply State.setLine_moves
    | split)

theorem State.readBase_moves {l_ : List Part} {z_ : State} {s : State} {a : Audit} {ls : List Nat} (h_ : Moves l_ z_ s) (hl_ : Part.sub [.fn, .out] l_ = true) :
    Moves l_ z_ (State.readBase s a ls) := by
  refine h_.step ?_ hl_
  clear h_ hl_
  have h_ := Moves.refl [.fn, .out] s
  unfold State.readBase
  repeat' (first
    | with_reducible assumption
    | intro _
    | with_reducible apply Moves.ite
    | exact (rfl : _ = true)
    | with_reducible apply State.sendHost_moves
    | split)

theorem State.auditStart_moves {l_ : List Part} {z_ : State} {s : State} {r : EntryRef} {e : Sqe} {now : Nat} (h_ : Moves l_ z_ s) (hl_ : Part.sub [.regs, .lx, .qe, .bm, .xb, .fn, .gd, .sv, .pu, .ck, .free, .out] l_ = true) :
    Moves l_ z_ (State.auditStart s r e now) := by
  refine h_.step ?_ hl_
  clear h_ hl_
  have h_ := Moves.refl [.regs, .lx, .qe, .bm, .xb, .fn, .gd, .sv, .pu, .ck, .free, .out] s
  unfold State.auditStart
  repeat' (first
    | with_reducible assumption
    | intro _
    | with_reducible apply Moves.ite
    | exact (rfl : _ = true)
    | with_reducible apply State.abortAudit_moves
    | with_reducible apply State.completeM_moves
    | with_reducible apply State.setAudit_moves
    | with_reducible apply State.setF_moves
    | split)

theorem State.auditEyeLane_moves {l_ : List Part} {z_ : State} {s : State} {a : Audit} {g : EyeGrid} (h_ : Moves l_ z_ s) (hl_ : Part.sub [.regs, .lx] l_ = true) :
    Moves l_ z_ (State.auditEyeLane s a g).1 := by
  refine h_.step ?_ hl_
  clear h_ hl_
  have h_ := Moves.refl [.regs, .lx] s
  unfold State.auditEyeLane
  repeat' (first
    | with_reducible assumption
    | (extract_lets -underBinder +onlyGivenNames x_; first | (refine (fun hx_ : Moves [.regs, .lx] s x_ => ?_) ?_; (on_goal 1 => (clear_value x_; revert hx_; revert x_; intro _ _)); (on_goal 2 => subst x_)) | (clear_value x_; revert x_; intro _))
    | intro _
    | exact (rfl : _ = true)
    | with_reducible apply State.setGrade_moves
    | split)

theorem State.auditEyeComplete_moves {l_ : List Part} {z_ : State} {s : State} {grids : List EyeGrid} (h_ : Moves l_ z_ s) (hl_ : Part.sub [.regs, .lx, .qe, .bm, .xb, .fn, .sv, .pu, .free, .out] l_ = true) :
    Moves l_ z_ (State.auditEyeComplete s grids) := by
  refine h_.step ?_ hl_
  clear h_ hl_
  have h_ := Moves.refl [.regs, .lx, .qe, .bm, .xb, .fn, .sv, .pu, .free, .out] s
  unfold State.auditEyeComplete
  repeat' (first
    | with_reducible assumption
    | intro _
    | refine Moves.of_fst ?_ (by assumption)
    | with_reducible apply Moves.foldl_fst
    | exact (rfl : _ = true)
    | with_reducible apply State.auditEyeLane_moves
    | with_reducible apply State.endPart_moves
    | split)

theorem State.lineResult_moves {l_ : List Part} {z_ : State} {s : State} {a : Audit} {l : ℕ} {cls : ℕ} {flags : ℕ} {g : ℕ} {dev : ℤ} {mf : ℕ} (h_ : Moves l_ z_ s) (hl_ : Part.sub [.fn, .out] l_ = true) :
    Moves l_ z_ (State.lineResult s a l cls flags g dev mf) := by
  refine h_.step ?_ hl_
  clear h_ hl_
  have h_ := Moves.refl [.fn, .out] s
  unfold State.lineResult
  repeat' (first
    | with_reducible assumption
    | exact (rfl : _ = true)
    | with_reducible apply State.auditWrite_moves)

theorem State.startPart_moves {l_ : List Part} {z_ : State} {s : State} {a : Audit} (h_ : Moves l_ z_ s) (hl_ : Part.sub [.regs, .lx, .qe, .bm, .xb, .fn, .gd, .sv, .pu, .ck, .free, .out] l_ = true) :
    Moves l_ z_ (State.startPart s a) := by
  refine h_.step ?_ hl_
  clear h_ hl_
  have h_ := Moves.refl [.regs, .lx, .qe, .bm, .xb, .fn, .gd, .sv, .pu, .ck, .free, .out] s
  unfold State.startPart
  repeat' (first
    | with_reducible assumption
    | (extract_lets -underBinder +onlyGivenNames x_; first | (refine (fun hx_ : Moves [.regs, .lx, .qe, .bm, .xb, .fn, .gd, .sv, .pu, .ck, .free, .out] s x_ => ?_) ?_; (on_goal 1 => (clear_value x_; revert hx_; revert x_; intro _ _)); (on_goal 2 => subst x_)) | (clear_value x_; revert x_; intro _))
    | intro _
    | with_reducible apply Moves.foldl
    | exact (rfl : _ = true)
    | with_reducible apply State.addTimer_moves
    | with_reducible apply State.endPart_moves
    | with_reducible apply State.lineResult_moves
    | with_reducible apply State.setAudit_moves
    | with_reducible apply State.setB_moves
    | with_reducible apply State.setF_moves
    | with_reducible apply State.setLane_moves
    | split)

theorem State.auditPartStart_moves {l_ : List Part} {z_ : State} {s : State} (h_ : Moves l_ z_ s) (hl_ : Part.sub [.regs, .lx, .qe, .bm, .xb, .fn, .gd, .sv, .pu, .ck, .free, .out] l_ = true) :
    Moves l_ z_ (State.auditPartStart s) := by
  refine h_.step ?_ hl_
  clear h_ hl_
  have h_ := Moves.refl [.regs, .lx, .qe, .bm, .xb, .fn, .gd, .sv, .pu, .ck, .free, .out] s
  unfold State.auditPartStart
  repeat' (first
    | with_reducible assumption
    | exact (rfl : _ = true)
    | with_reducible apply State.startPart_moves
    | split)

theorem State.auditPrbsEnd_moves {l_ : List Part} {z_ : State} {s : State} (h_ : Moves l_ z_ s) (hl_ : Part.sub [.regs, .lx, .qe, .bm, .xb, .fn, .sv, .pu, .ck, .free, .out] l_ = true) :
    Moves l_ z_ (State.auditPrbsEnd s) := by
  refine h_.step ?_ hl_
  clear h_ hl_
  have h_ := Moves.refl [.regs, .lx, .qe, .bm, .xb, .fn, .sv, .pu, .ck, .free, .out] s
  unfold State.auditPrbsEnd
  repeat' (first
    | with_reducible assumption
    | intro _
    | with_reducible apply Moves.foldl_fst
    | exact (rfl : _ = true)
    | with_reducible apply State.endPart_moves
    | with_reducible apply State.endSpare_moves
    | with_reducible apply State.fresh_moves
    | with_reducible apply State.prbsErrors_moves
    | split)

theorem State.pilotTimer_moves {l_ : List Part} {z_ : State} {s : State} {seq : ℕ} (h_ : Moves l_ z_ s) (hl_ : Part.sub [.time, .regs, .gd, .sv] l_ = true) :
    Moves l_ z_ (State.pilotTimer s seq) := by
  refine h_.step ?_ hl_
  clear h_ hl_
  have h_ := Moves.refl [.time, .regs, .gd, .sv] s
  unfold State.pilotTimer
  repeat' (first
    | with_reducible assumption
    | (extract_lets -underBinder +onlyGivenNames x_; first | (refine (fun hx_ : Moves [.time, .regs, .gd, .sv] s x_ => ?_) ?_; (on_goal 1 => (clear_value x_; revert hx_; revert x_; intro _ _)); (on_goal 2 => subst x_)) | (clear_value x_; revert x_; intro _))
    | refine State.fireTimer_moves ?_ ?_ (by assumption)
    | intro _
    | exact (rfl : _ = true)
    | with_reducible apply State.addTimer_moves
    | with_reducible apply State.startPilot_moves
    | split)

theorem State.slotDone_moves {l_ : List Part} {z_ : State} {s : State} (h_ : Moves l_ z_ s) (hl_ : Part.sub [.regs, .qe, .bm, .xb, .fn, .sv, .pu, .free, .out] l_ = true) :
    Moves l_ z_ (State.slotDone s) := by
  refine h_.step ?_ hl_
  clear h_ hl_
  have h_ := Moves.refl [.regs, .qe, .bm, .xb, .fn, .sv, .pu, .free, .out] s
  unfold State.slotDone
  repeat' (first
    | with_reducible assumption
    | intro _
    | exact (rfl : _ = true)
    | with_reducible apply State.endPart_moves
    | split)

theorem State.slotResult_moves {l_ : List Part} {z_ : State} {s : State} {a : Audit} {l : ℕ} {base : ℕ} (h_ : Moves l_ z_ s) (hl_ : Part.sub [.regs, .fn, .sv, .out] l_ = true) :
    Moves l_ z_ (State.slotResult s a l base) := by
  refine h_.step ?_ hl_
  clear h_ hl_
  have h_ := Moves.refl [.regs, .fn, .sv, .out] s
  unfold State.slotResult
  repeat' (first
    | with_reducible assumption
    | intro _
    | exact (rfl : _ = true)
    | with_reducible apply State.lineResult_moves
    | with_reducible apply State.setAudit_moves
    | with_reducible apply State.setLine_moves
    | split)

theorem State.sweepEnd_moves {l_ : List Part} {z_ : State} {s : State} {l : Nat} (h_ : Moves l_ z_ s) (hl_ : Part.sub [.regs, .qe, .bm, .xb, .fn, .sv, .pu, .free, .out] l_ = true) :
    Moves l_ z_ (State.sweepEnd s l) := by
  refine h_.step ?_ hl_
  clear h_ hl_
  have h_ := Moves.refl [.regs, .qe, .bm, .xb, .fn, .sv, .pu, .free, .out] s
  unfold State.sweepEnd
  dsimp only
  repeat' (first
    | with_reducible assumption
    | intro _
    | with_reducible apply Moves.ite
    | exact (rfl : _ = true)
    | with_reducible apply State.setLine_moves
    | with_reducible apply State.slotDone_moves
    | with_reducible apply State.slotResult_moves
    | split)

theorem State.pilotWindowEnd_moves {l_ : List Part} {z_ : State} {s : State} {l : ℕ} (h_ : Moves l_ z_ s) (hl_ : Part.sub [.regs, .qe, .bm, .xb, .fn, .sv, .pu, .free, .out] l_ = true) :
    Moves l_ z_ (State.pilotWindowEnd s l) := by
  refine h_.step ?_ hl_
  clear h_ hl_
  have h_ := Moves.refl [.regs, .qe, .bm, .xb, .fn, .sv, .pu, .free, .out] s
  unfold State.pilotWindowEnd
  repeat' (first
    | with_reducible assumption
    | (extract_lets -underBinder +onlyGivenNames x_; first | (refine (fun hx_ : Moves [.regs, .qe, .bm, .xb, .fn, .sv, .pu, .free, .out] s x_ => ?_) ?_; (on_goal 1 => (clear_value x_; revert hx_; revert x_; intro _ _)); (on_goal 2 => subst x_)) | (clear_value x_; revert x_; intro _))
    | intro _
    | exact (rfl : _ = true)
    | with_reducible apply State.pilotMeasured_moves
    | with_reducible apply State.burstEnd_moves
    | with_reducible apply State.sweepEnd_moves
    | split)

theorem State.refreshEnd_moves {l_ : List Part} {z_ : State} {s : State} (h_ : Moves l_ z_ s) (hl_ : Part.sub [.regs, .qe, .fn, .gd, .sv, .out] l_ = true) :
    Moves l_ z_ (State.refreshEnd s) := by
  refine h_.step ?_ hl_
  clear h_ hl_
  have h_ := Moves.refl [.regs, .qe, .fn, .gd, .sv, .out] s
  unfold State.refreshEnd
  repeat' (first
    | with_reducible assumption
    | intro _
    | with_reducible apply Moves.ite
    | with_reducible apply Moves.foldl
    | exact (rfl : _ = true)
    | with_reducible apply State.refreshLine_moves
    | with_reducible apply State.showLines_moves
    | with_reducible apply State.sweepAgain_moves
    | with_reducible apply Moves.sv)

theorem State.startSlot_moves {l_ : List Part} {z_ : State} {s : State} {a : Audit} {e : ℕ} {base : List Byte} (h_ : Moves l_ z_ s) (hl_ : Part.sub [.regs, .qe, .bm, .xb, .fn, .gd, .sv, .pu, .free, .out] l_ = true) :
    Moves l_ z_ (State.startSlot s a e base) := by
  refine h_.step ?_ hl_
  clear h_ hl_
  have h_ := Moves.refl [.regs, .qe, .bm, .xb, .fn, .gd, .sv, .pu, .free, .out] s
  unfold State.startSlot
  repeat' (first
    | with_reducible assumption
    | intro _
    | with_reducible apply Moves.foldl_fst
    | exact (rfl : _ = true)
    | with_reducible apply State.addTimer_moves
    | with_reducible apply State.lineResult_moves
    | with_reducible apply State.setAudit_moves
    | with_reducible apply State.slotDone_moves
    | with_reducible apply State.readBase_moves
    | with_reducible apply State.startSweep_moves
    | split)

theorem State.sweepTimer_moves {l_ : List Part} {z_ : State} {s : State} {seq : ℕ} {base : List Byte} (h_ : Moves l_ z_ s) (hl_ : Part.sub [.time, .regs, .qe, .bm, .xb, .fn, .gd, .sv, .pu, .free, .out] l_ = true) :
    Moves l_ z_ (State.sweepTimer s seq base) := by
  refine h_.step ?_ hl_
  clear h_ hl_
  have h_ := Moves.refl [.time, .regs, .qe, .bm, .xb, .fn, .gd, .sv, .pu, .free, .out] s
  unfold State.sweepTimer
  repeat' (first
    | with_reducible assumption
    | refine State.fireTimer_moves ?_ ?_ (by assumption)
    | exact (rfl : _ = true)
    | with_reducible apply State.startSlot_moves
    | split)

theorem State.twillSwapPhase_moves {l_ : List Part} {z_ : State} {s : State} (h_ : Moves l_ z_ s) (hl_ : Part.sub [.regs, .qe, .bm, .xb, .fn, .sv, .pu, .free, .out] l_ = true) :
    Moves l_ z_ (State.twillSwapPhase s) := by
  refine h_.step ?_ hl_
  clear h_ hl_
  have h_ := Moves.refl [.regs, .qe, .bm, .xb, .fn, .sv, .pu, .free, .out] s
  unfold State.twillSwapPhase
  repeat' (first
    | with_reducible assumption
    | (extract_lets -underBinder +onlyGivenNames x_; (clear_value x_; revert x_; intro _))
    | intro _
    | exact (rfl : _ = true)
    | with_reducible apply State.endPart_moves
    | with_reducible apply State.setAudit_moves
    | with_reducible apply State.closeHub_moves
    | split)

theorem execAuditEyeComplete_moves {t_ : State} {grids : List EyeGrid} {s : State} (e_ : execAuditEyeComplete grids s = .next t_) : Moves [.regs, .lx, .qe, .bm, .xb, .fn, .sv, .pu, .free, .out] s t_ := by
  have h_ := Moves.refl [.regs, .lx, .qe, .bm, .xb, .fn, .sv, .pu, .free, .out] s
  unfold execAuditEyeComplete at e_
  injection e_ with e_
  subst e_
  repeat' (first
    | with_reducible assumption
    | exact (rfl : _ = true)
    | with_reducible apply State.auditEyeComplete_moves)

theorem execAuditPartStart_moves {t_ : State} {s : State} (e_ : execAuditPartStart s = .next t_) : Moves [.regs, .lx, .qe, .bm, .xb, .fn, .gd, .sv, .pu, .ck, .free, .out] s t_ := by
  have h_ := Moves.refl [.regs, .lx, .qe, .bm, .xb, .fn, .gd, .sv, .pu, .ck, .free, .out] s
  unfold execAuditPartStart at e_
  injection e_ with e_
  subst e_
  repeat' (first
    | with_reducible assumption
    | exact (rfl : _ = true)
    | with_reducible apply State.auditPartStart_moves)

theorem execAuditPrbsEnd_moves {t_ : State} {s : State} (e_ : execAuditPrbsEnd s = .next t_) : Moves [.regs, .lx, .qe, .bm, .xb, .fn, .sv, .pu, .ck, .free, .out] s t_ := by
  have h_ := Moves.refl [.regs, .lx, .qe, .bm, .xb, .fn, .sv, .pu, .ck, .free, .out] s
  unfold execAuditPrbsEnd at e_
  injection e_ with e_
  subst e_
  repeat' (first
    | with_reducible assumption
    | exact (rfl : _ = true)
    | with_reducible apply State.auditPrbsEnd_moves)

theorem execPilotTimer_moves {t_ : State} {seq : ℕ} {s : State} (e_ : execPilotTimer seq s = .next t_) : Moves [.time, .regs, .gd, .sv] s t_ := by
  have h_ := Moves.refl [.time, .regs, .gd, .sv] s
  unfold execPilotTimer at e_
  injection e_ with e_
  subst e_
  repeat' (first
    | with_reducible assumption
    | exact (rfl : _ = true)
    | with_reducible apply State.pilotTimer_moves)

theorem execPilotWindowEnd_moves {t_ : State} {line : Half} {s : State} (e_ : execPilotWindowEnd line s = .next t_) : Moves [.regs, .qe, .bm, .xb, .fn, .sv, .pu, .free, .out] s t_ := by
  have h_ := Moves.refl [.regs, .qe, .bm, .xb, .fn, .sv, .pu, .free, .out] s
  unfold execPilotWindowEnd at e_
  injection e_ with e_
  subst e_
  repeat' (first
    | with_reducible assumption
    | exact (rfl : _ = true)
    | with_reducible apply State.pilotWindowEnd_moves
    | with_reducible apply State.showLines_moves)

theorem execRefreshEnd_moves {t_ : State} {s : State} (e_ : execRefreshEnd s = .next t_) : Moves [.regs, .qe, .fn, .gd, .sv, .out] s t_ := by
  have h_ := Moves.refl [.regs, .qe, .fn, .gd, .sv, .out] s
  unfold execRefreshEnd at e_
  injection e_ with e_
  subst e_
  repeat' (first
    | with_reducible assumption
    | exact (rfl : _ = true)
    | with_reducible apply State.refreshEnd_moves)

theorem execSvBacklogDrain_moves {t_ : State} {s : State} (e_ : execSvBacklogDrain s = .next t_) : Moves [.regs, .qe, .fn, .sv, .out] s t_ := by
  have h_ := Moves.refl [.regs, .qe, .fn, .sv, .out] s
  unfold execSvBacklogDrain at e_
  injection e_ with e_
  subst e_
  repeat' (first
    | with_reducible assumption
    | exact (rfl : _ = true)
    | with_reducible apply State.drainSv_moves
    | with_reducible apply State.showSv_moves)

theorem execSweepSlotTimer_moves {t_ : State} {seq : ℕ} {base : List Byte} {s : State} (e_ : execSweepSlotTimer seq base s = .next t_) : Moves [.time, .regs, .qe, .bm, .xb, .fn, .gd, .sv, .pu, .free, .out] s t_ := by
  have h_ := Moves.refl [.time, .regs, .qe, .bm, .xb, .fn, .gd, .sv, .pu, .free, .out] s
  unfold execSweepSlotTimer at e_
  injection e_ with e_
  subst e_
  repeat' (first
    | with_reducible assumption
    | exact (rfl : _ = true)
    | with_reducible apply State.sweepTimer_moves)

theorem execTwillSwapPhase_moves {t_ : State} {s : State} (e_ : execTwillSwapPhase s = .next t_) : Moves [.regs, .qe, .bm, .xb, .fn, .sv, .pu, .free, .out] s t_ := by
  have h_ := Moves.refl [.regs, .qe, .bm, .xb, .fn, .sv, .pu, .free, .out] s
  unfold execTwillSwapPhase at e_
  injection e_ with e_
  subst e_
  repeat' (first
    | with_reducible assumption
    | exact (rfl : _ = true)
    | with_reducible apply State.twillSwapPhase_moves)

end Sys2Proof.Machine
end

