-- ==== Sys2Proof/Laws/GraphMoves.lean ====
section
/-! SUPPORT. What the operations of Machine/Graph.lean may touch. -/

set_option Elab.async false
set_option linter.unusedTactic false
set_option linter.unreachableTactic false

namespace Sys2Proof.Machine

theorem State.releaseDone_moves {l_ : List Part} {z_ : State} {s : State}  (h_ : Moves l_ z_ s) (hl_ : Part.sub [.regs, .ebm, .mre, .gd, .sv] l_ = true) :
    Moves l_ z_ (State.releaseDone s ) := by
  refine h_.step ?_ hl_
  clear h_ hl_
  have h_ := Moves.refl [.regs, .ebm, .mre, .gd, .sv] s
  unfold State.releaseDone
  repeat' (first
    | with_reducible assumption
    | intro _
    | with_reducible apply Moves.ite
    | with_reducible apply Moves.foldl
    | exact (rfl : _ = true)
    | with_reducible apply State.effect_moves
    | split)

theorem State.admitCfg_moves {l_ : List Part} {z_ : State} {s : State} {v : Word} (h_ : Moves l_ z_ s) (hl_ : Part.sub [.regs, .pu, .out] l_ = true) :
    Moves l_ z_ (State.admitCfg s v) := by
  refine h_.step ?_ hl_
  clear h_ hl_
  have h_ := Moves.refl [.regs, .pu, .out] s
  unfold State.admitCfg
  repeat' (first
    | with_reducible assumption
    | (extract_lets -underBinder +onlyGivenNames x_; (clear_value x_; revert x_; intro _))
    | intro _
    | refine Moves.of_fst ?_ (by assumption)
    | with_reducible apply Moves.ite
    | with_reducible apply Moves.foldl
    | with_reducible apply Moves.foldl_fst
    | exact (rfl : _ = true)
    | with_reducible apply State.pairHold_moves
    | with_reducible apply State.setB_moves
    | with_reducible apply State.writeReg_moves)

theorem State.affinityOver_moves {l_ : List Part} {z_ : State} {s : State} {n : ℕ} (h_ : Moves l_ z_ s) (hl_ : Part.sub [.gd] l_ = true) :
    Moves l_ z_ (State.affinityOver s n) := by
  refine h_.step ?_ hl_
  clear h_ hl_
  have h_ := Moves.refl [.gd] s
  unfold State.affinityOver
  repeat' (first
    | with_reducible assumption
    | (extract_lets -underBinder +onlyGivenNames x_; (clear_value x_; revert x_; intro _))
    | intro _
    | with_reducible apply Moves.ite
    | with_reducible apply Moves.foldl
    | exact (rfl : _ = true)
    | split
    | with_reducible apply Moves.gd)

theorem State.setTap_moves {l_ : List Part} {z_ : State} {s : State} {t : ℕ} {r : TapSt} (h_ : Moves l_ z_ s) (hl_ : Part.sub [.mre] l_ = true) :
    Moves l_ z_ (State.setTap s t r) := by
  refine h_.step ?_ hl_
  clear h_ hl_
  have h_ := Moves.refl [.mre] s
  unfold State.setTap
  repeat' (first
    | with_reducible assumption
    | (extract_lets -underBinder +onlyGivenNames x_; (clear_value x_; revert x_; intro _))
    | intro _
    | with_reducible apply Moves.ite
    | with_reducible apply Moves.foldl
    | exact (rfl : _ = true)
    | split
    | with_reducible apply Moves.mre)

theorem State.noTimer_moves {l_ : List Part} {z_ : State} {s : State} {r : EntryRef} {e : Sqe} (h_ : Moves l_ z_ s) (hl_ : Part.sub [.regs, .qe, .bm, .xb, .fn, .pu, .out] l_ = true) :
    Moves l_ z_ (State.noTimer s r e) := by
  refine h_.step ?_ hl_
  clear h_ hl_
  have h_ := Moves.refl [.regs, .qe, .bm, .xb, .fn, .pu, .out] s
  unfold State.noTimer
  repeat' (first
    | with_reducible assumption
    | intro _
    | with_reducible apply Moves.ite
    | with_reducible apply Moves.foldl
    | exact (rfl : _ = true)
    | with_reducible apply State.completeM_moves
    | with_reducible apply State.setB_moves)

theorem State.clipPlay_moves {l_ : List Part} {z_ : State} {s : State} {r : EntryRef} {e : Sqe} {now : Nat} (h_ : Moves l_ z_ s) (hl_ : Part.sub [.regs, .ebm, .qe, .bm, .xb, .fn, .mre, .gd, .pu, .out] l_ = true) :
    Moves l_ z_ (State.clipPlay s r e now) := by
  refine h_.step ?_ hl_
  clear h_ hl_
  have h_ := Moves.refl [.regs, .ebm, .qe, .bm, .xb, .fn, .mre, .gd, .pu, .out] s
  unfold State.clipPlay
  repeat' (first
    | with_reducible assumption
    | (extract_lets -underBinder +onlyGivenNames x_; first | (refine (fun hx_ : Moves [.regs, .ebm, .qe, .bm, .xb, .fn, .mre, .gd, .pu, .out] s x_ => ?_) ?_; (on_goal 1 => (clear_value x_; revert hx_; revert x_; intro _ _)); (on_goal 2 => subst x_)) | (clear_value x_; revert x_; intro _))
    | intro _
    | with_reducible apply Moves.ite
    | exact (rfl : _ = true)
    | with_reducible apply State.addTimer_moves
    | with_reducible apply State.completeM_moves
    | with_reducible apply State.noTimer_moves
    | with_reducible apply State.setGen_moves
    | with_reducible apply State.takeGenSlot_moves
    | split)

theorem State.clipStop_moves {l_ : List Part} {z_ : State} {s : State} {r : EntryRef} {e : Sqe} {now : Nat} (h_ : Moves l_ z_ s) (hl_ : Part.sub [.regs, .qe, .bm, .xb, .fn, .gd, .pu, .out] l_ = true) :
    Moves l_ z_ (State.clipStop s r e now) := by
  refine h_.step ?_ hl_
  clear h_ hl_
  have h_ := Moves.refl [.regs, .qe, .bm, .xb, .fn, .gd, .pu, .out] s
  unfold State.clipStop
  repeat' (first
    | with_reducible assumption
    | intro _
    | with_reducible apply Moves.ite
    | exact (rfl : _ = true)
    | with_reducible apply State.addTimer_moves
    | with_reducible apply State.completeM_moves
    | with_reducible apply State.noTimer_moves
    | split)

theorem State.refuseLoad_moves {l_ : List Part} {z_ : State} {s : State} {r : EntryRef} {e : Sqe} {x : Refuse} (h_ : Moves l_ z_ s) (hl_ : Part.sub [.regs, .qe, .bm, .xb, .fn, .pu, .out] l_ = true) :
    Moves l_ z_ (State.refuseLoad s r e x) := by
  refine h_.step ?_ hl_
  clear h_ hl_
  have h_ := Moves.refl [.regs, .qe, .bm, .xb, .fn, .pu, .out] s
  unfold State.refuseLoad
  repeat' (first
    | with_reducible assumption
    | intro _
    | with_reducible apply Moves.ite
    | with_reducible apply Moves.foldl
    | exact (rfl : _ = true)
    | with_reducible apply State.completeM_moves)

theorem State.loadImage_moves {l_ : List Part} {z_ : State} {s : State} {r : EntryRef} {e : Sqe} {img : ImageFile} (h_ : Moves l_ z_ s) (hl_ : Part.sub [.regs, .qe, .bm, .xb, .fn, .mre, .pu, .out] l_ = true) :
    Moves l_ z_ (State.loadImage s r e img) := by
  refine h_.step ?_ hl_
  clear h_ hl_
  have h_ := Moves.refl [.regs, .qe, .bm, .xb, .fn, .mre, .pu, .out] s
  unfold State.loadImage
  repeat' (first
    | with_reducible assumption
    | (extract_lets -underBinder +onlyGivenNames x_; first | (refine (fun hx_ : Moves [.regs, .qe, .bm, .xb, .fn, .mre, .pu, .out] s x_ => ?_) ?_; (on_goal 1 => (clear_value x_; revert hx_; revert x_; intro _ _)); (on_goal 2 => subst x_)) | (clear_value x_; revert x_; intro _))
    | intro _
    | with_reducible apply Moves.ite
    | with_reducible apply Moves.foldl
    | exact (rfl : _ = true)
    | with_reducible apply State.completeM_moves
    | with_reducible apply State.refuseLoad_moves
    | with_reducible apply State.setReg_moves
    | split
    | with_reducible apply Moves.mre)

theorem State.graphLoad_moves {l_ : List Part} {z_ : State} {s : State} {r : EntryRef} {e : Sqe} {img : ImageFile} (h_ : Moves l_ z_ s) (hl_ : Part.sub [.regs, .qe, .bm, .xb, .fn, .mre, .pu, .out] l_ = true) :
    Moves l_ z_ (State.graphLoad s r e img) := by
  refine h_.step ?_ hl_
  clear h_ hl_
  have h_ := Moves.refl [.regs, .qe, .bm, .xb, .fn, .mre, .pu, .out] s
  unfold State.graphLoad
  repeat' (first
    | with_reducible assumption
    | (extract_lets -underBinder +onlyGivenNames x_; (clear_value x_; revert x_; intro _))
    | intro _
    | with_reducible apply Moves.ite
    | with_reducible apply Moves.foldl
    | exact (rfl : _ = true)
    | with_reducible apply State.loadImage_moves
    | split
    | with_reducible apply Moves.mre)

theorem State.showSwap_moves {l_ : List Part} {z_ : State} {s : State} (h_ : Moves l_ z_ s) (hl_ : Part.sub [.regs] l_ = true) :
    Moves l_ z_ (State.showSwap s) := by
  refine h_.step ?_ hl_
  clear h_ hl_
  have h_ := Moves.refl [.regs] s
  unfold State.showSwap
  repeat' (first
    | with_reducible assumption
    | intro _
    | with_reducible apply Moves.ite
    | with_reducible apply Moves.foldl
    | exact (rfl : _ = true)
    | with_reducible apply State.setB_moves
    | with_reducible apply State.setF_moves
    | split)

theorem State.graphSwap_moves {l_ : List Part} {z_ : State} {s : State} {r : EntryRef} {e : Sqe} {now : Nat} (h_ : Moves l_ z_ s) (hl_ : Part.sub [.regs, .qe, .bm, .xb, .fn, .mre, .pu, .out] l_ = true) :
    Moves l_ z_ (State.graphSwap s r e now) := by
  refine h_.step ?_ hl_
  clear h_ hl_
  have h_ := Moves.refl [.regs, .qe, .bm, .xb, .fn, .mre, .pu, .out] s
  unfold State.graphSwap
  repeat' (first
    | with_reducible assumption
    | intro _
    | with_reducible apply Moves.ite
    | exact (rfl : _ = true)
    | with_reducible apply State.completeM_moves
    | with_reducible apply State.showSwap_moves
    | split
    | with_reducible apply Moves.mre)

theorem State.sweepTaps_moves {l_ : List Part} {z_ : State} {s : State} (h_ : Moves l_ z_ s) (hl_ : Part.sub [.regs, .qe, .bm, .xb, .fn, .mre, .out] l_ = true) :
    Moves l_ z_ (State.sweepTaps s) := by
  refine h_.step ?_ hl_
  clear h_ hl_
  have h_ := Moves.refl [.regs, .qe, .bm, .xb, .fn, .mre, .out] s
  unfold State.sweepTaps
  repeat' (first
    | with_reducible assumption
    | (extract_lets -underBinder +onlyGivenNames x_; (refine (fun hx_ : Moves [.regs, .qe, .bm, .xb, .fn, .mre, .out] s x_ => ?_) ?_; (on_goal 1 => (clear_value x_; revert hx_; revert x_; intro _ _)); (on_goal 2 => subst x_)))
    | intro _
    | with_reducible apply Moves.ite
    | with_reducible apply Moves.foldl
    | exact (rfl : _ = true)
    | with_reducible apply State.endEntry_moves
    | with_reducible apply State.setTap_moves)

theorem State.tapBuffer_moves {l_ : List Part} {z_ : State} {s : State} {r : EntryRef} {e : Sqe} (h_ : Moves l_ z_ s) (hl_ : Part.sub [.regs, .qe, .bm, .xb, .fn, .mre, .out] l_ = true) :
    Moves l_ z_ (State.tapBuffer s r e) := by
  refine h_.step ?_ hl_
  clear h_ hl_
  have h_ := Moves.refl [.regs, .qe, .bm, .xb, .fn, .mre, .out] s
  unfold State.tapBuffer
  repeat' (first
    | with_reducible assumption
    | (extract_lets -underBinder +onlyGivenNames x_; (clear_value x_; revert x_; intro _))
    | intro _
    | with_reducible apply Moves.ite
    | with_reducible apply Moves.foldl
    | exact (rfl : _ = true)
    | with_reducible apply State.completeRef_moves
    | with_reducible apply State.setTap_moves)

theorem State.clipRepeatFire_moves {l_ : List Part} {z_ : State} {s : State} {seq : ℕ} (h_ : Moves l_ z_ s) (hl_ : Part.sub [.time, .regs, .mre, .gd] l_ = true) :
    Moves l_ z_ (State.clipRepeatFire s seq) := by
  refine h_.step ?_ hl_
  clear h_ hl_
  have h_ := Moves.refl [.time, .regs, .mre, .gd] s
  unfold State.clipRepeatFire
  repeat' (first
    | with_reducible assumption
    | (extract_lets -underBinder +onlyGivenNames x_; (refine (fun hx_ : Moves [.time, .regs, .mre, .gd] s x_ => ?_) ?_; (on_goal 1 => (clear_value x_; revert hx_; revert x_; intro _ _)); (on_goal 2 => subst x_)))
    | intro _
    | refine State.fireTimer_moves ?_ ?_ (by assumption)
    | with_reducible apply Moves.ite
    | with_reducible apply Moves.foldl
    | exact (rfl : _ = true)
    | with_reducible apply State.addTimer_moves
    | with_reducible apply State.playable_moves
    | split)

theorem State.clipStartFire_moves {l_ : List Part} {z_ : State} {s : State} {seq : ℕ} (h_ : Moves l_ z_ s) (hl_ : Part.sub [.time, .regs, .mre, .gd] l_ = true) :
    Moves l_ z_ (State.clipStartFire s seq) := by
  refine h_.step ?_ hl_
  clear h_ hl_
  have h_ := Moves.refl [.time, .regs, .mre, .gd] s
  unfold State.clipStartFire
  repeat' (first
    | with_reducible assumption
    | intro _
    | refine State.fireTimer_moves ?_ ?_ (by assumption)
    | with_reducible apply Moves.ite
    | with_reducible apply Moves.foldl
    | exact (rfl : _ = true)
    | with_reducible apply State.playable_moves
    | split)

theorem State.clipStopFire_moves {l_ : List Part} {z_ : State} {s : State} {seq : ℕ} (h_ : Moves l_ z_ s) (hl_ : Part.sub [.time, .regs, .ebm, .bus, .qe, .bm, .xb, .fn, .mre, .gd, .pu, .out] l_ = true) :
    Moves l_ z_ (State.clipStopFire s seq) := by
  refine h_.step ?_ hl_
  clear h_ hl_
  have h_ := Moves.refl [.time, .regs, .ebm, .bus, .qe, .bm, .xb, .fn, .mre, .gd, .pu, .out] s
  unfold State.clipStopFire
  repeat' (first
    | with_reducible assumption
    | (extract_lets -underBinder +onlyGivenNames x_; first | (refine (fun hx_ : Moves [.time, .regs, .ebm, .bus, .qe, .bm, .xb, .fn, .mre, .gd, .pu, .out] s x_ => ?_) ?_; (on_goal 1 => (clear_value x_; revert hx_; revert x_; intro _ _)); (on_goal 2 => subst x_)) | (clear_value x_; revert x_; intro _))
    | intro _
    | refine State.fireTimer_moves ?_ ?_ (by assumption)
    | with_reducible apply Moves.ite
    | with_reducible apply Moves.foldl
    | exact (rfl : _ = true)
    | with_reducible apply State.setGen_moves
    | with_reducible apply State.stopGen_moves
    | with_reducible apply State.clipStop_moves
    | split)

theorem State.enterNotice_moves {l_ : List Part} {z_ : State} {s : State} {q : ℕ} {v : Notice} (h_ : Moves l_ z_ s) (hl_ : Part.sub [.regs, .mre, .gd] l_ = true) :
    Moves l_ z_ (State.enterNotice s q v) := by
  refine h_.step ?_ hl_
  clear h_ hl_
  have h_ := Moves.refl [.regs, .mre, .gd] s
  unfold State.enterNotice
  repeat' (first
    | with_reducible assumption
    | (extract_lets -underBinder +onlyGivenNames x_; first | (refine (fun hx_ : Moves [.regs, .mre, .gd] s x_ => ?_) ?_; (on_goal 1 => (clear_value x_; revert hx_; revert x_; intro _ _)); (on_goal 2 => subst x_)) | (clear_value x_; revert x_; intro _))
    | intro _
    | with_reducible apply Moves.ite
    | with_reducible apply Moves.foldl
    | exact (rfl : _ = true)
    | with_reducible apply State.countFilled_moves
    | with_reducible apply State.createOp_moves
    | with_reducible apply State.showQ_moves
    | split
    | with_reducible apply Moves.gd)

theorem State.heldEnter_moves {l_ : List Part} {z_ : State} {s : State} {q : ℕ} (h_ : Moves l_ z_ s) (hl_ : Part.sub [.regs, .mre, .gd] l_ = true) :
    Moves l_ z_ (State.heldEnter s q) := by
  refine h_.step ?_ hl_
  clear h_ hl_
  have h_ := Moves.refl [.regs, .mre, .gd] s
  unfold State.heldEnter
  repeat' (first
    | with_reducible assumption
    | intro _
    | with_reducible apply Moves.ite
    | with_reducible apply Moves.foldl
    | exact (rfl : _ = true)
    | with_reducible apply State.enterNotice_moves
    | split)

theorem State.keepGen_moves {l_ : List Part} {z_ : State} {s : State} {old : List (ℕ × GenMode)} {new : List (ℕ × GenMode)} {g : ℕ} (h_ : Moves l_ z_ s) (hl_ : Part.sub [.mre] l_ = true) :
    Moves l_ z_ (State.keepGen s old new g) := by
  refine h_.step ?_ hl_
  clear h_ hl_
  have h_ := Moves.refl [.mre] s
  unfold State.keepGen
  repeat' (first
    | with_reducible assumption
    | intro _
    | with_reducible apply Moves.ite
    | with_reducible apply Moves.foldl
    | exact (rfl : _ = true)
    | with_reducible apply State.setGen_moves)

theorem State.loadResume_moves {l_ : List Part} {z_ : State} {s : State} {img : ImageFile} (h_ : Moves l_ z_ s) (hl_ : Part.sub [.regs, .qe, .bm, .xb, .fn, .mre, .pu, .out] l_ = true) :
    Moves l_ z_ (State.loadResume s img) := by
  refine h_.step ?_ hl_
  clear h_ hl_
  have h_ := Moves.refl [.regs, .qe, .bm, .xb, .fn, .mre, .pu, .out] s
  unfold State.loadResume
  repeat' (first
    | with_reducible assumption
    | (extract_lets -underBinder +onlyGivenNames x_; (clear_value x_; revert x_; intro _))
    | intro _
    | with_reducible apply Moves.ite
    | with_reducible apply Moves.foldl
    | exact (rfl : _ = true)
    | with_reducible apply State.loadImage_moves
    | split
    | with_reducible apply Moves.mre)

theorem State.obsBegin_moves {l_ : List Part} {z_ : State} {s : State} (h_ : Moves l_ z_ s) (hl_ : Part.sub [.gd] l_ = true) :
    Moves l_ z_ (State.obsBegin s) := by
  refine h_.step ?_ hl_
  clear h_ hl_
  have h_ := Moves.refl [.gd] s
  unfold State.obsBegin
  repeat' (first
    | with_reducible assumption
    | (extract_lets -underBinder +onlyGivenNames x_; (clear_value x_; revert x_; intro _))
    | intro _
    | with_reducible apply Moves.ite
    | with_reducible apply Moves.foldl
    | exact (rfl : _ = true)
    | split
    | with_reducible apply Moves.gd)

theorem State.obsCtrl_moves {l_ : List Part} {z_ : State} {s : State} {v : Word} (h_ : Moves l_ z_ s) (hl_ : Part.sub [.regs, .gd] l_ = true) :
    Moves l_ z_ (State.obsCtrl s v) := by
  refine h_.step ?_ hl_
  clear h_ hl_
  have h_ := Moves.refl [.regs, .gd] s
  unfold State.obsCtrl
  repeat' (first
    | with_reducible assumption
    | (extract_lets -underBinder +onlyGivenNames x_; first | (refine (fun hx_ : Moves [.regs, .gd] s x_ => ?_) ?_; (on_goal 1 => (clear_value x_; revert hx_; revert x_; intro _ _)); (on_goal 2 => subst x_)) | (clear_value x_; revert x_; intro _))
    | intro _
    | with_reducible apply Moves.ite
    | with_reducible apply Moves.foldl
    | exact (rfl : _ = true)
    | with_reducible apply State.writeReg_moves
    | split
    | with_reducible apply Moves.gd)

theorem State.obsMark_moves {l_ : List Part} {z_ : State} {s : State} (h_ : Moves l_ z_ s) (hl_ : Part.sub [.gd, .free] l_ = true) :
    Moves l_ z_ (State.obsMark s) := by
  refine h_.step ?_ hl_
  have h := Moves.refl [.gd, .free] s
  unfold State.obsMark
  split
  · exact State.obsBegin_moves h rfl
  · rename_i o _
    exact Moves.ite (fun _ => State.obsBegin_moves (Moves.freeUp (Moves.gd h rfl { s.gd with obs := none, obsEnd := some { o with base := s.free } })
      rfl (s.free + 256) (Nat.le_add_right _ _)) rfl) (fun _ => h)

theorem State.obsClose_moves {l_ : List Part} {z_ : State} {s : State} (h_ : Moves l_ z_ s) (hl_ : Part.sub [.regs, .gd] l_ = true) :
    Moves l_ z_ (State.obsClose s) := by
  refine h_.step ?_ hl_
  clear h_ hl_
  have h_ := Moves.refl [.regs, .gd] s
  unfold State.obsClose
  repeat' (first
    | with_reducible assumption
    | (extract_lets -underBinder +onlyGivenNames x_; first | (refine (fun hx_ : Moves [.regs, .gd] s x_ => ?_) ?_; (on_goal 1 => (clear_value x_; revert hx_; revert x_; intro _ _)); (on_goal 2 => subst x_)) | (clear_value x_; revert x_; intro _))
    | intro _
    | with_reducible apply Moves.ite
    | with_reducible apply Moves.foldl
    | exact (rfl : _ = true)
    | with_reducible apply State.setB_moves
    | with_reducible apply State.setF_moves
    | split
    | with_reducible apply Moves.gd)

theorem State.operationDone_moves {l_ : List Part} {z_ : State} {s : State} {g : ℕ} {hits : List OpHit} {stall : ℕ} (h_ : Moves l_ z_ s) (hl_ : Part.sub [.regs, .ts, .ebm, .bus, .qe, .bm, .xb, .fn, .mre, .gd, .sv, .pu, .pm, .free, .out] l_ = true) :
    Moves l_ z_ (State.operationDone s g hits stall) := by
  refine h_.step ?_ hl_
  clear h_ hl_
  have h_ := Moves.refl [.regs, .ts, .ebm, .bus, .qe, .bm, .xb, .fn, .mre, .gd, .sv, .pu, .pm, .free, .out] s
  unfold State.operationDone
  repeat' (first
    | with_reducible assumption
    | (extract_lets -underBinder +onlyGivenNames x_; (refine (fun hx_ : Moves [.regs, .ts, .ebm, .bus, .qe, .bm, .xb, .fn, .mre, .gd, .sv, .pu, .pm, .free, .out] s x_ => ?_) ?_; (on_goal 1 => (clear_value x_; revert hx_; revert x_; intro _ _)); (on_goal 2 => subst x_)))
    | intro _
    | refine Moves.of_fst ?_ (by assumption)
    | with_reducible apply Moves.ite
    | with_reducible apply Moves.foldl
    | with_reducible apply Moves.foldl_fst
    | exact (rfl : _ = true)
    | with_reducible apply State.completeOld_moves
    | with_reducible apply State.completeOp_moves
    | with_reducible apply State.obsUpd_moves
    | with_reducible apply State.opHits_moves
    | with_reducible apply State.setRun_moves
    | with_reducible apply State.wake_moves
    | with_reducible apply State.when_moves
    | with_reducible apply State.showRelease_moves
    | split)

theorem State.refillNotice_moves {l_ : List Part} {z_ : State} {s : State} {g : ℕ} (h_ : Moves l_ z_ s) (hl_ : Part.sub [.regs, .mre, .gd] l_ = true) :
    Moves l_ z_ (State.refillNotice s g) := by
  refine h_.step ?_ hl_
  clear h_ hl_
  have h_ := Moves.refl [.regs, .mre, .gd] s
  unfold State.refillNotice
  repeat' (first
    | with_reducible assumption
    | (extract_lets -underBinder +onlyGivenNames x_; (clear_value x_; revert x_; intro _))
    | intro _
    | with_reducible apply Moves.ite
    | with_reducible apply Moves.foldl
    | exact (rfl : _ = true)
    | with_reducible apply State.clipNotice_moves
    | with_reducible apply State.setGen_moves)

theorem State.restartState_moves {l_ : List Part} {z_ : State} {s : State} (h_ : Moves l_ z_ s) (hl_ : Part.sub [.regs] l_ = true) :
    Moves l_ z_ (State.restartState s) := by
  refine h_.step ?_ hl_
  clear h_ hl_
  have h_ := Moves.refl [.regs] s
  unfold State.restartState
  repeat' (first
    | with_reducible assumption
    | (extract_lets -underBinder +onlyGivenNames x_; (clear_value x_; revert x_; intro _))
    | intro _
    | with_reducible apply Moves.ite
    | with_reducible apply Moves.foldl
    | exact (rfl : _ = true)
    | with_reducible apply State.setF_moves)

theorem State.swapComplete_moves {l_ : List Part} {z_ : State} {s : State} (h_ : Moves l_ z_ s) (hl_ : Part.sub [.regs, .qe, .bm, .xb, .fn, .mre, .pu, .out] l_ = true) :
    Moves l_ z_ (State.swapComplete s) := by
  refine h_.step ?_ hl_
  clear h_ hl_
  have h_ := Moves.refl [.regs, .qe, .bm, .xb, .fn, .mre, .pu, .out] s
  unfold State.swapComplete
  repeat' (first
    | with_reducible assumption
    | (extract_lets -underBinder +onlyGivenNames x_; first | (refine (fun hx_ : Moves [.regs, .qe, .bm, .xb, .fn, .mre, .pu, .out] s x_ => ?_) ?_; (on_goal 1 => (clear_value x_; revert hx_; revert x_; intro _ _)); (on_goal 2 => subst x_)) | (clear_value x_; revert x_; intro _))
    | intro _
    | with_reducible apply Moves.ite
    | with_reducible apply Moves.foldl
    | exact (rfl : _ = true)
    | with_reducible apply State.completeRefM_moves
    | with_reducible apply State.restartState_moves
    | with_reducible apply State.showSwap_moves
    | split
    | with_reducible apply Moves.mre)

theorem State.takeImage_moves {l_ : List Part} {z_ : State} {s : State} {m : ℕ} {img : ImageFile} (h_ : Moves l_ z_ s) (hl_ : Part.sub [.regs, .ebm, .qe, .fn, .mre, .gd, .sv, .out] l_ = true) :
    Moves l_ z_ (State.takeImage s m img) := by
  refine h_.step ?_ hl_
  clear h_ hl_
  have h_ := Moves.refl [.regs, .ebm, .qe, .fn, .mre, .gd, .sv, .out] s
  unfold State.takeImage
  repeat' (first
    | with_reducible assumption
    | (extract_lets -underBinder +onlyGivenNames x_; first | (refine (fun hx_ : Moves [.regs, .ebm, .qe, .fn, .mre, .gd, .sv, .out] s x_ => ?_) ?_; (on_goal 1 => (clear_value x_; revert hx_; revert x_; intro _ _)); (on_goal 2 => subst x_)) | (clear_value x_; revert x_; intro _))
    | intro _
    | with_reducible apply Moves.ite
    | with_reducible apply Moves.foldl
    | exact (rfl : _ = true)
    | with_reducible apply State.keepGen_moves
    | with_reducible apply State.setB_moves
    | with_reducible apply State.setF_moves
    | with_reducible apply State.setReg_moves
    | with_reducible apply State.showLines_moves
    | with_reducible apply State.showQ_moves
    | with_reducible apply State.showRelease_moves
    | with_reducible apply State.svRebind_moves
    | with_reducible apply State.releaseDone_moves
    | split
    | with_reducible apply Moves.mre
    | with_reducible apply Moves.gd
    | ((with_reducible apply Moves.many); (on_goal 2 => (intro p hp; cases p <;> first | rfl | exact absurd hp (by decide)))))

theorem State.swapTakeover_moves {l_ : List Part} {z_ : State} {s : State} (h_ : Moves l_ z_ s) (hl_ : Part.sub [.time, .regs, .ebm, .qe, .fn, .mre, .gd, .sv, .out] l_ = true) :
    Moves l_ z_ (State.swapTakeover s) := by
  refine h_.step ?_ hl_
  clear h_ hl_
  have h_ := Moves.refl [.time, .regs, .ebm, .qe, .fn, .mre, .gd, .sv, .out] s
  unfold State.swapTakeover
  repeat' (first
    | with_reducible assumption
    | (extract_lets -underBinder +onlyGivenNames x_; first | (refine (fun hx_ : Moves [.time, .regs, .ebm, .qe, .fn, .mre, .gd, .sv, .out] s x_ => ?_) ?_; (on_goal 1 => (clear_value x_; revert hx_; revert x_; intro _ _)); (on_goal 2 => subst x_)) | (clear_value x_; revert x_; intro _))
    | intro _
    | with_reducible apply Moves.ite
    | with_reducible apply Moves.foldl
    | exact (rfl : _ = true)
    | with_reducible apply State.advanceTo_moves
    | with_reducible apply State.takeImage_moves
    | split
    | with_reducible apply Moves.mre)

theorem State.tapChunk_moves {l_ : List Part} {z_ : State} {s : State} {t : ℕ} (h_ : Moves l_ z_ s) (hl_ : Part.sub [.regs, .qe, .bm, .xb, .fn, .mre, .out] l_ = true) :
    Moves l_ z_ (State.tapChunk s t) := by
  refine h_.step ?_ hl_
  clear h_ hl_
  have h_ := Moves.refl [.regs, .qe, .bm, .xb, .fn, .mre, .out] s
  unfold State.tapChunk
  dsimp only
  repeat' (first
    | with_reducible assumption
    | (extract_lets -underBinder +onlyGivenNames x_; (clear_value x_; revert x_; intro _))
    | intro _
    | with_reducible apply Moves.ite
    | with_reducible apply Moves.foldl
    | exact (rfl : _ = true)
    | with_reducible apply State.bump_moves
    | with_reducible apply State.sendHost_moves
    | with_reducible apply State.endEntry_moves
    | with_reducible apply State.setTap_moves
    | split)

theorem State.unspill_moves {l_ : List Part} {z_ : State} {s : State} {q : ℕ} {a2_ : ℕ} (h_ : Moves l_ z_ s) (hl_ : Part.sub [.regs, .gd] l_ = true) :
    Moves l_ z_ (State.unspill s q a2_) := by
  refine h_.step ?_ hl_
  clear h_ hl_
  induction a2_ generalizing s with
  | zero => exact Moves.refl _ _
  | succ n_ ih_ =>
    have h_ := Moves.refl [.regs, .gd] s
    unfold State.unspill
    repeat' (first
      | with_reducible refine Moves.trans ?_ ih_
      | with_reducible assumption
      | (extract_lets -underBinder +onlyGivenNames x_; (clear_value x_; revert x_; intro _))
      | intro _
      | with_reducible apply Moves.ite
      | with_reducible apply Moves.foldl
      | exact (rfl : _ = true)
      | with_reducible apply State.enqueue_moves
      | split
      | with_reducible apply Moves.gd)

theorem execAdmitCfgWrite_moves {t_ : State} {v : Word} {s : State} (e_ : execAdmitCfgWrite v s = .next t_) : Moves [.regs, .fn, .pu, .pm, .out] s t_ := by
  have h_ := Moves.refl [.regs, .fn, .pu, .pm, .out] s
  unfold execAdmitCfgWrite at e_
  injection e_ with e_
  subst e_
  repeat' (first
    | with_reducible assumption
    | intro _
    | with_reducible apply Moves.ite
    | with_reducible apply Moves.foldl
    | exact (rfl : _ = true)
    | with_reducible apply State.admitCfg_moves
    | with_reducible apply State.pfWrite_moves)

theorem execAffinityWaitExpiry_moves {t_ : State} {node : ℕ} {s : State} (e_ : execAffinityWaitExpiry node s = .next t_) : Moves [.gd] s t_ := by
  have h_ := Moves.refl [.gd] s
  unfold execAffinityWaitExpiry at e_
  injection e_ with e_
  subst e_
  repeat' (first
    | with_reducible assumption
    | intro _
    | with_reducible apply Moves.ite
    | with_reducible apply Moves.foldl
    | exact (rfl : _ = true)
    | with_reducible apply State.affinityOver_moves)

theorem execClipRefillNotice_moves {t_ : State} {g : Fin 256} {s : State} (e_ : execClipRefillNotice g s = .next t_) : Moves [.regs, .mre, .gd] s t_ := by
  have h_ := Moves.refl [.regs, .mre, .gd] s
  unfold execClipRefillNotice at e_
  injection e_ with e_
  subst e_
  repeat' (first
    | with_reducible assumption
    | intro _
    | with_reducible apply Moves.ite
    | with_reducible apply Moves.foldl
    | exact (rfl : _ = true)
    | with_reducible apply State.refillNotice_moves)

theorem execClipRepeatTimer_moves {t_ : State} {seq : ℕ} {s : State} (e_ : execClipRepeatTimer seq s = .next t_) : Moves [.time, .regs, .mre, .gd] s t_ := by
  have h_ := Moves.refl [.time, .regs, .mre, .gd] s
  unfold execClipRepeatTimer at e_
  injection e_ with e_
  subst e_
  repeat' (first
    | with_reducible assumption
    | intro _
    | with_reducible apply Moves.ite
    | with_reducible apply Moves.foldl
    | exact (rfl : _ = true)
    | with_reducible apply State.clipRepeatFire_moves)

theorem execClipStartTimer_moves {t_ : State} {seq : ℕ} {s : State} (e_ : execClipStartTimer seq s = .next t_) : Moves [.time, .regs, .mre, .gd] s t_ := by
  have h_ := Moves.refl [.time, .regs, .mre, .gd] s
  unfold execClipStartTimer at e_
  injection e_ with e_
  subst e_
  repeat' (first
    | with_reducible assumption
    | intro _
    | with_reducible apply Moves.ite
    | with_reducible apply Moves.foldl
    | exact (rfl : _ = true)
    | with_reducible apply State.clipStartFire_moves)

theorem execClipStopTimer_moves {t_ : State} {seq : ℕ} {s : State} (e_ : execClipStopTimer seq s = .next t_) : Moves [.time, .regs, .ebm, .bus, .qe, .bm, .xb, .fn, .mre, .gd, .pu, .out] s t_ := by
  have h_ := Moves.refl [.time, .regs, .ebm, .bus, .qe, .bm, .xb, .fn, .mre, .gd, .pu, .out] s
  unfold execClipStopTimer at e_
  injection e_ with e_
  subst e_
  repeat' (first
    | with_reducible assumption
    | intro _
    | with_reducible apply Moves.ite
    | with_reducible apply Moves.foldl
    | exact (rfl : _ = true)
    | with_reducible apply State.clipStopFire_moves)

theorem execGraphLoadResume_moves {t_ : State} {img : ImageFile} {s : State} (e_ : execGraphLoadResume img s = .next t_) : Moves [.regs, .qe, .bm, .xb, .fn, .mre, .pu, .out] s t_ := by
  have h_ := Moves.refl [.regs, .qe, .bm, .xb, .fn, .mre, .pu, .out] s
  unfold execGraphLoadResume at e_
  injection e_ with e_
  subst e_
  repeat' (first
    | with_reducible assumption
    | intro _
    | with_reducible apply Moves.ite
    | with_reducible apply Moves.foldl
    | exact (rfl : _ = true)
    | with_reducible apply State.loadResume_moves)

theorem execGraphSwapComplete_moves {t_ : State} {s : State} (e_ : execGraphSwapComplete s = .next t_) : Moves [.regs, .qe, .bm, .xb, .fn, .mre, .pu, .out] s t_ := by
  have h_ := Moves.refl [.regs, .qe, .bm, .xb, .fn, .mre, .pu, .out] s
  unfold execGraphSwapComplete at e_
  injection e_ with e_
  subst e_
  repeat' (first
    | with_reducible assumption
    | intro _
    | with_reducible apply Moves.ite
    | with_reducible apply Moves.foldl
    | exact (rfl : _ = true)
    | with_reducible apply State.swapComplete_moves)

theorem execGraphSwapTakeover_moves {t_ : State} {s : State} (e_ : execGraphSwapTakeover s = .next t_) : Moves [.time, .regs, .ebm, .qe, .fn, .mre, .gd, .sv, .out] s t_ := by
  have h_ := Moves.refl [.time, .regs, .ebm, .qe, .fn, .mre, .gd, .sv, .out] s
  unfold execGraphSwapTakeover at e_
  injection e_ with e_
  subst e_
  repeat' (first
    | with_reducible assumption
    | intro _
    | with_reducible apply Moves.ite
    | with_reducible apply Moves.foldl
    | exact (rfl : _ = true)
    | with_reducible apply State.swapTakeover_moves)

theorem execHeldNoticeEnter_moves {t_ : State} {q : Prio} {s : State} (e_ : execHeldNoticeEnter q s = .next t_) : Moves [.regs, .mre, .gd] s t_ := by
  have h_ := Moves.refl [.regs, .mre, .gd] s
  unfold execHeldNoticeEnter at e_
  injection e_ with e_
  subst e_
  repeat' (first
    | with_reducible assumption
    | intro _
    | with_reducible apply Moves.ite
    | with_reducible apply Moves.foldl
    | exact (rfl : _ = true)
    | with_reducible apply State.heldEnter_moves)

theorem execObsCtrlWrite_moves {t_ : State} {v : Word} {s : State} (e_ : execObsCtrlWrite v s = .next t_) : Moves [.regs, .fn, .gd, .pm, .out] s t_ := by
  have h_ := Moves.refl [.regs, .fn, .gd, .pm, .out] s
  unfold execObsCtrlWrite at e_
  injection e_ with e_
  subst e_
  repeat' (first
    | with_reducible assumption
    | intro _
    | with_reducible apply Moves.ite
    | with_reducible apply Moves.foldl
    | exact (rfl : _ = true)
    | with_reducible apply State.obsCtrl_moves
    | with_reducible apply State.pfWrite_moves)

theorem execObsWindowClose_moves {t_ : State} {s : State} (e_ : execObsWindowClose s = .next t_) : Moves [.regs, .gd] s t_ := by
  have h_ := Moves.refl [.regs, .gd] s
  unfold execObsWindowClose at e_
  injection e_ with e_
  subst e_
  repeat' (first
    | with_reducible assumption
    | intro _
    | with_reducible apply Moves.ite
    | with_reducible apply Moves.foldl
    | exact (rfl : _ = true)
    | with_reducible apply State.obsClose_moves)

theorem execOperationComplete_moves {t_ : State} {g : GpeId} {hits : List OpHit} {remoteStall : ℕ} {s : State} (e_ : execOperationComplete g hits remoteStall s = .next t_) : Moves [.regs, .ts, .ebm, .bus, .qe, .bm, .xb, .fn, .mre, .gd, .sv, .pu, .pm, .free, .out] s t_ := by
  have h_ := Moves.refl [.regs, .ts, .ebm, .bus, .qe, .bm, .xb, .fn, .mre, .gd, .sv, .pu, .pm, .free, .out] s
  unfold execOperationComplete at e_
  injection e_ with e_
  subst e_
  repeat' (first
    | with_reducible assumption
    | intro _
    | with_reducible apply Moves.ite
    | with_reducible apply Moves.foldl
    | exact (rfl : _ = true)
    | with_reducible apply State.operationDone_moves)

theorem execOperationDispatch_moves {t_ : State} {s : State} (e_ : execOperationDispatch s = .next t_) : Moves [.regs, .gd] s t_ := by
  have h_ := Moves.refl [.regs, .gd] s
  unfold execOperationDispatch at e_
  injection e_ with e_
  subst e_
  repeat' (first
    | with_reducible assumption
    | intro _
    | with_reducible apply Moves.ite
    | with_reducible apply Moves.foldl
    | exact (rfl : _ = true)
    | with_reducible apply State.dispatchAll_moves)

theorem execSpillMove_moves {t_ : State} {q : Prio} {s : State} (e_ : execSpillMove q s = .next t_) : Moves [.regs, .gd] s t_ := by
  have h_ := Moves.refl [.regs, .gd] s
  unfold execSpillMove at e_
  injection e_ with e_
  subst e_
  repeat' (first
    | with_reducible assumption
    | intro _
    | with_reducible apply Moves.ite
    | with_reducible apply Moves.foldl
    | exact (rfl : _ = true)
    | with_reducible apply State.unspill_moves)

theorem execTapChunkComplete_moves {t_ : State} {tap : Fin 64} {s : State} (e_ : execTapChunkComplete tap s = .next t_) : Moves [.regs, .qe, .bm, .xb, .fn, .mre, .out] s t_ := by
  have h_ := Moves.refl [.regs, .qe, .bm, .xb, .fn, .mre, .out] s
  unfold execTapChunkComplete at e_
  injection e_ with e_
  subst e_
  repeat' (first
    | with_reducible assumption
    | intro _
    | with_reducible apply Moves.ite
    | with_reducible apply Moves.foldl
    | exact (rfl : _ = true)
    | with_reducible apply State.tapChunk_moves)

end Sys2Proof.Machine
end

