-- ==== Sys2Proof/Laws/StageMoves.lean ====
section
/-! SUPPORT. What the operations of Machine/Stage.lean may touch. -/

set_option Elab.async false
set_option linter.unusedTactic false
set_option linter.unreachableTactic false

namespace Sys2Proof.Machine

theorem State.stageNow_moves {l_ : List Part} {z_ : State} {s : State} {r : EntryRef} {e : Sqe} (h_ : Moves l_ z_ s) (hl_ : Part.sub [.regs, .tree, .ts, .ebm, .bus, .qe, .bm, .xb, .fn, .mre, .pu, .free, .out] l_ = true) :
    Moves l_ z_ (State.stageNow s r e) := by
  refine h_.step ?_ hl_
  clear h_ hl_
  have h_ := Moves.refl [.regs, .tree, .ts, .ebm, .bus, .qe, .bm, .xb, .fn, .mre, .pu, .free, .out] s
  unfold State.stageNow
  repeat' (first
    | with_reducible assumption
    | (extract_lets -underBinder +onlyGivenNames x_; first | (refine (fun hx_ : Moves [.regs, .tree, .ts, .ebm, .bus, .qe, .bm, .xb, .fn, .mre, .pu, .free, .out] s x_ => ?_) ?_; (on_goal 1 => (clear_value x_; revert hx_; revert x_; intro _ _)); (on_goal 2 => subst x_)) | (clear_value x_; revert x_; intro _))
    | intro _
    | refine State.applyStage_moves ?_ ?_ (by assumption)
    | exact (rfl : _ = true)
    | with_reducible apply State.completeM_moves
    | with_reducible apply State.showPool_moves
    | with_reducible apply State.when_moves
    | with_reducible apply State.writeGroup_moves
    | split)

theorem State.applyHeld_moves {l_ : List Part} {z_ : State} {s : State} (h_ : Moves l_ z_ s) (hl_ : Part.sub [.regs, .tree, .ts, .ebm, .bus, .qe, .bm, .xb, .fn, .mre, .pu, .free, .out] l_ = true) :
    Moves l_ z_ (State.applyHeld s) := by
  refine h_.step ?_ hl_
  clear h_ hl_
  have h_ := Moves.refl [.regs, .tree, .ts, .ebm, .bus, .qe, .bm, .xb, .fn, .mre, .pu, .free, .out] s
  unfold State.applyHeld
  repeat' (first
    | with_reducible assumption
    | intro _
    | with_reducible apply Moves.foldl
    | exact (rfl : _ = true)
    | with_reducible apply State.showPool_moves
    | with_reducible apply State.stageNow_moves
    | with_reducible apply Moves.ts)

theorem State.abortCommit_moves {l_ : List Part} {z_ : State} {s : State} (h_ : Moves l_ z_ s) (hl_ : Part.sub [.regs, .lx, .tree, .ts, .ebm, .bus, .qe, .bm, .xb, .fn, .mre, .pu, .free, .out] l_ = true) :
    Moves l_ z_ (State.abortCommit s) := by
  refine h_.step ?_ hl_
  clear h_ hl_
  have h_ := Moves.refl [.regs, .lx, .tree, .ts, .ebm, .bus, .qe, .bm, .xb, .fn, .mre, .pu, .free, .out] s
  unfold State.abortCommit
  repeat' (first
    | with_reducible assumption
    | intro _
    | with_reducible apply Moves.foldl
    | exact (rfl : _ = true)
    | with_reducible apply State.applyHeld_moves
    | with_reducible apply State.completeRefM_moves
    | with_reducible apply State.showCommit_moves
    | with_reducible apply State.step12Resume_moves
    | split
    | with_reducible apply Moves.tree
    | with_reducible apply Moves.ts
    | ((with_reducible apply Moves.many); (on_goal 2 => (intro p hp; cases p <;> first | rfl | exact absurd hp (by decide)))))

theorem State.bindNow_moves {l_ : List Part} {z_ : State} {s : State}  (h_ : Moves l_ z_ s) (hl_ : Part.sub [.tree, .pu, .out] l_ = true) :
    Moves l_ z_ (State.bindNow s ) := by
  refine h_.step ?_ hl_
  clear h_ hl_
  have h_ := Moves.refl [.tree, .pu, .out] s
  unfold State.bindNow
  repeat' (first
    | with_reducible assumption
    | intro _
    | with_reducible apply Moves.ite
    | with_reducible apply Moves.foldl
    | exact (rfl : _ = true)
    | with_reducible apply State.setDev_moves
    | split)

theorem State.setShare_moves {l_ : List Part} {z_ : State} {s : State} {r : EntryRef} {e : Sqe} (h_ : Moves l_ z_ s) (hl_ : Part.sub [.regs, .ts, .qe, .bm, .xb, .fn, .pu, .out] l_ = true) :
    Moves l_ z_ (State.setShare s r e) := by
  refine h_.step ?_ hl_
  clear h_ hl_
  have h_ := Moves.refl [.regs, .ts, .qe, .bm, .xb, .fn, .pu, .out] s
  unfold State.setShare
  repeat' (first
    | with_reducible assumption
    | exact (rfl : _ = true)
    | with_reducible apply State.completeM_moves
    | with_reducible apply Moves.ts)

theorem State.stage_moves {l_ : List Part} {z_ : State} {s : State} {r : EntryRef} {e : Sqe} (h_ : Moves l_ z_ s) (hl_ : Part.sub [.regs, .tree, .ts, .ebm, .bus, .qe, .bm, .xb, .fn, .mre, .pu, .free, .out] l_ = true) :
    Moves l_ z_ (State.stage s r e) := by
  refine h_.step ?_ hl_
  clear h_ hl_
  have h_ := Moves.refl [.regs, .tree, .ts, .ebm, .bus, .qe, .bm, .xb, .fn, .mre, .pu, .free, .out] s
  unfold State.stage
  repeat' (first
    | with_reducible assumption
    | intro _
    | with_reducible apply Moves.ite
    | exact (rfl : _ = true)
    | with_reducible apply State.completeM_moves
    | with_reducible apply State.showPool_moves
    | with_reducible apply State.stageNow_moves
    | with_reducible apply Moves.ts)

theorem State.stageHit_moves {l_ : List Part} {z_ : State} {s : State} {r : EntryRef} {e : Sqe} {h : StageHit} (h_ : Moves l_ z_ s) (hl_ : Part.sub [.regs, .ts, .qe, .bm, .xb, .fn, .pu, .out] l_ = true) :
    Moves l_ z_ (State.stageHit s r e h) := by
  refine h_.step ?_ hl_
  clear h_ hl_
  have h_ := Moves.refl [.regs, .ts, .qe, .bm, .xb, .fn, .pu, .out] s
  unfold State.stageHit
  repeat' (first
    | with_reducible assumption
    | intro _
    | exact (rfl : _ = true)
    | with_reducible apply State.completeM_moves
    | with_reducible apply State.damage_moves
    | with_reducible apply State.smError_moves
    | split)

theorem State.showRebase_moves {l_ : List Part} {z_ : State} {s : State} (h_ : Moves l_ z_ s) (hl_ : Part.sub [.regs] l_ = true) :
    Moves l_ z_ (State.showRebase s) := by
  refine h_.step ?_ hl_
  clear h_ hl_
  have h_ := Moves.refl [.regs] s
  unfold State.showRebase
  repeat' (first
    | with_reducible assumption
    | intro _
    | with_reducible apply Moves.ite
    | exact (rfl : _ = true)
    | with_reducible apply State.setB_moves
    | split)

theorem State.scheduleCommit_moves {l_ : List Part} {z_ : State} {s : State} {r : EntryRef} {e : Sqe} {now : Nat} (h_ : Moves l_ z_ s) (hl_ : Part.sub [.regs, .tree, .ts, .ebm, .bus, .qe, .bm, .xb, .fn, .mre, .pu, .free, .out] l_ = true) :
    Moves l_ z_ (State.scheduleCommit s r e now) := by
  refine h_.step ?_ hl_
  clear h_ hl_
  have h_ := Moves.refl [.regs, .tree, .ts, .ebm, .bus, .qe, .bm, .xb, .fn, .mre, .pu, .free, .out] s
  unfold State.scheduleCommit
  repeat' (first
    | with_reducible assumption
    | intro _
    | with_reducible apply Moves.ite
    | exact (rfl : _ = true)
    | with_reducible apply State.applyHeld_moves
    | with_reducible apply State.beginCommit_moves
    | with_reducible apply State.completeM_moves
    | with_reducible apply State.seal_moves
    | split
    | with_reducible apply Moves.ts)

theorem State.bankSwitch_moves {l_ : List Part} {z_ : State} {s : State} (h_ : Moves l_ z_ s) (hl_ : Part.sub [.time, .regs, .tree, .ts, .ebm, .pu, .out] l_ = true) :
    Moves l_ z_ (State.bankSwitch s) := by
  refine h_.step ?_ hl_
  clear h_ hl_
  have h_ := Moves.refl [.time, .regs, .tree, .ts, .ebm, .pu, .out] s
  unfold State.bankSwitch
  repeat' (first
    | with_reducible assumption
    | intro _
    | exact (rfl : _ = true)
    | with_reducible apply State.advanceTo_moves
    | with_reducible apply State.showPool_moves
    | with_reducible apply State.switchBank_moves
    | with_reducible apply State.bindNow_moves
    | split
    | with_reducible apply Moves.tree
    | with_reducible apply Moves.ts)

theorem State.takeShares_moves {l_ : List Part} {z_ : State} {s : State} (h_ : Moves l_ z_ s) (hl_ : Part.sub [.ts] l_ = true) :
    Moves l_ z_ (State.takeShares s) := by
  refine h_.step ?_ hl_
  clear h_ hl_
  have h_ := Moves.refl [.ts] s
  unfold State.takeShares
  repeat' (first
    | with_reducible assumption
    | exact (rfl : _ = true)
    | with_reducible apply Moves.ts)

theorem State.rebaseEnd_moves {l_ : List Part} {z_ : State} {s : State} (h_ : Moves l_ z_ s) (hl_ : Part.sub [.regs, .lx, .tree, .ts, .ebm, .bus, .qe, .bm, .xb, .fn, .mre, .pu, .free, .out] l_ = true) :
    Moves l_ z_ (State.rebaseEnd s) := by
  refine h_.step ?_ hl_
  clear h_ hl_
  have h_ := Moves.refl [.regs, .lx, .tree, .ts, .ebm, .bus, .qe, .bm, .xb, .fn, .mre, .pu, .free, .out] s
  unfold State.rebaseEnd
  repeat' (first
    | with_reducible assumption
    | intro _
    | with_reducible apply Moves.foldl
    | exact (rfl : _ = true)
    | with_reducible apply State.applyHeld_moves
    | with_reducible apply State.completeRefM_moves
    | with_reducible apply State.rebase_moves
    | with_reducible apply State.serveWaits_moves
    | with_reducible apply State.showCommit_moves
    | with_reducible apply State.step12Resume_moves
    | split
    | with_reducible apply Moves.ts)

theorem execRebaseEnd_moves {t_ : State} {s : State} (e_ : execRebaseEnd s = .next t_) : Moves [.regs, .lx, .tree, .ts, .ebm, .bus, .qe, .bm, .xb, .fn, .mre, .pu, .free, .out] s t_ := by
  have h_ := Moves.refl [.regs, .lx, .tree, .ts, .ebm, .bus, .qe, .bm, .xb, .fn, .mre, .pu, .free, .out] s
  unfold execRebaseEnd at e_
  injection e_ with e_
  subst e_
  repeat' (first
    | with_reducible assumption
    | exact (rfl : _ = true)
    | with_reducible apply State.rebaseEnd_moves)

theorem execScheduleBankSwitch_moves {t_ : State} {s : State} (e_ : execScheduleBankSwitch s = .next t_) : Moves [.time, .regs, .tree, .ts, .ebm, .pu, .out] s t_ := by
  have h_ := Moves.refl [.time, .regs, .tree, .ts, .ebm, .pu, .out] s
  unfold execScheduleBankSwitch at e_
  injection e_ with e_
  subst e_
  repeat' (first
    | with_reducible assumption
    | exact (rfl : _ = true)
    | with_reducible apply State.bankSwitch_moves)

end Sys2Proof.Machine
end

