-- ==== Sys2Proof/Laws/RecvMoves.lean ====
section
/-! SUPPORT. What the operations of Machine/Recv.lean may touch. -/

set_option Elab.async false
set_option linter.unusedTactic false
set_option linter.unreachableTactic false

namespace Sys2Proof.Machine

theorem State.unmatched_moves {l_ : List Part} {z_ : State} {s : State} {t : ℕ} (h_ : Moves l_ z_ s) (hl_ : Part.sub [.regs] l_ = true) :
    Moves l_ z_ (State.unmatched s t) := by
  refine h_.step ?_ hl_
  clear h_ hl_
  have h_ := Moves.refl [.regs] s
  unfold State.unmatched
  repeat' (first
    | with_reducible assumption
    | exact (rfl : _ = true)
    | with_reducible apply State.bump_moves)

theorem State.receives_moves {l_ : List Part} {z_ : State} {s : State} {t : Nat} {hops : Nat} {op : State → State} (h_ : Moves l_ z_ s)
    (hl_ : Part.sub [.tree] l_ = true) (hf : ∀ t, Moves l_ z_ t → Moves l_ z_ (op t)) : Moves l_ z_ (State.receives s t hops op) :=
  Moves.ite (fun _ => h_) (fun _ => Moves.ite (fun _ => State.updPort_moves h_ (Part.sub_trans rfl hl_)) (fun _ => hf s h_))

theorem State.setPer_moves {l_ : List Part} {z_ : State} {s : State} {k : ℕ} {r : Option PerTx} (h_ : Moves l_ z_ s) (hl_ : Part.sub [.bus] l_ = true) :
    Moves l_ z_ (State.setPer s k r) := by
  refine h_.step ?_ hl_
  clear h_ hl_
  have h_ := Moves.refl [.bus] s
  unfold State.setPer
  repeat' (first
    | with_reducible assumption
    | exact (rfl : _ = true)
    | with_reducible apply Moves.bus)

theorem State.periodicAnswer_moves {l_ : List Part} {z_ : State} {s : State} {t : ℕ} {kind : ℕ} {h : Handshake} (h_ : Moves l_ z_ s) (hl_ : Part.sub [.regs, .bus] l_ = true) :
    Moves l_ z_ (State.periodicAnswer s t kind h) := by
  refine h_.step ?_ hl_
  clear h_ hl_
  have h_ := Moves.refl [.regs, .bus] s
  unfold State.periodicAnswer
  repeat' (first
    | with_reducible assumption
    | intro _
    | exact (rfl : _ = true)
    | with_reducible apply State.bump_moves
    | with_reducible apply State.setPer_moves
    | with_reducible apply State.unmatched_moves
    | split
    | with_reducible apply Moves.bus)

theorem State.gotAck_moves {l_ : List Part} {z_ : State} {s : State} {t : ℕ} {h : Handshake} (h_ : Moves l_ z_ s) (hl_ : Part.sub [.regs, .lx, .tree, .ts, .ebm, .bus, .qe, .bm, .xb, .fn, .mre, .pu, .ck, .free, .out] l_ = true) :
    Moves l_ z_ (State.gotAck s t h) := by
  refine h_.step ?_ hl_
  clear h_ hl_
  have h_ := Moves.refl [.regs, .lx, .tree, .ts, .ebm, .bus, .qe, .bm, .xb, .fn, .mre, .pu, .ck, .free, .out] s
  unfold State.gotAck
  repeat' (first
    | with_reducible assumption
    | intro _
    | exact (rfl : _ = true)
    | with_reducible apply State.ackXfer_moves
    | with_reducible apply State.afterTx_moves
    | with_reducible apply State.closeTx_moves
    | with_reducible apply State.lockAnswer_moves
    | with_reducible apply State.periodicAnswer_moves
    | with_reducible apply State.unmatched_moves
    | with_reducible apply State.updXfer_moves
    | split)

theorem State.relayBack_moves {l_ : List Part} {z_ : State} {s : State} {f : RelayFrame} (h_ : Moves l_ z_ s) (hl_ : Part.sub [.out] l_ = true) :
    Moves l_ z_ (State.relayBack s f) := by
  refine h_.step ?_ hl_
  clear h_ hl_
  have h_ := Moves.refl [.out] s
  unfold State.relayBack
  repeat' (first
    | with_reducible assumption
    | exact (rfl : _ = true)
    | with_reducible apply State.sendTimed_moves)

theorem State.gotData_moves {l_ : List Part} {z_ : State} {s : State} {t : ℕ} {d : DataPkt} (h_ : Moves l_ z_ s) (hl_ : Part.sub [.regs, .lx, .tree, .ts, .ebm, .bus, .qe, .bm, .xb, .fn, .mre, .pu, .ck, .free, .out] l_ = true) :
    Moves l_ z_ (State.gotData s t d) := by
  refine h_.step ?_ hl_
  clear h_ hl_
  have h_ := Moves.refl [.regs, .lx, .tree, .ts, .ebm, .bus, .qe, .bm, .xb, .fn, .mre, .pu, .ck, .free, .out] s
  unfold State.gotData
  repeat' (first
    | with_reducible assumption
    | intro _
    | exact (rfl : _ = true)
    | with_reducible apply State.afterTx_moves
    | with_reducible apply State.bump_moves
    | with_reducible apply State.closeTx_moves
    | with_reducible apply State.dataXfer_moves
    | with_reducible apply State.lockAnswer_moves
    | with_reducible apply State.relayBack_moves
    | with_reducible apply State.unmatched_moves
    | with_reducible apply State.pingDone_moves
    | split)

theorem State.gotErr_moves {l_ : List Part} {z_ : State} {s : State} {t : ℕ} {h : Handshake} (h_ : Moves l_ z_ s) (hl_ : Part.sub [.regs, .ts, .ebm, .bus, .qe, .bm, .xb, .fn, .mre, .free, .out] l_ = true) :
    Moves l_ z_ (State.gotErr s t h) := by
  refine h_.step ?_ hl_
  clear h_ hl_
  have h_ := Moves.refl [.regs, .ts, .ebm, .bus, .qe, .bm, .xb, .fn, .mre, .free, .out] s
  unfold State.gotErr
  repeat' (first
    | with_reducible assumption
    | exact (rfl : _ = true)
    | with_reducible apply State.closeTx_moves
    | with_reducible apply State.failAttempt_moves
    | with_reducible apply State.lockFail_moves
    | with_reducible apply State.periodicAnswer_moves
    | with_reducible apply State.setNpTx_moves
    | with_reducible apply State.unmatched_moves
    | split)

theorem State.gotNak_moves {l_ : List Part} {z_ : State} {s : State} {t : ℕ} {h : Handshake} (h_ : Moves l_ z_ s) (hl_ : Part.sub [.regs, .ts, .ebm, .bus, .qe, .bm, .xb, .fn, .mre, .free, .out] l_ = true) :
    Moves l_ z_ (State.gotNak s t h) := by
  refine h_.step ?_ hl_
  clear h_ hl_
  have h_ := Moves.refl [.regs, .ts, .ebm, .bus, .qe, .bm, .xb, .fn, .mre, .free, .out] s
  unfold State.gotNak
  repeat' (first
    | with_reducible assumption
    | intro _
    | exact (rfl : _ = true)
    | with_reducible apply State.afterTx_moves
    | with_reducible apply State.closeTx_moves
    | with_reducible apply State.lockFail_moves
    | with_reducible apply State.nakAttempt_moves
    | with_reducible apply State.periodicAnswer_moves
    | with_reducible apply State.unmatched_moves
    | split)

theorem State.gotStall_moves {l_ : List Part} {z_ : State} {s : State} {t : ℕ} {h : Handshake} (h_ : Moves l_ z_ s) (hl_ : Part.sub [.regs, .ts, .ebm, .bus, .qe, .bm, .xb, .fn, .mre, .pu, .free, .out] l_ = true) :
    Moves l_ z_ (State.gotStall s t h) := by
  refine h_.step ?_ hl_
  clear h_ hl_
  have h_ := Moves.refl [.regs, .ts, .ebm, .bus, .qe, .bm, .xb, .fn, .mre, .pu, .free, .out] s
  unfold State.gotStall
  repeat' (first
    | with_reducible assumption
    | exact (rfl : _ = true)
    | with_reducible apply State.closeTx_moves
    | with_reducible apply State.endXfer_moves
    | with_reducible apply State.lockStall_moves
    | with_reducible apply State.periodicAnswer_moves
    | with_reducible apply State.setCf_moves
    | with_reducible apply State.tellCtx_moves
    | with_reducible apply State.unmatched_moves
    | split)

theorem State.gotNyet_moves {l_ : List Part} {z_ : State} {s : State} {t : ℕ} {h : Handshake} (h_ : Moves l_ z_ s) (hl_ : Part.sub [.regs, .ts, .ebm, .bus, .qe, .bm, .xb, .fn, .mre, .out] l_ = true) :
    Moves l_ z_ (State.gotNyet s t h) := by
  refine h_.step ?_ hl_
  clear h_ hl_
  have h_ := Moves.refl [.regs, .ts, .ebm, .bus, .qe, .bm, .xb, .fn, .mre, .out] s
  unfold State.gotNyet
  repeat' (first
    | with_reducible assumption
    | intro _
    | exact (rfl : _ = true)
    | with_reducible apply State.afterTx_moves
    | with_reducible apply State.closeTx_moves
    | with_reducible apply State.nakAttempt_moves
    | with_reducible apply State.periodicAnswer_moves
    | with_reducible apply State.unmatched_moves
    | with_reducible apply State.updXfer_moves
    | split)

theorem State.gotLockAck_moves {l_ : List Part} {z_ : State} {s : State} {t : ℕ} {h : Handshake} (h_ : Moves l_ z_ s) (hl_ : Part.sub [.regs, .bus, .qe, .bm, .xb, .fn, .free, .out] l_ = true) :
    Moves l_ z_ (State.gotLockAck s t h) := by
  refine h_.step ?_ hl_
  clear h_ hl_
  have h_ := Moves.refl [.regs, .bus, .qe, .bm, .xb, .fn, .free, .out] s
  unfold State.gotLockAck
  repeat' (first
    | with_reducible assumption
    | exact (rfl : _ = true)
    | with_reducible apply State.closeTx_moves
    | with_reducible apply State.lockAnswer_moves
    | with_reducible apply State.unmatched_moves
    | split)

theorem State.gotLockBusy_moves {l_ : List Part} {z_ : State} {s : State} {t : ℕ} {h : Handshake} (h_ : Moves l_ z_ s) (hl_ : Part.sub [.regs, .bus, .qe, .bm, .xb, .fn, .free, .out] l_ = true) :
    Moves l_ z_ (State.gotLockBusy s t h) := by
  refine h_.step ?_ hl_
  clear h_ hl_
  have h_ := Moves.refl [.regs, .bus, .qe, .bm, .xb, .fn, .free, .out] s
  unfold State.gotLockBusy
  repeat' (first
    | with_reducible assumption
    | exact (rfl : _ = true)
    | with_reducible apply State.closeTx_moves
    | with_reducible apply State.lockFail_moves
    | with_reducible apply State.unmatched_moves
    | split)

theorem State.gotHandshake_moves {l_ : List Part} {z_ : State} {s : State} {t : ℕ} {kind : ℕ} {h : Handshake} (h_ : Moves l_ z_ s) (hl_ : Part.sub [.regs, .lx, .tree, .ts, .ebm, .bus, .qe, .bm, .xb, .fn, .mre, .pu, .ck, .free, .out] l_ = true) :
    Moves l_ z_ (State.gotHandshake s t kind h) := by
  refine h_.step ?_ hl_
  clear h_ hl_
  have h_ := Moves.refl [.regs, .lx, .tree, .ts, .ebm, .bus, .qe, .bm, .xb, .fn, .mre, .pu, .ck, .free, .out] s
  unfold State.gotHandshake
  repeat' (first
    | with_reducible assumption
    | intro _
    | with_reducible apply Moves.ite
    | exact (rfl : _ = true)
    | with_reducible apply State.gotAck_moves
    | with_reducible apply State.gotErr_moves
    | with_reducible apply State.gotLockAck_moves
    | with_reducible apply State.gotLockBusy_moves
    | with_reducible apply State.gotNak_moves
    | with_reducible apply State.gotNyet_moves
    | with_reducible apply State.gotStall_moves
    | with_reducible apply State.relayBack_moves
    | with_reducible apply State.unmatched_moves)

theorem State.periodicIn_moves {l_ : List Part} {z_ : State} {s : State} {t : ℕ} {d : DataPkt} (h_ : Moves l_ z_ s) (hl_ : Part.sub [.regs, .ebm, .bus, .gd] l_ = true) :
    Moves l_ z_ (State.periodicIn s t d) := by
  refine h_.step ?_ hl_
  clear h_ hl_
  have h_ := Moves.refl [.regs, .ebm, .bus, .gd] s
  unfold State.periodicIn
  repeat' (first
    | with_reducible assumption
    | (extract_lets -underBinder +onlyGivenNames x_; first | (refine (fun hx_ : Moves [.regs, .ebm, .bus, .gd] s x_ => ?_) ?_; (on_goal 1 => (clear_value x_; revert hx_; revert x_; intro _ _)); (on_goal 2 => subst x_)) | (clear_value x_; revert x_; intro _))
    | refine Moves.of_fst ?_ (by assumption)
    | with_reducible apply Moves.foldl_fst
    | intro _
    | exact (rfl : _ = true)
    | with_reducible apply State.acceptIn_moves
    | with_reducible apply State.blockNotice_moves
    | with_reducible apply State.bump_moves
    | with_reducible apply State.setPer_moves
    | with_reducible apply State.unmatched_moves
    | split)

theorem State.windowClose_moves {l_ : List Part} {z_ : State} {s : State} {t : ℕ} {np : Bool} {mfp : Bool} {tag : ℕ} (h_ : Moves l_ z_ s) (hl_ : Part.sub [.regs, .tree, .ts, .ebm, .bus, .qe, .bm, .xb, .fn, .mre, .free, .out] l_ = true) :
    Moves l_ z_ (State.windowClose s t np mfp tag) := by
  refine h_.step ?_ hl_
  clear h_ hl_
  have h_ := Moves.refl [.regs, .tree, .ts, .ebm, .bus, .qe, .bm, .xb, .fn, .mre, .free, .out] s
  unfold State.windowClose
  repeat' (first
    | with_reducible assumption
    | (extract_lets -underBinder +onlyGivenNames x_; first | (refine (fun hx_ : Moves [.regs, .tree, .ts, .ebm, .bus, .qe, .bm, .xb, .fn, .mre, .free, .out] s x_ => ?_) ?_; (on_goal 1 => (clear_value x_; revert hx_; revert x_; intro _ _)); (on_goal 2 => subst x_)) | (clear_value x_; revert x_; intro _))
    | intro _
    | exact (rfl : _ = true)
    | with_reducible apply State.afterTx_moves
    | with_reducible apply State.bump_moves
    | with_reducible apply State.closeTx_moves
    | with_reducible apply State.failAttempt_moves
    | with_reducible apply State.lockFail_moves
    | with_reducible apply State.setPer_moves
    | with_reducible apply State.pingLate_moves
    | split)

theorem execAckReceived_moves {t_ : State} {t : Trunk} {h : Handshake} {s : State} (e_ : execAckReceived t h s = .next t_) : Moves [.regs, .lx, .tree, .ts, .ebm, .bus, .qe, .bm, .xb, .fn, .mre, .pu, .ck, .free, .out] s t_ := by
  have h_ := Moves.refl [.regs, .lx, .tree, .ts, .ebm, .bus, .qe, .bm, .xb, .fn, .mre, .pu, .ck, .free, .out] s
  unfold execAckReceived at e_
  injection e_ with e_
  subst e_
  repeat' (first
    | with_reducible assumption
    | intro _
    | exact (rfl : _ = true)
    | with_reducible apply State.gotHandshake_moves
    | with_reducible apply State.receives_moves)

theorem execErrReceived_moves {t_ : State} {t : Trunk} {h : Handshake} {s : State} (e_ : execErrReceived t h s = .next t_) : Moves [.regs, .lx, .tree, .ts, .ebm, .bus, .qe, .bm, .xb, .fn, .mre, .pu, .ck, .free, .out] s t_ := by
  have h_ := Moves.refl [.regs, .lx, .tree, .ts, .ebm, .bus, .qe, .bm, .xb, .fn, .mre, .pu, .ck, .free, .out] s
  unfold execErrReceived at e_
  injection e_ with e_
  subst e_
  repeat' (first
    | with_reducible assumption
    | intro _
    | exact (rfl : _ = true)
    | with_reducible apply State.gotHandshake_moves
    | with_reducible apply State.receives_moves)

theorem execLockAckReceived_moves {t_ : State} {t : Trunk} {h : Handshake} {s : State} (e_ : execLockAckReceived t h s = .next t_) : Moves [.regs, .lx, .tree, .ts, .ebm, .bus, .qe, .bm, .xb, .fn, .mre, .pu, .ck, .free, .out] s t_ := by
  have h_ := Moves.refl [.regs, .lx, .tree, .ts, .ebm, .bus, .qe, .bm, .xb, .fn, .mre, .pu, .ck, .free, .out] s
  unfold execLockAckReceived at e_
  injection e_ with e_
  subst e_
  repeat' (first
    | with_reducible assumption
    | intro _
    | exact (rfl : _ = true)
    | with_reducible apply State.gotHandshake_moves
    | with_reducible apply State.receives_moves)

theorem execLockBusyReceived_moves {t_ : State} {t : Trunk} {h : Handshake} {s : State} (e_ : execLockBusyReceived t h s = .next t_) : Moves [.regs, .lx, .tree, .ts, .ebm, .bus, .qe, .bm, .xb, .fn, .mre, .pu, .ck, .free, .out] s t_ := by
  have h_ := Moves.refl [.regs, .lx, .tree, .ts, .ebm, .bus, .qe, .bm, .xb, .fn, .mre, .pu, .ck, .free, .out] s
  unfold execLockBusyReceived at e_
  injection e_ with e_
  subst e_
  repeat' (first
    | with_reducible assumption
    | intro _
    | exact (rfl : _ = true)
    | with_reducible apply State.gotHandshake_moves
    | with_reducible apply State.receives_moves)

theorem execNakReceived_moves {t_ : State} {t : Trunk} {h : Handshake} {s : State} (e_ : execNakReceived t h s = .next t_) : Moves [.regs, .lx, .tree, .ts, .ebm, .bus, .qe, .bm, .xb, .fn, .mre, .pu, .ck, .free, .out] s t_ := by
  have h_ := Moves.refl [.regs, .lx, .tree, .ts, .ebm, .bus, .qe, .bm, .xb, .fn, .mre, .pu, .ck, .free, .out] s
  unfold execNakReceived at e_
  injection e_ with e_
  subst e_
  repeat' (first
    | with_reducible assumption
    | intro _
    | exact (rfl : _ = true)
    | with_reducible apply State.gotHandshake_moves
    | with_reducible apply State.receives_moves)

theorem execNpDataReceived_moves {t_ : State} {t : Trunk} {d : DataPkt} {s : State} (e_ : execNpDataReceived t d s = .next t_) : Moves [.regs, .lx, .tree, .ts, .ebm, .bus, .qe, .bm, .xb, .fn, .mre, .pu, .ck, .free, .out] s t_ := by
  have h_ := Moves.refl [.regs, .lx, .tree, .ts, .ebm, .bus, .qe, .bm, .xb, .fn, .mre, .pu, .ck, .free, .out] s
  unfold execNpDataReceived at e_
  injection e_ with e_
  subst e_
  repeat' (first
    | with_reducible assumption
    | intro _
    | exact (rfl : _ = true)
    | with_reducible apply State.gotData_moves
    | with_reducible apply State.receives_moves)

theorem execNyetReceived_moves {t_ : State} {t : Trunk} {h : Handshake} {s : State} (e_ : execNyetReceived t h s = .next t_) : Moves [.regs, .lx, .tree, .ts, .ebm, .bus, .qe, .bm, .xb, .fn, .mre, .pu, .ck, .free, .out] s t_ := by
  have h_ := Moves.refl [.regs, .lx, .tree, .ts, .ebm, .bus, .qe, .bm, .xb, .fn, .mre, .pu, .ck, .free, .out] s
  unfold execNyetReceived at e_
  injection e_ with e_
  subst e_
  repeat' (first
    | with_reducible assumption
    | intro _
    | exact (rfl : _ = true)
    | with_reducible apply State.gotHandshake_moves
    | with_reducible apply State.receives_moves)

theorem execPeriodicInData_moves {t_ : State} {t : Trunk} {d : DataPkt} {s : State} (e_ : execPeriodicInData t d s = .next t_) : Moves [.regs, .tree, .ebm, .bus, .gd] s t_ := by
  have h_ := Moves.refl [.regs, .tree, .ebm, .bus, .gd] s
  unfold execPeriodicInData at e_
  injection e_ with e_
  subst e_
  repeat' (first
    | with_reducible assumption
    | intro _
    | exact (rfl : _ = true)
    | with_reducible apply State.periodicIn_moves
    | with_reducible apply State.receives_moves)

theorem execResponseWindowClose_moves {t_ : State} {t : Trunk} {np : Bool} {mfp : Bool} {tag : BitVec 12} {s : State} (e_ : execResponseWindowClose t np mfp tag s = .next t_) : Moves [.regs, .tree, .ts, .ebm, .bus, .qe, .bm, .xb, .fn, .mre, .free, .out] s t_ := by
  have h_ := Moves.refl [.regs, .tree, .ts, .ebm, .bus, .qe, .bm, .xb, .fn, .mre, .free, .out] s
  unfold execResponseWindowClose at e_
  injection e_ with e_
  subst e_
  repeat' (first
    | with_reducible assumption
    | exact (rfl : _ = true)
    | with_reducible apply State.windowClose_moves)

theorem execStallReceived_moves {t_ : State} {t : Trunk} {h : Handshake} {s : State} (e_ : execStallReceived t h s = .next t_) : Moves [.regs, .lx, .tree, .ts, .ebm, .bus, .qe, .bm, .xb, .fn, .mre, .pu, .ck, .free, .out] s t_ := by
  have h_ := Moves.refl [.regs, .lx, .tree, .ts, .ebm, .bus, .qe, .bm, .xb, .fn, .mre, .pu, .ck, .free, .out] s
  unfold execStallReceived at e_
  injection e_ with e_
  subst e_
  repeat' (first
    | with_reducible assumption
    | intro _
    | exact (rfl : _ = true)
    | with_reducible apply State.gotHandshake_moves
    | with_reducible apply State.receives_moves)

theorem execTagReuseExpiry_moves {t_ : State} {t : Trunk} {tag : BitVec 12} {s : State} (e_ : execTagReuseExpiry t tag s = .next t_) : Moves [.bus] s t_ := by
  have h_ := Moves.refl [.bus] s
  unfold execTagReuseExpiry at e_
  injection e_ with e_
  subst e_
  repeat' (first
    | with_reducible assumption
    | with_reducible apply Moves.foldl
    | intro _
    | exact (rfl : _ = true)
    | split
    | with_reducible apply Moves.bus)

end Sys2Proof.Machine
end

