-- ==== Sys2Proof/Laws/WalkMoves.lean ====
section
/-! SUPPORT. What the operations of Machine/Walk.lean may touch. -/

set_option Elab.async false
set_option linter.unusedTactic false
set_option linter.unreachableTactic false

namespace Sys2Proof.Machine

theorem State.askClear_moves {l_ : List Part} {z_ : State} {s : State} {t : ℕ} (h_ : Moves l_ z_ s) (hl_ : Part.sub [.regs, .tree, .ebm, .bus, .mre, .free, .out] l_ = true) :
    Moves l_ z_ (State.askClear s t) := by
  refine h_.step ?_ hl_
  clear h_ hl_
  have h_ := Moves.refl [.regs, .tree, .ebm, .bus, .mre, .free, .out] s
  unfold State.askClear
  repeat' (first
    | with_reducible assumption
    | intro _
    | with_reducible apply Moves.foldl
    | exact (rfl : _ = true)
    | with_reducible apply State.pushTm_moves
    | with_reducible apply State.setXfer_moves
    | split)

theorem State.setWalk_moves {l_ : List Part} {z_ : State} {s : State} {t : ℕ} {w : WalkRec} (h_ : Moves l_ z_ s) (hl_ : Part.sub [.ts] l_ = true) :
    Moves l_ z_ (State.setWalk s t w) := by
  refine h_.step ?_ hl_
  clear h_ hl_
  have h_ := Moves.refl [.ts] s
  unfold State.setWalk
  repeat' (first
    | with_reducible assumption
    | exact (rfl : _ = true)
    | with_reducible apply Moves.ts)

theorem State.ghostEnt_moves {l_ : List Part} {z_ : State} {s : State} {t : Nat} {m : Nat} {e : PEnt} (h_ : Moves l_ z_ s) (hl_ : Part.sub [.ts, .bus] l_ = true) :
    Moves l_ z_ (State.ghostEnt s t m e) := by
  refine h_.step ?_ hl_
  clear h_ hl_
  have h_ := Moves.refl [.ts, .bus] s
  unfold State.ghostEnt
  repeat' (first
    | with_reducible assumption
    | intro _
    | with_reducible apply Moves.ite
    | exact (rfl : _ = true)
    | with_reducible apply State.setPer_moves
    | with_reducible apply State.setWalk_moves
    | split)

theorem State.outMissing_moves {l_ : List Part} {z_ : State} {s : State} {e : PEnt} (h_ : Moves l_ z_ s) (hl_ : Part.sub [.ebm] l_ = true) :
    Moves l_ z_ (State.outMissing s e) := by
  refine h_.step ?_ hl_
  clear h_ hl_
  have h_ := Moves.refl [.ebm] s
  unfold State.outMissing
  repeat' (first
    | with_reducible assumption
    | intro _
    | with_reducible apply Moves.ite
    | exact (rfl : _ = true)
    | with_reducible apply State.bumpCf_moves
    | with_reducible apply State.setGroupSlot_moves)

theorem State.unsent_moves {l_ : List Part} {z_ : State} {s : State} {t : ℕ} {l : List PEnt} (h_ : Moves l_ z_ s) (hl_ : Part.sub [.ebm] l_ = true) :
    Moves l_ z_ (State.unsent s t l) := by
  refine h_.step ?_ hl_
  clear h_ hl_
  have h_ := Moves.refl [.ebm] s
  unfold State.unsent
  repeat' (first
    | with_reducible assumption
    | intro _
    | with_reducible apply Moves.ite
    | with_reducible apply Moves.foldl
    | exact (rfl : _ = true)
    | with_reducible apply State.outMissing_moves
    | split)

theorem State.beginWalk_moves {l_ : List Part} {z_ : State} {s : State} {t : ℕ} {m : ℕ} (h_ : Moves l_ z_ s) (hl_ : Part.sub [.regs, .ts, .ebm, .bus] l_ = true) :
    Moves l_ z_ (State.beginWalk s t m) := by
  refine h_.step ?_ hl_
  clear h_ hl_
  have h_ := Moves.refl [.regs, .ts, .ebm, .bus] s
  unfold State.beginWalk
  repeat' (first
    | with_reducible assumption
    | intro _
    | with_reducible apply Moves.ite
    | with_reducible apply Moves.foldl
    | exact (rfl : _ = true)
    | with_reducible apply State.bump_moves
    | with_reducible apply State.setF_moves
    | with_reducible apply State.setWalk_moves
    | with_reducible apply State.unsent_moves
    | with_reducible apply State.ghostEnt_moves)

theorem State.holdRelay_moves {l_ : List Part} {z_ : State} {s : State} {t : Nat} (h_ : Moves l_ z_ s) (hl_ : Part.sub [.regs, .ts] l_ = true) :
    Moves l_ z_ (State.holdRelay s t) := by
  refine h_.step ?_ hl_
  clear h_ hl_
  have h_ := Moves.refl [.regs, .ts] s
  unfold State.holdRelay
  repeat' (first
    | with_reducible assumption
    | intro _
    | with_reducible apply Moves.ite
    | with_reducible apply Moves.foldl
    | exact (rfl : _ = true)
    | with_reducible apply State.bump_moves
    | split
    | with_reducible apply Moves.ts)

theorem State.sendPing_moves {l_ : List Part} {z_ : State} {s : State} {t : Nat} {dev : Nat} (h_ : Moves l_ z_ s) (hl_ : Part.sub [.regs, .bus, .free, .out] l_ = true) :
    Moves l_ z_ (State.sendPing s t dev) := by
  refine h_.step ?_ hl_
  clear h_ hl_
  have h_ := Moves.refl [.regs, .bus, .free, .out] s
  unfold State.sendPing
  repeat' (first
    | with_reducible assumption
    | intro _
    | with_reducible apply Moves.ite
    | exact (rfl : _ = true)
    | with_reducible apply State.sendNp_moves
    | split)

theorem State.countNpDeferred_moves {l_ : List Part} {z_ : State} {s : State} {t : ℕ} (h_ : Moves l_ z_ s) (hl_ : Part.sub [.regs] l_ = true) :
    Moves l_ z_ (State.countNpDeferred s t) := by
  refine h_.step ?_ hl_
  clear h_ hl_
  have h_ := Moves.refl [.regs] s
  unfold State.countNpDeferred
  repeat' (first
    | with_reducible assumption
    | intro _
    | with_reducible apply Moves.ite
    | with_reducible apply Moves.foldl
    | exact (rfl : _ = true)
    | with_reducible apply State.bump_moves)

theorem State.deferEnt_moves {l_ : List Part} {z_ : State} {s : State} {t : ℕ} {e : PEnt} (h_ : Moves l_ z_ s) (hl_ : Part.sub [.regs, .ts] l_ = true) :
    Moves l_ z_ (State.deferEnt s t e) := by
  refine h_.step ?_ hl_
  clear h_ hl_
  have h_ := Moves.refl [.regs, .ts] s
  unfold State.deferEnt
  repeat' (first
    | with_reducible assumption
    | intro _
    | with_reducible apply Moves.ite
    | exact (rfl : _ = true)
    | with_reducible apply State.bump_moves
    | with_reducible apply State.setWalk_moves)

theorem State.lateVisit_moves {l_ : List Part} {z_ : State} {s : State} {t : Nat} {m : Nat} {e : PEnt} (h_ : Moves l_ z_ s) (hl_ : Part.sub [.regs, .ts, .ebm] l_ = true) :
    Moves l_ z_ (State.lateVisit s t m e) := by
  refine h_.step ?_ hl_
  clear h_ hl_
  have h_ := Moves.refl [.regs, .ts, .ebm] s
  unfold State.lateVisit
  repeat' (first
    | with_reducible assumption
    | intro _
    | with_reducible apply Moves.ite
    | exact (rfl : _ = true)
    | with_reducible apply State.deferEnt_moves
    | with_reducible apply State.outMissing_moves
    | with_reducible apply State.when_moves
    | split)

theorem State.endWalk_moves {l_ : List Part} {z_ : State} {s : State} {t : ℕ} {m : ℕ} (h_ : Moves l_ z_ s) (hl_ : Part.sub [.regs, .ts, .ebm, .bus] l_ = true) :
    Moves l_ z_ (State.endWalk s t m) := by
  refine h_.step ?_ hl_
  clear h_ hl_
  have h_ := Moves.refl [.regs, .ts, .ebm, .bus] s
  unfold State.endWalk
  repeat' (first
    | with_reducible assumption
    | intro _
    | with_reducible apply Moves.ite
    | with_reducible apply Moves.foldl
    | exact (rfl : _ = true)
    | with_reducible apply State.bump_moves
    | with_reducible apply State.setWalk_moves
    | with_reducible apply State.ghostEnt_moves
    | with_reducible apply State.lateVisit_moves)

theorem State.setCredit_moves {l_ : List Part} {z_ : State} {s : State} {t : ℕ} {f : ℕ} {c : ℤ} (h_ : Moves l_ z_ s) (hl_ : Part.sub [.ts] l_ = true) :
    Moves l_ z_ (State.setCredit s t f c) := by
  refine h_.step ?_ hl_
  clear h_ hl_
  have h_ := Moves.refl [.ts] s
  unfold State.setCredit
  repeat' (first
    | with_reducible assumption
    | exact (rfl : _ = true)
    | with_reducible apply Moves.ts)

theorem State.frameCredit_moves {l_ : List Part} {z_ : State} {s : State} (h_ : Moves l_ z_ s) (hl_ : Part.sub [.ts, .bus] l_ = true) :
    Moves l_ z_ (State.frameCredit s) := by
  refine h_.step ?_ hl_
  clear h_ hl_
  have h_ := Moves.refl [.ts, .bus] s
  unfold State.frameCredit
  repeat' (first
    | with_reducible assumption
    | intro _
    | with_reducible apply Moves.foldl
    | exact (rfl : _ = true)
    | with_reducible apply State.setCredit_moves
    | with_reducible apply State.setXfer_moves
    | split)

theorem State.holdStarts_moves {l_ : List Part} {z_ : State} {s : State} {t : ℕ} {l : List (ℕ × Xfer × List NpOut)} (h_ : Moves l_ z_ s) (hl_ : Part.sub [.regs, .ts] l_ = true) :
    Moves l_ z_ (State.holdStarts s t l) := by
  refine h_.step ?_ hl_
  clear h_ hl_
  have h_ := Moves.refl [.regs, .ts] s
  unfold State.holdStarts
  repeat' (first
    | with_reducible assumption
    | intro _
    | with_reducible apply Moves.ite
    | with_reducible apply Moves.foldl
    | exact (rfl : _ = true)
    | with_reducible apply State.bump_moves
    | with_reducible apply Moves.ts)

theorem State.relayOut_moves {l_ : List Part} {z_ : State} {s : State} {t : ℕ} (h_ : Moves l_ z_ s) (hl_ : Part.sub [.regs, .ts, .pu, .out] l_ = true) :
    Moves l_ z_ (State.relayOut s t) := by
  refine h_.step ?_ hl_
  clear h_ hl_
  have h_ := Moves.refl [.regs, .ts, .pu, .out] s
  unfold State.relayOut
  repeat' (first
    | with_reducible assumption
    | intro _
    | exact (rfl : _ = true)
    | with_reducible apply State.bump_moves
    | with_reducible apply State.emit_moves
    | with_reducible apply State.updPu_moves
    | with_reducible apply State.holdRelay_moves
    | split)

theorem State.startNp_moves {l_ : List Part} {z_ : State} {s : State} {t : ℕ} {e : ℕ × Xfer × List NpOut} (h_ : Moves l_ z_ s) (hl_ : Part.sub [.regs, .ts, .bus, .free, .out] l_ = true) :
    Moves l_ z_ (State.startNp s t e) := by
  refine h_.step ?_ hl_
  clear h_ hl_
  have h_ := Moves.refl [.regs, .ts, .bus, .free, .out] s
  unfold State.startNp
  repeat' (first
    | with_reducible assumption
    | exact (rfl : _ = true)
    | with_reducible apply State.sendNp_moves
    | with_reducible apply State.setCredit_moves
    | with_reducible apply State.updXfer_moves
    | split
    | with_reducible apply Moves.ts)

theorem State.npStartOn_moves {l_ : List Part} {z_ : State} {s : State} {t : ℕ} (h_ : Moves l_ z_ s) (hl_ : Part.sub [.regs, .tree, .ts, .ebm, .bus, .mre, .free, .out] l_ = true) :
    Moves l_ z_ (State.npStartOn s t) := by
  refine h_.step ?_ hl_
  clear h_ hl_
  have h_ := Moves.refl [.regs, .tree, .ts, .ebm, .bus, .mre, .free, .out] s
  unfold State.npStartOn
  repeat' (first
    | with_reducible assumption
    | (extract_lets -underBinder +onlyGivenNames x_; first | (refine (fun hx_ : Moves [.regs, .tree, .ts, .ebm, .bus, .mre, .free, .out] s x_ => ?_) ?_; (on_goal 1 => (clear_value x_; revert hx_; revert x_; intro _ _)); (on_goal 2 => subst x_)) | (clear_value x_; revert x_; intro _))
    | intro _
    | exact (rfl : _ = true)
    | with_reducible apply State.askClear_moves
    | with_reducible apply State.holdStarts_moves
    | with_reducible apply State.startNp_moves
    | with_reducible apply State.sendPing_moves
    | split)

theorem State.npStart_moves {l_ : List Part} {z_ : State} {s : State} {t : ℕ} (h_ : Moves l_ z_ s) (hl_ : Part.sub [.regs, .tree, .ts, .ebm, .bus, .mre, .pu, .free, .out] l_ = true) :
    Moves l_ z_ (State.npStart s t) := by
  refine h_.step ?_ hl_
  clear h_ hl_
  have h_ := Moves.refl [.regs, .tree, .ts, .ebm, .bus, .mre, .pu, .free, .out] s
  unfold State.npStart
  repeat' (first
    | with_reducible assumption
    | intro _
    | with_reducible apply Moves.ite
    | exact (rfl : _ = true)
    | with_reducible apply State.npStartOn_moves
    | with_reducible apply State.relayOut_moves)

theorem State.sendPer_moves {l_ : List Part} {z_ : State} {s : State} {t : Nat} {d : Nat} {e : PEnt} {b : Option (List Byte)} (h_ : Moves l_ z_ s) (hl_ : Part.sub [.regs, .ts, .bus, .out] l_ = true) :
    Moves l_ z_ (State.sendPer s t d e b) := by
  refine h_.step ?_ hl_
  clear h_ hl_
  have h_ := Moves.refl [.regs, .ts, .bus, .out] s
  unfold State.sendPer
  repeat' (first
    | with_reducible assumption
    | (extract_lets -underBinder +onlyGivenNames x_; first | (refine (fun hx_ : Moves [.regs, .ts, .bus, .out] s x_ => ?_) ?_; (on_goal 1 => (clear_value x_; revert hx_; revert x_; intro _ _)); (on_goal 2 => subst x_)) | (clear_value x_; revert x_; intro _))
    | intro _
    | with_reducible apply Moves.ite
    | exact (rfl : _ = true)
    | with_reducible apply State.bump_moves
    | with_reducible apply State.emit_moves
    | with_reducible apply State.setPer_moves
    | with_reducible apply State.setWalk_moves
    | with_reducible apply State.when_moves
    | split
    | with_reducible apply Moves.bus)

theorem State.visit_moves {l_ : List Part} {z_ : State} {s : State} {t : Nat} {d : Nat} {e : PEnt} (h_ : Moves l_ z_ s) (hl_ : Part.sub [.regs, .ts, .ebm, .bus, .out] l_ = true) :
    Moves l_ z_ (State.visit s t d e) := by
  refine h_.step ?_ hl_
  clear h_ hl_
  have h_ := Moves.refl [.regs, .ts, .ebm, .bus, .out] s
  unfold State.visit
  repeat' (first
    | with_reducible assumption
    | intro _
    | with_reducible apply Moves.ite
    | exact (rfl : _ = true)
    | with_reducible apply State.outMissing_moves
    | with_reducible apply State.sendPer_moves
    | split)

theorem State.walkNext_moves {l_ : List Part} {z_ : State} {s : State} {t : ℕ} (h_ : Moves l_ z_ s) (hl_ : Part.sub [.regs, .ts, .ebm, .bus, .out] l_ = true) :
    Moves l_ z_ (State.walkNext s t) := by
  refine h_.step ?_ hl_
  clear h_ hl_
  have h_ := Moves.refl [.regs, .ts, .ebm, .bus, .out] s
  unfold State.walkNext
  repeat' (first
    | with_reducible assumption
    | (extract_lets -underBinder +onlyGivenNames x_; first | (refine (fun hx_ : Moves [.regs, .ts, .ebm, .bus, .out] s x_ => ?_) ?_; (on_goal 1 => (clear_value x_; revert hx_; revert x_; intro _ _)); (on_goal 2 => subst x_)) | (clear_value x_; revert x_; intro _))
    | intro _
    | exact (rfl : _ = true)
    | with_reducible apply State.bump_moves
    | with_reducible apply State.setWalk_moves
    | with_reducible apply State.visit_moves
    | with_reducible apply State.lateVisit_moves
    | split)

theorem State.listHit_moves {l_ : List Part} {z_ : State} {s : State} {t : ℕ} {addr : ℕ} (h_ : Moves l_ z_ s) (hl_ : Part.sub [.regs, .ts, .ebm, .fn, .out] l_ = true) :
    Moves l_ z_ (State.listHit s t addr) := by
  refine h_.step ?_ hl_
  clear h_ hl_
  have h_ := Moves.refl [.regs, .ts, .ebm, .fn, .out] s
  unfold State.listHit
  repeat' (first
    | with_reducible assumption
    | (extract_lets -underBinder +onlyGivenNames x_; first | (refine (fun hx_ : Moves [.regs, .ts, .ebm, .fn, .out] s x_ => ?_) ?_; (on_goal 1 => (clear_value x_; revert hx_; revert x_; intro _ _)); (on_goal 2 => subst x_)) | (clear_value x_; revert x_; intro _))
    | intro _
    | exact (rfl : _ = true)
    | with_reducible apply State.damage_moves
    | with_reducible apply State.setWalk_moves
    | with_reducible apply State.smError_moves
    | with_reducible apply State.unsent_moves
    | split)

theorem State.walkerIssue_moves {l_ : List Part} {z_ : State} {s : State} {t : ℕ} {hit : Option WalkHit} (h_ : Moves l_ z_ s) (hl_ : Part.sub [.regs, .ts, .ebm, .bus, .qe, .bm, .xb, .fn, .mre, .out] l_ = true) :
    Moves l_ z_ (State.walkerIssue s t hit) := by
  refine h_.step ?_ hl_
  clear h_ hl_
  have h_ := Moves.refl [.regs, .ts, .ebm, .bus, .qe, .bm, .xb, .fn, .mre, .out] s
  unfold State.walkerIssue
  repeat' (first
    | with_reducible assumption
    | intro _
    | with_reducible apply Moves.ite
    | exact (rfl : _ = true)
    | with_reducible apply State.ebmHit_moves
    | with_reducible apply State.linkParity_moves
    | with_reducible apply State.listHit_moves
    | with_reducible apply State.walkNext_moves
    | split)

theorem State.npParity_moves {l_ : List Part} {z_ : State} {s : State} {t : ℕ} {a : ℕ} (h_ : Moves l_ z_ s) (hl_ : Part.sub [.regs, .ts, .ebm, .bus, .qe, .bm, .xb, .fn, .mre, .out] l_ = true) :
    Moves l_ z_ (State.npParity s t a) := by
  refine h_.step ?_ hl_
  clear h_ hl_
  have h_ := Moves.refl [.regs, .ts, .ebm, .bus, .qe, .bm, .xb, .fn, .mre, .out] s
  unfold State.npParity
  repeat' (first
    | with_reducible assumption
    | intro _
    | with_reducible apply Moves.ite
    | exact (rfl : _ = true)
    | with_reducible apply State.linkParity_moves
    | split)

theorem execNpTransactionStart_moves {t_ : State} {t : SendAt} {s : State} (e_ : execNpTransactionStart t s = .next t_) : Moves [.regs, .tree, .ts, .ebm, .bus, .qe, .bm, .xb, .fn, .mre, .pu, .free, .out] s t_ := by
  have h_ := Moves.refl [.regs, .tree, .ts, .ebm, .bus, .qe, .bm, .xb, .fn, .mre, .pu, .free, .out] s
  unfold execNpTransactionStart at e_
  injection e_ with e_
  subst e_
  repeat' (first
    | with_reducible assumption
    | intro _
    | exact (rfl : _ = true)
    | with_reducible apply State.npStart_moves
    | with_reducible apply State.npParity_moves
    | split)

theorem execWalkerIssue_moves {t_ : State} {t : WalkAt} {s : State} (e_ : execWalkerIssue t s = .next t_) : Moves [.regs, .ts, .ebm, .bus, .qe, .bm, .xb, .fn, .mre, .out] s t_ := by
  have h_ := Moves.refl [.regs, .ts, .ebm, .bus, .qe, .bm, .xb, .fn, .mre, .out] s
  unfold execWalkerIssue at e_
  injection e_ with e_
  subst e_
  repeat' (first
    | with_reducible assumption
    | intro _
    | exact (rfl : _ = true)
    | with_reducible apply State.walkerIssue_moves
    | split)

end Sys2Proof.Machine
end

