-- ==== Sys2Proof/Laws/MicroMoves.lean ====
section
/-! SUPPORT. What the operations of Machine/Micro.lean may touch. -/

set_option Elab.async false
set_option linter.unusedTactic false
set_option linter.unreachableTactic false

namespace Sys2Proof.Machine

theorem State.addFlows_moves {l_ : List Part} {z_ : State} {s : State} {p : ℕ} (h_ : Moves l_ z_ s) (hl_ : Part.sub [.gd] l_ = true) :
    Moves l_ z_ (State.addFlows s p) := by
  refine h_.step ?_ hl_
  clear h_ hl_
  have h_ := Moves.refl [.gd] s
  unfold State.addFlows
  repeat' (first
    | with_reducible assumption
    | intro _
    | with_reducible apply Moves.ite
    | with_reducible apply Moves.foldl
    | exact (rfl : _ = true)
    | with_reducible apply State.setFlow_moves)

theorem State.alignNodes_moves {l_ : List Part} {z_ : State} {s : State} {p : ℕ} {all : Bool} {back : Bool} (h_ : Moves l_ z_ s) (hl_ : Part.sub [.gd] l_ = true) :
    Moves l_ z_ (State.alignNodes s p all back) := by
  refine h_.step ?_ hl_
  clear h_ hl_
  have h_ := Moves.refl [.gd] s
  unfold State.alignNodes
  repeat' (first
    | with_reducible assumption
    | intro _
    | with_reducible apply Moves.ite
    | with_reducible apply Moves.foldl
    | exact (rfl : _ = true)
    | with_reducible apply State.setNext_moves)

theorem State.pruneStreams_moves {l_ : List Part} {z_ : State} {s : State} (h_ : Moves l_ z_ s) (hl_ : Part.sub [.mre] l_ = true) :
    Moves l_ z_ (State.pruneStreams s) := by
  refine h_.step ?_ hl_
  clear h_ hl_
  have h_ := Moves.refl [.mre] s
  unfold State.pruneStreams
  repeat' (first
    | with_reducible assumption
    | with_reducible apply Moves.foldl
    | intro _
    | exact (rfl : _ = true)
    | split
    | with_reducible apply Moves.mre)

theorem State.beginPass_moves {l_ : List Part} {z_ : State} {s : State} {p : ℕ} (h_ : Moves l_ z_ s) (hl_ : Part.sub [.regs, .ebm, .bus, .qe, .bm, .xb, .fn, .mre, .gd, .pu, .out] l_ = true) :
    Moves l_ z_ (State.beginPass s p).1 := by
  refine h_.step ?_ hl_
  clear h_ hl_
  have h_ := Moves.refl [.regs, .ebm, .bus, .qe, .bm, .xb, .fn, .mre, .gd, .pu, .out] s
  unfold State.beginPass
  repeat' (first
    | with_reducible assumption
    | (extract_lets -underBinder +onlyGivenNames x_; first | (refine (fun hx_ : Moves [.regs, .ebm, .bus, .qe, .bm, .xb, .fn, .mre, .gd, .pu, .out] s x_ => ?_) ?_; (on_goal 1 => (clear_value x_; revert hx_; revert x_; intro _ _)); (on_goal 2 => subst x_)) | (clear_value x_; revert x_; intro _))
    | refine Moves.of_fst ?_ (by assumption)
    | with_reducible apply Moves.foldl_fst
    | intro _
    | exact (rfl : _ = true)
    | with_reducible apply State.addFlows_moves
    | with_reducible apply State.alignNodes_moves
    | with_reducible apply State.genMark_moves
    | with_reducible apply State.offer_moves
    | with_reducible apply State.pruneStreams_moves
    | with_reducible apply State.setB_moves
    | with_reducible apply State.sweepTaps_moves
    | with_reducible apply State.endWaits_moves
    | split
    | with_reducible apply Moves.mre)

theorem State.broadcast_moves {l_ : List Part} {z_ : State} {s : State} {effect : ℕ} {command : ℕ} {arg : ℕ} (h_ : Moves l_ z_ s) (hl_ : Part.sub [.out] l_ = true) :
    Moves l_ z_ (State.broadcast s effect command arg) := by
  refine h_.step ?_ hl_
  clear h_ hl_
  have h_ := Moves.refl [.out] s
  unfold State.broadcast
  repeat' (first
    | with_reducible assumption
    | intro _
    | with_reducible apply Moves.foldl
    | exact (rfl : _ = true)
    | with_reducible apply State.emit_moves)

theorem State.upstreamWatch_moves {l_ : List Part} {z_ : State} {s : State}  (h_ : Moves l_ z_ s) (hl_ : Part.sub [.regs, .lx, .tree, .pu, .out] l_ = true) :
    Moves l_ z_ (State.upstreamWatch s) := by
  refine Moves.foldl h_ (fun t p h => ?_)
  have ht : Moves l_ z_ (t.toState p Ps.resetting) := State.toState_moves h (Part.sub_trans rfl hl_)
  dsimp only
  split
  · exact Moves.ite (fun _ => Moves.ite (fun _ => State.updPort_moves ht (Part.sub_trans rfl hl_)) (fun _ => ht)) (fun _ => h)
  · exact h

theorem State.cascadeStatus_moves {l_ : List Part} {z_ : State} {s : State} {p : ℕ} (h_ : Moves l_ z_ s) (hl_ : Part.sub [.ebm, .mre] l_ = true) :
    Moves l_ z_ (State.cascadeStatus s p) := by
  refine h_.step ?_ hl_
  clear h_ hl_
  have h_ := Moves.refl [.ebm, .mre] s
  unfold State.cascadeStatus
  repeat' (first
    | with_reducible assumption
    | intro _
    | with_reducible apply Moves.foldl
    | exact (rfl : _ = true)
    | with_reducible apply State.sinkWrite_moves
    | split
    | with_reducible apply Moves.mre)

theorem State.reconShort_moves {l_ : List Part} {z_ : State} {s : State} (h_ : Moves l_ z_ s) (hl_ : Part.sub [.regs, .qe, .fn, .pu, .out] l_ = true) :
    Moves l_ z_ (State.reconShort s) := by
  refine h_.step ?_ hl_
  clear h_ hl_
  have h_ := Moves.refl [.regs, .qe, .fn, .pu, .out] s
  unfold State.reconShort
  repeat' (first
    | with_reducible assumption
    | intro _
    | with_reducible apply Moves.ite
    | exact (rfl : _ = true)
    | with_reducible apply State.bump_moves
    | with_reducible apply State.puEvent_moves
    | with_reducible apply State.updPu_moves
    | with_reducible apply State.forAll_moves
    | split)

theorem State.decisionTime_moves {l_ : List Part} {z_ : State} {s : State} (h_ : Moves l_ z_ s) (hl_ : Part.sub [.time, .regs, .qe, .bm, .xb, .fn, .gd, .sv, .pu, .free, .out] l_ = true) :
    Moves l_ z_ (State.decisionTime s) := by
  refine h_.step ?_ hl_
  clear h_ hl_
  have h_ := Moves.refl [.time, .regs, .qe, .bm, .xb, .fn, .gd, .sv, .pu, .free, .out] s
  unfold State.decisionTime
  repeat' (first
    | with_reducible assumption
    | intro _
    | with_reducible apply Moves.ite
    | with_reducible apply Moves.foldl
    | exact (rfl : _ = true)
    | with_reducible apply State.advanceTo_moves
    | with_reducible apply State.auditDecision_moves
    | with_reducible apply State.offer_moves
    | with_reducible apply State.reconShort_moves
    | with_reducible apply State.showQ_moves
    | split
    | with_reducible apply Moves.gd)

theorem State.dropOldTx_moves {l_ : List Part} {z_ : State} {s : State} (h_ : Moves l_ z_ s) (hl_ : Part.sub [.bus] l_ = true) :
    Moves l_ z_ (State.dropOldTx s) := by
  refine h_.step ?_ hl_
  clear h_ hl_
  have h_ := Moves.refl [.bus] s
  unfold State.dropOldTx
  repeat' (first
    | with_reducible assumption
    | intro _
    | exact (rfl : _ = true)
    | split
    | with_reducible apply Moves.bus)

theorem State.publishLines_moves {l_ : List Part} {z_ : State} {s : State} {p : ℕ} (h_ : Moves l_ z_ s) (hl_ : Part.sub [.sv] l_ = true) :
    Moves l_ z_ (State.publishLines s p) := by
  refine h_.step ?_ hl_
  clear h_ hl_
  have h_ := Moves.refl [.sv] s
  unfold State.publishLines
  repeat' (first
    | with_reducible assumption
    | intro _
    | with_reducible apply Moves.foldl
    | exact (rfl : _ = true)
    | with_reducible apply State.svPublish_moves
    | split)

theorem State.overruns_moves {l_ : List Part} {z_ : State} {s : State} {p : ℕ} (h_ : Moves l_ z_ s) (hl_ : Part.sub [.regs, .ebm, .mre] l_ = true) :
    Moves l_ z_ (State.overruns s p) := by
  refine h_.step ?_ hl_
  clear h_ hl_
  have h_ := Moves.refl [.regs, .ebm, .mre] s
  unfold State.overruns
  repeat' (first
    | with_reducible assumption
    | intro _
    | with_reducible apply Moves.foldl
    | exact (rfl : _ = true)
    | with_reducible apply State.bump_moves
    | with_reducible apply State.sinkOverrun_moves
    | split
    | with_reducible apply Moves.mre)

theorem State.fillDeadline_moves {l_ : List Part} {z_ : State} {s : State} (h_ : Moves l_ z_ s) (hl_ : Part.sub [.time, .regs, .ebm, .mre, .sv, .pu] l_ = true) :
    Moves l_ z_ (State.fillDeadline s) := by
  refine h_.step ?_ hl_
  clear h_ hl_
  have h_ := Moves.refl [.time, .regs, .ebm, .mre, .sv, .pu] s
  unfold State.fillDeadline
  repeat' (first
    | with_reducible assumption
    | intro _
    | with_reducible apply Moves.ite
    | exact (rfl : _ = true)
    | with_reducible apply State.advanceTo_moves
    | with_reducible apply State.cascadeStatus_moves
    | with_reducible apply State.overruns_moves
    | with_reducible apply State.publishLines_moves
    | with_reducible apply State.updPu_moves)

theorem State.groupBroadcast_moves {l_ : List Part} {z_ : State} {s : State} {m : ℕ} (h_ : Moves l_ z_ s) (hl_ : Part.sub [.regs, .lx, .tree, .ts, .ebm, .bus, .qe, .bm, .xb, .fn, .mre, .pu, .free, .out] l_ = true) :
    Moves l_ z_ (State.groupBroadcast s m) := by
  refine h_.step ?_ hl_
  clear h_ hl_
  have h_ := Moves.refl [.regs, .lx, .tree, .ts, .ebm, .bus, .qe, .bm, .xb, .fn, .mre, .pu, .free, .out] s
  unfold State.groupBroadcast
  repeat' (first
    | with_reducible assumption
    | (extract_lets -underBinder +onlyGivenNames x_; (clear_value x_; revert x_; intro _))
    | intro _
    | exact (rfl : _ = true)
    | with_reducible apply State.abortCommit_moves
    | with_reducible apply State.broadcast_moves
    | split
    | with_reducible apply Moves.tree)

theorem State.groupSwitch_moves {l_ : List Part} {z_ : State} {s : State} {m : ℕ} (h_ : Moves l_ z_ s) (hl_ : Part.sub [.regs, .tree, .ebm, .bus, .qe, .fn, .mre, .free, .out] l_ = true) :
    Moves l_ z_ (State.groupSwitch s m) := by
  refine h_.step ?_ hl_
  clear h_ hl_
  have h_ := Moves.refl [.regs, .tree, .ebm, .bus, .qe, .fn, .mre, .free, .out] s
  unfold State.groupSwitch
  repeat' (first
    | with_reducible assumption
    | intro _
    | with_reducible apply Moves.ite
    | with_reducible apply Moves.foldl
    | exact (rfl : _ = true)
    | with_reducible apply State.pushTm_moves
    | with_reducible apply State.setRootGroup_moves
    | with_reducible apply State.topoEvent_moves
    | with_reducible apply Moves.tree)

theorem State.inputCutoff_moves {l_ : List Part} {z_ : State} {s : State} (h_ : Moves l_ z_ s) (hl_ : Part.sub [.time, .pu, .out] l_ = true) :
    Moves l_ z_ (State.inputCutoff s) := by
  refine h_.step ?_ hl_
  clear h_ hl_
  have h_ := Moves.refl [.time, .pu, .out] s
  unfold State.inputCutoff
  repeat' (first
    | with_reducible assumption
    | intro _
    | with_reducible apply Moves.ite
    | exact (rfl : _ = true)
    | with_reducible apply State.advanceTo_moves
    | with_reducible apply State.sendTimed_moves
    | with_reducible apply State.updPu_moves
    | with_reducible apply Moves.time)

theorem State.tickMark_moves {l_ : List Part} {z_ : State} {s : State} (h_ : Moves l_ z_ s) (hl_ : Part.sub [.time] l_ = true) :
    Moves l_ z_ (State.tickMark s) := by
  refine h_.step ?_ hl_
  clear h_ hl_
  have h_ := Moves.refl [.time] s
  unfold State.tickMark
  repeat' (first
    | with_reducible assumption
    | exact (rfl : _ = true)
    | with_reducible apply Moves.time)

theorem State.restoreDevs_moves {l_ : List Part} {z_ : State} {s : State} (h_ : Moves l_ z_ s) (hl_ : Part.sub [.regs, .tree, .ebm, .qe, .fn, .pu, .out] l_ = true) :
    Moves l_ z_ (State.restoreDevs s) := by
  refine h_.step ?_ hl_
  clear h_ hl_
  have h_ := Moves.refl [.regs, .tree, .ebm, .qe, .fn, .pu, .out] s
  unfold State.restoreDevs
  repeat' (first
    | with_reducible assumption
    | intro _
    | with_reducible apply Moves.foldl
    | exact (rfl : _ = true)
    | with_reducible apply State.hubEvent_moves
    | with_reducible apply State.rootEvent_moves
    | with_reducible apply State.setCf_moves
    | with_reducible apply State.setCtx_moves
    | with_reducible apply State.setDev_moves
    | with_reducible apply State.tellCtx_moves
    | split
    | with_reducible apply Moves.tree)

theorem State.sendMarks_moves {l_ : List Part} {z_ : State} {s : State} {m : ℕ} (h_ : Moves l_ z_ s) (hl_ : Part.sub [.time, .out] l_ = true) :
    Moves l_ z_ (State.sendMarks s m) := by
  refine h_.step ?_ hl_
  clear h_ hl_
  have h_ := Moves.refl [.time, .out] s
  unfold State.sendMarks
  repeat' (first
    | with_reducible assumption
    | intro _
    | with_reducible apply Moves.ite
    | with_reducible apply Moves.foldl
    | exact (rfl : _ = true)
    | with_reducible apply State.emit_moves
    | with_reducible apply State.when_moves
    | with_reducible apply Moves.time)

theorem State.phaseStep_moves {l_ : List Part} {z_ : State} {s : State} (h_ : Moves l_ z_ s) (hl_ : Part.sub [.pu] l_ = true) :
    Moves l_ z_ (State.phaseStep s) := by
  refine h_.step ?_ hl_
  clear h_ hl_
  have h_ := Moves.refl [.pu] s
  unfold State.phaseStep
  repeat' (first
    | with_reducible assumption
    | intro _
    | with_reducible apply Moves.ite
    | exact (rfl : _ = true)
    | with_reducible apply State.updPu_moves)

theorem State.pairMark_moves {l_ : List Part} {z_ : State} {s : State} {clips : List ClipRec} (h_ : Moves l_ z_ s) (hl_ : Part.sub [.pu, .out] l_ = true) :
    Moves l_ z_ (State.pairMark s clips) := by
  refine h_.step ?_ hl_
  clear h_ hl_
  have h_ := Moves.refl [.pu, .out] s
  unfold State.pairMark
  repeat' (first
    | with_reducible assumption
    | (extract_lets -underBinder +onlyGivenNames x_; first | (refine (fun hx_ : Moves [.pu, .out] s x_ => ?_) ?_; (on_goal 1 => (clear_value x_; revert hx_; revert x_; intro _ _)); (on_goal 2 => subst x_)) | (clear_value x_; revert x_; intro _))
    | exact (rfl : _ = true)
    | with_reducible apply State.emit_moves
    | with_reducible apply State.phaseStep_moves
    | with_reducible apply State.sendTimed_moves
    | split)

theorem State.mark_moves {l_ : List Part} {z_ : State} {s : State}  (h_ : Moves l_ z_ s)
    (hl_ : Part.sub [.time, .regs, .lx, .tree, .ts, .ebm, .bus, .qe, .bm, .xb, .fn, .mre, .gd, .pu, .ck, .free, .out] l_ = true) : Moves l_ z_ (State.mark s) := by
  unfold State.mark
  refine Moves.ite (fun _ => h_) (fun _ => ?_)
  extract_lets old ts s1 s2 m s3 s4 s5 s6
  have h1 : Moves l_ z_ s1 := Moves.foldl h_ (fun t x h =>
    State.endWalk_moves (State.countNpDeferred_moves h (Part.sub_trans rfl hl_)) (Part.sub_trans rfl hl_))
  clear_value s1
  have h2 : Moves l_ z_ s2 := State.obsMark_moves (State.tickMark_moves h1 (Part.sub_trans rfl hl_)) (Part.sub_trans rfl hl_)
  clear_value s2
  have h3 : Moves l_ z_ s3 := State.restoreDevs_moves (State.groupSwitch_moves (State.showRebase_moves (State.dropOldTx_moves h2
    (Part.sub_trans rfl hl_)) (Part.sub_trans rfl hl_)) (Part.sub_trans rfl hl_)) (Part.sub_trans rfl hl_)
  clear_value s3
  have h4 : Moves l_ z_ s4 := State.upstreamWatch_moves (State.groupBroadcast_moves (State.sendMarks_moves (State.twillMark_moves h3 (Part.sub_trans rfl hl_)) (Part.sub_trans rfl hl_)) (Part.sub_trans rfl hl_)) (Part.sub_trans rfl hl_)
  clear_value s4
  have h5 : Moves l_ z_ s5 := Moves.ite
    (fun _ => State.frameCredit_moves (State.takeShares_moves h4 (Part.sub_trans rfl hl_)) (Part.sub_trans rfl hl_)) (fun _ => h4)
  clear_value s5
  have h6 : Moves l_ z_ s6 := Moves.foldl h5 (fun t x h => State.beginWalk_moves h (Part.sub_trans rfl hl_))
  clear_value s6
  have h7 : Moves l_ z_ (s6.beginPass m).1 := State.beginPass_moves h6 (Part.sub_trans rfl hl_)
  split
  next e => exact State.pairMark_moves (Moves.of_fst h7 e) (Part.sub_trans rfl hl_)

theorem execDecisionTime_moves {t_ : State} {s : State} (e_ : execDecisionTime s = .next t_) : Moves [.time, .regs, .qe, .bm, .xb, .fn, .gd, .sv, .pu, .free, .out] s t_ := by
  have h_ := Moves.refl [.time, .regs, .qe, .bm, .xb, .fn, .gd, .sv, .pu, .free, .out] s
  unfold execDecisionTime at e_
  injection e_ with e_
  subst e_
  repeat' (first
    | with_reducible assumption
    | exact (rfl : _ = true)
    | with_reducible apply State.decisionTime_moves)

theorem execFillDeadline_moves {t_ : State} {s : State} (e_ : execFillDeadline s = .next t_) : Moves [.time, .regs, .ebm, .mre, .sv, .pu] s t_ := by
  have h_ := Moves.refl [.time, .regs, .ebm, .mre, .sv, .pu] s
  unfold execFillDeadline at e_
  injection e_ with e_
  subst e_
  repeat' (first
    | with_reducible assumption
    | exact (rfl : _ = true)
    | with_reducible apply State.fillDeadline_moves)

theorem execInputCutoff_moves {t_ : State} {s : State} (e_ : execInputCutoff s = .next t_) : Moves [.time, .pu, .out] s t_ := by
  have h_ := Moves.refl [.time, .pu, .out] s
  unfold execInputCutoff at e_
  injection e_ with e_
  subst e_
  repeat' (first
    | with_reducible assumption
    | exact (rfl : _ = true)
    | with_reducible apply State.inputCutoff_moves)

end Sys2Proof.Machine
end

