-- ==== Sys2Proof/Laws/PortsMoves.lean ====
section
/-! SUPPORT. What the operations of Machine/Ports.lean may touch. -/

set_option Elab.async false
set_option linter.unusedTactic false
set_option linter.unreachableTactic false

namespace Sys2Proof.Machine

theorem State.portCmd_moves {l_ : List Part} {z_ : State} {s : State} {p : Trunk} {op : State → State} (h_ : Moves l_ z_ s)
    (hf : ∀ t, Moves l_ z_ t → Moves l_ z_ (op t)) : Moves l_ z_ (State.portCmd s p op) := Moves.ite (fun _ => h_) (fun _ => hf s h_)

theorem State.portSetEnable_moves {l_ : List Part} {z_ : State} {s : State} {p : ℕ} (h_ : Moves l_ z_ s) (hl_ : Part.sub [.regs, .lx, .tree, .qe, .fn, .pu, .ck, .free, .out] l_ = true) :
    Moves l_ z_ (State.portSetEnable s p) := by
  refine h_.step ?_ hl_
  clear h_ hl_
  have h_ := Moves.refl [.regs, .lx, .tree, .qe, .fn, .pu, .ck, .free, .out] s
  unfold State.portSetEnable
  repeat' (first
    | with_reducible assumption
    | intro _
    | with_reducible apply Moves.ite
    | exact (rfl : _ = true)
    | with_reducible apply State.lanesResume_moves
    | with_reducible apply State.portChange_moves
    | with_reducible apply State.portEnable_moves
    | with_reducible apply State.rootEvent_moves)

theorem State.portClearEnable_moves {l_ : List Part} {z_ : State} {s : State} {p : ℕ} (h_ : Moves l_ z_ s) (hl_ : Part.sub [.regs, .lx, .tree, .ts, .ebm, .bus, .qe, .bm, .xb, .fn, .mre, .pu, .out] l_ = true) :
    Moves l_ z_ (State.portClearEnable s p) := by
  refine h_.step ?_ hl_
  clear h_ hl_
  have h_ := Moves.refl [.regs, .lx, .tree, .ts, .ebm, .bus, .qe, .bm, .xb, .fn, .mre, .pu, .out] s
  unfold State.portClearEnable
  repeat' (first
    | with_reducible assumption
    | intro _
    | with_reducible apply Moves.ite
    | exact (rfl : _ = true)
    | with_reducible apply State.portDisable_moves)

theorem State.debounceExpiry_moves {l_ : List Part} {z_ : State} {s : State} {p : ℕ} (h_ : Moves l_ z_ s) (hl_ : Part.sub [.regs, .lx, .tree, .qe, .fn, .pu, .out] l_ = true) :
    Moves l_ z_ (State.debounceExpiry s p) := by
  refine h_.step ?_ hl_
  clear h_ hl_
  have h_ := Moves.refl [.regs, .lx, .tree, .qe, .fn, .pu, .out] s
  unfold State.debounceExpiry
  repeat' (first
    | with_reducible assumption
    | (extract_lets -underBinder +onlyGivenNames x_; first | (refine (fun hx_ : Moves [.regs, .lx, .tree, .qe, .fn, .pu, .out] s x_ => ?_) ?_; (on_goal 1 => (clear_value x_; revert hx_; revert x_; intro _ _)); (on_goal 2 => subst x_)) | (clear_value x_; revert x_; intro _))
    | intro _
    | exact (rfl : _ = true)
    | with_reducible apply State.attached_moves
    | with_reducible apply State.portChange_moves
    | with_reducible apply State.rootEvent_moves
    | with_reducible apply State.setF_moves
    | split)

theorem State.linkLost_moves {l_ : List Part} {z_ : State} {s : State} {p : ℕ} (h_ : Moves l_ z_ s) (hl_ : Part.sub [.regs, .lx, .tree, .ts, .ebm, .bus, .qe, .bm, .xb, .fn, .mre, .pu, .ck, .out] l_ = true) :
    Moves l_ z_ (State.linkLost s p) := by
  refine h_.step ?_ hl_
  clear h_ hl_
  have h_ := Moves.refl [.regs, .lx, .tree, .ts, .ebm, .bus, .qe, .bm, .xb, .fn, .mre, .pu, .ck, .out] s
  unfold State.linkLost
  repeat' (first
    | with_reducible assumption
    | intro _
    | with_reducible apply Moves.ite
    | exact (rfl : _ = true)
    | with_reducible apply State.portLinkLost_moves)

theorem State.markOnRoot_moves {l_ : List Part} {z_ : State} {s : State} {p : ℕ} {rootId : ℕ} (h_ : Moves l_ z_ s) (hl_ : Part.sub [.regs, .lx, .tree, .ts, .ebm, .bus, .qe, .bm, .xb, .fn, .mre, .pu, .out] l_ = true) :
    Moves l_ z_ (State.markOnRoot s p rootId) := by
  refine h_.step ?_ hl_
  clear h_ hl_
  have h_ := Moves.refl [.regs, .lx, .tree, .ts, .ebm, .bus, .qe, .bm, .xb, .fn, .mre, .pu, .out] s
  unfold State.markOnRoot
  repeat' (first
    | with_reducible assumption
    | intro _
    | with_reducible apply Moves.ite
    | exact (rfl : _ = true)
    | with_reducible apply State.portChange_moves
    | with_reducible apply State.portDisable_moves)

theorem State.portCtrl_moves {l_ : List Part} {z_ : State} {s : State} {p : ℕ} {v : Word} (h_ : Moves l_ z_ s) (hl_ : Part.sub [.regs, .lx, .tree, .ts, .ebm, .bus, .qe, .bm, .xb, .fn, .mre, .pu, .ck, .out] l_ = true) :
    Moves l_ z_ (State.portCtrl s p v) := by
  refine h_.step ?_ hl_
  clear h_ hl_
  have h_ := Moves.refl [.regs, .lx, .tree, .ts, .ebm, .bus, .qe, .bm, .xb, .fn, .mre, .pu, .ck, .out] s
  unfold State.portCtrl
  repeat' (first
    | with_reducible assumption
    | intro _
    | with_reducible apply Moves.ite
    | exact (rfl : _ = true)
    | with_reducible apply State.portOff_moves
    | with_reducible apply State.portPower_moves
    | with_reducible apply State.writeReg_moves
    | with_reducible apply State.emit_moves
    | with_reducible apply State.updPort_moves
    | with_reducible apply State.trainIdle_moves)

theorem State.remoteWake_moves {l_ : List Part} {z_ : State} {s : State} {p : ℕ} (h_ : Moves l_ z_ s) (hl_ : Part.sub [.regs, .lx, .tree, .qe, .fn, .pu, .ck, .free, .out] l_ = true) :
    Moves l_ z_ (State.remoteWake s p) := by
  refine h_.step ?_ hl_
  clear h_ hl_
  have h_ := Moves.refl [.regs, .lx, .tree, .qe, .fn, .pu, .ck, .free, .out] s
  unfold State.remoteWake
  repeat' (first
    | with_reducible assumption
    | intro _
    | with_reducible apply Moves.ite
    | exact (rfl : _ = true)
    | with_reducible apply State.bump_moves
    | with_reducible apply State.portResume_moves
    | split)

theorem State.resetComplete_moves {l_ : List Part} {z_ : State} {s : State} {p : ℕ} (h_ : Moves l_ z_ s) (hl_ : Part.sub [.regs, .lx, .tree, .ts, .ebm, .bus, .qe, .fn, .mre, .pu, .free, .out] l_ = true) :
    Moves l_ z_ (State.resetComplete s p) := by
  refine h_.step ?_ hl_
  clear h_ hl_
  have h_ := Moves.refl [.regs, .lx, .tree, .ts, .ebm, .bus, .qe, .fn, .mre, .pu, .free, .out] s
  unfold State.resetComplete
  repeat' (first
    | with_reducible assumption
    | (extract_lets -underBinder +onlyGivenNames x_; first | (refine (fun hx_ : Moves [.regs, .lx, .tree, .ts, .ebm, .bus, .qe, .fn, .mre, .pu, .free, .out] s x_ => ?_) ?_; (on_goal 1 => (clear_value x_; revert hx_; revert x_; intro _ _)); (on_goal 2 => subst x_)) | (clear_value x_; revert x_; intro _))
    | intro _
    | exact (rfl : _ = true)
    | with_reducible apply State.await_moves
    | with_reducible apply State.dropEnum_moves
    | with_reducible apply State.portChange_moves
    | with_reducible apply State.portEnable_moves
    | with_reducible apply State.rootEvent_moves
    | with_reducible apply State.step3_moves
    | with_reducible apply State.updPort_moves
    | split)

theorem State.resetEnd_moves {l_ : List Part} {z_ : State} {s : State} {p : ℕ} (h_ : Moves l_ z_ s) (hl_ : Part.sub [.regs, .lx, .tree, .ck, .out] l_ = true) :
    Moves l_ z_ (State.resetEnd s p) := by
  refine h_.step ?_ hl_
  clear h_ hl_
  have h_ := Moves.refl [.regs, .lx, .tree, .ck, .out] s
  unfold State.resetEnd
  repeat' (first
    | with_reducible assumption
    | intro _
    | with_reducible apply Moves.ite
    | exact (rfl : _ = true)
    | with_reducible apply State.trainTrunk_moves
    | with_reducible apply State.updPort_moves)

theorem State.resumeComplete_moves {l_ : List Part} {z_ : State} {s : State} {p : ℕ} (h_ : Moves l_ z_ s) (hl_ : Part.sub [.regs, .lx, .tree, .qe, .fn, .pu, .ck, .free, .out] l_ = true) :
    Moves l_ z_ (State.resumeComplete s p) := by
  refine h_.step ?_ hl_
  clear h_ hl_
  have h_ := Moves.refl [.regs, .lx, .tree, .qe, .fn, .pu, .ck, .free, .out] s
  unfold State.resumeComplete
  repeat' (first
    | with_reducible assumption
    | intro _
    | with_reducible apply Moves.ite
    | exact (rfl : _ = true)
    | with_reducible apply State.lanesResume_moves
    | with_reducible apply State.portChange_moves
    | with_reducible apply State.portEnable_moves
    | with_reducible apply State.rootEvent_moves)

theorem State.rootStatus_moves {l_ : List Part} {z_ : State} {s : State} {p : ℕ} (h_ : Moves l_ z_ s) (hl_ : Part.sub [.tree, .out] l_ = true) :
    Moves l_ z_ (State.rootStatus s p) := by
  refine h_.step ?_ hl_
  clear h_ hl_
  have h_ := Moves.refl [.tree, .out] s
  unfold State.rootStatus
  repeat' (first
    | with_reducible assumption
    | exact (rfl : _ = true)
    | with_reducible apply State.emit_moves
    | with_reducible apply State.updPort_moves)

theorem State.senseChange_moves {l_ : List Part} {z_ : State} {s : State} {p : ℕ} {l : Sense} (h_ : Moves l_ z_ s) (hl_ : Part.sub [.regs, .tree] l_ = true) :
    Moves l_ z_ (State.senseChange s p l) := by
  refine h_.step ?_ hl_
  clear h_ hl_
  have h_ := Moves.refl [.regs, .tree] s
  unfold State.senseChange
  repeat' (first
    | with_reducible assumption
    | intro _
    | with_reducible apply Moves.ite
    | exact (rfl : _ = true)
    | with_reducible apply State.setF_moves
    | with_reducible apply State.updPort_moves
    | split)

theorem execAttachDebounceExpiry_moves {t_ : State} {p : Trunk} {s : State} (e_ : execAttachDebounceExpiry p s = .next t_) : Moves [.regs, .lx, .tree, .qe, .fn, .pu, .out] s t_ := by
  have h_ := Moves.refl [.regs, .lx, .tree, .qe, .fn, .pu, .out] s
  unfold execAttachDebounceExpiry at e_
  injection e_ with e_
  subst e_
  repeat' (first
    | with_reducible assumption
    | exact (rfl : _ = true)
    | with_reducible apply State.debounceExpiry_moves)

theorem execLinkLost_moves {t_ : State} {p : Trunk} {s : State} (e_ : execLinkLost p s = .next t_) : Moves [.regs, .lx, .tree, .ts, .ebm, .bus, .qe, .bm, .xb, .fn, .mre, .pu, .ck, .out] s t_ := by
  have h_ := Moves.refl [.regs, .lx, .tree, .ts, .ebm, .bus, .qe, .bm, .xb, .fn, .mre, .pu, .ck, .out] s
  unfold execLinkLost at e_
  injection e_ with e_
  subst e_
  repeat' (first
    | with_reducible assumption
    | exact (rfl : _ = true)
    | with_reducible apply State.linkLost_moves)

theorem execLinkPresenceAttach_moves {t_ : State} {p : Trunk} {s : State} (e_ : execLinkPresenceAttach p s = .next t_) : Moves [.regs, .lx, .tree, .qe, .fn, .pu, .out] s t_ := by
  have h_ := Moves.refl [.regs, .lx, .tree, .qe, .fn, .pu, .out] s
  unfold execLinkPresenceAttach at e_
  injection e_ with e_
  subst e_
  repeat' (first
    | with_reducible assumption
    | intro _
    | with_reducible apply Moves.ite
    | exact (rfl : _ = true)
    | with_reducible apply State.attached_moves)

theorem execLinkPresenceLost_moves {t_ : State} {p : Trunk} {s : State} (e_ : execLinkPresenceLost p s = .next t_) : Moves [.regs, .lx, .tree, .ts, .ebm, .bus, .qe, .bm, .xb, .fn, .mre, .pu, .ck, .out] s t_ := by
  have h_ := Moves.refl [.regs, .lx, .tree, .ts, .ebm, .bus, .qe, .bm, .xb, .fn, .mre, .pu, .ck, .out] s
  unfold execLinkPresenceLost at e_
  injection e_ with e_
  subst e_
  repeat' (first
    | with_reducible assumption
    | intro _
    | with_reducible apply Moves.ite
    | exact (rfl : _ = true)
    | with_reducible apply State.portPresenceLost_moves)

theorem execMarkOnRootPort_moves {t_ : State} {p : Trunk} {rootId : Half} {s : State} (e_ : execMarkOnRootPort p rootId s = .next t_) : Moves [.regs, .lx, .tree, .ts, .ebm, .bus, .qe, .bm, .xb, .fn, .mre, .pu, .out] s t_ := by
  have h_ := Moves.refl [.regs, .lx, .tree, .ts, .ebm, .bus, .qe, .bm, .xb, .fn, .mre, .pu, .out] s
  unfold execMarkOnRootPort at e_
  injection e_ with e_
  subst e_
  repeat' (first
    | with_reducible assumption
    | exact (rfl : _ = true)
    | with_reducible apply State.markOnRoot_moves)

theorem execPortClearEnable_moves {t_ : State} {p : Trunk} {s : State} (e_ : execPortClearEnable p s = .next t_) : Moves [.regs, .lx, .tree, .ts, .ebm, .bus, .qe, .bm, .xb, .fn, .mre, .pu, .out] s t_ := by
  have h_ := Moves.refl [.regs, .lx, .tree, .ts, .ebm, .bus, .qe, .bm, .xb, .fn, .mre, .pu, .out] s
  unfold execPortClearEnable at e_
  injection e_ with e_
  subst e_
  repeat' (first
    | with_reducible assumption
    | intro _
    | exact (rfl : _ = true)
    | with_reducible apply State.portClearEnable_moves
    | with_reducible apply State.portCmd_moves)

theorem execPortClearPower_moves {t_ : State} {p : Trunk} {s : State} (e_ : execPortClearPower p s = .next t_) : Moves [.regs, .lx, .tree, .ts, .ebm, .bus, .qe, .bm, .xb, .fn, .mre, .pu, .ck, .out] s t_ := by
  have h_ := Moves.refl [.regs, .lx, .tree, .ts, .ebm, .bus, .qe, .bm, .xb, .fn, .mre, .pu, .ck, .out] s
  unfold execPortClearPower at e_
  injection e_ with e_
  subst e_
  repeat' (first
    | with_reducible assumption
    | exact (rfl : _ = true)
    | with_reducible apply State.portOff_moves)

theorem execPortCtrlWrite_moves {t_ : State} {p : Trunk} {v : Word} {s : State} (e_ : execPortCtrlWrite p v s = .next t_) : Moves [.regs, .lx, .tree, .ts, .ebm, .bus, .qe, .bm, .xb, .fn, .mre, .pu, .pm, .ck, .out] s t_ := by
  have h_ := Moves.refl [.regs, .lx, .tree, .ts, .ebm, .bus, .qe, .bm, .xb, .fn, .mre, .pu, .pm, .ck, .out] s
  unfold execPortCtrlWrite at e_
  injection e_ with e_
  subst e_
  repeat' (first
    | with_reducible assumption
    | intro _
    | exact (rfl : _ = true)
    | with_reducible apply State.pfWrite_moves
    | with_reducible apply State.portCtrl_moves)

theorem execPortSetEnable_moves {t_ : State} {p : Trunk} {s : State} (e_ : execPortSetEnable p s = .next t_) : Moves [.regs, .lx, .tree, .qe, .fn, .pu, .ck, .free, .out] s t_ := by
  have h_ := Moves.refl [.regs, .lx, .tree, .qe, .fn, .pu, .ck, .free, .out] s
  unfold execPortSetEnable at e_
  injection e_ with e_
  subst e_
  repeat' (first
    | with_reducible assumption
    | intro _
    | exact (rfl : _ = true)
    | with_reducible apply State.portSetEnable_moves
    | with_reducible apply State.portCmd_moves)

theorem execPortSetPower_moves {t_ : State} {p : Trunk} {s : State} (e_ : execPortSetPower p s = .next t_) : Moves [.regs, .lx, .tree, .pu, .ck, .out] s t_ := by
  have h_ := Moves.refl [.regs, .lx, .tree, .pu, .ck, .out] s
  unfold execPortSetPower at e_
  injection e_ with e_
  subst e_
  repeat' (first
    | with_reducible assumption
    | exact (rfl : _ = true)
    | with_reducible apply State.portPower_moves)

theorem execPortSetReset_moves {t_ : State} {p : Trunk} {s : State} (e_ : execPortSetReset p s = .next t_) : Moves [.regs, .lx, .tree, .ts, .ebm, .bus, .qe, .bm, .xb, .fn, .mre, .pu, .ck, .out] s t_ := by
  have h_ := Moves.refl [.regs, .lx, .tree, .ts, .ebm, .bus, .qe, .bm, .xb, .fn, .mre, .pu, .ck, .out] s
  unfold execPortSetReset at e_
  injection e_ with e_
  subst e_
  repeat' (first
    | with_reducible assumption
    | intro _
    | exact (rfl : _ = true)
    | with_reducible apply State.portReset_moves
    | with_reducible apply State.portCmd_moves)

theorem execPortSetResume_moves {t_ : State} {p : Trunk} {s : State} (e_ : execPortSetResume p s = .next t_) : Moves [.regs, .lx, .tree, .qe, .fn, .pu, .ck, .free, .out] s t_ := by
  have h_ := Moves.refl [.regs, .lx, .tree, .qe, .fn, .pu, .ck, .free, .out] s
  unfold execPortSetResume at e_
  injection e_ with e_
  subst e_
  repeat' (first
    | with_reducible assumption
    | intro _
    | exact (rfl : _ = true)
    | with_reducible apply State.portResume_moves
    | with_reducible apply State.portCmd_moves)

theorem execPortSetSuspend_moves {t_ : State} {p : Trunk} {s : State} (e_ : execPortSetSuspend p s = .next t_) : Moves [.regs, .lx, .tree, .qe, .fn, .pu, .ck, .out] s t_ := by
  have h_ := Moves.refl [.regs, .lx, .tree, .qe, .fn, .pu, .ck, .out] s
  unfold execPortSetSuspend at e_
  injection e_ with e_
  subst e_
  repeat' (first
    | with_reducible assumption
    | intro _
    | exact (rfl : _ = true)
    | with_reducible apply State.portSuspend_moves
    | with_reducible apply State.portCmd_moves)

theorem execPresenceLost_moves {t_ : State} {p : Trunk} {s : State} (e_ : execPresenceLost p s = .next t_) : Moves [.regs, .lx, .tree, .ts, .ebm, .bus, .qe, .bm, .xb, .fn, .mre, .pu, .ck, .out] s t_ := by
  have h_ := Moves.refl [.regs, .lx, .tree, .ts, .ebm, .bus, .qe, .bm, .xb, .fn, .mre, .pu, .ck, .out] s
  unfold execPresenceLost at e_
  injection e_ with e_
  subst e_
  repeat' (first
    | with_reducible assumption
    | intro _
    | with_reducible apply Moves.ite
    | exact (rfl : _ = true)
    | with_reducible apply State.portPresenceLost_moves)

theorem execResetSignallingEnd_moves {t_ : State} {p : Trunk} {s : State} (e_ : execResetSignallingEnd p s = .next t_) : Moves [.regs, .lx, .tree, .ck, .out] s t_ := by
  have h_ := Moves.refl [.regs, .lx, .tree, .ck, .out] s
  unfold execResetSignallingEnd at e_
  injection e_ with e_
  subst e_
  repeat' (first
    | with_reducible assumption
    | exact (rfl : _ = true)
    | with_reducible apply State.resetEnd_moves)

theorem execResumeComplete_moves {t_ : State} {p : Trunk} {s : State} (e_ : execResumeComplete p s = .next t_) : Moves [.regs, .lx, .tree, .qe, .fn, .pu, .ck, .free, .out] s t_ := by
  have h_ := Moves.refl [.regs, .lx, .tree, .qe, .fn, .pu, .ck, .free, .out] s
  unfold execResumeComplete at e_
  injection e_ with e_
  subst e_
  repeat' (first
    | with_reducible assumption
    | exact (rfl : _ = true)
    | with_reducible apply State.resumeComplete_moves)

theorem execRootGetPortStatus_moves {t_ : State} {p : Trunk} {s : State} (e_ : execRootGetPortStatus p s = .next t_) : Moves [.tree, .out] s t_ := by
  have h_ := Moves.refl [.tree, .out] s
  unfold execRootGetPortStatus at e_
  injection e_ with e_
  subst e_
  repeat' (first
    | with_reducible assumption
    | exact (rfl : _ = true)
    | with_reducible apply State.rootStatus_moves)

theorem execSenseLevelChange_moves {t_ : State} {p : Trunk} {level : Sense} {s : State} (e_ : execSenseLevelChange p level s = .next t_) : Moves [.regs, .tree] s t_ := by
  have h_ := Moves.refl [.regs, .tree] s
  unfold execSenseLevelChange at e_
  injection e_ with e_
  subst e_
  repeat' (first
    | with_reducible assumption
    | exact (rfl : _ = true)
    | with_reducible apply State.senseChange_moves)

end Sys2Proof.Machine
end

