-- ==== Sys2Proof/Laws/TreeMoves.lean ====
section
/-! SUPPORT. What the operations of Machine/Tree.lean may touch. -/

set_option Elab.async false
set_option linter.unusedTactic false
set_option linter.unreachableTactic false

namespace Sys2Proof.Machine

theorem State.resetAhead_moves {l_ : List Part} {z_ : State} {s : State} {p : Nat} (h_ : Moves l_ z_ s) (hl_ : Part.sub [.regs, .tree, .ebm, .bus, .mre, .free, .out] l_ = true) :
    Moves l_ z_ (State.resetAhead s p) := by
  refine h_.step ?_ hl_
  clear h_ hl_
  have h_ := Moves.refl [.regs, .tree, .ebm, .bus, .mre, .free, .out] s
  unfold State.resetAhead
  repeat' (first
    | with_reducible assumption
    | intro _
    | with_reducible apply Moves.ite
    | exact (rfl : _ = true)
    | with_reducible apply State.pushTm_moves
    | split
    | with_reducible apply Moves.tree)

theorem State.bindingExpiry_moves {l_ : List Part} {z_ : State} {s : State} {a : ℕ} (h_ : Moves l_ z_ s) (hl_ : Part.sub [.regs, .tree, .ebm, .bus, .mre, .pu, .free, .out] l_ = true) :
    Moves l_ z_ (State.bindingExpiry s a) := by
  refine h_.step ?_ hl_
  clear h_ hl_
  have h_ := Moves.refl [.regs, .tree, .ebm, .bus, .mre, .pu, .free, .out] s
  unfold State.bindingExpiry
  repeat' (first
    | with_reducible assumption
    | intro _
    | with_reducible apply Moves.foldl
    | exact (rfl : _ = true)
    | with_reducible apply State.pushTm_moves
    | with_reducible apply State.setCf_moves
    | with_reducible apply State.setDev_moves
    | with_reducible apply State.tellCtx_moves
    | with_reducible apply State.hubForgets_moves
    | with_reducible apply State.setHubPort_moves
    | split)

theorem State.diagWrite_moves {l_ : List Part} {z_ : State} {s : State} {a : Nat} {b : List Byte} (h_ : Moves l_ z_ s) (hl_ : Part.sub [.ebm] l_ = true) :
    Moves l_ z_ (State.diagWrite s a b) := by
  refine h_.step ?_ hl_
  clear h_ hl_
  have h_ := Moves.refl [.ebm] s
  unfold State.diagWrite
  repeat' (first
    | with_reducible assumption
    | intro _
    | with_reducible apply Moves.ite
    | exact (rfl : _ = true)
    | with_reducible apply State.ebmWrite_moves
    | split
    | with_reducible apply Moves.ebm)

theorem State.diagAccess_moves {l_ : List Part} {z_ : State} {s : State} {a : DiagAccess} (h_ : Moves l_ z_ s) (hl_ : Part.sub [.regs, .ebm, .fn, .pm, .out] l_ = true) :
    Moves l_ z_ (State.diagAccess s a) := by
  refine h_.step ?_ hl_
  clear h_ hl_
  have h_ := Moves.refl [.regs, .ebm, .fn, .pm, .out] s
  unfold State.diagAccess
  repeat' (first
    | with_reducible assumption
    | (extract_lets -underBinder +onlyGivenNames x_; first | (refine (fun hx_ : Moves [.regs, .ebm, .fn, .pm, .out] s x_ => ?_) ?_; (on_goal 1 => (clear_value x_; revert hx_; revert x_; intro _ _)); (on_goal 2 => subst x_)) | (clear_value x_; revert x_; intro _))
    | intro _
    | exact (rfl : _ = true)
    | with_reducible apply State.aer_moves
    | with_reducible apply State.gate_moves
    | with_reducible apply State.diagWrite_moves
    | with_reducible apply State.sendHost_moves
    | split)

theorem State.ebmInit_moves {l_ : List Part} {z_ : State} {s : State} (h_ : Moves l_ z_ s) (hl_ : Part.sub [.regs, .ebm] l_ = true) :
    Moves l_ z_ (State.ebmInit s) := by
  refine h_.step ?_ hl_
  clear h_ hl_
  have h_ := Moves.refl [.regs, .ebm] s
  unfold State.ebmInit
  repeat' (first
    | with_reducible assumption
    | intro _
    | with_reducible apply Moves.ite
    | exact (rfl : _ = true)
    | with_reducible apply State.setB_moves
    | with_reducible apply Moves.ebm)

theorem State.enumStart_moves {l_ : List Part} {z_ : State} {s : State} {p : ℕ} (h_ : Moves l_ z_ s) (hl_ : Part.sub [.regs, .lx, .tree, .ts, .ebm, .bus, .qe, .bm, .xb, .fn, .mre, .pu, .ck, .free, .out] l_ = true) :
    Moves l_ z_ (State.enumStart s p) := by
  refine h_.step ?_ hl_
  clear h_ hl_
  have h_ := Moves.refl [.regs, .lx, .tree, .ts, .ebm, .bus, .qe, .bm, .xb, .fn, .mre, .pu, .ck, .free, .out] s
  unfold State.enumStart
  repeat' (first
    | with_reducible assumption
    | intro _
    | exact (rfl : _ = true)
    | with_reducible apply State.beginEnum_moves
    | with_reducible apply State.showEnum_moves
    | with_reducible apply State.resetAhead_moves
    | split
    | with_reducible apply Moves.tree)

theorem State.readHub_moves {l_ : List Part} {z_ : State} {s : State} {h : ℕ} {bits_ : ℕ} (h_ : Moves l_ z_ s) (hl_ : Part.sub [.regs, .tree, .ebm, .bus, .mre, .free, .out] l_ = true) :
    Moves l_ z_ (State.readHub s h bits_) := by
  refine h_.step ?_ hl_
  clear h_ hl_
  have h_ := Moves.refl [.regs, .tree, .ebm, .bus, .mre, .free, .out] s
  unfold State.readHub
  repeat' (first
    | with_reducible assumption
    | exact (rfl : _ = true)
    | with_reducible apply State.pushTm_moves)

theorem State.hubReport_moves {l_ : List Part} {z_ : State} {s : State} {h : ℕ} {bits_ : ℕ} (h_ : Moves l_ z_ s) (hl_ : Part.sub [.regs, .tree, .ebm, .bus, .mre, .free, .out] l_ = true) :
    Moves l_ z_ (State.hubReport s h bits_) := by
  refine h_.step ?_ hl_
  clear h_ hl_
  have h_ := Moves.refl [.regs, .tree, .ebm, .bus, .mre, .free, .out] s
  unfold State.hubReport
  repeat' (first
    | with_reducible assumption
    | intro _
    | with_reducible apply Moves.ite
    | exact (rfl : _ = true)
    | with_reducible apply State.readHub_moves
    | with_reducible apply Moves.tree)

theorem State.trunkCfg_moves {l_ : List Part} {z_ : State} {s : State} {t : ℕ} {v : Word} (h_ : Moves l_ z_ s) (hl_ : Part.sub [.regs] l_ = true) :
    Moves l_ z_ (State.trunkCfg s t v) := by
  refine h_.step ?_ hl_
  clear h_ hl_
  have h_ := Moves.refl [.regs] s
  unfold State.trunkCfg
  repeat' (first
    | with_reducible assumption
    | intro _
    | with_reducible apply Moves.ite
    | exact (rfl : _ = true)
    | with_reducible apply State.setB_moves
    | with_reducible apply State.showLoad_moves
    | with_reducible apply State.writeReg_moves)

theorem State.takeUpAll_moves {l_ : List Part} {z_ : State} {s : State} (h_ : Moves l_ z_ s) (hl_ : Part.sub [.regs, .tree, .ebm, .bus, .mre, .free, .out] l_ = true) :
    Moves l_ z_ (State.takeUpAll s) := by
  refine h_.step ?_ hl_
  clear h_ hl_
  have h_ := Moves.refl [.regs, .tree, .ebm, .bus, .mre, .free, .out] s
  unfold State.takeUpAll
  repeat' (first
    | with_reducible assumption
    | intro _
    | with_reducible apply Moves.ite
    | with_reducible apply Moves.foldl
    | exact (rfl : _ = true)
    | with_reducible apply State.await_moves
    | with_reducible apply State.kickTm_moves
    | with_reducible apply State.readHub_moves
    | with_reducible apply State.updPort_moves
    | with_reducible apply State.stopEnum_moves
    | split
    | with_reducible apply Moves.tree)

theorem State.tmEnable_moves {l_ : List Part} {z_ : State} {s : State} {v : Word} (h_ : Moves l_ z_ s) (hl_ : Part.sub [.regs, .tree, .ebm, .bus, .mre, .pu, .free, .out] l_ = true) :
    Moves l_ z_ (State.tmEnable s v) := by
  refine h_.step ?_ hl_
  clear h_ hl_
  have h_ := Moves.refl [.regs, .tree, .ebm, .bus, .mre, .pu, .free, .out] s
  unfold State.tmEnable
  repeat' (first
    | with_reducible assumption
    | intro _
    | with_reducible apply Moves.ite
    | exact (rfl : _ = true)
    | with_reducible apply State.pairHold_moves
    | with_reducible apply State.takeUpAll_moves
    | with_reducible apply State.writeReg_moves)

theorem State.pairPortOver_moves {l_ : List Part} {z_ : State} {s : State} {p : ℕ} {serial : ℕ} (h_ : Moves l_ z_ s) (hl_ : Part.sub [.regs, .lx, .tree, .ts, .ebm, .bus, .qe, .bm, .xb, .fn, .mre, .pu, .free, .out] l_ = true) :
    Moves l_ z_ (State.pairPortOver s p serial) := by
  refine h_.step ?_ hl_
  clear h_ hl_
  have h_ := Moves.refl [.regs, .lx, .tree, .ts, .ebm, .bus, .qe, .bm, .xb, .fn, .mre, .pu, .free, .out] s
  unfold State.pairPortOver
  repeat' (first
    | with_reducible assumption
    | intro _
    | exact (rfl : _ = true)
    | with_reducible apply State.enumFail_moves
    | with_reducible apply State.showEnum_moves
    | split
    | with_reducible apply Moves.tree)

theorem State.tmComplete_moves {l_ : List Part} {z_ : State} {s : State} {p : ℕ} {r : TmReply} (h_ : Moves l_ z_ s) (hl_ : Part.sub [.regs, .lx, .tree, .ts, .ebm, .bus, .qe, .bm, .xb, .fn, .mre, .pu, .pm, .ck, .free, .out] l_ = true) :
    Moves l_ z_ (State.tmComplete s p r) := by
  refine h_.step ?_ hl_
  clear h_ hl_
  have h_ := Moves.refl [.regs, .lx, .tree, .ts, .ebm, .bus, .qe, .bm, .xb, .fn, .mre, .pu, .pm, .ck, .free, .out] s
  unfold State.tmComplete
  repeat' (first
    | with_reducible assumption
    | intro _
    | exact (rfl : _ = true)
    | with_reducible apply State.tmDone_moves
    | with_reducible apply State.wake_moves
    | with_reducible apply State.when_moves)

theorem State.tmDrain_moves {l_ : List Part} {z_ : State} {s : State} (h_ : Moves l_ z_ s) (hl_ : Part.sub [.regs, .tree, .ebm, .bus, .qe, .fn, .mre, .free, .out] l_ = true) :
    Moves l_ z_ (State.tmDrain s) := by
  refine h_.step ?_ hl_
  clear h_ hl_
  have h_ := Moves.refl [.regs, .tree, .ebm, .bus, .qe, .fn, .mre, .free, .out] s
  unfold State.tmDrain
  repeat' (first
    | with_reducible assumption
    | intro _
    | with_reducible apply Moves.foldl
    | exact (rfl : _ = true)
    | with_reducible apply State.drainTopo_moves
    | with_reducible apply State.kickTm_moves)

theorem State.wakeSignal_moves {l_ : List Part} {z_ : State} {s : State} {p : ℕ} (h_ : Moves l_ z_ s) (hl_ : Part.sub [.regs, .lx, .tree, .qe, .fn, .pu, .pm, .ck, .free, .out] l_ = true) :
    Moves l_ z_ (State.wakeSignal s p) := by
  refine h_.step ?_ hl_
  clear h_ hl_
  have h_ := Moves.refl [.regs, .lx, .tree, .qe, .fn, .pu, .pm, .ck, .free, .out] s
  unfold State.wakeSignal
  repeat' (first
    | with_reducible assumption
    | intro _
    | with_reducible apply Moves.ite
    | exact (rfl : _ = true)
    | with_reducible apply State.remoteWake_moves
    | with_reducible apply State.wake_moves
    | with_reducible apply State.when_moves)

theorem execAddressBindingExpiry_moves {t_ : State} {addr : Half} {s : State} (e_ : execAddressBindingExpiry addr s = .next t_) : Moves [.regs, .tree, .ebm, .bus, .mre, .pu, .free, .out] s t_ := by
  have h_ := Moves.refl [.regs, .tree, .ebm, .bus, .mre, .pu, .free, .out] s
  unfold execAddressBindingExpiry at e_
  injection e_ with e_
  subst e_
  repeat' (first
    | with_reducible assumption
    | exact (rfl : _ = true)
    | with_reducible apply State.bindingExpiry_moves)

theorem execDiagWindowAccess_moves {t_ : State} {a : DiagAccess} {s : State} (e_ : execDiagWindowAccess a s = .next t_) : Moves [.regs, .ebm, .fn, .pm, .out] s t_ := by
  have h_ := Moves.refl [.regs, .ebm, .fn, .pm, .out] s
  unfold execDiagWindowAccess at e_
  injection e_ with e_
  subst e_
  repeat' (first
    | with_reducible assumption
    | exact (rfl : _ = true)
    | with_reducible apply State.diagAccess_moves)

theorem execEbmInitDone_moves {t_ : State} {s : State} (e_ : execEbmInitDone s = .next t_) : Moves [.regs, .ebm] s t_ := by
  have h_ := Moves.refl [.regs, .ebm] s
  unfold execEbmInitDone at e_
  injection e_ with e_
  subst e_
  repeat' (first
    | with_reducible assumption
    | exact (rfl : _ = true)
    | with_reducible apply State.ebmInit_moves)

theorem execEnumerationStart_moves {t_ : State} {p : Trunk} {s : State} (e_ : execEnumerationStart p s = .next t_) : Moves [.regs, .lx, .tree, .ts, .ebm, .bus, .qe, .bm, .xb, .fn, .mre, .pu, .ck, .free, .out] s t_ := by
  have h_ := Moves.refl [.regs, .lx, .tree, .ts, .ebm, .bus, .qe, .bm, .xb, .fn, .mre, .pu, .ck, .free, .out] s
  unfold execEnumerationStart at e_
  injection e_ with e_
  subst e_
  repeat' (first
    | with_reducible assumption
    | exact (rfl : _ = true)
    | with_reducible apply State.enumStart_moves)

theorem execHubStatusReport_moves {t_ : State} {hub : Half} {bits : BitVec 64} {s : State} (e_ : execHubStatusReport hub bits s = .next t_) : Moves [.regs, .tree, .ebm, .bus, .mre, .free, .out] s t_ := by
  have h_ := Moves.refl [.regs, .tree, .ebm, .bus, .mre, .free, .out] s
  unfold execHubStatusReport at e_
  injection e_ with e_
  subst e_
  repeat' (first
    | with_reducible assumption
    | exact (rfl : _ = true)
    | with_reducible apply State.hubReport_moves)

theorem execPairPortTimeout_moves {t_ : State} {p : Trunk} {serial : BitVec 64} {s : State} (e_ : execPairPortTimeout p serial s = .next t_) : Moves [.regs, .lx, .tree, .ts, .ebm, .bus, .qe, .bm, .xb, .fn, .mre, .pu, .free, .out] s t_ := by
  have h_ := Moves.refl [.regs, .lx, .tree, .ts, .ebm, .bus, .qe, .bm, .xb, .fn, .mre, .pu, .free, .out] s
  unfold execPairPortTimeout at e_
  injection e_ with e_
  subst e_
  repeat' (first
    | with_reducible assumption
    | intro _
    | exact (rfl : _ = true)
    | with_reducible apply State.pairPortOver_moves)

theorem execPortResetComplete_moves {t_ : State} {p : Trunk} {s : State} (e_ : execPortResetComplete p s = .next t_) : Moves [.regs, .lx, .tree, .ts, .ebm, .bus, .qe, .fn, .mre, .pu, .free, .out] s t_ := by
  have h_ := Moves.refl [.regs, .lx, .tree, .ts, .ebm, .bus, .qe, .fn, .mre, .pu, .free, .out] s
  unfold execPortResetComplete at e_
  injection e_ with e_
  subst e_
  repeat' (first
    | with_reducible assumption
    | exact (rfl : _ = true)
    | with_reducible apply State.resetComplete_moves)

theorem execRemoteWakeSignal_moves {t_ : State} {p : Trunk} {s : State} (e_ : execRemoteWakeSignal p s = .next t_) : Moves [.regs, .lx, .tree, .qe, .fn, .pu, .pm, .ck, .free, .out] s t_ := by
  have h_ := Moves.refl [.regs, .lx, .tree, .qe, .fn, .pu, .pm, .ck, .free, .out] s
  unfold execRemoteWakeSignal at e_
  injection e_ with e_
  subst e_
  repeat' (first
    | with_reducible assumption
    | exact (rfl : _ = true)
    | with_reducible apply State.wakeSignal_moves)

theorem execScrubPass_moves {t_ : State} {hits : List EccHit} {s : State} (e_ : execScrubPass hits s = .next t_) : Moves [.regs, .ts, .ebm, .bus, .qe, .bm, .xb, .fn, .mre, .out] s t_ := by
  have h_ := Moves.refl [.regs, .ts, .ebm, .bus, .qe, .bm, .xb, .fn, .mre, .out] s
  unfold execScrubPass at e_
  injection e_ with e_
  subst e_
  repeat' (first
    | with_reducible assumption
    | intro _
    | with_reducible apply Moves.ite
    | with_reducible apply Moves.foldl
    | exact (rfl : _ = true)
    | with_reducible apply State.ebmHit_moves)

theorem execSlotAllocated_moves {t_ : State} {s : State} (e_ : execSlotAllocated s = .next t_) : Moves [.regs, .ebm, .bus, .mre] s t_ := by
  have h_ := Moves.refl [.regs, .ebm, .bus, .mre] s
  unfold execSlotAllocated at e_
  injection e_ with e_
  subst e_
  repeat' (first
    | with_reducible assumption
    | exact (rfl : _ = true)
    | with_reducible apply State.serveWaits_moves)

theorem execTmBacklogDrain_moves {t_ : State} {s : State} (e_ : execTmBacklogDrain s = .next t_) : Moves [.regs, .tree, .ebm, .bus, .qe, .fn, .mre, .free, .out] s t_ := by
  have h_ := Moves.refl [.regs, .tree, .ebm, .bus, .qe, .fn, .mre, .free, .out] s
  unfold execTmBacklogDrain at e_
  injection e_ with e_
  subst e_
  repeat' (first
    | with_reducible assumption
    | exact (rfl : _ = true)
    | with_reducible apply State.tmDrain_moves)

theorem execTmEnableWrite_moves {t_ : State} {v : Word} {s : State} (e_ : execTmEnableWrite v s = .next t_) : Moves [.regs, .tree, .ebm, .bus, .fn, .mre, .pu, .pm, .free, .out] s t_ := by
  have h_ := Moves.refl [.regs, .tree, .ebm, .bus, .fn, .mre, .pu, .pm, .free, .out] s
  unfold execTmEnableWrite at e_
  injection e_ with e_
  subst e_
  repeat' (first
    | with_reducible assumption
    | intro _
    | exact (rfl : _ = true)
    | with_reducible apply State.pfWrite_moves
    | with_reducible apply State.tmEnable_moves)

theorem execTmTransferComplete_moves {t_ : State} {p : Trunk} {r : TmReply} {s : State} (e_ : execTmTransferComplete p r s = .next t_) : Moves [.regs, .lx, .tree, .ts, .ebm, .bus, .qe, .bm, .xb, .fn, .mre, .pu, .pm, .ck, .free, .out] s t_ := by
  have h_ := Moves.refl [.regs, .lx, .tree, .ts, .ebm, .bus, .qe, .bm, .xb, .fn, .mre, .pu, .pm, .ck, .free, .out] s
  unfold execTmTransferComplete at e_
  injection e_ with e_
  subst e_
  repeat' (first
    | with_reducible assumption
    | exact (rfl : _ = true)
    | with_reducible apply State.tmComplete_moves)

theorem execTrunkCfgWrite_moves {t_ : State} {t : Trunk} {v : Word} {s : State} (e_ : execTrunkCfgWrite t v s = .next t_) : Moves [.regs, .fn, .pm, .out] s t_ := by
  have h_ := Moves.refl [.regs, .fn, .pm, .out] s
  unfold execTrunkCfgWrite at e_
  injection e_ with e_
  subst e_
  repeat' (first
    | with_reducible assumption
    | intro _
    | exact (rfl : _ = true)
    | with_reducible apply State.pfWrite_moves
    | with_reducible apply State.trunkCfg_moves)

theorem execTsEnableWrite_moves {t_ : State} {v : Word} {s : State} (e_ : execTsEnableWrite v s = .next t_) : Moves [.regs, .fn, .pm, .out] s t_ := by
  have h_ := Moves.refl [.regs, .fn, .pm, .out] s
  unfold execTsEnableWrite at e_
  injection e_ with e_
  subst e_
  repeat' (first
    | with_reducible assumption
    | intro _
    | exact (rfl : _ = true)
    | with_reducible apply State.pfWrite_moves
    | with_reducible apply State.writeReg_moves)

end Sys2Proof.Machine
end

