-- ==== Sys2Proof/Laws/RingsMoves.lean ====
section
/-! SUPPORT. What the operations of Machine/Rings.lean may touch. -/

set_option Elab.async false
set_option linter.unusedTactic false
set_option linter.unreachableTactic false

namespace Sys2Proof.Machine

theorem State.discardCached_moves {l_ : List Part} {z_ : State} {s : State} {f : ℕ} {i : ℕ} (h_ : Moves l_ z_ s) (hl_ : Part.sub [.regs, .qe] l_ = true) :
    Moves l_ z_ (State.discardCached s f i) := by
  refine h_.step ?_ hl_
  clear h_ hl_
  have h_ := Moves.refl [.regs, .qe] s
  unfold State.discardCached
  repeat' (first
    | with_reducible assumption
    | exact (rfl : _ = true)
    | with_reducible apply State.setCache_moves
    | with_reducible apply State.setSq_moves
    | with_reducible apply State.showPos_moves
    | split)

theorem State.hostActive_moves {l_ : List Part} {z_ : State} {s : State}  (h_ : Moves l_ z_ s) (hl_ : Part.sub [.fn] l_ = true) :
    Moves l_ z_ (State.hostActive s ) := by
  refine h_.step ?_ hl_
  clear h_ hl_
  have h_ := Moves.refl [.fn] s
  unfold State.hostActive
  repeat' (first
    | with_reducible assumption
    | intro _
    | with_reducible apply Moves.ite
    | exact (rfl : _ = true)
    | split
    | with_reducible apply Moves.fn)

theorem State.adminBase_moves {l_ : List Part} {z_ : State} {s : State} {f : ℕ} {a : ℕ} {low : Bool} {v : Word} (h_ : Moves l_ z_ s) (hl_ : Part.sub [.regs] l_ = true) :
    Moves l_ z_ (State.adminBase s f a low v) := by
  refine h_.step ?_ hl_
  clear h_ hl_
  have h_ := Moves.refl [.regs] s
  unfold State.adminBase
  repeat' (first
    | with_reducible assumption
    | intro _
    | with_reducible apply Moves.ite
    | exact (rfl : _ = true)
    | with_reducible apply State.setB_moves
    | with_reducible apply State.writeReg_moves)

theorem State.adminStart_moves {l_ : List Part} {z_ : State} {s : State} {f : ℕ} (h_ : Moves l_ z_ s) (hl_ : Part.sub [.regs, .qe, .fn, .out] l_ = true) :
    Moves l_ z_ (State.adminStart s f) := by
  refine h_.step ?_ hl_
  clear h_ hl_
  have h_ := Moves.refl [.regs, .qe, .fn, .out] s
  unfold State.adminStart
  repeat' (first
    | with_reducible assumption
    | exact (rfl : _ = true)
    | with_reducible apply State.flushCq_moves
    | with_reducible apply State.setCq_moves
    | with_reducible apply State.setSq_moves
    | with_reducible apply State.showPos_moves)

theorem State.adminStop_moves {l_ : List Part} {z_ : State} {s : State} {f : ℕ} (h_ : Moves l_ z_ s) (hl_ : Part.sub [.regs, .qe, .fn, .out] l_ = true) :
    Moves l_ z_ (State.adminStop s f) := by
  refine h_.step ?_ hl_
  clear h_ hl_
  have h_ := Moves.refl [.regs, .qe, .fn, .out] s
  unfold State.adminStop
  repeat' (first
    | with_reducible assumption
    | exact (rfl : _ = true)
    | with_reducible apply State.discardCached_moves
    | with_reducible apply State.finishIdle_moves
    | with_reducible apply State.updSq_moves)

theorem State.adminCfg_moves {l_ : List Part} {z_ : State} {s : State} {f : ℕ} {v : Word} (h_ : Moves l_ z_ s) (hl_ : Part.sub [.regs, .qe, .fn, .out] l_ = true) :
    Moves l_ z_ (State.adminCfg s f v) := by
  refine h_.step ?_ hl_
  clear h_ hl_
  have h_ := Moves.refl [.regs, .qe, .fn, .out] s
  unfold State.adminCfg
  repeat' (first
    | with_reducible assumption
    | intro _
    | with_reducible apply Moves.ite
    | exact (rfl : _ = true)
    | with_reducible apply State.adminStart_moves
    | with_reducible apply State.adminStop_moves
    | with_reducible apply State.setB_moves
    | with_reducible apply State.updCq_moves
    | with_reducible apply State.when_moves
    | with_reducible apply State.writeReg_moves)

theorem State.adminWrite_moves {l_ : List Part} {z_ : State} {s : State} {f : ℕ} {reg : ℕ} {v : Word} (h_ : Moves l_ z_ s) (hl_ : Part.sub [.regs, .qe, .fn, .out] l_ = true) :
    Moves l_ z_ (State.adminWrite s f reg v) := by
  refine h_.step ?_ hl_
  clear h_ hl_
  have h_ := Moves.refl [.regs, .qe, .fn, .out] s
  unfold State.adminWrite
  repeat' (first
    | with_reducible assumption
    | exact (rfl : _ = true)
    | with_reducible apply State.adminBase_moves
    | with_reducible apply State.adminCfg_moves
    | split)

theorem State.doorbell_moves {l_ : List Part} {z_ : State} {s : State} {f : ℕ} {i : ℕ} (h_ : Moves l_ z_ s) (hl_ : Part.sub [.regs, .qe, .fn, .pm, .out] l_ = true) :
    Moves l_ z_ (State.doorbell s f i) := by
  refine h_.step ?_ hl_
  clear h_ hl_
  have h_ := Moves.refl [.regs, .qe, .fn, .pm, .out] s
  unfold State.doorbell
  repeat' (first
    | with_reducible assumption
    | intro _
    | with_reducible apply Moves.ite
    | exact (rfl : _ = true)
    | with_reducible apply State.aer_moves
    | with_reducible apply State.bump_moves
    | with_reducible apply State.gate_moves
    | with_reducible apply State.scanCq_moves
    | with_reducible apply State.scanSq_moves
    | with_reducible apply State.hostActive_moves
    | with_reducible apply State.keepDoorbell_moves
    | with_reducible apply State.when_moves)

theorem State.invalidate_moves {l_ : List Part} {z_ : State} {s : State} {f : ℕ} {i : ℕ} (h_ : Moves l_ z_ s) (hl_ : Part.sub [.regs, .qe, .fn, .out] l_ = true) :
    Moves l_ z_ (State.invalidate s f i) := by
  refine h_.step ?_ hl_
  clear h_ hl_
  have h_ := Moves.refl [.regs, .qe, .fn, .out] s
  unfold State.invalidate
  repeat' (first
    | with_reducible assumption
    | (extract_lets -underBinder +onlyGivenNames x_; (refine (fun hx_ : Moves [.regs, .qe, .fn, .out] s x_ => ?_) ?_; (on_goal 1 => (clear_value x_; revert hx_; revert x_; intro _ _)); (on_goal 2 => subst x_)))
    | exact (rfl : _ = true)
    | with_reducible apply State.discardCached_moves
    | with_reducible apply State.postCqe_moves
    | with_reducible apply State.scanSq_moves
    | with_reducible apply State.setSq_moves
    | with_reducible apply State.updSq_moves
    | split)

theorem State.invalidateBell_moves {l_ : List Part} {z_ : State} {s : State} {f : ℕ} {i : ℕ} (h_ : Moves l_ z_ s) (hl_ : Part.sub [.regs, .qe, .fn, .pm, .out] l_ = true) :
    Moves l_ z_ (State.invalidateBell s f i) := by
  refine h_.step ?_ hl_
  clear h_ hl_
  have h_ := Moves.refl [.regs, .qe, .fn, .pm, .out] s
  unfold State.invalidateBell
  dsimp only
  repeat' (first
    | with_reducible assumption
    | intro _
    | exact (rfl : _ = true)
    | with_reducible apply State.aer_moves
    | with_reducible apply State.bump_moves
    | with_reducible apply State.gate_moves
    | with_reducible apply State.invalidate_moves
    | with_reducible apply State.setSq_moves
    | with_reducible apply State.hostActive_moves
    | split)

theorem State.cqData_moves {l_ : List Part} {z_ : State} {s : State} {f : ℕ} {i : ℕ} {own : List Bool} (h_ : Moves l_ z_ s) (hl_ : Part.sub [.regs, .qe, .fn, .out] l_ = true) :
    Moves l_ z_ (State.cqData s f i own) := by
  refine h_.step ?_ hl_
  clear h_ hl_
  have h_ := Moves.refl [.regs, .qe, .fn, .out] s
  unfold State.cqData
  repeat' (first
    | with_reducible assumption
    | (extract_lets -underBinder +onlyGivenNames x_; first | (refine (fun hx_ : Moves [.regs, .qe, .fn, .out] s x_ => ?_) ?_; (on_goal 1 => (clear_value x_; revert hx_; revert x_; intro _ _)); (on_goal 2 => subst x_)) | (clear_value x_; revert x_; intro _))
    | intro _
    | exact (rfl : _ = true)
    | with_reducible apply State.flushCq_moves
    | with_reducible apply State.scanCq_moves
    | with_reducible apply State.setCq_moves
    | with_reducible apply State.keepDoorbell_moves
    | with_reducible apply State.sendHost_moves
    | with_reducible apply State.when_moves
    | split)

theorem State.serveSpace_moves {l_ : List Part} {z_ : State} {s : State} (h_ : Moves l_ z_ s) (hl_ : Part.sub [.qe, .fn, .out] l_ = true) :
    Moves l_ z_ (State.serveSpace s) := by
  refine h_.step ?_ hl_
  clear h_ hl_
  have h_ := Moves.refl [.qe, .fn, .out] s
  unfold State.serveSpace
  repeat' (first
    | with_reducible assumption
    | exact (rfl : _ = true)
    | with_reducible apply State.scanSq_moves
    | split
    | with_reducible apply Moves.qe)

theorem State.ringFault_moves {l_ : List Part} {z_ : State} {s : State} {f : ℕ} {i : ℕ} {cause : ℕ} (h_ : Moves l_ z_ s) (hl_ : Part.sub [.regs, .qe, .fn, .out] l_ = true) :
    Moves l_ z_ (State.ringFault s f i cause) := by
  refine h_.step ?_ hl_
  clear h_ hl_
  have h_ := Moves.refl [.regs, .qe, .fn, .out] s
  unfold State.ringFault
  repeat' (first
    | with_reducible assumption
    | intro _
    | with_reducible apply Moves.foldl
    | exact (rfl : _ = true)
    | with_reducible apply State.bump_moves
    | with_reducible apply State.captureError_moves
    | with_reducible apply State.setCq_moves
    | with_reducible apply State.setSq_moves
    | with_reducible apply State.updSq_moves
    | with_reducible apply State.writeRsbSq_moves
    | with_reducible apply State.finishIdle_moves
    | split)

theorem State.unmask_moves {l_ : List Part} {z_ : State} {s : State} {f : ℕ} {v : ℕ} (h_ : Moves l_ z_ s) (hl_ : Part.sub [.fn, .out] l_ = true) :
    Moves l_ z_ (State.unmask s f v) := by
  refine h_.step ?_ hl_
  clear h_ hl_
  have h_ := Moves.refl [.fn, .out] s
  unfold State.unmask
  repeat' (first
    | with_reducible assumption
    | intro _
    | with_reducible apply Moves.ite
    | exact (rfl : _ = true)
    | with_reducible apply State.updFn_moves
    | with_reducible apply State.sendHost_moves)

theorem State.readEnable_moves {l_ : List Part} {z_ : State} {s : State} {f : ℕ} {i : ℕ} {en : Bool} (h_ : Moves l_ z_ s) (hl_ : Part.sub [.regs, .qe, .fn, .out] l_ = true) :
    Moves l_ z_ (State.readEnable s f i en) := by
  refine h_.step ?_ hl_
  clear h_ hl_
  have h_ := Moves.refl [.regs, .qe, .fn, .out] s
  unfold State.readEnable
  repeat' (first
    | with_reducible assumption
    | intro _
    | exact (rfl : _ = true)
    | with_reducible apply State.discardCached_moves
    | with_reducible apply State.finishIdle_moves
    | with_reducible apply State.setSq_moves
    | with_reducible apply State.when_moves
    | with_reducible apply State.writeRsbSq_moves
    | split)

theorem State.takeEntries_moves {l_ : List Part} {z_ : State} {s : State} {f : FnId} {i : BitVec 11} {a3_ : List Sqe} (h_ : Moves l_ z_ s) (hl_ : Part.sub [.regs, .qe, .fn, .out] l_ = true) :
    Moves l_ z_ (State.takeEntries s f i a3_).1 := by
  refine h_.step ?_ hl_
  clear h_ hl_
  induction a3_ generalizing s with
  | nil => exact Moves.refl _ _
  | cons y_ n_ ih_ =>
    have h_ := Moves.refl [.regs, .qe, .fn, .out] s
    unfold State.takeEntries
    repeat' (first
      | with_reducible refine Moves.trans ?_ ih_
      | with_reducible assumption
      | (extract_lets -underBinder +onlyGivenNames x_; first | (refine (fun hx_ : Moves [.regs, .qe, .fn, .out] s x_ => ?_) ?_; (on_goal 1 => (clear_value x_; revert hx_; revert x_; intro _ _)); (on_goal 2 => subst x_)) | (clear_value x_; revert x_; intro _))
      | exact (rfl : _ = true)
      | with_reducible apply State.keepDoorbell_moves
      | with_reducible apply State.setCache_moves
      | with_reducible apply State.setSq_moves
      | with_reducible apply State.showPos_moves
      | with_reducible apply State.updSq_moves
      | with_reducible apply State.writeRsbSq_moves
      | split)

theorem State.scanStops_moves {l_ : List Part} {z_ : State} {s : State} {f : ℕ} {i : ℕ} (h_ : Moves l_ z_ s) (hl_ : Part.sub [.regs, .qe, .fn, .out] l_ = true) :
    Moves l_ z_ (State.scanStops s f i) := by
  refine h_.step ?_ hl_
  clear h_ hl_
  have h_ := Moves.refl [.regs, .qe, .fn, .out] s
  unfold State.scanStops
  repeat' (first
    | with_reducible assumption
    | exact (rfl : _ = true)
    | with_reducible apply State.invalidate_moves
    | with_reducible apply State.postCqe_moves
    | with_reducible apply State.scanSq_moves
    | with_reducible apply State.setSq_moves
    | split)

theorem State.sqData_moves {l_ : List Part} {z_ : State} {s : State} {f : FnId} {i : BitVec 11} {en : Bool} {l : List Sqe} (h_ : Moves l_ z_ s) (hl_ : Part.sub [.regs, .qe, .fn, .out] l_ = true) :
    Moves l_ z_ (State.sqData s f i en l) := by
  refine h_.step ?_ hl_
  clear h_ hl_
  have h_ := Moves.refl [.regs, .qe, .fn, .out] s
  unfold State.sqData
  repeat' (first
    | with_reducible assumption
    | (extract_lets -underBinder +onlyGivenNames x_; first | (refine (fun hx_ : Moves [.regs, .qe, .fn, .out] s x_ => ?_) ?_; (on_goal 1 => (clear_value x_; revert hx_; revert x_; intro _ _)); (on_goal 2 => subst x_)) | (clear_value x_; revert x_; intro _))
    | refine Moves.of_fst ?_ (by assumption)
    | with_reducible apply Moves.foldl_fst
    | intro _
    | exact (rfl : _ = true)
    | with_reducible apply State.readEnable_moves
    | with_reducible apply State.scanStops_moves
    | with_reducible apply State.takeEntries_moves
    | with_reducible apply State.keepDoorbell_moves
    | with_reducible apply State.sendHost_moves
    | with_reducible apply State.when_moves
    | split)

theorem State.scanData_moves {l_ : List Part} {z_ : State} {s : State} {f : FnId} {i : BitVec 11} {d : ScanData} (h_ : Moves l_ z_ s) (hl_ : Part.sub [.regs, .qe, .fn, .out] l_ = true) :
    Moves l_ z_ (State.scanData s f i d) := by
  refine h_.step ?_ hl_
  clear h_ hl_
  have h_ := Moves.refl [.regs, .qe, .fn, .out] s
  unfold State.scanData
  dsimp only
  repeat' (first
    | with_reducible assumption
    | intro _
    | exact (rfl : _ = true)
    | with_reducible apply State.aer_moves
    | with_reducible apply State.bump_moves
    | with_reducible apply State.ecrcFail_moves
    | with_reducible apply State.cqData_moves
    | with_reducible apply State.ringFault_moves
    | with_reducible apply State.sqData_moves
    | with_reducible apply State.when_moves
    | with_reducible apply State.hostActive_moves
    | split)

theorem execAdminCfgWrite_moves {t_ : State} {fn : FnId} {reg : Fin 5} {v : Word} {s : State} (e_ : execAdminCfgWrite fn reg v s = .next t_) : Moves [.regs, .qe, .fn, .pm, .out] s t_ := by
  have h_ := Moves.refl [.regs, .qe, .fn, .pm, .out] s
  unfold execAdminCfgWrite at e_
  injection e_ with e_
  subst e_
  repeat' (first
    | with_reducible assumption
    | intro _
    | exact (rfl : _ = true)
    | with_reducible apply State.adminWrite_moves
    | with_reducible apply State.pfWrite_moves)

theorem execDoorbellWrite_moves {t_ : State} {fn : FnId} {i : BitVec 11} {s : State} (e_ : execDoorbellWrite fn i s = .next t_) : Moves [.regs, .qe, .fn, .pm, .out] s t_ := by
  have h_ := Moves.refl [.regs, .qe, .fn, .pm, .out] s
  unfold execDoorbellWrite at e_
  injection e_ with e_
  subst e_
  repeat' (first
    | with_reducible assumption
    | exact (rfl : _ = true)
    | with_reducible apply State.doorbell_moves)

theorem execInvalidateDoorbell_moves {t_ : State} {fn : FnId} {i : BitVec 11} {s : State} (e_ : execInvalidateDoorbell fn i s = .next t_) : Moves [.regs, .qe, .fn, .pm, .out] s t_ := by
  have h_ := Moves.refl [.regs, .qe, .fn, .pm, .out] s
  unfold execInvalidateDoorbell at e_
  injection e_ with e_
  subst e_
  repeat' (first
    | with_reducible assumption
    | exact (rfl : _ = true)
    | with_reducible apply State.invalidateBell_moves)

theorem execModerationTimerExpiry_moves {t_ : State} {fn : FnId} {cq : BitVec 11} {s : State} (e_ : execModerationTimerExpiry fn cq s = .next t_) : Moves [.qe, .fn, .out] s t_ := by
  have h_ := Moves.refl [.qe, .fn, .out] s
  unfold execModerationTimerExpiry at e_
  injection e_ with e_
  subst e_
  repeat' (first
    | with_reducible assumption
    | exact (rfl : _ = true)
    | with_reducible apply State.moderationOver_moves)

theorem execMsixUnmask_moves {t_ : State} {fn : FnId} {vector : BitVec 11} {s : State} (e_ : execMsixUnmask fn vector s = .next t_) : Moves [.fn, .out] s t_ := by
  have h_ := Moves.refl [.fn, .out] s
  unfold execMsixUnmask at e_
  injection e_ with e_
  subst e_
  repeat' (first
    | with_reducible assumption
    | exact (rfl : _ = true)
    | with_reducible apply State.unmask_moves)

theorem execRingScanData_moves {t_ : State} {fn : FnId} {i : BitVec 11} {d : ScanData} {s : State} (e_ : execRingScanData fn i d s = .next t_) : Moves [.regs, .qe, .fn, .out] s t_ := by
  have h_ := Moves.refl [.regs, .qe, .fn, .out] s
  unfold execRingScanData at e_
  injection e_ with e_
  subst e_
  repeat' (first
    | with_reducible assumption
    | exact (rfl : _ = true)
    | with_reducible apply State.scanData_moves)

end Sys2Proof.Machine
end

