-- ==== Sys2Proof/Laws/MoversMoves.lean ====
section
/-! SUPPORT. What the operations of Machine/Movers.lean may touch. -/

set_option Elab.async false
set_option linter.unusedTactic false
set_option linter.unreachableTactic false

namespace Sys2Proof.Machine

theorem State.endTapBuf_moves {l_ : List Part} {z_ : State} {s : State} {t : ℕ} {b : TapBuf} {status : ℕ} {urgent : Bool} (h_ : Moves l_ z_ s) (hl_ : Part.sub [.regs, .qe, .bm, .xb, .fn, .out] l_ = true) :
    Moves l_ z_ (State.endTapBuf s t b status urgent) := by
  refine h_.step ?_ hl_
  clear h_ hl_
  have h_ := Moves.refl [.regs, .qe, .bm, .xb, .fn, .out] s
  unfold State.endTapBuf
  repeat' (first
    | with_reducible assumption
    | exact (rfl : _ = true)
    | with_reducible apply State.endEntry_moves)

theorem State.endMove_moves {l_ : List Part} {z_ : State} {s : State} {c : ℕ} {j : Job} {status : ℕ} {urgent : Bool} (h_ : Moves l_ z_ s) (hl_ : Part.sub [.regs, .qe, .bm, .xb, .fn, .out] l_ = true) :
    Moves l_ z_ (State.endMove s c j status urgent) := by
  refine h_.step ?_ hl_
  clear h_ hl_
  have h_ := Moves.refl [.regs, .qe, .bm, .xb, .fn, .out] s
  unfold State.endMove
  repeat' (first
    | with_reducible assumption
    | exact (rfl : _ = true)
    | with_reducible apply State.endEntry_moves)

theorem State.fillOut_moves {l_ : List Part} {z_ : State} {s : State} {x : ℕ} {host : List Byte} (h_ : Moves l_ z_ s) (hl_ : Part.sub [.ebm, .bus, .pu, .out] l_ = true) :
    Moves l_ z_ (State.fillOut s x host) := by
  refine h_.step ?_ hl_
  clear h_ hl_
  have h_ := Moves.refl [.ebm, .bus, .pu, .out] s
  unfold State.fillOut
  repeat' (first
    | with_reducible assumption
    | (extract_lets -underBinder +onlyGivenNames x_; first | (refine (fun hx_ : Moves [.ebm, .bus, .pu, .out] s x_ => ?_) ?_; (on_goal 1 => (clear_value x_; revert hx_; revert x_; intro _ _)); (on_goal 2 => subst x_)) | (clear_value x_; revert x_; intro _))
    | intro _
    | exact (rfl : _ = true)
    | with_reducible apply State.saveSeq_moves
    | with_reducible apply State.setXfer_moves
    | with_reducible apply State.fillBuf_moves
    | with_reducible apply State.showBufs_moves
    | split)

theorem State.letGo_moves {l_ : List Part} {z_ : State} {s : State} {e : ℕ} (h_ : Moves l_ z_ s) (hl_ : Part.sub [.regs, .bm] l_ = true) :
    Moves l_ z_ (State.letGo s e) := by
  refine h_.step ?_ hl_
  clear h_ hl_
  have h_ := Moves.refl [.regs, .bm] s
  unfold State.letGo
  repeat' (first
    | with_reducible assumption
    | exact (rfl : _ = true)
    | with_reducible apply State.setEngine_moves)

theorem State.clipData_moves {l_ : List Part} {z_ : State} {s : State} {g : ℕ} {ref : EntryRef} {b : List Byte} (h_ : Moves l_ z_ s) (hl_ : Part.sub [.ebm, .mre] l_ = true) :
    Moves l_ z_ (State.clipData s g ref b) := by
  refine h_.step ?_ hl_
  clear h_ hl_
  have h_ := Moves.refl [.ebm, .mre] s
  unfold State.clipData
  repeat' (first
    | with_reducible assumption
    | exact (rfl : _ = true)
    | with_reducible apply State.ebmWrite_moves
    | with_reducible apply State.setGen_moves
    | split)

theorem State.burstData_moves {l_ : List Part} {z_ : State} {s : State} {c : ℕ} {j : Job} {k : ReqKind} {b : List Byte} (h_ : Moves l_ z_ s) (hl_ : Part.sub [.regs, .ebm, .bus, .qe, .bm, .xb, .fn, .mre, .pu, .out] l_ = true) :
    Moves l_ z_ (State.burstData s c j k b) := by
  refine h_.step ?_ hl_
  clear h_ hl_
  have h_ := Moves.refl [.regs, .ebm, .bus, .qe, .bm, .xb, .fn, .mre, .pu, .out] s
  unfold State.burstData
  repeat' (first
    | with_reducible assumption
    | (extract_lets -underBinder +onlyGivenNames x_; first | (refine (fun hx_ : Moves [.regs, .ebm, .bus, .qe, .bm, .xb, .fn, .mre, .pu, .out] s x_ => ?_) ?_; (on_goal 1 => (clear_value x_; revert hx_; revert x_; intro _ _)); (on_goal 2 => subst x_)) | subst x_)
    | intro _
    | exact (rfl : _ = true)
    | with_reducible apply State.bump_moves
    | with_reducible apply State.clipData_moves
    | with_reducible apply State.endMove_moves
    | with_reducible apply State.fillOut_moves
    | with_reducible apply State.letGo_moves
    | with_reducible apply State.setJob_moves
    | with_reducible apply State.when_moves
    | with_reducible apply State.sendHost_moves
    | split)

theorem State.burstEnds_moves {l_ : List Part} {z_ : State} {s : State} {c : ℕ} {k : ReqKind} {b : List Byte} (h_ : Moves l_ z_ s) (hl_ : Part.sub [.regs, .ebm, .bus, .qe, .bm, .xb, .fn, .mre, .pu, .out] l_ = true) :
    Moves l_ z_ (State.burstEnds s c k b) := by
  refine h_.step ?_ hl_
  clear h_ hl_
  have h_ := Moves.refl [.regs, .ebm, .bus, .qe, .bm, .xb, .fn, .mre, .pu, .out] s
  unfold State.burstEnds
  repeat' (first
    | with_reducible assumption
    | (extract_lets -underBinder +onlyGivenNames x_; first | (refine (fun hx_ : Moves [.regs, .ebm, .bus, .qe, .bm, .xb, .fn, .mre, .pu, .out] s x_ => ?_) ?_; (on_goal 1 => (clear_value x_; revert hx_; revert x_; intro _ _)); (on_goal 2 => subst x_)) | (clear_value x_; revert x_; intro _))
    | exact (rfl : _ = true)
    | with_reducible apply State.burstData_moves
    | with_reducible apply State.completeRef_moves
    | with_reducible apply State.freeChan_moves
    | with_reducible apply State.letGo_moves
    | with_reducible apply State.settleFn_moves
    | split)

theorem State.drainIn_moves {l_ : List Part} {z_ : State} {s : State} {c : ℕ} {x : ℕ} (h_ : Moves l_ z_ s) (hl_ : Part.sub [.regs, .lx, .tree, .ts, .ebm, .bus, .qe, .bm, .xb, .fn, .mre, .pu, .ck, .free, .out] l_ = true) :
    Moves l_ z_ (State.drainIn s c x) := by
  refine h_.step ?_ hl_
  clear h_ hl_
  have h_ := Moves.refl [.regs, .lx, .tree, .ts, .ebm, .bus, .qe, .bm, .xb, .fn, .mre, .pu, .ck, .free, .out] s
  unfold State.drainIn
  repeat' (first
    | with_reducible assumption
    | (extract_lets -underBinder +onlyGivenNames x_; first | (refine (fun hx_ : Moves [.regs, .lx, .tree, .ts, .ebm, .bus, .qe, .bm, .xb, .fn, .mre, .pu, .ck, .free, .out] s x_ => ?_) ?_; (on_goal 1 => (clear_value x_; revert hx_; revert x_; intro _ _)); (on_goal 2 => subst x_)) | (clear_value x_; revert x_; intro _))
    | intro _
    | exact (rfl : _ = true)
    | with_reducible apply State.bump_moves
    | with_reducible apply State.setXfer_moves
    | with_reducible apply State.settleXfer_moves
    | with_reducible apply State.showBufs_moves
    | with_reducible apply State.sendHost_moves
    | split)

theorem State.startUnit_moves {l_ : List Part} {z_ : State} {s : State} {e : ℕ} {c : ℕ} (h_ : Moves l_ z_ s) (hl_ : Part.sub [.regs, .lx, .tree, .ts, .ebm, .bus, .qe, .bm, .xb, .fn, .mre, .pu, .ck, .free, .out] l_ = true) :
    Moves l_ z_ (State.startUnit s e c) := by
  refine h_.step ?_ hl_
  clear h_ hl_
  have h_ := Moves.refl [.regs, .lx, .tree, .ts, .ebm, .bus, .qe, .bm, .xb, .fn, .mre, .pu, .ck, .free, .out] s
  unfold State.startUnit
  repeat' (first
    | with_reducible assumption
    | (extract_lets -underBinder +onlyGivenNames x_; first | (refine (fun hx_ : Moves [.regs, .lx, .tree, .ts, .ebm, .bus, .qe, .bm, .xb, .fn, .mre, .pu, .ck, .free, .out] s x_ => ?_) ?_; (on_goal 1 => (clear_value x_; revert hx_; revert x_; intro _ _)); (on_goal 2 => subst x_)) | (clear_value x_; revert x_; intro _))
    | intro _
    | exact (rfl : _ = true)
    | with_reducible apply State.bump_moves
    | with_reducible apply State.burstEnds_moves
    | with_reducible apply State.drainIn_moves
    | with_reducible apply State.endMove_moves
    | with_reducible apply State.fillOut_moves
    | with_reducible apply State.letGo_moves
    | with_reducible apply State.setEngine_moves
    | with_reducible apply State.sendHost_moves
    | split)

theorem State.prefetch_moves {l_ : List Part} {z_ : State} {s : State} {e : ℕ} {c : ℕ} (h_ : Moves l_ z_ s) (hl_ : Part.sub [.regs, .bm, .fn, .out] l_ = true) :
    Moves l_ z_ (State.prefetch s e c) := by
  refine h_.step ?_ hl_
  clear h_ hl_
  have h_ := Moves.refl [.regs, .bm, .fn, .out] s
  unfold State.prefetch
  repeat' (first
    | with_reducible assumption
    | (extract_lets -underBinder +onlyGivenNames x_; (clear_value x_; revert x_; intro _))
    | intro _
    | exact (rfl : _ = true)
    | with_reducible apply State.setEngine_moves
    | with_reducible apply State.sendHost_moves
    | split)

theorem State.burstStart_moves {l_ : List Part} {z_ : State} {s : State} {e : ℕ} (h_ : Moves l_ z_ s)
    (hl_ : Part.sub [.regs, .lx, .tree, .ts, .ebm, .bus, .qe, .bm, .xb, .fn, .mre, .pu, .ck, .free, .out] l_ = true) : Moves l_ z_ (State.burstStart s e) := by
  have hu : ∀ t c, Moves l_ z_ t → Moves l_ z_ (t.startUnit e c) := fun t c h => State.startUnit_moves h (Part.sub_trans rfl hl_)
  have hg : Moves l_ z_ (s.letGo e) := State.letGo_moves h_ (Part.sub_trans rfl hl_)
  unfold State.burstStart
  refine Moves.ite (fun _ => h_) (fun _ => ?_)
  extract_lets next
  have hx : ∀ t, Moves l_ z_ t → Moves l_ z_ (next t) := fun t h => by
    simp only [next]; split <;> [exact hu _ _ h; exact h]
  split
  · exact hx _ h_
  · refine Moves.ite (fun _ => State.prefetch_moves h_ (Part.sub_trans rfl hl_)) (fun _ => ?_)
    split
    · exact hg
    · exact Moves.ite (fun _ => hx _ hg) (fun _ => hu _ _ h_)

theorem State.dropClip_moves {l_ : List Part} {z_ : State} {s : State} {g : ℕ} {ref : EntryRef} {status : ℕ} (h_ : Moves l_ z_ s) (hl_ : Part.sub [.regs, .ebm, .bus, .qe, .bm, .xb, .fn, .mre, .out] l_ = true) :
    Moves l_ z_ (State.dropClip s g ref status) := by
  refine h_.step ?_ hl_
  clear h_ hl_
  have h_ := Moves.refl [.regs, .ebm, .bus, .qe, .bm, .xb, .fn, .mre, .out] s
  unfold State.dropClip
  repeat' (first
    | with_reducible assumption
    | exact (rfl : _ = true)
    | with_reducible apply State.completeRef_moves
    | with_reducible apply State.endClip_moves
    | with_reducible apply State.restGen_moves
    | with_reducible apply State.setGen_moves
    | split)

theorem State.failClips_moves {l_ : List Part} {z_ : State} {s : State} {g : ℕ} {ref : EntryRef} {status : ℕ} (h_ : Moves l_ z_ s) (hl_ : Part.sub [.regs, .ebm, .bus, .qe, .bm, .xb, .fn, .mre, .out] l_ = true) :
    Moves l_ z_ (State.failClips s g ref status) := by
  refine h_.step ?_ hl_
  clear h_ hl_
  have h_ := Moves.refl [.regs, .ebm, .bus, .qe, .bm, .xb, .fn, .mre, .out] s
  unfold State.failClips
  repeat' (first
    | with_reducible assumption
    | (extract_lets -underBinder +onlyGivenNames x_; first | (refine (fun hx_ : Moves [.regs, .ebm, .bus, .qe, .bm, .xb, .fn, .mre, .out] s x_ => ?_) ?_; (on_goal 1 => (clear_value x_; revert hx_; revert x_; intro _ _)); (on_goal 2 => subst x_)) | (clear_value x_; revert x_; intro _))
    | intro _
    | with_reducible apply Moves.foldl
    | exact (rfl : _ = true)
    | with_reducible apply State.completeRef_moves
    | with_reducible apply State.endClip_moves
    | with_reducible apply State.restGen_moves
    | with_reducible apply State.setGen_moves
    | split)

theorem State.endJob_moves {l_ : List Part} {z_ : State} {s : State} {c : ℕ} {status : ℕ} {fault : Bool} (h_ : Moves l_ z_ s) (hl_ : Part.sub [.regs, .ts, .ebm, .bus, .qe, .bm, .xb, .fn, .mre, .out] l_ = true) :
    Moves l_ z_ (State.endJob s c status fault) := by
  refine h_.step ?_ hl_
  clear h_ hl_
  have h_ := Moves.refl [.regs, .ts, .ebm, .bus, .qe, .bm, .xb, .fn, .mre, .out] s
  unfold State.endJob
  repeat' (first
    | with_reducible assumption
    | intro _
    | with_reducible apply Moves.foldl
    | exact (rfl : _ = true)
    | with_reducible apply State.dropClip_moves
    | with_reducible apply State.endMove_moves
    | with_reducible apply State.endTapBuf_moves
    | with_reducible apply State.endXfer_moves
    | with_reducible apply State.failClips_moves
    | with_reducible apply State.setTap_moves
    | split)

theorem State.engineFault_moves {l_ : List Part} {z_ : State} {s : State} {e : ℕ} {q : HostReq} {kind : ℕ} {cause : ℕ} (h_ : Moves l_ z_ s) (hl_ : Part.sub [.regs, .ts, .ebm, .bus, .qe, .bm, .xb, .fn, .mre, .out] l_ = true) :
    Moves l_ z_ (State.engineFault s e q kind cause) := by
  refine h_.step ?_ hl_
  clear h_ hl_
  have h_ := Moves.refl [.regs, .ts, .ebm, .bus, .qe, .bm, .xb, .fn, .mre, .out] s
  unfold State.engineFault
  repeat' (first
    | with_reducible assumption
    | intro _
    | with_reducible apply Moves.ite
    | with_reducible apply Moves.foldl
    | exact (rfl : _ = true)
    | with_reducible apply State.aer_moves
    | with_reducible apply State.bump_moves
    | with_reducible apply State.captureError_moves
    | with_reducible apply State.endJob_moves
    | with_reducible apply State.setB_moves
    | with_reducible apply State.setEngine_moves
    | with_reducible apply State.setF_moves
    | with_reducible apply State.setReg_moves
    | with_reducible apply State.when_moves
    | with_reducible apply State.prefetch_moves)

theorem State.engineRestart_moves {l_ : List Part} {z_ : State} {s : State} {r : EntryRef} {e : ℕ} (h_ : Moves l_ z_ s) (hl_ : Part.sub [.regs, .qe, .bm, .xb, .fn, .out] l_ = true) :
    Moves l_ z_ (State.engineRestart s r e) := by
  refine h_.step ?_ hl_
  clear h_ hl_
  have h_ := Moves.refl [.regs, .qe, .bm, .xb, .fn, .out] s
  unfold State.engineRestart
  repeat' (first
    | with_reducible assumption
    | intro _
    | with_reducible apply Moves.ite
    | exact (rfl : _ = true)
    | with_reducible apply State.completeRef_moves
    | with_reducible apply State.setB_moves
    | with_reducible apply State.setEngine_moves)

theorem State.bufferLost_moves {l_ : List Part} {z_ : State} {s : State} {e : ℕ} {c : ℕ} (h_ : Moves l_ z_ s) (hl_ : Part.sub [.regs, .ts, .ebm, .bus, .qe, .bm, .xb, .fn, .mre, .out] l_ = true) :
    Moves l_ z_ (State.bufferLost s e c) := by
  refine h_.step ?_ hl_
  clear h_ hl_
  have h_ := Moves.refl [.regs, .ts, .ebm, .bus, .qe, .bm, .xb, .fn, .mre, .out] s
  unfold State.bufferLost
  repeat' (first
    | with_reducible assumption
    | intro _
    | exact (rfl : _ = true)
    | with_reducible apply State.captureError_moves
    | with_reducible apply State.endJob_moves
    | split)

theorem State.hostCompletion_moves {l_ : List Part} {z_ : State} {s : State} {e : ℕ} {st : CplStatus} {data : List Byte} (h_ : Moves l_ z_ s) (hl_ : Part.sub [.regs, .ts, .ebm, .bus, .qe, .bm, .xb, .fn, .mre, .pu, .out] l_ = true) :
    Moves l_ z_ (State.hostCompletion s e st data) := by
  refine h_.step ?_ hl_
  clear h_ hl_
  have h_ := Moves.refl [.regs, .ts, .ebm, .bus, .qe, .bm, .xb, .fn, .mre, .pu, .out] s
  unfold State.hostCompletion
  repeat' (first
    | with_reducible assumption
    | (extract_lets -underBinder +onlyGivenNames x_; first | (refine (fun hx_ : Moves [.regs, .ts, .ebm, .bus, .qe, .bm, .xb, .fn, .mre, .pu, .out] s x_ => ?_) ?_; (on_goal 1 => (clear_value x_; revert hx_; revert x_; intro _ _)); (on_goal 2 => subst x_)) | (clear_value x_; revert x_; intro _))
    | intro _
    | exact (rfl : _ = true)
    | with_reducible apply State.aer_moves
    | with_reducible apply State.bufferLost_moves
    | with_reducible apply State.bump_moves
    | with_reducible apply State.ecrcFail_moves
    | with_reducible apply State.burstEnds_moves
    | with_reducible apply State.engineFault_moves
    | with_reducible apply State.setEngine_moves
    | with_reducible apply State.hostActive_moves
    | with_reducible apply State.prefetch_moves
    | split)

theorem State.burstRead_moves {l_ : List Part} {z_ : State} {s : State} {e : ℕ} {parity : Bool} (h_ : Moves l_ z_ s) (hl_ : Part.sub [.regs, .lx, .tree, .ts, .ebm, .bus, .qe, .bm, .xb, .fn, .mre, .pu, .ck, .free, .out] l_ = true) :
    Moves l_ z_ (State.burstRead s e parity) := by
  refine h_.step ?_ hl_
  clear h_ hl_
  have h_ := Moves.refl [.regs, .lx, .tree, .ts, .ebm, .bus, .qe, .bm, .xb, .fn, .mre, .pu, .ck, .free, .out] s
  unfold State.burstRead
  repeat' (first
    | with_reducible assumption
    | intro _
    | exact (rfl : _ = true)
    | with_reducible apply State.bufferLost_moves
    | with_reducible apply State.burstStart_moves
    | split)

theorem State.hostTimeout_moves {l_ : List Part} {z_ : State} {s : State} {who : Requester} (h_ : Moves l_ z_ s) (hl_ : Part.sub [.regs, .ts, .ebm, .bus, .qe, .bm, .xb, .fn, .mre, .out] l_ = true) :
    Moves l_ z_ (State.hostTimeout s who) := by
  refine h_.step ?_ hl_
  clear h_ hl_
  have h_ := Moves.refl [.regs, .ts, .ebm, .bus, .qe, .bm, .xb, .fn, .mre, .out] s
  unfold State.hostTimeout
  repeat' (first
    | with_reducible assumption
    | (extract_lets -underBinder +onlyGivenNames x_; first | (refine (fun hx_ : Moves [.regs, .ts, .ebm, .bus, .qe, .bm, .xb, .fn, .mre, .out] s x_ => ?_) ?_; (on_goal 1 => (clear_value x_; revert hx_; revert x_; intro _ _)); (on_goal 2 => subst x_)) | (clear_value x_; revert x_; intro _))
    | intro _
    | exact (rfl : _ = true)
    | with_reducible apply State.aer_moves
    | with_reducible apply State.engineFault_moves
    | with_reducible apply State.ringFault_moves
    | with_reducible apply State.setEngine_moves
    | with_reducible apply State.hostActive_moves
    | split)

theorem State.restartDone_moves {l_ : List Part} {z_ : State} {s : State} {e : ℕ} (h_ : Moves l_ z_ s) (hl_ : Part.sub [.regs, .qe, .bm, .xb, .fn, .out] l_ = true) :
    Moves l_ z_ (State.restartDone s e) := by
  refine h_.step ?_ hl_
  clear h_ hl_
  have h_ := Moves.refl [.regs, .qe, .bm, .xb, .fn, .out] s
  unfold State.restartDone
  repeat' (first
    | with_reducible assumption
    | intro _
    | with_reducible apply Moves.ite
    | with_reducible apply Moves.foldl
    | exact (rfl : _ = true)
    | with_reducible apply State.completeRef_moves
    | with_reducible apply State.setB_moves
    | with_reducible apply State.setEngine_moves
    | with_reducible apply State.setF_moves)

theorem execBmAbort_moves {t_ : State} {ch : BitVec 10} {s : State} (e_ : execBmAbort ch s = .next t_) : Moves [.regs, .ts, .ebm, .bus, .qe, .bm, .xb, .fn, .mre, .pm, .out] s t_ := by
  have h_ := Moves.refl [.regs, .ts, .ebm, .bus, .qe, .bm, .xb, .fn, .mre, .pm, .out] s
  unfold execBmAbort at e_
  injection e_ with e_
  subst e_
  repeat' (first
    | with_reducible assumption
    | intro _
    | exact (rfl : _ = true)
    | with_reducible apply State.endJob_moves
    | with_reducible apply State.pfWrite_moves)

theorem execBmBurstStart_moves {t_ : State} {e : BurstAt} {s : State} (e_ : execBmBurstStart e s = .next t_) : Moves [.regs, .lx, .tree, .ts, .ebm, .bus, .qe, .bm, .xb, .fn, .mre, .pu, .ck, .free, .out] s t_ := by
  have h_ := Moves.refl [.regs, .lx, .tree, .ts, .ebm, .bus, .qe, .bm, .xb, .fn, .mre, .pu, .ck, .free, .out] s
  unfold execBmBurstStart at e_
  injection e_ with e_
  subst e_
  repeat' (first
    | with_reducible assumption
    | intro _
    | exact (rfl : _ = true)
    | with_reducible apply State.burstRead_moves
    | split)

theorem execBmHostCompletion_moves {t_ : State} {e : EngineId} {st : CplStatus} {data : List Byte} {s : State} (e_ : execBmHostCompletion e st data s = .next t_) : Moves [.regs, .ts, .ebm, .bus, .qe, .bm, .xb, .fn, .mre, .pu, .out] s t_ := by
  have h_ := Moves.refl [.regs, .ts, .ebm, .bus, .qe, .bm, .xb, .fn, .mre, .pu, .out] s
  unfold execBmHostCompletion at e_
  injection e_ with e_
  subst e_
  repeat' (first
    | with_reducible assumption
    | exact (rfl : _ = true)
    | with_reducible apply State.hostCompletion_moves)

theorem execEngineRestartDone_moves {t_ : State} {e : EngineId} {s : State} (e_ : execEngineRestartDone e s = .next t_) : Moves [.regs, .qe, .bm, .xb, .fn, .out] s t_ := by
  have h_ := Moves.refl [.regs, .qe, .bm, .xb, .fn, .out] s
  unfold execEngineRestartDone at e_
  injection e_ with e_
  subst e_
  repeat' (first
    | with_reducible assumption
    | exact (rfl : _ = true)
    | with_reducible apply State.restartDone_moves)

theorem execHostCompletionTimeout_moves {t_ : State} {who : Requester} {s : State} (e_ : execHostCompletionTimeout who s = .next t_) : Moves [.regs, .ts, .ebm, .bus, .qe, .bm, .xb, .fn, .mre, .out] s t_ := by
  have h_ := Moves.refl [.regs, .ts, .ebm, .bus, .qe, .bm, .xb, .fn, .mre, .out] s
  unfold execHostCompletionTimeout at e_
  injection e_ with e_
  subst e_
  repeat' (first
    | with_reducible assumption
    | exact (rfl : _ = true)
    | with_reducible apply State.hostTimeout_moves)

end Sys2Proof.Machine
end

