-- ==== Sys2Proof/Laws/BridgeMoves.lean ====
section
/-! SUPPORT. What the operations of Machine/Bridge.lean may touch. -/

set_option Elab.async false
set_option linter.unusedTactic false
set_option linter.unreachableTactic false

namespace Sys2Proof.Machine

theorem State.arrive_moves {l_ : List Part} {z_ : State} {s : State}  (h_ : Moves l_ z_ s) (hl_ : Part.sub [.xb] l_ = true) :
    Moves l_ z_ (State.arrive s ) := by
  refine h_.step ?_ hl_
  clear h_ hl_
  have h_ := Moves.refl [.xb] s
  unfold State.arrive
  repeat' (first
    | with_reducible assumption
    | intro _
    | with_reducible apply Moves.ite
    | exact (rfl : _ = true)
    | split
    | with_reducible apply Moves.xb)

theorem State.viewWritePart_moves {l_ : List Part} {z_ : State} {s : State} {k : ℕ} {a : Acc} (h_ : Moves l_ z_ s) (hl_ : Part.sub [.regs, .xb, .fn, .out] l_ = true) :
    Moves l_ z_ (State.viewWritePart s k a) := by
  refine h_.step ?_ hl_
  clear h_ hl_
  have h_ := Moves.refl [.regs, .xb, .fn, .out] s
  unfold State.viewWritePart
  repeat' (first
    | with_reducible assumption
    | intro _
    | with_reducible apply Moves.ite
    | exact (rfl : _ = true)
    | with_reducible apply State.bump_moves
    | with_reducible apply State.updView_moves
    | with_reducible apply State.writeFailed_moves)

theorem State.viewsTaken_moves {l_ : List Part} {z_ : State} {s : State} (h_ : Moves l_ z_ s) (hl_ : Part.sub [.regs, .ts, .ebm, .bus, .qe, .bm, .xb, .fn, .mre, .out] l_ = true) :
    Moves l_ z_ (State.viewsTaken s) := by
  refine h_.step ?_ hl_
  clear h_ hl_
  have h_ := Moves.refl [.regs, .ts, .ebm, .bus, .qe, .bm, .xb, .fn, .mre, .out] s
  unfold State.viewsTaken
  repeat' (first
    | with_reducible assumption
    | intro _
    | with_reducible apply Moves.foldl
    | exact (rfl : _ = true)
    | with_reducible apply State.aer_moves
    | with_reducible apply State.endXfer_moves
    | with_reducible apply State.lockEnd_moves
    | with_reducible apply State.updView_moves
    | with_reducible apply State.viewWritePart_moves
    | with_reducible apply State.sendHost_moves
    | split)

theorem State.lockTry_moves {l_ : List Part} {z_ : State} {s : State} {k : ℕ} {retry : Bool} (h_ : Moves l_ z_ s) (hl_ : Part.sub [.regs, .bus, .xb, .free, .out] l_ = true) :
    Moves l_ z_ (State.lockTry s k retry) := by
  refine h_.step ?_ hl_
  clear h_ hl_
  have h_ := Moves.refl [.regs, .bus, .xb, .free, .out] s
  unfold State.lockTry
  dsimp only
  repeat' (first
    | with_reducible assumption
    | intro _
    | exact (rfl : _ = true)
    | with_reducible apply State.lockSend_moves
    | with_reducible apply State.setLock_moves
    | split)

theorem State.lockWaitOver_moves {l_ : List Part} {z_ : State} {s : State} {k : ℕ} (h_ : Moves l_ z_ s) (hl_ : Part.sub [.regs, .bus, .qe, .bm, .xb, .fn, .out] l_ = true) :
    Moves l_ z_ (State.lockWaitOver s k) := by
  refine h_.step ?_ hl_
  clear h_ hl_
  have h_ := Moves.refl [.regs, .bus, .qe, .bm, .xb, .fn, .out] s
  unfold State.lockWaitOver
  repeat' (first
    | with_reducible assumption
    | intro _
    | exact (rfl : _ = true)
    | with_reducible apply State.lockEnd_moves
    | split)

theorem State.winCfg_moves {l_ : List Part} {z_ : State} {s : State} {w : ℕ} {base : Bool} {v : Word} (h_ : Moves l_ z_ s) (hl_ : Part.sub [.regs] l_ = true) :
    Moves l_ z_ (State.winCfg s w base v) := by
  refine h_.step ?_ hl_
  clear h_ hl_
  have h_ := Moves.refl [.regs] s
  unfold State.winCfg
  repeat' (first
    | with_reducible assumption
    | intro _
    | with_reducible apply Moves.ite
    | exact (rfl : _ = true)
    | with_reducible apply State.setB_moves
    | with_reducible apply State.writeReg_moves)

theorem State.readLimitOver_moves {l_ : List Part} {z_ : State} {s : State} {k : ℕ} (h_ : Moves l_ z_ s) (hl_ : Part.sub [.regs, .xb, .fn, .out] l_ = true) :
    Moves l_ z_ (State.readLimitOver s k) := by
  refine h_.step ?_ hl_
  clear h_ hl_
  have h_ := Moves.refl [.regs, .xb, .fn, .out] s
  unfold State.readLimitOver
  repeat' (first
    | with_reducible assumption
    | (extract_lets -underBinder +onlyGivenNames x_; (clear_value x_; revert x_; intro _))
    | exact (rfl : _ = true)
    | with_reducible apply State.readFailed_moves
    | with_reducible apply State.setView_moves
    | split)

theorem State.refuseRead_moves {l_ : List Part} {z_ : State} {s : State} {k : ℕ} (h_ : Moves l_ z_ s) (hl_ : Part.sub [.regs, .xb, .fn, .out] l_ = true) :
    Moves l_ z_ (State.refuseRead s k) := by
  refine h_.step ?_ hl_
  clear h_ hl_
  have h_ := Moves.refl [.regs, .xb, .fn, .out] s
  unfold State.refuseRead
  repeat' (first
    | with_reducible assumption
    | intro _
    | with_reducible apply Moves.ite
    | exact (rfl : _ = true)
    | with_reducible apply State.aer_moves
    | with_reducible apply State.clearView_moves
    | with_reducible apply State.sendHost_moves)

theorem State.unsupported_moves {l_ : List Part} {z_ : State} {s : State} {f : ℕ} {read : Bool} (h_ : Moves l_ z_ s) (hl_ : Part.sub [.fn, .out] l_ = true) :
    Moves l_ z_ (State.unsupported s f read) := by
  refine h_.step ?_ hl_
  clear h_ hl_
  have h_ := Moves.refl [.fn, .out] s
  unfold State.unsupported
  repeat' (first
    | with_reducible assumption
    | intro _
    | exact (rfl : _ = true)
    | with_reducible apply State.aer_moves
    | with_reducible apply State.when_moves
    | with_reducible apply State.sendHost_moves)

theorem State.viewAtomic_moves {l_ : List Part} {z_ : State} {s : State} {k : ℕ} {off : ℕ} {wide : Bool} {op : AtomicOp} (h_ : Moves l_ z_ s) (hl_ : Part.sub [.regs, .xb, .fn, .pm, .out] l_ = true) :
    Moves l_ z_ (State.viewAtomic s k off wide op) := by
  refine h_.step ?_ hl_
  clear h_ hl_
  have h_ := Moves.refl [.regs, .xb, .fn, .pm, .out] s
  unfold State.viewAtomic
  repeat' (first
    | with_reducible assumption
    | (extract_lets -underBinder +onlyGivenNames x_; (clear_value x_; revert x_; intro _))
    | intro _
    | exact (rfl : _ = true)
    | with_reducible apply State.gate_moves
    | with_reducible apply State.readFailed_moves
    | with_reducible apply State.refuseRead_moves
    | with_reducible apply State.unsupported_moves
    | with_reducible apply State.updView_moves
    | with_reducible apply State.arrive_moves
    | with_reducible apply State.sendHost_moves
    | split)

theorem State.viewRead_moves {l_ : List Part} {z_ : State} {s : State} {k : ℕ} {off : ℕ} {n : ℕ} (h_ : Moves l_ z_ s) (hl_ : Part.sub [.regs, .xb, .fn, .pm, .out] l_ = true) :
    Moves l_ z_ (State.viewRead s k off n) := by
  refine h_.step ?_ hl_
  clear h_ hl_
  have h_ := Moves.refl [.regs, .xb, .fn, .pm, .out] s
  unfold State.viewRead
  repeat' (first
    | with_reducible assumption
    | (extract_lets -underBinder +onlyGivenNames x_; (clear_value x_; revert x_; intro _))
    | intro _
    | exact (rfl : _ = true)
    | with_reducible apply State.gate_moves
    | with_reducible apply State.readFailed_moves
    | with_reducible apply State.refuseRead_moves
    | with_reducible apply State.unsupported_moves
    | with_reducible apply State.updView_moves
    | with_reducible apply State.arrive_moves
    | with_reducible apply State.sendHost_moves
    | split)

theorem State.viewStart_moves {l_ : List Part} {z_ : State} {s : State} {k : ℕ} (h_ : Moves l_ z_ s) (hl_ : Part.sub [.regs, .ebm, .bus, .qe, .bm, .xb, .fn, .mre, .out] l_ = true) :
    Moves l_ z_ (State.viewStart s k) := by
  refine h_.step ?_ hl_
  clear h_ hl_
  have h_ := Moves.refl [.regs, .ebm, .bus, .qe, .bm, .xb, .fn, .mre, .out] s
  unfold State.viewStart
  repeat' (first
    | with_reducible assumption
    | (extract_lets -underBinder +onlyGivenNames x_; first | (refine (fun hx_ : Moves [.regs, .ebm, .bus, .qe, .bm, .xb, .fn, .mre, .out] s x_ => ?_) ?_; (on_goal 1 => (clear_value x_; revert hx_; revert x_; intro _ _)); (on_goal 2 => subst x_)) | (clear_value x_; revert x_; intro _))
    | intro _
    | exact (rfl : _ = true)
    | with_reducible apply State.beginXfer_moves
    | with_reducible apply State.endAccess_moves
    | with_reducible apply State.setView_moves
    | with_reducible apply State.updView_moves
    | split)

theorem State.viewWrite_moves {l_ : List Part} {z_ : State} {s : State} {k : ℕ} {off : ℕ} {b : List Byte} (h_ : Moves l_ z_ s) (hl_ : Part.sub [.regs, .xb, .fn, .pm, .out] l_ = true) :
    Moves l_ z_ (State.viewWrite s k off b) := by
  refine h_.step ?_ hl_
  clear h_ hl_
  have h_ := Moves.refl [.regs, .xb, .fn, .pm, .out] s
  unfold State.viewWrite
  repeat' (first
    | with_reducible assumption
    | intro _
    | with_reducible apply Moves.foldl
    | exact (rfl : _ = true)
    | with_reducible apply State.gate_moves
    | with_reducible apply State.unsupported_moves
    | with_reducible apply State.viewWritePart_moves
    | with_reducible apply State.arrive_moves
    | split)

theorem execAtomicopRequest_moves {t_ : State} {view : View} {off : ℕ} {wide : Bool} {op : AtomicOp} {s : State} (e_ : execAtomicopRequest view off wide op s = .next t_) : Moves [.regs, .xb, .fn, .pm, .out] s t_ := by
  have h_ := Moves.refl [.regs, .xb, .fn, .pm, .out] s
  unfold execAtomicopRequest at e_
  injection e_ with e_
  subst e_
  repeat' (first
    | with_reducible assumption
    | exact (rfl : _ = true)
    | with_reducible apply State.viewAtomic_moves)

theorem execLockRetry_moves {t_ : State} {view : View} {s : State} (e_ : execLockRetry view s = .next t_) : Moves [.regs, .bus, .xb, .free, .out] s t_ := by
  have h_ := Moves.refl [.regs, .bus, .xb, .free, .out] s
  unfold execLockRetry at e_
  injection e_ with e_
  subst e_
  repeat' (first
    | with_reducible assumption
    | exact (rfl : _ = true)
    | with_reducible apply State.lockTry_moves)

theorem execLockSequenceStart_moves {t_ : State} {view : View} {s : State} (e_ : execLockSequenceStart view s = .next t_) : Moves [.regs, .bus, .xb, .free, .out] s t_ := by
  have h_ := Moves.refl [.regs, .bus, .xb, .free, .out] s
  unfold execLockSequenceStart at e_
  injection e_ with e_
  subst e_
  repeat' (first
    | with_reducible assumption
    | exact (rfl : _ = true)
    | with_reducible apply State.lockTry_moves)

theorem execLockWaitExpiry_moves {t_ : State} {view : View} {s : State} (e_ : execLockWaitExpiry view s = .next t_) : Moves [.regs, .bus, .qe, .bm, .xb, .fn, .out] s t_ := by
  have h_ := Moves.refl [.regs, .bus, .qe, .bm, .xb, .fn, .out] s
  unfold execLockWaitExpiry at e_
  injection e_ with e_
  subst e_
  repeat' (first
    | with_reducible assumption
    | exact (rfl : _ = true)
    | with_reducible apply State.lockWaitOver_moves)

theorem execReadLimitExpiry_moves {t_ : State} {view : View} {s : State} (e_ : execReadLimitExpiry view s = .next t_) : Moves [.regs, .xb, .fn, .out] s t_ := by
  have h_ := Moves.refl [.regs, .xb, .fn, .out] s
  unfold execReadLimitExpiry at e_
  injection e_ with e_
  subst e_
  repeat' (first
    | with_reducible assumption
    | exact (rfl : _ = true)
    | with_reducible apply State.readLimitOver_moves)

theorem execRemoteWindowRead_moves {t_ : State} {view : View} {off : ℕ} {len : ℕ} {s : State} (e_ : execRemoteWindowRead view off len s = .next t_) : Moves [.regs, .xb, .fn, .pm, .out] s t_ := by
  have h_ := Moves.refl [.regs, .xb, .fn, .pm, .out] s
  unfold execRemoteWindowRead at e_
  injection e_ with e_
  subst e_
  repeat' (first
    | with_reducible assumption
    | exact (rfl : _ = true)
    | with_reducible apply State.viewRead_moves)

theorem execRemoteWindowWrite_moves {t_ : State} {view : View} {off : ℕ} {data : List Byte} {s : State} (e_ : execRemoteWindowWrite view off data s = .next t_) : Moves [.regs, .xb, .fn, .pm, .out] s t_ := by
  have h_ := Moves.refl [.regs, .xb, .fn, .pm, .out] s
  unfold execRemoteWindowWrite at e_
  injection e_ with e_
  subst e_
  repeat' (first
    | with_reducible assumption
    | exact (rfl : _ = true)
    | with_reducible apply State.viewWrite_moves)

theorem State.viewParity_moves {l_ : List Part} {z_ : State} {s : State} {k : ℕ} (h_ : Moves l_ z_ s) (hl_ : Part.sub [.regs, .qe, .bm, .xb, .fn, .out] l_ = true) :
    Moves l_ z_ (State.viewParity s k) := by
  refine h_.step ?_ hl_
  clear h_ hl_
  have h_ := Moves.refl [.regs, .qe, .bm, .xb, .fn, .out] s
  unfold State.viewParity
  repeat' (first
    | with_reducible assumption
    | (extract_lets -underBinder +onlyGivenNames x_; first | (refine (fun hx_ : Moves [.regs, .qe, .bm, .xb, .fn, .out] s x_ => ?_) ?_; (on_goal 1 => (clear_value x_; revert hx_; revert x_; intro _ _)); (on_goal 2 => subst x_)) | (clear_value x_; revert x_; intro _))
    | intro _
    | with_reducible apply Moves.ite
    | exact (rfl : _ = true)
    | with_reducible apply State.captureError_moves
    | with_reducible apply State.endAccess_moves
    | with_reducible apply State.setView_moves
    | split)

theorem execViewAccessStart_moves {t_ : State} {view : ViewAt} {s : State} (e_ : execViewAccessStart view s = .next t_) : Moves [.regs, .ebm, .bus, .qe, .bm, .xb, .fn, .mre, .out] s t_ := by
  have h_ := Moves.refl [.regs, .ebm, .bus, .qe, .bm, .xb, .fn, .mre, .out] s
  unfold execViewAccessStart at e_
  injection e_ with e_
  subst e_
  repeat' (first
    | with_reducible assumption
    | intro _
    | exact (rfl : _ = true)
    | with_reducible apply State.viewParity_moves
    | with_reducible apply State.viewStart_moves
    | split)

theorem execViewFaultClear_moves {t_ : State} {view : View} {s : State} (e_ : execViewFaultClear view s = .next t_) : Moves [.regs, .xb, .fn, .pm, .out] s t_ := by
  have h_ := Moves.refl [.regs, .xb, .fn, .pm, .out] s
  unfold execViewFaultClear at e_
  injection e_ with e_
  subst e_
  repeat' (first
    | with_reducible assumption
    | intro _
    | exact (rfl : _ = true)
    | with_reducible apply State.clearView_moves
    | with_reducible apply State.pfWrite_moves)

theorem execWindowCfgWrite_moves {t_ : State} {w : Fin 256} {base : Bool} {v : Word} {s : State} (e_ : execWindowCfgWrite w base v s = .next t_) : Moves [.regs, .fn, .pm, .out] s t_ := by
  have h_ := Moves.refl [.regs, .fn, .pm, .out] s
  unfold execWindowCfgWrite at e_
  injection e_ with e_
  subst e_
  repeat' (first
    | with_reducible assumption
    | intro _
    | exact (rfl : _ = true)
    | with_reducible apply State.pfWrite_moves
    | with_reducible apply State.winCfg_moves)

end Sys2Proof.Machine
end

