-- ==== Sys2Proof/Laws/FunctionsMoves.lean ====
section
/-! SUPPORT. What the operations of Machine/Functions.lean may touch. -/

set_option Elab.async false
set_option linter.unusedTactic false
set_option linter.unreachableTactic false

namespace Sys2Proof.Machine

theorem State.vfGrant_moves {l_ : List Part} {z_ : State} {s : State} {r : EntryRef} {e : Sqe} {b : List Byte} (h_ : Moves l_ z_ s) (hl_ : Part.sub [.regs, .ebm, .qe, .bm, .xb, .fn, .pu, .out] l_ = true) :
    Moves l_ z_ (State.vfGrant s r e b) := by
  refine h_.step ?_ hl_
  clear h_ hl_
  have h_ := Moves.refl [.regs, .ebm, .qe, .bm, .xb, .fn, .pu, .out] s
  unfold State.vfGrant
  repeat' (first
    | with_reducible assumption
    | intro _
    | with_reducible apply Moves.foldl
    | exact (rfl : _ = true)
    | with_reducible apply State.completeM_moves
    | with_reducible apply State.setCf_moves
    | with_reducible apply State.showVf_moves
    | split
    | with_reducible apply Moves.fn)

theorem State.dropStops_moves {l_ : List Part} {z_ : State} {s : State} {f : Nat} (h_ : Moves l_ z_ s) (hl_ : Part.sub [.regs, .qe, .bm, .xb, .fn, .gd, .pu, .out] l_ = true) :
    Moves l_ z_ (State.dropStops s f) := by
  refine h_.step ?_ hl_
  clear h_ hl_
  have h_ := Moves.refl [.regs, .qe, .bm, .xb, .fn, .gd, .pu, .out] s
  unfold State.dropStops
  repeat' (first
    | with_reducible assumption
    | intro _
    | with_reducible apply Moves.ite
    | exact (rfl : _ = true)
    | with_reducible apply State.clipStop_moves
    | with_reducible apply State.dropTimers_moves
    | split)

theorem State.configReset_moves {l_ : List Part} {z_ : State} {s : State} {f : ℕ} (h_ : Moves l_ z_ s) (hl_ : Part.sub [.fn] l_ = true) :
    Moves l_ z_ (State.configReset s f) := by
  refine h_.step ?_ hl_
  clear h_ hl_
  have h_ := Moves.refl [.fn] s
  unfold State.configReset
  repeat' (first
    | with_reducible assumption
    | exact (rfl : _ = true)
    | with_reducible apply State.updFn_moves)

theorem State.newCq_moves {l_ : List Part} {z_ : State} {s : State} {f : ℕ} {i : ℕ} {c : CqRec} (h_ : Moves l_ z_ s) (hl_ : Part.sub [.regs, .qe, .free] l_ = true) :
    Moves l_ z_ (State.newCq s f i c) := by
  refine h_.step ?_ hl_
  clear h_ hl_
  have h_ := Moves.refl [.regs, .qe, .free] s
  unfold State.newCq
  repeat' (first
    | with_reducible assumption
    | exact (rfl : _ = true)
    | with_reducible apply State.fresh_moves
    | with_reducible apply State.setCq_moves
    | with_reducible apply State.setF_moves)

theorem State.newSq_moves {l_ : List Part} {z_ : State} {s : State} {f : ℕ} {i : ℕ} {q : SqRec} (h_ : Moves l_ z_ s) (hl_ : Part.sub [.regs, .qe, .free] l_ = true) :
    Moves l_ z_ (State.newSq s f i q) := by
  refine h_.step ?_ hl_
  clear h_ hl_
  have h_ := Moves.refl [.regs, .qe, .free] s
  unfold State.newSq
  repeat' (first
    | with_reducible assumption
    | exact (rfl : _ = true)
    | with_reducible apply State.fresh_moves
    | with_reducible apply State.setF_moves
    | with_reducible apply State.setSq_moves)

theorem State.dropAuditOf_moves {l_ : List Part} {z_ : State} {s : State} {f : ℕ} (h_ : Moves l_ z_ s) (hl_ : Part.sub [.regs, .lx, .qe, .bm, .xb, .fn, .gd, .sv, .pu, .ck, .out] l_ = true) :
    Moves l_ z_ (State.dropAuditOf s f) := by
  refine h_.step ?_ hl_
  clear h_ hl_
  have h_ := Moves.refl [.regs, .lx, .qe, .bm, .xb, .fn, .gd, .sv, .pu, .ck, .out] s
  unfold State.dropAuditOf
  repeat' (first
    | with_reducible assumption
    | exact (rfl : _ = true)
    | with_reducible apply State.completeRefM_moves
    | with_reducible apply State.setAudit_moves
    | with_reducible apply State.stopAudit_moves
    | split)

theorem State.endClipsOf_moves {l_ : List Part} {z_ : State} {s : State} {f : ℕ} {status : ℕ} (h_ : Moves l_ z_ s) (hl_ : Part.sub [.regs, .ebm, .bus, .qe, .bm, .xb, .fn, .mre, .gd, .out] l_ = true) :
    Moves l_ z_ (State.endClipsOf s f status) := by
  refine h_.step ?_ hl_
  clear h_ hl_
  have h_ := Moves.refl [.regs, .ebm, .bus, .qe, .bm, .xb, .fn, .mre, .gd, .out] s
  unfold State.endClipsOf
  repeat' (first
    | with_reducible assumption
    | intro _
    | with_reducible apply Moves.ite
    | with_reducible apply Moves.foldl
    | exact (rfl : _ = true)
    | with_reducible apply State.endClip_moves
    | with_reducible apply State.restGen_moves
    | with_reducible apply State.setGen_moves
    | with_reducible apply State.dropTimers_moves
    | split
    | with_reducible apply Moves.gd)

theorem State.endTapsOf_moves {l_ : List Part} {z_ : State} {s : State} {f : ℕ} {status : ℕ} (h_ : Moves l_ z_ s) (hl_ : Part.sub [.regs, .qe, .bm, .xb, .fn, .mre, .out] l_ = true) :
    Moves l_ z_ (State.endTapsOf s f status) := by
  refine h_.step ?_ hl_
  clear h_ hl_
  have h_ := Moves.refl [.regs, .qe, .bm, .xb, .fn, .mre, .out] s
  unfold State.endTapsOf
  repeat' (first
    | with_reducible assumption
    | intro _
    | with_reducible apply Moves.ite
    | with_reducible apply Moves.foldl
    | exact (rfl : _ = true)
    | with_reducible apply State.endTapBuf_moves
    | with_reducible apply State.setTap_moves)

theorem State.vfFreeze_moves {l_ : List Part} {z_ : State} {s : State} {r : EntryRef} {e : Sqe} (h_ : Moves l_ z_ s) (hl_ : Part.sub [.regs, .ts, .ebm, .bus, .qe, .bm, .xb, .fn, .mre, .out] l_ = true) :
    Moves l_ z_ (State.vfFreeze s r e) := by
  refine h_.step ?_ hl_
  clear h_ hl_
  have h_ := Moves.refl [.regs, .ts, .ebm, .bus, .qe, .bm, .xb, .fn, .mre, .out] s
  unfold State.vfFreeze
  repeat' (first
    | with_reducible assumption
    | intro _
    | with_reducible apply Moves.ite
    | with_reducible apply Moves.foldl
    | exact (rfl : _ = true)
    | with_reducible apply State.complete_moves
    | with_reducible apply State.discardCached_moves
    | with_reducible apply State.endXfer_moves
    | with_reducible apply State.forAll_moves
    | with_reducible apply State.setVf_moves
    | with_reducible apply State.settleFn_moves)

theorem State.vfSave_moves {l_ : List Part} {z_ : State} {s : State} {r : EntryRef} {e : Sqe} (h_ : Moves l_ z_ s) (hl_ : Part.sub [.regs, .ebm, .bus, .qe, .bm, .xb, .fn, .mre, .gd, .pu, .out] l_ = true) :
    Moves l_ z_ (State.vfSave s r e) := by
  refine h_.step ?_ hl_
  clear h_ hl_
  have h_ := Moves.refl [.regs, .ebm, .bus, .qe, .bm, .xb, .fn, .mre, .gd, .pu, .out] s
  unfold State.vfSave
  repeat' (first
    | with_reducible assumption
    | (extract_lets -underBinder +onlyGivenNames x_; first | (refine (fun hx_ : Moves [.regs, .ebm, .bus, .qe, .bm, .xb, .fn, .mre, .gd, .pu, .out] s x_ => ?_) ?_; (on_goal 1 => (clear_value x_; revert hx_; revert x_; intro _ _)); (on_goal 2 => subst x_)) | (clear_value x_; revert x_; intro _))
    | intro _
    | with_reducible apply Moves.foldl
    | exact (rfl : _ = true)
    | with_reducible apply State.complete_moves
    | with_reducible apply State.endClipsOf_moves
    | with_reducible apply State.endTapsOf_moves
    | with_reducible apply State.freeChan_moves
    | with_reducible apply State.setVf_moves
    | with_reducible apply State.dropStops_moves
    | with_reducible apply State.sendHost_moves
    | split)

theorem State.restoreAdmin_moves {l_ : List Part} {z_ : State} {s : State} {f : ℕ} {b : List Byte} (h_ : Moves l_ z_ s) (hl_ : Part.sub [.regs, .qe, .fn, .out] l_ = true) :
    Moves l_ z_ (State.restoreAdmin s f b) := by
  refine h_.step ?_ hl_
  clear h_ hl_
  have h_ := Moves.refl [.regs, .qe, .fn, .out] s
  unfold State.restoreAdmin
  repeat' (first
    | with_reducible assumption
    | intro _
    | with_reducible apply Moves.ite
    | with_reducible apply Moves.foldl
    | exact (rfl : _ = true)
    | with_reducible apply State.adminStart_moves
    | with_reducible apply State.setReg_moves
    | with_reducible apply State.showPos_moves
    | with_reducible apply State.updCq_moves
    | with_reducible apply State.updSq_moves)

theorem State.restoreRing_moves {l_ : List Part} {z_ : State} {s : State} {f : ℕ} {b : List Byte} (h_ : Moves l_ z_ s) (hl_ : Part.sub [.regs, .qe, .free] l_ = true) :
    Moves l_ z_ (State.restoreRing s f b) := by
  refine h_.step ?_ hl_
  clear h_ hl_
  have h_ := Moves.refl [.regs, .qe, .free] s
  unfold State.restoreRing
  repeat' (first
    | with_reducible assumption
    | intro _
    | with_reducible apply Moves.ite
    | exact (rfl : _ = true)
    | with_reducible apply State.newCq_moves
    | with_reducible apply State.newSq_moves)

theorem State.restoreMove_moves {l_ : List Part} {z_ : State} {s : State} {u : VfId} {b : List Byte} (h_ : Moves l_ z_ s) (hl_ : Part.sub [.regs, .qe, .bm, .free] l_ = true) :
    Moves l_ z_ (State.restoreMove s u b) := by
  refine h_.step ?_ hl_
  clear h_ hl_
  have h_ := Moves.refl [.regs, .qe, .bm, .free] s
  unfold State.restoreMove
  repeat' (first
    | with_reducible assumption
    | exact (rfl : _ = true)
    | with_reducible apply State.fresh_moves
    | with_reducible apply State.setJob_moves
    | with_reducible apply State.startRec_moves)

theorem State.putBlob_moves {l_ : List Part} {z_ : State} {s : State} {u : VfId} {b : Blob} (h_ : Moves l_ z_ s) (hl_ : Part.sub [.regs, .qe, .bm, .fn, .free, .out] l_ = true) :
    Moves l_ z_ (State.putBlob s u b) := by
  refine h_.step ?_ hl_
  clear h_ hl_
  have h_ := Moves.refl [.regs, .qe, .bm, .fn, .free, .out] s
  unfold State.putBlob
  repeat' (first
    | with_reducible assumption
    | intro _
    | with_reducible apply Moves.foldl
    | exact (rfl : _ = true)
    | with_reducible apply State.restoreAdmin_moves
    | with_reducible apply State.restoreMove_moves
    | with_reducible apply State.restoreRing_moves
    | with_reducible apply State.setF_moves
    | with_reducible apply State.setVf_moves
    | with_reducible apply Moves.bm)

theorem State.vfRestore_moves {l_ : List Part} {z_ : State} {s : State} {r : EntryRef} {e : Sqe} {b : List Byte} (h_ : Moves l_ z_ s) (hl_ : Part.sub [.regs, .qe, .bm, .xb, .fn, .free, .out] l_ = true) :
    Moves l_ z_ (State.vfRestore s r e b) := by
  refine h_.step ?_ hl_
  clear h_ hl_
  have h_ := Moves.refl [.regs, .qe, .bm, .xb, .fn, .free, .out] s
  unfold State.vfRestore
  repeat' (first
    | with_reducible assumption
    | (extract_lets -underBinder +onlyGivenNames x_; (clear_value x_; revert x_; intro _))
    | exact (rfl : _ = true)
    | with_reducible apply State.complete_moves
    | with_reducible apply State.putBlob_moves
    | split)

theorem State.vfThaw_moves {l_ : List Part} {z_ : State} {s : State} {r : EntryRef} {e : Sqe} (h_ : Moves l_ z_ s) (hl_ : Part.sub [.regs, .qe, .bm, .xb, .fn, .out] l_ = true) :
    Moves l_ z_ (State.vfThaw s r e) := by
  refine h_.step ?_ hl_
  clear h_ hl_
  have h_ := Moves.refl [.regs, .qe, .bm, .xb, .fn, .out] s
  unfold State.vfThaw
  repeat' (first
    | with_reducible assumption
    | (extract_lets -underBinder +onlyGivenNames x_; first | (refine (fun hx_ : Moves [.regs, .qe, .bm, .xb, .fn, .out] s x_ => ?_) ?_; (on_goal 1 => (clear_value x_; revert hx_; revert x_; intro _ _)); (on_goal 2 => subst x_)) | (clear_value x_; revert x_; intro _))
    | intro _
    | with_reducible apply Moves.foldl
    | exact (rfl : _ = true)
    | with_reducible apply State.bump_moves
    | with_reducible apply State.complete_moves
    | with_reducible apply State.forAll_moves
    | with_reducible apply State.holdCqe_moves
    | with_reducible apply State.logLate_moves
    | with_reducible apply State.scanCq_moves
    | with_reducible apply State.scanSq_moves
    | with_reducible apply State.setB_moves
    | with_reducible apply State.setVf_moves
    | with_reducible apply State.signalCq_moves
    | with_reducible apply State.updCq_moves
    | with_reducible apply State.writeRsbCq_moves
    | with_reducible apply State.writeRsbSq_moves
    | with_reducible apply State.sendPending_moves
    | with_reducible apply State.sendRsbs_moves
    | split)

theorem State.squashViews_moves {l_ : List Part} {z_ : State} {s : State} {f : ℕ} (h_ : Moves l_ z_ s) (hl_ : Part.sub [.regs, .xb] l_ = true) :
    Moves l_ z_ (State.squashViews s f) := by
  refine h_.step ?_ hl_
  clear h_ hl_
  have h_ := Moves.refl [.regs, .xb] s
  unfold State.squashViews
  repeat' (first
    | with_reducible assumption
    | intro _
    | with_reducible apply Moves.foldl
    | exact (rfl : _ = true)
    | with_reducible apply State.logLate_moves
    | with_reducible apply State.updView_moves)

theorem State.flrLoses_moves {l_ : List Part} {z_ : State} {s : State} {f : ℕ} (h_ : Moves l_ z_ s) (hl_ : Part.sub [.regs, .lx, .ts, .ebm, .bus, .qe, .bm, .xb, .fn, .mre, .gd, .sv, .pu, .out] l_ = true) :
    Moves l_ z_ (State.flrLoses s f) := by
  refine h_.step ?_ hl_
  clear h_ hl_
  have h_ := Moves.refl [.regs, .lx, .ts, .ebm, .bus, .qe, .bm, .xb, .fn, .mre, .gd, .sv, .pu, .out] s
  unfold State.flrLoses
  repeat' (first
    | with_reducible assumption
    | intro _
    | with_reducible apply Moves.foldl
    | exact (rfl : _ = true)
    | with_reducible apply State.afterTx_moves
    | with_reducible apply State.completeRef_moves
    | with_reducible apply State.configReset_moves
    | with_reducible apply State.dropAuditOf_moves
    | with_reducible apply State.endClipsOf_moves
    | with_reducible apply State.endMove_moves
    | with_reducible apply State.endTapsOf_moves
    | with_reducible apply State.forAll_moves
    | with_reducible apply State.setCache_moves
    | with_reducible apply State.setVf_moves
    | with_reducible apply State.settleFn_moves
    | with_reducible apply State.showTimers_moves
    | with_reducible apply State.squashViews_moves
    | with_reducible apply State.squash_moves
    | with_reducible apply State.updCq_moves
    | with_reducible apply State.updXfer_moves
    | split
    | with_reducible apply Moves.fn
    | with_reducible apply Moves.gd)

theorem State.flrEnds_moves {l_ : List Part} {z_ : State} {s : State} {f : ℕ} (h_ : Moves l_ z_ s) (hl_ : Part.sub [.regs, .lx, .ts, .ebm, .bus, .qe, .bm, .xb, .fn, .mre, .gd, .sv, .pu, .ck, .out] l_ = true) :
    Moves l_ z_ (State.flrEnds s f) := by
  refine h_.step ?_ hl_
  clear h_ hl_
  have h_ := Moves.refl [.regs, .lx, .ts, .ebm, .bus, .qe, .bm, .xb, .fn, .mre, .gd, .sv, .pu, .ck, .out] s
  unfold State.flrEnds
  repeat' (first
    | with_reducible assumption
    | intro _
    | with_reducible apply Moves.foldl
    | exact (rfl : _ = true)
    | with_reducible apply State.afterTx_moves
    | with_reducible apply State.completeRef_moves
    | with_reducible apply State.configReset_moves
    | with_reducible apply State.dropAuditOf_moves
    | with_reducible apply State.endClipsOf_moves
    | with_reducible apply State.endMove_moves
    | with_reducible apply State.endTapsOf_moves
    | with_reducible apply State.forAll_moves
    | with_reducible apply State.setCache_moves
    | with_reducible apply State.setVf_moves
    | with_reducible apply State.settleFn_moves
    | with_reducible apply State.squashViews_moves
    | with_reducible apply State.squash_moves
    | with_reducible apply State.updCq_moves
    | with_reducible apply State.updXfer_moves
    | with_reducible apply State.dropStops_moves
    | split
    | with_reducible apply Moves.fn
    | with_reducible apply Moves.gd)

theorem State.flrStart_moves {l_ : List Part} {z_ : State} {s : State} {f : ℕ} (h_ : Moves l_ z_ s) (hl_ : Part.sub [.regs, .lx, .ts, .ebm, .bus, .qe, .bm, .xb, .fn, .mre, .gd, .sv, .pu, .ck, .out] l_ = true) :
    Moves l_ z_ (State.flrStart s f) := by
  refine h_.step ?_ hl_
  clear h_ hl_
  have h_ := Moves.refl [.regs, .lx, .ts, .ebm, .bus, .qe, .bm, .xb, .fn, .mre, .gd, .sv, .pu, .ck, .out] s
  unfold State.flrStart
  repeat' (first
    | with_reducible assumption
    | intro _
    | with_reducible apply Moves.foldl
    | exact (rfl : _ = true)
    | with_reducible apply State.afterTx_moves
    | with_reducible apply State.completeRef_moves
    | with_reducible apply State.configReset_moves
    | with_reducible apply State.dropAuditOf_moves
    | with_reducible apply State.endClipsOf_moves
    | with_reducible apply State.endMove_moves
    | with_reducible apply State.endTapsOf_moves
    | with_reducible apply State.forAll_moves
    | with_reducible apply State.setCache_moves
    | with_reducible apply State.setVf_moves
    | with_reducible apply State.settleFn_moves
    | with_reducible apply State.showTimers_moves
    | with_reducible apply State.squashViews_moves
    | with_reducible apply State.squash_moves
    | with_reducible apply State.updCq_moves
    | with_reducible apply State.updXfer_moves
    | with_reducible apply State.flrLoses_moves
    | with_reducible apply State.flrEnds_moves
    | split
    | with_reducible apply Moves.fn
    | with_reducible apply Moves.gd)

theorem State.resetAll_moves {l_ : List Part} {z_ : State} {s : State} (h_ : Moves l_ z_ s) (hl_ : Part.sub [.regs, .lx, .ts, .ebm, .bus, .qe, .bm, .xb, .fn, .mre, .gd, .sv, .pu, .ck, .out] l_ = true) :
    Moves l_ z_ (State.resetAll s) := by
  refine h_.step ?_ hl_
  clear h_ hl_
  have h_ := Moves.refl [.regs, .lx, .ts, .ebm, .bus, .qe, .bm, .xb, .fn, .mre, .gd, .sv, .pu, .ck, .out] s
  unfold State.resetAll
  repeat' (first
    | with_reducible assumption
    | intro _
    | exact (rfl : _ = true)
    | with_reducible apply State.flrStart_moves
    | with_reducible apply State.forAll_moves
    | with_reducible apply Moves.fn)

theorem State.vfEnableWrite_moves {l_ : List Part} {z_ : State} {s : State} {en : Bool} {n : ℕ} (h_ : Moves l_ z_ s) (hl_ : Part.sub [.regs, .lx, .ts, .ebm, .bus, .qe, .bm, .xb, .fn, .mre, .gd, .sv, .pu, .ck, .out] l_ = true) :
    Moves l_ z_ (State.vfEnableWrite s en n) := by
  refine h_.step ?_ hl_
  clear h_ hl_
  have h_ := Moves.refl [.regs, .lx, .ts, .ebm, .bus, .qe, .bm, .xb, .fn, .mre, .gd, .sv, .pu, .ck, .out] s
  unfold State.vfEnableWrite
  repeat' (first
    | with_reducible assumption
    | intro _
    | with_reducible apply Moves.ite
    | exact (rfl : _ = true)
    | with_reducible apply State.flrStart_moves
    | with_reducible apply State.forAll_moves
    | with_reducible apply Moves.fn)

theorem execPfFlr_moves {t_ : State} {s : State} (e_ : execPfFlr s = .next t_) : Moves [.regs, .lx, .ts, .ebm, .bus, .qe, .bm, .xb, .fn, .mre, .gd, .sv, .pu, .ck, .out] s t_ := by
  have h_ := Moves.refl [.regs, .lx, .ts, .ebm, .bus, .qe, .bm, .xb, .fn, .mre, .gd, .sv, .pu, .ck, .out] s
  unfold execPfFlr at e_
  injection e_ with e_
  subst e_
  repeat' (first
    | with_reducible assumption
    | exact (rfl : _ = true)
    | with_reducible apply State.resetAll_moves)

theorem execVfEnableWrite_moves {t_ : State} {enable : Bool} {numVfs : BitVec 16} {s : State} (e_ : execVfEnableWrite enable numVfs s = .next t_) : Moves [.regs, .lx, .ts, .ebm, .bus, .qe, .bm, .xb, .fn, .mre, .gd, .sv, .pu, .ck, .out] s t_ := by
  have h_ := Moves.refl [.regs, .lx, .ts, .ebm, .bus, .qe, .bm, .xb, .fn, .mre, .gd, .sv, .pu, .ck, .out] s
  unfold execVfEnableWrite at e_
  injection e_ with e_
  subst e_
  repeat' (first
    | with_reducible assumption
    | exact (rfl : _ = true)
    | with_reducible apply State.vfEnableWrite_moves)

theorem execVfFlr_moves {t_ : State} {v : VfId} {s : State} (e_ : execVfFlr v s = .next t_) : Moves [.regs, .lx, .ts, .ebm, .bus, .qe, .bm, .xb, .fn, .mre, .gd, .sv, .pu, .ck, .out] s t_ := by
  have h_ := Moves.refl [.regs, .lx, .ts, .ebm, .bus, .qe, .bm, .xb, .fn, .mre, .gd, .sv, .pu, .ck, .out] s
  unfold execVfFlr at e_
  injection e_ with e_
  subst e_
  repeat' (first
    | with_reducible assumption
    | intro _
    | with_reducible apply Moves.ite
    | exact (rfl : _ = true)
    | with_reducible apply State.flrStart_moves)

theorem execVfFlrComplete_moves {t_ : State} {v : VfId} {s : State} (e_ : execVfFlrComplete v s = .next t_) : Moves [.regs, .qe, .bm, .xb, .fn, .out] s t_ := by
  have h_ := Moves.refl [.regs, .qe, .bm, .xb, .fn, .out] s
  unfold execVfFlrComplete at e_
  injection e_ with e_
  subst e_
  repeat' (first
    | with_reducible assumption
    | intro _
    | with_reducible apply Moves.ite
    | exact (rfl : _ = true)
    | with_reducible apply State.resetDone_moves)

end Sys2Proof.Machine
end

