-- ==== Sys2Proof/Laws/HostIfMoves.lean ====
section
/-! SUPPORT. What the operations of Machine/HostIf.lean may touch. -/

set_option Elab.async false
set_option linter.unusedTactic false
set_option linter.unreachableTactic false

namespace Sys2Proof.Machine

theorem State.abandon_moves {l_ : List Part} {z_ : State} {s : State} (h_ : Moves l_ z_ s) (hl_ : Part.sub [.regs, .qe, .bm] l_ = true) :
    Moves l_ z_ (State.abandon s) := by
  refine h_.step ?_ hl_
  clear h_ hl_
  have h_ := Moves.refl [.regs, .qe, .bm] s
  unfold State.abandon
  repeat' (first
    | with_reducible assumption
    | intro _
    | with_reducible apply Moves.foldl
    | exact (rfl : _ = true)
    | with_reducible apply State.setEngine_moves
    | with_reducible apply State.keepDoorbell_moves
    | split
    | with_reducible apply Moves.qe)

theorem State.d0Return_moves {l_ : List Part} {z_ : State} {s : State} {f : ℕ} (h_ : Moves l_ z_ s) (hl_ : Part.sub [.regs, .qe, .fn, .pu, .pm, .out] l_ = true) :
    Moves l_ z_ (State.d0Return s f) := by
  refine h_.step ?_ hl_
  clear h_ hl_
  have h_ := Moves.refl [.regs, .qe, .fn, .pu, .pm, .out] s
  unfold State.d0Return
  repeat' (first
    | with_reducible assumption
    | intro _
    | with_reducible apply Moves.ite
    | exact (rfl : _ = true)
    | with_reducible apply State.flushCq_moves
    | with_reducible apply State.forAll_moves
    | with_reducible apply State.rescan_moves
    | with_reducible apply State.sendPending_moves
    | with_reducible apply State.updFn_moves
    | with_reducible apply State.wake_moves
    | with_reducible apply State.when_moves
    | with_reducible apply State.sendRsbs_moves)

theorem State.d3hotEntry_moves {l_ : List Part} {z_ : State} {s : State} {f : ℕ} (h_ : Moves l_ z_ s) (hl_ : Part.sub [.regs, .qe, .fn, .out] l_ = true) :
    Moves l_ z_ (State.d3hotEntry s f) := by
  refine h_.step ?_ hl_
  clear h_ hl_
  have h_ := Moves.refl [.regs, .qe, .fn, .out] s
  unfold State.d3hotEntry
  repeat' (first
    | with_reducible assumption
    | intro _
    | exact (rfl : _ = true)
    | with_reducible apply State.flushCq_moves
    | with_reducible apply State.forAll_moves
    | with_reducible apply State.signalCq_moves
    | with_reducible apply State.updFn_moves
    | split)

theorem State.hotReset_moves {l_ : List Part} {z_ : State} {s : State} (h_ : Moves l_ z_ s) (hl_ : Part.sub [.regs, .lx, .ts, .ebm, .bus, .qe, .bm, .xb, .fn, .mre, .gd, .sv, .pu, .ck, .out] l_ = true) :
    Moves l_ z_ (State.hotReset s) := by
  refine h_.step ?_ hl_
  clear h_ hl_
  have h_ := Moves.refl [.regs, .lx, .ts, .ebm, .bus, .qe, .bm, .xb, .fn, .mre, .gd, .sv, .pu, .ck, .out] s
  unfold State.hotReset
  repeat' (first
    | with_reducible assumption
    | exact (rfl : _ = true)
    | with_reducible apply State.resetAll_moves
    | with_reducible apply State.setF_moves
    | with_reducible apply Moves.fn)

theorem State.hostLinkDown_moves {l_ : List Part} {z_ : State} {s : State} (h_ : Moves l_ z_ s) (hl_ : Part.sub [.regs, .lx, .ts, .ebm, .bus, .qe, .bm, .xb, .fn, .mre, .gd, .sv, .pu, .ck, .out] l_ = true) :
    Moves l_ z_ (State.hostLinkDown s) := by
  refine h_.step ?_ hl_
  clear h_ hl_
  have h_ := Moves.refl [.regs, .lx, .ts, .ebm, .bus, .qe, .bm, .xb, .fn, .mre, .gd, .sv, .pu, .ck, .out] s
  unfold State.hostLinkDown
  repeat' (first
    | with_reducible assumption
    | exact (rfl : _ = true)
    | with_reducible apply State.abandon_moves
    | with_reducible apply State.hotReset_moves
    | with_reducible apply State.setB_moves
    | with_reducible apply State.setF_moves
    | with_reducible apply Moves.fn)

theorem State.requestsGoOn_moves {l_ : List Part} {z_ : State} {s : State}  (h_ : Moves l_ z_ s) (hl_ : Part.sub [.regs, .qe, .fn, .out] l_ = true) :
    Moves l_ z_ (State.requestsGoOn s ) := by
  refine h_.step ?_ hl_
  clear h_ hl_
  have h_ := Moves.refl [.regs, .qe, .fn, .out] s
  unfold State.requestsGoOn
  repeat' (first
    | with_reducible assumption
    | intro _
    | with_reducible apply Moves.ite
    | exact (rfl : _ = true)
    | with_reducible apply State.flushCq_moves
    | with_reducible apply State.forAll_moves
    | with_reducible apply State.sendPending_moves
    | with_reducible apply State.sendRsbs_moves
    | split)

theorem State.hostLinkUp_moves {l_ : List Part} {z_ : State} {s : State} {speed : ℕ} {width : ℕ} {rev : Bool} (h_ : Moves l_ z_ s) (hl_ : Part.sub [.regs, .qe, .fn, .pu, .pm, .out] l_ = true) :
    Moves l_ z_ (State.hostLinkUp s speed width rev) := by
  refine h_.step ?_ hl_
  clear h_ hl_
  have h_ := Moves.refl [.regs, .qe, .fn, .pu, .pm, .out] s
  unfold State.hostLinkUp
  repeat' (first
    | with_reducible assumption
    | intro _
    | with_reducible apply Moves.ite
    | exact (rfl : _ = true)
    | with_reducible apply State.bump_moves
    | with_reducible apply State.rescan_moves
    | with_reducible apply State.setB_moves
    | with_reducible apply State.setF_moves
    | with_reducible apply State.wake_moves
    | with_reducible apply State.when_moves
    | with_reducible apply State.requestsGoOn_moves
    | with_reducible apply Moves.fn)

theorem State.pmeResend_moves {l_ : List Part} {z_ : State} {s : State} {f : ℕ} (h_ : Moves l_ z_ s) (hl_ : Part.sub [.regs, .fn, .out] l_ = true) :
    Moves l_ z_ (State.pmeResend s f) := by
  refine h_.step ?_ hl_
  clear h_ hl_
  have h_ := Moves.refl [.regs, .fn, .out] s
  unfold State.pmeResend
  repeat' (first
    | with_reducible assumption
    | (extract_lets -underBinder +onlyGivenNames x_; (clear_value x_; revert x_; intro _))
    | exact (rfl : _ = true)
    | with_reducible apply State.sendPme_moves
    | split)

theorem State.pmeStatusClear_moves {l_ : List Part} {z_ : State} {s : State} {f : ℕ} (h_ : Moves l_ z_ s) (hl_ : Part.sub [.fn] l_ = true) :
    Moves l_ z_ (State.pmeStatusClear s f) := by
  refine h_.step ?_ hl_
  clear h_ hl_
  have h_ := Moves.refl [.fn] s
  unfold State.pmeStatusClear
  repeat' (first
    | with_reducible assumption
    | intro _
    | with_reducible apply Moves.ite
    | exact (rfl : _ = true)
    | with_reducible apply State.updFn_moves
    | with_reducible apply Moves.fn)

theorem State.pmeTurnOff_moves {l_ : List Part} {z_ : State} {s : State} (h_ : Moves l_ z_ s) (hl_ : Part.sub [.qe, .fn, .out] l_ = true) :
    Moves l_ z_ (State.pmeTurnOff s) := by
  refine h_.step ?_ hl_
  clear h_ hl_
  have h_ := Moves.refl [.qe, .fn, .out] s
  unfold State.pmeTurnOff
  repeat' (first
    | with_reducible assumption
    | intro _
    | with_reducible apply Moves.ite
    | with_reducible apply Moves.foldl
    | exact (rfl : _ = true)
    | with_reducible apply State.signalCq_moves
    | with_reducible apply State.sendHost_moves
    | split
    | with_reducible apply Moves.fn)

theorem execAspmL1Request_moves {t_ : State} {s : State} (e_ : execAspmL1Request s = .next t_) : Moves [.regs] s t_ := by
  have h_ := Moves.refl [.regs] s
  unfold execAspmL1Request at e_
  injection e_ with e_
  subst e_
  repeat' (first
    | with_reducible assumption
    | intro _
    | with_reducible apply Moves.ite
    | exact (rfl : _ = true)
    | with_reducible apply State.bump_moves)

theorem execConfigReady_moves {t_ : State} {s : State} (e_ : execConfigReady s = .next t_) : Moves [.regs] s t_ := by
  have h_ := Moves.refl [.regs] s
  unfold execConfigReady at e_
  injection e_ with e_
  subst e_
  repeat' (first
    | with_reducible assumption
    | intro _
    | with_reducible apply Moves.ite
    | exact (rfl : _ = true)
    | with_reducible apply State.setB_moves)

theorem execD0Return_moves {t_ : State} {fn : FnId} {s : State} (e_ : execD0Return fn s = .next t_) : Moves [.regs, .qe, .fn, .pu, .pm, .out] s t_ := by
  have h_ := Moves.refl [.regs, .qe, .fn, .pu, .pm, .out] s
  unfold execD0Return at e_
  injection e_ with e_
  subst e_
  repeat' (first
    | with_reducible assumption
    | exact (rfl : _ = true)
    | with_reducible apply State.d0Return_moves)

theorem execD3hotEntry_moves {t_ : State} {fn : FnId} {s : State} (e_ : execD3hotEntry fn s = .next t_) : Moves [.regs, .qe, .fn, .out] s t_ := by
  have h_ := Moves.refl [.regs, .qe, .fn, .out] s
  unfold execD3hotEntry at e_
  injection e_ with e_
  subst e_
  repeat' (first
    | with_reducible assumption
    | exact (rfl : _ = true)
    | with_reducible apply State.d3hotEntry_moves)

theorem execHostLinkDown_moves {t_ : State} {s : State} (e_ : execHostLinkDown s = .next t_) : Moves [.regs, .lx, .ts, .ebm, .bus, .qe, .bm, .xb, .fn, .mre, .gd, .sv, .pu, .ck, .out] s t_ := by
  have h_ := Moves.refl [.regs, .lx, .ts, .ebm, .bus, .qe, .bm, .xb, .fn, .mre, .gd, .sv, .pu, .ck, .out] s
  unfold execHostLinkDown at e_
  injection e_ with e_
  subst e_
  repeat' (first
    | with_reducible assumption
    | intro _
    | with_reducible apply Moves.ite
    | exact (rfl : _ = true)
    | with_reducible apply State.hostLinkDown_moves)

theorem execHostLinkUp_moves {t_ : State} {speed : BitVec 3} {width : BitVec 5} {reversed : Bool} {s : State} (e_ : execHostLinkUp speed width reversed s = .next t_) : Moves [.regs, .qe, .fn, .pu, .pm, .out] s t_ := by
  have h_ := Moves.refl [.regs, .qe, .fn, .pu, .pm, .out] s
  unfold execHostLinkUp at e_
  injection e_ with e_
  subst e_
  repeat' (first
    | with_reducible assumption
    | exact (rfl : _ = true)
    | with_reducible apply State.hostLinkUp_moves)

theorem execHotReset_moves {t_ : State} {s : State} (e_ : execHotReset s = .next t_) : Moves [.regs, .lx, .ts, .ebm, .bus, .qe, .bm, .xb, .fn, .mre, .gd, .sv, .pu, .ck, .out] s t_ := by
  have h_ := Moves.refl [.regs, .lx, .ts, .ebm, .bus, .qe, .bm, .xb, .fn, .mre, .gd, .sv, .pu, .ck, .out] s
  unfold execHotReset at e_
  injection e_ with e_
  subst e_
  repeat' (first
    | with_reducible assumption
    | exact (rfl : _ = true)
    | with_reducible apply State.hotReset_moves)

theorem execPmeResend_moves {t_ : State} {fn : FnId} {s : State} (e_ : execPmeResend fn s = .next t_) : Moves [.regs, .fn, .out] s t_ := by
  have h_ := Moves.refl [.regs, .fn, .out] s
  unfold execPmeResend at e_
  injection e_ with e_
  subst e_
  repeat' (first
    | with_reducible assumption
    | exact (rfl : _ = true)
    | with_reducible apply State.pmeResend_moves)

theorem execPmeStatusClear_moves {t_ : State} {fn : FnId} {s : State} (e_ : execPmeStatusClear fn s = .next t_) : Moves [.fn] s t_ := by
  have h_ := Moves.refl [.fn] s
  unfold execPmeStatusClear at e_
  injection e_ with e_
  subst e_
  repeat' (first
    | with_reducible assumption
    | exact (rfl : _ = true)
    | with_reducible apply State.pmeStatusClear_moves)

end Sys2Proof.Machine
end

