-- ==== Sys2Proof/Laws/LogsMoves.lean ====
section
/-! SUPPORT. What the operations of Machine/Logs.lean may touch. -/

set_option Elab.async false
set_option linter.unusedTactic false
set_option linter.unreachableTactic false

namespace Sys2Proof.Machine

theorem State.ackLog_moves {l_ : List Part} {z_ : State} {s : State} {f : ℕ} {page : ℕ} {first : ℕ} {n : ℕ} (h_ : Moves l_ z_ s) (hl_ : Part.sub [.regs, .xb, .fn] l_ = true) :
    Moves l_ z_ (State.ackLog s f page first n) := by
  refine h_.step ?_ hl_
  clear h_ hl_
  have h_ := Moves.refl [.regs, .xb, .fn] s
  unfold State.ackLog
  repeat' (first
    | with_reducible assumption
    | intro _
    | with_reducible apply Moves.ite
    | with_reducible apply Moves.foldl
    | exact (rfl : _ = true)
    | with_reducible apply State.clearView_moves
    | with_reducible apply State.showLate_moves
    | with_reducible apply State.forAll_moves
    | with_reducible apply State.squash_moves
    | with_reducible apply Moves.xb
    | with_reducible apply Moves.fn)

theorem State.identify_moves {l_ : List Part} {z_ : State} {s : State} {r : EntryRef} {e : Sqe} (h_ : Moves l_ z_ s) (hl_ : Part.sub [.regs, .qe, .bm, .xb, .fn, .out] l_ = true) :
    Moves l_ z_ (State.identify s r e) := by
  refine h_.step ?_ hl_
  clear h_ hl_
  have h_ := Moves.refl [.regs, .qe, .bm, .xb, .fn, .out] s
  unfold State.identify
  repeat' (first
    | with_reducible assumption
    | intro _
    | exact (rfl : _ = true)
    | with_reducible apply State.complete_moves
    | with_reducible apply State.sendHost_moves)

theorem State.getLog_moves {l_ : List Part} {z_ : State} {s : State} {r : EntryRef} {e : Sqe} (h_ : Moves l_ z_ s)
    (hl_ : Part.sub [.regs, .qe, .bm, .xb, .fn, .free, .out] l_ = true) : Moves l_ z_ (State.getLog s r e) := by
  unfold State.getLog
  extract_lets f page
  split
  · exact State.complete_moves h_ (Part.sub_trans rfl hl_)
  · extract_lets l n next out s1 s2 s3
    have h1 : Moves l_ z_ s1 := State.when_moves h_ (fun t h => State.sendHost_moves h (Part.sub_trans rfl hl_))
    have h2 : Moves l_ z_ s2 := h1.freeUp (Part.sub_trans rfl hl_) _ (Nat.le_add_right _ _)
    have h3 : Moves l_ z_ s3 := State.when_moves h2 (fun t h => State.ackLog_moves h (Part.sub_trans rfl hl_))
    exact State.complete_moves h3 (Part.sub_trans rfl hl_)

end Sys2Proof.Machine
end

