-- ==== Sys2Proof/Laws/EntriesMoves.lean ====
section
/-! SUPPORT. What the operations of Machine/Entries.lean may touch. -/

set_option Elab.async false
set_option linter.unusedTactic false
set_option linter.unreachableTactic false

namespace Sys2Proof.Machine

theorem State.playClip_moves {l_ : List Part} {z_ : State} {s : State} {r : EntryRef} {e : Sqe} {now : Nat} (h_ : Moves l_ z_ s) (hl_ : Part.sub [.regs, .ebm, .qe, .bm, .xb, .fn, .mre, .gd, .pu, .out] l_ = true) :
    Moves l_ z_ (State.playClip s r e now) := by
  refine h_.step ?_ hl_
  clear h_ hl_
  have h_ := Moves.refl [.regs, .ebm, .qe, .bm, .xb, .fn, .mre, .gd, .pu, .out] s
  unfold State.playClip
  repeat' (first
    | with_reducible assumption
    | intro _
    | with_reducible apply Moves.ite
    | exact (rfl : _ = true)
    | with_reducible apply State.clipPlay_moves
    | with_reducible apply State.setJob_moves
    | split)

theorem State.applyCmd_moves {l_ : List Part} {z_ : State} {s : State} {r : EntryRef} {e : Sqe} {h : HostData} {now : Nat} (h_ : Moves l_ z_ s) (hl_ : Part.sub [.regs, .lx, .tree, .ts, .ebm, .bus, .qe, .bm, .xb, .fn, .mre, .gd, .sv, .pu, .ck, .free, .out] l_ = true) :
    Moves l_ z_ (State.applyCmd s r e h now) := by
  refine h_.step ?_ hl_
  clear h_ hl_
  have h_ := Moves.refl [.regs, .lx, .tree, .ts, .ebm, .bus, .qe, .bm, .xb, .fn, .mre, .gd, .sv, .pu, .ck, .free, .out] s
  unfold State.applyCmd
  repeat' (first
    | with_reducible assumption
    | intro _
    | with_reducible apply Moves.ite
    | exact (rfl : _ = true)
    | with_reducible apply State.auditStart_moves
    | with_reducible apply State.clipStop_moves
    | with_reducible apply State.graphLoad_moves
    | with_reducible apply State.graphSwap_moves
    | with_reducible apply State.playClip_moves
    | with_reducible apply State.scheduleCommit_moves
    | with_reducible apply State.setShare_moves
    | with_reducible apply State.stage_moves
    | with_reducible apply State.vfGrant_moves
    | split)

theorem State.rootFeature_moves {l_ : List Part} {z_ : State} {s : State} {r : EntryRef} {e : Sqe} {p : ℕ} {states : List ℕ} {op : State → State}
    (h_ : Moves l_ z_ s) (hl_ : Part.sub [.regs, .qe, .bm, .xb, .fn, .out] l_ = true) (hf : ∀ t, Moves l_ z_ t → Moves l_ z_ (op t)) :
    Moves l_ z_ (State.rootFeature s r e p states op) :=
  Moves.ite (fun _ => State.complete_moves (hf s h_) (Part.sub_trans rfl hl_)) (fun _ => State.complete_moves h_ (Part.sub_trans rfl hl_))

theorem State.rootHub_moves {l_ : List Part} {z_ : State} {s : State} {r : EntryRef} {e : Sqe} (h_ : Moves l_ z_ s) (hl_ : Part.sub [.regs, .lx, .tree, .ts, .ebm, .bus, .qe, .bm, .xb, .fn, .mre, .pu, .ck, .free, .out] l_ = true) :
    Moves l_ z_ (State.rootHub s r e) := by
  refine h_.step ?_ hl_
  clear h_ hl_
  have h_ := Moves.refl [.regs, .lx, .tree, .ts, .ebm, .bus, .qe, .bm, .xb, .fn, .mre, .pu, .ck, .free, .out] s
  unfold State.rootHub
  repeat' (first
    | with_reducible assumption
    | (extract_lets -underBinder +onlyGivenNames x_; first | (refine (fun hx_ : Moves [.regs, .lx, .tree, .ts, .ebm, .bus, .qe, .bm, .xb, .fn, .mre, .pu, .ck, .free, .out] s x_ => ?_) ?_; (on_goal 1 => (clear_value x_; revert hx_; revert x_; intro _ _)); (on_goal 2 => subst x_)) | (clear_value x_; revert x_; intro _))
    | intro _
    | exact (rfl : _ = true)
    | with_reducible apply State.complete_moves
    | with_reducible apply State.portClearEnable_moves
    | with_reducible apply State.portOff_moves
    | with_reducible apply State.portPower_moves
    | with_reducible apply State.portReset_moves
    | with_reducible apply State.portResume_moves
    | with_reducible apply State.portSetEnable_moves
    | with_reducible apply State.portSuspend_moves
    | with_reducible apply State.rootFeature_moves
    | with_reducible apply State.updPort_moves
    | with_reducible apply State.when_moves
    | with_reducible apply State.sendHost_moves
    | split)

theorem State.beginXferOf_moves {l_ : List Part} {z_ : State} {s : State} {r : EntryRef} {e : Sqe} {k : XKind} {h : ℕ} {setup : List Byte} {addr : ℕ} (h_ : Moves l_ z_ s) (hl_ : Part.sub [.regs, .lx, .tree, .ts, .ebm, .bus, .qe, .bm, .xb, .fn, .mre, .pu, .ck, .out] l_ = true) :
    Moves l_ z_ (State.beginXferOf s r e k h setup addr) := by
  refine h_.step ?_ hl_
  clear h_ hl_
  have h_ := Moves.refl [.regs, .lx, .tree, .ts, .ebm, .bus, .qe, .bm, .xb, .fn, .mre, .pu, .ck, .out] s
  unfold State.beginXferOf
  repeat' (first
    | with_reducible assumption
    | intro _
    | with_reducible apply Moves.ite
    | exact (rfl : _ = true)
    | with_reducible apply State.beginXfer_moves
    | with_reducible apply State.complete_moves
    | with_reducible apply State.setJob_moves
    | with_reducible apply State.portReset_moves
    | split)

theorem State.beginControl_moves {l_ : List Part} {z_ : State} {s : State} {r : EntryRef} {e : Sqe} (h_ : Moves l_ z_ s) (hl_ : Part.sub [.regs, .lx, .tree, .ts, .ebm, .bus, .qe, .bm, .xb, .fn, .mre, .pu, .ck, .free, .out] l_ = true) :
    Moves l_ z_ (State.beginControl s r e) := by
  refine h_.step ?_ hl_
  clear h_ hl_
  have h_ := Moves.refl [.regs, .lx, .tree, .ts, .ebm, .bus, .qe, .bm, .xb, .fn, .mre, .pu, .ck, .free, .out] s
  unfold State.beginControl
  repeat' (first
    | with_reducible assumption
    | intro _
    | with_reducible apply Moves.ite
    | exact (rfl : _ = true)
    | with_reducible apply State.beginXferOf_moves
    | with_reducible apply State.rootHub_moves)

theorem State.beginMove_moves {l_ : List Part} {z_ : State} {s : State} {r : EntryRef} {e : Sqe} (h_ : Moves l_ z_ s) (hl_ : Part.sub [.bm] l_ = true) :
    Moves l_ z_ (State.beginMove s r e) := by
  refine h_.step ?_ hl_
  clear h_ hl_
  have h_ := Moves.refl [.bm] s
  unfold State.beginMove
  repeat' (first
    | with_reducible assumption
    | exact (rfl : _ = true)
    | with_reducible apply State.setJob_moves)

theorem State.beginTap_moves {l_ : List Part} {z_ : State} {s : State} {r : EntryRef} {e : Sqe} (h_ : Moves l_ z_ s) (hl_ : Part.sub [.regs, .qe, .bm, .xb, .fn, .mre, .out] l_ = true) :
    Moves l_ z_ (State.beginTap s r e) := by
  refine h_.step ?_ hl_
  clear h_ hl_
  have h_ := Moves.refl [.regs, .qe, .bm, .xb, .fn, .mre, .out] s
  unfold State.beginTap
  repeat' (first
    | with_reducible assumption
    | intro _
    | with_reducible apply Moves.ite
    | exact (rfl : _ = true)
    | with_reducible apply State.setJob_moves
    | with_reducible apply State.tapBuffer_moves)

theorem State.createCq_moves {l_ : List Part} {z_ : State} {s : State} {r : EntryRef} {e : Sqe} {clean : Bool} (h_ : Moves l_ z_ s) (hl_ : Part.sub [.regs, .qe, .bm, .xb, .fn, .free, .out] l_ = true) :
    Moves l_ z_ (State.createCq s r e clean) := by
  refine h_.step ?_ hl_
  clear h_ hl_
  have h_ := Moves.refl [.regs, .qe, .bm, .xb, .fn, .free, .out] s
  unfold State.createCq
  repeat' (first
    | with_reducible assumption
    | intro _
    | with_reducible apply Moves.ite
    | exact (rfl : _ = true)
    | with_reducible apply State.complete_moves
    | with_reducible apply State.newCq_moves)

theorem State.createSq_moves {l_ : List Part} {z_ : State} {s : State} {r : EntryRef} {e : Sqe} (h_ : Moves l_ z_ s) (hl_ : Part.sub [.regs, .qe, .bm, .xb, .fn, .free, .out] l_ = true) :
    Moves l_ z_ (State.createSq s r e) := by
  refine h_.step ?_ hl_
  clear h_ hl_
  have h_ := Moves.refl [.regs, .qe, .bm, .xb, .fn, .free, .out] s
  unfold State.createSq
  repeat' (first
    | with_reducible assumption
    | exact (rfl : _ = true)
    | with_reducible apply State.complete_moves
    | with_reducible apply State.newSq_moves)

theorem State.deleteCq_moves {l_ : List Part} {z_ : State} {s : State} {r : EntryRef} {e : Sqe} (h_ : Moves l_ z_ s) (hl_ : Part.sub [.regs, .qe, .bm, .xb, .fn, .out] l_ = true) :
    Moves l_ z_ (State.deleteCq s r e) := by
  refine h_.step ?_ hl_
  clear h_ hl_
  have h_ := Moves.refl [.regs, .qe, .bm, .xb, .fn, .out] s
  unfold State.deleteCq
  repeat' (first
    | with_reducible assumption
    | (extract_lets -underBinder +onlyGivenNames x_; (clear_value x_; revert x_; intro _))
    | exact (rfl : _ = true)
    | with_reducible apply State.complete_moves
    | with_reducible apply State.dropCq_moves
    | split)

theorem State.deleteSq_moves {l_ : List Part} {z_ : State} {s : State} {r : EntryRef} {e : Sqe} (h_ : Moves l_ z_ s) (hl_ : Part.sub [.regs, .qe, .fn, .out] l_ = true) :
    Moves l_ z_ (State.deleteSq s r e) := by
  refine h_.step ?_ hl_
  clear h_ hl_
  have h_ := Moves.refl [.regs, .qe, .fn, .out] s
  unfold State.deleteSq
  repeat' (first
    | with_reducible assumption
    | exact (rfl : _ = true)
    | with_reducible apply State.discardCached_moves
    | with_reducible apply State.finishIdle_moves
    | with_reducible apply State.updSq_moves)

theorem State.startEntry_moves {l_ : List Part} {z_ : State} {s : State} {r : EntryRef} {e : Sqe} {run : State → State}
    (h_ : Moves l_ z_ s) (hl_ : Part.sub [.regs, .qe, .bm, .xb, .fn, .out] l_ = true) (hf : ∀ t, Moves l_ z_ t → Moves l_ z_ (run t)) :
    Moves l_ z_ (State.startEntry s r e run) := by
  unfold State.startEntry
  refine State.serveSpace_moves ?_ (Part.sub_trans rfl hl_)
  have h1 := State.startRec_moves (r := r) (e := e) (where_ := (placeOf r e).1) (unit := (placeOf r e).2) h_ (Part.sub_trans rfl hl_)
  split
  · exact State.complete_moves (State.bump_moves h1 (Part.sub_trans rfl hl_)) (Part.sub_trans rfl hl_)
  · refine Moves.ite (fun _ => State.complete_moves h1 (Part.sub_trans rfl hl_)) (fun _ => hf _ h1)

theorem State.ordered_moves {l_ : List Part} {z_ : State} {s : State} {r : EntryRef} {e : Sqe} {h : HostData} {op : State → State}
    (h_ : Moves l_ z_ s) (hl_ : Part.sub [.regs, .qe, .bm, .xb, .fn, .pu, .out] l_ = true)
    (hf : ∀ t, Moves l_ z_ t → Moves l_ z_ (op t)) : Moves l_ z_ (State.ordered s r e h op) :=
  Moves.ite (fun _ => hf s h_) (fun _ => Moves.ite (fun _ => State.complete_moves h_ (Part.sub_trans rfl hl_)) (fun _ =>
    Moves.ite (fun _ => State.updPu_moves (State.sendOrdered_moves h_ (Part.sub_trans rfl hl_)) (Part.sub_trans rfl hl_))
      (fun _ => hf _ (State.mirror_moves h_ (Part.sub_trans rfl hl_)))))

theorem State.runOrdered_moves {l_ : List Part} {z_ : State} {s : State} {r : EntryRef} {e : Sqe} {h : HostData} (h_ : Moves l_ z_ s) (hl_ : Part.sub [.regs, .lx, .tree, .ts, .ebm, .bus, .qe, .bm, .xb, .fn, .mre, .gd, .sv, .pu, .ck, .free, .out] l_ = true) :
    Moves l_ z_ (State.runOrdered s r e h) := by
  refine h_.step ?_ hl_
  clear h_ hl_
  have h_ := Moves.refl [.regs, .lx, .tree, .ts, .ebm, .bus, .qe, .bm, .xb, .fn, .mre, .gd, .sv, .pu, .ck, .free, .out] s
  unfold State.runOrdered
  repeat' (first
    | with_reducible assumption
    | intro _
    | exact (rfl : _ = true)
    | with_reducible apply State.applyCmd_moves
    | with_reducible apply State.ordered_moves)

theorem State.orderedGrant_moves {l_ : List Part} {z_ : State} {s : State} {r : EntryRef} {e : Sqe} {b : List Byte} (h_ : Moves l_ z_ s) (hl_ : Part.sub [.regs, .lx, .tree, .ts, .ebm, .bus, .qe, .bm, .xb, .fn, .mre, .gd, .sv, .pu, .ck, .free, .out] l_ = true) :
    Moves l_ z_ (State.orderedGrant s r e b) := by
  refine h_.step ?_ hl_
  clear h_ hl_
  have h_ := Moves.refl [.regs, .lx, .tree, .ts, .ebm, .bus, .qe, .bm, .xb, .fn, .mre, .gd, .sv, .pu, .ck, .free, .out] s
  unfold State.orderedGrant
  repeat' (first
    | with_reducible assumption
    | (extract_lets -underBinder +onlyGivenNames x_; (clear_value x_; revert x_; intro _))
    | exact (rfl : _ = true)
    | with_reducible apply State.complete_moves
    | with_reducible apply State.runOrdered_moves
    | split)

theorem State.setWindow_moves {l_ : List Part} {z_ : State} {s : State} {r : EntryRef} {e : Sqe} (h_ : Moves l_ z_ s) (hl_ : Part.sub [.regs, .qe, .bm, .xb, .fn, .out] l_ = true) :
    Moves l_ z_ (State.setWindow s r e) := by
  refine h_.step ?_ hl_
  clear h_ hl_
  have h_ := Moves.refl [.regs, .qe, .bm, .xb, .fn, .out] s
  unfold State.setWindow
  repeat' (first
    | with_reducible assumption
    | exact (rfl : _ = true)
    | with_reducible apply State.complete_moves
    | with_reducible apply Moves.bm)

theorem State.pairQuery_moves {l_ : List Part} {z_ : State} {s : State} {r : EntryRef} {e : Sqe} (h_ : Moves l_ z_ s) (hl_ : Part.sub [.regs, .qe, .bm, .xb, .fn, .out] l_ = true) :
    Moves l_ z_ (State.pairQuery s r e) := by
  refine h_.step ?_ hl_
  clear h_ hl_
  have h_ := Moves.refl [.regs, .qe, .bm, .xb, .fn, .out] s
  unfold State.pairQuery
  repeat' (first
    | with_reducible assumption
    | exact (rfl : _ = true)
    | with_reducible apply State.complete_moves)

end Sys2Proof.Machine
end

