-- ==== Sys2Proof/Laws/JoinMoves.lean ====
section
/-! SUPPORT. What the operations of Machine/Join.lean may touch. -/

set_option Elab.async false
set_option linter.unusedTactic false
set_option linter.unreachableTactic false

namespace Sys2Proof.Machine

theorem State.joinPhase_moves {l_ : List Part} {z_ : State} {s : State} {p : ℕ} (h_ : Moves l_ z_ s) (hl_ : Part.sub [.regs] l_ = true) :
    Moves l_ z_ (State.joinPhase s p) := by
  refine h_.step ?_ hl_
  clear h_ hl_
  have h_ := Moves.refl [.regs] s
  unfold State.joinPhase
  repeat' (first
    | with_reducible assumption
    | exact (rfl : _ = true)
    | with_reducible apply State.setF_moves)

theorem State.installDue_moves {l_ : List Part} {z_ : State} {s : State} (h_ : Moves l_ z_ s) (hl_ : Part.sub [.mre, .pu] l_ = true) :
    Moves l_ z_ (State.installDue s) := by
  refine h_.step ?_ hl_
  clear h_ hl_
  have h_ := Moves.refl [.mre, .pu] s
  unfold State.installDue
  repeat' (first
    | with_reducible assumption
    | intro _
    | with_reducible apply Moves.foldl
    | exact (rfl : _ = true)
    | with_reducible apply State.setNodeSt_moves
    | with_reducible apply State.updPu_moves
    | split)

theorem State.sendCopies_moves {l_ : List Part} {z_ : State} {s : State} {l : List CopyFrame} (h_ : Moves l_ z_ s) (hl_ : Part.sub [.pu, .out] l_ = true) :
    Moves l_ z_ (State.sendCopies s l) := by
  refine h_.step ?_ hl_
  clear h_ hl_
  have h_ := Moves.refl [.pu, .out] s
  unfold State.sendCopies
  repeat' (first
    | with_reducible assumption
    | intro _
    | with_reducible apply Moves.foldl
    | exact (rfl : _ = true)
    | with_reducible apply State.sendOrdered_moves)

theorem State.startCopy_moves {l_ : List Part} {z_ : State} {s : State} (h_ : Moves l_ z_ s) (hl_ : Part.sub [.regs, .pu, .out] l_ = true) :
    Moves l_ z_ (State.startCopy s) := by
  refine h_.step ?_ hl_
  clear h_ hl_
  have h_ := Moves.refl [.regs, .pu, .out] s
  unfold State.startCopy
  repeat' (first
    | with_reducible assumption
    | intro _
    | with_reducible apply Moves.ite
    | with_reducible apply Moves.foldl
    | exact (rfl : _ = true)
    | with_reducible apply State.joinPhase_moves
    | with_reducible apply State.sendCopies_moves
    | with_reducible apply State.sendOrdered_moves
    | with_reducible apply State.updPu_moves
    | with_reducible apply State.mirror_moves
    | split)

theorem State.installSched_moves {l_ : List Part} {z_ : State} {s : State} {key : ℕ} {r : SchedRec} {slot : ℕ} {granules : ℕ} (h_ : Moves l_ z_ s) (hl_ : Part.sub [.regs, .ts, .ebm] l_ = true) :
    Moves l_ z_ (State.installSched s key r slot granules) := by
  refine h_.step ?_ hl_
  clear h_ hl_
  have h_ := Moves.refl [.regs, .ts, .ebm] s
  unfold State.installSched
  repeat' (first
    | with_reducible assumption
    | intro _
    | with_reducible apply Moves.ite
    | with_reducible apply Moves.foldl
    | exact (rfl : _ = true)
    | with_reducible apply State.setCf_moves
    | with_reducible apply State.setEntries_moves
    | with_reducible apply State.setGroupSlot_moves
    | with_reducible apply State.setRuns_moves
    | with_reducible apply State.showLoads_moves
    | with_reducible apply State.showPool_moves
    | with_reducible apply Moves.ts)

theorem State.forgetSlot_moves {l_ : List Part} {z_ : State} {s : State} {c : StageCmd} (h_ : Moves l_ z_ s) (hl_ : Part.sub [.ebm] l_ = true) :
    Moves l_ z_ (State.forgetSlot s c) := by
  refine h_.step ?_ hl_
  clear h_ hl_
  have h_ := Moves.refl [.ebm] s
  unfold State.forgetSlot
  repeat' (first
    | with_reducible assumption
    | intro _
    | with_reducible apply Moves.ite
    | exact (rfl : _ = true)
    | with_reducible apply State.setSlotNow_moves
    | split)

theorem State.install_moves {l_ : List Part} {z_ : State} {s : State} {c : CopyFrame} (h_ : Moves l_ z_ s) (hl_ : Part.sub [.regs, .tree, .ts, .ebm, .fn, .mre, .gd, .sv, .pu, .out] l_ = true) :
    Moves l_ z_ (State.install s c) := by
  refine h_.step ?_ hl_
  clear h_ hl_
  have h_ := Moves.refl [.regs, .tree, .ts, .ebm, .fn, .mre, .gd, .sv, .pu, .out] s
  unfold State.install
  repeat' (first
    | with_reducible assumption
    | refine State.applyStage_moves ?_ ?_ (by assumption)
    | intro _
    | exact (rfl : _ = true)
    | with_reducible apply State.ebmWrite_moves
    | with_reducible apply State.installDue_moves
    | with_reducible apply State.installSched_moves
    | with_reducible apply State.setAudit_moves
    | with_reducible apply State.setDev_moves
    | with_reducible apply State.setF_moves
    | with_reducible apply State.setGen_moves
    | with_reducible apply State.setHubGroup_moves
    | with_reducible apply State.setHubPort_moves
    | with_reducible apply State.setLine_moves
    | with_reducible apply State.setRootGroup_moves
    | with_reducible apply State.setRoutes_moves
    | with_reducible apply State.showLines_moves
    | with_reducible apply State.showPool_moves
    | with_reducible apply State.showSwap_moves
    | with_reducible apply State.showTimers_moves
    | with_reducible apply State.updPu_moves
    | with_reducible apply State.beginCommit_moves
    | with_reducible apply State.forgetSlot_moves
    | with_reducible apply State.setB_moves
    | with_reducible apply State.setReg_moves
    | split
    | with_reducible apply Moves.tree
    | with_reducible apply Moves.ts
    | with_reducible apply Moves.fn
    | with_reducible apply Moves.mre
    | with_reducible apply Moves.gd)

end Sys2Proof.Machine
end

