-- ==== Sys2Proof/Laws/PairMoves.lean ====
section
/-! SUPPORT. What the operations of Machine/Pair.lean may touch. -/

set_option Elab.async false
set_option linter.unusedTactic false
set_option linter.unreachableTactic false

namespace Sys2Proof.Machine

theorem State.upstreamMark_moves {l_ : List Part} {z_ : State} {s : State} {p : Nat} {m : CascMark} (h_ : Moves l_ z_ s) (hl_ : Part.sub [.regs, .lx, .tree, .pu, .free, .out] l_ = true) :
    Moves l_ z_ (State.upstreamMark s p m) := by
  refine h_.step ?_ hl_
  clear h_ hl_
  have h_ := Moves.refl [.regs, .lx, .tree, .pu, .free, .out] s
  unfold State.upstreamMark
  repeat' (first
    | with_reducible assumption
    | (extract_lets -underBinder +onlyGivenNames x_; first | (refine (fun hx_ : Moves [.regs, .lx, .tree, .pu, .free, .out] s x_ => ?_) ?_; (on_goal 1 => (clear_value x_; revert hx_; revert x_; intro _ _)); (on_goal 2 => subst x_)) | (clear_value x_; revert x_; intro _))
    | intro _
    | with_reducible apply Moves.ite
    | exact (rfl : _ = true)
    | with_reducible apply State.toState_moves
    | with_reducible apply State.updPort_moves
    | split
    | exact Moves.freeUp (by assumption) rfl _ (Nat.le_add_right _ _))

theorem State.miodelTakes_moves {l_ : List Part} {z_ : State} {s : State} {v : Word} (h_ : Moves l_ z_ s) (hl_ : Part.sub [.regs, .lx, .tree, .ts, .ebm, .bus, .qe, .bm, .xb, .fn, .mre, .pu, .ck, .out] l_ = true) :
    Moves l_ z_ (State.miodelTakes s v) := by
  refine h_.step ?_ hl_
  clear h_ hl_
  have h_ := Moves.refl [.regs, .lx, .tree, .ts, .ebm, .bus, .qe, .bm, .xb, .fn, .mre, .pu, .ck, .out] s
  unfold State.miodelTakes
  repeat' (first
    | with_reducible assumption
    | intro _
    | with_reducible apply Moves.ite
    | with_reducible apply Moves.foldl
    | exact (rfl : _ = true)
    | with_reducible apply State.portOff_moves
    | with_reducible apply State.writeReg_moves
    | split)

theorem State.groupedSlot_moves {l_ : List Part} {z_ : State} {s : State} {h : Nat} (h_ : Moves l_ z_ s) (hl_ : Part.sub [.regs, .ebm, .bus, .mre] l_ = true) :
    Moves l_ z_ (State.groupedSlot s h) := by
  refine h_.step ?_ hl_
  clear h_ hl_
  have h_ := Moves.refl [.regs, .ebm, .bus, .mre] s
  unfold State.groupedSlot
  repeat' (first
    | with_reducible assumption
    | intro _
    | with_reducible apply Moves.ite
    | exact (rfl : _ = true)
    | with_reducible apply State.dropSlot_moves
    | split)

theorem State.rootsRtt_moves {l_ : List Part} {z_ : State} {s : State} {l : List DevRec} (h_ : Moves l_ z_ s) (hl_ : Part.sub [.regs] l_ = true) :
    Moves l_ z_ (State.rootsRtt s l) := by
  refine h_.step ?_ hl_
  clear h_ hl_
  have h_ := Moves.refl [.regs] s
  unfold State.rootsRtt
  repeat' (first
    | with_reducible assumption
    | intro _
    | with_reducible apply Moves.ite
    | with_reducible apply Moves.foldl
    | exact (rfl : _ = true)
    | with_reducible apply State.showRtt_moves
    | split)

theorem State.ackTimer_moves {l_ : List Part} {z_ : State} {s : State} (h_ : Moves l_ z_ s) (hl_ : Part.sub [.pu, .out] l_ = true) :
    Moves l_ z_ (State.ackTimer s) := by
  refine h_.step ?_ hl_
  clear h_ hl_
  have h_ := Moves.refl [.pu, .out] s
  unfold State.ackTimer
  repeat' (first
    | with_reducible assumption
    | intro _
    | with_reducible apply Moves.ite
    | exact (rfl : _ = true)
    | with_reducible apply State.sendTimed_moves
    | with_reducible apply State.updPu_moves)

theorem State.stopClips_moves {l_ : List Part} {z_ : State} {s : State} {status : ℕ} (h_ : Moves l_ z_ s) (hl_ : Part.sub [.regs, .ebm, .bus, .qe, .bm, .xb, .fn, .mre, .gd, .pu, .out] l_ = true) :
    Moves l_ z_ (State.stopClips s status) := by
  refine h_.step ?_ hl_
  clear h_ hl_
  have h_ := Moves.refl [.regs, .ebm, .bus, .qe, .bm, .xb, .fn, .mre, .gd, .pu, .out] s
  unfold State.stopClips
  repeat' (first
    | with_reducible assumption
    | intro _
    | with_reducible apply Moves.ite
    | with_reducible apply Moves.foldl
    | exact (rfl : _ = true)
    | with_reducible apply State.stopGen_moves)

theorem State.endTaps_moves {l_ : List Part} {z_ : State} {s : State} {status : ℕ} (h_ : Moves l_ z_ s) (hl_ : Part.sub [.regs, .qe, .bm, .xb, .fn, .mre, .out] l_ = true) :
    Moves l_ z_ (State.endTaps s status) := by
  refine h_.step ?_ hl_
  clear h_ hl_
  have h_ := Moves.refl [.regs, .qe, .bm, .xb, .fn, .mre, .out] s
  unfold State.endTaps
  repeat' (first
    | with_reducible assumption
    | intro _
    | with_reducible apply Moves.foldl
    | exact (rfl : _ = true)
    | with_reducible apply State.endTapBuf_moves
    | with_reducible apply State.setTap_moves)

theorem State.holderEnds_moves {l_ : List Part} {z_ : State} {s : State} (h_ : Moves l_ z_ s) (hl_ : Part.sub [.regs, .tree, .ts, .ebm, .bus, .qe, .bm, .xb, .fn, .mre, .gd, .pu, .out] l_ = true) :
    Moves l_ z_ (State.holderEnds s) := by
  refine h_.step ?_ hl_
  clear h_ hl_
  have h_ := Moves.refl [.regs, .tree, .ts, .ebm, .bus, .qe, .bm, .xb, .fn, .mre, .gd, .pu, .out] s
  unfold State.holderEnds
  repeat' (first
    | with_reducible assumption
    | intro _
    | with_reducible apply Moves.foldl
    | exact (rfl : _ = true)
    | with_reducible apply State.dropXfer_moves
    | with_reducible apply State.endTaps_moves
    | with_reducible apply State.endXfer_moves
    | with_reducible apply State.showEnum_moves
    | with_reducible apply State.stopClips_moves
    | with_reducible apply State.updPu_moves
    | with_reducible apply State.viewsTaken_moves
    | split
    | with_reducible apply Moves.tree)

theorem State.freeRun_moves {l_ : List Part} {z_ : State} {s : State} (h_ : Moves l_ z_ s) (hl_ : Part.sub [.regs] l_ = true) :
    Moves l_ z_ (State.freeRun s) := by
  refine h_.step ?_ hl_
  clear h_ hl_
  have h_ := Moves.refl [.regs] s
  unfold State.freeRun
  repeat' (first
    | with_reducible assumption
    | exact (rfl : _ = true)
    | with_reducible apply State.setB_moves
    | with_reducible apply State.setF_moves)

theorem State.peerGone_moves {l_ : List Part} {z_ : State} {s : State} (h_ : Moves l_ z_ s) (hl_ : Part.sub [.regs, .tree, .ts, .ebm, .bus, .qe, .bm, .xb, .fn, .mre, .pu, .out] l_ = true) :
    Moves l_ z_ (State.peerGone s) := by
  refine h_.step ?_ hl_
  clear h_ hl_
  have h_ := Moves.refl [.regs, .tree, .ts, .ebm, .bus, .qe, .bm, .xb, .fn, .mre, .pu, .out] s
  unfold State.peerGone
  repeat' (first
    | with_reducible assumption
    | exact (rfl : _ = true)
    | with_reducible apply State.detachLost_moves
    | with_reducible apply State.updPu_moves)

theorem State.tmBegins_moves {l_ : List Part} {z_ : State} {s : State} (h_ : Moves l_ z_ s) (hl_ : Part.sub [.regs, .tree] l_ = true) :
    Moves l_ z_ (State.tmBegins s) := by
  refine h_.step ?_ hl_
  clear h_ hl_
  have h_ := Moves.refl [.regs, .tree] s
  unfold State.tmBegins
  repeat' (first
    | with_reducible assumption
    | intro _
    | with_reducible apply Moves.ite
    | with_reducible apply Moves.foldl
    | exact (rfl : _ = true)
    | with_reducible apply State.await_moves)

theorem State.pairStop_moves {l_ : List Part} {z_ : State} {s : State} (h_ : Moves l_ z_ s) (hl_ : Part.sub [.regs, .tree, .ts, .ebm, .bus, .qe, .bm, .xb, .fn, .mre, .pu, .out] l_ = true) :
    Moves l_ z_ (State.pairStop s) := by
  refine h_.step ?_ hl_
  clear h_ hl_
  have h_ := Moves.refl [.regs, .tree, .ts, .ebm, .bus, .qe, .bm, .xb, .fn, .mre, .pu, .out] s
  unfold State.pairStop
  repeat' (first
    | with_reducible assumption
    | intro _
    | with_reducible apply Moves.ite
    | exact (rfl : _ = true)
    | with_reducible apply State.freeRun_moves
    | with_reducible apply State.joinPhase_moves
    | with_reducible apply State.orderedDown_moves
    | with_reducible apply State.peerGone_moves
    | with_reducible apply State.puEvent_moves
    | with_reducible apply State.setPstate_moves
    | with_reducible apply State.setRole_moves
    | with_reducible apply State.tmBegins_moves
    | with_reducible apply State.updPu_moves
    | with_reducible apply State.when_moves)

theorem State.leaves_moves {l_ : List Part} {z_ : State} {s : State} {r : EntryRef} (h_ : Moves l_ z_ s) (hl_ : Part.sub [.regs, .tree, .ts, .ebm, .bus, .qe, .bm, .xb, .fn, .mre, .gd, .pu, .out] l_ = true) :
    Moves l_ z_ (State.leaves s r) := by
  refine h_.step ?_ hl_
  clear h_ hl_
  have h_ := Moves.refl [.regs, .tree, .ts, .ebm, .bus, .qe, .bm, .xb, .fn, .mre, .gd, .pu, .out] s
  unfold State.leaves
  repeat' (first
    | with_reducible assumption
    | intro _
    | with_reducible apply Moves.ite
    | exact (rfl : _ = true)
    | with_reducible apply State.completeRef_moves
    | with_reducible apply State.holderEnds_moves
    | with_reducible apply State.pairStop_moves
    | with_reducible apply State.updPu_moves)

theorem State.sendHello_moves {l_ : List Part} {z_ : State} {s : State} (h_ : Moves l_ z_ s) (hl_ : Part.sub [.out] l_ = true) :
    Moves l_ z_ (State.sendHello s) := by
  refine h_.step ?_ hl_
  clear h_ hl_
  have h_ := Moves.refl [.out] s
  unfold State.sendHello
  repeat' (first
    | with_reducible assumption
    | exact (rfl : _ = true)
    | with_reducible apply State.sendTimed_moves)

theorem State.afterMark_moves {l_ : List Part} {z_ : State} {s : State} (h_ : Moves l_ z_ s) (hl_ : Part.sub [.regs, .lx, .tree, .ts, .ebm, .bus, .qe, .bm, .xb, .fn, .mre, .gd, .sv, .pu, .ck, .out] l_ = true) :
    Moves l_ z_ (State.afterMark s) := by
  refine h_.step ?_ hl_
  clear h_ hl_
  have h_ := Moves.refl [.regs, .lx, .tree, .ts, .ebm, .bus, .qe, .bm, .xb, .fn, .mre, .gd, .sv, .pu, .ck, .out] s
  unfold State.afterMark
  repeat' (first
    | with_reducible assumption
    | (extract_lets -underBinder +onlyGivenNames x_; (refine (fun hx_ : Moves [.regs, .lx, .tree, .ts, .ebm, .bus, .qe, .bm, .xb, .fn, .mre, .gd, .sv, .pu, .ck, .out] s x_ => ?_) ?_; (on_goal 1 => (clear_value x_; revert hx_; revert x_; intro _ _)); (on_goal 2 => subst x_)))
    | exact (rfl : _ = true)
    | with_reducible apply State.completeRef_moves
    | with_reducible apply State.dropAudit_moves
    | with_reducible apply State.installDue_moves
    | with_reducible apply State.leaves_moves
    | with_reducible apply State.sendHello_moves
    | with_reducible apply State.setF_moves
    | with_reducible apply State.updPu_moves
    | split)

theorem State.alignLost_moves {l_ : List Part} {z_ : State} {s : State} (h_ : Moves l_ z_ s) (hl_ : Part.sub [.regs, .qe, .bm, .xb, .fn, .pu, .out] l_ = true) :
    Moves l_ z_ (State.alignLost s) := by
  refine h_.step ?_ hl_
  clear h_ hl_
  have h_ := Moves.refl [.regs, .qe, .bm, .xb, .fn, .pu, .out] s
  unfold State.alignLost
  repeat' (first
    | with_reducible assumption
    | intro _
    | with_reducible apply Moves.ite
    | exact (rfl : _ = true)
    | with_reducible apply State.enterResync_moves
    | with_reducible apply State.orderedDown_moves
    | with_reducible apply State.puEvent_moves
    | with_reducible apply State.setB_moves
    | with_reducible apply State.updPu_moves
    | with_reducible apply State.setPstate_moves)

theorem State.gotCommand_moves {l_ : List Part} {z_ : State} {s : State} {n : Nat} {fn : FnId} {e : Sqe} {h : HostData} {at_ : Nat} (h_ : Moves l_ z_ s) (hl_ : Part.sub [.regs, .lx, .tree, .ts, .ebm, .bus, .qe, .bm, .xb, .fn, .mre, .gd, .sv, .pu, .ck, .free, .out] l_ = true) :
    Moves l_ z_ (State.gotCommand s n fn e h at_) := by
  refine h_.step ?_ hl_
  clear h_ hl_
  have h_ := Moves.refl [.regs, .lx, .tree, .ts, .ebm, .bus, .qe, .bm, .xb, .fn, .mre, .gd, .sv, .pu, .ck, .free, .out] s
  unfold State.gotCommand
  repeat' (first
    | with_reducible assumption
    | intro _
    | with_reducible apply Moves.ite
    | exact (rfl : _ = true)
    | with_reducible apply State.applyCmd_moves
    | with_reducible apply State.mirror_moves
    | with_reducible apply State.updPu_moves
    | split)

theorem State.peerSwitch_moves {l_ : List Part} {z_ : State} {s : State} {satin : Bool} {m : ℕ} (h_ : Moves l_ z_ s) (hl_ : Part.sub [.regs, .lx, .qe, .bm, .xb, .fn, .gd, .sv, .pu, .pm, .ck, .free, .out] l_ = true) :
    Moves l_ z_ (State.peerSwitch s satin m) := by
  refine h_.step ?_ hl_
  clear h_ hl_
  have h_ := Moves.refl [.regs, .lx, .qe, .bm, .xb, .fn, .gd, .sv, .pu, .pm, .ck, .free, .out] s
  unfold State.peerSwitch
  repeat' (first
    | with_reducible assumption
    | intro _
    | with_reducible apply Moves.ite
    | exact (rfl : _ = true)
    | with_reducible apply State.abortAudit_moves
    | with_reducible apply State.endRequest_moves
    | with_reducible apply State.pairSwitch_moves
    | with_reducible apply State.updPu_moves
    | with_reducible apply State.savePoints_moves)

theorem State.peerFeature_moves {l_ : List Part} {z_ : State} {s : State} {t : ℕ} {set : Bool} {feat : ℕ} {reason : ℕ} (h_ : Moves l_ z_ s) (hl_ : Part.sub [.regs, .lx, .tree, .ts, .ebm, .bus, .qe, .bm, .xb, .fn, .mre, .pu, .ck, .free, .out] l_ = true) :
    Moves l_ z_ (State.peerFeature s t set feat reason) := by
  refine h_.step ?_ hl_
  clear h_ hl_
  have h_ := Moves.refl [.regs, .lx, .tree, .ts, .ebm, .bus, .qe, .bm, .xb, .fn, .mre, .pu, .ck, .free, .out] s
  unfold State.peerFeature
  repeat' (first
    | with_reducible assumption
    | exact (rfl : _ = true)
    | with_reducible apply State.portDisable_moves
    | with_reducible apply State.portOff_moves
    | with_reducible apply State.portPower_moves
    | with_reducible apply State.portReset_moves
    | with_reducible apply State.portResume_moves
    | with_reducible apply State.portSuspend_moves
    | split)

theorem State.peerPortEvent_moves {l_ : List Part} {z_ : State} {s : State} {t : ℕ} {e : TopoEvent} (h_ : Moves l_ z_ s) (hl_ : Part.sub [.regs, .lx, .tree, .ts, .ebm, .bus, .qe, .bm, .xb, .fn, .mre, .pu, .ck, .free, .out] l_ = true) :
    Moves l_ z_ (State.peerPortEvent s t e) := by
  refine h_.step ?_ hl_
  clear h_ hl_
  have h_ := Moves.refl [.regs, .lx, .tree, .ts, .ebm, .bus, .qe, .bm, .xb, .fn, .mre, .pu, .ck, .free, .out] s
  unfold State.peerPortEvent
  repeat' (first
    | with_reducible assumption
    | (extract_lets -underBinder +onlyGivenNames x_; first | (refine (fun hx_ : Moves [.regs, .lx, .tree, .ts, .ebm, .bus, .qe, .bm, .xb, .fn, .mre, .pu, .ck, .free, .out] s x_ => ?_) ?_; (on_goal 1 => (clear_value x_; revert hx_; revert x_; intro _ _)); (on_goal 2 => subst x_)) | (clear_value x_; revert x_; intro _))
    | intro _
    | exact (rfl : _ = true)
    | with_reducible apply State.await_moves
    | with_reducible apply State.detachLost_moves
    | with_reducible apply State.dropEnum_moves
    | with_reducible apply State.setPeerPort_moves
    | with_reducible apply State.showEnum_moves
    | with_reducible apply State.step3_moves
    | with_reducible apply State.topoEvent_moves
    | with_reducible apply State.portReset_moves
    | split)

theorem State.applyMirror_moves {l_ : List Part} {z_ : State} {s : State} {n : ℕ} {m : MirrorRec} (h_ : Moves l_ z_ s) (hl_ : Part.sub [.regs, .lx, .tree, .ts, .ebm, .bus, .qe, .bm, .xb, .fn, .mre, .gd, .sv, .pu, .pm, .ck, .free, .out] l_ = true) :
    Moves l_ z_ (State.applyMirror s n m) := by
  refine h_.step ?_ hl_
  clear h_ hl_
  have h_ := Moves.refl [.regs, .lx, .tree, .ts, .ebm, .bus, .qe, .bm, .xb, .fn, .mre, .gd, .sv, .pu, .pm, .ck, .free, .out] s
  unfold State.applyMirror
  repeat' (first
    | with_reducible assumption
    | intro _
    | with_reducible apply Moves.foldl
    | exact (rfl : _ = true)
    | with_reducible apply State.gotCommand_moves
    | with_reducible apply State.peerFeature_moves
    | with_reducible apply State.peerPortEvent_moves
    | with_reducible apply State.peerSwitch_moves
    | with_reducible apply State.setB_moves
    | with_reducible apply State.setCtx_moves
    | with_reducible apply State.setDev_moves
    | with_reducible apply State.setHubGroup_moves
    | with_reducible apply State.setHubPort_moves
    | with_reducible apply State.setRootGroup_moves
    | with_reducible apply State.setRoutes_moves
    | with_reducible apply State.updPu_moves
    | with_reducible apply State.groupedSlot_moves
    | with_reducible apply State.rootsRtt_moves
    | split)

theorem State.applyWrites_moves {l_ : List Part} {z_ : State} {s : State} (h_ : Moves l_ z_ s) (hl_ : Part.sub [.regs, .pu] l_ = true) :
    Moves l_ z_ (State.applyWrites s) := by
  refine h_.step ?_ hl_
  clear h_ hl_
  have h_ := Moves.refl [.regs, .pu] s
  unfold State.applyWrites
  repeat' (first
    | with_reducible assumption
    | intro _
    | with_reducible apply Moves.foldl
    | exact (rfl : _ = true)
    | with_reducible apply State.setReg_moves
    | with_reducible apply State.updPu_moves)

theorem State.barrierDone_moves {l_ : List Part} {z_ : State} {s : State} {n : ℕ} (h_ : Moves l_ z_ s) (hl_ : Part.sub [.regs, .qe, .bm, .xb, .fn, .pu, .out] l_ = true) :
    Moves l_ z_ (State.barrierDone s n) := by
  refine h_.step ?_ hl_
  clear h_ hl_
  have h_ := Moves.refl [.regs, .qe, .bm, .xb, .fn, .pu, .out] s
  unfold State.barrierDone
  repeat' (first
    | with_reducible assumption
    | intro _
    | with_reducible apply Moves.ite
    | with_reducible apply Moves.foldl
    | exact (rfl : _ = true)
    | with_reducible apply State.completeRef_moves
    | with_reducible apply State.updPu_moves)

theorem State.beginJoin_moves {l_ : List Part} {z_ : State} {s : State} {term : ℕ} (h_ : Moves l_ z_ s) (hl_ : Part.sub [.regs, .qe, .fn, .pu, .out] l_ = true) :
    Moves l_ z_ (State.beginJoin s term) := by
  refine h_.step ?_ hl_
  clear h_ hl_
  have h_ := Moves.refl [.regs, .qe, .fn, .pu, .out] s
  unfold State.beginJoin
  repeat' (first
    | with_reducible assumption
    | intro _
    | with_reducible apply Moves.ite
    | exact (rfl : _ = true)
    | with_reducible apply State.joinPhase_moves
    | with_reducible apply State.puEvent_moves
    | with_reducible apply State.setF_moves
    | with_reducible apply State.setPstate_moves
    | with_reducible apply State.setRole_moves
    | with_reducible apply State.updPu_moves)

theorem State.pairStart_moves {l_ : List Part} {z_ : State} {s : State} (h_ : Moves l_ z_ s) (hl_ : Part.sub [.regs, .lx, .pu, .ck, .out] l_ = true) :
    Moves l_ z_ (State.pairStart s) := by
  refine h_.step ?_ hl_
  clear h_ hl_
  have h_ := Moves.refl [.regs, .lx, .pu, .ck, .out] s
  unfold State.pairStart
  repeat' (first
    | with_reducible assumption
    | intro _
    | with_reducible apply Moves.foldl
    | exact (rfl : _ = true)
    | with_reducible apply State.joinPhase_moves
    | with_reducible apply State.sendHello_moves
    | with_reducible apply State.setPstate_moves
    | with_reducible apply State.trainStart_moves
    | with_reducible apply State.updPu_moves)

theorem State.measure_moves {l_ : List Part} {z_ : State} {s : State} {o : ℤ} {frame : Bool} (h_ : Moves l_ z_ s) (hl_ : Part.sub [.regs, .pu] l_ = true) :
    Moves l_ z_ (State.measure s o frame) := by
  refine h_.step ?_ hl_
  clear h_ hl_
  have h_ := Moves.refl [.regs, .pu] s
  unfold State.measure
  repeat' (first
    | with_reducible assumption
    | exact (rfl : _ = true)
    | with_reducible apply State.high_moves
    | with_reducible apply State.setF_moves
    | with_reducible apply State.updPu_moves)

theorem State.follow_moves {l_ : List Part} {z_ : State} {s : State} {src : ℕ} {r : ℕ} (h_ : Moves l_ z_ s) (hl_ : Part.sub [.regs, .pu] l_ = true) :
    Moves l_ z_ (State.follow s src r) := by
  refine h_.step ?_ hl_
  clear h_ hl_
  have h_ := Moves.refl [.regs, .pu] s
  unfold State.follow
  repeat' (first
    | with_reducible assumption
    | exact (rfl : _ = true)
    | with_reducible apply State.setB_moves
    | with_reducible apply State.setF_moves
    | with_reducible apply State.updPu_moves)

theorem State.takeTime_moves {l_ : List Part} {z_ : State} {s : State} {mf : ℕ} {phase : ℕ} (h_ : Moves l_ z_ s) (hl_ : Part.sub [.time] l_ = true) :
    Moves l_ z_ (State.takeTime s mf phase) := by
  refine h_.step ?_ hl_
  clear h_ hl_
  have h_ := Moves.refl [.time] s
  unfold State.takeTime
  repeat' (first
    | with_reducible assumption
    | exact (rfl : _ = true)
    | with_reducible apply Moves.time)

theorem State.timeConflict_moves {l_ : List Part} {z_ : State} {s : State} (h_ : Moves l_ z_ s) (hl_ : Part.sub [.regs, .qe, .fn, .pu, .out] l_ = true) :
    Moves l_ z_ (State.timeConflict s) := by
  refine h_.step ?_ hl_
  clear h_ hl_
  have h_ := Moves.refl [.regs, .qe, .fn, .pu, .out] s
  unfold State.timeConflict
  repeat' (first
    | with_reducible assumption
    | intro _
    | with_reducible apply Moves.ite
    | exact (rfl : _ = true)
    | with_reducible apply State.puEvent_moves
    | with_reducible apply State.updPu_moves)

theorem State.sourceMark_moves {l_ : List Part} {z_ : State} {s : State} {src : ℕ} {rank : ℕ} {mf : ℕ} {phase : ℕ} {o : ℤ} {fresh : Bool} (h_ : Moves l_ z_ s) (hl_ : Part.sub [.time, .regs, .qe, .fn, .pu, .out] l_ = true) :
    Moves l_ z_ (State.sourceMark s src rank mf phase o fresh) := by
  refine h_.step ?_ hl_
  clear h_ hl_
  have h_ := Moves.refl [.time, .regs, .qe, .fn, .pu, .out] s
  unfold State.sourceMark
  repeat' (first
    | with_reducible assumption
    | intro _
    | with_reducible apply Moves.ite
    | exact (rfl : _ = true)
    | with_reducible apply State.follow_moves
    | with_reducible apply State.measure_moves
    | with_reducible apply State.takeTime_moves
    | with_reducible apply State.timeConflict_moves)

theorem State.cascadeMark_moves {l_ : List Part} {z_ : State} {s : State} {p : Nat} {m : CascMark} {o : Int} (h_ : Moves l_ z_ s) (hl_ : Part.sub [.time, .regs, .lx, .tree, .qe, .fn, .pu, .free, .out] l_ = true) :
    Moves l_ z_ (State.cascadeMark s p m o) := by
  refine h_.step ?_ hl_
  clear h_ hl_
  have h_ := Moves.refl [.time, .regs, .lx, .tree, .qe, .fn, .pu, .free, .out] s
  unfold State.cascadeMark
  repeat' (first
    | with_reducible assumption
    | intro _
    | with_reducible apply Moves.ite
    | exact (rfl : _ = true)
    | with_reducible apply State.fresh_moves
    | with_reducible apply State.sourceMark_moves
    | with_reducible apply State.upstreamMark_moves
    | split)

theorem State.channelDown_moves {l_ : List Part} {z_ : State} {s : State} (h_ : Moves l_ z_ s) (hl_ : Part.sub [.regs, .qe, .bm, .xb, .fn, .pu, .out] l_ = true) :
    Moves l_ z_ (State.channelDown s) := by
  refine h_.step ?_ hl_
  clear h_ hl_
  have h_ := Moves.refl [.regs, .qe, .bm, .xb, .fn, .pu, .out] s
  unfold State.channelDown
  repeat' (first
    | with_reducible assumption
    | intro _
    | with_reducible apply Moves.ite
    | exact (rfl : _ = true)
    | with_reducible apply State.joinPhase_moves
    | with_reducible apply State.orderedDown_moves
    | with_reducible apply State.setPstate_moves
    | with_reducible apply State.setRole_moves)

theorem State.diverged_moves {l_ : List Part} {z_ : State} {s : State} {p : ℕ} {l : List ℕ} (h_ : Moves l_ z_ s) (hl_ : Part.sub [.regs, .qe, .bm, .xb, .fn, .pu, .out] l_ = true) :
    Moves l_ z_ (State.diverged s p l) := by
  refine h_.step ?_ hl_
  clear h_ hl_
  have h_ := Moves.refl [.regs, .qe, .bm, .xb, .fn, .pu, .out] s
  unfold State.diverged
  repeat' (first
    | with_reducible assumption
    | intro _
    | with_reducible apply Moves.ite
    | exact (rfl : _ = true)
    | with_reducible apply State.bump_moves
    | with_reducible apply State.enterResync_moves
    | with_reducible apply State.orderedDown_moves
    | with_reducible apply State.puEvent_moves
    | with_reducible apply State.setF_moves
    | with_reducible apply State.updPu_moves)

theorem State.placeHandover_moves {l_ : List Part} {z_ : State} {s : State} {r : Option EntryRef} (h_ : Moves l_ z_ s) (hl_ : Part.sub [.pu, .out] l_ = true) :
    Moves l_ z_ (State.placeHandover s r) := by
  refine h_.step ?_ hl_
  clear h_ hl_
  have h_ := Moves.refl [.pu, .out] s
  unfold State.placeHandover
  repeat' (first
    | with_reducible assumption
    | exact (rfl : _ = true)
    | with_reducible apply State.sendOrdered_moves
    | with_reducible apply State.updPu_moves)

theorem State.pairHandover_moves {l_ : List Part} {z_ : State} {s : State} {r : EntryRef} {e : Sqe} (h_ : Moves l_ z_ s) (hl_ : Part.sub [.regs, .qe, .bm, .xb, .fn, .pu, .out] l_ = true) :
    Moves l_ z_ (State.pairHandover s r e) := by
  refine h_.step ?_ hl_
  clear h_ hl_
  have h_ := Moves.refl [.regs, .qe, .bm, .xb, .fn, .pu, .out] s
  unfold State.pairHandover
  repeat' (first
    | with_reducible assumption
    | intro _
    | with_reducible apply Moves.ite
    | exact (rfl : _ = true)
    | with_reducible apply State.complete_moves
    | with_reducible apply State.placeHandover_moves)

theorem State.pairLeave_moves {l_ : List Part} {z_ : State} {s : State} {r : EntryRef} {e : Sqe} (h_ : Moves l_ z_ s) (hl_ : Part.sub [.regs, .qe, .bm, .xb, .fn, .pu, .out] l_ = true) :
    Moves l_ z_ (State.pairLeave s r e) := by
  refine h_.step ?_ hl_
  clear h_ hl_
  have h_ := Moves.refl [.regs, .qe, .bm, .xb, .fn, .pu, .out] s
  unfold State.pairLeave
  repeat' (first
    | with_reducible assumption
    | intro _
    | with_reducible apply Moves.ite
    | exact (rfl : _ = true)
    | with_reducible apply State.complete_moves
    | with_reducible apply State.updPu_moves)

theorem State.pairJoin_moves {l_ : List Part} {z_ : State} {s : State} {r : EntryRef} {e : Sqe} (h_ : Moves l_ z_ s) (hl_ : Part.sub [.regs, .lx, .tree, .ts, .ebm, .bus, .qe, .bm, .xb, .fn, .mre, .pu, .ck, .out] l_ = true) :
    Moves l_ z_ (State.pairJoin s r e) := by
  refine h_.step ?_ hl_
  clear h_ hl_
  have h_ := Moves.refl [.regs, .lx, .tree, .ts, .ebm, .bus, .qe, .bm, .xb, .fn, .mre, .pu, .ck, .out] s
  unfold State.pairJoin
  repeat' (first
    | with_reducible assumption
    | intro _
    | with_reducible apply Moves.ite
    | exact (rfl : _ = true)
    | with_reducible apply State.complete_moves
    | with_reducible apply State.pairStart_moves
    | with_reducible apply State.setB_moves
    | with_reducible apply State.miodelTakes_moves)

theorem State.pairSetRank_moves {l_ : List Part} {z_ : State} {s : State} {r : EntryRef} {e : Sqe} (h_ : Moves l_ z_ s) (hl_ : Part.sub [.regs, .qe, .bm, .xb, .fn, .pu, .out] l_ = true) :
    Moves l_ z_ (State.pairSetRank s r e) := by
  refine h_.step ?_ hl_
  clear h_ hl_
  have h_ := Moves.refl [.regs, .qe, .bm, .xb, .fn, .pu, .out] s
  unfold State.pairSetRank
  repeat' (first
    | with_reducible assumption
    | intro _
    | with_reducible apply Moves.ite
    | exact (rfl : _ = true)
    | with_reducible apply State.complete_moves
    | with_reducible apply State.updPu_moves)

theorem State.pairBarrier_moves {l_ : List Part} {z_ : State} {s : State} {r : EntryRef} {e : Sqe} (h_ : Moves l_ z_ s) (hl_ : Part.sub [.pu] l_ = true) :
    Moves l_ z_ (State.pairBarrier s r e) := by
  refine h_.step ?_ hl_
  clear h_ hl_
  have h_ := Moves.refl [.pu] s
  unfold State.pairBarrier
  repeat' (first
    | with_reducible assumption
    | exact (rfl : _ = true)
    | with_reducible apply State.updPu_moves)

theorem State.holderAlone_moves {l_ : List Part} {z_ : State} {s : State} (h_ : Moves l_ z_ s) (hl_ : Part.sub [.regs, .tree, .qe, .fn, .pu, .out] l_ = true) :
    Moves l_ z_ (State.holderAlone s) := by
  refine h_.step ?_ hl_
  clear h_ hl_
  have h_ := Moves.refl [.regs, .tree, .qe, .fn, .pu, .out] s
  unfold State.holderAlone
  repeat' (first
    | with_reducible assumption
    | exact (rfl : _ = true)
    | with_reducible apply State.joinPhase_moves
    | with_reducible apply State.puEvent_moves
    | with_reducible apply State.setF_moves
    | with_reducible apply State.setPstate_moves
    | with_reducible apply State.setRole_moves
    | with_reducible apply State.tmBegins_moves
    | with_reducible apply State.updPu_moves)

theorem State.formPair_moves {l_ : List Part} {z_ : State} {s : State} {h : HelloFrame} (h_ : Moves l_ z_ s) (hl_ : Part.sub [.regs, .tree, .ts, .ebm, .bus, .qe, .bm, .xb, .fn, .mre, .gd, .pu, .out] l_ = true) :
    Moves l_ z_ (State.formPair s h) := by
  refine h_.step ?_ hl_
  clear h_ hl_
  have h_ := Moves.refl [.regs, .tree, .ts, .ebm, .bus, .qe, .bm, .xb, .fn, .mre, .gd, .pu, .out] s
  unfold State.formPair
  repeat' (first
    | with_reducible assumption
    | intro _
    | with_reducible apply Moves.ite
    | exact (rfl : _ = true)
    | with_reducible apply State.beginJoin_moves
    | with_reducible apply State.enterResync_moves
    | with_reducible apply State.holderAlone_moves
    | with_reducible apply State.holderEnds_moves
    | with_reducible apply State.puEvent_moves
    | with_reducible apply State.setB_moves
    | with_reducible apply State.setRole_moves
    | with_reducible apply State.startCopy_moves)

theorem State.framePulse_moves {l_ : List Part} {z_ : State} {s : State} {o : ℤ} (h_ : Moves l_ z_ s) (hl_ : Part.sub [.time, .regs, .qe, .fn, .pu, .out] l_ = true) :
    Moves l_ z_ (State.framePulse s o) := by
  refine h_.step ?_ hl_
  clear h_ hl_
  have h_ := Moves.refl [.time, .regs, .qe, .fn, .pu, .out] s
  unfold State.framePulse
  repeat' (first
    | with_reducible assumption
    | (extract_lets -underBinder +onlyGivenNames x_; (refine (fun hx_ : Moves [.time, .regs, .qe, .fn, .pu, .out] s x_ => ?_) ?_; (on_goal 1 => (clear_value x_; revert hx_; revert x_; intro _ _)); (on_goal 2 => subst x_)))
    | intro _
    | exact (rfl : _ = true)
    | with_reducible apply State.sourceMark_moves
    | with_reducible apply State.updPu_moves
    | split)

theorem State.frameSeen_moves {l_ : List Part} {z_ : State} {s : State} (h_ : Moves l_ z_ s) (hl_ : Part.sub [.pu] l_ = true) :
    Moves l_ z_ (State.frameSeen s) := by
  refine h_.step ?_ hl_
  clear h_ hl_
  have h_ := Moves.refl [.pu] s
  unfold State.frameSeen
  repeat' (first
    | with_reducible assumption
    | exact (rfl : _ = true)
    | with_reducible apply State.updPu_moves)

theorem State.gotBlocks_moves {l_ : List Part} {z_ : State} {s : State} {l : List BlockRec} (h_ : Moves l_ z_ s) (hl_ : Part.sub [.regs, .ebm, .bus, .gd, .pu] l_ = true) :
    Moves l_ z_ (State.gotBlocks s l) := by
  refine h_.step ?_ hl_
  clear h_ hl_
  have h_ := Moves.refl [.regs, .ebm, .bus, .gd, .pu] s
  unfold State.gotBlocks
  repeat' (first
    | with_reducible assumption
    | (extract_lets -underBinder +onlyGivenNames x_; first | (refine (fun hx_ : Moves [.regs, .ebm, .bus, .gd, .pu] s x_ => ?_) ?_; (on_goal 1 => (clear_value x_; revert hx_; revert x_; intro _ _)); (on_goal 2 => subst x_)) | (clear_value x_; revert x_; intro _))
    | intro _
    | refine Moves.of_fst ?_ (by assumption)
    | with_reducible apply Moves.foldl
    | with_reducible apply Moves.foldl_fst
    | exact (rfl : _ = true)
    | with_reducible apply State.acceptIn_moves
    | with_reducible apply State.blockNotice_moves
    | with_reducible apply State.bump_moves
    | with_reducible apply State.frameSeen_moves
    | with_reducible apply State.setPer_moves
    | split)

theorem State.gotClips_moves {l_ : List Part} {z_ : State} {s : State} {p : ℕ} {l : List ClipRec} (h_ : Moves l_ z_ s) (hl_ : Part.sub [.mre, .pu] l_ = true) :
    Moves l_ z_ (State.gotClips s p l) := by
  refine h_.step ?_ hl_
  clear h_ hl_
  have h_ := Moves.refl [.mre, .pu] s
  unfold State.gotClips
  repeat' (first
    | with_reducible assumption
    | intro _
    | with_reducible apply Moves.ite
    | with_reducible apply Moves.foldl
    | exact (rfl : _ = true)
    | with_reducible apply State.frameSeen_moves
    | with_reducible apply Moves.mre)

theorem State.inOrder_moves {l_ : List Part} {z_ : State} {s : State} {n : ℕ} {r_ : State} (h_ : Moves l_ z_ s) (hl_ : Part.sub [.pu] l_ = true) (e_ : State.inOrder s n = some r_) :
    Moves l_ z_ r_ := by
  refine h_.step ?_ hl_
  clear h_ hl_
  have h_ := Moves.refl [.pu] s
  unfold State.inOrder at e_
  try dsimp only at e_
  repeat' (first
    | (injection e_ with e_; subst e_)
    | (cases e_; done)
    | split at e_)
  all_goals try dsimp only
  repeat' (first
    | (injection e_ with e_; subst e_)
    | split at e_
    | with_reducible assumption
    | exact (rfl : _ = true)
    | with_reducible apply State.frameSeen_moves
    | with_reducible apply State.updPu_moves)

theorem State.gotCopy_moves {l_ : List Part} {z_ : State} {s : State} {n : ℕ} {c : CopyFrame} (h_ : Moves l_ z_ s) (hl_ : Part.sub [.regs, .tree, .ts, .ebm, .fn, .mre, .gd, .sv, .pu, .out] l_ = true) :
    Moves l_ z_ (State.gotCopy s n c) := by
  refine h_.step ?_ hl_
  clear h_ hl_
  have h_ := Moves.refl [.regs, .tree, .ts, .ebm, .fn, .mre, .gd, .sv, .pu, .out] s
  unfold State.gotCopy
  repeat' (first
    | with_reducible assumption
    | (extract_lets -underBinder +onlyGivenNames x_; (clear_value x_; revert x_; intro _))
    | refine State.inOrder_moves ?_ ?_ (by assumption)
    | exact (rfl : _ = true)
    | with_reducible apply State.frameSeen_moves
    | with_reducible apply State.install_moves
    | with_reducible apply State.updPu_moves
    | split)

theorem State.gotDigest_moves {l_ : List Part} {z_ : State} {s : State} {pass : ℕ} {d : List Word} (h_ : Moves l_ z_ s) (hl_ : Part.sub [.regs, .qe, .bm, .xb, .fn, .pu, .out] l_ = true) :
    Moves l_ z_ (State.gotDigest s pass d) := by
  refine h_.step ?_ hl_
  clear h_ hl_
  have h_ := Moves.refl [.regs, .qe, .bm, .xb, .fn, .pu, .out] s
  unfold State.gotDigest
  repeat' (first
    | with_reducible assumption
    | (extract_lets -underBinder +onlyGivenNames x_; first | (refine (fun hx_ : Moves [.regs, .qe, .bm, .xb, .fn, .pu, .out] s x_ => ?_) ?_; (on_goal 1 => (clear_value x_; revert hx_; revert x_; intro _ _)); (on_goal 2 => subst x_)) | (clear_value x_; revert x_; intro _))
    | exact (rfl : _ = true)
    | with_reducible apply State.diverged_moves
    | with_reducible apply State.frameSeen_moves
    | with_reducible apply State.setF_moves
    | with_reducible apply State.updPu_moves
    | split)

theorem State.orderedComes_moves {l_ : List Part} {z_ : State} {s : State} (h_ : Moves l_ z_ s) (hl_ : Part.sub [.regs, .qe, .fn, .pu, .out] l_ = true) :
    Moves l_ z_ (State.orderedComes s) := by
  refine h_.step ?_ hl_
  clear h_ hl_
  have h_ := Moves.refl [.regs, .qe, .fn, .pu, .out] s
  unfold State.orderedComes
  repeat' (first
    | with_reducible assumption
    | intro _
    | exact (rfl : _ = true)
    | with_reducible apply State.puEvent_moves
    | with_reducible apply State.setB_moves
    | with_reducible apply State.updPu_moves)

theorem State.joinFailed_moves {l_ : List Part} {z_ : State} {s : State} {cause : ℕ} (h_ : Moves l_ z_ s) (hl_ : Part.sub [.regs, .qe, .bm, .xb, .fn, .pu, .out] l_ = true) :
    Moves l_ z_ (State.joinFailed s cause) := by
  refine h_.step ?_ hl_
  clear h_ hl_
  have h_ := Moves.refl [.regs, .qe, .bm, .xb, .fn, .pu, .out] s
  unfold State.joinFailed
  repeat' (first
    | with_reducible assumption
    | intro _
    | with_reducible apply Moves.ite
    | exact (rfl : _ = true)
    | with_reducible apply State.joinPhase_moves
    | with_reducible apply State.orderedDown_moves
    | with_reducible apply State.puEvent_moves
    | with_reducible apply State.setF_moves
    | with_reducible apply State.setPstate_moves
    | with_reducible apply State.setRole_moves
    | with_reducible apply State.updPu_moves)

theorem State.gotHello_moves {l_ : List Part} {z_ : State} {s : State} {h : HelloFrame} (h_ : Moves l_ z_ s) (hl_ : Part.sub [.regs, .tree, .ts, .ebm, .bus, .qe, .bm, .xb, .fn, .mre, .gd, .pu, .out] l_ = true) :
    Moves l_ z_ (State.gotHello s h) := by
  refine h_.step ?_ hl_
  clear h_ hl_
  have h_ := Moves.refl [.regs, .tree, .ts, .ebm, .bus, .qe, .bm, .xb, .fn, .mre, .gd, .pu, .out] s
  unfold State.gotHello
  repeat' (first
    | with_reducible assumption
    | (extract_lets -underBinder +onlyGivenNames x_; first | (refine (fun hx_ : Moves [.regs, .tree, .ts, .ebm, .bus, .qe, .bm, .xb, .fn, .mre, .gd, .pu, .out] s x_ => ?_) ?_; (on_goal 1 => (clear_value x_; revert hx_; revert x_; intro _ _)); (on_goal 2 => subst x_)) | (clear_value x_; revert x_; intro _))
    | intro _
    | exact (rfl : _ = true)
    | with_reducible apply State.formPair_moves
    | with_reducible apply State.joinFailed_moves
    | with_reducible apply State.orderedComes_moves
    | with_reducible apply State.orderedDown_moves
    | with_reducible apply State.puEvent_moves
    | with_reducible apply State.sendHello_moves
    | with_reducible apply State.updPu_moves
    | split)

theorem State.gotMirror_moves {l_ : List Part} {z_ : State} {s : State} {n : ℕ} {m : MirrorRec} (h_ : Moves l_ z_ s) (hl_ : Part.sub [.regs, .lx, .tree, .ts, .ebm, .bus, .qe, .bm, .xb, .fn, .mre, .gd, .sv, .pu, .pm, .ck, .free, .out] l_ = true) :
    Moves l_ z_ (State.gotMirror s n m) := by
  refine h_.step ?_ hl_
  clear h_ hl_
  have h_ := Moves.refl [.regs, .lx, .tree, .ts, .ebm, .bus, .qe, .bm, .xb, .fn, .mre, .gd, .sv, .pu, .pm, .ck, .free, .out] s
  unfold State.gotMirror
  repeat' (first
    | with_reducible assumption
    | refine State.inOrder_moves ?_ ?_ (by assumption)
    | exact (rfl : _ = true)
    | with_reducible apply State.applyMirror_moves
    | with_reducible apply State.frameSeen_moves
    | with_reducible apply State.updPu_moves
    | split)

theorem State.gotPresence_moves {l_ : List Part} {z_ : State} {s : State} {recs : List PresenceRec} (h_ : Moves l_ z_ s) (hl_ : Part.sub [.pu, .out] l_ = true) :
    Moves l_ z_ (State.gotPresence s recs) := by
  refine h_.step ?_ hl_
  clear h_ hl_
  have h_ := Moves.refl [.pu, .out] s
  unfold State.gotPresence
  repeat' (first
    | with_reducible assumption
    | intro _
    | with_reducible apply Moves.ite
    | exact (rfl : _ = true)
    | with_reducible apply State.frameSeen_moves
    | with_reducible apply State.sendTimed_moves
    | with_reducible apply State.updPu_moves)

theorem State.gotRelay_moves {l_ : List Part} {z_ : State} {s : State} {f : RelayFrame} (h_ : Moves l_ z_ s) (hl_ : Part.sub [.regs, .lx, .tree, .ts, .ebm, .bus, .qe, .bm, .xb, .fn, .mre, .pu, .ck, .free, .out] l_ = true) :
    Moves l_ z_ (State.gotRelay s f) := by
  refine h_.step ?_ hl_
  clear h_ hl_
  have h_ := Moves.refl [.regs, .lx, .tree, .ts, .ebm, .bus, .qe, .bm, .xb, .fn, .mre, .pu, .ck, .free, .out] s
  unfold State.gotRelay
  repeat' (first
    | with_reducible assumption
    | (extract_lets -underBinder +onlyGivenNames x_; (refine (fun hx_ : Moves [.regs, .lx, .tree, .ts, .ebm, .bus, .qe, .bm, .xb, .fn, .mre, .pu, .ck, .free, .out] s x_ => ?_) ?_; (on_goal 1 => (clear_value x_; revert hx_; revert x_; intro _ _)); (on_goal 2 => subst x_)))
    | exact (rfl : _ = true)
    | with_reducible apply State.frameSeen_moves
    | with_reducible apply State.gotData_moves
    | with_reducible apply State.gotHandshake_moves
    | with_reducible apply State.updPu_moves
    | split)

theorem State.gotTime_moves {l_ : List Part} {z_ : State} {s : State} {f : TimeFrame} (h_ : Moves l_ z_ s) (hl_ : Part.sub [.regs, .lx, .tree, .ts, .ebm, .bus, .qe, .bm, .xb, .fn, .mre, .gd, .pu, .out] l_ = true) :
    Moves l_ z_ (State.gotTime s f) := by
  refine h_.step ?_ hl_
  clear h_ hl_
  have h_ := Moves.refl [.regs, .lx, .tree, .ts, .ebm, .bus, .qe, .bm, .xb, .fn, .mre, .gd, .pu, .out] s
  unfold State.gotTime
  repeat' (first
    | with_reducible assumption
    | intro _
    | with_reducible apply Moves.ite
    | with_reducible apply Moves.foldl
    | exact (rfl : _ = true)
    | with_reducible apply State.frameSeen_moves
    | with_reducible apply State.holderEnds_moves
    | with_reducible apply State.joinPhase_moves
    | with_reducible apply State.orderedDown_moves
    | with_reducible apply State.puEvent_moves
    | with_reducible apply State.setB_moves
    | with_reducible apply State.setF_moves
    | with_reducible apply State.setPstate_moves
    | with_reducible apply State.setRole_moves
    | with_reducible apply State.updPu_moves
    | with_reducible apply State.abdicate_moves
    | with_reducible apply State.peerChecked_moves
    | with_reducible apply State.enterResync_moves
    | with_reducible apply State.freeRun_moves
    | split)

theorem State.handoverSwitch_moves {l_ : List Part} {z_ : State} {s : State} (h_ : Moves l_ z_ s) (hl_ : Part.sub [.regs, .tree, .ts, .ebm, .bus, .qe, .bm, .xb, .fn, .mre, .gd, .pu, .out] l_ = true) :
    Moves l_ z_ (State.handoverSwitch s) := by
  refine h_.step ?_ hl_
  clear h_ hl_
  have h_ := Moves.refl [.regs, .tree, .ts, .ebm, .bus, .qe, .bm, .xb, .fn, .mre, .gd, .pu, .out] s
  unfold State.handoverSwitch
  repeat' (first
    | with_reducible assumption
    | (extract_lets -underBinder +onlyGivenNames x_; (refine (fun hx_ : Moves [.regs, .tree, .ts, .ebm, .bus, .qe, .bm, .xb, .fn, .mre, .gd, .pu, .out] s x_ => ?_) ?_; (on_goal 1 => (clear_value x_; revert hx_; revert x_; intro _ _)); (on_goal 2 => subst x_)))
    | exact (rfl : _ = true)
    | with_reducible apply State.becomeHolder_moves
    | with_reducible apply State.bump_moves
    | with_reducible apply State.completeRef_moves
    | with_reducible apply State.holderEnds_moves
    | with_reducible apply State.puEvent_moves
    | with_reducible apply State.setF_moves
    | with_reducible apply State.setRole_moves
    | with_reducible apply State.stopClips_moves
    | with_reducible apply State.tmBegins_moves
    | with_reducible apply State.updPu_moves
    | split)

theorem State.helloLate_moves {l_ : List Part} {z_ : State} {s : State} (h_ : Moves l_ z_ s) (hl_ : Part.sub [.regs, .tree, .qe, .fn, .pu, .out] l_ = true) :
    Moves l_ z_ (State.helloLate s) := by
  refine h_.step ?_ hl_
  clear h_ hl_
  have h_ := Moves.refl [.regs, .tree, .qe, .fn, .pu, .out] s
  unfold State.helloLate
  repeat' (first
    | with_reducible assumption
    | exact (rfl : _ = true)
    | with_reducible apply State.holderAlone_moves
    | split)

theorem State.hostLossHandover_moves {l_ : List Part} {z_ : State} {s : State} (h_ : Moves l_ z_ s) (hl_ : Part.sub [.pu, .out] l_ = true) :
    Moves l_ z_ (State.hostLossHandover s) := by
  refine h_.step ?_ hl_
  clear h_ hl_
  have h_ := Moves.refl [.pu, .out] s
  unfold State.hostLossHandover
  repeat' (first
    | with_reducible assumption
    | intro _
    | exact (rfl : _ = true)
    | with_reducible apply State.placeHandover_moves
    | split)

theorem State.joinDone_moves {l_ : List Part} {z_ : State} {s : State} (h_ : Moves l_ z_ s) (hl_ : Part.sub [.regs, .qe, .fn, .pu, .out] l_ = true) :
    Moves l_ z_ (State.joinDone s) := by
  refine h_.step ?_ hl_
  clear h_ hl_
  have h_ := Moves.refl [.regs, .qe, .fn, .pu, .out] s
  unfold State.joinDone
  repeat' (first
    | with_reducible assumption
    | exact (rfl : _ = true)
    | with_reducible apply State.puEvent_moves
    | with_reducible apply State.setPstate_moves
    | with_reducible apply State.updPu_moves
    | split)

theorem State.joinTimeout_moves {l_ : List Part} {z_ : State} {s : State} (h_ : Moves l_ z_ s) (hl_ : Part.sub [.regs, .qe, .bm, .xb, .fn, .pu, .out] l_ = true) :
    Moves l_ z_ (State.joinTimeout s) := by
  refine h_.step ?_ hl_
  clear h_ hl_
  have h_ := Moves.refl [.regs, .qe, .bm, .xb, .fn, .pu, .out] s
  unfold State.joinTimeout
  repeat' (first
    | with_reducible assumption
    | intro _
    | with_reducible apply Moves.ite
    | exact (rfl : _ = true)
    | with_reducible apply State.joinFailed_moves
    | with_reducible apply State.joinPhase_moves
    | with_reducible apply State.startCopy_moves
    | with_reducible apply State.updPu_moves)

theorem State.markAll_moves {l_ : List Part} {z_ : State} {s : State} (h_ : Moves l_ z_ s) (hl_ : Part.sub [.time, .regs, .lx, .tree, .ts, .ebm, .bus, .qe, .bm, .xb, .fn, .mre, .gd, .sv, .pu, .ck, .free, .out] l_ = true) :
    Moves l_ z_ (State.markAll s) := by
  refine h_.step ?_ hl_
  clear h_ hl_
  have h_ := Moves.refl [.time, .regs, .lx, .tree, .ts, .ebm, .bus, .qe, .bm, .xb, .fn, .mre, .gd, .sv, .pu, .ck, .free, .out] s
  unfold State.markAll
  repeat' (first
    | with_reducible assumption
    | intro _
    | with_reducible apply Moves.ite
    | exact (rfl : _ = true)
    | with_reducible apply State.afterMark_moves
    | with_reducible apply State.mark_moves)

theorem State.pairEnable_moves {l_ : List Part} {z_ : State} {s : State} {v : Word} (h_ : Moves l_ z_ s) (hl_ : Part.sub [.regs, .lx, .tree, .ts, .ebm, .bus, .qe, .bm, .xb, .fn, .mre, .pu, .ck, .out] l_ = true) :
    Moves l_ z_ (State.pairEnable s v) := by
  refine h_.step ?_ hl_
  clear h_ hl_
  have h_ := Moves.refl [.regs, .lx, .tree, .ts, .ebm, .bus, .qe, .bm, .xb, .fn, .mre, .pu, .ck, .out] s
  unfold State.pairEnable
  repeat' (first
    | with_reducible assumption
    | intro _
    | with_reducible apply Moves.ite
    | exact (rfl : _ = true)
    | with_reducible apply State.pairStart_moves
    | with_reducible apply State.pairStop_moves
    | with_reducible apply State.writeReg_moves
    | with_reducible apply State.miodelTakes_moves)

theorem State.peerLost_moves {l_ : List Part} {z_ : State} {s : State} {c : LossCause} (h_ : Moves l_ z_ s) (hl_ : Part.sub [.regs, .tree, .ts, .ebm, .bus, .qe, .bm, .xb, .fn, .mre, .pu, .out] l_ = true) :
    Moves l_ z_ (State.peerLost s c) := by
  refine h_.step ?_ hl_
  clear h_ hl_
  have h_ := Moves.refl [.regs, .tree, .ts, .ebm, .bus, .qe, .bm, .xb, .fn, .mre, .pu, .out] s
  unfold State.peerLost
  repeat' (first
    | with_reducible assumption
    | intro _
    | with_reducible apply Moves.ite
    | exact (rfl : _ = true)
    | with_reducible apply State.joinPhase_moves
    | with_reducible apply State.orderedDown_moves
    | with_reducible apply State.peerGone_moves
    | with_reducible apply State.puEvent_moves
    | with_reducible apply State.setPstate_moves
    | with_reducible apply State.setRole_moves
    | with_reducible apply State.updPu_moves)

theorem State.phaseEnd_moves {l_ : List Part} {z_ : State} {s : State} (h_ : Moves l_ z_ s) (hl_ : Part.sub [.regs, .mre, .pu, .out] l_ = true) :
    Moves l_ z_ (State.phaseEnd s) := by
  refine h_.step ?_ hl_
  clear h_ hl_
  have h_ := Moves.refl [.regs, .mre, .pu, .out] s
  unfold State.phaseEnd
  repeat' (first
    | with_reducible assumption
    | intro _
    | with_reducible apply Moves.ite
    | exact (rfl : _ = true)
    | with_reducible apply State.joinPhase_moves
    | with_reducible apply State.sendCopies_moves
    | with_reducible apply State.updPu_moves
    | with_reducible apply Moves.mre)

theorem State.resend_moves {l_ : List Part} {z_ : State} {s : State} (h_ : Moves l_ z_ s) (hl_ : Part.sub [.regs, .pu, .out] l_ = true) :
    Moves l_ z_ (State.resend s) := by
  refine h_.step ?_ hl_
  clear h_ hl_
  have h_ := Moves.refl [.regs, .pu, .out] s
  unfold State.resend
  repeat' (first
    | with_reducible assumption
    | intro _
    | with_reducible apply Moves.ite
    | with_reducible apply Moves.foldl
    | exact (rfl : _ = true)
    | with_reducible apply State.bump_moves
    | with_reducible apply State.sendTimed_moves
    | with_reducible apply State.updPu_moves)

theorem State.resyncAll_moves {l_ : List Part} {z_ : State} {s : State} (h_ : Moves l_ z_ s) (hl_ : Part.sub [.bus] l_ = true) :
    Moves l_ z_ (State.resyncAll s) := by
  refine h_.step ?_ hl_
  clear h_ hl_
  have h_ := Moves.refl [.bus] s
  unfold State.resyncAll
  repeat' (first
    | with_reducible assumption
    | exact (rfl : _ = true)
    | with_reducible apply Moves.bus)

theorem State.sourceLost_moves {l_ : List Part} {z_ : State} {s : State} (h_ : Moves l_ z_ s) (hl_ : Part.sub [.regs, .qe, .fn, .pu, .out] l_ = true) :
    Moves l_ z_ (State.sourceLost s) := by
  refine h_.step ?_ hl_
  clear h_ hl_
  have h_ := Moves.refl [.regs, .qe, .fn, .pu, .out] s
  unfold State.sourceLost
  repeat' (first
    | with_reducible assumption
    | (extract_lets -underBinder +onlyGivenNames x_; (clear_value x_; revert x_; intro _))
    | exact (rfl : _ = true)
    | with_reducible apply State.follow_moves
    | with_reducible apply State.freeRun_moves
    | with_reducible apply State.puEvent_moves
    | with_reducible apply State.updPu_moves
    | split)

theorem State.takeover_moves {l_ : List Part} {z_ : State} {s : State} (h_ : Moves l_ z_ s) (hl_ : Part.sub [.regs, .tree, .ts, .ebm, .bus, .qe, .bm, .xb, .fn, .mre, .gd, .pu, .out] l_ = true) :
    Moves l_ z_ (State.takeover s) := by
  refine h_.step ?_ hl_
  clear h_ hl_
  have h_ := Moves.refl [.regs, .tree, .ts, .ebm, .bus, .qe, .bm, .xb, .fn, .mre, .gd, .pu, .out] s
  unfold State.takeover
  repeat' (first
    | with_reducible assumption
    | exact (rfl : _ = true)
    | with_reducible apply State.becomeHolder_moves
    | with_reducible apply State.bump_moves
    | with_reducible apply State.orderedDown_moves
    | with_reducible apply State.peerGone_moves
    | with_reducible apply State.puEvent_moves
    | with_reducible apply State.resyncAll_moves
    | with_reducible apply State.setPstate_moves
    | with_reducible apply State.stopClips_moves
    | with_reducible apply State.tmBegins_moves
    | with_reducible apply State.updPu_moves
    | split)

theorem execAlignLost_moves {t_ : State} {s : State} (e_ : execAlignLost s = .next t_) : Moves [.regs, .qe, .bm, .xb, .fn, .pu, .out] s t_ := by
  have h_ := Moves.refl [.regs, .qe, .bm, .xb, .fn, .pu, .out] s
  unfold execAlignLost at e_
  injection e_ with e_
  subst e_
  repeat' (first
    | with_reducible assumption
    | exact (rfl : _ = true)
    | with_reducible apply State.alignLost_moves)

theorem execBarrierComplete_moves {t_ : State} {id : Word} {s : State} (e_ : execBarrierComplete id s = .next t_) : Moves [.regs, .qe, .bm, .xb, .fn, .pu, .out] s t_ := by
  have h_ := Moves.refl [.regs, .qe, .bm, .xb, .fn, .pu, .out] s
  unfold execBarrierComplete at e_
  injection e_ with e_
  subst e_
  repeat' (first
    | with_reducible assumption
    | exact (rfl : _ = true)
    | with_reducible apply State.barrierDone_moves)

theorem execCascadeMarkReceived_moves {t_ : State} {p : Trunk} {m : CascMark} {offset : BitVec 16} {s : State} (e_ : execCascadeMarkReceived p m offset s = .next t_) : Moves [.time, .regs, .lx, .tree, .qe, .fn, .pu, .free, .out] s t_ := by
  have h_ := Moves.refl [.time, .regs, .lx, .tree, .qe, .fn, .pu, .free, .out] s
  unfold execCascadeMarkReceived at e_
  injection e_ with e_
  subst e_
  repeat' (first
    | with_reducible assumption
    | intro _
    | with_reducible apply Moves.ite
    | exact (rfl : _ = true)
    | with_reducible apply State.cascadeMark_moves
    | split)

theorem execFrameSyncPulse_moves {t_ : State} {_ns : ℕ} {offset : BitVec 16} {s : State} (e_ : execFrameSyncPulse _ns offset s = .next t_) : Moves [.time, .regs, .qe, .fn, .pu, .out] s t_ := by
  have h_ := Moves.refl [.time, .regs, .qe, .fn, .pu, .out] s
  unfold execFrameSyncPulse at e_
  injection e_ with e_
  subst e_
  repeat' (first
    | with_reducible assumption
    | exact (rfl : _ = true)
    | with_reducible apply State.framePulse_moves)

theorem execHandoverSwitch_moves {t_ : State} {s : State} (e_ : execHandoverSwitch s = .next t_) : Moves [.regs, .tree, .ts, .ebm, .bus, .qe, .bm, .xb, .fn, .mre, .gd, .pu, .out] s t_ := by
  have h_ := Moves.refl [.regs, .tree, .ts, .ebm, .bus, .qe, .bm, .xb, .fn, .mre, .gd, .pu, .out] s
  unfold execHandoverSwitch at e_
  injection e_ with e_
  subst e_
  repeat' (first
    | with_reducible assumption
    | exact (rfl : _ = true)
    | with_reducible apply State.handoverSwitch_moves)

theorem execHelloTimeout_moves {t_ : State} {s : State} (e_ : execHelloTimeout s = .next t_) : Moves [.regs, .tree, .qe, .fn, .pu, .out] s t_ := by
  have h_ := Moves.refl [.regs, .tree, .qe, .fn, .pu, .out] s
  unfold execHelloTimeout at e_
  injection e_ with e_
  subst e_
  repeat' (first
    | with_reducible assumption
    | exact (rfl : _ = true)
    | with_reducible apply State.helloLate_moves)

theorem execHostLossHandoverTimer_moves {t_ : State} {s : State} (e_ : execHostLossHandoverTimer s = .next t_) : Moves [.pu, .out] s t_ := by
  have h_ := Moves.refl [.pu, .out] s
  unfold execHostLossHandoverTimer at e_
  injection e_ with e_
  subst e_
  repeat' (first
    | with_reducible assumption
    | exact (rfl : _ = true)
    | with_reducible apply State.hostLossHandover_moves)

theorem execJoinDone_moves {t_ : State} {s : State} (e_ : execJoinDone s = .next t_) : Moves [.regs, .qe, .fn, .pu, .out] s t_ := by
  have h_ := Moves.refl [.regs, .qe, .fn, .pu, .out] s
  unfold execJoinDone at e_
  injection e_ with e_
  subst e_
  repeat' (first
    | with_reducible assumption
    | exact (rfl : _ = true)
    | with_reducible apply State.joinDone_moves)

theorem execJoinPhaseEnd_moves {t_ : State} {s : State} (e_ : execJoinPhaseEnd s = .next t_) : Moves [.regs, .mre, .pu, .out] s t_ := by
  have h_ := Moves.refl [.regs, .mre, .pu, .out] s
  unfold execJoinPhaseEnd at e_
  injection e_ with e_
  subst e_
  repeat' (first
    | with_reducible assumption
    | exact (rfl : _ = true)
    | with_reducible apply State.phaseEnd_moves)

theorem execJoinTimeout_moves {t_ : State} {s : State} (e_ : execJoinTimeout s = .next t_) : Moves [.regs, .qe, .bm, .xb, .fn, .pu, .out] s t_ := by
  have h_ := Moves.refl [.regs, .qe, .bm, .xb, .fn, .pu, .out] s
  unfold execJoinTimeout at e_
  injection e_ with e_
  subst e_
  repeat' (first
    | with_reducible assumption
    | exact (rfl : _ = true)
    | with_reducible apply State.joinTimeout_moves)

theorem execMiodelAckFrame_moves {t_ : State} {seq : Word} {s : State} (e_ : execMiodelAckFrame seq s = .next t_) : Moves [.regs, .qe, .bm, .xb, .fn, .pu, .out] s t_ := by
  have h_ := Moves.refl [.regs, .qe, .bm, .xb, .fn, .pu, .out] s
  unfold execMiodelAckFrame at e_
  injection e_ with e_
  subst e_
  repeat' (first
    | with_reducible assumption
    | intro _
    | with_reducible apply Moves.ite
    | exact (rfl : _ = true)
    | with_reducible apply State.ackTo_moves
    | with_reducible apply State.frameSeen_moves)

theorem execMiodelAckTimer_moves {t_ : State} {s : State} (e_ : execMiodelAckTimer s = .next t_) : Moves [.pu, .out] s t_ := by
  have h_ := Moves.refl [.pu, .out] s
  unfold execMiodelAckTimer at e_
  injection e_ with e_
  subst e_
  repeat' (first
    | with_reducible assumption
    | exact (rfl : _ = true)
    | with_reducible apply State.ackTimer_moves)

theorem execMiodelBlocksFrame_moves {t_ : State} {blocks : List BlockRec} {s : State} (e_ : execMiodelBlocksFrame blocks s = .next t_) : Moves [.regs, .ebm, .bus, .gd, .pu] s t_ := by
  have h_ := Moves.refl [.regs, .ebm, .bus, .gd, .pu] s
  unfold execMiodelBlocksFrame at e_
  injection e_ with e_
  subst e_
  repeat' (first
    | with_reducible assumption
    | exact (rfl : _ = true)
    | with_reducible apply State.gotBlocks_moves)

theorem execMiodelClipFrame_moves {t_ : State} {pass : MfNum} {clips : List ClipRec} {s : State} (e_ : execMiodelClipFrame pass clips s = .next t_) : Moves [.mre, .pu] s t_ := by
  have h_ := Moves.refl [.mre, .pu] s
  unfold execMiodelClipFrame at e_
  injection e_ with e_
  subst e_
  repeat' (first
    | with_reducible assumption
    | with_reducible apply Moves.foldl
    | exact (rfl : _ = true)
    | with_reducible apply State.gotClips_moves)

theorem execMiodelCopyFrame_moves {t_ : State} {seq : Word} {c : CopyFrame} {s : State} (e_ : execMiodelCopyFrame seq c s = .next t_) : Moves [.regs, .tree, .ts, .ebm, .fn, .mre, .gd, .sv, .pu, .out] s t_ := by
  have h_ := Moves.refl [.regs, .tree, .ts, .ebm, .fn, .mre, .gd, .sv, .pu, .out] s
  unfold execMiodelCopyFrame at e_
  injection e_ with e_
  subst e_
  repeat' (first
    | with_reducible assumption
    | exact (rfl : _ = true)
    | with_reducible apply State.gotCopy_moves)

theorem execMiodelDigestFrame_moves {t_ : State} {pass : Word} {digests : List Word} {s : State} (e_ : execMiodelDigestFrame pass digests s = .next t_) : Moves [.regs, .qe, .bm, .xb, .fn, .pu, .out] s t_ := by
  have h_ := Moves.refl [.regs, .qe, .bm, .xb, .fn, .pu, .out] s
  unfold execMiodelDigestFrame at e_
  injection e_ with e_
  subst e_
  repeat' (first
    | with_reducible assumption
    | exact (rfl : _ = true)
    | with_reducible apply State.gotDigest_moves)

theorem execMiodelFrameCrcFail_moves {t_ : State} {timed : Bool} {s : State} (e_ : execMiodelFrameCrcFail timed s = .next t_) : Moves [.regs] s t_ := by
  have h_ := Moves.refl [.regs] s
  unfold execMiodelFrameCrcFail at e_
  injection e_ with e_
  subst e_
  repeat' (first
    | with_reducible assumption
    | intro _
    | with_reducible apply Moves.ite
    | exact (rfl : _ = true)
    | with_reducible apply State.bump_moves)

theorem execMiodelHelloFrame_moves {t_ : State} {h : HelloFrame} {s : State} (e_ : execMiodelHelloFrame h s = .next t_) : Moves [.regs, .tree, .ts, .ebm, .bus, .qe, .bm, .xb, .fn, .mre, .gd, .pu, .out] s t_ := by
  have h_ := Moves.refl [.regs, .tree, .ts, .ebm, .bus, .qe, .bm, .xb, .fn, .mre, .gd, .pu, .out] s
  unfold execMiodelHelloFrame at e_
  injection e_ with e_
  subst e_
  repeat' (first
    | with_reducible assumption
    | exact (rfl : _ = true)
    | with_reducible apply State.gotHello_moves)

theorem execMiodelMirrorFrame_moves {t_ : State} {seq : Word} {m : MirrorRec} {s : State} (e_ : execMiodelMirrorFrame seq m s = .next t_) : Moves [.regs, .lx, .tree, .ts, .ebm, .bus, .qe, .bm, .xb, .fn, .mre, .gd, .sv, .pu, .pm, .ck, .free, .out] s t_ := by
  have h_ := Moves.refl [.regs, .lx, .tree, .ts, .ebm, .bus, .qe, .bm, .xb, .fn, .mre, .gd, .sv, .pu, .pm, .ck, .free, .out] s
  unfold execMiodelMirrorFrame at e_
  injection e_ with e_
  subst e_
  repeat' (first
    | with_reducible assumption
    | exact (rfl : _ = true)
    | with_reducible apply State.gotMirror_moves)

theorem execMiodelPresenceFrame_moves {t_ : State} {recs : List PresenceRec} {s : State} (e_ : execMiodelPresenceFrame recs s = .next t_) : Moves [.pu, .out] s t_ := by
  have h_ := Moves.refl [.pu, .out] s
  unfold execMiodelPresenceFrame at e_
  injection e_ with e_
  subst e_
  repeat' (first
    | with_reducible assumption
    | exact (rfl : _ = true)
    | with_reducible apply State.gotPresence_moves)

theorem execMiodelRelayFrame_moves {t_ : State} {f : RelayFrame} {s : State} (e_ : execMiodelRelayFrame f s = .next t_) : Moves [.regs, .lx, .tree, .ts, .ebm, .bus, .qe, .bm, .xb, .fn, .mre, .pu, .ck, .free, .out] s t_ := by
  have h_ := Moves.refl [.regs, .lx, .tree, .ts, .ebm, .bus, .qe, .bm, .xb, .fn, .mre, .pu, .ck, .free, .out] s
  unfold execMiodelRelayFrame at e_
  injection e_ with e_
  subst e_
  repeat' (first
    | with_reducible assumption
    | exact (rfl : _ = true)
    | with_reducible apply State.gotRelay_moves)

theorem execMiodelResendTimeout_moves {t_ : State} {s : State} (e_ : execMiodelResendTimeout s = .next t_) : Moves [.regs, .pu, .out] s t_ := by
  have h_ := Moves.refl [.regs, .pu, .out] s
  unfold execMiodelResendTimeout at e_
  injection e_ with e_
  subst e_
  repeat' (first
    | with_reducible assumption
    | exact (rfl : _ = true)
    | with_reducible apply State.resend_moves)

theorem execMiodelTimeFrame_moves {t_ : State} {f : TimeFrame} {s : State} (e_ : execMiodelTimeFrame f s = .next t_) : Moves [.regs, .lx, .tree, .ts, .ebm, .bus, .qe, .bm, .xb, .fn, .mre, .gd, .pu, .out] s t_ := by
  have h_ := Moves.refl [.regs, .lx, .tree, .ts, .ebm, .bus, .qe, .bm, .xb, .fn, .mre, .gd, .pu, .out] s
  unfold execMiodelTimeFrame at e_
  injection e_ with e_
  subst e_
  repeat' (first
    | with_reducible assumption
    | exact (rfl : _ = true)
    | with_reducible apply State.gotTime_moves)

theorem execMirrorWriteApply_moves {t_ : State} {s : State} (e_ : execMirrorWriteApply s = .next t_) : Moves [.regs, .pu] s t_ := by
  have h_ := Moves.refl [.regs, .pu] s
  unfold execMirrorWriteApply at e_
  injection e_ with e_
  subst e_
  repeat' (first
    | with_reducible assumption
    | exact (rfl : _ = true)
    | with_reducible apply State.applyWrites_moves)

theorem execOrderedChannelDown_moves {t_ : State} {s : State} (e_ : execOrderedChannelDown s = .next t_) : Moves [.regs, .qe, .bm, .xb, .fn, .pu, .out] s t_ := by
  have h_ := Moves.refl [.regs, .qe, .bm, .xb, .fn, .pu, .out] s
  unfold execOrderedChannelDown at e_
  injection e_ with e_
  subst e_
  repeat' (first
    | with_reducible assumption
    | exact (rfl : _ = true)
    | with_reducible apply State.channelDown_moves)

theorem execPairEnableWrite_moves {t_ : State} {v : Word} {s : State} (e_ : execPairEnableWrite v s = .next t_) : Moves [.regs, .lx, .tree, .ts, .ebm, .bus, .qe, .bm, .xb, .fn, .mre, .pu, .pm, .ck, .out] s t_ := by
  have h_ := Moves.refl [.regs, .lx, .tree, .ts, .ebm, .bus, .qe, .bm, .xb, .fn, .mre, .pu, .pm, .ck, .out] s
  unfold execPairEnableWrite at e_
  injection e_ with e_
  subst e_
  repeat' (first
    | with_reducible assumption
    | intro _
    | exact (rfl : _ = true)
    | with_reducible apply State.pairEnable_moves
    | with_reducible apply State.pfWrite_moves)

theorem execPeerLossDetect_moves {t_ : State} {c : LossCause} {s : State} (e_ : execPeerLossDetect c s = .next t_) : Moves [.regs, .tree, .ts, .ebm, .bus, .qe, .bm, .xb, .fn, .mre, .pu, .out] s t_ := by
  have h_ := Moves.refl [.regs, .tree, .ts, .ebm, .bus, .qe, .bm, .xb, .fn, .mre, .pu, .out] s
  unfold execPeerLossDetect at e_
  injection e_ with e_
  subst e_
  repeat' (first
    | with_reducible assumption
    | exact (rfl : _ = true)
    | with_reducible apply State.peerLost_moves)

theorem execPuBacklogDrain_moves {t_ : State} {s : State} (e_ : execPuBacklogDrain s = .next t_) : Moves [.regs, .qe, .fn, .pu, .out] s t_ := by
  have h_ := Moves.refl [.regs, .qe, .fn, .pu, .out] s
  unfold execPuBacklogDrain at e_
  injection e_ with e_
  subst e_
  repeat' (first
    | with_reducible assumption
    | exact (rfl : _ = true)
    | with_reducible apply State.drainPu_moves)

theorem execTakeover_moves {t_ : State} {s : State} (e_ : execTakeover s = .next t_) : Moves [.regs, .tree, .ts, .ebm, .bus, .qe, .bm, .xb, .fn, .mre, .gd, .pu, .out] s t_ := by
  have h_ := Moves.refl [.regs, .tree, .ts, .ebm, .bus, .qe, .bm, .xb, .fn, .mre, .gd, .pu, .out] s
  unfold execTakeover at e_
  injection e_ with e_
  subst e_
  repeat' (first
    | with_reducible assumption
    | exact (rfl : _ = true)
    | with_reducible apply State.takeover_moves)

theorem execTimeSourceLost_moves {t_ : State} {s : State} (e_ : execTimeSourceLost s = .next t_) : Moves [.regs, .qe, .fn, .pu, .out] s t_ := by
  have h_ := Moves.refl [.regs, .qe, .fn, .pu, .out] s
  unfold execTimeSourceLost at e_
  injection e_ with e_
  subst e_
  repeat' (first
    | with_reducible assumption
    | exact (rfl : _ = true)
    | with_reducible apply State.sourceLost_moves)

end Sys2Proof.Machine
end

