-- ==== Sys2Proof/Laws/DevRoleMoves.lean ====
section
/-! SUPPORT. What the operations of Machine/DevRole.lean may touch. -/

set_option Elab.async false
set_option linter.unusedTactic false
set_option linter.unreachableTactic false

namespace Sys2Proof.Machine

theorem State.updNode_moves {l_ : List Part} {z_ : State} {s : State} {p : ℕ} {g : DevNode → DevNode} (h_ : Moves l_ z_ s) (hl_ : Part.sub [.tree] l_ = true) :
    Moves l_ z_ (State.updNode s p g) := by
  refine h_.step ?_ hl_
  clear h_ hl_
  have h_ := Moves.refl [.tree] s
  unfold State.updNode
  repeat' (first
    | with_reducible assumption
    | exact (rfl : _ = true)
    | with_reducible apply State.updPort_moves)

theorem State.nodeTake_moves {l_ : List Part} {z_ : State} {s : State} {p : ℕ} {e : ℕ} {key : ℕ} {k : TokenPkt} (h_ : Moves l_ z_ s) (hl_ : Part.sub [.regs, .tree, .mre, .gd] l_ = true) :
    Moves l_ z_ (State.nodeTake s p e key k) := by
  refine h_.step ?_ hl_
  clear h_ hl_
  have h_ := Moves.refl [.regs, .tree, .mre, .gd] s
  unfold State.nodeTake
  repeat' (first
    | with_reducible assumption
    | intro _
    | with_reducible apply Moves.ite
    | exact (rfl : _ = true)
    | with_reducible apply State.updNode_moves
    | with_reducible apply State.blockNotice_moves
    | with_reducible apply Moves.mre)

theorem State.nodeData_moves {l_ : List Part} {z_ : State} {s : State} {p : ℕ} {k : TokenPkt} {last : Bool} {seq : ℕ} {b : List Byte} (h_ : Moves l_ z_ s) (hl_ : Part.sub [.out] l_ = true) :
    Moves l_ z_ (State.nodeData s p k last seq b) := by
  refine h_.step ?_ hl_
  clear h_ hl_
  have h_ := Moves.refl [.out] s
  unfold State.nodeData
  repeat' (first
    | with_reducible assumption
    | intro _
    | with_reducible apply Moves.ite
    | exact (rfl : _ = true)
    | with_reducible apply State.emit_moves)

theorem State.nodeIn_moves {l_ : List Part} {z_ : State} {s : State} {p : ℕ} {e : ℕ} {k : TokenPkt} (h_ : Moves l_ z_ s) (hl_ : Part.sub [.out] l_ = true) :
    Moves l_ z_ (State.nodeIn s p e k) := by
  refine h_.step ?_ hl_
  clear h_ hl_
  have h_ := Moves.refl [.out] s
  unfold State.nodeIn
  repeat' (first
    | with_reducible assumption
    | exact (rfl : _ = true)
    | with_reducible apply State.nodeData_moves)

theorem State.nodeShake_moves {l_ : List Part} {z_ : State} {s : State} {p : ℕ} {k : TokenPkt} {kind : ℕ} (h_ : Moves l_ z_ s) (hl_ : Part.sub [.out] l_ = true) :
    Moves l_ z_ (State.nodeShake s p k kind) := by
  refine h_.step ?_ hl_
  clear h_ hl_
  have h_ := Moves.refl [.out] s
  unfold State.nodeShake
  repeat' (first
    | with_reducible assumption
    | intro _
    | with_reducible apply Moves.ite
    | exact (rfl : _ = true)
    | with_reducible apply State.emit_moves)

theorem State.nodeSetup_moves {l_ : List Part} {z_ : State} {s : State} {p : ℕ} {k : TokenPkt} (h_ : Moves l_ z_ s) (hl_ : Part.sub [.tree, .out] l_ = true) :
    Moves l_ z_ (State.nodeSetup s p k) := by
  refine h_.step ?_ hl_
  clear h_ hl_
  have h_ := Moves.refl [.tree, .out] s
  unfold State.nodeSetup
  repeat' (first
    | with_reducible assumption
    | intro _
    | with_reducible apply Moves.ite
    | exact (rfl : _ = true)
    | with_reducible apply State.nodeShake_moves
    | with_reducible apply State.updNode_moves)

theorem State.nodeStall_moves {l_ : List Part} {z_ : State} {s : State} {p : ℕ} {k : TokenPkt} (h_ : Moves l_ z_ s) (hl_ : Part.sub [.tree, .out] l_ = true) :
    Moves l_ z_ (State.nodeStall s p k) := by
  refine h_.step ?_ hl_
  clear h_ hl_
  have h_ := Moves.refl [.tree, .out] s
  unfold State.nodeStall
  repeat' (first
    | with_reducible assumption
    | exact (rfl : _ = true)
    | with_reducible apply State.nodeShake_moves
    | with_reducible apply State.updNode_moves)

theorem State.nodeBulkOut_moves {l_ : List Part} {z_ : State} {s : State} {p : ℕ} {k : TokenPkt} (h_ : Moves l_ z_ s) (hl_ : Part.sub [.tree, .out] l_ = true) :
    Moves l_ z_ (State.nodeBulkOut s p k) := by
  refine h_.step ?_ hl_
  clear h_ hl_
  have h_ := Moves.refl [.tree, .out] s
  unfold State.nodeBulkOut
  repeat' (first
    | with_reducible assumption
    | (extract_lets -underBinder +onlyGivenNames x_; (clear_value x_; revert x_; intro _))
    | exact (rfl : _ = true)
    | with_reducible apply State.nodeShake_moves
    | with_reducible apply State.nodeStall_moves
    | with_reducible apply State.updNode_moves
    | split)

theorem State.nodeDo_moves {l_ : List Part} {z_ : State} {s : State} {p : ℕ} {b : List Byte} (h_ : Moves l_ z_ s) (hl_ : Part.sub [.tree] l_ = true) :
    Moves l_ z_ (State.nodeDo s p b) := by
  refine h_.step ?_ hl_
  clear h_ hl_
  have h_ := Moves.refl [.tree] s
  unfold State.nodeDo
  repeat' (first
    | with_reducible assumption
    | intro _
    | exact (rfl : _ = true)
    | with_reducible apply State.updNode_moves
    | split)

theorem State.nodeBulkIn_moves {l_ : List Part} {z_ : State} {s : State} {p : ℕ} {k : TokenPkt} (h_ : Moves l_ z_ s) (hl_ : Part.sub [.tree, .out] l_ = true) :
    Moves l_ z_ (State.nodeBulkIn s p k) := by
  refine h_.step ?_ hl_
  clear h_ hl_
  have h_ := Moves.refl [.tree, .out] s
  unfold State.nodeBulkIn
  repeat' (first
    | with_reducible assumption
    | (extract_lets -underBinder +onlyGivenNames x_; first | (refine (fun hx_ : Moves [.tree, .out] s x_ => ?_) ?_; (on_goal 1 => (clear_value x_; revert hx_; revert x_; intro _ _)); (on_goal 2 => subst x_)) | (clear_value x_; revert x_; intro _))
    | exact (rfl : _ = true)
    | with_reducible apply State.nodeData_moves
    | with_reducible apply State.nodeDo_moves
    | with_reducible apply State.nodeShake_moves
    | with_reducible apply State.nodeStall_moves
    | with_reducible apply State.updNode_moves
    | split)

theorem State.nodeControl_moves {l_ : List Part} {z_ : State} {s : State} {p : ℕ} {k : TokenPkt} (h_ : Moves l_ z_ s) (hl_ : Part.sub [.tree, .out] l_ = true) :
    Moves l_ z_ (State.nodeControl s p k) := by
  refine h_.step ?_ hl_
  clear h_ hl_
  have h_ := Moves.refl [.tree, .out] s
  unfold State.nodeControl
  repeat' (first
    | with_reducible assumption
    | intro _
    | with_reducible apply Moves.ite
    | exact (rfl : _ = true)
    | with_reducible apply State.nodeBulkIn_moves
    | with_reducible apply State.nodeBulkOut_moves
    | with_reducible apply State.nodeData_moves
    | with_reducible apply State.nodeSetup_moves
    | with_reducible apply State.nodeShake_moves
    | with_reducible apply State.updNode_moves)

theorem State.nodeBcast_moves {l_ : List Part} {z_ : State} {s : State} {p : Nat} {effect : Nat} {command : Nat} (h_ : Moves l_ z_ s) (hl_ : Part.sub [.tree] l_ = true) :
    Moves l_ z_ (State.nodeBcast s p effect command) := by
  refine h_.step ?_ hl_
  clear h_ hl_
  have h_ := Moves.refl [.tree] s
  unfold State.nodeBcast
  repeat' (first
    | with_reducible assumption
    | intro _
    | with_reducible apply Moves.ite
    | exact (rfl : _ = true)
    | with_reducible apply State.updNode_moves
    | split)

theorem State.deviceToken_moves {l_ : List Part} {z_ : State} {s : State} {p : ℕ} {k : TokenPkt} (h_ : Moves l_ z_ s)
    (hl_ : Part.sub [.regs, .tree, .mre, .gd, .free, .out] l_ = true) : Moves l_ z_ (State.deviceToken s p k) := by
  have hn : ∀ g, Moves l_ z_ (s.updNode p g) := fun g => State.updNode_moves h_ (Part.sub_trans rfl hl_)
  have ht : ∀ t e i, Moves l_ z_ t → Moves l_ z_ (t.nodeTake p e i k) := fun t e i h => State.nodeTake_moves h (Part.sub_trans rfl hl_)
  have hi : ∀ e, Moves l_ z_ (s.nodeIn p e k) := fun e => State.nodeIn_moves h_ (Part.sub_trans rfl hl_)
  have hc : Moves l_ z_ (s.nodeControl p k) := State.nodeControl_moves h_ (Part.sub_trans rfl hl_)
  unfold State.deviceToken
  extract_lets kind ep
  refine Moves.ite (fun _ => h_) (fun _ => Moves.ite (fun _ => ?_) (fun _ => Moves.ite (fun _ => hn _) (fun _ => Moves.ite (fun _ => ?_)
    (fun _ => Moves.ite (fun _ => h_) (fun _ => Moves.ite (fun _ => Moves.ite (fun _ => hi _) (fun _ => h_)) (fun _ =>
    Moves.ite (fun _ => Moves.ite (fun _ => ht _ _ _ h_) (fun _ => h_)) (fun _ => hc)))))))
  · exact State.nodeBcast_moves h_ (Part.sub_trans rfl hl_)
  · exact Moves.foldl h_ (fun t e h => Moves.ite (fun _ => ht _ _ _ h) (fun _ => h))

theorem execDeviceRoleTokenReceived_moves {t_ : State} {p : Trunk} {tok : TokenPkt} {s : State} (e_ : execDeviceRoleTokenReceived p tok s = .next t_) : Moves [.regs, .tree, .mre, .gd, .free, .out] s t_ := by
  have h_ := Moves.refl [.regs, .tree, .mre, .gd, .free, .out] s
  unfold execDeviceRoleTokenReceived at e_
  injection e_ with e_
  subst e_
  repeat' (first
    | with_reducible assumption
    | exact (rfl : _ = true)
    | with_reducible apply State.deviceToken_moves)

end Sys2Proof.Machine
end

