-- ==== Sys2Proof/Laws/StartMoves.lean ====
section
/-! SUPPORT. What the operations of Machine/Start.lean may touch. -/

set_option Elab.async false
set_option linter.unusedTactic false
set_option linter.unreachableTactic false

namespace Sys2Proof.Machine

theorem State.runNop_moves {l_ : List Part} {z_ : State} {s : State} {r : EntryRef} {e : Sqe} (h_ : Moves l_ z_ s) (hl_ : Part.sub [.regs, .qe, .bm, .xb, .fn, .out] l_ = true) :
    Moves l_ z_ (State.runNop s r e) := by
  refine h_.step ?_ hl_
  clear h_ hl_
  have h_ := Moves.refl [.regs, .qe, .bm, .xb, .fn, .out] s
  unfold State.runNop
  repeat' (first
    | with_reducible assumption
    | exact (rfl : _ = true)
    | with_reducible apply State.complete_moves)

theorem State.runFence_moves {l_ : List Part} {z_ : State} {s : State} {r : EntryRef} {e : Sqe} (h_ : Moves l_ z_ s) (hl_ : Part.sub [.bm] l_ = true) :
    Moves l_ z_ (State.runFence s r e) := by
  refine h_.step ?_ hl_
  clear h_ hl_
  have h_ := Moves.refl [.bm] s
  unfold State.runFence
  repeat' (first
    | with_reducible assumption
    | exact (rfl : _ = true)
    | with_reducible apply State.beginMove_moves)

theorem State.runBulkOut_moves {l_ : List Part} {z_ : State} {s : State} {r : EntryRef} {e : Sqe} (h_ : Moves l_ z_ s) (hl_ : Part.sub [.regs, .lx, .tree, .ts, .ebm, .bus, .qe, .bm, .xb, .fn, .mre, .pu, .ck, .out] l_ = true) :
    Moves l_ z_ (State.runBulkOut s r e) := by
  refine h_.step ?_ hl_
  clear h_ hl_
  have h_ := Moves.refl [.regs, .lx, .tree, .ts, .ebm, .bus, .qe, .bm, .xb, .fn, .mre, .pu, .ck, .out] s
  unfold State.runBulkOut
  repeat' (first
    | with_reducible assumption
    | exact (rfl : _ = true)
    | with_reducible apply State.beginXferOf_moves)

theorem State.runBulkIn_moves {l_ : List Part} {z_ : State} {s : State} {r : EntryRef} {e : Sqe} (h_ : Moves l_ z_ s) (hl_ : Part.sub [.regs, .lx, .tree, .ts, .ebm, .bus, .qe, .bm, .xb, .fn, .mre, .pu, .ck, .out] l_ = true) :
    Moves l_ z_ (State.runBulkIn s r e) := by
  refine h_.step ?_ hl_
  clear h_ hl_
  have h_ := Moves.refl [.regs, .lx, .tree, .ts, .ebm, .bus, .qe, .bm, .xb, .fn, .mre, .pu, .ck, .out] s
  unfold State.runBulkIn
  repeat' (first
    | with_reducible assumption
    | exact (rfl : _ = true)
    | with_reducible apply State.beginXferOf_moves)

theorem State.runControl_moves {l_ : List Part} {z_ : State} {s : State} {r : EntryRef} {e : Sqe} (h_ : Moves l_ z_ s) (hl_ : Part.sub [.regs, .lx, .tree, .ts, .ebm, .bus, .qe, .bm, .xb, .fn, .mre, .pu, .ck, .free, .out] l_ = true) :
    Moves l_ z_ (State.runControl s r e) := by
  refine h_.step ?_ hl_
  clear h_ hl_
  have h_ := Moves.refl [.regs, .lx, .tree, .ts, .ebm, .bus, .qe, .bm, .xb, .fn, .mre, .pu, .ck, .free, .out] s
  unfold State.runControl
  repeat' (first
    | with_reducible assumption
    | exact (rfl : _ = true)
    | with_reducible apply State.beginControl_moves)

theorem State.runTunnelTx_moves {l_ : List Part} {z_ : State} {s : State} {r : EntryRef} {e : Sqe} (h_ : Moves l_ z_ s) (hl_ : Part.sub [.regs, .lx, .tree, .ts, .ebm, .bus, .qe, .bm, .xb, .fn, .mre, .pu, .ck, .out] l_ = true) :
    Moves l_ z_ (State.runTunnelTx s r e) := by
  refine h_.step ?_ hl_
  clear h_ hl_
  have h_ := Moves.refl [.regs, .lx, .tree, .ts, .ebm, .bus, .qe, .bm, .xb, .fn, .mre, .pu, .ck, .out] s
  unfold State.runTunnelTx
  repeat' (first
    | with_reducible assumption
    | exact (rfl : _ = true)
    | with_reducible apply State.beginXferOf_moves)

theorem State.runTunnelRx_moves {l_ : List Part} {z_ : State} {s : State} {r : EntryRef} {e : Sqe} (h_ : Moves l_ z_ s) (hl_ : Part.sub [.regs, .lx, .tree, .ts, .ebm, .bus, .qe, .bm, .xb, .fn, .mre, .pu, .ck, .out] l_ = true) :
    Moves l_ z_ (State.runTunnelRx s r e) := by
  refine h_.step ?_ hl_
  clear h_ hl_
  have h_ := Moves.refl [.regs, .lx, .tree, .ts, .ebm, .bus, .qe, .bm, .xb, .fn, .mre, .pu, .ck, .out] s
  unfold State.runTunnelRx
  repeat' (first
    | with_reducible assumption
    | exact (rfl : _ = true)
    | with_reducible apply State.beginXferOf_moves)

theorem State.runMove_moves {l_ : List Part} {z_ : State} {s : State} {r : EntryRef} {e : Sqe} (h_ : Moves l_ z_ s) (hl_ : Part.sub [.bm] l_ = true) :
    Moves l_ z_ (State.runMove s r e) := by
  refine h_.step ?_ hl_
  clear h_ hl_
  have h_ := Moves.refl [.bm] s
  unfold State.runMove
  repeat' (first
    | with_reducible assumption
    | exact (rfl : _ = true)
    | with_reducible apply State.beginMove_moves)

theorem State.runMoveIndexed_moves {l_ : List Part} {z_ : State} {s : State} {r : EntryRef} {e : Sqe} (h_ : Moves l_ z_ s) (hl_ : Part.sub [.bm] l_ = true) :
    Moves l_ z_ (State.runMoveIndexed s r e) := by
  refine h_.step ?_ hl_
  clear h_ hl_
  have h_ := Moves.refl [.bm] s
  unfold State.runMoveIndexed
  repeat' (first
    | with_reducible assumption
    | exact (rfl : _ = true)
    | with_reducible apply State.beginMove_moves)

theorem State.runClipPlay_moves {l_ : List Part} {z_ : State} {s : State} {r : EntryRef} {e : Sqe} (h_ : Moves l_ z_ s) (hl_ : Part.sub [.regs, .lx, .tree, .ts, .ebm, .bus, .qe, .bm, .xb, .fn, .mre, .gd, .sv, .pu, .ck, .free, .out] l_ = true) :
    Moves l_ z_ (State.runClipPlay s r e) := by
  refine h_.step ?_ hl_
  clear h_ hl_
  have h_ := Moves.refl [.regs, .lx, .tree, .ts, .ebm, .bus, .qe, .bm, .xb, .fn, .mre, .gd, .sv, .pu, .ck, .free, .out] s
  unfold State.runClipPlay
  repeat' (first
    | with_reducible assumption
    | exact (rfl : _ = true)
    | with_reducible apply State.runOrdered_moves)

theorem State.runClipStop_moves {l_ : List Part} {z_ : State} {s : State} {r : EntryRef} {e : Sqe} (h_ : Moves l_ z_ s) (hl_ : Part.sub [.regs, .lx, .tree, .ts, .ebm, .bus, .qe, .bm, .xb, .fn, .mre, .gd, .sv, .pu, .ck, .free, .out] l_ = true) :
    Moves l_ z_ (State.runClipStop s r e) := by
  refine h_.step ?_ hl_
  clear h_ hl_
  have h_ := Moves.refl [.regs, .lx, .tree, .ts, .ebm, .bus, .qe, .bm, .xb, .fn, .mre, .gd, .sv, .pu, .ck, .free, .out] s
  unfold State.runClipStop
  repeat' (first
    | with_reducible assumption
    | exact (rfl : _ = true)
    | with_reducible apply State.runOrdered_moves)

theorem State.runTapRecord_moves {l_ : List Part} {z_ : State} {s : State} {r : EntryRef} {e : Sqe} (h_ : Moves l_ z_ s) (hl_ : Part.sub [.regs, .qe, .bm, .xb, .fn, .mre, .out] l_ = true) :
    Moves l_ z_ (State.runTapRecord s r e) := by
  refine h_.step ?_ hl_
  clear h_ hl_
  have h_ := Moves.refl [.regs, .qe, .bm, .xb, .fn, .mre, .out] s
  unfold State.runTapRecord
  repeat' (first
    | with_reducible assumption
    | exact (rfl : _ = true)
    | with_reducible apply State.beginTap_moves)

theorem State.runCreateSq_moves {l_ : List Part} {z_ : State} {s : State} {r : EntryRef} {e : Sqe} (h_ : Moves l_ z_ s) (hl_ : Part.sub [.regs, .qe, .bm, .xb, .fn, .free, .out] l_ = true) :
    Moves l_ z_ (State.runCreateSq s r e) := by
  refine h_.step ?_ hl_
  clear h_ hl_
  have h_ := Moves.refl [.regs, .qe, .bm, .xb, .fn, .free, .out] s
  unfold State.runCreateSq
  repeat' (first
    | with_reducible assumption
    | exact (rfl : _ = true)
    | with_reducible apply State.createSq_moves)

theorem State.runDeleteSq_moves {l_ : List Part} {z_ : State} {s : State} {r : EntryRef} {e : Sqe} (h_ : Moves l_ z_ s) (hl_ : Part.sub [.regs, .qe, .fn, .out] l_ = true) :
    Moves l_ z_ (State.runDeleteSq s r e) := by
  refine h_.step ?_ hl_
  clear h_ hl_
  have h_ := Moves.refl [.regs, .qe, .fn, .out] s
  unfold State.runDeleteSq
  repeat' (first
    | with_reducible assumption
    | exact (rfl : _ = true)
    | with_reducible apply State.deleteSq_moves)

theorem State.runCreateCq_moves {l_ : List Part} {z_ : State} {s : State} {r : EntryRef} {e : Sqe} {clean : Bool} (h_ : Moves l_ z_ s) (hl_ : Part.sub [.regs, .qe, .bm, .xb, .fn, .free, .out] l_ = true) :
    Moves l_ z_ (State.runCreateCq s r e clean) := by
  refine h_.step ?_ hl_
  clear h_ hl_
  have h_ := Moves.refl [.regs, .qe, .bm, .xb, .fn, .free, .out] s
  unfold State.runCreateCq
  repeat' (first
    | with_reducible assumption
    | exact (rfl : _ = true)
    | with_reducible apply State.createCq_moves)

theorem State.runDeleteCq_moves {l_ : List Part} {z_ : State} {s : State} {r : EntryRef} {e : Sqe} (h_ : Moves l_ z_ s) (hl_ : Part.sub [.regs, .qe, .bm, .xb, .fn, .out] l_ = true) :
    Moves l_ z_ (State.runDeleteCq s r e) := by
  refine h_.step ?_ hl_
  clear h_ hl_
  have h_ := Moves.refl [.regs, .qe, .bm, .xb, .fn, .out] s
  unfold State.runDeleteCq
  repeat' (first
    | with_reducible assumption
    | exact (rfl : _ = true)
    | with_reducible apply State.deleteCq_moves)

theorem State.runIdentify_moves {l_ : List Part} {z_ : State} {s : State} {r : EntryRef} {e : Sqe} (h_ : Moves l_ z_ s) (hl_ : Part.sub [.regs, .qe, .bm, .xb, .fn, .out] l_ = true) :
    Moves l_ z_ (State.runIdentify s r e) := by
  refine h_.step ?_ hl_
  clear h_ hl_
  have h_ := Moves.refl [.regs, .qe, .bm, .xb, .fn, .out] s
  unfold State.runIdentify
  repeat' (first
    | with_reducible assumption
    | exact (rfl : _ = true)
    | with_reducible apply State.identify_moves)

theorem State.runSetShare_moves {l_ : List Part} {z_ : State} {s : State} {r : EntryRef} {e : Sqe} (h_ : Moves l_ z_ s) (hl_ : Part.sub [.regs, .lx, .tree, .ts, .ebm, .bus, .qe, .bm, .xb, .fn, .mre, .gd, .sv, .pu, .ck, .free, .out] l_ = true) :
    Moves l_ z_ (State.runSetShare s r e) := by
  refine h_.step ?_ hl_
  clear h_ hl_
  have h_ := Moves.refl [.regs, .lx, .tree, .ts, .ebm, .bus, .qe, .bm, .xb, .fn, .mre, .gd, .sv, .pu, .ck, .free, .out] s
  unfold State.runSetShare
  repeat' (first
    | with_reducible assumption
    | exact (rfl : _ = true)
    | with_reducible apply State.runOrdered_moves)

theorem State.runGetLog_moves {l_ : List Part} {z_ : State} {s : State} {r : EntryRef} {e : Sqe} (h_ : Moves l_ z_ s) (hl_ : Part.sub [.regs, .qe, .bm, .xb, .fn, .free, .out] l_ = true) :
    Moves l_ z_ (State.runGetLog s r e) := by
  refine h_.step ?_ hl_
  clear h_ hl_
  have h_ := Moves.refl [.regs, .qe, .bm, .xb, .fn, .free, .out] s
  unfold State.runGetLog
  repeat' (first
    | with_reducible assumption
    | exact (rfl : _ = true)
    | with_reducible apply State.getLog_moves)

theorem State.runEndpointAdd_moves {l_ : List Part} {z_ : State} {s : State} {r : EntryRef} {e : Sqe} (h_ : Moves l_ z_ s) (hl_ : Part.sub [.regs, .lx, .tree, .ts, .ebm, .bus, .qe, .bm, .xb, .fn, .mre, .gd, .sv, .pu, .ck, .free, .out] l_ = true) :
    Moves l_ z_ (State.runEndpointAdd s r e) := by
  refine h_.step ?_ hl_
  clear h_ hl_
  have h_ := Moves.refl [.regs, .lx, .tree, .ts, .ebm, .bus, .qe, .bm, .xb, .fn, .mre, .gd, .sv, .pu, .ck, .free, .out] s
  unfold State.runEndpointAdd
  repeat' (first
    | with_reducible assumption
    | exact (rfl : _ = true)
    | with_reducible apply State.runOrdered_moves)

theorem State.runEndpointRemove_moves {l_ : List Part} {z_ : State} {s : State} {r : EntryRef} {e : Sqe} (h_ : Moves l_ z_ s) (hl_ : Part.sub [.regs, .lx, .tree, .ts, .ebm, .bus, .qe, .bm, .xb, .fn, .mre, .gd, .sv, .pu, .ck, .free, .out] l_ = true) :
    Moves l_ z_ (State.runEndpointRemove s r e) := by
  refine h_.step ?_ hl_
  clear h_ hl_
  have h_ := Moves.refl [.regs, .lx, .tree, .ts, .ebm, .bus, .qe, .bm, .xb, .fn, .mre, .gd, .sv, .pu, .ck, .free, .out] s
  unfold State.runEndpointRemove
  repeat' (first
    | with_reducible assumption
    | exact (rfl : _ = true)
    | with_reducible apply State.runOrdered_moves)

theorem State.runScheduleCommit_moves {l_ : List Part} {z_ : State} {s : State} {r : EntryRef} {e : Sqe} (h_ : Moves l_ z_ s) (hl_ : Part.sub [.regs, .lx, .tree, .ts, .ebm, .bus, .qe, .bm, .xb, .fn, .mre, .gd, .sv, .pu, .ck, .free, .out] l_ = true) :
    Moves l_ z_ (State.runScheduleCommit s r e) := by
  refine h_.step ?_ hl_
  clear h_ hl_
  have h_ := Moves.refl [.regs, .lx, .tree, .ts, .ebm, .bus, .qe, .bm, .xb, .fn, .mre, .gd, .sv, .pu, .ck, .free, .out] s
  unfold State.runScheduleCommit
  repeat' (first
    | with_reducible assumption
    | exact (rfl : _ = true)
    | with_reducible apply State.runOrdered_moves)

theorem State.runGraphLoad_moves {l_ : List Part} {z_ : State} {s : State} {r : EntryRef} {e : Sqe} {img : ImageFile} (h_ : Moves l_ z_ s) (hl_ : Part.sub [.regs, .lx, .tree, .ts, .ebm, .bus, .qe, .bm, .xb, .fn, .mre, .gd, .sv, .pu, .ck, .free, .out] l_ = true) :
    Moves l_ z_ (State.runGraphLoad s r e img) := by
  refine h_.step ?_ hl_
  clear h_ hl_
  have h_ := Moves.refl [.regs, .lx, .tree, .ts, .ebm, .bus, .qe, .bm, .xb, .fn, .mre, .gd, .sv, .pu, .ck, .free, .out] s
  unfold State.runGraphLoad
  repeat' (first
    | with_reducible assumption
    | exact (rfl : _ = true)
    | with_reducible apply State.runOrdered_moves)

theorem State.runGraphSwap_moves {l_ : List Part} {z_ : State} {s : State} {r : EntryRef} {e : Sqe} (h_ : Moves l_ z_ s) (hl_ : Part.sub [.regs, .lx, .tree, .ts, .ebm, .bus, .qe, .bm, .xb, .fn, .mre, .gd, .sv, .pu, .ck, .free, .out] l_ = true) :
    Moves l_ z_ (State.runGraphSwap s r e) := by
  refine h_.step ?_ hl_
  clear h_ hl_
  have h_ := Moves.refl [.regs, .lx, .tree, .ts, .ebm, .bus, .qe, .bm, .xb, .fn, .mre, .gd, .sv, .pu, .ck, .free, .out] s
  unfold State.runGraphSwap
  repeat' (first
    | with_reducible assumption
    | exact (rfl : _ = true)
    | with_reducible apply State.runOrdered_moves)

theorem State.runGroupSet_moves {l_ : List Part} {z_ : State} {s : State} {r : EntryRef} {e : Sqe} (h_ : Moves l_ z_ s) (hl_ : Part.sub [.regs, .lx, .tree, .ts, .ebm, .bus, .qe, .bm, .xb, .fn, .mre, .gd, .sv, .pu, .ck, .free, .out] l_ = true) :
    Moves l_ z_ (State.runGroupSet s r e) := by
  refine h_.step ?_ hl_
  clear h_ hl_
  have h_ := Moves.refl [.regs, .lx, .tree, .ts, .ebm, .bus, .qe, .bm, .xb, .fn, .mre, .gd, .sv, .pu, .ck, .free, .out] s
  unfold State.runGroupSet
  repeat' (first
    | with_reducible assumption
    | exact (rfl : _ = true)
    | with_reducible apply State.runOrdered_moves)

theorem State.runVfGrant_moves {l_ : List Part} {z_ : State} {s : State} {r : EntryRef} {e : Sqe} {record : List Byte} (h_ : Moves l_ z_ s) (hl_ : Part.sub [.regs, .lx, .tree, .ts, .ebm, .bus, .qe, .bm, .xb, .fn, .mre, .gd, .sv, .pu, .ck, .free, .out] l_ = true) :
    Moves l_ z_ (State.runVfGrant s r e record) := by
  refine h_.step ?_ hl_
  clear h_ hl_
  have h_ := Moves.refl [.regs, .lx, .tree, .ts, .ebm, .bus, .qe, .bm, .xb, .fn, .mre, .gd, .sv, .pu, .ck, .free, .out] s
  unfold State.runVfGrant
  repeat' (first
    | with_reducible assumption
    | exact (rfl : _ = true)
    | with_reducible apply State.orderedGrant_moves)

theorem State.runVfFreeze_moves {l_ : List Part} {z_ : State} {s : State} {r : EntryRef} {e : Sqe} (h_ : Moves l_ z_ s) (hl_ : Part.sub [.regs, .ts, .ebm, .bus, .qe, .bm, .xb, .fn, .mre, .out] l_ = true) :
    Moves l_ z_ (State.runVfFreeze s r e) := by
  refine h_.step ?_ hl_
  clear h_ hl_
  have h_ := Moves.refl [.regs, .ts, .ebm, .bus, .qe, .bm, .xb, .fn, .mre, .out] s
  unfold State.runVfFreeze
  repeat' (first
    | with_reducible assumption
    | exact (rfl : _ = true)
    | with_reducible apply State.vfFreeze_moves)

theorem State.runVfSave_moves {l_ : List Part} {z_ : State} {s : State} {r : EntryRef} {e : Sqe} (h_ : Moves l_ z_ s) (hl_ : Part.sub [.regs, .ebm, .bus, .qe, .bm, .xb, .fn, .mre, .gd, .pu, .out] l_ = true) :
    Moves l_ z_ (State.runVfSave s r e) := by
  refine h_.step ?_ hl_
  clear h_ hl_
  have h_ := Moves.refl [.regs, .ebm, .bus, .qe, .bm, .xb, .fn, .mre, .gd, .pu, .out] s
  unfold State.runVfSave
  repeat' (first
    | with_reducible assumption
    | exact (rfl : _ = true)
    | with_reducible apply State.vfSave_moves)

theorem State.runVfRestore_moves {l_ : List Part} {z_ : State} {s : State} {r : EntryRef} {e : Sqe} {blob : List Byte} (h_ : Moves l_ z_ s) (hl_ : Part.sub [.regs, .qe, .bm, .xb, .fn, .free, .out] l_ = true) :
    Moves l_ z_ (State.runVfRestore s r e blob) := by
  refine h_.step ?_ hl_
  clear h_ hl_
  have h_ := Moves.refl [.regs, .qe, .bm, .xb, .fn, .free, .out] s
  unfold State.runVfRestore
  repeat' (first
    | with_reducible assumption
    | exact (rfl : _ = true)
    | with_reducible apply State.vfRestore_moves)

theorem State.runVfThaw_moves {l_ : List Part} {z_ : State} {s : State} {r : EntryRef} {e : Sqe} (h_ : Moves l_ z_ s) (hl_ : Part.sub [.regs, .qe, .bm, .xb, .fn, .out] l_ = true) :
    Moves l_ z_ (State.runVfThaw s r e) := by
  refine h_.step ?_ hl_
  clear h_ hl_
  have h_ := Moves.refl [.regs, .qe, .bm, .xb, .fn, .out] s
  unfold State.runVfThaw
  repeat' (first
    | with_reducible assumption
    | exact (rfl : _ = true)
    | with_reducible apply State.vfThaw_moves)

theorem State.runEngineRestart_moves {l_ : List Part} {z_ : State} {s : State} {r : EntryRef} {e : Sqe} (h_ : Moves l_ z_ s) (hl_ : Part.sub [.regs, .qe, .bm, .xb, .fn, .out] l_ = true) :
    Moves l_ z_ (State.runEngineRestart s r e) := by
  refine h_.step ?_ hl_
  clear h_ hl_
  have h_ := Moves.refl [.regs, .qe, .bm, .xb, .fn, .out] s
  unfold State.runEngineRestart
  repeat' (first
    | with_reducible assumption
    | exact (rfl : _ = true)
    | with_reducible apply State.engineRestart_moves)

theorem State.runAuditStart_moves {l_ : List Part} {z_ : State} {s : State} {r : EntryRef} {e : Sqe} (h_ : Moves l_ z_ s) (hl_ : Part.sub [.regs, .lx, .tree, .ts, .ebm, .bus, .qe, .bm, .xb, .fn, .mre, .gd, .sv, .pu, .ck, .free, .out] l_ = true) :
    Moves l_ z_ (State.runAuditStart s r e) := by
  refine h_.step ?_ hl_
  clear h_ hl_
  have h_ := Moves.refl [.regs, .lx, .tree, .ts, .ebm, .bus, .qe, .bm, .xb, .fn, .mre, .gd, .sv, .pu, .ck, .free, .out] s
  unfold State.runAuditStart
  repeat' (first
    | with_reducible assumption
    | exact (rfl : _ = true)
    | with_reducible apply State.runOrdered_moves)

theorem State.runDmaWindowSet_moves {l_ : List Part} {z_ : State} {s : State} {r : EntryRef} {e : Sqe} (h_ : Moves l_ z_ s) (hl_ : Part.sub [.regs, .qe, .bm, .xb, .fn, .out] l_ = true) :
    Moves l_ z_ (State.runDmaWindowSet s r e) := by
  refine h_.step ?_ hl_
  clear h_ hl_
  have h_ := Moves.refl [.regs, .qe, .bm, .xb, .fn, .out] s
  unfold State.runDmaWindowSet
  repeat' (first
    | with_reducible assumption
    | exact (rfl : _ = true)
    | with_reducible apply State.setWindow_moves)

theorem State.runPairQuery_moves {l_ : List Part} {z_ : State} {s : State} {r : EntryRef} {e : Sqe} (h_ : Moves l_ z_ s) (hl_ : Part.sub [.regs, .qe, .bm, .xb, .fn, .out] l_ = true) :
    Moves l_ z_ (State.runPairQuery s r e) := by
  refine h_.step ?_ hl_
  clear h_ hl_
  have h_ := Moves.refl [.regs, .qe, .bm, .xb, .fn, .out] s
  unfold State.runPairQuery
  repeat' (first
    | with_reducible assumption
    | exact (rfl : _ = true)
    | with_reducible apply State.pairQuery_moves)

theorem State.runPairHandover_moves {l_ : List Part} {z_ : State} {s : State} {r : EntryRef} {e : Sqe} (h_ : Moves l_ z_ s) (hl_ : Part.sub [.regs, .qe, .bm, .xb, .fn, .pu, .out] l_ = true) :
    Moves l_ z_ (State.runPairHandover s r e) := by
  refine h_.step ?_ hl_
  clear h_ hl_
  have h_ := Moves.refl [.regs, .qe, .bm, .xb, .fn, .pu, .out] s
  unfold State.runPairHandover
  repeat' (first
    | with_reducible assumption
    | exact (rfl : _ = true)
    | with_reducible apply State.pairHandover_moves)

theorem State.runPairLeave_moves {l_ : List Part} {z_ : State} {s : State} {r : EntryRef} {e : Sqe} (h_ : Moves l_ z_ s) (hl_ : Part.sub [.regs, .qe, .bm, .xb, .fn, .pu, .out] l_ = true) :
    Moves l_ z_ (State.runPairLeave s r e) := by
  refine h_.step ?_ hl_
  clear h_ hl_
  have h_ := Moves.refl [.regs, .qe, .bm, .xb, .fn, .pu, .out] s
  unfold State.runPairLeave
  repeat' (first
    | with_reducible assumption
    | exact (rfl : _ = true)
    | with_reducible apply State.pairLeave_moves)

theorem State.runPairJoin_moves {l_ : List Part} {z_ : State} {s : State} {r : EntryRef} {e : Sqe} (h_ : Moves l_ z_ s) (hl_ : Part.sub [.regs, .lx, .tree, .ts, .ebm, .bus, .qe, .bm, .xb, .fn, .mre, .pu, .ck, .out] l_ = true) :
    Moves l_ z_ (State.runPairJoin s r e) := by
  refine h_.step ?_ hl_
  clear h_ hl_
  have h_ := Moves.refl [.regs, .lx, .tree, .ts, .ebm, .bus, .qe, .bm, .xb, .fn, .mre, .pu, .ck, .out] s
  unfold State.runPairJoin
  repeat' (first
    | with_reducible assumption
    | exact (rfl : _ = true)
    | with_reducible apply State.pairJoin_moves)

theorem State.runPairSetRank_moves {l_ : List Part} {z_ : State} {s : State} {r : EntryRef} {e : Sqe} (h_ : Moves l_ z_ s) (hl_ : Part.sub [.regs, .qe, .bm, .xb, .fn, .pu, .out] l_ = true) :
    Moves l_ z_ (State.runPairSetRank s r e) := by
  refine h_.step ?_ hl_
  clear h_ hl_
  have h_ := Moves.refl [.regs, .qe, .bm, .xb, .fn, .pu, .out] s
  unfold State.runPairSetRank
  repeat' (first
    | with_reducible assumption
    | exact (rfl : _ = true)
    | with_reducible apply State.pairSetRank_moves)

theorem State.runPairBarrier_moves {l_ : List Part} {z_ : State} {s : State} {r : EntryRef} {e : Sqe} (h_ : Moves l_ z_ s) (hl_ : Part.sub [.pu] l_ = true) :
    Moves l_ z_ (State.runPairBarrier s r e) := by
  refine h_.step ?_ hl_
  clear h_ hl_
  have h_ := Moves.refl [.pu] s
  unfold State.runPairBarrier
  repeat' (first
    | with_reducible assumption
    | exact (rfl : _ = true)
    | with_reducible apply State.pairBarrier_moves)

theorem State.runEntry_moves {l_ : List Part} {z_ : State} {s : State} {r : EntryRef} {e : Sqe} {h : HostData} (h_ : Moves l_ z_ s) (hl_ : Part.sub [.regs, .lx, .tree, .ts, .ebm, .bus, .qe, .bm, .xb, .fn, .mre, .gd, .sv, .pu, .ck, .free, .out] l_ = true) :
    Moves l_ z_ (State.runEntry s r e h) := by
  refine h_.step ?_ hl_
  clear h_ hl_
  have h_ := Moves.refl [.regs, .lx, .tree, .ts, .ebm, .bus, .qe, .bm, .xb, .fn, .mre, .gd, .sv, .pu, .ck, .free, .out] s
  unfold State.runEntry
  repeat' (first
    | with_reducible assumption
    | exact (rfl : _ = true)
    | with_reducible apply State.runAuditStart_moves
    | with_reducible apply State.runBulkIn_moves
    | with_reducible apply State.runBulkOut_moves
    | with_reducible apply State.runClipPlay_moves
    | with_reducible apply State.runClipStop_moves
    | with_reducible apply State.runControl_moves
    | with_reducible apply State.runCreateCq_moves
    | with_reducible apply State.runCreateSq_moves
    | with_reducible apply State.runDeleteCq_moves
    | with_reducible apply State.runDeleteSq_moves
    | with_reducible apply State.runDmaWindowSet_moves
    | with_reducible apply State.runEndpointAdd_moves
    | with_reducible apply State.runEndpointRemove_moves
    | with_reducible apply State.runEngineRestart_moves
    | with_reducible apply State.runFence_moves
    | with_reducible apply State.runGetLog_moves
    | with_reducible apply State.runGraphLoad_moves
    | with_reducible apply State.runGraphSwap_moves
    | with_reducible apply State.runGroupSet_moves
    | with_reducible apply State.runIdentify_moves
    | with_reducible apply State.runMoveIndexed_moves
    | with_reducible apply State.runMove_moves
    | with_reducible apply State.runNop_moves
    | with_reducible apply State.runPairBarrier_moves
    | with_reducible apply State.runPairHandover_moves
    | with_reducible apply State.runPairJoin_moves
    | with_reducible apply State.runPairLeave_moves
    | with_reducible apply State.runPairQuery_moves
    | with_reducible apply State.runPairSetRank_moves
    | with_reducible apply State.runScheduleCommit_moves
    | with_reducible apply State.runSetShare_moves
    | with_reducible apply State.runTapRecord_moves
    | with_reducible apply State.runTunnelRx_moves
    | with_reducible apply State.runTunnelTx_moves
    | with_reducible apply State.runVfFreeze_moves
    | with_reducible apply State.runVfGrant_moves
    | with_reducible apply State.runVfRestore_moves
    | with_reducible apply State.runVfSave_moves
    | with_reducible apply State.runVfThaw_moves
    | split)

theorem State.entryStart_moves {l_ : List Part} {z_ : State} {s : State} {fn : ℕ} {sq : ℕ} {h : HostData} (h_ : Moves l_ z_ s) (hl_ : Part.sub [.regs, .lx, .tree, .ts, .ebm, .bus, .qe, .bm, .xb, .fn, .mre, .gd, .sv, .pu, .ck, .free, .out] l_ = true) :
    Moves l_ z_ (State.entryStart s fn sq h) := by
  refine h_.step ?_ hl_
  clear h_ hl_
  have h_ := Moves.refl [.regs, .lx, .tree, .ts, .ebm, .bus, .qe, .bm, .xb, .fn, .mre, .gd, .sv, .pu, .ck, .free, .out] s
  unfold State.entryStart
  repeat' (first
    | with_reducible assumption
    | intro _
    | exact (rfl : _ = true)
    | with_reducible apply State.runEntry_moves
    | with_reducible apply State.startEntry_moves
    | split
    | with_reducible apply Moves.qe)

theorem State.startWith_moves {l_ : List Part} {z_ : State} {s : State} {r : EntryRef} {e : Sqe} {run : State → State}
    (h_ : Moves l_ z_ s) (hl_ : Part.sub [.regs, .qe, .bm, .xb, .fn, .out] l_ = true) (hf : ∀ t, Moves l_ z_ t → Moves l_ z_ (run t)) :
    Moves l_ z_ (State.startWith s r e run) := Moves.ite (fun _ => State.startEntry_moves h_ hl_ hf) (fun _ => h_)

theorem execAuditStart_moves {t_ : State} {r : EntryRef} {e : Sqe} {s : State} (e_ : execAuditStart r e s = .next t_) : Moves [.regs, .lx, .tree, .ts, .ebm, .bus, .qe, .bm, .xb, .fn, .mre, .gd, .sv, .pu, .ck, .free, .out] s t_ := by
  have h_ := Moves.refl [.regs, .lx, .tree, .ts, .ebm, .bus, .qe, .bm, .xb, .fn, .mre, .gd, .sv, .pu, .ck, .free, .out] s
  unfold execAuditStart at e_
  injection e_ with e_
  subst e_
  repeat' (first
    | with_reducible assumption
    | intro _
    | exact (rfl : _ = true)
    | with_reducible apply State.runAuditStart_moves
    | with_reducible apply State.startWith_moves)

theorem execBulkIn_moves {t_ : State} {r : EntryRef} {e : Sqe} {s : State} (e_ : execBulkIn r e s = .next t_) : Moves [.regs, .lx, .tree, .ts, .ebm, .bus, .qe, .bm, .xb, .fn, .mre, .pu, .ck, .out] s t_ := by
  have h_ := Moves.refl [.regs, .lx, .tree, .ts, .ebm, .bus, .qe, .bm, .xb, .fn, .mre, .pu, .ck, .out] s
  unfold execBulkIn at e_
  injection e_ with e_
  subst e_
  repeat' (first
    | with_reducible assumption
    | intro _
    | exact (rfl : _ = true)
    | with_reducible apply State.runBulkIn_moves
    | with_reducible apply State.startWith_moves)

theorem execBulkOut_moves {t_ : State} {r : EntryRef} {e : Sqe} {s : State} (e_ : execBulkOut r e s = .next t_) : Moves [.regs, .lx, .tree, .ts, .ebm, .bus, .qe, .bm, .xb, .fn, .mre, .pu, .ck, .out] s t_ := by
  have h_ := Moves.refl [.regs, .lx, .tree, .ts, .ebm, .bus, .qe, .bm, .xb, .fn, .mre, .pu, .ck, .out] s
  unfold execBulkOut at e_
  injection e_ with e_
  subst e_
  repeat' (first
    | with_reducible assumption
    | intro _
    | exact (rfl : _ = true)
    | with_reducible apply State.runBulkOut_moves
    | with_reducible apply State.startWith_moves)

theorem execClipPlay_moves {t_ : State} {r : EntryRef} {e : Sqe} {s : State} (e_ : execClipPlay r e s = .next t_) : Moves [.regs, .lx, .tree, .ts, .ebm, .bus, .qe, .bm, .xb, .fn, .mre, .gd, .sv, .pu, .ck, .free, .out] s t_ := by
  have h_ := Moves.refl [.regs, .lx, .tree, .ts, .ebm, .bus, .qe, .bm, .xb, .fn, .mre, .gd, .sv, .pu, .ck, .free, .out] s
  unfold execClipPlay at e_
  injection e_ with e_
  subst e_
  repeat' (first
    | with_reducible assumption
    | intro _
    | exact (rfl : _ = true)
    | with_reducible apply State.runClipPlay_moves
    | with_reducible apply State.startWith_moves)

theorem execClipStop_moves {t_ : State} {r : EntryRef} {e : Sqe} {s : State} (e_ : execClipStop r e s = .next t_) : Moves [.regs, .lx, .tree, .ts, .ebm, .bus, .qe, .bm, .xb, .fn, .mre, .gd, .sv, .pu, .ck, .free, .out] s t_ := by
  have h_ := Moves.refl [.regs, .lx, .tree, .ts, .ebm, .bus, .qe, .bm, .xb, .fn, .mre, .gd, .sv, .pu, .ck, .free, .out] s
  unfold execClipStop at e_
  injection e_ with e_
  subst e_
  repeat' (first
    | with_reducible assumption
    | intro _
    | exact (rfl : _ = true)
    | with_reducible apply State.runClipStop_moves
    | with_reducible apply State.startWith_moves)

theorem execControl_moves {t_ : State} {r : EntryRef} {e : Sqe} {s : State} (e_ : execControl r e s = .next t_) : Moves [.regs, .lx, .tree, .ts, .ebm, .bus, .qe, .bm, .xb, .fn, .mre, .pu, .ck, .free, .out] s t_ := by
  have h_ := Moves.refl [.regs, .lx, .tree, .ts, .ebm, .bus, .qe, .bm, .xb, .fn, .mre, .pu, .ck, .free, .out] s
  unfold execControl at e_
  injection e_ with e_
  subst e_
  repeat' (first
    | with_reducible assumption
    | intro _
    | exact (rfl : _ = true)
    | with_reducible apply State.runControl_moves
    | with_reducible apply State.startWith_moves)

theorem execCreateCq_moves {t_ : State} {r : EntryRef} {e : Sqe} {clean : Bool} {s : State} (e_ : execCreateCq r e clean s = .next t_) : Moves [.regs, .qe, .bm, .xb, .fn, .free, .out] s t_ := by
  have h_ := Moves.refl [.regs, .qe, .bm, .xb, .fn, .free, .out] s
  unfold execCreateCq at e_
  injection e_ with e_
  subst e_
  repeat' (first
    | with_reducible assumption
    | intro _
    | exact (rfl : _ = true)
    | with_reducible apply State.runCreateCq_moves
    | with_reducible apply State.startWith_moves)

theorem execCreateSq_moves {t_ : State} {r : EntryRef} {e : Sqe} {s : State} (e_ : execCreateSq r e s = .next t_) : Moves [.regs, .qe, .bm, .xb, .fn, .free, .out] s t_ := by
  have h_ := Moves.refl [.regs, .qe, .bm, .xb, .fn, .free, .out] s
  unfold execCreateSq at e_
  injection e_ with e_
  subst e_
  repeat' (first
    | with_reducible assumption
    | intro _
    | exact (rfl : _ = true)
    | with_reducible apply State.runCreateSq_moves
    | with_reducible apply State.startWith_moves)

theorem execDeleteCq_moves {t_ : State} {r : EntryRef} {e : Sqe} {s : State} (e_ : execDeleteCq r e s = .next t_) : Moves [.regs, .qe, .bm, .xb, .fn, .out] s t_ := by
  have h_ := Moves.refl [.regs, .qe, .bm, .xb, .fn, .out] s
  unfold execDeleteCq at e_
  injection e_ with e_
  subst e_
  repeat' (first
    | with_reducible assumption
    | intro _
    | exact (rfl : _ = true)
    | with_reducible apply State.runDeleteCq_moves
    | with_reducible apply State.startWith_moves)

theorem execDeleteSq_moves {t_ : State} {r : EntryRef} {e : Sqe} {s : State} (e_ : execDeleteSq r e s = .next t_) : Moves [.regs, .qe, .bm, .xb, .fn, .out] s t_ := by
  have h_ := Moves.refl [.regs, .qe, .bm, .xb, .fn, .out] s
  unfold execDeleteSq at e_
  injection e_ with e_
  subst e_
  repeat' (first
    | with_reducible assumption
    | intro _
    | exact (rfl : _ = true)
    | with_reducible apply State.runDeleteSq_moves
    | with_reducible apply State.startWith_moves)

theorem execDmaWindowSet_moves {t_ : State} {r : EntryRef} {e : Sqe} {s : State} (e_ : execDmaWindowSet r e s = .next t_) : Moves [.regs, .qe, .bm, .xb, .fn, .out] s t_ := by
  have h_ := Moves.refl [.regs, .qe, .bm, .xb, .fn, .out] s
  unfold execDmaWindowSet at e_
  injection e_ with e_
  subst e_
  repeat' (first
    | with_reducible assumption
    | intro _
    | exact (rfl : _ = true)
    | with_reducible apply State.runDmaWindowSet_moves
    | with_reducible apply State.startWith_moves)

theorem execEndpointAdd_moves {t_ : State} {r : EntryRef} {e : StageSqe} {s : State} (e_ : execEndpointAdd r e s = .next t_) : Moves [.regs, .lx, .tree, .ts, .ebm, .bus, .qe, .bm, .xb, .fn, .mre, .gd, .sv, .pu, .ck, .free, .out] s t_ := by
  have h_ := Moves.refl [.regs, .lx, .tree, .ts, .ebm, .bus, .qe, .bm, .xb, .fn, .mre, .gd, .sv, .pu, .ck, .free, .out] s
  unfold execEndpointAdd at e_
  injection e_ with e_
  subst e_
  repeat' (first
    | with_reducible assumption
    | intro _
    | exact (rfl : _ = true)
    | with_reducible apply State.runEndpointAdd_moves
    | with_reducible apply State.stageHit_moves
    | with_reducible apply State.startWith_moves
    | split)

theorem execEndpointRemove_moves {t_ : State} {r : EntryRef} {e : StageSqe} {s : State} (e_ : execEndpointRemove r e s = .next t_) : Moves [.regs, .lx, .tree, .ts, .ebm, .bus, .qe, .bm, .xb, .fn, .mre, .gd, .sv, .pu, .ck, .free, .out] s t_ := by
  have h_ := Moves.refl [.regs, .lx, .tree, .ts, .ebm, .bus, .qe, .bm, .xb, .fn, .mre, .gd, .sv, .pu, .ck, .free, .out] s
  unfold execEndpointRemove at e_
  injection e_ with e_
  subst e_
  repeat' (first
    | with_reducible assumption
    | intro _
    | exact (rfl : _ = true)
    | with_reducible apply State.runEndpointRemove_moves
    | with_reducible apply State.stageHit_moves
    | with_reducible apply State.startWith_moves
    | split)

theorem execEngineRestart_moves {t_ : State} {r : EntryRef} {e : Sqe} {s : State} (e_ : execEngineRestart r e s = .next t_) : Moves [.regs, .qe, .bm, .xb, .fn, .out] s t_ := by
  have h_ := Moves.refl [.regs, .qe, .bm, .xb, .fn, .out] s
  unfold execEngineRestart at e_
  injection e_ with e_
  subst e_
  repeat' (first
    | with_reducible assumption
    | intro _
    | exact (rfl : _ = true)
    | with_reducible apply State.runEngineRestart_moves
    | with_reducible apply State.startWith_moves)

theorem State.entryLost_moves {l_ : List Part} {z_ : State} {s : State} {fn : ℕ} {sq : ℕ} (h_ : Moves l_ z_ s) (hl_ : Part.sub [.regs, .qe, .bm, .xb, .fn, .out] l_ = true) :
    Moves l_ z_ (State.entryLost s fn sq) := by
  refine h_.step ?_ hl_
  clear h_ hl_
  have h_ := Moves.refl [.regs, .qe, .bm, .xb, .fn, .out] s
  unfold State.entryLost
  repeat' (first
    | with_reducible assumption
    | intro _
    | with_reducible apply Moves.ite
    | exact (rfl : _ = true)
    | with_reducible apply State.aer_moves
    | with_reducible apply State.bump_moves
    | with_reducible apply State.captureError_moves
    | with_reducible apply State.complete_moves
    | with_reducible apply State.serveSpace_moves
    | with_reducible apply State.startRec_moves
    | split
    | with_reducible apply Moves.qe)

theorem State.entryRead_moves {l_ : List Part} {z_ : State} {s : State} {fn : ℕ} {sq : ℕ} {h : EntryRead} (h_ : Moves l_ z_ s) (hl_ : Part.sub [.regs, .lx, .tree, .ts, .ebm, .bus, .qe, .bm, .xb, .fn, .mre, .gd, .sv, .pu, .ck, .free, .out] l_ = true) :
    Moves l_ z_ (State.entryRead s fn sq h) := by
  refine h_.step ?_ hl_
  clear h_ hl_
  have h_ := Moves.refl [.regs, .lx, .tree, .ts, .ebm, .bus, .qe, .bm, .xb, .fn, .mre, .gd, .sv, .pu, .ck, .free, .out] s
  unfold State.entryRead
  repeat' (first
    | with_reducible assumption
    | intro _
    | with_reducible apply Moves.ite
    | exact (rfl : _ = true)
    | with_reducible apply State.aer_moves
    | with_reducible apply State.bump_moves
    | with_reducible apply State.entryLost_moves
    | with_reducible apply State.entryStart_moves
    | split)

theorem execEntryStart_moves {t_ : State} {fn : FnId} {sq : BitVec 11} {h : EntryRead} {s : State} (e_ : execEntryStart fn sq h s = .next t_) : Moves [.regs, .lx, .tree, .ts, .ebm, .bus, .qe, .bm, .xb, .fn, .mre, .gd, .sv, .pu, .ck, .free, .out] s t_ := by
  have h_ := Moves.refl [.regs, .lx, .tree, .ts, .ebm, .bus, .qe, .bm, .xb, .fn, .mre, .gd, .sv, .pu, .ck, .free, .out] s
  unfold execEntryStart at e_
  injection e_ with e_
  subst e_
  repeat' (first
    | with_reducible assumption
    | intro _
    | exact (rfl : _ = true)
    | with_reducible apply State.entryRead_moves
    | split)

theorem execFence_moves {t_ : State} {r : EntryRef} {e : Sqe} {s : State} (e_ : execFence r e s = .next t_) : Moves [.regs, .qe, .bm, .xb, .fn, .out] s t_ := by
  have h_ := Moves.refl [.regs, .qe, .bm, .xb, .fn, .out] s
  unfold execFence at e_
  injection e_ with e_
  subst e_
  repeat' (first
    | with_reducible assumption
    | intro _
    | exact (rfl : _ = true)
    | with_reducible apply State.runFence_moves
    | with_reducible apply State.startWith_moves)

theorem execGetLog_moves {t_ : State} {r : EntryRef} {e : Sqe} {s : State} (e_ : execGetLog r e s = .next t_) : Moves [.regs, .qe, .bm, .xb, .fn, .free, .out] s t_ := by
  have h_ := Moves.refl [.regs, .qe, .bm, .xb, .fn, .free, .out] s
  unfold execGetLog at e_
  injection e_ with e_
  subst e_
  repeat' (first
    | with_reducible assumption
    | intro _
    | exact (rfl : _ = true)
    | with_reducible apply State.runGetLog_moves
    | with_reducible apply State.startWith_moves)

theorem execGraphLoad_moves {t_ : State} {r : EntryRef} {e : Sqe} {img : ImageFile} {s : State} (e_ : execGraphLoad r e img s = .next t_) : Moves [.regs, .lx, .tree, .ts, .ebm, .bus, .qe, .bm, .xb, .fn, .mre, .gd, .sv, .pu, .ck, .free, .out] s t_ := by
  have h_ := Moves.refl [.regs, .lx, .tree, .ts, .ebm, .bus, .qe, .bm, .xb, .fn, .mre, .gd, .sv, .pu, .ck, .free, .out] s
  unfold execGraphLoad at e_
  injection e_ with e_
  subst e_
  repeat' (first
    | with_reducible assumption
    | intro _
    | exact (rfl : _ = true)
    | with_reducible apply State.runGraphLoad_moves
    | with_reducible apply State.startWith_moves)

theorem execGraphSwap_moves {t_ : State} {r : EntryRef} {e : Sqe} {s : State} (e_ : execGraphSwap r e s = .next t_) : Moves [.regs, .lx, .tree, .ts, .ebm, .bus, .qe, .bm, .xb, .fn, .mre, .gd, .sv, .pu, .ck, .free, .out] s t_ := by
  have h_ := Moves.refl [.regs, .lx, .tree, .ts, .ebm, .bus, .qe, .bm, .xb, .fn, .mre, .gd, .sv, .pu, .ck, .free, .out] s
  unfold execGraphSwap at e_
  injection e_ with e_
  subst e_
  repeat' (first
    | with_reducible assumption
    | intro _
    | exact (rfl : _ = true)
    | with_reducible apply State.runGraphSwap_moves
    | with_reducible apply State.startWith_moves)

theorem execGroupSet_moves {t_ : State} {r : EntryRef} {e : StageSqe} {s : State} (e_ : execGroupSet r e s = .next t_) : Moves [.regs, .lx, .tree, .ts, .ebm, .bus, .qe, .bm, .xb, .fn, .mre, .gd, .sv, .pu, .ck, .free, .out] s t_ := by
  have h_ := Moves.refl [.regs, .lx, .tree, .ts, .ebm, .bus, .qe, .bm, .xb, .fn, .mre, .gd, .sv, .pu, .ck, .free, .out] s
  unfold execGroupSet at e_
  injection e_ with e_
  subst e_
  repeat' (first
    | with_reducible assumption
    | intro _
    | exact (rfl : _ = true)
    | with_reducible apply State.runGroupSet_moves
    | with_reducible apply State.stageHit_moves
    | with_reducible apply State.startWith_moves
    | split)

theorem execIdentify_moves {t_ : State} {r : EntryRef} {e : Sqe} {s : State} (e_ : execIdentify r e s = .next t_) : Moves [.regs, .qe, .bm, .xb, .fn, .out] s t_ := by
  have h_ := Moves.refl [.regs, .qe, .bm, .xb, .fn, .out] s
  unfold execIdentify at e_
  injection e_ with e_
  subst e_
  repeat' (first
    | with_reducible assumption
    | intro _
    | exact (rfl : _ = true)
    | with_reducible apply State.runIdentify_moves
    | with_reducible apply State.startWith_moves)

theorem execMove_moves {t_ : State} {r : EntryRef} {e : Sqe} {s : State} (e_ : execMove r e s = .next t_) : Moves [.regs, .qe, .bm, .xb, .fn, .out] s t_ := by
  have h_ := Moves.refl [.regs, .qe, .bm, .xb, .fn, .out] s
  unfold execMove at e_
  injection e_ with e_
  subst e_
  repeat' (first
    | with_reducible assumption
    | intro _
    | exact (rfl : _ = true)
    | with_reducible apply State.runMove_moves
    | with_reducible apply State.startWith_moves)

theorem execMoveIndexed_moves {t_ : State} {r : EntryRef} {e : Sqe} {s : State} (e_ : execMoveIndexed r e s = .next t_) : Moves [.regs, .qe, .bm, .xb, .fn, .out] s t_ := by
  have h_ := Moves.refl [.regs, .qe, .bm, .xb, .fn, .out] s
  unfold execMoveIndexed at e_
  injection e_ with e_
  subst e_
  repeat' (first
    | with_reducible assumption
    | intro _
    | exact (rfl : _ = true)
    | with_reducible apply State.runMoveIndexed_moves
    | with_reducible apply State.startWith_moves)

theorem execNop_moves {t_ : State} {r : EntryRef} {e : Sqe} {s : State} (e_ : execNop r e s = .next t_) : Moves [.regs, .qe, .bm, .xb, .fn, .out] s t_ := by
  have h_ := Moves.refl [.regs, .qe, .bm, .xb, .fn, .out] s
  unfold execNop at e_
  injection e_ with e_
  subst e_
  repeat' (first
    | with_reducible assumption
    | intro _
    | exact (rfl : _ = true)
    | with_reducible apply State.runNop_moves
    | with_reducible apply State.startWith_moves)

theorem execPairBarrier_moves {t_ : State} {r : EntryRef} {e : Sqe} {s : State} (e_ : execPairBarrier r e s = .next t_) : Moves [.regs, .qe, .bm, .xb, .fn, .pu, .out] s t_ := by
  have h_ := Moves.refl [.regs, .qe, .bm, .xb, .fn, .pu, .out] s
  unfold execPairBarrier at e_
  injection e_ with e_
  subst e_
  repeat' (first
    | with_reducible assumption
    | intro _
    | exact (rfl : _ = true)
    | with_reducible apply State.runPairBarrier_moves
    | with_reducible apply State.startWith_moves)

theorem execPairHandover_moves {t_ : State} {r : EntryRef} {e : Sqe} {s : State} (e_ : execPairHandover r e s = .next t_) : Moves [.regs, .qe, .bm, .xb, .fn, .pu, .out] s t_ := by
  have h_ := Moves.refl [.regs, .qe, .bm, .xb, .fn, .pu, .out] s
  unfold execPairHandover at e_
  injection e_ with e_
  subst e_
  repeat' (first
    | with_reducible assumption
    | intro _
    | exact (rfl : _ = true)
    | with_reducible apply State.runPairHandover_moves
    | with_reducible apply State.startWith_moves)

theorem execPairJoin_moves {t_ : State} {r : EntryRef} {e : Sqe} {s : State} (e_ : execPairJoin r e s = .next t_) : Moves [.regs, .lx, .tree, .ts, .ebm, .bus, .qe, .bm, .xb, .fn, .mre, .pu, .ck, .out] s t_ := by
  have h_ := Moves.refl [.regs, .lx, .tree, .ts, .ebm, .bus, .qe, .bm, .xb, .fn, .mre, .pu, .ck, .out] s
  unfold execPairJoin at e_
  injection e_ with e_
  subst e_
  repeat' (first
    | with_reducible assumption
    | intro _
    | exact (rfl : _ = true)
    | with_reducible apply State.runPairJoin_moves
    | with_reducible apply State.startWith_moves)

theorem execPairLeave_moves {t_ : State} {r : EntryRef} {e : Sqe} {s : State} (e_ : execPairLeave r e s = .next t_) : Moves [.regs, .qe, .bm, .xb, .fn, .pu, .out] s t_ := by
  have h_ := Moves.refl [.regs, .qe, .bm, .xb, .fn, .pu, .out] s
  unfold execPairLeave at e_
  injection e_ with e_
  subst e_
  repeat' (first
    | with_reducible assumption
    | intro _
    | exact (rfl : _ = true)
    | with_reducible apply State.runPairLeave_moves
    | with_reducible apply State.startWith_moves)

theorem execPairQuery_moves {t_ : State} {r : EntryRef} {e : Sqe} {s : State} (e_ : execPairQuery r e s = .next t_) : Moves [.regs, .qe, .bm, .xb, .fn, .out] s t_ := by
  have h_ := Moves.refl [.regs, .qe, .bm, .xb, .fn, .out] s
  unfold execPairQuery at e_
  injection e_ with e_
  subst e_
  repeat' (first
    | with_reducible assumption
    | intro _
    | exact (rfl : _ = true)
    | with_reducible apply State.runPairQuery_moves
    | with_reducible apply State.startWith_moves)

theorem execPairSetRank_moves {t_ : State} {r : EntryRef} {e : Sqe} {s : State} (e_ : execPairSetRank r e s = .next t_) : Moves [.regs, .qe, .bm, .xb, .fn, .pu, .out] s t_ := by
  have h_ := Moves.refl [.regs, .qe, .bm, .xb, .fn, .pu, .out] s
  unfold execPairSetRank at e_
  injection e_ with e_
  subst e_
  repeat' (first
    | with_reducible assumption
    | intro _
    | exact (rfl : _ = true)
    | with_reducible apply State.runPairSetRank_moves
    | with_reducible apply State.startWith_moves)

theorem execScheduleCommit_moves {t_ : State} {r : EntryRef} {e : Sqe} {s : State} (e_ : execScheduleCommit r e s = .next t_) : Moves [.regs, .lx, .tree, .ts, .ebm, .bus, .qe, .bm, .xb, .fn, .mre, .gd, .sv, .pu, .ck, .free, .out] s t_ := by
  have h_ := Moves.refl [.regs, .lx, .tree, .ts, .ebm, .bus, .qe, .bm, .xb, .fn, .mre, .gd, .sv, .pu, .ck, .free, .out] s
  unfold execScheduleCommit at e_
  injection e_ with e_
  subst e_
  repeat' (first
    | with_reducible assumption
    | intro _
    | exact (rfl : _ = true)
    | with_reducible apply State.runScheduleCommit_moves
    | with_reducible apply State.startWith_moves)

theorem execSetShare_moves {t_ : State} {r : EntryRef} {e : Sqe} {s : State} (e_ : execSetShare r e s = .next t_) : Moves [.regs, .lx, .tree, .ts, .ebm, .bus, .qe, .bm, .xb, .fn, .mre, .gd, .sv, .pu, .ck, .free, .out] s t_ := by
  have h_ := Moves.refl [.regs, .lx, .tree, .ts, .ebm, .bus, .qe, .bm, .xb, .fn, .mre, .gd, .sv, .pu, .ck, .free, .out] s
  unfold execSetShare at e_
  injection e_ with e_
  subst e_
  repeat' (first
    | with_reducible assumption
    | intro _
    | exact (rfl : _ = true)
    | with_reducible apply State.runSetShare_moves
    | with_reducible apply State.startWith_moves)

theorem execTapRecord_moves {t_ : State} {r : EntryRef} {e : Sqe} {s : State} (e_ : execTapRecord r e s = .next t_) : Moves [.regs, .qe, .bm, .xb, .fn, .mre, .out] s t_ := by
  have h_ := Moves.refl [.regs, .qe, .bm, .xb, .fn, .mre, .out] s
  unfold execTapRecord at e_
  injection e_ with e_
  subst e_
  repeat' (first
    | with_reducible assumption
    | intro _
    | exact (rfl : _ = true)
    | with_reducible apply State.runTapRecord_moves
    | with_reducible apply State.startWith_moves)

theorem execTunnelRx_moves {t_ : State} {r : EntryRef} {e : Sqe} {s : State} (e_ : execTunnelRx r e s = .next t_) : Moves [.regs, .lx, .tree, .ts, .ebm, .bus, .qe, .bm, .xb, .fn, .mre, .pu, .ck, .out] s t_ := by
  have h_ := Moves.refl [.regs, .lx, .tree, .ts, .ebm, .bus, .qe, .bm, .xb, .fn, .mre, .pu, .ck, .out] s
  unfold execTunnelRx at e_
  injection e_ with e_
  subst e_
  repeat' (first
    | with_reducible assumption
    | intro _
    | exact (rfl : _ = true)
    | with_reducible apply State.runTunnelRx_moves
    | with_reducible apply State.startWith_moves)

theorem execTunnelTx_moves {t_ : State} {r : EntryRef} {e : Sqe} {s : State} (e_ : execTunnelTx r e s = .next t_) : Moves [.regs, .lx, .tree, .ts, .ebm, .bus, .qe, .bm, .xb, .fn, .mre, .pu, .ck, .out] s t_ := by
  have h_ := Moves.refl [.regs, .lx, .tree, .ts, .ebm, .bus, .qe, .bm, .xb, .fn, .mre, .pu, .ck, .out] s
  unfold execTunnelTx at e_
  injection e_ with e_
  subst e_
  repeat' (first
    | with_reducible assumption
    | intro _
    | exact (rfl : _ = true)
    | with_reducible apply State.runTunnelTx_moves
    | with_reducible apply State.startWith_moves)

theorem execVfFreeze_moves {t_ : State} {r : EntryRef} {e : Sqe} {s : State} (e_ : execVfFreeze r e s = .next t_) : Moves [.regs, .ts, .ebm, .bus, .qe, .bm, .xb, .fn, .mre, .out] s t_ := by
  have h_ := Moves.refl [.regs, .ts, .ebm, .bus, .qe, .bm, .xb, .fn, .mre, .out] s
  unfold execVfFreeze at e_
  injection e_ with e_
  subst e_
  repeat' (first
    | with_reducible assumption
    | intro _
    | exact (rfl : _ = true)
    | with_reducible apply State.runVfFreeze_moves
    | with_reducible apply State.startWith_moves)

theorem execVfGrant_moves {t_ : State} {r : EntryRef} {e : Sqe} {record : List Byte} {s : State} (e_ : execVfGrant r e record s = .next t_) : Moves [.regs, .lx, .tree, .ts, .ebm, .bus, .qe, .bm, .xb, .fn, .mre, .gd, .sv, .pu, .ck, .free, .out] s t_ := by
  have h_ := Moves.refl [.regs, .lx, .tree, .ts, .ebm, .bus, .qe, .bm, .xb, .fn, .mre, .gd, .sv, .pu, .ck, .free, .out] s
  unfold execVfGrant at e_
  injection e_ with e_
  subst e_
  repeat' (first
    | with_reducible assumption
    | intro _
    | exact (rfl : _ = true)
    | with_reducible apply State.runVfGrant_moves
    | with_reducible apply State.startWith_moves)

theorem execVfRestore_moves {t_ : State} {r : EntryRef} {e : Sqe} {blob : List Byte} {s : State} (e_ : execVfRestore r e blob s = .next t_) : Moves [.regs, .qe, .bm, .xb, .fn, .free, .out] s t_ := by
  have h_ := Moves.refl [.regs, .qe, .bm, .xb, .fn, .free, .out] s
  unfold execVfRestore at e_
  injection e_ with e_
  subst e_
  repeat' (first
    | with_reducible assumption
    | intro _
    | exact (rfl : _ = true)
    | with_reducible apply State.runVfRestore_moves
    | with_reducible apply State.startWith_moves)

theorem execVfSave_moves {t_ : State} {r : EntryRef} {e : Sqe} {s : State} (e_ : execVfSave r e s = .next t_) : Moves [.regs, .ebm, .bus, .qe, .bm, .xb, .fn, .mre, .gd, .pu, .out] s t_ := by
  have h_ := Moves.refl [.regs, .ebm, .bus, .qe, .bm, .xb, .fn, .mre, .gd, .pu, .out] s
  unfold execVfSave at e_
  injection e_ with e_
  subst e_
  repeat' (first
    | with_reducible assumption
    | intro _
    | exact (rfl : _ = true)
    | with_reducible apply State.runVfSave_moves
    | with_reducible apply State.startWith_moves)

theorem execVfThaw_moves {t_ : State} {r : EntryRef} {e : Sqe} {s : State} (e_ : execVfThaw r e s = .next t_) : Moves [.regs, .qe, .bm, .xb, .fn, .out] s t_ := by
  have h_ := Moves.refl [.regs, .qe, .bm, .xb, .fn, .out] s
  unfold execVfThaw at e_
  injection e_ with e_
  subst e_
  repeat' (first
    | with_reducible assumption
    | intro _
    | exact (rfl : _ = true)
    | with_reducible apply State.runVfThaw_moves
    | with_reducible apply State.startWith_moves)

end Sys2Proof.Machine
end

