-- ==== Sys2Proof/Laws/PowerMoves.lean ====
section
/-! SUPPORT. What the operations of Machine/Power.lean may touch. -/

set_option Elab.async false
set_option linter.unusedTactic false
set_option linter.unreachableTactic false

namespace Sys2Proof.Machine

theorem State.acceptDormant_moves {l_ : List Part} {z_ : State} {s : State} (h_ : Moves l_ z_ s) (hl_ : Part.sub [.regs, .qe, .pu, .pm] l_ = true) :
    Moves l_ z_ (State.acceptDormant s) := by
  refine h_.step ?_ hl_
  clear h_ hl_
  have h_ := Moves.refl [.regs, .qe, .pu, .pm] s
  unfold State.acceptDormant
  repeat' (first
    | with_reducible assumption
    | intro _
    | with_reducible apply Moves.foldl
    | exact (rfl : _ = true)
    | with_reducible apply State.abdicate_moves
    | with_reducible apply State.discardCached_moves
    | with_reducible apply State.updPm_moves
    | with_reducible apply State.keepDoorbell_moves
    | with_reducible apply State.when_moves)

theorem State.acceptSatin_moves {l_ : List Part} {z_ : State} {s : State} (h_ : Moves l_ z_ s) (hl_ : Part.sub [.regs, .lx, .qe, .bm, .xb, .fn, .gd, .sv, .pu, .pm, .ck, .free, .out] l_ = true) :
    Moves l_ z_ (State.acceptSatin s) := by
  refine h_.step ?_ hl_
  clear h_ hl_
  have h_ := Moves.refl [.regs, .lx, .qe, .bm, .xb, .fn, .gd, .sv, .pu, .pm, .ck, .free, .out] s
  unfold State.acceptSatin
  repeat' (first
    | with_reducible assumption
    | intro _
    | with_reducible apply Moves.ite
    | exact (rfl : _ = true)
    | with_reducible apply State.abortAudit_moves
    | with_reducible apply State.pairSwitch_moves
    | with_reducible apply State.updPm_moves
    | with_reducible apply State.savePoints_moves)

theorem State.enterLpi_moves {l_ : List Part} {z_ : State} {s : State} {t : Nat} (h_ : Moves l_ z_ s) (hl_ : Part.sub [.regs, .lx, .ck, .out] l_ = true) :
    Moves l_ z_ (State.enterLpi s t) := by
  refine h_.step ?_ hl_
  clear h_ hl_
  have h_ := Moves.refl [.regs, .lx, .ck, .out] s
  unfold State.enterLpi
  repeat' (first
    | with_reducible assumption
    | intro _
    | with_reducible apply Moves.ite
    | with_reducible apply Moves.foldl
    | exact (rfl : _ = true)
    | with_reducible apply State.emit_moves
    | with_reducible apply State.setB_moves
    | with_reducible apply State.setLane_moves
    | with_reducible apply State.updTrunk_moves
    | split)

theorem State.alarm_moves {l_ : List Part} {z_ : State} {s : State} (h_ : Moves l_ z_ s) (hl_ : Part.sub [.regs, .qe, .fn, .pu, .pm, .out] l_ = true) :
    Moves l_ z_ (State.alarm s) := by
  refine h_.step ?_ hl_
  clear h_ hl_
  have h_ := Moves.refl [.regs, .qe, .fn, .pu, .pm, .out] s
  unfold State.alarm
  repeat' (first
    | with_reducible assumption
    | intro _
    | with_reducible apply Moves.ite
    | exact (rfl : _ = true)
    | with_reducible apply State.wake_moves)

theorem State.applyAon_moves {l_ : List Part} {z_ : State} {s : State} (h_ : Moves l_ z_ s) (hl_ : Part.sub [.regs, .fn, .pm, .out] l_ = true) :
    Moves l_ z_ (State.applyAon s) := by
  refine h_.step ?_ hl_
  clear h_ hl_
  have h_ := Moves.refl [.regs, .fn, .pm, .out] s
  unfold State.applyAon
  repeat' (first
    | with_reducible assumption
    | exact (rfl : _ = true)
    | with_reducible apply State.bump_moves
    | with_reducible apply State.gatedAccess_moves
    | with_reducible apply State.updPm_moves
    | split)

theorem State.cutGeneral_moves {l_ : List Part} {z_ : State} {s : State} {m : ℕ} (h_ : Moves l_ z_ s) (hl_ : Part.sub [.regs, .ebm, .mre, .gd, .sv] l_ = true) :
    Moves l_ z_ (State.cutGeneral s m) := by
  refine h_.step ?_ hl_
  clear h_ hl_
  have h_ := Moves.refl [.regs, .ebm, .mre, .gd, .sv] s
  unfold State.cutGeneral
  repeat' (first
    | with_reducible assumption
    | intro _
    | with_reducible apply Moves.foldl
    | exact (rfl : _ = true)
    | with_reducible apply State.alignNodes_moves
    | with_reducible apply State.forAll_moves
    | with_reducible apply State.showQ_moves
    | with_reducible apply State.release_moves
    | split
    | with_reducible apply Moves.gd)

theorem State.discardHeld_moves {l_ : List Part} {z_ : State} {s : State} (h_ : Moves l_ z_ s) (hl_ : Part.sub [.regs, .tree, .qe, .fn, .sv, .pu, .out] l_ = true) :
    Moves l_ z_ (State.discardHeld s) := by
  refine h_.step ?_ hl_
  clear h_ hl_
  have h_ := Moves.refl [.regs, .tree, .qe, .fn, .sv, .pu, .out] s
  unfold State.discardHeld
  repeat' (first
    | with_reducible assumption
    | intro _
    | with_reducible apply Moves.foldl
    | exact (rfl : _ = true)
    | with_reducible apply State.bump_moves
    | with_reducible apply State.setB_moves
    | with_reducible apply State.updCq_moves
    | with_reducible apply State.updPu_moves
    | with_reducible apply State.finishIdle_moves
    | with_reducible apply State.forAll_moves
    | with_reducible apply State.updVf_moves
    | split
    | with_reducible apply Moves.tree
    | with_reducible apply Moves.sv
    | ((with_reducible apply Moves.many); (on_goal 2 => (intro p hp; cases p <;> first | rfl | exact absurd hp (by decide)))))

theorem State.dropBus_moves {l_ : List Part} {z_ : State} {s : State} (h_ : Moves l_ z_ s) (hl_ : Part.sub [.regs, .tree, .ts, .ebm, .bus, .mre] l_ = true) :
    Moves l_ z_ (State.dropBus s) := by
  refine h_.step ?_ hl_
  clear h_ hl_
  have h_ := Moves.refl [.regs, .tree, .ts, .ebm, .bus, .mre] s
  unfold State.dropBus
  repeat' (first
    | with_reducible assumption
    | intro _
    | with_reducible apply Moves.foldl
    | exact (rfl : _ = true)
    | with_reducible apply State.dropXfer_moves
    | with_reducible apply State.showEnum_moves
    | with_reducible apply Moves.tree
    | with_reducible apply Moves.bus
    | ((with_reducible apply Moves.all); (on_goal 4 => (intro p hp; cases p <;> first | rfl | exact absurd hp (by decide)))))

theorem State.dvfsDone_moves {l_ : List Part} {z_ : State} {s : State} (h_ : Moves l_ z_ s) (hl_ : Part.sub [.regs, .gd, .pm] l_ = true) :
    Moves l_ z_ (State.dvfsDone s) := by
  refine h_.step ?_ hl_
  clear h_ hl_
  have h_ := Moves.refl [.regs, .gd, .pm] s
  unfold State.dvfsDone
  repeat' (first
    | with_reducible assumption
    | intro _
    | exact (rfl : _ = true)
    | with_reducible apply State.setB_moves
    | with_reducible apply State.setF_moves
    | with_reducible apply State.showSteady_moves
    | with_reducible apply State.updPm_moves
    | with_reducible apply State.markOp_moves
    | with_reducible apply State.when_moves
    | split)

theorem State.dvfsStep_moves {l_ : List Part} {z_ : State} {s : State} {d : ℕ} {kind : ℕ} {op : ℕ} (h_ : Moves l_ z_ s) (hl_ : Part.sub [.regs, .gd, .pm] l_ = true) :
    Moves l_ z_ (State.dvfsStep s d kind op) := by
  refine h_.step ?_ hl_
  clear h_ hl_
  have h_ := Moves.refl [.regs, .gd, .pm] s
  unfold State.dvfsStep
  repeat' (first
    | with_reducible assumption
    | intro _
    | with_reducible apply Moves.ite
    | exact (rfl : _ = true)
    | with_reducible apply State.bump_moves
    | with_reducible apply State.markOp_moves
    | with_reducible apply State.setB_moves
    | with_reducible apply State.setF_moves
    | with_reducible apply State.showSteady_moves
    | with_reducible apply State.updPm_moves
    | with_reducible apply State.when_moves)

theorem State.ebmReturns_moves {l_ : List Part} {z_ : State} {s : State}  (h_ : Moves l_ z_ s)
    (hl_ : Part.sub [.ebm] l_ = true) : Moves l_ z_ (State.ebmReturns s) := by
  have hf : ∀ t h c v, Moves l_ z_ t → Moves l_ z_ (State.setCf t h c v) := fun t h c v k => State.setCf_moves k (Part.sub_trans rfl hl_)
  unfold State.ebmReturns
  extract_lets keep src s1 src2 s2
  have h1 : Moves l_ z_ s1 := Moves.ebm h_ (Part.sub_trans rfl hl_) _ (fun o => Tbl.wf_keep keep o)
  have h2 : Moves l_ z_ s2 := h1.ebm (Part.sub_trans rfl hl_) _ id
  refine State.forAll_moves h2 (fun t n h => Moves.ite (fun _ => h) (fun _ => Moves.ite (fun _ => ?_) (fun _ => hf _ _ _ _ (hf _ _ _ _ h))))
  exact hf _ _ _ _ (hf _ _ _ _ (hf _ _ _ _ (hf _ _ _ _ h)))

theorem State.loseGraph_moves {l_ : List Part} {z_ : State} {s : State} (h_ : Moves l_ z_ s) (hl_ : Part.sub [.regs, .mre, .gd, .sv] l_ = true) :
    Moves l_ z_ (State.loseGraph s) := by
  refine h_.step ?_ hl_
  clear h_ hl_
  have h_ := Moves.refl [.regs, .mre, .gd, .sv] s
  unfold State.loseGraph
  repeat' (first
    | with_reducible assumption
    | intro _
    | with_reducible apply Moves.foldl
    | exact (rfl : _ = true)
    | with_reducible apply State.forAll_moves
    | with_reducible apply State.setB_moves
    | with_reducible apply State.setF_moves
    | with_reducible apply State.showLines_moves
    | with_reducible apply State.showQ_moves
    | with_reducible apply State.showRelease_moves
    | with_reducible apply State.setReg_moves
    | with_reducible apply Moves.mre
    | with_reducible apply Moves.gd
    | with_reducible apply Moves.sv
    | ((with_reducible apply Moves.many); (on_goal 2 => (intro p hp; cases p <;> first | rfl | exact absurd hp (by decide)))))

/-- The timebase, the endpoint buffer memory and the host link stop (R453). -/
theorem stopped_moves {l_ : List Part} {z_ t : State} (h : Moves l_ z_ t) (hl_ : Part.sub [.time, .ebm, .fn] l_ = true) :
    Moves l_ z_ { t with
      time := { t.time with run := false }, ebm := { t.ebm with powered := false }, fn := { t.fn with lostAt := some t.now } } :=
  h.step (a := [.time, .ebm, .fn]) ⟨⟨rfl, fun p hp => by cases p <;> first | rfl | exact absurd hp (by decide)⟩,
    id, List.suffix_refl _, Nat.le_refl _⟩ hl_

theorem State.enterDormant_moves {l_ : List Part} {z_ : State} {s : State}  (h_ : Moves l_ z_ s)
    (hl_ : Part.sub [.time, .regs, .lx, .tree, .ts, .ebm, .bus, .qe, .bm, .xb, .fn, .mre, .gd, .sv, .pu, .pm, .ck, .free, .out] l_ = true) : Moves l_ z_ (State.enterDormant s) := by
  have hb : ∀ t x, Moves l_ z_ t → Moves l_ z_ (State.setB t x false) := fun t x h => State.setB_moves h (Part.sub_trans rfl hl_)
  have hf : ∀ t x v, Moves l_ z_ t → Moves l_ z_ (State.setF t x v) := fun t x v h => State.setF_moves h (Part.sub_trans rfl hl_)
  have hu : ∀ t, Moves l_ z_ t → Moves l_ z_ (State.updCk t (fun c => { c with cascade := false, miodel := false })) := fun t h =>
    State.updCk_moves h (Part.sub_trans rfl hl_) id
  unfold State.enterDormant
  extract_lets a b c d e f g h i j k l m n o
  have ha : Moves l_ z_ a := Moves.ite (fun _ => State.pairStop_moves h_ (Part.sub_trans rfl hl_)) (fun _ => h_)
  clear_value a
  have hb' : Moves l_ z_ b := State.abortAudit_moves ha (Part.sub_trans rfl hl_)
  clear_value b
  have hd : Moves l_ z_ d := Moves.foldl (State.updPm_moves hb' (Part.sub_trans rfl hl_))
    (fun t x h => State.portSuspend_moves h (Part.sub_trans rfl hl_))
  clear_value d
  have he : Moves l_ z_ e := State.discardHeld_moves (State.loseGraph_moves (State.dropBus_moves hd (Part.sub_trans rfl hl_))
    (Part.sub_trans rfl hl_)) (Part.sub_trans rfl hl_)
  clear_value e
  have hf' : Moves l_ z_ f := State.updPm_moves he (Part.sub_trans rfl hl_)
  clear_value f
  have hg : Moves l_ z_ g := State.updPu_moves hf' (Part.sub_trans rfl hl_)
  clear_value g
  have hk : Moves l_ z_ k := stopped_moves hg (Part.sub_trans rfl hl_)
  clear_value k
  have hl : Moves l_ z_ l := hb _ _ (hb _ _ (hb _ _ hk))
  clear_value l
  have hm : Moves l_ z_ m := hf _ _ _ (hb _ _ (hb _ _ hl))
  clear_value m
  have hn : Moves l_ z_ n := hb _ _ (hb _ _ (hb _ _ hm))
  clear_value n
  have ho : Moves l_ z_ o := hf _ _ _ (hf _ _ _ (hb _ _ hn))
  clear_value o
  exact State.wakeLate_moves (State.endRequest_moves (hu _ (State.abandon_moves ho (Part.sub_trans rfl hl_))) (Part.sub_trans rfl hl_))
    (Part.sub_trans rfl hl_)

theorem State.replan_moves {l_ : List Part} {z_ : State} {s : State} {m : ℕ} (h_ : Moves l_ z_ s) (hl_ : Part.sub [.ts] l_ = true) :
    Moves l_ z_ (State.replan s m) := by
  refine h_.step ?_ hl_
  clear h_ hl_
  have h_ := Moves.refl [.ts] s
  unfold State.replan
  repeat' (first
    | with_reducible assumption
    | intro _
    | exact (rfl : _ = true)
    | with_reducible apply State.forAll_moves
    | with_reducible apply State.setWalk_moves)

theorem State.enterSatin_moves {l_ : List Part} {z_ : State} {s : State} (h_ : Moves l_ z_ s) (hl_ : Part.sub [.regs, .lx, .ts, .ebm, .qe, .bm, .xb, .fn, .mre, .gd, .sv, .pu, .pm, .ck, .free, .out] l_ = true) :
    Moves l_ z_ (State.enterSatin s) := by
  refine h_.step ?_ hl_
  clear h_ hl_
  have h_ := Moves.refl [.regs, .lx, .ts, .ebm, .qe, .bm, .xb, .fn, .mre, .gd, .sv, .pu, .pm, .ck, .free, .out] s
  unfold State.enterSatin
  repeat' (first
    | with_reducible assumption
    | intro _
    | with_reducible apply Moves.ite
    | with_reducible apply Moves.foldl
    | exact (rfl : _ = true)
    | with_reducible apply State.cutGeneral_moves
    | with_reducible apply State.endRequest_moves
    | with_reducible apply State.markOp_moves
    | with_reducible apply State.replan_moves
    | with_reducible apply State.setB_moves
    | with_reducible apply State.setF_moves
    | with_reducible apply State.setPoints_moves
    | with_reducible apply State.updPm_moves
    | with_reducible apply State.updPu_moves
    | with_reducible apply State.when_moves
    | with_reducible apply State.enterLpi_moves
    | with_reducible apply State.offer_moves
    | with_reducible apply State.abortAudit_moves
    | with_reducible apply State.endWaits_moves
    | with_reducible apply State.obsUpd_moves
    | with_reducible apply State.wakeLate_moves)

theorem State.logicReady_moves {l_ : List Part} {z_ : State} {s : State} {mf : ℕ} {ms : Word} (h_ : Moves l_ z_ s) (hl_ : Part.sub [.time, .regs, .lx, .tree, .qe, .fn, .gd, .pu, .pm, .ck, .free, .out] l_ = true) :
    Moves l_ z_ (State.logicReady s mf ms) := by
  refine h_.step ?_ hl_
  clear h_ hl_
  have h_ := Moves.refl [.time, .regs, .lx, .tree, .qe, .fn, .gd, .pu, .pm, .ck, .free, .out] s
  unfold State.logicReady
  repeat' (first
    | with_reducible assumption
    | intro _
    | with_reducible apply Moves.ite
    | with_reducible apply Moves.foldl
    | exact (rfl : _ = true)
    | with_reducible apply State.applyAon_moves
    | with_reducible apply State.freeRun_moves
    | with_reducible apply State.pairStart_moves
    | with_reducible apply State.portResume_moves
    | with_reducible apply State.reselect_moves
    | with_reducible apply State.setB_moves
    | with_reducible apply State.setF_moves
    | with_reducible apply State.setPoints_moves
    | with_reducible apply State.setReg_moves
    | with_reducible apply State.tmBegins_moves
    | with_reducible apply State.updPm_moves
    | with_reducible apply State.holdTimers_moves
    | with_reducible apply Moves.time
    | with_reducible apply Moves.fn)

theorem State.requestSleep_moves {l_ : List Part} {z_ : State} {s : State} {target : ℕ} {src : WakeSource} (h_ : Moves l_ z_ s) (hl_ : Part.sub [.regs, .lx, .qe, .bm, .xb, .fn, .gd, .sv, .pu, .pm, .ck, .free, .out] l_ = true) :
    Moves l_ z_ (State.requestSleep s target src) := by
  refine h_.step ?_ hl_
  clear h_ hl_
  have h_ := Moves.refl [.regs, .lx, .qe, .bm, .xb, .fn, .gd, .sv, .pu, .pm, .ck, .free, .out] s
  unfold State.requestSleep
  repeat' (first
    | with_reducible assumption
    | intro _
    | with_reducible apply Moves.ite
    | exact (rfl : _ = true)
    | with_reducible apply State.acceptDormant_moves
    | with_reducible apply State.acceptSatin_moves
    | with_reducible apply State.endRequest_moves
    | with_reducible apply State.setB_moves
    | with_reducible apply State.setF_moves
    | with_reducible apply State.wake_moves
    | with_reducible apply State.startReturn_moves)

theorem State.showSleep_moves {l_ : List Part} {z_ : State} {s : State} (h_ : Moves l_ z_ s) (hl_ : Part.sub [.regs] l_ = true) :
    Moves l_ z_ (State.showSleep s) := by
  refine h_.step ?_ hl_
  clear h_ hl_
  have h_ := Moves.refl [.regs] s
  unfold State.showSleep
  repeat' (first
    | with_reducible assumption
    | exact (rfl : _ = true)
    | with_reducible apply State.setReg_moves
    | split)

theorem State.leaveLpi_moves {l_ : List Part} {z_ : State} {s : State} {t : Nat} (h_ : Moves l_ z_ s) (hl_ : Part.sub [.regs, .lx, .ck, .free, .out] l_ = true) :
    Moves l_ z_ (State.leaveLpi s t) := by
  refine h_.step ?_ hl_
  clear h_ hl_
  have h_ := Moves.refl [.regs, .lx, .ck, .free, .out] s
  unfold State.leaveLpi
  repeat' (first
    | with_reducible assumption
    | intro _
    | with_reducible apply Moves.ite
    | with_reducible apply Moves.foldl
    | exact (rfl : _ = true)
    | with_reducible apply State.setLane_moves
    | with_reducible apply State.lanesOn_moves
    | split)

theorem State.satinStep1_moves {l_ : List Part} {z_ : State} {s : State} (h_ : Moves l_ z_ s) (hl_ : Part.sub [.regs, .lx, .ts, .gd, .pu, .pm, .ck, .free, .out] l_ = true) :
    Moves l_ z_ (State.satinStep1 s) := by
  refine h_.step ?_ hl_
  clear h_ hl_
  have h_ := Moves.refl [.regs, .lx, .ts, .gd, .pu, .pm, .ck, .free, .out] s
  unfold State.satinStep1
  repeat' (first
    | with_reducible assumption
    | (extract_lets -underBinder +onlyGivenNames x_; first | (refine (fun hx_ : Moves [.regs, .lx, .ts, .gd, .pu, .pm, .ck, .free, .out] s x_ => ?_) ?_; (on_goal 1 => (clear_value x_; revert hx_; revert x_; intro _ _)); (on_goal 2 => subst x_)) | (clear_value x_; revert x_; intro _))
    | intro _
    | with_reducible apply Moves.ite
    | with_reducible apply Moves.foldl
    | exact (rfl : _ = true)
    | with_reducible apply State.leaveLpi_moves
    | with_reducible apply State.replan_moves
    | with_reducible apply State.setB_moves
    | with_reducible apply State.setF_moves
    | with_reducible apply State.showSleep_moves
    | with_reducible apply State.showSteady_moves
    | with_reducible apply State.updPm_moves
    | with_reducible apply State.updPu_moves
    | with_reducible apply State.holdTimers_moves
    | split)

theorem State.satinStep2_moves {l_ : List Part} {z_ : State} {s : State} (h_ : Moves l_ z_ s) (hl_ : Part.sub [.regs, .gd, .pm] l_ = true) :
    Moves l_ z_ (State.satinStep2 s) := by
  refine h_.step ?_ hl_
  clear h_ hl_
  have h_ := Moves.refl [.regs, .gd, .pm] s
  unfold State.satinStep2
  repeat' (first
    | with_reducible assumption
    | intro _
    | with_reducible apply Moves.ite
    | exact (rfl : _ = true)
    | with_reducible apply State.endRequest_moves
    | with_reducible apply State.markOp_moves
    | with_reducible apply State.setB_moves
    | with_reducible apply State.setF_moves
    | with_reducible apply State.showSteady_moves
    | with_reducible apply State.updPm_moves
    | with_reducible apply State.when_moves)

theorem State.tempSample_moves {l_ : List Part} {z_ : State} {s : State} {c : ℤ} (h_ : Moves l_ z_ s) (hl_ : Part.sub [.regs] l_ = true) :
    Moves l_ z_ (State.tempSample s c) := by
  refine h_.step ?_ hl_
  clear h_ hl_
  have h_ := Moves.refl [.regs] s
  unfold State.tempSample
  repeat' (first
    | with_reducible assumption
    | intro _
    | with_reducible apply Moves.ite
    | exact (rfl : _ = true)
    | with_reducible apply State.setB_moves
    | with_reducible apply State.setF_moves)

theorem State.wakeEvent_moves {l_ : List Part} {z_ : State} {s : State} {w : WakeSource} (h_ : Moves l_ z_ s) (hl_ : Part.sub [.regs, .qe, .fn, .pu, .pm, .out] l_ = true) :
    Moves l_ z_ (State.wakeEvent s w) := by
  refine h_.step ?_ hl_
  clear h_ hl_
  have h_ := Moves.refl [.regs, .qe, .fn, .pu, .pm, .out] s
  unfold State.wakeEvent
  repeat' (first
    | with_reducible assumption
    | intro _
    | exact (rfl : _ = true)
    | with_reducible apply State.wake_moves
    | with_reducible apply State.setB_moves
    | split)

theorem execAlarmExpiry_moves {t_ : State} {s : State} (e_ : execAlarmExpiry s = .next t_) : Moves [.regs, .qe, .fn, .pu, .pm, .out] s t_ := by
  have h_ := Moves.refl [.regs, .qe, .fn, .pu, .pm, .out] s
  unfold execAlarmExpiry at e_
  injection e_ with e_
  subst e_
  repeat' (first
    | with_reducible assumption
    | exact (rfl : _ = true)
    | with_reducible apply State.alarm_moves)

theorem execDormantEntry_moves {t_ : State} {s : State} (e_ : execDormantEntry s = .next t_) : Moves [.time, .regs, .lx, .tree, .ts, .ebm, .bus, .qe, .bm, .xb, .fn, .mre, .gd, .sv, .pu, .pm, .ck, .free, .out] s t_ := by
  have h_ := Moves.refl [.time, .regs, .lx, .tree, .ts, .ebm, .bus, .qe, .bm, .xb, .fn, .mre, .gd, .sv, .pu, .pm, .ck, .free, .out] s
  unfold execDormantEntry at e_
  injection e_ with e_
  subst e_
  repeat' (first
    | with_reducible assumption
    | intro _
    | with_reducible apply Moves.ite
    | exact (rfl : _ = true)
    | with_reducible apply State.enterDormant_moves)

theorem execDvfsFrequencyStep_moves {t_ : State} {d : DvfsDomain} {op : BitVec 2} {s : State} (e_ : execDvfsFrequencyStep d op s = .next t_) : Moves [.regs, .fn, .gd, .pm, .out] s t_ := by
  have h_ := Moves.refl [.regs, .fn, .gd, .pm, .out] s
  unfold execDvfsFrequencyStep at e_
  injection e_ with e_
  subst e_
  repeat' (first
    | with_reducible assumption
    | intro _
    | exact (rfl : _ = true)
    | with_reducible apply State.dvfsStep_moves
    | with_reducible apply State.pfWrite_moves)

theorem execDvfsVoltageDone_moves {t_ : State} {s : State} (e_ : execDvfsVoltageDone s = .next t_) : Moves [.regs, .gd, .pm] s t_ := by
  have h_ := Moves.refl [.regs, .gd, .pm] s
  unfold execDvfsVoltageDone at e_
  injection e_ with e_
  subst e_
  repeat' (first
    | with_reducible assumption
    | exact (rfl : _ = true)
    | with_reducible apply State.dvfsDone_moves)

theorem execDvfsVoltageStep_moves {t_ : State} {d : DvfsDomain} {op : BitVec 2} {s : State} (e_ : execDvfsVoltageStep d op s = .next t_) : Moves [.regs, .fn, .gd, .pm, .out] s t_ := by
  have h_ := Moves.refl [.regs, .fn, .gd, .pm, .out] s
  unfold execDvfsVoltageStep at e_
  injection e_ with e_
  subst e_
  repeat' (first
    | with_reducible assumption
    | intro _
    | exact (rfl : _ = true)
    | with_reducible apply State.dvfsStep_moves
    | with_reducible apply State.pfWrite_moves)

theorem execLogicRdy_moves {t_ : State} {asleepMf : MfNum} {asleepMs : Word} {s : State} (e_ : execLogicRdy asleepMf asleepMs s = .next t_) : Moves [.time, .regs, .lx, .tree, .qe, .fn, .gd, .pu, .pm, .ck, .free, .out] s t_ := by
  have h_ := Moves.refl [.time, .regs, .lx, .tree, .qe, .fn, .gd, .pu, .pm, .ck, .free, .out] s
  unfold execLogicRdy at e_
  injection e_ with e_
  subst e_
  repeat' (first
    | with_reducible assumption
    | intro _
    | with_reducible apply Moves.ite
    | exact (rfl : _ = true)
    | with_reducible apply State.logicReady_moves)

theorem execMemRdy_moves {t_ : State} {s : State} (e_ : execMemRdy s = .next t_) : Moves [.regs, .ebm] s t_ := by
  have h_ := Moves.refl [.regs, .ebm] s
  unfold execMemRdy at e_
  injection e_ with e_
  subst e_
  repeat' (first
    | with_reducible assumption
    | intro _
    | with_reducible apply Moves.ite
    | exact (rfl : _ = true)
    | with_reducible apply State.ebmReturns_moves
    | with_reducible apply State.setB_moves)

theorem execOscRdy_moves {t_ : State} {s : State} (e_ : execOscRdy s = .next t_) : Moves [.regs] s t_ := by
  have h_ := Moves.refl [.regs] s
  unfold execOscRdy at e_
  injection e_ with e_
  subst e_
  repeat' (first
    | with_reducible assumption
    | intro _
    | with_reducible apply Moves.ite
    | exact (rfl : _ = true)
    | with_reducible apply State.setB_moves)

theorem execPmeTurnOff_moves {t_ : State} {s : State} (e_ : execPmeTurnOff s = .next t_) : Moves [.regs, .lx, .qe, .bm, .xb, .fn, .gd, .sv, .pu, .pm, .ck, .free, .out] s t_ := by
  have h_ := Moves.refl [.regs, .lx, .qe, .bm, .xb, .fn, .gd, .sv, .pu, .pm, .ck, .free, .out] s
  unfold execPmeTurnOff at e_
  injection e_ with e_
  subst e_
  repeat' (first
    | with_reducible assumption
    | intro _
    | exact (rfl : _ = true)
    | with_reducible apply State.pmeTurnOff_moves
    | with_reducible apply State.requestSleep_moves
    | with_reducible apply State.when_moves)

theorem execPwrRdy_moves {t_ : State} {s : State} (e_ : execPwrRdy s = .next t_) : Moves [.regs] s t_ := by
  have h_ := Moves.refl [.regs] s
  unfold execPwrRdy at e_
  injection e_ with e_
  subst e_
  repeat' (first
    | with_reducible assumption
    | intro _
    | with_reducible apply Moves.ite
    | exact (rfl : _ = true)
    | with_reducible apply State.setB_moves)

theorem execRequestActive_moves {t_ : State} {s : State} (e_ : execRequestActive s = .next t_) : Moves [.regs, .lx, .qe, .bm, .xb, .fn, .gd, .sv, .pu, .pm, .ck, .free, .out] s t_ := by
  have h_ := Moves.refl [.regs, .lx, .qe, .bm, .xb, .fn, .gd, .sv, .pu, .pm, .ck, .free, .out] s
  unfold execRequestActive at e_
  injection e_ with e_
  subst e_
  repeat' (first
    | with_reducible assumption
    | intro _
    | exact (rfl : _ = true)
    | with_reducible apply State.pfWrite_moves
    | with_reducible apply State.requestSleep_moves)

theorem execRequestDormant_moves {t_ : State} {s : State} (e_ : execRequestDormant s = .next t_) : Moves [.regs, .lx, .qe, .bm, .xb, .fn, .gd, .sv, .pu, .pm, .ck, .free, .out] s t_ := by
  have h_ := Moves.refl [.regs, .lx, .qe, .bm, .xb, .fn, .gd, .sv, .pu, .pm, .ck, .free, .out] s
  unfold execRequestDormant at e_
  injection e_ with e_
  subst e_
  repeat' (first
    | with_reducible assumption
    | intro _
    | exact (rfl : _ = true)
    | with_reducible apply State.pfWrite_moves
    | with_reducible apply State.requestSleep_moves)

theorem execRequestSatin_moves {t_ : State} {s : State} (e_ : execRequestSatin s = .next t_) : Moves [.regs, .lx, .qe, .bm, .xb, .fn, .gd, .sv, .pu, .pm, .ck, .free, .out] s t_ := by
  have h_ := Moves.refl [.regs, .lx, .qe, .bm, .xb, .fn, .gd, .sv, .pu, .pm, .ck, .free, .out] s
  unfold execRequestSatin at e_
  injection e_ with e_
  subst e_
  repeat' (first
    | with_reducible assumption
    | intro _
    | exact (rfl : _ = true)
    | with_reducible apply State.pfWrite_moves
    | with_reducible apply State.requestSleep_moves)

theorem execSatinEntry_moves {t_ : State} {s : State} (e_ : execSatinEntry s = .next t_) : Moves [.regs, .lx, .ts, .ebm, .qe, .bm, .xb, .fn, .mre, .gd, .sv, .pu, .pm, .ck, .free, .out] s t_ := by
  have h_ := Moves.refl [.regs, .lx, .ts, .ebm, .qe, .bm, .xb, .fn, .mre, .gd, .sv, .pu, .pm, .ck, .free, .out] s
  unfold execSatinEntry at e_
  injection e_ with e_
  subst e_
  repeat' (first
    | with_reducible assumption
    | intro _
    | with_reducible apply Moves.ite
    | exact (rfl : _ = true)
    | with_reducible apply State.enterSatin_moves)

theorem execSatinReturnStep1_moves {t_ : State} {s : State} (e_ : execSatinReturnStep1 s = .next t_) : Moves [.regs, .lx, .ts, .gd, .pu, .pm, .ck, .free, .out] s t_ := by
  have h_ := Moves.refl [.regs, .lx, .ts, .gd, .pu, .pm, .ck, .free, .out] s
  unfold execSatinReturnStep1 at e_
  injection e_ with e_
  subst e_
  repeat' (first
    | with_reducible assumption
    | intro _
    | with_reducible apply Moves.ite
    | exact (rfl : _ = true)
    | with_reducible apply State.satinStep1_moves)

theorem execSatinReturnStep2_moves {t_ : State} {s : State} (e_ : execSatinReturnStep2 s = .next t_) : Moves [.regs, .gd, .pm] s t_ := by
  have h_ := Moves.refl [.regs, .gd, .pm] s
  unfold execSatinReturnStep2 at e_
  injection e_ with e_
  subst e_
  repeat' (first
    | with_reducible assumption
    | intro _
    | with_reducible apply Moves.ite
    | exact (rfl : _ = true)
    | with_reducible apply State.satinStep2_moves)

theorem execTempSample_moves {t_ : State} {celsius : BitVec 9} {s : State} (e_ : execTempSample celsius s = .next t_) : Moves [.regs] s t_ := by
  have h_ := Moves.refl [.regs] s
  unfold execTempSample at e_
  injection e_ with e_
  subst e_
  repeat' (first
    | with_reducible assumption
    | exact (rfl : _ = true)
    | with_reducible apply State.tempSample_moves)

theorem execWakeEvent_moves {t_ : State} {src : WakeSource} {s : State} (e_ : execWakeEvent src s = .next t_) : Moves [.regs, .qe, .fn, .pu, .pm, .out] s t_ := by
  have h_ := Moves.refl [.regs, .qe, .fn, .pu, .pm, .out] s
  unfold execWakeEvent at e_
  injection e_ with e_
  subst e_
  repeat' (first
    | with_reducible assumption
    | exact (rfl : _ = true)
    | with_reducible apply State.wakeEvent_moves)

end Sys2Proof.Machine
end

