-- ==== Sys2Proof/Laws/BootMoves.lean ====
section
/-! SUPPORT. What the operations of Machine/Boot.lean may touch. -/

set_option Elab.async false
set_option linter.unusedTactic false
set_option linter.unreachableTactic false

namespace Sys2Proof.Machine

theorem State.applyConfig_moves {l_ : List Part} {z_ : State} {s : State} {c : List Byte} (h_ : Moves l_ z_ s) (hl_ : Part.sub [.regs, .ck] l_ = true) :
    Moves l_ z_ (State.applyConfig s c) := by
  refine h_.step ?_ hl_
  clear h_ hl_
  have h_ := Moves.refl [.regs, .ck] s
  unfold State.applyConfig
  repeat' (first
    | with_reducible assumption
    | intro _
    | with_reducible apply Moves.ite
    | exact (rfl : _ = true)
    | with_reducible apply State.reselect_moves
    | with_reducible apply State.setB_moves
    | with_reducible apply State.setF_moves
    | with_reducible apply State.updCk_moves)

theorem State.booted_moves {l_ : List Part} {z_ : State} {s : State} {i : ℕ} {fallback : Bool} (h_ : Moves l_ z_ s) (hl_ : Part.sub [.regs, .lx, .qe, .fn, .pu, .ck, .out] l_ = true) :
    Moves l_ z_ (State.booted s i fallback) := by
  refine h_.step ?_ hl_
  clear h_ hl_
  have h_ := Moves.refl [.regs, .lx, .qe, .fn, .pu, .ck, .out] s
  unfold State.booted
  repeat' (first
    | with_reducible assumption
    | intro _
    | with_reducible apply Moves.ite
    | exact (rfl : _ = true)
    | with_reducible apply State.applyConfig_moves
    | with_reducible apply State.pairStart_moves
    | with_reducible apply State.rescan_moves
    | with_reducible apply State.setB_moves
    | with_reducible apply State.setF_moves
    | with_reducible apply State.updCk_moves)

theorem State.faultN_moves {l_ : List Part} {z_ : State} {s : State} {cause : ℕ} (h_ : Moves l_ z_ s) (hl_ : Part.sub [.regs, .fn, .out] l_ = true) :
    Moves l_ z_ (State.faultN s cause) := by
  refine h_.step ?_ hl_
  clear h_ hl_
  have h_ := Moves.refl [.regs, .fn, .out] s
  unfold State.faultN
  repeat' (first
    | with_reducible assumption
    | exact (rfl : _ = true)
    | with_reducible apply State.captureError_moves
    | with_reducible apply State.setB_moves)

theorem State.bootLoad_moves {l_ : List Part} {z_ : State} {s : State} (h_ : Moves l_ z_ s) (hl_ : Part.sub [.regs, .lx, .qe, .fn, .pu, .ck, .out] l_ = true) :
    Moves l_ z_ (State.bootLoad s) := by
  refine h_.step ?_ hl_
  clear h_ hl_
  have h_ := Moves.refl [.regs, .lx, .qe, .fn, .pu, .ck, .out] s
  unfold State.bootLoad
  repeat' (first
    | with_reducible assumption
    | (extract_lets -underBinder +onlyGivenNames x_; first | (refine (fun hx_ : Moves [.regs, .lx, .qe, .fn, .pu, .ck, .out] s x_ => ?_) ?_; (on_goal 1 => (clear_value x_; revert hx_; revert x_; intro _ _)); (on_goal 2 => subst x_)) | (clear_value x_; revert x_; intro _))
    | intro _
    | exact (rfl : _ = true)
    | with_reducible apply State.booted_moves
    | with_reducible apply State.faultN_moves
    | with_reducible apply State.setB_moves
    | with_reducible apply State.updCk_moves
    | split)

theorem State.lockRoot_moves {l_ : List Part} {z_ : State} {s : State} (h_ : Moves l_ z_ s) (hl_ : Part.sub [.time, .regs] l_ = true) :
    Moves l_ z_ (State.lockRoot s) := by
  refine h_.step ?_ hl_
  clear h_ hl_
  have h_ := Moves.refl [.time, .regs] s
  unfold State.lockRoot
  repeat' (first
    | with_reducible assumption
    | exact (rfl : _ = true)
    | with_reducible apply State.freeRun_moves
    | with_reducible apply State.setB_moves
    | with_reducible apply State.setF_moves
    | with_reducible apply Moves.time)

theorem State.coldRelease_moves {l_ : List Part} {z_ : State} {s : State} {straps : ℕ} (h_ : Moves l_ z_ s) (hl_ : Part.sub [.time, .regs, .ck] l_ = true) :
    Moves l_ z_ (State.coldRelease s straps) := by
  refine h_.step ?_ hl_
  clear h_ hl_
  have h_ := Moves.refl [.time, .regs, .ck] s
  unfold State.coldRelease
  repeat' (first
    | with_reducible assumption
    | intro _
    | with_reducible apply Moves.ite
    | exact (rfl : _ = true)
    | with_reducible apply State.lockRoot_moves
    | with_reducible apply State.setF_moves
    | with_reducible apply State.setReg_moves
    | with_reducible apply State.updCk_moves)

theorem State.flashWrite_moves {l_ : List Part} {z_ : State} {s : State} {a : ℕ} {b : List Byte} (h_ : Moves l_ z_ s)
    (hl_ : Part.sub [.ck] l_ = true) : Moves l_ z_ (State.flashWrite s a b) := by
  exact State.updCk_moves h_ hl_ (fun o => Tbl.wf_writeBytes a b o)

theorem State.flashCut_moves {l_ : List Part} {z_ : State} {s : State}  (h_ : Moves l_ z_ s)
    (hl_ : Part.sub [.ck, .free] l_ = true) : Moves l_ z_ (State.flashCut s) := by
  unfold State.flashCut
  split
  · extract_lets t
    have ht : Moves l_ z_ t := State.updCk_moves h_ (Part.sub_trans rfl hl_) id
    exact Moves.ite (fun _ => ht) (fun _ =>
      State.flashWrite_moves (ht.freeUp (Part.sub_trans rfl hl_) _ (Nat.le_add_right _ _)) (Part.sub_trans rfl hl_))
  · exact h_

theorem State.wiped_moves {l_ : List Part} {z_ : State} {s : State}  (h_ : Moves l_ z_ s)
    (hl_ : Part.sub [.time, .regs, .lx, .tree, .ts, .ebm, .bus, .qe, .bm, .xb, .fn, .mre, .gd, .sv, .pu, .pm, .ck, .free] l_ = true) : Moves l_ z_ (State.wiped s) := by
  have hc := State.flashCut_moves h_ (Part.sub_trans rfl hl_)
  unfold State.wiped
  extract_lets t pr ports rs rt rc r
  have hr : Moves l_ z_ r :=
    hc.step (a := [.time, .regs, .lx, .tree, .ts, .ebm, .bus, .qe, .bm, .xb, .fn, .mre, .gd, .sv, .pu, .pm, .ck, .free]) ⟨⟨rfl, fun p hp => by cases p <;> first | rfl | exact absurd hp (by decide)⟩, fun o => ⟨rfl, rfl, o.2.2⟩,
      List.suffix_refl _, Nat.le_refl _⟩ hl_
  exact State.setB_moves (State.setReg_moves hr (Part.sub_trans rfl hl_)) (Part.sub_trans rfl hl_)

theorem State.coldReset_moves {l_ : List Part} {z_ : State} {s : State} (h_ : Moves l_ z_ s) (hl_ : Part.sub [.time, .regs, .lx, .tree, .ts, .ebm, .bus, .qe, .bm, .xb, .fn, .mre, .gd, .sv, .pu, .pm, .ck, .free] l_ = true) :
    Moves l_ z_ (State.coldReset s) := by
  refine h_.step ?_ hl_
  clear h_ hl_
  have h_ := Moves.refl [.time, .regs, .lx, .tree, .ts, .ebm, .bus, .qe, .bm, .xb, .fn, .mre, .gd, .sv, .pu, .pm, .ck, .free] s
  unfold State.coldReset
  repeat' (first
    | with_reducible assumption
    | intro _
    | exact (rfl : _ = true)
    | with_reducible apply State.updCk_moves
    | with_reducible apply State.wiped_moves)

theorem State.setFlashBuf_moves {l_ : List Part} {z_ : State} {s : State} {b : List Byte} (h_ : Moves l_ z_ s) (hl_ : Part.sub [.regs] l_ = true) :
    Moves l_ z_ (State.setFlashBuf s b) := by
  refine h_.step ?_ hl_
  clear h_ hl_
  have h_ := Moves.refl [.regs] s
  unfold State.setFlashBuf
  repeat' (first
    | with_reducible assumption
    | intro _
    | exact (rfl : _ = true)
    | with_reducible apply State.forAll_moves
    | with_reducible apply State.setReg_moves)

theorem State.flashDone_moves {l_ : List Part} {z_ : State} {s : State} (h_ : Moves l_ z_ s) (hl_ : Part.sub [.regs, .ck, .out] l_ = true) :
    Moves l_ z_ (State.flashDone s) := by
  refine h_.step ?_ hl_
  clear h_ hl_
  have h_ := Moves.refl [.regs, .ck, .out] s
  unfold State.flashDone
  repeat' (first
    | with_reducible assumption
    | (extract_lets -underBinder +onlyGivenNames x_; first | (refine (fun hx_ : Moves [.regs, .ck, .out] s x_ => ?_) ?_; (on_goal 1 => (clear_value x_; revert hx_; revert x_; intro _ _)); (on_goal 2 => subst x_)) | (clear_value x_; revert x_; intro _))
    | intro _
    | exact (rfl : _ = true)
    | with_reducible apply State.emit_moves
    | with_reducible apply State.flashWrite_moves
    | with_reducible apply State.setB_moves
    | with_reducible apply State.setF_moves
    | with_reducible apply State.setFlashBuf_moves
    | with_reducible apply State.updCk_moves
    | split)

theorem State.flashStart_moves {l_ : List Part} {z_ : State} {s : State} {op : ℕ} (h_ : Moves l_ z_ s) (hl_ : Part.sub [.regs, .ck] l_ = true) :
    Moves l_ z_ (State.flashStart s op) := by
  refine h_.step ?_ hl_
  clear h_ hl_
  have h_ := Moves.refl [.regs, .ck] s
  unfold State.flashStart
  repeat' (first
    | with_reducible assumption
    | intro _
    | with_reducible apply Moves.ite
    | exact (rfl : _ = true)
    | with_reducible apply State.setB_moves
    | with_reducible apply State.updCk_moves)

theorem State.forgetExpiries_moves {l_ : List Part} {z_ : State} {s : State} (h_ : Moves l_ z_ s) (hl_ : Part.sub [.regs, .ck] l_ = true) :
    Moves l_ z_ (State.forgetExpiries s) := by
  refine h_.step ?_ hl_
  clear h_ hl_
  have h_ := Moves.refl [.regs, .ck] s
  unfold State.forgetExpiries
  repeat' (first
    | with_reducible assumption
    | intro _
    | exact (rfl : _ = true)
    | with_reducible apply State.setF_moves
    | with_reducible apply State.updCk_moves)

theorem State.fundamentalNow_moves {l_ : List Part} {z_ : State} {s : State} (h_ : Moves l_ z_ s) (hl_ : Part.sub [.time, .regs, .lx, .tree, .ts, .ebm, .bus, .qe, .bm, .xb, .fn, .mre, .gd, .sv, .pu, .pm, .ck, .free] l_ = true) :
    Moves l_ z_ (State.fundamentalNow s) := by
  refine h_.step ?_ hl_
  clear h_ hl_
  have h_ := Moves.refl [.time, .regs, .lx, .tree, .ts, .ebm, .bus, .qe, .bm, .xb, .fn, .mre, .gd, .sv, .pu, .pm, .ck, .free] s
  unfold State.fundamentalNow
  repeat' (first
    | with_reducible assumption
    | intro _
    | with_reducible apply Moves.foldl
    | exact (rfl : _ = true)
    | with_reducible apply State.freeRun_moves
    | with_reducible apply State.reselect_moves
    | with_reducible apply State.setB_moves
    | with_reducible apply State.setF_moves
    | with_reducible apply State.setReg_moves
    | with_reducible apply State.updCk_moves
    | with_reducible apply State.wiped_moves
    | ((with_reducible apply Moves.all); (on_goal 4 => (intro p hp; cases p <;> first | rfl | exact absurd hp (by decide)))))

theorem State.fundamentalReset_moves {l_ : List Part} {z_ : State} {s : State} (h_ : Moves l_ z_ s) (hl_ : Part.sub [.time, .regs, .lx, .tree, .ts, .ebm, .bus, .qe, .bm, .xb, .fn, .mre, .gd, .sv, .pu, .pm, .ck, .free] l_ = true) :
    Moves l_ z_ (State.fundamentalReset s) := by
  refine h_.step ?_ hl_
  clear h_ hl_
  have h_ := Moves.refl [.time, .regs, .lx, .tree, .ts, .ebm, .bus, .qe, .bm, .xb, .fn, .mre, .gd, .sv, .pu, .pm, .ck, .free] s
  unfold State.fundamentalReset
  repeat' (first
    | with_reducible assumption
    | intro _
    | with_reducible apply Moves.ite
    | exact (rfl : _ = true)
    | with_reducible apply State.abdicate_moves
    | with_reducible apply State.fundamentalNow_moves
    | with_reducible apply State.updCk_moves)

theorem State.restartRsq_moves {l_ : List Part} {z_ : State} {s : State} (h_ : Moves l_ z_ s) (hl_ : Part.sub [.regs, .ck] l_ = true) :
    Moves l_ z_ (State.restartRsq s) := by
  refine h_.step ?_ hl_
  clear h_ hl_
  have h_ := Moves.refl [.regs, .ck] s
  unfold State.restartRsq
  repeat' (first
    | with_reducible assumption
    | intro _
    | exact (rfl : _ = true)
    | with_reducible apply State.setB_moves
    | with_reducible apply State.updCk_moves)

theorem State.rsqWrite_moves {l_ : List Part} {z_ : State} {s : State} (h_ : Moves l_ z_ s) (hl_ : Part.sub [.regs, .ck] l_ = true) :
    Moves l_ z_ (State.rsqWrite s) := by
  refine h_.step ?_ hl_
  clear h_ hl_
  have h_ := Moves.refl [.regs, .ck] s
  unfold State.rsqWrite
  repeat' (first
    | with_reducible assumption
    | intro _
    | with_reducible apply Moves.ite
    | exact (rfl : _ = true)
    | with_reducible apply State.restartRsq_moves)

theorem State.perstRelease_moves {l_ : List Part} {z_ : State} {s : State} (h_ : Moves l_ z_ s) (hl_ : Part.sub [.regs, .qe, .fn, .pu, .pm, .ck, .out] l_ = true) :
    Moves l_ z_ (State.perstRelease s) := by
  refine h_.step ?_ hl_
  clear h_ hl_
  have h_ := Moves.refl [.regs, .qe, .fn, .pu, .pm, .ck, .out] s
  unfold State.perstRelease
  repeat' (first
    | with_reducible assumption
    | intro _
    | with_reducible apply Moves.ite
    | exact (rfl : _ = true)
    | with_reducible apply State.logWake_moves
    | with_reducible apply State.updCk_moves
    | with_reducible apply State.updPm_moves
    | with_reducible apply State.wake_moves)

theorem State.refAcquired_moves {l_ : List Part} {z_ : State} {s : State} {r : RefSource} (h_ : Moves l_ z_ s) (hl_ : Part.sub [.time, .regs, .ck] l_ = true) :
    Moves l_ z_ (State.refAcquired s r) := by
  refine h_.step ?_ hl_
  clear h_ hl_
  have h_ := Moves.refl [.time, .regs, .ck] s
  unfold State.refAcquired
  repeat' (first
    | with_reducible assumption
    | (extract_lets -underBinder +onlyGivenNames x_; (refine (fun hx_ : Moves [.time, .regs, .ck] s x_ => ?_) ?_; (on_goal 1 => (clear_value x_; revert hx_; revert x_; intro _ _)); (on_goal 2 => subst x_)))
    | intro _
    | exact (rfl : _ = true)
    | with_reducible apply State.lockRoot_moves
    | with_reducible apply State.reselect_moves
    | with_reducible apply State.setB_moves
    | with_reducible apply State.updCk_moves
    | split)

theorem State.refLost_moves {l_ : List Part} {z_ : State} {s : State} {r : RefSource} (h_ : Moves l_ z_ s) (hl_ : Part.sub [.regs, .ck] l_ = true) :
    Moves l_ z_ (State.refLost s r) := by
  refine h_.step ?_ hl_
  clear h_ hl_
  have h_ := Moves.refl [.regs, .ck] s
  unfold State.refLost
  repeat' (first
    | with_reducible assumption
    | intro _
    | exact (rfl : _ = true)
    | with_reducible apply State.bump_moves
    | with_reducible apply State.reselect_moves
    | with_reducible apply State.setB_moves
    | with_reducible apply State.updCk_moves
    | split)

theorem State.rsqDone_moves {l_ : List Part} {z_ : State} {s : State} (h_ : Moves l_ z_ s) (hl_ : Part.sub [.regs, .ck] l_ = true) :
    Moves l_ z_ (State.rsqDone s) := by
  refine h_.step ?_ hl_
  clear h_ hl_
  have h_ := Moves.refl [.regs, .ck] s
  unfold State.rsqDone
  repeat' (first
    | with_reducible assumption
    | intro _
    | with_reducible apply Moves.ite
    | exact (rfl : _ = true)
    | with_reducible apply State.setB_moves
    | with_reducible apply State.updCk_moves)

theorem State.supplyLoss_moves {l_ : List Part} {z_ : State} {s : State} (h_ : Moves l_ z_ s) (hl_ : Part.sub [.time, .regs, .lx, .tree, .ts, .ebm, .bus, .qe, .bm, .xb, .fn, .mre, .gd, .sv, .pu, .pm, .ck, .free] l_ = true) :
    Moves l_ z_ (State.supplyLoss s) := by
  refine h_.step ?_ hl_
  clear h_ hl_
  have h_ := Moves.refl [.time, .regs, .lx, .tree, .ts, .ebm, .bus, .qe, .bm, .xb, .fn, .mre, .gd, .sv, .pu, .pm, .ck, .free] s
  unfold State.supplyLoss
  repeat' (first
    | with_reducible assumption
    | exact (rfl : _ = true)
    | with_reducible apply State.coldReset_moves
    | with_reducible apply State.setF_moves
    | with_reducible apply State.updPm_moves)

theorem State.watchdog_moves {l_ : List Part} {z_ : State} {s : State} (h_ : Moves l_ z_ s) (hl_ : Part.sub [.regs, .fn, .pu, .ck, .out] l_ = true) :
    Moves l_ z_ (State.watchdog s) := by
  refine h_.step ?_ hl_
  clear h_ hl_
  have h_ := Moves.refl [.regs, .fn, .pu, .ck, .out] s
  unfold State.watchdog
  repeat' (first
    | with_reducible assumption
    | intro _
    | with_reducible apply Moves.ite
    | exact (rfl : _ = true)
    | with_reducible apply State.abdicate_moves
    | with_reducible apply State.bump_moves
    | with_reducible apply State.faultN_moves
    | with_reducible apply State.forgetExpiries_moves
    | with_reducible apply State.restartRsq_moves
    | with_reducible apply State.setB_moves
    | with_reducible apply State.setF_moves
    | with_reducible apply State.updCk_moves)

theorem execBootLoadComplete_moves {t_ : State} {s : State} (e_ : execBootLoadComplete s = .next t_) : Moves [.regs, .lx, .qe, .fn, .pu, .ck, .out] s t_ := by
  have h_ := Moves.refl [.regs, .lx, .qe, .fn, .pu, .ck, .out] s
  unfold execBootLoadComplete at e_
  injection e_ with e_
  subst e_
  repeat' (first
    | with_reducible assumption
    | exact (rfl : _ = true)
    | with_reducible apply State.bootLoad_moves)

theorem execColdReset_moves {t_ : State} {s : State} (e_ : execColdReset s = .next t_) : Moves [.time, .regs, .lx, .tree, .ts, .ebm, .bus, .qe, .bm, .xb, .fn, .mre, .gd, .sv, .pu, .pm, .ck, .free] s t_ := by
  have h_ := Moves.refl [.time, .regs, .lx, .tree, .ts, .ebm, .bus, .qe, .bm, .xb, .fn, .mre, .gd, .sv, .pu, .pm, .ck, .free] s
  unfold execColdReset at e_
  injection e_ with e_
  subst e_
  repeat' (first
    | with_reducible assumption
    | exact (rfl : _ = true)
    | with_reducible apply State.coldReset_moves)

theorem execColdResetRelease_moves {t_ : State} {straps : BitVec 7} {s : State} (e_ : execColdResetRelease straps s = .next t_) : Moves [.time, .regs, .ck] s t_ := by
  have h_ := Moves.refl [.time, .regs, .ck] s
  unfold execColdResetRelease at e_
  injection e_ with e_
  subst e_
  repeat' (first
    | with_reducible assumption
    | exact (rfl : _ = true)
    | with_reducible apply State.coldRelease_moves)

theorem execFlashCommandDone_moves {t_ : State} {s : State} (e_ : execFlashCommandDone s = .next t_) : Moves [.regs, .ck, .out] s t_ := by
  have h_ := Moves.refl [.regs, .ck, .out] s
  unfold execFlashCommandDone at e_
  injection e_ with e_
  subst e_
  repeat' (first
    | with_reducible assumption
    | exact (rfl : _ = true)
    | with_reducible apply State.flashDone_moves)

theorem execFlashErase_moves {t_ : State} {s : State} (e_ : execFlashErase s = .next t_) : Moves [.regs, .fn, .pm, .ck, .out] s t_ := by
  have h_ := Moves.refl [.regs, .fn, .pm, .ck, .out] s
  unfold execFlashErase at e_
  injection e_ with e_
  subst e_
  repeat' (first
    | with_reducible assumption
    | intro _
    | exact (rfl : _ = true)
    | with_reducible apply State.flashStart_moves
    | with_reducible apply State.pfWrite_moves)

theorem execFlashProgram_moves {t_ : State} {s : State} (e_ : execFlashProgram s = .next t_) : Moves [.regs, .fn, .pm, .ck, .out] s t_ := by
  have h_ := Moves.refl [.regs, .fn, .pm, .ck, .out] s
  unfold execFlashProgram at e_
  injection e_ with e_
  subst e_
  repeat' (first
    | with_reducible assumption
    | intro _
    | exact (rfl : _ = true)
    | with_reducible apply State.flashStart_moves
    | with_reducible apply State.pfWrite_moves)

theorem execFlashRead_moves {t_ : State} {s : State} (e_ : execFlashRead s = .next t_) : Moves [.regs, .fn, .pm, .ck, .out] s t_ := by
  have h_ := Moves.refl [.regs, .fn, .pm, .ck, .out] s
  unfold execFlashRead at e_
  injection e_ with e_
  subst e_
  repeat' (first
    | with_reducible assumption
    | intro _
    | exact (rfl : _ = true)
    | with_reducible apply State.flashStart_moves
    | with_reducible apply State.pfWrite_moves)

theorem execFundamentalReset_moves {t_ : State} {s : State} (e_ : execFundamentalReset s = .next t_) : Moves [.time, .regs, .lx, .tree, .ts, .ebm, .bus, .qe, .bm, .xb, .fn, .mre, .gd, .sv, .pu, .pm, .ck, .free] s t_ := by
  have h_ := Moves.refl [.time, .regs, .lx, .tree, .ts, .ebm, .bus, .qe, .bm, .xb, .fn, .mre, .gd, .sv, .pu, .pm, .ck, .free] s
  unfold execFundamentalReset at e_
  injection e_ with e_
  subst e_
  repeat' (first
    | with_reducible assumption
    | exact (rfl : _ = true)
    | with_reducible apply State.fundamentalReset_moves)

theorem execPerstRelease_moves {t_ : State} {s : State} (e_ : execPerstRelease s = .next t_) : Moves [.regs, .qe, .fn, .pu, .pm, .ck, .out] s t_ := by
  have h_ := Moves.refl [.regs, .qe, .fn, .pu, .pm, .ck, .out] s
  unfold execPerstRelease at e_
  injection e_ with e_
  subst e_
  repeat' (first
    | with_reducible assumption
    | exact (rfl : _ = true)
    | with_reducible apply State.perstRelease_moves)

theorem execReferenceAcquired_moves {t_ : State} {src : RefSource} {s : State} (e_ : execReferenceAcquired src s = .next t_) : Moves [.time, .regs, .ck] s t_ := by
  have h_ := Moves.refl [.time, .regs, .ck] s
  unfold execReferenceAcquired at e_
  injection e_ with e_
  subst e_
  repeat' (first
    | with_reducible assumption
    | exact (rfl : _ = true)
    | with_reducible apply State.refAcquired_moves)

theorem execReferenceLost_moves {t_ : State} {src : RefSource} {s : State} (e_ : execReferenceLost src s = .next t_) : Moves [.regs, .ck] s t_ := by
  have h_ := Moves.refl [.regs, .ck] s
  unfold execReferenceLost at e_
  injection e_ with e_
  subst e_
  repeat' (first
    | with_reducible assumption
    | exact (rfl : _ = true)
    | with_reducible apply State.refLost_moves)

theorem execRsqRestart_moves {t_ : State} {s : State} (e_ : execRsqRestart s = .next t_) : Moves [.regs, .fn, .pm, .ck, .out] s t_ := by
  have h_ := Moves.refl [.regs, .fn, .pm, .ck, .out] s
  unfold execRsqRestart at e_
  injection e_ with e_
  subst e_
  repeat' (first
    | with_reducible assumption
    | intro _
    | exact (rfl : _ = true)
    | with_reducible apply State.pfWrite_moves
    | with_reducible apply State.rsqWrite_moves)

theorem execRsqRestartDone_moves {t_ : State} {s : State} (e_ : execRsqRestartDone s = .next t_) : Moves [.regs, .ck] s t_ := by
  have h_ := Moves.refl [.regs, .ck] s
  unfold execRsqRestartDone at e_
  injection e_ with e_
  subst e_
  repeat' (first
    | with_reducible assumption
    | exact (rfl : _ = true)
    | with_reducible apply State.rsqDone_moves)

theorem execSupplyLoss_moves {t_ : State} {s : State} (e_ : execSupplyLoss s = .next t_) : Moves [.time, .regs, .lx, .tree, .ts, .ebm, .bus, .qe, .bm, .xb, .fn, .mre, .gd, .sv, .pu, .pm, .ck, .free] s t_ := by
  have h_ := Moves.refl [.time, .regs, .lx, .tree, .ts, .ebm, .bus, .qe, .bm, .xb, .fn, .mre, .gd, .sv, .pu, .pm, .ck, .free] s
  unfold execSupplyLoss at e_
  injection e_ with e_
  subst e_
  repeat' (first
    | with_reducible assumption
    | exact (rfl : _ = true)
    | with_reducible apply State.supplyLoss_moves)

theorem execWatchdogCountExpiry_moves {t_ : State} {s : State} (e_ : execWatchdogCountExpiry s = .next t_) : Moves [.regs, .ck] s t_ := by
  have h_ := Moves.refl [.regs, .ck] s
  unfold execWatchdogCountExpiry at e_
  injection e_ with e_
  subst e_
  repeat' (first
    | with_reducible assumption
    | exact (rfl : _ = true)
    | with_reducible apply State.forgetExpiries_moves)

theorem execWatchdogCountRestart_moves {t_ : State} {s : State} (e_ : execWatchdogCountRestart s = .next t_) : Moves [.ck] s t_ := by
  have h_ := Moves.refl [.ck] s
  unfold execWatchdogCountRestart at e_
  injection e_ with e_
  subst e_
  repeat' (first
    | with_reducible assumption
    | intro _
    | with_reducible apply Moves.ite
    | exact (rfl : _ = true)
    | with_reducible apply State.updCk_moves)

theorem execWatchdogExpiry_moves {t_ : State} {s : State} (e_ : execWatchdogExpiry s = .next t_) : Moves [.regs, .fn, .pu, .ck, .out] s t_ := by
  have h_ := Moves.refl [.regs, .fn, .pu, .ck, .out] s
  unfold execWatchdogExpiry at e_
  injection e_ with e_
  subst e_
  repeat' (first
    | with_reducible assumption
    | exact (rfl : _ = true)
    | with_reducible apply State.watchdog_moves)

end Sys2Proof.Machine
end

