-- ==== Sys2Proof/Laws/WarmMoves.lean ====
section
/-! SUPPORT. What the operations of Machine/Warm.lean may touch. -/

set_option Elab.async false
set_option linter.unusedTactic false
set_option linter.unreachableTactic false

namespace Sys2Proof.Machine

theorem State.endResets_moves {l_ : List Part} {z_ : State} {s : State} (h_ : Moves l_ z_ s) (hl_ : Part.sub [.regs, .qe, .bm, .xb, .fn, .out] l_ = true) :
    Moves l_ z_ (State.endResets s) := by
  refine h_.step ?_ hl_
  clear h_ hl_
  have h_ := Moves.refl [.regs, .qe, .bm, .xb, .fn, .out] s
  unfold State.endResets
  repeat' (first
    | with_reducible assumption
    | intro _
    | with_reducible apply Moves.ite
    | exact (rfl : _ = true)
    | with_reducible apply State.forAll_moves
    | with_reducible apply State.resetDone_moves)

theorem State.keepConfig_moves {l_ : List Part} {z_ : State} {s : State} {r : FnRec} (h_ : Moves l_ z_ s) (hl_ : Part.sub [.fn] l_ = true) :
    Moves l_ z_ (State.keepConfig s r) := by
  refine h_.step ?_ hl_
  clear h_ hl_
  have h_ := Moves.refl [.fn] s
  unfold State.keepConfig
  repeat' (first
    | with_reducible assumption
    | exact (rfl : _ = true)
    | with_reducible apply State.updFn_moves)

theorem State.settleSwap_moves {l_ : List Part} {z_ : State} {s : State} (h_ : Moves l_ z_ s) (hl_ : Part.sub [.regs, .mre] l_ = true) :
    Moves l_ z_ (State.settleSwap s) := by
  refine h_.step ?_ hl_
  clear h_ hl_
  have h_ := Moves.refl [.regs, .mre] s
  unfold State.settleSwap
  repeat' (first
    | with_reducible assumption
    | exact (rfl : _ = true)
    | with_reducible apply State.showSwap_moves
    | split
    | with_reducible apply Moves.mre)

theorem State.settleCommit_moves {l_ : List Part} {z_ : State} {s : State} (h_ : Moves l_ z_ s) (hl_ : Part.sub [.regs, .tree, .ts, .ebm] l_ = true) :
    Moves l_ z_ (State.settleCommit s) := by
  refine h_.step ?_ hl_
  clear h_ hl_
  have h_ := Moves.refl [.regs, .tree, .ts, .ebm] s
  unfold State.settleCommit
  repeat' (first
    | with_reducible assumption
    | exact (rfl : _ = true)
    | with_reducible apply State.rebase_moves
    | with_reducible apply State.showCommit_moves
    | split
    | with_reducible apply Moves.tree
    | with_reducible apply Moves.ts
    | ((with_reducible apply Moves.many); (on_goal 2 => (intro p hp; cases p <;> first | rfl | exact absurd hp (by decide)))))

theorem State.squashRest_moves {l_ : List Part} {z_ : State} {s : State} (h_ : Moves l_ z_ s) (hl_ : Part.sub [.regs, .ts, .ebm, .bus, .qe, .bm, .xb, .fn, .mre, .out] l_ = true) :
    Moves l_ z_ (State.squashRest s) := by
  refine h_.step ?_ hl_
  clear h_ hl_
  have h_ := Moves.refl [.regs, .ts, .ebm, .bus, .qe, .bm, .xb, .fn, .mre, .out] s
  unfold State.squashRest
  repeat' (first
    | with_reducible assumption
    | intro _
    | with_reducible apply Moves.foldl
    | exact (rfl : _ = true)
    | with_reducible apply State.completeRef_moves
    | with_reducible apply State.endClip_moves
    | with_reducible apply State.endXfer_moves
    | with_reducible apply State.freeSlot_moves
    | split)

theorem State.revertRegs_moves {l_ : List Part} {z_ : State} {s : State} (h_ : Moves l_ z_ s) (hl_ : Part.sub [.regs] l_ = true) :
    Moves l_ z_ (State.revertRegs s) := by
  refine h_.step ?_ hl_
  clear h_ hl_
  have h_ := Moves.refl [.regs] s
  unfold State.revertRegs
  repeat' (first
    | with_reducible assumption
    | intro _
    | with_reducible apply Moves.foldl
    | exact (rfl : _ = true)
    | with_reducible apply State.setReg_moves)

theorem State.resetGraph_moves {l_ : List Part} {z_ : State} {s : State} (h_ : Moves l_ z_ s) (hl_ : Part.sub [.mre, .gd, .sv] l_ = true) :
    Moves l_ z_ (State.resetGraph s) := by
  refine h_.step ?_ hl_
  clear h_ hl_
  have h_ := Moves.refl [.mre, .gd, .sv] s
  unfold State.resetGraph
  repeat' (first
    | with_reducible assumption
    | intro _
    | exact (rfl : _ = true)
    | with_reducible apply Moves.mre
    | with_reducible apply Moves.gd
    | with_reducible apply Moves.sv
    | ((with_reducible apply Moves.many); (on_goal 2 => (intro p hp; cases p <;> first | rfl | exact absurd hp (by decide)))))

theorem State.resetBus_moves {l_ : List Part} {z_ : State} {s : State} (h_ : Moves l_ z_ s) (hl_ : Part.sub [.regs, .tree, .ts, .ebm, .bus, .qe, .bm, .xb, .pu] l_ = true) :
    Moves l_ z_ (State.resetBus s) := by
  refine h_.step ?_ hl_
  clear h_ hl_
  have h_ := Moves.refl [.regs, .tree, .ts, .ebm, .bus, .qe, .bm, .xb, .pu] s
  unfold State.resetBus
  repeat' (first
    | with_reducible assumption
    | intro _
    | with_reducible apply Moves.foldl
    | exact (rfl : _ = true)
    | with_reducible apply State.showEnum_moves
    | with_reducible apply Moves.tree
    | with_reducible apply Moves.ts
    | with_reducible apply Moves.bus
    | with_reducible apply Moves.qe
    | with_reducible apply Moves.bm
    | with_reducible apply Moves.xb
    | with_reducible apply Moves.pu
    | ((with_reducible apply Moves.all); (on_goal 4 => (intro p hp; cases p <;> first | rfl | exact absurd hp (by decide)))))

theorem State.showKept_moves {l_ : List Part} {z_ : State} {s : State} (h_ : Moves l_ z_ s) (hl_ : Part.sub [.regs, .qe, .fn, .gd, .sv, .out] l_ = true) :
    Moves l_ z_ (State.showKept s) := by
  refine h_.step ?_ hl_
  clear h_ hl_
  have h_ := Moves.refl [.regs, .qe, .fn, .gd, .sv, .out] s
  unfold State.showKept
  repeat' (first
    | with_reducible assumption
    | intro _
    | with_reducible apply Moves.ite
    | exact (rfl : _ = true)
    | with_reducible apply State.forAll_moves
    | with_reducible apply State.setB_moves
    | with_reducible apply State.setF_moves
    | with_reducible apply State.showLines_moves
    | with_reducible apply State.showVf_moves
    | with_reducible apply State.svRebind_moves)

theorem State.warmNow_moves {l_ : List Part} {z_ : State} {s : State}  (h_ : Moves l_ z_ s)
    (hl_ : Part.sub [.regs, .lx, .tree, .ts, .ebm, .bus, .qe, .bm, .xb, .fn, .mre, .gd, .sv, .pu, .ck, .free, .out] l_ = true) : Moves l_ z_ (State.warmNow s) := by
  have hx : ∀ t, Moves l_ z_ t → Moves l_ z_ (if t.ck.rsqRestart then
      (t.updCk (fun c => { c with rsqRestart := false, wdtAt := t.now })).setB Reg.RSQ_STATUS_RUNNING true else t) := fun t h =>
    Moves.ite (fun _ => State.setB_moves (State.updCk_moves h (Part.sub_trans rfl hl_) id) (Part.sub_trans rfl hl_)) (fun _ => h)
  unfold State.warmNow
  extract_lets cfg t1 t2 t3 t4 t5
  have h1 : Moves l_ z_ t1 := State.resetAll_moves (State.settleSwap_moves (State.settleCommit_moves h_ (Part.sub_trans rfl hl_))
    (Part.sub_trans rfl hl_)) (Part.sub_trans rfl hl_)
  clear_value t1
  have h2 : Moves l_ z_ t2 := State.endResets_moves (State.squashRest_moves (State.applyHeld_moves h1 (Part.sub_trans rfl hl_))
    (Part.sub_trans rfl hl_)) (Part.sub_trans rfl hl_)
  clear_value t2
  have h3 : Moves l_ z_ t3 := State.keepConfig_moves h2 (Part.sub_trans rfl hl_)
  clear_value t3
  have h4 : Moves l_ z_ t4 := hx t3 h3
  clear_value t4
  have h5 : Moves l_ z_ t5 := State.revertRegs_moves (State.resetGraph_moves (State.resetBus_moves h4 (Part.sub_trans rfl hl_))
    (Part.sub_trans rfl hl_)) (Part.sub_trans rfl hl_)
  clear_value t5
  exact State.showKept_moves (State.showPool_moves h5 (Part.sub_trans rfl hl_)) (Part.sub_trans rfl hl_)

theorem State.markRow_moves {l_ : List Part} {z_ : State} {s : State} (h_ : Moves l_ z_ s) (hl_ : Part.sub [.time, .regs, .lx, .tree, .ts, .ebm, .bus, .qe, .bm, .xb, .fn, .mre, .gd, .sv, .pu, .pm, .ck, .free, .out] l_ = true) :
    Moves l_ z_ (State.markRow s) := by
  refine h_.step ?_ hl_
  clear h_ hl_
  have h_ := Moves.refl [.time, .regs, .lx, .tree, .ts, .ebm, .bus, .qe, .bm, .xb, .fn, .mre, .gd, .sv, .pu, .pm, .ck, .free, .out] s
  unfold State.markRow
  repeat' (first
    | with_reducible assumption
    | intro _
    | with_reducible apply Moves.ite
    | exact (rfl : _ = true)
    | with_reducible apply State.afterMark_moves
    | with_reducible apply State.fundamentalNow_moves
    | with_reducible apply State.markAll_moves
    | with_reducible apply State.mark_moves
    | with_reducible apply State.tickMark_moves
    | with_reducible apply State.updCk_moves
    | with_reducible apply State.warmNow_moves)

theorem State.warmReset_moves {l_ : List Part} {z_ : State} {s : State} {v : Word} (h_ : Moves l_ z_ s) (hl_ : Part.sub [.regs, .pu, .ck] l_ = true) :
    Moves l_ z_ (State.warmReset s v) := by
  refine h_.step ?_ hl_
  clear h_ hl_
  have h_ := Moves.refl [.regs, .pu, .ck] s
  unfold State.warmReset
  repeat' (first
    | with_reducible assumption
    | intro _
    | with_reducible apply Moves.ite
    | exact (rfl : _ = true)
    | with_reducible apply State.abdicate_moves
    | with_reducible apply State.bump_moves
    | with_reducible apply State.setF_moves
    | with_reducible apply State.updCk_moves)

theorem State.warmEnd_moves {l_ : List Part} {z_ : State} {s : State} (h_ : Moves l_ z_ s) (hl_ : Part.sub [.regs, .lx, .tree, .qe, .fn, .pu, .ck, .out] l_ = true) :
    Moves l_ z_ (State.warmEnd s) := by
  refine h_.step ?_ hl_
  clear h_ hl_
  have h_ := Moves.refl [.regs, .lx, .tree, .qe, .fn, .pu, .ck, .out] s
  unfold State.warmEnd
  repeat' (first
    | with_reducible assumption
    | intro _
    | with_reducible apply Moves.ite
    | exact (rfl : _ = true)
    | with_reducible apply State.freeRun_moves
    | with_reducible apply State.pairStart_moves
    | with_reducible apply State.rescan_moves
    | with_reducible apply State.tmBegins_moves
    | with_reducible apply State.updCk_moves)

theorem execMicroframeMark_moves {t_ : State} {s : State} (e_ : execMicroframeMark s = .next t_) : Moves [.time, .regs, .lx, .tree, .ts, .ebm, .bus, .qe, .bm, .xb, .fn, .mre, .gd, .sv, .pu, .pm, .ck, .free, .out] s t_ := by
  have h_ := Moves.refl [.time, .regs, .lx, .tree, .ts, .ebm, .bus, .qe, .bm, .xb, .fn, .mre, .gd, .sv, .pu, .pm, .ck, .free, .out] s
  unfold execMicroframeMark at e_
  injection e_ with e_
  subst e_
  repeat' (first
    | with_reducible assumption
    | exact (rfl : _ = true)
    | with_reducible apply State.markRow_moves)

theorem execWarmReset_moves {t_ : State} {v : Word} {s : State} (e_ : execWarmReset v s = .next t_) : Moves [.regs, .fn, .pu, .pm, .ck, .out] s t_ := by
  have h_ := Moves.refl [.regs, .fn, .pu, .pm, .ck, .out] s
  unfold execWarmReset at e_
  injection e_ with e_
  subst e_
  repeat' (first
    | with_reducible assumption
    | intro _
    | exact (rfl : _ = true)
    | with_reducible apply State.pfWrite_moves
    | with_reducible apply State.warmReset_moves)

theorem execWarmResetEnd_moves {t_ : State} {s : State} (e_ : execWarmResetEnd s = .next t_) : Moves [.regs, .lx, .tree, .qe, .fn, .pu, .ck, .out] s t_ := by
  have h_ := Moves.refl [.regs, .lx, .tree, .qe, .fn, .pu, .ck, .out] s
  unfold execWarmResetEnd at e_
  injection e_ with e_
  subst e_
  repeat' (first
    | with_reducible assumption
    | exact (rfl : _ = true)
    | with_reducible apply State.warmEnd_moves)

end Sys2Proof.Machine
end

