-- ==== Sys2Proof/Laws/AccessMoves.lean ====
section
/-! SUPPORT. What the operations of Machine/Access.lean may touch. -/

set_option Elab.async false
set_option linter.unusedTactic false
set_option linter.unreachableTactic false

namespace Sys2Proof.Machine

theorem State.answer_moves {l_ : List Part} {z_ : State} {s : State} {w : Word} (h_ : Moves l_ z_ s) (hl_ : Part.sub [.fn, .out] l_ = true) :
    Moves l_ z_ (State.answer s w) := by
  refine h_.step ?_ hl_
  clear h_ hl_
  have h_ := Moves.refl [.fn, .out] s
  unfold State.answer
  repeat' (first
    | with_reducible assumption
    | intro _
    | exact (rfl : _ = true)
    | with_reducible apply State.sendHost_moves)

theorem State.bellWrite_moves {l_ : List Part} {z_ : State} {s : State} {o : ℕ} (h_ : Moves l_ z_ s) (hl_ : Part.sub [.regs, .qe, .fn, .pm, .out] l_ = true) :
    Moves l_ z_ (State.bellWrite s o) := by
  refine h_.step ?_ hl_
  clear h_ hl_
  have h_ := Moves.refl [.regs, .qe, .fn, .pm, .out] s
  unfold State.bellWrite
  repeat' (first
    | with_reducible assumption
    | intro _
    | with_reducible apply Moves.ite
    | exact (rfl : _ = true)
    | with_reducible apply State.doorbell_moves
    | with_reducible apply State.invalidateBell_moves)

theorem State.readReg_moves {l_ : List Part} {z_ : State} {s : State} {a : ℕ} {k : ℕ} (h_ : Moves l_ z_ s) (hl_ : Part.sub [.regs, .fn] l_ = true) :
    Moves l_ z_ (State.readReg s a k).2 := by
  refine h_.step ?_ hl_
  clear h_ hl_
  have h_ := Moves.refl [.regs, .fn] s
  unfold State.readReg
  repeat' (first
    | with_reducible assumption
    | (extract_lets -underBinder +onlyGivenNames x_; first | (refine (fun hx_ : Moves [.regs, .fn] s x_ => ?_) ?_; (on_goal 1 => (clear_value x_; revert hx_; revert x_; intro _ _)); (on_goal 2 => subst x_)) | (clear_value x_; revert x_; intro _))
    | intro _
    | exact (rfl : _ = true)
    | with_reducible apply State.clearRc_moves
    | with_reducible apply State.updFn_moves
    | split)

theorem State.answerWide_moves {l_ : List Part} {z_ : State} {s : State} {lo : Word} {hi : Word} (h_ : Moves l_ z_ s) (hl_ : Part.sub [.fn, .out] l_ = true) :
    Moves l_ z_ (State.answerWide s lo hi) := by
  refine h_.step ?_ hl_
  clear h_ hl_
  have h_ := Moves.refl [.fn, .out] s
  unfold State.answerWide
  repeat' (first
    | with_reducible assumption
    | intro _
    | with_reducible apply Moves.ite
    | exact (rfl : _ = true)
    | with_reducible apply State.sendHost_moves
    | split)

theorem State.pfWord_moves {l_ : List Part} {z_ : State} {s : State} {a : Nat} (h_ : Moves l_ z_ s) (hl_ : Part.sub [.regs, .fn, .pm, .out] l_ = true) :
    Moves l_ z_ (State.pfWord s a).2 := by
  unfold State.pfWord
  split
  · exact State.gate_moves h_ (Part.sub_trans rfl hl_)
  · split
    · exact h_
    · exact State.readReg_moves h_ (Part.sub_trans rfl hl_)

theorem State.vfWord_moves {l_ : List Part} {z_ : State} {s : State} {f : Nat} {o : Nat} (h_ : Moves l_ z_ s) (hl_ : Part.sub [.regs, .fn, .pm, .out] l_ = true) :
    Moves l_ z_ (State.vfWord s f o).2 := by
  unfold State.vfWord
  repeat' (first
    | exact h_
    | exact State.gate_moves h_ (Part.sub_trans rfl hl_)
    | exact State.updFn_moves h_ (Part.sub_trans rfl hl_)
    | split)

theorem State.prbsSeen_moves {l_ : List Part} {z_ : State} {s : State} {a : Nat} {errors : Nat} {wide : Bool} (h_ : Moves l_ z_ s) (hl_ : Part.sub [.regs] l_ = true) :
    Moves l_ z_ (State.prbsSeen s a errors wide) := by
  refine h_.step ?_ hl_
  clear h_ hl_
  have h_ := Moves.refl [.regs] s
  unfold State.prbsSeen
  repeat' (first
    | with_reducible assumption
    | intro _
    | with_reducible apply Moves.ite
    | exact (rfl : _ = true)
    | with_reducible apply State.prbsErrors_moves
    | split)

theorem State.mgtRead_moves {l_ : List Part} {z_ : State} {s : State} {off : ℕ} (h_ : Moves l_ z_ s) (hl_ : Part.sub [.regs, .fn, .pm, .out] l_ = true) :
    Moves l_ z_ (State.mgtRead s off) := by
  refine h_.step ?_ hl_
  clear h_ hl_
  have h_ := Moves.refl [.regs, .fn, .pm, .out] s
  unfold State.mgtRead
  repeat' (first
    | with_reducible assumption
    | intro _
    | with_reducible apply Moves.ite
    | exact (rfl : _ = true)
    | with_reducible apply State.emit_moves
    | with_reducible apply State.readReg_moves
    | with_reducible apply State.updPm_moves
    | with_reducible apply State.when_moves)

theorem State.writePmu_moves {l_ : List Part} {z_ : State} {s : State} {a : ℕ} {v : Word} {src : WakeSource} (h_ : Moves l_ z_ s) (hl_ : Part.sub [.regs, .lx, .qe, .bm, .xb, .fn, .gd, .sv, .pu, .pm, .ck, .free, .out] l_ = true) :
    Moves l_ z_ (State.writePmu s a v src) := by
  refine h_.step ?_ hl_
  clear h_ hl_
  have h_ := Moves.refl [.regs, .lx, .qe, .bm, .xb, .fn, .gd, .sv, .pu, .pm, .ck, .free, .out] s
  unfold State.writePmu
  repeat' (first
    | with_reducible assumption
    | intro _
    | with_reducible apply Moves.ite
    | exact (rfl : _ = true)
    | with_reducible apply State.dvfsStep_moves
    | with_reducible apply State.requestSleep_moves
    | with_reducible apply State.writeReg_moves)

theorem State.writeCkg_moves {l_ : List Part} {z_ : State} {s : State} {a : ℕ} {v : Word} (h_ : Moves l_ z_ s) (hl_ : Part.sub [.regs, .pu, .ck] l_ = true) :
    Moves l_ z_ (State.writeCkg s a v) := by
  refine h_.step ?_ hl_
  clear h_ hl_
  have h_ := Moves.refl [.regs, .pu, .ck] s
  unfold State.writeCkg
  repeat' (first
    | with_reducible assumption
    | intro _
    | with_reducible apply Moves.ite
    | exact (rfl : _ = true)
    | with_reducible apply State.reselect_moves
    | with_reducible apply State.warmReset_moves
    | with_reducible apply State.writeReg_moves)

theorem State.writeHif_moves {l_ : List Part} {z_ : State} {s : State} {a : ℕ} {v : Word} (h_ : Moves l_ z_ s) (hl_ : Part.sub [.regs, .fn, .out] l_ = true) :
    Moves l_ z_ (State.writeHif s a v) := by
  refine h_.step ?_ hl_
  clear h_ hl_
  have h_ := Moves.refl [.regs, .fn, .out] s
  unfold State.writeHif
  repeat' (first
    | with_reducible assumption
    | intro _
    | with_reducible apply Moves.ite
    | exact (rfl : _ = true)
    | with_reducible apply State.setReg_moves
    | with_reducible apply State.unmask_moves
    | with_reducible apply State.updFn_moves
    | with_reducible apply State.writeReg_moves)

theorem State.writeQe_moves {l_ : List Part} {z_ : State} {s : State} {a : ℕ} {v : Word} (h_ : Moves l_ z_ s) (hl_ : Part.sub [.regs, .qe, .fn, .out] l_ = true) :
    Moves l_ z_ (State.writeQe s a v) := by
  refine h_.step ?_ hl_
  clear h_ hl_
  have h_ := Moves.refl [.regs, .qe, .fn, .out] s
  unfold State.writeQe
  repeat' (first
    | with_reducible assumption
    | intro _
    | with_reducible apply Moves.ite
    | exact (rfl : _ = true)
    | with_reducible apply State.adminWrite_moves
    | with_reducible apply State.rescan_moves
    | with_reducible apply State.writeReg_moves)

theorem State.writeBm_moves {l_ : List Part} {z_ : State} {s : State} {a : ℕ} {v : Word} (h_ : Moves l_ z_ s) (hl_ : Part.sub [.regs, .ts, .ebm, .bus, .qe, .bm, .xb, .fn, .mre, .out] l_ = true) :
    Moves l_ z_ (State.writeBm s a v) := by
  refine h_.step ?_ hl_
  clear h_ hl_
  have h_ := Moves.refl [.regs, .ts, .ebm, .bus, .qe, .bm, .xb, .fn, .mre, .out] s
  unfold State.writeBm
  repeat' (first
    | with_reducible assumption
    | intro _
    | with_reducible apply Moves.ite
    | exact (rfl : _ = true)
    | with_reducible apply State.endJob_moves
    | with_reducible apply State.writeReg_moves)

theorem State.writeXb_moves {l_ : List Part} {z_ : State} {s : State} {a : ℕ} {v : Word} (h_ : Moves l_ z_ s) (hl_ : Part.sub [.regs, .xb] l_ = true) :
    Moves l_ z_ (State.writeXb s a v) := by
  refine h_.step ?_ hl_
  clear h_ hl_
  have h_ := Moves.refl [.regs, .xb] s
  unfold State.writeXb
  repeat' (first
    | with_reducible assumption
    | intro _
    | with_reducible apply Moves.ite
    | exact (rfl : _ = true)
    | with_reducible apply State.clearView_moves
    | with_reducible apply State.when_moves
    | with_reducible apply State.winCfg_moves
    | with_reducible apply State.writeReg_moves)

theorem State.writeTs_moves {l_ : List Part} {z_ : State} {s : State} {a : ℕ} {v : Word} (h_ : Moves l_ z_ s) (hl_ : Part.sub [.regs] l_ = true) :
    Moves l_ z_ (State.writeTs s a v) := by
  refine h_.step ?_ hl_
  clear h_ hl_
  have h_ := Moves.refl [.regs] s
  unfold State.writeTs
  repeat' (first
    | with_reducible assumption
    | intro _
    | with_reducible apply Moves.ite
    | exact (rfl : _ = true)
    | with_reducible apply State.trunkCfg_moves
    | with_reducible apply State.writeReg_moves)

theorem State.writeTm_moves {l_ : List Part} {z_ : State} {s : State} {a : ℕ} {v : Word} (h_ : Moves l_ z_ s) (hl_ : Part.sub [.regs, .lx, .tree, .ts, .ebm, .bus, .qe, .bm, .xb, .fn, .mre, .pu, .ck, .free, .out] l_ = true) :
    Moves l_ z_ (State.writeTm s a v) := by
  refine h_.step ?_ hl_
  clear h_ hl_
  have h_ := Moves.refl [.regs, .lx, .tree, .ts, .ebm, .bus, .qe, .bm, .xb, .fn, .mre, .pu, .ck, .free, .out] s
  unfold State.writeTm
  repeat' (first
    | with_reducible assumption
    | intro _
    | with_reducible apply Moves.ite
    | exact (rfl : _ = true)
    | with_reducible apply State.portCtrl_moves
    | with_reducible apply State.tmEnable_moves
    | with_reducible apply State.writeReg_moves)

theorem State.writeLx_moves {l_ : List Part} {z_ : State} {s : State} {a : ℕ} {v : Word} (h_ : Moves l_ z_ s) (hl_ : Part.sub [.regs, .lx, .tree, .ts, .ebm, .bus, .qe, .bm, .xb, .fn, .mre, .pu, .ck, .out] l_ = true) :
    Moves l_ z_ (State.writeLx s a v) := by
  refine h_.step ?_ hl_
  clear h_ hl_
  have h_ := Moves.refl [.regs, .lx, .tree, .ts, .ebm, .bus, .qe, .bm, .xb, .fn, .mre, .pu, .ck, .out] s
  unfold State.writeLx
  repeat' (first
    | with_reducible assumption
    | intro _
    | with_reducible apply Moves.ite
    | exact (rfl : _ = true)
    | with_reducible apply State.eyeStart_moves
    | with_reducible apply State.inject_moves
    | with_reducible apply State.laneEnable_moves
    | with_reducible apply State.quadCfg_moves
    | with_reducible apply State.when_moves
    | with_reducible apply State.writeReg_moves
    | with_reducible apply State.setB_moves
    | with_reducible apply State.prbsCtrl_moves)

theorem State.writeMre_moves {l_ : List Part} {z_ : State} {s : State} {a : ℕ} {v : Word} (h_ : Moves l_ z_ s) (hl_ : Part.sub [.regs, .gd, .pu, .out] l_ = true) :
    Moves l_ z_ (State.writeMre s a v) := by
  refine h_.step ?_ hl_
  clear h_ hl_
  have h_ := Moves.refl [.regs, .gd, .pu, .out] s
  unfold State.writeMre
  repeat' (first
    | with_reducible assumption
    | intro _
    | with_reducible apply Moves.ite
    | exact (rfl : _ = true)
    | with_reducible apply State.admitCfg_moves
    | with_reducible apply State.obsCtrl_moves
    | with_reducible apply State.writeReg_moves
    | with_reducible apply State.endWaits_moves)

theorem State.writePu_moves {l_ : List Part} {z_ : State} {s : State} {a : ℕ} {v : Word} (h_ : Moves l_ z_ s) (hl_ : Part.sub [.regs, .lx, .tree, .ts, .ebm, .bus, .qe, .bm, .xb, .fn, .mre, .pu, .ck, .out] l_ = true) :
    Moves l_ z_ (State.writePu s a v) := by
  refine h_.step ?_ hl_
  clear h_ hl_
  have h_ := Moves.refl [.regs, .lx, .tree, .ts, .ebm, .bus, .qe, .bm, .xb, .fn, .mre, .pu, .ck, .out] s
  unfold State.writePu
  repeat' (first
    | with_reducible assumption
    | intro _
    | with_reducible apply Moves.ite
    | exact (rfl : _ = true)
    | with_reducible apply State.pairEnable_moves
    | with_reducible apply State.reselect_moves
    | with_reducible apply State.writeReg_moves)

theorem State.writeRsq_moves {l_ : List Part} {z_ : State} {s : State} {a : ℕ} {v : Word} (h_ : Moves l_ z_ s) (hl_ : Part.sub [.regs, .ck] l_ = true) :
    Moves l_ z_ (State.writeRsq s a v) := by
  refine h_.step ?_ hl_
  clear h_ hl_
  have h_ := Moves.refl [.regs, .ck] s
  unfold State.writeRsq
  repeat' (first
    | with_reducible assumption
    | intro _
    | with_reducible apply Moves.ite
    | exact (rfl : _ = true)
    | with_reducible apply State.flashStart_moves
    | with_reducible apply State.rsqWrite_moves
    | with_reducible apply State.writeReg_moves)

theorem State.putBlock_moves {l_ : List Part} {z_ : State} {s : State} {a : ℕ} {v : Word} {src : WakeSource} (h_ : Moves l_ z_ s) (hl_ : Part.sub [.regs, .lx, .tree, .ts, .ebm, .bus, .qe, .bm, .xb, .fn, .mre, .gd, .sv, .pu, .pm, .ck, .free, .out] l_ = true) :
    Moves l_ z_ (State.putBlock s a v src) := by
  refine h_.step ?_ hl_
  clear h_ hl_
  have h_ := Moves.refl [.regs, .lx, .tree, .ts, .ebm, .bus, .qe, .bm, .xb, .fn, .mre, .gd, .sv, .pu, .pm, .ck, .free, .out] s
  unfold State.putBlock
  repeat' (first
    | with_reducible assumption
    | exact (rfl : _ = true)
    | with_reducible apply State.writeBm_moves
    | with_reducible apply State.writeCkg_moves
    | with_reducible apply State.writeHif_moves
    | with_reducible apply State.writeLx_moves
    | with_reducible apply State.writeMre_moves
    | with_reducible apply State.writePmu_moves
    | with_reducible apply State.writePu_moves
    | with_reducible apply State.writeQe_moves
    | with_reducible apply State.writeReg_moves
    | with_reducible apply State.writeRsq_moves
    | with_reducible apply State.writeTm_moves
    | with_reducible apply State.writeTs_moves
    | with_reducible apply State.writeXb_moves
    | split)

theorem State.putReg_moves {l_ : List Part} {z_ : State} {s : State} {a : ℕ} {v : Word} {src : WakeSource} (h_ : Moves l_ z_ s) (hl_ : Part.sub [.regs, .lx, .tree, .ts, .ebm, .bus, .qe, .bm, .xb, .fn, .mre, .gd, .sv, .pu, .pm, .ck, .free, .out] l_ = true) :
    Moves l_ z_ (State.putReg s a v src) := by
  refine h_.step ?_ hl_
  clear h_ hl_
  have h_ := Moves.refl [.regs, .lx, .tree, .ts, .ebm, .bus, .qe, .bm, .xb, .fn, .mre, .gd, .sv, .pu, .pm, .ck, .free, .out] s
  unfold State.putReg
  repeat' (first
    | with_reducible assumption
    | intro _
    | with_reducible apply Moves.ite
    | exact (rfl : _ = true)
    | with_reducible apply State.pairHold_moves
    | with_reducible apply State.putBlock_moves)

theorem State.mgtWrite_moves {l_ : List Part} {z_ : State} {s : State} {off : ℕ} {v : Word} (h_ : Moves l_ z_ s) (hl_ : Part.sub [.regs, .lx, .tree, .ts, .ebm, .bus, .qe, .bm, .xb, .fn, .mre, .gd, .sv, .pu, .pm, .ck, .free, .out] l_ = true) :
    Moves l_ z_ (State.mgtWrite s off v) := by
  refine h_.step ?_ hl_
  clear h_ hl_
  have h_ := Moves.refl [.regs, .lx, .tree, .ts, .ebm, .bus, .qe, .bm, .xb, .fn, .mre, .gd, .sv, .pu, .pm, .ck, .free, .out] s
  unfold State.mgtWrite
  repeat' (first
    | with_reducible assumption
    | intro _
    | with_reducible apply Moves.ite
    | exact (rfl : _ = true)
    | with_reducible apply State.putReg_moves
    | with_reducible apply State.wake_moves)

theorem State.pfRead_moves {l_ : List Part} {z_ : State} {s : State} {a : Nat} {wide : Bool} (h_ : Moves l_ z_ s) (hl_ : Part.sub [.regs, .fn, .pm, .out] l_ = true) :
    Moves l_ z_ (State.pfRead s a wide) := by
  refine h_.step ?_ hl_
  clear h_ hl_
  have h_ := Moves.refl [.regs, .fn, .pm, .out] s
  unfold State.pfRead
  repeat' (first
    | with_reducible assumption
    | intro _
    | with_reducible apply Moves.ite
    | exact (rfl : _ = true)
    | with_reducible apply State.aer_moves
    | with_reducible apply State.answer_moves
    | with_reducible apply State.answerWide_moves
    | with_reducible apply State.unsupported_moves
    | with_reducible apply State.pfWord_moves
    | with_reducible apply State.sendHost_moves
    | split)

theorem State.vfRead_moves {l_ : List Part} {z_ : State} {s : State} {f : Nat} {o : Nat} {wide : Bool} (h_ : Moves l_ z_ s) (hl_ : Part.sub [.regs, .fn, .pm, .out] l_ = true) :
    Moves l_ z_ (State.vfRead s f o wide) := by
  refine h_.step ?_ hl_
  clear h_ hl_
  have h_ := Moves.refl [.regs, .fn, .pm, .out] s
  unfold State.vfRead
  repeat' (first
    | with_reducible assumption
    | intro _
    | with_reducible apply Moves.ite
    | exact (rfl : _ = true)
    | with_reducible apply State.aer_moves
    | with_reducible apply State.answer_moves
    | with_reducible apply State.answerWide_moves
    | with_reducible apply State.unsupported_moves
    | with_reducible apply State.vfWord_moves
    | with_reducible apply State.sendHost_moves
    | split)

theorem State.registerRead_moves {l_ : List Part} {z_ : State} {s : State} {f : Nat} {a : Nat} {wide : Bool} (h_ : Moves l_ z_ s) (hl_ : Part.sub [.regs, .fn, .pm, .out] l_ = true) :
    Moves l_ z_ (State.registerRead s f a wide) := by
  refine h_.step ?_ hl_
  clear h_ hl_
  have h_ := Moves.refl [.regs, .fn, .pm, .out] s
  unfold State.registerRead
  repeat' (first
    | with_reducible assumption
    | intro _
    | with_reducible apply Moves.ite
    | exact (rfl : _ = true)
    | with_reducible apply State.pfRead_moves
    | with_reducible apply State.vfRead_moves
    | split)

theorem State.registerWrite_moves {l_ : List Part} {z_ : State} {s : State} {a : ℕ} {v : Word} {be : ℕ} (h_ : Moves l_ z_ s) (hl_ : Part.sub [.regs, .lx, .tree, .ts, .ebm, .bus, .qe, .bm, .xb, .fn, .mre, .gd, .sv, .pu, .pm, .ck, .free, .out] l_ = true) :
    Moves l_ z_ (State.registerWrite s a v be) := by
  refine h_.step ?_ hl_
  clear h_ hl_
  have h_ := Moves.refl [.regs, .lx, .tree, .ts, .ebm, .bus, .qe, .bm, .xb, .fn, .mre, .gd, .sv, .pu, .pm, .ck, .free, .out] s
  unfold State.registerWrite
  repeat' (first
    | with_reducible assumption
    | intro _
    | with_reducible apply Moves.ite
    | exact (rfl : _ = true)
    | with_reducible apply State.bellWrite_moves
    | with_reducible apply State.pfWrite_moves
    | with_reducible apply State.putReg_moves)

theorem State.wideWrite_moves {l_ : List Part} {z_ : State} {s : State} {a : Nat} {v : Word} {be : Nat} {v2 : Word} {be2 : Nat} (h_ : Moves l_ z_ s) (hl_ : Part.sub [.regs, .lx, .tree, .ts, .ebm, .bus, .qe, .bm, .xb, .fn, .mre, .gd, .sv, .pu, .pm, .ck, .free, .out] l_ = true) :
    Moves l_ z_ (State.wideWrite s a v be v2 be2) := by
  refine h_.step ?_ hl_
  clear h_ hl_
  have h_ := Moves.refl [.regs, .lx, .tree, .ts, .ebm, .bus, .qe, .bm, .xb, .fn, .mre, .gd, .sv, .pu, .pm, .ck, .free, .out] s
  unfold State.wideWrite
  repeat' (first
    | with_reducible assumption
    | intro _
    | with_reducible apply Moves.ite
    | exact (rfl : _ = true)
    | with_reducible apply State.registerWrite_moves
    | split)

theorem execMgtAddressMatch_moves {t_ : State} {addr7 : BitVec 7} {s : State} (e_ : execMgtAddressMatch addr7 s = .next t_) : Moves [.regs, .qe, .fn, .pu, .pm, .out] s t_ := by
  have h_ := Moves.refl [.regs, .qe, .fn, .pu, .pm, .out] s
  unfold execMgtAddressMatch at e_
  injection e_ with e_
  subst e_
  repeat' (first
    | with_reducible assumption
    | intro _
    | with_reducible apply Moves.ite
    | exact (rfl : _ = true)
    | with_reducible apply State.wake_moves)

theorem execMgtRegisterRead_moves {t_ : State} {off : Byte} {s : State} (e_ : execMgtRegisterRead off s = .next t_) : Moves [.regs, .fn, .pm, .out] s t_ := by
  have h_ := Moves.refl [.regs, .fn, .pm, .out] s
  unfold execMgtRegisterRead at e_
  injection e_ with e_
  subst e_
  repeat' (first
    | with_reducible assumption
    | exact (rfl : _ = true)
    | with_reducible apply State.mgtRead_moves)

theorem execMgtRegisterWrite_moves {t_ : State} {off : Byte} {v : Word} {s : State} (e_ : execMgtRegisterWrite off v s = .next t_) : Moves [.regs, .lx, .tree, .ts, .ebm, .bus, .qe, .bm, .xb, .fn, .mre, .gd, .sv, .pu, .pm, .ck, .free, .out] s t_ := by
  have h_ := Moves.refl [.regs, .lx, .tree, .ts, .ebm, .bus, .qe, .bm, .xb, .fn, .mre, .gd, .sv, .pu, .pm, .ck, .free, .out] s
  unfold execMgtRegisterWrite at e_
  injection e_ with e_
  subst e_
  repeat' (first
    | with_reducible assumption
    | exact (rfl : _ = true)
    | with_reducible apply State.mgtWrite_moves)

theorem State.badRead_moves {l_ : List Part} {z_ : State} {s : State} {f : ℕ} {x : ReadError} (h_ : Moves l_ z_ s) (hl_ : Part.sub [.regs, .fn, .out] l_ = true) :
    Moves l_ z_ (State.badRead s f x) := by
  refine h_.step ?_ hl_
  clear h_ hl_
  have h_ := Moves.refl [.regs, .fn, .out] s
  unfold State.badRead
  repeat' (first
    | with_reducible assumption
    | intro _
    | with_reducible apply Moves.ite
    | exact (rfl : _ = true)
    | with_reducible apply State.aer_moves
    | with_reducible apply State.ecrcFail_moves
    | with_reducible apply State.sendHost_moves
    | with_reducible apply State.unsupported_moves
    | split)

theorem State.badWrite_moves {l_ : List Part} {z_ : State} {s : State} {f : ℕ} {x : TlpError} (h_ : Moves l_ z_ s) (hl_ : Part.sub [.regs, .fn] l_ = true) :
    Moves l_ z_ (State.badWrite s f x) := by
  refine h_.step ?_ hl_
  clear h_ hl_
  have h_ := Moves.refl [.regs, .fn] s
  unfold State.badWrite
  repeat' (first
    | with_reducible assumption
    | intro _
    | with_reducible apply Moves.ite
    | exact (rfl : _ = true)
    | with_reducible apply State.aer_moves
    | with_reducible apply State.ecrcFail_moves
    | with_reducible apply State.poisonedTlp_moves
    | split)

theorem execRegisterReadRc_moves {t_ : State} {fn : ReadTlp} {addr : BitVec 25} {s : State} (e_ : execRegisterReadRc fn addr s = .next t_) : Moves [.regs, .fn, .pm, .out] s t_ := by
  have h_ := Moves.refl [.regs, .fn, .pm, .out] s
  unfold execRegisterReadRc at e_
  injection e_ with e_
  subst e_
  repeat' (first
    | with_reducible assumption
    | intro _
    | exact (rfl : _ = true)
    | with_reducible apply State.badRead_moves
    | with_reducible apply State.registerRead_moves
    | with_reducible apply State.prbsSeen_moves
    | split)

theorem execRegisterWrite_moves {t_ : State} {addr : BitVec 25} {v : Word} {be : WriteTlp} {s : State} (e_ : execRegisterWrite addr v be s = .next t_) : Moves [.regs, .lx, .tree, .ts, .ebm, .bus, .qe, .bm, .xb, .fn, .mre, .gd, .sv, .pu, .pm, .ck, .free, .out] s t_ := by
  have h_ := Moves.refl [.regs, .lx, .tree, .ts, .ebm, .bus, .qe, .bm, .xb, .fn, .mre, .gd, .sv, .pu, .pm, .ck, .free, .out] s
  unfold execRegisterWrite at e_
  injection e_ with e_
  subst e_
  repeat' (first
    | with_reducible assumption
    | intro _
    | exact (rfl : _ = true)
    | with_reducible apply State.badWrite_moves
    | with_reducible apply State.registerWrite_moves
    | with_reducible apply State.wideWrite_moves
    | split)

end Sys2Proof.Machine
end

