-- ==== Sys2Proof/Laws/Exec.lean ====
section
/-! SUPPORT. What a command may touch, all commands together: the frame of every command, and what follows from it. -/

set_option Elab.async false

namespace Sys2Proof.Machine

theorem exec_moves {i : Instr} {s t : State} (h : exec i s = .next t) : Moves (parts i) s t := by
  cases i
  case microframeMark => exact execMicroframeMark_moves h
  case fillDeadline => exact execFillDeadline_moves h
  case scheduleBankSwitch => exact execScheduleBankSwitch_moves h
  case graphSwapTakeover => exact execGraphSwapTakeover_moves h
  case graphSwapComplete => exact execGraphSwapComplete_moves h
  case graphLoadResume => exact execGraphLoadResume_moves h
  case rebaseEnd => exact execRebaseEnd_moves h
  case inputCutoff => exact execInputCutoff_moves h
  case decisionTime => exact execDecisionTime_moves h
  case walkerIssue => exact execWalkerIssue_moves h
  case npTransactionStart => exact execNpTransactionStart_moves h
  case tagReuseExpiry => exact execTagReuseExpiry_moves h
  case periodicInData => exact execPeriodicInData_moves h
  case npDataReceived => exact execNpDataReceived_moves h
  case ackReceived => exact execAckReceived_moves h
  case nakReceived => exact execNakReceived_moves h
  case stallReceived => exact execStallReceived_moves h
  case nyetReceived => exact execNyetReceived_moves h
  case errReceived => exact execErrReceived_moves h
  case lockAckReceived => exact execLockAckReceived_moves h
  case lockBusyReceived => exact execLockBusyReceived_moves h
  case corruptPacketReceived => exact execCorruptPacketReceived_moves h
  case responseWindowClose => exact execResponseWindowClose_moves h
  case markOnRootPort => exact execMarkOnRootPort_moves h
  case delineationLoss => exact execDelineationLoss_moves h
  case markerSend => exact execMarkerSend_moves h
  case markerReceived => exact execMarkerReceived_moves h
  case alignmentComplete => exact execAlignmentComplete_moves h
  case laneEnableWrite => exact execLaneEnableWrite_moves h
  case laneTrainStart => exact execLaneTrainStart_moves h
  case laneRetrainReq => exact execLaneRetrainReq_moves h
  case quadCfgWrite => exact execQuadCfgWrite_moves h
  case trainHeaderReceived => exact execTrainHeaderReceived_moves h
  case adaptationConverged => exact execAdaptationConverged_moves h
  case trainingComplete => exact execTrainingComplete_moves h
  case trainingTimeout => exact execTrainingTimeout_moves h
  case failedRetryTimer => exact execFailedRetryTimer_moves h
  case blockLockLost => exact execBlockLockLost_moves h
  case adaptationFreeze => exact execAdaptationFreeze_moves h
  case adaptationResume => exact execAdaptationResume_moves h
  case marginCheckStart => exact execMarginCheckStart_moves h
  case marginCheckComplete => exact execMarginCheckComplete_moves h
  case twillRetrainTimeout => exact execTwillRetrainTimeout_moves h
  case retrainSlotStart => exact execRetrainSlotStart_moves h
  case retrainSlotEnd => exact execRetrainSlotEnd_moves h
  case retrainBlockReceived => exact execRetrainBlockReceived_moves h
  case eyeSwOwn => exact execEyeSwOwn_moves h
  case eyeScanStart => exact execEyeScanStart_moves h
  case eyePointDone => exact execEyePointDone_moves h
  case lpiKeepaliveWake => exact execLpiKeepaliveWake_moves h
  case prbsInjectSingle => exact execPrbsInjectSingle_moves h
  case prbsInjectBurst => exact execPrbsInjectBurst_moves h
  case prbsLock => exact execPrbsLock_moves h
  case prbsLockLost => exact execPrbsLockLost_moves h
  case attachDebounceExpiry => exact execAttachDebounceExpiry_moves h
  case presenceLost => exact execPresenceLost_moves h
  case linkPresenceAttach => exact execLinkPresenceAttach_moves h
  case linkPresenceLost => exact execLinkPresenceLost_moves h
  case portCtrlWrite => exact execPortCtrlWrite_moves h
  case portSetPower => exact execPortSetPower_moves h
  case portClearPower => exact execPortClearPower_moves h
  case portSetReset => exact execPortSetReset_moves h
  case portSetSuspend => exact execPortSetSuspend_moves h
  case portSetResume => exact execPortSetResume_moves h
  case portSetEnable => exact execPortSetEnable_moves h
  case portClearEnable => exact execPortClearEnable_moves h
  case rootGetPortStatus => exact execRootGetPortStatus_moves h
  case resetSignallingEnd => exact execResetSignallingEnd_moves h
  case portResetComplete => exact execPortResetComplete_moves h
  case linkLost => exact execLinkLost_moves h
  case remoteWakeSignal => exact execRemoteWakeSignal_moves h
  case resumeComplete => exact execResumeComplete_moves h
  case hubStatusReport => exact execHubStatusReport_moves h
  case enumerationStart => exact execEnumerationStart_moves h
  case tmTransferComplete => exact execTmTransferComplete_moves h
  case addressBindingExpiry => exact execAddressBindingExpiry_moves h
  case pairPortTimeout => exact execPairPortTimeout_moves h
  case tmEnableWrite => exact execTmEnableWrite_moves h
  case tmBacklogDrain => exact execTmBacklogDrain_moves h
  case trunkCfgWrite => exact execTrunkCfgWrite_moves h
  case tsEnableWrite => exact execTsEnableWrite_moves h
  case slotAllocated => exact execSlotAllocated_moves h
  case ebmInitDone => exact execEbmInitDone_moves h
  case scrubPass => exact execScrubPass_moves h
  case diagWindowAccess => exact execDiagWindowAccess_moves h
  case operationDispatch => exact execOperationDispatch_moves h
  case affinityWaitExpiry => exact execAffinityWaitExpiry_moves h
  case operationComplete => exact execOperationComplete_moves h
  case spillMove => exact execSpillMove_moves h
  case heldNoticeEnter => exact execHeldNoticeEnter_moves h
  case clipRefillNotice => exact execClipRefillNotice_moves h
  case tapChunkComplete => exact execTapChunkComplete_moves h
  case clipStartTimer => exact execClipStartTimer_moves h
  case clipRepeatTimer => exact execClipRepeatTimer_moves h
  case clipStopTimer => exact execClipStopTimer_moves h
  case sweepSlotTimer => exact execSweepSlotTimer_moves h
  case pilotTimer => exact execPilotTimer_moves h
  case admitCfgWrite => exact execAdmitCfgWrite_moves h
  case obsCtrlWrite => exact execObsCtrlWrite_moves h
  case obsWindowClose => exact execObsWindowClose_moves h
  case refreshEnd => exact execRefreshEnd_moves h
  case pilotWindowEnd => exact execPilotWindowEnd_moves h
  case svBacklogDrain => exact execSvBacklogDrain_moves h
  case auditPartStart => exact execAuditPartStart_moves h
  case auditEyeComplete => exact execAuditEyeComplete_moves h
  case auditPrbsEnd => exact execAuditPrbsEnd_moves h
  case twillSwapPhase => exact execTwillSwapPhase_moves h
  case miodelTimeFrame => exact execMiodelTimeFrame_moves h
  case miodelPresenceFrame => exact execMiodelPresenceFrame_moves h
  case miodelBlocksFrame => exact execMiodelBlocksFrame_moves h
  case miodelDigestFrame => exact execMiodelDigestFrame_moves h
  case miodelClipFrame => exact execMiodelClipFrame_moves h
  case miodelRelayFrame => exact execMiodelRelayFrame_moves h
  case miodelMirrorFrame => exact execMiodelMirrorFrame_moves h
  case miodelCopyFrame => exact execMiodelCopyFrame_moves h
  case miodelAckFrame => exact execMiodelAckFrame_moves h
  case miodelHelloFrame => exact execMiodelHelloFrame_moves h
  case miodelAckTimer => exact execMiodelAckTimer_moves h
  case miodelResendTimeout => exact execMiodelResendTimeout_moves h
  case orderedChannelDown => exact execOrderedChannelDown_moves h
  case frameSyncPulse => exact execFrameSyncPulse_moves (_ns := 0) h
  case peerLossDetect => exact execPeerLossDetect_moves h
  case takeover => exact execTakeover_moves h
  case helloTimeout => exact execHelloTimeout_moves h
  case timeSourceLost => exact execTimeSourceLost_moves h
  case alignLost => exact execAlignLost_moves h
  case cascadeMarkReceived => exact execCascadeMarkReceived_moves h
  case pairEnableWrite => exact execPairEnableWrite_moves h
  case mirrorWriteApply => exact execMirrorWriteApply_moves h
  case handoverSwitch => exact execHandoverSwitch_moves h
  case barrierComplete => exact execBarrierComplete_moves h
  case joinPhaseEnd => exact execJoinPhaseEnd_moves h
  case joinDone => exact execJoinDone_moves h
  case joinTimeout => exact execJoinTimeout_moves h
  case puBacklogDrain => exact execPuBacklogDrain_moves h
  case doorbellWrite => exact execDoorbellWrite_moves h
  case invalidateDoorbell => exact execInvalidateDoorbell_moves h
  case ringScanData => exact execRingScanData_moves h
  case entryStart => exact execEntryStart_moves h
  case moderationTimerExpiry => exact execModerationTimerExpiry_moves h
  case msixUnmask => exact execMsixUnmask_moves h
  case nop => exact execNop_moves h
  case fence => exact execFence_moves h
  case bulkOut => exact execBulkOut_moves h
  case bulkIn => exact execBulkIn_moves h
  case control => exact execControl_moves h
  case tunnelTx => exact execTunnelTx_moves h
  case tunnelRx => exact execTunnelRx_moves h
  case move => exact execMove_moves h
  case moveIndexed => exact execMoveIndexed_moves h
  case clipPlay => exact execClipPlay_moves h
  case clipStop => exact execClipStop_moves h
  case tapRecord => exact execTapRecord_moves h
  case createSq => exact execCreateSq_moves h
  case deleteSq => exact execDeleteSq_moves h
  case createCq => exact execCreateCq_moves h
  case deleteCq => exact execDeleteCq_moves h
  case identify => exact execIdentify_moves h
  case setShare => exact execSetShare_moves h
  case getLog => exact execGetLog_moves h
  case endpointAdd => exact execEndpointAdd_moves h
  case endpointRemove => exact execEndpointRemove_moves h
  case scheduleCommit => exact execScheduleCommit_moves h
  case graphLoad => exact execGraphLoad_moves h
  case graphSwap => exact execGraphSwap_moves h
  case groupSet => exact execGroupSet_moves h
  case vfGrant => exact execVfGrant_moves h
  case vfFreeze => exact execVfFreeze_moves h
  case vfSave => exact execVfSave_moves h
  case vfRestore => exact execVfRestore_moves h
  case vfThaw => exact execVfThaw_moves h
  case engineRestart => exact execEngineRestart_moves h
  case auditStart => exact execAuditStart_moves h
  case pairQuery => exact execPairQuery_moves h
  case pairHandover => exact execPairHandover_moves h
  case pairLeave => exact execPairLeave_moves h
  case pairJoin => exact execPairJoin_moves h
  case pairSetRank => exact execPairSetRank_moves h
  case pairBarrier => exact execPairBarrier_moves h
  case dmaWindowSet => exact execDmaWindowSet_moves h
  case adminCfgWrite => exact execAdminCfgWrite_moves h
  case bmBurstStart => exact execBmBurstStart_moves h
  case bmHostCompletion => exact execBmHostCompletion_moves h
  case hostCompletionTimeout => exact execHostCompletionTimeout_moves h
  case bmAbort => exact execBmAbort_moves h
  case engineRestartDone => exact execEngineRestartDone_moves h
  case remoteWindowRead => exact execRemoteWindowRead_moves h
  case remoteWindowWrite => exact execRemoteWindowWrite_moves h
  case atomicopRequest => exact execAtomicopRequest_moves h
  case viewAccessStart => exact execViewAccessStart_moves h
  case readLimitExpiry => exact execReadLimitExpiry_moves h
  case lockSequenceStart => exact execLockSequenceStart_moves h
  case lockWaitExpiry => exact execLockWaitExpiry_moves h
  case lockRetry => exact execLockRetry_moves h
  case viewFaultClear => exact execViewFaultClear_moves h
  case windowCfgWrite => exact execWindowCfgWrite_moves h
  case d3hotEntry => exact execD3hotEntry_moves h
  case d0Return => exact execD0Return_moves h
  case pmeResend => exact execPmeResend_moves h
  case pmeTurnOff => exact execPmeTurnOff_moves h
  case aspmL1Request => exact execAspmL1Request_moves h
  case hostLinkDown => exact execHostLinkDown_moves h
  case hotReset => exact execHotReset_moves h
  case hostLossHandoverTimer => exact execHostLossHandoverTimer_moves h
  case pfFlr => exact execPfFlr_moves h
  case vfFlr => exact execVfFlr_moves h
  case vfFlrComplete => exact execVfFlrComplete_moves h
  case registerWrite => exact execRegisterWrite_moves h
  case requestSatin => exact execRequestSatin_moves h
  case requestDormant => exact execRequestDormant_moves h
  case requestActive => exact execRequestActive_moves h
  case satinEntry => exact execSatinEntry_moves h
  case satinReturnStep1 => exact execSatinReturnStep1_moves h
  case satinReturnStep2 => exact execSatinReturnStep2_moves h
  case dormantEntry => exact execDormantEntry_moves h
  case wakeEvent => exact execWakeEvent_moves h
  case alarmExpiry => exact execAlarmExpiry_moves h
  case pwrRdy => exact execPwrRdy_moves h
  case oscRdy => exact execOscRdy_moves h
  case memRdy => exact execMemRdy_moves h
  case logicRdy => exact execLogicRdy_moves h
  case dvfsVoltageStep => exact execDvfsVoltageStep_moves h
  case dvfsFrequencyStep => exact execDvfsFrequencyStep_moves h
  case dvfsVoltageDone => exact execDvfsVoltageDone_moves h
  case mgtRegisterWrite => exact execMgtRegisterWrite_moves h
  case mgtRegisterRead => exact execMgtRegisterRead_moves h
  case mgtAddressMatch => exact execMgtAddressMatch_moves h
  case tempSample => exact execTempSample_moves h
  case supplyLoss => exact execSupplyLoss_moves h
  case referenceAcquired => exact execReferenceAcquired_moves h
  case referenceLost => exact execReferenceLost_moves h
  case coldReset => exact execColdReset_moves h
  case coldResetRelease => exact execColdResetRelease_moves h
  case fundamentalReset => exact execFundamentalReset_moves h
  case perstRelease => exact execPerstRelease_moves h
  case bootLoadComplete => exact execBootLoadComplete_moves h
  case warmReset => exact execWarmReset_moves h
  case warmResetEnd => exact execWarmResetEnd_moves h
  case watchdogExpiry => exact execWatchdogExpiry_moves h
  case watchdogCountExpiry => exact execWatchdogCountExpiry_moves h
  case rsqRestart => exact execRsqRestart_moves h
  case rsqRestartDone => exact execRsqRestartDone_moves h
  case flashRead => exact execFlashRead_moves h
  case flashProgram => exact execFlashProgram_moves h
  case flashErase => exact execFlashErase_moves h
  case flashCommandDone => exact execFlashCommandDone_moves h
  case delineationRecovered => exact execDelineationRecovered_moves h
  case senseLevelChange => exact execSenseLevelChange_moves h
  case hostLinkUp => exact execHostLinkUp_moves h
  case configReady => exact execConfigReady_moves h
  case registerReadRc => exact execRegisterReadRc_moves h
  case pmeStatusClear => exact execPmeStatusClear_moves h
  case miodelFrameCrcFail => exact execMiodelFrameCrcFail_moves h
  case watchdogCountRestart => exact execWatchdogCountRestart_moves h
  case deviceRoleTokenReceived => exact execDeviceRoleTokenReceived_moves h
  case vfEnableWrite => exact execVfEnableWrite_moves h

end Sys2Proof.Machine
end

