-- ==== Sys2Proof/Laws/PerInstr.lean ====
section
/-! SUPPORT. One family of statements about commands as syntax: the bytes that a well-formed command brings with it are bounded, by the packets,
frames, entries and windows they come in (R40, R279, R321, R365, R429). -/

set_option Elab.async false

namespace Sys2Proof
open Machine

/-- Bytes that an access through BAR2 brings. -/
def DiagAccess.dataBytes : DiagAccess → Nat
  | .read .. => 0
  | .write _ b => b.length

/-- Bytes that a RELAY frame brings. -/
def RelayFrame.dataBytes : RelayFrame → Nat
  | .send _ b => b.length
  | .gotData _ d => d.payload.length
  | .gotHandshake .. => 0

/-- Bytes of data that a command brings with it. -/
def Instr.dataBytes : Instr → Nat
  | .periodicInData _ d => d.payload.length
  | .npDataReceived _ d => d.payload.length
  | .tmTransferComplete _ r => r.data.length
  | .diagWindowAccess a => a.dataBytes
  | .miodelRelayFrame f => f.dataBytes
  | .vfRestore _ _ b => b.length
  | .bmHostCompletion _ _ b => b.length
  | .remoteWindowWrite _ _ b => b.length
  | .deviceRoleTokenReceived _ k => k.payload.length
  | .microframeMark | .fillDeadline | .scheduleBankSwitch | .graphSwapTakeover | .graphSwapComplete | .graphLoadResume .. | .rebaseEnd
  | .inputCutoff | .decisionTime | .walkerIssue .. | .npTransactionStart .. | .tagReuseExpiry .. | .ackReceived .. | .nakReceived ..
  | .stallReceived .. | .nyetReceived .. | .errReceived .. | .lockAckReceived .. | .lockBusyReceived .. | .corruptPacketReceived ..
  | .responseWindowClose .. | .markOnRootPort .. | .delineationLoss .. | .markerSend .. | .markerReceived .. | .alignmentComplete ..
  | .laneEnableWrite .. | .laneTrainStart .. | .laneRetrainReq .. | .quadCfgWrite .. | .trainHeaderReceived .. | .adaptationConverged ..
  | .trainingComplete .. | .trainingTimeout .. | .failedRetryTimer .. | .blockLockLost .. | .adaptationFreeze .. | .adaptationResume ..
  | .marginCheckStart .. | .marginCheckComplete .. | .twillRetrainTimeout .. | .retrainSlotStart .. | .retrainSlotEnd ..
  | .retrainBlockReceived .. | .eyeSwOwn .. | .eyeScanStart .. | .eyePointDone .. | .lpiKeepaliveWake .. | .prbsInjectSingle ..
  | .prbsInjectBurst .. | .prbsLock .. | .prbsLockLost .. | .attachDebounceExpiry .. | .presenceLost .. | .linkPresenceAttach ..
  | .linkPresenceLost .. | .portCtrlWrite .. | .portSetPower .. | .portClearPower .. | .portSetReset .. | .portSetSuspend ..
  | .portSetResume .. | .portSetEnable .. | .portClearEnable .. | .rootGetPortStatus .. | .resetSignallingEnd .. | .portResetComplete ..
  | .linkLost .. | .remoteWakeSignal .. | .resumeComplete .. | .hubStatusReport .. | .enumerationStart .. | .addressBindingExpiry ..
  | .pairPortTimeout .. | .tmEnableWrite .. | .tmBacklogDrain | .trunkCfgWrite .. | .tsEnableWrite .. | .slotAllocated | .ebmInitDone
  | .scrubPass .. | .operationDispatch | .affinityWaitExpiry .. | .operationComplete .. | .spillMove .. | .heldNoticeEnter ..
  | .clipRefillNotice .. | .tapChunkComplete .. | .clipStartTimer .. | .clipRepeatTimer .. | .clipStopTimer .. | .sweepSlotTimer ..
  | .pilotTimer .. | .admitCfgWrite .. | .obsCtrlWrite .. | .obsWindowClose | .refreshEnd | .pilotWindowEnd .. | .svBacklogDrain
  | .auditPartStart | .auditEyeComplete .. | .auditPrbsEnd | .twillSwapPhase | .miodelTimeFrame .. | .miodelPresenceFrame ..
  | .miodelBlocksFrame .. | .miodelDigestFrame .. | .miodelClipFrame .. | .miodelMirrorFrame .. | .miodelCopyFrame ..
  | .miodelAckFrame .. | .miodelHelloFrame .. | .miodelAckTimer | .miodelResendTimeout | .orderedChannelDown | .frameSyncPulse ..
  | .peerLossDetect .. | .takeover | .helloTimeout | .timeSourceLost | .alignLost | .cascadeMarkReceived .. | .pairEnableWrite ..
  | .mirrorWriteApply | .handoverSwitch | .barrierComplete .. | .joinPhaseEnd | .joinDone | .joinTimeout | .puBacklogDrain
  | .doorbellWrite .. | .invalidateDoorbell .. | .ringScanData .. | .entryStart .. | .moderationTimerExpiry .. | .msixUnmask .. | .nop ..
  | .fence .. | .bulkOut .. | .bulkIn .. | .control .. | .tunnelTx .. | .tunnelRx .. | .move .. | .moveIndexed .. | .clipPlay ..
  | .clipStop .. | .tapRecord .. | .createSq .. | .deleteSq .. | .createCq .. | .deleteCq .. | .identify .. | .setShare .. | .getLog ..
  | .endpointAdd .. | .endpointRemove .. | .scheduleCommit .. | .graphLoad .. | .graphSwap .. | .groupSet .. | .vfGrant .. | .vfFreeze ..
  | .vfSave .. | .vfThaw .. | .engineRestart .. | .auditStart .. | .pairQuery .. | .pairHandover .. | .pairLeave .. | .pairJoin ..
  | .pairSetRank .. | .pairBarrier .. | .dmaWindowSet .. | .adminCfgWrite .. | .bmBurstStart .. | .hostCompletionTimeout .. | .bmAbort ..
  | .engineRestartDone .. | .remoteWindowRead .. | .atomicopRequest .. | .viewAccessStart .. | .readLimitExpiry ..
  | .lockSequenceStart .. | .lockWaitExpiry .. | .lockRetry .. | .viewFaultClear .. | .windowCfgWrite .. | .d3hotEntry .. | .d0Return ..
  | .pmeResend .. | .pmeTurnOff | .aspmL1Request | .hostLinkDown | .hotReset | .hostLossHandoverTimer | .pfFlr | .vfFlr ..
  | .vfFlrComplete .. | .registerWrite .. | .requestSatin | .requestDormant | .requestActive | .satinEntry | .satinReturnStep1
  | .satinReturnStep2 | .dormantEntry | .wakeEvent .. | .alarmExpiry | .pwrRdy | .oscRdy | .memRdy | .logicRdy .. | .dvfsVoltageStep ..
  | .dvfsFrequencyStep .. | .dvfsVoltageDone | .mgtRegisterWrite .. | .mgtRegisterRead .. | .mgtAddressMatch .. | .tempSample ..
  | .supplyLoss | .referenceAcquired .. | .referenceLost .. | .coldReset | .coldResetRelease .. | .fundamentalReset | .perstRelease
  | .bootLoadComplete | .warmReset .. | .warmResetEnd | .watchdogExpiry | .watchdogCountExpiry | .rsqRestart | .rsqRestartDone
  | .flashRead | .flashProgram | .flashErase | .flashCommandDone | .delineationRecovered .. | .senseLevelChange .. | .hostLinkUp ..
  | .configReady | .registerReadRc .. | .pmeStatusClear .. | .miodelFrameCrcFail .. | .watchdogCountRestart | .vfEnableWrite .. => 0

/-- A well-formed command brings at most 128 MiB of data: no more than all of endpoint buffer memory. -/
def Laws.Bounded.Statement (i : Instr) : Prop := i.wf = true → i.dataBytes ≤ 0x8000000

theorem Laws.Bounded.microframeMark : Laws.Bounded.Statement (.microframeMark) := fun _ => Nat.zero_le _
theorem Laws.Bounded.fillDeadline : Laws.Bounded.Statement (.fillDeadline) := fun _ => Nat.zero_le _
theorem Laws.Bounded.scheduleBankSwitch : Laws.Bounded.Statement (.scheduleBankSwitch) := fun _ => Nat.zero_le _
theorem Laws.Bounded.graphSwapTakeover : Laws.Bounded.Statement (.graphSwapTakeover) := fun _ => Nat.zero_le _
theorem Laws.Bounded.graphSwapComplete : Laws.Bounded.Statement (.graphSwapComplete) := fun _ => Nat.zero_le _
theorem Laws.Bounded.graphLoadResume (img : ImageFile) : Laws.Bounded.Statement (.graphLoadResume img) := fun _ => Nat.zero_le _
theorem Laws.Bounded.rebaseEnd : Laws.Bounded.Statement (.rebaseEnd) := fun _ => Nat.zero_le _
theorem Laws.Bounded.inputCutoff : Laws.Bounded.Statement (.inputCutoff) := fun _ => Nat.zero_le _
theorem Laws.Bounded.decisionTime : Laws.Bounded.Statement (.decisionTime) := fun _ => Nat.zero_le _
theorem Laws.Bounded.walkerIssue (t : WalkAt) : Laws.Bounded.Statement (.walkerIssue t) := fun _ => Nat.zero_le _
theorem Laws.Bounded.npTransactionStart (t : SendAt) : Laws.Bounded.Statement (.npTransactionStart t) := fun _ => Nat.zero_le _
theorem Laws.Bounded.tagReuseExpiry (t : Trunk) (tag : BitVec 12) : Laws.Bounded.Statement (.tagReuseExpiry t tag) := fun _ => Nat.zero_le _
theorem Laws.Bounded.periodicInData (t : Trunk) (d : DataPkt) : Laws.Bounded.Statement (.periodicInData t d) := by
  simp only [Laws.Bounded.Statement, Instr.wf, DataPkt.wf, payloadOk, decide_eq_true_eq, Instr.dataBytes]; omega
theorem Laws.Bounded.npDataReceived (t : Trunk) (d : DataPkt) : Laws.Bounded.Statement (.npDataReceived t d) := by
  simp only [Laws.Bounded.Statement, Instr.wf, DataPkt.wf, payloadOk, decide_eq_true_eq, Instr.dataBytes]; omega
theorem Laws.Bounded.ackReceived (t : Trunk) (h : Handshake) : Laws.Bounded.Statement (.ackReceived t h) := fun _ => Nat.zero_le _
theorem Laws.Bounded.nakReceived (t : Trunk) (h : Handshake) : Laws.Bounded.Statement (.nakReceived t h) := fun _ => Nat.zero_le _
theorem Laws.Bounded.stallReceived (t : Trunk) (h : Handshake) : Laws.Bounded.Statement (.stallReceived t h) := fun _ => Nat.zero_le _
theorem Laws.Bounded.nyetReceived (t : Trunk) (h : Handshake) : Laws.Bounded.Statement (.nyetReceived t h) := fun _ => Nat.zero_le _
theorem Laws.Bounded.errReceived (t : Trunk) (h : Handshake) : Laws.Bounded.Statement (.errReceived t h) := fun _ => Nat.zero_le _
theorem Laws.Bounded.lockAckReceived (t : Trunk) (h : Handshake) : Laws.Bounded.Statement (.lockAckReceived t h) := fun _ => Nat.zero_le _
theorem Laws.Bounded.lockBusyReceived (t : Trunk) (h : Handshake) : Laws.Bounded.Statement (.lockBusyReceived t h) := fun _ => Nat.zero_le _
theorem Laws.Bounded.corruptPacketReceived (t : CrcFail) : Laws.Bounded.Statement (.corruptPacketReceived t) := fun _ => Nat.zero_le _
theorem Laws.Bounded.responseWindowClose (t : Trunk) (np mfp : Bool) (tag : BitVec 12) : Laws.Bounded.Statement (.responseWindowClose t np mfp tag) := fun _ => Nat.zero_le _
theorem Laws.Bounded.markOnRootPort (p : Trunk) (rootId : Half) : Laws.Bounded.Statement (.markOnRootPort p rootId) := fun _ => Nat.zero_le _
theorem Laws.Bounded.delineationLoss (t : DelinAt) : Laws.Bounded.Statement (.delineationLoss t) := fun _ => Nat.zero_le _
theorem Laws.Bounded.markerSend (n : LaneId) : Laws.Bounded.Statement (.markerSend n) := fun _ => Nat.zero_le _
theorem Laws.Bounded.markerReceived (n : LaneId) (m : Marker) : Laws.Bounded.Statement (.markerReceived n m) := fun _ => Nat.zero_le _
theorem Laws.Bounded.alignmentComplete (t : Trunk) (skewNs : BitVec 7) : Laws.Bounded.Statement (.alignmentComplete t skewNs) := fun _ => Nat.zero_le _
theorem Laws.Bounded.laneEnableWrite (n : LaneId) (v : Word) : Laws.Bounded.Statement (.laneEnableWrite n v) := fun _ => Nat.zero_le _
theorem Laws.Bounded.laneTrainStart (n : LaneId) : Laws.Bounded.Statement (.laneTrainStart n) := fun _ => Nat.zero_le _
theorem Laws.Bounded.laneRetrainReq (n : LaneId) : Laws.Bounded.Statement (.laneRetrainReq n) := fun _ => Nat.zero_le _
theorem Laws.Bounded.quadCfgWrite (q : QuadId) (v : Word) : Laws.Bounded.Statement (.quadCfgWrite q v) := fun _ => Nat.zero_le _
theorem Laws.Bounded.trainHeaderReceived (n : LaneId) (raw : BitVec 64) (inverted : Bool) : Laws.Bounded.Statement (.trainHeaderReceived n raw inverted) := fun _ => Nat.zero_le _
theorem Laws.Bounded.adaptationConverged (n : LaneId) (m : Margins) : Laws.Bounded.Statement (.adaptationConverged n m) := fun _ => Nat.zero_le _
theorem Laws.Bounded.trainingComplete (n : LaneId) : Laws.Bounded.Statement (.trainingComplete n) := fun _ => Nat.zero_le _
theorem Laws.Bounded.trainingTimeout (n : LaneId) : Laws.Bounded.Statement (.trainingTimeout n) := fun _ => Nat.zero_le _
theorem Laws.Bounded.failedRetryTimer (n : LaneId) : Laws.Bounded.Statement (.failedRetryTimer n) := fun _ => Nat.zero_le _
theorem Laws.Bounded.blockLockLost (n : LaneId) : Laws.Bounded.Statement (.blockLockLost n) := fun _ => Nat.zero_le _
theorem Laws.Bounded.adaptationFreeze (n : LaneId) : Laws.Bounded.Statement (.adaptationFreeze n) := fun _ => Nat.zero_le _
theorem Laws.Bounded.adaptationResume (n : LaneId) : Laws.Bounded.Statement (.adaptationResume n) := fun _ => Nat.zero_le _
theorem Laws.Bounded.marginCheckStart (n : LaneId) : Laws.Bounded.Statement (.marginCheckStart n) := fun _ => Nat.zero_le _
theorem Laws.Bounded.marginCheckComplete (n : LaneId) (m : Margins) : Laws.Bounded.Statement (.marginCheckComplete n m) := fun _ => Nat.zero_le _
theorem Laws.Bounded.twillRetrainTimeout (t : Trunk) : Laws.Bounded.Statement (.twillRetrainTimeout t) := fun _ => Nat.zero_le _
theorem Laws.Bounded.retrainSlotStart (t : Trunk) : Laws.Bounded.Statement (.retrainSlotStart t) := fun _ => Nat.zero_le _
theorem Laws.Bounded.retrainSlotEnd (t : Trunk) : Laws.Bounded.Statement (.retrainSlotEnd t) := fun _ => Nat.zero_le _
theorem Laws.Bounded.retrainBlockReceived (n : LaneId) (raw : BitVec 64) : Laws.Bounded.Statement (.retrainBlockReceived n raw) := fun _ => Nat.zero_le _
theorem Laws.Bounded.eyeSwOwn (n : LaneId) : Laws.Bounded.Statement (.eyeSwOwn n) := fun _ => Nat.zero_le _
theorem Laws.Bounded.eyeScanStart (n : LaneId) (v : Word) : Laws.Bounded.Statement (.eyeScanStart n v) := fun _ => Nat.zero_le _
theorem Laws.Bounded.eyePointDone (n : LaneId) (count : Word) : Laws.Bounded.Statement (.eyePointDone n count) := fun _ => Nat.zero_le _
theorem Laws.Bounded.lpiKeepaliveWake (t : Trunk) : Laws.Bounded.Statement (.lpiKeepaliveWake t) := fun _ => Nat.zero_le _
theorem Laws.Bounded.prbsInjectSingle (n : LaneId) : Laws.Bounded.Statement (.prbsInjectSingle n) := fun _ => Nat.zero_le _
theorem Laws.Bounded.prbsInjectBurst (n : LaneId) (v : Word) : Laws.Bounded.Statement (.prbsInjectBurst n v) := fun _ => Nat.zero_le _
theorem Laws.Bounded.prbsLock (n : LaneId) : Laws.Bounded.Statement (.prbsLock n) := fun _ => Nat.zero_le _
theorem Laws.Bounded.prbsLockLost (n : LockLoss) : Laws.Bounded.Statement (.prbsLockLost n) := fun _ => Nat.zero_le _
theorem Laws.Bounded.attachDebounceExpiry (p : Trunk) : Laws.Bounded.Statement (.attachDebounceExpiry p) := fun _ => Nat.zero_le _
theorem Laws.Bounded.presenceLost (p : Trunk) : Laws.Bounded.Statement (.presenceLost p) := fun _ => Nat.zero_le _
theorem Laws.Bounded.linkPresenceAttach (p : Trunk) : Laws.Bounded.Statement (.linkPresenceAttach p) := fun _ => Nat.zero_le _
theorem Laws.Bounded.linkPresenceLost (p : Trunk) : Laws.Bounded.Statement (.linkPresenceLost p) := fun _ => Nat.zero_le _
theorem Laws.Bounded.portCtrlWrite (p : Trunk) (v : Word) : Laws.Bounded.Statement (.portCtrlWrite p v) := fun _ => Nat.zero_le _
theorem Laws.Bounded.portSetPower (p : Trunk) : Laws.Bounded.Statement (.portSetPower p) := fun _ => Nat.zero_le _
theorem Laws.Bounded.portClearPower (p : Trunk) : Laws.Bounded.Statement (.portClearPower p) := fun _ => Nat.zero_le _
theorem Laws.Bounded.portSetReset (p : Trunk) : Laws.Bounded.Statement (.portSetReset p) := fun _ => Nat.zero_le _
theorem Laws.Bounded.portSetSuspend (p : Trunk) : Laws.Bounded.Statement (.portSetSuspend p) := fun _ => Nat.zero_le _
theorem Laws.Bounded.portSetResume (p : Trunk) : Laws.Bounded.Statement (.portSetResume p) := fun _ => Nat.zero_le _
theorem Laws.Bounded.portSetEnable (p : Trunk) : Laws.Bounded.Statement (.portSetEnable p) := fun _ => Nat.zero_le _
theorem Laws.Bounded.portClearEnable (p : Trunk) : Laws.Bounded.Statement (.portClearEnable p) := fun _ => Nat.zero_le _
theorem Laws.Bounded.rootGetPortStatus (p : Trunk) : Laws.Bounded.Statement (.rootGetPortStatus p) := fun _ => Nat.zero_le _
theorem Laws.Bounded.resetSignallingEnd (p : Trunk) : Laws.Bounded.Statement (.resetSignallingEnd p) := fun _ => Nat.zero_le _
theorem Laws.Bounded.portResetComplete (p : Trunk) : Laws.Bounded.Statement (.portResetComplete p) := fun _ => Nat.zero_le _
theorem Laws.Bounded.linkLost (p : Trunk) : Laws.Bounded.Statement (.linkLost p) := fun _ => Nat.zero_le _
theorem Laws.Bounded.remoteWakeSignal (p : Trunk) : Laws.Bounded.Statement (.remoteWakeSignal p) := fun _ => Nat.zero_le _
theorem Laws.Bounded.resumeComplete (p : Trunk) : Laws.Bounded.Statement (.resumeComplete p) := fun _ => Nat.zero_le _
theorem Laws.Bounded.hubStatusReport (hub : Half) (bits : BitVec 64) : Laws.Bounded.Statement (.hubStatusReport hub bits) := fun _ => Nat.zero_le _
theorem Laws.Bounded.enumerationStart (p : Trunk) : Laws.Bounded.Statement (.enumerationStart p) := fun _ => Nat.zero_le _
theorem Laws.Bounded.tmTransferComplete (p : Trunk) (r : TmReply) : Laws.Bounded.Statement (.tmTransferComplete p r) := by
  simp only [Laws.Bounded.Statement, Instr.wf, payloadOk, decide_eq_true_eq, Instr.dataBytes]; omega
theorem Laws.Bounded.addressBindingExpiry (addr : Half) : Laws.Bounded.Statement (.addressBindingExpiry addr) := fun _ => Nat.zero_le _
theorem Laws.Bounded.pairPortTimeout (p : Trunk) (serial : BitVec 64) : Laws.Bounded.Statement (.pairPortTimeout p serial) := fun _ => Nat.zero_le _
theorem Laws.Bounded.tmEnableWrite (v : Word) : Laws.Bounded.Statement (.tmEnableWrite v) := fun _ => Nat.zero_le _
theorem Laws.Bounded.tmBacklogDrain : Laws.Bounded.Statement (.tmBacklogDrain) := fun _ => Nat.zero_le _
theorem Laws.Bounded.trunkCfgWrite (t : Trunk) (v : Word) : Laws.Bounded.Statement (.trunkCfgWrite t v) := fun _ => Nat.zero_le _
theorem Laws.Bounded.tsEnableWrite (v : Word) : Laws.Bounded.Statement (.tsEnableWrite v) := fun _ => Nat.zero_le _
theorem Laws.Bounded.slotAllocated : Laws.Bounded.Statement (.slotAllocated) := fun _ => Nat.zero_le _
theorem Laws.Bounded.ebmInitDone : Laws.Bounded.Statement (.ebmInitDone) := fun _ => Nat.zero_le _
theorem Laws.Bounded.scrubPass (hits : List EccHit) : Laws.Bounded.Statement (.scrubPass hits) := fun _ => Nat.zero_le _
theorem Laws.Bounded.diagWindowAccess (a : DiagAccess) : Laws.Bounded.Statement (.diagWindowAccess a) := by
  cases a <;> simp only [Laws.Bounded.Statement, Instr.wf, DiagAccess.wf, decide_eq_true_eq, Instr.dataBytes, DiagAccess.dataBytes] <;> omega
theorem Laws.Bounded.operationDispatch : Laws.Bounded.Statement (.operationDispatch) := fun _ => Nat.zero_le _
theorem Laws.Bounded.affinityWaitExpiry (node : Nat) : Laws.Bounded.Statement (.affinityWaitExpiry node) := fun _ => Nat.zero_le _
theorem Laws.Bounded.operationComplete (g : GpeId) (hits : List OpHit) (remoteStall : Nat) : Laws.Bounded.Statement (.operationComplete g hits remoteStall) := fun _ => Nat.zero_le _
theorem Laws.Bounded.spillMove (q : Prio) : Laws.Bounded.Statement (.spillMove q) := fun _ => Nat.zero_le _
theorem Laws.Bounded.heldNoticeEnter (q : Prio) : Laws.Bounded.Statement (.heldNoticeEnter q) := fun _ => Nat.zero_le _
theorem Laws.Bounded.clipRefillNotice (g : Fin 256) : Laws.Bounded.Statement (.clipRefillNotice g) := fun _ => Nat.zero_le _
theorem Laws.Bounded.tapChunkComplete (tap : Fin 64) : Laws.Bounded.Statement (.tapChunkComplete tap) := fun _ => Nat.zero_le _
theorem Laws.Bounded.clipStartTimer (seq : Nat) : Laws.Bounded.Statement (.clipStartTimer seq) := fun _ => Nat.zero_le _
theorem Laws.Bounded.clipRepeatTimer (seq : Nat) : Laws.Bounded.Statement (.clipRepeatTimer seq) := fun _ => Nat.zero_le _
theorem Laws.Bounded.clipStopTimer (seq : Nat) : Laws.Bounded.Statement (.clipStopTimer seq) := fun _ => Nat.zero_le _
theorem Laws.Bounded.sweepSlotTimer (seq : Nat) (base : List Byte) : Laws.Bounded.Statement (.sweepSlotTimer seq base) := fun _ => Nat.zero_le _
theorem Laws.Bounded.pilotTimer (seq : Nat) : Laws.Bounded.Statement (.pilotTimer seq) := fun _ => Nat.zero_le _
theorem Laws.Bounded.admitCfgWrite (v : Word) : Laws.Bounded.Statement (.admitCfgWrite v) := fun _ => Nat.zero_le _
theorem Laws.Bounded.obsCtrlWrite (v : Word) : Laws.Bounded.Statement (.obsCtrlWrite v) := fun _ => Nat.zero_le _
theorem Laws.Bounded.obsWindowClose : Laws.Bounded.Statement (.obsWindowClose) := fun _ => Nat.zero_le _
theorem Laws.Bounded.refreshEnd : Laws.Bounded.Statement (.refreshEnd) := fun _ => Nat.zero_le _
theorem Laws.Bounded.pilotWindowEnd (line : Half) : Laws.Bounded.Statement (.pilotWindowEnd line) := fun _ => Nat.zero_le _
theorem Laws.Bounded.svBacklogDrain : Laws.Bounded.Statement (.svBacklogDrain) := fun _ => Nat.zero_le _
theorem Laws.Bounded.auditPartStart : Laws.Bounded.Statement (.auditPartStart) := fun _ => Nat.zero_le _
theorem Laws.Bounded.auditEyeComplete (grids : List EyeGrid) : Laws.Bounded.Statement (.auditEyeComplete grids) := fun _ => Nat.zero_le _
theorem Laws.Bounded.auditPrbsEnd : Laws.Bounded.Statement .auditPrbsEnd := fun _ => Nat.zero_le _
theorem Laws.Bounded.twillSwapPhase : Laws.Bounded.Statement (.twillSwapPhase) := fun _ => Nat.zero_le _
theorem Laws.Bounded.miodelTimeFrame (f : TimeFrame) : Laws.Bounded.Statement (.miodelTimeFrame f) := fun _ => Nat.zero_le _
theorem Laws.Bounded.miodelPresenceFrame (recs : List PresenceRec) : Laws.Bounded.Statement (.miodelPresenceFrame recs) := fun _ => Nat.zero_le _
theorem Laws.Bounded.miodelBlocksFrame (blocks : List BlockRec) : Laws.Bounded.Statement (.miodelBlocksFrame blocks) := fun _ => Nat.zero_le _
theorem Laws.Bounded.miodelDigestFrame (pass : Word) (digests : List Word) : Laws.Bounded.Statement (.miodelDigestFrame pass digests) := fun _ => Nat.zero_le _
theorem Laws.Bounded.miodelClipFrame (pass : MfNum) (clips : List ClipRec) : Laws.Bounded.Statement (.miodelClipFrame pass clips) := fun _ => Nat.zero_le _
theorem Laws.Bounded.miodelRelayFrame (f : RelayFrame) : Laws.Bounded.Statement (.miodelRelayFrame f) := by
  cases f <;> simp only [Laws.Bounded.Statement, Instr.wf, RelayFrame.wf, DataPkt.wf, payloadOk, decide_eq_true_eq, Instr.dataBytes, RelayFrame.dataBytes] <;> omega
theorem Laws.Bounded.miodelMirrorFrame (seq : Word) (m : MirrorRec) : Laws.Bounded.Statement (.miodelMirrorFrame seq m) := fun _ => Nat.zero_le _
theorem Laws.Bounded.miodelCopyFrame (seq : Word) (c : CopyFrame) : Laws.Bounded.Statement (.miodelCopyFrame seq c) := fun _ => Nat.zero_le _
theorem Laws.Bounded.miodelAckFrame (seq : Word) : Laws.Bounded.Statement (.miodelAckFrame seq) := fun _ => Nat.zero_le _
theorem Laws.Bounded.miodelHelloFrame (h : HelloFrame) : Laws.Bounded.Statement (.miodelHelloFrame h) := fun _ => Nat.zero_le _
theorem Laws.Bounded.miodelAckTimer : Laws.Bounded.Statement (.miodelAckTimer) := fun _ => Nat.zero_le _
theorem Laws.Bounded.miodelResendTimeout : Laws.Bounded.Statement (.miodelResendTimeout) := fun _ => Nat.zero_le _
theorem Laws.Bounded.orderedChannelDown : Laws.Bounded.Statement (.orderedChannelDown) := fun _ => Nat.zero_le _
theorem Laws.Bounded.frameSyncPulse (ns : Nat) (offset : BitVec 16) : Laws.Bounded.Statement (.frameSyncPulse ns offset) := fun _ => Nat.zero_le _
theorem Laws.Bounded.peerLossDetect (c : LossCause) : Laws.Bounded.Statement (.peerLossDetect c) := fun _ => Nat.zero_le _
theorem Laws.Bounded.takeover : Laws.Bounded.Statement (.takeover) := fun _ => Nat.zero_le _
theorem Laws.Bounded.helloTimeout : Laws.Bounded.Statement (.helloTimeout) := fun _ => Nat.zero_le _
theorem Laws.Bounded.timeSourceLost : Laws.Bounded.Statement (.timeSourceLost) := fun _ => Nat.zero_le _
theorem Laws.Bounded.alignLost : Laws.Bounded.Statement (.alignLost) := fun _ => Nat.zero_le _
theorem Laws.Bounded.cascadeMarkReceived (p : Trunk) (m : CascMark) (offset : BitVec 16) : Laws.Bounded.Statement (.cascadeMarkReceived p m offset) := fun _ => Nat.zero_le _
theorem Laws.Bounded.pairEnableWrite (v : Word) : Laws.Bounded.Statement (.pairEnableWrite v) := fun _ => Nat.zero_le _
theorem Laws.Bounded.mirrorWriteApply : Laws.Bounded.Statement (.mirrorWriteApply) := fun _ => Nat.zero_le _
theorem Laws.Bounded.handoverSwitch : Laws.Bounded.Statement (.handoverSwitch) := fun _ => Nat.zero_le _
theorem Laws.Bounded.barrierComplete (id : Word) : Laws.Bounded.Statement (.barrierComplete id) := fun _ => Nat.zero_le _
theorem Laws.Bounded.joinPhaseEnd : Laws.Bounded.Statement (.joinPhaseEnd) := fun _ => Nat.zero_le _
theorem Laws.Bounded.joinDone : Laws.Bounded.Statement (.joinDone) := fun _ => Nat.zero_le _
theorem Laws.Bounded.joinTimeout : Laws.Bounded.Statement (.joinTimeout) := fun _ => Nat.zero_le _
theorem Laws.Bounded.puBacklogDrain : Laws.Bounded.Statement (.puBacklogDrain) := fun _ => Nat.zero_le _
theorem Laws.Bounded.doorbellWrite (fn : FnId) (i : BitVec 11) : Laws.Bounded.Statement (.doorbellWrite fn i) := fun _ => Nat.zero_le _
theorem Laws.Bounded.invalidateDoorbell (fn : FnId) (i : BitVec 11) : Laws.Bounded.Statement (.invalidateDoorbell fn i) := fun _ => Nat.zero_le _
theorem Laws.Bounded.ringScanData (fn : FnId) (i : BitVec 11) (d : ScanData) : Laws.Bounded.Statement (.ringScanData fn i d) := fun _ => Nat.zero_le _
theorem Laws.Bounded.entryStart (fn : FnId) (sq : BitVec 11) (h : EntryRead) : Laws.Bounded.Statement (.entryStart fn sq h) := fun _ => Nat.zero_le _
theorem Laws.Bounded.moderationTimerExpiry (fn : FnId) (cq : BitVec 11) : Laws.Bounded.Statement (.moderationTimerExpiry fn cq) := fun _ => Nat.zero_le _
theorem Laws.Bounded.msixUnmask (fn : FnId) (vector : BitVec 11) : Laws.Bounded.Statement (.msixUnmask fn vector) := fun _ => Nat.zero_le _
theorem Laws.Bounded.nop (r : EntryRef) (e : Sqe) : Laws.Bounded.Statement (.nop r e) := fun _ => Nat.zero_le _
theorem Laws.Bounded.fence (r : EntryRef) (e : Sqe) : Laws.Bounded.Statement (.fence r e) := fun _ => Nat.zero_le _
theorem Laws.Bounded.bulkOut (r : EntryRef) (e : Sqe) : Laws.Bounded.Statement (.bulkOut r e) := fun _ => Nat.zero_le _
theorem Laws.Bounded.bulkIn (r : EntryRef) (e : Sqe) : Laws.Bounded.Statement (.bulkIn r e) := fun _ => Nat.zero_le _
theorem Laws.Bounded.control (r : EntryRef) (e : Sqe) : Laws.Bounded.Statement (.control r e) := fun _ => Nat.zero_le _
theorem Laws.Bounded.tunnelTx (r : EntryRef) (e : Sqe) : Laws.Bounded.Statement (.tunnelTx r e) := fun _ => Nat.zero_le _
theorem Laws.Bounded.tunnelRx (r : EntryRef) (e : Sqe) : Laws.Bounded.Statement (.tunnelRx r e) := fun _ => Nat.zero_le _
theorem Laws.Bounded.move (r : EntryRef) (e : Sqe) : Laws.Bounded.Statement (.move r e) := fun _ => Nat.zero_le _
theorem Laws.Bounded.moveIndexed (r : EntryRef) (e : Sqe) : Laws.Bounded.Statement (.moveIndexed r e) := fun _ => Nat.zero_le _
theorem Laws.Bounded.clipPlay (r : EntryRef) (e : Sqe) : Laws.Bounded.Statement (.clipPlay r e) := fun _ => Nat.zero_le _
theorem Laws.Bounded.clipStop (r : EntryRef) (e : Sqe) : Laws.Bounded.Statement (.clipStop r e) := fun _ => Nat.zero_le _
theorem Laws.Bounded.tapRecord (r : EntryRef) (e : Sqe) : Laws.Bounded.Statement (.tapRecord r e) := fun _ => Nat.zero_le _
theorem Laws.Bounded.createSq (r : EntryRef) (e : Sqe) : Laws.Bounded.Statement (.createSq r e) := fun _ => Nat.zero_le _
theorem Laws.Bounded.deleteSq (r : EntryRef) (e : Sqe) : Laws.Bounded.Statement (.deleteSq r e) := fun _ => Nat.zero_le _
theorem Laws.Bounded.createCq (r : EntryRef) (e : Sqe) (clean : Bool) : Laws.Bounded.Statement (.createCq r e clean) := fun _ => Nat.zero_le _
theorem Laws.Bounded.deleteCq (r : EntryRef) (e : Sqe) : Laws.Bounded.Statement (.deleteCq r e) := fun _ => Nat.zero_le _
theorem Laws.Bounded.identify (r : EntryRef) (e : Sqe) : Laws.Bounded.Statement (.identify r e) := fun _ => Nat.zero_le _
theorem Laws.Bounded.setShare (r : EntryRef) (e : Sqe) : Laws.Bounded.Statement (.setShare r e) := fun _ => Nat.zero_le _
theorem Laws.Bounded.getLog (r : EntryRef) (e : Sqe) : Laws.Bounded.Statement (.getLog r e) := fun _ => Nat.zero_le _
theorem Laws.Bounded.endpointAdd (r : EntryRef) (e : StageSqe) : Laws.Bounded.Statement (.endpointAdd r e) := fun _ => Nat.zero_le _
theorem Laws.Bounded.endpointRemove (r : EntryRef) (e : StageSqe) : Laws.Bounded.Statement (.endpointRemove r e) := fun _ => Nat.zero_le _
theorem Laws.Bounded.scheduleCommit (r : EntryRef) (e : Sqe) : Laws.Bounded.Statement (.scheduleCommit r e) := fun _ => Nat.zero_le _
theorem Laws.Bounded.graphLoad (r : EntryRef) (e : Sqe) (img : ImageFile) : Laws.Bounded.Statement (.graphLoad r e img) := fun _ => Nat.zero_le _
theorem Laws.Bounded.graphSwap (r : EntryRef) (e : Sqe) : Laws.Bounded.Statement (.graphSwap r e) := fun _ => Nat.zero_le _
theorem Laws.Bounded.groupSet (r : EntryRef) (e : StageSqe) : Laws.Bounded.Statement (.groupSet r e) := fun _ => Nat.zero_le _
theorem Laws.Bounded.vfGrant (r : EntryRef) (e : Sqe) (record : List Byte) : Laws.Bounded.Statement (.vfGrant r e record) := fun _ => Nat.zero_le _
theorem Laws.Bounded.vfFreeze (r : EntryRef) (e : Sqe) : Laws.Bounded.Statement (.vfFreeze r e) := fun _ => Nat.zero_le _
theorem Laws.Bounded.vfSave (r : EntryRef) (e : Sqe) : Laws.Bounded.Statement (.vfSave r e) := fun _ => Nat.zero_le _
theorem Laws.Bounded.vfRestore (r : EntryRef) (e : Sqe) (blob : List Byte) : Laws.Bounded.Statement (.vfRestore r e blob) := by
  simp only [Laws.Bounded.Statement, Instr.wf, Bool.and_eq_true, decide_eq_true_eq, Instr.dataBytes]; omega
theorem Laws.Bounded.vfThaw (r : EntryRef) (e : Sqe) : Laws.Bounded.Statement (.vfThaw r e) := fun _ => Nat.zero_le _
theorem Laws.Bounded.engineRestart (r : EntryRef) (e : Sqe) : Laws.Bounded.Statement (.engineRestart r e) := fun _ => Nat.zero_le _
theorem Laws.Bounded.auditStart (r : EntryRef) (e : Sqe) : Laws.Bounded.Statement (.auditStart r e) := fun _ => Nat.zero_le _
theorem Laws.Bounded.pairQuery (r : EntryRef) (e : Sqe) : Laws.Bounded.Statement (.pairQuery r e) := fun _ => Nat.zero_le _
theorem Laws.Bounded.pairHandover (r : EntryRef) (e : Sqe) : Laws.Bounded.Statement (.pairHandover r e) := fun _ => Nat.zero_le _
theorem Laws.Bounded.pairLeave (r : EntryRef) (e : Sqe) : Laws.Bounded.Statement (.pairLeave r e) := fun _ => Nat.zero_le _
theorem Laws.Bounded.pairJoin (r : EntryRef) (e : Sqe) : Laws.Bounded.Statement (.pairJoin r e) := fun _ => Nat.zero_le _
theorem Laws.Bounded.pairSetRank (r : EntryRef) (e : Sqe) : Laws.Bounded.Statement (.pairSetRank r e) := fun _ => Nat.zero_le _
theorem Laws.Bounded.pairBarrier (r : EntryRef) (e : Sqe) : Laws.Bounded.Statement (.pairBarrier r e) := fun _ => Nat.zero_le _
theorem Laws.Bounded.dmaWindowSet (r : EntryRef) (e : Sqe) : Laws.Bounded.Statement (.dmaWindowSet r e) := fun _ => Nat.zero_le _
theorem Laws.Bounded.adminCfgWrite (fn : FnId) (reg : Fin 5) (v : Word) : Laws.Bounded.Statement (.adminCfgWrite fn reg v) := fun _ => Nat.zero_le _
theorem Laws.Bounded.bmBurstStart (e : BurstAt) : Laws.Bounded.Statement (.bmBurstStart e) := fun _ => Nat.zero_le _
theorem Laws.Bounded.bmHostCompletion (e : EngineId) (st : CplStatus) (data : List Byte) : Laws.Bounded.Statement (.bmHostCompletion e st data) := by
  simp only [Laws.Bounded.Statement, Instr.wf, decide_eq_true_eq, Instr.dataBytes]; omega
theorem Laws.Bounded.hostCompletionTimeout (who : Requester) : Laws.Bounded.Statement (.hostCompletionTimeout who) := fun _ => Nat.zero_le _
theorem Laws.Bounded.bmAbort (ch : BitVec 10) : Laws.Bounded.Statement (.bmAbort ch) := fun _ => Nat.zero_le _
theorem Laws.Bounded.engineRestartDone (e : EngineId) : Laws.Bounded.Statement (.engineRestartDone e) := fun _ => Nat.zero_le _
theorem Laws.Bounded.remoteWindowRead (view : View) (off : Nat) (len : Nat) : Laws.Bounded.Statement (.remoteWindowRead view off len) := fun _ => Nat.zero_le _
theorem Laws.Bounded.remoteWindowWrite (view : View) (off : Nat) (data : List Byte) : Laws.Bounded.Statement (.remoteWindowWrite view off data) := by
  intro h
  have h : 0 < data.length ∧ off + data.length ≤ view.size := of_decide_eq_true h
  cases view <;> simp only [View.size] at h <;> simp only [Instr.dataBytes] <;> omega
theorem Laws.Bounded.atomicopRequest (view : View) (off : Nat) (wide : Bool) (op : AtomicOp) : Laws.Bounded.Statement (.atomicopRequest view off wide op) := fun _ => Nat.zero_le _
theorem Laws.Bounded.viewAccessStart (view : ViewAt) : Laws.Bounded.Statement (.viewAccessStart view) := fun _ => Nat.zero_le _
theorem Laws.Bounded.readLimitExpiry (view : View) : Laws.Bounded.Statement (.readLimitExpiry view) := fun _ => Nat.zero_le _
theorem Laws.Bounded.lockSequenceStart (view : View) : Laws.Bounded.Statement (.lockSequenceStart view) := fun _ => Nat.zero_le _
theorem Laws.Bounded.lockWaitExpiry (view : View) : Laws.Bounded.Statement (.lockWaitExpiry view) := fun _ => Nat.zero_le _
theorem Laws.Bounded.lockRetry (view : View) : Laws.Bounded.Statement (.lockRetry view) := fun _ => Nat.zero_le _
theorem Laws.Bounded.viewFaultClear (view : View) : Laws.Bounded.Statement (.viewFaultClear view) := fun _ => Nat.zero_le _
theorem Laws.Bounded.windowCfgWrite (w : Fin 256) (base : Bool) (v : Word) : Laws.Bounded.Statement (.windowCfgWrite w base v) := fun _ => Nat.zero_le _
theorem Laws.Bounded.d3hotEntry (fn : FnId) : Laws.Bounded.Statement (.d3hotEntry fn) := fun _ => Nat.zero_le _
theorem Laws.Bounded.d0Return (fn : FnId) : Laws.Bounded.Statement (.d0Return fn) := fun _ => Nat.zero_le _
theorem Laws.Bounded.pmeResend (fn : FnId) : Laws.Bounded.Statement (.pmeResend fn) := fun _ => Nat.zero_le _
theorem Laws.Bounded.pmeTurnOff : Laws.Bounded.Statement (.pmeTurnOff) := fun _ => Nat.zero_le _
theorem Laws.Bounded.aspmL1Request : Laws.Bounded.Statement (.aspmL1Request) := fun _ => Nat.zero_le _
theorem Laws.Bounded.hostLinkDown : Laws.Bounded.Statement (.hostLinkDown) := fun _ => Nat.zero_le _
theorem Laws.Bounded.hotReset : Laws.Bounded.Statement (.hotReset) := fun _ => Nat.zero_le _
theorem Laws.Bounded.hostLossHandoverTimer : Laws.Bounded.Statement (.hostLossHandoverTimer) := fun _ => Nat.zero_le _
theorem Laws.Bounded.pfFlr : Laws.Bounded.Statement (.pfFlr) := fun _ => Nat.zero_le _
theorem Laws.Bounded.vfFlr (v : VfId) : Laws.Bounded.Statement (.vfFlr v) := fun _ => Nat.zero_le _
theorem Laws.Bounded.vfFlrComplete (v : VfId) : Laws.Bounded.Statement (.vfFlrComplete v) := fun _ => Nat.zero_le _
theorem Laws.Bounded.registerWrite (addr : BitVec 25) (v : Word) (be : WriteTlp) : Laws.Bounded.Statement (.registerWrite addr v be) := fun _ => Nat.zero_le _
theorem Laws.Bounded.requestSatin : Laws.Bounded.Statement (.requestSatin) := fun _ => Nat.zero_le _
theorem Laws.Bounded.requestDormant : Laws.Bounded.Statement (.requestDormant) := fun _ => Nat.zero_le _
theorem Laws.Bounded.requestActive : Laws.Bounded.Statement (.requestActive) := fun _ => Nat.zero_le _
theorem Laws.Bounded.satinEntry : Laws.Bounded.Statement (.satinEntry) := fun _ => Nat.zero_le _
theorem Laws.Bounded.satinReturnStep1 : Laws.Bounded.Statement (.satinReturnStep1) := fun _ => Nat.zero_le _
theorem Laws.Bounded.satinReturnStep2 : Laws.Bounded.Statement (.satinReturnStep2) := fun _ => Nat.zero_le _
theorem Laws.Bounded.dormantEntry : Laws.Bounded.Statement (.dormantEntry) := fun _ => Nat.zero_le _
theorem Laws.Bounded.wakeEvent (src : WakeSource) : Laws.Bounded.Statement (.wakeEvent src) := fun _ => Nat.zero_le _
theorem Laws.Bounded.alarmExpiry : Laws.Bounded.Statement (.alarmExpiry) := fun _ => Nat.zero_le _
theorem Laws.Bounded.pwrRdy : Laws.Bounded.Statement (.pwrRdy) := fun _ => Nat.zero_le _
theorem Laws.Bounded.oscRdy : Laws.Bounded.Statement (.oscRdy) := fun _ => Nat.zero_le _
theorem Laws.Bounded.memRdy : Laws.Bounded.Statement (.memRdy) := fun _ => Nat.zero_le _
theorem Laws.Bounded.logicRdy (asleepMf : MfNum) (asleepMs : Word) : Laws.Bounded.Statement (.logicRdy asleepMf asleepMs) := fun _ => Nat.zero_le _
theorem Laws.Bounded.dvfsVoltageStep (d : DvfsDomain) (op : BitVec 2) : Laws.Bounded.Statement (.dvfsVoltageStep d op) := fun _ => Nat.zero_le _
theorem Laws.Bounded.dvfsFrequencyStep (d : DvfsDomain) (op : BitVec 2) : Laws.Bounded.Statement (.dvfsFrequencyStep d op) := fun _ => Nat.zero_le _
theorem Laws.Bounded.dvfsVoltageDone : Laws.Bounded.Statement (.dvfsVoltageDone) := fun _ => Nat.zero_le _
theorem Laws.Bounded.mgtRegisterWrite (off : Byte) (v : Word) : Laws.Bounded.Statement (.mgtRegisterWrite off v) := fun _ => Nat.zero_le _
theorem Laws.Bounded.mgtRegisterRead (off : Byte) : Laws.Bounded.Statement (.mgtRegisterRead off) := fun _ => Nat.zero_le _
theorem Laws.Bounded.mgtAddressMatch (addr7 : BitVec 7) : Laws.Bounded.Statement (.mgtAddressMatch addr7) := fun _ => Nat.zero_le _
theorem Laws.Bounded.tempSample (celsius : BitVec 9) : Laws.Bounded.Statement (.tempSample celsius) := fun _ => Nat.zero_le _
theorem Laws.Bounded.supplyLoss : Laws.Bounded.Statement (.supplyLoss) := fun _ => Nat.zero_le _
theorem Laws.Bounded.referenceAcquired (src : RefSource) : Laws.Bounded.Statement (.referenceAcquired src) := fun _ => Nat.zero_le _
theorem Laws.Bounded.referenceLost (src : RefSource) : Laws.Bounded.Statement (.referenceLost src) := fun _ => Nat.zero_le _
theorem Laws.Bounded.coldReset : Laws.Bounded.Statement (.coldReset) := fun _ => Nat.zero_le _
theorem Laws.Bounded.coldResetRelease (straps : BitVec 7) : Laws.Bounded.Statement (.coldResetRelease straps) := fun _ => Nat.zero_le _
theorem Laws.Bounded.fundamentalReset : Laws.Bounded.Statement (.fundamentalReset) := fun _ => Nat.zero_le _
theorem Laws.Bounded.perstRelease : Laws.Bounded.Statement (.perstRelease) := fun _ => Nat.zero_le _
theorem Laws.Bounded.bootLoadComplete : Laws.Bounded.Statement (.bootLoadComplete) := fun _ => Nat.zero_le _
theorem Laws.Bounded.warmReset (v : Word) : Laws.Bounded.Statement (.warmReset v) := fun _ => Nat.zero_le _
theorem Laws.Bounded.warmResetEnd : Laws.Bounded.Statement (.warmResetEnd) := fun _ => Nat.zero_le _
theorem Laws.Bounded.watchdogExpiry : Laws.Bounded.Statement (.watchdogExpiry) := fun _ => Nat.zero_le _
theorem Laws.Bounded.watchdogCountExpiry : Laws.Bounded.Statement (.watchdogCountExpiry) := fun _ => Nat.zero_le _
theorem Laws.Bounded.rsqRestart : Laws.Bounded.Statement (.rsqRestart) := fun _ => Nat.zero_le _
theorem Laws.Bounded.rsqRestartDone : Laws.Bounded.Statement (.rsqRestartDone) := fun _ => Nat.zero_le _
theorem Laws.Bounded.flashRead : Laws.Bounded.Statement (.flashRead) := fun _ => Nat.zero_le _
theorem Laws.Bounded.flashProgram : Laws.Bounded.Statement (.flashProgram) := fun _ => Nat.zero_le _
theorem Laws.Bounded.flashErase : Laws.Bounded.Statement (.flashErase) := fun _ => Nat.zero_le _
theorem Laws.Bounded.flashCommandDone : Laws.Bounded.Statement (.flashCommandDone) := fun _ => Nat.zero_le _
theorem Laws.Bounded.delineationRecovered (t : DelinBack) : Laws.Bounded.Statement (.delineationRecovered t) := fun _ => Nat.zero_le _
theorem Laws.Bounded.senseLevelChange (p : Trunk) (level : Sense) : Laws.Bounded.Statement (.senseLevelChange p level) := fun _ => Nat.zero_le _
theorem Laws.Bounded.hostLinkUp (speed : BitVec 3) (width : BitVec 5) (reversed : Bool) : Laws.Bounded.Statement (.hostLinkUp speed width reversed) := fun _ => Nat.zero_le _
theorem Laws.Bounded.configReady : Laws.Bounded.Statement (.configReady) := fun _ => Nat.zero_le _
theorem Laws.Bounded.registerReadRc (fn : ReadTlp) (addr : BitVec 25) : Laws.Bounded.Statement (.registerReadRc fn addr) := fun _ => Nat.zero_le _
theorem Laws.Bounded.pmeStatusClear (fn : FnId) : Laws.Bounded.Statement (.pmeStatusClear fn) := fun _ => Nat.zero_le _
theorem Laws.Bounded.miodelFrameCrcFail (timed : Bool) : Laws.Bounded.Statement (.miodelFrameCrcFail timed) := fun _ => Nat.zero_le _
theorem Laws.Bounded.watchdogCountRestart : Laws.Bounded.Statement (.watchdogCountRestart) := fun _ => Nat.zero_le _
theorem Laws.Bounded.deviceRoleTokenReceived (p : Trunk) (tok : TokenPkt) : Laws.Bounded.Statement (.deviceRoleTokenReceived p tok) := by
  simp only [Laws.Bounded.Statement, Instr.wf, TokenPkt.wf, payloadOk, Bool.and_eq_true, decide_eq_true_eq, Instr.dataBytes]; omega
theorem Laws.Bounded.vfEnableWrite (enable : Bool) (numVfs : BitVec 16) : Laws.Bounded.Statement (.vfEnableWrite enable numVfs) := fun _ => Nat.zero_le _

end Sys2Proof
end

