-- ==== Sys2Proof/Laws/State.lean ====
section
/-! SUPPORT. One lemma for each field and each update of the state: a named update changes its own part and no other. Then the laws of
registers and their fields. -/

set_option Elab.async false

namespace Sys2Proof.Machine

/-! ### setReg -/

@[simp] theorem State.setReg_pending (s : State) (a : ℕ) (v : Word) : (s.setReg a v).pending = s.pending := (rfl)
@[simp] theorem State.setReg_time (s : State) (a : ℕ) (v : Word) : (s.setReg a v).time = s.time := (rfl)
@[simp] theorem State.setReg_lx (s : State) (a : ℕ) (v : Word) : (s.setReg a v).lx = s.lx := (rfl)
@[simp] theorem State.setReg_tree (s : State) (a : ℕ) (v : Word) : (s.setReg a v).tree = s.tree := (rfl)
@[simp] theorem State.setReg_ts (s : State) (a : ℕ) (v : Word) : (s.setReg a v).ts = s.ts := (rfl)
@[simp] theorem State.setReg_ebm (s : State) (a : ℕ) (v : Word) : (s.setReg a v).ebm = s.ebm := (rfl)
@[simp] theorem State.setReg_bus (s : State) (a : ℕ) (v : Word) : (s.setReg a v).bus = s.bus := (rfl)
@[simp] theorem State.setReg_qe (s : State) (a : ℕ) (v : Word) : (s.setReg a v).qe = s.qe := (rfl)
@[simp] theorem State.setReg_bm (s : State) (a : ℕ) (v : Word) : (s.setReg a v).bm = s.bm := (rfl)
@[simp] theorem State.setReg_xb (s : State) (a : ℕ) (v : Word) : (s.setReg a v).xb = s.xb := (rfl)
@[simp] theorem State.setReg_fn (s : State) (a : ℕ) (v : Word) : (s.setReg a v).fn = s.fn := (rfl)
@[simp] theorem State.setReg_mre (s : State) (a : ℕ) (v : Word) : (s.setReg a v).mre = s.mre := (rfl)
@[simp] theorem State.setReg_gd (s : State) (a : ℕ) (v : Word) : (s.setReg a v).gd = s.gd := (rfl)
@[simp] theorem State.setReg_sv (s : State) (a : ℕ) (v : Word) : (s.setReg a v).sv = s.sv := (rfl)
@[simp] theorem State.setReg_pu (s : State) (a : ℕ) (v : Word) : (s.setReg a v).pu = s.pu := (rfl)
@[simp] theorem State.setReg_pm (s : State) (a : ℕ) (v : Word) : (s.setReg a v).pm = s.pm := (rfl)
@[simp] theorem State.setReg_ck (s : State) (a : ℕ) (v : Word) : (s.setReg a v).ck = s.ck := (rfl)
@[simp] theorem State.setReg_free (s : State) (a : ℕ) (v : Word) : (s.setReg a v).free = s.free := (rfl)
@[simp] theorem State.setReg_out (s : State) (a : ℕ) (v : Word) : (s.setReg a v).out = s.out := (rfl)

/-! ### setF -/

@[simp] theorem State.setF_pending (s : State) (x : Fld) (v : ℕ) : (s.setF x v).pending = s.pending := (rfl)
@[simp] theorem State.setF_time (s : State) (x : Fld) (v : ℕ) : (s.setF x v).time = s.time := (rfl)
@[simp] theorem State.setF_lx (s : State) (x : Fld) (v : ℕ) : (s.setF x v).lx = s.lx := (rfl)
@[simp] theorem State.setF_tree (s : State) (x : Fld) (v : ℕ) : (s.setF x v).tree = s.tree := (rfl)
@[simp] theorem State.setF_ts (s : State) (x : Fld) (v : ℕ) : (s.setF x v).ts = s.ts := (rfl)
@[simp] theorem State.setF_ebm (s : State) (x : Fld) (v : ℕ) : (s.setF x v).ebm = s.ebm := (rfl)
@[simp] theorem State.setF_bus (s : State) (x : Fld) (v : ℕ) : (s.setF x v).bus = s.bus := (rfl)
@[simp] theorem State.setF_qe (s : State) (x : Fld) (v : ℕ) : (s.setF x v).qe = s.qe := (rfl)
@[simp] theorem State.setF_bm (s : State) (x : Fld) (v : ℕ) : (s.setF x v).bm = s.bm := (rfl)
@[simp] theorem State.setF_xb (s : State) (x : Fld) (v : ℕ) : (s.setF x v).xb = s.xb := (rfl)
@[simp] theorem State.setF_fn (s : State) (x : Fld) (v : ℕ) : (s.setF x v).fn = s.fn := (rfl)
@[simp] theorem State.setF_mre (s : State) (x : Fld) (v : ℕ) : (s.setF x v).mre = s.mre := (rfl)
@[simp] theorem State.setF_gd (s : State) (x : Fld) (v : ℕ) : (s.setF x v).gd = s.gd := (rfl)
@[simp] theorem State.setF_sv (s : State) (x : Fld) (v : ℕ) : (s.setF x v).sv = s.sv := (rfl)
@[simp] theorem State.setF_pu (s : State) (x : Fld) (v : ℕ) : (s.setF x v).pu = s.pu := (rfl)
@[simp] theorem State.setF_pm (s : State) (x : Fld) (v : ℕ) : (s.setF x v).pm = s.pm := (rfl)
@[simp] theorem State.setF_ck (s : State) (x : Fld) (v : ℕ) : (s.setF x v).ck = s.ck := (rfl)
@[simp] theorem State.setF_free (s : State) (x : Fld) (v : ℕ) : (s.setF x v).free = s.free := (rfl)
@[simp] theorem State.setF_out (s : State) (x : Fld) (v : ℕ) : (s.setF x v).out = s.out := (rfl)

/-! ### setB -/

@[simp] theorem State.setB_pending (s : State) (x : Fld) (b : Bool) : (s.setB x b).pending = s.pending := (rfl)
@[simp] theorem State.setB_time (s : State) (x : Fld) (b : Bool) : (s.setB x b).time = s.time := (rfl)
@[simp] theorem State.setB_lx (s : State) (x : Fld) (b : Bool) : (s.setB x b).lx = s.lx := (rfl)
@[simp] theorem State.setB_tree (s : State) (x : Fld) (b : Bool) : (s.setB x b).tree = s.tree := (rfl)
@[simp] theorem State.setB_ts (s : State) (x : Fld) (b : Bool) : (s.setB x b).ts = s.ts := (rfl)
@[simp] theorem State.setB_ebm (s : State) (x : Fld) (b : Bool) : (s.setB x b).ebm = s.ebm := (rfl)
@[simp] theorem State.setB_bus (s : State) (x : Fld) (b : Bool) : (s.setB x b).bus = s.bus := (rfl)
@[simp] theorem State.setB_qe (s : State) (x : Fld) (b : Bool) : (s.setB x b).qe = s.qe := (rfl)
@[simp] theorem State.setB_bm (s : State) (x : Fld) (b : Bool) : (s.setB x b).bm = s.bm := (rfl)
@[simp] theorem State.setB_xb (s : State) (x : Fld) (b : Bool) : (s.setB x b).xb = s.xb := (rfl)
@[simp] theorem State.setB_fn (s : State) (x : Fld) (b : Bool) : (s.setB x b).fn = s.fn := (rfl)
@[simp] theorem State.setB_mre (s : State) (x : Fld) (b : Bool) : (s.setB x b).mre = s.mre := (rfl)
@[simp] theorem State.setB_gd (s : State) (x : Fld) (b : Bool) : (s.setB x b).gd = s.gd := (rfl)
@[simp] theorem State.setB_sv (s : State) (x : Fld) (b : Bool) : (s.setB x b).sv = s.sv := (rfl)
@[simp] theorem State.setB_pu (s : State) (x : Fld) (b : Bool) : (s.setB x b).pu = s.pu := (rfl)
@[simp] theorem State.setB_pm (s : State) (x : Fld) (b : Bool) : (s.setB x b).pm = s.pm := (rfl)
@[simp] theorem State.setB_ck (s : State) (x : Fld) (b : Bool) : (s.setB x b).ck = s.ck := (rfl)
@[simp] theorem State.setB_free (s : State) (x : Fld) (b : Bool) : (s.setB x b).free = s.free := (rfl)
@[simp] theorem State.setB_out (s : State) (x : Fld) (b : Bool) : (s.setB x b).out = s.out := (rfl)

/-! ### bump -/

@[simp] theorem State.bump_pending (s : State) (x : Fld) (n : optParam ℕ 1) : (s.bump x n).pending = s.pending := (rfl)
@[simp] theorem State.bump_time (s : State) (x : Fld) (n : optParam ℕ 1) : (s.bump x n).time = s.time := (rfl)
@[simp] theorem State.bump_lx (s : State) (x : Fld) (n : optParam ℕ 1) : (s.bump x n).lx = s.lx := (rfl)
@[simp] theorem State.bump_tree (s : State) (x : Fld) (n : optParam ℕ 1) : (s.bump x n).tree = s.tree := (rfl)
@[simp] theorem State.bump_ts (s : State) (x : Fld) (n : optParam ℕ 1) : (s.bump x n).ts = s.ts := (rfl)
@[simp] theorem State.bump_ebm (s : State) (x : Fld) (n : optParam ℕ 1) : (s.bump x n).ebm = s.ebm := (rfl)
@[simp] theorem State.bump_bus (s : State) (x : Fld) (n : optParam ℕ 1) : (s.bump x n).bus = s.bus := (rfl)
@[simp] theorem State.bump_qe (s : State) (x : Fld) (n : optParam ℕ 1) : (s.bump x n).qe = s.qe := (rfl)
@[simp] theorem State.bump_bm (s : State) (x : Fld) (n : optParam ℕ 1) : (s.bump x n).bm = s.bm := (rfl)
@[simp] theorem State.bump_xb (s : State) (x : Fld) (n : optParam ℕ 1) : (s.bump x n).xb = s.xb := (rfl)
@[simp] theorem State.bump_fn (s : State) (x : Fld) (n : optParam ℕ 1) : (s.bump x n).fn = s.fn := (rfl)
@[simp] theorem State.bump_mre (s : State) (x : Fld) (n : optParam ℕ 1) : (s.bump x n).mre = s.mre := (rfl)
@[simp] theorem State.bump_gd (s : State) (x : Fld) (n : optParam ℕ 1) : (s.bump x n).gd = s.gd := (rfl)
@[simp] theorem State.bump_sv (s : State) (x : Fld) (n : optParam ℕ 1) : (s.bump x n).sv = s.sv := (rfl)
@[simp] theorem State.bump_pu (s : State) (x : Fld) (n : optParam ℕ 1) : (s.bump x n).pu = s.pu := (rfl)
@[simp] theorem State.bump_pm (s : State) (x : Fld) (n : optParam ℕ 1) : (s.bump x n).pm = s.pm := (rfl)
@[simp] theorem State.bump_ck (s : State) (x : Fld) (n : optParam ℕ 1) : (s.bump x n).ck = s.ck := (rfl)
@[simp] theorem State.bump_free (s : State) (x : Fld) (n : optParam ℕ 1) : (s.bump x n).free = s.free := (rfl)
@[simp] theorem State.bump_out (s : State) (x : Fld) (n : optParam ℕ 1) : (s.bump x n).out = s.out := (rfl)

/-! ### emit -/

@[simp] theorem State.emit_pending (s : State) (e : Emit) : (s.emit e).pending = s.pending := (rfl)
@[simp] theorem State.emit_time (s : State) (e : Emit) : (s.emit e).time = s.time := (rfl)
@[simp] theorem State.emit_regs (s : State) (e : Emit) : (s.emit e).regs = s.regs := (rfl)
@[simp] theorem State.emit_lx (s : State) (e : Emit) : (s.emit e).lx = s.lx := (rfl)
@[simp] theorem State.emit_tree (s : State) (e : Emit) : (s.emit e).tree = s.tree := (rfl)
@[simp] theorem State.emit_ts (s : State) (e : Emit) : (s.emit e).ts = s.ts := (rfl)
@[simp] theorem State.emit_ebm (s : State) (e : Emit) : (s.emit e).ebm = s.ebm := (rfl)
@[simp] theorem State.emit_bus (s : State) (e : Emit) : (s.emit e).bus = s.bus := (rfl)
@[simp] theorem State.emit_qe (s : State) (e : Emit) : (s.emit e).qe = s.qe := (rfl)
@[simp] theorem State.emit_bm (s : State) (e : Emit) : (s.emit e).bm = s.bm := (rfl)
@[simp] theorem State.emit_xb (s : State) (e : Emit) : (s.emit e).xb = s.xb := (rfl)
@[simp] theorem State.emit_fn (s : State) (e : Emit) : (s.emit e).fn = s.fn := (rfl)
@[simp] theorem State.emit_mre (s : State) (e : Emit) : (s.emit e).mre = s.mre := (rfl)
@[simp] theorem State.emit_gd (s : State) (e : Emit) : (s.emit e).gd = s.gd := (rfl)
@[simp] theorem State.emit_sv (s : State) (e : Emit) : (s.emit e).sv = s.sv := (rfl)
@[simp] theorem State.emit_pu (s : State) (e : Emit) : (s.emit e).pu = s.pu := (rfl)
@[simp] theorem State.emit_pm (s : State) (e : Emit) : (s.emit e).pm = s.pm := (rfl)
@[simp] theorem State.emit_ck (s : State) (e : Emit) : (s.emit e).ck = s.ck := (rfl)
@[simp] theorem State.emit_free (s : State) (e : Emit) : (s.emit e).free = s.free := (rfl)
@[simp] theorem State.emit_reg (s : State) (e : Emit) (a_ : Nat) : (s.emit e).reg a_ = s.reg a_ := (rfl)
@[simp] theorem State.emit_f (s : State) (e : Emit) (x_ : Fld) : (s.emit e).f x_ = s.f x_ := (rfl)
@[simp] theorem State.emit_flag (s : State) (e : Emit) (x_ : Fld) : (s.emit e).flag x_ = s.flag x_ := (rfl)

/-! ### fresh -/

@[simp] theorem State.fresh_pending (s : State) : (s.fresh).pending = s.pending := (rfl)
@[simp] theorem State.fresh_time (s : State) : (s.fresh).time = s.time := (rfl)
@[simp] theorem State.fresh_regs (s : State) : (s.fresh).regs = s.regs := (rfl)
@[simp] theorem State.fresh_lx (s : State) : (s.fresh).lx = s.lx := (rfl)
@[simp] theorem State.fresh_tree (s : State) : (s.fresh).tree = s.tree := (rfl)
@[simp] theorem State.fresh_ts (s : State) : (s.fresh).ts = s.ts := (rfl)
@[simp] theorem State.fresh_ebm (s : State) : (s.fresh).ebm = s.ebm := (rfl)
@[simp] theorem State.fresh_bus (s : State) : (s.fresh).bus = s.bus := (rfl)
@[simp] theorem State.fresh_qe (s : State) : (s.fresh).qe = s.qe := (rfl)
@[simp] theorem State.fresh_bm (s : State) : (s.fresh).bm = s.bm := (rfl)
@[simp] theorem State.fresh_xb (s : State) : (s.fresh).xb = s.xb := (rfl)
@[simp] theorem State.fresh_fn (s : State) : (s.fresh).fn = s.fn := (rfl)
@[simp] theorem State.fresh_mre (s : State) : (s.fresh).mre = s.mre := (rfl)
@[simp] theorem State.fresh_gd (s : State) : (s.fresh).gd = s.gd := (rfl)
@[simp] theorem State.fresh_sv (s : State) : (s.fresh).sv = s.sv := (rfl)
@[simp] theorem State.fresh_pu (s : State) : (s.fresh).pu = s.pu := (rfl)
@[simp] theorem State.fresh_pm (s : State) : (s.fresh).pm = s.pm := (rfl)
@[simp] theorem State.fresh_ck (s : State) : (s.fresh).ck = s.ck := (rfl)
@[simp] theorem State.fresh_out (s : State) : (s.fresh).out = s.out := (rfl)
@[simp] theorem State.fresh_reg (s : State) (a_ : Nat) : (s.fresh).reg a_ = s.reg a_ := (rfl)
@[simp] theorem State.fresh_f (s : State) (x_ : Fld) : (s.fresh).f x_ = s.f x_ := (rfl)
@[simp] theorem State.fresh_flag (s : State) (x_ : Fld) : (s.fresh).flag x_ = s.flag x_ := (rfl)

/-! ### updPu -/

@[simp] theorem State.updPu_pending (s : State) (g : PairSt → PairSt) : (s.updPu g).pending = s.pending := (rfl)
@[simp] theorem State.updPu_time (s : State) (g : PairSt → PairSt) : (s.updPu g).time = s.time := (rfl)
@[simp] theorem State.updPu_regs (s : State) (g : PairSt → PairSt) : (s.updPu g).regs = s.regs := (rfl)
@[simp] theorem State.updPu_lx (s : State) (g : PairSt → PairSt) : (s.updPu g).lx = s.lx := (rfl)
@[simp] theorem State.updPu_tree (s : State) (g : PairSt → PairSt) : (s.updPu g).tree = s.tree := (rfl)
@[simp] theorem State.updPu_ts (s : State) (g : PairSt → PairSt) : (s.updPu g).ts = s.ts := (rfl)
@[simp] theorem State.updPu_ebm (s : State) (g : PairSt → PairSt) : (s.updPu g).ebm = s.ebm := (rfl)
@[simp] theorem State.updPu_bus (s : State) (g : PairSt → PairSt) : (s.updPu g).bus = s.bus := (rfl)
@[simp] theorem State.updPu_qe (s : State) (g : PairSt → PairSt) : (s.updPu g).qe = s.qe := (rfl)
@[simp] theorem State.updPu_bm (s : State) (g : PairSt → PairSt) : (s.updPu g).bm = s.bm := (rfl)
@[simp] theorem State.updPu_xb (s : State) (g : PairSt → PairSt) : (s.updPu g).xb = s.xb := (rfl)
@[simp] theorem State.updPu_fn (s : State) (g : PairSt → PairSt) : (s.updPu g).fn = s.fn := (rfl)
@[simp] theorem State.updPu_mre (s : State) (g : PairSt → PairSt) : (s.updPu g).mre = s.mre := (rfl)
@[simp] theorem State.updPu_gd (s : State) (g : PairSt → PairSt) : (s.updPu g).gd = s.gd := (rfl)
@[simp] theorem State.updPu_sv (s : State) (g : PairSt → PairSt) : (s.updPu g).sv = s.sv := (rfl)
@[simp] theorem State.updPu_pm (s : State) (g : PairSt → PairSt) : (s.updPu g).pm = s.pm := (rfl)
@[simp] theorem State.updPu_ck (s : State) (g : PairSt → PairSt) : (s.updPu g).ck = s.ck := (rfl)
@[simp] theorem State.updPu_free (s : State) (g : PairSt → PairSt) : (s.updPu g).free = s.free := (rfl)
@[simp] theorem State.updPu_out (s : State) (g : PairSt → PairSt) : (s.updPu g).out = s.out := (rfl)
@[simp] theorem State.updPu_reg (s : State) (g : PairSt → PairSt) (a_ : Nat) : (s.updPu g).reg a_ = s.reg a_ := (rfl)
@[simp] theorem State.updPu_f (s : State) (g : PairSt → PairSt) (x_ : Fld) : (s.updPu g).f x_ = s.f x_ := (rfl)
@[simp] theorem State.updPu_flag (s : State) (g : PairSt → PairSt) (x_ : Fld) : (s.updPu g).flag x_ = s.flag x_ := (rfl)

/-! ### updPm -/

@[simp] theorem State.updPm_pending (s : State) (g : PowerSt → PowerSt) : (s.updPm g).pending = s.pending := (rfl)
@[simp] theorem State.updPm_time (s : State) (g : PowerSt → PowerSt) : (s.updPm g).time = s.time := (rfl)
@[simp] theorem State.updPm_regs (s : State) (g : PowerSt → PowerSt) : (s.updPm g).regs = s.regs := (rfl)
@[simp] theorem State.updPm_lx (s : State) (g : PowerSt → PowerSt) : (s.updPm g).lx = s.lx := (rfl)
@[simp] theorem State.updPm_tree (s : State) (g : PowerSt → PowerSt) : (s.updPm g).tree = s.tree := (rfl)
@[simp] theorem State.updPm_ts (s : State) (g : PowerSt → PowerSt) : (s.updPm g).ts = s.ts := (rfl)
@[simp] theorem State.updPm_ebm (s : State) (g : PowerSt → PowerSt) : (s.updPm g).ebm = s.ebm := (rfl)
@[simp] theorem State.updPm_bus (s : State) (g : PowerSt → PowerSt) : (s.updPm g).bus = s.bus := (rfl)
@[simp] theorem State.updPm_qe (s : State) (g : PowerSt → PowerSt) : (s.updPm g).qe = s.qe := (rfl)
@[simp] theorem State.updPm_bm (s : State) (g : PowerSt → PowerSt) : (s.updPm g).bm = s.bm := (rfl)
@[simp] theorem State.updPm_xb (s : State) (g : PowerSt → PowerSt) : (s.updPm g).xb = s.xb := (rfl)
@[simp] theorem State.updPm_fn (s : State) (g : PowerSt → PowerSt) : (s.updPm g).fn = s.fn := (rfl)
@[simp] theorem State.updPm_mre (s : State) (g : PowerSt → PowerSt) : (s.updPm g).mre = s.mre := (rfl)
@[simp] theorem State.updPm_gd (s : State) (g : PowerSt → PowerSt) : (s.updPm g).gd = s.gd := (rfl)
@[simp] theorem State.updPm_sv (s : State) (g : PowerSt → PowerSt) : (s.updPm g).sv = s.sv := (rfl)
@[simp] theorem State.updPm_pu (s : State) (g : PowerSt → PowerSt) : (s.updPm g).pu = s.pu := (rfl)
@[simp] theorem State.updPm_ck (s : State) (g : PowerSt → PowerSt) : (s.updPm g).ck = s.ck := (rfl)
@[simp] theorem State.updPm_free (s : State) (g : PowerSt → PowerSt) : (s.updPm g).free = s.free := (rfl)
@[simp] theorem State.updPm_out (s : State) (g : PowerSt → PowerSt) : (s.updPm g).out = s.out := (rfl)
@[simp] theorem State.updPm_reg (s : State) (g : PowerSt → PowerSt) (a_ : Nat) : (s.updPm g).reg a_ = s.reg a_ := (rfl)
@[simp] theorem State.updPm_f (s : State) (g : PowerSt → PowerSt) (x_ : Fld) : (s.updPm g).f x_ = s.f x_ := (rfl)
@[simp] theorem State.updPm_flag (s : State) (g : PowerSt → PowerSt) (x_ : Fld) : (s.updPm g).flag x_ = s.flag x_ := (rfl)

/-! ### updCk -/

@[simp] theorem State.updCk_pending (s : State) (g : ClockSt → ClockSt) : (s.updCk g).pending = s.pending := (rfl)
@[simp] theorem State.updCk_time (s : State) (g : ClockSt → ClockSt) : (s.updCk g).time = s.time := (rfl)
@[simp] theorem State.updCk_regs (s : State) (g : ClockSt → ClockSt) : (s.updCk g).regs = s.regs := (rfl)
@[simp] theorem State.updCk_lx (s : State) (g : ClockSt → ClockSt) : (s.updCk g).lx = s.lx := (rfl)
@[simp] theorem State.updCk_tree (s : State) (g : ClockSt → ClockSt) : (s.updCk g).tree = s.tree := (rfl)
@[simp] theorem State.updCk_ts (s : State) (g : ClockSt → ClockSt) : (s.updCk g).ts = s.ts := (rfl)
@[simp] theorem State.updCk_ebm (s : State) (g : ClockSt → ClockSt) : (s.updCk g).ebm = s.ebm := (rfl)
@[simp] theorem State.updCk_bus (s : State) (g : ClockSt → ClockSt) : (s.updCk g).bus = s.bus := (rfl)
@[simp] theorem State.updCk_qe (s : State) (g : ClockSt → ClockSt) : (s.updCk g).qe = s.qe := (rfl)
@[simp] theorem State.updCk_bm (s : State) (g : ClockSt → ClockSt) : (s.updCk g).bm = s.bm := (rfl)
@[simp] theorem State.updCk_xb (s : State) (g : ClockSt → ClockSt) : (s.updCk g).xb = s.xb := (rfl)
@[simp] theorem State.updCk_fn (s : State) (g : ClockSt → ClockSt) : (s.updCk g).fn = s.fn := (rfl)
@[simp] theorem State.updCk_mre (s : State) (g : ClockSt → ClockSt) : (s.updCk g).mre = s.mre := (rfl)
@[simp] theorem State.updCk_gd (s : State) (g : ClockSt → ClockSt) : (s.updCk g).gd = s.gd := (rfl)
@[simp] theorem State.updCk_sv (s : State) (g : ClockSt → ClockSt) : (s.updCk g).sv = s.sv := (rfl)
@[simp] theorem State.updCk_pu (s : State) (g : ClockSt → ClockSt) : (s.updCk g).pu = s.pu := (rfl)
@[simp] theorem State.updCk_pm (s : State) (g : ClockSt → ClockSt) : (s.updCk g).pm = s.pm := (rfl)
@[simp] theorem State.updCk_free (s : State) (g : ClockSt → ClockSt) : (s.updCk g).free = s.free := (rfl)
@[simp] theorem State.updCk_out (s : State) (g : ClockSt → ClockSt) : (s.updCk g).out = s.out := (rfl)
@[simp] theorem State.updCk_reg (s : State) (g : ClockSt → ClockSt) (a_ : Nat) : (s.updCk g).reg a_ = s.reg a_ := (rfl)
@[simp] theorem State.updCk_f (s : State) (g : ClockSt → ClockSt) (x_ : Fld) : (s.updCk g).f x_ = s.f x_ := (rfl)
@[simp] theorem State.updCk_flag (s : State) (g : ClockSt → ClockSt) (x_ : Fld) : (s.updCk g).flag x_ = s.flag x_ := (rfl)

/-! ### updFn -/

@[simp] theorem State.updFn_pending (s : State) (f : ℕ) (g : FnRec → FnRec) : (s.updFn f g).pending = s.pending := (rfl)
@[simp] theorem State.updFn_time (s : State) (f : ℕ) (g : FnRec → FnRec) : (s.updFn f g).time = s.time := (rfl)
@[simp] theorem State.updFn_regs (s : State) (f : ℕ) (g : FnRec → FnRec) : (s.updFn f g).regs = s.regs := (rfl)
@[simp] theorem State.updFn_lx (s : State) (f : ℕ) (g : FnRec → FnRec) : (s.updFn f g).lx = s.lx := (rfl)
@[simp] theorem State.updFn_tree (s : State) (f : ℕ) (g : FnRec → FnRec) : (s.updFn f g).tree = s.tree := (rfl)
@[simp] theorem State.updFn_ts (s : State) (f : ℕ) (g : FnRec → FnRec) : (s.updFn f g).ts = s.ts := (rfl)
@[simp] theorem State.updFn_ebm (s : State) (f : ℕ) (g : FnRec → FnRec) : (s.updFn f g).ebm = s.ebm := (rfl)
@[simp] theorem State.updFn_bus (s : State) (f : ℕ) (g : FnRec → FnRec) : (s.updFn f g).bus = s.bus := (rfl)
@[simp] theorem State.updFn_qe (s : State) (f : ℕ) (g : FnRec → FnRec) : (s.updFn f g).qe = s.qe := (rfl)
@[simp] theorem State.updFn_bm (s : State) (f : ℕ) (g : FnRec → FnRec) : (s.updFn f g).bm = s.bm := (rfl)
@[simp] theorem State.updFn_xb (s : State) (f : ℕ) (g : FnRec → FnRec) : (s.updFn f g).xb = s.xb := (rfl)
@[simp] theorem State.updFn_mre (s : State) (f : ℕ) (g : FnRec → FnRec) : (s.updFn f g).mre = s.mre := (rfl)
@[simp] theorem State.updFn_gd (s : State) (f : ℕ) (g : FnRec → FnRec) : (s.updFn f g).gd = s.gd := (rfl)
@[simp] theorem State.updFn_sv (s : State) (f : ℕ) (g : FnRec → FnRec) : (s.updFn f g).sv = s.sv := (rfl)
@[simp] theorem State.updFn_pu (s : State) (f : ℕ) (g : FnRec → FnRec) : (s.updFn f g).pu = s.pu := (rfl)
@[simp] theorem State.updFn_pm (s : State) (f : ℕ) (g : FnRec → FnRec) : (s.updFn f g).pm = s.pm := (rfl)
@[simp] theorem State.updFn_ck (s : State) (f : ℕ) (g : FnRec → FnRec) : (s.updFn f g).ck = s.ck := (rfl)
@[simp] theorem State.updFn_free (s : State) (f : ℕ) (g : FnRec → FnRec) : (s.updFn f g).free = s.free := (rfl)
@[simp] theorem State.updFn_out (s : State) (f : ℕ) (g : FnRec → FnRec) : (s.updFn f g).out = s.out := (rfl)
@[simp] theorem State.updFn_reg (s : State) (f : ℕ) (g : FnRec → FnRec) (a_ : Nat) : (s.updFn f g).reg a_ = s.reg a_ := (rfl)
@[simp] theorem State.updFn_f (s : State) (f : ℕ) (g : FnRec → FnRec) (x_ : Fld) : (s.updFn f g).f x_ = s.f x_ := (rfl)
@[simp] theorem State.updFn_flag (s : State) (f : ℕ) (g : FnRec → FnRec) (x_ : Fld) : (s.updFn f g).flag x_ = s.flag x_ := (rfl)

/-! ### updVf -/

@[simp] theorem State.updVf_pending (s : State) (v : ℕ) (g : VfRec → VfRec) : (s.updVf v g).pending = s.pending := (rfl)
@[simp] theorem State.updVf_time (s : State) (v : ℕ) (g : VfRec → VfRec) : (s.updVf v g).time = s.time := (rfl)
@[simp] theorem State.updVf_regs (s : State) (v : ℕ) (g : VfRec → VfRec) : (s.updVf v g).regs = s.regs := (rfl)
@[simp] theorem State.updVf_lx (s : State) (v : ℕ) (g : VfRec → VfRec) : (s.updVf v g).lx = s.lx := (rfl)
@[simp] theorem State.updVf_tree (s : State) (v : ℕ) (g : VfRec → VfRec) : (s.updVf v g).tree = s.tree := (rfl)
@[simp] theorem State.updVf_ts (s : State) (v : ℕ) (g : VfRec → VfRec) : (s.updVf v g).ts = s.ts := (rfl)
@[simp] theorem State.updVf_ebm (s : State) (v : ℕ) (g : VfRec → VfRec) : (s.updVf v g).ebm = s.ebm := (rfl)
@[simp] theorem State.updVf_bus (s : State) (v : ℕ) (g : VfRec → VfRec) : (s.updVf v g).bus = s.bus := (rfl)
@[simp] theorem State.updVf_qe (s : State) (v : ℕ) (g : VfRec → VfRec) : (s.updVf v g).qe = s.qe := (rfl)
@[simp] theorem State.updVf_bm (s : State) (v : ℕ) (g : VfRec → VfRec) : (s.updVf v g).bm = s.bm := (rfl)
@[simp] theorem State.updVf_xb (s : State) (v : ℕ) (g : VfRec → VfRec) : (s.updVf v g).xb = s.xb := (rfl)
@[simp] theorem State.updVf_mre (s : State) (v : ℕ) (g : VfRec → VfRec) : (s.updVf v g).mre = s.mre := (rfl)
@[simp] theorem State.updVf_gd (s : State) (v : ℕ) (g : VfRec → VfRec) : (s.updVf v g).gd = s.gd := (rfl)
@[simp] theorem State.updVf_sv (s : State) (v : ℕ) (g : VfRec → VfRec) : (s.updVf v g).sv = s.sv := (rfl)
@[simp] theorem State.updVf_pu (s : State) (v : ℕ) (g : VfRec → VfRec) : (s.updVf v g).pu = s.pu := (rfl)
@[simp] theorem State.updVf_pm (s : State) (v : ℕ) (g : VfRec → VfRec) : (s.updVf v g).pm = s.pm := (rfl)
@[simp] theorem State.updVf_ck (s : State) (v : ℕ) (g : VfRec → VfRec) : (s.updVf v g).ck = s.ck := (rfl)
@[simp] theorem State.updVf_free (s : State) (v : ℕ) (g : VfRec → VfRec) : (s.updVf v g).free = s.free := (rfl)
@[simp] theorem State.updVf_out (s : State) (v : ℕ) (g : VfRec → VfRec) : (s.updVf v g).out = s.out := (rfl)
@[simp] theorem State.updVf_reg (s : State) (v : ℕ) (g : VfRec → VfRec) (a_ : Nat) : (s.updVf v g).reg a_ = s.reg a_ := (rfl)
@[simp] theorem State.updVf_f (s : State) (v : ℕ) (g : VfRec → VfRec) (x_ : Fld) : (s.updVf v g).f x_ = s.f x_ := (rfl)
@[simp] theorem State.updVf_flag (s : State) (v : ℕ) (g : VfRec → VfRec) (x_ : Fld) : (s.updVf v g).flag x_ = s.flag x_ := (rfl)

/-! ### updPort -/

@[simp] theorem State.updPort_pending (s : State) (p : ℕ) (g : PortRec → PortRec) : (s.updPort p g).pending = s.pending := (rfl)
@[simp] theorem State.updPort_time (s : State) (p : ℕ) (g : PortRec → PortRec) : (s.updPort p g).time = s.time := (rfl)
@[simp] theorem State.updPort_regs (s : State) (p : ℕ) (g : PortRec → PortRec) : (s.updPort p g).regs = s.regs := (rfl)
@[simp] theorem State.updPort_lx (s : State) (p : ℕ) (g : PortRec → PortRec) : (s.updPort p g).lx = s.lx := (rfl)
@[simp] theorem State.updPort_ts (s : State) (p : ℕ) (g : PortRec → PortRec) : (s.updPort p g).ts = s.ts := (rfl)
@[simp] theorem State.updPort_ebm (s : State) (p : ℕ) (g : PortRec → PortRec) : (s.updPort p g).ebm = s.ebm := (rfl)
@[simp] theorem State.updPort_bus (s : State) (p : ℕ) (g : PortRec → PortRec) : (s.updPort p g).bus = s.bus := (rfl)
@[simp] theorem State.updPort_qe (s : State) (p : ℕ) (g : PortRec → PortRec) : (s.updPort p g).qe = s.qe := (rfl)
@[simp] theorem State.updPort_bm (s : State) (p : ℕ) (g : PortRec → PortRec) : (s.updPort p g).bm = s.bm := (rfl)
@[simp] theorem State.updPort_xb (s : State) (p : ℕ) (g : PortRec → PortRec) : (s.updPort p g).xb = s.xb := (rfl)
@[simp] theorem State.updPort_fn (s : State) (p : ℕ) (g : PortRec → PortRec) : (s.updPort p g).fn = s.fn := (rfl)
@[simp] theorem State.updPort_mre (s : State) (p : ℕ) (g : PortRec → PortRec) : (s.updPort p g).mre = s.mre := (rfl)
@[simp] theorem State.updPort_gd (s : State) (p : ℕ) (g : PortRec → PortRec) : (s.updPort p g).gd = s.gd := (rfl)
@[simp] theorem State.updPort_sv (s : State) (p : ℕ) (g : PortRec → PortRec) : (s.updPort p g).sv = s.sv := (rfl)
@[simp] theorem State.updPort_pu (s : State) (p : ℕ) (g : PortRec → PortRec) : (s.updPort p g).pu = s.pu := (rfl)
@[simp] theorem State.updPort_pm (s : State) (p : ℕ) (g : PortRec → PortRec) : (s.updPort p g).pm = s.pm := (rfl)
@[simp] theorem State.updPort_ck (s : State) (p : ℕ) (g : PortRec → PortRec) : (s.updPort p g).ck = s.ck := (rfl)
@[simp] theorem State.updPort_free (s : State) (p : ℕ) (g : PortRec → PortRec) : (s.updPort p g).free = s.free := (rfl)
@[simp] theorem State.updPort_out (s : State) (p : ℕ) (g : PortRec → PortRec) : (s.updPort p g).out = s.out := (rfl)
@[simp] theorem State.updPort_reg (s : State) (p : ℕ) (g : PortRec → PortRec) (a_ : Nat) : (s.updPort p g).reg a_ = s.reg a_ := (rfl)
@[simp] theorem State.updPort_f (s : State) (p : ℕ) (g : PortRec → PortRec) (x_ : Fld) : (s.updPort p g).f x_ = s.f x_ := (rfl)
@[simp] theorem State.updPort_flag (s : State) (p : ℕ) (g : PortRec → PortRec) (x_ : Fld) : (s.updPort p g).flag x_ = s.flag x_ := (rfl)

/-! ### updLane -/

@[simp] theorem State.updLane_pending (s : State) (n : ℕ) (g : LaneRec → LaneRec) : (s.updLane n g).pending = s.pending := (rfl)
@[simp] theorem State.updLane_time (s : State) (n : ℕ) (g : LaneRec → LaneRec) : (s.updLane n g).time = s.time := (rfl)
@[simp] theorem State.updLane_regs (s : State) (n : ℕ) (g : LaneRec → LaneRec) : (s.updLane n g).regs = s.regs := (rfl)
@[simp] theorem State.updLane_tree (s : State) (n : ℕ) (g : LaneRec → LaneRec) : (s.updLane n g).tree = s.tree := (rfl)
@[simp] theorem State.updLane_ts (s : State) (n : ℕ) (g : LaneRec → LaneRec) : (s.updLane n g).ts = s.ts := (rfl)
@[simp] theorem State.updLane_ebm (s : State) (n : ℕ) (g : LaneRec → LaneRec) : (s.updLane n g).ebm = s.ebm := (rfl)
@[simp] theorem State.updLane_bus (s : State) (n : ℕ) (g : LaneRec → LaneRec) : (s.updLane n g).bus = s.bus := (rfl)
@[simp] theorem State.updLane_qe (s : State) (n : ℕ) (g : LaneRec → LaneRec) : (s.updLane n g).qe = s.qe := (rfl)
@[simp] theorem State.updLane_bm (s : State) (n : ℕ) (g : LaneRec → LaneRec) : (s.updLane n g).bm = s.bm := (rfl)
@[simp] theorem State.updLane_xb (s : State) (n : ℕ) (g : LaneRec → LaneRec) : (s.updLane n g).xb = s.xb := (rfl)
@[simp] theorem State.updLane_fn (s : State) (n : ℕ) (g : LaneRec → LaneRec) : (s.updLane n g).fn = s.fn := (rfl)
@[simp] theorem State.updLane_mre (s : State) (n : ℕ) (g : LaneRec → LaneRec) : (s.updLane n g).mre = s.mre := (rfl)
@[simp] theorem State.updLane_gd (s : State) (n : ℕ) (g : LaneRec → LaneRec) : (s.updLane n g).gd = s.gd := (rfl)
@[simp] theorem State.updLane_sv (s : State) (n : ℕ) (g : LaneRec → LaneRec) : (s.updLane n g).sv = s.sv := (rfl)
@[simp] theorem State.updLane_pu (s : State) (n : ℕ) (g : LaneRec → LaneRec) : (s.updLane n g).pu = s.pu := (rfl)
@[simp] theorem State.updLane_pm (s : State) (n : ℕ) (g : LaneRec → LaneRec) : (s.updLane n g).pm = s.pm := (rfl)
@[simp] theorem State.updLane_ck (s : State) (n : ℕ) (g : LaneRec → LaneRec) : (s.updLane n g).ck = s.ck := (rfl)
@[simp] theorem State.updLane_free (s : State) (n : ℕ) (g : LaneRec → LaneRec) : (s.updLane n g).free = s.free := (rfl)
@[simp] theorem State.updLane_out (s : State) (n : ℕ) (g : LaneRec → LaneRec) : (s.updLane n g).out = s.out := (rfl)
@[simp] theorem State.updLane_reg (s : State) (n : ℕ) (g : LaneRec → LaneRec) (a_ : Nat) : (s.updLane n g).reg a_ = s.reg a_ := (rfl)
@[simp] theorem State.updLane_f (s : State) (n : ℕ) (g : LaneRec → LaneRec) (x_ : Fld) : (s.updLane n g).f x_ = s.f x_ := (rfl)
@[simp] theorem State.updLane_flag (s : State) (n : ℕ) (g : LaneRec → LaneRec) (x_ : Fld) : (s.updLane n g).flag x_ = s.flag x_ := (rfl)

/-! ### updTrunk -/

@[simp] theorem State.updTrunk_pending (s : State) (t : ℕ) (g : TrunkRec → TrunkRec) : (s.updTrunk t g).pending = s.pending := (rfl)
@[simp] theorem State.updTrunk_time (s : State) (t : ℕ) (g : TrunkRec → TrunkRec) : (s.updTrunk t g).time = s.time := (rfl)
@[simp] theorem State.updTrunk_regs (s : State) (t : ℕ) (g : TrunkRec → TrunkRec) : (s.updTrunk t g).regs = s.regs := (rfl)
@[simp] theorem State.updTrunk_tree (s : State) (t : ℕ) (g : TrunkRec → TrunkRec) : (s.updTrunk t g).tree = s.tree := (rfl)
@[simp] theorem State.updTrunk_ts (s : State) (t : ℕ) (g : TrunkRec → TrunkRec) : (s.updTrunk t g).ts = s.ts := (rfl)
@[simp] theorem State.updTrunk_ebm (s : State) (t : ℕ) (g : TrunkRec → TrunkRec) : (s.updTrunk t g).ebm = s.ebm := (rfl)
@[simp] theorem State.updTrunk_bus (s : State) (t : ℕ) (g : TrunkRec → TrunkRec) : (s.updTrunk t g).bus = s.bus := (rfl)
@[simp] theorem State.updTrunk_qe (s : State) (t : ℕ) (g : TrunkRec → TrunkRec) : (s.updTrunk t g).qe = s.qe := (rfl)
@[simp] theorem State.updTrunk_bm (s : State) (t : ℕ) (g : TrunkRec → TrunkRec) : (s.updTrunk t g).bm = s.bm := (rfl)
@[simp] theorem State.updTrunk_xb (s : State) (t : ℕ) (g : TrunkRec → TrunkRec) : (s.updTrunk t g).xb = s.xb := (rfl)
@[simp] theorem State.updTrunk_fn (s : State) (t : ℕ) (g : TrunkRec → TrunkRec) : (s.updTrunk t g).fn = s.fn := (rfl)
@[simp] theorem State.updTrunk_mre (s : State) (t : ℕ) (g : TrunkRec → TrunkRec) : (s.updTrunk t g).mre = s.mre := (rfl)
@[simp] theorem State.updTrunk_gd (s : State) (t : ℕ) (g : TrunkRec → TrunkRec) : (s.updTrunk t g).gd = s.gd := (rfl)
@[simp] theorem State.updTrunk_sv (s : State) (t : ℕ) (g : TrunkRec → TrunkRec) : (s.updTrunk t g).sv = s.sv := (rfl)
@[simp] theorem State.updTrunk_pu (s : State) (t : ℕ) (g : TrunkRec → TrunkRec) : (s.updTrunk t g).pu = s.pu := (rfl)
@[simp] theorem State.updTrunk_pm (s : State) (t : ℕ) (g : TrunkRec → TrunkRec) : (s.updTrunk t g).pm = s.pm := (rfl)
@[simp] theorem State.updTrunk_ck (s : State) (t : ℕ) (g : TrunkRec → TrunkRec) : (s.updTrunk t g).ck = s.ck := (rfl)
@[simp] theorem State.updTrunk_free (s : State) (t : ℕ) (g : TrunkRec → TrunkRec) : (s.updTrunk t g).free = s.free := (rfl)
@[simp] theorem State.updTrunk_out (s : State) (t : ℕ) (g : TrunkRec → TrunkRec) : (s.updTrunk t g).out = s.out := (rfl)
@[simp] theorem State.updTrunk_reg (s : State) (t : ℕ) (g : TrunkRec → TrunkRec) (a_ : Nat) : (s.updTrunk t g).reg a_ = s.reg a_ := (rfl)
@[simp] theorem State.updTrunk_f (s : State) (t : ℕ) (g : TrunkRec → TrunkRec) (x_ : Fld) : (s.updTrunk t g).f x_ = s.f x_ := (rfl)
@[simp] theorem State.updTrunk_flag (s : State) (t : ℕ) (g : TrunkRec → TrunkRec) (x_ : Fld) : (s.updTrunk t g).flag x_ = s.flag x_ := (rfl)

/-! ### setSq -/

@[simp] theorem State.setSq_pending (s : State) (f : ℕ) (i : ℕ) (r : Option SqRec) : (s.setSq f i r).pending = s.pending := (rfl)
@[simp] theorem State.setSq_time (s : State) (f : ℕ) (i : ℕ) (r : Option SqRec) : (s.setSq f i r).time = s.time := (rfl)
@[simp] theorem State.setSq_regs (s : State) (f : ℕ) (i : ℕ) (r : Option SqRec) : (s.setSq f i r).regs = s.regs := (rfl)
@[simp] theorem State.setSq_lx (s : State) (f : ℕ) (i : ℕ) (r : Option SqRec) : (s.setSq f i r).lx = s.lx := (rfl)
@[simp] theorem State.setSq_tree (s : State) (f : ℕ) (i : ℕ) (r : Option SqRec) : (s.setSq f i r).tree = s.tree := (rfl)
@[simp] theorem State.setSq_ts (s : State) (f : ℕ) (i : ℕ) (r : Option SqRec) : (s.setSq f i r).ts = s.ts := (rfl)
@[simp] theorem State.setSq_ebm (s : State) (f : ℕ) (i : ℕ) (r : Option SqRec) : (s.setSq f i r).ebm = s.ebm := (rfl)
@[simp] theorem State.setSq_bus (s : State) (f : ℕ) (i : ℕ) (r : Option SqRec) : (s.setSq f i r).bus = s.bus := (rfl)
@[simp] theorem State.setSq_bm (s : State) (f : ℕ) (i : ℕ) (r : Option SqRec) : (s.setSq f i r).bm = s.bm := (rfl)
@[simp] theorem State.setSq_xb (s : State) (f : ℕ) (i : ℕ) (r : Option SqRec) : (s.setSq f i r).xb = s.xb := (rfl)
@[simp] theorem State.setSq_fn (s : State) (f : ℕ) (i : ℕ) (r : Option SqRec) : (s.setSq f i r).fn = s.fn := (rfl)
@[simp] theorem State.setSq_mre (s : State) (f : ℕ) (i : ℕ) (r : Option SqRec) : (s.setSq f i r).mre = s.mre := (rfl)
@[simp] theorem State.setSq_gd (s : State) (f : ℕ) (i : ℕ) (r : Option SqRec) : (s.setSq f i r).gd = s.gd := (rfl)
@[simp] theorem State.setSq_sv (s : State) (f : ℕ) (i : ℕ) (r : Option SqRec) : (s.setSq f i r).sv = s.sv := (rfl)
@[simp] theorem State.setSq_pu (s : State) (f : ℕ) (i : ℕ) (r : Option SqRec) : (s.setSq f i r).pu = s.pu := (rfl)
@[simp] theorem State.setSq_pm (s : State) (f : ℕ) (i : ℕ) (r : Option SqRec) : (s.setSq f i r).pm = s.pm := (rfl)
@[simp] theorem State.setSq_ck (s : State) (f : ℕ) (i : ℕ) (r : Option SqRec) : (s.setSq f i r).ck = s.ck := (rfl)
@[simp] theorem State.setSq_free (s : State) (f : ℕ) (i : ℕ) (r : Option SqRec) : (s.setSq f i r).free = s.free := (rfl)
@[simp] theorem State.setSq_out (s : State) (f : ℕ) (i : ℕ) (r : Option SqRec) : (s.setSq f i r).out = s.out := (rfl)
@[simp] theorem State.setSq_reg (s : State) (f : ℕ) (i : ℕ) (r : Option SqRec) (a_ : Nat) : (s.setSq f i r).reg a_ = s.reg a_ := (rfl)
@[simp] theorem State.setSq_f (s : State) (f : ℕ) (i : ℕ) (r : Option SqRec) (x_ : Fld) : (s.setSq f i r).f x_ = s.f x_ := (rfl)
@[simp] theorem State.setSq_flag (s : State) (f : ℕ) (i : ℕ) (r : Option SqRec) (x_ : Fld) : (s.setSq f i r).flag x_ = s.flag x_ := (rfl)

/-! ### setCq -/

@[simp] theorem State.setCq_pending (s : State) (f : ℕ) (i : ℕ) (r : Option CqRec) : (s.setCq f i r).pending = s.pending := (rfl)
@[simp] theorem State.setCq_time (s : State) (f : ℕ) (i : ℕ) (r : Option CqRec) : (s.setCq f i r).time = s.time := (rfl)
@[simp] theorem State.setCq_regs (s : State) (f : ℕ) (i : ℕ) (r : Option CqRec) : (s.setCq f i r).regs = s.regs := (rfl)
@[simp] theorem State.setCq_lx (s : State) (f : ℕ) (i : ℕ) (r : Option CqRec) : (s.setCq f i r).lx = s.lx := (rfl)
@[simp] theorem State.setCq_tree (s : State) (f : ℕ) (i : ℕ) (r : Option CqRec) : (s.setCq f i r).tree = s.tree := (rfl)
@[simp] theorem State.setCq_ts (s : State) (f : ℕ) (i : ℕ) (r : Option CqRec) : (s.setCq f i r).ts = s.ts := (rfl)
@[simp] theorem State.setCq_ebm (s : State) (f : ℕ) (i : ℕ) (r : Option CqRec) : (s.setCq f i r).ebm = s.ebm := (rfl)
@[simp] theorem State.setCq_bus (s : State) (f : ℕ) (i : ℕ) (r : Option CqRec) : (s.setCq f i r).bus = s.bus := (rfl)
@[simp] theorem State.setCq_bm (s : State) (f : ℕ) (i : ℕ) (r : Option CqRec) : (s.setCq f i r).bm = s.bm := (rfl)
@[simp] theorem State.setCq_xb (s : State) (f : ℕ) (i : ℕ) (r : Option CqRec) : (s.setCq f i r).xb = s.xb := (rfl)
@[simp] theorem State.setCq_fn (s : State) (f : ℕ) (i : ℕ) (r : Option CqRec) : (s.setCq f i r).fn = s.fn := (rfl)
@[simp] theorem State.setCq_mre (s : State) (f : ℕ) (i : ℕ) (r : Option CqRec) : (s.setCq f i r).mre = s.mre := (rfl)
@[simp] theorem State.setCq_gd (s : State) (f : ℕ) (i : ℕ) (r : Option CqRec) : (s.setCq f i r).gd = s.gd := (rfl)
@[simp] theorem State.setCq_sv (s : State) (f : ℕ) (i : ℕ) (r : Option CqRec) : (s.setCq f i r).sv = s.sv := (rfl)
@[simp] theorem State.setCq_pu (s : State) (f : ℕ) (i : ℕ) (r : Option CqRec) : (s.setCq f i r).pu = s.pu := (rfl)
@[simp] theorem State.setCq_pm (s : State) (f : ℕ) (i : ℕ) (r : Option CqRec) : (s.setCq f i r).pm = s.pm := (rfl)
@[simp] theorem State.setCq_ck (s : State) (f : ℕ) (i : ℕ) (r : Option CqRec) : (s.setCq f i r).ck = s.ck := (rfl)
@[simp] theorem State.setCq_free (s : State) (f : ℕ) (i : ℕ) (r : Option CqRec) : (s.setCq f i r).free = s.free := (rfl)
@[simp] theorem State.setCq_out (s : State) (f : ℕ) (i : ℕ) (r : Option CqRec) : (s.setCq f i r).out = s.out := (rfl)
@[simp] theorem State.setCq_reg (s : State) (f : ℕ) (i : ℕ) (r : Option CqRec) (a_ : Nat) : (s.setCq f i r).reg a_ = s.reg a_ := (rfl)
@[simp] theorem State.setCq_f (s : State) (f : ℕ) (i : ℕ) (r : Option CqRec) (x_ : Fld) : (s.setCq f i r).f x_ = s.f x_ := (rfl)
@[simp] theorem State.setCq_flag (s : State) (f : ℕ) (i : ℕ) (r : Option CqRec) (x_ : Fld) : (s.setCq f i r).flag x_ = s.flag x_ := (rfl)

/-! ### setWalk -/

@[simp] theorem State.setWalk_pending (s : State) (t : ℕ) (w : WalkRec) : (s.setWalk t w).pending = s.pending := (rfl)
@[simp] theorem State.setWalk_time (s : State) (t : ℕ) (w : WalkRec) : (s.setWalk t w).time = s.time := (rfl)
@[simp] theorem State.setWalk_regs (s : State) (t : ℕ) (w : WalkRec) : (s.setWalk t w).regs = s.regs := (rfl)
@[simp] theorem State.setWalk_lx (s : State) (t : ℕ) (w : WalkRec) : (s.setWalk t w).lx = s.lx := (rfl)
@[simp] theorem State.setWalk_tree (s : State) (t : ℕ) (w : WalkRec) : (s.setWalk t w).tree = s.tree := (rfl)
@[simp] theorem State.setWalk_ebm (s : State) (t : ℕ) (w : WalkRec) : (s.setWalk t w).ebm = s.ebm := (rfl)
@[simp] theorem State.setWalk_bus (s : State) (t : ℕ) (w : WalkRec) : (s.setWalk t w).bus = s.bus := (rfl)
@[simp] theorem State.setWalk_qe (s : State) (t : ℕ) (w : WalkRec) : (s.setWalk t w).qe = s.qe := (rfl)
@[simp] theorem State.setWalk_bm (s : State) (t : ℕ) (w : WalkRec) : (s.setWalk t w).bm = s.bm := (rfl)
@[simp] theorem State.setWalk_xb (s : State) (t : ℕ) (w : WalkRec) : (s.setWalk t w).xb = s.xb := (rfl)
@[simp] theorem State.setWalk_fn (s : State) (t : ℕ) (w : WalkRec) : (s.setWalk t w).fn = s.fn := (rfl)
@[simp] theorem State.setWalk_mre (s : State) (t : ℕ) (w : WalkRec) : (s.setWalk t w).mre = s.mre := (rfl)
@[simp] theorem State.setWalk_gd (s : State) (t : ℕ) (w : WalkRec) : (s.setWalk t w).gd = s.gd := (rfl)
@[simp] theorem State.setWalk_sv (s : State) (t : ℕ) (w : WalkRec) : (s.setWalk t w).sv = s.sv := (rfl)
@[simp] theorem State.setWalk_pu (s : State) (t : ℕ) (w : WalkRec) : (s.setWalk t w).pu = s.pu := (rfl)
@[simp] theorem State.setWalk_pm (s : State) (t : ℕ) (w : WalkRec) : (s.setWalk t w).pm = s.pm := (rfl)
@[simp] theorem State.setWalk_ck (s : State) (t : ℕ) (w : WalkRec) : (s.setWalk t w).ck = s.ck := (rfl)
@[simp] theorem State.setWalk_free (s : State) (t : ℕ) (w : WalkRec) : (s.setWalk t w).free = s.free := (rfl)
@[simp] theorem State.setWalk_out (s : State) (t : ℕ) (w : WalkRec) : (s.setWalk t w).out = s.out := (rfl)
@[simp] theorem State.setWalk_reg (s : State) (t : ℕ) (w : WalkRec) (a_ : Nat) : (s.setWalk t w).reg a_ = s.reg a_ := (rfl)
@[simp] theorem State.setWalk_f (s : State) (t : ℕ) (w : WalkRec) (x_ : Fld) : (s.setWalk t w).f x_ = s.f x_ := (rfl)
@[simp] theorem State.setWalk_flag (s : State) (t : ℕ) (w : WalkRec) (x_ : Fld) : (s.setWalk t w).flag x_ = s.flag x_ := (rfl)

/-! ### setCredit -/

@[simp] theorem State.setCredit_pending (s : State) (t : ℕ) (f : ℕ) (c : ℤ) : (s.setCredit t f c).pending = s.pending := (rfl)
@[simp] theorem State.setCredit_time (s : State) (t : ℕ) (f : ℕ) (c : ℤ) : (s.setCredit t f c).time = s.time := (rfl)
@[simp] theorem State.setCredit_regs (s : State) (t : ℕ) (f : ℕ) (c : ℤ) : (s.setCredit t f c).regs = s.regs := (rfl)
@[simp] theorem State.setCredit_lx (s : State) (t : ℕ) (f : ℕ) (c : ℤ) : (s.setCredit t f c).lx = s.lx := (rfl)
@[simp] theorem State.setCredit_tree (s : State) (t : ℕ) (f : ℕ) (c : ℤ) : (s.setCredit t f c).tree = s.tree := (rfl)
@[simp] theorem State.setCredit_ebm (s : State) (t : ℕ) (f : ℕ) (c : ℤ) : (s.setCredit t f c).ebm = s.ebm := (rfl)
@[simp] theorem State.setCredit_bus (s : State) (t : ℕ) (f : ℕ) (c : ℤ) : (s.setCredit t f c).bus = s.bus := (rfl)
@[simp] theorem State.setCredit_qe (s : State) (t : ℕ) (f : ℕ) (c : ℤ) : (s.setCredit t f c).qe = s.qe := (rfl)
@[simp] theorem State.setCredit_bm (s : State) (t : ℕ) (f : ℕ) (c : ℤ) : (s.setCredit t f c).bm = s.bm := (rfl)
@[simp] theorem State.setCredit_xb (s : State) (t : ℕ) (f : ℕ) (c : ℤ) : (s.setCredit t f c).xb = s.xb := (rfl)
@[simp] theorem State.setCredit_fn (s : State) (t : ℕ) (f : ℕ) (c : ℤ) : (s.setCredit t f c).fn = s.fn := (rfl)
@[simp] theorem State.setCredit_mre (s : State) (t : ℕ) (f : ℕ) (c : ℤ) : (s.setCredit t f c).mre = s.mre := (rfl)
@[simp] theorem State.setCredit_gd (s : State) (t : ℕ) (f : ℕ) (c : ℤ) : (s.setCredit t f c).gd = s.gd := (rfl)
@[simp] theorem State.setCredit_sv (s : State) (t : ℕ) (f : ℕ) (c : ℤ) : (s.setCredit t f c).sv = s.sv := (rfl)
@[simp] theorem State.setCredit_pu (s : State) (t : ℕ) (f : ℕ) (c : ℤ) : (s.setCredit t f c).pu = s.pu := (rfl)
@[simp] theorem State.setCredit_pm (s : State) (t : ℕ) (f : ℕ) (c : ℤ) : (s.setCredit t f c).pm = s.pm := (rfl)
@[simp] theorem State.setCredit_ck (s : State) (t : ℕ) (f : ℕ) (c : ℤ) : (s.setCredit t f c).ck = s.ck := (rfl)
@[simp] theorem State.setCredit_free (s : State) (t : ℕ) (f : ℕ) (c : ℤ) : (s.setCredit t f c).free = s.free := (rfl)
@[simp] theorem State.setCredit_out (s : State) (t : ℕ) (f : ℕ) (c : ℤ) : (s.setCredit t f c).out = s.out := (rfl)
@[simp] theorem State.setCredit_reg (s : State) (t : ℕ) (f : ℕ) (c : ℤ) (a_ : Nat) : (s.setCredit t f c).reg a_ = s.reg a_ := (rfl)
@[simp] theorem State.setCredit_f (s : State) (t : ℕ) (f : ℕ) (c : ℤ) (x_ : Fld) : (s.setCredit t f c).f x_ = s.f x_ := (rfl)
@[simp] theorem State.setCredit_flag (s : State) (t : ℕ) (f : ℕ) (c : ℤ) (x_ : Fld) : (s.setCredit t f c).flag x_ = s.flag x_ := (rfl)

/-! ### setEntries -/

@[simp] theorem State.setEntries_pending (s : State) (l : ℕ) (bank : ℕ) (e : List PEnt) : (s.setEntries l bank e).pending = s.pending := (rfl)
@[simp] theorem State.setEntries_time (s : State) (l : ℕ) (bank : ℕ) (e : List PEnt) : (s.setEntries l bank e).time = s.time := (rfl)
@[simp] theorem State.setEntries_regs (s : State) (l : ℕ) (bank : ℕ) (e : List PEnt) : (s.setEntries l bank e).regs = s.regs := (rfl)
@[simp] theorem State.setEntries_lx (s : State) (l : ℕ) (bank : ℕ) (e : List PEnt) : (s.setEntries l bank e).lx = s.lx := (rfl)
@[simp] theorem State.setEntries_tree (s : State) (l : ℕ) (bank : ℕ) (e : List PEnt) : (s.setEntries l bank e).tree = s.tree := (rfl)
@[simp] theorem State.setEntries_ebm (s : State) (l : ℕ) (bank : ℕ) (e : List PEnt) : (s.setEntries l bank e).ebm = s.ebm := (rfl)
@[simp] theorem State.setEntries_bus (s : State) (l : ℕ) (bank : ℕ) (e : List PEnt) : (s.setEntries l bank e).bus = s.bus := (rfl)
@[simp] theorem State.setEntries_qe (s : State) (l : ℕ) (bank : ℕ) (e : List PEnt) : (s.setEntries l bank e).qe = s.qe := (rfl)
@[simp] theorem State.setEntries_bm (s : State) (l : ℕ) (bank : ℕ) (e : List PEnt) : (s.setEntries l bank e).bm = s.bm := (rfl)
@[simp] theorem State.setEntries_xb (s : State) (l : ℕ) (bank : ℕ) (e : List PEnt) : (s.setEntries l bank e).xb = s.xb := (rfl)
@[simp] theorem State.setEntries_fn (s : State) (l : ℕ) (bank : ℕ) (e : List PEnt) : (s.setEntries l bank e).fn = s.fn := (rfl)
@[simp] theorem State.setEntries_mre (s : State) (l : ℕ) (bank : ℕ) (e : List PEnt) : (s.setEntries l bank e).mre = s.mre := (rfl)
@[simp] theorem State.setEntries_gd (s : State) (l : ℕ) (bank : ℕ) (e : List PEnt) : (s.setEntries l bank e).gd = s.gd := (rfl)
@[simp] theorem State.setEntries_sv (s : State) (l : ℕ) (bank : ℕ) (e : List PEnt) : (s.setEntries l bank e).sv = s.sv := (rfl)
@[simp] theorem State.setEntries_pu (s : State) (l : ℕ) (bank : ℕ) (e : List PEnt) : (s.setEntries l bank e).pu = s.pu := (rfl)
@[simp] theorem State.setEntries_pm (s : State) (l : ℕ) (bank : ℕ) (e : List PEnt) : (s.setEntries l bank e).pm = s.pm := (rfl)
@[simp] theorem State.setEntries_ck (s : State) (l : ℕ) (bank : ℕ) (e : List PEnt) : (s.setEntries l bank e).ck = s.ck := (rfl)
@[simp] theorem State.setEntries_free (s : State) (l : ℕ) (bank : ℕ) (e : List PEnt) : (s.setEntries l bank e).free = s.free := (rfl)
@[simp] theorem State.setEntries_out (s : State) (l : ℕ) (bank : ℕ) (e : List PEnt) : (s.setEntries l bank e).out = s.out := (rfl)
@[simp] theorem State.setEntries_reg (s : State) (l : ℕ) (bank : ℕ) (e : List PEnt) (a_ : Nat) : (s.setEntries l bank e).reg a_ = s.reg a_ := (rfl)
@[simp] theorem State.setEntries_f (s : State) (l : ℕ) (bank : ℕ) (e : List PEnt) (x_ : Fld) : (s.setEntries l bank e).f x_ = s.f x_ := (rfl)
@[simp] theorem State.setEntries_flag (s : State) (l : ℕ) (bank : ℕ) (e : List PEnt) (x_ : Fld) : (s.setEntries l bank e).flag x_ = s.flag x_ := (rfl)

/-! ### logStage -/

@[simp] theorem State.logStage_pending (s : State) (r : StageRec) : (s.logStage r).pending = s.pending := (rfl)
@[simp] theorem State.logStage_time (s : State) (r : StageRec) : (s.logStage r).time = s.time := (rfl)
@[simp] theorem State.logStage_regs (s : State) (r : StageRec) : (s.logStage r).regs = s.regs := (rfl)
@[simp] theorem State.logStage_lx (s : State) (r : StageRec) : (s.logStage r).lx = s.lx := (rfl)
@[simp] theorem State.logStage_tree (s : State) (r : StageRec) : (s.logStage r).tree = s.tree := (rfl)
@[simp] theorem State.logStage_ebm (s : State) (r : StageRec) : (s.logStage r).ebm = s.ebm := (rfl)
@[simp] theorem State.logStage_bus (s : State) (r : StageRec) : (s.logStage r).bus = s.bus := (rfl)
@[simp] theorem State.logStage_qe (s : State) (r : StageRec) : (s.logStage r).qe = s.qe := (rfl)
@[simp] theorem State.logStage_bm (s : State) (r : StageRec) : (s.logStage r).bm = s.bm := (rfl)
@[simp] theorem State.logStage_xb (s : State) (r : StageRec) : (s.logStage r).xb = s.xb := (rfl)
@[simp] theorem State.logStage_fn (s : State) (r : StageRec) : (s.logStage r).fn = s.fn := (rfl)
@[simp] theorem State.logStage_mre (s : State) (r : StageRec) : (s.logStage r).mre = s.mre := (rfl)
@[simp] theorem State.logStage_gd (s : State) (r : StageRec) : (s.logStage r).gd = s.gd := (rfl)
@[simp] theorem State.logStage_sv (s : State) (r : StageRec) : (s.logStage r).sv = s.sv := (rfl)
@[simp] theorem State.logStage_pu (s : State) (r : StageRec) : (s.logStage r).pu = s.pu := (rfl)
@[simp] theorem State.logStage_pm (s : State) (r : StageRec) : (s.logStage r).pm = s.pm := (rfl)
@[simp] theorem State.logStage_ck (s : State) (r : StageRec) : (s.logStage r).ck = s.ck := (rfl)
@[simp] theorem State.logStage_free (s : State) (r : StageRec) : (s.logStage r).free = s.free := (rfl)
@[simp] theorem State.logStage_out (s : State) (r : StageRec) : (s.logStage r).out = s.out := (rfl)
@[simp] theorem State.logStage_reg (s : State) (r : StageRec) (a_ : Nat) : (s.logStage r).reg a_ = s.reg a_ := (rfl)
@[simp] theorem State.logStage_f (s : State) (r : StageRec) (x_ : Fld) : (s.logStage r).f x_ = s.f x_ := (rfl)
@[simp] theorem State.logStage_flag (s : State) (r : StageRec) (x_ : Fld) : (s.logStage r).flag x_ = s.flag x_ := (rfl)

/-! ### setPer -/

@[simp] theorem State.setPer_pending (s : State) (k : ℕ) (r : Option PerTx) : (s.setPer k r).pending = s.pending := (rfl)
@[simp] theorem State.setPer_time (s : State) (k : ℕ) (r : Option PerTx) : (s.setPer k r).time = s.time := (rfl)
@[simp] theorem State.setPer_regs (s : State) (k : ℕ) (r : Option PerTx) : (s.setPer k r).regs = s.regs := (rfl)
@[simp] theorem State.setPer_lx (s : State) (k : ℕ) (r : Option PerTx) : (s.setPer k r).lx = s.lx := (rfl)
@[simp] theorem State.setPer_tree (s : State) (k : ℕ) (r : Option PerTx) : (s.setPer k r).tree = s.tree := (rfl)
@[simp] theorem State.setPer_ts (s : State) (k : ℕ) (r : Option PerTx) : (s.setPer k r).ts = s.ts := (rfl)
@[simp] theorem State.setPer_ebm (s : State) (k : ℕ) (r : Option PerTx) : (s.setPer k r).ebm = s.ebm := (rfl)
@[simp] theorem State.setPer_qe (s : State) (k : ℕ) (r : Option PerTx) : (s.setPer k r).qe = s.qe := (rfl)
@[simp] theorem State.setPer_bm (s : State) (k : ℕ) (r : Option PerTx) : (s.setPer k r).bm = s.bm := (rfl)
@[simp] theorem State.setPer_xb (s : State) (k : ℕ) (r : Option PerTx) : (s.setPer k r).xb = s.xb := (rfl)
@[simp] theorem State.setPer_fn (s : State) (k : ℕ) (r : Option PerTx) : (s.setPer k r).fn = s.fn := (rfl)
@[simp] theorem State.setPer_mre (s : State) (k : ℕ) (r : Option PerTx) : (s.setPer k r).mre = s.mre := (rfl)
@[simp] theorem State.setPer_gd (s : State) (k : ℕ) (r : Option PerTx) : (s.setPer k r).gd = s.gd := (rfl)
@[simp] theorem State.setPer_sv (s : State) (k : ℕ) (r : Option PerTx) : (s.setPer k r).sv = s.sv := (rfl)
@[simp] theorem State.setPer_pu (s : State) (k : ℕ) (r : Option PerTx) : (s.setPer k r).pu = s.pu := (rfl)
@[simp] theorem State.setPer_pm (s : State) (k : ℕ) (r : Option PerTx) : (s.setPer k r).pm = s.pm := (rfl)
@[simp] theorem State.setPer_ck (s : State) (k : ℕ) (r : Option PerTx) : (s.setPer k r).ck = s.ck := (rfl)
@[simp] theorem State.setPer_free (s : State) (k : ℕ) (r : Option PerTx) : (s.setPer k r).free = s.free := (rfl)
@[simp] theorem State.setPer_out (s : State) (k : ℕ) (r : Option PerTx) : (s.setPer k r).out = s.out := (rfl)
@[simp] theorem State.setPer_reg (s : State) (k : ℕ) (r : Option PerTx) (a_ : Nat) : (s.setPer k r).reg a_ = s.reg a_ := (rfl)
@[simp] theorem State.setPer_f (s : State) (k : ℕ) (r : Option PerTx) (x_ : Fld) : (s.setPer k r).f x_ = s.f x_ := (rfl)
@[simp] theorem State.setPer_flag (s : State) (k : ℕ) (r : Option PerTx) (x_ : Fld) : (s.setPer k r).flag x_ = s.flag x_ := (rfl)

/-! ### setNpTx -/

@[simp] theorem State.setNpTx_pending (s : State) (k : ℕ) (r : Option NpTx) : (s.setNpTx k r).pending = s.pending := (rfl)
@[simp] theorem State.setNpTx_time (s : State) (k : ℕ) (r : Option NpTx) : (s.setNpTx k r).time = s.time := (rfl)
@[simp] theorem State.setNpTx_regs (s : State) (k : ℕ) (r : Option NpTx) : (s.setNpTx k r).regs = s.regs := (rfl)
@[simp] theorem State.setNpTx_lx (s : State) (k : ℕ) (r : Option NpTx) : (s.setNpTx k r).lx = s.lx := (rfl)
@[simp] theorem State.setNpTx_tree (s : State) (k : ℕ) (r : Option NpTx) : (s.setNpTx k r).tree = s.tree := (rfl)
@[simp] theorem State.setNpTx_ts (s : State) (k : ℕ) (r : Option NpTx) : (s.setNpTx k r).ts = s.ts := (rfl)
@[simp] theorem State.setNpTx_ebm (s : State) (k : ℕ) (r : Option NpTx) : (s.setNpTx k r).ebm = s.ebm := (rfl)
@[simp] theorem State.setNpTx_qe (s : State) (k : ℕ) (r : Option NpTx) : (s.setNpTx k r).qe = s.qe := (rfl)
@[simp] theorem State.setNpTx_bm (s : State) (k : ℕ) (r : Option NpTx) : (s.setNpTx k r).bm = s.bm := (rfl)
@[simp] theorem State.setNpTx_xb (s : State) (k : ℕ) (r : Option NpTx) : (s.setNpTx k r).xb = s.xb := (rfl)
@[simp] theorem State.setNpTx_fn (s : State) (k : ℕ) (r : Option NpTx) : (s.setNpTx k r).fn = s.fn := (rfl)
@[simp] theorem State.setNpTx_mre (s : State) (k : ℕ) (r : Option NpTx) : (s.setNpTx k r).mre = s.mre := (rfl)
@[simp] theorem State.setNpTx_gd (s : State) (k : ℕ) (r : Option NpTx) : (s.setNpTx k r).gd = s.gd := (rfl)
@[simp] theorem State.setNpTx_sv (s : State) (k : ℕ) (r : Option NpTx) : (s.setNpTx k r).sv = s.sv := (rfl)
@[simp] theorem State.setNpTx_pu (s : State) (k : ℕ) (r : Option NpTx) : (s.setNpTx k r).pu = s.pu := (rfl)
@[simp] theorem State.setNpTx_pm (s : State) (k : ℕ) (r : Option NpTx) : (s.setNpTx k r).pm = s.pm := (rfl)
@[simp] theorem State.setNpTx_ck (s : State) (k : ℕ) (r : Option NpTx) : (s.setNpTx k r).ck = s.ck := (rfl)
@[simp] theorem State.setNpTx_free (s : State) (k : ℕ) (r : Option NpTx) : (s.setNpTx k r).free = s.free := (rfl)
@[simp] theorem State.setNpTx_out (s : State) (k : ℕ) (r : Option NpTx) : (s.setNpTx k r).out = s.out := (rfl)
@[simp] theorem State.setNpTx_reg (s : State) (k : ℕ) (r : Option NpTx) (a_ : Nat) : (s.setNpTx k r).reg a_ = s.reg a_ := (rfl)
@[simp] theorem State.setNpTx_f (s : State) (k : ℕ) (r : Option NpTx) (x_ : Fld) : (s.setNpTx k r).f x_ = s.f x_ := (rfl)
@[simp] theorem State.setNpTx_flag (s : State) (k : ℕ) (r : Option NpTx) (x_ : Fld) : (s.setNpTx k r).flag x_ = s.flag x_ := (rfl)

/-! ### setXfer -/

@[simp] theorem State.setXfer_pending (s : State) (x : ℕ) (r : Option Xfer) : (s.setXfer x r).pending = s.pending := (rfl)
@[simp] theorem State.setXfer_time (s : State) (x : ℕ) (r : Option Xfer) : (s.setXfer x r).time = s.time := (rfl)
@[simp] theorem State.setXfer_regs (s : State) (x : ℕ) (r : Option Xfer) : (s.setXfer x r).regs = s.regs := (rfl)
@[simp] theorem State.setXfer_lx (s : State) (x : ℕ) (r : Option Xfer) : (s.setXfer x r).lx = s.lx := (rfl)
@[simp] theorem State.setXfer_tree (s : State) (x : ℕ) (r : Option Xfer) : (s.setXfer x r).tree = s.tree := (rfl)
@[simp] theorem State.setXfer_ts (s : State) (x : ℕ) (r : Option Xfer) : (s.setXfer x r).ts = s.ts := (rfl)
@[simp] theorem State.setXfer_ebm (s : State) (x : ℕ) (r : Option Xfer) : (s.setXfer x r).ebm = s.ebm := (rfl)
@[simp] theorem State.setXfer_qe (s : State) (x : ℕ) (r : Option Xfer) : (s.setXfer x r).qe = s.qe := (rfl)
@[simp] theorem State.setXfer_bm (s : State) (x : ℕ) (r : Option Xfer) : (s.setXfer x r).bm = s.bm := (rfl)
@[simp] theorem State.setXfer_xb (s : State) (x : ℕ) (r : Option Xfer) : (s.setXfer x r).xb = s.xb := (rfl)
@[simp] theorem State.setXfer_fn (s : State) (x : ℕ) (r : Option Xfer) : (s.setXfer x r).fn = s.fn := (rfl)
@[simp] theorem State.setXfer_mre (s : State) (x : ℕ) (r : Option Xfer) : (s.setXfer x r).mre = s.mre := (rfl)
@[simp] theorem State.setXfer_gd (s : State) (x : ℕ) (r : Option Xfer) : (s.setXfer x r).gd = s.gd := (rfl)
@[simp] theorem State.setXfer_sv (s : State) (x : ℕ) (r : Option Xfer) : (s.setXfer x r).sv = s.sv := (rfl)
@[simp] theorem State.setXfer_pu (s : State) (x : ℕ) (r : Option Xfer) : (s.setXfer x r).pu = s.pu := (rfl)
@[simp] theorem State.setXfer_pm (s : State) (x : ℕ) (r : Option Xfer) : (s.setXfer x r).pm = s.pm := (rfl)
@[simp] theorem State.setXfer_ck (s : State) (x : ℕ) (r : Option Xfer) : (s.setXfer x r).ck = s.ck := (rfl)
@[simp] theorem State.setXfer_free (s : State) (x : ℕ) (r : Option Xfer) : (s.setXfer x r).free = s.free := (rfl)
@[simp] theorem State.setXfer_out (s : State) (x : ℕ) (r : Option Xfer) : (s.setXfer x r).out = s.out := (rfl)
@[simp] theorem State.setXfer_reg (s : State) (x : ℕ) (r : Option Xfer) (a_ : Nat) : (s.setXfer x r).reg a_ = s.reg a_ := (rfl)
@[simp] theorem State.setXfer_f (s : State) (x : ℕ) (r : Option Xfer) (x_ : Fld) : (s.setXfer x r).f x_ = s.f x_ := (rfl)
@[simp] theorem State.setXfer_flag (s : State) (x : ℕ) (r : Option Xfer) (x_ : Fld) : (s.setXfer x r).flag x_ = s.flag x_ := (rfl)

/-! ### setTodo -/

@[simp] theorem State.setTodo_pending (s : State) (p : ℕ) (l : List TmItem) : (s.setTodo p l).pending = s.pending := (rfl)
@[simp] theorem State.setTodo_time (s : State) (p : ℕ) (l : List TmItem) : (s.setTodo p l).time = s.time := (rfl)
@[simp] theorem State.setTodo_regs (s : State) (p : ℕ) (l : List TmItem) : (s.setTodo p l).regs = s.regs := (rfl)
@[simp] theorem State.setTodo_lx (s : State) (p : ℕ) (l : List TmItem) : (s.setTodo p l).lx = s.lx := (rfl)
@[simp] theorem State.setTodo_ts (s : State) (p : ℕ) (l : List TmItem) : (s.setTodo p l).ts = s.ts := (rfl)
@[simp] theorem State.setTodo_ebm (s : State) (p : ℕ) (l : List TmItem) : (s.setTodo p l).ebm = s.ebm := (rfl)
@[simp] theorem State.setTodo_bus (s : State) (p : ℕ) (l : List TmItem) : (s.setTodo p l).bus = s.bus := (rfl)
@[simp] theorem State.setTodo_qe (s : State) (p : ℕ) (l : List TmItem) : (s.setTodo p l).qe = s.qe := (rfl)
@[simp] theorem State.setTodo_bm (s : State) (p : ℕ) (l : List TmItem) : (s.setTodo p l).bm = s.bm := (rfl)
@[simp] theorem State.setTodo_xb (s : State) (p : ℕ) (l : List TmItem) : (s.setTodo p l).xb = s.xb := (rfl)
@[simp] theorem State.setTodo_fn (s : State) (p : ℕ) (l : List TmItem) : (s.setTodo p l).fn = s.fn := (rfl)
@[simp] theorem State.setTodo_mre (s : State) (p : ℕ) (l : List TmItem) : (s.setTodo p l).mre = s.mre := (rfl)
@[simp] theorem State.setTodo_gd (s : State) (p : ℕ) (l : List TmItem) : (s.setTodo p l).gd = s.gd := (rfl)
@[simp] theorem State.setTodo_sv (s : State) (p : ℕ) (l : List TmItem) : (s.setTodo p l).sv = s.sv := (rfl)
@[simp] theorem State.setTodo_pu (s : State) (p : ℕ) (l : List TmItem) : (s.setTodo p l).pu = s.pu := (rfl)
@[simp] theorem State.setTodo_pm (s : State) (p : ℕ) (l : List TmItem) : (s.setTodo p l).pm = s.pm := (rfl)
@[simp] theorem State.setTodo_ck (s : State) (p : ℕ) (l : List TmItem) : (s.setTodo p l).ck = s.ck := (rfl)
@[simp] theorem State.setTodo_free (s : State) (p : ℕ) (l : List TmItem) : (s.setTodo p l).free = s.free := (rfl)
@[simp] theorem State.setTodo_out (s : State) (p : ℕ) (l : List TmItem) : (s.setTodo p l).out = s.out := (rfl)
@[simp] theorem State.setTodo_reg (s : State) (p : ℕ) (l : List TmItem) (a_ : Nat) : (s.setTodo p l).reg a_ = s.reg a_ := (rfl)
@[simp] theorem State.setTodo_f (s : State) (p : ℕ) (l : List TmItem) (x_ : Fld) : (s.setTodo p l).f x_ = s.f x_ := (rfl)
@[simp] theorem State.setTodo_flag (s : State) (p : ℕ) (l : List TmItem) (x_ : Fld) : (s.setTodo p l).flag x_ = s.flag x_ := (rfl)

/-! ### setRootGroup -/

@[simp] theorem State.setRootGroup_pending (s : State) (g : ℕ) (bank : ℕ) (v : ℕ) : (s.setRootGroup g bank v).pending = s.pending := (rfl)
@[simp] theorem State.setRootGroup_time (s : State) (g : ℕ) (bank : ℕ) (v : ℕ) : (s.setRootGroup g bank v).time = s.time := (rfl)
@[simp] theorem State.setRootGroup_regs (s : State) (g : ℕ) (bank : ℕ) (v : ℕ) : (s.setRootGroup g bank v).regs = s.regs := (rfl)
@[simp] theorem State.setRootGroup_lx (s : State) (g : ℕ) (bank : ℕ) (v : ℕ) : (s.setRootGroup g bank v).lx = s.lx := (rfl)
@[simp] theorem State.setRootGroup_ts (s : State) (g : ℕ) (bank : ℕ) (v : ℕ) : (s.setRootGroup g bank v).ts = s.ts := (rfl)
@[simp] theorem State.setRootGroup_ebm (s : State) (g : ℕ) (bank : ℕ) (v : ℕ) : (s.setRootGroup g bank v).ebm = s.ebm := (rfl)
@[simp] theorem State.setRootGroup_bus (s : State) (g : ℕ) (bank : ℕ) (v : ℕ) : (s.setRootGroup g bank v).bus = s.bus := (rfl)
@[simp] theorem State.setRootGroup_qe (s : State) (g : ℕ) (bank : ℕ) (v : ℕ) : (s.setRootGroup g bank v).qe = s.qe := (rfl)
@[simp] theorem State.setRootGroup_bm (s : State) (g : ℕ) (bank : ℕ) (v : ℕ) : (s.setRootGroup g bank v).bm = s.bm := (rfl)
@[simp] theorem State.setRootGroup_xb (s : State) (g : ℕ) (bank : ℕ) (v : ℕ) : (s.setRootGroup g bank v).xb = s.xb := (rfl)
@[simp] theorem State.setRootGroup_fn (s : State) (g : ℕ) (bank : ℕ) (v : ℕ) : (s.setRootGroup g bank v).fn = s.fn := (rfl)
@[simp] theorem State.setRootGroup_mre (s : State) (g : ℕ) (bank : ℕ) (v : ℕ) : (s.setRootGroup g bank v).mre = s.mre := (rfl)
@[simp] theorem State.setRootGroup_gd (s : State) (g : ℕ) (bank : ℕ) (v : ℕ) : (s.setRootGroup g bank v).gd = s.gd := (rfl)
@[simp] theorem State.setRootGroup_sv (s : State) (g : ℕ) (bank : ℕ) (v : ℕ) : (s.setRootGroup g bank v).sv = s.sv := (rfl)
@[simp] theorem State.setRootGroup_pu (s : State) (g : ℕ) (bank : ℕ) (v : ℕ) : (s.setRootGroup g bank v).pu = s.pu := (rfl)
@[simp] theorem State.setRootGroup_pm (s : State) (g : ℕ) (bank : ℕ) (v : ℕ) : (s.setRootGroup g bank v).pm = s.pm := (rfl)
@[simp] theorem State.setRootGroup_ck (s : State) (g : ℕ) (bank : ℕ) (v : ℕ) : (s.setRootGroup g bank v).ck = s.ck := (rfl)
@[simp] theorem State.setRootGroup_free (s : State) (g : ℕ) (bank : ℕ) (v : ℕ) : (s.setRootGroup g bank v).free = s.free := (rfl)
@[simp] theorem State.setRootGroup_out (s : State) (g : ℕ) (bank : ℕ) (v : ℕ) : (s.setRootGroup g bank v).out = s.out := (rfl)
@[simp] theorem State.setRootGroup_reg (s : State) (g : ℕ) (bank : ℕ) (v : ℕ) (a_ : Nat) : (s.setRootGroup g bank v).reg a_ = s.reg a_ := (rfl)
@[simp] theorem State.setRootGroup_f (s : State) (g : ℕ) (bank : ℕ) (v : ℕ) (x_ : Fld) : (s.setRootGroup g bank v).f x_ = s.f x_ := (rfl)
@[simp] theorem State.setRootGroup_flag (s : State) (g : ℕ) (bank : ℕ) (v : ℕ) (x_ : Fld) : (s.setRootGroup g bank v).flag x_ = s.flag x_ := (rfl)

/-! ### setGroupSlot -/

@[simp] theorem State.setGroupSlot_pending (s : State) (g : ℕ) (r : GroupSlot) : (s.setGroupSlot g r).pending = s.pending := (rfl)
@[simp] theorem State.setGroupSlot_time (s : State) (g : ℕ) (r : GroupSlot) : (s.setGroupSlot g r).time = s.time := (rfl)
@[simp] theorem State.setGroupSlot_regs (s : State) (g : ℕ) (r : GroupSlot) : (s.setGroupSlot g r).regs = s.regs := (rfl)
@[simp] theorem State.setGroupSlot_lx (s : State) (g : ℕ) (r : GroupSlot) : (s.setGroupSlot g r).lx = s.lx := (rfl)
@[simp] theorem State.setGroupSlot_tree (s : State) (g : ℕ) (r : GroupSlot) : (s.setGroupSlot g r).tree = s.tree := (rfl)
@[simp] theorem State.setGroupSlot_ts (s : State) (g : ℕ) (r : GroupSlot) : (s.setGroupSlot g r).ts = s.ts := (rfl)
@[simp] theorem State.setGroupSlot_bus (s : State) (g : ℕ) (r : GroupSlot) : (s.setGroupSlot g r).bus = s.bus := (rfl)
@[simp] theorem State.setGroupSlot_qe (s : State) (g : ℕ) (r : GroupSlot) : (s.setGroupSlot g r).qe = s.qe := (rfl)
@[simp] theorem State.setGroupSlot_bm (s : State) (g : ℕ) (r : GroupSlot) : (s.setGroupSlot g r).bm = s.bm := (rfl)
@[simp] theorem State.setGroupSlot_xb (s : State) (g : ℕ) (r : GroupSlot) : (s.setGroupSlot g r).xb = s.xb := (rfl)
@[simp] theorem State.setGroupSlot_fn (s : State) (g : ℕ) (r : GroupSlot) : (s.setGroupSlot g r).fn = s.fn := (rfl)
@[simp] theorem State.setGroupSlot_mre (s : State) (g : ℕ) (r : GroupSlot) : (s.setGroupSlot g r).mre = s.mre := (rfl)
@[simp] theorem State.setGroupSlot_gd (s : State) (g : ℕ) (r : GroupSlot) : (s.setGroupSlot g r).gd = s.gd := (rfl)
@[simp] theorem State.setGroupSlot_sv (s : State) (g : ℕ) (r : GroupSlot) : (s.setGroupSlot g r).sv = s.sv := (rfl)
@[simp] theorem State.setGroupSlot_pu (s : State) (g : ℕ) (r : GroupSlot) : (s.setGroupSlot g r).pu = s.pu := (rfl)
@[simp] theorem State.setGroupSlot_pm (s : State) (g : ℕ) (r : GroupSlot) : (s.setGroupSlot g r).pm = s.pm := (rfl)
@[simp] theorem State.setGroupSlot_ck (s : State) (g : ℕ) (r : GroupSlot) : (s.setGroupSlot g r).ck = s.ck := (rfl)
@[simp] theorem State.setGroupSlot_free (s : State) (g : ℕ) (r : GroupSlot) : (s.setGroupSlot g r).free = s.free := (rfl)
@[simp] theorem State.setGroupSlot_out (s : State) (g : ℕ) (r : GroupSlot) : (s.setGroupSlot g r).out = s.out := (rfl)
@[simp] theorem State.setGroupSlot_reg (s : State) (g : ℕ) (r : GroupSlot) (a_ : Nat) : (s.setGroupSlot g r).reg a_ = s.reg a_ := (rfl)
@[simp] theorem State.setGroupSlot_f (s : State) (g : ℕ) (r : GroupSlot) (x_ : Fld) : (s.setGroupSlot g r).f x_ = s.f x_ := (rfl)
@[simp] theorem State.setGroupSlot_flag (s : State) (g : ℕ) (r : GroupSlot) (x_ : Fld) : (s.setGroupSlot g r).flag x_ = s.flag x_ := (rfl)

/-! ### ebmWrite -/

@[simp] theorem State.ebmWrite_pending (s : State) (a : ℕ) (b : List Byte) : (s.ebmWrite a b).pending = s.pending := (rfl)
@[simp] theorem State.ebmWrite_time (s : State) (a : ℕ) (b : List Byte) : (s.ebmWrite a b).time = s.time := (rfl)
@[simp] theorem State.ebmWrite_regs (s : State) (a : ℕ) (b : List Byte) : (s.ebmWrite a b).regs = s.regs := (rfl)
@[simp] theorem State.ebmWrite_lx (s : State) (a : ℕ) (b : List Byte) : (s.ebmWrite a b).lx = s.lx := (rfl)
@[simp] theorem State.ebmWrite_tree (s : State) (a : ℕ) (b : List Byte) : (s.ebmWrite a b).tree = s.tree := (rfl)
@[simp] theorem State.ebmWrite_ts (s : State) (a : ℕ) (b : List Byte) : (s.ebmWrite a b).ts = s.ts := (rfl)
@[simp] theorem State.ebmWrite_bus (s : State) (a : ℕ) (b : List Byte) : (s.ebmWrite a b).bus = s.bus := (rfl)
@[simp] theorem State.ebmWrite_qe (s : State) (a : ℕ) (b : List Byte) : (s.ebmWrite a b).qe = s.qe := (rfl)
@[simp] theorem State.ebmWrite_bm (s : State) (a : ℕ) (b : List Byte) : (s.ebmWrite a b).bm = s.bm := (rfl)
@[simp] theorem State.ebmWrite_xb (s : State) (a : ℕ) (b : List Byte) : (s.ebmWrite a b).xb = s.xb := (rfl)
@[simp] theorem State.ebmWrite_fn (s : State) (a : ℕ) (b : List Byte) : (s.ebmWrite a b).fn = s.fn := (rfl)
@[simp] theorem State.ebmWrite_mre (s : State) (a : ℕ) (b : List Byte) : (s.ebmWrite a b).mre = s.mre := (rfl)
@[simp] theorem State.ebmWrite_gd (s : State) (a : ℕ) (b : List Byte) : (s.ebmWrite a b).gd = s.gd := (rfl)
@[simp] theorem State.ebmWrite_sv (s : State) (a : ℕ) (b : List Byte) : (s.ebmWrite a b).sv = s.sv := (rfl)
@[simp] theorem State.ebmWrite_pu (s : State) (a : ℕ) (b : List Byte) : (s.ebmWrite a b).pu = s.pu := (rfl)
@[simp] theorem State.ebmWrite_pm (s : State) (a : ℕ) (b : List Byte) : (s.ebmWrite a b).pm = s.pm := (rfl)
@[simp] theorem State.ebmWrite_ck (s : State) (a : ℕ) (b : List Byte) : (s.ebmWrite a b).ck = s.ck := (rfl)
@[simp] theorem State.ebmWrite_free (s : State) (a : ℕ) (b : List Byte) : (s.ebmWrite a b).free = s.free := (rfl)
@[simp] theorem State.ebmWrite_out (s : State) (a : ℕ) (b : List Byte) : (s.ebmWrite a b).out = s.out := (rfl)
@[simp] theorem State.ebmWrite_reg (s : State) (a : ℕ) (b : List Byte) (a_ : Nat) : (s.ebmWrite a b).reg a_ = s.reg a_ := (rfl)
@[simp] theorem State.ebmWrite_f (s : State) (a : ℕ) (b : List Byte) (x_ : Fld) : (s.ebmWrite a b).f x_ = s.f x_ := (rfl)
@[simp] theorem State.ebmWrite_flag (s : State) (a : ℕ) (b : List Byte) (x_ : Fld) : (s.ebmWrite a b).flag x_ = s.flag x_ := (rfl)

/-! ### setChan -/

@[simp] theorem State.setChan_pending (s : State) (c : ℕ) (r : ChanRec) : (s.setChan c r).pending = s.pending := (rfl)
@[simp] theorem State.setChan_time (s : State) (c : ℕ) (r : ChanRec) : (s.setChan c r).time = s.time := (rfl)
@[simp] theorem State.setChan_regs (s : State) (c : ℕ) (r : ChanRec) : (s.setChan c r).regs = s.regs := (rfl)
@[simp] theorem State.setChan_lx (s : State) (c : ℕ) (r : ChanRec) : (s.setChan c r).lx = s.lx := (rfl)
@[simp] theorem State.setChan_tree (s : State) (c : ℕ) (r : ChanRec) : (s.setChan c r).tree = s.tree := (rfl)
@[simp] theorem State.setChan_ts (s : State) (c : ℕ) (r : ChanRec) : (s.setChan c r).ts = s.ts := (rfl)
@[simp] theorem State.setChan_ebm (s : State) (c : ℕ) (r : ChanRec) : (s.setChan c r).ebm = s.ebm := (rfl)
@[simp] theorem State.setChan_bus (s : State) (c : ℕ) (r : ChanRec) : (s.setChan c r).bus = s.bus := (rfl)
@[simp] theorem State.setChan_qe (s : State) (c : ℕ) (r : ChanRec) : (s.setChan c r).qe = s.qe := (rfl)
@[simp] theorem State.setChan_xb (s : State) (c : ℕ) (r : ChanRec) : (s.setChan c r).xb = s.xb := (rfl)
@[simp] theorem State.setChan_fn (s : State) (c : ℕ) (r : ChanRec) : (s.setChan c r).fn = s.fn := (rfl)
@[simp] theorem State.setChan_mre (s : State) (c : ℕ) (r : ChanRec) : (s.setChan c r).mre = s.mre := (rfl)
@[simp] theorem State.setChan_gd (s : State) (c : ℕ) (r : ChanRec) : (s.setChan c r).gd = s.gd := (rfl)
@[simp] theorem State.setChan_sv (s : State) (c : ℕ) (r : ChanRec) : (s.setChan c r).sv = s.sv := (rfl)
@[simp] theorem State.setChan_pu (s : State) (c : ℕ) (r : ChanRec) : (s.setChan c r).pu = s.pu := (rfl)
@[simp] theorem State.setChan_pm (s : State) (c : ℕ) (r : ChanRec) : (s.setChan c r).pm = s.pm := (rfl)
@[simp] theorem State.setChan_ck (s : State) (c : ℕ) (r : ChanRec) : (s.setChan c r).ck = s.ck := (rfl)
@[simp] theorem State.setChan_free (s : State) (c : ℕ) (r : ChanRec) : (s.setChan c r).free = s.free := (rfl)
@[simp] theorem State.setChan_out (s : State) (c : ℕ) (r : ChanRec) : (s.setChan c r).out = s.out := (rfl)
@[simp] theorem State.setChan_reg (s : State) (c : ℕ) (r : ChanRec) (a_ : Nat) : (s.setChan c r).reg a_ = s.reg a_ := (rfl)
@[simp] theorem State.setChan_f (s : State) (c : ℕ) (r : ChanRec) (x_ : Fld) : (s.setChan c r).f x_ = s.f x_ := (rfl)
@[simp] theorem State.setChan_flag (s : State) (c : ℕ) (r : ChanRec) (x_ : Fld) : (s.setChan c r).flag x_ = s.flag x_ := (rfl)

/-! ### setGen -/

@[simp] theorem State.setGen_pending (s : State) (g : ℕ) (r : GenSt) : (s.setGen g r).pending = s.pending := (rfl)
@[simp] theorem State.setGen_time (s : State) (g : ℕ) (r : GenSt) : (s.setGen g r).time = s.time := (rfl)
@[simp] theorem State.setGen_regs (s : State) (g : ℕ) (r : GenSt) : (s.setGen g r).regs = s.regs := (rfl)
@[simp] theorem State.setGen_lx (s : State) (g : ℕ) (r : GenSt) : (s.setGen g r).lx = s.lx := (rfl)
@[simp] theorem State.setGen_tree (s : State) (g : ℕ) (r : GenSt) : (s.setGen g r).tree = s.tree := (rfl)
@[simp] theorem State.setGen_ts (s : State) (g : ℕ) (r : GenSt) : (s.setGen g r).ts = s.ts := (rfl)
@[simp] theorem State.setGen_ebm (s : State) (g : ℕ) (r : GenSt) : (s.setGen g r).ebm = s.ebm := (rfl)
@[simp] theorem State.setGen_bus (s : State) (g : ℕ) (r : GenSt) : (s.setGen g r).bus = s.bus := (rfl)
@[simp] theorem State.setGen_qe (s : State) (g : ℕ) (r : GenSt) : (s.setGen g r).qe = s.qe := (rfl)
@[simp] theorem State.setGen_bm (s : State) (g : ℕ) (r : GenSt) : (s.setGen g r).bm = s.bm := (rfl)
@[simp] theorem State.setGen_xb (s : State) (g : ℕ) (r : GenSt) : (s.setGen g r).xb = s.xb := (rfl)
@[simp] theorem State.setGen_fn (s : State) (g : ℕ) (r : GenSt) : (s.setGen g r).fn = s.fn := (rfl)
@[simp] theorem State.setGen_gd (s : State) (g : ℕ) (r : GenSt) : (s.setGen g r).gd = s.gd := (rfl)
@[simp] theorem State.setGen_sv (s : State) (g : ℕ) (r : GenSt) : (s.setGen g r).sv = s.sv := (rfl)
@[simp] theorem State.setGen_pu (s : State) (g : ℕ) (r : GenSt) : (s.setGen g r).pu = s.pu := (rfl)
@[simp] theorem State.setGen_pm (s : State) (g : ℕ) (r : GenSt) : (s.setGen g r).pm = s.pm := (rfl)
@[simp] theorem State.setGen_ck (s : State) (g : ℕ) (r : GenSt) : (s.setGen g r).ck = s.ck := (rfl)
@[simp] theorem State.setGen_free (s : State) (g : ℕ) (r : GenSt) : (s.setGen g r).free = s.free := (rfl)
@[simp] theorem State.setGen_out (s : State) (g : ℕ) (r : GenSt) : (s.setGen g r).out = s.out := (rfl)
@[simp] theorem State.setGen_reg (s : State) (g : ℕ) (r : GenSt) (a_ : Nat) : (s.setGen g r).reg a_ = s.reg a_ := (rfl)
@[simp] theorem State.setGen_f (s : State) (g : ℕ) (r : GenSt) (x_ : Fld) : (s.setGen g r).f x_ = s.f x_ := (rfl)
@[simp] theorem State.setGen_flag (s : State) (g : ℕ) (r : GenSt) (x_ : Fld) : (s.setGen g r).flag x_ = s.flag x_ := (rfl)

/-! ### setTap -/

@[simp] theorem State.setTap_pending (s : State) (t : ℕ) (r : TapSt) : (s.setTap t r).pending = s.pending := (rfl)
@[simp] theorem State.setTap_time (s : State) (t : ℕ) (r : TapSt) : (s.setTap t r).time = s.time := (rfl)
@[simp] theorem State.setTap_regs (s : State) (t : ℕ) (r : TapSt) : (s.setTap t r).regs = s.regs := (rfl)
@[simp] theorem State.setTap_lx (s : State) (t : ℕ) (r : TapSt) : (s.setTap t r).lx = s.lx := (rfl)
@[simp] theorem State.setTap_tree (s : State) (t : ℕ) (r : TapSt) : (s.setTap t r).tree = s.tree := (rfl)
@[simp] theorem State.setTap_ts (s : State) (t : ℕ) (r : TapSt) : (s.setTap t r).ts = s.ts := (rfl)
@[simp] theorem State.setTap_ebm (s : State) (t : ℕ) (r : TapSt) : (s.setTap t r).ebm = s.ebm := (rfl)
@[simp] theorem State.setTap_bus (s : State) (t : ℕ) (r : TapSt) : (s.setTap t r).bus = s.bus := (rfl)
@[simp] theorem State.setTap_qe (s : State) (t : ℕ) (r : TapSt) : (s.setTap t r).qe = s.qe := (rfl)
@[simp] theorem State.setTap_bm (s : State) (t : ℕ) (r : TapSt) : (s.setTap t r).bm = s.bm := (rfl)
@[simp] theorem State.setTap_xb (s : State) (t : ℕ) (r : TapSt) : (s.setTap t r).xb = s.xb := (rfl)
@[simp] theorem State.setTap_fn (s : State) (t : ℕ) (r : TapSt) : (s.setTap t r).fn = s.fn := (rfl)
@[simp] theorem State.setTap_gd (s : State) (t : ℕ) (r : TapSt) : (s.setTap t r).gd = s.gd := (rfl)
@[simp] theorem State.setTap_sv (s : State) (t : ℕ) (r : TapSt) : (s.setTap t r).sv = s.sv := (rfl)
@[simp] theorem State.setTap_pu (s : State) (t : ℕ) (r : TapSt) : (s.setTap t r).pu = s.pu := (rfl)
@[simp] theorem State.setTap_pm (s : State) (t : ℕ) (r : TapSt) : (s.setTap t r).pm = s.pm := (rfl)
@[simp] theorem State.setTap_ck (s : State) (t : ℕ) (r : TapSt) : (s.setTap t r).ck = s.ck := (rfl)
@[simp] theorem State.setTap_free (s : State) (t : ℕ) (r : TapSt) : (s.setTap t r).free = s.free := (rfl)
@[simp] theorem State.setTap_out (s : State) (t : ℕ) (r : TapSt) : (s.setTap t r).out = s.out := (rfl)
@[simp] theorem State.setTap_reg (s : State) (t : ℕ) (r : TapSt) (a_ : Nat) : (s.setTap t r).reg a_ = s.reg a_ := (rfl)
@[simp] theorem State.setTap_f (s : State) (t : ℕ) (r : TapSt) (x_ : Fld) : (s.setTap t r).f x_ = s.f x_ := (rfl)
@[simp] theorem State.setTap_flag (s : State) (t : ℕ) (r : TapSt) (x_ : Fld) : (s.setTap t r).flag x_ = s.flag x_ := (rfl)

/-! ### setNodeSt -/

@[simp] theorem State.setNodeSt_pending (s : State) (n : ℕ) (r : NodeSt) : (s.setNodeSt n r).pending = s.pending := (rfl)
@[simp] theorem State.setNodeSt_time (s : State) (n : ℕ) (r : NodeSt) : (s.setNodeSt n r).time = s.time := (rfl)
@[simp] theorem State.setNodeSt_regs (s : State) (n : ℕ) (r : NodeSt) : (s.setNodeSt n r).regs = s.regs := (rfl)
@[simp] theorem State.setNodeSt_lx (s : State) (n : ℕ) (r : NodeSt) : (s.setNodeSt n r).lx = s.lx := (rfl)
@[simp] theorem State.setNodeSt_tree (s : State) (n : ℕ) (r : NodeSt) : (s.setNodeSt n r).tree = s.tree := (rfl)
@[simp] theorem State.setNodeSt_ts (s : State) (n : ℕ) (r : NodeSt) : (s.setNodeSt n r).ts = s.ts := (rfl)
@[simp] theorem State.setNodeSt_ebm (s : State) (n : ℕ) (r : NodeSt) : (s.setNodeSt n r).ebm = s.ebm := (rfl)
@[simp] theorem State.setNodeSt_bus (s : State) (n : ℕ) (r : NodeSt) : (s.setNodeSt n r).bus = s.bus := (rfl)
@[simp] theorem State.setNodeSt_qe (s : State) (n : ℕ) (r : NodeSt) : (s.setNodeSt n r).qe = s.qe := (rfl)
@[simp] theorem State.setNodeSt_bm (s : State) (n : ℕ) (r : NodeSt) : (s.setNodeSt n r).bm = s.bm := (rfl)
@[simp] theorem State.setNodeSt_xb (s : State) (n : ℕ) (r : NodeSt) : (s.setNodeSt n r).xb = s.xb := (rfl)
@[simp] theorem State.setNodeSt_fn (s : State) (n : ℕ) (r : NodeSt) : (s.setNodeSt n r).fn = s.fn := (rfl)
@[simp] theorem State.setNodeSt_gd (s : State) (n : ℕ) (r : NodeSt) : (s.setNodeSt n r).gd = s.gd := (rfl)
@[simp] theorem State.setNodeSt_sv (s : State) (n : ℕ) (r : NodeSt) : (s.setNodeSt n r).sv = s.sv := (rfl)
@[simp] theorem State.setNodeSt_pu (s : State) (n : ℕ) (r : NodeSt) : (s.setNodeSt n r).pu = s.pu := (rfl)
@[simp] theorem State.setNodeSt_pm (s : State) (n : ℕ) (r : NodeSt) : (s.setNodeSt n r).pm = s.pm := (rfl)
@[simp] theorem State.setNodeSt_ck (s : State) (n : ℕ) (r : NodeSt) : (s.setNodeSt n r).ck = s.ck := (rfl)
@[simp] theorem State.setNodeSt_free (s : State) (n : ℕ) (r : NodeSt) : (s.setNodeSt n r).free = s.free := (rfl)
@[simp] theorem State.setNodeSt_out (s : State) (n : ℕ) (r : NodeSt) : (s.setNodeSt n r).out = s.out := (rfl)
@[simp] theorem State.setNodeSt_reg (s : State) (n : ℕ) (r : NodeSt) (a_ : Nat) : (s.setNodeSt n r).reg a_ = s.reg a_ := (rfl)
@[simp] theorem State.setNodeSt_f (s : State) (n : ℕ) (r : NodeSt) (x_ : Fld) : (s.setNodeSt n r).f x_ = s.f x_ := (rfl)
@[simp] theorem State.setNodeSt_flag (s : State) (n : ℕ) (r : NodeSt) (x_ : Fld) : (s.setNodeSt n r).flag x_ = s.flag x_ := (rfl)

/-! ### setNext -/

@[simp] theorem State.setNext_pending (s : State) (n : ℕ) (p : ℕ) : (s.setNext n p).pending = s.pending := (rfl)
@[simp] theorem State.setNext_time (s : State) (n : ℕ) (p : ℕ) : (s.setNext n p).time = s.time := (rfl)
@[simp] theorem State.setNext_regs (s : State) (n : ℕ) (p : ℕ) : (s.setNext n p).regs = s.regs := (rfl)
@[simp] theorem State.setNext_lx (s : State) (n : ℕ) (p : ℕ) : (s.setNext n p).lx = s.lx := (rfl)
@[simp] theorem State.setNext_tree (s : State) (n : ℕ) (p : ℕ) : (s.setNext n p).tree = s.tree := (rfl)
@[simp] theorem State.setNext_ts (s : State) (n : ℕ) (p : ℕ) : (s.setNext n p).ts = s.ts := (rfl)
@[simp] theorem State.setNext_ebm (s : State) (n : ℕ) (p : ℕ) : (s.setNext n p).ebm = s.ebm := (rfl)
@[simp] theorem State.setNext_bus (s : State) (n : ℕ) (p : ℕ) : (s.setNext n p).bus = s.bus := (rfl)
@[simp] theorem State.setNext_qe (s : State) (n : ℕ) (p : ℕ) : (s.setNext n p).qe = s.qe := (rfl)
@[simp] theorem State.setNext_bm (s : State) (n : ℕ) (p : ℕ) : (s.setNext n p).bm = s.bm := (rfl)
@[simp] theorem State.setNext_xb (s : State) (n : ℕ) (p : ℕ) : (s.setNext n p).xb = s.xb := (rfl)
@[simp] theorem State.setNext_fn (s : State) (n : ℕ) (p : ℕ) : (s.setNext n p).fn = s.fn := (rfl)
@[simp] theorem State.setNext_mre (s : State) (n : ℕ) (p : ℕ) : (s.setNext n p).mre = s.mre := (rfl)
@[simp] theorem State.setNext_sv (s : State) (n : ℕ) (p : ℕ) : (s.setNext n p).sv = s.sv := (rfl)
@[simp] theorem State.setNext_pu (s : State) (n : ℕ) (p : ℕ) : (s.setNext n p).pu = s.pu := (rfl)
@[simp] theorem State.setNext_pm (s : State) (n : ℕ) (p : ℕ) : (s.setNext n p).pm = s.pm := (rfl)
@[simp] theorem State.setNext_ck (s : State) (n : ℕ) (p : ℕ) : (s.setNext n p).ck = s.ck := (rfl)
@[simp] theorem State.setNext_free (s : State) (n : ℕ) (p : ℕ) : (s.setNext n p).free = s.free := (rfl)
@[simp] theorem State.setNext_out (s : State) (n : ℕ) (p : ℕ) : (s.setNext n p).out = s.out := (rfl)
@[simp] theorem State.setNext_reg (s : State) (n : ℕ) (p : ℕ) (a_ : Nat) : (s.setNext n p).reg a_ = s.reg a_ := (rfl)
@[simp] theorem State.setNext_f (s : State) (n : ℕ) (p : ℕ) (x_ : Fld) : (s.setNext n p).f x_ = s.f x_ := (rfl)
@[simp] theorem State.setNext_flag (s : State) (n : ℕ) (p : ℕ) (x_ : Fld) : (s.setNext n p).flag x_ = s.flag x_ := (rfl)

/-! ### setStreams -/

@[simp] theorem State.setStreams_pending (s : State) (n : ℕ) (l : List Stream) : (s.setStreams n l).pending = s.pending := (rfl)
@[simp] theorem State.setStreams_time (s : State) (n : ℕ) (l : List Stream) : (s.setStreams n l).time = s.time := (rfl)
@[simp] theorem State.setStreams_regs (s : State) (n : ℕ) (l : List Stream) : (s.setStreams n l).regs = s.regs := (rfl)
@[simp] theorem State.setStreams_lx (s : State) (n : ℕ) (l : List Stream) : (s.setStreams n l).lx = s.lx := (rfl)
@[simp] theorem State.setStreams_tree (s : State) (n : ℕ) (l : List Stream) : (s.setStreams n l).tree = s.tree := (rfl)
@[simp] theorem State.setStreams_ts (s : State) (n : ℕ) (l : List Stream) : (s.setStreams n l).ts = s.ts := (rfl)
@[simp] theorem State.setStreams_ebm (s : State) (n : ℕ) (l : List Stream) : (s.setStreams n l).ebm = s.ebm := (rfl)
@[simp] theorem State.setStreams_bus (s : State) (n : ℕ) (l : List Stream) : (s.setStreams n l).bus = s.bus := (rfl)
@[simp] theorem State.setStreams_qe (s : State) (n : ℕ) (l : List Stream) : (s.setStreams n l).qe = s.qe := (rfl)
@[simp] theorem State.setStreams_bm (s : State) (n : ℕ) (l : List Stream) : (s.setStreams n l).bm = s.bm := (rfl)
@[simp] theorem State.setStreams_xb (s : State) (n : ℕ) (l : List Stream) : (s.setStreams n l).xb = s.xb := (rfl)
@[simp] theorem State.setStreams_fn (s : State) (n : ℕ) (l : List Stream) : (s.setStreams n l).fn = s.fn := (rfl)
@[simp] theorem State.setStreams_gd (s : State) (n : ℕ) (l : List Stream) : (s.setStreams n l).gd = s.gd := (rfl)
@[simp] theorem State.setStreams_sv (s : State) (n : ℕ) (l : List Stream) : (s.setStreams n l).sv = s.sv := (rfl)
@[simp] theorem State.setStreams_pu (s : State) (n : ℕ) (l : List Stream) : (s.setStreams n l).pu = s.pu := (rfl)
@[simp] theorem State.setStreams_pm (s : State) (n : ℕ) (l : List Stream) : (s.setStreams n l).pm = s.pm := (rfl)
@[simp] theorem State.setStreams_ck (s : State) (n : ℕ) (l : List Stream) : (s.setStreams n l).ck = s.ck := (rfl)
@[simp] theorem State.setStreams_free (s : State) (n : ℕ) (l : List Stream) : (s.setStreams n l).free = s.free := (rfl)
@[simp] theorem State.setStreams_out (s : State) (n : ℕ) (l : List Stream) : (s.setStreams n l).out = s.out := (rfl)
@[simp] theorem State.setStreams_reg (s : State) (n : ℕ) (l : List Stream) (a_ : Nat) : (s.setStreams n l).reg a_ = s.reg a_ := (rfl)
@[simp] theorem State.setStreams_f (s : State) (n : ℕ) (l : List Stream) (x_ : Fld) : (s.setStreams n l).f x_ = s.f x_ := (rfl)
@[simp] theorem State.setStreams_flag (s : State) (n : ℕ) (l : List Stream) (x_ : Fld) : (s.setStreams n l).flag x_ = s.flag x_ := (rfl)

/-! ### setRun -/

@[simp] theorem State.setRun_pending (s : State) (g : ℕ) (r : Option RunRec) : (s.setRun g r).pending = s.pending := (rfl)
@[simp] theorem State.setRun_time (s : State) (g : ℕ) (r : Option RunRec) : (s.setRun g r).time = s.time := (rfl)
@[simp] theorem State.setRun_regs (s : State) (g : ℕ) (r : Option RunRec) : (s.setRun g r).regs = s.regs := (rfl)
@[simp] theorem State.setRun_lx (s : State) (g : ℕ) (r : Option RunRec) : (s.setRun g r).lx = s.lx := (rfl)
@[simp] theorem State.setRun_tree (s : State) (g : ℕ) (r : Option RunRec) : (s.setRun g r).tree = s.tree := (rfl)
@[simp] theorem State.setRun_ts (s : State) (g : ℕ) (r : Option RunRec) : (s.setRun g r).ts = s.ts := (rfl)
@[simp] theorem State.setRun_ebm (s : State) (g : ℕ) (r : Option RunRec) : (s.setRun g r).ebm = s.ebm := (rfl)
@[simp] theorem State.setRun_bus (s : State) (g : ℕ) (r : Option RunRec) : (s.setRun g r).bus = s.bus := (rfl)
@[simp] theorem State.setRun_qe (s : State) (g : ℕ) (r : Option RunRec) : (s.setRun g r).qe = s.qe := (rfl)
@[simp] theorem State.setRun_bm (s : State) (g : ℕ) (r : Option RunRec) : (s.setRun g r).bm = s.bm := (rfl)
@[simp] theorem State.setRun_xb (s : State) (g : ℕ) (r : Option RunRec) : (s.setRun g r).xb = s.xb := (rfl)
@[simp] theorem State.setRun_fn (s : State) (g : ℕ) (r : Option RunRec) : (s.setRun g r).fn = s.fn := (rfl)
@[simp] theorem State.setRun_mre (s : State) (g : ℕ) (r : Option RunRec) : (s.setRun g r).mre = s.mre := (rfl)
@[simp] theorem State.setRun_sv (s : State) (g : ℕ) (r : Option RunRec) : (s.setRun g r).sv = s.sv := (rfl)
@[simp] theorem State.setRun_pu (s : State) (g : ℕ) (r : Option RunRec) : (s.setRun g r).pu = s.pu := (rfl)
@[simp] theorem State.setRun_pm (s : State) (g : ℕ) (r : Option RunRec) : (s.setRun g r).pm = s.pm := (rfl)
@[simp] theorem State.setRun_ck (s : State) (g : ℕ) (r : Option RunRec) : (s.setRun g r).ck = s.ck := (rfl)
@[simp] theorem State.setRun_free (s : State) (g : ℕ) (r : Option RunRec) : (s.setRun g r).free = s.free := (rfl)
@[simp] theorem State.setRun_out (s : State) (g : ℕ) (r : Option RunRec) : (s.setRun g r).out = s.out := (rfl)
@[simp] theorem State.setRun_reg (s : State) (g : ℕ) (r : Option RunRec) (a_ : Nat) : (s.setRun g r).reg a_ = s.reg a_ := (rfl)
@[simp] theorem State.setRun_f (s : State) (g : ℕ) (r : Option RunRec) (x_ : Fld) : (s.setRun g r).f x_ = s.f x_ := (rfl)
@[simp] theorem State.setRun_flag (s : State) (g : ℕ) (r : Option RunRec) (x_ : Fld) : (s.setRun g r).flag x_ = s.flag x_ := (rfl)

/-! ### setFlow -/

@[simp] theorem State.setFlow_pending (s : State) (f : ℕ) (l : List RelRec) : (s.setFlow f l).pending = s.pending := (rfl)
@[simp] theorem State.setFlow_time (s : State) (f : ℕ) (l : List RelRec) : (s.setFlow f l).time = s.time := (rfl)
@[simp] theorem State.setFlow_regs (s : State) (f : ℕ) (l : List RelRec) : (s.setFlow f l).regs = s.regs := (rfl)
@[simp] theorem State.setFlow_lx (s : State) (f : ℕ) (l : List RelRec) : (s.setFlow f l).lx = s.lx := (rfl)
@[simp] theorem State.setFlow_tree (s : State) (f : ℕ) (l : List RelRec) : (s.setFlow f l).tree = s.tree := (rfl)
@[simp] theorem State.setFlow_ts (s : State) (f : ℕ) (l : List RelRec) : (s.setFlow f l).ts = s.ts := (rfl)
@[simp] theorem State.setFlow_ebm (s : State) (f : ℕ) (l : List RelRec) : (s.setFlow f l).ebm = s.ebm := (rfl)
@[simp] theorem State.setFlow_bus (s : State) (f : ℕ) (l : List RelRec) : (s.setFlow f l).bus = s.bus := (rfl)
@[simp] theorem State.setFlow_qe (s : State) (f : ℕ) (l : List RelRec) : (s.setFlow f l).qe = s.qe := (rfl)
@[simp] theorem State.setFlow_bm (s : State) (f : ℕ) (l : List RelRec) : (s.setFlow f l).bm = s.bm := (rfl)
@[simp] theorem State.setFlow_xb (s : State) (f : ℕ) (l : List RelRec) : (s.setFlow f l).xb = s.xb := (rfl)
@[simp] theorem State.setFlow_fn (s : State) (f : ℕ) (l : List RelRec) : (s.setFlow f l).fn = s.fn := (rfl)
@[simp] theorem State.setFlow_mre (s : State) (f : ℕ) (l : List RelRec) : (s.setFlow f l).mre = s.mre := (rfl)
@[simp] theorem State.setFlow_sv (s : State) (f : ℕ) (l : List RelRec) : (s.setFlow f l).sv = s.sv := (rfl)
@[simp] theorem State.setFlow_pu (s : State) (f : ℕ) (l : List RelRec) : (s.setFlow f l).pu = s.pu := (rfl)
@[simp] theorem State.setFlow_pm (s : State) (f : ℕ) (l : List RelRec) : (s.setFlow f l).pm = s.pm := (rfl)
@[simp] theorem State.setFlow_ck (s : State) (f : ℕ) (l : List RelRec) : (s.setFlow f l).ck = s.ck := (rfl)
@[simp] theorem State.setFlow_free (s : State) (f : ℕ) (l : List RelRec) : (s.setFlow f l).free = s.free := (rfl)
@[simp] theorem State.setFlow_out (s : State) (f : ℕ) (l : List RelRec) : (s.setFlow f l).out = s.out := (rfl)
@[simp] theorem State.setFlow_reg (s : State) (f : ℕ) (l : List RelRec) (a_ : Nat) : (s.setFlow f l).reg a_ = s.reg a_ := (rfl)
@[simp] theorem State.setFlow_f (s : State) (f : ℕ) (l : List RelRec) (x_ : Fld) : (s.setFlow f l).f x_ = s.f x_ := (rfl)
@[simp] theorem State.setFlow_flag (s : State) (f : ℕ) (l : List RelRec) (x_ : Fld) : (s.setFlow f l).flag x_ = s.flag x_ := (rfl)

/-! ### obsUpd -/

@[simp] theorem State.obsUpd_pending (s : State) (g : ObsWin → ObsWin) : (s.obsUpd g).pending = s.pending := (rfl)
@[simp] theorem State.obsUpd_time (s : State) (g : ObsWin → ObsWin) : (s.obsUpd g).time = s.time := (rfl)
@[simp] theorem State.obsUpd_regs (s : State) (g : ObsWin → ObsWin) : (s.obsUpd g).regs = s.regs := (rfl)
@[simp] theorem State.obsUpd_lx (s : State) (g : ObsWin → ObsWin) : (s.obsUpd g).lx = s.lx := (rfl)
@[simp] theorem State.obsUpd_tree (s : State) (g : ObsWin → ObsWin) : (s.obsUpd g).tree = s.tree := (rfl)
@[simp] theorem State.obsUpd_ts (s : State) (g : ObsWin → ObsWin) : (s.obsUpd g).ts = s.ts := (rfl)
@[simp] theorem State.obsUpd_ebm (s : State) (g : ObsWin → ObsWin) : (s.obsUpd g).ebm = s.ebm := (rfl)
@[simp] theorem State.obsUpd_bus (s : State) (g : ObsWin → ObsWin) : (s.obsUpd g).bus = s.bus := (rfl)
@[simp] theorem State.obsUpd_qe (s : State) (g : ObsWin → ObsWin) : (s.obsUpd g).qe = s.qe := (rfl)
@[simp] theorem State.obsUpd_bm (s : State) (g : ObsWin → ObsWin) : (s.obsUpd g).bm = s.bm := (rfl)
@[simp] theorem State.obsUpd_xb (s : State) (g : ObsWin → ObsWin) : (s.obsUpd g).xb = s.xb := (rfl)
@[simp] theorem State.obsUpd_fn (s : State) (g : ObsWin → ObsWin) : (s.obsUpd g).fn = s.fn := (rfl)
@[simp] theorem State.obsUpd_mre (s : State) (g : ObsWin → ObsWin) : (s.obsUpd g).mre = s.mre := (rfl)
@[simp] theorem State.obsUpd_sv (s : State) (g : ObsWin → ObsWin) : (s.obsUpd g).sv = s.sv := (rfl)
@[simp] theorem State.obsUpd_pu (s : State) (g : ObsWin → ObsWin) : (s.obsUpd g).pu = s.pu := (rfl)
@[simp] theorem State.obsUpd_pm (s : State) (g : ObsWin → ObsWin) : (s.obsUpd g).pm = s.pm := (rfl)
@[simp] theorem State.obsUpd_ck (s : State) (g : ObsWin → ObsWin) : (s.obsUpd g).ck = s.ck := (rfl)
@[simp] theorem State.obsUpd_free (s : State) (g : ObsWin → ObsWin) : (s.obsUpd g).free = s.free := (rfl)
@[simp] theorem State.obsUpd_out (s : State) (g : ObsWin → ObsWin) : (s.obsUpd g).out = s.out := (rfl)
@[simp] theorem State.obsUpd_reg (s : State) (g : ObsWin → ObsWin) (a_ : Nat) : (s.obsUpd g).reg a_ = s.reg a_ := (rfl)
@[simp] theorem State.obsUpd_f (s : State) (g : ObsWin → ObsWin) (x_ : Fld) : (s.obsUpd g).f x_ = s.f x_ := (rfl)
@[simp] theorem State.obsUpd_flag (s : State) (g : ObsWin → ObsWin) (x_ : Fld) : (s.obsUpd g).flag x_ = s.flag x_ := (rfl)

/-! ### setLine -/

@[simp] theorem State.setLine_pending (s : State) (l : ℕ) (r : LineRec) : (s.setLine l r).pending = s.pending := (rfl)
@[simp] theorem State.setLine_time (s : State) (l : ℕ) (r : LineRec) : (s.setLine l r).time = s.time := (rfl)
@[simp] theorem State.setLine_regs (s : State) (l : ℕ) (r : LineRec) : (s.setLine l r).regs = s.regs := (rfl)
@[simp] theorem State.setLine_lx (s : State) (l : ℕ) (r : LineRec) : (s.setLine l r).lx = s.lx := (rfl)
@[simp] theorem State.setLine_tree (s : State) (l : ℕ) (r : LineRec) : (s.setLine l r).tree = s.tree := (rfl)
@[simp] theorem State.setLine_ts (s : State) (l : ℕ) (r : LineRec) : (s.setLine l r).ts = s.ts := (rfl)
@[simp] theorem State.setLine_ebm (s : State) (l : ℕ) (r : LineRec) : (s.setLine l r).ebm = s.ebm := (rfl)
@[simp] theorem State.setLine_bus (s : State) (l : ℕ) (r : LineRec) : (s.setLine l r).bus = s.bus := (rfl)
@[simp] theorem State.setLine_qe (s : State) (l : ℕ) (r : LineRec) : (s.setLine l r).qe = s.qe := (rfl)
@[simp] theorem State.setLine_bm (s : State) (l : ℕ) (r : LineRec) : (s.setLine l r).bm = s.bm := (rfl)
@[simp] theorem State.setLine_xb (s : State) (l : ℕ) (r : LineRec) : (s.setLine l r).xb = s.xb := (rfl)
@[simp] theorem State.setLine_fn (s : State) (l : ℕ) (r : LineRec) : (s.setLine l r).fn = s.fn := (rfl)
@[simp] theorem State.setLine_mre (s : State) (l : ℕ) (r : LineRec) : (s.setLine l r).mre = s.mre := (rfl)
@[simp] theorem State.setLine_gd (s : State) (l : ℕ) (r : LineRec) : (s.setLine l r).gd = s.gd := (rfl)
@[simp] theorem State.setLine_pu (s : State) (l : ℕ) (r : LineRec) : (s.setLine l r).pu = s.pu := (rfl)
@[simp] theorem State.setLine_pm (s : State) (l : ℕ) (r : LineRec) : (s.setLine l r).pm = s.pm := (rfl)
@[simp] theorem State.setLine_ck (s : State) (l : ℕ) (r : LineRec) : (s.setLine l r).ck = s.ck := (rfl)
@[simp] theorem State.setLine_free (s : State) (l : ℕ) (r : LineRec) : (s.setLine l r).free = s.free := (rfl)
@[simp] theorem State.setLine_out (s : State) (l : ℕ) (r : LineRec) : (s.setLine l r).out = s.out := (rfl)
@[simp] theorem State.setLine_reg (s : State) (l : ℕ) (r : LineRec) (a_ : Nat) : (s.setLine l r).reg a_ = s.reg a_ := (rfl)
@[simp] theorem State.setLine_f (s : State) (l : ℕ) (r : LineRec) (x_ : Fld) : (s.setLine l r).f x_ = s.f x_ := (rfl)
@[simp] theorem State.setLine_flag (s : State) (l : ℕ) (r : LineRec) (x_ : Fld) : (s.setLine l r).flag x_ = s.flag x_ := (rfl)
/-! ## Bits of a word -/

/-- A field of at most 32 bits reads back what was put into it, modulo its size. -/
theorem bits_putBits (w : Word) (lo n v : Nat) (h : lo + n ≤ 32) : bits (putBits w lo n v) lo n = v % 2 ^ n := by
  have hw := w.isLt
  have e : 2 ^ (lo + n) = 2 ^ lo * 2 ^ n := Nat.pow_add 2 lo n
  have e32 : 2 ^ 32 = 2 ^ (lo + n) * 2 ^ (32 - (lo + n)) := by rw [← Nat.pow_add]; congr 1; omega
  have hp : 0 < 2 ^ lo := Nat.two_pow_pos lo
  have hq : 0 < 2 ^ n := Nat.two_pow_pos n
  have hr : 0 < 2 ^ (lo + n) := Nat.two_pow_pos _
  have h1 : w.toNat % 2 ^ lo < 2 ^ lo := Nat.mod_lt _ hp
  have h2 : v % 2 ^ n < 2 ^ n := Nat.mod_lt _ hq
  have h4 : w.toNat / 2 ^ (lo + n) * 2 ^ (lo + n) + 2 ^ (lo + n) ≤ 2 ^ 32 := by
    have : w.toNat / 2 ^ (lo + n) < 2 ^ (32 - (lo + n)) := Nat.div_lt_of_lt_mul (by rw [← e32]; exact hw)
    calc _ = (w.toNat / 2 ^ (lo + n) + 1) * 2 ^ (lo + n) := by ring
      _ ≤ 2 ^ (32 - (lo + n)) * 2 ^ (lo + n) := Nat.mul_le_mul_right _ this
      _ = 2 ^ 32 := by rw [e32]; ring
  have h5 : v % 2 ^ n * 2 ^ lo + 2 ^ lo ≤ 2 ^ (lo + n) := by
    calc _ = (v % 2 ^ n + 1) * 2 ^ lo := by ring
      _ ≤ 2 ^ n * 2 ^ lo := Nat.mul_le_mul_right _ h2
      _ = _ := by rw [e]; ring
  have hlt : w.toNat % 2 ^ lo + v % 2 ^ n * 2 ^ lo + w.toNat / 2 ^ (lo + n) * 2 ^ (lo + n) < 2 ^ 32 := by omega
  unfold bits putBits
  rw [BitVec.toNat_ofNat, Nat.mod_eq_of_lt hlt]
  have : w.toNat % 2 ^ lo + v % 2 ^ n * 2 ^ lo + w.toNat / 2 ^ (lo + n) * 2 ^ (lo + n)
      = w.toNat % 2 ^ lo + 2 ^ lo * (v % 2 ^ n + 2 ^ n * (w.toNat / 2 ^ (lo + n))) := by rw [e]; ring
  rw [this, Nat.add_mul_div_left _ _ hp, Nat.div_eq_of_lt h1, Nat.zero_add, Nat.add_mul_mod_self_left, Nat.mod_mod]

/-- Bit `i` of a word with a field replaced. -/
theorem testBit_putBits (w : Word) (lo n v i : Nat) (h : lo + n ≤ 32) (hi : i < lo ∨ lo + n ≤ i) :
    (putBits w lo n v).toNat.testBit i = w.toNat.testBit i := by
  have hw := w.isLt
  have hp : 0 < 2 ^ lo := Nat.two_pow_pos lo
  have h1 : w.toNat % 2 ^ lo < 2 ^ lo := Nat.mod_lt _ hp
  have h2 : v % 2 ^ n < 2 ^ n := Nat.mod_lt _ (Nat.two_pow_pos n)
  have e : 2 ^ (lo + n) = 2 ^ lo * 2 ^ n := Nat.pow_add 2 lo n
  have h5 : w.toNat % 2 ^ lo + v % 2 ^ n * 2 ^ lo < 2 ^ (lo + n) := by
    have : (v % 2 ^ n + 1) * 2 ^ lo ≤ 2 ^ n * 2 ^ lo := Nat.mul_le_mul_right _ h2
    rw [e, Nat.mul_comm (2 ^ lo)]; rw [Nat.add_mul, Nat.one_mul] at this; omega
  have e32 : 2 ^ 32 = 2 ^ (lo + n) * 2 ^ (32 - (lo + n)) := by rw [← Nat.pow_add]; congr 1; omega
  have h4 : w.toNat / 2 ^ (lo + n) * 2 ^ (lo + n) + 2 ^ (lo + n) ≤ 2 ^ 32 := by
    have : w.toNat / 2 ^ (lo + n) < 2 ^ (32 - (lo + n)) := Nat.div_lt_of_lt_mul (by rw [← e32]; exact hw)
    calc _ = (w.toNat / 2 ^ (lo + n) + 1) * 2 ^ (lo + n) := by ring
      _ ≤ 2 ^ (32 - (lo + n)) * 2 ^ (lo + n) := Nat.mul_le_mul_right _ this
      _ = 2 ^ 32 := by rw [e32]; ring
  have hlt : w.toNat % 2 ^ lo + v % 2 ^ n * 2 ^ lo + w.toNat / 2 ^ (lo + n) * 2 ^ (lo + n) < 2 ^ 32 := by omega
  unfold putBits
  rw [BitVec.toNat_ofNat, Nat.mod_eq_of_lt hlt]
  rcases hi with hi | hi
  · have e1 : w.toNat % 2 ^ lo + v % 2 ^ n * 2 ^ lo + w.toNat / 2 ^ (lo + n) * 2 ^ (lo + n)
        = 2 ^ lo * (v % 2 ^ n + 2 ^ n * (w.toNat / 2 ^ (lo + n))) + w.toNat % 2 ^ lo := by rw [e]; ring
    rw [e1, Nat.testBit_two_pow_mul_add _ h1, if_pos hi, Nat.testBit_mod_two_pow, decide_eq_true hi, Bool.true_and]
  · have e1 : w.toNat % 2 ^ lo + v % 2 ^ n * 2 ^ lo + w.toNat / 2 ^ (lo + n) * 2 ^ (lo + n)
        = 2 ^ (lo + n) * (w.toNat / 2 ^ (lo + n)) + (w.toNat % 2 ^ lo + v % 2 ^ n * 2 ^ lo) := by ring
    rw [e1, Nat.testBit_two_pow_mul_add _ h5, if_neg (by omega), Nat.testBit_div_two_pow]
    congr 1; omega

/-- A field beside the one that was written reads as before. -/
theorem bits_putBits_other (w : Word) (lo n v lo' n' : Nat) (h : lo + n ≤ 32) (hd : lo' + n' ≤ lo ∨ lo + n ≤ lo') :
    bits (putBits w lo n v) lo' n' = bits w lo' n' := by
  unfold bits
  apply Nat.eq_of_testBit_eq
  intro i
  rw [Nat.testBit_mod_two_pow, Nat.testBit_mod_two_pow, Nat.testBit_div_two_pow, Nat.testBit_div_two_pow]
  by_cases hi : i < n'
  · rw [testBit_putBits w lo n v _ h (by omega)]
  · simp [hi]

/-! ## Registers -/

theorem State.regsOk_setReg {s : State} (a : Nat) (v : Word) (h : s.regsOk) : (s.setReg a v).regsOk := Tbl.wf_set a v h

/-- A register reads back what was written. -/
theorem State.reg_setReg (s : State) (a : Nat) (v : Word) : (s.setReg a v).reg a = v := Tbl.get_set_same s.regs a v

/-- Another register reads as before. -/
theorem State.reg_setReg_other (s : State) {a b : Nat} (v : Word) (h : b ≠ a) : (s.setReg a v).reg b = s.reg b :=
  Tbl.get_set_other _ v h

theorem State.regsOk_setF {s : State} (x : Fld) (v : Nat) (h : s.regsOk) : (s.setF x v).regsOk := State.regsOk_setReg _ _ h
theorem State.regsOk_setB {s : State} (x : Fld) (b : Bool) (h : s.regsOk) : (s.setB x b).regsOk := State.regsOk_setReg _ _ h
theorem State.regsOk_bump {s : State} (x : Fld) (n : Nat) (h : s.regsOk) : (s.bump x n).regsOk := State.regsOk_setReg _ _ h

/-- A field reads back what was written, modulo its size. -/
theorem State.f_setF (s : State) (x : Fld) (v : Nat) (hx : x.lo + x.w ≤ 32) : (s.setF x v).f x = v % 2 ^ x.w := by
  unfold State.setF State.f
  rw [State.reg_setReg, bits_putBits _ _ _ _ hx]

theorem State.f_setB (s : State) (x : Fld) (b : Bool) (hx : x.lo + x.w ≤ 32) (hw : x.w = 1) :
    (s.setB x b).f x = b2n b := by
  unfold State.setB
  rw [State.f_setF s x _ hx, hw]; cases b <;> rfl

theorem State.flag_setB (s : State) (x : Fld) (b : Bool) (hx : x.lo + x.w ≤ 32) (hw : x.w = 1) :
    (s.setB x b).flag x = b := by
  unfold State.flag
  rw [State.f_setB s x b hx hw]; cases b <;> rfl

/-- Fields of another register read as before. -/
theorem State.f_setF_other (s : State) {x y : Fld} (v : Nat) (h : y.addr ≠ x.addr) : (s.setF x v).f y = s.f y := by
  unfold State.setF State.f
  rw [State.reg_setReg_other s _ h]

/-- Other fields of the same register read as before. -/
theorem State.f_setF_beside (s : State) {x y : Fld} (v : Nat) (ha : y.addr = x.addr) (hx : x.lo + x.w ≤ 32)
    (hd : y.lo + y.w ≤ x.lo ∨ x.lo + x.w ≤ y.lo) : (s.setF x v).f y = s.f y := by
  unfold State.setF State.f
  rw [ha, State.reg_setReg, bits_putBits_other _ _ _ _ _ _ hx hd]

/-- A saturating counter counts up to its largest value. -/
theorem State.f_bump (s : State) (x : Fld) (n : Nat) (hx : x.lo + x.w ≤ 32) :
    (s.bump x n).f x = min (s.f x + n) (2 ^ x.w - 1) := by
  unfold State.bump
  rw [State.f_setF s x _ hx, Nat.mod_eq_of_lt]
  have := Nat.two_pow_pos x.w; omega

/-- Only the register of a field changes with it. -/
theorem State.reg_setF_other (s : State) {x : Fld} (v : Nat) {a : Nat} (h : a ≠ x.addr) : (s.setF x v).reg a = s.reg a :=
  State.reg_setReg_other s _ h

/-- A field after a write to a field, by where the two lie. -/
theorem State.f_setF_eq (s : State) (x y : Fld) (v : Nat) (hx : x.lo + x.w ≤ 32) :
    (s.setF x v).f y = if y.addr = x.addr then
      (if y.lo = x.lo ∧ y.w = x.w then v % 2 ^ x.w
        else if y.lo + y.w ≤ x.lo ∨ x.lo + x.w ≤ y.lo then s.f y else bits (putBits (s.reg x.addr) x.lo x.w v) y.lo y.w)
      else s.f y := by
  split
  · rename_i ha
    split
    · rename_i hl
      have : y = x := by cases x; cases y; simp_all
      rw [this, State.f_setF s x v hx]
    · split
      · rename_i hd; exact State.f_setF_beside s v ha hx hd
      · unfold State.setF State.f
        rw [ha, State.reg_setReg]
  · rename_i ha; exact State.f_setF_other s v ha

/-- A field after a write to a whole register. -/
theorem State.f_setReg_eq (s : State) (a : Nat) (y : Fld) (v : Word) :
    (s.setReg a v).f y = if y.addr = a then bits v y.lo y.w else s.f y := by
  unfold State.f
  split
  · rename_i ha; rw [ha, State.reg_setReg s a v]
  · rename_i ha; rw [State.reg_setReg_other s v ha]

theorem State.flag_eq (s : State) (x : Fld) : s.flag x = (s.f x == 1) := (rfl)
theorem State.setB_eq (s : State) (x : Fld) (b : Bool) : s.setB x b = s.setF x (b2n b) := (rfl)
theorem State.bump_eq (s : State) (x : Fld) (n : Nat) : s.bump x n = s.setF x (min (s.f x + n) (2 ^ x.w - 1)) := (rfl)

/-- The register file stays canonical under what does not touch it. -/
theorem State.regsOk_of {s t : State} (h : t.regs = s.regs) (hs : s.regsOk) : t.regsOk := by
  unfold State.regsOk at *; rw [h]; exact hs

/-- A field's value fits the field. -/
theorem bits_lt (w : Word) (lo n : Nat) : bits w lo n < 2 ^ n := Nat.mod_lt _ (Nat.two_pow_pos n)
theorem State.f_lt (s : State) (x : Fld) : s.f x < 2 ^ x.w := bits_lt _ _ _

end Sys2Proof.Machine
end

