-- ==== Sys2Proof/Laws/Regs.lean ====
section
/-! SUPPORT. The register map (R499, R500): which register lies at an offset of a bank's unit, and what a write to it leaves. -/

set_option Elab.async false

namespace Sys2Proof.Machine

theorem bankSpec_at (l : List RegSpec) (base stride cnt n o : Nat) (hn : n < cnt) (ho : o < stride) :
    bankSpec l base stride cnt (base + n * stride + o) = findSpec l o := by
  have h : base + n * stride + o < base + stride * cnt := by
    have : (n + 1) * stride ≤ cnt * stride := Nat.mul_le_mul_right _ hn
    rw [Nat.add_mul, Nat.one_mul] at this
    rw [Nat.mul_comm stride cnt]; omega
  unfold bankSpec
  rw [if_pos ⟨by omega, h⟩]
  congr 1
  rw [show base + n * stride + o - base = o + n * stride by omega, Nat.add_mul_mod_self_right, Nat.mod_eq_of_lt ho]

theorem bankSpec_off (l : List RegSpec) (base stride cnt a : Nat) (h : a < base ∨ base + stride * cnt ≤ a) :
    bankSpec l base stride cnt a = none := by
  unfold bankSpec
  rw [if_neg (by omega)]

theorem regSpec_lane (n o : Nat) (r : RegSpec) (hn : n < 192) (ho : o < 0x1000) (h : findSpec regSpecs_lane o = some r) :
    regSpec (Reg.laneBase n + o) = some r := by
  unfold Reg.laneBase regSpec
  rw [show (0xa00000 + n * 0x1000 + o) / 0x100000 = 10 by omega]
  rw [bankSpec_at _ _ _ _ _ _ hn ho, h]; rfl

theorem regSpec_port (n o : Nat) (r : RegSpec) (hn : n < 192) (ho : o < 0x10) (h : findSpec regSpecs_port o = some r) :
    regSpec (Reg.portBase n + o) = some r := by
  unfold Reg.portBase regSpec
  rw [show (0x801000 + n * 0x10 + o) / 0x100000 = 8 by omega]
  rw [bankSpec_at _ _ _ _ _ _ hn ho, h]; rfl

theorem regSpec_trunk (n o : Nat) (r : RegSpec) (hn : n < 192) (ho : o < 0x40) (h : findSpec regSpecs_trunk o = some r) :
    regSpec (Reg.trunkBase n + o) = some r := by
  unfold Reg.trunkBase regSpec
  rw [show (0x701000 + n * 0x40 + o) / 0x100000 = 7 by omega]
  rw [bankSpec_at _ _ _ _ _ _ hn ho, h]; rfl

theorem regSpec_engine (n o : Nat) (r : RegSpec) (hn : n < 16) (ho : o < 0x40) (h : findSpec regSpecs_engine o = some r) :
    regSpec (Reg.engineBase n + o) = some r := by
  unfold Reg.engineBase regSpec
  rw [show (0x501000 + n * 0x40 + o) / 0x100000 = 5 by omega]
  rw [bankSpec_at _ _ _ _ _ _ hn ho, h]; rfl

theorem regSpec_window (n o : Nat) (r : RegSpec) (hn : n < 256) (ho : o < 0x10) (h : findSpec regSpecs_window o = some r) :
    regSpec (Reg.windowBase n + o) = some r := by
  unfold Reg.windowBase regSpec
  rw [show (0x601000 + n * 0x10 + o) / 0x100000 = 6 by omega]
  rw [bankSpec_at _ _ _ _ _ _ hn ho, h]; rfl

theorem regSpec_view (n o : Nat) (r : RegSpec) (hn : n < 4096) (ho : o < 0x8) (h : findSpec regSpecs_view o = some r) :
    regSpec (Reg.viewBase n + o) = some r := by
  unfold Reg.viewBase regSpec
  rw [show (0x602000 + n * 0x8 + o) / 0x100000 = 6 by omega]
  rw [bankSpec_off _ 0x601000 0x10 256 _ (by omega), Option.none_or]
  rw [bankSpec_at _ _ _ _ _ _ hn ho, h]; rfl

theorem regSpec_page (n o : Nat) (r : RegSpec) (hn : n < 1025) (ho : o < 0x20) (h : findSpec regSpecs_page o = some r) :
    regSpec (Reg.pageBase n + o) = some r := by
  unfold Reg.pageBase regSpec
  rw [show (0x410000 + n * 0x20 + o) / 0x100000 = 4 by omega]
  rw [bankSpec_at _ _ _ _ _ _ hn ho, h]; rfl

theorem regSpec_lnk (n o : Nat) (r : RegSpec) (hn : n < 192) (ho : o < 0x1000) (h : findSpec regSpecs_lnk o = some r) :
    regSpec (Reg.lnkBase n + o) = some r := by
  unfold Reg.lnkBase regSpec
  rw [show (0x900000 + n * 0x1000 + o) / 0x100000 = 9 by omega]
  rw [bankSpec_at _ _ _ _ _ _ hn ho, h]; rfl

theorem regSpec_vfst (n o : Nat) (r : RegSpec) (hn : n < 1024) (ho : o < 0x4) (h : findSpec regSpecs_vfst o = some r) :
    regSpec (Reg.vfstBase n + o) = some r := by
  unfold Reg.vfstBase regSpec
  rw [show (0x301000 + n * 0x4 + o) / 0x100000 = 3 by omega]
  rw [bankSpec_at _ _ _ _ _ _ hn ho, h]; rfl

theorem regSpec_fbuf (n o : Nat) (r : RegSpec) (hn : n < 64) (ho : o < 0x4) (h : findSpec regSpecs_fbuf o = some r) :
    regSpec (Reg.fbufBase n + o) = some r := by
  unfold Reg.fbufBase regSpec
  rw [show (0xe01000 + n * 0x4 + o) / 0x100000 = 14 by omega]
  rw [bankSpec_at _ _ _ _ _ _ hn ho, h]; rfl

theorem regSpec_quad (n o : Nat) (r : RegSpec) (hn : n < 48) (ho : o < 0x100) (h : findSpec regSpecs_quad o = some r) :
    regSpec (Reg.quadBase n + o) = some r := by
  unfold Reg.quadBase regSpec
  rw [show (0xac0000 + n * 0x100 + o) / 0x100000 = 10 by omega]
  rw [bankSpec_off _ 0xa00000 0x1000 192 _ (by omega), Option.none_or]
  rw [bankSpec_at _ _ _ _ _ _ hn ho, h]; rfl

/-- A write to a register by the access codes of its fields. -/
theorem State.writeReg_at (s : State) (a : Nat) (v : Word) (r : RegSpec) (h : regSpec a = some r) :
    s.writeReg a v = s.setReg a (writeMasked r (s.reg a) v) := by
  unfold State.writeReg; rw [h]

/-- Bit `i` of a register after a write: RW bits take what was written, RW1C bits are cleared by a 1, the others stay (R9). -/
theorem getLsbD_writeMasked (r : RegSpec) (old v : Word) (i : Nat) (hi : i < 32) :
    (writeMasked r old v).getLsbD i =
      if r.rw.testBit i then v.getLsbD i else (old.getLsbD i && !(r.w1c.testBit i && v.getLsbD i)) := by
  unfold writeMasked
  simp only [BitVec.getLsbD_or, BitVec.getLsbD_and, BitVec.getLsbD_not, BitVec.getLsbD_ofNat, hi, decide_true, Bool.true_and]
  cases r.rw.testBit i <;> cases v.getLsbD i <;> cases r.w1c.testBit i <;> cases old.getLsbD i <;> rfl

theorem testBit_bits (w : Word) (lo n i : Nat) : (bits w lo n).testBit i = (decide (i < n) && w.getLsbD (lo + i)) := by
  unfold bits
  rw [Nat.testBit_mod_two_pow, Nat.testBit_div_two_pow, Nat.add_comm i lo]; rfl

/-- A field whose bits are all RW reads back what was written to the register. -/
theorem bits_writeMasked (r : RegSpec) (old v : Word) (lo n : Nat) (h : lo + n ≤ 32)
    (hr : (List.range n).all (fun i => r.rw.testBit (lo + i)) = true) : bits (writeMasked r old v) lo n = bits v lo n := by
  apply Nat.eq_of_testBit_eq
  intro i
  rw [testBit_bits, testBit_bits]
  by_cases hi : i < n
  · have := List.all_eq_true.mp hr i (List.mem_range.mpr hi)
    rw [getLsbD_writeMasked _ _ _ _ (by omega), if_pos this]
  · simp [hi]

/-- A field with no bit that a write reaches keeps its value. -/
theorem bits_writeMasked_kept (r : RegSpec) (old v : Word) (lo n : Nat) (h : lo + n ≤ 32)
    (hr : (List.range n).all (fun i => !r.rw.testBit (lo + i) && !r.w1c.testBit (lo + i)) = true) :
    bits (writeMasked r old v) lo n = bits old lo n := by
  apply Nat.eq_of_testBit_eq
  intro i
  rw [testBit_bits, testBit_bits]
  by_cases hi : i < n
  · have := List.all_eq_true.mp hr i (List.mem_range.mpr hi)
    simp only [Bool.and_eq_true, Bool.not_eq_true'] at this
    rw [getLsbD_writeMasked _ _ _ _ (by omega), this.1, this.2]; simp
  · simp [hi]

theorem bits_one (w : Word) (i : Nat) : bits w i 1 = if w.getLsbD i then 1 else 0 := by
  apply Nat.eq_of_testBit_eq
  intro k
  rw [testBit_bits]
  cases k with
  | zero => cases h : w.getLsbD i <;> simp
  | succ k =>
    have e : decide (k + 1 < 1) = false := by simp
    rw [e, Bool.false_and]
    cases w.getLsbD i <;> simp [Nat.testBit_succ]

/-- A writable field takes what a write to its register brings. -/
theorem State.f_writeReg (s : State) (y : Fld) (v : Word) (r : RegSpec) (h : regSpec y.addr = some r)
    (hy : y.lo + y.w ≤ 32) (hr : (List.range y.w).all (fun i => r.rw.testBit (y.lo + i)) = true) :
    (s.writeReg y.addr v).f y = bits v y.lo y.w := by
  rw [State.writeReg_at _ _ _ _ h, State.f_setReg_eq, if_pos rfl, bits_writeMasked _ _ _ _ _ hy hr]

/-- A field that no write reaches keeps its value. -/
theorem State.f_writeReg_kept (s : State) (y : Fld) (v : Word) (r : RegSpec) (h : regSpec y.addr = some r)
    (hy : y.lo + y.w ≤ 32) (hr : (List.range y.w).all (fun i => !r.rw.testBit (y.lo + i) && !r.w1c.testBit (y.lo + i)) = true) :
    (s.writeReg y.addr v).f y = s.f y := by
  rw [State.writeReg_at _ _ _ _ h, State.f_setReg_eq, if_pos rfl, bits_writeMasked_kept _ _ _ _ _ hy hr]; rfl

/-- Fields of other registers are left. -/
theorem State.f_writeReg_other (s : State) (a : Nat) (v : Word) (y : Fld) (h : y.addr ≠ a) : (s.writeReg a v).f y = s.f y := by
  unfold State.writeReg
  split
  · unfold State.f; rw [State.reg_setReg_other _ _ h]
  · rfl

theorem State.regsOk_writeReg {s : State} (a : Nat) (v : Word) (h : s.regsOk) : (s.writeReg a v).regsOk := by
  unfold State.writeReg
  split <;> [exact State.regsOk_setReg _ _ h; exact h]

end Sys2Proof.Machine
end

