-- ==== Sys2Proof/Tests/Slice0.lean ====
section
/-! SUPPORT. Tests: ill-formed commands that each check of `Instr.wf` refuses, and for each statement of Certificates/Slice0/Obligations.lean
that has conditions the states and operands that meet them, clause by clause. Values are written from the spec's tables. -/

set_option Elab.async false

namespace Sys2Proof.Tests
open Sys2Proof Sys2Proof.Machine

/-! ## States that the tests use -/

/-- Right after reset, but for these fields. -/
def with_ (l : List (Fld × Nat)) : State := l.foldl (fun s x => s.setF x.1 x.2) State.reset

/-- The device serves registers and entries, but for these fields. -/
def live (l : List (Fld × Nat)) : State :=
  (with_ ([(Reg.HIF_STATUS_CONFIG_READY, 1), (Reg.HIF_STATUS_OPERATIONAL, 1), (Reg.QE_CTRL_EN, 1), (Reg.BM_CTRL_EN, 1),
    (Reg.EBM_STATUS_INIT_DONE, 1)] ++ l)).updCk (fun c => { c with porst := false, perst := false })

/-- `s` in microframe `m` at tick `p` of it, after `t` ticks, with its timebase running. -/
def atTime (m p t : Nat) (s : State) : State := { s with time := ⟨BitVec.ofNat 64 t, BitVec.ofNat 48 m, p, true, false, false⟩ }

/-- Lane `n` in state `st`. -/
def lane (n st : Nat) : Fld × Nat := (Reg.LX_LANE_STATUS_STATE n, st)

/-- Root port `p` in state `st`, powered. -/
def portIn (p st : Nat) : Fld × Nat := (Reg.TM_PORT_STATUS_STATE p, st)

/-- A member of a pair: role, pair state, ordered channel up, Miodel lanes of quad 0 up. -/
def paired (role pst : Nat) : List (Fld × Nat) :=
  [(Reg.PU_STATUS_ROLE, role), (Reg.PU_STATUS_PSTATE, pst), (Reg.PU_STATUS_ORDERED_UP, 1), (Reg.PU_CTRL_EN, 1), (Reg.PU_CFG_QUAD, 0), lane 0 3,
    lane 1 3, lane 2 3, lane 3 3]

/-- An entry whose dwords are those given, the rest 0. -/
def entry (l : List Nat) : Sqe := ⟨Vector.ofFn (fun i => BitVec.ofNat 32 (l.getD i.val 0))⟩

/-! ## Ill-formed commands are refused, one for each check -/

/-- An admin entry, an entry of I/O ring 2, an entry that names the admin CQ. -/
def adm : EntryRef := ⟨0, 0, 0⟩
def io : EntryRef := ⟨0, 2, 0⟩
def bad : EntryRef := ⟨0, 1, 0⟩

theorem test_wf_payloads : (Instr.periodicInData 0 ⟨0, 0, 0, 0, 0, List.replicate 1025 0⟩).wf = false ∧
    (Instr.npDataReceived 0 ⟨0, 0, 0, 0, 0, List.replicate 1025 0⟩).wf = false ∧
    (Instr.periodicInData 0 ⟨0, 0, 0, 0, 0, List.replicate 1024 0⟩).wf = true ∧
    (Instr.deviceRoleTokenReceived 0 ⟨0, 0, 0, 0, 1025, 0, [], 0, 0⟩).wf = false ∧
    (Instr.deviceRoleTokenReceived 0 ⟨0, 0, 0, 0, 0, 0, List.replicate 1025 0, 0, 0⟩).wf = false ∧
    (Instr.miodelBlocksFrame [⟨0, 0, List.replicate 1025 0⟩]).wf = false ∧
    (Instr.tmTransferComplete 0 ⟨0, List.replicate 1025 0, none⟩).wf = false := by decide +kernel

theorem test_wf_addresses : (Instr.scrubPass [⟨0x8000000, false⟩]).wf = false ∧ (Instr.scrubPass [⟨0x7FFFFFF, false⟩]).wf = true ∧
    (Instr.diagWindowAccess (.read 0 0)).wf = false ∧ (Instr.diagWindowAccess (.read 0x7FFFFFF 2)).wf = false ∧
    (Instr.diagWindowAccess (.read 0x7FFFFFF 1)).wf = true ∧ (Instr.diagWindowAccess (.write 0 [])).wf = false ∧
    (Instr.diagWindowAccess (.write 0x7FFFFFF [0, 0])).wf = false ∧
    (Instr.registerWrite 2 0 ⟨15, none, none⟩).wf = false ∧ (Instr.registerReadRc ⟨0, false, 0, none⟩ 2).wf = false ∧
    (Instr.registerReadRc ⟨1, false, 0, none⟩ 0x10000).wf = false ∧
    (Instr.registerReadRc ⟨1, false, 0, none⟩ 0xFFFC).wf = true ∧ (Instr.remoteWindowRead (.pf 0) 0xFFFFFF 2).wf = false ∧
    (Instr.remoteWindowRead (.vf 0 0) 0xFFFFF 1).wf = true ∧ (Instr.remoteWindowRead (.vf 0 0) 0x100000 1).wf = false ∧
    (Instr.remoteWindowRead (.pf 0) 0 0).wf = false ∧ (Instr.remoteWindowWrite (.pf 0) 0xFFFFFE [0, 0, 0]).wf = false ∧
    (Instr.atomicopRequest (.pf 0) 0xFFFFFC true (.swap 0)).wf = false ∧
    (Instr.atomicopRequest (.pf 0) 0xFFFFFC false (.swap 0)).wf = true := by decide +kernel

theorem test_wf_lists : (Instr.auditEyeComplete [⟨5, []⟩, ⟨5, []⟩]).wf = false ∧
    (Instr.auditEyeComplete [⟨5, List.replicate 188 0⟩]).wf = false ∧ (Instr.auditEyeComplete [⟨5, List.replicate 187 0⟩]).wf = true ∧
    (Instr.miodelPresenceFrame [⟨5, []⟩, ⟨5, []⟩]).wf = false ∧ (Instr.miodelPresenceFrame [⟨5, []⟩, ⟨6, []⟩]).wf = true ∧
    (Instr.miodelDigestFrame 0 (List.replicate 255 0)).wf = false ∧ (Instr.miodelDigestFrame 0 (List.replicate 256 0)).wf = true ∧
    (Instr.miodelClipFrame 0 [⟨0, true, [0, 0, 0, 0, 0]⟩]).wf = false ∧
    (Instr.miodelClipFrame 0 [⟨1, true, [0, 0, 0, 0, 0, 0]⟩, ⟨1, true, [0, 0, 0, 0, 0, 0]⟩]).wf = false ∧
    (Instr.miodelRelayFrame (.send 0 (List.replicate 4097 0))).wf = false ∧
    (Instr.miodelRelayFrame (.gotData 0 ⟨0, 0, 0, 0, 0, List.replicate 1025 0⟩)).wf = false ∧
    (Instr.bmHostCompletion 0 .ok (List.replicate 4097 0)).wf = false := by decide +kernel

theorem test_wf_entries : (Instr.nop bad (entry [])).wf = false ∧ (Instr.nop adm (entry [])).wf = false ∧ (Instr.nop io (entry [])).wf = true ∧
    (Instr.createSq io (entry [])).wf = false ∧ (Instr.createSq adm (entry [])).wf = true ∧
    (Instr.vfRestore io (entry []) []).wf = false := by decide +kernel

theorem test_wf_blob (b : List Byte) (h : b.length = 0x100001) : (Instr.vfRestore adm (entry []) b).wf = false := by
  simp [Instr.wf, h]

theorem test_wf_numbers : (Instr.msixUnmask 1 64).wf = false ∧ (Instr.msixUnmask 1 63).wf = true ∧ (Instr.msixUnmask 0 64).wf = true ∧
    (Instr.hostLinkUp 0 4 false).wf = false ∧ (Instr.hostLinkUp 6 4 false).wf = false ∧ (Instr.hostLinkUp 5 3 false).wf = false ∧
    (Instr.hostLinkUp 5 16 false).wf = true ∧ (Instr.vfEnableWrite true 1025).wf = false ∧
    (Instr.vfEnableWrite true 1024).wf = true := by decide +kernel

/-! ## States that meet the conditions of the statements, clause by clause -/

/-- The block of type `typ` whose bytes 1 to 6 are those given, with its CRC8 (R81, R92). -/
def block (typ : Nat) (l : List Byte) : BitVec 64 :=
  let b := leBytes 1 typ ++ l
  BitVec.ofNat 64 (leNat (b ++ leBytes 1 (crc8 b)))

theorem test_meets_LanesTrain :
    (let s := with_ [(Reg.LX_LANE_CTRL_EN 191, 1), lane 191 7]; let s := s.updLane 191 (fun l => { l with failedAt := some 0 });
      s.flag (Reg.LX_LANE_CTRL_EN 191) = true ∧ s.f (Reg.LX_LANE_CTRL_MODE 191) = 0 ∧ s.laneState 191 = Ls.failed ∧
      s.flag (Reg.LX_TX_TAPS_OVR 191) = false ∧ (s.lane 191).tries < max 1 (s.f (Reg.LX_TRAIN_CFG_MAX_TRIES 191)) ∧
      (s.lane 191).failedAt = some 0) ∧
    (let s := with_ [lane 0 3]; s.laneState 0 = Ls.up) ∧
    (let s := (with_ [lane 191 1]).updLane 191 (fun l => { l with rxReadyGot := true });
      s.laneState 191 = Ls.training ∧ s.marginsMeet 191 1 ⟨127, 127, 31, 31⟩ = true ∧ (s.lane 191).rxReadyGot = true ∧
      (s.lane 191).readyAt = none) ∧
    (let s := atTime 4 0 1250000 ((with_ [lane 191 1]).updLane 191 (fun l => { l with readyAt := some 1248918, trainAt := some 1 }));
      s.laneState 191 = Ls.training ∧ (s.lane 191).readyAt = some 1248918 ∧ 1248918 + 1082 ≤ s.now ∧ (s.lane 191).trainAt = some 1 ∧
      s.now < 1 + 1250000) ∧
    (let s := atTime 4 0 1250000 ((with_ [lane 191 1]).updLane 191 (fun l => { l with trainAt := some 0 }));
      s.laneState 191 = Ls.training ∧ (s.lane 191).trainAt = some 0 ∧ 0 + 1250000 ≤ s.now) ∧
    (let s := with_ [lane 0 1]; let raw := block 0xC3 [64, 65, 0, 0, 0, 0];
      s.laneState 0 = Ls.training ∧ rawGood 0xC3 raw = true ∧ field (leBytes 8 raw.toNat) 2 1 % 64 ≠ 0 ∧
      nbit (field (leBytes 8 raw.toNat) 2 1) 6 = true ∧ field (leBytes 8 raw.toNat) 1 1 = 64 ∧ s.flag (Reg.LX_TX_TAPS_OVR 0) = false ∧
      (s.lane 0).stPre = 0 ∧ rawGood 0xC3 0xAA000000000000C3#64 = false) := by decide +kernel

theorem test_meets_TrunksAlignAndLanesAreControlled :
    (let s := (with_ [lane 0 2]).updLane 0 (fun l => { l with markLane := some 0, markWidth := 0 });
      s.miodelLane 0 = false ∧ s.lanesOf 0 ≠ [] ∧ (∀ n ∈ s.lanesOf 0, s.laneState n = Ls.aligning) ∧ s.markersAgree 0 = true ∧
      (64 : BitVec 7).toNat ≤ 64 ∧ 64 < (65 : BitVec 7).toNat) ∧
    (let s := live [];
      s.pfServes (Reg.LX_LANE_CTRL 191) ∧ s.pfServes (Reg.LX_QUAD_CFG 47) ∧ s.laneState 191 = Ls.disabled ∧ bits 0 0 1 = 0 ∧
      bits 0x11 0 1 = 1 ∧ bits 0x11 4 2 = 1 ∧ bits 5 0 1 = 1 ∧ bits 5 4 2 = 0 ∧ bits 5 2 1 = 1) := by
  unfold State.pfServes; decide +kernel

theorem test_meets_SamplerServesChecksAndScans :
    (let s := live [lane 191 3, (Reg.LX_EYE_STATUS_BUSY 191, 1)];
      s.laneState 191 = Ls.up ∧ s.laneState 191 ≠ Ls.lpi ∧ s.flag (Reg.LX_LANE_STATUS_ADAPT_FROZEN 191) = false ∧ s.auditEye = false ∧
      s.pfServes (Reg.LX_EYE_CTRL 191) ∧ bits 1 0 1 = 1 ∧ s.flag (Reg.LX_EYE_STATUS_BUSY 191) = true ∧
      s.flag (Reg.LX_EYE_STATUS_HW_ACTIVE 191) = false ∧ (s.lane 191).checks ≤ s.checkWindow 191 ∧ s.f (Reg.LX_EYE_STATUS_HW_ACTIVE 191) = 0 ∧
      (let s := s.updLane 191 (fun l => { l with checks := 1 }); s.laneState 191 = Ls.up ∧ s.checkWindow 191 < (s.lane 191).checks)) ∧
    (let s := with_ [(Reg.LX_EYE_STATUS_HW_ACTIVE 0, 1), (Reg.LX_EYE_STATUS_BUSY 0, 1)];
      s.flag (Reg.LX_EYE_STATUS_HW_ACTIVE 0) = true ∧ (s.lane 0).yielded = false ∧ s.flag (Reg.LX_EYE_STATUS_BUSY 0) = true ∧
      ((s.updLane 0 (fun l => { l with yielded := true })).lane 0).yielded = true) := by
  unfold State.pfServes; decide +kernel

theorem test_meets_SlotsAndPatternTesterRun :
    (let s := atTime 64 0 0 ((with_ [lane 0 3]).updTrunk 0 (fun r => { r with slot := some 64 }));
      (s.trunk 0).slot = some s.mfN ∧ (s.trunk 0).slotOn = false ∧ s.trunkUp 0 = true) ∧
    (let s := atTime 65 0 0 ((with_ [lane 0 1]).updTrunk 0 (fun r => { r with slot := some 64 }));
      (s.trunk 0).slot = some 64 ∧ (s.trunk 0).slotOn = false ∧ 64 ≤ s.mfN ∧ s.trunkUp 0 = false) ∧
    (let s := atTime 66 0 0 ((with_ [lane 0 4]).updTrunk 0 (fun r => { r with slot := some 64, slotOn := true }));
      (s.trunk 0).slot = some 64 ∧ (s.trunk 0).slotOn = true ∧ 64 + 2 ≤ s.mfN ∧ laneLive (s.laneState 0) = true ∧ s.trunkOf 0 = 0) ∧
    (let s := with_ [lane 0 3]; let raw := block 0x5A [0, 0, 0, 1, 0, 0];
      rawGood 0x5A raw = true ∧ laneLive (s.laneState 0) = true ∧ nbit (field (leBytes 8 raw.toNat) 4 1) 0 = true ∧
      (s.trunk (s.trunkOf 0)).slot = none ∧ (s.trunk (s.trunkOf 0)).slotOn = false) ∧
    (let s := (with_ [portIn 0 4]).updTrunk 0 (fun r => { r with twillAt := some 0 });
      (s.trunk 0).twillAt = some 0 ∧ s.trunkUp 0 = false ∧ s.portState 0 = Ps.enabled) ∧
    (let s := live [lane 191 6, (Reg.LX_PRBS_CTRL_GEN_EN 191, 1), (Reg.LX_PRBS_CTRL_CHK_EN 191, 1), (Reg.LX_PRBS_STATUS_LOCKED 191, 1)];
      s.laneState 191 = Ls.test ∧ s.pfServes (Reg.LX_PRBS_CTRL 191) ∧ s.flag (Reg.LX_PRBS_CTRL_GEN_EN 191) = true ∧ bits 1 0 1 = 1 ∧
      s.flag (Reg.LX_PRBS_CTRL_CHK_EN 191) = true ∧ s.flag (Reg.LX_PRBS_STATUS_LOCKED 191) = true) := by
  unfold State.pfServes; decide +kernel

theorem test_meets_ReceiversCountAndMark :
    (let s := with_ [lane 191 5, lane 0 2];
      s.portExists 191 = true ∧ (s.trunk 191).delinLost = false ∧ laneLive (s.laneState 191) = true ∧ s.laneState 0 = Ls.aligning ∧
      191 ∈ s.lanesOf 191 ∧ s.laneState 191 = Ls.lpi) ∧
    loses (.gap 1 7) = true ∧ loses (.gap 0 0) = false ∧ markerGood 0xF8FDFEB407020 = false ∧
    markerGood (BitVec.ofNat 64 (leNat [0xA5, 0x0B, 191, 7, 0x5A, 0xF4, 64, 0xF8])) = true := by decide +kernel

theorem test_meets_PresenceAttachesAndDetaches :
    (let s := atTime 800 0 2500000 ((with_ [portIn 191 1]).updPort 191 (fun r => { r with sense := .lyborH }));
      s.portState 191 = Ps.powered ∧ s.portExists 191 = true ∧ s.rootRole 191 = true ∧ s.flag (Reg.TM_PORT_CTRL_PRESENCE 191) = false ∧
      (s.port 191).sense = .lyborH ∧ s.f (Reg.TM_PORT_STATUS_REASON 191) ≠ Rs.speedMismatch ∧ (s.port 191).senseAt + 2500000 ≤ s.now) ∧
    (let s := (with_ [portIn 0 1]).updPort 0 (fun r => { r with sense := .classic, senseAt := 1 });
      (s.port 0).sense = .classic ∧ s.f (Reg.TM_PORT_STATUS_REASON 0) ≠ Rs.speedMismatch ∧ s.now < (s.port 0).senseAt + 2500000) ∧
    (let s := atTime 800 0 2500000 (with_ [portIn 0 1, lane 0 3, (Reg.TM_PORT_CTRL_PRESENCE 0, 1), (Reg.TM_PORT_STATUS_REASON 0, Rs.speedMismatch)]);
      s.portState 0 = Ps.powered ∧ s.portExists 0 = true ∧ s.rootRole 0 = true ∧ s.flag (Reg.TM_PORT_CTRL_PRESENCE 0) = true ∧
      (∀ n ∈ s.lanesOf 0, (s.laneState n = Ls.aligning ∨ s.laneState n = Ls.up) ∧ (s.lane n).heldAt + 2500000 ≤ s.now) ∧ 0 ∈ s.lanesOf 0 ∧
      (∀ n ∈ s.lanesOf 0, (atTime 799 0 2499999 s).now < ((atTime 799 0 2499999 s).lane n).heldAt + 2500000) ∧
      s.f (Reg.TM_PORT_STATUS_REASON 0) = Rs.speedMismatch ∧ s.f (Reg.TM_PORT_STATUS_SPEED 0) ≠ senseCode .lyborH) ∧
    (let s := atTime 8 0 25000 ((with_ [portIn 0 2]).updPort 0 (fun r => { r with leftAt := some 0 }));
      s.rootRole 0 = true ∧ 2 ≤ s.portState 0 ∧ s.flag (Reg.TM_PORT_CTRL_PRESENCE 0) = false ∧ (s.port 0).leftAt = some 0 ∧ 0 + 25000 ≤ s.now ∧
      (atTime 7 0 24999 s).now < 0 + 25000) ∧
    (let s := atTime 800 0 2500000 (with_ [portIn 0 4, (Reg.TM_PORT_CTRL_PRESENCE 0, 1)]);
      s.portState 0 = Ps.enabled ∧ s.flag (Reg.TM_PORT_CTRL_PRESENCE 0) = true ∧ (s.port 0).freeAt + 2500000 ≤ s.now ∧
      s.rootRole 0 = true ∧ (s.trunk 0).twillAt = none ∧ (s.setB (Reg.TM_PORT_CTRL_ROLE 0) true).rootRole 0 = false ∧
      ((s.updTrunk 0 (fun r => { r with twillAt := some 0 })).trunk 0).twillAt.isSome = true ∧
      (∃ n ∈ s.lanesOf 0, laneHolds (s.laneState n) = false ∧ (s.lane n).changedAt + 2500000 ≤ s.now) ∧
      (atTime 799 0 2499999 s).now < (s.port 0).freeAt + 2500000) := by decide +kernel

theorem test_meets_PortFeaturesMoveTheStateMachine :
    (let s := with_ []; s.portState 191 = Ps.off ∧ s.portExists 191 = true) ∧
    (let s := with_ [portIn 191 2]; s.portState 191 ≠ Ps.off ∧ 2 ≤ s.portState 191 ∧ s.portState 191 ≠ Ps.resetting ∧
      s.lossAhead 191 = false ∧ s.rootRole 191 = true) ∧
    (let s := with_ [portIn 0 4, lane 0 3]; s.portState 0 = Ps.enabled ∧ s.trunkHolds 0 = true) ∧ (with_ [portIn 0 4]).trunkHolds 0 = false ∧
    (let s := with_ [portIn 0 5]; s.portState 0 = Ps.suspended) ∧
    (let s := with_ [portIn 0 6]; s.portState 0 = Ps.resuming) ∧ (live []).pfServes (Reg.TM_PORT_CTRL 191) ∧
    (let s := atTime 8 0 25000 ((with_ [portIn 191 4]).updPort 191 (fun r => { r with leftAt := some 0 }));
      let s := { s with pending := [Instr.presenceLost 191] };
      s.pending.head? = some (.presenceLost 191) ∧ s.senseGone 191 = true ∧ 2 ≤ s.portState 191) ∧
    (let s := atTime 800 0 2500000 (with_ [portIn 191 4, (Reg.TM_PORT_CTRL_PRESENCE 191, 1)]);
      let s := { s with pending := [Instr.linkPresenceLost 191] };
      s.pending.head? = some (.linkPresenceLost 191) ∧ s.linkGone 191 = true ∧ 2 ≤ s.portState 191) ∧
    (with_ [(Reg.TM_PORT_CTRL_ROLE 191, 1), (Reg.TM_PORT_CTRL_CONNECT 191, 1)]).connected 191 = true := by
  unfold State.pfServes; decide +kernel

/-- A device with remote wake-up, LOCK and a short round trip, on root port `p`. -/
def dev (a cls p : Nat) : DevRec := ⟨a, a, cls, 7, 0, 0, [], 100, ⟨p, []⟩, none, none, 4, 0, 0, [], false, false⟩

/-- `s` with a device. -/
def plug (d : DevRec) (s : State) : State :=
  { s with tree := { s.tree with devs := Tbl.set (fun _ => none) s.tree.devs d.addr (some d) } }

theorem test_meets_PortTransitionsHappenByThemselves :
    (let s := with_ [portIn 191 3, (Reg.LX_LANE_CTRL_EN 191, 1)];
      let s := s.updPort 191 (fun r => { r with resetAt := some 0 });
      s.rootRole 191 = true ∧ s.portState 191 = Ps.resetting ∧ (s.port 191).signalled = false ∧ (s.port 191).resetAt = some 0 ∧ 191 ∈ s.lanesOf 191 ∧ s.flag (Reg.LX_LANE_CTRL_EN 191) = true ∧
      s.f (Reg.LX_LANE_CTRL_MODE 191) = 0) ∧
    (let s := (with_ [portIn 0 3, lane 0 3]).updPort 0 (fun r => { r with signalled := true });
      s.rootRole 0 = true ∧ s.portState 0 = Ps.resetting ∧ (s.port 0).signalled = true ∧ s.trunkUp 0 = true ∧ (s.port 0).ownReset = false) ∧
    (let s := with_ [portIn 0 4];
      s.portState 0 = Ps.enabled ∧ s.trunkHolds 0 = false ∧ (s.trunk 0).twillAt = none ∧ s.rootRole 0 = true) ∧
    (let s := atTime 40 0 125000 (plug (dev 1 3 0) ((with_ [portIn 0 5]).updPort 0 (fun r => { r with suspendAt := some 0 })));
      s.rootRole 0 = true ∧ s.inDormant = false ∧ s.portState 0 = Ps.suspended ∧ (s.port 0).suspendAt = some 0 ∧ 0 + 125000 ≤ s.now ∧ s.mayWake 0 = true ∧
      s.pending.head? ≠ some (.portSetResume 0)) ∧
    (let s := atTime 39 0 124999 ((with_ [portIn 0 5]).updPort 0 (fun r => { r with suspendAt := some 0 }));
      (s.port 0).suspendAt = some 0 ∧ s.now < 0 + 125000) ∧
    (let s := atTime 160 0 500000 ((with_ [portIn 0 6]).updPort 0 (fun r => { r with resumeAt := some 0 }));
      s.rootRole 0 = true ∧ s.inDormant = false ∧ s.portState 0 = Ps.resuming ∧ (s.port 0).resumeAt = some 0 ∧ 0 + 500000 ≤ s.now ∧
      (atTime 159 0 499999 s).now < 0 + 500000) := by decide +kernel

/-- A completion ring with room, and a submission ring that reports to it. -/
def cqRec (glob : Nat) : CqRec := ⟨glob, 0x10000, 6, 0x8000, 0, 0, 0, true, 0, 8, [], [], false, 0, none, false, false, false⟩
def sqRec (glob cq : Nat) : SqRec := ⟨glob, 0x20000, 6, 0x9000, cq, 0, true, true, false, false, false, false, none, false, none, []⟩

/-- `s` with the admin rings and I/O rings 2 of function `f`. -/
def withRings (f : Nat) (s : State) : State :=
  (((s.setCq f 1 (some (cqRec 0))).setCq f 2 (some (cqRec 1))).setSq f 0 (some (sqRec 0 1))).setSq f 2 (some (sqRec 1 2))

def topo : TopoEvent := ⟨1, 0, 0, 0, true, 2, false, 0, 0, 0⟩

theorem test_meets_TopologyManagerWorks :
    (let s := plug (dev 5 1 0) (with_ [(Reg.TM_CTRL_EN, 1)]);
      s.isPartner = false ∧ s.hubs.any (fun d => d.addr == 5) = true ∧ s.tmOn = true) ∧
    (let s := plug (dev 5 1 0) (with_ []);
      s.isPartner = false ∧ s.hubs.any (fun d => d.addr == 5) = true ∧ s.tmOn = false) ∧
    (let a : AttachPos := ⟨191, 0, 0, false, false, 0⟩; let s := live [(Reg.TM_CTRL_EN, 1)];
      let s := { s with tree := { s.tree with waiting := [a] } };
      s.tree.waiting.find? (fun a => a.root == 191 && !(a.reset && !a.atStep3)) = some a ∧ s.enumOf 191 = none ∧ s.tmOn = true ∧ s.isPartner = false ∧
      s.flag Reg.EBM_STATUS_INIT_DONE = true ∧ s.inSatin = false ∧ s.inDormant = false ∧ s.tree.held.length < 1024) ∧
    (let a : AttachPos := ⟨0, 5, 3, false, false, 0⟩; let s := live [(Reg.TM_CTRL_EN, 1)];
      let e : EnumRec := ⟨⟨0, 5, 2, false, false, 0⟩, 5, DevRec.unknown ⟨0, [(5, 2)]⟩, false, [], 0, [], false, [], 0, []⟩;
      let s := { s with tree := { s.tree with waiting := [a], enums := [(0, some e)] } };
      s.enumMay = true ∧ s.isHolder = false ∧ s.enumOf 0 = some e ∧
      s.tree.waiting.find? (fun a => a.root == 0 && a.hub != 0 && !a.reset && !a.atStep3) = some a) ∧
    (let it : TmItem := ⟨.getStatus 5 0, false, true, none, 0⟩; let s := with_ [];
      let s := { s with tree := { s.tree with todo := [(0, [it])] } };
      s.todoOf 0 = [it] ∧ it.sent = true ∧ it.own = false ∧ it.req = .getStatus 5 0 ∧ s.inSatin = false) ∧
    (let it : TmItem := ⟨.ping 5 2, true, true, some 130, 0⟩; let s := with_ [(Reg.TM_CTRL_EN, 1)];
      let e : EnumRec := ⟨⟨0, 0, 0, false, false, 0⟩, 10, DevRec.unknown ⟨0, []⟩, false, [], 0, [], false, [], 0, []⟩;
      let s := { s with tree := { s.tree with todo := [(0, [it])], enums := [(0, some e)] } };
      s.todoOf 0 = [it] ∧ it.sent = true ∧ it.own = true ∧ it.req = .ping 5 2 ∧ it.rtt = some 130 ∧ s.enumOf 0 = some e ∧ s.tmOn = true ∧
      s.inSatin = false) ∧
    (let it : TmItem := ⟨.getDev, true, true, none, 0⟩; let s := with_ [(Reg.TM_CTRL_EN, 1)];
      let e : EnumRec := ⟨⟨0, 0, 0, false, false, 0⟩, 5, DevRec.unknown ⟨0, []⟩, false, [], 0, [], false, [], 0, []⟩;
      let s := { s with tree := { s.tree with todo := [(0, [it])], enums := [(0, some e)] } };
      s.todoOf 0 = [it] ∧ it.sent = true ∧ it.own = true ∧ it.req = .getDev ∧ s.enumOf 0 = some e ∧ s.tmOn = true ∧ s.inSatin = false ∧
      s.tree.lostAddrs.contains 5 = false ∧ (s.setB Reg.TM_CTRL_EN false).tmOn = false) ∧
    ((live []).pfServes Reg.TM_CTRL ∧ (live []).pairFormed = false) ∧
    (let s := withRings 0 (live [(Reg.TM_EVENT_CTRL_CQ, 1)]); let s := { s with tree := { s.tree with held := [topo] } };
      s.tree.held = [topo] ∧ (s.postEvent (s.f Reg.TM_EVENT_CTRL_CQ) (topoDws topo) 2).isSome = true) ∧
    (let d := { dev 5 3 0 with detachedAt := some 0 }; let s := atTime 480000 0 1500000000 (plug d (with_ []));
      s.dev 5 = some d ∧ d.detachedAt = some 0 ∧ 0 + 1500000000 ≤ s.now ∧ s.unscheduled 5 = true) ∧
    (let s := atTime 80000 0 250000000 (with_ []); let s := { s with tree := { s.tree with returned := [(7, ⟨3, 0, 0, false, false, 0⟩, 0)] } };
      s.tree.returned.find? (fun x => x.1 == 7 && x.2.1.root == 3) = some (7, ⟨3, 0, 0, false, false, 0⟩, 0) ∧ 0 + 250000000 ≤ s.now ∧
      s.devices.any (fun d => d.serial == 7) = false) := by
  unfold State.pfServes; decide +kernel

/-- A transfer of handle 0x18 that waits for a slot. -/
def xf (k : XKind) (h : Nat) : Xfer := newXfer (.entry io) 0 k h 0 64 (some 0) 0 [] 0 8

theorem test_meets_SchedulerSettingsAndBufferMemory :
    (let s := live []; s.pfServes Reg.TS_CTRL ∧ s.pfServes (Reg.TS_TRUNK_CFG 191) ∧ bits 0x100 8 1 = 1 ∧
      s.mirrorRefused 0 0x100 = false ∧ s.mirrorRefused 0 0x101 = false) ∧
    ((live [(Reg.TS_TRUNK_CFG_MIRROR_EN 1, 1)]).mirrorRefused 0 0x101 = true) ∧
    (let s := (with_ []).updCk (fun c => { c with porst := false });
      s.flag Reg.EBM_STATUS_INIT_DONE = false ∧ s.ck.porst = false ∧ s.d3hot 0 = false) ∧
    (let s := live [(Reg.EBM_CTRL_DIAG_WRITE_EN, 1), (Reg.EBM_CTRL_SCRUB_EN, 1)];
      s.d3hot 0 = false ∧ s.ebm.powered = true ∧ s.flag Reg.EBM_STATUS_INIT_DONE = true ∧ s.inDormant = false ∧ s.operational = true ∧
      s.flag Reg.EBM_CTRL_DIAG_WRITE_EN = true ∧ s.flag Reg.EBM_CTRL_SCRUB_EN = true ∧ 0x7000000 ≤ 0x7FFFFFF ∧
      (let s := { s with ebm := { s.ebm with powered := false } }; s.d3hot 0 = false ∧ s.ebm.powered = false)) ∧
    (let r := { xf .bulkOut 0x11 with waitSlot := true };
      let s := ((live []).setCf 0x11 Cx.kind 2).setXfer 1 (some r); let s := { s with ebm := { s.ebm with waits := [1] } };
      s.ebm.waits = [1] ∧ 1 < genWait ∧ s.xfer 1 = some r ∧ s.cf r.handle Cx.granules = 0 ∧
      (s.allocSlot (s.npGranules r.handle)).isSome = true) ∧
    (let r := { xf .bulkOut 0x11 with waitSlot := true }; let q := { xf .bulkOut 0x21 with waitSlot := true };
      let s := (((live []).setCf 0x11 Cx.kind 2).setXfer 1 (some r)).setXfer 2 (some q);
      let s := { s with ebm := { s.ebm with waits := [1, 2], runs := [(0, 1310720)] } };
      s.ebm.waits = [1, 2] ∧ 2 < genWait ∧ s.xfer 1 = some r ∧ s.xfer 2 = some q ∧ s.cf r.handle Cx.granules = 0 ∧
      s.cf q.handle Cx.granules = 0 ∧ (s.allocSlot (s.npGranules r.handle)).isNone = true) := by
  unfold State.pfServes; decide +kernel

/-- A block of 4 bytes for microframe 7 on handle 0x18, TAG 5, with MFP = 1. -/
def blk : DataPkt := ⟨0x20, 5, 0x18, 0, 7, [1, 2, 3, 4]⟩

/-- The IN of that block is open on trunk 0; its slot begins at granule 0. -/
def withIn (len : Nat) (s : State) : State :=
  ((s.setCf 0x18 Cx.granules 2).setCf 0x18 Cx.valid 1).setPer (npKey 0 7 5) (some ⟨Pk.in_, 0, 0x18, 7, len, 0, false⟩)

theorem test_meets_MicroframesTakeTheirInput :
    respNp blk.flags = false ∧ blk.payload.length < 256 ∧ (with_ []).matchIn 0 blk = none ∧ ((with_ []).trunk 0).delinLost = false ∧
    blk.hops.toNat < 7 ∧ 7 ≤ { blk with hops := 7 }.hops.toNat ∧
    (((with_ []).updTrunk 0 (fun r => { r with delinLost := true })).trunk 0).delinLost = true ∧
    (let s := atTime 8 0 0 (withIn 4 (with_ []));
      s.matchIn 0 blk = some (npKey 0 7 5) ∧ s.per (npKey 0 7 5) = some ⟨Pk.in_, 0, 0x18, 7, 4, 0, false⟩ ∧ blk.payload.length ≤ 4 ∧
      blk.payload.length ≤ s.halfBytes 0x18 7 ∧ s.cutOffOver 7 = false ∧ s.halfHolds 0x18 7 = false) ∧
    ((atTime 8 1250 0 (withIn 4 (with_ []))).cutOffOver 7 = true) ∧
    (let s := withIn 3 (with_ []); s.matchIn 0 blk = some (npKey 0 7 5) ∧ 3 < blk.payload.length) ∧
    (let s := (withIn 4 (with_ [])).setCf 0x18 Cx.granules 0;
      s.matchIn 0 blk = some (npKey 0 7 5) ∧ s.halfBytes 0x18 7 < blk.payload.length) ∧
    (let s := atTime 7 3124 0 (with_ (paired 1 3)); let s := { s with pu := { s.pu with presPass := 7 }, mre := { s.mre with on := true } };
      s.time.run = true ∧ s.ck.fundamental = false ∧ (s.ck.warm && s.ck.warmMark) = false ∧ s.role ≠ 0 ∧ s.lockstep = true ∧
      s.miodelUp = true ∧ s.pu.presPass = s.mfN ∧ s.mre.on = true) ∧ (with_ []).role = 0 := by
  decide +kernel

/-- A handshake for TAG 5 with NP = 1, and an attempt that is open for it. -/
def hs : Handshake := ⟨0x40, 5, 0⟩
def withNp (kind xfer seq : Nat) (s : State) : State := s.setNpTx (npKey 0 0 5) (some ⟨xfer, kind, 0, 0x11, seq, seq, 64, 0, 100, 0⟩)

theorem test_meets_HandshakesEndTheirAttempts :
    respNp hs.flags = true ∧ ((with_ []).trunk 0).delinLost = false ∧ hs.hops.toNat < 7 ∧ 7 ≤ { hs with hops := 7 }.hops.toNat ∧
    (((with_ []).updTrunk 191 (fun r => { r with delinLost := true })).trunk 191).delinLost = true ∧
    (let s := with_ (paired 2 3); s.isPartner = true ∧ s.miodelUp = true) ∧
    (let s := with_ []; s.isPartner = false ∧ s.npFind 0 hs.flags 5 = none) ∧
    ([Pk.bulkOut, Pk.bulkIn, Pk.setup, Pk.csplit, Pk.ssplit].all (fun k => (withNp k 1 0 (with_ [])).npFind 0 hs.flags 5 ==
      some (npKey 0 0 5, ⟨1, k, 0, 0x11, 0, 0, 64, 0, 100, 0⟩)) = true) ∧ lockView 1 = none ∧ 0x11 % 8 ≠ 0 ∧
    (withNp Pk.lock (lockWait + 3) 1 (with_ [])).npFind 0 hs.flags 5 =
      some (npKey 0 0 5, ⟨lockWait + 3, Pk.lock, 0, 0x11, 1, 1, 64, 0, 100, 0⟩) ∧ lockView (lockWait + 3) = some 3 ∧
    respNp 0 = false ∧ (let s := (with_ []).setPer (npKey 0 0 5) (some ⟨Pk.ssplit, 0, 0x18, 7, 4, 0, false⟩);
      s.per (respKey 0 0 5) = some ⟨Pk.ssplit, 0, 0x18, 7, 4, 0, false⟩ ∧ s.now < 0 + s.rttOf 0x18 + 50) := by decide +kernel

theorem test_meets_DataAndWindowsEndAttempts :
    (let d : DataPkt := ⟨0x40, 5, 0x18, 0, 0, [1, 2]⟩; let x : NpTx := ⟨1, Pk.bulkIn, 0, 0x18, 0, 0, 64, 0, 100, 0⟩;
      (((with_ []).setNpTx (npKey 0 0 5) (some { x with kind := Pk.ping })).npFind 0 d.flags 5 = some (npKey 0 0 5, { x with kind := Pk.ping })) ∧
      let s := (((with_ []).setCf 0x18 Cx.window 1).setXfer 1 (some (xf .bulkIn 0x18))).setNpTx (npKey 0 0 5) (some x);
      s.isPartner = false ∧ respNp d.flags = true ∧ s.npFind 0 d.flags 5 = some (npKey 0 0 5, x) ∧ lockView x.xfer = none ∧
      x.kind = Pk.bulkIn ∧ x.handle = d.handle.toNat ∧ s.seqFits x d.seq.toNat = true ∧ d.payload.length ≤ x.len ∧
      s.npTx (npKey 0 0 5) = some x ∧ s.npTx (npKey (0 + 192) 0 5) = none ∧ x.kind ≠ Pk.ping ∧ x.kind ≠ 0 ∧
      (s.trunk 0).delinLost = false ∧ d.hops.toNat < 7 ∧ s.now < x.close ∧ x.close ≤ (atTime 0 100 100 s).now) ∧
    (let x : NpTx := ⟨lockWait + 3, Pk.lock, 0, 0x10, 1, 1, 64, 0, 100, 0⟩; let s := (with_ []).setNpTx (npKey 191 1 4095) (some x);
      s.npTx (npKey 191 1 4095) = some x ∧ s.npTx (npKey (191 + 192) 1 4095) = none ∧ lockView x.xfer = some 3 ∧
      x.close ≤ (atTime 0 100 100 s).now) ∧
    (let s := (with_ []).setPer (npKey 0 0 5) (some ⟨Pk.ssplit, 0, 0x18, 7, 4, 0, false⟩);
      s.per (npKey 0 0 5) = some ⟨Pk.ssplit, 0, 0x18, 7, 4, 0, false⟩) ∧
    (let s := with_ []; let s := { s with bus := { s.bus with quarantine := [(191 * 4096 + 4095, some 6250)] } };
      Tbl.get (fun _ => none) s.bus.quarantine (191 * 4096 + 4095) = some 6250) := by decide +kernel

/-- The schedule runs on trunk 0 in microframe 8. -/
def walking (p : Nat) (l : List (Fld × Nat)) : State := atTime 8 p 25000 (live ([portIn 0 4, (Reg.TS_CTRL_EN, 1), lane 0 3] ++ l))

/-- A polling entry of handle `h`. -/
def pent (h kind : Nat) : PEnt := ⟨h, 4, kind, false, false, 0, 0⟩

theorem test_meets_WalkersAndFillSendInTurn :
    (let e := pent 0x18 0; let s := ((walking 100 []).setCf 0x18 Cx.valid 1).setWalk 0 ⟨[], [e], 0, 0, [], false, []⟩;
      s.trunkRuns 0 = true ∧ (s.walk 0).deferred = [] ∧ (s.walk 0).rest = [e] ∧ s.time.phase < Config.fillTick ∧ s.permitted 0 e = true ∧
      s.mute = false ∧ s.ck.fundamental = false ∧ e.kind = 0 ∧ s.time.phase + s.f (Reg.TM_PORT_RTT_RTT 0) < 4375) ∧
    (let e := pent 0x11 1;
      let s := ((((walking 100 []).setCf 0x11 Cx.valid 1).setCf 0x11 Cx.granules 2).writeHalf 0x11 7 [9]).setWalk 0
        ⟨[], [e], 0, 0, [], false, []⟩;
      s.permitted 0 e = true ∧ s.outBlock 0x11 s.mfN = some [9]) ∧
    (let e := pent 0x11 1; let s := ((walking 3075 []).setCf 0x11 Cx.valid 1).setWalk 0 ⟨[], [e], 0, 0, [], false, []⟩;
      s.permitted 0 e = true ∧ (s.outBlock 0x11 s.mfN).isNone = true ∧ s.trunkRuns 0 = true) ∧
    (let e := pent 0x18 0; let s := ((walking 2000 [(Reg.TM_PORT_RTT_RTT 0, 2500)]).setCf 0x18 Cx.valid 1).setWalk 0 ⟨[], [e], 0, 0, [], false, []⟩;
      s.trunkRuns 0 = true ∧ (s.walk 0).rest = [e] ∧ e.kind = 0 ∧ 4375 ≤ s.time.phase + s.f (Reg.TM_PORT_RTT_RTT 0) ∧
      s.transmits 0 s.mfN e = true) ∧
    (let e := pent 0x18 0; let s := ((walking 3075 []).setCf 0x18 Cx.valid 1).setWalk 0 ⟨[], [e], 0, 0, [], false, []⟩;
      s.trunkRuns 0 = true ∧ (s.walk 0).rest = [e] ∧ Config.fillTick ≤ s.time.phase ∧ s.transmits 0 s.mfN e = true) ∧
    (let e := pent 0x18 0; let s := (walking 3124 []).setWalk 0 ⟨[e], [], 0, 0, [], false, []⟩;
      s.trunkRuns 0 = true ∧ (s.walk 0).deferred = [e] ∧ Config.fillTick ≤ s.time.phase) ∧
    (let s := (walking 100 []).setXfer 1 (some { xf .control 0 with owner := .tm 0, stage := 0, setup := List.replicate 16 0 });
      s.isPartner = false ∧ s.npOpen 0 = true ∧ s.waiting 0 ≠ [] ∧ s.bus.resync = [] ∧ (s.trunk 0).slotOn = false ∧ s.pingDue 0 = none ∧
      (let s := s.updTrunk 0 (fun r => { r with slotOn := true });
        s.npOpen 0 = true ∧ s.waiting 0 ≠ [] ∧ (s.trunk 0).slotOn = true) ∧
      (let s := { s with tree := { s.tree with todo := [(0, [⟨.ping 5 2, true, true, none, 0⟩])] } };
        s.isPartner = false ∧ s.npOpen 0 = true ∧ s.bus.resync = [] ∧ s.pingDue 0 = some 5) ∧
      (s.pickNp 0 ((s.waiting 0).filter (fun x => s.served x.2.1))).any (fun e => !e.2.2.isEmpty) = true) ∧
    (let s := atTime 8 100 25000 (live ([portIn 8 4, (Reg.TS_CTRL_EN, 1), lane 8 3] ++ paired 2 3));
      let s := { s with pu := { s.pu with relay := [(8, [1])] } };
      s.isPartner = true ∧ s.trunkRuns 8 = true ∧ s.mute = false ∧ s.walkOver 8 = true ∧ s.time.phase < Config.fillTick ∧
      s.inSatin = false ∧ s.pu.relay.find? (fun x => x.1 == 8) = some (8, [1])) := by decide +kernel

/-- The entry cannot be read: the walk goes on with the other list, nothing is sent, and the next walks leave the list out (R435). -/
theorem test_walker_leaves_a_damaged_list :
    let a := pent 0x18 0; let b := { pent 0x28 0 with k := 3 }
    let s := (((walking 100 []).setCf 0x18 Cx.valid 1).setEntries (listIx (nodeIx 0 a.k a.phase) 0) 0 [a]).setWalk 0
      ⟨[], [a, a, b], 0, 0, [], false, []⟩
    let t := s.walkerIssue 0 (some (.list 0x40))
    (t.walk 0).rest = [b] ∧ t.out = s.out ∧ t.ts.damaged = [(0, a.k, a.phase, 0, 0)] ∧ s.sound 0 a = true ∧ t.sound 0 a = false ∧
      t.sound 0 b = true ∧ t.f Reg.GLB_ERR_INFO_SCOPE = 4 := by decide +kernel

/-- An image of 192 bytes: its header (R214), whose tables stand at 128 and 160, and records of zeros. -/
def imageBytes (typ gid base nodes gens cyc genOff crc : Nat) : List Byte :=
  leBytes 4 0x49475847 ++ leBytes 2 1 ++ leBytes 2 typ ++ leBytes 4 gid ++ leBytes 4 base ++ leBytes 4 192 ++ leBytes 4 nodes ++
    List.replicate 6 0 ++ leBytes 6 gens ++ leBytes 4 0 ++ leBytes 4 cyc ++ leBytes 8 0 ++ leBytes 4 128 ++ List.replicate 16 0 ++
    leBytes 4 genOff ++ List.replicate 48 0 ++ leBytes 4 crc ++ List.replicate 64 0

/-- A full image with one clip generator's GEN node, and a patch of it, with the CRC-32 of their bytes. -/
def genNode : Node := ⟨.gen 0, 1, 0, 0, 10, [], 3, 0xFFFF, 0, 0, 0, false, []⟩
def image : ImageFile := ⟨imageBytes 0 0x1234 0 1 1 10 160 0x16A03BBC, [genNode], [], [(0, .clip)], [], [], true⟩
def patch : ImageFile := ⟨imageBytes 1 0x1235 0x1234 0 0 0 0 0x781A22A0, [], [], [], [], [], true⟩

/-- `s` with that image in force. -/
def playing (s : State) : State := { s with mre := { s.mre with image := some image } }

/-- `s` with a pending swap. -/
def swapping (w : Swap) (s : State) : State := { s with mre := { s.mre with swap := some w } }

theorem test_meets_ScheduleAndImageSwitchAtTheirMarks :
    (let s := atTime 99 0 0 (with_ []); let s := { s with ts := { s.ts with commit := some ⟨100, [adm], false⟩ } };
      s.ts.commit = some ⟨100, [adm], false⟩ ∧ s.mfN + 1 = 100) ∧
    (let s := atTime 100 0 0 (with_ []); let s := { s with ts := { s.ts with commit := some ⟨100, [adm], true⟩ } };
      s.ts.commit = some ⟨100, [adm], true⟩ ∧ 100 ≤ s.mfN) ∧
    (let s := atTime 99 0 0 (playing (with_ [])); s.mfN + 1 = 100 ∧ s.mre.image = some image ∧ image.header.graphId = patch.header.baseId) ∧
    (let w : Swap := ⟨100, [adm], some image, [], false⟩; let s := swapping w (atTime 99 0 0 (with_ []));
      s.mre.swap = some w ∧ w.taken = false ∧ s.mfN + 1 = w.m) ∧
    (let w : Swap := ⟨100, [adm], none, [patch], false⟩; let s := swapping w (atTime 99 0 0 (with_ []));
      s.mre.swap = some w ∧ w.taken = false ∧ s.mfN + 1 = w.m) ∧
    (let w : Swap := ⟨100, [adm], some image, [], true⟩; let s := atTime 101 0 0 (with_ []);
      let s := { s with mre := { s.mre with swap := some w } };
      s.mre.swap = some w ∧ w.taken = true ∧ w.m + 1 ≤ s.mfN) ∧
    (let e := entry [0x8C00, 0, 0, 0, 192]; let s := live []; let s := { s with mre := { s.mre with loads := [(adm, e)] } };
      s.mre.swap = none ∧ s.mre.loads = [(adm, e)] ∧ image.header.magic = 0x49475847 ∧ image.header.format = 1 ∧ image.header.typ = 0 ∧
      image.crcGood = true ∧ s.fullOk image (sqeDw e 4).toNat = true ∧ s.graphRight adm.fn.val = true ∧
      image.nodes.all (fun n => s.nodeGranted n n.kind) = true ∧ s.imageRefused image.header = none) := by decide +kernel

theorem test_meets_OperationsRunThroughTheirQueues :
    (let o : OpRec := ⟨0, 9, 1, false⟩; let s := playing (live [(Reg.GD_CTRL_AFFINITY_EN, 1)]);
      let s := { s with gd := { s.gd with queue := [o] } };
      s.gd.queue = [o] ∧ s.releaseUsed < 8192 ∧ s.idleGpes.contains 3 = true ∧ mayTake 3 o.prio = true ∧ s.lastGpe o.node = 3) ∧
    (let o : OpRec := ⟨0, 9, 1, true⟩; let s := playing (live []);
      let s := { s with gd := { s.gd with queue := [o], gpes := [(3, some ⟨1, 9, none⟩)] } };
      s.releaseUsed < 8192 ∧ s.idleGpes.contains 0 = true ∧ mayTake 0 o.prio = true ∧ s.waitOver o = true ∧
      s.idleGpes.contains (s.lastGpe o.node) = false ∧ s.idleGpes.find? (fun i => mayTake i o.prio) = some 0) ∧
    (let s := playing (live []); let s := { s with gd := { s.gd with gpes := [(63, some ⟨0, 9, none⟩)] } };
      s.gd.flows = [] ∧ s.run 63 = some ⟨0, 9, none⟩ ∧ s.nodeAt 0 9 = some genNode ∧ s.mre.faulted.contains 0 = false ∧ hasOutput genNode.kind = true) ∧
    (let s := playing (live []); let s := { s with gd := { s.gd with spills := [(0, 9)] } };
      s.gd.spills = [(0, 9)] ∧ s.prioOf 0 = 1 ∧ s.depth 1 < 4096) ∧
    (let s := live []; let s := { s with gd := { s.gd with held := [(7, .clip 0), (1, .block 0x18)] } };
      s.accepts 7 = true ∧ s.gd.held.find? (fun x => x.1 == 7) = some (7, .clip 0) ∧
      s.gd.held.find? (fun x => x.1 == 1) = some (1, .block 0x18)) ∧
    (let c : ClipRun := ⟨io, 0, 6, 1, 0, 0, 0, 0, none, 0, 0, 0, 64, 0, 0⟩; let s := (live []).setGen 255 { GenSt.zero with clips := [c] };
      (s.gen 255).noticed = false ∧ s.accepts 7 = true ∧ (s.gen 255).clips.all (fun c => c.ready == c.filled) = false) := by decide +kernel

/-- `s` with one timer. -/
def timed (tm : TimerRec) (s : State) : State := { s with gd := { s.gd with timers := [tm] } }

/-- A CORRELATE node of line 7 with pilot mode 1 and 2. -/
def corrNode (mode : Nat) : Node := ⟨.correlate ⟨7, 0, 0, 0, 0, 0, 0, 0, 0, 0, 0, 0, 0, 0, mode⟩, 1, 0, 0, 10, [], 0, 0xFFFF, 0, 0, 0, false, []⟩
def corrImage (mode : Nat) : ImageFile := { image with nodes := [corrNode mode] }

/-- An audit whose parts `l` are still to run. -/
def audit (l : List Nat) (running : Bool) : Audit :=
  ⟨some adm, 0, 15, 0, 10, 1, 5, 0, 0, 0, 0, l, running, false, [], 0, [], [], 0, 0, 0, 0, 0, [], 0, 0, 0, 0, [], [], none, 0, 0, none, 0, none, 0, 0⟩
def auditing (a : Audit) (s : State) : State := { s with sv := { s.sv with audit := some a } }

theorem test_meets_TimersDoTheirWork :
    ([TimerKind.clipStart, .clipRepeat, .clipStop, .pilot, .sweepSlot].all (fun k =>
      let tm : TimerRec := ⟨3, 1, 9, k, 7, some io, 1, false⟩; let s := timed tm (atTime 8 0 0 (with_ []));
      s.gd.timers.find? (fun t => t.seq == 3 && t.kind == k) == some tm && decide (tm.e ≤ s.mfN + 1) && !s.inSatin &&
        !s.slotNowDue tm && s.timerTurn tm && decide (s.tickFired < 1024)) = true) ∧
    (let tm : TimerRec := ⟨3, 1, 9, .clipStart, 7, some io, 1, false⟩; let s := timed tm (atTime 8 0 0 (with_ []));
      let u : State := { s with gd := { s.gd with timers := [⟨2, 1, 8, .pilot, 0, none, 0, false⟩, tm] } };
      let v := timed tm (atTime 7 0 0 (with_ [])); let w := timed tm (atTime 8 0 0 (with_ [(Reg.PMU_STATUS_STATE, 2)]));
      u.timerTurn tm = false ∧ v.mfN + 1 < tm.e ∧ w.inSatin = true ∧ tm.prio ≠ 0 ∧
      1024 ≤ State.tickFired { s with gd := { s.gd with tick := (8, 1024) } } ∧
      [u, v, w].all (fun s => s.gd.timers.find? (fun t => t.seq == 3 && t.kind == .clipStart) == some tm) = true) ∧
    (let tm : TimerRec := ⟨3, 7, 8, .sweepSlot, 0, none, 0, false⟩; let a := { audit [0] true with partMf := 8 };
      let s := auditing a (timed tm (atTime 8 0 0 (with_ [])));
      s.gd.timers.find? (fun t => t.seq == 3 && t.kind == .sweepSlot) = some tm ∧ s.inSatin = false ∧ tm.e = s.mfN ∧
      s.sv.audit = some a ∧ a.partMf = s.mfN ∧ a.running = true ∧ a.left.head? = some 0) ∧
    (let c : ClipRun := ⟨io, 0, 6, 1, 2, 0, 0, 0, none, 0, 0, 0, 0, 0, 0⟩; let s := (with_ []).setGen 7 { GenSt.zero with clips := [c] };
      (s.gen 7).clips.find? (fun c => some c.ref == some io) = some c) ∧
    (let s := with_ []; let s := { s with mre := { s.mre with image := some (corrImage 1) } };
      let s := s.setLine 7 { LineRec.zero with pilotDue := true };
      (s.corr 7).any (fun x => x.2.2.pilotMode == 1) = true ∧ (s.line 7).pilotDue = true ∧ (s.line 7).slot = none) ∧
    (let s := with_ []; let s := { s with mre := { s.mre with image := some (corrImage 2) } };
      let s := s.setLine 7 { LineRec.zero with pilotDue := true, slot := some ⟨0, false, some 4000⟩ };
      (s.corr 7).any (fun x => x.2.2.pilotMode == 2) = true ∧ (s.line 7).pilotDue = true ∧ (s.line 7).slot.any (·.covers 9) = true) ∧
    (let tm : TimerRec := ⟨3, 1, 9, .clipStop, 7, none, 0, false⟩; let s := timed tm (atTime 8 0 0 (with_ []));
      s.gd.timers.find? (fun t => t.seq == 3 && t.kind == .clipStop) = some tm ∧ tm.e ≤ s.mfN + 1 ∧ s.inSatin = false ∧
      s.slotNowDue tm = false ∧ s.timerTurn tm = true ∧ s.tickFired < 1024 ∧ tm.ref = none) ∧
    (let a := audit [0] true; let s := auditing a (with_ []);
      s.sv.audit = some a ∧ a.running = true ∧ a.left.head? = some 0) := by decide +kernel

/-- An event of the supervision unit. -/
def svEvent : UnitEvent := ⟨1, 7, List.replicate 8 0⟩

theorem test_meets_TapsWindowsAndRefreshes :
    (let s := atTime 64 0 0 ((with_ []).setTap 63 ⟨[], [(0, [1])], 0⟩);
      s.chunkOver 63 0 = true ∧ s.isPartner = false ∧ (s.tap 63).recs = [(0, [1])] ∧ (s.tap 63).bufs = []) ∧
    (let s := atTime 63 0 0 ((with_ []).setTap 63 ⟨[], [(0, [1])], 0⟩);
      (s.tap 63).recs = [(0, [1])] ∧ s.mfN < 64 * (0 / 64) + 64 ∧ ∀ x ∈ (s.tap 63).recs, x.1 < 64 * (0 / 64) + 63) ∧
    (let b : TapBuf := ⟨io, 0x1000, 1152, 0, none⟩; let s := atTime 64 0 0 <| (with_ []).setTap 0 ⟨[b], [(0, [1])], 0⟩;
      0 + (chunkBytes (s.tap 0).recs 0 (s.tapChans 0)).length ≤ b.len ∧ 1151 < 0 + 1152 ∧
      s.chunkOver 0 0 = true ∧ (s.tap 0).bufs = [b] ∧ (s.tap 0).bufs.any (fun b => s.frozen b.ref.fn.val) = false ∧
      s.d3hot b.ref.fn.val = false ∧ s.chanOf b.ref = none ∧ (s.updFn 0 (fun r => { r with d3hot := true })).d3hot b.ref.fn.val = true) ∧
    (let s := live []; s.pfServes Reg.MRE_ADMIT_CFG ∧ s.pfServes Reg.GD_OBS_CTRL ∧ s.pairFormed = false) ∧
    (let o := ObsWin.new 0 3; let s := atTime 8 0 0 (with_ []); let s := { s with gd := { s.gd with obsEnd := some o } };
      s.gd.obsEnd = some o ∧ (with_ []).gd.obsEnd = none) ∧
    (let s := atTime 800 0 0 (with_ [(Reg.SV_CTRL_EN, 1)]); s.flag Reg.SV_CTRL_EN = true ∧ s.mfN % 800 = 0 ∧
      s.sv.refreshed ≠ some s.mfN ∧ s.inSatin = false) ∧
    (let s := atTime 800 0 0 (with_ []); let s := { s with sv := { s.sv with refreshed := some 800 } }; s.sv.refreshed = some s.mfN) ∧
    (let s := with_ []; let s := { s with mre := { s.mre with image := some (corrImage 1) } };
      let s := s.setLine 7 { LineRec.zero with missing := 400, lostRun := 11 };
      s.boundLines = [7] ∧ 400 ≤ (s.line 7).missing ∧ 12 ≤ (s.line 7).lostRun + 1 ∧ (s.line 7).state ≠ 1) ∧
    (let l : LineRec := { LineRec.zero with missing := 399, applied := 80, lostRun := 10 };
      l.missing < 400 ∧ 80 ≤ l.applied ∧ l.lostRun + 1 < 12 ∧ LineRec.zero.applied < 80) ∧
    (let p : PilotRec := ⟨0, false, some 100⟩; let s := (atTime 100 0 0 (with_ [])).setLine 7 { LineRec.zero with pilot := some p };
      s.sv.audit = none ∧ (s.line 7).pilot = some p ∧ p.ends = some 100 ∧ 100 ≤ s.mfN) ∧
    (let s := withRings 0 (live [(Reg.SV_EVENT_CTRL_CQ, 1), (Reg.SV_EVENT_CTRL_EN, 1)]);
      let s := { s with sv := { s.sv with held := [svEvent] } };
      s.isPartner = false ∧ s.flag Reg.SV_EVENT_CTRL_EN = true ∧ (with_ (paired 2 3)).isPartner = true ∧
      (with_ []).flag Reg.SV_EVENT_CTRL_EN = false ∧ s.sv.held = [svEvent] ∧ (s.postEvent (s.f Reg.SV_EVENT_CTRL_CQ) svEvent.dws 3).isSome = true) := by
  unfold State.pfServes; decide +kernel

theorem test_meets_NightAuditRunsItsParts :
    (let a := audit [1, 2] false; let s := auditing a (atTime 8 0 0 (with_ []));
      s.sv.audit = some a ∧ a.running = false ∧ (if a.begun then s.mfN % 8 = 0 else a.startMf ≤ s.mfN) ∧ a.left.head? = some 1) ∧
    (let a := audit [2] false; let s := auditing a (atTime 8 0 0 (with_ []));
      a.left.head? = some 2 ∧ s.f (Reg.LX_LANE_CTRL_EN 191) = 0 ∧ s.laneState 191 = 0 ∧ s.testAllowed 191 = true ∧
      s.miodelLane 191 = false) ∧
    (let a := audit [1] true; let s := auditing a (with_ [lane 191 3]);
      a.running = true ∧ a.left.head? = some 1 ∧ s.laneState 191 = Ls.up ∧ s.flag (Reg.LX_EYE_CTRL_SW_OWN 191) = false ∧
      (s.setB (Reg.LX_EYE_CTRL_SW_OWN 191) true).flag (Reg.LX_EYE_CTRL_SW_OWN 191) = true) ∧
    (let a := audit [2] true; let s := auditing a (atTime 80000 0 0 (with_ [])); a.running = true ∧ a.left.head? = some 2 ∧
      a.partMf + 80000 ≤ s.mfN ∧ (atTime 79999 0 0 s).mfN < a.partMf + 80000) ∧
    (let a := { audit [3] true with hubsLeft := [5] }; let s := auditing a (atTime 8 0 0 (plug (dev 6 3 0) (plug (dev 5 1 0) (with_ []))));
      let s := plug { dev 6 3 0 with path0 := ⟨0, [(5, 1)]⟩ } s;
      let s := { s with ts := { s.ts with active := [(6 * 16 + 8, some ⟨0, 0, 4, false, 0⟩)] } };
      a.left.head? = some 3 ∧ a.hub = none ∧ a.hubsLeft = [5] ∧ s.mfN % 8 = 0 ∧ a.f = 0 ∧ s.subInputs 5 ≠ []) ∧
    (let r : AuditHub := ⟨5, 0, 0, 0, 0, 0, 0⟩; let a := { audit [3] true with hub := some r, phase := 1, f := 8, hubsLeft := [6] };
      let s := atTime 144 0 0 (with_ []); a.hub = some r ∧ a.phase = 1 ∧ a.f + 64 ≤ s.mfN ∧ a.f + 72 ≤ s.mfN ∧ a.f + 136 ≤ s.mfN ∧
      a.hubsLeft = [6] ∧ (atTime 145 0 0 s).mfN = a.f + 137) := by decide +kernel

/-- An entry may start, every check of it holds, and the engine of its channel runs. -/
def startsB (s : State) (r : EntryRef) (e : Sqe) : Bool :=
  s.entryMay r e && s.check r e == St.ok && (sqeChan e).all (fun c => !(s.begun r e).stopped (c / 64))

theorem starts_of {s : State} {r : EntryRef} {e : Sqe} (h : startsB s r e = true) : s.starts r e := by
  simp only [startsB, Bool.and_eq_true, beq_iff_eq] at h
  refine ⟨h.1.1, h.1.2, fun c hc => ?_⟩
  have := h.2
  rw [hc] at this
  simpa using this

/-- A state in which entries run: rings 2, DMA window 0 over all of host memory. -/
def work (l : List (Fld × Nat)) : State :=
  let s := withRings 0 (live l)
  { s with bm := { s.bm with windows := [(0, some ⟨0, 2 ^ 64, true, true⟩)] } }

/-- The entry whose opcode is `op` and whose dwords 1 and later are `l`. -/
def ent (op : Nat) (l : List Nat) : Sqe := withOp (entry (0 :: l)) op

theorem test_meets_EntriesAreCheckedAndQueued :
    (let s := work []; startsB s io (ent 1 []) = true ∧ s.reports io (sqRec 1 2) (cqRec 1) ∧
      s.entryMay io (ent 1 [1]) = true ∧ s.check io (ent 1 [1]) ≠ St.ok) ∧
    (let s := work []; let y : CacheEnt := ⟨io, ent 0x20 [0x10040, 0x1000]⟩; let s := { s with qe := { s.qe with cache := [y] } };
      s.dueEntry 0 2 = some y ∧ startsB s y.ref y.sqe = true ∧ hostFits y.sqe .none = true ∧ sqeChan y.sqe = some 64 ∧
      (s.setF Reg.BM_STATUS_STOPPED 2).check y.ref y.sqe = St.ok ∧ ((s.setF Reg.BM_STATUS_STOPPED 2).begun y.ref y.sqe).stopped 1 = true) ∧
    (let e := ent 0x30 [0, 0, 0, 0x1000, 0, 6, 1, 0, 0, 0]; let s := playing (work []);
      s.role = 0 ∧ startsB s io e = true ∧ s.genMode 0 = some .clip ∧ s.startMf s.mfN (sqeMf e 2) = some 16 ∧ (s.gen 0).clips.length < 4 ∧
      s.timersFree 1 = true ∧ s.timersFree 2 = true) ∧
    (let e := ent 0x30 [0, 3, 0, 0x1000, 0, 6, 1, 0, 0, 0]; let s := atTime 8 0 0 (playing (work []));
      startsB s io e = true ∧ s.startMf s.mfN (sqeMf e 2) = none) ∧
    (let e := ent 0x31 [0, 0, 0]; let s := playing (work []);
      startsB s io e = true ∧ s.startMf s.mfN (sqeMf e 2) = some 16 ∧ s.timersFree 1 = true) ∧
    (let e := ent 0x32 [63, 0x1000, 0, 1152 * 64, 0]; let s := work [];
      let s := { s with mre := { s.mre with image := some { image with nodes := [genNode, { genNode with kind := .tap 63, inputs := [0] }] } } };
      startsB s io e = true ∧ (s.tap 63).bufs.length < 16) := by
  unfold State.reports; decide +kernel

theorem test_meets_ChannelEntriesTakeTheirChannels :
    (let s := work []; startsB s io (ent 2 [1023, 0x1000, 0]) = true ∧ startsB s io (ent 0x20 [0, 0x1000, 0, 0x2000, 0, 64]) = true ∧
      startsB s io (ent 0x21 [0, 0x1000, 0, 0x2000, 0, 16, 64, 0x4000, 0]) = true ∧
      s.cf 0x11 Cx.valid = 0) ∧
    (let d := { dev 5 3 0 with detachedAt := some 0, byReset := true };
      let s := plug d ((((work []).setCf 0x51 Cx.valid 1).setCf 0x51 Cx.kind 1).setCf 0x51 Cx.detached 1);
      startsB s io (ent 0x10 [0x10005, 64, 0, 0x1000, 0]) = true ∧ s.cf 0x51 Cx.valid = 1 ∧ s.cf 0x51 Cx.detached = 1 ∧
      s.dev (0x51 / 16) = some d) ∧
    (let s := ((work []).setCf 0x51 Cx.valid 1).setCf 0x51 Cx.kind 1;
      startsB s io (ent 0x10 [0x10005, 64, 0, 0x1000, 0]) = true ∧ s.cf 0x51 Cx.valid = 1 ∧ s.cf 0x51 Cx.detached = 0 ∧
      sqeHandle (ent 0x10 [0x10005, 64, 0, 0x1000, 0]) = 0x51) ∧
    (let s := ((work []).setCf 0x59 Cx.valid 1).setCf 0x59 Cx.kind 1;
      startsB s io (ent 0x11 [0x90005, 64, 0, 0x1000, 0]) = true ∧ s.cf 0x59 Cx.valid = 1) ∧
    (let s := ((work []).setCf 0x51 Cx.valid 1).setCf 0x51 Cx.kind 3; startsB s io (ent 0x18 [0x10005, 64, 0, 0x1000, 0]) = true) ∧
    (let s := ((work []).setCf 0x59 Cx.valid 1).setCf 0x59 Cx.kind 3; startsB s io (ent 0x19 [0x90005, 64, 0, 0x1000, 0]) = true) ∧
    (let e := ent 0x12 [5, 0x80, 0, 16, 0, 0x1000, 0, 0]; let s := (work []).setCf 0x50 Cx.valid 1;
      startsB s io e = true ∧ sqeF e 1 0 16 ≠ 0xFFFF ∧ s.cf 0x50 Cx.valid = 1 ∧ s.cf 0x50 Cx.detached = 0) ∧
    (let e := ent 0x12 [0xFFFF, 0x20A0, 191, 8, 0, 0x1000, 0, 0]; let s := work [];
      startsB s io e = true ∧ sqeF e 1 0 16 = 0xFFFF ∧ field (setupOf e) 0 1 = 0xA0 ∧ field (setupOf e) 1 1 = 0x20 ∧
      field (setupOf e) 4 4 = 191 ∧ (s.begun io e).portExists 191 = true ∧
      ((s.begun io e).portStatusBytes 191).take (xferLen e) ≠ []) := by decide +kernel

theorem test_meets_AdminEntriesOfAFunction :
    (let s := work []; startsB s adm (ent 0x80 [3, 0x20006, 0, 0x10000, 0, 0x8000, 0]) = true ∧ freeGlobs s.sqGlobs ≠ [] ∧
      startsB s adm (ent 0x81 [2]) = true ∧ s.sq 0 2 = some (sqRec 1 2) ∧ s.cachedOf 0 2 = [] ∧ s.startedOf 0 2 = [] ∧ s.cqeOwed 0 2 = false ∧
      startsB s adm (ent 0x82 [3, 0x10106, 0, 0x10000, 0, 0x8000, 0]) = true ∧ freeGlobs s.cqGlobs ≠ [] ∧
      startsB s adm (ent 0x84 [1, 0x1000, 0]) = true ∧ startsB s adm (ent 0x98 [63, 0x1000, 0, 0x1000, 0, 3]) = true ∧
      startsB s adm (ent 0x95 [15]) = true ∧ s.stopped 15 = false ∧ startsB s adm (ent 0x85 [1024, 2, 0xFFFFFFFF]) = true ∧
      s.role = 0) ∧
    (let s := (work []).setCq 0 3 (some (cqRec 5));
      startsB s adm (ent 0x83 [3]) = true ∧ s.cq 0 3 = some (cqRec 5) ∧ s.boundSqs 0 3 = [] ∧ s.eventNames 5 = false ∧
      (cqRec 5).hold = []) ∧
    (let s := work []; let e := ent 0x86 [7, 0, 0, 0x1000, 0, 0x1000];
      startsB s adm e = true ∧ sqeDw e 2 = 0 ∧ sqeDw e 3 = 0 ∧ ((adm |> fun r => (s.begun r e).logPage 0 7 false).any (fun p =>
        decide (0 < min p.recs.length ((sqeDw e 6).toNat / p.size)))) = true) ∧
    (let s := work [(Reg.BM_STATUS_STOPPED, 0x8000)]; startsB s adm (ent 0x95 [15]) = true ∧ s.stopped 15 = true) := by decide +kernel

/-- A commit that is pending. -/
def committing (s : State) : State := { s with ts := { s.ts with commit := some ⟨100, [adm], false⟩ } }

/-- A staging command applies, is refused, or exceeds the share. -/
def stageOk : StageAns → Bool
  | .ok _ => true
  | _ => false

/-- Device 5 on root port 0 with a periodic IN endpoint 0x58 and an OUT endpoint that can be bound to groups. -/
def sched (s : State) : State :=
  plug { dev 5 3 0 with eps := [⟨0, 0, 64, 0, 0, 2⟩, ⟨8, 0, 64, 0, 0, 0⟩] }
    ((((s.setCf 0x58 Cx.valid 1).setCf 0x58 Cx.maxPacket 64).setCf 0x58 Cx.trunk0 0).setCf 0x50 Cx.valid 1)

theorem test_meets_StagingAndCommitEntries :
    (let s := committing (sched (work [])); s.role = 0 ∧ startsB s adm (ent 0x88 [0x80005, 0x400, 0]) = true ∧
      startsB s adm (ent 0x89 [0x80005]) = true ∧ startsB s adm (ent 0x8E [1, 5, 1]) = true ∧ s.ts.commit.isSome = true ∧
      s.logAfter ≤ Config.logRecords) ∧
    (let e := ent 0x88 [0x80005, 0x400, 0]; let s := sched (work []);
      s.ts.commit = none ∧ startsB s adm e = true ∧ stageOk ((s.begun adm e).applyStage adm (stageCmd e)) = true) ∧
    (let e := ent 0x88 [0x80005, 0x4100, 0]; let s := sched (work []);
      startsB s adm e = true ∧ (match (s.begun adm e).applyStage adm (stageCmd e) with | .refused _ => true | _ => false) = true) ∧
    (let e := ent 0x89 [0x80005]; let s := sched (work []);
      let s := { s with ts := { s.ts with staged := [(0x58, some ⟨0, 0, 4, false, 0⟩)] } };
      startsB s adm e = true ∧ s.stagedRec (stageKey e) ≠ none ∧ stageOk ((s.begun adm e).applyStage adm (stageCmd e)) = true) ∧
    (let e := ent 0x8E [1, 5, 1]; let s := sched (work []); (s.begun adm e).meets (.list 0 0 4 0 false 0) = true ∧
      ((committing s).begun adm e).meets (.log 0x1FFFFF) = true ∧ startsB s adm e = true ∧ stageOk ((s.begun adm e).applyStage adm (stageCmd e)) = true) ∧
    (let r : EntryRef := ⟨1, 0, 0⟩; let e := ent 0x88 [0x80005, 0x400, 0]; let s := (sched (work [])).setCf 0x58 Cx.function 1;
      let s := { s with fn := { s.fn with grants := [(0, { Grant.empty with handles := [(0x50, 16)] })] } };
      startsB s r e = true ∧ (match (s.begun r e).applyStage r (stageCmd e) with | .shareExceeded => true | _ => false) = true) ∧
    (let s := work []; let e := ent 0x8A [0, 4, 0]; startsB s adm e = true ∧ s.ts.commit = none ∧ s.mfN + s.commitLead ≤ sqeMf e 2) ∧
    (let s := work []; let e := ent 0x8A [0, 3, 0]; startsB s adm e = true ∧ sqeMf e 2 < s.mfN + s.commitLead) := by decide +kernel

theorem test_meets_GraphAndAuditEntries :
    (let e := ent 0x8C [0, 0x1000, 0, 192]; let s := work []; let u := s.begun adm e;
      s.role = 0 ∧ startsB s adm e = true ∧ s.mre.swap = none ∧ u.fullOk image (sqeDw e 4).toNat = true ∧ u.graphRight 0 = true ∧
      image.nodes.all (fun n => u.nodeGranted n n.kind) = true ∧ u.imageRefused image.header = none) ∧
    (let w : Swap := ⟨100, [adm], some image, [], false⟩; let s := swapping w (work []);
      startsB s adm (ent 0x8C [0, 0x1000, 0, 192]) = true ∧ s.mre.swap.isSome = true ∧
      startsB s adm (ent 0x8D [0, 100, 0]) = true ∧ w.m = sqeMf (ent 0x8D [0, 100, 0]) 2) ∧
    (let s := work []; let s := { s with mre := { s.mre with staged := some image } }; let e := ent 0x8D [0, 4, 0];
      startsB s adm e = true ∧ s.mre.swap = none ∧ s.mfN + s.commitLead ≤ sqeMf e 2 ∧ s.mre.staged.isSome = true ∧
      startsB s adm (ent 0x8D [0, 3, 0]) = true ∧ sqeMf (ent 0x8D [0, 3, 0]) 2 < s.mfN + s.commitLead) ∧
    (let e := ent 0x96 [2, 0, 0, 0, 0, 0, 0, 0, 0, 0x1000, 0, 4096]; let s := work [];
      startsB s adm e = true ∧ sqeF e 1 0 4 ≠ 0 ∧ s.sv.audit = none ∧ s.startMf s.mfN (sqeMf e 4) = some 16 ∧
      startsB (auditing (audit [1] true) s) adm e = true ∧ startsB s adm (ent 0x96 [0]) = true) := by decide +kernel

/-- A grant of nothing, as bytes; a VF that rests in its freeze. -/
def emptyGrant : List Byte := 1 :: List.replicate 255 0
def resting (v : Nat) (s : State) : State :=
  { s with fn := { s.fn with vfEnable := true, numVfs := 1024, vfs := [(v, { VfRec.reset with frozen := true })] } }

/-- A blob of a VF that holds nothing. -/
def emptyBlob : List Byte := (work []).blob 1023

theorem test_meets_VirtualFunctionEntries :
    (let e := ent 0x90 [1023, 0x1000, 0, 256]; let s := work []; let u := s.begun adm e;
      sqeF e 1 0 10 = 1023 ∧ startsB s adm e = true ∧ (grantOf emptyGrant).any (fun g => u.grantCheck 1024 g == St.ok &&
        !u.othersHold 1024 g (·.handles) && !u.othersHold 1024 g (·.groups) && !u.takesMirrored 1024 g) = true ∧ grantOf [] = none) ∧
    (let e := ent 0x91 [1023]; let s := work [];
      startsB s adm e = true ∧ (s.vfRec 1023).resetBusy = false ∧ (s.vfRec 1023).frozen = false ∧ s.vfAtRest 1023 = false ∧
      startsB (resting 1023 s) adm e = true ∧ (resting 1023 s).vfAtRest 1023 = true) ∧
    (let s := work []; let s := { s with fn := { s.fn with vfs := [(0, { VfRec.reset with resetBusy := true })] } };
      startsB s adm (ent 0x91 [0]) = true ∧ (s.vfRec 0).resetBusy = true) ∧
    (let e := ent 0x92 [1023, 0x1000, 0, 0x100000]; let s := resting 1023 (work []);
      let w := (((s.begun adm e).endClipsOf 1024 St.aborted).endTapsOf 1024 St.aborted).dropStops 1024;
      startsB s adm e = true ∧ s.vfAtRest 1023 = true ∧ (s.chansOf 1024).isEmpty = true ∧ (w.blob 1023).length ≤ (sqeDw e 4).toNat ∧
      (w.heldOf 1024).length ≤ 16384 ∧ startsB (work []) adm e = true ∧ (work []).vfAtRest 1023 = false) ∧
    (let e := ent 0x93 [1023, 0x1000, 0, 4096]; let s := work [];
      startsB s adm e = true ∧
      (s.sqsOf 1024).any (· != 0) = false ∧ (s.cqsOf 1024).any (· != 1) = false ∧ s.flag (Reg.QE_ADMIN_CFG_EN 1024) = false ∧
      s.inReset 1024 = false) ∧
    (let e := ent 0x94 [1023]; startsB (work []) adm e = true ∧ startsB (resting 1023 (work [])) adm e = true) := by decide +kernel

set_option maxRecDepth 20000 in
theorem test_meets_VirtualFunctionEntries_blob : (readBlob emptyBlob).any (fun y =>
    ((work []).begun adm (ent 0x93 [1023, 0x1000, 0, 4096])).blobGranted 1024 y) = true := by decide +kernel

theorem test_meets_PairRoleEntries :
    (let s := work (paired 1 3); startsB s adm (withAction (entry []) 0) = true ∧ s.reports adm (sqRec 0 1) (cqRec 0) ∧
      startsB s adm (withAction (entry []) 1) = true ∧ s.isHolder = true ∧ s.lockstep = true ∧ s.orderedUp = true ∧
      s.pu.handover = none ∧ startsB s adm (withAction (entry []) 2) = true ∧ s.pstate ≠ 0 ∧ s.pu.leave = none ∧
      startsB s adm (withAction (entry [0, 0, 7]) 4) = true ∧ s.otherRanks.contains 7 = false ∧ s.pu.rank = none ∧
      startsB s adm (withAction (entry [0, 0, 0, 9]) 5) = true) ∧
    (let s := work []; startsB s adm (withAction (entry []) 1) = true ∧ s.isHolder = false ∧
      startsB s adm (withAction (entry []) 3) = true ∧ s.pstate = 0) := by
  unfold State.reports; decide +kernel

/-- `s` with submission ring 2 or completion ring 2 of the PF changed. -/
def sq2 (g : SqRec → SqRec) (s : State) : State := s.setSq 0 2 (some (g (sqRec 1 2)))
def cq2 (g : CqRec → CqRec) (s : State) : State := s.setCq 0 2 (some (g (cqRec 1)))

theorem test_meets_DoorbellsStartScans :
    (let s := work []; s.fnThere 0 = true ∧ s.inReset 0 = false ∧ s.inDormant = false ∧ s.sq 0 2 = some (sqRec 1 2) ∧
      s.mayFetch 0 2 = true ∧ (sqRec 1 2).scanning = false ∧ (sqRec 1 2).enable = true ∧ (sqRec 1 2).faulted = false ∧
      s.sq 0 2047 = none ∧ s.cq 0 2047 = none ∧ s.sq 0 1 = none ∧ s.cq 0 1 = some (cqRec 0) ∧ (cqRec 0).faulted = false ∧
      s.operational = true ∧ s.hostHere = true ∧ s.d3hot 0 = false ∧ s.frozen 0 = false ∧ (cqRec 0).scanning = false) ∧
    (let s := sq2 (fun q => { q with scanning := true }) (work []);
      s.sq 0 2 = some { sqRec 1 2 with scanning := true } ∧ s.mayFetch 0 2 = true) ∧
    (let s := sq2 (fun q => { q with fetchStopped := true }) (work []); s.mayFetch 0 2 = false ∧ s.d3hot 0 = false ∧
      (s.setB Reg.HIF_STATUS_OPERATIONAL false).operational = false) ∧
    (let s := (work []).updFn 0 (fun r => { r with d3hot := true }); s.d3hot 0 = true ∧ s.sq 0 2 = some (sqRec 1 2) ∧
      s.sq 0 2047 = none ∧ s.cq 0 2047 = none) := by decide +kernel

theorem test_meets_ScansCreditAndAdminRings :
    (let s := sq2 (fun q => { q with scanning := true, pos := 63 }) (work []);
      s.sq 0 2 = some { sqRec 1 2 with scanning := true, pos := 63 } ∧ s.mayFetch 0 2 = true ∧ sqeF (entry [1]) 0 0 1 = 1 ∧
      sqeF (entry [0]) 0 0 1 = 0 ∧ s.cacheRoom 0 2 = true ∧ (s.startedOf 0 2).isEmpty = true ∧ (s.cachedOf 0 2).isEmpty = true ∧
      (sqRec 1 2).faulted = false) ∧
    (let s := sq2 (fun q => { q with scanning := true, fetchStopped := true }) (work []);
      s.sq 0 2 = some { sqRec 1 2 with scanning := true, fetchStopped := true } ∧ s.mayFetch 0 2 = false ∧ (sqRec 1 2).enable = true ∧
      (sqRec 1 2).first = none ∧ (sqRec 1 2).invalAgain = false) ∧
    (let s := cq2 (fun c => { c with scanning := true, credit := 63 }) (work []);
      s.cq 0 2 = some { cqRec 1 with scanning := true, credit := 63 } ∧ 63 < 2 ^ (cqRec 1).log2) ∧
    (let s := atTime 1 0 50 (cq2 (fun c => { c with winStart := some 0, modTime := 2 }) (work []));
      let s := s.updFn 0 (fun r => { r with unmasked := [0], pending := [0] });
      s.cq 0 2 = some { cqRec 1 with winStart := some 0, modTime := 2 } ∧ 0 + 25 * 2 ≤ s.now ∧ (cqRec 1).ien = true ∧ s.mayRequest 0 = true ∧
      (s.fnRec 0).funcMask = false ∧ (s.fnRec 0).unmasked.contains (cqRec 1).vector = true ∧ (s.fnRec 0).pending.contains 0 = true) ∧
    (let s := live [(Reg.QE_ADMIN_STATUS_IDLE 0, 1)]; let v : Word := 0x80000606#32;
      s.pfServes (Reg.QE_ADMIN_SQ_BASE_LO 1024) ∧ s.pfServes (Reg.QE_ADMIN_CFG 0) ∧ s.adminFree 0 = true ∧ s.cq 0 1 = none ∧
      bits v 31 1 = 1 ∧ 6 ≤ bits v 0 5 ∧ bits v 0 5 ≤ 16 ∧ 6 ≤ bits v 8 5 ∧ bits v 8 5 ≤ 16) ∧
    (let s := work [(Reg.QE_ADMIN_CFG_EN 0, 1)];
      s.flag (Reg.QE_ADMIN_CFG_EN 0) = true ∧ s.sq 0 0 = some (sqRec 0 1) ∧ (sqRec 0 1).deleting = none ∧ bits 0 31 1 = 0) := by
  unfold State.pfServes; decide +kernel

/-- A MOVE of 8192 bytes on channel 64, its windows, and a read of it. -/
def mv (chain : Bool) (w : List DmaWin) : Job :=
  ⟨io, .move chain, 0x1000, 0x8000, 8192, 0x4000, true, 0x4000, !chain, 0, 0, 0, [], 0, w, none⟩
def rd : HostReq := ⟨64, 0, .data, 0x1000, 4096, false⟩

theorem test_meets_EnginesServeTheirChannels :
    (let s := (work []).setJob 64 (some (mv false []));
      s.engineRuns 1 = true ∧ (s.engine 1).holder = none ∧ s.nextChan 1 none = some 64 ∧ (s.chan 64).job = some (mv false []) ∧
      s.nextRead (mv false []) = some (.data, 0x1000, 4096) ∧ readAllowed (mv false []) .data 0x1000 4096 = true ∧
      (s.engine 1).fetched = none ∧ (s.engine 1).reqs.any (·.prefetch) = false) ∧
    (let s := (work []).setJob 64 (some (mv true []));
      s.nextChan 1 none = some 64 ∧ s.nextRead (mv true []) = some (.desc, 0x4000, 64) ∧ readAllowed (mv true []) .desc 0x4000 64 = false) ∧
    (let s := ((work []).setJob 64 (some (mv false []))).setEngine 1 { EngRec.idle with reqs := [rd], holder := some 64 };
      (s.engine 1).reqs = [rd] ∧ s.stopped 1 = false ∧ rd.prefetch = false ∧ rd.kind = .data ∧ (s.chan rd.chan).job = some (mv false []) ∧
      (mv false []).ending = none ∧ 0 + 4096 < (mv false []).len ∧ s.flag (Reg.BM_FAULT_INFO_VALID 1) = false) ∧
    (let q := { rd with prefetch := true }; let s := (work []).setEngine 1 { EngRec.idle with reqs := [q] };
      (s.engine 1).reqs = [q] ∧ q.prefetch = true) ∧
    (let s := work []; s.sq 0 2 = some (sqRec 1 2) ∧ (sqRec 1 2).faulted = false ∧ s.pfServes Reg.BM_ABORT ∧
      ((s.setJob 1023 (some (mv false []))).chan 1023).job = some (mv false [])) ∧
    (let s := (work []).setEngine 15 { EngRec.idle with restarts := [adm] };
      (s.engine 15).restarts ≠ [] ∧ (s.engine 15).reqs = []) := by
  unfold State.pfServes; decide +kernel

/-- PF window 255 maps device 5, with AtomicOps; the schedule runs on its trunk. -/
def bridged (l : List (Fld × Nat)) : State :=
  plug (dev 5 3 0) (walking 100 ([(Reg.XB_WIN_CFG_EN 255, 1), (Reg.XB_WIN_CFG_DEVICE 255, 5), (Reg.XB_WIN_CFG_ATOMIC 255, 1),
    (Reg.XB_CTRL_EN, 1), (Reg.XB_CTRL_ATOMIC_EN, 1)] ++ l))

/-- A read of 8 bytes that came at tick 0. -/
def acc : Acc := ⟨.read, 0, 8, 0, false, 0⟩

theorem test_meets_AccessesArriveAtViews :
    (let s := bridged [];
      s.viewGate 255 = 0 ∧ s.isPartner = false ∧ s.frozen (viewFn 255) = false ∧ s.flag (faultedF 255) = false ∧
      accessForm 255 0xFFFFF8 8 64 = true ∧ (s.view 255).count + (splitParts 8 0xFFFFF8 8).length ≤ 64 ∧
      accessForm 255 0xFFFFF8 8 512 = true ∧ 0xFFFFF8 % 8 = 0 ∧ 0xFFFFF8 + 8 ≤ viewSize 255 ∧
      s.flag (Reg.XB_WIN_CFG_ATOMIC (s.viewWin 255)) = true ∧ s.flag Reg.XB_CTRL_ATOMIC_EN = true ∧ s.lockable 255 = true ∧
      (s.view 255).count < 64 ∧ s.viewGate 0 = 3 ∧ s.viewGate 256 = 1) ∧
    (let s := bridged [(faultedF 255, 1)];
      s.viewGate 255 = 0 ∧ accessForm 255 0 4 512 = true ∧ accessForm 255 0 4 64 = true ∧ s.flag (faultedF 255) = true) ∧
    (let s := live []; s.pfServes (faultedF 255).addr ∧ s.pfServes (Reg.XB_WIN_CFG 255) ∧ s.pfServes (Reg.XB_WIN_BASE 255)) := by
  unfold State.pfServes; decide +kernel

theorem test_meets_ViewsCarryTheirAccesses :
    ([AccKind.read, .write 1, .atomic (.swap 0)].all (fun k =>
      let a : Acc := { acc with kind := k }; let s := (bridged []).setView 255 { ViewRec.idle with queue := [a] };
      (s.view 255).open_ == none && (s.view 255).queue == [a] && !s.isPartner && !s.inSatin && !s.inDormant && !s.viewWaits 255 a &&
      (s.dev (s.viewDev 255)).any (fun d => d.detachedAt == none)) = true) ∧
    ((bridged [(Reg.XB_WIN_CFG_DEVICE 255, 6)]).dev ((bridged [(Reg.XB_WIN_CFG_DEVICE 255, 6)]).viewDev 255) = none) ∧
    (let s := atTime 800 100 1125000 ((with_ []).setView 255 { ViewRec.idle with queue := [acc] });
      (s.view 255).queue = [] ++ acc :: [] ∧ (s.view 255).parts = [] ∧ (s.view 255).badPart = false ∧ (s.view 255).open_ = none ∧
      acc.more = false ∧ acc.kind = .read ∧ acc.tick + s.readLimit ≤ s.now ∧ s.xb.log.length < Config.lateRecords) ∧
    ([0, 1].all (fun n => let l : LockSeq := ⟨5, 0, false, false, none, 0, 0, false, false, false, n, false, 0, 0⟩;
      let s := (bridged []).setView 255 { ViewRec.idle with open_ := some acc, lock := some l };
      let q := if l.open_ then l else { l with trunk := s.prefRoot l.dev };
      (s.view 255).lock == some l && s.openAcc 255 == some acc && s.lockReady q && !s.lockYields 255 q) = true) ∧
    (let l : LockSeq := ⟨5, 0, false, false, none, 0, 0, false, false, false, 0, false, 0, 3⟩;
      let s := (atTime 7 0 0 (bridged [(Reg.XB_LOCK_CFG_WAIT, 4)])).setView 255 { ViewRec.idle with open_ := some acc, lock := some l };
      (s.view 255).lock = some l ∧ s.openAcc 255 = some acc ∧ l.open_ = false ∧ l.since + max 1 (s.f Reg.XB_LOCK_CFG_WAIT) ≤ s.mfN ∧
      (atTime 6 0 0 s).mfN < l.since + max 1 ((atTime 6 0 0 s).f Reg.XB_LOCK_CFG_WAIT)) := by
  decide +kernel

theorem test_meets_HostPowerAndLink :
    (let s := live []; s.fnThere 0 = true ∧ s.inReset 0 = false ∧ s.d3hot 0 = false ∧ s.fn.l23 = false ∧ s.ck.porst = false ∧
      s.ck.perst = false ∧ (3 : BitVec 5).toNat < 4 ∧ 4 ≤ (4 : BitVec 5).toNat) ∧
    (let s := resting 1023 (live []); s.fnThere 1024 = true ∧ s.inReset 1024 = false) ∧
    (let s := (live []).updFn 1024 (fun r => { r with d3hot := true, unmasked := [63], pending := [63] });
      s.d3hot 1024 = true ∧ (63 ∈ (s.fnRec 1024).pending) ∧ (s.fnRec 1024).unmasked.contains 63 = true ∧
      (s.fnRec 1024).funcMask = false ∧ s.hostHere = true ∧ (s.frozen 1024 && (s.vfRec 1023).freezing.isEmpty) = false) ∧
    (let s := atTime 800 0 2500000 ((live []).updFn 0 (fun r => { r with pmeTick := some 0, pmeStatus := true, pmeEn := true }));
      (s.fnRec 0).pmeTick = some 0 ∧ (s.fnRec 0).pmeStatus = true ∧ (s.fnRec 0).pmeEn = true ∧ 0 + 2500000 ≤ s.now) ∧
    (let s := atTime 1 0 2500 (live [(Reg.HIF_STATUS_LINK_UP, 1), (Reg.HIF_ASPM_L1_IDLE, 100)]); s.flag Reg.HIF_STATUS_LINK_UP = true ∧
      s.hostHere = true ∧ s.idleHost = true ∧ (atTime 1 0 2499 s).now < s.fn.hostAt + 25 * max 1 (s.f Reg.HIF_ASPM_L1_IDLE)) ∧
    (let s := atTime 80 0 250000 (live ((Reg.HIF_CTRL_HOST_LOSS_HANDOVER, 1) :: paired 1 3));
      let s := { s with fn := { s.fn with lostAt := some 0 } };
      s.fn.lostAt = some 0 ∧ 0 + 250000 ≤ s.now ∧ s.flag Reg.HIF_CTRL_HOST_LOSS_HANDOVER = true ∧ s.isHolder = true ∧
      s.lockstep = true ∧ s.orderedUp = true ∧ s.pu.handover = none ∧ s.pu.peerTime = none) := by decide +kernel

theorem test_meets_FunctionsAreReset :
    (let s := live []; s.inReset 0 = false ∧ s.fn.vfEnable = false) ∧
    (let s := resting 0 (live []); s.fn.vfEnable = true ∧ s.fnThere 1024 = true ∧ s.inReset 1024 = false) ∧
    (let s := live []; let s := { s with fn := { s.fn with vfs := [(1023, { VfRec.reset with resetBusy := true })] } };
      s.inReset 1024 = true ∧ s.resetReady 1024 = true) := by decide +kernel

theorem test_meets_RegisterWritesFollowAccessCodes :
    (let s := live []; let a : BitVec 25 := 0xC00000;
      a.toNat % 4 = 0 ∧ s.pfServes a.toNat ∧ a.toNat / 0x100000 = 12 ∧ s.pairFormed = false) ∧
    (live []).pfServes 0x900000 ∧ (live []).pfServes 0x1EC := by
  unfold State.pfServes; decide +kernel

theorem test_meets_RegisterAccessesAreServed :
    (let s := live []; s.flag Reg.HIF_STATUS_CONFIG_READY = true ∧ bits 1 0 3 = 1 ∧ bits 2 0 3 = 2 ∧ bits 3 0 3 = 3 ∧ bits 0 0 2 = 0 ∧
      bits 1 0 2 = 1 ∧ bits 2 0 2 = 2 ∧ s.pfServes 0x9BF000 ∧ s.pfServes 0x801BF0 ∧ s.pfServes Reg.TB_TICK_LO ∧
      s.pfServes Reg.TB_TICK_HI ∧ s.regServed 0xC00000 = true ∧
      (match exec (.registerWrite 0xC00000 7 ⟨15, none, none⟩) s with | .next _ => true | _ => false) = true) ∧
    (with_ []).flag Reg.HIF_STATUS_CONFIG_READY = false ∧ (14 : BitVec 4) ≠ 15 ∧
    (let s := resting 0 (live []); s.fnThere 1024 = true ∧ s.inReset 1024 = false ∧ s.d3hot 1024 = false ∧ s.inDormant = false ∧
      s.operational = true) := by
  unfold State.pfServes; decide +kernel

/-- A TIME frame of a peer of rank `r`. -/
def timeFrame (mf r role pst src : Nat) : TimeFrame :=
  ⟨BitVec.ofNat 48 mf, BitVec.ofNat 2 role, BitVec.ofNat 3 pst, BitVec.ofNat 3 r, 0, BitVec.ofNat 2 src, [], false, false, false⟩

theorem test_meets_PairTimeFollowsItsSource :
    (let f := timeFrame 7 0 1 3 0; let s := (atTime 8 0 0 (with_ ((Reg.PU_CFG_RANK, 1) :: paired 2 1))).updPu (fun p => { p with peerTime := some f });
      s.flag Reg.PU_CTRL_EN = true ∧ s.pu.peerTime = some f ∧ s.mayFollow = true ∧ s.f Reg.PU_STATUS_TIME_SRC ≠ 2 ∧
      s.nearMark = f.mf.toNat + 1 ∧ (0x30D3#16 : Half).toInt.natAbs < offsetLimit ∧ s.time.marked = false ∧
      (let s : State := { s with time := { s.time with marked := true, mf := 20 } }; s.time.marked = true ∧ s.nearMark ≠ f.mf.toNat + 1) ∧
      offsetLimit ≤ (0xCF2C#16 : Half).toInt.natAbs) ∧
    (let s := atTime 8 0 0 (with_ [portIn 191 4, (Reg.TM_PORT_CTRL_ROLE 191, 1), (Reg.TM_PORT_CTRL_CONNECT 191, 1)]);
      s.connected 191 = true ∧ s.portState 191 = 4 ∧ s.mre.casc = [] ∧ State.reset.connected 191 = false ∧
      (let s := s.updNode 191 (fun d => { d with snapAt := [9, 8], clearAt := [8] });
        (8 : Half).toNat ∈ (s.devNode 191).snapAt ∧ (8 : Half).toNat ∈ (s.devNode 191).clearAt) ∧ s.nearMark % 65536 = (8 : Half).toNat) ∧
    (let s := atTime 8 0 0 (with_ [portIn 191 4, (Reg.TM_PORT_CTRL_ROLE 191, 1), (Reg.TM_PORT_CTRL_CONNECT 191, 1)]); let b : List Byte := List.replicate 192 1;
      let s := { s with mre := { s.mre with casc := [(cascKey 191 0 1 8, some (8, b))] } };
      Tbl.get (fun _ => none) s.mre.casc (cascKey 191 0 1 s.mfN) = some (8, b) ∧ Tbl.get (fun _ => none) s.mre.casc (cascKey 191 0 1 (s.mfN + 1)) = none ∧
      s.time.marked = false ∧
      s.nearMark ≠ field b 180 6 + ((8 : Half).toNat + 65536 - field b 180 6 % 65536) % 65536) ∧
    (let s := (atTime 64 0 200000 (with_ [(Reg.PU_STATUS_TIME_SRC, 2), (Reg.PU_CFG_RANK, 1)])).updPu (fun p => { p with srcTick := some 0 });
      s.pu.srcTick = some 0 ∧ 0 + sourceAge ≤ s.now ∧ s.f Reg.PU_STATUS_TIME_SRC = 2 ∧ s.pu.peerTime = none ∧
      (let s := s.updPu (fun p => { p with peerTime := some (timeFrame 63 0 1 3 0), lastPulse := some 1 });
        s.mayFollow = true ∧ s.now < 1 + sourceAge)) ∧
    (let s := (with_ [(Reg.PU_STATUS_TIME_SRC, 1)]).updPu (fun p => { p with offFrames := 8 });
      8 ≤ s.pu.offFrames ∧ s.f Reg.PU_STATUS_TIME_SRC ≠ 0) := by decide +kernel

theorem test_meets_OrderedChannelKeepsOrder :
    (let s := (atTime 8 0 25000 (with_ (paired 2 3))).updPu (fun p => { p with owed := true, unacked := [(0, .ack 0)] });
      s.orderedUp = true ∧ s.pu.owed = true ∧ s.miodelUp = true ∧ s.pu.unacked ≠ [] ∧ s.pu.progress + 500 ≤ s.now ∧ s.pu.resentAt + 500 ≤ s.now ∧
      s.pu.progress + 25000 ≤ s.now ∧ s.pu.mirrored = [] ∧ s.pu.deferred = [] ∧ s.pu.sent = [] ∧ (0 : Word).toNat = s.pu.recvSeq ∧
      (1 : Word).toNat ≠ s.pu.recvSeq ∧ s.isPartner = true) ∧
    (let s := with_ (paired 2 2); s.orderedUp = true ∧ s.isPartner = true ∧ s.pstate = 2) ∧
    (let s := with_ (paired 1 3); s.isPartner = false ∧ s.pstate ≠ 2) := by decide +kernel

theorem test_meets_LockstepDevicesCompare :
    (let s := with_ (paired 2 3); s.lockstep = true ∧ s.miodelUp = true ∧ s.isPartner = true ∧ s.flag Reg.PU_CTRL_EN = true ∧
      s.isHolder = false ∧ s.mfN < (1 : MfNum).toNat) ∧
    (let s := atTime 8 0 0 (((withIn 4 (with_ (paired 2 3)))).writeHalf 0x18 7 [5]);
      s.heldFor 0 ((s.mfN + 65535) % 65536) 5 = some [5]) ∧
    (let s := atTime 8 1874 0 (withIn 4 (with_ (paired 2 3)));
      s.lockstep = true ∧ s.time.phase < Config.decisionTick ∧ s.per (npKey 0 ((s.mfN + 65535) % 65536) 5) =
        some ⟨Pk.in_, 0, 0x18, 7, 4, 0, false⟩ ∧ perIn ⟨Pk.in_, 0, 0x18, 7, 4, 0, false⟩ = true ∧ (s.mfN + 65535) % 65536 = 7 ∧
      s.halfHolds 0x18 7 = false) ∧
    (Config.decisionTick ≤ (atTime 8 1875 0 (with_ [])).time.phase) ∧
    (let s := (with_ (paired 2 3)).updPu (fun p => { p with digests := [(8, [1, 2])] });
      s.pu.digests.find? (fun x => x.1 % 2 ^ 32 == 8) = some (8, [1, 2]) ∧ digestDiff [1, 2] [1, 2] = [] ∧ digestDiff [1, 2] [1, 3] ≠ []) ∧
    (let s := with_ ((Reg.PU_JOIN_STATUS_PHASE, 4) :: paired 2 2); s.lockstep = false ∧ s.f Reg.PU_JOIN_STATUS_PHASE = 4) ∧
    (let s := with_ (paired 1 4); s.isHolder = true ∧ s.pu.abdicate = false ∧ s.pstate = 4 ∧ s.orderedUp = true) ∧
    (let f := timeFrame 7 5 0 1 1; let s := with_ [(Reg.PU_CTRL_EN, 1), (Reg.PU_STATUS_TIME_SRC, 1), (Reg.PU_CFG_RANK, 4)];
      s.role = 0 ∧ s.flag Reg.PU_CTRL_EN = true ∧ s.f Reg.PU_STATUS_TIME_SRC = 1 ∧ f.timeSrc = 1 ∧ s.f Reg.PU_CFG_RANK < f.rank.toNat) ∧
    (let g := timeFrame 7 0 1 3 0; let f := timeFrame 8 0 1 4 0; let s := (with_ (paired 2 3)).updPu (fun p => { p with peerTime := some g });
      s.isPartner = true ∧ s.lockstep = true ∧ s.pu.peerTime = some g ∧ g.role = 1 ∧ g.pstate = 3 ∧ f.role = 1 ∧ f.pstate = 4) ∧
    (let s := (with_ (paired 1 3)).updPu (fun p => { p with abdicate := true });
      s.isHolder = true ∧ s.pu.abdicate = true ∧ s.pu.leave = none ∧ s.lockstep = true) := by decide +kernel

/-- A HELLO of the other side, as this device would say it. -/
def hello (s : State) : HelloFrame :=
  let h := s.helloFrame true
  { h with serial := 77, side := !h.side }

theorem test_meets_PairsForm :
    (let s := live []; s.pfServes Reg.PU_CTRL ∧ s.flag Reg.PU_CTRL_EN = false ∧ bits 1 0 1 = 1) ∧
    (let s := live (paired 1 3); s.pfServes Reg.PU_CTRL ∧ s.flag Reg.PU_CTRL_EN = true ∧ bits 0 0 1 = 0 ∧
      s.flag Reg.PU_CTRL_EN = (bits 1 0 1 == 1) ∧ (∀ p ∈ s.trunks, (s.writeReg Reg.PU_CTRL 1).portExists p = true)) ∧
    (let s := (atTime 16000 0 50000000 (with_ [(Reg.PU_STATUS_PSTATE, 1)])).updPu (fun p => { p with enAt := some 0 });
      s.pstate = 1 ∧ s.pu.enAt = some 0 ∧ 0 + 50000000 ≤ s.now) ∧
    (let s := with_ ((Reg.PU_STATUS_PSTATE, 1) :: (Reg.PU_STATUS_TIME_SRC, 1) :: (paired 0 1).filter (fun x => x.1 != Reg.PU_STATUS_ORDERED_UP));
      s.flag Reg.PU_CTRL_EN = true ∧ s.pu.silent = false ∧ s.orderedUp = false ∧
      s.helloCheck { hello s with serial := (s.helloFrame true).serial } = some 1 ∧ s.isHolder = false ∧ s.pstate ≠ 0) ∧
    (let s := with_ ((paired 1 4).filter (fun x => x.1 != Reg.PU_STATUS_ORDERED_UP));
      s.isHolder = true ∧ s.orderedUp = false ∧ s.helloCheck { hello s with side := (s.helloFrame true).side } = some 1 ∧
      (s.alignedHere = true → s.helloCheck (hello s) = none)) := by
  unfold State.pfServes; decide +kernel

theorem test_meets_RolesChangeHands :
    (let f := { timeFrame 7 0 2 3 0 with abdicate := true };
      let s := (with_ (paired 1 3)).updPu (fun p => { p with peerTime := some f });
      s.lossSeen .abdicate = true ∧ s.isHolder = true ∧ s.lockstep = true) ∧
    (let f := { timeFrame 7 0 1 3 0 with rsqFailed := true };
      let s := (with_ (paired 2 3)).updPu (fun p => { p with peerTime := some f });
      s.lossSeen .rsqFailed = true ∧ s.isPartner = true ∧ s.lockstep = true ∧ s.pu.takeoverAt = none) ∧
    (let f := { timeFrame 7 0 1 3 0 with rsqFailed := true };
      let s := (with_ (paired 2 2)).updPu (fun p => { p with peerTime := some f });
      s.lossSeen .rsqFailed = true ∧ s.isPartner = true ∧ s.lockstep = false) ∧
    (let s := (atTime 10 0 0 (with_ (paired 2 3))).updPu (fun p => { p with takeoverAt := some 10, loss := some .silent, handover := some (8, none) });
      s.pu.takeoverAt = some 10 ∧ s.pu.loss = some .silent ∧ 10 ≤ s.mfN ∧ s.pu.handover = some (8, none) ∧ 8 ≤ s.mfN ∧
      s.isPartner = true) ∧ (with_ (paired 1 3)).isHolder = true := by decide +kernel

theorem test_meets_JoinsRunTheirPhases :
    (let s := with_ ((Reg.PU_JOIN_STATUS_PHASE, 2) :: paired 1 4);
      s.isHolder = true ∧ s.f Reg.PU_JOIN_STATUS_PHASE = 2 ∧ s.pstate = 4 ∧ s.orderedUp = true) ∧
    (let s := with_ ((Reg.PU_JOIN_STATUS_PHASE, 2) :: (Reg.PU_JOIN_STATUS_PROGRESS, 100) :: paired 2 2);
      s.isPartner = true ∧ s.pstate = 2 ∧ s.f Reg.PU_JOIN_STATUS_PHASE = 2 ∧ s.f Reg.PU_JOIN_STATUS_PROGRESS = 100) ∧
    (let s := with_ ((Reg.PU_JOIN_STATUS_PHASE, 3) :: (Reg.PU_JOIN_STATUS_PROGRESS, 100) :: paired 2 2);
      s.f Reg.PU_JOIN_STATUS_PHASE = 3 ∧ s.f Reg.PU_JOIN_STATUS_PROGRESS = 100 ∧ s.pu.install = []) ∧
    (let s := (with_ ((Reg.PU_JOIN_STATUS_PHASE, 4) :: paired 2 2)).updPu (fun p => { p with matched := 64, joinPasses := 256, retried := true });
      s.isPartner = true ∧ s.pstate = 2 ∧ s.f Reg.PU_JOIN_STATUS_PHASE = 4 ∧ 64 ≤ s.pu.matched ∧ 256 ≤ s.pu.joinPasses ∧
      s.isHolder = false ∧ s.pu.retried = true ∧ (with_ []).pu.retried = false ∧ (s.setB Reg.PU_STATUS_ORDERED_UP false).orderedUp = false) ∧
    (let s := (atTime 16 0 0 (with_ ((Reg.PU_JOIN_STATUS_PHASE, 5) :: paired 2 2))).updPu (fun p => { p with joinAt := some 16 });
      s.pu.joinAt = some 16 ∧ s.f Reg.PU_JOIN_STATUS_PHASE = 5 ∧ s.pstate = 2 ∧ 16 ≤ s.mfN) ∧
    (let s := (atTime 8 0 0 (with_ [])).updPu (fun p => { p with writes := [(Reg.TM_CTRL, 1, 8)], barriers := [(9, 6, adm)] });
      s.pu.writes = [(Reg.TM_CTRL, 1, 8)] ∧ 8 ≤ s.mfN ∧ s.mfN < 9 ∧ s.pu.barriers = [((9 : Word).toNat, 6, adm)] ∧
      s.barrierKnown 9 = true ∧ 6 + 2 ≤ s.mfN) ∧
    (let s := (withRings 0 (live [(Reg.PU_EVENT_CTRL_CQ, 1)])).updPu (fun p => { p with held := [svEvent] });
      s.pu.held = [svEvent] ∧ (s.postEvent (s.f Reg.PU_EVENT_CTRL_CQ) svEvent.dws 4).isSome = true ∧
      s.postEvent 2045 svEvent.dws 4 = none) := by decide +kernel

/-- A port in device role whose node has address 9. -/
def node9 (g : DevNode → DevNode) : State :=
  (atTime 8 0 0 (with_ [portIn 191 4, (Reg.TM_PORT_CTRL_ROLE 191, 1), (Reg.TM_PORT_CTRL_CONNECT 191, 1)])).updNode 191 (fun d => g { d with addr := 9 })

/-- A token for that node. -/
def tok (kind ep : Nat) (flags : Byte) (pl : List Byte) : TokenPkt :=
  ⟨BitVec.ofNat 8 kind, flags, 5, BitVec.ofNat 20 (9 * 16 + ep), 0, 8, pl, 0, 0⟩

theorem test_meets_CascadeNodeAnswersTokens :
    (let s := node9 id; s.connected 191 = true ∧ State.reset.connected 191 = false ∧ s.portEnabled 191 = true ∧ (s.devNode 191).addr = 9 ∧ s.mute = false ∧
      s.nodeLocked 191 = false ∧ ([Pk.lock, Pk.unlock].all (fun k => let x := tok k 0 0 []; x.handle.toNat / 16 == 9 &&
        x.handle.toNat % 16 == 0 && x.kind.toNat == k)) = true) ∧
    (((node9 id).trunk 191).delinLost = false ∧ (((node9 id).updTrunk 191 (fun r => { r with delinLost := true })).trunk 191).delinLost = true) ∧
    (let x := tok Pk.setup 0 0 (List.replicate 16 0x80#8); let x := { x with payload := [0x80, 1] ++ List.replicate 14 0 };
      x.kind.toNat = Pk.setup ∧ nbit x.flags.toNat 3 = (node9 id).nodeLocked 191 ∧ x.payload.length = 16 ∧ x.dataSeq = 0 ∧
      nodeSupports x.payload = true) ∧
    ((node9 (fun d => { d with lockedAt := some 0 })).nodeLocked 191 = true) ∧
    (let x := tok Pk.out 7 0 (List.replicate 192 1#8); x.handle.toNat % 16 = 7 ∧ x.payload.length ≤ 192 ∧
      ((node9 id).devNode 191).last 7 ≠ some x.dataSeq.toNat ∧ (node9 id).cutOffOver 8 = false ∧
      (atTime 9 1250 0 (node9 id)).cutOffOver 8 = true) ∧
    (let x := tok Pk.in_ 9 0 []; let s := node9 id; let s := { s with mre := { s.mre with casc := [(cascKey 191 1 1 7, some (7, [3]))] } };
      9 ≤ x.handle.toNat % 16 ∧ Tbl.get (fun _ => none) s.mre.casc (cascKey 191 1 (x.handle.toNat % 16 - 8) (x.seq.toNat + 65535)) =
        some ((x.seq.toNat + 65535) % 65536, [3])) ∧
    (let x := { tok Pk.bcast 0 0 [] with length := 1, tag := 10 }; let s := node9 id;
      x.kind.toNat = Pk.bcast ∧ x.length.toNat % 256 = 1 ∧ (x.tag.toNat + 65536 - (s.devNode 191).mfn) % 65536 = 10) ∧
    (let x := { tok Pk.bcast 0 0 [] with length := 3 }; x.length.toNat % 256 = 3 ∧
      (x.tag.toNat + 65536 - ((node9 (fun d => { d with mfn := 6 })).devNode 191).mfn) % 65536 = 65535) ∧
    (tok 3 0 0 []).kind.toNat = 3 ∧ { tok Pk.out 1 0 [] with handle := 0 }.handle.toNat / 16 ≠ 9 := by decide +kernel

theorem test_meets_SleepRequestsAreAccepted :
    (let s := live [(Reg.PMU_REQ_STATUS_BUSY, 1)]; s.pfServes Reg.PMU_REQ ∧ s.flag Reg.PMU_REQ_STATUS_BUSY = true) ∧
    (let s := live [(Reg.PMU_STATUS_RESTORED, 1)]; s.pfServes Reg.PMU_REQ ∧ s.flag Reg.PMU_REQ_STATUS_BUSY = false ∧
      s.returningSatin = false ∧ s.inSatin = false ∧ s.inDormant = false ∧ s.sv.audit = none ∧ s.dormantReady = true) ∧
    (let s := live [(Reg.PMU_STATUS_STATE, 2)]; s.pfServes Reg.PMU_REQ ∧ s.inSatin = true ∧ s.returnPending = false) := by
  unfold State.pfServes; decide +kernel

theorem test_meets_SleepStatesAreEntered :
    (let s := (atTime 16 0 0 (live [(Reg.PMU_REQ_STATUS_BUSY, 1), (Reg.PMU_REQ_STATUS_TARGET, 2)])).updPm (fun p => { p with entryAt := some 16 });
      s.satinDue_ = true) ∧
    (let s := live [portIn 0 4, lane 0 4];
      (0 : Nat) ∈ s.trunks ∧ s.portEnabled 0 = true ∧ (0 : Nat) ∈ s.lanesOf 0 ∧ s.laneState 0 = Ls.retraining) ∧
    (let s := atTime 1 0 251 (live [portIn 0 4, lane 0 5]);
      (0 : Nat) ∈ s.trunks ∧ s.portEnabled 0 = true ∧ (0 : Nat) ∈ s.lanesOf 0 ∧ s.laneState 0 = Ls.lpi ∧ (s.lane 0).markerAt + 250 < s.now) ∧
    (let s := (atTime 16 0 0 (live [(Reg.PMU_STATUS_STATE, 2)])).updPm (fun p => { p with step1At := some 16 });
      s.inSatin = true ∧ s.pm.step1At = some 16 ∧ 16 ≤ s.mfN) ∧
    (let s := (live []).updPm (fun p => { p with steps := true }); s.pm.steps = true ∧ s.inSatin = false ∧ s.inDormant = false) ∧
    (let s := (atTime 16 0 0 (live [(Reg.PMU_REQ_STATUS_BUSY, 1), (Reg.PMU_REQ_STATUS_TARGET, 3)])).updPm (fun p => { p with entryAt := some 16 });
      s.dormantPending = true ∧ s.pm.entryAt = some 16 ∧ 16 ≤ s.mfN ∧ s.inDormant = false ∧
      ((s.setB Reg.PMU_WAKE_EN_LYBOR true).updPm (fun p => { p with lateWake := some .lybor })).wakeEnabled .lybor = true) := by decide +kernel

theorem test_meets_WakesStartTheReturn :
    (let s := (atTime 80 0 25000 (live [(Reg.PMU_STATUS_STATE, 2), (Reg.PMU_WAKE_EN_ALARM, 1), (⟨Reg.PMU_ALARM, 0, 32⟩, 1)])).updPm (fun p => { p with sleptAt := some 0 });
      s.wakeEnabled .alarm = true ∧ s.inSatin = true ∧ s.returnPending = false ∧ s.lockstep = false ∧ s.dormantPending = false ∧
      s.flag Reg.PMU_REQ_STATUS_BUSY = false ∧ s.reg Reg.PMU_ALARM ≠ 0 ∧
      s.pm.sleptAt = some 0 ∧ s.flag Reg.PMU_WAKE_EN_ALARM = true ∧ 0 + (s.reg Reg.PMU_ALARM).toNat * 25000 ≤ s.now) ∧
    (let s := (live [(Reg.PMU_STATUS_STATE, 3), (Reg.PMU_WAKE_EN_MGT, 1), (Reg.PMU_WAKE_EN_LYBOR, 1), (Reg.PMU_POLICY_LYBOR_SQUELCH, 1)]);
      s.wakeEnabled .mgt = true ∧ s.wakeEnabled .lybor = true ∧ s.inDormant = true ∧ s.pm.returning = none ∧
      s.flag Reg.PMU_POLICY_LYBOR_SQUELCH = true ∧ s.mgtLive = true ∧ s.flag Reg.PMU_WAKE_EN_MGT = true ∧
      (0x58 : BitVec 7).toNat = 0x58 + s.ck.i2c) ∧
    (let s := (atTime 16 0 0 (live [(Reg.PMU_REQ_STATUS_BUSY, 1), (Reg.PMU_REQ_STATUS_TARGET, 2), (Reg.PMU_WAKE_EN_EMERG, 1)])).updPm
        (fun p => { p with entryAt := some 16 });
      s.wakeEnabled .emerg = true ∧ s.inDormant = false ∧ s.entryDue = true) ∧
    (let s := (live [(Reg.PMU_REQ_STATUS_BUSY, 1), (Reg.PMU_REQ_STATUS_TARGET, 3), (Reg.PMU_STATUS_STATE, 2), (Reg.PMU_WAKE_EN_PCIE, 1)]).updPm
        (fun p => { p with entryAt := some 16 });
      s.wakeEnabled .pcie = true ∧ s.dormantPending = true ∧ s.inDormant = false ∧ s.entryDue = false) ∧
    (let s := (live [(Reg.PMU_REQ_STATUS_BUSY, 1), (Reg.PMU_WAKE_EN_EMERG, 1)]).updPm (fun p => { p with entryAt := some 16 });
      s.wakeEnabled .emerg = true ∧ s.entryDue = false ∧ s.inSatin = false ∧ s.inDormant = false ∧ s.flag Reg.PMU_REQ_STATUS_BUSY = true ∧
      s.pm.entryAt.isSome = true ∧ s.pu.switchAt = none ∧ s.lockstep = false) := by decide +kernel

theorem test_meets_DormantIsLeftSignalBySignal :
    let s := (live [(Reg.PMU_STATUS_STATE, 3), (Reg.PMU_STATUS_PWR_RDY, 1), (Reg.PMU_STATUS_OSC_RDY, 1), (Reg.PMU_STATUS_MEM_RDY, 0)]).updPm (fun p => { p with returning := some 1 })
    s.inDormant = true ∧ s.pm.returning.isSome = true ∧ s.flag Reg.PMU_STATUS_PWR_RDY = true ∧ s.flag Reg.PMU_STATUS_OSC_RDY = true ∧
      s.flag Reg.PMU_STATUS_MEM_RDY = false ∧ (s.setB Reg.PMU_STATUS_MEM_RDY true).flag Reg.PMU_STATUS_MEM_RDY = true := by decide +kernel

theorem test_meets_OperatingPointsStep :
    (let s := live [(Reg.PMU_STATUS_RESTORED, 1), (Reg.PMU_STATUS_CORE_FOP, 2), (Reg.PMU_STATUS_CORE_VOP, 1)];
      s.pfServes Reg.PMU_DVFS ∧ s.dvfsReason 0 0 2 = 0 ∧ s.f (vopOf 0) ≠ 2 ∧ s.dvfsReason 0 1 1 = 0 ∧ s.f (fopOf 0) ≠ 1 ∧
      s.dvfsReason 0 0 3 ≠ 0) ∧
    (let s := (live []).updPm (fun p => { p with dvfs := some (1, 0, 2) }); s.pm.dvfs = some (1, 0, 2)) := by
  unfold State.pfServes; decide +kernel

theorem test_meets_ResetsTakeEffect :
    (let s := live []; s.flag Reg.CKG_STATUS_ROOT_LOCK = false ∧ s.ck.porst = false ∧ s.ck.flashOp = none ∧ s.time.run = false ∧
      s.inDormant = false ∧ s.pfServes Reg.CKG_RESET ∧ bits 0x15752 0 16 = 0x5752 ∧ bits 0x15752 16 1 = 1 ∧ s.ck.warm = false ∧
      bits 0x5752 16 1 = 0) ∧
    (let s := (with_ []).updCk (fun c => { c with refclk := true });
      s.refPresent .refclk = true ∧ s.ck.porst = true ∧ s.pm.off = false ∧ s.ck.refclk = true ∧ s.ck.perst = true) ∧
    (let s := (atTime 8 0 0 (live (paired 1 3))).updCk (fun c => { c with fundamental := true });
      s.ck.porst = false ∧ s.time.run = true ∧ s.role ≠ 0 ∧ s.ck.fundamental = true) ∧
    (let s := (atTime 8 0 0 (live [])).updCk (fun c => { c with warm := true, warmMark := true });
      s.time.run = true ∧ s.ck.fundamental = false ∧ s.ck.warm = true ∧ s.ck.warmMark = true) ∧
    ((live []).updCk (fun c => { c with warm := true })).halted = true := by
  unfold State.pfServes; decide +kernel

theorem test_meets_RsqBootsAndIsWatched :
    (let s := live []; s.ck.porst = false ∧ s.ck.perst = false ∧ s.ck.fundamental = false ∧ s.ck.booted = false ∧ s.ck.rsqRestart = false ∧
      s.inDormant = false ∧ s.flashHeaderOk = false) ∧
    (let s := (atTime 8 0 100000000 (live [(Reg.RSQ_STATUS_RUNNING, 1)])).updCk (fun c => { c with expiries := [99999999, 99999998] });
      s.flag Reg.RSQ_STATUS_RUNNING = true ∧ s.periodOver = true ∧
      2 ≤ (s.ck.expiries.filter (fun e => decide (s.now < e + countedTicks))).length ∧ s.pfServes Reg.RSQ_CTRL) ∧
    (let s := (live []).updCk (fun c => { c with rsqRestart := true }); s.ck.rsqRestart = true ∧ s.ck.expiries.length < 2) := by
  unfold State.pfServes; decide +kernel

theorem test_meets_FlashAndManagementPortServe :
    (let s := live []; s.pfServes Reg.RSQ_FLASH_CMD ∧ s.flag Reg.RSQ_FLASH_STATUS_BUSY = false ∧ s.mgtLive = true ∧ s.inDormant = false ∧
      mgtAddr 7 = Reg.PMU_WAKE_LOG) ∧
    (let s := (live []).updCk (fun c => { c with flashOp := some (1, 0x10000) });
      s.ck.flashOp = some (1, 0x10000) ∧ s.ck.rsqRestart = false ∧ s.flag Reg.RSQ_STATUS_RSQ_FAILED = false ∧
      s.flashStatus 1 0x10001 ≠ St.ok) := by
  unfold State.pfServes; decide +kernel

theorem test_meets_StepRunsTheFrontCommand :
    (let s := { State.reset with pending := [Instr.inputCutoff, .microframeMark] }; s.pending = Instr.inputCutoff :: [.microframeMark]) ∧
    (let s := atTime 7 3123 24998 (with_ []); s.pending = [] ∧ s.time.run = true ∧ s.time.phase < 3124 ∧
      s.tickOnce = atTime 7 3124 24999 (with_ [])) ∧
    (let s := atTime 7 3124 24999 (with_ []); s.pending = [] ∧ 3124 ≤ s.time.phase ∧ s.tickOnce = s) ∧
    (State.reset.time.run = false ∧ State.reset.tickOnce = State.reset) := by decide +kernel

/-- A handshake, a DATA of 3 bytes and a token, back to back, and a SYNC block before a mark (R75). -/
theorem test_meets_LinesCarryBlocksAndPackets :
    (let l : List (List Byte) := [wireBytes ⟨Pk.ack, 0, 5, 0, 0, 0, 0, []⟩, wireBytes ⟨Pk.data, 0, 5, 0x18, 0, 3, 7, [1, 2, 3]⟩,
        wireBytes ⟨Pk.in_, 0, 5, 0x18, 0, 192, 7, []⟩];
      l.map (·.length) = [8, 19, 16] ∧ l.all (fun b => packetKinds.contains (field b 0 1) && b.length == packetLen (field b 0 1) (field b 8 2) &&
        decide (field b 8 2 ≤ 1024 ∨ field b 0 1 ≠ 0x40)) = true ∧
      (trunkBlocks (l.map LineItem.pkt)).length = 8 ∧
      delineate 64 8 ((trunkBlocks (l.map LineItem.pkt)).flatMap (·.payload)) = l.map some) ∧
    (trunkBlocks [.pkt (List.replicate 8 1), .ctl Ct.sync, .pkt (List.replicate 16 2)]).map (·.payload) =
      [List.replicate 8 1, 0x2D :: List.replicate 7 0, List.replicate 8 2, List.replicate 8 2] ∧
    (stripe 4 3 (List.replicate 8 (ctlBlock Ct.idle))).length = 2 ∧ delineate 9 7 [0x60, 0, 0, 0, 0, 0, 0, 0] = [none] ∧
    (let (l, st) := throughBits scrambleBit 5 (List.replicate 70 true);
      (throughBits descrambleBit 5 l).1 = List.replicate 70 true ∧ (throughBits descrambleBit 99 l).1.drop 58 = List.replicate 12 true ∧
      (throughBits descrambleBit 99 l).1 ≠ List.replicate 70 true ∧ st < 2 ^ 58) := by decide +kernel

theorem test_meets_StepKeepsCanonicalForm : State.reset.ok ∧ ∃ t, step State.reset = .next t := by
  refine ⟨?_, _, rfl⟩
  unfold State.ok State.regsOk State.memOk State.flashOk
  decide +kernel

theorem test_meets_CommandsChangeOnlyTheirParts : ∃ t, exec (.tempSample 90) State.reset = .next t := ⟨_, rfl⟩

theorem test_meets_OutputAndFreeValuesOnlyGrow : ∃ t, step { State.reset with pending := [.tempSample 90] } = .next t := ⟨_, rfl⟩

/-- A command of one register or lane goes on from the state after reset. -/
def goesOn (i : Instr) : Bool :=
  match exec i State.reset with
  | .next _ => true
  | _ => false

theorem goesOn_next {i : Instr} (h : goesOn i = true) : ∃ t, exec i State.reset = .next t := by
  unfold goesOn at h
  split at h
  · exact ⟨_, ‹_›⟩
  · cases h

theorem test_meets_SmallCommandsLeaveOtherRegisters :
    ∀ i ∈ [Instr.laneTrainStart 191, .adaptationConverged 191 ⟨0, 0, 0, 0⟩, .markerReceived 0 ⟨0, 0⟩, .adaptationFreeze 0, .adaptationResume 0,
      .marginCheckStart 0, .eyePointDone 0 1, .prbsLock 0, .prbsLockLost ⟨0, 0⟩, .tempSample 90, .pwrRdy, .oscRdy, .dvfsVoltageDone,
      .aspmL1Request, .configReady, .watchdogCountExpiry, .miodelResendTimeout, .referenceLost .refclk,
      .corruptPacketReceived ⟨191, .parity⟩], ∃ t, exec i State.reset = .next t := by
  have h : [Instr.laneTrainStart 191, .adaptationConverged 191 ⟨0, 0, 0, 0⟩, .markerReceived 0 ⟨0, 0⟩, .adaptationFreeze 0, .adaptationResume 0,
      .marginCheckStart 0, .eyePointDone 0 1, .prbsLock 0, .prbsLockLost ⟨0, 0⟩, .tempSample 90, .pwrRdy, .oscRdy, .dvfsVoltageDone,
      .aspmL1Request, .configReady, .watchdogCountExpiry, .miodelResendTimeout, .referenceLost .refclk,
      .corruptPacketReceived ⟨191, .parity⟩].all goesOn = true := by decide +kernel
  exact fun i hi => goesOn_next (List.all_eq_true.mp h i hi)

theorem test_meets_ContextsAndGranulesLieWhereTheSpecPutsThem :
    ((State.reset.setCtx 1048575 7 0x01020304).ctx 1048575 7 = 0x01020304 ∧
      (State.reset.setCtx 1048575 7 0x01020304).ebmRead 0x1FFFFFC 4 = [4, 3, 2, 1] ∧
      (State.reset.setCtx 1048575 7 0x01020304).ebmRead 0x1FFFFFB 1 = [0]) ∧
    granuleAddr 0 = 0x2000000 ∧ granuleAddr 1310719 = 0x2000000 + 1310719 * 64 := by decide +kernel

/-- Bulk endpoint 8 of device 0 with W 2 and MAX_PACKET 1024, and control endpoint 0 of device 2. -/
def sized : State :=
  ((State.reset.setCf 8 Cx.kind 1).setCf 8 Cx.window 2).setCf 8 Cx.maxPacket 1024 |>.setCf 16 Cx.kind 2

theorem test_meets_SlotSizesAndWindowsOfThePf :
    (State.reset.slotOf 0x58 = none ∧ (match State.reset.stageSlot 0x58 192 with | .ok t => t.slotOf 0x58 | _ => none) = some (0, 6)) ∧
    (sized.cf 16 Cx.kind = 2 ∧ sized.npGranules 16 = 16 ∧ sized.cf 9 Cx.kind = 0) ∧
    periodicGranules 0 = 2 ∧ periodicGranules 64 = 2 ∧ periodicGranules 65 = 4 ∧ periodicGranules 129 = 6 ∧ periodicGranules 192 = 6 ∧
    (let s := (State.reset.setCf 9 Cx.kind 1).setCf 9 Cx.window 2 |>.setCf 9 Cx.maxPacket 1024;
      s.cf 9 Cx.kind = 1 ∧ s.npGranules 9 = 32) ∧
    (let s := with_ [(Reg.XB_WIN_CFG_EN 255, 1), (Reg.XB_WIN_BASE_BASE 255, 2)];
      s.viewConfigured (viewKey (.pf 255)) = true ∧ s.viewIndex (viewKey (.pf 255)) 0xFFFFFF = 0x2FFFFFF) := by decide +kernel

end Sys2Proof.Tests
end

/-! # Endpoint buffer memory: contexts, slots and the PF's remote windows

Reads of the endpoint buffer memory after writes, the contexts as little-endian dwords of it (R159, R160), the slot that a staging command
leaves (R162, R164), and what a window of the PF names (R393). -/

namespace Sys2Proof.Machine

/-! ## Little-endian values -/

@[simp] theorem leBytes_length (n v : Nat) : (leBytes n v).length = n := by
  induction n generalizing v with
  | zero => rfl
  | succ n ih => simp [leBytes, ih]

/-- Reading back `n` little-endian bytes gives the value modulo what fits into them. -/
theorem leNat_leBytes (n v : Nat) : leNat (leBytes n v) = v % 256 ^ n := by
  induction n generalizing v with
  | zero => simp [leBytes, leNat, Nat.mod_one]
  | succ n ih => rw [leBytes, leNat, ih, BitVec.toNat_ofNat, show 256 ^ (n + 1) = 256 * 256 ^ n from Nat.pow_succ', Nat.mod_mul]

theorem leBytes_four (v : Nat) :
    leBytes 4 v = [BitVec.ofNat 8 v, BitVec.ofNat 8 (v / 256), BitVec.ofNat 8 (v / 65536), BitVec.ofNat 8 (v / 16777216)] := by
  simp [leBytes, Nat.div_div_eq_div_mul]

theorem leNat_four (b0 b1 b2 b3 : Byte) :
    leNat [b0, b1, b2, b3] = b0.toNat + 256 * b1.toNat + 65536 * b2.toNat + 16777216 * b3.toNat := by
  simp only [leNat]
  omega

/-! ## Reads after writes of the endpoint buffer memory -/

/-- Bytes that are read beside those written are the old ones. -/
theorem Tbl.readBytes_writeBytes_other {d : Byte} (m : Tbl Byte) (a k n : Nat) (b : List Byte)
    (h : k + n ≤ a ∨ a + b.length ≤ k) :
    Tbl.readBytes d (Tbl.writeBytes d m a b) k n = Tbl.readBytes d m k n := by
  induction n generalizing k with
  | zero => rfl
  | succ n ih => rw [Tbl.readBytes, Tbl.readBytes, ih (k + 1) (by omega), Tbl.get_writeBytes_other m b (by omega)]

theorem State.ebmRead_setCtx_same (s : State) (h d : Nat) (v : Word) :
    (s.setCtx h d v).ebmRead (h * 32 + d * 4) 4 = leBytes 4 v.toNat := by
  have read := Tbl.readBytes_writeBytes (d := 0) s.ebm.mem (h * 32 + d * 4) (leBytes 4 v.toNat)
  rwa [leBytes_length] at read

theorem State.ebmRead_setCtx_other (s : State) (h d : Nat) (v : Word) (a n : Nat)
    (ha : a + n ≤ h * 32 + d * 4 ∨ h * 32 + d * 4 + 4 ≤ a) : (s.setCtx h d v).ebmRead a n = s.ebmRead a n :=
  Tbl.readBytes_writeBytes_other s.ebm.mem _ a n _ (by rwa [leBytes_length])

/-! ## Contexts (R159, R160) -/

theorem State.ctx_setCtx_same (s : State) (h d : Nat) (v : Word) : (s.setCtx h d v).ctx h d = v := by
  rw [State.ctx, State.ebmRead_setCtx_same, leNat_leBytes, Nat.mod_eq_of_lt (b := 256 ^ 4) v.isLt, BitVec.ofNat_toNat, BitVec.setWidth_eq]

/-- Two dwords of contexts share no byte, so a write of one leaves the other. -/
theorem State.ctx_setCtx_other (s : State) {h d h' d' : Nat} (v : Word) (hd : d < 8) (hd' : d' < 8) (hne : ¬(h' = h ∧ d' = d)) :
    (s.setCtx h d v).ctx h' d' = s.ctx h' d' := by
  rw [State.ctx, State.ebmRead_setCtx_other s h d v _ 4 (by omega), State.ctx]

/-- A dword of a context is the little-endian value of its four bytes. -/
theorem State.toNat_ctx_of_ebmRead {s : State} {h d : Nat} {b0 b1 b2 b3 : Byte}
    (read : s.ebmRead (h * 32 + d * 4) 4 = [b0, b1, b2, b3]) :
    (s.ctx h d).toNat = b0.toNat + 256 * b1.toNat + 65536 * b2.toNat + 16777216 * b3.toNat := by
  have lt0 := b0.isLt
  have lt1 := b1.isLt
  have lt2 := b2.isLt
  have lt3 := b3.isLt
  rw [State.ctx, read, leNat_four, BitVec.toNat_ofNat, Nat.mod_eq_of_lt (by omega)]

/-- A field of a context reads back what was put into it, modulo its size. -/
theorem State.cf_setCf_same (s : State) (h : Nat) (x : CtxF) (v : Nat) (hx : x.lo + x.w ≤ 32) :
    (s.setCf h x v).cf h x = v % 2 ^ x.w := by
  rw [State.cf, State.setCf, State.ctx_setCtx_same, bits_putBits _ _ _ _ hx]

/-- Settles O59: a write of four bytes is read back and leaves the bytes beside them, and the dwords of all contexts lie apart. -/
theorem contextsAndGranulesLieWhereTheSpecPutsThem : Obligations.ContextsAndGranulesLieWhereTheSpecPutsThem := by
  unfold Obligations.ContextsAndGranulesLieWhereTheSpecPutsThem
  refine ⟨fun s h d v _ hd => ⟨s.ctx_setCtx_same h d v, ?_, fun a ha => ?_, fun h' d' hd' hne => s.ctx_setCtx_other v hd hd' hne⟩,
    fun s h d _ _ b0 b1 b2 b3 read => ?_, fun g _ => rfl⟩
  · rw [Nat.mul_comm 4 d, State.ebmRead_setCtx_same, leBytes_four]
  · exact s.ebmRead_setCtx_other h d v a 1 (by omega)
  · exact State.toNat_ctx_of_ebmRead (by rwa [Nat.mul_comm d 4])

/-! ## Slot sizes (R162, R164) -/

theorem periodicGranules_eq (l : Nat) : periodicGranules l = 2 * max 1 ((l + 63) / 64) := rfl

theorem periodicGranules_pos (l : Nat) : 0 < periodicGranules l := by
  rw [periodicGranules_eq]
  omega

/-- LENGTH of a periodic endpoint is at most 192 bytes: its halves hold one, two or three granules. -/
theorem periodicGranules_of_le {l : Nat} (h : l ≤ 192) : periodicGranules l = 2 ∨ periodicGranules l = 4 ∨ periodicGranules l = 6 := by
  rw [periodicGranules_eq]
  omega

@[simp] theorem State.groupSlot_setGroupSlot_same (s : State) (g : Nat) (r : GroupSlot) : (s.setGroupSlot g r).groupSlot g = r :=
  Tbl.get_set_same _ _ _

/-- A slot of fewer than 256 granules, the size of the context's field, is recorded with its size. -/
theorem State.slotNow_setSlotNow_size (s : State) (key g n : Nat) (hn : n < 256) : ((s.setSlotNow key g n).slotNow key).2 = n := by
  unfold State.setSlotNow State.slotNow
  split
  · rw [State.cf_setCf_same _ _ _ _ (by decide)]
    exact Nat.mod_eq_of_lt hn
  · rw [State.groupSlot_setGroupSlot_same]

theorem State.slotNow_groupLength (s : State) (key l : Nat) : (s.groupLength key l).slotNow key = s.slotNow key := by
  unfold State.groupLength State.slotNow
  split
  · rfl
  · rw [State.groupSlot_setGroupSlot_same]

theorem State.slotOf_of_size {s : State} {key n : Nat} (h : (s.slotNow key).2 = n) (hn : 0 < n) :
    s.slotOf key = some ((s.slotNow key).1, n) := by
  rw [State.slotOf, if_neg (by omega), ← h]

/-- A staging command that gives a slot keeps the one that has the size of its LENGTH, or takes a new run of that size. -/
theorem State.stageSlot_cases {s t : State} {key l : Nat} (h : s.stageSlot key l = .ok t) :
    ((s.slotNow key).2 = periodicGranules l ∧ t = s.groupLength key l) ∨
    ∃ u g, s.allocSlot (periodicGranules l) = some (u, g) ∧
      t = ((u.replaceSlot key).setSlotNow key g (periodicGranules l)).groupLength key l := by
  unfold State.stageSlot at h
  dsimp only at h
  split at h
  · next same => exact .inl ⟨same, (StageAns.ok.inj h).symm⟩
  · split at h
    · cases h
    · split at h
      · cases h
      · next alloc => exact .inr ⟨_, _, alloc, (StageAns.ok.inj h).symm⟩

/-- After staging, an endpoint or group has a slot of the size of its LENGTH. -/
theorem State.slotNow_of_stageSlot {s t : State} {key l : Nat} (hl : l ≤ 192) (h : s.stageSlot key l = .ok t) :
    (t.slotNow key).2 = periodicGranules l := by
  obtain ⟨same, rfl⟩ | ⟨u, g, -, rfl⟩ := State.stageSlot_cases h
  · rw [State.slotNow_groupLength, same]
  · have small := periodicGranules_of_le hl
    rw [State.slotNow_groupLength, State.slotNow_setSlotNow_size _ _ _ _ (by omega)]

/-- KIND 2 (control) takes 16 granules, whatever W and MAX_PACKET say. -/
theorem State.npGranules_control {s : State} {h : Nat} (kind : s.cf h Cx.kind = 2) : s.npGranules h = 16 :=
  if_pos (.inl kind)

/-- An endpoint other than EP 0 that is not of KIND 2 takes W packets of MAX_PACKET bytes. -/
theorem State.npGranules_packets {s : State} {h : Nat} (kind : s.cf h Cx.kind ≠ 2) (ep : h % 8 ≠ 0) :
    s.npGranules h = s.cf h Cx.window * s.cf h Cx.maxPacket / 64 :=
  if_neg (by simp [kind, ep])

/-! ## The PF's remote windows (R393) -/

section
variable (s : State) (w : Fin 256)

theorem viewKey_pf_lt : viewKey (.pf w) < 256 := w.isLt

theorem viewSize_pf : viewSize (viewKey (.pf w)) = 0x1000000 := if_pos (viewKey_pf_lt w)

/-- The PF's view w is its window w: no delegation stands between (R394). -/
theorem State.viewWin_pf : s.viewWin (viewKey (.pf w)) = w := if_pos (viewKey_pf_lt w)

theorem State.viewDev_pf : s.viewDev (viewKey (.pf w)) = s.f (Reg.XB_WIN_CFG_DEVICE w) := by
  rw [State.viewDev, State.viewWin_pf]

theorem State.viewConfigured_pf : s.viewConfigured (viewKey (.pf w)) = s.flag (Reg.XB_WIN_CFG_EN w) := by
  rw [State.viewConfigured, State.viewWin_pf, decide_eq_true (viewKey_pf_lt w), Bool.true_or, Bool.and_true]

theorem State.viewIndex_pf (x : Nat) : s.viewIndex (viewKey (.pf w)) x = s.f (Reg.XB_WIN_BASE_BASE w) * 0x1000000 + x := by
  rw [State.viewIndex, State.viewWin_pf, if_pos (viewKey_pf_lt w), Nat.add_zero]

end

theorem regSetup_read (width index : Nat) : regSetup false width index = setup 0x80 0x10 width index width := rfl
theorem regSetup_write (width index : Nat) : regSetup true width index = setup 0 0x11 width index width := rfl

/-- Settles O60: a staging command either keeps a slot of the right size or records a new one; a PF view stands for its own window. -/
theorem slotSizesAndWindowsOfThePf : Obligations.SlotSizesAndWindowsOfThePf := by
  unfold Obligations.SlotSizesAndWindowsOfThePf
  refine ⟨fun l => ⟨periodicGranules_eq l, periodicGranules_of_le⟩, fun s t key l hl _ staged => ?_,
    fun s h => ⟨fun kind _ => State.npGranules_control kind, fun kind ep => State.npGranules_packets (by omega) ep⟩,
    fun s w => ⟨viewSize_pf w, s.viewDev_pf w, s.viewConfigured_pf w, fun x _ => ⟨s.viewIndex_pf w x, fun n => ?_⟩⟩⟩
  · exact ⟨_, State.slotOf_of_size (State.slotNow_of_stageSlot hl staged) (periodicGranules_pos l)⟩
  · rw [State.viewIndex_pf]
    exact ⟨regSetup_read _ _, regSetup_write _ _⟩

end Sys2Proof.Machine

namespace Sys2Proof.Machine

/-! # The whole machine: what a step does, keeps and leaves -/

/-- A command whose next state satisfies `p` answers `p`. -/
theorem answers_of {i : Instr} {s t : State} {p : State → Prop} (h : exec i s = .next t) (hp : p t) : answers i s p := ⟨t, h, hp⟩

theorem answers_eq {i : Instr} {s t u : State} {p : State → Prop} (h : exec i s = .next u) (e : u = t) (hp : p t) : answers i s p :=
  ⟨t, h.trans (congrArg _ e), hp⟩

theorem exec_next (i : Instr) (s : State) : ∃ t, exec i s = .next t := by cases i <;> exact ⟨_, rfl⟩

/-! ## The step (R26) -/

theorem step_cons {c : Instr} {r : List Instr} {s : State} (h : s.pending = c :: r) : step s = exec c { s with pending := r } := by
  rw [step, h]

theorem step_nil {s : State} (h : s.pending = []) : step s = .next s.tickOnce := by
  rw [step, h]

theorem State.tickOnce_of_run {s : State} (run : s.time.run = true) (phase : s.time.phase < 3124) :
    s.tickOnce = { s with time := { s.time with tick := s.time.tick + 1, phase := s.time.phase + 1 } } :=
  if_pos ⟨run, Nat.succ_lt_succ phase⟩

theorem State.tickOnce_of_rest {s : State} (rest : s.time.run = false ∨ 3124 ≤ s.time.phase) : s.tickOnce = s :=
  if_neg fun ⟨run, phase⟩ => rest.elim (by simp [run]) (fun late => by simp only [Config.mfTicks] at phase; omega)

/-- A tick that passes touches the clock alone. -/
theorem State.moves_tickOnce (s : State) : Moves [.time] s s.tickOnce := State.tickOnce_moves (Moves.refl _ s) (by decide)

/-- Taking the front command off the queue leaves every part. -/
theorem State.parts_dequeue (s : State) (r : List Instr) (p : Part) : p.same s { s with pending := r } := by
  cases p <;> rfl

theorem step_next (s : State) : ∃ t, step s = .next t := by
  cases h : s.pending with
  | nil => exact ⟨_, step_nil h⟩
  | cons c r => exact step_cons h ▸ exec_next c _

/-- What every step keeps: a tick touches the clock alone, and a command what its frame says. -/
theorem step_keeps {s t : State} (h : step s = .next t) : (s.ok → t.ok) ∧ s.out <:+ t.out ∧ s.free ≤ t.free := by
  cases hp : s.pending with
  | nil =>
    rw [step_nil hp] at h
    cases h
    exact ⟨s.moves_tickOnce.ok, s.moves_tickOnce.out, s.moves_tickOnce.free⟩
  | cons c r =>
    have moves := exec_moves (step_cons hp ▸ h)
    exact ⟨moves.ok, moves.out, moves.free⟩

/-- Settles O51: the two branches of a step, and the two of a tick. -/
theorem stepRunsTheFrontCommand : Obligations.StepRunsTheFrontCommand := by
  unfold Obligations.StepRunsTheFrontCommand
  refine ⟨fun c r s h => step_cons h, fun s h => ⟨fun run phase => ?_, fun rest => ?_⟩⟩
  · have only := s.moves_tickOnce.only
    rw [State.tickOnce_of_run run phase] at only
    exact ⟨_, (step_nil h).trans (congrArg _ (State.tickOnce_of_run run phase)), rfl, rfl, rfl, run, rfl, only⟩
  · rw [step_nil h, State.tickOnce_of_rest rest]

/-- Settles O54, by the frame of every command. -/
theorem stepKeepsCanonicalForm : Obligations.StepKeepsCanonicalForm := fun _ _ ok h => (step_keeps h).1 ok

/-- Settles O55: every constructor answers a next state, so a run of any length does. -/
theorem everyCommandGoesOn : Obligations.EveryCommandGoesOn := by
  unfold Obligations.EveryCommandGoesOn
  refine ⟨exec_next, fun n => ?_⟩
  induction n with
  | zero => exact fun _ => trivial
  | succ n ih =>
    intro s
    obtain ⟨t, h⟩ := step_next s
    exact ⟨t, h, ih t⟩

/-- Settles O56, by the frame of every command. -/
theorem commandsChangeOnlyTheirParts : Obligations.CommandsChangeOnlyTheirParts := fun _ _ _ h => (exec_moves h).only

/-- Settles O57, by the frame of every command. -/
theorem outputAndFreeValuesOnlyGrow : Obligations.OutputAndFreeValuesOnlyGrow := fun _ _ h => (step_keeps h).2

/-! ## Reset (R26, R97, R98, R163, R179, R500) -/

theorem readBytes_nil (d : Byte) (a n : Nat) : Tbl.readBytes d [] a n = List.replicate n d := by
  induction n generalizing a with
  | zero => rfl
  | succ n ih => rw [Tbl.readBytes, ih, List.replicate_succ]; rfl

theorem State.reset_reg (a : Nat) : State.reset.reg a = regReset a := rfl

theorem regReset_of_regSpec {a : Nat} {r : RegSpec} (h : regSpec a = some r) : regReset a = BitVec.ofNat 32 r.reset := by
  rw [regReset, h]

theorem State.reset_f (x : Fld) : State.reset.f x = bits (regReset x.addr) x.lo x.w := rfl

theorem reset_lane_status (n : LaneId) : regReset (Reg.LX_LANE_STATUS n) = 0x80 :=
  regReset_of_regSpec (regSpec_lane n 0x4 _ n.isLt (by decide) rfl)

theorem reset_lane_taps (n : LaneId) : regReset (Reg.LX_TX_TAPS n) = 0xC3004 :=
  regReset_of_regSpec (regSpec_lane n 0x8 _ n.isLt (by decide) rfl)

/-- Settles O53: the register map gives the reset values of the lanes and ports, and the rest is read off the state. -/
theorem resetLeavesTheStatedValues : Obligations.ResetLeavesTheStatedValues := by
  unfold Obligations.ResetLeavesTheStatedValues
  refine ⟨⟨rfl, rfl, rfl⟩, rfl, rfl, State.reset_reg, rfl, fun a n => readBytes_nil 0 a n,
    fun n => ⟨reset_lane_status n, reset_lane_taps n, ?_⟩, fun p => ?_, rfl, rfl, rfl, rfl, rfl, rfl, rfl, ?_, ?_⟩
  · rw [State.laneState, State.reset_f]; exact congrArg (bits · 0 3) (reset_lane_status n)
  · rw [State.portState, if_pos p.isLt, State.reset_f]
    exact congrArg (bits · 0 3) (regReset_of_regSpec (regSpec_port p 0x4 _ p.isLt (by decide) rfl))
  · decide +kernel
  · decide +kernel

end Sys2Proof.Machine

namespace Sys2Proof.Machine

/-! # What commands leave: registers and the records of other lanes -/

/-! ## Fields of other registers -/

theorem State.f_setB_other (s : State) {x y : Fld} (b : Bool) (h : y.addr ≠ x.addr) : (s.setB x b).f y = s.f y := s.f_setF_other _ h

theorem State.f_bump_other (s : State) {x y : Fld} (n : Nat) (h : y.addr ≠ x.addr) : (s.bump x n).f y = s.f y := s.f_setF_other _ h

theorem State.flag_setF_other (s : State) {x y : Fld} (v : Nat) (h : y.addr ≠ x.addr) : (s.setF x v).flag y = s.flag y := by
  rw [State.flag, State.f_setF_other s v h, State.flag]

theorem State.flag_setB_other (s : State) {x y : Fld} (b : Bool) (h : y.addr ≠ x.addr) : (s.setB x b).flag y = s.flag y :=
  s.flag_setF_other _ h

theorem State.flag_bump_other (s : State) {x y : Fld} (n : Nat) (h : y.addr ≠ x.addr) : (s.bump x n).flag y = s.flag y :=
  s.flag_setF_other _ h

/-! ## Frames -/

/-- From `s` to `t` at most the record of lane `n` changes among those of the lanes. -/
def State.lanesBut (n : Nat) (s t : State) : Prop := ∀ m, m ≠ n → t.lane m = s.lane m

section
variable {l k : List Nat} {n : Nat} {s t u : State}

theorem State.regsBut.refl (l : List Nat) (s : State) : s.regsBut l s := fun _ _ => rfl

/-- A change that leaves the register file leaves every register. -/
theorem State.regsBut.keep (h : s.regsBut l t) (e : u.regs = t.regs) : s.regsBut l u := fun a ha =>
  (congrArg (Tbl.get regReset · a) e).trans (h a ha)

theorem State.regsBut.trans (h : s.regsBut l t) (h' : t.regsBut l u) : s.regsBut l u := fun a ha => (h' a ha).trans (h a ha)

theorem State.regsBut.mono (h : s.regsBut k t) (sub : k ⊆ l) : s.regsBut l t := fun a ha => h a (fun hk => ha (sub hk))

/-- A change goes on with another one. -/
theorem State.regsBut.step (h : s.regsBut l t) (h' : t.regsBut k u) (sub : k ⊆ l) : s.regsBut l u := h.trans (h'.mono sub)

theorem State.regsBut.setReg (h : s.regsBut l t) {a : Nat} (v : Word) (ha : a ∈ l) : s.regsBut l (t.setReg a v) := fun b hb =>
  (State.reg_setReg_other t v (fun e => hb (by rwa [e]))).trans (h b hb)

theorem State.regsBut.setF (h : s.regsBut l t) {x : Fld} (v : Nat) (hx : x.addr ∈ l) : s.regsBut l (t.setF x v) := h.setReg _ hx
theorem State.regsBut.setB (h : s.regsBut l t) {x : Fld} (b : Bool) (hx : x.addr ∈ l) : s.regsBut l (t.setB x b) := h.setReg _ hx
theorem State.regsBut.bump (h : s.regsBut l t) {x : Fld} (k : Nat) (hx : x.addr ∈ l) : s.regsBut l (t.bump x k) := h.setReg _ hx

theorem State.regsBut.ite {c : Prop} [Decidable c] (ht : c → s.regsBut l t) (hu : ¬c → s.regsBut l u) :
    s.regsBut l (if c then t else u) := by
  split <;> [exact ht ‹_›; exact hu ‹_›]

theorem State.regsBut.when (h : s.regsBut l t) (c : Bool) {g : State → State} (hg : s.regsBut l (g t)) : s.regsBut l (t.when c g) :=
  State.regsBut.ite (fun _ => hg) (fun _ => h)

theorem State.regsBut.foldl {α : Type} {g : State → α → State} (xs : List α) (h : s.regsBut l t)
    (hg : ∀ u x, s.regsBut l u → s.regsBut l (g u x)) : s.regsBut l (xs.foldl g t) := by
  induction xs generalizing t with
  | nil => exact h
  | cons x r ih => exact ih (hg t x h)

theorem State.regsBut.updLane (h : s.regsBut l t) (n : Nat) (g : LaneRec → LaneRec) : s.regsBut l (t.updLane n g) := h.keep rfl
theorem State.regsBut.updCk (h : s.regsBut l t) (g : ClockSt → ClockSt) : s.regsBut l (t.updCk g) := h.keep rfl
theorem State.regsBut.updPu (h : s.regsBut l t) (g : PairSt → PairSt) : s.regsBut l (t.updPu g) := h.keep rfl
theorem State.regsBut.updPort (h : s.regsBut l t) (p : Nat) (g : PortRec → PortRec) : s.regsBut l (t.updPort p g) := h.keep rfl
theorem State.regsBut.emit (h : s.regsBut l t) (e : Emit) : s.regsBut l (t.emit e) := h.keep rfl

/-- A field of a register that stays reads as before. -/
theorem State.regsBut.f (h : s.regsBut l t) {x : Fld} (hx : x.addr ∉ l) : t.f x = s.f x := by
  rw [State.f, h _ hx, State.f]

theorem State.regsBut.flag (h : s.regsBut l t) {x : Fld} (hx : x.addr ∉ l) : t.flag x = s.flag x := by
  rw [State.flag, h.f hx, State.flag]

theorem State.lanesBut.refl (n : Nat) (s : State) : s.lanesBut n s := fun _ _ => rfl

/-- A change that leaves the lanes' records leaves every one. -/
theorem State.lanesBut.keep (h : s.lanesBut n t) (e : u.lx.lanes = t.lx.lanes) : s.lanesBut n u := fun m hm =>
  (congrArg (Tbl.get (fun _ => LaneRec.reset) · m) e).trans (h m hm)

theorem State.lanesBut.trans (h : s.lanesBut n t) (h' : t.lanesBut n u) : s.lanesBut n u := fun m hm => (h' m hm).trans (h m hm)

theorem State.lanesBut.setF (h : s.lanesBut n t) (x : Fld) (v : Nat) : s.lanesBut n (t.setF x v) := h.keep rfl
theorem State.lanesBut.setB (h : s.lanesBut n t) (x : Fld) (b : Bool) : s.lanesBut n (t.setB x b) := h.keep rfl
theorem State.lanesBut.emit (h : s.lanesBut n t) (e : Emit) : s.lanesBut n (t.emit e) := h.keep rfl

theorem State.lanesBut.updLane (h : s.lanesBut n t) (g : LaneRec → LaneRec) : s.lanesBut n (t.updLane n g) := fun m hm =>
  (Tbl.get_set_other _ _ hm).trans (h m hm)

theorem State.lanesBut.ite {c : Prop} [Decidable c] (ht : c → s.lanesBut n t) (hu : ¬c → s.lanesBut n u) :
    s.lanesBut n (if c then t else u) := by
  split <;> [exact ht ‹_›; exact hu ‹_›]

end

/-! ## The operations of one lane (R80 to R84) -/

section
variable (s : State) (n : Nat)

/-- The registers that a lane's state lies in, and those that follow a reference when the lane leaves UP (R465). -/
def stateRegs (n : Nat) : List Nat := [Reg.LX_LANE_STATUS n, Reg.LX_PRBS_STATUS n, Reg.CKG_STATUS, Reg.CKG_REF_EVENTS]

/-- These, and the register of the lane's taps. -/
def laneRegs (n : Nat) : List Nat := [Reg.LX_LANE_STATUS n, Reg.LX_TX_TAPS n, Reg.LX_PRBS_STATUS n, Reg.CKG_STATUS, Reg.CKG_REF_EVENTS]

theorem State.regsBut_reselect : s.regsBut [Reg.CKG_STATUS, Reg.CKG_REF_EVENTS] s.reselect := by
  have h := State.regsBut.refl [Reg.CKG_STATUS, Reg.CKG_REF_EVENTS] s
  unfold State.reselect
  split
  · split
    · refine .ite (fun _ => h.setB _ ?_) (fun _ => ((h.setB _ ?_).setF _ ?_).bump _ ?_)
      all_goals simp [Reg.CKG_STATUS_HOLDOVER, Reg.CKG_STATUS_SRC, Reg.CKG_REF_EVENTS_SWITCHES]
    · exact h.setB _ (.head _)
  · exact h

theorem State.reselect_lx : s.reselect.lx = s.lx :=
  (State.reselect_moves (Moves.refl [.regs] s) (by decide)).only.2 .lx (by decide)

theorem State.regsBut_refFollows (was st : Nat) : s.regsBut [Reg.CKG_STATUS, Reg.CKG_REF_EVENTS] (s.refFollows n was st) := by
  have h := State.regsBut.refl [Reg.CKG_STATUS, Reg.CKG_REF_EVENTS] s
  unfold State.refFollows
  extract_lets a b
  split
  · refine State.regsBut.trans (State.regsBut.bump (h.keep rfl) _ ?_) (State.regsBut_reselect _)
    simp [Reg.CKG_REF_EVENTS_LOSSES]
  · exact h

theorem State.refFollows_lx (was st : Nat) : (s.refFollows n was st).lx = s.lx := by
  unfold State.refFollows
  extract_lets a b
  split
  · rw [State.reselect_lx, State.bump_lx, State.updCk_lx]
  · rfl

/-- Keeping a tick in the record of a lane leaves the registers. -/
theorem State.regsBut.noteLane {l : List Nat} {z t : State} (h : z.regsBut l t) {c : Prop} [Decidable c] (g : LaneRec → LaneRec) :
    z.regsBut l (if c then t else t.updLane n g) := .ite (fun _ => h) (fun _ => h.keep rfl)

theorem State.lanesBut.noteLane {z t : State} (h : z.lanesBut n t) {c : Prop} [Decidable c] (g : LaneRec → LaneRec) :
    z.lanesBut n (if c then t else t.updLane n g) := .ite (fun _ => h) (fun _ => h.updLane g)

theorem State.regsBut_setLane (st : Nat) : s.regsBut (stateRegs n) (s.setLane n st) := by
  have h := State.regsBut.refl (stateRegs n) s
  unfold State.setLane
  extract_lets s1 held s2 s3 was
  have h1 : s.regsBut (stateRegs n) s1 := h.noteLane n _
  have h2 : s.regsBut (stateRegs n) s2 := h1.noteLane n _
  have h3 : s.regsBut (stateRegs n) s3 := .ite (fun _ => h2) (fun _ => h2.setB _ (.tail _ (.head _)))
  have h4 := h3.setF (x := Reg.LX_LANE_STATUS_STATE n) st (.head _)
  exact h4.step (State.regsBut_refFollows _ n was st) (by simp [stateRegs])

theorem stateRegs_subset (n : Nat) : stateRegs n ⊆ laneRegs n := by simp [stateRegs, laneRegs]

theorem State.lanesBut_setLane (st : Nat) : s.lanesBut n (s.setLane n st) := by
  have h := State.lanesBut.refl n s
  unfold State.setLane
  extract_lets s1 held s2 s3 was
  have h1 : s.lanesBut n s1 := h.noteLane n _
  have h2 : s.lanesBut n s2 := h1.noteLane n _
  have h3 : s.lanesBut n s3 := .ite (fun _ => h2) (fun _ => h2.keep rfl)
  exact h3.keep (congrArg LaneSt.lanes (State.refFollows_lx _ n was st))

theorem State.regsBut_startTraining : s.regsBut (laneRegs n) (s.startTraining n) := by
  unfold State.startTraining
  extract_lets s1 s2 s3
  have h1 : s.regsBut (laneRegs n) s1 := (State.regsBut_setLane s n _).mono (stateRegs_subset n)
  have taps (a b c : Nat) : s.regsBut (laneRegs n)
      (((s1.setF (Reg.LX_TX_TAPS_PRE n) a).setF (Reg.LX_TX_TAPS_MAIN n) b).setF (Reg.LX_TX_TAPS_POST n) c) :=
    ((h1.setF (x := Reg.LX_TX_TAPS_PRE n) a (.tail _ (.head _))).setF (x := Reg.LX_TX_TAPS_MAIN n) b (.tail _ (.head _))).setF
      (x := Reg.LX_TX_TAPS_POST n) c (.tail _ (.head _))
  have h2 : s.regsBut (laneRegs n) s2 := .ite (fun _ => h1) (fun _ => .ite (fun _ => taps 0 64 0) (fun _ => taps 4 48 12))
  exact (h2.updLane n _).emit _

theorem State.lanesBut_startTraining : s.lanesBut n (s.startTraining n) := by
  unfold State.startTraining
  extract_lets s1 s2 s3
  have h1 : s.lanesBut n s1 := State.lanesBut_setLane s n _
  have taps (a b c : Nat) : s.lanesBut n
      (((s1.setF (Reg.LX_TX_TAPS_PRE n) a).setF (Reg.LX_TX_TAPS_MAIN n) b).setF (Reg.LX_TX_TAPS_POST n) c) :=
    ((h1.setF _ a).setF _ b).setF _ c
  have h2 : s.lanesBut n s2 := .ite (fun _ => h1) (fun _ => .ite (fun _ => taps 0 64 0) (fun _ => taps 4 48 12))
  exact (h2.updLane _).emit _

theorem tapF_addr (n tap : Nat) : (tapF n tap).addr = Reg.LX_TX_TAPS n := by
  unfold tapF
  split <;> rfl

theorem State.regsBut_applyTap (b tap : Nat) : s.regsBut [Reg.LX_TX_TAPS n] (s.applyTap n b tap) := by
  have h := State.regsBut.refl [Reg.LX_TX_TAPS n] s
  unfold State.applyTap
  extract_lets r sum
  refine .ite (fun _ => h.updLane n _) (fun _ => .ite (fun _ => h) (fun _ => .ite (fun _ => h.updLane n _) (fun _ => ?_)))
  exact (h.setF _ (by rw [tapF_addr]; exact .head _)).updLane n _

theorem State.lanesBut_applyTap (b tap : Nat) : s.lanesBut n (s.applyTap n b tap) := by
  have h := State.lanesBut.refl n s
  unfold State.applyTap
  extract_lets r sum
  exact .ite (fun _ => h.updLane _) (fun _ => .ite (fun _ => h) (fun _ => .ite (fun _ => h.updLane _)
    (fun _ => (h.setF _ _).updLane _)))

theorem State.regsBut_applyPreset (a b c : Nat) : s.regsBut [Reg.LX_TX_TAPS n] (s.applyPreset n a b c) := by
  have h := State.regsBut.refl [Reg.LX_TX_TAPS n] s
  have mem (tap : Nat) : (tapF n tap).addr ∈ [Reg.LX_TX_TAPS n] := by rw [tapF_addr]; exact .head _
  unfold State.applyPreset
  extract_lets ovr s1 v
  have h1 : s.regsBut [Reg.LX_TX_TAPS n] s1 := .ite (fun _ => h) (fun _ => ((h.setF _ (mem 0)).setF _ (mem 1)).setF _ (mem 2))
  exact .ite (fun _ => h) (fun _ => h1.updLane n _)

theorem State.lanesBut_applyPreset (a b c : Nat) : s.lanesBut n (s.applyPreset n a b c) := by
  have h := State.lanesBut.refl n s
  unfold State.applyPreset
  extract_lets ovr s1 v
  have h1 : s.lanesBut n s1 := .ite (fun _ => h) (fun _ => ((h.setF _ _).setF _ _).setF _ _)
  exact .ite (fun _ => h) (fun _ => h1.updLane _)

theorem State.regsBut_applyRequest (req : Nat) : s.regsBut [Reg.LX_TX_TAPS n] (s.applyRequest n req) := by
  have taps (b : Nat) : s.regsBut [Reg.LX_TX_TAPS n] (((s.applyTap n b 0).applyTap n b 1).applyTap n b 2) :=
    ((State.regsBut_applyTap s n b 0).trans (State.regsBut_applyTap _ n b 1)).trans (State.regsBut_applyTap _ n b 2)
  unfold State.applyRequest
  exact .ite (fun _ => taps 0) (fun _ => .ite (fun _ => .refl _ s) (fun _ => .ite (fun _ => State.regsBut_applyPreset s n _ _ _)
    (fun _ => .ite (fun _ => State.regsBut_applyPreset s n _ _ _) (fun _ => taps req))))

theorem State.lanesBut_applyRequest (req : Nat) : s.lanesBut n (s.applyRequest n req) := by
  have taps (b : Nat) : s.lanesBut n (((s.applyTap n b 0).applyTap n b 1).applyTap n b 2) :=
    ((State.lanesBut_applyTap s n b 0).trans (State.lanesBut_applyTap _ n b 1)).trans (State.lanesBut_applyTap _ n b 2)
  unfold State.applyRequest
  exact .ite (fun _ => taps 0) (fun _ => .ite (fun _ => .refl _ s) (fun _ => .ite (fun _ => State.lanesBut_applyPreset s n _ _ _)
    (fun _ => .ite (fun _ => State.lanesBut_applyPreset s n _ _ _) (fun _ => taps req))))

theorem State.placeRequest_regs (status : Nat) : (s.placeRequest n status).regs = s.regs := by
  unfold State.placeRequest
  extract_lets l asked s1 q
  split <;> rfl

theorem State.lanesBut_placeRequest (status : Nat) : s.lanesBut n (s.placeRequest n status) := by
  have h := State.lanesBut.refl n s
  unfold State.placeRequest
  extract_lets l asked s1 q
  have h1 : s.lanesBut n s1 := h.updLane _
  exact .ite (fun _ => h1) (fun _ => (h1.keep rfl).updLane _)

/-- The handshake of a lane changes its taps and its own record. -/
theorem State.regsBut_tapHandshake (req status : Nat) : s.regsBut [Reg.LX_TX_TAPS n] (s.tapHandshake n req status) :=
  (State.regsBut_applyRequest s n req).keep (State.placeRequest_regs _ n status)

theorem State.lanesBut_tapHandshake (req status : Nat) : s.lanesBut n (s.tapHandshake n req status) :=
  ((State.lanesBut_applyRequest s n req).trans (State.lanesBut_placeRequest _ n status)).updLane _

end

/-! ## The frames of the commands of a lane -/

section
variable (s : State) (n : LaneId)

theorem State.frame_trainHeaderReceived (raw : BitVec 64) (inv : Bool) :
    s.regsBut (laneRegs n) (s.trainHeaderReceived n raw inv) ∧ s.lanesBut n (s.trainHeaderReceived n raw inv) := by
  unfold State.trainHeaderReceived
  extract_lets b s1 s2
  have h1 : s.regsBut (laneRegs n) s1 := (State.regsBut.refl _ s).setB (x := Reg.LX_LANE_STATUS_RX_INVERTED n) inv (.head _)
  have h1' : s.lanesBut n s1 := (State.lanesBut.refl _ s).setB _ _
  exact ⟨.ite (fun _ => (h1.step (State.regsBut_tapHandshake s1 n _ _) (by simp [laneRegs])).emit _) (fun _ => .refl _ s),
    .ite (fun _ => (h1'.trans (State.lanesBut_tapHandshake s1 n _ _)).emit _) (fun _ => .refl _ s)⟩

/-- A training that starts with its tries cleared. -/
theorem State.frame_startTraining_tries : s.regsBut (laneRegs n) ((s.updLane n (fun l => { l with tries := 0 })).startTraining n) ∧
    s.lanesBut n ((s.updLane n (fun l => { l with tries := 0 })).startTraining n) :=
  ⟨((State.regsBut.refl _ s).updLane n _).trans (State.regsBut_startTraining _ n),
    ((State.lanesBut.refl _ s).updLane _).trans (State.lanesBut_startTraining _ n)⟩

theorem State.frame_trainStart : s.regsBut (laneRegs n) (s.trainStart n) ∧ s.lanesBut n (s.trainStart n) :=
  ⟨.ite (fun _ => (s.frame_startTraining_tries n).1) (fun _ => .refl _ s),
    .ite (fun _ => (s.frame_startTraining_tries n).2) (fun _ => .refl _ s)⟩

theorem State.frame_converged (m : Margins) : s.regsBut [] (s.converged n m) ∧ s.lanesBut n (s.converged n m) :=
  ⟨.ite (fun _ => (((State.regsBut.refl _ s).updLane n _).updLane n _).emit _) (fun _ => .refl _ s),
    .ite (fun _ => (((State.lanesBut.refl _ s).updLane _).updLane _).emit _) (fun _ => .refl _ s)⟩

theorem State.regsBut.auditBip {l : List Nat} {z t : State} (h : z.regsBut l t) (m : Nat) : z.regsBut l (t.auditBip m) := h.keep rfl
theorem State.lanesBut.auditBip {k : Nat} {z t : State} (h : z.lanesBut k t) (m : Nat) : z.lanesBut k (t.auditBip m) := h.keep rfl

theorem State.frame_markerReceived (m : Marker) : s.regsBut [Reg.LX_LANE_STATUS n, Reg.LX_BIP_ERRORS n] (s.markerReceived n m) ∧
    s.lanesBut n (s.markerReceived n m) := by
  unfold State.markerReceived
  extract_lets b lane ok s1 s2
  have h1 : s.regsBut [Reg.LX_LANE_STATUS n, Reg.LX_BIP_ERRORS n] s1 :=
    ((State.regsBut.refl _ s).setF (x := Reg.LX_LANE_STATUS_PEER_LANE n) lane (.head _)).setF
      (x := Reg.LX_LANE_STATUS_PEER_PORT n) (field b 2 1) (.head _)
  have h2 : s.regsBut [Reg.LX_LANE_STATUS n, Reg.LX_BIP_ERRORS n] s2 := h1.updLane n _
  have h2' : s.lanesBut n s2 := (((State.lanesBut.refl _ s).setF _ _).setF _ _).updLane _
  have h3 := h2.bump (x := Reg.LX_BIP_ERRORS_COUNT n) 1 (.tail _ (.head _))
  have h3' := h2'.setF (Reg.LX_BIP_ERRORS_COUNT n) (min (s2.f (Reg.LX_BIP_ERRORS_COUNT n) + 1) (2 ^ (Reg.LX_BIP_ERRORS_COUNT n).w - 1))
  exact ⟨.ite (fun _ => .ite (fun _ => h2) (fun _ => h3.auditBip n)) (fun _ => .refl _ s),
    .ite (fun _ => .ite (fun _ => h2') (fun _ => h3'.auditBip n)) (fun _ => .refl _ s)⟩

theorem State.regsBut_marginStart : s.regsBut [Reg.LX_EYE_STATUS n] (s.marginStart n) := by
  have h := State.regsBut.refl [Reg.LX_EYE_STATUS n] s
  unfold State.marginStart
  extract_lets s1
  have h1 : s.regsBut [Reg.LX_EYE_STATUS n] s1 := h.updLane n _
  exact .ite (fun _ => .ite (fun _ => h1.bump _ (.head _)) (fun _ => (h1.setB (x := Reg.LX_EYE_STATUS_HW_ACTIVE n) _ (.head _)).setB _ (.head _)))
    (fun _ => h)

theorem State.regsBut_eyePoint (c : Word) : s.regsBut [Reg.LX_EYE_STATUS n, Reg.LX_EYE_COUNT n] (s.eyePoint n c) := by
  have h := State.regsBut.refl [Reg.LX_EYE_STATUS n, Reg.LX_EYE_COUNT n] s
  unfold State.eyePoint
  refine .ite (fun _ => h) (fun _ => .ite (fun _ => .ite (fun _ => ?_) (fun _ => h)) (fun _ => ?_))
  · exact ((h.setB (x := Reg.LX_EYE_STATUS_HW_ACTIVE n) _ (.head _)).setB (x := Reg.LX_EYE_STATUS_BUSY n) _ (.head _)).updLane n _
  · exact ((h.setReg (a := Reg.LX_EYE_COUNT n) c (.tail _ (.head _))).setB (x := Reg.LX_EYE_STATUS_BUSY n) _ (.head _)).setB _ (.head _)

theorem State.regsBut_lockLost (e : Nat) : s.regsBut [Reg.LX_PRBS_STATUS n, Reg.LX_PRBS_ERRORS n] (s.lockLost n e) := by
  have h := State.regsBut.refl [Reg.LX_PRBS_STATUS n, Reg.LX_PRBS_ERRORS n] s
  exact .ite (fun _ => ((h.bump (x := Reg.LX_PRBS_ERRORS_COUNT n) _ (.tail _ (.head _))).setB (x := Reg.LX_PRBS_STATUS_LOST n) _ (.head _)).setB
    (x := Reg.LX_PRBS_STATUS_LOCKED n) _ (.head _)) (fun _ => h)

end

/-! ## The frames of small status events -/

section
variable (s : State)

theorem State.regsBut_tempSample (c : Int) : s.regsBut [Reg.GLB_THERM] (s.tempSample c) := by
  unfold State.tempSample
  extract_lets thresh was above s1
  have h1 : s.regsBut [Reg.GLB_THERM] s1 :=
    ((State.regsBut.refl _ s).setF (x := Reg.GLB_THERM_TEMP) _ (.head _)).setB (x := Reg.GLB_THERM_ABOVE) _ (.head _)
  exact .ite (fun _ => h1.setB _ (.head _)) (fun _ => h1)

theorem State.regsBut_showSteady : s.regsBut [Reg.PMU_STATUS] s.showSteady :=
  .ite (fun _ => (State.regsBut.refl _ s).setF _ (.head _)) (fun _ => .refl _ s)

theorem vopOf_addr (d : Nat) : (vopOf d).addr = Reg.PMU_STATUS := by
  unfold vopOf
  split <;> rfl

theorem State.regsBut_dvfsDone : s.regsBut [Reg.PMU_STATUS, Reg.PMU_DVFS_STATUS] s.dvfsDone := by
  unfold State.dvfsDone
  split
  case h_2 => exact .refl _ s
  case h_1 d _ op _ =>
    have h : s.regsBut [Reg.PMU_STATUS, Reg.PMU_DVFS_STATUS] (s.updPm (fun p => { p with dvfs := none })) := (State.regsBut.refl _ s).keep rfl
    have h1 := (h.setF (x := vopOf d) op (by rw [vopOf_addr]; exact .head _)).setB (x := Reg.PMU_DVFS_STATUS_BUSY) false (.tail _ (.head _))
    exact (h1.when (d == 1) (h1.keep (u := State.markOp _) rfl)).step (State.regsBut_showSteady _) (by simp)

theorem State.regsBut_rsqDone : s.regsBut [Reg.RSQ_STATUS] s.rsqDone :=
  .ite (fun _ => ((State.regsBut.refl _ s).updCk _).setB _ (.head _)) (fun _ => .refl _ s)

theorem State.regsBut_forgetExpiries : s.regsBut [Reg.RSQ_STATUS] s.forgetExpiries :=
  ((State.regsBut.refl _ s).updCk _).setF (x := Reg.RSQ_STATUS_COUNTED) _ (.head _)

theorem State.regsBut_resend : s.regsBut [Reg.PU_MIODEL_ERRORS] s.resend := by
  have h := State.regsBut.refl [Reg.PU_MIODEL_ERRORS] s
  refine .ite (fun _ => ?_) (fun _ => h)
  have sent := h.foldl s.pu.unacked (g := fun s x => s.sendTimed x.2) (fun u x hu => .ite (fun _ => hu.emit _) (fun _ => hu))
  exact (sent.bump (x := Reg.PU_MIODEL_ERRORS_RETRANSMITS) _ (.head _)).updPu _

theorem State.regsBut_refLost (r : RefSource) : s.regsBut [Reg.CKG_STATUS, Reg.CKG_REF_EVENTS] (s.refLost r) := by
  have h := State.regsBut.refl [Reg.CKG_STATUS, Reg.CKG_REF_EVENTS] s
  unfold State.refLost
  extract_lets s1
  have h1 : s.regsBut [Reg.CKG_STATUS, Reg.CKG_REF_EVENTS] s1 := by
    cases r
    case cascade => exact h.updCk _
    case miodel => exact h.updCk _
    case refclk => exact (h.updCk _).setB (x := Reg.CKG_STATUS_REFCLK_PRESENT) false (.head _)
  exact .ite (fun _ => (h1.bump (x := Reg.CKG_REF_EVENTS_LOSSES) 1 (.tail _ (.head _))).trans
    (State.regsBut_reselect _)) (fun _ => h)

theorem State.regsBut_corruptPacket (t : Nat) (c : Discard) : s.regsBut [Reg.LNK_RX_CRC t, Reg.LNK_PARITY t] (s.corruptPacket t c) := by
  have h := State.regsBut.refl [Reg.LNK_RX_CRC t, Reg.LNK_PARITY t] s
  have hc : s.regsBut [Reg.LNK_RX_CRC t, Reg.LNK_PARITY t] (s.discardCrc t) :=
    (h.bump (x := Reg.LNK_RX_CRC_COUNT t) 1 (.head _)).updPort t _
  refine .ite (fun _ => h) (fun _ => ?_)
  cases c
  case kind => exact h.updPort t _
  case crc => exact hc
  case parity => exact hc.bump (x := Reg.LNK_PARITY_RX t) 1 (.tail _ (.head _))

end

theorem exec_inj {i : Instr} {s t u : State} (h : exec i s = .next t) (e : exec i s = .next u) : u = t :=
  Host.Outcome.next.inj (e.symm.trans h)

/-- Settles O58: the frames of the operations that these commands are made of. -/
theorem smallCommandsLeaveOtherRegisters : Obligations.SmallCommandsLeaveOtherRegisters := by
  unfold Obligations.SmallCommandsLeaveOtherRegisters
  refine ⟨fun s t n => ⟨?_, ?_, ?_, ?_, ?_, ?_, ?_, ?_, ?_⟩, fun s t => ⟨?_, ?_, ?_, ?_, ?_, ?_, ?_, ?_, ?_⟩⟩
  · rintro (⟨raw, inv, h⟩ | h | h | h) <;> obtain rfl := exec_inj h rfl
    · exact s.frame_trainHeaderReceived n raw inv
    · exact s.frame_trainStart n
    · exact ⟨.ite (fun _ => State.regsBut_startTraining s n) (fun _ => .refl _ s),
        State.lanesBut.ite (fun _ => State.lanesBut_startTraining s n) (fun _ => .refl _ s)⟩
    · exact ⟨.ite (fun _ => (s.frame_startTraining_tries n).1) (fun _ => .refl _ s),
        State.lanesBut.ite (fun _ => (s.frame_startTraining_tries n).2) (fun _ => .refl _ s)⟩
  · rintro ⟨m, h⟩; obtain rfl := exec_inj h rfl; exact s.frame_converged n m
  · rintro ⟨m, h⟩; obtain rfl := exec_inj h rfl; exact s.frame_markerReceived n m
  · intro h; obtain rfl := exec_inj h rfl
    exact .ite (fun _ => ((State.regsBut.refl _ s).setB (x := Reg.LX_LANE_STATUS_ADAPT_FROZEN n) _ (.head _)).bump
      (x := Reg.LX_IDLE_FREEZES_COUNT n) 1 (.tail _ (.head _))) (fun _ => .refl _ s)
  · intro h; obtain rfl := exec_inj h rfl
    exact .ite (fun _ => .refl _ s) (fun _ => (State.regsBut.refl _ s).setB _ (.head _))
  · intro h; obtain rfl := exec_inj h rfl; exact s.regsBut_marginStart n
  · rintro ⟨c, h⟩; obtain rfl := exec_inj h rfl; exact s.regsBut_eyePoint n c
  · intro h; obtain rfl := exec_inj h rfl
    exact ⟨.ite (fun _ => ((State.regsBut.refl _ s).setB (x := Reg.LX_PRBS_STATUS_LOCKED n) _ (.head _)).keep rfl) (fun _ => .refl _ s),
      State.lanesBut.ite (fun _ => (State.lanesBut.refl _ s).keep rfl) (fun _ => .refl _ s)⟩
  · rintro ⟨e, h⟩; obtain rfl := exec_inj h rfl; exact s.regsBut_lockLost n _
  · rintro ⟨c, h⟩; obtain rfl := exec_inj h rfl; exact s.regsBut_tempSample _
  · rintro (h | h) <;> obtain rfl := exec_inj h rfl
    · exact .ite (fun _ => (State.regsBut.refl _ s).setB _ (.head _)) (fun _ => .refl _ s)
    · exact .ite (fun _ => (State.regsBut.refl _ s).setB _ (.head _)) (fun _ => .refl _ s)
  · intro h; obtain rfl := exec_inj h rfl; exact s.regsBut_dvfsDone
  · intro h; obtain rfl := exec_inj h rfl
    exact .ite (fun _ => (State.regsBut.refl _ s).bump _ (.head _)) (fun _ => .refl _ s)
  · intro h; obtain rfl := exec_inj h rfl
    exact .ite (fun _ => .refl _ s) (fun _ => (State.regsBut.refl _ s).setB _ (.head _))
  · rintro (h | h) <;> obtain rfl := exec_inj h rfl
    · exact s.regsBut_rsqDone
    · exact s.regsBut_forgetExpiries
  · rintro (⟨x, h⟩ | h) <;> obtain rfl := exec_inj h rfl
    · exact .ite (fun _ => (State.regsBut.refl _ s).bump _ (.head _)) (fun _ => .refl _ s)
    · exact s.regsBut_resend
  · rintro ⟨r, h⟩; obtain rfl := exec_inj h rfl; exact s.regsBut_refLost r
  · intro k h; obtain rfl := exec_inj h rfl; exact s.regsBut_corruptPacket _ _

end Sys2Proof.Machine

namespace Sys2Proof.Machine

/-! # What the trace is on the lines (R39, R40, R42, R73, R75 to R78) -/

/-! ## The self-synchronising scrambler (R73) -/

theorem throughBits_length (f : Nat → Bool → Bool × Nat) (st : Nat) (l : List Bool) : (throughBits f st l).1.length = l.length := by
  induction l generalizing st with
  | nil => rfl
  | cons b r ih => simp only [throughBits, List.length_cons, ih]

/-- Bit `i` of a number depends on its lowest `i + 1` bits alone. -/
theorem nbit_congr {u v i k : Nat} (h : u % 2 ^ k = v % 2 ^ k) (hi : i < k) : nbit u i = nbit v i := by
  have bit (w : Nat) : w / 2 ^ i % 2 = w % 2 ^ k / 2 ^ i % 2 := by
    have := Nat.testBit_mod_two_pow w k i
    simp only [hi, decide_true, Bool.true_and, Nat.testBit_eq_decide_div_mod_eq] at this
    have := decide_eq_decide.mp this
    omega
  unfold nbit
  rw [bit u, bit v, h]

/-- Two states that agree in their newest `k` bits agree in `k + 1` after the same bit. -/
theorem shift_congr {u v k : Nat} (h : u % 2 ^ k = v % 2 ^ k) (hk : k < 58) (b : Nat) :
    (2 * u + b) % 2 ^ 58 % 2 ^ (k + 1) = (2 * v + b) % 2 ^ 58 % 2 ^ (k + 1) := by
  have dvd : 2 ^ (k + 1) ∣ 2 ^ 58 := Nat.pow_dvd_pow 2 hk
  rw [Nat.mod_mod_of_dvd _ dvd, Nat.mod_mod_of_dvd _ dvd]
  have twice : 2 * u % 2 ^ (k + 1) = 2 * v % 2 ^ (k + 1) := by
    rw [Nat.pow_succ', Nat.mul_mod_mul_left, Nat.mul_mod_mul_left, h]
  exact Nat.ModEq.add_right b twice

/-- A descrambler whose state agrees with the scrambler's in the newest `k` bits gives every bit from the `58 - k`-th on. -/
theorem descramble_drop (l : List Bool) (st u k : Nat) (hk : k ≤ 58) (h : u % 2 ^ k = st % 2 ^ k) :
    (throughBits descrambleBit u (throughBits scrambleBit st l).1).1.drop (58 - k) = l.drop (58 - k) := by
  induction l generalizing st u k with
  | nil => rfl
  | cons b r ih =>
    simp only [throughBits, scrambleBit, descrambleBit]
    rcases Nat.lt_or_eq_of_le hk with lt | rfl
    · rw [show 58 - k = 58 - (k + 1) + 1 by omega, List.drop_succ_cons, List.drop_succ_cons]
      exact ih _ _ (k + 1) lt (shift_congr h lt _)
    · have e38 := nbit_congr h (i := 38) (by decide)
      have e57 := nbit_congr h (i := 57) (by decide)
      have rest := ih ((2 * st + b2n (b ^^ (nbit st 38 ^^ nbit st 57))) % 2 ^ 58) ((2 * u + b2n (b ^^ (nbit st 38 ^^ nbit st 57))) % 2 ^ 58) 58
        (Nat.le_refl _) (by rw [Nat.mod_mod, Nat.mod_mod]; exact Nat.ModEq.add_right _ (Nat.ModEq.mul_left 2 h))
      simp only [Nat.sub_self, List.drop_zero] at rest ⊢
      rw [rest, e38, e57, Bool.xor_assoc, Bool.xor_self, Bool.xor_false]

/-- From the scrambler's own state a descrambler gives the sent bits back. -/
theorem descramble_scramble (st : Nat) (l : List Bool) : (throughBits descrambleBit st (throughBits scrambleBit st l).1).1 = l :=
  descramble_drop l st st 58 (Nat.le_refl _) rfl

/-! ## Blocks (R73, R77) -/

theorem lineBits_length (b : List Byte) : (lineBits b).length = 8 * b.length := by
  simp [lineBits, Nat.mul_comm]

/-- The bits of a block: its sync header, then its payload, scrambled or not. -/
theorem Block.line_eq (b : Block) (st : Nat) : (b.line st).1 = b.header ++
    if b.scrambles then (throughBits scrambleBit st (lineBits b.payload)).1 else lineBits b.payload := by
  unfold Block.line
  split <;> rfl

theorem Block.scrambles_eq (b : Block) : b.scrambles = !decide (b.control = true ∧ (b.typ = 0xA5 ∨ b.typ = 0xC3)) := by
  rw [Block.scrambles, Bool.decide_and, Bool.decide_or, Bool.decide_eq_true]
  rfl

theorem Block.line_length {b : Block} (st : Nat) (h : b.payload.length = 8) : (b.line st).1.length = 66 := by
  rw [Block.line_eq, List.length_append]
  split <;> simp [Block.header, throughBits_length, lineBits_length, h]

/-- How far the next block for lane `n` of `w` is from block `k`. -/
def laneGap (w n k : Nat) : Nat := (n + w - k % w) % w

theorem laneGap_eq {w n : Nat} (hn : n < w) (k : Nat) : laneGap w n k = if k % w ≤ n then n - k % w else n + w - k % w := by
  have lt := Nat.mod_lt k (by omega : 0 < w)
  unfold laneGap
  split
  · rw [show n + w - k % w = n - k % w + w by omega, Nat.add_mod_right, Nat.mod_eq_of_lt (by omega)]
  · rw [Nat.mod_eq_of_lt (by omega)]

theorem succ_mod {w k : Nat} (hw : 0 < w) : (k + 1) % w = if k % w + 1 = w then 0 else k % w + 1 := by
  have lt := Nat.mod_lt k hw
  rw [← Nat.mod_add_mod]
  split
  · next e => rw [e, Nat.mod_self]
  · exact Nat.mod_eq_of_lt (by omega)

theorem laneGap_self {w n k : Nat} (h : k % w = n) : laneGap w n k = 0 := by
  rw [laneGap, h, Nat.add_sub_cancel_left, Nat.mod_self]

/-- Behind a block of its own a lane waits for `w - 1` others, and behind another one for one fewer. -/
theorem laneGap_succ {w n : Nat} (hn : n < w) (k : Nat) :
    laneGap w n (k + 1) + 1 = if k % w = n then w else laneGap w n k := by
  have lt := Nat.mod_lt k (by omega : 0 < w)
  rw [laneGap_eq hn, laneGap_eq hn, succ_mod (by omega)]
  generalize k % w = r at *
  split_ifs <;> omega

/-- Of blocks counted from `k` on, lane `n` sends the first one `laneGap` further on, and then every `w`-th. -/
theorem stripe_from {w n : Nat} (hn : n < w) (l : List Block) (k i : Nat) :
    (((l.zipIdx k).filter (fun x => x.2 % w == n)).map (·.1))[i]? = l[laneGap w n k + i * w]? := by
  induction l generalizing k i with
  | nil => simp
  | cons b r ih =>
    rw [List.zipIdx_cons, List.filter_cons]
    by_cases h : k % w = n
    · have next := laneGap_succ hn k
      rw [if_pos h] at next
      simp only [h, beq_self_eq_true, if_true, List.map_cons, laneGap_self h, Nat.zero_add]
      cases i with
      | zero => simp
      | succ i => rw [List.getElem?_cons_succ, ih, show (i + 1) * w = laneGap w n (k + 1) + i * w + 1 by rw [Nat.add_mul]; omega,
          List.getElem?_cons_succ]
    · have next := laneGap_succ hn k
      rw [if_neg h] at next
      simp only [beq_iff_eq, h, if_false]
      rw [ih, ← next, Nat.add_right_comm, List.getElem?_cons_succ]

theorem stripe_getElem {w n : Nat} (hn : n < w) (l : List Block) (i : Nat) : (stripe w n l)[i]? = l[i * w + n]? := by
  rw [stripe, stripe_from hn, Nat.add_comm, laneGap, Nat.zero_mod, Nat.sub_zero, Nat.add_mod_right, Nat.mod_eq_of_lt hn]

/-! ## The byte stream of a trunk (R75) -/

/-- Every block that is whole has 8 bytes, and the one in the making fewer. -/
structure LineAcc.Whole (a : LineAcc) : Prop where
  done : ∀ b ∈ a.done, b.payload.length = 8
  cur : a.cur.length < 8

theorem LineAcc.Whole.put {a : LineAcc} (h : a.Whole) (l : List Byte) : (a.put l).Whole := by
  induction l generalizing a with
  | nil => exact h
  | cons b r ih =>
    have len := h.cur
    have len' : (a.cur ++ [b]).length = a.cur.length + 1 := by simp
    rw [LineAcc.put]
    split
    · next e => exact ih ⟨List.forall_mem_cons.mpr ⟨e, h.done⟩, by simp⟩
    · exact ih ⟨h.done, show (a.cur ++ [b]).length < 8 by omega⟩

theorem padTo_length {n : Nat} {b : List Byte} (h : b.length ≤ n) : (padTo n b).length = n := by
  rw [padTo, List.length_append, List.length_replicate]
  omega

theorem LineAcc.fill_cur (a : LineAcc) : a.fill.cur = [] := by
  unfold LineAcc.fill
  split
  · next h => exact List.isEmpty_iff.mp h
  · rfl

theorem LineAcc.Whole.fill {a : LineAcc} (h : a.Whole) : a.fill.Whole := by
  refine ⟨?_, by simp [LineAcc.fill_cur]⟩
  unfold LineAcc.fill
  split
  · exact h.done
  · simpa [padTo_length (Nat.le_of_lt h.cur)] using h.done

theorem LineAcc.Whole.item {a : LineAcc} (h : a.Whole) (x : LineItem) : (a.item x).Whole := by
  have f := h.fill
  cases x with
  | pkt b => exact ⟨(h.put _).done, (h.put _).cur⟩
  | ctl t => exact ⟨by simpa [LineAcc.item, ctlBlock, padTo_length] using f.done, f.cur⟩
  | raw p => exact ⟨by simpa [LineAcc.item] using f.done, f.cur⟩

theorem LineAcc.Whole.foldl {a : LineAcc} (h : a.Whole) (l : List LineItem) : (l.foldl LineAcc.item a).Whole := by
  induction l generalizing a with
  | nil => exact h
  | cons x r ih => exact ih (h.item x)

/-- The stream begins behind a control block. -/
theorem LineAcc.whole_start : LineAcc.Whole ⟨[], [], 8⟩ := ⟨by simp, by simp⟩

theorem trunkBlocks_length (l : List LineItem) : ∀ b ∈ trunkBlocks l, b.payload.length = 8 := fun b hb =>
  (LineAcc.whole_start.foldl l).fill.done b (List.mem_reverse.mp hb)

/-- Stream `a` stands where stream `b` stands, with the blocks of `base` before it: the same block in the making, and no more filler due to
one than to the other. -/
structure LineAcc.Behind (base : List Block) (a b : LineAcc) : Prop where
  done : a.done = b.done ++ base
  cur : a.cur = b.cur
  due : 8 - a.gap = 8 - b.gap

theorem LineAcc.Behind.put {base : List Block} {a b : LineAcc} (h : a.Behind base b) (l : List Byte) : (a.put l).Behind base (b.put l) := by
  induction l generalizing a b with
  | nil => exact h
  | cons x r ih =>
    rw [LineAcc.put, LineAcc.put, h.cur]
    split
    · exact ih ⟨by simp [h.done], rfl, h.due⟩
    · exact ih ⟨h.done, rfl, h.due⟩

theorem LineAcc.Behind.fill {base : List Block} {a b : LineAcc} (h : a.Behind base b) : a.fill.Behind base b.fill := by
  have due := h.due
  unfold LineAcc.fill
  rw [h.cur]
  split
  · exact h
  · exact ⟨by simp [h.done], rfl, by simp only; omega⟩

theorem LineAcc.Behind.item {base : List Block} {a b : LineAcc} (h : a.Behind base b) (x : LineItem) : (a.item x).Behind base (b.item x) := by
  have f := h.fill
  have due := f.due
  cases x with
  | pkt l =>
    have p := h.put (List.replicate (8 - a.gap) 0 ++ l)
    rw [h.due] at p
    exact ⟨by simpa only [LineAcc.item, h.due] using p.done, by simpa only [LineAcc.item, h.due] using p.cur, rfl⟩
  | ctl t => exact ⟨by simp [LineAcc.item, f.done], f.cur, by simp only [LineAcc.item]; omega⟩
  | raw p => exact ⟨by simp [LineAcc.item, f.done], f.cur, by simp only [LineAcc.item]; omega⟩

theorem LineAcc.Behind.foldl {base : List Block} {a b : LineAcc} (h : a.Behind base b) (l : List LineItem) :
    (l.foldl LineAcc.item a).Behind base (l.foldl LineAcc.item b) := by
  induction l generalizing a b with
  | nil => exact h
  | cons x r ih => exact ih (h.item x)

/-- Behind a control block `c` the stream goes on as at its beginning. -/
theorem trunkBlocks_control {l : List LineItem} {x : LineItem} {c : Block}
    (hx : ∀ a : LineAcc, (a.item x).done = c :: a.fill.done ∧ (a.item x).cur = a.fill.cur ∧ 8 ≤ (a.item x).gap) (m : List LineItem) :
    trunkBlocks (l ++ x :: m) = trunkBlocks l ++ c :: trunkBlocks m := by
  obtain ⟨done, cur, gap⟩ := hx (l.foldl LineAcc.item ⟨[], [], 8⟩)
  have start : LineAcc.Behind (c :: (l.foldl LineAcc.item ⟨[], [], 8⟩).fill.done) ((l.foldl LineAcc.item ⟨[], [], 8⟩).item x) ⟨[], [], 8⟩ :=
    ⟨done, cur.trans (LineAcc.fill_cur _), by simp only; omega⟩
  rw [trunkBlocks, List.foldl_append, List.foldl_cons, (start.foldl m).fill.done]
  simp [trunkBlocks]

theorem trunkBlocks_ctl (l m : List LineItem) (t : Nat) :
    trunkBlocks (l ++ .ctl t :: m) = trunkBlocks l ++ ctlBlock t :: trunkBlocks m :=
  trunkBlocks_control (fun _ => ⟨rfl, rfl, Nat.le_add_left ..⟩) m

theorem trunkBlocks_raw (l m : List LineItem) (p : BitVec 64) :
    trunkBlocks (l ++ .raw p :: m) = trunkBlocks l ++ ⟨true, leBytes 8 p.toNat⟩ :: trunkBlocks m :=
  trunkBlocks_control (fun _ => ⟨rfl, rfl, Nat.le_add_left ..⟩) m

/-- The bytes of a stream, with those of the block in the making. -/
def LineAcc.bytes (a : LineAcc) : List Byte := a.done.reverse.flatMap (·.payload) ++ a.cur

theorem LineAcc.bytes_put (a : LineAcc) (l : List Byte) : (a.put l).bytes = a.bytes ++ l := by
  induction l generalizing a with
  | nil => simp [LineAcc.put]
  | cons b r ih =>
    rw [LineAcc.put]
    split
    · rw [ih]; simp [LineAcc.bytes]
    · rw [ih]; simp [LineAcc.bytes]

theorem LineAcc.bytes_fill (a : LineAcc) : ∃ k, a.fill.bytes = a.bytes ++ List.replicate k 0 := by
  unfold LineAcc.fill
  split
  · exact ⟨0, by simp⟩
  · exact ⟨8 - a.cur.length, by simp [LineAcc.bytes, padTo]⟩

/-- Packets back to back: filler between them, and none before the first. -/
theorem LineAcc.bytes_packets (l : List (List Byte)) (a : LineAcc) :
    (((l.map LineItem.pkt).foldl LineAcc.item a)).bytes = a.bytes ++
      (match l with | [] => [] | b :: r => List.replicate (8 - a.gap) 0 ++ b ++ r.flatMap (List.replicate 8 0 ++ ·)) := by
  induction l generalizing a with
  | nil => simp
  | cons b r ih =>
    have head : (a.item (.pkt b)).bytes = a.bytes ++ (List.replicate (8 - a.gap) 0 ++ b) := LineAcc.bytes_put a _
    rw [List.map_cons, List.foldl_cons, ih, head]
    cases r <;> simp [LineAcc.item]

/-- What a trunk sends for packets that run back to back. -/
theorem trunkBytes_packets (b : List Byte) (r : List (List Byte)) : ∃ k,
    (trunkBlocks ((b :: r).map LineItem.pkt)).flatMap (·.payload) = b ++ r.flatMap (List.replicate 8 0 ++ ·) ++ List.replicate k 0 := by
  obtain ⟨k, fill⟩ := LineAcc.bytes_fill (((b :: r).map LineItem.pkt).foldl LineAcc.item ⟨[], [], 8⟩)
  refine ⟨k, ?_⟩
  rw [LineAcc.bytes_packets, LineAcc.bytes, LineAcc.fill_cur, List.append_nil] at fill
  rw [trunkBlocks, fill]
  simp [LineAcc.bytes]

/-! ## Delineation (R76) -/

/-- A packet that a receiver takes whole: a KIND, the length that goes with it, and a LENGTH that a DATA may have. -/
def wholePacket (b : List Byte) : Prop := ∃ k r, b = k :: r ∧ packetKinds.contains k.toNat = true ∧
  b.length = packetLen k.toNat (field b 8 2) ∧ (k = 0x40 → field b 8 2 ≤ 1024)

theorem delineate_zeros (n gap k : Nat) : delineate n gap (List.replicate k 0) = [] := by
  induction n generalizing gap k with
  | zero => rfl
  | succ n ih =>
    cases k with
    | zero => rfl
    | succ k => rw [List.replicate_succ, delineate, if_pos rfl, ih]

/-- Filler counts as gap. -/
theorem delineate_gap (n gap k : Nat) (l : List Byte) : delineate (n + k) gap (List.replicate k 0 ++ l) = delineate n (gap + k) l := by
  induction k generalizing gap with
  | zero => rfl
  | succ k ih => rw [List.replicate_succ, List.cons_append, ← Nat.add_assoc, delineate, if_pos rfl, ih, Nat.add_right_comm, Nat.add_assoc]

theorem field_append {b l : List Byte} {i n : Nat} (h : i + n ≤ b.length) : field (b ++ l) i n = field b i n := by
  rw [field, field, List.drop_append_of_le_length (by omega), List.take_append_of_le_length (by simp; omega)]

/-- The length that a receiver reads off a packet does not depend on what follows it. -/
theorem wholePacket.length_append {k : Byte} {r l : List Byte} (len : (k :: r).length = packetLen k.toNat (field (k :: r) 8 2)) :
    packetLen k.toNat (field (k :: r ++ l) 8 2) = (k :: r).length ∧ (k.toNat = 0x40 → field (k :: r ++ l) 8 2 = field (k :: r) 8 2) := by
  by_cases data : k.toNat = 0x40
  · have e : field (k :: r ++ l) 8 2 = field (k :: r) 8 2 := field_append (by rw [len, packetLen, if_pos data]; omega)
    exact ⟨by rw [e, len], fun _ => e⟩
  · refine ⟨?_, fun h => absurd h data⟩
    rw [len, packetLen, packetLen, if_neg data, if_neg data]

theorem packetKinds_pos {k : Byte} (h : packetKinds.contains k.toNat = true) : k ≠ 0 := by
  rintro rfl
  exact absurd h (by decide)

/-- Behind filler enough a receiver finds the next packet. -/
theorem delineate_packet {b : List Byte} (h : wholePacket b) (n : Nat) {gap : Nat} (hg : 8 ≤ gap) (l : List Byte) :
    delineate (n + 1) gap (b ++ l) = some b :: delineate n 0 l := by
  obtain ⟨k, r, rfl, kind, len, small⟩ := h
  obtain ⟨whole, same⟩ := wholePacket.length_append (l := l) len
  rw [List.cons_append] at whole same
  rw [List.cons_append, delineate, if_neg (packetKinds_pos kind), if_neg (by simp only [kind]; simp; omega), if_neg, whole,
    ← List.cons_append]
  · dsimp only
    rw [List.take_left, List.drop_left]
  rw [Bool.and_eq_true, decide_eq_true_eq, decide_eq_true_eq]
  rintro ⟨data, long⟩
  have := small (BitVec.eq_of_toNat_eq data)
  have := same data
  omega

/-- Packets behind eight bytes of filler each, and filler at the end. -/
theorem delineate_packets (r : List (List Byte)) (h : ∀ b ∈ r, wholePacket b) (k n : Nat)
    (hn : (r.flatMap (List.replicate 8 0 ++ ·) ++ List.replicate k 0).length ≤ n) :
    delineate n 0 (r.flatMap (List.replicate 8 0 ++ ·) ++ List.replicate k 0) = r.map some := by
  induction r generalizing n with
  | nil => exact delineate_zeros n 0 k
  | cons b r ih =>
    have ⟨hb, hr⟩ := List.forall_mem_cons.mp h
    have pos : 0 < b.length := by obtain ⟨k, r, rfl, -⟩ := hb; simp
    simp only [List.flatMap_cons, List.append_assoc, List.length_append, List.length_replicate] at hn ⊢
    obtain ⟨m, rfl⟩ := Nat.exists_eq_add_of_le' (show 9 ≤ n by omega)
    rw [show m + 9 = m + 1 + 8 from rfl, delineate_gap, Nat.zero_add, delineate_packet hb m (Nat.le_refl 8), ih hr, List.map_cons]
    simp only [List.length_append, List.length_replicate]
    omega

/-- A receiver finds the packets that run back to back. -/
theorem delineate_trunk (l : List (List Byte)) (n : Nat) (h : ∀ b ∈ l, wholePacket b)
    (hn : ((trunkBlocks (l.map LineItem.pkt)).flatMap (·.payload)).length ≤ n) :
    delineate n 8 ((trunkBlocks (l.map LineItem.pkt)).flatMap (·.payload)) = l.map some := by
  cases l with
  | nil => cases n <;> rfl
  | cons b r =>
    have ⟨hb, hr⟩ := List.forall_mem_cons.mp h
    have pos : 0 < b.length := by obtain ⟨k, r, rfl, -⟩ := hb; simp
    obtain ⟨k, bytes⟩ := trunkBytes_packets b r
    rw [bytes, List.append_assoc] at hn ⊢
    rw [List.length_append] at hn
    obtain ⟨m, rfl⟩ := Nat.exists_eq_add_of_le' (show 1 ≤ n by omega)
    rw [delineate_packet hb m (Nat.le_refl 8), delineate_packets r hr k m (by omega), List.map_cons]

/-! ## Packets (R39, R40, R42) -/

theorem leBytes_one (v : Nat) : leBytes 1 v = [BitVec.ofNat 8 v] := rfl

theorem toNat_kind {k : Nat} (h : packetKinds.contains k = true) : (BitVec.ofNat 8 k).toNat = k := by
  have small : ∀ x ∈ packetKinds, x % 2 ^ 8 = x := by decide
  exact (BitVec.toNat_ofNat ..).trans (small k (List.contains_iff_mem.mp h))

/-- Bytes that begin with a KIND other than DATA and have its length are a packet. -/
theorem wholePacket_of_length {k : Nat} (kind : packetKinds.contains k = true) (data : k ≠ 0x40) {r : List Byte}
    (len : r.length + 1 = if 0x60 ≤ k then 8 else 16) : wholePacket (leBytes 1 k ++ r) := by
  refine ⟨_, r, rfl, by rwa [toNat_kind kind], ?_, fun h => absurd ?_ data⟩
  · rw [toNat_kind kind, packetLen, if_neg data, ← len]; rfl
  · rw [← toNat_kind kind, h]; rfl

theorem wholePacket_mark {p : Pkt} : wholePacket (markBytes p) := by
  unfold markBytes
  simp only [List.append_assoc]
  exact wholePacket_of_length (by decide) (by decide) (by simp [Pk.mark])

theorem wholePacket_handshake {p : Pkt} (kind : packetKinds.contains p.kind = true) (h : 0x60 ≤ p.kind) : wholePacket (shakeBytes p) := by
  unfold shakeBytes
  simp only [List.append_assoc]
  exact wholePacket_of_length kind (by omega) (by simp [h])

theorem field_leBytes {a c : List Byte} {i n v : Nat} (hi : a.length = i) : field (a ++ (leBytes n v ++ c)) i n = v % 256 ^ n := by
  rw [field, ← hi, List.drop_left, List.take_left' (leBytes_length n v), leNat_leBytes]

theorem wholePacket_token {p : Pkt} (kind : packetKinds.contains p.kind = true) (h : ¬ 0x60 ≤ p.kind) (data : p.kind ≠ 0x40)
    (empty : p.payload = []) : wholePacket (pktBytes p) := by
  unfold pktBytes
  simp only [List.append_assoc]
  exact wholePacket_of_length kind data (by simp [h, empty])

theorem wholePacket_data {p : Pkt} (kind : p.kind = 0x40) (len : p.len = p.payload.length) (small : p.len ≤ 1024) :
    wholePacket (pktBytes p) := by
  have read : field (pktBytes p) 8 2 = p.len := by
    have := field_leBytes (a := leBytes 1 p.kind ++ (leBytes 1 p.flags ++ (leBytes 2 p.tag ++ (leBytes 3 p.handle ++ leBytes 1 (p.inner * 16)))))
      (c := leBytes 2 p.seq ++ (p.payload ++ leBytes 4 (crc32 (leBytes 1 p.kind ++ (leBytes 1 p.flags ++ (leBytes 2 p.tag ++ (leBytes 3 p.handle ++
        (leBytes 1 (p.inner * 16) ++ (leBytes 2 p.len ++ (leBytes 2 p.seq ++ p.payload)))))))))) (n := 2) (v := p.len) (i := 8) (by simp)
    rw [Nat.mod_eq_of_lt (by omega)] at this
    rw [← this, pktBytes]
    simp only [List.append_assoc]
  have whole : (pktBytes p).length = 16 + p.len := by
    simp [pktBytes, len]
    omega
  refine ⟨BitVec.ofNat 8 p.kind, _, rfl, by rw [kind]; decide, ?_, fun _ => read ▸ small⟩
  refine whole.trans ?_
  rw [show (BitVec.ofNat 8 p.kind).toNat = 0x40 by rw [kind]; rfl, packetLen, if_pos rfl]
  exact congrArg (16 + ·) read.symm

theorem wholePacket_wireBytes {p : Pkt} (kind : packetKinds.contains p.kind = true)
    (h : if p.kind = 0x40 then p.len = p.payload.length ∧ p.len ≤ 1024 else p.payload = []) : wholePacket (wireBytes p) := by
  unfold wireBytes
  split
  · exact wholePacket_mark
  · split
    · next shake => exact wholePacket_handshake kind shake
    · next shake =>
      split at h
      · next data => exact wholePacket_data data h.1 h.2
      · next data => exact wholePacket_token kind shake data h

/-! ## Markers (R78) -/

theorem leBytes_leNat (b : List Byte) : leBytes b.length (leNat b) = b := by
  induction b with
  | nil => rfl
  | cons x r ih =>
    have lt := x.isLt
    rw [List.length_cons, leBytes, leNat, show (x.toNat + 256 * leNat r) / 256 = leNat r by omega, ih]
    congr 1
    exact BitVec.eq_of_toNat_eq (by rw [BitVec.toNat_ofNat]; omega)

theorem leNat_lt (b : List Byte) : leNat b < 256 ^ b.length := by
  induction b with
  | nil => simp [leNat]
  | cons x r ih =>
    have lt := x.isLt
    rw [leNat, List.length_cons, Nat.pow_succ]
    omega

theorem leBytes_word64 {b : List Byte} (h : b.length = 8) : leBytes 8 (BitVec.ofNat 64 (leNat b)).toNat = b := by
  have lt := leNat_lt b
  rw [h] at lt
  rw [BitVec.toNat_ofNat, Nat.mod_eq_of_lt (b := 2 ^ 64) lt, ← h, leBytes_leNat]

theorem byte_ofNat_toNat (x : Byte) : BitVec.ofNat 8 x.toNat = x := by simp

/-- The bytes of a marker: four, and their complement. -/
theorem leBytes_markerRaw (l p b : Byte) :
    leBytes 8 (markerRaw l.toNat p.toNat b.toNat).toNat = [0xA5, l, p, b, ~~~ 0xA5, ~~~ l, ~~~ p, ~~~ b] := by
  rw [markerRaw, leBytes_word64 (by simp)]
  simp [leBytes, Ct.marker]

theorem markerGood_markerRaw (l p b : Byte) : markerGood (markerRaw l.toNat p.toNat b.toNat) = true := by
  rw [markerGood, leBytes_markerRaw]
  simp [field, leNat, Ct.marker]

/-- Settles O52: the scrambler, the stripes, the stream of blocks and the packets in it, each by induction over what is sent. -/
theorem linesCarryBlocksAndPackets : Obligations.LinesCarryBlocksAndPackets := by
  unfold Obligations.LinesCarryBlocksAndPackets
  refine ⟨fun st u l => ⟨throughBits_length _ st l, descramble_scramble st l,
      descramble_drop l st u 0 (Nat.zero_le _) (by rw [Nat.pow_zero, Nat.mod_one, Nat.mod_one])⟩,
    fun b st h => ⟨b.line_length st h, by rw [Block.line_eq]; rfl, ?_⟩, fun w n i l hn => stripe_getElem hn l i,
    fun l m t => ⟨trunkBlocks_length l, trunkBlocks_ctl l m t, trunkBlocks_raw l m⟩,
    fun l n h hn => delineate_trunk l n h hn, fun p kind h => wholePacket_wireBytes kind h, fun l p b => ⟨markerGood_markerRaw l p b, ?_⟩⟩
  · rw [Block.line_eq, Block.scrambles_eq]
    by_cases h : b.control = true ∧ (b.typ = 0xA5 ∨ b.typ = 0xC3) <;> simp [h, Block.header]
  · rw [leBytes_markerRaw]
    simp [field, leNat]

end Sys2Proof.Machine

namespace Sys2Proof.Machine

/-! # Lanes: what their operations leave and set (R80 to R85) -/

/-! ## Parts that a change leaves -/

section
variable {l : List Part} {s t : State}

theorem Moves.time_eq (h : Moves l s t) (hl : l.contains .time = false) : t.time = s.time := h.only.2 .time hl
theorem Moves.lx_eq (h : Moves l s t) (hl : l.contains .lx = false) : t.lx = s.lx := h.only.2 .lx hl
theorem Moves.tree_eq (h : Moves l s t) (hl : l.contains .tree = false) : t.tree = s.tree := h.only.2 .tree hl
theorem Moves.pu_eq (h : Moves l s t) (hl : l.contains .pu = false) : t.pu = s.pu := h.only.2 .pu hl
theorem Moves.out_eq (h : Moves l s t) (hl : l.contains .out = false) : t.out = s.out := h.only.2 .out hl
theorem Moves.regs_eq (h : Moves l s t) (hl : l.contains .regs = false) : t.regs = s.regs := h.only.2 .regs hl

end

/-! ## Records of lanes and trunks -/

section
variable (s : State)

theorem State.lane_updLane (n : Nat) (g : LaneRec → LaneRec) : (s.updLane n g).lane n = g (s.lane n) := Tbl.get_set_same _ _ _

theorem State.lane_updLane_other {n m : Nat} (h : m ≠ n) (g : LaneRec → LaneRec) : (s.updLane n g).lane m = s.lane m :=
  Tbl.get_set_other _ _ h

theorem State.trunk_updTrunk (t : Nat) (g : TrunkRec → TrunkRec) : (s.updTrunk t g).trunk t = g (s.trunk t) := Tbl.get_set_same _ _ _

theorem State.trunk_updTrunk_other {t u : Nat} (h : u ≠ t) (g : TrunkRec → TrunkRec) : (s.updTrunk t g).trunk u = s.trunk u :=
  Tbl.get_set_other _ _ h

theorem State.lane_of_lx {s t : State} (h : t.lx.lanes = s.lx.lanes) (n : Nat) : t.lane n = s.lane n := by
  rw [State.lane, h, State.lane]

theorem State.trunk_of_lx {s t : State} (h : t.lx.trunks = s.lx.trunks) (n : Nat) : t.trunk n = s.trunk n := by
  rw [State.trunk, h, State.trunk]

theorem State.trunkOf_le (n : Nat) : s.trunkOf n ≤ n := by
  unfold State.trunkOf
  split_ifs <;> omega

/-! ## A lane enters a state (R80, R102, R465) -/

variable (n : Nat)

theorem State.moves_setLane (st : Nat) : Moves [.regs, .lx, .ck] s (s.setLane n st) := State.setLane_moves (.refl _ s) (by decide)
theorem State.setLane_time (st : Nat) : (s.setLane n st).time = s.time := (s.moves_setLane n st).time_eq (by decide)
theorem State.setLane_out (st : Nat) : (s.setLane n st).out = s.out := (s.moves_setLane n st).out_eq (by decide)
theorem State.setLane_pu (st : Nat) : (s.setLane n st).pu = s.pu := (s.moves_setLane n st).pu_eq (by decide)
theorem State.setLane_tree (st : Nat) : (s.setLane n st).tree = s.tree := (s.moves_setLane n st).tree_eq (by decide)

theorem State.setLane_now (st : Nat) : (s.setLane n st).now = s.now := by rw [State.now, State.setLane_time, State.now]

/-- What a lane's record holds after its state: the ticks of its changes alone may differ. -/
theorem State.lane_setLane (st : Nat) : ∃ c h, (s.setLane n st).lane n = { s.lane n with changedAt := c, heldAt := h } := by
  unfold State.setLane
  extract_lets s1 held s2 s3 was
  have h1 : ∃ c, s1.lane n = { s.lane n with changedAt := c } := by
    by_cases h : laneHolds st = laneHolds (s.laneState n)
    · exact ⟨(s.lane n).changedAt, by rw [show s1 = s from if_pos h]⟩
    · exact ⟨s.now, by rw [show s1 = _ from if_neg h, State.lane_updLane]⟩
  obtain ⟨c, h1⟩ := h1
  have h2 : ∃ x, s2.lane n = { s.lane n with changedAt := c, heldAt := x } := by
    by_cases h : held st = held (s1.laneState n)
    · exact ⟨(s.lane n).heldAt, by rw [show s2 = s1 from if_pos h, h1]⟩
    · exact ⟨s1.now, by rw [show s2 = _ from if_neg h, State.lane_updLane, h1]⟩
  obtain ⟨x, h2⟩ := h2
  have h3 : s3.lx = s2.lx := by
    by_cases h : st = Ls.test
    · rw [show s3 = s2 from if_pos h]
    · rw [show s3 = _ from if_neg h, State.setB_lx]
  refine ⟨c, x, ?_⟩
  rw [← h2]
  refine State.lane_of_lx ?_ n
  rw [State.refFollows_lx, State.setF_lx, h3]

theorem State.laneState_setLane {st : Nat} (h : st < 8) : (s.setLane n st).laneState n = st := by
  unfold State.setLane
  extract_lets s1 held s2 s3 was
  have keep := State.regsBut.f (State.regsBut_refFollows (s3.setF (Reg.LX_LANE_STATUS_STATE n) st) n was st) (x := Reg.LX_LANE_STATUS_STATE n)
    (by simp only [Reg.LX_LANE_STATUS_STATE, Reg.LX_LANE_STATUS, Reg.laneBase, Reg.CKG_STATUS, Reg.CKG_REF_EVENTS, List.mem_cons,
      List.not_mem_nil, or_false]; omega)
  rw [State.laneState, keep, State.f_setF _ _ _ (by simp [Reg.LX_LANE_STATUS_STATE])]
  exact Nat.mod_eq_of_lt h

theorem State.trunks_setLane (st : Nat) : (s.setLane n st).lx.trunks = s.lx.trunks := by
  unfold State.setLane
  extract_lets s1 held s2 s3 was
  have h1 : s1.lx.trunks = s.lx.trunks := by
    by_cases h : laneHolds st = laneHolds (s.laneState n)
    · rw [show s1 = s from if_pos h]
    · rw [show s1 = _ from if_neg h]; rfl
  have h2 : s2.lx.trunks = s1.lx.trunks := by
    by_cases h : held st = held (s1.laneState n)
    · rw [show s2 = s1 from if_pos h]
    · rw [show s2 = _ from if_neg h]; rfl
  have h3 : s3.lx = s2.lx := by
    by_cases h : st = Ls.test
    · rw [show s3 = s2 from if_pos h]
    · rw [show s3 = _ from if_neg h, State.setB_lx]
  rw [State.refFollows_lx, State.setF_lx, h3, h2, h1]

/-! ## A lane enters TRAINING (R81, R83, R84) -/

/-- A register outside those of a lane's state, and of the references, keeps its fields. -/
theorem State.f_setLane (st : Nat) {x : Fld} (h : x.addr ∉ stateRegs n) : (s.setLane n st).f x = s.f x :=
  (State.regsBut_setLane s n st).f h

theorem State.flag_setLane (st : Nat) {x : Fld} (h : x.addr ∉ stateRegs n) : (s.setLane n st).flag x = s.flag x :=
  (State.regsBut_setLane s n st).flag h

theorem State.trainHeader_emit (e : Emit) : (s.emit e).trainHeader n = s.trainHeader n := rfl

theorem State.startTraining_out : (s.startTraining n).out = .train n ((s.startTraining n).trainHeader n) :: s.out := by
  unfold State.startTraining
  extract_lets s1 s2 s3
  have h2 : s2.out = s1.out := by
    by_cases h : s1.flag (Reg.LX_TX_TAPS_OVR n) = true
    · rw [show s2 = s1 from if_pos h]
    · rw [show s2 = _ from if_neg h]
      split <;> simp only [State.setF_out]
  rw [State.trainHeader_emit]
  show _ :: s2.out = _
  rw [h2, State.setLane_out]


/-- An address in the bank of lane `n` that is none of those of the lane's state. -/
theorem lane_not_mem_stateRegs {n o : Nat} (h4 : o ≠ 0x4) (h28 : o ≠ 0x28) : Reg.laneBase n + o ∉ stateRegs n := by
  simp only [stateRegs, Reg.LX_LANE_STATUS, Reg.LX_PRBS_STATUS, Reg.laneBase, Reg.CKG_STATUS, Reg.CKG_REF_EVENTS, List.mem_cons,
    List.not_mem_nil, or_false]
  omega

/-- The taps that training starts from: PRESET or INIT, unless software has fixed them. -/
theorem State.startTraining_taps (h : s.flag (Reg.LX_TX_TAPS_OVR n) = false) :
    (s.startTraining n).f (Reg.LX_TX_TAPS_PRE n) = (if s.flag (Reg.LX_TRAIN_CFG_START_PRESET n) then 0 else 4) ∧
    (s.startTraining n).f (Reg.LX_TX_TAPS_MAIN n) = (if s.flag (Reg.LX_TRAIN_CFG_START_PRESET n) then 64 else 48) ∧
    (s.startTraining n).f (Reg.LX_TX_TAPS_POST n) = (if s.flag (Reg.LX_TRAIN_CFG_START_PRESET n) then 0 else 12) := by
  have ovr := s.flag_setLane n Ls.training (x := Reg.LX_TX_TAPS_OVR n) (lane_not_mem_stateRegs (by decide) (by decide))
  have preset := s.flag_setLane n Ls.training (x := Reg.LX_TRAIN_CFG_START_PRESET n) (lane_not_mem_stateRegs (by decide) (by decide))
  unfold State.startTraining
  extract_lets s1 s2 s3
  have h2 : s2 = _ := (if_neg (by rw [ovr, h]; decide) : s2 = _)
  simp only [State.emit_f, s3, State.updLane_f, h2, s1, preset]
  cases s.flag (Reg.LX_TRAIN_CFG_START_PRESET n) <;>
    simp [State.f_setF_eq, Reg.LX_TX_TAPS_PRE, Reg.LX_TX_TAPS_MAIN, Reg.LX_TX_TAPS_POST]

theorem State.laneState_startTraining : (s.startTraining n).laneState n = Ls.training := by
  have train := s.laneState_setLane n (st := Ls.training) (by decide)
  have apart : Reg.LX_LANE_STATUS n ≠ Reg.LX_TX_TAPS n := by simp [Reg.LX_LANE_STATUS, Reg.LX_TX_TAPS]
  unfold State.startTraining
  extract_lets s1 s2 s3
  have h2 : s2.laneState n = s1.laneState n := by
    by_cases h : s1.flag (Reg.LX_TX_TAPS_OVR n) = true
    · rw [show s2 = s1 from if_pos h]
    · rw [show s2 = _ from if_neg h, State.laneState, State.laneState]
      split <;> rw [State.f_setF_other _ _ apart, State.f_setF_other _ _ apart, State.f_setF_other _ _ apart]
  exact h2.trans train

/-- The record of a lane whose training starts: its attempt, its handshake and its waits begin anew. -/
theorem State.lane_startTraining : ∃ c h, (s.startTraining n).lane n = { s.lane n with
    changedAt := c, heldAt := h, trainAt := some s.now, failedAt := none, upAt := none, readyAt := none, farFull := false,
    rxReadySent := false, rxReadyGot := false, stPre := 0, stMain := 0, stPost := 0, request := 0, farStatus := 0, markLane := none } := by
  obtain ⟨c, h, rc⟩ := s.lane_setLane n Ls.training
  have time := s.setLane_now n Ls.training
  unfold State.startTraining
  extract_lets s1 s2 s3
  have h2 : s2.lx = s1.lx ∧ s2.time = s1.time := by
    by_cases h : s1.flag (Reg.LX_TX_TAPS_OVR n) = true
    · rw [show s2 = s1 from if_pos h]; exact ⟨rfl, rfl⟩
    · rw [show s2 = _ from if_neg h]
      split <;> simp only [State.setF_lx, State.setF_time, and_self]
  refine ⟨c, h, ?_⟩
  show s3.lane n = _
  rw [State.lane_updLane, State.lane_of_lx (congrArg LaneSt.lanes h2.1), rc, State.now, h2.2, ← State.now, time]

/-! ## Where a lane lies in its trunk (R71, R276) -/

end

/-- Registers that no trunk's shape is read from: neither those of the Miodel lanes nor a quad's width. -/
def shapeless (l : List Nat) : Prop := Reg.PU_CTRL ∉ l ∧ Reg.PU_CFG ∉ l ∧ ∀ q, Reg.LX_QUAD_CFG q ∉ l

section
variable {l : List Nat} {s t : State}

theorem State.regsBut.miodelLane (h : s.regsBut l t) (hl : shapeless l) (n : Nat) : t.miodelLane n = s.miodelLane n := by
  obtain ⟨ctrl, cfg, -⟩ := hl
  rw [State.miodelLane, h.flag (x := Reg.PU_CTRL_EN) ctrl, h.f (x := Reg.PU_CFG_QUAD) cfg, h.f (x := Reg.PU_CTRL_WIDTH) ctrl, State.miodelLane]

theorem State.regsBut.width (h : s.regsBut l t) (hl : shapeless l) (u : Nat) : t.width u = s.width u := by
  rw [State.width, h.f (x := Reg.LX_QUAD_CFG_WIDTH (u / 4)) (hl.2.2 _), h.miodelLane hl, h.miodelLane hl, State.width]

theorem State.regsBut.lanesOf (h : s.regsBut l t) (hl : shapeless l) (u : Nat) : t.lanesOf u = s.lanesOf u := by
  rw [State.lanesOf, h.width hl, State.lanesOf]

theorem State.regsBut.trunkOf (h : s.regsBut l t) (hl : shapeless l) (n : Nat) : t.trunkOf n = s.trunkOf n := by
  rw [State.trunkOf, h.width hl, h.width hl, State.trunkOf]

theorem State.regsBut.laneByte (h : s.regsBut l t) (hl : shapeless l) (n : Nat) : t.laneByte n = s.laneByte n := by
  have lanes : t.miodelLanes = s.miodelLanes := by
    rw [State.miodelLanes, State.miodelLanes, funext (h.miodelLane hl)]
  simp only [State.laneByte, h.miodelLane hl, lanes, h.trunkOf hl, h.width hl]

end

theorem shapeless_stateRegs {n : Nat} (h : n < 192) : shapeless (stateRegs n) := by
  simp only [shapeless, stateRegs, Reg.LX_LANE_STATUS, Reg.LX_PRBS_STATUS, Reg.laneBase, Reg.CKG_STATUS, Reg.CKG_REF_EVENTS, Reg.PU_CTRL,
    Reg.PU_CFG, Reg.LX_QUAD_CFG, Reg.quadBase, List.mem_cons, List.not_mem_nil, or_false]
  refine ⟨by omega, by omega, fun q => by omega⟩

section
variable (s : State) (n : Nat)

/-! ## The end of an attempt (R84) -/

theorem State.lane_noteReady : (s.noteReady n).lane n = if (s.lane n).rxReadySent && (s.lane n).rxReadyGot && (s.lane n).readyAt.isNone then
    { s.lane n with readyAt := some s.now } else s.lane n := State.lane_updLane s n _

theorem State.enterAligning_spec {n : Nat} (h : n < 192) : (s.enterAligning n).laneState n = Ls.aligning ∧
    ((s.enterAligning n).lane n).markerAt = s.now ∧
    (s.enterAligning n).out = .marker n (s.laneByte n) (s.trunkOf n) :: .laneCtl n Ct.idle wakeIdle :: s.out := by
  have keep := State.regsBut_setLane s n Ls.aligning
  have shape := shapeless_stateRegs h
  refine ⟨s.laneState_setLane n (by decide), ?_, ?_⟩
  · refine (congrArg LaneRec.markerAt (State.lane_updLane _ n _)).trans ?_
    exact s.setLane_now n Ls.aligning
  · show Emit.marker n ((s.setLane n Ls.aligning).laneByte n) ((s.setLane n Ls.aligning).trunkOf n) :: _ :: (s.setLane n Ls.aligning).out = _
    rw [keep.laneByte shape, keep.trunkOf shape, State.setLane_out]

/-- The state in which lane `n` has failed its attempt, before what follows for its port. -/
def State.failed (s : State) (n : Nat) : State :=
  ((s.setLane n Ls.failed).bump (Reg.LX_RETRAIN_COUNT_FAILS n)).updLane n (fun l => { l with
    tries := l.tries + 1, failedAt := some ((s.setLane n Ls.failed).bump (Reg.LX_RETRAIN_COUNT_FAILS n)).now, trainAt := none })

theorem State.trainFail_eq : s.trainFail n =
    if ((s.failed n).lane n).tries < max 1 ((s.failed n).f (Reg.LX_TRAIN_CFG_MAX_TRIES n)) then s.failed n
    else if ((s.failed n).trunk (s.trunkOf n)).twillAt.isSome then (s.failed n).failTwill (s.trunkOf n)
    else if (s.failed n).portState (s.trunkOf n) = 3 ∧ (s.failed n).rootRole (s.trunkOf n) then
      (s.failed n).portDisable (s.trunkOf n) Rs.trainFailed St.deviceGone
    else if (s.failed n).portState (s.trunkOf n) = 1 ∧ (s.failed n).flag (Reg.TM_PORT_CTRL_PRESENCE (s.trunkOf n)) then
      (s.failed n).updLane n (fun l => { l with tries := 0 })
    else s.failed n := rfl

theorem State.regsBut_failed : s.regsBut (Reg.LX_RETRAIN_COUNT n :: stateRegs n) (s.failed n) :=
  (((State.regsBut_setLane s n Ls.failed).mono (List.subset_cons_self _ _)).bump (x := Reg.LX_RETRAIN_COUNT_FAILS n) 1 (.head _)).updLane n _

theorem State.lane_failed : ∃ c h, (s.failed n).lane n = { s.lane n with
    changedAt := c, heldAt := h, tries := (s.lane n).tries + 1, failedAt := some s.now, trainAt := none } := by
  obtain ⟨c, h, rc⟩ := s.lane_setLane n Ls.failed
  refine ⟨c, h, ?_⟩
  rw [State.failed, State.lane_updLane, State.lane_of_lx (congrArg LaneSt.lanes (State.bump_lx ..)), rc, State.now, State.bump_time,
    ← State.now, State.setLane_now]

theorem State.laneState_failed : (s.failed n).laneState n = Ls.failed := by
  rw [State.failed, State.laneState, State.updLane_f, State.bump_eq, State.f_setF_other, ← State.laneState,
    s.laneState_setLane n (by decide)]
  simp [Reg.LX_LANE_STATUS_STATE, Reg.LX_LANE_STATUS, Reg.LX_RETRAIN_COUNT_FAILS, Reg.LX_RETRAIN_COUNT]

theorem State.fails_failed : (s.failed n).f (Reg.LX_RETRAIN_COUNT_FAILS n) = min (s.f (Reg.LX_RETRAIN_COUNT_FAILS n) + 1) 65535 := by
  rw [State.failed, State.updLane_f, State.f_bump _ _ _ (by simp [Reg.LX_RETRAIN_COUNT_FAILS]),
    State.f_setLane s n _ (lane_not_mem_stateRegs (by decide) (by decide))]
  rfl

theorem State.trunk_updLane (g : LaneRec → LaneRec) (t : Nat) : (s.updLane n g).trunk t = s.trunk t := rfl

theorem State.trunk_failed (t : Nat) : (s.failed n).trunk t = s.trunk t := by
  rw [State.failed, State.trunk_updLane, State.trunk_of_lx (congrArg LaneSt.trunks (State.bump_lx ..)),
    State.trunk_of_lx (s.trunks_setLane n _)]

/-- The registers of root ports are not among those of a lane. -/
theorem State.f_failed_port {p : Nat} {x : Fld} (hp : p < 192) (o : Nat) (hx : x.addr = Reg.portBase p + o) (ho : o < 16) :
    (s.failed n).f x = s.f x := by
  refine (s.regsBut_failed n).f ?_
  rw [hx]
  simp only [stateRegs, Reg.LX_RETRAIN_COUNT, Reg.LX_LANE_STATUS, Reg.LX_PRBS_STATUS, Reg.laneBase, Reg.portBase, Reg.CKG_STATUS,
    Reg.CKG_REF_EVENTS, List.mem_cons, List.not_mem_nil, or_false]
  omega

theorem State.f_failed_maxTries : (s.failed n).f (Reg.LX_TRAIN_CFG_MAX_TRIES n) = s.f (Reg.LX_TRAIN_CFG_MAX_TRIES n) := by
  refine (s.regsBut_failed n).f (List.not_mem_cons_of_ne_of_not_mem ?_ (lane_not_mem_stateRegs (by decide) (by decide)))
  simp [Reg.LX_TRAIN_CFG_MAX_TRIES, Reg.LX_TRAIN_CFG, Reg.LX_RETRAIN_COUNT]

theorem State.portState_failed {p : Nat} (hp : p < 192) : (s.failed n).portState p = s.portState p := by
  rw [State.portState, if_pos hp, State.portState, if_pos hp]
  exact s.f_failed_port n hp 4 rfl (by decide)

theorem State.rootRole_failed {p : Nat} (hp : p < 192) : (s.failed n).rootRole p = s.rootRole p := by
  rw [State.rootRole, State.flag, s.f_failed_port n hp 0 (x := Reg.TM_PORT_CTRL_ROLE p) rfl (by decide), ← State.flag, State.rootRole]

theorem State.presence_failed {p : Nat} (hp : p < 192) :
    (s.failed n).flag (Reg.TM_PORT_CTRL_PRESENCE p) = s.flag (Reg.TM_PORT_CTRL_PRESENCE p) := by
  rw [State.flag, s.f_failed_port n hp 0 (x := Reg.TM_PORT_CTRL_PRESENCE p) rfl (by decide), ← State.flag]

/-- What follows a failed attempt, as the conditions stood before it. -/
theorem State.trainFail_of {n : Nat} (hn : n < 192) : s.trainFail n =
    if (s.lane n).tries + 1 < max 1 (s.f (Reg.LX_TRAIN_CFG_MAX_TRIES n)) then s.failed n
    else if (s.trunk (s.trunkOf n)).twillAt.isSome then (s.failed n).failTwill (s.trunkOf n)
    else if s.portState (s.trunkOf n) = Ps.resetting ∧ s.rootRole (s.trunkOf n) then
      (s.failed n).portDisable (s.trunkOf n) Rs.trainFailed St.deviceGone
    else if s.portState (s.trunkOf n) = Ps.powered ∧ s.flag (Reg.TM_PORT_CTRL_PRESENCE (s.trunkOf n)) = true then
      (s.failed n).updLane n (fun l => { l with tries := 0 })
    else s.failed n := by
  have hp : s.trunkOf n < 192 := Nat.lt_of_le_of_lt (s.trunkOf_le n) hn
  obtain ⟨c, h, rc⟩ := s.lane_failed n
  rw [State.trainFail_eq, rc, State.f_failed_maxTries, State.trunk_failed, State.portState_failed s n hp, State.rootRole_failed s n hp,
    State.presence_failed s n hp]
  rfl

/-! ## Headers that a lane in TRAINING receives (R81, R82, R85) -/

theorem State.placeRequest_lane (status : Nat) : ((s.placeRequest n status).lane n).farStatus = status ∧
    (status % 64 ≠ 0 → ((s.placeRequest n status).lane n).request = 0) ∧
    (nbit status 6 = true → ((s.placeRequest n status).lane n).rxReadyGot = true) ∧
    ((s.placeRequest n status).lane n).stPre = (s.lane n).stPre ∧ ((s.placeRequest n status).lane n).stMain = (s.lane n).stMain ∧
    ((s.placeRequest n status).lane n).stPost = (s.lane n).stPost := by
  unfold State.placeRequest
  extract_lets l asked s1 q
  have rc : s1.lane n = _ := s.lane_updLane n _
  by_cases h : status % 64 ≠ 0 ∨ asked = true ∨ l.rxReadySent = true
  · rw [if_pos h, rc]
    exact ⟨rfl, fun ne => if_pos ne, fun got => by simp [got], rfl, rfl, rfl⟩
  · obtain ⟨zero, -⟩ := not_or.mp h
    rw [if_neg h, State.lane_updLane, State.lane_of_lx (congrArg LaneSt.lanes (State.fresh_lx s1)), rc]
    exact ⟨rfl, fun ne => absurd ne zero, fun got => by simp [got], rfl, rfl, rfl⟩

/-- A handshake takes the far receiver's status, which ends the own request, and RX_READY (R82). -/
theorem State.tapHandshake_lane (req status : Nat) : ((s.tapHandshake n req status).lane n).farStatus = status ∧
    (status % 64 ≠ 0 → ((s.tapHandshake n req status).lane n).request = 0) ∧
    (nbit status 6 = true → ((s.tapHandshake n req status).lane n).rxReadyGot = true) ∧
    ((s.tapHandshake n req status).lane n).stPre = ((s.applyRequest n req).lane n).stPre ∧
    ((s.tapHandshake n req status).lane n).stMain = ((s.applyRequest n req).lane n).stMain ∧
    ((s.tapHandshake n req status).lane n).stPost = ((s.applyRequest n req).lane n).stPost := by
  have place := (s.applyRequest n req).placeRequest_lane n status
  rw [State.tapHandshake, State.lane_noteReady]
  split <;> exact place

theorem State.tapHandshake_regs (req status : Nat) : (s.tapHandshake n req status).regs = (s.applyRequest n req).regs :=
  State.placeRequest_regs _ n status

theorem State.tapHandshake_out (req status : Nat) : (s.tapHandshake n req status).out = s.out :=
  Moves.out_eq (l := [.regs, .lx, .free]) (State.tapHandshake_moves (.refl _ s) (by decide)) (by decide)

/-- PRESET is applied once: the three taps, and `updated` for each (log entry 45). -/
theorem State.applyRequest_preset (ovr : s.flag (Reg.LX_TX_TAPS_OVR n) = false) (fresh : (s.lane n).stPre = 0) :
    (s.applyRequest n 64).f (Reg.LX_TX_TAPS_PRE n) = 0 ∧ (s.applyRequest n 64).f (Reg.LX_TX_TAPS_MAIN n) = 64 ∧
    (s.applyRequest n 64).f (Reg.LX_TX_TAPS_POST n) = 0 ∧ ((s.applyRequest n 64).lane n).stPre = 1 ∧
    ((s.applyRequest n 64).lane n).stMain = 1 ∧ ((s.applyRequest n 64).lane n).stPost = 1 := by
  have once : s.applyRequest n 64 = s.applyPreset n 0 64 0 := rfl
  have open_ : ¬((s.lane n).stPre ≠ 0 ∧ (s.lane n).stMain ≠ 0 ∧ (s.lane n).stPost ≠ 0) := fun h => h.1 fresh
  rw [once, State.applyPreset, if_neg open_]
  simp only [ovr, Bool.false_eq_true, if_false, State.updLane_f, State.lane_updLane, and_true]
  simp [State.f_setF_eq, tapF, Reg.LX_TX_TAPS_PRE, Reg.LX_TX_TAPS_MAIN, Reg.LX_TX_TAPS_POST]

theorem State.trainHeaderReceived_eq {raw : BitVec 64} {inv : Bool} (h : s.laneState n = 1 ∧ rawGood 0xC3 raw) :
    s.trainHeaderReceived n raw inv =
      let u := (s.setB (Reg.LX_LANE_STATUS_RX_INVERTED n) inv).tapHandshake n (field (leBytes 8 raw.toNat) 1 1) (field (leBytes 8 raw.toNat) 2 1)
      u.emit (.train n (u.trainHeader n)) := if_pos h

end

/-- Settles O1, clause by clause from what the operations of a lane set and leave. -/
theorem lanesTrain : Obligations.LanesTrain := by
  unfold Obligations.LanesTrain
  refine ⟨fun s n => ⟨fun en mode st => ?_, fun t0 st at_ tries => ?_, fun st => ?_, fun m st meet => ?_, fun r0 t0 st ready late at_ early => ?_,
    fun t0 st at_ early => ?_, fun t0 st at_ late => ?_⟩, fun s n raw inv st good => ?_⟩
  · have start : s.trainStart n = (s.updLane n (fun l => { l with tries := 0 })).startTraining n := if_pos (by
      rw [en, mode]
      obtain e | e := st <;> rw [e] <;> rfl)
    refine answers_of (t := (s.updLane n (fun l => { l with tries := 0 })).startTraining n) (congrArg _ start) ?_
    obtain ⟨c, h, rc⟩ := (s.updLane n (fun l => { l with tries := 0 })).lane_startTraining n
    rw [State.lane_updLane] at rc
    rw [rc]
    exact ⟨State.laneState_startTraining _ n, rfl, rfl, rfl, rfl, fun ovr => State.startTraining_taps _ n ovr, State.startTraining_out _ n⟩
  · refine answers_of rfl ?_
    have since : s.since (s.lane n).failedAt ms100 = decide (t0 + 2500000 ≤ s.now) := by rw [at_]; rfl
    rw [since]
    by_cases late : t0 + 2500000 ≤ s.now
    · obtain ⟨c, h, rc⟩ := s.lane_startTraining n
      rw [if_pos late, if_pos ⟨st, decide_eq_true late, tries⟩, rc]
      exact ⟨State.laneState_startTraining _ n, rfl, rfl⟩
    · rw [if_neg late, if_neg fun h => late (of_decide_eq_true h.2.1)]
  · refine answers_of (t := (s.updLane n (fun l => { l with tries := 0 })).startTraining n) (congrArg _ (if_pos st)) ?_
    obtain ⟨c, h, rc⟩ := (s.updLane n (fun l => { l with tries := 0 })).lane_startTraining n
    rw [State.lane_updLane] at rc
    rw [rc]
    exact ⟨State.laneState_startTraining _ n, rfl, rfl⟩
  · let v := s.updLane n (fun l => { l with rxReadySent := true, request := 0 })
    refine answers_of (t := (v.noteReady n).emit (.train n ((v.noteReady n).trainHeader n))) (congrArg _ (if_pos ⟨st, meet⟩)) ?_
    have rc : v.lane n = _ := s.lane_updLane n _
    have note := v.lane_noteReady n
    rw [rc] at note
    refine ⟨?_, ?_, fun got none_ => ?_⟩
    · show ((v.noteReady n).lane n).rxReadySent = true
      rw [note]; split <;> rfl
    · exact st
    · show ((v.noteReady n).lane n).readyAt = some s.now
      rw [note, if_pos (by simp [got, none_])]
      rfl
  · have at1 : (if s.laneState n = 1 then (s.lane n).readyAt else none) = some r0 := (if_pos st).trans ready
    refine answers_eq (t := s.enterAligning n) rfl ?_ (State.enterAligning_spec s n.isLt)
    rw [State.trainingComplete]
    simp only [at1]
    rw [if_neg (by simpa [framesTicks] using late), if_neg (by simpa [at_, attemptTicks] using early)]
  · refine answers_of rfl (if_neg fun h => ?_)
    rw [at_] at h
    exact Nat.not_le.mpr early (of_decide_eq_true h.2)
  · refine answers_of (t := s.trainFail n) (congrArg _ (if_pos ⟨st, by rw [at_]; exact decide_eq_true late⟩)) ?_
    obtain ⟨c, h, rc⟩ := s.lane_failed n
    exact ⟨s.failed n, s.laneState_failed n, by rw [rc], by rw [rc], s.fails_failed n, State.trainFail_of s n.isLt⟩
  · refine answers_eq rfl (State.trainHeaderReceived_eq s n ⟨st, good⟩) ?_
    extract_lets u
    let z := s.setB (Reg.LX_LANE_STATUS_RX_INVERTED n) inv
    have lane : z.lane n = s.lane n := State.lane_of_lx (congrArg LaneSt.lanes (State.setB_lx ..)) n
    obtain ⟨far, ends, got, pre, main, post⟩ := z.tapHandshake_lane n (field (leBytes 8 raw.toNat) 1 1) (field (leBytes 8 raw.toNat) 2 1)
    refine ⟨?_, far, ?_, ends, got, fun preset ovr fresh => ?_⟩
    · rw [State.emit_flag, State.regsBut.flag (State.regsBut_tapHandshake z n _ _) (by
        simp [Reg.LX_LANE_STATUS_RX_INVERTED, Reg.LX_LANE_STATUS, Reg.LX_TX_TAPS])]
      exact State.flag_setB _ _ _ (by simp [Reg.LX_LANE_STATUS_RX_INVERTED]) rfl
    · show Emit.train n (u.trainHeader n) :: u.out = _
      rw [State.tapHandshake_out, State.setB_out]
      rfl
    · have apart : (Reg.LX_TX_TAPS_OVR n).addr ≠ (Reg.LX_LANE_STATUS_RX_INVERTED n).addr := by
        simp [Reg.LX_TX_TAPS_OVR, Reg.LX_TX_TAPS, Reg.LX_LANE_STATUS_RX_INVERTED, Reg.LX_LANE_STATUS]
      have taps (x : Fld) : (z.tapHandshake n 64 (field (leBytes 8 raw.toNat) 2 1)).f x = (z.applyRequest n 64).f x := by
        rw [State.f, State.reg, State.tapHandshake_regs, State.f, State.reg]
      have set := z.applyRequest_preset n ((s.flag_setB_other inv apart).trans ovr) (lane ▸ fresh)
      rw [preset] at pre main post
      simp only [u, preset, State.emit_f]
      exact ⟨(taps _).trans set.1, (taps _).trans set.2.1, (taps _).trans set.2.2.1, pre.trans set.2.2.2.1, main.trans set.2.2.2.2.1,
        post.trans set.2.2.2.2.2⟩

end Sys2Proof.Machine

namespace Sys2Proof.Machine

/-! # Trunks align, and lanes are controlled (R71, R72, R79, R80, R94, R97) -/

/-! ## The lanes of a trunk -/

theorem mem_numbers {a k n : Nat} : n ∈ numbers a k ↔ a ≤ n ∧ n < a + k := by
  induction k generalizing a with
  | zero => simp [numbers]
  | succ k ih => rw [numbers, List.mem_cons, ih]; omega

theorem widthOf_le (w i : Nat) (hi : i < 4) : i + widthOf w i ≤ 4 := by
  unfold widthOf
  split <;> omega

theorem widthHalf_le (w i : Nat) (hi : i < 4) : i + widthHalf w i ≤ 4 := by
  unfold widthHalf
  split <;> omega

section
variable (s : State)

/-- A trunk ends within its quad. -/
theorem State.width_le (t : Nat) : t % 4 + s.width t ≤ 4 := by
  have hi : t % 4 < 4 := Nat.mod_lt _ (by decide)
  unfold State.width
  extract_lets w
  split
  · omega
  · split
    · exact widthHalf_le w _ hi
    · exact widthOf_le w _ hi

theorem State.width_of_le {t : Nat} (h : 192 ≤ t) : s.width t = 0 := if_pos (by simp [h])

theorem State.mem_lanesOf {t n : Nat} : n ∈ s.lanesOf t ↔ t ≤ n ∧ n < t + s.width t := mem_numbers

theorem State.lanesOf_lt {t n : Nat} (h : n ∈ s.lanesOf t) : n < 192 := by
  have := s.width_le t
  obtain ⟨le, lt⟩ := s.mem_lanesOf.mp h
  rcases Nat.lt_or_ge t 192 with ht | ht
  · omega
  · rw [s.width_of_le ht] at lt; omega

/-- A lane belongs to its trunk, unless its trunk has no lanes. -/
theorem State.mem_lanesOf_trunkOf (n : Nat) : n ∈ s.lanesOf (s.trunkOf n) ∨ s.lanesOf (s.trunkOf n) = [] := by
  rw [State.mem_lanesOf, State.trunkOf]
  split_ifs with h h'
  · exact .inl ⟨by omega, h⟩
  · exact .inl ⟨by omega, h'⟩
  · rcases Nat.eq_zero_or_pos (s.width n) with e | e
    · exact .inr (by rw [State.lanesOf, e]; rfl)
    · exact .inl ⟨Nat.le_refl _, by omega⟩

/-! ## Lanes go UP (R80) -/

theorem State.laneState_setLane_other {n m st : Nat} (h : m ≠ n) : (s.setLane n st).laneState m = s.laneState m := by
  refine s.f_setLane n st ?_
  simp only [stateRegs, Reg.LX_LANE_STATUS_STATE, Reg.LX_LANE_STATUS, Reg.LX_PRBS_STATUS, Reg.laneBase, Reg.CKG_STATUS, Reg.CKG_REF_EVENTS,
    List.mem_cons, List.not_mem_nil, or_false]
  omega

theorem State.laneState_updLane (n m : Nat) (g : LaneRec → LaneRec) : (s.updLane n g).laneState m = s.laneState m := rfl

/-- Lane `n` goes UP, with its counts begun anew. -/
def State.laneUp (s : State) (n : Nat) : State :=
  (s.setLane n Ls.up).updLane n (fun l => { l with upAt := some s.now, bipSince := 0, checks := 0, tries := 0 })

/-- Lane `n` has gone UP at tick `at_`. -/
def State.upSince (s : State) (at_ n : Nat) : Prop := s.laneState n = Ls.up ∧ (s.lane n).upAt = some at_ ∧ (s.lane n).checks = 0

theorem State.laneUp_now (n : Nat) : (s.laneUp n).now = s.now := s.setLane_now n Ls.up

theorem State.laneUp_upSince (n : Nat) : (s.laneUp n).upSince s.now n := by
  refine ⟨s.laneState_setLane n (by decide), ?_⟩
  rw [State.laneUp, State.lane_updLane]
  exact ⟨rfl, rfl⟩

theorem State.laneUp_keeps {n m : Nat} (h : s.upSince s.now m) : (s.laneUp n).upSince s.now m := by
  by_cases e : m = n
  · rw [e]; exact s.laneUp_upSince n
  · obtain ⟨up, at_, checks⟩ := h
    have rc : (s.laneUp n).lane m = s.lane m := (State.lane_updLane_other _ e _).trans (State.lanesBut_setLane s n _ m e)
    exact ⟨(s.laneState_setLane_other e).trans up, by rw [rc, at_], by rw [rc, checks]⟩

/-- The lanes of a list go UP together, and those that have gone before stay so. -/
theorem State.foldl_laneUp (l : List Nat) (at_ : Nat) (hat : s.now = at_) : (l.foldl State.laneUp s).now = at_ ∧
    ∀ n, n ∈ l ∨ s.upSince at_ n → (l.foldl State.laneUp s).upSince at_ n := by
  induction l generalizing s with
  | nil => exact ⟨hat, fun n h => h.elim (by simp) id⟩
  | cons x r ih =>
    subst hat
    obtain ⟨now, up⟩ := ih (s.laneUp x) (s.laneUp_now x)
    refine ⟨now, fun n h => up n ?_⟩
    rcases h with h | h
    · rcases List.mem_cons.mp h with rfl | h
      · exact .inr (s.laneUp_upSince n)
      · exact .inl h
    · exact .inr (s.laneUp_keeps h)

/-- The state in which a trunk's lanes have gone UP and its skew is kept. -/
def State.aligned (s : State) (t skew : Nat) : State :=
  let v := ((s.lanesOf t).foldl State.laneUp s).updTrunk t (fun r => { r with skew := skew })
  v.setF (Reg.LX_QUAD_STATUS_SKEW (t / 4)) (max (v.trunk (t / 4 * 4)).skew (v.trunk (t / 4 * 4 + 2)).skew)

/-- The registers of a quad are not among those of a lane. -/
theorem quad_ne_lane {q n o o' : Nat} (hn : n < 192) (ho : o < 0x1000) : Reg.laneBase n + o ≠ Reg.quadBase q + o' := by
  simp only [Reg.laneBase, Reg.quadBase]
  omega

theorem State.laneState_setF_quad {q n : Nat} {x : Fld} (v : Nat) (hn : n < 192) (o : Nat) (hx : x.addr = Reg.quadBase q + o) :
    (s.setF x v).laneState n = s.laneState n :=
  s.f_setF_other v (by rw [hx]; exact quad_ne_lane hn (by decide))

theorem State.aligned_upSince {t n skew : Nat} (h : n ∈ s.lanesOf t) : (s.aligned t skew).upSince s.now n := by
  obtain ⟨up, at_, checks⟩ := (s.foldl_laneUp (s.lanesOf t) s.now rfl).2 n (.inl h)
  exact ⟨(State.laneState_setF_quad _ _ (s.lanesOf_lt h) 4 rfl).trans up, at_, checks⟩

theorem State.aligned_skew (t skew : Nat) : ((s.aligned t skew).trunk t).skew = skew :=
  congrArg TrunkRec.skew (State.trunk_updTrunk ((s.lanesOf t).foldl State.laneUp s) t (fun r => { r with skew := skew }))

theorem filter_aligning {t : Nat} (h : ∀ n ∈ s.lanesOf t, s.laneState n = Ls.aligning) :
    (s.lanesOf t).filter (fun n => s.laneState n == 2) = s.lanesOf t :=
  List.filter_eq_self.mpr fun n hn => by rw [h n hn]; rfl

/-- Alignment of a trunk whose lanes are all in ALIGNING (R79). -/
theorem State.alignmentComplete_eq {t skew : Nat} (mio : s.miodelLane t = false) (some_ : s.lanesOf t ≠ [])
    (h : ∀ n ∈ s.lanesOf t, s.laneState n = Ls.aligning) : s.alignmentComplete t skew =
      if skew ≤ 64 ∧ s.markersAgree t = true then if (s.trunk t).twillAt.isSome then (s.aligned t skew).endTwill t else s.aligned t skew
      else
        let u := s.setB (Reg.LX_QUAD_STATUS_ALIGN_FAIL (t / 4)) true
        if u.portState t = 3 ∧ u.rootRole t then u.portDisable t Rs.trainFailed St.deviceGone else u := by
  have any : (s.lanesOf t).any (fun n => s.laneState n == 2) = true := by
    obtain ⟨n, hn⟩ := List.exists_mem_of_ne_nil _ some_
    exact List.any_eq_true.mpr ⟨n, hn, by rw [h n hn]; rfl⟩
  have all : (s.lanesOf t).all (fun n => laneHolds (s.laneState n)) = true := List.all_eq_true.mpr fun n hn => by rw [h n hn]; rfl
  rw [State.alignmentComplete]
  simp only [mio, any, all, Bool.false_eq_true, if_false, Bool.and_self, if_true, filter_aligning s h]
  rfl

/-! ## Writes to LX_LANE_CTRL (R80, R94, R97) -/

/-- A write that is served is carried out. -/
theorem State.pfWrite_of_serves {a : Nat} (h : s.pfServes a) (op : State → State) : s.pfWrite a op = op s := by
  obtain ⟨ready, d0, served⟩ := h
  simp [State.pfWrite, ready, d0, served]

theorem flag_of_f {x : Fld} {v : Nat} (h : s.f x = v) : s.flag x = (v == 1) := by rw [State.flag, h]

section
variable (n : LaneId) (v : Word)

theorem State.f_writeLaneCtrl_en : (s.writeReg (Reg.LX_LANE_CTRL n) v).f (Reg.LX_LANE_CTRL_EN n) = bits v 0 1 :=
  s.f_writeReg (Reg.LX_LANE_CTRL_EN n) v _ (regSpec_lane n 0 _ n.isLt (by decide) rfl) (by simp [Reg.LX_LANE_CTRL_EN])
    (by simp only [Reg.LX_LANE_CTRL_EN]; decide)

theorem State.f_writeLaneCtrl_mode : (s.writeReg (Reg.LX_LANE_CTRL n) v).f (Reg.LX_LANE_CTRL_MODE n) = bits v 4 2 :=
  s.f_writeReg (Reg.LX_LANE_CTRL_MODE n) v _ (regSpec_lane n 0 _ n.isLt (by decide) rfl) (by simp [Reg.LX_LANE_CTRL_MODE])
    (by simp only [Reg.LX_LANE_CTRL_MODE]; decide)

theorem State.laneState_writeLaneCtrl : (s.writeReg (Reg.LX_LANE_CTRL n) v).laneState n = s.laneState n :=
  s.f_writeReg_other _ v _ (by simp [Reg.LX_LANE_STATUS_STATE, Reg.LX_LANE_STATUS, Reg.LX_LANE_CTRL])

end

theorem State.trainStart_of_disabled {n : Nat} (h : s.flag (Reg.LX_LANE_CTRL_EN n) = false) : s.trainStart n = s :=
  if_neg (by rw [h]; simp)

theorem State.trainStart_of_test {n : Nat} (h : s.f (Reg.LX_LANE_CTRL_MODE n) = 1) : s.trainStart n = s :=
  if_neg (by rw [h]; simp)

theorem State.when_self {c : Bool} {g : State → State} (h : c = true → g s = s) : s.when c g = s := by
  cases c
  · rfl
  · exact h rfl

/-- Asking for retraining leaves the lane's state and the registers. -/
theorem State.when_retrainReq_f (c : Bool) (n : Nat) (x : Fld) : (s.when c (fun s => s.retrainReq n)).f x = s.f x := by
  cases c <;> rfl

/-- A lane in DISABLED may go into TEST: its trunk is out of service. -/
theorem State.testAllowed_of_disabled {n : Nat} (h : s.laneState n = 0) : s.testAllowed n = true := by
  rw [State.testAllowed]
  rcases s.mem_lanesOf_trunkOf n with mem | nil
  · have out : (s.lanesOf (s.trunkOf n)).all (fun i => laneLive (s.laneState i)) = false :=
      List.all_eq_false.mpr ⟨n, mem, by rw [h]; decide⟩
    simp [out]
  · simp [nil]

end

section
variable {s : State} {n : LaneId} {v : Word}

theorem State.laneEnable_disable (en : bits v 0 1 = 0) :
    (s.laneEnable n v).laneState n = Ls.disabled ∧ (s.laneEnable n v).flag (Reg.LX_LANE_CTRL_EN n) = false := by
  let w := s.writeReg (Reg.LX_LANE_CTRL n) v
  have off : w.flag (Reg.LX_LANE_CTRL_EN n) = false := by rw [State.flag, State.f_writeLaneCtrl_en, en]; rfl
  have off' : (w.quietLane n).flag (Reg.LX_LANE_CTRL_EN n) = false :=
    (w.flag_setLane n _ (lane_not_mem_stateRegs (o := 0) (by decide) (by decide))).trans off
  have e : s.laneEnable n v = (w.quietLane n).when (bits v 3 1 == 1) (fun s => s.retrainReq n) := by
    have stays : (w.quietLane n).when (bits v 2 1 == 1) (fun s => s.trainStart n) = w.quietLane n :=
      State.when_self (w.quietLane n) (g := fun s => s.trainStart n) fun _ => State.trainStart_of_disabled _ off'
    rw [← stays, State.laneEnable]
    simp only [w, off, Bool.not_false, if_true]
  rw [e]
  exact ⟨(State.when_retrainReq_f ..).trans (w.laneState_setLane n (by decide)), by rw [State.flag, State.when_retrainReq_f]; exact off'⟩

theorem State.laneEnable_test (en : bits v 0 1 = 1) (mode : bits v 4 2 = 1) (st : s.laneState n = Ls.disabled) :
    (s.laneEnable n v).laneState n = Ls.test := by
  let w := s.writeReg (Reg.LX_LANE_CTRL n) v
  have on : w.flag (Reg.LX_LANE_CTRL_EN n) = true := by rw [State.flag, State.f_writeLaneCtrl_en, en]; rfl
  have test : w.f (Reg.LX_LANE_CTRL_MODE n) = 1 := (State.f_writeLaneCtrl_mode s n v).trans mode
  have idle : w.laneState n = 0 := (s.laneState_writeLaneCtrl n v).trans st
  have test' : (w.setLane n Ls.test).f (Reg.LX_LANE_CTRL_MODE n) = 1 :=
    (w.f_setLane n _ (lane_not_mem_stateRegs (o := 0) (by decide) (by decide))).trans test
  have e : s.laneEnable n v = (w.setLane n Ls.test).when (bits v 3 1 == 1) (fun s => s.retrainReq n) := by
    have stays : (w.setLane n Ls.test).when (bits v 2 1 == 1) (fun s => s.trainStart n) = w.setLane n Ls.test :=
      State.when_self (w.setLane n Ls.test) (g := fun s => s.trainStart n) fun _ => State.trainStart_of_test _ test'
    rw [← stays, State.laneEnable]
    simp only [w, on, test, idle, w.testAllowed_of_disabled idle, Bool.not_true, Bool.false_eq_true, if_false, and_self, if_true]
  rw [e]
  exact (State.when_retrainReq_f ..).trans (w.laneState_setLane n (by decide))

theorem State.laneEnable_train (en : bits v 0 1 = 1) (mode : bits v 4 2 = 0) (start : bits v 2 1 = 1)
    (st : s.laneState n = Ls.disabled ∨ s.laneState n = Ls.failed) : (s.laneEnable n v).laneState n = Ls.training := by
  let w := s.writeReg (Reg.LX_LANE_CTRL n) v
  have on : w.flag (Reg.LX_LANE_CTRL_EN n) = true := by rw [State.flag, State.f_writeLaneCtrl_en, en]; rfl
  have mission : w.f (Reg.LX_LANE_CTRL_MODE n) = 0 := (State.f_writeLaneCtrl_mode s n v).trans mode
  have idle : (w.laneState n == 0 || w.laneState n == 7) = true := by
    rw [s.laneState_writeLaneCtrl n v]
    obtain e | e := st <;> rw [e] <;> rfl
  have trains : w.trainStart n = (w.updLane n (fun l => { l with tries := 0 })).startTraining n := if_pos (by rw [on, mission, idle]; rfl)
  have e : s.laneEnable n v = (w.trainStart n).when (bits v 3 1 == 1) (fun s => s.retrainReq n) := by
    rw [State.laneEnable]
    simp only [w, on, mission, start]
    rfl
  rw [e, trains]
  exact (State.when_retrainReq_f ..).trans (State.laneState_startTraining _ n)

end

section
variable (s : State) (q : QuadId) (v : Word)

/-- The state in which LX_QUAD_CFG has taken its fields, and no trunk of the quad is aligned any more (R72). -/
def State.quadTaken : State :=
  ((numbers (4 * q) 4).foldl (fun s p => s.updTrunk p (fun r => { r with skew := 0 })) (s.writeReg (Reg.LX_QUAD_CFG q) v)).setF
    (Reg.LX_QUAD_STATUS_SKEW q) 0

theorem State.foldl_updTrunk_f (g : TrunkRec → TrunkRec) (l : List Nat) (x : Fld) :
    (l.foldl (fun s p => s.updTrunk p g) s).f x = s.f x := by
  induction l generalizing s with
  | nil => rfl
  | cons p r ih => exact ih (s.updTrunk p g)

theorem State.quadTaken_width : (s.quadTaken q v).f (Reg.LX_QUAD_CFG_WIDTH q) = bits v 0 2 := by
  rw [State.quadTaken, State.f_setF_other _ _ (by simp [Reg.LX_QUAD_CFG_WIDTH, Reg.LX_QUAD_CFG, Reg.LX_QUAD_STATUS_SKEW, Reg.LX_QUAD_STATUS]),
    State.foldl_updTrunk_f]
  exact s.f_writeReg (Reg.LX_QUAD_CFG_WIDTH q) v _ (regSpec_quad q 0 _ q.isLt (by decide) rfl) (by simp [Reg.LX_QUAD_CFG_WIDTH])
    (by simp only [Reg.LX_QUAD_CFG_WIDTH]; decide)

theorem State.moves_quadTaken : Moves [.regs, .lx] s (s.quadTaken q v) :=
  State.setF_moves (Moves.foldl (State.writeReg_moves (.refl _ s) (by decide)) fun _ _ h => State.updTrunk_moves h (by decide)) (by decide)

end

/-- Settles O2: alignment by its two outcomes, and the writes by what their registers take. -/
theorem trunksAlignAndLanesAreControlled : Obligations.TrunksAlignAndLanesAreControlled := by
  unfold Obligations.TrunksAlignAndLanesAreControlled
  refine ⟨fun s t skew mio some_ h => ⟨fun small agree => ?_, fun bad => ?_⟩,
    fun s n q v => ⟨fun serves en => ?_, fun serves en mode st => ?_, fun serves en mode start st => ?_, fun serves => ?_⟩⟩
  · refine answers_eq rfl (s.alignmentComplete_eq mio some_ h) ?_
    rw [if_pos ⟨small, agree⟩]
    exact ⟨s.aligned t skew.toNat, fun n hn => s.aligned_upSince hn, s.aligned_skew t _, rfl⟩
  · refine answers_eq rfl (s.alignmentComplete_eq mio some_ h) ?_
    rw [if_neg fun hc => bad.elim (fun b => Nat.not_lt.mpr hc.1 b) (fun b => by simp [b] at hc)]
    have ht := t.isLt
    have port (x : Fld) (o : Nat) (hx : x.addr = Reg.portBase t + o) (ho : o < 16) :
        (s.setB (Reg.LX_QUAD_STATUS_ALIGN_FAIL (t / 4)) true).f x = s.f x := s.f_setB_other true (by
      rw [hx]
      simp only [Reg.LX_QUAD_STATUS_ALIGN_FAIL, Reg.LX_QUAD_STATUS, Reg.quadBase, Reg.portBase]
      omega)
    refine ⟨s.setB (Reg.LX_QUAD_STATUS_ALIGN_FAIL (t / 4)) true, s.flag_setB _ true (by simp [Reg.LX_QUAD_STATUS_ALIGN_FAIL]) rfl,
      fun n hn => (s.laneState_setF_quad _ (s.lanesOf_lt hn) 4 rfl).trans (h n hn), ?_⟩
    dsimp only
    rw [State.portState, if_pos ht, port _ 4 rfl (by decide), State.rootRole, State.flag, port _ 0 rfl (by decide),
      State.portState, if_pos ht, State.rootRole, State.flag]
    rfl
  · exact answers_eq rfl (s.pfWrite_of_serves serves _) (State.laneEnable_disable en)
  · exact answers_eq rfl (s.pfWrite_of_serves serves _) (State.laneEnable_test en mode st)
  · exact answers_eq rfl (s.pfWrite_of_serves serves _) (State.laneEnable_train en mode start st)
  · refine answers_eq rfl (s.pfWrite_of_serves serves _) ?_
    have apart : (Reg.LX_QUAD_CFG_WIDTH q).addr ≠ Reg.LX_QUAD_STATUS q := by
      simp [Reg.LX_QUAD_CFG_WIDTH, Reg.LX_QUAD_CFG, Reg.LX_QUAD_STATUS]
    rw [State.quadCfg]
    split
    · exact ⟨s.flag_setB _ true (by simp [Reg.LX_QUAD_STATUS_CFG_REFUSED]) rfl, s.f_setB_other true apart⟩
    · exact ⟨s.quadTaken q v, s.quadTaken_width q v, (s.moves_quadTaken q v).only, rfl⟩

end Sys2Proof.Machine

namespace Sys2Proof.Machine

/-! # Records and the clock after writes of other parts

## Parts that a change leaves -/

section
variable {l : List Part} {s t : State}

theorem Moves.pm_eq (h : Moves l s t) (hl : l.contains .pm = false) : t.pm = s.pm := h.only.2 .pm hl
theorem Moves.sv_eq (h : Moves l s t) (hl : l.contains .sv = false) : t.sv = s.sv := h.only.2 .sv hl
theorem Moves.qe_eq (h : Moves l s t) (hl : l.contains .qe = false) : t.qe = s.qe := h.only.2 .qe hl
theorem Moves.ck_eq (h : Moves l s t) (hl : l.contains .ck = false) : t.ck = s.ck := h.only.2 .ck hl
theorem Moves.fn_eq (h : Moves l s t) (hl : l.contains .fn = false) : t.fn = s.fn := h.only.2 .fn hl
theorem Moves.ebm_eq (h : Moves l s t) (hl : l.contains .ebm = false) : t.ebm = s.ebm := h.only.2 .ebm hl
theorem Moves.bus_eq (h : Moves l s t) (hl : l.contains .bus = false) : t.bus = s.bus := h.only.2 .bus hl
theorem Moves.ts_eq (h : Moves l s t) (hl : l.contains .ts = false) : t.ts = s.ts := h.only.2 .ts hl
theorem Moves.gd_eq (h : Moves l s t) (hl : l.contains .gd = false) : t.gd = s.gd := h.only.2 .gd hl
theorem Moves.mre_eq (h : Moves l s t) (hl : l.contains .mre = false) : t.mre = s.mre := h.only.2 .mre hl
theorem Moves.bm_eq (h : Moves l s t) (hl : l.contains .bm = false) : t.bm = s.bm := h.only.2 .bm hl
theorem Moves.xb_eq (h : Moves l s t) (hl : l.contains .xb = false) : t.xb = s.xb := h.only.2 .xb hl
theorem Moves.mfN_eq (h : Moves l s t) (hl : l.contains .time = false) : t.mfN = s.mfN := by rw [State.mfN, h.time_eq hl, State.mfN]
theorem Moves.now_eq (h : Moves l s t) (hl : l.contains .time = false) : t.now = s.now := by rw [State.now, h.time_eq hl, State.now]
theorem Moves.f_eq (h : Moves l s t) (hl : l.contains .regs = false) (x : Fld) : t.f x = s.f x := by
  rw [State.f, State.reg, h.regs_eq hl, State.f, State.reg]
theorem Moves.flag_eq (h : Moves l s t) (hl : l.contains .regs = false) (x : Fld) : t.flag x = s.flag x := by
  rw [State.flag, h.f_eq hl, State.flag]

end

section
variable (s : State)

@[simp] theorem State.emit_out (e : Emit) : (s.emit e).out = e :: s.out := (rfl)
@[simp] theorem State.setReg_lane (a : Nat) (v : Word) (i : Nat) : (s.setReg a v).lane i = s.lane i := by rw [State.lane, State.setReg_lx, State.lane]
@[simp] theorem State.setReg_trunk (a : Nat) (v : Word) (i : Nat) : (s.setReg a v).trunk i = s.trunk i := by rw [State.trunk, State.setReg_lx, State.trunk]
@[simp] theorem State.setReg_port (a : Nat) (v : Word) (i : Nat) : (s.setReg a v).port i = s.port i := by rw [State.port, State.setReg_tree, State.port]
@[simp] theorem State.setReg_mfN (a : Nat) (v : Word) : (s.setReg a v).mfN = s.mfN := by rw [State.mfN, State.setReg_time, State.mfN]
@[simp] theorem State.setReg_now (a : Nat) (v : Word) : (s.setReg a v).now = s.now := by rw [State.now, State.setReg_time, State.now]
@[simp] theorem State.setF_lane (x : Fld) (v : Nat) (i : Nat) : (s.setF x v).lane i = s.lane i := by rw [State.lane, State.setF_lx, State.lane]
@[simp] theorem State.setF_trunk (x : Fld) (v : Nat) (i : Nat) : (s.setF x v).trunk i = s.trunk i := by rw [State.trunk, State.setF_lx, State.trunk]
@[simp] theorem State.setF_port (x : Fld) (v : Nat) (i : Nat) : (s.setF x v).port i = s.port i := by rw [State.port, State.setF_tree, State.port]
@[simp] theorem State.setF_mfN (x : Fld) (v : Nat) : (s.setF x v).mfN = s.mfN := by rw [State.mfN, State.setF_time, State.mfN]
@[simp] theorem State.setF_now (x : Fld) (v : Nat) : (s.setF x v).now = s.now := by rw [State.now, State.setF_time, State.now]
@[simp] theorem State.setB_lane (x : Fld) (b : Bool) (i : Nat) : (s.setB x b).lane i = s.lane i := by rw [State.lane, State.setB_lx, State.lane]
@[simp] theorem State.setB_trunk (x : Fld) (b : Bool) (i : Nat) : (s.setB x b).trunk i = s.trunk i := by rw [State.trunk, State.setB_lx, State.trunk]
@[simp] theorem State.setB_port (x : Fld) (b : Bool) (i : Nat) : (s.setB x b).port i = s.port i := by rw [State.port, State.setB_tree, State.port]
@[simp] theorem State.setB_mfN (x : Fld) (b : Bool) : (s.setB x b).mfN = s.mfN := by rw [State.mfN, State.setB_time, State.mfN]
@[simp] theorem State.setB_now (x : Fld) (b : Bool) : (s.setB x b).now = s.now := by rw [State.now, State.setB_time, State.now]
@[simp] theorem State.bump_lane (x : Fld) (k : Nat) (i : Nat) : (s.bump x k).lane i = s.lane i := by rw [State.lane, State.bump_eq, State.setF_lx, State.lane]
@[simp] theorem State.bump_trunk (x : Fld) (k : Nat) (i : Nat) : (s.bump x k).trunk i = s.trunk i := by rw [State.trunk, State.bump_eq, State.setF_lx, State.trunk]
@[simp] theorem State.bump_port (x : Fld) (k : Nat) (i : Nat) : (s.bump x k).port i = s.port i := by rw [State.port, State.bump_eq, State.setF_tree, State.port]
@[simp] theorem State.bump_mfN (x : Fld) (k : Nat) : (s.bump x k).mfN = s.mfN := by rw [State.mfN, State.bump_eq, State.setF_time, State.mfN]
@[simp] theorem State.bump_now (x : Fld) (k : Nat) : (s.bump x k).now = s.now := by rw [State.now, State.bump_eq, State.setF_time, State.now]
@[simp] theorem State.emit_lane (e : Emit) (i : Nat) : (s.emit e).lane i = s.lane i := by rw [State.lane, State.emit_lx, State.lane]
@[simp] theorem State.emit_trunk (e : Emit) (i : Nat) : (s.emit e).trunk i = s.trunk i := by rw [State.trunk, State.emit_lx, State.trunk]
@[simp] theorem State.emit_port (e : Emit) (i : Nat) : (s.emit e).port i = s.port i := by rw [State.port, State.emit_tree, State.port]
@[simp] theorem State.emit_mfN (e : Emit) : (s.emit e).mfN = s.mfN := by rw [State.mfN, State.emit_time, State.mfN]
@[simp] theorem State.emit_now (e : Emit) : (s.emit e).now = s.now := by rw [State.now, State.emit_time, State.now]
@[simp] theorem State.fresh_lane (i : Nat) : (s.fresh).lane i = s.lane i := by rw [State.lane, State.fresh_lx, State.lane]
@[simp] theorem State.fresh_trunk (i : Nat) : (s.fresh).trunk i = s.trunk i := by rw [State.trunk, State.fresh_lx, State.trunk]
@[simp] theorem State.fresh_port (i : Nat) : (s.fresh).port i = s.port i := by rw [State.port, State.fresh_tree, State.port]
@[simp] theorem State.fresh_mfN : (s.fresh).mfN = s.mfN := by rw [State.mfN, State.fresh_time, State.mfN]
@[simp] theorem State.fresh_now : (s.fresh).now = s.now := by rw [State.now, State.fresh_time, State.now]
@[simp] theorem State.updPm_pm (g : PowerSt → PowerSt) : (s.updPm g).pm = g s.pm := (rfl)
@[simp] theorem State.updPu_pu (g : PairSt → PairSt) : (s.updPu g).pu = g s.pu := (rfl)
@[simp] theorem State.updCk_ck (g : ClockSt → ClockSt) : (s.updCk g).ck = g s.ck := (rfl)
@[simp] theorem State.updCk_now (g : ClockSt → ClockSt) : (s.updCk g).now = s.now := by rw [State.now, State.updCk_time, State.now]
@[simp] theorem State.updCk_mfN (g : ClockSt → ClockSt) : (s.updCk g).mfN = s.mfN := by rw [State.mfN, State.updCk_time, State.mfN]
@[simp] theorem State.updCk_lane (g : ClockSt → ClockSt) (i : Nat) : (s.updCk g).lane i = s.lane i := by rw [State.lane, State.updCk_lx, State.lane]
@[simp] theorem State.updCk_trunk (g : ClockSt → ClockSt) (i : Nat) : (s.updCk g).trunk i = s.trunk i := by rw [State.trunk, State.updCk_lx, State.trunk]
@[simp] theorem State.updCk_port (g : ClockSt → ClockSt) (i : Nat) : (s.updCk g).port i = s.port i := by rw [State.port, State.updCk_tree, State.port]
@[simp] theorem State.updPu_now (g : PairSt → PairSt) : (s.updPu g).now = s.now := by rw [State.now, State.updPu_time, State.now]
@[simp] theorem State.updPu_mfN (g : PairSt → PairSt) : (s.updPu g).mfN = s.mfN := by rw [State.mfN, State.updPu_time, State.mfN]
@[simp] theorem State.updPu_lane (g : PairSt → PairSt) (i : Nat) : (s.updPu g).lane i = s.lane i := by rw [State.lane, State.updPu_lx, State.lane]
@[simp] theorem State.updPu_trunk (g : PairSt → PairSt) (i : Nat) : (s.updPu g).trunk i = s.trunk i := by rw [State.trunk, State.updPu_lx, State.trunk]
@[simp] theorem State.updPu_port (g : PairSt → PairSt) (i : Nat) : (s.updPu g).port i = s.port i := by rw [State.port, State.updPu_tree, State.port]
@[simp] theorem State.updPm_now (g : PowerSt → PowerSt) : (s.updPm g).now = s.now := by rw [State.now, State.updPm_time, State.now]
@[simp] theorem State.updPm_mfN (g : PowerSt → PowerSt) : (s.updPm g).mfN = s.mfN := by rw [State.mfN, State.updPm_time, State.mfN]
@[simp] theorem State.updPm_lane (g : PowerSt → PowerSt) (i : Nat) : (s.updPm g).lane i = s.lane i := by rw [State.lane, State.updPm_lx, State.lane]
@[simp] theorem State.updPm_trunk (g : PowerSt → PowerSt) (i : Nat) : (s.updPm g).trunk i = s.trunk i := by rw [State.trunk, State.updPm_lx, State.trunk]
@[simp] theorem State.updPm_port (g : PowerSt → PowerSt) (i : Nat) : (s.updPm g).port i = s.port i := by rw [State.port, State.updPm_tree, State.port]
@[simp] theorem State.updLane_mfN (n : Nat) (g : LaneRec → LaneRec) : (s.updLane n g).mfN = s.mfN := by rw [State.mfN, State.updLane_time, State.mfN]
@[simp] theorem State.updLane_now (n : Nat) (g : LaneRec → LaneRec) : (s.updLane n g).now = s.now := by rw [State.now, State.updLane_time, State.now]
@[simp] theorem State.updLane_port (n : Nat) (g : LaneRec → LaneRec) (i : Nat) : (s.updLane n g).port i = s.port i := by rw [State.port, State.updLane_tree, State.port]
@[simp] theorem State.updTrunk_mfN (t : Nat) (g : TrunkRec → TrunkRec) : (s.updTrunk t g).mfN = s.mfN := by rw [State.mfN, State.updTrunk_time, State.mfN]
@[simp] theorem State.updTrunk_now (t : Nat) (g : TrunkRec → TrunkRec) : (s.updTrunk t g).now = s.now := by rw [State.now, State.updTrunk_time, State.now]
@[simp] theorem State.updTrunk_port (t : Nat) (g : TrunkRec → TrunkRec) (i : Nat) : (s.updTrunk t g).port i = s.port i := by rw [State.port, State.updTrunk_tree, State.port]
@[simp] theorem State.updPort_mfN (p : Nat) (g : PortRec → PortRec) : (s.updPort p g).mfN = s.mfN := by rw [State.mfN, State.updPort_time, State.mfN]
@[simp] theorem State.updPort_now (p : Nat) (g : PortRec → PortRec) : (s.updPort p g).now = s.now := by rw [State.now, State.updPort_time, State.now]
@[simp] theorem State.updPort_lane (p : Nat) (g : PortRec → PortRec) (i : Nat) : (s.updPort p g).lane i = s.lane i := by rw [State.lane, State.updPort_lx, State.lane]
@[simp] theorem State.updPort_trunk (p : Nat) (g : PortRec → PortRec) (i : Nat) : (s.updPort p g).trunk i = s.trunk i := by rw [State.trunk, State.updPort_lx, State.trunk]
@[simp] theorem State.updLane_trunk (n : Nat) (g : LaneRec → LaneRec) (i : Nat) : (s.updLane n g).trunk i = s.trunk i := (rfl)
@[simp] theorem State.updTrunk_lane (t : Nat) (g : TrunkRec → TrunkRec) (i : Nat) : (s.updTrunk t g).lane i = s.lane i := (rfl)

end

end Sys2Proof.Machine

namespace Sys2Proof.Machine

/-! # The margin sampler (R86 to R90, R270) -/

section
variable (s : State) (n : Nat)

/-- A one-bit field that is not set is 0. -/
theorem f_of_flag {s : State} {x : Fld} (hw : x.w = 1) (h : s.flag x = false) : s.f x = 0 := by
  have lt : s.f x < 2 ^ x.w := s.f_lt x
  rw [hw] at lt
  rw [State.flag_eq, beq_eq_false_iff_ne] at h
  omega

theorem State.flag_eq_true {s : State} {x : Fld} : s.flag x = true ↔ s.f x = 1 := by rw [State.flag_eq, beq_iff_eq]

/-- A change that leaves the register file leaves every field. -/
theorem State.f_of_regs {s t : State} (h : t.regs = s.regs) (x : Fld) : t.f x = s.f x := by rw [State.f, State.reg, h, State.f, State.reg]

theorem State.flag_of_regs {s t : State} (h : t.regs = s.regs) (x : Fld) : t.flag x = s.flag x := by
  rw [State.flag, State.f_of_regs h, State.flag]

/-! ## Checks -/

/-- A log with entry `e` behind it, of which the newest 1,024 stay (R89). -/
def logWith (l : List LaneLog) (e : LaneLog) : List LaneLog := (l ++ [e]).drop ((l ++ [e]).length - 1024)

/-- Entry `e` goes into the log of the lanes. -/
def State.logged (s : State) (e : LaneLog) : State := { s with lx := { s.lx with log := logWith s.lx.log e, logSeq := s.lx.logSeq + 1 } }

theorem State.logged_regs (e : LaneLog) : (s.logged e).regs = s.regs := by unfold State.logged; rfl
theorem State.logged_f (e : LaneLog) (x : Fld) : (s.logged e).f x = s.f x := State.f_of_regs (s.logged_regs e) x
theorem State.logged_flag (e : LaneLog) (x : Fld) : (s.logged e).flag x = s.flag x := State.flag_of_regs (s.logged_regs e) x
theorem State.logged_lanes (e : LaneLog) : (s.logged e).lx.lanes = s.lx.lanes := by unfold State.logged; rfl

theorem State.logged_last (e : LaneLog) : (s.logged e).lx.log.getLast? = some e := by
  have len : 0 < (s.lx.log ++ [e]).length := by simp
  have log : (s.logged e).lx.log = logWith s.lx.log e := by simp only [State.logged]
  rw [log, logWith, List.getLast?_drop, if_neg (by omega), List.getLast?_concat]

/-- The state in which lane `n` has the grade `g`, marked as a change. -/
def State.graded (s : State) (n g : Nat) : State := (s.setF (Reg.LX_LANE_STATUS_GRADE n) g).setB (Reg.LX_LANE_STATUS_GRADE_CHANGED n) true

theorem State.setGrade_eq (g : Nat) (m : Margins) : s.setGrade n g m = if s.f (Reg.LX_LANE_STATUS_GRADE n) = g then s else
    (s.graded n g).logged ⟨(s.graded n g).mfN, n, s.f (Reg.LX_LANE_STATUS_GRADE n), g, m, (s.graded n g).lx.logSeq⟩ := rfl

/-- Fields of other registers than LX_LANE_STATUS are left by a grade. -/
theorem State.f_setGrade (g : Nat) (m : Margins) {x : Fld} (h : x.addr ≠ Reg.LX_LANE_STATUS n) : (s.setGrade n g m).f x = s.f x := by
  rw [State.setGrade_eq]
  split
  · rfl
  · rw [State.logged_f, State.graded, State.f_setB_other _ _ h, State.f_setF_other _ _ h]

theorem State.grade_setGrade (g : Nat) (hg : g < 8) (m : Margins) : (s.setGrade n g m).f (Reg.LX_LANE_STATUS_GRADE n) = g := by
  rw [State.setGrade_eq]
  split
  · assumption
  · simp [State.logged_f, State.graded, State.setB_eq, State.f_setF_eq, Reg.LX_LANE_STATUS_GRADE_CHANGED, Reg.LX_LANE_STATUS_GRADE]
    exact hg

/-- A grade that changes is marked and logged. -/
theorem State.setGrade_changed (g : Nat) (m : Margins) (h : s.f (Reg.LX_LANE_STATUS_GRADE n) ≠ g) :
    (s.setGrade n g m).flag (Reg.LX_LANE_STATUS_GRADE_CHANGED n) = true ∧
    (s.setGrade n g m).lx.log.getLast? = some ⟨s.mfN, n, s.f (Reg.LX_LANE_STATUS_GRADE n), g, m, s.lx.logSeq⟩ := by
  rw [State.setGrade_eq, if_neg h, State.logged_last, State.logged_flag]
  refine ⟨State.flag_setB _ _ true (by simp [Reg.LX_LANE_STATUS_GRADE_CHANGED]) rfl, ?_⟩
  rw [State.graded, State.setB_lx, State.setF_lx, State.mfN, State.setB_time, State.setF_time, State.mfN]

theorem State.setGrade_lanes (g : Nat) (m : Margins) : (s.setGrade n g m).lx.lanes = s.lx.lanes := by
  rw [State.setGrade_eq]
  split
  · rfl
  · rw [State.logged_lanes, State.graded, State.setB_lx, State.setF_lx]

theorem State.gradeOf_lt (m : Margins) : s.gradeOf n m < 8 := by
  unfold State.gradeOf
  extract_lets l
  split_ifs <;> omega

/-- The state in which a check that has ended has written its margins. -/
def State.measured (s : State) (n : Nat) (m : Margins) : State :=
  let s := (s.setB (Reg.LX_EYE_STATUS_HW_ACTIVE n) false).setB (Reg.LX_EYE_STATUS_BUSY n) false
  (((s.setF (Reg.LX_MARGIN_H_LEFT n) m.hLeft.toNat).setF (Reg.LX_MARGIN_H_RIGHT n) m.hRight.toNat).setF
    (Reg.LX_MARGIN_V_UP n) m.vUp.toNat).setF (Reg.LX_MARGIN_V_DOWN n) m.vDown.toNat

theorem State.regsBut_measured (m : Margins) : s.regsBut [Reg.LX_EYE_STATUS n, Reg.LX_MARGIN n] (s.measured n m) :=
  (((((((State.regsBut.refl _ s).setB (x := Reg.LX_EYE_STATUS_HW_ACTIVE n) _ (.head _)).setB (x := Reg.LX_EYE_STATUS_BUSY n) _ (.head _)).setF
    (x := Reg.LX_MARGIN_H_LEFT n) _ (.tail _ (.head _))).setF (x := Reg.LX_MARGIN_H_RIGHT n) _ (.tail _ (.head _))).setF
    (x := Reg.LX_MARGIN_V_UP n) _ (.tail _ (.head _))).setF (x := Reg.LX_MARGIN_V_DOWN n) _ (.tail _ (.head _)))

theorem State.moves_measured (m : Margins) : Moves [.regs] s (s.measured n m) :=
  State.setF_moves (State.setF_moves (State.setF_moves (State.setF_moves (State.setB_moves (State.setB_moves (.refl _ s) (by decide))
    (by decide)) (by decide)) (by decide)) (by decide)) (by decide)

theorem State.measured_margins (m : Margins) : (s.measured n m).f (Reg.LX_MARGIN_H_LEFT n) = m.hLeft.toNat ∧
    (s.measured n m).f (Reg.LX_MARGIN_H_RIGHT n) = m.hRight.toNat ∧ (s.measured n m).f (Reg.LX_MARGIN_V_UP n) = m.vUp.toNat ∧
    (s.measured n m).f (Reg.LX_MARGIN_V_DOWN n) = m.vDown.toNat := by
  have := m.hLeft.isLt; have := m.hRight.isLt; have := m.vUp.isLt; have := m.vDown.isLt
  simp [State.measured, State.f_setF_eq, Reg.LX_MARGIN_H_LEFT, Reg.LX_MARGIN_H_RIGHT, Reg.LX_MARGIN_V_UP, Reg.LX_MARGIN_V_DOWN]
  omega

theorem State.measured_eye (m : Margins) : (s.measured n m).flag (Reg.LX_EYE_STATUS_HW_ACTIVE n) = false ∧
    (s.measured n m).flag (Reg.LX_EYE_STATUS_BUSY n) = false := by
  simp [State.measured, State.flag_eq, State.setB_eq, b2n, State.f_setF_eq, Reg.LX_MARGIN_H_LEFT, Reg.LX_MARGIN_H_RIGHT, Reg.LX_MARGIN_V_UP,
    Reg.LX_MARGIN_V_DOWN, Reg.LX_EYE_STATUS_HW_ACTIVE, Reg.LX_EYE_STATUS_BUSY, Reg.LX_EYE_STATUS, Reg.LX_MARGIN]

/-- What a grade is made of stands in none of the registers that a check writes. -/
theorem State.regsBut.gradeOf {l : List Nat} {s t : State} (h : s.regsBut l t) (e : t.lx = s.lx) (st : Reg.LX_LANE_STATUS n ∉ l)
    (thr : Reg.LX_MARGIN_THR n ∉ l) (m : Margins) : t.gradeOf n m = s.gradeOf n m := by
  have meet (k : Nat) : t.marginsMeet n k m = s.marginsMeet n k m := by
    rw [State.marginsMeet, h.f (x := Reg.LX_MARGIN_THR_H n) thr, h.f (x := Reg.LX_MARGIN_THR_V n) thr, State.marginsMeet]
  simp only [State.gradeOf, meet, State.laneState, h.f (x := Reg.LX_LANE_STATUS_STATE n) st, State.lane_of_lx (congrArg LaneSt.lanes e) n]
  rfl

theorem State.gradeOf_measured (m : Margins) : (s.measured n m).gradeOf n m = s.gradeOf n m :=
  State.regsBut.gradeOf n (s.regsBut_measured n m) ((s.moves_measured n m).lx_eq (by decide))
    (by simp [Reg.LX_LANE_STATUS, Reg.LX_EYE_STATUS, Reg.LX_MARGIN]) (by simp [Reg.LX_MARGIN_THR, Reg.LX_EYE_STATUS, Reg.LX_MARGIN]) m

theorem State.updLane_log (g : LaneRec → LaneRec) : (s.updLane n g).lx.log = s.lx.log := (rfl)

/-- The record of a lane that has graded, with or without POOR. -/
def LaneRec.checked (poor : Bool) (l : LaneRec) : LaneRec := { l with
  retrainReq := false, bipSince := 0, poorSlots := if poor then l.poorSlots + b2n l.poorNow else 0, poorNow := false }

/-- The state in which lane `n` has been graded by a check, before what follows for its path. -/
def State.checked (s : State) (n : Nat) (m : Margins) : State :=
  ((s.measured n m).setGrade n (s.gradeOf n m) m).updLane n (LaneRec.checked (s.gradeOf n m == 2 || s.gradeOf n m == 3))

theorem State.marginComplete_eq (m : Margins) (h : s.flag (Reg.LX_EYE_STATUS_HW_ACTIVE n) = true) (y : (s.lane n).yielded = false) :
    s.marginComplete n m = if (s.gradeOf n m == 2 || s.gradeOf n m == 3) = true then
      ((s.checked n m).pathMarginUpdate ((s.checked n m).trunkOf n)).poorLane ((s.checked n m).trunkOf n)
    else (s.checked n m).pathMarginUpdate ((s.checked n m).trunkOf n) := by
  rw [State.checked, ← s.gradeOf_measured n m, State.marginComplete, if_pos (by rw [h, y]; rfl)]
  rfl

theorem State.f_checked (m : Margins) {x : Fld} (h : x.addr ≠ Reg.LX_LANE_STATUS n) : (s.checked n m).f x = (s.measured n m).f x := by
  rw [State.checked, State.updLane_f, State.f_setGrade _ n _ m h]

theorem State.regsBut_graded (g : Nat) : s.regsBut [Reg.LX_LANE_STATUS n] (s.graded n g) := by
  rw [State.graded]
  exact ((State.regsBut.refl _ _).setF (x := Reg.LX_LANE_STATUS_GRADE n) _ (.head _)).setB (x := Reg.LX_LANE_STATUS_GRADE_CHANGED n) _ (.head _)

theorem State.regsBut_setGrade (g : Nat) (m : Margins) : s.regsBut [Reg.LX_LANE_STATUS n] (s.setGrade n g m) := by
  rw [State.setGrade_eq]
  split
  · exact .refl _ _
  · exact (s.regsBut_graded n g).keep (State.logged_regs _ _)

theorem State.regsBut_checked (m : Margins) : s.regsBut [Reg.LX_EYE_STATUS n, Reg.LX_MARGIN n, Reg.LX_LANE_STATUS n] (s.checked n m) := by
  rw [State.checked]
  exact (((s.regsBut_measured n m).mono (by simp)).step (State.regsBut_setGrade _ n _ m) (by simp)).updLane n _

theorem shapeless_checked {n : Nat} (hn : n < 192) : shapeless [Reg.LX_EYE_STATUS n, Reg.LX_MARGIN n, Reg.LX_LANE_STATUS n] := by
  simp only [shapeless, Reg.LX_LANE_STATUS, Reg.LX_EYE_STATUS, Reg.LX_MARGIN, Reg.laneBase, Reg.PU_CTRL, Reg.PU_CFG, Reg.LX_QUAD_CFG, Reg.quadBase,
    List.mem_cons, List.not_mem_nil, or_false]
  refine ⟨by omega, by omega, fun q => by omega⟩

/-- What a trunk's shape is read from stands in none of the registers that a check writes. -/
theorem State.trunkOf_checked {n : Nat} (hn : n < 192) (m : Margins) : (s.checked n m).trunkOf n = s.trunkOf n :=
  (s.regsBut_checked n m).trunkOf (shapeless_checked hn) n

/-! ## Software owns the sampler (R88) -/

theorem State.eyeOwn_eq : s.eyeOwn n = if (s.setB (Reg.LX_EYE_CTRL_SW_OWN n) true).flag (Reg.LX_EYE_STATUS_HW_ACTIVE n) then
    (s.setB (Reg.LX_EYE_CTRL_SW_OWN n) true).updLane n (fun l => { l with yielded := true }) else s.setB (Reg.LX_EYE_CTRL_SW_OWN n) true := rfl

theorem eyeStatus_ne_eyeCtrl : Reg.LX_EYE_STATUS n ≠ Reg.LX_EYE_CTRL n := by simp [Reg.LX_EYE_STATUS, Reg.LX_EYE_CTRL]

theorem State.regs_eyeOwn : (s.eyeOwn n).regs = (s.setB (Reg.LX_EYE_CTRL_SW_OWN n) true).regs := by
  rw [State.eyeOwn_eq]
  split <;> rfl

theorem State.eyeOwn_yields (h : s.flag (Reg.LX_EYE_STATUS_HW_ACTIVE n) = true) : ((s.eyeOwn n).lane n).yielded = true := by
  rw [State.eyeOwn_eq, if_pos ((s.flag_setB_other true (eyeStatus_ne_eyeCtrl n)).trans h), State.lane_updLane]

/-- Taking the sampler leaves LX_EYE_STATUS. -/
theorem State.f_eyeOwn {x : Fld} (h : x.addr = Reg.LX_EYE_STATUS n) : (s.eyeOwn n).f x = s.f x := by
  rw [State.f_of_regs (s.regs_eyeOwn n) x, State.f_setB_other _ _ (by rw [h]; exact eyeStatus_ne_eyeCtrl n)]

theorem State.eyeOwn_swOwn : (s.eyeOwn n).flag (Reg.LX_EYE_CTRL_SW_OWN n) = true := by
  rw [State.flag_of_regs (s.regs_eyeOwn n), State.flag_setB _ _ _ (by simp [Reg.LX_EYE_CTRL_SW_OWN]) rfl]

/-- Taking the sampler leaves the point that software has asked for. -/
theorem State.eyeOwn_point : (s.eyeOwn n).f (Reg.LX_EYE_CTRL_HOFF n) = s.f (Reg.LX_EYE_CTRL_HOFF n) ∧
    (s.eyeOwn n).f (Reg.LX_EYE_CTRL_VOFF n) = s.f (Reg.LX_EYE_CTRL_VOFF n) ∧
    (s.eyeOwn n).f (Reg.LX_EYE_CTRL_DWELL n) = s.f (Reg.LX_EYE_CTRL_DWELL n) := by
  simp [State.f_of_regs (s.regs_eyeOwn n), State.setB_eq, State.f_setF_eq, Reg.LX_EYE_CTRL_SW_OWN, Reg.LX_EYE_CTRL_HOFF, Reg.LX_EYE_CTRL_VOFF,
    Reg.LX_EYE_CTRL_DWELL]

/-- A write to LX_EYE_CTRL with START gives it the point to scan. -/
theorem State.writeEyeCtrl_point {n : Nat} (hn : n < 192) (v : Word) :
    (s.writeReg (Reg.LX_EYE_CTRL n) (putBits v 1 1 1)).f (Reg.LX_EYE_CTRL_HOFF n) = bits v 4 8 ∧
    (s.writeReg (Reg.LX_EYE_CTRL n) (putBits v 1 1 1)).f (Reg.LX_EYE_CTRL_VOFF n) = bits v 12 6 ∧
    (s.writeReg (Reg.LX_EYE_CTRL n) (putBits v 1 1 1)).f (Reg.LX_EYE_CTRL_DWELL n) = bits v 2 2 := by
  have spec := regSpec_lane n 0x18 _ hn (by decide) rfl
  refine ⟨(s.f_writeReg (Reg.LX_EYE_CTRL_HOFF n) _ _ spec (by simp [Reg.LX_EYE_CTRL_HOFF]) (by simp only [Reg.LX_EYE_CTRL_HOFF]; decide)).trans ?_,
    (s.f_writeReg (Reg.LX_EYE_CTRL_VOFF n) _ _ spec (by simp [Reg.LX_EYE_CTRL_VOFF]) (by simp only [Reg.LX_EYE_CTRL_VOFF]; decide)).trans ?_,
    (s.f_writeReg (Reg.LX_EYE_CTRL_DWELL n) _ _ spec (by simp [Reg.LX_EYE_CTRL_DWELL]) (by simp only [Reg.LX_EYE_CTRL_DWELL]; decide)).trans ?_⟩
  · exact bits_putBits_other _ 1 1 1 4 8 (by decide) (by decide)
  · exact bits_putBits_other _ 1 1 1 12 6 (by decide) (by decide)
  · exact bits_putBits_other _ 1 1 1 2 2 (by decide) (by decide)

/-- EYE_SCAN_START with SW_OWN: the point waits for the end of a check's point, or is scanned. -/
theorem State.eyeStart_eq (v : Word) (own : bits v 0 1 = 1) : s.eyeStart n (putBits v 1 1 1) =
    let u := (s.writeReg (Reg.LX_EYE_CTRL n) (putBits v 1 1 1)).eyeOwn n
    if u.flag (Reg.LX_EYE_STATUS_HW_ACTIVE n) then u.updLane n (fun l => { l with scanWaits := true })
    else if u.f (Reg.LX_EYE_STATUS_BUSY n) = 0 then u.setB (Reg.LX_EYE_STATUS_BUSY n) true else u := by
  have own' : bits (putBits v 1 1 1) 0 1 = 1 := (bits_putBits_other _ _ _ _ _ _ (by decide) (by decide)).trans own
  have start : bits (putBits v 1 1 1) 1 1 = 1 := bits_putBits _ _ _ _ (by decide)
  rw [State.eyeStart, if_pos own', if_pos ⟨start, State.eyeOwn_swOwn _ n⟩]

end

/-- Settles O3, clause by clause from what the sampler's operations set and leave. -/
theorem samplerServesChecksAndScans : Obligations.SamplerServesChecksAndScans := by
  unfold Obligations.SamplerServesChecksAndScans
  refine fun s n => ⟨fun up thawed => ?_, fun awake => ?_, fun up noAudit due free => ?_, fun up done => ?_, fun m active on => ?_, fun serves => ?_,
    fun v serves own => ?_, fun c busy idle => ?_, fun c busy active yields => ?_⟩
  · refine answers_eq rfl (if_pos ⟨up, f_of_flag rfl thawed⟩) ?_
    simp [State.flag_eq, State.setB_eq, State.bump_eq, State.f_setF_eq, b2n, Reg.LX_LANE_STATUS_ADAPT_FROZEN, Reg.LX_IDLE_FREEZES_COUNT,
      Reg.LX_LANE_STATUS, Reg.LX_IDLE_FREEZES]
  · exact answers_eq rfl (if_neg awake) (State.flag_setB _ _ _ (by simp [Reg.LX_LANE_STATUS_ADAPT_FROZEN]) rfl)
  · refine answers_eq rfl (if_pos ⟨up, noAudit, due, free⟩) ?_
    have own (g : LaneRec → LaneRec) : (s.updLane n g).flag (Reg.LX_EYE_CTRL_SW_OWN n) = s.flag (Reg.LX_EYE_CTRL_SW_OWN n) := rfl
    simp only [own]
    cases s.flag (Reg.LX_EYE_CTRL_SW_OWN n)
    · refine ⟨?_, ?_, ?_⟩
      · rw [if_neg (by decide), State.setB_lane, State.setB_lane, State.lane_updLane]
      all_goals simp [State.flag_eq, State.setB_eq, State.f_setF_eq, b2n, Reg.LX_EYE_STATUS_HW_ACTIVE, Reg.LX_EYE_STATUS_BUSY]
    · refine ⟨?_, ?_, ?_⟩
      · rw [if_pos rfl, State.bump_lane, State.lane_updLane]
      · exact State.f_bump _ _ _ (by simp [Reg.LX_EYE_STATUS_SKIPPED])
      · rw [Reg.LX_EYE_STATUS_HW_ACTIVE] at free
        simp [State.flag_eq, State.bump_eq, State.f_setF_eq, Reg.LX_EYE_STATUS_HW_ACTIVE, Reg.LX_EYE_STATUS_SKIPPED, free]
  · exact answers_of rfl (if_neg fun h => Nat.not_le.mpr done h.2.2.1)
  · refine answers_eq rfl (s.marginComplete_eq n m active on) ⟨s.checked n m, ?_⟩
    have apart : Reg.LX_MARGIN n ≠ Reg.LX_LANE_STATUS n := by simp [Reg.LX_MARGIN, Reg.LX_LANE_STATUS]
    have apart' : Reg.LX_EYE_STATUS n ≠ Reg.LX_LANE_STATUS n := by simp [Reg.LX_EYE_STATUS, Reg.LX_LANE_STATUS]
    obtain ⟨left, right, vup, down⟩ := s.measured_margins n m
    obtain ⟨active', busy'⟩ := s.measured_eye n m
    have lane : (s.checked n m).lane n = _ := State.lane_updLane _ n _
    have grade := (s.regsBut_measured n m).f (x := Reg.LX_LANE_STATUS_GRADE n)
      (by simp [Reg.LX_LANE_STATUS_GRADE, Reg.LX_LANE_STATUS, Reg.LX_EYE_STATUS, Reg.LX_MARGIN])
    refine ⟨(s.f_checked n m apart).trans left, (s.f_checked n m apart).trans right, (s.f_checked n m apart).trans vup,
      (s.f_checked n m apart).trans down, ?_, ?_, ?_, fun changed => ?_, by rw [lane]; rfl, by rw [lane]; rfl, ?_⟩
    · rw [State.flag, s.f_checked n m apart', ← State.flag, active']
    · rw [State.flag, s.f_checked n m apart', ← State.flag, busy']
    · rw [State.checked, State.updLane_f, State.grade_setGrade _ n _ (s.gradeOf_lt n m) m]
    · have := (s.measured n m).setGrade_changed n (s.gradeOf n m) m (by rw [grade]; exact changed)
      rw [grade, (s.moves_measured n m).lx_eq (by decide), State.mfN, (s.moves_measured n m).time_eq (by decide), ← State.mfN] at this
      rw [State.checked, State.updLane_flag, State.updLane_log]
      exact this
    · rw [s.trunkOf_checked n.isLt]
      simp only [Bool.or_eq_true, beq_iff_eq]
  · refine answers_eq rfl (s.pfWrite_of_serves serves _) ⟨s.eyeOwn_swOwn n, ?_, s.f_eyeOwn n rfl, s.eyeOwn_yields n⟩
    rw [State.flag, s.f_eyeOwn n rfl, State.flag]
  · refine answers_eq rfl ((s.pfWrite_of_serves serves _).trans (s.eyeStart_eq n v own)) ?_
    extract_lets u
    obtain ⟨hoff, voff, dwell⟩ := s.writeEyeCtrl_point n.isLt v
    obtain ⟨hoff', voff', dwell'⟩ := (s.writeReg (Reg.LX_EYE_CTRL n) (putBits v 1 1 1)).eyeOwn_point n
    have active (w : State) : (w.writeReg (Reg.LX_EYE_CTRL n) (putBits v 1 1 1)).flag (Reg.LX_EYE_STATUS_HW_ACTIVE n) =
        w.flag (Reg.LX_EYE_STATUS_HW_ACTIVE n) := by
      rw [State.flag, State.f_writeReg_other _ _ _ _ (eyeStatus_ne_eyeCtrl n), State.flag]
    have same : u.flag (Reg.LX_EYE_STATUS_HW_ACTIVE n) = s.flag (Reg.LX_EYE_STATUS_HW_ACTIVE n) := by
      rw [State.flag, State.f_eyeOwn _ n rfl, ← State.flag, active]
    have swOwn : u.flag (Reg.LX_EYE_CTRL_SW_OWN n) = true := State.eyeOwn_swOwn _ n
    rw [same]
    cases h : s.flag (Reg.LX_EYE_STATUS_HW_ACTIVE n)
    · have apart : Reg.LX_EYE_CTRL n ≠ Reg.LX_EYE_STATUS n := (eyeStatus_ne_eyeCtrl n).symm
      have kept {x : Fld} (hx : x.addr = Reg.LX_EYE_CTRL n) : (if u.f (Reg.LX_EYE_STATUS_BUSY n) = 0 then
          u.setB (Reg.LX_EYE_STATUS_BUSY n) true else u).f x = u.f x := by
        split
        · exact u.f_setB_other true (by rw [hx]; exact apart)
        · rfl
      refine ⟨?_, (kept rfl).trans (hoff'.trans hoff), (kept rfl).trans (voff'.trans voff), (kept rfl).trans (dwell'.trans dwell), ?_⟩
      · rw [if_neg (by decide), State.flag, kept rfl, ← State.flag, swOwn]
      · rw [if_neg (by decide), if_neg (by decide)]
        split
        · exact State.f_setB _ _ _ (by simp [Reg.LX_EYE_STATUS_BUSY]) rfl
        · have := u.f_lt (Reg.LX_EYE_STATUS_BUSY n)
          simp only [Reg.LX_EYE_STATUS_BUSY] at *
          omega
    · refine ⟨swOwn, hoff'.trans hoff, voff'.trans voff, dwell'.trans dwell, ?_⟩
      rw [if_pos rfl, if_pos rfl, State.lane_updLane]
      exact ⟨rfl, State.eyeOwn_yields _ n ((active s).trans h)⟩
  · refine answers_eq rfl ((if_neg (by simp [busy])).trans (if_neg (by simp [idle]))) ⟨?_, ?_, State.flag_setB _ _ _ (by simp [Reg.LX_EYE_STATUS_DONE]) rfl⟩
    · rw [State.setB_eq, State.setB_eq, State.reg_setF_other, State.reg_setF_other, State.reg_setReg]
      all_goals simp [Reg.LX_EYE_COUNT, Reg.LX_EYE_STATUS_BUSY, Reg.LX_EYE_STATUS_DONE, Reg.LX_EYE_STATUS]
    · simp [State.flag_eq, State.setB_eq, State.f_setF_eq, b2n, Reg.LX_EYE_STATUS_BUSY, Reg.LX_EYE_STATUS_DONE]
  · refine answers_eq rfl ((if_neg (by simp [busy])).trans ((if_pos active).trans (if_pos yields))) ⟨?_, ?_, ?_, ?_⟩
    · simp [State.flag_eq, State.setB_eq, State.f_setF_eq, b2n, Reg.LX_EYE_STATUS_BUSY, Reg.LX_EYE_STATUS_HW_ACTIVE]
    · rw [State.lane_updLane]
    · rw [State.updLane_flag, State.flag_setB _ _ _ (by simp [Reg.LX_EYE_STATUS_BUSY]) rfl]
    · rw [State.updLane_reg, State.setB_eq, State.setB_eq, State.reg_setF_other, State.reg_setF_other]
      all_goals simp [Reg.LX_EYE_COUNT, Reg.LX_EYE_STATUS_BUSY, Reg.LX_EYE_STATUS_HW_ACTIVE, Reg.LX_EYE_STATUS]

end Sys2Proof.Machine

namespace Sys2Proof.Machine

/-! # Retraining slots and the pattern tester (R90 to R95) -/

/-! ## Folds over the lanes of a trunk -/

theorem nodup_numbers (a k : Nat) : (numbers a k).Nodup := by
  induction k generalizing a with
  | zero => exact .nil
  | succ k ih => exact List.nodup_cons.mpr ⟨fun h => by have := (mem_numbers.mp h).1; omega, ih (a + 1)⟩

/-- What a fold over lanes leaves of lane `i`, when each lane's step changes that lane alone. -/
theorem foldl_at {β : Type} {g : State → Nat → State} {rd : State → β} {h : β → β} {i : Nat} (own : ∀ s, rd (g s i) = h (rd s))
    (other : ∀ s m, m ≠ i → rd (g s m) = rd s) (l : List Nat) (nodup : l.Nodup) (s : State) :
    rd (l.foldl g s) = if i ∈ l then h (rd s) else rd s := by
  induction l generalizing s with
  | nil => rfl
  | cons x r ih =>
    obtain ⟨fresh, nodup⟩ := List.nodup_cons.mp nodup
    rw [List.foldl_cons, ih nodup]
    by_cases e : i = x
    · subst e
      rw [if_neg fresh, if_pos List.mem_cons_self, own]
    · rw [other s x (Ne.symm e)]
      simp only [List.mem_cons, e, false_or]

section
variable (s : State) (n : Nat)

/-! ## Lanes enter and leave RETRAINING -/

/-- The registers that a lane writes as it enters RETRAINING. -/
def retrainRegs (n : Nat) : List Nat := Reg.LX_RETRAIN_COUNT n :: stateRegs n

/-- Lane `n` in RETRAINING, before its first request. -/
def State.retraining (s : State) (n : Nat) : State :=
  ((s.setLane n Ls.retraining).setB (Reg.LX_LANE_STATUS_ADAPT_FROZEN n) false).bump (Reg.LX_RETRAIN_COUNT_RETRAINS n)

theorem State.enterRetraining_regs : (s.enterRetraining n).regs = (s.retraining n).regs := by
  unfold State.enterRetraining
  extract_lets s1 s2
  rw [State.emit_regs, State.placeRequest_regs, State.updLane_regs]
  rfl

theorem State.regsBut_retraining : s.regsBut (retrainRegs n) (s.retraining n) := by
  rw [State.retraining]
  exact (((State.regsBut_setLane s n _).mono (List.subset_cons_self _ _)).setB (x := Reg.LX_LANE_STATUS_ADAPT_FROZEN n) _ (.tail _ (.head _))).bump
    (x := Reg.LX_RETRAIN_COUNT_RETRAINS n) _ (.head _)

theorem State.f_enterRetraining (x : Fld) : (s.enterRetraining n).f x = (s.retraining n).f x := State.f_of_regs (s.enterRetraining_regs n) x

/-- What R90 says of a lane's registers: its state, whether its adaptation is frozen, and its retrainings. -/
def State.retrainView (s : State) (n : Nat) : Nat × Nat × Nat :=
  (s.laneState n, s.f (Reg.LX_LANE_STATUS_ADAPT_FROZEN n), s.f (Reg.LX_RETRAIN_COUNT_RETRAINS n))

theorem State.retrainView_enter : (s.enterRetraining n).retrainView n = (Ls.retraining, 0, min (s.f (Reg.LX_RETRAIN_COUNT_RETRAINS n) + 1) 65535) := by
  have count := State.f_setLane s n Ls.retraining (x := Reg.LX_RETRAIN_COUNT_RETRAINS n) (lane_not_mem_stateRegs (by decide) (by decide))
  have st := s.laneState_setLane n (st := Ls.retraining) (by decide)
  rw [State.laneState] at st
  simp only [State.retrainView, State.laneState, State.f_enterRetraining, State.retraining]
  simp only [Reg.LX_LANE_STATUS_STATE, Reg.LX_LANE_STATUS_ADAPT_FROZEN, Reg.LX_RETRAIN_COUNT_RETRAINS, Reg.LX_LANE_STATUS,
    Reg.LX_RETRAIN_COUNT] at st count ⊢
  simp [State.setB_eq, State.bump_eq, State.f_setF_eq, b2n, st, count]

theorem State.retrainView_enter_other {m : Nat} (h : m ≠ n) : (s.enterRetraining m).retrainView n = s.retrainView n := by
  have keep {x : Fld} (o : Nat) (ho : o < 0x1000) (hx : x.addr = Reg.laneBase n + o) : (s.retraining m).f x = s.f x := by
    refine (s.regsBut_retraining m).f ?_
    rw [hx]
    simp only [retrainRegs, stateRegs, Reg.LX_RETRAIN_COUNT, Reg.LX_LANE_STATUS, Reg.LX_PRBS_STATUS, Reg.laneBase, Reg.CKG_STATUS, Reg.CKG_REF_EVENTS,
      List.mem_cons, List.not_mem_nil, or_false]
    omega
  simp only [State.retrainView, State.laneState, State.f_enterRetraining]
  rw [keep _ _ rfl, keep _ _ rfl, keep _ _ rfl]
  all_goals decide
/-- Which lanes of a trunk go into a slot, and what they read after it has begun. -/
theorem State.foldl_enterRetraining (l : List Nat) (nodup : l.Nodup) : (l.foldl (fun s n => s.enterRetraining n) s).retrainView n =
    if n ∈ l then (Ls.retraining, 0, min (s.f (Reg.LX_RETRAIN_COUNT_RETRAINS n) + 1) 65535) else s.retrainView n :=
  foldl_at (rd := fun s => s.retrainView n) (h := fun v => (Ls.retraining, 0, min (v.2.2 + 1) 65535))
    (fun s => s.retrainView_enter n) (fun s _ h => s.retrainView_enter_other n h) l nodup s

/-- A lane returns from RETRAINING to UP. -/
def State.leaveRetraining (s : State) (n : Nat) : State :=
  if s.laneState n = 4 then (s.setLane n Ls.up).updLane n (fun l => { l with poorNow := true, request := 0 }) else s

theorem State.laneState_leave : (s.leaveRetraining n).laneState n = if s.laneState n = Ls.retraining then Ls.up else s.laneState n := by
  rw [State.leaveRetraining]
  split
  · rw [State.laneState_updLane, State.laneState_setLane _ _ (by decide), if_pos ‹_›]
  · rw [if_neg ‹_›]

theorem State.laneState_leave_other {m : Nat} (h : m ≠ n) : (s.leaveRetraining m).laneState n = s.laneState n := by
  rw [State.leaveRetraining]
  split
  · rw [State.laneState_updLane, State.laneState_setLane_other s h.symm]
  · rfl

/-! ## The trunk's slot -/

theorem State.trunks_placeRequest (status : Nat) : (s.placeRequest n status).lx.trunks = s.lx.trunks := by
  unfold State.placeRequest
  extract_lets l asked s1 q
  split
  · rfl
  · show s1.fresh.lx.trunks = _
    rw [State.fresh_lx]
    rfl

theorem State.trunk_enterRetraining (t : Nat) : (s.enterRetraining n).trunk t = s.trunk t := by
  refine State.trunk_of_lx ?_ t
  unfold State.enterRetraining
  extract_lets s1 s2
  have h1 : s1.lx.trunks = s.lx.trunks := by
    show (State.bump _ _ _).lx.trunks = _
    rw [State.bump_eq, State.setF_lx, State.setB_lx, State.trunks_setLane]
  rw [State.emit_lx, State.trunks_placeRequest]
  exact h1

theorem State.trunk_leave (t : Nat) : (s.leaveRetraining n).trunk t = s.trunk t := by
  rw [State.leaveRetraining]
  split
  · rw [State.updLane_trunk, State.trunk_of_lx (s.trunks_setLane n _)]
  · rfl

theorem foldl_trunk {g : State → Nat → State} {t : Nat} (keep : ∀ s n, (g s n).trunk t = s.trunk t) (l : List Nat) (s : State) :
    (l.foldl g s).trunk t = s.trunk t := by
  induction l generalizing s with
  | nil => rfl
  | cons x r ih => rw [List.foldl_cons, ih, keep]

variable (t : Nat)

/-- The slot of trunk `t` is on, and no block that was held for it waits. -/
def State.slotBegun (s : State) (t : Nat) : State :=
  let s := s.updTrunk t (fun r => { r with slotOn := true })
  { s with ts := { s.ts with retrainHeld := s.ts.retrainHeld.filter (· / 2 ^ 40 != t) } }

theorem State.slotBegun_regs : (s.slotBegun t).regs = s.regs := by unfold State.slotBegun; rfl
theorem State.slotBegun_trunk : (s.slotBegun t).trunk t = { s.trunk t with slotOn := true } := by
  unfold State.slotBegun; exact s.trunk_updTrunk t _

theorem State.lanesOf_of_regs {s u : State} (h : u.regs = s.regs) (t : Nat) : u.lanesOf t = s.lanesOf t := by
  exact State.regsBut.lanesOf ((State.regsBut.refl [] s).keep h) (by simp [shapeless]) t

theorem State.slotStart_eq (at_ : (s.trunk t).slot = some s.mfN) (off : (s.trunk t).slotOn = false) (up : s.trunkUp t = true) :
    s.slotStart t = ((s.lanesOf t).filter (fun n => (s.trunk t).slotLanes.contains n || (s.trunk t).slotReq)).foldl
      (fun s n => s.enterRetraining n) (s.slotBegun t) := by
  have lanes := State.lanesOf_of_regs (s.slotBegun_regs t) t
  have rc := s.slotBegun_trunk t
  rw [State.slotStart]
  simp only [at_]
  rw [if_neg (by simp [off]), if_pos ⟨trivial, up⟩]
  change ((State.lanesOf (s.slotBegun t) t).filter (fun n => ((s.slotBegun t).trunk t).slotLanes.contains n || ((s.slotBegun t).trunk t).slotReq)).foldl
    _ _ = _
  rw [lanes, rc]
  rfl

theorem State.slotStart_dropped {f : Nat} (at_ : (s.trunk t).slot = some f) (off : (s.trunk t).slotOn = false) (past : f ≤ s.mfN)
    (down : s.trunkUp t = false) : s.slotStart t = s.updTrunk t (fun r => { r with slot := none, slotReq := false, slotLanes := [] }) := by
  rw [State.slotStart]
  simp only [at_]
  rw [if_neg (by simp [off]; omega), if_neg (by simp [down])]

theorem State.slotEnd_eq {f : Nat} (at_ : (s.trunk t).slot = some f) (on : (s.trunk t).slotOn = true) (past : f + 2 ≤ s.mfN) :
    s.slotEnd t = (s.lanesOf t).foldl State.leaveRetraining
      (s.updTrunk t (fun r => { r with slot := none, slotOn := false, slotReq := false, slotLanes := [] })) := by
  rw [State.slotEnd]
  simp only [at_]
  rw [if_pos ⟨on, past⟩]
  rfl

/-- A lane of a trunk that is UP is UP. -/
theorem State.laneState_of_trunkUp (up : s.trunkUp t = true) (h : n ∈ s.lanesOf t) : s.laneState n = Ls.up := by
  rw [State.trunkUp, Bool.and_eq_true] at up
  exact beq_iff_eq.mp (List.all_eq_true.mp up.2 n h)

/-! ## RETRAIN blocks (R92) -/

/-- The lanes of trunk `t` that grade POOR. -/
def State.poorLanes (s : State) (t : Nat) : List Nat :=
  (s.lanesOf t).filter (fun n => s.f (Reg.LX_LANE_STATUS_GRADE n) == 2 || s.f (Reg.LX_LANE_STATUS_GRADE n) == 3)

theorem State.mem_poorLanes {t i : Nat} : i ∈ s.poorLanes t ↔
    i ∈ s.lanesOf t ∧ (s.f (Reg.LX_LANE_STATUS_GRADE i) = 2 ∨ s.f (Reg.LX_LANE_STATUS_GRADE i) = 3) := by
  rw [State.poorLanes, List.mem_filter, Bool.or_eq_true, beq_iff_eq, beq_iff_eq]

theorem State.fixSlot_of_none (none_ : (s.trunk t).slot = none) : s.fixSlot t =
    s.updTrunk t (fun r => { r with slot := some (slotMf s.mfN), slotReq := false, slotLanes := s.poorLanes t }) := by
  rw [State.fixSlot, none_]
  rfl

theorem State.nodup_lanesOf : (s.lanesOf t).Nodup := nodup_numbers _ _

theorem State.foldl_leave (l : List Nat) (nodup : l.Nodup) : (l.foldl State.leaveRetraining s).laneState n =
    if n ∈ l then (if s.laneState n = Ls.retraining then Ls.up else s.laneState n) else s.laneState n :=
  foldl_at (rd := fun s => s.laneState n) (h := fun v => if v = Ls.retraining then Ls.up else v)
    (fun s => s.laneState_leave n) (fun s _ h => s.laneState_leave_other n h) l nodup s

/-- The answer to a RETRAIN block while a slot is on: the request is served, or held when it comes too soon (R90). -/
def State.retrainServed (s : State) (n req : Nat) : State :=
  let soon : Bool := match (s.lane n).stepAt with | some x => decide (s.now < x + 100) | none => false
  let fresh : Bool := req != 0 && statusByte (s.lane n) % 64 == 0
  if fresh && soon then s else (s.applyRequest n req).when fresh (fun s => s.updLane n (fun l => { l with stepAt := some s.now }))

theorem State.retrainReceived_eq {raw : BitVec 64} (good : rawGood 0x5A raw = true) (live : laneLive (s.laneState n) = true) :
    s.retrainReceived n raw =
      let b := leBytes 8 raw.toNat
      let t := s.trunkOf n
      let u := if nbit (field b 4 1) 0 ∧ (s.trunk t).slotOn = false then (s.fixSlot t).updTrunk t (fun r => { r with slotReq := true }) else s
      if (u.trunk t).slotOn then
        let v := (u.retrainServed n (field b 1 1)).placeRequest n (field b 2 1)
        v.emit (.retrain n (v.retrainBlock n))
      else u := if_pos ⟨good, live⟩

theorem State.retrainServed_out (req : Nat) : (s.retrainServed n req).out = s.out := by
  have h := Moves.refl [.regs, .lx] s
  have g : Moves [.regs, .lx] s (s.applyRequest n req) := State.applyRequest_moves h (by decide)
  refine Moves.out_eq (l := [.regs, .lx]) (s := s) ?_ (by decide)
  unfold State.retrainServed
  extract_lets soon fresh
  split
  · exact h
  · exact State.when_moves g (fun _ hu => State.updLane_moves hu (by decide))

theorem State.placeRequest_out (status : Nat) : (s.placeRequest n status).out = s.out :=
  Moves.out_eq (l := [.lx, .free]) (State.placeRequest_moves (.refl _ s) (by decide)) (by decide)

end

/-! ## The pattern tester (R94, R95) -/

section
variable (s : State) (n : Nat)

theorem State.inject_again (k : Nat) (h : (s.lane n).injectAt = some s.now) : s.inject n k = s := if_neg fun ⟨_, _, ne⟩ => ne h

theorem State.inject_eq (k : Nat) (st : s.laneState n = 6) (gen : s.flag (Reg.LX_PRBS_CTRL_GEN_EN n) = true) :
    s.inject n k = if (s.lane n).injectAt = some s.now then s
      else (s.emit (.inject n k)).updLane n (fun l => { l with injectAt := some s.now }) := by
  by_cases h : (s.lane n).injectAt = some s.now
  · rw [s.inject_again n k h, if_pos h]
  · rw [if_neg h]
    exact if_pos ⟨st, gen, h⟩

/-- A write to LX_PRBS_CTRL leaves what an injection asks beside the register. -/
theorem State.prbsCtrl_spec {n : Nat} (hn : n < 192) (v : Word) : (s.prbsCtrl n v).f (Reg.LX_PRBS_CTRL_GEN_EN n) = bits v 0 1 ∧
    (s.prbsCtrl n v).f (Reg.LX_PRBS_CTRL_BURST_LEN n) = bits v 5 6 ∧ (s.prbsCtrl n v).laneState n = s.laneState n := by
  have spec := regSpec_lane n 0x24 _ hn (by decide) rfl
  have gen := s.f_writeReg (Reg.LX_PRBS_CTRL_GEN_EN n) v _ spec (by simp [Reg.LX_PRBS_CTRL_GEN_EN]) (by simp only [Reg.LX_PRBS_CTRL_GEN_EN]; decide)
  have len := s.f_writeReg (Reg.LX_PRBS_CTRL_BURST_LEN n) v _ spec (by simp [Reg.LX_PRBS_CTRL_BURST_LEN])
    (by simp only [Reg.LX_PRBS_CTRL_BURST_LEN]; decide)
  have st := s.f_writeReg_other (Reg.LX_PRBS_CTRL n) v (Reg.LX_LANE_STATUS_STATE n)
    (by simp [Reg.LX_LANE_STATUS_STATE, Reg.LX_LANE_STATUS, Reg.LX_PRBS_CTRL])
  have apart : Reg.LX_PRBS_CTRL n ≠ Reg.LX_PRBS_STATUS n := by simp [Reg.LX_PRBS_CTRL, Reg.LX_PRBS_STATUS]
  rw [State.prbsCtrl]
  split
  · exact ⟨gen, len, st⟩
  · refine ⟨(State.f_setB_other _ _ apart).trans gen, (State.f_setB_other _ _ apart).trans len, (State.f_setB_other _ _ ?_).trans st⟩
    simp [Reg.LX_LANE_STATUS_STATE, Reg.LX_LANE_STATUS, Reg.LX_PRBS_STATUS_LOCKED, Reg.LX_PRBS_STATUS]

theorem State.moves_prbsCtrl (v : Word) : Moves [.regs] s (s.prbsCtrl n v) := State.prbsCtrl_moves (.refl _ s) (by decide)

end

/-- Settles O4, clause by clause: the slots by a fold over the lanes of their trunk. -/
theorem slotsAndPatternTesterRun : Obligations.SlotsAndPatternTesterRun := by
  unfold Obligations.SlotsAndPatternTesterRun
  refine ⟨fun s n t => ⟨?_, fun at_ off up => ?_, fun f at_ off past down => ?_, fun f at_ on past => ?_, fun raw good live req none_ off => ?_,
    fun raw good live on => ?_, fun t0 at_ down => ?_⟩, fun s n test => ⟨fun serves gen => ?_, fun v serves gen => ?_, fun chk => ?_, fun e locked => ?_⟩⟩
  · exact answers_of rfl (by rw [State.retrainReq, State.lane_updLane])
  · refine answers_eq rfl (s.slotStart_eq t at_ off up) ⟨?_, fun i hi => ?_⟩
    · rw [foldl_trunk (fun s n => s.trunk_enterRetraining n t), State.slotBegun_trunk]
    · have view := (s.slotBegun t).foldl_enterRetraining i _ ((s.nodup_lanesOf t).filter
        (fun n => (s.trunk t).slotLanes.contains n || (s.trunk t).slotReq))
      have same : (s.slotBegun t).retrainView i = s.retrainView i := by
        simp only [State.retrainView, State.laneState, State.f_of_regs (s.slotBegun_regs t)]
      have mem : i ∈ (s.lanesOf t).filter (fun n => (s.trunk t).slotLanes.contains n || (s.trunk t).slotReq) ↔
          (s.trunk t).slotLanes.contains i = true ∨ (s.trunk t).slotReq = true := by
        rw [List.mem_filter, Bool.or_eq_true]
        exact and_iff_right hi
      rw [same] at view
      split
      next asked =>
        rw [if_pos (mem.mpr asked), State.f_of_regs (s.slotBegun_regs t)] at view
        have frozen : State.f _ (Reg.LX_LANE_STATUS_ADAPT_FROZEN i) = 0 := congrArg (fun v => v.2.1) view
        exact ⟨congrArg Prod.fst view, by rw [State.flag, frozen]; rfl, congrArg (fun v => v.2.2) view⟩
      next unasked =>
        rw [if_neg (mt mem.mp unasked)] at view
        exact (congrArg Prod.fst view).trans (s.laneState_of_trunkUp i t up hi)
  · refine answers_eq rfl (s.slotStart_dropped t at_ off past down) ?_
    rw [State.trunk_updTrunk]
    exact ⟨rfl, off⟩
  · refine answers_eq rfl (s.slotEnd_eq t at_ on past) ⟨?_, ?_, fun i hi => ?_⟩
    · rw [foldl_trunk (fun s n => s.trunk_leave n t), State.trunk_updTrunk]
    · rw [foldl_trunk (fun s n => s.trunk_leave n t), State.trunk_updTrunk]
    · rw [State.foldl_leave _ i _ (s.nodup_lanesOf t), if_pos hi]
      rfl
  · refine answers_eq rfl (s.retrainReceived_eq n good live) ?_
    have fixed := s.fixSlot_of_none (s.trunkOf n) none_
    extract_lets b t u v
    have hu : u = _ := if_pos ⟨req, off⟩
    have rc : u.trunk t = { s.trunk t with slot := some (slotMf s.mfN), slotReq := true, slotLanes := s.poorLanes t } := by
      rw [hu, State.trunk_updTrunk, fixed, State.trunk_updTrunk]
    rw [if_neg (by rw [rc]; simp [t, off]), rc]
    exact ⟨rfl, rfl, fun i => s.mem_poorLanes⟩
  · refine answers_eq rfl (s.retrainReceived_eq n good live) ?_
    extract_lets b t u v
    have hu : u = s := if_neg (by simp [t, on])
    have hv : v = (s.retrainServed n (field b 1 1)).placeRequest n (field b 2 1) := by rw [← hu]
    obtain ⟨far, -⟩ := (s.retrainServed n (field b 1 1)).placeRequest_lane n (field b 2 1)
    rw [if_pos (by rw [hu]; exact on)]
    refine ⟨?_, ?_⟩
    · rw [State.emit_lane, hv, far]
    · rw [State.emit_out]
      refine congrArg₂ List.cons rfl ?_
      rw [hv, State.placeRequest_out, State.retrainServed_out]
  · have since : s.since (s.trunk t).twillAt 9000000 = decide (t0 + 9000000 ≤ s.now) := by rw [at_]; rfl
    by_cases early : s.now < t0 + 9000000
    · refine answers_eq rfl (if_neg fun h => ?_) (by rw [if_pos early])
      rw [since, decide_eq_true_iff] at h
      exact Nat.not_le.mpr early h.1
    · refine answers_eq rfl (if_pos ⟨by rw [since]; exact decide_eq_true (Nat.le_of_not_lt early), down⟩) ?_
      rw [if_neg early]
      refine ⟨s.updTrunk t (fun r => { r with twillAt := none }), by rw [State.trunk_updTrunk], ?_⟩
      have port : (s.updTrunk t (fun r => { r with twillAt := none })).portState t = s.portState t := by
        rw [State.portState, if_pos t.isLt, State.portState, if_pos t.isLt, State.updTrunk_f]
      rw [State.failTwill]
      simp only [port]
      rfl
  · refine answers_eq rfl ((s.pfWrite_of_serves serves _).trans (s.inject_eq n 1 test gen)) ?_
    split
    · rfl
    · exact ⟨rfl, by rw [State.lane_updLane]⟩
  · obtain ⟨gen', len, st⟩ := s.prbsCtrl_spec n.isLt v
    have lane : (s.prbsCtrl n v).lane n = s.lane n := State.lane_of_lx (congrArg LaneSt.lanes ((s.moves_prbsCtrl n v).lx_eq (by decide))) n
    have now : (s.prbsCtrl n v).now = s.now := by rw [State.now, (s.moves_prbsCtrl n v).time_eq (by decide), State.now]
    have out := (s.moves_prbsCtrl n v).out_eq (by decide)
    have inj := (s.prbsCtrl n v).inject_eq n (bits v 5 6 + 1) (st.trans test) (State.flag_eq_true.mpr (gen'.trans gen))
    have e : s.injectBurst n v = (s.prbsCtrl n v).inject n (bits v 5 6 + 1) := by rw [State.injectBurst, State.burstBits, len]
    rw [lane, now] at inj
    refine answers_eq rfl ((s.pfWrite_of_serves serves _).trans (e.trans inj)) ?_
    split
    next again => exact ⟨len, by rw [lane, again], out⟩
    next _ =>
      refine ⟨?_, by rw [State.lane_updLane], ?_⟩
      · rw [State.updLane_f, State.emit_f, len]
      · rw [State.updLane_out, State.emit_out, out]
  · refine answers_eq rfl (if_pos ⟨test, chk⟩) ?_
    rw [State.flag_of_regs (s := s.setB (Reg.LX_PRBS_STATUS_LOCKED n) true) (by rw [State.auditLock]),
      State.flag_setB _ _ _ (by simp [Reg.LX_PRBS_STATUS_LOCKED]) rfl]
  · refine answers_eq rfl (if_pos ⟨test, locked⟩) ⟨?_, ?_, ?_⟩
    · simp [State.flag_eq, State.setB_eq, State.bump_eq, State.f_setF_eq, b2n, Reg.LX_PRBS_STATUS_LOST, Reg.LX_PRBS_STATUS_LOCKED]
    · simp [State.flag_eq, State.setB_eq, State.bump_eq, State.f_setF_eq, b2n, Reg.LX_PRBS_STATUS_LOST, Reg.LX_PRBS_STATUS_LOCKED]
    · simp [State.setB_eq, State.bump_eq, State.f_setF_eq, b2n, Reg.LX_PRBS_STATUS_LOST, Reg.LX_PRBS_STATUS_LOCKED,
        Reg.LX_PRBS_ERRORS_COUNT, Reg.LX_PRBS_STATUS, Reg.LX_PRBS_ERRORS]
end Sys2Proof.Machine

namespace Sys2Proof.Machine

/-! # What receivers lose and count, and the markers that they take and send (R38, R74, R76, R78, R93, R112) -/

/-! ## Markers that lanes send -/

section
variable (s : State) (n : Nat)

theorem State.sendMarker_regs : (s.sendMarker n).regs = s.regs := (rfl)
theorem State.sendMarker_time : (s.sendMarker n).time = s.time := (rfl)
theorem State.sendMarker_now : (s.sendMarker n).now = s.now := (rfl)
theorem State.sendMarker_out : (s.sendMarker n).out = .marker n (s.laneByte n) (s.trunkOf n) :: s.out := (rfl)

theorem State.sendMarker_at : ((s.sendMarker n).lane n).markerAt = s.now := by
  rw [State.sendMarker, State.lane_updLane]

theorem State.sendMarker_keeps {i : Nat} (h : (s.lane i).markerAt = s.now) : ((s.sendMarker n).lane i).markerAt = s.now := by
  by_cases e : i = n
  · rw [e, State.sendMarker_at]
  · rw [State.sendMarker, State.lane_updLane_other _ e, State.emit_lane, h]

/-- The shape of the trunks is read from registers alone. -/
theorem State.trunkOf_of_regs {s u : State} (h : u.regs = s.regs) (i : Nat) : u.trunkOf i = s.trunkOf i :=
  State.regsBut.trunkOf ((State.regsBut.refl [] s).keep h) (by simp [shapeless]) i

theorem State.laneByte_of_regs {s u : State} (h : u.regs = s.regs) (i : Nat) : u.laneByte i = s.laneByte i :=
  State.regsBut.laneByte ((State.regsBut.refl [] s).keep h) (by simp [shapeless]) i

/-- The marker that lane `i` sends. -/
def State.markerOf (s : State) (i : Nat) : Emit := .marker i (s.laneByte i) (s.trunkOf i)

/-- The lanes of a list send their markers in one cycle. -/
theorem State.foldl_sendMarker (l : List Nat) : (l.foldl (fun s n => s.sendMarker n) s).time = s.time ∧
    (l.foldl (fun s n => s.sendMarker n) s).out = (l.map s.markerOf).reverse ++ s.out ∧
    ∀ i, i ∈ l ∨ (s.lane i).markerAt = s.now → ((l.foldl (fun s n => s.sendMarker n) s).lane i).markerAt = s.now := by
  induction l generalizing s with
  | nil => exact ⟨rfl, rfl, fun i h => h.elim (by simp) id⟩
  | cons x r ih =>
    obtain ⟨time, out, at_⟩ := ih (s.sendMarker x)
    have same : (s.sendMarker x).markerOf = s.markerOf := funext fun i => by
      rw [State.markerOf, State.laneByte_of_regs (s.sendMarker_regs x), State.trunkOf_of_regs (s.sendMarker_regs x), State.markerOf]
    refine ⟨time.trans (s.sendMarker_time x), ?_, fun i h => (at_ i ?_).trans (s.sendMarker_now x)⟩
    · rw [List.foldl_cons, out, same, State.sendMarker_out, List.map_cons, List.reverse_cons, List.append_assoc]
      rfl
    · rcases h with h | h
      · rcases List.mem_cons.mp h with rfl | h
        · exact .inr (s.sendMarker_at i)
        · exact .inl h
      · exact .inr (s.sendMarker_keeps x h)

theorem State.advanceTo_regs (p : Nat) : (s.advanceTo p).regs = s.regs := by
  rw [State.advanceTo]; split <;> rfl

/-- The clock stands at the phase that it is moved to, or beyond. -/
theorem State.phase_advanceTo (p : Nat) : p ≤ (s.advanceTo p).time.phase := by
  rw [State.advanceTo]
  split
  · exact Nat.le_refl p
  · omega

/-- The lanes of trunk `t` in LPI. -/
def State.lpiLanes (s : State) (t : Nat) : List Nat := (s.lanesOf t).filter (fun n => s.laneState n == 5)

/-- Lanes in LPI that turn on send a marker each, 10 µs before the mark (R93). -/
theorem State.keepalive_eq {t i : Nat} (due : s.mfN % 8 = 7) (mem : i ∈ s.lpiLanes t) : s.keepalive t =
    (s.lpiLanes t).foldl (fun s n => s.sendMarker n)
      ((s.advanceTo 2875).emit (.ctl t 0x1E (wakeIdle * (s.advanceTo 2875).width t))) := by
  have some_ : (s.lpiLanes t).isEmpty = false := by
    rw [List.isEmpty_eq_false_iff]; exact List.ne_nil_of_mem mem
  rw [State.keepalive]
  change (if (s.lpiLanes t).isEmpty = true ∨ s.mfN % 8 ≠ 7 then s else (s.advanceTo 2875).lanesOn t (s.lpiLanes t)) = _
  rw [if_neg (by simp [some_, due]), State.lanesOn, some_]
  rfl

end

theorem crc_ne_delin (t : Nat) : Reg.LNK_RX_CRC t ≠ Reg.LX_DELIN_ERRORS t := by
  simp only [Reg.LNK_RX_CRC, Reg.LX_DELIN_ERRORS, Reg.laneBase, Reg.lnkBase]
  omega

theorem laneHolds_of {st : Nat} (h : st = Ls.aligning ∨ laneLive st = true) : laneHolds st = true := by
  obtain rfl | live := h
  · rfl
  · rw [laneHolds, live, Bool.or_true]

theorem field_lt (b : List Byte) (i n : Nat) : field b i n < 256 ^ n :=
  Nat.lt_of_lt_of_le (leNat_lt _) (Nat.pow_le_pow_right (by decide) (List.length_take_le n _))

theorem State.auditBip_f (s : State) (n : Nat) (x : Fld) : (s.auditBip n).f x = s.f x := (rfl)
theorem State.auditBip_lane (s : State) (n m : Nat) : (s.auditBip n).lane m = s.lane m := (rfl)

theorem State.port_updPort (s : State) (p : Nat) (g : PortRec → PortRec) : (s.updPort p g).port p = g (s.port p) := Tbl.get_set_same _ _ _

theorem State.port_updPort_other (s : State) {p q : Nat} (h : q ≠ p) (g : PortRec → PortRec) : (s.updPort p g).port q = s.port q :=
  Tbl.get_set_other _ _ h

/-- Settles O5, clause by clause from what the receivers' and the markers' operations set. -/
theorem receiversCountAndMark : Obligations.ReceiversCountAndMark := by
  unfold Obligations.ReceiversCountAndMark
  refine fun s n t => ⟨fun c b exists_ sound lose => ?_, fun c b safe => ?_, fun k hk => ?_, fun st => ?_, fun m st good => ?_, fun c lost => ?_,
    fun c exists_ sound => ?_, ?_⟩
  · refine answers_eq rfl (if_pos (by rw [exists_, sound, lose]; rfl)) ?_
    cases b
    · refine ⟨?_, ?_, ?_, ?_⟩
      · simp [State.when, State.trunk_updTrunk]
      · simp [State.when, State.bump_eq, State.f_setF_eq, Reg.LX_DELIN_ERRORS_COUNT]
      · simp [State.when, State.bump_eq, State.f_setF_eq, Reg.LX_DELIN_ERRORS_COUNT, Reg.LNK_RX_CRC_COUNT, crc_ne_delin]
      · simp [State.when]
    · refine ⟨?_, ?_, ?_, ?_⟩
      · simp [State.when, State.discardCrc, State.trunk_updTrunk]
      · simp [State.when, State.discardCrc, State.bump_eq, State.f_setF_eq, Reg.LX_DELIN_ERRORS_COUNT, Reg.LNK_RX_CRC_COUNT,
          (crc_ne_delin t).symm]
      · simp [State.when, State.discardCrc, State.bump_eq, State.f_setF_eq, Reg.LX_DELIN_ERRORS_COUNT, Reg.LNK_RX_CRC_COUNT, crc_ne_delin]
      · simp [State.when, State.discardCrc, State.port_updPort]
  · refine answers_of rfl (if_neg fun h => ?_)
    obtain lost | kept := safe
    · simp [lost] at h
    · simp [kept] at h
  · have lasts : [Ct.idle, Ct.sync, Ct.lpi].contains k.toNat = true := by
      obtain rfl | rfl | rfl := hk <;> rfl
    refine answers_eq rfl (if_pos lasts) ?_
    rw [State.trunk_updTrunk]
  · have holds : laneHolds (s.laneState n) = true := laneHolds_of st
    by_cases due : (s.lane n).markerAt + 2163 ≤ s.now
    · let l := (((n : Nat) :: s.lanesOf (s.trunkOf n)).eraseDups).filter (fun i => laneHolds (s.laneState i))
      obtain ⟨-, out, at_⟩ := s.foldl_sendMarker l
      refine answers_eq (t := l.foldl (fun s i => s.sendMarker i) s) rfl (if_pos (by rw [holds]; exact decide_eq_true due)) ?_
      rw [if_pos due]
      exact ⟨fun i hi => at_ i (.inl hi), out⟩
    · refine answers_of (t := s) (congrArg _ (if_neg (by rw [holds]; exact mt of_decide_eq_true due))) ?_
      rw [if_neg due]
  · have holds : laneHolds (s.laneState n) = true := laneHolds_of st
    refine answers_eq rfl (if_pos (by rw [holds, good]; rfl)) ?_
    extract_lets b lane ok s1 s2
    have port : field b 2 1 < 256 := field_lt b 2 1
    have rc : s2.lane n = _ := State.lane_updLane s1 n _
    have lane4 : lane < 4 := Nat.mod_lt _ (by decide)
    by_cases bip : field b 3 1 = m.bip.toNat
    · rw [if_pos (show ok = true from beq_iff_eq.mpr bip), if_pos bip, rc]
      refine ⟨?_, ?_, rfl, rfl, ?_⟩
      all_goals
        simp [s2, s1, State.f_setF_eq, Reg.LX_LANE_STATUS_PEER_LANE, Reg.LX_LANE_STATUS_PEER_PORT, Reg.LX_BIP_ERRORS_COUNT, Reg.LX_LANE_STATUS,
          Reg.LX_BIP_ERRORS, lane, Nat.mod_eq_of_lt port]
    · rw [if_neg (show ¬ok = true from mt beq_iff_eq.mp bip), if_neg bip, State.auditBip_lane, State.bump_lane, rc]
      refine ⟨?_, ?_, rfl, rfl, ?_⟩
      all_goals
        simp [s2, s1, State.auditBip_f, State.bump_eq, State.f_setF_eq, Reg.LX_LANE_STATUS_PEER_LANE, Reg.LX_LANE_STATUS_PEER_PORT,
          Reg.LX_BIP_ERRORS_COUNT, Reg.LX_LANE_STATUS, Reg.LX_BIP_ERRORS, lane, Nat.mod_eq_of_lt port]
  · exact answers_eq rfl (if_pos (by rw [lost, Bool.or_true])) rfl
  · refine answers_eq rfl (if_neg (by simp [exists_, sound])) ?_
    cases c
    all_goals
      simp [State.discardCrc, State.port_updPort, State.bump_eq, State.f_setF_eq, Reg.LNK_RX_CRC_COUNT, Reg.LNK_PARITY_RX, Reg.LNK_RX_CRC,
        Reg.LNK_PARITY]
  · by_cases due : s.mfN % 8 = 7
    · have step : exec (.lpiKeepaliveWake t) s = .next (s.keepalive t) := rfl
      refine answers_of step ?_
      rw [if_pos due]
      intro i hi st
      have mem : i ∈ s.lpiLanes t := List.mem_filter.mpr ⟨hi, by rw [st]; rfl⟩
      let z := (s.advanceTo 2875).emit (.ctl t 0x1E (wakeIdle * (s.advanceTo 2875).width t))
      have regs : z.regs = s.regs := s.advanceTo_regs 2875
      obtain ⟨time, out, at_⟩ := z.foldl_sendMarker (s.lpiLanes t)
      have phase := s.phase_advanceTo 2875
      rw [s.keepalive_eq due mem]
      refine ⟨?_, ?_, ?_⟩
      · rw [time]; exact phase
      · rw [at_ i (.inl mem), State.now, State.now, time]
      · rw [out, List.mem_append, List.mem_reverse, List.mem_map]
        refine .inl ⟨i, mem, ?_⟩
        rw [State.markerOf, State.laneByte_of_regs regs, State.trunkOf_of_regs regs]
    · refine answers_eq (t := s) rfl (if_pos (.inr due)) ?_
      rw [if_neg due]

end Sys2Proof.Machine

namespace Sys2Proof.Machine

/-! # Fields of fixed registers that lie apart -/

/-- Two fields have no bit in common. -/
def Fld.apart (x y : Fld) : Bool := x.addr != y.addr || (decide (x.lo + x.w ≤ 32) && (decide (x.lo + x.w ≤ y.lo) || decide (y.lo + y.w ≤ x.lo)))

/-- A field lies within its register. -/
def Fld.fits (x : Fld) : Bool := decide (x.lo + x.w ≤ 32)

section
variable (s : State) {x y : Fld}

theorem State.f_setF_apart (v : Nat) (h : x.apart y = true) : (s.setF x v).f y = s.f y := by
  by_cases e : y.addr = x.addr
  · simp only [Fld.apart, e, bne_self_eq_false, Bool.false_or, Bool.and_eq_true, Bool.or_eq_true, decide_eq_true_eq] at h
    exact s.f_setF_beside v e h.1 h.2.symm
  · exact s.f_setF_other v e

theorem State.flag_setF_apart (v : Nat) (h : x.apart y = true) : (s.setF x v).flag y = s.flag y := by
  rw [State.flag, s.f_setF_apart v h, State.flag]

theorem State.f_setB_apart (b : Bool) (h : x.apart y = true) : (s.setB x b).f y = s.f y := s.f_setF_apart _ h
theorem State.flag_setB_apart (b : Bool) (h : x.apart y = true) : (s.setB x b).flag y = s.flag y := s.flag_setF_apart _ h
theorem State.f_bump_apart (k : Nat) (h : x.apart y = true) : (s.bump x k).f y = s.f y := s.f_setF_apart _ h
theorem State.flag_bump_apart (k : Nat) (h : x.apart y = true) : (s.bump x k).flag y = s.flag y := s.flag_setF_apart _ h

theorem State.f_setReg_other {a : Nat} (v : Word) (h : (y.addr != a) = true) : (s.setReg a v).f y = s.f y := by
  rw [State.f_setReg_eq, if_neg (bne_iff_ne.mp h)]

theorem State.flag_setReg_other {a : Nat} (v : Word) (h : (y.addr != a) = true) : (s.setReg a v).flag y = s.flag y := by
  rw [State.flag, s.f_setReg_other v h, State.flag]

theorem State.f_setF_same (v : Nat) (h : x.fits = true) : (s.setF x v).f x = v % 2 ^ x.w := s.f_setF x v (of_decide_eq_true h)

theorem State.f_setB_same (b : Bool) (h : x.fits = true) (hw : x.w = 1) : (s.setB x b).f x = b2n b := s.f_setB x b (of_decide_eq_true h) hw

theorem State.flag_setB_same (b : Bool) (h : x.fits = true) (hw : x.w = 1) : (s.setB x b).flag x = b :=
  s.flag_setB x b (of_decide_eq_true h) hw

theorem State.f_bump_same (k : Nat) (h : x.fits = true) : (s.bump x k).f x = min (s.f x + k) (2 ^ x.w - 1) :=
  s.f_bump x k (of_decide_eq_true h)

end

end Sys2Proof.Machine

namespace Sys2Proof.Machine

/-! # Operating points and the temperature (R445 to R448, R494) -/

section
variable (s : State)

theorem State.markOp_regs : s.markOp.regs = s.regs := by unfold State.markOp; rfl
theorem State.markOp_pm : s.markOp.pm = s.pm := by unfold State.markOp; rfl

theorem State.when_markOp_regs (c : Bool) : (s.when c (fun s => s.markOp)).regs = s.regs := by
  cases c
  · rfl
  · exact s.markOp_regs

theorem State.when_markOp_pm (c : Bool) : (s.when c (fun s => s.markOp)).pm = s.pm := by
  cases c
  · rfl
  · exact s.markOp_pm

theorem State.showSteady_pm : s.showSteady.pm = s.pm := by
  unfold State.showSteady
  extract_lets st low
  split
  · exact State.setF_pm ..
  · rfl

/-- Every field but STATE is left when STATE follows the operating points. -/
theorem State.f_showSteady {x : Fld} (h : Reg.PMU_STATUS_STATE.apart x = true) : s.showSteady.f x = s.f x := by
  unfold State.showSteady
  extract_lets st low
  split
  · exact s.f_setF_apart _ h
  · rfl

theorem State.flag_showSteady {x : Fld} (h : Reg.PMU_STATUS_STATE.apart x = true) : s.showSteady.flag x = s.flag x := by
  rw [State.flag, s.f_showSteady h, State.flag]

/-- The frequency and voltage points of both domains are fields of PMU_STATUS beside its STATE. -/
theorem state_apart_fopOf (d : Nat) : Reg.PMU_STATUS_STATE.apart (fopOf d) = true := by
  unfold fopOf
  split <;> decide

theorem state_apart_vopOf (d : Nat) : Reg.PMU_STATUS_STATE.apart (vopOf d) = true := by
  unfold vopOf
  split <;> decide

theorem fopOf_spec (d : Nat) : (fopOf d).addr = Reg.PMU_STATUS ∧ (fopOf d).fits = true ∧ (fopOf d).w = 2 := by
  unfold fopOf
  split <;> exact ⟨rfl, rfl, rfl⟩

theorem vopOf_spec (d : Nat) : (vopOf d).fits = true ∧ (vopOf d).w = 2 := by
  unfold vopOf
  split <;> exact ⟨rfl, rfl⟩

theorem domainNo_lt (d : DvfsDomain) : domainNo d < 2 := by cases d <;> decide

/-! ## Steps -/

theorem State.voltageStep_eq {d op : Nat} (ok : s.dvfsReason d 0 op = 0) (new : s.f (vopOf d) ≠ op) : s.dvfsStep d 0 op =
    (s.updPm (fun p => { p with dvfs := some (d, 0, op) })).setB Reg.PMU_DVFS_STATUS_BUSY true := by
  rw [State.dvfsStep]
  simp only [ok]
  rw [if_neg (by decide), if_neg (by decide), if_neg new]

theorem State.frequencyStep_eq {d op : Nat} (ok : s.dvfsReason d 1 op = 0) (new : s.f (fopOf d) ≠ op) : s.dvfsStep d 1 op =
    ((s.setF (fopOf d) op).when (d == 1) (fun s => s.markOp)).showSteady := by
  rw [State.dvfsStep]
  simp only [ok]
  rw [if_neg (by decide), if_pos trivial, if_neg new]

theorem State.refusedStep_eq {d op : Nat} (why : s.dvfsReason d 0 op ≠ 0) : s.dvfsStep d 0 op =
    (((((s.setB Reg.PMU_DVFS_STATUS_REFUSED true).setF Reg.PMU_DVFS_STATUS_REASON (s.dvfsReason d 0 op)).setF Reg.PMU_DVFS_STATUS_DOMAIN d).setF
      Reg.PMU_DVFS_STATUS_KIND 0).setF Reg.PMU_DVFS_STATUS_OP op).bump Reg.PMU_DVFS_STATUS_REFUSALS := if_pos why

theorem State.dvfsReason_lt (d kind op : Nat) : s.dvfsReason d kind op < 8 := by
  unfold State.dvfsReason
  split_ifs <;> decide

theorem State.dvfsDone_eq {d k op : Nat} (h : s.pm.dvfs = some (d, k, op)) : s.dvfsDone =
    ((((s.updPm (fun p => { p with dvfs := none })).setF (vopOf d) op).setB Reg.PMU_DVFS_STATUS_BUSY false).when (d == 1)
      (fun s => s.markOp)).showSteady := by
  rw [State.dvfsDone, h]

/-! ## Temperature -/

/-- The state in which a sample has been taken, before CROSSED. -/
def State.sampled (s : State) (c : Int) (above : Bool) : State :=
  (s.setF Reg.GLB_THERM_TEMP (BitVec.ofInt 9 c).toNat).setB Reg.GLB_THERM_ABOVE above

theorem State.tempSample_eq (c : Int) : s.tempSample c =
    let above := decide ((s.f Reg.GLB_THERM_THRESH : Int) ≤ c) ||
      (s.flag Reg.GLB_THERM_ABOVE && decide ((s.f Reg.GLB_THERM_THRESH : Int) - 2 ≤ c))
    if above && !s.flag Reg.GLB_THERM_ABOVE then (s.sampled c above).setB Reg.GLB_THERM_CROSSED true else s.sampled c above := rfl

end

/-- Settles O47, clause by clause. -/
theorem operatingPointsStep : Obligations.OperatingPointsStep := by
  unfold Obligations.OperatingPointsStep
  refine fun s => ⟨fun d op serves => ⟨fun ok new => ?_, fun ok new => ?_, fun why => ?_⟩, fun d k op h => ?_, fun c => ?_⟩
  · refine answers_eq rfl ((s.pfWrite_of_serves serves _).trans (s.voltageStep_eq ok new)) ⟨?_, ?_, ?_⟩
    · rw [State.setB_pm]; rfl
    · exact State.flag_setB_same _ _ rfl rfl
    · exact State.regsBut.setB ((State.regsBut.refl _ s).keep rfl) _ (.head _)
  · obtain ⟨addr, fits, width⟩ := fopOf_spec (domainNo d)
    refine answers_eq rfl ((s.pfWrite_of_serves serves _).trans (s.frequencyStep_eq ok new)) ⟨?_, ?_, ?_⟩
    · rw [State.f_showSteady _ (state_apart_fopOf _), State.f_of_regs (State.when_markOp_regs _ _), State.f_setF_same _ _ fits, width]
      exact Nat.mod_eq_of_lt op.isLt
    · exact (((State.regsBut.refl _ s).setF _ (by rw [addr]; exact .head _)).keep (State.when_markOp_regs _ _)).trans (State.regsBut_showSteady _)
    · rw [State.showSteady_pm, State.when_markOp_pm, State.setF_pm]
  · refine answers_eq rfl ((s.pfWrite_of_serves serves _).trans (s.refusedStep_eq why)) ?_
    have reason := Nat.mod_eq_of_lt (s.dvfsReason_lt (domainNo d) 0 op.toNat)
    have dom := Nat.mod_eq_of_lt (domainNo_lt d)
    have point := Nat.mod_eq_of_lt op.isLt
    refine ⟨?_, ?_, ?_, ?_, ?_, ?_, ?_⟩
    · simp (disch := decide) only [State.flag_bump_apart, State.flag_setF_apart, State.flag_setB_same]
    · simp (disch := decide) only [State.f_bump_apart, State.f_setF_apart, State.f_setF_same]
      exact reason
    · simp (disch := decide) only [State.f_bump_apart, State.f_setF_apart, State.f_setF_same]
      exact dom
    · simp (disch := decide) only [State.f_bump_apart, State.f_setF_apart, State.f_setF_same]
      rfl
    · simp (disch := decide) only [State.f_bump_apart, State.f_setF_same]
      exact point
    · simp (disch := decide) only [State.f_bump_same, State.f_setF_apart, State.f_setB_apart]
      rfl
    · rw [State.bump_eq]
      simp only [State.setF_pm, State.setB_pm]
  · obtain ⟨fits, width⟩ := vopOf_spec d
    have beside : Reg.PMU_DVFS_STATUS_BUSY.apart (vopOf d) = true := by unfold vopOf; split <;> decide
    refine answers_eq rfl (s.dvfsDone_eq h) ⟨?_, ?_, ?_⟩
    · rw [State.f_showSteady _ (state_apart_vopOf d), State.f_of_regs (State.when_markOp_regs _ _), State.f_setB_apart _ _ beside,
        State.f_setF_same _ _ fits, width]
      rfl
    · rw [State.flag_showSteady _ (by decide), State.flag_of_regs (State.when_markOp_regs _ _), State.flag_setB_same _ _ rfl rfl]
    · rw [State.showSteady_pm, State.when_markOp_pm, State.setB_pm, State.setF_pm]
      rfl
  · have temp : BitVec.ofInt 9 c.toInt = c := BitVec.ofInt_toInt
    have regs := s.regsBut_tempSample c.toInt
    rw [s.tempSample_eq] at regs
    refine answers_eq rfl (s.tempSample_eq c.toInt) ?_
    extract_lets above at regs ⊢
    have hot : (s.sampled c.toInt above).f Reg.GLB_THERM_TEMP = c.toNat := by
      rw [State.sampled, State.f_setB_apart _ _ (by decide), State.f_setF_same _ _ rfl, temp]
      exact Nat.mod_eq_of_lt c.isLt
    have flag : (s.sampled c.toInt above).flag Reg.GLB_THERM_ABOVE = above := State.flag_setB_same _ _ rfl rfl
    split
    next rise =>
      rw [if_pos rise] at regs
      rw [State.f_setB_apart _ _ (by decide), State.flag_setB_apart _ _ (by decide)]
      exact ⟨hot, regs, flag, fun _ _ => State.flag_setB_same _ _ rfl rfl⟩
    next level =>
      rw [if_neg level] at regs
      refine ⟨hot, regs, flag, fun up was => absurd ?_ level⟩
      rw [flag] at up
      rw [up, was]
      rfl

end Sys2Proof.Machine

namespace Sys2Proof.Machine

/-! # The return from DORMANT (R180, R456 to R458) -/

/-! ## Endpoint buffer memory returns (R180) -/

theorem Tbl.get_keep {α : Type} (d : Nat → α) (p : Nat → Bool) (m : Tbl α) (k : Nat) :
    Tbl.get d (Tbl.keep p m) k = if p k then Tbl.get d m k else d k := by
  induction m with
  | nil => simp [Tbl.keep, Tbl.get]
  | cons e r ih =>
    obtain ⟨a, v⟩ := e
    rw [Tbl.keep] at ih ⊢
    by_cases ha : a = k
    · subst ha
      cases hp : p a <;> simp [hp, Tbl.get, ih]
    · cases hp : p a <;> simp [hp, Tbl.get, ih, ha]

section
variable (s : State)

theorem State.ebmByte_setCf {h a : Nat} (x : CtxF) (v : Nat) (hx : x.d < 8) (ha : h * 32 + 32 ≤ a) : (s.setCf h x v).ebmByte a = s.ebmByte a :=
  Tbl.get_writeBytes_other s.ebm.mem _ (.inr (by rw [leBytes_length]; omega))

theorem State.setCf_powered (h : Nat) (x : CtxF) (v : Nat) : (s.setCf h x v).ebm.powered = s.ebm.powered := (rfl)

/-- The slots of a context are empty again. -/
def State.slotsEmpty (s : State) (h : Nat) : State :=
  if s.cf h Cx.valid = 0 then s
  else if s.cf h Cx.kind = 0 then (((s.setCf h (Cx.v 0) 0).setCf h (Cx.v 1) 0).setCf h (Cx.rd 0) 0).setCf h (Cx.rd 1) 0
  else (s.setCf h Cx.full 0).setCf h Cx.granules 0

theorem State.slotsEmpty_byte {h a : Nat} (ha : h * 32 + 32 ≤ a) : (s.slotsEmpty h).ebmByte a = s.ebmByte a := by
  unfold State.slotsEmpty
  split_ifs
  · rfl
  · rw [State.ebmByte_setCf _ _ _ (by decide) ha, State.ebmByte_setCf _ _ _ (by decide) ha, State.ebmByte_setCf _ _ _ (by decide) ha,
      State.ebmByte_setCf _ _ _ (by decide) ha]
  · rw [State.ebmByte_setCf _ _ _ (by decide) ha, State.ebmByte_setCf _ _ _ (by decide) ha]

theorem State.slotsEmpty_powered (h : Nat) : (s.slotsEmpty h).ebm.powered = s.ebm.powered := by
  unfold State.slotsEmpty
  split_ifs
  · rfl
  · rw [State.setCf_powered, State.setCf_powered, State.setCf_powered, State.setCf_powered]
  · rw [State.setCf_powered, State.setCf_powered]

/-- Contexts lie below the slots (R159). -/
theorem State.foldl_slotsEmpty (l : List Nat) (small : ∀ h ∈ l, h < 0x100000) : (l.foldl State.slotsEmpty s).ebm.powered = s.ebm.powered ∧
    ∀ a, 0x02000000 ≤ a → (l.foldl State.slotsEmpty s).ebmByte a = s.ebmByte a := by
  induction l generalizing s with
  | nil => exact ⟨rfl, fun _ _ => rfl⟩
  | cons x r ih =>
    obtain ⟨powered, bytes⟩ := ih (s.slotsEmpty x) fun h hh => small h (.tail _ hh)
    have hx := small x (.head _)
    exact ⟨powered.trans (s.slotsEmpty_powered x), fun a ha => (bytes a ha).trans (s.slotsEmpty_byte (by omega))⟩

theorem State.liveContexts_lt {h : Nat} (hh : h ∈ s.liveContexts) : h < 0x100000 := by
  rw [State.liveContexts, List.mem_eraseDups, List.mem_map] at hh
  obtain ⟨x, hx, rfl⟩ := hh
  have := of_decide_eq_true (List.mem_filter.mp hx).2
  omega

/-- The state in which the banks that were not retained are zero, and the groups' slots are empty. -/
def State.banksReturn (s : State) : State :=
  let keep (a : Nat) : Bool := nbit (s.reg Reg.EBM_RETAIN).toNat (a / 0x400000)
  { s with ebm := { s.ebm with
    mem := Tbl.keep keep s.ebm.mem, poison := s.ebm.poison.filter (fun w => keep (w * 8)), powered := true
    groupSlots := s.ebm.groupSlots.map (fun (x : Nat × GroupSlot) => (x.1, { x.2 with v0 := false, v1 := false })) } }

theorem State.banksReturn_byte (a : Nat) : s.banksReturn.ebmByte a =
    if nbit (s.reg Reg.EBM_RETAIN).toNat (a / 0x400000) then s.ebmByte a else 0 :=
  Tbl.get_keep (fun _ => 0) (fun a => nbit (s.reg Reg.EBM_RETAIN).toNat (a / 0x400000)) s.ebm.mem a

theorem State.ebmReturns_eq : s.ebmReturns = s.banksReturn.liveContexts.foldl State.slotsEmpty s.banksReturn := rfl

theorem State.ebmReturns_spec : s.ebmReturns.ebm.powered = true ∧ ∀ a, 0x02000000 ≤ a →
    s.ebmReturns.ebmByte a = if nbit (s.reg Reg.EBM_RETAIN).toNat (a / 0x400000) then s.ebmByte a else 0 := by
  obtain ⟨powered, bytes⟩ := s.banksReturn.foldl_slotsEmpty _ fun _ => s.banksReturn.liveContexts_lt
  rw [← State.ebmReturns_eq] at powered bytes
  exact ⟨powered, fun a ha => (bytes a ha).trans (s.banksReturn_byte a)⟩

/-! ## The logic returns -/

/-- The registers of an access to a gated block. -/
def gatedRegs : List Nat := [Reg.GLB_ERR_COUNT, Reg.GLB_ERR, Reg.GLB_GATED_ADDR, Reg.GLB_GATED_INFO]

theorem State.signalGlb_regs : s.signalGlb.regs = s.regs :=
  Moves.regs_eq (l := [.fn, .out]) (State.signalGlb_moves (.refl _ s) (by decide)) (by decide)

theorem State.regsBut_gatedAccess (off fn path : Nat) (write : Bool) : s.regsBut gatedRegs (s.gatedAccess off fn path write) := by
  have count := (State.regsBut.refl gatedRegs s).bump (x := Reg.GLB_ERR_COUNT_GATED) 1 (.head _)
  unfold State.gatedAccess
  extract_lets s1 s2 s3
  refine .ite (fun _ => count) (fun _ => ?_)
  have h2 : s.regsBut gatedRegs s2 :=
    (count.setB (x := Reg.GLB_ERR_GATED_ACCESS) true (.tail _ (.head _))).setReg (a := Reg.GLB_GATED_ADDR) _ (.tail _ (.tail _ (.head _)))
  have h3 : s.regsBut gatedRegs s3 :=
    ((h2.setF (x := Reg.GLB_GATED_INFO_FUNCTION) fn (.tail _ (.tail _ (.tail _ (.head _))))).setF
      (x := Reg.GLB_GATED_INFO_PATH) path (.tail _ (.tail _ (.tail _ (.head _))))).setB
      (x := Reg.GLB_GATED_INFO_WRITE) write (.tail _ (.tail _ (.tail _ (.head _))))
  exact h3.when _ (h3.keep (State.signalGlb_regs s3))

theorem State.regsBut_applyAon : s.regsBut gatedRegs s.applyAon := by
  unfold State.applyAon
  extract_lets n t
  refine State.regsBut.keep (t := t) ?_ rfl
  show s.regsBut gatedRegs (match s.pm.aonGate with
    | some (a, fn, path, w) => (s.gatedAccess a fn path w).bump Reg.GLB_ERR_COUNT_GATED (n - 1)
    | none => s)
  split
  · exact (s.regsBut_gatedAccess _ _ _ _).bump (x := Reg.GLB_ERR_COUNT_GATED) _ (.head _)
  · exact .refl _ s

/-- Of the PMU's record, the accesses that AON has kept alone change as they are applied. -/
theorem State.applyAon_pm : s.applyAon.pm = { s.pm with aonGate := none, aonCount := 0 } := by
  unfold State.applyAon
  extract_lets n t
  have same : t.pm = s.pm := by
    show (match s.pm.aonGate with
      | some (a, fn, path, w) => (s.gatedAccess a fn path w).bump Reg.GLB_ERR_COUNT_GATED (n - 1)
      | none => s).pm = s.pm
    split
    · rw [State.bump_eq, State.setF_pm]
      exact Moves.only (l := [.regs, .fn, .out]) (State.gatedAccess_moves (.refl _ s) (by decide)) |>.2 .pm (by decide)
    · rfl
  rw [State.updPm_pm, same]

/-- The clock runs on after `mf` microframes (R458). -/
def State.clockOn (s : State) (mf : Nat) : State :=
  { s with time := { tick := s.time.tick + BitVec.ofNat 64 (Config.mfTicks * mf), mf := s.time.mf + BitVec.ofNat 48 mf
                     phase := 0, run := true, cutOff := false, marked := false } }

theorem State.clockOn_regs (mf : Nat) : (s.clockOn mf).regs = s.regs := by unfold State.clockOn; rfl
theorem State.clockOn_pm (mf : Nat) : (s.clockOn mf).pm = s.pm := by unfold State.clockOn; rfl

/-- PMU_STATUS and PMU_SLEEP_TIME as the logic comes up. -/
def State.pmuUp (s : State) (ms : Word) : State :=
  ((((s.setPoints 0 0).setF Reg.PMU_STATUS_STATE 0).setB Reg.PMU_STATUS_RESTORED true).setB Reg.PMU_STATUS_LOGIC_RDY true).setReg
    Reg.PMU_SLEEP_TIME ms

theorem State.moves_pmuUp (ms : Word) : Moves [.regs] s (s.pmuUp ms) :=
  State.setReg_moves (State.setB_moves (State.setB_moves (State.setF_moves (State.setPoints_moves (.refl _ s) (by decide)) (by decide)) (by decide))
    (by decide)) (by decide)

theorem State.pmuUp_status (ms : Word) : (s.pmuUp ms).f Reg.PMU_STATUS_STATE = 0 ∧ (s.pmuUp ms).flag Reg.PMU_STATUS_LOGIC_RDY = true ∧
    (s.pmuUp ms).flag Reg.PMU_STATUS_RESTORED = true ∧ (s.pmuUp ms).reg Reg.PMU_SLEEP_TIME = ms ∧
    (s.pmuUp ms).f Reg.PMU_STATUS_CORE_FOP = 0 ∧ (s.pmuUp ms).f Reg.PMU_STATUS_DSP_FOP = 0 := by
  refine ⟨?_, ?_, ?_, State.reg_setReg _ _ _, ?_, ?_⟩
  all_goals
    simp (disch := decide) only [State.pmuUp, State.setPoints, State.f_setReg_other, State.flag_setReg_other, State.f_setB_apart, State.f_setF_apart,
      State.f_setF_same, State.flag_setB_apart, State.flag_setB_same, Nat.zero_mod]

/-- The state of the device in which the logic runs again, before the accesses that AON has kept. -/
def State.logicUp (s : State) (mf : Nat) (ms : Word) : State :=
  let s := (s.pmuUp ms).clockOn mf
  let s := (s.setReg Reg.PMU_WAKE_MF_LO (BitVec.ofNat 32 s.mfN)).setReg Reg.PMU_WAKE_MF_HI (BitVec.ofNat 32 (s.mfN / 2 ^ 32))
  (s.updPm (fun p => { p with returning := none, ports := [], sleptAt := none })).holdTimers true

theorem State.logicUp_time (mf : Nat) (ms : Word) : (s.logicUp mf ms).time.mf = s.time.mf + BitVec.ofNat 48 mf ∧
    (s.logicUp mf ms).time.run = true ∧ (s.logicUp mf ms).time.phase = 0 := by
  have time : (s.logicUp mf ms).time = ((s.pmuUp ms).clockOn mf).time := by
    unfold State.logicUp
    extract_lets s1 s2
    rw [Moves.time_eq (l := [.gd]) (State.holdTimers_moves (.refl _ _) (by decide)) (by decide), State.updPm_time, State.setReg_time, State.setReg_time]
  have before : (s.pmuUp ms).time = s.time := (s.moves_pmuUp ms).time_eq (by decide)
  rw [time, State.clockOn, before]
  exact ⟨rfl, rfl, rfl⟩

theorem State.logicUp_pm (mf : Nat) (ms : Word) : (s.logicUp mf ms).pm.returning = none ∧ (s.logicUp mf ms).pm.sleptAt = none := by
  have pm : (s.logicUp mf ms).pm = { ((s.pmuUp ms).clockOn mf).pm with returning := none, ports := [], sleptAt := none } := by
    unfold State.logicUp
    extract_lets s1 s2
    rw [(Moves.only (l := [.gd]) (State.holdTimers_moves (.refl _ _) (by decide))).2 .pm (by decide), State.updPm_pm, State.setReg_pm, State.setReg_pm]
  rw [pm]
  exact ⟨rfl, rfl⟩

theorem State.regsBut_logicUp (mf : Nat) (ms : Word) :
    (s.pmuUp ms).regsBut [Reg.PMU_WAKE_MF_LO, Reg.PMU_WAKE_MF_HI] (s.logicUp mf ms) := by
  unfold State.logicUp
  extract_lets s1 s2
  have h2 : (s.pmuUp ms).regsBut [Reg.PMU_WAKE_MF_LO, Reg.PMU_WAKE_MF_HI] s2 :=
    (((State.regsBut.refl _ _).keep (State.clockOn_regs _ mf)).setReg (a := Reg.PMU_WAKE_MF_LO) _ (.head _)).setReg
      (a := Reg.PMU_WAKE_MF_HI) _ (.tail _ (.head _))
  exact h2.keep ((Moves.regs_eq (l := [.gd]) (State.holdTimers_moves (.refl _ _) (by decide)) (by decide)).trans (State.updPm_regs ..))

/-- Behind them, with WAKE_N where PCIe has not woken the device (R341, R457). -/
def State.logicBack (s : State) (src : Nat) : State :=
  if src ≠ 3 ∧ (s.fnRec 0).pmeEn ∧ !s.flag Reg.HIF_STATUS_LINK_UP then { s with fn := { s.fn with wakeN := true } } else s

theorem State.logicReady_eq (mf : Nat) (ms : Word) : s.logicReady mf ms =
    let u := (s.logicUp mf ms).applyAon.reselect.logicBack (s.pm.returning.getD 0)
    let x := s.pm.ports.foldl (fun s p => s.portResume p false) u
    let y := if x.flag Reg.PU_CTRL_EN then x.pairStart else x
    (if y.f Reg.PU_STATUS_TIME_SRC = 0 then y.freeRun else y).tmBegins := rfl

/-- What stands between the end of DORMANT and the ports: the time, and the PMU's registers, are those of the logic's return. -/
def State.logicDone (s : State) (mf : Nat) (ms : Word) : State := (s.logicUp mf ms).applyAon.reselect.logicBack (s.pm.returning.getD 0)

theorem State.moves_logicBack (src : Nat) : Moves [.fn] s (s.logicBack src) := by
  unfold State.logicBack
  exact .ite (fun _ => (Moves.refl _ s).fn (by decide) _) (fun _ => .refl _ s)

theorem State.regsBut_logicDone (mf : Nat) (ms : Word) :
    (s.pmuUp ms).regsBut ([Reg.PMU_WAKE_MF_LO, Reg.PMU_WAKE_MF_HI, Reg.CKG_STATUS, Reg.CKG_REF_EVENTS] ++ gatedRegs) (s.logicDone mf ms) := by
  have up := (s.regsBut_logicUp mf ms).mono (l := [Reg.PMU_WAKE_MF_LO, Reg.PMU_WAKE_MF_HI, Reg.CKG_STATUS, Reg.CKG_REF_EVENTS] ++ gatedRegs) (by simp)
  have ref := (up.step (State.regsBut_applyAon _) (by simp [gatedRegs])).step (State.regsBut_reselect _) (by simp)
  exact ref.keep ((State.moves_logicBack _ _).regs_eq (by decide))

theorem State.moves_logicDone (mf : Nat) (ms : Word) : Moves [.regs, .fn, .pm, .out] (s.logicUp mf ms) (s.logicDone mf ms) :=
  Moves.step (State.reselect_moves (State.applyAon_moves (.refl _ _) (by decide)) (by decide)) (State.moves_logicBack _ _) (by decide)

theorem State.logicDone_pm (mf : Nat) (ms : Word) : (s.logicDone mf ms).pm = { (s.logicUp mf ms).pm with aonGate := none, aonCount := 0 } := by
  rw [State.logicDone, (State.moves_logicBack _ _).only.2 .pm (by decide),
    (Moves.only (l := [.regs]) (State.reselect_moves (.refl _ _) (by decide))).2 .pm (by decide), State.applyAon_pm]

/-- What follows the return of the logic touches neither the clock nor the PMU's record. -/
theorem State.moves_logicReady (mf : Nat) (ms : Word) :
    Moves [.regs, .lx, .tree, .qe, .fn, .pu, .ck, .free, .out] (s.logicDone mf ms) (s.logicReady mf ms) := by
  rw [State.logicReady_eq]
  extract_lets u x y
  have hx : Moves [.regs, .lx, .tree, .qe, .fn, .pu, .ck, .free, .out] u x :=
    Moves.foldl (.refl _ u) fun _ _ h => State.portResume_moves h (by decide)
  have hy : Moves [.regs, .lx, .tree, .qe, .fn, .pu, .ck, .free, .out] u y := by
    show Moves _ _ (if _ then _ else _)
    split
    · exact State.pairStart_moves hx (by decide)
    · exact hx
  refine State.tmBegins_moves ?_ (by decide)
  split
  · exact State.freeRun_moves hy (by decide)
  · exact hy

end

/-- Settles O46, signal by signal. -/
theorem dormantIsLeftSignalBySignal : Obligations.DormantIsLeftSignalBySignal := by
  unfold Obligations.DormantIsLeftSignalBySignal
  refine fun s dormant => ⟨fun returning => ?_, fun pwr => ?_, fun osc fresh => ?_, fun mf ms mem => ?_⟩
  · refine answers_eq rfl (if_pos (by rw [dormant, returning]; rfl)) ⟨State.flag_setB_same _ _ rfl rfl, ?_⟩
    exact (State.regsBut.refl _ s).setB _ (.head _)
  · refine answers_eq rfl (if_pos (by rw [dormant, pwr]; rfl)) ⟨State.flag_setB_same _ _ rfl rfl, ?_⟩
    exact (State.regsBut.refl _ s).setB _ (.head _)
  · obtain ⟨powered, bytes⟩ := s.ebmReturns_spec
    refine answers_eq rfl (if_pos (by rw [dormant, osc, fresh]; rfl)) ⟨State.flag_setB_same _ _ rfl rfl, ?_, fun a ha => ?_⟩
    · rw [State.setB_ebm, powered]
    · rw [State.ebmByte, State.setB_ebm]
      exact bytes a ha
  · refine answers_eq rfl (if_pos (by rw [dormant, mem]; rfl)) ?_
    have moves := s.moves_logicReady mf.toNat ms
    have time := (moves.time_eq (by decide)).trans ((s.moves_logicDone mf.toNat ms).time_eq (by decide))
    have pm := (moves.only.2 .pm (by decide)).trans (s.logicDone_pm mf.toNat ms)
    obtain ⟨mfn, run, phase⟩ := s.logicUp_time mf.toNat ms
    obtain ⟨returning, slept⟩ := s.logicUp_pm mf.toNat ms
    obtain ⟨state, rdy, restored, sleep, core, dsp⟩ := s.pmuUp_status ms
    have regs := s.regsBut_logicDone mf.toNat ms
    have status : Reg.PMU_STATUS ∉ [Reg.PMU_WAKE_MF_LO, Reg.PMU_WAKE_MF_HI, Reg.CKG_STATUS, Reg.CKG_REF_EVENTS] ++ gatedRegs := by decide
    rw [time, pm]
    refine ⟨?_, run, phase, returning, slept, s.logicDone mf.toNat ms, _, _, (regs.f status).trans state, (regs.flag status).trans rdy,
      (regs.flag status).trans restored, (regs _ (by decide)).trans sleep, (regs.f status).trans core, (regs.f status).trans dsp, rfl, rfl,
      s.logicReady_eq mf.toNat ms⟩
    rw [mfn, BitVec.ofNat_toNat, BitVec.setWidth_eq]
end Sys2Proof.Machine

namespace Sys2Proof.Machine

/-! # Sleep requests (R443, R444, R449, R451, R454, R455) -/

section
variable (s : State)

/-- A request for state `target` stands in PMU_REQ_STATUS (R443). -/
def State.requested (s : State) (target : Nat) : State := (s.setF Reg.PMU_REQ_STATUS_TARGET target).setB Reg.PMU_REQ_STATUS_BUSY true

theorem State.regsBut_requested (target : Nat) : s.regsBut [Reg.PMU_REQ_STATUS] (s.requested target) :=
  ((State.regsBut.refl _ s).setF (x := Reg.PMU_REQ_STATUS_TARGET) target (.head _)).setB _ (.head _)

theorem State.moves_requested (target : Nat) : Moves [.regs] s (s.requested target) :=
  State.setB_moves (State.setF_moves (.refl _ s) (by decide)) (by decide)

theorem State.requested_busy (target : Nat) : (s.requested target).flag Reg.PMU_REQ_STATUS_BUSY = true := State.flag_setB_same _ _ rfl rfl

theorem State.requested_target {target : Nat} (h : target < 8) : (s.requested target).f Reg.PMU_REQ_STATUS_TARGET = target := by
  rw [State.requested, State.f_setB_apart _ _ (by decide), State.f_setF_same _ _ rfl]
  exact Nat.mod_eq_of_lt h

/-- What a request finds out about the device stands outside PMU_REQ_STATUS. -/
theorem State.requested_state (target : Nat) : (s.requested target).inSatin = s.inSatin ∧ (s.requested target).inDormant = s.inDormant ∧
    (s.requested target).returnPending = s.returnPending ∧ (s.requested target).returningSatin = s.returningSatin ∧
    (s.requested target).lockstep = s.lockstep ∧ (s.requested target).dormantReady = s.dormantReady := by
  have regs := s.regsBut_requested target
  have moves := s.moves_requested target
  have satin : (s.requested target).inSatin = s.inSatin := by rw [State.inSatin, regs.f (by decide), State.inSatin]
  have dormant : (s.requested target).inDormant = s.inDormant := by rw [State.inDormant, regs.f (by decide), State.inDormant]
  have pending : (s.requested target).returnPending = s.returnPending := by
    rw [State.returnPending, moves.pm_eq (by decide), moves.pu_eq (by decide), State.returnPending]
  refine ⟨satin, dormant, pending, ?_, ?_, ?_⟩
  · rw [State.returningSatin, satin, dormant, pending, regs.flag (by decide), State.returningSatin]
  · rw [State.lockstep, State.pstate, regs.f (by decide), State.lockstep, State.pstate]
  · rw [State.dormantReady, moves.qe_eq (by decide), moves.xb_eq (by decide), regs.f (by decide), regs.flag (by decide), regs.flag (by decide),
      State.dormantReady]

theorem State.requestSleep_busy (target : Nat) (src : WakeSource) (busy : s.flag Reg.PMU_REQ_STATUS_BUSY = true) :
    s.requestSleep target src = s.setB Reg.PMU_REQ_STATUS_REFUSED true := if_pos busy

section
variable {s} (free : s.flag Reg.PMU_REQ_STATUS_BUSY = false)
include free

theorem State.requestSatin_eq (src : WakeSource) (returning : s.returningSatin = false) (satin : s.inSatin = false) (dormant : s.inDormant = false) :
    s.requestSleep 2 src = (s.requested 2).acceptSatin := by
  obtain ⟨satin', dormant', -, returning', -, -⟩ := s.requested_state 2
  rw [State.requested] at satin' dormant' returning'
  simp only [State.requestSleep, free, State.requested, satin', dormant', returning', returning, satin, dormant, Bool.false_eq_true, if_false]
  rfl

theorem State.requestDormant_eq (src : WakeSource) (returning : s.returningSatin = false) (dormant : s.inDormant = false)
    (ready : s.dormantReady = true) : s.requestSleep 3 src = (s.requested 3).acceptDormant := by
  obtain ⟨-, dormant', -, returning', -, ready'⟩ := s.requested_state 3
  rw [State.requested] at ready' dormant' returning'
  simp only [State.requestSleep, free, State.requested, ready', dormant', returning', returning, ready, dormant, Bool.false_eq_true, if_false]
  rfl

theorem State.requestActive_eq (src : WakeSource) (en : (s.requested 1).wakeEnabled src = true) (satin : s.inSatin = true)
    (pending : s.returnPending = false) : s.requestSleep 1 src = (s.requested 1).wake src := by
  obtain ⟨satin', -, pending', -, -, -⟩ := s.requested_state 1
  rw [State.requested] at satin' pending' en
  simp only [State.requestSleep, free, State.requested, satin', pending', satin, pending, Bool.false_eq_true, if_false, en]
  rfl

end

/-! ## Acceptance -/

/-- The mark of E, which a PARTNER does not know (R449). -/
def State.satinAt (s : State) : Nat := if s.lockstep = true ∧ s.isPartner = true then 2 ^ 48 else frameFrom (s.markAfter 8)

theorem State.abortAudit_of_none (none_ : s.sv.audit = none) : s.abortAudit = s := by rw [State.abortAudit, none_]

theorem State.savePoints_regs : s.savePoints.regs = s.regs := by unfold State.savePoints; rfl
theorem State.savePoints_time : s.savePoints.time = s.time := by unfold State.savePoints; rfl

theorem State.acceptSatin_eq (none_ : s.sv.audit = none) : s.acceptSatin =
    if s.lockstep = true then (s.savePoints.pairSwitch true).updPm (fun p => { p with entryAt := some s.satinAt })
    else s.savePoints.updPm (fun p => { p with entryAt := some s.satinAt }) := by
  have lock : s.savePoints.lockstep = s.lockstep := by rw [State.lockstep, State.pstate, State.f_of_regs s.savePoints_regs, State.lockstep, State.pstate]
  have partner : s.savePoints.isPartner = s.isPartner := by
    rw [State.isPartner, State.role, State.f_of_regs s.savePoints_regs, State.isPartner, State.role]
  have mark : s.savePoints.markAfter 8 = s.markAfter 8 := by rw [State.markAfter, State.mfN, s.savePoints_time, State.markAfter, State.mfN]
  rw [State.acceptSatin, s.abortAudit_of_none none_]
  simp only [lock, partner, mark]
  cases h : s.lockstep
  · simp [State.satinAt, h]
  · simp [State.satinAt, h]

theorem State.acceptSatin_regs (none_ : s.sv.audit = none) : s.acceptSatin.regs = s.regs := by
  rw [s.acceptSatin_eq none_]
  split
  · rw [State.updPm_regs, Moves.regs_eq (l := [.pu, .out]) (State.pairSwitch_moves (.refl _ _) (by decide)) (by decide), s.savePoints_regs]
  · rw [State.updPm_regs, s.savePoints_regs]

/-- The operating points that SATIN saves, and E. -/
theorem State.acceptSatin_pm (none_ : s.sv.audit = none) : s.acceptSatin.pm = { s.savePoints.pm with entryAt := some s.satinAt } := by
  rw [s.acceptSatin_eq none_]
  split
  · rw [State.updPm_pm, Moves.pm_eq (l := [.pu, .out]) (State.pairSwitch_moves (.refl _ _) (by decide)) (by decide)]
  · rw [State.updPm_pm]

theorem State.savePoints_pm : s.savePoints.pm = { s.pm with
    savedCore := s.f Reg.PMU_STATUS_CORE_FOP, savedDsp := s.f Reg.PMU_STATUS_DSP_FOP
    savedCoreV := s.f Reg.PMU_STATUS_CORE_VOP, savedDspV := s.f Reg.PMU_STATUS_DSP_VOP } := State.updPm_pm s _

/-- A HOLDER in lockstep fixes the mark of both devices (R294). -/
theorem State.acceptSatin_switch (none_ : s.sv.audit = none) (lock : s.lockstep = true) (holder : s.isPartner = false) :
    s.acceptSatin.pu.switchAt = some (true, frameFrom (s.markAfter 8)) := by
  have partner : s.savePoints.isPartner = s.isPartner := by
    rw [State.isPartner, State.role, State.f_of_regs s.savePoints_regs, State.isPartner, State.role]
  have mark : s.savePoints.markAfter 8 = s.markAfter 8 := by rw [State.markAfter, State.mfN, s.savePoints_time, State.markAfter, State.mfN]
  rw [s.acceptSatin_eq none_, if_pos lock, State.updPm_pu, State.pairSwitch, if_neg (by rw [partner, holder]; decide), mark]
  exact congrArg PairSt.switchAt (State.updPu_pu _ _)

/-- The rings of a device that goes to DORMANT take their entries back. -/
def State.ringsBack (s : State) : State :=
  s.qe.sqs.foldl (fun (s : State) (x : Nat × Option SqRec) =>
    let s := s.when (!(s.cachedOf (x.1 / 2048) (x.1 % 2048)).isEmpty) (fun s => s.keepDoorbell (x.1 / 2048) (x.1 % 2048))
    s.discardCached (x.1 / 2048) (x.1 % 2048)) s

theorem State.moves_ringsBack : Moves [.regs, .qe] s s.ringsBack :=
  Moves.foldl (.refl _ s) fun _ _ h =>
    State.discardCached_moves (State.when_moves h fun _ hu => State.keepDoorbell_moves hu (by decide)) (by decide)

theorem State.acceptDormant_eq : s.acceptDormant = s.ringsBack.abdicate.updPm (fun p => { p with entryAt := some (s.ringsBack.markAfter 2) }) := rfl

theorem State.abdicate_regs : s.abdicate.regs = s.regs :=
  Moves.regs_eq (l := [.pu]) (State.abdicate_moves (.refl _ s) (by decide)) (by decide)

theorem State.acceptDormant_entry : s.acceptDormant.pm.entryAt = some (s.markAfter 2) := by
  have mark : s.ringsBack.markAfter 2 = s.markAfter 2 := by
    rw [State.markAfter, State.mfN, s.moves_ringsBack.time_eq (by decide), State.markAfter, State.mfN]
  rw [State.acceptDormant_eq, State.updPm_pm, mark]

theorem State.acceptDormant_abdicates (h : s.acceptDormant.role ≠ 0) : s.acceptDormant.pu.abdicate = true := by
  have role : s.acceptDormant.role = s.ringsBack.role := by
    rw [State.acceptDormant_eq, State.role, State.updPm_f, State.f_of_regs (State.abdicate_regs _), State.role]
  rw [role] at h
  rw [State.acceptDormant_eq, State.updPm_pu, State.abdicate, if_neg h, State.updPu_pu]

/-! ## A request for ACTIVE wakes (R443, R451) -/

/-- While a request for ACTIVE stands no entry is pending. -/
theorem State.entryDue_of_satin (satin : s.inSatin = true) (pend : s.dormantPending = false) : s.entryDue = false := by
  rw [State.entryDue, State.satinDue_, satin, pend]
  rfl

theorem State.wake_of_satin {w : WakeSource} (en : s.wakeEnabled w = true) (satin : s.inSatin = true) (pend : s.dormantPending = false)
    (fresh : s.returnPending = false) : s.wake w = (s.logWake (wakeCode w) false).startReturn := by
  rw [State.wake, if_pos en, if_neg (by rw [s.entryDue_of_satin satin pend]; decide), if_pos (by rw [satin, pend]; rfl), if_neg (by rw [fresh]; decide)]

/-- The registers of a wake's log. -/
def wakeRegs : List Nat := [Reg.PMU_WAKE_LOG, Reg.PMU_WAKE_MF_LO, Reg.PMU_WAKE_MF_HI]

/-- The log of a wake, before the microframe of it. -/
def State.loggedWake (s : State) (src : Nat) (aborted : Bool) : State :=
  (((s.setF Reg.PMU_WAKE_LOG_SOURCE src).setF Reg.PMU_WAKE_LOG_FROM (s.f Reg.PMU_STATUS_STATE)).setB
    Reg.PMU_WAKE_LOG_SLEEP_ABORTED aborted).bump Reg.PMU_WAKE_LOG_WAKES

theorem State.logWake_eq (src : Nat) (aborted : Bool) : s.logWake src aborted =
    let v := s.loggedWake src aborted
    let w := v.setReg Reg.PMU_WAKE_MF_LO (BitVec.ofNat 32 v.mfN)
    (w.setReg Reg.PMU_WAKE_MF_HI (BitVec.ofNat 32 (v.mfN / 2 ^ 32))).updPm (fun p => { p with alertWake := true }) := by
  rfl

theorem State.logWake_log {src : Nat} (hsrc : src < 8) (aborted : Bool) : (s.logWake src aborted).f Reg.PMU_WAKE_LOG_SOURCE = src ∧
    (s.logWake src aborted).f Reg.PMU_WAKE_LOG_FROM = s.f Reg.PMU_STATUS_STATE ∧
    (s.logWake src aborted).flag Reg.PMU_WAKE_LOG_SLEEP_ABORTED = aborted ∧
    (s.logWake src aborted).f Reg.PMU_WAKE_LOG_WAKES = min (s.f Reg.PMU_WAKE_LOG_WAKES + 1) 65535 := by
  rw [State.logWake_eq]
  extract_lets v w
  refine ⟨?_, ?_, ?_, ?_⟩
  · simp (disch := decide) only [State.updPm_f, w, v, State.loggedWake, State.f_setReg_other, State.f_bump_apart, State.f_setB_apart, State.f_setF_apart,
      State.f_setF_same]
    exact Nat.mod_eq_of_lt hsrc
  · simp (disch := decide) only [State.updPm_f, w, v, State.loggedWake, State.f_setReg_other, State.f_bump_apart, State.f_setB_apart, State.f_setF_same]
    exact Nat.mod_eq_of_lt (s.f_lt Reg.PMU_STATUS_STATE)
  · simp (disch := decide) only [State.updPm_flag, w, v, State.loggedWake, State.flag_setReg_other, State.flag_bump_apart, State.flag_setB_same]
  · simp (disch := decide) only [State.updPm_f, w, v, State.loggedWake, State.f_setReg_other, State.f_bump_same, State.f_setB_apart, State.f_setF_apart]
    rfl

theorem State.regsBut_logWake (src : Nat) (aborted : Bool) : s.regsBut wakeRegs (s.logWake src aborted) := by
  rw [State.logWake_eq]
  extract_lets v w
  have hv : s.regsBut wakeRegs v := ((((State.regsBut.refl _ s).setF (x := Reg.PMU_WAKE_LOG_SOURCE) _ (.head _)).setF
    (x := Reg.PMU_WAKE_LOG_FROM) _ (.head _)).setB (x := Reg.PMU_WAKE_LOG_SLEEP_ABORTED) _ (.head _)).bump (x := Reg.PMU_WAKE_LOG_WAKES) 1 (.head _)
  have hw : s.regsBut wakeRegs w := hv.setReg (a := Reg.PMU_WAKE_MF_LO) _ (.tail _ (.head _))
  exact (hw.setReg (a := Reg.PMU_WAKE_MF_HI) _ (.tail _ (.tail _ (.head _)))).keep rfl

theorem State.moves_logWake (src : Nat) (aborted : Bool) : Moves [.regs, .pm] s (s.logWake src aborted) := State.logWake_moves (.refl _ s) (by decide)

theorem State.startReturn_regs : s.startReturn.regs = s.regs :=
  Moves.regs_eq (l := [.pu, .pm, .out]) (State.startReturn_moves (.refl _ s) (by decide)) (by decide)

theorem State.startReturn_alone (lock : s.lockstep = false) : s.startReturn = s.updPm (fun p => { p with step1At := some (s.mfN + 2) }) :=
  if_neg (by rw [lock]; decide)

/-- A wake from SATIN fixes step 1 of the return, and is logged. -/
theorem State.wake_step1 {w : WakeSource} (lock : s.lockstep = false) :
    ((s.logWake (wakeCode w) false).startReturn).pm.step1At = some (s.mfN + 2) := by
  have lock' : (s.logWake (wakeCode w) false).lockstep = s.lockstep := by
    rw [State.lockstep, State.pstate, (s.regsBut_logWake _ _).f (by decide), State.lockstep, State.pstate]
  rw [State.startReturn_alone _ (lock'.trans lock), State.updPm_pm, (s.moves_logWake _ _).mfN_eq (by decide)]

end

/-- Settles O43, request by request. -/
theorem sleepRequestsAreAccepted : Obligations.SleepRequestsAreAccepted := by
  unfold Obligations.SleepRequestsAreAccepted
  refine fun s serves => ⟨fun busy i hi => ?_, fun free returning satin dormant => ⟨?_, fun none_ => ?_⟩, fun free returning dormant ready => ?_,
    fun free satin pending => ?_⟩
  · have refused : ∀ target src, s.pfWrite Reg.PMU_REQ (fun s => s.requestSleep target src) = s.setB Reg.PMU_REQ_STATUS_REFUSED true :=
      fun target src => (s.pfWrite_of_serves serves _).trans (s.requestSleep_busy target src busy)
    have after : (s.setB Reg.PMU_REQ_STATUS_REFUSED true).flag Reg.PMU_REQ_STATUS_REFUSED = true ∧
        (s.setB Reg.PMU_REQ_STATUS_REFUSED true).pm = s.pm ∧ s.regsBut [Reg.PMU_REQ_STATUS] (s.setB Reg.PMU_REQ_STATUS_REFUSED true) :=
      ⟨State.flag_setB_same _ _ rfl rfl, State.setB_pm .., (State.regsBut.refl _ s).setB _ (.head _)⟩
    simp only [List.mem_cons, List.not_mem_nil, or_false] at hi
    obtain rfl | rfl | rfl := hi
    · exact answers_eq rfl (refused 2 .request) after
    · exact answers_eq rfl (refused 3 .request) after
    · exact answers_eq rfl (refused 1 .request) after
  · refine answers_eq rfl ((s.pfWrite_of_serves serves _).trans (State.requestSatin_eq free _ returning satin dormant)) ?_
    exact ⟨s.requested 2, s.requested_busy 2, s.requested_target (by decide), (s.moves_requested 2).pm_eq (by decide),
      (s.moves_requested 2).sv_eq (by decide), rfl⟩
  · refine answers_eq rfl ((s.pfWrite_of_serves serves _).trans (State.requestSatin_eq free _ returning satin dormant)) ?_
    have moves := s.moves_requested 2
    have regs := s.regsBut_requested 2
    have none_' : (s.requested 2).sv.audit = none := by rw [moves.sv_eq (by decide), none_]
    have lock := (s.requested_state 2).2.2.2.2.1
    have partner : (s.requested 2).isPartner = s.isPartner := by rw [State.isPartner, State.role, regs.f (by decide), State.isPartner, State.role]
    have mark : (s.requested 2).markAfter 8 = s.markAfter 8 := by
      rw [State.markAfter, State.mfN, moves.time_eq (by decide), State.markAfter, State.mfN]
    have at_ : (s.requested 2).satinAt = s.satinAt := by rw [State.satinAt, lock, partner, mark, State.satinAt]
    have point (x : Fld) (h : x.addr ∉ [Reg.PMU_REQ_STATUS]) : (s.requested 2).f x = s.f x := regs.f h
    rw [State.acceptSatin_pm _ none_', State.savePoints_pm, at_, State.flag_of_regs (State.acceptSatin_regs _ none_'),
      State.f_of_regs (State.acceptSatin_regs _ none_')]
    refine ⟨s.requested_busy 2, s.requested_target (by decide), point _ (by decide), point _ (by decide), point _ (by decide), point _ (by decide),
      rfl, fun locked holder => ?_⟩
    rw [State.acceptSatin_switch _ none_' (lock.trans locked) (partner.trans holder), mark]
  · refine answers_eq rfl ((s.pfWrite_of_serves serves _).trans (State.requestDormant_eq free _ returning dormant ready)) ?_
    have moves := s.moves_requested 3
    refine ⟨?_, State.acceptDormant_abdicates _, s.requested 3, s.requested_busy 3, s.requested_target (by decide), moves.qe_eq (by decide), rfl⟩
    rw [State.acceptDormant_entry, State.markAfter, State.mfN, moves.time_eq (by decide), State.markAfter, State.mfN]
  · refine answers_eq rfl ((s.pfWrite_of_serves serves _).trans (State.requestActive_eq free _ rfl satin pending)) ?_
    obtain ⟨satin', -, pending', -, lock, -⟩ := s.requested_state 1
    have pend : (s.requested 1).dormantPending = false := by
      rw [State.dormantPending, s.requested_target (by decide), Bool.and_assoc]
      exact Bool.and_false _
    obtain ⟨source, from_, -, -⟩ := (s.requested 1).logWake_log (src := wakeCode .request) (by decide) false
    rw [State.wake_of_satin _ rfl (satin'.trans satin) pend (pending'.trans pending)]
    have regs := State.startReturn_regs ((s.requested 1).logWake (wakeCode .request) false)
    have log := (s.requested 1).regsBut_logWake (wakeCode .request) false
    refine ⟨?_, ?_, ?_, ?_, fun alone => ?_⟩
    · rw [State.flag_of_regs regs, log.flag (by decide), s.requested_busy]
    · rw [State.f_of_regs regs, log.f (by decide), s.requested_target (by decide)]
    · rw [State.f_of_regs regs, source]; rfl
    · rw [State.f_of_regs regs, from_]
      exact beq_iff_eq.mp (satin'.trans satin)
    · rw [State.wake_step1 _ (lock.trans alone), (s.moves_requested 1).mfN_eq (by decide)]

end Sys2Proof.Machine

namespace Sys2Proof.Machine

/-! # Wakes (R443, R444, R451, R460, R461) -/

section
variable {s : State} {w : WakeSource}

theorem wakeCode_lt (w : WakeSource) : wakeCode w < 8 := by cases w <;> decide

/-- STATE names one state of the device. -/
theorem State.state_of_satin (h : s.inSatin = true) : s.f Reg.PMU_STATUS_STATE = 2 := beq_iff_eq.mp h
theorem State.state_of_dormant (h : s.inDormant = true) : s.f Reg.PMU_STATUS_STATE = 3 := beq_iff_eq.mp h

theorem State.inDormant_of_satin (h : s.inSatin = true) : s.inDormant = false := by rw [State.inDormant, State.state_of_satin h]; rfl
theorem State.inSatin_of_dormant (h : s.inDormant = true) : s.inSatin = false := by rw [State.inSatin, State.state_of_dormant h]; rfl

theorem State.entryDue_of_dormant (h : s.inDormant = true) : s.entryDue = false := by simp [State.entryDue, State.satinDue_, h]

/-- Awake, a wake source that no request meets acts. -/
theorem State.wakeEvent_awake (awake : s.inDormant = false) (open_ : w ≠ .mgt ∧ w ≠ .request ∨ s.flag Reg.PMU_REQ_STATUS_BUSY = false) :
    s.wakeEvent w = s.wake w := by
  rw [State.wakeEvent.eq_def, if_neg (by rw [awake]; decide)]
  cases w
  case mgt | request =>
    obtain ⟨mgt, request⟩ | free := open_
    · contradiction
    · exact if_neg (by rw [free]; decide)
  all_goals rfl

theorem State.wakeEvent_dormant (asleep : s.inDormant = true)
    (seen : w = .mgt ∨ w = .pcie ∨ w = .alarm ∨ w = .lybor ∧ s.flag Reg.PMU_POLICY_LYBOR_SQUELCH = true) : s.wakeEvent w = s.wake w := by
  rw [State.wakeEvent.eq_def, if_pos asleep]
  obtain rfl | rfl | rfl | ⟨rfl, squelch⟩ := seen
  · rfl
  · rfl
  · rfl
  · exact if_pos squelch

theorem State.wakeEvent_refused (awake : s.inDormant = false) (src : w = .mgt ∨ w = .request) (busy : s.flag Reg.PMU_REQ_STATUS_BUSY = true) :
    s.wakeEvent w = s.setB Reg.PMU_REQ_STATUS_REFUSED true := by
  rw [State.wakeEvent.eq_def, if_neg (by rw [awake]; decide)]
  obtain rfl | rfl := src
  · exact if_pos busy
  · exact if_pos busy

/-- A wake in DORMANT starts the return, and is logged. -/
theorem State.wake_of_dormant (en : s.wakeEnabled w = true) (asleep : s.inDormant = true) (fresh : s.pm.returning = none) :
    s.wake w = (s.updPm (fun p => { p with returning := some (wakeCode w) })).logWake (wakeCode w) false := by
  rw [State.wake, if_pos en, if_neg (by rw [State.entryDue_of_dormant asleep]; decide), if_neg (by rw [State.inSatin_of_dormant asleep]; exact Bool.false_ne_true),
    if_pos asleep, if_neg (by rw [fresh]; decide)]

theorem State.logWake_pm (s : State) (src : Nat) (aborted : Bool) : (s.logWake src aborted).pm = { s.pm with alertWake := true } := by
  rw [State.logWake_eq]
  extract_lets v x
  have pm : v.pm = s.pm := by simp only [v, State.loggedWake, State.bump_eq, State.setF_pm, State.setB_pm]
  rw [State.updPm_pm, State.setReg_pm, State.setReg_pm, pm]

theorem State.wake_dormant_spec (en : s.wakeEnabled w = true) (asleep : s.inDormant = true) (fresh : s.pm.returning = none) :
    (s.wake w).pm.returning = some (wakeCode w) ∧ (s.wake w).f Reg.PMU_WAKE_LOG_SOURCE = wakeCode w ∧ (s.wake w).f Reg.PMU_WAKE_LOG_FROM = 3 := by
  obtain ⟨source, from_, -, -⟩ :=
    (s.updPm (fun p => { p with returning := some (wakeCode w) })).logWake_log (wakeCode_lt w) false
  rw [State.wake_of_dormant en asleep fresh]
  refine ⟨?_, source, from_.trans (State.state_of_dormant asleep)⟩
  rw [State.logWake_pm, State.updPm_pm]

theorem State.wake_satin_spec (en : s.wakeEnabled w = true) (satin : s.inSatin = true) (fresh : s.returnPending = false)
    (pend : s.dormantPending = false) : (s.wake w).f Reg.PMU_WAKE_LOG_SOURCE = wakeCode w ∧ (s.wake w).f Reg.PMU_WAKE_LOG_FROM = 2 ∧
    (s.wake w).flag Reg.PMU_WAKE_LOG_SLEEP_ABORTED = false ∧ (s.wake w).f Reg.PMU_WAKE_LOG_WAKES = min (s.f Reg.PMU_WAKE_LOG_WAKES + 1) 65535 ∧
    (s.lockstep = false → (s.wake w).pm.step1At = some (s.mfN + 2)) := by
  obtain ⟨source, from_, aborted, wakes⟩ := s.logWake_log (wakeCode_lt w) false
  have regs := State.startReturn_regs (s.logWake (wakeCode w) false)
  rw [State.wake_of_satin s en satin pend fresh, State.f_of_regs regs, State.f_of_regs regs, State.f_of_regs regs, State.flag_of_regs regs]
  exact ⟨source, from_.trans (State.state_of_satin satin), aborted, wakes, fun lock => s.wake_step1 lock⟩

/-- At E or later a wake waits for the entry (R444). -/
theorem State.wake_late (en : s.wakeEnabled w = true) (due : s.entryDue = true) :
    s.wake w = s.updPm (fun p => { p with lateWake := p.lateWake.or (some w) }) := by
  rw [State.wake, if_pos en, if_pos due]

/-- A wake before E ends the request of a device alone (R444). -/
theorem State.wake_aborts (en : s.wakeEnabled w = true) (awake : s.inSatin = false ∨ s.dormantPending = true) (open_ : s.inDormant = false)
    (early : s.entryDue = false) (busy : s.flag Reg.PMU_REQ_STATUS_BUSY = true) (fixed : s.pm.entryAt.isSome = true)
    (none_ : s.pu.switchAt = none) (lock : s.lockstep = false) :
    s.wake w = ((s.logWake (wakeCode w) true).endRequest St.abortedByWake).rescan := by
  have satin : ¬(s.inSatin && !s.dormantPending) = true := by
    obtain h | h := awake <;> simp [h]
  rw [State.wake, if_pos en, if_neg (by rw [early]; decide), if_neg satin, if_neg (by rw [open_]; decide)]
  simp only [busy, fixed, none_, lock, Bool.and_self, Bool.and_false, Bool.false_and, Bool.or_self, Bool.not_true, Bool.not_false, Bool.and_true,
    Bool.false_eq_true, if_false, if_true]

theorem State.alarm_eq (ms : s.reg Reg.PMU_ALARM ≠ 0) (asleep : s.inSatin = true ∨ s.inDormant = true) {t0 : Nat} (slept : s.pm.sleptAt = some t0)
    (late : s.inDormant = true ∨ t0 + (s.reg Reg.PMU_ALARM).toNat * 25000 ≤ s.now) : s.alarm = s.wake .alarm := by
  have ms' : (s.reg Reg.PMU_ALARM).toNat ≠ 0 := fun h => ms (BitVec.eq_of_toNat_eq h)
  have due : (s.inDormant || decide (t0 + (s.reg Reg.PMU_ALARM).toNat * 25000 ≤ s.now)) = true := by
    rw [Bool.or_eq_true, decide_eq_true_eq]; exact late
  rw [State.alarm, slept]
  exact if_pos ⟨ms', asleep, due⟩

end

/-- Settles O45, case by case. -/
theorem wakesStartTheReturn : Obligations.WakesStartTheReturn := by
  unfold Obligations.WakesStartTheReturn
  refine fun s => ⟨fun w en satin fresh pend open_ => ?_, fun w en asleep fresh seen => ?_, fun w src awake busy => ?_,
    fun w mgt request en awake due => ?_, fun w mgt request en awake open_ early busy fixed none_ lock => ?_, fun t0 ms slept en => ⟨?_, ?_⟩,
    fun live asleep en fresh => ⟨fun a ha => ?_, fun off v => ?_⟩⟩
  · refine answers_eq rfl (State.wakeEvent_awake (State.inDormant_of_satin satin) open_) (State.wake_satin_spec en satin fresh pend)
  · exact answers_eq rfl (State.wakeEvent_dormant asleep seen) (State.wake_dormant_spec en asleep fresh)
  · exact answers_eq rfl (State.wakeEvent_refused awake src busy) ⟨State.flag_setB_same _ _ rfl rfl, State.setB_pm .., (State.regsBut.refl _ s).setB _ (.head _)⟩
  · refine answers_eq rfl ((State.wakeEvent_awake awake (.inl ⟨mgt, request⟩)).trans (State.wake_late en due)) ⟨State.updPm_regs .., State.updPm_pm ..⟩
  · refine answers_eq rfl ((State.wakeEvent_awake open_ (.inl ⟨mgt, request⟩)).trans (State.wake_aborts en awake open_ early busy fixed none_ lock)) ?_
    obtain ⟨source, -, aborted, -⟩ := s.logWake_log (wakeCode_lt w) true
    exact ⟨s.logWake (wakeCode w) true, aborted, source, rfl⟩
  · intro satin late fresh pend
    obtain ⟨source, -, -, -, step⟩ := State.wake_satin_spec (w := .alarm) en satin fresh pend
    exact answers_eq rfl (State.alarm_eq ms (.inl satin) slept (.inr late)) ⟨source, step⟩
  · intro asleep fresh
    obtain ⟨returning, source, -⟩ := State.wake_dormant_spec (w := .alarm) en asleep fresh
    exact answers_eq rfl (State.alarm_eq ms (.inr asleep) slept (.inl asleep)) ⟨returning, source⟩
  · refine answers_eq (t := s.wake .mgt) rfl (if_pos (by simp [live, asleep, ha])) (State.wake_dormant_spec (w := .mgt) en asleep fresh).1
  · refine answers_eq (t := s.wake .mgt) rfl ((if_neg (by simp [live])).trans (if_pos asleep)) ⟨(State.wake_dormant_spec (w := .mgt) en asleep fresh).1, ?_⟩
    exact Moves.ck_eq (l := [.regs, .qe, .fn, .pu, .pm, .out]) (State.wake_moves (.refl _ s) (by decide)) (by decide)

end Sys2Proof.Machine

namespace Sys2Proof.Machine

/-! # RSQ, its flash and the management port (R461, R462, R471 to R478) -/

section
variable (s : State)

/-! ## Boot (R471 to R473) -/

/-- RSQ may load from its flash. -/
def State.mayBoot (s : State) : Prop := s.ck.porst = false ∧ s.ck.perst = false ∧ s.ck.fundamental = false ∧ s.ck.booted = false ∧
  s.ck.rsqRestart = false ∧ s.inDormant = false

/-- RSQ has tried its slots. -/
def State.tried (s : State) : State := s.updCk (fun c => { c with booted := true })

theorem State.bootLoad_eq (h : s.mayBoot) : s.bootLoad = match (if s.tried.flashHeaderOk then s.tried.slotOrder else []).find? s.tried.slotBoots with
    | some i => s.tried.booted i ((if s.tried.flashHeaderOk then s.tried.slotOrder else []).head? != some i)
    | none => (s.tried.setB Reg.RSQ_STATUS_NO_IMAGE true).faultN 8 := by
  obtain ⟨porst, perst, fundamental, booted, restart, dormant⟩ := h
  exact if_neg (by simp [porst, perst, fundamental, booted, restart, dormant])

/-- What the flash holds does not change as RSQ tries its slots. -/
theorem State.tried_flash (a n : Nat) : s.tried.flashBytes a n = s.flashBytes a n := (rfl)
theorem State.tried_headerOk : s.tried.flashHeaderOk = s.flashHeaderOk := (rfl)
theorem State.tried_slotHeader (i : Nat) : s.tried.slotHeader i = s.slotHeader i := (rfl)
theorem State.tried_bootConfig (i : Nat) : s.tried.bootConfig i = s.bootConfig i := (rfl)
theorem State.tried_slotOrder : s.tried.slotOrder = s.slotOrder := (rfl)
theorem State.tried_slotBoots : s.tried.slotBoots = s.slotBoots := (rfl)

/-- Slot `i` has been loaded, before its boot configuration is applied. -/
def State.bootedFrom (s : State) (i : Nat) (fallback : Bool) : State :=
  ((((s.setB Reg.RSQ_STATUS_RUNNING true).setF Reg.RSQ_STATUS_BOOT_SLOT i).setB Reg.RSQ_STATUS_FALLBACK fallback).setF
    Reg.RSQ_FW_VER_VER (field (s.slotHeader i) 36 4)).setF Reg.MRE_UCODE_VER_VER (field (s.slotHeader i) 32 4)

theorem State.moves_bootedFrom (i : Nat) (fallback : Bool) : Moves [.regs] s (s.bootedFrom i fallback) :=
  State.setF_moves (State.setF_moves (State.setB_moves (State.setF_moves (State.setB_moves (.refl _ s) (by decide)) (by decide)) (by decide))
    (by decide)) (by decide)

theorem State.bootedFrom_status (i : Nat) (fallback : Bool) : (s.bootedFrom i fallback).flag Reg.RSQ_STATUS_RUNNING = true ∧
    (s.bootedFrom i fallback).f Reg.RSQ_STATUS_BOOT_SLOT = i % 2 ∧ (s.bootedFrom i fallback).flag Reg.RSQ_STATUS_FALLBACK = fallback ∧
    (s.bootedFrom i fallback).f Reg.RSQ_FW_VER_VER = field (s.slotHeader i) 36 4 ∧
    (s.bootedFrom i fallback).f Reg.MRE_UCODE_VER_VER = field (s.slotHeader i) 32 4 := by
  refine ⟨?_, ?_, ?_, ?_, ?_⟩
  · simp (disch := decide) only [State.bootedFrom, State.flag_setF_apart, State.flag_setB_apart, State.flag_setB_same]
  · simp (disch := decide) only [State.bootedFrom, State.f_setF_apart, State.f_setB_apart, State.f_setF_same]
    rfl
  · simp (disch := decide) only [State.bootedFrom, State.flag_setF_apart, State.flag_setB_same]
  · simp (disch := decide) only [State.bootedFrom, State.f_setF_apart, State.f_setF_same]
    exact Nat.mod_eq_of_lt (field_lt _ 36 4)
  · simp (disch := decide) only [State.bootedFrom, State.f_setF_same]
    exact Nat.mod_eq_of_lt (field_lt _ 32 4)

theorem State.booted_eq (i : Nat) (fallback : Bool) : s.booted i fallback =
    let u := s.bootedFrom i fallback
    let x := ((u.applyConfig (s.bootConfig i)).updCk (fun k => { k with wdtAt := u.now })).setB Reg.HIF_STATUS_OPERATIONAL true
    (if nbit (field (s.bootConfig i) 5 1) 0 then (x.setB Reg.PU_CTRL_EN true).pairStart else x).rescan := rfl

/-! ## The watchdog (R476, R477) -/

/-- The expiries that are still counted. -/
def State.counted (s : State) : List Nat := s.ck.expiries.filter (fun e => decide (s.now < e + countedTicks))

/-- An expiry of the watchdog has been counted. -/
def State.expired (s : State) : State :=
  (((s.bump Reg.RSQ_WDT_EXPIRIES).forgetExpiries).updCk (fun c => { c with expiries := s.now :: c.expiries })).setF Reg.RSQ_STATUS_COUNTED
    (min 3 (s.counted.length + 1))

theorem State.forgetExpiries_ck : s.forgetExpiries.ck = { s.ck with expiries := s.counted } := by
  unfold State.forgetExpiries
  extract_lets l
  rw [State.setF_ck, State.updCk_ck]
  rfl

theorem State.forgetExpiries_counted : s.forgetExpiries.f Reg.RSQ_STATUS_COUNTED = min 3 s.counted.length := by
  unfold State.forgetExpiries
  extract_lets l
  rw [State.f_setF_same _ _ rfl]
  exact Nat.mod_eq_of_lt (by show _ < 4; omega)

theorem State.counted_bump (x : Fld) (k : Nat) : (s.bump x k).counted = s.counted := by
  rw [State.counted, State.bump_now, State.bump_eq, State.setF_ck, State.counted]

theorem State.forgetExpiries_now : s.forgetExpiries.now = s.now :=
  Moves.now_eq (l := [.regs, .ck]) (State.forgetExpiries_moves (.refl _ s) (by decide)) (by decide)

theorem State.expired_ck : s.expired.ck = { s.ck with expiries := s.now :: s.counted } := by
  rw [State.expired, State.setF_ck, State.updCk_ck, State.forgetExpiries_ck, State.counted_bump, State.bump_eq, State.setF_ck]

theorem State.expired_status : s.expired.f Reg.RSQ_STATUS_COUNTED = min 3 (s.counted.length + 1) ∧
    s.expired.f Reg.RSQ_WDT_EXPIRIES = min (s.f Reg.RSQ_WDT_EXPIRIES + 1) 65535 := by
  refine ⟨?_, ?_⟩
  · rw [State.expired, State.f_setF_same _ _ rfl]
    exact Nat.mod_eq_of_lt (by show _ < 4; omega)
  · rw [State.expired, State.f_setF_apart _ _ (by decide), State.updCk_f, (State.regsBut_forgetExpiries _).f (by decide), State.f_bump_same _ _ rfl]
    rfl

theorem State.watchdog_eq (running : s.flag Reg.RSQ_STATUS_RUNNING = true) (late : s.periodOver = true) : s.watchdog =
    if s.counted.length < 2 then s.expired.restartRsq
    else
      let x := ((s.expired.setB Reg.RSQ_STATUS_RUNNING false).setB Reg.RSQ_STATUS_RSQ_FAILED true).faultN 7
      if x.isHolder then x.abdicate else x := by
  have len : ((s.bump Reg.RSQ_WDT_EXPIRIES).forgetExpiries).ck.expiries = s.counted := by
    rw [State.forgetExpiries_ck, State.counted_bump]
  have now : ((s.bump Reg.RSQ_WDT_EXPIRIES).forgetExpiries).now = s.now := by rw [State.forgetExpiries_now, State.bump_now]
  rw [State.watchdog, if_pos (by rw [running, late]; rfl)]
  simp only [len, now]
  rfl

end

/-- Settles O49, case by case. -/
theorem rsqBootsAndIsWatched : Obligations.RsqBootsAndIsWatched := by
  unfold Obligations.RsqBootsAndIsWatched
  refine fun s => ⟨fun porst perst fundamental booted restart awake => ⟨fun none_ => ?_, fun i header found => ?_⟩, fun running late => ?_, ?_,
    fun running => ?_, fun serves running => ?_, fun restart => ?_⟩
  · have slots : (if s.tried.flashHeaderOk then s.tried.slotOrder else []).find? s.tried.slotBoots = none := by
      rw [State.tried_headerOk, State.tried_slotOrder, State.tried_slotBoots]
      obtain bad | none_ := none_
      · rw [bad]; rfl
      · split
        · exact none_
        · rfl
    refine answers_eq rfl (s.bootLoad_eq ⟨porst, perst, fundamental, booted, restart, awake⟩) ?_
    rw [slots]
    refine ⟨(s.tried.setB Reg.RSQ_STATUS_NO_IMAGE true).setB Reg.GLB_ERR_FAULT true, ?_, ?_, State.flag_setB_same _ _ rfl rfl, rfl⟩
    · rw [State.setB_ck, State.setB_ck, State.tried, State.updCk_ck]
    · simp (disch := decide) only [State.flag_setB_apart, State.flag_setB_same]
  · have slots : (if s.tried.flashHeaderOk then s.tried.slotOrder else []) = s.slotOrder := by
      rw [State.tried_headerOk, State.tried_slotOrder, if_pos header]
    refine answers_eq rfl (s.bootLoad_eq ⟨porst, perst, fundamental, booted, restart, awake⟩) ?_
    rw [slots, State.tried_slotBoots, found]
    obtain ⟨running, slot, fallback, fw, ucode⟩ := s.tried.bootedFrom_status i (s.slotOrder.head? != some i)
    have moves := s.tried.moves_bootedFrom i (s.slotOrder.head? != some i)
    have now : (s.tried.bootedFrom i (s.slotOrder.head? != some i)).now = s.now := (moves.now_eq (by decide)).trans (State.updCk_now s _)
    refine ⟨s.tried.bootedFrom i (s.slotOrder.head? != some i), _, ?_, running, slot, ?_, fw, ucode, ?_, rfl, ?_⟩
    · rw [moves.ck_eq (by decide), State.tried, State.updCk_ck]
    · rw [fallback, Bool.eq_iff_iff, bne_iff_ne, decide_eq_true_iff]
    · rw [moves.ck_eq (by decide), State.tried, State.updCk_ck]
    · rw [← now]
      exact s.tried.booted_eq i _
  · intro l
    refine ⟨fun few => ?_, fun many => ?_⟩
    · refine answers_eq rfl ((s.watchdog_eq running late).trans (if_pos few)) ?_
      obtain ⟨count, expiries⟩ := s.expired_status
      refine ⟨?_, ?_, State.flag_setB_same _ _ rfl rfl, ?_, ?_⟩
      · rw [State.restartRsq, State.setB_ck, State.updCk_ck, State.expired_ck]; rfl
      · rw [State.restartRsq, State.setB_ck, State.updCk_ck]
      · rw [State.restartRsq, State.f_setB_apart _ _ (by decide), State.updCk_f, count]
        exact Nat.min_eq_right (Nat.succ_le_succ (Nat.le_of_lt few))
      · rw [State.restartRsq, State.f_setB_apart _ _ (by decide), State.updCk_f, expiries]
    · refine answers_eq rfl ((s.watchdog_eq running late).trans (if_neg (Nat.not_lt.mpr many))) ?_
      obtain ⟨count, -⟩ := s.expired_status
      refine ⟨((s.expired.setB Reg.RSQ_STATUS_RUNNING false).setB Reg.RSQ_STATUS_RSQ_FAILED true).setB Reg.GLB_ERR_FAULT true, _, ?_, ?_, ?_, ?_,
        State.flag_setB_same _ _ rfl rfl, rfl, rfl⟩
      · rw [State.setB_ck, State.setB_ck, State.setB_ck, State.expired_ck]
        rfl
      · simp (disch := decide) only [State.flag_setB_apart, State.flag_setB_same]
      · simp (disch := decide) only [State.flag_setB_apart, State.flag_setB_same]
      · simp (disch := decide) only [State.f_setB_apart, count]
        exact Nat.min_eq_left (Nat.succ_le_succ many)
  · refine answers_of rfl ⟨?_, ?_, State.regsBut_forgetExpiries s⟩
    · rw [State.forgetExpiries_ck]; rfl
    · rw [State.forgetExpiries_ck, s.forgetExpiries_counted]
  · refine answers_eq rfl (if_pos running) ⟨?_, State.updCk_regs ..⟩
    rw [State.updCk_ck]
  · refine answers_eq rfl ((s.pfWrite_of_serves serves _).trans (if_pos running)) ⟨?_, State.flag_setB_same _ _ rfl rfl, ?_⟩
    · rw [State.restartRsq, State.setB_ck, State.updCk_ck]
    · exact ((State.regsBut.refl _ s).updCk _).setB _ (.head _)
  · refine answers_eq rfl (if_pos restart) ⟨?_, ?_, State.flag_setB_same _ _ rfl rfl, ?_⟩
    · rw [State.setB_ck, State.updCk_ck]
    · rw [State.setB_ck, State.updCk_ck]
    · exact ((State.regsBut.refl _ s).updCk _).setB _ (.head _)

end Sys2Proof.Machine

namespace Sys2Proof.Machine

/-! # The flash and the management port (R461, R462, R474, R478) -/

/-! ## Bytes and dwords -/

theorem flatMap_chunks (b : List Byte) (n : Nat) : (List.range n).flatMap (fun i => (b.drop (4 * i)).take 4) = b.take (4 * n) := by
  induction n with
  | zero => simp
  | succ n ih =>
    rw [List.range_succ, List.flatMap_append, ih, List.flatMap_singleton, Nat.mul_succ, List.take_add]

/-- The dwords of a list of bytes are its bytes. -/
theorem leBytes_field (b : List Byte) {i : Nat} (h : 4 * i + 4 ≤ b.length) :
    leBytes 4 (BitVec.ofNat 32 (field b (4 * i) 4)).toNat = (b.drop (4 * i)).take 4 := by
  have len : ((b.drop (4 * i)).take 4).length = 4 := by rw [List.length_take, List.length_drop]; omega
  have lt := leNat_lt ((b.drop (4 * i)).take 4)
  rw [len] at lt
  have whole := leBytes_leNat ((b.drop (4 * i)).take 4)
  rw [len] at whole
  rw [BitVec.toNat_ofNat, field, Nat.mod_eq_of_lt (b := 2 ^ 32) lt, whole]

section
variable (s : State)

/-! ## The buffer of the flash -/

/-- The dwords of the buffer, written one by one. -/
theorem State.reg_foldl_setReg (g : Nat → Word) (addr : Nat → Nat) (inj : ∀ i j, addr i = addr j → i = j) (l : List Nat) (i : Nat) :
    (l.foldl (fun s i => s.setReg (addr i) (g i)) s).reg (addr i) = if i ∈ l then g i else s.reg (addr i) := by
  induction l generalizing s with
  | nil => rfl
  | cons x r ih =>
    rw [List.foldl_cons, ih]
    by_cases hr : i ∈ r
    · rw [if_pos hr, if_pos (.tail _ hr)]
    · rw [if_neg hr]
      by_cases e : i = x
      · subst e
        rw [State.reg_setReg, if_pos (.head _)]
      · rw [State.reg_setReg_other _ _ (fun h => e (inj _ _ h)), if_neg (by simp [e, hr])]

theorem flashBuf_inj (i j : Nat) (h : Reg.RSQ_FLASH_BUF i = Reg.RSQ_FLASH_BUF j) : i = j := by
  simp only [Reg.RSQ_FLASH_BUF, Reg.fbufBase] at h
  omega

theorem State.flashBuf_setFlashBuf {b : List Byte} (h : b.length = 256) : (s.setFlashBuf b).flashBuf = b := by
  have reg (i : Nat) (hi : i < 64) : (s.setFlashBuf b).reg (Reg.RSQ_FLASH_BUF i) = BitVec.ofNat 32 (field b (4 * i) 4) := by
    have read := s.reg_foldl_setReg (fun i => BitVec.ofNat 32 (field b (4 * i) 4)) Reg.RSQ_FLASH_BUF flashBuf_inj (List.range 64) i
    rw [if_pos (List.mem_range.mpr hi)] at read
    exact read
  have chunk : ∀ i ∈ List.range 64, leBytes 4 ((s.setFlashBuf b).reg (Reg.RSQ_FLASH_BUF i)).toNat = (b.drop (4 * i)).take 4 := fun i hi => by
    have hi := List.mem_range.mp hi
    rw [reg i hi, leBytes_field b (by omega)]
  rw [State.flashBuf, List.flatMap_congr chunk, flatMap_chunks, List.take_of_length_le (by omega)]

theorem State.flashBuf_length : s.flashBuf.length = 256 := by
  simp [State.flashBuf, List.length_flatMap]

theorem State.flashBytes_length (a n : Nat) : (s.flashBytes a n).length = n := by
  rw [State.flashBytes]
  induction n generalizing a with
  | zero => rfl
  | succ n ih => rw [Tbl.readBytes, List.length_cons, ih]

/-! ## Commands -/

theorem State.flashWrite_same (a : Nat) (b : List Byte) : (s.flashWrite a b).flashBytes a b.length = b :=
  Tbl.readBytes_writeBytes s.ck.flash a b

theorem State.flashWrite_other {a c n : Nat} {b : List Byte} (h : c + n ≤ a ∨ a + b.length ≤ c) : (s.flashWrite a b).flashBytes c n = s.flashBytes c n :=
  Tbl.readBytes_writeBytes_other s.ck.flash a c n b h

theorem State.flashStart_eq {op : Nat} (idle : s.flag Reg.RSQ_FLASH_STATUS_BUSY = false) (hop : op ≠ 3) : s.flashStart op =
    (s.updCk (fun c => { c with flashOp := some (op, s.f Reg.RSQ_FLASH_ADDR_ADDR) })).setB Reg.RSQ_FLASH_STATUS_BUSY true :=
  if_neg (by simp [idle, hop])

/-- The command in progress has ended with `st`. -/
def State.flashOver (s : State) (st : Nat) : State :=
  (((s.updCk (fun c => { c with flashOp := none })).setB Reg.RSQ_FLASH_STATUS_BUSY false).setB Reg.RSQ_FLASH_STATUS_DONE true).setF
    Reg.RSQ_FLASH_STATUS_STATUS st

theorem State.flashOver_ck (st : Nat) : (s.flashOver st).ck = { s.ck with flashOp := none } := by
  rw [State.flashOver, State.setF_ck, State.setB_ck, State.setB_ck, State.updCk_ck]

theorem State.flashOver_bytes (st a n : Nat) : (s.flashOver st).flashBytes a n = s.flashBytes a n := by
  rw [State.flashBytes, State.flashOver_ck, State.flashBytes]

theorem State.flashOver_out (st : Nat) : (s.flashOver st).out = s.out := by
  rw [State.flashOver, State.setF_out, State.setB_out, State.setB_out, State.updCk_out]

theorem State.flashOver_status {st : Nat} (h : st < 256) : (s.flashOver st).flag Reg.RSQ_FLASH_STATUS_BUSY = false ∧
    (s.flashOver st).flag Reg.RSQ_FLASH_STATUS_DONE = true ∧ (s.flashOver st).f Reg.RSQ_FLASH_STATUS_STATUS = st := by
  refine ⟨?_, ?_, ?_⟩
  · simp (disch := decide) only [State.flashOver, State.flag_setF_apart, State.flag_setB_apart, State.flag_setB_same]
  · simp (disch := decide) only [State.flashOver, State.flag_setF_apart, State.flag_setB_same]
  · rw [State.flashOver, State.f_setF_same _ _ rfl]
    exact Nat.mod_eq_of_lt h

theorem State.regsBut_flashOver (st : Nat) : s.regsBut [Reg.RSQ_FLASH_STATUS] (s.flashOver st) :=
  ((((State.regsBut.refl _ s).updCk _).setB (x := Reg.RSQ_FLASH_STATUS_BUSY) _ (.head _)).setB (x := Reg.RSQ_FLASH_STATUS_DONE) _ (.head _)).setF
    (x := Reg.RSQ_FLASH_STATUS_STATUS) _ (.head _)

theorem State.flashBuf_of_regsBut {l : List Nat} {t : State} (h : s.regsBut l t) (hl : ∀ i, Reg.RSQ_FLASH_BUF i ∉ l) : t.flashBuf = s.flashBuf :=
  List.flatMap_congr fun i _ => by rw [h _ (hl i)]

theorem State.flashBuf_flashOver (st : Nat) : (s.flashOver st).flashBuf = s.flashBuf :=
  s.flashBuf_of_regsBut (s.regsBut_flashOver st) fun i => by
    simp only [Reg.RSQ_FLASH_BUF, Reg.fbufBase, Reg.RSQ_FLASH_STATUS, List.mem_singleton]
    omega

theorem State.flashStatus_lt (op a : Nat) : s.flashStatus op a < 256 := by
  unfold State.flashStatus
  split_ifs <;> decide

/-- What a command that is accepted does to the buffer or the flash. -/
def State.flashAct (s : State) (op a : Nat) : State :=
  match op with
  | 0 => s.setFlashBuf (s.flashBytes a 256)
  | 1 => s.flashWrite a s.flashBuf
  | _ => s.flashWrite a (List.replicate 0x10000 0xFF)

theorem State.flashDone_eq {op a : Nat} (h : s.ck.flashOp = some (op, a)) (runs : s.ck.rsqRestart = false)
    (fine : s.flag Reg.RSQ_STATUS_RSQ_FAILED = false) : s.flashDone =
      if s.flashStatus op a ≠ St.ok then s.flashOver (s.flashStatus op a)
      else ((s.flashOver (s.flashStatus op a)).emit (.flash op a)).flashAct op a := by
  rw [State.flashDone, h]
  simp only [runs, fine, Bool.false_eq_true, or_self, if_false]
  rfl

theorem State.moves_flashAct (op a : Nat) : Moves [.regs, .ck] s (s.flashAct op a) := by
  unfold State.flashAct
  split
  · exact State.setFlashBuf_moves (.refl _ s) (by decide)
  · exact State.flashWrite_moves (.refl _ s) (by decide)
  · exact State.flashWrite_moves (.refl _ s) (by decide)

theorem State.f_setFlashBuf (b : List Byte) {x : Fld} (hx : x.addr < 0xe01000) : (s.setFlashBuf b).f x = s.f x := by
  rw [State.setFlashBuf, State.forAll]
  induction List.range 64 generalizing s with
  | nil => rfl
  | cons i r ih =>
    rw [List.foldl_cons, ih, State.f_setReg_eq, if_neg]
    simp only [Reg.RSQ_FLASH_BUF, Reg.fbufBase]
    omega

theorem State.f_flashAct (op a : Nat) {x : Fld} (hx : x.addr < 0xe01000) : (s.flashAct op a).f x = s.f x := by
  unfold State.flashAct
  split
  · exact s.f_setFlashBuf _ hx
  · exact State.updCk_f ..
  · exact State.updCk_f ..

theorem State.flashWrite_flashOp (a : Nat) (b : List Byte) : (s.flashWrite a b).ck.flashOp = s.ck.flashOp := by
  rw [State.flashWrite, State.updCk_ck]

theorem State.flashAct_flashOp (op a : Nat) : (s.flashAct op a).ck.flashOp = s.ck.flashOp := by
  unfold State.flashAct
  split
  · exact congrArg ClockSt.flashOp (Moves.ck_eq (l := [.regs]) (State.setFlashBuf_moves (.refl _ s) (by decide)) (by decide))
  · exact s.flashWrite_flashOp a _
  · exact s.flashWrite_flashOp a _

/-! ## The management port (R461, R462) -/

/-- No register below 0x200 holds pair-checked bits. -/
theorem pairMask_glb {a : Nat} (h : a < 0x200) : pairMask a = 0 := by
  have none_ : pairRegs.find? (fun x => x.1 == a) = none := by
    have high : ∀ x ∈ pairRegs, 0x200 ≤ x.1 := by decide
    refine List.find?_eq_none.mpr fun x hx e => ?_
    have := high x hx
    rw [beq_iff_eq] at e
    omega
  rw [pairMask, none_]
  rfl

theorem State.putReg_glb {a : Nat} (h : a < 0x200) (v : Word) (src : WakeSource) : s.putReg a v src = s.writeReg a v := by
  have own : holdsOwn a = false := by
    simp only [holdsOwn, Reg.TM_CTRL, Reg.MRE_ADMIT_CFG, Bool.or_eq_false_iff, beq_eq_false_iff_ne]
    omega
  have block : a / 0x100000 = 0 := Nat.div_eq_of_lt (by omega)
  have open_ : s.pairHold a v = (s, v) := by
    rw [State.pairHold, pairMask_glb h]
    rfl
  rw [State.putReg, own, open_]
  simp only [State.putBlock, block, Bool.false_eq_true, if_false]

theorem State.reg_writeReg (a : Nat) (v : Word) : (s.writeReg a v).reg a = match regSpec a with
    | some r => writeMasked r (s.reg a) v
    | none => s.reg a := by
  rw [State.writeReg]
  cases regSpec a with
  | none => rfl
  | some r => exact s.reg_setReg a _

theorem State.regsBut_writeReg (a : Nat) (v : Word) : s.regsBut [a] (s.writeReg a v) := by
  rw [State.writeReg]
  split
  · exact (State.regsBut.refl _ s).setReg _ (.head _)
  · exact .refl _ s

theorem mgtAddr_glb {off : Nat} (h : 128 ≤ off) (small : off < 256) : mgtAddr off = 4 * (off % 128) := by
  have one : off / 128 % 2 = 1 := by omega
  simp [mgtAddr, nbit, one]

/-- PMU_WAKE_LOG reads as it stands, and its RC bits are cleared. -/
theorem State.readReg_wakeLog (k : Nat) : s.readReg Reg.PMU_WAKE_LOG k = (s.reg Reg.PMU_WAKE_LOG, s.clearRc Reg.PMU_WAKE_LOG) := by
  have shown : s.hiddenPage Reg.PMU_WAKE_LOG = false := rfl
  rw [State.readReg, shown]
  rfl

end

/-- Settles O50, command by command. -/
theorem flashAndManagementPortServe : Obligations.FlashAndManagementPortServe := by
  unfold Obligations.FlashAndManagementPortServe
  refine fun s => ⟨fun serves idle p hp => ?_, fun op a h runs fine => ⟨fun bad => ?_, fun ok => ?_⟩, fun off v live awake => ⟨fun glb => ?_, fun log => ?_⟩⟩
  · have started (op : Nat) (hop : op ≠ 3) : s.pfWrite Reg.RSQ_FLASH_CMD (fun s => s.flashStart op) = _ :=
      (s.pfWrite_of_serves serves _).trans (s.flashStart_eq idle hop)
    have after (op : Nat) : let t := (s.updCk (fun c => { c with flashOp := some (op, s.f Reg.RSQ_FLASH_ADDR_ADDR) })).setB Reg.RSQ_FLASH_STATUS_BUSY true
        t.ck.flashOp = some (op, s.f Reg.RSQ_FLASH_ADDR_ADDR) ∧ t.flag Reg.RSQ_FLASH_STATUS_BUSY = true ∧ t.ck.flash = s.ck.flash ∧
        s.regsBut [Reg.RSQ_FLASH_STATUS] t := by
      refine ⟨?_, State.flag_setB_same _ _ rfl rfl, ?_, ((State.regsBut.refl _ s).updCk _).setB _ (.head _)⟩
      · rw [State.setB_ck, State.updCk_ck]
      · rw [State.setB_ck, State.updCk_ck]
    simp only [List.mem_cons, List.not_mem_nil, or_false] at hp
    obtain rfl | rfl | rfl := hp
    · exact answers_eq rfl (started 0 (by decide)) (after 0)
    · exact answers_eq rfl (started 1 (by decide)) (after 1)
    · exact answers_eq rfl (started 2 (by decide)) (after 2)
  · obtain ⟨busy, done, st⟩ := s.flashOver_status (s.flashStatus_lt op a)
    refine answers_eq rfl ((s.flashDone_eq h runs fine).trans (if_pos bad)) ⟨?_, ?_, busy, done, st⟩
    · rw [State.flashOver_ck]
    · rw [State.flashOver_ck]
  · obtain ⟨busy, done, st⟩ := s.flashOver_status (st := St.ok) (by decide)
    refine answers_eq rfl ((s.flashDone_eq h runs fine).trans (if_neg (not_not.mpr ok))) ?_
    rw [ok]
    have moves := State.moves_flashAct ((s.flashOver St.ok).emit (.flash op a)) op a
    have field {x : Fld} (hx : x.addr < 0xe01000) : (((s.flashOver St.ok).emit (.flash op a)).flashAct op a).f x = (s.flashOver St.ok).f x := by
      rw [State.f_flashAct _ _ _ hx, State.emit_f]
    have bytes (c n : Nat) : ((s.flashOver St.ok).emit (.flash op a)).flashBytes c n = s.flashBytes c n := s.flashOver_bytes St.ok c n
    refine ⟨?_, ?_, ?_, ?_, ?_, ?_, ?_, ?_⟩
    · rw [State.flashAct_flashOp, State.emit_ck, State.flashOver_ck]
    · rw [moves.out_eq (by decide), State.emit_out, State.flashOver_out]
    · rw [State.flag, field (by decide)]; exact busy
    · rw [State.flag, field (by decide)]; exact done
    · rw [field (by decide), st]
    · rintro rfl
      refine ⟨?_, ?_⟩
      · have keep : Moves [.regs] _ (((s.flashOver St.ok).emit (.flash 0 a)).flashAct 0 a) := State.setFlashBuf_moves (.refl _ _) (by decide)
        rw [keep.ck_eq (by decide), State.emit_ck, State.flashOver_ck]
      · refine (State.flashBuf_setFlashBuf _ (State.flashBytes_length _ _ _)).trans (bytes a 256)
    · rintro rfl
      have buf : ((s.flashOver St.ok).emit (.flash 1 a)).flashBuf = s.flashBuf := s.flashBuf_flashOver St.ok
      refine ⟨?_, fun b hb => ?_⟩
      · have same := State.flashWrite_same ((s.flashOver St.ok).emit (.flash 1 a)) a s.flashBuf
        rw [State.flashBuf_length] at same
        rw [State.flashAct, buf, same]
      · rw [State.flashAct, buf, State.flashWrite_other _ (by rw [State.flashBuf_length]; omega), bytes]
    · rintro rfl
      refine ⟨?_, fun b hb => ?_⟩
      · have same := State.flashWrite_same ((s.flashOver St.ok).emit (.flash 2 a)) a (List.replicate 0x10000 0xFF)
        rw [List.length_replicate] at same
        exact same
      · refine (State.flashWrite_other _ ?_).trans (bytes b 1)
        rw [List.length_replicate]
        omega
  · have small : 4 * (off.toNat % 128) < 0x200 := by omega
    refine answers_eq rfl ((if_neg (by simp [live])).trans (if_neg (by simp [awake]))) ?_
    rw [mgtAddr_glb glb off.isLt, State.putReg_glb s small]
    exact ⟨s.regsBut_writeReg _ v, s.reg_writeReg _ v⟩
  · refine answers_eq (t := ((s.clearRc Reg.PMU_WAKE_LOG).updPm (fun p => { p with alertDone := false, alertWake := false })).emit
      (.mgt (s.reg Reg.PMU_WAKE_LOG))) rfl ((if_neg (by simp [live, awake])).trans ?_) ⟨?_, ?_, ?_⟩
    · simp only [log, s.readReg_wakeLog]
      rfl
    · rw [State.emit_out, State.updPm_out, Moves.out_eq (l := [.regs]) (State.clearRc_moves (.refl _ s) (by decide)) (by decide)]
    · rw [State.emit_pm, State.updPm_pm]
    · rw [State.emit_pm, State.updPm_pm]

end Sys2Proof.Machine

namespace Sys2Proof.Machine

/-! # References and resets (R26, R459, R465 to R470, R475) -/

section
variable (s : State)

/-! ## References -/

theorem State.freeRun_regs_of : s.regsBut [Reg.PU_STATUS, Reg.PU_CASCADE_STATUS] s.freeRun :=
  ((((State.regsBut.refl _ s).setF (x := Reg.PU_STATUS_TIME_SRC) _ (.head _)).setB (x := Reg.PU_STATUS_MASTER) _ (.head _)).setF
    (x := Reg.PU_CASCADE_STATUS_MASTER_RANK) _ (.tail _ (.head _))).setB (x := Reg.PU_CASCADE_STATUS_CASCADE_TIME) _ (.tail _ (.head _))

theorem State.moves_freeRun : Moves [.regs] s s.freeRun := State.freeRun_moves (.refl _ s) (by decide)

theorem State.freeRun_status : s.freeRun.flag Reg.PU_STATUS_MASTER = true ∧ s.freeRun.f Reg.PU_STATUS_TIME_SRC = 0 := by
  refine ⟨?_, ?_⟩
  · simp (disch := decide) only [State.freeRun, State.flag_setB_apart, State.flag_setF_apart, State.flag_setB_same]
  · simp (disch := decide) only [State.freeRun, State.f_setB_apart, State.f_setF_apart, State.f_setF_same, Nat.zero_mod]

/-- The timebase runs. -/
def State.timeRuns (s : State) : State := { s with time := { s.time with run := true } }

theorem State.timeRuns_regs : s.timeRuns.regs = s.regs := by unfold State.timeRuns; rfl
theorem State.timeRuns_run : s.timeRuns.time.run = true := by unfold State.timeRuns; rfl
theorem State.timeRuns_ck : s.timeRuns.ck = s.ck := by unfold State.timeRuns; rfl

theorem State.lockRoot_eq : s.lockRoot = ((s.setB Reg.CKG_STATUS_ROOT_LOCK true).setF Reg.CKG_STATUS_SRC 0).timeRuns.freeRun := rfl

theorem State.regsBut_lockRoot : s.regsBut [Reg.CKG_STATUS, Reg.PU_STATUS, Reg.PU_CASCADE_STATUS] s.lockRoot := by
  rw [State.lockRoot_eq]
  exact ((((State.regsBut.refl _ s).setB (x := Reg.CKG_STATUS_ROOT_LOCK) _ (.head _)).setF (x := Reg.CKG_STATUS_SRC) _ (.head _)).keep
    (State.timeRuns_regs _)).step (State.freeRun_regs_of _) (by simp)

theorem State.lockRoot_ck : s.lockRoot.ck = s.ck := by
  rw [State.lockRoot_eq, (State.moves_freeRun _).ck_eq (by decide), State.timeRuns_ck, State.setF_ck, State.setB_ck]

theorem State.lockRoot_run : s.lockRoot.time.run = true := by
  rw [State.lockRoot_eq, (State.moves_freeRun _).time_eq (by decide), State.timeRuns_run]

theorem State.lockRoot_status : s.lockRoot.flag Reg.CKG_STATUS_ROOT_LOCK = true ∧ s.lockRoot.f Reg.CKG_STATUS_SRC = 0 ∧
    s.lockRoot.flag Reg.CKG_STATUS_REFCLK_PRESENT = s.flag Reg.CKG_STATUS_REFCLK_PRESENT := by
  have keep := State.freeRun_regs_of ((s.setB Reg.CKG_STATUS_ROOT_LOCK true).setF Reg.CKG_STATUS_SRC 0).timeRuns
  rw [State.lockRoot_eq, keep.flag (by decide), keep.f (by decide), keep.flag (by decide), State.flag_of_regs (State.timeRuns_regs _),
    State.f_of_regs (State.timeRuns_regs _), State.flag_of_regs (State.timeRuns_regs _)]
  refine ⟨?_, ?_, ?_⟩
  · simp (disch := decide) only [State.flag_setF_apart, State.flag_setB_same]
  · simp (disch := decide) only [State.f_setF_same, Nat.zero_mod]
  · simp (disch := decide) only [State.flag_setF_apart, State.flag_setB_apart]

/-! ## Cold reset (R459, R468, R475) -/

/-- The ports of a device that is reset know the level at their pins alone. -/
def State.portsWiped (s : State) : Tbl PortRec := s.tree.ports.foldl (fun (t : Tbl PortRec) (x : Nat × PortRec) =>
  Tbl.set (fun _ => PortRec.reset) t x.1 { PortRec.reset with sense := x.2.sense }) []

/-- What a reset leaves before the registers that follow the pins. -/
def State.blank (s : State) : State := { State.reset with
  pending := s.pending, free := s.free, out := s.out, tree := { State.reset.tree with ports := s.portsWiped }
  ck := { ClockSt.zero with refclk := s.ck.refclk, porst := s.ck.porst, perst := s.ck.perst, flash := s.ck.flash } }

/-- The registers that follow the pins and the reference. -/
def State.pinned (b s : State) : State := (b.setReg Reg.GLB_GPIO_IN (s.reg Reg.GLB_GPIO_IN)).setB Reg.CKG_STATUS_REFCLK_PRESENT s.ck.refclk

theorem State.wiped_eq : s.wiped = s.flashCut.blank.pinned s.flashCut := rfl


theorem State.blank_time : s.blank.time = State.reset.time := by unfold State.blank; rfl
theorem State.blank_qe : s.blank.qe = State.reset.qe := by unfold State.blank; rfl
theorem State.blank_ts : s.blank.ts = State.reset.ts := by unfold State.blank; rfl
theorem State.blank_fn : s.blank.fn = State.reset.fn := by unfold State.blank; rfl
theorem State.blank_mre : s.blank.mre = State.reset.mre := by unfold State.blank; rfl
theorem State.blank_ebm : s.blank.ebm = State.reset.ebm := by unfold State.blank; rfl
theorem State.blank_pu : s.blank.pu = PairSt.zero := by unfold State.blank; rfl
theorem State.blank_pm : s.blank.pm = PowerSt.zero := by unfold State.blank; rfl
theorem State.blank_regs : s.blank.regs = [] := by unfold State.blank; rfl
theorem State.blank_pending : s.blank.pending = s.pending := by unfold State.blank; rfl
theorem State.blank_out : s.blank.out = s.out := by unfold State.blank; rfl
theorem State.blank_ck : s.blank.ck =
    { ClockSt.zero with refclk := s.ck.refclk, porst := s.ck.porst, perst := s.ck.perst, flash := s.ck.flash } := by unfold State.blank; rfl

/-- Only registers of `l` are away from their reset value. -/
def State.onlyAt (s : State) (l : List Nat) : Prop := ∀ e ∈ s.regs, e.1 ∈ l

theorem State.onlyAt_setReg {s : State} {l : List Nat} (h : s.onlyAt l) {a : Nat} (v : Word) (ha : a ∈ l) : (s.setReg a v).onlyAt l := by
  intro e he
  change e ∈ Tbl.set regReset s.regs a v at he
  unfold Tbl.set at he
  split at he
  · exact h e (Tbl.mem_del he)
  · obtain rfl | he := Tbl.mem_put he
    · exact ha
    · exact h e he

theorem State.pinned_onlyAt (b : State) (hb : b.regs = []) : (b.pinned s).onlyAt [Reg.GLB_GPIO_IN, Reg.CKG_STATUS] := by
  have none_ : b.onlyAt [Reg.GLB_GPIO_IN, Reg.CKG_STATUS] := by intro e he; rw [hb] at he; exact nomatch he
  exact State.onlyAt_setReg (State.onlyAt_setReg none_ _ (.head _)) _ (.tail _ (.head _))

theorem State.flashCut_kept : s.flashCut.regs = s.regs ∧ s.flashCut.out = s.out ∧ s.flashCut.pending = s.pending ∧
    s.flashCut.ck.refclk = s.ck.refclk ∧ s.flashCut.ck.perst = s.ck.perst ∧ (s.ck.flashOp = none → s.flashCut.ck.flash = s.ck.flash) := by
  have moves : Moves [.ck, .free] s s.flashCut := State.flashCut_moves (.refl _ s) (by decide)
  refine ⟨moves.regs_eq (by decide), moves.out_eq (by decide), moves.only.1, ?_, ?_, fun idle => ?_⟩
  · unfold State.flashCut
    split
    · extract_lets t
      have kept : t.ck.refclk = s.ck.refclk := rfl
      split <;> exact kept
    · rfl
  · unfold State.flashCut
    split
    · extract_lets t
      have kept : t.ck.perst = s.ck.perst := rfl
      split <;> exact kept
    · rfl
  · unfold State.flashCut
    rw [idle]

/-- What a reset of the whole device leaves (R459, R475). -/
theorem State.wiped_spec : s.wiped.time = State.reset.time ∧ s.wiped.qe = State.reset.qe ∧ s.wiped.ts = State.reset.ts ∧
    s.wiped.fn = State.reset.fn ∧ s.wiped.mre = State.reset.mre ∧ s.wiped.ebm = State.reset.ebm ∧ s.wiped.pu = PairSt.zero ∧
    s.wiped.pm = PowerSt.zero ∧ s.wiped.pending = s.pending ∧ s.wiped.out = s.out ∧ s.wiped.reg Reg.GLB_GPIO_IN = s.reg Reg.GLB_GPIO_IN ∧
    s.wiped.flag Reg.CKG_STATUS_REFCLK_PRESENT = s.ck.refclk ∧ s.wiped.onlyAt [Reg.GLB_GPIO_IN, Reg.CKG_STATUS] ∧
    (s.ck.flashOp = none → s.wiped.ck.flash = s.ck.flash) := by
  obtain ⟨regs, out, pending, refclk, -, flash⟩ := s.flashCut_kept
  rw [State.wiped_eq, State.pinned]
  refine ⟨?_, ?_, ?_, ?_, ?_, ?_, ?_, ?_, ?_, ?_, ?_, ?_, State.pinned_onlyAt _ _ (State.blank_regs _), fun idle => ?_⟩
  · rw [State.setB_time, State.setReg_time, State.blank_time]
  · rw [State.setB_qe, State.setReg_qe, State.blank_qe]
  · rw [State.setB_ts, State.setReg_ts, State.blank_ts]
  · rw [State.setB_fn, State.setReg_fn, State.blank_fn]
  · rw [State.setB_mre, State.setReg_mre, State.blank_mre]
  · rw [State.setB_ebm, State.setReg_ebm, State.blank_ebm]
  · rw [State.setB_pu, State.setReg_pu, State.blank_pu]
  · rw [State.setB_pm, State.setReg_pm, State.blank_pm]
  · rw [State.setB_pending, State.setReg_pending, State.blank_pending, pending]
  · rw [State.setB_out, State.setReg_out, State.blank_out, out]
  · rw [State.setB_eq, State.reg_setF_other _ _ (by decide), State.reg_setReg, State.reg, regs, State.reg]
  · rw [State.flag_setB_same _ _ rfl rfl, refclk]
  · rw [State.setB_ck, State.setReg_ck, State.blank_ck]
    exact flash idle

theorem State.wiped_perst : s.wiped.ck.perst = s.ck.perst := by
  rw [State.wiped_eq, State.pinned, State.setB_ck, State.setReg_ck, State.blank_ck]
  exact s.flashCut_kept.2.2.2.2.1

/-! ## Release and fundamental reset (R466 to R468, R470) -/

theorem State.coldRelease_eq (straps : BitVec 7) (held : s.ck.porst = true) (on : s.pm.off = false) :
    s.coldRelease straps.toNat = (let v := s.updCk (fun c => { c with porst := false, i2c := straps.toNat / 16 % 8 })
      let w := (v.setReg Reg.RSQ_STRAPS (BitVec.ofNat 32 (straps.toNat % 128))).setF Reg.PU_CFG_SIDE (straps.toNat % 2)
      let x := w.setF Reg.PU_CFG_RANK (straps.toNat / 2 % 8)
      if s.ck.refclk then x.lockRoot else x) := by
  unfold State.coldRelease
  rw [if_neg (by simp [held, on])]
  rfl


theorem State.coldRelease_spec (straps : BitVec 7) (held : s.ck.porst = true) (on : s.pm.off = false) :
    let t := s.coldRelease straps.toNat
    t.ck.porst = false ∧ t.ck.i2c = straps.toNat / 16 ∧ t.reg Reg.RSQ_STRAPS = straps.setWidth 32 ∧ t.f Reg.PU_CFG_SIDE = straps.toNat % 2 ∧
      t.f Reg.PU_CFG_RANK = straps.toNat / 2 % 8 ∧
      (s.ck.refclk = true → t.time.run = true ∧ t.flag Reg.CKG_STATUS_ROOT_LOCK = true) := by
  rw [s.coldRelease_eq straps held on]
  extract_lets v w x t
  have wide : straps.toNat < 128 := straps.isLt
  have value : BitVec.ofNat 32 (straps.toNat % 128) = straps.setWidth 32 := by
    rw [Nat.mod_eq_of_lt wide]; exact BitVec.eq_of_toNat_eq (by simp)
  have strapped : x.ck.porst = false ∧ x.ck.i2c = straps.toNat / 16 ∧ x.reg Reg.RSQ_STRAPS = straps.setWidth 32 ∧
      x.f Reg.PU_CFG_SIDE = straps.toNat % 2 ∧ x.f Reg.PU_CFG_RANK = straps.toNat / 2 % 8 := by
    refine ⟨?_, ?_, ?_, ?_, ?_⟩
    · simp only [x, w, v, State.setF_ck, State.setReg_ck, State.updCk_ck]
    · simp only [x, w, v, State.setF_ck, State.setReg_ck, State.updCk_ck]
      omega
    · simp only [x, w]
      rw [State.reg_setF_other _ _ (by decide), State.reg_setF_other _ _ (by decide), State.reg_setReg, value]
    · simp (disch := decide) only [x, w, State.f_setF_apart, State.f_setF_same]
      exact Nat.mod_eq_of_lt (Nat.mod_lt _ (by decide))
    · simp (disch := decide) only [x, State.f_setF_same]
      exact Nat.mod_eq_of_lt (Nat.mod_lt _ (by decide))
  obtain ⟨porst, i2c, strap, side, rank⟩ := strapped
  by_cases lock : s.ck.refclk = true
  · have keep := x.regsBut_lockRoot
    rw [show t = x.lockRoot from if_pos lock, x.lockRoot_ck, keep _ (by decide), keep.f (by decide), keep.f (by decide)]
    exact ⟨porst, i2c, strap, side, rank, fun _ => ⟨x.lockRoot_run, x.lockRoot_status.1⟩⟩
  · rw [show t = x from if_neg lock]
    exact ⟨porst, i2c, strap, side, rank, fun yes => absurd yes lock⟩

theorem State.fundamentalNow_perst : s.fundamentalNow.ck.perst = s.ck.perst := by
  unfold State.fundamentalNow
  extract_lets straps r1 r2 r3 r4 r5 r6
  have m3 : Moves [.time, .regs] s.wiped r3 :=
    ((Moves.refl _ s.wiped).time (by decide) s.time).foldl fun _ _ h => State.setReg_moves h (by decide)
  have moves : Moves [.time, .regs] s.wiped r5 := State.setF_moves (State.setReg_moves (State.setF_moves (State.setB_moves m3
    (by decide)) (by decide)) (by decide)) (by decide)
  have last : Moves [.regs] r6 r6.freeRun.reselect := State.reselect_moves (State.moves_freeRun r6) (by decide)
  rw [last.ck_eq (by decide)]
  simp only [r6, State.updCk_ck, State.setF_ck]
  rw [moves.ck_eq (by decide), s.wiped_perst]

theorem State.abdicate_pu (h : s.role ≠ 0) : s.abdicate.pu.abdicate = true := by rw [State.abdicate, if_neg h, State.updPu_pu]

theorem State.abdicate_kept : Moves [.pu] s s.abdicate := State.abdicate_moves (.refl _ s) (by decide)

/-- The reset pin is low, and a fundamental reset waits for its mark. -/
def State.perstLow (s : State) : State := s.updCk (fun c => { c with perst := true })
def State.fundamentalWaits (s : State) : State := (s.perstLow.updCk (fun c => { c with fundamental := true })).abdicate

theorem State.fundamentalReset_eq : s.fundamentalReset = if s.ck.porst then s.perstLow
    else if s.time.run || s.inDormant then s.fundamentalWaits else s.fundamentalWaits.fundamentalNow := by
  have run : s.fundamentalWaits.time.run = s.time.run := by
    rw [State.fundamentalWaits, (State.abdicate_kept _).time_eq (by decide), State.updCk_time, State.perstLow, State.updCk_time]
  have asleep : s.fundamentalWaits.inDormant = s.inDormant := by
    rw [State.inDormant, State.fundamentalWaits, (State.abdicate_kept _).f_eq (by decide)]
    rfl
  rw [← run, ← asleep]
  rfl

theorem State.fundamentalWaits_ck : s.fundamentalWaits.ck = { s.ck with perst := true, fundamental := true } := by
  rw [State.fundamentalWaits, (State.abdicate_kept _).ck_eq (by decide), State.updCk_ck, State.perstLow, State.updCk_ck]

theorem State.fundamentalWaits_regs : s.fundamentalWaits.regs = s.regs := by
  rw [State.fundamentalWaits, (State.abdicate_kept _).regs_eq (by decide), State.updCk_regs, State.perstLow, State.updCk_regs]


theorem State.fundamentalWaits_abdicates (h : s.role ≠ 0) : s.fundamentalWaits.pu.abdicate = true := by
  refine State.abdicate_pu _ ?_
  rwa [State.role, State.updCk_f, State.perstLow, State.updCk_f]

/-! ## PERST_N and the warm reset (R460, R469, R470) -/

/-- The reset pin is high. -/
def State.perstHigh (s : State) : State := s.updCk (fun c => { c with perst := false })

theorem State.perstRelease_eq (low : s.ck.perst = true) : s.perstRelease = if s.inDormant then
    if s.pm.returning.isSome then s.perstHigh
    else (s.perstHigh.updPm (fun p => { p with returning := some (wakeCode .pcie) })).logWake (wakeCode .pcie) false
    else s.perstHigh.wake .pcie := by
  unfold State.perstRelease
  rw [if_pos low]
  rfl

/-- A warm reset is asked for, and its cause recorded. -/
def State.warmAsked (s : State) : State :=
  ((s.setF Reg.CKG_RESET_CAUSE_CAUSE 4).bump Reg.CKG_RESET_CAUSE_WARMS).updCk (fun c => { c with warm := true, warmMark := true })

theorem State.warmReset_eq {v : Word} (key : bits v 0 16 = 0x5752) (bit : bits v 16 1 = 1) (first : s.ck.warm = false) :
    s.warmReset v = s.warmAsked.abdicate := by
  unfold State.warmReset
  rw [if_neg (by simp [key, bit, first])]
  rfl

theorem State.warmReset_ignored {v : Word} (h : bits v 0 16 ≠ 0x5752 ∨ bits v 16 1 = 0) : s.warmReset v = s := by
  unfold State.warmReset
  rw [if_pos (h.elim .inl (fun h => .inr (.inl h)))]

theorem State.warmAsked_spec : s.warmAsked.ck.warm = true ∧ s.warmAsked.ck.warmMark = true ∧ s.warmAsked.f Reg.CKG_RESET_CAUSE_CAUSE = 4 ∧
    s.warmAsked.f Reg.CKG_RESET_CAUSE_WARMS = min (s.f Reg.CKG_RESET_CAUSE_WARMS + 1) 65535 ∧ s.warmAsked.role = s.role := by
  refine ⟨?_, ?_, ?_, ?_, ?_⟩
  · rw [State.warmAsked, State.updCk_ck]
  · rw [State.warmAsked, State.updCk_ck]
  · rw [State.warmAsked, State.updCk_f]
    simp (disch := decide) only [State.f_bump_apart, State.f_setF_same]
    decide
  · rw [State.warmAsked, State.updCk_f, State.f_bump_same _ _ (by decide), State.f_setF_apart _ _ (by decide)]
    rfl
  · rw [State.role, State.warmAsked, State.updCk_f, State.f_bump_apart _ _ (by decide), State.f_setF_apart _ _ (by decide), State.role]

end

theorem State.refPresent_lost (s : State) (r : RefSource) (h : s.refPresent r = true) : ∃ u : State, u.refPresent r = false ∧
    u.f Reg.CKG_REF_EVENTS_LOSSES = min (s.f Reg.CKG_REF_EVENTS_LOSSES + 1) 65535 ∧ s.refLost r = u.reselect := by
  unfold State.refLost
  rw [if_pos h]
  refine ⟨_, ?_, ?_, rfl⟩
  · cases r <;> simp only [State.refPresent, State.bump_eq, State.setF_ck, State.setB_ck, State.updCk_ck]
  · rw [State.f_bump_same _ _ (by decide)]
    cases r
    · rw [State.updCk_f]; rfl
    · rw [State.updCk_f]; rfl
    · rw [State.f_setB_apart _ _ (by decide), State.updCk_f]; rfl

/-- Settles O48: the locked root PLL, what a reset of the whole device leaves, and the two requests that wait for a mark. -/
theorem resetsTakeEffect : Obligations.ResetsTakeEffect := by
  unfold Obligations.ResetsTakeEffect
  intro s
  refine ⟨?_, ⟨?_, ?_⟩, ?_, ?_, ?_, ⟨?_, ?_⟩, ?_, ?_, ?_, ?_, ?_, ?_⟩
  · intro unlocked released
    let v := (s.updCk (fun c => { c with refclk := true })).setB Reg.CKG_STATUS_REFCLK_PRESENT true
    have lock : v.flag Reg.CKG_STATUS_ROOT_LOCK = false := by
      rw [State.flag_setB_apart _ _ (by decide), State.updCk_flag, unlocked]
    have ck : v.ck = { s.ck with refclk := true } := by rw [State.setB_ck, State.updCk_ck]
    have e : s.refAcquired .refclk = v.lockRoot := by
      change (if v.flag Reg.CKG_STATUS_ROOT_LOCK then v.reselect else if v.ck.porst then v else v.lockRoot) = v.lockRoot
      rw [if_neg (by simp [lock]), if_neg (by simp [ck, released])]
    obtain ⟨locked, src, present⟩ := v.lockRoot_status
    have status := State.freeRun_status ((v.setB Reg.CKG_STATUS_ROOT_LOCK true).setF Reg.CKG_STATUS_SRC 0).timeRuns
    refine answers_eq rfl e ⟨by rw [v.lockRoot_ck, ck], ?_, locked, src, v.lockRoot_run, ?_⟩
    · rw [present, State.flag_setB_same _ _ rfl rfl]
    · rw [v.lockRoot_eq]
      exact status
  · exact answers_of rfl ⟨_, by rw [State.updCk_ck], State.updCk_regs _ _, rfl⟩
  · exact answers_of rfl ⟨_, by rw [State.updCk_ck], State.updCk_regs _ _, rfl⟩
  · intro r present
    exact answers_of rfl (s.refPresent_lost r present)
  · obtain ⟨time, qe, ts, fn, mre, ebm, pu, pm, pending, out, gpio, present, at_, flash⟩ := s.wiped_spec
    intro i hi
    obtain rfl | rfl : i = .coldReset ∨ i = .supplyLoss := by simpa using hi
    · refine answers_of (t := s.coldReset) rfl ⟨?_, ?_, ?_, ?_, ?_, ?_, ?_, ?_, ?_, ?_, ?_, ?_, ?_, ?_, ?_, ?_⟩
      · rw [State.coldReset, State.updCk_ck]
      · rw [State.coldReset, State.updCk_time, time]
      · rw [State.coldReset, State.updCk_qe, qe]
      · rw [State.coldReset, State.updCk_ts, ts]
      · rw [State.coldReset, State.updCk_fn, fn]
      · rw [State.coldReset, State.updCk_mre, mre]
      · rw [State.coldReset, State.updCk_ebm, ebm]
      · rw [State.coldReset, State.updCk_pu, pu]
      · rw [State.coldReset, State.updCk_pending, pending]
      · rw [State.coldReset, State.updCk_out, out]
      · rw [State.coldReset, State.updCk_reg, gpio]
      · rw [State.coldReset, State.updCk_flag, present]
      · rw [State.coldReset, State.updCk_regs, List.all_eq_true]
        intro e he
        have := at_ e he
        simp only [List.mem_cons, List.not_mem_nil, or_false] at this
        simp only [Bool.or_eq_true, beq_iff_eq]
        exact .inl this
      · rw [State.coldReset, State.updCk_ck]
        exact flash
      · rw [State.coldReset, State.updCk_pm, pm]
        simp [PowerSt.zero]
      · exact fun h => nomatch h
    · refine answers_of (t := s.supplyLoss) rfl ⟨?_, ?_, ?_, ?_, ?_, ?_, ?_, ?_, ?_, ?_, ?_, ?_, ?_, ?_, ?_, ?_⟩
      · rw [State.supplyLoss, State.setF_ck, State.updPm_ck, State.coldReset, State.updCk_ck]
      · rw [State.supplyLoss, State.setF_time, State.updPm_time, State.coldReset, State.updCk_time, time]
      · rw [State.supplyLoss, State.setF_qe, State.updPm_qe, State.coldReset, State.updCk_qe, qe]
      · rw [State.supplyLoss, State.setF_ts, State.updPm_ts, State.coldReset, State.updCk_ts, ts]
      · rw [State.supplyLoss, State.setF_fn, State.updPm_fn, State.coldReset, State.updCk_fn, fn]
      · rw [State.supplyLoss, State.setF_mre, State.updPm_mre, State.coldReset, State.updCk_mre, mre]
      · rw [State.supplyLoss, State.setF_ebm, State.updPm_ebm, State.coldReset, State.updCk_ebm, ebm]
      · rw [State.supplyLoss, State.setF_pu, State.updPm_pu, State.coldReset, State.updCk_pu, pu]
      · rw [State.supplyLoss, State.setF_pending, State.updPm_pending, State.coldReset, State.updCk_pending, pending]
      · rw [State.supplyLoss, State.setF_out, State.updPm_out, State.coldReset, State.updCk_out, out]
      · rw [State.supplyLoss, State.reg_setF_other _ _ (by decide), State.updPm_reg, State.coldReset, State.updCk_reg, gpio]
      · rw [State.supplyLoss, State.flag_setF_apart _ _ (by decide), State.updPm_flag, State.coldReset, State.updCk_flag, present]
      · have at_ : s.supplyLoss.onlyAt [Reg.GLB_GPIO_IN, Reg.CKG_STATUS, Reg.PMU_STATUS] :=
          State.onlyAt_setReg (fun e he => by
            rw [State.updPm_regs, State.coldReset, State.updCk_regs] at he
            have := at_ e he
            simp only [List.mem_cons, List.not_mem_nil, or_false] at this ⊢
            exact this.elim .inl (fun h => .inr (.inl h))) _ (by decide)
        rw [List.all_eq_true]
        intro e he
        have := at_ e he
        simp only [List.mem_cons, List.not_mem_nil, or_false] at this
        simp only [Bool.or_eq_true, beq_iff_eq]
        exact or_assoc.mpr this
      · rw [State.supplyLoss, State.setF_ck, State.updPm_ck, State.coldReset, State.updCk_ck]
        exact flash
      · rw [State.supplyLoss, State.setF_pm, State.updPm_pm]
        exact iff_of_true rfl rfl
      · intro
        rw [State.supplyLoss, State.f_setF_same _ _ (by decide)]
        rfl
  · intro straps held on
    exact answers_of rfl (s.coldRelease_spec straps held on)
  · refine answers_eq rfl s.fundamentalReset_eq ⟨?_, fun released runs => ?_⟩
    · split
      next => rw [State.perstLow, State.updCk_ck]
      next =>
        split
        · rw [s.fundamentalWaits_ck]
        · rw [State.fundamentalNow_perst, s.fundamentalWaits_ck]
    · rw [if_neg (by simp [released]), if_pos (by simp [runs]), s.fundamentalWaits_ck]
      exact ⟨rfl, s.fundamentalWaits_abdicates, s.fundamentalWaits_regs⟩
  · intro released stands awake
    refine answers_eq rfl s.fundamentalReset_eq ⟨s.fundamentalWaits, by rw [s.fundamentalWaits_ck], by rw [s.fundamentalWaits_ck],
      s.fundamentalWaits_regs, ?_⟩
    rw [if_neg (by simp [released]), if_neg (by simp [stands, awake])]
  · intro runs fundamental
    refine answers_eq rfl (?_ : s.markRow = _) rfl
    rw [State.markRow, if_neg (by simp [runs]), if_pos fundamental]
  · intro runs no warm mark
    refine answers_eq rfl (?_ : s.markRow = (s.updCk (fun c => { c with warmMark := false })).mark.warmNow.afterMark)
      ⟨_, by rw [State.updCk_ck], by rw [State.updCk_ck]; exact warm, State.updCk_regs _ _, rfl⟩
    rw [State.markRow, if_neg (by simp [runs]), if_neg (by simp [no]), if_pos (by simp [warm, mark])]
  · intro low
    refine answers_eq rfl (s.perstRelease_eq low) ⟨?_, fun asleep fresh => ?_, fun awake => ?_⟩
    · have high : s.perstHigh.ck.perst = false := by rw [State.perstHigh, State.updCk_ck]
      split
      · split
        · exact high
        · rw [(State.logWake_moves (l_ := [.regs, .pm]) (.refl _ _) (by decide)).ck_eq (by decide), State.updPm_ck, high]
      · rw [(State.wake_moves (l_ := [.regs, .qe, .fn, .pu, .pm, .out]) (.refl _ _) (by decide)).ck_eq (by decide), high]
    · rw [if_pos asleep, if_neg (by simp [fresh])]
      refine ⟨by rw [State.logWake_pm, State.updPm_pm]; rfl, ?_⟩
      exact (State.logWake_log _ (by decide) _).1
    · rw [if_neg (by simp [awake])]
      exact ⟨s.perstHigh, by rw [State.perstHigh, State.updCk_ck], State.updCk_regs _ _, State.updCk_pm _ _, rfl⟩
  · intro v serves key bit first
    obtain ⟨warm, mark, cause, warms, role⟩ := s.warmAsked_spec
    have keep := s.warmAsked.abdicate_kept
    refine answers_eq rfl ((State.pfWrite_of_serves s serves _).trans (s.warmReset_eq key bit first)) ⟨?_, ?_, ?_, ?_, fun paired => ?_⟩
    · rw [keep.ck_eq (by decide), warm]
    · rw [keep.ck_eq (by decide), mark]
    · rw [keep.f_eq (by decide), cause]
    · rw [keep.f_eq (by decide), warms]
    · exact State.abdicate_pu _ (by rwa [role])
  · intro v serves bad
    exact answers_eq rfl ((State.pfWrite_of_serves s serves _).trans (s.warmReset_ignored bad)) rfl
  · intro halted
    refine answers_eq rfl (?_ : s.warmEnd = _) ⟨(s.updCk (fun c => { c with warm := false })).freeRun, _, ?_, ?_, rfl, rfl⟩
    · rw [State.warmEnd, if_pos halted]
    · rw [(State.moves_freeRun _).ck_eq (by decide), State.updCk_ck]
    · exact (State.freeRun_status _).2

end Sys2Proof.Machine

namespace Sys2Proof.Machine

/-! # Register writes follow the access codes (R7, R9) -/

section
variable (s : State) {a : Nat} (v : Word)

/-- Outside a formed pair no write is held (R288). -/
theorem State.pairHold_unformed (h : s.pairFormed = false) : s.pairHold a v = (s, v) := by
  rw [State.pairHold, h]
  exact if_pos (.inr rfl)

/-- Outside a formed pair a write is that of its register's block. -/
theorem State.putReg_unformed (h : s.pairFormed = false) (src : WakeSource) : s.putReg a v src = s.putBlock a v src := by
  rw [State.putReg, s.pairHold_unformed v h]
  split <;> rfl

/-- The registers of GLB, LNK and SV have no commands of their own. -/
theorem State.putBlock_plain (block : a / 0x100000 = 0 ∨ a / 0x100000 = 9 ∨ a / 0x100000 = 12) (src : WakeSource) :
    s.putBlock a v src = s.writeReg a v := by
  unfold State.putBlock
  obtain e | e | e := block <;> simp only [e]

/-- A whole register written through PF BAR0 (R7, R322). -/
theorem State.registerWrite_whole (aligned : a % 4 = 0) (serves : s.pfServes a) (low : a < doorbellBase) :
    s.registerWrite a v 15 = s.putReg a v .request := by
  unfold State.registerWrite
  rw [if_neg (by simp [aligned, serves.1]), if_neg (by omega), State.pfWrite_of_serves s serves]

end

/-- Settles O34: a plain register is written by the access codes of its fields. -/
theorem registerWritesFollowAccessCodes : Obligations.RegisterWritesFollowAccessCodes := by
  unfold Obligations.RegisterWritesFollowAccessCodes
  intro s a v aligned serves block unformed
  have low : a.toNat < doorbellBase := by rw [doorbellBase]; omega
  refine answers_eq rfl ((s.registerWrite_whole v aligned serves low).trans ((s.putReg_unformed v unformed _).trans
    (s.putBlock_plain v block _))) ⟨s.regsBut_writeReg _ v, ?_, s.reg_writeReg _ v⟩
  exact (State.writeReg_moves (l_ := [.regs]) (.refl _ s) (by decide)).out_eq (by decide)

end Sys2Proof.Machine

namespace Sys2Proof.Machine

/-! # Function-level resets (R324, R336, R365, R416, R423)

## Records of rings, functions and VFs after writes -/

theorem Tbl.get_of_absent {α : Type} {d : Nat → α} {m : Tbl α} {k : Nat} (h : ∀ e ∈ m, e.1 ≠ k) : Tbl.get d m k = d k := by
  induction m with
  | nil => rfl
  | cons e r ih =>
    obtain ⟨a, w⟩ := e
    simp only [Tbl.get, if_neg (h (a, w) (.head _))]
    exact ih fun e he => h e (.tail _ he)

section
variable (s : State)

theorem State.fnRec_updFn (f : Nat) (g : FnRec → FnRec) : (s.updFn f g).fnRec f = g (s.fnRec f) := Tbl.get_set_same _ _ _
theorem State.fnRec_updFn_other {f g : Nat} (h : g ≠ f) (k : FnRec → FnRec) : (s.updFn f k).fnRec g = s.fnRec g := Tbl.get_set_other _ _ h
theorem State.vfRec_updVf (v : Nat) (g : VfRec → VfRec) : (s.updVf v g).vfRec v = g (s.vfRec v) := Tbl.get_set_same _ _ _
theorem State.vfRec_updVf_other {v w : Nat} (h : w ≠ v) (g : VfRec → VfRec) : (s.updVf v g).vfRec w = s.vfRec w := Tbl.get_set_other _ _ h
theorem State.vfRec_setVf (v : Nat) (g : VfRec → VfRec) : (s.setVf v g).vfRec v = g (s.vfRec v) := s.vfRec_updVf v g
theorem State.vfRec_setVf_other {v w : Nat} (h : w ≠ v) (g : VfRec → VfRec) : (s.setVf v g).vfRec w = s.vfRec w := s.vfRec_updVf_other h g

variable {s}

theorem State.fnRec_of_fn {t : State} (h : t.fn.fns = s.fn.fns) (f : Nat) : t.fnRec f = s.fnRec f := by rw [State.fnRec, h, State.fnRec]
theorem State.vfRec_of_fn {t : State} (h : t.fn.vfs = s.fn.vfs) (v : Nat) : t.vfRec v = s.vfRec v := by rw [State.vfRec, h, State.vfRec]
theorem State.sq_of_qe {t : State} (h : t.qe.sqs = s.qe.sqs) (f i : Nat) : t.sq f i = s.sq f i := by rw [State.sq, h, State.sq]
theorem State.cq_of_qe {t : State} (h : t.qe.cqs = s.qe.cqs) (f i : Nat) : t.cq f i = s.cq f i := by rw [State.cq, h, State.cq]

variable (s)

theorem State.sq_setSq (f i : Nat) (r : Option SqRec) : (s.setSq f i r).sq f i = r := Tbl.get_set_same _ _ _
theorem State.cq_setCq (f i : Nat) (r : Option CqRec) : (s.setCq f i r).cq f i = r := Tbl.get_set_same _ _ _

/-! ## What a squash record leaves (R424) -/

/-- The records of the functions are the same, and those of the VFs but for the count of their squash records. -/
def State.sameFns (s t : State) : Prop := t.fn.pfReset = s.fn.pfReset ∧ t.fn.vfEnable = s.fn.vfEnable ∧ t.fn.fns = s.fn.fns ∧
  t.qe = s.qe ∧ ∀ v, (t.vfRec v).resetBusy = (s.vfRec v).resetBusy ∧ (t.vfRec v).frozen = (s.vfRec v).frozen

theorem State.sameFns.refl : s.sameFns s := ⟨rfl, rfl, rfl, rfl, fun _ => ⟨rfl, rfl⟩⟩

variable {s} in
theorem State.sameFns_of_fn {t : State} (hf : t.fn = s.fn) (hq : t.qe = s.qe) : s.sameFns t :=
  ⟨by rw [hf], by rw [hf], by rw [hf], hq, fun v => by
    rw [State.vfRec_of_fn (s := s) (t := t) (by rw [hf])]; exact ⟨rfl, rfl⟩⟩

variable {s} in
theorem State.sameFns.trans {t u : State} (h : s.sameFns t) (k : t.sameFns u) : s.sameFns u :=
  ⟨k.1.trans h.1, k.2.1.trans h.2.1, k.2.2.1.trans h.2.2.1, k.2.2.2.1.trans h.2.2.2.1,
    fun v => ⟨(k.2.2.2.2 v).1.trans (h.2.2.2.2 v).1, (k.2.2.2.2 v).2.trans (h.2.2.2.2 v).2⟩⟩

variable {s} in
theorem State.sameFns.foldl {α : Type} {f : State → α → State} (hf : ∀ t x, State.sameFns t (f t x)) (l : List α) :
    s.sameFns (l.foldl f s) := by
  induction l generalizing s with
  | nil => exact .refl s
  | cons x l ih => exact (hf s x).trans ih

theorem State.sameFns_setVf (v : Nat) {g : VfRec → VfRec} (hb : ∀ r, (g r).resetBusy = r.resetBusy) (hf : ∀ r, (g r).frozen = r.frozen) :
    s.sameFns (s.setVf v g) := by
  refine ⟨rfl, rfl, rfl, rfl, fun w => ?_⟩
  by_cases e : w = v
  · subst e
    rw [State.vfRec_setVf]
    exact ⟨hb _, hf _⟩
  · rw [State.vfRec_setVf_other _ e]
    exact ⟨rfl, rfl⟩

theorem State.sameFns_squash (r : EntryRef) (e : Sqe) (w u n : Nat) : s.sameFns (s.squash r e w u n) := by
  unfold State.squash
  extract_lets f old t
  have logged : s.sameFns t := by
    simp only [t]
    split
    · exact ⟨rfl, rfl, rfl, rfl, fun _ => ⟨rfl, rfl⟩⟩
    · exact State.sameFns_of_fn (by rw [State.bump_eq, State.setF_fn]) (by rw [State.bump_eq, State.setF_qe])
  split
  · exact logged
  · exact logged.trans (t.sameFns_setVf _ (fun _ => rfl) (fun _ => rfl))

/-! ## A reset begins (R336, R423) -/

theorem State.setCache_kept (c : List CacheEnt) : (s.setCache c).fn = s.fn ∧ (s.setCache c).qe.cache = c := by
  refine ⟨(State.setCache_moves (l_ := [.regs, .qe]) (.refl _ s) (by decide)).fn_eq (by decide), ?_⟩
  rw [State.setCache, (State.showCache_moves (l_ := [.regs]) (.refl _ _) (by decide)).qe_eq (by decide)]

theorem State.configReset_fnRec (f : Nat) : (s.configReset f).fnRec f =
    { s.fnRec f with d3hot := false, funcMask := false, unmasked := [], pending := [] } := s.fnRec_updFn f _

/-- The cached entries of the function leave with a squash record each. -/
def State.cacheLoses (s : State) (f : Nat) : State :=
  (s.qe.cache.filter (fun x => x.ref.fn.val == f)).foldl (fun (s : State) (x : CacheEnt) => s.squash x.ref x.sqe 0 0 0)
    (s.setCache (s.qe.cache.filter (fun x => x.ref.fn.val != f)))

theorem State.cacheLoses_kept (f : Nat) : (s.cacheLoses f).fn.pfReset = s.fn.pfReset ∧ (s.cacheLoses f).fn.vfEnable = s.fn.vfEnable ∧
    (∀ g, (s.cacheLoses f).fnRec g = s.fnRec g) ∧ (∀ x ∈ (s.cacheLoses f).qe.cache, x.ref.fn.val ≠ f) ∧
    ∀ v, ((s.cacheLoses f).vfRec v).resetBusy = (s.vfRec v).resetBusy ∧ ((s.cacheLoses f).vfRec v).frozen = (s.vfRec v).frozen := by
  obtain ⟨fn, cache⟩ := s.setCache_kept (s.qe.cache.filter (fun x => x.ref.fn.val != f))
  obtain ⟨pf, vf, fns, qe, recs⟩ := State.sameFns.foldl (s := s.setCache (s.qe.cache.filter (fun x => x.ref.fn.val != f)))
    (fun t (x : CacheEnt) => t.sameFns_squash x.ref x.sqe 0 0 0) (s.qe.cache.filter (fun x => x.ref.fn.val == f))
  refine ⟨pf.trans (by rw [fn]), vf.trans (by rw [fn]), fun g => State.fnRec_of_fn (fns.trans (by rw [fn])) g, fun x hx => ?_, fun v => ?_⟩
  · rw [State.cacheLoses, qe, cache] at hx
    simpa using (List.mem_filter.mp hx).2
  · obtain ⟨busy, frozen⟩ := recs v
    rw [State.vfRec_of_fn (s := s) (t := s.setCache _) (by rw [fn])] at busy frozen
    exact ⟨busy, frozen⟩

/-- The reset of the PF begins. -/
def State.pfLoses (s : State) : State := { s with fn := { s.fn with pfReset := true } }

theorem State.flrLoses_pf : s.flrLoses 0 = (s.pfLoses.configReset 0).cacheLoses 0 := rfl

/-- The reset of a VF begins. -/
def State.vfLoses (s : State) (v : Nat) : State := s.setVf v (fun q => { q with
  resetBusy := true, frozen := false, saved := false, restored := false, squashed := 0, freezing := [], held := [], late := [], lateLost := 0 })

theorem State.flrLoses_vf (v : Nat) : s.flrLoses (v + 1) = (((s.vfRec v).freezing.foldl
    (fun (s : State) (r : EntryRef) => s.completeRef r St.aborted) (s.vfLoses v)).configReset (v + 1)).cacheLoses (v + 1) := rfl

theorem State.flrStart_idle {f : Nat} (h : s.inReset f = false) : s.flrStart f = (s.flrLoses f).flrEnds f := by
  rw [State.flrStart, h]
  rfl

theorem State.flrLoses_pf_spec : (s.flrLoses 0).fn.pfReset = true ∧ (s.flrLoses 0).fn.vfEnable = s.fn.vfEnable ∧ (s.flrLoses 0).d3hot 0 = false ∧
    ((s.flrLoses 0).fnRec 0).pending = [] ∧ ∀ x ∈ (s.flrLoses 0).qe.cache, x.ref.fn.val ≠ 0 := by
  obtain ⟨pf, vf, recs, cache, -⟩ := (s.pfLoses.configReset 0).cacheLoses_kept 0
  rw [State.flrLoses_pf, State.d3hot, pf, vf, recs, State.configReset_fnRec]
  exact ⟨rfl, rfl, rfl, rfl, cache⟩

theorem State.flrLoses_vf_spec (v : Nat) : ((s.vfRec v).freezing = [] → ((s.flrLoses (v + 1)).vfRec v).resetBusy = true ∧
      ((s.flrLoses (v + 1)).vfRec v).frozen = false) ∧ (s.flrLoses (v + 1)).d3hot (v + 1) = false ∧
    ((s.flrLoses (v + 1)).fnRec (v + 1)).pending = [] ∧ ((s.flrLoses (v + 1)).fnRec (v + 1)).unmasked = [] ∧
    ∀ x ∈ (s.flrLoses (v + 1)).qe.cache, x.ref.fn.val ≠ v + 1 := by
  rw [State.flrLoses_vf]
  generalize hl : List.foldl (fun (s : State) (r : EntryRef) => s.completeRef r St.aborted) (s.vfLoses v) (s.vfRec v).freezing = w
  obtain ⟨-, -, recs, cache, vfs⟩ := (w.configReset (v + 1)).cacheLoses_kept (v + 1)
  rw [State.d3hot, recs, State.configReset_fnRec]
  refine ⟨fun none_ => ?_, rfl, rfl, rfl, cache⟩
  obtain ⟨busy, frozen⟩ := vfs v
  rw [none_] at hl
  rw [busy, frozen, State.vfRec_of_fn (s := w) (t := w.configReset (v + 1)) rfl, ← hl]
  exact ⟨congrArg VfRec.resetBusy (s.vfRec_setVf v _), congrArg VfRec.frozen (s.vfRec_setVf v _)⟩

/-! ## A reset is complete (R365, R423) -/

/-- A fold whose every step deletes the key of its element leaves none of the elements' keys. -/
theorem foldl_gone {α : Type} {gone : State → Nat → Prop} {f : State → α → State} {key : α → Nat} (hit : ∀ t x, gone (f t x) (key x))
    (stay : ∀ t x k, gone t k → gone (f t x) k) (l : List α) (t : State) {k : Nat} (h : gone t k ∨ ∃ x ∈ l, key x = k) :
    gone (l.foldl f t) k := by
  induction l generalizing t with
  | nil => exact h.elim id fun ⟨_, hx, _⟩ => nomatch hx
  | cons y l ih =>
    refine ih (f t y) ?_
    obtain h | ⟨x, hx, e⟩ := h
    · exact .inl (stay t y k h)
    · obtain rfl | hx := List.mem_cons.mp hx
      · exact .inl (e ▸ hit t x)
      · exact .inr ⟨x, hx, e⟩

/-- There is no completion ring under the key, and none of submission. -/
def State.noCq (s : State) (k : Nat) : Prop := Tbl.get (fun _ => none) s.qe.cqs k = none
def State.noSq (s : State) (k : Nat) : Prop := Tbl.get (fun _ => none) s.qe.sqs k = none

theorem State.dropCq_tables (f i : Nat) : (s.dropCq f i).qe.sqs = s.qe.sqs ∧
    (s.dropCq f i).qe.cqs = Tbl.set (fun _ => none) s.qe.cqs (rk f i) none := by
  unfold State.dropCq
  rw [State.setF_qe]
  exact ⟨rfl, rfl⟩

theorem State.dropSq_tables (f i : Nat) : (s.dropSq f i).qe.cqs = s.qe.cqs ∧
    (s.dropSq f i).qe.sqs = Tbl.set (fun _ => none) s.qe.sqs (rk f i) none := by
  unfold State.dropSq
  rw [State.setF_qe]
  exact ⟨rfl, rfl⟩

theorem Tbl.get_set_none {α : Type} [DecidableEq α] (m : Tbl (Option α)) (a k : Nat) (h : Tbl.get (fun _ => none) m k = none ∨ a = k) :
    Tbl.get (fun _ => none) (Tbl.set (fun _ => none) m a none) k = none := by
  by_cases e : k = a
  · rw [e, Tbl.get_set_same]
  · rw [Tbl.get_set_other _ _ e]
    exact h.resolve_right (Ne.symm e)

theorem State.eventOff_moves' (cq en : Fld) (g : Nat) : Moves [.regs] s (s.eventOff cq en g) := State.eventOff_moves (.refl _ s) (by decide)

/-- The rings of the function beside its admin rings. -/
def ownKey (f k : Nat) : Bool := k / 2048 == f && decide (2 ≤ k % 2048)

/-- The completion rings of a function go. -/
def State.resetCqs (s : State) (f : Nat) : State :=
  (s.qe.cqs.filter (fun e => ownKey f e.1)).foldl (fun (s : State) (e : Nat × Option CqRec) =>
    let g := match e.2 with | some c => c.glob | none => Config.ringCount
    let s := s.eventOff Reg.TM_EVENT_CTRL_CQ Reg.TM_EVENT_CTRL_EN g
    let s := s.eventOff Reg.SV_EVENT_CTRL_CQ Reg.SV_EVENT_CTRL_EN g
    (s.eventOff Reg.PU_EVENT_CTRL_CQ Reg.PU_EVENT_CTRL_EN g).dropCq f (e.1 % 2048)) s

/-- Its submission rings go. -/
def State.resetSqs (s : State) (f : Nat) : State :=
  (s.qe.sqs.filter (fun e => ownKey f e.1)).foldl (fun (s : State) (e : Nat × Option SqRec) => s.dropSq f (e.1 % 2048)) s

/-- What waits for its rings goes, and its DMA windows. -/
def State.resetWindows (s : State) (f : Nat) : State := { s with
  qe := { s.qe with doorbells := s.qe.doorbells.filter (fun d => d.1 != f), rsbs := s.qe.rsbs.filter (fun d => d.1 != f) }
  bm := { s.bm with windows := Tbl.keep (fun k => k / 64 != f) s.bm.windows } }

/-- Its admin rings start anew. -/
def State.resetAdmin (s : State) (f : Nat) : State :=
  let s := s.updSq f 0 (fun r => { r with pos := 0, skip := [], first := none, again := false, invalAgain := false, scanning := false })
  let s := s.updCq f 1 (fun c => { c with pos := 0, credit := 0, overflow := false, hold := [], waiting := [], sinceSig := 0,
                                          winStart := none, scanning := false, again := false })
  ((s.showPos f 0).showPos f 1).writeRsbCq f 1

/-- Its views are cleared. -/
def State.resetViews (s : State) (f : Nat) : State :=
  (s.xb.views.filter (fun v => viewFn v.1 == f)).foldl (fun (s : State) (v : Nat × ViewRec) =>
    State.setF (State.setB { s with xb := { s.xb with views := Tbl.del s.xb.views v.1 } } (faultedF v.1) false) (dropsF v.1) 0) s

theorem State.resetDone_vf (v : Nat) : s.resetDone (v + 1) =
    (((((s.resetCqs (v + 1)).resetSqs (v + 1)).resetWindows (v + 1)).resetAdmin (v + 1)).resetViews (v + 1) |>.setVf v
      (fun r => { r with resetBusy := false })).scanCq (v + 1) 1 := rfl


variable {s}

theorem State.noCq_of_qe {t : State} {k : Nat} (h : s.noCq k) (e : t.qe.cqs = s.qe.cqs) : t.noCq k := by rwa [State.noCq, e]
theorem State.noSq_of_qe {t : State} {k : Nat} (h : s.noSq k) (e : t.qe.sqs = s.qe.sqs) : t.noSq k := by rwa [State.noSq, e]

theorem State.noCq_updCq {k : Nat} (h : s.noCq k) (f i : Nat) (g : CqRec → CqRec) : (s.updCq f i g).noCq k := by
  unfold State.updCq
  split
  next r hr =>
    have other : k ≠ rk f i := by rintro rfl; rw [State.noCq, ← State.cq, hr] at h; exact nomatch h
    rw [State.noCq] at h ⊢
    rwa [State.setCq, Tbl.get_set_other _ _ other]
  next => exact h

theorem State.noSq_updSq {k : Nat} (h : s.noSq k) (f i : Nat) (g : SqRec → SqRec) : (s.updSq f i g).noSq k := by
  unfold State.updSq
  split
  next r hr =>
    have other : k ≠ rk f i := by rintro rfl; rw [State.noSq, ← State.sq, hr] at h; exact nomatch h
    rw [State.noSq] at h ⊢
    rwa [State.setSq, Tbl.get_set_other _ _ other]
  next => exact h

theorem State.updSq_cqs (f i : Nat) (g : SqRec → SqRec) : (s.updSq f i g).qe.cqs = s.qe.cqs := by
  unfold State.updSq
  split <;> rfl

theorem State.updCq_sqs (f i : Nat) (g : CqRec → CqRec) : (s.updCq f i g).qe.sqs = s.qe.sqs := by
  unfold State.updCq
  split <;> rfl

/-- The start of a scan changes the ring's own record. -/
theorem State.scanCq_kept (f i : Nat) : (s.scanCq f i).qe.sqs = s.qe.sqs ∧ (s.scanCq f i).fn.vfs = s.fn.vfs ∧
    ∀ k, s.noCq k → (s.scanCq f i).noCq k := by
  have upd (g : CqRec → CqRec) : (s.updCq f i g).qe.sqs = s.qe.sqs ∧ (s.updCq f i g).fn.vfs = s.fn.vfs ∧
      ∀ k, s.noCq k → (s.updCq f i g).noCq k :=
    ⟨State.updCq_sqs f i g, congrArg FnSt.vfs ((State.updCq_moves (l_ := [.qe]) (.refl _ s) (by decide)).fn_eq (by decide)),
      fun k h => State.noCq_updCq h f i g⟩
  unfold State.scanCq
  split
  next => exact ⟨rfl, rfl, fun _ h => h⟩
  next c _ =>
    split
    · exact ⟨rfl, rfl, fun _ h => h⟩
    · split
      · split
        · exact upd _
        · exact upd _
      · unfold State.keepDoorbell
        split
        · exact ⟨rfl, rfl, fun _ h => h⟩
        · exact ⟨rfl, rfl, fun _ h => h⟩

theorem ownKey_rk {f i : Nat} (low : 2 ≤ i) (high : i < 2048) : ownKey f (rk f i) = true := by
  rw [ownKey, rk, Bool.and_eq_true, beq_iff_eq, decide_eq_true_eq]
  omega

theorem rk_of_ownKey {f k : Nat} (h : ownKey f k = true) : rk f (k % 2048) = k := by
  simp only [ownKey, Bool.and_eq_true, beq_iff_eq, decide_eq_true_eq] at h
  rw [rk, ← h.1]
  omega

variable (s)

theorem State.resetCqs_noCq {f k : Nat} (own : ownKey f k = true) : (s.resetCqs f).noCq k := by
  refine foldl_gone (gone := State.noCq) (key := fun (e : Nat × Option CqRec) => rk f (e.1 % 2048)) (fun t x => ?_) (fun t x k h => ?_) _ s ?_
  · extract_lets g t1 t2
    rw [State.noCq, (State.dropCq_tables _ _ _).2]
    exact Tbl.get_set_none _ _ _ (.inr rfl)
  · extract_lets g t1 t2
    rw [State.noCq, (State.dropCq_tables _ _ _).2]
    refine Tbl.get_set_none _ _ _ (.inl (State.noCq_of_qe h ?_))
    simp only [t2, t1, (State.eventOff_moves' _ _ _ _).qe_eq (by decide : ([Part.regs].contains Part.qe) = false)]
  · by_cases there : ∃ e ∈ s.qe.cqs, e.1 = k
    · obtain ⟨e, he, rfl⟩ := there
      exact .inr ⟨e, List.mem_filter.mpr ⟨he, own⟩, rk_of_ownKey own⟩
    · exact .inl (Tbl.get_of_absent fun e he => fun h => there ⟨e, he, h⟩)

theorem State.resetSqs_noSq {f k : Nat} (own : ownKey f k = true) : (s.resetSqs f).noSq k := by
  refine foldl_gone (gone := State.noSq) (key := fun (e : Nat × Option SqRec) => rk f (e.1 % 2048)) (fun t x => ?_) (fun t x k h => ?_) _ s ?_
  · rw [State.noSq, (State.dropSq_tables _ _ _).2]
    exact Tbl.get_set_none _ _ _ (.inr rfl)
  · rw [State.noSq, (State.dropSq_tables _ _ _).2]
    exact Tbl.get_set_none _ _ _ (.inl h)
  · by_cases there : ∃ e ∈ s.qe.sqs, e.1 = k
    · obtain ⟨e, he, rfl⟩ := there
      exact .inr ⟨e, List.mem_filter.mpr ⟨he, own⟩, rk_of_ownKey own⟩
    · exact .inl (Tbl.get_of_absent fun e he => fun h => there ⟨e, he, h⟩)

theorem State.resetSqs_cqs (f : Nat) : (s.resetSqs f).qe.cqs = s.qe.cqs := by
  unfold State.resetSqs
  generalize s.qe.sqs.filter (fun e => ownKey f e.1) = l
  induction l generalizing s with
  | nil => rfl
  | cons e l ih => exact (ih _).trans (s.dropSq_tables _ _).1

theorem State.resetAdmin_kept (f : Nat) : (∀ k, s.noSq k → (s.resetAdmin f).noSq k) ∧ (∀ k, s.noCq k → (s.resetAdmin f).noCq k) := by
  unfold State.resetAdmin
  extract_lets t u
  have shown : (((u.showPos f 0).showPos f 1).writeRsbCq f 1).qe = u.qe := by
    have last (x : State) : (x.writeRsbCq f 1).qe = x.qe := by
      unfold State.writeRsbCq
      split
      · rw [if_pos rfl, State.setB_qe]
      · rfl
    rw [last, (State.showPos_moves (l_ := [.regs]) (.refl _ _) (by decide)).qe_eq (by decide),
      (State.showPos_moves (l_ := [.regs]) (.refl _ _) (by decide)).qe_eq (by decide)]
  refine ⟨fun k h => ?_, fun k h => ?_⟩
  · exact State.noSq_of_qe (State.noSq_of_qe (State.noSq_updSq h f 0 _) (State.updCq_sqs f 1 _)) (congrArg QueueSt.sqs shown)
  · exact State.noCq_of_qe (State.noCq_updCq (State.noCq_of_qe h (State.updSq_cqs f 0 _)) f 1 _) (congrArg QueueSt.cqs shown)

theorem State.resetViews_moves' (f : Nat) : Moves [.xb, .regs] s (s.resetViews f) :=
  Moves.foldl (.refl _ s) fun _ _ h => State.setF_moves (State.setB_moves (h.xb (by decide) _) (by decide)) (by decide)


theorem State.resetAdmin_moves (f : Nat) : Moves [.qe, .regs, .fn, .out] s (s.resetAdmin f) :=
  State.writeRsbCq_moves (State.showPos_moves (State.showPos_moves (State.updCq_moves (State.updSq_moves (.refl _ s) (by decide)) (by decide))
    (by decide)) (by decide)) (by decide)

/-- What a VF whose reset is complete has left (R365, R423). -/
theorem State.resetDone_vf_spec (v : Nat) : ((s.resetDone (v + 1)).vfRec v).resetBusy = false ∧
    (∀ i, 2 ≤ i → i < 2048 → (s.resetDone (v + 1)).sq (v + 1) i = none ∧ (s.resetDone (v + 1)).cq (v + 1) i = none) ∧
    (∀ j, j < 64 → Tbl.get (fun _ => none) (s.resetDone (v + 1)).bm.windows ((v + 1) * 64 + j) = none) := by
  rw [s.resetDone_vf]
  generalize hw : ((s.resetCqs (v + 1)).resetSqs (v + 1)).resetWindows (v + 1) = w
  have viewed := (w.resetAdmin (v + 1)).resetViews_moves' (v + 1)
  generalize hx : (w.resetAdmin (v + 1)).resetViews (v + 1) = x at viewed
  have recorded : Moves [.regs, .fn] x (x.setVf v (fun r => { r with resetBusy := false })) := State.setVf_moves (.refl _ x) (by decide)
  obtain ⟨sqs, vfs, cqs⟩ := State.scanCq_kept (s := x.setVf v (fun r => { r with resetBusy := false })) (v + 1) 1
  refine ⟨?_, fun i low high => ⟨?_, ?_⟩, fun j hj => ?_⟩
  · rw [State.vfRec_of_fn vfs, State.vfRec_setVf]
  · have gone : w.noSq (rk (v + 1) i) := by
      rw [← hw]
      exact State.resetSqs_noSq _ (ownKey_rk low high)
    refine State.noSq_of_qe ((w.resetAdmin_kept (v + 1)).1 _ gone) (sqs.trans ?_)
    rw [recorded.qe_eq (by decide), viewed.qe_eq (by decide)]
  · have gone : w.noCq (rk (v + 1) i) := by
      rw [← hw]
      exact State.noCq_of_qe (s.resetCqs_noCq (ownKey_rk low high)) (State.resetSqs_cqs _ _)
    refine cqs _ (State.noCq_of_qe ((w.resetAdmin_kept (v + 1)).2 _ gone) ?_)
    rw [recorded.qe_eq (by decide), viewed.qe_eq (by decide)]
  · have scanned : Moves [.qe, .fn, .out] _ ((x.setVf v (fun r => { r with resetBusy := false })).scanCq (v + 1) 1) :=
      State.scanCq_moves (.refl _ _) (by decide)
    rw [scanned.bm_eq (by decide), recorded.bm_eq (by decide), viewed.bm_eq (by decide), (w.resetAdmin_moves (v + 1)).bm_eq (by decide), ← hw]
    change Tbl.get (fun _ => none) (Tbl.keep (fun k => k / 64 != v + 1) _) _ = none
    have other : (((v + 1) * 64 + j) / 64 != v + 1) = false := by
      rw [bne_eq_false_iff_eq]
      omega
    rw [Tbl.get_keep, other]
    rfl

end

/-- VF Enable is cleared. -/
def State.vfsOff (s : State) : State := { s with fn := { s.fn with vfEnable := false } }

/-- Settles O33: the resets of the PF, of a VF, and of all of them when VF Enable is cleared. -/
theorem functionsAreReset : Obligations.FunctionsAreReset := by
  unfold Obligations.FunctionsAreReset
  intro s v
  refine ⟨?_, ?_, ?_, ?_, fun en n => ⟨?_, ?_, ?_⟩⟩
  · intro idle off
    obtain ⟨pf, vf, hot, pending, cache⟩ := s.vfsOff.flrLoses_pf_spec
    refine answers_eq rfl (t := (s.vfsOff.flrLoses 0).flrEnds 0) ?_ ⟨s.vfsOff.flrLoses 0, pf, vf, hot, pending, cache, rfl⟩
    rw [State.resetAll, State.liveVfs, off]
    exact State.flrStart_idle _ idle
  · intro on
    let u := s.forAll (List.range s.fn.numVfs) (fun y k => y.flrStart (k + 1))
    refine answers_eq rfl (t := u.vfsOff.flrStart 0) ?_ ⟨u, u.vfsOff, rfl, rfl, rfl, rfl⟩
    rw [State.resetAll, State.liveVfs, if_pos on]
    rfl
  · intro there idle
    obtain ⟨recs, hot, pending, unmasked, cache⟩ := s.flrLoses_vf_spec v.val
    refine answers_eq rfl (t := (s.flrLoses (v.val + 1)).flrEnds (v.val + 1)) ?_ ⟨_, recs, hot, pending, unmasked, cache, rfl⟩
    rw [if_pos there, s.flrStart_idle idle]
  · intro busy ready
    exact answers_eq rfl (if_pos (Bool.and_eq_true_iff.mpr ⟨busy, ready⟩)) (s.resetDone_vf_spec v.val)
  · intro off
    refine answers_eq rfl (?_ : s.vfEnableWrite en n.toNat = { s with fn := { s.fn with
      vfEnable := en, numVfs := if n.toNat ≤ 1024 then n.toNat else s.fn.numVfs } }) ⟨rfl, rfl⟩
    rw [State.vfEnableWrite, off]
    rfl
  · intro on set_
    refine answers_eq rfl (?_ : s.vfEnableWrite en n.toNat = s) rfl
    rw [State.vfEnableWrite, on, set_]
    rfl
  · intro on clear
    let u := s.forAll s.liveVfs (fun s v => s.flrStart (v + 1))
    refine answers_eq rfl (?_ : s.vfEnableWrite en n.toNat = u.vfsOff) rfl
    rw [State.vfEnableWrite, on, clear]
    rfl

end Sys2Proof.Machine

namespace Sys2Proof.Machine

/-! # Submission entries start and complete (R346, R348, R353, R356, R359) -/

section
variable {s t u : State} {r : EntryRef} {w x : Sqe}

/-! ## The start -/

theorem State.startWith_of_starting (h : s.starting r w x u) (run : State → State) : s.startWith r w run = (run u).serveSpace := by
  obtain ⟨rfl, ⟨may, ok, engine⟩, rfl⟩ := h
  have going : ¬ (match sqeChan x with | some c => (s.begun r x).stopped (c / 64) | none => false) = true := by
    cases e : sqeChan x with
    | none => exact Bool.false_ne_true
    | some c => exact Bool.not_eq_true _ ▸ engine c e
  rw [State.startWith, if_pos may, State.startEntry, if_neg (by rw [ok]; exact fun h => h rfl)]
  exact congrArg State.serveSpace (if_neg going)

theorem State.begun_moves (s : State) (r : EntryRef) (e : Sqe) : Moves [.regs, .qe] s (s.begun r e) := State.startRec_moves (.refl _ s) (by decide)

/-- The registers that show the entry cache and the executor. -/
def startRegs : List Nat := [Reg.QE_CACHE_USED, Reg.QE_STATUS]

theorem State.regsBut_setCache (s : State) (c : List CacheEnt) : s.regsBut startRegs (s.setCache c) :=
  have used := ((State.regsBut.refl startRegs s).keep (u := { s with qe := { s.qe with cache := c } }) rfl).setF
    (x := Reg.QE_CACHE_USED_USED) c.length (.head _)
  (State.regsBut.ite (fun _ => used.setF (x := Reg.QE_CACHE_USED_HIGH) c.length (.head _)) (fun _ => used)).setB
    (x := Reg.QE_STATUS_CACHE_FULL) _ (.tail _ (.head _))

theorem State.regsBut_begun (s : State) (r : EntryRef) (e : Sqe) : s.regsBut startRegs (s.begun r e) :=
  ((s.regsBut_setCache _).keep (u := { s.setCache _ with qe := { (s.setCache _).qe with
    started := (s.setCache _).qe.started ++ [⟨r, e, (placeOf r e).1, (placeOf r e).2⟩] } }) rfl).setB
    (x := Reg.QE_STATUS_EXEC_BUSY) _ (.tail _ (.head _))

/-- The rings' records stay, and the entry joins the started ones. -/
theorem State.begun_qe (s : State) (r : EntryRef) (e : Sqe) : (s.begun r e).qe.sqs = s.qe.sqs ∧ (s.begun r e).qe.cqs = s.qe.cqs ∧
    (s.begun r e).qe.started = s.qe.started ++ [⟨r, e, (placeOf r e).1, (placeOf r e).2⟩] := by
  have cache (c : List CacheEnt) : (s.setCache c).qe = { s.qe with cache := c } := by
    rw [State.setCache, (State.showCache_moves (l_ := [.regs]) (.refl _ _) (by decide)).qe_eq (by decide)]
  have e : (s.begun r e).qe = { s.qe with
      cache := removeFirst (fun x => x.ref == r) s.qe.cache, started := s.qe.started ++ [⟨r, e, (placeOf r e).1, (placeOf r e).2⟩] } := by
    rw [State.begun, State.startRec, State.showExec, State.setB_qe, cache]
  rw [e]
  exact ⟨rfl, rfl, rfl⟩

/-! ## A completion that is written at once (R346, R348, R359) -/

/-- The completion ring is there, at its position; nothing else of it is said. -/
def State.cqAt (s : State) (f i pos : Nat) : Prop := ∃ c, s.cq f i = some c ∧ c.pos = pos

theorem State.signal_qe (s : State) (f v : Nat) : (s.signal f v).qe = s.qe :=
  (State.signal_moves (l_ := [.fn, .out]) (.refl _ s) (by decide)).qe_eq (by decide)

theorem State.signalCq_kept {f i pos : Nat} (h : s.cqAt f i pos) : (s.signalCq f i).cqAt f i pos ∧ (s.signalCq f i).qe.sqs = s.qe.sqs := by
  obtain ⟨c, hc, rfl⟩ := h
  rw [State.signalCq, hc]
  refine ⟨⟨{ c with sinceSig := 0, winStart := none }, ?_, rfl⟩, ?_⟩
  · rw [State.cq, State.signal_qe]
    exact s.cq_setCq f i _
  · rw [State.signal_qe]
    rfl

theorem State.nextWindow_kept {f i pos : Nat} (q : Cqe) (h : s.cqAt f i pos) :
    (s.nextWindow f i q).cqAt f i pos ∧ (s.nextWindow f i q).qe.sqs = s.qe.sqs := by
  have set_ (c : CqRec) (e : c.pos = pos) : (s.setCq f i (some c)).cqAt f i pos ∧ (s.setCq f i (some c)).qe.sqs = s.qe.sqs :=
    ⟨⟨c, s.cq_setCq f i _, e⟩, rfl⟩
  obtain ⟨c, hc, rfl⟩ := id h
  rw [State.nextWindow, hc]
  dsimp only
  split
  · exact set_ _ rfl
  · rw [State.moderationOver, hc]
    dsimp only
    split
    · split
      · exact State.signalCq_kept h
      · exact set_ _ rfl
    · exact ⟨h, rfl⟩

theorem State.mem_out_of_moves {l : List Part} {e : Emit} (h : Moves l s t) (he : e ∈ s.out) : e ∈ t.out := h.out.subset he

/-- What goes to the host for a completion: its CQE, and the SQE with OWN = 0. -/
def cqeEmits (f i pos : Nat) (q : Cqe) (head : Nat) : List Emit :=
  .cqe f i pos (cqeDws q head) :: (match q.wb with
    | some (r, dw0) => [.sqe r.fn.val r.sq.toNat r.idx.toNat (putBits dw0 0 1 0)]
    | none => [])

/-- The CQE of a ring goes out first; the write-back, the new position and the message follow. -/
theorem State.writeCqe_out {f i pos : Nat} (q : Cqe) (h : s.cqAt f i pos) : cqeEmits f i pos q (s.sqHead f q) ⊆ (s.writeCqe f i q).out := by
  obtain ⟨⟨c, hc, rfl⟩, sqs⟩ := State.nextWindow_kept q h
  have head : (s.nextWindow f i q).sqHead f q = s.sqHead f q := by rw [State.sqHead, State.sq_of_qe sqs, State.sqHead]
  rw [State.writeCqe, hc, ← head]
  generalize s.nextWindow f i q = v
  dsimp only
  have sent : Emit.cqe f i c.pos (cqeDws q (v.sqHead f q)) ∈ (v.sendHost (.cqe f i c.pos (cqeDws q (v.sqHead f q)))).out := .head _
  rw [cqeEmits]
  generalize Emit.cqe f i c.pos (cqeDws q (v.sqHead f q)) = x at sent
  have shown (c' : CqRec) : x ∈ (((v.sendHost x).setCq f i (some c')).showPos f i).out :=
    State.mem_out_of_moves (l := [.regs, .qe]) (State.showPos_moves (State.setCq_moves (.refl _ _) (by decide)) (by decide)) sent
  have back (c' : CqRec) : x :: (match q.wb with
      | some (r, dw0) => [.sqe r.fn.val r.sq.toNat r.idx.toNat (putBits dw0 0 1 0)]
      | none => []) ⊆ (match q.wb with
      | some (r, dw0) => (((v.sendHost x).setCq f i (some c')).showPos f i).sendHost (.sqe r.fn.val r.sq.toNat r.idx.toNat (putBits dw0 0 1 0))
      | none => ((v.sendHost x).setCq f i (some c')).showPos f i).out := by
    split
    · exact List.cons_subset.mpr ⟨.tail _ (shown c'), List.cons_subset.mpr ⟨.head _, List.nil_subset _⟩⟩
    · exact List.cons_subset.mpr ⟨shown c', List.nil_subset _⟩
  exact fun e he => State.mem_out_of_moves (l := [.qe, .fn, .out])
    (.ite (fun _ => State.signalCq_moves (.refl _ _) (by decide)) (fun _ => .refl _ _)) (back _ he)

theorem State.reports_begun {q : SqRec} {c : CqRec} (h : s.reports r q c) (r' : EntryRef) (e : Sqe) : (s.begun r' e).reports r q c := by
  obtain ⟨sq, cq, rest⟩ := h
  obtain ⟨sqs, cqs, -⟩ := s.begun_qe r' e
  refine ⟨(State.sq_of_qe sqs _ _).trans sq, (State.cq_of_qe cqs _ _).trans cq, ?_⟩
  rwa [State.d3hot, State.fnRec, State.hostHere, (s.begun_moves r' e).fn_eq (by decide)]

/-- A completion for a ring that takes it at once goes out. -/
theorem State.postCqe_out {f i reason : Nat} {c : CqRec} (q : Cqe) (hc : s.cq f i = some c) (live : s.inReset f = false)
    (sound : c.faulted = false) (awake : s.frozen f = false) (d0 : s.d3hot f = false) (host : s.hostHere = true) (credit : 0 < c.credit)
    (hold : c.hold = []) (waiting : c.waiting = []) :
    cqeEmits f i c.pos q (s.sqHead f q) ⊆ (s.postCqe f i q reason).out := by
  have pme : Moves [.regs] s (s.suppressPme f reason) := State.suppressPme_moves (.refl _ s) (by decide)
  have at_ : (s.suppressPme f reason).cqAt f i c.pos := ⟨c, (State.cq_of_qe (by rw [pme.qe_eq (by decide)]) f i).trans hc, rfl⟩
  have head : (s.suppressPme f reason).sqHead f q = s.sqHead f q := by
    rw [State.sqHead, State.sq_of_qe (s := s) (by rw [pme.qe_eq (by decide)]), State.sqHead]
  rw [State.postCqe, hc]
  dsimp only
  rw [if_neg (by simp [live]), if_neg (by simp [sound]), if_neg (by simp [awake]), if_neg (by simp [d0]), if_neg (by simp [host]),
    if_pos ⟨credit, hold, waiting⟩, ← head]
  exact State.writeCqe_out q at_

/-- The CQE of an entry that completes goes out when its ring takes it at once. -/
theorem State.complete_out {q : SqRec} {c : CqRec} (e : Sqe) (st : Nat) (n : Nat) (d4 d5 d6 d7 : Word) (urgent : Bool)
    (there : ∃ y ∈ s.qe.started, (y.ref == r) = true) (rep : s.reports r q c) (live : s.inReset r.fn.val = false)
    (awake : s.frozen r.fn.val = false) :
    cqeEmits r.fn.val q.cq c.pos (entryCqe r e st n d4 d5 d6 d7 urgent) q.pos ⊆ (s.complete r e st n d4 d5 d6 d7 urgent).out := by
  obtain ⟨sq, cq, sound, credit, hold, waiting, d0, host⟩ := rep
  obtain ⟨y, hy⟩ := Option.isSome_iff_exists.mp (List.find?_isSome.mpr there)
  refine fun x hx => State.mem_out_of_moves (l := [.regs, .qe, .bm, .xb, .fn, .out]) (State.settleFn_moves (.refl _ _) (by decide)) ?_
  rw [State.endStarted, hy]
  dsimp only
  generalize hv : State.showExec { s with qe := { s.qe with started := removeFirst (fun x => x.ref == r) s.qe.started } } = v
  have fn : v.fn = s.fn := by rw [← hv, State.showExec, State.setB_fn]
  have qe : v.qe = { s.qe with started := removeFirst (fun x => x.ref == r) s.qe.started } := by rw [← hv, State.showExec, State.setB_qe]
  have vsq : v.sq r.fn.val r.sq.toNat = some q := (State.sq_of_qe (by rw [qe]) _ _).trans sq
  have vcq : v.cq r.fn.val q.cq = some c := (State.cq_of_qe (by rw [qe]) _ _).trans cq
  have head : v.sqHead r.fn.val (entryCqe r e st n d4 d5 d6 d7 urgent) = q.pos := by
    rw [State.sqHead]
    change (match v.sq r.fn.val r.sq.toNat with | some r => r.pos | none => 0) = q.pos
    rw [vsq]
  have live' : v.inReset r.fn.val = false := by rwa [State.inReset, fn, State.vfRec_of_fn (s := s) (by rw [fn])]
  have awake' : v.frozen r.fn.val = false := by rwa [State.frozen, State.vfRec_of_fn (s := s) (by rw [fn])]
  have d0' : v.d3hot r.fn.val = false := by rwa [State.d3hot, State.fnRec_of_fn (s := s) (by rw [fn])]
  have host' : v.hostHere = true := by rwa [State.hostHere, fn]
  rw [if_neg (by simp [live']), vsq]
  dsimp only
  refine State.mem_out_of_moves (l := [.regs, .qe, .fn, .out]) (State.finishIdle_moves (.refl _ _) (by decide)) ?_
  rw [← head] at hx
  exact State.postCqe_out _ vcq live' sound awake' d0' host' credit hold waiting hx

/-- A check that does not fail goes on to the next one. -/
theorem check_step {c : Prop} [Decidable c] {a b : Nat} (h : (if c then a else b) = St.ok) (ha : a ≠ St.ok) : ¬ c ∧ b = St.ok := by
  by_cases hc : c
  · rw [if_pos hc] at h
    exact absurd h ha
  · rw [if_neg hc] at h
    exact ⟨hc, h⟩

/-- What an entry that passes its checks has (R356). -/
theorem State.check_ok (h : s.check r x = St.ok) : sqeReservedOk x (sqeMasks x) = true ∧ s.formOk r.fn.val x = true ∧
    s.granted r.fn.val x = true ∧ s.windowsOk r.fn.val x = true ∧ s.frozen r.fn.val = false ∧ (s.isPartner && holderWork x) = false := by
  rw [State.check] at h
  obtain ⟨-, h⟩ := check_step h (by decide)
  obtain ⟨form, h⟩ := check_step h (by decide)
  obtain ⟨-, h⟩ := check_step h (by decide)
  obtain ⟨granted, h⟩ := check_step h (by decide)
  obtain ⟨windows, h⟩ := check_step h (by decide)
  obtain ⟨frozen, h⟩ := check_step h (by decide)
  obtain ⟨partner, -⟩ := check_step h (by decide)
  rw [Bool.or_eq_true, not_or] at form
  simp only [Bool.not_eq_true, Bool.not_eq_false'] at form granted windows frozen partner
  exact ⟨form.1, form.2, granted, windows, frozen, partner⟩

/-- An entry that starts is of a function that is neither in reset nor frozen. -/
theorem State.starts_live (h : s.starts r x) : s.inReset r.fn.val = false ∧ s.frozen r.fn.val = false := by
  obtain ⟨may, ok, -⟩ := h
  obtain ⟨-, -, -, -, frozen, -⟩ := State.check_ok ok
  simp only [State.entryMay, Bool.and_eq_true, Bool.not_eq_true'] at may
  exact ⟨may.1.2, frozen⟩

/-- An entry that starts, is carried out and completes at once has its CQE written (R346). -/
theorem State.starting_out {q : SqRec} {c : CqRec} (h : s.starting r w x u) (rep : s.reports r q c) (e : Sqe) (st n : Nat)
    (d4 d5 d6 d7 : Word) (urgent : Bool) : cqeEmits r.fn.val q.cq c.pos (entryCqe r e st n d4 d5 d6 d7 urgent) q.pos ⊆
      (u.complete r e st n d4 d5 d6 d7 urgent).serveSpace.out := by
  obtain ⟨rfl, starts, rfl⟩ := h
  obtain ⟨live, awake⟩ := State.starts_live starts
  have fn : (s.begun r x).fn = s.fn := (s.begun_moves r x).fn_eq (by decide)
  refine fun y hy => State.mem_out_of_moves (l := [.qe, .fn, .out]) (State.serveSpace_moves (.refl _ _) (by decide)) ?_
  refine State.complete_out e st n d4 d5 d6 d7 urgent ?_ (State.reports_begun rep r x) ?_ ?_ hy
  · rw [(s.begun_qe r x).2.2]
    exact ⟨_, List.mem_append_right _ (.head _), beq_self_eq_true r⟩
  · rwa [State.inReset, fn, State.vfRec_of_fn (s := s) (by rw [fn])]
  · rwa [State.frozen, State.vfRec_of_fn (s := s) (by rw [fn])]

end
end Sys2Proof.Machine

namespace Sys2Proof.Machine

/-! # PAIR_ROLE (R303, R311, R313) -/

section
variable {s t u : State} {r : EntryRef} {w x : Sqe}

/-- Two states that agree but for the registers and the rings. -/
theorem State.eq_of_only {s u : State} (h : State.only [.regs, .qe] s u) : u = { s with regs := u.regs, qe := u.qe } := by
  obtain ⟨pending, same⟩ := h
  have time := same .time rfl
  have lx := same .lx rfl
  have tree := same .tree rfl
  have ts := same .ts rfl
  have ebm := same .ebm rfl
  have bus := same .bus rfl
  have bm := same .bm rfl
  have xb := same .xb rfl
  have fn := same .fn rfl
  have mre := same .mre rfl
  have gd := same .gd rfl
  have sv := same .sv rfl
  have pu := same .pu rfl
  have pm := same .pm rfl
  have ck := same .ck rfl
  have free := same .free rfl
  have out := same .out rfl
  cases s
  cases u
  simp only [Part.same] at *
  simp only [*]

/-- What an entry that starts changes: registers and rings. -/
theorem State.begun_eq (s : State) (r : EntryRef) (e : Sqe) : s.begun r e = { s with regs := (s.begun r e).regs, qe := (s.begun r e).qe } :=
  State.eq_of_only (s.begun_moves r e).only

theorem State.begun_otherRanks (s : State) (r : EntryRef) (e : Sqe) : (s.begun r e).otherRanks = s.otherRanks := by
  rw [State.begun_eq]
  rfl

theorem State.begun_f (s : State) (r : EntryRef) (e : Sqe) {y : Fld} (h : y.addr ∉ startRegs) : (s.begun r e).f y = s.f y :=
  (s.regsBut_begun r e).f h

theorem State.begun_flag (s : State) (r : EntryRef) (e : Sqe) {y : Fld} (h : y.addr ∉ startRegs) : (s.begun r e).flag y = s.flag y :=
  (s.regsBut_begun r e).flag h

theorem State.begun_role (s : State) (r : EntryRef) (e : Sqe) : (s.begun r e).role = s.role := s.begun_f r e (by decide)
theorem State.begun_pstate (s : State) (r : EntryRef) (e : Sqe) : (s.begun r e).pstate = s.pstate := s.begun_f r e (by decide)
theorem State.begun_isHolder (s : State) (r : EntryRef) (e : Sqe) : (s.begun r e).isHolder = s.isHolder := by
  rw [State.isHolder, State.begun_role, State.isHolder]
theorem State.begun_lockstep (s : State) (r : EntryRef) (e : Sqe) : (s.begun r e).lockstep = s.lockstep := by
  rw [State.lockstep, State.begun_pstate, State.lockstep]
theorem State.begun_orderedUp (s : State) (r : EntryRef) (e : Sqe) : (s.begun r e).orderedUp = s.orderedUp := s.begun_flag r e (by decide)
theorem State.begun_pu (s : State) (r : EntryRef) (e : Sqe) : (s.begun r e).pu = s.pu := (s.begun_moves r e).pu_eq (by decide)
theorem State.begun_time (s : State) (r : EntryRef) (e : Sqe) : (s.begun r e).time = s.time := (s.begun_moves r e).time_eq (by decide)
theorem State.begun_mfN (s : State) (r : EntryRef) (e : Sqe) : (s.begun r e).mfN = s.mfN := (s.begun_moves r e).mfN_eq (by decide)
theorem State.begun_markAfter (s : State) (r : EntryRef) (e : Sqe) (n : Nat) : (s.begun r e).markAfter n = s.markAfter n := by
  rw [State.markAfter, s.begun_mfN, s.begun_time, State.markAfter]

theorem startRegs_shapeless : shapeless startRegs := by
  refine ⟨by decide, by decide, fun q h => ?_⟩
  simp only [startRegs, Reg.LX_QUAD_CFG, Reg.quadBase, Reg.QE_CACHE_USED, Reg.QE_STATUS, List.mem_cons,
    List.not_mem_nil, or_false] at h
  omega

theorem State.begun_miodelUp (s : State) (r : EntryRef) (e : Sqe) : (s.begun r e).miodelUp = s.miodelUp := by
  have lanes : (s.begun r e).miodelLanes = s.miodelLanes := by
    rw [State.miodelLanes, State.miodelLanes, funext ((s.regsBut_begun r e).miodelLane startRegs_shapeless)]
  have states (n : Nat) : (s.begun r e).laneState n = s.laneState n := by
    refine s.begun_f r e fun h => ?_
    simp only [startRegs, Reg.LX_LANE_STATUS_STATE, Reg.LX_LANE_STATUS, Reg.laneBase, Reg.QE_CACHE_USED, Reg.QE_STATUS, List.mem_cons,
      List.not_mem_nil, or_false] at h
    omega
  rw [State.miodelUp, lanes, funext states, State.miodelUp]


theorem State.begun_puStatus (s : State) (r : EntryRef) (e : Sqe) : (s.begun r e).puStatus = s.puStatus := by
  rw [State.puStatus, s.begun_miodelUp, s.regsBut_begun r e _ (by decide), State.puStatus]

theorem State.begun_masterRank (s : State) (r : EntryRef) (e : Sqe) : (s.begun r e).masterRank = s.masterRank := by
  rw [State.masterRank, s.begun_f r e (by decide), s.begun_f r e (by decide), s.begun_f r e (by decide), State.masterRank]

/-! ## The ordered channel takes a frame (R280) -/

/-- An ordered frame goes out behind the unacknowledged ones, or waits behind 1 MiB of them. -/
theorem State.sendOrdered_up (up : s.orderedUp = true) (f : Nat → MioOut) :
    if s.pu.unsent = [] ∧ mayGo s.pu.unacked (s.pu.seq, f s.pu.seq) = true then (s.sendOrdered f).out = .mio (f s.pu.seq) :: s.out
    else (s.sendOrdered f).out = s.out ∧ (s.sendOrdered f).pu.unsent = s.pu.unsent ++ [(s.pu.seq, f s.pu.seq)] := by
  unfold State.sendOrdered
  rw [if_pos up]
  extract_lets n first a b
  split
  next go =>
    rw [if_pos (by simp [n, go.1, go.2]), State.emit_out]
    simp only [b, n]
    split <;> rfl
  next stay =>
    rw [if_neg (by simpa [n] using stay), State.updPu_out, State.updPu_pu]
    exact ⟨rfl, rfl⟩

theorem State.sendOrdered_moves' (s : State) (f : Nat → MioOut) : Moves [.pu, .out] s (s.sendOrdered f) :=
  State.sendOrdered_moves (.refl _ s) (by decide)

/-- The handover at a frame mark, as its frame says it. -/
def State.handoverRec (s : State) : MirrorRec := .handover (BitVec.ofNat 48 (frameFrom (s.markAfter 8)))

theorem State.placeHandover_spec (up : s.orderedUp = true) (r : Option EntryRef) :
    (s.placeHandover r).pu.handover = some (frameFrom (s.markAfter 8), r) ∧
    let f := MioOut.mirror s.pu.seq s.handoverRec
    if s.pu.unsent = [] ∧ mayGo s.pu.unacked (s.pu.seq, f) = true then (s.placeHandover r).out = .mio f :: s.out
    else (s.placeHandover r).out = s.out ∧ (s.pu.seq, f) ∈ (s.placeHandover r).pu.unsent := by
  refine ⟨rfl, ?_⟩
  extract_lets f
  have sent := State.sendOrdered_up up (fun n => .mirror n s.handoverRec)
  split
  next go => rwa [if_pos go] at sent
  next stay =>
    rw [if_neg stay] at sent
    refine ⟨sent.1, ?_⟩
    change _ ∈ (s.sendOrdered (fun n => .mirror n s.handoverRec)).pu.unsent
    rw [sent.2]
    exact List.mem_append_right _ (.head _)

theorem State.serveSpace_pu (s : State) : s.serveSpace.pu = s.pu :=
  (State.serveSpace_moves (l_ := [.qe, .fn, .out]) (.refl _ s) (by decide)).pu_eq (by decide)

theorem State.mem_serveSpace {e : Emit} (h : e ∈ s.out) : e ∈ s.serveSpace.out :=
  State.mem_out_of_moves (l := [.qe, .fn, .out]) (State.serveSpace_moves (.refl _ s) (by decide)) h

end

/-- Settles O26: each action is carried out on the state in which its entry has started. -/
theorem pairRoleEntries : Obligations.PairRoleEntries := by
  unfold Obligations.PairRoleEntries
  intro s r e x u
  refine ⟨?_, ?_, ?_, ?_, ?_, ?_, ?_⟩
  · intro q c starting rep
    refine answers_eq rfl (State.startWith_of_starting starting _) ?_
    have out := State.starting_out starting rep x St.ok 0 u.puStatus (u.reg Reg.PU_TERM) (BitVec.ofNat 32 u.masterRank)
      (BitVec.ofNat 32 (u.f Reg.PU_CFG_RANK)) false (.head _)
    obtain ⟨rfl, -, rfl⟩ := starting
    rw [s.begun_puStatus, s.regsBut_begun r _ _ (by decide), s.begun_masterRank, s.begun_f r _ (by decide)] at out
    rw [State.runPairQuery, State.pairQuery, s.begun_puStatus, s.regsBut_begun r _ _ (by decide), s.begun_masterRank,
      s.begun_f r _ (by decide)]
    exact out
  · intro starting holder lockstep up free
    refine answers_eq rfl (State.startWith_of_starting starting _) ?_
    obtain ⟨rfl, -, rfl⟩ := starting
    have may : ((s.begun r (withAction e 1)).isHolder && (s.begun r (withAction e 1)).lockstep && (s.begun r (withAction e 1)).orderedUp &&
        (s.begun r (withAction e 1)).pu.handover.isNone) = true := by
      rw [s.begun_isHolder, s.begun_lockstep, s.begun_orderedUp, s.begun_pu, holder, lockstep, up, free]
      rfl
    obtain ⟨placed, sent⟩ := State.placeHandover_spec (s := s.begun r (withAction e 1)) ((s.begun_orderedUp r _).trans up) (some r)
    rw [State.runPairHandover, State.pairHandover, if_pos may, State.serveSpace_pu]
    rw [State.handoverRec, s.begun_markAfter, s.begun_pu] at sent
    rw [s.begun_markAfter] at placed
    refine ⟨placed, ?_⟩
    extract_lets at sent ⊢
    split
    next go =>
      rw [if_pos go] at sent
      exact State.mem_serveSpace (by rw [sent]; exact .head _)
    next stay =>
      rw [if_neg stay] at sent
      exact sent.2
  · intro starting not_
    refine answers_eq rfl (State.startWith_of_starting starting _) ?_
    obtain ⟨rfl, -, rfl⟩ := starting
    rw [State.runPairHandover, State.pairHandover, if_neg]
    rw [s.begun_isHolder, s.begun_lockstep, s.begun_orderedUp]
    obtain h | h | h := not_ <;> simp [h]
  · intro starting paired free
    refine answers_eq rfl (State.startWith_of_starting starting _) ?_
    obtain ⟨rfl, -, rfl⟩ := starting
    rw [State.runPairLeave, State.pairLeave, if_neg (by rw [s.begun_pstate, s.begun_pu, free]; simpa using paired), State.serveSpace_pu,
      State.updPu_pu, s.begun_pu]
  · intro starting solo
    refine answers_eq rfl (State.startWith_of_starting starting _) ?_
    obtain ⟨rfl, -, rfl⟩ := starting
    rw [State.runPairJoin, State.pairJoin, if_pos ((s.begun_pstate r _).trans solo)]
  · intro starting other free
    refine answers_eq rfl (State.startWith_of_starting starting _) ?_
    obtain ⟨rfl, -, rfl⟩ := starting
    have may : ¬ ((s.begun r (withAction e 4)).otherRanks.contains (sqeF (withAction e 4) 2 0 3) = true ∨
        (s.begun r (withAction e 4)).pu.rank.isSome = true) := by
      rw [s.begun_otherRanks, s.begun_pu, free, other]
      simp
    rw [State.runPairSetRank, State.pairSetRank, if_neg may, State.serveSpace_pu, State.updPu_pu, s.begun_pu, s.begun_mfN]
  · intro starting
    refine answers_eq rfl (State.startWith_of_starting starting _) ?_
    obtain ⟨rfl, -, rfl⟩ := starting
    rw [State.runPairBarrier, State.pairBarrier, State.serveSpace_pu, State.updPu_pu, s.begun_pu, s.begun_mfN]

end Sys2Proof.Machine

namespace Sys2Proof.Machine

/-! # Commands that change mirrored state, on a device without a peer (R292) -/

section
variable {s u : State} {r : EntryRef}

theorem sqeDw_withOp (e : Sqe) (op : Nat) : sqeDw (withOp e op) 0 = putBits (sqeDw e 0) 8 8 op := by
  simp [sqeDw, withOp, Vector.getElem_toList, List.getD_eq_getElem?_getD]

theorem sqeOpcode_withOp (e : Sqe) {op : Nat} (h : op < 256) : sqeOpcode (withOp e op) = op := by
  rw [sqeOpcode, sqeF, sqeDw_withOp, bits_putBits _ _ _ _ (by decide), Nat.mod_eq_of_lt (by simpa using h)]

/-- Without a peer a command is carried out where it is. -/
theorem State.runOrdered_solo (solo : u.role = 0) (e : Sqe) (h : HostData) : u.runOrdered r e h = u.applyCmd r e h u.mfN := by
  rw [State.runOrdered, State.ordered, if_pos (.inl solo)]

/-! ## The commands by their opcodes -/

theorem State.runGraphLoad_solo (solo : u.role = 0) (e : Sqe) (img : ImageFile) :
    u.runGraphLoad r (withOp e 0x8C) img = u.graphLoad r (withOp e 0x8C) img := by
  rw [State.runGraphLoad, State.runOrdered_solo solo]
  unfold State.applyCmd
  rw [sqeOpcode_withOp e (by decide)]
  rfl

theorem State.runGraphSwap_solo (solo : u.role = 0) (e : Sqe) :
    u.runGraphSwap r (withOp e 0x8D) = u.graphSwap r (withOp e 0x8D) u.mfN := by
  rw [State.runGraphSwap, State.runOrdered_solo solo]
  unfold State.applyCmd
  rw [sqeOpcode_withOp e (by decide)]
  rfl

theorem State.runAuditStart_solo (solo : u.role = 0) (e : Sqe) :
    u.runAuditStart r (withOp e 0x96) = u.auditStart r (withOp e 0x96) u.mfN := by
  rw [State.runAuditStart, State.runOrdered_solo solo]
  unfold State.applyCmd
  rw [sqeOpcode_withOp e (by decide)]
  rfl

theorem State.begun_port (s : State) (r : EntryRef) (e : Sqe) (p : Nat) :
    (s.begun r e).flag (Reg.TM_PORT_CTRL_ROLE p) = s.flag (Reg.TM_PORT_CTRL_ROLE p) ∧ (s.begun r e).portState p = s.portState p := by
  have high (n : Nat) : Reg.TM_PORT_CTRL p ∉ startRegs ∧ Reg.TM_PORT_STATUS p ∉ startRegs := by
    simp only [startRegs, Reg.TM_PORT_CTRL, Reg.TM_PORT_STATUS, Reg.portBase, Reg.QE_CACHE_USED, Reg.QE_STATUS, List.mem_cons,
      List.not_mem_nil, or_false]
    omega
  refine ⟨s.begun_flag r e (high 0).1, ?_⟩
  rw [State.portState, s.begun_f r e (high 0).2, s.begun_pu, State.portState]

theorem State.begun_inCascade (s : State) (r : EntryRef) (e : Sqe) : (s.begun r e).inCascade = s.inCascade := by
  have devices : (s.begun r e).devices = s.devices := by
    rw [State.devices, (s.begun_moves r e).tree_eq (by decide), State.devices]
  have port (p : Nat) := s.begun_port r e p
  rw [State.inCascade, devices, State.inCascade]
  simp only [fun p => (port p).1, fun p => (port p).2]

theorem State.begun_commitLead (s : State) (r : EntryRef) (e : Sqe) : (s.begun r e).commitLead = s.commitLead := by
  rw [State.commitLead, s.begun_role, s.begun_inCascade, State.commitLead]

theorem State.begun_startMf (s : State) (r : EntryRef) (e : Sqe) (n m : Nat) : (s.begun r e).startMf n m = s.startMf n m := by
  rw [State.startMf, State.startLead, s.begun_role, State.startMf, State.startLead]

theorem State.begun_mre (s : State) (r : EntryRef) (e : Sqe) : (s.begun r e).mre = s.mre := (s.begun_moves r e).mre_eq (by decide)
theorem State.begun_sv (s : State) (r : EntryRef) (e : Sqe) : (s.begun r e).sv = s.sv := (s.begun_moves r e).sv_eq (by decide)
theorem State.begun_ts (s : State) (r : EntryRef) (e : Sqe) : (s.begun r e).ts = s.ts := (s.begun_moves r e).ts_eq (by decide)

/-- The rings go on where the cache has room: queues, host state and trace alone change, and no register. -/
theorem State.serveSpace_kept (s : State) : Moves [.qe, .fn, .out] s s.serveSpace := State.serveSpace_moves (.refl _ s) (by decide)

/-! ## Loads and swaps (R217, R222) -/

/-- A full image that passes its checks is staged (R216, R222). -/
theorem State.loadImage_full (e : Sqe) {img : ImageFile} (magic : img.header.magic = 0x49475847) (format : img.header.format = 1)
    (typ : img.header.typ = 0) (crc : img.crcGood = true) (full : s.fullOk img (sqeDw e 4).toNat = true)
    (right_ : s.graphRight r.fn.val = true) (nodes : img.nodes.all (fun n => s.nodeGranted n n.kind) = true)
    (fits : s.imageRefused img.header = none) : s.loadImage r e img =
      (State.setReg { s with mre := { s.mre with staged := some img } } Reg.MRE_STAGED_ID img.header.graphId).completeM r e St.ok 0
        (BitVec.ofNat 32 img.header.graphId.toNat) := by
  rw [State.loadImage, if_neg (by simp [magic, format, typ, crc]), if_pos typ, if_neg (by simp [full]), if_neg (by simp [right_, nodes]), fits]

theorem State.showSwap_mre (s : State) : s.showSwap.mre = s.mre := (State.showSwap_moves (l_ := [.regs]) (.refl _ s) (by decide)).mre_eq (by decide)

theorem State.showSwap_pending {w : Swap} (h : s.mre.swap = some w) : s.showSwap.flag Reg.MRE_STATUS_SWAP_PENDING = true := by
  rw [State.showSwap, h]
  exact State.flag_setB_same _ _ rfl rfl

/-- The states of commands that are carried out on a SOLO device. -/
theorem State.begun_solo (solo : s.role = 0) (r : EntryRef) (e : Sqe) : (s.begun r e).role = 0 := (s.begun_role r e).trans solo

end

/-- A planned audit shows as active. -/
theorem State.setAudit_active (s : State) (a : Audit) : (s.setAudit (some a)).flag Reg.SV_STATUS_AUDIT_ACTIVE = true ∧
    (s.setAudit (some a)).sv = { s.sv with audit := some a } := by
  unfold State.setAudit
  refine ⟨?_, ?_⟩
  · simp (disch := decide) only [State.flag_setF_apart, State.flag_setB_same, Option.isSome_some]
  · rw [State.setF_sv, State.setB_sv]

/-- A plan that can be met is taken (R262). -/
theorem State.auditStart_plans {s : State} {r : EntryRef} {e : Sqe} {n m : Nat} (parts : sqeF e 1 0 4 ≠ 0) (fresh : s.sv.audit = none)
    (start : s.startMf n (sqeMf e 4) = some m) : ∃ (v : State) (a : Audit), v.sv = s.sv ∧ s.auditStart r e n = v.setAudit (some a) ∧
      a.ref = some r ∧ a.startMf = m ∧ a.left = auditParts (sqeF e 1 0 4) ∧ a.running = false ∧ a.begun = false := by
  unfold State.auditStart
  extract_lets k b
  rw [if_neg parts, fresh, if_neg (by simp), start]
  exact ⟨_, _, by rw [State.setF_sv, State.setF_sv], rfl, rfl, rfl, rfl, rfl, rfl⟩

/-- A swap of what is staged begins (R217). -/
theorem State.graphSwap_begins {s : State} {r : EntryRef} {e : Sqe} {n : Nat} (swap : s.mre.swap = none) (lead : n + s.commitLead ≤ sqeMf e 2)
    (staged : s.mre.staged.isSome = true ∨ s.mre.patches ≠ []) : ∃ v : State, s.graphSwap r e n = v.showSwap ∧ v.mre = { s.mre with
      swap := some ⟨sqeMf e 2, [r], s.mre.staged, s.mre.patches, false⟩, staged := none, patches := [] } := by
  have some_ : ¬ (s.mre.staged.isNone = true ∧ s.mre.patches = []) := by
    rintro ⟨none_, nil⟩
    obtain h | h := staged
    · rw [← Option.not_isSome, h] at none_
      exact nomatch none_
    · exact h nil
  unfold State.graphSwap
  rw [swap]
  dsimp only
  rw [if_neg (by omega), if_neg some_]
  exact ⟨_, rfl, rfl⟩

/-- Settles O24: on a SOLO device each command is carried out as its entry starts. -/
theorem graphAndAuditEntries : Obligations.GraphAndAuditEntries := by
  unfold Obligations.GraphAndAuditEntries
  intro s r e x u solo
  refine ⟨fun img starting => ⟨fun swap => ?_, ?_⟩, fun starting => ⟨?_, ?_, ?_⟩, fun starting => ⟨?_, ?_, ?_⟩⟩
  · refine answers_eq rfl (State.startWith_of_starting starting _) ?_
    obtain ⟨rfl, -, rfl⟩ := starting
    rw [State.runGraphLoad_solo (s.begun_solo solo r _), State.graphLoad, if_pos (by rw [s.begun_mre]; exact swap),
      (State.serveSpace_kept _).mre_eq (by decide), s.begun_mre]
  · intro swap magic format typ crc full right_ nodes fits
    refine answers_eq rfl (State.startWith_of_starting starting _) ?_
    obtain ⟨rfl, -, rfl⟩ := starting
    rw [State.runGraphLoad_solo (s.begun_solo solo r _), State.graphLoad, if_neg (by rw [s.begun_mre, swap]; exact Bool.false_ne_true),
      State.loadImage_full _ magic format typ crc full right_
      nodes fits]
    refine ⟨_, ?_, State.reg_setReg _ _ _, rfl⟩
    rw [State.setReg_mre, s.begun_mre]
  · intro swap lead staged
    refine answers_eq rfl (State.startWith_of_starting starting _) ?_
    obtain ⟨rfl, -, rfl⟩ := starting
    obtain ⟨v, e, mre⟩ := State.graphSwap_begins (s := s.begun r (withOp e 0x8D)) (r := r) (n := s.mfN) (e := withOp e 0x8D)
      (by rw [s.begun_mre, swap]) (by rw [s.begun_commitLead]; exact lead) (by rw [s.begun_mre]; exact staged)
    have kept := State.serveSpace_kept v.showSwap
    rw [State.runGraphSwap_solo (s.begun_solo solo r _), s.begun_mfN, e, kept.mre_eq (by decide), kept.flag_eq (by decide), State.showSwap_mre,
      State.showSwap_pending (by rw [mre]), mre, s.begun_mre]
    exact ⟨rfl, rfl, rfl, rfl, rfl⟩
  · intro w swap same
    refine answers_eq rfl (State.startWith_of_starting starting _) ?_
    obtain ⟨rfl, -, rfl⟩ := starting
    rw [State.runGraphSwap_solo (s.begun_solo solo r _), State.graphSwap, s.begun_mre, swap]
    dsimp only
    rw [if_pos same, (State.serveSpace_kept _).mre_eq (by decide), State.showSwap_mre]
  · intro swap lead
    refine answers_eq rfl (State.startWith_of_starting starting _) ?_
    obtain ⟨rfl, -, rfl⟩ := starting
    rw [State.runGraphSwap_solo (s.begun_solo solo r _), State.graphSwap, s.begun_mre, swap]
    dsimp only
    rw [if_pos (by rw [s.begun_mfN, s.begun_commitLead]; exact lead)]
  · intro m parts fresh start
    refine answers_eq rfl (State.startWith_of_starting starting _) ?_
    obtain ⟨rfl, -, rfl⟩ := starting
    obtain ⟨v, a, sv, e, ref, m', left, running, begun⟩ := State.auditStart_plans (s := s.begun r (withOp e 0x96)) (r := r) (n := s.mfN) (m := m)
      (e := withOp e 0x96) parts (by rw [s.begun_sv, fresh]) (by rw [s.begun_startMf, start])
    obtain ⟨active, set_⟩ := v.setAudit_active a
    have kept := State.serveSpace_kept (v.setAudit (some a))
    rw [State.runAuditStart_solo (s.begun_solo solo r _), s.begun_mfN, e, kept.flag_eq (by decide), kept.sv_eq (by decide)]
    exact ⟨a, by rw [set_, sv, s.begun_sv], ref, m', left, running, begun, active⟩
  · intro parts running
    refine answers_eq rfl (State.startWith_of_starting starting _) ?_
    obtain ⟨rfl, -, rfl⟩ := starting
    rw [State.runAuditStart_solo (s.begun_solo solo r _), State.auditStart, if_neg parts, s.begun_sv, if_pos running]
  · intro none_
    refine answers_eq rfl (State.startWith_of_starting starting _) ?_
    obtain ⟨rfl, -, rfl⟩ := starting
    rw [State.runAuditStart_solo (s.begun_solo solo r _), State.auditStart, if_pos none_]

end Sys2Proof.Machine

namespace Sys2Proof.Machine

/-! # Entries that take a channel (R54 to R59, R113, R366, R373) -/

section
variable {s : State} {r : EntryRef}

theorem State.begun_cf (s : State) (r : EntryRef) (e : Sqe) (h : Nat) (y : CtxF) : (s.begun r e).cf h y = s.cf h y := by
  rw [State.cf, State.ctx, State.ebmRead, (s.begun_moves r e).ebm_eq (by decide), State.cf, State.ctx, State.ebmRead]

theorem State.begun_bus (s : State) (r : EntryRef) (e : Sqe) : (s.begun r e).bus = s.bus := (s.begun_moves r e).bus_eq (by decide)
theorem State.begun_bm (s : State) (r : EntryRef) (e : Sqe) : (s.begun r e).bm = s.bm := (s.begun_moves r e).bm_eq (by decide)

theorem State.begun_dev (s : State) (r : EntryRef) (e : Sqe) (a : Nat) : (s.begun r e).dev a = s.dev a := by
  rw [State.dev, (s.begun_moves r e).tree_eq (by decide), State.dev]

theorem State.begun_windowsOf (s : State) (r : EntryRef) (e : Sqe) (f : Nat) : (s.begun r e).windowsOf f = s.windowsOf f := by
  rw [State.windowsOf, s.begun_bm, State.windowsOf]

/-! ## A channel's job -/

theorem State.chan_of_bm {t : State} (h : t.bm = s.bm) (c : Nat) : t.chan c = s.chan c := by rw [State.chan, h, State.chan]
theorem State.xfer_of_bus {t : State} (h : t.bus.xfers = s.bus.xfers) (x : Nat) : t.xfer x = s.xfer x := by rw [State.xfer, h, State.xfer]

theorem State.chan_setChan (s : State) (c : Nat) (r : ChanRec) : (s.setChan c r).chan c = r := Tbl.get_set_same _ _ _
theorem State.chan_setJob (s : State) (c : Nat) (j : Option Job) : ((s.setJob c j).chan c).job = j :=
  congrArg ChanRec.job (s.chan_setChan c { s.chan c with job := j })

theorem State.setJob_bus (s : State) (c : Nat) (j : Option Job) : (s.setJob c j).bus = s.bus :=
  (State.setJob_moves (l_ := [.bm]) (.refl _ s) (by decide)).bus_eq (by decide)

theorem State.serveSpace_bm (s : State) : s.serveSpace.bm = s.bm := (State.serveSpace_kept s).bm_eq (by decide)
theorem State.serveSpace_bus (s : State) : s.serveSpace.bus = s.bus := (State.serveSpace_kept s).bus_eq (by decide)

/-- An entry of a move takes its channel with the DMA windows that its function has (R373, R379). -/
theorem State.beginMove_spec (s : State) (r : EntryRef) (e : Sqe) :
    (((s.begun r e).beginMove r e).serveSpace.chan ((sqeChan e).getD 0)).job = some { entryJob r e with windows := s.windowsOf r.fn.val } ∧
      ((s.begun r e).beginMove r e).serveSpace.bus = s.bus := by
  rw [State.serveSpace_bus, State.chan_of_bm (State.serveSpace_bm _), State.beginMove, State.chan_setJob, State.setJob_bus, s.begun_bus,
    s.begun_windowsOf]
  exact ⟨rfl, rfl⟩

/-! ## A transfer begins (R54, R165) -/

theorem State.xfer_setXfer (s : State) (x : Nat) (q : Option Xfer) : (s.setXfer x q).xfer x = q := Tbl.get_set_same _ _ _

/-- A transfer that takes its slot, or waits for it, is otherwise as it was. -/
theorem State.takeSlot_xfer {x : Nat} {q : Xfer} (h : s.xfer x = some q) : (∃ b, (s.takeSlot x).xfer x = some { q with waitSlot := b }) ∧
    (s.takeSlot x).bus.nextXfer = s.bus.nextXfer := by
  have stopped (t : State) (b : Bool) : (∃ b', (t.setXfer x (some { q with waitSlot := b })).xfer x = some { q with waitSlot := b' }) ∧
      (t.setXfer x (some { q with waitSlot := b })).bus.nextXfer = t.bus.nextXfer := ⟨⟨b, t.xfer_setXfer x _⟩, rfl⟩
  unfold State.takeSlot
  split
  · have kept : Moves [.regs, .ebm, .mre] s (s.takeGenSlot (x - genWait)) := State.takeGenSlot_moves (.refl _ s) (by decide)
    rw [State.xfer_of_bus (congrArg BusSt.xfers (kept.bus_eq (by decide))), kept.bus_eq (by decide), h]
    exact ⟨⟨q.waitSlot, rfl⟩, rfl⟩
  · rw [h]
    dsimp only
    split
    · have kept : Moves [.ebm] s (s.stopWait x) := State.stopWait_moves (.refl _ s) (by decide)
      obtain ⟨there, next⟩ := stopped (s.stopWait x) false
      exact ⟨there, next.trans (congrArg BusSt.nextXfer (kept.bus_eq (by decide)))⟩
    · split
      next g _ t g' found =>
        have kept : Moves [.regs, .ebm] s (((t.setCf q.handle Cx.slot g').setCf q.handle Cx.granules (t.npGranules q.handle)).stopWait x) :=
          State.stopWait_moves (State.setCf_moves (State.setCf_moves (State.slotFor_moves (.refl _ s) (by decide) found) (by decide))
            (by decide)) (by decide)
        obtain ⟨there, next⟩ := stopped (((t.setCf q.handle Cx.slot g').setCf q.handle Cx.granules (t.npGranules q.handle)).stopWait x) false
        exact ⟨there, next.trans (congrArg BusSt.nextXfer (kept.bus_eq (by decide)))⟩
      next =>
        obtain ⟨⟨b, there⟩, next⟩ := stopped s true
        have kept : Moves [.regs, .ebm] _ ((s.setXfer x (some { q with waitSlot := true })).startWait x) :=
          State.startWait_moves (.refl _ _) (by decide)
        rw [State.xfer_of_bus (congrArg BusSt.xfers (kept.bus_eq (by decide))), kept.bus_eq (by decide)]
        exact ⟨⟨b, there⟩, next⟩

/-- A transfer that begins takes the next number. -/
theorem State.beginXfer_spec (s : State) (q : Xfer) : (s.beginXfer q).2 = s.bus.nextXfer ∧
    (∃ b, (s.beginXfer q).1.xfer s.bus.nextXfer = some { q with readyAt := s.now, waitSlot := b }) ∧
    (s.beginXfer q).1.bus.nextXfer = s.bus.nextXfer + 1 := by
  let t : State := { s with bus := { s.bus with nextXfer := s.bus.nextXfer + 1 } }
  obtain ⟨there, next⟩ := State.takeSlot_xfer (t.xfer_setXfer s.bus.nextXfer (some { q with readyAt := s.now }))
  exact ⟨rfl, there, next⟩

/-- A transfer to an endpoint that is there takes its channel. -/
theorem State.beginXferOf_open (e : Sqe) (k : XKind) {h : Nat} (setup : List Byte) (addr : Nat) (valid : s.cf h Cx.valid = 1)
    (attached : s.cf h Cx.detached = 0) : ∃ q : Xfer, (s.beginXferOf r e k h setup addr).xfer s.bus.nextXfer = some q ∧ q.owner = .entry r ∧
      q.kind = k ∧ q.handle = h ∧ q.setup = setup ∧ q.stage = (if k = .control then 0 else 1) ∧ q.len = xferLen e ∧ q.addr = addr ∧
      q.first = (if k = .control then 0 else s.cf h Cx.seq) ∧
      (s.beginXferOf r e k h setup addr).bus.nextXfer = s.bus.nextXfer + 1 ∧
      ((s.beginXferOf r e k h setup addr).chan ((sqeChan e).getD 0)).job = some (newJob r (.xfer s.bus.nextXfer)) := by
  unfold State.beginXferOf
  rw [if_neg (by omega), if_neg (by omega)]
  extract_lets c x bulk y
  obtain ⟨number, ⟨b, there⟩, next⟩ := s.beginXfer_spec y
  generalize s.beginXfer y = z at number there next
  obtain ⟨v, n⟩ := z
  dsimp only at number there next ⊢
  subst number
  exact ⟨_, (State.xfer_of_bus (congrArg BusSt.xfers (State.setJob_bus _ _ _)) _).trans there, rfl, rfl, rfl, rfl, rfl, rfl, rfl, rfl,
    (by rw [State.setJob_bus]; exact next), State.chan_setJob _ _ _⟩

theorem State.beginXferOf_gone (e : Sqe) (k : XKind) {h : Nat} (setup : List Byte) (addr : Nat) (gone : s.cf h Cx.valid = 0) :
    s.beginXferOf r e k h setup addr = s.complete r e St.deviceGone := by
  rw [State.beginXferOf, if_pos gone]

theorem State.beginXferOf_detached (e : Sqe) (k : XKind) {h : Nat} (setup : List Byte) (addr : Nat) {d : DevRec} (valid : s.cf h Cx.valid = 1)
    (detached : s.cf h Cx.detached = 1) (dev : s.dev (h / 16) = some d) :
    s.beginXferOf r e k h setup addr = s.complete r e (if d.byReset then St.portReset else St.deviceGone) := by
  rw [State.beginXferOf, if_neg (by omega), if_pos detached, dev]

/-- What starts as a transfer of an I/O entry. -/
theorem State.xfer_entry (s : State) (r : EntryRef) (e : Sqe) (k : XKind) (control : k ≠ .control) :
    (s.cf (sqeHandle e) Cx.valid = 1 → s.cf (sqeHandle e) Cx.detached = 0 → ∃ q : Xfer,
      let t := ((s.begun r e).beginXferOf r e k (sqeHandle e) [] (sqe64 e 4)).serveSpace
      t.xfer s.bus.nextXfer = some q ∧ q.owner = .entry r ∧ q.kind = k ∧ q.handle = sqeHandle e ∧ q.len = xferLen e ∧
        q.addr = sqe64 e 4 ∧ q.first = s.cf (sqeHandle e) Cx.seq ∧ t.bus.nextXfer = s.bus.nextXfer + 1 ∧
        (t.chan ((sqeChan e).getD 0)).job = some (newJob r (.xfer s.bus.nextXfer))) := by
  intro valid attached
  obtain ⟨q, there, owner, kind, handle, -, -, len, addr, first, next, job⟩ := State.beginXferOf_open (s := s.begun r e) (r := r) e k []
    (sqe64 e 4) ((s.begun_cf r e _ _).trans valid) ((s.begun_cf r e _ _).trans attached)
  rw [if_neg control, s.begun_cf] at first
  rw [s.begun_bus] at there next job
  refine ⟨q, ?_⟩
  extract_lets t
  rw [State.xfer_of_bus (congrArg BusSt.xfers (State.serveSpace_bus _)), State.serveSpace_bus, State.chan_of_bm (State.serveSpace_bm _)]
  exact ⟨there, owner, kind, handle, len, addr, first, next, job⟩

/-! ## The root hub (R112, R113) -/

/-- GET_PORT_STATUS reads the port and clears its change bits and discards. -/
theorem State.rootHub_read (e : Sqe) {p : Nat} (h0 : field (setupOf e) 0 1 = 0xA0) (h1 : field (setupOf e) 1 1 = 0x20)
    (hp : field (setupOf e) 4 4 = p) (lt : p < 192) (there : s.portExists p = true) : s.rootHub r e =
      ((s.updPort p (fun q => { q with change := 0, discards := 0 })).when (!((s.portStatusBytes p).take (xferLen e)).isEmpty)
        (fun z => z.sendHost (.write r.fn.val (sqe64 e 6) (pad64 ((s.portStatusBytes p).take (xferLen e)))))).complete r e St.ok
          ((s.portStatusBytes p).take (xferLen e)).length 2 := by
  unfold State.rootHub
  simp only [h0, h1, hp, lt, there, and_self, if_true]

/-- The status of a root port goes to the host (R112). -/
theorem State.rootHub_status (e : Sqe) {p : Nat} (h0 : field (setupOf e) 0 1 = 0xA0) (h1 : field (setupOf e) 1 1 = 0x20)
    (hp : field (setupOf e) 4 4 = p) (lt : p < 192) (there : s.portExists p = true) (some_ : (s.portStatusBytes p).take (xferLen e) ≠ []) :
    Emit.write r.fn.val (sqe64 e 6) (pad64 ((s.portStatusBytes p).take (xferLen e))) ∈ (s.rootHub r e).serveSpace.out ∧
      ((s.rootHub r e).serveSpace.port p).change = 0 ∧ ((s.rootHub r e).serveSpace.port p).discards = 0 := by
  rw [State.rootHub_read e h0 h1 hp lt there, State.when, if_pos (by simpa using some_)]
  generalize hv : State.sendHost (s.updPort p (fun q => { q with change := 0, discards := 0 }))
    (.write r.fn.val (sqe64 e 6) (pad64 ((s.portStatusBytes p).take (xferLen e)))) = v
  have sent : Emit.write r.fn.val (sqe64 e 6) (pad64 ((s.portStatusBytes p).take (xferLen e))) ∈ v.out := by rw [← hv]; exact .head _
  have tree : v.tree = (s.updPort p (fun q => { q with change := 0, discards := 0 })).tree := by
    rw [← hv, (State.sendHost_moves (l_ := [.fn, .out]) (.refl _ _) (by decide)).tree_eq (by decide)]
  have kept : Moves [.regs, .qe, .bm, .xb, .fn, .out] v
      (v.complete r e St.ok ((s.portStatusBytes p).take (xferLen e)).length 2).serveSpace :=
    State.serveSpace_moves (State.complete_moves (.refl _ v) (by decide)) (by decide)
  refine ⟨State.mem_out_of_moves kept sent, ?_⟩
  rw [State.port, kept.tree_eq (by decide), tree, ← State.port, State.port_updPort]
  exact ⟨rfl, rfl⟩

end

/-- Settles O21: entries by what they do to their channels. -/
theorem channelEntriesTakeTheirChannels : Obligations.ChannelEntriesTakeTheirChannels := by
  unfold Obligations.ChannelEntriesTakeTheirChannels
  intro s r e x u
  refine ⟨?_, ?_, ?_⟩
  · intro c hc starting
    obtain rfl | rfl | rfl : c = (.fence r e, 0x02) ∨ c = (.move r e, 0x20) ∨ c = (.moveIndexed r e, 0x21) := by simpa using hc
    all_goals
      refine answers_eq rfl (State.startWith_of_starting starting _) ?_
      obtain ⟨rfl, -, rfl⟩ := starting
      exact s.beginMove_spec r _
  · intro c hc starting
    have moves : ∃ k, k ≠ XKind.control ∧ c.2.2 = k ∧ exec c.1 s = .next (s.startWith r (withOp e c.2.1)
        (fun s => s.beginXferOf r (withOp e c.2.1) k (sqeHandle (withOp e c.2.1)) [] (sqe64 (withOp e c.2.1) 4))) := by
      obtain rfl | rfl | rfl | rfl : c = (Instr.bulkOut r e, 0x10, XKind.bulkOut) ∨ c = (.bulkIn r e, 0x11, .bulkIn) ∨
        c = (.tunnelTx r e, 0x18, .tunnelTx) ∨ c = (.tunnelRx r e, 0x19, .tunnelRx) := by simpa using hc
      all_goals exact ⟨_, by simp only [ne_eq, reduceCtorEq, not_false_eq_true], rfl, rfl⟩
    obtain ⟨k, control, kind, run⟩ := moves
    have begins := run.trans (congrArg _ (State.startWith_of_starting starting _))
    obtain ⟨rfl, -, rfl⟩ := starting
    rw [kind]
    refine ⟨fun valid attached => answers_of begins (s.xfer_entry r _ k control valid attached), fun gone => ?_, fun d valid detached dev => ?_⟩
    · refine answers_eq begins ?_ rfl
      rw [State.beginXferOf_gone _ _ _ _ ((s.begun_cf r _ _ _).trans gone)]
    · refine answers_eq begins ?_ rfl
      rw [State.beginXferOf_detached _ _ _ _ ((s.begun_cf r _ _ _).trans valid) ((s.begun_cf r _ _ _).trans detached)
        ((s.begun_dev r _ _).trans dev)]
  · intro starting
    refine ⟨fun own valid attached => ?_, fun p root h0 h1 hp lt there some_ => ?_⟩
    · refine answers_eq rfl (State.startWith_of_starting starting _) ?_
      obtain ⟨rfl, -, rfl⟩ := starting
      obtain ⟨q, there, owner, kind, handle, setup, stage, len, addr, -, -, job⟩ := State.beginXferOf_open
        (s := s.begun r (withOp e 0x12)) (r := r) (withOp e 0x12) .control (setupOf (withOp e 0x12)) (sqe64 (withOp e 0x12) 6)
        ((s.begun_cf r _ _ _).trans valid) ((s.begun_cf r _ _ _).trans attached)
      rw [s.begun_bus] at there job
      refine ⟨q, ?_⟩
      rw [State.runControl, State.beginControl, if_neg own, State.xfer_of_bus (congrArg BusSt.xfers (State.serveSpace_bus _)),
        State.chan_of_bm (State.serveSpace_bm _)]
      exact ⟨there, owner, kind, handle, setup, stage, len, addr, job⟩
    · refine answers_eq rfl (State.startWith_of_starting starting _) ?_
      obtain ⟨rfl, -, rfl⟩ := starting
      rw [State.runControl, State.beginControl, if_pos root]
      exact State.rootHub_status _ h0 h1 hp lt there some_

end Sys2Proof.Machine

namespace Sys2Proof.Machine

/-! # Entries are checked and queued (R194, R196, R209, R241, R330, R346, R353, R356, R387)

## Error capture (R502, R503, R505) -/

section
variable (s : State)

/-- Registers that a held error fills, and all that a captured one may change. -/
def heldRegs : List Nat := [Reg.GLB_ERR_INFO, Reg.GLB_ERR_UNIT, Reg.GLB_ERR_ADDR_LO, Reg.GLB_ERR_ADDR_HI, Reg.GLB_ERR_MF_LO, Reg.GLB_ERR_MF_HI]
def captureRegs : List Nat := heldRegs ++ [Reg.GLB_ERR_COUNT, Reg.GLB_ERR]

theorem State.regsBut_holdError (block scope cause fn unit addr : Nat) : s.regsBut heldRegs (s.holdError block scope cause fn unit addr) := by
  have info := (((State.regsBut.refl heldRegs s).setF (x := Reg.GLB_ERR_INFO_BLOCK) block (.head _)).setF (x := Reg.GLB_ERR_INFO_SCOPE) scope
    (.head _)).setF (x := Reg.GLB_ERR_INFO_CAUSE) cause (.head _)
  have unit_ := (info.setF (x := Reg.GLB_ERR_INFO_FUNCTION) fn (.head _)).setReg (a := Reg.GLB_ERR_UNIT) (BitVec.ofNat 32 unit) (by decide)
  have addr_ := (unit_.setReg (a := Reg.GLB_ERR_ADDR_LO) (BitVec.ofNat 32 addr) (by decide)).setReg (a := Reg.GLB_ERR_ADDR_HI)
    (BitVec.ofNat 32 (addr / 2 ^ 32)) (by decide)
  exact (addr_.setReg (a := Reg.GLB_ERR_MF_LO) _ (by decide)).setReg (a := Reg.GLB_ERR_MF_HI) _ (by decide)

/-- A message to the host leaves the AER status of every function. -/
theorem State.signalGlb_aer (f : Nat) : (s.signalGlb.fnRec f).aer = (s.fnRec f).aer := by
  unfold State.signalGlb
  split
  · rfl
  · unfold State.signal
    extract_lets t r
    split
    · split
      · rfl
      · by_cases e : f = 0
        · subst e
          rw [State.fnRec_updFn]
          rfl
        · rw [State.fnRec_updFn_other _ e]
          rfl
    · split <;> rfl

/-- What the capture of an uncorrectable error leaves, and that it shows. -/
theorem State.captureError_spec (block scope cause fn unit addr : Nat) :
    (s.captureError block scope cause fn unit addr).flag Reg.GLB_ERR_UNCORRECTABLE = true ∧
      s.regsBut captureRegs (s.captureError block scope cause fn unit addr) ∧
      ∀ f, ((s.captureError block scope cause fn unit addr).fnRec f).aer = (s.fnRec f).aer := by
  unfold State.captureError
  extract_lets a b old c
  have hb : s.regsBut captureRegs b := ((State.regsBut.refl captureRegs s).bump (x := Reg.GLB_ERR_COUNT_UNCORRECTABLE) 1 (by decide)).setF
    (x := Reg.GLB_ERR_SCOPE_SEEN) _ (by decide)
  have sub : heldRegs ⊆ captureRegs := List.subset_append_left _ _
  have held (z : State) (fz : z.flag Reg.GLB_ERR_UNCORRECTABLE = true) :
      (z.holdError block scope cause fn unit addr).flag Reg.GLB_ERR_UNCORRECTABLE = true :=
    ((z.regsBut_holdError block scope cause fn unit addr).flag (by decide)).trans fz
  have aer (z : State) (f : Nat) : ((z.holdError block scope cause fn unit addr).fnRec f).aer = (z.fnRec f).aer := by
    rw [State.fnRec, (State.holdError_moves (l_ := [.regs]) (.refl _ z) (by decide)).fn_eq (by decide), State.fnRec]
  split
  next set_ =>
    split
    · unfold State.when
      split
      · exact ⟨held b set_, hb.step (b.regsBut_holdError _ _ _ _ _ _) sub, aer b⟩
      · exact ⟨set_, hb, fun _ => rfl⟩
    · refine ⟨?_, hb.setB (x := Reg.GLB_ERR_LOST) true (by decide), fun _ => rfl⟩
      rw [State.flag_setB_apart _ _ (by decide), set_]
  next =>
    have cset : c.flag Reg.GLB_ERR_UNCORRECTABLE = true := State.flag_setB_same _ _ rfl rfl
    have hc : s.regsBut captureRegs c := (hb.keep (u := { b with fn := { b.fn with errAt := some b.now } }) rfl).setB
      (x := Reg.GLB_ERR_UNCORRECTABLE) true (by decide)
    have hh := hc.step (c.regsBut_holdError block scope cause fn unit addr) sub
    unfold State.when
    split
    · refine ⟨?_, hh.keep (State.signalGlb_regs _), fun f => ?_⟩
      · rw [State.flag_of_regs (State.signalGlb_regs _), held c cset]
      · rw [State.signalGlb_aer, aer]
        rfl
    · exact ⟨held c cset, hh, aer c⟩

theorem mem_insertBy {α : Type} (lt : α → α → Bool) (x : α) (l : List α) : x ∈ insertBy lt x l := by
  induction l with
  | nil => exact .head _
  | cons a r ih =>
    unfold insertBy
    split
    · exact .head _
    · exact .tail _ ih

/-- An error in a function's AER capability is recorded (R330). -/
theorem State.aer_contains (f code : Nat) : ((s.aer f code).fnRec f).aer.contains code = true := by
  rw [State.aer, State.fnRec_updFn]
  split
  next h => exact h
  next => exact List.contains_iff_mem.mpr (mem_insertBy _ _ _)

end

/-! ## Timers and generators (R194, R241) -/

section
variable {s : State} {r : EntryRef}

theorem State.showTimers_gd (s : State) : s.showTimers.gd.timers = s.gd.timers ∧ s.showTimers.gd.timerSeq = s.gd.timerSeq := by
  unfold State.showTimers State.obsUpd
  dsimp only
  rw [State.setF_gd]
  exact ⟨rfl, rfl⟩

theorem State.addTimer_gd (s : State) (prio e : Nat) (kind : TimerKind) (owner : Nat) (ref : Option EntryRef) (n : Nat) :
    (s.addTimer prio e kind owner ref n).gd.timers = s.gd.timers ++ [⟨s.gd.timerSeq, prio, e, kind, owner, ref, n, false⟩] ∧
      (s.addTimer prio e kind owner ref n).gd.timerSeq = s.gd.timerSeq + 1 :=
  State.showTimers_gd _

theorem State.addTimer_mre (s : State) (prio e : Nat) (kind : TimerKind) (owner : Nat) (ref : Option EntryRef) (n : Nat) :
    (s.addTimer prio e kind owner ref n).mre = s.mre :=
  (State.addTimer_moves (l_ := [.regs, .gd]) (.refl _ s) (by decide)).mre_eq (by decide)

theorem State.gen_of_mre {t : State} (h : t.mre = s.mre) (g : Nat) : t.gen g = s.gen g := by rw [State.gen, h, State.gen]
theorem State.gen_setGen (s : State) (g : Nat) (q : GenSt) : (s.setGen g q).gen g = q := Tbl.get_set_same _ _ _

/-- A generator that takes its slot, or waits for it, keeps its clips. -/
theorem State.takeGenSlot_clips (s : State) (g : Nat) : ((s.takeGenSlot g).gen g).clips = (s.gen g).clips := by
  unfold State.takeGenSlot
  extract_lets q
  split
  · rw [State.gen_of_mre ((State.stopWait_moves (l_ := [.ebm]) (.refl _ s) (by decide)).mre_eq (by decide))]
  · split
    · rw [State.gen_setGen]
    · rw [State.gen_of_mre ((State.startWait_moves (l_ := [.regs, .ebm]) (.refl _ s) (by decide)).mre_eq (by decide))]

end

/-! ## A clip that comes too late (R194, R242) -/

section
open Tests

/-- A CLIP_PLAY entry of generator 0 whose microframe, 3, has gone in microframe 8. -/
def lateClip : Sqe := withOp (entry [0, 0, 3, 0, 0x1000, 0, 6, 1, 0, 0, 0]) 0x30

/-- Microframe 8 has begun, and generator 0 already holds a clip of the same entry. -/
def clipHeld : State :=
  (atTime 8 0 0 (playing (work []))).setGen 0 { GenSt.zero with clips := [⟨io, 0x1000, 6, 1, 0, 0, 16, 0, none, 0, 0, 0, 0, 0, 0⟩] }

theorem lateClip_starts : startsB clipHeld io (withOp lateClip 0x30) = true ∧
    clipHeld.genMode (sqeF (withOp lateClip 0x30) 1 0 8) = some .clip ∧
    clipHeld.startMf clipHeld.mfN (sqeMf (withOp lateClip 0x30) 2) = none := by decide +kernel

/-- Whether clip generator channel of that entry has a job. -/
def clipJob (s : State) : Bool := (s.chan ((sqeChan (withOp lateClip 0x30)).getD 0)).job.isSome

theorem clipJob_differs :
    clipJob (clipHeld.startWith io (withOp lateClip 0x30) fun s => s.runClipPlay io (withOp lateClip 0x30)) = true ∧
      clipJob ((clipHeld.begun io (withOp lateClip 0x30)).completeM io (withOp lateClip 0x30) St.aborted).serveSpace = false := by
  decide +kernel

/-- Refutes O20: a generator may hold a clip of the entry already; a CLIP_PLAY of it that comes too late then ends with ABORTED and still
gets a job in its channel, which the last clause on CLIP_PLAY leaves out. -/
theorem not_entriesAreCheckedAndQueued : ¬ Obligations.EntriesAreCheckedAndQueued := by
  unfold Obligations.EntriesAreCheckedAndQueued
  intro h
  obtain ⟨starts, mode, start⟩ := lateClip_starts
  obtain ⟨-, late, -⟩ := h.2 clipHeld io lateClip (withOp lateClip 0x30) _ 0 (by decide +kernel)
  obtain ⟨t, run, ended⟩ := late ⟨rfl, starts_of starts, rfl⟩ mode start
  obtain ⟨got, expected⟩ := clipJob_differs
  have same : clipHeld.startWith io (withOp lateClip 0x30) (fun s => s.runClipPlay io (withOp lateClip 0x30)) = t := by injection run
  rw [same, ended, expected] at got
  exact absurd got (by decide)

end

end Sys2Proof.Machine

namespace Sys2Proof.Machine

/-! # Admin entries of one function (R344, R361, R362, R368, R369, R379, R389, R421)

## What leaves the submission rings alone -/

section
variable (s : State)

theorem State.noSq_iff (f i : Nat) : s.noSq (rk f i) ↔ s.sq f i = none := .rfl

theorem State.sqs_of_moves {l : List Part} {t : State} (h : Moves l s t) (hl : l.contains .qe = false) : t.qe.sqs = s.qe.sqs := by
  rw [h.qe_eq hl]

theorem State.putRsb_sqs (f i : Nat) (w : Word) : (s.putRsb f i w).qe.sqs = s.qe.sqs := by
  unfold State.putRsb
  split
  · exact s.sqs_of_moves (State.sendHost_moves (l_ := [.fn, .out]) (.refl _ s) (by decide)) (by decide)
  · split <;> rfl

theorem State.writeRsbSq_sqs (f i : Nat) : (s.writeRsbSq f i).qe.sqs = s.qe.sqs := by
  unfold State.writeRsbSq
  split
  · split
    · rw [State.setB_qe]
    · exact s.putRsb_sqs _ _ _
  · rfl

theorem State.writeRsbCq_sqs (f i : Nat) : (s.writeRsbCq f i).qe.sqs = s.qe.sqs := by
  unfold State.writeRsbCq
  split
  · split
    · rw [State.setB_qe]
    · exact s.putRsb_sqs _ _ _
  · rfl

theorem State.signalCq_sqs (f i : Nat) : (s.signalCq f i).qe.sqs = s.qe.sqs := by
  unfold State.signalCq
  split
  · rfl
  · rw [State.signal_qe]
    rfl

theorem State.nextWindow_sqs (f i : Nat) (q : Cqe) : (s.nextWindow f i q).qe.sqs = s.qe.sqs := by
  unfold State.nextWindow
  split
  · rfl
  · split
    · rfl
    · unfold State.moderationOver
      split
      · rfl
      · split
        · split
          · exact s.signalCq_sqs f i
          · rfl
        · rfl

theorem State.writeCqe_sqs (f i : Nat) (q : Cqe) : (s.writeCqe f i q).qe.sqs = s.qe.sqs := by
  rw [← s.nextWindow_sqs f i q]
  unfold State.writeCqe
  extract_lets v
  split
  · rfl
  next c hc =>
    extract_lets a c' b d
    have ha : a.qe.sqs = v.qe.sqs := v.sqs_of_moves (State.sendHost_moves (l_ := [.fn, .out]) (.refl _ v) (by decide)) (by decide)
    have hb : b.qe.sqs = v.qe.sqs := (State.sqs_of_moves (a.setCq f i (some c')) (State.showPos_moves (l_ := [.regs]) (.refl _ _) (by decide))
      (by decide)).trans ha
    have hd : d.qe.sqs = v.qe.sqs := by
      unfold d
      split
      · exact (b.sqs_of_moves (State.sendHost_moves (l_ := [.fn, .out]) (.refl _ b) (by decide)) (by decide)).trans hb
      · exact hb
    split
    · exact (d.signalCq_sqs f i).trans hd
    · exact hd

variable {s}

theorem State.noSq_foldl {α : Type} {k : Nat} {f : State → α → State} (hf : ∀ t x, t.noSq k → (f t x).noSq k) (l : List α) (h : s.noSq k) :
    (l.foldl f s).noSq k := by
  induction l generalizing s with
  | nil => exact h
  | cons x l ih => exact ih (hf s x h)

theorem State.noSq_enterOverflow {k : Nat} (f i : Nat) (h : s.noSq k) : (s.enterOverflow f i).noSq k := by
  unfold State.enterOverflow
  split
  · exact h
  next c hc =>
    split
    · exact h
    · extract_lets a b d
      have ha : a.noSq k := State.noSq_of_qe h (State.writeRsbCq_sqs _ f i)
      have hb : b.noSq k := State.noSq_of_qe ha (a.sqs_of_moves (State.bump_moves (l_ := [.regs]) (.refl _ a) (by decide)) (by decide))
      have hd : d.noSq k := by
        unfold d
        split
        · exact State.noSq_of_qe hb (b.signalCq_sqs f i)
        · exact hb
      exact State.noSq_foldl (fun t j ht => State.noSq_of_qe (State.noSq_updSq ht f j _) (State.writeRsbSq_sqs _ f j)) _ hd

theorem State.noSq_holdCqe {k : Nat} (f i : Nat) (q : Cqe) (h : s.noSq k) : (s.holdCqe f i q).noSq k := by
  unfold State.holdCqe
  split
  · exact h
  next c hc =>
    extract_lets a
    have ha : a.noSq k := by
      unfold a
      split <;> exact State.noSq_of_qe h rfl
    split
    · exact State.noSq_enterOverflow f i ha
    · exact ha

/-- A completion brings no ring into being. -/
theorem State.noSq_postCqe {k : Nat} (f i : Nat) (q : Cqe) (reason : Nat) (h : s.noSq k) : (s.postCqe f i q reason).noSq k := by
  have of_moves {t u : State} (ht : t.noSq k) (m : Moves [.regs, .fn, .out] t u) : u.noSq k := State.noSq_of_qe ht (t.sqs_of_moves m (by decide))
  unfold State.postCqe
  split
  · exact h
  next c hc =>
    split
    · exact h
    · split
      · exact of_moves h (State.bump_moves (.refl _ s) (by decide))
      · split
        · exact of_moves h (State.updVf_moves (.refl _ s) (by decide))
        · split
          · extract_lets first t
            have ht : t.noSq k := of_moves (State.noSq_holdCqe f i q h) (State.updFn_moves (.refl _ _) (by decide))
            split
            · exact of_moves ht (State.sendPme_moves (.refl _ t) (by decide))
            · exact ht
          · split
            · exact State.noSq_holdCqe f i q h
            · extract_lets t
              have ht : t.noSq k := of_moves h (State.suppressPme_moves (.refl _ s) (by decide))
              split
              · exact State.noSq_of_qe ht (t.writeCqe_sqs f i q)
              · exact State.noSq_holdCqe f i q ht

theorem State.noSq_scanSq {k : Nat} (f i : Nat) (h : s.noSq k) : (s.scanSq f i).noSq k := by
  have sent {t : State} (ht : t.noSq k) (e : Emit) : (t.sendHost e).noSq k :=
    State.noSq_of_qe ht (t.sqs_of_moves (State.sendHost_moves (l_ := [.fn, .out]) (.refl _ t) (by decide)) (by decide))
  unfold State.scanSq
  split
  · exact h
  next q hq =>
    split
    · split
      · exact State.noSq_updSq h f i _
      · extract_lets t
        have ht : t.noSq k := State.noSq_updSq h f i _
        split <;> exact sent ht _
    · unfold State.keepDoorbell
      split <;> exact h

theorem State.noSq_serveSpace {k : Nat} (h : s.noSq k) : s.serveSpace.noSq k := by
  unfold State.serveSpace
  extract_lets l
  split
  · exact h
  · exact State.noSq_scanSq _ _ h

end
/-! ## A ring that is deleted (R361, R362) -/

section
variable {s v : State} {f i : Nat}

/-- A ring that a DELETE_SQ waits for is gone once nothing of it is left. -/
theorem State.finishIdle_drops {q : SqRec} {d : EntryRef} (here : v.sq f i = some q) (deleting : q.deleting = some d) (busy : q.idle = false)
    (started : v.startedOf f i = []) (cached : v.cachedOf f i = []) (owed : v.cqeOwed f i = false) : (v.finishIdle f i).sq f i = none := by
  unfold State.finishIdle
  rw [here]
  dsimp only
  rw [if_pos (by simp [deleting, busy, started, cached, owed]), deleting]
  dsimp only
  have gone (t : State) : (t.dropSq f i).noSq (rk f i) := by
    rw [State.noSq, (State.dropSq_tables _ _ _).2]
    exact Tbl.get_set_same _ _ _
  have shown {t : State} (h : t.noSq (rk f i)) : t.showExec.noSq (rk f i) := State.noSq_of_qe h (by rw [State.showExec, State.setB_qe])
  rw [← State.noSq_iff]
  split
  · exact gone _
  · split
    · exact shown (gone _)
    · exact State.noSq_postCqe _ _ _ _ (shown (gone _))

/-- The cache of a state in which an entry has begun has lost that entry. -/
theorem State.begun_cache (s : State) (r : EntryRef) (e : Sqe) : (s.begun r e).qe.cache = removeFirst (fun x => x.ref == r) s.qe.cache := by
  rw [State.begun, State.startRec, State.showExec, State.setB_qe]
  exact (s.setCache_kept _).2

theorem removeFirst_sublist {α : Type} (p : α → Bool) (l : List α) : (removeFirst p l).Sublist l := by
  induction l with
  | nil => exact .slnil
  | cons a l ih =>
    unfold removeFirst
    split
    · exact List.sublist_cons_self a l
    · exact ih.cons_cons a

theorem State.begun_cachedOf (r : EntryRef) (e : Sqe) (h : s.cachedOf f i = []) : (s.begun r e).cachedOf f i = [] := by
  rw [State.cachedOf, s.begun_cache]
  exact List.sublist_nil.mp (h ▸ (removeFirst_sublist _ _).filter _)

theorem State.begun_startedOf {r : EntryRef} (e : Sqe) (other : r.sq.toNat ≠ i) : (s.begun r e).startedOf f i = s.startedOf f i := by
  rw [State.startedOf, (s.begun_qe r e).2.2, List.filter_append, List.filter_cons_of_neg (by simp [other]), List.filter_nil, List.append_nil,
    State.startedOf]

/-- Whether a completion is owed follows the CQ of the ring, the held completions and nothing else. -/
theorem State.cqeOwed_of {q p : SqRec} (hs : s.sq f i = some q) (hv : v.sq f i = some p) (same : p.cq = q.cq) (cqs : v.qe.cqs = s.qe.cqs)
    (fn : v.fn = s.fn) : v.cqeOwed f i = s.cqeOwed f i := by
  rw [State.cqeOwed, State.cqeOwed, hs, hv, State.vfRec_of_fn (s := s) (by rw [fn])]
  simp only [same, State.cq_of_qe cqs]

theorem State.discardCached_none (h : s.cachedOf f i = []) : s.discardCached f i = s := by
  unfold State.discardCached
  rw [h]
  split
  next hl => exact nomatch hl
  · rfl

/-! ## Rings that are made, windows, and engines -/

theorem State.choose_mem {l : List Nat} (h : l ≠ []) (d : Nat) : s.choose l d ∈ l := by
  have lt : Config.freeChoice s.free % l.length < l.length := Nat.mod_lt _ (List.length_pos_iff.mpr h)
  rw [State.choose, List.getD_eq_getElem _ _ lt]
  exact List.getElem_mem lt

/-- A submission ring that comes into being has a free number. -/
theorem State.newSq_sq (s : State) (f i : Nat) (q : SqRec) : (s.newSq f i q).sq f i = some { q with glob := s.choose (freeGlobs s.sqGlobs) 0 } := by
  unfold State.newSq
  rw [State.sq_of_qe (s := s.fresh.setSq f i _) (by rw [State.setF_qe]), State.sq_setSq]

/-- So has a completion ring. -/
theorem State.newCq_cq (s : State) (f i : Nat) (c : CqRec) : (s.newCq f i c).cq f i = some { c with glob := s.choose (freeGlobs s.cqGlobs) 0 } := by
  unfold State.newCq
  rw [State.cq_of_qe (s := s.fresh.setCq f i _) (by rw [State.setF_qe]), State.cq_setCq]

theorem State.begun_globs (s : State) (r : EntryRef) (e : Sqe) :
    (s.begun r e).sqGlobs = s.sqGlobs ∧ (s.begun r e).cqGlobs = s.cqGlobs := by
  obtain ⟨sqs, cqs, -⟩ := s.begun_qe r e
  rw [State.sqGlobs, State.cqGlobs, sqs, cqs]
  exact ⟨rfl, rfl⟩

theorem State.setEngine_engines (s : State) (e : Nat) (g : EngRec) :
    (s.setEngine e g).bm.engines = Tbl.set (fun _ => EngRec.idle) s.bm.engines e g := by
  unfold State.setEngine
  extract_lets m a b c d
  have hc : c.bm = a.bm := by rw [State.setB_bm, State.setF_bm]
  have hd : d.bm = a.bm := by
    unfold d
    split
    · rw [State.setF_bm, hc]
    · exact hc
  rw [State.setF_bm, hd]

theorem State.engine_setEngine (s : State) (e : Nat) (g : EngRec) : (s.setEngine e g).engine e = g := by
  rw [State.engine, s.setEngine_engines, Tbl.get_set_same]

theorem State.engine_of_bm {t : State} (h : t.bm = s.bm) (e : Nat) : t.engine e = s.engine e := by rw [State.engine, h, State.engine]

/-- An engine that has stopped waits for its requests; the entry waits with it (R389). -/
theorem State.engineRestart_waits {e : Nat} (r : EntryRef) (h : s.stopped e = true) :
    ((s.engineRestart r e).engine e).restarts = (s.engine e).restarts ++ [r] ∧
      (s.engineRestart r e).flag (Reg.BM_ENG_STATUS_RESTARTING e) = true := by
  rw [State.engineRestart, if_pos h]
  refine ⟨?_, State.flag_setB_same _ _ rfl rfl⟩
  rw [State.engine_of_bm (State.setB_bm _ _ _), State.engine_setEngine]

/-- The one that has begun is found by its reference when no entry of that reference was started. -/
theorem State.begun_completeRef {r : EntryRef} (e : Sqe) (fresh : s.qe.started.any (fun y => y.ref == r) = false) (st : Nat) :
    (s.begun r e).completeRef r st = (s.begun r e).complete r e st := by
  have none_ : s.qe.started.find? (fun y => y.ref == r) = none := by
    rw [List.find?_eq_none]
    exact List.any_eq_false.mp fresh
  rw [State.completeRef, (s.begun_qe r e).2.2, List.find?_append, none_]
  simp

/-- An admin entry that starts has not been taken before (R365). -/
theorem State.starts_fresh {r : EntryRef} {e : Sqe} (h : s.starts r e) (admin : r.sq = 0) : s.qe.started.any (fun y => y.ref == r) = false := by
  obtain ⟨may, -⟩ := h
  simp only [State.entryMay, Bool.and_eq_true, if_pos admin, State.mayTake, Bool.not_eq_true'] at may
  exact may.2.1

theorem State.begun_stopped (s : State) (r : EntryRef) (e : Sqe) (n : Nat) : (s.begun r e).stopped n = s.stopped n := by
  rw [State.stopped, s.begun_f _ _ (by decide), State.stopped]

theorem State.begun_engine (s : State) (r : EntryRef) (e : Sqe) (n : Nat) : (s.begun r e).engine n = s.engine n :=
  State.engine_of_bm (s.begun_bm r e) n

theorem State.begun_boundSqs (s : State) (r : EntryRef) (e : Sqe) (f i : Nat) : (s.begun r e).boundSqs f i = s.boundSqs f i := by
  rw [State.boundSqs, (s.begun_qe r e).1, State.boundSqs]

theorem State.begun_eventNames (s : State) (r : EntryRef) (e : Sqe) (g : Nat) : (s.begun r e).eventNames g = s.eventNames g := by
  have f {x : Fld} (h : x.addr ∉ startRegs) := s.begun_f r e (y := x) h
  have flag {x : Fld} (h : x.addr ∉ startRegs) := s.begun_flag r e (y := x) h
  rw [State.eventNames, flag (by decide), flag (by decide), flag (by decide), f (by decide), f (by decide), f (by decide), State.eventNames]

/-- Log page bytes go out, and what they acknowledge changes nothing of that. -/
theorem State.complete_out_kept {x : Emit} (h : x ∈ s.out) (r : EntryRef) (e : Sqe) (st n : Nat) (d4 d5 d6 d7 : Word) :
    x ∈ (s.complete r e st n d4 d5 d6 d7).serveSpace.out :=
  State.mem_out_of_moves (l := [.regs, .qe, .bm, .xb, .fn, .out])
    (State.serveSpace_moves (State.complete_moves (.refl _ s) (by decide)) (by decide)) h

end

theorem State.runSetShare_solo {s : State} {r : EntryRef} (solo : s.role = 0) (e : Sqe) :
    s.runSetShare r (withOp e 0x85) = s.setShare r (withOp e 0x85) := by
  rw [State.runSetShare, State.runOrdered_solo solo]
  unfold State.applyCmd
  rw [sqeOpcode_withOp e (by decide)]
  rfl

/-- The ring that a DELETE_SQ names is an I/O ring (R361). -/
theorem State.deleteSq_form {s : State} {f : Nat} {e : Sqe} (h : s.formOk f (withOp e 0x81) = true) : 2 ≤ sqeF (withOp e 0x81) 1 0 11 := by
  unfold State.formOk at h
  rw [sqeOpcode_withOp e (by decide)] at h
  exact of_decide_eq_true (Bool.and_eq_true_iff.mp h).1

/-- The bytes of whole records go to the host from the page's first one on (R369). -/
theorem State.getLog_out {s : State} {r : EntryRef} {e : Sqe} {p : LogPage} (page : s.logPage r.fn.val (sqeF e 1 0 8) (sqeF e 1 31 1 == 1) = some p)
    (index : sqeDw e 2 = 0) (count : sqeDw e 3 = 0) (room : 0 < min p.recs.length ((sqeDw e 6).toNat / p.size)) :
    Emit.write r.fn.val (sqe64 e 4) ((p.recs.take (min p.recs.length ((sqeDw e 6).toNat / p.size))).flatMap (·.2)) ∈
      (s.getLog r e).serveSpace.out := by
  have whole : p.recs.filter (fun x => decide ((0 : Nat) ≤ x.1)) = p.recs := List.filter_eq_self.mpr fun _ _ => decide_eq_true (Nat.zero_le _)
  unfold State.getLog
  extract_lets f g first most
  rw [show s.logPage f g _ = some p from page]
  dsimp -zeta only
  extract_lets l n _ bytes a m b
  have first0 : first = 0 := congrArg BitVec.toNat index
  have most0 : most = 0 := congrArg BitVec.toNat count
  have hl : l = p.recs := by
    unfold l
    rw [first0, whole]
  have hn : n = min p.recs.length ((sqeDw e 6).toNat / p.size) := by
    unfold n
    rw [if_pos most0, hl]
  rw [← hn] at room ⊢
  rw [← hl]
  refine State.complete_out_kept ?_ _ _ _ _ _ _ _ _
  have ha : Emit.write r.fn.val (sqe64 e 4) bytes ∈ a.out := by
    unfold a State.when
    rw [if_pos (bne_iff_ne.mpr (Nat.pos_iff_ne_zero.mp room))]
    exact .head _
  unfold b State.when
  split
  · exact State.mem_out_of_moves (l := [.regs, .xb, .fn]) (State.ackLog_moves (.refl _ m) (by decide)) ha
  · exact ha

/-- What a DELETE_SQ marks before it waits (R361, R362). -/
theorem State.deleteSq_marks {s : State} {q : SqRec} (r : EntryRef) (x : Sqe) (here : s.sq r.fn.val (sqeF x 1 0 11) = some q)
    (cached : s.cachedOf r.fn.val (sqeF x 1 0 11) = []) : ∃ v : State,
      (s.begun r x).deleteSq r x = v.finishIdle r.fn.val (sqeF x 1 0 11) ∧
      v.sq r.fn.val (sqeF x 1 0 11) = some { q with deleting := some r, idle := false } ∧ v.qe.cqs = s.qe.cqs ∧ v.fn = s.fn ∧
      v.startedOf r.fn.val (sqeF x 1 0 11) = (s.begun r x).startedOf r.fn.val (sqeF x 1 0 11) ∧
      v.cachedOf r.fn.val (sqeF x 1 0 11) = [] := by
  obtain ⟨sqs, cqs, -⟩ := s.begun_qe r x
  have cached' := State.begun_cachedOf r x cached
  have fn : (s.begun r x).fn = s.fn := (s.begun_moves r x).fn_eq (by decide)
  generalize s.begun r x = u at sqs cqs cached' fn
  refine ⟨u.setSq r.fn.val (sqeF x 1 0 11) (some { q with deleting := some r, idle := false }), ?_, u.sq_setSq _ _ _, cqs, fn, rfl, cached'⟩
  unfold State.deleteSq
  dsimp only
  rw [State.updSq, State.sq_of_qe sqs, here]
  dsimp only
  rw [State.discardCached_none]
  exact cached'

/-- Settles O22: each entry is carried out as it starts; a deleted ring goes once it is idle. -/
theorem adminEntriesOfAFunction : Obligations.AdminEntriesOfAFunction := by
  unfold Obligations.AdminEntriesOfAFunction
  intro s r e x u admin f i
  refine ⟨fun starting free => ?_, fun q starting here cached => ?_, fun starting free => ?_, fun starting => ?_,
    fun c starting here bound named empty => ?_, fun starting => ?_, fun p starting page index count room => ?_, fun starting => ?_,
    fun starting stopped => ?_, fun starting running => ?_, fun starting solo => ?_⟩
  all_goals refine answers_eq rfl (State.startWith_of_starting starting _) ?_
  case refine_1 =>
    obtain ⟨rfl, -, rfl⟩ := starting
    have sq := (s.begun r (withOp e 0x80)).newSq_sq f i ⟨0, sqe64 (withOp e 0x80) 4, sqeF (withOp e 0x80) 2 0 5, sqe64 (withOp e 0x80) 6,
      sqeF (withOp e 0x80) 2 16 11, 0, false, false, false, false, false, false, none, false, none, []⟩
    rw [(s.begun_globs _ _).1] at sq
    refine ⟨_, _, State.choose_mem free 0, sq, ?_⟩
    rw [State.runCreateSq]
    unfold State.createSq
    dsimp only
    rw [sq, Option.map_some, Option.getD_some]
  case refine_2 =>
    have starts := starting.2.1
    obtain ⟨rfl, -, rfl⟩ := starting
    have io : r.sq.toNat ≠ i := by
      have := State.deleteSq_form (State.check_ok starts.2.1).2.1
      rw [admin]
      exact (Nat.lt_of_lt_of_le (by decide) this).ne
    obtain ⟨v, del, sq, cqs, fn, started, cache⟩ := State.deleteSq_marks r (withOp e 0x81) here cached
    rw [State.runDeleteSq, del]
    refine ⟨v, sq, rfl, fun none_ owed => ?_⟩
    rw [← State.noSq_iff]
    exact State.noSq_serveSpace (State.finishIdle_drops sq rfl rfl (by rw [started, s.begun_startedOf _ io, none_]) cache
      (by rw [State.cqeOwed_of here sq rfl cqs fn, owed]))
  case refine_3 =>
    obtain ⟨rfl, -, rfl⟩ := starting
    have cq := (s.begun r (withOp e 0x82)).newCq_cq f i ⟨0, sqe64 (withOp e 0x82) 4, sqeF (withOp e 0x82) 2 0 5, sqe64 (withOp e 0x82) 6,
      sqeF (withOp e 0x82) 2 8 8, sqeF (withOp e 0x82) 2 16 16, sqeF (withOp e 0x82) 3 0 11, sqeF (withOp e 0x82) 3 31 1 == 1, 0,
      2 ^ sqeF (withOp e 0x82) 2 0 5, [], [], false, 0, none, false, false, false⟩
    rw [(s.begun_globs _ _).2] at cq
    refine ⟨_, _, State.choose_mem free 0, cq, ?_⟩
    rw [State.runCreateCq]
    unfold State.createCq
    rw [if_neg (by decide)]
    dsimp only
    rw [cq, Option.map_some, Option.getD_some]
  case refine_4 =>
    obtain ⟨rfl, -, rfl⟩ := starting
    rw [State.runCreateCq, State.createCq, if_pos (by decide)]
  case refine_5 =>
    obtain ⟨rfl, -, rfl⟩ := starting
    refine ⟨(s.begun r (withOp e 0x83)).dropCq f i, ?_, ?_⟩
    · rw [State.cq, (State.dropCq_tables _ _ _).2]
      exact Tbl.get_set_same _ _ _
    · have free : ¬ ((!(s.boundSqs f i).isEmpty || s.eventNames c.glob || (!c.hold.isEmpty && !c.faulted)) = true) := by
        obtain h | h := empty <;> simp [bound, named, h]
      rw [State.runDeleteCq, State.deleteCq, State.cq_of_qe (s.begun_qe _ _).2.1, here]
      dsimp only
      rw [s.begun_boundSqs, s.begun_eventNames, if_neg free]
  case refine_6 =>
    obtain ⟨rfl, -, rfl⟩ := starting
    exact State.complete_out_kept (.head _) _ _ _ _ _ _ _ _
  case refine_7 =>
    obtain ⟨rfl, -, rfl⟩ := starting
    exact State.getLog_out page index count room
  case refine_8 =>
    obtain ⟨rfl, -, rfl⟩ := starting
    refine ⟨_, Tbl.get_set_same _ _ _, fun k other => ?_, rfl⟩
    rw [Tbl.get_set_other _ _ other, s.begun_bm]
  case refine_9 =>
    obtain ⟨rfl, -, rfl⟩ := starting
    obtain ⟨waits, shows⟩ := State.engineRestart_waits r ((s.begun_stopped r (withOp e 0x95) _).trans stopped)
    have kept := State.serveSpace_kept ((s.begun r (withOp e 0x95)).engineRestart r (sqeF (withOp e 0x95) 1 0 4))
    rw [State.runEngineRestart, State.engine_of_bm (kept.bm_eq (by decide)), kept.flag_eq (by decide), waits, s.begun_engine]
    exact ⟨rfl, shows⟩
  case refine_10 =>
    have starts := starting.2.1
    obtain ⟨rfl, -, rfl⟩ := starting
    rw [State.runEngineRestart, State.engineRestart, if_neg (by rw [s.begun_stopped, running]; decide),
      State.begun_completeRef _ (State.starts_fresh starts admin)]
  case refine_11 =>
    obtain ⟨rfl, -, rfl⟩ := starting
    rw [State.runSetShare_solo (s.begun_solo solo r _), State.setShare]
    refine ⟨_, ?_, rfl⟩
    rw [s.begun_ts, s.begun_mfN]
end Sys2Proof.Machine

namespace Sys2Proof.Machine

/-! # Staging and the commit (R144 to R151, R435)

## What the shadow bank's changes leave (R146) -/

section
variable {s t u : State}

/-- The change log, the active and the staged schedule are the same, and so is the device's role. -/
def State.sameStage (s t : State) : Prop :=
  t.ts.log = s.ts.log ∧ t.ts.active = s.ts.active ∧ t.ts.staged = s.ts.staged ∧ t.role = s.role

theorem State.sameStage.refl (s : State) : s.sameStage s := ⟨rfl, rfl, rfl, rfl⟩

theorem State.sameStage.trans (h : s.sameStage t) (k : t.sameStage u) : s.sameStage u :=
  ⟨k.1.trans h.1, k.2.1.trans h.2.1, k.2.2.1.trans h.2.2.1, k.2.2.2.trans h.2.2.2⟩

theorem State.sameStage.of_regs {l : List Nat} (h : s.regsBut l t) (hl : Reg.PU_STATUS ∉ l) (ts : t.ts = s.ts) : s.sameStage t := by
  refine ⟨by rw [ts], by rw [ts], by rw [ts], ?_⟩
  rw [State.role, h.f hl, State.role]

theorem State.sameStage.of_moves {l : List Part} (h : Moves l s t) (hts : l.contains .ts = false) (hregs : l.contains .regs = false) : s.sameStage t :=
  .of_regs (l := []) ((State.regsBut.refl [] s).keep (h.regs_eq hregs)) List.not_mem_nil (h.ts_eq hts)

theorem State.sameStage.setF (h : s.sameStage t) {x : Fld} (v : Nat) (hx : x.addr ≠ Reg.PU_STATUS) : s.sameStage (t.setF x v) :=
  h.trans (.of_regs (l := [x.addr]) ((State.regsBut.refl _ t).setF v (.head _)) (by simpa using hx.symm) (State.setF_ts _ _ _))

theorem State.sameStage.foldl {α : Type} {f : State → α → State} (l : List α) (hf : ∀ t, ∀ x ∈ l, State.sameStage t (f t x)) (h : s.sameStage t) :
    s.sameStage (l.foldl f t) := by
  induction l generalizing t with
  | nil => exact h
  | cons x l ih => exact ih (fun t y hy => hf t y (.tail _ hy)) (h.trans (hf t x (.head _)))

theorem State.sameStage_showPool (s : State) : s.sameStage s.showPool := ((State.sameStage.refl s).setF _ (by decide)).setF _ (by decide)

theorem State.sameStage_restage (s : State) (key : Nat) (w : List (Nat × PEnt)) : s.sameStage (s.restage key w) := by
  refine .foldl _ (fun t l _ => ?_) (.refl s)
  dsimp only
  split <;> exact ⟨rfl, rfl, rfl, rfl⟩

theorem State.sameStage_showLoad (s : State) {t : Nat} (trunk : t < 192) : s.sameStage (s.showLoad t) := by
  have low (k : Nat) (h : 8 ≤ k ∧ k ≤ 20) : Reg.trunkBase t + k ≠ Reg.PU_STATUS := by
    simp only [Reg.trunkBase, Reg.PU_STATUS]
    omega
  unfold State.showLoad
  extract_lets
  exact (((((((((State.sameStage.refl s).setF _ (low 8 (by decide))).setF _ (low 8 (by decide))).setF _ (low 12 (by decide))).setF _
    (low 12 (by decide))).setF _ (low 16 (by decide))).setF _ (low 16 (by decide))).setF _ (low 20 (by decide))).setF _ (low 20 (by decide)))

theorem State.sameStage_showLoads (s : State) (l : List Nat) : s.sameStage (s.showLoads l) :=
  .foldl _ (fun t x hx => t.sameStage_showLoad (by
    obtain ⟨y, -, hy⟩ := List.mem_flatMap.mp hx
    exact List.mem_range.mp (List.mem_filter.mp hy).1)) (.refl s)

theorem State.sameStage_groupLength (s : State) (key n : Nat) : s.sameStage (s.groupLength key n) :=
  .of_moves (l := [.ebm]) (State.groupLength_moves (.refl _ s) (by decide)) (by decide) (by decide)

theorem State.sameStage_allocSlot {n : Nat} {g : State × Nat} (h : s.allocSlot n = some g) : s.sameStage g.1 := by
  unfold State.allocSlot at h
  split at h
  · exact nomatch h
  · obtain rfl := Option.some.inj h
    unfold State.setRuns State.showSlots
    extract_lets
    exact (((State.sameStage.refl _).setF _ (by decide)).setF _ (by decide))

/-- A slot of the length asked for changes nothing of the schedule. -/
theorem State.sameStage_stageSlot {key n : Nat} (h : s.stageSlot key n = .ok t) : s.sameStage t := by
  unfold State.stageSlot at h
  extract_lets m res refuse at h
  split at h
  · injection h with h
    exact h ▸ s.sameStage_groupLength key n
  · split at h
    · exact nomatch h
    · split at h
      · exact nomatch h
      next z g hz =>
        injection h with h
        rw [← h]
        have slot : Moves [.ebm] z (((z.replaceSlot key).setSlotNow key g m).groupLength key n) :=
          State.groupLength_moves (State.setSlotNow_moves (State.replaceSlot_moves (.refl _ z) (by decide)) (by decide)) (by decide)
        exact (State.sameStage_allocSlot hz).trans (.of_moves slot (by decide) (by decide))

/-- A staged change that is taken is the restaged schedule. -/
theorem State.tryStage_ok {key f : Nat} {w : List (Nat × PEnt)} {adds : Bool} (h : s.tryStage t key f w adds = .ok u) : u = t.restage key w := by
  unfold State.tryStage at h
  extract_lets need c at h
  have taken {z : State} (h : StageAns.ok z = .ok u) : u = z := by injection h with h; exact h.symm
  split at h
  · exact nomatch h
  · split at h
    · exact nomatch h
    · split at h
      · split at h
        · exact nomatch h
        · split at h
          · split at h
            · exact nomatch h
            · exact taken h
          · exact taken h
      · exact taken h

theorem State.sameStage_tryStage {key f : Nat} {w : List (Nat × PEnt)} {adds : Bool} (h : s.tryStage t key f w adds = .ok u) : t.sameStage u := by
  rw [State.tryStage_ok h]
  exact t.sameStage_restage key w

/-- What an endpoint or group that is added leaves (R147). -/
theorem State.applyAdd_ok {key k phase length f : Nat} {emerg : Bool} (h : s.applyAdd key k phase length emerg f = .ok u) :
    ∃ ph, (phase ≠ 0xFFFF → ph = phase) ∧ u.stagedRec key = some ⟨k, ph, length, emerg, f⟩ ∧ u.ts.log = s.ts.log ∧
      u.ts.active = s.ts.active ∧ u.role = s.role := by
  unfold State.applyAdd at h
  split at h
  · exact nomatch h
  · extract_lets p q w old at h
    have hq : ∃ ph, (phase ≠ 0xFFFF → ph = phase) ∧ q = ⟨k, ph, length, emerg, f⟩ := by
      unfold q p
      split
      next auto => exact ⟨_, fun h => absurd auto h, rfl⟩
      next given => exact ⟨phase, fun _ => rfl, rfl⟩
    obtain ⟨ph, phase_, hq⟩ := hq
    split at h
    · split at h
      next z hz =>
        split at h
        next c hc =>
          injection h with h
          obtain ⟨log, active, -, role⟩ := (State.sameStage_stageSlot hz).trans (State.sameStage_tryStage hc)
          obtain ⟨log', active', staged', role'⟩ :=
            State.sameStage_showLoads { c with ts := { c.ts with staged := Tbl.set (fun _ => none) c.ts.staged key (some q) } }
              (old ++ w.map (·.1))
          rw [← h, State.stagedRec, staged', log', active', role']
          exact ⟨ph, phase_, (Tbl.get_set_same _ _ _).trans (congrArg some hq), log, active, role⟩
        next no => exact absurd h (no _)
      next no => exact absurd h (no _)
    next no => exact absurd h (no _)

/-- What an endpoint or group that is removed leaves (R148). -/
theorem State.applyRemove_ok {key f : Nat} (there : s.stagedRec key ≠ none) (h : s.applyRemove key f = .ok u) :
    u.stagedRec key = none ∧ u.ts.log = s.ts.log ∧ u.ts.active = s.ts.active ∧ u.role = s.role := by
  unfold State.applyRemove at h
  split at h
  next none_ => exact absurd none_ there
  · extract_lets old at h
    split at h
    next c hc =>
      injection h with h
      obtain ⟨log, active, -, role⟩ := State.sameStage_tryStage hc
      obtain ⟨log', active', staged', role'⟩ :=
        State.sameStage_showLoads { c with ts := { c.ts with staged := Tbl.set (fun _ => none) c.ts.staged key none } } old
      rw [← h, State.stagedRec, staged', log', active', role']
      exact ⟨Tbl.get_set_same (d := fun _ => none) c.ts.staged key none, log, active, role⟩
    next no => exact absurd h (no _)

theorem State.sameStage_slotBack {c : StageCmd} (h : s.slotBack c = .ok u) : s.sameStage u := by
  have same {z : State} (h : StageAns.ok z = .ok u) : z.sameStage u := by
    injection h with h
    exact h ▸ .refl z
  unfold State.slotBack at h
  split at h
  · split at h
    · split at h
      · exact same h
      · exact State.sameStage_stageSlot h
    · exact same h
  · exact same h

/-- What a group change leaves (R123). -/
theorem State.applyGroup_ok {g f : Nat} {c : StageCmd} (h : s.applyGroup t g f c = .ok u) : t.sameStage u := by
  unfold State.applyGroup at h
  extract_lets z key at h
  have hz : t.sameStage z := ⟨rfl, rfl, rfl, rfl⟩
  split at h
  · split at h
    · exact nomatch h
    · exact hz.trans (State.sameStage_slotBack h)
  · extract_lets w at h
    split at h
    · split at h
      next s2 h2 =>
        split at h
        next c hc =>
          injection h with h
          exact h ▸ ((hz.trans (State.sameStage_slotBack h2)).trans (State.sameStage_tryStage hc)).trans (State.sameStage_showLoads _ _)
        next no => exact absurd h (no _)
      next no => exact absurd h (no _)
    next no => exact absurd h (no _)

end

/-! ## The entries (R144 to R151) -/

section
variable {s u : State} {r : EntryRef}

/-- The staging commands are carried out alike on a device without a peer. -/
theorem State.runOrdered_stage (solo : u.role = 0) (e : Sqe) {op : Nat} (h : op = 0x88 ∨ op = 0x89 ∨ op = 0x8E) :
    u.runOrdered r (withOp e op) .none = u.stage r (withOp e op) := by
  rw [State.runOrdered_solo solo]
  unfold State.applyCmd
  obtain rfl | rfl | rfl := h
  · rw [sqeOpcode_withOp e (by decide)]
    rfl
  · rw [sqeOpcode_withOp e (by decide)]
    rfl
  · rw [sqeOpcode_withOp e (by decide)]
    rfl

/-- The three staging commands with their opcodes. -/
def stagingRows (r : EntryRef) (e : StageSqe) : List (Instr × Nat) := [(.endpointAdd r e, 0x88), (.endpointRemove r e, 0x89), (.groupSet r e, 0x8E)]

/-- A staging command that meets no error is staged. -/
theorem State.exec_stage {e x : Sqe} {c : Instr × Nat} (hc : c ∈ stagingRows r ⟨e, none⟩) (solo : s.role = 0)
    (starting : s.starting r (withOp e c.2) x u) : exec c.1 s = .next ((u.stage r x).serveSpace) := by
  have solo' : u.role = 0 := by
    obtain ⟨-, -, rfl⟩ := starting
    exact s.begun_solo solo r x
  have hx := starting.1
  simp only [stagingRows, List.mem_cons, List.not_mem_nil, or_false] at hc
  obtain rfl | rfl | rfl := hc
  all_goals refine congrArg Host.Outcome.next ((State.startWith_of_starting starting _).trans (congrArg State.serveSpace ?_))
  all_goals rw [hx]
  · exact State.runOrdered_stage solo' e (.inl rfl)
  · exact State.runOrdered_stage solo' e (.inr (.inl rfl))
  · exact State.runOrdered_stage solo' e (.inr (.inr rfl))

/-- One that meets an error of schedule memory ends with it (R435). -/
theorem State.exec_stageHit {e x : Sqe} {h : StageHit} {c : Instr × Nat} (hc : c ∈ stagingRows r ⟨e, some h⟩)
    (starting : s.starting r (withOp e c.2) x u) (meets : u.meets h = true) : exec c.1 s = .next ((u.stageHit r x h).serveSpace) := by
  have hx := starting.1
  simp only [stagingRows, List.mem_cons, List.not_mem_nil, or_false] at hc
  obtain rfl | rfl | rfl := hc
  all_goals
    subst hx
    exact congrArg Host.Outcome.next ((State.startWith_of_starting starting _).trans (congrArg State.serveSpace (if_pos meets)))

theorem State.runScheduleCommit_solo (solo : u.role = 0) (e : Sqe) :
    u.runScheduleCommit r (withOp e 0x8A) = u.scheduleCommit r (withOp e 0x8A) u.mfN := by
  rw [State.runScheduleCommit, State.runOrdered_solo solo]
  unfold State.applyCmd
  rw [sqeOpcode_withOp e (by decide)]
  rfl

theorem State.commitPending_none (h : s.ts.commit = none) : s.commitPending = false := by rw [State.commitPending, h]; rfl

theorem State.stage_now (e : Sqe) (h : s.ts.commit = none) : s.stage r e = s.stageNow r e := by
  rw [State.stage, if_neg (by rw [State.commitPending_none h]; decide)]

/-- A mark of damage never moves to a later place. -/
theorem State.damage_damageOf (s : State) (t k p o b i : Nat) : ∃ j, j ≤ i ∧ (s.damage t k p o b i).damageOf t k p o b = some j := by
  refine ⟨match s.damageOf t k p o b with | some j => min i j | none => i, ?_, ?_⟩
  · split
    · exact min_le_left _ _
    · exact le_rfl
  · unfold State.damage
    extract_lets j rest
    have none_ : rest.find? (fun x => x.1 == t && x.2.1 == k && x.2.2.1 == p && x.2.2.2.1 == b * 2 + o) = none := by
      refine List.find?_eq_none.mpr fun x hx => ?_
      simpa only [Bool.not_eq_true, Bool.not_eq_true'] using (List.mem_filter.mp hx).2
    unfold State.damageOf
    dsimp -zeta only
    rw [List.find?_append, none_]
    simp only [Option.none_or, List.find?_cons, beq_self_eq_true, Bool.and_self, Option.map_some]
    rfl

/-- What an error of schedule memory leaves when a staging command meets it (R435). -/
theorem State.stageHit_spec (r : EntryRef) (e : Sqe) (h : StageHit) : ∃ v : State, v.flag Reg.GLB_ERR_UNCORRECTABLE = true ∧
    v.ts.log = u.ts.log ∧ v.ts.staged = u.ts.staged ∧ u.stageHit r e h = v.completeM r e St.aborted ∧
    ∀ a (tr : Trunk) k p o i, h = .list a tr k p o i →
      ∃ j, j ≤ i ∧ v.damageOf tr.val k p (b2n o) (u.bankOf tr.val k p (b2n o)) = some j := by
  have ts (unit addr : Nat) : (u.smError unit addr).ts = u.ts := (State.smError_moves (l_ := [.regs, .fn, .out]) (.refl _ u) (by decide)).ts_eq (by decide)
  cases h with
  | log a =>
    refine ⟨_, (u.captureError_spec _ _ _ _ _ _).1, ?_, ?_, rfl, fun _ _ _ _ _ _ h => nomatch h⟩
    · exact congrArg SchedSt.log (ts tableUnit a)
    · exact congrArg SchedSt.staged (ts tableUnit a)
  | list a t k p o i =>
    refine ⟨(u.smError (listUnit t.val k p (b2n o) true) a).damage t.val k p (b2n o) (u.bankOf t.val k p (b2n o)) i, (u.captureError_spec _ _ _ _ _ _).1, ?_, ?_, rfl, ?_⟩
    · change (u.smError _ _).ts.log = _
      rw [ts]
    · change (u.smError _ _).ts.staged = _
      rw [ts]
    · rintro _ _ _ _ _ _ ⟨⟩
      exact State.damage_damageOf _ _ _ _ _ _ _

theorem State.showCommit_pending {c : Commit} (h : s.ts.commit = some c) : s.showCommit.ts = s.ts ∧
    s.showCommit.flag Reg.TS_STATUS_COMMIT_PENDING = true ∧ s.showCommit.f Reg.TS_COMMIT_MF_LO_MF = c.m % 2 ^ 32 := by
  rw [State.showCommit, h]
  refine ⟨by rw [State.setB_ts, State.setF_ts, State.setF_ts], State.flag_setB_same _ _ rfl rfl, ?_⟩
  simp (disch := decide) only [State.f_setB_apart, State.f_setF_apart, State.f_setF_same]
  rfl

end

/-- What a staging command that is applied leaves, before its entry ends (R146 to R148). -/
theorem State.showPool_stage {s u : State} (h : u.ts.log = s.ts.log) (c : StageRec) :
    (u.logStage c).showPool.ts.log = s.ts.log ++ [c] := by
  rw [((u.logStage c).sameStage_showPool).1, ← h]
  rfl

theorem State.applyStage_add {s v : State} {r : EntryRef} {key k phase length : Nat} {emerg : Bool}
    (h : s.applyStage r (.add key k phase length emerg) = .ok v) : ∃ c, s.applyAdd key k phase length emerg r.fn.val = .ok c ∧
      v = c.logStage ⟨r, .add key k phase length emerg⟩ := by
  unfold State.applyStage at h
  dsimp only at h
  split at h
  next c hc =>
    injection h with h
    exact ⟨c, hc, h.symm⟩
  next no => exact absurd h (no _)

theorem State.applyStage_remove {s v : State} {r : EntryRef} {key : Nat} (there : s.stagedRec key ≠ none)
    (h : s.applyStage r (.remove key) = .ok v) : ∃ c, s.applyRemove key r.fn.val = .ok c ∧ v = c.logStage ⟨r, .remove key⟩ := by
  unfold State.applyStage at h
  dsimp only at h
  rw [if_neg (by simpa using there)] at h
  split at h
  next c hc =>
    injection h with h
    exact ⟨c, hc, h.symm⟩
  next no => exact absurd h (no _)

theorem stageCmd_add (e : Sqe) : stageCmd (withOp e 0x88) = .add (stageKey (withOp e 0x88)) (sqeF (withOp e 0x88) 2 0 4)
    (sqeF (withOp e 0x88) 2 16 16) (sqeF (withOp e 0x88) 2 8 8) (sqeF (withOp e 0x88) 3 0 1 == 1) := by
  unfold stageCmd
  rw [sqeOpcode_withOp e (by decide)]
  rfl

theorem stageCmd_remove (e : Sqe) : stageCmd (withOp e 0x89) = .remove (stageKey (withOp e 0x89)) := by
  unfold stageCmd
  rw [sqeOpcode_withOp e (by decide)]
  rfl

theorem stageCmd_group (e : Sqe) : stageCmd (withOp e 0x8E) = .group (sqeF (withOp e 0x8E) 1 0 14) (sqeF (withOp e 0x8E) 2 0 16)
    (sqeF (withOp e 0x8E) 2 16 3) (sqeF (withOp e 0x8E) 3 0 1 == 1) := by
  unfold stageCmd
  rw [sqeOpcode_withOp e (by decide)]
  rfl

theorem State.begun_commit {s : State} (r : EntryRef) (e : Sqe) (h : s.ts.commit = none) : (s.begun r e).ts.commit = none := by
  rw [s.begun_ts, h]

/-- Settles O23: each command is applied as its entry starts, held, refused, or ended by the error that it meets. -/
theorem stagingAndCommitEntries : Obligations.StagingAndCommitEntries := by
  unfold Obligations.StagingAndCommitEntries
  intro s r e x u solo
  refine ⟨fun c hc starting => ⟨?_, ?_, ?_⟩, fun h c hc starting meets => ?_, fun v idle => ⟨?_, ?_, ?_⟩, fun starting => ⟨?_, ?_⟩⟩
  · intro pending room
    refine answers_eq (State.exec_stage hc solo starting) rfl ?_
    obtain ⟨-, -, rfl⟩ := starting
    have kept := State.serveSpace_kept ((s.begun r x).stage r x)
    rw [kept.ts_eq (by decide), State.stage, if_pos (by rw [State.commitPending, s.begun_ts]; exact pending),
      if_neg (by rw [State.logAfter, s.begun_ts]; exact Nat.not_lt.mpr room), (State.showPool_moves (l_ := [.regs]) (.refl _ _) (by decide)).ts_eq (by decide)]
    rw [s.begun_ts]
    exact ⟨rfl, rfl, rfl⟩
  · intro y idle refused
    refine answers_eq (State.exec_stage hc solo starting) rfl ?_
    obtain ⟨-, -, rfl⟩ := starting
    rw [State.stage_now _ (State.begun_commit r x idle), State.stageNow, refused]
  · intro idle exceeded
    refine answers_eq (State.exec_stage hc solo starting) rfl ?_
    obtain ⟨-, -, rfl⟩ := starting
    rw [State.stage_now _ (State.begun_commit r x idle), State.stageNow, exceeded]
  · refine answers_eq (State.exec_stageHit hc starting meets) rfl ?_
    obtain ⟨v, flag, log, staged, ends, list⟩ := u.stageHit_spec r x h
    obtain ⟨-, -, rfl⟩ := starting
    rw [s.begun_ts] at log staged
    exact ⟨v, flag, log, staged, congrArg State.serveSpace ends, list⟩
  · intro starting applied
    refine answers_eq (State.exec_stage (c := (.endpointAdd r ⟨e, none⟩, 0x88)) (.head _) solo starting) rfl ?_
    obtain ⟨rfl, -, rfl⟩ := starting
    rw [State.stage_now _ (State.begun_commit r _ idle), State.stageNow]
    dsimp only
    rw [applied]
    dsimp only
    rw [stageCmd_add] at applied ⊢
    obtain ⟨c, hc, rfl⟩ := State.applyStage_add applied
    obtain ⟨ph, phase, rec_, log, active, -⟩ := State.applyAdd_ok hc
    rw [s.begun_ts] at log active
    have pool := (c.logStage ⟨r, stageCmd (withOp e 0x88)⟩).sameStage_showPool
    rw [stageCmd_add] at pool
    have staged := congrArg (Tbl.get (fun _ => none) · (stageKey (withOp e 0x88))) pool.2.2.1
    have rec' := staged.trans rec_
    refine ⟨_, ph, rec', phase, State.showPool_stage log _, pool.2.1.trans active, ?_⟩
    dsimp only
    rw [show State.stagedRec _ _ = _ from rec']
    rfl
  · intro starting there applied
    refine answers_eq (State.exec_stage (c := (.endpointRemove r ⟨e, none⟩, 0x89)) (.tail _ (.head _)) solo starting) rfl ?_
    obtain ⟨rfl, -, rfl⟩ := starting
    rw [State.stage_now _ (State.begun_commit r _ idle), State.stageNow]
    dsimp only
    rw [applied]
    dsimp only
    rw [stageCmd_remove] at applied ⊢
    have there' : (s.begun r (withOp e 0x89)).stagedRec (stageKey (withOp e 0x89)) ≠ none := by
      rwa [State.stagedRec, s.begun_ts]
    obtain ⟨c, hc, rfl⟩ := State.applyStage_remove there' applied
    obtain ⟨rec_, log, active, -⟩ := State.applyRemove_ok there' hc
    rw [s.begun_ts] at log active
    have pool := (c.logStage ⟨r, .remove (stageKey (withOp e 0x89))⟩).sameStage_showPool
    have staged := congrArg (Tbl.get (fun _ => none) · (stageKey (withOp e 0x89))) pool.2.2.1
    exact ⟨_, staged.trans rec_, State.showPool_stage log _, pool.2.1.trans active, rfl⟩
  · intro starting applied
    refine answers_eq (State.exec_stage (c := (.groupSet r ⟨e, none⟩, 0x8E)) (.tail _ (.tail _ (.head _))) solo starting) rfl ?_
    obtain ⟨rfl, -, rfl⟩ := starting
    rw [State.stage_now _ (State.begun_commit r _ idle), State.stageNow]
    dsimp only
    rw [applied]
    dsimp only
    rw [stageCmd_group] at applied ⊢
    obtain ⟨log, active, -, role⟩ := (State.applyGroup_ok applied).trans v.sameStage_showPool
    have here : v.showPool.isPartner = false := by
      rw [State.isPartner, role]
      exact beq_false_of_ne (ne_of_eq_of_ne (s.begun_solo solo r (withOp e 0x8E)) (by decide))
    refine ⟨v.showPool, ?_, ?_, ?_⟩
    · rw [log, ← s.begun_ts r (withOp e 0x8E)]
      rfl
    · rw [active, ← s.begun_ts r (withOp e 0x8E)]
      rfl
    · dsimp only
      rw [State.when, if_pos (by rw [here]; decide)]
  · intro idle lead
    refine answers_eq rfl (State.startWith_of_starting starting _) ?_
    obtain ⟨rfl, -, rfl⟩ := starting
    have begins : (s.begun r (withOp e 0x8A)).scheduleCommit r (withOp e 0x8A) s.mfN =
        (s.begun r (withOp e 0x8A)).beginCommit (sqeMf (withOp e 0x8A) 2) [r] := by
      rw [State.scheduleCommit]
      dsimp only
      rw [if_neg (by rw [s.begun_commitLead]; exact Nat.not_lt.mpr lead), State.begun_commit r _ idle]
    rw [State.runScheduleCommit_solo (s.begun_solo solo r _), s.begun_mfN, begins, State.beginCommit]
    generalize hz : ({ (s.begun r (withOp e 0x8A)).seal with ts := _ } : State) = z
    have kept := State.serveSpace_kept z.showCommit
    have zts : z.ts = { s.ts with sealed_ := s.ts.sealed_ ++ s.ts.log, log := [], commit := some ⟨sqeMf (withOp e 0x8A) 2, [r], false⟩ } := by
      rw [← hz, ← s.begun_ts r (withOp e 0x8A)]
      rfl
    obtain ⟨ts, pending, mf⟩ := State.showCommit_pending (s := z) (by rw [zts])
    rw [kept.ts_eq (by decide), kept.flag_eq (by decide), kept.f_eq (by decide), ts, zts]
    exact ⟨rfl, rfl, rfl, pending, mf⟩
  · intro late
    refine answers_eq rfl (State.startWith_of_starting starting _) ?_
    obtain ⟨rfl, -, rfl⟩ := starting
    rw [State.runScheduleCommit_solo (s.begun_solo solo r _), s.begun_mfN, State.scheduleCommit]
    dsimp only
    rw [if_pos (by rw [s.begun_commitLead]; exact late)]
end Sys2Proof.Machine

namespace Sys2Proof.Machine

/-! # Grants, freeze, save, restore and thaw of a VF (R417 to R419, R427 to R431)

## What leaves the records of the VFs alone -/

section
variable (s : State)

/-- What no step of a fold changes stays. -/
theorem State.foldl_eq {s : State} {α β : Type} {p : State → β} {f : State → α → State} (hf : ∀ t x, p (f t x) = p t) (l : List α) :
    p (l.foldl f s) = p s := by
  induction l generalizing s with
  | nil => rfl
  | cons x l ih => rw [List.foldl_cons, ih, hf]

theorem State.foldl_vfs {s : State} {α : Type} {f : State → α → State} (hf : ∀ t x, (f t x).fn.vfs = t.fn.vfs) (l : List α) :
    (l.foldl f s).fn.vfs = s.fn.vfs := State.foldl_eq (p := fun t => t.fn.vfs) hf l

theorem State.vfs_of_moves {s t : State} {l : List Part} (h : Moves l s t) (hl : l.contains .fn = false) : t.fn.vfs = s.fn.vfs := by
  rw [h.fn_eq hl]

theorem State.putRsb_vfs (f i : Nat) (w : Word) : (s.putRsb f i w).fn.vfs = s.fn.vfs := by
  unfold State.putRsb
  split
  · rfl
  · split <;> rfl

theorem State.writeRsbSq_vfs (f i : Nat) : (s.writeRsbSq f i).fn.vfs = s.fn.vfs := by
  unfold State.writeRsbSq
  split
  · split
    · rw [State.setB_fn]
    · exact s.putRsb_vfs _ _ _
  · rfl

theorem State.writeRsbCq_vfs (f i : Nat) : (s.writeRsbCq f i).fn.vfs = s.fn.vfs := by
  unfold State.writeRsbCq
  split
  · split
    · rw [State.setB_fn]
    · exact s.putRsb_vfs _ _ _
  · rfl

theorem State.sendRsbs_vfs (f : Nat) : (s.sendRsbs f).fn.vfs = s.fn.vfs := by
  unfold State.sendRsbs
  refine State.foldl_vfs (fun t i => ?_) _
  split
  · exact t.writeRsbSq_vfs f i
  · exact t.writeRsbCq_vfs f i

theorem State.sendPending_vfs (f : Nat) : (s.sendPending f).fn.vfs = s.fn.vfs := by
  unfold State.sendPending
  refine State.foldl_vfs (fun t v => ?_) _
  split <;> rfl

theorem State.signal_vfs (f v : Nat) : (s.signal f v).fn.vfs = s.fn.vfs := by
  unfold State.signal
  extract_lets
  split
  · split <;> rfl
  · split <;> rfl

theorem State.signalCq_vfs (f i : Nat) : (s.signalCq f i).fn.vfs = s.fn.vfs := by
  unfold State.signalCq
  split
  · rfl
  · exact State.signal_vfs _ _ _

theorem State.updSq_fn (f i : Nat) (g : SqRec → SqRec) : (s.updSq f i g).fn = s.fn := by
  unfold State.updSq
  split <;> rfl

theorem State.updCq_fn (f i : Nat) (g : CqRec → CqRec) : (s.updCq f i g).fn = s.fn := by
  unfold State.updCq
  split <;> rfl

theorem State.scanSq_vfs (f i : Nat) : (s.scanSq f i).fn.vfs = s.fn.vfs := by
  unfold State.scanSq
  split
  · rfl
  · split
    · split
      · rw [State.updSq_fn]
      · extract_lets t
        have ht : t.fn.vfs = s.fn.vfs := congrArg FnSt.vfs (s.updSq_fn f i _)
        split <;> exact ht
    · unfold State.keepDoorbell
      split <;> rfl

theorem State.restartCq_vfs (f i : Nat) : ((s.updCq f i (fun c => { c with credit := 0 })).scanCq f i).fn.vfs = s.fn.vfs := by
  have kept := (State.scanCq_kept (s := s.updCq f i (fun c => { c with credit := 0 })) f i).2.1
  rw [kept, State.updCq_fn]

theorem State.enterOverflow_vfs (f i : Nat) : (s.enterOverflow f i).fn.vfs = s.fn.vfs := by
  unfold State.enterOverflow
  split
  · rfl
  · split
    · rfl
    · extract_lets a b d
      have ha : a.fn.vfs = s.fn.vfs := State.writeRsbCq_vfs _ f i
      have hb : b.fn.vfs = s.fn.vfs := (State.vfs_of_moves (State.bump_moves (l_ := [.regs]) (.refl _ a) (by decide)) (by decide)).trans ha
      have hd : d.fn.vfs = s.fn.vfs := by
        unfold d
        split
        · exact (b.signalCq_vfs f i).trans hb
        · exact hb
      exact (State.foldl_vfs (fun t j => (State.writeRsbSq_vfs _ f j).trans (by rw [State.updSq_fn])) _).trans hd

theorem State.holdCqe_vfs (f i : Nat) (q : Cqe) : (s.holdCqe f i q).fn.vfs = s.fn.vfs := by
  unfold State.holdCqe
  split
  · rfl
  · extract_lets a
    have ha : a.fn.vfs = s.fn.vfs := by
      unfold a
      split <;> rfl
    split
    · exact (a.enterOverflow_vfs f i).trans ha
    · exact ha

theorem State.logLate_vfs (r : LateRec) : (s.logLate r).fn.vfs = s.fn.vfs :=
  State.vfs_of_moves (State.logLate_moves (l_ := [.regs, .xb]) (.refl _ s) (by decide)) (by decide)

/-! ## Rings whose cached entries are discarded (R427) -/

theorem State.discardCached_fn (f i : Nat) : (s.discardCached f i).fn = s.fn :=
  (State.discardCached_moves (l_ := [.regs, .qe]) (.refl _ s) (by decide)).fn_eq (by decide)

theorem State.showPos_qe (f i : Nat) : (s.showPos f i).qe = s.qe := (State.showPos_moves (l_ := [.regs]) (.refl _ s) (by decide)).qe_eq (by decide)

theorem State.setCache_qe (c : List CacheEnt) : (s.setCache c).qe = { s.qe with cache := c } := by
  rw [State.setCache, (State.showCache_moves (l_ := [.regs]) (.refl _ _) (by decide)).qe_eq (by decide)]

/-- The cache loses the entries of the ring and no others. -/
theorem State.discardCached_cachedOf {f i : Nat} (there : (s.sq f i).isSome = true) : (s.discardCached f i).cachedOf f i = [] := by
  obtain ⟨q, hq⟩ := Option.isSome_iff_exists.mp there
  unfold State.discardCached
  split
  next hc =>
    rw [State.cachedOf, State.showPos_qe]
    change ((s.setCache _).qe.cache).filter _ = []
    rw [State.setCache_qe]
    exact List.filter_eq_nil_iff.mpr fun x hx => by simpa only [Bool.not_eq_true, Bool.not_eq_true'] using (List.mem_filter.mp hx).2
  next no =>
    cases hl : s.cachedOf f i with
    | nil => rfl
    | cons c l => exact absurd hl (no q c l hq)

theorem State.discardCached_sublist (f i : Nat) : (s.discardCached f i).qe.cache.Sublist s.qe.cache := by
  unfold State.discardCached
  split
  · rw [State.showPos_qe]
    change ((s.setCache _).qe.cache).Sublist _
    rw [State.setCache_qe]
    exact List.filter_sublist
  · exact .refl _

theorem State.discardCached_keeps {f i : Nat} (j : Nat) (h : s.cachedOf f i = []) : (s.discardCached f j).cachedOf f i = [] :=
  List.sublist_nil.mp (h ▸ (s.discardCached_sublist f j).filter _)

theorem State.sq_setSq_other {f i j : Nat} (h : rk f j ≠ rk f i) (q : Option SqRec) : (s.setSq f i q).sq f j = s.sq f j :=
  Tbl.get_set_other _ _ h

theorem State.discardCached_there {f i : Nat} (j : Nat) (h : (s.sq f i).isSome = true) : ((s.discardCached f j).sq f i).isSome = true := by
  unfold State.discardCached
  split
  next q c l hq hc =>
    extract_lets first n gone skip t
    rw [State.sq_of_qe (s := t.setSq f j (some { q with pos := first, skip := skip })) (by rw [State.showPos_qe])]
    by_cases e : rk f i = rk f j
    · rw [State.sq, e]
      exact congrArg Option.isSome (t.sq_setSq f j _)
    · rw [t.sq_setSq_other e, State.sq_of_qe (s := s) (by unfold t; rw [State.setCache_qe])]
      exact h
  · exact h

/-- Rings that a list names have nothing cached once the cached entries of each have been discarded. -/
theorem State.discardAll_cachedOf {s : State} {f i : Nat} {l : List Nat} (hi : i ∈ l) (there : (s.sq f i).isSome = true) :
    (s.forAll l (fun s i => s.discardCached f i)).cachedOf f i = [] := by
  have kept (l : List Nat) {t : State} (h : t.cachedOf f i = []) : (t.forAll l (fun s i => s.discardCached f i)).cachedOf f i = [] := by
    induction l generalizing t with
    | nil => exact h
    | cons j l ih => exact ih (t.discardCached_keeps j h)
  induction l generalizing s with
  | nil => exact nomatch hi
  | cons j l ih =>
    by_cases e : i = j
    · subst e
      exact kept l (s.discardCached_cachedOf there)
    · exact ih ((List.mem_cons.mp hi).resolve_left e) (s.discardCached_there j there)

theorem State.discardAll_fn {s : State} (f : Nat) (l : List Nat) : (s.forAll l (fun s i => s.discardCached f i)).fn = s.fn := by
  induction l generalizing s with
  | nil => rfl
  | cons j l ih => exact ih.trans (s.discardCached_fn f j)

theorem Tbl.mem_of_get {α : Type} {m : Tbl (Option α)} {k : Nat} (h : (Tbl.get (fun _ => none) m k).isSome = true) :
    ∃ v, (k, v) ∈ m ∧ v.isSome = true := by
  induction m with
  | nil => exact nomatch h
  | cons e m ih =>
    obtain ⟨a, w⟩ := e
    by_cases c : a = k
    · subst c
      refine ⟨w, .head _, ?_⟩
      simpa [Tbl.get] using h
    · rw [Tbl.get, if_neg c] at h
      obtain ⟨v, hv, some_⟩ := ih h
      exact ⟨v, .tail _ hv, some_⟩

/-- A ring of the function is among its rings. -/
theorem State.mem_sqsOf {f i : Nat} (low : i < 2048) (there : (s.sq f i).isSome = true) : i ∈ s.sqsOf f := by
  obtain ⟨v, mem, some_⟩ := Tbl.mem_of_get there
  refine List.mem_map.mpr ⟨(rk f i, v), List.mem_filter.mpr ⟨mem, ?_⟩, ?_⟩
  · simp only [rk, Bool.and_eq_true, beq_iff_eq]
    exact ⟨by omega, some_⟩
  · simp only [rk]
    omega

end

/-! ## The entries -/

section
variable {s : State} {r : EntryRef}

theorem State.begun_fn (s : State) (r : EntryRef) (e : Sqe) : (s.begun r e).fn = s.fn := (s.begun_moves r e).fn_eq (by decide)
theorem State.begun_vfRec (s : State) (r : EntryRef) (e : Sqe) (v : Nat) : (s.begun r e).vfRec v = s.vfRec v :=
  State.vfRec_of_fn (by rw [s.begun_fn]) v
theorem State.begun_vfAtRest (s : State) (r : EntryRef) (e : Sqe) (v : Nat) : (s.begun r e).vfAtRest v = s.vfAtRest v := by
  rw [State.vfAtRest, s.begun_vfRec, State.vfAtRest]
theorem State.begun_chansOf (s : State) (r : EntryRef) (e : Sqe) (f : Nat) : (s.begun r e).chansOf f = s.chansOf f := by
  rw [State.chansOf, s.begun_bm, State.chansOf]
theorem State.begun_rings (s : State) (r : EntryRef) (e : Sqe) (f : Nat) :
    (s.begun r e).sqsOf f = s.sqsOf f ∧ (s.begun r e).cqsOf f = s.cqsOf f := by
  obtain ⟨sqs, cqs, -⟩ := s.begun_qe r e
  rw [State.sqsOf, State.cqsOf, sqs, cqs]
  exact ⟨rfl, rfl⟩
theorem State.begun_adminEn (s : State) (r : EntryRef) (e : Sqe) (f : Nat) :
    (s.begun r e).flag (Reg.QE_ADMIN_CFG_EN f) = s.flag (Reg.QE_ADMIN_CFG_EN f) := by
  have high : Reg.QE_ADMIN_CFG f ∉ startRegs := by
    simp only [startRegs, Reg.QE_ADMIN_CFG, Reg.pageBase, Reg.QE_CACHE_USED, Reg.QE_STATUS, List.mem_cons, List.not_mem_nil, or_false]
    omega
  exact s.begun_flag r e high

theorem State.runVfGrant_fits {e : Sqe} {b : List Byte} {g : Grant} (solo : s.role = 0) (record : grantOf b = some g)
    (check : s.grantCheck (sqeF (withOp e 0x90) 1 0 10 + 1) g = St.ok) :
    s.runVfGrant r (withOp e 0x90) b = s.vfGrant r (withOp e 0x90) b := by
  unfold State.runVfGrant State.orderedGrant
  rw [record]
  dsimp only
  rw [if_pos check, State.runOrdered_solo solo]
  unfold State.applyCmd
  rw [sqeOpcode_withOp e (by decide)]
  rfl

/-- A grant record that takes nothing in use takes force (R417 to R419). -/
theorem State.vfGrant_fits {e : Sqe} {b : List Byte} {g : Grant} {n : Nat} (admin : r.sq = 0) (vf : sqeF e 1 0 10 = n)
    (record : grantOf b = some g) (handles : s.othersHold (n + 1) g (·.handles) = false) (groups : s.othersHold (n + 1) g (·.groups) = false)
    (free : s.takesMirrored (n + 1) g = false) :
    ∃ v : State, v.grant (n + 1) = g ∧ s.vfGrant r e b = v.completeM r e St.ok := by
  have whole : r.sq ≠ 1 := by
    rw [admin]
    decide
  unfold State.vfGrant
  rw [vf]
  extract_lets v f old m
  rw [record]
  dsimp only
  rw [if_neg whole, if_neg (by simp [f, v, handles, groups]), if_neg (by simp [f, v, free])]
  refine ⟨_, ?_, rfl⟩
  rw [State.grant, State.foldl_eq (p := State.fn) fun t h => ?_, (State.showVf_moves (l_ := [.regs]) (.refl _ _) (by decide)).fn_eq (by decide)]
  · exact Tbl.get_set_same _ _ _
  · split
    · exact (State.setCf_moves (l_ := [.ebm]) (.refl _ t) (by decide)).fn_eq (by decide)
    · rfl

/-- A VF that is neither in reset nor frozen freezes (R427). -/
theorem State.vfFreeze_freezes {e : Sqe} {n : Nat} (vf : sqeF e 1 0 10 = n) (live : (s.vfRec n).resetBusy = false)
    (runs : (s.vfRec n).frozen = false) : ∃ w : State, (w.vfRec n).frozen = true ∧ (w.vfRec n).saved = false ∧
      (w.vfRec n).freezing = [r] ∧ (∀ i, i < 2048 → (s.sq (n + 1) i).isSome = true → w.cachedOf (n + 1) i = []) ∧
      s.vfFreeze r e = ((w.inCqeOrder xferRef (w.xfersOf (n + 1))).foldl (fun (z : State) y =>
        if movedNothing y.2 then z.endXfer y.1 St.frozen else z) w).settleFn (n + 1) := by
  unfold State.vfFreeze
  rw [vf]
  extract_lets v f q t w
  rw [if_neg (by simp [q, v, live]), if_neg (by simp [q, v, runs]), if_neg (by simp [q, v, runs])]
  have record : w.vfRec n = t.vfRec n := State.vfRec_of_fn (by rw [show w.fn = _ from State.discardAll_fn _ _]) n
  have sq (i : Nat) : t.sq f i = s.sq f i := State.sq_of_qe (congrArg QueueSt.sqs (State.setReg_qe _ _ _)) f i
  refine ⟨w, ?_, ?_, ?_, fun i low there => ?_, rfl⟩
  · rw [record, show t.vfRec n = _ from s.vfRec_setVf n _]
  · rw [record, show t.vfRec n = _ from s.vfRec_setVf n _]
  · rw [record, show t.vfRec n = _ from s.vfRec_setVf n _]
  · have there' : (t.sq f i).isSome = true := by rw [sq]; exact there
    exact State.discardAll_cachedOf (t.mem_sqsOf low there') there'

theorem foldl_id {α β : Type} {f : β → α → β} {b : β} (l : List α) (h : ∀ x ∈ l, f b x = b) : l.foldl f b = b := by
  induction l with
  | nil => rfl
  | cons x l ih =>
    rw [List.foldl_cons, h x (.head _)]
    exact ih fun y hy => h y (.tail _ hy)

/-- The blob of a VF at rest goes to the buffer once its clips and taps have ended (R429). -/
theorem State.vfSave_saves {e : Sqe} {n : Nat} {w : State} (vf : sqeF e 1 0 10 = n) (rest : s.vfAtRest n = true)
    (chans : (s.chansOf (n + 1)).all (fun y => match y.2.kind with | .clip _ | .tap _ => false | _ => true) = true)
    (hw : w = ((s.endClipsOf (n + 1) St.aborted).endTapsOf (n + 1) St.aborted).dropStops (n + 1))
    (room : (w.blob n).length ≤ (sqeDw e 4).toNat) (held : (w.heldOf (n + 1)).length ≤ 16384) :
    ∃ v : State, (v.vfRec n).saved = true ∧ Emit.write r.fn.val (sqe64 e 2) (w.blob n) ∈ v.out ∧
      s.vfSave r e = v.complete r e St.ok 0 (BitVec.ofNat 32 (w.blob n).length) := by
  unfold State.vfSave
  rw [vf]
  dsimp only
  rw [if_neg (by simp [rest]), foldl_id, ← hw, if_neg (by omega)]
  · exact ⟨_, congrArg VfRec.saved (State.vfRec_setVf _ _ _), .head _, rfl⟩
  · intro x hx
    have other := List.all_eq_true.mp chans x hx
    split
    next hk => rw [hk] at other; exact nomatch other
    next hk => rw [hk] at other; exact nomatch other
    · rfl

/-- The state of a blob goes into the VF, which is frozen from then on (R430). -/
theorem State.putBlob_vfRec (u : VfId) (b : Blob) : ((s.putBlob u b).vfRec u.val).frozen = true ∧ ((s.putBlob u b).vfRec u.val).restored = true ∧
    ((s.putBlob u b).vfRec u.val).held.length = b.cqes.length ∧ ((s.putBlob u b).vfRec u.val).late = b.late.map (lateOf u.val) := by
  unfold State.putBlob
  extract_lets
  rw [State.vfRec_setVf]
  exact ⟨rfl, rfl, List.length_map _, rfl⟩

theorem State.vfRestore_restores {e : Sqe} {b : List Byte} {y : Blob} {n : VfId} (vf : sqeF e 1 0 10 = n.val) (read : readBlob b = some y)
    (sqs : (s.sqsOf (n.val + 1)).any (· != 0) = false) (cqs : (s.cqsOf (n.val + 1)).any (· != 1) = false)
    (off : s.flag (Reg.QE_ADMIN_CFG_EN (n.val + 1)) = false) (live : s.inReset (n.val + 1) = false) (granted : s.blobGranted (n.val + 1) y = true) :
    s.vfRestore r e b = (s.putBlob n y).complete r e St.ok := by
  have index : (⟨sqeF e 1 0 10 % 1024, by omega⟩ : VfId) = n := Fin.ext ((congrArg (· % 1024) vf).trans (Nat.mod_eq_of_lt n.isLt))
  unfold State.vfRestore
  rw [index, read]
  dsimp only
  rw [if_neg (by simp only [sqs, cqs, off, live]; decide), if_neg (by simp [granted])]

/-- A VF that thaws is no longer frozen, and holds nothing (R431). -/
theorem State.vfThaw_thaws {e : Sqe} {n : Nat} (vf : sqeF e 1 0 10 = n) (rest : s.vfAtRest n = true) :
    ∃ v : State, (v.vfRec n).frozen = false ∧ (v.vfRec n).held = [] ∧ (v.vfRec n).late = [] ∧ s.vfThaw r e = v.complete r e St.ok := by
  unfold State.vfThaw
  rw [vf]
  extract_lets v f q a b c d g h i j k
  rw [if_neg (by simp [v, rest])]
  have hb : b.fn.vfs = a.fn.vfs := State.foldl_vfs (fun t i => t.writeRsbSq_vfs f i) _
  have hc : c.fn.vfs = b.fn.vfs := (State.sendRsbs_vfs _ f).trans (State.foldl_vfs (fun t i => t.writeRsbCq_vfs f i) _)
  have hd : d.fn.vfs = c.fn.vfs := c.sendPending_vfs f
  have hg : g.fn.vfs = d.fn.vfs := by
    unfold g State.forAll
    exact State.foldl_vfs (fun t i => t.restartCq_vfs f i) _
  have hh : h.fn.vfs = g.fn.vfs := State.foldl_vfs (fun t (x : Nat × Cqe) => t.holdCqe_vfs f x.1 x.2) _
  have hi : i.fn.vfs = h.fn.vfs := State.foldl_vfs (fun t i => by
    split
    · split
      · exact t.signalCq_vfs f i
      · rfl
    · rfl) _
  have hj : j.fn.vfs = i.fn.vfs := State.foldl_vfs (fun t i => t.scanSq_vfs f i) _
  have hk : k.fn.vfs = j.fn.vfs := State.foldl_vfs (fun t x => by
    dsimp only
    split
    · rw [State.setB_fn, t.logLate_vfs]
    · exact t.logLate_vfs x) _
  have record : (k.bump Reg.XB_LATE_LOST_COUNT q.lateLost).vfRec n = a.vfRec n := State.vfRec_of_fn (by
    rw [State.vfs_of_moves (State.bump_moves (l_ := [.regs]) (.refl _ k) (by decide)) (by decide), hk, hj, hi, hh, hg, hd, hc, hb]) n
  refine ⟨_, ?_, ?_, ?_, rfl⟩
  all_goals rw [record, show a.vfRec n = _ from s.vfRec_setVf n _]

end

/-- Settles O25: each entry does to its VF what it names before it completes. -/
theorem virtualFunctionEntries : Obligations.VirtualFunctionEntries := by
  unfold Obligations.VirtualFunctionEntries
  intro s r e x u n admin vf
  refine ⟨fun b g starting solo record check handles groups free => ?_, fun b starting none_ => ?_, fun starting => ⟨fun live runs => ?_,
    fun live rest => ?_, fun busy => ?_⟩, fun starting => ⟨fun awake => ?_, fun w rest chans hw room held => ?_⟩,
    fun b y starting read sqs cqs off live granted => ?_, fun starting => ⟨fun awake => ?_, fun rest => ?_⟩⟩
  all_goals refine answers_eq rfl (State.startWith_of_starting starting _) ?_
  case refine_1 =>
    obtain ⟨rfl, -, rfl⟩ := starting
    obtain ⟨v, took, ends⟩ := State.vfGrant_fits (s := s.begun r (withOp e 0x90)) admin vf record handles groups free
    rw [State.runVfGrant_fits (s.begun_solo solo r _) record (by rw [vf]; exact check), ends]
    exact ⟨v, took, rfl⟩
  case refine_2 =>
    obtain ⟨rfl, -, rfl⟩ := starting
    unfold State.runVfGrant State.orderedGrant
    rw [none_]
  case refine_3 =>
    obtain ⟨rfl, -, rfl⟩ := starting
    obtain ⟨w, frozen, saved, freezing, cached, ends⟩ := State.vfFreeze_freezes (s := s.begun r (withOp e 0x91)) (r := r) vf
      (by rw [s.begun_vfRec, live]) (by rw [s.begun_vfRec, runs])
    refine ⟨w, frozen, saved, freezing, fun i low there => cached i low ?_, congrArg State.serveSpace ends⟩
    rw [State.sq_of_qe (s.begun_qe r _).1]
    exact there
  case refine_4 =>
    obtain ⟨rfl, -, rfl⟩ := starting
    have rest' : ((s.vfRec n.val).frozen && (s.vfRec n.val).freezing.isEmpty) = true := rest
    rw [State.runVfFreeze, State.vfFreeze, vf]
    dsimp only
    rw [s.begun_vfRec, if_neg (by simp [live]), if_pos rest']
  case refine_5 =>
    obtain ⟨rfl, -, rfl⟩ := starting
    rw [State.runVfFreeze, State.vfFreeze, vf]
    dsimp only
    rw [s.begun_vfRec, if_pos busy]
  case refine_6 =>
    obtain ⟨rfl, -, rfl⟩ := starting
    rw [State.runVfSave, State.vfSave, vf]
    dsimp only
    rw [s.begun_vfAtRest, if_pos (by simp [awake])]
  case refine_7 =>
    obtain ⟨rfl, -, rfl⟩ := starting
    obtain ⟨v, saved, out, ends⟩ := State.vfSave_saves (s := s.begun r (withOp e 0x92)) (r := r) vf (by rw [s.begun_vfAtRest, rest])
      (by rw [s.begun_chansOf]; exact chans) hw room held
    rw [State.runVfSave, ends]
    exact ⟨State.complete_out_kept out _ _ _ _ _ _ _ _, v, saved, rfl⟩
  case refine_8 =>
    obtain ⟨rfl, -, rfl⟩ := starting
    obtain ⟨frozen, restored, held, late⟩ := State.putBlob_vfRec (s := s.begun r (withOp e 0x93)) n y
    obtain ⟨sqs', cqs'⟩ := s.begun_rings r (withOp e 0x93) (n.val + 1)
    rw [State.runVfRestore, State.vfRestore_restores vf read (by rw [sqs', sqs]) (by rw [cqs', cqs]) (by rw [s.begun_adminEn, off])
      (by rwa [State.inReset, s.begun_fn, s.begun_vfRec]) granted]
    exact ⟨_, frozen, restored, held, late, rfl⟩
  case refine_9 =>
    obtain ⟨rfl, -, rfl⟩ := starting
    rw [State.runVfThaw, State.vfThaw, vf]
    dsimp only
    rw [s.begun_vfAtRest, if_pos (by simp [awake])]
  case refine_10 =>
    obtain ⟨rfl, -, rfl⟩ := starting
    obtain ⟨v, frozen, held, late, ends⟩ := State.vfThaw_thaws (s := s.begun r (withOp e 0x94)) (r := r) vf (by rw [s.begun_vfAtRest, rest])
    rw [State.runVfThaw, ends]
    exact ⟨v, frozen, held, late, rfl⟩
end Sys2Proof.Machine

namespace Sys2Proof.Machine

/-! # Doorbells and scans (R326, R333, R337, R350 to R359, R363, R364, R371)

## What a scan's start depends on -/

section
variable {s t : State} {f i : Nat}

/-- Whether a ring may fetch follows from flags of the device, from the functions' records and from three fields of its record. -/
theorem State.mayFetch_of {q p : SqRec} (hs : s.sq f i = some q) (ht : t.sq f i = some p) (faulted : p.faulted = q.faulted)
    (stopped : p.fetchStopped = q.fetchStopped) (deleting : p.deleting = q.deleting) (fns : t.fn.fns = s.fn.fns) (vfs : t.fn.vfs = s.fn.vfs)
    (pf : t.fn.pfReset = s.fn.pfReset) (lost : t.fn.lostAt = s.fn.lostAt) (l23 : t.fn.l23 = s.fn.l23) (pm : t.pm = s.pm) (ck : t.ck = s.ck)
    {l : List Nat} (regs : s.regsBut l t) (hl : Reg.HIF_STATUS ∉ l ∧ Reg.PMU_REQ_STATUS ∉ l ∧ Reg.QE_CTRL ∉ l) :
    t.mayFetch f i = s.mayFetch f i := by
  obtain ⟨hif, pmu, qe⟩ := hl
  rw [State.mayFetch, State.mayFetch, hs, ht]
  dsimp only
  rw [faulted, stopped, deleting, State.operational, regs.flag hif, State.operational, State.hostHere, lost, l23, State.hostHere,
    State.dormantPending, regs.flag pmu, regs.f pmu, pm, State.dormantPending, State.halted, ck, State.halted, regs.flag qe, State.d3hot,
    State.fnRec_of_fn fns, State.d3hot, State.frozen, State.vfRec_of_fn vfs, State.frozen, State.inReset, pf, State.vfRec_of_fn vfs,
    State.inReset]

theorem State.mayFetch_d0 (h : s.mayFetch f i = true) : s.d3hot f = false ∧ s.operational = true := by
  unfold State.mayFetch at h
  split at h
  · exact nomatch h
  · simp only [Bool.and_eq_true, Bool.not_eq_true'] at h
    exact ⟨by tauto, by tauto⟩

theorem State.updSq_some {q : SqRec} (h : s.sq f i = some q) (g : SqRec → SqRec) : s.updSq f i g = s.setSq f i (some (g q)) := by
  rw [State.updSq, h]

theorem State.updCq_some {c : CqRec} (h : s.cq f i = some c) (g : CqRec → CqRec) : s.updCq f i g = s.setCq f i (some (g c)) := by
  rw [State.updCq, h]

theorem State.mem_keepDoorbell (s : State) (f i : Nat) : (s.keepDoorbell f i).qe.doorbells.contains (f, i) = true := by
  unfold State.keepDoorbell
  split
  next h => exact h
  next => simp

/-- A kept doorbell changes nothing else. -/
theorem State.keepDoorbell_kept (s : State) (f i : Nat) : (s.keepDoorbell f i).qe.sqs = s.qe.sqs ∧ (s.keepDoorbell f i).out = s.out ∧
    (s.keepDoorbell f i).regs = s.regs ∧ (s.keepDoorbell f i).qe.cache = s.qe.cache := by
  unfold State.keepDoorbell
  split <;> exact ⟨rfl, rfl, rfl, rfl⟩

/-- A scan starts with a read of the ring (R351). -/
theorem State.scanSq_starts {q : SqRec} (h : s.sq f i = some q) (may : s.mayFetch f i = true) (idle : q.scanning = false) :
    s.scanSq f i = (s.setSq f i (some { q with scanning := true })).sendHost
      (.read f (if i = 0 then q.base + q.pos * 64 else q.rsb) 64) := by
  rw [State.scanSq, h]
  dsimp only
  rw [if_pos may, if_neg (by simp [idle]), State.updSq_some h]
  split <;> rfl

/-- A further scan follows the one in progress (R352). -/
theorem State.scanSq_again {q : SqRec} (h : s.sq f i = some q) (may : s.mayFetch f i = true) (busy : q.scanning = true) :
    s.scanSq f i = s.setSq f i (some { q with again := true }) := by
  rw [State.scanSq, h]
  dsimp only
  rw [if_pos may, if_pos busy, State.updSq_some h]

theorem State.scanSq_waits {q : SqRec} (h : s.sq f i = some q) (may : s.mayFetch f i = false) : s.scanSq f i = s.keepDoorbell f i := by
  rw [State.scanSq, h]
  exact if_neg (by simp [may])

/-- A scan of a completion ring reads its next entry without credit (R351, R357). -/
theorem State.scanCq_starts {c : CqRec} (h : s.cq f i = some c) (sound : c.faulted = false) (up : s.operational = true) (host : s.hostHere = true)
    (d0 : s.d3hot f = false) (live : s.inReset f = false) (awake : s.frozen f = false) (idle : c.scanning = false) :
    s.scanCq f i = (s.setCq f i (some { c with scanning := true })).sendHost
      (.read f (c.base + (c.pos + c.credit) % 2 ^ c.log2 * 32) 32) := by
  rw [State.scanCq, h]
  dsimp only
  rw [if_neg (by simp [sound]), if_pos (by simp [up, host, d0, live, awake]), if_neg (by simp [idle]), State.updCq_some h]

/-! ## Doorbells by the state of their ring -/

/-- The doorbell of a function that is there, not in reset and in D0. -/
theorem State.doorbell_d0 (there : s.fnThere f = true) (live : s.inReset f = false) (d0 : s.d3hot f = false) (awake : s.inDormant = false) :
    s.doorbell f i = if !s.operational then s.hostActive.keepDoorbell f i else if (s.sq f i).isSome then s.hostActive.scanSq f i
      else if (s.cq f i).isSome then s.hostActive.scanCq f i else s.hostActive.bump Reg.QE_ERR_STRAY_DOORBELLS := by
  unfold State.doorbell
  exact (if_neg (show ¬ (!s.fnThere f) = true by simp [there])).trans ((if_neg (show ¬ s.inReset f = true by simp [live])).trans
    ((if_neg (show ¬ s.d3hot f = true by simp [d0])).trans (if_neg (show ¬ s.inDormant = true by simp [awake]))))

theorem State.doorbell_d3hot (there : s.fnThere f = true) (live : s.inReset f = false) (d3 : s.d3hot f = true) : s.doorbell f i =
    (s.hostActive.aer f Aer.unsupported).when ((s.sq f i).isSome || (s.cq f i).isSome) (fun s => s.keepDoorbell f i) := by
  unfold State.doorbell
  exact (if_neg (show ¬ (!s.fnThere f) = true by simp [there])).trans ((if_neg (show ¬ s.inReset f = true by simp [live])).trans
    (if_pos (show s.d3hot f = true from d3)))

theorem State.invalidateBell_d0 (there : s.fnThere f = true) (live : s.inReset f = false) (d0 : s.d3hot f = false) (awake : s.inDormant = false) :
    s.invalidateBell f i = match s.sq f i with
      | none => s.hostActive.bump Reg.QE_ERR_STRAY_DOORBELLS
      | some r => if r.scanning then s.hostActive.setSq f i (some { r with invalAgain := true }) else s.hostActive.invalidate f i := by
  unfold State.invalidateBell
  exact (if_neg (show ¬ (!s.fnThere f) = true by simp [there])).trans ((if_neg (show ¬ (s.inReset f || s.d3hot f) = true by simp [live, d0])).trans
    (if_neg (show ¬ s.inDormant = true by simp [awake])))

theorem State.invalidateBell_d3hot (there : s.fnThere f = true) (d3 : s.d3hot f = true) :
    s.invalidateBell f i = s.hostActive.aer f Aer.unsupported := by
  unfold State.invalidateBell
  exact (if_neg (show ¬ (!s.fnThere f) = true by simp [there])).trans (if_pos (show (s.inReset f || s.d3hot f) = true by simp [d3]))

theorem State.hostActive_mayFetch (s : State) (f i : Nat) : s.hostActive.mayFetch f i = s.mayFetch f i := rfl

/-- A ring whose cached entries are discarded goes back to the first of them (R354). -/
theorem State.discardCached_ring {q : SqRec} (h : s.sq f i = some q) : ∃ k skip, (s.discardCached f i).sq f i =
    some { q with pos := k, skip := skip } ∧ k = (match s.cachedOf f i with | c :: _ => c.ref.idx.toNat | [] => q.pos) := by
  unfold State.discardCached
  split
  next r c l hr hc =>
    obtain rfl : q = r := Option.some.inj (h.symm.trans hr)
    extract_lets first n gone skip t
    refine ⟨first, skip, ?_, ?_⟩
    · rw [State.sq_of_qe (s := t.setSq f i _) (by rw [State.showPos_qe]), State.sq_setSq]
    · rw [hc]
  next no =>
    cases hl : s.cachedOf f i with
    | nil => exact ⟨q.pos, q.skip, h, rfl⟩
    | cons c l => exact absurd hl (no q c l h)

/-- The registers that follow the cache and an admin ring. -/
def scanRegs (f : Nat) : List Nat := [Reg.QE_CACHE_USED, Reg.QE_STATUS, Reg.QE_ADMIN_POS f]

theorem State.regsBut_showPos (s : State) (f i : Nat) : s.regsBut (scanRegs f) (s.showPos f i) := by
  have mem : Reg.QE_ADMIN_POS f ∈ scanRegs f := .tail _ (.tail _ (.head _))
  unfold State.showPos
  split
  · split
    · exact (State.regsBut.refl _ s).setF (x := Reg.QE_ADMIN_POS_SQ f) _ mem
    · exact .refl _ s
  · split
    · split
      · exact (State.regsBut.refl _ s).setF (x := Reg.QE_ADMIN_POS_CQ f) _ mem
      · exact .refl _ s
    · exact .refl _ s

theorem State.regsBut_discardCached (s : State) (f i : Nat) : s.regsBut (scanRegs f) (s.discardCached f i) := by
  unfold State.discardCached
  split
  · extract_lets first n gone skip t
    have ht : s.regsBut (scanRegs f) t := (s.regsBut_setCache _).mono (List.subset_append_left [Reg.QE_CACHE_USED, Reg.QE_STATUS] [Reg.QE_ADMIN_POS f])
    exact (ht.keep (u := t.setSq f i _) rfl).step (State.regsBut_showPos _ f i) (List.Subset.refl _)
  · exact .refl _ s

theorem scanRegs_apart {f : Nat} (h : f < 1025) : Reg.HIF_STATUS ∉ scanRegs f ∧ Reg.PMU_REQ_STATUS ∉ scanRegs f ∧ Reg.QE_CTRL ∉ scanRegs f := by
  simp only [scanRegs, Reg.HIF_STATUS, Reg.PMU_REQ_STATUS, Reg.QE_CTRL, Reg.QE_CACHE_USED, Reg.QE_STATUS, Reg.QE_ADMIN_POS, Reg.pageBase,
    List.mem_cons, List.not_mem_nil, or_false]
  omega

/-- An invalidation drops what is cached, and scans from the first of it (R354). -/
theorem State.invalidate_scans {q : SqRec} (hf : f < 1025) (h : s.sq f i = some q) (idle : q.scanning = false) (on : q.enable = true)
    (sound : q.faulted = false) (may : s.mayFetch f i = true) : (s.invalidate f i).cachedOf f i = [] ∧ ∃ p : SqRec,
      (s.invalidate f i).sq f i = some p ∧ p.pos = (match s.cachedOf f i with | c :: _ => c.ref.idx.toNat | [] => q.pos) ∧
      p.first = some p.pos ∧ p.scanning = true := by
  obtain ⟨k, skip, ring, hk⟩ := State.discardCached_ring h
  have empty := s.discardCached_cachedOf (f := f) (i := i) (by rw [h]; rfl)
  have regs := s.regsBut_discardCached f i
  have parts : Moves [.regs, .qe] s (s.discardCached f i) := State.discardCached_moves (.refl _ s) (by decide)
  unfold State.invalidate
  rw [State.updSq_some ring]
  dsimp only
  rw [State.sq_setSq]
  dsimp only
  rw [if_neg (by simp [on, sound])]
  generalize s.discardCached f i = d at *
  generalize hz : State.setSq (d.setSq f i _) f i _ = z
  have zsq : z.sq f i = some { q with pos := k, skip := skip, first := some k, invalAgain := false } := by rw [← hz, State.sq_setSq]
  have zq : z.qe.cache = d.qe.cache := by rw [← hz]; rfl
  have zfn : z.fn = s.fn := by rw [← hz]; exact parts.fn_eq (by decide)
  have may' : z.mayFetch f i = true := by
    rw [State.mayFetch_of h zsq rfl rfl rfl (by rw [zfn]) (by rw [zfn]) (by rw [zfn]) (by rw [zfn]) (by rw [zfn])
      (by rw [← hz]; exact parts.pm_eq (by decide)) (by rw [← hz]; exact parts.ck_eq (by decide))
      (regs.keep (u := z) (by rw [← hz]; rfl)) (scanRegs_apart hf), may]
  rw [State.scanSq_starts zsq may' idle]
  refine ⟨?_, _, State.sq_setSq _ _ _ _, hk, rfl, rfl⟩
  change z.cachedOf f i = []
  rw [State.cachedOf, zq]
  exact empty

end

/-- Settles O27: a doorbell is served by what its ring may do. -/
theorem doorbellsStartScans : Obligations.DoorbellsStartScans := by
  unfold Obligations.DoorbellsStartScans
  intro s fn i there live awake f n
  have bumpStray : (s.hostActive.bump Reg.QE_ERR_STRAY_DOORBELLS).qe = s.qe ∧ (s.hostActive.bump Reg.QE_ERR_STRAY_DOORBELLS).out = s.out ∧
      (s.hostActive.bump Reg.QE_ERR_STRAY_DOORBELLS).f Reg.QE_ERR_STRAY_DOORBELLS =
        min (s.f Reg.QE_ERR_STRAY_DOORBELLS + 1) (2 ^ Reg.QE_ERR_STRAY_DOORBELLS.w - 1) := by
    refine ⟨?_, ?_, State.f_bump_same _ _ (by decide)⟩
    · rw [State.bump_eq, State.setF_qe]
      rfl
    · rw [State.bump_eq, State.setF_out]
      rfl
  have bell {t : State} (d0 : s.d3hot f = false) (up : s.operational = true) (h : t = if (s.sq f n).isSome then s.hostActive.scanSq f n
      else if (s.cq f n).isSome then s.hostActive.scanCq f n else s.hostActive.bump Reg.QE_ERR_STRAY_DOORBELLS) : s.doorbell f n = t := by
    rw [State.doorbell_d0 there live d0 awake, if_neg (by simp [up]), h]
  refine ⟨fun q here may idle => ?_, fun q here may busy => ?_, fun q here may => ?_, fun c none_ here sound up host d0 awakeFn idle => ?_,
    fun d3 => ⟨?_, ?_⟩, fun d0 down => ?_, fun d0 up noSq noCq => ?_, fun q d0 here busy => ?_, fun q here idle on sound may => ?_,
    fun d0 none_ => ?_⟩
  · obtain ⟨d0, up⟩ := State.mayFetch_d0 may
    refine answers_eq rfl (bell d0 up rfl) ?_
    rw [if_pos (by rw [here]; rfl), State.scanSq_starts (s := s.hostActive) here may idle]
    exact ⟨State.sq_setSq _ _ _ _, rfl, rfl⟩
  · obtain ⟨d0, up⟩ := State.mayFetch_d0 may
    refine answers_eq rfl (bell d0 up rfl) ?_
    rw [if_pos (by rw [here]; rfl), State.scanSq_again (s := s.hostActive) here may busy]
    exact ⟨State.sq_setSq _ _ _ _, rfl⟩
  · have kept := s.hostActive.keepDoorbell_kept f n
    by_cases d0 : s.d3hot f = true
    · refine answers_eq rfl (State.doorbell_d3hot there live d0) ?_
      obtain ⟨sqs, out, -, -⟩ := (s.hostActive.aer f Aer.unsupported).keepDoorbell_kept f n
      rw [State.when, if_pos (by rw [here]; rfl)]
      exact ⟨State.mem_keepDoorbell _ _ _, out, (State.sq_of_qe sqs f n).trans here⟩
    · have d0 := Bool.eq_false_iff.mpr d0
      obtain ⟨sqs, out, -, -⟩ := kept
      have waits : s.doorbell f n = s.hostActive.keepDoorbell f n := by
        rw [State.doorbell_d0 there live d0 awake]
        split
        · rfl
        · rw [if_pos (by rw [here]; rfl), State.scanSq_waits (s := s.hostActive) here may]
      refine answers_eq rfl waits ⟨State.mem_keepDoorbell _ _ _, out, (State.sq_of_qe sqs f n).trans here⟩
  · refine answers_eq rfl (bell d0 up rfl) ?_
    rw [if_neg (by rw [none_]; decide), if_pos (by rw [here]; rfl),
      State.scanCq_starts (s := s.hostActive) here sound up host d0 live awakeFn idle]
    exact ⟨State.cq_setCq _ _ _ _, rfl⟩
  · refine answers_eq rfl (State.doorbell_d3hot there live d3) ?_
    have aer := s.hostActive.aer_contains f Aer.unsupported
    rw [State.when]
    split
    next known =>
      have fn_ : ((s.hostActive.aer f Aer.unsupported).keepDoorbell f n).fn = (s.hostActive.aer f Aer.unsupported).fn :=
        (State.keepDoorbell_moves (l_ := [.qe]) (.refl _ _) (by decide)).fn_eq (by decide)
      refine ⟨(congrArg (fun (r : FnRec) => r.aer.contains Aer.unsupported) (State.fnRec_of_fn (congrArg FnSt.fns fn_) f)).trans aer, (State.keepDoorbell_kept _ f n).2.1, ?_⟩
      rw [if_neg (by rintro ⟨h, k⟩; simp [show s.sq fn.val i.toNat = none from h, show s.cq fn.val i.toNat = none from k] at known)]
      exact State.mem_keepDoorbell _ _ _
    next unknown =>
      rw [Bool.or_eq_true, not_or] at unknown
      refine ⟨aer, rfl, ?_⟩
      rw [if_pos ⟨Option.not_isSome_iff_eq_none.mp unknown.1, Option.not_isSome_iff_eq_none.mp unknown.2⟩]
      rfl
  · exact answers_eq rfl (State.invalidateBell_d3hot there d3) ⟨s.hostActive.aer_contains f Aer.unsupported, rfl, rfl⟩
  · have waits : s.doorbell f n = s.hostActive.keepDoorbell f n := by
      rw [State.doorbell_d0 there live d0 awake, if_pos (by simp [down])]
    obtain ⟨-, out, regs, -⟩ := s.hostActive.keepDoorbell_kept f n
    exact answers_eq rfl waits ⟨State.mem_keepDoorbell _ _ _, out, regs⟩
  · refine answers_eq rfl (bell d0 up rfl) ?_
    rw [if_neg (by rw [noSq]; decide), if_neg (by rw [noCq]; decide)]
    exact bumpStray
  · refine answers_eq rfl (State.invalidateBell_d0 there live d0 awake) ?_
    rw [here]
    dsimp only
    rw [if_pos busy]
    exact ⟨State.sq_setSq _ _ _ _, rfl, rfl⟩
  · obtain ⟨d0, -⟩ := State.mayFetch_d0 may
    refine answers_eq rfl (State.invalidateBell_d0 there live d0 awake) ?_
    rw [here]
    dsimp only
    rw [if_neg (by simp [idle])]
    exact State.invalidate_scans (s := s.hostActive) fn.isLt here idle on sound may
  · refine answers_eq rfl (State.invalidateBell_d0 there live d0 awake) ?_
    rw [none_]
    exact ⟨bumpStray.1, bumpStray.2.2⟩

end Sys2Proof.Machine

namespace Sys2Proof.Machine

/-! # Scans, credit, moderation and the admin rings (R326, R331, R351 to R353, R357, R359, R363, R364, R371, R436)

## What a scan does with the entry that it reads (R351, R352) -/

section
variable {s : State} {fn : FnId} {i : BitVec 11} {q : SqRec}

/-- A scan of a ring that stays enabled goes on while the ring may fetch. -/
theorem State.sqData_enabled (here : s.sq fn.val i.toNat = some q) (on : q.enable = true) (l : List Sqe) : s.sqData fn i true l =
    if s.mayFetch fn.val i.toNat then
      match s.takeEntries fn i l with
      | (s, true) => s.scanStops fn.val i.toNat
      | (s, false) => match s.sq fn.val i.toNat with
        | some r => s.sendHost (.read fn.val (r.base + r.pos * 64) 64)
        | none => s
    else (s.keepDoorbell fn.val i.toNat).scanStops fn.val i.toNat := by
  unfold State.sqData
  extract_lets en t
  have enabled : en = true := by
    unfold en
    split
    next zero => rw [← zero, here]; exact on
    next => rfl
  have read : t = s := by
    unfold t
    rw [State.readEnable, here, enabled]
    exact if_pos on.symm
  rw [enabled, read]
  rfl

/-- An entry that the host has not handed over stops the scan. -/
theorem State.takeEntries_stops (here : s.sq fn.val i.toNat = some q) (skip : q.skip = []) {e : Sqe} (own : sqeF e 0 0 1 = 0) :
    s.takeEntries fn i [e] = (s, true) := by
  unfold State.takeEntries
  rw [here]
  dsimp only
  rw [skip, if_neg (by simp), if_pos (by simp [own])]

/-- An entry that is new to the device goes into the cache, where there is room. -/
theorem State.takeEntries_takes (here : s.sq fn.val i.toNat = some q) (skip : q.skip = []) (io : 2 ≤ i.toNat) {e : Sqe} (own : sqeF e 0 0 1 = 1)
    (room : s.cacheRoom fn.val i.toNat = true)
    (started : (s.startedOf fn.val i.toNat).any (fun x => x.ref == ⟨fn, i, BitVec.ofNat 16 q.pos⟩) = false)
    (cached : (s.cachedOf fn.val i.toNat).any (fun x => x.ref == ⟨fn, i, BitVec.ofNat 16 q.pos⟩) = false) :
    s.takeEntries fn i [e] = ((s.setSq fn.val i.toNat (some { q with pos := (q.pos + 1) % 2 ^ q.log2 })).setCache
      (s.qe.cache ++ [⟨⟨fn, i, BitVec.ofNat 16 q.pos⟩, e⟩]), false) := by
  have pos (t : State) : t.showPos fn.val i.toNat = t := by
    rw [State.showPos, if_neg (by omega), if_neg (by omega)]
  unfold State.takeEntries
  rw [here]
  dsimp only
  rw [started, cached, own, skip, if_neg (by simp), if_neg (by decide), if_neg (by simp [room]), pos, if_neg (by omega)]
  unfold State.takeEntries
  rw [List.filter_nil, ← skip]
  rfl

/-- The scan of a ring that has neither an invalidation nor a further one to serve stops (R352). -/
theorem State.scanStops_plain (here : s.sq fn.val i.toNat = some q) (first : q.first = none) (inval : q.invalAgain = false) :
    s.scanStops fn.val i.toNat = if q.again then
        (s.setSq fn.val i.toNat (some { q with scanning := false, again := false, first := none })).scanSq fn.val i.toNat
      else s.setSq fn.val i.toNat (some { q with scanning := false, again := false, first := none }) := by
  rw [State.scanStops, here]
  dsimp only
  rw [first]
  dsimp only
  rw [if_neg (by simp [inval])]

end

/-! ## Credit and messages (R326, R357, R359) -/

section
variable {s : State} {f i : Nat}

/-- A ring whose hold is empty and that is not in overflow has nothing to write. -/
theorem State.flushCq_idle {c : CqRec} (h : s.cq f i = some c) (hold : c.hold = []) (waiting : c.waiting = []) (room : c.overflow = false) :
    s.flushCq f i = s := by
  rw [State.flushCq, h]
  dsimp only
  rw [hold, waiting]
  change s.endOverflow f i = s
  rw [State.endOverflow, h]
  exact if_neg (by simp [room])

/-- The one entry with OWN = 0 that a scan finds before its end is credit (R351). -/
theorem State.cqData_credit {c : CqRec} (h : s.cq f i = some c) (again : c.again = false) (hold : c.hold = []) (waiting : c.waiting = [])
    (calm : c.overflow = false) (room : c.credit < 2 ^ c.log2) : s.cqData f i [false, true] =
      s.setCq f i (some { c with credit := c.credit + 1, scanning := false }) := by
  have one : min 1 (2 ^ c.log2 - c.credit) = 1 := by omega
  rw [State.cqData, h]
  dsimp only
  simp only [List.takeWhile_cons, Bool.not_false, Bool.not_true, if_true, Bool.false_eq_true, if_false, List.length_cons, List.length_nil,
    Nat.zero_add, one, Nat.reduceEqDiff, decide_false, Bool.false_and, Bool.and_false, State.when, again]
  exact State.flushCq_idle (State.cq_setCq _ _ _ _) hold waiting calm

/-- The message of a ring whose window has ended (R326, R359). -/
theorem State.signal_sends {v : Nat} (may : s.mayRequest f = true) (mask : (s.fnRec f).funcMask = false) (open_ : (s.fnRec f).unmasked.contains v = true) :
    s.signal f v = if (s.fnRec f).unmaskSent.contains (v, s.now) then s else s.sendHost (.msix f v) := by
  rw [State.signal]
  exact if_neg (by rw [may, mask, open_]; decide)

/-! ## Admin rings (R364, R371) -/

theorem State.writeRsbSq_cache (s : State) (f i : Nat) : (s.writeRsbSq f i).qe.cache = s.qe.cache := by
  unfold State.writeRsbSq
  split
  · split
    · rw [State.setB_qe]
    · unfold State.putRsb
      split
      · rfl
      · split <;> rfl
  · rfl

/-- A ring that no DELETE_SQ waits for stays when it becomes idle. -/
theorem State.finishIdle_stays {q : SqRec} (h : s.sq f i = some q) (kept : q.deleting = none) :
    (s.finishIdle f i).qe.cache = s.qe.cache ∧ ∃ p, (s.finishIdle f i).sq f i = some p ∧ p.enable = q.enable := by
  unfold State.finishIdle
  rw [h]
  dsimp only
  split
  · rw [kept]
    dsimp only
    refine ⟨(State.writeRsbSq_cache _ _ _).trans rfl, { q with idle := true, deleting := none }, ?_, rfl⟩
    rw [State.sq_of_qe (State.writeRsbSq_sqs _ f i), State.sq_setSq]
  · exact ⟨rfl, q, h, rfl⟩

/-- A disabled admin ring fetches no more, and its cached entries are gone. -/
theorem State.adminStop_stops {q : SqRec} (h : s.sq f 0 = some q) (kept : q.deleting = none) :
    (s.adminStop f).cachedOf f 0 = [] ∧ ∃ p, (s.adminStop f).sq f 0 = some p ∧ p.enable = false := by
  rw [State.adminStop, State.updSq_some h]
  have off := s.sq_setSq f 0 (some { q with enable := false })
  obtain ⟨k, skip, ring, -⟩ := State.discardCached_ring off
  have empty := (s.setSq f 0 (some { q with enable := false })).discardCached_cachedOf (f := f) (i := 0) (by rw [off]; rfl)
  obtain ⟨cache, p, hp, en⟩ := State.finishIdle_stays ring kept
  exact ⟨by rw [State.cachedOf, cache]; exact empty, p, hp, en⟩

/-- Admin rings that start stand at position 0, their CQ with credit as a whole. -/
theorem State.adminStart_starts (none_ : s.cq f 1 = none) : ∃ (q : SqRec) (c : CqRec), (s.adminStart f).sq f 0 = some q ∧
    (s.adminStart f).cq f 1 = some c ∧ q.pos = 0 ∧ q.enable = true ∧ q.log2 = s.f (Reg.QE_ADMIN_CFG_SQ_LOG2 f) ∧ q.cq = 1 ∧
    q.base = (s.reg (Reg.QE_ADMIN_SQ_BASE_LO f)).toNat + 2 ^ 32 * (s.reg (Reg.QE_ADMIN_SQ_BASE_HI f)).toNat ∧ c.pos = 0 ∧
    c.credit = 2 ^ s.f (Reg.QE_ADMIN_CFG_CQ_LOG2 f) ∧ c.vector = s.f (Reg.QE_ADMIN_CFG_VECTOR f) ∧ c.ien = s.flag (Reg.QE_ADMIN_CFG_IEN f) ∧
    c.base = (s.reg (Reg.QE_ADMIN_CQ_BASE_LO f)).toNat + 2 ^ 32 * (s.reg (Reg.QE_ADMIN_CQ_BASE_HI f)).toNat := by
  unfold State.adminStart
  extract_lets b q n old c
  have nothing : old = ([], []) := by
    unfold old
    rw [none_]
  have cq : (((((s.setSq f 0 (some q)).setCq f 1 (some c)).showPos f 0).showPos f 1)).cq f 1 = some c := by
    rw [State.cq_of_qe (s := (s.setSq f 0 (some q)).setCq f 1 (some c)) (by rw [State.showPos_qe, State.showPos_qe]), State.cq_setCq]
  rw [State.flushCq_idle cq (by rw [show c.hold = old.1 from rfl, nothing]) (by rw [show c.waiting = old.2 from rfl, nothing]) rfl]
  refine ⟨q, c, ?_, cq, rfl, rfl, rfl, rfl, rfl, rfl, rfl, rfl, rfl, rfl⟩
  rw [State.sq_of_qe (s := s.setSq f 0 (some q)) (by rw [State.showPos_qe, State.showPos_qe]; rfl), State.sq_setSq]

end

/-! ## Writes to the admin pages (R371) -/

section
variable {s : State} (f : FnId) (v : Word)

theorem State.f_writeAdminCfg (x : Fld) (addr : x.addr = Reg.QE_ADMIN_CFG f) (fits : x.lo + x.w ≤ 32)
    (rw_ : (List.range x.w).all (fun i => Nat.testBit 0xc7ff1f1f (x.lo + i)) = true) : (s.writeReg (Reg.QE_ADMIN_CFG f) v).f x = bits v x.lo x.w := by
  rw [← addr]
  exact s.f_writeReg x v _ (by rw [addr]; exact regSpec_page f 0x10 _ f.isLt (by decide) rfl) fits rw_

theorem State.flag_writeAdminCfg (x : Fld) (addr : x.addr = Reg.QE_ADMIN_CFG f) (fits : x.lo + x.w ≤ 32)
    (rw_ : (List.range x.w).all (fun i => Nat.testBit 0xc7ff1f1f (x.lo + i)) = true) :
    (s.writeReg (Reg.QE_ADMIN_CFG f) v).flag x = decide (bits v x.lo x.w = 1) := by
  rw [State.flag, State.f_writeAdminCfg f v x addr fits rw_]
  exact Bool.beq_eq_decide_eq _ _

/-- A base that may change takes what is written. -/
theorem State.reg_writeAdminBase : (s.writeReg (Reg.QE_ADMIN_SQ_BASE_LO f) v).reg (Reg.QE_ADMIN_SQ_BASE_LO f) = v := by
  have spec : regSpec (Reg.QE_ADMIN_SQ_BASE_LO f) = _ := regSpec_page f 0 _ f.isLt (by decide) rfl
  rw [State.writeReg_at _ _ _ _ spec, State.reg_setReg]
  exact BitVec.eq_of_getLsbD_eq fun i hi => by
    rw [getLsbD_writeMasked _ _ _ _ hi, if_pos]
    exact (by decide : ∀ i < 32, Nat.testBit 0xffffffff i = true) i hi

theorem State.adminWrite_base_free {s : State} {f : Nat} {v : Word} (free : s.adminFree f = true) (whole : v.toNat % 64 = 0) :
    s.adminWrite f 0 v = s.writeReg (Reg.QE_ADMIN_SQ_BASE_LO f) v := by
  rw [State.adminWrite, State.adminBase, if_neg (by simp [free, whole])]

theorem State.adminWrite_base_refused {s : State} {f : Nat} {v : Word} (bad : ¬(s.adminFree f = true ∧ v.toNat % 64 = 0)) :
    s.adminWrite f 0 v = s.setB (Reg.QE_ADMIN_STATUS_CFG_REFUSED f) true := by
  rw [State.adminWrite, State.adminBase, if_pos]
  by_contra h
  simp only [Bool.true_and, Bool.or_eq_true, Bool.not_eq_true', bne_iff_ne, not_or, Bool.not_eq_false, ne_eq, not_not] at h
  exact bad h

/-- A write that enables the admin rings with sizes and a vector in range (R371). -/
theorem State.adminCfg_enables (free : s.adminFree f = true) (on : bits v 31 1 = 1) (sq : 6 ≤ bits v 0 5 ∧ bits v 0 5 ≤ 16)
    (cq : 6 ≤ bits v 8 5 ∧ bits v 8 5 ≤ 16) (vector : f.val = 0 ∨ bits v 16 11 < 64) (none_ : s.cq f 1 = none) :
    s.adminCfg f v = (s.writeReg (Reg.QE_ADMIN_CFG f) v).adminStart f := by
  have size (x : Fld) (h : 6 ≤ bits v x.lo x.w ∧ bits v x.lo x.w ≤ 16) :
      (bits v x.lo x.w == s.f x || (s.adminFree f && decide (6 ≤ bits v x.lo x.w ∧ bits v x.lo x.w ≤ 16))) = true := by
    rw [free, decide_eq_true h]
    simp
  have okSq := size (Reg.QE_ADMIN_CFG_SQ_LOG2 f) sq
  have okCq := size (Reg.QE_ADMIN_CFG_CQ_LOG2 f) cq
  have okV : (f.val == 0 || decide (bits v 16 11 < 64)) = true := by
    obtain h | h := vector <;> simp [h]
  have off : s.flag (Reg.QE_ADMIN_CFG_EN f) = false := by
    rw [State.adminFree, Bool.and_eq_true, Bool.not_eq_true'] at free
    exact free.1
  have en : (s.writeReg (Reg.QE_ADMIN_CFG f) v).flag (Reg.QE_ADMIN_CFG_EN f) = true :=
    (State.flag_writeAdminCfg f v (Reg.QE_ADMIN_CFG_EN f) rfl (by simp [Reg.QE_ADMIN_CFG_EN]) (by simp only [Reg.QE_ADMIN_CFG_EN]; decide)).trans
      (decide_eq_true on)
  have cq1 : (s.writeReg (Reg.QE_ADMIN_CFG f) v).cq f 1 = none := by
    rw [State.cq_of_qe (s := s) (by rw [(State.writeReg_moves (l_ := [.regs]) (.refl _ s) (by decide)).qe_eq (by decide)]), none_]
  unfold State.adminCfg
  extract_lets a was ok okV' keep w1 w2 w3 bad t u en'
  have keeps {b : Bool} (h : b = true) (x : Fld) (w : Word) : keep b x w = w := by
    unfold keep
    rw [if_pos h]
  have whole : w3 = v := (keeps okV _ _).trans ((keeps okCq _ _).trans (keeps okSq _ _))
  have fine : bad = false := by
    unfold bad
    rw [show ok _ = true from okSq, show ok _ = true from okCq, show okV' = true from okV]
    rfl
  have ht : t = s.writeReg (Reg.QE_ADMIN_CFG f) v := by
    unfold t
    rw [fine, whole]
    rfl
  have hu : u = t := by
    unfold u State.updCq
    rw [ht, cq1]
  have hen : en' = true := by
    unfold en'
    rw [hu, ht, en]
  rw [hen, show was = false from off, if_pos (by decide), hu, ht]

/-- A write that disables them stops the admin SQ. -/
theorem State.adminCfg_disables {q : SqRec} (was : s.flag (Reg.QE_ADMIN_CFG_EN f) = true) (off : bits v 31 1 = 0) (here : s.sq f 0 = some q) :
    ∃ u : State, u.sq f 0 = some q ∧ s.adminCfg f v = u.adminStop f := by
  unfold State.adminCfg
  extract_lets a was' ok okV keep w1 w2 w3 bad t u en
  have bit31 (b : Bool) (x : Fld) (w : Word) (hx : x.lo + x.w ≤ 31) (h : bits w 31 1 = 0) : bits (keep b x w) 31 1 = 0 := by
    unfold keep
    split
    · exact h
    · rw [bits_putBits_other _ _ _ _ _ _ (by omega) (.inr hx), h]
  have w3_ : bits w3 31 1 = 0 := bit31 _ _ _ (by simp [Reg.QE_ADMIN_CFG_VECTOR]) (bit31 _ _ _ (by simp [Reg.QE_ADMIN_CFG_CQ_LOG2])
    (bit31 _ _ _ (by simp [Reg.QE_ADMIN_CFG_SQ_LOG2]) off))
  have regs : Moves [.regs] s t := .ite (fun _ => State.setB_moves (State.writeReg_moves (.refl _ s) (by decide)) (by decide))
    (fun _ => State.writeReg_moves (.refl _ s) (by decide))
  have written : (s.writeReg a w3).flag (Reg.QE_ADMIN_CFG_EN f) = false :=
    (State.flag_writeAdminCfg f w3 (Reg.QE_ADMIN_CFG_EN f) rfl (by simp [Reg.QE_ADMIN_CFG_EN]) (by simp only [Reg.QE_ADMIN_CFG_EN]; decide)).trans
      (decide_eq_false (by rw [show bits w3 (Reg.QE_ADMIN_CFG_EN f).lo (Reg.QE_ADMIN_CFG_EN f).w = 0 from w3_]; decide))
  have apart : (Reg.QE_ADMIN_STATUS_CFG_REFUSED f.val).apart (Reg.QE_ADMIN_CFG_EN f) = true := by
    simp [Fld.apart, Reg.QE_ADMIN_STATUS_CFG_REFUSED, Reg.QE_ADMIN_CFG_EN, Reg.QE_ADMIN_STATUS, Reg.QE_ADMIN_CFG]
  have toff : t.flag (Reg.QE_ADMIN_CFG_EN f) = false := by
    unfold t State.when
    split
    · rw [State.flag_setB_apart _ _ apart, written]
    · exact written
  have uregs : u.regs = t.regs := (State.updCq_moves (l_ := [.qe]) (.refl _ t) (by decide)).regs_eq (by decide)
  have en_ : en = false := (State.flag_of_regs uregs _).trans toff
  rw [en_, show was' = true from was, if_neg (by decide), if_pos (by decide)]
  refine ⟨u, ?_, rfl⟩
  rw [State.sq_of_qe (s := t) (State.updCq_sqs _ _ _), State.sq_of_qe (s := s) (by rw [regs.qe_eq (by decide)]), here]

end

theorem State.sq_setCache (s : State) (c : List CacheEnt) (f i : Nat) : (s.setCache c).sq f i = s.sq f i := by
  rw [State.sq, s.setCache_qe]
  rfl

theorem State.hostActive_sq (s : State) (f i : Nat) : s.hostActive.sq f i = s.sq f i := rfl

/-- A scan that is in progress takes what it has read. -/
theorem State.scanData_sq {s : State} {fn : FnId} {i : BitVec 11} {q : SqRec} (here : s.sq fn.val i.toNat = some q) (busy : q.scanning = true)
    (en : Bool) (l : List Sqe) : s.scanData fn i (.sq en l) = s.hostActive.sqData fn i en l := by
  have scanning : (s.hostActive.sq fn.val i.toNat).any (·.scanning) = true := by
    rw [s.hostActive_sq, here]
    exact busy
  exact if_pos scanning

/-- A ring whose host access has failed is faulted (R363). -/
theorem State.ringFault_sq {s : State} {f i : Nat} {q : SqRec} (here : s.sq f i = some q) (sound : q.faulted = false) (cause : Nat) :
    (s.ringFault f i cause).sq f i = some { q with faulted := true, scanning := false, again := false } ∧
      (s.ringFault f i cause).flag Reg.GLB_ERR_UNCORRECTABLE = true := by
  unfold State.ringFault
  rw [here]
  dsimp only
  rw [if_neg (by simp [sound])]
  refine ⟨?_, (State.captureError_spec _ _ _ _ _ _ _).1⟩
  exact (State.sq_of_qe (congrArg QueueSt.sqs ((State.captureError_moves (l_ := [.regs, .fn, .out]) (.refl _ _) (by decide)).qe_eq (by decide))) f i).trans
    (s.sq_setSq f i _)

theorem State.fnRec_sendHost (s : State) (e : Emit) (f : Nat) : (s.sendHost e).fnRec f = s.fnRec f := rfl

/-- A mask that is cleared (R326). -/
theorem State.unmask_spec (s : State) (f v : Nat) : ((s.unmask f v).fnRec f).unmasked.contains v = true ∧
    ((s.fnRec f).pending.contains v = true → s.mayRequest f = true → (s.fnRec f).funcMask = false →
      (s.unmask f v).out = .msix f v :: s.out ∧ ((s.unmask f v).fnRec f).pending.contains v = false ∧
      ((s.unmask f v).fnRec f).unmaskSent.contains (v, s.now) = true) := by
  unfold State.unmask
  extract_lets t r
  have open_ : r.unmasked.contains v = true ∧ r.pending = (s.fnRec f).pending ∧ r.funcMask = (s.fnRec f).funcMask ∧ r.d3hot = (s.fnRec f).d3hot := by
    have hr : r = _ := s.fnRec_updFn f _
    rw [hr]
    split
    next h => exact ⟨h, rfl, rfl, rfl⟩
    next => exact ⟨List.contains_iff_mem.mpr (mem_insertBy _ _ _), rfl, rfl, rfl⟩
  obtain ⟨unmasked, pending, mask, d3⟩ := open_
  have may : t.mayRequest f = s.mayRequest f := by
    rw [State.mayRequest, State.d3hot, show t.fnRec f = r from rfl, d3]
    rfl
  split
  next sends =>
    rw [State.fnRec_sendHost, State.fnRec_updFn]
    refine ⟨unmasked, fun _ _ _ => ⟨rfl, ?_, ?_⟩⟩
    · simp
    · rw [show t.now = s.now from rfl]
      simp
  next waits =>
    refine ⟨unmasked, fun there may' mask' => absurd ?_ waits⟩
    rw [pending, there, may, may', mask, mask']
    rfl

/-- Settles O28: each piece of data that a scan has read, each message and each write of an admin page by its case. -/
theorem scansCreditAndAdminRings : Obligations.ScansCreditAndAdminRings := by
  unfold Obligations.ScansCreditAndAdminRings
  intro s fn i f n
  refine ⟨fun q here busy on skip may => ⟨fun e io own room started cached => ?_, fun e own first inval again => ?_, fun st hst sound => ?_⟩,
    fun q l here busy on first inval may => ?_, ?_, ?_, fun c here busy again hold waiting calm room => ?_,
    fun c t0 here window ended ien may mask open_ => ?_, answers_eq rfl rfl (s.unmask_spec f n), fun v serves => ?_,
    fun v serves free none_ on sqLow sqHigh cqLow cqHigh vector => ?_, fun v q serves was off here kept => ?_⟩
  · refine answers_eq rfl (State.scanData_sq here busy _ _) ?_
    rw [State.sqData_enabled (s := s.hostActive) here on, if_pos (show s.hostActive.mayFetch fn.val i.toNat = true from may), State.takeEntries_takes (s := s.hostActive) here skip io own room started cached]
    dsimp only
    have ring (c : List CacheEnt) : ((s.hostActive.setSq f n (some { q with pos := (q.pos + 1) % 2 ^ q.log2 })).setCache c).sq f n =
        some { q with pos := (q.pos + 1) % 2 ^ q.log2 } := by
      rw [State.sq_setCache, State.sq_setSq]
    rw [show State.sq _ fn.val i.toNat = _ from ring _]
    dsimp only
    refine ⟨?_, ring _, ?_⟩
    · change (State.setCache _ _).qe.cache = _
      rw [State.setCache_qe]
      rfl
    · change _ :: (State.setCache _ _).out = _
      rw [State.setCache, (State.showCache_moves (l_ := [.regs]) (.refl _ _) (by decide)).out_eq (by decide)]
      rfl
  · refine answers_eq rfl (State.scanData_sq here busy _ _) ?_
    rw [State.sqData_enabled (s := s.hostActive) here on, if_pos (show s.hostActive.mayFetch fn.val i.toNat = true from may), State.takeEntries_stops (s := s.hostActive) here skip own]
    dsimp only
    rw [State.scanStops_plain (s := s.hostActive) here first inval, if_neg (by simp [again])]
    refine ⟨rfl, ?_, rfl⟩
    rw [← again, ← first]
    exact State.sq_setSq _ _ _ _
  · simp only [List.mem_cons, List.not_mem_nil, or_false] at hst
    have fault {t : State} (ht : t.sq f n = some q) := State.ringFault_sq ht sound (cplCause st)
    have aer : (s.hostActive.poisonedTlp f).sq f n = some q := by
      have parts : Moves [.regs, .fn] s.hostActive (s.hostActive.poisonedTlp f) := State.poisonedTlp_moves (.refl _ _) (by decide)
      exact (State.sq_of_qe (congrArg QueueSt.sqs (parts.qe_eq (by decide))) f n).trans here
    obtain rfl | rfl | rfl := hst
    · exact answers_eq rfl rfl (fault (t := s.hostActive) here)
    · exact answers_eq rfl rfl (fault (t := s.hostActive) here)
    · exact answers_eq rfl rfl (fault aer)
  · refine answers_eq rfl (State.scanData_sq here busy _ _) ?_
    obtain ⟨sqs, out, regs, cache⟩ := s.hostActive.keepDoorbell_kept f n
    have here' : (s.hostActive.keepDoorbell f n).sq f n = some q := (State.sq_of_qe sqs f n).trans here
    have bells := State.mem_keepDoorbell s.hostActive f n
    have parts : Moves [.qe] s.hostActive (s.hostActive.keepDoorbell f n) := State.keepDoorbell_moves (.refl _ _) (by decide)
    rw [State.sqData_enabled (s := s.hostActive) here on, if_neg (by rw [s.hostActive_mayFetch]; exact ne_true_of_eq_false may),
      State.scanStops_plain here' first inval]
    generalize hk : s.hostActive.keepDoorbell f n = k at *
    generalize hz : State.setSq k fn.val i.toNat _ = z
    have zsq : z.sq f n = some { q with scanning := false, again := false, first := none } := by rw [← hz]; exact State.sq_setSq _ _ _ _
    have zsq' : z.sq f n = some { q with scanning := false, again := false } := zsq.trans (by rw [← first])
    have zqe : z.qe.doorbells = k.qe.doorbells ∧ z.qe.cache = k.qe.cache ∧ z.out = k.out := by rw [← hz]; exact ⟨rfl, rfl, rfl⟩
    have mayz : z.mayFetch f n = false := by
      have zfn : z.fn = s.hostActive.fn := by rw [← hz]; exact parts.fn_eq (by decide)
      rw [State.mayFetch_of (s := s) (l := []) here zsq rfl rfl rfl (by rw [zfn]; rfl) (by rw [zfn]; rfl) (by rw [zfn]; rfl) (by rw [zfn]; rfl)
        (by rw [zfn]; rfl) (by rw [← hz]; exact parts.pm_eq (by decide)) (by rw [← hz]; exact parts.ck_eq (by decide))
        ((State.regsBut.refl [] s).keep (by rw [← hz]; exact parts.regs_eq (by decide))) (by decide), may]
    split
    · rw [State.scanSq_waits zsq mayz]
      obtain ⟨sqs', out', -, cache'⟩ := z.keepDoorbell_kept f n
      exact ⟨State.mem_keepDoorbell _ _ _, cache'.trans (zqe.2.1.trans cache), out'.trans (zqe.2.2.trans out), (State.sq_of_qe sqs' f n).trans zsq'⟩
    · exact ⟨zqe.1 ▸ bells, zqe.2.1.trans cache, zqe.2.2.trans out, zsq'⟩
  · refine answers_eq rfl (rfl : _ = s.hostActive.ecrcFail f) ⟨?_, State.aer_contains _ _ _, ?_⟩
    · change (s.hostActive.bump Reg.HIF_ERR_COUNT_ECRC 1).qe = s.qe
      rw [State.bump_eq, State.setF_qe]
      rfl
    · exact State.f_bump_same (x := Reg.HIF_ERR_COUNT_ECRC) s.hostActive 1 (by decide)
  · exact answers_eq rfl (rfl : _ = s.hostActive.aer f Aer.internal) ⟨rfl, State.aer_contains _ _ _, rfl⟩
  · have scanning : (s.hostActive.cq fn.val i.toNat).any (·.scanning) = true := by
      rw [show s.hostActive.cq fn.val i.toNat = some c from here]
      exact busy
    refine answers_eq rfl (if_pos scanning) ?_
    rw [State.cqData_credit (s := s.hostActive) here again hold waiting calm room]
    exact ⟨State.cq_setCq _ _ _ _, rfl⟩
  · have moderated : s.moderated c = true := by
      rw [State.moderated, window]
      exact decide_eq_true ended
    refine answers_eq (t := s.signalCq f n) rfl ?_ ?_
    · rw [State.moderationOver, here]
      exact (if_pos moderated).trans (if_pos ien)
    · rw [State.signalCq, here]
      dsimp only
      rw [State.signal_sends (s := s.setCq f n _) may mask open_]
      refine ⟨?_, ?_⟩
      · rw [State.cq_of_qe (s := s.setCq f n _) (by split <;> rfl), State.cq_setCq]
      · exact apply_ite State.out _ _ _
  · by_cases ok : s.adminFree f = true ∧ v.toNat % 64 = 0
    · refine answers_eq rfl ((s.pfWrite_of_serves serves _).trans (State.adminWrite_base_free ok.1 ok.2)) ?_
      rw [if_pos ok]
      exact State.reg_writeAdminBase fn v
    · refine answers_eq rfl ((s.pfWrite_of_serves serves _).trans (State.adminWrite_base_refused ok)) ?_
      rw [if_neg ok]
      exact ⟨State.flag_setB_same _ _ rfl rfl,
        ((State.regsBut.refl [Reg.QE_ADMIN_STATUS fn] s).setB (x := Reg.QE_ADMIN_STATUS_CFG_REFUSED fn) true (.head _)) _
          (by simp [Reg.QE_ADMIN_STATUS, Reg.QE_ADMIN_SQ_BASE_LO, f])⟩
  · refine answers_eq rfl ((s.pfWrite_of_serves serves _).trans (State.adminCfg_enables fn v free on ⟨sqLow, sqHigh⟩ ⟨cqLow, cqHigh⟩ vector none_)) ?_
    have none' : (s.writeReg (Reg.QE_ADMIN_CFG f) v).cq f 1 = none := by
      rw [State.cq_of_qe (s := s) (by rw [(State.writeReg_moves (l_ := [.regs]) (.refl _ s) (by decide)).qe_eq (by decide)]), none_]
    have base (k : Nat) (h : k < 16) : (s.writeReg (Reg.QE_ADMIN_CFG f) v).reg (Reg.pageBase f + k) = s.reg (Reg.pageBase f + k) :=
      s.regsBut_writeReg _ v _ (by simp only [Reg.QE_ADMIN_CFG, List.mem_singleton]; omega)
    obtain ⟨q, c, sq, cq, pos, en, log2, qcq, qbase, cpos, credit, vec, ien, cbase⟩ := State.adminStart_starts none'
    refine ⟨q, c, sq, cq, pos, en, log2.trans ?_, qcq, qbase.trans ?_, cpos, credit.trans ?_, vec.trans ?_, ien.trans ?_, cbase.trans ?_⟩
    · exact State.f_writeAdminCfg fn v _ rfl (by simp [Reg.QE_ADMIN_CFG_SQ_LOG2]) (by simp only [Reg.QE_ADMIN_CFG_SQ_LOG2]; decide)
    · rw [show (State.writeReg _ _ _).reg (Reg.QE_ADMIN_SQ_BASE_LO f) = _ from base 0 (by decide),
        show (State.writeReg _ _ _).reg (Reg.QE_ADMIN_SQ_BASE_HI f) = _ from base 4 (by decide)]
      rfl
    · exact congrArg (2 ^ ·) (State.f_writeAdminCfg fn v _ rfl (by simp [Reg.QE_ADMIN_CFG_CQ_LOG2]) (by simp only [Reg.QE_ADMIN_CFG_CQ_LOG2]; decide))
    · exact State.f_writeAdminCfg fn v _ rfl (by simp [Reg.QE_ADMIN_CFG_VECTOR]) (by simp only [Reg.QE_ADMIN_CFG_VECTOR]; decide)
    · exact State.flag_writeAdminCfg fn v _ rfl (by simp [Reg.QE_ADMIN_CFG_IEN]) (by simp only [Reg.QE_ADMIN_CFG_IEN]; decide)
    · rw [show (State.writeReg _ _ _).reg (Reg.QE_ADMIN_CQ_BASE_LO f) = _ from base 8 (by decide),
        show (State.writeReg _ _ _).reg (Reg.QE_ADMIN_CQ_BASE_HI f) = _ from base 12 (by decide)]
      rfl
  · obtain ⟨u, hu, e⟩ := State.adminCfg_disables fn v was off here
    exact answers_eq rfl ((s.pfWrite_of_serves serves _).trans e) (State.adminStop_stops hu kept)

end Sys2Proof.Machine

/-! Accesses of the host at the views of the bridge (R394 to R402). -/

namespace Sys2Proof.Machine

/-! ## One view -/

section
variable (s : State) (k : Nat)

theorem queuedF_apart_faultedF : (queuedF k).apart (faultedF k) = true := by
  unfold queuedF faultedF Fld.apart
  split <;> simp [Reg.XB_WIN_STATUS_QUEUED, Reg.XB_WIN_STATUS_FAULTED, Reg.XB_VIEW_STATUS_QUEUED, Reg.XB_VIEW_STATUS_FAULTED]

/-- The registers of PU lie apart from those of XB. -/
theorem queuedF_apart_pu {y : Fld} (h : 0x700000 ≤ y.addr) (small : k < 0x10000) : (queuedF k).apart y = true := by
  have other : (y.addr != (queuedF k).addr) = true := by
    rw [bne_iff_ne]
    unfold queuedF
    split <;> simp only [Reg.XB_WIN_STATUS_QUEUED, Reg.XB_VIEW_STATUS_QUEUED, Reg.XB_WIN_STATUS, Reg.XB_VIEW_STATUS, Reg.windowBase, Reg.viewBase] <;> omega
  rw [Fld.apart, bne_comm, other, Bool.true_or]

theorem faultedF_fits : (faultedF k).fits = true ∧ (faultedF k).w = 1 := by
  unfold faultedF
  split <;> exact ⟨rfl, rfl⟩

theorem dropsF_fits : (dropsF k).fits = true ∧ (dropsF k).w = 32 := by
  unfold dropsF
  split <;> exact ⟨rfl, rfl⟩

theorem viewKey_small (w : View) : viewKey w < 0x10000 := by
  cases w with
  | pf w => exact lt_trans w.isLt (by decide)
  | vf v d => simp only [viewKey]; omega

@[simp] theorem State.view_setView (v : ViewRec) : (s.setView k v).view k = v := Tbl.get_set_same (d := fun _ => ViewRec.idle) _ _ _

@[simp] theorem State.view_updView (g : ViewRec → ViewRec) : (s.updView k g).view k = g (s.view k) := s.view_setView k _

theorem State.view_of_xb {s t : State} (h : t.xb = s.xb) (k : Nat) : t.view k = s.view k := by
  rw [State.view, h, State.view]

theorem State.updView_parts (g : ViewRec → ViewRec) : Moves [.regs, .xb] s (s.updView k g) := State.updView_moves (.refl _ _) (by decide)

/-- What an access that is queued leaves: FAULTED, the role, the functions and the clock. -/
theorem State.updView_kept (g : ViewRec → ViewRec) (small : k < 0x10000) :
    (s.updView k g).flag (faultedF k) = s.flag (faultedF k) ∧ (s.updView k g).isPartner = s.isPartner ∧
      (∀ f, (s.updView k g).frozen f = s.frozen f) ∧ (s.updView k g).now = s.now ∧ (s.updView k g).out = s.out := by
  have parts := s.updView_parts k g
  refine ⟨State.flag_setF_apart _ _ (queuedF_apart_faultedF k), ?_, fun f => ?_, parts.now_eq (by decide), parts.out_eq (by decide)⟩
  · exact congrArg (· == 2) (State.f_setF_apart (y := Reg.PU_STATUS_ROLE) _ _ (queuedF_apart_pu k (y := Reg.PU_STATUS_ROLE) (by decide) small))
  · rw [State.frozen, State.vfRec, parts.fn_eq (by decide)]
    rfl

/-- A view whose failure is cleared (R401). -/
theorem State.clearView_spec (small : k < 0x10000) : (s.clearView k).flag (faultedF k) = false ∧
    ((s.clearView k).view k).reportPending = false ∧ ((s.clearView k).view k).queue = (s.view k).queue ∧ (s.clearView k).out = s.out := by
  have parts : Moves [.regs] s (s.setB (faultedF k) false) := State.setB_moves (.refl _ _) (by decide)
  have same := State.view_of_xb (parts.xb_eq (by decide)) k
  obtain ⟨fits, one⟩ := faultedF_fits k
  rw [State.clearView]
  obtain ⟨faulted, -, -, -, out⟩ := (s.setB (faultedF k) false).updView_kept k (fun v => { v with reportPending := false }) small
  refine ⟨faulted.trans (State.flag_setB_same _ _ fits one), ?_, ?_, out.trans (parts.out_eq (by decide))⟩
  · rw [State.view_updView]
  · rw [State.view_updView, same]

/-! ## Accesses that are turned away -/

/-- A read that the view does not carry (R399, R400, R402). -/
theorem State.refuseRead_spec (small : k < 0x10000) : (s.refuseRead k).out = .ans .completerAbort :: s.out ∧
    ((s.refuseRead k).view k).queue = (s.view k).queue ∧
    (s.flag (faultedF k) = true → (s.view k).reportPending = true → (s.refuseRead k).flag (faultedF k) = false) := by
  unfold State.refuseRead
  extract_lets z
  have flags : z.flag (faultedF k) = s.flag (faultedF k) := rfl
  have view : z.view k = s.view k := rfl
  obtain ⟨faulted, -, queue, out⟩ := z.clearView_spec k small
  split
  · exact ⟨out, queue.trans (congrArg _ view), fun _ _ => faulted⟩
  next calm =>
    refine ⟨rfl, congrArg _ view, fun h w => absurd ?_ calm⟩
    rw [flags, view, h, w]
    rfl

theorem State.unsupported_read (f : Nat) : (s.unsupported f true).out = .ans .unsupported :: s.out ∧
    ((s.unsupported f true).fnRec f).aer.contains Aer.unsupported = true := ⟨rfl, State.aer_contains _ _ _⟩

/-! ## Accesses that are queued -/

section
variable {s k}
variable (reached : s.viewGate k = 0)
include reached

theorem State.viewRead_faulted {off n : Nat} (form : accessForm k off n 64 = true) (faulted : s.flag (faultedF k) = true) :
    s.viewRead k off n = s.refuseRead k := by
  rw [State.viewRead, reached]
  simp [form, faulted]

variable (free : s.isPartner = false ∧ s.frozen (viewFn k) = false ∧ s.flag (faultedF k) = false)
include free

theorem State.viewRead_queues {off n : Nat} (form : accessForm k off n 64 = true) (room : (s.view k).count + (splitParts n off n).length ≤ 64) :
    s.viewRead k off n = s.arrive.updView k (fun v => { v with queue := v.queue ++ (splitParts n off n).zipIdx.map (fun x =>
      ⟨.read, x.1.1, x.1.2, s.now, decide (x.2 + 1 < (splitParts n off n).length), s.xb.arrived⟩) }) := by
  rw [State.viewRead, reached]
  simp [form, free, Nat.not_lt.mpr room]

theorem State.viewAtomic_queues {off : Nat} {wide : Bool} {op : AtomicOp} (aligned : off % (if wide then 8 else 4) = 0)
    (within : off + (if wide then 8 else 4) ≤ viewSize k) (atomic : s.flag (Reg.XB_WIN_CFG_ATOMIC (s.viewWin k)) = true)
    (on : s.flag Reg.XB_CTRL_ATOMIC_EN = true) (lockable : s.lockable k = true) (room : (s.view k).count < 64) :
    s.viewAtomic k off wide op = s.arrive.updView k (fun v => { v with queue := v.queue ++
      [⟨.atomic op, off, if wide then 8 else 4, s.now, false, s.xb.arrived⟩] }) := by
  rw [State.viewAtomic, reached]
  simp [aligned, Nat.not_lt.mpr within, free, atomic, on, lockable, Nat.not_le.mpr room]

end

/-- The register writes of one access are queued in their order (R396). -/
theorem State.viewWriteParts_queue (small : k < 0x10000) (acc : Nat × Nat → Nat → Acc) (l : List (Nat × Nat)) : ∀ {s : State},
    s.isPartner = false → s.frozen (viewFn k) = false → s.flag (faultedF k) = false → (s.view k).count + l.length ≤ 64 →
    ((l.foldl (fun t x => t.viewWritePart k (acc x t.now)) s).view k).queue = (s.view k).queue ++ l.map (fun x => acc x s.now) ∧
      (l.foldl (fun t x => t.viewWritePart k (acc x t.now)) s).out = s.out := by
  induction l with
  | nil => exact fun _ _ _ _ => ⟨(List.append_nil _).symm, rfl⟩
  | cons x l ih =>
    intro s partner frozen faulted room
    rw [List.length_cons] at room
    have one : s.viewWritePart k (acc x s.now) = s.updView k (fun v => { v with queue := v.queue ++ [acc x s.now] }) := by
      rw [State.viewWritePart, if_neg (by simp [faulted, frozen]), if_neg (by simp [partner]), if_neg (by omega)]
    rw [List.foldl_cons, one]
    obtain ⟨faulted', partner', frozen', now', out'⟩ := s.updView_kept k (fun v => { v with queue := v.queue ++ [acc x s.now] }) small
    obtain ⟨queue, out⟩ := ih (partner'.trans partner) ((frozen' _).trans frozen) (faulted'.trans faulted) (by
      rw [State.view_updView]
      simp only [ViewRec.count, List.length_append, List.length_singleton] at room ⊢
      omega)
    refine ⟨queue.trans ?_, out.trans out'⟩
    rw [State.view_updView, now', List.append_assoc, List.map_cons]
    rfl

end

/-! ## A window -/

/-- A field that software writes to XB_WIN_CFG or XB_WIN_BASE (R395). -/
theorem State.f_writeWindow {s : State} (win : Fin 256) (v : Word) {o : Nat} (lo w : Nat) {r : RegSpec} (small : o < 0x10)
    (spec : findSpec regSpecs_window o = some r) (fits : lo + w ≤ 32) (rw_ : (List.range w).all (fun i => r.rw.testBit (lo + i)) = true) :
    (s.writeReg (Reg.windowBase win.val + o) v).f ⟨Reg.windowBase win.val + o, lo, w⟩ = bits v lo w :=
  s.f_writeReg ⟨_, lo, w⟩ v r (regSpec_window win.val o r win.isLt small spec) fits rw_

/-- XB_WIN_CFG takes its fields. -/
theorem State.f_writeWindowCfg {s : State} (win : Fin 256) (v : Word) (lo w : Nat) (fits : lo + w ≤ 32)
    (rw_ : (List.range w).all (fun i => Nat.testBit 0x7ffff (lo + i)) = true) :
    (s.writeReg (Reg.XB_WIN_CFG win.val) v).f ⟨Reg.XB_WIN_CFG win.val, lo, w⟩ = bits v lo w :=
  State.f_writeWindow win v lo w (by decide) (o := 0) rfl fits rw_

theorem State.reg_refusedWindow {s : State} (n o : Nat) (h : o < 8) :
    (s.setB (Reg.XB_WIN_STATUS_CFG_REFUSED n) true).reg (Reg.windowBase n + o) = s.reg (Reg.windowBase n + o) :=
  ((State.regsBut.refl [Reg.XB_WIN_STATUS n] s).setB (x := Reg.XB_WIN_STATUS_CFG_REFUSED n) true (.head _)) _
    (by simp only [Reg.XB_WIN_STATUS, List.mem_singleton]; omega)

/-- Settles O30: each access meets the gate of its view and then its state; a queued one is appended to the view's queue. -/
theorem accessesArriveAtViews : Obligations.AccessesArriveAtViews := by
  unfold Obligations.AccessesArriveAtViews
  intro s w off k
  have small : k < 0x10000 := viewKey_small w
  obtain ⟨fits, one⟩ := faultedF_fits k
  refine ⟨fun reached partner frozen faulted => ⟨fun n form room => ?_, fun b form room => ?_, fun wide op aligned within atomic on lockable room => ?_⟩,
    fun n reached form faulted => ?_, fun n gate => ?_, fun b reached form four faulted => ?_, fun serves => ?_, fun win v => ?_⟩
  · refine answers_eq rfl (State.viewRead_queues reached ⟨partner, frozen, faulted⟩ form room) ?_
    exact ⟨congrArg ViewRec.queue (State.view_updView _ k _), (State.updView_kept _ k _ small).2.2.2.2⟩
  · refine answers_eq (t := (splitParts b.length off b.length).foldl (fun t x => t.viewWritePart k
        ⟨.write (field b (x.1 - off) x.2), x.1, x.2, t.now, false, s.xb.arrived⟩) s.arrive) rfl ?_ ?_
    · change s.viewWrite k off b = _
      rw [State.viewWrite, reached]
      simp only [form, Bool.not_true, Bool.false_eq_true, if_false]
    · exact State.viewWriteParts_queue k small (fun x now => ⟨.write (field b (x.1 - off) x.2), x.1, x.2, now, false, s.xb.arrived⟩) _
        (s := s.arrive) partner frozen faulted room
  · refine answers_eq rfl (State.viewAtomic_queues reached ⟨partner, frozen, faulted⟩ aligned within atomic on lockable room) ?_
    exact ⟨congrArg ViewRec.queue (State.view_updView _ k _), (State.updView_kept _ k _ small).2.2.2.2⟩
  · obtain ⟨out, queue, cleared⟩ := s.refuseRead_spec k small
    exact answers_eq rfl (State.viewRead_faulted reached form faulted) ⟨out, queue, cleared faulted⟩
  · refine answers_eq (t := s.unsupported (viewFn k) true) rfl ?_ (s.unsupported_read _)
    change s.viewRead k off n = _
    rw [State.viewRead]
    obtain gate | gate := gate
    · rw [gate]; rfl
    · rw [gate]; rfl
  · refine answers_eq (t := s.arrive.bump (dropsF k)) rfl ?_ ⟨?_, rfl⟩
    · change s.viewWrite k off b = _
      have single : splitParts b.length off b.length = [(off, 4)] := by
        rw [four]
        simp [splitParts]
      rw [State.viewWrite, reached]
      simp only [form, Bool.not_true, Bool.false_eq_true, if_false, single, List.foldl_cons, List.foldl_nil]
      exact if_pos (by rw [show s.arrive.flag (faultedF k) = true from faulted]; rfl)
    · obtain ⟨fits, wide⟩ := dropsF_fits k
      rw [State.f_bump_same _ _ fits, wide]
      exact congrArg (min · _) rfl
  · obtain ⟨cleared, pending, queue, -⟩ := s.clearView_spec k small
    exact answers_eq rfl (s.pfWrite_of_serves serves _) ⟨cleared, pending, queue⟩
  · intro held
    have refused : (s.setB (Reg.XB_WIN_STATUS_CFG_REFUSED win.val) true).flag (Reg.XB_WIN_STATUS_CFG_REFUSED win.val) = true :=
      State.flag_setB_same _ _ rfl rfl
    refine ⟨fun serves => answers_eq rfl (s.pfWrite_of_serves serves _) ?_, fun serves => answers_eq rfl (s.pfWrite_of_serves serves _) ?_⟩
    · rw [State.winCfg]
      split
      · exact ⟨refused, State.reg_refusedWindow win.val 0 (by decide)⟩
      · exact ⟨State.f_writeWindowCfg win v 0 16 (by decide) (by decide), State.f_writeWindowCfg win v 16 1 (by decide) (by decide),
          State.f_writeWindowCfg win v 17 1 (by decide) (by decide), State.f_writeWindowCfg win v 18 1 (by decide) (by decide)⟩
    · rw [State.winCfg]
      split
      · exact ⟨refused, State.reg_refusedWindow win.val 4 (by decide)⟩
      · exact State.f_writeWindow win v 0 8 (by decide) (o := 4) rfl (by decide) (by decide)

end Sys2Proof.Machine

namespace Sys2Proof.Machine

/-! # The pair unit: how pairs form and how roles change hands (R276, R287, R289, R290, R299 to R303)

## The fields of PU -/

section
variable (s : State)

theorem State.f_updPu (g : PairSt → PairSt) (y : Fld) : (s.updPu g).f y = s.f y := (rfl)
theorem State.flag_updPu (g : PairSt → PairSt) (y : Fld) : (s.updPu g).flag y = s.flag y := (rfl)

theorem State.role_setRole {r : Nat} (h : r < 4) : (s.setRole r).role = r := (State.f_setF_same _ _ rfl).trans (Nat.mod_eq_of_lt h)

theorem State.pstate_setPstate {p : Nat} (h : p < 8) : (s.setPstate p).pstate = p :=
  (State.f_setF_same _ _ rfl).trans (Nat.mod_eq_of_lt h)

/-- The phase of a join; its progress is 0. -/
theorem State.joinPhase_phase {p : Nat} (h : p < 8) :
    (s.joinPhase p).f Reg.PU_JOIN_STATUS_PHASE = p ∧ (s.joinPhase p).f Reg.PU_JOIN_STATUS_PROGRESS = 0 := by
  rw [State.joinPhase]
  simp (disch := decide) only [State.f_setF_apart, State.f_setF_same]
  exact ⟨Nat.mod_eq_of_lt h, Nat.zero_mod _⟩

/-- The phase of a join stands in a register of its own. -/
theorem State.joinPhase_f (p : Nat) {y : Fld} (h : y.addr ≠ Reg.PU_JOIN_STATUS) : (s.joinPhase p).f y = s.f y :=
  ((State.f_setF_other _ _ h).trans (State.f_setF_other _ _ h))

/-- What PAIR_ENABLE_WRITE puts into PU_CTRL (R276). -/
theorem State.f_writePuCtrl (v : Word) (lo w : Nat) (fits : lo + w ≤ 32) (rw_ : (List.range w).all (fun i => Nat.testBit 0xf (lo + i)) = true) :
    (s.writeReg Reg.PU_CTRL v).f ⟨Reg.PU_CTRL, lo, w⟩ = bits v lo w :=
  s.f_writeReg ⟨Reg.PU_CTRL, lo, w⟩ v ⟨0xd00000, 0x6, 0xf, 0x0, 0x0⟩ (by decide : regSpec Reg.PU_CTRL = _) fits rw_

theorem State.flag_writePuCtrl (v : Word) : (s.writeReg Reg.PU_CTRL v).flag Reg.PU_CTRL_EN = (bits v 0 1 == 1) :=
  congrArg (· == 1) (s.f_writePuCtrl v 0 1 (by decide) (by decide))

theorem nbit_zero (v : Word) : nbit v.toNat 0 = (bits v 0 1 == 1) := rfl

/-! ## EN -/

/-- The state in which HELLO begins. -/
def State.pairBegins (s : State) : State :=
  ((s.setPstate 1).joinPhase 1).updPu (fun u => { u with enAt := some s.now, silent := false, abdicate := false, hello := none, leave := none })

theorem State.pairStart_eq : s.pairStart = (s.pairBegins.miodelLanes.foldl (fun y n => y.trainStart n) s.pairBegins).sendHello := rfl

theorem State.pairBegins_spec : s.pairBegins.flag Reg.PU_CTRL_EN = s.flag Reg.PU_CTRL_EN ∧ s.pairBegins.pstate = 1 ∧
    s.pairBegins.f Reg.PU_JOIN_STATUS_PHASE = 1 ∧ s.pairBegins.pu.enAt = some s.now ∧ s.pairBegins.pu.silent = false ∧
    s.pairBegins.pu.hello = none := by
  simp only [State.pairBegins, State.updPu_pu, State.pstate, State.f_updPu, State.flag_updPu, State.setPstate, State.joinPhase]
  simp (disch := decide) only [State.f_setF_apart, State.f_setF_same, State.flag_setF_apart]
  exact ⟨trivial, Nat.mod_eq_of_lt (by decide), Nat.mod_eq_of_lt (by decide), trivial, trivial, trivial⟩

/-- The state of a pair unit that has stopped, before what its loss brings. -/
def State.pairEnded (s : State) : State :=
  (((s.orderedDown.setRole 0).setPstate 0).joinPhase 0).updPu (fun u => { PairSt.zero with
    seq := u.seq, held := u.held, latest := u.latest, sides := u.sides, barriers := u.barriers, barrierLast := u.barrierLast
    barrierFree := u.barrierFree, srcTick := u.srcTick, peerPorts := u.peerPorts })

theorem State.pairStop_eq : s.pairStop =
    if s.role = 0 then (if s.pairEnded.f Reg.PU_STATUS_TIME_SRC = 1 then s.pairEnded.freeRun else s.pairEnded).peerGone
    else ((if s.pairEnded.f Reg.PU_STATUS_TIME_SRC = 1 then s.pairEnded.freeRun else s.pairEnded).peerGone.puEvent Pe.role).when (s.role == 2)
      (fun z => z.tmBegins) := rfl

theorem State.pairEnded_spec : s.pairEnded.role = 0 ∧ s.pairEnded.pstate = 0 ∧ s.pairEnded.f Reg.PU_JOIN_STATUS_PHASE = 0 ∧
    s.pairEnded.pu.unacked = [] ∧ s.pairEnded.pu.peerTime = none := by
  simp only [State.pairEnded, State.updPu_pu, State.role, State.pstate, State.f_updPu, State.setPstate, State.setRole, State.joinPhase]
  simp (disch := decide) only [State.f_setF_apart, State.f_setF_same]
  exact ⟨Nat.zero_mod _, Nat.zero_mod _, Nat.zero_mod _, rfl, rfl⟩

/-- A width that takes no port away leaves the ports. -/
theorem State.miodelTakes_none {s : State} {v : Word} (h : ∀ p ∈ s.trunks, (s.writeReg Reg.PU_CTRL v).portExists p = true) : s.miodelTakes v = s := by
  rw [State.miodelTakes]
  have none : s.trunks.filter (fun p => !(s.writeReg Reg.PU_CTRL v).portExists p) = [] :=
    List.filter_eq_nil_iff.mpr fun p hp => by simp [h p hp]
  rw [none]
  rfl

section
variable {s}
variable {v : Word}

theorem State.pairEnable_starts (off : s.flag Reg.PU_CTRL_EN = false) (on : bits v 0 1 = 1) :
    s.pairEnable v = ((s.miodelTakes v).writeReg Reg.PU_CTRL v).pairStart := by
  simp [State.pairEnable, off, nbit_zero, on]

theorem State.pairEnable_stops (was : s.flag Reg.PU_CTRL_EN = true) (off : bits v 0 1 = 0) :
    s.pairEnable v = s.pairStop.writeReg Reg.PU_CTRL v := by
  simp [State.pairEnable, was, nbit_zero, off]

theorem State.pairEnable_same (same : s.flag Reg.PU_CTRL_EN = (bits v 0 1 == 1)) :
    s.pairEnable v = (s.miodelTakes v).writeReg Reg.PU_CTRL v := by
  rw [State.pairEnable, same, nbit_zero]
  cases bits v 0 1 == 1 <;> rfl

end

/-! ## HELLO -/

/-- The state of a device that becomes HOLDER alone, before its event (R287, R290). -/
def State.holdsAlone (s : State) : State :=
  ((((s.setRole 1).setPstate 4).setF Reg.PU_TERM_TERM 1).joinPhase 0).updPu (fun u => { u with enAt := none })

theorem State.holdsAlone_spec : s.holdsAlone.role = 1 ∧ s.holdsAlone.pstate = 4 ∧ s.holdsAlone.f Reg.PU_TERM_TERM = 1 ∧
    s.holdsAlone.f Reg.PU_JOIN_STATUS_PHASE = 0 ∧ s.holdsAlone.pu.enAt = none := by
  simp only [State.holdsAlone, State.updPu_pu, State.role, State.pstate, State.f_updPu, State.setPstate, State.setRole, State.joinPhase]
  simp (disch := decide) only [State.f_setF_apart, State.f_setF_same]
  exact ⟨Nat.mod_eq_of_lt (by decide), Nat.mod_eq_of_lt (by decide), Nat.mod_eq_of_lt (by decide), Nat.zero_mod _, trivial⟩

theorem State.helloCheck_small {h : HelloFrame} {c : Nat} (bad : s.helloCheck h = some c) : c < 256 := by
  rw [State.helloCheck] at bad
  split at bad
  · cases bad; decide
  split at bad
  · cases bad; decide
  split at bad
  · cases bad; decide
  split at bad
  · cases bad; decide
  · cases bad

/-- The state of a joiner whose join fails, before its event (R287, R305). -/
def State.joinEnds (s : State) (cause : Nat) : State :=
  ((((s.joinPhase 6).setF Reg.PU_JOIN_STATUS_FAIL cause).setRole 0).setPstate 0).updPu (fun u => { u with enAt := none, silent := true })

theorem State.joinEnds_spec {cause : Nat} (h : cause < 256) : (s.joinEnds cause).f Reg.PU_JOIN_STATUS_PHASE = 6 ∧
    (s.joinEnds cause).f Reg.PU_JOIN_STATUS_FAIL = cause ∧ (s.joinEnds cause).role = 0 ∧ (s.joinEnds cause).pstate = 0 ∧
    (s.joinEnds cause).orderedUp = s.orderedUp := by
  simp only [State.joinEnds, State.role, State.pstate, State.orderedUp, State.f_updPu, State.flag_updPu, State.setPstate, State.setRole]
  simp (disch := decide) only [State.f_setF_apart, State.f_setF_same, State.flag_setF_apart, State.joinPhase]
  exact ⟨Nat.mod_eq_of_lt (by decide), Nat.mod_eq_of_lt h, Nat.zero_mod _, Nat.zero_mod _, trivial⟩

theorem State.joinFailed_eq {cause : Nat} (h : cause < 256) (down : s.orderedUp = false) :
    s.joinFailed cause = (s.joinEnds cause).puEvent Pe.joinFailed cause := by
  have still : (s.joinEnds cause).orderedUp = false := (s.joinEnds_spec h).2.2.2.2.trans down
  change State.puEvent (if (s.joinEnds cause).orderedUp = true then _ else s.joinEnds cause) _ _ = _
  rw [still]
  rfl

/-- What a HELLO leaves in the pair's record. -/
def State.heard (s : State) (h : HelloFrame) : State :=
  s.updPu (fun u => { u with hello := some h, peerWidths := h.widths, lastFrame := some s.now })

/-- The ordered channel is up, before its event (R280). -/
def State.orderedBegins (s : State) : State :=
  (s.setB Reg.PU_STATUS_ORDERED_UP true).updPu (fun u =>
    { u with seq := 0, recvSeq := 0, unacked := [], unsent := [], owed := false, progress := s.now })

/-- What the checks of R287 lead to. -/
def State.judged (s : State) (h : HelloFrame) : State :=
  match s.helloCheck h with
  | none => ((s.sendHello).orderedComes).formPair h
  | some c =>
    let early : Bool := match s.pu.enAt with | some t => decide (s.now < t + sourceAge) | none => s.isHolder
    if c = 4 ∧ early then s
    else if s.isHolder then s.puEvent Pe.joinFailed c
    else if s.pstate = 0 then s
    else s.joinFailed c

theorem State.gotHello_eq (h : HelloFrame) : s.gotHello h = if !s.flag Reg.PU_CTRL_EN ∨ s.pu.silent then s
    else if (s.heard h).orderedUp && decide ((s.heard h).now < (s.heard h).pu.progress + 25000) then s.heard h
    else (if (s.heard h).orderedUp then (s.heard h).orderedDown else s.heard h).judged h := rfl

section
variable {s} {h : HelloFrame}
variable (on : s.flag Reg.PU_CTRL_EN = true) (heard : s.pu.silent = false) (down : s.orderedUp = false)
include on heard down

theorem State.gotHello_judged : s.gotHello h = (s.heard h).judged h := by
  have down' : (s.heard h).orderedUp = false := down
  rw [State.gotHello_eq, if_neg (by simp [on, heard]), down']
  rfl

theorem State.gotHello_good (good : s.helloCheck h = none) : s.gotHello h = (((s.heard h).sendHello.orderedBegins).puEvent Pe.up).formPair h := by
  rw [State.gotHello_judged on heard down, State.judged, show (s.heard h).helloCheck h = none from good]
  rfl

theorem State.gotHello_bad {c : Nat} (bad : s.helloCheck h = some c) (late : c ≠ 4) : s.gotHello h =
    if (s.heard h).isHolder then (s.heard h).puEvent Pe.joinFailed c else if (s.heard h).pstate = 0 then s.heard h else (s.heard h).joinFailed c := by
  rw [State.gotHello_judged on heard down, State.judged, show (s.heard h).helloCheck h = some c from bad]
  exact if_neg (fun x => late x.1)

end

/-- The HELLO that goes out, and the channel that comes up behind it (R280, R287). -/
theorem State.orderedBegins_spec (h : HelloFrame) : ((s.heard h).sendHello.orderedBegins).orderedUp = true ∧
    ((s.heard h).sendHello.orderedBegins).pu.hello = some h ∧ ((s.heard h).sendHello.orderedBegins).pu.progress = s.now ∧
    (s.miodelUp = true → ((s.heard h).sendHello.orderedBegins).out = .mio (.hello (s.helloFrame s.alignedHere)) :: s.out) := by
  have sent : Moves [.out] (s.heard h) (s.heard h).sendHello := State.sendHello_moves (.refl _ _) (by decide)
  refine ⟨?_, congrArg PairSt.hello (sent.pu_eq (by decide)), sent.now_eq (by decide), fun up => ?_⟩
  · rw [State.orderedUp, State.orderedBegins, State.flag_updPu]
    exact State.flag_setB_same _ _ rfl rfl
  change (s.heard h).sendHello.out = _
  rw [State.sendHello, State.sendTimed, if_pos (show (s.heard h).miodelUp = true from up), State.emit_out]
  rfl

end

/-- Settles O39: EN, the timeout and each outcome of the checks lead to the states that are named above. -/
theorem pairsForm : Obligations.PairsForm := by
  unfold Obligations.PairsForm
  intro s
  refine ⟨fun v serves off on => ?_, fun v serves was off => ?_, fun v serves same stay => ?_, fun t0 waits since late => ?_,
    fun h on heard down => ⟨fun good => ?_, fun c bad late other inPair => ?_, fun c bad late holder => ?_⟩⟩
  · refine answers_eq rfl ((s.pfWrite_of_serves serves _).trans ((State.pairEnable_starts off on).trans (State.pairStart_eq _))) ⟨_, ?_, ?_, ?_, ?_, ?_, ?_, rfl⟩ <;>
      obtain ⟨en, pstate, phase, since, silent, hello⟩ := ((s.miodelTakes v).writeReg Reg.PU_CTRL v).pairBegins_spec
    · exact en.trans ((State.flag_writePuCtrl _ v).trans (by rw [on]; rfl))
    · exact pstate
    · exact phase
    · have taken := State.miodelTakes_moves (l_ := [.regs, .lx, .tree, .ts, .ebm, .bus, .qe, .bm, .xb, .fn, .mre, .pu, .ck, .out]) (v := v) (.refl _ s) (by decide)
      exact since.trans (congrArg some ((State.writeReg_moves (a := Reg.PU_CTRL) (v := v) taken (by decide)).now_eq (by decide)))
    · exact silent
    · exact hello
  · obtain ⟨role, pstate, phase, unacked, peer⟩ := s.pairEnded_spec
    refine answers_eq rfl ((s.pfWrite_of_serves serves _).trans (State.pairEnable_stops was off))
      ⟨(State.flag_writePuCtrl _ v).trans (by rw [off]; rfl), s.pairEnded, _, _, role, pstate, phase, unacked, peer, rfl, s.pairStop_eq, rfl⟩
  · refine answers_eq rfl ((s.pfWrite_of_serves serves _).trans ((State.pairEnable_same same).trans (by rw [State.miodelTakes_none stay])))
      ⟨s.regsBut_writeReg _ v, State.f_writePuCtrl s v 2 2 (by decide) (by decide), State.f_writePuCtrl s v 1 1 (by decide) (by decide), ?_⟩
    exact (State.writeReg_moves (l_ := [.regs]) (.refl _ s) (by decide)).pu_eq (by decide)
  · refine answers_eq (t := s.holderAlone) rfl ?_ ?_
    · rw [State.helloLate, since]
      exact if_pos ⟨waits, late⟩
    · obtain ⟨role, pstate, term, phase, enAt⟩ := s.holdsAlone_spec
      exact ⟨s.holdsAlone, role, pstate, term, phase, enAt, rfl⟩
  · obtain ⟨up, hello, progress, out⟩ := s.orderedBegins_spec h
    exact answers_eq rfl (State.gotHello_good on heard down good) ⟨_, up, rfl, rfl, rfl, hello, progress, out, rfl⟩
  · have small := s.helloCheck_small bad
    obtain ⟨phase, fail, role, pstate, -⟩ := (s.heard h).joinEnds_spec small
    refine answers_eq rfl ((State.gotHello_bad on heard down bad late).trans ?_) ⟨(s.heard h).joinEnds c, phase, fail, role, pstate, rfl, rfl, rfl⟩
    rw [show (s.heard h).isHolder = false from other, if_neg (by decide), if_neg (show ¬(s.heard h).pstate = 0 from inPair),
      (s.heard h).joinFailed_eq small down]
  · refine answers_eq rfl ((State.gotHello_bad on heard down bad late).trans ?_) ⟨s.heard h, rfl, rfl, rfl⟩
    exact if_pos holder

end Sys2Proof.Machine

namespace Sys2Proof.Machine

/-! ## Loss, takeover and handover (R289, R290, R299 to R303) -/

section
variable {s : State}

theorem State.isHolder_of_partner (h : s.isPartner = true) : s.isHolder = false := by
  have role : s.role = 2 := eq_of_beq h
  rw [State.isHolder, role]
  rfl

theorem State.role_of_isHolder (h : s.isHolder = true) : s.role = 1 := eq_of_beq h

theorem State.role_setPstate (p : Nat) : (s.setPstate p).role = s.role := State.f_setF_apart _ _ (by decide)

/-- The state of a device that becomes HOLDER, before its event (R290). -/
def State.termGrows (s : State) : State := (s.setRole 1).setF Reg.PU_TERM_TERM (s.f Reg.PU_TERM_TERM + 1)

theorem State.becomeHolder_eq (s : State) : s.becomeHolder = s.termGrows.puEvent Pe.role := rfl

theorem State.termGrows_spec (s : State) : s.termGrows.role = 1 ∧ s.termGrows.f Reg.PU_TERM_TERM = (s.f Reg.PU_TERM_TERM + 1) % 2 ^ 32 := by
  simp only [State.termGrows, State.role, State.setRole]
  simp (disch := decide) only [State.f_setF_apart, State.f_setF_same]
  exact ⟨Nat.mod_eq_of_lt (by decide), rfl⟩

theorem State.termGrows_pu (s : State) : s.termGrows.pu = s.pu := by simp only [State.termGrows, State.setRole, State.setF_pu]

/-! ## The peer is lost (R299, R300) -/

section
variable {c : LossCause} (seen : s.lossSeen c = true)
include seen

theorem State.peerLost_holder (holder : s.isHolder = true) (lockstep : s.lockstep = true) :
    s.peerLost c = (s.setPstate 4).orderedDown.peerGone.puEvent Pe.lost (lossCode c) := by
  simp [State.peerLost, seen, holder, lockstep]

theorem State.peerLost_partner (partner : s.isPartner = true) (lockstep : s.lockstep = true) (calm : s.pu.takeoverAt = none) :
    s.peerLost c = s.updPu (fun u => { u with loss := some c, takeoverAt := some (s.mfN + 2) }) := by
  simp [State.peerLost, seen, State.isHolder_of_partner partner, partner, lockstep, calm]

theorem State.peerLost_apart (partner : s.isPartner = true) (apart : s.lockstep = false) :
    s.peerLost c = ((((s.orderedDown.setRole 0).setPstate 1).joinPhase 1).updPu
      (fun u => { u with enAt := some ((s.orderedDown.setRole 0).setPstate 1).now })) := by
  simp [State.peerLost, seen, State.isHolder_of_partner partner, partner, apart]

end

/-- A PARTNER that was not in lockstep has no pair (R289). -/
theorem State.hellosAgain_spec (s : State) (g : PairSt → PairSt) : let t := (((s.setRole 0).setPstate 1).joinPhase 1).updPu g
    t.role = 0 ∧ t.pstate = 1 ∧ t.f Reg.PU_JOIN_STATUS_PHASE = 1 := by
  intro t
  simp only [t, State.role, State.pstate, State.f_updPu, State.setPstate, State.setRole, State.joinPhase]
  simp (disch := decide) only [State.f_setF_apart, State.f_setF_same]
  exact ⟨Nat.zero_mod _, Nat.mod_eq_of_lt (by decide), Nat.mod_eq_of_lt (by decide)⟩

/-! ## Takeover and handover (R301, R303) -/

/-- The device that takes over, before it is HOLDER. -/
def State.takesOver (s : State) : State :=
  s.orderedDown.updPu (fun u => { u with takeoverAt := none, loss := none, handover := none, relay := [], auditEnd := true })

theorem State.takeover_due {m : Nat} {c : LossCause} (at_ : s.pu.takeoverAt = some m) (loss : s.pu.loss = some c) (due : m ≤ s.mfN) :
    s.takeover = ((((((s.takesOver.termGrows.puEvent Pe.role).setPstate 4).bump Reg.PU_TAKEOVERS_TAKEOVERS).puEvent Pe.lost (lossCode c)).peerGone).stopClips
      St.aborted).resyncAll.tmBegins := by
  rw [State.takeover, at_, loss]
  exact if_neg (Nat.not_lt.mpr due)

/-- The HOLDER that gives its role away, before its event. -/
def State.givesRole (s : State) : State :=
  ((s.setRole 2).setF Reg.PU_TERM_TERM ((s.setRole 2).f Reg.PU_TERM_TERM + 1)).bump Reg.PU_TAKEOVERS_HANDOVERS

theorem State.givesRole_spec (s : State) : s.givesRole.role = 2 ∧ s.givesRole.f Reg.PU_TERM_TERM = (s.f Reg.PU_TERM_TERM + 1) % 2 ^ 32 ∧
    s.givesRole.f Reg.PU_TAKEOVERS_HANDOVERS = min (s.f Reg.PU_TAKEOVERS_HANDOVERS + 1) 65535 := by
  simp only [State.givesRole, State.role, State.setRole]
  simp (disch := decide) only [State.f_bump_apart, State.f_bump_same, State.f_setF_apart, State.f_setF_same]
  exact ⟨Nat.mod_eq_of_lt (by decide), rfl, rfl⟩

/-- The entry that asked for a handover, if one did, completes with OK. -/
def State.handed (s : State) : Option EntryRef → State
  | some r => s.completeRef r St.ok
  | none => s

section
variable {h : Nat} {r : Option EntryRef} (at_ : s.pu.handover = some (h, r)) (due : h ≤ s.mfN)
include at_ due

theorem State.handoverSwitch_holder (holder : s.isHolder = true) : s.handoverSwitch =
    ((s.updPu (fun q => { q with handover := none })).holderEnds.givesRole.puEvent Pe.role).handed r := by
  rw [State.handoverSwitch, at_]
  dsimp only
  rw [if_neg (Nat.not_lt.mpr due), if_pos (show (State.updPu _ _).isHolder = true from holder)]
  cases r <;> rfl

theorem State.handoverSwitch_partner (partner : s.isPartner = true) : s.handoverSwitch =
    (((((s.updPu (fun q => { q with handover := none })).termGrows.puEvent Pe.role).bump Reg.PU_TAKEOVERS_HANDOVERS).updPu
      (fun q => { q with auditEnd := true, relay := [] })).stopClips St.aborted).tmBegins := by
  rw [State.handoverSwitch, at_]
  dsimp only
  rw [if_neg (Nat.not_lt.mpr due), if_neg (by rw [show (State.updPu _ _).isHolder = false from State.isHolder_of_partner partner]; decide),
    if_pos (show (State.updPu _ _).isPartner = true from partner)]
  rfl

end
end

/-- Settles O40: loss, takeover and handover by what the device is and when its mark comes. -/
theorem rolesChangeHands : Obligations.RolesChangeHands := by
  unfold Obligations.RolesChangeHands
  intro s
  refine ⟨fun c seen => ⟨fun holder lockstep => ?_, fun partner lockstep calm => ?_, fun partner apart => ?_⟩, fun m c at_ loss due => ?_,
    fun h r at_ due => ⟨fun holder => ?_, fun partner => ?_⟩⟩
  · exact answers_eq rfl (State.peerLost_holder seen holder lockstep)
      ⟨s.setPstate 4, State.pstate_setPstate s (by decide), (State.role_setPstate 4).trans (State.role_of_isHolder holder), rfl⟩
  · exact answers_eq rfl (State.peerLost_partner seen partner lockstep calm) ⟨rfl, rfl, rfl⟩
  · exact answers_eq rfl (State.peerLost_apart seen partner apart) (State.hellosAgain_spec _ _)
  · obtain ⟨role, term⟩ := s.takesOver.termGrows_spec
    have pu := s.takesOver.termGrows_pu
    exact answers_eq rfl (State.takeover_due at_ loss due) ⟨s.takesOver.termGrows, _, role, term, congrArg PairSt.takeoverAt pu, congrArg PairSt.handover pu, congrArg PairSt.auditEnd pu, rfl, rfl⟩
  · obtain ⟨role, term, count⟩ := (s.updPu (fun q => { q with handover := none })).holderEnds.givesRole_spec
    exact answers_eq rfl (State.handoverSwitch_holder at_ due holder) ⟨_, _, rfl, role, term, count, by cases r <;> rfl⟩
  · obtain ⟨role, term⟩ := (s.updPu (fun q => { q with handover := none })).termGrows_spec
    exact answers_eq rfl (State.handoverSwitch_partner at_ due partner) ⟨_, _, role, congrArg PairSt.handover (State.termGrows_pu _), term, rfl, rfl⟩

end Sys2Proof.Machine

namespace Sys2Proof.Machine

/-! ## Joins, held writes, barriers and held events (R288, R304, R305, R311, R358) -/

section
variable {s : State}

/-- A joiner is a PARTNER and not a HOLDER. -/
theorem State.phaseEnd_joiner (partner : s.isPartner = true) (joining : s.pstate = 2) : s.phaseEnd =
    if s.f Reg.PU_JOIN_STATUS_PHASE = 2 ∧ s.f Reg.PU_JOIN_STATUS_PROGRESS = 100 then { s.joinPhase 3 with mre := { (s.joinPhase 3).mre with on := false } }
    else if s.f Reg.PU_JOIN_STATUS_PHASE = 3 ∧ s.f Reg.PU_JOIN_STATUS_PROGRESS = 100 ∧ s.pu.install.isEmpty then
      (s.joinPhase 4).updPu (fun u => { u with matched := 0, joinPasses := 0 })
    else if s.f Reg.PU_JOIN_STATUS_PHASE = 4 ∧ 64 ≤ s.pu.matched then
      (s.joinPhase 5).updPu (fun u => { u with joinAt := some (frameFrom (s.mfN + 1)) })
    else s := by
  rw [State.phaseEnd, State.isHolder_of_partner partner]
  simp only [Bool.false_eq_true, if_false, partner, Bool.not_true, joining, ne_eq, not_true_eq_false, or_self]

theorem State.phaseEnd_holder (holder : s.isHolder = true) (copying : s.f Reg.PU_JOIN_STATUS_PHASE = 2) (lost : s.pstate = 4)
    (up : s.orderedUp = true) : s.phaseEnd = (s.joinPhase 4).sendCopies s.copyState := by
  simp [State.phaseEnd, holder, copying, lost, up]

theorem State.joinDone_due {m : Nat} (at_ : s.pu.joinAt = some m) (phase : s.f Reg.PU_JOIN_STATUS_PHASE = 5) (joining : s.pstate = 2)
    (due : m ≤ s.mfN) : s.joinDone = ((s.setPstate 3).updPu (fun u => { u with joinAt := none, diverge := 0 })).puEvent Pe.joined := by
  rw [State.joinDone, at_]
  exact if_pos ⟨phase, joining, due⟩

section
variable (verify : s.f Reg.PU_JOIN_STATUS_PHASE = 4) (long : 256 ≤ s.pu.joinPasses)
include verify long

theorem State.joinTimeout_holder (holder : s.isHolder = true) : s.joinTimeout = s.startCopy := by
  simp [State.joinTimeout, verify, Nat.not_lt.mpr long, holder]

theorem State.joinTimeout_again (joiner : s.isHolder = false) (first : s.pu.retried = false) :
    s.joinTimeout = (s.joinPhase 2).updPu (fun u => { u with retried := true, matched := 0, joinPasses := 0, install := [] }) := by
  simp [State.joinTimeout, verify, Nat.not_lt.mpr long, joiner, first]

theorem State.joinTimeout_fails (joiner : s.isHolder = false) (again : s.pu.retried = true) : s.joinTimeout = s.joinFailed 5 := by
  simp [State.joinTimeout, verify, Nat.not_lt.mpr long, joiner, again]

end

/-- A held write whose frame mark has come (R288). -/
theorem State.applyWrites_due {a : Nat} {v : Word} {m : Nat} (held : s.pu.writes = [(a, v, m)]) (due : m ≤ s.mfN) :
    s.applyWrites = (s.updPu (fun u => { u with writes := [] })).setReg a
      ((s.reg a &&& ~~~(BitVec.ofNat 32 (pairMask a))) ||| (v &&& BitVec.ofNat 32 (pairMask a))) := by
  simp only [State.applyWrites, held, List.partition_eq_filter_filter, List.filter_cons, List.filter_nil,
    Function.comp, due, decide_true, if_true, Bool.not_true, Bool.false_eq_true, if_false, List.foldl_cons, List.foldl_nil]
  rfl

theorem State.applyWrites_early {a : Nat} {v : Word} {m : Nat} (held : s.pu.writes = [(a, v, m)]) (early : s.mfN < m) : s.applyWrites = s := by
  simp only [State.applyWrites, held, List.partition_eq_filter_filter, List.filter_cons, List.filter_nil, Function.comp, Nat.not_le.mpr early,
    decide_false, Bool.false_eq_true, if_false, Bool.not_false, if_true, List.foldl_nil]
  rw [← held]
  rfl

/-- A barrier that every device of the cascade has executed, at its second mark (R311). -/
theorem State.barrierDone_due {n m0 : Nat} {r : EntryRef} (mine : s.pu.barriers = [(n, m0, r)]) (known : s.barrierKnown n = true)
    (due : m0 + 2 ≤ s.mfN) : s.barrierDone n = (s.updPu (fun u => { u with barriers := [], barrierFree := n })).completeRef r St.ok 0
      (BitVec.ofNat 32 s.mfN) (BitVec.ofNat 32 (s.mfN / 2 ^ 32)) := by
  simp only [State.barrierDone, mine, List.filter_cons, beq_self_eq_true, if_true, List.filter_nil, List.isEmpty_cons, Bool.false_eq_true,
    known, Bool.not_true, List.any_cons, decide_eq_false (Nat.not_lt.mpr due), List.any_nil, Bool.or_self, or_self, if_false, bne_self_eq_false,
    State.inCqeOrder, List.foldl_cons, List.foldl_nil, insertBy, State.updPu]
  rfl

section
variable {e : UnitEvent} {r : List UnitEvent} (held : s.pu.held = e :: r)
include held

theorem State.drainPu_writes {u : State} (room : s.postEvent (s.f Reg.PU_EVENT_CTRL_CQ) e.dws 4 = some u) (n : Nat) :
    s.drainPu (n + 1) = (u.updPu (fun q => { q with held := r })).drainPu n := by
  rw [State.drainPu, held]
  dsimp only
  rw [room]

theorem State.drainPu_waits (full : s.postEvent (s.f Reg.PU_EVENT_CTRL_CQ) e.dws 4 = none) (n : Nat) : s.drainPu (n + 1) = s := by
  rw [State.drainPu, held]
  dsimp only
  rw [full]

end
end

/-- Settles O41: a join by its phase and by who asks; what is held by whether its mark has come and there is room. -/
theorem joinsRunTheirPhases : Obligations.JoinsRunTheirPhases := by
  unfold Obligations.JoinsRunTheirPhases
  intro s
  have phased {p : Nat} (h : p < 8) := s.joinPhase_phase h
  refine ⟨fun holder copying lost up => ?_, fun partner joining copying full => ?_, fun partner joining states full done => ?_,
    fun partner joining verify matched => ?_, fun m at_ phase joining due => ?_,
    fun verify long => ⟨fun holder => ?_, fun joiner first => ?_, fun joiner again down => ?_⟩,
    fun a v m held => ⟨fun due => ?_, fun early => ?_⟩, fun id m0 r mine known due => ?_, fun e r held => ⟨fun u room => ?_, fun full => ?_⟩⟩
  · exact answers_eq rfl (State.phaseEnd_holder holder copying lost up) ⟨s.joinPhase 4, (phased (by decide)).1, (phased (by decide)).2, rfl⟩
  · refine answers_eq rfl ((State.phaseEnd_joiner partner joining).trans (if_pos ⟨copying, full⟩)) ?_
    exact ⟨(phased (p := 3) (by decide)).1, (phased (p := 3) (by decide)).2, rfl⟩
  · have later (P : Prop) : ¬(s.f Reg.PU_JOIN_STATUS_PHASE = 2 ∧ P) := fun h => absurd (states.symm.trans h.1) (by decide)
    exact answers_eq rfl ((State.phaseEnd_joiner partner joining).trans ((if_neg (later _)).trans (if_pos ⟨states, full, by rw [done]; rfl⟩)))
      ⟨(phased (p := 4) (by decide)).1, rfl, rfl⟩
  · have later (P : Prop) : ¬(s.f Reg.PU_JOIN_STATUS_PHASE = 2 ∧ P) := fun h => absurd (verify.symm.trans h.1) (by decide)
    have last (P : Prop) : ¬(s.f Reg.PU_JOIN_STATUS_PHASE = 3 ∧ P) := fun h => absurd (verify.symm.trans h.1) (by decide)
    exact answers_eq rfl ((State.phaseEnd_joiner partner joining).trans ((if_neg (later _)).trans ((if_neg (last _)).trans (if_pos ⟨verify, matched⟩))))
      ⟨(phased (p := 5) (by decide)).1, rfl⟩
  · refine answers_eq rfl (State.joinDone_due at_ phase joining due) ⟨_, ?_, ?_, rfl, rfl, rfl⟩
    · exact State.pstate_setPstate s (by decide)
    · exact State.role_setPstate 3
  · exact answers_eq rfl (State.joinTimeout_holder verify long holder) rfl
  · exact answers_eq rfl (State.joinTimeout_again verify long joiner first) ⟨(phased (p := 2) (by decide)).1, rfl, rfl, rfl, rfl⟩
  · obtain ⟨phase, fail, role, pstate, -⟩ := s.joinEnds_spec (cause := 5) (by decide)
    exact answers_eq rfl ((State.joinTimeout_fails verify long joiner again).trans (s.joinFailed_eq (by decide) down))
      ⟨s.joinEnds 5, phase, fail, role, pstate, rfl, rfl⟩
  · refine answers_eq rfl (State.applyWrites_due held due) ⟨?_, rfl, State.reg_setReg _ _ _⟩
    exact (State.regsBut.refl [a] s).setReg _ (.head _)
  · exact answers_eq rfl (State.applyWrites_early held early) rfl
  · exact answers_eq rfl (State.barrierDone_due mine known due) ⟨_, rfl, rfl, rfl⟩
  · refine answers_eq rfl (?_ : s.drainPu _ = _) rfl
    rw [show s.pu.held.length + s.pu.latest.length = (r.length + s.pu.latest.length) + 1 by rw [held, List.length_cons]; omega]
    exact State.drainPu_writes held room _
  · refine answers_eq rfl (?_ : s.drainPu _ = _) rfl
    rw [show s.pu.held.length + s.pu.latest.length = (r.length + s.pu.latest.length) + 1 by rw [held, List.length_cons]; omega]
    exact State.drainPu_waits held full _

end Sys2Proof.Machine

namespace Sys2Proof.Machine

/-! # The ordered channel of the pair (R280, R288, R291, R292, R302 to R304)

## Sending again -/

section
variable {s : State}

theorem State.sendTimed_up (up : s.miodelUp = true) (f : MioOut) : s.sendTimed f = s.emit (.mio f) := if_pos up

/-- Timed frames go out one after the other, the last of them newest. -/
theorem State.sendTimed_foldl (l : List (Nat × MioOut)) : ∀ {s : State}, s.miodelUp = true →
    l.foldl (fun s x => s.sendTimed x.2) s = { s with out := (l.map (fun x => Emit.mio x.2)).reverse ++ s.out } := by
  induction l with
  | nil => exact fun _ => rfl
  | cons x l ih =>
    intro s up
    rw [List.foldl_cons, State.sendTimed_up up, ih (s := s.emit (.mio x.2)) up, List.map_cons, List.reverse_cons, List.append_assoc]
    rfl

/-- Waiting frames that go out change the two lists alone. -/
theorem State.sendUnsent_kept (s : State) (n : Nat) : (s.sendUnsent n).pu.mirrored = s.pu.mirrored ∧ (s.sendUnsent n).pu.deferred = s.pu.deferred := by
  induction n generalizing s with
  | zero => exact ⟨rfl, rfl⟩
  | succ n ih =>
    rw [State.sendUnsent]
    split
    · split
      · exact ih _
      · exact ⟨rfl, rfl⟩
    · exact ⟨rfl, rfl⟩

theorem State.ackTimer_owed (up : s.orderedUp = true) (owed : s.pu.owed = true) (link : s.miodelUp = true) : s.ackTimer =
    (s.emit (.mio (.ack ((s.pu.recvSeq + 2 ^ 32 - 1) % 2 ^ 32)))).updPu (fun u => { u with owed := false }) := by
  rw [State.ackTimer, if_pos (by rw [up, owed]; rfl), State.sendTimed_up link]

/-- The oldest frame has waited for 20 µs (R280). -/
theorem State.resend_due (up : s.orderedUp = true) (some_ : s.pu.unacked ≠ []) (progress : s.pu.progress + 500 ≤ s.now)
    (resent : s.pu.resentAt + 500 ≤ s.now) (link : s.miodelUp = true) : s.resend =
    (State.bump { s with out := (s.pu.unacked.map (fun x => Emit.mio x.2)).reverse ++ s.out } Reg.PU_MIODEL_ERRORS_RETRANSMITS
      s.pu.unacked.length).updPu (fun u => { u with resentAt := s.now }) := by
  have due : (s.orderedUp && !s.pu.unacked.isEmpty && decide (max s.pu.progress s.pu.resentAt + 500 ≤ s.now)) = true := by
    simp only [up, Bool.true_and, Bool.and_eq_true, Bool.not_eq_true', List.isEmpty_eq_false_iff, decide_eq_true_eq]
    exact ⟨some_, by omega⟩
  rw [State.resend, if_pos due, State.sendTimed_foldl _ link]

/-! ## The end of the channel -/

theorem State.channelDown_due (up : s.orderedUp = true)
    (due : s.miodelUp = false ∨ s.pu.unacked ≠ [] ∧ s.pu.progress + 25000 ≤ s.now) : s.channelDown =
    if s.orderedDown.pstate = 2 then ((s.orderedDown.setRole 0).setPstate 1).joinPhase 1 else s.orderedDown := by
  refine if_pos ?_
  rcases due with gone | ⟨some_, late⟩
  · rw [up, gone]
    rfl
  · simp [up, some_, late]

/-- The channel that has gone down with nothing that waits for it, before its event. -/
def State.orderedEnds (s : State) : State :=
  (((s.setB Reg.PU_STATUS_ORDERED_UP false).updPu (fun p => { p with unacked := [], unsent := [], mirrored := [], hello := none, owed := false })).updPu
    (fun p => { p with deferred := [] })).updPu (fun p => { p with sent := [] })

theorem State.orderedEnds_flag (s : State) : s.orderedEnds.flag Reg.PU_STATUS_ORDERED_UP = false := by
  rw [State.orderedEnds, State.flag_updPu, State.flag_updPu, State.flag_updPu]
  exact State.flag_setB_same _ _ rfl rfl

theorem State.orderedDown_empty (up : s.orderedUp = true) (deferred : s.pu.deferred = []) (sent : s.pu.sent = []) :
    s.orderedDown = s.orderedEnds.puEvent Pe.down := by
  rw [State.orderedDown, if_pos up]
  extract_lets a wait lost b dead c d out e
  have none_ : dead = [] := deferred
  have d' : d = c := by simp only [d, none_]; rfl
  have out' : out = [] := by simp only [out, d']; exact sent
  have e' : e = s.orderedEnds := by simp only [e, d']; rfl
  rw [out', e']
  rfl

/-! ## Frames in their order -/

/-- What the next frame in order leaves in the pair's record. -/
def State.taken (s : State) (n : Nat) : State :=
  (s.frameSeen.updPu (fun u => { u with owed := true })).updPu (fun u => { u with recvSeq := (n + 1) % 2 ^ 32 })

variable (up : s.orderedUp = true)
include up

theorem State.inOrder_next {n : Nat} (next : n = s.pu.recvSeq) : s.inOrder n = some (s.taken n) := by
  rw [State.inOrder, if_neg (by rw [show s.frameSeen.orderedUp = true from up]; decide)]
  exact if_pos next

theorem State.inOrder_other {n : Nat} (other : n ≠ s.pu.recvSeq) : s.inOrder n = none := by
  rw [State.inOrder, if_neg (by rw [show s.frameSeen.orderedUp = true from up]; decide)]
  exact if_neg other

theorem State.gotMirror_next {n : Nat} (next : n = s.pu.recvSeq) (m : MirrorRec) : s.gotMirror n m = (s.taken n).applyMirror n m := by
  rw [State.gotMirror, State.inOrder_next up next]

theorem State.gotMirror_other {n : Nat} (other : n ≠ s.pu.recvSeq) (m : MirrorRec) :
    s.gotMirror n m = s.frameSeen.updPu (fun u => { u with owed := true }) := by
  rw [State.gotMirror, State.inOrder_other up other]
  exact if_pos up

theorem State.gotCopy_joiner {n : Nat} (next : n = s.pu.recvSeq) (partner : s.isPartner = true) (joining : s.pstate = 2) (c : CopyFrame) :
    s.gotCopy n c = (s.taken n).install c := by
  unfold State.gotCopy
  rw [State.inOrder_next up next]
  refine if_pos ?_
  rw [show (s.taken n).isPartner = true from partner, show (s.taken n).pstate = 2 from joining]
  exact Bool.or_true _

theorem State.gotCopy_other {n : Nat} (next : n = s.pu.recvSeq) (no : s.isPartner = false ∨ s.pstate ≠ 2) (a : Nat) (b : List Byte) :
    s.gotCopy n (.ebm a b) = s.taken n := by
  unfold State.gotCopy
  rw [State.inOrder_next up next]
  refine if_neg ?_
  change ¬(s.isPartner && s.pstate == 2) = true
  rcases no with no | no <;> simp [no]

omit up in
theorem State.applyMirror_regWrite (partner : s.isPartner = true) (n : Nat) (a : BitVec 25) (v : Word) (m : MfNum) :
    s.applyMirror n (.regWrite a v m) = s.updPu (fun u => { u with writes := u.writes ++ [(a.toNat, v, m.toNat)] }) := by
  rw [State.applyMirror, if_pos partner]

omit up in
theorem State.applyMirror_handover (partner : s.isPartner = true) (n : Nat) (h : MfNum) :
    s.applyMirror n (.handover h) = s.updPu (fun u => { u with handover := some (h.toNat, none) }) := by
  rw [State.applyMirror, if_pos partner]

end

/-! ## Acknowledgements -/

/-- What an ACK of the frames up to `n` releases. -/
def State.released (s : State) (n : Nat) : State :=
  s.updPu (fun p => { p with
    unacked := s.pu.unacked.filter (fun x => !(seqUpTo x.1 n))
    progress := if (s.pu.unacked.filter (fun x => !(seqUpTo x.1 n))).length < s.pu.unacked.length then s.now else p.progress
    mirrored := p.mirrored.filter (fun x => !(seqUpTo x.1 n)) })

/-- The entries whose records are acknowledged finish in the order of R355; the others wait on. -/
theorem State.ackTo_eq (s : State) (n : Nat) : s.ackTo n =
    ((s.released n).sendUnsent s.pu.unsent.length |>.inCqeOrder (·.1)
      (s.pu.deferred.filter (fun x => !(s.released n).pu.mirrored.any (fun y => y.2 == x.1)))).foldl
        (fun (y : State) (x : EntryRef × Cqe) => y.finishEntry x.1 x.2)
        (((s.released n).sendUnsent s.pu.unsent.length).updPu
          (fun q => { q with deferred := s.pu.deferred.filter (fun x => (s.released n).pu.mirrored.any (fun y => y.2 == x.1)) })) := by
  obtain ⟨mirrored, deferred⟩ := (s.released n).sendUnsent_kept s.pu.unsent.length
  unfold State.ackTo
  extract_lets old left a v
  have same : v = (s.released n).sendUnsent s.pu.unsent.length := rfl
  rw [← same] at mirrored deferred ⊢
  simp only [List.partition_eq_filter_filter, mirrored, show v.pu.deferred = s.pu.deferred from deferred, Function.comp_def, Bool.not_not]

/-- Settles O37: each timer and frame of the ordered channel by what waits and what is next in order. -/
theorem orderedChannelKeepsOrder : Obligations.OrderedChannelKeepsOrder := by
  unfold Obligations.OrderedChannelKeepsOrder
  intro s
  refine ⟨fun up owed link => ?_, fun up some_ progress resent link => ?_, fun up due => ⟨?_, fun _ deferred sent => ?_⟩, fun seq up => ?_,
    fun timed => ?_, fun seq m up => ⟨fun next => ?_, fun other => ?_, fun a v n next partner hm => ?_, fun h next partner hm => ?_⟩,
    fun seq c up next => ⟨fun partner joining => ?_, fun a b hc no => ?_⟩⟩
  · exact answers_eq rfl (State.ackTimer_owed up owed link) ⟨rfl, rfl⟩
  · refine answers_eq rfl (State.resend_due up some_ progress resent link) ⟨?_, ?_, ?_⟩
    · rw [State.updPu_out, State.bump_eq, State.setF_out]
    · rw [State.updPu_pu, State.bump_eq, State.setF_pu]
    · rw [State.f_updPu]
      exact State.f_bump_same (x := Reg.PU_MIODEL_ERRORS_RETRANSMITS) _ _ (by decide)
  · exact answers_eq rfl (State.channelDown_due up due) rfl
  · refine answers_eq rfl (State.channelDown_due up due) ⟨s.orderedEnds, _, s.orderedEnds_flag, rfl, rfl, rfl, rfl, rfl, ?_⟩
    rw [State.orderedDown_empty up deferred sent]
  · refine answers_eq rfl ((if_pos up).trans (s.frameSeen.ackTo_eq seq.toNat)) ⟨s.frameSeen.released seq.toNat, _, rfl, rfl, rfl, rfl, rfl, rfl, rfl⟩
  · cases timed with
    | true =>
      refine answers_eq rfl (rfl : _ = s.bump Reg.PU_MIODEL_ERRORS_TIMED_LOST 1) ⟨?_, ?_⟩
      · exact (State.regsBut.refl [Reg.PU_MIODEL_ERRORS] s).bump (x := Reg.PU_MIODEL_ERRORS_TIMED_LOST) 1 (.head _)
      · exact State.f_bump_same (x := Reg.PU_MIODEL_ERRORS_TIMED_LOST) _ _ (by decide)
    | false => exact answers_eq rfl rfl ⟨State.regsBut.refl _ _, rfl⟩
  · exact answers_eq rfl (State.gotMirror_next up next m) ⟨s.taken seq.toNat, rfl, rfl, rfl, rfl, rfl⟩
  · exact answers_eq rfl (State.gotMirror_other up other m) ⟨rfl, rfl, rfl, rfl⟩
  · subst hm
    exact answers_eq rfl ((State.gotMirror_next up next _).trans (State.applyMirror_regWrite (s := s.taken _) partner _ a v n)) ⟨rfl, rfl⟩
  · subst hm
    exact answers_eq rfl ((State.gotMirror_next up next _).trans (State.applyMirror_handover (s := s.taken _) partner _ h)) ⟨rfl, rfl⟩
  · exact answers_eq rfl (State.gotCopy_joiner up next partner joining c) ⟨s.taken seq.toNat, rfl, rfl, rfl, rfl⟩
  · subst hc
    exact answers_eq rfl (State.gotCopy_other up next no a b) ⟨rfl, rfl⟩

end Sys2Proof.Machine

namespace Sys2Proof.Machine

/-! # A source's mark at a port in device role (R284, R285, R309) -/

section
open Tests

/-- The ring state of a function that no device has: its QE_ADMIN_STATUS would stand where TM_PORT_STATUS of port 1 stands. -/
def strangeFn : Nat := (Reg.TM_PORT_STATUS 1 - Reg.QE_ADMIN_STATUS 0) / 0x20

/-- A CQ of that function whose hold takes one more completion, and an SQ, idle, that is bound to it. -/
def fullCq : CqRec := ⟨0, 0, 6, 0, 1, 1, 0, false, 0, 0, List.replicate 63 ⟨0, 0, 0, 0, 0, 0, 0, 0, none, false, none⟩, [], false, 0, none, false, false, false⟩
def boundSq : SqRec := ⟨0, 0, 6, 0, 2, 0, true, true, false, false, false, false, none, false, none, []⟩

/-- Port 1 is ENABLED in device role; the host is away, and the pair's events go to that CQ. -/
def strangeRings : State :=
  let s := with_ [(Reg.TM_PORT_STATUS_STATE 1, 4), (Reg.TM_PORT_CTRL_ROLE 1, 1), (Reg.TM_PORT_CTRL_CONNECT 1, 1), (Reg.PU_EVENT_CTRL_EN, 1)]
  { s with
    fn := { s.fn with lostAt := some 0 }
    qe := { s.qe with cqs := [(strangeFn * 2048 + 2, some fullCq)], sqs := [(strangeFn * 2048, some boundSq)] } }

theorem strangeRings_shape : strangeRings.connected 1 = true ∧ strangeRings.portState 1 = 4 := by decide +kernel

/-- The mark carries another number than the own one; the TIME_CONFLICT event fills the hold, and IDLE of the SQ overwrites the port's state. -/
theorem strangeRings_mark : (strangeRings.cascadeMark 1 ⟨5, false⟩ 0).portState 1 = 5 := by decide +kernel

/-- Refutes O36: with rings of a function beyond the 1,025 that a device has (no run reaches such a state, the statement admits it), the
TIME_CONFLICT event of a mark enters the overflow of its CQ, and IDLE of a bound admin SQ is written over TM_PORT_STATUS of the port. -/
theorem not_pairTimeFollowsItsSource : ¬ Obligations.PairTimeFollowsItsSource := by
  unfold Obligations.PairTimeFollowsItsSource
  intro h
  obtain ⟨connected, enabled⟩ := strangeRings_shape
  obtain ⟨-, marks, -⟩ := h strangeRings
  obtain ⟨t, run, state, -⟩ := marks 1 ⟨5, false⟩ 0 connected (fun off => absurd (enabled.symm.trans off) (by decide))
  have same : strangeRings.cascadeMark 1 ⟨5, false⟩ 0 = t := by injection run
  exact absurd (strangeRings_mark.symm.trans (same ▸ state)) (by decide)

end

end Sys2Proof.Machine

namespace Sys2Proof.Machine

/-! # Registers that completions leave (R355 to R360)

A completion that becomes ready touches the registers of its rings, of the overflow count and of the PME log. What the pair unit and the
blocks above it hold in their registers stays. -/

theorem Moves.reg_eq {l : List Part} {s t : State} (m : Moves l s t) (h : l.contains .regs = false) (a : Nat) : t.reg a = s.reg a := by
  rw [State.reg, m.regs_eq h, State.reg]

section
variable {a : Nat}

/-- The register at `a` lies above those of QE and HIF, and is no admin ring's status or position whatever the function. -/
@[reducible] def cqeApart (a : Nat) : Prop := 0x410000 ≤ a ∧ a % 0x20 ≠ 0x14 ∧ a % 0x20 ≠ 0x18

theorem State.reg_putRsb (s : State) (f i : Nat) (w : Word) : (s.putRsb f i w).reg a = s.reg a :=
  Moves.reg_eq (l := [.qe, .fn, .out]) (State.putRsb_moves (.refl _ s) (by decide)) (by decide) a

theorem State.reg_signalCq (s : State) (f i : Nat) : (s.signalCq f i).reg a = s.reg a :=
  Moves.reg_eq (l := [.qe, .fn, .out]) (State.signalCq_moves (.refl _ s) (by decide)) (by decide) a

theorem State.reg_nextWindow (s : State) (f i : Nat) (q : Cqe) : (s.nextWindow f i q).reg a = s.reg a :=
  Moves.reg_eq (l := [.qe, .fn, .out]) (State.nextWindow_moves (.refl _ s) (by decide)) (by decide) a

variable (h : cqeApart a)
include h

theorem cqeApart.low {b : Nat} (small : b < 0x410000) : a ≠ b := fun e => absurd (e ▸ h.1) (Nat.not_le.mpr small)

theorem cqeApart.status (f : Nat) : a ≠ Reg.QE_ADMIN_STATUS f := by
  intro e
  have := h.2.1
  simp only [e, Reg.QE_ADMIN_STATUS, Reg.pageBase] at this
  omega

theorem cqeApart.pos (f : Nat) : a ≠ Reg.QE_ADMIN_POS f := by
  intro e
  have := h.2.2
  simp only [e, Reg.QE_ADMIN_POS, Reg.pageBase] at this
  omega

theorem State.reg_showPos (s : State) (f i : Nat) : (s.showPos f i).reg a = s.reg a := by
  unfold State.showPos
  split
  · split
    · exact State.reg_setF_other _ _ (h.pos f)
    · rfl
  · split
    · split
      · exact State.reg_setF_other _ _ (h.pos f)
      · rfl
    · rfl

theorem State.reg_writeRsbSq (s : State) (f i : Nat) : (s.writeRsbSq f i).reg a = s.reg a := by
  unfold State.writeRsbSq
  split
  · split
    · exact State.reg_setF_other _ _ (h.status f)
    · exact s.reg_putRsb f i _
  · rfl

theorem State.reg_writeRsbCq (s : State) (f i : Nat) : (s.writeRsbCq f i).reg a = s.reg a := by
  unfold State.writeRsbCq
  split
  · split
    · exact State.reg_setF_other _ _ (h.status f)
    · exact s.reg_putRsb f i _
  · rfl

theorem State.reg_updSqRsb (s : State) (f i : Nat) (g : SqRec → SqRec) : ((s.updSq f i g).writeRsbSq f i).reg a = s.reg a := by
  rw [State.reg_writeRsbSq h]
  exact Moves.reg_eq (l := [.qe]) (State.updSq_moves (.refl _ s) (by decide)) (by decide) a

theorem State.reg_writeCqe (s : State) (f i : Nat) (q : Cqe) : (s.writeCqe f i q).reg a = s.reg a := by
  unfold State.writeCqe
  extract_lets t
  have before : t.reg a = s.reg a := s.reg_nextWindow f i q
  split
  · exact before
  · extract_lets u c' v w
    have shown : v.reg a = s.reg a := (State.reg_showPos h _ f i).trans before
    have written : w.reg a = s.reg a := by
      simp only [w]
      split <;> exact shown
    split
    · exact (State.reg_signalCq _ f i).trans written
    · exact written

theorem State.reg_enterOverflow (s : State) (f i : Nat) : (s.enterOverflow f i).reg a = s.reg a := by
  unfold State.enterOverflow
  split
  · rfl
  · split
    · rfl
    · extract_lets t u v
      have written : t.reg a = s.reg a := State.reg_writeRsbCq h _ f i
      have counted : u.reg a = s.reg a := (State.reg_setF_other _ _ (h.low (by decide))).trans written
      have signalled : v.reg a = s.reg a := by
        simp only [v]
        split
        · exact (State.reg_signalCq _ f i).trans counted
        · exact counted
      exact (State.foldl_eq (p := fun s => s.reg a) (fun t j => State.reg_updSqRsb h t f j _) _).trans signalled

theorem State.reg_holdCqe (s : State) (f i : Nat) (q : Cqe) : (s.holdCqe f i q).reg a = s.reg a := by
  unfold State.holdCqe
  split
  · rfl
  · extract_lets t
    have held : t.reg a = s.reg a := by
      simp only [t]
      split <;> rfl
    split
    · exact (State.reg_enterOverflow h t f i).trans held
    · exact held

theorem State.reg_logPme (s : State) (f reason : Nat) (b : Bool) : (s.logPme f reason b).reg a = s.reg a := by
  unfold State.logPme
  rw [State.reg_setReg_other _ _ (h.low (by decide)), State.reg_setReg_other _ _ (h.low (by decide)), State.setB_eq,
    State.reg_setF_other _ _ (h.low (by decide)), State.reg_setF_other _ _ (h.low (by decide)), State.reg_setF_other _ _ (h.low (by decide))]

theorem State.reg_sendPme (s : State) (f reason : Nat) : (s.sendPme f reason).reg a = s.reg a := by
  unfold State.sendPme
  split
  · unfold State.when
    split
    · exact State.reg_logPme h _ f reason false
    · exact State.reg_logPme h _ f reason false
  · rfl

/-- A completion that becomes ready leaves the registers that lie apart. -/
theorem State.reg_postCqe (s : State) (f i : Nat) (q : Cqe) (reason : Nat) : (s.postCqe f i q reason).reg a = s.reg a := by
  have suppressed : (s.suppressPme f reason).reg a = s.reg a := by
    unfold State.suppressPme
    split
    · exact State.reg_logPme h s f reason true
    · rfl
  unfold State.postCqe
  split
  · rfl
  split
  · rfl
  split
  · exact State.reg_setF_other _ _ (h.low (by decide))
  split
  · rfl
  split
  · extract_lets first t
    have held : t.reg a = s.reg a := State.reg_holdCqe h s f i q
    split
    · exact (State.reg_sendPme h t f reason).trans held
    · exact held
  split
  · exact State.reg_holdCqe h s f i q
  · extract_lets t
    split
    · exact (State.reg_writeCqe h t f i q).trans suppressed
    · exact (State.reg_holdCqe h t f i q).trans suppressed

theorem State.reg_postEvent {s t : State} {glob : Nat} {dws : List Word} {reason : Nat} (e : s.postEvent glob dws reason = some t) :
    t.reg a = s.reg a := by
  rw [State.postEvent] at e
  split at e
  · cases e
  · split at e
    · cases e
      exact State.reg_postCqe h _ _ _ _ _
    · cases e

end

/-- What a pair event does: it is posted, or held, or there is none (R314, R358). -/
theorem State.puEvent_cases (s : State) (code cause d6 d7 : Nat) : s.puEvent code cause d6 d7 = s ∨
    s.postEvent (s.f Reg.PU_EVENT_CTRL_CQ) (s.puDws code cause d6 d7) 4 = some (s.puEvent code cause d6 d7) ∨
    ∃ held latest, s.puEvent code cause d6 d7 = s.updPu (fun p => { p with held := held, latest := latest }) := by
  unfold State.puEvent
  split
  · extract_lets dws now event
    have posted (t : State) (e : now = some t) : s.postEvent (s.f Reg.PU_EVENT_CTRL_CQ) dws 4 = some t := by
      simp only [now] at e
      split at e
      · exact e
      · cases e
    clear_value now
    cases now with
    | some t => exact .inr (.inl (posted t rfl))
    | none =>
      refine .inr (.inr ?_)
      dsimp only
      split
      · exact ⟨_, _, rfl⟩
      · split <;> exact ⟨_, _, rfl⟩
  · exact .inl rfl

/-- A pair event leaves the registers that lie apart, PU's own among them. -/
theorem State.reg_puEvent (s : State) (code cause d6 d7 : Nat) {a : Nat} (h : cqeApart a) : (s.puEvent code cause d6 d7).reg a = s.reg a := by
  rcases s.puEvent_cases code cause d6 d7 with same | posted | ⟨held, latest, e⟩
  · rw [same]
  · exact State.reg_postEvent h posted
  · rw [e]
    rfl

theorem State.f_puEvent (s : State) (code cause d6 d7 : Nat) {y : Fld} (h : cqeApart y.addr) : (s.puEvent code cause d6 d7).f y = s.f y := by
  rw [State.f, State.reg_puEvent _ _ _ _ _ h, State.f]

theorem State.flag_puEvent (s : State) (code cause d6 d7 : Nat) {y : Fld} (h : cqeApart y.addr) :
    (s.puEvent code cause d6 d7).flag y = s.flag y := by
  rw [State.flag, State.f_puEvent s code cause d6 d7 h, State.flag]

/-- What a pair event leaves in the pair's record: everything but the events that it holds. -/
theorem State.puEvent_pu (s : State) (code cause d6 d7 : Nat) :
    ∃ held latest, (s.puEvent code cause d6 d7).pu = { s.pu with held := held, latest := latest } := by
  rcases s.puEvent_cases code cause d6 d7 with same | posted | ⟨held, latest, e⟩
  · rw [same]
    exact ⟨_, _, rfl⟩
  · exact ⟨_, _, (State.postEvent_moves (l_ := [.regs, .qe, .fn, .out]) (.refl _ s) (by decide) posted).pu_eq (by decide)⟩
  · rw [e]
    exact ⟨_, _, rfl⟩

/-! # Two devices in lockstep (R279, R281, R296 to R298, R300, R304)

## Presence and blocks (R281) -/

section
variable {s : State}

/-- The blocks of microframe `n` that this device holds and the peer lacks, in ascending trunk and tag order. -/
def State.blocksFor (s : State) (n : Nat) (recs : List PresenceRec) : List BlockRec :=
  (List.range 192).flatMap (fun t => (recs.filter (fun r => r.trunk.val == t)).flatMap (fun r =>
    (List.range 4096).filterMap (fun tag =>
      if r.lacks.contains (BitVec.ofNat 12 tag) then
        (s.heldFor t n tag).map (fun b => (⟨Fin.ofNat 192 t, BitVec.ofNat 12 tag, b⟩ : BlockRec))
      else none)))

theorem State.mem_blocksFor {n : Nat} {recs : List PresenceRec} {r : PresenceRec} (mem : r ∈ recs) {tag : BitVec 12} (lacks : tag ∈ r.lacks)
    {b : List Byte} (held : s.heldFor r.trunk.val n tag.toNat = some b) : BlockRec.mk r.trunk tag b ∈ s.blocksFor n recs := by
  refine List.mem_flatMap.mpr ⟨r.trunk.val, List.mem_range.mpr r.trunk.isLt, List.mem_flatMap.mpr ⟨r, List.mem_filter.mpr ⟨mem, by simp⟩, ?_⟩⟩
  refine List.mem_filterMap.mpr ⟨tag.toNat, List.mem_range.mpr tag.isLt, ?_⟩
  rw [BitVec.ofNat_toNat, BitVec.setWidth_eq, if_pos (List.contains_iff_mem.mpr lacks), held, Option.map_some]
  simp

/-- What a PRESENCE frame leaves in the pair's record. -/
def State.presenceSeen (s : State) (recs : List PresenceRec) : State :=
  s.frameSeen.updPu (fun u => if u.presPass = s.mfN then { u with peerLacks := recs }
    else { u with presPass := s.mfN, lacks := [], peerLacks := recs })

theorem State.presenceSeen_pu (s : State) (recs : List PresenceRec) : (s.presenceSeen recs).pu.peerLacks = recs ∧
    (s.presenceSeen recs).pu.presPass = s.mfN ∧ (s.presenceSeen recs).pu.lastFrame = some s.now := by
  rw [State.presenceSeen, State.updPu_pu]
  split
  next same => exact ⟨rfl, same, rfl⟩
  next => exact ⟨rfl, rfl, rfl⟩

theorem State.gotPresence_lockstep (lockstep : s.lockstep = true) (recs : List PresenceRec) : s.gotPresence recs =
    if ((s.presenceSeen recs).blocksFor ((s.mfN + 65535) % 65536) recs).isEmpty then s.presenceSeen recs
    else (s.presenceSeen recs).sendTimed (.blocks ((s.presenceSeen recs).blocksFor ((s.mfN + 65535) % 65536) recs)) := by
  rw [State.gotPresence, show s.frameSeen.lockstep = true from lockstep]
  rfl

/-- A block that the peer lacks and that this device holds goes to it. -/
theorem State.gotPresence_sends (lockstep : s.lockstep = true) (up : s.miodelUp = true) {recs : List PresenceRec} {r : PresenceRec} (mem : r ∈ recs)
    {tag : BitVec 12} (lacks : tag ∈ r.lacks) {b : List Byte} (held : s.heldFor r.trunk.val ((s.mfN + 65535) % 65536) tag.toNat = some b) :
    ∃ l, BlockRec.mk r.trunk tag b ∈ l ∧ (s.gotPresence recs).out = .mio (.blocks l) :: s.out := by
  have found : BlockRec.mk r.trunk tag b ∈ (s.presenceSeen recs).blocksFor ((s.mfN + 65535) % 65536) recs :=
    State.mem_blocksFor (s := s.presenceSeen recs) mem lacks held
  refine ⟨_, found, ?_⟩
  rw [State.gotPresence_lockstep lockstep, if_neg (by simp [List.ne_nil_of_mem found]),
    State.sendTimed_up (s := s.presenceSeen recs) up, State.emit_out]
  rfl

theorem State.gotPresence_pu (lockstep : s.lockstep = true) (recs : List PresenceRec) : (s.gotPresence recs).pu = (s.presenceSeen recs).pu := by
  rw [State.gotPresence_lockstep lockstep]
  split
  · rfl
  · exact (State.sendTimed_moves (l_ := [.out]) (.refl _ _) (by decide)).pu_eq (by decide)

theorem State.gotBlocks_one (lockstep : s.lockstep = true) (early : s.time.phase < Config.decisionTick) {b : BlockRec} {x : PerTx}
    (at_ : s.per (npKey b.trunk.val ((s.mfN + 65535) % 65536) b.tag.toNat) = some x) (input : perIn x = true) (seq : x.seq = (s.mfN + 65535) % 65536)
    (lacks : s.halfHolds x.handle ((s.mfN + 65535) % 65536) = false) {u : State} {new : Bool}
    (taken : (s.frameSeen.setPer (npKey b.trunk.val ((s.mfN + 65535) % 65536) b.tag.toNat) (some { x with got := true })).acceptIn x.handle
      ((s.mfN + 65535) % 65536) b.payload = (u, new)) :
    s.gotBlocks [b] = if new then (u.bump Reg.PU_RECON_FETCHED_COUNT).blockNotice x.handle else u := by
  have same : s.frameSeen.mfN = s.mfN := rfl
  rw [State.gotBlocks, if_neg]
  · rw [List.foldl_cons, List.foldl_nil]
    change (match s.per (npKey b.trunk.val ((s.mfN + 65535) % 65536) b.tag.toNat) with | some x => _ | none => _) = _
    rw [at_]
    dsimp only
    rw [same, if_pos]
    · rw [taken]
    · rw [input, seq, show s.frameSeen.halfHolds _ _ = false from lacks]
      simp
  · rw [show s.frameSeen.lockstep = true from lockstep]
    exact fun h => h.elim (fun h => absurd h (by decide)) (fun h => absurd h (Nat.not_le.mpr early))

theorem State.gotBlocks_late (late : Config.decisionTick ≤ s.time.phase) (l : List BlockRec) : s.gotBlocks l = s.frameSeen :=
  if_pos (.inr late)

end

/-! ## Digests (R296, R304) -/

section
variable {s : State} {pass p : Nat} {own d : List Word}

theorem digestDiff_head (own d : List Word) : (digestDiff own d).headD 0 < 256 := by
  cases e : digestDiff own d with
  | nil => decide
  | cons i l =>
    have mem : i ∈ digestDiff own d := by rw [e]; exact .head _
    exact List.mem_range.mp (List.mem_of_mem_filter mem)

variable (kept : s.pu.digests.find? (fun x => x.1 % 2 ^ 32 == pass) = some (p, own))
include kept

theorem State.gotDigest_same (lockstep : s.lockstep = true) (same : digestDiff own d = []) :
    s.gotDigest pass d = s.frameSeen.updPu (fun u => { u with diverge := 0 }) := by
  rw [State.gotDigest, show s.frameSeen.pu.digests.find? _ = _ from kept]
  dsimp only
  rw [if_pos (show s.frameSeen.lockstep = true from lockstep), same]
  rfl

theorem State.gotDigest_differs (lockstep : s.lockstep = true) (differ : digestDiff own d ≠ []) :
    s.gotDigest pass d = s.frameSeen.diverged p (digestDiff own d) := by
  rw [State.gotDigest, show s.frameSeen.pu.digests.find? _ = _ from kept]
  dsimp only
  rw [if_pos (show s.frameSeen.lockstep = true from lockstep), if_neg (by rwa [List.isEmpty_iff])]

theorem State.gotDigest_verify (apart : s.lockstep = false) (verify : s.f Reg.PU_JOIN_STATUS_PHASE = 4) : s.gotDigest pass d =
    (s.frameSeen.updPu (fun u => { u with joinPasses := u.joinPasses + 1, matched := if (digestDiff own d).isEmpty then u.matched + 1 else 0 })).setF
      Reg.PU_JOIN_STATUS_PROGRESS (min 100 ((if (digestDiff own d).isEmpty then s.pu.matched + 1 else 0) * 100 / 64)) := by
  rw [State.gotDigest, show s.frameSeen.pu.digests.find? _ = _ from kept]
  dsimp only
  rw [if_neg (by rw [show s.frameSeen.lockstep = false from apart]; decide), if_pos (show s.frameSeen.f _ = 4 from verify)]
  rfl

end

/-- The registers of a divergence, before its event (R296). -/
def State.divergeShown (s : State) (p i : Nat) : State :=
  (((s.bump Reg.PU_DIVERGE_COUNT_COUNT).setF Reg.PU_DIVERGE_MF_LO_MF p).setF Reg.PU_DIVERGE_MF_HI_MF (p / 2 ^ 32)).setF Reg.PU_DIVERGE_MF_HI_DIGEST i

theorem State.divergeShown_spec (s : State) (p : Nat) {i : Nat} (h : i < 256) :
    (s.divergeShown p i).f Reg.PU_DIVERGE_COUNT_COUNT = min (s.f Reg.PU_DIVERGE_COUNT_COUNT + 1) 0xFFFFFFFF ∧
      (s.divergeShown p i).f Reg.PU_DIVERGE_MF_LO_MF = p % 2 ^ 32 ∧ (s.divergeShown p i).f Reg.PU_DIVERGE_MF_HI_DIGEST = i := by
  rw [State.divergeShown]
  simp (disch := decide) only [State.f_setF_apart, State.f_setF_same, State.f_bump_same]
  exact ⟨rfl, rfl, Nat.mod_eq_of_lt h⟩

/-! ## TIME frames (R279, R284, R300) -/

section
variable (s : State) (f : TimeFrame)

/-- What a TIME frame tells is kept. -/
def State.timeHeard : State := f.margins.foldl (fun s x => s.peerChecked x.1 x.2.toNat) (s.frameSeen.updPu (fun u => { u with peerTime := some f }))

/-- The two devices follow each other, and this one has the lower rank. -/
def State.mutual : Prop := s.f Reg.PU_STATUS_TIME_SRC = 1 ∧ f.timeSrc = 1 ∧ s.f Reg.PU_CFG_RANK < f.rank.toNat

/-- Of two devices that follow each other the lower rank free-runs. -/
def State.timeMastered : State :=
  if s.f Reg.PU_STATUS_TIME_SRC = 1 ∧ f.timeSrc = 1 ∧ s.f Reg.PU_CFG_RANK < f.rank.toNat then s.freeRun.puEvent Pe.master (s.f Reg.PU_CFG_RANK) else s

/-- The rank of a frame master that is followed. -/
def State.timeRanked : State :=
  if s.f Reg.PU_STATUS_TIME_SRC = 1 ∧ f.timeSrc = 0 then s.setF Reg.PU_CASCADE_STATUS_MASTER_RANK f.rank.toNat else s

/-- The frame, before what it means for the roles. -/
def State.timeTaken : State := ((s.timeHeard f).timeMastered f).timeRanked f

/-- The HOLDER has left lockstep since its last TIME frame. -/
def State.peerLeft : Bool :=
  match s.pu.peerTime with
  | some g => g.role == 1 && g.pstate == 3 && f.role == 1 && f.pstate == 4
  | none => false

/-- What the frame means for a HOLDER. -/
def State.holderHears (s : State) (f : TimeFrame) : State :=
  if s.pu.abdicate && f.role == 1 && s.pu.leave.isNone then
    (((s.holderEnds.setRole 2).puEvent Pe.role).orderedDown.setPstate 5).updPu (fun u => { u with abdicate := false })
  else if s.pstate = 4 ∧ s.orderedUp ∧ f.pstate = 3 ∧ f.role = 2 then ((s.setPstate 3).joinPhase 5).puEvent Pe.joined
  else if s.lockstep ∧ f.pstate = 5 ∧ f.role = 2 then (s.setPstate 4).orderedDown
  else s

theorem State.gotTime_eq (on : s.flag Reg.PU_CTRL_EN = true) : s.gotTime f =
    if !(s.timeTaken f).isHolder then
      (if (s.timeTaken f).isPartner && (s.timeTaken f).lockstep && s.peerLeft f then (s.timeTaken f).orderedDown.enterResync 2 else s.timeTaken f)
    else ((s.timeTaken f).setB Reg.PU_STATUS_PEER_RSQ_FAILED (f.rsqFailed && f.role == 2)).holderHears f := by
  rw [State.gotTime, if_neg (by rw [on]; decide)]
  rfl

theorem State.timeHeard_regs : (s.timeHeard f).regs = s.regs := by
  rw [State.timeHeard, State.foldl_eq (p := State.regs) (fun t x => (State.peerChecked_moves (l_ := [.lx]) (.refl _ t) (by decide)).regs_eq (by decide))]
  rfl

theorem State.timeHeard_pu : (s.timeHeard f).pu = { s.pu with lastFrame := some s.now, peerTime := some f } := by
  rw [State.timeHeard, State.foldl_eq (p := State.pu) (fun t x => (State.peerChecked_moves (l_ := [.lx]) (.refl _ t) (by decide)).pu_eq (by decide))]
  rfl

/-- What free-running leaves of PU_STATUS: role, pair state and the ordered channel. -/
theorem State.freeRun_f {y : Fld} (h : Reg.PU_STATUS_TIME_SRC.apart y = true) (h' : Reg.PU_STATUS_MASTER.apart y = true)
    (other : (y.addr != Reg.PU_CASCADE_STATUS) = true) : s.freeRun.f y = s.f y := by
  have apart (x : Fld) (e : x.addr = Reg.PU_CASCADE_STATUS) : x.apart y = true := by rw [Fld.apart, e, bne_comm, other, Bool.true_or]
  rw [State.freeRun, State.setB_eq, State.setB_eq, State.f_setF_apart _ _ (apart _ rfl), State.f_setF_apart _ _ (apart _ rfl), State.f_setF_apart _ _ h',
    State.f_setF_apart _ _ h]

theorem State.timeTaken_f {y : Fld} (h : Reg.PU_STATUS_TIME_SRC.apart y = true) (h' : Reg.PU_STATUS_MASTER.apart y = true)
    (other : (y.addr != Reg.PU_CASCADE_STATUS) = true) (away : cqeApart y.addr) : (s.timeTaken f).f y = s.f y := by
  have heard : (s.timeHeard f).f y = s.f y := State.f_of_regs (s.timeHeard_regs f) y
  have mastered : ((s.timeHeard f).timeMastered f).f y = s.f y := by
    rw [State.timeMastered]
    split
    · rw [State.f_puEvent _ _ _ _ _ away, State.freeRun_f _ h h' other, heard]
    · exact heard
  rw [State.timeTaken, State.timeRanked]
  split
  · exact (State.f_setF_other _ _ (bne_iff_ne.mp other)).trans mastered
  · exact mastered

theorem State.timeTaken_status : (s.timeTaken f).role = s.role ∧ (s.timeTaken f).pstate = s.pstate ∧ (s.timeTaken f).orderedUp = s.orderedUp :=
  ⟨s.timeTaken_f f (by decide) (by decide) (by decide) (by decide), s.timeTaken_f f (by decide) (by decide) (by decide) (by decide),
    congrArg (· == 1) (s.timeTaken_f f (y := Reg.PU_STATUS_ORDERED_UP) (by decide) (by decide) (by decide) (by decide))⟩

theorem State.timeTaken_pu : ∃ held latest,
    (s.timeTaken f).pu = { s.pu with lastFrame := some s.now, peerTime := some f, held := held, latest := latest } := by
  have mastered : ∃ held latest, ((s.timeHeard f).timeMastered f).pu =
      { s.pu with lastFrame := some s.now, peerTime := some f, held := held, latest := latest } := by
    rw [State.timeMastered]
    split
    · obtain ⟨held, latest, e⟩ := (s.timeHeard f).freeRun.puEvent_pu Pe.master ((s.timeHeard f).f Reg.PU_CFG_RANK) 0 0
      refine ⟨held, latest, e.trans ?_⟩
      rw [(s.timeHeard f).moves_freeRun.pu_eq (by decide), s.timeHeard_pu f]
    · exact ⟨_, _, s.timeHeard_pu f⟩
  rw [State.timeTaken, State.timeRanked]
  split
  · rwa [State.setF_pu]
  · exact mastered

end

end Sys2Proof.Machine

namespace Sys2Proof.Machine

/-! ## What TIME frames mean for the roles (R284, R289, R300) -/

section
variable {s : State}

/-- The end of the ordered channel, and RESYNC behind it, leave what the peer has told. -/
theorem State.orderedDown_told (s : State) : s.orderedDown.pu.peerTime = s.pu.peerTime ∧ s.orderedDown.pu.lastFrame = s.pu.lastFrame := by
  rw [State.orderedDown]
  split
  · extract_lets a wait lost b dead c d out e
    have finished : d.pu = c.pu :=
      State.foldl_eq (p := State.pu) (fun t x =>
        (State.finishEntry_moves (l_ := [.regs, .qe, .bm, .xb, .fn, .out]) (.refl _ t) (by decide)).pu_eq (by decide)) _
    have ended : (List.foldl (fun (s : State) (x : EntryRef × Sqe) => s.complete x.1 x.2 St.aborted) e (e.inCqeOrder (·.1) out)).pu = e.pu :=
      State.foldl_eq (p := State.pu) (fun t x =>
        (State.complete_moves (l_ := [.regs, .qe, .bm, .xb, .fn, .out]) (.refl _ t) (by decide)).pu_eq (by decide)) _
    obtain ⟨held, latest, event⟩ := State.puEvent_pu (List.foldl (fun (s : State) (x : EntryRef × Sqe) => s.complete x.1 x.2 St.aborted) e
      (e.inCqeOrder (·.1) out)) Pe.down 0 0 0
    have left : e.pu = { d.pu with sent := [] } := rfl
    rw [event, ended, left, finished]
    exact ⟨rfl, rfl⟩
  · exact ⟨rfl, rfl⟩

theorem State.enterResync_told (s : State) (cause : Nat) : (s.enterResync cause).pu.peerTime = s.pu.peerTime ∧
    (s.enterResync cause).pu.lastFrame = s.pu.lastFrame := by
  rw [State.enterResync]
  split
  · exact ⟨rfl, rfl⟩
  · obtain ⟨held, latest, event⟩ := State.puEvent_pu ((s.setPstate 5).updPu (fun p => { p with diverge := 0, resyncMf := some s.mfN })) Pe.resync cause 0 0
    rw [event]
    exact ⟨rfl, rfl⟩

variable {f : TimeFrame} (on : s.flag Reg.PU_CTRL_EN = true)
include on

theorem State.gotTime_told (other : s.isHolder = false) : (s.gotTime f).pu.peerTime = some f ∧ (s.gotTime f).pu.lastFrame = some s.now := by
  obtain ⟨role, -, -⟩ := s.timeTaken_status f
  obtain ⟨held, latest, pu⟩ := s.timeTaken_pu f
  have other' : (s.timeTaken f).isHolder = false := by rw [State.isHolder, role]; exact other
  rw [State.gotTime_eq s f on, other']
  have told : (s.timeTaken f).pu.peerTime = some f ∧ (s.timeTaken f).pu.lastFrame = some s.now := by
    rw [pu]
    exact ⟨rfl, rfl⟩
  rw [if_pos (by decide)]
  split
  · obtain ⟨peer, last⟩ := (s.timeTaken f).orderedDown.enterResync_told 2
    obtain ⟨peer', last'⟩ := (s.timeTaken f).orderedDown_told
    exact ⟨peer.trans (peer'.trans told.1), last.trans (last'.trans told.2)⟩
  · exact told

/-- Of two devices that follow each other the lower rank free-runs (R284). -/
theorem State.gotTime_mutual (solo : s.role = 0) (src : s.f Reg.PU_STATUS_TIME_SRC = 1) (theirs : f.timeSrc = 1)
    (lower : s.f Reg.PU_CFG_RANK < f.rank.toNat) : s.gotTime f = (s.timeHeard f).freeRun.puEvent Pe.master (s.f Reg.PU_CFG_RANK) := by
  obtain ⟨role, -, -⟩ := s.timeTaken_status f
  have heard (y : Fld) : (s.timeHeard f).f y = s.f y := State.f_of_regs (s.timeHeard_regs f) y
  have mastered : (s.timeHeard f).timeMastered f = (s.timeHeard f).freeRun.puEvent Pe.master (s.f Reg.PU_CFG_RANK) := by
    rw [State.timeMastered, heard, heard, if_pos ⟨src, theirs, lower⟩]
  have taken : s.timeTaken f = (s.timeHeard f).freeRun.puEvent Pe.master (s.f Reg.PU_CFG_RANK) := by
    rw [State.timeTaken, State.timeRanked, mastered, if_neg (fun h => absurd (theirs.symm.trans h.2) (by decide))]
  rw [State.gotTime_eq s f on, State.isHolder, State.isPartner, role, solo, taken]
  rfl

theorem State.gotTime_left {g : TimeFrame} (partner : s.isPartner = true) (lockstep : s.lockstep = true) (told : s.pu.peerTime = some g)
    (was : g.role = 1 ∧ g.pstate = 3) (now : f.role = 1 ∧ f.pstate = 4) : s.gotTime f = (s.timeTaken f).orderedDown.enterResync 2 := by
  obtain ⟨role, pstate, -⟩ := s.timeTaken_status f
  have partner' : (s.timeTaken f).isPartner = true := by rw [State.isPartner, role]; exact partner
  have lockstep' : (s.timeTaken f).lockstep = true := by rw [State.lockstep, pstate]; exact lockstep
  have left : s.peerLeft f = true := by
    rw [State.peerLeft, told]
    simp [was, now]
  rw [State.gotTime_eq s f on, State.isHolder_of_partner partner', partner', lockstep', left]
  rfl

/-- A HOLDER hears its peer. -/
def State.peerHeard (s : State) (f : TimeFrame) : State := (s.timeTaken f).setB Reg.PU_STATUS_PEER_RSQ_FAILED (f.rsqFailed && f.role == 2)

omit on in
theorem State.peerHeard_kept (s : State) (f : TimeFrame) : (s.peerHeard f).pstate = s.pstate ∧ (s.peerHeard f).orderedUp = s.orderedUp ∧
    (s.peerHeard f).pu.peerTime = some f ∧ (s.peerHeard f).pu.abdicate = s.pu.abdicate ∧ (s.peerHeard f).pu.leave = s.pu.leave ∧
    (s.peerHeard f).flag Reg.PU_STATUS_PEER_RSQ_FAILED = (f.rsqFailed && f.role == 2) := by
  obtain ⟨-, pstate, up⟩ := s.timeTaken_status f
  obtain ⟨held, latest, pu⟩ := s.timeTaken_pu f
  have pu' : (s.peerHeard f).pu = (s.timeTaken f).pu := by rw [State.peerHeard, State.setB_eq, State.setF_pu]
  refine ⟨(State.f_setB_apart _ _ (by decide)).trans pstate, (State.flag_setB_apart _ _ (by decide)).trans up, ?_, ?_, ?_, State.flag_setB_same _ _ rfl rfl⟩ <;>
    rw [pu', pu]

theorem State.gotTime_holder (holder : s.isHolder = true) : s.gotTime f = (s.peerHeard f).holderHears f := by
  obtain ⟨role, -, -⟩ := s.timeTaken_status f
  have holder' : (s.timeTaken f).isHolder = true := by rw [State.isHolder, role]; exact holder
  rw [State.gotTime_eq s f on, holder']
  rfl

theorem State.gotTime_joined (holder : s.isHolder = true) (stays : s.pu.abdicate = false) (lost : s.pstate = 4) (up : s.orderedUp = true)
    (theirs : f.pstate = 3 ∧ f.role = 2) : s.gotTime f = (((s.peerHeard f).setPstate 3).joinPhase 5).puEvent Pe.joined := by
  obtain ⟨pstate, up', -, abdicate, -, -⟩ := s.peerHeard_kept f
  rw [State.gotTime_holder on holder, State.holderHears, abdicate, stays, if_neg (by simp), if_pos ⟨pstate.trans lost, up'.trans up, theirs⟩]

theorem State.gotTime_resync (holder : s.isHolder = true) (stays : s.pu.abdicate = false) (lockstep : s.lockstep = true)
    (theirs : f.pstate = 5 ∧ f.role = 2) : s.gotTime f = ((s.peerHeard f).setPstate 4).orderedDown := by
  obtain ⟨pstate, up', -, abdicate, -, -⟩ := s.peerHeard_kept f
  have lockstep' : (s.peerHeard f).lockstep = true := by rw [State.lockstep, pstate]; exact lockstep
  rw [State.gotTime_holder on holder, State.holderHears, abdicate, stays, if_neg (by simp),
    if_neg (fun h => absurd (theirs.1.symm.trans h.2.2.1) (by decide)), if_pos ⟨lockstep', theirs⟩]

theorem State.gotTime_gives (holder : s.isHolder = true) (abdicates : s.pu.abdicate = true) (stays : s.pu.leave = none) (theirs : f.role = 1) :
    s.gotTime f = (((((s.peerHeard f).holderEnds.setRole 2).puEvent Pe.role).orderedDown).setPstate 5).updPu (fun u => { u with abdicate := false }) := by
  obtain ⟨-, -, -, abdicate, leave, -⟩ := s.peerHeard_kept f
  rw [State.gotTime_holder on holder, State.holderHears, abdicate, leave, abdicates, stays, theirs]
  rfl

end

/-- Settles O38: each timed frame by the pair state in which it arrives. -/
theorem lockstepDevicesCompare : Obligations.LockstepDevicesCompare := by
  unfold Obligations.LockstepDevicesCompare
  intro s
  refine ⟨fun recs lockstep => ?_, fun b x u new lockstep early at_ input seq lacks taken => ?_, fun l late => ?_,
    fun pass d p own kept => ⟨fun lockstep same => ?_, fun lockstep differ => ?_, fun apart verify => ?_⟩, fun pass c partner ahead => ?_,
    fun k b partner => ?_, fun k d holder => ?_, fun k kind h holder => ?_, fun f on => ⟨fun other => ?_, fun solo src theirs lower => ?_,
      fun g partner lockstep told role pstate role' pstate' => ?_, fun holder stays lost up theirs role => ?_,
      fun holder stays lockstep theirs role => ?_, fun holder abdicates stays theirs => ?_⟩⟩
  · obtain ⟨lacks, pass, last⟩ := s.presenceSeen_pu recs
    have pu := State.gotPresence_pu lockstep recs
    exact answers_eq rfl rfl ⟨(congrArg _ pu).trans lacks, (congrArg _ pu).trans pass, (congrArg _ pu).trans last,
      fun r mem tag lacks b up held => State.gotPresence_sends lockstep up mem lacks held⟩
  · exact answers_eq rfl (State.gotBlocks_one lockstep early at_ input seq lacks taken) rfl
  · exact answers_eq rfl (State.gotBlocks_late late l) ⟨rfl, rfl, rfl, rfl⟩
  · exact answers_eq rfl (State.gotDigest_same kept lockstep same) ⟨rfl, rfl⟩
  · obtain ⟨count, low, digest⟩ := s.frameSeen.divergeShown_spec p (digestDiff_head own d)
    exact answers_eq rfl (State.gotDigest_differs kept lockstep differ) ⟨_, _, count, low, digest, rfl, rfl⟩
  · refine answers_eq rfl (State.gotDigest_verify kept apart verify) ⟨?_, ?_, ?_⟩
    · rw [State.setF_pu]
      rfl
    · rw [State.setF_pu]
      simp only [State.updPu_pu, List.isEmpty_iff]
      rfl
    · rw [State.setF_pu, State.f_setF_same _ _ rfl]
      exact Nat.mod_eq_of_lt (lt_of_le_of_lt (Nat.min_le_left _ _) (by decide))
  · refine answers_eq (t := { s.frameSeen with mre := { s.mre with
      feeds := Tbl.upd (fun _ => []) s.mre.feeds c.gen.val (fun q => ⟨pass.toNat, c.present, c.samples⟩ :: q) } }) rfl ?_
      ⟨Tbl.get_set_same (d := fun _ => []) s.mre.feeds c.gen.val (_ :: Tbl.get (fun _ => []) s.mre.feeds c.gen.val), rfl⟩
    exact if_neg (fun h => h.elim (fun h => by rw [show s.frameSeen.isPartner = true from partner] at h; exact absurd h (by decide))
      (fun h => absurd h (Nat.not_le.mpr ahead)))
  · exact answers_eq rfl (if_pos partner) ⟨rfl, rfl⟩
  · exact answers_eq rfl (if_pos holder) ⟨s.frameSeen, rfl, rfl, rfl, rfl⟩
  · exact answers_eq rfl (if_pos holder) ⟨s.frameSeen, rfl, rfl, rfl, rfl⟩
  · exact answers_eq rfl rfl (State.gotTime_told on other)
  · obtain ⟨master, src'⟩ := (s.timeHeard f).freeRun_status
    refine answers_eq rfl (State.gotTime_mutual on solo src theirs lower) ⟨_, src', master, ?_, rfl⟩
    rw [(s.timeHeard f).moves_freeRun.pu_eq (by decide), s.timeHeard_pu f]
  · obtain ⟨held, latest, pu⟩ := s.timeTaken_pu f
    exact answers_eq rfl (State.gotTime_left on partner lockstep told ⟨role, pstate⟩ ⟨role', pstate'⟩) ⟨_, by rw [pu], rfl⟩
  · obtain ⟨-, -, peer, -, -, failed⟩ := s.peerHeard_kept f
    refine answers_eq rfl (State.gotTime_joined on holder stays lost up ⟨theirs, role⟩) ⟨_, ?_, (State.joinPhase_phase _ (by decide)).1, ?_, ?_, rfl⟩
    · exact (State.joinPhase_f _ 5 (y := Reg.PU_STATUS_PSTATE) (by decide)).trans (State.pstate_setPstate _ (by decide))
    · rw [State.joinPhase, State.setF_pu, State.setF_pu, State.setPstate, State.setF_pu, peer]
    · rw [State.flag, State.joinPhase_f _ 5 (by decide), State.setPstate, State.f_setF_apart _ _ (by decide)]
      exact failed.trans (by rw [role]; exact Bool.and_true _)
  · obtain ⟨-, -, peer, -, -, -⟩ := s.peerHeard_kept f
    refine answers_eq rfl (State.gotTime_resync on holder stays lockstep ⟨theirs, role⟩) ⟨_, State.pstate_setPstate _ (by decide), ?_, rfl⟩
    rw [State.setPstate, State.setF_pu, peer]
  · refine answers_eq rfl (State.gotTime_gives on holder abdicates stays theirs) ⟨rfl, ?_⟩
    exact (State.f_updPu _ _ _).trans (State.pstate_setPstate _ (by decide))

end Sys2Proof.Machine

namespace Sys2Proof.Machine

/-! # Root ports (R98 to R109, R112, R124)

## Entering a state (R104) -/

section
variable (s : State) {p : Nat} (hp : p < 192)

/-- What a transition leaves in the record of its port: all but the node, the time of the last exit and the change bits. -/
theorem State.port_toState (st : Nat) : ∃ node freed, (s.toState p st).port p = { s.port p with
    dev := node, freeAt := freed, change := if (s.portState p = 4) ≠ (st = 4) then setBit (s.port p).change 3 true else (s.port p).change } := by
  unfold State.toState
  extract_lets old a b c d e
  have pa : ∃ node, a.port p = { s.port p with dev := node } := by
    simp only [a]
    split
    · exact ⟨_, State.port_updPort _ _ _⟩
    · exact ⟨_, rfl⟩
  have pb : ∃ node freed, b.port p = { s.port p with dev := node, freeAt := freed } := by
    obtain ⟨node, ha⟩ := pa
    simp only [b]
    split
    · exact ⟨node, _, (State.port_updPort _ _ _).trans (by rw [ha])⟩
    · exact ⟨node, _, ha⟩
  have pd : d.port p = b.port p := by
    have sent : d.tree = c.tree := by
      simp only [d]
      split
      · rfl
      · exact (State.sendOrdered_moves (l_ := [.pu, .out]) (.refl _ c) (by decide)).tree_eq (by decide)
    have tree : d.tree = b.tree := sent.trans (by simp only [c]; rw [State.setF_tree])
    rw [State.port, tree, State.port]
  obtain ⟨node, freed, hb⟩ := pb
  have pe : e.port p = { s.port p with
      dev := node, freeAt := freed, change := if (old = 4) ≠ (st = 4) then setBit (s.port p).change 3 true else (s.port p).change } := by
    simp only [e]
    split
    · rw [State.portChange, State.port_updPort, pd, hb]
    · rw [pd, hb]
  refine ⟨node, freed, Eq.trans ?_ pe⟩
  rw [State.port, (State.pathMoves_moves (l_ := [.lx]) (.refl _ e) (by decide)).tree_eq (by decide), State.port]

theorem State.toState_parts (st : Nat) : Moves [.regs, .lx, .tree, .pu, .out] s (s.toState p st) := State.toState_moves (.refl _ s) (by decide)

/-- A transition writes STATE and no other register. -/
theorem State.toState_regs (st : Nat) : (s.toState p st).regs = (s.setF (Reg.TM_PORT_STATUS_STATE p) st).regs := by
  unfold State.toState
  extract_lets old a b c d e
  have ra : a.regs = s.regs := by
    simp only [a]
    split <;> rfl
  have rb : b.regs = s.regs := by
    simp only [b]
    split
    · exact ra
    · exact ra
  have rc : c.regs = (s.setF (Reg.TM_PORT_STATUS_STATE p) st).regs := by
    simp only [c, State.setF, State.setReg, State.reg, rb]
  have rd : d.regs = c.regs := by
    simp only [d]
    split
    · rfl
    · exact (State.sendOrdered_moves (l_ := [.pu, .out]) (.refl _ c) (by decide)).regs_eq (by decide)
  have re : e.regs = d.regs := by
    simp only [e]
    split <;> rfl
  rw [(State.pathMoves_moves (l_ := [.lx]) (.refl _ e) (by decide)).regs_eq (by decide), re, rd, rc]

theorem State.f_toState (st : Nat) {y : Fld} (h : (Reg.TM_PORT_STATUS_STATE p).apart y = true) : (s.toState p st).f y = s.f y :=
  (State.f_of_regs (s.toState_regs st) y).trans (State.f_setF_apart _ _ h)

theorem State.flag_toState (st : Nat) {y : Fld} (h : (Reg.TM_PORT_STATUS_STATE p).apart y = true) : (s.toState p st).flag y = s.flag y := by
  rw [State.flag, s.f_toState st h, State.flag]

/-- No register of a lane, a quad or the pair is that of a port. -/
theorem portBase_ne {o a : Nat} (ho : o < 0x10) (ha : a < 0x801000 ∨ 0x802000 ≤ a) (hp : p < 192) : Reg.portBase p + o ≠ a := by
  unfold Reg.portBase
  omega

theorem State.regsBut_toState (st : Nat) : s.regsBut [Reg.TM_PORT_STATUS p] (s.toState p st) :=
  ((State.regsBut.refl _ s).setF (x := Reg.TM_PORT_STATUS_STATE p) st (.head _)).keep (s.toState_regs st)

include hp

theorem State.portState_eq : s.portState p = s.f (Reg.TM_PORT_STATUS_STATE p) := if_pos hp

theorem State.portState_toState {st : Nat} (h : st < 8) : (s.toState p st).portState p = st := by
  rw [State.portState_eq _ hp, State.f_of_regs (s.toState_regs st), State.f_setF_same _ _ rfl]
  exact Nat.mod_eq_of_lt h

end

section
variable {s : State} {p : Nat}

/-- A part of the state that only the port record changes. -/
theorem State.f_updPort (g : PortRec → PortRec) (y : Fld) : (s.updPort p g).f y = s.f y := (rfl)
theorem State.flag_updPort (g : PortRec → PortRec) (y : Fld) : (s.updPort p g).flag y = s.flag y := (rfl)
theorem State.f_portChange (b : Nat) (y : Fld) : (s.portChange p b).f y = s.f y := (rfl)
theorem State.flag_portChange (b : Nat) (y : Fld) : (s.portChange p b).flag y = s.flag y := (rfl)
theorem State.port_portChange (b : Nat) : (s.portChange p b).port p = { s.port p with change := setBit (s.port p).change b true } :=
  State.port_updPort _ _ _
theorem State.port_setF (x : Fld) (v : Nat) : (s.setF x v).port p = s.port p := (rfl)

theorem nbit_setBit (v i : Nat) : nbit (setBit v i true) i = true := by
  unfold setBit
  split
  next same => exact same
  next clear =>
    simp only [nbit, beq_iff_eq, if_true, Nat.add_div_right v (Nat.two_pow_pos i)] at clear ⊢
    omega

/-- Setting RESET_DONE leaves ENABLE_CHG (R112). -/
theorem nbit_setBit_two {v : Nat} (h : nbit v 3 = true) : nbit (setBit v 2 true) 3 = true := by
  simp only [setBit, nbit, beq_iff_eq] at h ⊢
  split
  · exact h
  · rw [if_pos trivial]
    omega

/-- Setting ENABLE_CHG leaves the bit of a mark from upstream (R112, R124). -/
theorem nbit_setBit_three {v : Nat} (h : nbit v 7 = true) : nbit (setBit v 3 true) 7 = true := by
  simp only [setBit, nbit, beq_iff_eq] at h ⊢
  split
  · exact h
  · rw [if_pos trivial]
    omega

/-- The fields of TM_PORT_STATUS lie side by side. -/
theorem portStatus_apart {lo w lo' w' : Nat} (h : (decide (lo + w ≤ 32) && (decide (lo + w ≤ lo') || decide (lo' + w' ≤ lo))) = true) :
    (Fld.mk (Reg.TM_PORT_STATUS p) lo w).apart ⟨Reg.TM_PORT_STATUS p, lo', w'⟩ = true := by
  rw [Fld.apart, h, Bool.or_true]

theorem speed_apart_state (p : Nat) : (Reg.TM_PORT_STATUS_SPEED p).apart (Reg.TM_PORT_STATUS_STATE p) = true := portStatus_apart (p := p) rfl
theorem reason_apart_state (p : Nat) : (Reg.TM_PORT_STATUS_REASON p).apart (Reg.TM_PORT_STATUS_STATE p) = true := portStatus_apart (p := p) rfl
theorem seen_apart_state (p : Nat) : (Reg.TM_PORT_STATUS_REMOTE_WAKE_SEEN p).apart (Reg.TM_PORT_STATUS_STATE p) = true := portStatus_apart (p := p) rfl
theorem reason_apart_speed (p : Nat) : (Reg.TM_PORT_STATUS_REASON p).apart (Reg.TM_PORT_STATUS_SPEED p) = true := portStatus_apart (p := p) rfl
theorem speed_apart_reason (p : Nat) : (Reg.TM_PORT_STATUS_SPEED p).apart (Reg.TM_PORT_STATUS_REASON p) = true := portStatus_apart (p := p) rfl

end

/-! ## Lanes that fall silent (R98, R105) -/

section
variable {s : State} {p : Nat}

/-- A register of a root port. -/
def portReg (p a : Nat) : Prop := ∃ o < 0x10, a = Reg.portBase p + o

theorem portReg.not_lane {a : Nat} (h : portReg p a) (hp : p < 192) (n : Nat) : a ∉ stateRegs n := by
  obtain ⟨o, ho, rfl⟩ := h
  simp only [stateRegs, Reg.LX_LANE_STATUS, Reg.LX_PRBS_STATUS, Reg.CKG_STATUS, Reg.CKG_REF_EVENTS, Reg.laneBase, Reg.portBase, List.mem_cons,
    List.not_mem_nil, or_false]
  omega

theorem State.quietLane_f (n : Nat) {y : Fld} (h : y.addr ∉ stateRegs n) : (s.quietLane n).f y = s.f y := s.f_setLane n Ls.disabled h

theorem State.laneState_quietLane (n : Nat) : (s.quietLane n).laneState n = Ls.disabled := s.laneState_setLane n (by decide)

theorem State.laneState_quietLane_other {n m : Nat} (h : m ≠ n) : (s.quietLane n).laneState m = s.laneState m := s.laneState_setLane_other h

theorem State.quietLane_tree (n : Nat) : (s.quietLane n).tree = s.tree := s.setLane_tree n Ls.disabled

/-- Lanes that fall silent: each is DISABLED, and the root ports are as before. -/
theorem State.foldl_quietLane (l : List Nat) : (∀ n, n ∈ l ∨ s.laneState n = Ls.disabled → (l.foldl (fun s n => s.quietLane n) s).laneState n = Ls.disabled) ∧
    (l.foldl (fun s n => s.quietLane n) s).tree = s.tree ∧ (l.foldl (fun s n => s.quietLane n) s).now = s.now ∧
    ∀ y : Fld, (∀ n, y.addr ∉ stateRegs n) → (l.foldl (fun s n => s.quietLane n) s).f y = s.f y := by
  induction l generalizing s with
  | nil => exact ⟨fun n h => h.resolve_left (List.not_mem_nil), rfl, rfl, fun _ _ => rfl⟩
  | cons m l ih =>
    obtain ⟨lanes, tree, now, regs⟩ := ih (s := s.quietLane m)
    refine ⟨fun n h => lanes n ?_, tree.trans (State.quietLane_tree m), now.trans (s.setLane_now m _), fun y h => (regs y h).trans (State.quietLane_f m (h m))⟩
    by_cases same : n = m
    · subst same
      exact .inr (State.laneState_quietLane n)
    · rcases h with mem | quiet
      · exact .inl ((List.mem_cons.mp mem).resolve_left same)
      · exact .inr ((State.laneState_quietLane_other same).trans quiet)

end

end Sys2Proof.Machine

namespace Sys2Proof.Machine

/-! ## Presence (R100 to R102, R104) -/

section
variable {s : State} {p : Nat}

/-- A port that has taken an attach, before its event (R104). -/
def State.attaches (s : State) (p speed : Nat) : State :=
  ((((s.toState p Ps.disabled).setF (Reg.TM_PORT_STATUS_SPEED p) speed).setF (Reg.TM_PORT_STATUS_REASON p) 0).updPort p
    (fun r => { r with
      attached := true, attachMf := ((s.toState p Ps.disabled).setF (Reg.TM_PORT_STATUS_SPEED p) speed).mfN })).portChange p 0

theorem State.attached_eq (s : State) (p speed : Nat) : s.attached p speed = ((s.attaches p speed).rootEvent p Ev.attach speed).attachSeen p := rfl

theorem State.attaches_spec (hp : p < 192) {speed : Nat} (h : speed < 8) : (s.attaches p speed).portState p = Ps.disabled ∧
    (s.attaches p speed).f (Reg.TM_PORT_STATUS_SPEED p) = speed ∧ (s.attaches p speed).f (Reg.TM_PORT_STATUS_REASON p) = 0 ∧
    ((s.attaches p speed).port p).attached = true ∧ nbit ((s.attaches p speed).port p).change 0 = true := by
  rw [State.portState_eq _ hp, State.attaches, State.f_portChange, State.f_portChange, State.f_portChange, State.f_updPort, State.f_updPort,
    State.f_updPort]
  refine ⟨?_, ?_, ?_, ?_, ?_⟩
  · simp only [State.f_setF_apart, reason_apart_state, speed_apart_state]
    exact (State.portState_eq _ hp).symm.trans (s.portState_toState hp (by decide))
  · simp only [State.f_setF_apart, reason_apart_speed]
    exact (State.f_setF_same _ _ rfl).trans (Nat.mod_eq_of_lt h)
  · rw [State.f_setF_same _ _ rfl, Nat.zero_mod]
  · rw [State.port_portChange, State.port_updPort]
  · rw [State.port_portChange]
    exact nbit_setBit _ 0

/-- A port whose presence is lost, before anything else follows (R104). -/
def State.presenceEnds (s : State) (p : Nat) : State :=
  (((s.toState p Ps.powered).portLeaves p St.deviceGone).setF (Reg.TM_PORT_STATUS_SPEED p) 0).updPort p
    (fun r => { r with attached := false, resetAt := none, suspendAt := none, resumeAt := none, ownReset := false, takeUp := 0 })

theorem State.portPresenceLost_eq (device : 2 ≤ s.portState p) : s.portPresenceLost p =
    ((if (s.presenceEnds p).flag (Reg.TM_PORT_CTRL_PRESENCE p) then (s.presenceEnds p).trainIdle p
      else ((s.presenceEnds p).lanesOf p).foldl (fun x n => x.quietLane n) (s.presenceEnds p)).portChange p 1).rootEvent p Ev.detach 0 :=
  if_pos (decide_eq_true device)

theorem State.presenceEnds_spec : State.only [.regs, .tree] ((s.toState p Ps.powered).portLeaves p St.deviceGone) (s.presenceEnds p) ∧
    (s.presenceEnds p).f (Reg.TM_PORT_STATUS_SPEED p) = 0 ∧ ((s.presenceEnds p).port p).attached = false := by
  refine ⟨Moves.only (State.updPort_moves (State.setF_moves (.refl _ _) (by decide)) (by decide)), ?_, ?_⟩
  · rw [State.presenceEnds, State.f_updPort, State.f_setF_same _ _ rfl, Nat.zero_mod]
  · rw [State.presenceEnds, State.port_updPort]

/-! ### When presence is taken and lost -/

section
variable (powered : s.portState p = Ps.powered) (exists_ : s.portExists p = true) (root : s.rootRole p = true)
include powered exists_ root

theorem State.debounceExpiry_due (sense : s.flag (Reg.TM_PORT_CTRL_PRESENCE p) = false) (late : (s.port p).senseAt + 2500000 ≤ s.now) :
    s.debounceExpiry p = match (s.port p).sense with
      | .none | .invalid => s
      | .lyborH => s.attached p 3
      | .classic | .lyborL => if s.f (Reg.TM_PORT_STATUS_REASON p) = Rs.speedMismatch then s else
        ((((s.setF (Reg.TM_PORT_STATUS_SPEED p) (senseCode (s.port p).sense)).setF (Reg.TM_PORT_STATUS_REASON p) Rs.speedMismatch).portChange p 0).rootEvent p
          Ev.disabled Rs.speedMismatch) :=
  if_pos ⟨powered, exists_, root, f_of_flag rfl sense, late⟩

theorem State.debounceExpiry_misfit (sense : s.flag (Reg.TM_PORT_CTRL_PRESENCE p) = false) (late : (s.port p).senseAt + 2500000 ≤ s.now)
    (level : (s.port p).sense = .classic ∨ (s.port p).sense = .lyborL) (first : s.f (Reg.TM_PORT_STATUS_REASON p) ≠ Rs.speedMismatch) :
    s.debounceExpiry p = (((s.setF (Reg.TM_PORT_STATUS_SPEED p) (senseCode (s.port p).sense)).setF (Reg.TM_PORT_STATUS_REASON p)
      Rs.speedMismatch).portChange p 0).rootEvent p Ev.disabled Rs.speedMismatch := by
  rw [State.debounceExpiry_due powered exists_ root sense late]
  rcases level with level | level
  · rw [level]
    exact if_neg first
  · rw [level]
    exact if_neg first

end

theorem senseCode_lt (l : Sense) : senseCode l < 8 := by cases l <;> decide

theorem State.misfit_spec (hp : p < 192) (l : Sense) :
    let u := ((s.setF (Reg.TM_PORT_STATUS_SPEED p) (senseCode l)).setF (Reg.TM_PORT_STATUS_REASON p) Rs.speedMismatch).portChange p 0
    u.portState p = s.portState p ∧ u.f (Reg.TM_PORT_STATUS_SPEED p) = senseCode l ∧ u.f (Reg.TM_PORT_STATUS_REASON p) = Rs.speedMismatch := by
  intro u
  rw [State.portState_eq _ hp, State.portState_eq _ hp, State.f_portChange, State.f_portChange, State.f_portChange]
  refine ⟨?_, ?_, ?_⟩
  · simp only [State.f_setF_apart, reason_apart_state, speed_apart_state]
  · simp only [State.f_setF_apart, reason_apart_speed]
    exact (State.f_setF_same _ _ rfl).trans (Nat.mod_eq_of_lt (senseCode_lt l))
  · exact (State.f_setF_same _ _ rfl).trans (Nat.mod_eq_of_lt (show Rs.speedMismatch < 2 ^ 4 by decide))

theorem State.debounceExpiry_early (early : s.rootRole p = false ∨ s.now < (s.port p).senseAt + 2500000) : s.debounceExpiry p = s := by
  refine if_neg fun h => ?_
  rcases early with device | early
  · exact absurd (h.2.2.1.symm.trans device) (by decide)
  · exact absurd h.2.2.2.2 (Nat.not_le.mpr early)

/-- The lanes of the trunk have held for 100 ms (R102). -/
theorem State.heldLong_iff : s.heldLong p = true ↔ s.lanesOf p ≠ [] ∧
    ∀ n ∈ s.lanesOf p, (s.laneState n = Ls.aligning ∨ s.laneState n = Ls.up) ∧ (s.lane n).heldAt + 2500000 ≤ s.now := by
  simp only [State.heldLong, Bool.and_eq_true, Bool.not_eq_true', List.isEmpty_eq_false_iff, List.all_eq_true, Bool.or_eq_true, beq_iff_eq, decide_eq_true_eq]
  rfl

theorem State.downLong_iff {freed : Nat} : s.downLong p freed = true ↔ freed + 2500000 ≤ s.now ∧
    ∃ n ∈ s.lanesOf p, laneHolds (s.laneState n) = false ∧ (s.lane n).changedAt + 2500000 ≤ s.now := by
  simp only [State.downLong, Bool.and_eq_true, decide_eq_true_eq, List.any_eq_true, Bool.not_eq_true']
  rfl

/-- What a level of SENSE leaves in the record of its port (R98, R100). -/
theorem State.port_senseChange (l : Sense) : (s.senseChange p l).port p = if (s.port p).sense = l then s.port p
    else if s.portState p = 0 then { s.port p with sense := l }
    else { s.port p with sense := l, senseAt := s.now, leftAt := if l = .lyborH then none else some ((s.port p).leftAt.getD s.now) } := by
  unfold State.senseChange
  extract_lets t
  have noted : t.port p = _ := State.port_updPort _ _ _
  split
  · exact noted
  · exact noted

theorem State.senseChange_record (s : State) (p : Nat) (l : Sense) : ((s.senseChange p l).port p).sense = l ∧
    ((s.senseChange p l).port p).senseAt = (if (s.port p).sense = l ∨ s.portState p = Ps.off then (s.port p).senseAt else s.now) ∧
    ((s.senseChange p l).port p).leftAt = (if (s.port p).sense = l ∨ s.portState p = Ps.off then (s.port p).leftAt
      else if l = .lyborH then none else some ((s.port p).leftAt.getD s.now)) := by
  rw [State.port_senseChange]
  by_cases same : (s.port p).sense = l
  · simp [same]
  · by_cases off : s.portState p = 0
    · simp [same, off, Ps.off]
    · simp [same, off, Ps.off]

/-- Leaving a level that does not fit clears REASON and SPEED. -/
theorem State.senseChange_leaves (hp : p < 192) {l : Sense} (powered : s.portState p = Ps.powered)
    (misfit : s.f (Reg.TM_PORT_STATUS_REASON p) = Rs.speedMismatch) (other : s.f (Reg.TM_PORT_STATUS_SPEED p) ≠ senseCode l) :
    (s.senseChange p l).f (Reg.TM_PORT_STATUS_REASON p) = 0 ∧ (s.senseChange p l).f (Reg.TM_PORT_STATUS_SPEED p) = 0 := by
  unfold State.senseChange
  extract_lets t
  have same (y : Fld) : t.f y = s.f y := State.f_updPort _ y
  rw [if_pos ⟨by rw [State.portState_eq _ hp, same, ← State.portState_eq _ hp]; exact powered, (same _).trans misfit, by rwa [same]⟩]
  refine ⟨?_, State.f_setF_same _ _ rfl⟩
  simp only [State.f_setF_apart, speed_apart_reason]
  exact State.f_setF_same _ _ rfl

end

/-- Settles O6: each presence command by the level or the trunk, and by how long it has stood. -/
theorem presenceAttachesAndDetaches : Obligations.PresenceAttachesAndDetaches := by
  unfold Obligations.PresenceAttachesAndDetaches
  intro s p attach gone
  have taken : attach (s.attached p 3) := by
    obtain ⟨state, speed, reason, attached, change⟩ := s.attaches_spec p.isLt (speed := 3) (by decide)
    exact ⟨_, state, speed, reason, attached, change, s.attached_eq p 3⟩
  have lost (device : 2 ≤ s.portState p) : gone (s.portPresenceLost p) := by
    obtain ⟨only, speed, attached⟩ := State.presenceEnds_spec (s := s) (p := p)
    exact ⟨_, _, s.portState_toState p.isLt (by decide), only, speed, attached, State.portPresenceLost_eq device⟩
  refine ⟨fun powered exists_ root sense late => ⟨fun level => ?_, fun level first => ?_⟩, fun early => ?_,
    fun powered exists_ root presence => ⟨fun some_ held => ?_, fun n mem short => ?_⟩, fun t0 root sense left => ⟨fun late device => ?_, fun early => ?_⟩,
    fun state presence => ⟨fun root calm freed down => ?_, fun no => ?_⟩, fun l => ?_⟩
  · refine answers_eq rfl ((State.debounceExpiry_due powered exists_ root sense late).trans ?_) taken
    rw [level]
  · obtain ⟨state, speed, reason⟩ := s.misfit_spec p.isLt (s.port p).sense
    exact answers_eq rfl (State.debounceExpiry_misfit powered exists_ root sense late level first) ⟨_, state.trans powered, speed, reason, rfl⟩
  · exact answers_eq rfl (State.debounceExpiry_early early) rfl
  · have long : s.heldLong p = true := State.heldLong_iff.mpr ⟨some_, held⟩
    exact answers_eq rfl (if_pos ⟨powered, exists_, root, presence, long⟩) taken
  · refine answers_eq rfl (if_neg fun h => ?_) rfl
    obtain ⟨-, held⟩ := State.heldLong_iff.mp h.2.2.2.2
    exact absurd (held n mem).2 (Nat.not_le.mpr short)
  · refine answers_eq rfl (if_pos ?_) (lost device)
    simp [State.senseGone, root, f_of_flag rfl sense, left, late]
  · refine answers_eq rfl (if_neg ?_) rfl
    simp [State.senseGone, left, Nat.not_le.mpr early]
  · refine answers_eq rfl (if_pos ?_) (lost (by rcases state with h | h <;> rw [h] <;> decide))
    have down' : s.downLong p (s.port p).freeAt = true := State.downLong_iff.mpr ⟨freed, down⟩
    rcases state with h | h <;> simp [State.linkGone, presence, root, calm, down', show s.portState p.val = _ from h, Ps.disabled, Ps.enabled]
  · refine answers_eq rfl (if_neg fun h => ?_) rfl
    simp only [State.linkGone, Bool.and_eq_true] at h
    obtain ⟨⟨⟨⟨-, root⟩, calm⟩, -⟩, down⟩ := h
    rcases no with device | twill | early
    · exact absurd (root.symm.trans device) (by decide)
    · rw [Option.isNone_iff_eq_none] at calm
      rw [calm] at twill
      exact absurd twill (by decide)
    · exact absurd (State.downLong_iff.mp down).1 (Nat.not_le.mpr early)
  · obtain ⟨sense, at_, left⟩ := s.senseChange_record p l
    exact answers_eq rfl rfl ⟨sense, at_, left, fun powered misfit other => State.senseChange_leaves p.isLt powered misfit other⟩

end Sys2Proof.Machine

namespace Sys2Proof.Machine

/-! # Port features (R104, R106, R109, R112)

## Registers of a port, and lanes that carry traffic again -/

section
variable {s : State} {p : Nat}

/-- Fields of different registers of a port. -/
theorem portOther_apart {o o' lo w lo' w' : Nat} (h : (o != o') = true) :
    (Fld.mk (Reg.portBase p + o) lo w).apart ⟨Reg.portBase p + o', lo', w'⟩ = true := by
  have other : (Reg.portBase p + o' != Reg.portBase p + o) = true := by
    rw [bne_iff_ne] at h ⊢
    omega
  rw [Fld.apart, bne_comm, other, Bool.true_or]

theorem portCtrl_apart {lo w lo' w' : Nat} (h : (decide (lo + w ≤ 32) && (decide (lo + w ≤ lo') || decide (lo' + w' ≤ lo))) = true) :
    (Fld.mk (Reg.TM_PORT_CTRL p) lo w).apart ⟨Reg.TM_PORT_CTRL p, lo', w'⟩ = true := by
  rw [Fld.apart, h, Bool.or_true]

theorem power_apart_state (p : Nat) : (Reg.TM_PORT_CTRL_POWER p).apart (Reg.TM_PORT_STATUS_STATE p) = true := portOther_apart (o := 0) (o' := 4) rfl
theorem power_apart_presence (p : Nat) : (Reg.TM_PORT_CTRL_POWER p).apart (Reg.TM_PORT_CTRL_PRESENCE p) = true := portCtrl_apart (p := p) rfl
theorem power_apart_role (p : Nat) : (Reg.TM_PORT_CTRL_POWER p).apart (Reg.TM_PORT_CTRL_ROLE p) = true := portCtrl_apart (p := p) rfl
theorem state_apart_presence (p : Nat) : (Reg.TM_PORT_STATUS_STATE p).apart (Reg.TM_PORT_CTRL_PRESENCE p) = true :=
  portOther_apart (o := 4) (o' := 0) rfl
theorem state_apart_role (p : Nat) : (Reg.TM_PORT_STATUS_STATE p).apart (Reg.TM_PORT_CTRL_ROLE p) = true := portOther_apart (o := 4) (o' := 0) rfl
theorem reason_apart_role (p : Nat) : (Reg.TM_PORT_STATUS_REASON p).apart (Reg.TM_PORT_CTRL_ROLE p) = true := portOther_apart (o := 4) (o' := 0) rfl
theorem speed_apart_role (p : Nat) : (Reg.TM_PORT_STATUS_SPEED p).apart (Reg.TM_PORT_CTRL_ROLE p) = true := portOther_apart (o := 4) (o' := 0) rfl
theorem reason_apart_power (p : Nat) : (Reg.TM_PORT_STATUS_REASON p).apart (Reg.TM_PORT_CTRL_POWER p) = true := portOther_apart (o := 4) (o' := 0) rfl
theorem speed_apart_power (p : Nat) : (Reg.TM_PORT_STATUS_SPEED p).apart (Reg.TM_PORT_CTRL_POWER p) = true := portOther_apart (o := 4) (o' := 0) rfl

theorem shapeless_port (hp : p < 192) : shapeless [Reg.TM_PORT_STATUS p, Reg.TM_PORT_CTRL p] := by
  simp only [shapeless, Reg.TM_PORT_STATUS, Reg.TM_PORT_CTRL, Reg.portBase, Reg.PU_CTRL, Reg.PU_CFG, Reg.LX_QUAD_CFG, Reg.quadBase, List.mem_cons,
    List.not_mem_nil, or_false]
  refine ⟨by omega, by omega, fun q => by omega⟩

/-- A write to a register of a port leaves the state of the lanes. -/
theorem State.laneState_setF_port (hp : p < 192) {o lo w : Nat} (ho : o < 0x10) (v n : Nat) :
    (s.setF ⟨Reg.portBase p + o, lo, w⟩ v).laneState n = s.laneState n := by
  refine State.f_setF_other _ _ ?_
  simp only [Reg.LX_LANE_STATUS_STATE, Reg.LX_LANE_STATUS, Reg.laneBase, Reg.portBase]
  omega

theorem State.laneState_updPort (g : PortRec → PortRec) (n : Nat) : (s.updPort p g).laneState n = s.laneState n := (rfl)
theorem State.laneState_portChange (b n : Nat) : (s.portChange p b).laneState n = s.laneState n := (rfl)

theorem State.laneState_toState (hp : p < 192) (st n : Nat) : (s.toState p st).laneState n = s.laneState n :=
  (State.f_of_regs (s.toState_regs st) _).trans (State.laneState_setF_port hp (o := 4) (by decide) st n)

theorem State.lanesOf_toState (hp : p < 192) (st t : Nat) : (s.toState p st).lanesOf t = s.lanesOf t :=
  ((s.regsBut_toState st).mono (by simp)).lanesOf (shapeless_port hp) t

/-- What lanes that enter UP leave, and what they are (R80). -/
theorem State.foldl_setUp (l : List Nat) : (∀ n, n ∈ l ∨ s.laneState n = Ls.up → (l.foldl (fun s n => s.setLane n Ls.up) s).laneState n = Ls.up) ∧
    (l.foldl (fun s n => s.setLane n Ls.up) s).tree = s.tree ∧ (l.foldl (fun s n => s.setLane n Ls.up) s).time = s.time ∧
    ∀ y : Fld, (∀ n, y.addr ∉ stateRegs n) → (l.foldl (fun s n => s.setLane n Ls.up) s).f y = s.f y := by
  induction l generalizing s with
  | nil => exact ⟨fun n h => h.resolve_left (List.not_mem_nil), rfl, rfl, fun _ _ => rfl⟩
  | cons m l ih =>
    obtain ⟨lanes, tree, time, regs⟩ := ih (s := s.setLane m Ls.up)
    refine ⟨fun n h => lanes n ?_, tree.trans (s.setLane_tree m _), time.trans (s.setLane_time m _), fun y h => (regs y h).trans (s.f_setLane m _ (h m))⟩
    by_cases same : n = m
    · subst same
      exact .inr (s.laneState_setLane n (by decide))
    · rcases h with mem | up
      · exact .inl ((List.mem_cons.mp mem).resolve_left same)
      · exact .inr ((s.laneState_setLane_other same).trans up)

/-- The lanes of a port whose link was held in low power are UP, and the rest of the port is as before (R106). -/
theorem State.lanesResume_spec (s : State) (p : Nat) : (∀ n ∈ s.lanesOf p, s.laneState n = Ls.lpi → (s.lanesResume p).laneState n = Ls.up) ∧
    (s.lanesResume p).tree = s.tree ∧ (s.lanesResume p).time = s.time ∧
    ∀ y : Fld, (∀ n, y.addr ∉ stateRegs n) → (s.lanesResume p).f y = s.f y := by
  have on : Moves [.lx, .free, .out] s (s.lanesOn p ((s.lanesOf p).filter (fun n => s.laneState n == 5))) := State.lanesOn_moves (.refl _ s) (by decide)
  obtain ⟨lanes, tree, time, regs⟩ := State.foldl_setUp (s := s.lanesOn p ((s.lanesOf p).filter (fun n => s.laneState n == 5)))
    ((s.lanesOf p).filter (fun n => s.laneState n == 5))
  refine ⟨fun n mem lpi => lanes n (.inl (List.mem_filter.mpr ⟨mem, beq_iff_eq.mpr lpi⟩)), tree.trans (on.tree_eq (by decide)),
    time.trans (on.time_eq (by decide)), fun y h => (regs y h).trans (State.f_of_regs (on.regs_eq (by decide)) y)⟩

/-! ## POWER (R104) -/

/-- A port that gets power, before its lanes train. -/
def State.powersUp (s : State) (p : Nat) : State :=
  ((s.toState p Ps.powered).setB (Reg.TM_PORT_CTRL_POWER p) true).updPort p (fun r => { r with
    senseAt := ((s.toState p Ps.powered).setB (Reg.TM_PORT_CTRL_POWER p) true).now
    leftAt := if r.sense = .lyborH then none else some ((s.toState p Ps.powered).setB (Reg.TM_PORT_CTRL_POWER p) true).now })

theorem State.powersUp_spec (hp : p < 192) : (s.powersUp p).portState p = Ps.powered ∧ (s.powersUp p).flag (Reg.TM_PORT_CTRL_POWER p) = true ∧
    ((s.powersUp p).port p).senseAt = s.now ∧ (s.powersUp p).flag (Reg.TM_PORT_CTRL_PRESENCE p) = s.flag (Reg.TM_PORT_CTRL_PRESENCE p) := by
  refine ⟨?_, (State.flag_updPort _ _).trans (State.flag_setB_same _ _ rfl rfl), ?_, ?_⟩
  · rw [State.portState_eq _ hp, State.powersUp, State.f_updPort, State.f_setB_apart _ _ (power_apart_state p)]
    exact (State.portState_eq _ hp).symm.trans (s.portState_toState hp (by decide))
  · rw [State.powersUp, State.port_updPort]
    exact (s.toState_parts Ps.powered).now_eq (by decide)
  · rw [State.powersUp, State.flag_updPort, State.flag_setB_apart _ _ (power_apart_presence p)]
    exact s.flag_toState _ (state_apart_presence p)

theorem State.portPower_off (hp : p < 192) (off : s.portState p = Ps.off) (exists_ : s.portExists p = true) :
    s.portPower p = if s.flag (Reg.TM_PORT_CTRL_PRESENCE p) then (s.powersUp p).trainIdle p else s.powersUp p := by
  rw [← (State.powersUp_spec (s := s) hp).2.2.2]
  exact if_pos ⟨off, exists_⟩

/-- A port that loses its power, before its device is told of. -/
def State.powersDown (s : State) (p : Nat) : State :=
  let t := (s.toState p Ps.off).setB (Reg.TM_PORT_CTRL_POWER p) false
  ((((t.lanesOf p).foldl (fun s n => s.quietLane n) t).setF (Reg.TM_PORT_STATUS_REASON p) 0).setF (Reg.TM_PORT_STATUS_SPEED p) 0).updPort p
    (fun r => { r with attached := false, resetAt := none, suspendAt := none, resumeAt := none, ownReset := false, takeUp := 0 })

theorem ctrl_not_lane (hp : p < 192) (n : Nat) : Reg.TM_PORT_CTRL p ∉ stateRegs n := portReg.not_lane ⟨0, by decide, rfl⟩ hp n
theorem status_not_lane (hp : p < 192) (n : Nat) : Reg.TM_PORT_STATUS p ∉ stateRegs n := portReg.not_lane ⟨4, by decide, rfl⟩ hp n

theorem State.powersDown_spec (hp : p < 192) : (s.powersDown p).portState p = Ps.off ∧ (s.powersDown p).flag (Reg.TM_PORT_CTRL_POWER p) = false ∧
    (s.powersDown p).f (Reg.TM_PORT_STATUS_REASON p) = 0 ∧ (s.powersDown p).f (Reg.TM_PORT_STATUS_SPEED p) = 0 ∧
    ((s.powersDown p).port p).attached = false ∧ (∀ n ∈ s.lanesOf p, (s.powersDown p).laneState n = Ls.disabled) ∧
    (s.powersDown p).rootRole p = s.rootRole p := by
  have powered : s.regsBut [Reg.TM_PORT_STATUS p, Reg.TM_PORT_CTRL p] ((s.toState p Ps.off).setB (Reg.TM_PORT_CTRL_POWER p) false) :=
    ((s.regsBut_toState Ps.off).mono (by simp)).setB (x := Reg.TM_PORT_CTRL_POWER p) false (.tail _ (.head _))
  have lanes := powered.lanesOf (shapeless_port hp) p
  unfold State.powersDown
  extract_lets t
  obtain ⟨quiet, -, -, kept⟩ := State.foldl_quietLane (s := t) (t.lanesOf p)
  have state : t.f (Reg.TM_PORT_STATUS_STATE p) = Ps.off :=
    (State.f_setB_apart _ _ (power_apart_state p)).trans ((State.portState_eq _ hp).symm.trans (s.portState_toState hp (by decide)))
  have role : t.flag (Reg.TM_PORT_CTRL_ROLE p) = s.flag (Reg.TM_PORT_CTRL_ROLE p) :=
    (State.flag_setB_apart _ _ (power_apart_role p)).trans (s.flag_toState _ (state_apart_role p))
  rw [State.portState_eq _ hp, State.flag, State.rootRole, State.flag]
  simp only [State.f_updPort, State.f_setF_apart, speed_apart_state, reason_apart_state, speed_apart_reason, speed_apart_power, reason_apart_power,
    speed_apart_role, reason_apart_role]
  refine ⟨(kept _ (status_not_lane hp)).trans state, ?_, (State.f_setF_same _ _ rfl).trans rfl, (State.f_setF_same _ _ rfl).trans rfl,
    congrArg PortRec.attached (State.port_updPort _ _ _), fun n mem => ?_, ?_⟩
  · rw [kept _ (ctrl_not_lane hp), ← State.flag]
    exact State.flag_setB_same (x := Reg.TM_PORT_CTRL_POWER p) _ false rfl rfl
  · rw [State.laneState_updPort]
    exact ((State.laneState_setF_port hp (o := 4) (by decide) 0 n).trans (State.laneState_setF_port hp (o := 4) (by decide) 0 n)).trans
      (quiet n (.inl (lanes ▸ mem)))
  · rw [kept _ (ctrl_not_lane hp), ← State.flag, role, State.rootRole]

theorem State.portOff_on (hp : p < 192) (on : s.portState p ≠ Ps.off) : s.portOff p =
    if 2 ≤ s.portState p ∧ s.rootRole p then (((s.powersDown p).portLeaves p St.deviceGone).portChange p 1).rootEvent p Ev.detach 0 else s.powersDown p := by
  have role : (s.powersDown p).rootRole p = s.rootRole p := (State.powersDown_spec hp).2.2.2.2.2.2
  refine (if_neg on).trans ?_
  change (if portHasDevice (s.portState p) && (s.powersDown p).rootRole p then _ else s.powersDown p) = _
  rw [role]
  simp only [portHasDevice, Bool.and_eq_true, decide_eq_true_eq]
  rfl

end
end Sys2Proof.Machine

namespace Sys2Proof.Machine

/-! ## RESET, SUSPEND, RESUME and ENABLE of a root port (R104 to R109) -/

section
variable {s : State} {p : Nat}

theorem State.rootRole_of_flag {t : State} (h : t.flag (Reg.TM_PORT_CTRL_ROLE p) = s.flag (Reg.TM_PORT_CTRL_ROLE p)) : t.rootRole p = s.rootRole p := by
  rw [State.rootRole, h, State.rootRole]

theorem State.port_of_tree {t : State} (h : t.tree = s.tree) (p : Nat) : t.port p = s.port p := by rw [State.port, h, State.port]

/-- A port whose reset begins, before its enumeration ends (R105). -/
def State.resets (s : State) (p : Nat) (own : Bool) : State :=
  ((s.toState p Ps.resetting).detachLost St.portReset).updPort p (fun r => { r with
    resetAt := some ((s.toState p Ps.resetting)).now, signalled := false, suspendAt := none, resumeAt := none, ownReset := own })

theorem State.portReset_eq (hp : p < 192) (device : 2 ≤ s.portState p) (other : s.portState p ≠ Ps.resetting) (root : s.rootRole p = true) :
    s.portReset p false = ((((s.resets p false).dropEnum p).showEnum).lanesOf p).foldl (fun s n => s.quietLane n) (((s.resets p false).dropEnum p).showEnum) :=
  (if_neg (Nat.not_le.mpr hp)).trans (if_pos ⟨device, other, root⟩)

theorem State.resets_spec : State.only [.tree] ((s.toState p Ps.resetting).detachLost St.portReset) (s.resets p false) ∧
    ((s.resets p false).port p).resetAt = some s.now ∧ ((s.resets p false).port p).signalled = false := by
  have now : (s.toState p Ps.resetting).now = s.now := (s.toState_parts Ps.resetting).now_eq (by decide)
  rw [State.resets, State.port_updPort, now]
  exact ⟨Moves.only (State.updPort_moves (.refl _ _) (by decide)), rfl, rfl⟩

/-- A port that is suspended, before its event (R106). -/
def State.suspends (s : State) (p : Nat) : State :=
  let t := (s.toState p Ps.suspended).updPort p (fun r => { r with suspendAt := some s.now })
  ((t.lanesOf p).foldl (fun s n => s.setLane n Ls.lpi) (t.emit (.ctl p Ct.lpi (16 * t.width p)))).portChange p 4

/-- Lanes that enter LPI, and what they leave. -/
theorem State.foldl_setLpi (l : List Nat) : (∀ n, n ∈ l ∨ s.laneState n = Ls.lpi → (l.foldl (fun s n => s.setLane n Ls.lpi) s).laneState n = Ls.lpi) ∧
    (l.foldl (fun s n => s.setLane n Ls.lpi) s).tree = s.tree ∧
    ∀ y : Fld, (∀ n, y.addr ∉ stateRegs n) → (l.foldl (fun s n => s.setLane n Ls.lpi) s).f y = s.f y := by
  induction l generalizing s with
  | nil => exact ⟨fun n h => h.resolve_left (List.not_mem_nil), rfl, fun _ _ => rfl⟩
  | cons m l ih =>
    obtain ⟨lanes, tree, regs⟩ := ih (s := s.setLane m Ls.lpi)
    refine ⟨fun n h => lanes n ?_, tree.trans (s.setLane_tree m _), fun y h => (regs y h).trans (s.f_setLane m _ (h m))⟩
    by_cases same : n = m
    · subst same
      exact .inr (s.laneState_setLane n (by decide))
    · rcases h with mem | low
      · exact .inl ((List.mem_cons.mp mem).resolve_left same)
      · exact .inr ((s.laneState_setLane_other same).trans low)

theorem State.suspends_spec (hp : p < 192) : (s.suspends p).portState p = Ps.suspended ∧ ((s.suspends p).port p).suspendAt = some s.now ∧
    (∀ n ∈ s.lanesOf p, (s.suspends p).laneState n = Ls.lpi) ∧ nbit ((s.suspends p).port p).change 4 = true := by
  have width := s.lanesOf_toState hp Ps.suspended p
  unfold State.suspends
  extract_lets t
  obtain ⟨lanes, tree, kept⟩ := State.foldl_setLpi (s := t.emit (.ctl p Ct.lpi (16 * t.width p))) (t.lanesOf p)
  have port := State.port_of_tree tree p
  refine ⟨?_, ?_, fun n mem => ?_, ?_⟩
  · rw [State.portState_eq _ hp, State.f_portChange, kept _ (status_not_lane hp)]
    exact (State.portState_eq _ hp).symm.trans (s.portState_toState hp (by decide))
  · rw [State.port_portChange, port]
    exact congrArg PortRec.suspendAt (State.port_updPort _ _ _)
  · rw [State.laneState_portChange]
    exact lanes n (.inl (width.symm ▸ mem))
  · rw [State.port_portChange]
    exact nbit_setBit _ 4

theorem State.portSuspend_eq (on : s.portState p = Ps.enabled) (holds : s.trunkHolds p = true) (root : s.rootRole p = true) :
    s.portSuspend p = (s.suspends p).rootEvent p Ev.suspended 0 :=
  if_pos (show s.portState p = 4 ∧ _ from ⟨on, holds, root⟩)

/-- A port whose resume signalling begins (R106). -/
def State.resumes (s : State) (p : Nat) : State :=
  ((s.toState p Ps.resuming).updPort p (fun r => { r with resumeAt := some s.now, suspendAt := none })).lanesResume p

theorem State.resumes_spec (hp : p < 192) : (s.resumes p).portState p = Ps.resuming ∧ ((s.resumes p).port p).resumeAt = some s.now := by
  obtain ⟨-, tree, -, kept⟩ :=
    ((s.toState p Ps.resuming).updPort p (fun r => { r with resumeAt := some s.now, suspendAt := none })).lanesResume_spec p
  refine ⟨?_, ?_⟩
  · rw [State.portState_eq _ hp, State.resumes, kept _ (status_not_lane hp), State.f_updPort]
    exact (State.portState_eq _ hp).symm.trans (s.portState_toState hp (by decide))
  · rw [State.resumes, State.port_of_tree tree, State.port_updPort]

theorem State.portResume_eq (low : s.portState p = Ps.suspended) (root : s.rootRole p = true) (wake : Bool) : s.portResume p wake =
    if wake then ((s.resumes p).portChange p 5).rootEvent p Ev.remoteWake 0 else s.resumes p :=
  (if_neg (by rw [root]; decide)).trans (if_pos (show s.portState p = 5 from low))

/-- A port becomes ENABLED: REASON is 0 (R104). -/
theorem State.portEnable_spec (hp : p < 192) : (s.portEnable p).portState p = Ps.enabled ∧ (s.portEnable p).f (Reg.TM_PORT_STATUS_REASON p) = 0 ∧
    ∀ n, (s.portEnable p).laneState n = s.laneState n := by
  unfold State.portEnable
  refine ⟨?_, ?_, fun n => ?_⟩
  · rw [State.portState_eq _ hp, State.f_updPort, State.f_setF_apart _ _ (reason_apart_state p)]
    exact (State.portState_eq _ hp).symm.trans (s.portState_toState hp (by decide))
  · rw [State.f_updPort]
    exact State.f_setF_same _ _ rfl
  · rw [State.laneState_updPort]
    exact (State.laneState_setF_port hp (o := 4) (by decide) 0 n).trans (s.laneState_toState hp _ n)

/-- A port that leaves low power for ENABLED, before its event (R104, R106). -/
def State.wakesUp (s : State) (p : Nat) : State := ((s.lanesResume p).portEnable p).portChange p 4

theorem State.wakesUp_spec (hp : p < 192) : (s.wakesUp p).portState p = Ps.enabled ∧ (s.wakesUp p).f (Reg.TM_PORT_STATUS_REASON p) = 0 ∧
    nbit ((s.wakesUp p).port p).change 4 = true ∧ ∀ n ∈ s.lanesOf p, s.laneState n = Ls.lpi → (s.wakesUp p).laneState n = Ls.up := by
  obtain ⟨state, reason, lanes⟩ := State.portEnable_spec (s := s.lanesResume p) hp
  obtain ⟨up, -, -, -⟩ := s.lanesResume_spec p
  refine ⟨?_, reason, ?_, fun n mem lpi => (lanes n).trans (up n mem lpi)⟩
  · rw [State.portState_eq _ hp, State.wakesUp, State.f_portChange, ← State.portState_eq _ hp]
    exact state
  · rw [State.wakesUp, State.port_portChange]
    exact nbit_setBit _ 4

theorem State.portSetEnable_eq (low : s.portState p = Ps.suspended ∨ s.portState p = Ps.resuming) (root : s.rootRole p = true) :
    s.portSetEnable p = (s.wakesUp p).rootEvent p Ev.enabled 0 := if_pos ⟨low, root⟩

/-- A port that is disabled, before its device is detached (R104). -/
def State.disables (s : State) (p reason : Nat) : State :=
  ((s.toState p Ps.disabled).setF (Reg.TM_PORT_STATUS_REASON p) reason).updPort p
    (fun r => { r with resetAt := none, suspendAt := none, resumeAt := none, ownReset := false, takeUp := 0 })

theorem State.portDisable_eq (hp : p < 192) (reason status : Nat) :
    s.portDisable p reason status = ((s.disables p reason).portLeaves p status).rootEvent p Ev.disabled reason := if_neg (Nat.not_le.mpr hp)

theorem State.disables_spec (hp : p < 192) {reason : Nat} (h : reason < 16) : (s.disables p reason).portState p = Ps.disabled ∧
    (s.disables p reason).f (Reg.TM_PORT_STATUS_REASON p) = reason := by
  rw [State.portState_eq _ hp, State.disables, State.f_updPort, State.f_updPort, State.f_setF_apart _ _ (reason_apart_state p)]
  refine ⟨(State.portState_eq _ hp).symm.trans (s.portState_toState hp (by decide)), ?_⟩
  exact (State.f_setF_same _ _ rfl).trans (Nat.mod_eq_of_lt h)

/-- An ENABLED port that is disabled sets ENABLE_CHG (R112). -/
theorem State.disables_change (on : s.portState p = Ps.enabled) (reason : Nat) :
    ((s.disables p reason).port p).change = setBit (s.port p).change 3 true := by
  obtain ⟨node, freed, port⟩ := s.port_toState (p := p) Ps.disabled
  rw [State.disables, State.port_updPort, State.port_setF, port, on]
  rfl

theorem State.portClearEnable_eq (hp : p < 192) (on : s.portState p = Ps.enabled) (root : s.rootRole p = true) :
    s.portClearEnable p = ((s.disables p Rs.software).portLeaves p St.deviceGone).rootEvent p Ev.disabled Rs.software :=
  (if_pos ⟨on, root⟩).trans (State.portDisable_eq hp _ _)

end

/-- A command that meets the loss of presence is discarded (R107). -/
theorem State.lossAhead_of {s : State} {p : Trunk} (loss : (s.pending.head? = some (.presenceLost p) ∧ s.senseGone p.val = true) ∨
    (s.pending.head? = some (.linkPresenceLost p) ∧ s.linkGone p.val = true)) (device : 2 ≤ s.portState p.val) : s.lossAhead p.val = true := by
  rcases loss with ⟨head, gone⟩ | ⟨head, gone⟩ <;> rw [State.lossAhead, head] <;> simp [portHasDevice, device, gone]

theorem State.portCmd_lost {s : State} {p : Trunk} (loss : s.lossAhead p.val = true) (op : State → State) : s.portCmd p op = s := if_pos loss

theorem State.portCmd_free {s : State} {p : Trunk} (free : s.lossAhead p.val = false) (op : State → State) : s.portCmd p op = op s :=
  if_neg (by rw [free]; decide)

/-! ## TM_PORT_CTRL (R102, R103) -/

section
variable {s : State} (p : Trunk) (v : Word)

theorem State.f_writePortCtrl (lo w : Nat) (fits : lo + w ≤ 32) (rw_ : (List.range w).all (fun i => Nat.testBit 0x1f (lo + i)) = true) :
    (s.writeReg (Reg.TM_PORT_CTRL p.val) v).f ⟨Reg.TM_PORT_CTRL p.val, lo, w⟩ = bits v lo w :=
  s.f_writeReg ⟨Reg.TM_PORT_CTRL p.val, lo, w⟩ v _ (regSpec_port p.val 0 _ p.isLt (by decide) rfl) fits rw_

/-- Whether the pull-up is driven once the register holds `v`. -/
theorem State.connected_writePortCtrl : (s.writeReg (Reg.TM_PORT_CTRL p.val) v).connected p.val = (bits v 2 1 == 1 && bits v 3 1 == 1) := by
  rw [State.connected, State.rootRole, Bool.not_not, State.flag, State.flag]
  exact congrArg₂ (fun a b => a == 1 && b == 1) (State.f_writePortCtrl p v 2 1 (by decide) (by decide)) (State.f_writePortCtrl p v 3 1 (by decide) (by decide))

/-- TM_PORT_CTRL is written, and the pull-up follows. -/
def State.pullUpFollows : State :=
  let was := s.connected p.val
  let t := s.writeReg (Reg.TM_PORT_CTRL p.val) v
  let t := if was = t.connected p.val then t else t.emit (.pullUp p.val (t.connected p.val))
  if was && !t.connected p.val then t.updPort p.val (fun r => { r with dev := DevNode.reset }) else t

theorem State.pullUpFollows_spec : (s.pullUpFollows p v).regs = (s.writeReg (Reg.TM_PORT_CTRL p.val) v).regs ∧
    (s.pullUpFollows p v).out = (if s.connected p = (bits v 2 1 == 1 && bits v 3 1 == 1) then s.out
      else .pullUp p (bits v 2 1 == 1 && bits v 3 1 == 1) :: s.out) ∧
    (s.connected p = true → bits v 2 1 = 0 ∨ bits v 3 1 = 0 → (s.pullUpFollows p v).devNode p = DevNode.reset) := by
  have out : (s.writeReg (Reg.TM_PORT_CTRL p.val) v).out = s.out := (State.writeReg_moves (l_ := [.regs]) (.refl _ s) (by decide)).out_eq (by decide)
  have after := State.connected_writePortCtrl (s := s) p v
  unfold State.pullUpFollows
  extract_lets was t u
  have same : u.connected p.val = (bits v 2 1 == 1 && bits v 3 1 == 1) := by
    simp only [u]
    split
    · exact after
    · exact after
  have regs : u.regs = t.regs := by
    simp only [u]
    split <;> rfl
  have sent : u.out = if was = (bits v 2 1 == 1 && bits v 3 1 == 1) then s.out else .pullUp p (bits v 2 1 == 1 && bits v 3 1 == 1) :: s.out := by
    simp only [u]
    rw [show t.connected p.val = _ from after]
    split
    · exact out
    · exact congrArg (_ :: ·) out
  rw [same]
  refine ⟨?_, ?_, fun on off => ?_⟩
  · split
    · exact regs
    · exact regs
  · split
    · exact sent
    · exact sent
  · have gone : (was && !(bits v 2 1 == 1 && bits v 3 1 == 1)) = true := by
      rw [show was = true from on]
      rcases off with off | off <;> simp [off]
    rw [if_pos gone]
    exact congrArg PortRec.dev (State.port_updPort _ _ _)

theorem State.portCtrl_eq : s.portCtrl p.val v = if bits v 0 1 = 0 then (s.pullUpFollows p v).portOff p
    else if s.portState p = Ps.off then (s.pullUpFollows p v).portPower p
    else if s.portState p = Ps.powered ∧ bits v 1 1 = 1 then (s.pullUpFollows p v).trainIdle p else s.pullUpFollows p v := by
  obtain ⟨regs, -, -⟩ := s.pullUpFollows_spec p v
  have state : (s.pullUpFollows p v).portState p.val = s.portState p.val := by
    rw [State.portState_eq _ p.isLt, State.portState_eq _ p.isLt, State.f_of_regs regs]
    exact State.f_writeReg_other _ _ _ _ (by simp only [Reg.TM_PORT_STATUS_STATE, Reg.TM_PORT_STATUS, Reg.TM_PORT_CTRL]; omega)
  have presence : (s.pullUpFollows p v).flag (Reg.TM_PORT_CTRL_PRESENCE p.val) = (bits v 1 1 == 1) := by
    rw [State.flag_of_regs regs, State.flag]
    exact congrArg (· == 1) (State.f_writePortCtrl p v 1 1 (by decide) (by decide))
  change (if bits v 0 1 = 0 then _ else if (s.pullUpFollows p v).portState p.val = 0 then _
    else if (s.pullUpFollows p v).portState p.val = 1 ∧ (s.pullUpFollows p v).flag (Reg.TM_PORT_CTRL_PRESENCE p.val) then _ else _ : State) = _
  rw [state, presence]
  simp only [beq_iff_eq]
  rfl

end

/-- Settles O7: each feature by the state of its port, and by what it meets in its cycle. -/
theorem portFeaturesMoveTheStateMachine : Obligations.PortFeaturesMoveTheStateMachine := by
  unfold Obligations.PortFeaturesMoveTheStateMachine
  intro s p
  have hp : p.val < 192 := p.isLt
  refine ⟨fun off exists_ => ?_, fun on => ?_, fun loss device i mem => ?_, fun on down => ?_, fun free root => ⟨fun device other => ?_,
    fun on holds => ?_, fun low => ?_, fun low => ?_, fun on => ?_⟩, fun v serves => ?_, ?_⟩
  · obtain ⟨state, power, since, -⟩ := State.powersUp_spec (s := s) hp
    exact answers_eq rfl (State.portPower_off hp off exists_) ⟨_, state, power, since, rfl⟩
  · obtain ⟨state, power, reason, speed, attached, lanes, -⟩ := State.powersDown_spec (s := s) hp
    exact answers_eq rfl (State.portOff_on hp on) ⟨_, state, power, reason, speed, attached, lanes, rfl⟩
  · have lost := State.lossAhead_of loss device
    simp only [List.mem_cons, List.not_mem_nil, or_false] at mem
    obtain rfl | rfl | rfl | rfl | rfl := mem
    · exact answers_eq rfl (State.portCmd_lost lost _) rfl
    · exact answers_eq rfl (State.portCmd_lost lost _) rfl
    · exact answers_eq rfl (State.portCmd_lost lost _) rfl
    · exact answers_eq rfl (State.portCmd_lost lost _) rfl
    · exact answers_eq rfl (State.portCmd_lost lost _) rfl
  · have stays : s.portSuspend p = s := if_neg fun h => absurd (h.2.1.symm.trans down) (by decide)
    refine answers_eq (t := s) rfl ?_ rfl
    rw [State.portCmd, stays, ite_self]
  · obtain ⟨only, resetAt, signalled⟩ := State.resets_spec (s := s) (p := p)
    obtain ⟨quiet, -, -, -⟩ := State.foldl_quietLane (s := ((s.resets p false).dropEnum p).showEnum) ((((s.resets p false).dropEnum p).showEnum).lanesOf p)
    refine answers_eq rfl ((State.portCmd_free free _).trans (State.portReset_eq hp device other root))
      ⟨_, _, _, s.portState_toState hp (by decide), only, resetAt, signalled, rfl, ?_, fun n mem => quiet n (.inl mem)⟩
    exact (Moves.foldl (.refl _ _) fun t n h => State.quietLane_moves h (by decide)).only
  · obtain ⟨state, since, lanes, change⟩ := State.suspends_spec (s := s) hp
    exact answers_eq rfl ((State.portCmd_free free _).trans (State.portSuspend_eq on holds root)) ⟨_, state, since, lanes, change, rfl⟩
  · exact answers_eq rfl ((State.portCmd_free free _).trans (State.portResume_eq low root false)) (State.resumes_spec hp)
  · obtain ⟨state, reason, change, lanes⟩ := State.wakesUp_spec (s := s) hp
    exact answers_eq rfl ((State.portCmd_free free _).trans (State.portSetEnable_eq low root)) ⟨_, state, reason, change, lanes, rfl⟩
  · obtain ⟨state, reason⟩ := State.disables_spec (s := s) hp (reason := Rs.software) (by decide)
    refine answers_eq rfl ((State.portCmd_free free _).trans (State.portClearEnable_eq hp on root)) ⟨_, state, reason, ?_, rfl⟩
    rw [State.disables_change on]
    exact nbit_setBit _ 3
  · obtain ⟨regs, out, node⟩ := s.pullUpFollows_spec p v
    have field (lo w : Nat) (fits : lo + w ≤ 32) (rw_ : (List.range w).all (fun i => Nat.testBit 0x1f (lo + i)) = true) :
        (s.pullUpFollows p v).f ⟨Reg.TM_PORT_CTRL p.val, lo, w⟩ = bits v lo w := by
      rw [State.f_of_regs regs, State.f_writePortCtrl p v lo w fits rw_]
    exact answers_eq rfl ((s.pfWrite_of_serves serves _).trans (s.portCtrl_eq p v)) ⟨_, field 1 1 (by decide) (by decide),
      field 2 1 (by decide) (by decide), field 3 1 (by decide) (by decide), field 4 1 (by decide) (by decide), out, node, rfl⟩
  · refine answers_eq rfl rfl ⟨rfl, ?_, ?_⟩
    · exact congrArg PortRec.change (State.port_updPort _ _ _)
    · exact congrArg PortRec.discards (State.port_updPort _ _ _)

end Sys2Proof.Machine

namespace Sys2Proof.Machine

/-! ## Transitions of a root port that happen by themselves (R104 to R107, R124) -/

section
variable {s : State} {p : Nat}

/-- What the start of training reads and writes of a lane: its state, EN and MODE. -/
def State.trainView (s : State) (n : Nat) : Nat × Bool × Nat := (s.laneState n, s.flag (Reg.LX_LANE_CTRL_EN n), s.f (Reg.LX_LANE_CTRL_MODE n))

/-- One lane of a trunk starts training where it is enabled for it. -/
def State.trainEnabled (s : State) (n : Nat) : State :=
  if s.flag (Reg.LX_LANE_CTRL_EN n) && s.f (Reg.LX_LANE_CTRL_MODE n) == 0 then (s.updLane n (fun l => { l with tries := 0 })).startTraining n else s

theorem State.trainTrunk_eq (t : Nat) : s.trainTrunk t = (s.lanesOf t).foldl State.trainEnabled s := rfl

theorem ctrl_not_trained (n m : Nat) : Reg.LX_LANE_CTRL n ∉ laneRegs m := by
  simp only [laneRegs, Reg.LX_LANE_CTRL, Reg.LX_LANE_STATUS, Reg.LX_TX_TAPS, Reg.LX_PRBS_STATUS, Reg.CKG_STATUS, Reg.CKG_REF_EVENTS, Reg.laneBase,
    List.mem_cons, List.not_mem_nil, or_false]
  omega

theorem status_not_trained {n m : Nat} (h : m ≠ n) : Reg.LX_LANE_STATUS n ∉ laneRegs m := by
  simp only [laneRegs, Reg.LX_LANE_STATUS, Reg.LX_TX_TAPS, Reg.LX_PRBS_STATUS, Reg.CKG_STATUS, Reg.CKG_REF_EVENTS, Reg.laneBase,
    List.mem_cons, List.not_mem_nil, or_false]
  omega

theorem State.trainEnabled_regs (n : Nat) : s.regsBut (laneRegs n) (s.trainEnabled n) :=
  .ite (fun _ => ((State.regsBut.refl _ s).updLane n _).trans (State.regsBut_startTraining _ n)) (fun _ => .refl _ s)

theorem State.trainView_own (n : Nat) : (s.trainEnabled n).trainView n =
    if (s.trainView n).2.1 && (s.trainView n).2.2 == 0 then (Ls.training, (s.trainView n).2) else s.trainView n := by
  have enabled : (s.trainEnabled n).flag (Reg.LX_LANE_CTRL_EN n) = s.flag (Reg.LX_LANE_CTRL_EN n) := s.trainEnabled_regs n |>.flag (ctrl_not_trained n n)
  have mode : (s.trainEnabled n).f (Reg.LX_LANE_CTRL_MODE n) = s.f (Reg.LX_LANE_CTRL_MODE n) := s.trainEnabled_regs n |>.f (ctrl_not_trained n n)
  rw [State.trainView, enabled, mode]
  change (_, (s.trainView n).2) = _
  by_cases trains : (s.trainView n).2.1 && (s.trainView n).2.2 == 0
  · have start : s.trainEnabled n = (s.updLane n (fun l => { l with tries := 0 })).startTraining n := if_pos trains
    rw [if_pos trains, start, State.laneState_startTraining]
  · have stays : s.trainEnabled n = s := if_neg trains
    rw [if_neg trains, stays]
    rfl

theorem State.trainView_other {n m : Nat} (h : m ≠ n) : (s.trainEnabled m).trainView n = s.trainView n := by
  have enabled : (s.trainEnabled m).flag (Reg.LX_LANE_CTRL_EN n) = s.flag (Reg.LX_LANE_CTRL_EN n) := s.trainEnabled_regs m |>.flag (ctrl_not_trained n m)
  have mode : (s.trainEnabled m).f (Reg.LX_LANE_CTRL_MODE n) = s.f (Reg.LX_LANE_CTRL_MODE n) := s.trainEnabled_regs m |>.f (ctrl_not_trained n m)
  have state : (s.trainEnabled m).laneState n = s.laneState n := s.trainEnabled_regs m |>.f (status_not_trained h)
  rw [State.trainView, enabled, mode, state, State.trainView]

/-- Every enabled lane of a trunk that starts training is in TRAINING (R105). -/
theorem State.trainTrunk_trains (t : Nat) {n : Nat} (mem : n ∈ s.lanesOf t) (en : s.flag (Reg.LX_LANE_CTRL_EN n) = true)
    (mode : s.f (Reg.LX_LANE_CTRL_MODE n) = 0) : (s.trainTrunk t).laneState n = Ls.training := by
  have view := foldl_at (g := State.trainEnabled) (rd := fun s => s.trainView n) (i := n)
    (h := fun v => if v.2.1 && v.2.2 == 0 then (Ls.training, v.2) else v) (fun s => s.trainView_own n) (fun s _ h => s.trainView_other h)
    (s.lanesOf t) (s.nodup_lanesOf t) s
  rw [if_pos mem] at view
  have trains : (s.trainView n).2.1 && (s.trainView n).2.2 == 0 := by rw [State.trainView, en, mode]; rfl
  simp only [trains, if_true] at view
  exact congrArg Prod.fst view

theorem State.trainTrunk_tree (t : Nat) : (s.trainTrunk t).tree = s.tree :=
  (State.trainTrunk_moves (l_ := [.regs, .lx, .ck, .out]) (.refl _ s) (by decide)).tree_eq (by decide)

/-- A port whose reset is over, before its event (R104, R116). -/
def State.resetEnds (s : State) (p : Nat) : State := ((s.portEnable p).portChange p 2).updPort p (fun r => { r with ownReset := false })

theorem State.portEnable_change : ((s.portEnable p).port p).change =
    if (s.portState p = 4) ≠ (Ps.enabled = 4) then setBit (s.port p).change 3 true else (s.port p).change := by
  obtain ⟨node, freed, port⟩ := s.port_toState (p := p) Ps.enabled
  rw [State.portEnable, State.port_updPort, State.port_setF, port]

theorem State.resetEnds_spec (hp : p < 192) (busy : s.portState p = Ps.resetting) : (s.resetEnds p).portState p = Ps.enabled ∧
    (s.resetEnds p).f (Reg.TM_PORT_STATUS_REASON p) = 0 ∧ nbit ((s.resetEnds p).port p).change 2 = true ∧
    nbit ((s.resetEnds p).port p).change 3 = true := by
  obtain ⟨state, reason, -⟩ := State.portEnable_spec (s := s) hp
  have change : ((s.resetEnds p).port p).change = setBit (setBit (s.port p).change 3 true) 2 true := by
    rw [State.resetEnds, State.port_updPort, State.port_portChange]
    change setBit ((s.portEnable p).port p).change 2 true = _
    rw [State.portEnable_change, busy]
    rfl
  refine ⟨?_, ?_, ?_, ?_⟩
  · rw [State.portState_eq _ hp, State.resetEnds, State.f_updPort, State.f_portChange, ← State.portState_eq _ hp]
    exact state
  · rw [State.resetEnds, State.f_updPort, State.f_portChange]
    exact reason
  · rw [change]; exact nbit_setBit _ 2
  · rw [change]; exact nbit_setBit_two (nbit_setBit _ 3)

theorem State.resetComplete_eq (busy : s.portState p = Ps.resetting) (root : s.rootRole p = true) (signalled : (s.port p).signalled = true)
    (up : s.trunkUp p = true) (own : (s.port p).ownReset = false) : s.resetComplete p =
      let v := (s.resetEnds p).rootEvent p Ev.enabled 0
      if v.isPartner then v else if v.f Reg.TM_CTRL_EN = 0 then v.updPort p (fun r => { r with takeUp := 3 })
        else v.await ⟨p, 0, 0, true, false, (v.port p).attachMf⟩ := by
  unfold State.resetComplete
  rw [if_pos ⟨busy, root, signalled, up⟩]
  extract_lets o u v w
  have : o = false := own
  clear_value o
  subst this
  rfl

/-- A port whose link is lost, before it is disabled (R104). -/
def State.losesLink (s : State) (p : Nat) : State := (s.bump (Reg.TM_PORT_ERRORS_LINK_LOSTS p)).portChange p 6

theorem State.losesLink_spec : (s.losesLink p).f (Reg.TM_PORT_ERRORS_LINK_LOSTS p) = min (s.f (Reg.TM_PORT_ERRORS_LINK_LOSTS p) + 1) 65535 ∧
    nbit ((s.losesLink p).port p).change 6 = true := by
  rw [State.losesLink, State.port_portChange, State.f_portChange, State.f_bump_same _ 1 rfl]
  exact ⟨rfl, nbit_setBit _ 6⟩

theorem State.linkLost_eq (on : s.portState p = Ps.enabled) (root : s.rootRole p = true) (down : s.trunkHolds p = false)
    (twill : (s.trunk p).twillAt = none) : s.linkLost p =
      let v := (s.losesLink p).portDisable p Rs.linkLost St.deviceGone
      if v.flag (Reg.TM_PORT_CTRL_AUTO_RECOVER p) && (v.port p).attached then v.portReset p false else v :=
  if_pos ⟨on, root, down, twill⟩

/-! ## Wake signalling (R106, R107) -/

section
variable (awake : s.inDormant = false)
include awake

theorem State.wakeSignal_awake : s.wakeSignal p =
    (s.remoteWake p).when (s.portState p == 5 && (s.remoteWake p).portState p == 6) (fun s => s.wake .lybor) :=
  if_neg (by rw [awake]; decide)

/-- Wake signalling before the 5 ms are over is counted (R106). -/
theorem State.wakeSignal_early (hp : p < 192) (root : s.rootRole p = true) (low : s.portState p = Ps.suspended) {t0 : Nat}
    (at_ : (s.port p).suspendAt = some t0) (early : s.now < t0 + 125000) :
    s.wakeSignal p = s.bump (Reg.TM_PORT_ERRORS_EARLY_WAKES p) ∧ (s.bump (Reg.TM_PORT_ERRORS_EARLY_WAKES p)).portState p = Ps.suspended := by
  have counted : s.remoteWake p = s.bump (Reg.TM_PORT_ERRORS_EARLY_WAKES p) := by
    unfold State.remoteWake
    rw [root, low, at_]
    exact if_pos (decide_eq_true early)
  have state : (s.bump (Reg.TM_PORT_ERRORS_EARLY_WAKES p)).portState p = Ps.suspended := by
    rw [State.portState_eq _ hp, State.f_bump_other _ _ (by simp only [Reg.TM_PORT_STATUS_STATE, Reg.TM_PORT_STATUS, Reg.TM_PORT_ERRORS_EARLY_WAKES, Reg.TM_PORT_ERRORS]; omega),
      ← State.portState_eq _ hp]
    exact low
  refine ⟨?_, state⟩
  rw [State.wakeSignal_awake awake, counted, state, Bool.and_comm]
  rfl

/-- Wake signalling that is honoured begins the resume, and is a wake source where the port resumes (R106, R460). -/
theorem State.wakeSignal_honoured (root : s.rootRole p = true) (low : s.portState p = Ps.suspended) {t0 : Nat}
    (at_ : (s.port p).suspendAt = some t0) (late : t0 + 125000 ≤ s.now) (may : s.mayWake p = true)
    (alone : s.pending.head? ≠ some (.portSetResume (Fin.ofNat 192 p))) :
    s.wakeSignal p = (((s.resumes p).portChange p 5).rootEvent p Ev.remoteWake 0).when
      ((((s.resumes p).portChange p 5).rootEvent p Ev.remoteWake 0).portState p == Ps.resuming) (fun s => s.wake .lybor) := by
  have resumed : s.remoteWake p = ((s.resumes p).portChange p 5).rootEvent p Ev.remoteWake 0 := by
    refine Eq.trans ?_ (State.portResume_eq low root true)
    unfold State.remoteWake
    rw [root, low, at_, may]
    refine (if_neg (show ¬decide (s.now < t0 + 125000) = true from ?_)).trans (if_neg alone)
    simpa only [decide_eq_true_eq, Nat.not_lt] using late
  rw [State.wakeSignal_awake awake, resumed, low]
  rfl

/-- Wake signalling while the port resumes is noted (R107). -/
theorem State.wakeSignal_resuming (root : s.rootRole p = true) (rise : s.portState p = Ps.resuming) :
    s.wakeSignal p = s.setB (Reg.TM_PORT_STATUS_REMOTE_WAKE_SEEN p) true := by
  have noted : s.remoteWake p = s.setB (Reg.TM_PORT_STATUS_REMOTE_WAKE_SEEN p) true := by
    unfold State.remoteWake State.portResume
    rw [root, rise]
    rfl
  rw [State.wakeSignal_awake awake, noted, rise]
  rfl

end

/-! ## The end of resume signalling, and marks from upstream (R104, R124) -/

theorem State.resumeComplete_due (rise : s.portState p = Ps.resuming) (root : s.rootRole p = true) {t0 : Nat}
    (at_ : (s.port p).resumeAt = some t0) (late : t0 + 500000 ≤ s.now) : s.resumeComplete p = (s.wakesUp p).rootEvent p Ev.resumed 0 :=
  if_pos (show s.portState p = 6 ∧ _ from ⟨rise, root, by rw [at_]; exact decide_eq_true late⟩)

theorem State.resumeComplete_early {t0 : Nat} (at_ : (s.port p).resumeAt = some t0) (early : s.now < t0 + 500000) : s.resumeComplete p = s := by
  refine if_neg fun ⟨_, _, due⟩ => ?_
  rw [at_] at due
  have := of_decide_eq_true due
  omega

/-- Why a mark from upstream disables its port (R124). -/
def State.markReason (s : State) (rootId : Nat) : Nat := if rootId = s.f Reg.TM_CTRL_ROOT_ID then Rs.loop else Rs.foreign

theorem State.markOnRoot_eq (hp : p < 192) (root : s.rootRole p = true) (on : s.portState p = Ps.enabled) (rootId : Nat) :
    s.markOnRoot p rootId =
      (((s.portChange p 7).disables p (s.markReason rootId)).portLeaves p St.deviceGone).rootEvent p Ev.disabled (s.markReason rootId) :=
  (if_pos (show _ ∧ s.portState p = 4 from ⟨root, on⟩)).trans (State.portDisable_eq hp _ _)

end

/-- Settles O8: each transition by the state of its port and the time that has passed. -/
theorem portTransitionsHappenByThemselves : Obligations.PortTransitionsHappenByThemselves := by
  unfold Obligations.PortTransitionsHappenByThemselves
  intro s p
  have hp : p.val < 192 := p.isLt
  refine ⟨fun t0 root busy quiet at_ => ?_, fun root busy signalled up own => ?_, fun root on down twill => ?_,
    fun root awake low => ⟨fun t0 at_ early => ?_, fun t0 at_ late may alone => ?_⟩, fun root awake rise => ?_, fun t0 _ at_ early => ?_,
    fun t0 root rise at_ late => ?_, fun rootId root on => ?_⟩
  · have due : s.since (s.port p).resetAt 250000 = decide (t0 + 250000 ≤ s.now) := by rw [at_]; rfl
    by_cases early : s.now < t0 + 250000
    · refine answers_eq (t := s) rfl (if_neg fun met => ?_) (by rw [if_pos early])
      have := of_decide_eq_true (due.symm.trans met.2.2.2)
      omega
    · refine answers_eq rfl (if_pos ⟨busy, root, quiet, due.trans (decide_eq_true (by omega))⟩) ?_
      rw [if_neg early, State.port_of_tree (State.trainTrunk_tree _), State.port_updPort]
      exact ⟨rfl, fun n mem en mode => State.trainTrunk_trains _ mem en mode⟩
  · obtain ⟨state, reason, reset, change⟩ := State.resetEnds_spec hp busy
    exact answers_eq rfl (State.resetComplete_eq busy root signalled up own) ⟨_, _, state, reason, reset, change, rfl, rfl⟩
  · obtain ⟨count, change⟩ := State.losesLink_spec (s := s) (p := p)
    exact answers_eq rfl (State.linkLost_eq on root down twill) ⟨_, _, count, change, rfl, rfl⟩
  · obtain ⟨counted, state⟩ := State.wakeSignal_early awake hp root low at_ early
    exact answers_eq rfl counted ⟨state, State.f_bump_same _ 1 rfl⟩
  · obtain ⟨state, since⟩ := State.resumes_spec (s := s) hp
    have head : s.pending.head? ≠ some (.portSetResume (Fin.ofNat 192 p)) := by
      rw [show Fin.ofNat 192 p.val = p from Fin.ofNat_val_eq_self p]
      exact alone
    refine answers_eq rfl (State.wakeSignal_honoured awake root low at_ late may head) ⟨(s.resumes p).portChange p 5, _, ?_, ?_, ?_, rfl, rfl⟩
    · rw [State.portState_eq _ hp, State.f_portChange, ← State.portState_eq _ hp]
      exact state
    · rw [State.port_portChange]
      exact since
    · rw [State.port_portChange]
      exact nbit_setBit _ 5
  · refine answers_eq rfl (State.wakeSignal_resuming awake root rise) ⟨?_, State.flag_setB_same _ _ rfl rfl⟩
    rw [State.portState_eq _ hp, State.f_setB_apart _ _ (seen_apart_state p), ← State.portState_eq _ hp]
    exact rise
  · exact answers_eq rfl (State.resumeComplete_early at_ early) rfl
  · obtain ⟨state, reason, change, lanes⟩ := State.wakesUp_spec (s := s) hp
    exact answers_eq rfl (State.resumeComplete_due rise root at_ late) ⟨_, state, reason, lanes, change, rfl⟩
  · have small : s.markReason rootId.toNat < 16 := by
      unfold State.markReason
      split <;> decide
    have still : (s.portChange p 7).portState p = Ps.enabled := by
      rw [State.portState_eq _ hp, State.f_portChange, ← State.portState_eq _ hp]
      exact on
    obtain ⟨state, reason⟩ := State.disables_spec (s := s.portChange p 7) hp small
    refine answers_eq rfl (State.markOnRoot_eq hp root on rootId.toNat) ⟨_, state, reason, ?_, rfl⟩
    rw [State.disables_change still, State.port_portChange]
    exact nbit_setBit_three (nbit_setBit _ 7)

end Sys2Proof.Machine

namespace Sys2Proof.Machine

/-! # The parts of the night audit (R262, R265 to R267) -/

/-- A fold whose step changes what is read at one index by its own element alone. -/
theorem foldl_local {σ β : Type} {g : σ → Nat → σ} {rd : σ → β} {h : β → β} {i : Nat} {ok : Nat → Prop} (own : ok i → ∀ s, rd (g s i) = h (rd s))
    (other : ∀ s m, ok m → m ≠ i → rd (g s m) = rd s) (l : List Nat) (nodup : l.Nodup) (all : ∀ m ∈ l, ok m) (s : σ) :
    rd (l.foldl g s) = if i ∈ l then h (rd s) else rd s := by
  induction l generalizing s with
  | nil => rfl
  | cons x r ih =>
    obtain ⟨fresh, nodup⟩ := List.nodup_cons.mp nodup
    rw [List.foldl_cons, ih nodup (fun m hm => all m (.tail _ hm))]
    by_cases e : i = x
    · subst e
      rw [if_neg fresh, if_pos (List.mem_cons_self ..), own (all i (List.mem_cons_self ..))]
    · rw [other s x (all x (List.mem_cons_self ..)) (Ne.symm e)]
      simp only [List.mem_cons, e, false_or]

/-- Registers of the lanes' blocks lie apart by lane or by offset. -/
theorem laneReg_ne {n m o o' : Nat} (ho : o < 0x1000) (ho' : o' < 0x1000) (h : m ≠ n ∨ o ≠ o') : Reg.laneBase n + o ≠ Reg.laneBase m + o' := by
  simp only [Reg.laneBase]
  omega

theorem laneReg_not_state {n m o : Nat} (ho : o < 0x1000) (h : m ≠ n ∨ (o ≠ 0x4 ∧ o ≠ 0x28)) : Reg.laneBase n + o ∉ stateRegs m := by
  simp only [stateRegs, Reg.LX_LANE_STATUS, Reg.LX_PRBS_STATUS, Reg.laneBase, Reg.CKG_STATUS, Reg.CKG_REF_EVENTS, List.mem_cons,
    List.not_mem_nil, or_false]
  omega

/-- Fields of one register lie apart by their bits. -/
theorem fields_apart {a lo w lo' w' : Nat} (h : (decide (lo + w ≤ 32) && (decide (lo + w ≤ lo') || decide (lo' + w' ≤ lo))) = true) :
    (⟨a, lo, w⟩ : Fld).apart ⟨a, lo', w'⟩ = true := by
  rw [Fld.apart, bne_self_eq_false, Bool.false_or]
  exact h

/-- What the audit knows of a lane. -/
def Audit.lane (a : Audit) (n : Nat) : AuditLane := Tbl.get (fun _ => AuditLane.zero) a.lanes n

theorem Audit.lane_of {a b : Audit} {n : Nat} {g : AuditLane → AuditLane} (h : b.lanes = Tbl.upd (fun _ => AuditLane.zero) a.lanes n g) :
    b.lane n = g (a.lane n) := by
  rw [Audit.lane, h]
  exact Tbl.get_set_same _ _ _

theorem Audit.lane_of_other {a b : Audit} {m : Nat} {g : AuditLane → AuditLane} (h : b.lanes = Tbl.upd (fun _ => AuditLane.zero) a.lanes m g) {n : Nat}
    (ne : n ≠ m) : b.lane n = a.lane n := by
  rw [Audit.lane, h]
  exact Tbl.get_set_other _ _ ne

section
variable {s : State} {a : Audit}

theorem State.setAudit_audit (a : Option Audit) : (s.setAudit a).sv.audit = a := by
  cases a with
  | none => simp only [State.setAudit, State.setB_sv]
  | some a => simp only [State.setAudit, State.setF_sv, State.setB_sv]

theorem State.f_setAudit (a : Option Audit) {y : Fld} (h : y.addr ≠ Reg.SV_STATUS) : (s.setAudit a).f y = s.f y := by
  cases a with
  | none => exact State.f_setB_other _ _ h
  | some a => exact (State.f_setF_other _ _ h).trans (State.f_setB_other _ _ h)

/-! ## A part starts (R262, R265, R266) -/

theorem State.auditPartStart_due (plan : s.sv.audit = some a) (idle : a.running = false) {k : Nat} (head : a.left.head? = some k)
    (due : if a.begun then s.mfN % 8 = 0 else a.startMf ≤ s.mfN) : s.auditPartStart = s.startPart a := by
  unfold State.auditPartStart
  rw [plan]
  refine if_pos ⟨idle, fun none_ => ?_, due⟩
  rw [none_] at head
  cases head

/-- The audit as its part runs. -/
def Audit.runs (a : Audit) (m : Nat) : Audit := { a with running := true, begun := true, partMf := m }

/-- A margin check that runs yields to the audit's scan (R265). -/
def State.yieldSampler (s : State) (n : Nat) : State :=
  if s.flag (Reg.LX_EYE_STATUS_HW_ACTIVE n) then (s.setB (Reg.LX_EYE_STATUS_HW_ACTIVE n) false).setB (Reg.LX_EYE_STATUS_BUSY n) false else s

theorem State.startPart_eyes (head : a.left.head? = some 1) :
    s.startPart a = (List.range 192).foldl State.yieldSampler (s.setAudit (some (a.runs s.mfN))) := by
  obtain ⟨rest, left⟩ := List.head?_eq_some_iff.mp head
  cases a
  subst left
  rfl

theorem State.yieldSampler_own (n : Nat) : (s.yieldSampler n).flag (Reg.LX_EYE_STATUS_HW_ACTIVE n) = false := by
  unfold State.yieldSampler
  split
  · exact (State.flag_setB_apart (x := Reg.LX_EYE_STATUS_BUSY n) (y := Reg.LX_EYE_STATUS_HW_ACTIVE n) _ _ (fields_apart rfl)).trans
      (State.flag_setB_same _ _ rfl rfl)
  · exact Bool.eq_false_iff.mpr ‹_›

theorem State.yieldSampler_other {n m : Nat} (h : m ≠ n) :
    (s.yieldSampler m).flag (Reg.LX_EYE_STATUS_HW_ACTIVE n) = s.flag (Reg.LX_EYE_STATUS_HW_ACTIVE n) := by
  have ne : Reg.LX_EYE_STATUS n ≠ Reg.LX_EYE_STATUS m := laneReg_ne (by decide) (by decide) (.inl h)
  unfold State.yieldSampler
  split
  · rw [State.flag_setB_other _ _ ne, State.flag_setB_other _ _ ne]
  · rfl

theorem State.yieldSampler_sv (n : Nat) : (s.yieldSampler n).sv = s.sv := by
  unfold State.yieldSampler
  split
  · rw [State.setB_sv, State.setB_sv]
  · rfl

/-! ## Spare lanes under test (R266) -/

/-- The pattern tester of a spare lane starts. -/
def State.startSpare (s : State) (n : Nat) : State :=
  let s := ((s.setLane n Ls.test).setB (Reg.LX_PRBS_CTRL_GEN_EN n) true).setB (Reg.LX_PRBS_CTRL_CHK_EN n) true
  ((s.setB (Reg.LX_PRBS_CTRL_POLY n) true).setB (Reg.LX_PRBS_STATUS_LOCKED n) false).setF (Reg.LX_PRBS_ERRORS_COUNT n) 0

/-- The lanes that may be tested. -/
def State.sparesNow (s : State) : List Nat :=
  (List.range 192).filter (fun n => s.f (Reg.LX_LANE_CTRL_EN n) == 0 && s.laneState n == 0 && s.testAllowed n && !s.miodelLane n)

theorem State.startPart_spares (head : a.left.head? = some 2) : ∃ b, s.startPart a = ((s.sparesNow).foldl State.startSpare s).setAudit (some b) := by
  obtain ⟨rest, left⟩ := List.head?_eq_some_iff.mp head
  cases a
  subst left
  exact ⟨_, rfl⟩

/-- What a test reads and writes of a lane. -/
def State.testView (s : State) (n : Nat) : Nat × Bool × Bool := (s.laneState n, s.flag (Reg.LX_PRBS_CTRL_GEN_EN n), s.flag (Reg.LX_PRBS_CTRL_CHK_EN n))

theorem State.testView_of {t : State} {n : Nat} (state : t.laneState n = s.laneState n) (gen : t.flag (Reg.LX_PRBS_CTRL_GEN_EN n) = s.flag (Reg.LX_PRBS_CTRL_GEN_EN n))
    (chk : t.flag (Reg.LX_PRBS_CTRL_CHK_EN n) = s.flag (Reg.LX_PRBS_CTRL_CHK_EN n)) : t.testView n = s.testView n := by
  rw [State.testView, state, gen, chk, State.testView]

theorem State.startSpare_own (n : Nat) : (s.startSpare n).testView n = (Ls.test, true, true) := by
  have state (o : Nat) (ho : o < 0x1000) (h4 : o ≠ 4) : Reg.LX_LANE_STATUS n ≠ Reg.laneBase n + o := laneReg_ne (by decide) ho (.inr (Ne.symm h4))
  have ctrl (o : Nat) (ho : o < 0x1000) (h : o ≠ 0x24) : Reg.LX_PRBS_CTRL n ≠ Reg.laneBase n + o := laneReg_ne (by decide) ho (.inr (Ne.symm h))
  have lane : (s.startSpare n).laneState n = (s.setLane n Ls.test).laneState n := by
    unfold State.startSpare State.laneState
    rw [State.f_setF_other _ _ (state 0x2c (by decide) (by decide)), State.f_setB_other _ _ (state 0x28 (by decide) (by decide)),
      State.f_setB_other _ _ (state 0x24 (by decide) (by decide)), State.f_setB_other _ _ (state 0x24 (by decide) (by decide)),
      State.f_setB_other _ _ (state 0x24 (by decide) (by decide))]
  have test (x : Fld) (hx : x.addr = Reg.LX_PRBS_CTRL n) (poly : (Reg.LX_PRBS_CTRL_POLY n).apart x = true) : (s.startSpare n).flag x =
      (((s.setLane n Ls.test).setB (Reg.LX_PRBS_CTRL_GEN_EN n) true).setB (Reg.LX_PRBS_CTRL_CHK_EN n) true).flag x := by
    unfold State.startSpare
    rw [State.flag_setF_other _ _ (hx ▸ ctrl 0x2c (by decide) (by decide)), State.flag_setB_other _ _ (hx ▸ ctrl 0x28 (by decide) (by decide)),
      State.flag_setB_apart _ _ poly]
  have gen : (s.startSpare n).flag (Reg.LX_PRBS_CTRL_GEN_EN n) = true := by
    rw [test (Reg.LX_PRBS_CTRL_GEN_EN n) rfl (fields_apart rfl),
      State.flag_setB_apart _ _ (show (Reg.LX_PRBS_CTRL_CHK_EN n).apart (Reg.LX_PRBS_CTRL_GEN_EN n) = true from fields_apart rfl)]
    exact State.flag_setB_same _ _ rfl rfl
  have chk : (s.startSpare n).flag (Reg.LX_PRBS_CTRL_CHK_EN n) = true := by
    rw [test (Reg.LX_PRBS_CTRL_CHK_EN n) rfl (fields_apart rfl)]
    exact State.flag_setB_same _ _ rfl rfl
  rw [State.testView, lane, State.laneState_setLane _ _ (by decide), gen, chk]

theorem State.startSpare_other {n m : Nat} (h : m ≠ n) : (s.startSpare m).testView n = s.testView n := by
  have kept (o : Nat) (ho : o < 0x1000) (x : Fld) (hx : x.addr = Reg.laneBase n + o) : (s.startSpare m).f x = s.f x := by
    have ne (o' : Nat) (ho' : o' < 0x1000) : x.addr ≠ Reg.laneBase m + o' := by rw [hx]; exact laneReg_ne ho ho' (.inl h)
    unfold State.startSpare
    rw [State.f_setF_other _ _ (ne 0x2c (by decide)), State.f_setB_other _ _ (ne 0x28 (by decide)), State.f_setB_other _ _ (ne 0x24 (by decide)),
      State.f_setB_other _ _ (ne 0x24 (by decide)), State.f_setB_other _ _ (ne 0x24 (by decide))]
    exact State.f_setLane _ _ _ (by rw [hx]; exact laneReg_not_state ho (.inl h))
  exact State.testView_of (kept 4 (by decide) _ rfl) (congrArg (· == 1) (kept 0x24 (by decide) _ rfl)) (congrArg (· == 1) (kept 0x24 (by decide) _ rfl))

/-! ## Spare lanes whose test is over -/

/-- One spare lane's test ends: its errors are counted, and its record names what the checker found. -/
def State.spareOver (x : State × Audit) (n : Nat) : State × Audit :=
  let s := (x.1.prbsErrors n (Config.freeChoice x.1.free)).fresh
  let e := s.f (Reg.LX_PRBS_ERRORS_COUNT n)
  (s.endSpare n, { x.2 with
    lanes := Tbl.upd (fun _ => AuditLane.zero) x.2.lanes n (fun l => { l with kind := if (x.2.lane n).locked then 2 else 6, errors := e })
    spareErr := x.2.spareErr + b2n ((x.2.lane n).locked && e != 0) })

theorem State.auditPrbsEnd_due (plan : s.sv.audit = some a) (runs : a.running = true) (head : a.left.head? = some 2) (late : a.partMf + 80000 ≤ s.mfN) :
    s.auditPrbsEnd = ((s.sparesOn a).foldl State.spareOver (s, a)).1.endPart ((s.sparesOn a).foldl State.spareOver (s, a)).2 := by
  unfold State.auditPrbsEnd
  rw [plan]
  exact if_pos ⟨runs, head, late⟩

theorem State.auditPrbsEnd_early (plan : s.sv.audit = some a) (early : s.mfN < a.partMf + 80000) : s.auditPrbsEnd = s := by
  unfold State.auditPrbsEnd
  rw [plan]
  exact if_neg fun met => absurd met.2.2 (Nat.not_le.mpr early)

/-- What the end of a test reads and writes of a lane. -/
def spareView (n : Nat) (x : State × Audit) : Nat × Nat × Bool := (x.1.laneState n, (x.2.lane n).kind, (x.2.lane n).locked)

theorem State.spareOver_own (n : Nat) (x : State × Audit) :
    spareView n (State.spareOver x n) = (Ls.disabled, if (spareView n x).2.2 then 2 else 6, (spareView n x).2.2) := by
  have state : (State.spareOver x n).1.laneState n = Ls.disabled := State.laneState_quietLane n
  have record : (State.spareOver x n).2.lane n = { x.2.lane n with kind := if (x.2.lane n).locked then 2 else 6
                                                                   errors := ((x.1.prbsErrors n (Config.freeChoice x.1.free)).fresh).f (Reg.LX_PRBS_ERRORS_COUNT n) } :=
    Tbl.get_set_same _ _ _
  rw [spareView, state, record]
  rfl

theorem State.laneState_prbsErrors (m n k : Nat) : (s.prbsErrors m k).laneState n = s.laneState n := by
  unfold State.prbsErrors
  split
  · exact State.f_bump_other _ _ (laneReg_ne (by decide) (by decide) (.inr (by decide)))
  · rfl

theorem State.spareOver_other {n m : Nat} (h : m ≠ n) (x : State × Audit) : spareView n (State.spareOver x m) = spareView n x := by
  have state : (State.spareOver x m).1.laneState n = x.1.laneState n := by
    have ne : Reg.LX_LANE_STATUS n ≠ Reg.LX_PRBS_CTRL m := laneReg_ne (by decide) (by decide) (.inl h)
    refine (State.laneState_quietLane_other h.symm).trans ?_
    rw [State.laneState, State.f_setB_other _ _ ne, State.f_setB_other _ _ ne]
    exact State.laneState_prbsErrors m n _
  have record : (State.spareOver x m).2.lane n = x.2.lane n := Tbl.get_set_other _ _ h.symm
  rw [spareView, state, record, spareView]

theorem State.spareOver_left (l : List Nat) (x : State × Audit) : (l.foldl State.spareOver x).2.left = x.2.left := by
  induction l generalizing x with
  | nil => rfl
  | cons n l ih => exact ih _

/-! ## The eyes (R265) -/

/-- The step of AUDIT_EYE_COMPLETE for one lane. -/
def State.eyeStep (grids : List EyeGrid) (x : State × Audit) (n : Nat) : State × Audit := x.1.auditEyeLane x.2 (gridOf grids (Fin.ofNat 192 n))

theorem State.auditEyeComplete_runs (plan : s.sv.audit = some a) (runs : a.running = true) (head : a.left.head? = some 1) (grids : List EyeGrid) :
    s.auditEyeComplete grids =
      ((List.range 192).foldl (State.eyeStep grids) (s, a)).1.endPart ((List.range 192).foldl (State.eyeStep grids) (s, a)).2 := by
  unfold State.auditEyeComplete
  rw [plan]
  exact if_pos ⟨runs, head⟩

theorem gridOf_lane (grids : List EyeGrid) (n : Fin 192) : (gridOf grids n).lane = n := by
  unfold gridOf
  cases found : grids.find? (fun g => g.lane == n) with
  | none => rfl
  | some g =>
    have same := List.find?_some found
    exact eq_of_beq same

/-- What a scan of a lane reads. -/
def State.eyeRead (s : State) (n : Nat) : Nat × Bool × (Margins → Nat) := (s.laneState n, s.flag (Reg.LX_EYE_CTRL_SW_OWN n), s.gradeOf n)

theorem State.eyeRead_of {t : State} {n : Nat} (state : t.laneState n = s.laneState n) (lane : t.lane n = s.lane n)
    (kept : ∀ o < 0x1000, o ≠ 4 → ∀ x : Fld, x.addr = Reg.laneBase n + o → t.f x = s.f x) : t.eyeRead n = s.eyeRead n := by
  have own : t.flag (Reg.LX_EYE_CTRL_SW_OWN n) = s.flag (Reg.LX_EYE_CTRL_SW_OWN n) := congrArg (· == 1) (kept 0x18 (by decide) (by decide) _ rfl)
  have grade : t.gradeOf n = s.gradeOf n := by
    funext m
    have h := kept 0x10 (by decide) (by decide) (Reg.LX_MARGIN_THR_H n) rfl
    have v := kept 0x10 (by decide) (by decide) (Reg.LX_MARGIN_THR_V n) rfl
    have meets (k : Nat) : t.marginsMeet n k m = s.marginsMeet n k m := by simp only [State.marginsMeet, h, v]
    unfold State.gradeOf
    rw [state, lane, meets, meets]
  rw [State.eyeRead, state, own, grade, State.eyeRead]

theorem State.setGrade_state (n g : Nat) (m : Margins) : (s.setGrade n g m).laneState n = s.laneState n := by
  rw [State.setGrade_eq]
  split
  · rfl
  · exact (State.logged_f _ _ _).trans ((State.f_setB_apart _ _ (show (Reg.LX_LANE_STATUS_GRADE_CHANGED n).apart (Reg.LX_LANE_STATUS_STATE n) = true
      from fields_apart rfl)).trans (State.f_setF_apart _ _ (fields_apart rfl)))

theorem State.setGrade_lane (n g i : Nat) (m : Margins) : (s.setGrade n g m).lane i = s.lane i := by
  rw [State.lane, State.setGrade_lanes, State.lane]

/-- Fields of other registers of the lanes keep through a change of grade. -/
theorem State.setGrade_other (n g : Nat) (m : Margins) {i o : Nat} (ho : o < 0x1000) (h : n ≠ i ∨ o ≠ 4) {y : Fld} (hy : y.addr = Reg.laneBase i + o) :
    (s.setGrade n g m).f y = s.f y := by
  have ne : y.addr ≠ Reg.LX_LANE_STATUS n := by rw [hy]; exact laneReg_ne ho (by decide) h
  exact State.f_setGrade _ n g m ne

theorem State.setGrade_read (n g : Nat) (m : Margins) (i : Nat) : (s.setGrade n g m).eyeRead i = s.eyeRead i := by
  refine State.eyeRead_of ?_ (State.setGrade_lane n g i m) fun o ho h4 y hy => State.setGrade_other n g m ho (.inr h4) hy
  by_cases e : n = i
  · subst e
    exact State.setGrade_state n g m
  · exact State.setGrade_other n g m (o := 4) (by decide) (.inl e) rfl

/-- The record of a lane whose sampler software has. -/
def AuditLane.owned (l : AuditLane) : AuditLane := { l with kind := 8 }

/-- The record of a lane that has been scanned. -/
def AuditLane.graded (g : EyeGrid) (l : AuditLane) : AuditLane := { l with kind := 1, m := gridMargins g, openPoints := gridPoints g }

/-- What a scan leaves of a lane: its grade and its record. -/
def scanned (v : Nat × Bool × (Margins → Nat)) (g : EyeGrid) (x : Nat × AuditLane) : Nat × AuditLane :=
  if v.1 ≠ 3 then x else if v.2.1 then (x.1, x.2.owned)
  else (v.2.2 (gridMargins g), x.2.graded g)

/-- All that a scan reads and writes of a lane. -/
def eyeView (n : Nat) (x : State × Audit) : (Nat × Bool × (Margins → Nat)) × Nat × AuditLane :=
  (x.1.eyeRead n, x.1.f (Reg.LX_LANE_STATUS_GRADE n), x.2.lane n)

theorem eyeView_of {n : Nat} {x : State × Audit} {r : Nat × Bool × (Margins → Nat)} {g : Nat} {l : AuditLane} (read : x.1.eyeRead n = r)
    (grade : x.1.f (Reg.LX_LANE_STATUS_GRADE n) = g) (lane : x.2.lane n = l) : eyeView n x = (r, g, l) := by
  rw [eyeView, read, grade, lane]

/-- What the step of a lane answers, by the lane's state and its sampler. -/
theorem State.eyeStep_eq (grids : List EyeGrid) (x : State × Audit) {n : Nat} (hn : n < 192) : State.eyeStep grids x n =
    let g := gridOf grids (Fin.ofNat 192 n)
    if x.1.laneState n ≠ 3 then x
    else if x.1.flag (Reg.LX_EYE_CTRL_SW_OWN n) then
      (x.1, { x.2 with lanes := Tbl.upd (fun _ => AuditLane.zero) x.2.lanes n AuditLane.owned })
    else (x.1.setGrade n (x.1.gradeOf n (gridMargins g)) (gridMargins g), { x.2 with
      lanes := Tbl.upd (fun _ => AuditLane.zero) x.2.lanes n (AuditLane.graded g)
      scanned := x.2.scanned + 1
      below := x.2.below + b2n (!(x.1.setGrade n (x.1.gradeOf n (gridMargins g)) (gridMargins g)).marginsMeet n 1 (gridMargins g)) }) := by
  have lane : (gridOf grids (Fin.ofNat 192 n)).lane.val = n := by
    rw [gridOf_lane]
    exact Nat.mod_eq_of_lt hn
  unfold State.eyeStep State.auditEyeLane
  dsimp only
  rw [lane]
  rfl

theorem State.eyeStep_own (grids : List EyeGrid) {n : Nat} (hn : n < 192) (x : State × Audit) : eyeView n (State.eyeStep grids x n) =
    ((eyeView n x).1, scanned (eyeView n x).1 (gridOf grids (Fin.ofNat 192 n)) (eyeView n x).2) := by
  rw [State.eyeStep_eq grids x hn]
  dsimp only
  by_cases up : x.1.laneState n ≠ 3
  · rw [if_pos up, scanned, if_pos (show (eyeView n x).1.1 ≠ 3 from up)]
  rw [if_neg up, scanned, if_neg (show ¬(eyeView n x).1.1 ≠ 3 from up)]
  by_cases own : x.1.flag (Reg.LX_EYE_CTRL_SW_OWN n) = true
  · rw [if_pos own, if_pos (show (eyeView n x).1.2.1 = true from own)]
    exact eyeView_of rfl rfl (Audit.lane_of (a := x.2) rfl)
  · rw [if_neg own, if_neg (show ¬(eyeView n x).1.2.1 = true from own)]
    exact eyeView_of (State.setGrade_read n _ _ n) (State.grade_setGrade _ n _ (x.1.gradeOf_lt n _) _) (Audit.lane_of (a := x.2) rfl)

theorem State.eyeStep_other (grids : List EyeGrid) {n m : Nat} (hm : m < 192) (h : m ≠ n) (x : State × Audit) :
    eyeView n (State.eyeStep grids x m) = eyeView n x := by
  rw [State.eyeStep_eq grids x hm]
  dsimp only
  split
  · rfl
  split
  · exact eyeView_of rfl rfl (Audit.lane_of_other (a := x.2) (g := AuditLane.owned) rfl h.symm)
  · exact eyeView_of (State.setGrade_read m _ _ n) (State.setGrade_other m _ _ (o := 4) (by decide) (.inl h) rfl)
      (Audit.lane_of_other (a := x.2) (g := AuditLane.graded _) rfl h.symm)

/-- A lane is scanned: it is UP, and software has not taken its sampler. -/
def State.scans (s : State) (n : Nat) : Bool := s.laneState n == Ls.up && !s.flag (Reg.LX_EYE_CTRL_SW_OWN n)

theorem State.eyeStep_read (grids : List EyeGrid) (x : State × Audit) {n : Nat} (hn : n < 192) (i : Nat) :
    (State.eyeStep grids x n).1.eyeRead i = x.1.eyeRead i := by
  rw [State.eyeStep_eq grids x hn]
  dsimp only
  split
  · rfl
  split
  · rfl
  · exact State.setGrade_read n _ _ i

/-- The fold keeps the parts that are left, and counts the lanes that are scanned. -/
theorem State.eyeFold_counts (grids : List EyeGrid) (l : List Nat) (all : ∀ n ∈ l, n < 192) (x : State × Audit) :
    (l.foldl (State.eyeStep grids) x).2.left = x.2.left ∧
    (l.foldl (State.eyeStep grids) x).2.scanned = x.2.scanned + (l.filter x.1.scans).length := by
  induction l generalizing x with
  | nil => exact ⟨rfl, rfl⟩
  | cons n l ih =>
    have hn := all n (List.mem_cons_self ..)
    obtain ⟨left, count⟩ := ih (fun m hm => all m (.tail _ hm)) (State.eyeStep grids x n)
    have same : (State.eyeStep grids x n).1.scans = x.1.scans := by
      funext i
      have read := State.eyeStep_read grids x hn i
      rw [State.scans, show (State.eyeStep grids x n).1.laneState i = _ from congrArg (·.1) read,
        show (State.eyeStep grids x n).1.flag (Reg.LX_EYE_CTRL_SW_OWN i) = _ from congrArg (·.2.1) read]
      rfl
    rw [List.foldl_cons, left, count, same, List.filter_cons, State.eyeStep_eq grids x hn]
    dsimp only
    by_cases up : x.1.laneState n ≠ 3
    · rw [if_pos up, if_neg (by simpa [State.scans, Ls.up] using fun h => absurd h up)]
      exact ⟨rfl, rfl⟩
    rw [if_neg up]
    have live : x.1.laneState n = Ls.up := Decidable.of_not_not up
    by_cases own : x.1.flag (Reg.LX_EYE_CTRL_SW_OWN n) = true
    · rw [if_pos own, if_neg (by simp [State.scans, own])]
      exact ⟨rfl, rfl⟩
    · rw [if_neg own, if_pos (by simp [State.scans, live, own])]
      refine ⟨rfl, ?_⟩
      rw [List.length_cons]
      change x.2.scanned + 1 + _ = _
      omega

/-! ## Paths that run alone (R267) -/

theorem State.twillSwapPhase_runs (plan : s.sv.audit = some a) (runs : a.running = true) (head : a.left.head? = some 3) : s.twillSwapPhase =
    match a.hub with
    | none => (match a.hubsLeft with
      | [] => s
      | h :: rest =>
        if s.mfN % 8 = 0 ∧ (a.f = 0 ∨ a.f + 144 ≤ s.mfN) then
          let mar (i : Nat) : Nat := match (s.dev h).bind (fun d => hubPath d i) with
            | some p => s.marginOf p.root
            | none => 0
          let r : AuditHub := ⟨h, 0, 0, 0, 0, mar 0, mar 1⟩
          let a := { a with hubsLeft := rest, f := s.mfN }
          if (s.subInputs h).isEmpty then
            let a := { a with hubs := a.hubs ++ [{ r with res0 := 3, res1 := 3 }], f := 0 }
            if rest.isEmpty then s.endPart a else s.setAudit (some a)
          else s.setAudit (some (s.beginAlone { a with phase := 1 } r 0))
        else s)
    | some r =>
      if a.phase = 1 ∧ a.f + 64 ≤ s.mfN then s.setAudit (some { a with alone := none, phase := 2 })
      else if a.phase = 2 ∧ a.f + 72 ≤ s.mfN then s.setAudit (some (s.beginAlone { a with phase := 3 } r 1))
      else if a.phase = 3 ∧ a.f + 136 ≤ s.mfN then s.setAudit (some { a with alone := none, phase := 4 })
      else if a.phase = 4 ∧ a.f + 137 ≤ s.mfN then s.closeHub a r
      else s := by
  unfold State.twillSwapPhase
  rw [plan]
  exact if_pos ⟨runs, head⟩

theorem State.twillSwapPhase_hub (plan : s.sv.audit = some a) (runs : a.running = true) (head : a.left.head? = some 3) {r : AuditHub} (hub : a.hub = some r) :
    s.twillSwapPhase =
      if a.phase = 1 ∧ a.f + 64 ≤ s.mfN then s.setAudit (some { a with alone := none, phase := 2 })
      else if a.phase = 2 ∧ a.f + 72 ≤ s.mfN then s.setAudit (some (s.beginAlone { a with phase := 3 } r 1))
      else if a.phase = 3 ∧ a.f + 136 ≤ s.mfN then s.setAudit (some { a with alone := none, phase := 4 })
      else if a.phase = 4 ∧ a.f + 137 ≤ s.mfN then s.closeHub a r
      else s := by
  rw [State.twillSwapPhase_runs plan runs head, hub]

/-- A phase that the hub is not in does not end. -/
theorem not_phase {k j m n : Nat} (phase : k = j) {i : Nat} (h : j ≠ i) : ¬(k = i ∧ m ≤ n) := fun met => h (phase.symm.trans met.1)

theorem State.closeHub_next (r : AuditHub) {h : Nat} {rest : List Nat} (hubs : a.hubsLeft = h :: rest) : (s.closeHub a r).sv.audit =
    some { a with hub := none, phase := 0, alone := none, rejoin := none, hubs := a.hubs ++ [r] } := by
  unfold State.closeHub
  extract_lets b
  rw [if_neg (show ¬b.hubsLeft.isEmpty = true by rw [show b.hubsLeft = h :: rest from hubs]; exact Bool.false_ne_true)]
  exact State.setAudit_audit _

end

/-- Settles O19: a part that starts, each lane of the eyes and of the spare lanes by its own step of the fold, and the phases of a hub. -/
theorem nightAuditRunsItsParts : Obligations.NightAuditRunsItsParts := by
  unfold Obligations.NightAuditRunsItsParts
  intro s a plan
  refine ⟨fun idle due => ⟨fun head => ?_, fun head => ?_⟩, fun runs head grids => ?_, fun _ _ early => ?_, fun runs head late => ?_,
    fun runs head => ⟨fun h rest none_ hubs mark free inputs => ?_, fun r hub phase late => ?_, fun r hub phase late => ?_,
      fun r hub phase late => ?_, fun r h rest hub phase late hubs => ?_⟩⟩
  · refine answers_eq rfl ((State.auditPartStart_due plan idle head due).trans (State.startPart_eyes head)) ⟨?_, fun n hn => ?_⟩
    · rw [State.foldl_eq (p := State.sv) (fun t n => t.yieldSampler_sv n)]
      exact State.setAudit_audit _
    · rw [foldl_local (rd := fun t : State => t.flag (Reg.LX_EYE_STATUS_HW_ACTIVE n)) (h := fun _ => false) (ok := fun _ => True)
        (fun _ t => t.yieldSampler_own n) (fun t m _ ne => t.yieldSampler_other ne) _ List.nodup_range (fun _ _ => trivial),
        if_pos (List.mem_range.mpr hn)]
  · obtain ⟨b, spares⟩ := State.startPart_spares (s := s) head
    refine answers_eq rfl ((State.auditPartStart_due plan idle head due).trans spares) fun n hn off disabled allowed other => ?_
    have mem : n ∈ s.sparesNow := List.mem_filter.mpr ⟨List.mem_range.mpr hn, by rw [off, disabled, allowed, other]; rfl⟩
    have view := foldl_local (rd := fun t : State => t.testView n) (h := fun _ => (Ls.test, true, true)) (ok := fun _ => True)
      (fun _ t => t.startSpare_own n) (fun t m _ ne => t.startSpare_other ne) s.sparesNow (List.nodup_range.filter _) (fun _ _ => trivial) s
    rw [if_pos mem] at view
    have apart (o : Nat) (ho : o < 0x1000) : Reg.laneBase n + o ≠ Reg.SV_STATUS := by
      simp only [Reg.laneBase, Reg.SV_STATUS]
      omega
    have kept (o : Nat) (ho : o < 0x1000) (x : Fld) (hx : x.addr = Reg.laneBase n + o) :
        ((s.sparesNow.foldl State.startSpare s).setAudit (some b)).f x = (s.sparesNow.foldl State.startSpare s).f x :=
      State.f_setAudit _ (by rw [hx]; exact apart o ho)
    have same := State.testView_of (kept 4 (by decide) _ rfl) (congrArg (· == 1) (kept 0x24 (by decide) (Reg.LX_PRBS_CTRL_GEN_EN n) rfl))
      (congrArg (· == 1) (kept 0x24 (by decide) (Reg.LX_PRBS_CTRL_CHK_EN n) rfl))
    have test := same.trans view
    exact ⟨congrArg (·.1) test, congrArg (·.2.1) test, congrArg (·.2.2) test⟩
  · refine answers_eq rfl (State.auditEyeComplete_runs plan runs head grids) ?_
    obtain ⟨left, count⟩ := State.eyeFold_counts grids (List.range 192) (fun n hn => List.mem_range.mp hn) (s, a)
    refine ⟨_, _, rfl, left, count, fun n up => ?_⟩
    have view := foldl_local (rd := eyeView n.val) (h := fun v => (v.1, scanned v.1 (gridOf grids n) v.2)) (ok := fun m => m < 192)
      (fun hn x => by rw [State.eyeStep_own grids hn, show Fin.ofNat 192 n.val = n from Fin.ofNat_val_eq_self n])
      (fun x m hm ne => State.eyeStep_other grids hm ne x) (List.range 192) List.nodup_range (fun m hm => List.mem_range.mp hm) (s, a)
    rw [if_pos (List.mem_range.mpr n.isLt)] at view
    have grade := congrArg (fun v => v.2.1) view
    have lane := congrArg (fun v => v.2.2) view
    have live : ¬(eyeView n.val (s, a)).1.1 ≠ 3 := fun ne => ne up
    dsimp only at grade lane
    rw [scanned, if_neg live] at grade lane
    refine ⟨fun own => ?_, fun free => ?_⟩
    · rw [if_pos (show (eyeView n.val (s, a)).1.2.1 = true from own)] at lane
      exact congrArg AuditLane.kind lane
    · have free' : ¬(eyeView n.val (s, a)).1.2.1 = true := Bool.eq_false_iff.mp free
      rw [if_neg free'] at grade lane
      exact ⟨grade, lane⟩
  · exact answers_eq rfl (State.auditPrbsEnd_early plan early) rfl
  · refine answers_eq rfl (State.auditPrbsEnd_due plan runs head late) ⟨_, _, State.spareOver_left _ _, rfl, fun n mem => ?_⟩
    have view := foldl_local (rd := spareView n) (h := fun v => (Ls.disabled, if v.2.2 then 2 else 6, v.2.2)) (ok := fun _ => True)
      (fun _ x => State.spareOver_own n x) (fun x m _ ne => State.spareOver_other ne x) (s.sparesOn a) (List.nodup_range.filter _)
      (fun _ _ => trivial) (s, a)
    rw [if_pos mem] at view
    exact ⟨congrArg (fun v => v.1) view, congrArg (fun v => v.2.1) view⟩
  · have some_ : (s.subInputs h).isEmpty = false := by simpa using inputs
    refine answers_eq rfl (State.twillSwapPhase_runs plan runs head) ?_
    rw [none_, hubs]
    dsimp only
    rw [if_pos ⟨mark, free⟩, some_, if_neg Bool.false_ne_true]
    exact ⟨_, rfl, State.setAudit_audit _⟩
  · exact answers_eq (t := s.setAudit _) rfl ((State.twillSwapPhase_hub plan runs head hub).trans (if_pos ⟨phase, late⟩)) (State.setAudit_audit _)
  · exact answers_eq (t := s.setAudit _) rfl ((State.twillSwapPhase_hub plan runs head hub).trans
      ((if_neg (not_phase phase (by decide))).trans (if_pos ⟨phase, late⟩))) (State.setAudit_audit _)
  · exact answers_eq (t := s.setAudit _) rfl ((State.twillSwapPhase_hub plan runs head hub).trans
      ((if_neg (not_phase phase (by decide))).trans ((if_neg (not_phase phase (by decide))).trans (if_pos ⟨phase, late⟩)))) (State.setAudit_audit _)
  · exact answers_eq (t := s.closeHub a r) rfl ((State.twillSwapPhase_hub plan runs head hub).trans
      ((if_neg (not_phase phase (by decide))).trans ((if_neg (not_phase phase (by decide))).trans
        ((if_neg (not_phase phase (by decide))).trans (if_pos ⟨phase, late⟩))))) (State.closeHub_next r hubs)

end Sys2Proof.Machine

namespace Sys2Proof.Machine

/-! # Accesses of registers (R7 to R9, R322, R330, R331, R343) -/

/-! ## Writes -/

section
variable {s : State}

/-- Before CONFIG_READY, and with byte enables that do not cover the register, a write changes nothing (R7, R332). -/
theorem State.registerWrite_ignored (a : Nat) (v : Word) {be : BitVec 4} (h : be ≠ 15 ∨ s.flag Reg.HIF_STATUS_CONFIG_READY = false) :
    s.registerWrite a v be.toNat = s := by
  refine if_pos ?_
  obtain h | h := h
  · exact .inr (.inl fun e => h (BitVec.eq_of_toNat_eq e))
  · exact .inr (.inr (by rw [h]; rfl))

section
variable (ready : s.flag Reg.HIF_STATUS_CONFIG_READY = true)
include ready

theorem State.registerWrite_bell {a : Nat} (v : Word) (aligned : a % 4 = 0) (h : doorbellBase ≤ a) :
    s.registerWrite a v 15 = s.bellWrite (a - doorbellBase) := by
  refine (if_neg ?_).trans (if_pos h)
  rw [ready, aligned]
  decide

/-- A write to a register without pair-checked bits (R288) is that of its block. -/
theorem State.registerWrite_unpaired {a : Nat} (v : Word) (aligned : a % 4 = 0) (low : a < doorbellBase) (free : pairMask a = 0) (own : holdsOwn a = false) :
    s.registerWrite a v 15 = s.pfWrite a (fun s => s.putBlock a v .request) := by
  refine (if_neg ?_).trans ((if_neg (Nat.not_le.mpr low)).trans (congrArg (s.pfWrite a) (funext fun t => ?_)))
  · rw [ready, aligned]
    decide
  · have held : t.pairHold a v = (t, v) := if_pos (.inl (by rw [free]; rfl))
    unfold State.putReg
    rw [own, held]
    rfl

end

/-- REGISTER_WRITE of a register that has a command of its own (R7). -/
theorem State.exec_registerWrite {a : Nat} {v : Word} {op : State → State} (ready : s.flag Reg.HIF_STATUS_CONFIG_READY = true) (aligned : a % 4 = 0)
    (low : a < doorbellBase) (free : pairMask a = 0) (own : holdsOwn a = false) (command : ∀ t : State, t.putBlock a v .request = op t) :
    exec (.registerWrite (BitVec.ofNat 25 a) v ⟨15, none, none⟩) s = .next (s.pfWrite a op) := by
  have addr : (BitVec.ofNat 25 a).toNat = a := by
    rw [doorbellBase] at low
    rw [BitVec.toNat_ofNat, Nat.mod_eq_of_lt (by omega)]
  refine congrArg Host.Outcome.next ?_
  change s.registerWrite (BitVec.ofNat 25 a).toNat v 15 = _
  rw [addr, State.registerWrite_unpaired ready v aligned low free own]
  exact congrArg (s.pfWrite a) (funext command)

/-- Both halves of a write of 64 bits that is served (R7). -/
theorem State.wideWrite_served {a : Nat} (v v2 : Word) (be2 : Nat) (aligned : a % 8 = 0) (serves : s.regServed a = true) :
    s.wideWrite a v 15 v2 be2 = (s.registerWrite a v 15).registerWrite (a + 4) v2 be2 := by
  refine (if_neg fun h => h aligned).trans (if_neg fun h => ?_)
  rw [serves] at h
  exact absurd h.2.2.1 (by decide)

/-- The register of the write that stands above a register of 64 bits. -/
theorem toNat_upper {a : BitVec 25} (aligned : a.toNat % 8 = 0) : (a + 4).toNat = a.toNat + 4 := by
  have := a.isLt
  rw [BitVec.toNat_add, show (4 : BitVec 25).toNat = 4 from rfl]
  omega

/-! ## Reads -/

/-- One register of PF BAR0 that is served. -/
theorem State.pfWord_served {a : Nat} (served : s.regServed a = true) (low : a < doorbellBase) : s.pfWord a = s.readReg a 0 := by
  unfold State.pfWord State.pfGated
  rw [if_neg (Nat.not_le.mpr low), served, if_neg (Nat.not_le.mpr low)]
  rfl

/-- A read of a register that is served (R7). -/
theorem State.registerRead_pf {a : Nat} (aligned : a % 4 = 0) (serves : s.pfServes a) (low : a < doorbellBase) :
    s.registerRead 0 a false = (s.readReg a 0).2.answer (s.readReg a 0).1 := by
  obtain ⟨ready, awake, served⟩ := serves
  unfold State.registerRead State.pfRead
  rw [if_neg (by rw [ready, if_neg Bool.false_ne_true, aligned]; decide), if_pos rfl, awake, if_neg Bool.false_ne_true, State.pfWord_served served low]
  rfl

theorem State.answer_spec (w : Word) : (s.answer w).out = .ans (.data (leBytes 4 w.toNat)) :: s.out ∧ (s.answer w).regs = s.regs := ⟨rfl, rfl⟩

/-- No register between TS and the lanes latches another one (R28). -/
theorem latching_none {a : Nat} (h : 0x7f0000 ≤ a) (h' : a < 0xa00000) : latching a = false := by
  have apart (b : Nat) (hb : b < 0x7f0000 ∨ 0xa00000 ≤ b) : (a == b) = false := by
    rw [beq_eq_false_iff_ne]
    omega
  unfold latching
  simp only [List.contains_cons, List.contains_nil, apart _ (show Reg.GLB_ERR_ADDR_LO < 0x7f0000 ∨ _ by decide),
    apart _ (show Reg.GLB_ERR_MF_LO < 0x7f0000 ∨ _ by decide), apart _ (show Reg.PMU_WAKE_MF_LO < 0x7f0000 ∨ _ by decide),
    apart _ (show Reg.HIF_WAKE_MF_LO < 0x7f0000 ∨ _ by decide), apart _ (show Reg.TS_COMMIT_MF_LO < 0x7f0000 ∨ _ by decide),
    apart _ (show Reg.MRE_SWAP_MF_LO < 0x7f0000 ∨ _ by decide), apart _ (show Reg.GD_OBS_START_LO < 0x7f0000 ∨ _ by decide),
    apart _ (show Reg.SV_AUDIT_MF_LO < 0x7f0000 ∨ _ by decide), apart _ (show Reg.PU_DIVERGE_MF_LO < 0x7f0000 ∨ _ by decide),
    Bool.or_self, Bool.false_or]
  rw [decide_eq_false (by simp only [Reg.engineBase]; omega), Bool.false_and]

/-- A register of LNK or TM has neither a latch nor a value of its own: it reads what it holds, and its RC fields are cleared. -/
theorem State.readReg_plain {a : Nat} (block : a / 0x100000 = 9 ∨ a / 0x100000 = 8) (shown : s.hiddenPage a = false) :
    s.readReg a 0 = (s.reg a, s.clearRc a) := by
  have apart (b : Nat) (h : b / 0x100000 ≠ 8 ∧ b / 0x100000 ≠ 9) : a ≠ b := by rintro rfl; omega
  have value : s.regValue a = s.reg a := by
    unfold State.regValue
    rw [if_neg (apart _ (by decide)), if_neg (apart _ (by decide)), if_neg (apart _ (by decide)), if_neg (by simp only [msixTable]; omega),
      if_neg (by simp only [msixPba]; omega)]
  have latched : latchedHi a = false := by
    rw [latchedHi, latching_none (by omega) (by omega), Bool.and_false]
  unfold State.readReg
  dsimp only
  rw [shown, if_neg Bool.false_ne_true, if_neg (apart _ (by decide)), if_neg (apart _ (by decide)), if_neg (apart _ (by decide)),
    if_neg (apart _ (by decide)), if_neg (apart _ (by decide)), latched, if_neg Bool.false_ne_true,
    latching_none (by omega) (by omega), if_neg Bool.false_ne_true, value]

theorem afterRead_none {r : RegSpec} (h : r.rc = 0) (v : Word) : afterRead r v = v := by
  rw [afterRead, h]
  exact BitVec.and_allOnes

theorem State.clearRc_spec (a : Nat) (h : a ≠ Reg.GD_RELEASE_USED) : s.regsBut [a] (s.clearRc a) ∧
    (s.clearRc a).out = s.out ∧ (s.clearRc a).reg a = (match regSpec a with
      | some r => afterRead r (s.reg a)
      | none => s.reg a) := by
  unfold State.clearRc
  cases regSpec a with
  | none => exact ⟨.refl _ s, rfl, rfl⟩
  | some r =>
    dsimp only
    by_cases none_ : r.rc = 0
    · rw [if_pos none_, afterRead_none none_]
      exact ⟨.refl _ s, rfl, rfl⟩
    · have plain : (a == Reg.GD_RELEASE_USED) = false := beq_eq_false_iff_ne.mpr h
      rw [if_neg none_, plain, State.when, if_neg Bool.false_ne_true]
      exact ⟨(State.regsBut.refl _ s).setReg _ (.head _), s.setReg_out a _, s.reg_setReg a _⟩

/-- A read of another register than LX_PRBS_ERRORS leaves the errors that are not counted yet (R94). -/
theorem State.prbsSeen_other {a : Nat} (low : a < 0xa00000) (errors : Nat) (wide : Bool) : s.prbsSeen a errors wide = s :=
  if_neg fun h => absurd h.1 (Nat.not_le.mpr low)

/-- Nothing of a read changes before CONFIG_READY, but for the errors that it would have found (R332). -/
theorem State.flag_prbsSeen (a errors : Nat) (wide : Bool) : (s.prbsSeen a errors wide).flag Reg.HIF_STATUS_CONFIG_READY = s.flag Reg.HIF_STATUS_CONFIG_READY := by
  unfold State.prbsSeen State.prbsErrors
  extract_lets n
  have ne : Reg.HIF_STATUS_CONFIG_READY.addr ≠ (Reg.LX_PRBS_ERRORS_COUNT n).addr := by
    simp only [Reg.HIF_STATUS_CONFIG_READY, Reg.HIF_STATUS, Reg.LX_PRBS_ERRORS_COUNT, Reg.LX_PRBS_ERRORS, Reg.laneBase]
    omega
  split
  · split
    · exact State.flag_bump_other _ _ ne
    · rfl
  · rfl

theorem State.registerRead_unready {f a : Nat} {wide : Bool} (unready : s.flag Reg.HIF_STATUS_CONFIG_READY = false) : s.registerRead f a wide = s :=
  if_pos (.inr (by rw [unready]; rfl))

theorem State.hiddenPage_low {a : Nat} (h : a < 0x900000) : s.hiddenPage a = false := by
  rw [State.hiddenPage, decide_eq_false (by simp only [Reg.lnkBase]; omega), Bool.false_and]

/-! ## The tick counter (R28) -/

/-- A read of TB_TICK_LO latches the upper half. -/
def State.tickLatched (s : State) : State := s.updFn 0 (fun r => { r with tickHi := BitVec.ofNat 32 (s.now / 2 ^ 32) })

theorem State.readReg_tick : s.readReg Reg.TB_TICK_LO 0 = (BitVec.ofNat 32 s.now, s.tickLatched) := by
  unfold State.readReg
  rw [State.hiddenPage_low (by decide), if_neg Bool.false_ne_true]
  exact if_pos rfl

theorem State.readReg_tickHi : s.readReg Reg.TB_TICK_HI 0 = ((s.fnRec 0).tickHi, s) := by
  unfold State.readReg
  rw [State.hiddenPage_low (by decide), if_neg Bool.false_ne_true, if_neg (by decide)]
  exact if_pos rfl

theorem State.tickLatched_rec : s.tickLatched.fnRec 0 = { s.fnRec 0 with tickHi := BitVec.ofNat 32 (s.now / 2 ^ 32) } := State.fnRec_updFn _ 0 _

/-- TB_TICK_HI is served where TB_TICK_LO is, and in the state that the read of the lower half leaves. -/
theorem State.serves_tickHi {t : State} (serves : s.pfServes Reg.TB_TICK_LO) (regs : t.regs = s.regs) (awake : (t.fnRec 0).d3hot = (s.fnRec 0).d3hot) :
    t.pfServes Reg.TB_TICK_HI := by
  obtain ⟨ready, up, served⟩ := serves
  refine ⟨(State.flag_of_regs regs _).trans ready, awake.trans up, ?_⟩
  have dormant : t.inDormant = s.inDormant := by rw [State.inDormant, State.f_of_regs regs, State.inDormant]
  have run : t.operational = s.operational := State.flag_of_regs regs _
  unfold State.regServed at served ⊢
  rw [dormant, run, State.flag_of_regs regs]
  by_cases low : s.inDormant = true
  · rw [if_pos low] at served
    exact absurd served (by decide)
  · rw [if_neg low] at served ⊢
    exact served

/-- Half of the tick counter as its bytes. -/
theorem State.now_lt : s.now < 2 ^ 64 := s.time.tick.isLt

theorem tickBytes_lo (n : Nat) : (BitVec.ofNat 32 n).toNat = n % 2 ^ 32 := BitVec.toNat_ofNat n 32

theorem State.tickHi_toNat : (BitVec.ofNat 32 (s.now / 2 ^ 32)).toNat = s.now / 2 ^ 32 := by
  have := s.now_lt
  rw [BitVec.toNat_ofNat, Nat.mod_eq_of_lt (by omega)]

theorem State.registerRead_tickWide (serves : s.pfServes Reg.TB_TICK_LO) :
    s.registerRead 0 Reg.TB_TICK_LO true = s.tickLatched.answerWide (BitVec.ofNat 32 s.now) (BitVec.ofNat 32 (s.now / 2 ^ 32)) := by
  have latched := State.serves_tickHi (t := s.tickLatched) serves rfl (by rw [State.tickLatched_rec])
  obtain ⟨ready, awake, served⟩ := serves
  have lo : s.pfWord Reg.TB_TICK_LO = (BitVec.ofNat 32 s.now, s.tickLatched) := (State.pfWord_served served (by decide)).trans State.readReg_tick
  have hi : s.tickLatched.pfWord (Reg.TB_TICK_LO + 4) = (BitVec.ofNat 32 (s.now / 2 ^ 32), s.tickLatched) := by
    refine (State.pfWord_served latched.2.2 (by decide)).trans (State.readReg_tickHi.trans ?_)
    rw [State.tickLatched_rec]
  have open_ : s.pfGated Reg.TB_TICK_LO = false := by
    rw [State.pfGated, if_neg (by decide), served]
    rfl
  unfold State.registerRead State.pfRead
  rw [if_neg (by rw [ready]; decide), if_pos rfl, awake, if_neg Bool.false_ne_true, lo, open_]
  simp only [Bool.not_true, Bool.false_and, Bool.false_eq_true, if_false]
  rw [hi]

/-! ## Reads of a VF, and TLPs that fail (R330, R331, R343, R436) -/

theorem State.registerRead_vf {v : Nat} (ready : s.flag Reg.HIF_STATUS_CONFIG_READY = true) (here : s.fnThere (v + 1) = true)
    (out_ : s.inReset (v + 1) = false) (awake : s.d3hot (v + 1) = false) (up : s.inDormant = false) (run : s.operational = true) :
    s.registerRead (v + 1) 0xA000 false = s.answer (s.vfStatus v) := by
  have word : s.vfWord (v + 1) 0xA000 = (s.vfStatus v, s) := by
    unfold State.vfWord
    rw [if_neg (by decide), if_neg (by decide), up, run, if_neg (by decide), if_pos rfl, Nat.add_sub_cancel]
  unfold State.registerRead State.vfRead
  rw [if_neg (by rw [ready]; decide), if_neg (Nat.succ_ne_zero v), here, out_, awake, show 0xA000 % 0x10000 = 0xA000 from rfl, word]
  rfl

/-- The errors that the host interface counts (R330, R331). -/
def State.counts (s : State) (n p : Nat) (t : State) : Prop := t.f Reg.HIF_ERR_COUNT_ECRC = min (s.f Reg.HIF_ERR_COUNT_ECRC + n) 65535 ∧
  t.f Reg.HIF_ERR_COUNT_POISONED = min (s.f Reg.HIF_ERR_COUNT_POISONED + p) 65535

theorem State.same_count (x : Fld) (h : x.w = 16) : s.f x = min (s.f x + 0) 65535 := by
  have small : s.f x < 2 ^ x.w := bits_lt _ _ _
  rw [h] at small
  omega

theorem State.aer_f (f code : Nat) (x : Fld) : (s.aer f code).f x = s.f x := State.updFn_f _ _ _ _
theorem State.aer_regs (f code : Nat) : (s.aer f code).regs = s.regs := State.updFn_regs _ _ _

theorem State.ecrcFail_spec (f : Nat) : s.regsBut [Reg.HIF_ERR_COUNT] (s.ecrcFail f) ∧ State.only [.regs, .fn] s (s.ecrcFail f) ∧
    s.counts 1 0 (s.ecrcFail f) ∧ ((s.ecrcFail f).fnRec f).aer.contains Aer.ecrc = true := by
  refine ⟨((State.regsBut.refl _ s).bump (x := Reg.HIF_ERR_COUNT_ECRC) 1 (.head _)).keep (State.aer_regs _ _),
    (State.ecrcFail_moves (l_ := [.regs, .fn]) (.refl _ s) (by decide)).only, ⟨?_, ?_⟩, State.aer_contains _ f Aer.ecrc⟩
  · rw [State.ecrcFail, State.aer_f, State.f_bump_same _ 1 rfl]
    rfl
  · rw [State.ecrcFail, State.aer_f, State.f_bump_apart _ 1 (by decide)]
    exact State.same_count _ rfl

theorem State.poisonedTlp_spec (f : Nat) : s.regsBut [Reg.HIF_ERR_COUNT] (s.poisonedTlp f) ∧ State.only [.regs, .fn] s (s.poisonedTlp f) ∧
    s.counts 0 1 (s.poisonedTlp f) ∧ ((s.poisonedTlp f).fnRec f).aer.contains Aer.poisoned = true := by
  refine ⟨((State.regsBut.refl _ s).keep (State.aer_regs _ _)).bump (x := Reg.HIF_ERR_COUNT_POISONED) 1 (.head _),
    (State.poisonedTlp_moves (l_ := [.regs, .fn]) (.refl _ s) (by decide)).only, ⟨?_, ?_⟩, ?_⟩
  · rw [State.poisonedTlp, State.f_bump_apart _ 1 (by decide), State.aer_f]
    exact State.same_count _ rfl
  · rw [State.poisonedTlp, State.f_bump_same _ 1 rfl, State.aer_f]
    rfl
  · rw [State.poisonedTlp, State.fnRec_of_fn (congrArg FnSt.fns (State.bump_fn _ _ _))]
    exact State.aer_contains _ f Aer.poisoned

theorem State.parity_spec (f : Nat) : s.regsBut [Reg.HIF_ERR_COUNT] (s.aer f Aer.internal) ∧ State.only [.regs, .fn] s (s.aer f Aer.internal) ∧
    s.counts 0 0 (s.aer f Aer.internal) ∧ ((s.aer f Aer.internal).fnRec f).aer.contains Aer.internal = true :=
  ⟨(State.regsBut.refl _ s).keep (State.aer_regs _ _), (State.aer_moves (l_ := [.regs, .fn]) (.refl _ s) (by decide)).only,
    ⟨(State.aer_f _ _ _).trans (State.same_count _ rfl), (State.aer_f _ _ _).trans (State.same_count _ rfl)⟩, State.aer_contains _ f Aer.internal⟩

theorem State.badWrite_ready (ready : s.flag Reg.HIF_STATUS_CONFIG_READY = true) (f : Nat) (x : TlpError) : s.badWrite f x =
    match x with
    | .ecrc => s.ecrcFail f
    | .poisoned => s.poisonedTlp f
    | .parity => s.aer f Aer.internal := if_neg (by rw [ready]; decide)

theorem State.badRead_ready (ready : s.flag Reg.HIF_STATUS_CONFIG_READY = true) (f : Nat) (x : ReadError) : s.badRead f x =
    match x with
    | .ecrc => (s.ecrcFail f).sendHost (.ans .unsupported)
    | .parity => s.aer f Aer.internal := if_neg (by rw [ready]; decide)

end

/-- Settles O35: a write by the block of its register, a read by what it latches and clears, and a TLP that fails by its error. -/
theorem registerAccessesAreServed : Obligations.RegisterAccessesAreServed := by
  unfold Obligations.RegisterAccessesAreServed
  refine ⟨fun s v => ⟨fun a be ignored => ?_, fun ready => ⟨fun i => ?_, fun one => ?_, fun two => ?_, fun three => ?_, ?_, fun set => ?_, fun op => ?_,
    fun op => ?_, fun op => ?_, ?_⟩⟩, fun s a e => ⟨fun aligned serves block => ?_, fun serves => ?_, fun serves _ => ?_,
    fun v v2 be t aligned serves wrote => ?_, fun v ready here out_ awake up run => ?_⟩, fun s a v be hi f wide e => ⟨fun ready => ?_, fun unready => ?_⟩⟩
  · exact answers_eq rfl (s.registerWrite_ignored a.toNat v ignored) rfl
  · have small : i.toNat < 2048 := i.isLt
    have bell (k : Nat) (hk : k ≤ 0x4000) : (BitVec.ofNat 25 (0x1F00000 + k + 8 * i.toNat)).toNat = doorbellBase + (k + 8 * i.toNat) := by
      rw [BitVec.toNat_ofNat, doorbellBase]
      omega
    have rings (k : Nat) (hk : k = 0 ∨ k = 0x4000) : s.registerWrite (BitVec.ofNat 25 (0x1F00000 + k + 8 * i.toNat)).toNat v 15 = s.bellWrite (k + 8 * i.toNat) := by
      rw [bell k (by omega), State.registerWrite_bell ready v (by rw [doorbellBase]; omega) (by omega), Nat.add_sub_cancel_left]
    have ring : s.bellWrite (0 + 8 * i.toNat) = s.doorbell 0 i.toNat := by
      unfold State.bellWrite
      rw [if_neg (by omega), if_pos (by omega), show (0 + 8 * i.toNat) / 8 = i.toNat by omega]
    have invalidate : s.bellWrite (0x4000 + 8 * i.toNat) = s.invalidateBell 0 i.toNat := by
      unfold State.bellWrite
      rw [if_neg (by omega), if_neg (by omega), show (0x4000 + 8 * i.toNat - 0x4000) / 8 = i.toNat by omega]
    exact ⟨congrArg Host.Outcome.next ((rings 0 (.inl rfl)).trans ring), congrArg Host.Outcome.next ((rings 0x4000 (.inr rfl)).trans invalidate)⟩
  · exact State.exec_registerWrite ready (by decide) (by decide) (by decide) (by decide) (fun t => congrArg (t.requestSleep · .request) one)
  · exact State.exec_registerWrite ready (by decide) (by decide) (by decide) (by decide) (fun t => congrArg (t.requestSleep · .request) two)
  · exact State.exec_registerWrite ready (by decide) (by decide) (by decide) (by decide) (fun t => congrArg (t.requestSleep · .request) three)
  · exact State.exec_registerWrite ready (by decide) (by decide) (by decide) (by decide) (fun t => rfl)
  · exact State.exec_registerWrite ready (by decide) (by decide) (by decide) (by decide) (fun t => if_pos ((nbit_zero v).trans (beq_iff_eq.mpr set)))
  · exact State.exec_registerWrite ready (by decide) (by decide) (by decide) (by decide) (fun t => congrArg t.flashStart op)
  · exact State.exec_registerWrite ready (by decide) (by decide) (by decide) (by decide) (fun t => congrArg t.flashStart op)
  · exact State.exec_registerWrite ready (by decide) (by decide) (by decide) (by decide) (fun t => congrArg t.flashStart op)
  · exact State.exec_registerWrite ready (by decide) (by decide) (by decide) (by decide) (fun t => rfl)
  · have low : a.toNat < 0xa00000 := by omega
    have read : (s.prbsSeen a.toNat (if (0 : Fin 1025).val = 0 then e.toNat else 0) false).registerRead (0 : Fin 1025).val a.toNat false =
        (s.readReg a.toNat 0).2.answer (s.readReg a.toNat 0).1 := by
      rw [State.prbsSeen_other low]
      exact State.registerRead_pf aligned serves (by rw [doorbellBase]; omega)
    refine answers_eq rfl read ?_
    by_cases hidden : s.hiddenPage a.toNat = true
    · have zero : s.readReg a.toNat 0 = (0, s) := if_pos hidden
      rw [if_pos hidden, zero]
      exact State.answer_spec 0
    · rw [if_neg hidden, State.readReg_plain block (Bool.eq_false_iff.mpr hidden)]
      obtain ⟨others, out_, cleared⟩ := State.clearRc_spec (s := s) a.toNat (by rintro e; rw [e] at block; exact absurd block (by decide))
      obtain ⟨out', regs⟩ := State.answer_spec (s := s.clearRc a.toNat) (s.reg a.toNat)
      refine ⟨out'.trans (by rw [out_]), others.keep regs, ?_⟩
      rw [State.reg, regs]
      exact cleared
  · have lo : (s.prbsSeen Reg.TB_TICK_LO e.toNat false).registerRead 0 Reg.TB_TICK_LO false = s.tickLatched.answer (BitVec.ofNat 32 s.now) := by
      rw [State.prbsSeen_other (by decide), State.registerRead_pf (by decide) serves (by decide), State.readReg_tick]
    refine answers_eq rfl lo ⟨congrArg (fun b => Emit.ans (.data b) :: s.out) (congrArg (leBytes 4) (tickBytes_lo s.now)), ?_⟩
    let t := s.tickLatched.answer (BitVec.ofNat 32 s.now)
    have latched : (t.fnRec 0).tickHi = BitVec.ofNat 32 (s.now / 2 ^ 32) := by
      rw [show t.fnRec 0 = s.tickLatched.fnRec 0 from rfl, State.tickLatched_rec]
    have serves' : t.pfServes Reg.TB_TICK_HI :=
      State.serves_tickHi serves rfl (by rw [show t.fnRec 0 = s.tickLatched.fnRec 0 from rfl, State.tickLatched_rec])
    have hi : (t.prbsSeen Reg.TB_TICK_HI e.toNat false).registerRead 0 Reg.TB_TICK_HI false = t.answer (BitVec.ofNat 32 (s.now / 2 ^ 32)) := by
      rw [State.prbsSeen_other (by decide), State.registerRead_pf (by decide) serves' (by decide), State.readReg_tickHi, latched]
    exact answers_eq rfl hi (congrArg (fun b => Emit.ans (.data b) :: t.out) (congrArg (leBytes 4) State.tickHi_toNat))
  · have both : (s.prbsSeen Reg.TB_TICK_LO e.toNat true).registerRead 0 Reg.TB_TICK_LO true =
        s.tickLatched.answerWide (BitVec.ofNat 32 s.now) (BitVec.ofNat 32 (s.now / 2 ^ 32)) := by
      rw [State.prbsSeen_other (by decide), State.registerRead_tickWide serves]
    refine answers_eq rfl both ?_
    change Emit.ans (.data (leBytes 4 (BitVec.ofNat 32 s.now).toNat ++ leBytes 4 (BitVec.ofNat 32 (s.now / 2 ^ 32)).toNat)) :: s.out = _
    rw [tickBytes_lo, State.tickHi_toNat]
  · have first : s.registerWrite a.toNat v 15 = t := Host.Outcome.next.inj wrote
    refine congrArg Host.Outcome.next ((State.wideWrite_served v v2 be.toNat aligned serves).trans ?_)
    rw [first, toNat_upper aligned]
  · have fn : (Fin.ofNat 1025 (v.val + 1)).val = v.val + 1 := Nat.mod_eq_of_lt (Nat.succ_lt_succ v.isLt)
    have read : (s.prbsSeen 0xA000 (if (Fin.ofNat 1025 (v.val + 1)).val = 0 then e.toNat else 0) false).registerRead
        (Fin.ofNat 1025 (v.val + 1)).val 0xA000 false = s.answer (s.vfStatus v) := by
      rw [State.prbsSeen_other (by decide), fn]
      exact State.registerRead_vf ready here out_ awake up run
    exact answers_eq rfl read (State.answer_spec _)
  · obtain ⟨left, only, errors, aer⟩ := State.ecrcFail_spec (s := s) f.val
    obtain ⟨left', only', errors', aer'⟩ := State.poisonedTlp_spec (s := s) f.val
    obtain ⟨left'', only'', errors'', aer''⟩ := State.parity_spec (s := s) f.val
    exact ⟨answers_eq rfl (State.badWrite_ready ready f.val .ecrc) ⟨⟨left, only⟩, errors, aer⟩,
      answers_eq rfl (State.badWrite_ready ready f.val .poisoned) ⟨⟨left', only'⟩, errors', aer'⟩,
      answers_eq rfl (State.badWrite_ready ready f.val .parity) ⟨⟨left'', only''⟩, errors'', aer''⟩,
      answers_eq rfl (State.badRead_ready ready f.val .ecrc) ⟨left, errors, congrArg (_ :: ·) (only.2 .out rfl), aer⟩,
      answers_eq rfl (State.badRead_ready ready f.val .parity) ⟨⟨left'', only''⟩, errors'', aer''⟩⟩
  · refine ⟨fun x => answers_eq rfl (if_pos (by rw [unready]; rfl)) rfl, fun x => answers_eq rfl (if_pos (by rw [unready]; rfl)) rfl,
      answers_eq rfl (State.registerRead_unready ((State.flag_prbsSeen _ _ _).trans unready)) rfl⟩

end Sys2Proof.Machine

namespace Sys2Proof.Machine

/-! # D-states, power management events and the link (R318 to R320, R332 to R342) -/

section
variable {s : State}

/-! ## A function that returns to D0 (R337, R340) -/

/-- What a message reads of its function. -/
def State.sendView (s : State) (f : Nat) : Bool × Bool × List Nat := (s.mayRequest f, (s.fnRec f).funcMask, (s.fnRec f).unmasked)

/-- One vector whose pending bit is set: its message goes out, or it waits (R326). -/
def State.sendVector (f : Nat) (s : State) (v : Nat) : State :=
  if (s.fnRec f).unmasked.contains v && !(s.fnRec f).funcMask && s.mayRequest f then
    (s.updFn f (fun r => { r with pending := r.pending.filter (· != v) })).sendHost (.msix f v)
  else s

theorem State.sendPending_eq (f : Nat) : s.sendPending f = (s.fnRec f).pending.foldl (State.sendVector f) s := rfl

/-- The message of a vector leaves what messages read, and whether the function is in D3hot. -/
theorem State.sendVector_kept (f v : Nat) : (s.sendVector f v).sendView f = s.sendView f ∧ (s.sendVector f v).d3hot f = s.d3hot f := by
  unfold State.sendVector
  split
  · have rec_ : ((s.updFn f (fun r => { r with pending := r.pending.filter (· != v) })).sendHost (.msix f v)).fnRec f =
        { s.fnRec f with pending := (s.fnRec f).pending.filter (· != v) } := by
      rw [State.fnRec_sendHost, State.fnRec_updFn]
    refine ⟨?_, ?_⟩
    · unfold State.sendView State.mayRequest State.d3hot
      rw [rec_]
      rfl
    · rw [State.d3hot, rec_, State.d3hot]
  · exact ⟨rfl, rfl⟩

theorem State.sendVector_out (f v : Nat) {e : Emit} (mem : e ∈ s.out) : e ∈ (s.sendVector f v).out := by
  unfold State.sendVector
  split
  · exact .tail _ mem
  · exact mem

theorem State.sendVector_sends {f v : Nat} (may : s.mayRequest f = true) (open_ : (s.fnRec f).unmasked.contains v = true)
    (mask : (s.fnRec f).funcMask = false) : Emit.msix f v ∈ (s.sendVector f v).out := by
  unfold State.sendVector
  rw [if_pos (by rw [may, open_, mask]; rfl)]
  exact .head _

theorem State.sendVectors_kept (f : Nat) (l : List Nat) : (l.foldl (State.sendVector f) s).d3hot f = s.d3hot f ∧
    (∀ e ∈ s.out, e ∈ (l.foldl (State.sendVector f) s).out) := by
  induction l generalizing s with
  | nil => exact ⟨rfl, fun _ mem => mem⟩
  | cons v l ih =>
    obtain ⟨state, out⟩ := ih (s := s.sendVector f v)
    exact ⟨state.trans (s.sendVector_kept f v).2, fun e mem => out e (s.sendVector_out f v mem)⟩

/-- Every vector whose mask is clear is sent (R326). -/
theorem State.sendVectors_send {f v : Nat} {l : List Nat} (mem : v ∈ l) (may : s.mayRequest f = true)
    (open_ : (s.fnRec f).unmasked.contains v = true) (mask : (s.fnRec f).funcMask = false) : Emit.msix f v ∈ (l.foldl (State.sendVector f) s).out := by
  induction l generalizing s with
  | nil => exact absurd mem List.not_mem_nil
  | cons w l ih =>
    by_cases same : v = w
    · subst same
      exact (State.sendVectors_kept f l).2 _ (State.sendVector_sends may open_ mask)
    · obtain ⟨view, -⟩ := s.sendVector_kept f w
      exact ih ((List.mem_cons.mp mem).resolve_left same) ((congrArg (·.1) view).trans may)
        ((congrArg (fun x => x.2.2.contains v) view).trans open_) ((congrArg (·.2.1) view).trans mask)

theorem State.putRsb_fns (f i : Nat) (w : Word) : (s.putRsb f i w).fn.fns = s.fn.fns := by
  unfold State.putRsb
  split
  · rfl
  split <;> rfl

/-- Ring state blocks change no function's record. -/
theorem State.sendRsbs_fns (f : Nat) : (s.sendRsbs f).fn.fns = s.fn.fns := by
  refine State.foldl_eq (p := fun t => t.fn.fns) (fun t i => ?_) _
  split
  · unfold State.writeRsbSq
    split
    · split
      · rw [State.setB_fn]
      · exact State.putRsb_fns _ _ _
    · rfl
  · unfold State.writeRsbCq
    split
    · split
      · rw [State.setB_fn]
      · exact State.putRsb_fns _ _ _
    · rfl

/-- A function that is back in D0, its messages and ring state blocks sent (R337). -/
def State.backInD0 (s : State) (f : Nat) : State :=
  ((s.updFn f (fun r => { r with d3hot := false, d0At := some s.now })).sendPending f).sendRsbs f

/-- The completions that are ready are written (R338). -/
def State.flushed (s : State) (f : Nat) : State := s.forAll (s.cqsOf f) (fun y i => y.flushCq f i)

theorem State.d0Return_eq {f : Nat} (low : s.d3hot f = true) : s.d0Return f =
    ((s.backInD0 f).flushed f).rescan.when (f == 0 && !((s.backInD0 f).flushed f).inDormant) (fun y => y.wake .pcie) :=
  if_neg (by rw [low]; decide)

theorem State.backInD0_spec (f : Nat) : (s.backInD0 f).d3hot f = false ∧
    (s.hostHere = true → (s.frozen f && (s.vfRec (f - 1)).freezing.isEmpty) = false → ∀ v ∈ (s.fnRec f).pending,
      (s.fnRec f).unmasked.contains v = true → (s.fnRec f).funcMask = false → Emit.msix f v ∈ (s.backInD0 f).out) := by
  have rec_ : (s.updFn f (fun r => { r with d3hot := false, d0At := some s.now })).fnRec f = { s.fnRec f with d3hot := false, d0At := some s.now } :=
    State.fnRec_updFn s f _
  refine ⟨?_, fun here awake v mem open_ mask => ?_⟩
  · rw [State.d3hot, State.backInD0, State.fnRec_of_fn (State.sendRsbs_fns f), State.sendPending_eq]
    refine (State.sendVectors_kept f _).1.trans ?_
    rw [State.d3hot, rec_]
  · refine State.mem_out_of_moves (l := [.regs, .qe, .fn, .out]) (State.sendRsbs_moves (.refl _ _) (by decide)) ?_
    rw [State.sendPending_eq]
    refine State.sendVectors_send (by rw [rec_]; exact mem) ?_ (by rw [rec_]; exact open_) (by rw [rec_]; exact mask)
    rw [State.mayRequest, State.d3hot, rec_]
    have same : (s.updFn f (fun r => { r with d3hot := false, d0At := some s.now })).hostHere = s.hostHere := rfl
    rw [same, here]
    exact congrArg not awake

/-! ## Power management events (R320, R339, R341) -/

theorem State.pmeResend_due {f t0 : Nat} (at_ : (s.fnRec f).pmeTick = some t0) (status : (s.fnRec f).pmeStatus = true) (late : t0 + 2500000 ≤ s.now) :
    s.pmeResend f = s.sendPme f (s.fnRec f).pmeReason := by
  unfold State.pmeResend
  dsimp only
  rw [at_]
  exact if_pos (by rw [status, decide_eq_true late]; rfl)

theorem State.logPme_spec {f : Nat} (hf : f < 2048) (reason : Nat) (suppressed : Bool) : (s.logPme f reason suppressed).f Reg.HIF_WAKE_LOG_FUNCTION = f ∧
    ((s.logPme f reason suppressed).reg Reg.HIF_WAKE_MF_LO).toNat + 2 ^ 32 * ((s.logPme f reason suppressed).reg Reg.HIF_WAKE_MF_HI).toNat = s.mfN ∧
    (s.logPme f reason suppressed).fn = s.fn ∧ (s.logPme f reason suppressed).out = s.out := by
  have small : s.mfN < 2 ^ 48 := s.time.mf.isLt
  unfold State.logPme
  extract_lets a b
  have mf : b.mfN = s.mfN := by
    simp only [b, a, State.mfN, State.setB_time, State.setF_time]
  refine ⟨?_, ?_, ?_, ?_⟩
  · rw [State.f_setReg_other _ _ (by decide), State.f_setReg_other _ _ (by decide), State.f_setB_apart _ _ (by decide), State.f_setF_same _ _ rfl]
    exact Nat.mod_eq_of_lt hf
  · rw [State.reg_setReg, State.reg_setReg_other _ _ (by decide), State.reg_setReg, mf, BitVec.toNat_ofNat, BitVec.toNat_ofNat]
    omega
  · simp only [State.setReg_fn, b, a, State.setB_fn, State.setF_fn]
  · simp only [State.setReg_out, b, a, State.setB_out, State.setF_out]

/-- A PME that goes into the log, before its message (R339). -/
def State.pmeLogged (s : State) (f reason : Nat) : State :=
  (s.updFn f (fun r => { r with pmeStatus := true, pmeTick := some s.now, pmeReason := reason })).logPme f reason false

theorem State.pmeLogged_spec {f : Nat} (hf : f < 2048) (reason : Nat) : ((s.pmeLogged f reason).fnRec f).pmeTick = some s.now ∧
    (s.pmeLogged f reason).out = s.out ∧ (s.pmeLogged f reason).f Reg.HIF_WAKE_LOG_FUNCTION = f ∧
    ((s.pmeLogged f reason).reg Reg.HIF_WAKE_MF_LO).toNat + 2 ^ 32 * ((s.pmeLogged f reason).reg Reg.HIF_WAKE_MF_HI).toNat = s.mfN := by
  obtain ⟨fn, mf, rec_, out⟩ := State.logPme_spec (s := s.updFn f (fun r => { r with pmeStatus := true, pmeTick := some s.now, pmeReason := reason })) hf reason false
  refine ⟨?_, out, fn, mf⟩
  rw [State.pmeLogged, State.fnRec_of_fn (congrArg FnSt.fns rec_), State.fnRec_updFn]

theorem State.sendHost_f (e : Emit) (x : Fld) : (s.sendHost e).f x = s.f x := (rfl)
theorem State.sendHost_reg (e : Emit) (a : Nat) : (s.sendHost e).reg a = s.reg a := (rfl)

theorem State.sendPme_logged {f : Nat} (reason : Nat) (en : (s.fnRec f).pmeEn = true) :
    s.sendPme f reason = (s.pmeLogged f reason).when s.hostHere (fun s => s.sendHost (.pme f)) := if_pos en

/-- A PME that its host answers (R339, R341). -/
theorem State.pmeStatusClear_spec (f : Nat) : ((s.pmeStatusClear f).fnRec f).pmeStatus = false ∧ ((s.pmeStatusClear f).fnRec f).pmeTick = none ∧
    (s.pmeStatusClear f).out = s.out ∧ (f = 0 → (s.pmeStatusClear f).fn.wakeN = false) := by
  have cleared := State.fnRec_updFn s f (fun r => { r with pmeStatus := false, pmeTick := none })
  unfold State.pmeStatusClear
  extract_lets u
  have rec_ : u.fnRec f = { s.fnRec f with pmeStatus := false, pmeTick := none } := cleared
  have out : u.out = s.out := State.updFn_out _ _ _
  clear_value u
  have fns : (if f = 0 then { u with fn := { u.fn with wakeN := false } } else u : State).fnRec f = u.fnRec f := by split <;> rfl
  rw [fns, rec_]
  refine ⟨rfl, rfl, ?_, fun pf => ?_⟩
  · split <;> exact out
  · rw [if_pos pf]

/-- PME_Turn_Off acknowledged: what moderation held is sent, and the link rests in L2/L3 Ready (R320). -/
theorem State.pmeTurnOff_spec (up : s.fn.l23 = false) : s.pmeTurnOff.fn.l23 = true ∧ s.pmeTurnOff.out.head? = some .pmeToAck := by
  unfold State.pmeTurnOff
  rw [if_neg (by rw [up]; decide)]
  exact ⟨rfl, rfl⟩

/-! ## The link (R318, R319, R334) -/

theorem State.idleHost_not (busy : s.quietHost = false ∨ s.now < s.fn.hostAt + 25 * max 1 (s.f Reg.HIF_ASPM_L1_IDLE)) : s.idleHost = false := by
  rw [State.idleHost]
  obtain busy | early := busy
  · rw [busy, Bool.false_and]
  · rw [decide_eq_false (Nat.not_le.mpr early), Bool.and_false]

/-- One engine whose requests are abandoned (R334). -/
def State.idleEngine (s : State) (e : Nat × EngRec) : State := s.setEngine e.1 { e.2 with reqs := [], holder := none, fetched := none }

theorem State.idleEngine_other {e : Nat × EngRec} {k : Nat} (h : k ≠ e.1) : (s.idleEngine e).engine k = s.engine k := by
  rw [State.engine, State.idleEngine, State.setEngine_engines, Tbl.get_set_other _ _ h, State.engine]

/-- After all engines' requests are abandoned, no engine of the table has one. -/
theorem State.idleEngines_reqs {k : Nat} (l : List (Nat × EngRec)) (h : (s.engine k).reqs = [] ∨ ∃ e ∈ l, e.1 = k) :
    ((l.foldl State.idleEngine s).engine k).reqs = [] := by
  induction l generalizing s with
  | nil =>
    obtain done | ⟨e, mem, -⟩ := h
    · exact done
    · exact absurd mem List.not_mem_nil
  | cons e l ih =>
    refine ih ?_
    by_cases same : k = e.1
    · subst same
      exact .inl (congrArg EngRec.reqs (State.engine_setEngine s e.1 _))
    · rw [State.idleEngine_other same]
      refine h.imp_right fun ⟨x, mem, key⟩ => ⟨x, (List.mem_cons.mp mem).resolve_left ?_, key⟩
      rintro rfl
      exact same key.symm

theorem State.engine_listed (k : Nat) : (s.engine k).reqs = [] ∨ ∃ e ∈ s.bm.engines, e.1 = k := by
  by_cases listed : ∃ e ∈ s.bm.engines, e.1 = k
  · exact .inr listed
  · refine .inl ?_
    rw [State.engine, Tbl.get_of_absent fun e mem key => listed ⟨e, mem, key⟩]
    rfl

/-- Doorbells of rings whose scan is abandoned are kept (R334). -/
def State.keepSqs (s : State) : State := s.qe.sqs.foldl (fun (s : State) (e : Nat × Option SqRec) =>
  if e.2.any (·.scanning) then s.keepDoorbell (e.1 / 2048) (e.1 % 2048) else s) s
def State.keepCqs (s : State) : State := s.qe.cqs.foldl (fun (s : State) (e : Nat × Option CqRec) =>
  if e.2.any (·.scanning) then s.keepDoorbell (e.1 / 2048) (e.1 % 2048) else s) s

theorem State.keepDoorbell_parts (f i : Nat) : (s.keepDoorbell f i).regs = s.regs ∧ (s.keepDoorbell f i).bm = s.bm := by
  unfold State.keepDoorbell
  split <;> exact ⟨rfl, rfl⟩

theorem State.keepSqs_parts : s.keepSqs.regs = s.regs ∧ s.keepSqs.bm = s.bm := by
  refine ⟨State.foldl_eq (p := State.regs) (fun t e => ?_) _, State.foldl_eq (p := State.bm) (fun t e => ?_) _⟩
  · split
    · exact (State.keepDoorbell_parts _ _).1
    · rfl
  · split
    · exact (State.keepDoorbell_parts _ _).2
    · rfl

theorem State.keepCqs_parts : s.keepCqs.regs = s.regs ∧ s.keepCqs.bm = s.bm := by
  refine ⟨State.foldl_eq (p := State.regs) (fun t e => ?_) _, State.foldl_eq (p := State.bm) (fun t e => ?_) _⟩
  · split
    · exact (State.keepDoorbell_parts _ _).1
    · rfl
  · split
    · exact (State.keepDoorbell_parts _ _).2
    · rfl

theorem State.abandon_engine (k : Nat) : s.abandon.engine k = ((s.keepSqs.keepCqs.bm.engines.foldl State.idleEngine s.keepSqs.keepCqs)).engine k := rfl
theorem State.abandon_regs : s.abandon.regs = (s.keepSqs.keepCqs.bm.engines.foldl State.idleEngine s.keepSqs.keepCqs).regs := rfl

/-- No engine has a request outstanding once the requests are abandoned (R334). -/
theorem State.abandon_reqs (k : Nat) : (s.abandon.engine k).reqs = [] := by
  rw [State.abandon_engine]
  exact State.idleEngines_reqs _ (State.engine_listed k)

theorem State.f_setEngine (e : Nat) (r : EngRec) {y : Fld} (low : y.addr < 0x500000) : (s.setEngine e r).f y = s.f y := by
  have status : y.addr ≠ Reg.BM_STATUS := by simp only [Reg.BM_STATUS]; omega
  have engine : y.addr ≠ Reg.BM_ENG_STATUS e := by simp only [Reg.BM_ENG_STATUS, Reg.engineBase]; omega
  unfold State.setEngine
  extract_lets bm a b c d
  have ha : a.f y = s.f y := rfl
  have hb : b.f y = a.f y := State.f_setF_other a _ status
  have hc : c.f y = s.f y := (State.f_setB_other b _ engine).trans (hb.trans ha)
  refine (State.f_setF_other _ _ engine).trans ?_
  simp only [d]
  split
  · exact (State.f_setF_other _ _ engine).trans hc
  · exact hc

/-- Abandoning requests writes the engines' registers alone. -/
theorem State.f_abandon {y : Fld} (low : y.addr < 0x500000) : s.abandon.f y = s.f y := by
  refine (State.f_of_regs State.abandon_regs _).trans
    ((State.foldl_eq (p := fun t : State => t.f y) (f := State.idleEngine) (fun t e => State.f_setEngine e.1 _ low) _).trans ?_)
  rw [State.f_of_regs State.keepCqs_parts.1, State.f_of_regs State.keepSqs_parts.1]

theorem State.flag_abandon {y : Fld} (low : y.addr < 0x500000) : s.abandon.flag y = s.flag y := by
  rw [State.flag, State.f_abandon low, State.flag]

/-- The link goes down: its status, and the tick (R334). -/
def State.linkDown (s : State) : State :=
  let s := (((s.setB Reg.HIF_STATUS_LINK_UP false).setB Reg.HIF_STATUS_HOST_LOST true).setF Reg.HIF_LINK_STATUS_SPEED 0).setF Reg.HIF_LINK_STATUS_WIDTH 0
  { s with fn := { s.fn with lostAt := some s.now } }

theorem State.hostLinkDown_eq : s.hostLinkDown = s.linkDown.abandon.hotReset := rfl

theorem State.linkDown_regs : s.linkDown.regs =
    ((((s.setB Reg.HIF_STATUS_LINK_UP false).setB Reg.HIF_STATUS_HOST_LOST true).setF Reg.HIF_LINK_STATUS_SPEED 0).setF Reg.HIF_LINK_STATUS_WIDTH 0).regs := rfl

theorem State.linkDown_spec : s.linkDown.flag Reg.HIF_STATUS_LINK_UP = false ∧ s.linkDown.flag Reg.HIF_STATUS_HOST_LOST = true ∧
    s.linkDown.f Reg.HIF_LINK_STATUS_SPEED = 0 ∧ s.linkDown.f Reg.HIF_LINK_STATUS_WIDTH = 0 ∧ s.linkDown.fn.lostAt = some s.now := by
  refine ⟨?_, ?_, ?_, ?_, ?_⟩
  · rw [State.flag_of_regs State.linkDown_regs, State.flag_setF_apart _ _ (by decide), State.flag_setF_apart _ _ (by decide),
      State.flag_setB_apart _ _ (by decide), State.flag_setB_same _ _ rfl rfl]
  · rw [State.flag_of_regs State.linkDown_regs, State.flag_setF_apart _ _ (by decide), State.flag_setF_apart _ _ (by decide),
      State.flag_setB_same _ _ rfl rfl]
  · rw [State.f_of_regs State.linkDown_regs, State.f_setF_apart _ _ (by decide), State.f_setF_same _ _ rfl]
    rfl
  · rw [State.f_of_regs State.linkDown_regs, State.f_setF_same _ _ rfl]
    rfl
  · unfold State.linkDown
    simp only [State.now, State.setF_time, State.setB_time]

/-- The link reaches DL_Active, or recovers: its status (R318, R342). -/
def State.linkUp (s : State) (speed width : Nat) (rev : Bool) : State :=
  let s := s.when (s.flag Reg.HIF_STATUS_LINK_UP) (fun s => s.bump Reg.HIF_LINK_STATUS_RETRAINS)
  let s := (s.setB Reg.HIF_STATUS_LINK_UP true).setF Reg.HIF_LINK_STATUS_SPEED speed
  let s := (s.setF Reg.HIF_LINK_STATUS_WIDTH width).setB Reg.HIF_LINK_STATUS_REVERSED rev
  { s with fn := { s.fn with lostAt := none, l23 := false } }

theorem State.linkUp_fn {speed width : Nat} {rev : Bool} : (s.linkUp speed width rev).fn.lostAt = none ∧ (s.linkUp speed width rev).fn.l23 = false := ⟨rfl, rfl⟩

theorem State.hostLinkUp_wide {width : Nat} (wide : 4 ≤ width) (speed : Nat) (rev : Bool) : s.hostLinkUp speed width rev =
    (((s.linkUp speed width rev).when (!(s.linkUp speed width rev).inDormant) (fun y => y.wake .pcie)).requestsGoOn).rescan :=
  if_neg (Nat.not_lt.mpr wide)

theorem State.linkUp_regs (speed width : Nat) (rev : Bool) : (s.linkUp speed width rev).regs =
    (((((s.when (s.flag Reg.HIF_STATUS_LINK_UP) (fun s => s.bump Reg.HIF_LINK_STATUS_RETRAINS)).setB Reg.HIF_STATUS_LINK_UP true).setF
      Reg.HIF_LINK_STATUS_SPEED speed).setF Reg.HIF_LINK_STATUS_WIDTH width).setB Reg.HIF_LINK_STATUS_REVERSED rev).regs := rfl

theorem State.linkUp_spec {speed width : Nat} (hs : speed < 8) (hw : width < 32) (rev : Bool) : (s.linkUp speed width rev).flag Reg.HIF_STATUS_LINK_UP = true ∧
    (s.linkUp speed width rev).f Reg.HIF_LINK_STATUS_SPEED = speed ∧ (s.linkUp speed width rev).f Reg.HIF_LINK_STATUS_WIDTH = width ∧
    (s.linkUp speed width rev).flag Reg.HIF_LINK_STATUS_REVERSED = rev ∧
    (s.linkUp speed width rev).f Reg.HIF_LINK_STATUS_RETRAINS = (if s.flag Reg.HIF_STATUS_LINK_UP then min (s.f Reg.HIF_LINK_STATUS_RETRAINS + 1) 65535
      else s.f Reg.HIF_LINK_STATUS_RETRAINS) := by
  refine ⟨?_, ?_, ?_, ?_, ?_⟩
  · rw [State.flag_of_regs (State.linkUp_regs _ _ _), State.flag_setB_apart _ _ (by decide), State.flag_setF_apart _ _ (by decide),
      State.flag_setF_apart _ _ (by decide), State.flag_setB_same _ _ rfl rfl]
  · rw [State.f_of_regs (State.linkUp_regs _ _ _), State.f_setB_apart _ _ (by decide), State.f_setF_apart _ _ (by decide), State.f_setF_same _ _ rfl]
    exact Nat.mod_eq_of_lt hs
  · rw [State.f_of_regs (State.linkUp_regs _ _ _), State.f_setB_apart _ _ (by decide), State.f_setF_same _ _ rfl]
    exact Nat.mod_eq_of_lt hw
  · rw [State.flag_of_regs (State.linkUp_regs _ _ _), State.flag_setB_same _ _ rfl rfl]
  · rw [State.f_of_regs (State.linkUp_regs _ _ _), State.f_setB_apart _ _ (by decide), State.f_setF_apart _ _ (by decide),
      State.f_setF_apart _ _ (by decide), State.f_setB_apart _ _ (by decide), State.when]
    split
    · exact State.f_bump_same _ 1 rfl
    · rfl

end

/-- Settles O32: D-states and their messages, PME, the link's status, and the handover of a HOLDER that has lost its host. -/
theorem hostPowerAndLink : Obligations.HostPowerAndLink := by
  unfold Obligations.HostPowerAndLink
  refine ⟨fun s fn => ⟨fun there out_ awake => ?_, fun low => ?_, fun t0 at_ status en late => ?_, ?_, fun up => ?_⟩,
    fun s => ⟨fun up here idle => ?_, fun busy => ?_, fun porst perst => ?_, fun up => ?_, ?_, fun speed width rev => ⟨fun narrow => ?_, fun wide => ?_⟩,
      fun t0 lost late enabled holder lockstep ordered none_ peer => ?_⟩⟩
  · refine answers_eq rfl (if_neg (by rw [there, out_, awake]; decide)) ?_
    rw [State.d3hot, State.fnRec_updFn]
  · obtain ⟨awake, sends⟩ := s.backInD0_spec fn.val
    exact answers_eq rfl (State.d0Return_eq low) ⟨_, _, awake, sends, rfl, rfl⟩
  · obtain ⟨tick, out, log, mf⟩ := State.pmeLogged_spec (s := s) (f := fn.val) (by omega) (s.fnRec fn.val).pmeReason
    refine answers_eq rfl ((State.pmeResend_due at_ status late).trans (State.sendPme_logged _ en)) ?_
    rw [State.when]
    split
    · rw [State.fnRec_sendHost, State.sendHost_f, State.sendHost_reg, State.sendHost_reg]
      exact ⟨congrArg (Emit.pme fn.val :: ·) out, tick, log, mf⟩
    · exact ⟨out, tick, log, mf⟩
  · exact answers_eq rfl rfl (s.pmeStatusClear_spec fn.val)
  · obtain ⟨rests, ack⟩ := State.pmeTurnOff_spec up
    refine answers_eq rfl ?_ ⟨s.pmeTurnOff, rests, ack, rfl⟩
    rw [State.when, up]
    rfl
  · refine answers_eq rfl (if_pos (by rw [up, here, idle]; rfl)) (State.f_bump_same _ 1 rfl)
  · refine answers_eq (t := s) rfl (if_neg ?_) rfl
    rw [State.idleHost_not busy, Bool.and_false]
    decide
  · refine answers_eq rfl (if_neg (by rw [porst, perst]; decide)) (State.flag_setB_same _ _ rfl rfl)
  · obtain ⟨down, lost, speed, width, at_⟩ := State.linkDown_spec (s := s)
    have kept := State.abandon_moves (l_ := [.regs, .qe, .bm]) (.refl _ s.linkDown) (by decide)
    exact answers_eq rfl ((if_pos up).trans State.hostLinkDown_eq) ⟨s.linkDown.abandon, (State.flag_abandon (by decide)).trans down,
      (State.flag_abandon (by decide)).trans lost, (State.f_abandon (by decide)).trans speed, (State.f_abandon (by decide)).trans width,
      (congrArg FnSt.lostAt (kept.fn_eq (by decide))).trans at_, State.abandon_reqs, rfl⟩
  · refine answers_eq (t := s.hotReset) rfl rfl ⟨State.setF { s with fn := { s.fn with l23 := false } } Reg.CKG_RESET_CAUSE_CAUSE 3, State.f_setF_same _ _ rfl, ?_, ?_, rfl⟩
    · rw [State.setF_fn]
    · rw [State.setF_fn]
  · refine answers_eq rfl (if_pos narrow) ⟨State.flag_setB_same _ _ rfl rfl, State.flag_setB_apart _ _ (by decide)⟩
  · obtain ⟨up, speed', width', rev', retrains⟩ := State.linkUp_spec (s := s) speed.isLt width.isLt rev
    exact answers_eq rfl (State.hostLinkUp_wide wide speed.toNat rev) ⟨s.linkUp speed.toNat width.toNat rev, up, speed', width', rev', State.linkUp_fn.1, State.linkUp_fn.2, retrains, rfl⟩
  · have agreed : s.pu.peerTime.all (fun f => !f.hostLost) = true := by
      cases heard : s.pu.peerTime with
      | none => rfl
      | some f => exact congrArg not (peer f heard)
    have due : s.hostLossHandover = s.placeHandover none := by
      unfold State.hostLossHandover
      rw [lost]
      exact if_pos ⟨late, enabled, holder, lockstep, ordered, by rw [none_]; rfl, agreed⟩
    obtain ⟨placed, sent⟩ := State.placeHandover_spec (s := s) ordered none
    refine answers_eq rfl due ⟨placed, ?_⟩
    extract_lets f
    have sent : if s.pu.unsent = [] ∧ mayGo s.pu.unacked (s.pu.seq, f) = true then (s.placeHandover none).out = .mio f :: s.out
      else (s.placeHandover none).out = s.out ∧ (s.pu.seq, f) ∈ (s.placeHandover none).pu.unsent := sent
    split
    next go =>
      rw [if_pos go] at sent
      exact congrArg List.head? sent
    next stay =>
      rw [if_neg stay] at sent
      exact sent

end Sys2Proof.Machine

namespace Sys2Proof.Machine

/-! # A view whose access outlives its limit (R398, R403) -/

section
open Tests

/-- A read that waits in a view. -/
def lateRead : Acc := ⟨.read, 0, 4, 0, false, 0⟩

/-- The first delegated view of VF 0, with one read queued. The grant delegates window 256, beyond the 256 that a device has: its
XB_WIN_CFG would stand where XB_VIEW_STATUS of the view stands. -/
def strangeView : State :=
  let s := atTime 0 0 1125000 (with_ [(Reg.XB_VIEW_STATUS_QUEUED 0, 1)])
  { s with
    fn := { s.fn with grants := [(0, { Grant.empty with delegates := [⟨256, 0, true⟩] })] }
    xb := { s.xb with views := [(256, { ViewRec.idle with queue := [lateRead] })] } }

theorem strangeView_shape : (strangeView.view 256).queue = [lateRead] ∧ (strangeView.view 256).parts = [] ∧ (strangeView.view 256).badPart = false ∧
    (strangeView.view 256).open_ = none ∧ lateRead.tick + strangeView.readLimit ≤ strangeView.now ∧ strangeView.xb.log = [] := by decide +kernel

/-- The device that the view names, before the read ends and in the record of the failure. -/
theorem strangeView_device : strangeView.viewDev 256 = 4 ∧ (strangeView.readLimitOver 256).xb.log.map (·.dev) = [0] := by decide +kernel

/-- Refutes O31: with a delegated window beyond the 256 that a device has (no run reaches such a state, the statement admits it), QUEUED of the
view is written over DEVICE of that window before the late-fault record is made, and the record names another device. -/
theorem not_viewsCarryTheirAccesses : ¬ Obligations.ViewsCarryTheirAccesses := by
  unfold Obligations.ViewsCarryTheirAccesses
  intro h
  obtain ⟨queue, parts, good, none_, late, log⟩ := strangeView_shape
  obtain ⟨before, after⟩ := strangeView_device
  obtain ⟨-, limit, -⟩ := h strangeView (.vf 0 0)
  obtain ⟨t, run, -, -, record⟩ := limit [] lateRead [] queue parts good none_ rfl (fun v e => AccKind.noConfusion e) late
    (fun b mem => absurd mem List.not_mem_nil) (by rw [log]; decide)
  have same : strangeView.readLimitOver 256 = t := by injection run
  rw [← same, log] at record
  rw [record] at after
  have device : strangeView.viewDev 256 = 0 := List.head_eq_of_cons_eq after
  exact absurd (before.symm.trans device) (by decide)

end

end Sys2Proof.Machine

namespace Sys2Proof.Machine

/-! # Block-mover engines (R372 to R389) -/

/-! ## The records of an engine -/

/-- A field that no change of engine `e`'s record shows in. -/
def besideEngine (e : EngineId) (y : Fld) : Bool :=
  Reg.BM_STATUS_BUSY.apart y && (Reg.BM_ENG_STATUS_ACTIVE e.val).apart y && (Reg.BM_ENG_STATUS_CURRENT e.val).apart y &&
    (Reg.BM_ENG_STATUS_OUTSTANDING e.val).apart y

section
variable {s : State} {e : EngineId}

theorem State.f_setEngine_beside (r : EngRec) {y : Fld} (h : besideEngine e y = true) : (s.setEngine e.val r).f y = s.f y := by
  simp only [besideEngine, Bool.and_eq_true] at h
  obtain ⟨⟨⟨busy, active⟩, current⟩, outstanding⟩ := h
  unfold State.setEngine
  extract_lets bm a b c d
  have hc : c.f y = s.f y := (State.f_setB_apart b _ active).trans (State.f_setF_apart a _ busy)
  refine (State.f_setF_apart _ _ outstanding).trans ?_
  simp only [d]
  split
  · exact (State.f_setF_apart _ _ current).trans hc
  · exact hc

theorem State.setEngine_chans (e : Nat) (r : EngRec) : (s.setEngine e r).bm.chans = s.bm.chans := by
  unfold State.setEngine
  extract_lets bm a b c d
  have hd : d.bm = a.bm := by
    have hc : c.bm = a.bm := (State.setB_bm _ _ _).trans (State.setF_bm _ _ _)
    simp only [d]
    split
    · exact (State.setF_bm _ _ _).trans hc
    · exact hc
  have last : (State.setF d (Reg.BM_ENG_STATUS_OUTSTANDING e) r.reqs.length).bm = a.bm := (State.setF_bm _ _ _).trans hd
  rw [last]

theorem State.setEngine_kept (e : Nat) (r : EngRec) : (s.setEngine e r).out = s.out ∧ (s.setEngine e r).fn = s.fn := by
  have moves : Moves [.regs, .bm] s (s.setEngine e r) := State.setEngine_moves (.refl _ s) (by decide)
  exact ⟨moves.out_eq (by decide), moves.fn_eq (by decide)⟩

theorem State.sendHost_bm (s : State) (m : Emit) : (s.sendHost m).bm = s.bm := (rfl)
theorem State.sendHost_out (s : State) (m : Emit) : (s.sendHost m).out = m :: s.out := (rfl)

theorem State.stopped_setEngine (r : EngRec) : (s.setEngine e.val r).stopped e.val = s.stopped e.val := by
  rw [State.stopped, State.f_setEngine_beside r ((by decide : ∀ e, besideEngine e Reg.BM_STATUS_STOPPED = true) e), State.stopped]

/-! ## Bursts begin (R372, R380, R381) -/

/-- The request of channel `c`'s next read. -/
def Job.request (j : Job) (c : Nat) (k : ReqKind) (a n : Nat) : HostReq := ⟨c, j.ref.fn.val, k, a, n, false⟩

/-- Engine `e` once channel `c` has it. -/
def EngRec.taken (g : EngRec) (c : Nat) : EngRec := { g with holder := some c, lastChan := c % 64 }

section
variable {c : Nat} {j : Job} {k : ReqKind} {a n : Nat}

/-- An allowed read goes out when nothing was prefetched (R381). -/
theorem State.startUnit_reads (job : (s.chan c).job = some j) (read : s.nextRead j = some (k, a, n)) (allowed : readAllowed j k a n = true)
    (fetched : (s.engine e.val).fetched = none) (none_ : (s.engine e.val).reqs.any (·.prefetch) = false) :
    s.startUnit e.val c = ((s.setEngine e.val ((s.engine e.val).taken c)).setEngine e.val
      { (s.engine e.val).taken c with reqs := (s.engine e.val).reqs ++ [j.request c k a n] }).sendHost (.read j.ref.fn.val a n) := by
  have misfit (p : HostReq → Bool) : (s.engine e.val).reqs.any (fun q => q.prefetch && p q) = false := by
    rw [List.any_eq_false] at none_ ⊢
    intro q mem
    simp only [Bool.and_eq_true, not_and]
    exact fun h => absurd h (none_ q mem)
  have held : (s.setEngine e.val ((s.engine e.val).taken c)).engine e.val = (s.engine e.val).taken c := State.engine_setEngine _ _ _
  have open_ : ((s.engine e.val).taken c).fetched = none := fetched
  unfold State.startUnit
  rw [job]
  dsimp only
  rw [read]
  dsimp only
  rw [allowed]
  simp only [Bool.not_true, Bool.false_eq_true, if_false]
  rw [show ({ s.engine e.val with holder := some c, lastChan := c % 64 } : EngRec) = (s.engine e.val).taken c from rfl, held, open_]
  dsimp only
  rw [if_neg]
  · rfl
  · rw [show ((s.engine e.val).taken c).reqs = (s.engine e.val).reqs from rfl]
    simp only [Bool.and_assoc]
    rw [misfit]
    exact Bool.false_ne_true

/-- A read outside the windows of its entry ends the entry (R380). -/
theorem State.startUnit_refuses (job : (s.chan c).job = some j) (read : s.nextRead j = some (k, a, n)) (refused : readAllowed j k a n = false) (e : Nat) :
    s.startUnit e c = (s.bump (Reg.BM_ERR_WINDOW e)).endMove c j St.dmaWindow false := by
  unfold State.startUnit
  rw [job]
  dsimp only
  rw [read]
  dsimp only
  rw [refused]
  rfl

theorem State.burstRead_starts {e : Nat} (runs : s.engineRuns e = true) (free : (s.engine e).holder = none) (next : s.nextChan e none = some c) :
    s.burstRead e false = s.startUnit e c := by
  unfold State.burstRead State.burstStart
  rw [runs]
  dsimp only
  rw [free]
  dsimp only
  rw [next]
  rfl

theorem State.burstRead_loses {e : Nat} (runs : s.engineRuns e = true) (free : (s.engine e).holder = none) (next : s.nextChan e none = some c) :
    s.burstRead e true = s.bufferLost e c := by
  unfold State.burstRead State.servedChan
  rw [runs, free]
  dsimp only
  rw [if_pos rfl, if_pos rfl, next]

theorem State.captureError_bm (block scope cause fn unit addr : Nat) : (s.captureError block scope cause fn unit addr).bm = s.bm :=
  (State.captureError_moves (l_ := [.regs, .fn, .out]) (.refl _ s) (by decide)).bm_eq (by decide)

/-- An entry whose data the buffer of its engine has lost ends with ABORTED (R436). -/
theorem State.bufferLost_spec (e : Nat) (job : (s.chan c).job = some j) : ∃ u : State, u.flag Reg.GLB_ERR_UNCORRECTABLE = true ∧ u.bm = s.bm ∧
    s.bufferLost e c = u.endJob c St.aborted false := by
  unfold State.bufferLost
  rw [job]
  exact ⟨_, (State.captureError_spec ..).1, State.captureError_bm .., rfl⟩

/-- BM_BURST_START takes the next ready channel (R372, R380, R381). -/
theorem burstStart_spec (runs : s.engineRuns e.val = true) (free : (s.engine e.val).holder = none) (next : s.nextChan e.val none = some c)
    (job : (s.chan c).job = some j) (read : s.nextRead j = some (k, a, n)) (allowed : readAllowed j k a n = true)
    (fetched : (s.engine e.val).fetched = none) (none_ : (s.engine e.val).reqs.any (·.prefetch) = false) :
    answers (.bmBurstStart ⟨e, false⟩) s (fun t =>
        (t.engine e.val).holder = some c ∧ (t.engine e.val).lastChan = c % 64 ∧ (t.engine e.val).fetched = none ∧
        (t.engine e.val).reqs = (s.engine e.val).reqs ++ [⟨c, j.ref.fn.val, k, a, n, false⟩] ∧
        t.out = .read j.ref.fn.val a n :: s.out ∧ t.bm.chans = s.bm.chans) := by
  refine answers_eq rfl ((State.burstRead_starts runs free next).trans (State.startUnit_reads job read allowed fetched none_)) ?_
  generalize hu : s.setEngine e.val ((s.engine e.val).taken c) = u
  generalize hr : ({ (s.engine e.val).taken c with reqs := (s.engine e.val).reqs ++ [j.request c k a n] } : EngRec) = r
  rw [State.engine_of_bm (State.sendHost_bm _ _), State.engine_setEngine, State.sendHost_out, State.sendHost_bm, State.setEngine_chans,
    (State.setEngine_kept e.val r).1, ← hu, (State.setEngine_kept e.val _).1, State.setEngine_chans, ← hr]
  exact ⟨rfl, rfl, fetched, rfl, rfl, rfl⟩

end

/-! ## Completions (R331, R387, R436) -/

/-- The engine takes the completion of its oldest request. -/
def State.takes (s : State) (e : Nat) (rest : List HostReq) : State := s.hostActive.setEngine e { s.engine e with reqs := rest }

section
variable {q : HostReq} {rest : List HostReq} {data : List Byte}

theorem State.aer_bm (f code : Nat) : (s.aer f code).bm = s.bm := (State.aer_moves (l_ := [.fn]) (.refl _ s) (by decide)).bm_eq (by decide)

theorem State.hostCompletion_ecrc {e : Nat} (reqs : (s.engine e).reqs = q :: rest) : s.hostCompletion e .ecrc data = s.hostActive.ecrcFail q.fn := by
  unfold State.hostCompletion
  rw [reqs]

theorem State.hostCompletion_parity {e : Nat} (reqs : (s.engine e).reqs = q :: rest) :
    s.hostCompletion e .parity data = s.hostActive.aer q.fn Aer.internal := by
  unfold State.hostCompletion
  rw [reqs]

theorem State.takes_stopped (run : s.stopped e.val = false) : (s.takes e.val rest).stopped e.val = false := (State.stopped_setEngine _).trans run

theorem State.takes_chans (e : Nat) : (s.takes e rest).bm.chans = s.bm.chans := State.setEngine_chans _ _
theorem State.takes_engine (e : Nat) : (s.takes e rest).engine e = { s.engine e with reqs := rest } := State.engine_setEngine _ _ _
theorem State.takes_f {y : Fld} (h : besideEngine e y = true) : (s.takes e.val rest).f y = s.f y := State.f_setEngine_beside _ h
theorem State.takes_chan (e c : Nat) : (s.takes e rest).chan c = s.chan c := by rw [State.chan, State.takes_chans, State.chan]

theorem State.hostCompletion_buffer (reqs : (s.engine e.val).reqs = q :: rest) (run : s.stopped e.val = false) :
    s.hostCompletion e.val .buffer data = (s.takes e.val rest).bufferLost e.val q.chan := by
  unfold State.hostCompletion
  rw [reqs]
  exact (if_neg (ne_true_of_eq_false (State.takes_stopped run))).trans (if_pos rfl)

/-- The bytes of a completion. -/
def HostReq.bytes (q : HostReq) (data : List Byte) : List Byte := (padTo q.len data).take q.len

/-- The engine has the data of its oldest request. -/
def State.unitsRead (s : State) (e : Nat) (q : HostReq) (rest : List HostReq) : State := (s.takes e rest).bump (Reg.BM_READ_UNITS_COUNT e) (q.len / 64)

theorem State.hostCompletion_ok (reqs : (s.engine e.val).reqs = q :: rest) (run : s.stopped e.val = false) : s.hostCompletion e.val .ok data =
    if q.prefetch then (s.unitsRead e.val q rest).setEngine e.val { (s.unitsRead e.val q rest).engine e.val with fetched := some (q, q.bytes data) }
    else (s.unitsRead e.val q rest).burstEnds q.chan q.kind (q.bytes data) := by
  unfold State.hostCompletion
  rw [reqs]
  exact (if_neg (ne_true_of_eq_false (State.takes_stopped run))).trans ((if_neg (show CplStatus.ok ≠ .buffer by decide)).trans (if_neg (show ¬(CplStatus.ok ≠ .ok) by decide)))

theorem State.hostCompletion_fails {st : CplStatus} (reqs : (s.engine e.val).reqs = q :: rest) (run : s.stopped e.val = false)
    (bad : st = .ca ∨ st = .poisoned) :
    s.hostCompletion e.val st data = (s.takes e.val rest).engineFault e.val q (faultKind st) (cplCause st) := by
  unfold State.hostCompletion
  rw [reqs]
  obtain rfl | rfl := bad <;>
    exact (if_neg (ne_true_of_eq_false (State.takes_stopped run))).trans ((if_neg (by decide)).trans (if_pos (by decide)))

theorem State.hostTimeout_fails (reqs : (s.engine e.val).reqs = q :: rest) (run : s.stopped e.val = false) :
    s.hostTimeout (.engine e) = (s.takes e.val rest).engineFault e.val q 2 5 := by
  unfold State.hostTimeout
  dsimp only
  rw [show (s.hostActive.engine e.val).reqs = (s.engine e.val).reqs from rfl, reqs]
  exact if_neg (ne_true_of_eq_false (State.takes_stopped run))

/-- A completion that fails its ECRC or its parity leaves its request outstanding, and one that the data buffer has lost ends its entry (R331, R436). -/
theorem completionLost_spec (reqs : (s.engine e.val).reqs = q :: rest) :
    answers (.bmHostCompletion e .ecrc data) s (fun t => t.bm = s.bm ∧ (t.fnRec q.fn).aer.contains Aer.ecrc = true ∧
        t.f Reg.HIF_ERR_COUNT_ECRC = min (s.f Reg.HIF_ERR_COUNT_ECRC + 1) 65535) ∧
      answers (.bmHostCompletion e .parity data) s (fun t => t.bm = s.bm ∧ t.regs = s.regs ∧
        (t.fnRec q.fn).aer.contains Aer.internal = true) ∧
      (∀ j, s.stopped e.val = false → (s.chan q.chan).job = some j → answers (.bmHostCompletion e .buffer data) s (fun t => ∃ u : State,
        u.flag Reg.GLB_ERR_UNCORRECTABLE = true ∧ (u.engine e.val).reqs = rest ∧ t = u.endJob q.chan St.aborted false)) := by
  refine ⟨answers_eq rfl (State.hostCompletion_ecrc reqs) ⟨?_, State.aer_contains _ _ _, ?_⟩,
    answers_eq rfl (State.hostCompletion_parity reqs) ⟨?_, State.aer_regs _ _, State.aer_contains _ _ _⟩, fun j run job => ?_⟩
  · exact (State.aer_bm _ _).trans (State.bump_bm _ _ _)
  · rw [State.ecrcFail, State.aer_f, State.f_bump_same _ _ rfl]
    rfl
  · exact State.aer_bm _ _
  · obtain ⟨u, shown, bm, ends⟩ := State.bufferLost_spec (s := s.takes e.val rest) e.val (c := q.chan) (j := j) (by rw [State.takes_chan, job])
    refine answers_eq rfl ((State.hostCompletion_buffer reqs run).trans ends) ⟨u, shown, ?_, rfl⟩
    rw [State.engine_of_bm bm, State.takes_engine]

end

/-! ## Data of a completion (R374, R381, R387) -/

theorem State.resetDone_chans (f : Nat) : (s.resetDone f).bm.chans = s.bm.chans := by
  have cqs : (s.resetCqs f).bm = s.bm := State.foldl_eq (p := State.bm) (fun t x =>
    (State.dropCq_moves (l_ := [.regs, .qe]) (State.eventOff_moves (State.eventOff_moves (State.eventOff_moves (.refl _ t)
      (by decide)) (by decide)) (by decide)) (by decide)).bm_eq (by decide)) _
  have sqs : ((s.resetCqs f).resetSqs f).bm = (s.resetCqs f).bm := State.foldl_eq (p := State.bm) (fun t x =>
    (State.dropSq_moves (l_ := [.regs, .qe]) (.refl _ t) (by decide)).bm_eq (by decide)) _
  unfold State.resetDone
  extract_lets own a b qe bm w x y z v fn u
  have hb : b.bm = s.bm := sqs.trans cqs
  have hw : w.bm.chans = b.bm.chans := rfl
  have admin : Moves [.qe, .regs, .fn, .out] w z := w.resetAdmin_moves f
  have views : Moves [.xb, .regs] z v := z.resetViews_moves' f
  have hu : u.bm = v.bm := by
    simp only [u]
    split
    · rfl
    · exact (State.setVf_moves (l_ := [.regs, .fn]) (.refl _ v) (by decide)).bm_eq (by decide)
  have scan : Moves [.qe, .fn, .out] u (u.scanCq f 1) := State.scanCq_moves (.refl _ u) (by decide)
  rw [scan.bm_eq (by decide), hu, views.bm_eq (by decide), admin.bm_eq (by decide), hw, hb]

theorem State.settleFn_chans (f : Nat) : (s.settleFn f).bm.chans = s.bm.chans := by
  have ends (t : State) (r : EntryRef) (c : Cqe) : (t.endStarted r c).bm = t.bm :=
    (State.endStarted_moves (l_ := [.regs, .qe, .fn, .out]) (.refl _ t) (by decide)).bm_eq (by decide)
  unfold State.settleFn
  split
  · split
    · exact State.resetDone_chans 0
    · rfl
  · extract_lets w
    split
    · rfl
    · have folds := State.foldl_eq (p := State.bm) (s := s.setVf (f - 1) (fun v => { v with freezing := [] }))
        (f := fun (s : State) (r : EntryRef) => match s.qe.started.find? (fun x => x.ref == r) with
          | some st => s.endStarted r (entryCqe r st.sqe St.ok 0 0 0 0 0 false)
          | none => s) (fun t r => by split; exacts [ends _ _ _, rfl]) w
      exact congrArg MoverSt.chans (folds.trans (State.setVf_moves (l_ := [.regs, .fn]) (.refl _ s) (by decide) |>.bm_eq (by decide)))

section
variable {q : HostReq} {rest : List HostReq} {data : List Byte}

theorem State.unitsRead_bm (e : Nat) : (s.unitsRead e q rest).bm = (s.takes e rest).bm := State.bump_bm _ _ _

/-- What was prefetched waits for its channel (R373). -/
theorem prefetched_spec (reqs : (s.engine e.val).reqs = q :: rest) (run : s.stopped e.val = false) (pre : q.prefetch = true) :
    answers (.bmHostCompletion e .ok data) s (fun t =>
        t.engine e.val = { s.engine e.val with reqs := rest, fetched := some (q, q.bytes data) } ∧ t.bm.chans = s.bm.chans) := by
  refine answers_eq rfl ((State.hostCompletion_ok reqs run).trans (if_pos pre)) ⟨?_, ?_⟩
  · rw [State.engine_setEngine, State.engine_of_bm (State.unitsRead_bm _), State.takes_engine]
  · rw [State.setEngine_chans, State.unitsRead_bm, State.takes_chans]

/-- Data moves a MOVE forward (R374). -/
theorem State.burstEnds_goesOn {c : Nat} {j : Job} {b : Bool} {l : List Byte} (job : (s.chan c).job = some j) (kind : j.kind = .move b)
    (open_ : j.ending = none) (more : j.done + l.length < j.len) : s.burstEnds c .data l =
      ((((s.sendHost (.write j.ref.fn.val (j.dst + j.done) l)).bump (Reg.BM_WRITE_UNITS_COUNT (c / 64)) (l.length / 64)).setJob c
        (some { j with done := j.done + l.length, residue := j.residue + l.length })).settleFn j.ref.fn.val) := by
  cases j
  subst kind open_
  unfold State.burstEnds
  rw [job]
  exact congrArg (fun t : State => t.settleFn _) (if_pos more)

theorem moveData_spec {j : Job} {b : Bool} (reqs : (s.engine e.val).reqs = q :: rest) (run : s.stopped e.val = false) (used : q.prefetch = false)
    (carries : q.kind = .data) (job : (s.chan q.chan).job = some j) (kind : j.kind = .move b) (open_ : j.ending = none)
    (more : j.done + (q.bytes data).length < j.len) : answers (.bmHostCompletion e .ok data) s (fun t =>
      (t.chan q.chan).job = some { j with done := j.done + (q.bytes data).length, residue := j.residue + (q.bytes data).length } ∧
      Emit.write j.ref.fn.val (j.dst + j.done) (q.bytes data) ∈ t.out) := by
  have job' : ((s.unitsRead e.val q rest).chan q.chan).job = some j := by
    rw [State.chan_of_bm (State.unitsRead_bm _), State.takes_chan, job]
  refine answers_eq rfl ((State.hostCompletion_ok reqs run).trans ((if_neg (ne_true_of_eq_false used)).trans
    ((congrArg (fun k => State.burstEnds _ _ k _) carries).trans (State.burstEnds_goesOn job' kind open_ more)))) ⟨?_, ?_⟩
  · rw [State.chan, State.settleFn_chans, ← State.chan, State.chan_setJob]
  · refine State.mem_out_of_moves (State.settleFn_moves (l_ := [.regs, .qe, .bm, .xb, .fn, .out]) (.refl _ _) (by decide)) ?_
    rw [State.setJob, State.setChan_out, State.bump, State.setF_out, State.sendHost_out]
    exact .head _

end

/-! ## Faults of an engine (R387) -/

/-- Engine `e` stops. -/
def State.stops (s : State) (e : Nat) : State := s.setF Reg.BM_STATUS_STOPPED (setBit (s.f Reg.BM_STATUS_STOPPED) e true)

/-- The first fault of an engine is recorded. -/
def State.recordFault (s : State) (e : Nat) (q : HostReq) (kind : Nat) : State :=
  let s := (s.setF (Reg.BM_FAULT_INFO_CHANNEL e) (q.chan % 64)).setF (Reg.BM_FAULT_INFO_KIND e) kind
  let s := (s.setF (Reg.BM_FAULT_INFO_FUNCTION e) q.fn).setB (Reg.BM_FAULT_INFO_PREFETCH e) q.prefetch
  let s := (s.setReg (Reg.BM_FAULT_ADDR_LO e) (BitVec.ofNat 32 q.addr)).setReg (Reg.BM_FAULT_ADDR_HI e) (BitVec.ofNat 32 (q.addr / 2 ^ 32))
  let s := (s.setReg (Reg.BM_FAULT_MF_LO e) (BitVec.ofNat 32 s.mfN)).setReg (Reg.BM_FAULT_MF_HI e) (BitVec.ofNat 32 (s.mfN / 2 ^ 32))
  s.setB (Reg.BM_FAULT_INFO_VALID e) true

/-- The fault is counted and captured, and the engine drops its burst. -/
def State.reportFault (s : State) (e : Nat) (q : HostReq) (kind cause : Nat) : State :=
  let s := (s.bump (Reg.BM_EVENTS_FAULTS e)).captureError 5 1 cause q.fn e q.addr
  let s := s.when (kind == 2) (fun s => s.aer q.fn Aer.timeout)
  let s := s.when (kind == 3) (fun s => (s.aer q.fn Aer.poisoned).bump Reg.HIF_ERR_COUNT_POISONED)
  s.setEngine e { s.engine e with holder := none, fetched := none }

/-- What an engine's fault leaves of the entries of its channels. -/
def State.failJobs (s : State) (e : Nat) : State :=
  (s.inCqeOrder Prod.snd ((numbers (e * 64) 64).filterMap (fun k => (s.chan k).job.map (fun j => (k, j.ref))))).foldl
    (fun (x : State) y => x.endJob y.1 St.engineFault true) s

theorem State.engineFault_eq {e : Nat} {q : HostReq} {kind cause : Nat} (first : (s.stops e).flag (Reg.BM_FAULT_INFO_VALID e) = false) :
    s.engineFault e q kind cause = (((s.stops e).recordFault e q kind).reportFault e q kind cause).failJobs e := by
  have whole : s.engineFault e q kind cause = ((if (s.stops e).flag (Reg.BM_FAULT_INFO_VALID e) then s.stops e
    else (s.stops e).recordFault e q kind).reportFault e q kind cause).failJobs e := rfl
  rw [whole, if_neg (ne_true_of_eq_false first)]

/-- A field of the fault record, or that an engine is stopped. -/
def besideReport (e : EngineId) (y : Fld) : Bool :=
  besideEngine e y && (Reg.BM_EVENTS_FAULTS e.val).apart y && !captureRegs.contains y.addr && Reg.HIF_ERR_COUNT_POISONED.apart y

theorem State.f_reportFault (q : HostReq) (kind cause : Nat) {y : Fld} (h : besideReport e y = true) :
    (s.reportFault e.val q kind cause).f y = s.f y := by
  simp only [besideReport, Bool.and_eq_true, Bool.not_eq_true'] at h
  obtain ⟨⟨⟨engine, counted⟩, captured⟩, poisoned⟩ := h
  have outside : y.addr ∉ captureRegs := by
    rw [← List.contains_iff_mem, captured]
    exact Bool.false_ne_true
  unfold State.reportFault
  extract_lets a b c
  have ha : a.f y = s.f y := ((State.captureError_spec ..).2.1.f outside).trans (State.f_bump_apart _ _ counted)
  have hb : b.f y = a.f y := by
    simp only [b, State.when]
    split
    · exact State.aer_f _ _ _
    · rfl
  have hc : c.f y = b.f y := by
    simp only [c, State.when]
    split
    · exact (State.f_bump_apart _ _ poisoned).trans (State.aer_f _ _ _)
    · rfl
  exact (State.f_setEngine_beside _ engine).trans (hc.trans (hb.trans ha))

theorem State.holder_reportFault (e : Nat) (q : HostReq) (kind cause : Nat) : ((s.reportFault e q kind cause).engine e).holder = none := by
  unfold State.reportFault
  extract_lets a b c
  rw [State.engine_setEngine]

theorem nbit_mod {v i k : Nat} (h : i < k) : nbit (v % 2 ^ k) i = nbit v i := nbit_congr (Nat.mod_mod _ _) h

theorem nbit_clearBit (v i : Nat) : nbit (setBit v i false) i = false := by
  unfold setBit
  split
  next same => exact same
  next set_ =>
    have odd : v / 2 ^ i % 2 = 1 := by
      rw [Bool.not_eq_false, nbit, beq_iff_eq] at set_
      exact set_
    have less : (v - 2 ^ i) / 2 ^ i = v / 2 ^ i - 1 := by
      have := Nat.sub_mul_div v (2 ^ i) 1
      rwa [Nat.mul_one] at this
    rw [if_neg Bool.false_ne_true, nbit, less, beq_eq_false_iff_ne]
    omega

theorem State.stopped_stops : (s.stops e.val).stopped e.val = true := by
  rw [State.stopped, State.stops, State.f_setF_same _ _ rfl, nbit_mod (k := Reg.BM_STATUS_STOPPED.w) e.isLt, nbit_setBit]

/-- A field that the function, the address and the microframe of a fault's record leave. -/
def besideRecord (e : EngineId) (y : Fld) : Bool :=
  (Reg.BM_FAULT_INFO_VALID e.val).apart y && y.addr != Reg.BM_FAULT_MF_HI e.val && y.addr != Reg.BM_FAULT_MF_LO e.val &&
    y.addr != Reg.BM_FAULT_ADDR_HI e.val && y.addr != Reg.BM_FAULT_ADDR_LO e.val && (Reg.BM_FAULT_INFO_PREFETCH e.val).apart y &&
    (Reg.BM_FAULT_INFO_FUNCTION e.val).apart y

/-- What the record of a fault holds. -/
theorem State.recordFault_spec (q : HostReq) {kind : Nat} (low : kind < 4) :
    (s.recordFault e.val q kind).flag (Reg.BM_FAULT_INFO_VALID e.val) = true ∧ (s.recordFault e.val q kind).f (Reg.BM_FAULT_INFO_KIND e.val) = kind ∧
      (s.recordFault e.val q kind).f (Reg.BM_FAULT_INFO_CHANNEL e.val) = q.chan % 64 ∧
      (s.recordFault e.val q kind).stopped e.val = s.stopped e.val := by
  unfold State.recordFault
  extract_lets a b c d
  have hd {y : Fld} (h : besideRecord e y = true) : (d.setB (Reg.BM_FAULT_INFO_VALID e.val) true).f y = a.f y := by
    simp only [besideRecord, Bool.and_eq_true] at h
    obtain ⟨⟨⟨⟨⟨⟨valid, hi⟩, lo⟩, ahi⟩, alo⟩, pre⟩, fn⟩ := h
    rw [State.f_setB_apart _ _ valid]
    simp only [d]
    rw [State.f_setReg_other _ _ hi, State.f_setReg_other _ _ lo]
    simp only [c]
    rw [State.f_setReg_other _ _ ahi, State.f_setReg_other _ _ alo]
    simp only [b]
    rw [State.f_setB_apart _ _ pre, State.f_setF_apart _ _ fn]
  refine ⟨State.flag_setB_same _ _ rfl rfl, ?_, ?_, ?_⟩
  · rw [hd ((by decide : ∀ e : EngineId, besideRecord e (Reg.BM_FAULT_INFO_KIND e.val) = true) e)]
    simp only [a]
    rw [State.f_setF_same _ _ rfl]
    exact Nat.mod_eq_of_lt low
  · rw [hd ((by decide : ∀ e : EngineId, besideRecord e (Reg.BM_FAULT_INFO_CHANNEL e.val) = true) e)]
    simp only [a]
    rw [State.f_setF_apart _ _ ((by decide : ∀ e : EngineId, (Reg.BM_FAULT_INFO_KIND e.val).apart (Reg.BM_FAULT_INFO_CHANNEL e.val) = true) e),
      State.f_setF_same _ _ rfl]
    exact Nat.mod_eq_of_lt (Nat.mod_lt _ (by decide))
  · rw [State.stopped, hd ((by decide : ∀ e : EngineId, besideRecord e Reg.BM_STATUS_STOPPED = true) e)]
    simp only [a]
    rw [State.f_setF_apart _ _ ((by decide : ∀ e : EngineId, (Reg.BM_FAULT_INFO_KIND e.val).apart Reg.BM_STATUS_STOPPED = true) e),
      State.f_setF_apart _ _ ((by decide : ∀ e : EngineId, (Reg.BM_FAULT_INFO_CHANNEL e.val).apart Reg.BM_STATUS_STOPPED = true) e), State.stopped]

theorem State.flag_stops {y : Fld} (h : Reg.BM_STATUS_STOPPED.apart y = true) : (s.stops e.val).flag y = s.flag y := State.flag_setF_apart _ _ h

/-- A bus error stops the engine, is recorded, and fails the entries of its channels (R387). -/
theorem State.engineFault_spec {s : State} {e : EngineId} (q : HostReq) {kind : Nat} (cause : Nat) (low : kind < 4) (first : s.flag (Reg.BM_FAULT_INFO_VALID e.val) = false) :
    ∃ u : State, u.stopped e.val = true ∧ u.flag (Reg.BM_FAULT_INFO_VALID e.val) = true ∧ u.f (Reg.BM_FAULT_INFO_KIND e.val) = kind ∧
        u.f (Reg.BM_FAULT_INFO_CHANNEL e.val) = q.chan % 64 ∧ (u.engine e.val).holder = none ∧ s.engineFault e.val q kind cause = u.failJobs e.val := by
  have first' : (s.stops e.val).flag (Reg.BM_FAULT_INFO_VALID e.val) = false :=
    (State.flag_stops ((by decide : ∀ e : EngineId, Reg.BM_STATUS_STOPPED.apart (Reg.BM_FAULT_INFO_VALID e.val) = true) e)).trans first
  obtain ⟨valid, code, channel, stopped⟩ := (s.stops e.val).recordFault_spec (e := e) q low
  refine ⟨_, ?_, ?_, ?_, ?_, State.holder_reportFault _ _ _ _, State.engineFault_eq first'⟩
  · rw [State.stopped, State.f_reportFault _ _ _ ((by decide : ∀ e, besideReport e Reg.BM_STATUS_STOPPED = true) e), ← State.stopped, stopped,
      State.stopped_stops]
  · rw [State.flag, State.f_reportFault _ _ _ ((by decide : ∀ e : EngineId, besideReport e (Reg.BM_FAULT_INFO_VALID e.val) = true) e), ← State.flag, valid]
  · rw [State.f_reportFault _ _ _ ((by decide : ∀ e : EngineId, besideReport e (Reg.BM_FAULT_INFO_KIND e.val) = true) e), code]
  · rw [State.f_reportFault _ _ _ ((by decide : ∀ e : EngineId, besideReport e (Reg.BM_FAULT_INFO_CHANNEL e.val) = true) e), channel]

/-- A failing or missing completion stops its engine (R387). -/
theorem completionFails_spec {s : State} {e : EngineId} {q : HostReq} {rest : List HostReq} {data : List Byte} (reqs : (s.engine e.val).reqs = q :: rest)
    (run : s.stopped e.val = false) :
      (∀ c ∈ [(Instr.bmHostCompletion e .ca data, 1), (.bmHostCompletion e .poisoned data, 3),
          (.hostCompletionTimeout (.engine e), 2)], s.flag (Reg.BM_FAULT_INFO_VALID e.val) = false → answers c.1 s (fun t => ∃ u : State,
        u.stopped e.val = true ∧ u.flag (Reg.BM_FAULT_INFO_VALID e.val) = true ∧ u.f (Reg.BM_FAULT_INFO_KIND e.val) = c.2 ∧
        u.f (Reg.BM_FAULT_INFO_CHANNEL e.val) = q.chan % 64 ∧ (u.engine e.val).holder = none ∧
        t = (u.inCqeOrder Prod.snd ((numbers (e.val * 64) 64).filterMap (fun k => (u.chan k).job.map (fun j => (k, j.ref))))).foldl
          (fun (x : State) y => x.endJob y.1 St.engineFault true) u)) := by
  intro c mem first
  have kept : (s.takes e.val rest).flag (Reg.BM_FAULT_INFO_VALID e.val) = false := by
    rw [State.flag, State.takes_f ((by decide : ∀ e : EngineId, besideEngine e (Reg.BM_FAULT_INFO_VALID e.val) = true) e), ← State.flag, first]
  have fault (kind cause : Nat) (low : kind < 4) := State.engineFault_spec q cause low kept
  simp only [List.mem_cons, List.not_mem_nil, or_false] at mem
  obtain rfl | rfl | rfl := mem
  · obtain ⟨u, h⟩ := fault 1 (cplCause .ca) (by decide)
    obtain ⟨a, b, c, d, f, whole⟩ := h
    exact answers_eq rfl ((State.hostCompletion_fails reqs run (.inl rfl)).trans whole) ⟨u, a, b, c, d, f, rfl⟩
  · obtain ⟨u, a, b, c, d, f, whole⟩ := fault 3 (cplCause .poisoned) (by decide)
    exact answers_eq rfl ((State.hostCompletion_fails reqs run (.inr rfl)).trans whole) ⟨u, a, b, c, d, f, rfl⟩
  · obtain ⟨u, a, b, c, d, f, whole⟩ := fault 2 5 (by decide)
    exact answers_eq rfl ((State.hostTimeout_fails reqs run).trans whole) ⟨u, a, b, c, d, f, rfl⟩

/-- A request of a ring that is never answered faults its ring (R363). -/
theorem ringTimeout_spec {s : State} (f : FnId) (i : BitVec 11) {q : SqRec} (ring : s.sq f.val i.toNat = some q) (sound : q.faulted = false) :
    answers (.hostCompletionTimeout (.ring f i)) s (fun t =>
      t.sq f.val i.toNat = some { q with faulted := true, scanning := false, again := false } ∧
      (t.fnRec f.val).aer.contains Aer.timeout = true) := by
  refine answers_of rfl ⟨?_, State.aer_contains _ _ _⟩
  have faults : s.hostActive.ringFault f.val i.toNat 5 = (s.hostActive.setSq f.val i.toNat
      (some { q with faulted := true, scanning := false, again := false })).captureError 4 2 5 f.val q.glob (q.base + q.pos * 64) := by
    unfold State.ringFault
    rw [show s.hostActive.sq f.val i.toNat = some q from ring]
    exact if_neg (ne_true_of_eq_false sound)
  have aer (z : State) : (z.aer f.val Aer.timeout).qe = z.qe := (State.aer_moves (l_ := [.fn]) (.refl _ z) (by decide)).qe_eq (by decide)
  have captured (z : State) (a b c d e g : Nat) : (z.captureError a b c d e g).qe = z.qe :=
    (State.captureError_moves (l_ := [.regs, .fn, .out]) (.refl _ z) (by decide)).qe_eq (by decide)
  rw [show s.hostTimeout (.ring f i) = (s.hostActive.ringFault f.val i.toNat 5).aer f.val Aer.timeout from rfl,
    State.sq_of_qe (congrArg QueueSt.sqs (aer _)), faults, State.sq_of_qe (congrArg QueueSt.sqs (captured _ _ _ _ _ _ _)), State.sq_setSq]

/-! ## Aborts and restarts (R385, R389) -/

theorem bmAbort_spec {s : State} (ch : BitVec 10) {j : Job} {b : Bool} (serves : s.pfServes Reg.BM_ABORT) (job : (s.chan ch.toNat).job = some j)
    (kind : j.kind = .move b) :
      answers (.bmAbort ch) s (fun t => if s.burstOpen ch.toNat then
          (t.chan ch.toNat).job = some { j with ending := some (moveEnding j St.aborted true) }
        else ∃ u : State, (u.chan ch.toNat).job = none ∧
          u.f (Reg.BM_EVENTS_ABORTS (ch.toNat / 64)) = min (s.f (Reg.BM_EVENTS_ABORTS (ch.toNat / 64)) + 1)
            (2 ^ (Reg.BM_EVENTS_ABORTS (ch.toNat / 64)).w - 1) ∧
          t = u.completeRef j.ref St.aborted j.residue (BitVec.ofNat 32 j.items) (BitVec.ofNat 32 j.items) 0 0 true) := by
  obtain ⟨e, he⟩ : ∃ e : EngineId, e.val = ch.toNat / 64 := ⟨⟨ch.toNat / 64, by omega⟩, rfl⟩
  have counted : (s.bump (Reg.BM_EVENTS_ABORTS (ch.toNat / 64))).f (Reg.BM_EVENTS_ABORTS (ch.toNat / 64)) =
      min (s.f (Reg.BM_EVENTS_ABORTS (ch.toNat / 64)) + 1) (2 ^ (Reg.BM_EVENTS_ABORTS (ch.toNat / 64)).w - 1) := State.f_bump_same _ _ rfl
  have running : (s.bump (Reg.BM_EVENTS_ABORTS (ch.toNat / 64))).stopped (ch.toNat / 64) = s.stopped (ch.toNat / 64) := by
    rw [← he, State.stopped, State.f_bump_apart _ _ ((by decide : ∀ e : EngineId, (Reg.BM_EVENTS_ABORTS e.val).apart Reg.BM_STATUS_STOPPED = true) e),
      State.stopped]
  have ends : s.endJob ch.toNat St.aborted false = if (s.bump (Reg.BM_EVENTS_ABORTS (ch.toNat / 64))).burstOpen ch.toNat then
      (s.bump (Reg.BM_EVENTS_ABORTS (ch.toNat / 64))).setJob ch.toNat (some { j with ending := some (moveEnding j St.aborted true) })
      else ((s.bump (Reg.BM_EVENTS_ABORTS (ch.toNat / 64))).freeChan ch.toNat).completeRef j.ref St.aborted j.residue (BitVec.ofNat 32 j.items)
        (BitVec.ofNat 32 j.items) 0 0 true := by
    cases j
    subst kind
    unfold State.endJob State.endMove State.endEntry
    rw [job]
    dsimp only
    rw [job]
    exact if_pos rfl
  generalize hu : s.bump (Reg.BM_EVENTS_ABORTS (ch.toNat / 64)) = u at counted running ends
  have same : u.burstOpen ch.toNat = s.burstOpen ch.toNat := by
    have bm : u.bm = s.bm := by
      rw [← hu]
      exact State.setF_bm _ _ _
    rw [State.burstOpen, running, State.engine_of_bm bm, State.burstOpen]
  refine answers_eq rfl ((s.pfWrite_of_serves serves _).trans ends) ?_
  rw [same]
  by_cases open_ : s.burstOpen ch.toNat
  · rw [if_pos open_, if_pos open_, State.chan_setJob]
  · rw [if_neg open_, if_neg open_]
    refine ⟨u.freeChan ch.toNat, ?_, ?_, rfl⟩
    · rw [State.freeChan, State.chan, State.setEngine_chans]
      exact congrArg ChanRec.job (State.chan_setChan u ch.toNat _)
    · rw [State.freeChan, ← he, State.f_setEngine_beside _ ((by decide : ∀ e : EngineId, besideEngine e (Reg.BM_EVENTS_ABORTS e.val) = true) e),
        State.setJob, State.setChan_f, he, counted]

/-- An engine starts again (R389). -/
def State.startsAgain (s : State) (e : Nat) : State :=
  let s := (s.setEngine e { s.engine e with restarts := [], holder := none, fetched := none }).setB (Reg.BM_ENG_STATUS_RESTARTING e) false
  s.setF Reg.BM_STATUS_STOPPED (setBit (s.f Reg.BM_STATUS_STOPPED) e false)

theorem restartDone_spec {s : State} {e : EngineId} (waits : (s.engine e.val).restarts ≠ []) (quiet : (s.engine e.val).reqs = []) :
    answers (.engineRestartDone e) s (fun t => ∃ u : State,
      u.stopped e.val = false ∧ u.engine e.val = { s.engine e.val with restarts := [], holder := none, fetched := none } ∧
      u.flag (Reg.BM_ENG_STATUS_RESTARTING e.val) = false ∧
      t = (u.inCqeOrder id (s.engine e.val).restarts).foldl (fun (x : State) r => x.completeRef r St.ok) u) := by
  have goes : ¬ ((s.engine e.val).restarts.isEmpty || !(s.engine e.val).reqs.isEmpty) = true := by
    rw [quiet, List.isEmpty_nil, Bool.not_true, Bool.or_false, List.isEmpty_iff]
    exact waits
  refine answers_eq rfl (if_neg goes) ⟨s.startsAgain e.val, ?_, ?_, ?_, rfl⟩
  · rw [State.stopped, State.startsAgain, State.f_setF_same _ _ rfl, nbit_mod (k := Reg.BM_STATUS_STOPPED.w) e.isLt, nbit_clearBit]
  · rw [State.startsAgain, State.engine_of_bm (State.setF_bm _ _ _), State.engine_of_bm (State.setB_bm _ _ _), State.engine_setEngine]
  · rw [State.startsAgain, State.flag_setF_apart _ _ ((by decide : ∀ e : EngineId,
      Reg.BM_STATUS_STOPPED.apart (Reg.BM_ENG_STATUS_RESTARTING e.val) = true) e), State.flag_setB_same _ _ rfl rfl]

/-- Settles O29: each command of an engine by the lemma on what it does to its oldest request, its channel or its stop. -/
theorem enginesServeTheirChannels : Obligations.EnginesServeTheirChannels := by
  unfold Obligations.EnginesServeTheirChannels
  intro s e
  refine ⟨fun c j k a n => burstStart_spec,
    fun c j k a n runs free next job read refused =>
      answers_eq rfl ((State.burstRead_starts runs free next).trans (State.startUnit_refuses job read refused e.val)) rfl,
    fun c j runs free next job => ?_, fun q rest data => completionLost_spec, fun q rest data reqs run => ?_,
    fun f i q => ringTimeout_spec f i, fun ch j b => bmAbort_spec ch, restartDone_spec⟩
  · obtain ⟨u, shown, bm, ends⟩ := State.bufferLost_spec e.val job
    exact answers_eq rfl ((State.burstRead_loses runs free next).trans ends) ⟨u, shown, bm, rfl⟩
  · exact ⟨prefetched_spec reqs run, fun j ch => moveData_spec reqs run, completionFails_spec reqs run⟩

end

end Sys2Proof.Machine

namespace Sys2Proof.Machine

/-! # The topology manager (R111 to R126, R273, R358, R509) -/

/-! ## What the order of a subtree keeps -/

section
variable {s z : State} {p : Nat}

theorem State.todoOf_setTodo (p : Nat) (l : List TmItem) : (s.setTodo p l).todoOf p = l := Tbl.get_set_same _ _ _

/-- Requests that join the order of a subtree of a device that is no PARTNER. -/
theorem State.pushTm_joins (h : s.isPartner = false) (own : Bool) (l : List TmReq) :
    s.pushTm p own l = (s.setTodo p (s.todoOf p ++ l.map (fun q => ⟨q, own, false, none, 0⟩))).kickTm p :=
  if_neg (ne_true_of_eq_false h)

/-- Registers of the slots of EBM. -/
def slotRegs : List Nat := [Reg.EBM_SLOT_FREE, Reg.EBM_SLOT_LARGEST, Reg.EBM_SLOT_WAITS]

theorem State.regsBut_setRuns (h : z.regsBut slotRegs s) (l : List (Nat × Nat)) : z.regsBut slotRegs (s.setRuns l) :=
  ((h.keep (u := { s with ebm := { s.ebm with runs := l } }) rfl).setF (x := Reg.EBM_SLOT_FREE_FREE) _ (.head _)).setF
    (x := Reg.EBM_SLOT_LARGEST_RUN) _ (.tail _ (.head _))

theorem State.regsBut_startWait (h : z.regsBut slotRegs s) (x : Nat) : z.regsBut slotRegs (s.startWait x) :=
  .ite (fun _ => h) (fun _ => (h.bump (x := Reg.EBM_SLOT_WAITS_COUNT) 1 (by decide)).keep rfl)

theorem State.regsBut_slotFor {x n a : Nat} {t : State} (h : z.regsBut slotRegs s) (slot : s.slotFor x n = some (t, a)) : z.regsBut slotRegs t := by
  unfold State.slotFor State.allocSlot at slot
  split at slot
  · split at slot
    · exact nomatch slot
    · obtain ⟨rfl, -⟩ := Prod.mk.inj (Option.some.inj slot)
      exact State.regsBut_setRuns h _
  · exact nomatch slot

theorem State.regsBut_takeGenSlot (h : z.regsBut slotRegs s) (g : Nat) : z.regsBut slotRegs (s.takeGenSlot g) := by
  unfold State.takeGenSlot
  extract_lets r
  refine .ite (fun _ => h.keep rfl) (fun _ => ?_)
  split
  next t a slot => exact (State.regsBut_slotFor h slot).keep rfl
  next => exact State.regsBut_startWait h _

theorem State.setCf_regs (s : State) (h : Nat) (x : CtxF) (v : Nat) : (s.setCf h x v).regs = s.regs :=
  (State.setCf_moves (l_ := [.ebm]) (.refl _ s) (by decide)).regs_eq (by decide)

theorem State.regsBut_slotTaken (h : z.regsBut slotRegs s) (x : Nat) (r : Option Xfer) : z.regsBut slotRegs ((s.stopWait x).setXfer x r) := h.keep rfl

theorem State.regsBut_setXfer (h : z.regsBut slotRegs s) (x : Nat) (r : Option Xfer) : z.regsBut slotRegs (s.setXfer x r) := h.keep rfl

theorem State.regsBut_takeSlot (h : z.regsBut slotRegs s) (x : Nat) : z.regsBut slotRegs (s.takeSlot x) := by
  unfold State.takeSlot
  refine .ite (fun _ => State.regsBut_takeGenSlot h _) (fun _ => ?_)
  split
  next => exact h
  next r _ =>
    refine .ite (fun _ => State.regsBut_slotTaken h x _) (fun _ => ?_)
    split
    next t a slot =>
      have given : z.regsBut slotRegs ((t.setCf r.handle Cx.slot a).setCf r.handle Cx.granules (t.npGranules r.handle)) :=
        (State.regsBut_slotFor h slot).keep ((State.setCf_regs _ _ _ _).trans (State.setCf_regs t r.handle Cx.slot a))
      exact State.regsBut_slotTaken given x _
    next => exact State.regsBut_startWait (State.regsBut_setXfer h x _) x

theorem State.regsBut_serveWaits (h : z.regsBut slotRegs s) : z.regsBut slotRegs s.serveWaits :=
  h.foldl _ fun _ x hu => State.regsBut_takeSlot hu x

theorem State.closeAll_regs (s : State) (x : Nat) : (s.closeAll x).regs = s.regs :=
  (State.closeAll_moves (l_ := [.bus]) (.refl _ s) (by decide)).regs_eq (by decide)

theorem State.nextOn_regs (s : State) (h : Nat) : (s.nextOn h).regs = s.regs :=
  (State.nextOn_moves (l_ := [.bus]) (.refl _ s) (by decide)).regs_eq (by decide)

theorem State.noWork_regs (s : State) (t f : Nat) : (s.noWork t f).regs = s.regs := by
  unfold State.noWork
  split <;> rfl

/-- A transfer that leaves the bus changes the registers of the slots alone. -/
theorem State.regsBut_dropXfer (h : z.regsBut slotRegs s) (x : Nat) : z.regsBut slotRegs (s.dropXfer x) := by
  unfold State.dropXfer
  split
  next => exact h
  next r _ =>
    extract_lets waits a b c
    have ha : z.regsBut slotRegs a := h.keep ((State.noWork_regs _ _ _).trans (State.closeAll_regs s x))
    have hb : z.regsBut slotRegs b := ha.when _ (ha.keep (State.setCf_regs _ _ _ _))
    have hc : z.regsBut slotRegs c := .ite (fun _ => hb.keep (State.nextOn_regs _ _))
      (fun _ => .ite (fun _ => hb) (fun _ => (State.regsBut_setRuns hb _).keep (State.setCf_regs _ _ _ _)))
    exact State.regsBut_serveWaits hc

theorem State.regsBut_dropTmXfers (s : State) (p : Nat) : s.regsBut slotRegs (s.dropTmXfers p) :=
  (State.regsBut.refl _ s).foldl _ fun _ x hu => State.regsBut_dropXfer hu x

/-- The request at the head of the order of a subtree has ended: what the device had on the bus for it goes. -/
def State.requestOver (s : State) (p : Nat) (rest : List TmItem) : State := (s.dropTmXfers p).setTodo p rest

section
variable {rest : List TmItem}

theorem State.requestOver_moves (s : State) (p : Nat) (rest : List TmItem) : Moves [.regs, .tree, .ts, .ebm, .bus, .mre] s (s.requestOver p rest) :=
  State.setTodo_moves (State.dropTmXfers_moves (.refl _ s) (by decide)) (by decide)

theorem State.dropTmXfers_tree (s : State) (p : Nat) : (s.dropTmXfers p).tree = s.tree :=
  (State.dropTmXfers_moves (l_ := [.regs, .ts, .ebm, .bus, .mre]) (.refl _ s) (by decide)).tree_eq (by decide)

theorem State.requestOver_tree (s : State) (p : Nat) (rest : List TmItem) :
    (s.requestOver p rest).tree = { s.tree with todo := Tbl.set (fun _ => []) s.tree.todo p rest } := by
  rw [State.requestOver, State.setTodo, State.dropTmXfers_tree]

theorem State.todoOf_requestOver (s : State) (p : Nat) (rest : List TmItem) : (s.requestOver p rest).todoOf p = rest := State.todoOf_setTodo _ _

theorem State.enumOf_requestOver (s : State) (p : Nat) (rest : List TmItem) : (s.requestOver p rest).enumOf p = s.enumOf p := by
  rw [State.enumOf, State.requestOver_tree, State.enumOf]

theorem State.tmOn_requestOver (s : State) (p : Nat) (rest : List TmItem) : (s.requestOver p rest).tmOn = s.tmOn :=
  (s.regsBut_dropTmXfers p).flag (x := Reg.TM_CTRL_EN) (by decide)

end

/-! ## The end of a request (R69, R116, R435) -/

/-- What the end of a request leaves, apart from its enumeration. -/
def State.requestAnswered (s : State) (it : TmItem) (r : TmReply) (ok : Bool) : State :=
  if ok then s.reqDone it.req r.data else
    match it.req with
    | .groupPorts .. => { s with tree := { s.tree with groupFail := true } }
    | .bind d ep _ => s.bindFailed d ep
    | _ => s

/-- How the enumeration that a request belongs to goes on. -/
def State.enumGoesOn (s : State) (p : Nat) (it : TmItem) (r : TmReply) (ok : Bool) : State :=
  match it.own, s.enumOf p with
  | true, some e =>
    if !ok then s.enumFail p e (stepReason e.step)
    else if !s.tmOn then s.stopEnum p e
    else match it.req, r.lost with
      | .getDev, some x => (s.serialLost x.1.toNat x.2).advanceEnum p e it.req r 0
      | _, _ => s.advanceEnum p e it.req r (it.rtt.getD 0)
  | _, _ => s

/-- A request has ended well; a PING that nothing has answered has not. -/
def TmItem.ended (it : TmItem) (r : TmReply) : Bool := r.status == 0 && (match it.req with | .ping .. => it.rtt.isSome | _ => true)

section
variable {it : TmItem} {rest : List TmItem} {r : TmReply}

theorem State.tmDone_eq (todo : s.todoOf p = it :: rest) (sent : it.sent = true) (r : TmReply) :
    s.tmDone p r = (((s.requestOver p rest).requestAnswered it r (it.ended r)).enumGoesOn p it r (it.ended r)).kickTm p := by
  unfold State.tmDone
  rw [todo]
  dsimp only
  rw [sent]
  rfl

theorem State.here_own (s : State) (p : Nat) : s.here p true = p := rfl

/-- TM_TRANSFER_COMPLETE outside SATIN is the end of the request that the subtree has outstanding. -/
theorem tmTransferComplete_ends {p : Trunk} (todo : s.todoOf p = it :: rest) (sent : it.sent = true) (awake : s.inSatin = false) (r : TmReply) :
    exec (.tmTransferComplete p r) s =
      .next ((((s.requestOver p rest).requestAnswered it r (it.ended r)).enumGoesOn p it r (it.ended r)).kickTm p) := by
  have run : exec (.tmTransferComplete p r) s = execTmTransferComplete p r s := rfl
  rw [run, execTmTransferComplete, todo]
  dsimp only
  rw [sent, State.here_own, State.tmComplete, awake, Bool.and_false, State.tmDone_eq todo sent]
  rfl

/-- A word of the serial table that is lost is recorded (R435). -/
theorem State.serialLost_new {a : Nat} (addr : Nat) (new : s.tree.lostAddrs.contains a = false) :
    (s.serialLost a addr).tree.lostAddrs = s.tree.lostAddrs ++ [a] ∧ (s.serialLost a addr).flag Reg.GLB_ERR_UNCORRECTABLE = true := by
  have tree : (s.smError tableUnit addr).tree = s.tree :=
    (State.smError_moves (l_ := [.regs, .fn, .out]) (.refl _ s) (by decide)).tree_eq (by decide)
  unfold State.serialLost
  extract_lets u
  have hu : u.tree = s.tree := tree
  have shown : u.flag Reg.GLB_ERR_UNCORRECTABLE = true := (State.captureError_spec (s := s) 7 4 1 noFunction tableUnit addr).1
  clear_value u
  rw [if_neg (by rw [hu, new]; exact Bool.false_ne_true), hu]
  exact ⟨rfl, shown⟩

/-- A request that belongs to no enumeration has ended. -/
theorem tmOtherComplete_spec {p : Trunk} (todo : s.todoOf p = it :: rest) (sent : it.sent = true) (other : it.own = false) (awake : s.inSatin = false) :
    answers (.tmTransferComplete p r) s (fun t => ∃ u v : State, u.todoOf p = rest ∧ State.only [.regs, .tree, .ts, .ebm, .bus, .mre] s u ∧
        (r.status = 0 → (∀ d n, it.req ≠ .ping d n) → v = u.reqDone it.req r.data) ∧
        (r.status ≠ 0 → (∀ d x g, it.req = .bind d x g → v = u.bindFailed d x) ∧
          ((∀ d x g, it.req ≠ .bind d x g) → State.only [.tree] u v)) ∧ t = v.kickTm p) := by
  have goes (z : State) (ok : Bool) : z.enumGoesOn p it r ok = z := by rw [State.enumGoesOn, other]
  refine answers_of (tmTransferComplete_ends todo sent awake r) ⟨s.requestOver p rest, (s.requestOver p rest).requestAnswered it r (it.ended r),
    State.todoOf_requestOver _ _ _, (State.requestOver_moves s p rest).only, fun good plain => ?_, fun bad => ?_, by rw [goes]⟩
  · have ended : it.ended r = true := by
      rw [TmItem.ended, good]
      split
      next d n e => exact absurd e (plain d n)
      next => rfl
    rw [State.requestAnswered, ended]
    rfl
  · have ended : it.ended r = false := by
      rw [TmItem.ended, beq_eq_false_iff_ne.mpr bad, Bool.false_and]
    rw [State.requestAnswered, ended]
    refine ⟨fun d x g e => by rw [e]; rfl, fun plain => ?_⟩
    rw [if_neg Bool.false_ne_true]
    split
    next => exact (Moves.tree (l := [.tree]) (.refl _ _) (by decide) _).only
    next d x g e => exact absurd e (plain d x g)
    next => exact (Moves.refl _ _).only

/-- A PING of an enumeration has been answered. -/
theorem tmPingComplete_spec {p : Trunk} {e : EnumRec} {d n n0 : Nat} (todo : s.todoOf p = it :: rest) (sent : it.sent = true) (own : it.own = true)
    (req : it.req = .ping d n) (enum : s.enumOf p = some e) (good : r.status = 0) (measured : it.rtt = some n0) (on : s.tmOn = true)
    (awake : s.inSatin = false) : answers (.tmTransferComplete p r) s (fun t => ∃ u : State,
        u.todoOf p = rest ∧ u.enumOf p = some e ∧ t = (u.advanceEnum p e (.ping d n) r n0).kickTm p) := by
  have ended : it.ended r = true := by
    rw [TmItem.ended, good, req]
    exact (Bool.true_and _).trans (congrArg Option.isSome measured)
  have plain : (s.requestOver p rest).requestAnswered it r true = s.requestOver p rest := by
    rw [State.requestAnswered, req]
    rfl
  have enum' : (s.requestOver p rest).enumOf p = some e := (State.enumOf_requestOver s p rest).trans enum
  refine answers_of (tmTransferComplete_ends todo sent awake r) ⟨s.requestOver p rest, State.todoOf_requestOver _ _ _, enum', ?_⟩
  rw [ended, plain, State.enumGoesOn, own, enum']
  dsimp only
  rw [State.tmOn_requestOver, on, req, measured]
  simp only [Bool.not_true, Bool.false_eq_true, if_false, Option.getD_some]

/-- A device descriptor has come, but its word of the serial table is lost (R435). -/
theorem tmSerialLost_spec {p : Trunk} {e : EnumRec} {a : Half} {x : Nat} (todo : s.todoOf p = it :: rest) (sent : it.sent = true) (own : it.own = true)
    (req : it.req = .getDev) (enum : s.enumOf p = some e) (good : r.status = 0) (on : s.tmOn = true)
    (awake : s.inSatin = false) (lost : r.lost = some (a, x)) (new : s.tree.lostAddrs.contains a.toNat = false) :
      answers (.tmTransferComplete p r) s (fun t => ∃ u v : State, u.tree.lostAddrs = s.tree.lostAddrs ++ [a.toNat] ∧
        u.bound a.toNat = true ∧ u.flag Reg.GLB_ERR_UNCORRECTABLE = true ∧ v = u.advanceEnum p e .getDev r 0 ∧ t = v.kickTm p) := by
  have ended : it.ended r = true := by
    rw [TmItem.ended, good, req]
    rfl
  have plain : (s.requestOver p rest).requestAnswered it r true = s.requestOver p rest := by
    rw [State.requestAnswered, req]
    rfl
  have enum' : (s.requestOver p rest).enumOf p = some e := (State.enumOf_requestOver s p rest).trans enum
  have tree := congrArg TreeSt.lostAddrs (s.requestOver_tree p rest)
  obtain ⟨lostAddrs, shown⟩ := State.serialLost_new x ((congrArg (List.contains · a.toNat) tree).trans new)
  rw [tree] at lostAddrs
  refine answers_of (tmTransferComplete_ends todo sent awake r) ⟨(s.requestOver p rest).serialLost a.toNat x, _, lostAddrs, ?_, shown, rfl, ?_⟩
  · rw [State.bound, lostAddrs, List.contains_iff_mem.mpr (List.mem_append_right _ (.head _)), Bool.or_true, Bool.true_or]
  · rw [ended, plain, State.enumGoesOn, own, enum']
    dsimp only
    rw [State.tmOn_requestOver, on, req, lost]
    simp only [Bool.not_true, Bool.false_eq_true, if_false]

/-- With EN = 0 an enumeration stops after its step (R509). -/
theorem tmStops_spec {p : Trunk} {e : EnumRec} (todo : s.todoOf p = it :: rest) (sent : it.sent = true) (own : it.own = true)
    (req : it.req = .getDev) (enum : s.enumOf p = some e) (good : r.status = 0) (off : s.tmOn = false)
    (awake : s.inSatin = false) : answers (.tmTransferComplete p r) s (fun t => ∃ u : State, u.todoOf p = rest ∧
        t = (u.stopEnum p e).kickTm p) := by
  have ended : it.ended r = true := by
    rw [TmItem.ended, good, req]
    rfl
  have plain : (s.requestOver p rest).requestAnswered it r true = s.requestOver p rest := by
    rw [State.requestAnswered, req]
    rfl
  have enum' : (s.requestOver p rest).enumOf p = some e := (State.enumOf_requestOver s p rest).trans enum
  refine answers_of (tmTransferComplete_ends todo sent awake r) ⟨s.requestOver p rest, State.todoOf_requestOver _ _ _, ?_⟩
  rw [ended, plain, State.enumGoesOn, own, enum']
  dsimp only
  rw [State.tmOn_requestOver, off]
  rfl

end

/-! ## Reports and attaches (R111, R116, R509) -/

theorem hubStatusReport_read {hub : Half} {b : BitVec 64} (alone : s.isPartner = false) (known : s.hubs.any (fun d => d.addr == hub.toNat) = true)
    (on : s.tmOn = true) : answers (.hubStatusReport hub b) s (fun t => ∃ u : State,
      u.todoOf (s.rootOf hub.toNat) = s.todoOf (s.rootOf hub.toNat) ++
        ((List.range 64).filter (nbit b.toNat)).map (fun i => ⟨.getStatus hub.toNat i, false, false, none, 0⟩) ∧ t = u.kickTm (s.rootOf hub.toNat)) := by
  have runs : s.hubReport hub.toNat b.toNat = s.readHub hub.toNat b.toNat := by
    rw [State.hubReport, alone, known, if_neg (by decide), if_pos on]
  refine answers_eq rfl (runs.trans (State.pushTm_joins alone _ _)) ⟨_, ?_, rfl⟩
  rw [State.todoOf_setTodo, List.map_map]
  rfl

theorem hubStatusReport_waits {hub : Half} {b : BitVec 64} (alone : s.isPartner = false) (known : s.hubs.any (fun d => d.addr == hub.toNat) = true)
    (off : s.tmOn = false) : answers (.hubStatusReport hub b) s (fun t =>
        Tbl.get (fun _ => 0) t.tree.reports hub.toNat = Tbl.get (fun _ => 0) s.tree.reports hub.toNat ||| b.toNat) := by
  refine answers_of rfl ?_
  rw [State.hubReport, alone, known, if_neg (by decide), if_neg (ne_true_of_eq_false off)]
  exact Tbl.get_set_same _ _ _

theorem State.enumStart_may (may : s.enumMay = true) : s.enumStart p = match s.enumOf p, s.nextAttach p with
    | some _, _ => s.resetAhead p
    | none, some a =>
      State.beginEnum (State.showEnum { s with tree := { s.tree with waiting := removeFirst (fun b => b == a) s.tree.waiting } }) a
    | none, none => s := by
  rw [State.enumStart, may]
  rfl

/-- The subtree's own waiting attach as one whose reset goes ahead (R116). -/
def State.aheadOf (s : State) (a : AttachPos) : State :=
  { s with tree := { s.tree with waiting := replaceFirst (fun b => b == a) (fun b => { b with reset := true }) s.tree.waiting } }

theorem enumerationStart_ahead {p : Trunk} {e : EnumRec} {a : AttachPos} (may : s.enumMay = true) (single : s.isHolder = false)
    (busy : s.enumOf p = some e) (waits : s.tree.waiting.find? (fun a => a.root == p.val && a.hub != 0 && !a.reset && !a.atStep3) = some a) :
      answers (.enumerationStart p) s (fun t => ∃ u : State,
        u.tree.waiting = replaceFirst (fun b => b == a) (fun b => { b with reset := true }) s.tree.waiting ∧ u.enumOf p = some e ∧
        t = u.pushTm p false [.setFeature a.hub a.port 2]) := by
  have here (own : Bool) : s.here p.val own = p.val := by
    rw [State.here, single, Bool.not_false, Bool.or_true, if_pos rfl]
  have ahead : s.enumStart p.val = (s.aheadOf a).pushTm p.val false [.setFeature a.hub a.port 2] := by
    rw [State.enumStart_may may, busy]
    dsimp only
    rw [State.resetAhead, waits]
    rfl
  exact answers_eq rfl ((congrArg s.enumStart (here _)).trans ahead) ⟨s.aheadOf a, rfl, busy, rfl⟩

/-- An attach waits no more. -/
def State.takenUp (s : State) (a : AttachPos) : State := { s with tree := { s.tree with waiting := removeFirst (fun b => b == a) s.tree.waiting } }

theorem State.showEnum_spec (s : State) : s.showEnum.tree = s.tree ∧ s.showEnum.f Reg.TM_ENUM_STATUS_WAITING = min s.tree.waiting.length 65535 := by
  refine ⟨(State.showEnum_moves (l_ := [.regs]) (.refl _ s) (by decide)).tree_eq (by decide), ?_⟩
  rw [State.showEnum, State.f_setF_apart _ _ (by decide), State.f_setF_same _ _ rfl]
  exact Nat.mod_eq_of_lt (by rw [show Reg.TM_ENUM_STATUS_WAITING.w = 16 from rfl]; omega)

theorem enumerationStart_begins {p : Trunk} {a : AttachPos}
    (next : s.tree.waiting.find? (fun a => a.root == p.val && !(a.reset && !a.atStep3)) = some a) (idle : s.enumOf p = none)
    (on : s.tmOn = true) (alone : s.isPartner = false) (ready : s.flag Reg.EBM_STATUS_INIT_DONE = true) (awake : s.inSatin = false)
    (up : s.inDormant = false) (room : s.tree.held.length < 1024) :
      answers (.enumerationStart p) s (fun t => ∃ u : State, u.tree.waiting = removeFirst (fun b => b == a) s.tree.waiting ∧
        u.f Reg.TM_ENUM_STATUS_WAITING = min u.tree.waiting.length 65535 ∧ t = u.beginEnum a) := by
  have may : s.enumMay = true := by
    rw [State.enumMay, on, alone, ready, awake, up, decide_eq_true room]
    rfl
  have own : (s.tree.waiting.any (fun a => a.root == p.val) && (s.enumOf p.val).isNone) = true := by
    have mem := List.mem_of_find?_eq_some next
    have root := List.find?_some next
    rw [Bool.and_eq_true] at root
    rw [idle, List.any_eq_true.mpr ⟨a, mem, root.1⟩]
    rfl
  have begins : s.enumStart p.val = (s.takenUp a).showEnum.beginEnum a := by
    rw [State.enumStart_may may, idle, State.nextAttach, next]
    rfl
  have run : exec (.enumerationStart p) s = execEnumerationStart p s := rfl
  obtain ⟨tree, shown⟩ := (s.takenUp a).showEnum_spec
  refine answers_eq (run.trans ?_) begins ⟨(s.takenUp a).showEnum, congrArg TreeSt.waiting tree, ?_, rfl⟩
  · rw [execEnumerationStart, own, State.here_own]
  · rw [shown, tree]

/-! ## TM_CTRL and the backlog (R358, R509) -/

theorem State.f_writeTmCtrl (s : State) (v : Word) (lo w : Nat) (fits : lo + w ≤ 32)
    (rw_ : (List.range w).all (fun i => Nat.testBit 0xffff0077 (lo + i)) = true) : (s.writeReg Reg.TM_CTRL v).f ⟨Reg.TM_CTRL, lo, w⟩ = bits v lo w :=
  s.f_writeReg ⟨Reg.TM_CTRL, lo, w⟩ v ⟨0x800000, 0x32, 0xffff0077, 0x0, 0x0⟩ (by decide : regSpec Reg.TM_CTRL = _) fits rw_

theorem tmEnableWrite_spec {v : Word} (serves : s.pfServes Reg.TM_CTRL) (unpaired : s.pairFormed = false) :
    answers (.tmEnableWrite v) s (fun t => ∃ u : State,
      u.f Reg.TM_CTRL_EN = bits v 0 1 ∧ u.f Reg.TM_CTRL_AUTO_ENUM = bits v 1 1 ∧ u.f Reg.TM_CTRL_REBIND_EN = bits v 2 1 ∧
      u.f Reg.TM_CTRL_HUB_POLL = bits v 4 3 ∧ u.f Reg.TM_CTRL_ROOT_ID = bits v 16 16 ∧
      t = if s.tmOn = false ∧ bits v 0 1 = 1 ∧ s.isPartner = false then u.takeUpAll else u) := by
  have en : (s.writeReg Reg.TM_CTRL v).f Reg.TM_CTRL_EN = bits v 0 1 := s.f_writeTmCtrl v 0 1 (by decide) (by decide)
  have role : (s.writeReg Reg.TM_CTRL v).isPartner = s.isPartner := by
    rw [State.isPartner, State.role, (s.regsBut_writeReg _ v).f (x := Reg.PU_STATUS_ROLE) (by decide), ← State.role, State.isPartner]
  refine answers_eq rfl (s.pfWrite_of_serves serves _) ⟨s.writeReg Reg.TM_CTRL v, en, s.f_writeTmCtrl v 1 1 (by decide) (by decide),
    s.f_writeTmCtrl v 2 1 (by decide) (by decide), s.f_writeTmCtrl v 4 3 (by decide) (by decide),
    s.f_writeTmCtrl v 16 16 (by decide) (by decide), ?_⟩
  rw [State.tmEnable, State.pairHold_unformed s v unpaired]
  dsimp only
  refine if_congr ?_ rfl rfl
  have on : (s.writeReg Reg.TM_CTRL v).tmOn = (bits v 0 1 == 1) := congrArg (· == 1) en
  rw [role, on, Bool.and_eq_true, Bool.and_eq_true, Bool.not_eq_true', Bool.not_eq_true', beq_iff_eq, and_assoc]

theorem tmBacklogDrain_spec {e : TopoEvent} {rest : List TopoEvent} {s1 : State} (held : s.tree.held = e :: rest)
    (posted : s.postEvent (s.f Reg.TM_EVENT_CTRL_CQ) (topoDws e) 2 = some s1) :
      answers .tmBacklogDrain s (fun t => ∃ u : State,
        u = State.drainTopo { s1 with tree := { s1.tree with held := rest } } (rest.length + s.tree.kept.length) ∧
        t = (u.tree.todo.map (·.1)).foldl (fun x p => x.kickTm p) u) := by
  have first (n : Nat) : s.drainTopo (n + 1) = State.drainTopo { s1 with tree := { s1.tree with held := rest } } n := by
    rw [State.drainTopo, held]
    dsimp only
    rw [posted]
  have count : s.tree.held.length + s.tree.kept.length = rest.length + s.tree.kept.length + 1 := by
    rw [held, List.length_cons]
    omega
  refine answers_of rfl ⟨_, rfl, ?_⟩
  rw [State.tmDrain, count, first]

/-! ## Addresses and pair ports (R118, R122, R273) -/

theorem State.tell_tree (s : State) (m : MirrorRec) : (s.tell m).tree = s.tree :=
  (State.tell_moves (l_ := [.pu, .out]) (.refl _ s) (by decide)).tree_eq (by decide)

theorem State.routesOf_setRoutes (s : State) (h : Nat) (l : List Route) : (s.setRoutes h l).routesOf h = l := by
  unfold State.setRoutes
  split
  next same => exact same
  next =>
    rw [State.routesOf, State.tell_tree]
    exact Tbl.get_set_same _ _ _

theorem State.setHubGroup_routes (s : State) (h g bank v : Nat) : (s.setHubGroup h g bank v).tree.routes = s.tree.routes := by
  rw [State.setHubGroup, State.tell_tree]

theorem State.setHubPort_routes (s : State) (h p : Nat) (r : Option HubPort) : (s.setHubPort h p r).tree.routes = s.tree.routes := by
  unfold State.setHubPort
  split
  · rfl
  · rw [State.tell_tree]

theorem State.setDev_routes (s : State) (a : Nat) (d : Option DevRec) : (s.setDev a d).tree.routes = s.tree.routes := by
  unfold State.setDev
  split
  · rfl
  · rw [State.tell_tree]

theorem State.dev_setDev (s : State) (a : Nat) (d : Option DevRec) : (s.setDev a d).dev a = d := by
  unfold State.setDev
  split
  next same => exact same
  next =>
    rw [State.dev, State.tell_tree]
    exact Tbl.get_set_same _ _ _

/-- A hub that is no longer known routes nothing (R118). -/
theorem State.hubForgets_routes (s : State) (h : Nat) : (s.hubForgets h).tree.routes = (s.setRoutes h []).tree.routes := by
  unfold State.hubForgets
  extract_lets a b c
  have hc : c.tree.routes = b.tree.routes := State.foldl_eq (p := fun t : State => t.tree.routes) (fun t x => t.setHubPort_routes _ _ _) _
  have hb : b.tree.routes = a.tree.routes := State.foldl_eq (p := fun t : State => t.tree.routes) (fun t x => t.setHubGroup_routes _ _ _ _) _
  exact hc.trans hb

/-- The contexts of a device are no longer valid. -/
def State.ctxGone (s : State) (d : DevRec) : State := (devHandles d).foldl (fun s h => (s.setCf h Cx.valid 0).tellCtx h) s

/-- The binding of a detached device's address ends. -/
def State.unbinds (s : State) (a : Nat) : State :=
  let s := s.hubForgets a
  let s := (s.tree.hubPorts.filter (fun x => x.1 / 128 == a)).foldl (fun s x => s.setHubPort a (x.1 % 128) none) s
  s.setDev a none

theorem State.unbinds_spec (s : State) (a : Nat) : (s.unbinds a).routesOf a = [] ∧ (s.unbinds a).dev a = none := by
  refine ⟨?_, State.dev_setDev _ _ _⟩
  unfold State.unbinds
  extract_lets u v
  have hv : v.tree.routes = u.tree.routes := State.foldl_eq (p := fun t : State => t.tree.routes) (fun t x => t.setHubPort_routes _ _ _) _
  rw [State.routesOf, State.setDev_routes, hv, State.hubForgets_routes]
  exact s.routesOf_setRoutes a []

theorem State.ctxGone_tree (s : State) (d : DevRec) : (s.ctxGone d).tree = s.tree :=
  State.foldl_eq (p := State.tree) (fun t h => (State.tellCtx_moves (l_ := [.ebm, .pu, .out]) (State.setCf_moves (.refl _ t) (by decide))
    (by decide)).tree_eq (by decide)) _

theorem addressBindingExpiry_spec {addr : Half} {d : DevRec} {t0 : Nat} (known : s.dev addr.toNat = some d) (gone : d.detachedAt = some t0)
    (late : t0 + 1500000000 ≤ s.now) (free : s.unscheduled addr.toNat = true) :
      answers (.addressBindingExpiry addr) s (fun t => ∃ u : State, u.routesOf addr.toNat = [] ∧ u.dev addr.toNat = none ∧
        t = ((s.tree.routes.map (·.1)).filter (fun h => h != addr.toNat && (s.leads h addr.toNat).isSome)).foldl
          (fun x h => x.pushTm (x.rootOf h) false [.clearRoute h addr.toNat addr.toNat]) u) := by
  obtain ⟨routes, dev⟩ := (s.ctxGone d).unbinds_spec addr.toNat
  have tree := s.ctxGone_tree d
  have leads (h : Nat) : (s.ctxGone d).leads h addr.toNat = s.leads h addr.toNat := by
    rw [State.leads, State.routesOf, tree, State.leads, State.routesOf]
  refine answers_of rfl ⟨(s.ctxGone d).unbinds addr.toNat, routes, dev, ?_⟩
  unfold State.bindingExpiry
  rw [known]
  dsimp only
  rw [gone]
  refine (if_pos ⟨late, free⟩).trans ?_
  rw [← tree]
  simp only [← leads]
  rfl

/-- Nothing waits any more for the hub that was returned at a position. -/
def State.returnOver (s : State) (serial : Nat) (a : AttachPos) : State :=
  let s : State := { s with tree := { s.tree with returned := s.tree.returned.filter (fun y => y.1 != serial) } }
  State.showEnum { s with tree := { s.tree with waiting := s.tree.waiting.filter (fun b => !(b.root == a.root && b.hub == a.hub && b.port == a.port)) } }

theorem pairPortTimeout_spec {p : Trunk} {serial : BitVec 64} {x : Nat × AttachPos × Nat}
    (found : s.tree.returned.find? (fun x => x.1 == serial.toNat && x.2.1.root == p.val) = some x) (late : x.2.2 + 250000000 ≤ s.now)
    (unknown : s.devices.any (fun d => d.serial == serial.toNat) = false) :
      answers (.pairPortTimeout p serial) s (fun t => ∃ u : State, u.tree.returned = s.tree.returned.filter (fun y => y.1 != serial.toNat) ∧
        t = u.enumFail p ⟨x.2.1, 5, DevRec.unknown ⟨p, []⟩, false, [], 0, [], false, [], 0, []⟩ Rs.pairPort) := by
  have own : s.tree.returned.any (fun x => x.1 == serial.toNat && x.2.1.root == p.val) = true :=
    List.any_eq_true.mpr ⟨x, List.mem_of_find?_eq_some found,
      List.find?_some (p := fun y : Nat × AttachPos × Nat => y.1 == serial.toNat && y.2.1.root == p.val) found⟩
  have over_ : s.pairPortOver p.val serial.toNat = (s.returnOver serial.toNat x.2.1).enumFail p
      ⟨x.2.1, 5, DevRec.unknown ⟨p, []⟩, false, [], 0, [], false, [], 0, []⟩ Rs.pairPort := by
    unfold State.pairPortOver
    rw [found]
    exact (if_neg (Nat.not_lt.mpr late)).trans (if_neg (ne_true_of_eq_false unknown))
  refine answers_eq rfl ((congrArg (fun b => (s.pairPortOver (s.here p.val b) serial.toNat)) own).trans over_) ⟨s.returnOver serial.toNat x.2.1, ?_, rfl⟩
  exact congrArg TreeSt.returned (State.showEnum_spec _).1

/-- Settles O9: each command of the topology manager by the lemma on what it does to the order of its subtree. -/
theorem topologyManagerWorks : Obligations.TopologyManagerWorks := by
  unfold Obligations.TopologyManagerWorks
  refine ⟨fun s => ⟨fun hub b => hubStatusReport_read, fun hub b => hubStatusReport_waits, fun p e a => enumerationStart_ahead,
    fun p a => enumerationStart_begins, fun p it rest r => tmOtherComplete_spec, fun p it rest r e d n n0 => tmPingComplete_spec,
    fun p it rest r e a x => tmSerialLost_spec, fun p it rest r e => tmStops_spec, fun v => tmEnableWrite_spec, fun e rest s1 => tmBacklogDrain_spec⟩,
    fun s => ⟨fun addr d t0 => addressBindingExpiry_spec, fun p serial x => pairPortTimeout_spec⟩⟩

end

end Sys2Proof.Machine

namespace Sys2Proof.Machine

/-! # Settings of the scheduler, and the endpoint buffer memory (R135, R157, R165, R176 to R182) -/

section
variable {s z : State}

/-! ## Settings (R135, R157) -/

theorem State.f_writeTsCtrl (s : State) (v : Word) (lo w : Nat) (fits : lo + w ≤ 32)
    (rw_ : (List.range w).all (fun i => Nat.testBit 0x3 (lo + i)) = true) : (s.writeReg Reg.TS_CTRL v).f ⟨Reg.TS_CTRL, lo, w⟩ = bits v lo w :=
  s.f_writeReg ⟨Reg.TS_CTRL, lo, w⟩ v ⟨0x700000, 0x2, 0x3, 0x0, 0x0⟩ (by decide : regSpec Reg.TS_CTRL = _) fits rw_

theorem State.f_writeTrunkCfg (s : State) (t : Trunk) (v : Word) (lo w : Nat) (fits : lo + w ≤ 32)
    (rw_ : (List.range w).all (fun i => Nat.testBit 0x3ff (lo + i)) = true) :
    (s.writeReg (Reg.TS_TRUNK_CFG t) v).f ⟨Reg.TS_TRUNK_CFG t, lo, w⟩ = bits v lo w :=
  s.f_writeReg ⟨Reg.TS_TRUNK_CFG t, lo, w⟩ v ⟨0x0, 0x0, 0x3ff, 0x0, 0x0⟩ (regSpec_trunk t 0 _ t.isLt (by decide) rfl) fits rw_

/-- Registers of a trunk's load (R151). -/
def loadRegs (t : Nat) : List Nat := [Reg.TS_LOAD_DOWN t, Reg.TS_LOAD_UP t, Reg.TS_LOAD_RESP t, Reg.TS_LOAD_COUNT t]

theorem State.regsBut_showLoad (s : State) (t : Nat) : s.regsBut (loadRegs t) (s.showLoad t) := by
  have here (i : Fin 4) : (loadRegs t)[i] ∈ loadRegs t := List.getElem_mem _
  unfold State.showLoad
  extract_lets l d u r n a b c
  have ha : s.regsBut (loadRegs t) a := ((State.regsBut.refl (loadRegs t) s).setF _ (here 0)).setF _ (here 0)
  have hb : s.regsBut (loadRegs t) b := (ha.setF _ (here 1)).setF _ (here 1)
  have hc : s.regsBut (loadRegs t) c := (hb.setF _ (here 2)).setF _ (here 2)
  exact (hc.setF _ (here 3)).setF _ (here 3)

theorem cfg_not_load (t : Nat) : Reg.TS_TRUNK_CFG t ∉ loadRegs t := by
  simp only [loadRegs, Reg.TS_TRUNK_CFG, Reg.TS_LOAD_DOWN, Reg.TS_LOAD_UP, Reg.TS_LOAD_RESP, Reg.TS_LOAD_COUNT, List.mem_cons, List.not_mem_nil, or_false]
  omega

theorem trunkCfgWrite_spec {t : Trunk} {v : Word} (serves : s.pfServes (Reg.TS_TRUNK_CFG t)) : answers (.trunkCfgWrite t v) s (fun r =>
      if bits v 8 1 = 1 ∧ s.mirrorRefused t v = true then
        r.flag (Reg.TS_TRUNK_STATUS_MIRROR_REFUSED t) = true ∧ r.reg (Reg.TS_TRUNK_CFG t) = s.reg (Reg.TS_TRUNK_CFG t)
      else r.f (Reg.TS_TRUNK_CFG_MIRROR t) = bits v 0 8 ∧ r.f (Reg.TS_TRUNK_CFG_MIRROR_EN t) = bits v 8 1 ∧
        r.f (Reg.TS_TRUNK_CFG_PATH t) = bits v 9 1) := by
  have bit : (nbit v.toNat 8 = true ∧ s.mirrorRefused t v = true) ↔ (bits v 8 1 = 1 ∧ s.mirrorRefused t v = true) :=
    and_congr_left fun _ => beq_iff_eq
  refine answers_eq rfl ((s.pfWrite_of_serves serves _).trans rfl) ?_
  unfold State.trunkCfg
  by_cases refused : bits v 8 1 = 1 ∧ s.mirrorRefused t v = true
  · rw [if_pos refused, if_pos (bit.mpr refused)]
    refine ⟨State.flag_setB_same _ _ rfl rfl, State.reg_setReg_other _ _ ?_⟩
    simp only [Reg.TS_TRUNK_CFG, Reg.TS_TRUNK_STATUS_MIRROR_REFUSED, Reg.TS_TRUNK_STATUS]
    omega
  · rw [if_neg refused, if_neg (mt bit.mp refused)]
    have shown (y : Fld) (h : y.addr = Reg.TS_TRUNK_CFG t) : ((s.writeReg (Reg.TS_TRUNK_CFG t) v).showLoad t).f y = (s.writeReg (Reg.TS_TRUNK_CFG t) v).f y :=
      (State.regsBut_showLoad _ t).f (by rw [h]; exact cfg_not_load t)
    exact ⟨(shown _ rfl).trans (s.f_writeTrunkCfg t v 0 8 (by decide) (by decide)), (shown _ rfl).trans (s.f_writeTrunkCfg t v 8 1 (by decide) (by decide)),
      (shown _ rfl).trans (s.f_writeTrunkCfg t v 9 1 (by decide) (by decide))⟩

/-! ## The endpoint buffer memory (R177, R179, R181, R182) -/

theorem ebmInitDone_spec (new : s.flag Reg.EBM_STATUS_INIT_DONE = false) (supplied : s.ck.porst = false) : answers .ebmInitDone s (fun t =>
      t.flag Reg.EBM_STATUS_INIT_DONE = true ∧ ∀ a n, t.ebmRead a n = List.replicate n 0) := by
  have runs : s.ebmInit = State.setB { s with ebm := { s.ebm with mem := [] } } Reg.EBM_STATUS_INIT_DONE true := by
    rw [State.ebmInit, new, supplied]
    exact if_neg (by decide)
  refine answers_eq rfl runs ⟨State.flag_setB_same _ _ rfl rfl, fun a n => ?_⟩
  rw [State.ebmRead, State.setB_ebm]
  exact readBytes_nil 0 a n

/-- PF BAR2 may use the buffer memory (R181, R182, R333). -/
def State.diagOpen (s : State) : Prop :=
  s.ebm.powered = true ∧ s.flag Reg.EBM_STATUS_INIT_DONE = true ∧ s.inDormant = false ∧ s.operational = true

theorem State.diagOpen_gate (h : s.diagOpen) :
    ¬((!s.ebm.powered) = true ∨ (!s.flag Reg.EBM_STATUS_INIT_DONE) = true ∨ s.inDormant = true ∨ (!s.operational) = true) := by
  obtain ⟨powered, ready, up, operational⟩ := h
  rw [powered, ready, up, operational]
  decide

theorem diagRead_spec {x : BitVec 27} {n : Nat} (d0 : s.d3hot 0 = false) (ready : s.diagOpen) :
    answers (.diagWindowAccess (.read x n)) s (fun t => t.out = .ans (.data (s.ebmRead x.toNat n)) :: s.out ∧ t.ebm = s.ebm) :=
  answers_eq rfl ((if_neg (ne_true_of_eq_false d0)).trans (if_neg (State.diagOpen_gate ready))) ⟨rfl, rfl⟩

theorem diagWrite_spec {x : BitVec 27} {b : List Byte} (d0 : s.d3hot 0 = false) (ready : s.diagOpen) :
      answers (.diagWindowAccess (.write x b)) s (fun t =>
        if s.flag Reg.EBM_CTRL_DIAG_WRITE_EN then t.ebmRead x.toNat b.length = b ∧
          (∀ a, (a < x.toNat ∨ x.toNat + b.length ≤ a) → t.ebmRead a 1 = s.ebmRead a 1) ∧
          ∀ w, x.toNat ≤ w * 8 → w * 8 < x.toNat + b.length → w ∉ t.ebm.poison
        else t.ebm = s.ebm) := by
  refine answers_eq rfl ((if_neg (ne_true_of_eq_false d0)).trans (if_neg (State.diagOpen_gate ready))) ?_
  dsimp only
  by_cases en : s.flag Reg.EBM_CTRL_DIAG_WRITE_EN = true
  · rw [if_pos en, if_pos en]
    refine ⟨Tbl.readBytes_writeBytes _ _ _, fun a out => Tbl.readBytes_writeBytes_other _ _ _ _ _ (by omega), fun w low high mem => ?_⟩
    have kept := (List.mem_filter.mp mem).2
    rw [Bool.not_eq_true', decide_eq_false_iff_not] at kept
    exact kept (by omega)
  · rw [if_neg en, if_neg en]

/-- A read that the memory is not there for returns all ones (R182). -/
theorem diagGated_spec {x : BitVec 27} {n : Nat} (d0 : s.d3hot 0 = false) (gated : s.ebm.powered = false ∨ s.flag Reg.EBM_STATUS_INIT_DONE = false) :
      answers (.diagWindowAccess (.read x n)) s (fun t => t.out.head? = some (.ans (.data (List.replicate n 0xFF))) ∧ t.ebm = s.ebm) := by
  have closed : (!s.ebm.powered) = true ∨ (!s.flag Reg.EBM_STATUS_INIT_DONE) = true ∨ s.inDormant = true ∨ (!s.operational) = true :=
    gated.elim (fun h => .inl (by rw [h]; rfl)) (fun h => .inr (.inl (by rw [h]; rfl)))
  refine answers_eq rfl ((if_neg (ne_true_of_eq_false d0)).trans (if_pos closed)) ⟨rfl, ?_⟩
  exact (State.gate_moves (l_ := [.regs, .pm, .fn, .out]) (.refl _ s) (by decide)).ebm_eq (by decide)

theorem scrub_runs {a : Nat} {d : Bool} (en : s.flag Reg.EBM_CTRL_SCRUB_EN = true) (powered : s.ebm.powered = true) :
    exec (.scrubPass [⟨a, d⟩]) s = .next (s.ebmHit ⟨a, d⟩ 1) := congrArg Host.Outcome.next (if_pos ⟨en, powered⟩)

theorem scrubCorrects_spec {a : Nat} (en : s.flag Reg.EBM_CTRL_SCRUB_EN = true) (powered : s.ebm.powered = true) :
    answers (.scrubPass [⟨a, false⟩]) s (fun t =>
      t.f Reg.EBM_ECC_COUNT_CORRECTED = min (s.f Reg.EBM_ECC_COUNT_CORRECTED + 1) 65535 ∧ t.ebm = s.ebm) :=
  answers_of (scrub_runs en powered) ⟨State.f_bump_same s 1 rfl, State.setF_ebm _ _ _⟩

theorem State.ebmUncorrected_f (s : State) (a : Nat) :
    (s.ebmUncorrected a).f Reg.EBM_ECC_COUNT_UNCORRECTED = min (s.f Reg.EBM_ECC_COUNT_UNCORRECTED + 1) 65535 := by
  have bumped : (s.bump Reg.EBM_ECC_COUNT_UNCORRECTED).f Reg.EBM_ECC_COUNT_UNCORRECTED = min (s.f Reg.EBM_ECC_COUNT_UNCORRECTED + 1) 65535 :=
    State.f_bump_same s 1 rfl
  unfold State.ebmUncorrected
  extract_lets b
  split
  · exact bumped
  · rw [State.f_setB_apart _ _ (by decide), State.f_setF_apart _ _ (by decide)]
    exact bumped

/-- Word `w` of the memory reads 0, and its check bits are bad (R176, R181). -/
def State.blanked (s : State) (w : Nat) : State :=
  let s := s.ebmWrite (w * 8) (List.replicate 8 0)
  if s.ebm.poison.contains w then s else { s with ebm := { s.ebm with poison := w :: s.ebm.poison } }

theorem State.f_blanked (s : State) (w : Nat) (y : Fld) : (s.blanked w).f y = s.f y := by
  refine State.f_of_regs ?_ y
  unfold State.blanked
  extract_lets t
  split <;> rfl

theorem State.ebmRead_blanked (s : State) (w : Nat) : (s.blanked w).ebmRead (w * 8) 8 = List.replicate 8 0 := by
  have blank : (s.ebmWrite (w * 8) (List.replicate 8 0)).ebmRead (w * 8) 8 = List.replicate 8 0 :=
    Tbl.readBytes_writeBytes _ (w * 8) (List.replicate 8 0)
  unfold State.blanked
  extract_lets t
  split <;> exact blank

theorem State.poison_blanked (s : State) (w : Nat) : w ∈ (s.blanked w).ebm.poison := by
  unfold State.blanked
  extract_lets t
  split
  next held => exact List.contains_iff_mem.mp held
  next => exact .head _

/-- An error beyond the contexts and the slots blanks its word (R176). -/
theorem State.ebmHit_beyond (s : State) {a : Nat} (high : 0x7000000 ≤ a) (cause : Nat) : ∃ v : State,
    v.f Reg.EBM_ECC_COUNT_UNCORRECTED = min (s.f Reg.EBM_ECC_COUNT_UNCORRECTED + 1) 65535 ∧ s.ebmHit ⟨a, true⟩ cause = v.blanked (a / 8) := by
  unfold State.ebmHit
  rw [if_pos rfl]
  extract_lets b u fn v w d
  have count : v.f Reg.EBM_ECC_COUNT_UNCORRECTED = b.f Reg.EBM_ECC_COUNT_UNCORRECTED := (State.captureError_spec ..).2.1.f (by decide)
  exact ⟨v, count.trans (s.ebmUncorrected_f a), (if_neg (by simp only; omega)).trans (if_neg (by simp only; omega))⟩

/-- A double-bit error that lies in no context and in no slot: the word reads 0, and its check bits are bad (R176, R181). -/
theorem scrubLoses_spec {a : Nat} (en : s.flag Reg.EBM_CTRL_SCRUB_EN = true) (powered : s.ebm.powered = true) (high : 0x7000000 ≤ a) :
    answers (.scrubPass [⟨a, true⟩]) s (fun t =>
      t.f Reg.EBM_ECC_COUNT_UNCORRECTED = min (s.f Reg.EBM_ECC_COUNT_UNCORRECTED + 1) 65535 ∧
      t.ebmRead (a / 8 * 8) 8 = List.replicate 8 0 ∧ a / 8 ∈ t.ebm.poison) := by
  obtain ⟨v, counted, whole⟩ := s.ebmHit_beyond high 1
  exact answers_eq (scrub_runs en powered) whole ⟨(v.f_blanked _ _).trans counted, v.ebmRead_blanked _, v.poison_blanked _⟩

/-! ## Slots go in order (R165) -/

theorem State.xfer_setXfer_other (s : State) {x y : Nat} (r : Option Xfer) (h : y ≠ x) : (s.setXfer x r).xfer y = s.xfer y :=
  Tbl.get_set_other _ _ h

theorem State.cf_setCf_beside (s : State) (h : Nat) {x y : CtxF} (v : Nat) (same : y.d = x.d) (fits : x.lo + x.w ≤ 32)
    (apart : y.lo + y.w ≤ x.lo ∨ x.lo + x.w ≤ y.lo) : (s.setCf h x v).cf h y = s.cf h y := by
  rw [State.cf, same, State.setCf, State.ctx_setCtx_same, bits_putBits_other _ _ _ _ _ _ fits apart, State.cf, same]

theorem State.allocSlot_kept {n g : Nat} {u : State} (slot : s.allocSlot n = some (u, g)) : Moves [.regs, .ebm] s u ∧ u.ebm.waits = s.ebm.waits := by
  unfold State.allocSlot at slot
  split at slot
  · exact nomatch slot
  next g' fit =>
    have state : u = s.setRuns (insertBy (fun a b => decide (a.1 < b.1)) (g', n) s.ebm.runs) := (congrArg Prod.fst (Option.some.inj slot)).symm
    rw [state]
    refine ⟨State.setRuns_moves (.refl _ s) (by decide), ?_⟩
    rw [State.setRuns, State.showSlots, State.setF_ebm, State.setF_ebm]

/-- The first of those that wait takes its slot (R165). -/
theorem State.takeSlot_gets {x g : Nat} {r : Xfer} {u : State} (waits : s.ebm.waits = [x]) (small : x < genWait) (xfer : s.xfer x = some r)
    (without : s.cf r.handle Cx.granules = 0) (slot : s.allocSlot (s.npGranules r.handle) = some (u, g)) :
    s.takeSlot x = (((u.setCf r.handle Cx.slot g).setCf r.handle Cx.granules (u.npGranules r.handle)).stopWait x).setXfer x
      (some { r with waitSlot := false }) := by
  have first : s.slotFor x (s.npGranules r.handle) = some (u, g) := by
    rw [State.slotFor, State.waitsAhead, waits, List.contains_cons, beq_self_eq_true, Bool.true_or, if_pos rfl, List.takeWhile_cons, bne_self_eq_false]
    exact slot
  unfold State.takeSlot
  rw [if_neg (Nat.not_le.mpr small), xfer]
  dsimp only
  rw [if_neg (not_not.mpr without), first]

theorem State.cf_slotTaken (s : State) (x : Nat) (r : Option Xfer) (h : Nat) (y : CtxF) : ((s.stopWait x).setXfer x r).cf h y = s.cf h y := (rfl)

theorem State.waits_slotTaken (s : State) (x : Nat) (r : Option Xfer) : ((s.stopWait x).setXfer x r).ebm.waits = s.ebm.waits.filter (· != x) := (rfl)

theorem State.setCf_waits (s : State) (h : Nat) (y : CtxF) (v : Nat) : (s.setCf h y v).ebm.waits = s.ebm.waits := (rfl)

theorem slotAllocated_gets {x g : Nat} {r : Xfer} {u : State} (waits : s.ebm.waits = [x]) (small : x < genWait) (xfer : s.xfer x = some r)
    (without : s.cf r.handle Cx.granules = 0) (slot : s.allocSlot (s.npGranules r.handle) = some (u, g)) :
      answers .slotAllocated s (fun t => t.ebm.waits = [] ∧
        t.xfer x = some { r with waitSlot := false } ∧ t.cf r.handle Cx.slot = g % 2 ^ Cx.slot.w) := by
  have one : s.serveWaits = s.takeSlot x := by rw [State.serveWaits, waits]; rfl
  obtain ⟨-, kept⟩ := State.allocSlot_kept slot
  refine answers_eq rfl (one.trans (State.takeSlot_gets waits small xfer without slot)) ⟨?_, State.xfer_setXfer _ _ _, ?_⟩
  · rw [State.waits_slotTaken, State.setCf_waits, State.setCf_waits, kept, waits, List.filter_cons, bne_self_eq_false]
    rfl
  · rw [State.cf_slotTaken]
    exact (State.cf_setCf_beside (u.setCf r.handle Cx.slot g) r.handle (x := Cx.granules) (y := Cx.slot) _ rfl (by decide) (by decide)).trans
      (State.cf_setCf_same u r.handle Cx.slot g (by decide))

/-- One that finds no slot goes on waiting (R165). -/
theorem State.takeSlot_waits {x : Nat} {r : Xfer} (small : x < genWait) (xfer : s.xfer x = some r) (without : s.cf r.handle Cx.granules = 0)
    (none_ : s.slotFor x (s.npGranules r.handle) = none) (waiting : s.ebm.waits.contains x = true) :
    s.takeSlot x = s.setXfer x (some { r with waitSlot := true }) := by
  unfold State.takeSlot
  rw [if_neg (Nat.not_le.mpr small), xfer]
  dsimp only
  rw [if_neg (not_not.mpr without), none_]
  exact if_pos waiting

theorem slotAllocated_waits {x y : Nat} {r q : Xfer} (waits : s.ebm.waits = [x, y]) (ne : x ≠ y) (smallX : x < genWait) (smallY : y < genWait)
    (xferX : s.xfer x = some r) (xferY : s.xfer y = some q) (withoutX : s.cf r.handle Cx.granules = 0) (withoutY : s.cf q.handle Cx.granules = 0)
    (full : s.allocSlot (s.npGranules r.handle) = none) : answers .slotAllocated s (fun t => t.ebm = s.ebm) := by
  have two : s.serveWaits = (s.takeSlot x).takeSlot y := by rw [State.serveWaits, waits]; rfl
  have ends : (s.waitsAhead x) = [] := by
    rw [State.waitsAhead, waits, List.contains_cons, beq_self_eq_true, Bool.true_or, if_pos rfl, List.takeWhile_cons, bne_self_eq_false]
    rfl
  have first : s.slotFor x (s.npGranules r.handle) = none := by rw [State.slotFor, ends, List.isEmpty_nil, if_pos rfl, full]
  have memX : s.ebm.waits.contains x = true := by rw [waits]; exact List.contains_iff_mem.mpr (.head _)
  have memY : s.ebm.waits.contains y = true := by rw [waits]; exact List.contains_iff_mem.mpr (.tail _ (.head _))
  have stepX : s.takeSlot x = s.setXfer x (some { r with waitSlot := true }) := State.takeSlot_waits smallX xferX withoutX first memX
  have later : (s.setXfer x (some { r with waitSlot := true })).slotFor y ((s.setXfer x (some { r with waitSlot := true })).npGranules q.handle) = none := by
    have ahead : (s.setXfer x (some { r with waitSlot := true })).waitsAhead y = [x] := by
      unfold State.waitsAhead
      rw [State.setXfer_ebm, memY, if_pos rfl, waits, List.takeWhile_cons, bne_iff_ne.mpr ne, List.takeWhile_cons, bne_self_eq_false]
      rfl
    rw [State.slotFor, ahead]
    rfl
  have stepY := State.takeSlot_waits smallY ((State.xfer_setXfer_other s _ (Ne.symm ne)).trans xferY) withoutY later memY
  refine answers_of rfl ?_
  rw [two, stepX, stepY, State.setXfer_ebm, State.setXfer_ebm]

/-- Settles O10: each setting and each access to the buffer memory by its own lemma. -/
theorem schedulerSettingsAndBufferMemory : Obligations.SchedulerSettingsAndBufferMemory := by
  unfold Obligations.SchedulerSettingsAndBufferMemory
  refine ⟨fun s t v => ⟨fun serves => ?_, trunkCfgWrite_spec⟩, fun s => ⟨ebmInitDone_spec,
    fun x n d0 powered ready up operational => diagRead_spec d0 ⟨powered, ready, up, operational⟩,
    fun x b d0 powered ready up operational => diagWrite_spec d0 ⟨powered, ready, up, operational⟩, fun x n => diagGated_spec, fun a => scrubCorrects_spec,
    fun a => scrubLoses_spec, fun x r u g => slotAllocated_gets, fun x y r q => slotAllocated_waits⟩⟩
  exact answers_eq rfl (s.pfWrite_of_serves serves _) ⟨s.f_writeTsCtrl v 0 1 (by decide) (by decide), s.f_writeTsCtrl v 1 1 (by decide) (by decide)⟩

end

end Sys2Proof.Machine

namespace Sys2Proof.Machine

/-! # Periodic input, and the points of a microframe (R3, R10, R14, R45, R166, R169) -/

section
variable {s : State} {t : Trunk}

/-! ## What a receiver lets through (R31, R76, R112) -/

theorem State.receives_lost {t : Nat} (h : (s.trunk t).delinLost = true) (hops : Nat) (op : State → State) : s.receives t hops op = s := if_pos h

/-- A packet with HOPS of 7 or more is counted at its port. -/
def State.discarded (s : State) (t : Nat) : State := s.updPort t (fun r => { r with discards := min (r.discards + 1) 65535 })

theorem State.receives_far {t hops : Nat} (h : (s.trunk t).delinLost = false) (far : 7 ≤ hops) (op : State → State) :
    s.receives t hops op = s.discarded t := (if_neg (ne_true_of_eq_false h)).trans (if_pos far)

theorem State.receives_near {t hops : Nat} (h : (s.trunk t).delinLost = false) (near : hops < 7) (op : State → State) :
    s.receives t hops op = op s := (if_neg (ne_true_of_eq_false h)).trans (if_neg (Nat.not_le.mpr near))

theorem State.discarded_spec (s : State) (t : Nat) :
    ((s.discarded t).port t).discards = min ((s.port t).discards + 1) 65535 ∧ State.only [.tree] s (s.discarded t) := by
  refine ⟨?_, (State.updPort_moves (l_ := [.tree]) (.refl _ s) (by decide)).only⟩
  rw [State.discarded, State.port_updPort]

/-! ## Periodic responses (R14, R45, R166, R169) -/

theorem unmatched_spec (t : Trunk) : (s.unmatched t).f (Reg.TS_RESP_ERRORS_UNMATCHED t) = min (s.f (Reg.TS_RESP_ERRORS_UNMATCHED t) + 1) 65535 ∧
    (s.unmatched t).ebm = s.ebm ∧ (s.unmatched t).bus = s.bus := by
  rw [State.unmatched, Nat.mod_eq_of_lt t.isLt]
  exact ⟨State.f_bump_same s 1 rfl, State.setF_ebm _ _ _, State.setF_bus _ _ _⟩

theorem State.per_setPer (s : State) (k : Nat) (x : Option PerTx) : (s.setPer k x).per k = x := Tbl.get_set_same _ _ _

/-- The transaction of key `k` has its data. -/
def State.answered (s : State) (k : Nat) (x : PerTx) : State := s.setPer k (some { x with got := true })

theorem State.per_answered (s : State) (k : Nat) (x : PerTx) : (s.answered k x).per k = some { x with got := true } := State.per_setPer _ _ _

section
variable {d : DataPkt} {k : Nat} {x : PerTx}

theorem State.periodicIn_unmatched (kind : respNp d.flags = false) (none_ : s.matchIn t d = none) : s.periodicIn t d = s.unmatched t := by
  rw [State.periodicIn, kind, if_neg Bool.false_ne_true, none_]

theorem State.periodicIn_matched (kind : respNp d.flags = false) (found : s.matchIn t d = some k) (open_ : s.per k = some x) :
    s.periodicIn t d =
      if x.len < d.payload.length ∨ s.halfBytes d.handle.toNat d.seq.toNat < d.payload.length then (s.answered k x).bump (Reg.TS_RESP_ERRORS_OVERSIZE t)
      else if s.cutOffOver d.seq.toNat then (s.answered k x).bump (Reg.TS_LATE_INPUT_COUNT t)
      else if ((s.answered k x).acceptIn d.handle.toNat d.seq.toNat d.payload).2 then
        ((s.answered k x).acceptIn d.handle.toNat d.seq.toNat d.payload).1.blockNotice d.handle.toNat
      else ((s.answered k x).acceptIn d.handle.toNat d.seq.toNat d.payload).1 := by
  unfold State.periodicIn
  rw [kind, if_neg Bool.false_ne_true, found]
  dsimp only
  rw [open_, Nat.mod_eq_of_lt t.isLt]
  rfl

theorem periodicInData_runs (h : (s.trunk t).delinLost = false) (near : d.hops.toNat < 7) : exec (.periodicInData t d) s = .next (s.periodicIn t d) :=
  congrArg Host.Outcome.next (State.receives_near h near _)

theorem periodicLate_spec (h : (s.trunk t).delinLost = false) (near : d.hops.toNat < 7) (kind : respNp d.flags = false) (found : s.matchIn t d = some k)
    (open_ : s.per k = some x) (len : d.payload.length ≤ x.len) (half : d.payload.length ≤ s.halfBytes d.handle.toNat d.seq.toNat)
    (late : s.cutOffOver d.seq.toNat = true) :
      answers (.periodicInData t d) s (fun r => r.f (Reg.TS_LATE_INPUT_COUNT t) = min (s.f (Reg.TS_LATE_INPUT_COUNT t) + 1) 0xFFFFFFFF ∧
        r.ebm = s.ebm ∧ r.per k = some { x with got := true }) := by
  refine answers_eq (periodicInData_runs h near) ((State.periodicIn_matched kind found open_).trans ((if_neg (by omega)).trans (if_pos late))) ⟨?_, ?_, ?_⟩
  · exact State.f_bump_same (s.answered k x) 1 rfl
  · exact State.setF_ebm _ _ _
  · rw [State.per, State.bump, State.setF_bus]
    exact s.per_answered k x

theorem periodicOversize_spec (h : (s.trunk t).delinLost = false) (near : d.hops.toNat < 7) (kind : respNp d.flags = false) (found : s.matchIn t d = some k)
    (open_ : s.per k = some x) (large : x.len < d.payload.length ∨ s.halfBytes d.handle.toNat d.seq.toNat < d.payload.length) :
      answers (.periodicInData t d) s (fun r =>
        r.f (Reg.TS_RESP_ERRORS_OVERSIZE t) = min (s.f (Reg.TS_RESP_ERRORS_OVERSIZE t) + 1) 65535 ∧ r.ebm = s.ebm) :=
  answers_eq (periodicInData_runs h near) ((State.periodicIn_matched kind found open_).trans (if_pos large))
    ⟨State.f_bump_same (s.answered k x) 1 rfl, State.setF_ebm _ _ _⟩

end

end

/-! ## A block comes into its half of the slot (R166) -/

section
variable {s : State}

/-- Writes beyond the contexts leave them. -/
theorem State.ctx_ebmWrite_high (s : State) {a h d : Nat} (b : List Byte) (high : 0x2000000 ≤ a) (hh : h < 0x100000) (hd : d < 8) :
    (s.ebmWrite a b).ctx h d = s.ctx h d := by
  have read : (s.ebmWrite a b).ebmRead (h * 32 + d * 4) 4 = s.ebmRead (h * 32 + d * 4) 4 := Tbl.readBytes_writeBytes_other _ _ _ _ _ (by omega)
  rw [State.ctx, read, State.ctx]

theorem State.cf_ebmWrite_high (s : State) {a h : Nat} {y : CtxF} (b : List Byte) (high : 0x2000000 ≤ a) (hh : h < 0x100000) (hd : y.d < 8) :
    (s.ebmWrite a b).cf h y = s.cf h y := by rw [State.cf, s.ctx_ebmWrite_high b high hh hd, State.cf]

theorem State.ctx_setCf_other (s : State) {h h' d : Nat} {x : CtxF} (v : Nat) (hx : x.d < 8) (hd : d < 8) (ne : h' ≠ h ∨ d ≠ x.d) :
    (s.setCf h x v).ctx h' d = s.ctx h' d := s.ctx_setCtx_other _ hx hd (fun e => ne.elim (· e.1) (· e.2))

theorem State.cf_setCf_other (s : State) (h : Nat) {x y : CtxF} (v : Nat) (hx : x.d < 8) (hy : y.d < 8) (ne : y.d ≠ x.d) :
    (s.setCf h x v).cf h y = s.cf h y := by rw [State.cf, s.ctx_setCf_other v hx hy (.inr ne), State.cf]

/-- A block lies beyond the contexts. -/
theorem State.blockAddr_high (s : State) (h m : Nat) : 0x2000000 ≤ s.blockAddr h m := Nat.le_add_right _ _

theorem State.ebmRead_setCf_high (s : State) {h a n : Nat} {x : CtxF} (v : Nat) (hh : h < 0x100000) (hx : x.d < 8) (high : 0x2000000 ≤ a) :
    (s.setCf h x v).ebmRead a n = s.ebmRead a n := s.ebmRead_setCtx_other h x.d _ a n (.inr (by omega))

section
variable {h m : Nat} {b : List Byte}

theorem State.blockAddr_of_slot {t : State} (now : t.slotNow h = s.slotNow h) (old : t.ebm.oldSlots = s.ebm.oldSlots) (commit : t.ts = s.ts)
    (time : t.time = s.time) : t.blockAddr h m = s.blockAddr h m := by
  have from_ (u : Nat) : t.fromCommit u = s.fromCommit u := by
    rw [State.fromCommit, State.fullMf, State.mfN, commit, time, State.fromCommit]
    rfl
  have at_ (u : Nat) : t.slotAt h u = s.slotAt h u := by
    rw [State.slotAt, State.oldSlot, old, now, from_, State.slotAt, State.oldSlot]
  rw [State.blockAddr, State.blockSlot, at_, State.blockAddr, State.blockSlot]

theorem State.blockAddr_of {t : State} (slot : t.cf h Cx.slot = s.cf h Cx.slot) (granules : t.cf h Cx.granules = s.cf h Cx.granules)
    (old : t.ebm.oldSlots = s.ebm.oldSlots) (commit : t.ts = s.ts) (time : t.time = s.time) (hh : h < 0x100000) : t.blockAddr h m = s.blockAddr h m :=
  State.blockAddr_of_slot (by rw [State.slotNow, if_pos hh, slot, granules, State.slotNow, if_pos hh]) old commit time

theorem State.blockAddr_same {t : State} (ebm : t.ebm = s.ebm) (ts : t.ts = s.ts) (time : t.time = s.time) : t.blockAddr h m = s.blockAddr h m :=
  State.blockAddr_of_slot (by simp only [State.slotNow, State.cf, State.ctx, State.ebmRead, State.groupSlot, ebm]) (by rw [ebm]) ts time

/-- What the write of a block leaves in its half (R166). -/
theorem State.writeHalf_spec (hh : h < 0x100000) (short : b.length < 256) : (s.writeHalf h m b).halfHolds h m = true ∧ (s.writeHalf h m b).readHalf h m = b ∧
    ∀ h', h' ≠ h → h' < 0x100000 → ∀ w, w < 8 → (s.writeHalf h m b).ctx h' w = s.ctx h' w := by
  have two : m % 2 < 2 := Nat.mod_lt _ (by decide)
  have high := s.blockAddr_high h m
  have five : 5 < 8 := by decide
  have six : 6 < 8 := by decide
  unfold State.writeHalf
  extract_lets i a
  have hi : i < 2 := two
  generalize hu : a.setCf h (Cx.mf i) (m % 65536) = u
  generalize hv : u.setCf h (Cx.len i) b.length = v
  generalize hw : v.setCf h (Cx.v i) 1 = w
  -- each field as the writes behind it leave it
  have valid : (w.setCf h (Cx.rd i) 0).cf h (Cx.v i) = 1 := by
    rw [State.cf_setCf_beside w h (x := Cx.rd i) (y := Cx.v i) 0 rfl (by simp only [Cx.rd]; omega) (by simp only [Cx.rd, Cx.v]; omega), ← hw,
      State.cf_setCf_same v h (Cx.v i) 1 (by simp only [Cx.v]; omega)]
    rfl
  have len : (w.setCf h (Cx.rd i) 0).cf h (Cx.len i) = b.length := by
    rw [State.cf_setCf_beside w h (x := Cx.rd i) (y := Cx.len i) 0 rfl (by simp only [Cx.rd]; omega) (by simp only [Cx.rd, Cx.len]; omega), ← hw,
      State.cf_setCf_beside v h (x := Cx.v i) (y := Cx.len i) 1 rfl (by simp only [Cx.v]; omega) (by simp only [Cx.v, Cx.len]; omega), ← hv,
      State.cf_setCf_same u h (Cx.len i) _ (by simp only [Cx.len]; omega)]
    exact Nat.mod_eq_of_lt short
  have other {y : CtxF} (hd : y.d < 8) (ne : y.d ≠ 6) : (w.setCf h (Cx.rd i) 0).cf h y = u.cf h y := by
    rw [State.cf_setCf_other w h (x := Cx.rd i) 0 six hd ne, ← hw, State.cf_setCf_other v h (x := Cx.v i) 1 six hd ne, ← hv,
      State.cf_setCf_other u h (x := Cx.len i) _ six hd ne]
  have mf : (w.setCf h (Cx.rd i) 0).cf h (Cx.mf i) = m % 65536 := by
    rw [other five (show 5 ≠ 6 by decide), ← hu, State.cf_setCf_same a h (Cx.mf i) _ (by simp only [Cx.mf]; omega)]
    exact Nat.mod_eq_of_lt (Nat.mod_lt _ (by decide))
  have four {y : CtxF} (hd : y.d = 4) : (w.setCf h (Cx.rd i) 0).cf h y = s.cf h y := by
    rw [other (by omega) (by omega), ← hu, State.cf_setCf_other a h (x := Cx.mf i) _ five (by omega) (by rw [hd]; exact (show 4 ≠ 5 by decide)),
      s.cf_ebmWrite_high b high hh (by omega)]
  have kept : (w.setCf h (Cx.rd i) 0).ebm.oldSlots = s.ebm.oldSlots ∧ (w.setCf h (Cx.rd i) 0).ts = s.ts ∧ (w.setCf h (Cx.rd i) 0).time = s.time := by
    rw [← hw, ← hv, ← hu]
    exact ⟨rfl, rfl, rfl⟩
  obtain ⟨old, commit, time⟩ := kept
  refine ⟨?_, ?_, fun h' ne small d hd => ?_⟩
  · rw [State.halfHolds, show Cx.v (m % 2) = Cx.v i from rfl, show Cx.mf (m % 2) = Cx.mf i from rfl, valid, mf, beq_self_eq_true, beq_self_eq_true]
    rfl
  · rw [State.readHalf, State.blockAddr_of (four rfl) (four rfl) old commit time hh, show Cx.len (m % 2) = Cx.len i from rfl, len,
      State.ebmRead_setCf_high w 0 hh six high, ← hw, State.ebmRead_setCf_high v 1 hh six high, ← hv,
      State.ebmRead_setCf_high u _ hh six high, ← hu, State.ebmRead_setCf_high a _ hh five high]
    exact Tbl.readBytes_writeBytes _ _ _
  · rw [State.ctx_setCf_other w 0 six hd (.inl ne), ← hw, State.ctx_setCf_other v 1 six hd (.inl ne), ← hv,
      State.ctx_setCf_other u _ six hd (.inl ne), ← hu, State.ctx_setCf_other a _ five hd (.inl ne),
      s.ctx_ebmWrite_high b high small hd]

/-- The first good copy of a block is written (R166). -/
theorem State.acceptIn_writes (hh : h < 0x100000) (short : b.length < 256) (free : s.halfHolds h m = false) : (s.acceptIn h m b).2 = true ∧
    (s.acceptIn h m b).1.halfHolds h m = true ∧ (s.acceptIn h m b).1.readHalf h m = b ∧
    ∀ h', h' ≠ h → h' < 0x100000 → ∀ w, w < 8 → (s.acceptIn h m b).1.ctx h' w = s.ctx h' w := by
  unfold State.acceptIn
  rw [if_neg (ne_true_of_eq_false free)]
  extract_lets i u
  obtain ⟨holds, reads, others⟩ := u.writeHalf_spec (m := m) hh short
  refine ⟨rfl, holds, reads, fun h' ne small d hd => (others h' ne small d hd).trans ?_⟩
  simp only [u]
  split
  · exact s.ctx_setCf_other _ (by decide) hd (.inl ne)
  · rfl

/-- A block that is in time (R14, R166). -/
theorem periodicTaken_spec {t : Trunk} {d : DataPkt} {k : Nat} {x : PerTx} (good : (s.trunk t).delinLost = false) (near : d.hops.toNat < 7)
    (short : d.payload.length < 256) (kind : respNp d.flags = false) (found : s.matchIn t d = some k)
    (open_ : s.per k = some x) (len : d.payload.length ≤ x.len) (half : d.payload.length ≤ s.halfBytes d.handle.toNat d.seq.toNat)
    (early : s.cutOffOver d.seq.toNat = false) (free : s.halfHolds d.handle.toNat d.seq.toNat = false) :
      answers (.periodicInData t d) s (fun r => r.halfHolds d.handle.toNat d.seq.toNat = true ∧
        r.readHalf d.handle.toNat d.seq.toNat = d.payload ∧ r.per k = some { x with got := true } ∧
        (∀ h, h ≠ d.handle.toNat → h < 0x100000 → ∀ w, w < 8 → r.ctx h w = s.ctx h w)) := by
  obtain ⟨new, holds, reads, others⟩ := State.acceptIn_writes (s := s.answered k x) d.handle.isLt short free
  have bus : ((s.answered k x).acceptIn d.handle.toNat d.seq.toNat d.payload).1.bus = (s.answered k x).bus :=
    (State.acceptIn_moves (l_ := [.regs, .ebm]) (.refl _ _) (by decide)).bus_eq (by decide)
  generalize hu : ((s.answered k x).acceptIn d.handle.toNat d.seq.toNat d.payload).1 = u at holds reads others bus
  have told : Moves [.regs, .gd] u (u.blockNotice d.handle.toNat) := State.blockNotice_moves (.refl _ u) (by decide)
  have cf (h : Nat) (y : CtxF) : (u.blockNotice d.handle.toNat).cf h y = u.cf h y := by
    rw [State.cf, State.ctx, State.ebmRead, told.ebm_eq (by decide), State.cf, State.ctx, State.ebmRead]
  refine answers_eq (periodicInData_runs good near) ((State.periodicIn_matched kind found open_).trans ((if_neg (by omega)).trans
    ((if_neg (ne_true_of_eq_false early)).trans ((if_pos new).trans (congrArg (fun v : State => v.blockNotice d.handle.toNat) hu))))) ⟨?_, ?_, ?_, ?_⟩
  · rw [State.halfHolds, cf, cf]
    exact holds
  · rw [State.readHalf, cf, State.ebmRead, State.blockAddr_of (cf _ _) (cf _ _) (congrArg EbmSt.oldSlots (told.ebm_eq (by decide)))
      (told.ts_eq (by decide)) (told.time_eq (by decide)) d.handle.isLt, told.ebm_eq (by decide)]
    exact reads
  · rw [State.per, told.bus_eq (by decide), bus]
    exact s.per_answered k x
  · intro h ne small w hw
    rw [State.ctx, State.ebmRead, told.ebm_eq (by decide)]
    exact others h ne small w hw

end

end

end Sys2Proof.Machine

namespace Sys2Proof.Machine

/-! # The points of a microframe (R10, R14, R17, R18, R26, R42, R212, R227, R281, R295) -/

section
variable {s t : State}

theorem State.advanceTo_keeps (p : Nat) : Moves [.time] s (s.advanceTo p) := State.advanceTo_moves (.refl _ s) (by decide)

theorem State.advanceTo_phase (p : Nat) : (s.advanceTo p).time.phase = max s.time.phase p ∧ (s.advanceTo p).time.mf = s.time.mf := by
  unfold State.advanceTo
  split
  next h => exact ⟨(Nat.max_eq_right h).symm, rfl⟩
  next h => exact ⟨(Nat.max_eq_left (by omega)).symm, rfl⟩

/-! ## The input cut-off (R14, R281) -/

/-- The input is cut off (R14). -/
def State.cutsOff (s : State) : State :=
  let s := s.advanceTo Config.cutTick
  { s with time := { s.time with cutOff := true } }

theorem State.cutsOff_keeps : Moves [.time] s s.cutsOff := State.advanceTo_keeps Config.cutTick |>.time (by decide) _

theorem State.cutsOff_time : s.cutsOff.time.cutOff = true ∧ s.cutsOff.time.phase = max s.time.phase 1250 ∧ s.cutsOff.time.mf = s.time.mf :=
  ⟨rfl, State.advanceTo_phase (s := s) Config.cutTick⟩

/-- The presence record of a pass goes to the peer (R281). -/
def State.tellsLacks (s : State) : State :=
  let recs := s.pairEnabled.map (fun t => ⟨Fin.ofNat 192 t, s.lacked t⟩)
  (s.updPu (fun p => { p with presPass := s.mfN, lacks := recs, peerLacks := if p.presPass = s.mfN then p.peerLacks else [] })).sendTimed (.presence recs)

theorem State.inputCutoff_eq (run : s.time.run = true) :
    s.inputCutoff = if decide (s.cutsOff.role ≠ 0) && s.cutsOff.lockstep then s.cutsOff.tellsLacks else s.cutsOff := by
  rw [State.inputCutoff, run]
  rfl

/-- The state at another time. -/
def State.withTime (s : State) (x : TimeSt) : State := { s with time := x }

theorem State.advanceTo_withTime (s : State) (p : Nat) : s.advanceTo p = s.withTime (s.advanceTo p).time := by
  unfold State.advanceTo
  split <;> rfl

theorem State.cutsOff_withTime (s : State) : s.cutsOff = s.withTime s.cutsOff.time := by
  rw [State.cutsOff, s.advanceTo_withTime]
  rfl

theorem State.lacked_withTime (s : State) {x : TimeSt} (h : x.mf = s.time.mf) (t : Nat) : (s.withTime x).lacked t = s.lacked t := by
  have mf : (s.withTime x).mfN = s.mfN := congrArg BitVec.toNat h
  unfold State.lacked
  rw [mf]
  rfl

theorem State.tellsLacks_spec (s : State) : Moves [.pu, .out] s s.tellsLacks ∧ s.tellsLacks.pu.presPass = s.mfN ∧
    s.tellsLacks.pu.lacks = s.pairEnabled.map (fun t => ⟨Fin.ofNat 192 t, s.lacked t⟩) ∧
    (s.miodelUp = true → s.tellsLacks.out = .mio (.presence s.tellsLacks.pu.lacks) :: s.out) := by
  have moves : Moves [.pu, .out] s s.tellsLacks := State.sendTimed_moves (State.updPu_moves (.refl _ s) (by decide)) (by decide)
  have pu (z : State) (f : MioOut) : (z.sendTimed f).pu = z.pu := (State.sendTimed_moves (l_ := [.out]) (.refl _ z) (by decide)).pu_eq (by decide)
  refine ⟨moves, congrArg PairSt.presPass (pu _ _), congrArg PairSt.lacks (pu _ _), fun up => ?_⟩
  have told : s.tellsLacks.pu.lacks = s.pairEnabled.map (fun t => ⟨Fin.ofNat 192 t, s.lacked t⟩) := congrArg PairSt.lacks (pu _ _)
  rw [told]
  exact congrArg State.out (if_pos up)

theorem inputCutoff_spec (run : s.time.run = true) : answers .inputCutoff s (fun t => t.time.cutOff = true ∧ t.time.phase = max s.time.phase 1250 ∧
      t.time.mf = s.time.mf ∧ t.regs = s.regs ∧ (s.role ≠ 0 → s.lockstep = true → t.pu.presPass = s.mfN ∧
        t.pu.lacks = ((List.range 192).filter (fun p => s.portEnabled p || s.portEnabled (192 + p))).map (fun p => ⟨Fin.ofNat 192 p, s.lacked p⟩) ∧
        (s.miodelUp = true → t.out = .mio (.presence t.pu.lacks) :: s.out))) := by
  obtain ⟨cut, phase, mf⟩ := State.cutsOff_time (s := s)
  have eq := s.cutsOff_withTime
  refine answers_eq rfl (State.inputCutoff_eq run) ?_
  generalize hu : s.cutsOff = u at cut phase mf eq
  have role : u.role = s.role := by rw [eq]; rfl
  have lockstep : u.lockstep = s.lockstep := by rw [eq]; rfl
  rw [role, lockstep]
  obtain ⟨moves, pass, lacks, told⟩ := u.tellsLacks_spec
  split
  next both =>
    rw [moves.time_eq (by decide), moves.regs_eq (by decide)]
    refine ⟨cut, phase, mf, by rw [eq]; rfl, fun _ _ => ⟨?_, ?_, fun up => ?_⟩⟩
    · rw [pass, State.mfN, mf, State.mfN]
    · have enabled : u.pairEnabled = s.pairEnabled := by rw [eq]; rfl
      have each (p : Nat) : u.lacked p = s.lacked p := by rw [eq]; exact s.lacked_withTime mf p
      rw [lacks, enabled]
      simp only [each]
      rfl
    · have up' : u.miodelUp = s.miodelUp := by rw [eq]; rfl
      rw [told (up'.trans up)]
      exact congrArg _ (by rw [eq]; rfl)
  next neither =>
    refine ⟨cut, phase, mf, by rw [eq]; rfl, fun paired lock => absurd ?_ neither⟩
    rw [decide_eq_true paired, lock]
    rfl

/-! ## The decision time (R227, R281) -/

theorem State.obsPrio_decided (s : State) (q : Nat) (g : ObsPrio → ObsPrio) : (s.obsPrio q g).gd.decided = s.gd.decided := (rfl)

theorem State.showQ_decided (s : State) (q : Nat) : (s.showQ q).gd.decided = s.gd.decided := by
  unfold State.showQ
  extract_lets d a b c
  have hc : c.gd = s.gd := (State.setF_gd _ _ _).trans ((State.setF_gd _ _ _).trans (State.setF_gd _ _ _))
  rw [State.obsPrio_decided, hc]

theorem State.enqueue_decided (s : State) (n p q : Nat) : (s.enqueue n p q).gd.decided = s.gd.decided := State.showQ_decided _ q

theorem State.createOp_decided (s : State) (n : Nat) (nd : Node) : (s.createOp n nd).gd.decided = s.gd.decided := by
  unfold State.createOp
  extract_lets p gd a b
  split
  · exact State.enqueue_decided a n p nd.prio
  · rw [State.showQ_decided, State.obsPrio_decided, State.bump, State.setF_gd]

theorem State.offer_decided (s : State) (l : List (Nat × Node)) : (s.offer l).gd.decided = s.gd.decided :=
  State.foldl_eq (p := fun t : State => t.gd.decided) (fun t x => by split; exacts [State.createOp_decided _ _ _, rfl]) l

theorem State.completeRefM_lacks (s : State) (r : EntryRef) (st res : Nat) (a b c d : Word) : (s.completeRefM r st res a b c d).pu.lacks = s.pu.lacks := by
  unfold State.completeRefM
  split
  next e _ =>
    unfold State.completeM
    extract_lets q
    split
    · rfl
    · rw [(State.finishEntry_moves (l_ := [.regs, .qe, .bm, .xb, .fn, .out]) (.refl _ s) (by decide)).pu_eq (by decide)]
  next => rfl

theorem State.setAudit_pu (s : State) (a : Option Audit) : (s.setAudit a).pu = s.pu :=
  (State.setAudit_moves (l_ := [.regs, .sv]) (.refl _ s) (by decide)).pu_eq (by decide)

theorem State.closeAudit_lacks (s : State) (a : Audit) (st : Nat) : (s.closeAudit a st).pu.lacks = s.pu.lacks := by
  have written (addr : Nat) (b : List Byte) : (s.auditWrite a addr b).pu = s.pu := by
    unfold State.auditWrite
    split <;> rfl
  unfold State.closeAudit
  extract_lets m u v
  have hv : v.pu = s.pu := (State.setAudit_pu u none).trans (written _ _)
  split
  · rw [State.completeRefM_lacks, hv]
  · rw [hv]

theorem State.endPart_lacks (s : State) (a : Audit) : (s.endPart a).pu.lacks = s.pu.lacks := by
  unfold State.endPart
  extract_lets b
  split
  · exact State.closeAudit_lacks s b St.ok
  · rw [State.setAudit_pu]

theorem State.auditDecision_lacks (s : State) : s.auditDecision.pu.lacks = s.pu.lacks := by
  unfold State.auditDecision
  extract_lets miss sv u
  have hu : u.pu = s.pu := rfl
  split
  next => rw [hu]
  next a _ =>
    split
    next => rw [hu]
    next h _ =>
      extract_lets
      split
      · unfold State.closeHub
        extract_lets c
        split
        · rw [State.endPart_lacks, hu]
        · rw [State.setAudit_pu, hu]
      · rw [State.setAudit_pu, hu]

/-- What reconciliation has not brought is lacked no more (R281). -/
theorem State.reconShort_lacks (h : s.pu.presPass = s.mfN) : s.reconShort.pu.lacks = [] := by
  unfold State.reconShort
  split
  next stays => exact stays.resolve_left (not_not.mpr h)
  next => rfl

/-- The blocks of a pass that have not come are decided missing (R227). -/
def State.decides (s : State) : State :=
  { s with gd := { s.gd with decided := s.mfN, held := s.gd.held.filter (fun v => match v.2 with | .block _ => false | .clip _ => true) } }

/-- The decision time, as the role has it (R281). -/
def State.decisionAt (s : State) : State := s.advanceTo (if s.role = 0 then Config.cutTick else Config.decisionTick)

/-- What is decided before the pass goes on. -/
def State.decisionMade (s : State) : State := (if s.role = 0 then s else s.reconShort).auditDecision

theorem State.decisionTime_eq (run : s.time.run = true) :
    s.decisionTime = ((List.range 8).foldl (fun s q => s.showQ q) s.decisionAt.decisionMade.decides).offer s.decisionAt.decisionMade.decides.nodes := by
  rw [State.decisionTime, run]
  rfl

theorem State.decisionMade_moves : Moves [.regs, .qe, .bm, .xb, .fn, .sv, .pu, .free, .out] s s.decisionMade := by
  unfold State.decisionMade
  refine State.auditDecision_moves ?_ (by decide)
  split
  · exact .refl _ s
  · exact State.reconShort_moves (.refl _ s) (by decide)

theorem decisionTime_spec (run : s.time.run = true) : answers .decisionTime s (fun t => t.gd.decided = s.mfN ∧
      t.time.phase = max s.time.phase (if s.role = 0 then 1250 else 1875) ∧ (s.role ≠ 0 → s.pu.presPass = s.mfN → t.pu.lacks = [])) := by
  obtain ⟨phase, mf⟩ := State.advanceTo_phase (s := s) (if s.role = 0 then Config.cutTick else Config.decisionTick)
  have made := State.decisionMade_moves (s := s.decisionAt)
  have clock : s.decisionAt.mfN = s.mfN := congrArg BitVec.toNat mf
  generalize hu : s.decisionAt.decisionMade = u at made
  have shown : Moves [.regs, .gd] u.decides (((List.range 8).foldl (fun s q => s.showQ q) u.decides).offer u.decides.nodes) :=
    State.offer_moves (Moves.foldl (.refl _ _) fun _ _ h => State.showQ_moves h (by decide)) (by decide)
  refine answers_eq rfl ((State.decisionTime_eq run).trans (congrArg (fun u : State => ((List.range 8).foldl (fun s q => s.showQ q) u.decides).offer u.decides.nodes) hu))
    ⟨?_, ?_, fun paired pass => ?_⟩
  · rw [State.offer_decided, State.foldl_eq (p := fun t : State => t.gd.decided) (fun t q => t.showQ_decided q)]
    show u.mfN = s.mfN
    rw [made.mfN_eq (by decide), clock]
  · rw [shown.time_eq (by decide)]
    show u.time.phase = _
    rw [made.time_eq (by decide)]
    exact phase.trans (congrArg _ (by split <;> rfl))
  · rw [shown.pu_eq (by decide)]
    show u.pu.lacks = []
    have advanced : Moves [.time] s s.decisionAt := State.advanceTo_keeps _
    have role : ¬ s.decisionAt.role = 0 := by rwa [State.role, State.f_of_regs (advanced.regs_eq (by decide)), ← State.role]
    rw [← hu, State.decisionMade, State.auditDecision_lacks, if_neg role]
    exact State.reconShort_lacks (by rw [clock, advanced.pu_eq (by decide), pass])

/-! ## The fill deadline (R17, R18, R212, R295) -/

theorem State.f_le (s : State) (x : Fld) : s.f x ≤ 2 ^ x.w - 1 := Nat.le_sub_one_of_lt (Nat.mod_lt _ (Nat.two_pow_pos _))

/-- A saturating counter that counts each of a list once. -/
theorem State.foldl_counts {α : Type} {x : Fld} {g : State → α → State} (step : ∀ t a, (g t a).f x = min (t.f x + 1) (2 ^ x.w - 1)) (l : List α) (s : State) :
    (l.foldl g s).f x = min (s.f x + l.length) (2 ^ x.w - 1) := by
  induction l generalizing s with
  | nil => exact (Nat.min_eq_left (s.f_le x)).symm
  | cons a l ih =>
    rw [List.foldl_cons, ih, step, List.length_cons]
    omega

/-- One zone that an overrun affects is counted (R212). -/
def State.zoneOverrun (p : Nat) (s : State) (z : Nat) : State :=
  let old : Nat × Nat := Tbl.get (fun _ => (0, 0)) s.mre.zoneOver z
  let s := { s with mre := { s.mre with zoneOver := Tbl.set (fun _ => (0, 0)) s.mre.zoneOver z (old.1 + 1, p) } }
  s.bump Reg.MRE_OVERRUNS_COUNT

theorem State.zoneOverrun_counts (s : State) (p z : Nat) :
    (State.zoneOverrun p s z).f Reg.MRE_OVERRUNS_COUNT = min (s.f Reg.MRE_OVERRUNS_COUNT + 1) (2 ^ Reg.MRE_OVERRUNS_COUNT.w - 1) :=
  State.f_bump_same { s with mre := { s.mre with zoneOver := Tbl.set (fun _ => (0, 0)) s.mre.zoneOver z ((Tbl.get (fun _ => (0, 0)) s.mre.zoneOver z).1 + 1, p) } } 1 rfl

/-- Zones of the SINK nodes that overrun in pass `p` (R212). -/
def State.lateZones (s : State) (p : Nat) : List Nat := ((s.lateSinks p).flatMap (fun x => sinkZones x.2)).eraseDups

/-- The blocks that the policy of each late SINK gives. -/
def State.policyBlocks (s : State) (p : Nat) : State :=
  let l := s.lateSinks p
  let s : State := { s with mre := { s.mre with late := [] } }
  l.foldl (fun s x => match x.2.kind with
    | .sink ep chans so sb => s.sinkOverrun p ep chans so sb
    | _ => s) s

theorem State.overruns_eq (s : State) (p : Nat) : s.overruns p = (s.lateZones p).foldl (State.zoneOverrun p) (s.policyBlocks p) := rfl

theorem State.policyBlocks_regs (s : State) (p : Nat) : (s.policyBlocks p).regs = s.regs := by
  refine State.foldl_eq (p := State.regs) (s := { s with mre := { s.mre with late := [] } }) (fun t x => ?_) _
  split
  · exact (State.sinkOverrun_moves (l_ := [.ebm, .mre]) (.refl _ t) (by decide)).regs_eq (by decide)
  · rfl

theorem State.overruns_counts (s : State) (p : Nat) :
    (s.overruns p).f Reg.MRE_OVERRUNS_COUNT = min (s.f Reg.MRE_OVERRUNS_COUNT + (s.lateZones p).length) 0xFFFFFFFF ∧
      s.regsBut [Reg.MRE_OVERRUNS] (s.overruns p) := by
  have policy := s.policyBlocks_regs p
  rw [s.overruns_eq p]
  constructor
  · rw [State.foldl_counts (x := Reg.MRE_OVERRUNS_COUNT) (fun t z => State.zoneOverrun_counts t p z), State.f_of_regs policy]
    rfl
  · exact ((State.regsBut.refl _ s).keep policy).foldl _ fun u z h => (State.regsBut.keep h rfl).bump (x := Reg.MRE_OVERRUNS_COUNT) 1 (.head _)

/-- The output of pass `p` is published (R17). -/
def State.publishes (s : State) (p : Nat) : State := if s.mre.on then ((s.overruns p).cascadeStatus p).publishLines p else s

theorem State.publishes_moves (s : State) (p : Nat) : Moves [.regs, .ebm, .mre, .sv] s (s.publishes p) := by
  unfold State.publishes
  split
  · exact State.publishLines_moves (State.cascadeStatus_moves (State.overruns_moves (.refl _ s) (by decide)) (by decide)) (by decide)
  · exact .refl _ s

theorem State.publishes_counts (s : State) (p : Nat) : s.regsBut [Reg.MRE_OVERRUNS] (s.publishes p) ∧
    (s.mre.on = true → (s.publishes p).f Reg.MRE_OVERRUNS_COUNT = min (s.f Reg.MRE_OVERRUNS_COUNT + (s.lateZones p).length) 0xFFFFFFFF) := by
  obtain ⟨counts, others⟩ := s.overruns_counts p
  have kept : (((s.overruns p).cascadeStatus p).publishLines p).regs = (s.overruns p).regs :=
    (State.publishLines_moves (l_ := [.ebm, .mre, .sv]) (State.cascadeStatus_moves (.refl _ (s.overruns p)) (by decide)) (by decide)).regs_eq (by decide)
  unfold State.publishes
  constructor
  · exact .ite (fun _ => others.keep kept) (fun _ => .refl _ s)
  · intro on
    rw [if_pos on, State.f_of_regs kept, counts]

/-- The digests of pass `p` are kept (R295). -/
def State.digests (s : State) (p : Nat) : State := s.updPu (fun u => { u with digests := ((p, s.digestsOf p) :: u.digests).take 4 })

theorem State.fillDeadline_eq (run : s.time.run = true) : s.fillDeadline =
    let u := (s.advanceTo Config.fillTick).publishes (s.advanceTo Config.fillTick).mfN
    if u.role = 0 then u else u.digests (s.advanceTo Config.fillTick).mfN := by
  rw [State.fillDeadline, run]
  rfl

theorem State.published_digests (s : State) (p q : Nat) : (s.digests q).published p = s.published p := by
  have moves : Moves [.pu] s (s.digests q) := State.updPu_moves (.refl _ s) (by decide)
  have ebm := moves.ebm_eq (by decide)
  have ts := moves.ts_eq (by decide)
  have at_ (h m : Nat) : (s.digests q).blockAddr h m = s.blockAddr h m := State.blockAddr_same ebm ts (moves.time_eq (by decide))
  have cf (h : Nat) (x : CtxF) : (s.digests q).cf h x = s.cf h x := by rw [State.cf, State.ctx, State.ebmRead, ebm, State.cf, State.ctx, State.ebmRead]
  have sched (m : Nat) : (s.digests q).schedTbl m = s.schedTbl m := by rw [State.schedTbl, ts, State.schedTbl]
  have group (g m : Nat) : (s.digests q).groupBlock g m = s.groupBlock g m := by
    have slot : (s.digests q).groupSlot g = s.groupSlot g := by rw [State.groupSlot, ebm, State.groupSlot]
    have read (a n : Nat) : (s.digests q).ebmRead a n = s.ebmRead a n := by rw [State.ebmRead, ebm, State.ebmRead]
    unfold State.groupBlock
    rw [slot]
    generalize (m + 65535) % 65536 = r
    simp only [read, at_]
  have holds (h m : Nat) : (s.digests q).halfHolds h m = s.halfHolds h m := by rw [State.halfHolds, cf, cf, State.halfHolds]
  have half (h m : Nat) : (s.digests q).readHalf h m = s.readHalf h m := by
    rw [State.readHalf, cf, at_, State.ebmRead, ebm, State.readHalf, State.ebmRead]
  have mre := moves.mre_eq (by decide)
  unfold State.published
  simp only [sched, group, holds, half, mre]

theorem State.digestsOf_digests (s : State) (p q : Nat) : (s.digests q).digestsOf p = s.digestsOf p := by
  rw [State.digestsOf, State.published_digests, State.digestsOf]

theorem fillDeadline_spec (run : s.time.run = true) : answers .fillDeadline s (fun t => t.time.phase = max s.time.phase 3075 ∧
      (s.mre.on = true → t.f Reg.MRE_OVERRUNS_COUNT = min (s.f Reg.MRE_OVERRUNS_COUNT +
        (((s.lateSinks s.mfN).flatMap (fun x => sinkZones x.2)).eraseDups).length) 0xFFFFFFFF) ∧
      (s.role = 0 → t.pu = s.pu) ∧
      (s.role ≠ 0 → t.pu.digests = ((s.mfN, t.digestsOf s.mfN) :: s.pu.digests).take 4)) := by
  obtain ⟨phase, mf⟩ := State.advanceTo_phase (s := s) Config.fillTick
  have clock : (s.advanceTo Config.fillTick).mfN = s.mfN := congrArg BitVec.toNat mf
  have advanced := State.advanceTo_keeps (s := s) Config.fillTick
  have late : (s.advanceTo Config.fillTick).lateZones s.mfN = s.lateZones s.mfN := by
    rw [s.advanceTo_withTime]
    rfl
  refine answers_eq rfl (State.fillDeadline_eq run) ?_
  dsimp only
  rw [clock]
  generalize s.advanceTo Config.fillTick = a at phase mf clock advanced late
  have moves := a.publishes_moves s.mfN
  obtain ⟨others, counts⟩ := a.publishes_counts s.mfN
  have role : (a.publishes s.mfN).role = s.role := by
    rw [State.role, others.f (x := Reg.PU_STATUS_ROLE) (by decide), advanced.f_eq (by decide), ← State.role]
  have mre : a.mre = s.mre := advanced.mre_eq (by decide)
  rw [late, mre, advanced.f_eq (by decide)] at counts
  generalize a.publishes s.mfN = u at moves others counts role
  have pu : u.pu = s.pu := (moves.pu_eq (by decide)).trans (advanced.pu_eq (by decide))
  rw [role]
  split
  next solo => exact ⟨(congrArg TimeSt.phase (moves.time_eq (by decide))).trans phase, counts, fun _ => pu, fun paired => absurd solo paired⟩
  next paired =>
    refine ⟨(congrArg TimeSt.phase (moves.time_eq (by decide))).trans phase, counts, fun solo => absurd solo paired, fun _ => ?_⟩
    rw [State.digestsOf_digests, ← pu]
    rfl

end

end Sys2Proof.Machine

namespace Sys2Proof.Machine

/-! # The mark of a microframe (R10, R13, R26, R42, R132) -/

section
variable {s u : State}

/-! ## The marks that go out (R10, R42, R74, R75) -/

/-- A SYNC block and the mark of microframe `m` behind it go out on a trunk. -/
def State.sendMark (m : Nat) (low : Bool) (s : State) (t : Nat) : State :=
  let fl := b2n low + 2 * b2n (s.twillPair t).isSome + 4 * b2n (m % 8 == 0) + 128 * s.pathOf t
  let s := (s.emit (.ctl t Ct.sync 1)).emit (.pkt t ⟨Pk.mark, fl, s.f Reg.TM_CTRL_ROOT_ID, t, 0, 0, m % 65536, []⟩)
  s.when (low && (s.lanesOf t).all (fun n => s.laneState n == Ls.lpi)) (fun s => s.emit (.ctl t Ct.lpi (16 * s.width t)))

theorem State.sendMark_moves (m : Nat) (low : Bool) (t : Nat) : Moves [.out] s (s.sendMark m low t) :=
  State.when_moves (State.emit_moves (State.emit_moves (.refl [.out] s) (by decide)) (by decide)) (fun _ h => State.emit_moves h (by decide))

/-- What goes out on trunk `p` at the mark of microframe `m`, the newest first. -/
def State.marking (u : State) (m : Nat) (low : Bool) (p : Nat) : List Emit :=
  [.pkt p ⟨Pk.mark, b2n low + 2 * b2n (u.twillPair p).isSome + 4 * b2n (m % 8 == 0) + 128 * u.pathOf p, u.f Reg.TM_CTRL_ROOT_ID, p, 0, 0,
    m % 65536, []⟩, .ctl p Ct.sync 1]

theorem State.sendMark_puts (h : Moves [.out] u s) (m : Nat) (low : Bool) (p : Nat) :
    u.marking m low p ++ s.out <:+ (s.sendMark m low p).out := by
  have pair : s.twillPair p = u.twillPair p := by rw [State.twillPair, State.devices, h.tree_eq (by decide), State.twillPair, State.devices]
  have path : s.pathOf p = u.pathOf p := by rw [State.pathOf, h.pu_eq (by decide), h.f_eq (by decide), h.f_eq (by decide), State.pathOf]
  have grows (z : State) (c : Bool) : z.out <:+ (z.when c (fun x => x.emit (.ctl p Ct.lpi (16 * x.width p)))).out :=
    (State.when_moves (.refl [.out] z) (fun _ h => State.emit_moves h (by decide))).out
  refine List.IsSuffix.trans ?_ (grows _ _)
  rw [State.marking, ← pair, ← path, ← h.f_eq (by decide) Reg.TM_CTRL_ROOT_ID]
  exact List.suffix_refl _

theorem State.sendMark_all (m : Nat) (low : Bool) : ∀ (l : List Nat) (s : State), Moves [.out] u s →
    Moves [.out] u (l.foldl (State.sendMark m low) s) ∧
      ∀ p ∈ l, ∃ o, u.marking m low p ++ o <:+ (l.foldl (State.sendMark m low) s).out
  | [], s, h => ⟨h, fun p hp => absurd hp List.not_mem_nil⟩
  | q :: l, s, h => by
    obtain ⟨moves, each⟩ := State.sendMark_all m low l (s.sendMark m low q) (h.trans (s.sendMark_moves m low q))
    refine ⟨moves, fun p hp => ?_⟩
    rcases List.mem_cons.mp hp with rfl | later
    · have rest : Moves [.out] (s.sendMark m low p) (l.foldl (State.sendMark m low) (s.sendMark m low p)) :=
        .foldl (.refl _ _) fun q z hz => hz.trans (State.sendMark_moves m low _)
      exact ⟨s.out, (State.sendMark_puts h m low p).trans rest.out⟩
    · exact each p later

/-- The time with what has been marked. -/
def State.markedTime (s : State) : TimeSt := { s.time with marked := s.time.marked || !s.markTrunks.isEmpty }

theorem State.sendMarks_eq (due : (s.inSatin && u.mfN % 8 != 0) = false) :
    s.sendMarks u.mfN = s.markTrunks.foldl (State.sendMark u.mfN (s.lowPower u.mfN)) (s.withTime s.markedTime) := by
  rw [State.sendMarks, due]
  rfl

/-- Marks change no time but for the note that one has gone out. -/
theorem State.sendMarks_time (m : Nat) : ∃ b, (s.sendMarks m).time = { s.time with marked := b } := by
  unfold State.sendMarks
  split
  · exact ⟨s.time.marked, rfl⟩
  · extract_lets low
    refine ⟨s.time.marked || !s.markTrunks.isEmpty, ?_⟩
    have moves : Moves [.out] (s.withTime s.markedTime) (s.markTrunks.foldl (State.sendMark m low) (s.withTime s.markedTime)) :=
      .foldl (.refl _ _) fun _ _ h => h.trans (State.sendMark_moves m low _)
    exact moves.time_eq (by decide)

theorem State.sendMarks_puts (due : s.inSatin = false ∨ s.mfN % 8 = 0) {p : Nat} (hp : p ∈ s.markTrunks) :
    ∃ l, s.marking s.mfN (s.lowPower s.mfN) p ++ l <:+ (s.sendMarks s.mfN).out := by
  have due' : (s.inSatin && s.mfN % 8 != 0) = false := by
    rcases due with h | h <;> simp only [h, Bool.false_and, bne_self_eq_false, Bool.and_false]
  obtain ⟨-, each⟩ := State.sendMark_all (u := s.withTime s.markedTime) s.mfN (s.lowPower s.mfN) s.markTrunks _ (.refl _ _)
  rw [State.sendMarks_eq due']
  exact each p hp

/-! ## The whole mark (R10, R13, R26) -/

/-- The walks of the microframe that ends are over. -/
def State.endWalks (s : State) : State := (List.range 192).foldl (fun (x : State) p => (x.countNpDeferred p).endWalk p s.mfN) s

/-- What stands before the marks go out. -/
def State.beforeMarks (w : State) : State := ((w.tickMark.obsMark.dropOldTx.showRebase.groupSwitch w.tickMark.mfN).restoreDevs).twillMark

/-- What follows the marks. -/
def State.behindMarks (s : State) (m : Nat) : State :=
  let s := (s.groupBroadcast m).upstreamWatch
  let s := if m % 8 = 0 then s.takeShares.frameCredit else s
  let s := (List.range 192).foldl (fun s t => s.beginWalk t m) s
  let (s, clips) := s.beginPass m
  s.pairMark clips

theorem State.mark_eq (run : s.time.run = true) :
    s.mark = (s.endWalks.beforeMarks.sendMarks s.endWalks.tickMark.mfN).behindMarks s.endWalks.tickMark.mfN := by
  have clock : s.endWalks.tickMark.obsMark.mfN = s.endWalks.tickMark.mfN := by
    rw [State.mfN, (State.obsMark_moves (l_ := [.gd, .free]) (.refl _ s.endWalks.tickMark) (by decide)).time_eq (by decide), State.mfN]
  unfold State.mark
  rw [run, if_neg (by decide)]
  extract_lets old ts s1 s2 m s3 s4 s5 s6
  have e1 : s1 = s.endWalks := rfl
  have e2 : s2 = s1.tickMark.obsMark := rfl
  have e3 : s3 = (s2.dropOldTx.showRebase.groupSwitch m).restoreDevs := rfl
  have e4 : s4 = ((s3.twillMark.sendMarks m).groupBroadcast m).upstreamWatch := rfl
  clear_value s3
  have e5 : s5 = if m % 8 = 0 then s4.takeShares.frameCredit else s4 := rfl
  have e6 : s6 = (List.range 192).foldl (fun s t => s.beginWalk t m) s5 := rfl
  have em : m = s.endWalks.tickMark.obsMark.mfN := rfl
  rw [State.beforeMarks, ← clock, ← em, ← e1, ← e2, ← e3, State.behindMarks, ← e4, ← e5, ← e6]

def State.restPart : List Part := [.regs, .lx, .tree, .ts, .ebm, .bus, .qe, .bm, .xb, .fn, .mre, .gd, .sv, .pu, .ck, .free, .out]

theorem State.behindMarks_moves (m : Nat) : Moves State.restPart s (s.behindMarks m) := by
  have first : Moves State.restPart s (s.groupBroadcast m).upstreamWatch :=
    State.upstreamWatch_moves (State.groupBroadcast_moves (.refl _ s) (by decide)) (by decide)
  have second : Moves State.restPart s
      (if m % 8 = 0 then (s.groupBroadcast m).upstreamWatch.takeShares.frameCredit else (s.groupBroadcast m).upstreamWatch) :=
    .ite (fun _ => State.frameCredit_moves (State.takeShares_moves first (by decide)) (by decide)) (fun _ => first)
  have third : Moves State.restPart s ((List.range 192).foldl (fun s t => s.beginWalk t m)
      (if m % 8 = 0 then (s.groupBroadcast m).upstreamWatch.takeShares.frameCredit else (s.groupBroadcast m).upstreamWatch)) :=
    .foldl second fun t x h => State.beginWalk_moves h (by decide)
  rw [State.behindMarks]
  split
  next e => exact State.pairMark_moves (Moves.of_fst (State.beginPass_moves third (by decide)) e) (by decide)

theorem State.endWalks_moves : Moves State.restPart s s.endWalks :=
  .foldl (.refl _ s) fun _ _ h => State.endWalk_moves (State.countNpDeferred_moves h (by decide)) (by decide)

theorem State.beforeMarks_moves : Moves State.restPart s.tickMark s.beforeMarks :=
  State.twillMark_moves (State.restoreDevs_moves (State.groupSwitch_moves (State.showRebase_moves (State.dropOldTx_moves
    (State.obsMark_moves (.refl _ _) (by decide)) (by decide)) (by decide)) (by decide)) (by decide)) (by decide)

theorem microframeMark_spec (run : s.time.run = true) (hf : s.ck.fundamental = false) (hw : (s.ck.warm && s.ck.warmMark) = false) :
    answers .microframeMark s (fun t =>
      let w := (List.range 192).foldl (fun (x : State) p => (x.countNpDeferred p).endWalk p s.mfN) s
      let u := ((w.tickMark.obsMark.dropOldTx.showRebase.groupSwitch w.tickMark.mfN).restoreDevs).twillMark
      { t.time with marked := false } = ⟨s.time.tick + BitVec.ofNat 64 (3125 - s.time.phase), s.time.mf + 1, 0, true, false, false⟩ ∧
      ∀ p ∈ u.markTrunks, (u.inSatin = false ∨ u.mfN % 8 = 0) → ∃ l, (Emit.pkt p ⟨Pk.mark, b2n (u.lowPower u.mfN) +
        2 * b2n (u.twillPair p).isSome + 4 * b2n (u.mfN % 8 == 0) + 128 * u.pathOf p, u.f Reg.TM_CTRL_ROOT_ID, p, 0, 0,
        u.mfN % 65536, []⟩ :: .ctl p Ct.sync 1 :: l) <:+ t.out) := by
  have row : s.markRow = s.mark.afterMark := by
    rw [State.markRow, run, hf, hw, State.markAll, run]
    rfl
  have old : s.endWalks.time = s.time := State.endWalks_moves.time_eq (by decide)
  have before : s.endWalks.beforeMarks.time = s.endWalks.tickMark.time := State.beforeMarks_moves.time_eq (by decide)
  have clock : s.endWalks.beforeMarks.mfN = s.endWalks.tickMark.mfN := by rw [State.mfN, before, State.mfN]
  refine answers_eq rfl (row.trans (congrArg State.afterMark (State.mark_eq run))) ?_
  show _ ∧ ∀ p ∈ s.endWalks.beforeMarks.markTrunks, (s.endWalks.beforeMarks.inSatin = false ∨ s.endWalks.beforeMarks.mfN % 8 = 0) →
    ∃ l, s.endWalks.beforeMarks.marking s.endWalks.beforeMarks.mfN (s.endWalks.beforeMarks.lowPower s.endWalks.beforeMarks.mfN) p ++ l <:+ _
  rw [← clock]
  have later : Moves State.restPart (s.endWalks.beforeMarks.sendMarks s.endWalks.beforeMarks.mfN)
      ((s.endWalks.beforeMarks.sendMarks s.endWalks.beforeMarks.mfN).behindMarks s.endWalks.beforeMarks.mfN).afterMark :=
    State.afterMark_moves (State.behindMarks_moves _) (by decide)
  constructor
  · obtain ⟨b, marked⟩ := State.sendMarks_time (s := s.endWalks.beforeMarks) s.endWalks.beforeMarks.mfN
    rw [later.time_eq (by decide), marked, before, State.tickMark, old]
    exact congrArg (fun r => (⟨s.time.tick + BitVec.ofNat 64 (3125 - s.time.phase), s.time.mf + 1, 0, r, false, false⟩ : TimeSt)) run
  · intro p hp due
    obtain ⟨l, sent⟩ := State.sendMarks_puts due hp
    exact ⟨l, sent.trans later.out⟩

end

/-- Settles O11: a block that is in time fills its half of the slot, and each point of a microframe moves the clock to its tick; the mark's packets
stay in the trace, which only grows behind them. -/
theorem microframesTakeTheirInput : Obligations.MicroframesTakeTheirInput := by
  unfold Obligations.MicroframesTakeTheirInput
  refine ⟨fun s t d => ⟨fun lost => ?_, fun good far => ?_, fun good near => ⟨fun kind none_ => ?_, ?_, ?_, ?_⟩⟩, fun s run =>
    ⟨microframeMark_spec run, inputCutoff_spec run, decisionTime_spec run, fillDeadline_spec run⟩⟩
  · exact ⟨answers_eq rfl (State.receives_lost lost _ _) rfl, answers_eq rfl (State.receives_lost lost _ _) rfl⟩
  · exact ⟨answers_eq rfl (State.receives_far good far _) (s.discarded_spec t), answers_eq rfl (State.receives_far good far _) (s.discarded_spec t)⟩
  · exact answers_eq (periodicInData_runs good near) (State.periodicIn_unmatched kind none_) (unmatched_spec t)
  · exact fun k x kind found open_ len half late => periodicLate_spec good near kind found open_ len half late
  · exact fun k x kind found open_ large => periodicOversize_spec good near kind found open_ large
  · exact fun k x short kind found open_ len half early free => periodicTaken_spec good near short kind found open_ len half early free

end Sys2Proof.Machine

namespace Sys2Proof.Machine

/-! # Handshakes (R44, R55, R58, R59, R62 to R65, R298, R405, R407) -/

section
variable {s : State} {t : Trunk} {h : Handshake} {k : Nat} {x : NpTx}

/-- The commands of the handshakes, each with its KIND. -/
def shakesOf (t : Trunk) (h : Handshake) : List (Instr × Nat) :=
  [(.ackReceived t h, Pk.ack), (.nakReceived t h, Pk.nak), (.stallReceived t h, Pk.stall), (.nyetReceived t h, Pk.nyet),
    (.errReceived t h, Pk.err), (.lockAckReceived t h, Pk.lockAck), (.lockBusyReceived t h, Pk.lockBusy)]

theorem shake_exec {c : Instr × Nat} (hc : c ∈ shakesOf t h) :
    exec c.1 s = .next (s.receives t.val h.hops.toNat (fun s => s.gotHandshake t.val c.2 h)) := by
  simp only [shakesOf, List.mem_cons, List.not_mem_nil, or_false] at hc
  rcases hc with rfl | rfl | rfl | rfl | rfl | rfl | rfl <;> rfl

theorem shake_runs {c : Instr × Nat} (hc : c ∈ shakesOf t h) (good : (s.trunk t).delinLost = false) (near : h.hops.toNat < 7) :
    exec c.1 s = .next (s.gotHandshake t.val c.2 h) :=
  (shake_exec hc).trans (congrArg Host.Outcome.next (State.receives_near good near _))

/-! ## What a handshake does by its KIND -/

/-- A handshake that is not returned to a HOLDER. -/
def State.ownHandshake (s : State) (t kind : Nat) (h : Handshake) : State :=
  if kind = Pk.ack then s.gotAck t h
  else if kind = Pk.nak then s.gotNak t h
  else if kind = Pk.stall then s.gotStall t h
  else if kind = Pk.nyet then s.gotNyet t h
  else if kind = Pk.err then s.gotErr t h
  else if kind = Pk.lockAck then s.gotLockAck t h
  else if kind = Pk.lockBusy then s.gotLockBusy t h
  else s.unmatched t

theorem State.gotHandshake_own {t : Nat} (own : (s.isPartner && respNp h.flags) = false) (kind : Nat) :
    s.gotHandshake t kind h = s.ownHandshake t kind h := by
  rw [State.gotHandshake, own]
  rfl

theorem relayed_spec {c : Instr × Nat} (hc : c ∈ shakesOf t h) (good : (s.trunk t).delinLost = false) (near : h.hops.toNat < 7)
    (partner : s.isPartner = true) (np : respNp h.flags = true) (up : s.miodelUp = true) :
    answers c.1 s (fun r => r.out = .mio (.relay (.gotHandshake t (BitVec.ofNat 8 c.2) h)) :: s.out) := by
  have trunk : (Fin.ofNat 192 t.val : Fin 192) = t := Fin.ext (Nat.mod_eq_of_lt t.isLt)
  have back : s.gotHandshake t.val c.2 h = s.emit (.mio (.relay (.gotHandshake t (BitVec.ofNat 8 c.2) h))) := by
    rw [State.gotHandshake, partner, np, if_pos (by decide), State.relayBack, State.sendTimed, if_pos up, trunk]
  exact answers_eq (shake_runs hc good near) back rfl

/-- A response that names no open attempt is unmatched, whatever its KIND (R45). -/
theorem State.ownHandshake_none {t : Nat} (np : respNp h.flags = true) (none_ : s.npFind t h.flags h.tag.toNat = none) (kind : Nat) :
    s.ownHandshake t kind h = s.unmatched t := by
  have ack : s.gotAck t h = s.unmatched t := by simp only [State.gotAck, np, none_, Bool.not_true, Bool.false_eq_true, if_false]
  have nak : s.gotNak t h = s.unmatched t := by simp only [State.gotNak, np, none_, Bool.not_true, Bool.false_eq_true, if_false]
  have stall : s.gotStall t h = s.unmatched t := by simp only [State.gotStall, np, none_, Bool.not_true, Bool.false_eq_true, if_false]
  have nyet : s.gotNyet t h = s.unmatched t := by simp only [State.gotNyet, np, none_, Bool.not_true, Bool.false_eq_true, if_false]
  have err : s.gotErr t h = s.unmatched t := by simp only [State.gotErr, np, none_, Bool.not_true, Bool.false_eq_true, if_false]
  have lockAck : s.gotLockAck t h = s.unmatched t := by simp only [State.gotLockAck, np, none_, if_true]
  have lockBusy : s.gotLockBusy t h = s.unmatched t := by simp only [State.gotLockBusy, np, none_, if_true]
  simp only [State.ownHandshake, ack, nak, stall, nyet, err, lockAck, lockBusy, ite_self]

theorem unmatchedShake_spec {c : Instr × Nat} (hc : c ∈ shakesOf t h) (good : (s.trunk t).delinLost = false) (near : h.hops.toNat < 7)
    (own : s.isPartner = false) (np : respNp h.flags = true) (none_ : s.npFind t h.flags h.tag.toNat = none) :
    answers c.1 s (fun r => r.f (Reg.TS_RESP_ERRORS_UNMATCHED t) = min (s.f (Reg.TS_RESP_ERRORS_UNMATCHED t) + 1) 65535 ∧ r.bus = s.bus) := by
  have eq : s.gotHandshake t.val c.2 h = s.unmatched t :=
    (State.gotHandshake_own (by rw [own, Bool.false_and]) c.2).trans (State.ownHandshake_none np none_ c.2)
  obtain ⟨count, -, bus⟩ := unmatched_spec (s := s) t
  exact answers_eq (shake_runs hc good near) eq ⟨count, bus⟩

/-! ## The end of an attempt (R44) -/

/-- The attempt of key `k` has ended at tick `now`, its tag in quarantine. -/
def State.txEnded (now k : Nat) (u : State) : Prop := u.npTx k = none ∧
  Tbl.get (fun _ => none) u.bus.quarantine (k / 8192 * 4096 + k % 4096) = some (now + 6250)

theorem State.txEnded_of_bus {now : Nat} {u v : State} (ended : u.txEnded now k) (bus : v.bus = u.bus) : v.txEnded now k := by
  rw [State.txEnded, State.npTx, bus]
  exact ended

theorem State.npTx_setNpTx (s : State) (k : Nat) (r : Option NpTx) : (s.setNpTx k r).npTx k = r := Tbl.get_set_same _ _ _

theorem State.closeTx_ends (s : State) (k : Nat) : (s.closeTx k).txEnded s.now k := ⟨s.npTx_setNpTx k none, Tbl.get_set_same s.bus.quarantine (k / 8192 * 4096 + k % 4096) (some (s.now + 6250))⟩

/-- An open attempt is that of the key that the response names. -/
structure State.Found (s : State) (t : Nat) (h : Handshake) (k : Nat) (x : NpTx) : Prop where
  own : s.isPartner = false
  np : respNp h.flags = true
  found : s.npFind t h.flags h.tag.toNat = some (k, x)

section
variable {t : Nat} (w : s.Found t h k x)
include w

theorem State.Found.kind (kind : Nat) : s.gotHandshake t kind h = s.ownHandshake t kind h :=
  State.gotHandshake_own (by rw [w.own, Bool.false_and]) kind

/-! ## Handshakes that answer the attempt of a transfer (R55, R58, R59, R62, R63) -/

theorem State.Found.ack (plain : lockView x.xfer = none) (kind : x.kind = Pk.bulkOut ∨ x.kind = Pk.setup) :
    s.gotAck t h = ((s.closeTx k).ackXfer x.xfer x.seq).afterTx x.xfer := by
  have whole : x.kind ≠ Pk.ssplit := by rcases kind with e | e <;> rw [e] <;> decide
  simp only [State.gotAck, w.np, w.found, plain, Bool.not_true, Bool.false_eq_true, if_false, if_neg whole]
  exact if_pos (kind.elim .inl (fun e => .inr (.inl e)))

theorem State.Found.ackSplit (plain : lockView x.xfer = none) (kind : x.kind = Pk.ssplit) :
    s.gotAck t h = ((s.closeTx k).updXfer x.xfer (fun y => { y with
      nakCount := 0
      nakMf := none
      att := setAtt y.att { attOf y.att x.seq with split := some (x.mf + 2, x.exp) } })).afterTx x.xfer := by
  simp only [State.gotAck, w.np, w.found, plain, Bool.not_true, Bool.false_eq_true, if_false, if_pos kind]

theorem State.Found.nak (plain : lockView x.xfer = none) (kind : x.kind = Pk.bulkOut ∨ x.kind = Pk.bulkIn ∨ x.kind = Pk.setup) :
    s.gotNak t h = ((s.closeTx k).nakAttempt x.xfer x.seq x.start).afterTx x.xfer := by
  have other : ¬ (x.kind = Pk.csplit ∨ x.kind = Pk.ping) := by rcases kind with e | e | e <;> rw [e] <;> decide
  simp only [State.gotNak, w.np, w.found, plain, Bool.not_true, Bool.false_eq_true, if_false, if_neg other]

/-- What a STALL leaves of the endpoint (R58). -/
def State.halts (s : State) (h : Nat) : State := if h % 8 = 0 then s else (s.setCf h Cx.halted 1).tellCtx h

theorem State.Found.stall (plain : lockView x.xfer = none) (kind : x.kind = Pk.bulkOut ∨ x.kind = Pk.bulkIn ∨ x.kind = Pk.setup) :
    s.gotStall t h = ((s.closeTx k).halts x.handle).endXfer x.xfer St.stall := by
  have other : ¬ (x.kind = Pk.ssplit ∨ x.kind = Pk.ping) := by rcases kind with e | e | e <;> rw [e] <;> decide
  simp only [State.gotStall, w.np, w.found, plain, Bool.not_true, Bool.false_eq_true, if_false, if_neg other]
  rfl

theorem State.Found.nyet (kind : x.kind = Pk.csplit) :
    s.gotNyet t h = (((s.closeTx k).nakAttempt x.xfer x.seq x.start).updXfer x.xfer (fun y => { y with
      att := setAtt y.att { attOf y.att x.seq with split := some (((s.closeTx k).nakAttempt x.xfer x.seq x.start).mfN + 1, x.exp) } })).afterTx x.xfer := by
  simp only [State.gotNyet, w.np, w.found, Bool.not_true, Bool.false_eq_true, if_false, if_pos kind]

theorem State.Found.err (plain : lockView x.xfer = none) (kind : x.kind = Pk.csplit) :
    s.gotErr t h = (s.setNpTx k (some { x with kind := 0 })).failAttempt x.xfer x.seq := by
  simp only [State.gotErr, w.np, w.found, plain, Bool.not_true, Bool.false_eq_true, if_false, if_pos kind]

/-! ## Handshakes that answer a locked sequence (R64, R405, R407) -/

theorem State.Found.lockAck {v : Nat} (view : lockView x.xfer = some v) (one : x.seq = 1) : s.gotLockAck t h = (s.closeTx k).lockAnswer v 1 [] := by
  simp only [State.gotLockAck, w.np, w.found, view, if_true, if_pos one]

theorem State.Found.lockBusy {v : Nat} (view : lockView x.xfer = some v) (one : x.seq = 1) : s.gotLockBusy t h = (s.closeTx k).lockFail v true := by
  simp only [State.gotLockBusy, w.np, w.found, view, if_true, if_pos one]

theorem State.Found.nakLock {v : Nat} (view : lockView x.xfer = some v) : s.gotNak t h = (s.closeTx k).lockFail v false := by
  simp only [State.gotNak, w.np, w.found, view, Bool.not_true, Bool.false_eq_true, if_false]

end

theorem State.halts_spec (s : State) (h : Nat) : (s.halts h).bus = s.bus ∧ (h % 8 ≠ 0 → (s.halts h).cf h Cx.halted = 1) := by
  have told (z : State) : Moves [.pu, .out] z (z.tellCtx h) := State.tellCtx_moves (.refl _ z) (by decide)
  unfold State.halts
  split
  next even => exact ⟨rfl, fun odd => absurd even odd⟩
  next =>
    refine ⟨(told _).bus_eq (by decide), fun _ => ?_⟩
    rw [State.cf, State.ctx, State.ebmRead, (told _).ebm_eq (by decide)]
    exact State.cf_setCf_same s h Cx.halted 1 (by decide)

/-! ## The answer of a periodic SSPLIT (R4, R58, R62, R63) -/

theorem splitAck_spec {x : PerTx} (good : (s.trunk t).delinLost = false) (near : h.hops.toNat < 7) (per : respNp h.flags = false)
    (open_ : s.per (respKey t h.flags h.tag.toNat) = some x) (got : x.got = false) (kind : x.kind = Pk.ssplit) :
    answers (.ackReceived t h) s (fun r => if s.now < x.start + s.rttOf x.handle + 50 then
          r.per (respKey t h.flags h.tag.toNat) = none ∧ x ∈ Tbl.get (fun _ => []) r.bus.splits t.val
        else r.bus = s.bus ∧ r.f (Reg.TS_RESP_ERRORS_UNMATCHED t) = min (s.f (Reg.TS_RESP_ERRORS_UNMATCHED t) + 1) 65535) := by
  have runs : exec (.ackReceived t h) s = .next (s.gotHandshake t.val Pk.ack h) := shake_runs (c := (.ackReceived t h, Pk.ack)) (.head _) good near
  have eq : s.gotHandshake t.val Pk.ack h = s.periodicAnswer t.val Pk.ack h := by
    rw [State.gotHandshake_own (by rw [per, Bool.and_false]), State.ownHandshake, if_pos rfl, State.gotAck, per]
    rfl
  by_cases late : s.now < x.start + s.rttOf x.handle + 50
  · have taken : s.periodicAnswer t.val Pk.ack h =
        let u := s.setPer (respKey t h.flags h.tag.toNat) none
        { u with bus := { u.bus with splits := Tbl.set (fun _ => []) u.bus.splits t.val (x :: Tbl.get (fun _ => []) u.bus.splits t.val) } } := by
      simp only [State.periodicAnswer, open_, got, Bool.false_eq_true, if_false, if_pos kind, if_neg (Nat.not_le.mpr late), if_true]
    refine answers_eq runs (eq.trans taken) ?_
    rw [if_pos late]
    refine ⟨s.per_setPer (respKey t h.flags h.tag.toNat) none, ?_⟩
    rw [show Tbl.get _ _ t.val = _ from Tbl.get_set_same _ _ _]
    exact .head _
  · have refused : s.periodicAnswer t.val Pk.ack h = s.unmatched t := by
      simp only [State.periodicAnswer, open_, got, Bool.false_eq_true, if_false, if_pos kind, if_pos (Nat.not_lt.mp late)]
    obtain ⟨count, -, bus⟩ := unmatched_spec (s := s) t
    refine answers_eq runs (eq.trans refused) ?_
    rw [if_neg late]
    exact ⟨bus, count⟩

end

/-- Settles O12: a response that names an open attempt closes it by `closeTx` before its KIND says what becomes of the transfer. -/
theorem handshakesEndTheirAttempts : Obligations.HandshakesEndTheirAttempts := by
  unfold Obligations.HandshakesEndTheirAttempts
  intro s t h
  have one {i : Instr} {kind : Nat} (hc : (i, kind) ∈ shakesOf t h) (good : (s.trunk t).delinLost = false) (near : h.hops.toNat < 7) {k : Nat} {x : NpTx}
      (w : s.Found t h k x) : exec i s = .next (s.ownHandshake t.val kind h) :=
    (shake_runs hc good near).trans (congrArg _ (w.kind kind))
  have ack : (.ackReceived t h, Pk.ack) ∈ shakesOf t h := .head _
  have nak : (.nakReceived t h, Pk.nak) ∈ shakesOf t h := .tail _ (.head _)
  have stall : (.stallReceived t h, Pk.stall) ∈ shakesOf t h := .tail _ (.tail _ (.head _))
  have nyet : (.nyetReceived t h, Pk.nyet) ∈ shakesOf t h := .tail _ (.tail _ (.tail _ (.head _)))
  have err : (.errReceived t h, Pk.err) ∈ shakesOf t h := .tail _ (.tail _ (.tail _ (.tail _ (.head _))))
  have lockAck : (.lockAckReceived t h, Pk.lockAck) ∈ shakesOf t h := .tail _ (.tail _ (.tail _ (.tail _ (.tail _ (.head _)))))
  have lockBusy : (.lockBusyReceived t h, Pk.lockBusy) ∈ shakesOf t h := .tail _ (.tail _ (.tail _ (.tail _ (.tail _ (.tail _ (.head _))))))
  refine ⟨fun lost c hc => answers_eq (shake_exec hc) (State.receives_lost lost _ _) rfl,
    fun good far c hc => answers_eq (shake_exec hc) (State.receives_far good far _) (s.discarded_spec t),
    fun good near => ⟨fun c hc => ⟨relayed_spec hc good near, unmatchedShake_spec hc good near⟩, fun k x own np found plain => ?_,
      fun k x v own np found view => ?_, fun x per open_ got kind => splitAck_spec good near per open_ got kind⟩⟩
  · have w : s.Found t h k x := ⟨own, np, found⟩
    have ended := s.closeTx_ends k
    refine ⟨fun kind => ?_, fun kind => ?_, fun kind => ?_, fun kind => ?_, fun kind => ?_, fun kind => ?_⟩
    · exact answers_eq (one ack good near w) (w.ack plain kind) ⟨_, ended, rfl⟩
    · exact answers_eq (one nak good near w) (w.nak plain kind) ⟨_, ended, rfl⟩
    · exact answers_eq (one ack good near w) (w.ackSplit plain kind) ⟨_, ended, rfl⟩
    · obtain ⟨bus, halted⟩ := (s.closeTx k).halts_spec x.handle
      exact answers_eq (one stall good near w) (w.stall plain kind) ⟨_, State.txEnded_of_bus ended bus, halted, rfl⟩
    · exact answers_eq (one nyet good near w) (w.nyet kind) ⟨_, _, ended, rfl, rfl⟩
    · exact answers_eq (one err good near w) (w.err plain kind) ⟨_, s.npTx_setNpTx k _, rfl⟩
  · have w : s.Found t h k x := ⟨own, np, found⟩
    have ended := s.closeTx_ends k
    exact ⟨fun first => answers_eq (one lockAck good near w) (w.lockAck view first) ⟨_, ended, rfl⟩,
      fun first => answers_eq (one lockBusy good near w) (w.lockBusy view first) ⟨_, ended, rfl⟩,
      answers_eq (one nak good near w) (w.nakLock view) ⟨_, ended, rfl⟩⟩

end Sys2Proof.Machine

namespace Sys2Proof.Machine

/-! # Data, windows and tags (R4, R44, R45, R56, R58, R63, R69, R407) -/

section
variable {s : State} {t : Trunk} {k : Nat}

/-! ## Data that answers an attempt (R45, R56, R69) -/

section
variable {d : DataPkt} {x : NpTx} (good : (s.trunk t).delinLost = false) (near : d.hops.toNat < 7) (own : s.isPartner = false)
  (np : respNp d.flags = true) (found : s.npFind t d.flags d.tag.toNat = some (k, x)) (plain : lockView x.xfer = none)
  (handle : x.handle = d.handle.toNat) (len : d.payload.length ≤ x.len)
include good near own np found plain handle len

theorem npData_spec (kind : x.kind = Pk.bulkIn ∨ x.kind = Pk.csplit ∧ x.inner = 4) (fits : s.seqFits x d.seq.toNat = true) :
    answers (.npDataReceived t d) s (fun r => ∃ u : State, u.txEnded s.now k ∧
      r = (u.dataXfer x.xfer d.seq.toNat d.payload (nbit d.flags.toNat 0)).afterTx x.xfer) := by
  have takes : (x.kind == Pk.bulkIn || x.kind == Pk.ping || (x.kind == Pk.csplit && x.inner == 4)) = true := by
    rcases kind with e | ⟨e, e'⟩
    · rw [e]; rfl
    · rw [e, e']; rfl
  have noPing : x.kind ≠ Pk.ping := by rcases kind with e | ⟨e, -⟩ <;> rw [e] <;> decide
  have eq : s.gotData t.val d = ((s.closeTx k).dataXfer x.xfer d.seq.toNat d.payload (nbit d.flags.toNat 0)).afterTx x.xfer := by
    simp only [State.gotData, own, np, found, takes, handle, plain, fits, bne_self_eq_false, Bool.false_and, Bool.not_true, Bool.or_self,
      Bool.false_eq_true, if_false, if_true, if_neg noPing, if_neg (Nat.not_lt.mpr len)]
  exact answers_eq (congrArg Host.Outcome.next (State.receives_near good near _)) eq ⟨_, s.closeTx_ends k, rfl⟩

theorem pingAnswer_spec (kind : x.kind = Pk.ping) :
    answers (.npDataReceived t d) s (fun r => ∃ u : State, u.txEnded s.now k ∧ r = u.pingDone t x.start) := by
  have takes : (x.kind == Pk.bulkIn || x.kind == Pk.ping || (x.kind == Pk.csplit && x.inner == 4)) = true := by rw [kind]; rfl
  have eq : s.gotData t.val d = (s.closeTx k).pingDone t.val x.start := by
    simp only [State.gotData, own, np, found, takes, handle, plain, bne_self_eq_false, Bool.false_and, Bool.not_true, Bool.or_self,
      Bool.false_eq_true, if_false, if_true, if_pos kind, if_neg (Nat.not_lt.mpr len)]
  exact answers_eq (congrArg Host.Outcome.next (State.receives_near good near _)) eq ⟨_, s.closeTx_ends k, rfl⟩

end

/-! ## Response windows (R4, R58, R63) -/

/-- A window that is over. -/
def State.overAt (s : State) (k : Nat) : Option (Nat × NpTx) := match s.npTx k with
  | some x => if x.close ≤ s.now then some (k, x) else none
  | none => none

theorem State.npOver_eq (t m tag : Nat) : s.npOver t m tag = (s.overAt (npKey t m tag)).or (s.overAt (npKey (t + 192) m tag)) := rfl

theorem State.overAt_open (h : ∀ x, s.npTx k = some x → s.now < x.close) : s.overAt k = none := by
  unfold State.overAt
  split
  next x e => exact if_neg (Nat.not_le.mpr (h x e))
  next => rfl

theorem State.overAt_over {x : NpTx} (h : s.npTx k = some x) (over_ : x.close ≤ s.now) : s.overAt k = some (k, x) := by
  rw [State.overAt, h]
  exact if_pos over_

theorem State.windowClose_open {t tag : Nat} {mfp : Bool}
    (h : ∀ k ∈ [npKey t (b2n mfp) tag, npKey (t + 192) (b2n mfp) tag], ∀ x, s.npTx k = some x → s.now < x.close) : s.windowClose t true mfp tag = s := by
  have none_ : s.npOver t (b2n mfp) tag = none := by
    rw [State.npOver_eq, State.overAt_open (h _ (.head _)), State.overAt_open (h _ (.tail _ (.head _)))]
    rfl
  rw [State.windowClose, none_]
  rfl

/-- What the end of a window does behind the end of its attempt. -/
def State.windowEnds (u : State) (k : Nat) (x : NpTx) : State :=
  match lockView x.xfer with
  | some v => u.lockFail v false
  | none =>
    if x.kind = Pk.ping then u.pingLate (k / 8192)
    else if x.kind = 0 then u.afterTx x.xfer
    else (u.failAttempt x.xfer x.seq).afterTx x.xfer

theorem State.windowClose_over {t tag : Nat} {mfp : Bool} {x : NpTx} (h : s.npTx (npKey t (b2n mfp) tag) = some x) (over_ : x.close ≤ s.now) :
    s.windowClose t true mfp tag = (s.closeTx (npKey t (b2n mfp) tag)).windowEnds (npKey t (b2n mfp) tag) x := by
  have some_ : s.npOver t (b2n mfp) tag = some (npKey t (b2n mfp) tag, x) := by
    rw [State.npOver_eq, State.overAt_over h over_]
    rfl
  rw [State.windowClose, some_]
  rfl

theorem State.per_bump (s : State) (x : Fld) (n k : Nat) : (s.bump x n).per k = s.per k := by rw [State.per, State.bump, State.setF_bus, State.per]

theorem splitWindow_spec {mfp : Bool} {tag : BitVec 12} {x : PerTx} (open_ : s.per (npKey t (b2n mfp) tag.toNat) = some x) (kind : x.kind = Pk.ssplit) :
    answers (.responseWindowClose t false mfp tag) s (fun r =>
      if x.start + s.rttOf x.handle + 50 ≤ s.now then r.per (npKey t (b2n mfp) tag.toNat) = none ∧
        r.f (Reg.TS_SPLIT_NAKS_NO_ANSWER t) = min (s.f (Reg.TS_SPLIT_NAKS_NO_ANSWER t) + 1) 65535
      else r = s) := by
  have eq : s.windowClose t.val false mfp tag.toNat =
      if x.kind = Pk.ssplit ∧ x.start + s.rttOf x.handle + 50 ≤ s.now then
        (s.setPer (npKey t (b2n mfp) tag.toNat) none).bump (Reg.TS_SPLIT_NAKS_NO_ANSWER t) else s := by
    rw [State.windowClose]
    simp only [open_, Bool.not_false, if_true]
  by_cases late : x.start + s.rttOf x.handle + 50 ≤ s.now
  · refine answers_eq rfl (eq.trans (if_pos ⟨kind, late⟩)) ?_
    rw [if_pos late, State.per_bump, State.per_setPer]
    exact ⟨rfl, State.f_bump_same _ 1 rfl⟩
  · refine answers_eq rfl (eq.trans (if_neg (fun both => late both.2))) ?_
    rw [if_neg late]

/-! ## Tags come back (R44) -/

/-- A tag whose quarantine is over is free. -/
def State.freedTag (s : State) (q : Tbl (Option Nat)) (i : Nat) : Tbl (Option Nat) :=
  match Tbl.get (fun _ => none) q i with
  | some x => if s.now < x then q else Tbl.set (fun _ => none) q i none
  | none => q

theorem State.freedTag_same {q : Tbl (Option Nat)} {i x : Nat} (h : Tbl.get (fun _ => none) q i = some x) :
    Tbl.get (fun _ => none) (s.freedTag q i) i = if s.now < x then some x else none := by
  rw [State.freedTag, h]
  dsimp only
  split
  · exact h
  · exact Tbl.get_set_same _ _ _

theorem State.freedTag_other {q : Tbl (Option Nat)} {i j : Nat} (ne : j ≠ i) :
    Tbl.get (fun _ => none) (s.freedTag q i) j = Tbl.get (fun _ => none) q j := by
  unfold State.freedTag
  split
  · split
    · rfl
    · exact Tbl.get_set_other _ _ ne
  · rfl

theorem tagReuse_spec {tag : BitVec 12} {x : Nat} (h : Tbl.get (fun _ => none) s.bus.quarantine (t * 4096 + tag.toNat) = some x) :
    answers (.tagReuseExpiry t tag) s (fun r => Tbl.get (fun _ => none) r.bus.quarantine (t * 4096 + tag.toNat) =
        if s.now < x then some x else none) := by
  refine answers_of rfl ?_
  show Tbl.get (fun _ => none) (s.freedTag (s.freedTag s.bus.quarantine (t.val * 4096 + tag.toNat)) ((t.val + 192) * 4096 + tag.toNat)) _ = _
  rw [State.freedTag_other (by omega)]
  exact State.freedTag_same h

end

/-- Settles O13: data goes to its transfer once its attempt is closed; a window and a quarantine are judged by the tick at which they end. -/
theorem dataAndWindowsEndAttempts : Obligations.DataAndWindowsEndAttempts := by
  unfold Obligations.DataAndWindowsEndAttempts
  intro s t
  refine ⟨?_, ?_, fun mfp tag open_ => answers_eq rfl (State.windowClose_open open_) rfl, fun mfp tag x h over_ => ⟨?_, ?_, ?_⟩,
    fun mfp tag x open_ kind => splitWindow_spec open_ kind, fun tag x h => tagReuse_spec h⟩
  · exact fun d k x good near own np found plain kind handle fits len => npData_spec good near own np found plain handle len kind fits
  · exact fun d k x good near own np found plain kind handle len => pingAnswer_spec good near own np found plain handle len kind
  · intro plain kind
    refine answers_eq rfl (State.windowClose_over h over_) ⟨_, s.closeTx_ends _, ?_⟩
    rw [State.windowEnds, plain]
    exact if_pos kind
  · intro plain noPing live
    refine answers_eq rfl (State.windowClose_over h over_) ⟨_, s.closeTx_ends _, ?_⟩
    rw [State.windowEnds, plain]
    exact (if_neg noPing).trans (if_neg live)
  · intro v view
    refine answers_eq rfl (State.windowClose_over h over_) ⟨_, s.closeTx_ends _, ?_⟩
    rw [State.windowEnds, view]

end Sys2Proof.Machine

namespace Sys2Proof.Machine

/-! # The walkers (R5, R15, R50, R132 to R138, R171, R176, R178, R435) -/

section
variable {s : State} {t : Nat} {e : PEnt} {l : List PEnt}

theorem State.walk_setWalk (s : State) (t : Nat) (w : WalkRec) : (s.setWalk t w).walk t = w := Tbl.get_set_same _ _ _

theorem State.setWalk_moves' (s : State) (t : Nat) (w : WalkRec) : Moves [.ts] s (s.setWalk t w) := State.setWalk_moves (.refl _ s) (by decide)

theorem State.bumpCf_moves' (s : State) (h : Nat) (x : CtxF) : Moves [.ebm] s (s.bumpCf h x) := State.bumpCf_moves (.refl _ s) (by decide)

theorem State.walk_of_ts {u : State} (h : u.ts = s.ts) : u.walk t = s.walk t := by rw [State.walk, h, State.walk]

/-! ## The next entry of a walk -/

/-- The walker of trunk `t` has taken the next entry of its list. -/
def State.takenRest (s : State) (t : Nat) (l : List PEnt) : State := s.setWalk t { s.walk t with rest := l }

theorem State.walk_takenRest (s : State) (t : Nat) (l : List PEnt) : (s.takenRest t l).walk t = { s.walk t with rest := l } := s.walk_setWalk _ _

theorem State.takenRest_tooLate : (s.takenRest t l).tooLate t e = s.tooLate t e := by
  have f : (s.takenRest t l).f (Reg.TM_PORT_RTT_RTT t) = s.f (Reg.TM_PORT_RTT_RTT t) := (s.setWalk_moves' t _).f_eq (by decide) _
  have time : (s.takenRest t l).time = s.time := rfl
  rw [State.tooLate, f, time, State.tooLate]

theorem State.takenRest_fromCommit (u : Nat) : (s.takenRest t l).fromCommit u = s.fromCommit u := by
  have number : (s.takenRest t l).mfN = s.mfN := rfl
  have full : (s.takenRest t l).fullMf u = s.fullMf u := by rw [State.fullMf, number, State.fullMf]
  have commit : (s.takenRest t l).ts.commit = s.ts.commit := rfl
  unfold State.fromCommit
  rw [commit]
  simp only [full]

/-- A walk's record has no part in where the blocks lie. -/
theorem State.takenRest_blockAddr (h m : Nat) : (s.takenRest t l).blockAddr h m = s.blockAddr h m := by
  have old (k : Nat) : (s.takenRest t l).oldSlot k = s.oldSlot k := rfl
  have now (k : Nat) : (s.takenRest t l).slotNow k = s.slotNow k := rfl
  have at_ (k u : Nat) : (s.takenRest t l).slotAt k u = s.slotAt k u := by
    unfold State.slotAt
    rw [old, State.takenRest_fromCommit, now]
  rw [State.blockAddr, State.blockSlot, at_, State.blockAddr, State.blockSlot]

theorem State.takenRest_groupBlock (g m : Nat) : (s.takenRest t l).groupBlock g m = s.groupBlock g m := by
  have slot : (s.takenRest t l).groupSlot g = s.groupSlot g := rfl
  have read (a n : Nat) : (s.takenRest t l).ebmRead a n = s.ebmRead a n := rfl
  unfold State.groupBlock
  generalize (m + 65535) % 65536 = r
  rw [slot]
  simp only [read, State.takenRest_blockAddr]

theorem State.takenRest_readHalf (h k : Nat) : (s.takenRest t l).readHalf h k = s.readHalf h k := by
  have cf (x : CtxF) : (s.takenRest t l).cf h x = s.cf h x := rfl
  have read (a n : Nat) : (s.takenRest t l).ebmRead a n = s.ebmRead a n := rfl
  rw [State.readHalf, State.takenRest_blockAddr, cf, read, State.readHalf]

theorem State.takenRest_outBlock (h m : Nat) : (s.takenRest t l).outBlock h m = s.outBlock h m := by
  have holds (k : Nat) : (s.takenRest t l).halfHolds h k = s.halfHolds h k := rfl
  unfold State.outBlock
  generalize (m + 65535) % 65536 = r
  simp only [holds, State.takenRest_readHalf]

theorem State.takenRest_entBlock (m : Nat) : (s.takenRest t l).entBlock m e = s.entBlock m e := by
  rw [State.entBlock, State.takenRest_groupBlock, State.takenRest_outBlock, State.entBlock]

theorem State.takenRest_transmits (m : Nat) : (s.takenRest t l).transmits t m e = s.transmits t m e := by
  have may : (s.takenRest t l).permitted t e = s.permitted t e := rfl
  have split_ : (s.takenRest t l).splitDone t m e = s.splitDone t m e := by rw [State.splitDone, State.splitDone]; rfl
  rw [State.transmits, State.sends, may, State.takenRest_entBlock, split_, State.transmits, State.sends]

theorem State.walkNext_rest (run : s.trunkRuns t = true) (none_ : (s.walk t).deferred = []) (next : (s.walk t).rest = e :: l) :
    s.walkNext t = if s.tooLate t e then (s.takenRest t l).lateVisit t s.mfN e else (s.takenRest t l).visit t s.mfN e := by
  rw [State.walkNext, run, if_neg (by decide)]
  rw [← State.takenRest_tooLate (s := s) (l := l)]
  unfold State.takenRest
  dsimp only
  generalize s.walk t = w at none_ next
  obtain ⟨deferred, rest, tag, sent, carry, overrun, np⟩ := w
  subst none_ next
  rfl

theorem State.walkNext_deferred (run : s.trunkRuns t = true) (some_ : (s.walk t).deferred = e :: l) :
    s.walkNext t = if s.tooLate t e then (s.setWalk t { s.walk t with deferred := l }).bump (Reg.TS_DROPPED_COUNT t)
      else (s.setWalk t { s.walk t with deferred := l }).visit t (s.mfN - 1) e := by
  rw [State.walkNext, run, if_neg (by decide)]
  dsimp only
  rw [some_]
  rfl

theorem State.tooLate_of (h : Config.fillTick ≤ s.time.phase ∨ e.kind = 0 ∧ 4375 ≤ s.time.phase + s.f (Reg.TM_PORT_RTT_RTT t)) : s.tooLate t e = true := by
  unfold State.tooLate
  rcases h with h | ⟨kind, h⟩
  · rw [decide_eq_true h, Bool.true_or]
  · rw [kind, decide_eq_true h]
    exact Bool.or_true _

theorem State.tooLate_not (early : s.time.phase < Config.fillTick)
    (h : e.kind = 1 ∨ e.kind = 0 ∧ s.time.phase + s.f (Reg.TM_PORT_RTT_RTT t) < 4375) : s.tooLate t e = false := by
  unfold State.tooLate
  rw [decide_eq_false (Nat.not_le.mpr early), Bool.false_or]
  rcases h with kind | ⟨-, h⟩
  · rw [kind]
    rfl
  · rw [decide_eq_false (Nat.not_le.mpr h), Bool.and_false]

/-! ## What an entry sends (R48, R50, R133, R134) -/

/-- FLAGS of a transaction of an endpoint (R40, R50). -/
def State.entFlags (s : State) (t : Nat) (e : PEnt) : Nat :=
  pktFlags false (s.cf e.handle Cx.twill == 1) false false false false (s.mfN % 65536) (s.pathOf t)

/-- The token of an endpoint's entry, as the next tag names it. -/
def State.entPkt (s : State) (t : Nat) (e : PEnt) (kind len : Nat) (b : List Byte) : Pkt :=
  ⟨kind, s.entFlags t e, (s.walk t).tag % 4096, e.handle, 0, len, s.mfN % 65536, b⟩

/-- The next tag has been taken and a transaction has gone out. -/
def State.sentOne (s : State) (t : Nat) (w : WalkRec) : State :=
  (s.bump (Reg.TS_PERIODIC_SENT_COUNT t)).setWalk t { w with tag := w.tag + 1, sent := w.sent + 1 }

/-- The transaction that an IN opens. -/
def State.inTx (s : State) (e : PEnt) : PerTx := ⟨Pk.in_, 0, e.handle, s.mfN % 65536, e.length, s.now, false⟩

section
variable (loud : s.mute = false) (up : s.ck.fundamental = false)
include loud up

theorem State.sendPer_in (kind : e.kind = 0) (d : Nat) : s.sendPer t d e none =
    ((s.emit (.pkt t (s.entPkt t e Pk.in_ e.length []))).setPer (npKey t (s.mfN % 65536) ((s.walk t).tag % 4096)) (some (s.inTx e))).sentOne t (s.walk t) := by
  unfold State.sendPer State.entTwill
  simp only [kind, loud, up, Bool.or_self, Bool.false_eq_true, if_false, Bool.not_false, show (0 : Nat) ≠ 2 from by decide, show (0 : Nat) ≠ 1 from by decide,
    show (0 : Nat) ≠ 5 from by decide, show (0 : Nat) ≠ 6 from by decide, or_self]
  rfl

theorem State.sendPer_out (kind : e.kind = 1) (d : Nat) (b : List Byte) : s.sendPer t d e (some b) =
    ((s.emit (.pkt t (s.entPkt t e Pk.out b.length []))).emit (.pkt t (s.entPkt t e Pk.data b.length b))).sentOne t (s.walk t) := by
  unfold State.sendPer State.entTwill
  simp only [kind, loud, up, Bool.or_self, Bool.false_eq_true, if_false, Bool.not_false, show (1 : Nat) ≠ 2 from by decide,
    show (1 : Nat) ≠ 5 from by decide, show (1 : Nat) ≠ 6 from by decide, or_self, true_or, if_true]
  rfl

end

theorem State.deferEnt_spec (u : State) (t : Trunk) (e : PEnt) :
    (u.deferEnt t e).walk t = { u.walk t with carry := (u.walk t).carry ++ [e], overrun := true } ∧ (u.deferEnt t e).out = u.out ∧
      (u.deferEnt t e).f (Reg.TS_DEFERRED_PERIODIC t) = min (u.f (Reg.TS_DEFERRED_PERIODIC t) + 1) 65535 := by
  have apart : (Reg.TS_DEFERRED_PERIODIC t).addr ≠ Reg.TS_DEFER_TOTAL_COUNT.addr := by
    show 0x701000 + t.val * 0x40 + 0x18 ≠ 0x700018
    omega
  have apart' : (Reg.TS_DEFERRED_PERIODIC t).addr ≠ (Reg.TS_WALK_OVERRUN_COUNT t).addr := by
    show 0x701000 + t.val * 0x40 + 0x18 ≠ 0x701000 + t.val * 0x40 + 0x34
    omega
  have first : ((u.bump (Reg.TS_DEFERRED_PERIODIC t)).bump Reg.TS_DEFER_TOTAL_COUNT).f (Reg.TS_DEFERRED_PERIODIC t) =
      min (u.f (Reg.TS_DEFERRED_PERIODIC t) + 1) 65535 := (State.f_bump_other _ _ apart).trans (State.f_bump_same u 1 rfl)
  have moves : Moves [.regs] u ((u.bump (Reg.TS_DEFERRED_PERIODIC t)).bump Reg.TS_DEFER_TOTAL_COUNT) :=
    State.bump_moves (State.bump_moves (.refl _ u) (by decide)) (by decide)
  rw [State.deferEnt]
  generalize (u.bump (Reg.TS_DEFERRED_PERIODIC t)).bump Reg.TS_DEFER_TOTAL_COUNT = v at first moves
  refine ⟨State.walk_setWalk _ _ _, ?_, ?_⟩
  · rw [(State.setWalk_moves' _ _ _).out_eq (by decide)]
    split
    · exact moves.out_eq (by decide)
    · exact (State.setF_out _ _ _).trans (moves.out_eq (by decide))
  · rw [(State.setWalk_moves' _ _ _).f_eq (by decide)]
    split
    · exact first
    · exact (State.f_bump_other _ _ apart').trans first

theorem State.sentOne_spec (s : State) (t : Nat) (w : WalkRec) : (s.sentOne t w).out = s.out ∧ (s.sentOne t w).bus = s.bus ∧
    (s.sentOne t w).walk t = { w with tag := w.tag + 1, sent := w.sent + 1 } ∧
    (s.sentOne t w).f (Reg.TS_PERIODIC_SENT_COUNT t) = min (s.f (Reg.TS_PERIODIC_SENT_COUNT t) + 1) 0xFFFFFFFF := by
  have moves : Moves [.regs, .ts] s (s.sentOne t w) := State.setWalk_moves (State.bump_moves (.refl _ s) (by decide)) (by decide)
  have count : (s.bump (Reg.TS_PERIODIC_SENT_COUNT t)).f (Reg.TS_PERIODIC_SENT_COUNT t) = min (s.f (Reg.TS_PERIODIC_SENT_COUNT t) + 1) 0xFFFFFFFF :=
    State.f_bump_same s 1 rfl
  refine ⟨moves.out_eq (by decide), moves.bus_eq (by decide), State.walk_setWalk _ _ _, ?_⟩
  rw [State.sentOne, (State.setWalk_moves' _ t _).f_eq (by decide), count]

/-! ## The visits (R133, R137, R138, R171) -/

section
variable {t : Trunk} (run : s.trunkRuns t = true) (none_ : (s.walk t).deferred = []) (next : (s.walk t).rest = e :: l)
include run none_ next

theorem walkerIn_spec (early : s.time.phase < Config.fillTick) (may : s.permitted t e = true) (loud : s.mute = false) (up : s.ck.fundamental = false)
    (kind : e.kind = 0) (limit : s.time.phase + s.f (Reg.TM_PORT_RTT_RTT t) < 4375) : answers (.walkerIssue ⟨t, none⟩) s (fun r =>
        r.out = .pkt t ⟨Pk.in_, pktFlags false (s.cf e.handle Cx.twill == 1) false false false false (s.mfN % 65536)
          (s.pathOf t), (s.walk t).tag % 4096, e.handle, 0, e.length, s.mfN % 65536, []⟩ :: s.out ∧
        (r.walk t).rest = l ∧ (r.walk t).tag = (s.walk t).tag + 1 ∧
        r.per (npKey t (s.mfN % 65536) ((s.walk t).tag % 4096)) = some ⟨Pk.in_, 0, e.handle, s.mfN % 65536, e.length, s.now, false⟩ ∧
        r.f (Reg.TS_PERIODIC_SENT_COUNT t) = min (s.f (Reg.TS_PERIODIC_SENT_COUNT t) + 1) 0xFFFFFFFF) := by
  have visited : (s.takenRest t l).visit t s.mfN e = (s.takenRest t l).sendPer t s.mfN e none := by
    have may' : (s.takenRest t l).permitted t e = true := may
    have plain : carries e.kind = false := by rw [kind]; rfl
    have split_ : (e.kind == 5 || e.kind == 6) = false := by rw [kind]; rfl
    rw [State.visit, State.sends, may', plain, split_]
    simp only [Bool.not_true, Bool.not_false, Bool.true_or, Bool.and_self, Bool.false_eq_true, if_false, if_true]
  have row : s.walkerIssue t none = (s.takenRest t l).sendPer t s.mfN e none := by
    rw [State.walkerIssue, run, if_neg (by decide)]
    rw [State.walkNext_rest run none_ next, State.tooLate_not early (.inr ⟨kind, limit⟩), visited]
    rfl
  refine answers_eq rfl (row.trans (State.sendPer_in (s := s.takenRest t l) loud up kind _)) ?_
  obtain ⟨out, bus, walk, count⟩ := State.sentOne_spec
    (((s.takenRest t l).emit (.pkt t ((s.takenRest t l).entPkt t e Pk.in_ e.length []))).setPer
      (npKey t ((s.takenRest t l).mfN % 65536) (((s.takenRest t l).walk t).tag % 4096)) (some ((s.takenRest t l).inTx e))) t ((s.takenRest t l).walk t)
  have same := s.walk_takenRest t l
  refine ⟨out.trans ?_, ?_, ?_, ?_, count⟩
  · show Emit.pkt t ((s.takenRest t l).entPkt t e Pk.in_ e.length []) :: s.out = _
    rw [State.entPkt, same]
    rfl
  · rw [walk, same]
  · rw [walk, same]
  · rw [State.per, bus, same]
    exact State.per_setPer ((s.takenRest t l).emit _) _ _

theorem walkerOut_spec (early : s.time.phase < Config.fillTick) (may : s.permitted t e = true) (loud : s.mute = false) (up : s.ck.fundamental = false)
    {b : List Byte} (kind : e.kind = 1) (block : s.outBlock e.handle s.mfN = some b) : answers (.walkerIssue ⟨t, none⟩) s (fun r =>
        r.out = .pkt t ⟨Pk.data, pktFlags false (s.cf e.handle Cx.twill == 1) false false false false (s.mfN % 65536) (s.pathOf t), (s.walk t).tag % 4096, e.handle, 0,
            b.length, s.mfN % 65536, b⟩ ::
          .pkt t ⟨Pk.out, pktFlags false (s.cf e.handle Cx.twill == 1) false false false false (s.mfN % 65536) (s.pathOf t), (s.walk t).tag % 4096, e.handle, 0,
            b.length, s.mfN % 65536, []⟩ :: s.out) := by
  have visited : (s.takenRest t l).visit t s.mfN e = (s.takenRest t l).sendPer t s.mfN e (some b) := by
    have may' : (s.takenRest t l).permitted t e = true := may
    have block' : (s.takenRest t l).entBlock (s.takenRest t l).mfN e = some b := by
      rw [State.takenRest_entBlock, State.entBlock, kind, if_neg (by decide)]
      exact block
    have takes : carries e.kind = true := by rw [kind]; rfl
    rw [State.visit, may', takes, block']
    simp only [Bool.not_true, Bool.false_eq_true, if_false, if_true]
  have row : s.walkerIssue t none = (s.takenRest t l).sendPer t s.mfN e (some b) := by
    rw [State.walkerIssue, run, if_neg (by decide)]
    rw [State.walkNext_rest run none_ next, State.tooLate_not early (.inl kind), visited]
    rfl
  refine answers_eq rfl (row.trans (State.sendPer_out (s := s.takenRest t l) loud up kind _ b)) ((State.sentOne_spec _ _ _).1.trans ?_)
  show Emit.pkt t ((s.takenRest t l).entPkt t e Pk.data b.length b) :: .pkt t ((s.takenRest t l).entPkt t e Pk.out b.length []) :: s.out = _
  rw [State.entPkt, State.entPkt, s.walk_takenRest t l]
  rfl

theorem walkerDefers_spec (late : Config.fillTick ≤ s.time.phase ∨ e.kind = 0 ∧ 4375 ≤ s.time.phase + s.f (Reg.TM_PORT_RTT_RTT t))
    (due : s.transmits t s.mfN e = true) : answers (.walkerIssue ⟨t, none⟩) s (fun r => (r.walk t).carry = (s.walk t).carry ++ [e] ∧ (r.walk t).rest = l ∧
        r.out = s.out ∧ r.f (Reg.TS_DEFERRED_PERIODIC t) = min (s.f (Reg.TS_DEFERRED_PERIODIC t) + 1) 65535) := by
  have visited : (s.takenRest t l).lateVisit t s.mfN e = (s.takenRest t l).deferEnt t e := if_pos ((State.takenRest_transmits _).trans due)
  have row : s.walkerIssue t none = (s.takenRest t l).deferEnt t e := by
    rw [State.walkerIssue, run, if_neg (by decide)]
    rw [State.walkNext_rest run none_ next, State.tooLate_of late, if_pos rfl, visited]
  refine answers_eq rfl row ?_
  have same := s.walk_takenRest t l
  have regs : s.f (Reg.TS_DEFERRED_PERIODIC t) = (s.takenRest t l).f (Reg.TS_DEFERRED_PERIODIC t) := rfl
  have out : (s.takenRest t l).out = s.out := rfl
  rw [regs, ← out]
  obtain ⟨walk, out', count⟩ := (s.takenRest t l).deferEnt_spec t e
  rw [walk, same]
  exact ⟨rfl, rfl, out', count⟩

theorem walkerMisses_spec (may : s.permitted t e = true) (kind : e.kind = 1) (none' : s.outBlock e.handle s.mfN = none) :
    answers (.walkerIssue ⟨t, none⟩) s (fun r => (r.walk t).rest = l ∧ (r.walk t).carry = (s.walk t).carry ∧
        r.out = s.out ∧ r.cf e.handle Cx.missing = min (s.cf e.handle Cx.missing + 1) (2 ^ Cx.missing.w - 1)) := by
  have missing (u : State) : u.outMissing e = u.bumpCf e.handle Cx.missing := by rw [State.outMissing, kind]; rfl
  have takes : carries e.kind = true := by rw [kind]; rfl
  have may' : (s.takenRest t l).permitted t e = true := may
  have block (m : Nat) : s.entBlock m e = s.outBlock e.handle m := by rw [State.entBlock, kind, if_neg (by decide)]
  have none'' : (s.takenRest t l).entBlock s.mfN e = none := (State.takenRest_entBlock _).trans ((block s.mfN).trans none')
  have early : (s.takenRest t l).visit t s.mfN e = (s.takenRest t l).bumpCf e.handle Cx.missing := by
    have number : (s.takenRest t l).mfN = s.mfN := rfl
    rw [State.visit, may', takes, number, none'', ← missing]
    simp only [Bool.not_true, Bool.false_eq_true, if_false, if_true]
  have late : (s.takenRest t l).lateVisit t s.mfN e = (s.takenRest t l).bumpCf e.handle Cx.missing := by
    have not : (s.takenRest t l).transmits t s.mfN e = false := by
      rw [State.transmits, State.sends, takes, none'', may']
      rfl
    rw [State.lateVisit, not, may', takes, ← missing]
    simp only [State.when, Bool.and_self, Bool.false_eq_true, if_false, if_true]
  have row : s.walkerIssue t none = (s.takenRest t l).bumpCf e.handle Cx.missing := by
    rw [State.walkerIssue, run, if_neg (by decide)]
    rw [State.walkNext_rest run none_ next, early, late, ite_self]
  have counted : ((s.takenRest t l).bumpCf e.handle Cx.missing).walk t = { s.walk t with rest := l } :=
    (State.walk_of_ts ((State.bumpCf_moves' _ _ _).ts_eq (by decide))).trans (s.walk_takenRest t l)
  refine answers_eq rfl row ⟨by rw [counted], by rw [counted], (State.bumpCf_moves' _ _ _).out_eq (by decide), ?_⟩
  have bounded : min (s.cf e.handle Cx.missing + 1) (2 ^ Cx.missing.w - 1) < 2 ^ Cx.missing.w :=
    Nat.lt_of_le_of_lt (Nat.min_le_right _ _) (by decide)
  exact (State.cf_setCf_same _ _ Cx.missing _ (by decide)).trans (Nat.mod_eq_of_lt bounded)

end

theorem walkerDrops_spec {t : Trunk} (run : s.trunkRuns t = true) (some_ : (s.walk t).deferred = e :: l)
    (late : Config.fillTick ≤ s.time.phase ∨ e.kind = 0 ∧ 4375 ≤ s.time.phase + s.f (Reg.TM_PORT_RTT_RTT t)) : answers (.walkerIssue ⟨t, none⟩) s (fun r =>
      (r.walk t).deferred = l ∧ r.out = s.out ∧ r.f (Reg.TS_DROPPED_COUNT t) = min (s.f (Reg.TS_DROPPED_COUNT t) + 1) 0xFFFFFFFF) := by
  have row : s.walkerIssue t none = (s.setWalk t { s.walk t with deferred := l }).bump (Reg.TS_DROPPED_COUNT t) := by
    rw [State.walkerIssue, run, if_neg (by decide)]
    rw [State.walkNext_deferred run some_, State.tooLate_of late, if_pos rfl]
  have walk : ((s.setWalk t { s.walk t with deferred := l }).bump (Reg.TS_DROPPED_COUNT t)).walk t = { s.walk t with deferred := l } :=
    (State.walk_of_ts (State.setF_ts _ _ _)).trans (s.walk_setWalk _ _)
  exact answers_eq rfl row ⟨by rw [walk], State.setF_out _ _ _, State.f_bump_same _ 1 rfl⟩

end

end Sys2Proof.Machine

namespace Sys2Proof.Machine

/-! # Errors that a walker meets (R176, R178, R435) -/

section
variable {s : State} {e : PEnt} {l : List PEnt}

/-! ## What the damage of a list leaves (R435) -/

theorem State.damage_marks (s : State) (t k p out bank i : Nat) : ∃ j, (s.damage t k p out bank i).damageOf t k p out bank = some j ∧ j ≤ i := by
  have new (u : State) (j : Nat) (rest : List (Nat × Nat × Nat × Nat × Nat))
      (h : u.ts.damaged = rest.filter (fun x => !(x.1 == t && x.2.1 == k && x.2.2.1 == p && x.2.2.2.1 == bank * 2 + out)) ++ [(t, k, p, bank * 2 + out, j)]) :
      u.damageOf t k p out bank = some j := by
    have none_ : (rest.filter (fun x => !(x.1 == t && x.2.1 == k && x.2.2.1 == p && x.2.2.2.1 == bank * 2 + out))).find?
        (fun x => x.1 == t && x.2.1 == k && x.2.2.1 == p && x.2.2.2.1 == bank * 2 + out) = none := by
      rw [List.find?_eq_none]
      intro x hx
      have other := (List.mem_filter.mp hx).2
      intro same
      rw [same] at other
      exact absurd other (by decide)
    rw [State.damageOf, h, List.find?_append, none_]
    simp
  unfold State.damage
  extract_lets j rest
  refine ⟨j, new _ j s.ts.damaged rfl, ?_⟩
  simp only [j]
  split
  · exact Nat.min_le_left _ _
  · exact Nat.le_refl _

theorem State.damageOf_of {u : State} (h : u.ts.damaged = s.ts.damaged) (t k p out bank : Nat) : u.damageOf t k p out bank = s.damageOf t k p out bank := by
  rw [State.damageOf, h, State.damageOf]

theorem State.damageOf_setWalk (s : State) (n : Nat) (w : WalkRec) (t k p out bank : Nat) :
    (s.setWalk n w).damageOf t k p out bank = s.damageOf t k p out bank := by
  have damaged : (s.setWalk n w).ts.damaged = s.ts.damaged := rfl
  rw [State.damageOf, damaged, State.damageOf]

theorem State.unsent_moves' (s : State) (t : Nat) (l : List PEnt) : Moves [.ebm] s (s.unsent t l) := State.unsent_moves (.refl _ s) (by decide)

/-- The entries of the list of `e`. -/
def sameList (e x : PEnt) : Bool := x.k == e.k && x.phase == e.phase && outKind x.kind == outKind e.kind

/-- The list of the entry is marked damaged at its place. -/
def State.listDamaged (s : State) (t : Nat) (e : PEnt) (addr : Nat) : State :=
  (s.smError (listUnit (s.treeOf t) e.k e.phase (outKind e.kind) false) addr).damage (s.treeOf t) e.k e.phase (outKind e.kind) s.bank
    ((s.entries (listIx (nodeIx (s.treeOf t) e.k e.phase) (outKind e.kind)) s.bank).findIdx (· == e))

theorem State.listHit_eq {t : Nat} (none_ : (s.walk t).deferred = []) (next : (s.walk t).rest = e :: l) (a : Nat) :
    s.listHit t a = ((s.listDamaged t e a).setWalk t { s.walk t with rest := l.filter (fun x => !sameList e x) }).unsent t
      ((e :: l).filter (sameList e)) := by
  have own : sameList e e = true := by rw [sameList, beq_self_eq_true, beq_self_eq_true, beq_self_eq_true]; rfl
  have parts : (e :: l).partition (sameList e) = ((e :: l).filter (sameList e), l.filter (fun x => !sameList e x)) := by
    rw [List.partition_eq_filter_filter, List.filter_cons (p := not ∘ sameList e), Function.comp_apply, own]
    rfl
  unfold State.listHit
  dsimp only
  generalize s.walk t = w at none_ next
  obtain ⟨deferred, rest, tag, sent, carry, overrun, np⟩ := w
  subst none_ next
  show (match (e :: l).partition (sameList e) with
    | (gone, stay) => ((s.listDamaged t e a).setWalk t ⟨[], stay, tag, sent, carry, overrun, np⟩).unsent t gone) = _
  rw [parts]

theorem walkerList_spec {t : Trunk} (run : s.trunkRuns t = true) (none_ : (s.walk t).deferred = []) (next : (s.walk t).rest = e :: l) (a : Nat) :
      let out := outKind e.kind
      answers (.walkerIssue ⟨t, some (.list a)⟩) s (fun r => (r.walk t).deferred = [] ∧
        (r.walk t).rest = l.filter (fun x => !(x.k == e.k && x.phase == e.phase && outKind x.kind == out)) ∧
        r.flag Reg.GLB_ERR_UNCORRECTABLE = true ∧ ∃ i, r.damageOf (s.treeOf t) e.k e.phase out s.bank = some i ∧
          i ≤ (s.entries (listIx (nodeIx (s.treeOf t) e.k e.phase) out) s.bank).findIdx (· == e)) := by
  have row : s.walkerIssue t (some (.list a)) = s.listHit t a := by
    rw [State.walkerIssue, run, if_neg (by decide)]
  refine answers_eq rfl (row.trans (State.listHit_eq none_ next a)) ?_
  obtain ⟨told, -, -⟩ := s.captureError_spec 7 4 1 noFunction (listUnit (s.treeOf t) e.k e.phase (outKind e.kind) false) a
  obtain ⟨i, marked, le⟩ := (s.smError (listUnit (s.treeOf t) e.k e.phase (outKind e.kind) false) a).damage_marks (s.treeOf t) e.k e.phase (outKind e.kind) s.bank
    ((s.entries (listIx (nodeIx (s.treeOf t) e.k e.phase) (outKind e.kind)) s.bank).findIdx (· == e))
  have flag : (s.listDamaged t e a).flag Reg.GLB_ERR_UNCORRECTABLE = true := by
    rw [State.listDamaged, (State.damage_moves (.refl [.ts] _) (by decide)).flag_eq (by decide), State.smError, told]
  have marked' : (s.listDamaged t e a).damageOf (s.treeOf t) e.k e.phase (outKind e.kind) s.bank = some i := marked
  generalize s.listDamaged t e a = u at flag marked'
  have moves := State.unsent_moves' (u.setWalk t { s.walk t with rest := l.filter (fun x => !sameList e x) }) t ((e :: l).filter (sameList e))
  have walk : ((u.setWalk t { s.walk t with rest := l.filter (fun x => !sameList e x) }).unsent t ((e :: l).filter (sameList e))).walk t =
      { s.walk t with rest := l.filter (fun x => !sameList e x) } := (State.walk_of_ts (moves.ts_eq (by decide))).trans (State.walk_setWalk _ _ _)
  refine ⟨by rw [walk]; exact none_, by rw [walk]; rfl, ?_, i, ?_, le⟩
  · rw [moves.flag_eq (by decide), (State.setWalk_moves' _ _ _).flag_eq (by decide), flag]
  · rw [State.damageOf_of (congrArg SchedSt.damaged (moves.ts_eq (by decide))), ]
    rw [State.damageOf_setWalk, marked']

/-! ## A walk leaves out what is damaged (R435) -/

theorem State.ghostEnt_rest (s : State) (t m : Nat) (e : PEnt) : ((s.ghostEnt t m e).walk t).rest = (s.walk t).rest := by
  unfold State.ghostEnt
  split
  · extract_lets w u
    rw [State.walk_setWalk]
  · rfl

theorem State.ghosts_rest (t m : Nat) : ∀ (l : List PEnt) (s : State), ((l.foldl (fun s e => s.ghostEnt t m e) s).walk t).rest = (s.walk t).rest
  | [], _ => rfl
  | e :: l, s => (State.ghosts_rest t m l (s.ghostEnt t m e)).trans (s.ghostEnt_rest t m e)

/-- The number of the last walk's transactions is shown. -/
def State.lastCount (s : State) (t : Nat) : State := s.setF (Reg.TS_TRUNK_STATUS_LAST_COUNT t) (s.walk t).sent

theorem State.lastCount_sound (s : State) (t : Trunk) (e : PEnt) : (s.lastCount t).sound ((s.lastCount t).treeOf t) e = s.sound (s.treeOf t) e := by
  have ts : (s.lastCount t).ts = s.ts := State.setF_ts _ _ _
  have far (x : Fld) (h : x.addr ≠ Reg.TS_TRUNK_STATUS t) : (s.lastCount t).f x = s.f x := State.f_setF_other _ _ h
  have bank : (s.lastCount t).bank = s.bank := far _ (by show 0x700004 ≠ 0x701000 + t.val * 0x40 + 0x4; omega)
  have tree : (s.lastCount t).treeOf t = s.treeOf t := by
    rw [State.treeOf, State.flag, far _ (by show 0x701000 + t.val * 0x40 + 0x0 ≠ 0x701000 + t.val * 0x40 + 0x4; omega),
      far _ (by show 0x701000 + t.val * 0x40 + 0x0 ≠ 0x701000 + t.val * 0x40 + 0x4; omega), State.treeOf, State.flag]
  have entries (k b : Nat) : (s.lastCount t).entries k b = s.entries k b := by rw [State.entries, ts, State.entries]
  unfold State.sound
  rw [tree, bank, State.damageOf_of (congrArg SchedSt.damaged ts)]
  simp only [entries]

/-- A walk begins without the entries that are damaged. -/
theorem State.beginWalk_rest (s : State) (t m : Nat) :
    ((s.beginWalk t m).walk t).rest = (if (s.lastCount t).walks t m then (s.lastCount t).walkDue t m else []).filter
      ((s.lastCount t).sound ((s.lastCount t).treeOf t)) := by
  unfold State.beginWalk
  extract_lets w a all due b kept n keep lost c src d
  have rest : (d.walk t).rest = due := by rw [State.walk_setWalk]
  split
  · exact (State.ghosts_rest _ _ _ _).trans rest
  · exact rest

theorem beginWalk_sound (s : State) (t : Trunk) (m : Nat) : ∀ e ∈ ((s.beginWalk t m).walk t).rest, s.sound (s.treeOf t) e = true := by
  intro e he
  rw [State.beginWalk_rest] at he
  rw [← s.lastCount_sound t e]
  exact (List.mem_filter.mp he).2

/-! ## Errors of endpoint buffer memory on the way (R176, R178, R436) -/

theorem State.linkParity_counts (s : State) (t : Nat) :
    s.regsBut [Reg.LNK_PARITY t] (s.bump (Reg.LNK_PARITY_TX t)) ∧ State.only [.regs] s (s.bump (Reg.LNK_PARITY_TX t)) ∧
      (s.bump (Reg.LNK_PARITY_TX t)).f (Reg.LNK_PARITY_TX t) = min (s.f (Reg.LNK_PARITY_TX t) + 1) 65535 :=
  ⟨(State.regsBut.refl _ s).bump (x := Reg.LNK_PARITY_TX t) 1 (.head _), (State.bump_moves (l_ := [.regs]) (.refl _ s) (by decide)).only,
    State.f_bump_same s 1 rfl⟩

end

end Sys2Proof.Machine

namespace Sys2Proof.Machine

/-! # The non-periodic fill (R44, R58, R69, R90, R154, R155, R298) -/

section
variable {s : State} {t : Trunk}

/-! ## The start of an attempt (R44, R58) -/

/-- Key and window of the attempt that starts next on trunk `t`. -/
def State.nextKey (s : State) (t : Nat) : Nat := npKey t s.mfN (s.choose (s.freeTags t) 0)

theorem State.sendNp_opens (s : State) (t : Trunk) (o : NpOut) : (s.sendNp t o).ts = s.ts ∧
    (s.sendNp t o).npTx (s.nextKey t) =
      some ⟨o.x, o.kind, o.inner, o.h, o.seq, o.exp, o.len, s.now, s.now + ((if o.kind = Pk.ping then 2500 else s.rttOf o.h) + 50), s.mfN⟩ := by
  have own (u : State) : u.relays t = false := decide_eq_false (by omega)
  have opened : (s.fresh.setNpTx (s.nextKey t)
      (some ⟨o.x, o.kind, o.inner, o.h, o.seq, o.exp, o.len, s.now, s.now + ((if o.kind = Pk.ping then 2500 else s.rttOf o.h) + 50), s.mfN⟩)).npTx (s.nextKey t) =
      some ⟨o.x, o.kind, o.inner, o.h, o.seq, o.exp, o.len, s.now, s.now + ((if o.kind = Pk.ping then 2500 else s.rttOf o.h) + 50), s.mfN⟩ :=
    State.npTx_setNpTx _ _ _
  have ts : (s.fresh.setNpTx (s.nextKey t)
      (some ⟨o.x, o.kind, o.inner, o.h, o.seq, o.exp, o.len, s.now, s.now + ((if o.kind = Pk.ping then 2500 else s.rttOf o.h) + 50), s.mfN⟩)).ts = s.ts := rfl
  unfold State.sendNp
  extract_lets tag a win b fl c d
  have hb : b = s.fresh.setNpTx (s.nextKey t)
      (some ⟨o.x, o.kind, o.inner, o.h, o.seq, o.exp, o.len, s.now, s.now + ((if o.kind = Pk.ping then 2500 else s.rttOf o.h) + 50), s.mfN⟩) := by
    have window : win = (if o.kind = Pk.ping then 2500 else s.rttOf o.h) + 50 := by
      simp only [win, own a, Bool.false_eq_true, if_false, Nat.add_zero]
      rfl
    simp only [b, window]
    rfl
  rw [← hb] at opened ts
  clear_value b
  have moves : Moves [.regs, .out] b (if d.relays t then d else d.bump (Reg.TS_NP_BYTES_COUNT t) o.bytes) := by
    have hc : Moves [.regs, .out] b c := State.putNp_moves (.refl _ b) (by decide)
    have hd : Moves [.regs, .out] b d := by
      simp only [d]
      split
      · exact State.putNp_moves hc (by decide)
      · exact hc
    exact .ite (fun _ => hd) (fun _ => State.bump_moves hd (by decide))
  refine ⟨(moves.ts_eq (by decide)).trans ts, ?_⟩
  rw [State.npTx, moves.bus_eq (by decide)]
  exact opened

/-! ## What the fill of a trunk takes (R154) -/

theorem State.askClear_none (none_ : s.bus.resync = []) : s.askClear t = s := by
  have each : ∀ l : List (Nat × Option Xfer), l.foldl (fun s e => match e.2 with
      | some r =>
        if isBulk r.kind && s.bus.resync.contains r.handle && !r.clearStall && !s.behind e.1 r && s.xferTrunk r == t then
          (s.setXfer e.1 (some { r with clearStall := true })).pushTm (s.rootOf (r.handle / 16)) false
            [.clearStall (r.handle / 16) r.handle]
        else s
      | none => s) s = s := by
    intro l
    induction l with
    | nil => rfl
    | cons e l ih =>
      rw [List.foldl_cons]
      split
      next r _ => rw [none_, List.contains_nil, Bool.and_false, Bool.false_and, Bool.false_and, Bool.false_and, if_neg (by decide), ih]
      next => exact ih
  exact each s.bus.xfers

section
variable (own : s.isPartner = false) (open_ : s.npOpen t = true) (quiet : s.bus.resync = [])
include own open_ quiet

theorem State.npStart_open (work : s.waiting t ≠ [] ∨ (s.pingDue t).isSome = true) : s.npStart t =
    if (s.trunk t).slotOn then s.holdStarts t ((s.waiting t).filter (fun e => s.served e.2.1))
    else match s.pingDue t with
      | some dev => s.sendPing t dev
      | none => match s.pickNp t ((s.waiting t).filter (fun e => s.served e.2.1)) with
        | some e => s.startNp t e
        | none => s := by
  have some_ : (!(s.waiting t).isEmpty || (s.pingDue t).isSome) = true := by
    rcases work with waits | ping
    · rw [List.isEmpty_eq_false_iff.mpr waits]
      rfl
    · rw [ping, Bool.or_true]
  have start : s.npStart t = s.npStartOn t := by
    rw [State.npStart, own, open_, some_]
    rfl
  rw [start, State.npStartOn, open_, State.askClear_none quiet]
  rfl

theorem npHeld_spec (waits : s.waiting t ≠ []) (slot : (s.trunk t).slotOn = true) :
    answers (.npTransactionStart ⟨t, none⟩) s (fun r => r.out = s.out ∧ r.bus = s.bus) := by
  have moves : Moves [.regs, .ts] s (s.holdStarts t ((s.waiting t).filter (fun e => s.served e.2.1))) := State.holdStarts_moves (.refl _ s) (by decide)
  exact answers_eq rfl ((State.npStart_open own open_ quiet (.inl waits)).trans (if_pos slot)) ⟨moves.out_eq (by decide), moves.bus_eq (by decide)⟩

theorem npPing_spec {dev : Nat} (free : (s.trunk t).slotOn = false) (due : s.pingDue t = some dev) :
    answers (.npTransactionStart ⟨t, none⟩) s (fun r => r.npTx (npKey t s.mfN (s.choose (s.freeTags t) 0)) =
        some ⟨0, Pk.ping, 0, dev * 16 + 8, 0, 0, 192, s.now, s.now + 2550, s.mfN⟩) := by
  have start : s.npStart t = s.sendPing t dev := by
    rw [State.npStart_open own open_ quiet (.inr (by rw [due]; rfl)), free, due]
    rfl
  exact answers_eq rfl start (s.sendNp_opens t _).2

theorem npAttempt_spec {e : Nat × Xfer × List NpOut} {o : NpOut} {l : List NpOut} (waits : s.waiting t ≠ []) (free : (s.trunk t).slotOn = false)
    (none_ : s.pingDue t = none) (pick : s.pickNp t ((s.waiting t).filter (fun x => s.served x.2.1)) = some e) (next : e.2.2 = o :: l) :
    answers (.npTransactionStart ⟨t, none⟩) s (fun r =>
        s.choose (s.freeTags t) 0 ∈ s.freeTags t ∧
        r.npTx (npKey t s.mfN (s.choose (s.freeTags t) 0)) =
          some ⟨o.x, o.kind, o.inner, o.h, o.seq, o.exp, o.len, s.now, s.now + ((if o.kind = Pk.ping then 2500 else s.rttOf o.h) + 50), s.mfN⟩ ∧
        (xferClass e.2.1 ≠ 0 → r.credit t e.2.1.fn = s.credit t e.2.1.fn - (o.bytes : Nat))) := by
  have start : s.npStart t = s.startNp t e := by
    rw [State.npStart_open own open_ quiet (.inl waits), free, none_]
    dsimp only
    rw [pick]
    rfl
  have tags : s.freeTags t ≠ [] := by
    intro none_
    have spare : decide (1 ≤ s.spareTags t) = true := by
      rw [State.npOpen, Bool.and_eq_true] at open_
      exact open_.2
    rw [State.spareTags, none_, List.length_nil, Nat.zero_sub] at spare
    exact absurd spare (by decide)
  have chosen : s.choose (s.freeTags t) 0 ∈ s.freeTags t := by
    have lt : Config.freeChoice s.free % (s.freeTags t).length < (s.freeTags t).length := Nat.mod_lt _ (List.length_pos_iff.mpr tags)
    rw [State.choose, List.getD_eq_getElem _ _ lt]
    exact List.getElem_mem lt
  refine answers_eq rfl start ⟨chosen, ?_⟩
  have moves : Moves [.bus] s (s.updXfer e.1 (fun r => { r with trunk := t })) := State.updXfer_moves (.refl _ s) (by decide)
  have np : (s.updXfer e.1 (fun r => { r with trunk := t })).bus.np = s.bus.np ∧
      (s.updXfer e.1 (fun r => { r with trunk := t })).bus.quarantine = s.bus.quarantine ∧
      (s.updXfer e.1 (fun r => { r with trunk := t })).free = s.free := by
    unfold State.updXfer
    split
    · exact ⟨rfl, rfl, rfl⟩
    · exact ⟨rfl, rfl, rfl⟩
  have eq : s.startNp t e =
      let u := (s.updXfer e.1 (fun r => { r with trunk := t })).sendNp t o
      if xferClass e.2.1 = 0 then u
      else
        let u := u.setCredit t e.2.1.fn (u.credit t e.2.1.fn - (o.bytes : Nat))
        { u with ts := { u.ts with lastFn := Tbl.set (fun _ => 2048) u.ts.lastFn t e.2.1.fn } } := by
    rw [State.startNp, next]
  rw [eq]
  clear eq start
  generalize s.updXfer e.1 (fun r => { r with trunk := t }) = u at moves np
  obtain ⟨np, quarantine, free_⟩ := np
  have mf : u.mfN = s.mfN := by rw [State.mfN, moves.time_eq (by decide), State.mfN]
  have now : u.now = s.now := by rw [State.now, moves.time_eq (by decide), State.now]
  have key : u.nextKey t = npKey t s.mfN (s.choose (s.freeTags t) 0) := by
    have tag (n : Nat) : u.tagFree t n = s.tagFree t n := by
      rw [State.tagFree, State.npTx, State.npTx, np, quarantine, now, State.tagFree, State.npTx, State.npTx]
    have tags : u.freeTags t = s.freeTags t := List.filter_congr fun n _ => tag n
    rw [State.nextKey, tags, mf, State.choose, free_, State.choose]
  have rtt : u.rttOf o.h = s.rttOf o.h := by rw [State.rttOf, State.cf, State.ctx, State.ebmRead, moves.ebm_eq (by decide), State.rttOf, State.cf, State.ctx, State.ebmRead]
  obtain ⟨ts, opened⟩ := u.sendNp_opens t o
  have ts' : (u.sendNp t o).ts = s.ts := ts.trans (moves.ts_eq (by decide))
  rw [key, rtt, now, mf] at opened
  have credit : (u.sendNp t o).credit t e.2.1.fn = s.credit t e.2.1.fn := by rw [State.credit, ts', State.credit]
  generalize u.sendNp t o = v at opened credit
  dsimp only
  split
  next zero => exact ⟨opened, fun ne => absurd zero ne⟩
  next => exact ⟨opened, fun _ => by rw [← credit]; exact Tbl.get_set_same _ _ _⟩

end

/-! ## What a PARTNER sends for its HOLDER (R298) -/

theorem npRelay_spec {x : Nat} {b : List Byte} (partner : s.isPartner = true) (run : s.trunkRuns t = true) (loud : s.mute = false) (walked : s.walkOver t = true)
    (early : s.time.phase < Config.fillTick) (awake : s.inSatin = false) (next : s.pu.relay.find? (fun x => x.1 == t.val) = some (x, b)) :
    answers (.npTransactionStart ⟨t, none⟩) s (fun r =>
        if (s.trunk t).slotOn = true ∧ field b 0 1 ≠ Pk.data then r.out = s.out ∧ r.pu = s.pu else r.out = .raw t b :: s.out) := by
  have start : s.npStart t = s.relayOut t := if_pos partner
  by_cases held : (s.trunk t).slotOn = true ∧ field b 0 1 ≠ Pk.data
  · have eq : s.relayOut t = s.holdRelay t := by
      have cond : ((s.trunk t).slotOn && (field b 0 1 != Pk.data)) = true := by rw [held.1, bne_iff_ne.mpr held.2]; rfl
      rw [State.relayOut, next]
      exact if_pos cond
    have moves : Moves [.regs, .ts] s (s.holdRelay t) := State.holdRelay_moves (.refl _ s) (by decide)
    refine answers_eq rfl (start.trans eq) ?_
    rw [if_pos held]
    exact ⟨moves.out_eq (by decide), moves.pu_eq (by decide)⟩
  · have cond : ((s.trunk t).slotOn && (field b 0 1 != Pk.data)) = false := by
      rw [Bool.eq_false_iff]
      intro both
      obtain ⟨slot, other⟩ := Bool.and_eq_true_iff.mp both
      exact held ⟨slot, bne_iff_ne.mp other⟩
    have eq : s.relayOut t = ((s.updPu (fun p => { p with relay := removeFirst (fun x => x.1 == t) p.relay })).emit (.raw t b)).bump
        (Reg.TS_NP_BYTES_COUNT t) b.length := by
      rw [State.relayOut, next]
      dsimp only
      rw [cond, run, loud, walked, awake, decide_eq_true early]
      rfl
    refine answers_eq rfl (start.trans eq) ?_
    rw [if_neg held]
    exact State.setF_out _ _ _

end

/-- Settles O14: the entry whose turn it is is taken from its list before it is sent, deferred, dropped or found missing; the fill starts what stands
first, behind the work that a resynchronisation asks for. -/
theorem walkersAndFillSendInTurn : Obligations.WalkersAndFillSendInTurn := by
  unfold Obligations.WalkersAndFillSendInTurn
  intro s t
  refine ⟨fun e l run none_ next early may loud up => ⟨fun kind limit => walkerIn_spec run none_ next early may loud up kind limit,
      fun b kind block => walkerOut_spec run none_ next early may loud up kind block⟩,
    fun e l run none_ next late due => walkerDefers_spec run none_ next late due,
    fun e l run some_ late => walkerDrops_spec run some_ late,
    fun e l run none_ next may kind missing => walkerMisses_spec run none_ next may kind missing,
    fun own open_ waits quiet slot => npHeld_spec own open_ quiet waits slot,
    fun dev own open_ quiet free due => npPing_spec own open_ quiet free due,
    fun e o l own open_ waits quiet free none_ pick next => npAttempt_spec own open_ quiet waits free none_ pick next,
    fun x b partner run loud walked early awake next => npRelay_spec partner run loud walked early awake next,
    fun e l a run none_ next => walkerList_spec run none_ next a, fun m => beginWalk_sound s t m, fun x run => ?_, fun a => ⟨fun run => ?_, fun open_ waits => ?_⟩⟩
  · have row : s.walkerIssue t (some (.ebm x)) = (s.ebmHit x 1).walkNext t := by rw [State.walkerIssue, run, if_neg (by decide)]
    exact answers_eq rfl row rfl
  · have row : s.walkerIssue t (some (.parity a)) = (s.linkParity t a).walkNext t := by rw [State.walkerIssue, run, if_neg (by decide)]
    exact answers_eq rfl row ⟨_, s.linkParity_counts t, rfl⟩
  · have row : s.npParity t a = s.linkParity t a := if_pos (by rw [open_, List.isEmpty_eq_false_iff.mpr waits]; rfl)
    exact answers_eq rfl row ⟨_, s.linkParity_counts t, rfl⟩

end Sys2Proof.Machine

namespace Sys2Proof.Machine

/-! # The schedule and the graph image switch (R149, R150, R217, R222, R435) -/

section
variable {s : State}

/-! ## The switch of the schedule's bank (R149) -/

theorem State.switchBank_spec (s : State) : s.switchBank.ts.active = s.ts.staged ∧ s.switchBank.ts.sealed_ = [] ∧
    s.switchBank.f Reg.TS_STATUS_BANK = 1 - s.f Reg.TS_STATUS_BANK := by
  have bank : (s.marksFollow.setF Reg.TS_STATUS_BANK (1 - s.marksFollow.bank)).f Reg.TS_STATUS_BANK = 1 - s.f Reg.TS_STATUS_BANK := by
    have same : s.marksFollow.bank = s.f Reg.TS_STATUS_BANK := rfl
    rw [State.f_setF_same _ _ rfl, same]
    exact Nat.mod_eq_of_lt (by show 1 - _ < 2; omega)
  have ts : (s.marksFollow.setF Reg.TS_STATUS_BANK (1 - s.marksFollow.bank)).ts = s.marksFollow.ts := State.setF_ts _ _ _
  have staged : s.marksFollow.ts.staged = s.ts.staged := rfl
  unfold State.switchBank
  extract_lets a b now gone src c d
  change b.f Reg.TS_STATUS_BANK = _ at bank
  change b.ts = _ at ts
  clear_value b
  have kept (v : State) (moves : Moves [.ebm] c v) : v.ts.active = s.ts.staged ∧ v.ts.sealed_ = [] ∧
      v.f Reg.TS_STATUS_BANK = 1 - s.f Reg.TS_STATUS_BANK := by
    rw [moves.ts_eq (by decide), moves.f_eq (by decide)]
    exact ⟨(congrArg SchedSt.staged ts).trans staged, rfl, bank⟩
  have hd : Moves [.ebm] c d := by
    refine .foldl (.refl _ c) fun u k h => ?_
    have hu : Moves [.ebm] c (if (u.slotNow k).2 = 0 then u
        else { u with ebm := { u.ebm with superseded := (k, (u.slotNow k).1, (u.slotNow k).2) :: u.ebm.superseded } }) :=
      .ite (fun _ => h) (fun _ => h.ebm (by decide) _ id)
    exact .ite (fun _ => hu) (fun _ => State.setCf_moves hu (by decide))
  refine kept _ (.foldl hd fun u x h => ?_)
  split
  · exact h
  · exact .ite (fun _ => h) (fun _ => State.setCf_moves (State.setCf_moves h (by decide)) (by decide))

theorem bankSwitch_spec {c : Commit} (hc : s.ts.commit = some c) (fresh : c.switched = false) (due : s.mfN + 1 = c.m) :
    answers .scheduleBankSwitch s (fun t =>
      t.ts.commit = some { c with switched := true } ∧ t.ts.lastM = c.m ∧ t.ts.active = s.ts.staged ∧ t.ts.sealed_ = [] ∧
      t.f Reg.TS_STATUS_BANK = 1 - s.f Reg.TS_STATUS_BANK) := by
  have moves : Moves [.time, .tree, .pu, .out] s (if (s.advanceTo Config.fillTick).groupsSealed then
      State.bindNow { s.advanceTo Config.fillTick with
        tree := { (s.advanceTo Config.fillTick).tree with binding := (s.advanceTo Config.fillTick).newBindings, bindM := c.m } }
      else s.advanceTo Config.fillTick) :=
    .ite (fun _ => State.bindNow_moves ((State.advanceTo_moves (.refl _ s) (by decide)).tree (by decide) _) (by decide))
      (fun _ => State.advanceTo_moves (.refl _ s) (by decide))
  have eq : s.bankSwitch = if c.switched = true ∨ s.mfN + 1 ≠ c.m then s else
      let v := (if (s.advanceTo Config.fillTick).groupsSealed then
        State.bindNow { s.advanceTo Config.fillTick with
          tree := { (s.advanceTo Config.fillTick).tree with binding := (s.advanceTo Config.fillTick).newBindings, bindM := c.m } }
        else s.advanceTo Config.fillTick).switchBank
      State.showPool { v with ts := { v.ts with commit := some { c with switched := true }, lastM := c.m } } := by
    rw [State.bankSwitch, hc]
  refine answers_eq rfl (eq.trans (if_neg (by rw [fresh]; exact fun h => h.elim (by decide) (fun ne => ne due)))) ?_
  generalize (if (s.advanceTo Config.fillTick).groupsSealed then
      State.bindNow { s.advanceTo Config.fillTick with
        tree := { (s.advanceTo Config.fillTick).tree with binding := (s.advanceTo Config.fillTick).newBindings, bindM := c.m } }
      else s.advanceTo Config.fillTick) = u at moves
  obtain ⟨active, sealed_, bank⟩ := u.switchBank_spec
  generalize u.switchBank = v at active sealed_ bank
  dsimp only
  have shown (w : State) : (w.showPool).ts = w.ts ∧ w.showPool.f Reg.TS_STATUS_BANK = w.f Reg.TS_STATUS_BANK := by
    refine ⟨(State.showPool_moves (.refl [.regs] w) (by decide)).ts_eq (by decide), ?_⟩
    rw [State.showPool, State.f_setF_apart _ _ (by decide), State.f_setF_apart _ _ (by decide)]
  obtain ⟨ts, shown⟩ := shown { v with ts := { v.ts with commit := some { c with switched := true }, lastM := c.m } }
  rw [ts, shown]
  refine ⟨rfl, rfl, active.trans ?_, sealed_, bank.trans ?_⟩
  · rw [moves.ts_eq (by decide)]
  · rw [moves.f_eq (by decide)]

/-! ## The end of the rebase (R149, R150, R435) -/

theorem State.rebase_spec (s : State) : (∀ x ∈ s.rebase.ts.damaged, x.2.2.2.1 / 2 ≠ s.shadow) ∧ s.rebase.ts.staged = s.ts.active ∧ s.rebase.ts.copied = [] := by
  have parted : s.discardDamaged.ts.damaged = s.ts.damaged.filter (not ∘ fun x => x.2.2.2.1 / 2 == s.shadow) := by
    unfold State.discardDamaged
    rw [List.partition_eq_filter_filter]
  have active : s.discardDamaged.ts.active = s.ts.active := by
    unfold State.discardDamaged
    split
    rfl
  unfold State.rebase
  extract_lets a b src c
  have kept : (b.ts.damaged, b.ts.active) = (a.ts.damaged, a.ts.active) :=
    State.foldl_eq (p := fun u : State => (u.ts.damaged, u.ts.active))
      (f := fun (s : State) l => s.setEntries l s.shadow (s.entries l s.bank)) (fun _ _ => rfl) a.ts.copied
  obtain ⟨damaged, active'⟩ := Prod.mk.inj kept
  have moves : Moves [.regs, .ebm] c c.freeSlots.showPool := State.showPool_moves (State.freeSlots_moves (.refl _ c) (by decide)) (by decide)
  rw [moves.ts_eq (by decide)]
  refine ⟨fun x hx => ?_, active'.trans active, rfl⟩
  have hx' : x ∈ s.ts.damaged.filter (not ∘ fun x => x.2.2.2.1 / 2 == s.shadow) := by
    rw [← parted]
    exact damaged ▸ hx
  have other := (List.mem_filter.mp hx').2
  intro same
  simp only [Function.comp_apply, same, beq_self_eq_true, Bool.not_true, Bool.false_eq_true] at other

/-- The commit has ended with its rebase. -/
def State.rebased (s : State) : State := State.showCommit { s.rebase with ts := { s.rebase.ts with commit := none } }

theorem State.rebased_spec (s : State) : s.rebased.ts = { s.rebase.ts with commit := none } ∧ s.rebased.flag Reg.TS_STATUS_COMMIT_PENDING = false ∧
    s.rebased.flag Reg.TS_STATUS_REBASING = false := by
  have eq : s.rebased = (State.setB { s.rebase with ts := { s.rebase.ts with commit := none } } Reg.TS_STATUS_COMMIT_PENDING false).setB
      Reg.TS_STATUS_REBASING false := rfl
  rw [eq]
  refine ⟨?_, ?_, State.flag_setB_same _ _ rfl rfl⟩
  · exact (State.setF_ts _ _ _).trans (State.setF_ts _ _ _)
  · rw [State.flag_setB_apart _ _ (by decide), State.flag_setB_same _ _ rfl rfl]

theorem rebaseEnd_spec {c : Commit} (hc : s.ts.commit = some c) (done : c.switched = true) (due : c.m ≤ s.mfN) :
    answers .rebaseEnd s (fun t => ∃ u : State,
      u.ts.commit = none ∧ u.flag Reg.TS_STATUS_COMMIT_PENDING = false ∧ u.flag Reg.TS_STATUS_REBASING = false ∧
      (∀ x ∈ u.ts.damaged, x.2.2.2.1 / 2 ≠ s.shadow) ∧ u.ts.staged = s.ts.active ∧ u.ts.copied = [] ∧
      t = ((u.inCqeOrder id c.waiting).foldl (fun (x : State) (r : EntryRef) => x.completeRefM r St.ok 0 (BitVec.ofNat 32 c.m) (BitVec.ofNat 32 (c.m / 2 ^ 32)))
        u).serveWaits.applyHeld.step12Resume) := by
  have eq : s.rebaseEnd = if c.switched = true ∧ c.m ≤ s.mfN then
      ((s.rebased.inCqeOrder id c.waiting).foldl (fun (x : State) (r : EntryRef) => x.completeRefM r St.ok 0 (BitVec.ofNat 32 c.m) (BitVec.ofNat 32 (c.m / 2 ^ 32)))
        s.rebased).serveWaits.applyHeld.step12Resume else s := by
    rw [State.rebaseEnd, hc]
    rfl
  obtain ⟨ts, pending, rebasing⟩ := s.rebased_spec
  obtain ⟨damaged, staged, copied⟩ := s.rebase_spec
  refine answers_eq rfl (eq.trans (if_pos ⟨done, due⟩)) ⟨s.rebased, ?_, pending, rebasing, ?_, ?_, ?_, rfl⟩
  · rw [ts]
  · rw [ts]
    exact damaged
  · rw [ts]
    exact staged
  · rw [ts]
    exact copied

end

end Sys2Proof.Machine

namespace Sys2Proof.Machine

/-! # A new image takes over (R217, R219, R222) -/

section
variable {s : State}

/-! ## What no display of the graph changes -/

/-- The image in force, its faulted nodes, and the operations that wait. -/
def State.graphNow (s : State) : Option ImageFile × List Nat × List OpRec × List (Nat × Nat) := (s.mre.image, s.mre.faulted, s.gd.queue, s.gd.spills)

theorem State.graphNow_of {l : List Part} {t : State} (h : Moves l s t) (mre : l.contains .mre = false) (gd : l.contains .gd = false) :
    t.graphNow = s.graphNow := by rw [State.graphNow, h.mre_eq mre, h.gd_eq gd, State.graphNow]

theorem State.graphNow_regs {t : State} (h : Moves [.regs] s t) : t.graphNow = s.graphNow := State.graphNow_of h (by decide) (by decide)

theorem State.graphNow_obsUpd (s : State) (g : ObsWin → ObsWin) : (s.obsUpd g).graphNow = s.graphNow := rfl

theorem State.graphNow_showRelease (s : State) : s.showRelease.graphNow = s.graphNow := by
  unfold State.showRelease
  extract_lets n a
  rw [State.graphNow_obsUpd]
  exact State.graphNow_regs (State.setB_moves (State.high_moves (State.setF_moves (.refl _ s) (by decide)) (by decide)) (by decide))

theorem State.graphNow_showQ (s : State) (q : Nat) : (s.showQ q).graphNow = s.graphNow := by
  unfold State.showQ
  extract_lets d a b c
  exact (State.graphNow_obsUpd c _).trans
    (State.graphNow_regs (State.setF_moves (State.setF_moves (State.setF_moves (.refl _ s) (by decide)) (by decide)) (by decide)))

theorem State.graphNow_showTimers (s : State) : s.showTimers.graphNow = s.graphNow :=
  (State.graphNow_obsUpd _ _).trans (State.graphNow_regs (State.setF_moves (.refl _ s) (by decide)))

theorem State.graphNow_dropTimers (s : State) (gone : TimerRec → Bool) : (s.dropTimers gone).graphNow = s.graphNow :=
  State.graphNow_showTimers _

theorem State.graphNow_keepGen (s : State) (old new : List (Nat × GenMode)) (g : Nat) : (s.keepGen old new g).graphNow = s.graphNow := by
  unfold State.keepGen
  split <;> rfl

theorem State.graphNow_svRebind (s : State) (l : Nat) (cont : Bool) : (s.svRebind l cont).graphNow = s.graphNow := by
  have line (u : State) (r : LineRec) : (u.setLine l r).graphNow = u.graphNow := rfl
  have broken (u : State) : (u.breakSlot l).graphNow = u.graphNow := rfl
  have dropped (u : State) : (u.dropPilotTimers l).graphNow = u.graphNow := u.graphNow_dropTimers _
  unfold State.svRebind
  split
  · extract_lets r src a
    split
    · rfl
    · refine (State.graphNow_of (l := [.regs, .qe, .fn, .sv, .out]) (State.svEvent_moves (.refl _ a) (by decide)) (by decide) (by decide)).trans ?_
      exact (broken _).trans ((dropped _).trans (line _ _))
  · split
    · exact line _ _
    · exact (line _ _).trans ((broken _).trans (dropped _))

/-- A FULL image is in force, with nothing faulted and nothing waiting (R217). -/
theorem State.takeImage_graph (s : State) (m : Nat) (img : ImageFile) : (s.takeImage m img).graphNow = (some img, [], [], []) := by
  unfold State.takeImage
  extract_lets a old oldGens cont contOf gpes busy nodeTbl lastTbl contLines oldLines mre gd b c d e g h i j
  have hb : b.graphNow = (some img, [], [], []) := rfl
  have hc : c.graphNow = b.graphNow := State.foldl_eq (p := State.graphNow) (fun u q => u.graphNow_keepGen oldGens img.gens q) _
  clear_value b c
  have hg : g.graphNow = c.graphNow := by
    have moves : Moves [.regs] c g := State.setF_moves (State.setF_moves (State.setReg_moves (State.setReg_moves (State.setB_moves (State.setF_moves
      (.refl _ c) (by decide)) (by decide)) (by decide)) (by decide)) (by decide)) (by decide)
    exact State.graphNow_regs moves
  have hh : h.graphNow = g.graphNow := (State.graphNow_showRelease _).trans (State.graphNow_regs (State.setF_moves (.refl _ g) (by decide)))
  have hi : i.graphNow = h.graphNow := State.foldl_eq (p := State.graphNow) (fun u l => u.graphNow_svRebind l _) _
  have hj : j.graphNow = i.graphNow := State.graphNow_regs (State.showLines_moves (.refl _ i) (by decide))
  have last : ((List.range 8).foldl (fun s q => s.showQ q) j).graphNow = j.graphNow := State.foldl_eq (p := State.graphNow) (fun u q => u.graphNow_showQ q) _
  rw [last, hj, hi, hh, hg, hc, hb]

/-! ## The takeover (R22, R217) -/

/-- What a swap leaves when its image has taken over. -/
def State.swapTaken (s : State) (w : Swap) (was : List (Nat × Node)) : State :=
  { s with mre := { s.mre with swap := some { w with taken := true }, lastM := w.m, patched := if w.full.isSome then [] else s.mre.patched ++ [(w.m, was)] } }

theorem State.swapTaken_spec (s : State) (w : Swap) (was : List (Nat × Node)) : (s.swapTaken w was).mre.swap = some { w with taken := true } ∧
    (s.swapTaken w was).mre.lastM = w.m ∧ (s.swapTaken w was).graphNow = s.graphNow ∧ (s.swapTaken w was).gd = s.gd ∧
    (s.swapTaken w was).mre.patched = if w.full.isSome then [] else s.mre.patched ++ [(w.m, was)] := ⟨rfl, rfl, rfl, rfl, rfl⟩

/-- The sealed patches apply. -/
def State.applyPatches (s : State) (l : List ImageFile) : State :=
  l.foldl (fun (s : State) p => { s with mre := { s.mre with
    image := s.mre.image.map (fun i => if i.header.graphId = p.header.baseId then applyPatch i p else i) } }) s

/-- The sealed FULL image takes over, if there is one. -/
def State.takeFull (s : State) (w : Swap) : State := match w.full with
  | some img => s.takeImage w.m img
  | none => s

theorem State.applyPatches_nil (s : State) : s.applyPatches [] = s := rfl

theorem State.takeFull_some {w : Swap} {img : ImageFile} (h : w.full = some img) : s.takeFull w = s.takeImage w.m img := by rw [State.takeFull, h]

theorem State.takeFull_none {w : Swap} (h : w.full = none) : s.takeFull w = s := by rw [State.takeFull, h]

/-- One sealed patch for the image in force applies. -/
theorem State.applyPatches_one {i p : ImageFile} (image : s.mre.image = some i) (same : i.header.graphId = p.header.baseId) :
    (s.applyPatches [p]).mre.image = some (applyPatch i p) ∧ (s.applyPatches [p]).mre.patched = s.mre.patched ∧ (s.applyPatches [p]).gd = s.gd := by
  refine ⟨?_, rfl, rfl⟩
  show s.mre.image.map _ = _
  rw [image, Option.map_some, if_pos same]

theorem State.swapTakeover_due {w : Swap} (hw : s.mre.swap = some w) (fresh : w.taken = false) (due : s.mfN + 1 = w.m) :
    s.swapTakeover = (((s.advanceTo Config.fillTick).takeFull w).applyPatches w.patches).swapTaken w ((s.advanceTo Config.fillTick).takeFull w).nodes := by
  have eq : s.swapTakeover = if w.taken = true ∨ s.mfN + 1 ≠ w.m then s else
      (((s.advanceTo Config.fillTick).takeFull w).applyPatches w.patches).swapTaken w ((s.advanceTo Config.fillTick).takeFull w).nodes := by
    rw [State.swapTakeover, hw]
    rfl
  exact eq.trans (if_neg (by rw [fresh]; exact fun h => h.elim (by decide) (fun ne => ne due)))

theorem swapTakeover_spec {w : Swap} (hw : s.mre.swap = some w) (fresh : w.taken = false) (due : s.mfN + 1 = w.m) :
    answers .graphSwapTakeover s (fun t =>
      t.mre.swap = some { w with taken := true } ∧ t.mre.lastM = w.m ∧
      (∀ img, w.full = some img → w.patches = [] → t.mre.image = some img ∧ t.mre.faulted = [] ∧ t.gd.queue = [] ∧ t.gd.spills = []) ∧
      (∀ i p, w.full = none → w.patches = [p] → s.mre.image = some i → i.header.graphId = p.header.baseId →
        t.mre.image = some (applyPatch i p) ∧ t.mre.patched = s.mre.patched ++ [(w.m, s.nodes)] ∧ t.gd = s.gd)) := by
  have moves := State.advanceTo_keeps (s := s) Config.fillTick
  have mre := moves.mre_eq (by decide)
  have gd := moves.gd_eq (by decide)
  refine answers_eq rfl (State.swapTakeover_due hw fresh due) ?_
  generalize s.advanceTo Config.fillTick = a at mre gd
  obtain ⟨swap, lastM, graph, queues, patched⟩ := ((a.takeFull w).applyPatches w.patches).swapTaken_spec w (a.takeFull w).nodes
  refine ⟨swap, lastM, fun img full none_ => ?_, fun i p none_ one image same => ?_⟩
  · have now : ((a.takeFull w).applyPatches w.patches).graphNow = (some img, [], [], []) := by
      rw [none_, State.applyPatches_nil, State.takeFull_some full, State.takeImage_graph]
    rw [now] at graph
    simp only [State.graphNow, Prod.mk.injEq] at graph
    exact graph
  · obtain ⟨image', patched', gd'⟩ := State.applyPatches_one (s := a) (p := p) (by rw [mre, image]) same
    have nodes : a.nodes = s.nodes := by rw [State.nodes, mre, State.nodes]
    rw [State.takeFull_none none_, one] at graph queues patched
    rw [none_, patched', mre, nodes] at patched
    rw [State.takeFull_none none_, one, nodes]
    rw [nodes] at graph queues
    exact ⟨(congrArg Prod.fst graph).trans image', patched, queues.trans (gd'.trans gd)⟩

/-! ## The end of a swap (R217, R305) -/

/-- The swap has ended. -/
def State.swapOver (s : State) : State := (State.showSwap { s with mre := { s.mre with swap := none } }).restartState

theorem State.swapOver_spec (s : State) : s.swapOver.mre.swap = none ∧ s.swapOver.flag Reg.MRE_STATUS_SWAP_PENDING = false := by
  have shown : State.showSwap { s with mre := { s.mre with swap := none } } =
    State.setB { s with mre := { s.mre with swap := none } } Reg.MRE_STATUS_SWAP_PENDING false := rfl
  have kept (u : State) : Moves [.regs] u u.restartState ∧ u.restartState.flag Reg.MRE_STATUS_SWAP_PENDING = u.flag Reg.MRE_STATUS_SWAP_PENDING := by
    refine ⟨State.restartState_moves (.refl _ u) (by decide), ?_⟩
    unfold State.restartState
    extract_lets p
    split
    · rw [State.flag_setF_apart _ _ (by decide), State.flag_setF_apart _ _ (by decide)]
    · rfl
  rw [State.swapOver, shown]
  obtain ⟨moves, flag⟩ := kept (State.setB { s with mre := { s.mre with swap := none } } Reg.MRE_STATUS_SWAP_PENDING false)
  rw [flag, moves.mre_eq (by decide)]
  refine ⟨?_, State.flag_setB_same _ _ rfl rfl⟩
  rw [State.setB, State.setF_mre]

theorem swapComplete_spec {w : Swap} (hw : s.mre.swap = some w) (taken : w.taken = true) (due : w.m + 1 ≤ s.mfN) :
    answers .graphSwapComplete s (fun t => ∃ u : State,
      u.mre.swap = none ∧ u.flag Reg.MRE_STATUS_SWAP_PENDING = false ∧
      t = (u.inCqeOrder id w.refs).foldl (fun (x : State) (r : EntryRef) => x.completeRefM r St.ok 0 (BitVec.ofNat 32 w.m) (BitVec.ofNat 32 (w.m / 2 ^ 32))) u) := by
  have eq : s.swapComplete = if w.taken = true ∧ w.m + 1 ≤ s.mfN then (s.swapOver.inCqeOrder id w.refs).foldl (fun (x : State) (r : EntryRef) =>
      x.completeRefM r St.ok 0 (BitVec.ofNat 32 w.m) (BitVec.ofNat 32 (w.m / 2 ^ 32))) s.swapOver else s := by
    rw [State.swapComplete, hw]
    rfl
  obtain ⟨ended, flag⟩ := s.swapOver_spec
  exact answers_eq rfl (eq.trans (if_pos ⟨taken, due⟩)) ⟨s.swapOver, ended, flag, rfl⟩

/-! ## A load that waited for the swap (R217, R222) -/

/-- The oldest load that waits has been taken up. -/
def State.loadTaken (s : State) (l : List (EntryRef × Sqe)) : State := { s with mre := { s.mre with loads := l } }

theorem loadResume_spec {img : ImageFile} {r : EntryRef} {e : Sqe} {l : List (EntryRef × Sqe)} (idle : s.mre.swap = none) (waits : s.mre.loads = (r, e) :: l)
    (magic : img.header.magic = 0x49475847) (format : img.header.format = 1) (typ : img.header.typ = 0) (crc : img.crcGood = true)
    (good : s.fullOk img (sqeDw e 4).toNat = true) (right : s.graphRight r.fn.val = true)
    (granted : img.nodes.all (fun n => s.nodeGranted n n.kind) = true) (admitted : s.imageRefused img.header = none) :
    answers (.graphLoadResume img) s (fun t => ∃ u : State, u.mre.staged = some img ∧ u.mre.loads = l ∧
        u.reg Reg.MRE_STAGED_ID = img.header.graphId ∧ t = u.completeM r e St.ok 0 (BitVec.ofNat 32 img.header.graphId.toNat)) := by
  have row : s.loadResume img = (s.loadTaken l).loadImage r e img := by
    rw [State.loadResume, idle, waits]
    rfl
  refine answers_eq rfl (row.trans (State.loadImage_full (s := s.loadTaken l) e magic format typ crc good right granted admitted))
    ⟨_, ?_, ?_, State.reg_setReg _ _ _, rfl⟩
  · rw [State.setReg_mre]
  · rw [State.setReg_mre]
    rfl

end

/-- Settles O15: each switch happens in the Tulle band of M − 1, and the mark of its end completes the entries that waited, in the order of R355. -/
theorem scheduleAndImageSwitchAtTheirMarks : Obligations.ScheduleAndImageSwitchAtTheirMarks := by
  unfold Obligations.ScheduleAndImageSwitchAtTheirMarks
  exact fun s => ⟨fun c hc fresh due => bankSwitch_spec hc fresh due, fun c hc done due => rebaseEnd_spec hc done due,
    fun w hw fresh due => swapTakeover_spec hw fresh due, fun w hw taken due => swapComplete_spec hw taken due,
    fun img r e l idle waits magic format typ crc good right granted admitted =>
      loadResume_spec idle waits magic format typ crc good right granted admitted⟩

end Sys2Proof.Machine

namespace Sys2Proof.Machine

/-! # What an error of endpoint buffer memory leaves of the graph (R22, R176, R186) -/

section
variable {s t : State}

/-- The image in force, and the nodes without the patches of later swaps. -/
def State.graphOf (s : State) : Option ImageFile × List (Nat × List (Nat × Node)) := (s.mre.image, s.mre.patched)

theorem State.graphOf_of {l : List Part} (h : Moves l s t) (hl : l.contains .mre = false) : t.graphOf = s.graphOf := by
  rw [State.graphOf, h.mre_eq hl, State.graphOf]

theorem State.nodeAt_of_graph (h : t.graphOf = s.graphOf) (n p : Nat) : t.nodeAt n p = s.nodeAt n p := by
  obtain ⟨image, patched⟩ := Prod.mk.inj h
  have node (m : Nat) : t.node m = s.node m := by rw [State.node, image, State.node]
  unfold State.nodeAt
  rw [patched]
  simp only [node]

theorem State.graphOf_setGen (s : State) (g : Nat) (r : GenSt) : (s.setGen g r).graphOf = s.graphOf := rfl

theorem State.graphOf_takeGenSlot (s : State) (g : Nat) : (s.takeGenSlot g).graphOf = s.graphOf := by
  unfold State.takeGenSlot
  extract_lets r
  split
  · exact State.graphOf_of (l := [.ebm]) (State.stopWait_moves (.refl _ s) (by decide)) (by decide)
  · split
    next u a slot =>
      have moves : Moves [.regs, .ebm] s (u.stopWait (genWait + g)) := State.stopWait_moves (State.slotFor_moves (.refl _ s) (by decide) slot) (by decide)
      exact (State.graphOf_setGen _ _ _).trans (State.graphOf_of moves (by decide))
    next => exact State.graphOf_of (l := [.regs, .ebm]) (State.startWait_moves (.refl _ s) (by decide)) (by decide)

theorem State.graphOf_takeSlot (s : State) (x : Nat) : (s.takeSlot x).graphOf = s.graphOf := by
  unfold State.takeSlot
  split
  · exact s.graphOf_takeGenSlot _
  · split
    next => rfl
    next r _ =>
      split
      · exact State.graphOf_of (l := [.ebm, .bus]) (State.setXfer_moves (State.stopWait_moves (.refl _ s) (by decide)) (by decide)) (by decide)
      · split
        next u a slot =>
          have moves : Moves [.regs, .ebm, .bus] s u := State.slotFor_moves (.refl _ s) (by decide) slot
          exact State.graphOf_of (State.setXfer_moves (State.stopWait_moves (State.setCf_moves (State.setCf_moves moves (by decide)) (by decide))
            (by decide)) (by decide)) (by decide)
        next => exact State.graphOf_of (l := [.regs, .ebm, .bus]) (State.startWait_moves (State.setXfer_moves (.refl _ s) (by decide)) (by decide)) (by decide)

theorem State.graphOf_serveWaits (s : State) : s.serveWaits.graphOf = s.graphOf := State.foldl_eq (p := State.graphOf) State.graphOf_takeSlot _

theorem State.graphOf_dropXfer (s : State) (x : Nat) : (s.dropXfer x).graphOf = s.graphOf := by
  unfold State.dropXfer
  split
  next => rfl
  next r _ =>
    extract_lets waits a b c
    have ha : Moves [.regs, .ts, .ebm, .bus] s a :=
      State.noWork_moves (State.stopWait_moves (State.setXfer_moves (State.closeAll_moves (.refl _ s) (by decide)) (by decide)) (by decide)) (by decide)
    have hb : Moves [.regs, .ts, .ebm, .bus] s b := State.when_moves ha (fun _ h => State.setCf_moves h (by decide))
    have hc : Moves [.regs, .ts, .ebm, .bus] s c := .ite (fun _ => State.nextOn_moves hb (by decide))
      (fun _ => .ite (fun _ => hb) (fun _ => State.setCf_moves (State.freeSlot_moves hb (by decide)) (by decide)))
    exact (State.graphOf_serveWaits c).trans (State.graphOf_of hc (by decide))

/-- Parts that the end of an entry or of an access changes. -/
def entryParts : List Part := [.regs, .qe, .bm, .xb, .fn, .out]

theorem State.graphOf_endXfer (s : State) (x status : Nat) (urgent : Bool) : (s.endXfer x status urgent).graphOf = s.graphOf := by
  unfold State.endXfer
  split
  next => rfl
  next r _ =>
    split
    next d4 d5 _ =>
      extract_lets bus a b
      have ha : a.graphOf = s.graphOf := by
        simp only [a]
        split <;> rfl
      have hb : b.graphOf = s.graphOf := (a.graphOf_dropXfer x).trans ha
      split
      · exact (State.graphOf_of (l := entryParts) (State.endEntry_moves (.refl _ b) (by decide)) (by decide)).trans hb
      · exact (State.graphOf_of (l := entryParts) (State.endAccess_moves (.refl _ b) (by decide)) (by decide)).trans hb
      · exact hb

theorem State.graphOf_contextLost (s : State) (h : Nat) : (s.contextLost h).graphOf = s.graphOf := by
  unfold State.contextLost
  extract_lets a
  have ha : a.graphOf = s.graphOf := by
    simp only [a]
    split
    · exact State.graphOf_of (l := [.ebm]) (State.setCf_moves (.refl _ s) (by decide)) (by decide)
    · rfl
  exact (State.foldl_eq (p := State.graphOf) (fun u x => u.graphOf_endXfer _ _ _) _).trans ha

theorem State.graphOf_freeSlot (s : State) (a : Nat) : (s.freeSlot a).graphOf = s.graphOf :=
  State.graphOf_of (l := [.regs, .ebm]) (State.freeSlot_moves (.refl _ s) (by decide)) (by decide)

theorem State.graphOf_endClip (s : State) (c : ClipRun) (st : Nat) : (s.endClip c st).graphOf = s.graphOf :=
  State.graphOf_of (l := entryParts) (State.endClip_moves (.refl _ s) (by decide)) (by decide)

theorem State.graphOf_restGen (s : State) (g : Nat) : (s.restGen g).graphOf = s.graphOf := by
  unfold State.restGen
  extract_lets r ebm a
  split
  · split
    · exact (State.graphOf_serveWaits _).trans ((State.graphOf_freeSlot _ _).trans (State.graphOf_setGen _ _ _))
    · exact State.graphOf_serveWaits a
  · rfl

theorem State.graphOf_clipLost (s : State) (a : Nat) : (s.clipLost a).graphOf = s.graphOf := by
  unfold State.clipLost
  refine State.foldl_eq (p := State.graphOf) (fun u x => ?_) _
  extract_lets h
  clear_value h
  split
  next c _ =>
    refine (State.graphOf_restGen _ _).trans ?_
    exact (State.graphOf_endClip _ _ _).trans (State.graphOf_setGen _ _ _)
  next => rfl

theorem State.graphOf_slotLost (s : State) (a : Nat) : (s.slotLost a).graphOf = s.graphOf := by
  unfold State.slotLost
  extract_lets hs b c
  have hb : b.graphOf = s.graphOf := by
    refine State.foldl_eq (p := State.graphOf) (fun u h => ?_) _
    split
    · refine State.foldl_eq (p := State.graphOf) (fun v i => ?_) _
      split
      · exact State.graphOf_of (l := [.ebm]) (State.setCf_moves (.refl _ v) (by decide)) (by decide)
      · rfl
    · exact State.foldl_eq (p := State.graphOf) (fun v x => v.graphOf_endXfer _ _ _) _
  have hc : c.graphOf = b.graphOf := State.foldl_eq (p := State.graphOf)
    (fun u x => State.graphOf_of (l := [.ebm]) (State.setGroupSlot_moves (.refl _ u) (by decide)) (by decide)) _
  exact (c.graphOf_clipLost a).trans (hc.trans hb)

/-- A word of the EBM that held no endpoint's bytes is zeroed and counts as bad (R176). -/
def State.poisoned (s : State) (w : Nat) : State :=
  if (s.ebmWrite (w * 8) (List.replicate 8 0)).ebm.poison.contains w then s.ebmWrite (w * 8) (List.replicate 8 0)
  else { s.ebmWrite (w * 8) (List.replicate 8 0) with
    ebm := { (s.ebmWrite (w * 8) (List.replicate 8 0)).ebm with poison := w :: (s.ebmWrite (w * 8) (List.replicate 8 0)).ebm.poison } }

theorem State.graphOf_poisoned (s : State) (w : Nat) : (s.poisoned w).graphOf = s.graphOf := by
  unfold State.poisoned
  have hw : (s.ebmWrite (w * 8) (List.replicate 8 0)).graphOf = s.graphOf :=
    State.graphOf_of (l := [.ebm]) (State.ebmWrite_moves (.refl _ s) (by decide)) (by decide)
  generalize s.ebmWrite (w * 8) (List.replicate 8 0) = v at hw ⊢
  refine Eq.trans ?_ hw
  split <;> rfl

/-- What an uncorrectable error does besides the loss of what stood in the word (R176, R503). -/
def State.ebmCaught (s : State) (x : EccHit) (cause : Nat) : State :=
  (s.ebmUncorrected x.addr).captureError 7 6 cause
    (if (s.ebmUncorrected x.addr).ebmUnit x.addr < 0x100000 ∧ x.addr < 0x7000000
      then (s.ebmUncorrected x.addr).cf ((s.ebmUncorrected x.addr).ebmUnit x.addr) Cx.function else noFunction)
    ((s.ebmUncorrected x.addr).ebmUnit x.addr) x.addr

theorem State.graphOf_ebmCaught (s : State) (x : EccHit) (cause : Nat) : (s.ebmCaught x cause).graphOf = s.graphOf :=
  State.graphOf_of (l := [.regs, .fn, .out]) (State.captureError_moves (State.ebmUncorrected_moves (.refl _ s) (by decide)) (by decide)) (by decide)

theorem State.ebmHit_eq (s : State) (x : EccHit) (cause : Nat) : s.ebmHit x cause =
    if x.double then
      if x.addr < 0x2000000 then (s.ebmCaught x cause).contextLost (x.addr / 32)
      else if x.addr < 0x7000000 then (s.ebmCaught x cause).slotLost x.addr
      else (s.ebmCaught x cause).poisoned (x.addr / 8)
    else s.bump Reg.EBM_ECC_COUNT_CORRECTED := by
  rw [State.ebmHit, State.ebmCaught, State.poisoned]

theorem State.graphOf_ebmHit (s : State) (x : EccHit) (cause : Nat) : (s.ebmHit x cause).graphOf = s.graphOf := by
  rw [State.ebmHit_eq]
  have caught := s.graphOf_ebmCaught x cause
  generalize s.ebmCaught x cause = c at caught ⊢
  split
  · split
    · exact (c.graphOf_contextLost _).trans caught
    · split
      · exact (c.graphOf_slotLost _).trans caught
      · exact (c.graphOf_poisoned _).trans caught
  · exact State.graphOf_of (l := [.regs]) (State.bump_moves (.refl _ s) (by decide)) (by decide)

end

end Sys2Proof.Machine

namespace Sys2Proof.Machine

/-! # What the displays and releases of the dispatcher leave of it (R226, R230, R236, R237) -/

section
variable {s : State}

/-- What the operations have done: each node's next pass, and what runs where. -/
def State.ran (s : State) : Tbl Nat × Tbl (Option RunRec) := (s.gd.next, s.gd.gpes)

/-- What the operations have left of node `n`: its state and its streams. -/
def State.nodeOut (s : State) (n : Nat) : NodeSt × List Stream := (s.nodeSt n, s.streams n)

theorem State.ran_of {l : List Part} {t : State} (h : Moves l s t) (hl : l.contains .gd = false) : t.ran = s.ran := by
  rw [State.ran, h.gd_eq hl, State.ran]

theorem State.nodeOut_of_mre {t : State} (h : t.mre = s.mre) (n : Nat) : t.nodeOut n = s.nodeOut n := by
  rw [State.nodeOut, State.nodeSt, State.streams, h, State.nodeOut, State.nodeSt, State.streams]

theorem State.nodeOut_of {l : List Part} {t : State} (h : Moves l s t) (hl : l.contains .mre = false) (n : Nat) : t.nodeOut n = s.nodeOut n :=
  State.nodeOut_of_mre (h.mre_eq hl) n

theorem State.next_of_ran {t : State} (h : t.ran = s.ran) (n : Nat) : t.next n = s.next n := by
  rw [State.next, (Prod.mk.inj h).1, State.next]

theorem State.run_of_ran {t : State} (h : t.ran = s.ran) (g : Nat) : t.run g = s.run g := by
  rw [State.run, (Prod.mk.inj h).2, State.run]

theorem State.ran_obsUpd (s : State) (g : ObsWin → ObsWin) : (s.obsUpd g).ran = s.ran := rfl

theorem State.ran_setFlow (s : State) (f : Nat) (l : List RelRec) : (s.setFlow f l).ran = s.ran := rfl

/-- The display of a queue changes registers, and the window in progress. -/
theorem State.showQ_shape (s : State) (q : Nat) : ∃ (u : State) (g : ObsWin → ObsWin), Moves [.regs] s u ∧ s.showQ q = u.obsUpd g :=
  ⟨_, _, State.setF_moves (State.setF_moves (State.setF_moves (.refl _ s) (by decide)) (by decide)) (by decide), rfl⟩

/-- The display of the release entries changes registers, and the window in progress. -/
theorem State.showRelease_shape (s : State) : ∃ (u : State) (g : ObsWin → ObsWin), Moves [.regs] s u ∧ s.showRelease = u.obsUpd g :=
  ⟨_, _, State.setB_moves (State.high_moves (State.setF_moves (.refl _ s) (by decide)) (by decide)) (by decide), rfl⟩

/-- What a display keeps: all of `gd` but the window in progress. -/
theorem State.gd_showQ {α : Type} (p : DispSt → α) (hp : ∀ (r : DispSt) o, p { r with obs := o } = p r) (s : State) (q : Nat) : p (s.showQ q).gd = p s.gd := by
  obtain ⟨u, g, moves, eq⟩ := s.showQ_shape q
  rw [eq, State.obsUpd, hp, moves.gd_eq (by decide)]

theorem State.gd_showRelease {α : Type} (p : DispSt → α) (hp : ∀ (r : DispSt) o, p { r with obs := o } = p r) (s : State) : p s.showRelease.gd = p s.gd := by
  obtain ⟨u, g, moves, eq⟩ := s.showRelease_shape
  rw [eq, State.obsUpd, hp, moves.gd_eq (by decide)]

theorem State.ran_showQ (s : State) (q : Nat) : (s.showQ q).ran = s.ran := s.gd_showQ (fun r => (r.next, r.gpes)) (fun _ _ => rfl) q

theorem State.ran_showRelease (s : State) : s.showRelease.ran = s.ran := s.gd_showRelease (fun r => (r.next, r.gpes)) (fun _ _ => rfl)

theorem State.ran_createOp (s : State) (n : Nat) (nd : Node) : (s.createOp n nd).ran = s.ran := by
  unfold State.createOp
  extract_lets p gd a b c
  have ha : a.ran = s.ran := rfl
  split
  · exact (State.ran_showQ _ _).trans ha
  · have bumped : ((c.bump Reg.GD_HOLDS_SPILLS).obsPrio nd.prio (fun o => { o with spills := o.spills + 1 })).ran = c.ran :=
      (State.ran_obsUpd _ _).trans (State.ran_of (l := [.regs]) (State.bump_moves (.refl _ c) (by decide)) (by decide))
    exact (State.ran_showQ _ _).trans (bumped.trans ha)

theorem State.ran_offer (s : State) (l : List (Nat × Node)) : (s.offer l).ran = s.ran :=
  State.foldl_eq (p := State.ran) (fun u x => by split; exacts [u.ran_createOp _ _, rfl]) l

/-! ## Effects of a release (R236) -/

/-- What a release's effect may change of `gd` is the window in progress. -/
theorem State.gd_effect {α : Type} (p : DispSt → α) (hp : ∀ (r : DispSt) o, p { r with obs := o } = p r) (s : State) (r : RelRec) : p (s.effect r).gd = p s.gd := by
  unfold State.effect
  split
  · rfl
  · extract_lets late a b
    have ha : p a.gd = p s.gd := by
      simp only [a]
      split
      · exact hp _ _
      · rfl
    have keep {l : List Part} {t : State} (h : Moves l a t) (hl : l.contains .gd = false) : p t.gd = p s.gd := by rw [h.gd_eq hl, ha]
    clear_value a
    split
    · split
      · exact ha
      · exact keep (l := [.regs, .ebm, .mre, .sv]) (State.sinkRelease_moves (.refl _ a) (by decide)) (by decide)
    · exact keep (l := [.mre]) (State.tapRecord_moves (.refl _ a) (by decide)) (by decide)
    · split
      · exact keep (l := [.sv]) (State.svQuiet_moves (.refl _ a) (by decide)) (by decide)
      · exact keep (l := [.regs, .sv]) (State.svPass_moves (.refl _ a) (by decide)) (by decide)
    · split
      · exact keep (l := [.mre]) (State.setNodeSt_moves (.refl _ a) (by decide)) (by decide)
      · exact ha
    · exact ha

theorem foldl_fst_eq {α β γ : Type} {p : State → γ} {f : State × β → α → State × β} (hf : ∀ a x, p (f a x).1 = p a.1) (l : List α) (a : State × β) :
    p (l.foldl f a).1 = p a.1 := by
  induction l generalizing a with
  | nil => rfl
  | cons x l ih => rw [List.foldl_cons, ih, hf]

theorem State.nodeOut_sinkWrite (s : State) (ep : EpRef) (p : Nat) (b : List Byte) (n : Nat) : (s.sinkWrite ep p b).nodeOut n = s.nodeOut n := by
  unfold State.sinkWrite
  split
  · split
    · rfl
    · exact State.nodeOut_of (l := [.ebm]) (State.setCf_moves (State.writeHalf_moves (.refl _ s) (by decide)) (by decide)) (by decide) n
  · split
    · rfl
    · exact State.nodeOut_of (l := [.ebm]) (State.writeGroupHalf_moves (.refl _ s) (by decide)) (by decide) n
  · rfl

theorem State.nodeOut_sinkRelease (s : State) (p : Nat) (ep : EpRef) (chans : List SinkCh) (so : Nat) (sb : List Byte) (xs : List Stream) (n : Nat) :
    (s.sinkRelease p ep chans so sb xs).nodeOut n = s.nodeOut n := by
  unfold State.sinkRelease
  split
  · rfl
  · refine (State.nodeOut_sinkWrite _ _ _ _ n).trans (foldl_fst_eq (p := fun u => u.nodeOut n) (fun a cx => ?_) _ _)
    split
    next u x eq =>
      split at eq
      · rw [← (Prod.mk.inj eq).1]
        exact State.nodeOut_of (l := [.regs, .sv]) (State.addPilot_moves (.refl _ a.1) (by decide)) (by decide) n
      · rw [← (Prod.mk.inj eq).1]

theorem State.nodeOut_setNodeSt_other (s : State) {m n : Nat} (r : NodeSt) (h : m ≠ n) : (s.setNodeSt m r).nodeOut n = s.nodeOut n := by
  rw [State.nodeOut, State.nodeSt, State.setNodeSt, Tbl.get_set_other _ _ (Ne.symm h)]
  rfl

/-- The effect of a release reaches a node's own state through a METER's window alone. -/
theorem State.nodeOut_effect (s : State) (r : RelRec) (n : Nat) (h : r.node = n → r.win = none) : (s.effect r).nodeOut n = s.nodeOut n := by
  unfold State.effect
  split
  · rfl
  · extract_lets late a b
    have ha : a.nodeOut n = s.nodeOut n := by
      simp only [a]
      split <;> rfl
    clear_value a
    refine Eq.trans ?_ ha
    split
    · split
      · rfl
      · exact a.nodeOut_sinkRelease _ _ _ _ _ _ n
    · rfl
    · split
      · exact State.nodeOut_of (l := [.sv]) (State.svQuiet_moves (.refl _ a) (by decide)) (by decide) n
      · exact State.nodeOut_of (l := [.regs, .sv]) (State.svPass_moves (.refl _ a) (by decide)) (by decide) n
    · split
      next w => exact a.nodeOut_setNodeSt_other _ (fun e => by rw [h e] at w; exact absurd w (by decide))
      · rfl
    · rfl

theorem State.ran_releaseFrom (s : State) (f k : Nat) : (s.releaseFrom f k).ran = s.ran := by
  induction k generalizing s with
  | zero => rfl
  | succ k ih =>
    rw [State.releaseFrom]
    split
    · split
      next r l _ _ => exact (ih _).trans ((State.gd_effect (fun r => (r.next, r.gpes)) (fun _ _ => rfl) (s.setFlow f l) r).trans (s.ran_setFlow f l))
      · rfl
    · rfl

theorem State.flow_setFlow (s : State) (f : Nat) (l : List RelRec) : (s.setFlow f l).flow f = l := Tbl.get_set_same _ _ _

/-- A release leaves a node that no METER's window of the flow belongs to. -/
theorem State.nodeOut_releaseFrom (s : State) (f k n : Nat) (h : ∀ r ∈ s.flow f, r.node = n → r.win = none) :
    (s.releaseFrom f k).nodeOut n = s.nodeOut n := by
  induction k generalizing s with
  | zero => rfl
  | succ k ih =>
    rw [State.releaseFrom]
    split
    next r l eq =>
      split
      · rw [eq] at h
        have flow : ((s.setFlow f l).effect r).flow f = l :=
          ((s.setFlow f l).gd_effect (fun g => Tbl.get (fun _ => []) g.flows f) (fun _ _ => rfl) r).trans (s.flow_setFlow f l)
        refine (ih _ (fun q mem => h q ?_)).trans (State.nodeOut_effect (s.setFlow f l) r n (h r List.mem_cons_self))
        rw [flow] at mem
        exact List.mem_cons_of_mem _ mem
      · rfl
    · rfl

theorem State.ran_release (s : State) (f : Nat) : (s.release f).ran = s.ran := (State.ran_showRelease _).trans (s.ran_releaseFrom f _)

theorem State.nodeOut_release (s : State) (f n : Nat) (h : ∀ r ∈ s.flow f, r.node = n → r.win = none) : (s.release f).nodeOut n = s.nodeOut n :=
  (State.nodeOut_of (l := [.regs, .gd]) (State.showRelease_moves (.refl _ _) (by decide)) (by decide) n).trans (s.nodeOut_releaseFrom f _ n h)

end

end Sys2Proof.Machine

namespace Sys2Proof.Machine

/-! # An operation completes (R190, R226, R228, R236) -/

section
variable {s : State}

/-! ## What a node's pass counts -/

/-- The registers that a node's pass counts in. -/
def passRegs : List Nat := [Reg.MRE_MISSING_COUNT.addr, Reg.MRE_DELAY_ZEROED_COUNT.addr, Reg.MRE_SATURATIONS_COUNT.addr]

theorem regsBut_runSource (s : State) (p : Nat) (ep : EpRef) (o : Nat) (r8 : Bool) (fb fbit : Nat) (hold : Bool) (hm : Nat) (st : NodeSt) :
    s.regsBut passRegs (s.runSource p ep o r8 fb fbit hold hm st).1 := by
  have same {t : State} (h : t.regs = s.regs) : s.regsBut passRegs t := (State.regsBut.refl _ s).keep h
  have missing : s.regsBut passRegs ((s.bump Reg.MRE_MISSING_COUNT).countMissing ep p) := by
    refine ((State.regsBut.refl passRegs s).bump (x := Reg.MRE_MISSING_COUNT) 1 (by decide)).keep ?_
    have moves : Moves [.ebm, .mre] (s.bump Reg.MRE_MISSING_COUNT) ((s.bump Reg.MRE_MISSING_COUNT).countMissing ep p) :=
      State.countMissing_moves (.refl _ _) (by decide)
    exact moves.regs_eq (by decide)
  unfold State.runSource
  extract_lets give b c st1
  split
  · exact same rfl
  · split
    · exact same rfl
    · split
      · refine same ?_
        show b.regs = s.regs
        simp only [b]
        split
        · exact (State.setCf_moves (.refl [.ebm] s) (by decide)).regs_eq (by decide)
        · rfl
      · split
        · exact missing
        · exact missing

theorem foldl_fst_regsBut {α β : Type} {l : List Nat} {f : State × β → α → State × β} (hf : ∀ (a : State × β) x, a.1.regsBut l (f a x).1) (xs : List α) (a : State × β) :
    a.1.regsBut l (xs.foldl f a).1 := by
  induction xs generalizing a with
  | nil => exact State.regsBut.refl _ _
  | cons x xs ih => exact (hf a x).trans (ih _)

theorem regsBut_lineWrite (s : State) (base i : Nat) (x : Int) : s.regsBut passRegs (s.lineWrite base i x) :=
  (State.regsBut.refl _ s).keep ((State.lineWrite_moves (.refl [.ebm] s) (by decide)).regs_eq (by decide))

theorem regsBut_runDelay (s : State) (base line d : Nat) (st : NodeSt) (x : Stream) : s.regsBut passRegs (s.runDelay base line d st x).1 := by
  unfold State.runDelay
  extract_lets old n0
  refine foldl_fst_regsBut (fun a n => ?_) six (s, [], false, st)
  extract_lets y w0 w1
  split
  next u out sat st =>
  extract_lets b fill rd bad fresh c v
  refine (regsBut_lineWrite u base (st.pos % n0) y.v).trans ?_
  exact .ite (fun _ => .refl _ _) (fun _ => (State.regsBut.refl _ _).bump (x := Reg.MRE_DELAY_ZEROED_COUNT) _ (by decide))

theorem regsBut_runNode (s : State) (p : Nat) (nd : Node) (xs : List Stream) (st : NodeSt) : s.regsBut passRegs (s.runNode p nd xs st).1 := by
  unfold State.runNode
  extract_lets x quiet
  split
  · exact regsBut_runSource _ _ _ _ _ _ _ _ _ _
  · exact .refl _ _
  · exact .refl _ _
  · exact .refl _ _
  · exact .refl _ _
  · exact .refl _ _
  · exact regsBut_runDelay _ _ _ _ _ _
  · exact .refl _ _
  · exact .refl _ _
  · exact .refl _ _
  · exact .refl _ _
  · exact .refl _ _

/-! ## The stages of a completion -/

/-- What the node's pass leaves, with what it counts. -/
def State.opRun (s : State) (n p : Nat) (nd : Node) : State × NodeRes :=
  s.runNode p nd (nd.inputs.map (fun m => s.streamAt m p)) (s.nodeSt n)

/-- The result goes into the node's state and its streams, and a saturation is counted (R188, R190). -/
def State.opLeft (s : State) (n p : Nat) (nd : Node) (r : NodeRes) : State :=
  (if hasOutput nd.kind then (s.setNodeSt n r.st).setStreams n (⟨p, r.x, r.flag⟩ :: (s.setNodeSt n r.st).streams n) else s.setNodeSt n r.st).when r.sat
    (fun s => s.bump Reg.MRE_SATURATIONS_COUNT)

/-- The node is free for its next pass (R226). -/
def State.opNext (s : State) (n p : Nat) (nd : Node) : State :=
  State.setNext { s with gd := { s.gd with busy := s.gd.busy.filter (· != n) } } n (if s.runs nd then p + 1 else max (p + 1) (s.mfN + 1))

/-- A SOURCE advances the tone generators that it triggers (R193). -/
def State.opTones (s : State) (n p : Nat) (nd : Node) (flag : Bool) : State := match nd.kind with
  | .source .. => s.genList.foldl (fun (s : State) (x : Nat × GenMode) => match x.2 with
      | .tone t => if t.trigger = some n ∧ s.genRuns x.1 then s.tonePass x.1 p t flag else s
      | .clip => s) s
  | _ => s

/-- The operation is done in its flow, which releases what it can (R236). -/
def State.opRelease (s : State) (n p : Nat) (xs : List Stream) (win : Option MeterWin) : State := match s.flowOf n with
  | some f => (s.setFlow f ((s.flow f).map (fun (q : RelRec) =>
      if q.node = n ∧ q.pass = p then { q with done := true, ins := xs, win := win } else q))).release f
  | none => s

/-- The window that a METER closes with a pass. -/
def opWin (p : Nat) (nd : Node) (st : NodeSt) : Option MeterWin := match nd.kind with
  | .meter w => meterWin w p st
  | _ => none

/-- All of a completion but the operations that it makes ready. -/
def State.opDone (s : State) (n p : Nat) (nd : Node) : State :=
  (((((s.opRun n p nd).1.opLeft n p nd (s.opRun n p nd).2).opNext n p nd).opTones n p nd (s.opRun n p nd).2.flag).opRelease n p
    (nd.inputs.map (fun m => s.streamAt m p)) (opWin p nd (s.opRun n p nd).2.st))

theorem State.completeOp_eq (s : State) (n p : Nat) (nd : Node) (sound : (s.mre.faulted.contains n) = false) :
    (s.completeOp n p nd []).1 =
      (s.opDone n p nd).offer ((s.opDone n p nd).nodes.filter (fun x => x.1 == n || ((s.opDone n p nd).waitsFor x.2).contains n)) := by
  rw [State.completeOp, State.graphHits]
  simp only [List.foldl_nil, sound, Bool.false_and, Bool.false_eq_true, if_false]
  rfl

end

end Sys2Proof.Machine

namespace Sys2Proof.Machine

/-! # OPERATION_COMPLETE (R176, R186, R190, R226, R228, R236, R436) -/

section
variable {s : State} {n p : Nat} {nd : Node}

theorem State.opRun_moves : Moves [.regs, .ebm, .mre] s (s.opRun n p nd).1 := State.runNode_moves (.refl _ s) (by decide)

theorem State.opLeft_moves (r : NodeRes) : Moves [.regs, .mre] s (s.opLeft n p nd r) :=
  State.when_moves (.ite (fun _ => State.setStreams_moves (State.setNodeSt_moves (.refl _ s) (by decide)) (by decide))
    (fun _ => State.setNodeSt_moves (.refl _ s) (by decide))) (fun _ h => State.bump_moves h (by decide))

/-- What a node's pass leaves stands in its state and its newest stream. -/
theorem State.nodeOut_opLeft (s : State) (n p : Nat) (r : NodeRes) (out : hasOutput nd.kind = true) :
    (s.opLeft n p nd r).nodeOut n = (r.st, ⟨p, r.x, r.flag⟩ :: s.streams n) := by
  have bumped (u : State) : (u.when r.sat (fun v => v.bump Reg.MRE_SATURATIONS_COUNT)).nodeOut n = u.nodeOut n :=
    State.nodeOut_of (l := [.regs]) (State.when_moves (.refl _ u) (fun _ h => State.bump_moves h (by decide))) (by decide) n
  rw [State.opLeft, bumped, if_pos out]
  exact Prod.ext (Tbl.get_set_same s.mre.nodes n r.st) (Tbl.get_set_same (d := fun _ => []) s.mre.streams n (⟨p, r.x, r.flag⟩ :: s.streams n))

theorem State.opTones_moves (flag : Bool) : Moves [.regs, .mre] s (s.opTones n p nd flag) := by
  unfold State.opTones
  split
  · refine .foldl (.refl _ s) (fun u x h => ?_)
    split
    · exact .ite (fun _ => State.tonePass_moves h (by decide)) (fun _ => h)
    · exact h
  · exact .refl _ s

theorem State.nodeOut_tonePass (s : State) (g p : Nat) (t : ToneParams) (flag : Bool) (n : Nat) : (s.tonePass g p t flag).nodeOut n = s.nodeOut n := rfl

theorem State.nodeOut_opTones (s : State) (flag : Bool) (m : Nat) : (s.opTones n p nd flag).nodeOut m = s.nodeOut m := by
  unfold State.opTones
  split
  · refine State.foldl_eq (p := fun u => u.nodeOut m) (fun u x => ?_) _
    split
    · split
      · exact u.nodeOut_tonePass _ _ _ _ m
      · rfl
    · rfl
  · rfl

theorem State.nodeOut_opNext (s : State) (m : Nat) : (s.opNext n p nd).nodeOut m = s.nodeOut m := rfl

theorem State.ran_opRelease (s : State) (xs : List Stream) (win : Option MeterWin) : (s.opRelease n p xs win).ran = s.ran := by
  unfold State.opRelease
  split
  · exact (State.ran_release _ _).trans (s.ran_setFlow _ _)
  · rfl

theorem State.nodeOut_opRelease (s : State) (xs : List Stream) (h : ∀ f, ∀ r ∈ s.flow f, r.node = n → r.win = none) :
    (s.opRelease n p xs none).nodeOut n = s.nodeOut n := by
  unfold State.opRelease
  split
  next f _ =>
    refine (State.nodeOut_release _ f n ?_).trans rfl
    rw [State.flow_setFlow]
    intro q mem node
    obtain ⟨r, hr, rfl⟩ := List.mem_map.mp mem
    split at node
    · rw [if_pos ‹_›]
    · rw [if_neg ‹_›]
      exact h f r hr node
  · rfl

theorem opWin_none (p : Nat) (st : NodeSt) (out : hasOutput nd.kind = true) : opWin p nd st = none := by
  unfold opWin
  split
  next w eq =>
    rw [eq] at out
    exact absurd out Bool.false_ne_true
  · rfl

/-- The state in which a completed operation's flow is looked at. -/
def State.opFree (s : State) (n p : Nat) (nd : Node) : State :=
  (((s.opRun n p nd).1.opLeft n p nd (s.opRun n p nd).2).opNext n p nd).opTones n p nd (s.opRun n p nd).2.flag

theorem State.runs_opLeft (nd' : Node) : ((s.opRun n p nd).1.opLeft n p nd (s.opRun n p nd).2).runs nd' = s.runs nd' := by
  have ran : s.regsBut passRegs (s.opRun n p nd).1 := regsBut_runNode _ _ _ _ _
  have left : (s.opRun n p nd).1.regsBut passRegs ((s.opRun n p nd).1.opLeft n p nd (s.opRun n p nd).2) := by
    have same : Moves [.mre] (s.opRun n p nd).1 (if hasOutput nd.kind then ((s.opRun n p nd).1.setNodeSt n (s.opRun n p nd).2.st).setStreams n
        (⟨p, (s.opRun n p nd).2.x, (s.opRun n p nd).2.flag⟩ :: ((s.opRun n p nd).1.setNodeSt n (s.opRun n p nd).2.st).streams n)
      else (s.opRun n p nd).1.setNodeSt n (s.opRun n p nd).2.st) :=
      .ite (fun _ => State.setStreams_moves (State.setNodeSt_moves (.refl _ _) (by decide)) (by decide)) (fun _ => State.setNodeSt_moves (.refl _ _) (by decide))
    have keep := (State.regsBut.refl passRegs (s.opRun n p nd).1).keep (same.regs_eq (by decide))
    exact keep.when _ (keep.bump (x := Reg.MRE_SATURATIONS_COUNT) 1 (by decide))
  rw [State.runs, State.p0Only, (ran.trans left).flag (by decide), State.runs, State.p0Only]

theorem State.opFree_ran : (s.opFree n p nd).ran =
    (Tbl.set (fun _ => 0) s.gd.next n (if s.runs nd then p + 1 else max (p + 1) (s.mfN + 1)), s.gd.gpes) := by
  have left : Moves [.regs, .ebm, .mre] s ((s.opRun n p nd).1.opLeft n p nd (s.opRun n p nd).2) :=
    State.opRun_moves.trans ((State.opLeft_moves _).mono (by decide))
  have tones : (s.opFree n p nd).ran = (((s.opRun n p nd).1.opLeft n p nd (s.opRun n p nd).2).opNext n p nd).ran :=
    State.ran_of (State.opTones_moves _) (by decide)
  have runs : ((s.opRun n p nd).1.opLeft n p nd (s.opRun n p nd).2).runs nd = s.runs nd := State.runs_opLeft nd
  rw [tones]
  generalize (s.opRun n p nd).1.opLeft n p nd (s.opRun n p nd).2 = v at left runs ⊢
  show (Tbl.set (fun _ => 0) v.gd.next n (if v.runs nd then p + 1 else max (p + 1) (v.mfN + 1)), v.gd.gpes) = _
  rw [runs, left.gd_eq (by decide), left.mfN_eq (by decide)]

theorem State.opFree_flow (f : Nat) : (s.opFree n p nd).flow f = s.flow f := by
  have left : Moves [.regs, .ebm, .mre] s ((s.opRun n p nd).1.opLeft n p nd (s.opRun n p nd).2) :=
    State.opRun_moves.trans ((State.opLeft_moves _).mono (by decide))
  have tones : Moves [.regs, .mre] _ (s.opFree n p nd) := State.opTones_moves _
  rw [State.flow, tones.gd_eq (by decide)]
  show Tbl.get _ ((s.opRun n p nd).1.opLeft n p nd (s.opRun n p nd).2).gd.flows f = _
  rw [left.gd_eq (by decide), State.flow]

theorem State.opFree_nodeOut (out : hasOutput nd.kind = true) : (s.opFree n p nd).nodeOut n =
    ((s.opRun n p nd).2.st, ⟨p, (s.opRun n p nd).2.x, (s.opRun n p nd).2.flag⟩ :: (s.opRun n p nd).1.streams n) :=
  (State.nodeOut_opTones _ _ n).trans ((State.nodeOut_opNext _ n).trans (State.nodeOut_opLeft _ n p _ out))

/-- A completion frees its node for the next pass, and starts nothing. -/
theorem State.completeOp_ran (sound : (s.mre.faulted.contains n) = false) : (s.completeOp n p nd []).1.ran =
    (Tbl.set (fun _ => 0) s.gd.next n (if s.runs nd then p + 1 else max (p + 1) (s.mfN + 1)), s.gd.gpes) := by
  rw [State.completeOp_eq s n p nd sound]
  exact (State.ran_offer _ _).trans ((State.ran_opRelease _ _ _).trans State.opFree_ran)

/-- A node with an output keeps what its pass has left, when no METER's window goes by its name. -/
theorem State.completeOp_nodeOut (sound : (s.mre.faulted.contains n) = false) (out : hasOutput nd.kind = true)
    (noWin : ∀ f, ∀ r ∈ s.flow f, r.node = n → r.win = none) : (s.completeOp n p nd []).1.nodeOut n =
      ((s.opRun n p nd).2.st, ⟨p, (s.opRun n p nd).2.x, (s.opRun n p nd).2.flag⟩ :: (s.opRun n p nd).1.streams n) := by
  rw [State.completeOp_eq s n p nd sound]
  refine (State.nodeOut_of (l := [.regs, .gd]) (State.offer_moves (.refl _ _) (by decide)) (by decide) n).trans ?_
  rw [State.opDone, opWin_none p _ out]
  refine (State.nodeOut_opRelease (s.opFree n p nd) _ (fun f r mem => noWin f r ?_)).trans (State.opFree_nodeOut out)
  rwa [State.opFree_flow] at mem

end

end Sys2Proof.Machine

namespace Sys2Proof.Machine

section
variable {s : State}

/-- The GPE that an operation leaves is idle; the window in progress counts it. -/
def State.gpeLeft (s : State) (g stall : Nat) : State := (s.setRun g none).obsUpd (fun o => { o with
  gpeStall := Tbl.upd (fun _ => 0) o.gpeStall g (· + stall), gpeOps := Tbl.upd (fun _ => 0) o.gpeOps g (· + 1) })

theorem State.opHits_nil (s : State) (n : Nat) (live : Bool) : s.opHits n live [] = s := rfl

theorem State.opHits_queue (s : State) (n : Nat) (live : Bool) (a : Nat) : s.opHits n live [.queue a] = s.queueHit n live a := by
  rw [State.opHits, List.foldl_cons, List.foldl_nil]

theorem State.opHits_ebm (s : State) (n : Nat) (live : Bool) (x : EccHit) : s.opHits n live [.ebm x] = s.ebmHit x 1 := by
  rw [State.opHits, List.foldl_cons, List.foldl_nil]

/-- The end of an operation of the active image: the errors of its buffers first, then its completion. -/
theorem State.operationDone_eq {g n p : Nat} {nd : Node} {hits : List OpHit} (stall : Nat) {v : State} (run : s.run g = some ⟨n, p, none⟩)
    (hv : (s.gpeLeft g stall).opHits n true hits = v) (node : v.nodeAt n p = some nd) (none' : graphErrors hits = []) :
    s.operationDone g hits stall = (v.completeOp n p nd []).1.when (v.completeOp n p nd []).2 (fun y => y.wake .emerg) := by
  have left : s.operationDone g hits stall = match ((s.gpeLeft g stall).opHits n true hits).nodeAt n p with
    | none => (s.gpeLeft g stall).opHits n true hits
    | some nd => (((s.gpeLeft g stall).opHits n true hits).completeOp n p nd (graphErrors hits)).1.when
        (((s.gpeLeft g stall).opHits n true hits).completeOp n p nd (graphErrors hits)).2 (fun y => y.wake .emerg) := by
    rw [State.operationDone, run]
    rfl
  rw [left, hv, node, none']

theorem State.ran_wakes (s : State) (b : Bool) : (s.when b (fun y => y.wake .emerg)).ran = s.ran :=
  State.ran_of (l := [.regs, .qe, .fn, .pu, .pm, .out]) (State.when_moves (.refl _ s) (fun _ h => State.wake_moves h (by decide))) (by decide)

theorem State.nodeOut_wakes (s : State) (b : Bool) (n : Nat) : (s.when b (fun y => y.wake .emerg)).nodeOut n = s.nodeOut n :=
  State.nodeOut_of (l := [.regs, .qe, .fn, .pu, .pm, .out]) (State.when_moves (.refl _ s) (fun _ h => State.wake_moves h (by decide))) (by decide) n

theorem operationComplete_spec (g : GpeId) (n p : Nat) (nd : Node) (stall : Nat) (run : s.run g.val = some ⟨n, p, none⟩)
    (node : s.nodeAt n p = some nd) (sound : s.mre.faulted.contains n = false) :
    answers (.operationComplete g [] stall) s (fun t => t.run g.val = none ∧
      t.next n = (if s.runs nd then p + 1 else max (p + 1) (s.mfN + 1)) ∧
      ∃ u : State, { u with gd := s.gd } = s ∧ (hasOutput nd.kind = true → (∀ f, ∀ r ∈ s.flow f, r.node = n → r.win = none) →
        let r := (u.runNode p nd (nd.inputs.map (fun m => s.streamAt m p)) (s.nodeSt n)).2
        t.nodeSt n = r.st ∧ (t.streams n).head? = some ⟨p, r.x, r.flag⟩)) := by
  have eq := s.operationDone_eq (g := g.val) (n := n) (p := p) (nd := nd) stall run (State.opHits_nil _ n true) node rfl
  have sound' : (s.gpeLeft g.val stall).mre.faulted.contains n = false := sound
  have ran := State.completeOp_ran (nd := nd) (p := p) sound'
  refine answers_eq rfl eq ⟨?_, ?_, s.gpeLeft g.val stall, rfl, fun out noWin => ?_⟩
  · rw [State.run_of_ran (State.ran_wakes _ _), State.run, (Prod.mk.inj ran).2]
    exact Tbl.get_set_same (d := fun _ => (none : Option RunRec)) s.gd.gpes g.val none
  · rw [State.next_of_ran (State.ran_wakes _ _), State.next, (Prod.mk.inj ran).1]
    exact Tbl.get_set_same (d := fun _ => 0) s.gd.next n _
  · have left := (State.nodeOut_wakes _ ((s.gpeLeft g.val stall).completeOp n p nd []).2 n).trans (State.completeOp_nodeOut (p := p) sound' out noWin)
    exact ⟨congrArg Prod.fst left, (congrArg (fun x => x.2.head?) left)⟩

theorem State.faultNode_mre (n : Nat) (sound : s.mre.faulted.contains n = false) :
    (s.faultNode n).mre = { s.mre with faulted := n :: s.mre.faulted } := by
  rw [State.faultNode, if_neg (by rw [sound]; decide), State.setF_mre]

theorem State.faultNode_f (s : State) (n : Nat) (x : Fld) (apart : Reg.MRE_FAULTED_NODES_COUNT.apart x = true) : (s.faultNode n).f x = s.f x := by
  unfold State.faultNode
  split
  · rfl
  · exact State.f_setF_apart (s := { s with mre := { s.mre with faulted := n :: s.mre.faulted } }) _ apart

theorem State.queueHit_eq (s : State) (n a : Nat) :
    s.queueHit n true a = ((s.bump Reg.MRE_MEM_ERRORS_UNCORRECTED).captureError 0x0B 5 2 noFunction n a).faultNode n := by
  rw [State.queueHit, State.when, if_pos rfl]

/-- An error of a dispatcher queue counts, is captured, and faults the operation's node (R186, R436). -/
theorem State.queueHit_spec (n a : Nat) (sound : s.mre.faulted.contains n = false) :
    (s.queueHit n true a).mre = { s.mre with faulted := n :: s.mre.faulted } ∧
    (s.queueHit n true a).f Reg.MRE_MEM_ERRORS_UNCORRECTED = min (s.f Reg.MRE_MEM_ERRORS_UNCORRECTED + 1) 65535 ∧
    (s.queueHit n true a).flag Reg.GLB_ERR_UNCORRECTABLE = true := by
  have counted : (s.bump Reg.MRE_MEM_ERRORS_UNCORRECTED).f Reg.MRE_MEM_ERRORS_UNCORRECTED = min (s.f Reg.MRE_MEM_ERRORS_UNCORRECTED + 1) 65535 :=
    s.f_bump_same 1 rfl
  have bumped : (s.bump Reg.MRE_MEM_ERRORS_UNCORRECTED).mre = s.mre := s.bump_mre _ _
  rw [State.queueHit_eq]
  generalize s.bump Reg.MRE_MEM_ERRORS_UNCORRECTED = b at counted bumped ⊢
  obtain ⟨flag, regs, _⟩ := b.captureError_spec 0x0B 5 2 noFunction n a
  have moves : Moves [.regs, .fn, .out] b (b.captureError 0x0B 5 2 noFunction n a) := State.captureError_moves (.refl _ b) (by decide)
  generalize b.captureError 0x0B 5 2 noFunction n a = c at flag regs moves ⊢
  have mre : c.mre = s.mre := (moves.mre_eq (by decide)).trans bumped
  refine ⟨?_, ?_, ?_⟩
  · rw [State.faultNode_mre n (by rw [mre]; exact sound), mre]
  · rw [State.faultNode_f _ _ _ (by decide), regs.f (by decide), counted]
  · rw [State.flag, State.faultNode_f _ _ _ (by decide)]
    exact flag

theorem operationComplete_queue (g : GpeId) (n p : Nat) (nd : Node) (a stall : Nat) (run : s.run g.val = some ⟨n, p, none⟩)
    (node : s.nodeAt n p = some nd) (sound : s.mre.faulted.contains n = false) :
    answers (.operationComplete g [.queue a] stall) s (fun t => ∃ u : State, u.mre = { s.mre with faulted := n :: s.mre.faulted } ∧
      u.f Reg.MRE_MEM_ERRORS_UNCORRECTED = min (s.f Reg.MRE_MEM_ERRORS_UNCORRECTED + 1) 65535 ∧
      u.flag Reg.GLB_ERR_UNCORRECTABLE = true ∧
      t = (u.completeOp n p nd []).1.when (u.completeOp n p nd []).2 (fun y => y.wake .emerg)) := by
  obtain ⟨mre, counted, flag⟩ := State.queueHit_spec (s := s.gpeLeft g.val stall) n a sound
  have graph : ((s.gpeLeft g.val stall).queueHit n true a).graphOf = s.graphOf := by
    rw [State.graphOf, mre]
    rfl
  exact answers_eq rfl (s.operationDone_eq stall run (State.opHits_queue _ n true a) ((State.nodeAt_of_graph graph n p).trans node) rfl) ⟨_, mre, counted, flag, rfl⟩

theorem operationComplete_ebm (g : GpeId) (n p : Nat) (nd : Node) (x : EccHit) (stall : Nat) (run : s.run g.val = some ⟨n, p, none⟩)
    (node : s.nodeAt n p = some nd) :
    answers (.operationComplete g [.ebm x] stall) s (fun t => ∃ u v : State, State.only [.gd] s u ∧ v = u.ebmHit x 1 ∧
      t = (v.completeOp n p nd []).1.when (v.completeOp n p nd []).2 (fun y => y.wake .emerg)) := by
  have only : State.only [.gd] s (s.gpeLeft g.val stall) :=
    (State.obsUpd_moves (State.setRun_moves (.refl [.gd] s) (by decide)) (by decide)).only
  have graph : ((s.gpeLeft g.val stall).ebmHit x 1).graphOf = s.graphOf := (State.graphOf_ebmHit _ x 1).trans rfl
  exact answers_eq rfl (s.operationDone_eq stall run (State.opHits_ebm _ n true x) ((State.nodeAt_of_graph graph n p).trans node) rfl) ⟨_, _, only, rfl, rfl⟩

end

end Sys2Proof.Machine

namespace Sys2Proof.Machine

/-! # Operations, spills and notices enter their queues (R228, R231, R232, R234, R235) -/

section
variable {s : State}

/-- The registers that the queues' displays write. -/
def queueRegs : List Nat := [Reg.GD_QDEPTH_01_P0.addr, Reg.GD_QDEPTH_23_P2.addr, Reg.GD_QDEPTH_45_P4.addr, Reg.GD_QDEPTH_67_P6.addr,
  Reg.GD_STATUS_SPILL.addr, Reg.GD_HOLDS_SPILLS.addr]

theorem qdepthF_mem (q : Nat) : (qdepthF q).addr ∈ queueRegs := by
  unfold qdepthF
  split <;> decide

theorem State.regsBut_showQ (s : State) (q : Nat) : s.regsBut queueRegs (s.showQ q) := by
  unfold State.showQ
  extract_lets d a b c
  have h : s.regsBut queueRegs c := (((State.regsBut.refl queueRegs s).setF d (qdepthF_mem q)).setF (x := Reg.GD_STATUS_SPILL) _ (by decide)).setF
    (x := Reg.GD_STATUS_HOLDING) _ (by decide)
  exact h.keep rfl

theorem State.regsBut_enqueue (s : State) (n p q : Nat) : s.regsBut queueRegs (s.enqueue n p q) := by
  unfold State.enqueue
  extract_lets r
  have h : s.regsBut queueRegs { s with gd := r } := (State.regsBut.refl queueRegs s).keep rfl
  exact h.trans (State.regsBut_showQ _ q)

theorem State.regsBut_createOp (s : State) (n : Nat) (nd : Node) : s.regsBut queueRegs (s.createOp n nd) := by
  unfold State.createOp
  extract_lets p gd a gd' c
  have ha : s.regsBut queueRegs a := (State.regsBut.refl queueRegs s).keep rfl
  have hc : s.regsBut queueRegs c := (State.regsBut.refl queueRegs s).keep rfl
  clear_value c gd'
  split
  · exact ha.trans (State.regsBut_enqueue _ _ _ _)
  · have bumped : s.regsBut queueRegs ((c.bump Reg.GD_HOLDS_SPILLS).obsPrio nd.prio (fun o => { o with spills := o.spills + 1 })) :=
      (hc.bump (x := Reg.GD_HOLDS_SPILLS) 1 (by decide)).keep rfl
    exact bumped.trans (State.regsBut_showQ _ _)

/-- What a node's readiness asks of the dispatcher, besides the operations under way (R226, R232). -/
def DispSt.asked (r : DispSt) : Tbl Nat × Nat × List (Nat × Notice) := (r.next, r.decided, r.held)

theorem State.asked_showQ (s : State) (q : Nat) : (s.showQ q).gd.asked = s.gd.asked := s.gd_showQ DispSt.asked (fun _ _ => rfl) q

theorem State.busy_showQ (s : State) (q : Nat) : (s.showQ q).gd.busy = s.gd.busy := s.gd_showQ DispSt.busy (fun _ _ => rfl) q

theorem State.asked_createOp (s : State) (n : Nat) (nd : Node) : (s.createOp n nd).gd.asked = s.gd.asked := by
  unfold State.createOp
  extract_lets p gd a gd' c
  split
  · exact (State.asked_showQ _ _).trans rfl
  · have bumped : ((c.bump Reg.GD_HOLDS_SPILLS).obsPrio nd.prio (fun o => { o with spills := o.spills + 1 })).gd.asked = c.gd.asked := by
      show (c.bump Reg.GD_HOLDS_SPILLS).gd.asked = _
      rw [State.bump_gd]
    exact (State.asked_showQ _ _).trans (bumped.trans rfl)

theorem State.eq_but_queues {t : State} (h : State.only [.regs, .gd] s t) : t = { s with regs := t.regs, gd := t.gd } := by
  obtain ⟨pending, same⟩ := h
  have tree : t.tree = s.tree := same .tree rfl
  have time : t.time = s.time := same .time rfl
  have lx : t.lx = s.lx := same .lx rfl
  have ts : t.ts = s.ts := same .ts rfl
  have ebm : t.ebm = s.ebm := same .ebm rfl
  have bus : t.bus = s.bus := same .bus rfl
  have qe : t.qe = s.qe := same .qe rfl
  have bm : t.bm = s.bm := same .bm rfl
  have xb : t.xb = s.xb := same .xb rfl
  have fn : t.fn = s.fn := same .fn rfl
  have mre : t.mre = s.mre := same .mre rfl
  have sv : t.sv = s.sv := same .sv rfl
  have pu : t.pu = s.pu := same .pu rfl
  have pm : t.pm = s.pm := same .pm rfl
  have ck : t.ck = s.ck := same .ck rfl
  have free : t.free = s.free := same .free rfl
  have out : t.out = s.out := same .out rfl
  rw [← pending, ← tree, ← time, ← lx, ← ts, ← ebm, ← bus, ← qe, ← bm, ← xb, ← fn, ← mre, ← sv, ← pu, ← pm, ← ck, ← free, ← out]

/-- A node that is not under way is as ready as before an operation of another node. -/
theorem State.ready_of_asked {t : State} (moves : Moves [.regs, .gd] s t) (regs : s.regsBut queueRegs t) (asked : t.gd.asked = s.gd.asked)
    {n : Nat} {nd : Node} (free : s.ready n nd = true) (idle : t.gd.busy.contains n = false) : t.ready n nd = true := by
  obtain ⟨next, decided, held⟩ : t.gd.next = s.gd.next ∧ t.gd.decided = s.gd.decided ∧ t.gd.held = s.gd.held :=
    ⟨congrArg Prod.fst asked, congrArg (fun x => x.2.1) asked, congrArg (fun x => x.2.2) asked⟩
  have eq := State.eq_but_queues moves.only
  have p0 : t.flag Reg.MRE_STATUS_P0_ONLY = s.flag Reg.MRE_STATUS_P0_ONLY := regs.flag (by decide)
  have runs (m : Node) : t.runs m = s.runs m := by rw [State.runs, State.p0Only, p0, State.runs, State.p0Only]
  have node (m : Nat) : t.node m = s.node m := by rw [State.node, moves.mre_eq (by decide), State.node]
  have next (m : Nat) : t.next m = s.next m := by rw [State.next, next, State.next]
  have passed (m p : Nat) : t.passed m p = s.passed m p := by
    unfold State.passed
    simp only [node, runs, next]
  have waitsFor : t.waitsFor nd = s.waitsFor nd := by
    unfold State.waitsFor State.toneOf State.genMode
    rw [moves.mre_eq (by decide)]
  have sched (ep : EpRef) (p : Nat) : t.srcSched ep p = s.srcSched ep p := by
    exact (congrArg (fun u => u.srcSched ep p) eq).trans rfl
  have block (ep : EpRef) (p : Nat) : t.srcBlock ep p = s.srcBlock ep p := by
    exact (congrArg (fun u => u.srcBlock ep p) eq).trans rfl
  have dec (ep : EpRef) (p : Nat) : t.decided ep p = s.decided ep p := by
    unfold State.decided
    rw [sched, decided]
    simp only [block]
  unfold State.ready at free ⊢
  rw [next, moves.mre_eq (by decide), moves.mfN_eq (by decide), waitsFor, runs, idle, held]
  simp only [passed, dec]
  simp only [Bool.and_eq_true] at free ⊢
  obtain ⟨⟨⟨⟨⟨on, run⟩, _⟩, due⟩, all⟩, kind⟩ := free
  exact ⟨⟨⟨⟨⟨on, run⟩, rfl⟩, due⟩, all⟩, kind⟩

/-! ## OPERATION_DISPATCH (R233 to R235) -/

/-- What a dispatch decides: what waits, what runs where, and where each node last ran. -/
def State.placed (s : State) : List OpRec × Tbl (Option RunRec) × Tbl (Option Nat) := (s.gd.queue, s.gd.gpes, s.gd.last)

theorem State.placed_showQ (s : State) (q : Nat) : (s.showQ q).placed = s.placed := s.gd_showQ (fun r => (r.queue, r.gpes, r.last)) (fun _ _ => rfl) q

theorem State.placed_showRelease (s : State) : s.showRelease.placed = s.placed :=
  s.gd_showRelease (fun r => (r.queue, r.gpes, r.last)) (fun _ _ => rfl)

theorem State.placed_dispatch (s : State) (g : Nat) (o : OpRec) : (s.dispatch g o).placed =
    (removeFirst (fun x => x == o) s.gd.queue, Tbl.set (fun _ => none) s.gd.gpes g (some ⟨o.node, o.pass, none⟩),
      Tbl.set (fun _ => none) s.gd.last o.node (some g)) := by
  unfold State.dispatch
  extract_lets hit need gd a b gd' c d e f h
  have hc : c.placed = (removeFirst (fun x => x == o) s.gd.queue, Tbl.set (fun _ => none) s.gd.gpes g (some ⟨o.node, o.pass, none⟩),
      Tbl.set (fun _ => none) s.gd.last o.node (some g)) := rfl
  have hd : d.placed = c.placed := by
    have moves : Moves [.regs] c d := .ite (fun _ => State.bump_moves (.refl _ c) (by decide)) (fun _ => State.bump_moves (.refl _ c) (by decide))
    rw [State.placed, moves.gd_eq (by decide), State.placed]
  have hf : f.placed = d.placed := by
    simp only [f]
    split <;> rfl
  have hh : h.placed = f.placed := by
    simp only [h]
    split
    · split
      · exact (State.placed_showRelease _).trans rfl
      · rfl
    · rfl
  rw [State.placed_showQ, hh, hf, hd, hc]

theorem State.claim_empty (g : Nat) (h : s.gd.queue = []) : s.claim g = none := by
  rw [State.claim, h]
  rfl

/-- With one operation queued and a free release entry, a GPE claims it when it is eligible (R233, R235). -/
theorem State.claim_one {o : OpRec} (g : Nat) (queue : s.gd.queue = [o]) (entries : s.releaseUsed < 8192) :
    s.claim g = if s.eligible g o then some o else none := by
  have full : decide (8192 ≤ s.releaseUsed) = false := decide_eq_false (by omega)
  rw [State.claim, queue]
  simp only [full, Bool.false_and, Bool.not_false, Bool.and_true]
  cases e : s.eligible g o
  · rw [List.filter_cons_of_neg (by simp only [e]; decide)]
    rfl
  · rw [List.filter_cons_of_pos e]
    rfl

/-- The rounds end where nothing is queued. -/
theorem State.claimRounds_empty (h : s.gd.queue = []) (idle : List Nat) (k : Nat) : s.claimRounds idle k = s := by
  induction k generalizing idle with
  | zero => rfl
  | succ k ih =>
    have none' : idle.filterMap (fun g => (s.claim g).map (fun o => (g, o))) = [] := by
      rw [List.filterMap_eq_nil_iff]
      intro g _
      rw [s.claim_empty g h]
      rfl
    have round : (s.claimRound idle).1 = s := by
      rw [State.claimRound, none']
      rfl
    rw [State.claimRounds]
    split
    · rfl
    · show (s.claimRound idle).1.claimRounds (s.claimRound idle).2 k = s
      rw [round]
      exact ih _

/-- The GPE that one queued operation goes to: its last one, or else the lowest that may take it (R233 to R235). -/
def State.winner (s : State) (o : OpRec) (g : Nat) : Prop := s.lastGpe o.node = g ∨ s.waitOver o = true ∧ s.idleGpes.contains (s.lastGpe o.node) = false ∧
  s.idleGpes.find? (fun i => Machine.mayTake i o.prio) = some g

theorem State.idleGpes_sorted (s : State) : s.idleGpes.Pairwise (· < ·) := List.Pairwise.filter _ List.pairwise_lt_range

/-- The lowest idle GPE that may take an operation stands before every other. -/
theorem State.lowest {g i : Nat} {q : Nat} (h : s.idleGpes.find? (fun i => Machine.mayTake i q) = some g) (mem : i ∈ s.idleGpes) (may : Machine.mayTake i q = true) : g ≤ i := by
  obtain ⟨_, as, bs, eq, before⟩ := List.find?_eq_some_iff_append.mp h
  have sorted := s.idleGpes_sorted
  rw [eq] at sorted mem
  rcases List.mem_append.mp mem with h | h
  · have := before i h
    rw [may] at this
    exact absurd this (by decide)
  · rcases List.mem_cons.mp h with rfl | h
    · exact Nat.le_refl _
    · exact Nat.le_of_lt ((List.pairwise_cons.mp (List.pairwise_append.mp sorted).2.1).1 i h)

/-- The claims of one queued operation. -/
theorem State.claims_one {o : OpRec} (queue : s.gd.queue = [o]) (entries : s.releaseUsed < 8192) (idle : List Nat) :
    idle.filterMap (fun g => (s.claim g).map (fun o => (g, o))) = (idle.filter (fun i => s.eligible i o)).map (fun i => (i, o)) := by
  induction idle with
  | nil => rfl
  | cons i idle ih =>
    rw [List.filterMap_cons, s.claim_one i queue entries]
    cases e : s.eligible i o
    · rw [List.filter_cons_of_neg (by rw [e]; decide)]
      exact ih
    · rw [List.filter_cons_of_pos (p := fun i => s.eligible i o) e, List.map_cons, ← ih]
      rfl

theorem filter_eq_singleton {l : List Nat} {g : Nat} (nodup : l.Nodup) (mem : g ∈ l) : l.filter (· == g) = [g] := by
  rw [List.filter_beq, List.count_eq_one_of_mem nodup mem]
  rfl

/-- Of the claims of one operation its last GPE's wins, or else the lowest (R235). -/
theorem State.claim_wins {o : OpRec} {g i : Nat} (win : s.winner o g) (among : g ∈ s.idleGpes.filter (fun i => s.eligible i o))
    (hi : i ∈ s.idleGpes.filter (fun i => s.eligible i o)) :
    (if ((s.idleGpes.filter (fun i => s.eligible i o)).map (fun i => (i, o))).any (fun y => y.2 == o && y.1 == s.lastGpe o.node) then
        i == s.lastGpe o.node
      else !((s.idleGpes.filter (fun i => s.eligible i o)).map (fun i => (i, o))).any (fun y => y.2 == o && decide (y.1 < i))) = (i == g) := by
  simp only [List.any_map, Function.comp_def, beq_self_eq_true, Bool.true_and]
  rcases win with last | ⟨wait, busy, lowest⟩
  · rw [last, if_pos (List.any_eq_true (p := fun x => x == g) |>.mpr ⟨g, among, beq_self_eq_true g⟩)]
  · have noLast : ¬ (s.idleGpes.filter (fun i => s.eligible i o)).any (fun x => x == s.lastGpe o.node) = true := by
      intro h
      obtain ⟨j, hj, e⟩ := List.any_eq_true.mp h
      rw [← eq_of_beq e, List.contains_iff_mem.mpr (List.mem_filter.mp hj).1] at busy
      exact absurd busy (by decide)
    have least {j : Nat} (hj : j ∈ s.idleGpes.filter (fun i => s.eligible i o)) : g ≤ j := by
      obtain ⟨mem, elig⟩ := List.mem_filter.mp hj
      exact State.lowest lowest mem (Bool.and_eq_true_iff.mp elig).1
    rw [if_neg noLast, Bool.eq_iff_iff, Bool.not_eq_true', List.any_eq_false, beq_iff_eq]
    constructor
    · intro h
      exact Nat.le_antisymm (Nat.le_of_not_lt (fun lt => h g among (decide_eq_true lt))) (least hi)
    · rintro rfl j hj lt
      exact absurd (least hj) (Nat.not_le_of_lt (of_decide_eq_true lt))

/-- The claim that the operation goes to (R235). -/
theorem State.claimRound_one {o : OpRec} {g : Nat} (queue : s.gd.queue = [o]) (entries : s.releaseUsed < 8192) (idle : s.idleGpes.contains g = true)
    (may : Machine.mayTake g o.prio = true) (win : s.winner o g) : (s.claimRound s.idleGpes).1 = s.dispatch g o := by
  have mem : g ∈ s.idleGpes := List.contains_iff_mem.mp idle
  have eligible : s.eligible g o = true := by
    rw [State.eligible, may, Bool.true_and, Bool.or_eq_true, beq_iff_eq]
    exact win.imp id (fun h => h.1)
  have among : g ∈ s.idleGpes.filter (fun i => s.eligible i o) := List.mem_filter.mpr ⟨mem, eligible⟩
  have nodup : (s.idleGpes.filter (fun i => s.eligible i o)).Nodup := (s.idleGpes_sorted.imp Nat.ne_of_lt).filter _
  unfold State.claimRound
  extract_lets claims wins
  have hc : claims = (s.idleGpes.filter (fun i => s.eligible i o)).map (fun i => (i, o)) := s.claims_one queue entries _
  have hw : wins = [(g, o)] := by
    simp only [wins]
    rw [hc, List.filter_map, List.filter_congr (q := (· == g)), filter_eq_singleton nodup among]
    · rfl
    · intro i hi
      exact State.claim_wins win among hi
  show wins.foldl _ s = _
  rw [hw, List.foldl_cons, List.foldl_nil, decide_eq_false (by omega)]
  rfl

theorem operationDispatch_spec (o : OpRec) (g : Nat) (queue : s.gd.queue = [o]) (entries : s.releaseUsed < 8192) (idle : s.idleGpes.contains g = true)
    (may : mayTake g o.prio = true) (win : s.winner o g) :
    answers .operationDispatch s (fun t => t.gd.queue = [] ∧ t.run g = some ⟨o.node, o.pass, none⟩ ∧ t.lastGpe o.node = g) := by
  have placed := s.placed_dispatch g o
  rw [queue, removeFirst, if_pos (by rw [beq_iff_eq])] at placed
  obtain ⟨left, run, last⟩ : (s.dispatch g o).gd.queue = [] ∧ (s.dispatch g o).gd.gpes = Tbl.set (fun _ => none) s.gd.gpes g (some ⟨o.node, o.pass, none⟩) ∧
      (s.dispatch g o).gd.last = Tbl.set (fun _ => none) s.gd.last o.node (some g) :=
    ⟨congrArg Prod.fst placed, congrArg (fun x => x.2.1) placed, congrArg (fun x => x.2.2) placed⟩
  have rounds : s.claimRounds s.idleGpes 64 = s.dispatch g o := by
    have some' : s.idleGpes.isEmpty = false := by
      rw [List.isEmpty_eq_false_iff_exists_mem]
      exact ⟨g, List.contains_iff_mem.mp idle⟩
    rw [State.claimRounds, some', if_neg (by decide)]
    show (s.claimRound s.idleGpes).1.claimRounds (s.claimRound s.idleGpes).2 63 = _
    rw [State.claimRound_one queue entries idle may win]
    exact State.claimRounds_empty left _ _
  obtain ⟨x, eq⟩ : ∃ x : ObsWin → ObsWin, s.dispatchAll = (s.dispatch g o).obsUpd x ∨ s.dispatchAll = s.dispatch g o := by
    rw [State.dispatchAll, rounds]
    split
    · exact ⟨_, .inl rfl⟩
    · exact ⟨id, .inr rfl⟩
  have rest : s.dispatchAll.gd.queue = [] ∧ s.dispatchAll.gd.gpes = (s.dispatch g o).gd.gpes ∧ s.dispatchAll.gd.last = (s.dispatch g o).gd.last := by
    rcases eq with eq | eq
    · rw [eq]
      exact ⟨left, rfl, rfl⟩
    · rw [eq]
      exact ⟨left, rfl, rfl⟩
  obtain ⟨hq, hr, hl⟩ := rest
  refine answers_eq rfl rfl ⟨hq, ?_, ?_⟩
  · rw [State.run, hr, run, Tbl.get_set_same]
  · rw [State.lastGpe, hl, last, Tbl.get_set_same]

/-! ## AFFINITY_WAIT_EXPIRY and SPILL_MOVE (R231, R234) -/

theorem affinityWaitExpiry_spec (n : Nat) : answers (.affinityWaitExpiry n) s (fun t => t.regs = s.regs ∧
    t.gd = { s.gd with queue := s.gd.queue.map (fun o => if o.node = n then { o with waited := true } else o) }) :=
  answers_eq rfl rfl ⟨rfl, rfl⟩

/-- The queue and the spill map. -/
def State.queued (s : State) : List OpRec × List (Nat × Nat) := (s.gd.queue, s.gd.spills)

theorem State.queued_enqueue (s : State) (n p q : Nat) : (s.enqueue n p q).queued = (s.gd.queue ++ [⟨n, p, q, s.waitOver ⟨n, p, q, false⟩⟩], s.gd.spills) :=
  (State.gd_showQ (fun r => (r.queue, r.spills)) (fun _ _ => rfl) _ q).trans rfl

theorem spillMove_spec (q : Prio) (x : Nat × Nat) (spills : s.gd.spills = [x]) (prio : s.prioOf x.1 = q.val) (room : s.depth q.val < 4096) :
    answers (.spillMove q) s (fun t =>
      t.gd.spills = [] ∧ t.gd.queue = s.gd.queue ++ [⟨x.1, x.2, q.val, s.waitOver ⟨x.1, x.2, q.val, false⟩⟩]) := by
  have found : s.gd.spills.find? (fun x => s.prioOf x.1 == q.val) = some x := by
    rw [spills, List.find?_cons_of_pos (by rw [beq_iff_eq]; exact prio)]
  have gone : removeFirst (fun y => y == x) s.gd.spills = [] := by
    rw [spills, removeFirst, if_pos (beq_self_eq_true x)]
  have moved : s.unspill q.val s.gd.spills.length = State.enqueue { s with gd := { s.gd with spills := [] } } x.1 x.2 q.val := by
    rw [spills, List.length_singleton, State.unspill, if_pos room, found]
    simp only [gone]
    rfl
  have waiting := State.queued_enqueue { s with gd := { s.gd with spills := [] } } x.1 x.2 q.val
  exact answers_eq rfl moved ⟨congrArg Prod.snd waiting, congrArg Prod.fst waiting⟩

/-! ## HELD_NOTICE_ENTER and CLIP_REFILL_NOTICE (R232) -/

/-- The state without the oldest notice held for a queue. -/
def State.unheld (s : State) (q : Nat) (v : Notice) : State := { s with gd := { s.gd with held := removeFirst (fun y => y == (q, v)) s.gd.held } }

theorem State.enterNotice_clip (s : State) (q g : Nat) : (s.enterNotice q (.clip g)).gd.held = (s.unheld q (.clip g)).gd.held ∧
    (s.enterNotice q (.clip g)).gen g = { s.gen g with clips := (s.gen g).clips.map (fun c => { c with ready := c.filled }), noticed := false } := by
  have held := (State.gd_showQ DispSt.held (fun _ _ => rfl) (s.unheld q (.clip g)) q)
  have mre : ((s.unheld q (.clip g)).showQ q).mre = s.mre := (State.showQ_moves (.refl [.regs, .gd] (s.unheld q (.clip g))) (by decide)).mre_eq (by decide)
  have eq : s.enterNotice q (.clip g) = ((s.unheld q (.clip g)).showQ q).countFilled g := rfl
  rw [eq]
  generalize (s.unheld q (.clip g)).showQ q = u at held mre ⊢
  have gen : u.gen g = s.gen g := by rw [State.gen, mre, State.gen]
  refine ⟨held, ?_⟩
  rw [← gen]
  exact Tbl.get_set_same _ _ _

/-- The readers of a block whose operations the notice creates, and what they leave. -/
def State.blockEntered (s : State) (q : Nat) (l : List (Nat × Node)) : State :=
  l.foldl (fun s x => if s.accepts q && s.ready x.1 x.2 then s.createOp x.1 x.2 else s) s

theorem State.enterNotice_block (s : State) (q h : Nat) : ∃ u, u = (s.unheld q (.block h)).showQ q ∧ ∃ w,
    w = u.blockEntered q ((u.readers h).filter (fun x => x.2.prio == q)) ∧ s.enterNotice q (.block h) =
      if ((u.readers h).filter (fun x => x.2.prio == q)).any (fun x => w.ready x.1 x.2) then
        State.showQ { w with gd := { w.gd with held := (q, .block h) :: w.gd.held } } q
      else w := ⟨_, rfl, _, rfl, rfl⟩

theorem State.blockEntered_moves (q : Nat) (l : List (Nat × Node)) : Moves [.regs, .gd] s (s.blockEntered q l) :=
  .foldl (.refl _ s) (fun _ _ h => .ite (fun _ => State.createOp_moves h (by decide)) (fun _ => h))

theorem State.blockEntered_regs (q : Nat) (l : List (Nat × Node)) : s.regsBut queueRegs (s.blockEntered q l) :=
  .foldl l (.refl _ s) (fun u _ h => h.trans (.ite (fun _ => u.regsBut_createOp _ _) (fun _ => .refl _ u)))

theorem State.blockEntered_asked (q : Nat) (l : List (Nat × Node)) : (s.blockEntered q l).gd.asked = s.gd.asked :=
  State.foldl_eq (p := fun u => u.gd.asked) (fun u x => by split; exacts [u.asked_createOp _ _, rfl]) l

/-- A held block is taken by every reader that is ready, or it is held again. -/
theorem State.enterNotice_taken (s : State) (q h : Nat) :
    ((s.enterNotice q (.block h)).gd.held = (s.unheld q (.block h)).gd.held ∨
      (s.enterNotice q (.block h)).gd.held = (q, .block h) :: (s.unheld q (.block h)).gd.held) ∧
    ∀ x ∈ s.readers h, x.2.prio = q → (s.unheld q (.block h)).ready x.1 x.2 = true →
      (s.enterNotice q (.block h)).gd.busy.contains x.1 = true ∨
        (s.enterNotice q (.block h)).gd.held = (q, .block h) :: (s.unheld q (.block h)).gd.held := by
  obtain ⟨u, hu, w, hw, eq⟩ := s.enterNotice_block q h
  have shown : Moves [.regs, .gd] (s.unheld q (.block h)) u := by
    rw [hu]
    exact State.showQ_moves (.refl _ _) (by decide)
  have readers : u.readers h = s.readers h := by rw [State.readers, State.nodes, shown.mre_eq (by decide)]; rfl
  have asked : w.gd.asked = (s.unheld q (.block h)).gd.asked := by
    rw [hw, State.blockEntered_asked, hu, State.asked_showQ]
  have held : w.gd.held = (s.unheld q (.block h)).gd.held := congrArg (fun x => x.2.2) asked
  have regs : (s.unheld q (.block h)).regsBut queueRegs w := by
    rw [hw]
    refine State.regsBut.trans ?_ (State.blockEntered_regs q _)
    rw [hu]
    exact State.regsBut_showQ _ q
  have moves : Moves [.regs, .gd] (s.unheld q (.block h)) w := by
    rw [hw]
    exact shown.trans (State.blockEntered_moves q _)
  rw [eq]
  clear hu hw eq
  split
  next again =>
    have back : (State.showQ { w with gd := { w.gd with held := (q, .block h) :: w.gd.held } } q).gd.held = (q, .block h) :: (s.unheld q (.block h)).gd.held := by
      rw [State.gd_showQ DispSt.held (fun _ _ => rfl), ← held]
    exact ⟨.inr back, fun _ _ _ _ => .inr back⟩
  next all =>
    refine ⟨.inl held, fun x mem prio ready => .inl ?_⟩
    by_contra idle
    refine all (List.any_eq_true.mpr ⟨x, List.mem_filter.mpr ⟨?_, by rw [prio]; exact beq_self_eq_true q⟩, ?_⟩)
    · rw [readers]
      exact mem
    · exact State.ready_of_asked moves regs asked ready (Bool.eq_false_iff.mpr idle)

theorem heldNoticeEnter_spec (q : Prio) (v : Notice) (room : s.accepts q.val = true) (found : s.gd.held.find? (fun x => x.1 == q.val) = some (q.val, v)) :
    answers (.heldNoticeEnter q) s (fun t =>
      (∀ g, v = .clip g → t.gd.held = (s.unheld q.val v).gd.held ∧ t.gen g =
        { s.gen g with clips := (s.gen g).clips.map (fun c => { c with ready := c.filled }), noticed := false }) ∧
      (∀ h, v = .block h → (t.gd.held = (s.unheld q.val v).gd.held ∨ t.gd.held = (q.val, v) :: (s.unheld q.val v).gd.held) ∧
        ∀ x ∈ s.readers h, x.2.prio = q.val → (s.unheld q.val v).ready x.1 x.2 = true →
          t.gd.busy.contains x.1 = true ∨ t.gd.held = (q.val, v) :: (s.unheld q.val v).gd.held)) := by
  have eq : s.heldEnter q.val = s.enterNotice q.val v := by
    rw [State.heldEnter, if_pos room, found]
  refine answers_eq rfl eq ⟨?_, ?_⟩
  · rintro g rfl
    exact s.enterNotice_clip q.val g
  · rintro h rfl
    exact s.enterNotice_taken q.val h

theorem State.holdNotice_holds (s : State) (q : Nat) (v : Notice) : (s.holdNotice q v).gd.held.contains (q, v) = true ∧ (s.holdNotice q v).mre = s.mre := by
  unfold State.holdNotice
  split
  · exact ⟨‹_›, rfl⟩
  · extract_lets gd a
    have ha : a.gd.held.contains (q, v) = true := by
      rw [List.contains_iff_mem]
      exact List.mem_append_right _ List.mem_cons_self
    have mre : a.mre = s.mre := rfl
    clear_value a
    constructor
    · rw [State.gd_showQ DispSt.held (fun _ _ => rfl)]
      show (a.bump Reg.GD_HOLDS_NOTICE_HOLDS).gd.held.contains (q, v) = true
      rw [State.bump_gd]
      exact ha
    · rw [← mre]
      have moves : Moves [.regs, .gd] a (((a.bump Reg.GD_HOLDS_NOTICE_HOLDS).obsPrio q (fun o => { o with holds := o.holds + 1 })).showQ q) :=
        State.showQ_moves (State.obsPrio_moves (State.bump_moves (.refl _ a) (by decide)) (by decide)) (by decide)
      exact moves.mre_eq (by decide)

theorem clipRefillNotice_spec (g : Fin 256) (fresh : (s.gen g.val).noticed = false) (unread : (s.gen g.val).clips.all (fun c => c.ready == c.filled) = false) :
    answers (.clipRefillNotice g) s (fun t => if s.accepts (s.genPrio g.val) then
        t.gen g.val = { s.gen g.val with clips := (s.gen g.val).clips.map (fun c => { c with ready := c.filled }), noticed := false }
      else t.gd.held.contains (s.genPrio g.val, .clip g.val) = true ∧ t.gen g.val = { s.gen g.val with noticed := true }) := by
  have own : (s.setGen g.val { s.gen g.val with noticed := true }).gen g.val = { s.gen g.val with noticed := true } := Tbl.get_set_same _ _ _
  have eq : s.refillNotice g.val = (s.setGen g.val { s.gen g.val with noticed := true }).clipNotice g.val := by
    rw [State.refillNotice, fresh, unread, if_neg (by decide)]
  have same : (s.setGen g.val { s.gen g.val with noticed := true }).clipNotice g.val = if s.accepts (s.genPrio g.val) then
      (s.setGen g.val { s.gen g.val with noticed := true }).countFilled g.val
    else (s.setGen g.val { s.gen g.val with noticed := true }).holdNotice (s.genPrio g.val) (.clip g.val) := rfl
  refine answers_eq rfl (eq.trans same) ?_
  split
  · rw [State.countFilled, own]
    exact Tbl.get_set_same _ _ _
  · obtain ⟨held, mre⟩ := (s.setGen g.val { s.gen g.val with noticed := true }).holdNotice_holds (s.genPrio g.val) (.clip g.val)
    refine ⟨held, ?_⟩
    rw [State.gen, mre]
    exact own

end

/-- Settles O16: a dispatch goes through the rounds of claims; a completion through its stages, which leave its node's result and its next pass;
and a held block is either taken by every reader that is ready, or held again. -/
theorem operationsRunThroughTheirQueues : Obligations.OperationsRunThroughTheirQueues := by
  unfold Obligations.OperationsRunThroughTheirQueues
  intro s
  exact ⟨fun o g => operationDispatch_spec o g, affinityWaitExpiry_spec, operationComplete_spec, operationComplete_queue, operationComplete_ebm,
    spillMove_spec, heldNoticeEnter_spec, clipRefillNotice_spec⟩

end Sys2Proof.Machine

namespace Sys2Proof.Machine

/-! # Timers fire (R240 to R244) -/

section
variable {s : State} {seq : Nat} {tm : TimerRec} {k : TimerKind}

/-- A timer stands in its list and may fire (R240, R244). -/
structure State.TimerReady (s : State) (seq : Nat) (k : TimerKind) (tm : TimerRec) : Prop where
  found : s.gd.timers.find? (fun t => t.seq == seq && t.kind == k) = some tm
  expired : tm.e ≤ s.mfN + 1
  ticks : s.inSatin = false ∨ tm.prio = 0

theorem State.TimerReady.due (h : s.TimerReady seq k tm) : s.timerDue tm = true := by
  rw [State.timerDue, decide_eq_true h.expired, Bool.true_and, Bool.or_eq_true, Bool.not_eq_true', beq_iff_eq]
  exact h.ticks

/-- What a timer that fires leaves: its list without it, at its tick, and the count of late ones. -/
structure State.Fired (s : State) (seq : Nat) (tm : TimerRec) (atOnce : Bool) (u : State) : Prop where
  moves : Moves [.time, .regs, .gd] s u
  timers : u.gd.timers = s.gd.timers.filter (fun x => x.seq != seq)
  timerSeq : u.gd.timerSeq = s.gd.timerSeq
  tick : u.gd.tick = if atOnce then s.gd.tick else (s.mfN, s.tickFired + 1)
  time : u.time = if atOnce then s.time else (s.advanceTo Config.fillTick).time
  late : u.f Reg.GD_TIMER_LATE_COUNT = if !atOnce && decide (tm.e < s.mfN + 1) then min (s.f Reg.GD_TIMER_LATE_COUNT + 1) 0xFFFFFFFF
    else s.f Reg.GD_TIMER_LATE_COUNT

/-- The tick of the lists at which a timer fires (R240). -/
def State.ticked (s : State) (atOnce : Bool) (seq : Nat) : State :=
  let s' := if atOnce then s else { s.advanceTo Config.fillTick with gd := { (s.advanceTo Config.fillTick).gd with tick := (s.mfN, s.tickFired + 1) } }
  { s' with gd := { s'.gd with timers := s'.gd.timers.filter (fun x => x.seq != seq) } }

theorem State.ticked_spec (s : State) (atOnce : Bool) (seq : Nat) : Moves [.time, .gd] s (s.ticked atOnce seq) ∧
    (s.ticked atOnce seq).gd = { s.gd with timers := s.gd.timers.filter (fun x => x.seq != seq), tick := if atOnce then s.gd.tick else (s.mfN, s.tickFired + 1) } ∧
    (s.ticked atOnce seq).time = (if atOnce then s.time else (s.advanceTo Config.fillTick).time) := by
  have gd : (s.advanceTo Config.fillTick).gd = s.gd := (State.advanceTo_keeps _).gd_eq (by decide)
  have on : Moves [.time, .gd] s (s.advanceTo Config.fillTick) := State.advanceTo_moves (.refl _ s) (by decide)
  cases atOnce
  · refine ⟨.gd (.gd on (by decide) _) (by decide) _, ?_, rfl⟩
    show ({ (s.advanceTo Config.fillTick).gd with timers := (s.advanceTo Config.fillTick).gd.timers.filter (fun x => x.seq != seq), tick := (s.mfN, s.tickFired + 1) } : DispSt) = _
    rw [gd]
    rfl
  · exact ⟨.gd (.refl _ s) (by decide) _, rfl, rfl⟩

theorem State.gd_showTimers {α : Type} (p : DispSt → α) (hp : ∀ (r : DispSt) o, p { r with obs := o } = p r) (s : State) : p s.showTimers.gd = p s.gd := by
  rw [State.showTimers, State.obsUpd, hp, State.setF_gd]

theorem State.gd_obsUpd {α : Type} (p : DispSt → α) (hp : ∀ (r : DispSt) o, p { r with obs := o } = p r) (s : State) (g : ObsWin → ObsWin) :
    p (s.obsUpd g).gd = p s.gd := hp _ _

/-- A timer that fires is counted. -/
def State.timerCounted (s : State) (late : Bool) : State :=
  (s.showTimers.when late (fun s => s.bump Reg.GD_TIMER_LATE_COUNT)).obsUpd (fun o => { o with fired := o.fired + 1, late := o.late + b2n late })

theorem State.timerCounted_spec (s : State) (late : Bool) : Moves [.regs, .gd] s (s.timerCounted late) ∧
    (s.timerCounted late).f Reg.GD_TIMER_LATE_COUNT = (if late then min (s.f Reg.GD_TIMER_LATE_COUNT + 1) 0xFFFFFFFF else s.f Reg.GD_TIMER_LATE_COUNT) ∧
    ∀ {α : Type} (p : DispSt → α), (∀ (r : DispSt) o, p { r with obs := o } = p r) → p (s.timerCounted late).gd = p s.gd := by
  have shown : s.showTimers.f Reg.GD_TIMER_LATE_COUNT = s.f Reg.GD_TIMER_LATE_COUNT :=
    s.f_setF_apart (x := Reg.GD_TIMER_STATUS_USED) _ (by decide)
  have moves : Moves [.regs, .gd] s s.showTimers := State.showTimers_moves (.refl _ s) (by decide)
  have gd {α : Type} (p : DispSt → α) (hp : ∀ (r : DispSt) o, p { r with obs := o } = p r) : p s.showTimers.gd = p s.gd := s.gd_showTimers p hp
  unfold State.timerCounted
  generalize s.showTimers = u at shown moves gd ⊢
  have bumped : (u.bump Reg.GD_TIMER_LATE_COUNT).f Reg.GD_TIMER_LATE_COUNT = min (u.f Reg.GD_TIMER_LATE_COUNT + 1) 0xFFFFFFFF := u.f_bump_same 1 rfl
  refine ⟨State.obsUpd_moves (State.when_moves moves (fun _ h => State.bump_moves h (by decide))) (by decide), ?_, fun p hp => ?_⟩
  · rw [State.f_of_regs (State.obsUpd_regs _ _), State.when, ← shown, ← bumped]
    split <;> rfl
  · rw [State.gd_obsUpd p hp, ← gd p hp, State.when]
    split
    · rw [State.bump_gd]
    · rfl

theorem State.fireTimer_fires (h : s.TimerReady seq k tm) (turn : s.slotNowDue tm = false → s.timerTurn tm = true ∧ s.tickFired < 1024) :
    ∃ u, s.fireTimer seq k = some (u, tm) ∧ s.Fired seq tm (s.slotNowDue tm) u := by
  obtain ⟨hm, hgd, htime⟩ := s.ticked_spec (s.slotNowDue tm) seq
  obtain ⟨cm, cf, cgd⟩ := (s.ticked (s.slotNowDue tm) seq).timerCounted_spec (!s.slotNowDue tm && decide (tm.e < s.mfN + 1))
  refine ⟨(s.ticked (s.slotNowDue tm) seq).timerCounted (!s.slotNowDue tm && decide (tm.e < s.mfN + 1)), ?_, ?_⟩
  · have may : ¬ (s.timerDue tm = false ∨ (s.slotNowDue tm = false ∧ (s.timerTurn tm = false ∨ 1024 ≤ s.tickFired))) := by
      rw [h.due]
      rintro (bad | ⟨at', bad⟩)
      · exact absurd bad (by decide)
      · obtain ⟨t, l⟩ := turn at'
        rw [t] at bad
        exact bad.elim (by decide) (by omega)
    have mf : (s.ticked (s.slotNowDue tm) seq).showTimers.mfN = s.mfN := by
      rw [(State.showTimers_moves (.refl [.regs, .gd] (s.ticked (s.slotNowDue tm) seq)) (by decide)).mfN_eq (by decide), State.mfN, htime]
      split
      · rfl
      · rw [(State.advanceTo_phase (s := s) Config.fillTick).2, State.mfN]
    have counted : some ((s.ticked (s.slotNowDue tm) seq).timerCounted
        (!s.slotNowDue tm && decide (tm.e < (s.ticked (s.slotNowDue tm) seq).showTimers.mfN + 1)), tm) =
        some ((s.ticked (s.slotNowDue tm) seq).timerCounted (!s.slotNowDue tm && decide (tm.e < s.mfN + 1)), tm) := by rw [mf]
    rw [State.fireTimer, h.found]
    exact (if_neg may).trans (Eq.trans rfl counted)
  · constructor
    · exact (hm.mono (by decide)).trans (cm.mono (by decide))
    · rw [cgd DispSt.timers (fun _ _ => rfl), hgd]
    · rw [cgd DispSt.timerSeq (fun _ _ => rfl), hgd]
    · rw [cgd DispSt.tick (fun _ _ => rfl), hgd]
    · rw [cm.time_eq (by decide), htime]
    · rw [cf, hm.f_eq (by decide)]

theorem State.fireTimer_waits (found : s.gd.timers.find? (fun t => t.seq == seq && t.kind == k) = some tm) (later : s.slotNowDue tm = false)
    (h : s.mfN + 1 < tm.e ∨ (s.inSatin = true ∧ tm.prio ≠ 0) ∨ s.timerTurn tm = false ∨ 1024 ≤ s.tickFired) : s.fireTimer seq k = none := by
  have wait : s.timerDue tm = false ∨ (s.slotNowDue tm = false ∧ (s.timerTurn tm = false ∨ 1024 ≤ s.tickFired)) := by
    rcases h with early | ⟨satin, low⟩ | rest
    · left
      rw [State.timerDue, decide_eq_false (by omega), Bool.false_and]
    · left
      rw [State.timerDue, satin, beq_false_of_ne low, Bool.not_true, Bool.or_self, Bool.and_false]
    · exact .inr ⟨later, rest⟩
  rw [State.fireTimer, found]
  exact if_pos wait

/-! ## Clip timers (R196, R241 to R243) -/

theorem State.slotNowDue_of_kind (found : s.gd.timers.find? (fun t => t.seq == seq && t.kind == k) = some tm) (other : (k == .sweepSlot) = false) :
    s.slotNowDue tm = false := by
  have kind := List.find?_some found
  simp only [Bool.and_eq_true, beq_iff_eq] at kind
  rw [State.slotNowDue, kind.2, other, Bool.false_and, Bool.false_and]

theorem State.Fired.mre {b : Bool} {u : State} (h : s.Fired seq tm b u) : u.mre = s.mre := h.moves.mre_eq (by decide)

theorem State.Fired.mfN {b : Bool} {u : State} (h : s.Fired seq tm b u) : u.mfN = s.mfN := by
  have := h.time
  rw [State.mfN, this, State.mfN]
  split
  · rfl
  · rw [(State.advanceTo_phase (s := s) Config.fillTick).2]

/-- A clip counts as playable once more. -/
def ClipRun.replayed (c : ClipRun) (tm : TimerRec) : ClipRun := if some c.ref = tm.ref then { c with playable := c.playable + 1, lastE := tm.e } else c

theorem ClipRun.replayed_keeps (c : ClipRun) (tm : TimerRec) : (c.replayed tm).ref = c.ref ∧ (c.replayed tm).repeats = c.repeats ∧ (c.replayed tm).repeatMf = c.repeatMf := by
  unfold ClipRun.replayed
  split <;> exact ⟨rfl, rfl, rfl⟩

theorem State.playable_gen (s : State) (tm : TimerRec) : ((s.playable tm).gen tm.owner).clips = (s.gen tm.owner).clips.map (·.replayed tm) :=
  congrArg GenSt.clips (Tbl.get_set_same s.mre.gens tm.owner _)

theorem clipStartTimer_spec (h : s.TimerReady seq .clipStart tm) (turn : s.timerTurn tm = true) (room : s.tickFired < 1024) :
    answers (.clipStartTimer seq) s (fun t => (t.gd.timers = s.gd.timers.filter (fun x => x.seq != seq) ∧
      (t.gen tm.owner).clips = (s.gen tm.owner).clips.map (·.replayed tm) ∧
      t.f Reg.GD_TIMER_LATE_COUNT = if tm.e < s.mfN + 1 then min (s.f Reg.GD_TIMER_LATE_COUNT + 1) 0xFFFFFFFF else s.f Reg.GD_TIMER_LATE_COUNT) ∧
      t.gd.tick = (s.mfN, s.tickFired + 1) ∧ t.time = (s.advanceTo Config.fillTick).time) := by
  obtain ⟨u, fires, fired⟩ := State.fireTimer_fires h (fun _ => ⟨turn, room⟩)
  rw [State.slotNowDue_of_kind h.found rfl] at fired
  have eq : s.clipStartFire seq = u.playable tm := by rw [State.clipStartFire, fires]
  have late := fired.late
  rw [Bool.not_false, Bool.true_and] at late
  simp only [decide_eq_true_eq] at late
  refine answers_eq rfl eq ⟨⟨fired.timers, ?_, late⟩, fired.tick, fired.time⟩
  rw [State.playable_gen, State.gen_of_mre fired.mre]

theorem clipStartTimer_waits (found : s.gd.timers.find? (fun t => t.seq == seq && t.kind == .clipStart) = some tm)
    (h : s.mfN + 1 < tm.e ∨ (s.inSatin = true ∧ tm.prio ≠ 0) ∨ s.timerTurn tm = false ∨ 1024 ≤ s.tickFired) :
    answers (.clipStartTimer seq) s (fun t => t = s) := by
  refine answers_eq rfl ?_ rfl
  rw [State.clipStartFire, State.fireTimer_waits found (State.slotNowDue_of_kind found rfl) h]

theorem State.genPrio_of_mre {t : State} (h : t.mre = s.mre) (g : Nat) : t.genPrio g = s.genPrio g := by
  rw [State.genPrio, State.nodes, h, State.genPrio, State.nodes]

theorem find_replayed {l : List ClipRun} {r : Option EntryRef} {c : ClipRun} (tm : TimerRec) (h : l.find? (fun c => some c.ref == r) = some c) :
    (l.map (·.replayed tm)).find? (fun c => some c.ref == r) = some (c.replayed tm) := by
  rw [List.find?_map]
  have same : ((fun c : ClipRun => some c.ref == r) ∘ fun c : ClipRun => c.replayed tm) = fun c => some c.ref == r := by
    funext d
    exact congrArg (fun x => some x == r) (d.replayed_keeps tm).1
  rw [same, h]
  rfl

theorem clipRepeatTimer_spec (c : ClipRun) (h : s.TimerReady seq .clipRepeat tm) (turn : s.timerTurn tm = true) (room : s.tickFired < 1024)
    (clip : (s.gen tm.owner).clips.find? (fun c => some c.ref == tm.ref) = some c) :
    answers (.clipRepeatTimer seq) s (fun t => (t.gen tm.owner).clips = (s.gen tm.owner).clips.map (·.replayed tm) ∧
      t.gd.timers = if tm.r + 1 ≤ c.repeats then s.gd.timers.filter (fun x => x.seq != seq) ++
        [⟨s.gd.timerSeq, s.genPrio tm.owner, tm.e + c.repeatMf, .clipRepeat, tm.owner, tm.ref, tm.r + 1, false⟩]
        else s.gd.timers.filter (fun x => x.seq != seq)) := by
  obtain ⟨u, fires, fired⟩ := State.fireTimer_fires h (fun _ => ⟨turn, room⟩)
  have clips : ((u.playable tm).gen tm.owner).clips = (s.gen tm.owner).clips.map (·.replayed tm) := by
    rw [State.playable_gen, State.gen_of_mre fired.mre]
  have found : ((u.playable tm).gen tm.owner).clips.find? (fun c => some c.ref == tm.ref) = some (c.replayed tm) := by
    rw [clips]
    exact find_replayed tm clip
  obtain ⟨_, repeats, repeatMf⟩ := c.replayed_keeps tm
  have prio : (u.playable tm).genPrio tm.owner = s.genPrio tm.owner :=
    (show (u.playable tm).genPrio tm.owner = u.genPrio tm.owner from rfl).trans (State.genPrio_of_mre fired.mre _)
  have gd : (u.playable tm).gd = u.gd := rfl
  have eq : s.clipRepeatFire seq = if tm.r + 1 ≤ c.repeats then
      (u.playable tm).addTimer (s.genPrio tm.owner) (tm.e + c.repeatMf) .clipRepeat tm.owner tm.ref (tm.r + 1) else u.playable tm := by
    rw [State.clipRepeatFire, fires]
    simp only [found, repeats, repeatMf, prio]
  refine answers_eq rfl eq ?_
  split
  · refine ⟨?_, ?_⟩
    · rw [← clips]
      exact congrArg GenSt.clips (State.gen_of_mre ((State.addTimer_moves (.refl [.regs, .gd] (u.playable tm)) (by decide)).mre_eq (by decide)) _)
    · rw [State.addTimer, State.gd_showTimers DispSt.timers (fun _ _ => rfl)]
      show (u.playable tm).gd.timers ++ [⟨(u.playable tm).gd.timerSeq, _, _, _, _, _, _, _⟩] = _
      rw [gd, fired.timers, fired.timerSeq]
  · exact ⟨clips, fired.timers⟩

theorem clipStopTimer_late (h : s.TimerReady seq .clipStop tm) (turn : s.timerTurn tm = true) (room : s.tickFired < 1024) (gone : tm.ref = none) :
    answers (.clipStopTimer seq) s (fun t => t.gd.timers = s.gd.timers.filter (fun x => x.seq != seq) ∧ t.mre = s.mre) := by
  obtain ⟨u, fires, fired⟩ := State.fireTimer_fires h (fun _ => ⟨turn, room⟩)
  have eq : s.clipStopFire seq = u := by
    rw [State.clipStopFire, fires]
    show (if tm.ref.isNone = true then u else _) = u
    exact if_pos (by rw [gone]; rfl)
  exact answers_eq rfl eq ⟨fired.timers, fired.mre⟩

/-- A stop takes effect in the pass of its timer (R196, R243). -/
def State.stopPlaced (s : State) (tm : TimerRec) : State := s.setGen tm.owner { s.gen tm.owner with
  stopAt := some (max tm.e (s.mfN + 1)), stopE := tm.e, stops := (s.gen tm.owner).stops ++ tm.ref.toList }

theorem clipStopTimer_spec (h : s.TimerReady seq .clipStop tm) (turn : s.timerTurn tm = true) (room : s.tickFired < 1024) (own : tm.ref.isSome = true) :
    answers (.clipStopTimer seq) s (fun t => ∃ u : State, u.gd.timers = s.gd.timers.filter (fun x => x.seq != seq) ∧
      u.gen tm.owner = { s.gen tm.owner with
        stopAt := some (max tm.e (s.mfN + 1)), stopE := tm.e, stops := (s.gen tm.owner).stops ++ tm.ref.toList } ∧
      t = if (s.gen tm.owner).clips.isEmpty then u.stopGen tm.owner else u) := by
  obtain ⟨u, fires, fired⟩ := State.fireTimer_fires h (fun _ => ⟨turn, room⟩)
  have gen : (u.stopPlaced tm).gen tm.owner = { s.gen tm.owner with
      stopAt := some (max tm.e (s.mfN + 1)), stopE := tm.e, stops := (s.gen tm.owner).stops ++ tm.ref.toList } := by
    rw [← State.gen_of_mre fired.mre, ← fired.mfN]
    exact Tbl.get_set_same _ _ _
  have eq : s.clipStopFire seq = if ((u.stopPlaced tm).gen tm.owner).clips.isEmpty then (u.stopPlaced tm).stopGen tm.owner else u.stopPlaced tm := by
    rw [State.clipStopFire, fires]
    show (if tm.ref.isNone = true then u else _) = _
    rw [if_neg (by rw [Option.isNone_iff_eq_none]; intro e; rw [e] at own; exact absurd own (by decide))]
    rfl
  refine answers_eq rfl eq ⟨u.stopPlaced tm, fired.timers, gen, ?_⟩
  rw [gen]

/-! ## PILOT_TIMER and SWEEP_SLOT_TIMER (R258, R263) -/

theorem State.Fired.sv {b : Bool} {u : State} (h : s.Fired seq tm b u) : u.sv = s.sv := h.moves.sv_eq (by decide)

theorem State.corr_of_mre {t : State} (h : t.mre = s.mre) (l : Nat) : t.corr l = s.corr l := by
  rw [State.corr, State.nodes, h, State.corr, State.nodes]

theorem State.line_of_sv {t : State} (h : t.sv = s.sv) (l : Nat) : t.line l = s.line l := by rw [State.line, h, State.line]

/-- What a pilot timer does on a line that is due: the burst, unless the line's Muslin slot serves as it, and the timer of the next one. -/
theorem State.pilotTimer_due {n : Nat} {nd : Node} {c : CorrParams} (h : s.TimerReady seq .pilot tm) (turn : s.timerTurn tm = true) (room : s.tickFired < 1024)
    (corr : s.corr tm.owner = some (n, nd, c)) (due : (s.line tm.owner).pilotDue = true) : ∃ u, s.Fired seq tm false u ∧ (s.pilotTimer seq).sv =
      (if !decide (c.pilotMode = 1) && (s.line tm.owner).slot.any (·.covers tm.e) then u
        else u.startPilot tm.owner tm.e (if decide (c.pilotMode = 1) then none else some (tm.e + 4000))).sv := by
  obtain ⟨u, fires, fired⟩ := State.fireTimer_fires h (fun _ => ⟨turn, room⟩)
  rw [State.slotNowDue_of_kind h.found rfl] at fired
  refine ⟨u, fired, ?_⟩
  rw [State.pilotTimer, fires]
  simp only [State.corr_of_mre fired.mre, corr, State.line_of_sv fired.sv, due, if_true]
  generalize (if (!decide (c.pilotMode = 1) && (s.line tm.owner).slot.any (·.covers tm.e)) = true then u else _) = v
  split
  · rfl
  · exact (State.addTimer_moves (.refl [.regs, .gd] v) (by decide)).sv_eq (by decide)

theorem State.startPilot_pilot (s : State) (l start : Nat) (ends : Option Nat) : ((s.startPilot l start ends).line l).pilot = some ⟨start, ends.isNone, ends⟩ :=
  congrArg LineRec.pilot (Tbl.get_set_same s.sv.lines l _)

theorem pilotTimer_spec (n : Nat) (nd : Node) (c : CorrParams) (h : s.TimerReady seq .pilot tm) (turn : s.timerTurn tm = true) (room : s.tickFired < 1024)
    (corr : s.corr tm.owner = some (n, nd, c)) (due : (s.line tm.owner).pilotDue = true) :
    (c.pilotMode = 1 ∨ (s.line tm.owner).slot = none → answers (.pilotTimer seq) s (fun t => (t.line tm.owner).pilot =
      some ⟨tm.e, decide (c.pilotMode = 1), if c.pilotMode = 1 then none else some (tm.e + 4000)⟩)) ∧
    (c.pilotMode ≠ 1 → (s.line tm.owner).slot.any (·.covers tm.e) = true → answers (.pilotTimer seq) s (fun t => t.sv = s.sv)) := by
  obtain ⟨u, fired, sv⟩ := State.pilotTimer_due h turn room corr due
  constructor
  · intro alone
    have own : ¬ (!decide (c.pilotMode = 1) && (s.line tm.owner).slot.any (·.covers tm.e)) = true := by
      rcases alone with cont | free
      · rw [decide_eq_true cont]
        exact Bool.false_ne_true
      · rw [free, Option.any_none, Bool.and_false]
        exact Bool.false_ne_true
    rw [if_neg own] at sv
    refine answers_eq rfl rfl ?_
    rw [State.line_of_sv sv, State.startPilot_pilot]
    by_cases cont : c.pilotMode = 1
    · rw [decide_eq_true cont, if_pos rfl, if_pos cont]
      rfl
    · rw [decide_eq_false cont, if_neg Bool.false_ne_true, if_neg cont]
      rfl
  · intro burst covers
    rw [if_pos (by rw [decide_eq_false burst, covers]; rfl), fired.sv] at sv
    exact answers_eq rfl rfl sv

/-- A sweep's timer starts the slot of an audit whose part runs. -/
theorem State.sweepTimer_fires {a : Audit} {base : List Byte} {u : State} {b : Bool} (fires : s.fireTimer seq .sweepSlot = some (u, tm)) (fired : s.Fired seq tm b u)
    (audit : s.sv.audit = some a) (running : a.running = true) (first : a.left.head? = some 0) : s.sweepTimer seq base = u.startSlot a tm.e base := by
  rw [State.sweepTimer, fires]
  simp only [fired.sv, audit, running, first, and_self, if_true]

theorem sweepSlotTimer_atOnce (a : Audit) (base : List Byte) (found : s.gd.timers.find? (fun t => t.seq == seq && t.kind == .sweepSlot) = some tm)
    (ticks : s.inSatin = false ∨ tm.prio = 0) (now : tm.e = s.mfN) (audit : s.sv.audit = some a) (part : a.partMf = s.mfN) (running : a.running = true)
    (first : a.left.head? = some 0) :
    answers (.sweepSlotTimer seq base) s (fun t => ∃ u : State, u.gd.timers = s.gd.timers.filter (fun x => x.seq != seq) ∧ u.gd.tick = s.gd.tick ∧
      u.time = s.time ∧ u.sv = s.sv ∧ t = u.startSlot a tm.e base) := by
  have kind := List.find?_some found
  simp only [Bool.and_eq_true, beq_iff_eq] at kind
  have atOnce : s.slotNowDue tm = true := by
    rw [State.slotNowDue, kind.2, now, audit, Option.any_some, part, beq_self_eq_true, beq_self_eq_true]
    rfl
  obtain ⟨u, fires, fired⟩ := State.fireTimer_fires (k := .sweepSlot) ⟨found, by omega, ticks⟩ (fun later => by rw [atOnce] at later; exact absurd later (by decide))
  rw [atOnce] at fired
  exact answers_eq rfl (State.sweepTimer_fires fires fired audit running first) ⟨u, fired.timers, fired.tick, fired.time, fired.sv, rfl⟩

theorem sweepSlotTimer_spec (a : Audit) (base : List Byte) (h : s.TimerReady seq .sweepSlot tm) (turn : s.timerTurn tm = true) (room : s.tickFired < 1024)
    (audit : s.sv.audit = some a) (running : a.running = true) (first : a.left.head? = some 0) :
    answers (.sweepSlotTimer seq base) s (fun t => ∃ u : State, u.gd.timers = s.gd.timers.filter (fun x => x.seq != seq) ∧ u.sv = s.sv ∧
      t = u.startSlot a tm.e base) := by
  obtain ⟨u, fires, fired⟩ := State.fireTimer_fires h (fun _ => ⟨turn, room⟩)
  exact answers_eq rfl (State.sweepTimer_fires fires fired audit running first) ⟨u, fired.timers, fired.sv, rfl⟩

end

/-- Settles O17: a timer that may fire leaves its list at its tick, and each kind of timer then does its work on what it serves. -/
theorem timersDoTheirWork : Obligations.TimersDoTheirWork := by
  unfold Obligations.TimersDoTheirWork
  intro s seq tm due left played
  have ready {k : TimerKind} (h : due k) : s.TimerReady seq k tm ∧ s.timerTurn tm = true ∧ s.tickFired < 1024 := by
    obtain ⟨found, expired, ticks, _, turn, room⟩ := h
    exact ⟨⟨found, expired, ticks⟩, turn, room⟩
  refine ⟨fun h => ?_, fun c h clip => ?_, fun h gone => ?_, fun h own => ?_, fun n nd c h corr pilot => ?_, fun h => ?_,
    clipStartTimer_waits, fun a base found ticks now audit part running first => sweepSlotTimer_atOnce a base found ticks now audit part running first,
    fun a base h audit running first => ?_⟩
  · obtain ⟨h, turn, room⟩ := ready h
    obtain ⟨t, e, p, _⟩ := clipStartTimer_spec h turn room
    exact ⟨t, e, p⟩
  · obtain ⟨h, turn, room⟩ := ready h
    exact clipRepeatTimer_spec c h turn room clip
  · obtain ⟨h, turn, room⟩ := ready h
    exact clipStopTimer_late h turn room gone
  · obtain ⟨h, turn, room⟩ := ready h
    exact clipStopTimer_spec h turn room own
  · obtain ⟨h, turn, room⟩ := ready h
    exact pilotTimer_spec n nd c h turn room corr pilot
  · obtain ⟨h, turn, room⟩ := ready h
    obtain ⟨t, e, _, p⟩ := clipStartTimer_spec h turn room
    exact ⟨t, e, p⟩
  · obtain ⟨h, turn, room⟩ := ready h
    exact sweepSlotTimer_spec a base h turn room audit running first

end Sys2Proof.Machine

namespace Sys2Proof.Machine

/-! # Taps, the operating point for admission, and observing windows (R209, R223, R245) -/

section
variable {s : State}

theorem State.tap_of_mre {t : State} (h : t.mre = s.mre) (i : Nat) : t.tap i = s.tap i := by rw [State.tap, h, State.tap]

theorem State.tap_setTap (s : State) (i : Nat) (r : TapSt) : (s.setTap i r).tap i = r := Tbl.get_set_same _ _ _

/-- A chunk that no buffer takes (R209). -/
def State.chunkLost (s : State) (i : Nat) (r : TapSt) : State := (s.setTap i { r with lost := r.lost + 1 }).bump Reg.MRE_GEN_ERRORS_TAP_LOST

theorem State.chunkLost_spec (s : State) (i : Nat) (r : TapSt) (same : r.lost = (s.tap i).lost) : ((s.chunkLost i r).tap i).lost = (s.tap i).lost + 1 ∧
    (s.chunkLost i r).f Reg.MRE_GEN_ERRORS_TAP_LOST = min (s.f Reg.MRE_GEN_ERRORS_TAP_LOST + 1) 65535 ∧ (s.chunkLost i r).out = s.out := by
  refine ⟨?_, ?_, ?_⟩
  · rw [State.chunkLost, State.tap_of_mre (State.bump_mre _ _ _), State.tap_setTap, same]
  · exact (State.f_bump_same (s := s.setTap i { r with lost := r.lost + 1 }) (x := Reg.MRE_GEN_ERRORS_TAP_LOST) 1 rfl).trans rfl
  · rw [State.chunkLost, State.bump_out]
    rfl

/-- A tap's records without those of a chunk. -/
def TapSt.without (r : TapSt) (k : Nat) : TapSt := { r with recs := r.recs.filter (fun (x : Nat × List Byte) => x.1 / 64 != k) }

/-- A chunk goes to the head buffer (R209). -/
def State.chunkWritten (s : State) (i k : Nat) (r : TapSt) (x : TapBuf) (rest : List TapBuf) (data : List Byte) : State :=
  let s := s.sendHost (.write x.ref.fn.val (x.addr + x.written) data)
  let s := match s.chanOf x.ref with
    | some ch => s.bump (Reg.BM_WRITE_UNITS_COUNT (ch / 64)) (ceilDiv data.length 64)
    | none => s
  let b := { x with written := x.written + data.length, first := x.first.or (some (64 * k)) }
  if b.len ≤ b.written then
    let f := b.first.getD 0
    (s.setTap i { r with bufs := rest, lost := 0 }).endEntry (s.chanOf b.ref) b.ref
      ⟨St.ok, b.written, BitVec.ofNat 32 f, BitVec.ofNat 32 (f / 2 ^ 32), BitVec.ofNat 32 r.lost, 0, false⟩
  else s.setTap i { r with bufs := b :: rest }

/-- A head buffer of a function in D3hot, or of an engine that runs no burst, takes nothing (R337, R372). -/
def State.chunkWaits (s : State) (x : TapBuf) : Bool :=
  s.d3hot x.ref.fn.val || (match s.chanOf x.ref with | some ch => !s.engineRuns (ch / 64) | none => false)

theorem State.tapChunk_over {i p : Nat} {b : List Byte} {l : List (Nat × List Byte)} (solo : s.isPartner = false) (recs : (s.tap i).recs = (p, b) :: l)
    (over_ : s.chunkOver i (p / 64) = true) : s.tapChunk i =
      match (if (s.tap i).bufs.any (fun b => s.frozen b.ref.fn.val) then [] else (s.tap i).bufs) with
      | [] => s.chunkLost i ((s.tap i).without (p / 64))
      | x :: rest => if x.len < x.written + (chunkBytes (s.tap i).recs (p / 64) (s.tapChans i)).length then s.chunkLost i ((s.tap i).without (p / 64))
        else if s.chunkWaits x then s
        else s.chunkWritten i (p / 64) ((s.tap i).without (p / 64)) x rest (chunkBytes (s.tap i).recs (p / 64) (s.tapChans i)) := by
  have head : (s.tap i).recs.head? = some (p, b) := by rw [recs]; rfl
  rw [State.tapChunk]
  simp only [head, over_, solo, Bool.not_true, Bool.false_eq_true, if_false]
  rfl

theorem State.tapChunk_waits {i p : Nat} {b : List Byte} {l : List (Nat × List Byte)} (recs : (s.tap i).recs = (p, b) :: l)
    (early : s.chunkOver i (p / 64) = false) : s.tapChunk i = s := by
  have head : (s.tap i).recs.head? = some (p, b) := by rw [recs]; rfl
  rw [State.tapChunk]
  simp only [head, early, Bool.not_false, if_true]

theorem State.chunkWritten_spec (s : State) (i k : Nat) (r : TapSt) (x : TapBuf) (rest : List TapBuf) (data : List Byte) :
    Emit.write x.ref.fn.val (x.addr + x.written) data ∈ (s.chunkWritten i k r x rest data).out ∧
    ((s.chunkWritten i k r x rest data).tap i).recs = r.recs ∧
    (x.written + data.length < x.len → ((s.chunkWritten i k r x rest data).tap i).bufs =
      { x with written := x.written + data.length, first := x.first.or (some (64 * k)) } :: rest) := by
  unfold State.chunkWritten
  extract_lets a b buf f
  have ha : Emit.write x.ref.fn.val (x.addr + x.written) data ∈ a.out := List.mem_cons_self
  have hb : b.out = a.out := by
    simp only [b]
    split
    · exact a.bump_out _ _
    · rfl
  rw [← hb] at ha
  clear_value b
  split
  next full =>
    have moves : Moves [.regs, .qe, .bm, .xb, .fn, .out] (b.setTap i { r with bufs := rest, lost := 0 }) ((b.setTap i { r with bufs := rest, lost := 0 }).endEntry
        (b.chanOf buf.ref) buf.ref ⟨St.ok, buf.written, BitVec.ofNat 32 f, BitVec.ofNat 32 (f / 2 ^ 32), BitVec.ofNat 32 r.lost, 0, false⟩) :=
      State.endEntry_moves (.refl _ _) (by decide)
    refine ⟨State.mem_out_of_moves moves ha, ?_, fun room => absurd room (Nat.not_lt_of_le full)⟩
    rw [State.tap_of_mre (moves.mre_eq (by decide)), State.tap_setTap]
  next =>
    refine ⟨ha, ?_, fun _ => ?_⟩
    · rw [State.tap_setTap]
    · rw [State.tap_setTap]

theorem tapChunkComplete_spec (tap : Fin 64) (p : Nat) (b : List Byte) (l : List (Nat × List Byte)) (solo : s.isPartner = false)
    (recs : (s.tap tap.val).recs = (p, b) :: l) :
    let data := chunkBytes (s.tap tap.val).recs (p / 64) (s.tapChans tap.val)
    (s.mfN < 64 * (p / 64) + 64 → (∀ x ∈ (s.tap tap.val).recs, x.1 < 64 * (p / 64) + 63) →
      answers (.tapChunkComplete tap) s (fun t => t = s)) ∧
    (s.chunkOver tap (p / 64) = true →
    ((s.tap tap.val).bufs = [] → answers (.tapChunkComplete tap) s (fun t => (t.tap tap.val).lost = (s.tap tap.val).lost + 1 ∧
      t.f Reg.MRE_GEN_ERRORS_TAP_LOST = min (s.f Reg.MRE_GEN_ERRORS_TAP_LOST + 1) 65535 ∧ t.out = s.out)) ∧
    (∀ x rest, (s.tap tap.val).bufs = x :: rest → x.len < x.written + data.length → answers (.tapChunkComplete tap) s (fun t =>
      (t.tap tap.val).lost = (s.tap tap.val).lost + 1 ∧ t.out = s.out)) ∧
    (∀ x rest, (s.tap tap.val).bufs = x :: rest → x.written + data.length ≤ x.len →
      (s.tap tap.val).bufs.any (fun b => s.frozen b.ref.fn.val) = false →
      ((s.d3hot x.ref.fn.val = true ∨ ∃ ch, s.chanOf x.ref = some ch ∧ s.engineRuns (ch / 64) = false) →
        answers (.tapChunkComplete tap) s (fun t => t = s)) ∧
      (s.d3hot x.ref.fn.val = false → (∀ ch, s.chanOf x.ref = some ch → s.engineRuns (ch / 64) = true) →
      answers (.tapChunkComplete tap) s (fun t => Emit.write x.ref.fn.val (x.addr + x.written) data ∈ t.out ∧
        (t.tap tap.val).recs = (s.tap tap.val).recs.filter (fun y => y.1 / 64 != p / 64) ∧
        (x.written + data.length < x.len → (t.tap tap.val).bufs =
          { x with written := x.written + data.length, first := x.first.or (some (64 * (p / 64))) } :: rest))))) := by
  intro data
  refine ⟨fun early none' => ?_, fun over_ => ?_⟩
  · have notOver : s.chunkOver tap (p / 64) = false := by
      rw [State.chunkOver, decide_eq_false (by omega), Bool.false_and, Bool.or_false, List.any_eq_false]
      intro x mem
      rw [decide_eq_false (by have := none' x mem; omega)]
      decide
    exact answers_eq rfl (State.tapChunk_waits recs notOver) rfl
  · have eq := State.tapChunk_over solo recs over_
    have lost := s.chunkLost_spec tap.val ((s.tap tap.val).without (p / 64)) rfl
    refine ⟨fun bufs => ?_, fun x rest bufs full => ?_, fun x rest bufs room awake => ?_⟩
    · rw [bufs, List.any_nil] at eq
      exact answers_eq rfl eq lost
    · have eq' : s.tapChunk tap.val = s.chunkLost tap.val ((s.tap tap.val).without (p / 64)) := by
        rw [eq]
        split
        · rfl
        next head =>
          split at head
          · exact nomatch head
          · rw [bufs] at head
            obtain ⟨rfl, rfl⟩ := List.cons.inj head
            exact if_pos full
      exact answers_eq rfl eq' ⟨lost.1, lost.2.2⟩
    · rw [awake, if_neg Bool.false_ne_true, bufs] at eq
      have eq' := eq.trans (if_neg (Nat.not_lt_of_le room))
      refine ⟨fun stopped => ?_, fun awake' runs => ?_⟩
      · have waits : s.chunkWaits x = true := by
          rw [State.chunkWaits, Bool.or_eq_true]
          refine stopped.imp id ?_
          rintro ⟨ch, chan, stop⟩
          rw [chan]
          simp only [stop, Bool.not_false]
        exact answers_eq rfl (eq'.trans (if_pos waits)) rfl
      · have goes : ¬ s.chunkWaits x = true := by
          rw [State.chunkWaits, awake', Bool.false_or]
          split
          next ch chan => rw [runs ch chan]; decide
          · decide
        exact answers_eq rfl (eq'.trans (if_neg goes)) (s.chunkWritten_spec _ _ _ _ _ _)

/-! ## Writes to MRE_ADMIT_CFG and GD_OBS_CTRL, and the end of a window (R223, R245) -/

/-- The operating point for admission is written, or held for the pair (R223, R288). -/
def State.admitWritten (s : State) (v : Word) : State := (s.pairHold Reg.MRE_ADMIT_CFG v).1.writeReg Reg.MRE_ADMIT_CFG (s.pairHold Reg.MRE_ADMIT_CFG v).2

theorem admitCfgWrite_spec (v : Word) (serves : s.pfServes Reg.MRE_ADMIT_CFG) : answers (.admitCfgWrite v) s (fun t =>
    if (s.mre.image.toList ++ s.mre.staged.toList ++ (match s.mre.swap with | some w => w.full.toList | none => [])).all
        (fun i => fitsAt (bits v 0 2) i.header) then s.pairFormed = false → t.f Reg.MRE_ADMIT_CFG_OP = bits v 0 2
    else t.flag Reg.MRE_STATUS_OP_REFUSED = true ∧ t.reg Reg.MRE_ADMIT_CFG = s.reg Reg.MRE_ADMIT_CFG) := by
  refine answers_eq rfl (s.pfWrite_of_serves serves _) ?_
  have written : s.pairFormed = false → s.admitWritten v = s.writeReg Reg.MRE_ADMIT_CFG v := fun unformed => by
    rw [State.admitWritten, State.pairHold_unformed s v unformed]
  by_cases fits : (s.mre.image.toList ++ s.mre.staged.toList ++ (match s.mre.swap with | some w => w.full.toList | none => [])).all
        (fun i => fitsAt (bits v 0 2) i.header) = true
  · have eq : s.admitCfg v = s.admitWritten v := if_pos fits
    rw [eq]
    refine (if_pos fits).mpr fun unformed => ?_
    rw [written unformed]
    exact s.f_writeReg ⟨Reg.MRE_ADMIT_CFG, 0, 2⟩ v ⟨11534360, 0x0, 0x3, 0x0, 0x0⟩ (by decide) (by decide) (by decide)
  · have eq : s.admitCfg v = s.setB Reg.MRE_STATUS_OP_REFUSED true := if_neg fits
    rw [eq]
    exact (if_neg fits).mpr ⟨s.flag_setB_same _ rfl rfl, s.reg_setF_other _ (by decide)⟩

theorem obsCtrlWrite_spec (v : Word) (serves : s.pfServes Reg.GD_OBS_CTRL) : answers (.obsCtrlWrite v) s (fun t => t.gd = { s.gd with obs := none } ∧
    t.f Reg.GD_OBS_CTRL_EN = bits v 0 1 ∧ t.f Reg.GD_OBS_CTRL_W = bits v 1 4) := by
  have field (lo w : Nat) (fits : lo + w ≤ 32) (rw_ : (List.range w).all (fun i => Nat.testBit 0x1f (lo + i)) = true) :
      (s.writeReg Reg.GD_OBS_CTRL v).f ⟨Reg.GD_OBS_CTRL, lo, w⟩ = bits v lo w :=
    s.f_writeReg ⟨Reg.GD_OBS_CTRL, lo, w⟩ v ⟨11567148, 0x0, 0x1f, 0x0, 0x0⟩ (by decide : regSpec Reg.GD_OBS_CTRL = _) fits rw_
  refine answers_eq rfl (s.pfWrite_of_serves serves _) ⟨?_, field 0 1 (by decide) (by decide), field 1 4 (by decide) (by decide)⟩
  exact congrArg (fun r : DispSt => { r with obs := none }) ((State.writeReg_moves (.refl [.regs] s) (by decide)).gd_eq (by decide))

theorem obsWindowClose_idle (h : s.gd.obsEnd = none) : answers .obsWindowClose s (fun t => t = s) :=
  answers_eq rfl (by rw [State.obsClose, h]) rfl

/-- The log page of a window that is over (R245). -/
def State.obsShown (s : State) (start : Nat) : State :=
  ((s.setB Reg.GD_OBS_STATUS_VALID true).setF Reg.GD_OBS_START_LO_MF start).setF Reg.GD_OBS_START_HI_MF (start / 2 ^ 32)

theorem State.obsShown_spec (s : State) (start : Nat) : (s.obsShown start).gd = s.gd ∧ (s.obsShown start).flag Reg.GD_OBS_STATUS_VALID = true ∧
    (s.obsShown start).f Reg.GD_OBS_START_LO_MF = start % 2 ^ 32 ∧ (s.obsShown start).f Reg.GD_OBS_START_HI_MF = start / 2 ^ 32 % 65536 := by
  unfold State.obsShown
  refine ⟨?_, ?_, ?_, State.f_setF_same _ _ rfl⟩
  · rw [State.setF_gd, State.setF_gd, State.setB_gd]
  · rw [State.flag_setF_apart _ _ (by decide), State.flag_setF_apart _ _ (by decide)]
    exact State.flag_setB_same _ _ rfl rfl
  · rw [State.f_setF_apart _ _ (by decide)]
    exact State.f_setF_same _ _ rfl

theorem obsWindowClose_spec (o : ObsWin) (h : s.gd.obsEnd = some o) : answers .obsWindowClose s (fun t => t.gd.obsLast = some o ∧ t.gd.obsEnd = none ∧
    t.gd.obs = s.gd.obs ∧ t.flag Reg.GD_OBS_STATUS_VALID = true ∧ t.f Reg.GD_OBS_START_LO_MF = o.start % 2 ^ 32 ∧
    t.f Reg.GD_OBS_START_HI_MF = o.start / 2 ^ 32 % 65536) := by
  have eq : s.obsClose = State.obsShown { s with gd := { s.gd with obsEnd := none, obsLast := some o } } o.start := by
    rw [State.obsClose, h]
    rfl
  obtain ⟨gd, shown⟩ := State.obsShown_spec { s with gd := { s.gd with obsEnd := none, obsLast := some o } } o.start
  refine answers_eq rfl eq ⟨?_, ?_, ?_, shown⟩ <;> rw [gd]

end

end Sys2Proof.Machine

namespace Sys2Proof.Machine

/-! # Supervision refreshes and held events (R252 to R256, R258 to R260) -/

section
variable {s : State} {l : Nat}

/-- What a refresh has measured on a line, and what it has counted. -/
def LineRec.measured (r : LineRec) : Nat × Nat × Nat × Nat × Nat := (r.age, r.g, r.passes, r.missing, r.applied)

/-- The state of a line, and its run of lost refreshes. -/
def LineRec.standing (r : LineRec) : Nat × Nat := (r.state, r.lostRun)

theorem State.line_setLine (s : State) (l : Nat) (r : LineRec) : (s.setLine l r).line l = r := Tbl.get_set_same _ _ _

theorem State.line_setLine_other (s : State) {l m : Nat} (r : LineRec) (h : m ≠ l) : (s.setLine l r).line m = s.line m :=
  Tbl.get_set_other _ _ h

/-- A change of one line keeps, on every line, what it keeps on that one. -/
theorem State.line_setLine_keeps {α : Type} (p : LineRec → α) (s : State) (l : Nat) (r : LineRec) (h : p r = p (s.line l)) (m : Nat) :
    p ((s.setLine l r).line m) = p (s.line m) := by
  by_cases e : m = l
  · rw [e, State.line_setLine, h]
  · rw [State.line_setLine_other _ _ e]

theorem State.line_of_moves {k : List Part} {t : State} (h : Moves k s t) (hk : k.contains .sv = false) (m : Nat) : t.line m = s.line m := by
  rw [State.line, h.sv_eq hk, State.line]

theorem State.line_showSv (s : State) (m : Nat) : s.showSv.line m = s.line m :=
  State.line_of_moves (State.setB_moves (.refl [.regs] s) (by decide)) (by decide) m

/-! ## What changes of a line keep -/

section
variable {α : Type} (p : LineRec → α)

theorem State.line_reportedLine (reported : ∀ (r : LineRec) n, p { r with reported := n } = p r) (s : State) (l code new m : Nat) :
    p ((s.reportedLine l code new).line m) = p (s.line m) := by
  unfold State.reportedLine
  split
  · exact State.line_setLine_keeps p s l _ (reported _ _) m
  · rfl

/-- A supervision event changes no line but for what it has reported (R260). -/
theorem State.line_svEvent (reported : ∀ (r : LineRec) n, p { r with reported := n } = p r) (s : State) (code l new old : Nat) (dev : Int) (age g ref m : Nat) :
    p ((s.svEvent code l new old dev age g ref).line m) = p (s.line m) := by
  unfold State.svEvent
  split
  · extract_lets dws now sv
    have posted : now = none ∨ now = s.postEvent (s.f Reg.SV_EVENT_CTRL_CQ) dws 3 := by
      simp only [now]
      split
      · exact .inr rfl
      · exact .inl rfl
    clear_value now
    cases now with
    | some u =>
      have post := posted.resolve_left (fun e => nomatch e)
      rw [State.line_reportedLine p reported,
        State.line_of_moves (State.postEvent_moves (.refl [.regs, .qe, .fn, .out] s) (by decide) post.symm) (by decide)]
    | none =>
      dsimp only
      split
      · rw [State.line_reportedLine p reported, State.line_showSv]
        rfl
      · rw [State.line_showSv, State.line_of_moves (State.bump_moves (.refl [.regs] s) (by decide)) (by decide)]
  · exact State.line_reportedLine p reported s l code new m

end

theorem State.line_breakSlot (s : State) (l m : Nat) : (s.breakSlot l).line m = s.line m := rfl

theorem State.measured_svEvent (s : State) (code l new old : Nat) (dev : Int) (age g ref m : Nat) :
    ((s.svEvent code l new old dev age g ref).line m).measured = (s.line m).measured :=
  State.line_svEvent LineRec.measured (fun _ _ => rfl) s code l new old dev age g ref m

theorem State.standing_svEvent (s : State) (code l new old : Nat) (dev : Int) (age g ref m : Nat) :
    ((s.svEvent code l new old dev age g ref).line m).standing = (s.line m).standing :=
  State.line_svEvent LineRec.standing (fun _ _ => rfl) s code l new old dev age g ref m

theorem State.measured_lineTo (s : State) (l new : Nat) (dev : Int) (g ref m : Nat) : ((s.lineTo l new dev g ref).line m).measured = (s.line m).measured := by
  unfold State.lineTo
  extract_lets r a b
  rw [State.measured_svEvent]
  have ha (i : Nat) : a.line i = s.line i := by
    simp only [a, State.when]
    split <;> rfl
  refine (State.line_setLine_keeps LineRec.measured a l _ ?_ m).trans (by rw [ha])
  rw [ha]
  rfl

theorem State.standing_lineTo (s : State) (l new : Nat) (dev : Int) (g ref : Nat) : ((s.lineTo l new dev g ref).line l).standing = (new, 0) := by
  unfold State.lineTo
  extract_lets r a b
  rw [State.standing_svEvent, State.line_setLine]
  rfl

theorem State.measured_settleLine (s : State) (l cls need : Nat) (dev : Int) (g ref m : Nat) :
    ((s.settleLine l cls need dev g ref).line m).measured = (s.line m).measured := by
  unfold State.settleLine
  split
  · unfold State.leaveLost
    extract_lets r
    split
    · exact State.measured_lineTo _ _ _ _ _ _ _
    · exact State.line_setLine_keeps LineRec.measured s l _ (by rfl) m
  · unfold State.confirmLine
    extract_lets r
    split
    · exact State.line_setLine_keeps LineRec.measured s l _ (by rfl) m
    · split
      · exact State.measured_lineTo _ _ _ _ _ _ _
      · exact State.line_setLine_keeps LineRec.measured s l _ (by rfl) m

theorem State.measured_learnLine (s : State) (l m : Nat) : ((s.learnLine l).line m).measured = (s.line m).measured := by
  unfold State.learnLine
  extract_lets r
  split
  · rw [State.measured_svEvent]
    exact State.line_setLine_keeps LineRec.measured s l _ (by rfl) m
  · rfl

theorem State.measured_lostLine (s : State) (l : Nat) (lost : Bool) (m : Nat) : ((s.lostLine l lost).line m).measured = (s.line m).measured := by
  unfold State.lostLine
  extract_lets r a
  have ha : (a.line m).measured = (s.line m).measured := State.line_setLine_keeps LineRec.measured s l _ (by rfl) m
  split
  · exact State.line_setLine_keeps LineRec.measured s l _ (by rfl) m
  · split
    · rw [State.measured_lineTo, ha]
    · exact ha

theorem State.measured_pilotFigure (s : State) (l : Nat) (c : CorrParams) (m : Nat) : ((s.pilotFigure l c).1.line m).measured = (s.line m).measured := by
  unfold State.pilotFigure
  extract_lets r g dev cls
  split
  · exact State.line_setLine_keeps LineRec.measured s l _ (by rfl) m
  · exact State.line_setLine_keeps LineRec.measured s l _ (by rfl) m

theorem State.measured_refreshClass (s : State) (l : Nat) (c : CorrParams) (quiet : Bool) (m : Nat) :
    ((s.refreshClass l c quiet).line m).measured = (s.line m).measured := by
  unfold State.refreshClass
  extract_lets r ref cls
  split
  · rfl
  · exact State.measured_settleLine _ _ _ _ _ _ _ _

theorem State.measured_refreshBy (s : State) (l : Nat) (c : CorrParams) (quiet : Bool) (m : Nat) :
    ((s.refreshBy l c quiet).line m).measured = (s.line m).measured := by
  have figure := s.measured_pilotFigure l c m
  unfold State.refreshBy
  split
  · split
    next u eq =>
      rw [eq] at figure
      rw [State.measured_refreshClass, figure]
    next u x eq =>
      rw [eq] at figure
      rw [State.measured_settleLine, figure]
  · exact State.measured_refreshClass _ _ _ _ _

/-- What a refresh's pilots keep of every line. -/
theorem State.line_refreshPilot {α : Type} (p : LineRec → α) (reported : ∀ (r : LineRec) n, p { r with reported := n } = p r)
    (piloted : ∀ (r : LineRec) due pilot freeze, p { r with pilotDue := due, pilot := pilot, freeze := freeze } = p r)
    (s : State) (l e prio : Nat) (quiet : Bool) (m : Nat) : p ((s.refreshPilot l e prio quiet).line m) = p (s.line m) := by
  unfold State.refreshPilot
  extract_lets r ev due a b
  split
  · have ha : p (a.line m) = p (s.line m) := by
      simp only [a]
      split
      · exact (State.line_svEvent p reported _ _ _ _ _ _ _ _ _ m).trans (State.line_setLine_keeps p s l _ (piloted _ _ _ _) m)
      · rfl
    clear_value a
    split
    · rw [State.line_of_moves (State.addTimer_moves (.refl [.regs, .gd] a) (by decide)) (by decide), ha]
    · exact ha
  · split
    · refine (State.line_svEvent p reported _ _ _ _ _ _ _ _ _ m).trans ?_
      rw [State.line_of_moves (State.dropPilotTimers_moves (.refl [.regs, .gd] b) (by decide)) (by decide)]
      exact State.line_setLine_keeps p s l _ (piloted _ _ _ _) m
    · rfl

end

end Sys2Proof.Machine

namespace Sys2Proof.Machine

/-! # REFRESH_END, PILOT_WINDOW_END and SV_BACKLOG_DRAIN (R252 to R256, R258 to R260) -/

section
variable {s : State} {l : Nat}

/-! ## One line's refresh -/

/-- A refresh of a line outside SATIN, up to its counts, which start again (R252 to R258). -/
def State.refreshActive (s : State) (l : Nat) (nd : Node) (c : CorrParams) : State :=
  let lost := decide (400 ≤ (s.line l).missing)
  let quiet := decide ((s.line l).applied < 80)
  let a := ((s.figures l quiet).learnLine l).lostLine l lost
  let b := if lost then a else a.refreshBy l c quiet
  b.refreshPilot l (b.mfN + 800) nd.prio quiet

/-- A refresh of a line in SATIN, up to its counts (R256, R261). -/
def State.refreshResting (s : State) (l : Nat) (nd : Node) (c : CorrParams) : State :=
  if nd.prio ≠ 0 then s
  else if decide (400 ≤ (s.line l).missing) then s.lostLine l (decide (400 ≤ (s.line l).missing))
    else (s.lostLine l (decide (400 ≤ (s.line l).missing))).refreshSatin l c

/-- The counts of a line start again (R252). -/
def State.countsAgain (s : State) (l : Nat) : State := s.setLine l (s.line l).clearRefresh

theorem State.refreshLine_bound {n : Nat} {nd : Node} {c : CorrParams} (h : s.corr l = some (n, nd, c)) :
    s.refreshLine l = (if s.inSatin then s.refreshResting l nd c else s.refreshActive l nd c).countsAgain l := by
  rw [State.refreshLine, h]
  rfl

theorem State.measured_figures_other (s : State) (quiet : Bool) {m : Nat} (h : m ≠ l) : ((s.figures l quiet).line m).measured = (s.line m).measured := by
  unfold State.figures
  extract_lets r ref g
  rw [State.line_setLine_other _ _ h]

theorem State.measured_refreshActive (s : State) (l : Nat) (nd : Node) (c : CorrParams) (m : Nat) :
    ((s.refreshActive l nd c).line m).measured = ((s.figures l (decide ((s.line l).applied < 80))).line m).measured := by
  unfold State.refreshActive
  extract_lets lost quiet a b
  have ha : (a.line m).measured = ((s.figures l quiet).line m).measured := by rw [State.measured_lostLine, State.measured_learnLine]
  have hb : (b.line m).measured = (a.line m).measured := by
    simp only [b]
    split
    · rfl
    · exact State.measured_refreshBy _ _ _ _ _
  rw [State.line_refreshPilot LineRec.measured (fun _ _ => rfl) (fun _ _ _ _ => rfl), hb, ha]

theorem State.measured_refreshResting (s : State) (l : Nat) (nd : Node) (c : CorrParams) (m : Nat) :
    ((s.refreshResting l nd c).line m).measured = (s.line m).measured := by
  unfold State.refreshResting
  split
  · rfl
  · split
    · exact State.measured_lostLine _ _ _ _
    · unfold State.refreshSatin
      extract_lets r cls
      rw [State.measured_settleLine, State.measured_lostLine]

/-- A refresh of one line leaves what the others have measured. -/
theorem State.measured_refreshLine_other (s : State) {l m : Nat} (h : m ≠ l) : ((s.refreshLine l).line m).measured = (s.line m).measured := by
  cases e : s.corr l with
  | none =>
    rw [State.refreshLine, e]
  | some x =>
    obtain ⟨n, nd, c⟩ := x
    rw [State.refreshLine_bound e, State.countsAgain, State.line_setLine_other _ _ h]
    split
    · exact State.measured_refreshResting _ _ _ _ _
    · rw [State.measured_refreshActive, State.measured_figures_other _ _ h]

/-- The counts of a line stand at the start of a refresh. -/
def LineRec.cleared (r : LineRec) : Prop := r.passes = 0 ∧ r.missing = 0 ∧ r.applied = 0

theorem LineRec.cleared_of_measured {r q : LineRec} (h : r.measured = q.measured) (hq : q.cleared) : r.cleared := by
  obtain ⟨passes, missing, applied⟩ := hq
  exact ⟨(congrArg (fun x => x.2.2.1) h).trans passes, (congrArg (fun x => x.2.2.2.1) h).trans missing, (congrArg (fun x => x.2.2.2.2) h).trans applied⟩

theorem State.cleared_refreshLine (bound : (s.corr l).isSome = true) : ((s.refreshLine l).line l).cleared := by
  obtain ⟨⟨n, nd, c⟩, e⟩ := Option.isSome_iff_exists.mp bound
  rw [State.refreshLine_bound e, State.countsAgain, State.line_setLine]
  exact ⟨rfl, rfl, rfl⟩

theorem State.cleared_refreshLines (ls : List Nat) (bound : ∀ l ∈ ls, (s.corr l).isSome = true) (h : l ∈ ls ∨ (s.line l).cleared) :
    ((ls.foldl (fun (s : State) l => s.refreshLine l) s).line l).cleared := by
  induction ls generalizing s with
  | nil => exact h.resolve_left List.not_mem_nil
  | cons x ls ih =>
    have mre : (s.refreshLine x).mre = s.mre := (State.refreshLine_moves (.refl [.regs, .qe, .fn, .gd, .sv, .out] s) (by decide)).mre_eq (by decide)
    refine ih (fun m mem => ?_) ?_
    · rw [State.corr_of_mre mre]
      exact bound m (List.mem_cons_of_mem _ mem)
    · by_cases e : l = x
      · rw [e]
        exact .inr (State.cleared_refreshLine (bound x List.mem_cons_self))
      · exact h.imp (fun mem => (List.mem_cons.mp mem).resolve_left e) (LineRec.cleared_of_measured (State.measured_refreshLine_other s e))

/-! ## The lines that the image binds -/

theorem of_mem_insertBy {α : Type} (lt : α → α → Bool) {x y : α} {l : List α} (h : y ∈ insertBy lt x l) : y = x ∨ y ∈ l := by
  induction l with
  | nil => exact .inl (List.mem_singleton.mp h)
  | cons a l ih =>
    rw [insertBy] at h
    split at h
    · exact List.mem_cons.mp h
    · rcases List.mem_cons.mp h with rfl | h
      · exact .inr List.mem_cons_self
      · exact (ih h).imp id (List.mem_cons_of_mem _)

theorem mem_foldl_insertBy {α : Type} (lt : α → α → Bool) {y : α} (xs l : List α) (h : y ∈ xs.foldl (fun l x => insertBy lt x l) l) : y ∈ xs ∨ y ∈ l := by
  induction xs generalizing l with
  | nil => exact .inr h
  | cons x xs ih =>
    rcases ih _ h with h | h
    · exact .inl (List.mem_cons_of_mem _ h)
    · exact (of_mem_insertBy lt h).imp (fun e => by rw [e]; exact List.mem_cons_self) id

theorem State.corr_of_bound (h : l ∈ s.boundLines) : (s.corr l).isSome = true := by
  have mem := (mem_foldl_insertBy _ _ _ h).resolve_right List.not_mem_nil
  obtain ⟨p, hp, e⟩ := List.mem_filterMap.mp mem
  obtain ⟨c, hc, rfl⟩ := Option.map_eq_some_iff.mp e
  rw [State.corr, List.findSome?_isSome_iff]
  refine ⟨p, hp, ?_⟩
  rw [hc]
  simp only [if_true, Option.isSome_some]

/-! ## REFRESH_END -/

theorem State.line_refreshEnd (m : Nat) (on : s.flag Reg.SV_CTRL_EN = true) (boundary : s.mfN % 800 = 0) (fresh : s.sv.refreshed ≠ some s.mfN) :
    (s.refreshEnd).line m = (s.boundLines.foldl (fun (s : State) l => s.refreshLine l) { s with sv := { s.sv with refreshed := some s.mfN } }).line m := by
  rw [State.refreshEnd, if_pos ⟨on, boundary, fresh⟩]
  exact State.line_of_moves (State.showLines_moves (State.sweepAgain_moves (.refl [.regs, .gd] _) (by decide)) (by decide)) (by decide) m

theorem State.standing_learnLine (s : State) (l : Nat) : ((s.learnLine l).line l).lostRun = (s.line l).lostRun ∧
    ((s.line l).state ≠ 1 → ((s.learnLine l).line l).state = (s.line l).state) := by
  unfold State.learnLine
  extract_lets r
  split
  next h =>
    have standing := (State.standing_svEvent (s.setLine l { r with ref := r.g, state := 2, learnRun := 0, run := 0 }) Sve.learned l 2 1 r.dev r.age r.g r.g l)
    rw [State.line_setLine] at standing
    exact ⟨congrArg Prod.snd standing, fun n => absurd h.2.2.1 n⟩
  · exact ⟨rfl, fun _ => rfl⟩

/-- A lost refresh lengthens a line's run of those, and the twelfth puts it into SENSE_LOST (R256). -/
theorem State.standing_lostLine (s : State) (l : Nat) : ((s.lostLine l true).line l).standing =
    if 12 ≤ (s.line l).lostRun + 1 ∧ (s.line l).state ≠ 9 then (9, 0) else ((s.line l).state, (s.line l).lostRun + 1) := by
  unfold State.lostLine
  extract_lets r a
  rw [Bool.not_true, if_neg Bool.false_ne_true]
  split
  · exact State.standing_lineTo _ _ _ _ _ _
  · rw [State.line_setLine]
    rfl

theorem State.standing_figures (s : State) (l : Nat) (quiet : Bool) : ((s.figures l quiet).line l).standing = (s.line l).standing := by
  unfold State.figures
  extract_lets r ref g
  rw [State.line_setLine]
  split <;> rfl

/-- Where a lost refresh leaves a line. -/
theorem State.standing_refreshActive (s : State) (l : Nat) (nd : Node) (c : CorrParams) (lost : 400 ≤ (s.line l).missing) :
    ((s.refreshActive l nd c).line l).standing =
      (((((s.figures l (decide ((s.line l).applied < 80))).learnLine l).lostLine l true)).line l).standing := by
  unfold State.refreshActive
  rw [decide_eq_true lost]
  exact State.line_refreshPilot LineRec.standing (fun _ _ => rfl) (fun _ _ _ _ => rfl) _ _ _ _ _ _

theorem State.figures_line (s : State) (l : Nat) (quiet : Bool) : ((s.figures l quiet).line l).age = (if quiet then min 65535 ((s.line l).age + 1) else 0) ∧
    ((s.figures l quiet).line l).g = (if quiet then (s.line l).g else loadFigure (s.line l).est) := by
  unfold State.figures
  extract_lets r ref g
  rw [State.line_setLine]
  cases quiet <;> exact ⟨rfl, rfl⟩

/-- What the refresh of one line outside SATIN leaves of it (R252, R253, R256). -/
theorem State.refreshLine_spec (bound : (s.corr l).isSome = true) (awake : s.inSatin = false) :
    let t := s.refreshLine l
    (400 ≤ (s.line l).missing → 12 ≤ (s.line l).lostRun + 1 → (t.line l).state = 9) ∧
    (400 ≤ (s.line l).missing → (s.line l).lostRun + 1 < 12 → (s.line l).state ≠ 1 → (t.line l).lostRun = (s.line l).lostRun + 1 ∧
      (t.line l).state = (s.line l).state) ∧
    ((s.line l).applied < 80 → (t.line l).age = min 65535 ((s.line l).age + 1) ∧ (t.line l).g = (s.line l).g) ∧
    (80 ≤ (s.line l).applied → (t.line l).age = 0 ∧ (t.line l).g = loadFigure (s.line l).est) := by
  obtain ⟨⟨n, nd, c⟩, e⟩ := Option.isSome_iff_exists.mp bound
  have measured := s.measured_refreshActive l nd c l
  obtain ⟨age, g⟩ := s.figures_line l (decide ((s.line l).applied < 80))
  have age' := (congrArg Prod.fst measured).trans age
  have g' := (congrArg (fun x => x.2.1) measured).trans g
  have line : (s.refreshLine l).line l = ((s.refreshActive l nd c).line l).clearRefresh := by
    rw [State.refreshLine_bound e, State.countsAgain, State.line_setLine, awake]
    rfl
  intro t
  rw [show t.line l = _ from line]
  obtain ⟨runs, states⟩ := (s.figures l (decide ((s.line l).applied < 80))).standing_learnLine l
  have standing := s.standing_figures l (decide ((s.line l).applied < 80))
  have run0 := runs.trans (congrArg Prod.snd standing)
  refine ⟨fun lost twelve => ?_, fun lost few known => ?_, fun quiet => ?_, fun loud => ?_⟩
  · have at_ := s.standing_refreshActive l nd c lost
    rw [State.standing_lostLine, run0] at at_
    refine (congrArg Prod.fst at_).trans ?_
    split
    · rfl
    next h => exact Decidable.byContradiction (fun ne => h ⟨twelve, ne⟩)
  · have at_ := s.standing_refreshActive l nd c lost
    have state0 := (states (fun one => known ((congrArg Prod.fst standing).symm.trans one))).trans (congrArg Prod.fst standing)
    rw [State.standing_lostLine, run0, state0, if_neg (fun h => absurd h.1 (Nat.not_le_of_lt few))] at at_
    exact ⟨congrArg Prod.snd at_, congrArg Prod.fst at_⟩
  · rw [decide_eq_true quiet] at age' g'
    exact ⟨age', g'⟩
  · rw [decide_eq_false (by omega)] at age' g'
    exact ⟨age', g'⟩

theorem refreshEnd_done (h : s.sv.refreshed = some s.mfN) : answers .refreshEnd s (fun t => t = s) :=
  answers_eq rfl (if_neg (fun x => x.2.2 h)) rfl

theorem refreshEnd_spec (on : s.flag Reg.SV_CTRL_EN = true) (boundary : s.mfN % 800 = 0) (fresh : s.sv.refreshed ≠ some s.mfN) (awake : s.inSatin = false) :
    answers .refreshEnd s (fun t => (∀ l ∈ s.boundLines, (t.line l).passes = 0 ∧ (t.line l).missing = 0 ∧ (t.line l).applied = 0) ∧
      ∀ l, s.boundLines = [l] →
        (400 ≤ (s.line l).missing → 12 ≤ (s.line l).lostRun + 1 → (t.line l).state = 9) ∧
        (400 ≤ (s.line l).missing → (s.line l).lostRun + 1 < 12 → (s.line l).state ≠ 1 → (t.line l).lostRun = (s.line l).lostRun + 1 ∧
          (t.line l).state = (s.line l).state) ∧
        ((s.line l).applied < 80 → (t.line l).age = min 65535 ((s.line l).age + 1) ∧
          (t.line l).g = (s.line l).g) ∧
        (80 ≤ (s.line l).applied → (t.line l).age = 0 ∧ (t.line l).g = loadFigure (s.line l).est)) := by
  refine answers_eq rfl rfl ⟨fun l mem => ?_, fun l only => ?_⟩
  · rw [State.line_refreshEnd l on boundary fresh]
    exact State.cleared_refreshLines _ (fun m hm => State.corr_of_bound (s := s) hm) (.inl mem)
  · have bound : (s.corr l).isSome = true := State.corr_of_bound (by rw [only]; exact List.mem_cons_self)
    rw [State.line_refreshEnd l on boundary fresh, only]
    exact State.refreshLine_spec (s := { s with sv := { s.sv with refreshed := some s.mfN } }) bound awake

/-! ## PILOT_WINDOW_END -/

theorem State.audit_svEvent (s : State) (code l new old : Nat) (dev : Int) (age g ref : Nat) :
    (s.svEvent code l new old dev age g ref).sv.audit = s.sv.audit := by
  have reported (u : State) : (u.reportedLine l code new).sv.audit = u.sv.audit := by
    unfold State.reportedLine
    split <;> rfl
  have shown (u : State) : u.showSv.sv.audit = u.sv.audit := congrArg SupSt.audit ((State.setB_moves (.refl [.regs] u) (by decide)).sv_eq (by decide))
  unfold State.svEvent
  split
  · extract_lets dws now sv
    have posted : now = none ∨ now = s.postEvent (s.f Reg.SV_EVENT_CTRL_CQ) dws 3 := by
      simp only [now]
      split
      · exact .inr rfl
      · exact .inl rfl
    clear_value now
    cases now with
    | some u =>
      have post := posted.resolve_left (fun e => nomatch e)
      exact (reported u).trans (congrArg SupSt.audit ((State.postEvent_moves (.refl [.regs, .qe, .fn, .out] s) (by decide) post.symm).sv_eq (by decide)))
    | none =>
      dsimp only
      split
      · rw [reported, shown]
      · rw [shown, State.bump_sv]
  · exact reported s

theorem State.audit_lineTo (s : State) (l new : Nat) (dev : Int) (g ref : Nat) (none' : s.sv.audit = none) : (s.lineTo l new dev g ref).sv.audit = none := by
  unfold State.lineTo
  extract_lets r a b
  rw [State.audit_svEvent]
  show a.sv.audit = none
  simp only [a, State.when]
  split
  · show s.sv.audit.map _ = none
    rw [none']
    rfl
  · exact none'

theorem State.audit_pilotBurst (s : State) (l : Nat) (c : CorrParams) (none' : s.sv.audit = none) : (s.pilotBurst l c).sv.audit = none := by
  have figure : (s.pilotFigure l c).1.sv.audit = none := by
    unfold State.pilotFigure
    extract_lets r g dev cls
    split <;> exact none'
  unfold State.pilotBurst
  split
  next u eq =>
    rw [eq] at figure
    exact figure
  next u m eq =>
    rw [eq] at figure
    extract_lets r
    split
    · exact figure
    · split
      · exact figure
      · split
        · exact u.audit_lineTo _ _ _ _ _ figure
        · exact figure

/-- A pilot whose window has ended leaves the line. -/
theorem State.burstEnd_spec {p : PilotRec} {e : Nat} (audit : s.sv.audit = none) (pilot : (s.line l).pilot = some p) (ends : p.ends = some e) (due : e ≤ s.mfN) :
    ((s.burstEnd l).line l).pilot = none ∧ (s.burstEnd l).sv.audit = none := by
  have over_ : p.ends.any (fun e => decide (e ≤ s.mfN)) = true := by
    rw [ends]
    exact decide_eq_true due
  rw [State.burstEnd, pilot]
  dsimp only
  rw [if_pos over_]
  refine ⟨by rw [State.line_setLine], ?_⟩
  show (match s.corr l with
    | some (_, _, c) => if p.cont = true then s else s.pilotBurst l c
    | none => s).sv.audit = none
  split
  · split
    · exact audit
    · exact s.audit_pilotBurst l _ audit
  · exact audit

theorem State.sweepEnd_pilot (audit : s.sv.audit = none) : ((s.sweepEnd l).line l).pilot = (s.line l).pilot := by
  rw [State.sweepEnd, audit]
  dsimp only
  split
  · rw [State.line_setLine]
  · rfl

theorem pilotWindowEnd_spec (line : Half) (p : PilotRec) (e : Nat) (audit : s.sv.audit = none) (pilot : (s.line line.toNat).pilot = some p)
    (ends : p.ends = some e) (due : e ≤ s.mfN) : answers (.pilotWindowEnd line) s (fun t => (t.line line.toNat).pilot = none) := by
  obtain ⟨gone, audit'⟩ := State.burstEnd_spec audit pilot ends due
  refine answers_eq rfl rfl ?_
  rw [State.line_of_moves (State.showLines_moves (.refl [.regs] _) (by decide)) (by decide), State.pilotWindowEnd, State.sweepEnd_pilot audit', gone]

/-! ## SV_BACKLOG_DRAIN -/

theorem State.showSv_sv (s : State) : s.showSv.sv = s.sv := (State.setB_moves (.refl [.regs] s) (by decide)).sv_eq (by decide)

theorem svBacklogDrain_idle (h : s.isPartner = true ∨ s.flag Reg.SV_EVENT_CTRL_EN = false) : answers .svBacklogDrain s (fun t => t.sv = s.sv ∧ t.out = s.out) := by
  have idle (k : Nat) : s.drainSv k = s := by
    cases k with
    | zero => rfl
    | succ k =>
      rw [State.drainSv]
      refine if_pos ?_
      rcases h with h | h
      · rw [h, Bool.or_true]
      · rw [h]
        rfl
  have moves : Moves [.regs] s s.showSv := State.setB_moves (.refl _ s) (by decide)
  exact answers_eq rfl (congrArg State.showSv (idle _)) ⟨moves.sv_eq (by decide), moves.out_eq (by decide)⟩

theorem svBacklogDrain_spec (e : UnitEvent) (r : List UnitEvent) (s1 : State) (own : s.isPartner = false) (on : s.flag Reg.SV_EVENT_CTRL_EN = true)
    (held : s.sv.held = e :: r) (post : s.postEvent (s.f Reg.SV_EVENT_CTRL_CQ) e.dws 3 = some s1) :
    answers .svBacklogDrain s (fun t => ∃ u : State, u.sv = { s.sv with held := r } ∧ u.qe = s1.qe ∧ u.out = s1.out ∧
      t = (u.drainSv (r.length + s.sv.lines.length)).showSv) := by
  have moves : Moves [.regs] { s1 with sv := { s1.sv with held := r } } (State.showSv { s1 with sv := { s1.sv with held := r } }) :=
    State.setB_moves (.refl _ _) (by decide)
  have sv : s1.sv = s.sv := (State.postEvent_moves (.refl [.regs, .qe, .fn, .out] s) (by decide) post).sv_eq (by decide)
  have eq : s.drainSv (s.sv.held.length + s.sv.lines.length) =
      (State.showSv { s1 with sv := { s1.sv with held := r } }).drainSv (r.length + s.sv.lines.length) := by
    rw [held, List.length_cons, Nat.add_right_comm, State.drainSv, on, own, held]
    simp only [post, Bool.not_true, Bool.or_self, Bool.false_eq_true, if_false]
  refine answers_eq rfl (congrArg State.showSv eq) ⟨_, ?_, moves.qe_eq (by decide), moves.out_eq (by decide), rfl⟩
  rw [moves.sv_eq (by decide)]
  show ({ s1.sv with held := r } : SupSt) = _
  rw [sv]

end

/-- Settles O18: a tap's chunk waits for its passes, then goes to its head buffer or is lost; and a refresh goes line by line, where each line's
counts start again and the other lines keep theirs. -/
theorem tapsWindowsAndRefreshes : Obligations.TapsWindowsAndRefreshes := by
  unfold Obligations.TapsWindowsAndRefreshes
  exact ⟨fun s => ⟨tapChunkComplete_spec, admitCfgWrite_spec, obsCtrlWrite_spec, obsWindowClose_idle, obsWindowClose_spec⟩,
    fun s => ⟨refreshEnd_done, refreshEnd_spec, pilotWindowEnd_spec, svBacklogDrain_idle, svBacklogDrain_spec⟩⟩

end Sys2Proof.Machine

namespace Sys2Proof.Machine

/-! # The class 0x03 node of a port in device role (R41, R47, R53, R59 to R67, R307, R308) -/

section
variable {s : State} {p : Nat} {k : TokenPkt}

theorem State.devNode_updNode (s : State) (p : Nat) (g : DevNode → DevNode) : (s.updNode p g).devNode p = g (s.devNode p) :=
  congrArg PortRec.dev (s.port_updPort p _)

/-- A handshake of a device that is not mute (R41, R304). -/
theorem State.nodeShake_out (kind : Nat) (loud : s.mute = false) : (s.nodeShake p k kind).out =
    .pkt p ⟨kind, answerFlags k, k.tag.toNat % 4096, 0, 0, 0, 0, []⟩ :: s.out ∧ (s.nodeShake p k kind).tree = s.tree := by
  rw [State.nodeShake, loud]
  exact ⟨rfl, rfl⟩

theorem State.devNode_nodeShake (s : State) (p : Nat) (k : TokenPkt) (kind : Nat) : (s.nodeShake p k kind).devNode p = s.devNode p := by
  unfold State.nodeShake
  split <;> rfl

/-! ## Which tokens the node takes -/

theorem State.deviceToken_absent (h : (!s.connected p || !s.portEnabled p || (s.trunk p).delinLost) = true) : s.deviceToken p k = s := if_pos h

/-- The port is there, and finds the packet (R76, R103). -/
def State.nodeThere (s : State) (p : Nat) : Prop := s.connected p = true ∧ s.portEnabled p = true ∧ (s.trunk p).delinLost = false

theorem State.nodeThere.found (h : s.nodeThere p) : ¬ (!s.connected p || !s.portEnabled p || (s.trunk p).delinLost) = true := by
  obtain ⟨conn, on, found⟩ := h
  rw [conn, on, found]
  decide

theorem State.deviceToken_bcast (h : s.nodeThere p) (kind : k.kind.toNat = Pk.bcast) :
    s.deviceToken p k = s.nodeBcast p k.tag.toNat (k.length.toNat % 256) := (if_neg h.found).trans (if_pos kind)

theorem State.deviceToken_reset (h : s.nodeThere p) (kind : k.kind.toNat = 3) : s.deviceToken p k = s.updNode p (fun d => { d with lockedAt := none }) :=
  (if_neg h.found).trans ((if_neg (by rw [kind]; decide)).trans (if_pos kind))

/-- What a token that is neither a broadcast nor a MOUT does at the node it names. -/
def State.nodeToken (s : State) (p : Nat) (k : TokenPkt) : State :=
  let ep := k.handle.toNat % 16
  if k.kind.toNat = Pk.in_ then if 9 ≤ ep then s.nodeIn p (ep - 8) k else s
  else if k.kind.toNat = Pk.out then if 1 ≤ ep ∧ ep ≤ 7 then s.nodeTake p ep ep k else s
  else s.nodeControl p k

theorem State.deviceToken_own (h : s.nodeThere p) (addr : k.handle.toNat / 16 = (s.devNode p).addr) (bcast : k.kind.toNat ≠ Pk.bcast) (reset : k.kind.toNat ≠ 3)
    (mout : k.kind.toNat ≠ Pk.mout) : s.deviceToken p k = s.nodeToken p k :=
  (if_neg h.found).trans ((if_neg bcast).trans ((if_neg reset).trans ((if_neg mout).trans (if_neg (fun ne => ne addr)))))

theorem State.deviceToken_other (h : s.nodeThere p) (addr : k.handle.toNat / 16 ≠ (s.devNode p).addr) (bcast : k.kind.toNat ≠ Pk.bcast)
    (reset : k.kind.toNat ≠ 3) (mout : k.kind.toNat ≠ Pk.mout) : s.deviceToken p k = s :=
  (if_neg h.found).trans ((if_neg bcast).trans ((if_neg reset).trans ((if_neg mout).trans (if_pos addr))))

theorem State.nodeToken_control (in_ : k.kind.toNat ≠ Pk.in_) (out : k.kind.toNat ≠ Pk.out) : s.nodeToken p k = s.nodeControl p k :=
  (if_neg in_).trans (if_neg out)

/-! ## Endpoint 0 (R59, R64, R65) -/

theorem State.nodeControl_lock (kind : k.kind.toNat = Pk.lock) (ep : k.handle.toNat % 16 = 0) :
    s.nodeControl p k = (s.updNode p (fun d => { d with lockedAt := some s.now })).nodeShake p k Pk.lockAck := (if_pos kind).trans (if_pos ep)

theorem State.nodeControl_unlock (kind : k.kind.toNat = Pk.unlock) (ep : k.handle.toNat % 16 = 0) : s.nodeControl p k =
    if s.nodeLocked p then (s.updNode p (fun d => { d with lockedAt := none })).nodeShake p k Pk.ack else s.nodeShake p k Pk.err :=
  (if_neg (by rw [kind]; decide)).trans ((if_pos kind).trans (if_neg (fun ne => ne ep)))

theorem State.nodeControl_setup (kind : k.kind.toNat = Pk.setup) (ep : k.handle.toNat % 16 = 0) (lock : nbit k.flags.toNat 3 = s.nodeLocked p) :
    s.nodeControl p k = s.nodeSetup p k := by
  have own : ¬ ((k.kind.toNat = Pk.setup ∨ k.kind.toNat = Pk.bulkOut) ∧ k.handle.toNat % 16 ≠ 0 ∨
      (k.kind.toNat = Pk.bulkIn ∨ k.kind.toNat = Pk.ping) ∧ k.handle.toNat % 16 ≠ 8) := by
    rw [kind, ep]
    decide
  refine (if_neg (by rw [kind]; decide)).trans ((if_neg (by rw [kind]; decide)).trans ((if_neg own).trans ((if_neg ?_).trans ((if_neg ?_).trans (if_pos kind)))))
  · rw [lock, Bool.and_not_self]
    exact Bool.false_ne_true
  · rw [lock, Bool.and_not_self]
    exact Bool.false_ne_true

theorem State.nodeSetup_supported (len : k.payload.length = 16) (seq : k.dataSeq = 0) (known : nodeSupports k.payload = true) :
    s.nodeSetup p k = (s.updNode p (fun d => { d with setup := k.payload, stage := 1, next := 1 })).nodeShake p k Pk.ack :=
  (if_neg (fun h => h.elim (fun ne => ne len) (fun ne => ne seq))).trans (if_pos known)

/-! ## Periodic endpoints (R47, R53, R307, R308) -/

/-- The DATA of an OUT is new: its SEQ is kept, and its block is a SOURCE's input unless its cut-off is over (R53, R227, R308). -/
theorem State.nodeTake_spec {e key : Nat} (fresh : (s.devNode p).last key ≠ some k.dataSeq.toNat) (fits : k.payload.length ≤ 192) :
    ((s.nodeTake p e key k).devNode p).last key = some k.dataSeq.toNat ∧ (s.nodeTake p e key k).out = s.out ∧
      if s.cutOffOver k.dataSeq.toNat = true ∧ ¬(e = 1 ∧ s.markTrunks = []) then (s.nodeTake p e key k).mre = s.mre
      else Tbl.get (fun _ => none) (s.nodeTake p e key k).mre.casc (cascKey p 0 e k.dataSeq.toNat) = some (k.dataSeq.toNat, k.payload) := by
  unfold State.nodeTake
  extract_lets q u mre
  rw [if_neg (not_or.mpr ⟨fresh, Nat.not_lt_of_le fits⟩)]
  have last : (u.devNode p).last key = some q := by
    rw [State.devNode_updNode]
    exact Tbl.get_set_same (d := fun _ => none) (s.devNode p).lastSeq key (some q)
  have cut : u.cutOffOver q = s.cutOffOver q := rfl
  have marks : u.markTrunks = s.markTrunks := rfl
  have same : u.mre = s.mre ∧ u.out = s.out := ⟨rfl, rfl⟩
  have iff : (u.cutOffOver q = true ∧ (!(e == 1 && u.markTrunks.isEmpty)) = true) ↔ s.cutOffOver q = true ∧ ¬(e = 1 ∧ s.markTrunks = []) := by
    rw [cut, marks, Bool.not_eq_true', ← Bool.not_eq_true, Bool.and_eq_true, beq_iff_eq, List.isEmpty_iff]
  clear_value u
  by_cases over_ : s.cutOffOver q = true ∧ ¬(e = 1 ∧ s.markTrunks = [])
  · rw [if_pos (iff.mpr over_), if_pos over_]
    exact ⟨last, same.2, same.1⟩
  · rw [if_neg (fun h => over_ (iff.mp h)), if_neg over_]
    have moves : Moves [.mre, .regs, .gd] u (State.blockNotice { u with mre := { u.mre with
        casc := Tbl.set (fun _ => none) u.mre.casc (cascKey p 0 e q) (some (q, k.payload)) } } (0x200000 + p * 8 + e)) :=
      State.blockNotice_moves (.mre (.refl _ u) (by decide) _) (by decide)
    have notice : Moves [.regs, .gd] { u with mre := { u.mre with casc := Tbl.set (fun _ => none) u.mre.casc (cascKey p 0 e q) (some (q, k.payload)) } }
        (State.blockNotice { u with mre := { u.mre with
          casc := Tbl.set (fun _ => none) u.mre.casc (cascKey p 0 e q) (some (q, k.payload)) } } (0x200000 + p * 8 + e)) :=
      State.blockNotice_moves (.refl _ _) (by decide)
    refine ⟨?_, (moves.out_eq (by decide)).trans same.2, ?_⟩
    · rw [State.devNode, State.port, moves.tree_eq (by decide)]
      exact last
    · rw [notice.mre_eq (by decide)]
      exact Tbl.get_set_same (d := fun _ => none) u.mre.casc (cascKey p 0 e q) (some (q, k.payload))

theorem State.nodeIn_out {e : Nat} {b : List Byte} (loud : s.mute = false)
    (block : Tbl.get (fun _ => none) s.mre.casc (cascKey p 1 e (k.seq.toNat + 65535)) = some ((k.seq.toNat + 65535) % 65536, b)) :
    (s.nodeIn p e k).out = .pkt p ⟨Pk.data, answerFlags k, k.tag.toNat % 4096, k.handle.toNat, 0, (b.take k.length.toNat).length, k.seq.toNat,
      b.take k.length.toNat⟩ :: s.out := by
  unfold State.nodeIn
  extract_lets pass block'
  have same : block' = b := by
    simp only [block', pass]
    rw [block]
    exact if_pos rfl
  rw [same, State.nodeData, loud]
  rfl

/-! ## Broadcasts (R66, R67) -/

theorem State.nodeBcast_spec (s : State) (p effect command : Nat) (known : command = 1 ∨ command = 3) :
    let ahead := (effect + 65536 - (s.devNode p).mfn) % 65536
    (s.nodeBcast p effect command).out = s.out ∧ if ahead = 0 ∨ 32768 ≤ ahead then
        ((s.nodeBcast p effect command).devNode p).late = min ((s.devNode p).late + 1) 65535
      else if command = 1 then ((s.nodeBcast p effect command).devNode p).snapAt = effect :: (s.devNode p).snapAt
      else ((s.nodeBcast p effect command).devNode p).clearAt = effect :: (s.devNode p).clearAt := by
  intro ahead
  unfold State.nodeBcast
  rw [if_neg (fun h => known.elim h.1 h.2)]
  by_cases late : ahead = 0 ∨ 32768 ≤ ahead
  · rw [if_pos late, if_pos late, State.devNode_updNode]
    exact ⟨rfl, rfl⟩
  · rw [if_neg late, if_neg late]
    split
    · rw [State.devNode_updNode]
      exact ⟨rfl, rfl⟩
    · rw [State.devNode_updNode]
      exact ⟨rfl, rfl⟩

/-! ## The command -/

/-- What the node does with a token that names it. -/
theorem deviceRoleTokenReceived_own (p : Trunk) (k : TokenPkt) (h : s.nodeThere p) (addr : k.handle.toNat / 16 = (s.devNode p).addr) (loud : s.mute = false) :
    (k.kind.toNat = Pk.lock → k.handle.toNat % 16 = 0 → answers (.deviceRoleTokenReceived p k) s (fun t =>
      (t.devNode p).lockedAt = some s.now ∧
      t.out = .pkt p ⟨Pk.lockAck, answerFlags k, k.tag.toNat % 4096, 0, 0, 0, 0, []⟩ :: s.out)) ∧
    (k.kind.toNat = Pk.unlock → k.handle.toNat % 16 = 0 → answers (.deviceRoleTokenReceived p k) s (fun t => if s.nodeLocked p then
        (t.devNode p).lockedAt = none ∧ t.out = .pkt p ⟨Pk.ack, answerFlags k, k.tag.toNat % 4096, 0, 0, 0, 0, []⟩ :: s.out
      else t.tree = s.tree ∧ t.out = .pkt p ⟨Pk.err, answerFlags k, k.tag.toNat % 4096, 0, 0, 0, 0, []⟩ :: s.out)) ∧
    (k.kind.toNat = Pk.setup → k.handle.toNat % 16 = 0 → nbit k.flags.toNat 3 = s.nodeLocked p → k.payload.length = 16 → k.dataSeq = 0 →
      nodeSupports k.payload = true → answers (.deviceRoleTokenReceived p k) s (fun t => (t.devNode p).setup = k.payload ∧
        (t.devNode p).stage = 1 ∧ (t.devNode p).next = 1 ∧
        t.out = .pkt p ⟨Pk.ack, answerFlags k, k.tag.toNat % 4096, 0, 0, 0, 0, []⟩ :: s.out)) ∧
    (k.kind.toNat = Pk.out → 1 ≤ k.handle.toNat % 16 → k.handle.toNat % 16 ≤ 7 → k.payload.length ≤ 192 →
      (s.devNode p).last (k.handle.toNat % 16) ≠ some k.dataSeq.toNat → answers (.deviceRoleTokenReceived p k) s (fun t =>
        (t.devNode p).last (k.handle.toNat % 16) = some k.dataSeq.toNat ∧ t.out = s.out ∧
        if s.cutOffOver k.dataSeq.toNat = true ∧ ¬(k.handle.toNat % 16 = 1 ∧ s.markTrunks = []) then t.mre = s.mre
        else Tbl.get (fun _ => none) t.mre.casc (cascKey p 0 (k.handle.toNat % 16) k.dataSeq.toNat) = some (k.dataSeq.toNat, k.payload))) ∧
    (∀ b, k.kind.toNat = Pk.in_ → 9 ≤ k.handle.toNat % 16 →
      Tbl.get (fun _ => none) s.mre.casc (cascKey p 1 (k.handle.toNat % 16 - 8) (k.seq.toNat + 65535)) =
        some ((k.seq.toNat + 65535) % 65536, b) → answers (.deviceRoleTokenReceived p k) s (fun t =>
        t.out = .pkt p ⟨Pk.data, answerFlags k, k.tag.toNat % 4096, k.handle.toNat, 0, (b.take k.length.toNat).length, k.seq.toNat,
          b.take k.length.toNat⟩ :: s.out)) := by
  have own (kind : k.kind.toNat = Pk.lock ∨ k.kind.toNat = Pk.unlock ∨ k.kind.toNat = Pk.setup ∨ k.kind.toNat = Pk.out ∨ k.kind.toNat = Pk.in_) :
      s.deviceToken p k = s.nodeToken p k := by
    refine State.deviceToken_own h addr ?_ ?_ ?_ <;> rcases kind with e | e | e | e | e <;> rw [e] <;> decide
  have control (kind : k.kind.toNat = Pk.lock ∨ k.kind.toNat = Pk.unlock ∨ k.kind.toNat = Pk.setup) : s.deviceToken p k = s.nodeControl p k := by
    refine (own (kind.imp id (fun e => e.imp id .inl))).trans (State.nodeToken_control ?_ ?_) <;> rcases kind with e | e | e <;> rw [e] <;> decide
  refine ⟨fun kind ep => ?_, fun kind ep => ?_, fun kind ep lock len seq known => ?_, fun kind lo hi fits fresh => ?_, fun b kind ep block => ?_⟩
  · refine answers_eq rfl ((control (.inl kind)).trans (State.nodeControl_lock kind ep)) ⟨?_, ?_⟩
    · rw [State.devNode_nodeShake, State.devNode_updNode]
    · exact (State.nodeShake_out (s := s.updNode p (fun d => { d with lockedAt := some s.now })) _ loud).1
  · refine answers_eq rfl ((control (.inr (.inl kind))).trans (State.nodeControl_unlock kind ep)) ?_
    split
    · refine ⟨?_, (State.nodeShake_out (s := s.updNode p (fun d => { d with lockedAt := none })) _ loud).1⟩
      rw [State.devNode_nodeShake, State.devNode_updNode]
    · obtain ⟨out, tree⟩ := State.nodeShake_out (s := s) (p := p) (k := k) Pk.err loud
      exact ⟨tree, out⟩
  · have node : ((s.updNode p (fun d => { d with setup := k.payload, stage := 1, next := 1 })).nodeShake p k Pk.ack).devNode p =
        { s.devNode p with setup := k.payload, stage := 1, next := 1 } := by
      rw [State.devNode_nodeShake, State.devNode_updNode]
    refine answers_eq rfl ((control (.inr (.inr kind))).trans ((State.nodeControl_setup kind ep lock).trans (State.nodeSetup_supported len seq known))) ⟨?_, ?_, ?_,
      (State.nodeShake_out (s := s.updNode p (fun d => { d with setup := k.payload, stage := 1, next := 1 })) _ loud).1⟩ <;> rw [node]
  · have eq : s.nodeToken p k = s.nodeTake p (k.handle.toNat % 16) (k.handle.toNat % 16) k :=
      (if_neg (by rw [kind]; decide)).trans ((if_pos kind).trans (if_pos ⟨lo, hi⟩))
    exact answers_eq rfl ((own (.inr (.inr (.inr (.inl kind))))).trans eq) (State.nodeTake_spec fresh fits)
  · have eq : s.nodeToken p k = s.nodeIn p (k.handle.toNat % 16 - 8) k := (if_pos kind).trans (if_pos ep)
    exact answers_eq rfl ((own (.inr (.inr (.inr (.inr kind))))).trans eq) (State.nodeIn_out loud block)

end

/-- Settles O42: a token that the node does not find, or that names another one, does nothing; a broadcast waits for its mark; and each kind of token
that names the node has its branch. -/
theorem cascadeNodeAnswersTokens : Obligations.CascadeNodeAnswersTokens := by
  unfold Obligations.CascadeNodeAnswersTokens
  intro s p k
  refine ⟨fun away => ?_, fun lost => ?_, fun conn on found => ?_⟩
  · exact answers_eq rfl (State.deviceToken_absent (by rw [away]; rfl)) rfl
  · exact answers_eq rfl (State.deviceToken_absent (by rw [lost, Bool.or_true])) rfl
  · have there : s.nodeThere p := ⟨conn, on, found⟩
    refine ⟨fun addr loud => deviceRoleTokenReceived_own p k there addr loud, fun kind known => ?_, fun kind => ?_, fun addr bcast reset mout => ?_⟩
    · exact answers_eq rfl (State.deviceToken_bcast there kind) (s.nodeBcast_spec p _ _ known)
    · refine answers_eq rfl (State.deviceToken_reset there kind) ⟨?_, rfl⟩
      rw [State.devNode_updNode]
    · exact answers_eq rfl (State.deviceToken_other there addr bcast reset mout) rfl

end Sys2Proof.Machine

namespace Sys2Proof.Machine

/-! # Lanes enter LPI with their trunk and leave it (R78, R86, R93) -/

/-- The registers that the state of any lane lies in. -/
def everyLaneRegs : List Nat := (List.range 192).flatMap stateRegs

theorem not_mem_everyLaneRegs {a : Nat} (low : a < 0xa00000 ∨ 0xac0000 ≤ a) (status : a ≠ Reg.CKG_STATUS) (events : a ≠ Reg.CKG_REF_EVENTS) :
    a ∉ everyLaneRegs := by
  simp only [everyLaneRegs, List.mem_flatMap, List.mem_range, stateRegs, Reg.LX_LANE_STATUS, Reg.LX_PRBS_STATUS, Reg.laneBase, List.mem_cons,
    List.not_mem_nil, or_false, not_exists, not_and, not_or]
  exact fun n h => ⟨by omega, by omega, status, events⟩

theorem stateRegs_subset_every {n : Nat} (h : n < 192) : stateRegs n ⊆ everyLaneRegs := fun _ ha =>
  List.mem_flatMap.mpr ⟨n, List.mem_range.mpr h, ha⟩

theorem shapeless_everyLaneRegs : shapeless everyLaneRegs := by
  refine ⟨not_mem_everyLaneRegs (by decide) (by decide) (by decide), not_mem_everyLaneRegs (by decide) (by decide) (by decide), fun q mem => ?_⟩
  obtain ⟨n, lt, mem⟩ := List.mem_flatMap.mp mem
  exact (shapeless_stateRegs (List.mem_range.mp lt)).2.2 q mem

section
variable {s : State} {n m : Nat}

/-! ## Into LPI (R86, R93) -/

/-- Lane `n` is in LPI with its adaptation frozen. -/
def State.asleep (s : State) (n : Nat) : Prop := s.laneState n = Ls.lpi ∧ s.flag (Reg.LX_LANE_STATUS_ADAPT_FROZEN n) = true

/-- Lane `m` falls quiet. -/
def State.laneSleeps (s : State) (m : Nat) : State := (s.setLane m Ls.lpi).setB (Reg.LX_LANE_STATUS_ADAPT_FROZEN m) true

theorem frozen_apart_state (n : Nat) : (Reg.LX_LANE_STATUS_ADAPT_FROZEN n).apart (Reg.LX_LANE_STATUS_STATE n) = true := by
  simp [Fld.apart, Reg.LX_LANE_STATUS_ADAPT_FROZEN, Reg.LX_LANE_STATUS_STATE]

theorem lane_status_not_mem (h : n ≠ m) : Reg.LX_LANE_STATUS n ∉ stateRegs m := by
  simp only [stateRegs, Reg.LX_LANE_STATUS, Reg.LX_PRBS_STATUS, Reg.laneBase, Reg.CKG_STATUS, Reg.CKG_REF_EVENTS, List.mem_cons, List.not_mem_nil,
    or_false]
  omega

theorem State.regsBut_laneSleeps (s : State) (m : Nat) : s.regsBut (stateRegs m) (s.laneSleeps m) := (s.regsBut_setLane m Ls.lpi).setB _ (.head _)

theorem State.asleep_laneSleeps (s : State) (m : Nat) : (s.laneSleeps m).asleep m :=
  ⟨(State.f_setB_apart _ _ (frozen_apart_state m)).trans (s.laneState_setLane m (by decide)),
    State.flag_setB_same _ _ (by simp [Fld.fits, Reg.LX_LANE_STATUS_ADAPT_FROZEN]) rfl⟩

theorem State.laneState_laneSleeps (h : n ≠ m) : (s.laneSleeps m).laneState n = s.laneState n :=
  (s.regsBut_laneSleeps m).f (x := Reg.LX_LANE_STATUS_STATE n) (lane_status_not_mem h)

theorem State.asleep.laneSleeps (h : s.asleep n) (m : Nat) : (s.laneSleeps m).asleep n := by
  by_cases same : n = m
  · exact same ▸ s.asleep_laneSleeps n
  · exact ⟨(State.laneState_laneSleeps same).trans h.1,
      ((s.regsBut_laneSleeps m).flag (x := Reg.LX_LANE_STATUS_ADAPT_FROZEN n) (lane_status_not_mem same)).trans h.2⟩

/-- The lanes of a list fall quiet, and no others. -/
theorem State.foldl_laneSleeps (s : State) (l : List Nat) (small : ∀ m ∈ l, m < 192) : s.regsBut everyLaneRegs (l.foldl State.laneSleeps s) ∧
    (∀ n, n ∈ l ∨ s.asleep n → (l.foldl State.laneSleeps s).asleep n) ∧
    ∀ n, n ∉ l → (l.foldl State.laneSleeps s).laneState n = s.laneState n := by
  induction l generalizing s with
  | nil => exact ⟨.refl _ s, fun n h => h.resolve_left List.not_mem_nil, fun _ _ => rfl⟩
  | cons m l ih =>
    obtain ⟨regs, sleep, other⟩ := ih (s.laneSleeps m) fun i hi => small i (.tail _ hi)
    refine ⟨((s.regsBut_laneSleeps m).mono (stateRegs_subset_every (small m (.head _)))).trans regs, fun n h => sleep n ?_, fun n h => ?_⟩
    · rcases h with mem | was
      · rcases List.mem_cons.mp mem with rfl | mem
        · exact .inr (s.asleep_laneSleeps n)
        · exact .inl mem
      · exact .inr (was.laneSleeps m)
    · exact (other n fun mem => h (.tail _ mem)).trans (State.laneState_laneSleeps (List.ne_of_not_mem_cons h))

/-- Lane `n` carries traffic: UP or RETRAINING. -/
def State.awake (s : State) (n : Nat) : Prop := s.laneState n = Ls.up ∨ s.laneState n = Ls.retraining

/-- A trunk's lanes that carry traffic enter LPI; every other lane is as before. -/
theorem State.enterLpi_spec (s : State) (t : Nat) : s.regsBut everyLaneRegs (s.enterLpi t) ∧ (∀ n, s.asleep n → (s.enterLpi t).asleep n) ∧
    ∀ n, s.awake n → if n ∈ s.lanesOf t then (s.enterLpi t).asleep n else (s.enterLpi t).laneState n = s.laneState n := by
  unfold State.enterLpi
  extract_lets l u
  have mem : ∀ n, n ∈ l ↔ n ∈ s.lanesOf t ∧ s.awake n := fun n => by
    simp only [l, List.mem_filter, Bool.or_eq_true, beq_iff_eq, State.awake, Ls.up, Ls.retraining]
  split
  next none =>
    have none : ∀ n, n ∉ l := fun n h => by rw [List.isEmpty_iff.mp none] at h; exact List.not_mem_nil h
    refine ⟨.refl _ s, fun _ h => h, fun n h => ?_⟩
    rw [if_neg fun at_ => none n ((mem n).mpr ⟨at_, h⟩)]
  next =>
    obtain ⟨regs, sleep, other⟩ := State.foldl_laneSleeps (u.emit (.ctl t Ct.lpi (16 * u.width t))) l fun n h => s.lanesOf_lt ((mem n).mp h).1
    have same : (u.emit (.ctl t Ct.lpi (16 * u.width t))).regs = s.regs := rfl
    refine ⟨((State.regsBut.refl _ s).keep same).trans regs, fun n h => sleep n (.inr h), fun n h => ?_⟩
    split
    next at_ => exact sleep n (.inl ((mem n).mpr ⟨at_, h⟩))
    next out => exact other n fun inl => out ((mem n).mp inl).1

/-- The trunks of a list enter LPI. -/
theorem State.foldl_enterLpi (s : State) (l : List Nat) : s.regsBut everyLaneRegs (l.foldl State.enterLpi s) ∧
    ∀ n, s.asleep n ∨ s.awake n ∧ (∃ t ∈ l, n ∈ s.lanesOf t) → (l.foldl State.enterLpi s).asleep n := by
  induction l generalizing s with
  | nil => exact ⟨.refl _ s, fun n h => h.resolve_right fun ⟨_, t, mem, _⟩ => List.not_mem_nil mem⟩
  | cons t l ih =>
    obtain ⟨regs, sleep⟩ := ih (s.enterLpi t)
    obtain ⟨first, kept, enters⟩ := s.enterLpi_spec t
    refine ⟨first.trans regs, fun n h => sleep n ?_⟩
    rcases h with was | ⟨live, u, mem, at_⟩
    · exact .inl (kept n was)
    · have goes := enters n live
      split at goes
      next => exact .inl goes
      next out =>
        have later : u ∈ l := (List.mem_cons.mp mem).resolve_left fun e => out (e ▸ at_)
        refine .inr ⟨?_, u, later, ?_⟩
        · rwa [State.awake, goes]
        · rwa [first.lanesOf shapeless_everyLaneRegs]

/-! ## Out of LPI (R78, R93) -/

theorem State.sendMarker_other (h : n ≠ m) : (s.sendMarker m).lane n = s.lane n := by
  rw [State.sendMarker, State.lane_updLane_other _ h, State.emit_lane]

/-- Markers go out on the lanes of a list; the records of the others are left. -/
theorem State.foldl_sendMarker_spec (s : State) (l : List Nat) : (l.foldl (fun s n => s.sendMarker n) s).regs = s.regs ∧
    (∀ e ∈ s.out, e ∈ (l.foldl (fun s n => s.sendMarker n) s).out) ∧ (∀ n ∈ l, s.markerOf n ∈ (l.foldl (fun s n => s.sendMarker n) s).out) ∧
    ∀ n, n ∉ l → (l.foldl (fun s n => s.sendMarker n) s).lane n = s.lane n := by
  obtain ⟨-, out, -⟩ := s.foldl_sendMarker l
  refine ⟨?_, fun e he => ?_, fun n hn => ?_, ?_⟩
  · exact State.foldl_eq (p := fun u => u.regs) (f := fun s n => s.sendMarker n) (fun u n => u.sendMarker_regs n) l
  · rw [out]
    exact List.mem_append_right _ he
  · rw [out]
    exact List.mem_append_left _ (List.mem_reverse.mpr (List.mem_map_of_mem hn))
  · clear out
    induction l generalizing s with
    | nil => exact fun _ _ => rfl
    | cons m l ih =>
      intro n h
      exact (ih (s.sendMarker m) n fun mem => h (.tail _ mem)).trans (State.sendMarker_other (List.ne_of_not_mem_cons h))

/-- Markers that go out on lanes that turn on. -/
theorem State.lanesOn_spec (s : State) (t : Nat) (l : List Nat) : (s.lanesOn t l).regs = s.regs ∧ (∀ e ∈ s.out, e ∈ (s.lanesOn t l).out) ∧
    (∀ n ∈ l, s.markerOf n ∈ (s.lanesOn t l).out) ∧ ∀ n, n ∉ l → (s.lanesOn t l).lane n = s.lane n := by
  unfold State.lanesOn
  split
  next none =>
    rw [List.isEmpty_iff.mp none]
    exact ⟨rfl, fun _ h => h, fun n h => absurd h List.not_mem_nil, fun _ _ => rfl⟩
  next =>
    obtain ⟨regs, grows, sent, other⟩ := (s.emit (.ctl t 0x1E (wakeIdle * s.width t))).foldl_sendMarker_spec l
    exact ⟨regs, fun e he => grows e (.tail _ he), fun n h => sent n h, other⟩

theorem State.markerAt_setLane (s : State) (m st n : Nat) : ((s.setLane m st).lane n).markerAt = (s.lane n).markerAt := by
  by_cases same : n = m
  · subst same
    obtain ⟨c, h, e⟩ := s.lane_setLane n st
    rw [e]
  · rw [s.lanesBut_setLane m st n same]

/-- Lanes go UP: what they and the others keep. -/
theorem State.foldl_setUp_spec (s : State) (l : List Nat) (small : ∀ m ∈ l, m < 192) :
    s.regsBut everyLaneRegs (l.foldl (fun s n => s.setLane n Ls.up) s) ∧ (l.foldl (fun s n => s.setLane n Ls.up) s).out = s.out ∧
    (∀ n, ((l.foldl (fun s n => s.setLane n Ls.up) s).lane n).markerAt = (s.lane n).markerAt) ∧
    ∀ n, n ∉ l → (l.foldl (fun s n => s.setLane n Ls.up) s).laneState n = s.laneState n := by
  induction l generalizing s with
  | nil => exact ⟨.refl _ s, rfl, fun _ => rfl, fun _ _ => rfl⟩
  | cons m l ih =>
    obtain ⟨regs, out, marks, other⟩ := ih (s.setLane m Ls.up) fun i hi => small i (.tail _ hi)
    refine ⟨((s.regsBut_setLane m _).mono (stateRegs_subset_every (small m (.head _)))).trans regs, out.trans (s.setLane_out m _),
      fun n => (marks n).trans (s.markerAt_setLane m _ n), fun n h => ?_⟩
    exact (other n fun mem => h (.tail _ mem)).trans (s.laneState_setLane_other (List.ne_of_not_mem_cons h))

/-- What becomes of the lanes that a trunk takes out of LPI, and of the others. -/
theorem State.leaveLpi_spec (s : State) (t : Nat) : s.regsBut everyLaneRegs (s.leaveLpi t) ∧ (∀ e ∈ s.out, e ∈ (s.leaveLpi t).out) ∧
    (∀ n, s.laneState n = Ls.up → (s.leaveLpi t).laneState n = Ls.up) ∧
    ∀ n, s.laneState n = Ls.lpi → if n ∈ s.lanesOf t then (s.leaveLpi t).laneState n = Ls.up ∧
      ((s.lane n).markerAt + 250 < s.now → s.markerOf n ∈ (s.leaveLpi t).out)
      else (s.leaveLpi t).laneState n = Ls.lpi ∧ ((s.leaveLpi t).lane n).markerAt = (s.lane n).markerAt := by
  unfold State.leaveLpi
  extract_lets l
  have mem : ∀ n, n ∈ l ↔ n ∈ s.lanesOf t ∧ s.laneState n = Ls.lpi := fun n => by
    simp only [l, List.mem_filter, beq_iff_eq]
  obtain ⟨regs, grows, sent, other⟩ := s.lanesOn_spec t (l.filter (fun n => decide ((s.lane n).markerAt + 250 < s.now)))
  generalize s.lanesOn t (l.filter (fun n => decide ((s.lane n).markerAt + 250 < s.now))) = u at *
  obtain ⟨up, -, -, -⟩ := State.foldl_setUp (s := u) l
  obtain ⟨after, out, marks, rest⟩ := u.foldl_setUp_spec l fun n h => s.lanesOf_lt ((mem n).mp h).1
  have state : ∀ n, u.laneState n = s.laneState n := fun n => State.f_of_regs regs _
  refine ⟨((State.regsBut.refl _ s).keep regs).trans after, fun e he => out ▸ grows e he, fun n h => up n (.inr ((state n).trans h)), fun n h => ?_⟩
  split
  next at_ =>
    have inl := (mem n).mpr ⟨at_, h⟩
    exact ⟨up n (.inl inl), fun late => out ▸ sent n (List.mem_filter.mpr ⟨inl, decide_eq_true late⟩)⟩
  next away =>
    have notin : n ∉ l := fun inl => away ((mem n).mp inl).1
    exact ⟨(rest n notin).trans ((state n).trans h), (marks n).trans (congrArg LaneRec.markerAt (other n fun m => notin (List.mem_filter.mp m).1))⟩

theorem State.regsBut.markerOf {u : State} (h : s.regsBut everyLaneRegs u) (n : Nat) : u.markerOf n = s.markerOf n := by
  rw [State.markerOf, h.laneByte shapeless_everyLaneRegs, h.trunkOf shapeless_everyLaneRegs, State.markerOf]

theorem State.leaveLpi_now (s : State) (t : Nat) : (s.leaveLpi t).now = s.now := by
  have moves : Moves [.regs, .lx, .ck, .free, .out] s (s.leaveLpi t) := State.leaveLpi_moves (.refl _ s) (by decide)
  exact congrArg (fun t : TimeSt => t.tick.toNat) (moves.time_eq (by decide))

/-- The lanes of the trunks of a list leave LPI, each behind the marker that it owes. -/
theorem State.foldl_leaveLpi (s : State) (l : List Nat) : s.regsBut everyLaneRegs (l.foldl State.leaveLpi s) ∧
    (∀ e ∈ s.out, e ∈ (l.foldl State.leaveLpi s).out) ∧ (∀ n, s.laneState n = Ls.up → (l.foldl State.leaveLpi s).laneState n = Ls.up) ∧
    ∀ n, s.laneState n = Ls.lpi → (∃ t ∈ l, n ∈ s.lanesOf t) → (l.foldl State.leaveLpi s).laneState n = Ls.up ∧
      ((s.lane n).markerAt + 250 < s.now → s.markerOf n ∈ (l.foldl State.leaveLpi s).out) := by
  induction l generalizing s with
  | nil => exact ⟨.refl _ s, fun _ h => h, fun _ h => h, fun n _ ⟨t, mem, _⟩ => absurd mem List.not_mem_nil⟩
  | cons t l ih =>
    obtain ⟨regs, grows, up, low⟩ := ih (s.leaveLpi t)
    obtain ⟨first, grow, stay, leaves⟩ := s.leaveLpi_spec t
    refine ⟨first.trans regs, fun e he => grows e (grow e he), fun n h => up n (stay n h), fun n h ⟨v, mem, at_⟩ => ?_⟩
    have goes := leaves n h
    split at goes
    next => exact ⟨up n goes.1, fun late => grows _ (goes.2 late)⟩
    next away =>
      have later : v ∈ l := (List.mem_cons.mp mem).resolve_left fun e => away (e ▸ at_)
      obtain ⟨done, sent⟩ := low n goes.1 ⟨v, later, by rwa [first.lanesOf shapeless_everyLaneRegs]⟩
      refine ⟨done, fun late => ?_⟩
      rw [goes.2, s.leaveLpi_now t, first.markerOf] at sent
      exact sent late

end

end Sys2Proof.Machine

namespace Sys2Proof.Machine

/-! # SATIN is entered and left (R93, R136, R224, R226, R244, R261, R449, R451) -/

/-! ## The entry (R449) -/

/-- The registers that the entry into SATIN sets before the lanes follow. -/
def satinRegs : List Nat := [Reg.PMU_STATUS, Reg.PMU_DVFS_STATUS, Reg.MRE_STATUS, Reg.TS_STATUS, Reg.SV_STATUS]

/-- The PMU's record and its status once SATIN is entered. -/
def State.satinShown (v : State) : State :=
  let s := (v.updPm (fun p => { p with entryAt := none, sleptAt := some v.now, steps := false, step1At := none, dvfs := none })).updPu
    (fun u => { u with switchAt := none })
  let s := ((s.setF Reg.PMU_STATUS_STATE 2).setB Reg.PMU_STATUS_RESTORED false).setB Reg.PMU_DVFS_STATUS_BUSY false
  ((s.setB Reg.MRE_STATUS_P0_ONLY true).setB Reg.TS_STATUS_SATIN_WALK true).setB Reg.SV_STATUS_SATIN_MODE true

/-- The device in SATIN, before its lanes fall quiet. -/
def State.satinSets (v : State) : State :=
  ((v.satinShown.setPoints 2 2).when (v.f Reg.PMU_STATUS_DSP_FOP != 2) (fun s => s.markOp)).obsUpd (fun o => { o with satin := true })

/-- The device in SATIN with its lanes quiet. -/
def State.satinQuiet (v : State) : State := (v.satinSets.trunks.filter v.satinSets.portEnabled).foldl State.enterLpi v.satinSets

/-- The nodes that still run go on in SATIN. -/
def State.satinRuns (u : State) : State :=
  let y := ((u.cutGeneral u.mfN).replan u.mfN).endWaits
  y.offer y.nodes

/-- The request for SATIN is this device's own. -/
def State.ownSatin (v : State) : Prop :=
  v.flag Reg.PMU_REQ_STATUS_BUSY = true ∧ v.pm.entryAt.isSome = true ∧ v.f Reg.PMU_REQ_STATUS_TARGET = 2


section
variable (v : State)

theorem State.enterSatin_eq (s : State) : s.enterSatin = (if s.abortAudit.flag Reg.PMU_REQ_STATUS_BUSY = true ∧
    s.abortAudit.pm.entryAt.isSome = true ∧ s.abortAudit.f Reg.PMU_REQ_STATUS_TARGET = 2 then
    s.abortAudit.satinQuiet.satinRuns.endRequest St.ok else s.abortAudit.satinQuiet.satinRuns).wakeLate := by
  unfold State.enterSatin
  extract_lets v own dsp s1 s2 s3 s4 s5 s6 s7
  have runs : s7 = v.satinQuiet.satinRuns := rfl
  rw [show s.abortAudit = v from rfl]
  rw [runs]
  refine congrArg State.wakeLate (if_congr ?_ rfl rfl)
  simp only [own, Bool.and_eq_true, beq_iff_eq, and_assoc]

theorem State.satinSets_regs : v.satinSets.regs = (v.satinShown.setPoints 2 2).regs := State.when_markOp_regs _ _

theorem State.satinSets_pm : v.satinSets.pm = { v.pm with entryAt := none, sleptAt := some v.now, steps := false, step1At := none, dvfs := none } := by
  refine (State.when_markOp_pm (v.satinShown.setPoints 2 2) _).trans ?_
  simp only [State.setPoints, State.satinShown, State.setF_pm, State.setB_pm]
  rfl

theorem State.satinSets_switch : v.satinSets.pu.switchAt = none := by
  have moves : Moves [.regs, .gd] v.satinShown v.satinSets :=
    State.obsUpd_moves (.ite (fun _ => State.markOp_moves (State.setPoints_moves (.refl _ _) (by decide)) (by decide)) (fun _ => State.setPoints_moves (.refl _ _) (by decide))) (by decide)
  rw [moves.pu_eq (by decide)]
  simp only [State.satinShown, State.setF_pu, State.setB_pu]
  rfl

theorem State.regsBut_satinShown : v.regsBut satinRegs v.satinShown := by
  unfold State.satinShown
  extract_lets s1 s2
  have h1 : v.regsBut satinRegs s1 := (State.regsBut.refl _ v).keep (State.updPu_regs _ _)
  have h2 : v.regsBut satinRegs s2 := ((h1.setF _ (.head _)).setB _ (.head _)).setB _ (.tail _ (.head _))
  exact ((h2.setB _ (by decide)).setB _ (by decide)).setB _ (by decide)

theorem State.regsBut_satinSets : v.regsBut satinRegs v.satinSets := by
  refine State.regsBut.keep (t := v.satinShown.setPoints 2 2) ?_ v.satinSets_regs
  exact (((v.regsBut_satinShown.setF _ (.head _)).setF _ (.head _)).setF _ (.head _)).setF _ (.head _)

theorem shapeless_satinRegs : shapeless satinRegs := by
  simp only [shapeless, satinRegs, Reg.PMU_STATUS, Reg.PMU_DVFS_STATUS, Reg.MRE_STATUS, Reg.TS_STATUS, Reg.SV_STATUS, Reg.PU_CTRL, Reg.PU_CFG,
    Reg.LX_QUAD_CFG, Reg.quadBase, List.mem_cons, List.not_mem_nil, or_false]
  refine ⟨by omega, by omega, fun q => by omega⟩

/-- The fields that show SATIN. -/
theorem State.satinSets_shows : v.satinSets.inSatin = true ∧ v.satinSets.flag Reg.PMU_STATUS_RESTORED = false ∧
    v.satinSets.flag Reg.MRE_STATUS_P0_ONLY = true ∧ v.satinSets.flag Reg.TS_STATUS_SATIN_WALK = true ∧
    v.satinSets.flag Reg.SV_STATUS_SATIN_MODE = true ∧ v.satinSets.f Reg.PMU_STATUS_CORE_FOP = 2 ∧ v.satinSets.f Reg.PMU_STATUS_CORE_VOP = 2 ∧
    v.satinSets.f Reg.PMU_STATUS_DSP_FOP = 2 ∧ v.satinSets.f Reg.PMU_STATUS_DSP_VOP = 2 := by
  have f : ∀ x, v.satinSets.f x = (v.satinShown.setPoints 2 2).f x := State.f_of_regs v.satinSets_regs
  have flag : ∀ x, v.satinSets.flag x = (v.satinShown.setPoints 2 2).flag x := fun x => by rw [State.flag, f, State.flag]
  simp only [State.inSatin, f, flag, State.setPoints, State.satinShown]
  simp (disch := decide) only [State.f_setF_apart, State.f_setB_apart, State.flag_setF_apart, State.flag_setB_apart, State.f_setF_same,
    State.flag_setB_same]
  decide

/-- Trunks are those of the lanes' shape, and the root ports are in their states. -/
theorem State.regsBut.trunks {l : List Nat} {s t : State} (h : s.regsBut l t) (hl : shapeless l) : t.trunks = s.trunks := by
  rw [State.trunks, State.trunks]
  exact List.filter_congr fun n _ => by rw [h.width hl]

theorem State.regsBut.portEnabled {l : List Nat} {s t : State} (h : s.regsBut l t) (hl : shapeless l) {p : Nat} (hp : p < 192)
    (status : Reg.TM_PORT_STATUS p ∉ l) : t.portEnabled p = s.portEnabled p := by
  rw [State.portEnabled, State.portEnabled, State.portState, State.portState, if_pos hp, if_pos hp, State.portExists, State.portExists, h.width hl,
    h.f (x := Reg.TM_PORT_STATUS_STATE p) status]

theorem State.mem_trunks_lt {p : Nat} (h : p ∈ v.trunks) : p < 192 := List.mem_range.mp (List.mem_filter.mp h).1

theorem lane_status_not_satin {n : Nat} (hn : n < 192) : Reg.LX_LANE_STATUS n ∉ satinRegs := by
  simp only [satinRegs, Reg.PMU_STATUS, Reg.PMU_DVFS_STATUS, Reg.MRE_STATUS, Reg.TS_STATUS, Reg.SV_STATUS, Reg.LX_LANE_STATUS, Reg.laneBase,
    List.mem_cons, List.not_mem_nil, or_false]
  omega

theorem port_status_not_satin {p : Nat} (hp : p < 192) : Reg.TM_PORT_STATUS p ∉ satinRegs := by
  simp only [satinRegs, Reg.PMU_STATUS, Reg.PMU_DVFS_STATUS, Reg.MRE_STATUS, Reg.TS_STATUS, Reg.SV_STATUS, Reg.TM_PORT_STATUS, Reg.portBase,
    List.mem_cons, List.not_mem_nil, or_false]
  omega

/-- Registers of the units lie beside the lanes'. -/
theorem satin_not_lane {a : Nat} (h : a ∈ satinRegs) : a ∉ everyLaneRegs := by
  have hit : ∀ a ∈ satinRegs, (a < 0xa00000 ∨ 0xac0000 ≤ a) ∧ a ≠ Reg.CKG_STATUS ∧ a ≠ Reg.CKG_REF_EVENTS := by decide
  obtain ⟨low, status, events⟩ := hit a h
  exact not_mem_everyLaneRegs low status events

/-- Every lane of an ENABLED port that carries traffic is in LPI, frozen (R86, R93). -/
theorem State.satinQuiet_asleep {p n : Nat} (hp : p ∈ v.trunks) (on : v.portEnabled p = true) (hn : n ∈ v.lanesOf p) (live : v.awake n) :
    v.satinQuiet.asleep n := by
  have sets := v.regsBut_satinSets
  have lt := v.mem_trunks_lt hp
  refine (v.satinSets.foldl_enterLpi _).2 n (.inr ⟨?_, p, List.mem_filter.mpr ⟨?_, ?_⟩, ?_⟩)
  · rwa [State.awake, State.laneState, sets.f (x := Reg.LX_LANE_STATUS_STATE n) (lane_status_not_satin (v.lanesOf_lt hn))]
  · rwa [sets.trunks shapeless_satinRegs]
  · rwa [sets.portEnabled shapeless_satinRegs lt (port_status_not_satin lt)]
  · rwa [sets.lanesOf shapeless_satinRegs]

/-- The lanes that fall quiet leave the rest of the entry. -/
theorem State.satinQuiet_keeps : v.satinQuiet.pm = v.satinSets.pm ∧ v.satinQuiet.pu = v.satinSets.pu ∧
    (∀ x : Fld, x.addr ∈ satinRegs → v.satinQuiet.f x = v.satinSets.f x) ∧
    ∀ x : Fld, x.addr ∈ satinRegs → v.satinQuiet.flag x = v.satinSets.flag x := by
  have moves : Moves [.regs, .lx, .ck, .out] v.satinSets v.satinQuiet := .foldl (.refl _ _) fun _ _ h => State.enterLpi_moves h (by decide)
  have regs : v.satinSets.regsBut everyLaneRegs v.satinQuiet := (v.satinSets.foldl_enterLpi _).1
  exact ⟨moves.pm_eq (by decide), moves.pu_eq (by decide), fun _ h => regs.f (satin_not_lane h), fun _ h => regs.flag (satin_not_lane h)⟩

theorem State.inSatin_satinQuiet : v.satinQuiet.inSatin = v.satinSets.inSatin := by
  obtain ⟨-, -, f, -⟩ := v.satinQuiet_keeps
  rw [State.inSatin, f _ (by decide), State.inSatin]

end

/-! ## The return (R451) -/

/-- The fields and the record of step 1, before the lanes turn on. -/
def State.step1Sets (s : State) : State :=
  let r := (s.showSleep.updPm (fun p => { p with step1At := none, sleptAt := none, steps := true })).updPu (fun u => { u with switchAt := none })
  let r := ((r.setF Reg.PMU_STATUS_STATE 0).setF Reg.PMU_STATUS_CORE_FOP s.pm.savedCore).setF Reg.PMU_STATUS_CORE_VOP r.pm.savedCoreV
  ((r.setB Reg.TS_STATUS_SATIN_WALK false).setB Reg.SV_STATUS_SATIN_MODE false).showSteady

/-- The lanes of the ENABLED ports turn on. -/
def State.step1Lanes (y : State) : State := (y.trunks.filter y.portEnabled).foldl State.leaveLpi y

theorem State.satinStep1_eq (s : State) : s.satinStep1 = (s.step1Sets.step1Lanes.replan s.step1Sets.step1Lanes.mfN).holdTimers false := by
  unfold State.satinStep1
  extract_lets c s1 s2 s3 s4
  rw [show s4 = s.step1Sets.step1Lanes from rfl]

/-- The registers that step 1 sets before the lanes follow. -/
def step1Regs : List Nat := [Reg.PMU_STATUS, Reg.PMU_SLEEP_TIME, Reg.TS_STATUS, Reg.SV_STATUS]

theorem shapeless_step1Regs : shapeless step1Regs := by
  simp only [shapeless, step1Regs, Reg.PMU_STATUS, Reg.PMU_SLEEP_TIME, Reg.TS_STATUS, Reg.SV_STATUS, Reg.PU_CTRL, Reg.PU_CFG,
    Reg.LX_QUAD_CFG, Reg.quadBase, List.mem_cons, List.not_mem_nil, or_false]
  refine ⟨by omega, by omega, fun q => by omega⟩

theorem not_mem_step1Regs {a : Nat} (low : 0x800000 ≤ a) (high : a < 0xc00000) : a ∉ step1Regs := by
  simp only [step1Regs, Reg.PMU_STATUS, Reg.PMU_SLEEP_TIME, Reg.TS_STATUS, Reg.SV_STATUS, List.mem_cons, List.not_mem_nil, or_false]
  omega

section
variable (s : State)

theorem State.regsBut_showSleep : s.regsBut step1Regs s.showSleep := by
  unfold State.showSleep
  split
  · exact (State.regsBut.refl _ s).setReg _ (.tail _ (.head _))
  · exact .refl _ s

theorem State.showSleep_moved : Moves [.regs] s s.showSleep := State.showSleep_moves (.refl _ s) (by decide)

theorem State.showSleep_time {t0 : Nat} (h : s.pm.sleptAt = some t0) :
    s.showSleep.reg Reg.PMU_SLEEP_TIME = BitVec.ofNat 32 ((s.now - t0) / 25000) := by
  simp only [State.showSleep, h]
  exact s.reg_setReg _ _

/-- Step 1 as it shows before STATE follows the operating points. -/
def State.step1Shown : State :=
  let r := (s.showSleep.updPm (fun p => { p with step1At := none, sleptAt := none, steps := true })).updPu (fun u => { u with switchAt := none })
  let r := ((r.setF Reg.PMU_STATUS_STATE 0).setF Reg.PMU_STATUS_CORE_FOP s.pm.savedCore).setF Reg.PMU_STATUS_CORE_VOP r.pm.savedCoreV
  (r.setB Reg.TS_STATUS_SATIN_WALK false).setB Reg.SV_STATUS_SATIN_MODE false

theorem State.step1Sets_eq : s.step1Sets = s.step1Shown.showSteady := rfl

theorem State.step1Shown_kept : s.regsBut step1Regs s.step1Shown ∧ s.step1Shown.reg Reg.PMU_SLEEP_TIME = s.showSleep.reg Reg.PMU_SLEEP_TIME := by
  unfold State.step1Shown
  extract_lets r1 r2
  have same : r1.regs = s.showSleep.regs := State.updPu_regs _ _
  have sub : [Reg.PMU_STATUS, Reg.TS_STATUS, Reg.SV_STATUS] ⊆ step1Regs := by decide
  have set : s.showSleep.regsBut [Reg.PMU_STATUS, Reg.TS_STATUS, Reg.SV_STATUS] (State.setB (r2.setB Reg.TS_STATUS_SATIN_WALK false) Reg.SV_STATUS_SATIN_MODE false) := by
    have h1 : s.showSleep.regsBut [Reg.PMU_STATUS, Reg.TS_STATUS, Reg.SV_STATUS] r1 := (State.regsBut.refl _ _).keep same
    have h2 : s.showSleep.regsBut [Reg.PMU_STATUS, Reg.TS_STATUS, Reg.SV_STATUS] r2 := ((h1.setF _ (.head _)).setF _ (.head _)).setF _ (.head _)
    exact (h2.setB _ (.tail _ (.head _))).setB _ (by decide)
  exact ⟨s.regsBut_showSleep.step set sub, set _ (by decide)⟩

theorem State.showSteady_moved : Moves [.regs] s s.showSteady := State.showSteady_moves (.refl _ s) (by decide)

/-- STATE that follows the operating points is ACTIVE or STEADY (R442). -/
theorem State.showSteady_awake (h : s.f Reg.PMU_STATUS_STATE ≤ 1) : s.showSteady.f Reg.PMU_STATUS_STATE ≤ 1 := by
  unfold State.showSteady
  extract_lets st low
  rw [if_pos h, State.f_setF_same _ _ rfl]
  split <;> decide

theorem State.step1Sets_shows : s.step1Sets.inSatin = false ∧ s.step1Sets.f Reg.PMU_STATUS_CORE_FOP = s.pm.savedCore % 4 ∧
    s.step1Sets.f Reg.PMU_STATUS_CORE_VOP = s.pm.savedCoreV % 4 ∧ s.step1Sets.flag Reg.TS_STATUS_SATIN_WALK = false ∧
    s.step1Sets.flag Reg.SV_STATUS_SATIN_MODE = false := by
  have saved : (s.showSleep.updPm (fun p => { p with step1At := none, sleptAt := none, steps := true })).pm.savedCoreV = s.pm.savedCoreV :=
    (congrArg PowerSt.savedCoreV (s.showSleep_moved.pm_eq (by decide)) : s.showSleep.pm.savedCoreV = _)
  rw [s.step1Sets_eq]
  have state : s.step1Shown.showSteady.f Reg.PMU_STATUS_STATE ≤ 1 := by
    refine s.step1Shown.showSteady_awake (le_of_eq_of_le (b := 0) ?_ (by decide))
    simp (disch := decide) only [State.step1Shown, State.f_setF_apart, State.f_setB_apart, State.f_setF_same]
    decide
  refine ⟨?_, ?_, ?_, ?_, ?_⟩
  · rw [State.inSatin, beq_eq_false_iff_ne]
    omega
  · rw [State.f_showSteady _ (by decide)]
    simp (disch := decide) only [State.step1Shown, State.f_setF_apart, State.f_setB_apart, State.f_setF_same]
    rfl
  · rw [State.f_showSteady _ (by decide)]
    simp (disch := decide) only [State.step1Shown, State.f_setB_apart, State.f_setF_same]
    exact congrArg (· % 4) saved
  · rw [State.flag_showSteady _ (by decide)]
    simp (disch := decide) only [State.step1Shown, State.flag_setB_apart, State.flag_setB_same]
  · rw [State.flag_showSteady _ (by decide)]
    simp (disch := decide) only [State.step1Shown, State.flag_setB_same]

/-- The record of step 1, which the lanes leave. -/
theorem State.step1Sets_pm : s.step1Sets.pm = { s.pm with step1At := none, sleptAt := none, steps := true } := by
  rw [s.step1Sets_eq, State.showSteady_pm]
  simp only [State.step1Shown, State.setF_pm, State.setB_pm]
  exact congrArg (fun p : PowerSt => { p with step1At := none, sleptAt := none, steps := true }) (s.showSleep_moved.pm_eq (by decide))

theorem State.step1Sets_switch : s.step1Sets.pu.switchAt = none := by
  rw [s.step1Sets_eq, s.step1Shown.showSteady_moved.pu_eq (by decide)]
  simp only [State.step1Shown, State.setF_pu, State.setB_pu]
  rfl

theorem State.step1Sets_lx : s.step1Sets.lx = s.lx ∧ s.step1Sets.time = s.time := by
  rw [s.step1Sets_eq, s.step1Shown.showSteady_moved.lx_eq (by decide), s.step1Shown.showSteady_moved.time_eq (by decide)]
  simp only [State.step1Shown, State.setF_lx, State.setB_lx, State.setF_time, State.setB_time]
  exact ⟨s.showSleep_moved.lx_eq (by decide), s.showSleep_moved.time_eq (by decide)⟩

theorem State.regsBut_step1Sets : s.regsBut step1Regs s.step1Sets :=
  s.step1Shown_kept.1.step s.step1Shown.regsBut_showSteady (by decide)

theorem State.step1Sets_sleep {t0 : Nat} (h : s.pm.sleptAt = some t0) :
    s.step1Sets.reg Reg.PMU_SLEEP_TIME = BitVec.ofNat 32 ((s.now - t0) / 25000) := by
  rw [s.step1Sets_eq, s.step1Shown.regsBut_showSteady _ (by decide), s.step1Shown_kept.2, s.showSleep_time h]

/-- The lanes that turn on leave the rest of step 1. -/
theorem State.step1Lanes_keeps : s.step1Lanes.pm = s.pm ∧ s.step1Lanes.pu = s.pu ∧ s.regsBut everyLaneRegs s.step1Lanes :=
  have moves : Moves [.regs, .lx, .ck, .free, .out] s s.step1Lanes := .foldl (.refl _ _) fun _ _ h => State.leaveLpi_moves h (by decide)
  ⟨moves.pm_eq (by decide), moves.pu_eq (by decide), (s.foldl_leaveLpi _).1⟩

/-- Every lane of an ENABLED port that is in LPI turns on, behind a marker where it owes one (R78, R93). -/
theorem State.step1_lanes {p n : Nat} (hp : p ∈ s.trunks) (on : s.portEnabled p = true) (hn : n ∈ s.lanesOf p) (low : s.laneState n = Ls.lpi) :
    s.step1Sets.step1Lanes.laneState n = Ls.up ∧
      ((s.lane n).markerAt + 250 < s.now → s.markerOf n ∈ s.step1Sets.step1Lanes.out) := by
  have sets := s.regsBut_step1Sets
  have lt := s.mem_trunks_lt hp
  have ln := s.lanesOf_lt hn
  have state : s.step1Sets.laneState n = s.laneState n :=
    sets.f (x := Reg.LX_LANE_STATUS_STATE n) (not_mem_step1Regs (by simp only [Reg.LX_LANE_STATUS_STATE, Reg.LX_LANE_STATUS, Reg.laneBase]; omega)
      (by simp only [Reg.LX_LANE_STATUS_STATE, Reg.LX_LANE_STATUS, Reg.laneBase]; omega))
  have port : Reg.TM_PORT_STATUS p ∉ step1Regs :=
    not_mem_step1Regs (by simp only [Reg.TM_PORT_STATUS, Reg.portBase]; omega) (by simp only [Reg.TM_PORT_STATUS, Reg.portBase]; omega)
  have turned := (s.step1Sets.foldl_leaveLpi (s.step1Sets.trunks.filter s.step1Sets.portEnabled)).2.2.2 n (state.trans low)
    ⟨p, List.mem_filter.mpr ⟨by rwa [sets.trunks shapeless_step1Regs], by rwa [sets.portEnabled shapeless_step1Regs lt port]⟩,
      by rwa [sets.lanesOf shapeless_step1Regs]⟩
  have marker : s.step1Sets.markerOf n = s.markerOf n := by
    rw [State.markerOf, sets.laneByte shapeless_step1Regs, sets.trunkOf shapeless_step1Regs, State.markerOf]
  have lane : s.step1Sets.lane n = s.lane n := State.lane_of_lx (congrArg LaneSt.lanes s.step1Sets_lx.1) n
  have now : s.step1Sets.now = s.now := congrArg (fun t : TimeSt => t.tick.toNat) s.step1Sets_lx.2
  rwa [marker, lane, now] at turned

/-! ### Step 2 -/

/-- Step 2 before a request for ACTIVE ends. -/
def State.step2Sets : State :=
  let r := s.updPm (fun p => { p with steps := false })
  let r := ((r.setF Reg.PMU_STATUS_DSP_FOP s.pm.savedDsp).setF Reg.PMU_STATUS_DSP_VOP r.pm.savedDspV).when
    (s.f Reg.PMU_STATUS_DSP_FOP != s.pm.savedDsp) (fun s => s.markOp)
  (r.setB Reg.PMU_STATUS_RESTORED true).showSteady

theorem State.satinStep2_eq : s.satinStep2 = if s.step2Sets.flag Reg.PMU_REQ_STATUS_BUSY ∧ s.step2Sets.f Reg.PMU_REQ_STATUS_TARGET = 1 then
    s.step2Sets.endRequest St.ok else s.step2Sets := rfl

theorem State.f_step2Sets {x : Fld} (state : Reg.PMU_STATUS_STATE.apart x = true) (restored : Reg.PMU_STATUS_RESTORED.apart x = true) :
    s.step2Sets.f x = (((s.updPm (fun p => { p with steps := false })).setF Reg.PMU_STATUS_DSP_FOP s.pm.savedDsp).setF
      Reg.PMU_STATUS_DSP_VOP s.pm.savedDspV).f x := by
  unfold State.step2Sets
  rw [State.f_showSteady _ state, State.f_setB_apart _ _ restored, State.f_of_regs (State.when_markOp_regs _ _)]
  rfl

theorem State.step2Sets_restored : s.step2Sets.flag Reg.PMU_STATUS_RESTORED = true := by
  unfold State.step2Sets
  rw [State.flag_showSteady _ (by decide), State.flag_setB_same _ _ rfl rfl]

theorem State.step2Sets_steps : s.step2Sets.pm.steps = false := by
  unfold State.step2Sets
  rw [State.showSteady_pm, State.setB_pm, State.when_markOp_pm, State.setF_pm, State.setF_pm]
  rfl

/-- The flags of a request that ends. -/
def State.requestEnds (st : Nat) : State :=
  ((s.setB Reg.PMU_REQ_STATUS_BUSY false).setB Reg.PMU_REQ_STATUS_DONE true).setF Reg.PMU_REQ_STATUS_STATUS st

theorem State.endRequest_regs (st : Nat) : (s.endRequest st).regs = (s.requestEnds st).regs := State.updPm_regs _ _

theorem State.endRequest_pm (st : Nat) : (s.endRequest st).pm = { s.pm with entryAt := none, alertDone := true } := by
  have keep : (s.requestEnds st).pm = s.pm := by simp only [State.requestEnds, State.setF_pm, State.setB_pm]
  refine (State.updPm_pm (s.requestEnds st) _).trans ?_
  rw [keep]

/-- The end of a request as its register shows it. -/
theorem State.endRequest_shows (st : Nat) : (s.endRequest st).flag Reg.PMU_REQ_STATUS_BUSY = false ∧
    (s.endRequest st).flag Reg.PMU_REQ_STATUS_DONE = true ∧ (s.endRequest st).f Reg.PMU_REQ_STATUS_STATUS = st % 256 := by
  rw [State.flag_of_regs (s.endRequest_regs st), State.flag_of_regs (s.endRequest_regs st), State.f_of_regs (s.endRequest_regs st)]
  refine ⟨?_, ?_, State.f_setF_same _ _ rfl⟩
  · simp (disch := decide) only [State.requestEnds, State.flag_setF_apart, State.flag_setB_apart, State.flag_setB_same]
  · simp (disch := decide) only [State.requestEnds, State.flag_setF_apart, State.flag_setB_same]

theorem State.regsBut_endRequest (st : Nat) : s.regsBut [Reg.PMU_REQ_STATUS] (s.endRequest st) := by
  have h : s.regsBut [Reg.PMU_REQ_STATUS] (s.requestEnds st) :=
    (((State.regsBut.refl [Reg.PMU_REQ_STATUS] s).setB _ (.head _)).setB _ (.head _)).setF _ (.head _)
  exact h.keep (s.endRequest_regs st)

/-! ### The commands -/

theorem State.satinEntry_meets (due : s.satinDue_ = true) : answers .satinEntry s (fun t => ∃ v u x : State, v = s.abortAudit ∧ u.inSatin = true ∧
    u.flag Reg.PMU_STATUS_RESTORED = false ∧
    u.flag Reg.MRE_STATUS_P0_ONLY = true ∧ u.flag Reg.TS_STATUS_SATIN_WALK = true ∧ u.flag Reg.SV_STATUS_SATIN_MODE = true ∧
    u.f Reg.PMU_STATUS_CORE_FOP = 2 ∧ u.f Reg.PMU_STATUS_CORE_VOP = 2 ∧ u.f Reg.PMU_STATUS_DSP_FOP = 2 ∧
    u.f Reg.PMU_STATUS_DSP_VOP = 2 ∧ u.pm.sleptAt = some v.now ∧ u.pm.entryAt = none ∧ u.pu.switchAt = none ∧
    (∀ p ∈ v.trunks, v.portEnabled p = true → ∀ n ∈ v.lanesOf p, (v.laneState n = Ls.up ∨ v.laneState n = Ls.retraining) →
      u.laneState n = Ls.lpi ∧ u.flag (Reg.LX_LANE_STATUS_ADAPT_FROZEN n) = true) ∧
    (let y := ((u.cutGeneral u.mfN).replan u.mfN).endWaits; x = y.offer y.nodes) ∧
    t = (if v.flag Reg.PMU_REQ_STATUS_BUSY = true ∧ v.pm.entryAt.isSome = true ∧ v.f Reg.PMU_REQ_STATUS_TARGET = 2 then
      x.endRequest St.ok else x).wakeLate) := by
  refine answers_eq rfl ((if_pos due).trans s.enterSatin_eq) ?_
  generalize s.abortAudit = v
  obtain ⟨satin, restored, p0, walk, mode, cfop, cvop, dfop, dvop⟩ := v.satinSets_shows
  obtain ⟨pm, pu, f, flag⟩ := v.satinQuiet_keeps
  refine ⟨v, v.satinQuiet, v.satinQuiet.satinRuns, rfl, v.inSatin_satinQuiet.trans satin, (flag _ (by decide)).trans restored,
    (flag _ (by decide)).trans p0, (flag _ (by decide)).trans walk, (flag _ (by decide)).trans mode, (f _ (by decide)).trans cfop,
    (f _ (by decide)).trans cvop, (f _ (by decide)).trans dfop, (f _ (by decide)).trans dvop, ?_, ?_, ?_, ?_, rfl, rfl⟩
  · rw [pm, v.satinSets_pm]
  · rw [pm, v.satinSets_pm]
  · rw [pu, v.satinSets_switch]
  · exact fun p hp on n hn live => v.satinQuiet_asleep hp on hn live

theorem State.satinStep1_meets {m : Nat} (satin : s.inSatin = true) (at_ : s.pm.step1At = some m) (le : m ≤ s.mfN) :
    answers .satinReturnStep1 s (fun t => ∃ u : State,
      u.inSatin = false ∧ u.f Reg.PMU_STATUS_CORE_FOP = s.pm.savedCore % 4 ∧ u.f Reg.PMU_STATUS_CORE_VOP = s.pm.savedCoreV % 4 ∧
      u.flag Reg.TS_STATUS_SATIN_WALK = false ∧ u.flag Reg.SV_STATUS_SATIN_MODE = false ∧ u.pm.steps = true ∧ u.pm.step1At = none ∧
      u.pu.switchAt = none ∧ (∀ t0, s.pm.sleptAt = some t0 → u.reg Reg.PMU_SLEEP_TIME = BitVec.ofNat 32 ((s.now - t0) / 25000)) ∧
      (∀ p ∈ s.trunks, s.portEnabled p = true → ∀ n ∈ s.lanesOf p, s.laneState n = Ls.lpi → u.laneState n = Ls.up ∧
        ((s.lane n).markerAt + 250 < s.now → Emit.marker n (s.laneByte n) (s.trunkOf n) ∈ u.out)) ∧
      t = (u.replan u.mfN).holdTimers false) := by
  refine answers_eq rfl ((if_pos ?_).trans s.satinStep1_eq) ?_
  · simp [satin, at_, le]
  obtain ⟨awake, cfop, cvop, walk, mode⟩ := s.step1Sets_shows
  obtain ⟨pm, pu, regs⟩ := s.step1Sets.step1Lanes_keeps
  have beside : ∀ a ∈ step1Regs, a ∉ everyLaneRegs := fun a h => by
    have hit : ∀ a ∈ step1Regs, (a < 0xa00000 ∨ 0xac0000 ≤ a) ∧ a ≠ Reg.CKG_STATUS ∧ a ≠ Reg.CKG_REF_EVENTS := by decide
    obtain ⟨low, status, events⟩ := hit a h
    exact not_mem_everyLaneRegs low status events
  refine ⟨s.step1Sets.step1Lanes, ?_, (regs.f (beside _ (by decide))).trans cfop, (regs.f (beside _ (by decide))).trans cvop,
    (regs.flag (beside _ (by decide))).trans walk, (regs.flag (beside _ (by decide))).trans mode, ?_, ?_, ?_, fun t0 h => ?_, fun p hp on n hn low => ?_, rfl⟩
  · rwa [State.inSatin, regs.f (x := Reg.PMU_STATUS_STATE) (beside _ (by decide))]
  · rw [pm, s.step1Sets_pm]
  · rw [pm, s.step1Sets_pm]
  · rw [pu, s.step1Sets_switch]
  · rw [regs _ (beside _ (by decide)), s.step1Sets_sleep h]
  · exact s.step1_lanes hp on hn low

theorem State.satinStep2_meets (steps : s.pm.steps = true) (satin : s.inSatin = false) (dorm : s.inDormant = false) :
    answers .satinReturnStep2 s (fun t => t.pm.steps = false ∧
      t.f Reg.PMU_STATUS_DSP_FOP = s.pm.savedDsp % 4 ∧ t.f Reg.PMU_STATUS_DSP_VOP = s.pm.savedDspV % 4 ∧
      t.flag Reg.PMU_STATUS_RESTORED = true ∧ (s.flag Reg.PMU_REQ_STATUS_BUSY = true → s.f Reg.PMU_REQ_STATUS_TARGET = 1 →
        t.flag Reg.PMU_REQ_STATUS_BUSY = false ∧ t.flag Reg.PMU_REQ_STATUS_DONE = true ∧ t.f Reg.PMU_REQ_STATUS_STATUS = St.ok)) := by
  refine answers_eq rfl ((if_pos (by rw [steps, satin, dorm]; rfl)).trans s.satinStep2_eq) ?_
  have req : ∀ x : Fld, Reg.PMU_STATUS_STATE.apart x = true → Reg.PMU_STATUS_RESTORED.apart x = true → x.addr ≠ Reg.PMU_STATUS →
      s.step2Sets.f x = s.f x := fun x state restored away => by
    rw [State.f_step2Sets _ state restored, State.f_setF_other _ _ away, State.f_setF_other _ _ away]
    rfl
  have fop : s.step2Sets.f Reg.PMU_STATUS_DSP_FOP = s.pm.savedDsp % 4 := by
    rw [State.f_step2Sets _ (by decide) (by decide), State.f_setF_apart _ _ (by decide), State.f_setF_same _ _ rfl]
    rfl
  have vop : s.step2Sets.f Reg.PMU_STATUS_DSP_VOP = s.pm.savedDspV % 4 := by
    rw [State.f_step2Sets _ (by decide) (by decide), State.f_setF_same _ _ rfl]
    rfl
  by_cases ends : s.step2Sets.flag Reg.PMU_REQ_STATUS_BUSY ∧ s.step2Sets.f Reg.PMU_REQ_STATUS_TARGET = 1
  · rw [if_pos ends]
    have keep := s.step2Sets.regsBut_endRequest St.ok
    refine ⟨?_, (keep.f (by decide)).trans fop, (keep.f (by decide)).trans vop, (keep.flag (by decide)).trans s.step2Sets_restored, fun _ _ =>
      s.step2Sets.endRequest_shows St.ok⟩
    rw [State.endRequest_pm]
    exact s.step2Sets_steps
  · rw [if_neg ends]
    refine ⟨s.step2Sets_steps, fop, vop, s.step2Sets_restored, fun busy target => absurd ⟨?_, ?_⟩ ends⟩
    · rw [State.flag, req _ (by decide) (by decide) (by decide)]
      exact busy
    · rw [req _ (by decide) (by decide) (by decide)]
      exact target

end

end Sys2Proof.Machine

namespace Sys2Proof.Machine

/-! # What the units leave of PMU_WAKE_EN (R460)

No operation below writes PMU_WAKE_EN; each lemma says so of one operation, in the order of their definitions. -/

/-- The sources that may wake the device, as a register file holds them. -/
def wakeEn (r : Tbl Word) : Word := Tbl.get regReset r Reg.PMU_WAKE_EN

section
variable (s : State)

/-! ## Registers, branches and lists -/

/-- The registers of ports, lanes, rings, engines, functions and views lie above the PMU's. -/
@[simp] theorem unit_fields_apart (n : Nat) : Reg.HIF_VF_STATE n ≠ Reg.PMU_WAKE_EN ∧ (Reg.QE_ADMIN_STATUS_OVERFLOW n).addr ≠ Reg.PMU_WAKE_EN ∧
    (Reg.QE_ADMIN_STATUS_IDLE n).addr ≠ Reg.PMU_WAKE_EN ∧ (Reg.QE_ADMIN_POS_SQ n).addr ≠ Reg.PMU_WAKE_EN ∧
    (Reg.QE_ADMIN_POS_CQ n).addr ≠ Reg.PMU_WAKE_EN ∧ (Reg.BM_ENG_STATUS_ACTIVE n).addr ≠ Reg.PMU_WAKE_EN ∧
    (Reg.BM_ENG_STATUS_CURRENT n).addr ≠ Reg.PMU_WAKE_EN ∧ (Reg.BM_ENG_STATUS_OUTSTANDING n).addr ≠ Reg.PMU_WAKE_EN ∧
    (Reg.BM_EVENTS_ABORTS n).addr ≠ Reg.PMU_WAKE_EN ∧ (Reg.LX_PRBS_CTRL_GEN_EN n).addr ≠ Reg.PMU_WAKE_EN ∧
    (Reg.LX_PRBS_CTRL_CHK_EN n).addr ≠ Reg.PMU_WAKE_EN ∧ (Reg.TM_PORT_STATUS_STATE n).addr ≠ Reg.PMU_WAKE_EN ∧
    (Reg.TM_PORT_STATUS_CHANGE n).addr ≠ Reg.PMU_WAKE_EN ∧ (Reg.TM_PORT_RTT_RTT n).addr ≠ Reg.PMU_WAKE_EN ∧
    (Reg.TM_PORT_RTT_TIERS n).addr ≠ Reg.PMU_WAKE_EN := by
  simp only [Reg.PMU_WAKE_EN, Reg.HIF_VF_STATE, Reg.vfstBase, Reg.QE_ADMIN_STATUS_OVERFLOW, Reg.QE_ADMIN_STATUS_IDLE, Reg.QE_ADMIN_STATUS,
    Reg.QE_ADMIN_POS_SQ, Reg.QE_ADMIN_POS_CQ, Reg.QE_ADMIN_POS, Reg.pageBase, Reg.BM_ENG_STATUS_ACTIVE, Reg.BM_ENG_STATUS_CURRENT,
    Reg.BM_ENG_STATUS_OUTSTANDING, Reg.BM_ENG_STATUS, Reg.BM_EVENTS_ABORTS, Reg.BM_EVENTS, Reg.engineBase, Reg.LX_PRBS_CTRL_GEN_EN,
    Reg.LX_PRBS_CTRL_CHK_EN, Reg.LX_PRBS_CTRL, Reg.laneBase, Reg.TM_PORT_STATUS_STATE, Reg.TM_PORT_STATUS_CHANGE, Reg.TM_PORT_STATUS,
    Reg.TM_PORT_RTT_RTT, Reg.TM_PORT_RTT_TIERS, Reg.TM_PORT_RTT, Reg.portBase]
  omega

/-- So do those of the views and of the dispatcher's queues. -/
@[simp] theorem view_fields_apart (k : Nat) : (faultedF k).addr ≠ Reg.PMU_WAKE_EN ∧ (queuedF k).addr ≠ Reg.PMU_WAKE_EN ∧
    (dropsF k).addr ≠ Reg.PMU_WAKE_EN := by
  simp only [faultedF, queuedF, dropsF, apply_ite Fld.addr, Reg.PMU_WAKE_EN]
  split_ifs <;> simp only [Reg.XB_WIN_STATUS_FAULTED, Reg.XB_WIN_STATUS_QUEUED, Reg.XB_WIN_STATUS, Reg.XB_WIN_DROPS_COUNT, Reg.XB_WIN_DROPS,
    Reg.XB_VIEW_STATUS_FAULTED, Reg.XB_VIEW_STATUS_QUEUED, Reg.XB_VIEW_STATUS, Reg.XB_VIEW_DROPS_COUNT, Reg.XB_VIEW_DROPS, Reg.windowBase, Reg.viewBase] <;> omega

@[simp] theorem qdepth_apart (q : Nat) : (qdepthF q).addr ≠ Reg.PMU_WAKE_EN := by
  unfold qdepthF
  split <;> decide

@[simp] theorem State.wakeEn_setReg {a : Nat} {v : Word} (h : a ≠ Reg.PMU_WAKE_EN) : wakeEn (s.setReg a v).regs = wakeEn s.regs :=
  s.reg_setReg_other v h.symm

@[simp] theorem State.wakeEn_setF {x : Fld} {v : Nat} (h : x.addr ≠ Reg.PMU_WAKE_EN) : wakeEn (s.setF x v).regs = wakeEn s.regs :=
  s.wakeEn_setReg h

@[simp] theorem State.wakeEn_setB {x : Fld} {b : Bool} (h : x.addr ≠ Reg.PMU_WAKE_EN) : wakeEn (s.setB x b).regs = wakeEn s.regs :=
  s.wakeEn_setReg h

@[simp] theorem State.wakeEn_bump {x : Fld} {n : Nat} (h : x.addr ≠ Reg.PMU_WAKE_EN) : wakeEn (s.bump x n).regs = wakeEn s.regs :=
  s.wakeEn_setReg h

@[simp] theorem wakeEn_ite {c : Prop} [Decidable c] {t u : State} : wakeEn (if c then t else u).regs = if c then wakeEn t.regs else wakeEn u.regs :=
  apply_ite (fun r : State => wakeEn r.regs) c t u

@[simp] theorem State.wakeEn_when {c : Bool} {f : State → State} (h : wakeEn (f s).regs = wakeEn s.regs) : wakeEn (s.when c f).regs = wakeEn s.regs := by
  rw [State.when, wakeEn_ite, h, ite_self]

@[simp] theorem State.wakeEn_foldl {α : Type} {f : State → α → State} {l : List α} (h : ∀ u x, wakeEn (f u x).regs = wakeEn u.regs) :
    wakeEn (l.foldl f s).regs = wakeEn s.regs := State.foldl_eq (p := fun u => wakeEn u.regs) h l

/-! ## Operations on other parts of the state -/

@[simp] theorem State.regs_setCq {f i : Nat} {r : Option CqRec} : (s.setCq f i r).regs = s.regs := (rfl)
@[simp] theorem State.regs_setSq {f i : Nat} {r : Option SqRec} : (s.setSq f i r).regs = s.regs := (rfl)
@[simp] theorem State.regs_updCq {f i : Nat} {g : CqRec → CqRec} : (s.updCq f i g).regs = s.regs :=
  Moves.regs_eq (l := [.qe]) (State.updCq_moves (.refl _ s) (by decide)) (by decide)

@[simp] theorem State.regs_sendHost {e : Emit} : (s.sendHost e).regs = s.regs := (rfl)
@[simp] theorem State.regs_updSq {f i : Nat} {g : SqRec → SqRec} : (s.updSq f i g).regs = s.regs :=
  Moves.regs_eq (l := [.qe]) (State.updSq_moves (.refl _ s) (by decide)) (by decide)
@[simp] theorem State.regs_aer {f code : Nat} : (s.aer f code).regs = s.regs :=
  Moves.regs_eq (l := [.fn]) (State.aer_moves (.refl _ s) (by decide)) (by decide)
@[simp] theorem State.regs_updFn {f : Nat} {g : FnRec → FnRec} : (s.updFn f g).regs = s.regs :=
  Moves.regs_eq (l := [.fn]) (State.updFn_moves (.refl _ s) (by decide)) (by decide)
@[simp] theorem State.regs_updVf {v : Nat} {g : VfRec → VfRec} : (s.updVf v g).regs = s.regs :=
  Moves.regs_eq (l := [.fn]) (State.updVf_moves (.refl _ s) (by decide)) (by decide)
@[simp] theorem State.regs_closeAll {x : Nat} : (s.closeAll x).regs = s.regs :=
  Moves.regs_eq (l := [.bus]) (State.closeAll_moves (.refl _ s) (by decide)) (by decide)
@[simp] theorem State.regs_fireLate {k : Nat} : (s.fireLate k).regs = s.regs :=
  Moves.regs_eq (l := [.fn, .out]) (State.fireLate_moves (.refl _ s) (by decide)) (by decide)
@[simp] theorem State.regs_forgetRing {f i : Nat} : (s.forgetRing f i).regs = s.regs :=
  Moves.regs_eq (l := [.qe]) (State.forgetRing_moves (.refl _ s) (by decide)) (by decide)
@[simp] theorem State.regs_keepDoorbell {f i : Nat} : (s.keepDoorbell f i).regs = s.regs :=
  Moves.regs_eq (l := [.qe]) (State.keepDoorbell_moves (.refl _ s) (by decide)) (by decide)
@[simp] theorem State.regs_nextOn {h : Nat} : (s.nextOn h).regs = s.regs :=
  Moves.regs_eq (l := [.bus]) (State.nextOn_moves (.refl _ s) (by decide)) (by decide)
@[simp] theorem State.regs_noWork {t f : Nat} : (s.noWork t f).regs = s.regs :=
  Moves.regs_eq (l := [.ts]) (State.noWork_moves (.refl _ s) (by decide)) (by decide)
@[simp] theorem State.regs_nextWindow {f i : Nat} {q : Cqe} : (s.nextWindow f i q).regs = s.regs :=
  Moves.regs_eq (l := [.qe, .fn, .out]) (State.nextWindow_moves (.refl _ s) (by decide)) (by decide)
@[simp] theorem State.regs_pathMoves {t was st : Nat} : (s.pathMoves t was st).regs = s.regs :=
  Moves.regs_eq (l := [.lx]) (State.pathMoves_moves (.refl _ s) (by decide)) (by decide)
@[simp] theorem State.regs_scanCq {f i : Nat} : (s.scanCq f i).regs = s.regs :=
  Moves.regs_eq (l := [.qe, .fn, .out]) (State.scanCq_moves (.refl _ s) (by decide)) (by decide)
@[simp] theorem State.regs_signalCq {f i : Nat} : (s.signalCq f i).regs = s.regs :=
  Moves.regs_eq (l := [.qe, .fn, .out]) (State.signalCq_moves (.refl _ s) (by decide)) (by decide)
@[simp] theorem State.regs_sendOrdered {f : Nat → MioOut} : (s.sendOrdered f).regs = s.regs :=
  Moves.regs_eq (l := [.pu, .out]) (State.sendOrdered_moves (.refl _ s) (by decide)) (by decide)
@[simp] theorem State.regs_tellCtx {h : Nat} : (s.tellCtx h).regs = s.regs :=
  Moves.regs_eq (l := [.pu, .out]) (State.tellCtx_moves (.refl _ s) (by decide)) (by decide)
@[simp] theorem State.regs_setCf {h : Nat} {x : CtxF} {v : Nat} : (s.setCf h x v).regs = s.regs :=
  Moves.regs_eq (l := [.ebm]) (State.setCf_moves (.refl _ s) (by decide)) (by decide)
@[simp] theorem State.regs_setDev {a : Nat} {d : Option DevRec} : (s.setDev a d).regs = s.regs :=
  Moves.regs_eq (l := [.tree, .pu, .out]) (State.setDev_moves (.refl _ s) (by decide)) (by decide)
@[simp] theorem State.regs_setGen {g : Nat} {r : GenSt} : (s.setGen g r).regs = s.regs :=
  Moves.regs_eq (l := [.mre]) (State.setGen_moves (.refl _ s) (by decide)) (by decide)
@[simp] theorem State.regs_setJob {c : Nat} {j : Option Job} : (s.setJob c j).regs = s.regs :=
  Moves.regs_eq (l := [.bm]) (State.setJob_moves (.refl _ s) (by decide)) (by decide)
@[simp] theorem State.regs_setLine {l : Nat} {r : LineRec} : (s.setLine l r).regs = s.regs :=
  Moves.regs_eq (l := [.sv]) (State.setLine_moves (.refl _ s) (by decide)) (by decide)
@[simp] theorem State.regs_setXfer {x : Nat} {r : Option Xfer} : (s.setXfer x r).regs = s.regs :=
  Moves.regs_eq (l := [.bus]) (State.setXfer_moves (.refl _ s) (by decide)) (by decide)
@[simp] theorem State.regs_stopWait {x : Nat} : (s.stopWait x).regs = s.regs :=
  Moves.regs_eq (l := [.ebm]) (State.stopWait_moves (.refl _ s) (by decide)) (by decide)
@[simp] theorem State.regs_portChange {p b : Nat} : (s.portChange p b).regs = s.regs :=
  Moves.regs_eq (l := [.tree]) (State.portChange_moves (.refl _ s) (by decide)) (by decide)
@[simp] theorem State.regs_obsPrio {q : Nat} {g : ObsPrio → ObsPrio} : (s.obsPrio q g).regs = s.regs :=
  Moves.regs_eq (l := [.gd]) (State.obsPrio_moves (.refl _ s) (by decide)) (by decide)
@[simp] theorem State.regs_obsUpd {g : ObsWin → ObsWin} : (s.obsUpd g).regs = s.regs :=
  Moves.regs_eq (l := [.gd]) (State.obsUpd_moves (.refl _ s) (by decide)) (by decide)
@[simp] theorem State.regs_fresh : (s.fresh).regs = s.regs :=
  Moves.regs_eq (l := [.free]) (State.fresh_moves (.refl _ s) (by decide)) (by decide)
@[simp] theorem State.regs_auditWrite {a : Audit} {x : Nat} {b : List Byte} : (s.auditWrite a x b).regs = s.regs :=
  Moves.regs_eq (l := [.fn, .out]) (State.auditWrite_moves (.refl _ s) (by decide)) (by decide)
@[simp] theorem State.regs_updPu {g : PairSt → PairSt} : (s.updPu g).regs = s.regs :=
  Moves.regs_eq (l := [.pu]) (State.updPu_moves (.refl _ s) (by decide)) (by decide)
@[simp] theorem State.regs_updCk {g : ClockSt → ClockSt} : (s.updCk g).regs = s.regs := (rfl)
@[simp] theorem State.regs_updLane {n : Nat} {g : LaneRec → LaneRec} : (s.updLane n g).regs = s.regs :=
  Moves.regs_eq (l := [.lx]) (State.updLane_moves (.refl _ s) (by decide)) (by decide)
@[simp] theorem State.regs_updPort {p : Nat} {g : PortRec → PortRec} : (s.updPort p g).regs = s.regs :=
  Moves.regs_eq (l := [.tree]) (State.updPort_moves (.refl _ s) (by decide)) (by decide)
@[simp] theorem State.regs_emit {e : Emit} : (s.emit e).regs = s.regs :=
  Moves.regs_eq (l := [.out]) (State.emit_moves (.refl _ s) (by decide)) (by decide)
@[simp] theorem State.regs_putRsb {f i : Nat} {w : Word} : (s.putRsb f i w).regs = s.regs :=
  Moves.regs_eq (l := [.qe, .fn, .out]) (State.putRsb_moves (.refl _ s) (by decide)) (by decide)

@[simp] theorem State.wakeEn_writeRsbCq {f i : Nat} : wakeEn (s.writeRsbCq f i).regs = wakeEn s.regs := by
  unfold State.writeRsbCq
  split <;> simp


@[simp] theorem State.wakeEn_writeRsbSq {f i : Nat} : wakeEn (s.writeRsbSq f i).regs = wakeEn s.regs := by
  unfold State.writeRsbSq
  split <;> simp

/-! ## Rings and their completions -/

@[simp] theorem State.wakeEn_showPos {f i : Nat} : wakeEn (s.showPos f i).regs = wakeEn s.regs := by
  unfold State.showPos
  split_ifs
  · split <;> simp
  · split <;> simp
  · rfl

@[simp] theorem State.wakeEn_showExec : wakeEn s.showExec.regs = wakeEn s.regs := by
  simp +decide [State.showExec]

@[simp] theorem State.wakeEn_enterOverflow {f i : Nat} : wakeEn (s.enterOverflow f i).regs = wakeEn s.regs := by
  unfold State.enterOverflow
  split
  · rfl
  · simp +decide

@[simp] theorem State.wakeEn_holdCqe {f i : Nat} {q : Cqe} : wakeEn (s.holdCqe f i q).regs = wakeEn s.regs := by
  unfold State.holdCqe
  split
  · rfl
  · simp

@[simp] theorem State.wakeEn_logPme {f reason : Nat} {b : Bool} : wakeEn (s.logPme f reason b).regs = wakeEn s.regs := by
  simp +decide [State.logPme]

@[simp] theorem State.wakeEn_sendPme {f reason : Nat} : wakeEn (s.sendPme f reason).regs = wakeEn s.regs := by
  simp [State.sendPme]

@[simp] theorem State.wakeEn_suppressPme {f reason : Nat} : wakeEn (s.suppressPme f reason).regs = wakeEn s.regs := by
  simp [State.suppressPme]

@[simp] theorem State.wakeEn_writeCqe {f i : Nat} {q : Cqe} : wakeEn (s.writeCqe f i q).regs = wakeEn s.regs := by
  unfold State.writeCqe
  extract_lets s1
  split
  · simp [s1]
  · cases q.wb <;> simp [s1]

@[simp] theorem State.wakeEn_postCqe {f i : Nat} {q : Cqe} {reason : Nat} : wakeEn (s.postCqe f i q reason).regs = wakeEn s.regs := by
  unfold State.postCqe
  split
  · rfl
  · simp +decide

@[simp] theorem State.wakeEn_dropSq {f i : Nat} : wakeEn (s.dropSq f i).regs = wakeEn s.regs := by
  simp +decide [State.dropSq]

@[simp] theorem State.wakeEn_dropCq {f i : Nat} : wakeEn (s.dropCq f i).regs = wakeEn s.regs := by
  simp +decide [State.dropCq]

@[simp] theorem State.wakeEn_finishIdle {f i : Nat} : wakeEn (s.finishIdle f i).regs = wakeEn s.regs := by
  unfold State.finishIdle
  split
  · rfl
  split_ifs
  · extract_lets s1 s2
    split
    · simp [s1]
    split
    · simp [s1, s2]
    extract_lets s3
    split <;> simp [s1, s2, s3]
  · rfl

/-! ## The end of an entry -/

@[simp] theorem State.wakeEn_setVf {v : Nat} {g : VfRec → VfRec} : wakeEn (s.setVf v g).regs = wakeEn s.regs := by
  simp [State.setVf, State.showVf]

@[simp] theorem State.wakeEn_squash {r : EntryRef} {e : Sqe} {w u n : Nat} : wakeEn (s.squash r e w u n).regs = wakeEn s.regs := by
  simp +decide [State.squash]

@[simp] theorem State.wakeEn_endStarted {r : EntryRef} {q : Cqe} : wakeEn (s.endStarted r q).regs = wakeEn s.regs := by
  unfold State.endStarted
  split
  · rfl
  · extract_lets queue s1
    split_ifs
    · simp [s1]
    · split <;> simp [s1]

@[simp] theorem State.wakeEn_eventOff {x y : Fld} {g : Nat} (h : y.addr ≠ Reg.PMU_WAKE_EN) : wakeEn (s.eventOff x y g).regs = wakeEn s.regs := by
  simp [State.eventOff, h]

@[simp] theorem State.wakeEn_resetDone {f : Nat} : wakeEn (s.resetDone f).regs = wakeEn s.regs := by
  simp +decide [State.resetDone]

@[simp] theorem State.wakeEn_settleFn {f : Nat} : wakeEn (s.settleFn f).regs = wakeEn s.regs := by
  unfold State.settleFn
  split_ifs
  · simp
  · rfl
  · extract_lets w
    split_ifs
    · rfl
    · refine (State.wakeEn_foldl _ fun u x => ?_).trans (by simp)
      split <;> simp

@[simp] theorem State.wakeEn_finishEntry {r : EntryRef} {q : Cqe} : wakeEn (s.finishEntry r q).regs = wakeEn s.regs := by
  simp [State.finishEntry]

@[simp] theorem State.wakeEn_complete {r : EntryRef} {e : Sqe} {status residue : Nat} {d4 d5 d6 d7 : Word} {urgent : Bool} :
    wakeEn (s.complete r e status residue d4 d5 d6 d7 urgent).regs = wakeEn s.regs := by
  simp [State.complete]

@[simp] theorem State.wakeEn_completeRef {r : EntryRef} {status residue : Nat} {d4 d5 d6 d7 : Word} {urgent : Bool} :
    wakeEn (s.completeRef r status residue d4 d5 d6 d7 urgent).regs = wakeEn s.regs := by
  unfold State.completeRef
  split <;> simp

@[simp] theorem State.wakeEn_completeRefM {r : EntryRef} {status residue : Nat} {d4 d5 d6 d7 : Word} :
    wakeEn (s.completeRefM r status residue d4 d5 d6 d7).regs = wakeEn s.regs := by
  unfold State.completeRefM
  split <;> simp [State.completeM]

@[simp] theorem State.wakeEn_setEngine {e : Nat} {r : EngRec} : wakeEn (s.setEngine e r).regs = wakeEn s.regs := by
  unfold State.setEngine
  cases r.holder <;> simp +decide

@[simp] theorem State.wakeEn_prefetch {e c : Nat} : wakeEn (s.prefetch e c).regs = wakeEn s.regs := by
  unfold State.prefetch
  extract_lets g
  split_ifs
  · rfl
  split
  · rfl
  split
  · rfl
  split <;> simp

@[simp] theorem State.wakeEn_freeChan {c : Nat} : wakeEn (s.freeChan c).regs = wakeEn s.regs := by
  simp [State.freeChan]

@[simp] theorem State.wakeEn_endEntry {c : Option Nat} {r : EntryRef} {en : Ending} : wakeEn (s.endEntry c r en).regs = wakeEn s.regs := by
  unfold State.endEntry
  split
  · simp
  split <;> simp

/-! ## Views of the bridge -/

@[simp] theorem State.wakeEn_logLate {r : LateRec} : wakeEn (s.logLate r).regs = wakeEn s.regs := by
  simp +decide [State.logLate, State.showLate]

@[simp] theorem State.wakeEn_readFailed {k : Nat} {a : Acc} {status : Nat} : wakeEn (s.readFailed k a status).regs = wakeEn s.regs := by
  simp [State.readFailed]

@[simp] theorem State.wakeEn_setView {k : Nat} {v : ViewRec} : wakeEn (s.setView k v).regs = wakeEn s.regs := by
  simp [State.setView]

@[simp] theorem State.wakeEn_updView {k : Nat} {g : ViewRec → ViewRec} : wakeEn (s.updView k g).regs = wakeEn s.regs := by
  simp [State.updView]

@[simp] theorem State.wakeEn_dropQueued {k : Nat} {posted : Bool} {l : List Acc} : wakeEn (s.dropQueued k posted l).regs = wakeEn s.regs := by
  induction l generalizing s with
  | nil => simp [State.dropQueued]
  | cons a l ih =>
    unfold State.dropQueued
    split <;> simp [ih]

@[simp] theorem State.wakeEn_faultView {k : Nat} {drop : Bool} : wakeEn (s.faultView k drop).regs = wakeEn s.regs := by
  simp [State.faultView]

@[simp] theorem State.wakeEn_writeFailed {k : Nat} {a : Acc} {kind status : Nat} : wakeEn (s.writeFailed k a kind status).regs = wakeEn s.regs := by
  simp [State.writeFailed]

@[simp] theorem State.wakeEn_endAccess {k status : Nat} {data : List Byte} : wakeEn (s.endAccess k status data).regs = wakeEn s.regs := by
  cases at_ : (s.view k).open_ with
  | none => simp [State.endAccess, at_]
  | some a => cases kind : a.kind <;> simp [State.endAccess, at_, kind]

@[simp] theorem State.wakeEn_lockEnd {k status : Nat} : wakeEn (s.lockEnd k status).regs = wakeEn s.regs := by
  unfold State.lockEnd
  split
  · simp +decide
  · rfl

/-! ## Slots and transfers -/

@[simp] theorem State.wakeEn_setRuns {l : List (Nat × Nat)} : wakeEn (s.setRuns l).regs = wakeEn s.regs := by
  simp +decide [State.setRuns, State.showSlots]

@[simp] theorem State.wakeEn_freeSlot {g : Nat} : wakeEn (s.freeSlot g).regs = wakeEn s.regs := by
  simp [State.freeSlot]

theorem State.wakeEn_slotFor {x n : Nat} {r : State × Nat} (h : s.slotFor x n = some r) : wakeEn r.1.regs = wakeEn s.regs := by
  rw [State.slotFor, Option.ite_none_right_eq_some, State.allocSlot] at h
  obtain ⟨-, h⟩ := h
  split at h
  · cases h
  · cases h
    simp

@[simp] theorem State.wakeEn_startWait {x : Nat} : wakeEn (s.startWait x).regs = wakeEn s.regs := by
  simp +decide [State.startWait]

@[simp] theorem State.wakeEn_takeGenSlot {g : Nat} : wakeEn (s.takeGenSlot g).regs = wakeEn s.regs := by
  unfold State.takeGenSlot
  extract_lets r
  split_ifs
  · simp
  split
  next h => simpa using State.wakeEn_slotFor s h
  next => simp

@[simp] theorem State.wakeEn_takeSlot {x : Nat} : wakeEn (s.takeSlot x).regs = wakeEn s.regs := by
  unfold State.takeSlot
  split_ifs
  · simp
  split
  · rfl
  split_ifs
  · simp
  split
  next h => simpa using State.wakeEn_slotFor s h
  next => simp

@[simp] theorem State.wakeEn_dropXfer {x : Nat} : wakeEn (s.dropXfer x).regs = wakeEn s.regs := by
  unfold State.dropXfer
  split
  · rfl
  · simp [State.serveWaits]

@[simp] theorem State.wakeEn_endXfer {x status : Nat} {urgent : Bool} : wakeEn (s.endXfer x status urgent).regs = wakeEn s.regs := by
  unfold State.endXfer
  split
  · rfl
  next r _ => cases r.owner <;> simp

@[simp] theorem State.wakeEn_endDevXfers {a status : Nat} : wakeEn (s.endDevXfers a status).regs = wakeEn s.regs := by
  unfold State.endDevXfers
  refine (State.wakeEn_foldl _ fun u x => State.wakeEn_endXfer u).trans (State.wakeEn_foldl _ fun u x => ?_)
  split <;> simp

/-! ## Devices and ports -/

@[simp] theorem State.wakeEn_showEnum : wakeEn s.showEnum.regs = wakeEn s.regs := by
  simp +decide [State.showEnum]

@[simp] theorem State.wakeEn_await {a : AttachPos} : wakeEn (s.await a).regs = wakeEn s.regs := by
  simp [State.await]

@[simp] theorem State.wakeEn_showRtt {p : Nat} : wakeEn (s.showRtt p).regs = wakeEn s.regs := by
  simp [State.showRtt]

@[simp] theorem State.wakeEn_detachDev {d : DevRec} {status : Nat} : wakeEn (s.detachDev d status).regs = wakeEn s.regs := by
  unfold State.detachDev
  extract_lets s1 s2 s3
  split <;> simp [s1, s2, s3]

@[simp] theorem State.wakeEn_detachLost {status : Nat} : wakeEn (s.detachLost status).regs = wakeEn s.regs := by
  simp [State.detachLost]

/-- An event that is posted, or held. -/
theorem State.wakeEn_postEvent {g : Nat} {dws : List Word} {reason : Nat} {t : State} (h : s.postEvent g dws reason = some t) :
    wakeEn t.regs = wakeEn s.regs := by
  unfold State.postEvent at h
  split at h
  · cases h
  · split_ifs at h
    cases h
    simp

@[simp] theorem State.wakeEn_topoEvent {e : TopoEvent} : wakeEn (s.topoEvent e).regs = wakeEn s.regs := by
  unfold State.topoEvent
  split
  · extract_lets now tree
    have posted : ∀ t, now = some t → wakeEn t.regs = wakeEn s.regs := fun t h => by
      simp only [now, Option.ite_none_right_eq_some] at h
      exact State.wakeEn_postEvent s h.2
    clear_value now
    cases now with
    | some t => exact posted t rfl
    | none => simp +decide
  · rfl

@[simp] theorem State.wakeEn_puEvent {code cause d6 d7 : Nat} : wakeEn (s.puEvent code cause d6 d7).regs = wakeEn s.regs := by
  unfold State.puEvent
  split
  · extract_lets dws now e
    have posted : ∀ t, now = some t → wakeEn t.regs = wakeEn s.regs := fun t h => by
      simp only [now, Option.ite_none_right_eq_some] at h
      exact State.wakeEn_postEvent s h.2
    clear_value now
    cases now with
    | some t => exact posted t rfl
    | none => simp
  · rfl

@[simp] theorem State.wakeEn_rootEvent {p ev reason : Nat} : wakeEn (s.rootEvent p ev reason).regs = wakeEn s.regs := by
  simp [State.rootEvent]

@[simp] theorem State.wakeEn_toState {p st : Nat} : wakeEn (s.toState p st).regs = wakeEn s.regs := by
  simp [State.toState]

@[simp] theorem State.wakeEn_setLane {n st : Nat} : wakeEn (s.setLane n st).regs = wakeEn s.regs :=
  s.regsBut_setLane n st _ (by
    simp only [stateRegs, Reg.LX_LANE_STATUS, Reg.LX_PRBS_STATUS, Reg.laneBase, Reg.CKG_STATUS, Reg.CKG_REF_EVENTS, Reg.PMU_WAKE_EN, List.mem_cons,
      List.not_mem_nil, or_false]
    omega)

@[simp] theorem State.wakeEn_portSuspend {p : Nat} : wakeEn (s.portSuspend p).regs = wakeEn s.regs := by
  simp [State.portSuspend]

@[simp] theorem State.wakeEn_tmBegins : wakeEn s.tmBegins.regs = wakeEn s.regs := by
  simp [State.tmBegins]

/-! ## The pair and the audit -/

@[simp] theorem State.wakeEn_orderedDown : wakeEn s.orderedDown.regs = wakeEn s.regs := by
  simp +decide [State.orderedDown]

@[simp] theorem State.wakeEn_freeRun : wakeEn s.freeRun.regs = wakeEn s.regs := by
  simp +decide [State.freeRun]

@[simp] theorem State.wakeEn_pairStop : wakeEn s.pairStop.regs = wakeEn s.regs := by
  simp +decide [State.pairStop, State.setRole, State.setPstate, State.joinPhase, State.peerGone]

@[simp] theorem State.wakeEn_stopAudit {a : Audit} : wakeEn (s.stopAudit a).regs = wakeEn s.regs := by
  unfold State.stopAudit
  extract_lets s1 s2 sv s3
  have spares : wakeEn s1.regs = wakeEn s.regs := State.wakeEn_foldl _ fun u n => by simp [State.endSpare, State.quietLane]
  have slots : wakeEn s2.regs = wakeEn s1.regs := State.wakeEn_foldl _ fun u x => by split <;> simp
  have side : s3.regs = s2.regs := by
    simp only [s3]
    split <;> rfl
  simp +decide [State.dropTimers, State.showTimers, side, slots, spares]

@[simp] theorem State.wakeEn_setAudit {a : Option Audit} : wakeEn (s.setAudit a).regs = wakeEn s.regs := by
  cases a <;> simp +decide [State.setAudit]

@[simp] theorem State.wakeEn_closeAudit {a : Audit} {status : Nat} : wakeEn (s.closeAudit a status).regs = wakeEn s.regs := by
  unfold State.closeAudit
  extract_lets m s1 s2
  split <;> simp [s1, s2]

@[simp] theorem State.wakeEn_abortAudit : wakeEn s.abortAudit.regs = wakeEn s.regs := by
  unfold State.abortAudit
  split
  · rfl
  · simp

/-! ## What DORMANT loses -/

@[simp] theorem State.wakeEn_dropBus : wakeEn s.dropBus.regs = wakeEn s.regs := by
  simp [State.dropBus]

@[simp] theorem State.wakeEn_showQ {q : Nat} : wakeEn (s.showQ q).regs = wakeEn s.regs := by
  simp +decide [State.showQ]

@[simp] theorem State.wakeEn_showRelease : wakeEn s.showRelease.regs = wakeEn s.regs := by
  simp +decide [State.showRelease, State.high]

@[simp] theorem State.wakeEn_showLines : wakeEn s.showLines.regs = wakeEn s.regs := by
  simp +decide [State.showLines]

@[simp] theorem State.wakeEn_loseGraph : wakeEn s.loseGraph.regs = wakeEn s.regs := by
  simp +decide [State.loseGraph, State.forAll]

@[simp] theorem State.wakeEn_discardHeld : wakeEn s.discardHeld.regs = wakeEn s.regs := by
  simp +decide [State.discardHeld, State.forAll]

@[simp] theorem State.wakeEn_abandon : wakeEn s.abandon.regs = wakeEn s.regs := by
  simp [State.abandon]

end

end Sys2Proof.Machine

namespace Sys2Proof.Machine

/-! # DORMANT is entered (R106, R269, R341, R444, R453, R455) -/

section
variable (s : State)

/-! ## What is lost -/

/-- The device with its graph, bus and held work lost, before its own units stop. -/
def State.dormantLost : State :=
  let s := if s.role ≠ 0 ∨ s.pstate ≠ 0 then s.pairStop else s
  let s := s.abortAudit
  let ports := s.trunks.filter s.portEnabled
  let s := ports.foldl (fun s p => s.portSuspend p) (s.updPm (fun p => { p with ports := ports }))
  s.dropBus.loseGraph.discardHeld

/-- The parts that the device alone writes until then. -/
theorem State.dormantLost_keeps : s.dormantLost.time = s.time ∧ (∃ l, s.dormantLost.pm = { s.pm with ports := l }) ∧
    wakeEn s.dormantLost.regs = wakeEn s.regs := by
  unfold State.dormantLost
  extract_lets a b ports c
  have stop : Moves [.regs, .tree, .ts, .ebm, .bus, .qe, .bm, .xb, .fn, .mre, .pu, .out] s a :=
    .ite (fun _ => State.pairStop_moves (.refl _ _) (by decide)) (fun _ => .refl _ _)
  have audit : Moves [.regs, .lx, .qe, .bm, .xb, .fn, .gd, .sv, .pu, .ck, .free, .out] a b := State.abortAudit_moves (.refl _ _) (by decide)
  have quiet : Moves [.regs, .lx, .tree, .qe, .fn, .pu, .ck, .out] (b.updPm (fun p => { p with ports := ports })) c :=
    .foldl (.refl _ _) fun _ _ h => State.portSuspend_moves h (by decide)
  have lost : Moves [.regs, .tree, .ts, .ebm, .bus, .mre, .gd, .sv, .qe, .fn, .pu, .out] c c.dropBus.loseGraph.discardHeld :=
    State.discardHeld_moves (State.loseGraph_moves (State.dropBus_moves (.refl _ _) (by decide)) (by decide)) (by decide)
  have enable : wakeEn a.regs = wakeEn s.regs := by simp [a]
  refine ⟨?_, ⟨ports, ?_⟩, ?_⟩
  · rw [lost.time_eq (by decide), quiet.time_eq (by decide), State.updPm_time, audit.time_eq (by decide), stop.time_eq (by decide)]
  · rw [lost.pm_eq (by decide), quiet.pm_eq (by decide), State.updPm_pm, audit.pm_eq (by decide), stop.pm_eq (by decide)]
  · simp [c, State.updPm_regs, b, enable]

theorem State.dropBus_bus : s.dropBus.bus.xfers = [] ∧ s.dropBus.bus.per = [] ∧ s.dropBus.bus.np = [] := by
  unfold State.dropBus
  extract_lets a bus tree ebm b
  have keep : b.showEnum.bus = b.bus := Moves.bus_eq (l := [.regs]) (State.showEnum_moves (.refl _ _) (by decide)) (by decide)
  rw [keep]
  exact ⟨rfl, rfl, rfl⟩

theorem State.loseGraph_lost : s.loseGraph.mre.image = none ∧ s.loseGraph.mre.nodes = [] ∧ s.loseGraph.gd.queue = [] ∧ s.loseGraph.sv.lines = [] := by
  unfold State.loseGraph
  extract_lets gens src mre src' gd sv a b
  have lines : Moves [.regs, .gd] b ((b.forAll (List.range 8) (fun s q => s.showQ q)).showRelease.showLines) :=
    State.showLines_moves (State.showRelease_moves (.foldl (.refl _ _) fun _ _ h => State.showQ_moves h (by decide)) (by decide)) (by decide)
  have shown : Moves [.regs] (b.forAll (List.range 8) (fun s q => s.showQ q)).showRelease
      (b.forAll (List.range 8) (fun s q => s.showQ q)).showRelease.showLines := State.showLines_moves (.refl _ _) (by decide)
  have set : b.mre = a.mre ∧ b.gd = a.gd ∧ b.sv = a.sv := by
    refine ⟨?_, ?_, ?_⟩
    · simp only [b, State.setF_mre, State.setReg_mre, State.setB_mre]
    · simp only [b, State.setF_gd, State.setReg_gd, State.setB_gd]
    · simp only [b, State.setF_sv, State.setReg_sv, State.setB_sv]
  obtain ⟨hm, hg, hs⟩ := set
  have queue : (b.forAll (List.range 8) (fun s q => s.showQ q)).showRelease.gd.queue = b.gd.queue :=
    (State.gd_showRelease DispSt.queue (fun _ _ => rfl) _).trans
      (State.foldl_eq (p := fun u => u.gd.queue) (f := fun s q => s.showQ q) (fun u q => u.gd_showQ DispSt.queue (fun _ _ => rfl) q) _)
  rw [lines.mre_eq (by decide), shown.gd_eq (by decide), lines.sv_eq (by decide), queue, hm, hg, hs]
  exact ⟨rfl, rfl, rfl, rfl⟩

theorem State.discardHeld_lines : s.discardHeld.sv.lines = s.sv.lines := by
  unfold State.discardHeld
  extract_lets cq vf n a b c d tree sv e
  have moves : Moves [.regs, .qe, .fn, .out] s d := by
    refine .foldl (.foldl (.foldl (State.bump_moves (.refl _ s) (by decide)) fun _ _ h => ?_) fun _ _ h => ?_) fun _ _ h => ?_
    · exact State.updCq_moves h (by decide)
    · exact State.updVf_moves h (by decide)
    · exact State.finishIdle_moves h (by decide)
  have last : ∀ g, ((e.setB Reg.SV_STATUS_EVENT_BACKLOG false).updPu g).sv = e.sv := fun g => (State.updPu_sv _ g).trans (State.setB_sv _ _ _)
  rw [last]
  have kept : e.sv.lines = d.sv.lines := rfl
  rw [kept, moves.sv_eq (by decide)]

theorem State.dormantLost_lost : s.dormantLost.bus.xfers = [] ∧ s.dormantLost.bus.per = [] ∧ s.dormantLost.bus.np = [] ∧
    s.dormantLost.mre.image = none ∧ s.dormantLost.mre.nodes = [] ∧ s.dormantLost.gd.queue = [] ∧ s.dormantLost.sv.lines = [] := by
  unfold State.dormantLost
  extract_lets a b ports c
  obtain ⟨xfers, per, np⟩ := c.dropBus_bus
  obtain ⟨image, nodes, queue, lines⟩ := c.dropBus.loseGraph_lost
  have graph : Moves [.regs, .mre, .gd, .sv] c.dropBus c.dropBus.loseGraph := State.loseGraph_moves (.refl _ _) (by decide)
  have held : Moves [.regs, .tree, .qe, .fn, .sv, .pu, .out] c.dropBus.loseGraph c.dropBus.loseGraph.discardHeld :=
    State.discardHeld_moves (.refl _ _) (by decide)
  rw [held.bus_eq (by decide), graph.bus_eq (by decide), held.mre_eq (by decide), held.gd_eq (by decide), State.discardHeld_lines]
  exact ⟨xfers, per, np, image, nodes, queue, lines⟩

/-! ## What stops -/

/-- The timebase and the buffer memory stop, and DORMANT shows. -/
def State.dormantStops : State :=
  let s := s.updPm (fun p => { p with entryAt := none, sleptAt := some s.now, step1At := none, steps := false, dvfs := none, returning := none })
  let s := s.updPu (fun u => { u with switchAt := none })
  let s : State := { s with time := { s.time with run := false }, ebm := { s.ebm with powered := false }
                            fn := { s.fn with lostAt := some s.now } }
  s

/-- What stops, and what does not change with it. -/
theorem State.dormantStops_parts : s.dormantStops.time = { s.time with run := false } ∧ s.dormantStops.ebm.powered = false ∧
    s.dormantStops.fn.lostAt = some s.now ∧ s.dormantStops.regs = s.regs ∧ s.dormantStops.pm = { s.pm with
      entryAt := none, sleptAt := some s.now, step1At := none, steps := false, dvfs := none, returning := none } :=
  ⟨rfl, rfl, rfl, rfl, rfl⟩

theorem State.dormantStops_keeps : s.dormantStops.bus = s.bus ∧ s.dormantStops.mre = s.mre ∧ s.dormantStops.gd = s.gd ∧ s.dormantStops.sv = s.sv :=
  ⟨rfl, rfl, rfl, rfl⟩

/-- The registers that show it. -/
def State.dormantShows : State :=
  let s := ((s.setB Reg.PMU_STATUS_LOGIC_RDY false).setB Reg.PMU_STATUS_MEM_RDY false).setB Reg.PMU_STATUS_OSC_RDY false
  let s := ((s.setB Reg.PMU_STATUS_PWR_RDY false).setB Reg.PMU_DVFS_STATUS_BUSY false).setF Reg.PMU_STATUS_STATE 3
  let s := ((s.setB Reg.TS_STATUS_SATIN_WALK false).setB Reg.SV_STATUS_SATIN_MODE false).setB Reg.MRE_STATUS_P0_ONLY false
  ((s.setB Reg.HIF_STATUS_LINK_UP false).setF Reg.HIF_LINK_STATUS_SPEED 0).setF Reg.HIF_LINK_STATUS_WIDTH 0

/-- The link's work is given up, and the request ends. -/
def State.dormantEnds : State := (s.abandon.updCk (fun c => { c with cascade := false, miodel := false })).endRequest St.ok

theorem State.enterDormant_eq : s.enterDormant = s.dormantLost.dormantStops.dormantShows.dormantEnds.wakeLate := rfl

theorem State.dormantShows_moved : Moves [.regs] s s.dormantShows := by
  unfold State.dormantShows
  extract_lets a b c
  have ha : Moves [.regs] s a := State.setB_moves (State.setB_moves (State.setB_moves (.refl _ s) (by decide)) (by decide)) (by decide)
  have hb : Moves [.regs] s b := State.setF_moves (State.setB_moves (State.setB_moves ha (by decide)) (by decide)) (by decide)
  have hc : Moves [.regs] s c := State.setB_moves (State.setB_moves (State.setB_moves hb (by decide)) (by decide)) (by decide)
  exact State.setF_moves (State.setF_moves (State.setB_moves hc (by decide)) (by decide)) (by decide)

theorem State.dormantShows_fields : s.dormantShows.f Reg.PMU_STATUS_STATE = 3 ∧ s.dormantShows.flag Reg.HIF_STATUS_LINK_UP = false ∧
    s.dormantShows.flag Reg.PMU_STATUS_PWR_RDY = false ∧ s.dormantShows.flag Reg.PMU_STATUS_OSC_RDY = false ∧
    s.dormantShows.flag Reg.PMU_STATUS_MEM_RDY = false ∧ s.dormantShows.flag Reg.PMU_STATUS_LOGIC_RDY = false := by
  simp (disch := decide) only [State.dormantShows, State.f_setF_apart, State.f_setB_apart, State.flag_setF_apart, State.flag_setB_apart,
    State.f_setF_same, State.flag_setB_same]
  decide

@[simp] theorem State.wakeEn_dormantShows : wakeEn s.dormantShows.regs = wakeEn s.regs := by
  simp +decide [State.dormantShows]

/-- What an engine shows lies among the block movers' registers. -/
theorem State.regsBut_setEngine (e : Nat) (r : EngRec) : s.regsBut [Reg.BM_STATUS, Reg.BM_ENG_STATUS e] (s.setEngine e r) := by
  unfold State.setEngine
  extract_lets bm a b c d
  have ha : s.regsBut [Reg.BM_STATUS, Reg.BM_ENG_STATUS e] a := (State.regsBut.refl _ s).keep rfl
  have hb : s.regsBut [Reg.BM_STATUS, Reg.BM_ENG_STATUS e] b := ha.setF _ (.head _)
  have hc : s.regsBut [Reg.BM_STATUS, Reg.BM_ENG_STATUS e] c := hb.setB _ (.tail _ (.head _))
  have hd : s.regsBut [Reg.BM_STATUS, Reg.BM_ENG_STATUS e] d := by
    simp only [d]
    split
    · exact hc.setF _ (.tail _ (.head _))
    · exact hc
  exact hd.setF _ (.tail _ (.head _))

/-- Work that is given up shows in the block movers' registers alone. -/
theorem State.abandon_reg {a : Nat} (low : a < 0x500000) : s.abandon.reg a = s.reg a := by
  have engine : ∀ (u : State) (x : Nat × EngRec),
      (u.setEngine x.1 { x.2 with reqs := [], holder := none, fetched := none }).reg a = u.reg a := fun u x =>
    u.regsBut_setEngine x.1 _ a (by
      simp only [Reg.BM_STATUS, Reg.BM_ENG_STATUS, Reg.engineBase, List.mem_cons, List.not_mem_nil, or_false]
      omega)
  unfold State.abandon
  extract_lets b c d qe
  have sqs : Moves [.qe] s b := .foldl (.refl _ s) fun _ _ h => .ite (fun _ => State.keepDoorbell_moves h (by decide)) (fun _ => h)
  have cqs : Moves [.qe] b c := .foldl (.refl _ b) fun _ _ h => .ite (fun _ => State.keepDoorbell_moves h (by decide)) (fun _ => h)
  have engines : d.reg a = c.reg a := State.foldl_eq (p := fun u => u.reg a) engine _
  refine Eq.trans (b := d.reg a) rfl (engines.trans ?_)
  rw [State.reg, cqs.regs_eq (by decide), sqs.regs_eq (by decide), State.reg]

theorem State.abandon_moved : Moves [.regs, .qe, .bm] s s.abandon := State.abandon_moves (.refl _ s) (by decide)

theorem State.dormantEnds_moved : Moves [.regs, .qe, .bm, .ck, .pm] s s.dormantEnds := by
  unfold State.dormantEnds
  refine State.endRequest_moves ?_ (by decide)
  exact State.updCk_moves (State.abandon_moves (.refl _ s) (by decide)) (by decide) id

/-- The end of the request changes none of the other registers below the block movers'. -/
theorem State.dormantEnds_reg {a : Nat} (low : a < 0x500000) (req : a ≠ Reg.PMU_REQ_STATUS) : s.dormantEnds.reg a = s.reg a := by
  unfold State.dormantEnds
  rw [State.regsBut_endRequest _ _ a (by simpa using req), State.reg, State.regs_updCk, ← State.reg, s.abandon_reg low]

theorem State.dormantEnds_pm : s.dormantEnds.pm = { s.pm with entryAt := none, alertDone := true } := by
  unfold State.dormantEnds
  rw [State.endRequest_pm, State.updCk_pm, s.abandon_moved.pm_eq (by decide)]

/-! ## A wake that waited for the entry (R444) -/

/-- What a late wake leaves of a device in DORMANT. -/
theorem State.wakeLate_dormant (asleep : s.inDormant = true) (fresh : s.pm.returning = none) : s.regsBut wakeRegs s.wakeLate ∧
    s.wakeLate.pm.sleptAt = s.pm.sleptAt ∧ s.wakeLate.fn = s.fn ∧
    ∀ w, s.pm.lateWake = some w → s.wakeEnabled w = true → s.wakeLate.pm.returning = some (wakeCode w) ∧ s.wakeLate.pm.lateWake = none := by
  unfold State.wakeLate
  split
  next w late =>
    have regs : ∀ g, (s.updPm g).regs = s.regs := fun g => State.updPm_regs s g
    have same : (s.updPm (fun p => { p with lateWake := none })).inDormant = true := by
      rw [State.inDormant, State.f_of_regs (regs _)]
      exact asleep
    generalize hu : s.updPm (fun p => { p with lateWake := none }) = u at same
    have upm : u.pm = { s.pm with lateWake := none } := by rw [← hu, State.updPm_pm]
    have uregs : u.regs = s.regs := by rw [← hu, regs]
    have ufn : u.fn = s.fn := by rw [← hu, State.updPm_fn]
    have none_ : u.pm.returning = none := by rw [upm]; exact fresh
    have enabled : ∀ v, u.wakeEnabled v = s.wakeEnabled v := fun v => by
      cases v <;> simp only [State.wakeEnabled, State.flag_of_regs uregs]
    by_cases en : u.wakeEnabled w = true
    · have woken := State.wake_of_dormant en same none_
      have log : Moves [.regs, .pm] (u.updPm (fun p => { p with returning := some (wakeCode w) })) (u.wake w) := by
        rw [woken]
        exact State.logWake_moves (.refl _ _) (by decide)
      refine ⟨?_, ?_, ?_, fun v hv hen => ?_⟩
      · rw [woken]
        exact ((State.regsBut.refl wakeRegs s).keep ((State.updPm_regs u _).trans uregs)).trans (State.regsBut_logWake _ _ _)
      · rw [woken, State.logWake_pm, State.updPm_pm, upm]
      · rw [log.fn_eq (by decide), State.updPm_fn, ufn]
      · obtain rfl : w = v := Option.some.inj (late.symm.trans hv)
        rw [woken, State.logWake_pm, State.updPm_pm, upm]
        exact ⟨rfl, rfl⟩
    · have stays : u.wake w = u := if_neg en
      rw [stays, upm, ufn]
      refine ⟨(State.regsBut.refl _ s).keep uregs, rfl, rfl, fun v hv hen => ?_⟩
      obtain rfl : w = v := Option.some.inj (late.symm.trans hv)
      exact absurd ((enabled w).trans hen) en
  next none_ => exact ⟨.refl _ s, rfl, rfl, fun w hw _ => by rw [none_] at hw; cases hw⟩

theorem State.wakeEnabled_of_wakeEn {t : State} (h : wakeEn t.regs = wakeEn s.regs) (w : WakeSource) : t.wakeEnabled w = s.wakeEnabled w := by
  have flag : ∀ x : Fld, x.addr = Reg.PMU_WAKE_EN → t.flag x = s.flag x := fun x hx => by
    rw [State.flag, State.f, hx, show t.reg Reg.PMU_WAKE_EN = s.reg Reg.PMU_WAKE_EN from h, State.flag, State.f, hx]
  cases w
  case request => rfl
  all_goals exact flag _ rfl

/-! ## The command -/

/-- The device in DORMANT, before a wake that waited begins the return. -/
def State.dormantNow : State := s.dormantLost.dormantStops.dormantShows.dormantEnds

theorem State.dormantNow_moved : Moves [.regs, .qe, .bm, .ck, .pm] s.dormantLost.dormantStops s.dormantNow :=
  (s.dormantLost.dormantStops.dormantShows_moved.mono (by decide)).step (State.dormantEnds_moved _) (by decide)

theorem State.dormantNow_reg {x : Fld} (low : x.addr < 0x500000) (req : x.addr ≠ Reg.PMU_REQ_STATUS) :
    s.dormantNow.f x = s.dormantLost.dormantStops.dormantShows.f x := by
  rw [State.f, State.dormantNow, State.dormantEnds_reg _ low req, State.f]

theorem State.dormantNow_flag {x : Fld} (low : x.addr < 0x500000) (req : x.addr ≠ Reg.PMU_REQ_STATUS) :
    s.dormantNow.flag x = s.dormantLost.dormantStops.dormantShows.flag x := by
  rw [State.flag, s.dormantNow_reg low req, State.flag]

theorem State.dormantNow_asleep : s.dormantNow.inDormant = true := by
  rw [State.inDormant, s.dormantNow_reg (by decide) (by decide), s.dormantLost.dormantStops.dormantShows_fields.1]
  rfl

theorem State.dormantNow_pm : ∃ l, s.dormantNow.pm = { s.pm with
    ports := l, entryAt := none, sleptAt := some s.now, step1At := none, steps := false, dvfs := none, returning := none, alertDone := true } := by
  obtain ⟨time, ⟨l, pm⟩, -⟩ := s.dormantLost_keeps
  obtain ⟨-, -, -, -, stops⟩ := s.dormantLost.dormantStops_parts
  refine ⟨l, ?_⟩
  rw [State.dormantNow, State.dormantEnds_pm, (State.dormantShows_moved _).pm_eq (by decide), stops, pm, State.now, time, State.now]

theorem State.dormantNow_wakeEnabled (w : WakeSource) : s.dormantNow.wakeEnabled w = s.wakeEnabled w := by
  refine State.wakeEnabled_of_wakeEn s ?_ w
  have ends : wakeEn s.dormantNow.regs = wakeEn s.dormantLost.dormantStops.dormantShows.regs :=
    State.dormantEnds_reg s.dormantLost.dormantStops.dormantShows (by decide) (by decide)
  obtain ⟨-, -, -, same, -⟩ := s.dormantLost.dormantStops_parts
  rw [ends, State.wakeEn_dormantShows, same, s.dormantLost_keeps.2.2]

/-- The request for DORMANT is done. -/
theorem State.dormantNow_request : s.dormantNow.flag Reg.PMU_REQ_STATUS_BUSY = false ∧ s.dormantNow.flag Reg.PMU_REQ_STATUS_DONE = true ∧
    s.dormantNow.f Reg.PMU_REQ_STATUS_STATUS = St.ok := State.endRequest_shows _ St.ok

theorem State.dormantEntry_meets {m : Nat} (pend : s.dormantPending = true) (at_ : s.pm.entryAt = some m) (le : m ≤ s.mfN)
    (awake : s.inDormant = false) : answers .dormantEntry s (fun t => t.inDormant = true ∧ t.time.run = false ∧ t.time.mf = s.time.mf ∧
      t.ebm.powered = false ∧ t.bus.xfers = [] ∧ t.bus.per = [] ∧ t.bus.np = [] ∧ t.mre.image = none ∧ t.mre.nodes = [] ∧ t.gd.queue = [] ∧
      t.sv.lines = [] ∧ t.pm.sleptAt = some s.now ∧ t.fn.lostAt = some s.now ∧ t.flag Reg.HIF_STATUS_LINK_UP = false ∧
      t.flag Reg.PMU_STATUS_PWR_RDY = false ∧ t.flag Reg.PMU_STATUS_OSC_RDY = false ∧ t.flag Reg.PMU_STATUS_MEM_RDY = false ∧
      t.flag Reg.PMU_STATUS_LOGIC_RDY = false ∧ t.flag Reg.PMU_REQ_STATUS_BUSY = false ∧ t.flag Reg.PMU_REQ_STATUS_DONE = true ∧
      t.f Reg.PMU_REQ_STATUS_STATUS = St.ok ∧
      (∀ w, s.pm.lateWake = some w → s.wakeEnabled w = true → t.pm.returning = some (wakeCode w) ∧ t.pm.lateWake = none)) := by
  have enters : s.enterDormant = s.dormantNow.wakeLate := s.enterDormant_eq
  refine answers_eq rfl ((if_pos (by simp [pend, at_, le, awake])).trans enters) ?_
  obtain ⟨l, pm⟩ := s.dormantNow_pm
  obtain ⟨regs, slept, fn, late⟩ := s.dormantNow.wakeLate_dormant s.dormantNow_asleep (by rw [pm])
  obtain ⟨xfers, per, np, image, nodes, queue, lines⟩ := s.dormantLost_lost
  obtain ⟨-, link, pwr, osc, mem, logic⟩ := s.dormantLost.dormantStops.dormantShows_fields
  obtain ⟨busy, done, status⟩ := s.dormantNow_request
  have time := s.dormantLost_keeps.1
  have moves : Moves [.regs, .qe, .bm, .ck, .pm, .fn, .pu, .out] s.dormantLost.dormantStops s.dormantNow.wakeLate :=
    State.wakeLate_moves (s.dormantNow_moved.mono (by decide)) (by decide)
  obtain ⟨stopped, powered, lost, -, -⟩ := s.dormantLost.dormantStops_parts
  obtain ⟨bus, mre, gd, sv⟩ := s.dormantLost.dormantStops_keeps
  refine ⟨?_, ?_, ?_, ?_, ?_, ?_, ?_, ?_, ?_, ?_, ?_, slept.trans (by rw [pm]), ?_, (regs.flag (by decide)).trans ((s.dormantNow_flag (by decide) (by decide)).trans link),
    (regs.flag (by decide)).trans ((s.dormantNow_flag (by decide) (by decide)).trans pwr),
    (regs.flag (by decide)).trans ((s.dormantNow_flag (by decide) (by decide)).trans osc),
    (regs.flag (by decide)).trans ((s.dormantNow_flag (by decide) (by decide)).trans mem),
    (regs.flag (by decide)).trans ((s.dormantNow_flag (by decide) (by decide)).trans logic),
    (regs.flag (by decide)).trans busy, (regs.flag (by decide)).trans done, (regs.f (by decide)).trans status, fun w hw en => ?_⟩
  · rw [State.inDormant, regs.f (x := Reg.PMU_STATUS_STATE) (by decide)]
    exact s.dormantNow_asleep
  · rw [moves.time_eq (by decide), stopped]
  · rw [moves.time_eq (by decide), stopped, time]
  · rw [moves.ebm_eq (by decide), powered]
  · rw [moves.bus_eq (by decide), bus, xfers]
  · rw [moves.bus_eq (by decide), bus, per]
  · rw [moves.bus_eq (by decide), bus, np]
  · rw [moves.mre_eq (by decide), mre, image]
  · rw [moves.mre_eq (by decide), mre, nodes]
  · rw [moves.gd_eq (by decide), gd, queue]
  · rw [moves.sv_eq (by decide), sv, lines]
  · rw [fn, s.dormantNow_moved.fn_eq (by decide), lost, State.now, time, State.now]
  · exact late w (by rw [pm]; exact hw) ((s.dormantNow_wakeEnabled w).trans en)

end

/-- Settles O44: SATIN sets its fields and each lane of an ENABLED port that carries traffic falls quiet, lanes turn on behind the markers that they
owe, and DORMANT loses what is not retained while a wake that waited begins the return. -/
theorem sleepStatesAreEntered : Obligations.SleepStatesAreEntered := by
  unfold Obligations.SleepStatesAreEntered
  refine ⟨fun s => ⟨fun due => s.satinEntry_meets due, fun m satin at_ le => s.satinStep1_meets satin at_ le, fun steps satin dorm => ?_⟩,
    fun s m pend at_ le awake => s.dormantEntry_meets pend at_ le awake⟩
  exact s.satinStep2_meets steps satin dorm

end Sys2Proof.Machine
